-- ==== Sys2Proof/Word.lean ====
section
/-! DEFINITION. The word types of the block: register words, names of resources, byte strings, and sparse tables keyed
by a number. -/

namespace Sys2Proof

/-- One byte. -/
abbrev Byte := BitVec 8
/-- A register word (R599). -/
abbrev Word := BitVec 32
/-- A byte string, first byte first (R6, R160). -/
abbrev Bytes := List Byte
/-- A memory line of 64 bytes; byte b is bits [8b+7:8b] (R217). -/
abbrev Line := BitVec 512
/-- A device physical address (R217). -/
abbrev Dpa := BitVec 43
/-- A function number: 0 the PF, 1 to 255 a VF (Table 2-3). -/
abbrev Fn := BitVec 8
/-- A context number (R456). -/
abbrev CtxId := BitVec 10
/-- A link number (Table 1-2). -/
abbrev LinkId := BitVec 6
/-- A memory channel number (Table 1-2). -/
abbrev ChanId := BitVec 5
/-- A domain slot (R19). -/
abbrev Slot := BitVec 3
/-- A memory key index; 0 is the clear key (R224). -/
abbrev KeyIdx := BitVec 4
/-- A traffic class TC0 to TC3 (Table 9-4). -/
abbrev Cls := BitVec 2
/-- A program slot (R321). -/
abbrev ProgId := BitVec 8
/-- A virtual device (R504). -/
abbrev VdId := BitVec 6
/-- A member index; bits [19:17] are the hall (R17). -/
abbrev Member := BitVec 20
/-- A logical key store row; 0 to 2,832 are rows (R185). -/
abbrev RowId := BitVec 12
/-- An engine of Table 18-1; 0 to 101 are engines. -/
abbrev EngineId := BitVec 7

/-- A sparse table: keys strictly rising, no entry equal to the default of the table. -/
abbrev Tab (α : Type) := List (Nat × α)

/-- The value a table holds at a key, the default where the key is not listed. -/
def Tab.get {α : Type} (d : α) : Tab α → Nat → α
  | [], _ => d
  | (k, v) :: t, n => if k = n then v else Tab.get d t n

/-- Enter a value at a key of a rising table. -/
def Tab.insert {α : Type} : Tab α → Nat → α → Tab α
  | [], n, v => [(n, v)]
  | (k, w) :: t, n, v =>
    if n < k then (n, v) :: (k, w) :: t
    else if n = k then (n, v) :: t
    else (k, w) :: Tab.insert t n v

/-- Set the value at a key; a default value removes the entry. -/
def Tab.set {α : Type} [DecidableEq α] (d : α) (t : Tab α) (n : Nat) (v : α) : Tab α :=
  if v = d then t.filter fun e => e.1 != n else Tab.insert t n v

/-- Apply a function to every listed entry, an unlisted entry staying the default, and drop what became the default. -/
def Tab.mapAll {α : Type} [DecidableEq α] (d : α) (f : Nat → α → α) (t : Tab α) : Tab α :=
  t.filterMap fun e => if f e.1 e.2 = d then none else some (e.1, f e.1 e.2)

/-- The keys at least `b` of a table rise strictly and no entry is the default. -/
def Tab.wfFrom {α : Type} [DecidableEq α] (d : α) : Nat → Tab α → Bool
  | _, [] => true
  | b, (k, v) :: t => decide (b ≤ k) && decide (v ≠ d) && Tab.wfFrom d (k + 1) t

/-- A table is in canonical form. -/
def Tab.wf {α : Type} [DecidableEq α] (d : α) (t : Tab α) : Bool := Tab.wfFrom d 0 t

/-- Saturating increment of a counter field to its largest value. -/
def satInc {w : Nat} (x : BitVec w) : BitVec w := if x = BitVec.allOnes w then x else x + 1

/-- Bit `i` of a bit map set to `b`. -/
def setBitTo {w : Nat} (x : BitVec w) (i : Nat) (b : Bool) : BitVec w :=
  if b then x ||| (BitVec.ofNat w (2 ^ i)) else x &&& ~~~ (BitVec.ofNat w (2 ^ i))

/-- The hall of a member index (R17). -/
def hallOf (m : Member) : BitVec 3 := m.extractLsb' 17 3

end Sys2Proof
end

