-- ==== Sys2Proof/Syntax.lean ====
section
/-! DEFINITION. The commands the block takes: one constructor of `Instr` per row of the table of operations and
events, with the values the surroundings (or a timer or sensor of the block) supply in that step as operands. -/

namespace Sys2Proof

/-- The straps sampled at the rising edge of por_b (Table 2-19). -/
structure Straps where
  roleSel : BitVec 1
  refSettle : BitVec 3
  flashMode : BitVec 1
  trayAddr : BitVec 2
  deriving DecidableEq, Repr

/-- A controller's answer on a memory channel port (Table 2-5): status of Table 2-6, line and side bits. -/
structure McRsp where
  status : BitVec 2
  rdata : Line
  rside : BitVec 32
  deriving DecidableEq, Repr

/-- The masters that reach memory (Table 8-4). -/
inductive Master where
  | ctx (c : CtxId)
  /-- the reduction engine acting for a context, for an iteration of a program slot -/
  | program (c : CtxId) (p : ProgId) (iter : BitVec 32)
  | staging (c : CtxId)
  | fabric (s : Slot)
  | trustCore
  | sweep
  | debug
  | other
  deriving DecidableEq, Repr

/-- A lane cluster (Table 1-5). -/
inductive ClusterId where
  | mc (n : ChanId)
  | lk (n : LinkId)
  | svc
  deriving DecidableEq, Repr

/-- The three regions (R16). -/
inductive Region where
  | mem
  | link
  | svc
  deriving DecidableEq, Repr

/-- What a full-load self-exercise found in one region (R98, R99). -/
structure RegionExercise where
  mFull : BitVec 4
  /-- v_full in units of 2.5 mV above 0.500 V, the unit of droop_thr (Table 3-9) -/
  vFull : Nat
  /-- a soak step stayed throttled after 3 repeats (R99) -/
  throttled : Bool
  deriving DecidableEq, Repr

/-- What flash returns for one image slot (Table 4-2): the header as first read, the bytes as copied, and the two
signature verdicts the public-key engine finds on the copy (R120 checks 4 and 5). -/
structure FlashSlot where
  header : Bytes
  image : Bytes
  deriving DecidableEq, Repr

/-- What a start meets in the silicon and at the flash port (Table 4-1). -/
structure StartEnv where
  /-- the mask ROM bytes hashed in step 3 -/
  rom : Bytes
  /-- step 3: the lockstep pair mismatches; and the cold spare core mismatches too -/
  coreMismatch : Bool
  coldMismatch : Bool
  /-- step 4: physical OTP rows whose word no ECC corrects -/
  otpBad : List (BitVec 7)
  /-- step 5: mask ROM, script SRAM or key store not repairable; another memory not repairable; SRAM spares used -/
  bistFatal : Bool
  bistOther : Bool
  sramSpare : Bool
  /-- step 5: key store rows failing self-test (R187) -/
  keyRowsBad : List RowId
  /-- step 6: lanes failing the known-answer or comparator test (R124) -/
  laneFails : List (ClusterId × BitVec 5)
  /-- step 7: the public-key engine passes its known-answer tests (R125) -/
  pkeOk : Bool
  /-- step 9 -/
  exMem : RegionExercise
  exLink : RegionExercise
  exSvc : RegionExercise
  /-- step 10 -/
  slot0 : FlashSlot
  slot1 : FlashSlot
  deviceRecord : Bytes
  /-- step 13: the bits of the rollback counter that stay 0 when programmed, or that power loss leaves so (R109, R122) -/
  otpStuck : BitVec 64
  /-- step 15: the enables the trust-core firmware sets -/
  enArea : BitVec 10
  enPort : BitVec 6
  enMc : BitVec 32
  enLink : BitVec 64
  /-- step 15: KX_MC_LINES of each channel, line count over 4,096 (R254) -/
  mcLines : BitVec 21
  /-- time in µs from t0 to t_run (R132) -/
  bootUs : Nat
  /-- step 15: the sealed state the firmware restores, and the state it seals (R578) -/
  toRestore : Option Bytes
  toSeal : Option Bytes
  deriving DecidableEq, Repr

/-- A unit of 16 bytes as a link port receives it (Table 2-7, R49): lk_rx_uvalid, lk_rx_sog, lk_rx_bad and its bytes, byte
0 the lowest. -/
structure RxUnit where
  valid : Bool
  sog : Bool
  bad : Bool
  data : BitVec 128
  deriving DecidableEq, Repr

/-- A received group as its units frame it (R49, R50): header, payload bytes, tag unit and what the flags said. -/
structure RxGroup where
  header : BitVec 128
  payload : Bytes
  tag : BitVec 128
  /-- a unit has lk_rx_bad high -/
  bad : Bool
  /-- sog is high on a unit before the group has ended by its length -/
  sogEarly : Bool
  /-- the units end before the group does: lk_up fell, or the clock was forced (R51) -/
  cut : Bool
  deriving DecidableEq, Repr

/-- A group a context asks to send (TC1 to TC3, Table 9-4). -/
structure TxReq where
  ctx : CtxId
  dest : BitVec 2
  dstCtx : BitVec 10
  payload : Bytes
  deriving DecidableEq, Repr

/-- The 36-byte prefix of an Agreement message (Table 9-10), its reserved bytes being checked by `reservedZero`. -/
structure AgrPrefix where
  version : Byte
  reservedZero : Bool
  attempt : BitVec 32
  domainId : Bytes
  fromMember : BitVec 32
  fromLink : Byte
  fromSlot : Byte
  toMember : BitVec 32
  toLink : Byte
  /-- the reassembled bytes of the whole message, prefix included (R280) -/
  raw : Bytes
  deriving DecidableEq, Repr

/-- HELLO and REPLY bodies (Table 9-11); a REPLY has the signature block. -/
structure AgrBody where
  nonce : Bytes
  kem : Bytes
  ecdh : Bytes
  cert : Bytes
  token : Bytes
  sig : Bytes
  /-- lengths exactly those of Table 9-11 -/
  lengthsOk : Bool
  deriving DecidableEq, Repr

/-- A Tense message body (Table 6-4). -/
structure TenseMsg where
  cls : Byte
  dir : Byte
  gen : BitVec 32
  kcTag : BitVec 128
  reservedZero : Bool
  deriving DecidableEq, Repr

/-- A mailbox request header (R472) as Korux reads it from host memory, and whether the DMA read succeeded (R473). -/
structure MbxHdr where
  fn : Fn
  tag : BitVec 64
  statusField : BitVec 16
  bodyLen : Nat
  /-- every byte and bit the command's layout marks reserved is 0 -/
  reservedZero : Bool
  dmaOk : Bool
  deriving DecidableEq, Repr

/-- A host DMA read: its status (Table 2-12) and its bytes. -/
structure DmaData where
  status : BitVec 2
  data : Bytes
  deriving DecidableEq, Repr

/-- The answers that one copied command of a suspect replay meets: host reads and controller answers (R529). -/
structure DryAnswers where
  host : List DmaData
  rsps : List McRsp
  deriving DecidableEq, Repr

/-- How the replay of the suspect under test on an engine ended: the answers that its copied commands met (R529). -/
structure ReplayEnd where
  engine : EngineId
  answers : List DryAnswers
  deriving DecidableEq, Repr

/-- A lane whose pair was compared: its output, its checker's and whether the code word of its round counter held (R193). -/
structure LaneCheck where
  lane : BitVec 5
  outA : BitVec 128
  outB : BitVec 128
  codeOk : Bool
  deriving DecidableEq, Repr

/-- A debug grant, and whether the forced domain exit it brings completes within the row (Table 5-6, R157). -/
structure UnlockTry where
  grant : Bytes
  completes : Bool
  deriving DecidableEq, Repr

/-- What an end-of-life transition meets: whether its Colon completes, and role_sel at the Full Stop (R73, R141, R142). -/
structure EndPins where
  completes : Bool
  roleSel : BitVec 1
  deriving DecidableEq, Repr

/-- What a function enable write names (Tables 3-5 to 3-7). -/
inductive EnTarget where
  | area (b : BitVec 4)
  | port (b : BitVec 3)
  | mc (n : ChanId)
  | link (n : LinkId)
  | fn (f : Fn)
  deriving DecidableEq, Repr

/-- The route header of a routed TC0 message (Table 13-2) with its transfer number (R361). -/
structure Route where
  dst : Member
  src : Member
  hops : Byte
  scope : Byte
  hall : Byte
  transfer : BitVec 32
  deriving DecidableEq, Repr

/-- A HALT or HALT_RELEASE body (Table 13-4). -/
structure HaltMsg where
  classes : Byte
  scope : Byte
  reason : Byte
  duration : BitVec 16
  reservedZero : Bool
  deriving DecidableEq, Repr

/-- TIME_REQ and TIME_RESP body (Table 13-5). -/
structure TimeMsg where
  stratum : Byte
  seq : BitVec 16
  t2 : BitVec 64
  t3prev : BitVec 64
  reservedZero : Bool
  deriving DecidableEq, Repr

/-- A fabric record header (Table 14-1) with its data line. -/
structure FabRec where
  op : Byte
  status : BitVec 4
  tag : BitVec 16
  line : BitVec 36
  mask : BitVec 64
  data : Line
  deriving DecidableEq, Repr

/-- FORM_HELLO's fields after the slot (Table 12-5). -/
structure FormHello where
  slot : Slot
  nonce : Bytes
  kem : Bytes
  ecdh : Bytes
  member : BitVec 32
  proof : Bytes
  record : Bytes
  /-- the whole request body, for the transcript (R357) -/
  raw : Bytes
  deriving DecidableEq, Repr

/-- HA_HELLO's fields (Table 16-3). -/
structure HaHello where
  slot : Byte
  sessionId : BitVec 32
  nonce : Bytes
  kem : Bytes
  ecdh : Bytes
  grant : Bytes
  raw : Bytes
  deriving DecidableEq, Repr

/-- JOIN_REQUEST (Table 12-9). -/
structure JoinRequest where
  domainId : Bytes
  member : BitVec 32
  nonce : Bytes
  idKeys : Bytes
  proof : Bytes
  cert : Bytes
  ekA : Bytes
  xA : Bytes
  ekB : Bytes
  xB : Bytes
  lengthsOk : Bool
  raw : Bytes
  deriving DecidableEq, Repr

/-- JOIN_GRANT (Table 12-9). -/
structure JoinGrant where
  ctA : Bytes
  yA : Bytes
  ctB : Bytes
  yB : Bytes
  epoch : BitVec 32
  wrappedMember : Bytes
  wrappedDcs : Bytes
  token : Bytes
  record : Bytes
  /-- the manager key list: member index and alias_digest of each candidate reached (R370) -/
  keyList : List (Member × Bytes)
  manager : Member
  mgrIdKeys : Bytes
  mgrCert : Bytes
  sigG : Bytes
  /-- JOIN_GRANT without sig_g (R372) -/
  rawCore : Bytes
  deriving DecidableEq, Repr

/-- JOIN_INVITE (Table 12-9). -/
structure JoinInvite where
  domainId : Bytes
  hall : Byte
  manager : Member
  parent : Member
  parentLink : Byte
  drDigest : Bytes
  reservedZero : Bool
  deriving DecidableEq, Repr

/-- COUNT_RESULT: the votes a part holds (R387). -/
structure CountResult where
  round : BitVec 32
  halls : BitVec 8
  verifier : Bool
  deriving DecidableEq, Repr

/-- REJOIN_REQ and REJOIN_GRANT (R391). -/
structure RejoinMsg where
  domainId : Bytes
  epoch : BitVec 32
  round : BitVec 32
  halls : BitVec 8
  token : Bytes
  cert : Bytes
  sig : Bytes
  body : Bytes
  deriving DecidableEq, Repr

/-- A Roster row as a message carries it (R380): the slot's virtual devices, and link, partner, partner's link and link state
(Table 9-13) of each entry. -/
structure RosterRow where
  vds : BitVec 64
  links : List (LinkId × Member × LinkId × BitVec 3)
  deriving DecidableEq, Repr

/-- CENSUS_SYNC (R365): a census or Roster change at a candidate, or a candidate's confirmation of one. -/
structure SyncMsg where
  sender : Member
  /-- the member the change is about -/
  member : Member
  /-- the message confirms the change, and names it -/
  confirm : Bool
  /-- a Roster change: the row's version and the row; absent in a census change -/
  roster : Option (BitVec 32 × RosterRow)
  deriving DecidableEq, Repr

/-- A HANDDOWN: one key wrapped under R170. -/
structure Handdown where
  /-- 0 DRS, 1 hall secret, 2 DCS, 3 member secret (Table 6-1, kind) -/
  kind : BitVec 2
  ct : Bytes
  y : Bytes
  wrapped : Bytes
  sender : Member
  /-- the transcript digest of the exchange (R161) -/
  th : Bytes
  /-- the receiver's ephemeral private parts are those of this transfer -/
  transfer : BitVec 32
  deriving DecidableEq, Repr

/-- Measured values of one energy interval (R559): µJ·2^-16 units of dynamic and static energy. -/
structure EnergySample where
  dynamic : Nat
  static : Nat
  deriving DecidableEq, Repr

/-- The rails that carry a current limit (Table 19-1). -/
inductive Rail where
  | vkx
  | vkm
  deriving DecidableEq, Repr

/-- A command of the table of operations and events; the docstring of each meaning cites the rules. -/
inductive Instr where
  -- power, reset and start
  | porBRise (straps : Straps) (refclkOk : Bool)
  | porBFall
  | sysRstBPulse (roleSel : BitVec 1)
  | refclkLost (roleSel : BitVec 1)
  | refclkReturn (env : StartEnv)
  | referenceSettleDelayEnd (env : StartEnv)
  | fullStopDone (env : StartEnv)
  | resetWatchdogExpiry (level : BitVec 3) (target : BitVec 10) (roleSel : BitVec 1)
  | resetReqComma (target : CtxId) (completes : Bool)
  | resetReqSemicolon (target : BitVec 10) (completes : Bool)
  | resetReqColon (target : BitVec 10) (completes : Bool)
  | resetReqFullStop (confirm : BitVec 16) (target : BitVec 10) (roleSel : BitVec 1)
  | registerWrite (fn : Fn) (write : Bool) (addr : BitVec 24) (data : Word)
  | dbgAccess (write : Bool) (addr : BitVec 24) (data : Word)
  -- memory channels
  | memReadRequest (m : Master) (key : KeyIdx) (dpa : Dpa)
  | memWriteRequest (m : Master) (key : KeyIdx) (dpa : Dpa) (data : Line)
  | memPartialWrite (m : Master) (key : KeyIdx) (dpa : Dpa) (mask : BitVec 64) (data : Line) (atomic : Bool) (rsp : McRsp)
  | mcResponse (ch : ChanId) (sub : BitVec 2) (id : BitVec 6) (rsp : McRsp)
  | mcClkLost (ch : ChanId)
  | mcClkRelock (ch : ChanId)
  | sweepStart (idx : KeyIdx)
  | sweepLine (idx : KeyIdx) (ch : ChanId) (rsp : McRsp)
  | sweepUrgent (idx : KeyIdx)
  -- links
  /-- both port clocks are qualified by then, lk_rx_clk at a frequency in MHz (R86, R87) -/
  | lkUpRise (l : LinkId) (qualified : Option (BitVec 11))
  | lkUpFall (l : LinkId)
  | linkClockStall (l : LinkId) (tx : Bool)
  | linkClockQualified (l : LinkId) (rxFreq : BitVec 11)
  | lkTxCredit (l : LinkId) (c : Cls)
  | receiveGroup (l : LinkId) (units : List RxUnit) (rowBad : Bool)
  | groupConfirm (l : LinkId) (c : Cls) (seq : BitVec 64)
  | groupRepudiate (l : LinkId) (c : Cls) (seq : BitVec 64)
  | transmitGroup (l : LinkId) (c : Cls) (req : Option TxReq) (rowBad : Bool)
  | tc0TokenTick (l : LinkId)
  | floodCacheExpiry (slot : Slot) (src : Member) (transfer : BitVec 32)
  | deliveryClkLost
  | deliveryClkRelock
  | linkPulseTimer (l : LinkId)
  | partnerLost (l : LinkId)
  | linkBye (l : LinkId) (cause : Byte) (reservedZero : Bool)
  | tombstoneExpiry (l : LinkId)
  | hello (l : LinkId) (p : AgrPrefix) (b : AgrBody)
  | reply (l : LinkId) (p : AgrPrefix) (b : AgrBody)
  | finish (l : LinkId) (p : AgrPrefix) (sigI : Bytes) (kcI : BitVec 128)
  | done (l : LinkId) (p : AgrPrefix) (kcR : BitVec 128)
  | abort (l : LinkId) (p : AgrPrefix) (reason : Byte)
  | agreementAttemptTimeout (l : LinkId)
  | agreementRetry (l : LinkId)
  | responderTimeout (l : LinkId)
  | linkAgree (h : MbxHdr) (slot : Slot) (l : LinkId)
  | linkClose (h : MbxHdr) (slot : Slot) (l : LinkId)
  -- keys
  | keyThreshold (l : LinkId) (c : Cls)
  | keyLimit (row : RowId)
  | keyRoll (l : LinkId) (c : Cls)
  | keyFuture (l : LinkId) (m : TenseMsg)
  | keyReady (l : LinkId) (m : TenseMsg)
  | tenseRetryExpiry (l : LinkId) (c : Cls)
  | pastGraceExpiry (l : LinkId) (c : Cls)
  | keyInvalidate (row : RowId) (mismatch : Bool)
  | dusProgram (badRows : List (BitVec 7))
  -- lanes and margins
  | laneMismatch (cl : ClusterId) (x : LaneCheck)
  | laneBurstEnd (r : Region)
  | patrol (cl : ClusterId) (pass : Bool)
  | ghashMismatch
  | monitorWarning (r : Region)
  -- ports
  | functionEnableWrite (t : EnTarget) (on : Bool)
  | trayEnable
  | trayAck
  | trayIbiRepeat
  | pmLim (rail : Rail) (val : BitVec 12)
  | hdFlrValid (f : Fn)
  | dmaReadCompletion (id : BitVec 8) (status : BitVec 2) (bytes : BitVec 13) (last : Bool)
  | hostErrReport (f : Fn)
  -- front end
  | sqTailWrite (f : Fn) (loc : BitVec 6) (q : BitVec 3) (tail : Word)
  | cqHeadWrite (f : Fn) (loc : BitVec 6) (head : Word)
  | descriptorFetch (c : CtxId) (q : BitVec 3) (d : DmaData)
  | arbitrationEpoch
  | bucketRefill
  | commandCompletion (c : CtxId) (q : BitVec 3) (k : Word) (writeOk : Bool)
  | ctxRearm (f : Fn) (loc : BitVec 6)
  | cancel (c : CtxId) (k : Word)
  | ctxCreate (c : CtxId) (k : Word)
  | ctxDestroy (c : CtxId) (k : Word)
  | objMap (c : CtxId) (k : Word)
  | objUnmap (c : CtxId) (k : Word)
  | nop (c : CtxId) (k : Word)
  | memFill (c : CtxId) (k : Word)
  | memCopy (c : CtxId) (k : Word) (rsps : List McRsp)
  | csAesEnc (c : CtxId) (k : Word) (rsps : List McRsp)
  | csAesDec (c : CtxId) (k : Word) (rsps : List McRsp)
  | csGhash (c : CtxId) (k : Word) (rsps : List McRsp)
  | stgRekey (c : CtxId) (k : Word)
  | stgIn (c : CtxId) (k : Word) (host : List DmaData) (rsps : List McRsp)
  | stgOut (c : CtxId) (k : Word) (rsps : List McRsp)
  -- reduction
  | progLoad (c : CtxId) (k : Word) (rsps : List McRsp)
  | progGo (c : CtxId) (k : Word) (rsps : List McRsp)
  | progUnload (c : CtxId) (k : Word)
  | contributionTake (l : LinkId)
  | budget (l : LinkId) (src : Member) (delta : BitVec 16) (reservedZero : Bool)
  -- fabric
  | fabricRequest (rsp : McRsp)
  | fabricTableLineRead (slot : Slot) (line : BitVec 19) (rsp : McRsp)
  | fabricAccess (c : CtxId) (va : BitVec 64) (write : Bool) (mask : BitVec 64) (data : Line) (atomic : Bool)
  | fabricResponse (l : LinkId) (r : FabRec)
  | fabMap (h : MbxHdr) (slot : Slot) (page : BitVec 32) (entry : BitVec 128)
  | fabUnmap (h : MbxHdr) (slot : Slot) (page : BitVec 32)
  -- mailbox
  | spdmMsg (h : MbxHdr) (body : Bytes)
  | certGet (h : MbxHdr) (offset : BitVec 32) (len : BitVec 32)
  | haHello (h : MbxHdr) (m : HaHello)
  | haFinish (h : MbxHdr) (sessionId : BitVec 32) (sigH : Bytes) (kcH : BitVec 128)
  | haTimeout (f : Fn)
  | haClose (h : MbxHdr)
  | mailboxReservedCode (h : MbxHdr) (code : BitVec 16)
  | fnOpen (h : MbxHdr) (f : Fn)
  | drain (h : MbxHdr) (f : Fn)
  | retire (h : MbxHdr) (f : Fn)
  | debugChallenge (h : MbxHdr)
  | debugUnlock (h : MbxHdr) (x : UnlockTry)
  -- life cycle
  | lcToTest (jtag : Bool) (fn : Fn) (confirm : BitVec 16) (roleSel : BitVec 1)
  | lcToProduction (jtag : Bool) (fn : Fn) (confirm : BitVec 16) (roleSel : BitVec 1)
  | lcToEndOfLife (jtag : Bool) (fn : Fn) (confirm : BitVec 16) (x : EndPins)
  -- trust domain
  | formHello (h : MbxHdr) (m : FormHello)
  | formFinish (h : MbxHdr) (sigV : Bytes) (kcV : BitVec 128)
  | formationTimeout (slot : Slot)
  | joinTicket (h : MbxHdr) (slot : Slot) (member : BitVec 32) (proof : Bytes)
  | linkDeclare (h : MbxHdr) (slot : Slot) (l : Byte) (partnerLink : Byte) (partner : BitVec 32)
  | z2TableRow (h : MbxHdr) (slot : Slot) (l : LinkId) (peerNode : BitVec 32) (peerPort : LinkId)
  | domainLeave (h : MbxHdr) (slot : Byte)
  | censusGet (h : MbxHdr) (slot : Slot) (hall : Byte)
  | countStateGet (h : MbxHdr) (slot : Slot)
  | verifierVote (h : MbxHdr) (body : Bytes)
  | epochAdvance (h : MbxHdr) (body : Bytes)
  | epochNotice (slot : Slot) (epoch : BitVec 32)
  | joinInvite (l : LinkId) (m : JoinInvite)
  | joinRequest (slot : Slot) (l : LinkId) (m : JoinRequest)
  | joinGrant (slot : Slot) (m : JoinGrant)
  | joinRefuse (slot : Slot) (reason : Byte)
  | joinDone (slot : Slot) (member : Member)
  | joinDoneTimeout (slot : Slot) (member : Member)
  | parseResume (slot : Slot)
  | depart (slot : Slot) (member : Member)
  | handdown (slot : Slot) (m : Handdown)
  | mgrPulseTimer (slot : Slot)
  | mgrPulse (slot : Slot) (src : Member)
  | mgrContactLoss (slot : Slot) (lost : Member)
  | mgrTakeover (slot : Slot) (src : Member) (system : Bool)
  | mgrKeys (slot : Slot) (list : List (Member × Bytes))
  | hallPulseTimer (slot : Slot)
  | hallPulse (slot : Slot)
  | hallPulseLoss (slot : Slot)
  | rosterUpdate (slot : Slot) (src : Member) (version : BitVec 32) (row : RosterRow)
  | rosterAck (slot : Slot) (version : BitVec 32)
  | rosterResend (slot : Slot)
  | hallSummary (slot : Slot)
  | censusSync (slot : Slot) (m : SyncMsg) (state : BitVec 2)
  | countOpen (slot : Slot)
  | voteClaim (slot : Slot) (hall : BitVec 3) (round : BitVec 32) (members : BitVec 32)
  | countResult (slot : Slot) (r : CountResult)
  | rejoinReq (slot : Slot) (m : RejoinMsg)
  | rejoinGrant (slot : Slot) (m : RejoinMsg)
  | rejoinWindowExpiry (slot : Slot)
  -- TC0 and time
  | halt (l : LinkId) (r : Route) (m : HaltMsg)
  | haltRelease (l : LinkId) (r : Route) (m : HaltMsg)
  | gateExpiry (l : LinkId) (c : Cls)
  | timeExchangeTimer (slot : Slot) (t1 : BitVec 64)
  | timeReq (l : LinkId) (m : TimeMsg) (t2 : BitVec 64) (t3 : BitVec 64)
  | timeResp (l : LinkId) (m : TimeMsg) (t4 : BitVec 64)
  | timeLockLoss (slot : Slot)
  | blockTimeSave
  | islandTick
  -- faults
  | engineStallSample
  | engineStall (e : EngineId) (roleSel : BitVec 1)
  | replayGuilty (x : ReplayEnd)
  | replayCleared (x : ReplayEnd)
  | trustCoreMismatch (roleSel : BitVec 1)
  | sramFault (e : Option EngineId) (meterSram : Bool) (roleSel : BitVec 1)
  -- power
  | currentWindow (avgVkx : BitVec 16) (avgVkm : BitVec 16)
  | throttleStep (avgVkx : BitVec 16) (avgVkm : BitVec 16)
  | droopCrossing (r : Region)
  | droopRelease (r : Region)
  | energyInterval (e : EnergySample)
  | meterGo (slot : Slot)
  | meterBoundary (slot : Slot)
  -- island
  | tamperLatch (inputs : BitVec 4)
  | rearm (i : BitVec 2)
  | rearmRelease (i : BitVec 2)
  | keyRenew
  | lock
  | supplySwitch (onVbat : Bool)
  | islandColdStart
  -- composition
  | vdCreate (vd : VdId) (slot : Option Slot)
  | vdDestroy (vd : VdId)
  | bind (kind : BitVec 2) (index : BitVec 8) (vd : VdId)
  | unbind (kind : BitVec 2) (index : BitVec 8) (vd : VdId)
  | move (kind : BitVec 2) (index : BitVec 8) (vd : VdId) (toVd : VdId)
  | vdSlot (vd : VdId) (slot : Option Slot)
  -- trace
  | traceRunSet
  | traceRunClear
  | traceRingWrite (ok : Bool)
  | marker (value : Word)
  | timeMark (slot : Slot)
  -- late rows of the table
  | deliveryBeatAccept (l : LinkId)
  | lkTxReady (l : LinkId)
  | receiveRingSpace (l : LinkId) (c : Cls) (ctx : CtxId)
  | countClose (slot : Slot)
  | protectedRangeWrite (r : BitVec 6) (base : BitVec 31) (limit : BitVec 31) (owner : Slot) (enable : Bool)
  | mcLinesWrite (ch : ChanId) (lines : BitVec 21)
  | routeTableLoad (slot : Slot) (entries : List (BitVec 2 × BitVec 9 × Option LinkId × Option LinkId))
  | fabricTableSetup (slot : Slot) (base : Word) (key : KeyIdx) (pages : BitVec 22)
  deriving DecidableEq, Repr

end Sys2Proof
end

