-- ==== Sys2Proof/Decode.lean ====
section
/-! DEFINITION. Commands spelt by table words. The table of operations and events gives no row any bits. -/

namespace Sys2Proof

/-- No word spells a command: spec/opcode_table.json gives every row an empty field list. -/
def decodeTableWord (_nbits _w : Nat) : Option Instr := none

end Sys2Proof
end

