-- ==== Sys2Proof/Machine/Bytes.lean ====
section
/-! DEFINITION. Byte strings and bit fields: little-endian and big-endian encodings, slices, exclusive or (R6). -/

namespace Sys2Proof.Machine

/-- The low `n` bytes of a number, lowest first (R6). -/
def leBytes : Nat → Nat → Bytes
  | 0, _ => []
  | n + 1, x => BitVec.ofNat 8 x :: leBytes n (x / 256)

/-- The number a little-endian byte string stands for. -/
def leNat : Bytes → Nat
  | [] => 0
  | b :: t => b.toNat + 256 * leNat t

/-- The low `n` bytes of a number, highest first. -/
def beBytes (n x : Nat) : Bytes := (leBytes n x).reverse

/-- The number a big-endian byte string stands for. -/
def beNat (bs : Bytes) : Nat := leNat bs.reverse

/-- A little-endian byte string as bits. -/
def leBv (w : Nat) (bs : Bytes) : BitVec w := BitVec.ofNat w (leNat bs)

/-- Bytes `o` to `o + n - 1`. -/
def slice (bs : Bytes) (o n : Nat) : Bytes := (bs.drop o).take n

/-- The little-endian number in bytes `o` to `o + n - 1`. -/
def leAt (bs : Bytes) (o n : Nat) : Nat := leNat (slice bs o n)

/-- The byte at offset `o`, 0 beyond the end. -/
def byteAt (bs : Bytes) (o : Nat) : Byte := (bs.drop o).headD 0

/-- Every byte of a range is 0. -/
def zeroAt (bs : Bytes) (o n : Nat) : Bool := (slice bs o n).all (· == 0)

def xorBytes (a b : Bytes) : Bytes := List.zipWith (· ^^^ ·) a b

def zeros (n : Nat) : Bytes := List.replicate n 0

/-- A byte string made `n` long: cut, or padded with zeros. -/
def fitTo (n : Nat) (bs : Bytes) : Bytes := (bs ++ zeros (n - bs.length)).take n

/-- Cut into pieces of `n` bytes, the last piece taking the rest; `fuel` bounds the pieces. -/
def chunksAux (n : Nat) : Nat → Bytes → List Bytes
  | 0, _ => []
  | _ + 1, [] => []
  | f + 1, bs => bs.take n :: chunksAux n f (bs.drop n)

def chunks (n : Nat) (bs : Bytes) : List Bytes := chunksAux n bs.length bs

/-- A line as its 64 bytes, byte b being bits [8b + 7 : 8b]. -/
def lineBytes (l : BitVec 512) : Bytes := leBytes 64 l.toNat
def bytesLine (bs : Bytes) : BitVec 512 := leBv 512 (fitTo 64 bs)

/-- The bytes of an ASCII label (R159). -/
def ascii (s : String) : Bytes := s.toList.map fun c => BitVec.ofNat 8 c.toNat

/-- Spread a 64-bit byte mask over the bits of a line. -/
def maskLine (m : BitVec 64) : BitVec 512 :=
  bytesLine ((List.range 64).map fun b => if m.getLsbD b then (0xFF : BitVec 8) else 0)

/-- The bytes of `new` where the mask is set, those of `old` elsewhere (R227, R237). -/
def mergeLine (old new : BitVec 512) (m : BitVec 64) : BitVec 512 :=
  let w := maskLine m
  (old &&& ~~~ w) ||| (new &&& w)

/-- The number of set bits. -/
def popcount {w : Nat} (x : BitVec w) : Nat := ((List.range w).filter fun i => x.getLsbD i).length

/-- The set bits, lowest first. -/
def bitsOf {w : Nat} (x : BitVec w) : List Nat := (List.range w).filter fun i => x.getLsbD i

/-- A one-bit field. -/
def b2w (b : Bool) (w : Nat) : BitVec w := if b then 1 else 0

end Sys2Proof.Machine
end

