-- ==== Sys2Proof/Machine/Crypto.lean ====
section
/-! DEFINITION. The primitives the spec names by their standards, written from those standards (PRESUMED, log entry 10):
AES-256 (FIPS 197), GHASH and GCM (SP 800-38D), XTS multiplication (IEEE 1619), SHA-384 (FIPS 180-4) and KMAC256
(SP 800-185 over Keccak-f[1600]). -/

namespace Sys2Proof.Machine

/-! ### AES-256 -/

/-- Doubling in GF(2^8) of FIPS 197. -/
def xtime (a : Byte) : Byte := if a.getLsbD 7 then (a <<< 1) ^^^ 0x1B else a <<< 1

/-- Multiplication in GF(2^8). -/
def gmul (a b : Byte) : Byte :=
  ((List.range 8).foldl (fun (p : Byte × Byte) i =>
    (if b.getLsbD i then p.1 ^^^ p.2 else p.1, xtime p.2)) (0, a)).1

/-- The inverse in GF(2^8), a^254, with 0 for 0. -/
def ginv (a : Byte) : Byte :=
  let a2 := gmul a a
  let a4 := gmul a2 a2
  let a8 := gmul a4 a4
  let a16 := gmul a8 a8
  let a32 := gmul a16 a16
  let a64 := gmul a32 a32
  let a128 := gmul a64 a64
  gmul a128 (gmul a64 (gmul a32 (gmul a16 (gmul a8 (gmul a4 a2)))))

def subByte (a : Byte) : Byte :=
  let b := ginv a
  b ^^^ b.rotateLeft 1 ^^^ b.rotateLeft 2 ^^^ b.rotateLeft 3 ^^^ b.rotateLeft 4 ^^^ 0x63

def invSubByte (a : Byte) : Byte :=
  ginv (a.rotateLeft 1 ^^^ a.rotateLeft 3 ^^^ a.rotateLeft 6 ^^^ 0x05)

/-- The state byte at row r, column c is byte r + 4c. -/
def shiftRows (s : Bytes) : Bytes :=
  (List.range 16).map fun i => byteAt s ((i % 4) + 4 * ((i / 4 + i % 4) % 4))

def invShiftRows (s : Bytes) : Bytes :=
  (List.range 16).map fun i => byteAt s ((i % 4) + 4 * ((i / 4 + 4 - i % 4) % 4))

def mixWith (c0 c1 c2 c3 : Byte) (s : Bytes) : Bytes :=
  (chunks 4 s).flatMap fun col =>
    let a := byteAt col 0
    let b := byteAt col 1
    let c := byteAt col 2
    let d := byteAt col 3
    [gmul c0 a ^^^ gmul c1 b ^^^ gmul c2 c ^^^ gmul c3 d,
     gmul c3 a ^^^ gmul c0 b ^^^ gmul c1 c ^^^ gmul c2 d,
     gmul c2 a ^^^ gmul c3 b ^^^ gmul c0 c ^^^ gmul c1 d,
     gmul c1 a ^^^ gmul c2 b ^^^ gmul c3 c ^^^ gmul c0 d]

def mixColumns : Bytes → Bytes := mixWith 2 3 1 1
def invMixColumns : Bytes → Bytes := mixWith 14 11 13 9

/-- What word i of the key schedule adds to word i − 8, from word i − 1. -/
def schedWord (i : Nat) (prev : Bytes) : Bytes :=
  if i % 8 = 0 then
    let r := (prev.drop 1 ++ prev.take 1).map subByte
    let rcon : Byte := (1 : Byte) <<< (i / 8 - 1)
    xorBytes r [rcon, 0, 0, 0]
  else if i % 8 = 4 then prev.map subByte else prev

/-- Word i of the key schedule from the words before it, newest first. -/
def keyWord (i : Nat) (ws : List Bytes) : Bytes := xorBytes ((ws.drop 7).headD []) (schedWord i (ws.headD []))

/-- The 60 words of the schedule of a 256-bit key given as 32 bytes, newest first. -/
def keyWords (key : Bytes) : List Bytes :=
  (List.range 52).foldl (fun ws i => keyWord (i + 8) ws :: ws) (chunks 4 key).reverse

/-- The 15 round keys of a 256-bit key. -/
def roundKeys (key : Bytes) : List Bytes := chunks 16 ((keyWords key).reverse.flatMap id)

/-- Round keys 13 and 14, from which a lane starts a decryption (R192). -/
def tailKeys (key : Bytes) : Bytes := ((keyWords key).take 8).reverse.flatMap id

/-- Word i − 8 of the schedule from the eight words that follow it, oldest first. -/
def backWord (i : Nat) (ws : List Bytes) : Bytes :=
  xorBytes ((ws.drop 7).headD []) (schedWord i ((ws.drop 6).headD []))

/-- The 15 round keys from round keys 13 and 14, the schedule run backward (R192). -/
def keysBack (tail : Bytes) : List Bytes :=
  chunks 16 (((List.range 52).foldl (fun ws j => backWord (59 - j) ws :: ws) (chunks 4 tail)).flatMap id)

/-- The Cipher of FIPS 197 (R191). -/
def aesEnc (key block : Bytes) : Bytes :=
  match roundKeys key with
  | [] => block
  | k0 :: ks =>
    let mid := ks.dropLast
    let last := ks.getLastD []
    let s := mid.foldl (fun s k => xorBytes (mixColumns (shiftRows (s.map subByte))) k) (xorBytes block k0)
    xorBytes (shiftRows (s.map subByte)) last

/-- The InvCipher of FIPS 197 (R191), from round keys 13 and 14 (R192). -/
def aesInv (tail block : Bytes) : Bytes :=
  match (keysBack tail).reverse with
  | [] => block
  | k0 :: ks =>
    let mid := ks.dropLast
    let last := ks.getLastD []
    let s := mid.foldl (fun s k => invMixColumns (xorBytes ((invShiftRows s).map invSubByte) k)) (xorBytes block k0)
    xorBytes ((invShiftRows s).map invSubByte) last

def aesDec (key block : Bytes) : Bytes := aesInv (tailKeys key) block

/-! ### GHASH, GCM and XTS -/

/-- Multiplication in GF(2^128) with the bit order of SP 800-38D; blocks are big-endian numbers. -/
def gf128Mul (x y : BitVec 128) : BitVec 128 :=
  ((List.range 128).foldl (fun (p : BitVec 128 × BitVec 128) i =>
    (if x.getLsbD (127 - i) then p.1 ^^^ p.2 else p.1,
     if p.2.getLsbD 0 then (p.2 >>> 1) ^^^ (0xE1#128 <<< 120) else p.2 >>> 1)) (0, y)).1

/-- One GHASH step: y becomes (y xor x) times h (R209). -/
def ghashStep (h y : Bytes) (x : Bytes) : Bytes :=
  beBytes 16 (gf128Mul (BitVec.ofNat 128 (beNat y) ^^^ BitVec.ofNat 128 (beNat (fitTo 16 x))) (BitVec.ofNat 128 (beNat h))).toNat

/-- GHASH over 16-byte blocks from a state. -/
def ghashFrom (h y : Bytes) (blocks : List Bytes) : Bytes := blocks.foldl (ghashStep h) y

/-- The counter block inc32^n of J0, with J0 the 12-byte IV followed by 00 00 00 01. -/
def ctrBlock (iv : Bytes) (n : Nat) : Bytes := iv ++ beBytes 4 (n + 1)

/-- The GCM keystream for `n` bytes, from counter 2. -/
def gcmStream (key iv : Bytes) (n : Nat) : Bytes :=
  ((List.range ((n + 15) / 16)).flatMap fun i => aesEnc key (ctrBlock iv (i + 1))).take n

/-- The GCM tag over additional data and ciphertext. -/
def gcmTag (key iv aad ct : Bytes) : Bytes :=
  let h := aesEnc key (zeros 16)
  let lens := beBytes 8 (8 * aad.length) ++ beBytes 8 (8 * ct.length)
  let y := ghashFrom h (zeros 16) (chunks 16 aad ++ chunks 16 ct ++ [lens])
  xorBytes y (aesEnc key (ctrBlock iv 0))

/-- AES-256-GCM: ciphertext and 16-byte tag. -/
def gcmSeal (key iv aad pt : Bytes) : Bytes × Bytes :=
  let ct := xorBytes pt (gcmStream key iv pt.length)
  (ct, gcmTag key iv aad ct)

/-- AES-256-GCM opening, the tag not yet checked: the bytes R56 releases Subjunctive. -/
def gcmOpen (key iv ct : Bytes) : Bytes := xorBytes ct (gcmStream key iv ct.length)

/-- Multiplication by alpha in GF(2^128) as IEEE 1619 defines it (R219). -/
def xtsAlpha (t : BitVec 128) : BitVec 128 := if t.getLsbD 127 then (t <<< 1) ^^^ 0x87 else t <<< 1

/-! ### SHA-384 -/

def shaK : List (BitVec 64) :=
  [0x428a2f98d728ae22, 0x7137449123ef65cd, 0xb5c0fbcfec4d3b2f, 0xe9b5dba58189dbbc] ++
  [0x3956c25bf348b538, 0x59f111f1b605d019, 0x923f82a4af194f9b, 0xab1c5ed5da6d8118] ++
  [0xd807aa98a3030242, 0x12835b0145706fbe, 0x243185be4ee4b28c, 0x550c7dc3d5ffb4e2] ++
  [0x72be5d74f27b896f, 0x80deb1fe3b1696b1, 0x9bdc06a725c71235, 0xc19bf174cf692694] ++
  [0xe49b69c19ef14ad2, 0xefbe4786384f25e3, 0x0fc19dc68b8cd5b5, 0x240ca1cc77ac9c65] ++
  [0x2de92c6f592b0275, 0x4a7484aa6ea6e483, 0x5cb0a9dcbd41fbd4, 0x76f988da831153b5] ++
  [0x983e5152ee66dfab, 0xa831c66d2db43210, 0xb00327c898fb213f, 0xbf597fc7beef0ee4] ++
  [0xc6e00bf33da88fc2, 0xd5a79147930aa725, 0x06ca6351e003826f, 0x142929670a0e6e70] ++
  [0x27b70a8546d22ffc, 0x2e1b21385c26c926, 0x4d2c6dfc5ac42aed, 0x53380d139d95b3df] ++
  [0x650a73548baf63de, 0x766a0abb3c77b2a8, 0x81c2c92e47edaee6, 0x92722c851482353b] ++
  [0xa2bfe8a14cf10364, 0xa81a664bbc423001, 0xc24b8b70d0f89791, 0xc76c51a30654be30] ++
  [0xd192e819d6ef5218, 0xd69906245565a910, 0xf40e35855771202a, 0x106aa07032bbd1b8] ++
  [0x19a4c116b8d2d0c8, 0x1e376c085141ab53, 0x2748774cdf8eeb99, 0x34b0bcb5e19b48a8] ++
  [0x391c0cb3c5c95a63, 0x4ed8aa4ae3418acb, 0x5b9cca4f7763e373, 0x682e6ff3d6b2b8a3] ++
  [0x748f82ee5defb2fc, 0x78a5636f43172f60, 0x84c87814a1f0ab72, 0x8cc702081a6439ec] ++
  [0x90befffa23631e28, 0xa4506cebde82bde9, 0xbef9a3f7b2c67915, 0xc67178f2e372532b] ++
  [0xca273eceea26619c, 0xd186b8c721c0c207, 0xeada7dd6cde0eb1e, 0xf57d4f7fee6ed178] ++
  [0x06f067aa72176fba, 0x0a637dc5a2c898a6, 0x113f9804bef90dae, 0x1b710b35131c471b] ++
  [0x28db77f523047d84, 0x32caab7b40c72493, 0x3c9ebe0a15c9bebc, 0x431d67c49c100d4c] ++
  [0x4cc5d4becb3e42b6, 0x597f299cfc657e2a, 0x5fcb6fab3ad6faec, 0x6c44198c4a475817]

def sha384Init : List (BitVec 64) :=
  [0xcbbb9d5dc1059ed8, 0x629a292a367cd507, 0x9159015a3070dd17, 0x152fecd8f70e5939] ++
  [0x67332667ffc00b31, 0x8eb44a8768581511, 0xdb0c2e0d64f98fa7, 0x47b5481dbefa4fa4]

def shaS0 (x : BitVec 64) : BitVec 64 := x.rotateRight 28 ^^^ x.rotateRight 34 ^^^ x.rotateRight 39
def shaS1 (x : BitVec 64) : BitVec 64 := x.rotateRight 14 ^^^ x.rotateRight 18 ^^^ x.rotateRight 41
def shas0 (x : BitVec 64) : BitVec 64 := x.rotateRight 1 ^^^ x.rotateRight 8 ^^^ (x >>> 7)
def shas1 (x : BitVec 64) : BitVec 64 := x.rotateRight 19 ^^^ x.rotateRight 61 ^^^ (x >>> 6)

/-- The message schedule, newest word first. -/
def shaSchedule (block : Bytes) : List (BitVec 64) :=
  let w0 := (chunks 8 block).map fun b => BitVec.ofNat 64 (beNat b)
  ((List.range 64).foldl (fun ws _ =>
    (shas1 ((ws.drop 1).headD 0) + (ws.drop 6).headD 0 + shas0 ((ws.drop 14).headD 0) + (ws.drop 15).headD 0) :: ws)
    w0.reverse).reverse

/-- The eight working variables. -/
structure ShaVars where
  a : BitVec 64
  b : BitVec 64
  c : BitVec 64
  d : BitVec 64
  e : BitVec 64
  f : BitVec 64
  g : BitVec 64
  h : BitVec 64

def shaRound (v : ShaVars) (kw : BitVec 64) : ShaVars :=
  let t1 := v.h + shaS1 v.e + ((v.e &&& v.f) ^^^ (~~~ v.e &&& v.g)) + kw
  let t2 := shaS0 v.a + ((v.a &&& v.b) ^^^ (v.a &&& v.c) ^^^ (v.b &&& v.c))
  { a := t1 + t2, b := v.a, c := v.b, d := v.c, e := v.d + t1, f := v.e, g := v.f, h := v.g }

def shaBlock (hs : List (BitVec 64)) (block : Bytes) : List (BitVec 64) :=
  let g := fun i => (hs.drop i).headD 0
  let v0 : ShaVars := { a := g 0, b := g 1, c := g 2, d := g 3, e := g 4, f := g 5, g := g 6, h := g 7 }
  let v := (List.zipWith (· + ·) shaK (shaSchedule block)).foldl shaRound v0
  List.zipWith (· + ·) hs [v.a, v.b, v.c, v.d, v.e, v.f, v.g, v.h]

/-- SHA-384 of a byte string, 48 bytes. -/
def sha384 (m : Bytes) : Bytes :=
  let n := m.length
  let pad := (128 - (n + 17) % 128) % 128
  let full := m ++ [0x80] ++ zeros pad ++ beBytes 16 (8 * n)
  (((chunks 128 full).foldl shaBlock sha384Init).take 6).flatMap fun w => beBytes 8 w.toNat

/-! ### KMAC256 -/

def keccakRc : List (BitVec 64) :=
  [0x0000000000000001, 0x0000000000008082, 0x800000000000808a, 0x8000000080008000] ++
  [0x000000000000808b, 0x0000000080000001, 0x8000000080008081, 0x8000000000008009] ++
  [0x000000000000008a, 0x0000000000000088, 0x0000000080008009, 0x000000008000000a] ++
  [0x000000008000808b, 0x800000000000008b, 0x8000000000008089, 0x8000000000008003] ++
  [0x8000000000008002, 0x8000000000000080, 0x000000000000800a, 0x800000008000000a] ++
  [0x8000000080008081, 0x8000000000008080, 0x0000000080000001, 0x8000000080008008]

/-- The rotation of lane x + 5y. -/
def keccakRot : List Nat := [0, 1, 62, 28, 27, 36, 44, 6, 55, 20, 3, 10, 43, 25, 39, 41, 45, 15, 21, 8, 18, 2, 61, 56, 14]

/-- One round of Keccak-f[1600] on 25 lanes, lane x + 5y. -/
def keccakRound (a : List (BitVec 64)) (rc : BitVec 64) : List (BitVec 64) :=
  let at' := fun (l : List (BitVec 64)) i => (l.drop i).headD 0
  let c := (List.range 5).map fun x => at' a x ^^^ at' a (x + 5) ^^^ at' a (x + 10) ^^^ at' a (x + 15) ^^^ at' a (x + 20)
  let d := (List.range 5).map fun x => at' c ((x + 4) % 5) ^^^ (at' c ((x + 1) % 5)).rotateLeft 1
  let r := (List.range 25).map fun i => (at' a i ^^^ at' d (i % 5)).rotateLeft ((keccakRot.drop i).headD 0)
  -- lane (y, 2x + 3y) of b is lane (x, y) of r: lane (u, v) of b comes from x = (u + 3v) mod 5, y = u
  let b := (List.range 25).map fun i => at' r ((i % 5 + 3 * (i / 5)) % 5 + 5 * (i % 5))
  let e := (List.range 25).map fun i =>
    at' b i ^^^ (~~~ at' b ((i % 5 + 1) % 5 + 5 * (i / 5)) &&& at' b ((i % 5 + 2) % 5 + 5 * (i / 5)))
  (at' e 0 ^^^ rc) :: e.drop 1

def keccakF (a : List (BitVec 64)) : List (BitVec 64) := keccakRc.foldl keccakRound a

/-- Absorb one block of at most 136 bytes. -/
def keccakAbsorb (a : List (BitVec 64)) (block : Bytes) : List (BitVec 64) :=
  let w := (chunks 8 (fitTo 200 block)).map fun b => BitVec.ofNat 64 (leNat b)
  keccakF (List.zipWith (· ^^^ ·) a w)

/-- left_encode of SP 800-185. -/
def leftEncode (n : Nat) : Bytes :=
  let bs := if n < 256 then beBytes 1 n else if n < 65536 then beBytes 2 n else if n < 16777216 then beBytes 3 n else beBytes 8 n
  BitVec.ofNat 8 bs.length :: bs

def rightEncode (n : Nat) : Bytes :=
  let bs := if n < 256 then beBytes 1 n else if n < 65536 then beBytes 2 n else if n < 16777216 then beBytes 3 n else beBytes 8 n
  bs ++ [BitVec.ofNat 8 bs.length]

def encodeString (s : Bytes) : Bytes := leftEncode (8 * s.length) ++ s

def bytepad (x : Bytes) (w : Nat) : Bytes :=
  let y := leftEncode w ++ x
  y ++ zeros ((w - y.length % w) % w)

/-- KMAC256(K, X, L, S) with L in bits, a multiple of 8 and at most 1,088 (R159). -/
def kmac256 (k x : Bytes) (l : Nat) (s : Bytes) : Bytes :=
  let head := bytepad (encodeString (ascii "KMAC") ++ encodeString s) 136
  let msg := head ++ bytepad (encodeString k) 136 ++ x ++ rightEncode l ++ [0x04]
  let n := (136 - msg.length % 136) % 136
  let padded := msg ++ zeros n
  let marked := padded.dropLast ++ [(padded.getLastD 0) ^^^ 0x80]
  let out := (chunks 136 marked).foldl keccakAbsorb (List.replicate 25 0)
  (out.flatMap fun w => leBytes 8 w.toNat).take (l / 8)

end Sys2Proof.Machine
end

