-- ==== Sys2Proof/Machine/StateCore.lean ====
section
/-! DEFINITION. The block's state, first part: start-up, Global registers, clocks and enables, OTP and life cycle, the
key store, the lanes, memory sealing, faults. Every field's default is its reset value. -/

namespace Sys2Proof.Machine

/-- A point on the 1 GHz time base, in ns of block time (Table 3-2, R414). -/
abbrev Time := BitVec 64

/-- Where the block stands between por_b and running (R72, R103, R107, R131, R547). -/
inductive Phase where
  /-- por_b is low -/
  | held
  /-- the reference settle delay runs (R103) -/
  | settle
  /-- start-up step 2 waits for refclk (R74) -/
  | waitRef
  | running
  /-- a start failed (R131) -/
  | failed
  /-- a Full Stop is in progress (R532) -/
  | fullStop
  /-- an Ellipsis holds grade Black until por_b falls (R547) -/
  | ellipsis
  deriving DecidableEq, Repr

/-- Phase, straps, reference clock and block time. -/
structure Sys where
  phase : Phase := .held
  straps : Straps := { roleSel := 0, refSettle := 0, flashMode := 0, trayAddr := 0 }
  /-- refclk is present and within 1 % (R74) -/
  refclk : Bool := false
  /-- KX_CLK_BTIME (R414, R418) -/
  btime : Time := 0
  /-- limit strobes that came before the end of start-up step 15 (R134) -/
  pmLimPending : List (Rail × BitVec 12) := []
  /-- functions whose hd_flr_valid arrived before the staging port was enabled (R134) -/
  flrEarly : List Fn := []
  deriving DecidableEq, Repr

/-- The Global area (Tables 22-6 to 22-10) and the _HI latches of R602. -/
structure Glb where
  role : BitVec 1 := 0
  imageRole : BitVec 1 := 0
  imageChecked : Bool := false
  mismatch : Bool := false
  peCount : BitVec 16 := 0
  peStaging : Bool := false
  peMc : Bool := false
  plValid : Bool := false
  plPort : BitVec 1 := 0
  plChan : BitVec 5 := 0
  plSub : BitVec 2 := 0
  plKind : BitVec 2 := 0
  errAddr : BitVec 24 := 0
  eiValid : Bool := false
  eiWrite : Bool := false
  eiCode : BitVec 2 := 0
  eiFn : BitVec 8 := 0
  /-- key: function × 2^24 + address of the _HI register -/
  latches : Tab (Option Word) := []
  deriving DecidableEq, Repr

/-- A region's calibration register (Table 3-9). -/
structure Cal where
  appliedCode : BitVec 4 := 15
  mFull : BitVec 4 := 15
  recTag : BitVec 2 := 0
  recResult : BitVec 2 := 0
  droopThr : BitVec 8 := 0x48
  throttled : Bool := false
  warn : Bool := false
  warnCount : BitVec 6 := 0
  deriving DecidableEq, Repr

/-- Clocks and enables (Tables 3-5 to 3-7) and the phase-locked crossings of Table 3-3. -/
structure Clk where
  enArea : BitVec 10 := 0
  enPort : BitVec 6 := 0
  enMc : BitVec 32 := 0
  enLink : BitVec 64 := 0
  enFn : BitVec 256 := 0
  calMem : Cal := {}
  calLink : Cal := {}
  calSvc : Cal := {}
  /-- bit n: the crossing of channel n has lost lock (R85) -/
  mcUnlocked : BitVec 32 := 0
  /-- bit n: MC_CLK_LOST was recorded for channel n -/
  mcClkLost : BitVec 32 := 0
  deliveryUnlocked : Bool := false
  /-- the image copy has ended at this start, so a write of 1 to flash is ignored (R97) -/
  flashDone : Bool := false
  deriving DecidableEq, Repr

/-- KX_GLB_BOOT_STATUS, BOOT_SEQ, BOOT_TIME and the start-up measurements (Tables 4-7, 4-8). -/
structure Boot where
  failCode : BitVec 8 := 0
  otpSvn : BitVec 7 := 0
  imageSvn : BitVec 7 := 0
  slot : BitVec 2 := 2
  committed : Bool := false
  idRecordOk : Bool := false
  fallback : Bool := false
  step : BitVec 4 := 0
  seq : BitVec 32 := 0
  timeUs : BitVec 32 := 0
  mRom : Bytes := []
  mFw : Bytes := []
  mCfg : Bytes := []
  mSigner : Bytes := []
  deviceRecord : Bytes := []
  /-- SHA-384 of the debug grant, once debug was reopened (Table 12-14) -/
  grantDigest : Bytes := []
  /-- boot of Table 12-14 -/
  boot : BitVec 64 := 0
  /-- reissue count of the boot-alias pair (R385) -/
  reissue : BitVec 32 := 0
  /-- the DER pair in force (R383) -/
  certPair : Bytes := []
  /-- no start since por_b rose has reached step 4 (R418, R562, R581) -/
  afterPor : Bool := true
  /-- script SRAM from offset 0 (R110, R119, R130): the image copy over what was there before; beyond the list nothing has been
  copied since the last reset, or step 14 has zeroed it -/
  script : Bytes := []
  /-- the pass or fail signature of the key store's built-in self-test (R148) -/
  keyBistPass : Bool := false
  deriving DecidableEq, Repr

/-- What of Table 5-6 or R141 is in progress: a forced domain exit whose Colon hangs (R142, R157). -/
inductive LcdBusy where
  | unlock
  | transition
  deriving DecidableEq, Repr

/-- Life cycle and debug (Tables 5-8 to 5-10). -/
structure Lcd where
  state : BitVec 2 := 0
  /-- step 4 of this start has decoded the life-cycle word (R135) -/
  decoded : Bool := false
  /-- the hardware gate of the factory test modes (R147) -/
  testGate : Bool := false
  /-- a transition or a DEBUG_UNLOCK in progress (R142, R157) -/
  busy : Option LcdBusy := none
  completedPartial : Bool := false
  invalidPattern : Bool := false
  sparesUsed : BitVec 4 := 0
  reqStatus : BitVec 8 := 0
  unlockStep : BitVec 4 := 0
  grantFailed : Bool := false
  openAtStart : Bool := false
  debugOpen : Bool := false
  /-- the nonce waiting for DEBUG_UNLOCK (R149, R150) -/
  nonce : Option Bytes := none
  deriving DecidableEq, Repr

/-- The store parent of a key row (R166). -/
inductive KeyParent where
  | none
  | row (r : RowId)
  | slotRoot (s : Slot)
  deriving DecidableEq, Repr

/-- A logical row of the key store (R171, R185, Table 6-11). -/
structure KeyRow where
  valid : Bool := false
  material : BitVec 288 := 0
  /-- round keys 13 and 14 of an AES key, held beside the row (R192) -/
  tail : BitVec 256 := 0
  parent : KeyParent := .none
  /-- 0 none, 1 Past, 2 Present, 3 Future -/
  tense : BitVec 2 := 0
  slot : Slot := 0
  gen : BitVec 32 := 0
  use : BitVec 44 := 0
  spared : Bool := false
  /-- lost with no spare left: out of use until por_b (R188) -/
  outOfUse : Bool := false
  deriving DecidableEq, Repr

/-- The key store (Tables 6-7 to 6-11). -/
structure Keys where
  rows : Tab KeyRow := []
  sparesUsed : BitVec 7 := 0
  /-- Table 6-10 -/
  event : BitVec 7 := 0
  sel : BitVec 12 := 0
  /-- index_nonce of each key index (Table 6-1) -/
  nonces : Tab Bytes := []
  /-- transport keys in use, by transfer (R170): row 2809 + n -/
  transport : BitVec 16 := 0
  deriving DecidableEq, Repr

/-- The lanes of one cluster (Tables 7-2, 7-11, 7-12). -/
structure LaneCluster where
  retired : BitVec 26 := 0
  /-- physical lanes in service -/
  active : BitVec 26 := 0
  /-- physical lanes held as spares -/
  spare : BitVec 26 := 0
  /-- service cluster: the active lanes that serve the crypto service group -/
  cryptoGroup : BitVec 26 := 0
  mismatchCount : BitVec 8 := 0
  patrolFailCount : BitVec 8 := 0
  ghashRetired : Bool := false
  burst : Bool := false
  patrolSkipped : Bool := false
  patrolFail : Bool := false
  mismatch : Bool := false
  /-- the lowest physical lane the next patrol may choose (R205) -/
  patrolNext : BitVec 5 := 0
  deriving DecidableEq, Repr

/-- The issue record of a lane operation in flight (R199, R200): its lane, input block and direction, the key it was issued under
(its round keys follow from it) and its place in its stream. -/
structure IssueRec where
  lane : BitVec 5
  input : BitVec 128
  decrypt : Bool
  key : BitVec 256
  place : Nat
  deriving DecidableEq, Repr

/-- One retirement or replay in a region's 1 µs window (R203). -/
structure MismatchRec where
  time : Time
  /-- the arbiter pass it fell in (R204, R447) -/
  pass : Nat := 0
  cluster : ClusterId
  lane : BitVec 5
  /-- the retirement lowered the active count -/
  lowered : Bool
  /-- the spare that took the lane's place -/
  spareTaken : Option (BitVec 5)
  deriving DecidableEq, Repr

/-- The burst state of one region (R203). -/
structure RegionLanes where
  recent : List MismatchRec := []
  bursting : Bool := false
  /-- the region's last mismatch -/
  last : Time := 0
  deriving DecidableEq, Repr

/-- All lanes: the clusters 0 to 31 memory, 32 to 95 link, 96 service. -/
structure Lanes where
  clusters : Tab LaneCluster := []
  mem : RegionLanes := {}
  link : RegionLanes := {}
  svc : RegionLanes := {}
  /-- times of GHASH mismatches within 1 ms (R214) -/
  ghashTimes : List Time := []
  deriving DecidableEq, Repr

/-- A group named by its link, class and sequence number, and by the Agreement it came under: how many Agreements of the
link had ended before it. -/
structure GroupRef where
  link : LinkId
  cls : Cls
  seq : BitVec 64
  inst : Nat := 0
  deriving DecidableEq, Repr

/-- A record waiting at the fabric ingress checker (R432, R433). -/
structure FabRecWait where
  link : LinkId
  cls : Cls
  vd : VdId
  sender : Member
  slot : Slot
  /-- the Agreement it came under, as in `GroupRef` -/
  inst : Nat := 0
  record : FabRec
  deriving DecidableEq, Repr

/-- Whose an accepted request is, beside its master: a command of a front-end queue or a WRITE record of the pool's checker,
which are told how the access ended (R45, R239, R432), or the landing of a RING group in its receive ring, of which nobody
is told (R237); a request of a port of its own has none. -/
inductive MemTag where
  | cmd (c : CtxId) (q : BitVec 3) (k : Word)
  | fab (w : FabRecWait)
  | ring (l : LinkId) (c : Cls) (x : CtxId)
  deriving DecidableEq, Repr

/-- What a request at a memory channel port is for. A read carries the keys it fetched when it was issued, in trial order
(R168, R244), the fence entries of its line that it merges, and their groups (R240). A partial write or atomic carries the
bytes it merges (R227); a merged line whose write waits for the crossing to lock again keeps its identifier (R85). -/
inductive McPurpose where
  | read (m : Master) (keys : List Bytes) (merge : List (BitVec 64 × Line)) (refs : List GroupRef)
  | write (m : Master)
  | modify (m : Master) (keys : List Bytes) (mask : BitVec 64) (data : Line)
  | merged (m : Master) (data : Line)
  deriving DecidableEq, Repr

/-- A request outstanding at a controller (R42). -/
structure McReq where
  ch : ChanId
  sub : BitVec 2
  id : BitVec 6
  key : KeyIdx
  dpa : Dpa
  purpose : McPurpose
  /-- the responses owed under R35 after a reset are accepted and discarded -/
  discard : Bool
  tag : Option MemTag := none
  /-- the operations in flight at the cluster's lanes (R200) -/
  issue : List IssueRec := []
  deriving DecidableEq, Repr

/-- A memory channel's registers (Tables 8-6 to 8-8, 17-8). -/
structure McChan where
  tagFail : BitVec 8 := 0
  poisoned : BitVec 8 := 0
  sweepTagFail : BitVec 8 := 0
  corrected : BitVec 8 := 0
  lines : BitVec 21 := 0
  fail0 : BitVec 32 := 0
  fValid : Bool := false
  fKey : KeyIdx := 0
  fDiffers : Bool := false
  fNoCtx : Bool := false
  fCtx : CtxId := 0
  /-- sweep pointers by key index; a line address, or 2^32 at the end of a full channel -/
  sweepPtr : Tab (BitVec 33) := []
  written : BitVec 16 := 0
  deriving DecidableEq, Repr

/-- An entry of the verdict fence (R237). -/
structure FenceEntry where
  data : Line
  mask : BitVec 64
  dpa : Dpa
  key : KeyIdx
  master : Master
  refs : List GroupRef
  tag : Option MemTag := none
  deriving DecidableEq, Repr

/-- A request accepted and not yet issued: a read behind fence entries (R240), a write held by a full fence (R237), by a
Future not yet derived (R243) or by urgent (R249), a request behind a partial write to its line (R228), or one that finds
no identifier free (R42) or the crossing unlocked (R85). -/
structure MemWait where
  master : Master
  key : KeyIdx
  dpa : Dpa
  /-- none a read, some a write of the bytes in the mask -/
  write : Option (BitVec 64 × Line)
  atomic : Bool
  refs : List GroupRef
  tag : Option MemTag := none
  deriving DecidableEq, Repr

/-- An access that ended and whose requester the block has still to tell, within the same step: what ends with it is the
command, the iteration or the fabric record (R45, R230, R239, R432). -/
structure MemEnd where
  master : Master
  tag : Option MemTag
  /-- the line of the access -/
  dpa : Dpa
  status : BitVec 16
  alarm : Bool
  deriving DecidableEq, Repr

/-- KX_MEM_INDEX (Table 8-11). -/
structure MemIndex where
  assigned : Bool := false
  slot : Slot := 0
  sweeping : Bool := false
  urgent : Bool := false
  futureHeld : Bool := false
  sweepCount : BitVec 8 := 0
  deriving DecidableEq, Repr

/-- A protected range (Tables 8-6, 8-12). -/
structure ProtRange where
  base : BitVec 31 := 0
  limit : BitVec 31 := 0
  owner : Slot := 0
  enable : Bool := false
  deriving DecidableEq, Repr

/-- The Memory Region (Tables 8-6 to 8-12). -/
structure Mem where
  share : BitVec 2 := 1
  alarm : BitVec 6 := 0
  highWater : BitVec 16 := 0
  fence : List FenceEntry := []
  waits : List MemWait := []
  chans : Tab McChan := []
  idx : Tab MemIndex := []
  ranges : Tab ProtRange := []
  out : List McReq := []
  /-- accesses that ended in this step and whose requester is not told yet; empty between steps -/
  ends : List MemEnd := []
  deriving DecidableEq, Repr

/-- KX_FLT_HEALTH (Table 18-11), but for the bits read from the lanes and calibration. -/
structure Health where
  grade : BitVec 2 := 0
  coldCore : Bool := false
  otpSpare : Bool := false
  sramSpare : Bool := false
  /-- a memory other than ROM, script SRAM and key store could not be repaired (R126) -/
  memUnrepaired : Bool := false
  request : BitVec 2 := 0
  /-- the grade held when the last Full Stop began (R545) -/
  kept : BitVec 2 := 0
  deriving DecidableEq, Repr

/-- KX_FLT_LAST (Table 18-13). -/
structure FltLast where
  level : BitVec 3 := 0
  escalated : Bool := false
  cause : BitVec 8 := 0
  target : BitVec 10 := 0
  deriving DecidableEq, Repr

/-- KX_FLT_ENG[e] (Table 18-15) and the engine's progress counter (R523, R524). -/
structure FltEng where
  stallCount : BitVec 8 := 0
  guiltyCount : BitVec 8 := 0
  idleRun : BitVec 8 := 0
  replaying : Bool := false
  resetting : Bool := false
  stalled : Bool := false
  progress : Nat := 0
  sampled : Nat := 0
  /-- times of unattributed stalls within 1 s (R531) -/
  unattributed : List Time := []
  deriving DecidableEq, Repr

/-- A reset in progress (R535). -/
structure ResetRun where
  level : BitVec 3
  target : BitVec 10
  cause : BitVec 8
  deriving DecidableEq, Repr

/-- The suspect replay of one engine (R528). -/
structure ReplayRun where
  engine : EngineId
  /-- suspects not yet replayed, the one under test first -/
  suspects : List CtxId
  /-- suspects beyond the eighth, cleared without a replay -/
  rest : List CtxId := []
  /-- a replay of this sequence ended guilty -/
  guilty : Bool
  deriving DecidableEq, Repr

/-- Faults and resets (Tables 18-10 to 18-15). -/
structure Flt where
  health : Health := {}
  stallSamples : BitVec 8 := 16
  last : FltLast := {}
  countComma : BitVec 8 := 0
  countSemicolon : BitVec 8 := 0
  countColon : BitVec 8 := 0
  countFullStop : BitVec 8 := 0
  event : BitVec 7 := 0
  eng : Tab FltEng := []
  resets : List ResetRun := []
  replays : List ReplayRun := []
  /-- block-time stamps of the last three fault Full Stops, latest first (R536) -/
  stamps : List Time := []
  /-- times of timing faults of the three regions within 1 s (Table 18-6, TIMING) -/
  timingMem : List Time := []
  timingLink : List Time := []
  timingSvc : List Time := []
  deriving DecidableEq, Repr

/-- The tray sideband (R67, Table 2-15). -/
structure Tray where
  outstanding : Option Byte := none
  pending : List Byte := []
  stamp : BitVec 32 := 0
  ellipsisCount : BitVec 8 := 0
  request : BitVec 8 := 0
  reason : BitVec 8 := 0
  grade : BitVec 8 := 0
  deriving DecidableEq, Repr

end Sys2Proof.Machine
end

