-- ==== Sys2Proof/Machine/StateLink.lean ====
section
/-! DEFINITION. The block's state, second part: links, Agreements, delivery channels, trust domains, Domain Time and
the fabric. Every field's default is its reset value. -/

namespace Sys2Proof.Machine

/-- Link states (Table 9-13). -/
inductive LinkPhase where
  | down
  | up
  | agreeing
  | agreed
  | absent
  deriving DecidableEq, Repr

/-- The receive window of a stream (R264). -/
structure Window where
  any : Bool := false
  top : BitVec 64 := 0
  seen : BitVec 64 := 0
  deriving DecidableEq, Repr

/-- The link's boundary clocks (Table 3-8). -/
structure LinkClk where
  switchCount : BitVec 8 := 0
  earlyUp : Bool := false
  forcedRx : Bool := false
  forcedTx : Bool := false
  txLock : Bool := false
  rxLock : Bool := false
  txSel : Bool := false
  rxSel : Bool := false
  rxFreq : BitVec 11 := 0
  /-- the fallback is held until lk_up has been sampled low (R91) -/
  needDown : Bool := false
  deriving DecidableEq, Repr

/-- A received group that passed checks 1 to 8 and awaits its Verdict (R263). -/
structure RxFlight where
  cls : Cls
  seq : BitVec 64
  /-- the Agreement it came under, as in `GroupRef` -/
  inst : Nat := 0
  /-- its place in the order of arrival on the link (R263, R292) -/
  ord : Nat := 0
  header : BitVec 128
  payload : Bytes
  tag : BitVec 128
  /-- the link was lost before it had arrived (R51, R57) -/
  cut : Bool := false
  /-- the key and salt fetched when the group was accepted (R168) -/
  material : BitVec 288
  /-- the receive key row it was opened under -/
  row : Nat
  /-- tense under which the group was opened: 1 Past, 2 Present, 3 Future -/
  tense : BitVec 2
  rowGen : BitVec 32
  /-- the identifier it was delivered under, when delivered Subjunctive: it is unsettled on its channel (R54, R55) -/
  gid : Option (BitVec 16)
  /-- its data stands in the verdict fence (R237, R265) -/
  placed : Bool := false
  /-- its tag unit has arrived and the Verdict waits for the delivery port to present it (R54) -/
  due : Bool := false
  /-- contexts that consumed the group (R269) -/
  consumers : List CtxId
  /-- the operations in flight at the cluster's lanes (R200) -/
  issue : List IssueRec := []
  deriving DecidableEq, Repr

/-- A Confirmed group still in the link cluster's buffer (R265): a REDUCE group, a RING group whose ring is full, a fabric
group, or an Indicative delivery. -/
structure RxHeld where
  /-- when the group received Confirm (R341) -/
  stamp : Time
  cls : Cls
  seq : BitVec 64
  /-- the Agreement it came under, as in `GroupRef`, its partner and its slot -/
  inst : Nat := 0
  sender : Member := 0
  slot : Slot := 0
  /-- its place in the order of arrival on the link -/
  ord : Nat := 0
  header : BitVec 128
  payload : Bytes
  deriving DecidableEq, Repr

/-- A beat the delivery port presents (Table 2-9). -/
structure Beat where
  data : Bytes
  first : Bool
  last : Bool
  len : BitVec 9
  tc : Cls
  ctx : BitVec 10
  gid : BitVec 16
  subj : Bool
  trunc : Bool
  deriving DecidableEq, Repr

/-- A delivery channel (R53 to R57): its Subjunctive groups without a Verdict are the groups in flight that have an
identifier. -/
structure Delivery where
  gidNext : BitVec 16 := 0
  beats : List Beat := []
  deriving DecidableEq, Repr

/-- A TC0 group waiting on a link (R397): priority 0 HALT, 1 relayed, 2 originated. -/
structure Tc0Item where
  prio : BitVec 2
  /-- an OPEN group, else SEALED -/
  isOpen : Bool
  /-- the member an OPEN group is for -/
  dstMember : Member
  slot : Slot
  payload : Bytes
  deriving DecidableEq, Repr

/-- A group of TC1 to TC3 waiting to be sent (R270). -/
structure TxItem where
  cls : Cls
  kind : BitVec 2
  dest : BitVec 2
  ctxField : BitVec 10
  vdTag : VdId
  payload : Bytes
  /-- the context it is sent for -/
  ctx : Option CtxId
  /-- the program slot and iteration whose tile it carries -/
  prog : Option (ProgId × BitVec 32)
  /-- the groups whose Confirm it awaits (R270) -/
  refs : List GroupRef
  deriving DecidableEq, Repr

/-- The group on the wire: units not yet taken by the link layer (R32, R49). -/
structure WireGroup where
  cls : Cls
  units : Nat
  bytes : Bytes
  deriving DecidableEq, Repr

/-- One HALT in force on the link (R410). -/
structure Gate where
  classes : BitVec 4
  src : Member
  all : Bool
  /-- none: until HALT_RELEASE -/
  ends : Option Time
  deriving DecidableEq, Repr

/-- The transmitting end's Tense state of a class (Table 6-5): attempts 0 is Steady. -/
structure TenseTx where
  attempts : Nat := 0
  /-- KEY_LIMIT was recorded and no group starts until Steady (g + 1) -/
  stopped : Bool := false
  deriving DecidableEq, Repr

/-- The receiving end's Tense state of a class (Table 6-6). -/
structure TenseRx where
  ready : Bool := false
  /-- a KEY_FUTURE held until the Past is erased -/
  heldMsg : Option TenseMsg := none
  /-- the end of the Past grace (R180) -/
  pastEnds : Option Time := none
  deriving DecidableEq, Repr

/-- A message of OPEN groups of which not every fragment has arrived (R278): its fragments by index. -/
structure AgrPart where
  type : Byte
  count : Byte
  attempt : BitVec 32
  got : Tab Bytes
  deriving DecidableEq, Repr

/-- The secrets and transcript of an Agreement attempt, and what the partner showed of itself (R278 to R283). -/
structure Agr where
  nonce : Bytes := []
  kemSecret : BitVec 256 := 0
  ecdhSecret : BitVec 256 := 0
  hello : Bytes := []
  reply : Bytes := []
  th : Bytes := []
  ssKem : Bytes := []
  ssEcdh : Bytes := []
  las : BitVec 256 := 0
  lasReady : Bool := false
  peerCert : Bytes := []
  /-- from_slot the partner sent (Table 9-5, check 4) -/
  peerSlot : Slot := 0
  peerBoot : BitVec 64 := 0
  peerDigest : Bytes := []
  /-- the start of the attempt, or of the responder's first HELLO (R284) -/
  since : Option Time := none
  /-- LINK_AGREE was kept while lk_up was low (R277) -/
  kept : Bool := false
  /-- the responder has Confirmed the initiator's first SEALED group (R283) -/
  mayTransmit : Bool := false
  /-- partly reassembled messages (R278) -/
  parts : List AgrPart := []
  deriving DecidableEq, Repr

/-- Who waits for a fabric request: an access by itself, a command (queue, ring index, place of the line among its ranges),
or an iteration of a program. -/
inductive FabOwner where
  | access
  | cmd (q : BitVec 3) (k : Word) (key : Nat)
  | prog (p : ProgId) (iter : BitVec 32)
  deriving DecidableEq, Repr

/-- A fabric request outstanding on a link (R427, R428). -/
structure FabOut where
  tag : BitVec 16
  line : BitVec 36
  write : Bool
  ctx : CtxId
  owner : FabOwner
  /-- the requester has been reset: the response ends nothing -/
  gone : Bool
  deriving DecidableEq, Repr

/-- A fabric access waiting at its engine (R427, R428). -/
structure FabWait where
  line : BitVec 36
  write : Bool
  mask : BitVec 64
  data : Line
  ctx : CtxId
  vd : VdId
  owner : FabOwner
  deriving DecidableEq, Repr

/-- Link state, partner, events, counters and tombstone (Tables 9-16 to 9-21, 13-7, 14-7). -/
structure LinkCore where
  phase : LinkPhase := .down
  /-- the lk_up pin as last sampled -/
  up : Bool := false
  retrain : Bool := false
  lastEnd : BitVec 8 := 0
  slot : Slot := 0
  pValid : Bool := false
  pLink : LinkId := 0
  pMember : Member := 0
  abortSent : BitVec 8 := 0
  abortRcvd : BitVec 8 := 0
  agreeCount : BitVec 8 := 0
  initiator : Bool := false
  attempt : BitVec 2 := 0
  event : BitVec 10 := 0
  repudiates : BitVec 16 := 0
  tagFails : BitVec 16 := 0
  formats : BitVec 8 := 0
  windows : BitVec 8 := 0
  keyGens : BitVec 8 := 0
  destBads : BitVec 8 := 0
  tombLive : Bool := false
  reappear : BitVec 4 := 0
  tombLink : LinkId := 0
  tombMember : Member := 0
  deriving DecidableEq, Repr

/-- The tombstone's further content (R290). -/
structure Tomb where
  digest : Bytes := []
  boot : BitVec 64 := 0
  cause : BitVec 8 := 0
  time : Time := 0
  deriving DecidableEq, Repr

/-- The link's TC0 side: queue, tokens, gates and counters (R397, R398, Table 13-6). -/
structure LinkTc0 where
  queue : List Tc0Item := []
  tokens : BitVec 3 := 4
  lastTx : Time := 0
  /-- the partner's stratum as its last TIME message said; 15 not known (R414) -/
  peerStratum : BitVec 4 := 15
  /-- t3 of the last exchange answered on the link, in Domain Time, units of 0.125 ns (R415) -/
  t3last : BitVec 64 := 0
  gates : List Gate := []
  gateReason : BitVec 8 := 0
  gateSrc : Member := 0
  bad : BitVec 8 := 0
  haltRefused : BitVec 8 := 0
  hopDrop : BitVec 8 := 0
  routeMiss : BitVec 8 := 0
  deriving DecidableEq, Repr

/-- Streams, credits and groups on their way (R255 to R270). -/
structure LinkIo where
  txSeq : Tab (BitVec 64) := []
  openSeq : BitVec 64 := 0
  windows : Tab Window := []
  txCredits : Tab Nat := []
  /-- receive credits the link layer holds, per class (R47) -/
  rxCredits : Tab Nat := []
  /-- credits to issue when the receive clock qualifies or the delivery crossing locks (R85, R87) -/
  rxOwed : Bool := false
  /-- credits returned while the receive clock or the delivery crossing had no lock (R85, R87) -/
  rxOwedCredits : Tab Nat := []
  flight : List RxFlight := []
  held : List RxHeld := []
  txq : List TxItem := []
  /-- the group the link layer is taking, and one started behind it -/
  wire : List WireGroup := []
  /-- bytes of TC2 less bytes of TC3 sent, for the equal share (Table 9-4) -/
  share : Int := 0
  repTimes : List Time := []
  lastConfirm : Time := 0
  /-- groups accepted on the link so far, and Agreements of the link that have ended: they number `ord` and `inst` -/
  arrivals : Nat := 0
  inst : Nat := 0
  deriving DecidableEq, Repr

/-- One link cluster and its boundary. -/
structure Link where
  core : LinkCore := {}
  clk : LinkClk := {}
  tomb : Tomb := {}
  tc0 : LinkTc0 := {}
  io : LinkIo := {}
  agr : Agr := {}
  tenseTx : Tab TenseTx := []
  tenseRx : Tab TenseRx := []
  del : Delivery := {}
  fabStray : BitVec 8 := 0
  fabOut : List FabOut := []
  fabWait : List FabWait := []
  fabTag : BitVec 16 := 0
  /-- receive rings of a context and class on this link that have no room (R265) -/
  ringFull : List (Cls × CtxId) := []
  deriving DecidableEq, Repr

/-- Domain slot states (Table 12-20). -/
inductive DomPhase where
  | free
  | forming
  | joining
  | member
  | fragment
  deriving DecidableEq, Repr

/-- A declared partner of a link in a slot (R381). -/
structure Decl where
  partner : Member
  link : LinkId
  deriving DecidableEq, Repr

/-- A formation between FORM_REPLY and FORM_FINISH (Table 12-6). -/
structure FormPend where
  th : Bytes
  ssKem : Bytes
  ssEcdh : Bytes
  record : Bytes
  member : Member
  since : Time
  deriving DecidableEq, Repr

/-- A join at the child (Table 12-11). -/
structure JoinPend where
  link : LinkId
  manager : Member
  hall : BitVec 3
  drDigest : Bytes
  kemA : BitVec 256
  ecdhA : BitVec 256
  kemB : BitVec 256
  ecdhB : BitVec 256
  nonce : Bytes
  request : Bytes
  /-- the grant was taken; the Agreement with the parent is still to complete -/
  granted : Bool
  deriving DecidableEq, Repr

/-- A join at the manager, from the grant to JOIN_DONE (R377). -/
structure GrantRec where
  member : Member
  link : LinkId
  time : Time
  /-- SHA-384 of the child's alias keys (R370) -/
  digest : Bytes
  deriving DecidableEq, Repr

/-- Domain Time of a slot (R414 to R417, Table 13-8). -/
structure DomTime where
  /-- Domain Time less block time -/
  corr : BitVec 64 := 0
  locked : Bool := false
  stepped : Bool := false
  stratum : BitVec 4 := 15
  parent : Member := 0
  parentLink : LinkId := 0
  /-- an exchange has set Domain Time since the slot entered JOINING or MEMBER -/
  synced : Bool := false
  run : Nat := 0
  seq : BitVec 16 := 0
  /-- stamps of the exchange under way and of the one before, units of 0.125 ns -/
  t1 : BitVec 64 := 0
  t1prev : BitVec 64 := 0
  t2prev : BitVec 64 := 0
  t4prev : BitVec 64 := 0
  lastExchange : Time := 0
  /-- the offset the rate correction is working off, units of 0.125 ns -/
  residue : Int := 0
  deriving DecidableEq, Repr

/-- A route entry (R402): none names no link. -/
structure RouteEntry where
  primary : Option LinkId := none
  alternate : Option LinkId := none
  deriving DecidableEq, Repr

/-- A count this instance runs as the counter (R386 to R388). -/
structure CountRun where
  round : BitVec 32
  halls : BitVec 8
  members : Nat
  verifier : Bool
  /-- the count was closed without quorum and awaits the verifier's vote -/
  waiting : Bool
  deriving DecidableEq, Repr

/-- A Roster change a manager has stored and not yet acknowledged: the candidates whose confirmation is still out (R365). -/
structure RosterWait where
  member : Member
  version : BitVec 32
  waits : List Member
  deriving DecidableEq, Repr

/-- Manager state of a slot: census, rosters, contacts (R363 to R368, R376 to R380). -/
structure DomMgr where
  /-- last contact with each candidate (R363) -/
  contacts : Tab Time := []
  departed : List Member := []
  /-- the census state of each member of the halls managed here (R379) -/
  census : Tab (BitVec 2) := []
  censusSeq : BitVec 32 := 0
  latest : Tab Bytes := []
  grants : List GrantRec := []
  /-- requests that wait while 8 joins are carried (R375) -/
  joinQueue : List (LinkId × JoinRequest) := []
  /-- rows of the hall: member × 64 + link to the packed entry (R380) -/
  rosterRows : Tab (Member × LinkId × BitVec 3) := []
  rosterVersions : Tab (BitVec 32) := []
  /-- the virtual devices of each row -/
  rosterVds : Tab (BitVec 64) := []
  acks : List RosterWait := []
  count : Option CountRun := none
  deriving DecidableEq, Repr

/-- A domain slot (Tables 12-19 to 12-22) and what it holds. -/
structure Dom where
  phase : DomPhase := .free
  activeSm : Bool := false
  activeHm : Bool := false
  sysCand : Bool := false
  hallCand : Bool := false
  member : Member := 0
  epoch : BitVec 32 := 0
  round : BitVec 32 := 0
  votes : BitVec 4 := 0
  quorum : BitVec 4 := 0
  halls : BitVec 8 := 0
  verifier : Bool := false
  event : BitVec 6 := 0
  domainId : Bytes := []
  record : Bytes := []
  keyList : List (Member × Bytes) := []
  token : Bytes := []
  decls : Tab (Option Decl) := []
  ticket : Option (Member × Bytes) := none
  form : Option FormPend := none
  join : Option JoinPend := none
  /-- end of the rejoin window while FRAGMENT (R390) -/
  rejoinEnds : Option Time := none
  rosterVersion : BitVec 32 := 0
  /-- the change resent until ROSTER_ACK, as its version (R380) -/
  rosterPending : Bool := false
  hallPulseAt : Time := 0
  /-- the active Hall Manager as last announced -/
  hallManager : Member := 0
  /-- the active System Manager as last announced -/
  sysManager : Member := 0
  /-- the epochs of the hall secret and of the DCS the slot holds (R393) -/
  hallEpoch : BitVec 32 := 0
  dcsEpoch : BitVec 32 := 0
  transfer : BitVec 32 := 0
  mgr : DomMgr := {}
  time : DomTime := {}
  hallRt : Tab RouteEntry := []
  groupRt : Tab RouteEntry := []
  memberRt : Tab RouteEntry := []
  /-- KX_FAB_TBL_BASE and KX_FAB_TBL_CTL (Table 14-7) -/
  tblBase : BitVec 32 := 0
  tblKey : KeyIdx := 0
  tblPages : BitVec 22 := 0
  deriving DecidableEq, Repr

/-- A flood cache entry (R404): a fragment of a transfer. -/
structure FloodEntry where
  slot : Slot
  src : Member
  transfer : BitVec 32
  index : Byte
  time : Time
  deriving DecidableEq, Repr

/-- The fabric ingress checker (Tables 14-7, 14-8). -/
structure Fab where
  event : BitVec 5 := 0
  entryBad : BitVec 8 := 0
  trailing : BitVec 8 := 0
  ownership : BitVec 8 := 0
  rights : BitVec 8 := 0
  /-- cached page entries, key slot × 2^22 + page -/
  cache : Tab (Option (BitVec 128)) := []
  /-- table lines being read, slot × 2^19 + line -/
  misses : List (Slot × BitVec 19) := []
  queue : List FabRecWait := []
  deriving DecidableEq, Repr

end Sys2Proof.Machine
end

