-- ==== Sys2Proof/Machine/StateWork.lean ====
section
/-! DEFINITION. The block's state, third part: front end, functions and mailboxes, staging sessions, virtual devices,
reduction programs, power and meters, island, trace. Every field's default is its reset value. -/

namespace Sys2Proof.Machine

/-- A submission or completion ring (R441, R442). -/
structure Ring where
  base : BitVec 64 := 0
  size : BitVec 32 := 16
  tail : Word := 0
  head : Word := 0
  deriving DecidableEq, Repr

/-- Context states (Table 15-12). -/
inductive CtxPhase where
  | free
  | active
  | resetting
  | faulted
  deriving DecidableEq, Repr

/-- A completion held while the completion ring is full (R443). -/
structure HeldRec where
  cookie : BitVec 64
  status : BitVec 16
  queue : BitVec 3
  detail : BitVec 32
  irq : Bool
  opcode : BitVec 16
  layer : BitVec 16
  operator : BitVec 16
  deriving DecidableEq, Repr

/-- A context (R456 to R458, Tables 15-6, 15-11, 15-12). -/
structure Ctx where
  phase : CtxPhase := .free
  cause : BitVec 8 := 0
  ringErr : Bool := false
  cqFull : Bool := false
  fn : Fn := 0
  loc : BitVec 6 := 0
  /-- none: the control context -/
  vd : Option VdId := none
  rightsMax : BitVec 3 := 0
  vector : BitVec 11 := 0
  vaBase : BitVec 64 := 0
  vaSize : BitVec 64 := 0
  /-- submission rings Q0 to Q4 -/
  sq : Tab Ring := []
  cq : Ring := {}
  /-- translation generation (R461) -/
  transGen : BitVec 32 := 0
  /-- busy ns per engine class (R467) -/
  busy : Tab (BitVec 64) := []
  heldRecs : List HeldRec := []
  /-- commands cancelled before they were fetched (Table 15-5) -/
  cancelled : List (BitVec 3 × Word) := []
  /-- µJ of the context (R560) -/
  energy : BitVec 64 := 0
  /-- remainder below 1 µJ -/
  energyRem : Nat := 0
  /-- activity units of the current interval (Table 19-4) -/
  activity : Nat := 0
  /-- link and seq of the LINK_REPUDIATE that faulted the context (R273) -/
  faultGroup : Option GroupRef := none
  deriving DecidableEq, Repr

/-- A memory object (R459, Table 15-7). -/
structure Obj where
  live : Bool := false
  reuse : BitVec 10 := 0
  va : BitVec 64 := 0
  size : BitVec 64 := 0
  target : BitVec 64 := 0
  fabric : Bool := false
  rights : BitVec 3 := 0
  key : KeyIdx := 0
  links : List LinkId := []
  poolMember : Member := 0
  taint : Bool := false
  /-- the context's translation generation when the object was mapped (R461) -/
  mapGen : BitVec 32 := 0
  deriving DecidableEq, Repr

/-- Command states (Table 15-4). -/
inductive CmdPhase where
  | fetched
  | waiting
  | ready
  | running
  deriving DecidableEq, Repr

/-- A translated address range of a command (R461). -/
structure Trans where
  ctx : CtxId
  num : BitVec 12
  reuse : BitVec 10
  target : BitVec 64
  key : KeyIdx
  rights : BitVec 3
  gen : BitVec 32
  len : Nat
  fabric : Bool
  /-- the links of a FABRIC object (R425) -/
  links : List LinkId
  deriving DecidableEq, Repr

/-- A fetched command and its retained descriptor (R458, R461). -/
structure Cmd where
  ctx : CtxId
  queue : BitVec 3
  k : Word
  opcode : BitVec 16
  irq : Bool
  layer : BitVec 16
  operator : BitVec 16
  cookie : BitVec 64
  body : Bytes
  phase : CmdPhase
  trans : List Trans
  /-- the status and detail it will complete with, once decided -/
  result : Option (BitVec 16 × BitVec 32)
  cancel : Bool
  /-- while RUNNING: block time up to which its class's busy time has been accounted (R467) -/
  started : Time
  /-- staging: blocks reserved under the key (R482) and the generation bound (R173) -/
  blocks : Nat
  boundGen : BitVec 32
  /-- the key and salt a staging command fetched (R168) -/
  material : BitVec 288
  /-- the groups the context consumed at issue (R270) -/
  refs : List GroupRef
  /-- fabric lines read for the command, by their place among its ranges -/
  fabGot : Tab (Option Line)
  /-- the command has made every access; it ends with ST_OK and `detail` once its writes are performed (R45, R239) -/
  issued : Bool
  detail : BitVec 32 := 0
  /-- STG_IN: it has asked for its first chunk (R61) -/
  asked : Bool := false
  /-- STG_IN: the line of a last chunk that lies in one line of its own (R491) -/
  sole : Option Dpa := none
  /-- CS_AES_ENC and CS_AES_DEC: the engine's key register, the key and its round keys 13 and 14 (R211) -/
  csKey : Option (BitVec 512) := none
  deriving DecidableEq, Repr

/-- Function states (Table 16-8). -/
inductive FnPhase where
  | closed
  | opened
  | draining
  | drained
  deriving DecidableEq, Repr

/-- KX_FE_SHARE and the arbiter's state of one function and queue (R448, R450, Table 15-13). -/
structure Share where
  weight : BitVec 8 := 16
  rate : BitVec 12 := 0
  burst : BitVec 12 := 256
  deficit : Nat := 0
  bucket : Int := 256
  deriving DecidableEq, Repr

/-- Mailbox registers (Tables 16-10 to 16-12). -/
structure Mbx where
  req : BitVec 64 := 0
  reqLen : BitVec 17 := 16
  rsp : BitVec 64 := 0
  rspMax : BitVec 17 := 16
  vector : BitVec 11 := 0
  busy : Bool := false
  /-- the doorbell of the request in progress was taken while the function was OPEN (Table 16-8) -/
  taken : Bool := false
  done : Bool := false
  status : BitVec 16 := 0
  rspLen : BitVec 17 := 0
  deriving DecidableEq, Repr

/-- A Host Agreement between HA_REPLY and HA_FINISH (R480). -/
structure HaPend where
  sessionId : BitVec 32
  slot : Slot
  th : Bytes
  ssKem : Bytes
  ssEcdh : Bytes
  vmKeys : Bytes
  since : Time
  deriving DecidableEq, Repr

/-- A rolling STG_REKEY (R484). -/
structure Rekey where
  ctx : CtxId
  k : Word
  gen : BitVec 32
  deriving DecidableEq, Repr

/-- A staging session (Table 16-14, R482 to R484). -/
structure Sess where
  opened : Bool := false
  slot : Slot := 0
  thrOut : Bool := false
  thrIn : Bool := false
  seqIn : BitVec 64 := 0
  seqOut : BitVec 64 := 0
  rekeyIn : Option Rekey := none
  rekeyOut : Option Rekey := none
  pend : Option HaPend := none
  deriving DecidableEq, Repr

/-- The ring registers of a local number that no context holds (Table 15-11). -/
structure IdleRings where
  sq : Tab Ring := []
  cq : Ring := {}
  deriving DecidableEq, Repr

/-- The SPDM responder's negotiation state (R494): 0 start, 1 version, 2 capabilities, 3 algorithms. -/
abbrev SpdmState := BitVec 2

/-- A function (Tables 15-11, 16-8, 16-15, 19-9). -/
structure Func where
  phase : FnPhase := .closed
  cqDropped : BitVec 8 := 0
  drained : Bool := false
  flrPending : Bool := false
  qsel : BitVec 9 := 0
  pwrSel : CtxId := 0
  shares : Tab Share := []
  mbx : Mbx := {}
  sess : Sess := {}
  spdm : SpdmState := 0
  /-- key: local number -/
  idle : Tab IdleRings := []
  deriving DecidableEq, Repr

/-- A staging read outstanding: the command it is for, and its bytes still to come (R61). -/
structure DmaRead where
  ctx : CtxId
  queue : BitVec 3
  k : Word
  left : Nat
  /-- nobody waits for it any more: what is owed is accepted and discarded (R35) -/
  gone : Bool := false
  deriving DecidableEq, Repr

/-- The front end: contexts, objects, commands in flight, arbiter pointers. -/
structure Fe where
  ctxs : Tab Ctx := []
  /-- key: context × 4096 + object number -/
  objs : Tab Obj := []
  cmds : List Cmd := []
  fns : Tab Func := []
  /-- next function to visit, key: engine class × 8 + queue -/
  rrFn : Tab Nat := []
  /-- next context to visit within a function, key: queue × 256 + function -/
  rrCtx : Tab Nat := []
  stgErrFn : Fn := 0
  /-- staging DMA reads outstanding, by identifier (R61) -/
  dmaReads : Tab (Option DmaRead) := []
  /-- passes of the arbiter's token (R447) -/
  passes : Nat := 0
  /-- the replay store: the descriptors of suspects as copied at the stall, by engine (R528) -/
  replayStore : List (EngineId × Cmd) := []
  deriving DecidableEq, Repr

/-- A virtual device's bindings (Tables 17-1, 17-11). -/
structure Vd where
  present : Bool := false
  slot : Option Slot := none
  chans : BitVec 32 := 0
  links : BitVec 64 := 0
  keys : BitVec 16 := 0
  progs : BitVec 256 := 0
  deriving DecidableEq, Repr

/-- KX_FE_VD_STAT and the virtual devices. -/
structure Vds where
  vds : Tab Vd := []
  busy : Bool := false
  done : Bool := false
  status : BitVec 16 := 0
  deriving DecidableEq, Repr

/-- A stage of a program descriptor (Table 11-4). -/
structure Stage where
  inLinks : BitVec 64
  outLinks : BitVec 64
  elemBase : Nat
  elemCount : Nat
  kind : BitVec 2
  localIn : Bool
  localOut : Bool
  emit : BitVec 2
  inStage : BitVec 8
  outStage : BitVec 8
  rstage : BitVec 32
  deriving DecidableEq, Repr

/-- A program descriptor (Table 11-3). -/
structure ProgDesc where
  seed : BitVec 64
  elemTotal : Nat
  inFmt : BitVec 4
  outFmt : BitVec 4
  op : BitVec 4
  rmode : BitVec 2
  compact : Bool
  sigma : BitVec 32
  count : BitVec 32
  depth : Nat
  skewReport : Bool
  skewThr : BitVec 32
  stages : List Stage
  deriving DecidableEq, Repr

/-- An accumulator slot (R301): an exact multiple of 2^q and the special flags. -/
structure Acc where
  s : Int := 0
  nan : Bool := false
  pinf : Bool := false
  ninf : Bool := false
  ovfPos : Bool := false
  ovfNeg : Bool := false
  /-- a contribution was a value other than −0 -/
  nz : Bool := false
  /-- a contribution has been combined (R306) -/
  any : Bool := false
  /-- MAX and MIN: a contribution other than NaN is held (R305) -/
  held : Bool := false
  deriving DecidableEq, Repr

/-- A part of a tile's unit as it arrived: source (a link, or 64 the local one), part index, last, bytes. -/
structure TilePart where
  src : Nat
  part : Nat
  last : Bool
  bytes : Bytes
  deriving DecidableEq, Repr

/-- A tile of a stage in an open iteration. -/
structure Tile where
  parts : List TilePart := []
  /-- sources whose contribution to the tile has been added, bit 64 the local one -/
  added : BitVec 65 := 0
  accs : List Acc := []
  /-- the unit emitted, or copied by a FORWARD stage -/
  unit : Bytes := []
  emitted : Bool := false
  deriving DecidableEq, Repr

/-- A stage's state in an open iteration: the key of a tile is its index in the stage. -/
structure StageRun where
  tiles : Tab Tile := []
  /-- arrival stamps by contributor, 64 the local one (R341) -/
  arrivals : List (Nat × Time) := []
  /-- next tile to send, by rising order (R334) -/
  nextOut : Nat := 0
  /-- when the stage completed its last tile (R341, R342) -/
  doneAt : Option Time := none
  /-- its skew in ns and its slowest member, once complete (R341) -/
  skew : Option (BitVec 16 × Member) := none
  deriving DecidableEq, Repr

/-- What an accepted PROG_GO supplies (R330). -/
structure GoInfo where
  ctx : CtxId
  k : Word
  elemOffset : Nat
  src : Option Trans
  dst : Option Trans
  /-- the local contributions from the src buffer have been read (R336) -/
  localRead : Bool := false
  deriving DecidableEq, Repr

/-- An open iteration. -/
structure Iter where
  num : BitVec 32
  go : Option GoInfo
  stages : Tab StageRun
  deriving DecidableEq, Repr

/-- Program slot states (Table 11-2). -/
inductive ProgPhase where
  | free
  | loaded
  | running
  | ended
  deriving DecidableEq, Repr

/-- A program slot (Tables 11-2, 11-15 to 11-20). -/
structure Prog where
  phase : ProgPhase := .free
  ctx : CtxId := 0
  vd : VdId := 0
  slot : Slot := 0
  desc : Option ProgDesc := none
  units : Nat := 0
  /-- the lowest iteration neither completed nor faulted; up to 2^32 -/
  low : Nat := 0
  /-- the iteration the next PROG_GO must name; 2^32 when none passes -/
  nextGo : Nat := 0
  iters : List Iter := []
  /-- faulted iterations whose PROG_GO has not arrived, with the status it completes with (R345) -/
  faultedAhead : List (Nat × BitVec 16) := []
  /-- iterations that ended out of order above low -/
  endedAhead : List Nat := []
  lastFault : BitVec 8 := 0
  doneLo : BitVec 8 := 0
  lateCount : BitVec 4 := 0
  held : Bool := false
  arithInvalid : Bool := false
  arithOvf : Bool := false
  fault : Bool := false
  skewNs : BitVec 16 := 0
  skewStage : BitVec 5 := 0
  slow : Member := 0
  skewWord : Option (BitVec 64) := none
  lastBudget : Option Time := none
  deriving DecidableEq, Repr

/-- The reduction engine (Tables 11-15 to 11-17). -/
structure Red where
  unitsFree : BitVec 17 := 0x10000
  event : BitVec 5 := 0
  progs : Tab Prog := []
  deriving DecidableEq, Repr

/-- A meter report waiting for signature and delivery (R565 to R567). -/
structure HeldReport where
  body : Bytes
  deriving DecidableEq, Repr

/-- A slot's meters and boundary registers (Tables 19-5, 19-9, 19-12). -/
structure Mtr where
  bound : BitVec 64 := 0
  utc : BitVec 64 := 0
  period : BitVec 32 := 0
  rpt : BitVec 64 := 0
  last : BitVec 64 := 0
  pendingT : Option (BitVec 64 × BitVec 64) := none
  /-- the request was accepted with its boundary already past (R564) -/
  late : Bool := false
  rptDropped : Bool := false
  sat : Bool := false
  status : BitVec 16 := 0
  /-- bytes (blocks, elements) counted, key: 0–15 mem_sealed, 16 + 2c + d link, 24 crypto, 25 elements, 26, 27 staging -/
  counts : Tab Nat := []
  energy : BitVec 64 := 0
  seq : BitVec 32 := 0
  tPrev : BitVec 64 := 0
  skipped : BitVec 16 := 0
  takenAny : Bool := false
  /-- a boundary has been taken for the slot in this run (R563) -/
  boundAny : Bool := false
  heldReports : List HeldReport := []
  deriving DecidableEq, Repr

/-- Power and metering (Tables 19-9 to 19-12). -/
structure Pwr where
  limVkx : BitVec 12 := 1300
  limVkm : BitVec 12 := 300
  pendVkx : Option (BitVec 12) := none
  pendVkm : Option (BitVec 12) := none
  zeroCount : BitVec 16 := 0
  inForce : BitVec 6 := 0
  budDropped : Bool := false
  budSkipped : Bool := false
  limUnmet : Bool := false
  limClamped : Bool := false
  budStep : BitVec 12 := 0
  windowUs : BitVec 5 := 4
  /-- the window length in use; a write takes effect at the next window (R551) -/
  windowNow : BitVec 5 := 4
  measVkx : BitVec 16 := 0
  measVkm : BitVec 16 := 0
  /-- throttle ns by reason -/
  thr : Tab (BitVec 64) := []
  /-- when each reason in force began -/
  since : Tab Time := []
  /-- issue rate in 16ths of full: the limit throttles' and the droop throttles' of the three regions -/
  limRate : BitVec 5 := 16
  droopMem : BitVec 5 := 16
  droopLink : BitVec 5 := 16
  droopSvc : BitVec 5 := 16
  blkEnergy : BitVec 64 := 0
  blkEnergyRem : Nat := 0
  blkActivity : Nat := 0
  /-- activity of groups tied to no context, by slot (R559) -/
  slotActivity : Tab Nat := []
  slotEnergyRem : Tab Nat := []
  budQueue : List (BitVec 64) := []
  run : BitVec 32 := 0
  mtrs : Tab Mtr := []
  deriving DecidableEq, Repr

/-- One tamper input (Tables 20-4, 20-8). -/
structure Tamper where
  action : BitVec 2 := 0
  filter : BitVec 6 := 0
  activeHigh : Bool := false
  enable : Bool := false
  count : BitVec 8 := 0
  armPending : Bool := false
  activeNow : Bool := false
  masked : Bool := false
  latched : Bool := false
  deriving DecidableEq, Repr

/-- The always-on island (Tables 20-1, 20-6). The Full Stop stamps, counts and KX_FLT_LAST stand in `Flt`. -/
structure Isl where
  tampers : Tab Tamper := []
  causeValid : Bool := false
  causePorLow : Bool := false
  causeOnVbat : Bool := false
  causeInputs : BitVec 4 := 0
  stamp : BitVec 64 := 0
  stampCnt : BitVec 32 := 0
  key : BitVec 256 := 0
  /-- 0 EMPTY, 1 VALID, 2 ZEROISED (Table 20-3) -/
  keyState : BitVec 2 := 0
  mono : BitVec 64 := 0
  storedTime : BitVec 64 := 0
  elapsed : BitVec 48 := 0
  lock : Bool := false
  tamperAtStart : Bool := false
  cold : Bool := false
  onVbat : Bool := false
  /-- how the sealed-state restore of this start completed, and what it opened (R578); none before it -/
  restore : Option (BitVec 16 × Bytes) := none
  deriving DecidableEq, Repr

/-- A trace record before its sequence number (Table 21-3). -/
structure TraceRec where
  stamp : Time
  type : Byte
  flags : Byte
  ctx : BitVec 16
  layer : BitVec 16
  operator : BitVec 16
  seq : BitVec 32
  arg : Bytes
  deriving DecidableEq, Repr

/-- Telemetry and trace (Tables 21-6 to 21-8). -/
structure Tel where
  wrap : Bool := false
  run : Bool := false
  lost : BitVec 24 := 0
  dmaErr : Bool := false
  overflow : Bool := false
  active : Bool := false
  base : BitVec 64 := 0
  size : Word := 128
  head : Word := 0
  tail : Word := 0
  typeMask : BitVec 12 := 0
  filterEn : Bool := false
  filterCtx : CtxId := 0
  markLo : Word := 0
  markHi : Word := 0
  counters : Tab (BitVec 64) := []
  seq : BitVec 32 := 0
  fifo : List TraceRec := []
  /-- records dropped since the last LOST record (R591) -/
  lostSince : BitVec 32 := 0
  deriving DecidableEq, Repr

end Sys2Proof.Machine
end

