-- ==== Sys2Proof/Machine/State.lean ====
section
/-! DEFINITION. The state of the block, its faults and refusals, its reset, and the accessors of its tables. -/

namespace Sys2Proof.Machine

/-- What the block puts on one of its ports, or hands to its own trust-core firmware. -/
inductive PortOut where
  /-- a register port response (R37, R40, Table 2-4) -/
  | regRsp (data : Word) (code : BitVec 2)
  /-- a DBG_ACCESS response; BYPASS where the access is not open (R71, R597) -/
  | dbgRsp (data : Word) (code : BitVec 2)
  | dbgBypass
  /-- a request to a memory controller (Table 2-5) -/
  | mcReq (ch : ChanId) (sub : BitVec 2) (id : BitVec 6) (write : Bool) (addr : BitVec 32) (data : Line) (side : BitVec 32)
  /-- a verified line released to its requester, with the groups it is tied to (R226, R240) -/
  | memData (m : Master) (dpa : Dpa) (data : Line) (refs : List GroupRef)
  /-- a write performed, and the ends that carry no data, by the status of Table 15-9 (R230, R235, R225) -/
  | memDone (m : Master) (dpa : Dpa) (status : BitVec 16)
  /-- MEM_TAG_FAIL to the trust core and the fault logic: channel, line address, key index, context (R231) -/
  | memTagFail (ch : ChanId) (line : BitVec 32) (key : KeyIdx) (ctx : Option CtxId)
  /-- receive credits returned (Table 2-7) -/
  | lkCred (l : LinkId) (c : Cls) (n : Nat)
  /-- a group started on the wire (R49, R256) -/
  | lkGroup (l : LinkId) (bytes : Bytes)
  /-- the beat of a group taken by the link layer -/
  | lkUnits (l : LinkId) (n : Nat)
  | cdBeat (l : LinkId) (b : Beat)
  | cdVerdict (l : LinkId) (gid : BitVec 16) (confirm : Bool)
  | cdFlush
  /-- host DMA (Table 2-11) -/
  | hdRead (fn : Fn) (addr : BitVec 64) (len : BitVec 13) (id : BitVec 8)
  | hdWrite (fn : Fn) (addr : BitVec 64) (data : Bytes)
  | msi (fn : Fn) (vec : BitVec 11)
  | flrAck (fn : Fn)
  /-- the In-Band Interrupt's mandatory data byte (Table 2-14) -/
  | trayIbi (b : Byte)
  | pmSkew (w : BitVec 64)
  | pmBud (w : BitVec 64)
  /-- fl_reset_b low for 10 µs, then 100 µs before the first command (R66) -/
  | flashReset
  /-- a flash read (R65): command bytes, dummy cycles, offset and length -/
  | flashRead (command : Bytes) (dummy off len : Nat)
  /-- a TC0 message handed to the trust core: link, slot and reassembly fragment (R400) -/
  | tcMessage (l : LinkId) (slot : Slot) (payload : Bytes)
  /-- a fragment of an OPEN group handed to the Agreement function (R259), and a message of them that is whole (R278) -/
  | agreeFragment (l : LinkId) (payload : Bytes)
  | agreeMessage (l : LinkId) (bytes : Bytes)
  /-- LINK_REPUDIATE: link, class, seq and the failing check of Table 9-5, 0 for a group cut off or flushed (R273) -/
  | linkRepudiate (l : LinkId) (c : Cls) (seq : BitVec 64) (check : Nat)
  /-- a record of an event that has no register of its own, by its fault cause (Table 18-6) -/
  | record (cause : BitVec 8) (target : Nat)
  /-- what Korux reports of a domain slot without a mailbox request: ST_DOMAIN_RECORD (R360), ST_FORMATION (R359),
  ST_KEY_UNWRAP (R170) -/
  | report (d : Slot) (status : BitVec 16)
  /-- a link transmit of a context that is refused (R96, R390) -/
  | linkDone (c : CtxId) (l : LinkId) (status : BitVec 16)
  /-- a fabric access's end at its requester (R429, Table 14-3) -/
  | fabDone (c : CtxId) (line : BitVec 36) (status : BitVec 16) (data : Option Line)
  /-- state the trust-core firmware keeps outside the block, sealed (R578) -/
  | sealedState (data : Bytes)
  deriving DecidableEq, Repr

/-- The state of the block. -/
structure State where
  sys : Sys := {}
  glb : Glb := {}
  clk : Clk := {}
  boot : Boot := {}
  lcd : Lcd := {}
  /-- OTP rows 0 to 71 (Table 5-4) -/
  otp : Tab (BitVec 64) := []
  keys : Keys := {}
  lanes : Lanes := {}
  mem : Mem := {}
  links : Tab Link := []
  doms : Tab Dom := []
  flood : List FloodEntry := []
  fab : Fab := {}
  fe : Fe := {}
  vd : Vds := {}
  red : Red := {}
  flt : Flt := {}
  tray : Tray := {}
  pwr : Pwr := {}
  isl : Isl := {}
  tel : Tel := {}
  /-- the model's own: the number of free values drawn so far -/
  freeCtr : Nat := 0
  /-- what the block has put on its ports, newest first -/
  outs : List PortOut := []
  /-- commands waiting, first in first out -/
  pending : List Instr := []
  deriving DecidableEq, Repr

/-- Why a step stops. -/
inductive Fault where
  /-- An engine number above 101 (Table 18-1): no such engine exists. Raised by ENGINE_STALL, REPLAY_GUILTY,
  REPLAY_CLEARED and SRAM_FAULT. Safe: no engine of the block raises the event. -/
  | noSuchEngine (e : EngineId)
  deriving DecidableEq, Repr

/-- Why a command is refused. -/
inductive Refusal where
  /-- The command has no meaning yet. Raised by the dispatch alone. Safe: nothing is claimed of it. -/
  | notModelled (mnemonic : String)
  deriving DecidableEq, Repr

/-- The block as it stands with por_b low and every register at its reset value (R604). -/
def State.reset : State := {}

namespace State

def link (s : State) (l : LinkId) : Link := Tab.get {} s.links l.toNat
def setLink (s : State) (l : LinkId) (v : Link) : State := { s with links := Tab.set {} s.links l.toNat v }
def modLink (s : State) (l : LinkId) (f : Link → Link) : State := s.setLink l (f (s.link l))

def dom (s : State) (d : Slot) : Dom := Tab.get {} s.doms d.toNat
def setDom (s : State) (d : Slot) (v : Dom) : State := { s with doms := Tab.set {} s.doms d.toNat v }
def modDom (s : State) (d : Slot) (f : Dom → Dom) : State := s.setDom d (f (s.dom d))

def ctx (s : State) (c : CtxId) : Ctx := Tab.get {} s.fe.ctxs c.toNat
def setCtx (s : State) (c : CtxId) (v : Ctx) : State := { s with fe.ctxs := Tab.set {} s.fe.ctxs c.toNat v }
def modCtx (s : State) (c : CtxId) (f : Ctx → Ctx) : State := s.setCtx c (f (s.ctx c))

def func (s : State) (f : Fn) : Func := Tab.get {} s.fe.fns f.toNat
def setFunc (s : State) (f : Fn) (v : Func) : State := { s with fe.fns := Tab.set {} s.fe.fns f.toNat v }
def modFunc (s : State) (f : Fn) (g : Func → Func) : State := s.setFunc f (g (s.func f))

def row (s : State) (r : Nat) : KeyRow := Tab.get {} s.keys.rows r
def setRow (s : State) (r : Nat) (v : KeyRow) : State := { s with keys.rows := Tab.set {} s.keys.rows r v }

def chan (s : State) (c : ChanId) : McChan := Tab.get {} s.mem.chans c.toNat
def setChan (s : State) (c : ChanId) (v : McChan) : State := { s with mem.chans := Tab.set {} s.mem.chans c.toNat v }
def modChan (s : State) (c : ChanId) (f : McChan → McChan) : State := s.setChan c (f (s.chan c))

def memIdx (s : State) (i : KeyIdx) : MemIndex := Tab.get {} s.mem.idx i.toNat
def setMemIdx (s : State) (i : KeyIdx) (v : MemIndex) : State := { s with mem.idx := Tab.set {} s.mem.idx i.toNat v }

def vdev (s : State) (v : VdId) : Vd := Tab.get {} s.vd.vds v.toNat
def setVdev (s : State) (v : VdId) (d : Vd) : State := { s with vd.vds := Tab.set {} s.vd.vds v.toNat d }
def modVdev (s : State) (v : VdId) (f : Vd → Vd) : State := s.setVdev v (f (s.vdev v))

def prog (s : State) (p : ProgId) : Prog := Tab.get {} s.red.progs p.toNat
def setProg (s : State) (p : ProgId) (v : Prog) : State := { s with red.progs := Tab.set {} s.red.progs p.toNat v }
def modProg (s : State) (p : ProgId) (f : Prog → Prog) : State := s.setProg p (f (s.prog p))

def eng (s : State) (e : Nat) : FltEng := Tab.get {} s.flt.eng e
def setEng (s : State) (e : Nat) (v : FltEng) : State := { s with flt.eng := Tab.set {} s.flt.eng e v }
def modEng (s : State) (e : Nat) (f : FltEng → FltEng) : State := s.setEng e (f (s.eng e))

def tamper (s : State) (i : BitVec 2) : Tamper := Tab.get {} s.isl.tampers i.toNat
def setTamper (s : State) (i : BitVec 2) (v : Tamper) : State := { s with isl.tampers := Tab.set {} s.isl.tampers i.toNat v }

def mtr (s : State) (d : Slot) : Mtr := Tab.get {} s.pwr.mtrs d.toNat
def setMtr (s : State) (d : Slot) (v : Mtr) : State := { s with pwr.mtrs := Tab.set {} s.pwr.mtrs d.toNat v }
def modMtr (s : State) (d : Slot) (f : Mtr → Mtr) : State := s.setMtr d (f (s.mtr d))

def out (s : State) (o : PortOut) : State := { s with outs := o :: s.outs }

end State

end Sys2Proof.Machine
end

