-- ==== Sys2Proof/Machine/Arith.lean ====
section
/-! DEFINITION. Number formats and exact reduction arithmetic (R294 to R320). -/

namespace Sys2Proof.Machine

/-! ### Formats (Tables 10-1 to 10-3) -/

/-- Float element parameters (Table 10-2). `nan`: 0 none, 1 as IEEE, 2 as E4M3. -/
structure FpFmt where
  p : Nat
  ebits : Nat
  emin : Int
  emax : Int
  maxSig : Nat
  inf : Bool
  nan : Nat
  deriving DecidableEq, Repr

def fFP32 : FpFmt := { p := 24, ebits := 8, emin := -126, emax := 127, maxSig := 2 ^ 24 - 1, inf := true, nan := 1 }
def fFP16 : FpFmt := { p := 11, ebits := 5, emin := -14, emax := 15, maxSig := 2047, inf := true, nan := 1 }
def fBF16 : FpFmt := { p := 8, ebits := 8, emin := -126, emax := 127, maxSig := 255, inf := true, nan := 1 }
def fSF24 : FpFmt := { p := 16, ebits := 8, emin := -126, emax := 127, maxSig := 65535, inf := true, nan := 1 }
def fE4M3 : FpFmt := { p := 4, ebits := 4, emin := -6, emax := 8, maxSig := 14, inf := false, nan := 2 }
def fE5M2 : FpFmt := { p := 3, ebits := 5, emin := -14, emax := 15, maxSig := 7, inf := true, nan := 1 }
def fE3M2 : FpFmt := { p := 3, ebits := 3, emin := -2, emax := 4, maxSig := 7, inf := false, nan := 0 }
def fE2M3 : FpFmt := { p := 4, ebits := 2, emin := 0, emax := 2, maxSig := 15, inf := false, nan := 0 }
def fE2M1 : FpFmt := { p := 2, ebits := 2, emin := 0, emax := 2, maxSig := 3, inf := false, nan := 0 }

def FpFmt.q (f : FpFmt) : Int := f.emin - (f.p - 1)
def FpFmt.bias (f : FpFmt) : Int := 1 - f.emin
def FpFmt.width (f : FpFmt) : Nat := f.ebits + f.p

/-- How a format holds its elements: floats, MX blocks of floats, MX blocks of bytes, integers. -/
inductive FmtKind where
  | float (f : FpFmt)
  | mx (f : FpFmt)
  | mxInt
  | int (w : Nat)
  | reserved
  deriving DecidableEq, Repr

/-- Table 10-1. -/
def fmtKind (code : BitVec 4) : FmtKind :=
  if code = 0x0 then .float fFP32 else if code = 0x1 then .float fFP16 else if code = 0x2 then .float fBF16
  else if code = 0x3 then .float fE4M3 else if code = 0x4 then .float fE5M2 else if code = 0x5 then .mx fE4M3
  else if code = 0x6 then .mx fE5M2 else if code = 0x7 then .mx fE3M2 else if code = 0x8 then .mx fE2M3
  else if code = 0x9 then .mx fE2M1 else if code = 0xA then .mxInt else if code = 0xB then .int 8
  else if code = 0xC then .int 16 else if code = 0xD then .int 32 else if code = 0xE then .float fSF24 else .reserved

/-- The exponent of the slot's unit: Table 10-2, Table 10-3, R300. -/
def fmtQ (code : BitVec 4) : Int :=
  match fmtKind code with
  | .float f => f.q
  | .mx f => f.q - 127
  | .mxInt => -133
  | _ => 0

/-- Slot width (R301). -/
def slotBits (code : BitVec 4) : Nat :=
  match fmtKind code with
  | .float f => if f = fFP16 ∨ f = fE4M3 ∨ f = fE5M2 then 64 else 320
  | .int _ => 64
  | _ => 320

def isMx (code : BitVec 4) : Bool :=
  match fmtKind code with
  | .mx _ => true
  | .mxInt => true
  | _ => false

/-- Element width in bits. -/
def elemBits (code : BitVec 4) : Nat :=
  match fmtKind code with
  | .float f => f.width
  | .mx f => f.width
  | .mxInt => 8
  | .int w => w
  | .reserved => 8

/-- Bytes of `n` elements (R297, R298). -/
def packedBytes (code : BitVec 4) (n : Nat) : Nat :=
  if isMx code then ((n + 31) / 32) * (elemBits code * 4 + 1) else n * (elemBits code / 8)

/-- Bytes of one tile with `n` valid elements: MX formats take the whole block. -/
def tileBytes (code : BitVec 4) (n : Nat) : Nat := if n = 0 then 0 else packedBytes code n

/-! ### Decoding (R296 to R300) -/

/-- A decoded contribution, in units of 2^q of its format. -/
structure Dec where
  neg : Bool := false
  m : Nat := 0
  nan : Bool := false
  inf : Bool := false
  deriving DecidableEq, Repr

def decodeFp (f : FpFmt) (bits : Nat) : Dec :=
  let fr := bits % 2 ^ (f.p - 1)
  let e := bits / 2 ^ (f.p - 1) % 2 ^ f.ebits
  let neg := bits / 2 ^ (f.p - 1 + f.ebits) % 2 == 1
  let ones := 2 ^ f.ebits - 1
  if f.nan = 1 ∧ e = ones ∧ fr ≠ 0 then { nan := true }
  else if f.nan = 2 ∧ e = ones ∧ fr = 2 ^ (f.p - 1) - 1 then { nan := true }
  else if f.inf ∧ e = ones ∧ fr = 0 then { neg := neg, inf := true }
  else if e = 0 then { neg := neg, m := fr }
  else { neg := neg, m := (2 ^ (f.p - 1) + fr) * 2 ^ (e - 1) }

/-- The two's complement value of the low `w` bits. -/
def twosInt (w bits : Nat) : Int :=
  let b := bits % 2 ^ w
  if w = 0 then 0 else if 2 ^ (w - 1) ≤ b then (b : Int) - 2 ^ w else b

def decInt (v : Int) : Dec := { neg := decide (v < 0), m := v.natAbs }

/-- One MX element of its own exponent range, scaled by S (R299). -/
def decodeMx (k : FmtKind) (bits s : Nat) : Dec :=
  if s = 255 then { nan := true }
  else match k with
  | .mxInt => let d := decInt (twosInt 8 bits); { d with m := d.m * 2 ^ s }
  | .mx f => let d := decodeFp f bits; { d with m := d.m * 2 ^ s }
  | _ => {}

/-- The elements of a tile of `n` valid elements. -/
def decodeTile (code : BitVec 4) (n : Nat) (bs : Bytes) : List Dec :=
  let w := elemBits code
  let k := fmtKind code
  let x := leNat bs
  match k with
  | .float f => (List.range n).map fun i => decodeFp f (x / 2 ^ (w * i) % 2 ^ w)
  | .int v => (List.range n).map fun i => decInt (twosInt v (x / 2 ^ (w * i)))
  | .reserved => []
  | _ =>
    let s := (byteAt bs (w * 4)).toNat
    (List.range n).map fun i => decodeMx k (x / 2 ^ (w * i) % 2 ^ w) s

/-- A contribution in the unit of another format: the shift is never negative (check 6 of Table 11-5). -/
def rescale (d : Dec) (k : Nat) : Dec := { d with m := d.m * 2 ^ k }

/-! ### The slot (R301 to R306) -/

def bitLen (n : Nat) : Nat := if n = 0 then 0 else Nat.log2 n + 1

def opSum : BitVec 4 := 0
def opScaled : BitVec 4 := 1
def opMean : BitVec 4 := 2
def opMax : BitVec 4 := 3
def opMin : BitVec 4 := 4
def opAnd : BitVec 4 := 5
def opOr : BitVec 4 := 6
def opXor : BitVec 4 := 7

def Dec.int (d : Dec) : Int := if d.neg then -(d.m : Int) else d.m

/-- R302. -/
def slotAdd (a : Acc) (d : Dec) (bits : Nat) : Acc :=
  let a := { a with any := true }
  if d.nan then { a with nan := true }
  else if d.inf then (if d.neg then { a with ninf := true } else { a with pinf := true })
  else
    let a := if !(d.neg && d.m == 0) then { a with nz := true } else a
    if a.ovfPos || a.ovfNeg then a
    else
      let v := a.s + d.int
      if bitLen v.natAbs ≤ bits then { a with s := v }
      else if v < 0 then { a with s := v, ovfNeg := true } else { a with s := v, ovfPos := true }

/-- Rank of a held value for the order of R305: infinities at the ends, −0 below +0. -/
def accRank (a : Acc) : Int × Int :=
  if a.pinf then (1, 0) else if a.ninf then (-1, 0) else (0, 2 * a.s + (if a.s = 0 ∧ a.nz then 1 else 0))

def rankLt (x y : Int × Int) : Bool := decide (x.1 < y.1) || (decide (x.1 = y.1) && decide (x.2 < y.2))

/-- MAX and MIN hold one contribution (R305); `nz` is clear only where the held value is −0. -/
def slotPick (a : Acc) (d : Dec) (max : Bool) : Acc :=
  if d.nan then { a with nan := true, any := true }
  else
    let b : Acc := { s := if d.inf then 0 else d.int, pinf := d.inf && !d.neg, ninf := d.inf && d.neg,
                     nz := !(d.neg && d.m == 0 && !d.inf), nan := a.nan, any := true, held := true }
    if !a.held then b
    else if (if max then rankLt (accRank a) (accRank b) else rankLt (accRank b) (accRank a)) then b
    else a

/-- Bitwise operations on the raw pattern of the input width (R306). -/
def slotBits2 (a : Acc) (w : Nat) (d : Dec) (op : BitVec 4) : Acc :=
  let x := BitVec.ofInt w a.s
  let y := BitVec.ofInt w d.int
  let z := if !a.any then y else if op = opAnd then x &&& y else if op = opOr then x ||| y else x ^^^ y
  { a with s := z.toInt, any := true, nz := true }

def slotCombine (op code : BitVec 4) (a : Acc) (d : Dec) : Acc :=
  if op.toNat ≤ 2 then slotAdd a d (slotBits code)
  else if op = opMax then slotPick a d true
  else if op = opMin then slotPick a d false
  else slotBits2 a (elemBits code) d op

/-! ### Rounding (R310 to R312) -/

/-- A rounded float: zero, infinity, or exponent and significand. -/
inductive FpVal where
  | zero
  | inf
  | fin (exp : Int) (sig : Nat)
  deriving DecidableEq, Repr

/-- Split m × 2^k at weight 1: floor, whether the fraction is above, at or below one half (2, 1, 0), and
floor(fraction × 2^32). -/
def bigSplit (m : Nat) (k : Int) : Nat × Nat × Nat :=
  if 0 ≤ k then (m * 2 ^ k.toNat, 0, 0)
  else
    let sh := (-k).toNat
    let r := m % 2 ^ sh
    (m / 2 ^ sh, (if 2 ^ sh < 2 * r then 2 else if 2 * r = 2 ^ sh then 1 else 0), r * 2 ^ 32 / 2 ^ sh)

/-- The rounding decision: mode 0 nearest even, 1 toward zero, 2 stochastic with stream word r. -/
def roundUp (mode : BitVec 2) (q half d r : Nat) : Bool :=
  if mode = 0 then decide (half = 2) || (decide (half = 1) && q % 2 == 1) else if mode = 2 then decide (r < d) else false

def roundTo (f : FpFmt) (sat : Bool) (m : Nat) (e : Int) (mode : BitVec 2) (r : Nat) : FpVal :=
  if m = 0 then .zero
  else
    let lead : Int := (bitLen m : Int) - 1 + e
    let exp := max lead f.emin
    let lsb := exp - ((f.p : Int) - 1)
    let (q0, half, d) := bigSplit m (e - lsb)
    let q := if roundUp mode q0 half d r then q0 + 1 else q0
    let carry := decide (2 ^ f.p ≤ q)
    let sig := if carry then q / 2 else q
    let exp := if carry then exp + 1 else exp
    if sig = 0 then .zero
    else if f.emax < exp ∨ (exp = f.emax ∧ f.maxSig < sig) then
      (if f.inf && !sat && mode != 1 then .inf else .fin f.emax f.maxSig)
    else .fin exp sig

/-- R311: the bits of a rounded value with its sign. -/
def encodeFp (f : FpFmt) (neg : Bool) (v : FpVal) : Nat :=
  let s := if neg then 2 ^ (f.p - 1 + f.ebits) else 0
  match v with
  | .zero => s
  | .inf => s + (2 ^ f.ebits - 1) * 2 ^ (f.p - 1)
  | .fin exp sig =>
    if 2 ^ (f.p - 1) ≤ sig then s + (exp + f.bias).toNat * 2 ^ (f.p - 1) + (sig - 2 ^ (f.p - 1)) else s + sig

/-- The largest finite of an element type. -/
def fpLargest (f : FpFmt) : FpVal := .fin f.emax f.maxSig

/-- R312: round m × 2^e to an integer. -/
def roundInt (m : Nat) (e : Int) (mode : BitVec 2) (r : Nat) : Nat :=
  let (q, half, d) := bigSplit m e
  if roundUp mode q half d r then q + 1 else q

/-- NaN patterns of Table 10-8. -/
def nanBits (f : FpFmt) : Nat :=
  if f = fFP32 then 0x7FC00000 else if f = fFP16 then 0x7E00 else if f = fBF16 then 0x7FC0
  else if f = fSF24 then 0x7FC000 else if f = fE4M3 then 0x7F else 0x7E

/-! ### Emission (R308 to R314) -/

/-- A result before rounding. -/
inductive Res where
  | nan
  | inf (neg : Bool)
  | fin (neg : Bool) (m : Nat) (e : Int)
  deriving DecidableEq, Repr

/-- σ of MEAN: the nearest-even FP32 of 1 ÷ count (Table 10-6). A sticky bit stands for the remainder. -/
def meanSigma (count : Nat) : Nat :=
  let n := 2 ^ 200 / count
  let m := 2 * n + (if 2 ^ 200 % count = 0 then 0 else 1)
  encodeFp fFP32 false (roundTo fFP32 false m (-201) 0 0)

/-- A slot's result (Table 10-8), σ applied for SUM_SCALED and MEAN (R309). -/
def slotResult (op : BitVec 4) (q : Int) (sigma : Nat) (a : Acc) : Res :=
  if op.toNat ≤ 2 then
    let p := a.pinf || a.ovfPos
    let n := a.ninf || a.ovfNeg
    let neg := if a.s = 0 then !a.nz else decide (a.s < 0)
    let d := decodeFp fFP32 sigma
    if a.nan || (p && n) then .nan
    else if op = opSum then
      (if p then .inf false else if n then .inf true else .fin neg a.s.natAbs q)
    else if d.nan then .nan
    else if p || n then
      (if d.m = 0 && !d.inf then .nan else .inf (n != d.neg))
    else if d.inf then (if a.s = 0 then .nan else .inf (neg != d.neg))
    else .fin (neg != d.neg) (a.s.natAbs * d.m) (q + fFP32.q)
  else if op.toNat ≤ 4 then
    (if a.nan then .nan else if a.pinf then .inf false else if a.ninf then .inf true
     else .fin (if a.s = 0 then !a.nz else decide (a.s < 0)) a.s.natAbs q)
  else .fin (decide (a.s < 0)) a.s.natAbs 0

/-- An integer of a width saturated to its range. -/
def satInt (w : Nat) (neg : Bool) (m : Nat) : Int :=
  if neg then -((Nat.min m (2 ^ (w - 1)) : Nat) : Int) else (Nat.min m (2 ^ (w - 1) - 1) : Nat)

/-- The bits of one scalar element, and whether ARITH_INVALID is recorded. -/
def emitScalar (k : FmtKind) (mode : BitVec 2) (r : Nat) (x : Res) : Nat × Bool :=
  match k, x with
  | .float f, .nan => (nanBits f, false)
  | .float f, .inf neg => (encodeFp f neg (if f.inf then .inf else fpLargest f), false)
  | .float f, .fin neg m e => (encodeFp f neg (roundTo f (f == fE4M3) m e mode r), false)
  | .int _, .nan => (0, true)
  | .int w, .inf neg => ((satInt w neg (2 ^ w) % 2 ^ w).toNat, false)
  | .int w, .fin neg m e => ((satInt w neg (roundInt m e mode r) % 2 ^ w).toNat, false)
  | _, _ => (0, false)

/-- floor(log2) of a finite nonzero magnitude m × 2^e. -/
def log2Mag (m : Nat) (e : Int) : Int := (bitLen m : Int) - 1 + e

def mxElemEmax : FmtKind → Int
  | .mx f => f.emax
  | _ => 0

/-- The scale exponent X of a block (R313 step 3). -/
def mxX (k : FmtKind) (rs : List Res) : Int :=
  let ls := rs.filterMap fun x => match x with
    | .fin _ m e => if m = 0 then none else some (log2Mag m e)
    | _ => none
  match ls with
  | [] => -127
  | l :: t => max (-127) (min 127 (t.foldl max l - mxElemEmax k))

def emitMxElem (k : FmtKind) (x0 : Int) (mode : BitVec 2) (r : Nat) (x : Res) : Nat :=
  match k, x with
  | .mx f, .inf neg => encodeFp f neg (if f.inf then .inf else fpLargest f)
  | .mx f, .fin neg m e => encodeFp f neg (roundTo f true m (e - x0) mode r)
  | .mxInt, .inf neg => if neg then 129 else 127
  | .mxInt, .fin neg m e =>
    let v := Nat.min (roundInt m (e - x0 + 6) mode r) 127
    if neg && v != 0 then 256 - v else v
  | _, _ => 0

/-- Pack element patterns of a width into bytes. -/
def packBits (w n : Nat) (xs : List Nat) : Bytes :=
  leBytes n ((xs.zipIdx.map fun x => x.1 * 2 ^ (w * x.2)).sum)

/-- The bytes of a rounded tile and whether ARITH_INVALID is recorded (R308 to R313); `rs` holds the valid results, `st`
the stream words. -/
def emitTile (code : BitVec 4) (mode : BitVec 2) (rs : List Res) (st : List Nat) : Bytes × Bool :=
  let k := fmtKind code
  let w := elemBits code
  if isMx code then
    let full : List Res := (rs ++ List.replicate (32 - rs.length) (Res.fin false 0 0)).take 32
    if full.any (fun x => x == Res.nan) then (zeros (w * 4) ++ [0xFF], false)
    else
      let x0 := mxX k full
      let es := full.zipIdx.map fun x => emitMxElem k x0 mode (st.getD x.2 0) x.1
      (packBits w (w * 4) es ++ [BitVec.ofInt 8 (x0 + 127)], false)
  else
    let es := rs.zipIdx.map fun x => emitScalar k mode (st.getD x.2 0) x.1
    (packBits w (rs.length * (w / 8)) (es.map (·.1)), es.any (·.2))

/-- Stream word of element e (R314). -/
def streamWord (key : Bytes) (e : Nat) (iter rstage : BitVec 32) : Nat :=
  let b := aesEnc key (leBytes 8 (e / 4) ++ leBytes 4 iter.toNat ++ leBytes 4 rstage.toNat)
  leAt b (4 * (e % 4)) 4

/-! ### Exact Partial Format (R315 to R318) -/

/-- Trailing zeros of a nonzero magnitude, bounded by `fuel`. -/
def ctz : Nat → Nat → Nat
  | 0, _ => 0
  | f + 1, m => if m % 2 = 0 then 1 + ctz f (m / 2) else 0

/-- Bits of the two's complement form of a value. -/
def twosBits (v : Int) : Nat := if v < 0 then bitLen (v.natAbs - 1) + 1 else bitLen v.natAbs + 1

/-- A slot too wide for a field becomes an overflow (R316). -/
def xpfWiden (op : BitVec 4) (a : Acc) : Acc :=
  if op.toNat ≤ 2 ∧ 319 < bitLen a.s.natAbs then (if a.s < 0 then { a with ovfNeg := true } else { a with ovfPos := true })
  else a

def xpfSpecial (op : BitVec 4) (a : Acc) : Byte :=
  let b := b2w a.nan 8 ||| (b2w a.pinf 8 <<< 1) ||| (b2w a.ninf 8 <<< 2) ||| (b2w a.ovfPos 8 <<< 3) |||
    (b2w a.ovfNeg 8 <<< 4)
  if b = 0 ∧ a.s = 0 ∧ a.nz = false ∧ op.toNat ≤ 4 then 0x20 else b

/-- The chunk of at most 32 slots (R316). -/
def xpfEncode (op : BitVec 4) (q : Int) (accs : List Acc) : Bytes :=
  let as := accs.map (xpfWiden op)
  let sp := as.map (xpfSpecial op)
  let zs : List Nat := (as.zip sp).filterMap fun x =>
    if x.2 = 0 ∧ x.1.s ≠ 0 ∧ op.toNat ≤ 4 then some (ctz 320 x.1.s.natAbs) else none
  let t : Nat := match zs with
    | [] => 0
    | z :: r => r.foldl Nat.min z
  let fs : List Int := (as.zip sp).map fun x =>
    if x.2 ≠ 0 then 0 else if x.1.s < 0 then -((x.1.s.natAbs / 2 ^ t : Nat) : Int) else (x.1.s.natAbs / 2 ^ t : Nat)
  let fs := (fs ++ List.replicate (32 - fs.length) 0).take 32
  let w := fs.foldl (fun m f => Nat.max m ((twosBits f + 7) / 8 * 8)) 8
  let spec := sp.any (· != 0)
  let base : Int := if 5 ≤ op.toNat then 0 else q + t
  let hdr := (base % 1024).toNat + (w / 8 - 1) * 2 ^ 10 + (if spec then 2 ^ 16 else 0)
  leBytes 4 hdr ++ (fs.flatMap fun f => leBytes (w / 8) (f % 2 ^ w).toNat) ++
    (if spec then (sp ++ zeros (32 - sp.length)).take 32 else [])

/-- What a chunk carries for one element. -/
structure XpfElem where
  field : Int
  special : Byte
  deriving DecidableEq, Repr

/-- A chunk's width in bits, and its expected length (R315). -/
def xpfWidth (bs : Bytes) : Nat := 8 * (leAt bs 0 4 / 2 ^ 10 % 64 + 1)
def xpfSpec (bs : Bytes) : Bool := leAt bs 0 4 / 2 ^ 16 % 2 == 1
def xpfLen (bs : Bytes) : Nat := 4 + 4 * xpfWidth bs + (if xpfSpec bs then 32 else 0)
def xpfBase (bs : Bytes) : Int := twosInt 10 (leAt bs 0 4)

def xpfElems (bs : Bytes) : List XpfElem :=
  let w := xpfWidth bs
  (List.range 32).map fun i =>
    { field := twosInt w (leAt bs (4 + i * (w / 8)) (w / 8))
      special := if xpfSpec bs then byteAt bs (4 + 4 * w + i) else 0 }

/-- The chunk passes R317 for a program of unit q; `n` elements are valid. -/
def xpfOk (op : BitVec 4) (q : Int) (n : Nat) (bs : Bytes) : Bool :=
  decide (leAt bs 0 4 / 2 ^ 17 = 0) && decide (xpfWidth bs ≤ 320) && decide (bs.length = xpfLen bs) &&
    (if 5 ≤ op.toNat then decide (xpfBase bs = 0) else decide (q ≤ xpfBase bs)) &&
    ((xpfElems bs).all fun x => x.special.extractLsb' 6 2 == 0 && !(x.special.getLsbD 5 && x.special != 0x20)) &&
    ((xpfElems bs).take n).all fun x => x.special == 0 || x.field == 0

/-- Combine one element of a chunk into a slot (R318). -/
def xpfCombine (op code : BitVec 4) (shift : Nat) (a : Acc) (x : XpfElem) : Acc :=
  let mag := x.field.natAbs * 2 ^ shift
  let d : Dec := { neg := decide (x.field < 0), m := mag }
  if op.toNat ≤ 2 then
    if x.special = 0x20 then slotAdd a { neg := true } (slotBits code)
    else if x.special = 0 then slotAdd a d (slotBits code)
    else { a with nan := a.nan || x.special.getLsbD 0
                  pinf := a.pinf || x.special.getLsbD 1
                  ninf := a.ninf || x.special.getLsbD 2
                  ovfPos := a.ovfPos || x.special.getLsbD 3
                  ovfNeg := a.ovfNeg || x.special.getLsbD 4
                  any := true }
  else
    let a :=
      if x.special = 0x20 then slotCombine op code a { neg := true }
      else if x.special.getLsbD 1 then slotCombine op code a { inf := true }
      else if x.special.getLsbD 2 then slotCombine op code a { neg := true, inf := true }
      else if x.special.getLsbD 0 then a
      else slotCombine op code a d
    if x.special.getLsbD 0 then { a with nan := true, any := true } else a

end Sys2Proof.Machine
end

