-- ==== Sys2Proof/Config.lean ====
section
/-! DEFINITION. What the spec leaves open, or takes from a standard it only names: opaque constants with no body. -/

namespace Sys2Proof

/-- What parsing and verifying a boot-alias certificate pair finds (R281, R373, R383, Table 12-14). -/
structure CertFacts where
  /-- the pair parses and its signatures verify -/
  valid : Bool := false
  debugOpen : Bool := false
  grade : BitVec 2 := 0
  /-- life-cycle state and role of KX3-STATE -/
  lifeCycle : BitVec 2 := 0
  role : BitVec 1 := 0
  boot : BitVec 64 := 0
  imageSvn : BitVec 7 := 0
  mRom : Bytes := []
  mFw : Bytes := []
  mCfg : Bytes := []
  mSigner : Bytes := []
  /-- alias ML-DSA-87 public key followed by the uncompressed ECDSA key -/
  aliasKeys : Bytes := []
  /-- device identity digest of the identity keys that signed it -/
  identity : Bytes := []
  deriving DecidableEq, Repr, Inhabited

/-- The n-th 256-bit draw from the entropy source (R145, R149, R223). Free value: nothing constrains it. -/
opaque Config.entropy : Nat → BitVec 256

/-- Nanoseconds the internal oscillator counts in the n-th tick while refclk is lost: 0 or 1, since its rate never exceeds
the true rate (R419). Free value. -/
opaque Config.oscTick : Nat → Bool

/-- The n-th time a Confirmed RING group meets its receive ring: whether the ring has room (R265). Free value: the spec
gives no receive ring a size. -/
opaque Config.ringRoom : Nat → Bool

/-- Where the n-th record of a RING group lands in its receive ring: device address and key index. Free value: the spec gives
receive rings no address (Table 9-3). -/
opaque Config.ringPlace : Nat → BitVec 43 × BitVec 4

/-- Whether the power manager takes the word that waits on its port at the n-th try (R32: Korux waits for its ready). Free
value. -/
opaque Config.pmReady : Nat → Bool

/-- The level of role_sel at the n-th Full Stop whose step does not carry the pin (R11, R73). Free value. -/
opaque Config.roleSel : Nat → BitVec 1

/-- Which of a cluster's active lanes takes an operation: the spec gives no rule (R196; free value, log entry 143). -/
opaque Config.laneOf : BitVec 128 → Nat

/-- The n-th free choice of Korux among numbers the spec lets it take: the number of a new memory object (R459). Free
value. -/
opaque Config.choice : Nat → Nat

/-- The code and the tag of the n-th mailbox request ended by a reset: they stand in the host's memory, and no command brings
them (R472, Table 18-3). Free value. -/
opaque Config.mbxHead : Nat → BitVec 16 × BitVec 64

/-- ML-KEM-1024 (FIPS 203): the encapsulation key of a seed. -/
opaque Config.kemPublic : BitVec 256 → Bytes
/-- Encapsulation under a key with a random value: ciphertext and shared secret. -/
opaque Config.kemEncaps : Bytes → BitVec 256 → Bytes × Bytes
/-- Decapsulation. -/
opaque Config.kemDecaps : BitVec 256 → Bytes → Bytes
/-- ECDH P-384: the uncompressed public key of a secret. -/
opaque Config.ecdhPublic : BitVec 256 → Bytes
/-- The 48-byte x-coordinate shared with a public key. -/
opaque Config.ecdhShared : BitVec 256 → Bytes → Bytes
/-- ML-DSA-87 (FIPS 204): the public key of a seed ξ (R162). -/
opaque Config.mldsaPublic : Bytes → Bytes
/-- The signature over a message with a context string. -/
opaque Config.mldsaSign : Bytes → Bytes → Bytes → Bytes
/-- Verification: public key, message, context string, signature. -/
opaque Config.mldsaVerify : Bytes → Bytes → Bytes → Bytes → Bool
/-- ECDSA P-384: the uncompressed public key of a private scalar d (R162). -/
opaque Config.ecdsaPublic : Nat → Bytes
/-- The signature of bytes under a private scalar d. -/
opaque Config.ecdsaSign : Nat → Bytes → Bytes
/-- Verification: public key, message, signature (r and s). -/
opaque Config.ecdsaVerify : Bytes → Bytes → Bytes → Bool
/-- The DER pair of R383 for a body of fields and the four signing keys' bytes. -/
opaque Config.certMint : Bytes → Bytes
/-- What a certificate pair shows when parsed and verified. -/
opaque Config.certFacts : Bytes → CertFacts
/-- The identity public keys of the certificates a device record carries (R110, Table 4-6). -/
opaque Config.recordKeys : Bytes → Bytes
/-- State the trust-core firmware keeps outside the block, sealed under the battery-backed key: its format belongs to the
firmware (R578). -/
opaque Config.stateSeal : BitVec 256 → Bytes → Bytes
/-- A sealed-state restore under the battery-backed key: the firmware's completion status and what it opened (R578). -/
opaque Config.stateOpen : BitVec 256 → Bytes → BitVec 16 × Bytes
/-- The manufacturer field of IDCODE, tied off by the integrator on jtag_mfr[10:0]. Free value. -/
opaque Config.jtagMfr : BitVec 11
/-- The debug authority digest held in mask ROM (R152). -/
opaque Config.debugAuthority : Bytes
/-- The receiver's side of the exchange behind a hand-down (R161, R170), which the spec gives no message: for a receiver,
its ephemeral encapsulation key (0), its ECDH key (1) and the transcript digest (2). Free value. -/
opaque Config.handPeer : Nat → Nat → Bytes
/-- This instance's own ephemeral private parts in that exchange, by transfer: ML-KEM (0), ECDH (1). Free value. -/
opaque Config.handSecret : Nat → Nat → BitVec 256
/-- The trust-core firmware's answer to an SPDM request that it answers: request bytes and chain to response (R494). -/
opaque Config.spdmEncode : Bytes → Bytes → Bytes

end Sys2Proof
end

