-- ==== Sys2Proof/Machine/Flags.lean ====
section
/-! DEFINITION. The codes and event bits of the spec: statuses (Table 15-9), fault causes (Table 18-6), link end causes
(Table 9-14), ABORT reasons (Table 9-22), register port codes (Table 2-4), and the bits of the event registers. -/

namespace Sys2Proof.Machine

/-! ### Table 15-9 -/
abbrev Status := BitVec 16
def stOk : Status := 0x0000
def stCancelled : Status := 0x0001
def stAuthUntrusted : Status := 0x0002
def stReserved : Status := 0x0101
def stOpcode : Status := 0x0102
def stLengthZero : Status := 0x0103
def stLengthRange : Status := 0x0104
def stAlign : Status := 0x0105
def stUnmapped : Status := 0x0106
def stRights : Status := 0x0107
def stTainted : Status := 0x0108
def stOverlap : Status := 0x0109
def stStale : Status := 0x010A
def stFormat : Status := 0x010B
def stIteration : Status := 0x010C
def stNoTarget : Status := 0x010D
def stCtxBusy : Status := 0x010E
def stNoVd : Status := 0x010F
def stObjLimit : Status := 0x0110
def stBusError : Status := 0x0201
def stProtected : Status := 0x0202
def stFnOff : Status := 0x0203
def stHostDma : Status := 0x0204
def stFabricOp : Status := 0x0205
def stFabricLink : Status := 0x0206
def stFragment : Status := 0x0207
def stProgFault : Status := 0x0208
def stKeyOrphan : Status := 0x0301
def stKeyLimit : Status := 0x0302
def stKeyScope : Status := 0x0303
def stKeyUnwrap : Status := 0x0304
def stProgSlot : Status := 0x0401
def stProgDesc : Status := 0x0402
def stBuffer : Status := 0x0403
def stLcState : Status := 0x0501
def stLcCond : Status := 0x0502
def stLcBusy : Status := 0x0503
def stDebugOpen : Status := 0x0504
def stDebugGrant : Status := 0x0505
def stDomainRecord : Status := 0x0506
def stFormation : Status := 0x0507
def stSlotBusy : Status := 0x0508
def stRoleMismatch : Status := 0x0509
def stRoster : Status := 0x050A
def stNoManager : Status := 0x050B
def stEpochLimit : Status := 0x050C
def stTimeRegress : Status := 0x0601

/-! ### Table 18-6 -/
abbrev Cause := BitVec 8
def causeLinkRepudiate : Cause := 0x10
def causeMemTagFail : Cause := 0x11
def causeStallSuspect : Cause := 0x12
def causeStallGuilty : Cause := 0x13
def causeEngineReset : Cause := 0x14
def causePartitionReset : Cause := 0x15
def causeHostRequest : Cause := 0x16
def causeEscalated : Cause := 0x17
def causeEngineStall : Cause := 0x18
def causeTiming : Cause := 0x19
def causeLaneExhausted : Cause := 0x1A
def causeCoreMismatch : Cause := 0x1B
def causeKeyRowFault : Cause := 0x1C
def causeSramFault : Cause := 0x1D
def causeRefclkLost : Cause := 0x1E
def causeSysReset : Cause := 0x1F
def causeDomainExit : Cause := 0x20
def causeStopRepeat : Cause := 0x21
def causeLcTransition : Cause := 0x22
def causeMcNoResponse : Cause := 0x23
def causeArbiterStall : Cause := 0x24

/-- KEY_ORPHAN and KEY_XTS_EQUAL are recorded (Table 8-3, R223, R506); the numbers of these four records are the model's
(DESIGN CHOICE, log entry 147). -/
def recKeyOrphan : Cause := 0xE0
def recKeyXtsEqual : Cause := 0xE1
/-- LINK_CLK_FORCED (R90): the target is twice the link, plus 1 for the transmit direction. -/
def recLinkClkForced : Cause := 0xE2
/-- LANE_BURST (R203). -/
def recLaneBurst : Cause := 0xE3

/-! ### Reset levels (Table 18-13) -/
def lvlComma : BitVec 3 := 1
def lvlSemicolon : BitVec 3 := 2
def lvlColon : BitVec 3 := 3
def lvlFullStop : BitVec 3 := 4
def lvlEllipsis : BitVec 3 := 5

/-! ### Table 9-14 -/
def endDown : BitVec 8 := 0x01
def endLost : BitVec 8 := 0x02
def endStorm : BitVec 8 := 0x03
def endTense : BitVec 8 := 0x04
def endClosed : BitVec 8 := 0x05
def endLocal : BitVec 8 := 0x06
def endOrphan : BitVec 8 := 0x07
def endReagree : BitVec 8 := 0x08
def endReset : BitVec 8 := 0x09
def endKeyFault : BitVec 8 := 0x0A

/-! ### Table 9-22 -/
def agrFormat : BitVec 8 := 0x01
def agrDomain : BitVec 8 := 0x02
def agrPeer : BitVec 8 := 0x03
def agrRole : BitVec 8 := 0x04
def agrToken : BitVec 8 := 0x05
def agrCert : BitVec 8 := 0x06
def agrSig : BitVec 8 := 0x07
def agrKc : BitVec 8 := 0x08
def agrState : BitVec 8 := 0x09
def agrTimeout : BitVec 8 := 0x0A

/-! ### Register port codes (Table 2-4) -/
def rcOkay : BitVec 2 := 0
def rcOff : BitVec 2 := 1
def rcDecode : BitVec 2 := 2
def rcDenied : BitVec 2 := 3

/-! ### Program fault causes (Table 11-12) -/
def progLink : BitVec 8 := 0x01
def progRepudiate : BitVec 8 := 0x02
def progMalformed : BitVec 8 := 0x03
def arithXpfFormat : BitVec 8 := 0x04
def progUpstream : BitVec 8 := 0x05
def progMem : BitVec 8 := 0x06
def progKey : BitVec 8 := 0x07
def progCancel : BitVec 8 := 0x08
def progReset : BitVec 8 := 0x09
def progUnload : BitVec 8 := 0x0A

/-! ### Tray values (Table 2-14) -/
def trayHealth : Byte := 0x01
def trayReplaceAdvised : Byte := 0x02
def trayReplaceRequired : Byte := 0x03
def trayPowerCycle : Byte := 0x04
def trayTamper : Byte := 0x05

/-! ### Enables (Tables 3-6, 3-7) -/
def areaFrontEnd : Nat := 0
def areaKeystore : Nat := 1
def areaDomain : Nat := 2
def areaPower : Nat := 3
def areaIsland : Nat := 4
def areaReduction : Nat := 5
def areaStaging : Nat := 6
def areaTelemetry : Nat := 7
def areaMailbox : Nat := 8
def areaLcd : Nat := 9
def portReg : Nat := 0
def portStaging : Nat := 1
def portDelivery : Nat := 2
def portFlash : Nat := 3
def portPm : Nat := 4
def portTray : Nat := 5

/-! ### Event bits -/
def kevThreshold : Nat := 0
def kevLimit : Nat := 1
def kevKconfBad : Nat := 2
def kevTenseFail : Nat := 3
def kevOrphanDone : Nat := 4
def kevSpareUsed : Nat := 5
def kevRowFault : Nat := 6
def lkevRepudiate : Nat := 0
def lkevFormat : Nat := 1
def lkevKeyGen : Nat := 2
def lkevWindow : Nat := 3
def lkevDestBad : Nat := 4
def lkevAgreed : Nat := 5
def lkevEnd : Nat := 6
def lkevStorm : Nat := 7
def lkevAbsent : Nat := 8
def lkevReappeared : Nat := 9
def memTagFail : Nat := 0
def memPoisoned : Nat := 1
def memScopeRefused : Nat := 2
def memPrRefused : Nat := 3
def memSweepTagFail : Nat := 4
def memFenceFull : Nat := 5
def domFragment : Nat := 0
def domRejoined : Nat := 1
def domErased : Nat := 2
def domTakeover : Nat := 3
def domCensusDone : Nat := 4
def domEpoch : Nat := 5
def fevStall : Nat := 0
def fevGuilty : Nat := 1
def fevEscalated : Nat := 2
def fevGrade : Nat := 3
def fevComma : Nat := 4
def fevSemicolon : Nat := 5
def fevColon : Nat := 6

namespace State

def keyEvent (s : State) (b : Nat) : State := { s with keys.event := setBitTo s.keys.event b true }
def memAlarm (s : State) (b : Nat) : State := { s with mem.alarm := setBitTo s.mem.alarm b true }
def fltEvent (s : State) (b : Nat) : State := { s with flt.event := setBitTo s.flt.event b true }
def redEvent (s : State) (b : Nat) : State := { s with red.event := setBitTo s.red.event b true }
def fabEvent (s : State) (b : Nat) : State := { s with fab.event := setBitTo s.fab.event b true }
def linkEvent (s : State) (l : LinkId) (b : Nat) : State :=
  s.modLink l fun k => { k with core.event := setBitTo k.core.event b true }
def domEvent (s : State) (d : Slot) (b : Nat) : State :=
  s.modDom d fun k => { k with event := setBitTo k.event b true }

end State

end Sys2Proof.Machine
end

