-- ==== Sys2Proof/Machine/Ops.lean ====
section
/-! DEFINITION. The shared operations under every meaning: enables, free values, trace records, the tray, the health
grade, certificates, key rows, virtual devices and Domain Time. -/

namespace Sys2Proof.Machine

/-- What JTAG may ask for (R156). -/
inductive DebugTarget where
  | window
  | coreHalt
  | coreStep
  | memory
  | keyMaterial
  | factoryTest
  deriving DecidableEq, Repr

namespace State

def running (s : State) : Bool := s.sys.phase == .running
def now (s : State) : Time := s.sys.btime
def poolRole (s : State) : Bool := s.glb.role == 1

/-- Test state, then open debug or a DEBUG_UNLOCK past step 1: what every Agreement, formation and Parse request is refused with
(R136, R155, R157). -/
def joinGate (s : State) : Option Status :=
  if s.lcd.state = 1 then some stLcState
  else if s.lcd.debugOpen || s.lcd.busy == some .unlock then some stDebugOpen
  else none

/-- R156: open debug adds the window, halt and step of the trust core, and memory as a debug master; never key material or the
factory test modes. -/
def debugReaches (s : State) : DebugTarget → Bool
  | .window => s.lcd.debugOpen
  | .coreHalt => s.lcd.debugOpen
  | .coreStep => s.lcd.debugOpen
  | .memory => s.lcd.debugOpen
  | .keyMaterial => false
  | .factoryTest => false

/-! ### Enables (R93 to R96) -/

def areaOn (s : State) (b : Nat) : Bool := s.clk.enArea.getLsbD b
def portOn (s : State) (b : Nat) : Bool := s.clk.enPort.getLsbD b
def mcOn (s : State) (c : ChanId) : Bool := s.clk.enMc.getLsbD c.toNat
def linkOn (s : State) (l : LinkId) : Bool := s.clk.enLink.getLsbD l.toNat
def fnOn (s : State) (f : Fn) : Bool := s.clk.enFn.getLsbD f.toNat

/-! ### Free values -/

/-- Draw 256 bits from the entropy source. -/
def draw (s : State) : BitVec 256 × State := (Config.entropy s.freeCtr, { s with freeCtr := s.freeCtr + 1 })

/-! ### Interrupts and counters -/

def msi (s : State) (f : Fn) (v : BitVec 11) : State := if s.portOn portStaging then s.out (.msi f v) else s

/-- Raise the PF's mailbox vector. -/
def msiPf (s : State) : State := s.msi 0 (s.func 0).mbx.vector

/-- Count an event of Table 21-2. -/
def count (s : State) (k n : Nat) : State :=
  { s with tel.counters := Tab.set 0 s.tel.counters k (Tab.get 0 s.tel.counters k + BitVec.ofNat 64 n) }

/-- An engine of Table 18-1 made progress (R523). -/
def progress (s : State) (e : Nat) : State := s.modEng e fun g => { g with progress := g.progress + 1 }

def record (s : State) (c : Cause) (target : Nat) : State := s.out (.record c target)

/-! ### Domains and virtual devices -/

/-- Domain Time of a slot (R414). -/
def domTime (s : State) (d : Slot) : BitVec 64 := s.now + (s.dom d).time.corr

/-- A slot that is held: its meters count and its Domain Time runs (R420, R561). -/
def slotHeld (s : State) (d : Slot) : Bool := (s.dom d).phase != .free

def isFragment (s : State) (d : Slot) : Bool := (s.dom d).phase == .fragment

def slots : List Slot := [0, 1, 2, 3, 4, 5, 6, 7]

def allLinks : List LinkId := (List.range 64).map (BitVec.ofNat 6)
def allChans : List ChanId := (List.range 32).map (BitVec.ofNat 5)

/-- The contexts that are not FREE. -/
def liveCtxs (s : State) : List CtxId :=
  (s.fe.ctxs.filter fun e => e.2.phase != .free).map fun e => BitVec.ofNat 10 e.1

/-- The domain slot of a virtual device (R19). -/
def vdSlot (s : State) (v : VdId) : Option Slot := (s.vdev v).slot

/-- The domain slot of a context: that of its virtual device (R456). -/
def ctxSlot (s : State) (c : CtxId) : Option Slot :=
  match (s.ctx c).vd with
  | none => none
  | some v => s.vdSlot v

/-- The virtual device a link, a channel or a program slot is bound to (R504). -/
def linkVd (s : State) (l : LinkId) : Option VdId :=
  (s.vd.vds.find? fun e => e.2.present && e.2.links.getLsbD l.toNat).map fun e => BitVec.ofNat 6 e.1
def chanVd (s : State) (c : ChanId) : Option VdId :=
  (s.vd.vds.find? fun e => e.2.present && e.2.chans.getLsbD c.toNat).map fun e => BitVec.ofNat 6 e.1
def progVd (s : State) (p : ProgId) : Option VdId :=
  (s.vd.vds.find? fun e => e.2.present && e.2.progs.getLsbD p.toNat).map fun e => BitVec.ofNat 6 e.1

/-- The link is bound to a virtual device of the slot. -/
def linkInSlot (s : State) (l : LinkId) (d : Slot) : Bool :=
  match s.linkVd l with
  | none => false
  | some v => s.vdSlot v == some d

/-- An AGREED link whose Agreement is in the slot. -/
def agreedIn (s : State) (l : LinkId) (d : Slot) : Bool :=
  (s.link l).core.phase == .agreed && (s.link l).core.slot == d

/-! ### Trace (R587 to R593) -/

def traceFlags (c : Option CtxId) (d : Option Slot) : Byte :=
  (if c.isSome then 1 else 0) ||| (match d with
    | none => 0
    | some x => 0x10 ||| ((x.setWidth 8) <<< 1))

/-- Append a record, giving it the next sequence number (R588). -/
def tracePush (s : State) (r : TraceRec) : State :=
  { s with tel := { s.tel with fifo := s.tel.fifo ++ [{ r with seq := s.tel.seq }], seq := s.tel.seq + 1 } }

/-- The LOST record that goes before the next record once room has returned (R591). -/
def traceLost (s : State) : State :=
  if s.tel.lostSince = 0 then s
  else
    let t := s.tracePush {
      stamp := s.now, type := 0x09, flags := 0, ctx := 0, layer := 0, operator := 0, seq := 0,
      arg := leBytes 4 s.tel.lostSince.toNat ++ zeros 8 }
    { t with tel.lostSince := 0, tel.overflow := true }

/-- Add to a saturating 24-bit count. -/
def lostAdd (x : BitVec 24) (n : Nat) : BitVec 24 := BitVec.ofNat 24 (Nat.min (x.toNat + n) 0xFFFFFF)

/-- Build a record of an event while run is set (R587), filter it (R590) and queue it; a record dropped takes its number
(R591). -/
def trace (s : State) (type : Byte) (c : Option CtxId) (d : Option Slot) (layer operator : BitVec 16) (arg : Bytes) :
    State :=
  let passes := s.tel.typeMask.getLsbD type.toNat &&
    (!s.tel.filterEn || (match c with
      | none => true
      | some x => x == s.tel.filterCtx))
  if s.tel.run && s.tel.active && passes then
    let room := if type = 0x08 then 4096 else 4080
    if s.tel.fifo.length + (if s.tel.lostSince = 0 then 0 else 1) < room then
      s.traceLost.tracePush {
        stamp := s.now, type := type, flags := traceFlags c d,
        ctx := (c.getD 0).setWidth 16, layer := layer, operator := operator, seq := 0, arg := fitTo 12 arg }
    else { s with tel.lost := lostAdd s.tel.lost 1, tel.lostSince := satInc s.tel.lostSince, tel.seq := s.tel.seq + 1 }
  else s

/-- A TIME_MARK of a held slot (R592). -/
def timeMark (s : State) (d : Slot) : State :=
  let t := (s.dom d).time
  if (s.dom d).phase = .free then s
  else s.trace 0x08 none (some d) 0 0 (leBytes 8 (s.now + t.corr).toNat ++ [b2w t.locked 8, t.stratum.setWidth 8, 0, 0])

/-- Discard the FIFO, counting its records as lost when `counted` (R501, R593). -/
def traceDiscard (s : State) (counted : Bool) : State :=
  { s with tel.fifo := [], tel.lostSince := 0, tel.active := false,
           tel.lost := if counted then lostAdd s.tel.lost s.tel.fifo.length else s.tel.lost }

/-! ### Tray (R67, R68) -/

def trayStamp (s : State) : State := { s with tray.stamp := (s.now >>> 20).setWidth 32 }

/-- The I3C static address (Table 2-19). -/
def trayAddress (s : State) : BitVec 7 := 0x58 + s.sys.straps.trayAddr.setWidth 7

/-- A private read of the tray sideband (R68): the status record of Table 2-15 at offset 0x00, its 8 bytes; zeros elsewhere. -/
def trayRead (s : State) (off : Byte) : Bytes :=
  let t := s.tray
  if off = 0 then [t.grade, t.reason, t.request, t.ellipsisCount] ++ leBytes 4 t.stamp.toNat else zeros 8

/-- Send the first pending value when none is outstanding and the sideband answers (R67). -/
def traySend (s : State) : State :=
  match s.tray.outstanding, s.tray.pending with
  | none, v :: rest =>
    if s.portOn portTray then ({ s with tray.outstanding := some v, tray.pending := rest }).out (.trayIbi v) else s
  | _, _ => s

/-- A change named by a value of Table 14: one pending flag per value (R67). -/
def trayPost (s : State) (v : Byte) : State :=
  let s := s.trayStamp
  if s.tray.outstanding = some v ∨ v ∈ s.tray.pending then s
  else ({ s with tray.pending := s.tray.pending ++ [v] }).traySend

/-! ### Key rows (R159 to R192) -/

def keyUsable (s : State) (r : Nat) : Bool := (s.row r).valid

/-- The first `n` bytes of a row's material. -/
def keyBytes (s : State) (r n : Nat) : Bytes := leBytes n (s.row r).material.toNat

/-- The rows that hold a 256-bit AES key: k_data, k_tweak and k_tag, link, staging, program and transport keys (Table 6-7). -/
def aesRow (r : Nat) : Bool :=
  (decide (57 ≤ r) && decide (r ≤ 184) && (r - 57) % 4 != 2) || (decide (249 ≤ r) && decide (r ≤ 1784)) ||
    (decide (1785 ≤ r) && decide (r ≤ 2552) && (r - 1785) % 3 != 0) || (decide (2553 ≤ r) && decide (r ≤ 2824))

/-- Round keys 13 and 14 that the key store computes for what is written into a row (R192). -/
def tailOf (r : Nat) (m : BitVec 288) : BitVec 256 := if aesRow r then leBv 256 (tailKeys (leBytes 32 m.toNat)) else 0

/-- Write a key into a row: its count restarts (R171). A row out of use takes no key (R188). -/
def writeKey (s : State) (r : Nat) (m : BitVec 288) (p : KeyParent) (tense : BitVec 2) (d : Slot) (gen : BitVec 32) :
    State :=
  let o := s.row r
  if o.outOfUse then s
  else s.setRow r { o with valid := true, material := m, tail := tailOf r m, parent := p, tense := tense, slot := d, gen := gen,
                           use := 0 }

/-- Erase a row, its spare mapping standing (R187). -/
def blankRow (o : KeyRow) : KeyRow := { spared := o.spared, outOfUse := o.outOfUse }

def eraseRow (s : State) (r : Nat) : State := s.setRow r (blankRow (s.row r))

/-- The chain of store parents of a row reaches `target` within `fuel` steps (R167). -/
def chainReaches (s : State) (target : KeyParent) : Nat → KeyParent → Bool
  | 0, _ => false
  | n + 1, p =>
    if p = target then true
    else match p with
      | .row q => s.chainReaches target n (s.row q.toNat).parent
      | _ => false

/-- Erase every row whose chain of store parents reaches `target` (R167). Chains are at most 4 long. -/
def eraseSubtree (s : State) (target : KeyParent) : State :=
  { s with keys.rows := Tab.mapAll {} (fun _ r => if s.chainReaches target 5 r.parent then blankRow r else r) s.keys.rows }

/-- Invalidate a row at the key store: it and its subtree are erased, and orphan_done is set (R167). -/
def keyInvalidateRow (s : State) (r : Nat) : State :=
  ((s.eraseRow r).eraseSubtree (.row (BitVec.ofNat 12 r))).keyEvent kevOrphanDone

/-- Count uses of a row, saturating at the 44-bit counter's end (R171). -/
def useKey (s : State) (r n : Nat) : State :=
  let o := s.row r
  if o.valid then s.setRow r { o with use := BitVec.ofNat 44 (Nat.min (o.use.toNat + n) (2 ^ 44 - 1)) } else s

/-- KMAC-based derivation from a key of 32 bytes (R159). -/
def kdf (k : Bytes) (label : String) (x : Bytes) (bits : Nat) : Bytes := kmac256 k x bits (ascii label)

/-- The rows of Table 6-7. -/
def rowDrs (d : Slot) : Nat := 10 + 4 * d.toNat
def rowHall (d : Slot) : Nat := 11 + 4 * d.toNat
def rowDcs (d : Slot) : Nat := 12 + 4 * d.toNat
def rowMember (d : Slot) : Nat := 13 + 4 * d.toNat
def rowIndex (i : KeyIdx) : Nat := 41 + i.toNat
def rowMemKey (i : KeyIdx) (future : Bool) : Nat := 57 + 8 * i.toNat + (if future then 4 else 0)
def rowLas (l : LinkId) : Nat := 185 + l.toNat
def rowLink (l : LinkId) (c : Cls) (dir : Nat) (k : Nat) : Nat := 249 + 24 * l.toNat + 6 * c.toNat + 3 * dir + k
def rowSss (f : Fn) : Nat := 1785 + 3 * f.toNat
def rowStage (f : Fn) (dir : Nat) : Nat := 1785 + 3 * f.toNat + 1 + dir
def rowProg (p : ProgId) : Nat := 2553 + p.toNat
def rowActing (d : Slot) : Nat := 2825 + d.toNat

/-- The slot holds a member secret. -/
def hasMember (s : State) (d : Slot) : Bool := (s.row (rowMember d)).valid

/-! ### Identity and certificates (R162, R163, R383 to R385) -/

/-- The order of P-384 (FIPS 186-5). -/
def p384Order : Nat := 2 ^ 384 - 0x389cb27e0bc8d220a7e5f24db74f58851313e695333ad68d

/-- The ECDSA P-384 private key of a derivation output: d = (c mod (n - 1)) + 1, c big-endian (R162). -/
def ecdsaScalar (c : Bytes) : Nat := beNat c % (p384Order - 1) + 1

/-- The identity and the alias ECDSA outputs, 56 bytes over two rows (Table 6-7). -/
def idScalar (s : State) : Nat := ecdsaScalar (s.keyBytes 5 36 ++ s.keyBytes 6 20)
def aliasScalar (s : State) : Nat := ecdsaScalar (s.keyBytes 8 36 ++ s.keyBytes 9 20)

/-- The rows of the identity keys, and those of the alias keys, give their keys (R167, R168). -/
def idUsable (s : State) : Bool := s.keyUsable 4 && s.keyUsable 5 && s.keyUsable 6
def aliasUsable (s : State) : Bool := s.keyUsable 7 && s.keyUsable 8 && s.keyUsable 9

def idKeys (s : State) : Bytes := Config.mldsaPublic (s.keyBytes 4 32) ++ Config.ecdsaPublic s.idScalar

/-- The device identity digest (R163). -/
def idDigest (s : State) : Bytes := sha384 s.idKeys

def aliasKeys (s : State) : Bytes := Config.mldsaPublic (s.keyBytes 7 32) ++ Config.ecdsaPublic s.aliasScalar

def aliasDigest (s : State) : Bytes := sha384 s.aliasKeys

/-- The signature block of R113 by the alias keys: over the digest with a context string, and over the bytes. -/
def aliasSign (s : State) (ctxString : String) (bytes : Bytes) : Bytes :=
  Config.mldsaSign (s.keyBytes 7 32) (sha384 bytes) (ascii ctxString) ++ Config.ecdsaSign s.aliasScalar bytes ++ zeros 13

/-- Both halves of a signature block verify under a key pair of 2,689 bytes (R113, R120). -/
def sigOk (keys : Bytes) (ctxString : String) (bytes sig : Bytes) : Bool :=
  Config.mldsaVerify (keys.take 2592) (sha384 bytes) (ascii ctxString) (sig.take 4627) &&
    Config.ecdsaVerify (keys.drop 2592) bytes (slice sig 4627 96) && zeroAt sig 4723 13

/-- The content of the boot-alias pair (R383, Table 12-14). -/
def certBody (s : State) : Bytes :=
  let doms := slots.filter fun d => s.slotHeld d
  [0x01] ++ beBytes 8 s.boot.boot.toNat ++ beBytes 4 s.boot.reissue.toNat ++ s.idKeys ++ s.aliasKeys ++ s.boot.mRom ++
    leBytes 1 s.boot.imageSvn.toNat ++ leBytes 4 s.boot.seq.toNat ++ s.boot.mFw ++ s.boot.mCfg ++ s.boot.mSigner ++
    [b2w s.lcd.debugOpen 8, s.lcd.state.setWidth 8, s.flt.health.grade.setWidth 8, s.glb.role.setWidth 8] ++ zeros 5 ++
    leBytes 8 s.boot.boot.toNat ++ leBytes 1 doms.length ++ zeros 3 ++
    (doms.flatMap fun d => leBytes 1 d.toNat ++ zeros 3 ++ leBytes 4 (s.dom d).member.toNat ++
      leBytes 4 (s.dom d).epoch.toNat ++ fitTo 16 (s.dom d).domainId) ++ s.boot.grantDigest

/-- Reissue the boot-alias pair under the same alias keys (R385); the identity keys that sign it must be there (R168). -/
def reissueCert (s : State) : State :=
  if s.idUsable && s.aliasUsable then
    let t := { s with boot.reissue := s.boot.reissue + 1 }
    { t with boot.certPair := Config.certMint t.certBody }
  else s

/-! ### Lanes: counts and the health grade (R197, R543 to R546) -/

def clusterKey : ClusterId → Nat
  | .mc n => n.toNat
  | .lk n => 32 + n.toNat
  | .svc => 96

def laneCluster (s : State) (k : ClusterId) : LaneCluster := Tab.get {} s.lanes.clusters (clusterKey k)
def setCluster (s : State) (k : ClusterId) (c : LaneCluster) : State :=
  { s with lanes.clusters := Tab.set {} s.lanes.clusters (clusterKey k) c }

def allClusters : List ClusterId := (allChans.map .mc) ++ (allLinks.map .lk) ++ [.svc]

/-- The physical lanes of a cluster kind, and its active lanes and spares after step 6 (Table 7-2). -/
def lanesOf : ClusterId → Nat
  | .mc _ => 26
  | .lk _ => 8
  | .svc => 14
def fullActive : ClusterId → Nat
  | .mc _ => 24
  | .lk _ => 7
  | .svc => 12

/-- The cluster's lanes have been set at start-up step 6. -/
def lanesSet (c : LaneCluster) : Bool := c.active != 0 || c.retired != 0

def activeCount (c : LaneCluster) : Nat := popcount c.active
def cryptoCount (c : LaneCluster) : Nat := popcount (c.active &&& c.cryptoGroup)
def stagingCount (c : LaneCluster) : Nat := popcount (c.active &&& ~~~ c.cryptoGroup)

/-- A cluster below its full active lanes; for service, either group (Table 18-8). -/
def laneShort (k : ClusterId) (c : LaneCluster) : Bool :=
  lanesSet c && (match k with
    | .svc => stagingCount c < 8 || cryptoCount c < 4
    | _ => activeCount c < fullActive k)

/-- A cluster whose active count, or a Service group whose count, is 0 (R197). -/
def outOfService (k : ClusterId) (c : LaneCluster) : Bool :=
  lanesSet c && (match k with
    | .svc => stagingCount c == 0 || cryptoCount c == 0
    | _ => activeCount c == 0)

/-- The active lane that takes an operation (R196). -/
def laneFor (c : LaneCluster) (input : BitVec 128) : Option Nat :=
  (bitsOf c.active)[Config.laneOf input % activeCount c]?

/-- The issue record of an operation a cluster starts (R199, R200). -/
def issueOf (c : LaneCluster) (input : BitVec 128) (decrypt : Bool) (key : BitVec 256) (place : Nat) : List IssueRec :=
  match laneFor c input with
  | some i => [{ lane := BitVec.ofNat 5 i, input := input, decrypt := decrypt, key := key, place := place }]
  | none => []

/-- Operations on a lane go to another active lane, from their records (R199, R200). -/
def reissue (c : LaneCluster) (lane : BitVec 5) (rs : List IssueRec) : List IssueRec :=
  rs.flatMap fun r => if r.lane = lane then issueOf c r.input r.decrypt r.key r.place else [r]

def regionOf : ClusterId → Region
  | .mc _ => .mem
  | .lk _ => .link
  | .svc => .svc

def cal (s : State) : Region → Cal
  | .mem => s.clk.calMem
  | .link => s.clk.calLink
  | .svc => s.clk.calSvc

def setCal (s : State) (r : Region) (c : Cal) : State :=
  match r with
  | .mem => { s with clk.calMem := c }
  | .link => { s with clk.calLink := c }
  | .svc => { s with clk.calSvc := c }

def anyCluster (s : State) (p : ClusterId → LaneCluster → Bool) : Bool :=
  allClusters.any fun k => p k (s.laneCluster k)

def anyLaneSpare (s : State) : Bool :=
  s.anyCluster fun k c => c.retired != 0 && activeCount c + popcount c.spare < lanesOf k && !laneShort k c
def anyLaneShort (s : State) : Bool := s.anyCluster laneShort
def anyOutOfService (s : State) : Bool := s.anyCluster outOfService
def marginHigh (s : State) : Bool :=
  decide (12 ≤ s.clk.calMem.appliedCode.toNat) || decide (12 ≤ s.clk.calLink.appliedCode.toNat) ||
    decide (12 ≤ s.clk.calSvc.appliedCode.toNat)
def anyThrottled (s : State) : Bool := s.clk.calMem.throttled || s.clk.calLink.throttled || s.clk.calSvc.throttled
def ghashGone (s : State) : Bool := (s.laneCluster .svc).ghashRetired
def keySpareUsed (s : State) : Bool := s.keys.sparesUsed != 0

/-- Table 18-8 without Black, whose conditions are events. -/
def gradeNow (s : State) : BitVec 2 :=
  if s.anyLaneShort || s.anyOutOfService || s.marginHigh || s.anyThrottled || s.ghashGone || s.flt.health.memUnrepaired ||
      s.keys.rows.any (fun e => e.2.outOfUse && decide (10 ≤ e.1)) then 2
  else if s.anyLaneSpare || s.keySpareUsed || s.flt.health.otpSpare || s.flt.health.sramSpare || s.flt.health.coldCore then 1
  else 0

/-- rate_pct of a cluster or group in whole percent: its active lanes over its full count, times 0.9 at a code of 12 or
higher (R544). -/
def clusterPct (active full : Nat) (high : Bool) : Nat := if high then active * 90 / full else active * 100 / full

def ratePct (s : State) : Nat :=
  if s.flt.health.grade.toNat ≤ 1 then 100
  else
    allClusters.foldl (fun m k =>
      let c := s.laneCluster k
      let high := decide (12 ≤ (s.cal (regionOf k)).appliedCode.toNat)
      if !lanesSet c then m
      else match k with
        | .svc =>
          let m := if stagingCount c = 0 then m else Nat.min m (clusterPct (stagingCount c) 8 high)
          if cryptoCount c = 0 then m else Nat.min m (clusterPct (cryptoCount c) 4 high)
        | _ => if activeCount c = 0 then m else Nat.min m (clusterPct (activeCount c) (fullActive k) high)) 100

/-- The tray request and value of a grade (Table 18-8, R546). -/
def gradeRequest (g : BitVec 2) : BitVec 2 := if g = 0 then 0 else if g = 1 then 1 else 2
def gradeValue (g : BitVec 2) : Byte :=
  if g = 0 then trayHealth else if g = 1 then trayReplaceAdvised else trayReplaceRequired

/-- A grade change with its four actions (R546). -/
def setGrade (s : State) (g : BitVec 2) : State :=
  let s := { s with flt.health.grade := g, flt.health.request := gradeRequest g,
                    tray.grade := g.setWidth 8, tray.request := (gradeRequest g).setWidth 8 }
  let s := s.fltEvent fevGrade
  let s := s.trace 0x0B none none 0 0 (leBytes 1 g.toNat ++ leBytes 1 s.ratePct)
  let s := s.trayPost (gradeValue g)
  if s.boot.certPair = [] then s else s.reissueCert

/-- The grade never improves while the block runs (R545). -/
def gradeUpdate (s : State) : State :=
  let g := s.gradeNow
  if s.running && decide (s.flt.health.grade.toNat < g.toNat) then s.setGrade g else s

/-! ### Consumers of Subjunctive groups (R269) -/

/-- The name of a group in flight. -/
def flightRef (l : LinkId) (g : RxFlight) : GroupRef := { link := l, cls := g.cls, seq := g.seq, inst := g.inst }

/-- The unsettled groups a context consumes. -/
def ctxRefs (s : State) (c : CtxId) : List GroupRef :=
  s.links.flatMap fun e => (e.2.io.flight.filter fun g => c ∈ g.consumers).map (flightRef (BitVec.ofNat 6 e.1))

def findFlight (s : State) (r : GroupRef) : Option RxFlight :=
  (s.link r.link).io.flight.find? fun g => flightRef r.link g == r

def modFlight (s : State) (r : GroupRef) (f : RxFlight → RxFlight) : State :=
  s.modLink r.link fun k => { k with io.flight := k.io.flight.map fun g => if (flightRef r.link g) = r then f g else g }

/-- Make a context a consumer of a group in flight (R240). -/
def addConsumer (s : State) (c : CtxId) (r : GroupRef) : State :=
  s.modFlight r fun g => if c ∈ g.consumers then g else { g with consumers := g.consumers ++ [c] }

/-- Keep only the references still in flight. -/
def liveRefs (s : State) (rs : List GroupRef) : List GroupRef := rs.filter fun r => (s.findFlight r).isSome

/-! ### Meters (R561) -/

/-- Add to a meter of a held slot, in bytes, blocks or elements. -/
def meter (s : State) (d : Slot) (m n : Nat) : State :=
  if s.slotHeld d then s.modMtr d fun x => { x with counts := Tab.set 0 x.counts m (Tab.get 0 x.counts m + n) } else s

/-- Activity units of Table 19-4, to a context or to the block's own counter (R559). -/
def activity (s : State) (c : Option CtxId) (n : Nat) : State :=
  match c with
  | some x => s.modCtx x fun k => { k with activity := k.activity + n }
  | none => { s with pwr.blkActivity := s.pwr.blkActivity + n }

/-! ### Host writes (R61, R62) -/

/-- Split a host write so that no request crosses a 4 KiB boundary (R61). -/
def hdWriteAux (s : State) (f : Fn) : Nat → BitVec 64 → Bytes → State
  | 0, _, _ => s
  | _ + 1, _, [] => s
  | n + 1, a, bs =>
    let room := 4096 - a.toNat % 4096
    (s.out (.hdWrite f a (bs.take room))).hdWriteAux f n (a + BitVec.ofNat 64 room) (bs.drop room)

/-- A posted write through the staging DMA port; dropped while the port is off (R34). -/
def hostWrite (s : State) (f : Fn) (a : BitVec 64) (bs : Bytes) : State :=
  if s.portOn portStaging then s.hdWriteAux f (bs.length / 4096 + 2) a bs else s

/-! ### Words for the power manager (R343, R557, R558) -/

/-- Send a word on a channel of the power-manager port, whose ready is free (R32): none where the port is off or does not
take it yet. -/
def pmPut (s : State) (o : PortOut) : Option State :=
  if s.portOn portPm && Config.pmReady s.freeCtr then some ({ s with freeCtr := s.freeCtr + 1 }.out o) else none

/-- The port has been asked in vain. -/
def pmMissed (s : State) : State := if s.portOn portPm then { s with freeCtr := s.freeCtr + 1 } else s

/-- Offer a skew word: a program slot has one pending word, which a newer one replaces (R343). -/
def skewPut (s : State) (p : ProgId) (w : BitVec 64) : State :=
  let keep (s : State) : State := s.modProg p fun g => { g with skewWord := some w }
  if (s.prog p).skewWord.isSome then keep (s.redEvent 4)
  else match s.pmPut (.pmSkew w) with
  | some t => t
  | none => keep s.pmMissed

/-- Offer a budget word: up to 16 wait, a further one is dropped (R558). -/
def budPut (s : State) (w : BitVec 64) : State :=
  if 16 ≤ s.pwr.budQueue.length then { s with pwr.budDropped := true }
  else
    let q := s.pwr.budQueue ++ [w]
    let keep (s : State) : State := { s with pwr.budQueue := q }
    if !s.pwr.budQueue.isEmpty then keep s
    else match s.pmPut (.pmBud w) with
    | some t => t
    | none => keep s.pmMissed

/-- The pending skew words of some program slots, in turn, while the port takes them. -/
def skewPump : List Nat → State → State
  | [], s => s
  | i :: t, s =>
    let p : ProgId := BitVec.ofNat 8 i
    match (s.prog p).skewWord with
    | none => skewPump t s
    | some w => match s.pmPut (.pmSkew w) with
      | some u => skewPump t (u.modProg p fun g => { g with skewWord := none })
      | none => s.pmMissed

/-- The waiting budget words, the oldest first, while the port takes them. -/
def budPump : List (BitVec 64) → State → State
  | [], s => { s with pwr.budQueue := [] }
  | w :: t, s => match s.pmPut (.pmBud w) with
    | some u => budPump t u
    | none => { s.pmMissed with pwr.budQueue := w :: t }

/-- Words held for the power manager go out as far as the port takes them. -/
def pmFlush (s : State) : State :=
  if !s.portOn portPm then s
  else
    let s := skewPump ((s.red.progs.filter fun e => e.2.skewWord.isSome).map (·.1)) s
    if s.pwr.budQueue.isEmpty then s else budPump s.pwr.budQueue s

/-! ### A tick of the time base (R414, R416, R418, R419) -/

/-- One step of a slot's rate correction: at 1,000 ppm, 1 ns in 1,000 (R416). -/
def steerDom (k : Dom) : Dom :=
  let t := k.time
  if 8 ≤ t.residue then { k with time := { t with corr := t.corr + 1, residue := t.residue - 8 } }
  else if t.residue ≤ -8 then { k with time := { t with corr := t.corr - 1, residue := t.residue + 8 } }
  else k

/-- Block time runs: it has begun at start-up step 2 and ends with por_b. -/
def timeRuns (s : State) : Bool :=
  match s.sys.phase with
  | .held => false
  | .settle => false
  | .waitRef => !s.boot.afterPor
  | _ => true

/-- One tick of 1 ns. While refclk is lost the internal oscillator decides whether the tick counts (R419). -/
def idle (s : State) : State :=
  if !s.timeRuns then s
  else
    let s := s.pmFlush
    let adv := s.sys.refclk || Config.oscTick s.freeCtr
    let s := if s.sys.refclk then s else { s with freeCtr := s.freeCtr + 1 }
    if !adv then s
    else
      let t := s.now + 1
      let s := { s with sys := { s.sys with btime := t } }
      if t.toNat % 1000 = 0 then { s with doms := Tab.mapAll {} (fun _ k => steerDom k) s.doms } else s

/-! ### Issue rates -/

def droopRate (s : State) (r : Region) : BitVec 5 :=
  match r with
  | .mem => s.pwr.droopMem
  | .link => s.pwr.droopLink
  | .svc => s.pwr.droopSvc

/-- The issue rate of a region in sixteenths: of a limit throttle and a droop throttle the lower one applies (R555). -/
def issueRate (s : State) (r : Region) : BitVec 5 := if s.droopRate r < s.pwr.limRate then s.droopRate r else s.pwr.limRate

end State

end Sys2Proof.Machine
end

