-- ==== Sys2Proof/Machine/MemOps.lean ====
section
/-! DEFINITION. Memory sealing (R217 to R254): the sealed line, the admission of a request, the verdict fence, requests
at the controllers, and the sweep. -/

namespace Sys2Proof.Machine

/-! ### The sealed line (R217 to R222) -/

def dpaChan (d : Dpa) : ChanId := d.extractLsb' 38 5
def dpaLine (d : Dpa) : BitVec 32 := d.extractLsb' 6 32
def dpaSub (d : Dpa) : BitVec 2 := d.extractLsb' 6 2
/-- The DPA of the line a DPA lies in. -/
def lineDpa (d : Dpa) : Dpa := d &&& ~~~ 0x3F
def mkDpa (ch : ChanId) (line : BitVec 32) : Dpa := (ch ++ line ++ (0 : BitVec 6) : BitVec 43)

/-- The XTS tweaks T to T ⊗ α^3 (R219, R220). -/
def tweakT (k : Bytes) (d : Dpa) : Bytes := aesEnc (slice k 32 32) (leBytes 16 (d.toNat / 64))

def tweaks (t : Bytes) : List Bytes :=
  let t0 := leBv 128 t
  let t1 := xtsAlpha t0
  let t2 := xtsAlpha t1
  let t3 := xtsAlpha t2
  [t0, t1, t2, t3].map fun x => leBytes 16 x.toNat

/-- The 28-bit tag over the ciphertext (R221). -/
def lineTag (k t c : Bytes) : BitVec 28 :=
  let u := ghashFrom (slice k 64 16) (zeros 16) (chunks 16 c)
  leBv 28 ((aesEnc (slice k 96 32) (xorBytes u t)).take 4)

def xtsBlocks (f : Bytes → Bytes) (ts : List Bytes) (p : Bytes) : Bytes :=
  (List.zipWith (fun t b => xorBytes (f (xorBytes b t)) t) ts (chunks 16 p)).flatten

/-- The ciphertext and side bits of a line (R219 to R222). -/
def sealLine (k : Bytes) (i : KeyIdx) (d : Dpa) (p : Line) : Line × BitVec 32 :=
  let t := tweakT k d
  let c := xtsBlocks (aesEnc (slice k 0 32)) (tweaks t) (lineBytes p)
  (bytesLine c, i ++ lineTag k t c)

/-- The plaintext of a line whose tag verifies (R226). The decryption starts from the round keys held beside the row of k_data,
bytes 128 to 159 (R192). -/
def openLine (k : Bytes) (d : Dpa) (c : Line) (side : BitVec 32) : Option Line :=
  let t := tweakT k d
  let cb := lineBytes c
  if lineTag k t cb = side.setWidth 28 then
    some (bytesLine (xtsBlocks (aesInv (slice k 128 32)) (tweaks t) cb))
  else none

namespace State

/-- A memory key: k_data, k_tweak, k_uhash, k_tag (R165, R218), then round keys 13 and 14 of k_data (R192). -/
def memKey (s : State) (i : KeyIdx) (fut : Bool) : Option Bytes :=
  let r := rowMemKey i fut
  if s.keyUsable r && s.keyUsable (r + 1) && s.keyUsable (r + 2) && s.keyUsable (r + 3) then
    some (s.keyBytes r 32 ++ s.keyBytes (r + 1) 32 ++ s.keyBytes (r + 2) 32 ++ s.keyBytes (r + 3) 32 ++
      leBytes 32 (s.row r).tail.toNat)
  else none

/-- A sweep of the index runs with a Future in place. -/
def hasFuture (s : State) (i : KeyIdx) : Bool := (s.memIdx i).sweeping && (s.memKey i true).isSome

/-- The key a new write takes (R172, R243). -/
def writeKeyOf (s : State) (i : KeyIdx) : Option Bytes := s.memKey i (s.hasFuture i)

/-- The row whose counter counts a write (R171, R254). -/
def writeRowOf (s : State) (i : KeyIdx) : Nat := rowMemKey i (s.hasFuture i)

def sweepPtrOf (s : State) (ch : ChanId) (i : KeyIdx) : BitVec 33 := Tab.get 0 (s.chan ch).sweepPtr i.toNat

/-- The keys tried for a line, in order (R244). -/
def trialKeys (s : State) (i : KeyIdx) (d : Dpa) : List Bytes :=
  if !(s.memIdx i).sweeping then (s.memKey i false).toList
  else if decide ((dpaLine d).toNat < (s.sweepPtrOf (dpaChan d) i).toNat) then (s.memKey i true).toList
  else (s.memKey i false).toList ++ (s.memKey i true).toList

/-! ### Admission (R225, R234, R235, R506) -/

end State

/-- The context a master carries (Table 8-4). -/
def masterCtx : Master → Option CtxId
  | .ctx c => some c
  | .program c _ _ => some c
  | .staging c => some c
  | _ => none

/-- The requester of an outstanding request. -/
def McReq.master (q : McReq) : Master :=
  match q.purpose with
  | .read m .. => m
  | .write m => m
  | .modify m .. => m
  | .merged m _ => m

/-- A merged line that has no request at the controller. -/
def McReq.isMerged (q : McReq) : Bool :=
  match q.purpose with
  | .merged .. => true
  | _ => false

namespace State

/-- The domain slot a master acts for: some none is a context of no slot. -/
def masterSlot (s : State) : Master → Option (Option Slot)
  | .ctx c => some (s.ctxSlot c)
  | .program c _ _ => some (s.ctxSlot c)
  | .staging c => some (s.ctxSlot c)
  | .fabric d => some (some d)
  | _ => none

/-- The enabled ranges that cover a line (R235). -/
def rangesOver (s : State) (d : Dpa) : List ProtRange :=
  (s.mem.ranges.map (·.2)).filter fun r => r.enable && decide (r.base ≤ d.extractLsb' 12 31) &&
    decide (d.extractLsb' 12 31 ≤ r.limit)

/-- Table 8-4. -/
def admitted (s : State) (m : Master) (d : Dpa) : Bool :=
  match m with
  | .ctx c => (s.rangesOver d).all fun r => s.ctxSlot c == some r.owner
  | .program c _ _ => (s.rangesOver d).all fun r => s.ctxSlot c == some r.owner
  | .fabric x => (s.rangesOver d).all fun r => r.owner == x
  | .trustCore => true
  | .sweep => true
  | _ => (s.rangesOver d).isEmpty

/-- R225. A master that carries no context and no slot is refused an index assigned to no slot, and no other. -/
def scopeOk (s : State) (m : Master) (i : KeyIdx) (write : Bool) : Bool :=
  match s.masterSlot m with
  | none => i == 0 || (s.memIdx i).assigned
  | some d =>
    if i = 0 then !(write && d.isSome)
    else (s.memIdx i).assigned && d == some (s.memIdx i).slot

/-- An index reserved to a slot has no index secret (R506). -/
def indexReserved (s : State) (i : KeyIdx) : Bool := i != 0 && (s.memIdx i).assigned && !s.keyUsable (rowIndex i)

/-- The channel serves: it is enabled and its cluster has a lane (R96, R197). -/
def mcServes (s : State) (c : ChanId) : Bool := s.mcOn c && !outOfService (.mc c) (s.laneCluster (.mc c))

/-- A request refused at acceptance: its status, with what the refusal records. The order of the checks is a DESIGN
CHOICE (log entry 21). -/
def memRefusal (s : State) (m : Master) (i : KeyIdx) (d : Dpa) (write : Bool) : Option (Status × State) :=
  if !s.mcServes (dpaChan d) then some (stFnOff, s)
  else if !s.admitted m d then some (stProtected, s.memAlarm memPrRefused)
  else if !s.scopeOk m i write then some (stKeyScope, s.memAlarm memScopeRefused)
  else if s.indexReserved i then some (stKeyOrphan, s.record recKeyOrphan i.toNat)
  else if write && (match s.masterSlot m with
      | some (some x) => s.isFragment x
      | _ => false) then some (stFragment, s)
  else none

/-! ### At the controller (R41 to R46) -/

/-- A protocol violation at a port (R36, R608): port 0 a memory channel, 1 the staging port. -/
def portViolation (s : State) (port : BitVec 1) (ch : ChanId) (sub kind : BitVec 2) : State :=
  let g := s.glb
  let g := { g with peCount := satInc g.peCount, peMc := g.peMc || port == 0, peStaging := g.peStaging || port == 1 }
  let g := if g.plValid then g
    else { g with plValid := true, plPort := port, plChan := ch, plSub := sub, plKind := kind }
  { s with glb := g }

/-- The lowest free identifier of a sub-port (R42). -/
def freeMcId (s : State) (ch : ChanId) (sub : BitVec 2) : Option (BitVec 6) :=
  ((List.range 64).map (BitVec.ofNat 6)).find? fun i =>
    !(s.mem.out.any fun q => q.ch == ch && q.sub == sub && q.id == i)

/-- The channel takes new requests: enabled and its crossing locked (R34, R85). -/
def mcReady (s : State) (ch : ChanId) : Bool := s.mcOn ch && !s.clk.mcUnlocked.getLsbD ch.toNat

/-- Activity of a sealed or opened line: 6 lane operations, 4 hash blocks, 1 line moved (Table 19-4). -/
def lineActivity : Nat := 30

/-- The tweak's operation under the first trial key, in flight until the answer comes (R226). -/
def tweakIssue (c : LaneCluster) (d : Dpa) : McPurpose → List IssueRec
  | .read _ (k :: _) _ _ => issueOf c (BitVec.ofNat 128 (d.toNat / 64)) false (leBv 256 (slice k 32 32)) 0
  | .modify _ (k :: _) _ _ => issueOf c (BitVec.ofNat 128 (d.toNat / 64)) false (leBv 256 (slice k 32 32)) 0
  | _ => []

/-- Offer a request: an identifier, the port's signals, progress of the cluster, the global counters (R42, R523, R586). -/
def mcIssue (s : State) (i : KeyIdx) (d : Dpa) (p : McPurpose) (w : Option (Line × BitVec 32)) (tag : Option MemTag) :
    Option State :=
  let ch := dpaChan d
  match s.freeMcId ch (dpaSub d) with
  | none => none
  | some id =>
    if !s.mcReady ch then none
    else
      let q : McReq := { ch := ch, sub := dpaSub d, id := id, key := i, dpa := lineDpa d, purpose := p, discard := false,
                         tag := tag, issue := tweakIssue (s.laneCluster (.mc ch)) d p }
      let s := { s with mem.out := s.mem.out ++ [q] }
      let s := (s.progress ch.toNat).count (if w.isSome then 6 else 5) 1
      some (match w with
        | none => s.out (.mcReq ch (dpaSub d) id false (dpaLine d) 0 0)
        | some x => s.out (.mcReq ch (dpaSub d) id true (dpaLine d) x.1 x.2))

/-- What sealing one line leaves: the use of its key, the written mask, the slot's meter (R171, R512, R561). -/
def noteSealed (s : State) (m : Master) (i : KeyIdx) (d : Dpa) : State :=
  let s := s.useKey (s.writeRowOf i) 6
  let s := s.modChan (dpaChan d) fun c => { c with written := setBitTo c.written i.toNat true }
  let s := if i ≠ 0 ∧ (s.memIdx i).assigned then s.meter (s.memIdx i).slot i.toNat 64 else s
  s.activity (masterCtx m) lineActivity

/-- The end of an access is told to what made it, not put out as an answer: a command's, a record's, an iteration's, a sweep's. -/
def memTold (tag : Option MemTag) (m : Master) : Bool :=
  match tag, m with
  | some _, _ => true
  | none, .program .. => true
  | none, .sweep => true
  | none, _ => false

/-- An access ended: a request of a port of its own is answered there; what else waits for it is told within the step
(R45, R230). The sweep has no requester. -/
def memEnd (s : State) (m : Master) (tag : Option MemTag) (d : Dpa) (st : Status) (alarm : Bool) : State :=
  let s := if memTold tag m then s else s.out (.memDone m (lineDpa d) st)
  if st = stOk || m == .sweep then s
  else { s with mem.ends := s.mem.ends ++ [{ master := m, tag := tag, dpa := lineDpa d, status := st, alarm := alarm }] }

/-- A write performed at the controller: a record of the fabric checker is still to be acknowledged (R432). -/
def memDoneOk (s : State) (m : Master) (tag : Option MemTag) (d : Dpa) : State :=
  match tag with
  | some (.fab _) => { s with mem.ends := s.mem.ends ++ [{ master := m, tag := tag, dpa := lineDpa d, status := stOk, alarm := false }] }
  | _ => s.memEnd m tag d stOk false

/-- Seal a whole line and offer it; a write whose key is gone ends with ST_KEY_ORPHAN (R168, R227). -/
def mcWrite (s : State) (m : Master) (i : KeyIdx) (d : Dpa) (p : Line) (tag : Option MemTag) : Option State :=
  match s.writeKeyOf i with
  | none => some ((s.record recKeyOrphan i.toNat).memEnd m tag d stKeyOrphan false)
  | some k => (s.mcIssue i d (.write m) (some (sealLine k i (lineDpa d) p)) tag).map fun t => t.noteSealed m i d

/-! ### The verdict fence (R237 to R242) and requests that wait -/

def fencedOn (s : State) (d : Dpa) : List FenceEntry := s.mem.fence.filter fun e => e.dpa == lineDpa d

/-- A partial write or atomic of the line is between its read and its write (R228). -/
def lineBusy (s : State) (d : Dpa) : Bool :=
  s.mem.out.any fun q => q.dpa == lineDpa d && !q.discard && (match q.purpose with
    | .modify .. => true
    | .merged .. => true
    | _ => false)

def fenceSize : Nat := 32768

/-- A new fence entry, with the high-water mark. -/
def fencePush (s : State) (e : FenceEntry) : State :=
  let f := s.mem.fence ++ [e]
  { s with mem.fence := f, mem.highWater := BitVec.ofNat 16 (Nat.max s.mem.highWater.toNat f.length) }

/-- The write must enter the fence: its data is Subjunctive, or its line has an entry (R237, R238). -/
def needsFence (s : State) (w : MemWait) : Bool :=
  w.write.isSome && (!w.refs.isEmpty || !(s.fencedOn w.dpa).isEmpty)

/-- The write stands before a full fence. -/
def fenceBlocked (s : State) (w : MemWait) : Bool :=
  s.needsFence w && !w.atomic && decide (fenceSize ≤ s.mem.fence.length)

/-- Issue an accepted request, or answer none where it must wait behind `before` or for a rule of the fence, the key
index, the identifiers or the crossing (R228, R237, R238, R240, R243, R249). -/
def memTry (s : State) (before : List MemWait) (w : MemWait) : Option State :=
  if before.any (fun b => lineDpa b.dpa == lineDpa w.dpa) || s.lineBusy w.dpa then none
  else match w.write with
  | none =>
    let es := s.fencedOn w.dpa
    let own := match masterCtx w.master with
      | none => es.isEmpty
      | some c => es.all fun e => masterCtx e.master == some c
    if !own then none
    else
      let refs := (es.flatMap (·.refs)).eraseDups
      (s.mcIssue w.key w.dpa (.read w.master (s.trialKeys w.key w.dpa) (es.map fun e => (e.mask, e.data)) refs) none w.tag).map
        fun t => match masterCtx w.master with
          | none => t
          | some c => refs.foldl (fun u r => u.addConsumer c r) t
  | some (mask, data) =>
    let x := s.memIdx w.key
    let ctxBlocked := before.any fun b => s.fenceBlocked b && masterCtx b.master == masterCtx w.master
    if x.futureHeld || x.urgent || ctxBlocked then none
    else if s.needsFence w then
      if w.atomic || s.fenceBlocked w then none
      else some (s.fencePush { data := data, mask := mask, dpa := lineDpa w.dpa, key := w.key, master := w.master,
                               refs := w.refs, tag := w.tag })
    else if mask = BitVec.allOnes 64 then s.mcWrite w.master w.key w.dpa data w.tag
    else s.mcIssue w.key w.dpa (.modify w.master (s.trialKeys w.key w.dpa) mask data) none w.tag

/-- A write that stands before a full fence sets fence_full (R237). -/
def noteWaits (s : State) (w : MemWait) : State := if s.fenceBlocked w then s.memAlarm memFenceFull else s

/-- An accepted request issues at once or waits in order at its cluster. -/
def memAccept (s : State) (w : MemWait) : State :=
  match s.memTry s.mem.waits w with
  | some t => t
  | none =>
    let s := s.noteWaits w
    { s with mem.waits := s.mem.waits ++ [w] }

/-- Try the waiting requests in order, keeping those that still wait. A request whose channel is now off ends with ST_FN_OFF
(R96). -/
def memPumpAux : List MemWait → List MemWait → State → State
  | [], kept, s => { s with mem.waits := kept }
  | w :: rest, kept, s =>
    if !s.mcOn (dpaChan w.dpa) then memPumpAux rest kept (s.memEnd w.master w.tag w.dpa stFnOff false)
    else match s.memTry kept w with
    | some t => memPumpAux rest kept t
    | none => memPumpAux rest (kept ++ [w]) (s.noteWaits w)

def memPump (s : State) : State := memPumpAux s.mem.waits [] s

/-- Release the entries of the fence whose groups are all Confirmed, in the order of their lines (R239); an entry on a channel
that is now off ends with ST_FN_OFF (R96). -/
def fenceReleaseAux : List FenceEntry → List FenceEntry → State → State
  | [], kept, s => { s with mem.fence := kept }
  | e :: rest, kept, s =>
    let r :=
      if !s.mcOn (dpaChan e.dpa) then some (s.memEnd e.master e.tag e.dpa stFnOff false)
      else if !e.refs.isEmpty || kept.any (fun k => k.dpa == e.dpa) || s.lineBusy e.dpa then none
      else if e.mask = BitVec.allOnes 64 then s.mcWrite e.master e.key e.dpa e.data e.tag
      else s.mcIssue e.key e.dpa (.modify e.master (s.trialKeys e.key e.dpa) e.mask e.data) none e.tag
    match r with
    | some t => fenceReleaseAux rest kept t
    | none => fenceReleaseAux rest (kept ++ [e]) s

def fenceRelease (s : State) : State := (fenceReleaseAux s.mem.fence [] s).memPump

/-- A group Confirmed: it no longer holds an entry or a waiting request. -/
def fenceConfirm (s : State) (r : GroupRef) : State :=
  let m := s.mem
  fenceRelease { s with mem := { m with
      fence := m.fence.map fun e => { e with refs := e.refs.filter (· != r) }
      waits := m.waits.map fun e => { e with refs := e.refs.filter (· != r) } } }

/-- A group Repudiated: the entries and waiting writes tied to it are discarded without a response (R239). -/
def fenceRepudiate (s : State) (r : GroupRef) : State :=
  let m := s.mem
  fenceRelease { s with mem := { m with
      fence := m.fence.filter fun e => !e.refs.contains r
      waits := m.waits.filter fun e => !e.refs.contains r } }

/-- The writes of a channel's merged lines are offered (R85, R227), and what waits after them. -/
def mergedGo (s : State) (ch : ChanId) : State :=
  if !s.mcReady ch then s
  else
    let mine := s.mem.out.filter fun q => q.isMerged && q.ch == ch
    let s := { s with mem.out := s.mem.out.filter fun q => !(q.isMerged && q.ch == ch) }
    (mine.foldl (fun (s : State) q => match q.purpose with
      | .merged _ p => (s.mcWrite q.master q.key q.dpa p q.tag).getD s
      | _ => s) s).fenceRelease

/-- A channel's enable is cleared (R35, R96): what has not been offered ends with ST_FN_OFF; the responses owed to it are
accepted and discarded, so those requests end with ST_FN_OFF as well (DESIGN CHOICE, log entry 127). -/
def chanOff (s : State) (ch : ChanId) : State :=
  let gone := s.mem.out.filter fun q => q.ch == ch && !q.discard
  let m := s.mem
  let s := { s with mem.out := (m.out.filter fun q => !(q.ch == ch && q.isMerged)).map fun q =>
    if q.ch = ch then { q with discard := true } else q }
  (gone.foldl (fun (s : State) q => s.memEnd q.master q.tag q.dpa stFnOff false) s).fenceRelease

/-- Discard entries, waiting requests and requests in flight that a predicate selects; responses owed are accepted and
discarded (R35, R241, R532). -/
def memDiscard (s : State) (sel : Master → Dpa → Bool) : State :=
  let m := s.mem
  fenceRelease { s with mem := { m with
      fence := m.fence.filter fun e => !sel e.master e.dpa
      waits := m.waits.filter fun e => !sel e.master e.dpa
      out := (m.out.filter fun q => !(q.isMerged && sel q.master q.dpa)).map fun q =>
        if sel q.master q.dpa then { q with discard := true } else q } }

/-- Nothing more is written for what a tag names (R63): what is not yet at the controller as a whole line is discarded. -/
def memDropTag (s : State) (tag : MemTag) : State :=
  let m := s.mem
  let mine (t : Option MemTag) : Bool := t == some tag
  fenceRelease { s with mem := { m with
      fence := m.fence.filter fun e => !mine e.tag
      waits := m.waits.filter fun w => !(mine w.tag && w.write.isSome)
      out := (m.out.filter fun q => !(q.isMerged && mine q.tag)).map fun q => match q.purpose with
        | .modify .. => if mine q.tag then { q with discard := true } else q
        | _ => q } }

/-! ### Opening a response (R226, R230, R231) -/

/-- The security alarm of a read (R231). The Comma it starts is the caller's (Table 18-6). -/
def tagFail (s : State) (m : Master) (i : KeyIdx) (d : Dpa) (side : BitVec 32) : State :=
  let s := s.memAlarm memTagFail
  let s := s.modChan (dpaChan d) fun c =>
    let c := { c with tagFail := satInc c.tagFail }
    if c.fValid then c
    else
      { c with
        fValid := true
        fail0 := dpaLine d
        fKey := i
        fDiffers := side.extractLsb' 28 4 != i
        fNoCtx := (masterCtx m).isNone
        fCtx := (masterCtx m).getD 0 }
  (s.record causeMemTagFail (lineDpa d).toNat).out (.memTagFail (dpaChan d) (dpaLine d) i (masterCtx m))

/-- The outcome of a read: the line, or a bus error with or without the security alarm. -/
inductive ReadEnd where
  | opened (p : Line)
  | failed (alarm : Bool)
  deriving DecidableEq, Repr

/-- Judge a controller's answer to a read (R226, Table 8-3). -/
def openRsp (s : State) (m : Master) (i : KeyIdx) (d : Dpa) (keys : List Bytes) (rsp : McRsp) : State × ReadEnd :=
  let ch := dpaChan d
  if rsp.status = 2 then
    (((s.activity (masterCtx m) 6).memAlarm memPoisoned).modChan ch fun c => { c with poisoned := satInc c.poisoned }, .failed false)
  else if rsp.status = 3 then (s.portViolation 0 ch (dpaSub d) 1, .failed false)
  else
    let s := if rsp.status = 1 then s.modChan ch fun c => { c with corrected := satInc c.corrected } else s
    let s := s.activity (masterCtx m) lineActivity
    if keys.isEmpty then (s.record recKeyOrphan i.toNat, .failed false)
    else if rsp.rside.extractLsb' 28 4 ≠ i then (s.tagFail m i d rsp.rside, .failed true)
    else match keys.findSome? fun k => openLine k (lineDpa d) rsp.rdata rsp.rside with
      | some p => (s, .opened p)
      | none => (s.tagFail m i d rsp.rside, .failed true)

/-- Merge fence entries into an opened line, in order (R240). -/
def mergeAll (p : Line) (es : List (BitVec 64 × Line)) : Line := es.foldl (fun a e => mergeLine a e.2 e.1) p

/-! ### Accesses of a command row, whole in one step -/

/-- The end of one access of a command row. -/
inductive Access where
  /-- the row cannot run yet: a rule of the fence, the line or the port holds the access -/
  | wait
  | failed (st : Status) (alarm : Bool)
  | done (p : Line)
  deriving DecidableEq, Repr

/-- Read one line now: the row carries the controller's answer. A request to the line accepted before it goes first
(R228). -/
def readNow (s : State) (m : Master) (i : KeyIdx) (d : Dpa) (rsp : McRsp) : State × Access :=
  match s.memRefusal m i d false with
  | some (st, t) => (t, .failed st false)
  | none =>
    let es := s.fencedOn d
    let own := match masterCtx m with
      | none => es.isEmpty
      | some c => es.all fun e => masterCtx e.master == some c
    match s.freeMcId (dpaChan d) (dpaSub d) with
    | none => (s, .wait)
    | some id =>
      if !own || s.mem.waits.any (fun w => lineDpa w.dpa == lineDpa d) || s.lineBusy d || !s.mcReady (dpaChan d) then
        (s, .wait)
      else
        let refs := (es.flatMap (·.refs)).eraseDups
        let s := ((s.progress (dpaChan d).toNat).count 5 1).out (.mcReq (dpaChan d) (dpaSub d) id false (dpaLine d) 0 0)
        let s := match masterCtx m with
          | none => s
          | some c => refs.foldl (fun u r => u.addConsumer c r) s
        match s.openRsp m i d (s.trialKeys i d) rsp with
        | (t, .opened p) => (t, .done (mergeAll p (es.map fun e => (e.mask, e.data))))
        | (t, .failed a) => (t, .failed stBusError a)

/-- Accept a write of bytes of one line, or refuse it with its status (R225, R227, R235, R237): what asked for it is told by
its tag when the controller has answered (R45). -/
def memPut (s : State) (w : MemWait) : State × Option Status :=
  match s.memRefusal w.master w.key w.dpa true with
  | some (st, t) => (t, some st)
  | none => (s.memAccept w, none)

/-- Write bytes from an address on, one masked write per line (R227), up to the first line that is refused. Answers whether
every line was accepted. -/
def memStore (s : State) (m : Master) (key : KeyIdx) (refs : List GroupRef) (tag : Option MemTag) :
    Nat → Dpa → Bytes → State × Bool
  | 0, _, _ => (s, true)
  | _ + 1, _, [] => (s, true)
  | f + 1, a, bs =>
    let o := a.toNat % 64
    let part := bs.take (64 - o)
    match s.memPut { master := m, key := key, dpa := a, atomic := false, refs := refs, tag := tag,
                     write := some (BitVec.ofNat 64 ((2 ^ part.length - 1) * 2 ^ o), bytesLine (zeros o ++ part)) } with
    | (t, some _) => (t, false)
    | (t, none) => memStore t m key refs tag f (a + BitVec.ofNat 43 part.length) (bs.drop part.length)

/-- The most lines that a number of bytes can touch. -/
def linesTouched (n : Nat) : Nat := (n + 126) / 64

/-- Work a tag names that is not performed yet: an entry of the fence, a request that waits, one at the controller. -/
def memOpen (s : State) (tag : MemTag) : Bool :=
  (s.mem.out.any fun q => q.tag == some tag && !q.discard) || (s.mem.waits.any fun w => w.tag == some tag) ||
    (s.mem.fence.any fun e => e.tag == some tag) || s.mem.ends.any fun e => e.tag == some tag

end State

end Sys2Proof.Machine
end

