-- ==== Sys2Proof/Machine/TxOps.lean ====
section
/-! DEFINITION. Link keys and their derivation (R159 to R165, R175), sealed groups (R255 to R258), the transmit queues,
TC0 routing (R397 to R404) and receive credits (R47, R265). -/

namespace Sys2Proof.Machine

namespace State

/-! ### Derivations (Table 6-1) -/

/-- A hybrid derivation (R161). -/
def hybrid (ssKem ssEcdh th : Bytes) (label : String) (ctx : Bytes) : Bytes :=
  kmac256 (ssKem ++ ssEcdh) (th ++ ctx) 256 (ascii label)

def domainIdOf (s : State) (d : Slot) : Bytes := fitTo 16 (s.dom d).domainId

/-- The ends of a link's Agreement in the order of their member indices: lower member and link, higher member and
link. -/
def linkEnds (s : State) (l : LinkId) : Member × LinkId × Member × LinkId :=
  let k := (s.link l).core
  let own := (s.dom k.slot).member
  if own < k.pMember then (own, l, k.pMember, k.pLink) else (k.pMember, k.pLink, own, l)

/-- dir of the traffic this end sends: 0 at the lower member (Table 6-1). -/
def txDir (s : State) (l : LinkId) : Nat :=
  let k := (s.link l).core
  if (s.dom k.slot).member < k.pMember then 0 else 1

def rxDir (s : State) (l : LinkId) : Nat := 1 - s.txDir l

/-- The link key and salt of a generation (Table 6-1). -/
def linkKey (s : State) (l : LinkId) (c : Cls) (dir : Nat) (gen : BitVec 32) : BitVec 288 :=
  let e := s.linkEnds l
  let x := s.domainIdOf (s.link l).core.slot ++ leBytes 4 e.1.toNat ++ leBytes 1 e.2.1.toNat ++ leBytes 4 e.2.2.1.toNat ++
    leBytes 1 e.2.2.2.toNat ++ leBytes 1 dir ++ leBytes 1 c.toNat ++ leBytes 4 gen.toNat
  leBv 288 (kdf (s.keyBytes (rowLas l) 32) "KX3-LINK-TC" x 288)

/-- The row a new generation of a stream's key takes: of its three rows, from generation mod 3 on, the first that is empty and
not out of use (R188; DESIGN CHOICE, log entry 14). -/
def genRow (s : State) (l : LinkId) (c : Cls) (dir : Nat) (gen : BitVec 32) : Nat :=
  let rs := [0, 1, 2].map fun k => rowLink l c dir ((gen.toNat + k) % 3)
  (rs.find? fun r => !(s.row r).valid && !(s.row r).outOfUse).getD (rowLink l c dir (gen.toNat % 3))

/-- Derive a generation of a link key into its row. -/
def installLinkKey (s : State) (l : LinkId) (c : Cls) (dir : Nat) (gen : BitVec 32) (tense : BitVec 2) : State :=
  s.writeKey (s.genRow l c dir gen) (s.linkKey l c dir gen) (.row (BitVec.ofNat 12 (rowLas l))) tense
    (s.link l).core.slot gen

/-- The row of a stream that holds a Tense: 1 Past, 2 Present, 3 Future. -/
def tenseRow (s : State) (l : LinkId) (c : Cls) (dir : Nat) (tense : BitVec 2) : Option Nat :=
  ([0, 1, 2].map (rowLink l c dir)).find? fun r => (s.row r).valid && (s.row r).tense == tense

def presentGen (s : State) (l : LinkId) (c : Cls) (dir : Nat) : BitVec 32 :=
  match s.tenseRow l c dir 2 with
  | none => 0
  | some r => (s.row r).gen

/-- The key-confirmation tag of a Tense message (R175). -/
def kconf (key : Bytes) (type : Byte) (c dir : Byte) (gen : BitVec 32) : BitVec 128 :=
  leBv 128 (kmac256 key ([type, c, dir] ++ leBytes 4 gen.toNat) 128 (ascii "KX3-KCONF"))

end State

/-! ### Groups on the wire (R256 to R259) -/

/-- Table 9-1. -/
def groupHeader (dst : Member) (ctx : BitVec 10) (vd : VdId) (d : Slot) (dest kind gen : BitVec 2) (c : Cls)
    (len : BitVec 9) (seq : BitVec 64) : BitVec 128 :=
  ((0 : BitVec 8) ++ dst ++ ctx ++ vd ++ d ++ dest ++ kind ++ gen ++ c ++ len ++ seq : BitVec 128)

def hdrDst (h : BitVec 128) : Member := h.extractLsb' 100 20
def hdrCtx (h : BitVec 128) : BitVec 10 := h.extractLsb' 90 10
def hdrVd (h : BitVec 128) : VdId := h.extractLsb' 84 6
def hdrSlot (h : BitVec 128) : Slot := h.extractLsb' 81 3
def hdrDest (h : BitVec 128) : BitVec 2 := h.extractLsb' 79 2
def hdrKind (h : BitVec 128) : BitVec 2 := h.extractLsb' 77 2
def hdrGen (h : BitVec 128) : BitVec 2 := h.extractLsb' 75 2
def hdrCls (h : BitVec 128) : Cls := h.extractLsb' 73 2
def hdrLen (h : BitVec 128) : BitVec 9 := h.extractLsb' 64 9
def hdrSeq (h : BitVec 128) : BitVec 64 := h.extractLsb' 0 64
def hdrReserved (h : BitVec 128) : BitVec 8 := h.extractLsb' 120 8

/-- Table 9-2 and Table 9-3. -/
def kindSealed : BitVec 2 := 0
def kindOpen : BitVec 2 := 1
def kindFabric : BitVec 2 := 2
def destDeliver : BitVec 2 := 0
def destRing : BitVec 2 := 1
def destReduce : BitVec 2 := 2
def destControl : BitVec 2 := 3

def pad16 (bs : Bytes) : Bytes := bs ++ zeros ((16 - bs.length % 16) % 16)

def blocksOf (n : Nat) : Nat := (n + 15) / 16

/-- The IV of a sealed group: the salt, then seq (R257). -/
def groupIv (m : BitVec 288) (seq : BitVec 64) : Bytes := slice (leBytes 36 m.toNat) 32 4 ++ leBytes 8 seq.toNat

/-- Units of a group of a payload length: header, payload, tag. -/
def groupUnits (n : Nat) : Nat := blocksOf n + 2

namespace State

def txCredit (s : State) (l : LinkId) (c : Cls) : Nat := Tab.get 0 (s.link l).io.txCredits c.toNat

def txSeqOf (s : State) (l : LinkId) (c : Cls) : BitVec 64 := Tab.get 0 (s.link l).io.txSeq c.toNat

/-- Link cluster engine number (Table 18-1). -/
def engLink (l : LinkId) : Nat := 32 + l.toNat

/-- Put a group on the wire and draw its credit. -/
def wirePut (s : State) (l : LinkId) (c : Cls) (bytes : Bytes) (payload : Nat) : State :=
  let k := s.link l
  let io := { k.io with
    wire := k.io.wire ++ [{ cls := c, units := groupUnits payload, bytes := bytes }]
    txCredits := Tab.set 0 k.io.txCredits c.toNat (s.txCredit l c - 1) }
  let tc0 := if c = 0 then { k.tc0 with lastTx := s.now } else k.tc0
  (s.setLink l { k with io := io, tc0 := tc0 }).out (.lkGroup l bytes)

/-- Seal a group under the Present of its stream and start it (R255, R257, R258, R267). -/
def txSeal (s : State) (l : LinkId) (c : Cls) (kind dest : BitVec 2) (ctxField : BitVec 10) (vd : VdId) (payload : Bytes)
    (ctx : Option CtxId) : Option State :=
  match s.tenseRow l c (s.txDir l) 2 with
  | none => none
  | some r =>
    let row := s.row r
    let k := s.link l
    let seq := s.txSeqOf l c
    let h := groupHeader k.core.pMember ctxField vd k.core.slot dest kind (row.gen.setWidth 2) c
      (BitVec.ofNat 9 payload.length) seq
    let hb := leBytes 16 h.toNat
    let x := gcmSeal (leBytes 32 row.material.toNat) (groupIv row.material seq) hb payload
    let s := s.modLink l fun k => { k with io.txSeq := Tab.set 0 k.io.txSeq c.toNat (seq + 1) }
    let s := (s.useKey r (blocksOf payload.length)).count 2 1
    let s := s.meter k.core.slot (16 + 2 * c.toNat) payload.length
    let act := 4 * (blocksOf payload.length + 1) + blocksOf payload.length + 2
    let s := match ctx with
      | some x => s.activity (some x) act
      | none => { s with pwr.slotActivity := Tab.set 0 s.pwr.slotActivity k.core.slot.toNat
                                              (Tab.get 0 s.pwr.slotActivity k.core.slot.toNat + act) }
    some (s.wirePut l c (hb ++ pad16 x.1 ++ x.2) payload.length)

def tenseTxOf (s : State) (l : LinkId) (c : Cls) : TenseTx := Tab.get {} (s.link l).tenseTx c.toNat

/-- The row that seals the class, where SEALED groups may go: AGREED, the responder's first wait over (R283), the class not
stopped at its limit (Table 6-5). -/
def sealRow (s : State) (l : LinkId) (c : Cls) : Option Nat :=
  let k := s.link l
  if k.core.phase ≠ .agreed ∨ !(k.core.initiator || k.agr.mayTransmit) ∨ (s.tenseTxOf l c).stopped then none
  else match s.tenseRow l c (s.txDir l) 2 with
  | none => none
  | some r => if 2 ^ 36 ≤ (s.row r).use.toNat then none else some r

/-- Start an OPEN group (R259): the member it is for, and the slot of this end. -/
def txOpen (s : State) (l : LinkId) (dst : Member) (d : Slot) (payload : Bytes) : State :=
  let k := s.link l
  let h := groupHeader dst 0 0 d destControl kindOpen 0 0 (BitVec.ofNat 9 payload.length) k.io.openSeq
  let s := s.setLink l { k with io.openSeq := k.io.openSeq + 1 }
  s.wirePut l 0 (leBytes 16 h.toNat ++ pad16 payload ++ zeros 16) payload.length

/-! ### Receive credits (R47, R265) -/

/-- Receive credits may go out: the link runs on both its port clocks and the delivery crossing is locked (R85, R87, Table
3-3). -/
def creditsGo (s : State) (l : LinkId) : Bool :=
  let k := s.link l
  s.linkOn l && k.core.up && k.clk.rxSel && k.clk.txSel && (s.poolRole || !s.clk.deliveryUnlocked)

/-- Return one receive buffer of a class. While credits may not go out the pulse is owed. -/
def creditReturn (s : State) (l : LinkId) (c : Cls) : State :=
  let k := s.link l
  if !k.core.up then s
  else if s.creditsGo l then
    (s.setLink l { k with io.rxCredits := Tab.set 0 k.io.rxCredits c.toNat (Tab.get 0 k.io.rxCredits c.toNat + 1) }).out
      (.lkCred l c 1)
  else s.setLink l { k with io.rxOwedCredits := Tab.set 0 k.io.rxOwedCredits c.toNat
                                                 (Tab.get 0 k.io.rxOwedCredits c.toNat + 1) }

/-! ### Transmit queues -/

/-- Hand a TC0 group to a link's queue (R397). Groups beyond the queue's 16 wait at their source in the same order
(DESIGN CHOICE, log entry 23). -/
def tc0Put (s : State) (l : LinkId) (x : Tc0Item) : State :=
  s.modLink l fun k => { k with tc0.queue := k.tc0.queue ++ [x] }

/-- Originate a SEALED one-link TC0 message, padded to its fixed length. -/
def tc0Own (s : State) (l : LinkId) (payload : Bytes) : State :=
  s.tc0Put l { prio := 2, isOpen := false, dstMember := 0, slot := 0, payload := payload }

/-- Fragments of an OPEN message (R278): 248 bytes each behind an 8-byte head. -/
def openFragments (type : Byte) (attempt : BitVec 32) (msg : Bytes) : List Bytes :=
  let cs := chunks 248 msg
  cs.zipIdx.map fun c => [type, BitVec.ofNat 8 c.2, BitVec.ofNat 8 cs.length, 0] ++ leBytes 4 attempt.toNat ++ c.1

/-- Send an OPEN message to a member on a link. -/
def openSend (s : State) (l : LinkId) (dst : Member) (d : Slot) (type : Byte) (attempt : BitVec 32) (msg : Bytes) :
    State :=
  (openFragments type attempt msg).foldl
    (fun t p => t.tc0Put l { prio := 2, isOpen := true, dstMember := dst, slot := d, payload := p }) s

/-! ### TC0 routes (R401 to R404) -/

/-- The links AGREED in a slot. -/
def agreedLinks (s : State) (d : Slot) : List LinkId := allLinks.filter fun l => s.agreedIn l d

/-- An entry's link when it is usable (R402). -/
def usableLink (s : State) (d : Slot) (l : Option LinkId) : Option LinkId :=
  match l with
  | none => none
  | some x => if s.agreedIn x d then some x else none

/-- The end of R402's choice. -/
inductive RouteEnd where
  | here
  | link (l : LinkId)
  | drop
  deriving DecidableEq, Repr

def tc0Route (s : State) (d : Slot) (dst : Member) : RouteEnd :=
  let k := s.dom d
  if dst = k.member then .here
  else match (s.agreedLinks d).find? fun l => (s.link l).core.pMember == dst with
  | some l => .link l
  | none =>
    let e :=
      if hallOf dst ≠ hallOf k.member then Tab.get {} k.hallRt (hallOf dst).toNat
      else if dst.extractLsb' 9 8 ≠ k.member.extractLsb' 9 8 then Tab.get {} k.groupRt (dst.extractLsb' 9 8).toNat
      else Tab.get {} k.memberRt (dst.extractLsb' 0 9).toNat
    match s.usableLink d e.primary, s.usableLink d e.alternate with
    | some l, _ => .link l
    | none, some l => .link l
    | none, none => .drop

/-- The links a flood goes out on (R404). -/
def floodLinks (s : State) (d : Slot) (scope hall : Byte) (arrived : Option LinkId) : List LinkId :=
  (s.agreedLinks d).filter fun l => some l != arrived &&
    (scope == 2 || (hallOf (s.link l).core.pMember).setWidth 8 == hall)

/-- Table 13-2. -/
def routeHeader (r : Route) : Bytes :=
  leBytes 4 r.dst.toNat ++ leBytes 4 r.src.toNat ++ [r.hops, r.scope, r.hall] ++ zeros 5

/-- Fragments of a routed message (R401): 232 message bytes each. -/
def routedFragments (type : Byte) (r : Route) (msg : Bytes) : List Bytes :=
  let cs := if msg.isEmpty then [[]] else chunks 232 msg
  cs.zipIdx.map fun c => [type, BitVec.ofNat 8 c.2, BitVec.ofNat 8 cs.length, 0] ++ leBytes 4 r.transfer.toNat ++
    routeHeader r ++ c.1

/-- Forward one fragment by its route header's scope: relayed groups and originated ones differ in priority. -/
def tc0Forward (s : State) (d : Slot) (r : Route) (prio : BitVec 2) (arrived : Option LinkId) (frag : Bytes) : State :=
  if r.scope = 0 then
    match s.tc0Route d r.dst with
    | .here => s
    | .link l => s.tc0Put l { prio := prio, isOpen := false, dstMember := 0, slot := d, payload := frag }
    | .drop => match arrived with
      | some l => s.modLink l fun k => { k with tc0.routeMiss := satInc k.tc0.routeMiss }
      | none => s
  else
    (s.floodLinks d r.scope r.hall arrived).foldl
      (fun t l => t.tc0Put l { prio := prio, isOpen := false, dstMember := 0, slot := d, payload := frag }) s

/-- Originate a routed message: a fresh transfer number for the slot, one fragment per 232 bytes. -/
def tc0Send (s : State) (d : Slot) (type : Byte) (dst : Member) (scope hall : Byte) (msg : Bytes) : State :=
  let k := s.dom d
  let r : Route := { dst := dst, src := k.member, hops := 0, scope := scope, hall := hall, transfer := k.transfer }
  let s := s.setDom d { k with transfer := k.transfer + 1 }
  let prio : BitVec 2 := if type = 0x10 ∨ type = 0x11 then 0 else 2
  (routedFragments type r msg).foldl (fun t f => t.tc0Forward d r prio none f) s

/-! ### Groups of TC1 to TC3 -/

/-- Queue a group of TC1 to TC3; it waits for the groups in `refs` (R270). -/
def txPut (s : State) (l : LinkId) (x : TxItem) : State :=
  s.modLink l fun k => { k with io.txq := k.io.txq ++ [x] }

/-- Drop the queued groups a predicate selects. -/
def txDropIf (s : State) (p : LinkId → TxItem → Bool) : State :=
  allLinks.foldl (fun t l => t.modLink l fun k => { k with io.txq := k.io.txq.filter fun x => !p l x }) s

end State

end Sys2Proof.Machine
end

