-- ==== Sys2Proof/Machine/FabOps.lean ====
section
/-! DEFINITION. Fabric requests of an accelerator (R423 to R428): records, the link of a line, the hold of R427, the 1,024
requests of R428. -/

namespace Sys2Proof.Machine

/-! ### Fabric records (R423, Table 14-1) -/

def fabRead : Byte := 0x01
def fabWrite : Byte := 0x02
def fabReadResp : Byte := 0x81
def fabWriteAck : Byte := 0x82

def fabHeader (r : FabRec) : Bytes :=
  leBytes 16 ((r.op ++ r.status ++ r.tag ++ r.line ++ r.mask : BitVec 128)).toNat

/-- The bytes of a record. -/
def fabBytes (r : FabRec) : Bytes :=
  fabHeader r ++ (if r.op = fabWrite ∨ (r.op = fabReadResp ∧ r.status = 0) then lineBytes r.data else [])

/-- Parse the records of a request group; true where bytes are left over (R424). -/
def fabParse : Nat → Bytes → List FabRec × Bool
  | 0, bs => ([], !bs.isEmpty)
  | _ + 1, [] => ([], false)
  | f + 1, bs =>
    if bs.length < 16 then ([], true)
    else
      let h : BitVec 128 := leBv 128 (bs.take 16)
      let op : Byte := h.extractLsb' 120 8
      let n := if op = fabWrite ∨ (op = fabReadResp ∧ h.extractLsb' 116 4 = 0) then 80 else 16
      if bs.length < n then ([], true)
      else
        let r : FabRec := {
          op := op, status := h.extractLsb' 116 4, tag := h.extractLsb' 100 16, line := h.extractLsb' 64 36
          mask := h.extractLsb' 0 64, data := if n = 80 then bytesLine (slice bs 16 64) else 0 }
        let t := fabParse f (bs.drop n)
        (r :: t.1, t.2)

namespace State

/-- A request that may not pass an earlier one to its line: only two READs may (R427). -/
def fabHolds (line : BitVec 36) (write : Bool) (oLine : BitVec 36) (oWrite : Bool) : Bool := line == oLine && (write || oWrite)

/-- The first tag from `t` on that is not outstanding. -/
def freeTag (os : List FabOut) : Nat → BitVec 16 → BitVec 16
  | 0, t => t
  | f + 1, t => if os.any fun o => o.tag == t then freeTag os f (t + 1) else t

/-- The class a request takes: TC1 (DESIGN CHOICE, log entry 30). -/
def fabClass : Cls := 1

/-- Send a request as one record in a group of its own; an unsettled context's is held as a link transmit (R428). -/
def fabSend (s : State) (l : LinkId) (w : FabWait) : State :=
  let k := s.link l
  let tag := freeTag k.fabOut 1025 k.fabTag
  let r : FabRec := { op := if w.write then fabWrite else fabRead, status := 0, tag := tag, line := w.line,
                      mask := if w.write then w.mask else 0, data := w.data }
  let o : FabOut := { tag := tag, line := w.line, write := w.write, ctx := w.ctx, owner := w.owner, gone := false }
  (s.setLink l { k with fabOut := k.fabOut ++ [o], fabTag := tag + 1 }).txPut l {
    cls := fabClass, kind := kindFabric, dest := 0, ctxField := 0, vdTag := w.vd, payload := fabBytes r,
    ctx := some w.ctx, prog := none, refs := s.ctxRefs w.ctx }

/-- The request may go: fewer than 1,024 outstanding, nothing earlier to its line in the way. -/
def fabFree (k : Link) (before : List FabWait) (w : FabWait) : Bool :=
  decide (k.fabOut.length < 1024) && !(k.fabOut.any fun o => fabHolds w.line w.write o.line o.write) &&
    !(before.any fun b => fabHolds w.line w.write b.line b.write)

/-- Issue a request on its link, or let it wait at its engine. -/
def fabPut (s : State) (l : LinkId) (w : FabWait) : State :=
  if fabFree (s.link l) (s.link l).fabWait w then s.fabSend l w
  else s.modLink l fun k => { k with fabWait := k.fabWait ++ [w] }

/-- Issue the waiting requests of a link that now may go, in order. -/
def fabPumpAux (l : LinkId) : List FabWait → List FabWait → State → State
  | [], kept, s => s.modLink l fun k => { k with fabWait := kept }
  | w :: rest, kept, s =>
    if fabFree (s.link l) kept w then fabPumpAux l rest kept (s.fabSend l w) else fabPumpAux l rest (kept ++ [w]) s

def fabPump (s : State) (l : LinkId) : State := fabPumpAux l (s.link l).fabWait [] s

/-- The link of a line: entry (line mod n) of the object's list (R425). -/
def fabLink (links : List LinkId) (line : BitVec 36) : Option LinkId := links[line.toNat % links.length]?

/-- The status with which a request ends at once: its link is off, or not AGREED in the context's slot. -/
def fabRefusal (s : State) (c : CtxId) (l : LinkId) : Option Status :=
  if !s.linkOn l then some stFnOff
  else match s.ctxSlot c with
    | none => some stFabricLink
    | some d => if s.agreedIn l d then none else some stFabricLink

/-- One line access to a fabric object; the status where it cannot be sent. -/
def fabIssue (s : State) (links : List LinkId) (w : FabWait) : State × Option Status :=
  match fabLink links w.line with
  | none => (s, some stFabricLink)
  | some l => match s.fabRefusal w.ctx l with
    | some st => (s, some st)
    | none => (s.fabPut l w, none)

end State

end Sys2Proof.Machine
end

