-- ==== Sys2Proof/Machine/ProgOps.lean ====
section
/-! DEFINITION. Reduction programs (R321 to R350): tiles, contributions, emission, completion and faults of iterations. -/

namespace Sys2Proof.Machine

def engRed : Nat := 96
def engStaging : Nat := 97
def engCrypto : Nat := 98
def engFill : Nat := 99
def engTrust : Nat := 100
def engArbiter : Nat := 101

/-! ### Stages and tiles -/

def kindCombine : BitVec 2 := 0
def kindForward : BitVec 2 := 1
def emitRaw : BitVec 2 := 0
def emitXpf : BitVec 2 := 1
def emitOutput : BitVec 2 := 2
def formRaw : BitVec 3 := 0
def formXpf : BitVec 3 := 1
def formOutput : BitVec 3 := 2
def formAbandon : BitVec 3 := 3

/-- The local source among a tile's sources. -/
def srcLocal : Nat := 64

def Stage.tileCount (st : Stage) : Nat := (st.elemCount + 31) / 32

/-- Valid elements of a stage's tile. -/
def Stage.valid (st : Stage) (t : Nat) : Nat := Nat.min 32 (st.elemCount - 32 * t)

/-- First relative element of a tile. -/
def Stage.first (st : Stage) (t : Nat) : Nat := st.elemBase + 32 * t

/-- The sources a tile needs. -/
def Stage.sources (st : Stage) : BitVec 65 := (if st.localIn then (1 : BitVec 65) <<< srcLocal else 0) ||| st.inLinks.setWidth 65

/-- The highest end of any stage's range (R330). -/
def ProgDesc.span (d : ProgDesc) : Nat := d.stages.foldl (fun m st => Nat.max m (st.elemBase + st.elemCount)) 0

/-- σ of the program (Table 10-6). -/
def ProgDesc.sigmaBits (d : ProgDesc) : Nat := if d.op = opMean then meanSigma d.count.toNat else d.sigma.toNat

/-- The buffer units a program reserves (R335). -/
def ProgDesc.units (d : ProgDesc) : Nat :=
  d.depth * (d.stages.map fun st =>
    if st.kind = kindCombine ∧ st.emit ≠ emitRaw then st.tileCount * (if slotBits d.inFmt = 64 then 1 else 5) else 0).sum

/-- The form in which a stage emits (Table 11-8). -/
def Stage.outForm (st : Stage) : BitVec 3 := if st.kind = kindForward then formOutput else st.emit.setWidth 3

/-- Bytes of a tile's unit in a form other than XPF. -/
def unitBytes (d : ProgDesc) (form : BitVec 3) (n : Nat) : Nat := tileBytes (if form = formRaw then d.inFmt else d.outFmt) n

/-- What a whole unit is worth: none where its size is wrong (PROG_MALFORMED), else whether R317 admits it. -/
def unitCheck (d : ProgDesc) (form : BitVec 3) (n : Nat) (u : Bytes) : Option (BitVec 8) :=
  if form = formXpf then
    if u.length < 4 then some progMalformed
    else if leAt u 0 4 / 2 ^ 17 ≠ 0 ∨ 320 < xpfWidth u then some arithXpfFormat
    else if u.length ≠ xpfLen u then some progMalformed
    else if xpfOk d.op (fmtQ d.inFmt) n u then none else some arithXpfFormat
  else if u.length = unitBytes d form n then none else some progMalformed

/-- Combine a whole unit into the slots of a tile (R302, R305, R306, R318). -/
def combineUnit (d : ProgDesc) (form : BitVec 3) (n : Nat) (accs : List Acc) (u : Bytes) : List Acc :=
  let accs := if accs.isEmpty then List.replicate n {} else accs
  if form = formXpf then
    let sh := if 5 ≤ d.op.toNat then 0 else (xpfBase u - fmtQ d.inFmt).toNat
    List.zipWith (fun a x => xpfCombine d.op d.inFmt sh a x) accs (xpfElems u)
  else
    let code := if form = formRaw then d.inFmt else d.outFmt
    let sh := if form = formRaw then 0 else (fmtQ d.outFmt - fmtQ d.inFmt).toNat
    List.zipWith (fun a x => slotCombine d.op d.inFmt a (rescale x sh)) accs (decodeTile code n u)

/-- Contribution prefix (Table 11-7). -/
def contribPrefix (iter : BitVec 32) (stage : BitVec 8) (form : BitVec 3) (part : Nat) (last : Bool) (tile : Nat) : Bytes :=
  leBytes 8 (((iter.setWidth 8) ++ (stage.setWidth 5) ++ form ++ (BitVec.ofNat 3 part) ++ b2w last 1 ++ (0 : BitVec 4) ++
    (BitVec.ofNat 40 tile) : BitVec 64).toNat)

/-- The parts of a unit, 248 bytes each (R334). -/
def unitParts (iter : BitVec 32) (stage : BitVec 8) (form : BitVec 3) (tile : Nat) (u : Bytes) : List Bytes :=
  let cs := chunks 248 u
  cs.zipIdx.map fun c => contribPrefix iter stage form c.2 (c.2 + 1 == cs.length) tile ++ c.1

/-- The fields of a contribution prefix (Table 11-7). -/
structure Contrib where
  iterLo : Nat
  stage : Nat
  form : BitVec 3
  part : Nat
  last : Bool
  reserved : Bool
  tile : Nat
  bytes : Bytes
  deriving DecidableEq, Repr

def contribOf (p : Bytes) : Contrib :=
  let w : BitVec 64 := leBv 64 (slice p 0 8)
  { iterLo := (w.extractLsb' 56 8).toNat, stage := (w.extractLsb' 51 5).toNat, form := w.extractLsb' 48 3
    part := (w.extractLsb' 45 3).toNat, last := w.getLsbD 44, reserved := w.extractLsb' 40 4 != 0
    tile := (w.extractLsb' 0 40).toNat, bytes := p.drop 8 }

/-- A slot has overflowed (R302). -/
def Acc.ovf (a : Acc) : Bool := a.ovfPos || a.ovfNeg

/-- Some slot overflows that did not before (R304). -/
def ovfNew (old new : List Acc) : Bool := new.zipIdx.any fun x => x.1.ovf && !((old[x.2]?).any Acc.ovf)

namespace State

/-! ### Commands' results -/

/-- Decide the status a command will complete with, once (R445). Its reservation of blocks ends (R482) and the engine's key
register is zeroed (R211). -/
def cmdResult (s : State) (c : CtxId) (q : BitVec 3) (k : Word) (st : Status) (detail : BitVec 32) : State :=
  let cs := s.fe.cmds.map fun x =>
    if x.ctx = c ∧ x.queue = q ∧ x.k = k ∧ x.result = none then
      { x with result := some (st, detail), blocks := 0, csKey := none } else x
  { s with fe.cmds := cs }

/-! ### Iterations -/

def iterOf (s : State) (p : ProgId) (n : Nat) : Option Iter := (s.prog p).iters.find? fun i => i.num.toNat == n

def modIter (s : State) (p : ProgId) (n : Nat) (f : Iter → Iter) : State :=
  s.modProg p fun g => { g with iters := g.iters.map fun i => if i.num.toNat = n then f i else i }

/-- The low iteration after `n` has ended, and the ended ones still above it. -/
def advanceLow : Nat → Nat → List Nat → Nat × List Nat
  | 0, low, e => (low, e)
  | f + 1, low, e => if e.contains low then advanceLow f (low + 1) (e.filter (· != low)) else (low, e)

/-- Iteration n has completed or faulted: it leaves the slot's window. -/
def iterGone (g : Prog) (n : Nat) : Prog :=
  let e := if g.endedAhead.contains n ∨ n < g.low then g.endedAhead else g.endedAhead ++ [n]
  let r := advanceLow (e.length + 1) g.low e
  let iters := g.iters.filter fun i => i.num.toNat != n
  { g with
    low := r.1
    endedAhead := r.2
    iters := iters
    doneLo := BitVec.ofNat 8 n
    phase := if g.phase = .running ∧ iters.isEmpty then .loaded else g.phase }

/-- The trace record of an iteration (Tables 21-3, 21-4): layer and operator are those of its PROG_GO. -/
def iterTrace (s : State) (p : ProgId) (event : Byte) (cause : BitVec 8) (n : Nat) (go : Option GoInfo) : State :=
  let g := s.prog p
  let x := go.bind fun i => s.fe.cmds.find? fun x => x.ctx == i.ctx && x.queue == 2 && x.k == i.k
  s.trace 0x06 (some g.ctx) (some g.slot) ((x.map (·.layer)).getD 0) ((x.map (·.operator)).getD 0)
    ([BitVec.ofNat 8 p.toNat, event, cause, 0] ++ leBytes 4 n ++ leBytes 2 g.skewNs.toNat ++ [0, 0])

/-- ABANDON for an iteration on every AGREED out link of every stage (R348). -/
def abandon (s : State) (p : ProgId) (n : Nat) : State :=
  let g := s.prog p
  match g.desc with
  | none => s
  | some d =>
    let put (s : State) (x : Stage × LinkId) : State :=
      if s.agreedIn x.2 g.slot then
        s.txPut x.2 { cls := 2, kind := kindSealed, dest := destReduce, ctxField := p.setWidth 10, vdTag := g.vd,
                      payload := contribPrefix (BitVec.ofNat 32 n) x.1.outStage formAbandon 0 true 0,
                      ctx := none, prog := none, refs := [] }
      else s
    (d.stages.flatMap fun st => (bitsOf st.outLinks).map fun l => (st, (BitVec.ofNat 6 l : LinkId))).foldl put s

/-- The emitted tiles of an ended iteration stand in their queues (R345); nothing waits for them any more. -/
def txForget (s : State) (p : ProgId) (n : BitVec 32) : State :=
  allLinks.foldl (fun (s : State) l =>
    if (s.link l).io.txq.any fun x => x.prog == some (p, n) then s.modLink l fun k => { k with
      io.txq := k.io.txq.map fun x => if x.prog = some (p, n) then { x with prog := none } else x }
    else s) s

/-- The end of the PROG_GO of a faulted iteration: a status, or no record where a reset discards it (Table 11-12). -/
def goEnd (s : State) (go : GoInfo) (cause : BitVec 8) (st : Status) : State :=
  if cause = progReset then
    let cs := s.fe.cmds.filter fun x => !(x.ctx == go.ctx && x.queue == 2 && x.k == go.k && x.result.isNone)
    { s with fe.cmds := cs }
  else s.cmdResult go.ctx 2 go.k st 0

/-- An iteration faults (R344, R345). -/
def faultIter (s : State) (p : ProgId) (n : Nat) (cause : BitVec 8) (st : Status) (tell : Bool) : State :=
  let g := s.prog p
  if g.phase = .free ∨ g.phase = .ended ∨ n < g.low ∨ g.endedAhead.contains n then s
  else
    let it := s.iterOf p n
    let s := s.txForget p (BitVec.ofNat 32 n)
    let g1 := iterGone { g with lastFault := cause, fault := true } n
    let g1 := if (it.bind (·.go)).isNone ∧ g.nextGo ≤ n then { g1 with faultedAhead := g1.faultedAhead ++ [(n, st)] } else g1
    let s := (s.setProg p g1).redEvent 0
    let s := s.iterTrace p 2 cause n (it.bind (·.go))
    let s := match it.bind (·.go) with
      | some x => s.goEnd x cause st
      | none => s
    if tell then s.abandon p n else s

/-- Fault every open iteration of a slot. -/
def faultOpen (s : State) (p : ProgId) (cause : BitVec 8) (st : Status) (tell : Bool) : State :=
  (s.prog p).iters.foldl (fun t i => t.faultIter p i.num.toNat cause st tell) s

/-- Free a slot: its units return, its key is erased (R323, R335). The status fields of Table 11-18 keep what they hold. -/
def freeProg (s : State) (p : ProgId) : State :=
  let g := s.prog p
  if g.phase = .free then s
  else
    let s := { s with red.unitsFree := s.red.unitsFree + BitVec.ofNat 17 g.units }
    let s := s.eraseRow (rowProg p)
    s.setProg p { lastFault := g.lastFault, doneLo := g.doneLo, lateCount := g.lateCount, held := g.held,
                  arithInvalid := g.arithInvalid, arithOvf := g.arithOvf, fault := g.fault, skewNs := g.skewNs,
                  skewStage := g.skewStage, slow := g.slow, skewWord := g.skewWord, lastBudget := g.lastBudget }

/-- The program key can no longer be used: open iterations fault and the slot is ENDED (Table 11-12, PROG_KEY). -/
def endProg (s : State) (p : ProgId) (st : Status) : State :=
  let s := s.faultOpen p progKey st true
  let g := s.prog p
  if g.phase = .free then s else s.setProg p { g with phase := .ended, lastFault := progKey, fault := true }

/-- Slots in use. -/
def progsInUse (s : State) : List ProgId :=
  (s.red.progs.filter fun e => e.2.phase != .free).map fun e => BitVec.ofNat 8 e.1

/-! ### Skew (R341 to R343, R557) -/

/-- Offer a stage's skew word on the power-manager port, and shift budget (R343, R557). -/
def skewOffer (s : State) (p : ProgId) (ns : BitVec 16) (who : Member) : State :=
  let g := s.prog p
  let s := s.skewPut p (ns ++ (0 : BitVec 4) ++ g.slot ++ who ++ (0 : BitVec 13) ++ p : BitVec 64)
  let own := (s.dom g.slot).member
  if s.pwr.budStep = 0 ∨ who = own then s
  else
    let free := match g.lastBudget with
      | none => true
      | some t => decide (100000 ≤ (s.now - t).toNat)
    if !free then { s with pwr.budSkipped := true }
    else
      let d : BitVec 16 := s.pwr.budStep.setWidth 16
      let s := s.modProg p fun g => { g with lastBudget := some s.now }
      let s := s.tc0Send g.slot 0x70 who 0 0 ([0x70, BitVec.ofNat 8 p.toNat] ++ leBytes 2 d.toNat ++ zeros 4)
      s.budPut ((0 : BitVec 25) ++ g.slot ++ own ++ (0 - d) : BitVec 64)

/-- The report of a COMBINE stage that has emitted its last tile (R343). -/
def skewReport (s : State) (p : ProgId) (d : ProgDesc) (run : StageRun) : State :=
  match run.skew with
  | none => s
  | some (ns, who) => if d.skewReport && decide (d.skewThr.toNat ≤ ns.toNat) then s.skewOffer p ns who else s

/-- The contributors' arrivals when a stage completes. A result that this stage took before its own stage was complete
arrives with the stage's completion (DESIGN CHOICE, log entry 141). -/
def runArrivals (st : Stage) (run : StageRun) (now : Time) : List (Nat × Time) :=
  if st.localIn && !(run.arrivals.any fun a => a.1 == srcLocal) then run.arrivals ++ [(srcLocal, now)] else run.arrivals

/-- The skew of some arrivals and the contributor that came last: of equals the lower link, the local one after them
(R341). -/
def skewOf : List (Nat × Time) → Option (BitVec 16 × Nat)
  | [] => none
  | a :: as =>
    let lo := as.foldl (fun m x => if x.2 < m then x.2 else m) a.2
    let hi := as.foldl (fun m x => if m < x.2 then x.2 else m) a.2
    let last := ((a :: as).filter fun x => x.2 == hi).foldl (fun m x => Nat.min m x.1) srcLocal
    some (BitVec.ofNat 16 (Nat.min (hi - lo).toNat 65535), last)

/-- A stage completes its last tile: it notes the time and, with two contributors or more, its skew, which the slot's skew
registers then show (R341, R342). -/
def stageDone (s : State) (p : ProgId) (n i : Nat) (st : Stage) : State :=
  match s.iterOf p n with
  | none => s
  | some it =>
    let run := Tab.get ({} : StageRun) it.stages i
    if run.doneAt.isSome || !((List.range st.tileCount).all fun t => (Tab.get {} run.tiles t).added == st.sources) then s
    else
      let g := s.prog p
      let now := s.now
      let skew :=
        if st.kind = kindCombine ∧ 2 ≤ popcount st.sources then
          (skewOf (runArrivals st run now)).map fun x =>
            (x.1, if x.2 = srcLocal then (s.dom g.slot).member else (s.link (BitVec.ofNat 6 x.2)).core.pMember)
        else none
      let s := s.modIter p n fun it => { it with
        stages := Tab.set {} it.stages i { Tab.get {} it.stages i with doneAt := some now, skew := skew } }
      match skew with
      | none => s
      | some (ns, who) => s.modProg p fun g => { g with skewNs := ns, skewStage := BitVec.ofNat 5 i, slow := who }

/-! ### Emission (R334, R339) -/

/-- Write bytes to a FABRIC buffer for an iteration: one WRITE a line (R426). Answers whether every line was accepted. -/
def progFabricAux (s : State) (c : CtxId) (p : ProgId) (iter : BitVec 32) (links : List LinkId) :
    Nat → BitVec 64 → Bytes → State × Bool
  | 0, _, _ => (s, true)
  | _ + 1, _, [] => (s, true)
  | f + 1, a, bs =>
    let o := a.toNat % 64
    let part := bs.take (64 - o)
    let w : FabWait := {
      line := (a >>> 6).setWidth 36, write := true, mask := BitVec.ofNat 64 ((2 ^ part.length - 1) * 2 ^ o)
      data := bytesLine (zeros o ++ part), ctx := c, vd := (s.prog p).vd, owner := .prog p iter }
    match s.fabIssue links w with
    | (t, some _) => (t, false)
    | (t, none) => progFabricAux t c p iter links f (a + BitVec.ofNat 64 part.length) (bs.drop part.length)

/-- The stream words of a tile (R314). -/
def tileStream (s : State) (p : ProgId) (e n : Nat) (iter rstage : BitVec 32) : List Nat :=
  (List.range n).map fun i => streamWord (s.keyBytes (rowProg p) 32) (e + i) iter rstage

/-- The unit of a complete tile as a stage emits it (R326, R329), whether an element was invalid, and whether one
overflows in being encoded (R304, R316). -/
def emitUnit (s : State) (p : ProgId) (d : ProgDesc) (e nv : Nat) (iter : BitVec 32) (st : Stage) (rounds : Bool)
    (tile : Tile) : Bytes × Bool × Bool :=
  let held := if tile.accs.isEmpty then List.replicate nv {} else tile.accs
  let accs := if st.kind = kindCombine ∧ st.emit = emitXpf then held.map (xpfWiden d.op) else held
  let r : Bytes × Bool :=
    if st.kind = kindForward ∨ st.emit = emitRaw then (tile.unit, false)
    else if st.emit = emitXpf then (xpfEncode d.op (fmtQ d.inFmt) accs, false)
    else emitTile d.outFmt d.rmode (accs.map (slotResult d.op (fmtQ d.inFmt) d.sigmaBits))
      (if rounds then s.tileStream p e nv iter st.rstage else [])
  (r.1, r.2, ovfNew held accs)

/-- The status bits an emitted unit sets (Table 11-18). -/
def emitFlags (s : State) (p : ProgId) (invalid ovf : Bool) : State :=
  if invalid || ovf then
    (s.modProg p fun g => { g with arithInvalid := g.arithInvalid || invalid, arithOvf := g.arithOvf || ovf }).redEvent 1
  else s

/-- Send a unit on the out links of its stage (R333, R334). -/
def emitSend (s : State) (p : ProgId) (iter : BitVec 32) (t : Nat) (st : Stage) (u : Bytes) : State :=
  (bitsOf st.outLinks).foldl (fun (s : State) l =>
    (unitParts iter st.outStage st.outForm (st.first t) u).foldl (fun (s : State) b =>
      s.txPut (BitVec.ofNat 6 l) {
        cls := 2, kind := kindSealed, dest := destReduce, ctxField := p.setWidth 10,
        vdTag := (s.prog p).vd, payload := b, ctx := none, prog := some (p, iter), refs := [] }) s) s

/-- Write a unit to the destination buffer (R326, R333); a refused write faults the iteration. -/
def emitStore (s : State) (p : ProgId) (d : ProgDesc) (n t : Nat) (st : Stage) (go : GoInfo) (refs : List GroupRef)
    (u : Bytes) : State :=
  match st.localOut, go.dst with
  | true, some b =>
    let iter : BitVec 32 := BitVec.ofNat 32 n
    let a := b.target + BitVec.ofNat 64 (packedBytes d.outFmt (st.first t))
    let x := if b.fabric then s.progFabricAux go.ctx p iter b.links (u.length + 1) a u
      else s.memStore (.program go.ctx p iter) b.key refs none (u.length + 1) (a.setWidth 43) u
    if x.2 then x.1 else x.1.faultIter p n progMem stProgFault true
  | _, _ => s

/-- Emit a complete tile: to memory, to the out links (R326, R329, R333). -/
def emitOne (s : State) (p : ProgId) (d : ProgDesc) (n : Nat) (i t : Nat) (st : Stage) (go : GoInfo) (tile : Tile) :
    State :=
  let nv := st.valid t
  let iter : BitVec 32 := BitVec.ofNat 32 n
  let rounds := st.kind == kindCombine && st.emit == emitOutput && d.rmode == 2 && decide (d.op.toNat ≤ 4)
  if rounds && !s.keyUsable (rowProg p) then s.endProg p stKeyOrphan
  else if rounds && decide (2 ^ 40 < (s.row (rowProg p)).use.toNat + (nv + 3) / 4) then s.endProg p stKeyLimit
  else
    let s := if rounds then s.useKey (rowProg p) ((nv + 3) / 4) else s
    let r := s.emitUnit p d (go.elemOffset + st.first t) nv iter st rounds tile
    let s := (s.emitFlags p r.2.1 r.2.2).modIter p n fun it =>
      let run := Tab.get {} it.stages i
      let run := { run with
        tiles := Tab.set {} run.tiles t { tile with unit := r.1, emitted := true }
        nextOut := t + 1 }
      { it with stages := Tab.set {} it.stages i run }
    let refs := s.ctxRefs go.ctx
    ((s.emitSend p iter t st r.1).progress engRed).emitStore p d n t st go refs r.1

/-- Send the complete tiles of a stage in rising order; with the last one its skew is reported. -/
def emitLoop (s : State) (p : ProgId) (d : ProgDesc) (n i : Nat) (st : Stage) : Nat → State
  | 0 => s
  | f + 1 =>
    match s.iterOf p n with
    | none => s
    | some it =>
      match it.go with
      | none => s
      | some go =>
        let run := Tab.get {} it.stages i
        let t := run.nextOut
        let tile := Tab.get {} run.tiles t
        if t < st.tileCount ∧ tile.added = st.sources ∧ !tile.emitted then
          let s := s.emitOne p d n i t st go tile
          let s := if t + 1 = st.tileCount ∧ (s.iterOf p n).isSome then s.skewReport p d run else s
          s.emitLoop p d n i st f
        else s

/-- Add a whole unit from a source to a tile (R326, R339). -/
def addUnit (s : State) (p : ProgId) (d : ProgDesc) (n i t : Nat) (st : Stage) (src : Nat) (form : BitVec 3) (u : Bytes) :
    State :=
  match s.iterOf p n with
  | none => s
  | some it =>
    let nv := st.valid t
    let copy := st.kind == kindForward || st.emit == emitRaw
    let tile := Tab.get ({} : Tile) (Tab.get ({} : StageRun) it.stages i).tiles t
    let accs := if copy then tile.accs else combineUnit d form nv tile.accs u
    let s := s.modIter p n fun it =>
      let run := Tab.get {} it.stages i
      { it with stages := Tab.set {} it.stages i { run with tiles := Tab.set {} run.tiles t { tile with
        parts := tile.parts.filter fun x => x.src != src
        added := setBitTo tile.added src true
        unit := if copy then u else tile.unit
        accs := accs } } }
    let s := s.progress engRed
    let s :=
      if copy then s
      else
        let g := s.prog p
        let s := (s.count 7 nv).meter g.slot 25 nv
        let s := s.activity (some g.ctx) (nv * (if slotBits d.inFmt = 64 then 2 else 6))
        s.emitFlags p false (ovfNew tile.accs accs)
    s.stageDone p n i st

/-- The result of stage `in_stage` arrives as a local contribution when that stage completes (R341). -/
def chainArrive (s : State) (p : ProgId) (n i : Nat) (st : Stage) : State :=
  match (s.iterOf p n).bind fun it => (Tab.get ({} : StageRun) it.stages st.inStage.toNat).doneAt with
  | none => s
  | some t =>
    if !st.localIn || st.inStage == 0xFF then s
    else s.modIter p n fun it =>
      let run := Tab.get ({} : StageRun) it.stages i
      if run.doneAt.isSome || run.arrivals.any fun a => a.1 == srcLocal then it
      else { it with stages := Tab.set {} it.stages i { run with arrivals := run.arrivals ++ [(srcLocal, t)] } }

/-- Take the results of an earlier stage as the local contributions of this one (R327). -/
def chainLocal (s : State) (p : ProgId) (d : ProgDesc) (n i : Nat) (st : Stage) : State :=
  let s := s.chainArrive p n i st
  match s.iterOf p n, d.stages[st.inStage.toNat]? with
  | some it, some src =>
    if it.go.isNone || !st.localIn || st.inStage == 0xFF then s
    else
      let srun := Tab.get {} it.stages st.inStage.toNat
      (List.range st.tileCount).foldl (fun (s : State) t =>
        let k := (st.first t - src.elemBase) / 32
        let x := Tab.get {} srun.tiles k
        let mine := match s.iterOf p n with
          | none => true
          | some it => (Tab.get {} (Tab.get {} it.stages i).tiles t).added.getLsbD srcLocal
        if x.emitted && !mine then
          s.addUnit p d n i t st srcLocal src.outForm
            (if src.outForm = formXpf then x.unit else x.unit.take (unitBytes d src.outForm (st.valid t)))
        else s) s
  | _, _ => s

/-- The stages in order: chained local contributions, then emission. -/
def progPass (s : State) (p : ProgId) (n : Nat) : State :=
  match (s.prog p).desc with
  | none => s
  | some d => d.stages.zipIdx.foldl (fun (s : State) x =>
      (s.chainLocal p d n x.2 x.1).emitLoop p d n x.2 x.1 (x.1.tileCount + 1)) s

/-- Work of an iteration that has not left the block: tiles not yet sealed, writes not yet made. -/
def iterPending (s : State) (p : ProgId) (n : Nat) : Bool :=
  let iter : BitVec 32 := BitVec.ofNat 32 n
  let mine : Master → Bool := fun m => match m with
    | .program _ q k => q == p && k == iter
    | _ => false
  (s.links.any fun e => e.2.io.txq.any fun x => x.prog == some (p, iter)) || (s.mem.out.any fun q => mine q.master) ||
    (s.mem.waits.any fun w => mine w.master) || (s.mem.fence.any fun e => mine e.master) ||
    (s.mem.ends.any fun e => mine e.master) ||
    s.links.any fun e => (e.2.fabOut.any fun o => o.owner == .prog p iter) || e.2.fabWait.any fun o => o.owner == .prog p iter

/-- Complete an iteration whose stages have all made their writes and sealed their groups (R333). -/
def iterSettle (s : State) (p : ProgId) (n : Nat) : State :=
  match s.iterOf p n, (s.prog p).desc with
  | some it, some d =>
    match it.go with
    | none => s
    | some go =>
      let all := d.stages.zipIdx.all fun x => (Tab.get {} it.stages x.2).nextOut == x.1.tileCount
      if all && !s.iterPending p n then
        let s := s.cmdResult go.ctx 2 go.k stOk 0
        (s.setProg p (iterGone (s.prog p) n)).iterTrace p 1 0 n (some go)
      else s
  | _, _ => s

/-- Complete whatever open iterations of any slot have nothing left to do. -/
def settleIters (s : State) : State :=
  s.progsInUse.foldl (fun s p => (s.prog p).iters.foldl (fun s i => s.iterSettle p i.num.toNat) s) s

/-- Open an iteration's buffer if it is not open (R337): the slot is RUNNING while one is. -/
def openIter (s : State) (p : ProgId) (n : Nat) (go : Option GoInfo) : State :=
  if (s.iterOf p n).isSome then s
  else
    let g := s.prog p
    (s.setProg p { g with iters := g.iters ++ [{ num := BitVec.ofNat 32 n, go := none, stages := [] }],
                          phase := .running }).iterTrace p 0 0 n go

/-! ### Links and programs (Table 11-12) -/

/-- A stage still needs a link in an iteration. -/
def stageUses (s : State) (p : ProgId) (it : Iter) (x : Stage × Nat) (l : LinkId) : Bool :=
  let run := Tab.get {} it.stages x.2
  (x.1.inLinks.getLsbD l.toNat &&
    !((List.range x.1.tileCount).all fun t => (Tab.get {} run.tiles t).added.getLsbD l.toNat)) ||
  (x.1.outLinks.getLsbD l.toNat &&
    (run.nextOut != x.1.tileCount || (s.link l).io.txq.any fun q => q.prog == some (p, it.num)))

/-- A link leaves AGREED: the iterations that still use it fault with PROG_LINK. -/
def progLinkLost (s : State) (l : LinkId) : State :=
  s.progsInUse.foldl (fun s p =>
    match (s.prog p).desc with
    | none => s
    | some d => (s.prog p).iters.foldl (fun s it =>
        if d.stages.zipIdx.any fun x => s.stageUses p it x l then s.faultIter p it.num.toNat progLink stProgFault true
        else s) s) s

/-- A REDUCE group naming a slot receives Repudiate on a link the program listens to: iteration low faults (R344). -/
def progRepudiated (s : State) (p : ProgId) (l : LinkId) : State :=
  match (s.prog p).desc with
  | none => s
  | some d =>
    if d.stages.any fun st => st.inLinks.getLsbD l.toNat then s.faultIter p (s.prog p).low progRepudiate stProgFault true
    else s

/-! ### Ends of fabric requests (R428, R429, Table 14-3) -/

/-- Writes of a command not performed yet: fabric requests without an answer, memory writes without the controller's. -/
def cmdOpen (s : State) (x : Cmd) : Bool :=
  let mine : FabOwner → Bool := fun o => match o with
    | .cmd a b _ => a == x.queue && b == x.k
    | _ => false
  (s.links.any fun e => (e.2.fabOut.any fun o => o.ctx == x.ctx && mine o.owner) ||
    e.2.fabWait.any fun o => o.ctx == x.ctx && mine o.owner) || s.memOpen (.cmd x.ctx x.queue x.k)

/-- The commands that have made every access and whose writes are all performed complete (R45, R239, R428). -/
def cmdsSettle (s : State) : State :=
  s.fe.cmds.foldl (fun (s : State) x =>
    if x.issued && x.result.isNone && !s.cmdOpen x then s.cmdResult x.ctx x.queue x.k stOk x.detail else s) s

/-- The end of a request at its requester. -/
def fabEnd (s : State) (o : FabOut) (st : Status) (data : Option Line) : State :=
  if o.gone then s
  else match o.owner with
  | .access => s.out (.fabDone o.ctx o.line st data)
  | .cmd q k key =>
    if st ≠ stOk then s.cmdResult o.ctx q k st 0
    else
      let cs := s.fe.cmds.map fun x =>
        if x.ctx = o.ctx ∧ x.queue = q ∧ x.k = k ∧ !o.write then { x with fabGot := Tab.set none x.fabGot key data } else x
      { s with fe.cmds := cs }
  | .prog p iter => if st ≠ stOk then s.faultIter p iter.toNat progMem stProgFault true else s

/-- The iteration that a contribution names, as its distance from the lowest unfinished one (R337). -/
def contribDist (g : Prog) (payload : Bytes) : Nat := ((contribOf payload).iterLo + 256 - g.low % 256) % 256

/-- A Confirmed REDUCE group waits in the link cluster for an iteration beyond the program's window (R337). -/
def redWaits (s : State) (h : RxHeld) : Bool :=
  hdrDest h.header == destReduce && hdrKind h.header == kindSealed && h.cls == 2 &&
    (let g := s.prog ((hdrCtx h.header).setWidth 8)
     match g.desc with
     | none => false
     | some d =>
       let dist := contribDist g h.payload
       g.phase != .ended && decide (d.depth ≤ dist) && decide (dist < 128) && decide (g.low + dist < 2 ^ 32))

/-- A TC2 group at a place in the order of arrival stands behind a group that waits under R337 (R338). -/
def tc2Behind (s : State) (l : LinkId) (c : Cls) (ord : Nat) : Bool :=
  c == 2 && (s.link l).io.held.any fun h => decide (h.ord < ord) && s.redWaits h

/-- A contribution arrived late (R337). -/
def progLate (s : State) (p : ProgId) : State := (s.modProg p fun g => { g with lateCount := satInc g.lateCount }).redEvent 3

end State

end Sys2Proof.Machine
end

