-- ==== Sys2Proof/Machine/CtxOps.lean ====
section
/-! DEFINITION. Contexts: the Comma (R532, R533), what a reset records (R540, R549), and rolling staging directions
(R484). -/

namespace Sys2Proof.Machine

def opStgIn : BitVec 16 := 0x0410
def opStgOut : BitVec 16 := 0x0411

/-- The engine class of a command (R467): 0 trust-core services, 1 fill and copy, 2 crypto service, 3 staging,
4 reduction. STG_REKEY is a key command, which the trust core serves (Table 18-1; DEDUCED, log entry 144). -/
def classOf (opcode : BitVec 16) : Nat :=
  if opcode = 0x0301 ∨ opcode = 0x0302 ∨ opcode = 0x0303 then 2
  else if opcode = 0x0201 ∨ opcode = 0x0202 ∨ opcode = 0x0203 then 4
  else if opcode = 0x0401 ∨ opcode = 0x0402 then 1
  else if opcode = 0x0410 ∨ opcode = 0x0411 then 3
  else 0

namespace State

/-! ### Busy time (R467) -/

/-- Account a context's busy time to now: while a class has RUNNING commands they share the time it was last accounted. -/
def busyNote (s : State) (c : CtxId) : State :=
  (List.range 5).foldl (fun (s : State) k =>
    match s.fe.cmds.find? fun x => x.ctx == c && x.phase == .running && classOf x.opcode == k with
    | none => s
    | some x =>
      let n := s.now
      let cs := s.fe.cmds.map fun y =>
        if y.ctx = c ∧ y.phase = .running ∧ classOf y.opcode = k then { y with started := n } else y
      let s := { s with fe.cmds := cs }
      s.modCtx c fun z => { z with busy := Tab.set 0 z.busy k (Tab.get 0 z.busy k + (n - x.started)) }) s

/-! ### Rolling staging directions (R484) -/

def sessOf (s : State) (f : Fn) : Sess := (s.func f).sess
def modSess (s : State) (f : Fn) (g : Sess → Sess) : State := s.modFunc f fun k => { k with sess := g k.sess }

/-- The staging key and salt of a generation (Table 6-1). -/
def stageKey (s : State) (f : Fn) (dir : Nat) (gen : BitVec 32) : BitVec 288 :=
  leBv 288 (kdf (s.keyBytes (rowSss f) 32) "KX3-STAGE" (leBytes 1 dir ++ leBytes 4 gen.toNat) 288)

/-- A staging key dies with the member secret of the function's slot (Table 6-2). -/
def installStageKey (s : State) (f : Fn) (dir : Nat) (gen : BitVec 32) : State :=
  s.writeKey (rowStage f dir) (s.stageKey f dir gen) (.row (BitVec.ofNat 12 (rowMember (s.sessOf f).slot))) 2 (s.sessOf f).slot
    gen

/-- A staging command of a direction of the function is still bound to its generation. -/
def dirBusy (s : State) (f : Fn) (dir : Nat) : Bool :=
  s.fe.cmds.any fun x => x.opcode == (if dir = 0 then opStgIn else opStgOut) && (s.ctx x.ctx).fn == f

/-- Derive the next generation of a rolling direction whose last command has completed; without the session secret the
STG_REKEY ends with ST_KEY_ORPHAN (R168). -/
def rollDir (s : State) (f : Fn) (dir : Nat) : State :=
  let z := s.sessOf f
  match (if dir = 0 then z.rekeyIn else z.rekeyOut) with
  | none => s
  | some r =>
    if s.dirBusy f dir then s
    else if s.keyUsable (rowSss f) then
      let s := s.installStageKey f dir r.gen
      let s := s.modSess f fun z =>
        if dir = 0 then { z with rekeyIn := none, seqIn := 0, thrIn := false }
        else { z with rekeyOut := none, seqOut := 0, thrOut := false }
      s.cmdResult r.ctx 1 r.k stOk r.gen
    else
      (s.modSess f fun z => if dir = 0 then { z with rekeyIn := none } else { z with rekeyOut := none }).cmdResult
        r.ctx 1 r.k stKeyOrphan 0

/-- Both directions of a function. -/
def stgRoll (s : State) (f : Fn) : State := (s.rollDir f 0).rollDir f 1

/-! ### Staging commands that end (R35, R491) -/

def objKey (c : CtxId) (n : Nat) : Nat := c.toNat * 4096 + n
def obj (s : State) (c : CtxId) (n : Nat) : Obj := Tab.get {} s.fe.objs (objKey c n)
def setObj (s : State) (c : CtxId) (n : Nat) (o : Obj) : State := { s with fe.objs := Tab.set {} s.fe.objs (objKey c n) o }

/-- The object of a staging command is tainted (R489). -/
def stgTaint (s : State) (t : Trans) : State :=
  let o := s.obj t.ctx t.num.toNat
  if o.live ∧ o.reuse = t.reuse then s.setObj t.ctx t.num.toNat { o with taint := true } else s

/-- A write of an STG_IN failed at the controller: bytes of the chunk that it stops in have been written, but where the chunk
is that one line (R491). -/
def stgLate (s : State) (c : CtxId) (q : BitVec 3) (k : Word) (line : Dpa) : State :=
  match s.fe.cmds.find? fun x => x.ctx == c && x.queue == q && x.k == k with
  | none => s
  | some x => match x.trans with
    | [] => s
    | t :: _ => if x.opcode = opStgIn ∧ x.result = none ∧ x.sole ≠ some line then s.stgTaint t else s

/-- Host reads that nobody waits for any more stay outstanding; their completions are accepted and discarded (R35). -/
def dmaGoneIf (s : State) (sel : DmaRead → Bool) : State :=
  let rs := Tab.mapAll none (fun _ e => e.map fun r => if sel r then { r with gone := true } else r) s.fe.dmaReads
  { s with fe.dmaReads := rs }

def dmaMine (x : Cmd) (r : DmaRead) : Bool := r.ctx == x.ctx && r.queue == x.queue && r.k == x.k

/-! ### Records of a reset -/

/-- KX_FLT_LAST, KX_FLT_COUNT and KX_FLT_EVENT of a completed Comma, Semicolon or Colon (R549). -/
def resetRecord (s : State) (lvl : BitVec 3) (escalated : Bool) (cause : Cause) (target : BitVec 10) : State :=
  let f := s.flt
  let s := { s with flt := { f with
    last := { level := lvl, escalated := escalated, cause := cause, target := target }
    countComma := if lvl = lvlComma then satInc f.countComma else f.countComma
    countSemicolon := if lvl = lvlSemicolon then satInc f.countSemicolon else f.countSemicolon
    countColon := if lvl = lvlColon then satInc f.countColon else f.countColon
    countFullStop := if lvl = lvlFullStop then satInc f.countFullStop else f.countFullStop } }
  if lvl = lvlComma then s.fltEvent fevComma
  else if lvl = lvlSemicolon then s.fltEvent fevSemicolon
  else if lvl = lvlColon then s.fltEvent fevColon
  else s

/-- A RESET trace record (Table 21-4). -/
def resetTrace (s : State) (lvl : BitVec 3) (cause : Cause) (target : BitVec 10) (escalated : Bool) (c : Option CtxId) :
    State :=
  s.trace 0x03 c (c.bind s.ctxSlot) 0 0
    ([lvl.setWidth 8, cause] ++ leBytes 2 target.toNat ++ [b2w escalated 8] ++ zeros 7)

/-- One RESET record for each context the reset reaches (R589); one without a context where it reaches none. -/
def resetTraces (s : State) (lvl : BitVec 3) (cause : Cause) (target : BitVec 10) (escalated : Bool) (cs : List CtxId) :
    State :=
  if cs.isEmpty then s.resetTrace lvl cause target escalated none
  else cs.foldl (fun (s : State) c => s.resetTrace lvl cause target escalated (some c)) s

/-! ### Comma (R532) -/

/-- The submission rings with every head at its tail (R458). -/
def emptyRings (sq : Tab Ring) : Tab Ring := Tab.mapAll {} (fun _ r => { r with head := r.tail }) sq

/-- The programs a context loaded (R347). -/
def progsOf (s : State) (c : CtxId) : List ProgId := s.progsInUse.filter fun p => (s.prog p).ctx == c

/-- Fault the open iterations of a program with PROG_RESET and free its slot (R347). -/
def resetProg (s : State) (p : ProgId) (tell : Bool) : State := (s.faultOpen p progReset stProgFault tell).freeProg p

/-- Discard a context's work: programs, commands, held requests, fence entries, memory and fabric requests (R241, R273,
R347, R532). -/
def discardWork (s : State) (c : CtxId) : State :=
  let s := (s.progsOf c).foldl (fun s p => s.resetProg p true) s
  let s := s.busyNote c
  let fe := s.fe
  let s := { s with fe := { fe with cmds := fe.cmds.filter fun x => x.ctx != c } }
  let s := s.dmaGoneIf fun r => r.ctx == c
  let s := s.txDropIf fun _ x => x.ctx == some c
  let s := s.memDiscard fun m _ => masterCtx m == some c
  let s := allLinks.foldl (fun (s : State) l =>
    let k := s.link l
    if k.fabWait.isEmpty && k.fabOut.isEmpty then s
    else s.setLink l { k with
      fabWait := k.fabWait.filter fun w => w.ctx != c
      fabOut := k.fabOut.map fun o => if o.ctx = c then { o with gone := true } else o }) s
  let f := (s.ctx c).fn
  let s := s.modSess f fun z =>
    { z with
      rekeyIn := z.rekeyIn.filter fun r => r.ctx != c
      rekeyOut := z.rekeyOut.filter fun r => r.ctx != c }
  s.stgRoll f

/-- A suspect that takes a Comma of another cause: its replay ends with no verdict, and the next begins; its copied commands go
(Table 18-5). -/
def dropReplay (s : State) (c : CtxId) : State :=
  let f := s.flt
  let hit := f.replays.filter fun r => r.suspects.head? == some c
  let rs := f.replays.map fun r => { r with suspects := r.suspects.filter (· != c), rest := r.rest.filter (· != c) }
  let ended := rs.filter fun r => r.suspects.isEmpty
  let store := s.fe.replayStore.filter fun e => e.2.ctx != c
  let s := { s with flt := { f with replays := rs.filter fun r => !r.suspects.isEmpty }, fe.replayStore := store }
  let s := hit.foldl (fun s r => s.modEng r.engine.toNat fun g => { g with idleRun := 0, sampled := g.progress }) s
  ended.foldl (fun s r => s.modEng r.engine.toNat fun g => { g with replaying := false }) s

/-- The first part of a Comma: the work is discarded and the context holds its cause; RESETTING until it ends. A context
found guilty keeps that cause until it is freed (R530; DESIGN CHOICE, log entry 24). -/
def commaStart (s : State) (c : CtxId) (cause : Cause) : State :=
  if (s.ctx c).phase = .free then s
  else
    let s := s.discardWork c
    let s := if cause = causeStallSuspect ∨ cause = causeStallGuilty then s else s.dropReplay c
    s.modCtx c fun k => { k with
      phase := .resetting
      cause := if k.cause = causeStallGuilty ∧ k.phase ≠ .active then k.cause else cause
      sq := emptyRings k.sq
      cancelled := [] }

/-- The end of a Comma: FAULTED, and the context's vector raised. -/
def commaEnd (s : State) (c : CtxId) : State :=
  let k := s.ctx c
  if k.phase = .resetting then (s.setCtx c { k with phase := .faulted }).msi k.fn k.vector else s

/-- A Comma carried out by a reset of a higher level: recorded and counted, its trace record being the higher level's. -/
def commaInner (s : State) (c : CtxId) (cause : Cause) : State :=
  if (s.ctx c).phase = .free then s
  else ((s.commaStart c cause).commaEnd c).resetRecord lvlComma false cause c

/-- A Comma of its own, whole. -/
def comma (s : State) (c : CtxId) (cause : Cause) : State :=
  if (s.ctx c).phase = .free then s
  else (s.commaInner c cause).resetTrace lvlComma cause c false (some c)

/-- The Comma of a read's security alarm (Table 18-6, MEM_TAG_FAIL). -/
def alarmComma (s : State) (m : Master) (alarm : Bool) : State :=
  match alarm, masterCtx m with
  | true, some c => s.comma c causeMemTagFail
  | _, _ => s

/-! ### The ends of accesses (R45, R230, R231, R239, R432) -/

/-- The fabric status of a refused or failed memory access: what is neither a protected range nor a Fragment is answered
BUS_ERROR (DESIGN CHOICE, log entry 35). -/
def fabMemStatus (st : Status) : BitVec 4 :=
  if st = stOk then 0 else if st = stProtected then 4 else if st = stFragment then 5 else 3

/-- Answer a record: counters and events, and the response in a group of the request's class (R424, Tables 14-7, 14-8). A
response whose Agreement has ended is discarded (Table 14-6). -/
def fabRespond (s : State) (w : FabRecWait) (st : BitVec 4) (data : Line) : State :=
  let f := s.fab
  let s := if st = 0 then s else s.fabEvent 0
  let s := if st = 6 then ({ s with fab := { s.fab with ownership := satInc f.ownership } }).fabEvent 1 else s
  let s := if st = 2 then { s with fab := { s.fab with rights := satInc f.rights } } else s
  let s := s.progress engRed
  let r : FabRec := { op := if w.record.op = fabWrite then fabWriteAck else fabReadResp, status := st, tag := w.record.tag,
                      line := w.record.line, mask := 0, data := data }
  if s.agreedIn w.link w.slot && (s.link w.link).io.inst == w.inst then
    s.txPut w.link { cls := w.cls, kind := kindFabric, dest := 0, ctxField := 0, vdTag := w.vd, payload := fabBytes r,
                     ctx := none, prog := none, refs := [] }
  else s

/-- Tell the requester of an access how it ended: a command its status, an iteration its fault (Table 11-12, PROG_MEM), a
fabric record its answer; a security alarm starts the Comma of the context (Table 18-6). -/
def memEndOne (s : State) (e : MemEnd) : State :=
  let s := match e.tag, e.master with
    | some (.cmd c q k), _ => (s.stgLate c q k e.dpa).cmdResult c q k e.status 0
    | some (.fab w), _ => s.fabRespond w (fabMemStatus e.status) 0
    | some (.ring ..), _ => s
    | none, .program _ p n => s.faultIter p n.toNat progMem stProgFault true
    | none, _ => s
  s.alarmComma e.master e.alarm

/-- The first `n` ends, in the order in which they came. -/
def memEndsTell : Nat → State → State
  | 0, s => s
  | n + 1, s => match s.mem.ends with
    | [] => s
    | e :: t => memEndsTell n (memEndOne { s with mem.ends := t } e)

/-- What a step leaves to be told: the ends of accesses, then the commands and iterations with nothing left to do. Telling
one end can end further accesses (a Comma releases what waited behind it), each of which was in one of the four lists. -/
def memSettle (s : State) : State :=
  (memEndsTell (s.mem.ends.length + s.mem.waits.length + s.mem.fence.length + s.mem.out.length) s).cmdsSettle.settleIters

end State

end Sys2Proof.Machine
end

