-- ==== Sys2Proof/Machine/DomOps.lean ====
section
/-! DEFINITION. Trust domains, shared parts: the domain record (R352 to R355), tokens (R369, R370), candidates, the
Roster's changes (R380). -/

namespace Sys2Proof.Machine

/-! ### The domain record (Tables 12-1, 12-2) -/

def recordLen : Nat := 10864
def recHallCount (r : Bytes) : Nat := (byteAt r 24).toNat
def recCompat (r : Bytes) : Byte := byteAt r 25
def recRejoinMs (r : Bytes) : Nat := if leAt r 28 4 = 0 then 10000 else leAt r 28 4
def recVerifierKeys (r : Bytes) : Bytes := slice r 3428 2689

/-- A candidate entry at an offset: its member field and identity. -/
def recCand (r : Bytes) (o : Nat) : Nat × Bytes := (leAt r o 4, slice r (o + 4) 48)
def hallOff (h : Nat) : Nat := 192 + 208 * h
def recSysCands (r : Bytes) : List (Nat × Bytes) := [recCand r 36, recCand r 88, recCand r 140]
def recHallCands (r : Bytes) (h : Nat) : List (Nat × Bytes) :=
  [recCand r (hallOff h), recCand r (hallOff h + 52), recCand r (hallOff h + 104)]
def recHallSize (r : Bytes) (h : Nat) : Nat := leAt r (hallOff h + 156) 4
def recAdmRoot (r : Bytes) (h : Nat) : Bytes := slice r (hallOff h + 160) 48
def recAcc (r : Bytes) (i : Nat) : Bytes := slice r (1860 + 196 * i) 196

/-- R353. -/
def recordOk (r : Bytes) : Bool :=
  let hs := List.range (recHallCount r)
  r.length == recordLen && leAt r 0 4 == 0x4D44584B && leAt r 4 2 == 1 && zeroAt r 6 2 &&
    decide (1 ≤ recHallCount r) && decide (recHallCount r ≤ 8) && decide ((recCompat r).toNat ≤ 1) && zeroAt r 26 2 &&
    (leAt r 28 4 == 0 || (decide (1000 ≤ leAt r 28 4) && decide (leAt r 28 4 ≤ 600000))) && zeroAt r 32 4 &&
    ((List.range 8).all fun h => decide (h < recHallCount r) || zeroAt r (hallOff h) 208) &&
    (hs.all fun h =>
      let c := (recHallCands r h).map (·.1)
      decide c.Nodup && c.all fun m => m / 2 ^ 17 == h) &&
    (let c := (recSysCands r).map (·.1)
     decide c.Nodup && c.all fun m => decide (m / 2 ^ 17 < recHallCount r)) &&
    (hs.all fun h => decide (recHallSize r h ≤ 131072)) && decide ((hs.map (recHallSize r)).sum ≤ 500000) &&
    decide (1 ≤ (byteAt r 1856).toNat) && decide ((byteAt r 1856).toNat ≤ 8) && zeroAt r 1857 3 &&
    ((List.range 8).all fun i =>
      if i < (byteAt r 1856).toNat then zeroAt (recAcc r i) 193 3 else zeroAt (recAcc r i) 0 196) &&
    zeroAt r 6117 11 && sigOkR113 (recVerifierKeys r) "KX3-DOMAIN" (r.take 6128) (r.drop 6128)
where
  /-- Both signatures of a block laid out as in R113 verify. -/
  sigOkR113 (keys : Bytes) (ctx : String) (body sig : Bytes) : Bool := State.sigOk keys ctx body sig

/-- Table 12-3. -/
def votesOf (halls : Nat) : Nat := if halls ≤ 1 then 1 else halls + 1
def quorumOf (halls : Nat) : Nat :=
  if halls ≤ 1 then 1 else if halls = 2 then 2 else if halls ≤ 4 then 3 else if halls ≤ 6 then 4 else 5

/-- The root a proof of 17 siblings leads to from a member's leaf (R354). -/
def proofRoot (leaf : Bytes) (index : Nat) (proof : Bytes) : Bytes :=
  ((chunks 48 proof).zipIdx).foldl (fun h x =>
    if index / 2 ^ x.2 % 2 = 0 then sha384 ([0x01] ++ h ++ x.1) else sha384 ([0x01] ++ x.1 ++ h)) leaf

/-- The admission leaf of a member and its identity. -/
def admLeaf (m : Nat) (identity : Bytes) : Bytes := sha384 ([0x00] ++ leBytes 4 m ++ identity)

/-- A proof leads to adm_root of the member's hall. -/
def admitted12 (r : Bytes) (m : Nat) (identity proof : Bytes) : Bool :=
  decide (m / 2 ^ 17 < recHallCount r) && proof.length == 816 &&
    proofRoot (admLeaf m identity) (m % 2 ^ 17) proof == recAdmRoot r (m / 2 ^ 17)

/-- A certificate's measurements match one accepted set (Table 12-10, MEASURE). -/
def measuresOk (r : Bytes) (f : CertFacts) : Bool :=
  (List.range (byteAt r 1856).toNat).any fun i =>
    let a := recAcc r i
    slice a 0 48 == f.mRom && slice a 48 48 == f.mFw && slice a 96 48 == f.mCfg && slice a 144 48 == f.mSigner &&
      decide ((byteAt a 192).toNat ≤ f.imageSvn.toNat)

namespace State

def isSysCand (s : State) (d : Slot) (m : Member) : Bool :=
  (recSysCands (s.dom d).record).any fun c => c.1 == m.toNat
def isHallCand (s : State) (d : Slot) (h : BitVec 3) (m : Member) : Bool :=
  (recHallCands (s.dom d).record h.toNat).any fun c => c.1 == m.toNat

/-- The other candidates of this member's functions: its hall's, and the system's. -/
def hallCandsOf (s : State) (d : Slot) : List Member :=
  (recHallCands (s.dom d).record (hallOf (s.dom d).member).toNat).map fun c => BitVec.ofNat 20 c.1
def sysCandsOf (s : State) (d : Slot) : List Member := (recSysCands (s.dom d).record).map fun c => BitVec.ofNat 20 c.1

/-! ### Membership tokens (Table 12-8) -/

def tokMember (t : Bytes) : Nat := leAt t 24 4
def tokEpoch (t : Bytes) : Nat := leAt t 28 4
def tokBoot (t : Bytes) : Nat := leAt t 32 8
def tokAlias (t : Bytes) : Bytes := slice t 40 48
def tokSigner (t : Bytes) : Nat := leAt t 88 4

/-- R370. -/
def tokenOk (s : State) (d : Slot) (t : Bytes) : Bool :=
  let k := s.dom d
  let signer : Member := BitVec.ofNat 20 (tokSigner t)
  t.length == 7536 && leAt t 0 4 == 0x544D584B && leAt t 4 2 == 1 && zeroAt t 6 2 && zeroAt t 100 4 && zeroAt t 2793 7 &&
    slice t 8 16 == s.domainIdOf d && tokEpoch t == k.epoch.toNat && decide (tokSigner t < 2 ^ 20) &&
    (s.isHallCand d (BitVec.ofNat 3 (tokMember t / 2 ^ 17)) signer || s.isSysCand d signer) &&
    (k.keyList.any fun e => e.1 == signer && e.2 == sha384 (slice t 104 2689)) &&
    sigOk (slice t 104 2689) "KX3-TOKEN" (t.take 2800) (t.drop 2800)

/-- Build and sign a token (Table 12-8). -/
def tokenMake (s : State) (d : Slot) (m : Member) (boot : Bytes) (aliasDig : Bytes) : Bytes :=
  let k := s.dom d
  let body := leBytes 4 0x544D584B ++ leBytes 2 1 ++ zeros 2 ++ s.domainIdOf d ++ leBytes 4 m.toNat ++
    leBytes 4 k.epoch.toNat ++ fitTo 8 boot ++ fitTo 48 aliasDig ++ leBytes 4 k.member.toNat ++
    leBytes 8 (s.domTime d).toNat ++ zeros 4 ++ fitTo 2689 s.aliasKeys ++ zeros 7
  body ++ s.aliasSign "KX3-TOKEN" body

/-! ### The Roster (R380, R381) -/

/-- The link's own slot, and the declaration it holds there (R381, R513). -/
def declOf (s : State) (l : LinkId) : Option (Slot × Decl) :=
  match s.linkVd l with
  | none => none
  | some v => match s.vdSlot v with
    | none => none
    | some d => (Tab.get none (s.dom d).decls l.toNat).map fun x => (d, x)

/-- Census state of a member, 0 PENDING where this instance holds none (Table 12-12). -/
def censusOf (s : State) (d : Slot) (m : Member) : BitVec 2 := Tab.get 0 (s.dom d).mgr.census m.toNat

/-- Korux names a partner that is REACHED or PENDING in its hall's census (R381). -/
def named (s : State) (d : Slot) (m : Member) : Bool := s.censusOf d m == 0 || s.censusOf d m == 1

/-- The packed state of a link (Table 9-13). -/
def linkPhaseCode (p : LinkPhase) : BitVec 3 :=
  match p with
  | .down => 0
  | .up => 1
  | .agreeing => 2
  | .agreed => 3
  | .absent => 4

/-- The entries of this member's own Roster row (R380): link, partner, partner's link, link state. -/
def rosterEntries (s : State) (d : Slot) : List (LinkId × Decl) :=
  allLinks.filterMap fun l => (Tab.get none (s.dom d).decls l.toNat).map fun x => (l, x)

/-- The virtual devices of a slot as a mask: part of its Roster row (R380, R518). -/
def slotVds (s : State) (d : Slot) : BitVec 64 :=
  s.vd.vds.foldl (fun m e => if e.2.present && e.2.slot == some d then setBitTo m e.1 true else m) 0

/-! ### Who manages (R26, R27, R363, R367) -/

/-- Contact with a candidate: a pulse or message within the last 150 µs (R363). -/
def inContact (s : State) (d : Slot) (m : Member) : Bool :=
  let t := Tab.get 0 (s.dom d).mgr.contacts m.toNat
  t != 0 && decide ((s.now - t).toNat ≤ 150000)

/-- This instance holds its hall's secret as a candidate; it holds the DRS as a system candidate. -/
def holdsHall (s : State) (d : Slot) : Bool := (s.dom d).hallCand && s.keyUsable (rowHall d)
def holdsDrs (s : State) (d : Slot) : Bool := (s.dom d).sysCand && s.keyUsable (rowDrs d)

/-- A reached candidate of a hall has been handed the hall secret. -/
def hallServed (s : State) (d : Slot) (h : BitVec 3) : Bool :=
  (s.dom d).keyList.any fun e => s.isHallCand d h e.1 && !(s.dom d).mgr.departed.contains e.1

/-- The active System Manager acts for a hall no candidate of which holds the hall secret (R367). -/
def actsFor (s : State) (d : Slot) (h : BitVec 3) : Bool := (s.dom d).activeSm && !s.hallServed d h

/-- This instance is a hall's manager. -/
def managesHall (s : State) (d : Slot) (h : BitVec 3) : Bool :=
  ((s.dom d).activeHm && hallOf (s.dom d).member == h) || s.actsFor d h

/-- The other candidates a manager of a hall keeps in step (R365): its hall's; the system's where it acts for the hall. -/
def peersFor (s : State) (d : Slot) (h : BitVec 3) : List Member :=
  let own := (s.dom d).activeHm && hallOf (s.dom d).member == h
  ((if own then s.hallCandsOf d else s.sysCandsOf d).filter fun m => m != (s.dom d).member && s.inContact d m)

/-- The head of a CENSUS_SYNC body: the member, its census state, bit 0 a Roster change, bit 1 a confirmation (DESIGN CHOICE,
log entry 25). -/
def syncHead (m : Member) (st : BitVec 2) (flags : Byte) : Bytes := leBytes 4 m.toNat ++ [st.setWidth 8, flags, 0, 0]

/-- Enter a census state and send it to the standby candidates in contact (R365, R376). -/
def censusPut (s : State) (d : Slot) (m : Member) (st : BitVec 2) : State :=
  let s := s.modDom d fun k => { k with mgr := { k.mgr with census := Tab.set 0 k.mgr.census m.toNat st } }
  (s.peersFor d (hallOf m)).foldl (fun (s : State) c =>
    s.tc0Send d 0x52 c 0 0 (syncHead m st 0)) s

/-- Take a member's row at a version (R380). -/
def rosterPut (s : State) (d : Slot) (m : Member) (version : BitVec 32) (row : RosterRow) : State :=
  s.modDom d fun k =>
    { k with mgr := { k.mgr with
        rosterRows := row.links.foldl (fun t e => Tab.set (0, 0, 0) t (m.toNat * 64 + e.1.toNat) e.2) k.mgr.rosterRows
        rosterVds := Tab.set 0 k.mgr.rosterVds m.toNat row.vds
        rosterVersions := Tab.set 0 k.mgr.rosterVersions m.toNat version } }

/-- Entries of a row in a message body: link, partner's link, state, reserved, partner (DESIGN CHOICE, log entry 25). -/
def rowBytes (es : List (LinkId × Member × LinkId × BitVec 3)) : Bytes :=
  es.flatMap fun e => [e.1.setWidth 8, e.2.2.1.setWidth 8, e.2.2.2.setWidth 8, 0] ++ leBytes 4 e.2.1.toNat

/-- Send a Roster change to candidates (R365). -/
def syncRow (s : State) (d : Slot) (m : Member) (version : BitVec 32) (row : RosterRow) (peers : List Member) : State :=
  let body := syncHead m 0 1 ++ leBytes 4 version.toNat ++ leBytes 8 row.vds.toNat ++ rowBytes row.links
  peers.foldl (fun (s : State) c => s.tc0Send d 0x52 c 0 0 body) s

/-- This member's own Roster row (R380). -/
def ownRow (s : State) (d : Slot) : RosterRow :=
  { vds := s.slotVds d
    links := (s.rosterEntries d).map fun x => (x.1, x.2.partner, x.2.link, linkPhaseCode (s.link x.1).core.phase) }

/-- Send this member's Roster row to its active Hall Manager, 32 entries a message (R380). The body is the version, the
count, the mask of the slot's virtual devices and the entries in link order (DESIGN CHOICE, log entry 25). The manager itself
takes its own row and sends it to its standby candidates (R365). -/
def rosterSend (s : State) (d : Slot) : State :=
  let k := s.dom d
  let row := s.ownRow d
  if k.hallManager = k.member then
    (s.rosterPut d k.member k.rosterVersion row).syncRow d k.member k.rosterVersion row (s.peersFor d (hallOf k.member))
  else
    let ms := if row.links.isEmpty then [[]] else chunks (32 * 8) (rowBytes row.links)
    ms.foldl (fun s b => s.tc0Send d 0x50 k.hallManager 0 0
      (leBytes 4 k.rosterVersion.toNat ++ leBytes 4 (b.length / 8) ++ leBytes 8 row.vds.toNat ++ b)) s

/-- A change of this member's row: its version rises and the change is sent until it is acknowledged (R380). -/
def rosterChange (s : State) (d : Slot) : State :=
  if (s.dom d).phase = .member ∨ (s.dom d).phase = .fragment then
    let own := (s.dom d).hallManager == (s.dom d).member
    (s.modDom d fun k => { k with rosterVersion := k.rosterVersion + 1, rosterPending := !own }).rosterSend d
  else s

def rosterAckSend (s : State) (d : Slot) (m : Member) (version : BitVec 32) : State :=
  s.tc0Send d 0x51 m 0 0 (leBytes 4 version.toNat ++ zeros 4)

/-- A candidate is no longer awaited for the changes `p` selects; a change nobody is awaited for is acknowledged (R365). -/
def ackDrop (s : State) (d : Slot) (c : Member) (p : RosterWait → Bool) : State :=
  let ws := (s.dom d).mgr.acks.map fun w => if p w then { w with waits := w.waits.filter (· != c) } else w
  let s := s.modDom d fun k => { k with mgr.acks := ws.filter fun w => !w.waits.isEmpty }
  (ws.filter fun w => w.waits.isEmpty).foldl (fun (s : State) w => s.rosterAckSend d w.member w.version) s

end State

end Sys2Proof.Machine
end

