-- ==== Sys2Proof/Machine/LinkOps.lean ====
section
/-! DEFINITION. Links: delivery (R53 to R58), Verdicts and what they do (R264 to R273), Tense promotion (R178), TC0
relaying (R403 to R405), the start of an Agreement (R276) and its end (R289). -/

namespace Sys2Proof.Machine

/-! ### The receive window (R264) -/

def windowAdmits (w : Window) (seq : BitVec 64) (inFlight : Bool) : Bool :=
  if inFlight then false
  else if !w.any || decide (w.top < seq) then true
  else
    let back := (w.top - seq).toNat
    decide (back < 64) && !w.seen.getLsbD back

def windowConfirm (w : Window) (seq : BitVec 64) : Window :=
  if !w.any then { any := true, top := seq, seen := 1 }
  else if w.top < seq then
    let shift := (seq - w.top).toNat
    { w with top := seq, seen := (if 64 ≤ shift then 0 else w.seen <<< shift) ||| 1 }
  else { w with seen := w.seen ||| ((1 : BitVec 64) <<< (w.top - seq).toNat) }

/-- The beats of a group (Table 2-9): 128 payload bytes each, the last one padded with zeros. A group cut off before its
payload was whole shows the whole beats that arrived and ends with a beat of zeros (R57). -/
def groupBeats (payload : Bytes) (len : BitVec 9) (c : Cls) (ctx : BitVec 10) (gid : BitVec 16) (subj cut : Bool) :
    List Beat :=
  let short := cut && decide (payload.length < len.toNat)
  let ds := if short then chunks 128 (payload.take (128 * (payload.length / 128))) ++ [zeros 128]
    else (chunks 128 payload).map (fitTo 128)
  ds.zipIdx.map fun x =>
    { data := x.1, first := x.2 == 0, last := x.2 + 1 == ds.length, len := len, tc := c, ctx := ctx, gid := gid,
      subj := subj, trunc := short && x.2 + 1 == ds.length }

/-- A group to a delivery channel, and one to a receive ring (Table 9-3). -/
def isDeliver (h : BitVec 128) : Bool := hdrKind h == kindSealed && hdrDest h == destDeliver
def isRing (h : BitVec 128) : Bool := hdrKind h == kindSealed && hdrDest h == destRing

/-- The Subjunctive groups of a link's channel without a Verdict (R55). -/
def unsettledOf (k : Link) : List RxFlight := k.io.flight.filter fun g => g.gid.isSome

/-- The groups of a receive ring that have not reached it, in the order of their arrival. -/
def ringWaits (k : Link) : List (RxFlight ⊕ RxHeld) :=
  let t : Tab (Option (RxFlight ⊕ RxHeld)) := (k.io.flight.filter fun g => isRing g.header && !g.placed && !g.cut).foldl
    (fun t g => Tab.set none t g.ord (some (.inl g))) []
  let t := (k.io.held.filter fun h => isRing h.header).foldl (fun t h => Tab.set none t h.ord (some (.inr h))) t
  t.filterMap (·.2)

namespace State

/-- Presented before the tag is checked, or fenced before it (R260). -/
def isSubjunctive (s : State) (h : BitVec 128) : Bool :=
  !s.poolRole && (isDeliver h || isRing h) && (hdrCls h == 1 || hdrCls h == 2)

/-- The tag computed over the group equals its tag unit (R257, check 9). -/
def groupTagOk (g : RxFlight) : Bool :=
  leBv 128 (gcmTag (leBytes 32 g.material.toNat) (groupIv g.material g.seq) (leBytes 16 g.header.toNat) g.payload) == g.tag

/-- The group arrived whole and its tag verifies. -/
def groupOk (g : RxFlight) : Bool := !g.cut && groupTagOk g

/-- The plaintext of a received group. -/
def groupPlain (g : RxFlight) : Bytes := gcmOpen (leBytes 32 g.material.toNat) (groupIv g.material g.seq) g.payload

/-! ### The delivery port (R53 to R58) -/

def subjLimit : Nat := 16

/-- The delivery port can present: on, its crossing locked (R34, R85). -/
def deliveryOpen (s : State) : Bool := s.portOn portDelivery && !s.clk.deliveryUnlocked

/-- The beats of a group have all been accepted. -/
def beatsGone (d : Delivery) (gid : BitVec 16) : Bool := !(d.beats.any fun b => b.gid == gid)

/-- 16 Subjunctive groups are delivered and without a Verdict: cd_valid is low (R55). -/
def channelFull (k : Link) : Bool :=
  decide (subjLimit ≤ (unsettledOf k).length) && (unsettledOf k).all fun g => beatsGone k.del (g.gid.getD 0)

/-- Present a Subjunctive group on its channel (R53, R56): the context it names consumes it (R269). -/
def presentFlight (s : State) (l : LinkId) (g : RxFlight) : State :=
  let k := s.link l
  let gid := k.del.gidNext
  let bs := groupBeats (groupPlain g) (hdrLen g.header) g.cls (hdrCtx g.header) gid true g.cut
  (s.setLink l { k with del := { gidNext := gid + 1, beats := k.del.beats ++ bs } }).modFlight (flightRef l g) fun x =>
    { x with gid := some gid, consumers := [hdrCtx g.header] }

/-- Present a Confirmed Indicative group on its channel (R262). -/
def presentHeld (s : State) (l : LinkId) (h : RxHeld) : State :=
  let k := s.link l
  let gid := k.del.gidNext
  let bs := groupBeats h.payload (hdrLen h.header) h.cls (hdrCtx h.header) gid false false
  s.setLink l { k with
    del := { gidNext := gid + 1, beats := k.del.beats ++ bs }
    io := { k.io with held := k.io.held.erase h } }

/-- The next group that the channel may show, in the order of arrival (R263, R292): a Subjunctive group may pass an
Indicative one that waits for its Verdict, and nothing passes a Subjunctive one that waits for the limit of R55 (DEDUCED, log
entry 128). A TC2 group waits behind a contribution that waits for its window (R338). -/
def deliverNext (s : State) (l : LinkId) : Option (RxFlight ⊕ RxHeld) :=
  let k := s.link l
  let subj := k.io.flight.find? fun g => isDeliver g.header && g.gid.isNone &&
    (g.cls == 1 || (g.cls == 2 && !s.tc2Behind l g.cls g.ord))
  let bulk := (k.io.held.filter fun h => isDeliver h.header).foldl (fun m h => match m with
    | none => some h
    | some x => if h.ord < x.ord then some h else some x) none
  let bulk := bulk.filter fun h =>
    !(k.io.flight.any fun g => isDeliver g.header && g.cls == 3 && decide (g.ord < h.ord)) &&
      subj.all fun g => decide (h.ord < g.ord)
  match bulk, subj with
  | some h, _ => some (.inr h)
  | none, some g => if (unsettledOf k).length < subjLimit then some (.inl g) else none
  | none, none => none

def deliverPumpAux (l : LinkId) : Nat → State → State
  | 0, s => s
  | n + 1, s => match s.deliverNext l with
    | none => s
    | some (.inl g) => deliverPumpAux l n (s.presentFlight l g)
    | some (.inr h) => deliverPumpAux l n (s.presentHeld l h)

/-- Present what the channel may show now. -/
def deliverPump (s : State) (l : LinkId) : State :=
  if !s.deliveryOpen then s
  else deliverPumpAux l ((s.link l).io.flight.length + (s.link l).io.held.length) s

/-! ### Receive rings (R237, R265, Table 9-4) -/

/-- Put a group into its receive ring: its bytes are written to memory for the context, those of a Subjunctive group into the
verdict fence (R237). A Confirmed group's credit returns; the other's returns with its Verdict. -/
def ringStore (s : State) (l : LinkId) (w : RxFlight ⊕ RxHeld) : State :=
  let place := Config.ringPlace s.freeCtr
  let s := { s with freeCtr := s.freeCtr + 1 }
  let put (s : State) (h : BitVec 128) (c : Cls) (refs : List GroupRef) (data : Bytes) : State :=
    (s.memStore (.ctx (hdrCtx h)) place.2 refs (some (.ring l c (hdrCtx h))) (data.length + 1) place.1 data).1
  match w with
  | .inl g => (put s g.header g.cls [flightRef l g] (groupPlain g)).modFlight (flightRef l g) fun x =>
      { x with placed := true }
  | .inr h => ((put s h.header h.cls [] h.payload).modLink l fun k => { k with io.held := k.io.held.erase h }).creditReturn l
      h.cls

def ringKeyOf : RxFlight ⊕ RxHeld → Cls × CtxId
  | .inl g => (g.cls, hdrCtx g.header)
  | .inr h => (h.cls, hdrCtx h.header)

/-- The group may enter its ring as far as its Verdict and the fence go: an Indicative one after its Confirm, a Subjunctive
one while the fence has entries for it (R237, R262); none behind a contribution that waits (R338). -/
def ringReady (s : State) (l : LinkId) : RxFlight ⊕ RxHeld → Bool
  | .inl g => !s.tc2Behind l g.cls g.ord && s.isSubjunctive g.header &&
      decide (s.mem.fence.length + linesTouched g.payload.length ≤ fenceSize)
  | .inr h => !s.tc2Behind l h.cls h.ord

/-- A Subjunctive group that a full fence keeps in the cluster sets fence_full (R237). -/
def ringNote (s : State) (l : LinkId) (w : RxFlight ⊕ RxHeld) : State :=
  match w with
  | .inl g => if s.isSubjunctive g.header && !s.tc2Behind l g.cls g.ord then s.memAlarm memFenceFull else s
  | .inr _ => s

/-- The groups of the rings in their order: one waits for its Verdict, for the fence, for its ring (R265), and behind the
groups of its ring before it. Whether a ring has room is free. -/
def ringPumpAux (l : LinkId) : List (RxFlight ⊕ RxHeld) → List (Cls × CtxId) → State → State
  | [], _, s => s
  | w :: rest, b, s =>
    let key := ringKeyOf w
    if b.contains key || (s.link l).ringFull.contains key then ringPumpAux l rest b s
    else if !s.ringReady l w then ringPumpAux l rest (key :: b) (s.ringNote l w)
    else if Config.ringRoom s.freeCtr then ringPumpAux l rest b ({ s with freeCtr := s.freeCtr + 1 }.ringStore l w)
    else ringPumpAux l rest b ({ s with freeCtr := s.freeCtr + 1 }.modLink l fun k => { k with
      ringFull := k.ringFull ++ [key] })

def ringPump (s : State) (l : LinkId) : State := ringPumpAux l (ringWaits (s.link l)) [] s

/-- A receive ring has room again (R265): the group that met it full goes in, then those behind it while there is room. -/
def ringSpace (s : State) (l : LinkId) (c : Cls) (x : CtxId) : State :=
  let s := s.modLink l fun k => { k with ringFull := k.ringFull.filter (· != (c, x)) }
  match (ringWaits (s.link l)).find? fun w => ringKeyOf w == (c, x) with
  | none => s
  | some w => if s.ringReady l w then (s.ringStore l w).ringPump l else s.ringPump l

/-- The fence may have room for what it kept in the link clusters. -/
def ringsRetry (s : State) : State :=
  allLinks.foldl (fun (s : State) l => if (ringWaits (s.link l)).isEmpty then s else s.ringPump l) s

/-- A program's window may have reached what kept TC2 groups from the delivery channels (R338). -/
def deliverRetry (s : State) : State :=
  allLinks.foldl (fun (s : State) l => if (s.link l).io.held.isEmpty then s else s.deliverPump l) s

/-- What a step leaves to be done: groups that the fence kept waiting, the ends of accesses, commands and iterations, then
groups that a program's window kept waiting. -/
def settleAll (s : State) : State := s.ringsRetry.memSettle.deliverRetry

/-! ### TC0 messages on their Confirm (R400 to R405) -/

def tc0Bad (s : State) (l : LinkId) : State := s.modLink l fun k => { k with tc0.bad := satInc k.tc0.bad }

/-- A type that is carried on one link only (Table 13-1). -/
def tc0OneLink (t : Byte) : Bool := t == 0x21 || t == 0x22 || t == 0x31 || t == 0x32 || t == 0x60 || t == 0x61

/-- A routed type (Table 13-1, Table 12-7). -/
def tc0Routed (t : Byte) : Bool :=
  t == 0x10 || t == 0x11 || t == 0x70 || (0x40 ≤ t.toNat && t.toNat ≤ 0x46) || (0x48 ≤ t.toNat && t.toNat ≤ 0x4C) ||
    t == 0x50 || t == 0x51 || t == 0x52 || (0x58 ≤ t.toNat && t.toNat ≤ 0x5D)

def parseRoute (p : Bytes) : Route :=
  { dst := BitVec.ofNat 20 (leAt p 8 4), src := BitVec.ofNat 20 (leAt p 12 4), hops := byteAt p 16, scope := byteAt p 17,
    hall := byteAt p 18, transfer := BitVec.ofNat 32 (leAt p 4 4) }

/-- The fragment form of R278 and the route header's own checks (R8, Table 13-2). -/
def routeOk (p : Bytes) : Bool :=
  decide (24 ≤ p.length) && byteAt p 3 == 0 && decide (byteAt p 1 < byteAt p 2) && decide ((byteAt p 17).toNat ≤ 2) &&
    zeroAt p 19 5 && decide (leAt p 8 4 < 2 ^ 20) && decide (leAt p 12 4 < 2 ^ 20) && (byteAt p 17 == 1 || byteAt p 18 == 0)

/-- A message from a candidate is contact with it (R363). -/
def noteContact (s : State) (d : Slot) (m : Member) : State :=
  if s.isSysCand d m || s.isHallCand d (hallOf m) m then
    s.modDom d fun k => { k with mgr.contacts := Tab.set 0 k.mgr.contacts m.toNat s.now }
  else s

/-- Remember a flood fragment; the oldest of 4,096 makes room (R404). -/
def floodNote (s : State) (e : FloodEntry) : State :=
  let f := if s.flood.length < 4096 then s.flood else s.flood.drop 1
  { s with flood := f ++ [e] }

def floodSeen (s : State) (d : Slot) (r : Route) (i : Byte) : Bool :=
  s.flood.any fun e => e.slot == d && e.src == r.src && e.transfer == r.transfer && e.index == i

/-- A message of one link has the form of its body where no command of the trust core judges it: LINK_PULSE has 8 bytes, all
but the first 0 (R8, R261). -/
def tc0BodyOk (p : Bytes) : Bool := byteAt p 0 != 0x31 || (p.length == 8 && zeroAt p 1 7)

/-- A Confirmed TC0 group: handed to the trust core, relayed, flooded or discarded. -/
def tc0Take (s : State) (l : LinkId) (p : Bytes) : State :=
  let d := (s.link l).core.slot
  let t := byteAt p 0
  if tc0OneLink t then (if tc0BodyOk p then s.out (.tcMessage l d p) else s.tc0Bad l)
  else if !tc0Routed t || !routeOk p then s.tc0Bad l
  else
    let r := parseRoute p
    let fwd := { r with hops := r.hops + 1 }
    let bytes := p.take 16 ++ [fwd.hops] ++ p.drop 17
    let prio : BitVec 2 := if t = 0x10 ∨ t = 0x11 then 0 else 1
    let relay (s : State) : State :=
      if 24 < fwd.hops.toNat then s.modLink l fun k => { k with tc0.hopDrop := satInc k.tc0.hopDrop }
      else s.tc0Forward d fwd prio (some l) bytes
    if r.scope = 0 then
      (if r.dst = (s.dom d).member then (s.noteContact d r.src).out (.tcMessage l d p) else relay s)
    else if s.floodSeen d r (byteAt p 1) then s
    else
      let e : FloodEntry := { slot := d, src := r.src, transfer := r.transfer, index := byteAt p 1, time := s.now }
      relay (((s.floodNote e).noteContact d r.src).out (.tcMessage l d p))

/-! ### Verdicts -/

def dropFlight (s : State) (r : GroupRef) : State :=
  s.modLink r.link fun k => { k with io.flight := k.io.flight.filter fun g => flightRef r.link g != r }

/-- The Agreement a group came under still stands. -/
def sameAgreement (s : State) (l : LinkId) (g : RxFlight) : Bool := (s.link l).io.inst == g.inst

/-- Confirm under the Future makes it Present (R178, R180). -/
def promote (s : State) (l : LinkId) (g : RxFlight) : State :=
  let dir := s.rxDir l
  let o := s.row g.row
  if s.sameAgreement l g && o.valid && o.tense == 3 && o.gen == g.rowGen then
    let s := match s.tenseRow l g.cls dir 2 with
      | some r => s.setRow r { s.row r with tense := 1 }
      | none => s
    let s := s.setRow g.row { s.row g.row with tense := 2 }
    s.modLink l fun k =>
      let x := Tab.get ({} : TenseRx) k.tenseRx g.cls.toNat
      let x := { x with ready := false, pastEnds := some (s.now + 64000) }
      { k with tenseRx := Tab.set {} k.tenseRx g.cls.toNat x }
  else s

/-- Held requests and commands no longer wait for a Confirmed group (R270). -/
def releaseRef (s : State) (r : GroupRef) : State :=
  let s := allLinks.foldl (fun (s : State) l =>
    if (s.link l).io.txq.isEmpty then s
    else s.modLink l fun k => { k with io.txq := k.io.txq.map fun x => { x with refs := x.refs.filter (· != r) } }) s
  let cs := s.fe.cmds.map fun x => { x with refs := x.refs.filter (· != r) }
  { s with fe.cmds := cs }

/-- The page of a fabric line, and the table line that holds its entry (R430). -/
def fabPage (line : BitVec 36) : Nat := line.toNat / 2 ^ 15
def fabTblLine (line : BitVec 36) : BitVec 19 := BitVec.ofNat 19 (fabPage line / 4)

/-- Records that wait behind an outstanding miss. -/
def fabWaiting (s : State) : Nat := (s.fab.queue.filter fun w => s.fab.misses.contains (w.slot, fabTblLine w.record.line)).length

/-- A limit of R433 is reached. -/
def fabFull (s : State) : Bool := decide (64 ≤ s.fab.misses.length) || decide (4096 ≤ s.fabWaiting)

/-- The records of a request group enter the checker's queue, and its credit returns (R424, R432). -/
def fabTakeGroup (s : State) (l : LinkId) (g : RxHeld) : State :=
  let x := fabParse 17 g.payload
  let f := s.fab
  let s := if x.2 then ({ s with fab := { f with trailing := satInc f.trailing } }).fabEvent 2 else s
  let q := s.fab.queue ++ x.1.map fun r =>
    { link := l, cls := g.cls, vd := hdrVd g.header, sender := g.sender, slot := g.slot, inst := g.inst, record := r }
  ({ s with fab.queue := q }).creditReturn l g.cls

/-- What a group carries goes where its header sends it, once Confirmed (Table 9-4, R54, R262, R336, R405). The credit of a
group that has left the cluster returns (R265). -/
def takeConfirmed (s : State) (l : LinkId) (g : RxFlight) : State :=
  match g.gid with
  | some gid => (s.out (.cdVerdict l gid true)).creditReturn l g.cls
  | none =>
    if g.placed then s.creditReturn l g.cls
    else
      let plain := groupPlain g
      let k := s.link l
      let h : RxHeld := { stamp := s.now, cls := g.cls, seq := g.seq, inst := g.inst, sender := k.core.pMember,
                          slot := k.core.slot, ord := g.ord, header := g.header, payload := plain }
      let hold (s : State) : State := s.modLink l fun k => { k with io.held := k.io.held ++ [h] }
      if hdrKind g.header = kindFabric then
        if !s.poolRole then s.creditReturn l g.cls
        else if s.fabFull then (hold s).fabEvent 4
        else s.fabTakeGroup l h
      else if hdrDest g.header = destControl then (s.tc0Take l plain).creditReturn l g.cls
      else if hdrDest g.header = destRing then (hold s).ringPump l
      else hold s

/-- A group receives Confirm. -/
def confirmGroup (s : State) (l : LinkId) (g : RxFlight) : State :=
  let r := flightRef l g
  let same := s.sameAgreement l g
  let s := s.dropFlight r
  let s := s.modLink l fun k => if !same then k else { k with
    io := { k.io with
      windows := Tab.set {} k.io.windows g.cls.toNat (windowConfirm (Tab.get {} k.io.windows g.cls.toNat) g.seq)
      lastConfirm := s.now }
    agr := { k.agr with mayTransmit := true } }
  let s := (s.count 3 1).progress (engLink l)
  let s := s.meter (s.link l).core.slot (17 + 2 * g.cls.toNat) g.payload.length
  let s := s.promote l g
  let s := s.takeConfirmed l g
  ((s.releaseRef r).fenceConfirm r).deliverPump l

/-- The counters and events of a failing check (Table 9-5, Table 9-20); check 0 stands for a cd_flush (R58). -/
def countCheck (s : State) (l : LinkId) (check : Nat) : State :=
  let s := s.modLink l fun k =>
    let c := k.core
    { k with core :=
        if check = 0 then c
        else if check = 4 ∨ check = 8 then { c with destBads := satInc c.destBads }
        else if check = 6 then { c with keyGens := satInc c.keyGens }
        else if check = 7 then { c with windows := satInc c.windows }
        else if check = 9 then { c with tagFails := satInc c.tagFails }
        else { c with formats := satInc c.formats } }
  if check = 4 ∨ check = 8 then s.linkEvent l lkevDestBad
  else if check = 6 then s.linkEvent l lkevKeyGen
  else if check = 7 then s.linkEvent l lkevWindow
  else if check = 9 ∨ check = 0 then s
  else s.linkEvent l lkevFormat

/-- A Repudiate counted and recorded with link, class, seq and the failing check (R263, R266, R273). -/
def repNote (s : State) (l : LinkId) (c : Cls) (seq : BitVec 64) (check : Nat) : State :=
  let s := (s.countCheck l check).linkEvent l lkevRepudiate
  let s := s.modLink l fun k => { k with
    core := { k.core with repudiates := satInc k.core.repudiates }
    io := { k.io with repTimes := (k.io.repTimes ++ [s.now]).filter fun t => decide ((s.now - t).toNat < 1000000) } }
  let s := (s.count 4 1).progress (engLink l)
  let s := (s.record causeLinkRepudiate l.toNat).out (.linkRepudiate l c seq check)
  s.trace 0x05 none (some (s.link l).core.slot) 0 0
    ([l.setWidth 8, c.setWidth 8, BitVec.ofNat 8 check, 0] ++ leBytes 8 seq.toNat)

/-- A Repudiated group that names a program faults its iteration (R344). -/
def repProgram (s : State) (l : LinkId) (header : BitVec 128) : State :=
  if hdrDest header = destReduce ∧ hdrKind header = kindSealed ∧ hdrCls header = 2 then
    s.progRepudiated ((hdrCtx header).setWidth 8) l
  else s

/-- A group that fails a check on its arrival receives Repudiate: nothing of it was in flight, and a group in flight of which
it is a copy stays (R263, R264). -/
def repudiateArrival (s : State) (l : LinkId) (header : BitVec 128) (check : Nat) : State :=
  ((s.repNote l (hdrCls header) (hdrSeq header) check).creditReturn l (hdrCls header)).repProgram l header

/-- A group in flight receives Repudiate, its consumers' Commas apart (R273): `told` says that cd_flush Repudiates it on the
port, else its Verdict is presented there (R54, R58). -/
def repudiateData (s : State) (l : LinkId) (g : RxFlight) (check : Nat) (told : Bool) : State :=
  let r := flightRef l g
  let s := (s.dropFlight r).repNote l g.cls g.seq check
  let s := match g.gid with
    | some x => if told then s else s.out (.cdVerdict l x false)
    | none => s
  (((s.creditReturn l g.cls).fenceRepudiate r).repProgram l g.header).releaseRef r

/-- The Comma of a context that consumed a Repudiated group; one in progress covers it (R273, R274). -/
def consumerComma (s : State) (r : GroupRef) (c : CtxId) : State :=
  if (s.ctx c).phase = .resetting then s
  else (s.comma c causeLinkRepudiate).modCtx c fun k => if k.phase = .free then k else { k with faultGroup := some r }

/-- A group in flight receives Repudiate. -/
def repudiateGroup (s : State) (l : LinkId) (g : RxFlight) (check : Nat) : State :=
  (g.consumers.foldl (fun (s : State) c => s.consumerComma (flightRef l g) c) (s.repudiateData l g check false)).deliverPump l

/-- The Verdict of a group whose tag unit has arrived (check 9), or that was cut off (R57). -/
def verdict (s : State) (l : LinkId) (g : RxFlight) : State :=
  if groupOk g then s.confirmGroup l g else s.repudiateGroup l g (if g.cut then 0 else 9)

/-- The Verdict can be given now. One of a delivered group is presented, only once the last beat has been accepted (R54); a
group that is still to be delivered and whose tag verifies is delivered first. -/
def verdictNow (s : State) (l : LinkId) (g : RxFlight) : Bool :=
  match g.gid with
  | some gid => beatsGone (s.link l).del gid && s.deliveryOpen
  | none => !(s.isSubjunctive g.header && isDeliver g.header && groupOk g)

/-- The tag unit of a group has arrived, or the group was cut off: its Verdict, now or when the port can present it. -/
def judge (s : State) (l : LinkId) (g : RxFlight) : State :=
  if s.verdictNow l g then s.verdict l g
  else s.modFlight (flightRef l g) fun x => { x with due := true }

def verdictPumpAux (l : LinkId) : Nat → State → State
  | 0, s => s
  | n + 1, s => match (s.link l).io.flight.find? fun g => g.due && s.verdictNow l g with
    | none => s
    | some g => verdictPumpAux l n (s.verdict l g)

/-- The Verdicts that waited for the delivery port. -/
def verdictPump (s : State) (l : LinkId) : State := verdictPumpAux l (s.link l).io.flight.length s

/-- 16 Repudiates within 1 ms (R266). -/
def stormDue (s : State) (l : LinkId) : Bool :=
  (s.link l).core.phase == .agreed &&
    decide (16 ≤ ((s.link l).io.repTimes.filter fun t => decide ((s.now - t).toNat < 1000000)).length)

/-! ### Agreements -/

/-- The start of every Agreement message (Table 9-10). -/
def agrPrefix (s : State) (type : Byte) (attempt : BitVec 32) (d : Slot) (l : LinkId) (to' : Member) (toLink : LinkId) :
    Bytes :=
  [type, 1, 0, 0] ++ leBytes 4 attempt.toNat ++ s.domainIdOf d ++ leBytes 4 (s.dom d).member.toNat ++
    [l.setWidth 8, d.setWidth 8] ++ leBytes 4 to'.toNat ++ [toLink.setWidth 8, 0]

/-- The status with which Korux refuses to take part in an Agreement, in the order of R277. -/
def agreeRefusal (s : State) (d : Slot) : Option Status :=
  match s.joinGate with
  | some st => some st
  | none =>
    if s.isFragment d then some stFragment else if !s.hasMember d || !s.aliasUsable then some stKeyOrphan else none

/-- Send ABORT and record its reason. -/
def abortSend (s : State) (l : LinkId) (d : Slot) (partner : Decl) (attempt : BitVec 32) (reason : BitVec 8) : State :=
  (s.openSend l partner.partner d 5 attempt (s.agrPrefix 5 attempt d l partner.partner partner.link ++ [reason, 0, 0, 0])).modLink
    l fun k => { k with core.abortSent := reason }

/-- Step 1 of an attempt: fresh secrets, HELLO (Tables 9-11, 9-12). -/
def sendHello (s : State) (l : LinkId) (d : Slot) (x : Decl) (attempt : BitVec 2) : State :=
  let (n, s) := s.draw
  let (sk, s) := s.draw
  let (se, s) := s.draw
  let nonce := leBytes 32 n.toNat
  let tok := (s.dom d).token
  let a32 : BitVec 32 := attempt.setWidth 32
  let msg := s.agrPrefix 1 a32 d l x.partner x.link ++ nonce ++ Config.kemPublic sk ++ Config.ecdhPublic se ++
    leBytes 2 s.boot.certPair.length ++ s.boot.certPair ++ leBytes 2 tok.length ++ tok
  let k := s.link l
  let k := { k with
    core := { k.core with phase := .agreeing, slot := d, pValid := true, pLink := x.link, pMember := x.partner,
                          initiator := true, attempt := attempt }
    agr := { nonce := nonce, kemSecret := sk, ecdhSecret := se, hello := msg, since := some s.now } }
  (s.setLink l k).openSend l x.partner d 1 a32 msg

/-- This end initiates with a partner: it has the lower member index. -/
def initiates (s : State) (d : Slot) (x : Decl) : Bool := decide ((s.dom d).member < x.partner)

/-- An Agreement starts on a link that is up and names a partner (R276); the end with the higher member index waits for
HELLO. A link whose LAS row is out of use attempts none (R188), and a partner that is OUT or UNREACHED is not named (R381). -/
def agreeStart (s : State) (l : LinkId) : State :=
  match s.declOf l with
  | none => s
  | some (d, x) =>
    let k := s.link l
    if !s.running || !s.linkOn l || !k.core.up || k.core.phase = .agreed || k.core.phase = .agreeing ||
        (s.row (rowLas l)).outOfUse || !s.named d x.partner then s
    else match s.agreeRefusal d with
    | some _ => s.abortSend l d x 1 agrState
    | none => if s.initiates d x then (s.sendHello l d x 1).rosterChange d else s

/-- The names of the partner and the attempt's values are forgotten. -/
def agrClear (s : State) (l : LinkId) : State :=
  s.modLink l fun k => { k with agr := {}, core := { k.core with pValid := false } }

/-- A queued TC0 group of a link that has lost its Agreement: a routed one takes its route anew (R402), one for this link
only is dropped, an OPEN one stays. -/
def requeueTc0 (s : State) (l : LinkId) (d : Slot) : State :=
  let q := (s.link l).tc0.queue
  let s := s.modLink l fun k => { k with tc0.queue := q.filter (·.isOpen) }
  (q.filter fun x => !x.isOpen && tc0Routed (byteAt x.payload 0) && byteAt x.payload 17 == 0).foldl (fun s x =>
    s.tc0Forward d (parseRoute x.payload) x.prio none x.payload) s

/-- The fabric requests outstanding on a link complete with ST_FABRIC_LINK, and those that wait for it (R429); queued
FABRIC groups of the link are not sent. -/
def fabLinkLost (s : State) (l : LinkId) : State :=
  let k := s.link l
  let ws := k.fabWait.map fun w =>
    ({ tag := 0, line := w.line, write := w.write, ctx := w.ctx, owner := w.owner, gone := false } : FabOut)
  let s := s.setLink l { k with fabOut := [], fabWait := [],
                                io := { k.io with txq := k.io.txq.filter fun x => x.kind != kindFabric } }
  (k.fabOut ++ ws).foldl (fun s o => s.fabEnd o stFabricLink none) s

/-- The 24 key rows and the LAS of a link are erased (R183). -/
def eraseLinkKeys (s : State) (l : LinkId) : State :=
  ((List.range 24).map fun i => 249 + 24 * l.toNat + i).foldl eraseRow (s.eraseRow (rowLas l))

/-- An end cause after which a new Agreement starts at once (Table 9-14). -/
def restarts (cause : BitVec 8) : Bool :=
  cause == endLost || cause == endStorm || cause == endTense || cause == endReset || cause == endKeyFault

/-- The end of an Agreement (R289). Every group in flight has its tag unit and receives the Verdict of its tag; a group cut
off in its arrival was never in flight (R51). -/
def endAgreement (s : State) (l : LinkId) (cause : BitVec 8) : State :=
  let k := s.link l
  if k.core.phase ≠ .agreed then s
  else
    let d := k.core.slot
    let s := k.io.flight.foldl (fun s g => s.judge l g) s
    let s := s.eraseLinkKeys l
    let s := s.modLink l fun k => { k with
      core := { k.core with
        phase := if k.core.up ∧ s.linkOn l then .up else .down
        lastEnd := cause
        tombLive := true
        tombLink := k.core.pLink
        tombMember := k.core.pMember
        pValid := false }
      tomb := { digest := k.agr.peerDigest, boot := k.agr.peerBoot, cause := cause, time := s.domTime d }
      agr := {}
      tenseTx := []
      tenseRx := []
      tc0 := { k.tc0 with gates := [] }
      io := { k.io with
        txSeq := []
        windows := []
        repTimes := []
        inst := k.io.inst + 1
        wire := if cause = endDown then [] else k.io.wire } }
    let s := s.linkEvent l lkevEnd
    let s := s.progLinkLost l
    let s := s.fabLinkLost l
    let s := s.requeueTc0 l d
    let s := s.rosterChange d
    if restarts cause then s.agreeStart l else s

/-- Check the storm rule after Verdicts on a link (R266). -/
def stormCheck (s : State) (l : LinkId) : State :=
  if s.stormDue l then (s.linkEvent l lkevStorm).endAgreement l endStorm else s

/-- Seal LINK_BYE with a cause ahead of any other group, where the link is AGREED, may send SEALED groups and holds a TC0
credit (R261, R283, R537). -/
def sendBye (s : State) (l : LinkId) (cause : BitVec 8) : State :=
  if (s.sealRow l 0).isSome ∧ 0 < s.txCredit l 0 then
    (s.txSeal l 0 kindSealed destControl 0 0 ([0x32, cause] ++ zeros 6) none).getD s
  else s

/-- Every AGREED link of a slot ends with a cause. -/
def endAgreements (s : State) (d : Slot) (cause : BitVec 8) : State :=
  (s.agreedLinks d).foldl (fun s l => s.endAgreement l cause) s

end State

/-- The end of a step that can have ended accesses or freed the fence. -/
def settled (s : State) : Host.Outcome State Fault Refusal := .next s.settleAll

end Sys2Proof.Machine
end

