-- ==== Sys2Proof/Machine/KeyOps.lean ====
section
/-! DEFINITION. Key indices and memory keys (R164, R165, R172, R223 to R225, R243, R505, R506), what follows when rows
are erased (R167, R168), signed meter reports (R561 to R567). -/

namespace Sys2Proof.Machine

namespace State

/-! ### Memory keys -/

/-- Write a memory key of 128 bytes into the four rows of an index (R165, Table 6-7). -/
def writeMemKey (s : State) (i : KeyIdx) (fut : Bool) (k : Bytes) (gen : BitVec 32) : State :=
  let p : KeyParent := if i = 0 then .none else .row (BitVec.ofNat 12 (rowIndex i))
  let d : Slot := if i = 0 then 0 else (s.memIdx i).slot
  [0, 1, 2, 3].foldl (fun (s : State) j =>
    s.writeKey (rowMemKey i fut + j) ((leBv 256 (slice k (32 * j) 32)).setWidth 288) p (if fut then 3 else 2) d gen) s

def memGen (s : State) (i : KeyIdx) : BitVec 32 := (s.row (rowMemKey i false)).gen

/-- k_data equal to k_tweak (R223). -/
def xtsEqual (k : Bytes) : Bool := slice k 0 32 == slice k 32 32

/-- Draw a clear key of 128 bytes, drawing again while k_data equals k_tweak (R223, R224). -/
def drawClear : Nat → State → Bytes × State
  | 0, s => ([], s)
  | f + 1, s =>
    let (a, s) := s.draw
    let (b, s) := s.draw
    let (c, s) := s.draw
    let (d, s) := s.draw
    let k := leBytes 32 a.toNat ++ leBytes 32 b.toNat ++ leBytes 32 c.toNat ++ leBytes 32 d.toNat
    if xtsEqual k then drawClear f (s.record recKeyXtsEqual 0) else (k, s)

/-- Draws tried before a clear key is given up; equal halves have odds of 2^-256 each time (log entry 26). -/
def clearTries : Nat := 8

/-- The 128 bytes of a generation of a memory key under an index secret (Table 6-1). -/
def memKeyBytes (s : State) (i : KeyIdx) (gen : BitVec 32) : Bytes :=
  kdf (s.keyBytes (rowIndex i) 32) "KX3-MEM" (leBytes 1 i.toNat ++ leBytes 4 gen.toNat) 1024

/-- Erase an index secret and its memory keys, ending a sweep of the index (R167, R252). -/
def dropIndexKeys (s : State) (i : KeyIdx) : State :=
  let s := s.keyInvalidateRow (rowIndex i)
  let x := s.memIdx i
  let s := s.setMemIdx i { x with sweeping := false, urgent := false, futureHeld := false }
  allChans.foldl (fun (s : State) c => s.modChan c fun k => { k with sweepPtr := Tab.set 0 k.sweepPtr i.toNat 0 }) s

/-- Derive the index secret of an index assigned to a slot, with a fresh index_nonce (R505), and the bytes of its first
memory key. -/
def assignOnce (s : State) (i : KeyIdx) (d : Slot) : Bytes × State :=
  let (n, s) := s.draw
  let nonce := leBytes 16 n.toNat
  let x := s.domainIdOf d ++ leBytes 1 i.toNat ++ nonce
  let secret := kdf (s.keyBytes (rowMember d) 32) "KX3-MEM-INDEX" x 256
  let s := { s with keys.nonces := Tab.set [] s.keys.nonces i.toNat nonce }
  let s := s.writeKey (rowIndex i) ((leBv 256 secret).setWidth 288) (.row (BitVec.ofNat 12 (rowMember d))) 0 d 0
  (s.memKeyBytes i 1, s)

/-- The index secret and its first memory key (R172, R505); again with a new nonce where k_data equals k_tweak (R223). -/
def assignSecret : Nat → State → KeyIdx → Slot → State
  | 0, s, _, _ => s
  | f + 1, s, i, d =>
    match s.assignOnce i d with
    | (k, s) =>
      if xtsEqual k then assignSecret f ((s.record recKeyXtsEqual i.toNat).dropIndexKeys i) i d
      else s.writeMemKey i false k 1

/-- Assign an index to a slot: its secret is derived where the slot holds a member secret; else the index is reserved
(R505, R506). -/
def assignIndex (s : State) (i : KeyIdx) (d : Slot) : State :=
  let s := s.setMemIdx i { s.memIdx i with assigned := true, slot := d }
  if s.hasMember d then assignSecret clearTries s i d else s

def keyIdxs : List KeyIdx := (List.range 15).map fun i => BitVec.ofNat 4 (i + 1)

/-- The member secret of a slot has been written: the secrets of its reserved indices follow (R506). -/
def deriveReserved (s : State) (d : Slot) : State :=
  keyIdxs.foldl (fun (s : State) i =>
    if (s.memIdx i).assigned && (s.memIdx i).slot == d && s.indexReserved i then assignSecret clearTries s i d else s) s

/-- An index becomes free (R505): its secret is invalidated and its written bits clear (R512). sweep_count counts since
por_b (Table 8-11). -/
def freeIndex (s : State) (i : KeyIdx) : State :=
  let s := (s.dropIndexKeys i).setMemIdx i { sweepCount := (s.memIdx i).sweepCount }
  let s := { s with keys.nonces := Tab.set [] s.keys.nonces i.toNat [] }
  allChans.foldl (fun (s : State) c => s.modChan c fun k => { k with written := setBitTo k.written i.toNat false }) s

/-- Derive the Future of an index and start its sweep (R243). -/
def startSweep (s : State) (i : KeyIdx) : State :=
  let gen := s.memGen i + 1
  let x := s.memIdx i
  if x.sweeping then s
  else
    let begin (s : State) : State :=
      let s := s.setMemIdx i { s.memIdx i with sweeping := true, futureHeld := false }
      (allChans.foldl (fun (s : State) c => s.modChan c fun k => { k with sweepPtr := Tab.set 0 k.sweepPtr i.toNat 0 })
        s).memPump
    if i = 0 then
      let (k, s) := drawClear clearTries s
      begin (s.writeMemKey 0 true k gen)
    else if !s.keyUsable (rowIndex i) then s
    else
      let k := s.memKeyBytes i gen
      if xtsEqual k then
        ((s.record recKeyXtsEqual i.toNat).dropIndexKeys i).assignIndex i x.slot
      else begin (s.writeMemKey i true k gen)

/-- Every enabled channel's pointer has reached its lines (R250, R251). -/
def sweepDone (s : State) (i : KeyIdx) : Bool :=
  allChans.all fun c => !s.mcServes c || decide ((s.chan c).lines.toNat * 4096 ≤ (s.sweepPtrOf c i).toNat)

/-- The Future becomes Present, the old Present being erased (R172, R250). -/
def endSweep (s : State) (i : KeyIdx) : State :=
  let s := [0, 1, 2, 3].foldl (fun (s : State) j =>
    let p := rowMemKey i false + j
    let f := rowMemKey i true + j
    let o := s.row p
    let s := if o.outOfUse then s else s.setRow p { s.row f with tense := 2, spared := o.spared, outOfUse := false }
    s.eraseRow f) s
  let x := s.memIdx i
  let s := s.setMemIdx i { x with sweeping := false, urgent := false, sweepCount := satInc x.sweepCount }
  let s := if 2 ^ 44 - 2 ^ 40 ≤ (s.row (rowMemKey i false)).use.toNat then s.startSweep i else s
  s.memPump

/-! ### What follows when rows are gone (R167, R168, R481) -/

/-- The staging session of a function ends: its rows go, a rolling direction's STG_REKEY completes with ST_KEY_ORPHAN. -/
def sessEnd (s : State) (f : Fn) : State :=
  let z := s.sessOf f
  let s := ((s.keyInvalidateRow (rowSss f)).eraseRow (rowStage f 0)).eraseRow (rowStage f 1)
  let fail (s : State) (r : Option Rekey) : State := match r with
    | none => s
    | some r => s.cmdResult r.ctx 1 r.k stKeyOrphan 0
  let s := fail (fail s z.rekeyIn) z.rekeyOut
  s.modSess f fun _ => { pend := z.pend }

def allFns : List Fn := (List.range 256).map (BitVec.ofNat 8)

/-- Ends what rested on keys that are gone: Agreements (cause ORPHAN), staging sessions, programs and sweeps. -/
def orphanEffects (s : State) : State :=
  let s := allLinks.foldl (fun (s : State) l =>
    if (s.link l).core.phase = .agreed ∧ !s.keyUsable (rowLas l) then s.endAgreement l endOrphan else s) s
  let s := allFns.foldl (fun (s : State) f =>
    if (s.sessOf f).opened ∧ !s.keyUsable (rowSss f) then s.sessEnd f else s) s
  let s := s.progsInUse.foldl (fun (s : State) p =>
    if (s.prog p).phase ≠ .ended ∧ !s.keyUsable (rowProg p) then s.endProg p stKeyOrphan else s) s
  let s := keyIdxs.foldl (fun (s : State) i =>
    let x := s.memIdx i
    if (x.sweeping ∨ x.futureHeld ∨ x.urgent) ∧ !s.keyUsable (rowIndex i) then
      s.setMemIdx i { x with sweeping := false, urgent := false, futureHeld := false }
    else s) s
  s.memPump

/-- What follows the invalidation of a row: an index whose secret is invalidated becomes free (R225), and what rested on keys
that are gone ends. -/
def orphanFollow (s : State) (r : Nat) : State :=
  (if 42 ≤ r ∧ r ≤ 56 then s.freeIndex (BitVec.ofNat 4 (r - 41)) else s).orphanEffects

/-- Invalidate a row with everything that follows. -/
def invalidateKey (s : State) (r : Nat) : State := (s.keyInvalidateRow r).orphanFollow r

/-! ### Meter reports (R561 to R567) -/

/-- Units a meter counts in (Table 19-5). -/
def meterUnit (m : Nat) : Nat := if m = 24 then 1 else if m = 25 then 1024 else 256

def meterVal (x : Mtr) (m : Nat) : Nat := Nat.min (Tab.get 0 x.counts m / meterUnit m) (2 ^ 64 - 1)

/-- A meter of the slot has saturated. -/
def meterSat (x : Mtr) : Bool := x.counts.any fun e => decide (2 ^ 64 - 1 ≤ e.2 / meterUnit e.1)

/-- Bytes 0 to 343 of a report without boot and alias_digest, which the signing start fills in (Table 19-6). -/
def meterBody (s : State) (d : Slot) (tBound : BitVec 64) (late final after : Bool) (skipped : Nat) : Bytes :=
  let x := s.mtr d
  let flags : Byte := b2w (!x.takenAny) 8 ||| (b2w late 8 <<< 1) ||| (b2w final 8 <<< 2) ||| (b2w after 8 <<< 3) |||
    (b2w (meterSat x || x.sat) 8 <<< 4)
  let v (m : Nat) : Bytes := leBytes 8 (meterVal x m)
  leBytes 4 0x524D584B ++ leBytes 2 1 ++ zeros 2 ++ s.domainIdOf d ++ leBytes 4 (s.dom d).member.toNat ++
    [d.setWidth 8, flags] ++ leBytes 2 (Nat.min skipped 65535) ++ leBytes 4 s.pwr.run.toNat ++ leBytes 4 x.seq.toNat ++
    zeros 8 ++ leBytes 8 x.tPrev.toNat ++ leBytes 8 tBound.toNat ++ leBytes 8 x.utc.toNat ++
    ((List.range 15).flatMap fun i => v (i + 1)) ++ ((List.range 8).flatMap fun i => v (16 + i)) ++ v 24 ++ v 25 ++ v 26 ++
    v 27 ++ leBytes 8 x.energy.toNat

/-- Sign a report and write it in the name of the PF (R566, R567). -/
def meterSend (s : State) (d : Slot) (body : Bytes) : State :=
  let b := body.take 40 ++ leBytes 8 s.boot.boot.toNat ++ slice body 48 248 ++ s.aliasDigest ++ zeros 24
  let n := leAt body 36 4
  (s.hostWrite 0 ((s.mtr d).rpt + BitVec.ofNat 64 (8192 * (n % 4))) (b ++ s.aliasSign "KX3-METER" b)).msiPf

/-- Deliver what is held while the staging port is on. -/
def meterDeliver (s : State) (d : Slot) : State :=
  if s.running && s.portOn portStaging && s.aliasUsable then
    let hs := (s.mtr d).heldReports
    let s := s.modMtr d fun x => { x with heldReports := [] }
    hs.foldl (fun s h => s.meterSend d h.body) s
  else s

def meterDeliverAll (s : State) : State := slots.foldl meterDeliver s

/-- Take a snapshot; the report waits in the meter SRAM, four a slot at most. -/
def meterTake (s : State) (d : Slot) (tBound : BitVec 64) (late final after : Bool) (skipped : Nat) : State :=
  let h : HeldReport := { body := s.meterBody d tBound late final after skipped }
  s.modMtr d fun x =>
    let excess := decide (4 ≤ x.heldReports.length)
    { x with
      heldReports := (if excess then x.heldReports.drop 1 else x.heldReports) ++ [h]
      rptDropped := x.rptDropped || excess
      seq := x.seq + 1
      tPrev := tBound
      takenAny := true
      last := if final then x.last else tBound
      boundAny := x.boundAny || !final
      late := false }

/-- The period between boundaries, in ns (R564). -/
def periodNs (x : Mtr) : Nat := x.period.toNat * 1000000

/-- The periodic boundaries passed after T, of which the latest is taken and the others are skipped (R564). -/
def skippedAt (s : State) (d : Slot) (T : BitVec 64) : Nat :=
  let now := s.domTime d
  let p := periodNs (s.mtr d)
  if p = 0 ∨ now ≤ T then 0 else (now - T).toNat / p

/-- The boundary taken when that many are skipped. -/
def boundAt (s : State) (d : Slot) (T : BitVec 64) (skipped : Nat) : BitVec 64 :=
  T + BitVec.ofNat 64 (skipped * periodNs (s.mtr d))

/-- The final snapshot of a slot (R565). -/
def meterFinal (s : State) (d : Slot) (after : Bool) : State :=
  if s.slotHeld d then
    (s.meterTake d (s.domTime d) false true after 0).modMtr d fun x => { x with pendingT := none }
  else s

/-- The slot leaves FREE: its meters start at 0 (R561). What concerns the run, and the registers, stand. -/
def meterRestart (s : State) (d : Slot) : State :=
  s.modMtr d fun x => { x with counts := [], energy := 0, seq := 0, tPrev := 0, takenAny := false, sat := false }

end State

end Sys2Proof.Machine
end

