-- ==== Sys2Proof/Machine/ResetOps.lean ====
section
/-! DEFINITION. Resets: Semicolon, Colon, Full Stop, Ellipsis and their escalation (R532 to R539, R547), forced domain
exit (R154) and the freeing of a domain slot (R515). -/

namespace Sys2Proof.Machine

/-! ### Engines of Table 18-1 -/

/-- The engine that carries a class. -/
def engineOfClass (k : Nat) : Nat :=
  if k = 1 then engFill else if k = 2 then engCrypto else if k = 3 then engStaging else if k = 4 then engRed else engTrust

namespace State

/-- A memory cluster, or a link cluster, by its engine number. -/
def engChan (e : Nat) : ChanId := BitVec.ofNat 5 e
def engLinkOf (e : Nat) : LinkId := BitVec.ofNat 6 (e - 32)

/-- The context has work on an engine. -/
def onEngine (s : State) (e : Nat) (c : CtxId) : Bool :=
  if e < 32 then
    (s.mem.out.any fun q => q.ch == engChan e && !q.discard && masterCtx q.master == some c) ||
      (s.mem.waits.any fun w => dpaChan w.dpa == engChan e && masterCtx w.master == some c) ||
      s.mem.fence.any fun w => dpaChan w.dpa == engChan e && masterCtx w.master == some c
  else if e < 96 then
    let k := s.link (engLinkOf e)
    (k.io.txq.any fun x => x.ctx == some c) || (k.fabWait.any fun w => w.ctx == c) ||
      (k.fabOut.any fun o => o.ctx == c && !o.gone) || k.io.flight.any fun g => c ∈ g.consumers
  else if e = engArbiter then s.fe.cmds.any fun x => x.ctx == c && x.phase == .ready
  else
    (s.fe.cmds.any fun x => x.ctx == c && x.phase == .running && engineOfClass (classOf x.opcode) == e) ||
      (e == engRed && (s.progsOf c).any fun p => !(s.prog p).iters.isEmpty)

/-- The fabric checker discards its records not yet offered, empties its cache and ends the Agreements concerned
(Table 14-6). -/
def resetChecker (s : State) : State :=
  let ls := s.fab.queue.map (·.link)
  let f := s.fab
  let s := { s with fab := { f with queue := [], cache := [], misses := [] } }
  ls.eraseDups.foldl (fun (s : State) l => s.endAgreement l endReset) s

/-- A mailbox request in progress is written back with ST_CANCELLED (Table 18-3). -/
def mbxCancel (s : State) (f : Fn) : State :=
  let m := (s.func f).mbx
  if !m.busy then s
  else
    let x := Config.mbxHead s.freeCtr
    let s := { s with freeCtr := s.freeCtr + 1 }
    let s := s.hostWrite f m.rsp (leBytes 2 x.1.toNat ++ leBytes 2 stCancelled.toNat ++ zeros 4 ++ leBytes 8 x.2.toNat)
    let s := s.modFunc f fun k => { k with mbx := { k.mbx with
      busy := false, taken := false, done := true, status := stCancelled, rspLen := 16 } }
    s.msi f m.vector

/-- The engine rules of a Semicolon (R532). -/
def engineRules (s : State) (e : Nat) : State :=
  if e < 32 then s.memDiscard fun _ d => dpaChan d == engChan e
  else if e < 96 then
    let l := engLinkOf e
    let s := s.endAgreement l endReset
    let hs := (s.link l).io.held
    let s := s.modLink l fun k => { k with io := { k.io with held := [], txq := [] } }
    hs.foldl (fun (s : State) g => s.creditReturn l g.cls) s
  else if e = engRed then
    if s.poolRole then s.resetChecker else s.progsInUse.foldl (fun (s : State) p => s.resetProg p true) s
  else if e = engTrust then allFns.foldl mbxCancel s
  else s

/-- The contexts with work on an engine take Comma, with a cause of their own or ENGINE_RESET; the engine's work is
discarded (R532). `own` says whose cause is another. -/
def semicolonWork (s : State) (e : Nat) (own : CtxId → Cause) : State :=
  let cs := s.liveCtxs.filter (s.onEngine e)
  let s := cs.foldl (fun (s : State) c => s.commaInner c (own c)) s
  let s := s.engineRules e
  s.modEng e fun g => { g with idleRun := 0, resetting := false, sampled := g.progress }

/-- A Semicolon, whole. -/
def semicolon (s : State) (e : Nat) (cause : Cause) (escalated : Bool) (own : CtxId → Cause) : State :=
  let cs := s.liveCtxs.filter (s.onEngine e)
  ((s.semicolonWork e own).resetRecord lvlSemicolon escalated cause (BitVec.ofNat 10 e)).resetTraces lvlSemicolon cause
    (BitVec.ofNat 10 e) escalated cs

def plainCause : CtxId → Cause := fun _ => causeEngineReset

/-- A Colon, whole (R532, R533): bindings stay (R520), a sweep goes on (R252). -/
def colon (s : State) (v : VdId) (cause : Cause) (escalated : Bool) : State :=
  let cs := s.liveCtxs.filter fun c => (s.ctx c).vd == some v
  let s := cs.foldl (fun (s : State) c => s.commaInner c causePartitionReset) s
  let chans := (s.vdev v).chans
  let s := s.memDiscard fun m d => chans.getLsbD (dpaChan d).toNat && m != .trustCore && m != .sweep
  let ps := s.progsInUse.filter fun p => (s.prog p).vd == v || (s.vdev v).progs.getLsbD p.toNat
  let s := ps.foldl (fun (s : State) p => s.resetProg p true) s
  (s.resetRecord lvlColon escalated cause (v.setWidth 10)).resetTraces lvlColon cause (v.setWidth 10) escalated cs

/-! ### Full Stop and Ellipsis -/

/-- Functions whose Function Level Reset is not acknowledged yet. -/
def flrOwed (s : State) : List Fn := s.sys.flrEarly ++ allFns.filter fun f => (s.func f).flrPending

/-- A switch of each multiplexer counts once (Table 3-8). -/
def addSwitch (c : LinkClk) (n : Nat) : LinkClk := { c with switchCount := BitVec.ofNat 8 (Nat.min 255 (c.switchCount.toNat + n)) }

/-- Both multiplexers of a link go to the fallback, until lk_up has been sampled low (R89, R91). -/
def clkFall (k : Link) : LinkClk :=
  { addSwitch k.clk (k.clk.rxSel.toNat + k.clk.txSel.toNat) with rxSel := false, txSel := false, needDown := k.core.up }

/-- What a Full Stop leaves of a link: its pins, its clocks and the counts since por_b (R92, R293, R604). -/
def stopLink (k : Link) : Link :=
  { core := { up := k.core.up, agreeCount := k.core.agreeCount, reappear := k.core.reappear }, clk := clkFall k }

def stopCluster (c : LaneCluster) : LaneCluster :=
  { retired := c.retired, ghashRetired := c.ghashRetired, mismatchCount := c.mismatchCount,
    patrolFailCount := c.patrolFailCount }

def stopEng (g : FltEng) : FltEng := { stallCount := g.stallCount, guiltyCount := g.guiltyCount }

/-- What a Full Stop leaves of the Memory Region: the counts since por_b (Tables 8-6, 8-11, R604), and the requests whose
responses are owed, to be accepted and discarded (R35). -/
def stopMem (m : Mem) : Mem :=
  { highWater := m.highWater
    idx := Tab.mapAll {} (fun _ x => { sweepCount := x.sweepCount }) m.idx
    out := (m.out.filter fun q => !q.isMerged).map fun q => { q with discard := true } }

/-- Snapshots at the start of a Full Stop: a boundary that is due, then the final one (R565, Table 19-7). -/
def stopMeters (s : State) : State :=
  slots.foldl (fun (s : State) d =>
    let s := match (s.mtr d).pendingT with
      | some (t, _) =>
        if s.slotHeld d && decide (t ≤ s.domTime d) then
          s.meterTake d (s.boundAt d t (s.skippedAt d t)) (s.mtr d).late false true (s.skippedAt d t)
        else s
      | none => s
    s.meterFinal d true) s

/-- The throttle durations with the reasons in force counted up to now (R556). -/
def thrNow (s : State) : Tab (BitVec 64) :=
  (List.range 6).foldl (fun t k =>
    if s.pwr.inForce.getLsbD k then Tab.set 0 t k (Tab.get 0 t k + (s.now - Tab.get 0 s.pwr.since k)) else t) s.pwr.thr

/-- The level of role_sel at the start of a Full Stop: what the step carries, else a free value (R11, R73; log entry 52). -/
def roleAt (s : State) (role : Option (BitVec 1)) : BitVec 1 := role.getD (Config.roleSel s.freeCtr)

/-- The block as a Full Stop leaves it (R93, R604): registers at reset but for those kept since por_b, enables off but for
the tray's, every key erased, every queue empty. -/
def stopState (s : State) (role : Option (BitVec 1)) : State :=
  { sys := { s.sys with phase := .fullStop, pmLimPending := [], flrEarly := s.flrOwed,
                         straps := { s.sys.straps with roleSel := s.roleAt role } }
    glb := { role := s.roleAt role, peCount := s.glb.peCount }
    clk := { enPort := s.clk.enPort &&& 0x20, mcUnlocked := s.clk.mcUnlocked, deliveryUnlocked := s.clk.deliveryUnlocked }
    boot := { afterPor := s.boot.afterPor }
    otp := s.otp
    keys := { rows := Tab.mapAll {} (fun _ r => blankRow r) s.keys.rows, sparesUsed := s.keys.sparesUsed }
    lanes := { clusters := Tab.mapAll {} (fun _ c => stopCluster c) s.lanes.clusters, ghashTimes := s.lanes.ghashTimes }
    mem := stopMem s.mem
    fe := { dmaReads := Tab.mapAll none (fun _ e => e.map fun r => { r with gone := true }) s.fe.dmaReads }
    links := Tab.mapAll {} (fun _ k => stopLink k) s.links
    flt := {
      health := { coldCore := s.flt.health.coldCore, kept := s.flt.health.grade }
      last := s.flt.last
      countComma := s.flt.countComma
      countSemicolon := s.flt.countSemicolon
      countColon := s.flt.countColon
      countFullStop := s.flt.countFullStop
      eng := Tab.mapAll {} (fun _ g => stopEng g) s.flt.eng
      stamps := s.flt.stamps
      timingMem := s.flt.timingMem
      timingLink := s.flt.timingLink
      timingSvc := s.flt.timingSvc }
    tray := s.tray
    pwr := {
      blkEnergy := s.pwr.blkEnergy
      blkEnergyRem := s.pwr.blkEnergyRem
      blkActivity := s.pwr.blkActivity
      run := s.pwr.run
      thr := s.thrNow
      mtrs := Tab.mapAll {} (fun _ x => { heldReports := x.heldReports, last := x.last, boundAny := x.boundAny,
                                               rptDropped := x.rptDropped })
        s.pwr.mtrs }
    isl := { s.isl with lock := false, tamperAtStart := false, restore := none }
    tel := { counters := s.tel.counters }
    freeCtr := s.freeCtr + 1
    outs := s.outs
    pending := s.pending }

/-- The Full Stop's own acts on the ports: LINK_BYE on each AGREED link (R537), cd_flush (R58). -/
def stopPorts (s : State) : State :=
  let s := allLinks.foldl (fun (s : State) l => s.sendBye l endReset) s
  if s.poolRole then s else s.out .cdFlush

def fullRun (cause : Cause) : ResetRun := { level := lvlFullStop, target := 0, cause := cause }

/-- Enter Full Stop (R532); every other reset ends as part of it (Table 18-5). -/
def enterStop (s : State) (cause : Cause) (escalated : Bool) (role : Option (BitVec 1)) : State :=
  let s := (s.stopMeters.stopPorts).stopState role
  let s := s.resetRecord lvlFullStop escalated cause 0
  { s with flt.resets := [fullRun cause] }

/-- Report grade Black on the tray with a reason, and hold POWER_CYCLE (R67 to R69, R547). -/
def holdBlack (s : State) (cause : Cause) (escalated : Bool) : State :=
  let f := s.flt
  let s := { s with sys.phase := .ellipsis, flt := { f with
    health := { f.health with grade := 3, request := 3 }
    last := { level := lvlEllipsis, escalated := escalated, cause := cause, target := 0 }
    resets := [] } }
  let t := s.tray
  let s := { s with tray := { t with grade := 3, request := 3, reason := cause, ellipsisCount := satInc t.ellipsisCount } }
  s.trayPost trayPowerCycle

/-- The block is not in Full Stop, Ellipsis or reset: a Full Stop can begin, from the settle delay on (R72, R108, R539). -/
def canStop (s : State) : Bool :=
  match s.sys.phase with
  | .held => false
  | .settle => true
  | .fullStop => false
  | .ellipsis => false
  | .waitRef => true
  | .running => true
  | .failed => true

/-- An Ellipsis: the Full Stop of Table 18-3, and no start-up after it (R547). -/
def ellipsis (s : State) (cause : Cause) (escalated : Bool) (role : Option (BitVec 1)) : State :=
  if s.sys.phase = .ellipsis then s
  else if s.canStop then (s.enterStop cause escalated role).holdBlack cause escalated
  else s.holdBlack cause escalated

/-- The causes whose Full Stops R536 does not count. -/
def stopCounted (cause : Cause) : Bool := cause != causeSysReset && cause != causeHostRequest && cause != causeLcTransition

/-- A Full Stop with a cause. The third counted one within 10 s of block time is an Ellipsis (R536). A fault raised during
a Full Stop is recorded only (Table 18-5). -/
def fullStop (s : State) (cause : Cause) (escalated : Bool) (role : Option (BitVec 1)) : State :=
  if !s.canStop then (if s.sys.phase = .fullStop ∨ s.sys.phase = .ellipsis then s.record cause 0 else s)
  else if stopCounted cause then
    let stamps := (s.now :: s.flt.stamps).take 3
    let s := { s with flt.stamps := stamps }
    if stamps.length = 3 ∧ (s.now - stamps.getLastD 0).toNat ≤ 10000000000 then s.ellipsis causeStopRepeat false role
    else s.enterStop cause escalated role
  else s.enterStop cause escalated role

/-! ### Black while running (R546) -/

/-- The block enters Black while it runs: the grade change, then Full Stop. -/
def blackStop (s : State) (cause : Cause) (role : Option (BitVec 1)) : State :=
  if s.running then (s.setGrade 3).fullStop cause false role else s

/-! ### Resets in progress (R535, R539) -/

/-- A reset of a level and target runs, or one that covers it. -/
def covered (s : State) (lvl : BitVec 3) (target : BitVec 10) : Bool :=
  s.flt.resets.any fun r =>
    (r.level == lvl && r.target == target) || r.level == lvlFullStop ||
      (lvl == lvlComma && ((r.level == lvlColon && ((s.ctx target).vd.map fun v => v.setWidth 10) == some r.target) ||
        (r.level == lvlSemicolon && s.onEngine r.target.toNat target)))

def addRun (s : State) (lvl : BitVec 3) (target : BitVec 10) (cause : Cause) : State :=
  { s with flt.resets := s.flt.resets ++ [{ level := lvl, target := target, cause := cause }] }

def dropRun (s : State) (lvl : BitVec 3) (target : BitVec 10) : State :=
  { s with flt.resets := s.flt.resets.filter fun r => !(r.level == lvl && r.target == target) }

/-- A reset that hangs: its first act stands, its work is still held (Table 18-4 decides what follows). -/
def hangComma (s : State) (c : CtxId) (cause : Cause) : State :=
  (s.modCtx c fun k => { k with phase := .resetting, cause := cause, sq := emptyRings k.sq, cancelled := [] }).addRun
    lvlComma c cause

def hangSemicolon (s : State) (e : Nat) (cause : Cause) : State :=
  (s.modEng e fun g => { g with resetting := true }).addRun lvlSemicolon (BitVec.ofNat 10 e) cause

def hangColon (s : State) (v : VdId) (cause : Cause) : State :=
  let cs := s.liveCtxs.filter fun c => (s.ctx c).vd == some v
  (cs.foldl (fun (s : State) c => s.modCtx c fun k =>
    { k with phase := .resetting, cause := causePartitionReset, sq := emptyRings k.sq, cancelled := [] }) s).addRun lvlColon
    (v.setWidth 10) cause

/-- The virtual device a memory or link cluster is bound to. -/
def clusterVd (s : State) (e : Nat) : Option VdId :=
  if e < 32 then s.chanVd (engChan e) else if e < 96 then s.linkVd (engLinkOf e) else none

/-- The end of a Comma whose context is left RESETTING by a reset that has hung. -/
def commaFinish (s : State) (c : CtxId) : State :=
  if (s.ctx c).phase = .resetting then
    (((s.discardWork c).commaEnd c).resetRecord lvlComma true (s.ctx c).cause c)
  else s

/-- Escalate a hung reset (Table 18-4). -/
def escalate (s : State) (lvl : BitVec 3) (target : BitVec 10) (role : Option (BitVec 1)) : State :=
  let s := (s.dropRun lvl target).fltEvent fevEscalated
  if lvl = lvlComma then
    let es := (List.range 102).filter fun e => s.onEngine e target
    let s := es.foldl (fun (s : State) e => s.semicolon e causeEscalated true fun c =>
      if c = target then (s.ctx target).cause else causeEngineReset) s
    s.commaFinish target
  else if lvl = lvlSemicolon then
    match s.clusterVd target.toNat with
    | some v =>
      let s := (s.colon v causeEscalated true).semicolonWork target.toNat plainCause
      s
    | none => s.fullStop causeEscalated true role
  else if lvl = lvlColon then s.fullStop causeEscalated true role
  else s.ellipsis causeEscalated true role

/-! ### Requested resets (R538) -/

/-- A target of a Comma exists: the context is not FREE. -/
def ctxExists (s : State) (c : CtxId) : Bool := (s.ctx c).phase != .free

def requestComma (s : State) (c : CtxId) (completes : Bool) : State :=
  if s.covered lvlComma c then s
  else if completes then s.comma c causeHostRequest else s.hangComma c causeHostRequest

def requestSemicolon (s : State) (e : Nat) (completes : Bool) : State :=
  if s.covered lvlSemicolon (BitVec.ofNat 10 e) then s
  else if completes then s.semicolon e causeHostRequest false plainCause else s.hangSemicolon e causeHostRequest

def requestColon (s : State) (v : VdId) (completes : Bool) : State :=
  if s.covered lvlColon (v.setWidth 10) then s
  else if completes then s.colon v causeHostRequest false else s.hangColon v causeHostRequest

/-! ### Freeing a domain slot -/

/-- A message put on the wire at once where its link has a credit and may send SEALED groups, else queued (R283, Table 5-7,
order 1). -/
def tc0SendNow (s : State) (d : Slot) (type : Byte) (dst : Member) (msg : Bytes) : State :=
  let k := s.dom d
  let r : Route := { dst := dst, src := k.member, hops := 0, scope := 0, hall := 0, transfer := k.transfer }
  match s.tc0Route d dst with
  | .link l =>
    if 0 < s.txCredit l 0 ∧ (s.sealRow l 0).isSome then
      let s := s.setDom d { k with transfer := k.transfer + 1 }
      (routedFragments type r msg).foldl (fun s p => (s.txSeal l 0 kindSealed destControl 0 0 p none).getD s) s
    else s.tc0Send d type dst 0 0 msg
  | _ => s.tc0Send d type dst 0 0 msg

/-- Protected ranges of a freed slot are released (R236). -/
def freeRanges (s : State) (d : Slot) : State :=
  let m := s.mem
  { s with mem := { m with ranges := Tab.mapAll {} (fun _ r => if r.owner = d then { r with enable := false } else r) m.ranges } }

/-- A freed slot's fabric table cache entries go (R437); a cache key is slot × 2^22 + page. -/
def freeFabric (s : State) (d : Slot) : State :=
  let f := s.fab
  { s with fab := { f with
      cache := f.cache.filter fun e => e.1 / 2 ^ 22 != d.toNat
      misses := f.misses.filter fun x => x.1 != d } }

/-- The virtual devices of a freed slot stand without slot and without key indices (R515). -/
def freeVds (s : State) (d : Slot) : State :=
  let v := s.vd
  { s with vd := { v with vds := Tab.mapAll {} (fun _ x => if x.slot = some d then { x with slot := none, keys := 0 } else x)
                                   v.vds } }

/-- Mark a slot free (R166, R515, R565): its root goes, and with it every key below. The event bits stand. -/
def freeSlot (s : State) (d : Slot) : State :=
  if !s.slotHeld d then s
  else
    let s := (s.meterFinal d false).meterDeliver d
    let s := (s.eraseSubtree (.slotRoot d)).orphanEffects
    let s := keyIdxs.foldl (fun (s : State) i =>
      if (s.memIdx i).assigned && (s.memIdx i).slot == d then s.freeIndex i else s) s
    let s := ((s.freeRanges d).freeFabric d).freeVds d
    let s := s.setDom d { event := (s.dom d).event, time := { stepped := (s.dom d).time.stepped } }
    if s.boot.certPair.isEmpty then s else s.reissueCert

/-- The virtual devices bound to a slot. -/
def vdsOf (s : State) (d : Slot) : List VdId :=
  (s.vd.vds.filter fun e => e.2.present && e.2.slot == some d).map fun e => BitVec.ofNat 6 e.1

/-- Orders 2 to 4 of Table 5-7. -/
def exitTail (s : State) (d : Slot) : State :=
  let s := (s.vdsOf d).foldl (fun (s : State) v => s.colon v causeDomainExit false) s
  (s.invalidateKey (rowMember d)).freeSlot d

/-- Order 1: the departure to the slot's Hall Manager. -/
def exitDepart (s : State) (d : Slot) : State :=
  let k := s.dom d
  if k.phase = .member ∨ k.phase = .fragment then
    s.tc0SendNow d 0x46 k.hallManager (leBytes 4 k.member.toNat ++ zeros 4)
  else s

/-- Forced domain exit of one slot (Table 5-7). -/
def forcedExit (s : State) (d : Slot) : State := if !s.slotHeld d then s else (s.exitDepart d).exitTail d

def forcedExitAll (s : State) : State := slots.foldl forcedExit s

/-- The first Colon of a forced domain exit: its slot and its virtual device. -/
def exitColon (s : State) : Option (Slot × VdId) :=
  (slots.filter s.slotHeld).findSome? fun d => ((s.vdsOf d)[0]?).map fun v => (d, v)

/-- A forced domain exit whose first Colon hangs: the slots before it have left, and the departure of its own is sent (R157). The
Colon's watchdog decides what follows (Table 18-4). -/
def exitHang (s : State) (x : Slot × VdId) : State :=
  let s := (slots.filter fun d => decide (d.toNat < x.1.toNat)).foldl forcedExit s
  (s.exitDepart x.1).hangColon x.2 causeDomainExit

end State

end Sys2Proof.Machine
end

