-- ==== Sys2Proof/Machine/BindOps.lean ====
section
/-! DEFINITION. Memory objects (R459 to R463) and the binding table (R504 to R522). -/

namespace Sys2Proof.Machine

def Obj.handle (c : CtxId) (n : BitVec 12) (o : Obj) : BitVec 32 := (c ++ o.reuse ++ n : BitVec 32)

namespace State

/-! ### Objects -/

/-- The live objects of a context, with their numbers. -/
def objsOf (s : State) (c : CtxId) : List (Nat × Obj) :=
  (s.fe.objs.filter fun e => e.1 / 4096 == c.toNat && e.2.live).map fun e => (e.1 % 4096, e.2)

/-- The object a recorded translation names has been unmapped since (R461). -/
def staleTrans (s : State) (t : Trans) : Bool :=
  let o := s.obj t.ctx t.num.toNat
  !o.live || o.reuse != t.reuse || decide (t.gen < o.mapGen)

/-- A RUNNING command names an object. -/
def namedRunning (s : State) (c : CtxId) (n : Nat) (reuse : BitVec 10) : Bool :=
  s.fe.cmds.any fun x => x.phase == .running && x.opcode != 0x0005 &&
    x.trans.any fun t => t.ctx == c && t.num.toNat == n && t.reuse == reuse

/-- Unmap an object: its number is free, its reuse count rises, and so does the context's generation (R461, R462). -/
def unmapObj (s : State) (c : CtxId) (n : Nat) : State :=
  (s.setObj c n { reuse := (s.obj c n).reuse + 1 }).modCtx c fun k => { k with transGen := k.transGen + 1 }

/-- RUNNING commands that name an object stop at their next stopping point with ST_STALE (Table 17-4). -/
def staleRunning (s : State) (c : CtxId) (n : Nat) (reuse : BitVec 10) : State :=
  let cs := s.fe.cmds.map fun x =>
    if x.phase = .running ∧ x.result = none ∧ (x.trans.any fun t => t.ctx == c && t.num.toNat == n && t.reuse == reuse) then
      { x with result := some (stStale, 0), blocks := 0, csKey := none }
    else x
  { s with fe.cmds := cs }

/-- Unmap an object because a resource it rests on has gone. -/
def dropObj (s : State) (c : CtxId) (n : Nat) : State := (s.staleRunning c n (s.obj c n).reuse).unmapObj c n

/-- Unmap every object of a virtual device's contexts that a predicate selects. -/
def dropObjs (s : State) (v : VdId) (p : Obj → Bool) : State :=
  (s.liveCtxs.filter fun c => (s.ctx c).vd == some v).foldl (fun (s : State) c =>
    ((s.objsOf c).filter fun e => p e.2).foldl (fun (s : State) e => s.dropObj c e.1) s) s

/-- A LOCAL object's range touches a channel of 2^38 bytes. -/
def touches (o : Obj) (ch : ChanId) : Bool :=
  !o.fabric && decide (o.target.toNat < (ch.toNat + 1) * 2 ^ 38) && decide (ch.toNat * 2 ^ 38 < o.target.toNat + o.size.toNat)

/-- A translated range, or the object it lies in, touches a channel. -/
def transTouches (s : State) (ch : ChanId) (t : Trans) : Bool :=
  touches { target := t.target, size := BitVec.ofNat 64 t.len, fabric := t.fabric } ch ||
    (!s.staleTrans t && touches (s.obj t.ctx t.num.toNat) ch)

/-! ### Removal (R510) -/

/-- An open iteration that reads or writes where a predicate holds faults with PROG_MEM. -/
def faultMem (s : State) (v : VdId) (p : Trans → Bool) : State :=
  (s.progsInUse.filter fun q => (s.prog q).vd == v).foldl (fun (s : State) q =>
    (s.prog q).iters.foldl (fun (s : State) it =>
      match it.go with
      | none => s
      | some g => if (g.src.any p) || (g.dst.any p) then s.faultIter q it.num.toNat progMem stProgFault true else s) s) s

/-- PROG_UNLOAD's effect on a slot (Table 11-1). -/
def unloadProg (s : State) (p : ProgId) : State := (s.faultOpen p progUnload stProgFault true).freeProg p

def removeChan (s : State) (v : VdId) (ch : ChanId) : State :=
  let s := s.faultMem v (s.transTouches ch)
  let s := s.dropObjs v fun o => touches o ch
  s.modVdev v fun x => { x with chans := setBitTo x.chans ch.toNat false }

def removeLink (s : State) (v : VdId) (l : LinkId) : State :=
  let s := s.dropObjs v fun o => o.fabric && o.links.contains l
  let s := (s.progsInUse.filter fun q => (s.prog q).vd == v).foldl (fun (s : State) q =>
    match (s.prog q).desc with
    | none => s
    | some d => if d.stages.any fun st => st.inLinks.getLsbD l.toNat || st.outLinks.getLsbD l.toNat then
        s.faultOpen q progLink stProgFault true else s) s
  s.modVdev v fun x => { x with links := setBitTo x.links l.toNat false }

/-- Any virtual device binds the index. -/
def indexBound (s : State) (i : KeyIdx) : Bool := s.vd.vds.any fun e => e.2.present && e.2.keys.getLsbD i.toNat

def removeIndex (s : State) (v : VdId) (i : KeyIdx) : State :=
  let s := s.faultMem v fun t => !t.fabric && t.key == i
  let s := s.dropObjs v fun o => !o.fabric && o.key == i
  let s := s.modVdev v fun x => { x with keys := setBitTo x.keys i.toNat false }
  if s.indexBound i then s else (s.freeIndex i).memPump

def removeProg (s : State) (v : VdId) (p : ProgId) : State :=
  (s.unloadProg p).modVdev v fun x => { x with progs := setBitTo x.progs p.toNat false }

/-! ### Crossing between domains (R512 to R514) -/

/-- The crypto-erase of a channel that leaves a slot. The erased indices' bits leave its mask (DEDUCED, log entry 151). -/
def cryptoErase (s : State) (ch : ChanId) (d : Slot) : State :=
  let mask := (s.chan ch).written
  let is := keyIdxs.filter fun i => mask.getLsbD i.toNat && (s.memIdx i).assigned && (s.memIdx i).slot == d
  let s := is.foldl (fun (s : State) i =>
    let s := s.dropIndexKeys i
    if s.indexBound i then (if s.hasMember d then assignSecret clearTries s i d else s) else s.freeIndex i) s
  (s.modChan ch fun c => { c with written := is.foldl (fun m i => setBitTo m i.toNat false) c.written }).memPump

/-- A channel of slot `a` passes to slot `b`. -/
def crossChan (s : State) (ch : ChanId) (a b : Option Slot) : State :=
  match a with
  | some d => if b = some d then s else s.cryptoErase ch d
  | none => s

/-- A link of slot `a` passes to slot `b`: its Agreement ends with LOCAL, its declaration in the old slot goes. -/
def crossLink (s : State) (l : LinkId) (a b : Option Slot) : State :=
  match a with
  | some d =>
    if b = some d then s
    else
      let s := s.sendBye l endLocal
      let s := s.endAgreement l endLocal
      s.modDom d fun k => { k with decls := Tab.set none k.decls l.toNat none }
  | none => s

/-- The Roster rows of the slots concerned change (R518). -/
def rosterOpt (s : State) (d : Option Slot) : State := match d with
  | some x => s.rosterChange x
  | none => s

/-! ### Requests (R508, R509) -/

end State

/-- A binding request in the fields of Table 17-9. -/
structure VdReq where
  op : BitVec 3
  kind : BitVec 2 := 0
  vd : VdId := 0
  toVd : VdId := 0
  slot : Slot := 0
  slotValid : Bool := false
  index : BitVec 8 := 0
  deriving DecidableEq, Repr

def vdReqOf (w : Word) : VdReq :=
  { op := w.extractLsb' 29 3, kind := w.extractLsb' 27 2, vd := w.extractLsb' 21 6, toVd := w.extractLsb' 15 6
    slot := w.extractLsb' 12 3, slotValid := w.getLsbD 11, index := w.extractLsb' 0 8 }

def VdReq.slotOpt (r : VdReq) : Option Slot := if r.slotValid then some r.slot else none
def VdReq.key (r : VdReq) : KeyIdx := r.index.setWidth 4
def VdReq.chan (r : VdReq) : ChanId := r.index.setWidth 5
/-- The virtual device a BIND or MOVE gives the resource to. -/
def VdReq.dest (r : VdReq) : VdId := if r.op = 5 then r.toVd else r.vd
def VdReq.lnk (r : VdReq) : LinkId := r.index.setWidth 6

namespace State

/-- Whether a resource is bound to a virtual device. -/
def boundTo (s : State) (r : VdReq) (v : VdId) : Bool :=
  let x := s.vdev v
  x.present && (if r.kind = 0 then x.chans.getLsbD r.index.toNat else if r.kind = 1 then x.links.getLsbD r.index.toNat
    else if r.kind = 2 then x.keys.getLsbD r.index.toNat else x.progs.getLsbD r.index.toNat)

/-- The one virtual device that holds a channel, a link or a program slot. -/
def holderOf (s : State) (r : VdReq) : Option VdId :=
  if r.kind = 0 then s.chanVd r.chan else if r.kind = 1 then s.linkVd r.lnk else if r.kind = 3 then s.progVd r.index else none

def isRes (r : VdReq) : Bool := r.op == 3 || r.op == 4 || r.op == 5

/-- Check 1 of Table 17-3: the fields an op does not use are 0. -/
def vdFieldsOk (r : VdReq) : Bool :=
  if r.op = 1 ∨ r.op = 6 then r.kind == 0 && r.toVd == 0 && r.index == 0 && (r.slotValid || r.slot == 0)
  else if r.op = 2 then r.kind == 0 && r.toVd == 0 && r.index == 0 && !r.slotValid && r.slot == 0
  else if r.op = 5 then !r.slotValid && r.slot == 0
  else r.toVd == 0 && !r.slotValid && r.slot == 0

def vdRangeOk (r : VdReq) : Bool :=
  if r.kind = 0 then decide (r.index.toNat < 32) else if r.kind = 1 then decide (r.index.toNat < 64)
  else if r.kind = 2 then decide (1 ≤ r.index.toNat) && decide (r.index.toNat ≤ 15) else true

/-- Table 17-3. -/
def vdCheck (s : State) (r : VdReq) : Option Status :=
  let x := s.vdev r.vd
  let dst := s.vdev r.dest
  if r.op = 7 ∨ !vdFieldsOk r then some stReserved
  else if isRes r && !vdRangeOk r then some stLengthRange
  else if r.op = 1 && x.present then some stCtxBusy
  else if r.op ≠ 1 && (!x.present || (r.op == 5 && !dst.present)) then some stNoVd
  else if isRes r && r.kind = 3 && s.poolRole then some stRoleMismatch
  else if (r.op = 3 ∨ r.op = 5) && r.kind ≠ 2 && (match s.holderOf r with
      | none => false
      | some v => v != r.vd) then some stRights
  else if (r.op = 4 ∨ r.op = 5) && !s.boundTo r r.vd then some stRights
  else if (r.op = 3 ∨ r.op = 5) && r.kind = 2 && (dst.slot.isNone ||
      ((s.memIdx r.key).assigned && some (s.memIdx r.key).slot != dst.slot)) then some stKeyScope
  else if (r.op = 2 ∨ r.op = 6) && (s.liveCtxs.any fun c => (s.ctx c).vd == some r.vd) then some stCtxBusy
  else
    let to' := if r.op = 1 ∨ r.op = 6 then r.slotOpt else if r.op = 3 ∨ r.op = 5 then dst.slot else none
    match to' with
    | some d => if s.isFragment d then some stFragment else none
    | none => none

/-- Give a resource to a virtual device. -/
def bindRes (s : State) (r : VdReq) (v : VdId) : State :=
  if r.kind = 0 then s.modVdev v fun x => { x with chans := setBitTo x.chans r.index.toNat true }
  else if r.kind = 1 then s.modVdev v fun x => { x with links := setBitTo x.links r.index.toNat true }
  else if r.kind = 3 then s.modVdev v fun x => { x with progs := setBitTo x.progs r.index.toNat true }
  else
    let s := s.modVdev v fun x => { x with keys := setBitTo x.keys r.index.toNat true }
    match (s.vdev v).slot with
    | some d => if (s.memIdx r.key).assigned then s else s.assignIndex r.key d
    | none => s

/-- Take a resource from a virtual device (R510), to slot `b`. -/
def removeRes (s : State) (r : VdReq) (v : VdId) (b : Option Slot) : State :=
  let a := s.vdSlot v
  if r.kind = 0 then (s.removeChan v r.chan).crossChan r.chan a b
  else if r.kind = 1 then ((s.removeLink v r.lnk).crossLink r.lnk a b)
  else if r.kind = 2 then s.removeIndex v r.key
  else s.removeProg v r.index

/-- VD_SLOT (Table 17-2). -/
def moveVd (s : State) (v : VdId) (b : Option Slot) : State :=
  let x := s.vdev v
  let a := x.slot
  if a = b then s
  else
    let s := (keyIdxs.filter fun i => x.keys.getLsbD i.toNat).foldl (fun (s : State) i => s.removeIndex v i) s
    let s := ((List.range 256).filter fun p => x.progs.getLsbD p).foldl (fun (s : State) p => s.unloadProg (BitVec.ofNat 8 p)) s
    let s := (allChans.filter fun c => x.chans.getLsbD c.toNat).foldl (fun (s : State) c => s.crossChan c a b) s
    let s := (allLinks.filter fun l => x.links.getLsbD l.toNat).foldl (fun (s : State) l => s.crossLink l a b) s
    let s := s.modVdev v fun x => { x with slot := b }
    (s.rosterOpt a).rosterOpt b

/-- VD_DESTROY: unbind every resource, then delete. -/
def destroyVd (s : State) (v : VdId) : State :=
  let x := s.vdev v
  let s := (keyIdxs.filter fun i => x.keys.getLsbD i.toNat).foldl (fun (s : State) i => s.removeIndex v i) s
  let s := ((List.range 256).filter fun p => x.progs.getLsbD p).foldl (fun (s : State) p =>
    s.removeProg v (BitVec.ofNat 8 p)) s
  let s := (allChans.filter fun c => x.chans.getLsbD c.toNat).foldl (fun (s : State) c =>
    (s.removeChan v c).crossChan c x.slot none) s
  let s := (allLinks.filter fun l => x.links.getLsbD l.toNat).foldl (fun (s : State) l =>
    (s.removeLink v l).crossLink l x.slot none) s
  (s.setVdev v {}).rosterOpt x.slot

/-- The effect of a request that passes its checks (Table 17-2). -/
def vdEffect (s : State) (r : VdReq) : State :=
  if r.op = 1 then (s.setVdev r.vd { present := true, slot := r.slotOpt }).rosterOpt r.slotOpt
  else if r.op = 2 then s.destroyVd r.vd
  else if r.op = 3 then
    if s.boundTo r r.vd then s
    else
      let s := s.bindRes r r.vd
      if r.kind = 1 then s.rosterOpt (s.vdSlot r.vd) else s
  else if r.op = 4 then
    let a := s.vdSlot r.vd
    let s := s.removeRes r r.vd none
    if r.kind = 1 then s.rosterOpt a else s
  else if r.op = 5 then
    let a := s.vdSlot r.vd
    let b := s.vdSlot r.toVd
    let s := if r.kind = 2 ∧ r.toVd = r.vd then s else if r.kind = 2 then (s.bindRes r r.toVd).removeRes r r.vd b else (s.removeRes r r.vd b).bindRes r r.toVd
    if r.kind = 1 then
      let s := s.rosterOpt a
      if a = b then s else s.rosterOpt b
    else s
  else if r.op = 6 then s.moveVd r.vd r.slotOpt
  else s

/-- A request from the checks to its effect: the status it completes with. -/
def vdRequest (s : State) (r : VdReq) : State × Status :=
  match s.vdCheck r with
  | some st => (s, st)
  | none => (s.vdEffect r, stOk)

/-- A request through KX_FE_VD_REQ: done and status are set and the PF's vector raised (R522). -/
def vdReqWrite (s : State) (r : VdReq) : State :=
  if r.op = 0 then s
  else
    let x := s.vdRequest r
    ({ x.1 with vd := { x.1.vd with busy := false, done := true, status := x.2 } }).msiPf

end State

end Sys2Proof.Machine
end

