-- ==== Sys2Proof/Machine/PortOps.lean ====
section
/-! DEFINITION. Ports: link power and clocks (R47, R48, R51, R85 to R92), the delivery port's reset (R58), function enables
(R93 to R97), current limits (R70). -/

namespace Sys2Proof.Machine

namespace State

/-! ### Link ports -/

/-- Table 2-8. -/
def initialCredits : Tab Nat := [(0, 4), (1, 16), (2, 16), (3, 16)]

def addCredits (a b : Tab Nat) : Tab Nat := b.foldl (fun t e => Tab.set 0 t e.1 (Tab.get 0 t e.1 + e.2)) a

/-- Issue the credits owed: the initial ones of R47, and those returned meanwhile. -/
def issueOwed (s : State) (l : LinkId) : State :=
  if !s.creditsGo l then s
  else
    let k := s.link l
    let n := addCredits (if k.io.rxOwed then initialCredits else []) k.io.rxOwedCredits
    let io := { k.io with rxCredits := addCredits k.io.rxCredits n, rxOwed := false, rxOwedCredits := [] }
    n.foldl (fun (s : State) e => s.out (.lkCred l (BitVec.ofNat 2 e.1) e.2)) (s.setLink l { k with io := io })

/-- The multiplexers switch to the port clocks: lk_up high, both qualified, and lk_up sampled low since the last switch to
the fallback (R89, R91). -/
def selectPort (s : State) (l : LinkId) : State :=
  s.modLink l fun k =>
    let c := k.clk
    let rx := k.core.up && c.rxLock && !c.needDown && !c.rxSel
    let tx := k.core.up && c.txLock && !c.needDown && !c.txSel
    { k with clk := addSwitch { c with rxSel := c.rxSel || rx, txSel := c.txSel || tx } (rx.toNat + tx.toNat) }

/-- The link state changes and with it this member's Roster row (R286, R380). -/
def setPhase (s : State) (l : LinkId) (p : LinkPhase) : State :=
  if (s.link l).core.phase = p then s
  else
    let s := s.modLink l fun k => { k with core.phase := p }
    match s.declOf l with
    | some (d, _) => s.rosterChange d
    | none => s

/-- A responder with a LINK_AGREE waits in AGREEING from then (R284); an initiator sends HELLO. -/
def agreeNow (s : State) (l : LinkId) : State :=
  match s.declOf l with
  | none => s
  | some (d, x) =>
    let s := s.agreeStart l
    if (s.link l).core.phase = .agreeing ∨ (s.agreeRefusal d).isSome ∨ s.initiates d x then s
    else
      let s := s.modLink l fun k => { k with
        core := { k.core with slot := d, initiator := false, attempt := 0, pValid := true, pLink := x.link,
                              pMember := x.partner }
        agr := { since := some s.now } }
      s.setPhase l .agreeing

/-- lk_up has risen on an enabled link: clocks, initial credits, and the Agreement of R276. -/
def linkRise (s : State) (l : LinkId) : State :=
  let s := s.selectPort l
  let s := s.modLink l fun k => { k with io := { k.io with rxOwed := true, openSeq := 0 } }
  let s := (s.issueOwed l).setPhase l .up
  if (s.link l).agr.kept then s.agreeNow l else s.agreeStart l

/-- Both directions' credits are void and the group on the wire ends (R48, R51). -/
def voidCredits (s : State) (l : LinkId) : State :=
  s.modLink l fun k => { k with io := { k.io with
    wire := [], txCredits := [], rxCredits := [], rxOwed := false, rxOwedCredits := [] } }

/-- lk_up has fallen on an enabled link, or its enable is cleared (R51, R89, R92). A cleared enable with lk_up still high
leaves the fallback selected until lk_up has been sampled low (R91; DEDUCED, log entry 129). -/
def linkFall (s : State) (l : LinkId) : State :=
  let s := s.voidCredits l
  let s := s.modLink l fun k => { k with core := { k.core with retrain := false }, clk := clkFall k }
  let s := s.endAgreement l endDown
  let s := s.modLink l fun k => { k with
    agr := {}
    core := { k.core with pValid := false }
    tc0 := { k.tc0 with queue := k.tc0.queue.filter fun x => !x.isOpen } }
  s.setPhase l .down

/-! ### Delivery port -/

/-- A channel's reset: what it shows and has not been accepted is gone, the credit of an Indicative group among it returns
(R265), identifiers start again from 0 (R58). -/
def clearChannel (s : State) (l : LinkId) : State :=
  let bs := (s.link l).del.beats
  let s := s.modLink l fun k => { k with del := {} }
  (bs.filter fun b => b.last && !b.subj).foldl (fun (s : State) b => s.creditReturn l b.tc) s

def clearDelivery (s : State) : State := allLinks.foldl clearChannel s

/-- The first group in the list for each context that consumed one. -/
def firstConsumed (gs : List (LinkId × RxFlight)) : List (CtxId × GroupRef) :=
  gs.foldl (fun cs x => x.2.consumers.foldl (fun cs c =>
    if cs.any fun y => y.1 == c then cs else cs ++ [(c, flightRef x.1 x.2)]) cs) []

/-- cd_flush: every Subjunctive group without a Verdict is Repudiated (R58, R273), with one Comma for a context that consumed
several (R274). -/
def flushDelivery (s : State) : State :=
  let gs := allLinks.flatMap fun l => (unsettledOf (s.link l)).map fun g => (l, g)
  let s := gs.foldl (fun (s : State) x => s.repudiateData x.1 x.2 0 true) s
  (firstConsumed gs).foldl (fun (s : State) x => s.consumerComma x.2 x.1) s

/-- What the delivery port can present goes on: Verdicts that waited, groups, the storm rule (R54, R262, R266). -/
def deliveryGo (s : State) : State := allLinks.foldl (fun (s : State) l => ((s.verdictPump l).deliverPump l).stormCheck l) s

/-- The delivery crossing has locked again: the port's reset ends with cd_flush, then the credits owed (R58, Table 3-3). A port
that is off raises nothing (R34). -/
def deliveryReset (s : State) : State :=
  let s := s.clearDelivery
  let s := if s.portOn portDelivery then s.out .cdFlush else s
  allLinks.foldl issueOwed (s.flushDelivery.deliveryGo)

/-! ### Current limits -/

def limCeiling : Rail → Nat
  | .vkx => 1600
  | .vkm => 400

/-- A limit strobe (R70, Table 2-18): 0 is ignored and counted, one above the ceiling is clamped. -/
def takeLimit (s : State) (r : Rail) (v : BitVec 12) : State :=
  if v = 0 then { s with pwr.zeroCount := satInc s.pwr.zeroCount }
  else
    let clamp := decide (limCeiling r < v.toNat)
    let x := if clamp then BitVec.ofNat 12 (limCeiling r) else v
    let s := { s with pwr.limClamped := s.pwr.limClamped || clamp }
    match r with
    | .vkx => { s with pwr.pendVkx := some x }
    | .vkm => { s with pwr.pendVkm := some x }

/-! ### The PF -/

/-- The PF's control context: context 0, ACTIVE, in no virtual device (R457). -/
def controlContext (s : State) : State := s.setCtx 0 { phase := .active }

/-! ### Function enables -/

/-- The sweeps that no longer wait for any channel end (R250, R251). -/
def sweepsEnd (s : State) : State :=
  (((0 : KeyIdx) :: keyIdxs).filter fun i => (s.memIdx i).sweeping).foldl (fun (s : State) i =>
    if s.sweepDone i then s.endSweep i else s) s

/-- Function Level Resets that came before the staging port was on are acknowledged: the functions have no work (R134). -/
def ackEarly (s : State) : State :=
  let fs := s.sys.flrEarly
  let s := { s with sys.flrEarly := [] }
  fs.foldl (fun (s : State) f => s.out (.flrAck f)) s

/-- The trust core writes an enable bit (R94 to R97). A write that changes nothing does nothing. -/
def setEnable (s : State) (t : EnTarget) (on : Bool) : State :=
  match t with
  | .area b =>
    if 10 ≤ b.toNat ∨ s.areaOn b.toNat = on ∨ (on ∧ b.toNat = areaReduction ∧ s.poolRole) then s
    else
      let s := { s with clk.enArea := setBitTo s.clk.enArea b.toNat on }
      if b.toNat = areaTelemetry ∧ !on then s.traceDiscard false else s
  | .port b =>
    if 6 ≤ b.toNat ∨ s.portOn b.toNat = on ∨ (on ∧ b.toNat = portDelivery ∧ s.poolRole) ∨
        (on ∧ b.toNat = portFlash ∧ s.clk.flashDone) then s
    else
      let s := { s with clk.enPort := setBitTo s.clk.enPort b.toNat on }
      if !on then s
      else if b.toNat = portStaging then s.meterDeliverAll
      else if b.toNat = portDelivery then s.deliveryGo
      else if b.toNat = portPm then s.pmFlush
      else if b.toNat = portTray then s.traySend
      else s
  | .mc c =>
    if s.mcOn c = on then s
    else
      let s := { s with clk.enMc := setBitTo s.clk.enMc c.toNat on }
      if on then ((s.modChan c fun k => { k with sweepPtr := [] }).mergedGo c).fenceRelease
      else (s.chanOff c).sweepsEnd
  | .link l =>
    if s.linkOn l = on then s
    else if on then
      let s := { s with clk.enLink := setBitTo s.clk.enLink l.toNat true }
      if (s.link l).core.up then s.linkRise l else s
    else { (if (s.link l).core.up then s.linkFall l else s) with
           clk.enLink := setBitTo s.clk.enLink l.toNat false }
  | .fn f => { s with clk.enFn := setBitTo s.clk.enFn f.toNat on }

end State

end Sys2Proof.Machine
end

