-- ==== Sys2Proof/Machine/Operands.lean ====
section
/-! DEFINITION. Operand forms of commands: descriptors (Table 15-1), bodies, and the checks made at fetch (Tables 7-8, 15-8,
16-6). -/

namespace Sys2Proof.Machine

/-! ### Opcodes (Table 15-3) -/
def opCancel : BitVec 16 := 0x0001
def opCtxCreate : BitVec 16 := 0x0002
def opCtxDestroy : BitVec 16 := 0x0003
def opObjMap : BitVec 16 := 0x0004
def opObjUnmap : BitVec 16 := 0x0005
def opNop : BitVec 16 := 0x0006
def opStgRekey : BitVec 16 := 0x0101
def opProgLoad : BitVec 16 := 0x0201
def opProgGo : BitVec 16 := 0x0202
def opProgUnload : BitVec 16 := 0x0203
def opCsEnc : BitVec 16 := 0x0301
def opCsDec : BitVec 16 := 0x0302
def opCsGhash : BitVec 16 := 0x0303
def opMemFill : BitVec 16 := 0x0401
def opMemCopy : BitVec 16 := 0x0402

/-- The queue that carries an opcode. -/
def opQueue (op : BitVec 16) : Option (BitVec 3) :=
  if 0x0001 ≤ op ∧ op ≤ 0x0006 then some 0
  else if op = opStgRekey then some 1
  else if 0x0201 ≤ op ∧ op ≤ 0x0203 then some 2
  else if 0x0301 ≤ op ∧ op ≤ 0x0303 then some 3
  else if op = opMemFill ∨ op = opMemCopy ∨ op = opStgIn ∨ op = opStgOut then some 4
  else none

/-! ### Descriptor and bodies -/

def dOpcode (d : Bytes) : BitVec 16 := leBv 16 (slice d 0 2)
def dIrq (d : Bytes) : Bool := (byteAt d 2).getLsbD 0
def dCookie (d : Bytes) : BitVec 64 := leBv 64 (slice d 8 8)
def dBody (d : Bytes) : Bytes := slice d 16 48
def headerOk (d : Bytes) : Bool := decide ((byteAt d 2).toNat ≤ 1) && byteAt d 3 == 0

/-- Reserved bits of a body by its opcode's own layout. -/
def bodyOk (op : BitVec 16) (b : Bytes) : Bool :=
  if op = opCancel then zeroAt b 1 3 && zeroAt b 8 40
  else if op = opCtxCreate then decide ((byteAt b 5).toNat ≤ 7) && zeroAt b 24 24
  else if op = opCtxDestroy then zeroAt b 2 46
  else if op = opObjMap then
    let n := (byteAt b 27).toNat
    zeroAt b 36 12 && decide ((byteAt b 25).toNat ≤ 7) && decide ((byteAt b 24).toNat ≤ 1) &&
      (if byteAt b 24 = 0 then zeroAt b 27 9
       else byteAt b 26 == 0 && decide (leAt b 28 4 < 2 ^ 20) && zeroAt b (32 + Nat.min n 4) (4 - Nat.min n 4))
  else if op = opObjUnmap then zeroAt b 4 44
  else if op = opNop then decide ((byteAt b 0).toNat ≤ 1) && zeroAt b 1 47
  else if op = opStgRekey then decide ((byteAt b 0).toNat ≤ 1) && zeroAt b 1 3 && zeroAt b 24 24
  else if op = opProgLoad then zeroAt b 1 7 && zeroAt b 16 32
  else if op = opProgGo then zeroAt b 1 3 && zeroAt b 30 18
  else if op = opProgUnload then zeroAt b 1 47
  else if op = opCsEnc ∨ op = opCsDec then decide (leAt b 28 2 ≤ 1) && zeroAt b 30 18
  else if op = opCsGhash then decide (leAt b 36 2 ≤ 1) && zeroAt b 38 10
  else if op = opMemFill ∨ op = opMemCopy then decide ((byteAt b 24).toNat ≤ 1) && zeroAt b 25 23
  else decide ((byteAt b 40).toNat ≤ 1) && zeroAt b 41 7

/-- after_prior of a body, false for an opcode without it. -/
def afterPrior (op : BitVec 16) (b : Bytes) : Bool :=
  if op = opNop then (byteAt b 0).getLsbD 0
  else if op = opCsEnc ∨ op = opCsDec then (byteAt b 28).getLsbD 0
  else if op = opCsGhash then (byteAt b 36).getLsbD 0
  else if op = opMemFill ∨ op = opMemCopy then (byteAt b 24).getLsbD 0
  else if op = opStgIn ∨ op = opStgOut then (byteAt b 40).getLsbD 0
  else false

/-- A range a command names: address, length, and the access it makes. -/
structure Rng where
  va : Nat
  len : Nat
  write : Bool
  deriving DecidableEq, Repr

/-- Fields of a staging body (Table 16-5). -/
def stgHost (b : Bytes) : BitVec 64 := leBv 64 (slice b 0 8)
def stgVa (b : Bytes) : Nat := leAt b 8 8
def stgRows (b : Bytes) : Nat := leAt b 16 4
def stgRowBytes (b : Bytes) : Nat := leAt b 20 4
def stgStride (b : Bytes) : Nat := leAt b 24 8
def stgSeq (b : Bytes) : Nat := leAt b 32 8
def stgTotal (b : Bytes) : Nat := stgRows b * stgRowBytes b
def stgChunks (b : Bytes) : Nat := (stgTotal b + 4095) / 4096
/-- Payload blocks of a transfer: each chunk rounded up to blocks. -/
def stgBlocks (b : Bytes) : Nat := (stgTotal b / 4096) * 256 + (stgTotal b % 4096 + 15) / 16

/-- The count a command must not have at 0, and its largest value. -/
def bodyCount (op : BitVec 16) (b : Bytes) : Option (Nat × Nat) :=
  if op = opCsEnc ∨ op = opCsDec then some (leAt b 24 4, 16777216)
  else if op = opCsGhash then some (leAt b 32 4, 16777216)
  else if op = opMemFill ∨ op = opMemCopy then some (leAt b 16 8, 2 ^ 40)
  else if op = opObjMap then some (leAt b 8 8, 2 ^ 40)
  else if op = opCtxCreate then some (leAt b 16 8, 2 ^ 48)
  else none

/-- The ranges a command of Table 15-8 or Table 7-8 names, in the order of its body. -/
def bodyRanges (op : BitVec 16) (b : Bytes) : List Rng :=
  if op = opCsEnc ∨ op = opCsDec then
    let n := 16 * leAt b 24 4
    [{ va := leAt b 0 8, len := n, write := false }, { va := leAt b 8 8, len := n, write := true },
     { va := leAt b 16 8, len := 32, write := false }]
  else if op = opCsGhash then
    [{ va := leAt b 0 8, len := 16 * leAt b 32 4, write := false }, { va := leAt b 8 8, len := 16, write := false },
     { va := leAt b 16 8, len := 16, write := false }, { va := leAt b 24 8, len := 16, write := true }]
  else if op = opMemFill then [{ va := leAt b 0 8, len := leAt b 16 8, write := true }]
  else if op = opMemCopy then
    [{ va := leAt b 0 8, len := leAt b 16 8, write := true }, { va := leAt b 8 8, len := leAt b 16 8, write := false }]
  else []

/-- Alignment of addresses and counts (check 6, or check 4 of Table 7-8). -/
def bodyAligned (op : BitVec 16) (b : Bytes) : Bool :=
  if op = opCsEnc ∨ op = opCsDec ∨ op = opCsGhash then (bodyRanges op b).all fun r => r.va % 16 == 0
  else if op = opMemFill ∨ op = opMemCopy then (bodyRanges op b).all fun r => r.va % 64 == 0 && r.len % 64 == 0
  else if op = opObjMap then
    leAt b 0 8 % 65536 == 0 && leAt b 8 8 % 65536 == 0 && leAt b 16 8 % (if byteAt b 24 = 0 then 65536 else 64) == 0
  else if op = opCtxCreate then leAt b 8 8 % 65536 == 0 && leAt b 16 8 % 65536 == 0
  else true

def overlap (a b : Rng) : Bool := decide (a.va < b.va + b.len) && decide (b.va < a.va + a.len)
def equalOrApart (a b : Rng) : Bool := (a.va == b.va && a.len == b.len) || !overlap a b

/-- The overlap rule of a command (R464, check 9 of Table 7-8). -/
def overlapOk (op : BitVec 16) (b : Bytes) : Bool :=
  match bodyRanges op b with
  | [x, y] => equalOrApart x y
  | [src, dst, _key] => equalOrApart src dst
  | [src, h, _yin, yout] => !overlap yout src && !overlap yout h
  | _ => true

/-- Engine cost of a command (R449, R491). -/
def costOf (op : BitVec 16) (b : Bytes) : Nat :=
  let n := if op = opMemFill ∨ op = opMemCopy then leAt b 16 8
    else if op = opCsEnc ∨ op = opCsDec then 16 * leAt b 24 4
    else if op = opCsGhash then 16 * leAt b 32 4
    else if op = opStgIn ∨ op = opStgOut then stgTotal b
    else 1
  1 + (n - 1) / 65536

/-- How the checks of a fetched command end. -/
inductive FetchEnd where
  | fail (st : Status) (detail : BitVec 32)
  | pass (trans : List Trans)
  deriving DecidableEq, Repr

/-- The detail of ST_UNMAPPED: bits [47:16] of the failing address. -/
def vaDetail (va : Nat) : BitVec 32 := BitVec.ofNat 32 (va / 65536)

namespace State

/-- The object of a context that holds an address. -/
def findObj (s : State) (c : CtxId) (va : Nat) : Option (Nat × Obj) :=
  (s.objsOf c).find? fun e => decide (e.2.va.toNat ≤ va) && decide (va < e.2.va.toNat + e.2.size.toNat)

/-- The translation of a range in an object (R460, R461). -/
def transOf (s : State) (c : CtxId) (n : Nat) (o : Obj) (r : Rng) : Trans :=
  { ctx := c, num := BitVec.ofNat 12 n, reuse := o.reuse, target := o.target + BitVec.ofNat 64 (r.va - o.va.toNat)
    key := o.key, rights := o.rights, gen := (s.ctx c).transGen, len := r.len, fabric := o.fabric, links := o.links }

/-- A key index is bound to a context's virtual device, or is the clear key (R460). -/
def keyBound (s : State) (c : CtxId) (i : KeyIdx) : Bool :=
  i == 0 || (match (s.ctx c).vd with
    | none => false
    | some v => (s.vdev v).keys.getLsbD i.toNat)

def rightOk (rights : BitVec 3) (write : Bool) : Bool := if write then rights.getLsbD 1 else rights.getLsbD 0

/-- A fill or copy whose destination covers the whole object may name it while it is tainted (R463). -/
def coversObj (op : BitVec 16) (r : Rng) (o : Obj) : Bool :=
  (op == opMemFill || op == opMemCopy) && r.write && r.va == o.va.toNat && r.len == o.size.toNat

/-- Checks 7 to 11 of Table 15-8 over the ranges, each check over all of them before the next; crypto service commands have
no key check (Table 7-8). -/
def checkRanges (s : State) (c : CtxId) (op : BitVec 16) (rs : List Rng) : FetchEnd :=
  let es := rs.map fun r => (r, s.findObj c r.va)
  let cs := op == opCsEnc || op == opCsDec || op == opCsGhash
  match es.find? fun e => e.2.isNone || (!cs && decide (2 ^ 48 ≤ e.1.va + e.1.len)) with
  | some (r, o) => .fail stUnmapped (vaDetail (match o with
      | none => r.va
      | some x => x.2.va.toNat + x.2.size.toNat))
  | none =>
    let fs := es.filterMap fun e => e.2.map fun o => (e.1, o.1, o.2)
    if fs.any fun e => decide (e.2.2.va.toNat + e.2.2.size.toNat < e.1.va + e.1.len) then .fail stLengthRange 0
    else if fs.any fun e => !rightOk e.2.2.rights e.1.write then .fail stRights 0
    else if !cs && fs.any (fun e => !e.2.2.fabric &&
        (!s.scopeOk (.ctx c) e.2.2.key e.1.write || !s.keyBound c e.2.2.key)) then .fail stKeyScope 0
    else if fs.any fun e => e.2.2.taint && !coversObj op e.1 e.2.2 then .fail stTainted 0
    else .pass (fs.map fun e => s.transOf c e.2.1 e.2.2 e.1)

/-- The first address of a tile, in stream order, outside its object (R487). -/
def tileFails (b : Bytes) (objEnd : Nat) : Option Nat :=
  let va := stgVa b
  let room := objEnd - va
  let rb := stgRowBytes b
  if room < rb then some objEnd
  else if stgRows b = 1 ∨ stgStride b = 0 then none
  else
    let r := (room - rb) / stgStride b + 1
    if r < stgRows b then
      let start := va + r * stgStride b
      some (if objEnd ≤ start then start else objEnd)
    else none

/-- Table 16-6, after its check 1; a reserved index ends a transfer beside check 9 (R506). -/
def stgCheck (s : State) (c : CtxId) (op : BitVec 16) (b : Bytes) : FetchEnd :=
  let inn := op == opStgIn
  if stgRows b = 0 ∨ stgRowBytes b = 0 then .fail stLengthZero 0
  else if 1048576 < stgRows b ∨ 2 ^ 32 < stgTotal b then .fail stLengthRange 0
  else if (stgHost b).toNat % 16 ≠ 0 then .fail stAlign 0
  else match s.findObj c (stgVa b) with
  | none => .fail stUnmapped (vaDetail (stgVa b))
  | some (n, o) =>
    let z := s.sessOf (s.ctx c).fn
    match tileFails b (o.va.toNat + o.size.toNat) with
    | some a => if (s.findObj c a).isNone then .fail stUnmapped (vaDetail a) else .fail stLengthRange 0
    | none =>
      if o.fabric then .fail stFabricOp 0
      else if !rightOk o.rights inn then .fail stRights 0
      else if !s.scopeOk (.staging c) o.key inn then .fail stKeyScope 0
      else if s.indexReserved o.key then .fail stKeyOrphan 0
      else if !z.opened || !s.keyUsable (rowStage (s.ctx c).fn (if inn then 0 else 1)) then .fail stKeyOrphan 0
      else if s.ctxSlot c ≠ some z.slot then .fail stKeyScope 0
      else if o.taint then .fail stTainted 0
      else if 1 < stgRows b ∧ stgStride b < stgRowBytes b then .fail stOverlap 0
      else .pass [s.transOf c n o { va := stgVa b, len := stgRowBytes b, write := inn }]

/-- Translations recorded for a command that checks its addresses when it starts (R461, Tables 11-5, R331): those of the
objects its addresses lie in, each from its address to the object's end. A PROG_GO without a buffer has the address 0
there. -/
def lateTrans (s : State) (c : CtxId) (vas : List Nat) : List Trans :=
  vas.filterMap fun va => (s.findObj c va).map fun e =>
    s.transOf c e.1 e.2 { va := va, len := e.2.va.toNat + e.2.size.toNat - va, write := false }

/-- The checks of a fetched command (R465), with the control context's own rule (R457). -/
def fetchCheck (s : State) (c : CtxId) (q : BitVec 3) (d : Bytes) : FetchEnd :=
  let op := dOpcode d
  let b := dBody d
  let known := opQueue op == some q
  let pf := (s.ctx c).fn == 0
  if !headerOk d || (known && !bodyOk op b) then .fail stReserved 0
  else if !known then .fail stOpcode 0
  else if (s.ctx c).vd.isNone && op != opCancel && op != opCtxCreate && op != opCtxDestroy && op != opNop then
    .fail stRights 0
  else if (op == opCtxCreate || op == opCtxDestroy) && !pf then .fail stRights 0
  else if op = opStgIn ∨ op = opStgOut then s.stgCheck c op b
  else if (match bodyCount op b with
      | some (0, _) => true
      | _ => op == opObjMap && byteAt b 24 == 1 && byteAt b 27 == 0) then .fail stLengthZero 0
  else if (match bodyCount op b with
      | some (n, m) => decide (m < n)
      | none => false) || (op == opObjMap && decide (4 < (byteAt b 27).toNat)) ||
      (op == opCtxCreate && (decide (1024 ≤ leAt b 0 2) || decide (64 ≤ (byteAt b 3).toNat) ||
        decide (2048 ≤ leAt b 6 2) || decide (2 ^ 48 < leAt b 8 8 + leAt b 16 8))) ||
      (op == opCtxDestroy && decide (1024 ≤ leAt b 0 2)) then .fail stLengthRange 0
  else if !bodyAligned op b then .fail stAlign 0
  else match s.checkRanges c op (bodyRanges op b) with
  | .fail st x => .fail st x
  | .pass ts =>
    if !overlapOk op b then .fail stOverlap 0
    else if op = opProgLoad then .pass (s.lateTrans c [leAt b 8 8])
    else if op = opProgGo then .pass (s.lateTrans c ([leAt b 8 8, leAt b 16 8].filter (· != 0)))
    else .pass ts

/-! ### READY (R454, R482, R488) -/

/-- An object of a command is stale, or tainted without its exception. -/
def readyRefusal (s : State) (x : Cmd) : Option Status :=
  if x.opcode = opObjUnmap then none
  else if x.trans.any s.staleTrans then some stStale
  else if x.opcode = opProgLoad ∨ x.opcode = opProgGo then none
  else if x.trans.zipIdx.any fun e =>
      let o := s.obj e.1.ctx e.1.num.toNat
      o.taint && !((x.opcode == opMemFill || x.opcode == opMemCopy) && e.2 == 0 && e.1.target == o.target &&
        e.1.len == o.size.toNat) then some stTainted
  else none

/-- The lines a byte range of device memory touches: first line address and count. -/
def linesOf (a : BitVec 64) (n : Nat) : Nat × Nat := (a.toNat / 64, (a.toNat + n + 63) / 64 - a.toNat / 64)

/-- Whether a line of a range lies in an enabled protected range. -/
def rangeCovered (s : State) (a : BitVec 64) (n : Nat) : Bool :=
  s.mem.ranges.any fun e => e.2.enable && decide (e.2.base.toNat * 4096 < (a.toNat + n)) &&
    decide (a.toNat < (e.2.limit.toNat + 1) * 4096)

/-- A row of a tile meets a protected range: within a range's span of bytes the rows that can meet it are found by
division. -/
def tileCovered (s : State) (a : BitVec 64) (b : Bytes) : Bool :=
  if stgRows b = 1 ∨ stgStride b = 0 then s.rangeCovered a (stgRowBytes b)
  else s.mem.ranges.any fun e => e.2.enable &&
    (let lo := e.2.base.toNat * 4096
     let hi := (e.2.limit.toNat + 1) * 4096
     -- the first row whose end passes lo
     let r := if a.toNat + stgRowBytes b > lo then 0 else (lo - (a.toNat + stgRowBytes b)) / stgStride b + 1
     decide (r < stgRows b) && decide (a.toNat + r * stgStride b < hi))

/-- Blocks already counted or reserved under a direction's key. -/
def stgUsed (s : State) (f : Fn) (dir : Nat) : Nat :=
  (s.row (rowStage f dir)).use.toNat +
    ((s.fe.cmds.filter fun x => (s.ctx x.ctx).fn == f && x.opcode == (if dir = 0 then opStgIn else opStgOut) &&
      x.boundGen == (s.row (rowStage f dir)).gen).map fun x => x.blocks).sum

/-- The READY checks of a staging command (R488). -/
def stgReady (s : State) (x : Cmd) : Option Status :=
  let f := (s.ctx x.ctx).fn
  let z := s.sessOf f
  let dir := if x.opcode = opStgIn then 0 else 1
  let next := if dir = 0 then z.seqIn else z.seqOut
  match x.trans with
  | [] => some stUnmapped
  | t :: _ =>
    if s.isFragment z.slot then some stFragment
    else if s.tileCovered t.target x.body then some stProtected
    else if stgSeq x.body < next.toNat then some stIteration
    else if 2 ^ 32 < s.stgUsed f dir + stgBlocks x.body then some stKeyLimit
    else none

end State

end Sys2Proof.Machine
end

