-- ==== Sys2Proof/Machine/FeOps.lean ====
section
/-! DEFINITION. The command front end: rings (R441 to R443), completion records (R445, R620), the arbiter (R447 to R454),
contexts and objects made and unmade (R456 to R462), functions drained and retired (R496 to R501). -/

namespace Sys2Proof.Machine

namespace State

/-! ### Rings -/

/-- The context at a function's local number. -/
def ctxAt (s : State) (f : Fn) (loc : BitVec 6) : Option CtxId :=
  (s.fe.ctxs.find? fun e => e.2.phase != .free && e.2.fn == f && e.2.loc == loc).map fun e => BitVec.ofNat 10 e.1

/-- The ring registers of a local number: the context's, or those that stand while no context holds it. -/
def ringsAt (s : State) (f : Fn) (loc : BitVec 6) : IdleRings :=
  match s.ctxAt f loc with
  | some c => { sq := (s.ctx c).sq, cq := (s.ctx c).cq }
  | none => Tab.get {} (s.func f).idle loc.toNat

def setRingsAt (s : State) (f : Fn) (loc : BitVec 6) (r : IdleRings) : State :=
  match s.ctxAt f loc with
  | some c => s.modCtx c fun k => { k with sq := r.sq, cq := r.cq }
  | none => s.modFunc f fun k => { k with idle := Tab.set {} k.idle loc.toNat r }

def sqOf (r : IdleRings) (q : BitVec 3) : Ring := Tab.get {} r.sq q.toNat
def sqSet (r : IdleRings) (q : BitVec 3) (x : Ring) : IdleRings := { r with sq := Tab.set {} r.sq q.toNat x }

/-- A tail write is ignored where it moves backward or overfills the ring (R442). -/
def tailBad (r : Ring) (tail : Word) : Bool :=
  decide (r.size.toNat < (tail - r.head).toNat) || decide ((tail - r.head).toNat < (r.tail - r.head).toNat)

def sqTail (s : State) (f : Fn) (loc : BitVec 6) (q : BitVec 3) (tail : Word) : State :=
  let r := s.ringsAt f loc
  let x := sqOf r q
  if tailBad x tail then
    (match s.ctxAt f loc with
     | some c => s.modCtx c fun k => { k with ringErr := true }
     | none => s)
  else s.setRingsAt f loc (sqSet r q { x with tail := tail })

/-! ### Completion records -/

def ringFullC (r : Ring) : Bool := decide (r.size.toNat ≤ (r.tail - r.head).toNat)

/-- A full completion ring starts no further command of the context (R443); while the function drains its records are dropped
instead (R498; DEDUCED, log entry 154). -/
def cqBlocks (s : State) (c : CtxId) : Bool := ringFullC (s.ctx c).cq && (s.func (s.ctx c).fn).phase != .draining

/-- Table 15-2. -/
def recBytes (h : HeldRec) (phase : Bool) : Bytes :=
  leBytes 8 h.cookie.toNat ++ leBytes 2 h.status.toNat ++ [h.queue.setWidth 8, b2w phase 8] ++ leBytes 4 h.detail.toNat

/-- Write one record at the tail, then its trace record, then the interrupt (R62, R445). -/
def recPut (s : State) (c : CtxId) (h : HeldRec) : State :=
  let k := s.ctx c
  let r := k.cq
  let n := r.size.toNat
  let t := r.tail.toNat
  let r' : Ring := { r with tail := r.tail + 1 }
  let s := s.setCtx c { k with cq := r', cqFull := k.cqFull || ringFullC r' }
  let s := s.hostWrite k.fn (r.base + BitVec.ofNat 64 (16 * (t % n))) (recBytes h (t / n % 2 == 0))
  let s := s.trace 0x02 (some c) (s.ctxSlot c) h.layer h.operator
    (leBytes 2 h.opcode.toNat ++ leBytes 2 h.status.toNat ++ leBytes 8 h.cookie.toNat)
  if h.irq then s.msi k.fn k.vector else s

/-- A command is DONE: its record is written, or held while the ring is full, or dropped while the function drains (R443,
R498). -/
def recDone (s : State) (c : CtxId) (h : HeldRec) : State :=
  let s := s.count (if h.status = stOk then 0 else 1) 1
  let k := s.ctx c
  if !ringFullC k.cq then s.recPut c h
  else if (s.func k.fn).phase = .draining then s.modFunc k.fn fun f => { f with cqDropped := satInc f.cqDropped }
  else s.setCtx c { k with heldRecs := k.heldRecs ++ [h], cqFull := true }

/-- Write held records while there is room. -/
def recPumpAux (c : CtxId) : List HeldRec → State → State
  | [], s => s.modCtx c fun k => { k with heldRecs := [] }
  | h :: t, s =>
    if ringFullC (s.ctx c).cq then s.modCtx c fun k => { k with heldRecs := h :: t }
    else recPumpAux c t (s.recPut c h)

def recPump (s : State) (c : CtxId) : State := recPumpAux c (s.ctx c).heldRecs s

def cqHead (s : State) (f : Fn) (loc : BitVec 6) (head : Word) : State :=
  let r := s.ringsAt f loc
  let s := s.setRingsAt f loc { r with cq := { r.cq with head := head } }
  match s.ctxAt f loc with
  | some c => s.recPump c
  | none => s

/-! ### Commands in flight -/

def cmdIs (c : CtxId) (q : BitVec 3) (k : Word) (x : Cmd) : Bool := x.ctx == c && x.queue == q && x.k == k
def findCmd (s : State) (c : CtxId) (q : BitVec 3) (k : Word) : Option Cmd := s.fe.cmds.find? (cmdIs c q k)
def modCmd (s : State) (c : CtxId) (q : BitVec 3) (k : Word) (f : Cmd → Cmd) : State :=
  let cs := s.fe.cmds.map fun x => if cmdIs c q k x then f x else x
  { s with fe.cmds := cs }

/-- The RUNNING command of an opcode whose outcome is still open: what an opcode's row acts on. -/
def runningCmd (s : State) (c : CtxId) (q : BitVec 3) (k : Word) (op : BitVec 16) : Option Cmd :=
  (s.findCmd c q k).filter fun x => x.phase == .running && x.result.isNone && x.opcode == op

/-! ### Fetch (R442, R446, R455, R461, R465, R620) -/

/-- A staging command of a rolling direction is not fetched (R484). -/
def rollHolds (s : State) (c : CtxId) (q : BitVec 3) (op : BitVec 16) : Bool :=
  let z := s.sessOf (s.ctx c).fn
  q == 4 && ((op == opStgIn && z.rekeyIn.isSome) || (op == opStgOut && z.rekeyOut.isSome))

/-- The front end fetches for a context: ACTIVE, its function OPEN, the staging port on. -/
def fetches (s : State) (c : CtxId) : Bool :=
  let k := s.ctx c
  s.running && s.areaOn areaFrontEnd && s.portOn portStaging && k.phase == .active && (s.func k.fn).phase == .opened

/-- The lowest read identifier that is free (R61). -/
def freeDma (s : State) : Option Nat := (List.range 256).find? fun i => (Tab.get none s.fe.dmaReads i).isNone

/-- Take the entry at a ring's head: the read under an identifier, the checks, and the command as FETCHED. -/
def fetchTake (s : State) (c : CtxId) (q : BitVec 3) (id : Nat) (d : DmaData) : State :=
  let k := s.ctx c
  let r := Tab.get ({} : Ring) k.sq q.toNat
  let idx := r.head
  let addr := r.base + BitVec.ofNat 64 (64 * (idx.toNat % r.size.toNat))
  let s := s.out (.hdRead k.fn addr 64 (BitVec.ofNat 8 id))
  let was := k.cancelled.contains (q, idx)
  let k := { k with sq := Tab.set {} k.sq q.toNat { r with head := r.head + 1 },
                    cancelled := k.cancelled.filter (· != (q, idx)) }
  let s := s.setCtx c k
  if d.status ≠ 0 then
    s.recDone c { cookie := 0, status := stHostDma, queue := q, detail := idx, irq := true, opcode := 0, layer := 0,
                  operator := 0 }
  else
    let b := fitTo 64 d.data
    let op := dOpcode b
    let stg := q == 4 && (op == opStgIn || op == opStgOut)
    let row := s.row (rowStage k.fn (if op = opStgIn then 0 else 1))
    let e := if was then FetchEnd.fail stCancelled 0 else s.fetchCheck c q b
    let x : Cmd := {
      ctx := c, queue := q, k := idx, opcode := op, irq := dIrq b
      layer := leBv 16 (slice b 4 2), operator := leBv 16 (slice b 6 2), cookie := dCookie b, body := dBody b
      phase := .fetched
      trans := match e with
        | .pass ts => ts
        | .fail .. => []
      result := match e with
        | .pass _ => none
        | .fail st x => some (st, x)
      cancel := false, started := 0, blocks := 0
      boundGen := if stg then row.gen else 0
      material := if stg then row.material else 0
      refs := s.ctxRefs c, fabGot := [], issued := false }
    let cs := s.fe.cmds ++ [x]
    { s with fe.cmds := cs }

/-- The answer to a host read of `n` bytes is whole: a failure, or all of its bytes (R61, R63). -/
def dmaWhole (d : DmaData) (n : Nat) : Bool := d.status != 0 || d.data.length == n

/-- A descriptor arrives for the head of a ring. All 256 identifiers outstanding hold the fetch (R61); data beyond the 64 bytes
is a protocol violation and is discarded (R36, R608). -/
def fetchOne (s : State) (c : CtxId) (q : BitVec 3) (d : DmaData) : State :=
  let r := Tab.get ({} : Ring) (s.ctx c).sq q.toNat
  if !s.fetches c || decide (5 ≤ q.toNat) || r.head == r.tail ||
      (d.status == 0 && s.rollHolds c q (dOpcode (fitTo 64 d.data))) then s
  else match s.freeDma with
  | none => s
  | some id =>
    if 64 < d.data.length then s.portViolation 1 0 0 2
    else if dmaWhole d 64 then s.fetchTake c q id d
    else s

/-! ### The arbiter -/

/-- Earlier commands of the same ring that have not completed. -/
def earlierOf : List Cmd → Cmd → List Cmd
  | [], _ => []
  | y :: t, x =>
    if cmdIs x.ctx x.queue x.k y then []
    else if y.ctx = x.ctx ∧ y.queue = x.queue then y :: earlierOf t x else earlierOf t x

/-! ### PROG_GO's checks (R331) -/

/-- The slot of a Q2 command is bound to the context's virtual device. -/
def progMine (s : State) (c : CtxId) (p : ProgId) : Bool := (s.ctx c).vd.isSome && s.progVd p == (s.ctx c).vd

def readsSrc (d : ProgDesc) : Bool := d.stages.any fun st => st.localIn && st.inStage == 0xFF
def writesDst (d : ProgDesc) : Bool := d.stages.any fun st => st.localOut

/-- The packing of the src buffer for a stage. -/
def srcFmt (d : ProgDesc) (st : Stage) : BitVec 4 := if st.kind = kindForward then d.outFmt else d.inFmt

/-- Bytes of a buffer of the span: the widest of the packings that are used (R330). -/
def srcExtent (d : ProgDesc) : Nat :=
  (d.stages.filter fun st => st.localIn && st.inStage == 0xFF).foldl (fun m st =>
    Nat.max m (packedBytes (srcFmt d st) d.span)) 0

/-- The translations of src and dst among those recorded at fetch. -/
def goTrans (x : Cmd) : Option Trans × Option Trans :=
  let src := leAt x.body 8 8
  let dst := leAt x.body 16 8
  match src, dst, x.trans with
  | 0, 0, _ => (none, none)
  | 0, _, t :: _ => (none, some t)
  | _, 0, t :: _ => (some t, none)
  | _, _, [a, b] => (some a, some b)
  | _, _, _ => (none, none)

/-- src_va and dst_va are nonzero exactly where the program uses them (R331, check 1). -/
def goBodyOk (x : Cmd) (d : ProgDesc) : Bool :=
  (leAt x.body 8 8 != 0) == readsSrc d && (leAt x.body 16 8 != 0) == writesDst d

/-- Every link that the stages name is still bound to the program's virtual device (R510). -/
def progLinked (s : State) (p : ProgId) (d : ProgDesc) : Bool :=
  d.stages.all fun st => (st.inLinks ||| st.outLinks) &&& ~~~ (s.vdev (s.prog p).vd).links == 0

/-- R331 on a command whose body passed its form: the status and its detail, none where all pass. A program that lost a link
fails last (R510; the place is a DESIGN CHOICE, log entry 142). -/
def goCheck (s : State) (x : Cmd) (p : ProgId) (d : ProgDesc) : Option (Status × BitVec 32) :=
  let g := s.prog p
  let src := leAt x.body 8 8
  let dst := leAt x.body 16 8
  let off := leAt x.body 24 6
  let ts := goTrans x
  let bufs := ts.1.toList.map (fun t => (t, srcExtent d, false)) ++
    ts.2.toList.map fun t => (t, packedBytes d.outFmt d.span, true)
  if !goBodyOk x d then some (stReserved, 0)
  else if !s.progMine x.ctx p || !(g.phase == .loaded || g.phase == .running) then some (stProgSlot, 0)
  else if leAt x.body 4 4 ≠ g.nextGo then some (stIteration, 0)
  else if off % 32 ≠ 0 ∨ d.elemTotal < off + d.span then some (stLengthRange, 0)
  else if (src ≠ 0 ∧ ts.1.isNone) ∨ (dst ≠ 0 ∧ ts.2.isNone) then
    some (stUnmapped, vaDetail (if src ≠ 0 ∧ (s.findObj x.ctx src).isNone then src else dst))
  else if bufs.any fun b => decide (b.1.len < b.2.1) then some (stLengthRange, 0)
  else if bufs.any fun b => !rightOk b.1.rights b.2.2 then some (stRights, 0)
  else if bufs.any fun b => (s.obj b.1.ctx b.1.num.toNat).taint && (s.obj b.1.ctx b.1.num.toNat).reuse == b.1.reuse then
    some (stTainted, 0)
  else if !s.progLinked p d then some (stProgDesc, 0)
  else none

/-- A PROG_GO that passes its checks would open more iterations than its program's depth (R332). -/
def goOver (s : State) (x : Cmd) (p : ProgId) (d : ProgDesc) : Bool :=
  let n := leAt x.body 4 4
  (s.goCheck x p d).isNone && (s.iterOf p n).isNone && !((s.prog p).faultedAhead.any fun e => e.1 == n) &&
    decide (d.depth ≤ (s.prog p).iters.length)

/-- A PROG_GO that would open more iterations than its program's depth waits at the head of its ring (R332). -/
def depthHolds (s : State) (x : Cmd) : Bool :=
  x.opcode == opProgGo &&
    (match (s.prog (byteAt x.body 0)).desc with
     | none => false
     | some d => s.goOver x (byteAt x.body 0) d)

/-- The first command of a ring without an outcome becomes READY, waits, or ends (R451, R454, R488). -/
def readyOne (s : State) (x : Cmd) : State :=
  let holds := (afterPrior x.opcode x.body && !(earlierOf s.fe.cmds x).isEmpty) || s.depthHolds x ||
    (x.opcode == opStgOut && !(s.ctxRefs x.ctx).isEmpty)
  if holds then s.modCmd x.ctx x.queue x.k fun y => { y with phase := .waiting }
  else match s.readyRefusal x with
  | some st => s.cmdResult x.ctx x.queue x.k st 0
  | none =>
    if x.opcode = opStgIn ∨ x.opcode = opStgOut then
      match s.stgReady x with
      | some st => s.cmdResult x.ctx x.queue x.k st 0
      | none =>
        let next := BitVec.ofNat 64 (stgSeq x.body + stgChunks x.body)
        let s := s.modSess (s.ctx x.ctx).fn fun z =>
          if x.opcode = opStgIn then { z with seqIn := next } else { z with seqOut := next }
        s.modCmd x.ctx x.queue x.k fun y => { y with phase := .ready, blocks := stgBlocks x.body }
    else s.modCmd x.ctx x.queue x.k fun y => { y with phase := .ready }

/-- One pass over the commands in ring order: `seen` holds the rings whose first command without an outcome was met. -/
def readyPass : List Cmd → List (CtxId × BitVec 3) → State → State
  | [], _, s => s
  | x :: t, seen, s =>
    let open' := x.result.isNone && x.phase != .running
    if !open' then readyPass t seen s
    else if seen.contains (x.ctx, x.queue) then
      readyPass t seen (if x.phase = .fetched then s.modCmd x.ctx x.queue x.k fun y => { y with phase := .waiting } else s)
    else if x.phase = .ready then readyPass t ((x.ctx, x.queue) :: seen) s
    else
      let s := s.readyOne x
      let ended := match s.findCmd x.ctx x.queue x.k with
        | some y => y.result.isSome
        | none => true
      readyPass t (if ended then seen else (x.ctx, x.queue) :: seen) s

def shareOf (s : State) (f : Fn) (q : BitVec 3) : Share := Tab.get {} (s.func f).shares q.toNat
def modShare (s : State) (f : Fn) (q : BitVec 3) (g : Share → Share) : State :=
  s.modFunc f fun k => { k with shares := Tab.set {} k.shares q.toNat (g (Tab.get {} k.shares q.toNat)) }

/-- R450: a function with no tokens left is passed over. -/
def bucketOk (s : State) (f : Fn) (q : BitVec 3) : Bool :=
  q == 0 || (s.shareOf f q).rate == 0 || decide (0 < (s.shareOf f q).bucket)

/-- The engine of a class is full (R212, R464), or runs a suspect replay (R528). -/
def classFull (s : State) (k : Nat) : Bool :=
  (s.eng (engineOfClass k)).replaying || ((k == 1 || k == 2) &&
    decide (4 ≤ (s.fe.cmds.filter fun x => x.phase == .running && classOf x.opcode == k).length))

/-- The engine a command needs is off (R96, R197, R214). -/
def engineOff (s : State) (op : BitVec 16) : Bool :=
  let k := classOf op
  let c := s.laneCluster .svc
  if op = opStgRekey then !s.areaOn areaStaging
  else if k = 4 then !s.areaOn areaReduction
  else if k = 3 then !s.areaOn areaStaging || (lanesSet c && stagingCount c == 0)
  else if k = 2 then (lanesSet c && cryptoCount c == 0) || (op == opCsGhash && c.ghashRetired)
  else false

/-- The READY commands of a class on a queue that may start now. -/
def startable (s : State) (k : Nat) (q : BitVec 3) : List Cmd :=
  s.fe.cmds.filter fun x => x.phase == .ready && x.result.isNone && x.queue == q && classOf x.opcode == k &&
    !s.cqBlocks x.ctx && s.bucketOk (s.ctx x.ctx).fn q

/-- The functions of some commands in rising order, those after the last one visited first. -/
def fnOrder (s : State) (xs : List Cmd) (last : Option Nat) : List Nat :=
  let fs := (List.range 256).filter fun f => xs.any fun x => (s.ctx x.ctx).fn.toNat == f
  match last with
  | none => fs
  | some l => (fs.filter fun f => decide (l < f)) ++ fs.filter fun f => decide (f ≤ l)

/-- The next command of a function: its contexts in turn. -/
def nextOf (s : State) (xs : List Cmd) (q : BitVec 3) (f : Nat) : Option Cmd :=
  let mine := xs.filter fun x => (s.ctx x.ctx).fn.toNat == f
  let cs := (List.range 1024).filter fun c => mine.any fun x => x.ctx.toNat == c
  -- the table holds the last context plus 1; 0 before the first visit
  let last := Tab.get 0 s.fe.rrCtx (q.toNat * 256 + f)
  let c := match cs.find? fun c => decide (last ≤ c) with
    | some c => c
    | none => cs.headD 0
  mine.find? fun x => x.ctx.toNat == c

/-- Issue a host read in pieces that cross no 4 KiB boundary, each with an identifier of its own (R61). -/
def dmaAsk (s : State) (x : Cmd) (f : Fn) : Nat → BitVec 64 → Nat → State
  | 0, _, _ => s
  | _ + 1, _, 0 => s
  | n + 1, a, len =>
    match s.freeDma with
    | none => s
    | some id =>
      let k := Nat.min len (4096 - a.toNat % 4096)
      let rs := Tab.set none s.fe.dmaReads id (some { ctx := x.ctx, queue := x.queue, k := x.k, left := k })
      let s := { s with fe.dmaReads := rs }
      (s.out (.hdRead f a (BitVec.ofNat 13 k) (BitVec.ofNat 8 id))).dmaAsk x f n (a + BitVec.ofNat 64 k) (len - k)

/-- Identifiers a host read takes: one for each 4 KiB of host address that it touches. -/
def dmaNeed (a : BitVec 64) (len : Nat) : Nat := (a.toNat % 4096 + len + 4095) / 4096

/-- So many identifiers are free (R61). -/
def dmaRoom (s : State) (n : Nat) : Bool :=
  decide (n ≤ ((List.range 256).filter fun i => (Tab.get none s.fe.dmaReads i).isNone).length)

/-- A started STG_IN asks for its first chunk, ciphertext and tag, as soon as the identifiers for it are free (R61). -/
def stgAsk (s : State) (x : Cmd) : State :=
  let n := Nat.min 4096 (stgTotal x.body) + 16
  if x.opcode = opStgIn && !x.asked && s.dmaRoom (dmaNeed (stgHost x.body) n) then
    (s.dmaAsk x (s.ctx x.ctx).fn 3 (stgHost x.body) n).modCmd x.ctx x.queue x.k fun y => { y with asked := true }
  else s

/-- Start a command, or end it where its engine is off (R96). -/
def grant (s : State) (k : Nat) (x : Cmd) : State :=
  let f := (s.ctx x.ctx).fn
  let cost := costOf x.opcode x.body
  let s := { s with fe := { s.fe with
    rrFn := Tab.set 0 s.fe.rrFn (k * 8 + x.queue.toNat) (f.toNat + 1)
    rrCtx := Tab.set 0 s.fe.rrCtx (x.queue.toNat * 256 + f.toNat) (x.ctx.toNat + 1) } }
  let s := if x.queue = 0 then s else s.modShare f x.queue fun h =>
    { h with deficit := h.deficit - cost, bucket := h.bucket - cost }
  let s := s.progress engArbiter
  if s.engineOff x.opcode then s.cmdResult x.ctx x.queue x.k stFnOff 0
  else
    let s := s.busyNote x.ctx
    let s := s.modCmd x.ctx x.queue x.k fun y => { y with phase := .running, started := s.now }
    let s := s.stgAsk x
    s.trace 0x01 (some x.ctx) (s.ctxSlot x.ctx) x.layer x.operator
      (leBytes 2 x.opcode.toNat ++ [x.queue.setWidth 8, 0] ++ leBytes 8 x.cookie.toNat)

/-- Visits a function needs before its deficit covers a cost. -/
def visits (h : Share) (cost : Nat) : Nat :=
  let w := Nat.max 1 h.weight.toNat
  Nat.max 1 ((cost - h.deficit + w - 1) / w)

/-- Deficit-weighted round robin on Q1 to Q4: the function being visited goes on while its deficit covers the next cost;
else every function gains its weight at each visit until one's deficit does (R448). Whole rounds are added at once. -/
def grantWeighted (s : State) (k : Nat) (q : BitVec 3) (xs : List Cmd) : State :=
  let last := Tab.get 0 s.fe.rrFn (k * 8 + q.toNat)
  let cost (f : Nat) : Nat := match s.nextOf xs q f with
    | some x => costOf x.opcode x.body
    | none => 0
  let share (f : Nat) : Share := s.shareOf (BitVec.ofNat 8 f) q
  let order := s.fnOrder xs (if last = 0 then none else some (last - 1))
  if last ≠ 0 ∧ order.contains (last - 1) ∧ cost (last - 1) ≤ (share (last - 1)).deficit then
    match s.nextOf xs q (last - 1) with
    | some x => s.grant k x
    | none => s
  else
    let need := (order.map fun f => visits (share f) (cost f)).foldl Nat.min (visits (share (order.headD 0)) (cost (order.headD 0)))
    match order.find? fun f => visits (share f) (cost f) == need with
    | none => s
    | some w =>
      let upto := order.takeWhile (· != w) ++ [w]
      let s' := order.foldl (fun (s : State) f => s.modShare (BitVec.ofNat 8 f) q fun h =>
        { h with deficit := h.deficit + (if upto.contains f then need else need - 1) * h.weight.toNat }) s
      match s.nextOf xs q w with
      | some x => s'.grant k x
      | none => s'

/-- Plain round robin on Q0. -/
def grantPlain (s : State) (k : Nat) (xs : List Cmd) : State :=
  let last := Tab.get 0 s.fe.rrFn (k * 8)
  match s.fnOrder xs (if last = 0 then none else some (last - 1)) with
  | [] => s
  | f :: _ => match s.nextOf xs 0 f with
    | some x => s.grant k x
    | none => s

/-- One grant of a class, from its highest-priority queue that can start a command. -/
def grantClass (s : State) (k : Nat) : State :=
  if s.classFull k then s
  else
    match ([0, 1, 2, 3, 4] : List (BitVec 3)).find? fun q => !(s.startable k q).isEmpty with
    | none => s
    | some q => if q = 0 then s.grantPlain k (s.startable k 0) else s.grantWeighted k q (s.startable k q)

/-- The deficit of a function with no READY command on a queue is 0. -/
def deficitsFall (s : State) : State :=
  let readys := (s.fe.cmds.filter fun x => x.phase == .ready && x.result.isNone).map fun x =>
    ((s.ctx x.ctx).fn.toNat, x.queue.toNat)
  { s with fe.fns := Tab.mapAll {} (fun f k => { k with
      shares := Tab.mapAll {} (fun q h => if readys.contains (f, q) then h else { h with deficit := 0 }) k.shares }) s.fe.fns }

/-! ### Draining and retiring (R496 to R501) -/

/-- The contexts of a function. -/
def ctxsOfFn (s : State) (f : Fn) : List CtxId := s.liveCtxs.filter fun c => (s.ctx c).fn == f

/-- A function has work left (R498). -/
def fnWork (s : State) (f : Fn) : Bool :=
  (s.fe.cmds.any fun x => (s.ctx x.ctx).fn == f) || (s.func f).mbx.busy ||
    (s.progsInUse.any fun p => (s.ctx (s.prog p).ctx).fn == f && !(s.prog p).iters.isEmpty)

/-- A DRAINING function without work is DRAINED. -/
def drainCheck (s : State) (f : Fn) : State :=
  if (s.func f).phase = .draining ∧ !s.fnWork f then
    (s.modFunc f fun k => { k with phase := .drained, drained := true }).msiPf
  else s

def drainPoll (s : State) : State :=
  (s.fe.fns.filter fun e => e.2.phase == .draining).foldl (fun (s : State) e => s.drainCheck (BitVec.ofNat 8 e.1)) s

/-- The epoch: READY transitions, one grant per engine class, deficits. -/
def epoch (s : State) : State :=
  if !s.running || !s.areaOn areaFrontEnd then s
  else
    let s := { s with fe.passes := s.fe.passes + 1 }
    let s := readyPass s.fe.cmds [] s
    let s := [0, 1, 2, 3, 4].foldl grantClass s
    s.deficitsFall.drainPoll

/-- Every bucket gains its rate, up to its burst (R450). -/
def refill (s : State) : State :=
  if !s.running then s
  else { s with fe.fns := Tab.mapAll {} (fun _ k => { k with
      shares := Tab.mapAll {} (fun _ h =>
        if h.rate ≠ 0 ∧ h.bucket < h.burst.toNat then
          { h with bucket := Min.min (h.burst.toNat : Int) (h.bucket + h.rate.toNat) }
        else h) k.shares }) s.fe.fns }

/-! ### Objects -/

def objCount (s : State) (c : CtxId) : Nat := (s.objsOf c).length
def objTotal (s : State) : Nat := (s.fe.objs.filter fun e => e.2.live).length

/-- OBJ_UNMAPs whose object no RUNNING command names complete (R462). -/
def objSettle (s : State) : State :=
  let cs := s.fe.cmds.map fun x =>
    if x.opcode = opObjUnmap ∧ x.phase = .running ∧ x.result = none ∧ !x.trans.isEmpty ∧
        !(x.trans.any fun t => s.namedRunning t.ctx t.num.toNat t.reuse) then
      { x with result := some (stOk, 0) }
    else x
  { s with fe.cmds := cs }

/-- The taint of an object whose covering fill or copy completes with ST_OK is cleared (R463). -/
def taintClear (s : State) (x : Cmd) (st : Status) : State :=
  if st = stOk ∧ (x.opcode = opMemFill ∨ x.opcode = opMemCopy) then
    match x.trans with
    | [] => s
    | t :: _ =>
      let o := s.obj t.ctx t.num.toNat
      if o.live ∧ o.reuse = t.reuse ∧ o.target = t.target ∧ t.len = o.size.toNat then
        s.setObj t.ctx t.num.toNat { o with taint := false }
      else s
  else s

/-- Table 15-7's channels: every channel a LOCAL range touches is bound to a virtual device. -/
def chansBound (s : State) (v : VdId) (o : Obj) : Bool :=
  allChans.all fun c => !touches o c || (s.vdev v).chans.getLsbD c.toNat

/-- Every line of a LOCAL range lies below its channel's KX_MC_LINES. -/
def linesBelow (s : State) (o : Obj) : Bool :=
  allChans.all fun c =>
    let base := c.toNat * 2 ^ 38
    !touches o c ||
      decide (Nat.min (o.target.toNat + o.size.toNat - base) (2 ^ 38) ≤ (s.chan c).lines.toNat * 4096 * 64)

/-- The object an OBJ_MAP body describes (Table 15-7). -/
def objOfBody (b : Bytes) : Obj :=
  { live := true, va := leBv 64 (slice b 0 8), size := leBv 64 (slice b 8 8), target := leBv 64 (slice b 16 8)
    fabric := byteAt b 24 == 1, rights := (byteAt b 25).setWidth 3, key := (byteAt b 26).setWidth 4
    links := ((slice b 32 4).take (byteAt b 27).toNat).map fun x => x.setWidth 6
    poolMember := leBv 20 (slice b 28 4) }

/-- The object names a virtual device's own resources: channels and lines, key index, or links (R460); a reserved index has no
key (R506). -/
def objResources (s : State) (c : CtxId) (v : VdId) (b : Bytes) (o : Obj) : Option Status :=
  if o.fabric then
    if (List.range (byteAt b 27).toNat).any (fun i => decide (64 ≤ (byteAt b (32 + i)).toNat)) ||
        o.links.any (fun l => !(s.vdev v).links.getLsbD l.toNat) then some stRights else none
  else if 2 ^ 43 < o.target.toNat + o.size.toNat then some stLengthRange
  else if !s.chansBound v o then some stRights
  else if !s.linesBelow o then some stLengthRange
  else if decide (16 ≤ (byteAt b 26).toNat) || !s.scopeOk (.ctx c) o.key (o.rights.getLsbD 1 || o.rights.getLsbD 2) ||
      !s.keyBound c o.key then some stKeyScope
  else if s.indexReserved o.key then some stKeyOrphan
  else none

/-- R460, then the limits of R459. -/
def objMapCheck (s : State) (c : CtxId) (b : Bytes) : Option Status :=
  let k := s.ctx c
  let o := objOfBody b
  let r : Rng := { va := o.va.toNat, len := o.size.toNat, write := false }
  if r.va < k.vaBase.toNat ∨ k.vaBase.toNat + k.vaSize.toNat < r.va + r.len then some stLengthRange
  else if (s.objsOf c).any fun e => overlap r { va := e.2.va.toNat, len := e.2.size.toNat, write := false } then some stOverlap
  else if o.rights &&& ~~~ k.rightsMax ≠ 0 ∨ (o.fabric ∧ o.rights.getLsbD 2) then some stRights
  else match k.vd with
  | none => some stRights
  | some v => match s.objResources c v b o with
    | some st => some st
    | none => if 4096 ≤ s.objCount c ∨ 65536 ≤ s.objTotal then some stObjLimit else none

/-- The free object numbers of a context. -/
def freeObjs (s : State) (c : CtxId) : List Nat := (List.range 4096).filter fun n => !(s.obj c n).live

/-- Map an object: its number is a free choice among the free ones. -/
def objMapDo (s : State) (c : CtxId) (q : BitVec 3) (k : Word) (b : Bytes) : State :=
  let free := s.freeObjs c
  let n := free.getD (Config.choice s.freeCtr % free.length) 0
  let o := { objOfBody b with reuse := (s.obj c n).reuse, mapGen := (s.ctx c).transGen }
  let s := { s with freeCtr := s.freeCtr + 1 }
  (s.setObj c n o).cmdResult c q k stOk (o.handle c (BitVec.ofNat 12 n))

/-- Meters of a context's slot (R561). -/
def ctxMeter (s : State) (c : CtxId) (m n : Nat) : State :=
  match s.ctxSlot c with
  | some d => s.meter d m n
  | none => s

/-- The blocks of a crypto service command that completes with ST_OK (Table 19-5). -/
def csMeter (s : State) (x : Cmd) (st : Status) : State :=
  if st = stOk then
    if x.opcode = opCsEnc ∨ x.opcode = opCsDec then s.ctxMeter x.ctx 24 (leAt x.body 24 4)
    else if x.opcode = opCsGhash then s.ctxMeter x.ctx 24 (leAt x.body 32 4)
    else s
  else s

/-! ### Contexts -/

/-- A destroyed context's share of the energy interval goes to its slot (Table 19-7); without one, to the block. -/
def releaseActivity (s : State) (c : CtxId) : State :=
  let n := (s.ctx c).activity
  if n = 0 then s
  else match s.ctxSlot c with
  | some d => { s with pwr.slotActivity := Tab.set 0 s.pwr.slotActivity d.toNat (Tab.get 0 s.pwr.slotActivity d.toNat + n) }
  | none => { s with pwr.blkActivity := s.pwr.blkActivity + n }

/-- Free a context: Comma with HOST_REQUEST, its objects unmapped (R458). The bases and sizes of its rings stay in the
window's registers. -/
def destroyCtx (s : State) (c : CtxId) : State :=
  let s := (s.comma c causeHostRequest).releaseActivity c
  let s := (s.objsOf c).foldl (fun (s : State) e => s.unmapObj c e.1) s
  let k := s.ctx c
  let idle (r : Ring) : Ring := { r with head := 0, tail := 0 }
  let r : IdleRings := { sq := Tab.mapAll {} (fun _ x => idle x) k.sq, cq := idle k.cq }
  (s.setCtx c {}).modFunc k.fn fun f => { f with idle := Tab.set {} f.idle k.loc.toNat r }

/-- CTX_CREATE's checks that look at the block (Table 15-6, R457). -/
def createCheck (s : State) (b : Bytes) : Option Status :=
  let c : CtxId := leBv 10 (slice b 0 2)
  if (s.ctx c).phase ≠ .free ∨ c = 0 then some stCtxBusy
  else if (s.ctxAt (byteAt b 2) ((byteAt b 3).setWidth 6)).isSome then some stCtxBusy
  else if 64 ≤ (byteAt b 4).toNat ∨ !(s.vdev ((byteAt b 4).setWidth 6)).present then some stNoVd
  else none

/-- A new context: ACTIVE, every head and tail at 0, its counters anew (R458, R467). -/
def createCtx (s : State) (b : Bytes) : State :=
  let c : CtxId := leBv 10 (slice b 0 2)
  let f : Fn := byteAt b 2
  let loc : BitVec 6 := (byteAt b 3).setWidth 6
  let r := Tab.get ({} : IdleRings) (s.func f).idle loc.toNat
  let zero (x : Ring) : Ring := { x with head := 0, tail := 0 }
  let k : Ctx := {
    phase := .active, fn := f, loc := loc, vd := some ((byteAt b 4).setWidth 6), rightsMax := (byteAt b 5).setWidth 3
    vector := leBv 11 (slice b 6 2), vaBase := leBv 64 (slice b 8 8), vaSize := leBv 64 (slice b 16 8)
    sq := Tab.mapAll {} (fun _ x => zero x) r.sq, cq := zero r.cq }
  (s.setCtx c k).modFunc f fun g => { g with idle := Tab.set {} g.idle loc.toNat {} }

/-! ### Functions -/

/-- The end of a staging session by RETIRE or an FLR (R481). -/
def sessDrop (s : State) (f : Fn) : State :=
  let s := if (s.sessOf f).opened then (s.sessEnd f).memPump else s
  s.modSess f fun _ => {}

/-- A Function Level Reset that the staging port cannot carry yet is kept until it can (R34, R134). -/
def flrKeep (s : State) (f : Fn) : State :=
  if s.sys.flrEarly.contains f then s else
    let y := s.sys
    { s with sys := { y with flrEarly := y.flrEarly ++ [f] } }

/-- Strobe hd_flr_ack; the disabled port holds it low (R34). -/
def flrAckPut (s : State) (f : Fn) : State := if s.portOn portStaging then s.out (.flrAck f) else s.flrKeep f

/-- RETIRE's actions (R499). -/
def retireFn (s : State) (f : Fn) : State :=
  let s := (s.ctxsOfFn f).foldl destroyCtx s
  let s := s.sessDrop f
  let ack := (s.func f).flrPending
  let s := s.modFunc f fun k => { k with phase := .closed, mbx := {}, spdm := 0, idle := [], qsel := 0, flrPending := false }
  let s := { s with clk.enFn := setBitTo s.clk.enFn f.toNat false }
  if ack then s.flrAckPut f else s

/-- The Function Level Reset of the PF (R501). -/
def flrPf (s : State) : State :=
  let cs := s.ctxsOfFn 0
  let s := cs.foldl (fun (s : State) c => s.comma c causeHostRequest) s
  let s := (cs.filter (· != 0)).foldl (fun (s : State) c =>
    let s := (s.objsOf c).foldl (fun (s : State) e => s.unmapObj c e.1) s
    (s.releaseActivity c).setCtx c {}) s
  let s := (s.sessDrop 0).mbxCancel 0
  let s := s.modFunc 0 fun k => { k with mbx := {}, spdm := 0, idle := [], qsel := 0 }
  let s := { s with tel.run := false }
  ((s.traceDiscard true).controlContext).out (.flrAck 0)

/-- hd_flr_valid (R64, R134, R500). The request stays up until its acknowledgement, so one that meets the disabled port is
acted on when the port is enabled. -/
def flr (s : State) (f : Fn) : State :=
  if !s.running || !s.portOn portStaging then s.flrKeep f
  else if f = 0 then s.flrPf
  else
    match (s.func f).phase with
    | .closed => s.out (.flrAck f)
    | ph =>
      let s := s.modFunc f fun k => { k with flrPending := true, phase := if ph = .opened then .draining else ph }
      let s := s.msiPf
      if ph = .drained ∨ !s.fnWork f ∨ (s.ctxsOfFn f).isEmpty then s.retireFn f else s

/-- The Function Level Resets that were kept are acted on once the staging port is on (R34, R64). -/
def flrLate (s : State) : State :=
  let fs := s.sys.flrEarly
  fs.foldl flr { s with sys.flrEarly := [] }

end State

end Sys2Proof.Machine
end

