-- ==== Sys2Proof/Machine/EngOps.lean ====
section
/-! DEFINITION. Accesses of commands to the ranges they name: lines read and written through the memory engine or over the
fabric (R226, R227, R425 to R428, R464). -/

namespace Sys2Proof.Machine

/-- How a sequence of accesses ends: the row must wait, it failed with a status and perhaps the security alarm, or it went
through, with the answers not used. -/
inductive Got (α : Type) where
  | wait
  | failed (st : Status) (alarm : Bool)
  | ok (x : α) (rest : List McRsp)
  deriving DecidableEq, Repr

/-- The place of a fabric line among a command's ranges. -/
def fabKey (idx line : Nat) : Nat := idx * 2 ^ 36 + line % 2 ^ 36

/-- The line address of line `i` of a range. -/
def transLine (t : Trans) (i : Nat) : Nat := t.target.toNat / 64 + i

/-- Lines a range touches. -/
def transLines (t : Trans) : Nat := (State.linesOf t.target t.len).2

namespace State

/-- Read line `i` of range `idx` of a command. Each line read through the memory engine takes the next controller answer of
the row; a row with too few answers waits. -/
def getLine (s : State) (m : Master) (x : Cmd) (idx : Nat) (t : Trans) (i : Nat) (rsps : List McRsp) : State × Got Line :=
  if t.fabric then
    match Tab.get none x.fabGot (fabKey idx (transLine t i)) with
    | some p => (s, .ok p rsps)
    | none => (s, .wait)
  else match rsps with
  | [] => (s, .wait)
  | r :: rest =>
    match s.readNow m t.key (BitVec.ofNat 43 (64 * transLine t i)) r with
    | (u, .wait) => (u, .wait)
    | (u, .failed st a) => (u, .failed st a)
    | (u, .done p) => (u, .ok p rest)

/-- Write the bytes in `mask` of line `i` of a range: a request of the command's at the memory cluster, answered by the
controller in a step of its own (R45, R227, R237); over the fabric it is one WRITE (R426). -/
def putLine (s : State) (m : Master) (x : Cmd) (idx : Nat) (t : Trans) (i : Nat) (mask : BitVec 64) (p : Line)
    (rsps : List McRsp) : State × Got Unit :=
  if t.fabric then
    let w : FabWait := { line := BitVec.ofNat 36 (transLine t i), write := true, mask := mask, data := p, ctx := x.ctx,
                         vd := ((s.ctx x.ctx).vd).getD 0, owner := .cmd x.queue x.k (fabKey idx (transLine t i)) }
    match s.fabIssue t.links w with
    | (u, none) => (u, .ok () rsps)
    | (u, some st) => (u, .failed st false)
  else
    match s.memPut { master := m, key := t.key, dpa := BitVec.ofNat 43 (64 * transLine t i), write := some (mask, p),
                     atomic := false, refs := s.ctxRefs x.ctx, tag := some (.cmd x.ctx x.queue x.k) } with
    | (u, none) => (u, .ok () rsps)
    | (u, some st) => (u, .failed st false)

/-- The lines of a range from line `i` on, as bytes. -/
def getLines (s : State) (m : Master) (x : Cmd) (idx : Nat) (t : Trans) : Nat → Nat → List McRsp → State × Got Bytes
  | 0, _, rsps => (s, .ok [] rsps)
  | n + 1, i, rsps =>
    match s.getLine m x idx t i rsps with
    | (u, .ok p rest) =>
      (match u.getLines m x idx t n (i + 1) rest with
       | (v, .ok bs r2) => (v, .ok (lineBytes p ++ bs) r2)
       | (v, .wait) => (v, .wait)
       | (v, .failed st a) => (v, .failed st a))
    | (u, .wait) => (u, .wait)
    | (u, .failed st a) => (u, .failed st a)

/-- The bytes of a whole range. -/
def getRange (s : State) (m : Master) (x : Cmd) (idx : Nat) (t : Trans) (rsps : List McRsp) : State × Got Bytes :=
  match s.getLines m x idx t (transLines t) 0 rsps with
  | (u, .ok bs rest) => (u, .ok (slice bs (t.target.toNat % 64) t.len) rest)
  | (u, .wait) => (u, .wait)
  | (u, .failed st a) => (u, .failed st a)

/-- The byte mask of `n` bytes from offset `o` of a line. -/
def byteMask (o n : Nat) : BitVec 64 := BitVec.ofNat 64 ((2 ^ n - 1) * 2 ^ o)

/-- Write bytes from an offset of the first line on, line by line. -/
def putBytes (s : State) (m : Master) (x : Cmd) (idx : Nat) (t : Trans) : Nat → Nat → Nat → Bytes → List McRsp →
    State × Got Unit
  | 0, _, _, _, rsps => (s, .ok () rsps)
  | n + 1, i, o, bs, rsps =>
    if bs.isEmpty then (s, .ok () rsps)
    else
      let k := Nat.min (64 - o) bs.length
      match s.putLine m x idx t i (byteMask o k) (bytesLine (zeros o ++ bs.take k)) rsps with
      | (u, .ok () rest) => u.putBytes m x idx t n (i + 1) 0 (bs.drop k) rest
      | (u, .wait) => (u, .wait)
      | (u, .failed st a) => (u, .failed st a)

/-- Write a whole range. -/
def putRange (s : State) (m : Master) (x : Cmd) (idx : Nat) (t : Trans) (bs : Bytes) (rsps : List McRsp) :
    State × Got Unit :=
  s.putBytes m x idx t (transLines t) 0 (t.target.toNat % 64) bs rsps

/-- The fabric lines some ranges of a command still lack: place, line and links. -/
def fabLacks (x : Cmd) (srcs : List (Nat × Trans)) : List (Nat × Nat × List LinkId) :=
  srcs.flatMap fun e =>
    if e.2.fabric then
      (List.range (transLines e.2)).filterMap fun i =>
        let k := fabKey e.1 (transLine e.2 i)
        if (Tab.get none x.fabGot k).isNone then some (k, transLine e.2 i, e.2.links) else none
    else []

/-- A fabric request of a command is outstanding or waits at its engine. -/
def fabPending (s : State) (x : Cmd) : Bool :=
  let mine : CtxId → FabOwner → Bool := fun c o => c == x.ctx && (match o with
    | .cmd q k _ => q == x.queue && k == x.k
    | _ => false)
  s.links.any fun e => (e.2.fabOut.any fun o => mine o.ctx o.owner) || e.2.fabWait.any fun w => mine w.ctx w.owner

/-- Ask for the fabric lines a command reads; a line that cannot be asked for ends the command with its status. -/
def fabAsk (s : State) (x : Cmd) : List (Nat × Nat × List LinkId) → State
  | [] => s
  | (k, line, links) :: t =>
    let w : FabWait := { line := BitVec.ofNat 36 line, write := false, mask := 0, data := 0, ctx := x.ctx,
                         vd := ((s.ctx x.ctx).vd).getD 0, owner := .cmd x.queue x.k k }
    match s.fabIssue links w with
    | (u, none) => u.fabAsk x t
    | (u, some st) => u.cmdResult x.ctx x.queue x.k st 0

/-- The fabric lines of a command's sources: some state while they are being fetched, none once all are there. -/
def fabFetch (s : State) (x : Cmd) (srcs : List (Nat × Trans)) : Option State :=
  let lacks := fabLacks x srcs
  if lacks.isEmpty then none
  else if s.fabPending x then some s
  else some (s.fabAsk x lacks)

/-- End a row: `s` is the state a row that had to wait leaves, `u` the state its accesses left. A row that made every access
leaves the command to end with its writes. -/
def accessEnd (s u : State) (x : Cmd) (g : Got Unit) : State :=
  match g with
  | .wait => s
  | .failed st a => (u.cmdResult x.ctx x.queue x.k st 0).alarmComma (.ctx x.ctx) a
  | .ok _ _ => u.modCmd x.ctx x.queue x.k fun y => { y with issued := true }

/-- Forget an outcome's value. -/
def toUnit {α : Type} (g : Got α) : Got Unit :=
  match g with
  | .wait => .wait
  | .failed st a => .failed st a
  | .ok _ r => .ok () r

/-- An engine's progress by n (R523). -/
def progressBy (s : State) (e n : Nat) : State := s.modEng e fun g => { g with progress := g.progress + n }

end State

end Sys2Proof.Machine
end

