-- ==== Sys2Proof/Machine/Staging.lean ====
section
/-! DEFINITION. Staging: STG_REKEY (R483, R484), STG_IN and STG_OUT (R485 to R491), host read completions and failures (R61,
R63, R503, R608), Function Level Resets (R64). -/

namespace Sys2Proof.Machine

namespace State

/-! ### STG_REKEY -/

/-- kc of a generation (R483). -/
def stageKc (s : State) (f : Fn) (dir : Nat) (gen : BitVec 32) : Bytes :=
  kdf (leBytes 32 (s.stageKey f dir gen).toNat) "KX3-STAGE-KC" (leBytes 1 dir ++ leBytes 4 gen.toNat) 128

/-- R483. A direction already rolling is found before gen and kc are judged (DESIGN CHOICE, log entry 31). -/
def opRekey (s : State) (c : CtxId) (k : Word) : State :=
  match s.runningCmd c 1 k opStgRekey with
  | none => s
  | some x =>
    let f := (s.ctx c).fn
    let z := s.sessOf f
    let dir := (byteAt x.body 0).toNat % 2
    let gen : BitVec 32 := leBv 32 (slice x.body 4 4)
    let mine : Option Rekey → Bool := fun r => match r with
      | some r => r.ctx == c && r.k == k
      | none => false
    let cur := if dir = 0 then z.rekeyIn else z.rekeyOut
    if mine cur then s.stgRoll f
    else if x.cancel then s.cmdResult c 1 k stCancelled 0
    else if !z.opened || !s.keyUsable (rowSss f) then s.cmdResult c 1 k stKeyOrphan 0
    else if cur.isSome then s.cmdResult c 1 k stSlotBusy 0
    else if gen ≠ (s.row (rowStage f dir)).gen + 1 ∨ slice x.body 8 16 ≠ s.stageKc f dir gen then
      s.cmdResult c 1 k stKeyUnwrap 0
    else
      let s := s.progress engTrust
      let r : Rekey := { ctx := c, k := k, gen := gen }
      (s.modSess f fun z => if dir = 0 then { z with rekeyIn := some r } else { z with rekeyOut := some r }).stgRoll f

/-! ### Tiles and chunks (R485, R486) -/

/-- The pieces of a stream from position `p` on: device address and length, each within one row and one line. -/
def tilePieces (base : Nat) (b : Bytes) : Nat → Nat → Nat → List (Nat × Nat)
  | 0, _, _ => []
  | _ + 1, _, 0 => []
  | n + 1, p, len =>
    let rb := stgRowBytes b
    let a := base + p / rb * (if stgRows b = 1 then 0 else stgStride b) + p % rb
    let k := Nat.min len (Nat.min (rb - p % rb) (64 - a % 64))
    (a, k) :: tilePieces base b n (p + k) (len - k)

def chunkLen (b : Bytes) (i : Nat) : Nat := Nat.min 4096 (stgTotal b - 4096 * i)
def chunkBlocks (b : Bytes) (i : Nat) : Nat := (chunkLen b i + 15) / 16
def chunkIv (x : Cmd) (i : Nat) : Bytes := groupIv x.material (BitVec.ofNat 64 (stgSeq x.body + i))
def stgKey (x : Cmd) : Bytes := leBytes 32 x.material.toNat
def stgAad (x : Cmd) (f : Fn) (dir : Byte) : Bytes := leBytes 8 (stgTotal x.body) ++ [f, dir] ++ zeros 6
/-- Host address of a chunk. -/
def chunkHost (b : Bytes) (i : Nat) : BitVec 64 := stgHost b + BitVec.ofNat 64 (4112 * i)

/-- The row still holds the key that a command fetched. -/
def stgLive (s : State) (x : Cmd) (r : Nat) : Bool :=
  (s.row r).valid && (s.row r).gen == x.boundGen && (s.row r).material == x.material

/-- What a chunk leaves in the counters: its blocks under the key (R482), lane operations, bytes on the meter, progress. -/
def chunkNote (s : State) (x : Cmd) (f : Fn) (dir i : Nat) : State :=
  let n := chunkBlocks x.body i
  let r := rowStage f dir
  let was := (s.row r).use.toNat
  let live := s.stgLive x r
  let s := if live then s.useKey r n else s
  let s := if live && decide (was < 2 ^ 31) && decide (2 ^ 31 ≤ was + n) then
      (s.modSess f fun z => if dir = 0 then { z with thrIn := true } else { z with thrOut := true }).keyEvent kevThreshold
    else s
  ((s.activity (some x.ctx) (4 * (n + 1))).ctxMeter x.ctx (26 + dir) (chunkLen x.body i)).progress engStaging

/-- The line of a last chunk that is one line and shares it with no other chunk. -/
def soleLine (x : Cmd) (t : Trans) : Option Dpa :=
  let b := x.body
  let n := stgChunks b - 1
  let lines (i : Nat) : List Nat :=
    (tilePieces t.target.toNat b (chunkLen b i) (4096 * i) (chunkLen b i)).map fun e => e.1 / 64
  match lines n with
  | [l] => if n ≠ 0 ∧ (lines (n - 1)).contains l then none else some (BitVec.ofNat 43 (64 * l))
  | _ => none

/-- Every chunk is through. The detail of ST_OK: blocks left under the key (R491). A key that is gone has no count any more,
and the value is free (log entry 32). -/
def stgDone (s : State) (x : Cmd) (t : Trans) (f : Fn) (dir : Nat) : State :=
  let r := rowStage f dir
  let live := s.stgLive x r
  let d := if live then BitVec.ofNat 32 (2 ^ 32 - (s.row r).use.toNat) else BitVec.ofNat 32 (Config.choice s.freeCtr)
  let s := if live then s else { s with freeCtr := s.freeCtr + 1 }
  s.modCmd x.ctx x.queue x.k fun y => { y with issued := true, detail := d, blocks := 0, sole := soleLine x t }

/-! ### STG_IN -/

/-- The reads of a command have been answered. -/
def dmaForget (s : State) (x : Cmd) : State :=
  { s with fe.dmaReads := s.fe.dmaReads.filter fun e => match e.2 with
      | some r => !dmaMine x r
      | none => false }

/-- Write pieces of a chunk; the flag says that a byte has been written. -/
def putPieces (s : State) (x : Cmd) (t : Trans) : List (Nat × Nat) → Bytes → Bool → List McRsp → State × Bool × Got Unit
  | [], _, w, rsps => (s, w, .ok () rsps)
  | (a, n) :: ps, bs, w, rsps =>
    let t' : Trans := { t with target := BitVec.ofNat 64 a, len := n }
    match s.putLine (.staging x.ctx) x 0 t' 0 (byteMask (a % 64) n) (bytesLine (zeros (a % 64) ++ bs.take n)) rsps with
    | (u, .ok () rest) => u.putPieces x t ps (bs.drop n) true rest
    | (u, g) => (u, w, g)

/-- How a staging row ends: it waits, or this is the state with the command's outcome. -/
abbrev RowEnd := Option State

/-- The chunks of an STG_IN from chunk `i` on (R489). The row gives one host entry a chunk: the bytes that arrived, and
the status; the reads of a later chunk are asked for and answered within the row. Without an answer, or without identifiers
to ask with, the row waits. -/
def inChunks (s : State) (x : Cmd) (t : Trans) (f : Fn) : Nat → Nat → List DmaData → List McRsp → RowEnd
  | 0, _, _, _ => some (s.stgDone x t f 0)
  | n + 1, i, host, rsps =>
    match host with
    | [] => none
    | d :: rest =>
      let len := chunkLen x.body i
      if i ≠ 0 ∧ !s.dmaRoom (dmaNeed (chunkHost x.body i) (len + 16)) then none
      else if !dmaWhole d (len + 16) then none
      else
      let s := (if i = 0 then s else s.dmaAsk x f 3 (chunkHost x.body i) (len + 16)).dmaForget x
      let ok := d.status == 0
      let got := if ok then d.data else d.data.take len
      let ct := got.take len
      let pt := gcmOpen (stgKey x) (chunkIv x i) ct
      match s.putPieces x t (tilePieces t.target.toNat x.body ct.length (4096 * i) ct.length) pt false rsps with
      | (_, _, .wait) => none
      | (u, w, .failed st a) =>
        let u := if w then u.stgTaint t else u
        some ((u.cmdResult x.ctx x.queue x.k st 0).alarmComma (.staging x.ctx) a)
      | (u, w, .ok _ r2) =>
        if !ok then some ((if w then u.stgTaint t else u).cmdResult x.ctx x.queue x.k stHostDma 0)
        else
          let u := u.chunkNote x f 0 i
          if gcmTag (stgKey x) (chunkIv x i) (stgAad x f 0) ct == slice got len 16 then
            u.inChunks x t f n (i + 1) rest r2
          else some ((u.stgTaint t).cmdResult x.ctx x.queue x.k stAuthUntrusted (BitVec.ofNat 32 i))

/-- An entry of a row holds more bytes than its chunk's reads asked for (R36, R608). -/
def inTooLong (x : Cmd) (host : List DmaData) : Bool :=
  (host.zipIdx.take (stgChunks x.body)).any fun e => decide (chunkLen x.body e.2 + 16 < e.1.data.length)

/-- Read pieces of a chunk; a line with fence entries makes the row wait (Table 9-6). -/
def getPieces (s : State) (x : Cmd) (t : Trans) : List (Nat × Nat) → List McRsp → State × Got Bytes
  | [], rsps => (s, .ok [] rsps)
  | (a, n) :: ps, rsps =>
    let t' : Trans := { t with target := BitVec.ofNat 64 a, len := n }
    if !(s.fencedOn (BitVec.ofNat 43 a)).isEmpty then (s, .wait)
    else match s.getLine (.staging x.ctx) x 0 t' 0 rsps with
    | (u, .ok p rest) =>
      (match u.getPieces x t ps rest with
       | (v, .ok bs r2) => (v, .ok (slice (lineBytes p) (a % 64) n ++ bs) r2)
       | (v, g) => (v, g))
    | (u, .wait) => (u, .wait)
    | (u, .failed st al) => (u, .failed st al)

/-- The chunks of an STG_OUT from chunk `i` on (R490). -/
def outChunks (s : State) (x : Cmd) (t : Trans) (f : Fn) : Nat → Nat → List McRsp → RowEnd
  | 0, _, _ => some (s.stgDone x t f 1)
  | n + 1, i, rsps =>
    let len := chunkLen x.body i
    match s.getPieces x t (tilePieces t.target.toNat x.body len (4096 * i) len) rsps with
    | (_, .wait) => none
    | (u, .failed st a) => some ((u.cmdResult x.ctx x.queue x.k st 0).alarmComma (.staging x.ctx) a)
    | (u, .ok pt rest) =>
      let r := gcmSeal (stgKey x) (chunkIv x i) (stgAad x f 1) pt
      ((u.chunkNote x f 1 i).hostWrite f (chunkHost x.body i) (r.1 ++ r.2)).outChunks x t f n (i + 1) rest

/-- A staging row at its chunk boundary: cancelled, in a Fragment, the port off, or run (R491, Table 16-7). -/
def stgRow (s : State) (c : CtxId) (k : Word) (op : BitVec 16) (f : State → Cmd → Trans → RowEnd) : State :=
  match s.runningCmd c 4 k op with
  | none => s
  | some x =>
    if x.issued then s
    else if x.cancel then s.cmdResult c 4 k stCancelled 0
    else if (match s.ctxSlot c with
        | some d => s.isFragment d
        | none => false) then s.cmdResult c 4 k stFragment 0
    else if !s.portOn portStaging then s.cmdResult c 4 k stFnOff 0
    else match x.trans with
    | [t] => (f s x t).getD s
    | _ => s

/-- R489. A row whose first chunk has not been asked for asks for it. -/
def opIn (s : State) (c : CtxId) (k : Word) (host : List DmaData) (rsps : List McRsp) : State :=
  s.stgRow c k opStgIn fun u x t =>
    if !x.asked then some (u.stgAsk x)
    else if inTooLong x host then some (u.portViolation 1 0 0 2)
    else u.inChunks x t (s.ctx c).fn (stgChunks x.body) 0 host rsps

/-- R490. The STG_OUT of an unsettled context is held (Table 9-6). -/
def opOut (s : State) (c : CtxId) (k : Word) (rsps : List McRsp) : State :=
  s.stgRow c k opStgOut fun u x t =>
    if (u.ctxRefs c).isEmpty then u.outChunks x t (s.ctx c).fn (stgChunks x.body) 0 rsps else none

/-! ### Host reads and their failures -/

/-- A staging command that has not failed ends with ST_HOST_DMA: nothing further is written for it to device memory (R63). -/
def hostFail (s : State) (x : Cmd) : State :=
  (s.memDropTag (.cmd x.ctx x.queue x.k)).modCmd x.ctx x.queue x.k fun y =>
    if (match y.result with
      | none => true
      | some r => r.1 == stOk) then { y with result := some (stHostDma, 0), blocks := 0 } else y

/-- The staging port accepts completions as requesters of them: the block runs and the port is on. -/
def stgPortOn (s : State) : Bool := s.running && s.portOn portStaging

/-- A read completion outside a row that carries its own (R61, R63, R608). What is owed to a command that ended, to a disabled
port or over a Full Stop is accepted and discarded (R35). -/
def opDmaRead (s : State) (id : BitVec 8) (status : BitVec 2) (bytes : BitVec 13) (last : Bool) : State :=
  match Tab.get none s.fe.dmaReads id.toNat with
  | none => if s.stgPortOn then s.portViolation 1 0 0 0 else s
  | some r =>
    let set (s : State) (v : Option DmaRead) : State :=
      let rs := Tab.set none s.fe.dmaReads id.toNat v
      { s with fe.dmaReads := rs }
    if r.left < bytes.toNat then (if s.stgPortOn then s.portViolation 1 0 0 2 else s)
    else if status ≠ 0 then
      (match s.findCmd r.ctx r.queue r.k with
       | some x => if r.gone then set s none else (set s none).hostFail x
       | none => set s none)
    else set s (if last then none else some { r with left := r.left - bytes.toNat })

/-- The PF reports a failed posted write of a function: its RUNNING staging commands end with ST_HOST_DMA (R63, R503). -/
def hostErr (s : State) (f : Fn) : State :=
  (s.fe.cmds.filter fun x => x.phase == .running && (x.opcode == opStgIn || x.opcode == opStgOut) &&
    (s.ctx x.ctx).fn == f).foldl hostFail s

def opHostErr (s : State) (f : Fn) : State :=
  if s.running && s.areaOn areaStaging then
    { s.hostErr f with fe := { (s.hostErr f).fe with stgErrFn := f } }
  else s

end State

def execStgRekey (c : CtxId) (k : Word) (s : State) : Host.Outcome State Fault Refusal := .next (s.opRekey c k)
def execStgIn (c : CtxId) (k : Word) (host : List DmaData) (rsps : List McRsp) (s : State) :
    Host.Outcome State Fault Refusal := settled (s.opIn c k host rsps)
def execStgOut (c : CtxId) (k : Word) (rsps : List McRsp) (s : State) : Host.Outcome State Fault Refusal :=
  settled (s.opOut c k rsps)
def execDmaReadCompletion (id : BitVec 8) (status : BitVec 2) (bytes : BitVec 13) (last : Bool) (s : State) :
    Host.Outcome State Fault Refusal := settled (s.opDmaRead id status bytes last)
def execHostErrReport (f : Fn) (s : State) : Host.Outcome State Fault Refusal := settled (s.opHostErr f)
def execHdFlrValid (f : Fn) (s : State) : Host.Outcome State Fault Refusal := settled (s.flr f)

end Sys2Proof.Machine
end

