-- ==== Sys2Proof/Machine/Startup.lean ====
section
/-! DEFINITION. Start-up (R103 to R134), power, reset and the reference clock: POR_B_RISE, POR_B_FALL, SYS_RST_B_PULSE,
REFCLK_LOST, REFCLK_RETURN, REFERENCE_SETTLE_DELAY_END, FULL_STOP_DONE. -/

namespace Sys2Proof.Machine

/-! ### The life-cycle word (R137 to R139) -/

structure LcDecode where
  state : BitVec 2
  isPartial : Bool := false
  invalid : Bool := false
  deriving DecidableEq, Repr

def lcPat1 : BitVec 16 := 0x5A3C
def lcPat2 : BitVec 16 := 0xC396
def lcPat3 : BitVec 16 := 0x69A5

def lcInvalid : LcDecode := { state := 3, invalid := true }

/-- R139, in the order of its code. -/
def lcDecode (w : BitVec 64) : LcDecode :=
  let s1 : BitVec 16 := w.extractLsb' 0 16
  let s2 : BitVec 16 := w.extractLsb' 16 16
  let s3 : BitVec 16 := w.extractLsb' 32 16
  if w.extractLsb' 48 16 ≠ 0 then lcInvalid
  else if s1 &&& ~~~ lcPat1 ≠ 0 ∨ s2 &&& ~~~ lcPat2 ≠ 0 ∨ s3 &&& ~~~ lcPat3 ≠ 0 then lcInvalid
  else if s3 ≠ 0 then
    if s1 ≠ lcPat1 ∨ (s2 ≠ 0 ∧ s2 ≠ lcPat2) then lcInvalid
    else { state := 3, isPartial := s3 != lcPat3 }
  else if s2 ≠ 0 then
    if s1 ≠ lcPat1 then lcInvalid else { state := 2, isPartial := s2 != lcPat2 }
  else if s1 ≠ 0 then { state := 1, isPartial := s1 != lcPat1 }
  else { state := 0 }

/-- The segment programmed when entering a state (Table 5-2). -/
def lcSegment (state : BitVec 2) : BitVec 64 :=
  if state = 1 then lcPat1.setWidth 64
  else if state = 2 then lcPat2.setWidth 64 <<< 16
  else if state = 3 then lcPat3.setWidth 64 <<< 32
  else 0

/-! ### Images (R111 to R120) -/

def hdrLenField (h : Bytes) : Nat := leAt h 8 4
def hdrSvn (h : Bytes) : Nat := leAt h 12 4
def hdrImgSeq (h : Bytes) : Nat := leAt h 16 4
def hdrSections (h : Bytes) : Nat := leAt h 20 2
def hdrFlags (h : Bytes) : Nat := leAt h 22 2
def hdrSigOff (h : Bytes) : Nat := leAt h 24 4
def hdrRole (h : Bytes) : Byte := byteAt h 7

/-- R117 without its rollback condition. A sig_offset that is no multiple of 16 is out of the form of Table 4-3. -/
def headerShape (h : Bytes) : Bool :=
  decide (64 ≤ h.length) && leAt h 0 4 == 0x4D49584B && leAt h 4 2 == 3 && zeroAt h 28 36 && hdrFlags h / 2 == 0 &&
    decide (8 ≤ (byteAt h 6).toNat) && decide ((byteAt h 6).toNat ≤ 31) && decide ((hdrRole h).toNat ≤ 1) &&
    decide (8192 ≤ hdrLenField h) && decide (hdrLenField h ≤ 4194304) && decide (hdrSvn h ≤ 64) &&
    decide (4 ≤ hdrSections h) && decide (hdrSections h ≤ 32) && hdrLenField h == hdrSigOff h + 4736 &&
    hdrSigOff h % 16 == 0 && decide (64 + 16 * hdrSections h ≤ hdrSigOff h)

def headerValid (h : Bytes) (rollback : Nat) : Bool := headerShape h && decide (rollback ≤ hdrSvn h)

/-- A section: type, offset, length. -/
structure Section where
  type : Nat
  off : Nat
  len : Nat
  deriving DecidableEq, Repr

def sectionsOf (img : Bytes) : List Section :=
  (List.range (hdrSections img)).map fun k =>
    let o := 64 + 16 * k
    { type := leAt img o 2, off := leAt img (o + 4) 4, len := leAt img (o + 8) 4 }

def sectionBytes (img : Bytes) (ss : List Section) (type : Nat) : Bytes :=
  match ss.find? fun x => x.type == type with
  | none => []
  | some x => slice img x.off x.len

/-- Two sections share no byte. -/
def apart (a b : Section) : Bool := decide (a.off + a.len ≤ b.off) || decide (b.off + b.len ≤ a.off)

def pairwiseApart : List Section → Bool
  | [] => true
  | a :: t => t.all (apart a) && pairwiseApart t

/-- Check 2 of R120, with Tables 4-4 and 4-5. -/
def sectionsOk (img : Bytes) (ss : List Section) : Bool :=
  let tableEnd := 64 + 16 * hdrSections img
  let n (t : Nat) : Nat := (ss.filter fun x => x.type == t).length
  ((List.range (hdrSections img)).all fun k => zeroAt img (64 + 16 * k + 2) 2 && zeroAt img (64 + 16 * k + 12) 4) &&
    (ss.all fun x =>
      decide (1 ≤ x.type) && decide (x.type ≤ 4) && x.len != 0 && x.off % (if x.type = 1 then 4096 else 16) == 0 &&
        decide (tableEnd ≤ x.off) && decide (x.off + x.len ≤ hdrSigOff img) && (x.type != 3 || x.len == 64) &&
        (x.type != 4 || (x.len == 2689 && byteAt img (x.off + 2592) == 0x04))) &&
    n 1 == 1 && n 2 == 1 && n 4 == 1 && decide (n 3 ≤ 1) && pairwiseApart ss

/-- CONFIG records (R114): types and bodies, none where the section is malformed. -/
def cfgRecords : Nat → Bytes → Option (List (Nat × Bytes))
  | _, [] => some []
  | 0, _ => none
  | f + 1, bs =>
    let n := leAt bs 2 2
    if bs.length < 4 ∨ n = 0 ∨ bs.length < 4 + n then none
    else
      let r := (leAt bs 0 2, slice bs 4 n)
      let rest := bs.drop (4 + n)
      let pad := (4 - n % 4) % 4
      if rest.isEmpty then some [r]
      else if rest.length < pad ∨ !zeroAt rest 0 pad then none
      else (cfgRecords f (rest.drop pad)).map fun t => r :: t

/-! ### Failure codes (Table 4-9) -/
def fcLcEnd : BitVec 8 := 0x01
def fcLcBlank : BitVec 8 := 0x02
def fcOtp : BitVec 8 := 0x03
def fcCore : BitVec 8 := 0x04
def fcBist : BitVec 8 := 0x05
def fcKatPke : BitVec 8 := 0x06
def fcImgNone : BitVec 8 := 0x07
def fcImgRollback : BitVec 8 := 0x08
def fcImgFormat : BitVec 8 := 0x09
def fcImgSigner : BitVec 8 := 0x0A
def fcImgSig : BitVec 8 := 0x0B
def fcRole : BitVec 8 := 0x0C
def fcCfgRecord : BitVec 8 := 0x0D

namespace State

/-! ### OTP (R138 to R145) -/

def otpRow (s : State) (r : Nat) : BitVec 64 := Tab.get 0 s.otp r

/-- Programming only sets bits. -/
def otpSetBits (s : State) (r : Nat) (x : BitVec 64) : State := { s with otp := Tab.set 0 s.otp r (s.otpRow r ||| x) }

def lcWord (s : State) : BitVec 64 := s.otpRow 0 ||| s.otpRow 1

/-- The row a used entry of the spare map names, with its spare row (R144). -/
def spareMap (s : State) : List (Nat × Nat) :=
  let m := s.otpRow 60 ||| s.otpRow 61
  (List.range 8).filterMap fun e =>
    let b : Byte := m.extractLsb' (8 * e) 8
    let r := b.toNat % 128
    if b.getLsbD 7 && decide (4 ≤ r) && decide (r ≤ 55) then some (r, 64 + e) else none

/-- Spare rows in use: those that serve a row. An entry that R144 ignores, or that a lower one stands before, serves none. -/
def sparesInUse (s : State) : Nat := (s.spareMap.map (·.1)).eraseDups.length

/-- The physical row that serves a row. -/
def otpPhys (s : State) (r : Nat) : Nat := ((s.spareMap.find? fun e => e.1 == r).map (·.2)).getD r

/-- The content of rows `r` to `r + n - 1` as bytes. -/
def otpBytes (s : State) (r n : Nat) : Bytes := (List.range n).flatMap fun k => leBytes 8 (s.otpRow (s.otpPhys (r + k))).toNat

/-- The rollback counter (R122). -/
def rollback (s : State) : Nat := popcount (s.otpRow 2)

/-- The device unique secret has been programmed: its rows are not all 0 (DEDUCED, log entry 28). -/
def dusThere (s : State) : Bool := !zeroAt (s.otpBytes 4 4) 0 32

/-- A signer slot whose revoke bit is clear holds a digest (R120 check 3). -/
def signerOk (s : State) (dig : Bytes) : Bool :=
  (List.range 4).any fun i => !(s.otpRow 3).getLsbD i && s.otpBytes (8 + 6 * i) 6 == dig

/-! ### Failure (R131) -/

def startFail (s : State) (n : BitVec 4) (code : BitVec 8) : State :=
  let s := { s with sys.phase := .failed, boot.step := n, boot.failCode := code, clk.flashDone := true }
  let s := s.setGrade 3
  let s := { s with tray.reason := code }
  let s := { s with clk.enPort := setBitTo s.clk.enPort portReg true }
  if code = fcLcEnd ∨ code = fcLcBlank then { s with clk.enArea := setBitTo s.clk.enArea areaLcd true } else s

/-! ### The steps of Table 4-1 -/

/-- A step's outcome: the state, and whether the start goes on. -/
abbrev Stage2 := State × Bool

def stFail (s : State) (n : BitVec 4) (code : BitVec 8) : Stage2 := (s.startFail n code, false)

/-- Step 3. -/
def stepCore (s : State) (env : StartEnv) : Stage2 :=
  let s := { s with boot.mRom := sha384 env.rom }
  if env.coreMismatch && (env.coldMismatch || s.flt.health.coldCore) then s.stFail 3 fcCore
  else ({ s with flt.health.coldCore := s.flt.health.coldCore || env.coreMismatch }, true)

/-- The island's part of step 4 (R580, R581, R562). -/
def stepIsland (s : State) : State :=
  let tamp := s.isl.causeValid || s.isl.keyState == 2
  let s := { s with isl.tamperAtStart := tamp }
  let s := if s.boot.afterPor then
      let m := s.isl.mono + 1
      { s with isl.mono := m, pwr.run := m.setWidth 32, boot.afterPor := false }
    else s
  if tamp then s.trayPost trayTamper else s

/-- Step 4: the life cycle before anything else (R127, R139), with the gate of the factory test modes and the debug port of a
Test unit (R135, R147); the spare map, the device unique secret. -/
def stepOtp (s : State) (env : StartEnv) : Stage2 :=
  let s := s.stepIsland
  let d := lcDecode s.lcWord
  let s := if d.isPartial then (s.otpSetBits 0 (lcSegment d.state)).otpSetBits 1 (lcSegment d.state) else s
  let l := s.lcd
  let test := d.state == 1
  let s := { s with
    lcd := { l with state := d.state, decoded := true, testGate := test, debugOpen := test, openAtStart := test,
                    completedPartial := d.isPartial, invalidPattern := d.invalid,
                    sparesUsed := BitVec.ofNat 4 s.sparesInUse }
    flt.health.otpSpare := decide (0 < s.sparesInUse) }
  if d.state = 3 then s.stFail 4 fcLcEnd
  else if d.state = 0 then s.stFail 4 fcLcBlank
  else if (List.range 52).any fun r => env.otpBad.any fun b => b.toNat == s.otpPhys (r + 4) then s.stFail 4 fcOtp
  else if s.dusThere then (s.writeKey 0 (leBv 288 (s.otpBytes 4 4)) .none 0 0 0, true)
  else (s, true)

/-- Map a key store row that failed self-test to a spare (R187). With no spare left it stays out of use: rows 0 to 9 then end the
start with ST_BIST (R545), another row gives grade Red by Table 18-8 and the start goes on (DEDUCED, log entry 132). -/
def mapSpareRow (s : State) (r : RowId) : State :=
  let o := s.row r.toNat
  if o.outOfUse then s
  else if s.keys.sparesUsed.toNat < 64 then
    ({ (s.setRow r.toNat { o with spared := true }) with keys.sparesUsed := s.keys.sparesUsed + 1 }).keyEvent kevSpareUsed
  else s.setRow r.toNat { outOfUse := true }

/-- Step 5. -/
def stepBist (s : State) (env : StartEnv) : Stage2 :=
  let h := s.flt.health
  let s := { s with flt.health := { h with memUnrepaired := env.bistOther, sramSpare := env.sramSpare } }
  let s := env.keyRowsBad.foldl mapSpareRow s
  let s := { s with boot.keyBistPass := env.keyRowsBad.isEmpty }
  if env.bistFatal || (List.range 10).any fun r => (s.row r).outOfUse then s.stFail 5 fcBist else (s, true)

/-- The lanes of a cluster that serve after step 6 (Tables 7-2, 7-12): each base lane, or the lowest spare left in its
place. Answers active lanes, lanes of the crypto service group and spares left. -/
def fillLanes (k : ClusterId) (retired : BitVec 26) : BitVec 26 × BitVec 26 × BitVec 26 :=
  let spares := ((List.range (lanesOf k - fullActive k)).map (· + fullActive k)).filter fun i => !retired.getLsbD i
  let r := (List.range (fullActive k)).foldl (fun (x : BitVec 26 × BitVec 26 × List Nat) i =>
    let crypto := k == .svc && decide (8 ≤ i)
    let put (n : Nat) (rest : List Nat) := (setBitTo x.1 n true, if crypto then setBitTo x.2.1 n true else x.2.1, rest)
    if !retired.getLsbD i then put i x.2.2
    else match x.2.2 with
      | n :: rest => put n rest
      | [] => x) ((0 : BitVec 26), (0 : BitVec 26), spares)
  (r.1, r.2.1, r.2.2.foldl (fun m n => setBitTo m n true) 0)

/-- Step 6 (R124, R197); a cluster or group left without a lane is reported. -/
def stepLanes (s : State) (env : StartEnv) : State :=
  allClusters.foldl (fun (s : State) k =>
    let c := s.laneCluster k
    let ret := env.laneFails.foldl (fun m x => if x.1 = k ∧ x.2.toNat < lanesOf k then setBitTo m x.2.toNat true else m) c.retired
    let f := fillLanes k ret
    let c := { c with retired := ret, active := f.1, cryptoGroup := f.2.1, spare := f.2.2 }
    let s := s.setCluster k c
    if outOfService k c then s.record causeLaneExhausted (clusterKey k) else s) s

/-- Write a 56-byte ECDSA output into two rows. -/
def writePair (s : State) (r : Nat) (bs : Bytes) (p : KeyParent) : State :=
  (s.writeKey r (leBv 288 (bs.take 36)) p 0 0 0).writeKey (r + 1) (leBv 288 (slice bs 36 20)) p 0 0 0

/-- Step 8: layer-0 CDI, identity keys, clear key (Tables 6-1, 6-2, R224). -/
def stepCdi0 (s : State) : State :=
  let s := if !s.keyUsable 0 then s
    else
      let cdi := kdf (s.keyBytes 0 32) "KX3-CDI0" (s.boot.mRom ++ [s.lcd.state.setWidth 8]) 256
      let s := s.writeKey 1 (leBv 288 cdi) (.row 0) 0 0 0
      let s := s.writeKey 4 (leBv 288 (kdf cdi "KX3-ID-MLDSA" [] 256)) (.row 0) 0 0 0
      s.writePair 5 (kdf cdi "KX3-ID-ECDSA" [] 448) (.row 0)
  let (k, s) := drawClear clearTries s
  if k.isEmpty then s else s.writeMemKey 0 false k 1

/-- Step 9 (R98): what the self-exercise leaves in a region's register. -/
def stepExercise (s : State) (r : Region) (x : RegionExercise) : State :=
  s.setCal r { s.cal r with appliedCode := 15, droopThr := 0x48, mFull := x.mFull, throttled := x.throttled, warn := false,
                            warnCount := 0 }

/-- The device record's identity keys are Korux's own (Table 4-6, Table 4-8). -/
def recordMatches (s : State) (r : Bytes) : Bool :=
  leAt r 0 4 == 0x5244584B && decide (16 ≤ leAt r 4 4) && decide (leAt r 4 4 ≤ 65536) && decide (1 ≤ leAt r 8 2) &&
    decide (leAt r 8 2 ≤ 8) && zeroAt r 10 6 && s.keyUsable 4 && Config.recordKeys (r.take (leAt r 4 4)) == s.idKeys

/-- The slots to try, in order; or the code where no header is valid (R118, R121). -/
def slotOrder (s : State) (env : StartEnv) : List (BitVec 2 × FlashSlot) ⊕ BitVec 8 :=
  let v0 := headerValid env.slot0.header s.rollback
  let v1 := headerValid env.slot1.header s.rollback
  let a := ((0 : BitVec 2), env.slot0)
  let b := ((1 : BitVec 2), env.slot1)
  if v0 && v1 then .inl (if hdrImgSeq env.slot0.header < hdrImgSeq env.slot1.header then [b, a] else [a, b])
  else if v0 then .inl [a]
  else if v1 then .inl [b]
  else if headerShape env.slot0.header || headerShape env.slot1.header then .inr fcImgRollback
  else .inr fcImgNone

/-- The bytes copied: exactly image_len of the header first read (R119). -/
def copyOf (x : FlashSlot) : Bytes := fitTo (hdrLenField x.header) x.image

/-- A flash read (R65, R116): Fast Read with 8 dummy cycles, or in 8D-8D-8D mode the Profile 1.0 Read with a count of its own. -/
def flashRead (s : State) (dummy off len : Nat) : State :=
  s.out (if s.sys.straps.flashMode = 1 then .flashRead [0xEE, 0x11] dummy off len else .flashRead [0x0B] 8 off len)

/-- Where an image slot begins in flash (Table 4-2). -/
def slotOffset (n : BitVec 2) : Nat := n.toNat * 0x400000

/-- The reads of step 10 before any copy: both headers and the device record's region (R116). -/
def flashHeaders (s : State) : State :=
  ((s.flashRead 20 0 64).flashRead 20 0x400000 64).flashRead 20 0x800000 0x10000

/-- Copy a slot's image into script SRAM, over what was there (R116, R119). -/
def copyImage (s : State) (n : BitVec 2) (x : FlashSlot) : State :=
  let s := s.flashRead (byteAt x.header 6).toNat (slotOffset n) (hdrLenField x.header)
  { s with boot.script := copyOf x ++ s.boot.script.drop (hdrLenField x.header) }

/-- R120: none where the copy passes, else the code of the first failing check. A nonzero byte among the 13 that end the signature
block fails as a signature does (R113; DESIGN CHOICE, log entry 135). -/
def verifyImage (s : State) (img : Bytes) : Option (BitVec 8) :=
  let ss := sectionsOf img
  let signer := sectionBytes img ss 4
  let body := img.take (hdrSigOff img)
  if !headerValid img s.rollback then some fcImgFormat
  else if !sectionsOk img ss then some fcImgFormat
  else if !s.signerOk (sha384 signer) then some fcImgSigner
  else if !sigOk signer "KX3-IMAGE" body (slice img (hdrSigOff img) 4736) then some fcImgSig
  else none

/-- Steps 10 to 12: the image that passes, with its slot; or the code and the step of the failure. Where no second slot is copied,
a failure of step 11 shows as step 12, in which the flash port is disabled (DESIGN CHOICE, log entry 133). -/
def chooseImage (s : State) (env : StartEnv) : State × ((BitVec 2 × Bytes) ⊕ (BitVec 4 × BitVec 8)) :=
  match s.slotOrder env with
  | .inr c => (s, .inr (10, c))
  | .inl [] => (s, .inr (10, fcImgNone))
  | .inl ((n, x) :: rest) =>
    let s := s.copyImage n x
    match s.verifyImage (copyOf x), rest with
    | none, _ => (s, .inl (n, copyOf x))
    | some c, [] => (s, .inr (12, c))
    | some _, (m, y) :: _ =>
      let s := ({ s with boot.fallback := true } : State).copyImage m y
      match s.verifyImage (copyOf y) with
      | none => (s, .inl (m, copyOf y))
      | some c => (s, .inr (12, c))

/-- Calibration acceptance for one region (R100, R115). The reserved bits are judged before the load tag, a code above 15
is 15, a threshold outside droop_thr's range is clamped to 0 to 255, and a region throttled under R99 keeps code 15 and 0.68 V
(DESIGN CHOICE, log entry 29). -/
def calibrate (s : State) (r : Region) (x : RegionExercise) (e : Option Bytes) : State :=
  let m : Int := x.mFull.toNat
  let v : Int := x.vFull
  let need (code : Int) : Int := v - 4 * (code - m - 1)
  let clampThr (n : Int) : BitVec 8 := BitVec.ofNat 8 (Nat.min n.toNat 255)
  let own : BitVec 4 := BitVec.ofNat 4 (Nat.min 15 (x.mFull.toNat + 2))
  let reject (tag res : BitVec 2) : Cal :=
    { s.cal r with recTag := tag, recResult := res, appliedCode := own, droopThr := clampThr (need own.toNat) }
  let c := match e with
    | none => reject 0 0
    | some b =>
      let code := (byteAt b 0).toNat % 16
      let tag : BitVec 2 := (byteAt b 1).setWidth 2
      let thr := byteAt b 2
      if (byteAt b 0).toNat / 16 ≠ 0 ∨ (byteAt b 1).toNat / 4 ≠ 0 ∨ byteAt b 3 ≠ 0 then reject tag 3
      else if tag ≠ 3 then reject tag 2
      else if m + 2 ≤ (code : Int) ∧ need code ≤ (thr.toNat : Int) then
        { s.cal r with recTag := tag, recResult := 1, appliedCode := BitVec.ofNat 4 code, droopThr := thr }
      else reject tag 3
  s.setCal r (if x.throttled then { c with appliedCode := 15, droopThr := 0x48 } else c)

/-- The grade set anew at the end of step 13 (R545). -/
def gradeAtStart (s : State) : State :=
  let g := s.gradeNow
  if g = s.flt.health.kept then
    { s with flt.health.grade := g, flt.health.request := gradeRequest g }
  else s.setGrade g

/-- The thermometer value n of the rollback counter. -/
def thermo (n : Nat) : BitVec 64 := BitVec.ofNat 64 (2 ^ n - 1)

/-- A region's entry of a calibration record (R115). A nonzero byte of the reserved bytes 12 to 63 counts as a reserved bit of
each entry (DESIGN CHOICE, log entry 134). -/
def calEntry (b : Bytes) (k : Nat) : Bytes := slice b (4 * k) 3 ++ [if zeroAt b 12 52 then byteAt b (4 * k + 3) else 0xFF]

/-- Step 13: rollback commit (R109, R122), role check (R12), calibration (R100), grade (R545). Bits of the counter that fail to
program, or that power loss keeps from being programmed, read 0; the start goes on, and rollback_committed shows whether the
read-back reaches security_version. An OTP record of zeros is no record (DESIGN CHOICE, log entry 134). -/
def stepRollback (s : State) (env : StartEnv) (img : Bytes) : Stage2 :=
  let svn := hdrSvn img
  let s := if hdrFlags img % 2 = 1 ∧ s.rollback < svn then
      let t := s.otpSetBits 2 (thermo svn &&& ~~~ env.otpStuck)
      { t with boot.committed := decide (svn ≤ t.rollback) }
    else s
  let s := { s with boot.otpSvn := BitVec.ofNat 7 s.rollback }
  let role : BitVec 1 := (hdrRole img).setWidth 1
  let s := { s with glb := { s.glb with imageRole := role, imageChecked := true, mismatch := role != s.glb.role } }
  if role ≠ s.glb.role then s.stFail 13 fcRole
  else
    let ss := sectionsOf img
    let rec? : Option Bytes :=
      if (ss.any fun x => x.type == 3) then some (sectionBytes img ss 3)
      else if zeroAt (s.otpBytes 32 8) 0 64 then none
      else some (s.otpBytes 32 8)
    let s := s.calibrate .mem env.exMem (rec?.map fun b => calEntry b 0)
    let s := s.calibrate .link env.exLink (rec?.map fun b => calEntry b 1)
    let s := s.calibrate .svc env.exSvc (rec?.map fun b => calEntry b 2)
    (s.gradeAtStart, true)

/-- Alias keys of a layer-1 CDI row (Table 6-1). -/
def deriveAlias (s : State) (r : RowId) : State :=
  let cdi := s.keyBytes r.toNat 32
  let s := s.writeKey 7 (leBv 288 (kdf cdi "KX3-ALIAS-MLDSA" [] 256)) (.row r) 0 0 0
  s.writePair 8 (kdf cdi "KX3-ALIAS-ECDSA" [] 448) (.row r)

/-- Step 14: measurements, layer-1 CDI, alias keys, the boot-alias pair; script SRAM beyond the image is zeroed and the layer-0
CDI invalidated (R129, R130). -/
def stepMeasure (s : State) (img : Bytes) : State :=
  let ss := sectionsOf img
  let test := s.lcd.state == 1
  let b := s.boot
  let s := { s with
    boot := { b with
      script := img
      mFw := sha384 (sectionBytes img ss 1)
      mCfg := sha384 (sectionBytes img ss 2 ++ sectionBytes img ss 3)
      mSigner := sha384 (sectionBytes img ss 4) } }
  let (x, s) := s.draw
  let s := { s with boot.boot := x.setWidth 64 }
  if !s.keyUsable 1 then s
  else
    let b := s.boot
    let cdi := kdf (s.keyBytes 1 32) "KX3-CDI1" (b.mFw ++ b.mCfg ++ b.mSigner ++ [b.imageSvn.setWidth 8, b2w test 8]) 256
    let s := (s.writeKey 2 (leBv 288 cdi) (.row 0) 0 0 0).deriveAlias 2
    let s := { s with boot.certPair := Config.certMint s.certBody }
    s.keyInvalidateRow 1

/-! ### Step 15 -/

/-- One island configuration word of ISLAND_CFG (R582, Table 20-4); action 3 is refused, and a nonzero reserved bit (R8). -/
def islandWord (s : State) (i : BitVec 2) (w : Nat) : State :=
  if 768 ≤ w then s
  else
    let t := s.tamper i
    s.setTamper i { t with action := BitVec.ofNat 2 (w / 256), filter := BitVec.ofNat 6 (w / 4),
                           activeHigh := w / 2 % 2 == 1, enable := w % 2 == 1 }

/-- Apply request words as the PF's (R521); false where one is refused, as one with a nonzero reserved bit is (R8). -/
def vdWords (s : State) : List Bytes → Stage2
  | [] => (s, true)
  | b :: rest =>
    let r := vdReqOf (leBv 32 b)
    if (leBv 32 b).extractLsb' 8 3 ≠ 0 then (s, false)
    else if r.op = 0 then s.vdWords rest
    else match s.vdRequest r with
      | (t, st) => if st = stOk then t.vdWords rest else (t, false)

/-- Apply one CONFIG record (R114). An ISLAND_CFG record with a word that is refused fails the start (DESIGN CHOICE, log entry
27). -/
def cfgRecord (s : State) (type : Nat) (body : Bytes) : Stage2 :=
  if type = 0x1700 then
    if body.length % 4 = 0 ∧ 4 ≤ body.length ∧ body.length ≤ 4096 then s.vdWords (chunks 4 body) else (s, false)
  else if type = 0x2000 then
    if body.length = 16 ∧ (([0, 1, 2, 3] : List Nat).all fun i => decide (leAt body (4 * i) 4 < 768)) then
      (([0, 1, 2, 3] : List (BitVec 2)).foldl (fun (s : State) i => s.islandWord i (leAt body (4 * i.toNat) 4)) s, true)
    else (s, false)
  else (s, false)

def cfgApply (s : State) : List (Nat × Bytes) → Stage2
  | [] => (s, true)
  | r :: rest =>
    match s.cfgRecord r.1 r.2 with
    | (t, true) => t.cfgApply rest
    | (t, false) => (t, false)

/-- The battery-backed key on the key path: released only while key_state is VALID (R578, Table 20-3). -/
def islandKey (s : State) : Option (BitVec 256) := if s.isl.keyState = 1 then some s.isl.key else none

/-- The trust-core firmware opens and seals state it keeps outside the block (R578); without a key a restore completes with
ST_KEY_ORPHAN and nothing is opened or sealed. The moment is a DESIGN CHOICE (log entry 146). -/
def sealedState (s : State) (env : StartEnv) : State :=
  match s.islandKey with
  | none => if env.toRestore.isSome then { s with isl.restore := some (stKeyOrphan, []) } else s
  | some k =>
    let s := match env.toRestore with
      | none => s
      | some b => { s with isl.restore := some (Config.stateOpen k b) }
    match env.toSeal with
    | none => s
    | some b => s.out (.sealedState (Config.stateSeal k b))

/-- The enables the firmware sets (Tables 3-5 to 3-7, R97), then RUNNING. -/
def stepRun (s : State) (env : StartEnv) : State :=
  let pool := s.poolRole
  let area := if pool then setBitTo env.enArea areaReduction false else env.enArea
  let port := setBitTo (if pool then setBitTo env.enPort portDelivery false else env.enPort) portFlash false
  let s := allChans.foldl (fun (s : State) c => s.modChan c fun k => { k with lines := env.mcLines }) s
  let c := s.clk
  let c := { c with enArea := area, enPort := port ||| c.enPort, enMc := env.enMc, enFn := 1 }
  let s := { s with isl.lock := true, clk := c }
  let s := s.sealedState env
  let s := (s.modFunc 0 fun f => { f with phase := .opened }).controlContext
  let b := s.boot
  let s := { s with sys.phase := .running, boot := { b with step := 15, timeUs := BitVec.ofNat 32 (Nat.min env.bootUs 0xFFFFFFFF) } }
  let s := (bitsOf env.enLink).foldl (fun (s : State) l => s.setEnable (.link (BitVec.ofNat 6 l)) true) s
  let lims := s.sys.pmLimPending
  let s := { s with sys.pmLimPending := [] }
  let s := lims.foldl (fun (s : State) x => s.takeLimit x.1 x.2) s
  if s.portOn portStaging then s.ackEarly.meterDeliverAll else s

/-- Step 15. A CONFIG section that is no sequence of records fails as a record does (R114; DESIGN CHOICE, log entry 135). -/
def stepConfig (s : State) (env : StartEnv) (img : Bytes) : State :=
  let s := { s with boot.step := 15 }
  let cfg := sectionBytes img (sectionsOf img) 2
  match cfgRecords (cfg.length + 1) cfg with
  | none => s.startFail 15 fcCfgRecord
  | some rs => match s.cfgApply rs with
    | (t, false) => t.startFail 15 fcCfgRecord
    | (t, true) => t.stepRun env

/-- Steps 10 to 15. -/
def startImage (s : State) (env : StartEnv) : State :=
  let s := (s.out .flashReset).flashHeaders
  let s := { s with boot.idRecordOk := s.recordMatches env.deviceRecord,
                    boot.deviceRecord := env.deviceRecord.take (Nat.min (leAt env.deviceRecord 4 4) 65536) }
  match s.chooseImage env with
  | (s, .inr (n, c)) => s.startFail n c
  | (s, .inl (slot, img)) =>
    let s := { s with clk.flashDone := true }
    let b := s.boot
    let s := { s with boot := { b with slot := slot, imageSvn := BitVec.ofNat 7 (hdrSvn img),
                                       seq := BitVec.ofNat 32 (hdrImgSeq img) } }
    match s.stepRollback env img with
    | (s, false) => s
    | (s, true) => (s.stepMeasure img).stepConfig env img

/-- Block time begins at step 2 of the first start after por_b: the stored value plus 2 ms plus the elapsed count
(R418). -/
def beginTime (s : State) : State :=
  if s.boot.afterPor then
    { s with sys.btime := s.isl.storedTime + 2000000 + BitVec.ofNat 64 (s.isl.elapsed.toNat * 1000) }
  else s

/-- Start-up from step 2 (R104, R107); while refclk is lost it records that and waits there (R74). -/
def startUp (s : State) (env : StartEnv) : State :=
  if !s.sys.refclk then ({ s with sys.phase := .waitRef, boot.step := 2 } : State).record causeRefclkLost 0
  else
    let s := s.beginTime
    match s.stepCore env with
    | (s, false) => s
    | (s, true) => match s.stepOtp env with
      | (s, false) => s
      | (s, true) => match s.stepBist env with
        | (s, false) => s
        | (s, true) =>
          let s := s.stepLanes env
          if !env.pkeOk then s.startFail 7 fcKatPke
          else
            let s := s.stepCdi0
            let s := ((s.stepExercise .mem env.exMem).stepExercise .link env.exLink).stepExercise .svc env.exSvc
            s.startImage env

/-! ### POR_B_RISE, POR_B_FALL, SYS_RST_B_PULSE, REFCLK_LOST, REFCLK_RETURN -/

/-- A link as por_b leaves it: the pins of the surroundings. -/
def porLink (k : Link) : Link :=
  { core := { up := k.core.up }, clk := { txLock := k.clk.txLock, rxLock := k.clk.rxLock, rxFreq := k.clk.rxFreq } }

/-- The block with por_b low: all but the island, OTP and the pins of the surroundings is in reset (R72, R604). A Function Level
Reset still owed stays owed (DESIGN CHOICE, log entry 17), and so does what the surroundings sent while por_b was low (R134). -/
def porState (s : State) (phase : Phase) (straps : Straps) (refclk : Bool) : State :=
  { sys := { phase := phase, straps := straps, refclk := refclk, flrEarly := s.flrOwed, pmLimPending :=
               if s.sys.phase = .held then s.sys.pmLimPending else [] }
    clk := { mcUnlocked := s.clk.mcUnlocked, deliveryUnlocked := s.clk.deliveryUnlocked }
    otp := s.otp
    links := Tab.mapAll {} (fun _ k => porLink k) s.links
    flt := {}
    isl := { s.isl with lock := false, tamperAtStart := false, restore := none }
    freeCtr := s.freeCtr
    outs := s.outs
    pending := s.pending }

def opPorBFall (s : State) : State := s.porState .held s.sys.straps s.sys.refclk

/-- R11, R72, R73, R103: straps are sampled and step 1 begins. -/
def opPorBRise (s : State) (straps : Straps) (refclkOk : Bool) : State :=
  if s.sys.phase ≠ .held then s
  else { s.porState .settle straps refclkOk with glb.role := straps.roleSel, boot.step := 1 }

/-- R72, R108: a Full Stop with cause SYS_RESET, whatever step of a start is in progress. With por_b low, in a Full Stop and in an
Ellipsis the pulse does nothing (R539, R547). -/
def opSysRst (s : State) (role : BitVec 1) : State := s.fullStop causeSysReset false (some role)

/-- R74: the loss is recorded and Full Stop entered. During the settle delay refclk is not sampled (R103); a start that
waits for refclk goes on waiting. -/
def opRefclkLost (s : State) (role : BitVec 1) : State :=
  let s := { s with sys.refclk := false }
  match s.sys.phase with
  | .held => s
  | .settle => s
  | .waitRef => s
  | _ => s.fullStop causeRefclkLost false (some role)

/-- Refclk is back: a start that waits at step 2 goes on. -/
def opRefclkReturn (s : State) (env : StartEnv) : State :=
  let s := { s with sys.refclk := true }
  if s.sys.phase = .waitRef then s.startUp env else s

/-- t0: the settle delay has ended (R103, R104). -/
def opSettleEnd (s : State) (env : StartEnv) : State := if s.sys.phase = .settle then s.startUp env else s

/-- A Full Stop has completed: start-up runs again from step 2 (R107), but not after an Ellipsis (R547). -/
def opFullStopDone (s : State) (env : StartEnv) : State :=
  if s.sys.phase = .fullStop then { s with flt.resets := [] }.startUp env else s

end State

def execPorBRise (straps : Straps) (refclkOk : Bool) (s : State) : Host.Outcome State Fault Refusal :=
  .next (s.opPorBRise straps refclkOk)
def execPorBFall (s : State) : Host.Outcome State Fault Refusal := .next s.opPorBFall
def execSysRstBPulse (roleSel : BitVec 1) (s : State) : Host.Outcome State Fault Refusal := .next (s.opSysRst roleSel)
def execRefclkLost (roleSel : BitVec 1) (s : State) : Host.Outcome State Fault Refusal := .next (s.opRefclkLost roleSel)
def execRefclkReturn (env : StartEnv) (s : State) : Host.Outcome State Fault Refusal := .next (s.opRefclkReturn env)
def execReferenceSettleDelayEnd (env : StartEnv) (s : State) : Host.Outcome State Fault Refusal := .next (s.opSettleEnd env)
def execFullStopDone (env : StartEnv) (s : State) : Host.Outcome State Fault Refusal := .next (s.opFullStopDone env)

end Sys2Proof.Machine
end

