-- ==== Sys2Proof/Machine/Keys.lean ====
section
/-! DEFINITION. Keys and Tenses: thresholds and limits, the Tense change of a link key, invalidation, row faults, the device
unique secret (R144 to R146, R167 to R188). -/

namespace Sys2Proof.Machine

namespace State

/-! ### Row faults (R188) -/

/-- The link whose LAS or link key a row holds (Table 6-7). -/
def linkOfRow (r : Nat) : Option LinkId :=
  if 185 ≤ r ∧ r ≤ 248 then some (BitVec.ofNat 6 (r - 185))
  else if 249 ≤ r ∧ r ≤ 1784 then some (BitVec.ofNat 6 ((r - 249) / 24))
  else none

/-- A row is lost: its subtree goes and a spare takes its place (R188). -/
def rowLose (s : State) (r : Nat) : State :=
  (((s.keyInvalidateRow r).mapSpareRow (BitVec.ofNat 12 r)).keyEvent kevRowFault).record causeKeyRowFault r

/-- The owner of a lost row loses the key (R188): the Agreement of a link's row ends. -/
def rowOwnerLoses (s : State) (r : Nat) : State :=
  match linkOfRow r with
  | some l => s.endAgreement l endKeyFault
  | none => s

/-- A parity or metadata mismatch found on a row: its subtree goes, a spare takes its place, the owner loses the key
(R188). A row 0 to 9 lost with no spare left is grade Black and a Full Stop (Table 18-8, R546). -/
def rowFault (s : State) (r : Nat) : State :=
  let s := ((s.rowLose r).rowOwnerLoses r).orphanFollow r
  if r < 10 ∧ (s.row r).outOfUse then s.blackStop causeKeyRowFault none else s.gradeUpdate

/-! ### The transmitting end (Table 6-5) -/

def setTenseTx (s : State) (l : LinkId) (c : Cls) (x : TenseTx) : State :=
  s.modLink l fun k => { k with tenseTx := Tab.set {} k.tenseTx c.toNat x }

/-- A Tense message (Table 6-4) of the Future of a stream. -/
def tenseSend (s : State) (l : LinkId) (type : Byte) (c : Cls) (dir : Nat) (gen : BitVec 32) : State :=
  match s.tenseRow l c dir 3 with
  | none => s
  | some r =>
    let d : Byte := BitVec.ofNat 8 dir
    s.tc0Own l ([type, c.setWidth 8, d, 0] ++ leBytes 4 gen.toNat ++
      leBytes 16 (kconf (s.keyBytes r 32) type (c.setWidth 8) d gen).toNat ++ zeros 8)

/-- A trigger in Steady: the Future is derived and offered (R176, R177). -/
def tenseTrigger (s : State) (l : LinkId) (c : Cls) : State :=
  let x := s.tenseTxOf l c
  match s.tenseRow l c (s.txDir l) 2 with
  | none => s
  | some r =>
    let g := (s.row r).gen + 1
    if (s.link l).core.phase ≠ .agreed ∨ x.attempts ≠ 0 ∨ (s.row (s.genRow l c (s.txDir l) g)).outOfUse then s
    else
      ((s.installLinkKey l c (s.txDir l) g 3).setTenseTx l c { x with attempts := 1 }).tenseSend l 0x21 c (s.txDir l) g

/-- Table 6-10, threshold; then the trigger. -/
def opThreshold (s : State) (l : LinkId) (c : Cls) : State :=
  if !s.running then s else (s.keyEvent kevThreshold).tenseTrigger l c

def opKeyRoll (s : State) (l : LinkId) (c : Cls) : State := if !s.running then s else s.tenseTrigger l c

/-- The fields of a Tense message are those of a stream at generation `g` (Table 6-4, R175). -/
def tenseOk (s : State) (l : LinkId) (m : TenseMsg) (type : Byte) (c : Cls) (dir : Nat) (g : BitVec 32) : Bool :=
  let key := leBytes 32 ((s.linkKey l c dir g).setWidth 256).toNat
  m.reservedZero && m.cls == c.setWidth 8 && m.dir == BitVec.ofNat 8 dir && m.gen == g &&
    m.kcTag == kconf key type m.cls m.dir g

/-- KEY_READY (Table 6-5): in Offer the switch to g + 1, or a discarded message; in Steady it is discarded (log entry 37). -/
def opKeyReady (s : State) (l : LinkId) (m : TenseMsg) : State :=
  let c : Cls := m.cls.setWidth 2
  let dir := s.txDir l
  if !s.running || (s.link l).core.phase != .agreed || (s.tenseTxOf l c).attempts == 0 then s
  else match s.tenseRow l c dir 2, s.tenseRow l c dir 3 with
  | some p, some f =>
    if s.tenseOk l m 0x22 c dir ((s.row p).gen + 1) then
      let s := (s.eraseRow p).progress engTrust
      (s.setRow f { s.row f with tense := 2 }).setTenseTx l c {}
    else s.keyEvent kevKconfBad
  | _, _ => s

/-- The end of Retry in Offer (Table 6-5); after the fourth attempt the link's Agreement ends with cause TENSE. -/
def opTenseRetry (s : State) (l : LinkId) (c : Cls) : State :=
  let x := s.tenseTxOf l c
  let dir := s.txDir l
  if !s.running || (s.link l).core.phase != .agreed || x.attempts == 0 then s
  else match s.tenseRow l c dir 3 with
  | none => s
  | some f =>
    if x.attempts < 4 then
      (s.setTenseTx l c { x with attempts := x.attempts + 1 }).tenseSend l 0x21 c dir (s.row f).gen
    else (((s.eraseRow f).setTenseTx l c { x with attempts := 0 }).keyEvent kevTenseFail).endAgreement l endTense

/-! ### The receiving end (Table 6-6) -/

def tenseRxOf (s : State) (l : LinkId) (c : Cls) : TenseRx := Tab.get {} (s.link l).tenseRx c.toNat
def setTenseRx (s : State) (l : LinkId) (c : Cls) (x : TenseRx) : State :=
  s.modLink l fun k => { k with tenseRx := Tab.set {} k.tenseRx c.toNat x }

/-- KEY_FUTURE. A message that names the direction this end sends, or a class above 3, is discarded as one with a wrong
kc_tag (DEDUCED, log entry 37). -/
def opKeyFuture (s : State) (l : LinkId) (m : TenseMsg) : State :=
  let c : Cls := m.cls.setWidth 2
  let dir := s.rxDir l
  let x := s.tenseRxOf l c
  if !s.running || (s.link l).core.phase != .agreed then s
  else match s.tenseRow l c dir 2 with
  | none => s
  | some p =>
    let g := (s.row p).gen + 1
    if !s.tenseOk l m 0x21 c dir g then s.keyEvent kevKconfBad
    else if x.ready then (s.progress engTrust).tenseSend l 0x22 c dir g
    else if (s.tenseRow l c dir 1).isSome then s.setTenseRx l c { x with heldMsg := some m }
    else ((((s.progress engTrust).installLinkKey l c dir g 3).setTenseRx l c { x with ready := true, heldMsg := none }).tenseSend
      l 0x22 c dir g)

/-- The Past grace ends (R180): the Past is erased, and a held KEY_FUTURE acts. -/
def opPastEnd (s : State) (l : LinkId) (c : Cls) : State :=
  let x := s.tenseRxOf l c
  let s := match s.tenseRow l c (s.rxDir l) 1 with
    | some r => s.eraseRow r
    | none => s
  let s := s.setTenseRx l c { x with pastEnds := none, heldMsg := none }
  match x.heldMsg with
  | some m => s.opKeyFuture l m
  | none => s

def opPastGrace (s : State) (l : LinkId) (c : Cls) : State := if !s.running then s else s.opPastEnd l c

/-! ### Limits (Table 6-3) -/

/-- A link key at its limit: a transmit class stops; a receive stream's groups are judged as they arrive (Table 6-5). -/
def linkLimit (s : State) (l : LinkId) (c : Cls) (dir : Nat) : State :=
  if dir = s.txDir l then s.setTenseTx l c { s.tenseTxOf l c with stopped := true } else s

/-- A memory key at its limit: writes wait for the Future (R243). -/
def memLimit (s : State) (i : KeyIdx) (future : Bool) : State :=
  let x := s.memIdx i
  if future || x.sweeping then s else s.setMemIdx i { x with futureHeld := true }

/-- The commands bound to a direction's staging key complete with ST_KEY_LIMIT. -/
def stageLimit (s : State) (f : Fn) (dir : Nat) : State :=
  (s.fe.cmds.filter fun x => (s.ctx x.ctx).fn == f && x.result.isNone &&
      x.opcode == (if dir = 0 then opStgIn else opStgOut)).foldl (fun (s : State) x =>
    s.cmdResult x.ctx x.queue x.k stKeyLimit 0) s

/-- Table 6-3 by the row's place in Table 6-7. -/
def opKeyLimit (s : State) (row : RowId) : State :=
  let r := row.toNat
  if !s.running || !(s.row r).valid || r < 57 || (2825 ≤ r) then s
  else
    let s := s.keyEvent kevLimit
    if r ≤ 184 then s.memLimit (BitVec.ofNat 4 ((r - 57) / 8)) ((r - 57) % 8 / 4 == 1)
    else if r ≤ 248 then s
    else if r ≤ 1784 then
      s.linkLimit (BitVec.ofNat 6 ((r - 249) / 24)) (BitVec.ofNat 2 ((r - 249) % 24 / 6)) ((r - 249) % 6 / 3)
    else if r ≤ 2552 then
      (if (r - 1785) % 3 = 0 then s else s.stageLimit (BitVec.ofNat 8 ((r - 1785) / 3)) ((r - 1785) % 3 - 1))
    else if r ≤ 2808 then s.endProg (BitVec.ofNat 8 (r - 2553)) stKeyLimit
    else { s.eraseRow r with keys.transport := setBitTo s.keys.transport (r - 2809) false }

/-! ### Invalidation and the device unique secret -/

/-- The trust core invalidates a row (R167), or a mismatch is found on a read of it (R188). Rows end at 2,832. -/
def opInvalidate (s : State) (row : RowId) (mismatch : Bool) : State :=
  if !s.running ∨ 2832 < row.toNat then s
  else if mismatch then s.rowFault row.toNat
  else (s.progress engTrust).invalidateKey row.toNat

/-- Program a row's content into the next spare row that is blank and holds it, then the map entry (R145). -/
def otpSpare (s : State) (r : Nat) (w : BitVec 64) (bad : List (BitVec 7)) : List Nat → State
  | [] => s
  | e :: es =>
    let used := (s.otpRow 60 ||| s.otpRow 61).getLsbD (8 * e + 7)
    if used || s.otpRow (64 + e) != 0 then otpSpare s r w bad es
    else
      let s := s.otpSetBits (64 + e) w
      if bad.any fun b => b.toNat == 64 + e then otpSpare s r w bad es
      else
        let m : BitVec 64 := BitVec.ofNat 64 ((128 + r) * 2 ^ (8 * e))
        (s.otpSetBits 60 m).otpSetBits 61 m

/-- Program an ECC row, and a spare where its read-back fails (R145). -/
def otpProgram (s : State) (r : Nat) (w : BitVec 64) (bad : List (BitVec 7)) : State :=
  let s := s.otpSetBits r w
  if bad.any fun b => b.toNat == r then s.otpSpare r w bad (List.range 8) else s

/-- R146: in Test only, and once. -/
def opDus (s : State) (bad : List (BitVec 7)) : State :=
  if !s.running || s.lcd.state != 1 || s.dusThere then s
  else
    let (x, s) := s.draw
    let s := [0, 1, 2, 3].foldl (fun (s : State) i => s.otpProgram (4 + i) (x.extractLsb' (64 * i) 64) bad) s
    let s := { s with lcd.sparesUsed := BitVec.ofNat 4 s.sparesInUse, flt.health.otpSpare := decide (0 < s.sparesInUse) }
    (s.writeKey 0 (x.setWidth 288) .none 0 0 0).gradeUpdate.progress engTrust

end State

def execKeyThreshold (l : LinkId) (c : Cls) (s : State) : Host.Outcome State Fault Refusal := .next (s.opThreshold l c)
def execKeyLimit (row : RowId) (s : State) : Host.Outcome State Fault Refusal := settled (s.opKeyLimit row)
def execKeyRoll (l : LinkId) (c : Cls) (s : State) : Host.Outcome State Fault Refusal := .next (s.opKeyRoll l c)
def execKeyFuture (l : LinkId) (m : TenseMsg) (s : State) : Host.Outcome State Fault Refusal := .next (s.opKeyFuture l m)
def execKeyReady (l : LinkId) (m : TenseMsg) (s : State) : Host.Outcome State Fault Refusal := .next (s.opKeyReady l m)
def execTenseRetryExpiry (l : LinkId) (c : Cls) (s : State) : Host.Outcome State Fault Refusal :=
  settled (s.opTenseRetry l c)
def execPastGraceExpiry (l : LinkId) (c : Cls) (s : State) : Host.Outcome State Fault Refusal := settled (s.opPastGrace l c)
def execKeyInvalidate (row : RowId) (mismatch : Bool) (s : State) : Host.Outcome State Fault Refusal :=
  settled (s.opInvalidate row mismatch)
def execDusProgram (badRows : List (BitVec 7)) (s : State) : Host.Outcome State Fault Refusal := .next (s.opDus badRows)

end Sys2Proof.Machine
end

