-- ==== Sys2Proof/Machine/Links.lean ====
section
/-! DEFINITION. Link ports: lk_up, the boundary clocks, groups received and sent, Verdicts, the delivery port, pulses and
the end of a partner (R47 to R58, R85 to R92, R255 to R275, R287 to R290, R396 to R404). -/

namespace Sys2Proof.Machine

namespace State

/-- The link's port takes part: running, enabled. -/
def linkLive (s : State) (l : LinkId) : Bool := s.running && s.linkOn l

/-! ### lk_up and the clocks -/

/-- lk_up rises. Both port clocks are qualified by then, lk_rx_clk at a measured frequency; else early_up is set (R86, R87). -/
def opUpRise (s : State) (l : LinkId) (qualified : Option (BitVec 11)) : State :=
  if (s.link l).core.up then s
  else
    let early := qualified.isNone && s.sys.phase != .held
    let s := s.modLink l fun k => { k with
      core := { k.core with up := true }
      clk := { k.clk with rxLock := qualified.isSome, txLock := qualified.isSome, rxFreq := qualified.getD 0,
                          earlyUp := k.clk.earlyUp || early } }
    if s.linkLive l then s.linkRise l else s

/-- lk_up falls (R51, R89). -/
def opUpFall (s : State) (l : LinkId) : State :=
  if !(s.link l).core.up then s
  else
    let s := s.modLink l fun k => { k with core := { k.core with up := false }, clk := { k.clk with needDown := false } }
    if s.linkLive l then s.linkFall l else s

/-- The stall detector forces one direction onto its fallback clock (R90). The Agreement stands until lk_up falls (DEDUCED,
log entry 38). -/
def opStall (s : State) (l : LinkId) (tx : Bool) : State :=
  let c := (s.link l).clk
  if !s.linkLive l || !(if tx then c.txSel else c.rxSel) then s
  else
    let c := if tx then { c with forcedTx := true, txLock := false, txSel := false, needDown := true }
      else { c with forcedRx := true, rxLock := false, rxSel := false, rxFreq := 0, needDown := true }
    ((s.modLink l fun k => { k with clk := addSwitch c 1, core := { k.core with retrain := true } }).voidCredits l).record
      recLinkClkForced (2 * l.toNat + tx.toNat)

/-- Both port clocks are qualified (R86): the switch where R89 and R91 allow it, then the credits owed. -/
def opQualified (s : State) (l : LinkId) (freq : BitVec 11) : State :=
  let s := s.modLink l fun k => { k with clk := { k.clk with rxLock := true, txLock := true, rxFreq := freq } }
  if s.linkLive l then (s.selectPort l).issueOwed l else s

/-- R48. -/
def opTxCredit (s : State) (l : LinkId) (c : Cls) : State :=
  if !s.linkLive l || !(s.link l).core.up then s
  else s.modLink l fun k => { k with io.txCredits := Tab.set 0 k.io.txCredits c.toNat (Tab.get 0 k.io.txCredits c.toNat + 1) }

/-! ### Receiving (Table 9-5) -/

/-- Table 9-4, with R259's and R424's fixed fields. -/
def kindAllowed (s : State) (h : BitVec 128) : Bool :=
  let c := hdrCls h
  let kind := hdrKind h
  let dest := hdrDest h
  let plain :=
    if c = 0 then dest == destControl
    else !s.poolRole && dest != destControl && (dest != destReduce || c == 2)
  if kind = kindSealed then plain && (dest != destControl || hdrCtx h == 0)
  else if kind = kindOpen then c == 0 && dest == destControl && hdrGen h == 0 && hdrVd h == 0 && hdrCtx h == 0
  else if kind = kindFabric then (c == 1 || c == 3) && dest == 0 && hdrCtx h == 0
  else false

/-- The state of the link accepts the group (Table 9-13). -/
def stateAccepts (s : State) (l : LinkId) (openKind : Bool) : Bool :=
  match (s.link l).core.phase with
  | .down => false
  | .agreed => true
  | _ => openKind

/-- Check 4. A SEALED or FABRIC group without an Agreement is left to check 5 (DEDUCED, log entry 39). -/
def memberOk (s : State) (l : LinkId) (h : BitVec 128) : Bool :=
  let k := s.link l
  if hdrKind h = kindOpen then match s.declOf l with
    | some (d, _) => hdrDst h == (s.dom d).member
    | none => false
  else k.core.phase != .agreed || (hdrDst h == (s.dom k.core.slot).member && hdrSlot h == k.agr.peerSlot)

/-- The key row a group is opened under: the Present, the Future or a held Past with its generation bits (R179). -/
def rxRow (s : State) (l : LinkId) (h : BitVec 128) : Option Nat :=
  ([0, 1, 2].map (rowLink l (hdrCls h) (s.rxDir l))).find? fun r =>
    (s.row r).valid && (s.row r).tense != 0 && (s.row r).gen.setWidth 2 == hdrGen h

/-- A group under the row would take its count past the limit (Table 6-3). -/
def pastLimit (s : State) (r : Nat) (h : BitVec 128) : Bool :=
  decide (2 ^ 36 < (s.row r).use.toNat + blocksOf (hdrLen h).toNat)

/-- A program names a link in some stage. -/
def progNames (g : Prog) (l : LinkId) : Bool :=
  match g.desc with
  | none => false
  | some d => d.stages.any fun st => st.inLinks.getLsbD l.toNat || st.outLinks.getLsbD l.toNat

/-- Check 8. In accelerator role a FABRIC group is a response to outstanding requests (R14, R428). A receive ring exists for
every live context of the slot (log entry 40). -/
def destThere (s : State) (l : LinkId) (h : BitVec 128) : Bool :=
  let d := (s.link l).core.slot
  if hdrKind h = kindFabric then s.poolRole || !(s.link l).fabOut.isEmpty
  else if hdrDest h = destControl then true
  else if hdrDest h = destReduce then
    let g := s.prog ((hdrCtx h).setWidth 8)
    g.phase != .free && g.slot == d && progNames g l
  else (s.ctx (hdrCtx h)).phase != .free && s.ctxSlot (hdrCtx h) == some d

/-- The first failing check of 1 to 7 (Table 9-5), and the key row. -/
def rxCheck (s : State) (l : LinkId) (g : RxGroup) (rowBad : Bool) : Nat ⊕ Nat :=
  let h := g.header
  let len := (hdrLen h).toNat
  if g.bad || g.sogEarly then .inl 1
  else if len = 0 ∨ 256 < len then .inl 2
  else if hdrReserved h ≠ 0 ∨ !s.kindAllowed h then .inl 3
  else if !s.memberOk l h then .inl 4
  else if !s.stateAccepts l (hdrKind h == kindOpen) then .inl 5
  else if hdrKind h = kindOpen then .inr 0
  else match s.rxRow l h with
  | none => .inl 6
  | some r =>
    if rowBad || s.pastLimit r h then .inl 6
    else if !windowAdmits (Tab.get {} (s.link l).io.windows (hdrCls h).toNat) (hdrSeq h)
        ((s.link l).io.flight.any fun f => f.cls == hdrCls h && f.seq == hdrSeq h && f.inst == (s.link l).io.inst) then .inl 7
    else if !s.destThere l h then .inl 8
    else .inr r

/-- What opening a group costs (Table 6-3, Table 19-4): to the context it names, else to the slot. -/
def rxNote (s : State) (l : LinkId) (r : Nat) (h : BitVec 128) : State :=
  let n := blocksOf (hdrLen h).toNat
  let act := 4 * (n + 1) + n + 2
  let s := s.useKey r n
  if hdrKind h = kindSealed ∧ (hdrDest h = destDeliver ∨ hdrDest h = destRing) then s.activity (some (hdrCtx h)) act
  else
    let d := (s.link l).core.slot.toNat
    { s with pwr.slotActivity := Tab.set 0 s.pwr.slotActivity d (Tab.get 0 s.pwr.slotActivity d + act) }

/-- The operation of a group's tag, in flight until its Verdict (R258). -/
def tagIssue (c : LaneCluster) (material : BitVec 288) (seq : BitVec 64) (place : Nat) : List IssueRec :=
  issueOf c (leBv 128 (groupIv material seq ++ [0, 0, 0, 1])) false (material.setWidth 256) place

/-- A group that passed checks 1 to 8 awaits its Verdict in its place; a Subjunctive one is presented, or goes to its ring
through the fence, at once where it may (R55, R56, R237, R263, R269). One cut off in its arrival has no tag (R51, R57). -/
def rxAccept (s : State) (l : LinkId) (r : Nat) (g : RxGroup) : State :=
  let h := g.header
  let row := s.row r
  let io := (s.link l).io
  let f : RxFlight := {
    cls := hdrCls h, seq := hdrSeq h, inst := io.inst, ord := io.arrivals, header := h, payload := g.payload, tag := g.tag
    cut := g.cut, material := row.material, row := r, tense := row.tense, rowGen := row.gen, gid := none, consumers := []
    issue := tagIssue (s.laneCluster (.lk l)) row.material (hdrSeq h) io.arrivals }
  let s := (s.rxNote l r h).modLink l fun k => { k with io := { k.io with
    flight := k.io.flight ++ [f], arrivals := k.io.arrivals + 1 } }
  let s := if isRing h then s.ringPump l else s.deliverPump l
  if !g.cut then s
  else match s.findFlight (flightRef l f) with
  | some x => s.judge l x
  | none => s

/-- A failing group: an OPEN one is discarded and counted, any other receives Repudiate (R263). -/
def rxFail (s : State) (l : LinkId) (h : BitVec 128) (check : Nat) : State :=
  if hdrKind h = kindOpen then (s.countCheck l check).creditReturn l (hdrCls h) else s.repudiateArrival l h check

/-! ### OPEN groups: Agreement messages in fragments (R259, R278) -/

/-- The partner is Absent (R284). -/
def absent (s : State) (l : LinkId) : State :=
  (s.modLink l fun k => { k with agr := {} }).setPhase l .absent |>.linkEvent l lkevAbsent

/-- The initiator's attempt has failed: the next one starts 100 µs later, and a third failure makes the partner Absent. -/
def attemptFail (s : State) (l : LinkId) : State :=
  if (s.link l).core.attempt = 3 then s.absent l else s.modLink l fun k => { k with agr := {} }

/-- The responder's attempt ends; it waits for a higher HELLO until its bound (R284). -/
def responderFail (s : State) (l : LinkId) : State := s.modLink l fun k => { k with agr := { since := k.agr.since } }

/-- What a message meets before its own checks: a live link that is up, with a declared partner. -/
def agrReady (s : State) (l : LinkId) : Option (Slot × Decl) :=
  if s.linkLive l && (s.link l).core.up then s.declOf l else none

/-- An attempt of this number runs, this end being its initiator or not. -/
def attemptRuns (s : State) (l : LinkId) (attempt : BitVec 32) (initiator : Bool) : Bool :=
  let k := (s.link l).core
  k.phase == .agreeing && k.initiator == initiator && attempt == k.attempt.setWidth 32

/-- The attempt a responder holds: a HELLO must be higher (R284). -/
def heldAttempt (s : State) (l : LinkId) : Nat :=
  let k := (s.link l).core
  if k.phase = .agreeing ∧ !k.initiator then k.attempt.toNat else 0

/-- The attempt of this number that runs on the link ends in failure (R281, R284). -/
def attemptEnd (s : State) (l : LinkId) (attempt : BitVec 32) : State :=
  if s.attemptRuns l attempt true && !(s.link l).agr.hello.isEmpty then s.attemptFail l
  else if s.attemptRuns l attempt false then s.responderFail l else s

/-- A fragment has the form of R278. -/
def fragOk (p : Bytes) : Bool :=
  decide (8 ≤ p.length) && byteAt p 3 == 0 && decide (byteAt p 1 < byteAt p 2) &&
    (byteAt p 1 + 1 == byteAt p 2 || p.length == 256)

def fragAttempt (p : Bytes) : BitVec 32 := BitVec.ofNat 32 (leAt p 4 4)

/-- A malformed fragment of an Agreement message is a failure of the message (AGR_FORMAT, R281, Table 9-22): of a HELLO that
would be answered, of a message the attempt waits for, of an ABORT. Any other is discarded. -/
def fragBad (s : State) (l : LinkId) (p : Bytes) : State :=
  match s.agrReady l with
  | none => s
  | some (d, x) =>
    let t := byteAt p 0
    let n := fragAttempt p
    if t = 5 then (s.modLink l fun k => { k with core := { k.core with abortRcvd := agrFormat } }).attemptEnd l n
    else if t = 1 ∧ s.heldAttempt l < n.toNat then s.abortSend l d x n agrFormat
    else if (t = 2 ∨ t = 4) ∧ s.attemptRuns l n true ∨ t = 3 ∧ s.attemptRuns l n false then
      (s.abortSend l d x n agrFormat).attemptEnd l n
    else s

/-- A fragment joins its message; the message is whole when all its fragments have arrived with the same type, count and
attempt (R278). -/
def fragTake (s : State) (l : LinkId) (p : Bytes) : State :=
  let mine (a : AgrPart) : Bool := a.type == byteAt p 0 && a.count == byteAt p 2 && a.attempt == fragAttempt p
  let ps := (s.link l).agr.parts
  let old : AgrPart := (ps.find? mine).getD { type := byteAt p 0, count := byteAt p 2, attempt := fragAttempt p, got := [] }
  let new := { old with got := Tab.set [] old.got (byteAt p 1).toNat (p.drop 8) }
  let rest := ps.filter fun a => !mine a
  if new.got.length = new.count.toNat then
    (s.modLink l fun k => { k with agr.parts := rest }).out (.agreeMessage l (new.got.flatMap (·.2)))
  else s.modLink l fun k => { k with agr.parts := rest ++ [new] }

/-- An OPEN group's payload goes to the Agreement function: messages of an Agreement, and those of a Parse between two ends
without common keys (R259, R361). One of another type is discarded and counted (R400). -/
def openTake (s : State) (l : LinkId) (p : Bytes) : State :=
  let t := byteAt p 0
  let s := s.out (.agreeFragment l p)
  if (1 ≤ t.toNat ∧ t.toNat ≤ 5) ∨ tc0Routed t then (if fragOk p then s.fragTake l p else s.fragBad l p) else s.tc0Bad l

/-! ### Framing (R49, R50) -/

end State

/-- The group that a run of units holds: it begins at the first valid unit with sog high and its header gives its end; idle
units belong to none. A unit with sog high before the end starts the next group, and the units of a group whose length is
invalid run to the unit before the next sog. No group where no unit begins one. -/
def frameGroup (units : List RxUnit) : Option RxGroup :=
  match (units.filter (·.valid)).dropWhile fun u => !u.sog with
  | [] => none
  | h :: rest =>
    let own := rest.takeWhile fun u => !u.sog
    let len := (hdrLen h.data).toNat
    let known := decide (1 ≤ len ∧ len ≤ 256)
    let n := blocksOf len
    let body := if known then own.take (n + 1) else own
    let whole := known && body.length == n + 1
    let early := known && !whole && decide (own.length < rest.length)
    some {
      header := h.data
      payload := ((body.take n).flatMap fun u => leBytes 16 u.data.toNat).take len
      tag := ((body[n]?).map (·.data)).getD 0
      bad := h.bad || body.any (·.bad)
      sogEarly := early
      cut := known && !whole && !early }

namespace State

/-- RECEIVE_GROUP: the credit it drew, the checks, then the group in flight; an OPEN group goes to the Agreement function
(R259). A key row found bad on its read is a row fault (R188). -/
def opReceive (s : State) (l : LinkId) (g : RxGroup) (rowBad : Bool) : State :=
  let k := s.link l
  if !s.linkLive l || !k.core.up || !k.clk.rxSel then s
  else
    let h := g.header
    let c := (hdrCls h).toNat
    let s := (s.modLink l fun k => { k with io.rxCredits := Tab.set 0 k.io.rxCredits c (Tab.get 0 k.io.rxCredits c - 1) }).progress
      (engLink l)
    let s := match s.rxCheck l g rowBad with
      | .inl n =>
        let bad := if n = 6 ∧ rowBad then s.rxRow l h else none
        let s := s.rxFail l h n
        match bad with
        | some r => s.rowFault r
        | none => s
      | .inr r =>
        if hdrKind h = kindOpen then
          (if g.cut then s else s.openTake l g.payload).creditReturn l (hdrCls h)
        else s.rxAccept l r g
    s.stormCheck l

/-- A run of units arrives. -/
def opReceiveUnits (s : State) (l : LinkId) (units : List RxUnit) (rowBad : Bool) : State :=
  match frameGroup units with
  | none => s
  | some g => s.opReceive l g rowBad

/-- The tag unit decides a group in flight (check 9): a group Confirmed or Repudiated is one whose computed tag says so. -/
def opVerdict (s : State) (l : LinkId) (c : Cls) (seq : BitVec 64) : State :=
  match (s.link l).io.flight.find? fun g => g.cls == c && g.seq == seq && !g.due with
  | none => s
  | some g => (s.judge l g).stormCheck l

/-! ### Transmitting (R48, R255, R267, R270, R397, R398, R410) -/

/-- Units started and not yet taken fill a beat: the next group waits for the one before (R49, R52). -/
def wireFull (s : State) (l : LinkId) : Bool := decide (8 ≤ ((s.link l).io.wire.map (·.units)).foldl (· + ·) 0)

/-- A gate of the class is closed (R410). -/
def gateClosed (s : State) (l : LinkId) (c : Cls) : Bool := (s.link l).tc0.gates.any fun g => g.classes.getLsbD c.toNat

/-- The link can start a group of the class (R48, R85, R89). -/
def canStart (s : State) (l : LinkId) (c : Cls) : Bool :=
  let k := s.link l
  s.linkLive l && k.core.up && k.clk.txSel && decide (0 < s.txCredit l c) && !s.wireFull l

/-- A TC0 group of the queue may go now: an OPEN one outside ABSENT, a SEALED one under its key; the block's own need a
token (Table 9-13, R398). -/
def tc0Ready (s : State) (l : LinkId) (x : Tc0Item) : Bool :=
  (if x.isOpen then (s.link l).core.phase != .absent && (s.link l).core.phase != .down else (s.sealRow l 0).isSome) &&
    (x.prio != 2 || (s.link l).tc0.tokens != 0)

/-- The next TC0 group in the order of R397. -/
def tc0Next (s : State) (l : LinkId) : Option Tc0Item :=
  let q := (s.link l).tc0.queue.filter (s.tc0Ready l)
  match q.find? (·.prio == 0), q.find? (·.prio == 1) with
  | some x, _ => some x
  | none, some x => some x
  | none, none => q.head?

/-- Start a TC0 group. -/
def tc0Start (s : State) (l : LinkId) (x : Tc0Item) : State :=
  let s := s.modLink l fun k => { k with tc0 := { k.tc0 with
    queue := k.tc0.queue.erase x
    tokens := if x.prio = 2 then k.tc0.tokens - 1 else k.tc0.tokens } }
  if x.isOpen then s.txOpen l x.dstMember x.slot x.payload
  else (s.txSeal l 0 kindSealed destControl 0 0 x.payload none).getD s

/-- The next group of TC1 to TC3 that waits for no Verdict: each class in its order. -/
def txNext (s : State) (l : LinkId) (c : Cls) : Option TxItem :=
  if s.gateClosed l c || s.isFragment (s.link l).core.slot || (s.sealRow l c).isNone then none
  else ((s.link l).io.txq.filter fun x => x.cls == c).find? fun x => x.refs.isEmpty

/-- A class that may start a group now. -/
def classReady (s : State) (l : LinkId) (c : Cls) : Bool :=
  s.canStart l c && (if c = 0 then (s.tc0Next l).isSome else (s.txNext l c).isSome)

/-- Table 9-4's priorities: TC0, then TC1, then TC2 and TC3 by an equal share of bytes; the class with fewer bytes sent goes
when both can. -/
def yields (s : State) (l : LinkId) (c : Cls) : Bool :=
  if c = 0 then false
  else if c = 1 then s.classReady l 0
  else s.classReady l 0 || s.classReady l 1 ||
    (if c = 2 then decide (0 < (s.link l).io.share) && s.classReady l 3
     else decide ((s.link l).io.share < 0) && s.classReady l 2)

/-- Start a group of TC1 to TC3. -/
def txStart (s : State) (l : LinkId) (x : TxItem) : State :=
  let s := s.modLink l fun k => { k with io := { k.io with
    txq := k.io.txq.erase x
    share := if x.cls = 2 then k.io.share + x.payload.length else if x.cls = 3 then k.io.share - x.payload.length
             else k.io.share } }
  (s.txSeal l x.cls x.kind x.dest x.ctxField x.vdTag x.payload x.ctx).getD s

/-- A context's request to send: what it may name (R96, R504, Table 9-4, Table 12-15; the order is a DESIGN CHOICE, log entry
41). -/
def txRefusal (s : State) (l : LinkId) (c : Cls) (q : TxReq) : Option Status :=
  if !s.linkOn l || outOfService (.lk l) (s.laneCluster (.lk l)) then some stFnOff
  else if (s.ctx q.ctx).vd.isNone ∨ s.linkVd l ≠ (s.ctx q.ctx).vd then some stRights
  else if c = 0 ∨ q.dest = destControl ∨ (q.dest = destReduce ∧ c ≠ 2) ∨ s.poolRole then some stReserved
  else if q.payload.isEmpty ∨ 256 < q.payload.length then some stLengthRange
  else if (s.ctxSlot q.ctx).any fun d => s.isFragment d then some stFragment
  else none

/-- Take a context's request into its queue (R270); a context that is not ACTIVE sends nothing. -/
def txAsk (s : State) (l : LinkId) (c : Cls) (q : TxReq) : State :=
  if (s.ctx q.ctx).phase ≠ .active then s
  else match s.txRefusal l c q with
  | some st => s.out (.linkDone q.ctx l st)
  | none => s.txPut l { cls := c, kind := kindSealed, dest := q.dest, ctxField := q.dstCtx,
                        vdTag := (s.ctx q.ctx).vd.getD 0, payload := q.payload, ctx := some q.ctx, prog := none,
                        refs := s.ctxRefs q.ctx }

/-- TRANSMIT_GROUP: take a context's request, then start the next group of the class where it may start. A key row found
bad on its read is a row fault (R188), and nothing starts. -/
def opTransmit (s : State) (l : LinkId) (c : Cls) (req : Option TxReq) (rowBad : Bool) : State :=
  if !s.running then s
  else
    let s := match req with
      | some q => s.txAsk l c q
      | none => s
    if !s.canStart l c || s.yields l c then s
    else
      let bad (r : Option Nat) : Option Nat := if rowBad then r else none
      if c = 0 then match s.tc0Next l with
        | none => s
        | some x => match bad (if x.isOpen then none else s.sealRow l 0) with
          | some r => s.rowFault r
          | none => s.tc0Start l x
      else match s.txNext l c with
        | none => s
        | some x => match bad (s.sealRow l c) with
          | some r => s.rowFault r
          | none => s.txStart l x

/-- R398. -/
def opToken (s : State) (l : LinkId) : State :=
  if !s.linkLive l then s
  else s.modLink l fun k => { k with tc0.tokens := if k.tc0.tokens.toNat < 4 then k.tc0.tokens + 1 else k.tc0.tokens }

/-- R404: a pair's 2 ms have passed. -/
def opFloodExpiry (s : State) (d : Slot) (src : Member) (transfer : BitVec 32) : State :=
  { s with flood := s.flood.filter fun e => !(e.slot == d && e.src == src && e.transfer == transfer) }

/-- The link layer takes up to `n` units, in order. -/
def takeUnits : Nat → List WireGroup → List WireGroup
  | _, [] => []
  | n, w :: ws => if w.units ≤ n then takeUnits (n - w.units) ws else { w with units := w.units - n } :: ws

/-- lk_tx_ready at an edge: one beat of eight units (Table 2-7). -/
def opTxReady (s : State) (l : LinkId) : State :=
  let k := s.link l
  let all := (k.io.wire.map (·.units)).foldl (· + ·) 0
  if !s.linkLive l || !k.core.up || !k.clk.txSel || all == 0 then s
  else ((s.modLink l fun k => { k with io.wire := takeUnits 8 k.io.wire }).out (.lkUnits l (Nat.min 8 all))).progress (engLink l)

/-! ### The delivery port (R53 to R58, Table 3-3) -/

/-- The crossing into cd_clk has lost lock: the port is reset, and no beat, Verdict or receive credit goes out until it locks
again (R85). -/
def opCdLost (s : State) : State :=
  let s := { s with clk.deliveryUnlocked := true }
  if s.running && !s.poolRole then s.clearDelivery else s

/-- Relock: the port's reset ends with cd_flush, then the credits owed. -/
def opCdRelock (s : State) : State :=
  if !s.clk.deliveryUnlocked then s
  else
    let s := { s with clk.deliveryUnlocked := false }
    if s.running && !s.poolRole then s.deliveryReset else s

/-- A beat is accepted, while fewer than 16 delivered groups wait for their Verdict (R55): after a group's last beat a Verdict
that waited is presented; an Indicative group's credit returns with its last beat (R54, R265). -/
def opBeat (s : State) (l : LinkId) : State :=
  match (s.link l).del.beats with
  | [] => s
  | b :: rest =>
    if !s.running || !s.deliveryOpen || channelFull (s.link l) then s
    else
      let s := (s.modLink l fun k => { k with del.beats := rest }).out (.cdBeat l b)
      let s := if !b.last then s else if b.subj then s.verdictPump l else s.creditReturn l b.tc
      (s.deliverPump l).stormCheck l

/-! ### Pulse, loss, LINK_BYE, tombstone (R261, R287 to R290) -/

/-- R287: 20 µs without a TC0 group sent; one LINK_PULSE waits at a time. -/
def opPulse (s : State) (l : LinkId) : State :=
  let k := s.link l
  if !s.linkLive l || k.core.phase != .agreed || k.tc0.queue.any (fun x => byteAt x.payload 0 == 0x31 && !x.isOpen) then s
  else s.tc0Own l (0x31 :: zeros 7)

def opLost (s : State) (l : LinkId) : State :=
  let k := (s.link l).core
  if !s.linkLive l || k.phase != .agreed then s
  else
    let s := s.endAgreement l endLost
    if s.managesHall k.slot (hallOf k.pMember) then s.censusPut k.slot k.pMember 0 else s

/-- A Confirmed LINK_BYE; one with a nonzero reserved byte is discarded and counted in tc0_bad (R8, R261). -/
def opBye (s : State) (l : LinkId) (reservedZero : Bool) : State :=
  if !s.linkLive l || (s.link l).core.phase != .agreed then s
  else if !reservedZero then s.tc0Bad l
  else s.endAgreement l endClosed

def opTombEnd (s : State) (l : LinkId) : State :=
  s.modLink l fun k => { k with core := { k.core with tombLive := false }, tomb := {} }

end State

def execLkUpRise (l : LinkId) (qualified : Option (BitVec 11)) (s : State) : Host.Outcome State Fault Refusal :=
  .next (s.opUpRise l qualified)
def execLkUpFall (l : LinkId) (s : State) : Host.Outcome State Fault Refusal := settled (s.opUpFall l)
def execLinkClockStall (l : LinkId) (tx : Bool) (s : State) : Host.Outcome State Fault Refusal := .next (s.opStall l tx)
def execLinkClockQualified (l : LinkId) (rxFreq : BitVec 11) (s : State) : Host.Outcome State Fault Refusal :=
  .next (s.opQualified l rxFreq)
def execLkTxCredit (l : LinkId) (c : Cls) (s : State) : Host.Outcome State Fault Refusal := .next (s.opTxCredit l c)
def execReceiveGroup (l : LinkId) (units : List RxUnit) (rowBad : Bool) (s : State) : Host.Outcome State Fault Refusal :=
  settled (s.opReceiveUnits l units rowBad)
def execGroupConfirm (l : LinkId) (c : Cls) (seq : BitVec 64) (s : State) : Host.Outcome State Fault Refusal :=
  settled (s.opVerdict l c seq)
def execGroupRepudiate (l : LinkId) (c : Cls) (seq : BitVec 64) (s : State) : Host.Outcome State Fault Refusal :=
  settled (s.opVerdict l c seq)
def execTransmitGroup (l : LinkId) (c : Cls) (req : Option TxReq) (rowBad : Bool) (s : State) :
    Host.Outcome State Fault Refusal := settled (s.opTransmit l c req rowBad)
def execTc0TokenTick (l : LinkId) (s : State) : Host.Outcome State Fault Refusal := .next (s.opToken l)
def execFloodCacheExpiry (slot : Slot) (src : Member) (transfer : BitVec 32) (s : State) :
    Host.Outcome State Fault Refusal := .next (s.opFloodExpiry slot src transfer)
def execDeliveryClkLost (s : State) : Host.Outcome State Fault Refusal := .next s.opCdLost
def execDeliveryClkRelock (s : State) : Host.Outcome State Fault Refusal := settled s.opCdRelock
def execDeliveryBeatAccept (l : LinkId) (s : State) : Host.Outcome State Fault Refusal := settled (s.opBeat l)
def execLkTxReady (l : LinkId) (s : State) : Host.Outcome State Fault Refusal := .next (s.opTxReady l)
def execReceiveRingSpace (l : LinkId) (c : Cls) (ctx : CtxId) (s : State) : Host.Outcome State Fault Refusal :=
  settled (s.ringSpace l c ctx)
def execLinkPulseTimer (l : LinkId) (s : State) : Host.Outcome State Fault Refusal := .next (s.opPulse l)
def execPartnerLost (l : LinkId) (s : State) : Host.Outcome State Fault Refusal := settled (s.opLost l)
def execLinkBye (l : LinkId) (_cause : Byte) (reservedZero : Bool) (s : State) : Host.Outcome State Fault Refusal :=
  settled (s.opBye l reservedZero)
def execTombstoneExpiry (l : LinkId) (s : State) : Host.Outcome State Fault Refusal := .next (s.opTombEnd l)

end Sys2Proof.Machine
end

