-- ==== Sys2Proof/Machine/MailOps.lean ====
section
/-! DEFINITION. The mailbox: one request from its header to its reply (R471 to R474). -/

namespace Sys2Proof.Machine

namespace State

/-- The mailbox of a function answers: its area and the function's enable (R471). -/
def mbxOn (s : State) (f : Fn) : Bool := s.running && s.areaOn areaMailbox && s.fnOn f

/-- A request ends: busy clears, done is set, the vector is raised (R473). -/
def mbxEnd (s : State) (f : Fn) (st : Status) (len : Nat) : State :=
  let s := s.modFunc f fun k => { k with mbx := { k.mbx with
    busy := false, taken := false, done := true, status := st, rspLen := BitVec.ofNat 17 len } }
  ((s.progress engTrust).msi f (s.func f).mbx.vector).drainCheck f

/-- Write the reply: header and body, or the header alone where it would exceed KX_MBX_RSP_MAX (R472). -/
def mbxReply (s : State) (h : MbxHdr) (code : BitVec 16) (st : Status) (body : Bytes) : State :=
  let m := (s.func h.fn).mbx
  let long := decide (m.rspMax.toNat < 16 + body.length)
  let st := if long then stLengthRange else st
  let body := if long then [] else body
  let head := leBytes 2 code.toNat ++ leBytes 2 st.toNat ++ leBytes 4 body.length ++ leBytes 8 h.tag.toNat
  (s.hostWrite h.fn m.rsp (head ++ body)).mbxEnd h.fn st (16 + body.length)

/-- The answer of a command: the new state, its status and its reply body. -/
abbrev MbxAnswer := State × Status × Bytes

/-- The checks of R472 and R474, in this order (DESIGN CHOICE, log entry 33): the length, the code, the issuer, the reserved
fields, then a body length other than the layout's. -/
def mbxRefusal (s : State) (h : MbxHdr) (known pfOnly : Bool) (want : Option Nat) : Option Status :=
  let m := (s.func h.fn).mbx
  if m.reqLen.toNat ≠ 16 + h.bodyLen then some stLengthRange
  else if !known then some stOpcode
  else if pfOnly && h.fn != 0 then some stRights
  else if h.statusField ≠ 0 ∨ !h.reservedZero then some stReserved
  else match want with
    | some n => if h.bodyLen = n then none else some stLengthRange
    | none => none

/-- A request that ends before its command acts (R473), none where the command acts: a function that is not OPEN receives
ST_FN_OFF, but for a request it began while OPEN (Table 16-8). -/
def mbxEarly (s : State) (h : MbxHdr) (code : BitVec 16) (known pfOnly : Bool) (want : Option Nat) : Option State :=
  if !s.mbxOn h.fn then some s
  else if !h.dmaOk then some (s.mbxEnd h.fn stHostDma 0)
  else if (s.func h.fn).phase ≠ .opened ∧ !(s.func h.fn).mbx.taken then some (s.mbxReply h code stFnOff [])
  else (s.mbxRefusal h known pfOnly want).map fun st => s.mbxReply h code st []

/-- A request, whole. -/
def mbxRun (s : State) (h : MbxHdr) (code : BitVec 16) (known pfOnly : Bool) (want : Option Nat)
    (act : State → MbxAnswer) : State :=
  match s.mbxEarly h code known pfOnly want with
  | some t => t
  | none =>
    let r := act s
    r.1.mbxReply h code r.2.1 r.2.2

/-- A PF command of a fixed body length whose reply carries a status only. -/
def mbxPf (s : State) (h : MbxHdr) (code : BitVec 16) (len : Nat) (act : State → State × Status) : State :=
  s.mbxRun h code true true (some len) fun s => let r := act s; (r.1, r.2, [])

end State

end Sys2Proof.Machine
end

