-- ==== Sys2Proof/Machine/Agreement.lean ====
section
/-! DEFINITION. The Agreement of a link: HELLO, REPLY, FINISH, DONE, ABORT, the timers of an attempt, LINK_AGREE and
LINK_CLOSE (R276 to R286). -/

namespace Sys2Proof.Machine

namespace State

/-! ### Signatures over a transcript digest -/

/-- The alias signature pair over a message taken as it stands (R280, R357, R477): the ML-DSA-87 half with a context string,
the ECDSA half with SHA-384. -/
def aliasSignMsg (s : State) (ctxString : String) (m : Bytes) : Bytes :=
  Config.mldsaSign (s.keyBytes 7 32) m (ascii ctxString) ++ Config.ecdsaSign s.aliasScalar m ++ zeros 13

def sigMsgOk (keys : Bytes) (ctxString : String) (m sig : Bytes) : Bool :=
  Config.mldsaVerify (keys.take 2592) m (ascii ctxString) (sig.take 4627) &&
    Config.ecdsaVerify (keys.drop 2592) m (slice sig 4627 96) && zeroAt sig 4723 13

/-- Key confirmation over a transcript (R280, R357). -/
def confirmTag (key th : Bytes) (side : Byte) (label : String) : BitVec 128 :=
  leBv 128 (kmac256 key (th ++ [side]) 128 (ascii label))

/-! ### What a message must be (R279, R281) -/

/-- The prefix and lengths are as Tables 9-10 and 9-11 say. -/
def agrFormOk (p : AgrPrefix) : Bool :=
  p.version == 1 && p.reservedZero && decide (1 ≤ p.attempt.toNat) && decide (p.attempt.toNat ≤ 3) &&
    decide (p.fromSlot.toNat < 8) && decide (p.fromMember.toNat < 2 ^ 20) && decide (p.toMember.toNat < 2 ^ 20)

/-- Sender and receiver are the ends the Roster names (R281, R381). -/
def agrPeerOk (s : State) (l : LinkId) (d : Slot) (x : Decl) (p : AgrPrefix) : Bool :=
  p.fromMember == x.partner.setWidth 32 && p.fromLink == x.link.setWidth 8 &&
    p.toMember == (s.dom d).member.setWidth 32 && p.toLink == l.setWidth 8 && s.named d x.partner

/-- The token is valid and names the sender, its alias keys and its boot (R281, R370). -/
def agrTokenOk (s : State) (d : Slot) (x : Decl) (token : Bytes) (f : CertFacts) : Bool :=
  s.tokenOk d token && tokMember token == x.partner.toNat && tokAlias token == sha384 f.aliasKeys &&
    tokBoot token == f.boot.toNat

def agrCertOk (f : CertFacts) : Bool := f.valid && !f.debugOpen && f.grade != 3

/-- R281 for a HELLO or a REPLY, in its order: the ABORT reason of the first failure. -/
def agrCheck (s : State) (l : LinkId) (d : Slot) (x : Decl) (p : AgrPrefix) (b : AgrBody) (hello : Bool) :
    Option (BitVec 8) :=
  let f := Config.certFacts b.cert
  if !agrFormOk p || !b.lengthsOk then some agrFormat
  else if p.domainId ≠ s.domainIdOf d then some agrDomain
  else if !s.agrPeerOk l d x p then some agrPeer
  else if hello && s.initiates d x then some agrRole
  else if !s.agrTokenOk d x b.token f then some agrToken
  else if !agrCertOk f then some agrCert
  else none

/-! ### The end of an attempt -/

/-- The manager that carries joins of a hall as this member knows it: its own hall's active manager, else the lowest reached
candidate of the hall, else the lowest reached system candidate (R363, R367; DEDUCED, log entry 42). -/
def managerFor (s : State) (d : Slot) (h : BitVec 3) : Member :=
  let k := s.dom d
  let least (ms : List Member) : Option Member := ms.foldl (fun o m => match o with
    | none => some m
    | some x => some (if m < x then m else x)) none
  let reached := k.keyList.map (·.1)
  if h = hallOf k.member then k.hallManager
  else match least (reached.filter fun m => s.isHallCand d h m) with
  | some m => m
  | none => (least (reached.filter fun m => s.isSysCand d m)).getD k.hallManager

/-- Send an OPEN message of a domain to the partner of a link, with a transfer number (R361). -/
def openDomain (s : State) (l : LinkId) (d : Slot) (x : Decl) (type : Byte) (msg : Bytes) : State :=
  let t := (s.dom d).transfer
  (s.modDom d fun k => { k with transfer := t + 1 }).openSend l x.partner d type t msg

/-- R371: a reached member invites a partner that answers AGR_STATE and is pending or unreached. -/
def inviteSend (s : State) (l : LinkId) (d : Slot) (x : Decl) : State :=
  let k := s.dom d
  let st := s.censusOf d x.partner
  if k.phase ≠ .member ∨ !(st = 0 ∨ st = 2) then s
  else
    let h := hallOf x.partner
    s.openDomain l d x 0x40 (s.domainIdOf d ++ [h.setWidth 8, 0, 0, 0] ++ leBytes 4 (s.managerFor d h).toNat ++
      leBytes 4 k.member.toNat ++ [l.setWidth 8, 0, 0, 0] ++ sha384 k.record)

/-- The body of REJOIN_REQ and REJOIN_GRANT (R391), signed with its own context string. -/
def rejoinBody (s : State) (d : Slot) : Bytes :=
  let k := s.dom d
  let b := s.domainIdOf d ++ leBytes 4 k.epoch.toNat ++ leBytes 4 k.round.toNat ++ [k.halls] ++ k.token ++
    leBytes 2 s.boot.certPair.length ++ s.boot.certPair
  b ++ s.aliasSign "KX3-REJOIN" b

/-- The Fragment end of a link that comes up sends REJOIN_REQ where it is its part's counter (R391). -/
def rejoinSend (s : State) (l : LinkId) (d : Slot) (x : Decl) : State :=
  if s.isFragment d ∧ (s.dom d).mgr.count.isSome then s.openDomain l d x 0x5B (s.rejoinBody d) else s

/-! ### AGREED (R283) -/

/-- JOIN_DONE: the child's Agreement with its parent ends its join (Table 12-11, steps 7 and 8). -/
def joinAgreed (s : State) (l : LinkId) (d : Slot) : State :=
  match (s.dom d).join with
  | some j =>
    if j.granted && j.link == l then
      ((s.modDom d fun k => { k with join := none, phase := .member }).timeMark d).tc0Send d 0x44 j.manager 0 0
        (leBytes 4 (s.dom d).member.toNat ++ zeros 4)
    else s
  | none => s

/-- The link is AGREED: the LAS, the gen 1 Present of all eight streams, every stream at 0, every gate open (R255, R264, R283,
R290, R413). -/
def setAgreed (s : State) (l : LinkId) (las : Bytes) : State :=
  let d := (s.link l).core.slot
  let s := s.writeKey (rowLas l) ((leBv 256 las).setWidth 288) (.row (BitVec.ofNat 12 (rowMember d))) 0 d 0
  let s := ([0, 1, 2, 3] : List Cls).foldl (fun (s : State) c =>
    (s.installLinkKey l c 0 1 2).installLinkKey l c 1 1 2) s
  let s := s.modLink l fun k =>
    let back := k.core.tombLive && k.core.tombMember == k.core.pMember
    let core := { k.core with
      agreeCount := satInc k.core.agreeCount
      reappear := if back then satInc k.core.reappear else k.core.reappear
      event := if back then setBitTo k.core.event lkevReappeared true else k.core.event }
    let agr : Agr := { peerCert := k.agr.peerCert, peerSlot := k.agr.peerSlot, peerBoot := k.agr.peerBoot,
                       peerDigest := k.agr.peerDigest }
    { k with
      core := core
      agr := agr
      tc0 := { k.tc0 with gates := [], lastTx := s.now, peerStratum := 15, t3last := 0 }
      tenseTx := []
      tenseRx := []
      io := { k.io with txSeq := [], windows := [], repTimes := [], lastConfirm := s.now } }
  let s := (s.setPhase l .agreed).linkEvent l lkevAgreed
  (s.joinAgreed l d).progress engTrust

/-! ### The messages -/

/-- REPLY's core and what both ends take from the exchange (R280). -/
def replyMake (s : State) (l : LinkId) (d : Slot) (x : Decl) (p : AgrPrefix) (b : AgrBody) : State :=
  let (n, s) := s.draw
  let (e, s) := s.draw
  let (r, s) := s.draw
  let ct := Config.kemEncaps b.kem r
  let tok := (s.dom d).token
  let nonce := leBytes 32 n.toNat
  let core := s.agrPrefix 2 p.attempt d l x.partner x.link ++ nonce ++ ct.1 ++ Config.ecdhPublic e ++
    leBytes 2 s.boot.certPair.length ++ s.boot.certPair ++ leBytes 2 tok.length ++ tok
  let msg := core ++ s.aliasSignMsg "KX3-AGREE-R" (sha384 (p.raw ++ core))
  let f := Config.certFacts b.cert
  let was := (s.link l).core.phase == .agreeing
  let s := s.modLink l fun k =>
    let core := { k.core with slot := d, initiator := false, attempt := p.attempt.setWidth 2, pValid := true,
                              pLink := x.link, pMember := x.partner }
    { k with
      core := core
      agr := {
        nonce := nonce
        hello := p.raw
        reply := msg
        th := sha384 (p.raw ++ msg)
        ssKem := ct.2
        ssEcdh := Config.ecdhShared e b.ecdh
        peerCert := b.cert
        peerSlot := p.fromSlot.setWidth 3
        peerBoot := f.boot
        peerDigest := f.identity
        since := if was && k.agr.since.isSome then k.agr.since else some s.now } }
  ((s.setPhase l .agreeing).openSend l x.partner d 2 p.attempt msg).progress engTrust

/-- HELLO at the responder. One that R276 refuses, or that fails R281, draws ABORT and leaves what is held (R285). -/
def opHello (s : State) (l : LinkId) (p : AgrPrefix) (b : AgrBody) : State :=
  match s.agrReady l with
  | none => s
  | some (d, x) =>
    if p.attempt.toNat ≤ s.heldAttempt l ∨ (s.row (rowLas l)).outOfUse then s
    else if (s.agreeRefusal d).isSome then (s.abortSend l d x p.attempt agrState).rejoinSend l d x
    else match s.agrCheck l d x p b true with
    | some r => s.abortSend l d x p.attempt r
    | none => (s.endAgreement l endReagree).replyMake l d x p b

/-- The initiator waits for a REPLY or a DONE of its attempt, or the responder for a FINISH. -/
def awaits (s : State) (l : LinkId) (p : AgrPrefix) (initiator : Bool) : Bool := s.attemptRuns l p.attempt initiator

/-- REPLY at the initiator: checks, LAS, FINISH (Table 9-12, step 3). A second REPLY of the attempt is discarded. -/
def opReply (s : State) (l : LinkId) (p : AgrPrefix) (b : AgrBody) : State :=
  match s.agrReady l with
  | none => s
  | some (d, x) =>
    let a := (s.link l).agr
    if !s.awaits l p true || a.hello.isEmpty || a.lasReady then s
    else
      let f := Config.certFacts b.cert
      let thr := sha384 (a.hello ++ p.raw.take (p.raw.length - 4736))
      let bad := match s.agreeRefusal d, s.agrCheck l d x p b false with
        | some _, _ => some agrState
        | none, some r => some r
        | none, none => if sigMsgOk f.aliasKeys "KX3-AGREE-R" thr b.sig then none else some agrSig
      match bad with
      | some r => (s.abortSend l d x p.attempt r).attemptFail l
      | none =>
        let th := sha384 (a.hello ++ p.raw)
        let las := hybrid (Config.kemDecaps a.kemSecret b.kem) (Config.ecdhShared a.ecdhSecret b.ecdh) th "KX3-LINK-AGREE"
          (s.domainIdOf d)
        let msg := s.agrPrefix 3 p.attempt d l x.partner x.link ++ s.aliasSignMsg "KX3-AGREE-I" th ++
          leBytes 16 (confirmTag las th 1 "KX3-AGREE-KC").toNat
        let s := s.modLink l fun k => { k with agr := { k.agr with
          kemSecret := 0, ecdhSecret := 0, th := th, las := leBv 256 las, lasReady := true, peerCert := b.cert
          peerSlot := p.fromSlot.setWidth 3, peerBoot := f.boot, peerDigest := f.identity } }
        (s.openSend l x.partner d 3 p.attempt msg).progress engTrust

/-- FINISH at the responder: the signature, the LAS, key confirmation, DONE, AGREED (Table 9-12, step 4). -/
def opFinish (s : State) (l : LinkId) (p : AgrPrefix) (sigI : Bytes) (kcI : BitVec 128) : State :=
  match s.agrReady l with
  | none => s
  | some (d, x) =>
    let a := (s.link l).agr
    if !s.awaits l p false || a.reply.isEmpty then s
    else
      let las := hybrid a.ssKem a.ssEcdh a.th "KX3-LINK-AGREE" (s.domainIdOf d)
      let bad :=
        if (s.agreeRefusal d).isSome then some agrState
        else if !agrFormOk p then some agrFormat
        else if !sigMsgOk (Config.certFacts a.peerCert).aliasKeys "KX3-AGREE-I" a.th sigI then some agrSig
        else if kcI ≠ confirmTag las a.th 1 "KX3-AGREE-KC" then some agrKc
        else none
      match bad with
      | some r => (s.abortSend l d x p.attempt r).responderFail l
      | none => (s.openSend l x.partner d 4 p.attempt (s.agrPrefix 4 p.attempt d l x.partner x.link ++
          leBytes 16 (confirmTag las a.th 2 "KX3-AGREE-KC").toNat)).setAgreed l las

/-- DONE at the initiator: AGREED, then LINK_PULSE (Table 9-12, step 5). -/
def opDone (s : State) (l : LinkId) (p : AgrPrefix) (kcR : BitVec 128) : State :=
  match s.agrReady l with
  | none => s
  | some (d, x) =>
    let a := (s.link l).agr
    if !s.awaits l p true || !a.lasReady then s
    else
      let las := leBytes 32 a.las.toNat
      if (s.agreeRefusal d).isSome then (s.abortSend l d x p.attempt agrState).attemptFail l
      else if !agrFormOk p then (s.abortSend l d x p.attempt agrFormat).attemptFail l
      else if kcR ≠ confirmTag las a.th 2 "KX3-AGREE-KC" then (s.abortSend l d x p.attempt agrKc).attemptFail l
      else (s.setAgreed l las).tc0Own l (0x31 :: zeros 7)

/-- ABORT: its reason is recorded, a reserved one or one with a nonzero reserved byte as AGR_FORMAT (R8, Table 9-22); the
attempt it names ends; AGR_STATE draws JOIN_INVITE (R371). -/
def opAbort (s : State) (l : LinkId) (p : AgrPrefix) (reason : Byte) : State :=
  match s.agrReady l with
  | none => s
  | some (d, x) =>
    let r : Byte := if reason.toNat = 0 ∨ 9 < reason.toNat ∨ !p.reservedZero then agrFormat else reason
    let s := (s.modLink l fun k => { k with core := { k.core with abortRcvd := r } }).attemptEnd l p.attempt
    if r = agrState ∧ (s.link l).core.phase ≠ .agreed then s.inviteSend l d x else s

/-! ### Timers -/

/-- 5 ms without DONE: AGR_TIMEOUT is recorded and never sent (R284, Table 9-22). -/
def opAttemptTimeout (s : State) (l : LinkId) : State :=
  let k := s.link l
  if s.linkLive l && k.core.phase == .agreeing && k.core.initiator && !k.agr.hello.isEmpty then
    (s.modLink l fun k => { k with core := { k.core with abortSent := agrTimeout } }).attemptFail l
  else s

/-- 100 µs after a failed attempt: the next one (R284). -/
def opRetry (s : State) (l : LinkId) : State :=
  let k := s.link l
  match s.agrReady l with
  | none => s
  | some (d, x) =>
    if k.core.phase != .agreeing || !k.core.initiator || !k.agr.hello.isEmpty then s
    else match s.agreeRefusal d with
    | some _ => (s.abortSend l d x ((k.core.attempt + 1).setWidth 32) agrState).setPhase l .up
    | none => s.sendHello l d x (k.core.attempt + 1)

/-- 15.2 ms at the responder (R284). -/
def opResponderTimeout (s : State) (l : LinkId) : State :=
  let k := (s.link l).core
  if s.linkLive l && k.phase == .agreeing && !k.initiator then s.absent l else s

/-! ### LINK_AGREE and LINK_CLOSE (R277) -/

/-- The link is bound to a virtual device of the slot, and the slot holds a declaration for it. -/
def declared (s : State) (d : Slot) (l : LinkId) : Bool :=
  s.linkInSlot l d && (Tab.get none (s.dom d).decls l.toNat).isSome

/-- The cases of R277 in which the block holds no declaration at all: they come before it (R136, R155; DEDUCED, log entry
130). -/
def linkShut (s : State) : Option Status := s.joinGate

def linkAgreeDo (s : State) (d : Slot) (l : LinkId) : State × Status :=
  let k := s.link l
  match s.linkShut with
  | some st => (s, st)
  | none =>
    if !s.declared d l then (s, stRoster)
    else if outOfService (.lk l) (s.laneCluster (.lk l)) then (s, stFnOff)
    else if k.core.phase = .agreeing ∨ k.core.phase = .agreed then (s, stSlotBusy)
    else match s.agreeRefusal d with
    | some st => (s, st)
    | none =>
      if s.linkOn l && k.core.up then (s.agreeNow l, stOk)
      else (s.modLink l fun k => { k with agr := { k.agr with kept := true } }, stOk)

def linkCloseDo (s : State) (d : Slot) (l : LinkId) : State × Status :=
  match s.linkShut with
  | some st => (s, st)
  | none =>
    if !s.declared d l then (s, stRoster)
    else if !s.agreedIn l d then (s, stNoTarget)
    else match s.agreeRefusal d with
    | some st => (s, st)
    | none => ((s.sendBye l endLocal).endAgreement l endLocal, stOk)

end State

def execHello (l : LinkId) (p : AgrPrefix) (b : AgrBody) (s : State) : Host.Outcome State Fault Refusal :=
  settled (s.opHello l p b)
def execReply (l : LinkId) (p : AgrPrefix) (b : AgrBody) (s : State) : Host.Outcome State Fault Refusal :=
  .next (s.opReply l p b)
def execFinish (l : LinkId) (p : AgrPrefix) (sigI : Bytes) (kcI : BitVec 128) (s : State) :
    Host.Outcome State Fault Refusal := .next (s.opFinish l p sigI kcI)
def execDone (l : LinkId) (p : AgrPrefix) (kcR : BitVec 128) (s : State) : Host.Outcome State Fault Refusal :=
  .next (s.opDone l p kcR)
def execAbort (l : LinkId) (p : AgrPrefix) (reason : Byte) (s : State) : Host.Outcome State Fault Refusal :=
  .next (s.opAbort l p reason)
def execAgreementAttemptTimeout (l : LinkId) (s : State) : Host.Outcome State Fault Refusal :=
  .next (s.opAttemptTimeout l)
def execAgreementRetry (l : LinkId) (s : State) : Host.Outcome State Fault Refusal := .next (s.opRetry l)
def execResponderTimeout (l : LinkId) (s : State) : Host.Outcome State Fault Refusal := .next (s.opResponderTimeout l)
def execLinkAgree (h : MbxHdr) (slot : Slot) (l : LinkId) (s : State) : Host.Outcome State Fault Refusal :=
  .next (s.mbxPf h 0x003A 4 fun u => u.linkAgreeDo slot l)
def execLinkClose (h : MbxHdr) (slot : Slot) (l : LinkId) (s : State) : Host.Outcome State Fault Refusal :=
  settled (s.mbxPf h 0x003B 4 fun u => u.linkCloseDo slot l)

end Sys2Proof.Machine
end

