-- ==== Sys2Proof/Machine/Compose.lean ====
section
/-! DEFINITION. Binding requests of KX_FE_VD_REQ (R508 to R519), and the function enables, tray and power-manager events
(R67, R70, R96, R97). -/

namespace Sys2Proof.Machine

/-- A request of Table 17-9 with its unused fields 0. -/
def vdReq0 (op : BitVec 3) (vd : VdId) : VdReq := { vdReqOf 0 with op := op, vd := vd }

/-- The slot fields of a request. -/
def VdReq.withSlot (r : VdReq) (d : Option Slot) : VdReq := { r with slotValid := d.isSome, slot := d.getD 0 }

/-- The resource fields of a request. -/
def VdReq.withRes (r : VdReq) (kind : BitVec 2) (index : BitVec 8) : VdReq := { r with kind := kind, index := index }

namespace State

/-- The front end area answers the PF, and no binding request is in progress (R522). -/
def vdOn (s : State) : Bool := s.running && s.portOn portReg && s.areaOn areaFrontEnd && !s.vd.busy

def opVd (s : State) (r : VdReq) : State := if s.vdOn then s.vdReqWrite r else s

/-- The trust core writes an enable bit while the block runs (R94). -/
def opEnable (s : State) (t : EnTarget) (on : Bool) : State :=
  if !s.running then s
  else if t == .port (BitVec.ofNat 3 portStaging) && on && !s.portOn portStaging then (s.setEnable t on).flrLate
  else s.setEnable t on

/-- The sideband answers 1 ms after por_b rises (R97). -/
def opTrayEnable (s : State) : State :=
  if s.sys.phase = .held then s else ({ s with clk.enPort := setBitTo s.clk.enPort portTray true } : State).traySend

/-- The outstanding interrupt is acknowledged; the next pending value is sent (R67). -/
def opTrayAck (s : State) : State :=
  if s.portOn portTray then ({ s with tray.outstanding := none } : State).traySend else s

def opTrayRepeat (s : State) : State :=
  match s.tray.outstanding with
  | some v => if s.portOn portTray then s.out (.trayIbi v) else s
  | none => s

/-- A start is to come whose step 15 has not ended. -/
def beforeStart (s : State) : Bool :=
  s.sys.phase == .held || s.sys.phase == .settle || s.sys.phase == .waitRef || s.sys.phase == .fullStop

/-- A limit strobe at the power-manager port (R34, R70); one before start-up step 15 is applied from its end (R134). -/
def opLim (s : State) (r : Rail) (v : BitVec 12) : State :=
  if s.beforeStart then
    { s with sys := { s.sys with pmLimPending := s.sys.pmLimPending ++ [(r, v)] } }
  else if s.running && s.portOn portPm then s.takeLimit r v
  else s

end State

def execVdCreate (vd : VdId) (slot : Option Slot) (s : State) : Host.Outcome State Fault Refusal :=
  settled (s.opVd ((vdReq0 1 vd).withSlot slot))
def execVdDestroy (vd : VdId) (s : State) : Host.Outcome State Fault Refusal := settled (s.opVd (vdReq0 2 vd))
def execBind (kind : BitVec 2) (index : BitVec 8) (vd : VdId) (s : State) : Host.Outcome State Fault Refusal :=
  settled (s.opVd ((vdReq0 3 vd).withRes kind index))
def execUnbind (kind : BitVec 2) (index : BitVec 8) (vd : VdId) (s : State) : Host.Outcome State Fault Refusal :=
  settled (s.opVd ((vdReq0 4 vd).withRes kind index))
def execMove (kind : BitVec 2) (index : BitVec 8) (vd : VdId) (toVd : VdId) (s : State) :
    Host.Outcome State Fault Refusal := settled (s.opVd { (vdReq0 5 vd).withRes kind index with toVd := toVd })
def execVdSlot (vd : VdId) (slot : Option Slot) (s : State) : Host.Outcome State Fault Refusal :=
  settled (s.opVd ((vdReq0 6 vd).withSlot slot))
def execFunctionEnableWrite (t : EnTarget) (on : Bool) (s : State) : Host.Outcome State Fault Refusal :=
  settled (s.opEnable t on)
def execTrayEnable (s : State) : Host.Outcome State Fault Refusal := .next s.opTrayEnable
def execTrayAck (s : State) : Host.Outcome State Fault Refusal := .next s.opTrayAck
def execTrayIbiRepeat (s : State) : Host.Outcome State Fault Refusal := .next s.opTrayRepeat
def execPmLim (rail : Rail) (val : BitVec 12) (s : State) : Host.Outcome State Fault Refusal := .next (s.opLim rail val)

end Sys2Proof.Machine
end

