-- ==== Sys2Proof/Machine/ManagerOps.lean ====
section
/-! DEFINITION. The manager functions of a trust domain, shared parts: domain secrets and their hand-down (R166, R170, R186,
R360), census (R376 to R378), takeover (R363, R364), counts and Fragments (R386 to R391). -/

namespace Sys2Proof.Machine

/-- A member's row as the manager holds it (R380). -/
def DomMgr.rowOf (g : DomMgr) (m : Nat) : RosterRow :=
  { vds := Tab.get 0 g.rosterVds m, links := (g.rosterRows.filter fun e => e.1 / 64 == m).map fun e => (BitVec.ofNat 6 e.1, e.2) }

namespace State

/-! ### Domain secrets (Table 6-1) -/

def hallCtx (s : State) (d : Slot) (h : BitVec 3) (epoch : BitVec 32) : Bytes :=
  s.domainIdOf d ++ [h.setWidth 8] ++ leBytes 4 epoch.toNat
def dcsCtx (s : State) (d : Slot) (epoch : BitVec 32) : Bytes := s.domainIdOf d ++ leBytes 4 epoch.toNat
def memberCtx (s : State) (d : Slot) (m : Member) (identity : Bytes) (epoch : BitVec 32) : Bytes :=
  s.domainIdOf d ++ leBytes 4 m.toNat ++ fitTo 48 identity ++ leBytes 4 epoch.toNat

/-- A hall secret: the slot's hall row where this instance is a candidate of that hall, else derived from the DRS in the
acting row, which serves this one use and is erased at its end (R186). None where the row gives no key (R168). -/
def hallSecret (s : State) (d : Slot) (h : BitVec 3) : Option Bytes :=
  let k := s.dom d
  if k.hallCand && hallOf k.member == h && s.keyUsable (rowHall d) && k.hallEpoch == k.epoch then some (s.keyBytes (rowHall d) 32)
  else if s.keyUsable (rowDrs d) && !(s.row (rowActing d)).outOfUse then
    some (kdf (s.keyBytes (rowDrs d) 32) "KX3-HALL" (s.hallCtx d h k.epoch) 256)
  else none

def memberSecret (s : State) (d : Slot) (m : Member) (identity : Bytes) : Option Bytes :=
  (s.hallSecret d (hallOf m)).map fun h => kdf h "KX3-MEMBER" (s.memberCtx d m identity (s.dom d).epoch) 256

/-- The DCS, where its row gives it. -/
def dcsKey (s : State) (d : Slot) : Option Bytes := if s.keyUsable (rowDcs d) then some (s.keyBytes (rowDcs d) 32) else none

def key256 (bs : Bytes) : BitVec 288 := (leBv 256 bs).setWidth 288

def writeRoot (s : State) (r : Nat) (bs : Bytes) (d : Slot) : State := s.writeKey r (key256 bs) (.slotRoot d) 0 d 0

/-- What a manager derives for itself at an epoch: the DCS, its hall's secret, its member secret (Table 12-6, R393). -/
def deriveOwn (s : State) (d : Slot) : State :=
  let k := s.dom d
  if !s.keyUsable (rowDrs d) then s
  else
    let s := s.writeRoot (rowDcs d) (kdf (s.keyBytes (rowDrs d) 32) "KX3-COMMON" (s.dcsCtx d k.epoch) 256) d
    let hall := kdf (s.keyBytes (rowDrs d) 32) "KX3-HALL" (s.hallCtx d (hallOf k.member) k.epoch) 256
    let s := if k.hallCand then s.writeRoot (rowHall d) hall d else s
    let s := s.setDom d { k with hallEpoch := k.epoch, dcsEpoch := k.epoch }
    match s.memberSecret d k.member s.idDigest with
    | some m => (s.writeRoot (rowMember d) m d).deriveReserved d
    | none => s

/-- A row of a slot's own secrets is out of use (R188): the slot can hold no membership. -/
def slotRowsOut (s : State) (d : Slot) : Bool :=
  [rowDrs d, rowHall d, rowDcs d, rowMember d].any fun r => (s.row r).outOfUse

/-- Start Agreements on the slot's declared links (R276). -/
def agreeDeclared (s : State) (d : Slot) : State :=
  (s.rosterEntries d).foldl (fun (s : State) x => if s.linkInSlot x.1 d then s.agreeStart x.1 else s) s

/-! ### Hand-down (R170, R360) -/

/-- The label and context of Table 6-1 of a kind of Table 6-1: the additional data of its wrap. -/
def handAad (s : State) (d : Slot) (kind : BitVec 2) (m : Member) (identity : Bytes) (epoch : BitVec 32) : Bytes :=
  if kind = 0 then ascii "KX3-DRS" ++ s.domainIdOf d
  else if kind = 1 then ascii "KX3-HALL" ++ s.hallCtx d (hallOf m) epoch
  else if kind = 2 then ascii "KX3-COMMON" ++ s.dcsCtx d epoch
  else ascii "KX3-MEMBER" ++ s.memberCtx d m identity epoch

def transportKey (ssKem ssEcdh th : Bytes) (sender receiver : Member) (kind : BitVec 2) : Bytes :=
  hybrid ssKem ssEcdh th "KX3-TRANSPORT" (leBytes 4 sender.toNat ++ leBytes 4 receiver.toNat ++ [kind.setWidth 8])

/-- Wrap a 32-byte key: ciphertext, then tag. -/
def wrapKey (tk aad key : Bytes) : Bytes :=
  let r := gcmSeal tk (zeros 12) aad key
  r.1 ++ r.2

/-- Unwrap 48 bytes; none where the tag is wrong. -/
def unwrapKey (tk aad w : Bytes) : Option Bytes :=
  let ct := w.take 32
  if w.length = 48 ∧ gcmTag tk (zeros 12) aad ct = w.drop 32 then some (gcmOpen tk (zeros 12) ct) else none

/-- The key a hand-down of a kind carries, where its row gives it (R168). -/
def handKey (s : State) (d : Slot) (kind : BitVec 2) (to' : Member) : Option Bytes :=
  if kind = 0 then (if s.keyUsable (rowDrs d) then some (s.keyBytes (rowDrs d) 32) else none)
  else if kind = 1 then s.hallSecret d (hallOf to')
  else s.dcsKey d

/-- Send one HANDDOWN. -/
def handDown (s : State) (d : Slot) (kind : BitVec 2) (to' : Member) : State :=
  match s.handKey d kind to' with
  | none => s
  | some key =>
    let k := s.dom d
    let (r, s) := s.draw
    let (e, s) := s.draw
    let peer := Config.handPeer to'.toNat
    let ct := Config.kemEncaps (peer 0) r
    let tk := transportKey ct.2 (Config.ecdhShared e (peer 1)) (peer 2) k.member to' kind
    let w := wrapKey tk (s.handAad d kind to' [] k.epoch) key
    s.tc0Send d 0x4A to' 0 0 ([kind.setWidth 8, 0, 0, 0] ++ ct.1 ++ Config.ecdhPublic e ++ w)

/-- The rows of Table 6-7 that take a hand-down. -/
def handRow (d : Slot) (kind : BitVec 2) : Nat :=
  if kind = 0 then rowDrs d else if kind = 1 then rowHall d else if kind = 2 then rowDcs d else rowMember d

/-! ### Manager key list (R370) -/

def keysBody (ks : List (Member × Bytes)) : Bytes :=
  leBytes 1 ks.length ++ ks.flatMap fun e => leBytes 4 e.1.toNat ++ fitTo 48 e.2

/-- Flood MGR_KEYS to this instance's hall. -/
def keysFlood (s : State) (d : Slot) : State :=
  let k := s.dom d
  s.tc0Send d 0x4B 0 1 ((hallOf k.member).setWidth 8) (keysBody k.keyList)

/-- The key list with a candidate entered, in the order of member indices. -/
def keyListPut (ks : List (Member × Bytes)) (m : Member) (dig : Bytes) : List (Member × Bytes) :=
  (ks.filter fun e => decide (e.1 < m)) ++ [(m, dig)] ++ ks.filter fun e => decide (m < e.1)

/-! ### The census (R376 to R378) -/

def hallEntries (s : State) (d : Slot) (h : BitVec 3) : Tab (BitVec 2) :=
  (s.dom d).mgr.census.filter fun e => e.1 / 2 ^ 17 == h.toNat
def censusCount (s : State) (d : Slot) (h : BitVec 3) (st : BitVec 2) : Nat :=
  ((s.hallEntries d h).filter fun e => e.2 == st).length

/-- The state a census shows for leaf j: an unlisted leaf below n_h is PENDING, one at n_h or above is not admitted
(DEDUCED, log entry 43). -/
def leafState (s : State) (d : Slot) (h : BitVec 3) (j : Nat) : BitVec 2 :=
  Tab.get (if j < recHallSize (s.dom d).record h.toNat then 0 else 3) (s.hallEntries d h) (h.toNat * 2 ^ 17 + j)

/-- Some admitted leaf is PENDING or UNREACHED. -/
def censusPartial (s : State) (d : Slot) (h : BitVec 3) : Bool :=
  decide (s.censusCount d h 1 + s.censusCount d h 3 < recHallSize (s.dom d).record h.toNat) || s.censusCount d h 2 != 0

/-- The signed census of a hall (R378). -/
def censusBytes (s : State) (d : Slot) (h : BitVec 3) : Bytes :=
  let k := s.dom d
  let states := (List.range 32768).map fun b =>
    let st (i : Nat) : Byte := (s.leafState d h (4 * b + i)).setWidth 8
    st 0 ||| (st 1 <<< 2) ||| (st 2 <<< 4) ||| (st 3 <<< 6)
  let body := leBytes 4 0x4E43584B ++ leBytes 2 1 ++ zeros 2 ++ s.domainIdOf d ++ [h.setWidth 8, 0, 0, 0] ++
    leBytes 4 k.epoch.toNat ++ leBytes 4 k.mgr.censusSeq.toNat ++ leBytes 8 (s.domTime d).toNat ++
    leBytes 4 (recHallSize k.record h.toNat) ++ leBytes 4 (s.censusCount d h 1) ++ leBytes 4 (s.censusCount d h 2) ++
    leBytes 4 (s.censusCount d h 3) ++ [b2w (s.censusPartial d h) 8, 0, 0, 0] ++ states ++ leBytes 4 k.member.toNat
  body ++ s.aliasSign "KX3-CENSUS" body

/-- Issue a census: census_seq rises by 1, and the census is the hall's latest. -/
def censusIssue (s : State) (d : Slot) (h : BitVec 3) : State :=
  let s := s.modDom d fun k => { k with mgr := { k.mgr with censusSeq := k.mgr.censusSeq + 1 } }
  let c := s.censusBytes d h
  s.modDom d fun k => { k with mgr := { k.mgr with latest := Tab.set [] k.mgr.latest h.toNat c } }

/-- The hall's sweep has ended: no admitted leaf is PENDING. -/
def sweepEnded (s : State) (d : Slot) (h : BitVec 3) : Bool :=
  decide (recHallSize (s.dom d).record h.toNat ≤ s.censusCount d h 1 + s.censusCount d h 2 + s.censusCount d h 3)

/-- Invite on every declared link that is up and holds no Agreement (R371, R377); the census decides which partners. -/
def inviteAll (s : State) (d : Slot) : State :=
  (s.rosterEntries d).foldl (fun (s : State) x =>
    if s.linkInSlot x.1 d && s.linkOn x.1 && (s.link x.1).core.up && (s.link x.1).core.phase != .agreed then
      s.inviteSend x.1 d x.2
    else s) s

/-- The Fragment end relays its counter's REJOIN_REQ on the declared links that are up and hold no Agreement (R391). -/
def rejoinRelay (s : State) (d : Slot) (msg : Bytes) : State :=
  (s.rosterEntries d).foldl (fun (s : State) x =>
    if s.linkInSlot x.1 d && s.linkOn x.1 && (s.link x.1).core.up && (s.link x.1).core.phase != .agreed then
      s.openDomain x.1 d x.2 0x5B msg
    else s) s

/-- PARSE_RESUME to every reached member that declares a link to a member of the hall in one of some census states
(R365, R377); the manager itself invites too. -/
def resumeSend (s : State) (d : Slot) (h : BitVec 3) (states : List (BitVec 2)) : State :=
  let rows := (s.dom d).mgr.rosterRows
  let ms := (rows.filter fun e => hallOf e.2.1 == h && states.contains (s.censusOf d e.2.1)).map fun e =>
    (BitVec.ofNat 20 (e.1 / 64) : Member)
  let s := (ms.eraseDups.filter fun m => s.censusOf d m == 1).foldl (fun (s : State) m => s.tc0Send d 0x45 m 0 0 (zeros 8)) s
  s.inviteAll d

/-! ### Takeover (R363, R364, R366) -/

def lowest (ms : List Member) : Option Member :=
  ms.foldl (fun o m => match o with
    | none => some m
    | some x => some (if m < x then m else x)) none

/-- R363: contact with another candidate of the function, or every other one departed. -/
def mayAct (s : State) (d : Slot) (others : List Member) : Bool :=
  (others.any fun m => s.inContact d m) || others.all fun m => (s.dom d).mgr.departed.contains m

def othersOf (s : State) (d : Slot) (ms : List Member) : List Member := ms.filter fun m => m != (s.dom d).member

/-- No candidate of a lower index is in contact. -/
def isLowest (s : State) (d : Slot) (others : List Member) : Bool :=
  others.all fun m => !(decide (m < (s.dom d).member) && s.inContact d m)

/-- MGR_TAKEOVER's body: the function (0 hall, 1 system), its hall, the new active manager (log entry 25). -/
def takeoverBody (s : State) (d : Slot) (system : Bool) (m : Member) : Bytes :=
  [b2w system 8, (hallOf (s.dom d).member).setWidth 8, 0, 0] ++ leBytes 4 m.toNat

/-- Announce the new active manager of a function to its candidates and, for a hall, to the hall. -/
def takeoverSend (s : State) (d : Slot) (system : Bool) (m : Member) : State :=
  let b := s.takeoverBody d system m
  if system then (s.othersOf d (s.sysCandsOf d)).foldl (fun (s : State) c => s.tc0Send d 0x49 c 0 0 b) s
  else s.tc0Send d 0x49 0 1 ((hallOf (s.dom d).member).setWidth 8) b

/-- Flood HALL_PULSE to a hall (R368). -/
def hallPulseSend (s : State) (d : Slot) (h : BitVec 3) : State :=
  let k := s.dom d
  s.tc0Send d 0x4C 0 1 (h.setWidth 8) (leBytes 4 k.member.toNat ++ leBytes 4 k.round.toNat)

/-- A candidate is healthy to be active (R27): not a Fragment, and its grade not Black. -/
def mayLead (s : State) (d : Slot) : Bool := s.running && (s.dom d).phase == .member && s.flt.health.grade != 3

/-- The candidate that speaks for a function in a Fragment, where no manager is active (R27) but counts, Roster and refusals go
on (Tables 12-10, 12-15): the one that R363 would allow to act (DEDUCED, log entry 113). -/
def fragHall (s : State) (d : Slot) : Bool :=
  let others := s.othersOf d (s.hallCandsOf d)
  s.running && s.isFragment d && s.holdsHall d && s.mayAct d others && s.isLowest d others
def fragSys (s : State) (d : Slot) : Bool :=
  let others := s.othersOf d (s.sysCandsOf d)
  s.running && s.isFragment d && s.holdsDrs d && s.mayAct d others && s.isLowest d others

/-- This instance manages a hall, or speaks for it in a Fragment. -/
def leadsOwn (s : State) (d : Slot) : Bool := (s.dom d).activeHm || s.fragHall d
def leadsHall (s : State) (d : Slot) (h : BitVec 3) : Bool :=
  s.managesHall d h || (s.fragHall d && hallOf (s.dom d).member == h) || (s.fragSys d && !s.hallServed d h)

/-- The domain works in the slot: MEMBER, or a Fragment of it. -/
def inDomain (s : State) (d : Slot) : Bool :=
  s.running && ((s.dom d).phase == .member || (s.dom d).phase == .fragment)

/-- A candidate of the hall takes over where the active Hall Manager has left contact, or is an acting System Manager. -/
def electHall (s : State) (d : Slot) : State :=
  let k := s.dom d
  let others := s.othersOf d (s.hallCandsOf d)
  let gone := k.hallManager == k.member || !s.isHallCand d (hallOf k.member) k.hallManager || !s.inContact d k.hallManager
  if !s.mayLead d || k.activeHm || !s.holdsHall d || !gone || !s.mayAct d others || !s.isLowest d others then s
  else
    let s := s.setDom d { k with activeHm := true, hallManager := k.member, rosterPending := false }
    let s := ((s.domEvent d domTakeover).takeoverSend d false k.member).hallPulseSend d (hallOf k.member)
    s.resumeSend d (hallOf k.member) [0, 2]

def electSys (s : State) (d : Slot) : State :=
  let k := s.dom d
  let others := s.othersOf d (s.sysCandsOf d)
  let gone := k.sysManager == k.member || !s.inContact d k.sysManager
  if !s.mayLead d || k.activeSm || !s.holdsDrs d || !gone || !s.mayAct d others || !s.isLowest d others then s
  else (s.setDom d { k with activeSm := true, sysManager := k.member }).domEvent d domTakeover |>.takeoverSend d true k.member

/-- A manager that R363 no longer allows to act is not active. -/
def standDown (s : State) (d : Slot) : State :=
  let k := s.dom d
  let hm := k.activeHm && s.mayAct d (s.othersOf d (s.hallCandsOf d))
  let sm := k.activeSm && s.mayAct d (s.othersOf d (s.sysCandsOf d))
  s.setDom d { k with activeHm := hm, activeSm := sm }

/-- The active manager of a function syncs a returned candidate of a lower index, and yields to it (R366). -/
def yieldTo (s : State) (d : Slot) (m : Member) : State :=
  let k := s.dom d
  let hall := k.activeHm && decide (m < k.member) && s.isHallCand d (hallOf k.member) m
  let sys := k.activeSm && decide (m < k.member) && s.isSysCand d m
  if !hall && !sys then s
  else
    let s := k.mgr.census.foldl (fun (s : State) e =>
      s.tc0Send d 0x52 m 0 0 (syncHead (BitVec.ofNat 20 e.1) e.2 0)) s
    let s := k.mgr.rosterVersions.foldl (fun (s : State) e =>
      s.syncRow d (BitVec.ofNat 20 e.1) e.2 (k.mgr.rowOf e.1) [m]) s
    let s := if hall then (s.takeoverSend d false m).modDom d fun k => { k with activeHm := false, hallManager := m } else s
    let s := if sys then (s.takeoverSend d true m).modDom d fun k => { k with activeSm := false, sysManager := m } else s
    s.domEvent d domTakeover

/-! ### Counts and Fragments (R355, R386 to R391) -/

/-- A member becomes a Fragment (R390): its rejoin window begins, its fence entries go, its open iterations fault, joins in
progress are abandoned, and it is no active manager any more (R27). -/
def becomeFragment (s : State) (d : Slot) : State :=
  let k := s.dom d
  if k.phase ≠ .member then s
  else
    let ends : Time := s.now + BitVec.ofNat 64 (recRejoinMs k.record * 1000000)
    let s := s.setDom d { k with phase := .fragment, rejoinEnds := some ends, activeHm := false, activeSm := false,
                                 mgr := { k.mgr with grants := [], joinQueue := [] } }
    let s := s.domEvent d domFragment
    let m := s.mem
    let mine (x : Master) : Bool := match masterCtx x with
      | some c => s.ctxSlot c == some d
      | none => false
    let gone := m.fence.filterMap fun e => match e.tag with
      | some (.cmd ..) => if mine e.master then
          some { master := e.master, tag := e.tag, dpa := e.dpa, status := stFragment, alarm := false } else none
      | _ => none
    let s := fenceRelease { s with mem := { m with fence := m.fence.filter (fun e => !mine e.master), ends := m.ends ++ gone } }
    let ps := s.progsInUse.filter fun p => (s.prog p).slot == d
    ps.foldl (fun (s : State) p => s.faultOpen p progLink stFragment true) s

/-- A Fragment continues: its candidates may lead again, its links start Agreements (R27, R391). -/
def continueDom (s : State) (d : Slot) : State :=
  let k := s.dom d
  if k.phase = .fragment then
    let s := ((s.setDom d { k with phase := .member, rejoinEnds := none }).domEvent d domRejoined).timeMark d
    ((s.electHall d).electSys d).agreeDeclared d
  else s

def votesHeld (halls : BitVec 8) (verifier : Bool) (hallCount : Nat) : Nat :=
  popcount halls + (verifier && decide (2 ≤ hallCount)).toNat

/-- The outcome of a count at a member (R387): its part continues, or becomes a Fragment. -/
def applyResult (s : State) (d : Slot) (r : CountResult) : State :=
  let k := s.dom d
  let n := recHallCount k.record
  let votes := votesHeld r.halls r.verifier n
  let s := s.setDom d { k with round := r.round, halls := r.halls, verifier := r.verifier, votes := BitVec.ofNat 4 votes,
                               hallPulseAt := s.now }
  if quorumOf n ≤ votes then s.continueDom d else s.becomeFragment d

/-- The counter of the part: the lowest system candidate in it, or else the lowest active Hall Manager (R386). -/
def counterOf (s : State) (d : Slot) : Member :=
  let k := s.dom d
  let sys := (s.sysCandsOf d).filter fun m => if m = k.member then s.holdsDrs d else s.inContact d m
  match lowest sys with
  | some m => m
  | none =>
    let hm := (k.keyList.map (·.1)).filter fun m => s.isHallCand d (hallOf m) m && s.inContact d m
    (lowest (if s.leadsOwn d then k.member :: hm else hm)).getD k.member

def isCounter (s : State) (d : Slot) : Bool :=
  s.inDomain d && s.counterOf d == (s.dom d).member && (s.holdsDrs d || s.leadsOwn d)

/-- This instance's own claim: its hall's vote while it leads its hall and R363 allows it to act (R387). -/
def ownClaim (s : State) (d : Slot) : Option (BitVec 3) :=
  let k := s.dom d
  if s.leadsOwn d && s.mayAct d (s.othersOf d (s.hallCandsOf d)) then some (hallOf k.member) else none

/-- The votes of a part and its reached members, with a hall's claim added. -/
def addClaim (c : CountRun) (h : BitVec 3) (members : Nat) : CountRun :=
  if c.halls.getLsbD h.toNat then c else { c with halls := setBitTo c.halls h.toNat true, members := c.members + members }

/-- Close the open count: flood COUNT_RESULT, and stay open for the verifier's vote where the part is a Fragment
(R387, R388). -/
def countEnd (s : State) (d : Slot) (c : CountRun) : State :=
  let n := recHallCount (s.dom d).record
  let wait := decide (votesHeld c.halls c.verifier n < quorumOf n)
  let s := s.modDom d fun k => { k with mgr := { k.mgr with count := if wait then some { c with waiting := true } else none } }
  let body := leBytes 4 c.round.toNat ++ [c.halls, b2w c.verifier 8, 0, 0]
  (s.tc0Send d 0x5A 0 2 0 body).applyResult d { round := c.round, halls := c.halls, verifier := c.verifier }

/-- Every hall of the record has claimed, or a Fragment's count has come to hold the quorum. -/
def countFull (s : State) (d : Slot) (c : CountRun) : Bool :=
  let n := recHallCount (s.dom d).record
  if c.waiting then decide (quorumOf n ≤ votesHeld c.halls c.verifier n) else decide (n ≤ popcount c.halls)

/-- Store a count, or close it where nothing more is awaited. -/
def countPut (s : State) (d : Slot) (c : CountRun) : State :=
  if s.countFull d c then s.countEnd d c
  else s.modDom d fun k => { k with mgr := { k.mgr with count := some c } }

/-- Open a count with a round (R386). -/
def countStart (s : State) (d : Slot) (round : BitVec 32) (halls : BitVec 8) (members : Nat) (verifier : Bool) : State :=
  let c : CountRun := { round := round, halls := halls, members := members, verifier := verifier, waiting := false }
  let c := match s.ownClaim d with
    | some h => addClaim c h (s.censusCount d h 1)
    | none => c
  s.countPut d c

/-- A change of the part's claimable votes, as a manager sees it: COUNT_OPEN to the counter, and its own hall's claim
(R386, R387). -/
def countTrigger (s : State) (d : Slot) : State :=
  let k := s.dom d
  if !s.inDomain d then s
  else if s.isCounter d then
    match k.mgr.count with
    | some c => if c.waiting then s.countStart d (k.round + 1) 0 0 false else s
    | none => s.countStart d (k.round + 1) 0 0 false
  else if !s.leadsOwn d && !k.activeSm && !s.fragSys d then s
  else
    let to' := s.counterOf d
    let s := s.tc0Send d 0x58 to' 0 0 (zeros 8)
    match s.ownClaim d with
    | some h => s.tc0Send d 0x59 to' 0 0 ([h.setWidth 8, 0, 0, 0] ++ leBytes 4 (k.round + 1).toNat ++
        leBytes 4 (s.censusCount d h 1))
    | none => s

/-- A new counter of a Fragment whose votes do not change keeps the round and its votes, for the verifier's vote (R386, R388,
R392). -/
def counterKeep (s : State) (d : Slot) : State :=
  let k := s.dom d
  if s.isFragment d && s.isCounter d && k.mgr.count.isNone && k.votes != 0 then
    let c : CountRun := { round := k.round, halls := k.halls, members := s.censusCount d (hallOf k.member) 1,
                          verifier := k.verifier, waiting := true }
    s.modDom d fun k => { k with mgr := { k.mgr with count := some c } }
  else s

end State

end Sys2Proof.Machine
end

