-- ==== Sys2Proof/Machine/Domain.lean ====
section
/-! DEFINITION. The mailbox commands of a trust domain (R356, R619): formation (R357 to R359), tickets and declarations
(R371, R381, R382), census and count state (R378, R388), the verifier's vote and the epoch (R388, R393). -/

namespace Sys2Proof.Machine

namespace State

/-- R356: every command is refused in Test state and while debug is open. -/
def domGate (s : State) : Option Status := s.joinGate

/-- A mailbox command of Table 12-4. -/
def domCmd (s : State) (h : MbxHdr) (code : BitVec 16) (len : Option Nat) (act : State → MbxAnswer) : State :=
  s.mbxRun h code true true len fun s => match s.domGate with
    | some st => (s, st, [])
    | none => act s

/-- A command whose reply carries a status only. -/
def domCmd0 (s : State) (h : MbxHdr) (code : BitVec 16) (len : Nat) (act : State → State × Status) : State :=
  s.domCmd h code (some len) fun s => let r := act s; (r.1, r.2, [])

/-- A command whose body of another length is of a wrong format: ST_DOMAIN_RECORD (R388, R393). -/
def domCmdBody (s : State) (h : MbxHdr) (code : BitVec 16) (len : Nat) (act : State → State × Status) : State :=
  s.domCmd h code none fun s =>
    let r := if h.bodyLen = len then act s else (s, stDomainRecord)
    (r.1, r.2, [])

/-! ### Formation -/

/-- Table 12-6, step 2: this member and its identity are a system candidate, and its proof leads to adm_root. -/
def formOk (s : State) (m : FormHello) : Bool :=
  (recSysCands m.record).any (fun c => c.1 == m.member.toNat && c.2 == s.idDigest) &&
    admitted12 m.record m.member.toNat s.idDigest m.proof

def formHelloDo (s : State) (m : FormHello) : MbxAnswer :=
  let d := m.slot
  if (s.dom d).phase ≠ .free then (s, stSlotBusy, [])
  else if s.poolRole then (s, stRoleMismatch, [])
  else if !recordOk m.record then (s, stDomainRecord, [])
  else if !s.formOk m then (s, stFormation, [])
  else if !s.idUsable || !s.aliasUsable || s.slotRowsOut d then (s, stKeyOrphan, [])
  else
    let (n, s) := s.draw
    let (e, s) := s.draw
    let (r, s) := s.draw
    let ct := Config.kemEncaps m.kem r
    let core := leBytes 32 n.toNat ++ ct.1 ++ Config.ecdhPublic e ++ s.idKeys ++ leBytes 2 s.boot.certPair.length ++
      s.boot.certPair
    let reply := core ++ s.aliasSignMsg "KX3-FORM-R" (sha384 (m.raw ++ core))
    let mem : Member := m.member.setWidth 20
    let k := s.dom d
    let form : FormPend := {
      th := sha384 (m.raw ++ reply)
      ssKem := ct.2
      ssEcdh := Config.ecdhShared e m.ecdh
      record := m.record
      member := mem
      since := s.now }
    let s := s.setDom d { k with phase := .forming, member := mem, domainId := slice m.record 8 16, form := some form }
    (s.meterRestart d, stOk, reply)

/-- The slot whose FORM_HELLO is pending: the latest one. -/
def pendingForm (s : State) : Option (Slot × FormPend) :=
  slots.foldl (fun o d => match (s.dom d).form, o with
    | some f, some x => if x.2.since ≤ f.since then some (d, f) else some x
    | some f, none => some (d, f)
    | none, o => o) none

/-- Table 12-6, step 4: the domain exists, with this instance as its active System Manager. -/
def formDone (s : State) (d : Slot) (f : FormPend) (drs : Bytes) : State :=
  let k := s.dom d
  let hall := (recHallCands f.record (hallOf f.member).toNat).any fun c => c.1 == f.member.toNat
  let s := s.setDom d { k with
    phase := .member
    form := none
    record := f.record
    epoch := 1
    sysCand := true
    hallCand := hall
    activeSm := true
    activeHm := hall
    hallManager := f.member
    sysManager := f.member
    quorum := BitVec.ofNat 4 (quorumOf (recHallCount f.record))
    hallPulseAt := s.now
    time := { k.time with stratum := 0 } }
  let s := (s.writeRoot (rowDrs d) drs d).deriveOwn d
  let s := s.modDom d fun k => { k with
    keyList := [(f.member, s.aliasDigest)]
    mgr := { k.mgr with census := Tab.set 0 k.mgr.census f.member.toNat 1 } }
  let s := s.modDom d fun k => { k with token := s.tokenMake d f.member (leBytes 8 s.boot.boot.toNat) s.aliasDigest }
  (s.timeMark d).reissueCert.agreeDeclared d

def formFinishDo (s : State) (sigV : Bytes) (kcV : BitVec 128) : MbxAnswer :=
  match s.pendingForm with
  | none => (s, stNoTarget, [])
  | some (d, f) =>
    let drs := hybrid f.ssKem f.ssEcdh f.th "KX3-DRS" (slice f.record 8 16)
    if sigMsgOk (recVerifierKeys f.record) "KX3-FORM-I" f.th sigV && kcV == confirmTag drs f.th 1 "KX3-FORM-KC" then
      (s.formDone d f drs, stOk, leBytes 16 (confirmTag drs f.th 2 "KX3-FORM-KC").toNat)
    else (s.freeSlot d, stFormation, [])

/-- Step 3 ran past its second (R359). -/
def opFormTimeout (s : State) (d : Slot) : State :=
  if s.running && (s.dom d).phase == .forming then (s.freeSlot d).out (.report d stFormation) else s

/-! ### Tickets and declarations -/

/-- A member index field: none where bits [31:20] are not 0 (R619). -/
def memberField (m : BitVec 32) : Option Member := if m.toNat < 2 ^ 20 then some (m.setWidth 20) else none

def joinTicketDo (s : State) (d : Slot) (member : BitVec 32) (proof : Bytes) : State × Status :=
  match memberField member with
  | none => (s, stReserved)
  | some m =>
    if (s.dom d).phase ≠ .free then (s, stSlotBusy)
    else (s.modDom d fun k => { k with member := m, ticket := some (m, proof) }, stOk)

/-- A declaration of a link in a slot, and the Agreement it may start (R276, R380, R381, R513). -/
def declareDo (s : State) (d : Slot) (l : LinkId) (x : Decl) : State × Status :=
  let k := s.dom d
  let own := (k.phase != .free || k.ticket.isSome) && x.partner == k.member
  if !s.linkInSlot l d || s.censusOf d x.partner == 3 || own then (s, stRoster)
  else
    let s := s.modDom d fun k => { k with decls := Tab.set none k.decls l.toNat (some x) }
    ((s.rosterChange d).agreeStart l, stOk)

def linkDeclareDo (s : State) (d : Slot) (l pl : Byte) (partner : BitVec 32) : State × Status :=
  match memberField partner with
  | none => (s, stReserved)
  | some m =>
    if 64 ≤ l.toNat ∨ 64 ≤ pl.toNat then (s, stReserved)
    else s.declareDo d (l.setWidth 6) { partner := m, link := pl.setWidth 6 }

/-- Table 12-13. -/
def z2State (p : LinkPhase) : Byte :=
  match p with
  | .down => 0
  | .up => 1
  | .agreeing => 1
  | .agreed => 2
  | .absent => 3

/-- A row is a declaration where the record has compat = 1 and the peer is a member of the domain (R382). A row that LINK_DECLARE
would be refused for is refused so too. The reply body is the port state and three bytes of 0 (log entry 25). -/
def z2Do (s : State) (d : Slot) (l : LinkId) (node : BitVec 32) (port : LinkId) : MbxAnswer :=
  let k := s.dom d
  let m : Member := node.setWidth 20
  let isMember := decide ((hallOf m).toNat < recHallCount k.record) && s.censusOf d m != 3
  let r := if recCompat k.record = 1 ∧ isMember then s.declareDo d l { partner := m, link := port } else (s, stOk)
  (r.1, r.2, if r.2 = stOk then [z2State (r.1.link l).core.phase, 0, 0, 0] else [])

def leaveDo (s : State) (slot : Byte) : State × Status :=
  let d : Slot := slot.setWidth 3
  if 8 ≤ slot.toNat ∨ !s.slotHeld d then (s, stNoTarget) else (s.forcedExit d, stOk)

/-! ### Census, count state, vote, epoch -/

def censusGetDo (s : State) (d : Slot) (hall : Byte) : MbxAnswer :=
  let h : BitVec 3 := hall.setWidth 3
  if 8 ≤ hall.toNat ∨ !s.inDomain d ∨ !s.managesHall d h then (s, stNoTarget, [])
  else if !s.aliasUsable then (s, stKeyOrphan, [])
  else
    let s := s.censusIssue d h
    (s, stOk, Tab.get [] (s.dom d).mgr.latest h.toNat)

/-- The signed count state (R388). -/
def countState (s : State) (d : Slot) (c : CountRun) : Bytes :=
  let body := leBytes 4 0x5343584B ++ leBytes 2 1 ++ zeros 2 ++ s.domainIdOf d ++ leBytes 4 c.round.toNat ++
    leBytes 4 (s.dom d).member.toNat ++ [c.halls, 0, 0, 0] ++ leBytes 4 c.members ++ leBytes 8 (s.domTime d).toNat
  body ++ s.aliasSign "KX3-COUNT" body

def countStateDo (s : State) (d : Slot) : MbxAnswer :=
  match (s.dom d).mgr.count with
  | none => (s, stNoTarget, [])
  | some c =>
    if !s.isCounter d then (s, stNoTarget, [])
    else if !s.aliasUsable then (s, stKeyOrphan, [])
    else (s, stOk, s.countState d c ++ leBytes 2 s.boot.certPair.length ++ s.boot.certPair ++ (s.dom d).token)

/-- The slot that carries a domain_id. -/
def slotOfDomain (s : State) (id : Bytes) : Option Slot := slots.find? fun d => s.slotHeld d && s.domainIdOf d == id

/-- VERIFIER_VOTE (R388). -/
def voteDo (s : State) (b : Bytes) : State × Status :=
  if leAt b 0 4 ≠ 0x5656584B ∨ leAt b 4 2 ≠ 1 ∨ !zeroAt b 6 2 ∨ !zeroAt b 32 4 then (s, stDomainRecord)
  else match s.slotOfDomain (slice b 8 16) with
  | none => (s, stNoTarget)
  | some d =>
    let k := s.dom d
    if leAt b 28 4 ≠ k.member.toNat ∨ !sigOk (recVerifierKeys k.record) "KX3-VOTE" (b.take 36) (b.drop 36) then
      (s, stDomainRecord)
    else match k.mgr.count with
    | none => (s, stIteration)
    | some c =>
      if leAt b 24 4 ≠ c.round.toNat then (s, stIteration)
      else
        let c := { c with verifier := true }
        let n := recHallCount k.record
        if quorumOf n ≤ votesHeld c.halls true n then (s.countEnd d c, stOk)
        else (s.modDom d fun k => { k with verifier := true, votes := BitVec.ofNat 4 (votesHeld c.halls true n)
                                           mgr := { k.mgr with count := some c } }, stOk)

/-- The System Manager's epoch advance (R393): new secrets, hand-downs, EPOCH_NOTICE, its own member secret and token anew. -/
def advance (s : State) (d : Slot) : State :=
  let k := s.dom d
  let others := (k.keyList.map (·.1)).filter fun m => m != k.member
  let s := s.invalidateKey (rowMember d)
  let s := (s.eraseRow (rowHall d)).eraseRow (rowDcs d)
  let s := s.modDom d fun k => { k with
    epoch := k.epoch + 1
    keyList := [(k.member, s.aliasDigest)]
    mgr := { k.mgr with census := Tab.set 0 [] k.member.toNat 1, grants := [], joinQueue := [], latest := [] } }
  let s := (s.deriveOwn d).domEvent d domEpoch
  let s := others.foldl (fun (s : State) m =>
    let s := if s.isHallCand d (hallOf m) m then s.handDown d 1 m else s
    s.handDown d 2 m) s
  let s := s.tc0Send d 0x5D 0 2 0 (leBytes 4 (s.dom d).epoch.toNat ++ zeros 4)
  let s := s.modDom d fun x => { x with token := s.tokenMake d k.member (leBytes 8 s.boot.boot.toNat) s.aliasDigest }
  s.reissueCert.agreeDeclared d

/-- EPOCH_ADVANCE (R393). A Fragment, and a part without a System Manager at this instance, cannot advance
(DEDUCED, log entry 44). -/
def epochDo (s : State) (b : Bytes) : State × Status :=
  if leAt b 0 4 ≠ 0x4145584B ∨ leAt b 4 2 ≠ 1 ∨ !zeroAt b 6 2 ∨ !zeroAt b 28 4 then (s, stDomainRecord)
  else match s.slotOfDomain (slice b 8 16) with
  | none => (s, stNoTarget)
  | some d =>
    let k := s.dom d
    if !sigOk (recVerifierKeys k.record) "KX3-EPOCH" (b.take 32) (b.drop 32) then (s, stDomainRecord)
    else if k.phase = .fragment then (s, stFragment)
    else if !k.activeSm then (s, stNoManager)
    else if leAt b 24 4 ≠ k.epoch.toNat then (s, stIteration)
    else if k.epoch = 0xFFFFFFFF then (s, stEpochLimit)
    else if !s.keyUsable (rowDrs d) || !s.aliasUsable then (s, stKeyOrphan)
    else (s.advance d, stOk)

end State

def execFormHello (h : MbxHdr) (m : FormHello) (s : State) : Host.Outcome State Fault Refusal :=
  .next (s.domCmd h 0x0030 (some 13385) fun u => u.formHelloDo m)
def execFormFinish (h : MbxHdr) (sigV : Bytes) (kcV : BitVec 128) (s : State) : Host.Outcome State Fault Refusal :=
  settled (s.domCmd h 0x0031 (some 4752) fun u => u.formFinishDo sigV kcV)
def execFormationTimeout (slot : Slot) (s : State) : Host.Outcome State Fault Refusal := settled (s.opFormTimeout slot)
def execJoinTicket (h : MbxHdr) (slot : Slot) (member : BitVec 32) (proof : Bytes) (s : State) :
    Host.Outcome State Fault Refusal := .next (s.domCmd0 h 0x0032 824 fun u => u.joinTicketDo slot member proof)
def execLinkDeclare (h : MbxHdr) (slot : Slot) (l : Byte) (partnerLink : Byte) (partner : BitVec 32) (s : State) :
    Host.Outcome State Fault Refusal := .next (s.domCmd0 h 0x0033 8 fun u => u.linkDeclareDo slot l partnerLink partner)
def execDomainLeave (h : MbxHdr) (slot : Byte) (s : State) : Host.Outcome State Fault Refusal :=
  settled (s.domCmd0 h 0x0034 4 fun u => u.leaveDo slot)
def execCensusGet (h : MbxHdr) (slot : Slot) (hall : Byte) (s : State) : Host.Outcome State Fault Refusal :=
  .next (s.domCmd h 0x0035 (some 4) fun u => u.censusGetDo slot hall)
def execCountStateGet (h : MbxHdr) (slot : Slot) (s : State) : Host.Outcome State Fault Refusal :=
  .next (s.domCmd h 0x0036 (some 4) fun u => u.countStateDo slot)
def execVerifierVote (h : MbxHdr) (body : Bytes) (s : State) : Host.Outcome State Fault Refusal :=
  settled (s.domCmdBody h 0x0037 4772 fun u => u.voteDo body)
def execEpochAdvance (h : MbxHdr) (body : Bytes) (s : State) : Host.Outcome State Fault Refusal :=
  settled (s.domCmdBody h 0x0038 4768 fun u => u.epochDo body)
def execZ2TableRow (h : MbxHdr) (slot : Slot) (l : LinkId) (peerNode : BitVec 32) (peerPort : LinkId) (s : State) :
    Host.Outcome State Fault Refusal := .next (s.domCmd h 0x0039 none fun u => u.z2Do slot l peerNode peerPort)

end Sys2Proof.Machine
end

