-- ==== Sys2Proof/Machine/Engines.lean ====
section
/-! DEFINITION. The fill and copy engine (R464) and the crypto service engine (R207 to R213). -/

namespace Sys2Proof.Machine

namespace State

/-! ### Fill and copy -/

/-- Fill lines from line `i` on with a pattern line. -/
def fillLines (s : State) (x : Cmd) (t : Trans) (p : Line) : Nat → Nat → State × Got Unit
  | 0, _ => (s, .ok () [])
  | n + 1, i =>
    match s.putLine (.ctx x.ctx) x 0 t i (BitVec.allOnes 64) p [] with
    | (u, .ok () _) => (u.progress engFill).fillLines x t p n (i + 1)
    | (u, g) => (u, g)

/-- Copy lines from line `i` on: each line is read, then written. -/
def copyLines (s : State) (x : Cmd) (dst src : Trans) : Nat → Nat → List McRsp → State × Got Unit
  | 0, _, rsps => (s, .ok () rsps)
  | n + 1, i, rsps =>
    match s.getLine (.ctx x.ctx) x 1 src i rsps with
    | (u, .ok p rest) =>
      (match u.putLine (.ctx x.ctx) x 0 dst i (BitVec.allOnes 64) p rest with
       | (v, .ok () r2) => (v.progress engFill).copyLines x dst src n (i + 1) r2
       | (v, g) => (v, g))
    | (u, g) => (u, toUnit g)

/-- A RUNNING command whose row runs: cancelled at its start (R455), or left to its engine. -/
def engineRow (s : State) (c : CtxId) (q : BitVec 3) (k : Word) (op : BitVec 16) (f : Cmd → State) : State :=
  match s.runningCmd c q k op with
  | none => s
  | some x => if x.issued then s else if x.cancel then s.cmdResult c q k stCancelled 0 else f x

/-- R464. -/
def opFill (s : State) (c : CtxId) (k : Word) : State :=
  s.engineRow c 4 k opMemFill fun x => match x.trans with
  | [t] =>
    let p := bytesLine ((List.replicate 8 (slice x.body 8 8)).flatten)
    let r := s.fillLines x t p (transLines t) 0
    s.accessEnd r.1 x r.2
  | _ => s

/-- R464. -/
def opCopy (s : State) (c : CtxId) (k : Word) (rsps : List McRsp) : State :=
  s.engineRow c 4 k opMemCopy fun x => match x.trans with
  | [dst, src] => match s.fabFetch x [(1, src)] with
    | some u => u
    | none =>
      let r := s.copyLines x dst src (transLines dst) 0 rsps
      s.accessEnd r.1 x r.2
  | _ => s

/-! ### Crypto service -/

/-- What a crypto service command leaves in the counters: a lane operation a block (Table 19-4), progress by chunks of
4,096 blocks and the command (Table 18-1). -/
def csNote (s : State) (c : CtxId) (lanes n : Nat) : State :=
  (s.activity (some c) (4 * lanes)).progressBy engCrypto (n / 4096 + 1)

/-- The engine's key register: the key, read once when the command starts, and its round keys 13 and 14 (R211). -/
def csKeyRead (s : State) (c : CtxId) (x : Cmd) (key : Trans) (rsps : List McRsp) : State × Got Bytes :=
  match x.csKey with
  | some r => (s, .ok (leBytes 64 r.toNat) rsps)
  | none => match s.getRange (.ctx c) x 2 key rsps with
    | (u, .ok kb rest) =>
      let r := kb ++ tailKeys kb
      (u.modCmd x.ctx x.queue x.k fun y => { y with csKey := some (leBv 512 r) }, .ok r rest)
    | (u, g) => (u, g)

/-- R207, R208: dst block i is the cipher of src block i under the key. -/
def csAes (s : State) (c : CtxId) (k : Word) (op : BitVec 16) (f : Bytes → Bytes → Bytes) (rsps : List McRsp) : State :=
  s.engineRow c 3 k op fun x => match x.trans with
  | [src, dst, key] => match s.fabFetch x [(0, src), (2, key)] with
    | some u => u
    | none =>
      match s.csKeyRead c x key rsps with
      | (u, .ok kb r1) =>
        (match u.getRange (.ctx c) x 0 src r1 with
         | (v, .ok bs r2) =>
           let out := ((chunks 16 bs).map (f kb)).flatten
           let n := bs.length / 16
           let r := (v.csNote c n n).putRange (.ctx c) x 1 dst out r2
           u.accessEnd r.1 x r.2
         | (v, g) => u.accessEnd v x (toUnit g))
      | (u, g) => s.accessEnd u x (toUnit g)
  | _ => s

/-- The cipher and its inverse from the engine's key register: the key, then round keys 13 and 14 (R211). -/
def csEncrypt (r : Bytes) : Bytes → Bytes := aesEnc (slice r 0 32)
def csDecrypt (r : Bytes) : Bytes → Bytes := aesInv (slice r 32 32)

/-- R209: y_out is written only on success. A retired unit ends the command with ST_FN_OFF (R214). -/
def csGhashRow (s : State) (c : CtxId) (k : Word) (rsps : List McRsp) : State :=
  s.engineRow c 3 k opCsGhash fun x => if s.ghashGone then s.cmdResult c 3 k stFnOff 0 else match x.trans with
  | [src, h, yin, yout] => match s.fabFetch x [(0, src), (1, h), (2, yin)] with
    | some u => u
    | none =>
      match s.getRange (.ctx c) x 2 yin rsps with
      | (u, .ok y r1) =>
        (match u.getRange (.ctx c) x 1 h r1 with
         | (v, .ok hb r2) =>
           (match v.getRange (.ctx c) x 0 src r2 with
            | (w, .ok bs r3) =>
              let n := bs.length / 16
              let r := (w.csNote c 0 n).putRange (.ctx c) x 3 yout (ghashFrom hb y (chunks 16 bs)) r3
              s.accessEnd r.1 x r.2
            | (w, g) => s.accessEnd w x (toUnit g))
         | (v, g) => s.accessEnd v x (toUnit g))
      | (u, g) => s.accessEnd u x (toUnit g)
  | _ => s

end State

def execMemFill (c : CtxId) (k : Word) (s : State) : Host.Outcome State Fault Refusal := settled (s.opFill c k)
def execMemCopy (c : CtxId) (k : Word) (rsps : List McRsp) (s : State) : Host.Outcome State Fault Refusal :=
  settled (s.opCopy c k rsps)
def execCsAesEnc (c : CtxId) (k : Word) (rsps : List McRsp) (s : State) : Host.Outcome State Fault Refusal :=
  settled (s.csAes c k opCsEnc State.csEncrypt rsps)
def execCsAesDec (c : CtxId) (k : Word) (rsps : List McRsp) (s : State) : Host.Outcome State Fault Refusal :=
  settled (s.csAes c k opCsDec State.csDecrypt rsps)
def execCsGhash (c : CtxId) (k : Word) (rsps : List McRsp) (s : State) : Host.Outcome State Fault Refusal :=
  settled (s.csGhashRow c k rsps)

end Sys2Proof.Machine
end

