-- ==== Sys2Proof/Machine/Fabric.lean ====
section
/-! DEFINITION. The fabric: accesses and responses at the accelerator (R425 to R429), the ingress checker of the pool (R430
to R434), its table (R435 to R437). -/

namespace Sys2Proof.Machine

/-- Table 14-3. -/
def fabStatus (st : BitVec 4) : Option Status :=
  if st = 0 then some stOk
  else if st = 1 then some stUnmapped
  else if st = 2 then some stRights
  else if st = 3 then some stBusError
  else if st = 4 then some stProtected
  else if st = 5 then some stFragment
  else if st = 6 ∨ st = 7 then some stFabricOp
  else none

/-- Table 14-4. -/
def entValid (e : BitVec 128) : Bool := e.getLsbD 127
def entWrite (e : BitVec 128) : Bool := e.getLsbD 126
def entRead (e : BitVec 128) : Bool := e.getLsbD 125
def entShare (e : BitVec 128) : BitVec 2 := e.extractLsb' 123 2
def entKey (e : BitVec 128) : KeyIdx := e.extractLsb' 119 4
def entVd (e : BitVec 128) : VdId := e.extractLsb' 113 6
def entMember (e : BitVec 128) : Member := e.extractLsb' 93 20
def entPage (e : BitVec 128) : BitVec 22 := e.extractLsb' 0 22

namespace State

/-! ### At the accelerator -/

/-- An access of an engine acting for a context to a fabric object (R425 to R428). An atomic is refused, and nothing is
sent. -/
def opAccess (s : State) (c : CtxId) (va : BitVec 64) (write : Bool) (mask : BitVec 64) (data : Line) (atomic : Bool) :
    State :=
  let done (s : State) (line : BitVec 36) (st : Status) : State := s.out (.fabDone c line st none)
  if !s.running || s.poolRole || (s.ctx c).phase != .active then s
  else match s.findObj c va.toNat with
  | none => done s 0 stUnmapped
  | some (_, o) =>
    let a := o.target + (va - o.va)
    let line : BitVec 36 := (a >>> 6).setWidth 36
    if !o.fabric then done s line stUnmapped
    else if atomic then done s line stFabricOp
    else if !rightOk o.rights write then done s line stRights
    else if o.taint then done s line stTainted
    else
      match s.fabIssue o.links { line := line, write := write, mask := mask, data := data, ctx := c,
                                 vd := ((s.ctx c).vd).getD 0, owner := .access } with
      | (u, none) => u
      | (u, some st) => done u line st

/-- The op a request is answered with. -/
def answers (o : FabOut) (op : Byte) : Bool := op == (if o.write then fabWriteAck else fabReadResp)

/-- A response record of a Confirmed group (R428). A response of the other kind than its request is a stray (DEDUCED, log
entry 34). -/
def opResponse (s : State) (l : LinkId) (r : FabRec) : State :=
  let k := s.link l
  if !s.running || s.poolRole || k.core.phase != .agreed then s
  else match k.fabOut.find? (fun o => o.tag == r.tag && answers o r.op), fabStatus r.status with
  | some o, some st =>
    let s := s.setLink l { k with fabOut := k.fabOut.filter fun x => x.tag != r.tag }
    (s.fabEnd o st (if o.write then none else some r.data)).fabPump l
  | _, _ => s.setLink l { k with fabStray := satInc k.fabStray }

/-! ### At the pool -/

/-- R430. -/
def entUsable (s : State) (d : Slot) (e : BitVec 128) : Bool :=
  entValid e && entShare e != 3 && e.extractLsb' 22 71 == 0 && entKey e != 0 &&
    (s.memIdx (entKey e)).assigned && (s.memIdx (entKey e)).slot == d

def cacheKey (d : Slot) (page : Nat) : Nat := d.toNat * 2 ^ 22 + page

/-- What the checker finds for a record (R431): a status, a miss of the table line, or the access to make. -/
inductive FabEnd where
  | answer (st : BitVec 4)
  | unusable
  | miss
  | access (d : Dpa) (key : KeyIdx)
  deriving DecidableEq, Repr

/-- The normative check (R431). -/
def fabCheck (s : State) (w : FabRecWait) : FabEnd :=
  let r := w.record
  let page := fabPage r.line
  if 0x10 ≤ r.op.toNat ∧ r.op.toNat ≤ 0x1F then .answer 6
  else if (r.op ≠ fabRead ∧ r.op ≠ fabWrite) ∨ r.status ≠ 0 then .answer 7
  else if (if r.op = fabWrite then r.mask == 0 else r.mask != 0) then .answer 7
  else if (s.dom w.slot).tblPages.toNat ≤ page then .answer 1
  else match Tab.get none s.fab.cache (cacheKey w.slot page) with
  | none => .miss
  | some e =>
    if !s.entUsable w.slot e then (if entValid e then .unusable else .answer 1)
    else if entShare e = 0 ∧ (w.sender ≠ entMember e ∨ w.vd ≠ entVd e) then .answer 2
    else if entShare e = 1 ∧ w.sender ≠ entMember e then .answer 2
    else if !(if r.op = fabRead then entRead e else entWrite e) then .answer 2
    else if r.op = fabWrite ∧ s.isFragment w.slot then .answer 5
    else .access (entPage e ++ r.line.setWidth 15 ++ (0 : BitVec 6) : BitVec 43) (entKey e)

/-- A record leaves the checker. -/
def fabDrop (s : State) (w : FabRecWait) : State := { s with fab.queue := s.fab.queue.erase w }

/-- Answer a record that goes no further. -/
def fabAnswer (s : State) (w : FabRecWait) (st : BitVec 4) (data : Line) : State := (s.fabDrop w).fabRespond w st data

/-- A record waits: behind a miss of its table line, or for room among the 64 misses (R433). -/
def fabStuck (s : State) (w : FabRecWait) : Bool :=
  s.fab.misses.contains (w.slot, fabTblLine w.record.line) || (decide (64 ≤ s.fab.misses.length) && s.fabCheck w == .miss)

/-- The first record in ingress order that neither waits so nor stands behind an earlier record of its line. -/
def fabNext (stuck : FabRecWait → Bool) : List FabRecWait → List FabRecWait → Option FabRecWait
  | _, [] => none
  | before, w :: t =>
    if stuck w || before.any (fun b => b.slot == w.slot && b.record.line == w.record.line) then fabNext stuck (before ++ [w]) t
    else some w

/-- Groups held for want of room enter the queue in the order of their Confirms. -/
def fabHeldPump : Nat → State → State
  | 0, s => s
  | n + 1, s =>
    if s.fabFull then s
    else
      let hs := s.links.flatMap fun e => (e.2.io.held.filter fun h => hdrKind h.header == kindFabric).map fun h =>
        ((BitVec.ofNat 6 e.1 : LinkId), h)
      match hs with
      | [] => s
      | a :: t =>
        let x := t.foldl (fun m y => if y.2.stamp < m.2.stamp then y else m) a
        let s := s.modLink x.1 fun k => { k with io := { k.io with held := k.io.held.erase x.2 } }
        fabHeldPump n (s.fabTakeGroup x.1 x.2)

/-- The checker decides one record, or finds that its table line must be read (R431 to R433). A WRITE that its memory
cluster has accepted leaves the checker; it is acknowledged once the controller has answered (R432). -/
def opRequest (s : State) (rsp : McRsp) : State :=
  if !s.running || !s.poolRole then s
  else match fabNext s.fabStuck [] s.fab.queue with
  | none =>
    if s.fab.queue.any fun w => s.fabStuck w && !s.fab.misses.contains (w.slot, fabTblLine w.record.line) then s.fabEvent 4 else s
  | some w => match s.fabCheck w with
    | .answer st => fabHeldPump 64 (s.fabAnswer w st 0)
    | .unusable =>
      let f := s.fab
      fabHeldPump 64 (({ s with fab := { f with entryBad := satInc f.entryBad } }).fabAnswer w 1 0)
    | .miss =>
      let ms := s.fab.misses ++ [(w.slot, fabTblLine w.record.line)]
      { s with fab.misses := ms }
    | .access d key =>
      if w.record.op = fabWrite then
        match s.memPut { master := .fabric w.slot, key := key, dpa := d, write := some (w.record.mask, w.record.data),
                         atomic := false, refs := [], tag := some (.fab w) } with
        | (u, some st) => fabHeldPump 64 (u.fabAnswer w (fabMemStatus st) 0)
        | (u, none) => fabHeldPump 64 (u.fabDrop w)
      else
        match s.readNow (.fabric w.slot) key d rsp with
        | (_, .wait) => s
        | (u, .failed st _) => fabHeldPump 64 (u.fabAnswer w (fabMemStatus st) 0)
        | (u, .done p) => fabHeldPump 64 (u.fabAnswer w 0 p)

/-- The device address of a table line (R430, Table 14-7). -/
def tblDpa (s : State) (d : Slot) (line : Nat) : Dpa :=
  BitVec.ofNat 43 ((s.dom d).tblBase.toNat * 2 ^ 11 + 64 * line)

/-- Fill the four entries of a table line; a full cache of 65,536 entries drops its first four (DESIGN CHOICE, log entry
36). -/
def cacheFill (s : State) (d : Slot) (line : Nat) (p : Line) : State :=
  let c := if 65536 ≤ s.fab.cache.length then s.fab.cache.drop 4 else s.fab.cache
  let c := (List.range 4).foldl (fun (c : Tab (Option (BitVec 128))) i =>
    Tab.set none c (cacheKey d (4 * line + i)) (some (p.extractLsb' (128 * i) 128))) c
  { s with fab.cache := c }

/-- A table line arrives (R433, R434). -/
def opTableLine (s : State) (d : Slot) (line : BitVec 19) (rsp : McRsp) : State :=
  if !s.running || !s.poolRole || !s.fab.misses.contains (d, line) then s
  else match s.readNow (.fabric d) (s.dom d).tblKey (s.tblDpa d line.toNat) rsp with
  | (_, .wait) => s
  | (u, r) =>
    let ms := u.fab.misses.filter (· != (d, line))
    let u := { u with fab.misses := ms }
    match r with
    | .done p => fabHeldPump 64 (u.cacheFill d line.toNat p)
    | _ =>
      let ws := u.fab.queue.filter fun w => w.slot == d && fabTblLine w.record.line == line
      fabHeldPump 64 (ws.foldl (fun (s : State) w => s.fabAnswer w 3 0) (u.fabEvent 3))

/-! ### The table (R435 to R437) -/

/-- A page of pool DRAM lies below its channel's KX_MC_LINES. -/
def pageBelow (s : State) (page : BitVec 22) : Bool :=
  let d : Dpa := (page ++ (0 : BitVec 21) : BitVec 43)
  decide ((dpaLine d).toNat + 32768 ≤ (s.chan (dpaChan d)).lines.toNat * 4096)

/-- Write one entry: a partial write of its table line by the trust core; a cached copy is invalidated. -/
def entryWrite (s : State) (d : Slot) (page : Nat) (e : BitVec 128) : State × Status :=
  let k := s.dom d
  let a := s.tblDpa d (page / 4)
  let o := 16 * (page % 4)
  match s.memRefusal .trustCore k.tblKey a true with
  | some (st, u) => (u, st)
  | none =>
    let c := Tab.set none s.fab.cache (cacheKey d page) none
    let s := { s with fab.cache := c }
    (s.memAccept { master := .trustCore, key := k.tblKey, dpa := a, atomic := false, refs := [],
                   write := some (byteMask o 16, bytesLine (zeros o ++ leBytes 16 e.toNat)) }, stOk)

/-- R435. -/
def fabMapDo (s : State) (d : Slot) (page : BitVec 32) (e : BitVec 128) : State × Status :=
  if !s.poolRole then (s, stRoleMismatch)
  else if (s.dom d).tblPages.toNat ≤ page.toNat then (s, stLengthRange)
  else if !s.entUsable d e then (s, stKeyScope)
  else if !s.pageBelow (entPage e) then (s, stLengthRange)
  else s.entryWrite d page.toNat e

/-- R436. -/
def fabUnmapDo (s : State) (d : Slot) (page : BitVec 32) : State × Status :=
  if !s.poolRole then (s, stRoleMismatch)
  else if (s.dom d).tblPages.toNat ≤ page.toNat then (s, stLengthRange)
  else s.entryWrite d page.toNat 0

/-- The trust core sets a slot's table registers; what the cache held of the slot goes (R437). -/
def opTblSetup (s : State) (d : Slot) (base : Word) (key : KeyIdx) (pages : BitVec 22) : State :=
  if !s.running || !s.poolRole || decide (2 ^ 21 < pages.toNat) then s
  else (s.freeFabric d).modDom d fun k => { k with tblBase := base, tblKey := key, tblPages := pages }

end State

def execFabricRequest (rsp : McRsp) (s : State) : Host.Outcome State Fault Refusal := settled (s.opRequest rsp)
def execFabricTableLineRead (slot : Slot) (line : BitVec 19) (rsp : McRsp) (s : State) : Host.Outcome State Fault Refusal :=
  settled (s.opTableLine slot line rsp)
def execFabricAccess (c : CtxId) (va : BitVec 64) (write : Bool) (mask : BitVec 64) (data : Line) (atomic : Bool)
    (s : State) : Host.Outcome State Fault Refusal := .next (s.opAccess c va write mask data atomic)
def execFabricResponse (l : LinkId) (r : FabRec) (s : State) : Host.Outcome State Fault Refusal := settled (s.opResponse l r)
def execFabMap (h : MbxHdr) (slot : Slot) (page : BitVec 32) (entry : BitVec 128) (s : State) :
    Host.Outcome State Fault Refusal := settled (s.mbxPf h 0x0040 24 fun u => u.fabMapDo slot page entry)
def execFabUnmap (h : MbxHdr) (slot : Slot) (page : BitVec 32) (s : State) : Host.Outcome State Fault Refusal :=
  settled (s.mbxPf h 0x0041 8 fun u => u.fabUnmapDo slot page)
def execFabricTableSetup (slot : Slot) (base : Word) (key : KeyIdx) (pages : BitVec 22) (s : State) :
    Host.Outcome State Fault Refusal := .next (s.opTblSetup slot base key pages)

end Sys2Proof.Machine
end

