-- ==== Sys2Proof/Machine/FrontEnd.lean ====
section
/-! DEFINITION. The commands of the front end: ring pointers, fetch, the arbiter, completion, CANCEL, contexts and
objects. -/

namespace Sys2Proof.Machine

namespace State

/-- The front end of a function's window answers: the register port, the window's enable (R94, R95). -/
def windowOn (s : State) (f : Fn) : Bool := s.running && s.portOn portReg && s.fnOn f

/-- R442. -/
def opSqTail (s : State) (f : Fn) (loc : BitVec 6) (q : BitVec 3) (tail : Word) : State :=
  if s.windowOn f && decide (q.toNat < 5) then s.sqTail f loc q tail else s

/-- R443. -/
def opCqHead (s : State) (f : Fn) (loc : BitVec 6) (head : Word) : State :=
  if s.windowOn f then s.cqHead f loc head else s

/-- A command with an outcome is DONE: its record, and what its end releases (R445, R462, R463, R484, R498). A failed write
of the record changes nothing (R620). -/
def opCompletion (s : State) (c : CtxId) (q : BitVec 3) (k : Word) : State :=
  match s.findCmd c q k with
  | none => s
  | some x => match x.result with
    | none => s
    | some (st, detail) =>
      let f := (s.ctx c).fn
      let s := s.busyNote c
      let cs := s.fe.cmds.filter fun y => !cmdIs c q k y
      let s := { s with fe.cmds := cs }.dmaGoneIf (dmaMine x)
      let s := (s.taintClear x st).csMeter x st
      let s := s.recDone c { cookie := x.cookie, status := st, queue := q, detail := detail, irq := x.irq,
                             opcode := x.opcode, layer := x.layer, operator := x.operator }
      ((s.stgRoll f).objSettle).drainCheck f

/-- A context takes part in a replay sequence that has not reached or ended it (R530). -/
def replayHolds (s : State) (c : CtxId) : Bool := s.flt.replays.any fun r => r.suspects.contains c || r.rest.contains c

/-- R458, R530. -/
def rearmCtx (s : State) (c : CtxId) : State :=
  let k := s.ctx c
  if k.phase = .faulted ∧ k.cause ≠ causeStallGuilty ∧ !s.replayHolds c then s.setCtx c { k with phase := .active } else s

def opRearm (s : State) (f : Fn) (loc : BitVec 6) : State :=
  if s.windowOn f then
    match s.ctxAt f loc with
    | some c => s.rearmCtx c
    | none => s
  else s

/-- Table 15-5's effect on a command that has been fetched. A RUNNING PROG_GO's open iteration faults with PROG_CANCEL. -/
def cancelCmd (s : State) (y : Cmd) : State :=
  if y.phase ≠ .running then
    (s.modCmd y.ctx y.queue y.k fun z => { z with blocks := 0 }).cmdResult y.ctx y.queue y.k stCancelled 0
  else
    let s := s.modCmd y.ctx y.queue y.k fun z => { z with cancel := true }
    let p : ProgId := byteAt y.body 0
    let n := leAt y.body 4 4
    if y.opcode == opProgGo && (match s.iterOf p n with
        | some it => (match it.go with
          | some g => g.ctx == y.ctx && g.k == y.k
          | none => false)
        | none => false) then s.faultIter p n progCancel stCancelled true
    else s

/-- R455. -/
def opCancel1 (s : State) (c : CtxId) (k : Word) : State :=
  match s.runningCmd c 0 k opCancel with
  | none => s
  | some x =>
    let qb := byteAt x.body 0
    let q : BitVec 3 := qb.setWidth 3
    let idx : Word := leBv 32 (slice x.body 4 4)
    if qb = 0 ∨ 4 < qb.toNat then s.cmdResult c 0 k stNoTarget 0
    else match s.findCmd c q idx with
    | some y =>
      if y.result.isSome then s.cmdResult c 0 k stNoTarget 0 else (s.cancelCmd y).cmdResult c 0 k stOk 0
    | none =>
      let r := Tab.get ({} : Ring) (s.ctx c).sq q.toNat
      if (idx - r.head).toNat < (r.tail - r.head).toNat then
        (s.modCtx c fun z => if z.cancelled.contains (q, idx) then z else { z with cancelled := z.cancelled ++ [(q, idx)] }).cmdResult
          c 0 k stOk 0
      else s.cmdResult c 0 k stNoTarget 0

/-- R456, R457. -/
def opCreate (s : State) (c : CtxId) (k : Word) : State :=
  match s.runningCmd c 0 k opCtxCreate with
  | none => s
  | some x => match s.createCheck x.body with
    | some st => s.cmdResult c 0 k st 0
    | none => (s.createCtx x.body).cmdResult c 0 k stOk 0

/-- R458. -/
def opDestroy (s : State) (c : CtxId) (k : Word) : State :=
  match s.runningCmd c 0 k opCtxDestroy with
  | none => s
  | some x =>
    let t : CtxId := leBv 10 (slice x.body 0 2)
    if t = 0 then s.cmdResult c 0 k stRights 0
    else if (s.ctx t).phase = .free then s.cmdResult c 0 k stNoTarget 0
    else (s.destroyCtx t).cmdResult c 0 k stOk 0

/-- R459, R460. -/
def opMap (s : State) (c : CtxId) (k : Word) : State :=
  match s.runningCmd c 0 k opObjMap with
  | none => s
  | some x => match s.objMapCheck c x.body with
    | some st => s.cmdResult c 0 k st 0
    | none => s.objMapDo c 0 k x.body

/-- R462. The object stops translating at once; the command ends when no RUNNING command names it. -/
def opUnmap (s : State) (c : CtxId) (k : Word) : State :=
  match s.runningCmd c 0 k opObjUnmap with
  | none => s
  | some x =>
    if !x.trans.isEmpty then s.objSettle
    else
      let h : Word := leBv 32 (slice x.body 0 4)
      let n := (h.extractLsb' 0 12).toNat
      let o := s.obj c n
      if h.extractLsb' 22 10 ≠ c ∨ !o.live ∨ h.extractLsb' 12 10 ≠ o.reuse then s.cmdResult c 0 k stUnmapped 0
      else
        let t := s.transOf c n o { va := o.va.toNat, len := o.size.toNat, write := false }
        ((s.unmapObj c n).modCmd c 0 k fun z => if z.opcode = opObjUnmap then { z with trans := [t] } else z).objSettle

/-- R464. -/
def opNop1 (s : State) (c : CtxId) (k : Word) : State :=
  match s.runningCmd c 0 k opNop with
  | none => s
  | some _ => s.cmdResult c 0 k stOk 0

end State

def execSqTailWrite (f : Fn) (loc : BitVec 6) (q : BitVec 3) (tail : Word) (s : State) : Host.Outcome State Fault Refusal :=
  .next (s.opSqTail f loc q tail)
def execCqHeadWrite (f : Fn) (loc : BitVec 6) (head : Word) (s : State) : Host.Outcome State Fault Refusal :=
  .next (s.opCqHead f loc head)
def execDescriptorFetch (c : CtxId) (q : BitVec 3) (d : DmaData) (s : State) : Host.Outcome State Fault Refusal :=
  .next (s.fetchOne c q d)
def execArbitrationEpoch (s : State) : Host.Outcome State Fault Refusal := .next s.epoch
def execBucketRefill (s : State) : Host.Outcome State Fault Refusal := .next s.refill
def execCommandCompletion (c : CtxId) (q : BitVec 3) (k : Word) (_writeOk : Bool) (s : State) :
    Host.Outcome State Fault Refusal := .next (s.opCompletion c q k)
def execCtxRearm (f : Fn) (loc : BitVec 6) (s : State) : Host.Outcome State Fault Refusal := .next (s.opRearm f loc)
def execCancel (c : CtxId) (k : Word) (s : State) : Host.Outcome State Fault Refusal := settled (s.opCancel1 c k)
def execCtxCreate (c : CtxId) (k : Word) (s : State) : Host.Outcome State Fault Refusal := .next (s.opCreate c k)
def execCtxDestroy (c : CtxId) (k : Word) (s : State) : Host.Outcome State Fault Refusal := settled (s.opDestroy c k)
def execObjMap (c : CtxId) (k : Word) (s : State) : Host.Outcome State Fault Refusal := .next (s.opMap c k)
def execObjUnmap (c : CtxId) (k : Word) (s : State) : Host.Outcome State Fault Refusal := .next (s.opUnmap c k)
def execNop (c : CtxId) (k : Word) (s : State) : Host.Outcome State Fault Refusal := .next (s.opNop1 c k)

end Sys2Proof.Machine
end

