-- ==== Sys2Proof/Machine/Faults.lean ====
section
/-! DEFINITION. Progress, stalls and suspect replay (R523 to R531), requested resets and their watchdogs (R535, R538), faults
of the trust core and of SRAM (R540, R562). -/

namespace Sys2Proof.Machine

namespace State

/-! ### Progress (Table 18-1) -/

/-- TC0 work of a link that only needs the wire (R525). -/
def tc0Pending (s : State) (l : LinkId) : Bool :=
  (s.link l).core.phase == .agreed && !(s.link l).tc0.queue.isEmpty && decide (0 < s.txCredit l 0)

/-- A throttle is in force on an engine's pending work (R525): never on the trust core or the TC0 path (R80). -/
def throttled (s : State) (e : Nat) : Bool :=
  e != engTrust && !(decide (32 ≤ e) && decide (e < 96) && s.tc0Pending (engLinkOf e)) &&
    s.issueRate (if e < 32 then .mem else if e < 97 then .link else .svc) != 16

/-- The group can start but for the wire: its gate is open, a credit is held, its class is not stopped by a Tense change, its
Verdicts have come (R525). -/
def txReadyItem (s : State) (l : LinkId) (x : TxItem) : Bool :=
  let k := s.link l
  !(k.tc0.gates.any fun g => g.classes.getLsbD x.cls.toNat) && decide (0 < s.txCredit l x.cls) &&
    !(Tab.get {} k.tenseTx x.cls.toNat).stopped && (s.liveRefs x.refs).isEmpty

/-- A group in a link cluster's buffers that no other rule than the cluster's own delays: one before its Verdict, a delivery that
is not taken yet, a group that can go out (Table 18-1, R525). -/
def linkPending (s : State) (l : LinkId) : Bool :=
  let k := s.link l
  k.core.phase == .agreed &&
    (!k.io.flight.isEmpty || k.io.held.any (fun g => hdrDest g.header == destDeliver) || k.io.txq.any (s.txReadyItem l) ||
      s.tc0Pending l)

/-- A tile with all its contributions that is not emitted. -/
def tileWaits (s : State) : Bool :=
  s.red.progs.any fun e => match e.2.desc with
    | none => false
    | some d => e.2.iters.any fun it => d.stages.zipIdx.any fun x =>
        (Tab.get {} it.stages x.2).tiles.any fun t => t.2.added == x.1.sources && x.1.sources != 0 && !t.2.emitted

/-- An STG_REKEY whose direction rolls (R484). -/
def rollingCmd (s : State) (x : Cmd) : Bool :=
  let z := s.sessOf (s.ctx x.ctx).fn
  let mine (r : Option Rekey) : Bool := match r with
    | some r => r.ctx == x.ctx && r.k == x.k
    | none => false
  x.opcode == opStgRekey && (mine z.rekeyIn || mine z.rekeyOut)

/-- Pending work of an engine that is no wait of R525. A suspect under replay is work of its engine. -/
def pendingWork (s : State) (e : Nat) : Bool :=
  if e < 32 then
    (s.mem.out.any fun q => q.ch == engChan e && !q.discard) ||
      s.mem.waits.any fun w => dpaChan w.dpa == engChan e && (s.liveRefs w.refs).isEmpty && (s.fencedOn w.dpa).isEmpty &&
        !s.fenceBlocked w
  else if e < 96 then s.linkPending (engLinkOf e)
  else if e = engRed then
    if s.poolRole then !s.fab.queue.isEmpty
    else s.tileWaits || allLinks.any fun l => (s.link l).io.held.any fun g => hdrDest g.header == destReduce
  else if e = engTrust then
    (allFns.any fun f => (s.func f).mbx.busy) ||
      s.fe.cmds.any fun x => x.phase == .running && classOf x.opcode == 0 && x.result.isNone && !s.rollingCmd x
  else if e = engArbiter then
    s.fe.cmds.any fun x => x.phase == .ready && x.result.isNone && !s.cqBlocks x.ctx &&
      s.bucketOk (s.ctx x.ctx).fn x.queue
  else (s.eng e).replaying || s.fe.cmds.any fun x =>
    x.phase == .running && x.result.isNone && engineOfClass (classOf x.opcode) == e && !s.cqBlocks x.ctx

/-- One sample of one engine (R524, R525). -/
def sampleEngine (s : State) (e : Nat) : State :=
  let idle := s.pendingWork e && (s.eng e).progress == (s.eng e).sampled && !s.throttled e
  s.modEng e fun g => { g with idleRun := if idle then satInc g.idleRun else 0, sampled := g.progress }

def opSample (s : State) : State := if s.running then (List.range 102).foldl sampleEngine s else s

/-! ### Stalls -/

/-- An unattributed stall: the third within 1 s is a Full Stop (R531). -/
def unattributed (s : State) (e : Nat) (role : Option (BitVec 1)) : State :=
  let ts := (s.now :: (s.eng e).unattributed.filter fun t => decide ((s.now - t).toNat ≤ 1000000000)).take 3
  let s := s.modEng e fun g => { g with unattributed := ts }
  if ts.length = 3 then s.fullStop causeEngineStall false role else s

/-- A command in its place among commands that started earlier or at the same time. -/
def startedInsert (c : Cmd) : List Cmd → List Cmd
  | [] => [c]
  | x :: rest => if x.started ≤ c.started then x :: startedInsert c rest else c :: x :: rest

/-- The suspects of an engine with replay: the contexts of its RUNNING commands, those that started earliest first (R527). -/
def suspectsOf (s : State) (e : Nat) : List CtxId :=
  let xs := s.fe.cmds.filter fun x => x.phase == .running && engineOfClass (classOf x.opcode) == e &&
    (s.ctx x.ctx).phase == .active
  ((xs.foldl (fun l c => startedInsert c l) []).map (·.ctx)).eraseDups

def hasReplay (e : Nat) : Bool := e == engStaging || e == engCrypto || e == engFill

/-- The STALL record: of an engine without replay at the stall, of one with replay at the end of its sequence, with the verdict
(DEDUCED, log entry 47). -/
def stallTrace (s : State) (e verdict : Nat) : State := s.trace 0x04 none none 0 0 (leBytes 1 e ++ leBytes 1 verdict)

/-- The RUNNING commands of the suspects on an engine, for the replay store (Table 18-2, step 1). -/
def storeOf (s : State) (e : EngineId) (sus : List CtxId) : List (EngineId × Cmd) :=
  (s.fe.cmds.filter fun x => x.phase == .running && engineOfClass (classOf x.opcode) == e.toNat && sus.contains x.ctx).map
    fun x => (e, x)

/-- Table 18-2: the copy, Semicolon, then up to 8 suspects in turn. Without a suspect no replay reproduces the stall. -/
def replayStart (s : State) (e : EngineId) (role : Option (BitVec 1)) : State :=
  let sus := s.suspectsOf e.toNat
  let store := s.storeOf e (sus.take 8)
  let own (c : CtxId) : Cause := if c ∈ sus then causeStallSuspect else causeEngineReset
  let s := s.semicolon e.toNat causeStallSuspect false own
  if sus.isEmpty then (s.stallTrace e.toNat 0).unattributed e.toNat role
  else
    let run : ReplayRun := { engine := e, suspects := sus.take 8, rest := sus.drop 8, guilty := false }
    ({ s with flt := { s.flt with replays := s.flt.replays ++ [run] }, fe.replayStore := s.fe.replayStore ++ store }).modEng
      e.toNat fun g => { g with replaying := true }

/-- A stall is declared, once stall_samples samples are idle (R524, R526). -/
def stall (s : State) (e : EngineId) (role : Option (BitVec 1)) : State :=
  let n := e.toNat
  if !s.running || (s.eng n).replaying || decide ((s.eng n).idleRun < s.flt.stallSamples) then s
  else
    let s := (s.modEng n fun g => { g with stallCount := satInc g.stallCount, stalled := true, idleRun := 0 }).fltEvent fevStall
    let s := if hasReplay n then s else s.stallTrace n 0
    if n = engArbiter then s.fullStop causeArbiterStall false role
    else if n < 32 && s.mem.out.any (fun q => q.ch == engChan n && !q.discard) then
      (s.record causeMcNoResponse n).semicolon n causeMcNoResponse false fun _ => causeStallSuspect
    else if hasReplay n then s.replayStart e role
    else (s.semicolon n causeEngineStall false fun _ => causeStallSuspect).unattributed n role

/-! ### Replays (R528 to R530) -/

/-- A copied command from its start. -/
def dryCopy (x : Cmd) : Cmd :=
  { x with phase := .running, result := none, cancel := false, issued := false, asked := false, csKey := none }

/-- The row of a copied command in a state of its own, with the answers it meets. -/
def dryRow (s : State) (x : Cmd) (a : DryAnswers) : State :=
  let u := { s with fe.cmds := [dryCopy x] }
  if x.opcode = opMemFill then u.opFill x.ctx x.k
  else if x.opcode = opMemCopy then u.opCopy x.ctx x.k a.rsps
  else if x.opcode = opCsEnc then u.csAes x.ctx x.k opCsEnc csEncrypt a.rsps
  else if x.opcode = opCsDec then u.csAes x.ctx x.k opCsDec csDecrypt a.rsps
  else if x.opcode = opCsGhash then u.csGhashRow x.ctx x.k a.rsps
  else if x.opcode = opStgIn then (u.stgAsk (dryCopy x)).opIn x.ctx x.k a.host a.rsps
  else if x.opcode = opStgOut then u.opOut x.ctx x.k a.rsps
  else u

/-- A request of a replay that reads an input. -/
def isRead : PortOut → Bool
  | .mcReq _ _ _ write .. => !write
  | .hdRead .. => true
  | _ => false

/-- What a dry run leaves: the reads of its inputs went out, the uses of the staging keys count (R171), its free values are drawn,
its engine made progress; every output is dropped (R529). -/
def dryKeep (s u : State) (x : Cmd) : State :=
  let reads := (u.outs.take (u.outs.length - s.outs.length)).filter isRead
  let r := rowStage (s.ctx x.ctx).fn (if x.opcode = opStgIn then 0 else 1)
  let o := s.row r
  let s := if (x.opcode = opStgIn ∨ x.opcode = opStgOut) ∧ o.valid then s.setRow r { o with use := (u.row r).use } else s
  ({ s with outs := reads ++ s.outs, freeCtr := u.freeCtr }).progress (engineOfClass (classOf x.opcode))

/-- The copied commands of the suspect under test, each in turn with its answers. -/
def dryRuns : List Cmd → List DryAnswers → State → State
  | [], _, s => s
  | _, [], s => s
  | x :: xs, a :: as, s => dryRuns xs as (s.dryKeep (s.dryRow x a) x)

/-- Replay a suspect: dry, alone on the engine (R529). -/
def dryReplay (s : State) (e : EngineId) (c : CtxId) (answers : List DryAnswers) : State :=
  let xs := s.fe.replayStore.filter fun y => y.1 == e && y.2.ctx == c
  let s := dryRuns (xs.map (·.2)) answers s
  { s with fe.replayStore := s.fe.replayStore.filter fun y => !(y.1 == e && y.2.ctx == c) }

/-- The replay under test ends; after the last suspect the engine returns to service. -/
def replayNext (s : State) (e : EngineId) (guilty : Bool) (role : Option (BitVec 1)) : State :=
  match s.flt.replays.find? fun r => r.engine == e with
  | none => s
  | some r =>
    let rest := r.suspects.drop 1
    let g := r.guilty || guilty
    let others := s.flt.replays.filter fun x => x.engine != e
    let s := s.modEng e.toNat fun k => { k with idleRun := 0, sampled := k.progress }
    if rest.isEmpty then
      let s := s.stallTrace e.toNat (if g then 1 else 2)
      let s := { s with flt := { s.flt with replays := others } }
      let s := s.modEng e.toNat fun k => { k with replaying := false }
      if g then s else s.unattributed e.toNat role
    else { s with flt := { s.flt with replays := others ++ [{ r with suspects := rest, guilty := g }] } }

/-- The suspect under test on an engine. -/
def underTest (s : State) (e : EngineId) : Option CtxId :=
  (s.flt.replays.find? fun r => r.engine == e).bind fun r => r.suspects.head?

/-- R530, guilty: 16 samples of the replay are idle; the suspect holds STALL_GUILTY, and the engine is reset without
contexts. -/
def replayGuilty (s : State) (e : EngineId) (answers : List DryAnswers) : State :=
  match s.underTest e with
  | none => s
  | some c =>
    if (s.eng e.toNat).idleRun < 16 then s
    else
      let s := (s.dryReplay e c answers).modCtx c fun k => { k with cause := causeStallGuilty }
      let s := (s.modEng e.toNat fun g => { g with guiltyCount := satInc g.guiltyCount }).fltEvent fevGuilty
      (s.semicolonWork e.toNat plainCause).replayNext e true none

/-- R530, cleared: the commands complete, or 48 samples pass with none idle. -/
def replayCleared (s : State) (e : EngineId) (answers : List DryAnswers) : State :=
  match s.underTest e with
  | none => s
  | some c => (s.dryReplay e c answers).replayNext e false none

/-! ### Requested resets (R538) -/

/-- A virtual device exists. -/
def vdExists (s : State) (v : Nat) : Bool := decide (v < 64) && (s.vdev (BitVec.ofNat 6 v)).present

/-- The watchdog of a reset in progress ends: the reset has hung (R535, Table 18-4). -/
def watchdog (s : State) (level : BitVec 3) (target : BitVec 10) (role : Option (BitVec 1)) : State :=
  if s.flt.resets.any fun r => r.level == level && r.target == target then s.escalate level target role else s

/-! ### Faults of the trust core and of SRAM -/

/-- A lockstep mismatch (R540); with the cold spare in use already, grade Black (Table 18-8). -/
def coreMismatch (s : State) (role : Option (BitVec 1)) : State :=
  if !s.running then s
  else if s.flt.health.coldCore then s.blackStop causeCoreMismatch role
  else s.fullStop causeCoreMismatch false role

/-- An uncorrectable error in the meter SRAM begins a new meter run (R562). -/
def newRun (s : State) : State :=
  let n := s.isl.mono + 1
  let s := { s with isl := { s.isl with mono := n }, pwr := { s.pwr with run := n.setWidth 32 } }
  slots.foldl (fun (s : State) d => (s.meterRestart d).modMtr d fun x =>
    { x with heldReports := [], last := 0, boundAny := false }) s

/-- An uncorrectable SRAM error: in the meter SRAM, in an engine's, or in script SRAM or the key store (R540). -/
def sramError (s : State) (e : Option Nat) (meterSram : Bool) (role : Option (BitVec 1)) : State :=
  if !s.running then s
  else if meterSram then s.newRun
  else match e with
  | some n => (s.record causeSramFault n).semicolon n causeSramFault false plainCause
  | none => s.fullStop causeSramFault false role

end State

def execEngineStallSample (s : State) : Host.Outcome State Fault Refusal := .next s.opSample
def execEngineStall (e : EngineId) (roleSel : BitVec 1) (s : State) : Host.Outcome State Fault Refusal :=
  if 101 < e.toNat then .fault (.noSuchEngine e) else settled (s.stall e (some roleSel))
def execReplayGuilty (x : ReplayEnd) (s : State) : Host.Outcome State Fault Refusal :=
  if 101 < x.engine.toNat then .fault (.noSuchEngine x.engine) else settled (s.replayGuilty x.engine x.answers)
def execReplayCleared (x : ReplayEnd) (s : State) : Host.Outcome State Fault Refusal :=
  if 101 < x.engine.toNat then .fault (.noSuchEngine x.engine) else settled (s.replayCleared x.engine x.answers)
def execTrustCoreMismatch (roleSel : BitVec 1) (s : State) : Host.Outcome State Fault Refusal :=
  settled (s.coreMismatch (some roleSel))
def execSramFault (e : Option EngineId) (meterSram : Bool) (roleSel : BitVec 1) (s : State) :
    Host.Outcome State Fault Refusal :=
  match e with
  | some n => if 101 < n.toNat then .fault (.noSuchEngine n) else settled (s.sramError (some n.toNat) meterSram (some roleSel))
  | none => settled (s.sramError none meterSram (some roleSel))
def execResetWatchdogExpiry (level : BitVec 3) (target : BitVec 10) (roleSel : BitVec 1) (s : State) :
    Host.Outcome State Fault Refusal := settled (s.watchdog level target (some roleSel))
end Sys2Proof.Machine
end

