-- ==== Sys2Proof/Machine/Island.lean ====
section
/-! DEFINITION. The always-on island (R571 to R583): tamper latches, re-arm, the battery-backed key, lock, supply and cold
start. -/

namespace Sys2Proof.Machine

namespace State

/-- Write 0 to the battery-backed key (R576). -/
def zeroise (s : State) : State := { s with isl := { s.isl with key := 0, keyState := 2 } }

/-- Island time: the stored block time plus the elapsed count (R573). -/
def islandTime (s : State) : BitVec 64 := s.isl.storedTime + s.isl.elapsed.setWidth 64 * 1000

/-- The inputs among some that latch: enabled and not masked (R574, R575). -/
def latching (s : State) (inputs : BitVec 4) : List (BitVec 2) :=
  ([0, 1, 2, 3] : List (BitVec 2)).filter fun i =>
    inputs.getLsbD i.toNat && (s.tamper i).enable && !(s.tamper i).masked

def porLow (s : State) : Bool := s.sys.phase == .held

/-- The cause record of the first latch (R575). -/
def causeRecord (s : State) (is : List (BitVec 2)) : State :=
  if s.isl.causeValid then s
  else
    let bits := is.foldl (fun (b : BitVec 4) i => setBitTo b i.toNat true) 0
    { s with isl := { s.isl with
        causeValid := true
        causePorLow := s.porLow
        causeOnVbat := s.isl.onVbat
        causeInputs := bits
        stamp := s.islandTime
        stampCnt := s.isl.mono.setWidth 32 } }

/-- Inputs pass their filters in one island step (R575, R576). A re-arm pending on a latching input is ignored (Table 20-5). -/
def opTamper (s : State) (inputs : BitVec 4) : State :=
  let is := s.latching inputs
  if is.isEmpty then s
  else
    let acts := is.map fun i => (s.tamper i).action
    let s := is.foldl (fun (s : State) i =>
      let t := s.tamper i
      s.setTamper i { t with latched := true, masked := true, activeNow := true, count := satInc t.count, armPending := false }) s
    let s := s.causeRecord is
    let s := if s.isl.onVbat || s.porLow || acts.any (fun a => a == 1 || a == 2) then s.zeroise else s
    let s := if s.running && acts.contains 2 then s.forcedExitAll else s
    if s.running then s.trayPost trayTamper else s

/-- The island area answers the PF (R584). -/
def islandOn (s : State) : Bool := s.running && s.portOn portReg && s.areaOn areaIsland

/-- Re-arm of an input that is not latched is ignored (R577). -/
def rearmDo (s : State) (i : BitVec 2) : State :=
  let t := s.tamper i
  if t.latched then s.setTamper i { t with armPending := true } else s

def opRearmInput (s : State) (i : BitVec 2) : State := if s.islandOn then s.rearmDo i else s

/-- The input has been inactive for F (R577). -/
def opRearmRelease (s : State) (i : BitVec 2) : State :=
  let t := s.tamper i
  if t.armPending then s.setTamper i { t with armPending := false, latched := false, masked := false, activeNow := false }
  else s.setTamper i { t with activeNow := false }

/-- R579. -/
def renewDo (s : State) : State :=
  if s.isl.causeValid then s
  else
    let (k, s) := s.draw
    { s with isl := { s.isl with key := k, keyState := 1 } }

def opKeyRenew (s : State) : State := if s.islandOn then s.renewDo else s

def lockDo (s : State) : State := { s with isl := { s.isl with lock := true } }

/-- R582: set by the firmware at step 15, or by the PF. -/
def opLock (s : State) : State := if s.running then s.lockDo else s

def opSupply (s : State) (onVbat : Bool) : State := { s with isl := { s.isl with onVbat := onVbat } }

/-- Every item of Table 20-1 takes its cleared value (R572). -/
def opColdStart (s : State) : State :=
  { s with
    isl := { cold := true, onVbat := s.isl.onVbat }
    flt := { s.flt with stamps := [], countComma := 0, countSemicolon := 0, countColon := 0, countFullStop := 0, last := {} } }

end State

def execTamperLatch (inputs : BitVec 4) (s : State) : Host.Outcome State Fault Refusal := settled (s.opTamper inputs)
def execRearm (i : BitVec 2) (s : State) : Host.Outcome State Fault Refusal := .next (s.opRearmInput i)
def execRearmRelease (i : BitVec 2) (s : State) : Host.Outcome State Fault Refusal := .next (s.opRearmRelease i)
def execKeyRenew (s : State) : Host.Outcome State Fault Refusal := .next s.opKeyRenew
def execLock (s : State) : Host.Outcome State Fault Refusal := .next s.opLock
def execSupplySwitch (onVbat : Bool) (s : State) : Host.Outcome State Fault Refusal := .next (s.opSupply onVbat)
def execIslandColdStart (s : State) : Host.Outcome State Fault Refusal := .next s.opColdStart

end Sys2Proof.Machine
end

