-- ==== Sys2Proof/Machine/Lanes.lean ====
section
/-! DEFINITION. Lanes (R197 to R206, R214) and timing monitors (R101): mismatch, burst, patrol, warnings. -/

namespace Sys2Proof.Machine

def inSpan (now t : Time) (ns : Nat) : Bool := decide ((now - t).toNat ≤ ns)

/-- Lane and spares of a cluster. -/
def lowestLane (m : BitVec 26) : Option Nat := (bitsOf m)[0]?

namespace State

/-! ### Timing monitors -/

def timingTimes (s : State) (r : Region) : List Time :=
  match r with
  | .mem => s.flt.timingMem
  | .link => s.flt.timingLink
  | .svc => s.flt.timingSvc
def setTimingTimes (s : State) (r : Region) (ts : List Time) : State :=
  match r with
  | .mem => { s with flt.timingMem := ts }
  | .link => { s with flt.timingLink := ts }
  | .svc => { s with flt.timingSvc := ts }

def regionNumber (r : Region) : Nat :=
  match r with
  | .mem => 0
  | .link => 1
  | .svc => 2

/-- A timing fault: the third of a region within 1 s is a Full Stop (Table 18-6). -/
def timingFault (s : State) (r : Region) : State :=
  let s := s.record causeTiming (regionNumber r)
  let ts := (s.now :: (s.timingTimes r).filter fun t => inSpan s.now t 1000000000).take 3
  let s := s.setTimingTimes r ts
  if ts.length = 3 then s.fullStop causeTiming false none else s

/-- A monitor warning (R101, R102). -/
def warnRegion (s : State) (r : Region) : State :=
  let c := s.cal r
  let t := s.setCal r { c with warn := true, warnCount := satInc c.warnCount, appliedCode := satInc c.appliedCode }
  if c.appliedCode = 15 then t.timingFault r else t.gradeUpdate

def opMonitor (s : State) (r : Region) : State := if s.running then s.warnRegion r else s

/-! ### Mismatches -/

def regionLanes (s : State) (r : Region) : RegionLanes :=
  match r with
  | .mem => s.lanes.mem
  | .link => s.lanes.link
  | .svc => s.lanes.svc
def setRegionLanes (s : State) (r : Region) (x : RegionLanes) : State :=
  match r with
  | .mem => { s with lanes.mem := x }
  | .link => { s with lanes.link := x }
  | .svc => { s with lanes.svc := x }

/-- A lane leaves service: the lowest spare takes its place and its group, or the active count falls (R197). -/
def laneLeave (c : LaneCluster) (lane : Nat) : LaneCluster × Option Nat :=
  let crypto := c.cryptoGroup.getLsbD lane
  match lowestLane c.spare with
  | some p => ({ c with
      active := setBitTo (setBitTo c.active lane false) p true
      spare := setBitTo c.spare p false
      cryptoGroup := setBitTo c.cryptoGroup p crypto }, some p)
  | none => ({ c with active := setBitTo c.active lane false }, none)

/-- Undo a retirement of the burst's window: the lane becomes a spare, or active again where the count fell (R203). -/
def laneRestore (c : LaneCluster) (x : MismatchRec) : LaneCluster :=
  let i := x.lane.toNat
  let c := { c with retired := setBitTo c.retired i false }
  if x.lowered then { c with active := setBitTo c.active i true }
  else { c with spare := setBitTo c.spare i true, cryptoGroup := setBitTo c.cryptoGroup i false }

/-- The engine whose work goes where a cluster, or the group that held the lane, has no lane left. -/
def emptiedEngine (k : ClusterId) (c : LaneCluster) (lane : Nat) : Option Nat :=
  match k with
  | .mc n => if activeCount c = 0 then some n.toNat else none
  | .lk n => if activeCount c = 0 then some (32 + n.toNat) else none
  | .svc =>
    if c.cryptoGroup.getLsbD lane then (if cryptoCount c = 0 then some engCrypto else none)
    else if stagingCount c = 0 then some engStaging else none

/-- The last lane of a cluster or group is gone: its work is discarded and the exhaustion reported (R197, Table 7-4). -/
def laneEnd (s : State) (k : ClusterId) (c : LaneCluster) (lane : Nat) : State :=
  match emptiedEngine k c lane with
  | some e => (s.semicolonWork e plainCause).record causeLaneExhausted (clusterKey k)
  | none => s

/-- The operations in flight on a lane of a cluster are replayed on its other lanes, each under the key of its record and in its
place of its stream (R199 to R201). The Service Region has none in flight between rows. -/
def laneReplay (s : State) (k : ClusterId) (lane : BitVec 5) : State :=
  let c := s.laneCluster k
  match k with
  | .mc n => { s with mem.out := s.mem.out.map fun q => if q.ch = n then { q with issue := reissue c lane q.issue } else q }
  | .lk n => s.modLink n fun x => { x with io := { x.io with
      flight := x.io.flight.map fun g => { g with issue := reissue c lane g.issue } } }
  | .svc => s

/-- The mismatch of the same arbiter pass whose spare goes to a lower physical lane, where no spare is left (Table 7-4). -/
def spareRival (s : State) (k : ClusterId) (lane : BitVec 5) : Option MismatchRec :=
  if (s.laneCluster k).spare = 0 then
    (s.regionLanes (regionOf k)).recent.find? fun x => x.cluster == k && x.pass == s.fe.passes && x.spareTaken.isSome &&
      decide (lane.toNat < x.lane.toNat)
  else none

/-- A lane leaves service: the spare of a rival, else the lowest spare, takes its place and its group, or the active count falls
(R197, Table 7-4). Answers the cluster, the spare taken and the rival. -/
def laneOut (s : State) (k : ClusterId) (lane : BitVec 5) : LaneCluster × Option (BitVec 5) × Option MismatchRec :=
  let c := s.laneCluster k
  let i := lane.toNat
  match s.spareRival k lane with
  | some x =>
    let p := (x.spareTaken.getD 0).toNat
    ({ c with active := setBitTo c.active i false, cryptoGroup := setBitTo c.cryptoGroup p (c.cryptoGroup.getLsbD i) },
     x.spareTaken, some x)
  | none => ((laneLeave c i).1, (laneLeave c i).2.map (BitVec.ofNat 5), none)

/-- R199: retire the lane, map a spare, replay what was in flight on it. -/
def laneRetire (s : State) (k : ClusterId) (lane : BitVec 5) : State :=
  let (c', sp, rival) := s.laneOut k lane
  let c' := { c' with retired := setBitTo c'.retired lane.toNat true }
  let x : MismatchRec := { time := s.now, pass := s.fe.passes, cluster := k, lane := lane, lowered := sp.isNone, spareTaken := sp }
  let g := s.regionLanes (regionOf k)
  let old := (g.recent.filter fun y => inSpan s.now y.time 1000).map fun y =>
    if some y = rival then { y with lowered := true, spareTaken := none } else y
  let s := (s.setCluster k c').setRegionLanes (regionOf k) { g with recent := old ++ [x] }
  let gone := match rival with
    | some y => y.lane.toNat
    | none => lane.toNat
  let s := s.laneReplay k lane
  (if sp.isNone || rival.isSome then (s.laneEnd k c' gone).sweepsEnd else s).gradeUpdate

/-- A burst (R203): the retirements of the window are reversed, the code rises by 1, LANE_BURST is recorded. -/
def burstStart (s : State) (r : Region) : State :=
  let g := s.regionLanes r
  let recent := g.recent.filter fun y => inSpan s.now y.time 1000
  let s := recent.reverse.foldl (fun (s : State) x => s.setCluster x.cluster (laneRestore (s.laneCluster x.cluster) x)) s
  let s := (allClusters.filter fun k => regionOf k == r).foldl (fun (s : State) k =>
    s.setCluster k { s.laneCluster k with burst := true }) s
  ((s.setRegionLanes r { recent := [], bursting := true, last := s.now }).record recLaneBurst (regionNumber r)).warnRegion r

/-- A lane's output is released: datapath A is the complement of B in all bits, and the checker's own pair is a valid code
(R193). -/
def laneReleases (outA outB : BitVec 128) (codeOk : Bool) : Bool := outA == ~~~outB && codeOk

/-- A comparator mismatch on an active lane (R199, R202, R203); outputs that agree are released and nothing follows (R193). -/
def opMismatch (s : State) (k : ClusterId) (lane : BitVec 5) (outA outB : BitVec 128) (codeOk : Bool) : State :=
  let c := s.laneCluster k
  let r := regionOf k
  let g := s.regionLanes r
  if laneReleases outA outB codeOk || !s.running || !c.active.getLsbD lane.toNat then s
  else
    let s := s.setCluster k { c with mismatch := true, mismatchCount := satInc c.mismatchCount }
    let s := s.setRegionLanes r { g with last := s.now }
    if g.bursting then s
    else if 2 ≤ (g.recent.filter fun y => inSpan s.now y.time 1000).length then s.burstStart r
    else s.laneRetire k lane

/-- R203: the burst ends after 1 µs without a mismatch in its region; its flag in Table 7-12 stays until it is cleared. -/
def opBurstEnd (s : State) (r : Region) : State :=
  let g := s.regionLanes r
  if g.bursting && !inSpan s.now g.last 999 then s.setRegionLanes r { g with recent := [], bursting := false } else s

/-! ### Patrol (R205, R206) -/

/-- The lane to patrol: the lowest active one from the pointer on, else the lowest. -/
def patrolLane (c : LaneCluster) : Option Nat :=
  let ls := bitsOf c.active
  match ls.find? fun i => decide (c.patrolNext.toNat ≤ i) with
  | some i => some i
  | none => ls[0]?

def opPatrol (s : State) (k : ClusterId) (pass : Bool) : State :=
  let c := s.laneCluster k
  if !s.running || !lanesSet c then s
  else if c.spare = 0 then s.setCluster k { c with patrolSkipped := true }
  else match patrolLane c with
  | none => s
  | some i =>
    let c' := { (laneLeave c i).1 with patrolNext := BitVec.ofNat 5 (i + 1) }
    let c' := { c' with cryptoGroup := setBitTo c'.cryptoGroup i false }
    if pass then s.setCluster k { c' with spare := setBitTo c'.spare i true }
    else (s.setCluster k { c' with
      retired := setBitTo c'.retired i true
      patrolFail := true
      patrolFailCount := satInc c'.patrolFailCount }).gradeUpdate

/-! ### The GHASH unit (R214) -/

/-- The command's accumulation starts again at its last chunk; the fourth mismatch within 1 ms retires the unit. -/
def opGhash (s : State) : State :=
  let c := s.laneCluster .svc
  if !s.running || c.ghashRetired then s
  else
    let ts := (s.now :: s.lanes.ghashTimes.filter fun t => inSpan s.now t 1000000).take 4
    let s := { s with lanes.ghashTimes := ts }
    if ts.length = 4 then
      ((s.setCluster .svc { c with ghashRetired := true }).record causeLaneExhausted (clusterKey .svc)).gradeUpdate
    else s

end State

def execLaneMismatch (cl : ClusterId) (x : LaneCheck) (s : State) : Host.Outcome State Fault Refusal :=
  settled (s.opMismatch cl x.lane x.outA x.outB x.codeOk)
def execLaneBurstEnd (r : Region) (s : State) : Host.Outcome State Fault Refusal := .next (s.opBurstEnd r)
def execPatrol (cl : ClusterId) (pass : Bool) (s : State) : Host.Outcome State Fault Refusal := .next (s.opPatrol cl pass)
def execGhashMismatch (s : State) : Host.Outcome State Fault Refusal := .next s.opGhash
def execMonitorWarning (r : Region) (s : State) : Host.Outcome State Fault Refusal := .next (s.opMonitor r)

end Sys2Proof.Machine
end

