-- ==== Sys2Proof/Machine/LifeCycle.lean ====
section
/-! DEFINITION. Debug reopening (R149 to R157) and the life-cycle transitions (R140 to R142). -/

namespace Sys2Proof.Machine

namespace State

/-! ### Debug reopening -/

/-- R149: Production only, from the PF only; a VF receives ST_LC_STATE as in any other case. -/
def challengeDo (s : State) (fn : Fn) : MbxAnswer :=
  if s.lcd.state ≠ 2 ∨ fn ≠ 0 then (s, stLcState, [])
  else
    let (n, s) := s.draw
    let nonce := leBytes 32 n.toNat
    ({ s with lcd.nonce := some nonce }, stOk, nonce ++ s.idDigest)

/-- R152, its five checks. -/
def debugGrantOk (s : State) (nonce : Option Bytes) (g : Bytes) : Bool :=
  g.length == 7536 && leAt g 0 4 == 0x4744584B && leAt g 4 4 == 1 && zeroAt g 88 8 && zeroAt g 2785 15 &&
    slice g 8 48 == s.idDigest && nonce == some (slice g 56 32) &&
    sha384 (slice g 96 2689) == Config.debugAuthority &&
    sigOk (slice g 96 2689) "KX3-DEBUG" (g.take 2800) (g.drop 2800)

/-- Steps 3 and 4 of Table 5-6. Where debug is open already the layer-1 CDI is gone, and its keys stand (DESIGN CHOICE, log
entry 51). -/
def debugKeys (s : State) (dig : Bytes) : State :=
  if !s.keyUsable 2 then s
  else
    let cdi := kdf (s.keyBytes 2 32) "KX3-CDI1-DEBUG" dig 256
    let s := s.keyInvalidateRow 2
    (s.writeKey 3 (leBv 288 cdi) (.row 0) 0 0 0).deriveAlias 3

/-- The grant is accepted: step 1 of Table 5-6 ends and step 2 begins. -/
def unlockAccepted (s : State) (fn : Fn) (g : Bytes) : Bool :=
  s.lcd.state == 2 && fn == 0 && s.lcd.busy.isNone && s.debugGrantOk s.lcd.nonce g

/-- DEBUG_UNLOCK: the nonce is consumed whatever the outcome (R150); the five steps of Table 5-6 in one. While another, or a
transition, is in progress it completes with ST_LC_BUSY (R142, R157). -/
def unlockDo (s : State) (fn : Fn) (g : Bytes) : State × Status :=
  if s.lcd.state ≠ 2 ∨ fn ≠ 0 then (s, stLcState)
  else if s.lcd.busy.isSome then (s, stLcBusy)
  else
    let nonce := s.lcd.nonce
    let s := { s with lcd.nonce := none }
    if !s.debugGrantOk nonce g then
      ({ s with lcd.grantFailed := true, lcd.unlockStep := 1 }, stDebugGrant)
    else
      let s := s.forcedExitAll.debugKeys (sha384 g)
      let s := { s with lcd.debugOpen := true, lcd.unlockStep := 0, lcd.grantFailed := false, boot.grantDigest := sha384 g }
      (s.reissueCert, stOk)

/-- DEBUG_UNLOCK whose step 2 hangs in the first Colon of the forced domain exit: the request stays in progress (R157). -/
def unlockHang (s : State) (fn : Fn) (x : Slot × VdId) : State :=
  let s := s.exitHang x
  let s := { s with lcd.nonce := none, lcd.unlockStep := 2, lcd.busy := some .unlock }
  s.modFunc fn fun k => { k with mbx := { k.mbx with busy := true } }

def opUnlock (s : State) (h : MbxHdr) (g : Bytes) (completes : Bool) : State :=
  match s.mbxEarly h 0x0021 true false none with
  | some t => t
  | none => match s.exitColon with
    | some x =>
      if !completes && s.unlockAccepted h.fn g then s.unlockHang h.fn x
      else let r := s.unlockDo h.fn g; r.1.mbxReply h 0x0021 r.2 []
    | none => let r := s.unlockDo h.fn g; r.1.mbxReply h 0x0021 r.2 []

/-! ### Transitions -/

/-- Table 5-3: the requester is admitted for some transition out of the current state. -/
def lcAdmits (s : State) (jtag : Bool) : Bool :=
  if s.lcd.state = 0 then jtag
  else if s.lcd.state = 1 then true
  else if s.lcd.state = 2 then !jtag
  else false

/-- Table 5-3: the transition exists and its condition holds. -/
def lcCond (s : State) (target : BitVec 2) : Bool :=
  if s.lcd.state = 0 then target == 1
  else if s.lcd.state = 1 then
    target == 3 || (target == 2 && s.dusThere && !zeroAt (s.otpBytes 8 6) 0 48 && !zeroAt (s.otpBytes 32 8) 0 64)
  else if s.lcd.state = 2 then target == 3
  else false

/-- R141: the forced domain exit out of Production, the target segment in both rows, Full Stop. -/
def lcGo (s : State) (target : BitVec 2) (role : Option (BitVec 1)) : State :=
  let s := if s.lcd.state = 2 then s.forcedExitAll else s
  ((s.otpSetBits 0 (lcSegment target)).otpSetBits 1 (lcSegment target)).fullStop causeLcTransition false role

/-- A transition out of Production whose forced domain exit hangs in its first Colon: it stays in progress and has programmed
nothing (R141, R142). -/
def lcHang (s : State) (x : Slot × VdId) : State :=
  let s := s.exitHang x
  { s with lcd.reqStatus := 1, lcd.busy := some .transition }

/-- A transition that its condition lets begin. -/
def lcBegin (s : State) (target : BitVec 2) (completes : Bool) (role : Option (BitVec 1)) : State :=
  match s.exitColon with
  | some x => if !completes && s.lcd.state == 2 then s.lcHang x else s.lcGo target role
  | none => s.lcGo target role

/-- A write of KX_LCD_REQ that its area lets through: none where it is DENIED (R140, R142, Table 5-9). -/
def lcWrite (s : State) (jtag : Bool) (confirm : BitVec 16) (target : BitVec 2) (completes : Bool)
    (role : Option (BitVec 1)) : Option State :=
  if confirm ≠ 0x4C43 ∨ !s.lcAdmits jtag then none
  else if s.lcd.busy.isSome then some { s with lcd.reqStatus := 3 }
  else if !s.lcCond target then some { s with lcd.reqStatus := 2 }
  else some (s.lcBegin target completes role)

/-! ### The factory test modes (R147, R148) -/

/-- What a factory test asks of the memories. -/
inductive TestAccess where
  /-- direct access to an SRAM array, or to the key store's -/
  | array (keyStore : Bool)
  /-- manual control of built-in self-test and of repair; of the key store's self-test -/
  | bist (keyStore : Bool)
  /-- a raw read, or a margin read, of a physical OTP row -/
  | otpRaw (row : Nat)
  | otpMargin (row : Nat)
  deriving DecidableEq, Repr

/-- What it answers: nothing, the array's own contents, an OTP row, or pass or fail alone. -/
inductive TestAnswer where
  | refused
  | granted
  | row (x : BitVec 64)
  | passFail
  | signature (pass : Bool)
  deriving DecidableEq, Repr

/-- The physical rows that hold the device unique secret: rows 4 to 7 and the spares that serve them. -/
def secretRow (s : State) (r : Nat) : Bool := (List.range 4).any fun k => r == 4 + k || r == s.otpPhys (4 + k)

/-- R147, R148: gated by the signal of step 4 alone; the key store's array and the secret's rows stay outside. -/
def factoryTest (s : State) (a : TestAccess) : TestAnswer :=
  if !s.lcd.testGate then .refused
  else match a with
  | .array true => .refused
  | .array false => .granted
  | .bist true => .signature s.boot.keyBistPass
  | .bist false => .granted
  | .otpRaw r => if s.secretRow r then .refused else .row (s.otpRow r)
  | .otpMargin r => if s.secretRow r then .passFail else .row (s.otpRow r)

end State

def execDebugChallenge (h : MbxHdr) (s : State) : Host.Outcome State Fault Refusal :=
  .next (s.mbxRun h 0x0020 true false (some 0) fun u => u.challengeDo h.fn)
def execDebugUnlock (h : MbxHdr) (x : UnlockTry) (s : State) : Host.Outcome State Fault Refusal :=
  settled (s.opUnlock h x.grant x.completes)

end Sys2Proof.Machine
end

