-- ==== Sys2Proof/Machine/Mailbox.lean ====
section
/-! DEFINITION. The mailbox commands of this chapter of the spec: SPDM_MSG (R494, R495), CERT_GET (R475), the Host Agreement
(R476 to R481), reserved codes (R474), FN_OPEN, DRAIN and RETIRE (R496 to R499). -/

namespace Sys2Proof.Machine

namespace State

/-! ### SPDM_MSG and CERT_GET -/

/-- An SPDM ERROR message: version 1.3, code 0x7F, the error code, its data (the numbers of SPDM 1.3, PRESUMED, log
entry 49). -/
def spdmError (code data : Byte) : Bytes := [0x13, 0x7F, code, data]

/-- What the responder's answers show of slot 0: nothing while id_record_ok is 0 (R495). -/
def spdmChain (s : State) : Bytes := if s.boot.idRecordOk then s.boot.deviceRecord ++ s.boot.certPair else []

/-- One request (R494): 0 start, 1 version, 2 capabilities, 3 algorithms. A GET_VERSION starts the negotiation anew. -/
def spdmDo (s : State) (f : Fn) (b : Bytes) : MbxAnswer :=
  let code := byteAt b 1
  let st := (s.func f).spdm
  let to' (n : SpdmState) : MbxAnswer :=
    (s.modFunc f fun k => { k with spdm := n }, stOk, Config.spdmEncode b s.spdmChain)
  let order : MbxAnswer := (s, stOk, spdmError 0x04 0)
  if code = 0x84 then to' 1
  else if code = 0xE1 then (if st = 1 then to' 2 else order)
  else if code = 0xE3 then (if st = 2 then to' 3 else order)
  else if code = 0x81 then (if st = 3 then to' 3 else order)
  else if code = 0x82 then
    (if st ≠ 3 then order else if s.boot.idRecordOk then to' 3 else (s, stOk, spdmError 0x01 0))
  else (s, stOk, spdmError 0x07 code)

/-- The object CERT_GET reads (R475). -/
def certObject (s : State) : Bytes := s.boot.deviceRecord ++ leBytes 2 s.boot.certPair.length ++ s.boot.certPair

def certGetDo (s : State) (offset len : Nat) : MbxAnswer :=
  let o := s.certObject
  if o.length ≤ offset ∨ len = 0 ∨ 65512 < len then (s, stLengthRange, [])
  else (s, stOk, leBytes 4 o.length ++ leBytes 4 s.boot.reissue.toNat ++ slice o offset len)

/-! ### Host Agreement -/

def haHelloLen : Nat := 9177
def haGrantLen : Nat := 7472
def grantVmKeys (g : Bytes) : Bytes := slice g 32 2689

/-- Magic, version and reserved bytes of Table 16-2. -/
def grantForm (g : Bytes) : Bool :=
  g.length == haGrantLen && leAt g 0 4 == 0x4748584B && leAt g 4 2 == 1 && zeroAt g 6 2 && zeroAt g 2721 15

/-- The grant admits this member of the slot's domain in its epoch, under the verifier's keys (R476, R479). -/
def grantAdmits (s : State) (d : Slot) (g : Bytes) : Bool :=
  let k := s.dom d
  slice g 8 16 == s.domainIdOf d && leAt g 28 4 == k.epoch.toNat &&
    (leAt g 24 4 == 0xFFFFFFFF || leAt g 24 4 == k.member.toNat) &&
    sigOk (recVerifierKeys k.record) "KX3-HOST" (g.take 2736) (g.drop 2736)

/-- R479, in the order of its table. A slot number above 7 names no slot, so no member (DESIGN CHOICE, log entry 50). -/
def haRefusal (s : State) (h : MbxHdr) (m : HaHello) : Option Status :=
  let z := s.sessOf h.fn
  let d : Slot := m.slot.setWidth 3
  if h.bodyLen ≠ haHelloLen ∨ !grantForm m.grant then some stReserved
  else if z.opened || z.pend.isSome then some stSlotBusy
  else if 8 ≤ m.slot.toNat then some stKeyOrphan
  else if s.isFragment d then some stFragment
  else if (s.dom d).phase ≠ .member then some stKeyOrphan
  else if !s.grantAdmits d m.grant then some stDomainRecord
  else match s.joinGate with
  | some st => some st
  | none => if !s.aliasUsable || (s.row (rowSss h.fn)).outOfUse then some stKeyOrphan else none

/-- HA_HELLO to HA_REPLY (R477, Table 16-4 step 2). -/
def haHelloDo (s : State) (h : MbxHdr) (m : HaHello) : MbxAnswer :=
  match s.haRefusal h m with
  | some st => (s, st, [])
  | none =>
    let (n, s) := s.draw
    let (e, s) := s.draw
    let (r, s) := s.draw
    let ct := Config.kemEncaps m.kem r
    let core := leBytes 32 n.toNat ++ ct.1 ++ Config.ecdhPublic e ++ leBytes 2 s.boot.certPair.length ++ s.boot.certPair
    let reply := core ++ s.aliasSignMsg "KX3-HOST-R" (sha384 (m.raw ++ core))
    let p : HaPend := {
      sessionId := m.sessionId
      slot := m.slot.setWidth 3
      th := sha384 (m.raw ++ reply)
      ssKem := ct.2
      ssEcdh := Config.ecdhShared e m.ecdh
      vmKeys := grantVmKeys m.grant
      since := s.now }
    (s.modSess h.fn fun z => { z with pend := some p }, stOk, reply)

/-- The session opens: SSS under the slot's member secret, the first staging key of both directions (Table 16-4 step 4). -/
def haOpen (s : State) (f : Fn) (d : Slot) (sss : Bytes) : State :=
  let s := s.modSess f fun _ => { opened := true, slot := d }
  let s := s.writeKey (rowSss f) ((leBv 256 sss).setWidth 288) (.row (BitVec.ofNat 12 (rowMember d))) 0 d 0
  (s.installStageKey f 0 1).installStageKey f 1 1

/-- Step 3 of a Host Agreement: 1 s (R480). -/
def haLimit : Time := 1000000000

/-- HA_FINISH (R480). A slot that holds no member secret any more completes no session (DEDUCED from R166, log entry 50). -/
def haFinishDo (s : State) (f : Fn) (sessionId : BitVec 32) (sigH : Bytes) (kcH : BitVec 128) : MbxAnswer :=
  match (s.sessOf f).pend with
  | none => (s, stFormation, [])
  | some p =>
    let s := s.modSess f fun z => { z with pend := none }
    let sss := hybrid p.ssKem p.ssEcdh p.th "KX3-STAGE-AGREE" ([f] ++ leBytes 4 p.sessionId.toNat)
    if s.now - p.since ≤ haLimit ∧ sessionId = p.sessionId ∧
        sigMsgOk p.vmKeys "KX3-HOST-I" p.th sigH ∧ kcH = confirmTag sss p.th 1 "KX3-HOST-KC" ∧
        s.hasMember p.slot then
      (s.haOpen f p.slot sss, stOk, leBytes 16 (confirmTag sss p.th 2 "KX3-HOST-KC").toNat)
    else (s, stFormation, [])

/-- Step 3 ran past 1 s (R480). -/
def opHaTimeout (s : State) (f : Fn) : State := if s.running then s.modSess f fun z => { z with pend := none } else s

/-- HA_CLOSE (R481). Without a session it changes nothing (DESIGN CHOICE, log entry 50). -/
def haCloseDo (s : State) (f : Fn) : MbxAnswer :=
  (if (s.sessOf f).opened then (s.sessEnd f).memPump else s, stOk, [])

/-! ### Functions (Table 16-9) -/

def fnOpenDo (s : State) (f : Fn) : State × Status :=
  if f = 0 then (s, stRights)
  else if (s.func f).phase = .closed then
    ((s.setEnable (.fn f) true).modFunc f fun k => { k with phase := .opened }, stOk)
  else (s, stCtxBusy)

def drainDo (s : State) (f : Fn) : State × Status :=
  if f = 0 then (s, stRights)
  else if (s.func f).phase = .opened then ((s.modFunc f fun k => { k with phase := .draining }).drainCheck f, stOk)
  else (s, stOk)

def retireDo (s : State) (f : Fn) : State × Status :=
  if f = 0 then (s, stRights)
  else match (s.func f).phase with
    | .drained => (s.retireFn f, stOk)
    | .opened => (s, stCtxBusy)
    | .draining => (s, stCtxBusy)
    | .closed => (s, stOk)

end State

def execSpdmMsg (h : MbxHdr) (body : Bytes) (s : State) : Host.Outcome State Fault Refusal :=
  .next (s.mbxRun h 0x0001 true false none fun u => u.spdmDo h.fn body)
def execCertGet (h : MbxHdr) (offset : BitVec 32) (len : BitVec 32) (s : State) : Host.Outcome State Fault Refusal :=
  .next (s.mbxRun h 0x0002 true false (some 8) fun u => u.certGetDo offset.toNat len.toNat)
def execHaHello (h : MbxHdr) (m : HaHello) (s : State) : Host.Outcome State Fault Refusal :=
  .next (s.mbxRun h 0x0010 true false none fun u => u.haHelloDo h m)
def execHaFinish (h : MbxHdr) (sessionId : BitVec 32) (sigH : Bytes) (kcH : BitVec 128) (s : State) :
    Host.Outcome State Fault Refusal :=
  .next (s.mbxRun h 0x0011 true false (some 4756) fun u => u.haFinishDo h.fn sessionId sigH kcH)
def execHaTimeout (f : Fn) (s : State) : Host.Outcome State Fault Refusal := .next (s.opHaTimeout f)
def execHaClose (h : MbxHdr) (s : State) : Host.Outcome State Fault Refusal :=
  settled (s.mbxRun h 0x0012 true false (some 4) fun u => u.haCloseDo h.fn)
/-- The codes of Table 16-1 that are not reserved. -/
def mbxCodes : List Nat :=
  [0x0001, 0x0002, 0x0010, 0x0011, 0x0012, 0x0020, 0x0021] ++ (List.range 12).map (0x0030 + ·) ++
    [0x0040, 0x0041, 0x0050, 0x0051, 0x0052]

/-- R474; a code of Table 16-1 is no reserved code, and the command is no such request. -/
def execMailboxReservedCode (h : MbxHdr) (code : BitVec 16) (s : State) : Host.Outcome State Fault Refusal :=
  if mbxCodes.contains code.toNat then .next s else .next (s.mbxRun h code false false none fun u => (u, stOpcode, []))
def execFnOpen (h : MbxHdr) (f : Fn) (s : State) : Host.Outcome State Fault Refusal :=
  settled (s.mbxPf h 0x0050 4 fun u => u.fnOpenDo f)
def execDrain (h : MbxHdr) (f : Fn) (s : State) : Host.Outcome State Fault Refusal :=
  .next (s.mbxPf h 0x0051 4 fun u => u.drainDo f)
def execRetire (h : MbxHdr) (f : Fn) (s : State) : Host.Outcome State Fault Refusal :=
  settled (s.mbxPf h 0x0052 4 fun u => u.retireDo f)

end Sys2Proof.Machine
end

