-- ==== Sys2Proof/Machine/Parse.lean ====
section
/-! DEFINITION. The Parse (R371 to R377): JOIN_INVITE, JOIN_REQUEST, JOIN_GRANT, JOIN_REFUSE, JOIN_DONE, its timeout,
PARSE_RESUME, DEPART, HANDDOWN and EPOCH_NOTICE. -/

namespace Sys2Proof.Machine

namespace State

/-! ### At the child -/

/-- The first invite a member with a ticket meets while it is free, or pending after an epoch advance (R371, R136, R155). -/
def inviteTaken (s : State) (d : Slot) (x : Decl) (m : JoinInvite) : Bool :=
  let k := s.dom d
  let again := k.phase == .joining && k.join.isNone && s.domainIdOf d == fitTo 16 m.domainId
  s.domGate.isNone && s.idUsable && s.aliasUsable && !s.slotRowsOut d && m.reservedZero &&
    (k.phase == .free || again) && m.parent == x.partner && m.parentLink == x.link.setWidth 8 &&
    match k.ticket with
    | some t => m.hall == (hallOf t.1).setWidth 8
    | none => false

/-- JOIN_REQUEST with two fresh key pairs (Table 12-9). -/
def opInvite (s : State) (l : LinkId) (m : JoinInvite) : State :=
  match s.agrReady l with
  | none => s
  | some (d, x) =>
    match (s.dom d).ticket with
    | none => s
    | some (me, proof) =>
      if !s.inviteTaken d x m then s
      else
        let (n, s) := s.draw
        let (ka, s) := s.draw
        let (ea, s) := s.draw
        let (kb, s) := s.draw
        let (eb, s) := s.draw
        let nonce := leBytes 32 n.toNat
        let msg := fitTo 16 m.domainId ++ leBytes 4 me.toNat ++ nonce ++ s.idKeys ++ fitTo 816 proof ++
          leBytes 2 s.boot.certPair.length ++ s.boot.certPair ++ Config.kemPublic ka ++ Config.ecdhPublic ea ++
          Config.kemPublic kb ++ Config.ecdhPublic eb
        let s := if (s.dom d).phase = .free then s.meterRestart d else s
        let k := s.dom d
        let join : JoinPend := {
          link := l
          manager := m.manager
          hall := hallOf me
          drDigest := m.drDigest
          kemA := ka
          ecdhA := ea
          kemB := kb
          ecdhB := eb
          nonce := nonce
          request := msg
          granted := false }
        let s := s.setDom d { k with phase := .joining, member := me, domainId := fitTo 16 m.domainId, join := some join }
        ((s.timeMark d).openDomain l d x 0x41 msg).progress engTrust

/-- The child's join ends without membership: a slot that held no membership is free again, with its ticket and
declarations. -/
def abandonJoin (s : State) (d : Slot) : State :=
  let k := s.dom d
  let s := s.setDom d { k with join := none }
  if k.record.isEmpty then
    (s.freeSlot d).modDom d fun x => { x with ticket := k.ticket, decls := k.decls, member := k.member }
  else s

/-- What a child checks of a grant before it unwraps (R373). -/
def grantOk (_s : State) (j : JoinPend) (m : JoinGrant) : Bool :=
  let f := Config.certFacts m.mgrCert
  let identity := sha384 m.mgrIdKeys
  f.valid && f.identity == identity && recordOk m.record && sha384 m.record == j.drDigest &&
    sigMsgOk f.aliasKeys "KX3-JOIN" (sha384 (j.request ++ m.rawCore)) m.sigG &&
    ((recHallCands m.record j.hall.toNat) ++ recSysCands m.record).any fun c => c.1 == m.manager.toNat && c.2 == identity

/-- The grant taken: the slot's secrets, record, epoch, key list and token (Table 12-11, step 6). -/
def grantTake (s : State) (d : Slot) (j : JoinPend) (m : JoinGrant) (member dcs : Bytes) : State :=
  let k := s.dom d
  let cand (h : Nat) : Bool := (recHallCands m.record h).any fun c => c.1 == k.member.toNat && c.2 == s.idDigest
  let s := s.setDom d { k with
    join := some { j with granted := true }
    record := m.record
    epoch := m.epoch
    dcsEpoch := m.epoch
    keyList := m.keyList
    token := m.token
    hallManager := m.manager
    sysManager := if (recSysCands m.record).any (fun c => c.1 == m.manager.toNat) then m.manager else k.sysManager
    hallCand := !s.poolRole && cand (hallOf k.member).toNat
    sysCand := !s.poolRole && (recSysCands m.record).any fun c => c.1 == k.member.toNat && c.2 == s.idDigest
    quorum := BitVec.ofNat 4 (quorumOf (recHallCount m.record))
    hallPulseAt := s.now }
  let s := (s.writeRoot (rowMember d) member d).writeRoot (rowDcs d) dcs d
  ((s.deriveReserved d).reissueCert).agreeDeclared d

/-- A row whose unwrap failed is left invalid (R170). -/
def unwrapFail (s : State) (r : Nat) (key : Option Bytes) : State := if key.isSome then s else s.invalidateKey r

/-- JOIN_GRANT. A wrong tag leaves its row invalid and ends the hand-down with ST_KEY_UNWRAP (R170). -/
def opGrant (s : State) (d : Slot) (m : JoinGrant) : State :=
  let k := s.dom d
  match k.join with
  | none => s
  | some j =>
    if !s.running || j.granted || !s.grantOk j m then s
    else
      let th := sha384 j.request
      let tkA := transportKey (Config.kemDecaps j.kemA m.ctA) (Config.ecdhShared j.ecdhA m.yA) th m.manager k.member 3
      let tkB := transportKey (Config.kemDecaps j.kemB m.ctB) (Config.ecdhShared j.ecdhB m.yB) th m.manager k.member 2
      let a := unwrapKey tkA (s.handAad d 3 k.member s.idDigest m.epoch) m.wrappedMember
      let b := unwrapKey tkB (s.handAad d 2 k.member [] m.epoch) m.wrappedDcs
      match a, b with
      | some x, some y => (s.grantTake d j m x y).progress engTrust
      | a, b => (((s.unwrapFail (rowMember d) a).unwrapFail (rowDcs d) b).abandonJoin d).out (.report d stKeyUnwrap)

/-- JOIN_REFUSE: the join ends. -/
def opRefuse (s : State) (d : Slot) : State :=
  if s.running && ((s.dom d).join.map (·.granted)) == some false then s.abandonJoin d else s

/-! ### At the parent and the Hall Manager -/

def refFormat : Byte := 0x01
def refAdmission : Byte := 0x02
def refCert : Byte := 0x03
def refMeasure : Byte := 0x04
def refState : Byte := 0x05
def refDuplicate : Byte := 0x06
def refFragment : Byte := 0x07

/-- Joins of a hall in progress, but for one member's own. -/
def grantsOf (s : State) (d : Slot) (h : BitVec 3) (m : Member) : Nat :=
  ((s.dom d).mgr.grants.filter fun g => hallOf g.member == h && g.member != m).length

/-- Table 12-10, in its order. A hall whose reached members, with those about to be, already number n_h takes no further one
(R18). -/
def joinCheck (s : State) (d : Slot) (m : JoinRequest) : Option Byte :=
  let k := s.dom d
  let f := Config.certFacts m.cert
  let identity := sha384 m.idKeys
  let me : Member := m.member.setWidth 20
  let h := hallOf me
  let cand := s.isSysCand d me || s.isHallCand d h me
  if !m.lengthsOk ∨ 2 ^ 20 ≤ m.member.toNat ∨ fitTo 16 m.domainId ≠ s.domainIdOf d then some refFormat
  else if !admitted12 k.record me.toNat identity m.proof ∨ recHallSize k.record h.toNat ≤ s.censusCount d h 1 + s.grantsOf d h me ∧
      s.censusOf d me ≠ 1 then some refAdmission
  else if !f.valid ∨ f.identity ≠ identity then some refCert
  else if !measuresOk k.record f then some refMeasure
  else if f.lifeCycle ≠ 2 ∨ f.debugOpen ∨ f.grade = 3 ∨ cand ∧ f.role ≠ 0 then some refState
  else if s.censusOf d me = 1 then some refDuplicate
  else if k.phase = .fragment then some refFragment
  else none

/-- Answer a join on the link it came by where its partner is the child, else by the domain (R361). -/
def joinAnswer (s : State) (d : Slot) (l : LinkId) (child : Member) (type : Byte) (msg : Bytes) : State :=
  match s.declOf l with
  | some (d', x) =>
    if d' = d ∧ x.partner = child ∧ (s.link l).core.phase ≠ .agreed then s.openDomain l d x type msg
    else s.tc0Send d type child 0 0 msg
  | none => s.tc0Send d type child 0 0 msg

/-- The request of a candidate of the record, by its own identity, whose certificate shows pool role (R26, R360). -/
def poolCandidate (s : State) (d : Slot) (m : JoinRequest) : Bool :=
  let f := Config.certFacts m.cert
  let r := (s.dom d).record
  let identity := sha384 m.idKeys
  decide (m.member.toNat < 2 ^ 20) && admitted12 r m.member.toNat identity m.proof && f.valid && f.identity == identity &&
    f.role == 1 && (recSysCands r ++ recHallCands r (m.member.toNat / 2 ^ 17)).any fun c => c.1 == m.member.toNat && c.2 == identity

/-- The grant (Table 12-11, step 4), with the member secret and the DCS it wraps. -/
def grantWith (s : State) (d : Slot) (l : LinkId) (m : JoinRequest) (member dcs : Bytes) : State :=
  let me : Member := m.member.setWidth 20
  let f := Config.certFacts m.cert
  let identity := sha384 m.idKeys
  let th := sha384 m.raw
  let k := s.dom d
  let (n, s) := s.draw
  let (ra, s) := s.draw
  let (ea, s) := s.draw
  let (rb, s) := s.draw
  let (eb, s) := s.draw
  let a := Config.kemEncaps m.ekA ra
  let b := Config.kemEncaps m.ekB rb
  let tkA := transportKey a.2 (Config.ecdhShared ea m.xA) th k.member me 3
  let tkB := transportKey b.2 (Config.ecdhShared eb m.xB) th k.member me 2
  let wa := wrapKey tkA (s.handAad d 3 me identity k.epoch) member
  let wb := wrapKey tkB (s.handAad d 2 me [] k.epoch) dcs
  let token := s.tokenMake d me (leBytes 8 f.boot.toNat) (sha384 f.aliasKeys)
  let core := leBytes 32 n.toNat ++ a.1 ++ Config.ecdhPublic ea ++ b.1 ++ Config.ecdhPublic eb ++ leBytes 4 k.epoch.toNat ++
    wa ++ wb ++ token ++ k.record ++ keysBody k.keyList ++ s.idKeys ++ leBytes 2 s.boot.certPair.length ++ s.boot.certPair
  let grant := core ++ s.aliasSignMsg "KX3-JOIN" (sha384 (m.raw ++ core))
  let s := s.modDom d fun k => { k with mgr := { k.mgr with
    grants := (k.mgr.grants.filter fun g => g.member != me) ++
      [{ member := me, link := l, time := s.now, digest := sha384 f.aliasKeys }] } }
  let s := if s.censusOf d me = 2 then s.censusPut d me 0 else s
  (s.joinAnswer d l me 0x42 grant).progress engTrust

/-- The grant where the rows give the keys it needs; else nothing is granted (R168). -/
def grantSend (s : State) (d : Slot) (l : LinkId) (m : JoinRequest) : State :=
  match s.memberSecret d (m.member.setWidth 20) (sha384 m.idKeys), s.dcsKey d with
  | some a, some b => if s.aliasUsable && s.idUsable then s.grantWith d l m a b else s
  | _, _ => s

/-- A request checked and answered by the hall's manager. A pool-role candidate it refuses is made known to the System Manager
(R360; DEDUCED, log entry 139). -/
def joinServe (s : State) (d : Slot) (l : LinkId) (m : JoinRequest) : State :=
  let me : Member := m.member.setWidth 20
  match s.joinCheck d m with
  | some r =>
    let s := if m.member.toNat < 2 ^ 20 then s.censusPut d me 3 else s
    let s := s.joinAnswer d l me 0x43 [r]
    if s.poolCandidate d m then s.tc0Send d 0x41 (s.dom d).sysManager 0 0 m.raw else s
  | none => s.grantSend d l m

def joinPumpAux (d : Slot) : Nat → State → State
  | 0, s => s
  | n + 1, s => match (s.dom d).mgr.joinQueue with
    | [] => s
    | x :: rest =>
      if 8 ≤ (s.dom d).mgr.grants.length then s
      else joinPumpAux d n ((s.modDom d fun k => { k with mgr := { k.mgr with joinQueue := rest } }).joinServe d x.1 x.2)

/-- Requests that waited, while fewer than 8 joins are carried (R375). -/
def joinPump (s : State) (d : Slot) : State := joinPumpAux d (s.dom d).mgr.joinQueue.length s

/-- JOIN_REQUEST: at the active System Manager that of a pool-role candidate ends the domain, the slot being erased and
ST_DOMAIN_RECORD reported (R26, R360). Else it is relayed by a member that does not lead the hall (R361), and answered by its
manager, 8 joins at once (R375). -/
def opJoinRequest (s : State) (d : Slot) (l : LinkId) (m : JoinRequest) : State :=
  let me : Member := m.member.setWidth 20
  if !s.inDomain d then s
  else if (s.dom d).activeSm && s.poolCandidate d m then
    ((s.joinAnswer d l me 0x43 [refState]).exitTail d).out (.report d stDomainRecord)
  else if !s.leadsHall d (hallOf me) then s.tc0Send d 0x41 (s.managerFor d (hallOf me)) 0 0 m.raw
  else if 8 ≤ (s.dom d).mgr.grants.length then
    s.modDom d fun k => { k with mgr := { k.mgr with joinQueue := k.mgr.joinQueue ++ [(l, m)] } }
  else s.joinServe d l m

/-- What a manager hands a candidate it has reached (R360). -/
def handCandidate (s : State) (d : Slot) (m : Member) : State :=
  let s := if s.isSysCand d m && (s.dom d).activeSm then s.handDown d 0 m else s
  if s.isHallCand d (hallOf m) m then s.handDown d 1 m else s

/-- JOIN_DONE: the entry is REACHED; a candidate enters the key list and receives its function's secret. The census is issued
when the hall's sweep ends (R378). -/
def opJoinDone (s : State) (d : Slot) (m : Member) : State :=
  let k := s.dom d
  if !s.inDomain d then s
  else match k.mgr.grants.find? fun g => g.member == m with
  | none => s
  | some g =>
    let s := s.modDom d fun k => { k with mgr := { k.mgr with
      grants := k.mgr.grants.filter fun g => g.member != m
      departed := k.mgr.departed.filter fun x => x != m } }
    let s := s.censusPut d m 1
    let s := if s.isSysCand d m || s.isHallCand d (hallOf m) m then
        let s := s.handCandidate d m
        (s.modDom d fun k => { k with keyList := keyListPut k.keyList m g.digest }).keysFlood d
      else s
    let s := if s.sweepEnded d (hallOf m) then (s.censusIssue d (hallOf m)).domEvent d domCensusDone else s
    s.joinPump d

/-- A join broken: UNREACHED, a partial census, PARSE_RESUME (R377). -/
def opJoinTimeout (s : State) (d : Slot) (m : Member) : State :=
  if !s.inDomain d ∨ !(s.dom d).mgr.grants.any (fun g => g.member == m) then s
  else
    let s := s.modDom d fun k => { k with mgr := { k.mgr with grants := k.mgr.grants.filter fun g => g.member != m } }
    (((s.censusPut d m 2).censusIssue d (hallOf m)).resumeSend d (hallOf m) [2]).joinPump d

/-- PARSE_RESUME at a reached member. -/
def opParseResume (s : State) (d : Slot) : State :=
  if s.running && (s.dom d).phase == .member then s.inviteAll d else s

/-- DEPART: the entry is OUT (R379); a departed candidate leaves the key list. -/
def opDepart (s : State) (d : Slot) (m : Member) : State :=
  if !s.inDomain d ∨ !s.leadsHall d (hallOf m) then s
  else
    let s := s.censusPut d m 3
    if s.isSysCand d m || s.isHallCand d (hallOf m) m then
      let s := s.modDom d fun k => { k with
        keyList := k.keyList.filter fun e => e.1 != m
        mgr := { k.mgr with departed := (k.mgr.departed.filter fun x => x != m) ++ [m]
                            contacts := Tab.set 0 k.mgr.contacts m.toNat 0 } }
      (((s.keysFlood d).electHall d).electSys d).ackDrop d m fun _ => true
    else s

/-! ### Hand-downs and the epoch -/

/-- A key of a kind enters its row; a member secret brings the reserved indices' secrets (R360, R506). -/
def handTake (s : State) (d : Slot) (kind : BitVec 2) (key : Bytes) (epoch : BitVec 32) : State :=
  let s := s.writeRoot (handRow d kind) key d
  let s := s.modDom d fun k => { k with
    hallEpoch := if kind = 1 then epoch else k.hallEpoch
    dcsEpoch := if kind = 2 then epoch else k.dcsEpoch }
  if kind = 3 then s.deriveReserved d else s

/-- HANDDOWN from a candidate. New secrets may arrive before EPOCH_NOTICE: the unwrap is tried with the slot's epoch, then with
the next one (DEDUCED, log entry 45). A pool-role instance is no candidate (R26). -/
def opHanddown (s : State) (d : Slot) (m : Handdown) : State :=
  let k := s.dom d
  let from' := s.isSysCand d m.sender || s.isHallCand d (hallOf m.sender) m.sender
  let mine := if m.kind = 0 then k.sysCand else if m.kind = 1 then k.hallCand else true
  let held := k.phase == .member || k.phase == .fragment || k.phase == .joining
  if !s.running || !held || !from' || !mine then s
  else
    let sec := Config.handSecret m.transfer.toNat
    let tk := transportKey (Config.kemDecaps (sec 0) m.ct) (Config.ecdhShared (sec 1) m.y) m.th m.sender k.member m.kind
    let tryAt (e : BitVec 32) : Option Bytes := unwrapKey tk (s.handAad d m.kind k.member s.idDigest e) m.wrapped
    match tryAt k.epoch, tryAt (k.epoch + 1) with
    | some key, _ => s.handTake d m.kind key k.epoch
    | none, some key => s.handTake d m.kind key (k.epoch + 1)
    | none, none => (s.invalidateKey (handRow d m.kind)).out (.report d stKeyUnwrap)

/-- EPOCH_NOTICE (R393): the member secret is invalidated, the old epoch's secrets go, and the member is pending again. -/
def opEpochNotice (s : State) (d : Slot) (epoch : BitVec 32) : State :=
  let k := s.dom d
  if !s.inDomain d || decide (epoch ≤ k.epoch) then s
  else
    let s := s.invalidateKey (rowMember d)
    let s := if k.hallEpoch < epoch then s.eraseRow (rowHall d) else s
    let s := if k.dcsEpoch < epoch then s.eraseRow (rowDcs d) else s
    let s := s.modDom d fun k => { k with
      phase := .joining
      epoch := epoch
      token := []
      keyList := []
      activeSm := false
      activeHm := false
      join := none
      rejoinEnds := none
      time := { k.time with synced := false }
      mgr := {} }
    ((s.domEvent d domEpoch).timeMark d).reissueCert

end State

def execEpochNotice (slot : Slot) (epoch : BitVec 32) (s : State) : Host.Outcome State Fault Refusal :=
  settled (s.opEpochNotice slot epoch)
def execJoinInvite (l : LinkId) (m : JoinInvite) (s : State) : Host.Outcome State Fault Refusal := .next (s.opInvite l m)
def execJoinRequest (slot : Slot) (l : LinkId) (m : JoinRequest) (s : State) : Host.Outcome State Fault Refusal :=
  settled (s.opJoinRequest slot l m)
def execJoinGrant (slot : Slot) (m : JoinGrant) (s : State) : Host.Outcome State Fault Refusal := settled (s.opGrant slot m)
def execJoinRefuse (slot : Slot) (_reason : Byte) (s : State) : Host.Outcome State Fault Refusal := settled (s.opRefuse slot)
def execJoinDone (slot : Slot) (member : Member) (s : State) : Host.Outcome State Fault Refusal :=
  .next (s.opJoinDone slot member)
def execJoinDoneTimeout (slot : Slot) (member : Member) (s : State) : Host.Outcome State Fault Refusal :=
  .next (s.opJoinTimeout slot member)
def execParseResume (slot : Slot) (s : State) : Host.Outcome State Fault Refusal := .next (s.opParseResume slot)
def execDepart (slot : Slot) (member : Member) (s : State) : Host.Outcome State Fault Refusal :=
  .next (s.opDepart slot member)
def execHanddown (slot : Slot) (m : Handdown) (s : State) : Host.Outcome State Fault Refusal := settled (s.opHanddown slot m)

end Sys2Proof.Machine
end

