-- ==== Sys2Proof/Machine/Managers.lean ====
section
/-! DEFINITION. Managers at work: pulses and takeover (R363 to R368), key list, Roster and census messages (R370, R380),
counts and rejoin (R386 to R392), route tables (R402). -/

namespace Sys2Proof.Machine

namespace State

/-! ### Pulses and takeover -/

/-- The other candidates of the functions whose secrets this instance holds. -/
def pulsePeers (s : State) (d : Slot) : List Member :=
  let ms := (if s.holdsHall d then s.hallCandsOf d else []) ++ if s.holdsDrs d then s.sysCandsOf d else []
  s.othersOf d ms.eraseDups

def opMgrPulseTimer (s : State) (d : Slot) : State :=
  if s.inDomain d then
    (s.pulsePeers d).foldl (fun (s : State) m => s.tc0Send d 0x48 m 0 0 (leBytes 4 (s.dom d).member.toNat ++ zeros 4)) s
  else s

/-- A pulse is contact (R363); a candidate of a lower index that has returned is synced and yielded to (R366). -/
def opMgrPulse (s : State) (d : Slot) (src : Member) : State :=
  if s.inDomain d then (((s.noteContact d src).yieldTo d src).electHall d).electSys d else s

/-- A candidate has left contact: takeover (R364), and a count where it was a manager of another hall or the System Manager
(R386). -/
def opContactLoss (s : State) (d : Slot) (lost : Member) : State :=
  let k := s.dom d
  if !s.inDomain d then s
  else
    let s := s.modDom d fun k => { k with mgr := { k.mgr with contacts := Tab.set 0 k.mgr.contacts lost.toNat 0 } }
    let s := (((s.standDown d).electHall d).electSys d).ackDrop d lost fun _ => true
    if hallOf lost ≠ hallOf k.member ∨ lost = k.sysManager then s.countTrigger d else s.counterKeep d

/-- MGR_TAKEOVER: the new active manager of a function is adopted; one sent by a yielding manager makes the lower candidate
active (R364, R366). -/
def opTakeover (s : State) (d : Slot) (src : Member) (system : Bool) : State :=
  let s := s.noteContact d src
  let k := s.dom d
  if !s.inDomain d then s
  else if system then
    if !s.isSysCand d src then s
    else if s.mayLead d && s.holdsDrs d && decide (k.member < src) && s.isLowest d (s.othersOf d (s.sysCandsOf d)) then
      (s.setDom d { k with activeSm := true, sysManager := k.member }).domEvent d domTakeover
    else
      let s := s.setDom d { k with activeSm := false, sysManager := src }
      if k.activeSm then s.domEvent d domTakeover else s
  else if !s.isHallCand d (hallOf k.member) src then s
  else if s.mayLead d && s.holdsHall d && decide (k.member < src) && s.isLowest d (s.othersOf d (s.hallCandsOf d)) then
    (s.setDom d { k with activeHm := true, hallManager := k.member, rosterPending := false }).domEvent d domTakeover
  else
    let s := s.setDom d { k with activeHm := false, hallManager := src }
    if k.activeHm then s.domEvent d domTakeover else s

def opMgrKeys (s : State) (d : Slot) (list : List (Member × Bytes)) : State :=
  if s.inDomain d then s.modDom d fun k => { k with keyList := list } else s

/-- Every 1 ms a hall's manager floods HALL_PULSE (R368); the System Manager does so for the halls it acts for (R367). -/
def opHallPulseTimer (s : State) (d : Slot) : State :=
  if !s.inDomain d then s
  else
    let hs := (List.range (recHallCount (s.dom d).record)).map (BitVec.ofNat 3)
    let s := (hs.filter fun h => s.managesHall d h).foldl (fun (s : State) h => s.hallPulseSend d h) s
    if s.managesHall d (hallOf (s.dom d).member) then s.modDom d fun k => { k with hallPulseAt := s.now } else s

def opHallPulse (s : State) (d : Slot) : State :=
  if s.inDomain d then s.modDom d fun k => { k with hallPulseAt := s.now } else s

/-- 5 ms without HALL_PULSE or COUNT_RESULT: a Fragment on its own, with no vote (R368). -/
def opHallPulseLoss (s : State) (d : Slot) : State :=
  let k := s.dom d
  if !s.running || k.phase != .member || s.managesHall d (hallOf k.member) then s
  else (s.setDom d { k with votes := 0, halls := 0, verifier := false }).becomeFragment d

/-! ### Roster and census -/

/-- ROSTER_UPDATE at the Hall Manager (R380): a newer row replaces the entries it names and goes to the standby candidates in
contact; it is acknowledged once they have confirmed (R365), an older one at once. -/
def opRosterUpdate (s : State) (d : Slot) (src : Member) (version : BitVec 32) (row : RosterRow) : State :=
  if !s.inDomain d ∨ !s.leadsHall d (hallOf src) then s
  else
    let s := s.noteContact d src
    let peers := s.peersFor d (hallOf src)
    if version < Tab.get 0 (s.dom d).mgr.rosterVersions src.toNat then s.rosterAckSend d src version
    else
      let s := s.rosterPut d src version row
      let s := s.syncRow d src version row peers
      if peers.isEmpty then s.rosterAckSend d src version
      else s.modDom d fun k => { k with mgr.acks :=
        (k.mgr.acks.filter fun w => w.member != src || w.version != version) ++ [{ member := src, version := version, waits := peers }] }

def opRosterAck (s : State) (d : Slot) (version : BitVec 32) : State :=
  if s.inDomain d && (s.dom d).rosterVersion == version then s.modDom d fun k => { k with rosterPending := false } else s

def opRosterResend (s : State) (d : Slot) : State :=
  if s.inDomain d && (s.dom d).rosterPending then s.rosterSend d else s

/-- Every 10 ms: counts by census state, and the links declared to other halls, to the System Manager (R380). -/
def opHallSummary (s : State) (d : Slot) : State :=
  let k := s.dom d
  if !s.inDomain d || !s.leadsOwn d || k.sysManager == k.member then s
  else
    let h := hallOf k.member
    let far := (k.mgr.rosterRows.filter fun e => hallOf (BitVec.ofNat 20 (e.1 / 64)) == h && hallOf e.2.1 != h).length
    let body := [h.setWidth 8, 0, 0, 0] ++ ([0, 1, 2, 3] : List (BitVec 2)).flatMap (fun st => leBytes 4 (s.censusCount d h st)) ++
      leBytes 4 far
    s.tc0Send d 0x50 k.sysManager 0 0 body

/-- CENSUS_SYNC (R365). A standby candidate applies the change and confirms it; a confirmation ends the wait of the manager
that sent the change for it. The confirmation repeats the message with bit 1 of byte 5 set (DESIGN CHOICE, log entry 25). -/
def opCensusSync (s : State) (d : Slot) (m : SyncMsg) (state : BitVec 2) : State :=
  if !s.inDomain d then s
  else
    let k := s.dom d
    if m.confirm then
      match m.roster with
      | some (v, _) => (s.noteContact d m.sender).ackDrop d m.sender fun w => w.member == m.member && w.version == v
      | none => s.noteContact d m.sender
    else if !(k.hallCand || k.sysCand) then s
    else
      let s := s.noteContact d m.sender
      match m.roster with
      | some (v, row) =>
        let s := if v < Tab.get 0 (s.dom d).mgr.rosterVersions m.member.toNat then s else s.rosterPut d m.member v row
        s.tc0Send d 0x52 m.sender 0 0 (syncHead m.member 0 3 ++ leBytes 4 v.toNat)
      | none =>
        (s.modDom d fun k => { k with mgr.census := Tab.set 0 k.mgr.census m.member.toNat state }).tc0Send d 0x52 m.sender 0 0
          (syncHead m.member state 2)

/-! ### Counts -/

/-- COUNT_OPEN at the counter: a count with a round one above the highest it knows (R386). A count that is open stays. -/
def opCountOpen (s : State) (d : Slot) : State := if s.isCounter d then s.countTrigger d else s

/-- VOTE_CLAIM of the open round (R387). -/
def opVoteClaim (s : State) (d : Slot) (hall : BitVec 3) (round members : BitVec 32) : State :=
  match (s.dom d).mgr.count with
  | none => s
  | some c =>
    if !s.inDomain d ∨ c.round ≠ round ∨ recHallCount (s.dom d).record ≤ hall.toNat then s
    else s.countPut d (addClaim c hall members.toNat)

/-- The bound of the count (R387): it closes with the claims it holds. -/
def opCountClose (s : State) (d : Slot) : State :=
  match (s.dom d).mgr.count with
  | none => s
  | some c => if !s.inDomain d ∨ c.waiting then s else s.countEnd d c

/-- COUNT_RESULT; one of an earlier round is stale. -/
def opCountResult (s : State) (d : Slot) (r : CountResult) : State :=
  if !s.inDomain d ∨ r.round < (s.dom d).round then s else s.applyResult d r

/-! ### Rejoin (R391) -/

/-- The counter's token, certificate pair and signature are right, and the domain and epoch are the slot's. -/
def rejoinOk (s : State) (d : Slot) (m : RejoinMsg) : Bool :=
  let f := Config.certFacts m.cert
  fitTo 16 m.domainId == s.domainIdOf d && m.epoch == (s.dom d).epoch && f.valid && s.tokenOk d m.token &&
    tokAlias m.token == sha384 f.aliasKeys && tokBoot m.token == f.boot.toNat && sigOk f.aliasKeys "KX3-REJOIN" m.body m.sig

/-- The halls this part holds: those of its open count, else of its last one. -/
def heldHalls (s : State) (d : Slot) : BitVec 8 × Nat × Bool :=
  let k := s.dom d
  match k.mgr.count with
  | some c => (c.halls, c.members, c.verifier)
  | none => (k.halls, s.censusCount d (hallOf k.member) 1, k.verifier)

/-- One count over the union of two parts. -/
def unionCount (s : State) (d : Slot) (m : RejoinMsg) : State :=
  let k := s.dom d
  let (halls, members, verifier) := s.heldHalls d
  let top := if k.round < m.round then m.round else k.round
  s.countStart d (top + 1) (halls ||| m.halls) members verifier

/-- REJOIN_REQ at the other part: a member that is not its counter relays it. -/
def opRejoinReq (s : State) (d : Slot) (m : RejoinMsg) : State :=
  if !s.inDomain d then s
  else if !s.isCounter d then
    if s.isFragment d && tokMember m.token == (s.counterOf d).toNat then s.rejoinRelay d (m.body ++ m.sig)
    else s.tc0Send d 0x5B (s.counterOf d) 0 0 (m.body ++ m.sig)
  else if !s.rejoinOk d m then s
  else (s.tc0Send d 0x5C (BitVec.ofNat 20 (tokMember m.token)) 0 0 (s.rejoinBody d)).unionCount d m

/-- REJOIN_GRANT at the Fragment's counter. -/
def opRejoinGrant (s : State) (d : Slot) (m : RejoinMsg) : State :=
  if !s.isFragment d || !s.isCounter d || !s.rejoinOk d m then s else s.unionCount d m

/-- The window ends: Table 5-7 orders 2 to 4 (R390). -/
def opRejoinExpiry (s : State) (d : Slot) : State :=
  if s.running && s.isFragment d then (s.exitTail d).domEvent d domErased else s

/-! ### Route tables -/

/-- One entry: table 0 halls, 1 groups, 2 members (R402). -/
def routePut (k : Dom) (e : BitVec 2 × BitVec 9 × Option LinkId × Option LinkId) : Dom :=
  let r : RouteEntry := { primary := e.2.2.1, alternate := e.2.2.2 }
  let i := e.2.1.toNat
  if e.1 = 0 then (if i < 8 then { k with hallRt := Tab.set {} k.hallRt i r } else k)
  else if e.1 = 1 then (if i < 256 then { k with groupRt := Tab.set {} k.groupRt i r } else k)
  else if e.1 = 2 then { k with memberRt := Tab.set {} k.memberRt i r }
  else k

def opRouteLoad (s : State) (d : Slot) (es : List (BitVec 2 × BitVec 9 × Option LinkId × Option LinkId)) : State :=
  if s.running && s.slotHeld d then s.modDom d fun k => es.foldl routePut k else s

end State

def execMgrPulseTimer (slot : Slot) (s : State) : Host.Outcome State Fault Refusal := .next (s.opMgrPulseTimer slot)
def execMgrPulse (slot : Slot) (src : Member) (s : State) : Host.Outcome State Fault Refusal := .next (s.opMgrPulse slot src)
def execMgrContactLoss (slot : Slot) (lost : Member) (s : State) : Host.Outcome State Fault Refusal :=
  settled (s.opContactLoss slot lost)
def execMgrTakeover (slot : Slot) (src : Member) (system : Bool) (s : State) : Host.Outcome State Fault Refusal :=
  .next (s.opTakeover slot src system)
def execMgrKeys (slot : Slot) (list : List (Member × Bytes)) (s : State) : Host.Outcome State Fault Refusal :=
  .next (s.opMgrKeys slot list)
def execHallPulseTimer (slot : Slot) (s : State) : Host.Outcome State Fault Refusal := .next (s.opHallPulseTimer slot)
def execHallPulse (slot : Slot) (s : State) : Host.Outcome State Fault Refusal := .next (s.opHallPulse slot)
def execHallPulseLoss (slot : Slot) (s : State) : Host.Outcome State Fault Refusal := settled (s.opHallPulseLoss slot)
def execRosterUpdate (slot : Slot) (src : Member) (version : BitVec 32) (row : RosterRow)
    (s : State) : Host.Outcome State Fault Refusal :=
  .next (s.opRosterUpdate slot src version row)
def execRosterAck (slot : Slot) (version : BitVec 32) (s : State) : Host.Outcome State Fault Refusal :=
  .next (s.opRosterAck slot version)
def execRosterResend (slot : Slot) (s : State) : Host.Outcome State Fault Refusal := .next (s.opRosterResend slot)
def execHallSummary (slot : Slot) (s : State) : Host.Outcome State Fault Refusal := .next (s.opHallSummary slot)
def execCensusSync (slot : Slot) (m : SyncMsg) (state : BitVec 2) (s : State) : Host.Outcome State Fault Refusal :=
  .next (s.opCensusSync slot m state)
def execCountOpen (slot : Slot) (s : State) : Host.Outcome State Fault Refusal := settled (s.opCountOpen slot)
def execVoteClaim (slot : Slot) (hall : BitVec 3) (round : BitVec 32) (members : BitVec 32) (s : State) :
    Host.Outcome State Fault Refusal := settled (s.opVoteClaim slot hall round members)
def execCountResult (slot : Slot) (r : CountResult) (s : State) : Host.Outcome State Fault Refusal :=
  settled (s.opCountResult slot r)
def execCountClose (slot : Slot) (s : State) : Host.Outcome State Fault Refusal := settled (s.opCountClose slot)
def execRejoinReq (slot : Slot) (m : RejoinMsg) (s : State) : Host.Outcome State Fault Refusal :=
  settled (s.opRejoinReq slot m)
def execRejoinGrant (slot : Slot) (m : RejoinMsg) (s : State) : Host.Outcome State Fault Refusal :=
  settled (s.opRejoinGrant slot m)
def execRejoinWindowExpiry (slot : Slot) (s : State) : Host.Outcome State Fault Refusal := settled (s.opRejoinExpiry slot)
def execRouteTableLoad (slot : Slot) (entries : List (BitVec 2 × BitVec 9 × Option LinkId × Option LinkId)) (s : State) :
    Host.Outcome State Fault Refusal := .next (s.opRouteLoad slot entries)

end Sys2Proof.Machine
end

