-- ==== Sys2Proof/Machine/Memory.lean ====
section
/-! DEFINITION. Memory channels: requests, controller responses, the crossing, the Inflection sweep, protected ranges
(R217 to R254). -/

namespace Sys2Proof.Machine

namespace State

/-- A debug master reaches memory only while debug is open (R156). -/
def masterThere (s : State) (m : Master) : Bool := s.running && (m != .debug || s.debugReaches .memory)

/-- The groups a write of a master derives from: those its context consumed (R269). -/
def masterRefs (s : State) (m : Master) : List GroupRef :=
  match masterCtx m with
  | none => []
  | some c => s.ctxRefs c

/-- Accept a request, or refuse it with a bus error and its status (R225, R235, R506). -/
def memRequest (s : State) (w : MemWait) : State :=
  if !s.masterThere w.master then s
  else match s.memRefusal w.master w.key w.dpa w.write.isSome with
    | some (st, t) => t.out (.memDone w.master (lineDpa w.dpa) st)
    | none => s.memAccept w

/-- R226: T is computed and the request issued, or it waits behind the fence, its line, its identifiers or its crossing. -/
def opRead (s : State) (m : Master) (key : KeyIdx) (dpa : Dpa) : State :=
  s.memRequest { master := m, key := key, dpa := dpa, write := none, atomic := false, refs := [] }

/-- R227, R237: sealed and offered, or into the fence. -/
def opWrite (s : State) (m : Master) (key : KeyIdx) (dpa : Dpa) (data : Line) : State :=
  s.memRequest { master := m, key := key, dpa := dpa, write := some (BitVec.allOnes 64, data), atomic := false,
                 refs := s.masterRefs m }

/-- A request of a channel that answers a write (Table 2-6). -/
def writeAnswered (s : State) (q : McReq) (m : Master) (st : BitVec 2) : State :=
  if st = 2 then
    ((s.memAlarm memPoisoned).modChan q.ch fun c => { c with poisoned := satInc c.poisoned }).memEnd m q.tag q.dpa
      stBusError false
  else if st = 3 then (s.portViolation 0 q.ch q.sub 1).memEnd m q.tag q.dpa stBusError false
  else
    let s := if st = 1 then s.modChan q.ch fun c => { c with corrected := satInc c.corrected } else s
    s.memDoneOk m q.tag q.dpa

/-- The write of a merged line is offered once the crossing is locked (R85, R227). -/
def mergedPut (s : State) (q : McReq) (p : Line) : State :=
  if !s.mcReady q.ch then { s with mem.out := s.mem.out ++ [{ q with purpose := .merged q.master p }] }
  else (s.mcWrite q.master q.key q.dpa p q.tag).getD s

/-- The controller answers a request: what its purpose asks for (R226, R227, R230, R240). A response owed under R35 is
accepted and discarded; one of a reserved encoding is a protocol violation all the same (R36). -/
def mcAnswer (s : State) (q : McReq) (rsp : McRsp) : State :=
  let s := { s with mem.out := s.mem.out.filter (· != q) }
  if q.discard then (if rsp.status = 3 then s.portViolation 0 q.ch q.sub 1 else s)
  else
  let s := s.progress q.ch.toNat
  let s := match q.purpose with
    | .read m keys merge refs => match s.openRsp m q.key q.dpa keys rsp with
      | (t, .opened p) => t.out (.memData m q.dpa (mergeAll p merge) refs)
      | (t, .failed a) => t.memEnd m q.tag q.dpa stBusError a
    | .write m => s.writeAnswered q m rsp.status
    | .modify m keys mask data => match s.openRsp m q.key q.dpa keys rsp with
      | (t, .opened p) => t.mergedPut q (mergeLine p data mask)
      | (t, .failed a) => t.memEnd m q.tag q.dpa stBusError a
    | .merged _ _ => s
  s.fenceRelease

/-- A response for an identifier that is not outstanding is a protocol violation (R36, R42). While the block is in reset
the responses owed are accepted and discarded (R35). -/
def opMcResponse (s : State) (ch : ChanId) (sub : BitVec 2) (id : BitVec 6) (rsp : McRsp) : State :=
  match s.mem.out.find? fun q => q.ch == ch && q.sub == sub && q.id == id && !q.isMerged with
  | some q => s.mcAnswer q rsp
  | none => if s.running then s.portViolation 0 ch sub 0 else s

/-- R227: the request is accepted; where its read can go at once, the row carries the controller's answer to it. -/
def opPartial (s : State) (m : Master) (key : KeyIdx) (dpa : Dpa) (mask : BitVec 64) (data : Line) (atomic : Bool)
    (rsp : McRsp) : State :=
  let w : MemWait := { master := m, key := key, dpa := dpa, write := some (mask, data), atomic := atomic,
                       refs := s.masterRefs m }
  let t := s.memRequest w
  if t.mem.out.length ≤ s.mem.out.length then t
  else match t.mem.out.getLast? with
    | none => t
    | some q => match q.purpose with
      | .modify .. => t.mcAnswer q rsp
      | _ => t

/-- R85: no further request is issued; the loss is recorded while the channel is enabled. -/
def opMcLost (s : State) (ch : ChanId) : State :=
  let k := s.clk
  { s with clk := { k with mcUnlocked := setBitTo k.mcUnlocked ch.toNat true
                           mcClkLost := if s.running && s.mcOn ch then setBitTo k.mcClkLost ch.toNat true else k.mcClkLost } }

/-- R85: the writes of merged lines go first, then what waits. -/
def opMcRelock (s : State) (ch : ChanId) : State :=
  { s with clk.mcUnlocked := setBitTo s.clk.mcUnlocked ch.toNat false }.mergedGo ch

/-! ### The Inflection sweep (R243 to R252) -/

/-- R243: on a limit or for the trust core; an index that sweeps, or that is assigned to no slot, starts none. -/
def opSweepStart (s : State) (i : KeyIdx) : State :=
  if !s.running then s else s.startSweep i |>.sweepsEnd

def sweepAdvance (s : State) (i : KeyIdx) (ch : ChanId) : State :=
  (s.modChan ch fun c => { c with sweepPtr := Tab.set 0 c.sweepPtr i.toNat (Tab.get 0 c.sweepPtr i.toNat + 1) }).sweepsEnd

/-- What the sweep does with a line it has read (R245, R247): one that opens under the Present is sealed under the Future
and offered; its write is answered like any other (R42, R45). -/
def sweepJudge (s : State) (i : KeyIdx) (d : Dpa) (rsp : McRsp) : State :=
  let ch := dpaChan d
  if rsp.status = 2 then (s.memAlarm memPoisoned).modChan ch fun c => { c with poisoned := satInc c.poisoned }
  else if rsp.status = 3 then s.portViolation 0 ch (dpaSub d) 1
  else
    let s := if rsp.status = 1 then s.modChan ch fun c => { c with corrected := satInc c.corrected } else s
    if rsp.rside.extractLsb' 28 4 ≠ i then s
    else
      let s := s.activity none lineActivity
      match (s.memKey i false).bind fun k => openLine k d rsp.rdata rsp.rside with
      | some p => if s.hasFuture i then (s.mcWrite .sweep i d p none).getD s else s
      | none =>
        if ((s.memKey i true).bind fun k => openLine k d rsp.rdata rsp.rside).isSome then s
        else (s.memAlarm memSweepTagFail).modChan ch fun c => { c with sweepTagFail := satInc c.sweepTagFail }

/-- The next line of a channel (R245); a line with fence entries, one with an accepted request that still waits, or one
between a partial write's read and write, is not swept yet (R228, R246). -/
def opSweepLine (s : State) (i : KeyIdx) (ch : ChanId) (rsp : McRsp) : State :=
  let ptr := s.sweepPtrOf ch i
  let d := mkDpa ch (ptr.setWidth 32)
  if !s.running || !(s.memIdx i).sweeping || !s.mcServes ch || !s.mcReady ch || decide ((s.chan ch).lines.toNat * 4096 ≤ ptr.toNat) ||
      !(s.fencedOn d).isEmpty || s.lineBusy d || s.mem.waits.any (fun w => lineDpa w.dpa == d) then s
  else match s.freeMcId ch (dpaSub d) with
  | none => s
  | some id =>
    let s := (((s.progress ch.toNat).count 5 1).out (.mcReq ch (dpaSub d) id false (dpaLine d) 0 0)).progress ch.toNat
    ((s.sweepJudge i d rsp).sweepAdvance i ch).memPump

/-- R249: requester writes under the index are held until the sweep ends. -/
def opSweepUrgent (s : State) (i : KeyIdx) : State :=
  if s.running && s.hasFuture i then s.setMemIdx i { s.memIdx i with urgent := true } else s

/-! ### The trust core's registers (R236, R254) -/

/-- R236: base, limit and owner stand while the range is enabled; a write that would enable a range with base above limit
is ignored whole. -/
def rangeWrite (o : ProtRange) (base limit : BitVec 31) (owner : Slot) (enable : Bool) : ProtRange :=
  if o.enable then { o with enable := enable }
  else if enable && decide (limit < base) then o
  else { base := base, limit := limit, owner := owner, enable := enable }

def opRange (s : State) (r : BitVec 6) (base limit : BitVec 31) (owner : Slot) (enable : Bool) : State :=
  if !s.running then s
  else { s with mem.ranges := Tab.set {} s.mem.ranges r.toNat
                  (rangeWrite (Tab.get {} s.mem.ranges r.toNat) base limit owner enable) }

/-- R254: a line count over 4,096 of 0 to 2^20; another value is not taken (log entry 1). -/
def opMcLines (s : State) (ch : ChanId) (lines : BitVec 21) : State :=
  if !s.running ∨ 2 ^ 20 < lines.toNat then s
  else (s.modChan ch fun c => { c with lines := lines }).sweepsEnd

end State

def execMemReadRequest (m : Master) (key : KeyIdx) (dpa : Dpa) (s : State) : Host.Outcome State Fault Refusal :=
  settled (s.opRead m key dpa)
def execMemWriteRequest (m : Master) (key : KeyIdx) (dpa : Dpa) (data : Line) (s : State) :
    Host.Outcome State Fault Refusal := settled (s.opWrite m key dpa data)
def execMemPartialWrite (m : Master) (key : KeyIdx) (dpa : Dpa) (mask : BitVec 64) (data : Line) (atomic : Bool)
    (rsp : McRsp) (s : State) : Host.Outcome State Fault Refusal := settled (s.opPartial m key dpa mask data atomic rsp)
def execMcResponse (ch : ChanId) (sub : BitVec 2) (id : BitVec 6) (rsp : McRsp) (s : State) :
    Host.Outcome State Fault Refusal := settled (s.opMcResponse ch sub id rsp)
def execMcClkLost (ch : ChanId) (s : State) : Host.Outcome State Fault Refusal := .next (s.opMcLost ch)
def execMcClkRelock (ch : ChanId) (s : State) : Host.Outcome State Fault Refusal := settled (s.opMcRelock ch)
def execSweepStart (idx : KeyIdx) (s : State) : Host.Outcome State Fault Refusal := settled (s.opSweepStart idx)
def execSweepLine (idx : KeyIdx) (ch : ChanId) (rsp : McRsp) (s : State) : Host.Outcome State Fault Refusal :=
  settled (s.opSweepLine idx ch rsp)
def execSweepUrgent (idx : KeyIdx) (s : State) : Host.Outcome State Fault Refusal := .next (s.opSweepUrgent idx)
def execProtectedRangeWrite (r : BitVec 6) (base limit : BitVec 31) (owner : Slot) (enable : Bool) (s : State) :
    Host.Outcome State Fault Refusal := .next (s.opRange r base limit owner enable)
def execMcLinesWrite (ch : ChanId) (lines : BitVec 21) (s : State) : Host.Outcome State Fault Refusal :=
  settled (s.opMcLines ch lines)

end Sys2Proof.Machine
end

