-- ==== Sys2Proof/Machine/Power.lean ====
section
/-! DEFINITION. Power and metering: limit and droop throttles (R551 to R556), energy (R559, R560), billing boundaries (R563 to
R568). -/

namespace Sys2Proof.Machine

namespace State

/-- A throttle reason of Table 19-2 comes into force or leaves it: its ns are counted (R556). -/
def setReason (s : State) (k : Nat) (on : Bool) : State :=
  let p := s.pwr
  if p.inForce.getLsbD k = on then s
  else (if on then { s with pwr := { p with inForce := setBitTo p.inForce k true, since := Tab.set 0 p.since k s.now } }
  else { s with pwr := { p with
    inForce := setBitTo p.inForce k false
    thr := Tab.set 0 p.thr k (Tab.get 0 p.thr k + (s.now - Tab.get 0 p.since k))
    since := Tab.set 0 p.since k 0 } } : State).trace 0x07 none none 0 0 (leBytes 1 k ++ [b2w on 8])

/-- The end of an averaging window: the averages are shown; the window length and the limits take effect (R70, R551). -/
def opWindow (s : State) (avgVkx avgVkm : BitVec 16) : State :=
  if !s.running then s
  else
    let p := s.pwr
    { s with pwr := { p with
      measVkx := avgVkx
      measVkm := avgVkm
      windowNow := p.windowUs
      limVkx := p.pendVkx.getD p.limVkx
      limVkm := p.pendVkm.getD p.limVkm
      pendVkx := none
      pendVkm := none } }

/-- Above 0.98 of a limit, and below 0.95 of it (R552). -/
def overLimit (avg : BitVec 16) (lim : BitVec 12) : Bool := decide (98 * lim.toNat < 100 * avg.toNat)
def underLimit (avg : BitVec 16) (lim : BitVec 12) : Bool := decide (100 * avg.toNat < 95 * lim.toNat)

/-- One step of the limit throttle (R552, R553): down while a rail is over, up once every rail that throttles is below 0.95. -/
def opThrottle (s : State) (avgVkx avgVkm : BitVec 16) : State :=
  if !s.running then s
  else
    let p := s.pwr
    let ox := overLimit avgVkx p.limVkx
    let om := overLimit avgVkm p.limVkm
    let calm := (!p.inForce.getLsbD 0 || underLimit avgVkx p.limVkx) && (!p.inForce.getLsbD 1 || underLimit avgVkm p.limVkm)
    if ox || om then
      let floor := p.limRate == 1
      let s := if ox then s.setReason 0 true else s
      let s := if om then s.setReason 1 true else s
      let s := s.setReason 5 floor
      { s with pwr := { s.pwr with limRate := if floor then 1 else p.limRate - 1, limUnmet := s.pwr.limUnmet || floor } }
    else
      let s := s.setReason 5 false
      if calm && decide (p.limRate.toNat < 16) then
        let r := p.limRate + 1
        let s := { s with pwr := { s.pwr with limRate := r } }
        if r = 16 then (s.setReason 0 false).setReason 1 false else s
      else s

def setDroop (s : State) (r : Region) (x : BitVec 5) : State :=
  match r with
  | .mem => { s with pwr.droopMem := x }
  | .link => { s with pwr.droopLink := x }
  | .svc => { s with pwr.droopSvc := x }
def droopReason (r : Region) : Nat :=
  match r with
  | .mem => 2
  | .link => 3
  | .svc => 4

/-- VKX fell below the region's threshold: its issue rate is halved, down to the floor (R554). -/
def opDroop (s : State) (r : Region) : State :=
  if !s.running then s
  else
    let x := s.droopRate r / 2
    (s.setDroop r (if x = 0 then 1 else x)).setReason (droopReason r) true

def opDroopRelease (s : State) (r : Region) : State :=
  if !s.running then s else (s.setDroop r 16).setReason (droopReason r) false

/-! ### Energy -/

/-- A µJ counter and its remainder, in units of 2^-16 µJ, with energy added. -/
def addEnergy (e : BitVec 64) (rem n : Nat) : BitVec 64 × Nat := (e + BitVec.ofNat 64 ((rem + n) / 65536), (rem + n) % 65536)

/-- Energy for a slot's meter, while the slot is held (R559, R561). -/
def slotEnergy (s : State) (d : Slot) (n : Nat) : State :=
  if !s.slotHeld d then s
  else
    let r := addEnergy (s.mtr d).energy (Tab.get 0 s.pwr.slotEnergyRem d.toNat) n
    let sat := decide (2 ^ 64 ≤ (s.mtr d).energy.toNat + (Tab.get 0 s.pwr.slotEnergyRem d.toNat + n) / 65536)
    let s := s.modMtr d fun x => { x with energy := if sat then BitVec.allOnes 64 else r.1, sat := x.sat || sat }
    { s with pwr := { s.pwr with slotEnergyRem := Tab.set 0 s.pwr.slotEnergyRem d.toNat r.2 } }

def blockEnergy (s : State) (n : Nat) : State :=
  let r := addEnergy s.pwr.blkEnergy s.pwr.blkEnergyRem n
  { s with pwr := { s.pwr with blkEnergy := r.1, blkEnergyRem := r.2 } }

/-- A context's share goes to it and to its slot; its activity of the interval is used up. -/
def ctxEnergy (s : State) (c : CtxId) (n : Nat) : State :=
  let k := s.ctx c
  let r := addEnergy k.energy k.energyRem n
  let s := s.setCtx c { k with energy := r.1, energyRem := r.2, activity := 0 }
  match s.ctxSlot c with
  | some d => s.slotEnergy d n
  | none => s

/-- The interval's dynamic energy is divided by activity units; the static part, work without a context and what the division
leaves go to the block (R559). -/
def opEnergy (s : State) (e : EnergySample) : State :=
  if !s.running then s
  else
    let cs := (s.liveCtxs.map fun c => (c, (s.ctx c).activity)).filter fun x => x.2 != 0
    let ds := s.pwr.slotActivity
    let total := (cs.map (·.2)).sum + (ds.map (·.2)).sum + s.pwr.blkActivity
    let share (n : Nat) : Nat := if total = 0 then 0 else e.dynamic * n / total
    let given := (cs.map fun x => share x.2).sum + (ds.map fun x => share x.2).sum
    let s := cs.foldl (fun (s : State) x => s.ctxEnergy x.1 (share x.2)) s
    let s := ds.foldl (fun (s : State) x => s.slotEnergy (BitVec.ofNat 3 x.1) (share x.2)) s
    let s := s.blockEnergy (e.static + (e.dynamic - given))
    { s with pwr := { s.pwr with slotActivity := [], blkActivity := 0 } }

/-! ### Billing boundaries -/

/-- Take the pending boundary T (R564): with a period, one snapshot at the latest boundary passed, the others skipped. -/
def boundaryTake (s : State) (d : Slot) (T utc : BitVec 64) (late : Bool) : State :=
  let p := periodNs (s.mtr d)
  let skipped := if late then 0 else s.skippedAt d T
  let bound := s.boundAt d T skipped
  let s := s.meterTake d bound late false false skipped
  let s := s.modMtr d fun x => { x with pendingT := if p = 0 then none else some (bound + BitVec.ofNat 64 p, utc) }
  s.meterDeliver d

/-- R563: the PF's request, decided in the epoch of go. -/
def meterGo (s : State) (d : Slot) : State :=
  let x := s.mtr d
  if !s.slotHeld d then s.setMtr d { x with status := stFnOff }
  else if x.boundAny ∧ x.bound ≤ x.last then s.setMtr d { x with status := stTimeRegress }
  else
    let late := decide (x.bound < s.domTime d)
    let s := s.setMtr d { x with status := stOk, pendingT := some (x.bound, x.utc), late := late }
    if late then s.boundaryTake d x.bound x.utc true else s

/-- The power area answers the PF (R570). -/
def powerOn (s : State) : Bool := s.running && s.portOn portReg && s.areaOn areaPower

def opMeterGo (s : State) (d : Slot) : State := if s.powerOn then s.meterGo d else s

/-- Domain Time has reached the pending boundary (R564). -/
def opBoundary (s : State) (d : Slot) : State :=
  match (s.mtr d).pendingT with
  | none => s
  | some (T, utc) => if s.running && s.slotHeld d then s.boundaryTake d T utc false else s

end State

def execCurrentWindow (avgVkx avgVkm : BitVec 16) (s : State) : Host.Outcome State Fault Refusal :=
  .next (s.opWindow avgVkx avgVkm)
def execThrottleStep (avgVkx avgVkm : BitVec 16) (s : State) : Host.Outcome State Fault Refusal :=
  .next (s.opThrottle avgVkx avgVkm)
def execDroopCrossing (r : Region) (s : State) : Host.Outcome State Fault Refusal := .next (s.opDroop r)
def execDroopRelease (r : Region) (s : State) : Host.Outcome State Fault Refusal := .next (s.opDroopRelease r)
def execEnergyInterval (e : EnergySample) (s : State) : Host.Outcome State Fault Refusal := .next (s.opEnergy e)
def execMeterGo (slot : Slot) (s : State) : Host.Outcome State Fault Refusal := .next (s.opMeterGo slot)
def execMeterBoundary (slot : Slot) (s : State) : Host.Outcome State Fault Refusal := .next (s.opBoundary slot)

end Sys2Proof.Machine
end

