-- ==== Sys2Proof/Machine/Reduction.lean ====
section
/-! DEFINITION. Reduction programs: PROG_LOAD (R328), PROG_GO (R331), PROG_UNLOAD (R322), contributions taken from the links
(R334 to R345) and BUDGET messages (R558). -/

namespace Sys2Proof.Machine

/-! ### The descriptor (Tables 11-3, 11-4) -/

def parseStage (b : Bytes) : Stage :=
  { inLinks := leBv 64 (slice b 0 8), outLinks := leBv 64 (slice b 8 8), elemBase := leAt b 16 5, elemCount := leAt b 21 5
    kind := (byteAt b 26).setWidth 2, localIn := (byteAt b 26).getLsbD 2, localOut := (byteAt b 26).getLsbD 3
    emit := (byteAt b 26).extractLsb' 4 2, inStage := byteAt b 27, outStage := byteAt b 28
    rstage := leBv 32 (slice b 32 4) }

def descStages (b : Bytes) : Nat := (byteAt b 24).toNat
/-- The stage entries that are read: none where stage_count is out of range. -/
def readStages (b : Bytes) : Nat := if descStages b ≤ 32 then descStages b else 0
def stageBytes (b : Bytes) (i : Nat) : Bytes := slice b (64 + 36 * i) 36

def parseDesc (b : Bytes) : ProgDesc :=
  { seed := leBv 64 (slice b 0 8), elemTotal := leAt b 8 6, inFmt := (byteAt b 14).setWidth 4
    outFmt := (byteAt b 14).extractLsb' 4 4, op := (byteAt b 15).setWidth 4, rmode := (byteAt b 15).extractLsb' 4 2
    compact := (byteAt b 15).getLsbD 6, sigma := leBv 32 (slice b 16 4), count := leBv 32 (slice b 20 4)
    depth := (byteAt b 25).toNat, skewReport := (byteAt b 26).getLsbD 0, skewThr := leBv 32 (slice b 28 4)
    stages := (List.range (readStages b)).map fun i => parseStage (stageBytes b i) }

/-- Check 4 of Table 11-5. -/
def descReservedOk (b : Bytes) (d : ProgDesc) : Bool :=
  !(byteAt b 15).getLsbD 7 && decide ((byteAt b 26).toNat ≤ 1) && byteAt b 27 == 0 && zeroAt b 32 32 &&
    (d.op == opScaled || d.sigma == 0) &&
    (List.range (readStages b)).all fun i =>
      let e := stageBytes b i
      decide ((byteAt e 26).toNat < 64) && zeroAt e 29 3

/-- Check 5 (R294, R307). -/
def descFormatOk (d : ProgDesc) : Bool :=
  d.inFmt != 15 && d.outFmt != 15 && decide (d.op.toNat ≤ 7) && d.rmode != 3 &&
    (decide (d.op.toNat ≤ 4) || (decide (11 ≤ d.inFmt.toNat) && decide (d.inFmt.toNat ≤ 13) && d.outFmt == d.inFmt))

/-- Some COMBINE stage takes the result of a stage that emits OUTPUT. -/
def chainsOutput (d : ProgDesc) : Bool :=
  d.stages.any fun st => st.kind == kindCombine && st.localIn && st.inStage != 0xFF &&
    (match d.stages[st.inStage.toNat]? with
     | some x => x.outForm == formOutput
     | none => false)

/-- Check 6. -/
def descUnitOk (d : ProgDesc) : Bool :=
  d.outFmt == d.inFmt || !(d.compact || chainsOutput d) || decide (fmtQ d.inFmt ≤ fmtQ d.outFmt)

/-- Check 7. -/
def descNonzero (b : Bytes) (d : ProgDesc) : Bool :=
  !(d.op == opMean && d.count == 0) && d.elemTotal != 0 && d.depth != 0 && descStages b != 0 &&
    d.stages.all fun st => st.elemCount != 0

/-- Check 8. -/
def descRangeOk (b : Bytes) (d : ProgDesc) : Bool :=
  decide (d.elemTotal ≤ 2 ^ 40) && decide (descStages b ≤ 32) && decide (d.depth ≤ 2) &&
    d.stages.all fun st => decide (st.elemBase + st.elemCount ≤ d.elemTotal)

/-- The earlier stage whose result a stage takes covers its range and gives bytes the stage can use (R326, R327). -/
def chainOk (d : ProgDesc) (i : Nat) (st : Stage) : Bool :=
  !st.localIn || st.inStage == 0xFF ||
    (decide (st.inStage.toNat < i) && (match d.stages[st.inStage.toNat]? with
      | none => false
      | some x => decide (x.elemBase ≤ st.elemBase) &&
          decide (st.elemBase + st.elemCount ≤ x.elemBase + x.elemCount) &&
          (st.kind == kindCombine || x.outForm == formOutput)))

/-- Check 9: Table 11-6, R326, R327 and the links of the virtual device. -/
def stageOk (d : ProgDesc) (links : BitVec 64) (i : Nat) (st : Stage) : Bool :=
  let kindOk :=
    if st.kind = kindCombine then
      if st.emit = emitRaw then st.inLinks == 0 && st.localIn && st.inStage == 0xFF && !st.localOut
      else if st.emit = emitXpf then !d.compact && !st.localOut
      else st.emit == emitOutput
    else st.kind == kindForward && st.emit == emitOutput && popcount st.inLinks + st.localIn.toNat == 1
  kindOk && (st.outLinks != 0 || st.localOut) && st.elemBase % 32 == 0 && chainOk d i st &&
    (st.outLinks == 0 || decide (st.outStage.toNat ≤ 31)) && (st.inLinks ||| st.outLinks) &&& ~~~ links == 0

/-- Checks 4 to 9 on the copy. -/
def descCheck (b : Bytes) (d : ProgDesc) (links : BitVec 64) : Option Status :=
  if !descReservedOk b d then some stReserved
  else if !descFormatOk d || !descUnitOk d then some stFormat
  else if !descNonzero b d then some stLengthZero
  else if !descRangeOk b d then some stLengthRange
  else if !(d.stages.zipIdx.all fun x => stageOk d links x.2 x.1) then some stProgDesc
  else none

namespace State

/-! ### PROG_LOAD -/

/-- Check 3 for the first `n` bytes at the descriptor's address. -/
def descExtent (s : State) (x : Cmd) (t : Trans) (n : Nat) : Option Status :=
  if t.len < n then some stLengthRange
  else if !rightOk t.rights false then some stRights
  else if (s.obj t.ctx t.num.toNat).taint && (s.obj t.ctx t.num.toNat).reuse == t.reuse && x.opcode == opProgLoad then
    some stTainted
  else none

/-- A line of the first `n` bytes of a range holds fence entries (R328). -/
def rangeFenced (s : State) (t : Trans) (n : Nat) : Bool :=
  !t.fabric && (List.range (linesOf t.target n).2).any fun i =>
    !(s.fencedOn (BitVec.ofNat 43 (64 * (t.target.toNat / 64 + i)))).isEmpty

/-- Checks 10 and 11, then the load itself: key, buffer, LOADED. -/
def loadProg (s : State) (x : Cmd) (p : ProgId) (d : ProgDesc) : State :=
  let fail (st : Status) : State := s.cmdResult x.ctx 2 x.k st 0
  if s.red.unitsFree.toNat < d.units then fail stBuffer
  else match (s.ctx x.ctx).vd, s.ctxSlot x.ctx with
  | some v, some sl =>
    if !s.hasMember sl || !s.keyUsable (rowDcs sl) then fail stKeyOrphan
    else
      let key := kdf (s.keyBytes (rowDcs sl) 32) "KX3-PROG" (s.domainIdOf sl ++ leBytes 8 d.seed.toNat) 256
      let s := s.writeKey (rowProg p) (leBv 288 key) (.row (BitVec.ofNat 12 (rowMember sl))) 0 sl 0
      let s := { s with red.unitsFree := s.red.unitsFree - BitVec.ofNat 17 d.units }
      let g := s.prog p
      let s := s.setProg p { g with
        phase := .loaded, ctx := x.ctx, vd := v, slot := sl, desc := some d, units := d.units, low := 0, nextGo := 0
        iters := [], faultedAhead := [], endedAhead := [] }
      s.cmdResult x.ctx 2 x.k stOk 0
  | _, _ => fail stKeyOrphan

/-- The copy's two parts: the header, then, where stage_count allows, the whole descriptor (check 3). -/
def copyDesc (s : State) (x : Cmd) (p : ProgId) (t : Trans) (rsps : List McRsp) : State :=
  let fail (s : State) (st : Status) : State := s.cmdResult x.ctx 2 x.k st 0
  match s.descExtent x t 64 with
  | some st => fail s st
  | none =>
    if s.rangeFenced t 64 then s
    else
      let head : Trans := { t with len := 64 }
      match s.fabFetch x [(0, head)] with
      | some u => u
      | none =>
        match s.getRange (.ctx x.ctx) x 0 head rsps with
        | (_, .wait) => s
        | (u, .failed _ a) => (fail u stBusError).alarmComma (.ctx x.ctx) a
        | (u, .ok h rest) =>
          let n := descStages h
          let go (u : State) (b : Bytes) : State :=
            match descCheck b (parseDesc b) ((s.vdev (((s.ctx x.ctx).vd).getD 0)).links) with
            | some st => fail u st
            | none => u.loadProg x p (parseDesc b)
          if n = 0 ∨ 32 < n then go u (fitTo 64 h)
          else
            let len := 64 + 36 * n
            match s.descExtent x t len with
            | some st => fail u st
            | none =>
              let whole : Trans := { t with len := len }
              if s.rangeFenced t len then s
              else match s.fabFetch x [(0, whole)] with
              | some v => v
              | none =>
                let done := (linesOf t.target 64).2
                match u.getLines (.ctx x.ctx) x 0 whole (transLines whole - done) done rest with
                | (_, .wait) => s
                | (v, .failed _ a) => (fail v stBusError).alarmComma (.ctx x.ctx) a
                | (v, .ok more _) =>
                  -- the header's lines again, without a second read
                  match s.getLines (.ctx x.ctx) x 0 whole done 0 rsps with
                  | (_, .ok first _) => go v (slice (first ++ more) (t.target.toNat % 64) len)
                  | _ => s

/-- R328. -/
def opLoad (s : State) (c : CtxId) (k : Word) (rsps : List McRsp) : State :=
  match s.runningCmd c 2 k opProgLoad with
  | none => s
  | some x =>
    let p : ProgId := byteAt x.body 0
    if x.cancel then s.cmdResult c 2 k stCancelled 0
    else if !s.progMine c p || (s.prog p).phase != .free then s.cmdResult c 2 k stProgSlot 0
    else match x.trans with
    | [] => s.cmdResult c 2 k stUnmapped (vaDetail (leAt x.body 8 8))
    | t :: _ => s.copyDesc x p t rsps

/-! ### PROG_GO -/

/-- Every link of every stage is AGREED in the program's slot (Table 11-12, PROG_LINK). -/
def linksAgreed (s : State) (p : ProgId) (d : ProgDesc) : Bool :=
  d.stages.all fun st => (bitsOf (st.inLinks ||| st.outLinks)).all fun l => s.agreedIn (BitVec.ofNat 6 l) (s.prog p).slot

/-- The part of the src buffer a stage reads: its first line is read once. -/
def stageSrc (d : ProgDesc) (st : Stage) (t : Trans) : Trans :=
  let a := packedBytes (srcFmt d st) st.elemBase
  { t with target := t.target + BitVec.ofNat 64 a
           len := packedBytes (srcFmt d st) (st.elemBase + st.elemCount) - a }

/-- Add a stage's local tiles from its bytes. -/
def addLocal (s : State) (p : ProgId) (d : ProgDesc) (n i : Nat) (st : Stage) (bs : Bytes) : State :=
  (List.range st.tileCount).foldl (fun (s : State) t =>
    let o := packedBytes (srcFmt d st) (st.first t) - packedBytes (srcFmt d st) st.elemBase
    s.addUnit p d n i t st srcLocal (if st.kind = kindForward then formOutput else formRaw)
      (slice bs o (tileBytes (srcFmt d st) (st.valid t)))) s

/-- Read the local contributions of every stage that takes src, in stage order. They are Indicative: a line that holds
verdict fence entries is waited for (R336). -/
def readLocal (s : State) (x : Cmd) (p : ProgId) (d : ProgDesc) (n : Nat) (t : Trans) :
    List (Stage × Nat) → List McRsp → State × Got Unit
  | [], rsps => (s, .ok () rsps)
  | (st, i) :: rest, rsps =>
    if st.localIn && st.inStage == 0xFF then
      if s.rangeFenced (stageSrc d st t) (stageSrc d st t).len then (s, .wait)
      else match s.getRange (.program x.ctx p (BitVec.ofNat 32 n)) x 0 (stageSrc d st t) rsps with
      | (u, .ok bs r2) => (u.addLocal p d n i st bs).readLocal x p d n t rest r2
      | (u, g) => (u, toUnit g)
    else s.readLocal x p d n t rest rsps

/-- An accepted PROG_GO reads its local contributions once its context's groups of the moment of acceptance are Confirmed
(R270, R336). Where the row's answers do not suffice nothing is read. -/
def goRead (s : State) (c : CtxId) (k : Word) (p : ProgId) (d : ProgDesc) (n : Nat) (rsps : List McRsp) : State :=
  match s.findCmd c 2 k, (s.iterOf p n).bind (·.go) with
  | some x, some go =>
    let done (s : State) : State :=
      (s.modIter p n fun it => { it with go := some { go with localRead := true } }).progPass p n
    if go.localRead then s
    else match go.src with
    | none => done s
    | some t =>
      if !x.refs.isEmpty then s
      else match s.fabFetch x (if t.fabric then [(0, { t with len := srcExtent d })] else []) with
      | some v => v
      | none => match s.readLocal x p d n t d.stages.zipIdx rsps with
        | (_, .wait) => s
        | (v, .failed _ a) => (v.faultIter p n progMem stProgFault true).alarmComma (.ctx c) a
        | (v, .ok _ _) => done v
  | _, _ => s

/-- An accepted PROG_GO opens its iteration; its local contributions arrive (R330, R341). One whose iteration has faulted
already ends with that fault's status (R345). -/
def goAccept (s : State) (x : Cmd) (p : ProgId) (d : ProgDesc) (n : Nat) : State :=
  let ts := goTrans x
  let info : GoInfo := { ctx := x.ctx, k := x.k, elemOffset := leAt x.body 24 6, src := ts.1, dst := ts.2 }
  let u := s.modProg p fun g => { g with nextGo := n + 1 }
  match (s.prog p).faultedAhead.find? fun e => e.1 == n with
  | some e => (u.modProg p fun g => { g with faultedAhead := g.faultedAhead.filter fun y => y.1 != n }).cmdResult x.ctx 2 x.k
      e.2 0
  | none =>
    let u := (u.openIter p n (some info)).modCmd x.ctx 2 x.k fun y => { y with refs := s.ctxRefs x.ctx }
    let now := s.now
    let u := u.modIter p n fun it => { it with
      go := some info
      stages := d.stages.zipIdx.foldl (fun m y =>
        if y.1.localIn && y.1.inStage == 0xFF then
          let run := Tab.get ({} : StageRun) m y.2
          Tab.set {} m y.2 { run with arrivals := run.arrivals ++ [(srcLocal, now)] }
        else m) it.stages }
    if x.cancel then u.faultIter p n progCancel stCancelled true
    else if !s.linksAgreed p d then u.faultIter p n progLink stProgFault true
    else u.progPass p n

/-- R331, R332: the command is checked and accepted, then reads; a further row goes on with its reads. -/
def opGo (s : State) (c : CtxId) (k : Word) (rsps : List McRsp) : State :=
  match s.runningCmd c 2 k opProgGo with
  | none => s
  | some x =>
    let p : ProgId := byteAt x.body 0
    let n := leAt x.body 4 4
    let mine := match (s.iterOf p n).bind (·.go) with
      | some i => i.ctx == c && i.k == k
      | none => false
    match (s.prog p).desc with
    | none => s.cmdResult c 2 k stProgSlot 0
    | some d =>
      if mine then s.goRead c k p d n rsps
      else match s.goCheck x p d with
      | some e => s.cmdResult c 2 k e.1 e.2
      | none => if s.goOver x p d then s else (s.goAccept x p d n).goRead c k p d n rsps

/-- Table 11-1, PROG_UNLOAD. -/
def opUnload (s : State) (c : CtxId) (k : Word) : State :=
  match s.runningCmd c 2 k opProgUnload with
  | none => s
  | some x =>
    let p : ProgId := byteAt x.body 0
    if x.cancel then s.cmdResult c 2 k stCancelled 0
    else if !s.progMine c p || (s.prog p).phase == .free then s.cmdResult c 2 k stProgSlot 0
    else (s.unloadProg p).cmdResult c 2 k stOk 0

/-! ### Contributions (R334 to R339) -/

/-- A stage accepts a form (R334). -/
def tileFormOk (d : ProgDesc) (st : Stage) (f : BitVec 3) : Bool :=
  if st.kind = kindForward then f == formOutput
  else f == formRaw || f == (if d.compact then formOutput else formXpf)

/-- PROG_MALFORMED of one group, before its unit is whole. -/
def contribBad (d : ProgDesc) (st : Stage) (l : LinkId) (x : Contrib) (len : Nat) (tile : Tile) : Bool :=
  x.reserved || !st.inLinks.getLsbD l.toNat || decide (len < 8) ||
    (if x.form = formAbandon then len != 8 || x.part != 0 || !x.last || x.tile != 0
     else
       !tileFormOk d st x.form || x.tile % 32 != 0 || decide (x.tile < st.elemBase) ||
         decide (st.elemBase + st.elemCount ≤ x.tile) || decide (5 < x.part) || (!x.last && x.bytes.length != 248) ||
         x.bytes.isEmpty || tile.added.getLsbD l.toNat ||
         (tile.parts.any fun y => y.src == l.toNat &&
           (y.part == x.part || (y.last && decide (y.part < x.part)) || (x.last && decide (x.part < y.part)))))

/-- The whole unit of a source once its last part and all below it are there. -/
def wholeUnit (ps : List TilePart) (src : Nat) : Option Bytes :=
  let mine := ps.filter fun y => y.src == src
  match mine.find? fun y => y.last with
  | none => none
  | some z =>
    if mine.length = z.part + 1 then
      some ((List.range (z.part + 1)).flatMap fun i => ((mine.find? fun y => y.part == i).map (·.bytes)).getD [])
    else none

/-- Take a group that names an open iteration, or one that may be opened. -/
def takeContrib (s : State) (p : ProgId) (d : ProgDesc) (n : Nat) (l : LinkId) (stamp : Time) (x : Contrib) (len : Nat) :
    State :=
  let bad (s : State) : State := (s.openIter p n none).faultIter p n progMalformed stProgFault true
  match d.stages[x.stage]? with
  | none => bad s
  | some st =>
    let t := (x.tile - st.elemBase) / 32
    let run := match s.iterOf p n with
      | some it => Tab.get ({} : StageRun) it.stages x.stage
      | none => {}
    if contribBad d st l x len (Tab.get {} run.tiles t) then bad s
    else if x.form = formAbandon then (s.openIter p n none).faultIter p n progUpstream stProgFault true
    else
      let s := s.openIter p n none
      let part : TilePart := { src := l.toNat, part := x.part, last := x.last, bytes := x.bytes }
      let s := s.modIter p n fun it =>
        let run := Tab.get ({} : StageRun) it.stages x.stage
        let tile := Tab.get ({} : Tile) run.tiles t
        let run := { run with
          tiles := Tab.set {} run.tiles t { tile with parts := tile.parts ++ [part] }
          arrivals := if run.arrivals.any (fun a => a.1 == l.toNat) then run.arrivals else run.arrivals ++ [(l.toNat, stamp)] }
        { it with stages := Tab.set {} it.stages x.stage run }
      let parts := match s.iterOf p n with
        | some it => (Tab.get ({} : Tile) (Tab.get ({} : StageRun) it.stages x.stage).tiles t).parts
        | none => []
      match wholeUnit parts l.toNat with
      | none => s
      | some u =>
        match unitCheck d x.form (st.valid t) u with
        | some cause => s.faultIter p n cause stProgFault true
        | none => (s.addUnit p d n x.stage t st l.toNat x.form u).progPass p n

/-- The first REDUCE group a link cluster holds: taken, kept waiting, or discarded (R337, R345). -/
def opTake (s : State) (l : LinkId) : State :=
  if !s.running || !s.areaOn areaReduction then s
  else
    let isRed (h : RxHeld) : Bool := hdrDest h.header == destReduce && hdrKind h.header == kindSealed && h.cls == 2
    match (s.link l).io.held.find? isRed with
    | none => s
    | some h =>
      let p : ProgId := (hdrCtx h.header).setWidth 8
      let g := s.prog p
      let x := contribOf h.payload
      let gone (s : State) : State :=
        (s.modLink l fun k => { k with io := { k.io with held := k.io.held.erase h } }).creditReturn l h.cls
      match g.desc with
      | none => (gone s).progLate p
      | some d =>
        let dist := contribDist g h.payload
        let n := g.low + dist
        if g.phase = .ended ∨ 128 ≤ dist ∨ 2 ^ 32 ≤ n ∨ (dist < d.depth ∧ g.endedAhead.contains n) then (gone s).progLate p
        else if d.depth ≤ dist then
          (if g.held then s else s.modProg p fun g => { g with held := true }).redEvent 2
        else (gone s).takeContrib p d n l h.stamp x h.payload.length

/-! ### BUDGET (R558) -/

/-- A BUDGET message taken by the trust core: passed on the power-manager port, or discarded. -/
def opBudget (s : State) (l : LinkId) (src : Member) (delta : BitVec 16) (reservedZero : Bool) : State :=
  if !s.running || (s.link l).core.phase != .agreed then s
  else if !reservedZero || delta == 0 then s.tc0Bad l
  else
    let w : BitVec 64 := ((0 : BitVec 25) ++ (s.link l).core.slot ++ src ++ delta : BitVec 64)
    s.budPut w

end State

def execProgLoad (c : CtxId) (k : Word) (rsps : List McRsp) (s : State) : Host.Outcome State Fault Refusal :=
  settled (s.opLoad c k rsps)
def execProgGo (c : CtxId) (k : Word) (rsps : List McRsp) (s : State) : Host.Outcome State Fault Refusal :=
  settled (s.opGo c k rsps)
def execProgUnload (c : CtxId) (k : Word) (s : State) : Host.Outcome State Fault Refusal := settled (s.opUnload c k)
def execContributionTake (l : LinkId) (s : State) : Host.Outcome State Fault Refusal := settled (s.opTake l)
def execBudget (l : LinkId) (src : Member) (delta : BitVec 16) (reservedZero : Bool) (s : State) :
    Host.Outcome State Fault Refusal := .next (s.opBudget l src delta reservedZero)

end Sys2Proof.Machine
end

