-- ==== Sys2Proof/Machine/Trace.lean ====
section
/-! DEFINITION. The trace (R587 to R593): run, ring writes, markers, time marks. -/

namespace Sys2Proof.Machine

namespace State

/-- The telemetry area answers the PF (R594). -/
def telOn (s : State) : Bool := s.running && s.portOn portReg && s.areaOn areaTelemetry

/-- run is set: records are built from seq 0, and lost counts anew (R587, Table 21-8). Setting it while it builds changes
nothing. -/
def runSet (s : State) : State :=
  let t := s.tel
  if t.run && t.active then s
  else { s with tel := { t with run := true, active := true, seq := 0, lost := 0, lostSince := 0 } }

/-- run is cleared: what waits is still written, then active clears (R593). -/
def runClear (s : State) : State :=
  let t := s.tel
  { s with tel := { t with run := false, active := t.active && !t.fifo.isEmpty } }

/-- Table 21-3. -/
def traceBytes (r : TraceRec) : Bytes :=
  leBytes 8 r.stamp.toNat ++ [r.type, r.flags] ++ leBytes 2 r.ctx.toNat ++ leBytes 2 r.layer.toNat ++
    leBytes 2 r.operator.toNat ++ leBytes 4 r.seq.toNat ++ fitTo 12 r.arg

/-- Room for the next record: with wrap the head is ignored (R591). -/
def ringRoom (t : Tel) : Bool := t.wrap || decide ((t.tail - t.head).toNat < t.size.toNat)

/-- Write the records that have room, in order (R587, R588). -/
def traceRingPut : List TraceRec → State → State
  | [], s => s
  | r :: rest, s =>
    if !ringRoom s.tel then s
    else
      let t := s.tel
      let a := t.base + BitVec.ofNat 64 (32 * (t.tail.toNat % t.size.toNat))
      let s := { s with tel := { t with fifo := rest, tail := t.tail + 1 } }
      traceRingPut rest (s.hostWrite 0 a (traceBytes r))

/-- A ring write: the FIFO empties as far as there is room, a LOST record following what was dropped; a failed write stops the
trace (R591, R593). -/
def opRing (s : State) (ok : Bool) : State :=
  if !s.running || !s.areaOn areaTelemetry || !s.portOn portStaging || !s.tel.active || s.tel.fifo.isEmpty then s
  else if !ok then
    let s := s.traceDiscard true
    { s with tel := { s.tel with dmaErr := true } }
  else
    let s := traceRingPut s.tel.fifo s
    let s := if s.tel.run && decide (s.tel.fifo.length < 4080) then s.traceLost else s
    { s with tel := { s.tel with active := s.tel.run || !s.tel.fifo.isEmpty } }

/-- The MARKER record: HI, then LO, as one word (Table 21-4). -/
def markHi (s : State) (v : Word) : State :=
  let s := { s with tel := { s.tel with markHi := v } }
  s.trace 0x0A none none 0 0 (leBytes 4 s.tel.markLo.toNat ++ leBytes 4 v.toNat)

/-- The 100 µs timer of a held slot (R592). -/
def opTimeMark (s : State) (d : Slot) : State := if s.running then s.timeMark d else s

end State

def execTraceRunSet (s : State) : Host.Outcome State Fault Refusal := .next (if s.telOn then s.runSet else s)
def execTraceRunClear (s : State) : Host.Outcome State Fault Refusal := .next (if s.telOn then s.runClear else s)
def execTraceRingWrite (ok : Bool) (s : State) : Host.Outcome State Fault Refusal := .next (s.opRing ok)
def execMarker (value : Word) (s : State) : Host.Outcome State Fault Refusal := .next (if s.telOn then s.markHi value else s)
def execTimeMark (slot : Slot) (s : State) : Host.Outcome State Fault Refusal := .next (s.opTimeMark slot)

end Sys2Proof.Machine
end

