-- ==== Sys2Proof/Machine/RegDefs.lean ====
section
/-! DEFINITION. The registers of the window, first part: what a register is, and the Global, clocks, front end, function
window, mailbox, staging and life-cycle registers, each by its offset in its area. -/

namespace Sys2Proof.Machine

/-- A register as an access finds it (Table 22-3). -/
structure RegDef where
  /-- the snapshot a read returns; of a _HI register that a latch serves, the live value -/
  value : Word := 0
  /-- an RO register named _LO: the live value of its _HI register (R602) -/
  hi : Option Word := none
  /-- a _HI register that such a _LO latches -/
  latched : Bool := false
  /-- the owning chapter lets this function read it -/
  readable : Bool := true
  /-- none: no field can be written (R601). A write answers the state after it, or none where it is DENIED -/
  write : Option (Word → Option State) := none

/-- A word made of fields, each its lowest bit and its value. -/
def fields (xs : List (Nat × Nat)) : Word := xs.foldl (fun w x => w ||| BitVec.ofNat 32 (x.2 * 2 ^ x.1)) 0

/-- What a W1C write leaves of bits that start at `lo` in the word. -/
def w1c {n : Nat} (cur : BitVec n) (w : Word) (lo : Nat) : BitVec n := cur &&& ~~~ (w.extractLsb' lo n)
def w1cBit (cur : Bool) (w : Word) (b : Nat) : Bool := cur && !w.getLsbD b

def loWord (x : BitVec 64) : Word := x.setWidth 32
def hiWord (x : BitVec 64) : Word := x.extractLsb' 32 32
def putLo (x : BitVec 64) (w : Word) : BitVec 64 := (hiWord x) ++ w
def putHi (x : BitVec 64) (w : Word) : BitVec 64 := w ++ (loWord x)

def regRo (v : Word) : Option RegDef := some { value := v }
def regLo (x : BitVec 64) : Option RegDef := some { value := loWord x, hi := some (hiWord x) }
def regHi (x : BitVec 64) : Option RegDef := some { value := hiWord x, latched := true }
def regRw (v : Word) (f : Word → Option State) : Option RegDef := some { value := v, write := some f }

/-- A power of two from 2^a to 2^b. -/
def pow2In (a b : Nat) (w : Word) : Bool := (List.range (b + 1 - a)).any fun i => w.toNat == 2 ^ (a + i)

namespace State

/-! ### Global (Tables 22-5 to 22-10, 4-8) -/

def regGlobal (s : State) (fn : Fn) (off : Nat) : Option RegDef :=
  let g := s.glb
  let b := s.boot
  let pf (r : Option RegDef) : Option RegDef := r.map fun r =>
    if fn = 0 then r else { r with readable := false, write := none }
  if off = 0x00 then regRo 0x4B583A00
  else if off = 0x04 then
    regRo (fields [(3, g.mismatch.toNat), (2, g.imageChecked.toNat), (1, g.imageRole.toNat), (0, g.role.toNat)])
  else if off = 0x08 then
    pf (regRw (fields [(16, g.peCount.toNat), (1, g.peStaging.toNat), (0, g.peMc.toNat)]) fun w =>
      some { s with glb := { g with peStaging := w1cBit g.peStaging w 1, peMc := w1cBit g.peMc w 0 } })
  else if off = 0x0C then
    pf (regRw (fields [(31, g.plValid.toNat), (30, g.plPort.toNat), (25, g.plChan.toNat), (23, g.plSub.toNat),
      (0, g.plKind.toNat)]) fun w => some { s with glb := { g with plValid := w1cBit g.plValid w 31 } })
  else if off = 0x10 then
    regRo (fields [(24, b.failCode.toNat), (17, b.otpSvn.toNat), (10, b.imageSvn.toNat), (8, b.slot.toNat),
      (7, b.committed.toNat), (6, b.idRecordOk.toNat), (5, b.fallback.toNat), (0, b.step.toNat)])
  else if off = 0x14 then regRo b.seq
  else if off = 0x18 then regRo b.timeUs
  else if off = 0x20 then pf (regRo (fields [(0, g.errAddr.toNat)]))
  else if off = 0x24 then
    pf (regRw (fields [(31, g.eiValid.toNat), (10, g.eiWrite.toNat), (8, g.eiCode.toNat), (0, g.eiFn.toNat)]) fun w =>
      some { s with glb := { g with eiValid := w1cBit g.eiValid w 31 } })
  else none

/-! ### Clocks and enables (Tables 3-5 to 3-9, 13-6) -/

def calReg (s : State) (r : Region) : Option RegDef :=
  let c := s.cal r
  regRw (fields [(24, c.appliedCode.toNat), (20, c.mFull.toNat), (18, c.recTag.toNat), (16, c.recResult.toNat),
    (8, c.droopThr.toNat), (7, c.throttled.toNat), (6, c.warn.toNat), (0, c.warnCount.toNat)]) fun w =>
      some (s.setCal r { c with warn := w1cBit c.warn w 6 })

def linkClkReg (s : State) (l : LinkId) : Option RegDef :=
  let c := (s.link l).clk
  regRw (fields [(24, c.switchCount.toNat), (17, c.earlyUp.toNat), (16, c.forcedTx.toNat), (15, c.forcedRx.toNat),
    (14, c.txLock.toNat), (13, c.rxLock.toNat), (12, c.txSel.toNat), (11, c.rxSel.toNat), (0, c.rxFreq.toNat)]) fun w =>
      some (s.modLink l fun k => { k with clk := { c with
        earlyUp := w1cBit c.earlyUp w 17, forcedTx := w1cBit c.forcedTx w 16, forcedRx := w1cBit c.forcedRx w 15 } })

def regClocks (s : State) (off : Nat) : Option RegDef :=
  let c := s.clk
  if off = 0x00 then regRo (c.enArea.setWidth 32)
  else if off = 0x04 then regRo (c.enPort.setWidth 32)
  else if off = 0x08 then regRo c.enMc
  else if off = 0x0C then regRo (loWord c.enLink)
  else if off = 0x10 then regRo (hiWord c.enLink)
  else if 0x20 ≤ off ∧ off < 0x40 then regRo (c.enFn.extractLsb' (32 * ((off - 0x20) / 4)) 32)
  else if 0x100 ≤ off ∧ off < 0x200 then s.linkClkReg (BitVec.ofNat 6 ((off - 0x100) / 4))
  else if off = 0x200 then s.calReg .mem
  else if off = 0x204 then s.calReg .link
  else if off = 0x208 then s.calReg .svc
  else if off = 0x300 then regLo s.now
  else if off = 0x304 then regHi s.now
  else none

/-! ### Front end: shares, function states, virtual devices, faults -/

/-- KX_FE_SHARE (Table 15-13). -/
def shareReg (s : State) (f : Fn) (q : BitVec 3) : Option RegDef :=
  let h := s.shareOf f q
  regRw (fields [(24, h.weight.toNat), (12, h.rate.toNat), (0, h.burst.toNat)]) fun w =>
    if w.extractLsb' 24 8 = 0 ∨ w.extractLsb' 0 12 = 0 then none
    else some (s.modShare f q fun h => { h with
      weight := w.extractLsb' 24 8, rate := w.extractLsb' 12 12, burst := w.extractLsb' 0 12 })

def fnPhaseCode (p : FnPhase) : Nat :=
  match p with
  | .closed => 0
  | .opened => 1
  | .draining => 2
  | .drained => 3

/-- KX_FE_FN_STATE (Table 16-15). -/
def fnStateReg (s : State) (f : Fn) : Option RegDef :=
  let k := s.func f
  regRw (fields [(24, k.cqDropped.toNat), (17, (s.ctxsOfFn f).length), (3, k.drained.toNat), (2, k.flrPending.toNat),
    (0, fnPhaseCode k.phase)]) fun w => some (s.modFunc f fun k => { k with drained := w1cBit k.drained w 3 })

/-- KX_FE_VD_STATE, _MC, _LINK0, _LINK1 (Tables 17-8, 17-11). -/
def vdReg (s : State) (v : VdId) (sub : Nat) : Option RegDef :=
  let x := s.vdev v
  if sub = 0 then regRo (fields [(31, x.present.toNat), (30, x.slot.isSome.toNat), (27, (x.slot.getD 0).toNat),
    (16, popcount x.progs), (0, (x.keys &&& 0xFFFE).toNat)])
  else if sub = 4 then regRo x.chans
  else if sub = 8 then regRo (loWord x.links)
  else regRo (hiWord x.links)

/-- KX_FE_VD_REQ (R522): a nonzero op starts the request. -/
def vdReqReg (s : State) : Option RegDef :=
  regRw 0 fun w => if s.vd.busy then none else some (if (vdReqOf w).op = 0 then s else s.vdReqWrite (vdReqOf w))

def vdStatReg (s : State) : Option RegDef :=
  let v := s.vd
  regRw (fields [(31, v.busy.toNat), (30, v.done.toNat), (0, v.status.toNat)]) fun w =>
    some { s with vd := { v with done := w1cBit v.done w 30 } }

/-- KX_FLT_HEALTH (Table 18-11). -/
def healthWord (s : State) : Word :=
  let h := s.flt.health
  fields [(30, h.grade.toNat), (23, s.ratePct), (15, h.coldCore.toNat), (14, h.otpSpare.toNat), (13, s.keySpareUsed.toNat),
    (12, h.sramSpare.toNat), (11, s.anyLaneSpare.toNat), (10, s.anyLaneShort.toNat), (9, s.marginHigh.toNat),
    (8, s.anyThrottled.toNat), (7, s.ghashGone.toNat), (6, s.anyOutOfService.toNat), (4, h.request.toNat)]

/-- What the step of a register write carries beside the write: whether a reset or a transition that it begins completes, and the
level of role_sel where it becomes a Full Stop. A plain access completes, and does not carry the pin (log entry 52). -/
structure RegPins where
  completes : Bool := true
  role : Option (BitVec 1) := none
  deriving DecidableEq, Repr

/-- KX_FLT_RESET_REQ (R538, Table 18-12). -/
def resetReqWrite (s : State) (x : RegPins) (w : Word) : Option State :=
  let t : BitVec 10 := w.extractLsb' 0 10
  let lvl : BitVec 3 := w.extractLsb' 29 3
  if lvl = 1 then (if s.ctxExists t then some (s.requestComma t x.completes) else none)
  else if lvl = 2 then (if t.toNat ≤ 101 then some (s.requestSemicolon t.toNat x.completes) else none)
  else if lvl = 3 then (if s.vdExists t.toNat then some (s.requestColon (t.setWidth 6) x.completes) else none)
  else if lvl = 4 then
    (if w.extractLsb' 10 16 = (0x5253 : BitVec 16) ∧ t = 0 then
      some (s.fullStop causeHostRequest false x.role) else none)
  else none

def engReg (s : State) (e : Nat) : Option RegDef :=
  let g := s.eng e
  regRw (fields [(24, g.stallCount.toNat), (16, g.guiltyCount.toNat), (8, g.idleRun.toNat), (2, g.replaying.toNat),
    (1, g.resetting.toNat), (0, g.stalled.toNat)]) fun w => some (s.modEng e fun g => { g with stalled := w1cBit g.stalled w 0 })

def regFault (s : State) (x : RegPins) (off : Nat) : Option RegDef :=
  let f := s.flt
  if off = 0x00 then regRo s.healthWord
  else if off = 0x04 then
    regRw (f.stallSamples.setWidth 32) fun w =>
      if w.toNat % 256 < 4 then none else some { s with flt := { f with stallSamples := w.setWidth 8 } }
  else if off = 0x08 then regRw 0 (s.resetReqWrite x)
  else if off = 0x0C then
    regRo (fields [(29, f.last.level.toNat), (28, f.last.escalated.toNat), (20, f.last.cause.toNat), (0, f.last.target.toNat)])
  else if off = 0x10 then
    regRo (fields [(24, f.countComma.toNat), (16, f.countSemicolon.toNat), (8, f.countColon.toNat), (0, f.countFullStop.toNat)])
  else if off = 0x14 then
    regRw (f.event.setWidth 32) fun w => some { s with flt := { f with event := w1c f.event w 0 } }
  else if 0x100 ≤ off ∧ off < 0x298 then s.engReg ((off - 0x100) / 4)
  else none

def regFrontEnd (s : State) (x : RegPins) (off : Nat) : Option RegDef :=
  if 0x1000 ≤ off ∧ off < 0x3000 then
    let q := (off % 0x20) / 4
    if 1 ≤ q ∧ q ≤ 4 then s.shareReg (BitVec.ofNat 8 ((off - 0x1000) / 0x20)) (BitVec.ofNat 3 q) else none
  else if 0x3000 ≤ off ∧ off < 0x3400 then s.fnStateReg (BitVec.ofNat 8 ((off - 0x3000) / 4))
  else if off = 0x4000 then s.vdReqReg
  else if off = 0x4004 then s.vdStatReg
  else if 0x4100 ≤ off ∧ off < 0x4500 then s.vdReg (BitVec.ofNat 6 ((off - 0x4100) / 0x10)) (off % 0x10)
  else if 0x5000 ≤ off ∧ off < 0x6000 then s.regFault x (off - 0x5000)
  else none

/-! ### Function windows (Tables 15-11, 15-12) -/

def ringEmpty (r : Ring) : Bool := r.tail == r.head

/-- Base and size of a ring: writable while it is empty, aligned and in range (R441, R469). -/
def ringReg (r : Ring) (sub : Nat) (put : Ring → State) : Option RegDef :=
  if sub = 0 then regRw (loWord r.base) fun w =>
    if ringEmpty r ∧ w.toNat % 64 = 0 then some (put { r with base := putLo r.base w }) else none
  else if sub = 4 then regRw (hiWord r.base) fun w =>
    if ringEmpty r then some (put { r with base := putHi r.base w }) else none
  else regRw r.size fun w => if ringEmpty r && pow2In 4 16 w then some (put { r with size := w }) else none

def ctxPhaseCode (p : CtxPhase) : Nat :=
  match p with
  | .free => 0
  | .active => 1
  | .resetting => 2
  | .faulted => 3

/-- KX_FN_CTX_STAT (Table 15-12). -/
def ctxStatReg (s : State) (f : Fn) (loc : BitVec 6) : Option RegDef :=
  match s.ctxAt f loc with
  | none => regRw 0 fun _ => some s
  | some c =>
    let k := s.ctx c
    regRw (fields [(28, ctxPhaseCode k.phase), (20, k.cause.toNat), (14, k.ringErr.toNat), (13, k.cqFull.toNat),
      (0, c.toNat)]) fun w =>
        let s := s.setCtx c { k with ringErr := w1cBit k.ringErr w 14, cqFull := w1cBit k.cqFull w 13 }
        some (if w.getLsbD 15 then s.rearmCtx c else s)

def regBlock (s : State) (f : Fn) (loc : BitVec 6) (off : Nat) : Option RegDef :=
  let r := s.ringsAt f loc
  if off < 0x50 then
    let q : BitVec 3 := BitVec.ofNat 3 (off / 0x10)
    let x := sqOf r q
    if off % 0x10 = 0xC then regRw x.tail fun w => some (s.sqTail f loc q w)
    else ringReg x (off % 0x10) fun x => s.setRingsAt f loc (sqSet r q x)
  else if off = 0x5C then regRw r.cq.head fun w => some (s.cqHead f loc w)
  else if off < 0x60 then ringReg r.cq (off % 0x10) fun x => s.setRingsAt f loc { r with cq := x }
  else if off = 0x60 then s.ctxStatReg f loc
  else if off < 0x78 then regRo (sqOf r (BitVec.ofNat 3 ((off - 0x64) / 4))).head
  else if off = 0x78 then regRo r.cq.tail
  else none

/-- Busy time of a context's class up to now (R467). -/
def busyNow (s : State) (c : CtxId) (k : Nat) : BitVec 64 :=
  let b := Tab.get 0 (s.ctx c).busy k
  match s.fe.cmds.find? fun x => x.ctx == c && x.phase == .running && classOf x.opcode == k with
  | none => b
  | some x => b + (s.now - x.started)

/-- LOCAL bytes mapped by a context (R467). -/
def localBytes (s : State) (c : CtxId) : BitVec 64 :=
  ((s.objsOf c).filter fun e => !e.2.fabric).foldl (fun n e => n + e.2.size) 0

def regWindow (s : State) (f : Fn) (off : Nat) : Option RegDef :=
  let k := s.func f
  let sel := s.ctxAt f (k.qsel.setWidth 6)
  let busy := (sel.map fun c => s.busyNow c (k.qsel.toNat / 64)).getD 0
  let mem := (sel.map fun c => s.localBytes c).getD 0
  if off < 0x2000 then s.regBlock f (BitVec.ofNat 6 (off / 0x80)) (off % 0x80)
  else if off = 0x2000 then
    regRw (k.qsel.setWidth 32) fun w =>
      if 4 < w.toNat / 64 % 8 then none else some (s.modFunc f fun k => { k with qsel := w.setWidth 9 })
  else if off = 0x2004 then regLo busy
  else if off = 0x2008 then regHi busy
  else if off = 0x200C then regLo mem
  else if off = 0x2010 then regHi mem
  else if off = 0x2014 then regRo (BitVec.ofNat 32 ((sel.map fun c => s.objCount c).getD 0))
  else none

/-! ### Mailboxes (Tables 16-10 to 16-12) -/

def modMbx (s : State) (f : Fn) (g : Mbx → Mbx) : State := s.modFunc f fun k => { k with mbx := g k.mbx }

/-- The doorbell (R473); the phase it is rung in stays with the request (Table 16-8). -/
def doorbell (s : State) (f : Fn) : State :=
  let opened := (s.func f).phase == .opened
  s.modMbx f fun m => { m with busy := true, taken := opened }

def regMailbox (s : State) (f : Fn) (off : Nat) : Option RegDef :=
  let m := (s.func f).mbx
  let rw (v : Word) (ok : Word → Bool) (g : Word → Mbx → Mbx) : Option RegDef :=
    regRw v fun w => if m.busy || !ok w then none else some (s.modMbx f (g w))
  let align (w : Word) : Bool := w.toNat % 16 == 0
  let len (w : Word) : Bool := decide (16 ≤ w.toNat) && decide (w.toNat ≤ 65536)
  if off = 0x00 then rw (loWord m.req) align fun w m => { m with req := putLo m.req w }
  else if off = 0x04 then rw (hiWord m.req) (fun _ => true) fun w m => { m with req := putHi m.req w }
  else if off = 0x08 then rw (m.reqLen.setWidth 32) len fun w m => { m with reqLen := w.setWidth 17 }
  else if off = 0x0C then rw (loWord m.rsp) align fun w m => { m with rsp := putLo m.rsp w }
  else if off = 0x10 then rw (hiWord m.rsp) (fun _ => true) fun w m => { m with rsp := putHi m.rsp w }
  else if off = 0x14 then rw (m.rspMax.setWidth 32) len fun w m => { m with rspMax := w.setWidth 17 }
  else if off = 0x18 then
    regRw (m.vector.setWidth 32) fun w =>
      if m.busy then none
      else
        let s := s.modMbx f fun m => { m with vector := w.setWidth 11 }
        some (if w.getLsbD 15 then s.doorbell f else s)
  else if off = 0x1C then
    regRw (fields [(31, m.busy.toNat), (30, m.done.toNat), (0, m.status.toNat)]) fun w =>
      some (s.modMbx f fun m => { m with done := w1cBit m.done w 30 })
  else if off = 0x20 then regRo (m.rspLen.setWidth 32)
  else none

/-! ### Staging and Service lanes (R503, Tables 16-13, 16-14, 7-10) -/

/-- KX_MC_LANE_RET, KX_LK_LANE_RET, KX_SVC_LANE_RET and the status beside it (Tables 7-11, 7-12). -/
def laneReg (s : State) (k : ClusterId) (stat : Bool) : Option RegDef :=
  let c := s.laneCluster k
  if !stat then regRo (c.retired.setWidth 32)
  else
    regRw (fields [(24, c.mismatchCount.toNat), (16, c.patrolFailCount.toNat), (11, activeCount c), (9, popcount c.spare),
      (5, c.ghashRetired.toNat), (4, (outOfService k c).toNat), (3, c.burst.toNat), (2, c.patrolSkipped.toNat),
      (1, c.patrolFail.toNat), (0, c.mismatch.toNat)]) fun w =>
        some (s.setCluster k { c with burst := w1cBit c.burst w 3, patrolSkipped := w1cBit c.patrolSkipped w 2,
                                      patrolFail := w1cBit c.patrolFail w 1, mismatch := w1cBit c.mismatch w 0 })

def sessReg (s : State) (f : Fn) : Option RegDef :=
  let z := s.sessOf f
  let gen (dir : Nat) : Nat := (s.row (rowStage f dir)).gen.toNat % 256
  regRw (fields [(31, z.opened.toNat), (28, z.slot.toNat), (27, z.thrOut.toNat), (26, z.thrIn.toNat),
    (25, z.rekeyOut.isSome.toNat), (24, z.rekeyIn.isSome.toNat), (16, gen 1), (8, gen 0), (0, z.pend.isSome.toNat)]) fun w =>
      some (s.modSess f fun z => { z with thrOut := w1cBit z.thrOut w 27, thrIn := w1cBit z.thrIn w 26 })

def regStaging (s : State) (off : Nat) : Option RegDef :=
  if off = 0 then
    regRw (s.fe.stgErrFn.setWidth 32) fun w =>
      let f : Fn := w.setWidth 8
      let t : State := { s with fe := { s.fe with stgErrFn := f } }
      some (if w.getLsbD 31 then t.hostErr f else t)
  else if 0x100 ≤ off ∧ off < 0x500 then s.sessReg (BitVec.ofNat 8 ((off - 0x100) / 4))
  else if off = 0xF000 then s.laneReg .svc false
  else if off = 0xF004 then s.laneReg .svc true
  else none

/-! ### Life cycle and debug (Tables 5-8 to 5-10) -/

def regLcd (s : State) (jtag : Bool) (x : RegPins) (off : Nat) : Option RegDef :=
  let l := s.lcd
  if off = 0 then
    regRo (fields [(7, l.completedPartial.toNat), (6, l.invalidPattern.toNat), (2, l.sparesUsed.toNat), (0, l.state.toNat)])
  else if off = 4 then
    regRw (fields [(8, l.reqStatus.toNat)]) fun w =>
      s.lcWrite jtag (w.extractLsb' 16 16) (w.extractLsb' 0 2) x.completes x.role
  else if off = 8 then
    regRw (fields [(4, l.unlockStep.toNat), (3, l.grantFailed.toNat), (2, l.nonce.isSome.toNat), (1, l.openAtStart.toNat),
      (0, l.debugOpen.toNat)]) fun w =>
        some { s with lcd := { l with grantFailed := w1cBit l.grantFailed w 3 } }
  else none

end State

end Sys2Proof.Machine
end

