-- ==== Sys2Proof/Machine/RegCore.lean ====
section
/-! DEFINITION. The registers of the window, second part: key store, domains, power and meters, island, memory, links, fabric,
reduction and telemetry, each by its offset in its area. -/

namespace Sys2Proof.Machine

namespace State

/-! ### Key store (Tables 6-8 to 6-11) -/

/-- KX_KEY_VIEW of a row. -/
def keyView (r : KeyRow) : Word :=
  let p : Nat := match r.parent with
    | .row q => q.toNat
    | .none => 0xFFF
    | .slotRoot _ => 0xFFF
  fields [(31, r.valid.toNat), (29, r.tense.toNat), (26, r.slot.toNat), (25, r.spared.toNat), (0, p)]

def regKeys (s : State) (off : Nat) : Option RegDef :=
  let k := s.keys
  let view (f : KeyRow → Word) : Word := if k.sel.toNat ≤ 2832 then f (s.row k.sel.toNat) else 0
  let use (r : KeyRow) : BitVec 64 := r.use.setWidth 64
  if off = 0x00 then
    regRo (fields [(16, k.sparesUsed.toNat), (4, (k.rows.filter fun e => e.2.valid).length), (0, (s.keyUsable 0).toNat)])
  else if off = 0x04 then regRw (k.event.setWidth 32) fun w => some { s with keys := { k with event := w1c k.event w 0 } }
  else if off = 0x08 then regRw (k.sel.setWidth 32) fun w => some { s with keys := { k with sel := w.setWidth 12 } }
  else if off = 0x0C then regRo (view keyView)
  else if off = 0x10 then some { value := view fun r => loWord (use r), hi := some (view fun r => hiWord (use r)) }
  else if off = 0x14 then some { value := view fun r => hiWord (use r), latched := true }
  else if off = 0x18 then regRo (view fun r => r.gen)
  else none

/-! ### Domains (Tables 12-19 to 12-22, 13-6, 13-8) -/

def domPhaseCode (p : DomPhase) : Nat :=
  match p with
  | .free => 0
  | .forming => 1
  | .joining => 2
  | .member => 3
  | .fragment => 4

/-- The whole ms left in the rejoin window (R395). -/
def rejoinMs (s : State) (d : Slot) : Nat :=
  match (s.dom d).rejoinEnds with
  | some e => if (s.dom d).phase = .fragment ∧ s.now < e then (e - s.now).toNat / 1000000 else 0
  | none => 0

/-- Domain Time as its register shows it: 0 in a slot that is free. -/
def domTimeReg (s : State) (d : Slot) : BitVec 64 := if s.slotHeld d then s.domTime d else 0

def regDomain (s : State) (d : Slot) (off : Nat) : Option RegDef :=
  let k := s.dom d
  let t := k.time
  let h := hallOf k.member
  if off = 0x00 then
    regRo (fields [(24, domPhaseCode k.phase), (23, k.activeSm.toNat), (22, k.activeHm.toNat), (21, k.sysCand.toNat),
      (20, k.hallCand.toNat), (0, k.member.toNat)])
  else if off = 0x04 then regRo k.epoch
  else if off = 0x08 then regRo k.round
  else if off = 0x0C then
    regRo (fields [(28, k.votes.toNat), (24, k.quorum.toNat), (16, k.halls.toNat), (15, k.verifier.toNat)])
  else if off = 0x10 then regRo (BitVec.ofNat 32 (s.rejoinMs d))
  else if off = 0x14 then
    regRw (k.event.setWidth 32) fun w => some (s.modDom d fun k => { k with event := w1c k.event w 0 })
  else if off = 0x18 then
    regRo (fields [(0, if s.inDomain d && s.managesHall d h then Nat.min (s.censusCount d h 1) 0x3FFFF else 0)])
  else if off = 0x1C then regLo (s.domTimeReg d)
  else if off = 0x20 then regHi (s.domTimeReg d)
  else if off = 0x24 then
    regRw (fields [(31, t.locked.toNat), (30, t.stepped.toNat), (26, t.stratum.toNat), (6, t.parent.toNat),
      (0, t.parentLink.toNat)]) fun w =>
        some (s.modDom d fun k => { k with time := { k.time with stepped := w1cBit k.time.stepped w 30 } })
  else none

/-! ### Power and meters (Tables 19-9 to 19-12) -/

/-- A context of the function. -/
def ownCtx (s : State) (f : Fn) (c : CtxId) : Bool := (s.ctx c).phase != .free && (s.ctx c).fn == f

/-- A slot of one of the function's contexts (R560). -/
def ownSlot (s : State) (f : Fn) (d : Slot) : Bool := (s.ctxsOfFn f).any fun c => s.ctxSlot c == some d

/-- The registers a VF is admitted to (R570). -/
def powerVf (off : Nat) (write : Bool) : Bool :=
  if write then off == 0x200
  else off == 0x200 || off == 0x204 || off == 0x208 || off == 0x210 || off == 0x214 ||
    (decide (0x1000 ≤ off) && decide (off < 0x1800) && (off % 0x100 == 0x30 || off % 0x100 == 0x34))

def regMeter (s : State) (fn : Fn) (d : Slot) (off : Nat) : Option RegDef :=
  let x := s.mtr d
  let own (r : Option RegDef) : Option RegDef := r.map fun r =>
    if fn = 0 ∨ s.ownSlot fn d then r else { r with readable := false }
  let rw (v : Word) (g : Word → Mtr → Mtr) : Option RegDef := regRw v fun w => some (s.modMtr d (g w))
  if off = 0x00 then
    regRw (fields [(31, x.pendingT.isSome.toNat), (30, x.rptDropped.toNat), (29, (meterSat x || x.sat).toNat),
      (0, x.status.toNat)]) fun w => some (s.setMtr d { x with rptDropped := w1cBit x.rptDropped w 30 })
  else if off = 0x04 then rw (loWord x.bound) fun w x => { x with bound := putLo x.bound w }
  else if off = 0x08 then rw (hiWord x.bound) fun w x => { x with bound := putHi x.bound w }
  else if off = 0x0C then rw (loWord x.utc) fun w x => { x with utc := putLo x.utc w }
  else if off = 0x10 then rw (hiWord x.utc) fun w x => { x with utc := putHi x.utc w }
  else if off = 0x14 then
    regRw x.period fun w => if 86400000 < w.toNat then none else some (s.setMtr d { x with period := w })
  else if off = 0x18 then regRw 0 fun w => some (if w.getLsbD 0 then s.meterGo d else s)
  else if off = 0x20 then
    regRw (loWord x.rpt) fun w => if w.toNat % 4096 = 0 then some (s.setMtr d { x with rpt := putLo x.rpt w }) else none
  else if off = 0x24 then rw (hiWord x.rpt) fun w x => { x with rpt := putHi x.rpt w }
  else if off = 0x28 then regLo x.last
  else if off = 0x2C then regHi x.last
  else if off = 0x30 then own (regLo x.energy)
  else if off = 0x34 then own (regHi x.energy)
  else none

def regPower (s : State) (fn : Fn) (off : Nat) : Option RegDef :=
  let p := s.pwr
  let sel := (s.func fn).pwrSel
  let own (r : Option RegDef) : Option RegDef := r.map fun r =>
    if fn = 0 ∨ s.ownCtx fn sel then r else { r with readable := false }
  let thr (k : Nat) : BitVec 64 := Tab.get 0 s.thrNow k
  if off = 0x00 then
    regRw (fields [(16, p.zeroCount.toNat), (4, p.inForce.toNat), (3, p.budDropped.toNat), (2, p.budSkipped.toNat),
      (1, p.limUnmet.toNat), (0, p.limClamped.toNat)]) fun w =>
        some { s with pwr := { p with budDropped := w1cBit p.budDropped w 3, budSkipped := w1cBit p.budSkipped w 2,
                                      limUnmet := w1cBit p.limUnmet w 1, limClamped := w1cBit p.limClamped w 0 } }
  else if off = 0x04 then
    regRw (fields [(8, p.budStep.toNat), (0, p.windowUs.toNat)]) fun w =>
      let n := w.toNat % 32
      if n = 0 ∨ 16 < n then none
      else some { s with pwr := { p with budStep := w.extractLsb' 8 12, windowUs := BitVec.ofNat 5 n } }
  else if off = 0x08 then regRo (fields [(16, p.measVkx.toNat), (0, p.measVkm.toNat)])
  else if 0x100 ≤ off ∧ off < 0x130 then
    (if off % 8 = 0 then regLo (thr ((off - 0x100) / 8)) else regHi (thr ((off - 0x100) / 8)))
  else if off = 0x200 then
    regRw (sel.setWidth 32) fun w =>
      if fn = 0 ∨ s.ownCtx fn (w.setWidth 10) then some (s.modFunc fn fun k => { k with pwrSel := w.setWidth 10 }) else none
  else if off = 0x204 then own (regLo (s.ctx sel).energy)
  else if off = 0x208 then own (regHi (s.ctx sel).energy)
  else if off = 0x210 then regLo p.blkEnergy
  else if off = 0x214 then regHi p.blkEnergy
  else if 0x1000 ≤ off ∧ off < 0x1800 then s.regMeter fn (BitVec.ofNat 3 ((off - 0x1000) / 0x100)) (off % 0x100)
  else none

/-! ### Island (Tables 20-4, 20-6 to 20-8) -/

/-- KX_ISL_TAMP_CFG: DENIED while lock is set, and with action 3 (R582, Table 20-2). -/
def tampCfgReg (s : State) (i : BitVec 2) : Option RegDef :=
  let t := s.tamper i
  regRw (fields [(8, t.action.toNat), (2, t.filter.toNat), (1, t.activeHigh.toNat), (0, t.enable.toNat)]) fun w =>
    if s.isl.lock ∨ w.toNat / 256 % 4 = 3 then none else some (s.islandWord i w.toNat)

def tampStatReg (s : State) (i : BitVec 2) : Option RegDef :=
  let t := s.tamper i
  regRw (fields [(8, t.count.toNat), (3, t.armPending.toNat), (2, t.activeNow.toNat), (1, t.masked.toNat),
    (0, t.latched.toNat)]) fun w => some (if w.getLsbD 4 then s.rearmDo i else s)

def regIsland (s : State) (off : Nat) : Option RegDef :=
  let i := s.isl
  if off = 0x00 then
    regRw (fields [(5, i.tamperAtStart.toNat), (4, i.cold.toNat), (3, i.onVbat.toNat), (2, i.lock.toNat),
      (0, i.keyState.toNat)]) fun w => some { s with isl := { i with cold := w1cBit i.cold w 4 } }
  else if off = 0x04 then
    regRw (fields [(0, i.lock.toNat)]) fun w =>
      let s := if w.getLsbD 1 then s.renewDo else s
      some (if w.getLsbD 0 then s.lockDo else s)
  else if 0x10 ≤ off ∧ off < 0x20 then s.tampCfgReg (BitVec.ofNat 2 ((off - 0x10) / 4))
  else if 0x20 ≤ off ∧ off < 0x30 then s.tampStatReg (BitVec.ofNat 2 ((off - 0x20) / 4))
  else if off = 0x30 then
    regRw (fields [(31, i.causeValid.toNat), (5, i.causePorLow.toNat), (4, i.causeOnVbat.toNat), (0, i.causeInputs.toNat)])
      fun w =>
        some (if w.getLsbD 31 then { s with isl := { i with causeValid := false, causePorLow := false, causeOnVbat := false,
                                                            causeInputs := 0, stamp := 0, stampCnt := 0 } } else s)
  else if off = 0x34 then regLo i.stamp
  else if off = 0x38 then regHi i.stamp
  else if off = 0x3C then regRo i.stampCnt
  else if off = 0x40 then regLo i.mono
  else if off = 0x44 then regHi i.mono
  else none

/-! ### Memory (Tables 8-6 to 8-12, 17-8, 7-10) -/

def regChan (s : State) (n : ChanId) (off : Nat) : Option RegDef :=
  let c := s.chan n
  if off = 0x00 then
    regRo (fields [(24, c.tagFail.toNat), (16, c.poisoned.toNat), (8, c.sweepTagFail.toNat), (0, c.corrected.toNat)])
  else if off = 0x04 then regRo (c.lines.setWidth 32)
  else if off = 0x08 then regRo c.fail0
  else if off = 0x0C then
    regRw (fields [(31, c.fValid.toNat), (27, c.fKey.toNat), (26, c.fDiffers.toNat), (10, c.fNoCtx.toNat),
      (0, c.fCtx.toNat)]) fun w => some (s.setChan n { c with fValid := w1cBit c.fValid w 31 })
  else if off = 0x10 then regRo (c.written.setWidth 32)
  else if 0x100 ≤ off ∧ off < 0x140 then regRo ((Tab.get 0 c.sweepPtr ((off - 0x100) / 4)).setWidth 32)
  else if off = 0xF00 then s.laneReg (.mc n) false
  else if off = 0xF04 then s.laneReg (.mc n) true
  else none

/-- KX_MEM_INDEX; index 0 reads assigned once the clear key is there (Table 8-11). -/
def memIndexWord (s : State) (i : KeyIdx) : Word :=
  let x := s.memIdx i
  let a := if i = 0 then s.keyUsable (rowMemKey 0 false) else x.assigned
  fields [(31, a.toNat), (28, x.slot.toNat), (27, x.sweeping.toNat), (26, x.urgent.toNat), (25, x.futureHeld.toNat),
    (0, x.sweepCount.toNat)]

def rangeReg (s : State) (r sub : Nat) : Option RegDef :=
  let p := Tab.get {} s.mem.ranges r
  if sub = 0 then regRo (p.base.setWidth 32)
  else if sub = 4 then regRo (p.limit.setWidth 32)
  else if sub = 8 then regRo (fields [(1, p.owner.toNat), (0, p.enable.toNat)])
  else none

def regMemRegion (s : State) (off : Nat) : Option RegDef :=
  let m := s.mem
  if off = 0x00 then regRw (m.share.setWidth 32) fun w => some { s with mem := { m with share := w.setWidth 2 } }
  else if off = 0x04 then regRw (m.alarm.setWidth 32) fun w => some { s with mem := { m with alarm := w1c m.alarm w 0 } }
  else if off = 0x08 then regRo (fields [(16, m.highWater.toNat), (0, m.fence.length)])
  else if 0x40 ≤ off ∧ off < 0x80 then regRo (s.memIndexWord (BitVec.ofNat 4 ((off - 0x40) / 4)))
  else if 0x1000 ≤ off ∧ off < 0x1400 then s.rangeReg ((off - 0x1000) / 0x10) (off % 0x10)
  else none

/-! ### Links (Tables 9-16 to 9-21, 13-6, 13-7, 14-7, 7-10) -/

/-- KX_LK_GATE_STAT (R422): the latest end among the gates, and the classes closed. -/
def gateStat (s : State) (gs : List Gate) : Word :=
  let us (g : Gate) : Nat := match g.ends with
    | none => 65535
    | some e => if s.now < e then Nat.min ((e - s.now).toNat / 1000) 65535 else 0
  let closed (c : Nat) : Nat := (gs.any fun g => g.classes.getLsbD c).toNat
  fields [(16, gs.foldl (fun m g => Nat.max m (us g)) 0), (3, closed 3), (2, closed 2), (1, closed 1)]

def regLink (s : State) (l : LinkId) (off : Nat) : Option RegDef :=
  let k := s.link l
  let c := k.core
  let t := k.tc0
  if off = 0x00 then
    regRo (fields [(24, c.lastEnd.toNat), (21, c.slot.toNat), (16, (unsettledOf k).length), (0, (linkPhaseCode c.phase).toNat)])
  else if off = 0x04 then regRo (fields [(31, c.pValid.toNat), (20, c.pLink.toNat), (0, c.pMember.toNat)])
  else if off = 0x08 then
    regRo (fields [(24, c.abortSent.toNat), (16, c.abortRcvd.toNat), (8, c.agreeCount.toNat), (2, c.initiator.toNat),
      (0, c.attempt.toNat)])
  else if off = 0x0C then
    regRw (c.event.setWidth 32) fun w =>
      some (s.modLink l fun k => { k with core := { c with event := w1c c.event w 0 } })
  else if off = 0x10 then regRo (fields [(16, c.repudiates.toNat), (0, c.tagFails.toNat)])
  else if off = 0x14 then
    regRo (fields [(24, c.formats.toNat), (16, c.windows.toNat), (8, c.keyGens.toNat), (0, c.destBads.toNat)])
  else if off = 0x18 then
    regRo (fields [(31, c.tombLive.toNat), (27, c.reappear.toNat), (20, c.tombLink.toNat), (0, c.tombMember.toNat)])
  else if off = 0x1C then regRo (fields [(24, t.gateReason.toNat), (0, t.gateSrc.toNat)])
  else if off = 0x20 then
    regRo (fields [(24, t.bad.toNat), (16, t.haltRefused.toNat), (8, t.hopDrop.toNat), (0, t.routeMiss.toNat)])
  else if off = 0x24 then regRo (s.gateStat t.gates)
  else if off = 0x28 then regRo (fields [(24, k.fabStray.toNat), (0, k.fabOut.length)])
  else if off = 0xF00 then s.laneReg (.lk l) false
  else if off = 0xF04 then s.laneReg (.lk l) true
  else none

/-! ### Fabric (Tables 14-7, 14-8) -/

def regFabric (s : State) (off : Nat) : Option RegDef :=
  let f := s.fab
  if off = 0x00 then regRo (fields [(16, f.cache.length / 4), (0, f.misses.length)])
  else if off = 0x04 then regRw (f.event.setWidth 32) fun w => some { s with fab := { f with event := w1c f.event w 0 } }
  else if off = 0x08 then
    regRo (fields [(24, f.entryBad.toNat), (16, f.trailing.toNat), (8, f.ownership.toNat), (0, f.rights.toNat)])
  else if 0x100 ≤ off ∧ off < 0x180 then
    let k := s.dom (BitVec.ofNat 3 ((off - 0x100) / 0x10))
    if off % 0x10 = 0 then regRo k.tblBase
    else if off % 0x10 = 4 then regRo (fields [(22, k.tblKey.toNat), (0, k.tblPages.toNat)])
    else none
  else none

/-! ### Reduction (Tables 11-15 to 11-20) -/

def progPhaseCode (p : ProgPhase) : Nat :=
  match p with
  | .free => 0
  | .loaded => 1
  | .running => 2
  | .ended => 3

def regProg (s : State) (p : ProgId) (sub : Nat) : Option RegDef :=
  let x := s.prog p
  if sub = 0 then
    regRw (fields [(30, progPhaseCode x.phase), (24, x.iters.length), (16, x.lastFault.toNat), (8, x.doneLo.toNat),
      (4, x.lateCount.toNat), (3, x.held.toNat), (2, x.arithInvalid.toNat), (1, x.arithOvf.toNat), (0, x.fault.toNat)])
      fun w => some (s.setProg p { x with held := w1cBit x.held w 3, arithInvalid := w1cBit x.arithInvalid w 2,
                                          arithOvf := w1cBit x.arithOvf w 1, fault := w1cBit x.fault w 0 })
  else if sub = 4 then regRo (fields [(16, x.slot.toNat), (10, ((s.progVd p).getD 0).toNat), (0, x.ctx.toNat)])
  else if sub = 8 then regRo (fields [(16, x.skewNs.toNat), (0, x.skewStage.toNat)])
  else regRo (x.slow.setWidth 32)

def regReduction (s : State) (off : Nat) : Option RegDef :=
  let r := s.red
  if off = 0x00 then
    regRo (fields [(23, (r.progs.filter fun e => e.2.phase != .free).length), (0, r.unitsFree.toNat)])
  else if off = 0x04 then regRw (r.event.setWidth 32) fun w => some { s with red := { r with event := w1c r.event w 0 } }
  else if 0x1000 ≤ off ∧ off < 0x2000 then s.regProg (BitVec.ofNat 8 ((off - 0x1000) / 0x10)) (off % 0x10)
  else none

/-! ### Telemetry (Tables 21-2, 21-6 to 21-8) -/

/-- base, size and wrap can be written (R587). -/
def traceIdle (t : Tel) : Bool := !t.run && !t.active

/-- KX_TEL_TRACE_CTL: a write that changes wrap while the trace runs is DENIED (R587; DEDUCED, log entry 53). -/
def traceCtl (s : State) (w : Word) : Option State :=
  let t := s.tel
  if w.getLsbD 1 != t.wrap && !traceIdle t then none
  else
    let s := { s with tel := { t with wrap := w.getLsbD 1 } }
    some (if w.getLsbD 0 then s.runSet else if t.run then s.runClear else s)

def regTel (s : State) (off : Nat) : Option RegDef :=
  let t := s.tel
  let idle (v : Word) (ok : Word → Bool) (g : Word → Tel) : Option RegDef :=
    regRw v fun w => if traceIdle t && ok w then some { s with tel := g w } else none
  if off = 0x00 then regRw (fields [(1, t.wrap.toNat), (0, t.run.toNat)]) s.traceCtl
  else if off = 0x04 then
    regRw (fields [(8, t.lost.toNat), (2, t.dmaErr.toNat), (1, t.overflow.toNat), (0, t.active.toNat)]) fun w =>
      some { s with tel := { t with dmaErr := w1cBit t.dmaErr w 2, overflow := w1cBit t.overflow w 1 } }
  else if off = 0x08 then idle (loWord t.base) (fun w => w.toNat % 4096 == 0) fun w => { t with base := putLo t.base w }
  else if off = 0x0C then idle (hiWord t.base) (fun _ => true) fun w => { t with base := putHi t.base w }
  else if off = 0x10 then idle t.size (pow2In 7 25) fun w => { t with size := w }
  else if off = 0x14 then regRw t.head fun w => some { s with tel := { t with head := w } }
  else if off = 0x18 then regRo t.tail
  else if off = 0x1C then
    regRw (t.typeMask.setWidth 32) fun w => some { s with tel := { t with typeMask := w.setWidth 12 &&& 0xFFE } }
  else if off = 0x20 then
    regRw (fields [(31, t.filterEn.toNat), (0, t.filterCtx.toNat)]) fun w =>
      some { s with tel := { t with filterEn := w.getLsbD 31, filterCtx := w.setWidth 10 } }
  else if off = 0x24 then regRw t.markLo fun w => some { s with tel := { t with markLo := w } }
  else if off = 0x28 then regRw t.markHi fun w => some (s.markHi w)
  else if 0x100 ≤ off ∧ off < 0x140 then
    let c := Tab.get 0 t.counters ((off - 0x100) / 8)
    if off % 8 = 0 then regLo c else regHi c
  else none

end State

end Sys2Proof.Machine
end

