-- ==== Sys2Proof/Machine/Registers.lean ====
section
/-! DEFINITION. The register port: the areas of Table 22-1, the decision of Table 22-2, access types (R600 to R602), the error
capture (R609); DBG_ACCESS (R71, R156, R597). -/

namespace Sys2Proof.Machine

/-- The areas of Table 22-1. -/
inductive RegArea where
  | globalArea
  | frontEnd
  | keyStore
  | domains
  | power
  | island
  | clocks
  | chan (n : ChanId)
  | memRegion
  | linkArea (l : LinkId)
  | fabric
  | reduction
  | staging
  | telemetry
  | window (f : Fn)
  | mailbox (f : Fn)
  | lcd
  deriving DecidableEq, Repr

/-- The area an address lies in, with the offset in it (Table 22-1). -/
def regAreaOf (a : Nat) : Option (RegArea × Nat) :=
  let h := a / 0x10000
  let o := a % 0x10000
  if h = 0x00 then some (.globalArea, o)
  else if h = 0x01 then some (.frontEnd, o)
  else if h = 0x02 then some (.keyStore, o)
  else if h = 0x03 then some (.domains, o)
  else if h = 0x04 then some (.power, o)
  else if h = 0x05 then some (.island, o)
  else if h = 0x06 then some (.clocks, o)
  else if 0x10 ≤ h ∧ h ≤ 0x11 then some (.chan (BitVec.ofNat 5 ((a - 0x100000) / 0x1000)), a % 0x1000)
  else if h = 0x18 then some (.memRegion, o)
  else if 0x20 ≤ h ∧ h ≤ 0x23 then some (.linkArea (BitVec.ofNat 6 ((a - 0x200000) / 0x1000)), a % 0x1000)
  else if h = 0x24 then some (.fabric, o)
  else if h = 0x30 then some (.reduction, o)
  else if h = 0x38 then some (.staging, o)
  else if h = 0x3C then some (.telemetry, o)
  else if 0x40 ≤ h ∧ h ≤ 0x7F then some (.window (BitVec.ofNat 8 ((a - 0x400000) / 0x4000)), a % 0x4000)
  else if 0x80 ≤ h ∧ h ≤ 0x8F then some (.mailbox (BitVec.ofNat 8 ((a - 0x800000) / 0x1000)), a % 0x1000)
  else if h = 0xF0 then some (.lcd, o)
  else none

/-- The functions admitted to an area (Table 22-1, order 4 of Table 22-2). -/
def regAdmits (fn : Fn) (write : Bool) (a : RegArea) (off : Nat) : Bool :=
  match a with
  | .globalArea => true
  | .power => fn == 0 || State.powerVf off write
  | .window f => fn == f || (fn == 0 && !write)
  | .mailbox f => fn == f
  | .lcd => fn == 0 || !write
  | _ => fn == 0

namespace State

/-- The governing enable of an area (order 5). -/
def regAreaOn (s : State) (a : RegArea) : Bool :=
  match a with
  | .globalArea => true
  | .clocks => true
  | .frontEnd => s.areaOn areaFrontEnd
  | .keyStore => s.areaOn areaKeystore
  | .domains => s.areaOn areaDomain
  | .power => s.areaOn areaPower
  | .island => s.areaOn areaIsland
  | .chan n => s.mcOn n
  | .memRegion => s.clk.enMc != 0
  | .linkArea l => s.linkOn l
  | .fabric => s.poolRole && s.clk.enLink != 0
  | .reduction => s.areaOn areaReduction && !s.poolRole
  | .staging => s.areaOn areaStaging
  | .telemetry => s.areaOn areaTelemetry
  | .window f => s.fnOn f
  | .mailbox f => s.areaOn areaMailbox && s.fnOn f
  | .lcd => s.areaOn areaLcd

/-- The register at an offset of an area, as a function finds it; none where there is none (order 6). -/
def regAt (s : State) (fn : Fn) (jtag : Bool) (x : RegPins) (a : RegArea) (off : Nat) : Option RegDef :=
  match a with
  | .globalArea => s.regGlobal fn off
  | .clocks => s.regClocks off
  | .frontEnd => s.regFrontEnd x off
  | .keyStore => s.regKeys off
  | .domains => if off < 0x200 then s.regDomain (BitVec.ofNat 3 (off / 0x40)) (off % 0x40) else none
  | .power => s.regPower fn off
  | .island => s.regIsland off
  | .chan n => s.regChan n off
  | .memRegion => s.regMemRegion off
  | .linkArea l => s.regLink l off
  | .fabric => s.regFabric off
  | .reduction => s.regReduction off
  | .staging => s.regStaging off
  | .telemetry => s.regTel off
  | .window f => s.regWindow f off
  | .mailbox f => s.regMailbox f off
  | .lcd => s.regLcd jtag x off

/-- An access decided: the state after it, the response code and data, and whether a code other than OKAY is captured. -/
structure RegAnswer where
  state : State
  code : BitVec 2
  data : Word
  captured : Bool := true

def regRefuse (s : State) (code : BitVec 2) : RegAnswer := { state := s, code := code, data := 0xFFFFFFFF }

/-- The key of a function's latch of a _HI register (R602). -/
def latchKey (fn : Fn) (addr : Nat) : Nat := fn.toNat * 2 ^ 24 + addr

/-- A read: the snapshot; of a latched _HI register what its latch holds; an RO _LO register latches its _HI, which lies 4
above it (R602). -/
def regReadDo (s : State) (fn : Fn) (addr : Nat) (r : RegDef) : RegAnswer :=
  let v := if r.latched then (Tab.get none s.glb.latches (latchKey fn addr)).getD r.value else r.value
  match r.hi with
  | none => { state := s, code := rcOkay, data := v }
  | some h =>
    let g := s.glb
    { state := { s with glb := { g with latches := Tab.set none g.latches (latchKey fn (addr + 4)) (some h) } },
      code := rcOkay, data := v }

/-- Orders 7 and 8: the access type and the owning chapter. The response to a write carries data 0, which Table 2-3 leaves open (DESIGN
CHOICE, log entry 136). -/
def regAccess (s : State) (fn : Fn) (write : Bool) (addr : Nat) (w : Word) (r : RegDef) : RegAnswer :=
  if !write then (if r.readable then s.regReadDo fn addr r else s.regRefuse rcDenied)
  else match r.write with
    | none => s.regRefuse rcDenied
    | some f => match f w with
      | none => s.regRefuse rcDenied
      | some t => { state := t, code := rcOkay, data := 0 }

/-- After a failed start, and in an Ellipsis, only the Global area answers, and the areas R131 leaves enabled (R547). -/
def regShut (s : State) (a : Option (RegArea × Nat)) : Bool :=
  let open' : Bool := match a with
    | some (.globalArea, _) => true
    | some (.lcd, _) => s.sys.phase == .failed && s.areaOn areaLcd
    | _ => false
  (s.sys.phase == .failed || s.sys.phase == .ellipsis) && !open'

/-- Table 22-2. -/
def regDecide (s : State) (fn : Fn) (jtag write : Bool) (x : RegPins) (addr : Nat) (w : Word) : RegAnswer :=
  if addr % 4 ≠ 0 then s.regRefuse rcDecode
  else if s.sys.phase = .fullStop then { s.regRefuse rcOff with captured := false }
  else if s.regShut (regAreaOf addr) then s.regRefuse rcOff
  else match regAreaOf addr with
  | none => s.regRefuse rcDecode
  | some (a, off) =>
    if !regAdmits fn write a off then s.regRefuse rcDenied
    else if !s.regAreaOn a then s.regRefuse rcOff
    else match s.regAt fn jtag x a off with
    | none => s.regRefuse rcDecode
    | some r => s.regAccess fn write addr w r

/-- The capture of R609: the first access that receives a code other than OKAY. -/
def regCapture (s : State) (fn : Fn) (write : Bool) (addr : BitVec 24) (code : BitVec 2) : State :=
  let g := s.glb
  if g.eiValid then s
  else { s with glb := { g with eiValid := true, eiWrite := write, eiCode := code, eiFn := fn, errAddr := addr } }

/-- An access at the head of the queue, and its answer. -/
def regDo (s : State) (fn : Fn) (jtag write : Bool) (x : RegPins) (addr : BitVec 24) (w : Word) : RegAnswer :=
  let r := s.regDecide fn jtag write x addr.toNat w
  if r.code = rcOkay ∨ !r.captured then r else { r with state := r.state.regCapture fn write addr r.code }

/-- The register port takes requests: its enable, or the states in which Table 22-2 and R547 answer without it. -/
def regTakes (s : State) : Bool :=
  match s.sys.phase with
  | .held => false
  | .settle => false
  | .waitRef => false
  | .fullStop => true
  | .ellipsis => true
  | .running => s.portOn portReg
  | .failed => s.portOn portReg

/-- R598. A request that is not accepted stays with the surroundings. -/
def opReg (s : State) (fn : Fn) (write : Bool) (x : RegPins) (addr : BitVec 24) (w : Word) : State :=
  if s.regTakes then
    let r := s.regDo fn false write x addr w
    r.state.out (.regRsp r.data r.code)
  else s

/-! ### DBG_ACCESS -/

/-- Whether the debug port reaches an access; none where it behaves as BYPASS (R71, R597, Table 5-1). Until step 4 has decoded the
life-cycle word no state of Table 5-1 holds, and the port is BYPASS. -/
def dbgReach (s : State) (write : Bool) (addr : Nat) : Option Bool :=
  let lcd : Bool := match regAreaOf addr with
    | some (.lcd, _) => true
    | _ => false
  if !s.running ∧ s.sys.phase ≠ .failed then none
  else if s.debugReaches .window then some true
  else if !s.lcd.decoded then none
  else if s.lcd.state = 0 then some lcd
  else if s.lcd.state = 3 then some (lcd && !write)
  else none

/-- R597: checked as an access of the PF; outside its reach it receives DENIED. -/
def opDbg (s : State) (write : Bool) (x : RegPins) (addr : BitVec 24) (w : Word) : State :=
  match s.dbgReach write addr.toNat with
  | none => s.out .dbgBypass
  | some false => (s.regCapture 0 write addr rcDenied).out (.dbgRsp 0xFFFFFFFF rcDenied)
  | some true =>
    let r := s.regDo 0 true write x addr w
    r.state.out (.dbgRsp r.data r.code)

/-! ### IDCODE -/

/-- The IDCODE register: version 0x3, part number 0x4B58, the integrator's manufacturer field, 1. -/
def idcode : Word := 0x34B58001 ||| (Config.jtagMfr.setWidth 32 <<< 1)

/-! ### Rows that are register writes with what they carry -/

/-- A PF write of KX_FLT_RESET_REQ (R538). -/
def opResetReq (s : State) (lvl : BitVec 3) (confirm : BitVec 16) (target : BitVec 10) (x : RegPins) : State :=
  s.opReg 0 true x 0x015008 (fields [(29, lvl.toNat), (10, confirm.toNat), (0, target.toNat)])

/-- A write of KX_LCD_REQ through the register port or DBG_ACCESS (R140). -/
def opLc (s : State) (jtag : Bool) (fn : Fn) (confirm : BitVec 16) (target : BitVec 2) (x : RegPins) : State :=
  let w := fields [(16, confirm.toNat), (0, target.toNat)]
  if jtag then s.opDbg true x 0xF00004 w else s.opReg fn true x 0xF00004 w

end State

def execRegisterWrite (fn : Fn) (write : Bool) (addr : BitVec 24) (data : Word) (s : State) :
    Host.Outcome State Fault Refusal := settled (s.opReg fn write {} addr data)
def execDbgAccess (write : Bool) (addr : BitVec 24) (data : Word) (s : State) : Host.Outcome State Fault Refusal :=
  settled (s.opDbg write {} addr data)
def execResetReqComma (target : CtxId) (completes : Bool) (s : State) : Host.Outcome State Fault Refusal :=
  settled (s.opResetReq lvlComma 0 target { completes := completes })
def execResetReqSemicolon (target : BitVec 10) (completes : Bool) (s : State) : Host.Outcome State Fault Refusal :=
  settled (s.opResetReq lvlSemicolon 0 target { completes := completes })
def execResetReqColon (target : BitVec 10) (completes : Bool) (s : State) : Host.Outcome State Fault Refusal :=
  settled (s.opResetReq lvlColon 0 target { completes := completes })
def execResetReqFullStop (confirm : BitVec 16) (target : BitVec 10) (roleSel : BitVec 1) (s : State) :
    Host.Outcome State Fault Refusal := .next (s.opResetReq lvlFullStop confirm target { role := some roleSel })
def execLcToTest (jtag : Bool) (fn : Fn) (confirm : BitVec 16) (roleSel : BitVec 1) (s : State) :
    Host.Outcome State Fault Refusal := .next (s.opLc jtag fn confirm 1 { role := some roleSel })
def execLcToProduction (jtag : Bool) (fn : Fn) (confirm : BitVec 16) (roleSel : BitVec 1) (s : State) :
    Host.Outcome State Fault Refusal := .next (s.opLc jtag fn confirm 2 { role := some roleSel })
def execLcToEndOfLife (jtag : Bool) (fn : Fn) (confirm : BitVec 16) (x : EndPins) (s : State) :
    Host.Outcome State Fault Refusal :=
  settled (s.opLc jtag fn confirm 3 { completes := x.completes, role := some x.roleSel })

end Sys2Proof.Machine
end

