-- ==== Sys2Proof/Machine/TimeTc0.lean ====
section
/-! DEFINITION. HALT and its gates (R409 to R413), Domain Time (R414 to R417), block time in the island (R418, R573). -/

namespace Sys2Proof.Machine

namespace State

/-! ### HALT -/

def haltRefused (s : State) (l : LinkId) : State :=
  s.modLink l fun k => { k with tc0 := { k.tc0 with haltRefused := satInc k.tc0.haltRefused } }

/-- The links a HALT names: those whose partner is src, or every one of the slot (Table 13-4). -/
def haltLinks (s : State) (d : Slot) (scope : Byte) (src : Member) : List LinkId :=
  (s.agreedLinks d).filter fun l => scope == 1 || (s.link l).core.pMember == src

/-- src is a candidate of this hall, or a system candidate, in the manager key list (R409). -/
def haltCand (s : State) (d : Slot) (src : Member) : Bool :=
  (s.isHallCand d (hallOf (s.dom d).member) src || s.isSysCand d src) && (s.dom d).keyList.any fun e => e.1 == src

/-- The body is as Table 13-4 says, and came as one UNICAST group. -/
def haltForm (r : Route) (m : HaltMsg) : Bool :=
  m.reservedZero && (m.classes &&& 0xF1) == 0 && decide (m.scope.toNat ≤ 1) && m.classes != 0 && r.scope == 0

/-- R409. -/
def haltOk (s : State) (d : Slot) (r : Route) (m : HaltMsg) : Bool :=
  haltForm r m && (if m.scope = 0 then m.duration != 0 && !(s.haltLinks d 0 r.src).isEmpty else s.haltCand d r.src)

/-- HALT on its Confirm: the gates of the named classes close on each gated link (R410). -/
def opHalt (s : State) (l : LinkId) (r : Route) (m : HaltMsg) : State :=
  let d := (s.link l).core.slot
  if !s.linkLive l || !s.agreedIn l d then s
  else if !s.haltOk d r m then s.haltRefused l
  else
    let ends : Option Time := if m.duration = 0 then none else some (s.now + m.duration.setWidth 64 * 1000)
    let g : Gate := { classes := m.classes.setWidth 4, src := r.src, all := m.scope == 1, ends := ends }
    (s.haltLinks d m.scope r.src).foldl (fun (s : State) x =>
      s.modLink x fun k => { k with tc0 := { k.tc0 with
        gates := k.tc0.gates ++ [g], gateReason := m.reason, gateSrc := r.src } }) s

/-- Open some classes of one gate. -/
def gateOpen (classes : BitVec 4) (g : Gate) : Gate := { g with classes := g.classes &&& ~~~ classes }

/-- HALT_RELEASE: the gates its sender closed with the same scope, or any where R409 admits it for scope ALL (R410). -/
def opHaltRelease (s : State) (l : LinkId) (r : Route) (m : HaltMsg) : State :=
  let d := (s.link l).core.slot
  if !s.linkLive l || !s.agreedIn l d then s
  else if !haltForm r m || m.duration != 0 then s.haltRefused l
  else
    let any := s.haltCand d r.src
    let mine (g : Gate) : Bool := any || (g.src == r.src && g.all == (m.scope == 1))
    (s.haltLinks d m.scope r.src).foldl (fun (s : State) x =>
      s.modLink x fun k =>
        let gs := k.tc0.gates.map fun g => if mine g then gateOpen (m.classes.setWidth 4) g else g
        { k with tc0 := { k.tc0 with gates := gs.filter fun g => g.classes != 0 } }) s

/-- The durations that close a class's gate have ended; a HALT until release keeps it closed (R410). -/
def opGateExpiry (s : State) (l : LinkId) (c : Cls) : State :=
  s.modLink l fun k =>
    let one : BitVec 4 := BitVec.ofNat 4 (2 ^ c.toNat)
    let gs := k.tc0.gates.map fun g => if g.ends.isSome then gateOpen one g else g
    { k with tc0 := { k.tc0 with gates := gs.filter fun g => g.classes != 0 } }

/-! ### Domain Time -/

/-- The part's time source: its active System Manager, or its counter where it has none (R414). -/
def isTimeSource (s : State) (d : Slot) : Bool :=
  let k := s.dom d
  k.activeSm || (s.isCounter d && (k.sysManager == k.member || !s.inContact d k.sysManager))

/-- The AGREED partner with the lowest stratum of at most 14, ties to the lower member index. -/
def timeParent (s : State) (d : Slot) : Option LinkId :=
  let better (a b : LinkId) : Bool :=
    let x := s.link a
    let y := s.link b
    decide (x.tc0.peerStratum < y.tc0.peerStratum) ||
      (x.tc0.peerStratum == y.tc0.peerStratum && decide (x.core.pMember < y.core.pMember))
  ((s.agreedLinks d).filter fun l => (s.link l).tc0.peerStratum != 15).foldl (fun o l => match o with
    | none => some l
    | some x => some (if better l x then l else x)) none

/-- TIME_REQ and TIME_RESP (Table 13-5), padded to 24 bytes. -/
def timeBody (type : Byte) (stratum : BitVec 4) (seq : BitVec 16) (t2 t3 : BitVec 64) : Bytes :=
  [type, stratum.setWidth 8] ++ leBytes 2 seq.toNat ++ leBytes 8 t2.toNat ++ leBytes 8 t3.toNat ++ zeros 4

/-- The exchange's start: the parent is chosen anew and TIME_REQ sent. A member that knows no partner's stratum asks each
partner (DESIGN CHOICE, log entry 46). -/
def opTimeTimer (s : State) (d : Slot) (t1 : BitVec 64) : State :=
  let k := s.dom d
  if !s.inDomain d then s
  else if s.isTimeSource d then
    s.setDom d { k with time := { k.time with stratum := 0, parent := 0, parentLink := 0 } }
  else
    let t := k.time
    match s.timeParent d with
    | some l =>
      let p := s.link l
      let same := t.stratum != 15 && t.stratum != 0 && t.parentLink == l && t.parent == p.core.pMember
      let t := if same then { t with t1prev := t.t1 } else { t with t1prev := 0, t2prev := 0, t4prev := 0 }
      let t := { t with stratum := p.tc0.peerStratum + 1, parent := p.core.pMember, parentLink := l, seq := t.seq + 1, t1 := t1 }
      (s.setDom d { k with time := t }).tc0Own l (timeBody 0x60 t.stratum t.seq 0 0)
    | none =>
      let t := { t with stratum := 15, parent := 0, parentLink := 0, seq := t.seq + 1, t1 := t1, t2prev := 0, t4prev := 0 }
      (s.agreedLinks d).foldl (fun (s : State) l => s.tc0Own l (timeBody 0x60 15 t.seq 0 0)) (s.setDom d { k with time := t })

/-- A message of Table 13-5 on an AGREED link, in form. -/
def timeForm (m : TimeMsg) : Bool := m.reservedZero && decide (m.stratum.toNat ≤ 15)

/-- A block-time stamp of 0.125 ns in a slot's Domain Time. -/
def domStamp (s : State) (d : Slot) (t : BitVec 64) : BitVec 64 := t + 8 * (s.dom d).time.corr

/-- TIME_REQ at the parent: TIME_RESP with t2 of this exchange and t3 of the one before (R415). -/
def opTimeReq (s : State) (l : LinkId) (m : TimeMsg) (t2 t3 : BitVec 64) : State :=
  let k := s.link l
  let d := k.core.slot
  if !s.linkLive l || !s.agreedIn l d then s
  else if !timeForm m || m.t2 != 0 || m.t3prev != 0 then s.tc0Bad l
  else
    let s := s.modLink l fun k => { k with tc0 := { k.tc0 with
      peerStratum := m.stratum.setWidth 4, t3last := s.domStamp d t3 } }
    s.tc0Own l (timeBody 0x61 (s.dom d).time.stratum m.seq (s.domStamp d t2) k.tc0.t3last)

/-- Apply θ, in units of 0.125 ns, to a slot's time (R416, R417). -/
def applyTheta (t : DomTime) (θ : Int) : DomTime :=
  let ns := BitVec.ofInt 64 (θ / 8)
  let t := if !t.synced then { t with corr := t.corr + ns, residue := θ % 8, synced := true }
    else if 8000 < θ then { t with corr := t.corr + ns, residue := θ % 8, stepped := true }
    else { t with residue := θ }
  let run := if θ.natAbs ≤ 80 then t.run + 1 else 0
  { t with run := Nat.min run 3, locked := if 800 < θ.natAbs then false else t.locked || decide (3 ≤ run) }

/-- TIME_RESP at the child: the offset of the exchange before (R415, R416). -/
def opTimeResp (s : State) (l : LinkId) (m : TimeMsg) (t4 : BitVec 64) : State :=
  let d := (s.link l).core.slot
  let t := (s.dom d).time
  if !s.linkLive l || !s.agreedIn l d then s
  else if !timeForm m then s.tc0Bad l
  else
    let s := s.modLink l fun k => { k with tc0 := { k.tc0 with peerStratum := m.stratum.setWidth 4 } }
    if !s.inDomain d || m.seq != t.seq || t.stratum == 15 || t.stratum == 0 || t.parentLink != l then s
    else
      let stamp := s.domStamp d
      let θ : Int := ((t.t2prev - stamp t.t1prev).toInt - (stamp t.t4prev - m.t3prev).toInt) / 2
      let whole := m.t3prev != 0 && t.t2prev != 0
      let t := if whole then applyTheta t θ else t
      let t := { t with t2prev := m.t2, t4prev := t4, lastExchange := s.now }
      let s := s.modDom d fun k => { k with time := t }
      if whole && t.stepped && decide (8000 < θ) then s.timeMark d else s

def opTimeLockLoss (s : State) (d : Slot) : State :=
  s.modDom d fun k => { k with time := { k.time with locked := false, run := 0 } }

/-! ### Island time -/

/-- R418, R573. -/
def opTimeSave (s : State) : State :=
  if s.running then { s with isl := { s.isl with storedTime := s.now, elapsed := 0 } } else s

def opIslandTick (s : State) : State :=
  { s with isl := { s.isl with elapsed := BitVec.ofNat 48 (Nat.min (s.isl.elapsed.toNat + 30) (2 ^ 48 - 1)) } }

end State

def execHalt (l : LinkId) (r : Route) (m : HaltMsg) (s : State) : Host.Outcome State Fault Refusal := .next (s.opHalt l r m)
def execHaltRelease (l : LinkId) (r : Route) (m : HaltMsg) (s : State) : Host.Outcome State Fault Refusal :=
  .next (s.opHaltRelease l r m)
def execGateExpiry (l : LinkId) (c : Cls) (s : State) : Host.Outcome State Fault Refusal := .next (s.opGateExpiry l c)
def execTimeExchangeTimer (slot : Slot) (t1 : BitVec 64) (s : State) : Host.Outcome State Fault Refusal :=
  .next (s.opTimeTimer slot t1)
def execTimeReq (l : LinkId) (m : TimeMsg) (t2 t3 : BitVec 64) (s : State) : Host.Outcome State Fault Refusal :=
  .next (s.opTimeReq l m t2 t3)
def execTimeResp (l : LinkId) (m : TimeMsg) (t4 : BitVec 64) (s : State) : Host.Outcome State Fault Refusal :=
  .next (s.opTimeResp l m t4)
def execTimeLockLoss (slot : Slot) (s : State) : Host.Outcome State Fault Refusal := .next (s.opTimeLockLoss slot)
def execBlockTimeSave (s : State) : Host.Outcome State Fault Refusal := .next s.opTimeSave
def execIslandTick (s : State) : Host.Outcome State Fault Refusal := .next s.opIslandTick

end Sys2Proof.Machine
end

