-- ==== Sys2Proof/Machine/Dispatch.lean ====
section
/-! DEFINITION. The dispatch: one arm per command, one direct call of its meaning. -/

namespace Sys2Proof.Machine

/-- The effect of a command on everything but the queue. -/
def exec (i : Instr) (s : State) : Host.Outcome State Fault Refusal :=
  match i with
  | .porBRise straps refclkOk => Sys2Proof.Machine.execPorBRise straps refclkOk s
  | .porBFall => Sys2Proof.Machine.execPorBFall s
  | .sysRstBPulse roleSel => Sys2Proof.Machine.execSysRstBPulse roleSel s
  | .refclkLost roleSel => Sys2Proof.Machine.execRefclkLost roleSel s
  | .refclkReturn env => Sys2Proof.Machine.execRefclkReturn env s
  | .referenceSettleDelayEnd env => Sys2Proof.Machine.execReferenceSettleDelayEnd env s
  | .fullStopDone env => Sys2Proof.Machine.execFullStopDone env s
  | .resetWatchdogExpiry level target roleSel => Sys2Proof.Machine.execResetWatchdogExpiry level target roleSel s
  | .resetReqComma target completes => Sys2Proof.Machine.execResetReqComma target completes s
  | .resetReqSemicolon target completes => Sys2Proof.Machine.execResetReqSemicolon target completes s
  | .resetReqColon target completes => Sys2Proof.Machine.execResetReqColon target completes s
  | .resetReqFullStop confirm target roleSel => Sys2Proof.Machine.execResetReqFullStop confirm target roleSel s
  | .registerWrite fn write addr data => Sys2Proof.Machine.execRegisterWrite fn write addr data s
  | .dbgAccess write addr data => Sys2Proof.Machine.execDbgAccess write addr data s
  | .memReadRequest m key dpa => Sys2Proof.Machine.execMemReadRequest m key dpa s
  | .memWriteRequest m key dpa data => Sys2Proof.Machine.execMemWriteRequest m key dpa data s
  | .memPartialWrite m key dpa mask data atomic rsp => Sys2Proof.Machine.execMemPartialWrite m key dpa mask data atomic rsp s
  | .mcResponse ch sub id rsp => Sys2Proof.Machine.execMcResponse ch sub id rsp s
  | .mcClkLost ch => Sys2Proof.Machine.execMcClkLost ch s
  | .mcClkRelock ch => Sys2Proof.Machine.execMcClkRelock ch s
  | .sweepStart idx => Sys2Proof.Machine.execSweepStart idx s
  | .sweepLine idx ch rsp => Sys2Proof.Machine.execSweepLine idx ch rsp s
  | .sweepUrgent idx => Sys2Proof.Machine.execSweepUrgent idx s
  | .lkUpRise l qualified => Sys2Proof.Machine.execLkUpRise l qualified s
  | .lkUpFall l => Sys2Proof.Machine.execLkUpFall l s
  | .linkClockStall l tx => Sys2Proof.Machine.execLinkClockStall l tx s
  | .linkClockQualified l rxFreq => Sys2Proof.Machine.execLinkClockQualified l rxFreq s
  | .lkTxCredit l c => Sys2Proof.Machine.execLkTxCredit l c s
  | .receiveGroup l g rowBad => Sys2Proof.Machine.execReceiveGroup l g rowBad s
  | .groupConfirm l c seq => Sys2Proof.Machine.execGroupConfirm l c seq s
  | .groupRepudiate l c seq => Sys2Proof.Machine.execGroupRepudiate l c seq s
  | .transmitGroup l c req rowBad => Sys2Proof.Machine.execTransmitGroup l c req rowBad s
  | .tc0TokenTick l => Sys2Proof.Machine.execTc0TokenTick l s
  | .floodCacheExpiry slot src transfer => Sys2Proof.Machine.execFloodCacheExpiry slot src transfer s
  | .deliveryClkLost => Sys2Proof.Machine.execDeliveryClkLost s
  | .deliveryClkRelock => Sys2Proof.Machine.execDeliveryClkRelock s
  | .linkPulseTimer l => Sys2Proof.Machine.execLinkPulseTimer l s
  | .partnerLost l => Sys2Proof.Machine.execPartnerLost l s
  | .linkBye l cause reservedZero => Sys2Proof.Machine.execLinkBye l cause reservedZero s
  | .tombstoneExpiry l => Sys2Proof.Machine.execTombstoneExpiry l s
  | .hello l p b => Sys2Proof.Machine.execHello l p b s
  | .reply l p b => Sys2Proof.Machine.execReply l p b s
  | .finish l p sigI kcI => Sys2Proof.Machine.execFinish l p sigI kcI s
  | .done l p kcR => Sys2Proof.Machine.execDone l p kcR s
  | .abort l p reason => Sys2Proof.Machine.execAbort l p reason s
  | .agreementAttemptTimeout l => Sys2Proof.Machine.execAgreementAttemptTimeout l s
  | .agreementRetry l => Sys2Proof.Machine.execAgreementRetry l s
  | .responderTimeout l => Sys2Proof.Machine.execResponderTimeout l s
  | .linkAgree h slot l => Sys2Proof.Machine.execLinkAgree h slot l s
  | .linkClose h slot l => Sys2Proof.Machine.execLinkClose h slot l s
  | .keyThreshold l c => Sys2Proof.Machine.execKeyThreshold l c s
  | .keyLimit row => Sys2Proof.Machine.execKeyLimit row s
  | .keyRoll l c => Sys2Proof.Machine.execKeyRoll l c s
  | .keyFuture l m => Sys2Proof.Machine.execKeyFuture l m s
  | .keyReady l m => Sys2Proof.Machine.execKeyReady l m s
  | .tenseRetryExpiry l c => Sys2Proof.Machine.execTenseRetryExpiry l c s
  | .pastGraceExpiry l c => Sys2Proof.Machine.execPastGraceExpiry l c s
  | .keyInvalidate row mismatch => Sys2Proof.Machine.execKeyInvalidate row mismatch s
  | .dusProgram badRows => Sys2Proof.Machine.execDusProgram badRows s
  | .laneMismatch cl x => Sys2Proof.Machine.execLaneMismatch cl x s
  | .laneBurstEnd r => Sys2Proof.Machine.execLaneBurstEnd r s
  | .patrol cl pass => Sys2Proof.Machine.execPatrol cl pass s
  | .ghashMismatch => Sys2Proof.Machine.execGhashMismatch s
  | .monitorWarning r => Sys2Proof.Machine.execMonitorWarning r s
  | .functionEnableWrite t on => Sys2Proof.Machine.execFunctionEnableWrite t on s
  | .trayEnable => Sys2Proof.Machine.execTrayEnable s
  | .trayAck => Sys2Proof.Machine.execTrayAck s
  | .trayIbiRepeat => Sys2Proof.Machine.execTrayIbiRepeat s
  | .pmLim rail val => Sys2Proof.Machine.execPmLim rail val s
  | .hdFlrValid f => Sys2Proof.Machine.execHdFlrValid f s
  | .dmaReadCompletion id status bytes last => Sys2Proof.Machine.execDmaReadCompletion id status bytes last s
  | .hostErrReport f => Sys2Proof.Machine.execHostErrReport f s
  | .sqTailWrite f loc q tail => Sys2Proof.Machine.execSqTailWrite f loc q tail s
  | .cqHeadWrite f loc head => Sys2Proof.Machine.execCqHeadWrite f loc head s
  | .descriptorFetch c q d => Sys2Proof.Machine.execDescriptorFetch c q d s
  | .arbitrationEpoch => Sys2Proof.Machine.execArbitrationEpoch s
  | .bucketRefill => Sys2Proof.Machine.execBucketRefill s
  | .commandCompletion c q k writeOk => Sys2Proof.Machine.execCommandCompletion c q k writeOk s
  | .ctxRearm f loc => Sys2Proof.Machine.execCtxRearm f loc s
  | .cancel c k => Sys2Proof.Machine.execCancel c k s
  | .ctxCreate c k => Sys2Proof.Machine.execCtxCreate c k s
  | .ctxDestroy c k => Sys2Proof.Machine.execCtxDestroy c k s
  | .objMap c k => Sys2Proof.Machine.execObjMap c k s
  | .objUnmap c k => Sys2Proof.Machine.execObjUnmap c k s
  | .nop c k => Sys2Proof.Machine.execNop c k s
  | .memFill c k => Sys2Proof.Machine.execMemFill c k s
  | .memCopy c k rsps => Sys2Proof.Machine.execMemCopy c k rsps s
  | .csAesEnc c k rsps => Sys2Proof.Machine.execCsAesEnc c k rsps s
  | .csAesDec c k rsps => Sys2Proof.Machine.execCsAesDec c k rsps s
  | .csGhash c k rsps => Sys2Proof.Machine.execCsGhash c k rsps s
  | .stgRekey c k => Sys2Proof.Machine.execStgRekey c k s
  | .stgIn c k host rsps => Sys2Proof.Machine.execStgIn c k host rsps s
  | .stgOut c k rsps => Sys2Proof.Machine.execStgOut c k rsps s
  | .progLoad c k rsps => Sys2Proof.Machine.execProgLoad c k rsps s
  | .progGo c k rsps => Sys2Proof.Machine.execProgGo c k rsps s
  | .progUnload c k => Sys2Proof.Machine.execProgUnload c k s
  | .contributionTake l => Sys2Proof.Machine.execContributionTake l s
  | .budget l src delta reservedZero => Sys2Proof.Machine.execBudget l src delta reservedZero s
  | .fabricRequest rsp => Sys2Proof.Machine.execFabricRequest rsp s
  | .fabricTableLineRead slot line rsp => Sys2Proof.Machine.execFabricTableLineRead slot line rsp s
  | .fabricAccess c va write mask data atomic => Sys2Proof.Machine.execFabricAccess c va write mask data atomic s
  | .fabricResponse l r => Sys2Proof.Machine.execFabricResponse l r s
  | .fabMap h slot page entry => Sys2Proof.Machine.execFabMap h slot page entry s
  | .fabUnmap h slot page => Sys2Proof.Machine.execFabUnmap h slot page s
  | .spdmMsg h body => Sys2Proof.Machine.execSpdmMsg h body s
  | .certGet h offset len => Sys2Proof.Machine.execCertGet h offset len s
  | .haHello h m => Sys2Proof.Machine.execHaHello h m s
  | .haFinish h sessionId sigH kcH => Sys2Proof.Machine.execHaFinish h sessionId sigH kcH s
  | .haTimeout f => Sys2Proof.Machine.execHaTimeout f s
  | .haClose h => Sys2Proof.Machine.execHaClose h s
  | .mailboxReservedCode h code => Sys2Proof.Machine.execMailboxReservedCode h code s
  | .fnOpen h f => Sys2Proof.Machine.execFnOpen h f s
  | .drain h f => Sys2Proof.Machine.execDrain h f s
  | .retire h f => Sys2Proof.Machine.execRetire h f s
  | .debugChallenge h => Sys2Proof.Machine.execDebugChallenge h s
  | .debugUnlock h x => Sys2Proof.Machine.execDebugUnlock h x s
  | .lcToTest jtag fn confirm roleSel => Sys2Proof.Machine.execLcToTest jtag fn confirm roleSel s
  | .lcToProduction jtag fn confirm roleSel => Sys2Proof.Machine.execLcToProduction jtag fn confirm roleSel s
  | .lcToEndOfLife jtag fn confirm x => Sys2Proof.Machine.execLcToEndOfLife jtag fn confirm x s
  | .formHello h m => Sys2Proof.Machine.execFormHello h m s
  | .formFinish h sigV kcV => Sys2Proof.Machine.execFormFinish h sigV kcV s
  | .formationTimeout slot => Sys2Proof.Machine.execFormationTimeout slot s
  | .joinTicket h slot member proof => Sys2Proof.Machine.execJoinTicket h slot member proof s
  | .linkDeclare h slot l partnerLink partner => Sys2Proof.Machine.execLinkDeclare h slot l partnerLink partner s
  | .z2TableRow h slot l peerNode peerPort => Sys2Proof.Machine.execZ2TableRow h slot l peerNode peerPort s
  | .domainLeave h slot => Sys2Proof.Machine.execDomainLeave h slot s
  | .censusGet h slot hall => Sys2Proof.Machine.execCensusGet h slot hall s
  | .countStateGet h slot => Sys2Proof.Machine.execCountStateGet h slot s
  | .verifierVote h body => Sys2Proof.Machine.execVerifierVote h body s
  | .epochAdvance h body => Sys2Proof.Machine.execEpochAdvance h body s
  | .epochNotice slot epoch => Sys2Proof.Machine.execEpochNotice slot epoch s
  | .joinInvite l m => Sys2Proof.Machine.execJoinInvite l m s
  | .joinRequest slot l m => Sys2Proof.Machine.execJoinRequest slot l m s
  | .joinGrant slot m => Sys2Proof.Machine.execJoinGrant slot m s
  | .joinRefuse slot reason => Sys2Proof.Machine.execJoinRefuse slot reason s
  | .joinDone slot member => Sys2Proof.Machine.execJoinDone slot member s
  | .joinDoneTimeout slot member => Sys2Proof.Machine.execJoinDoneTimeout slot member s
  | .parseResume slot => Sys2Proof.Machine.execParseResume slot s
  | .depart slot member => Sys2Proof.Machine.execDepart slot member s
  | .handdown slot m => Sys2Proof.Machine.execHanddown slot m s
  | .mgrPulseTimer slot => Sys2Proof.Machine.execMgrPulseTimer slot s
  | .mgrPulse slot src => Sys2Proof.Machine.execMgrPulse slot src s
  | .mgrContactLoss slot lost => Sys2Proof.Machine.execMgrContactLoss slot lost s
  | .mgrTakeover slot src system => Sys2Proof.Machine.execMgrTakeover slot src system s
  | .mgrKeys slot list => Sys2Proof.Machine.execMgrKeys slot list s
  | .hallPulseTimer slot => Sys2Proof.Machine.execHallPulseTimer slot s
  | .hallPulse slot => Sys2Proof.Machine.execHallPulse slot s
  | .hallPulseLoss slot => Sys2Proof.Machine.execHallPulseLoss slot s
  | .rosterUpdate slot src version row => Sys2Proof.Machine.execRosterUpdate slot src version row s
  | .rosterAck slot version => Sys2Proof.Machine.execRosterAck slot version s
  | .rosterResend slot => Sys2Proof.Machine.execRosterResend slot s
  | .hallSummary slot => Sys2Proof.Machine.execHallSummary slot s
  | .censusSync slot m state1 => Sys2Proof.Machine.execCensusSync slot m state1 s
  | .countOpen slot => Sys2Proof.Machine.execCountOpen slot s
  | .voteClaim slot hall round members => Sys2Proof.Machine.execVoteClaim slot hall round members s
  | .countResult slot r => Sys2Proof.Machine.execCountResult slot r s
  | .rejoinReq slot m => Sys2Proof.Machine.execRejoinReq slot m s
  | .rejoinGrant slot m => Sys2Proof.Machine.execRejoinGrant slot m s
  | .rejoinWindowExpiry slot => Sys2Proof.Machine.execRejoinWindowExpiry slot s
  | .halt l r m => Sys2Proof.Machine.execHalt l r m s
  | .haltRelease l r m => Sys2Proof.Machine.execHaltRelease l r m s
  | .gateExpiry l c => Sys2Proof.Machine.execGateExpiry l c s
  | .timeExchangeTimer slot t1 => Sys2Proof.Machine.execTimeExchangeTimer slot t1 s
  | .timeReq l m t2 t3 => Sys2Proof.Machine.execTimeReq l m t2 t3 s
  | .timeResp l m t4 => Sys2Proof.Machine.execTimeResp l m t4 s
  | .timeLockLoss slot => Sys2Proof.Machine.execTimeLockLoss slot s
  | .blockTimeSave => Sys2Proof.Machine.execBlockTimeSave s
  | .islandTick => Sys2Proof.Machine.execIslandTick s
  | .engineStallSample => Sys2Proof.Machine.execEngineStallSample s
  | .engineStall e roleSel => Sys2Proof.Machine.execEngineStall e roleSel s
  | .replayGuilty x => Sys2Proof.Machine.execReplayGuilty x s
  | .replayCleared x => Sys2Proof.Machine.execReplayCleared x s
  | .trustCoreMismatch roleSel => Sys2Proof.Machine.execTrustCoreMismatch roleSel s
  | .sramFault e meterSram roleSel => Sys2Proof.Machine.execSramFault e meterSram roleSel s
  | .currentWindow avgVkx avgVkm => Sys2Proof.Machine.execCurrentWindow avgVkx avgVkm s
  | .throttleStep avgVkx avgVkm => Sys2Proof.Machine.execThrottleStep avgVkx avgVkm s
  | .droopCrossing r => Sys2Proof.Machine.execDroopCrossing r s
  | .droopRelease r => Sys2Proof.Machine.execDroopRelease r s
  | .energyInterval e => Sys2Proof.Machine.execEnergyInterval e s
  | .meterGo slot => Sys2Proof.Machine.execMeterGo slot s
  | .meterBoundary slot => Sys2Proof.Machine.execMeterBoundary slot s
  | .tamperLatch inputs => Sys2Proof.Machine.execTamperLatch inputs s
  | .rearm i1 => Sys2Proof.Machine.execRearm i1 s
  | .rearmRelease i1 => Sys2Proof.Machine.execRearmRelease i1 s
  | .keyRenew => Sys2Proof.Machine.execKeyRenew s
  | .lock => Sys2Proof.Machine.execLock s
  | .supplySwitch onVbat => Sys2Proof.Machine.execSupplySwitch onVbat s
  | .islandColdStart => Sys2Proof.Machine.execIslandColdStart s
  | .vdCreate vd slot => Sys2Proof.Machine.execVdCreate vd slot s
  | .vdDestroy vd => Sys2Proof.Machine.execVdDestroy vd s
  | .bind kind index vd => Sys2Proof.Machine.execBind kind index vd s
  | .unbind kind index vd => Sys2Proof.Machine.execUnbind kind index vd s
  | .move kind index vd toVd => Sys2Proof.Machine.execMove kind index vd toVd s
  | .vdSlot vd slot => Sys2Proof.Machine.execVdSlot vd slot s
  | .traceRunSet => Sys2Proof.Machine.execTraceRunSet s
  | .traceRunClear => Sys2Proof.Machine.execTraceRunClear s
  | .traceRingWrite ok => Sys2Proof.Machine.execTraceRingWrite ok s
  | .marker value => Sys2Proof.Machine.execMarker value s
  | .timeMark slot => Sys2Proof.Machine.execTimeMark slot s
  | .deliveryBeatAccept l => Sys2Proof.Machine.execDeliveryBeatAccept l s
  | .lkTxReady l => Sys2Proof.Machine.execLkTxReady l s
  | .receiveRingSpace l c ctx => Sys2Proof.Machine.execReceiveRingSpace l c ctx s
  | .countClose slot => Sys2Proof.Machine.execCountClose slot s
  | .protectedRangeWrite r base limit owner enable => Sys2Proof.Machine.execProtectedRangeWrite r base limit owner enable s
  | .mcLinesWrite ch lines => Sys2Proof.Machine.execMcLinesWrite ch lines s
  | .routeTableLoad slot entries => Sys2Proof.Machine.execRouteTableLoad slot entries s
  | .fabricTableSetup slot base key pages => Sys2Proof.Machine.execFabricTableSetup slot base key pages s

end Sys2Proof.Machine
end

