-- ==== Sys2Proof/Machine/Footprint.lean ====
section
/-! DEFINITION. The footprint of each command: the parts of the state its effect can reach at all. -/

namespace Sys2Proof

/-- A part of the block's state: each field of State but the queue of commands. -/
inductive Part where
  /-- the whole block: phase, straps, reference clock -/
  | sys
  /-- the Global registers -/
  | glb
  /-- clocks and enables -/
  | clk
  /-- the power-up sequence -/
  | boot
  /-- life cycle and debug -/
  | lcd
  /-- the fuses -/
  | otp
  /-- the key store -/
  | keys
  /-- the crypto lanes -/
  | lanes
  /-- the memory region -/
  | mem
  /-- the links -/
  | links
  /-- the domain slots -/
  | doms
  /-- the flood cache -/
  | flood
  /-- the fabric -/
  | fab
  /-- the front end: functions, contexts, commands, objects, sessions -/
  | fe
  /-- virtual devices -/
  | vd
  /-- reduction programs -/
  | red
  /-- faults and resets -/
  | flt
  /-- the tray port -/
  | tray
  /-- power and meters -/
  | pwr
  /-- the island -/
  | isl
  /-- telemetry -/
  | tel
  /-- the model's own counter of free values (log entry 1) -/
  | freeCtr
  /-- what the block put on its ports -/
  | outs
  deriving DecidableEq, Repr

/-- The part is the same in both states. -/
def Part.same (p : Part) (s t : Machine.State) : Prop :=
  match p with
  | .sys => t.sys = s.sys
  | .glb => t.glb = s.glb
  | .clk => t.clk = s.clk
  | .boot => t.boot = s.boot
  | .lcd => t.lcd = s.lcd
  | .otp => t.otp = s.otp
  | .keys => t.keys = s.keys
  | .lanes => t.lanes = s.lanes
  | .mem => t.mem = s.mem
  | .links => t.links = s.links
  | .doms => t.doms = s.doms
  | .flood => t.flood = s.flood
  | .fab => t.fab = s.fab
  | .fe => t.fe = s.fe
  | .vd => t.vd = s.vd
  | .red => t.red = s.red
  | .flt => t.flt = s.flt
  | .tray => t.tray = s.tray
  | .pwr => t.pwr = s.pwr
  | .isl => t.isl = s.isl
  | .tel => t.tel = s.tel
  | .freeCtr => t.freeCtr = s.freeCtr
  | .outs => t.outs = s.outs

/-- What a Full Stop reaches: everything but the fuses, the counter of free values and the ports. -/
def Part.stopped : List Part :=
  [.sys, .glb, .clk, .boot, .lcd, .keys, .lanes, .mem, .links, .doms, .flood, .fab, .fe, .vd, .red, .flt, .tray, .pwr, .isl, .tel]

/-- What the end of a step reaches: what accesses, commands, iterations and groups that go on may change. -/
def Part.settled : List Part := [.keys, .mem, .links, .fab, .fe, .red, .flt, .pwr, .tel, .freeCtr, .outs]

/-- The parts a command may change (each rule's own chapter; what a forced exit, a Comma or a Full Stop that the command can
cause changes is included). -/
def Instr.touches (i : Instr) : List Part :=
  match i with
  | .porBRise .. => Part.stopped
  | .porBFall => Part.stopped
  | .sysRstBPulse .. => Part.stopped ++ [.freeCtr, .outs]
  | .refclkLost .. => Part.stopped ++ [.freeCtr, .outs]
  | .refclkReturn .. => Part.stopped ++ [.otp, .freeCtr, .outs]
  | .referenceSettleDelayEnd .. => Part.stopped ++ [.otp, .freeCtr, .outs]
  | .fullStopDone .. => Part.stopped ++ [.otp, .freeCtr, .outs]
  | .resetWatchdogExpiry .. => Part.stopped ++ [.freeCtr, .outs]
  | .resetReqComma .. => [.glb, .keys, .mem, .links, .doms, .flood, .fab, .fe, .vd, .red, .flt, .pwr, .tel, .freeCtr, .outs]
  | .resetReqSemicolon .. => [.glb, .keys, .mem, .links, .doms, .flood, .fab, .fe, .vd, .red, .flt, .pwr, .tel, .freeCtr, .outs]
  | .resetReqColon .. => [.glb, .keys, .mem, .links, .doms, .flood, .fab, .fe, .vd, .red, .flt, .pwr, .tel, .freeCtr, .outs]
  | .resetReqFullStop .. => Part.stopped ++ [.otp, .freeCtr, .outs]
  | .registerWrite .. => Part.stopped ++ [.otp, .freeCtr, .outs]
  | .dbgAccess .. => Part.stopped ++ [.otp, .freeCtr, .outs]
  | .memReadRequest .. => [.keys, .mem, .links, .fab, .fe, .red, .flt, .pwr, .tel, .freeCtr, .outs]
  | .memWriteRequest .. => [.keys, .mem, .links, .fab, .fe, .red, .flt, .pwr, .tel, .freeCtr, .outs]
  | .memPartialWrite .. => [.glb, .keys, .mem, .links, .fab, .fe, .red, .flt, .pwr, .tel, .freeCtr, .outs]
  | .mcResponse .. => [.glb, .keys, .mem, .links, .fab, .fe, .red, .flt, .pwr, .tel, .freeCtr, .outs]
  | .mcClkLost .. => [.clk]
  | .mcClkRelock .. => [.clk, .keys, .mem, .links, .fab, .fe, .red, .flt, .pwr, .tel, .freeCtr, .outs]
  | .sweepStart .. => [.keys, .mem, .links, .fab, .fe, .red, .flt, .pwr, .tel, .freeCtr, .outs]
  | .sweepLine .. => [.glb, .keys, .mem, .links, .fab, .fe, .red, .flt, .pwr, .tel, .freeCtr, .outs]
  | .sweepUrgent .. => [.mem]
  | .lkUpRise .. => [.links, .doms, .freeCtr, .outs]
  | .lkUpFall .. => [.keys, .mem, .links, .doms, .flood, .fab, .fe, .red, .flt, .pwr, .tel, .freeCtr, .outs]
  | .linkClockStall .. => [.links, .outs]
  | .linkClockQualified .. => [.links, .outs]
  | .lkTxCredit .. => [.links]
  | .receiveGroup .. => Part.stopped ++ [.freeCtr, .outs]
  | .groupConfirm .. => [.keys, .mem, .links, .doms, .flood, .fab, .fe, .red, .flt, .pwr, .tel, .freeCtr, .outs]
  | .groupRepudiate .. => [.keys, .mem, .links, .doms, .flood, .fab, .fe, .red, .flt, .pwr, .tel, .freeCtr, .outs]
  | .transmitGroup .. => Part.stopped ++ [.freeCtr, .outs]
  | .tc0TokenTick .. => [.links]
  | .floodCacheExpiry .. => [.flood]
  | .deliveryClkLost => [.clk, .links, .outs]
  | .deliveryClkRelock => [.clk, .keys, .mem, .links, .doms, .flood, .fab, .fe, .red, .flt, .pwr, .tel, .freeCtr, .outs]
  | .linkPulseTimer .. => [.links]
  | .partnerLost .. => [.keys, .mem, .links, .doms, .flood, .fab, .fe, .red, .flt, .pwr, .tel, .freeCtr, .outs]
  | .linkBye .. => [.keys, .mem, .links, .doms, .flood, .fab, .fe, .red, .flt, .pwr, .tel, .freeCtr, .outs]
  | .tombstoneExpiry .. => [.links]
  | .hello .. => [.keys, .mem, .links, .doms, .flood, .fab, .fe, .red, .flt, .pwr, .tel, .freeCtr, .outs]
  | .reply .. => [.links, .doms, .flt]
  | .finish .. => [.keys, .links, .doms, .flt, .tel]
  | .done .. => [.keys, .links, .doms, .flt, .tel]
  | .abort .. => [.links, .doms]
  | .agreementAttemptTimeout .. => [.links, .doms]
  | .agreementRetry .. => [.links, .doms, .freeCtr]
  | .responderTimeout .. => [.links, .doms]
  | .linkAgree .. => [.links, .doms, .fe, .flt, .freeCtr, .outs]
  | .linkClose .. => [.keys, .mem, .links, .doms, .flood, .fab, .fe, .red, .flt, .pwr, .tel, .freeCtr, .outs]
  | .keyThreshold .. => [.keys, .links]
  | .keyLimit .. => [.keys, .mem, .links, .fab, .fe, .red, .flt, .pwr, .tel, .freeCtr, .outs]
  | .keyRoll .. => [.keys, .links]
  | .keyFuture .. => [.keys, .links, .flt]
  | .keyReady .. => [.keys, .links, .flt]
  | .tenseRetryExpiry .. => [.keys, .mem, .links, .doms, .flood, .fab, .fe, .red, .flt, .pwr, .tel, .freeCtr, .outs]
  | .pastGraceExpiry .. => [.keys, .mem, .links, .fab, .fe, .red, .flt, .pwr, .tel, .freeCtr, .outs]
  | .keyInvalidate .. => Part.stopped ++ [.freeCtr, .outs]
  | .dusProgram .. => [.boot, .lcd, .otp, .keys, .flt, .tray, .tel, .freeCtr, .outs]
  | .laneMismatch .. => Part.stopped ++ [.freeCtr, .outs]
  | .laneBurstEnd .. => [.lanes]
  | .patrol .. => [.boot, .lanes, .flt, .tray, .tel, .outs]
  | .ghashMismatch => [.boot, .lanes, .flt, .tray, .tel, .outs]
  | .monitorWarning .. => Part.stopped ++ [.freeCtr, .outs]
  | .functionEnableWrite .. => [.sys, .clk, .keys, .mem, .links, .doms, .flood, .fab, .fe, .red, .flt, .tray, .pwr, .tel, .freeCtr, .outs]
  | .trayEnable => [.clk, .tray, .outs]
  | .trayAck => [.tray, .outs]
  | .trayIbiRepeat => [.outs]
  | .pmLim .. => [.sys, .pwr]
  | .hdFlrValid .. => [.sys, .clk, .keys, .mem, .links, .fab, .fe, .red, .flt, .pwr, .tel, .freeCtr, .outs]
  | .dmaReadCompletion .. => [.glb, .keys, .mem, .links, .fab, .fe, .red, .flt, .pwr, .tel, .freeCtr, .outs]
  | .hostErrReport .. => [.keys, .mem, .links, .fab, .fe, .red, .flt, .pwr, .tel, .freeCtr, .outs]
  | .sqTailWrite .. => [.fe]
  | .cqHeadWrite .. => [.fe, .tel, .outs]
  | .descriptorFetch .. => [.glb, .fe, .tel, .outs]
  | .arbitrationEpoch => [.fe, .flt, .tel, .outs]
  | .bucketRefill => [.fe]
  | .commandCompletion .. => [.keys, .fe, .pwr, .tel, .outs]
  | .ctxRearm .. => [.fe]
  | .cancel .. => [.keys, .mem, .links, .fab, .fe, .red, .flt, .pwr, .tel, .freeCtr, .outs]
  | .ctxCreate .. => [.fe]
  | .ctxDestroy .. => [.keys, .mem, .links, .fab, .fe, .red, .flt, .pwr, .tel, .freeCtr, .outs]
  | .objMap .. => [.fe, .freeCtr]
  | .objUnmap .. => [.fe]
  | .nop .. => [.fe]
  | .memFill .. => [.keys, .mem, .links, .fab, .fe, .red, .flt, .pwr, .tel, .freeCtr, .outs]
  | .memCopy .. => [.glb, .keys, .mem, .links, .fab, .fe, .red, .flt, .pwr, .tel, .freeCtr, .outs]
  | .csAesEnc .. => [.glb, .keys, .mem, .links, .fab, .fe, .red, .flt, .pwr, .tel, .freeCtr, .outs]
  | .csAesDec .. => [.glb, .keys, .mem, .links, .fab, .fe, .red, .flt, .pwr, .tel, .freeCtr, .outs]
  | .csGhash .. => [.glb, .keys, .mem, .links, .fab, .fe, .red, .flt, .pwr, .tel, .freeCtr, .outs]
  | .stgRekey .. => [.keys, .fe, .flt]
  | .stgIn .. => [.glb, .keys, .mem, .links, .fab, .fe, .red, .flt, .pwr, .tel, .freeCtr, .outs]
  | .stgOut .. => [.glb, .keys, .mem, .links, .fab, .fe, .red, .flt, .pwr, .tel, .freeCtr, .outs]
  | .progLoad .. => [.glb, .keys, .mem, .links, .fab, .fe, .red, .flt, .pwr, .tel, .freeCtr, .outs]
  | .progGo .. => [.glb, .keys, .mem, .links, .doms, .fab, .fe, .red, .flt, .pwr, .tel, .freeCtr, .outs]
  | .progUnload .. => [.keys, .mem, .links, .fab, .fe, .red, .flt, .pwr, .tel, .freeCtr, .outs]
  | .contributionTake .. => [.keys, .mem, .links, .doms, .fab, .fe, .red, .flt, .pwr, .tel, .freeCtr, .outs]
  | .budget .. => [.links, .pwr, .freeCtr, .outs]
  | .fabricRequest .. => [.glb, .keys, .mem, .links, .fab, .fe, .red, .flt, .pwr, .tel, .freeCtr, .outs]
  | .fabricTableLineRead .. => [.glb, .keys, .mem, .links, .fab, .fe, .red, .flt, .pwr, .tel, .freeCtr, .outs]
  | .fabricAccess .. => [.links, .outs]
  | .fabricResponse .. => [.keys, .mem, .links, .fab, .fe, .red, .flt, .pwr, .tel, .freeCtr, .outs]
  | .fabMap .. => [.keys, .mem, .links, .fab, .fe, .red, .flt, .pwr, .tel, .freeCtr, .outs]
  | .fabUnmap .. => [.keys, .mem, .links, .fab, .fe, .red, .flt, .pwr, .tel, .freeCtr, .outs]
  | .spdmMsg .. => [.fe, .flt, .outs]
  | .certGet .. => [.fe, .flt, .outs]
  | .haHello .. => [.fe, .flt, .freeCtr, .outs]
  | .haFinish .. => [.keys, .fe, .flt, .outs]
  | .haTimeout .. => [.fe]
  | .haClose .. => [.keys, .mem, .links, .fab, .fe, .red, .flt, .pwr, .tel, .freeCtr, .outs]
  | .mailboxReservedCode .. => [.fe, .flt, .outs]
  | .fnOpen .. => [.clk, .keys, .mem, .links, .doms, .flood, .fab, .fe, .red, .flt, .tray, .pwr, .tel, .freeCtr, .outs]
  | .drain .. => [.fe, .flt, .outs]
  | .retire .. => [.sys, .clk, .keys, .mem, .links, .fab, .fe, .red, .flt, .pwr, .tel, .freeCtr, .outs]
  | .debugChallenge .. => [.lcd, .fe, .flt, .freeCtr, .outs]
  | .debugUnlock .. => [.boot, .lcd, .keys, .mem, .links, .doms, .flood, .fab, .fe, .vd, .red, .flt, .pwr, .tel, .freeCtr, .outs]
  | .lcToTest .. => Part.stopped ++ [.otp, .freeCtr, .outs]
  | .lcToProduction .. => Part.stopped ++ [.otp, .freeCtr, .outs]
  | .lcToEndOfLife .. => Part.stopped ++ [.otp, .freeCtr, .outs]
  | .formHello .. => [.doms, .fe, .flt, .pwr, .freeCtr, .outs]
  | .formFinish .. => [.boot, .keys, .mem, .links, .doms, .flood, .fab, .fe, .vd, .red, .flt, .pwr, .tel, .freeCtr, .outs]
  | .formationTimeout .. => [.boot, .keys, .mem, .links, .doms, .flood, .fab, .fe, .vd, .red, .flt, .pwr, .tel, .freeCtr, .outs]
  | .joinTicket .. => [.doms, .fe, .flt, .outs]
  | .linkDeclare .. => [.links, .doms, .fe, .flt, .freeCtr, .outs]
  | .z2TableRow .. => [.links, .doms, .fe, .flt, .freeCtr, .outs]
  | .domainLeave .. => [.boot, .keys, .mem, .links, .doms, .flood, .fab, .fe, .vd, .red, .flt, .pwr, .tel, .freeCtr, .outs]
  | .censusGet .. => [.doms, .fe, .flt, .outs]
  | .countStateGet .. => [.fe, .flt, .outs]
  | .verifierVote .. => [.keys, .mem, .links, .doms, .fab, .fe, .red, .flt, .pwr, .tel, .freeCtr, .outs]
  | .epochAdvance .. => [.boot, .keys, .mem, .links, .doms, .flood, .fab, .fe, .red, .flt, .pwr, .tel, .freeCtr, .outs]
  | .epochNotice .. => [.boot, .keys, .mem, .links, .doms, .flood, .fab, .fe, .red, .flt, .pwr, .tel, .freeCtr, .outs]
  | .joinInvite .. => [.links, .doms, .flt, .pwr, .tel, .freeCtr]
  | .joinRequest .. => [.boot, .keys, .mem, .links, .doms, .flood, .fab, .fe, .vd, .red, .flt, .pwr, .tel, .freeCtr, .outs]
  | .joinGrant .. => [.boot, .keys, .mem, .links, .doms, .flood, .fab, .fe, .vd, .red, .flt, .pwr, .tel, .freeCtr, .outs]
  | .joinRefuse .. => [.boot, .keys, .mem, .links, .doms, .flood, .fab, .fe, .vd, .red, .flt, .pwr, .tel, .freeCtr, .outs]
  | .joinDone .. => [.links, .doms, .flt, .freeCtr]
  | .joinDoneTimeout .. => [.links, .doms, .flt, .freeCtr]
  | .parseResume .. => [.links, .doms]
  | .depart .. => [.links, .doms]
  | .handdown .. => [.keys, .mem, .links, .doms, .flood, .fab, .fe, .red, .flt, .pwr, .tel, .freeCtr, .outs]
  | .mgrPulseTimer .. => [.links, .doms]
  | .mgrPulse .. => [.links, .doms]
  | .mgrContactLoss .. => [.keys, .mem, .links, .doms, .fab, .fe, .red, .flt, .pwr, .tel, .freeCtr, .outs]
  | .mgrTakeover .. => [.doms]
  | .mgrKeys .. => [.doms]
  | .hallPulseTimer .. => [.links, .doms]
  | .hallPulse .. => [.doms]
  | .hallPulseLoss .. => [.keys, .mem, .links, .doms, .fab, .fe, .red, .flt, .pwr, .tel, .freeCtr, .outs]
  | .rosterUpdate .. => [.links, .doms]
  | .rosterAck .. => [.doms]
  | .rosterResend .. => [.links, .doms]
  | .hallSummary .. => [.links, .doms]
  | .censusSync .. => [.links, .doms]
  | .countOpen .. => [.keys, .mem, .links, .doms, .fab, .fe, .red, .flt, .pwr, .tel, .freeCtr, .outs]
  | .voteClaim .. => [.keys, .mem, .links, .doms, .fab, .fe, .red, .flt, .pwr, .tel, .freeCtr, .outs]
  | .countResult .. => [.keys, .mem, .links, .doms, .fab, .fe, .red, .flt, .pwr, .tel, .freeCtr, .outs]
  | .rejoinReq .. => [.keys, .mem, .links, .doms, .fab, .fe, .red, .flt, .pwr, .tel, .freeCtr, .outs]
  | .rejoinGrant .. => [.keys, .mem, .links, .doms, .fab, .fe, .red, .flt, .pwr, .tel, .freeCtr, .outs]
  | .rejoinWindowExpiry .. => [.boot, .keys, .mem, .links, .doms, .flood, .fab, .fe, .vd, .red, .flt, .pwr, .tel, .freeCtr, .outs]
  | .halt .. => [.links]
  | .haltRelease .. => [.links]
  | .gateExpiry .. => [.links]
  | .timeExchangeTimer .. => [.links, .doms]
  | .timeReq .. => [.links]
  | .timeResp .. => [.links, .doms, .tel]
  | .timeLockLoss .. => [.doms]
  | .blockTimeSave => [.isl]
  | .islandTick => [.isl]
  | .engineStallSample => [.flt]
  | .engineStall .. => Part.stopped ++ [.freeCtr, .outs]
  | .replayGuilty .. => Part.stopped ++ [.freeCtr, .outs]
  | .replayCleared .. => Part.stopped ++ [.freeCtr, .outs]
  | .trustCoreMismatch .. => Part.stopped ++ [.freeCtr, .outs]
  | .sramFault .. => Part.stopped ++ [.freeCtr, .outs]
  | .currentWindow .. => [.pwr]
  | .throttleStep .. => [.pwr, .tel]
  | .droopCrossing .. => [.pwr, .tel]
  | .droopRelease .. => [.pwr, .tel]
  | .energyInterval .. => [.fe, .pwr]
  | .meterGo .. => [.pwr, .outs]
  | .meterBoundary .. => [.pwr, .outs]
  | .tamperLatch .. => [.boot, .keys, .mem, .links, .doms, .flood, .fab, .fe, .vd, .red, .flt, .tray, .pwr, .isl, .tel, .freeCtr, .outs]
  | .rearm .. => [.isl]
  | .rearmRelease .. => [.isl]
  | .keyRenew => [.isl, .freeCtr]
  | .lock => [.isl]
  | .supplySwitch .. => [.isl]
  | .islandColdStart => [.flt, .isl]
  | .vdCreate .. => [.keys, .mem, .links, .doms, .flood, .fab, .fe, .vd, .red, .flt, .pwr, .tel, .freeCtr, .outs]
  | .vdDestroy .. => [.keys, .mem, .links, .doms, .flood, .fab, .fe, .vd, .red, .flt, .pwr, .tel, .freeCtr, .outs]
  | .bind .. => [.keys, .mem, .links, .doms, .flood, .fab, .fe, .vd, .red, .flt, .pwr, .tel, .freeCtr, .outs]
  | .unbind .. => [.keys, .mem, .links, .doms, .flood, .fab, .fe, .vd, .red, .flt, .pwr, .tel, .freeCtr, .outs]
  | .move .. => [.keys, .mem, .links, .doms, .flood, .fab, .fe, .vd, .red, .flt, .pwr, .tel, .freeCtr, .outs]
  | .vdSlot .. => [.keys, .mem, .links, .doms, .flood, .fab, .fe, .vd, .red, .flt, .pwr, .tel, .freeCtr, .outs]
  | .traceRunSet => [.tel]
  | .traceRunClear => [.tel]
  | .traceRingWrite .. => [.tel, .outs]
  | .marker .. => [.tel]
  | .timeMark .. => [.tel]
  | .deliveryBeatAccept .. => [.keys, .mem, .links, .doms, .flood, .fab, .fe, .red, .flt, .pwr, .tel, .freeCtr, .outs]
  | .lkTxReady .. => [.links, .flt, .outs]
  | .receiveRingSpace .. => [.keys, .mem, .links, .fab, .fe, .red, .flt, .pwr, .tel, .freeCtr, .outs]
  | .countClose .. => [.keys, .mem, .links, .doms, .fab, .fe, .red, .flt, .pwr, .tel, .freeCtr, .outs]
  | .protectedRangeWrite .. => [.mem]
  | .mcLinesWrite .. => [.keys, .mem, .links, .fab, .fe, .red, .flt, .pwr, .tel, .freeCtr, .outs]
  | .routeTableLoad .. => [.doms]
  | .fabricTableSetup .. => [.doms, .fab]

end Sys2Proof
end

