-- ==== Sys2Proof/Safety.lean ====
section
/-! DEFINITION. What a safe run of the block is: what no step may undo, what every step keeps, and what each command may
change at all. -/

namespace Sys2Proof.Machine

/-- Every OTP bit programmed in `s` is programmed in `t`: a fuse never returns to 0 (Table 5-4, R137). -/
def State.fusesKept (s t : State) : Prop :=
  ∀ r b : Nat, (Tab.get 0 s.otp r).getLsbD b = true → (Tab.get 0 t.otp r).getLsbD b = true

/-- What the block has put on its ports stays put: the record of `t` grew from that of `s`. -/
def State.outsKept (s t : State) : Prop := s.outs <:+ t.outs

/-- Issue rates lie between 1/16 of full rate and full rate (R553, R554). -/
def Pwr.ratesOk (p : Pwr) : Prop :=
  (1 ≤ p.limRate.toNat ∧ p.limRate.toNat ≤ 16) ∧ (1 ≤ p.droopMem.toNat ∧ p.droopMem.toNat ≤ 16) ∧
  (1 ≤ p.droopLink.toNat ∧ p.droopLink.toNat ≤ 16) ∧ (1 ≤ p.droopSvc.toNat ∧ p.droopSvc.toNat ≤ 16)

/-! ### Canonical tables -/

def Glb.canonical (x : Glb) : Prop := Tab.wf none x.latches = true
def Keys.canonical (x : Keys) : Prop := Tab.wf {} x.rows = true ∧ Tab.wf [] x.nonces = true
def Lanes.canonical (x : Lanes) : Prop := Tab.wf {} x.clusters = true
def Mem.canonical (x : Mem) : Prop := Tab.wf {} x.chans = true ∧ Tab.wf {} x.idx = true ∧ Tab.wf {} x.ranges = true
def Fab.canonical (x : Fab) : Prop := Tab.wf none x.cache = true
def Fe.canonical (x : Fe) : Prop := Tab.wf {} x.ctxs = true ∧
  Tab.wf {} x.objs = true ∧ Tab.wf {} x.fns = true ∧ Tab.wf 0 x.rrFn = true ∧ Tab.wf 0 x.rrCtx = true ∧ Tab.wf none x.dmaReads = true
def Vds.canonical (x : Vds) : Prop := Tab.wf {} x.vds = true
def Red.canonical (x : Red) : Prop := Tab.wf {} x.progs = true
def Flt.canonical (x : Flt) : Prop := Tab.wf {} x.eng = true
def Pwr.canonical (x : Pwr) : Prop := Tab.wf 0 x.thr = true ∧
  Tab.wf 0 x.since = true ∧ Tab.wf 0 x.slotActivity = true ∧ Tab.wf 0 x.slotEnergyRem = true ∧ Tab.wf {} x.mtrs = true
def Isl.canonical (x : Isl) : Prop := Tab.wf {} x.tampers = true
def Tel.canonical (x : Tel) : Prop := Tab.wf 0 x.counters = true

/-- Every table the state holds is in canonical form: its keys rise strictly and no entry equals the default, so that equal
contents are equal data. -/
structure State.canonical (s : State) : Prop where
  otp : Tab.wf 0 s.otp = true
  links : Tab.wf {} s.links = true
  doms : Tab.wf {} s.doms = true
  glb : s.glb.canonical
  keys : s.keys.canonical
  lanes : s.lanes.canonical
  mem : s.mem.canonical
  fab : s.fab.canonical
  fe : s.fe.canonical
  vd : s.vd.canonical
  red : s.red.canonical
  flt : s.flt.canonical
  pwr : s.pwr.canonical
  isl : s.isl.canonical
  tel : s.tel.canonical

/-- What a Full Stop leaves of the Memory Region and the front end: no work, and of the requests whose answers are owed only that
those are to be discarded (R35, R532); of the counts those kept since por_b (R254, R604). -/
structure State.emptiedFrom (s t : State) : Prop where
  mem : t.mem = { highWater := s.mem.highWater, idx := t.mem.idx, out := t.mem.out }
  sweeps : s.canonical → ∀ i : KeyIdx, t.memIdx i = { sweepCount := (s.memIdx i).sweepCount }
  requests : ∀ q ∈ t.mem.out, q.discard = true
  fe : t.fe = { dmaReads := t.fe.dmaReads }
  reads : ∀ (i : Nat) (r : DmaRead), Tab.get none t.fe.dmaReads i = some r → r.gone = true
  others : t.fab = {} ∧ t.vd = {} ∧ t.red = {} ∧ t.doms = [] ∧ t.flood = []

/-- What a Full Stop with a cause leaves of the block (R93, R532): every function enable off but the tray sideband's, every
key erased, every queue and table of work empty, the current limits at reset, while OTP stands, the global counters stand but
that of the groups sent, which counts the LINK_BYE messages (R537, R586), and the island keeps all but its lock. -/
structure State.stoppedFrom (s t : State) (cause : Cause) (escalated : Bool) (role : BitVec 1) : Prop where
  phase : t.sys.phase = .fullStop
  role : t.glb.role = role
  areas : t.clk.enArea = 0
  channels : t.clk.enMc = 0
  linkPorts : t.clk.enLink = 0
  fns : t.clk.enFn = 0
  ports : t.clk.enPort = s.clk.enPort &&& 0x20
  keys : ∀ r : Nat, (t.row r).valid = false ∧ (t.row r).material = 0
  work : State.emptiedFrom s t
  counters : t.tel = { counters := t.tel.counters } ∧ ∀ k : Nat, k ≠ 2 → Tab.get 0 t.tel.counters k = Tab.get 0 s.tel.counters k
  limits : t.pwr.limVkx = 1300 ∧ t.pwr.limVkm = 300 ∧ t.pwr.limRate = 16
  otp : t.otp = s.otp
  island : t.isl = { s.isl with lock := false, tamperAtStart := false, restore := none }
  last : t.flt.last = { level := lvlFullStop, escalated := escalated, cause := cause, target := 0 }
  counted : t.flt.countFullStop = satInc s.flt.countFullStop

/-- An Agreement is reached on no link, no key is held and nothing is enabled: the block as por_b leaves it (R604). -/
structure State.porFrom (s t : State) (phase : Phase) : Prop where
  phase : t.sys.phase = phase
  enables : t.clk.enArea = 0 ∧ t.clk.enPort = 0 ∧ t.clk.enMc = 0 ∧ t.clk.enLink = 0 ∧ t.clk.enFn = 0
  keys : t.keys = {}
  links : s.canonical → ∀ l : LinkId, (t.link l).core = { up := (s.link l).core.up }
  work : t.mem = {} ∧ t.fab = {} ∧ t.fe = {} ∧ t.vd = {} ∧ t.red = {} ∧ t.doms = [] ∧ t.flood = []
  faults : t.flt = {} ∧ t.tray = {} ∧ t.lcd = {} ∧ t.pwr = {} ∧ t.tel = {}
  otp : t.otp = s.otp
  island : t.isl = { s.isl with lock := false, tamperAtStart := false, restore := none }

/-- Nothing waits for the end of a step: no group received waits for its ring or its channel, no access has ended untold, no
command has ended untold, and no reduction program is in use. -/
structure State.still (s : State) : Prop where
  rings : ∀ l : LinkId, ringWaits (s.link l) = []
  held : ∀ l : LinkId, (s.link l).io.held = []
  ends : s.mem.ends = []
  cmds : ∀ x ∈ s.fe.cmds, x.issued = true → x.result = none → s.cmdOpen x = true
  programs : s.progsInUse = []

/-! ### The mailbox -/

/-- A mailbox command in its parts (R356, R435, R475, R497): header, code, whether a VF receives ST_RIGHTS (R474; of the debug
commands it receives ST_LC_STATE, R149, log entry 33), and the body length where the layout fixes one. -/
def mailParts (i : Instr) : Option (MbxHdr × BitVec 16 × Bool × Option Nat) :=
  match i with
  | .spdmMsg h _ => some (h, 0x0001, false, none)
  | .certGet h _ _ => some (h, 0x0002, false, some 8)
  | .haHello h _ => some (h, 0x0010, false, none)
  | .haFinish h _ _ _ => some (h, 0x0011, false, some 4756)
  | .haClose h => some (h, 0x0012, false, some 4)
  | .debugChallenge h => some (h, 0x0020, false, some 0)
  | .debugUnlock h _ => some (h, 0x0021, false, none)
  | .formHello h _ => some (h, 0x0030, true, some 13385)
  | .formFinish h _ _ => some (h, 0x0031, true, some 4752)
  | .joinTicket h _ _ _ => some (h, 0x0032, true, some 824)
  | .linkDeclare h _ _ _ _ => some (h, 0x0033, true, some 8)
  | .domainLeave h _ => some (h, 0x0034, true, some 4)
  | .censusGet h _ _ => some (h, 0x0035, true, some 4)
  | .countStateGet h _ => some (h, 0x0036, true, some 4)
  | .verifierVote h _ => some (h, 0x0037, true, some 4772)
  | .epochAdvance h _ => some (h, 0x0038, true, some 4768)
  | .z2TableRow h _ _ _ _ => some (h, 0x0039, true, none)
  | .linkAgree h _ _ => some (h, 0x003A, true, some 4)
  | .linkClose h _ _ => some (h, 0x003B, true, some 4)
  | .fabMap h _ _ _ => some (h, 0x0040, true, some 24)
  | .fabUnmap h _ _ => some (h, 0x0041, true, some 8)
  | .fnOpen h _ => some (h, 0x0050, true, some 4)
  | .drain h _ => some (h, 0x0051, true, some 4)
  | .retire h _ => some (h, 0x0052, true, some 4)
  | _ => none

/-- The mailbox commands whose effect can let accesses, commands and groups that wait go on within the step. -/
def mailSettles (i : Instr) : Bool :=
  match i with
  | .haClose .. => true
  | .debugUnlock .. => true
  | .formFinish .. => true
  | .domainLeave .. => true
  | .verifierVote .. => true
  | .epochAdvance .. => true
  | .linkClose .. => true
  | .fabMap .. => true
  | .fabUnmap .. => true
  | .fnOpen .. => true
  | .retire .. => true
  | _ => false

/-- A mailbox command answers a state, and what waits goes on where the command can let it. -/
def mailEnds (i : Instr) (s t : State) : Prop := exec i s = .next (if mailSettles i then t.settleAll else t)

/-- The mailbox of the request's function answers and the function is OPEN, or took the doorbell while it was. -/
def State.mbxOpen (s : State) (h : MbxHdr) : Prop :=
  s.mbxOn h.fn = true ∧ h.dmaOk = true ∧ ((s.func h.fn).phase = .opened ∨ (s.func h.fn).mbx.taken = true)

/-- A request of a body length that passes every check before its own: it comes to what its command does (R472, R474). -/
def State.mbxReady (s : State) (h : MbxHdr) (len : Nat) : Prop :=
  s.mbxOpen h ∧ (s.func h.fn).mbx.reqLen.toNat = 16 + h.bodyLen ∧ h.bodyLen = len ∧ h.statusField = 0 ∧ h.reservedZero = true

end Sys2Proof.Machine
end

