-- ==== Sys2Proof/WellFormed.lean ====
section
/-! DEFINITION. Which commands the surroundings of the block can send: an operand names a thing of the block that
exists. A command that names none is not a command of the table. -/

namespace Sys2Proof

/-- Lanes of a cluster (Table 1-5). -/
def ClusterId.lanes : ClusterId → Nat
  | .mc _ => 26
  | .lk _ => 8
  | .svc => 14

/-- What flash returns of one slot lies in its region (Table 4-2, R110). -/
def FlashSlot.wellFormed (x : FlashSlot) : Prop := x.header.length ≤ 64 ∧ x.image.length ≤ 0x400000

/-- OTP rows are 0 to 71 (Table 5-4); a channel has at most 2^20 blocks of 4,096 lines (R254); flash is read in its three regions
only (R110). -/
def StartEnv.wellFormed (e : StartEnv) : Prop :=
  e.slot0.wellFormed ∧ e.slot1.wellFormed ∧ e.deviceRecord.length ≤ 0x10000 ∧
  (∀ r ∈ e.otpBad, r.toNat < 72) ∧ (∀ r ∈ e.keyRowsBad, r.toNat ≤ 2832) ∧
  (∀ l ∈ e.laneFails, l.2.toNat < l.1.lanes) ∧ e.mcLines.toNat ≤ 2 ^ 20

/-- The operands name things of the block: engines 0 to 101 (Table 18-1), key store rows 0 to 2,832 (R185), lanes of their
cluster (Table 1-5), reset levels Comma to Ellipsis (Table 18-3), OTP rows (Table 5-4), line counts and table pages in their
range (R254, Table 14-4), DMA reads of at most 4,096 bytes (Table 2-11), a received group begins at a valid unit
with sog high (R49), and a partial write that is partial (R229). -/
def Instr.wellFormed : Instr → Prop
  | .refclkReturn env => env.wellFormed
  | .referenceSettleDelayEnd env => env.wellFormed
  | .fullStopDone env => env.wellFormed
  | .resetWatchdogExpiry level _ _ => 1 ≤ level.toNat ∧ level.toNat ≤ 5
  | .memPartialWrite _ _ _ mask _ _ _ => mask ≠ BitVec.allOnes 64
  | .receiveGroup _ units _ => ∃ u ∈ units, u.valid = true ∧ u.sog = true
  | .keyLimit row => row.toNat ≤ 2832
  | .keyInvalidate row _ => row.toNat ≤ 2832
  | .dusProgram rows => ∀ r ∈ rows, r.toNat < 72
  | .laneMismatch cl x => x.lane.toNat < cl.lanes
  | .dmaReadCompletion _ _ bytes _ => bytes.toNat ≤ 4096
  | .engineStall e _ => e.toNat ≤ 101
  | .replayGuilty x => x.engine.toNat ≤ 101
  | .replayCleared x => x.engine.toNat ≤ 101
  | .sramFault e _ _ => ∀ x ∈ e, x.toNat ≤ 101
  | .mcLinesWrite _ lines => lines.toNat ≤ 2 ^ 20
  | .fabricTableSetup _ _ _ pages => pages.toNat ≤ 2 ^ 21
  | .porBRise .. | .porBFall .. | .sysRstBPulse .. | .refclkLost .. | .resetReqComma .. | .resetReqSemicolon ..
  | .resetReqColon .. | .resetReqFullStop .. | .registerWrite .. | .dbgAccess .. | .memReadRequest ..
  | .memWriteRequest .. | .mcResponse .. | .mcClkLost .. | .mcClkRelock .. | .sweepStart .. | .sweepLine ..
  | .sweepUrgent .. | .lkUpRise .. | .lkUpFall .. | .linkClockStall .. | .linkClockQualified .. | .lkTxCredit ..
  | .groupConfirm .. | .groupRepudiate .. | .transmitGroup .. | .tc0TokenTick .. | .floodCacheExpiry ..
  | .deliveryClkLost .. | .deliveryClkRelock .. | .linkPulseTimer .. | .partnerLost .. | .linkBye ..
  | .tombstoneExpiry .. | .hello .. | .reply .. | .finish .. | .done .. | .abort .. | .agreementAttemptTimeout ..
  | .agreementRetry .. | .responderTimeout .. | .linkAgree .. | .linkClose .. | .keyThreshold .. | .keyRoll ..
  | .keyFuture .. | .keyReady .. | .tenseRetryExpiry .. | .pastGraceExpiry .. | .laneBurstEnd .. | .patrol ..
  | .ghashMismatch .. | .monitorWarning .. | .functionEnableWrite .. | .trayEnable .. | .trayAck ..
  | .trayIbiRepeat .. | .pmLim .. | .hdFlrValid .. | .hostErrReport .. | .sqTailWrite .. | .cqHeadWrite ..
  | .descriptorFetch .. | .arbitrationEpoch .. | .bucketRefill .. | .commandCompletion .. | .ctxRearm .. | .cancel ..
  | .ctxCreate .. | .ctxDestroy .. | .objMap .. | .objUnmap .. | .nop .. | .memFill .. | .memCopy .. | .csAesEnc ..
  | .csAesDec .. | .csGhash .. | .stgRekey .. | .stgIn .. | .stgOut .. | .progLoad .. | .progGo .. | .progUnload ..
  | .contributionTake .. | .budget .. | .fabricRequest .. | .fabricTableLineRead .. | .fabricAccess ..
  | .fabricResponse .. | .fabMap .. | .fabUnmap .. | .spdmMsg .. | .certGet .. | .haHello .. | .haFinish ..
  | .haTimeout .. | .haClose .. | .mailboxReservedCode .. | .fnOpen .. | .drain .. | .retire .. | .debugChallenge ..
  | .debugUnlock .. | .lcToTest .. | .lcToProduction .. | .lcToEndOfLife .. | .formHello .. | .formFinish ..
  | .formationTimeout .. | .joinTicket .. | .linkDeclare .. | .z2TableRow .. | .domainLeave .. | .censusGet ..
  | .countStateGet .. | .verifierVote .. | .epochAdvance .. | .epochNotice .. | .joinInvite .. | .joinRequest ..
  | .joinGrant .. | .joinRefuse .. | .joinDone .. | .joinDoneTimeout .. | .parseResume .. | .depart .. | .handdown ..
  | .mgrPulseTimer .. | .mgrPulse .. | .mgrContactLoss .. | .mgrTakeover .. | .mgrKeys .. | .hallPulseTimer ..
  | .hallPulse .. | .hallPulseLoss .. | .rosterUpdate .. | .rosterAck .. | .rosterResend .. | .hallSummary ..
  | .censusSync .. | .countOpen .. | .voteClaim .. | .countResult .. | .rejoinReq .. | .rejoinGrant ..
  | .rejoinWindowExpiry .. | .halt .. | .haltRelease .. | .gateExpiry .. | .timeExchangeTimer .. | .timeReq ..
  | .timeResp .. | .timeLockLoss .. | .blockTimeSave .. | .islandTick .. | .engineStallSample ..
  | .trustCoreMismatch .. | .currentWindow .. | .throttleStep .. | .droopCrossing .. | .droopRelease ..
  | .energyInterval .. | .meterGo .. | .meterBoundary .. | .tamperLatch .. | .rearm .. | .rearmRelease ..
  | .keyRenew .. | .lock .. | .supplySwitch .. | .islandColdStart .. | .vdCreate .. | .vdDestroy .. | .bind ..
  | .unbind .. | .move .. | .vdSlot .. | .traceRunSet .. | .traceRunClear .. | .traceRingWrite .. | .marker ..
  | .timeMark .. | .deliveryBeatAccept .. | .lkTxReady .. | .receiveRingSpace .. | .countClose ..
  | .protectedRangeWrite .. | .routeTableLoad .. => True

/-- The engines a command names (Table 18-1). -/
def Instr.engines : Instr → List Nat
  | .engineStall e _ => [e.toNat]
  | .replayGuilty x => [x.engine.toNat]
  | .replayCleared x => [x.engine.toNat]
  | .sramFault e _ _ => (e.map BitVec.toNat).toList
  | .porBRise .. | .porBFall .. | .sysRstBPulse .. | .refclkLost .. | .refclkReturn .. | .referenceSettleDelayEnd ..
  | .fullStopDone .. | .resetWatchdogExpiry .. | .resetReqComma .. | .resetReqSemicolon .. | .resetReqColon ..
  | .resetReqFullStop .. | .registerWrite .. | .dbgAccess .. | .memReadRequest .. | .memWriteRequest ..
  | .memPartialWrite .. | .mcResponse .. | .mcClkLost .. | .mcClkRelock .. | .sweepStart .. | .sweepLine ..
  | .sweepUrgent .. | .lkUpRise .. | .lkUpFall .. | .linkClockStall .. | .linkClockQualified .. | .lkTxCredit ..
  | .receiveGroup .. | .groupConfirm .. | .groupRepudiate .. | .transmitGroup .. | .tc0TokenTick ..
  | .floodCacheExpiry .. | .deliveryClkLost .. | .deliveryClkRelock .. | .linkPulseTimer .. | .partnerLost ..
  | .linkBye .. | .tombstoneExpiry .. | .hello .. | .reply .. | .finish .. | .done .. | .abort ..
  | .agreementAttemptTimeout .. | .agreementRetry .. | .responderTimeout .. | .linkAgree .. | .linkClose ..
  | .keyThreshold .. | .keyLimit .. | .keyRoll .. | .keyFuture .. | .keyReady .. | .tenseRetryExpiry ..
  | .pastGraceExpiry .. | .keyInvalidate .. | .dusProgram .. | .laneMismatch .. | .laneBurstEnd .. | .patrol ..
  | .ghashMismatch .. | .monitorWarning .. | .functionEnableWrite .. | .trayEnable .. | .trayAck ..
  | .trayIbiRepeat .. | .pmLim .. | .hdFlrValid .. | .dmaReadCompletion .. | .hostErrReport .. | .sqTailWrite ..
  | .cqHeadWrite .. | .descriptorFetch .. | .arbitrationEpoch .. | .bucketRefill .. | .commandCompletion ..
  | .ctxRearm .. | .cancel .. | .ctxCreate .. | .ctxDestroy .. | .objMap .. | .objUnmap .. | .nop .. | .memFill ..
  | .memCopy .. | .csAesEnc .. | .csAesDec .. | .csGhash .. | .stgRekey .. | .stgIn .. | .stgOut .. | .progLoad ..
  | .progGo .. | .progUnload .. | .contributionTake .. | .budget .. | .fabricRequest .. | .fabricTableLineRead ..
  | .fabricAccess .. | .fabricResponse .. | .fabMap .. | .fabUnmap .. | .spdmMsg .. | .certGet .. | .haHello ..
  | .haFinish .. | .haTimeout .. | .haClose .. | .mailboxReservedCode .. | .fnOpen .. | .drain .. | .retire ..
  | .debugChallenge .. | .debugUnlock .. | .lcToTest .. | .lcToProduction .. | .lcToEndOfLife .. | .formHello ..
  | .formFinish .. | .formationTimeout .. | .joinTicket .. | .linkDeclare .. | .z2TableRow .. | .domainLeave ..
  | .censusGet .. | .countStateGet .. | .verifierVote .. | .epochAdvance .. | .epochNotice .. | .joinInvite ..
  | .joinRequest .. | .joinGrant .. | .joinRefuse .. | .joinDone .. | .joinDoneTimeout .. | .parseResume ..
  | .depart .. | .handdown .. | .mgrPulseTimer .. | .mgrPulse .. | .mgrContactLoss .. | .mgrTakeover .. | .mgrKeys ..
  | .hallPulseTimer .. | .hallPulse .. | .hallPulseLoss .. | .rosterUpdate .. | .rosterAck .. | .rosterResend ..
  | .hallSummary .. | .censusSync .. | .countOpen .. | .voteClaim .. | .countResult .. | .rejoinReq ..
  | .rejoinGrant .. | .rejoinWindowExpiry .. | .halt .. | .haltRelease .. | .gateExpiry .. | .timeExchangeTimer ..
  | .timeReq .. | .timeResp .. | .timeLockLoss .. | .blockTimeSave .. | .islandTick .. | .engineStallSample ..
  | .trustCoreMismatch .. | .currentWindow .. | .throttleStep .. | .droopCrossing .. | .droopRelease ..
  | .energyInterval .. | .meterGo .. | .meterBoundary .. | .tamperLatch .. | .rearm .. | .rearmRelease ..
  | .keyRenew .. | .lock .. | .supplySwitch .. | .islandColdStart .. | .vdCreate .. | .vdDestroy .. | .bind ..
  | .unbind .. | .move .. | .vdSlot .. | .traceRunSet .. | .traceRunClear .. | .traceRingWrite .. | .marker ..
  | .timeMark .. | .deliveryBeatAccept .. | .lkTxReady .. | .receiveRingSpace .. | .countClose ..
  | .protectedRangeWrite .. | .mcLinesWrite .. | .routeTableLoad .. | .fabricTableSetup .. => []

/-- The key store rows a command names (R185). -/
def Instr.keyRows : Instr → List Nat
  | .keyLimit row => [row.toNat]
  | .keyInvalidate row _ => [row.toNat]
  | .porBRise .. | .porBFall .. | .sysRstBPulse .. | .refclkLost .. | .refclkReturn .. | .referenceSettleDelayEnd ..
  | .fullStopDone .. | .resetWatchdogExpiry .. | .resetReqComma .. | .resetReqSemicolon .. | .resetReqColon ..
  | .resetReqFullStop .. | .registerWrite .. | .dbgAccess .. | .memReadRequest .. | .memWriteRequest ..
  | .memPartialWrite .. | .mcResponse .. | .mcClkLost .. | .mcClkRelock .. | .sweepStart .. | .sweepLine ..
  | .sweepUrgent .. | .lkUpRise .. | .lkUpFall .. | .linkClockStall .. | .linkClockQualified .. | .lkTxCredit ..
  | .receiveGroup .. | .groupConfirm .. | .groupRepudiate .. | .transmitGroup .. | .tc0TokenTick ..
  | .floodCacheExpiry .. | .deliveryClkLost .. | .deliveryClkRelock .. | .linkPulseTimer .. | .partnerLost ..
  | .linkBye .. | .tombstoneExpiry .. | .hello .. | .reply .. | .finish .. | .done .. | .abort ..
  | .agreementAttemptTimeout .. | .agreementRetry .. | .responderTimeout .. | .linkAgree .. | .linkClose ..
  | .keyThreshold .. | .keyRoll .. | .keyFuture .. | .keyReady .. | .tenseRetryExpiry .. | .pastGraceExpiry ..
  | .dusProgram .. | .laneMismatch .. | .laneBurstEnd .. | .patrol .. | .ghashMismatch .. | .monitorWarning ..
  | .functionEnableWrite .. | .trayEnable .. | .trayAck .. | .trayIbiRepeat .. | .pmLim .. | .hdFlrValid ..
  | .dmaReadCompletion .. | .hostErrReport .. | .sqTailWrite .. | .cqHeadWrite .. | .descriptorFetch ..
  | .arbitrationEpoch .. | .bucketRefill .. | .commandCompletion .. | .ctxRearm .. | .cancel .. | .ctxCreate ..
  | .ctxDestroy .. | .objMap .. | .objUnmap .. | .nop .. | .memFill .. | .memCopy .. | .csAesEnc .. | .csAesDec ..
  | .csGhash .. | .stgRekey .. | .stgIn .. | .stgOut .. | .progLoad .. | .progGo .. | .progUnload ..
  | .contributionTake .. | .budget .. | .fabricRequest .. | .fabricTableLineRead .. | .fabricAccess ..
  | .fabricResponse .. | .fabMap .. | .fabUnmap .. | .spdmMsg .. | .certGet .. | .haHello .. | .haFinish ..
  | .haTimeout .. | .haClose .. | .mailboxReservedCode .. | .fnOpen .. | .drain .. | .retire .. | .debugChallenge ..
  | .debugUnlock .. | .lcToTest .. | .lcToProduction .. | .lcToEndOfLife .. | .formHello .. | .formFinish ..
  | .formationTimeout .. | .joinTicket .. | .linkDeclare .. | .z2TableRow .. | .domainLeave .. | .censusGet ..
  | .countStateGet .. | .verifierVote .. | .epochAdvance .. | .epochNotice .. | .joinInvite .. | .joinRequest ..
  | .joinGrant .. | .joinRefuse .. | .joinDone .. | .joinDoneTimeout .. | .parseResume .. | .depart .. | .handdown ..
  | .mgrPulseTimer .. | .mgrPulse .. | .mgrContactLoss .. | .mgrTakeover .. | .mgrKeys .. | .hallPulseTimer ..
  | .hallPulse .. | .hallPulseLoss .. | .rosterUpdate .. | .rosterAck .. | .rosterResend .. | .hallSummary ..
  | .censusSync .. | .countOpen .. | .voteClaim .. | .countResult .. | .rejoinReq .. | .rejoinGrant ..
  | .rejoinWindowExpiry .. | .halt .. | .haltRelease .. | .gateExpiry .. | .timeExchangeTimer .. | .timeReq ..
  | .timeResp .. | .timeLockLoss .. | .blockTimeSave .. | .islandTick .. | .engineStallSample .. | .engineStall ..
  | .replayGuilty .. | .replayCleared .. | .trustCoreMismatch .. | .sramFault .. | .currentWindow ..
  | .throttleStep .. | .droopCrossing .. | .droopRelease .. | .energyInterval .. | .meterGo .. | .meterBoundary ..
  | .tamperLatch .. | .rearm .. | .rearmRelease .. | .keyRenew .. | .lock .. | .supplySwitch .. | .islandColdStart ..
  | .vdCreate .. | .vdDestroy .. | .bind .. | .unbind .. | .move .. | .vdSlot .. | .traceRunSet ..
  | .traceRunClear .. | .traceRingWrite .. | .marker .. | .timeMark .. | .deliveryBeatAccept .. | .lkTxReady ..
  | .receiveRingSpace .. | .countClose .. | .protectedRangeWrite .. | .mcLinesWrite .. | .routeTableLoad ..
  | .fabricTableSetup .. => []

end Sys2Proof
end

