-- ==== Sys2Proof/Certificates/Slice0/Obligations.lean ====
section
/-! DEFINITION. The statements for the provers, family by family. Each says in its docstring what it formalises. -/

open Sys2Proof Sys2Proof.Machine

/-! ### The whole block -/

/-- For every command `c` and state, a step with `c` at the front of the queue is `exec c` on the state with the queue's rest. -/
def Obligations.StepRunsFrontCommand : Prop :=
  ∀ (c : Instr) (rest : List Instr) (s : State),
    step { s with pending := c :: rest } = exec c { s with pending := rest }

/-- The model's choice of log entry 2: on an empty queue a step is one tick of 1 ns. While the time base runs and refclk is up,
block time grows by 1; words that wait for the power manager are offered again (log entry 138), and with none waiting, but at a
whole µs, nothing else changes. While the time base does not run nothing changes. -/
def Obligations.EmptyQueueTicks : Prop :=
  ∀ s : State, s.pending = [] →
    (s.timeRuns = false → step s = .next s) ∧
    (s.timeRuns = true → s.sys.refclk = true →
      ∃ t, step s = .next t ∧ t.now = s.now + 1 ∧
        t = { s.pmFlush with sys := { s.sys with btime := s.sys.btime + 1 }, doms := t.doms } ∧
        ((s.now + 1).toNat % 1000 ≠ 0 → t.doms = s.doms) ∧
        ((s.portOn portPm = false ∨ s.pwr.budQueue = [] ∧ ∀ e ∈ s.red.progs, e.2.skewWord = none) → s.pmFlush = s))

/-- No command of the table that names things of the block stops: exec answers a next state whatever the state. A command that
names an engine above 101, which Table 18-1 does not have, stops by name and nowhere else. -/
def Obligations.CommandsNeverStop : Prop :=
  (∀ (i : Instr) (s : State), i.wellFormed → ∃ t, exec i s = .next t) ∧
  (∀ (i : Instr) (s : State), (∀ e ∈ i.engines, e ≤ 101) → ∃ t, exec i s = .next t) ∧
  (∀ (s : State) (e : EngineId) (r : BitVec 1) (m : Bool) (a : List DryAnswers), 101 < e.toNat →
    exec (.engineStall e r) s = .fault (.noSuchEngine e) ∧ exec (.replayGuilty ⟨e, a⟩) s = .fault (.noSuchEngine e) ∧
    exec (.replayCleared ⟨e, a⟩) s = .fault (.noSuchEngine e) ∧ exec (.sramFault (some e) m r) s = .fault (.noSuchEngine e))

/-- The frame of every command: a part of the state that the command's footprint does not name is the same afterwards, and the
queue is never touched by a command's effect. What other statements call settleAll is the end of a step: accesses that waited,
the ends of commands and iterations, and groups that a program's window kept back go on as far as the step has let them. In a
state in which nothing of that waits it changes nothing, and in every state it changes only the Memory Region, the links, the
fabric, the front end, reduction, faults, power, keys, telemetry, the counter of free values and the ports. -/
def Obligations.FrameOfEveryCommand : Prop :=
  (∀ (i : Instr) (s t : State), exec i s = .next t →
    t.pending = s.pending ∧ ∀ p : Part, p ∉ i.touches → p.same s t) ∧
  (∀ s : State, s.still → s.settleAll = s) ∧
  (∀ (s : State) (p : Part), p ∉ Part.settled → p.same s s.settleAll)

/-- A fuse never returns to 0: whatever a step does, every OTP bit programmed before it is programmed after it. -/
def Obligations.FusesNeverClear : Prop :=
  ∀ s t : State, step s = .next t → s.fusesKept t

/-- What is on the ports stays: a step only adds to the record of what the block has put out. -/
def Obligations.OutputsOnlyGrow : Prop :=
  ∀ s t : State, step s = .next t → s.outsKept t

/-- Every step keeps the tables of the state in canonical form, so that equal contents are equal data. -/
def Obligations.TablesStayCanonical : Prop :=
  ∀ s t : State, s.canonical → step s = .next t → t.canonical

/-- The issue rates of the limit throttle and of the three droop throttles stay between 1/16 of full rate and full rate. -/
def Obligations.IssueRatesStayInRange : Prop :=
  ∀ s t : State, s.pwr.ratesOk → step s = .next t → t.pwr.ratesOk

/-- The state right after reset: por_b is low, no command waits, nothing has been put on a port, no fuse is programmed, every
enable reads 0, no key is held, the limits are 130 A and 30 A, the windows are 4 µs, the issue rates are full, and every
table is canonical. -/
def Obligations.ResetState : Prop :=
  State.reset.sys.phase = .held ∧ State.reset.pending = [] ∧ State.reset.outs = [] ∧ State.reset.otp = [] ∧
  State.reset.clk.enArea = 0 ∧ State.reset.clk.enPort = 0 ∧ State.reset.clk.enMc = 0 ∧ State.reset.clk.enLink = 0 ∧
  State.reset.clk.enFn = 0 ∧ State.reset.keys.rows = [] ∧ State.reset.pwr.limVkx = 1300 ∧ State.reset.pwr.limVkm = 300 ∧
  State.reset.pwr.windowUs = 4 ∧ State.reset.pwr.ratesOk ∧ State.reset.canonical ∧ core.reset = State.reset

/-! ### Island -/

/-- R577. REARM, which the PF writes while the island area answers it: on an input that is not latched it is ignored, else
arm_pending is set. REARM_RELEASE, the input having been inactive for F: with arm_pending the island clears latched, masked
and arm_pending, and without it the input stays masked; count is kept in every case. -/
def Obligations.RearmAndRelease : Prop :=
  ∀ (s : State) (i : BitVec 2),
    (s.islandOn = true → (s.tamper i).latched = true →
      exec (.rearm i) s = .next (s.setTamper i { s.tamper i with armPending := true })) ∧
    (s.islandOn = true → (s.tamper i).latched = false → exec (.rearm i) s = .next s) ∧
    (s.islandOn = false → exec (.rearm i) s = .next s) ∧
    ((s.tamper i).armPending = true → exec (.rearmRelease i) s = .next (s.setTamper i
      { s.tamper i with armPending := false, latched := false, masked := false, activeNow := false })) ∧
    ((s.tamper i).armPending = false →
      exec (.rearmRelease i) s = .next (s.setTamper i { s.tamper i with activeNow := false })) ∧
    ∀ t : State, exec (.rearm i) s = .next t ∨ exec (.rearmRelease i) s = .next t →
      (t.tamper i).count = (s.tamper i).count

/-- KEY_RENEW draws 256 bits from the entropy source (a free value, log entry 11) into the key register and sets key_state to
VALID, but does nothing while the cause record is valid (R579). LOCK sets lock while the block runs (R582). SUPPLY_SWITCH
changes the supply and nothing else (R75, R572). ISLAND_COLD_START clears every item of Table 20-1, key_state reading EMPTY
and island_cold set (R572). TAMPER_LATCH: the enabled, unmasked inputs among those named latch; each is masked and counted
(to 0xFF at most), a re-arm of it is dropped, and the other inputs stay. The first latch writes the cause record: the
inputs, the supply, por_b and island time. The key is zeroised where the island draws from vbat, por_b is low or an input's
action says so (R575, R576); else the key stays. With no input that can latch nothing changes. -/
def Obligations.IslandKeyAndTamper : Prop :=
 (∀ s : State,
    (s.islandOn = true → s.isl.causeValid = false → exec .keyRenew s = .next { s with
      freeCtr := s.freeCtr + 1, isl := { s.isl with key := Config.entropy s.freeCtr, keyState := 1 } }) ∧
    (s.islandOn = true → s.isl.causeValid = true → exec .keyRenew s = .next s) ∧
    (s.islandOn = false → exec .keyRenew s = .next s) ∧
    (s.running = true → exec .lock s = .next { s with isl := { s.isl with lock := true } }) ∧
    (s.running = false → exec .lock s = .next s) ∧
    (∀ b : Bool, exec (.supplySwitch b) s = .next { s with isl := { s.isl with onVbat := b } }) ∧
    ∃ t, exec .islandColdStart s = .next t ∧ t.isl.keyState = 0 ∧ t.isl.key = 0 ∧ t.isl.cold = true ∧ t.isl.mono = 0 ∧
      t.isl.causeValid = false ∧ t.isl.lock = false ∧ t.isl.tampers = [] ∧ t.isl.onVbat = s.isl.onVbat ∧
      t = { s with isl := t.isl, flt := t.flt }) ∧
 (∀ (s : State) (inputs : BitVec 4),
    (s.latching inputs = [] → exec (.tamperLatch inputs) s = .next s.settleAll) ∧
    (s.latching inputs ≠ [] → ∃ t, exec (.tamperLatch inputs) s = .next t ∧
      (∀ i : BitVec 2, i ∈ s.latching inputs → (t.tamper i).latched = true ∧ (t.tamper i).masked = true ∧
        (t.tamper i).armPending = false ∧ (t.tamper i).count = satInc (s.tamper i).count) ∧
      (∀ i : BitVec 2, i ∉ s.latching inputs → t.tamper i = s.tamper i) ∧
      t.isl.causeValid = true ∧
      (s.isl.causeValid = true → t.isl.causeInputs = s.isl.causeInputs ∧ t.isl.stamp = s.isl.stamp) ∧
      (s.isl.causeValid = false → t.isl.causePorLow = s.porLow ∧ t.isl.causeOnVbat = s.isl.onVbat ∧
        t.isl.stamp = s.islandTime ∧ ∀ i : BitVec 2, t.isl.causeInputs.getLsbD i.toNat = decide (i ∈ s.latching inputs)) ∧
      (s.isl.onVbat = true ∨ s.porLow = true ∨
        (∃ i ∈ s.latching inputs, (s.tamper i).action = 1 ∨ (s.tamper i).action = 2) →
        t.isl.key = 0 ∧ t.isl.keyState = 2) ∧
      (s.isl.onVbat = false → s.porLow = false →
        (∀ i ∈ s.latching inputs, (s.tamper i).action ≠ 1 ∧ (s.tamper i).action ≠ 2) →
        t.isl.key = s.isl.key ∧ t.isl.keyState = s.isl.keyState)))

/-! ### Trace -/

/-- TRACE_RUN_SET and TRACE_RUN_CLEAR, which the PF writes while the telemetry area answers it: setting run begins a trace at
seq 0 with nothing lost, or changes nothing while one is built; clearing it lets active go once the FIFO is empty (R587,
R593). Elsewhere neither has an effect. A MARKER and a TIME_MARK of a held slot, each while the trace is built, its type
passes the filters and no record has been lost since room returned: one record with the next seq is queued (R588 to R592),
and nothing but the trace changes. TRACE_RING_WRITE while the staging port and the telemetry area are on and one record
waits: with room it is written to its place in the ring and the tail moves by 1; without room it waits; a failed write stops
the trace, discards what waits as lost and sets dma_err (R587, R591, R593). -/
def Obligations.TraceFifoAndRing : Prop :=
 (∀ s : State,
    (s.telOn = true → (s.tel.run && s.tel.active) = false → exec .traceRunSet s = .next { s with
      tel := { s.tel with run := true, active := true, seq := 0, lost := 0, lostSince := 0 } }) ∧
    (s.telOn = true → (s.tel.run && s.tel.active) = true → exec .traceRunSet s = .next s) ∧
    (s.telOn = true → exec .traceRunClear s = .next { s with
      tel := { s.tel with run := false, active := s.tel.active && !s.tel.fifo.isEmpty } }) ∧
    (s.telOn = false → exec .traceRunSet s = .next s ∧ exec .traceRunClear s = .next s)) ∧
 (∀ (s : State) (v : Word) (d : Slot), s.tel.run = true → s.tel.active = true → s.tel.filterEn = false →
    s.tel.lostSince = 0 → s.tel.fifo.length < 4080 →
    let rec1 (type flags : Byte) (arg : Bytes) : TraceRec :=
      { stamp := s.now, type := type, flags := flags, ctx := 0, layer := 0, operator := 0, seq := s.tel.seq, arg := fitTo 12 arg }
    (s.telOn = true → s.tel.typeMask.getLsbD 0x0A = true → exec (.marker v) s = .next { s with tel := { s.tel with
      markHi := v, seq := s.tel.seq + 1,
      fifo := s.tel.fifo ++ [rec1 0x0A 0 (leBytes 4 s.tel.markLo.toNat ++ leBytes 4 v.toNat)] } }) ∧
    (s.running = true → s.slotHeld d = true → s.tel.typeMask.getLsbD 0x08 = true →
      exec (.timeMark d) s = .next { s with tel := { s.tel with
        seq := s.tel.seq + 1,
        fifo := s.tel.fifo ++ [rec1 0x08 (0x10 ||| (d.setWidth 8 <<< 1)) (leBytes 8 (s.domTime d).toNat ++
          [b2w (s.dom d).time.locked 8, (s.dom d).time.stratum.setWidth 8, 0, 0])] } })) ∧
 (∀ (s : State) (r : TraceRec), s.running = true → s.areaOn areaTelemetry = true → s.portOn portStaging = true →
    s.tel.active = true → s.tel.fifo = [r] → s.tel.lostSince = 0 →
    ((s.tel.wrap = true ∨ (s.tel.tail - s.tel.head).toNat < s.tel.size.toNat) →
      ∃ t, exec (.traceRingWrite true) s = .next t ∧ t.tel.fifo = [] ∧ t.tel.tail = s.tel.tail + 1 ∧
        t.tel.active = s.tel.run ∧ s.outs.length < t.outs.length) ∧
    (s.tel.wrap = false → s.tel.size.toNat ≤ (s.tel.tail - s.tel.head).toNat →
      exec (.traceRingWrite true) s = .next { s with tel := { s.tel with active := true } }) ∧
    ∃ t, exec (.traceRingWrite false) s = .next t ∧ t.tel.fifo = [] ∧ t.tel.active = false ∧ t.tel.dmaErr = true ∧
      t.tel.tail = s.tel.tail ∧ t.tel.lost = State.lostAdd s.tel.lost 1 ∧ t.outs = s.outs)

/-! ### Power and meters -/

/-- CURRENT_WINDOW: the averages are shown, and the window length and the limits written last take effect (R70, R551). PM_LIM at
an enabled power-manager port while the block runs: a value of 0 is ignored and counted, one above the ceiling of its rail
(1,600 for VKX, 400 for VKM) is clamped and lim_clamped set, and the limit waits for the next window (R70); before start-up
step 15, por_b low, a wait for refclk and a Full Stop included, the strobe is kept for its end (R134). THROTTLE_STEP while
the block runs. A rail above 0.98 of its limit lowers the issue rate by 1/16, not below 1/16, where lim_unmet is set and LIMIT_FLOOR is in force; the rail's reason comes into force.
With every throttling rail below 0.95 the rate rises by 1/16, not above full rate. Between the two it stays (R552, R553).
DROOP_CROSSING halves the region's issue rate, not below 1/16, and DROOP_RELEASE restores it; the region's reason comes into
force and leaves it, and the other rates stay (R554). A BUDGET message on an AGREED link while the block runs: with a
nonzero reserved byte or a delta of 0 it is discarded and counted in tc0_bad. Else its word goes out on pm_bud where the port
is on, no word waits before it and the port takes it, which is free (log entry 138); otherwise it waits, 16 words at most, a
further one being dropped and bud_dropped set. No limit changes (R558). -/
def Obligations.CurrentThrottles : Prop :=
 (∀ (s : State) (x m : BitVec 16) (v : BitVec 12),
    (s.running = true → ∃ t, exec (.currentWindow x m) s = .next t ∧ t = { s with pwr := t.pwr } ∧ t.pwr.measVkx = x ∧
      t.pwr.measVkm = m ∧ t.pwr.windowNow = s.pwr.windowUs ∧ t.pwr.limVkx = s.pwr.pendVkx.getD s.pwr.limVkx ∧
      t.pwr.limVkm = s.pwr.pendVkm.getD s.pwr.limVkm ∧ t.pwr.pendVkx = none ∧ t.pwr.pendVkm = none) ∧
    (s.running = true → s.portOn portPm = true →
      (∀ r : Rail, exec (.pmLim r 0) s = .next { s with pwr := { s.pwr with zeroCount := satInc s.pwr.zeroCount } }) ∧
      (v ≠ 0 → v.toNat ≤ 1600 → exec (.pmLim .vkx v) s = .next { s with pwr := { s.pwr with
        limClamped := s.pwr.limClamped, pendVkx := some v } }) ∧
      (1600 < v.toNat → exec (.pmLim .vkx v) s = .next { s with pwr := { s.pwr with
        limClamped := true, pendVkx := some 1600 } }) ∧
      (v ≠ 0 → v.toNat ≤ 400 → exec (.pmLim .vkm v) s = .next { s with pwr := { s.pwr with
        limClamped := s.pwr.limClamped, pendVkm := some v } }) ∧
      (400 < v.toNat → exec (.pmLim .vkm v) s = .next { s with pwr := { s.pwr with
        limClamped := true, pendVkm := some 400 } })) ∧
    (∀ r : Rail, s.beforeStart = true →
      exec (.pmLim r v) s = .next { s with sys := { s.sys with pmLimPending := s.sys.pmLimPending ++ [(r, v)] } })) ∧
 (∀ (s : State) (x m : BitVec 16), s.running = true → s.pwr.ratesOk →
    ((98 * s.pwr.limVkx.toNat < 100 * x.toNat ∨ 98 * s.pwr.limVkm.toNat < 100 * m.toNat) →
      ∃ t, exec (.throttleStep x m) s = .next t ∧
        t.pwr.limRate.toNat = (if s.pwr.limRate.toNat = 1 then 1 else s.pwr.limRate.toNat - 1) ∧
        (s.pwr.limRate.toNat = 1 → t.pwr.limUnmet = true) ∧
        (s.pwr.limRate.toNat ≠ 1 → t.pwr.limUnmet = s.pwr.limUnmet) ∧
        t.pwr.inForce.getLsbD 5 = decide (s.pwr.limRate.toNat = 1) ∧
        (98 * s.pwr.limVkx.toNat < 100 * x.toNat → t.pwr.inForce.getLsbD 0 = true) ∧
        (98 * s.pwr.limVkm.toNat < 100 * m.toNat → t.pwr.inForce.getLsbD 1 = true)) ∧
    (¬ 98 * s.pwr.limVkx.toNat < 100 * x.toNat → ¬ 98 * s.pwr.limVkm.toNat < 100 * m.toNat →
      ∃ t, exec (.throttleStep x m) s = .next t ∧ t.pwr.limUnmet = s.pwr.limUnmet ∧ t.pwr.inForce.getLsbD 5 = false ∧
        t.pwr.limRate.toNat =
          (if (s.pwr.inForce.getLsbD 0 = true → 100 * x.toNat < 95 * s.pwr.limVkx.toNat) ∧
              (s.pwr.inForce.getLsbD 1 = true → 100 * m.toNat < 95 * s.pwr.limVkm.toNat) ∧ s.pwr.limRate.toNat < 16
            then s.pwr.limRate.toNat + 1 else s.pwr.limRate.toNat))) ∧
 (∀ (s : State) (r : Region), s.running = true →
    (∃ t, exec (.droopCrossing r) s = .next t ∧ (t.droopRate r).toNat = Nat.max 1 ((s.droopRate r).toNat / 2) ∧
      t.pwr.inForce.getLsbD (State.droopReason r) = true ∧ t.pwr.limRate = s.pwr.limRate ∧
      ∀ q : Region, q ≠ r → t.droopRate q = s.droopRate q) ∧
    (∃ t, exec (.droopRelease r) s = .next t ∧ (t.droopRate r).toNat = 16 ∧
      t.pwr.inForce.getLsbD (State.droopReason r) = false ∧ t.pwr.limRate = s.pwr.limRate ∧
      ∀ q : Region, q ≠ r → t.droopRate q = s.droopRate q)) ∧
 (∀ (s : State) (l : LinkId) (src : Member) (delta : BitVec 16) (z : Bool), s.running = true →
    (s.link l).core.phase = .agreed →
    (z = false ∨ delta = 0 → ∃ t, exec (.budget l src delta z) s = .next t ∧ t = { s with links := t.links } ∧
      (t.link l).tc0.bad = satInc (s.link l).tc0.bad) ∧
    (z = true → delta ≠ 0 →
      let w : BitVec 64 := (0 : BitVec 25) ++ (s.link l).core.slot ++ src ++ delta
      let s' : State := { s with freeCtr := s.freeCtr + 1 }
      (s.portOn portPm = true → s.pwr.budQueue = [] → Config.pmReady s.freeCtr = true →
        exec (.budget l src delta z) s = .next (s'.out (.pmBud w))) ∧
      (s.portOn portPm = true → s.pwr.budQueue = [] → Config.pmReady s.freeCtr = false →
        exec (.budget l src delta z) s = .next { s' with pwr := { s.pwr with budQueue := [w] } }) ∧
      (s.portOn portPm = false ∨ s.pwr.budQueue ≠ [] → s.pwr.budQueue.length < 16 →
        exec (.budget l src delta z) s = .next { s with pwr := { s.pwr with budQueue := s.pwr.budQueue ++ [w] } }) ∧
      (16 ≤ s.pwr.budQueue.length →
        exec (.budget l src delta z) s = .next { s with pwr := { s.pwr with budDropped := true } })))

/-- ENERGY_INTERVAL while the block runs: with no activity in any context or slot, the whole sample goes to the block; with
activity in one context that is in no slot, the dynamic part goes to that context and the static part to the block (R559).
Whole µJ are counted and the remainder kept (R560). The energy unit of a sample is the model's (log entry 1). METER_GO: in a
slot not held the request ends FN_OFF; a boundary not after the last one ends TIME_REGRESS; a boundary in the future is
pending with ST_OK (R563). METER_BOUNDARY: the pending boundary of a held slot that has no period is taken and cleared, its
snapshot numbered by the meter's seq, and held while the staging port is off (R564, R565). -/
def Obligations.EnergyAndMeters : Prop :=
 (∀ (s : State) (e : EnergySample), s.running = true → s.pwr.slotActivity = [] →
    (s.liveCtxs = [] → exec (.energyInterval e) s = .next { s with pwr := { s.pwr with
      blkEnergy := s.pwr.blkEnergy + BitVec.ofNat 64 ((s.pwr.blkEnergyRem + (e.static + e.dynamic)) / 65536),
      blkEnergyRem := (s.pwr.blkEnergyRem + (e.static + e.dynamic)) % 65536, slotActivity := [], blkActivity := 0 } }) ∧
    (∀ c : CtxId, s.liveCtxs = [c] → 0 < (s.ctx c).activity → s.ctxSlot c = none → s.pwr.blkActivity = 0 →
      ∃ t, exec (.energyInterval e) s = .next t ∧
        (t.ctx c).energy = (s.ctx c).energy + BitVec.ofNat 64 (((s.ctx c).energyRem + e.dynamic) / 65536) ∧
        (t.ctx c).energyRem = ((s.ctx c).energyRem + e.dynamic) % 65536 ∧ (t.ctx c).activity = 0 ∧
        t.pwr.blkEnergy = s.pwr.blkEnergy + BitVec.ofNat 64 ((s.pwr.blkEnergyRem + e.static) / 65536))) ∧
 (∀ (s : State) (d : Slot),
    (s.powerOn = true → s.slotHeld d = false →
      exec (.meterGo d) s = .next (s.setMtr d { s.mtr d with status := stFnOff })) ∧
    (s.powerOn = true → s.slotHeld d = true → (s.mtr d).boundAny = true → (s.mtr d).bound ≤ (s.mtr d).last →
      exec (.meterGo d) s = .next (s.setMtr d { s.mtr d with status := stTimeRegress })) ∧
    (s.powerOn = true → s.slotHeld d = true → (s.mtr d).boundAny = false → s.domTime d ≤ (s.mtr d).bound →
      exec (.meterGo d) s = .next (s.setMtr d { s.mtr d with
        status := stOk, pendingT := some ((s.mtr d).bound, (s.mtr d).utc), late := false })) ∧
    (s.powerOn = false → exec (.meterGo d) s = .next s) ∧
    (∀ T utc : BitVec 64, (s.mtr d).pendingT = some (T, utc) → s.running = true → s.slotHeld d = true →
      s.portOn portStaging = false → (s.mtr d).period = 0 →
      ∃ t, exec (.meterBoundary d) s = .next t ∧ (t.mtr d).pendingT = none ∧ (t.mtr d).seq = (s.mtr d).seq + 1 ∧
        (t.mtr d).tPrev = T ∧ (t.mtr d).last = T ∧ t = { s with pwr := t.pwr }) ∧
    ((s.mtr d).pendingT = none → exec (.meterBoundary d) s = .next s))

/-! ### Tray and enables -/

/-- TRAY_ENABLE sets the tray bit once por_b is high (R97) and TRAY_ACK frees the outstanding interrupt; each then sends the
first change that waits. TRAY_IBI_REPEAT sends the outstanding interrupt again (R67). -/
def Obligations.TrayInterrupts : Prop :=
  ∀ s : State,
    (s.sys.phase = .held → exec .trayEnable s = .next s) ∧
    (s.sys.phase ≠ .held → ∃ t, exec .trayEnable s = .next t ∧ t.portOn portTray = true ∧
      (∀ b : Nat, b ≠ 5 → t.clk.enPort.getLsbD b = s.clk.enPort.getLsbD b) ∧
      (∀ v rest, s.tray.outstanding = none → s.tray.pending = v :: rest →
        t.tray.outstanding = some v ∧ t.tray.pending = rest ∧ t.outs = .trayIbi v :: s.outs) ∧
      (s.tray.pending = [] → t.tray = s.tray ∧ t.outs = s.outs)) ∧
    (s.portOn portTray = true →
      (s.tray.pending = [] → exec .trayAck s = .next { s with tray := { s.tray with outstanding := none } }) ∧
      (∀ v rest, s.tray.pending = v :: rest → exec .trayAck s = .next { s with
        tray := { s.tray with outstanding := some v, pending := rest }, outs := .trayIbi v :: s.outs }) ∧
      (∀ v, s.tray.outstanding = some v → exec .trayIbiRepeat s = .next (s.out (.trayIbi v))))

/-! ### Power, reset and start -/

/-- The reset pins. POR_B_RISE, with por_b low until then, samples the straps, takes the role of role_sel and begins start-up
step 1 with the reference settle delay, every function enable and every key clear (R72, R73, R93, R103); a block whose por_b
is high already is not touched. POR_B_FALL holds all of it in reset but OTP and the island (R72). SYS_RST_B_PULSE is a Full
Stop with cause SYS_RESET and a new sample of role_sel (R11, R72, R73), a start in progress included from its settle delay on
(R108); while por_b is low it does nothing, and in a Full Stop or an Ellipsis it is recorded and starts no second reset (R539,
R547). The reference clock. REFCLK_LOST while the block runs or has failed its start enters Full Stop with cause REFCLK_LOST
(R74), fewer than two Full Stops being held as counted (R536); in reset, in the settle delay and in a start that waits it only
marks refclk as gone (R103), and in a Full Stop or an Ellipsis it is recorded besides. REFCLK_RETURN marks it as back, and does
no more where no start waits for it. -/
def Obligations.ResetPinsAndReference : Prop :=
 ((∀ (s : State) (x : Straps) (ok : Bool), s.sys.phase = .held → ∃ t, exec (.porBRise x ok) s = .next t ∧
    s.porFrom t .settle ∧ t.sys.straps = x ∧ t.sys.refclk = ok ∧ t.glb.role = x.roleSel ∧ t.boot.step = 1) ∧
  (∀ (s : State) (x : Straps) (ok : Bool), s.sys.phase ≠ .held → exec (.porBRise x ok) s = .next s) ∧
  (∀ s : State, ∃ t, exec .porBFall s = .next t ∧ s.porFrom t .held) ∧
  (∀ (s : State) (r : BitVec 1), s.sys.phase = .settle ∨ s.sys.phase = .waitRef ∨ s.sys.phase = .running ∨
      s.sys.phase = .failed →
    ∃ t, exec (.sysRstBPulse r) s = .next t ∧ s.stoppedFrom t causeSysReset false r ∧ t.sys.straps.roleSel = r ∧
      t.flt.stamps = s.flt.stamps) ∧
  (∀ (s : State) (r : BitVec 1), s.sys.phase = .held → exec (.sysRstBPulse r) s = .next s) ∧
  (∀ (s : State) (r : BitVec 1), s.sys.phase = .fullStop ∨ s.sys.phase = .ellipsis →
    exec (.sysRstBPulse r) s = .next (s.out (.record causeSysReset 0)))) ∧
 ((∀ (s : State) (r : BitVec 1), s.sys.phase = .running ∨ s.sys.phase = .failed → s.flt.stamps.length < 2 →
    ∃ t, exec (.refclkLost r) s = .next t ∧ s.stoppedFrom t causeRefclkLost false r ∧ t.sys.refclk = false ∧
      t.flt.stamps = s.now :: s.flt.stamps) ∧
  (∀ (s : State) (r : BitVec 1), s.sys.phase = .held ∨ s.sys.phase = .settle ∨ s.sys.phase = .waitRef →
    exec (.refclkLost r) s = .next { s with sys := { s.sys with refclk := false } }) ∧
  (∀ (s : State) (r : BitVec 1), s.sys.phase = .fullStop ∨ s.sys.phase = .ellipsis →
    exec (.refclkLost r) s = .next ({ s with sys := { s.sys with refclk := false } }.out (.record causeRefclkLost 0))) ∧
  (∀ (s : State) (env : StartEnv), s.sys.phase ≠ .waitRef →
    exec (.refclkReturn env) s = .next { s with sys := { s.sys with refclk := true } }))

/-- A start that comes to its end does so in one of two ways (R131, Table 4-1): the block runs with start-up step 15 reached, or
it stays failed with the nonzero code of the failing step. REFERENCE_SETTLE_DELAY_END starts a settling block, REFCLK_RETURN
one that waits at step 2, FULL_STOP_DONE one whose Full Stop has completed. Without refclk the start records the loss and waits
at step 2 (R74).
In any other phase the end of a settle delay or of a Full Stop is nothing. Start-up step 4 on a blank device and at end of
life, the lockstep pair of step 3 being good (R127, R131): the start fails there with its code and its tray reason, grade
Black, the register port and the Life-cycle and Debug area answering and no other area; no key comes out of OTP. -/
def Obligations.StartUp : Prop :=
 (let ended (t : State) : Prop := (t.sys.phase = .running ∧ t.boot.step = 15) ∨ (t.sys.phase = .failed ∧ t.boot.failCode ≠ 0)
  (∀ (s : State) (env : StartEnv), s.sys.phase = .settle → s.sys.refclk = true →
    ∃ t, exec (.referenceSettleDelayEnd env) s = .next t ∧ ended t) ∧
  (∀ (s : State) (env : StartEnv), s.sys.phase = .waitRef → ∃ t, exec (.refclkReturn env) s = .next t ∧ ended t) ∧
  (∀ (s : State) (env : StartEnv), s.sys.phase = .fullStop → s.sys.refclk = true →
    ∃ t, exec (.fullStopDone env) s = .next t ∧ ended t) ∧
  (∀ (s : State) (env : StartEnv), s.sys.phase = .settle → s.sys.refclk = false →
    exec (.referenceSettleDelayEnd env) s = .next ({ s with
      sys := { s.sys with phase := .waitRef }, boot := { s.boot with step := 2 } }.out (.record causeRefclkLost 0))) ∧
  (∀ (s : State) (env : StartEnv), s.sys.phase = .fullStop → s.sys.refclk = false →
    ∃ t, exec (.fullStopDone env) s = .next t ∧ t.sys.phase = .waitRef ∧ t.boot.step = 2) ∧
  (∀ (s : State) (env : StartEnv), s.sys.phase ≠ .settle → exec (.referenceSettleDelayEnd env) s = .next s) ∧
  (∀ (s : State) (env : StartEnv), s.sys.phase ≠ .fullStop → exec (.fullStopDone env) s = .next s)) ∧
 (∀ (s : State) (env : StartEnv), s.sys.phase = .settle → s.sys.refclk = true → env.coreMismatch = false →
    (lcDecode s.lcWord).isPartial = false → ((lcDecode s.lcWord).state = 0 ∨ (lcDecode s.lcWord).state = 3) →
    ∃ t, exec (.referenceSettleDelayEnd env) s = .next t ∧ t.sys.phase = .failed ∧ t.boot.step = 4 ∧
      t.boot.failCode = (if (lcDecode s.lcWord).state = 0 then fcLcBlank else fcLcEnd) ∧ t.tray.reason = t.boot.failCode ∧
      t.flt.health.grade = 3 ∧ t.portOn portReg = true ∧ t.areaOn areaLcd = true ∧
      t.lcd.state = (lcDecode s.lcWord).state ∧ t.keys = s.keys ∧ t.otp = s.otp ∧
      ∀ b : Nat, b ≠ areaLcd → t.clk.enArea.getLsbD b = s.clk.enArea.getLsbD b)

/-! ### Faults and resets -/

/-- KX_FLT_RESET_REQ, which the PF writes while the front end area answers it (R538, R539, R549): OKAY where the request is
taken; DENIED, with no effect but the capture of R609, for a Full Stop without the confirm value 0x5253 and for a target that
does not exist (the target of a Full Stop is 0). A taken Full Stop stops the block with cause HOST_REQUEST. A taken Comma of a
context leaves it FAULTED; a reset that hangs leaves its target in reset and waits for its watchdog (R535). A request that a
reset in progress covers is taken and starts no second reset (Table 18-5). RESET_WATCHDOG_EXPIRY (R535, Table 18-4): for no
reset in progress it is nothing; a Comma that hangs ends with its context FAULTED; a Semicolon that hangs, of an engine of no
virtual device, and a Colon that hangs become a Full Stop with cause ESCALATED, and a Full Stop that hangs an Ellipsis: grade
Black on the tray with that cause, and no start follows it (R547). -/
def Obligations.ResetsAndEscalation : Prop :=
 (∀ s : State, s.running = true → s.portOn portReg = true → s.areaOn areaFrontEnd = true →
    let ok (u : State) : State := u.out (.regRsp 0 rcOkay)
    let denied : State := (s.regCapture 0 true 0x015008 rcDenied).out (.regRsp 0xFFFFFFFF rcDenied)
    let last (lvl : BitVec 3) (n : BitVec 10) : FltLast := { level := lvl, escalated := false, cause := causeHostRequest, target := n }
    (∀ r : BitVec 1, ∃ u : State, exec (.resetReqFullStop 0x5253 0 r) s = .next (ok u) ∧ s.stoppedFrom u causeHostRequest false r) ∧
    (∀ (k : BitVec 16) (n : BitVec 10) (r : BitVec 1), k ≠ 0x5253 ∨ n ≠ 0 →
      exec (.resetReqFullStop k n r) s = .next denied) ∧
    (∀ (c : CtxId) (b : Bool), (s.ctx c).phase = .free → exec (.resetReqComma c b) s = .next denied.settleAll) ∧
    (∀ (c : CtxId) (b : Bool), (s.ctx c).phase ≠ .free → s.covered lvlComma c = true →
      exec (.resetReqComma c b) s = .next (ok s).settleAll) ∧
    (∀ c : CtxId, (s.ctx c).phase ≠ .free → s.covered lvlComma c = false →
      (∃ u : State, exec (.resetReqComma c true) s = .next (ok u).settleAll ∧ (u.ctx c).phase = .faulted ∧ (u.ctx c).cancelled = [] ∧
        u.flt.last = last lvlComma c ∧ u.flt.event.getLsbD fevComma = true) ∧
      (∃ u : State, exec (.resetReqComma c false) s = .next (ok u).settleAll ∧ (u.ctx c).phase = .resetting ∧
        (u.ctx c).cause = causeHostRequest ∧
        u.flt.resets = s.flt.resets ++ [{ level := lvlComma, target := c, cause := causeHostRequest }])) ∧
    (∀ (e : BitVec 10) (b : Bool), 101 < e.toNat → exec (.resetReqSemicolon e b) s = .next denied.settleAll) ∧
    (∀ (e : BitVec 10) (b : Bool), e.toNat ≤ 101 → s.covered lvlSemicolon e = true →
      exec (.resetReqSemicolon e b) s = .next (ok s).settleAll) ∧
    (∀ e : BitVec 10, e.toNat ≤ 101 → s.covered lvlSemicolon e = false →
      (∃ u : State, exec (.resetReqSemicolon e true) s = .next (ok u).settleAll ∧ u.flt.last = last lvlSemicolon e ∧
        u.flt.event.getLsbD fevSemicolon = true) ∧
      (∃ u : State, exec (.resetReqSemicolon e false) s = .next (ok u).settleAll ∧ (u.eng e.toNat).resetting = true ∧
        u.flt.resets = s.flt.resets ++ [{ level := lvlSemicolon, target := e, cause := causeHostRequest }])) ∧
    (∀ (v : BitVec 10) (b : Bool), 64 ≤ v.toNat ∨ (s.vdev (v.setWidth 6)).present = false →
      exec (.resetReqColon v b) s = .next denied.settleAll) ∧
    (∀ (v : BitVec 10) (b : Bool), v.toNat < 64 → (s.vdev (v.setWidth 6)).present = true → s.covered lvlColon v = true →
      exec (.resetReqColon v b) s = .next (ok s).settleAll) ∧
    (∀ v : BitVec 10, v.toNat < 64 → (s.vdev (v.setWidth 6)).present = true → s.covered lvlColon v = false →
      (∃ u : State, exec (.resetReqColon v true) s = .next (ok u).settleAll ∧ u.flt.last = last lvlColon v ∧
        u.flt.event.getLsbD fevColon = true) ∧
      (∃ u : State, exec (.resetReqColon v false) s = .next (ok u).settleAll ∧
        u.flt.resets = s.flt.resets ++ [{ level := lvlColon, target := v, cause := causeHostRequest }]))) ∧
 (∀ (s : State) (n : BitVec 10) (r : BitVec 1),
    let runs (lvl : BitVec 3) : Bool := s.flt.resets.any fun x => x.level == lvl && x.target == n
    (∀ lvl : BitVec 3, runs lvl = false → exec (.resetWatchdogExpiry lvl n r) s = .next s.settleAll) ∧
    (runs lvlComma = true → (s.ctx n).phase = .resetting →
      ∃ u : State, exec (.resetWatchdogExpiry lvlComma n r) s = .next u.settleAll ∧ (u.ctx n).phase = .faulted) ∧
    (∀ lvl : BitVec 3, runs lvl = true → lvl = lvlColon ∨ (lvl = lvlSemicolon ∧ s.clusterVd n.toNat = none) →
      s.canStop = true → s.flt.stamps.length < 2 →
      ∃ t, exec (.resetWatchdogExpiry lvl n r) s = .next t ∧ s.stoppedFrom t causeEscalated true r) ∧
    (runs lvlFullStop = true → s.sys.phase = .fullStop →
      ∃ u : State, exec (.resetWatchdogExpiry lvlFullStop n r) s = .next u.settleAll ∧ u.sys.phase = .ellipsis ∧
        u.flt.health.grade = 3 ∧ u.tray.grade = 3 ∧ u.tray.reason = causeEscalated ∧
        u.tray.ellipsisCount = satInc s.tray.ellipsisCount ∧
        u.flt.last = { level := lvlEllipsis, escalated := true, cause := causeEscalated, target := 0 } ∧
        ∀ env : StartEnv, exec (.fullStopDone env) u.settleAll = .next u.settleAll))

/-- ENGINE_STALL_SAMPLE while the block runs (R524, R525): an engine with work that is no wait, no progress since the last
sample and no throttle in force counts one more idle sample, every other one starts at 0 again; all samples are taken. A
stall is declared while the block runs, once stall_samples samples in a row are idle (R524, R526 to R531). The Arbiter: Full
Stop. A memory cluster whose controller owes a response: a Semicolon with cause MC_NO_RESPONSE. An engine with replay and with
suspects: a Semicolon, then the replay of up to 8 suspects at a time from copies of their commands, during which no further
stall of it is declared. Another engine: a Semicolon with cause ENGINE_STALL. The end of one replay (R529, R530): the copies of
the suspect under test have run dry and are gone. Guilty, once 16 samples of the replay are idle: the suspect under test holds
STALL_GUILTY, the engine counts it; cleared: it does not. Either way the next suspect comes under test, and after the last one
the engine leaves replay. Of an engine without a replay both are nothing. The trust core and its memories while the block runs
(R540, R562, Table 18-8): a lockstep mismatch, and an error in script SRAM or the key store, is a Full Stop; a mismatch with the
cold spare in use already is grade Black first; an error in an engine's SRAM is a Semicolon of that engine; one in the meter
SRAM begins a new meter run. While it does not run none has an effect. -/
def Obligations.EngineFaults : Prop :=
 (∀ s : State,
    (s.running = false → exec .engineStallSample s = .next s) ∧
    (s.running = true → ∃ t, exec .engineStallSample s = .next t ∧ t = { s with flt := t.flt } ∧
      ∀ e : Nat, e < 102 → (t.eng e).sampled = (s.eng e).progress ∧ (t.eng e).progress = (s.eng e).progress ∧
        (t.eng e).idleRun = (if s.pendingWork e = true ∧ (s.eng e).progress = (s.eng e).sampled ∧ s.throttled e = false
          then satInc (s.eng e).idleRun else 0))) ∧
 (∀ (s : State) (e : EngineId) (r : BitVec 1), e.toNat ≤ 101 →
    let owed : Bool := s.mem.out.any fun q => q.ch == State.engChan e.toNat && !q.discard
    let semi (c : Cause) : FltLast := { level := lvlSemicolon, escalated := false, cause := c, target := e.setWidth 10 }
    (s.running = false ∨ (s.eng e.toNat).replaying = true ∨ (s.eng e.toNat).idleRun < s.flt.stallSamples →
      exec (.engineStall e r) s = .next s.settleAll) ∧
    (s.running = true → (s.eng e.toNat).replaying = false → s.flt.stallSamples ≤ (s.eng e.toNat).idleRun →
      (e.toNat = engArbiter → s.flt.stamps.length < 2 →
        ∃ t, exec (.engineStall e r) s = .next t ∧ s.stoppedFrom t causeArbiterStall false r) ∧
      (e.toNat < 32 → owed = true →
        ∃ u : State, exec (.engineStall e r) s = .next u.settleAll ∧ u.flt.last = semi causeMcNoResponse) ∧
      (State.hasReplay e.toNat = true → s.suspectsOf e.toNat ≠ [] →
        ∃ (u : State) (others : List ReplayRun) (kept : List (EngineId × Cmd)),
          exec (.engineStall e r) s = .next u.settleAll ∧ (u.eng e.toNat).replaying = true ∧
          u.flt.replays = others ++ [{ engine := e, suspects := (s.suspectsOf e.toNat).take 8,
                                       rest := (s.suspectsOf e.toNat).drop 8, guilty := false }] ∧
          u.fe.replayStore = kept ++ s.storeOf e ((s.suspectsOf e.toNat).take 8) ∧
          u.flt.last = semi causeStallSuspect) ∧
      (State.hasReplay e.toNat = false → e.toNat ≠ engArbiter → (e.toNat < 32 → owed = false) →
        (s.eng e.toNat).unattributed.length < 2 →
        ∃ u : State, exec (.engineStall e r) s = .next u.settleAll ∧ u.flt.last = semi causeEngineStall ∧
          u.flt.event.getLsbD fevSemicolon = true))) ∧
 (∀ (s : State) (e : EngineId) (a : List DryAnswers), e.toNat ≤ 101 →
    let others := s.flt.replays.filter fun x => x.engine != e
    let mine (c : CtxId) (y : EngineId × Cmd) : Bool := y.1 == e && y.2.ctx == c
    (s.underTest e = none → exec (.replayGuilty ⟨e, a⟩) s = .next s.settleAll ∧ exec (.replayCleared ⟨e, a⟩) s = .next s.settleAll) ∧
    (∀ (c : CtxId) (rest wait : List CtxId) (g : Bool),
      (s.flt.replays.find? fun x => x.engine == e) = some { engine := e, suspects := c :: rest, rest := wait, guilty := g } →
      ((s.eng e.toNat).idleRun < 16 → exec (.replayGuilty ⟨e, a⟩) s = .next s.settleAll) ∧
      (16 ≤ (s.eng e.toNat).idleRun → State.hasReplay e.toNat = true → (∀ x : CtxId, s.onEngine e.toNat x = false) →
        ∃ u : State, exec (.replayGuilty ⟨e, a⟩) s = .next u.settleAll ∧ (u.ctx c).cause = causeStallGuilty ∧
        (u.eng e.toNat).guiltyCount = satInc (s.eng e.toNat).guiltyCount ∧ u.flt.event.getLsbD fevGuilty = true ∧
        (∀ x : CtxId, x ≠ c → u.ctx x = s.ctx x) ∧
        u.fe.replayStore = s.fe.replayStore.filter (fun y => !mine c y) ∧
        (rest ≠ [] → u.flt.replays = others ++ [{ engine := e, suspects := rest, rest := wait, guilty := true }]) ∧
        (rest = [] → u.flt.replays = others ∧ (u.eng e.toNat).replaying = false)) ∧
      (∃ u : State, exec (.replayCleared ⟨e, a⟩) s = .next u.settleAll ∧
        (rest ≠ [] → (∀ x : CtxId, u.ctx x = s.ctx x) ∧
          u.fe.replayStore = s.fe.replayStore.filter (fun y => !mine c y) ∧
          u.flt.replays = others ++ [{ engine := e, suspects := rest, rest := wait, guilty := g }]) ∧
        (rest = [] → g = true ∨ (s.eng e.toNat).unattributed.length < 2 → (∀ x : CtxId, u.ctx x = s.ctx x) ∧
          u.fe.replayStore = s.fe.replayStore.filter (fun y => !mine c y) ∧ u.flt.replays = others ∧
          (u.eng e.toNat).replaying = false)))) ∧
 (∀ (s : State) (r : BitVec 1) (e : EngineId), e.toNat ≤ 101 →
    (s.running = true → s.flt.stamps.length < 2 →
      (s.flt.health.coldCore = false →
        ∃ t, exec (.trustCoreMismatch r) s = .next t ∧ s.stoppedFrom t causeCoreMismatch false r) ∧
      (s.flt.health.coldCore = true →
        ∃ t, exec (.trustCoreMismatch r) s = .next t ∧ t.sys.phase = .fullStop ∧ t.flt.health.kept = 3) ∧
      (∃ t, exec (.sramFault none false r) s = .next t ∧ s.stoppedFrom t causeSramFault false r)) ∧
    (s.running = true → ∃ u : State, exec (.sramFault (some e) false r) s = .next u.settleAll ∧
      u.flt.last = { level := lvlSemicolon, escalated := false, cause := causeSramFault, target := e.setWidth 10 } ∧
      u.flt.event.getLsbD fevSemicolon = true ∧ s.outs.length < u.outs.length) ∧
    (s.running = true → ∃ u : State, exec (.sramFault (some e) true r) s = .next u.settleAll ∧
      u = { s with isl := { s.isl with mono := s.isl.mono + 1 }, pwr := u.pwr } ∧
      u.pwr.run = (s.isl.mono + 1).setWidth 32 ∧
      ∀ d : Slot, (u.mtr d).counts = [] ∧ (u.mtr d).energy = 0 ∧ (u.mtr d).seq = 0 ∧ (u.mtr d).heldReports = []) ∧
    (s.running = false → exec (.trustCoreMismatch r) s = .next s.settleAll ∧
      ∀ (m : Bool) (o : Option EngineId), o = none ∨ o = some e → exec (.sramFault o m r) s = .next s.settleAll))

/-! ### The register port -/

/-- R40. Wherever the register port takes an access it answers it, and an answer other than OKAY carries 0xFFFF_FFFF and leaves
the block as it was, but for the capture of R609, which records the first such access and stands while it is valid. -/
def Obligations.RefusedAccessHasNoEffect : Prop :=
  ∀ (s : State) (fn : Fn) (w : Bool) (a : BitVec 24) (d : Word),
    (s.regTakes = false → exec (.registerWrite fn w a d) s = .next s.settleAll) ∧
    (s.regTakes = true → ∃ (u : State) (x : Word) (c : BitVec 2),
      exec (.registerWrite fn w a d) s = .next (u.out (.regRsp x c)).settleAll ∧
      (c ≠ rcOkay → x = 0xFFFFFFFF ∧ ∃ g, u = { s with glb := g } ∧
        (s.glb.eiValid = true → g = s.glb) ∧
        (s.glb.eiValid = false → g = s.glb ∨ g = { s.glb with
          eiValid := true, eiWrite := w, eiCode := c, eiFn := fn, errAddr := a })))

/-- The conditions of Table 22-2 in their order, on a running block whose register port is enabled and whose error capture is
taken already (R598): an address that is no multiple of 4, DECODE; no area there, DECODE; a function the area does not
admit, DENIED; the area's enable off, OFF; no register there, DECODE; a write of a register that cannot be written, DENIED;
else the register's word, and a write of one that can be written leaves what its chapter says. KX_GLB_ID returns 0x4B58_3A00
to every function (R10). A W1C register keeps the bits written 0 (R601): KX_KEY_EVENT. Reading KX_CLK_BTIME_LO latches the
high word of that moment for the same function (R602), and its next read of KX_CLK_BTIME_HI returns the latch. That the
response to a write carries 0 is the model's choice (log entry 136). DBG_ACCESS (R71, R156, R597): while the block neither runs
nor has failed its start, before step 4 has decoded the life cycle, and with debug closed in Test and in Production, the port
behaves as BYPASS. With debug open the access is decided as one of the PF: a read of KX_GLB_ID returns its word. On a blank
device and at end of life only the Life-cycle and Debug area is in reach, at end of life for reads; beyond it the answer is
DENIED. -/
def Obligations.RegisterAndDebugAccess : Prop :=
 (∀ (s : State) (fn : Fn) (w : Bool) (a : BitVec 24) (d : Word), s.running = true → s.portOn portReg = true →
    s.glb.eiValid = true →
    let answer (u : State) (x : Word) (c : BitVec 2) : Prop :=
      exec (.registerWrite fn w a d) s = .next (u.out (.regRsp x c)).settleAll
    let refused (c : BitVec 2) : Prop := answer s 0xFFFFFFFF c
    (a.toNat % 4 ≠ 0 → refused rcDecode) ∧
    (a.toNat % 4 = 0 → regAreaOf a.toNat = none → refused rcDecode) ∧
    (∀ r off, a.toNat % 4 = 0 → regAreaOf a.toNat = some (r, off) →
      (regAdmits fn w r off = false → refused rcDenied) ∧
      (regAdmits fn w r off = true → s.regAreaOn r = false → refused rcOff) ∧
      (regAdmits fn w r off = true → s.regAreaOn r = true → s.regAt fn false {} r off = none → refused rcDecode) ∧
      (∀ g, regAdmits fn w r off = true → s.regAreaOn r = true → s.regAt fn false {} r off = some g →
        (w = true → g.write = none → refused rcDenied) ∧
        (∀ f, w = true → g.write = some f → f d = none → refused rcDenied) ∧
        (∀ f u, w = true → g.write = some f → f d = some u → answer u 0 rcOkay) ∧
        (w = false → g.readable = false → refused rcDenied) ∧
        (w = false → g.readable = true → g.hi = none → g.latched = false → answer s g.value rcOkay)))) ∧
 (∀ (s : State) (fn : Fn) (d : Word), s.running = true → s.portOn portReg = true →
    exec (.registerWrite fn false 0x000000 d) s = .next (s.out (.regRsp 0x4B583A00 rcOkay)).settleAll ∧
    (s.areaOn areaKeystore = true →
      exec (.registerWrite 0 false 0x020004 d) s = .next (s.out (.regRsp (s.keys.event.setWidth 32) rcOkay)).settleAll ∧
      exec (.registerWrite 0 true 0x020004 d) s = .next (({ s with
        keys := { s.keys with event := s.keys.event &&& ~~~ d.setWidth 7 } } : State).out (.regRsp 0 rcOkay)).settleAll) ∧
    (∃ u : State, exec (.registerWrite 0 false 0x060300 d) s = .next (u.out (.regRsp (s.now.setWidth 32) rcOkay)).settleAll ∧
      u = { s with glb := u.glb } ∧
      let t := (u.out (.regRsp (s.now.setWidth 32) rcOkay)).settleAll
      exec (.registerWrite 0 false 0x060304 d) t = .next (t.out (.regRsp (s.now.extractLsb' 32 32) rcOkay)).settleAll)) ∧
 (∀ (s : State) (w : Bool) (a : BitVec 24) (d : Word),
    (s.running = false → s.sys.phase ≠ .failed → exec (.dbgAccess w a d) s = .next (s.out .dbgBypass).settleAll) ∧
    (s.lcd.debugOpen = false → s.lcd.decoded = false ∨ s.lcd.state = 1 ∨ s.lcd.state = 2 →
      exec (.dbgAccess w a d) s = .next (s.out .dbgBypass).settleAll) ∧
    (s.running = true → s.lcd.debugOpen = true →
      exec (.dbgAccess false 0 d) s = .next (s.out (.dbgRsp 0x4B583A00 rcOkay)).settleAll) ∧
    (s.running = true → s.lcd.debugOpen = false → s.lcd.decoded = true → s.lcd.state = 0 ∨ s.lcd.state = 3 →
      s.glb.eiValid = true →
      exec (.dbgAccess w 0 d) s = .next (s.out (.dbgRsp 0xFFFFFFFF rcDenied)).settleAll ∧
      (s.lcd.state = 3 → exec (.dbgAccess true a d) s = .next (s.out (.dbgRsp 0xFFFFFFFF rcDenied)).settleAll)))

/-- R470. KX_FE_SHARE of function f and queue q (1 to 4) lies at 0x01_1000 + 0x20 × f + 4 × q: the PF reads and writes it, while
the front end area is enabled; a VF access receives DENIED, and so does a write that sets weight or burst to 0. -/
def Obligations.ShareRegister : Prop :=
  ∀ (s : State) (f : Fn) (q : BitVec 3) (d : Word), 1 ≤ q.toNat → q.toNat ≤ 4 → s.running = true →
    s.portOn portReg = true → s.areaOn areaFrontEnd = true →
    let a : BitVec 24 := BitVec.ofNat 24 (0x011000 + 0x20 * f.toNat + 4 * q.toNat)
    let denied (g : Glb) : State := ({ s with glb := g } : State).out (.regRsp 0xFFFFFFFF rcDenied)
    exec (.registerWrite 0 false a d) s = .next (s.out (.regRsp
      ((s.shareOf f q).weight ++ (s.shareOf f q).rate ++ (s.shareOf f q).burst) rcOkay)).settleAll ∧
    (∀ (v : Fn) (w : Bool), v ≠ 0 → ∃ g, exec (.registerWrite v w a d) s = .next (denied g).settleAll) ∧
    (d.extractLsb' 24 8 = 0 ∨ d.extractLsb' 0 12 = 0 →
      ∃ g, exec (.registerWrite 0 true a d) s = .next (denied g).settleAll) ∧
    (d.extractLsb' 24 8 ≠ 0 → d.extractLsb' 0 12 ≠ 0 → ∃ u : State,
      exec (.registerWrite 0 true a d) s = .next (u.out (.regRsp 0 rcOkay)).settleAll ∧
      (u.shareOf f q).weight = d.extractLsb' 24 8 ∧
      (u.shareOf f q).rate = d.extractLsb' 12 12 ∧ (u.shareOf f q).burst = d.extractLsb' 0 12)

/-! ### Memory -/

/-- A memory request of a master that is there is refused at acceptance, before any effect on memory: on a channel that does
not serve with ST_FN_OFF (R96, R197), in a protected range that does not admit it with ST_PROTECTED and the alarm (R235), under
a key index of another slot, or of none, with ST_KEY_SCOPE and the alarm (R225). A debug master is not there while debug is
closed (R156). A memory request that is accepted on a channel that is ready, with nothing waiting, no fence entry of its line
and none of its line's partial writes under way. A read takes the lowest free identifier of its sub-port and goes out (R42,
R226). A write of a whole line whose context has consumed no unsettled group is sealed under the key for new writes and goes
out, its channel's written mask taking the index (R222, R227, R512); one whose context has consumed such a group enters the
fence and nothing goes out (R237). MEM_PARTIAL_WRITE on the same conditions, its bytes being fewer than the line's: the line is
read, and with an answer whose tag verifies the line with the bytes written in it is sealed and goes out (R227). With an answer
that does not the security alarm is recorded (R231), a requester with a port of its own receives a bus error, and nothing is
written. -/
def Obligations.MemoryAccesses : Prop :=
 (∀ (s : State) (m : Master) (i : KeyIdx) (d : Dpa) (x : Line), s.running = true → m ≠ .debug →
    let both (u : State) : Prop :=
      exec (.memReadRequest m i d) s = .next u.settleAll ∧ exec (.memWriteRequest m i d x) s = .next u.settleAll
    let refused (b : Nat) (st : Status) : State := { s with
      mem := { s.mem with alarm := setBitTo s.mem.alarm b true }, outs := .memDone m (lineDpa d) st :: s.outs }
    (s.mcServes (dpaChan d) = false → both (s.out (.memDone m (lineDpa d) stFnOff))) ∧
    (s.mcServes (dpaChan d) = true →
      (s.admitted m d = false → both (refused memPrRefused stProtected)) ∧
      (∀ y : Slot, s.admitted m d = true → s.masterSlot m = some (some y) → i ≠ 0 →
        ((s.memIdx i).assigned = false ∨ (s.memIdx i).slot ≠ y) → both (refused memScopeRefused stKeyScope)) ∧
      (s.admitted m d = true → s.masterSlot m = none → i ≠ 0 → (s.memIdx i).assigned = false →
        both (refused memScopeRefused stKeyScope))) ∧
    (s.lcd.debugOpen = false → exec (.memReadRequest .debug i d) s = .next s.settleAll ∧
      exec (.memWriteRequest .debug i d x) s = .next s.settleAll)) ∧
 (∀ (s : State) (m : Master) (i : KeyIdx) (d : Dpa) (x : Line) (id : BitVec 6), s.running = true → m ≠ .debug →
    s.mem.waits = [] → s.fencedOn d = [] → s.lineBusy d = false → s.mcReady (dpaChan d) = true →
    s.freeMcId (dpaChan d) (dpaSub d) = some id →
    (s.memRefusal m i d false = none → ∃ u : State, exec (.memReadRequest m i d) s = .next u.settleAll ∧
      u.outs = .mcReq (dpaChan d) (dpaSub d) id false (dpaLine d) 0 0 :: s.outs ∧
      let p : McPurpose := .read m (s.trialKeys i d) [] []
      let q : McReq := {
        ch := dpaChan d, sub := dpaSub d, id := id, key := i, dpa := lineDpa d, purpose := p, discard := false, tag := none,
        issue := State.tweakIssue (s.laneCluster (.mc (dpaChan d))) d p }
      u.mem = { s.mem with out := s.mem.out ++ [q] }) ∧
    (s.memRefusal m i d true = none → (s.memIdx i).futureHeld = false → (s.memIdx i).urgent = false →
      (∀ k, s.masterRefs m = [] → s.writeKeyOf i = some k →
        ∃ u : State, exec (.memWriteRequest m i d x) s = .next u.settleAll ∧
        u.outs = .mcReq (dpaChan d) (dpaSub d) id true (dpaLine d) (sealLine k i (lineDpa d) x).1
          (sealLine k i (lineDpa d) x).2 :: s.outs ∧
        (u.chan (dpaChan d)).written.getLsbD i.toNat = true ∧ u.mem.fence = s.mem.fence) ∧
      (s.masterRefs m ≠ [] → s.mem.fence.length < State.fenceSize →
        ∃ u : State, exec (.memWriteRequest m i d x) s = .next u.settleAll ∧
        u.outs = s.outs ∧ u.mem.out = s.mem.out ∧ u.mem.fence = s.mem.fence ++ [{
          data := x, mask := BitVec.allOnes 64, dpa := lineDpa d, key := i, master := m, refs := s.masterRefs m,
          tag := none }]))) ∧
 (∀ (s : State) (m : Master) (i : KeyIdx) (d : Dpa) (mask : BitVec 64) (x : Line) (at' : Bool) (rsp : McRsp)
    (id : BitVec 6) (k : Bytes), s.running = true → m ≠ .debug →
    s.mem.waits = [] → s.fencedOn d = [] → s.lineBusy d = false → s.mcReady (dpaChan d) = true →
    s.freeMcId (dpaChan d) (dpaSub d) = some id → s.memRefusal m i d true = none → s.masterRefs m = [] →
    (s.memIdx i).sweeping = false → (s.memIdx i).futureHeld = false → (s.memIdx i).urgent = false →
    s.memKey i false = some k → mask ≠ BitVec.allOnes 64 → rsp.status = 0 → rsp.rside.extractLsb' 28 4 = i →
    (∀ p, openLine k (lineDpa d) rsp.rdata rsp.rside = some p →
      ∃ t id', exec (.memPartialWrite m i d mask x at' rsp) s = .next t ∧
      let c := sealLine k i (lineDpa d) (mergeLine p x mask)
      (.mcReq (dpaChan d) (dpaSub d) id' true (dpaLine d) c.1 c.2 ::
        .mcReq (dpaChan d) (dpaSub d) id false (dpaLine d) 0 0 :: s.outs) <:+ t.outs) ∧
    (openLine k (lineDpa d) rsp.rdata rsp.rside = none →
      ∃ t, exec (.memPartialWrite m i d mask x at' rsp) s = .next t ∧
        let alarmed : List PortOut := .memTagFail (dpaChan d) (dpaLine d) i (masterCtx m) ::
          .record causeMemTagFail (lineDpa d).toNat :: .mcReq (dpaChan d) (dpaSub d) id false (dpaLine d) 0 0 :: s.outs
        (if State.memTold none m then alarmed else .memDone m (lineDpa d) stBusError :: alarmed) <:+ t.outs))

/-- MC_RESPONSE with status OKAY. For an outstanding read, an answer of the right index whose tag verifies under a key of the
read is released with the fence entries of its line merged in (R226, R240); one that verifies under none raises the security
alarm (R231), and a requester with a port of its own receives a bus error. For a write of such a requester it ends it. A
response owed by a request that is discarded is accepted and does no more (R35). For an identifier that is not outstanding it is
a protocol violation, counted and logged (R36, R42, R608). -/
def Obligations.ControllerResponses : Prop :=
  ∀ (s : State) (ch : ChanId) (sub : BitVec 2) (id : BitVec 6) (rsp : McRsp) (q : McReq), rsp.status = 0 →
    let there := s.mem.out.find? fun q => q.ch == ch && q.sub == sub && q.id == id && !q.isMerged
    (∀ m keys merge refs, there = some q → q.discard = false → q.purpose = .read m keys merge refs → keys ≠ [] →
      rsp.rside.extractLsb' 28 4 = q.key →
      (∀ p, (keys.findSome? fun k => openLine k (lineDpa q.dpa) rsp.rdata rsp.rside) = some p →
        ∃ t, exec (.mcResponse ch sub id rsp) s = .next t ∧
          (.memData m q.dpa (State.mergeAll p merge) refs :: s.outs) <:+ t.outs) ∧
      ((keys.findSome? fun k => openLine k (lineDpa q.dpa) rsp.rdata rsp.rside) = none →
        ∃ t, exec (.mcResponse ch sub id rsp) s = .next t ∧
          let alarmed : List PortOut := .memTagFail (dpaChan q.dpa) (dpaLine q.dpa) q.key (masterCtx m) ::
            .record causeMemTagFail (lineDpa q.dpa).toNat :: s.outs
          (if State.memTold q.tag m then alarmed else .memDone m (lineDpa q.dpa) stBusError :: alarmed) <:+ t.outs)) ∧
    (∀ m, there = some q → q.discard = false → q.purpose = .write m → State.memTold q.tag m = false →
      ∃ t, exec (.mcResponse ch sub id rsp) s = .next t ∧ (.memDone m (lineDpa q.dpa) stOk :: s.outs) <:+ t.outs) ∧
    (there = some q → q.discard = true → exec (.mcResponse ch sub id rsp) s =
      .next (State.settleAll { s with mem := { s.mem with out := s.mem.out.filter (· != q) } })) ∧
    (there = none → s.running = true → ∃ g : Glb, exec (.mcResponse ch sub id rsp) s =
        .next (State.settleAll { s with glb := g }) ∧
      g.peCount = satInc s.glb.peCount ∧ g.peMc = true ∧ g.peStaging = s.glb.peStaging ∧
      (s.glb.plValid = false → g.plValid = true ∧ g.plPort = 0 ∧ g.plChan = ch ∧ g.plSub = sub) ∧
      (s.glb.plValid = true → g.plChan = s.glb.plChan ∧ g.plSub = s.glb.plSub)) ∧
    (there = none → s.running = false → exec (.mcResponse ch sub id rsp) s = .next s.settleAll)

/-- MC_CLK_LOST stops the channel's requests and is recorded while the channel is enabled; MC_CLK_RELOCK lets them go again, the
lines of partial writes that have been merged first (R85). The Inflection sweep. SWEEP_START under an index whose secret is held
derives the Future and starts every channel at its first line (R243). SWEEP_LINE reads the next line of a channel that serves;
one that opens under the Present goes out again under the Future, and the pointer moves on (R245); with no line left it does
nothing. SWEEP_URGENT holds the requester writes of a sweeping index (R249). None has an effect while the block does not run.
The trust core's registers. A protected range takes base, limit, owner and enable while it is off, but a write that would
enable it with base above limit is ignored; while it is on only enable is taken (R236). A line count of 0 to 2^20 is taken
(R254) and another is not (log entry 1). -/
def Obligations.MemoryLinesAndSweeps : Prop :=
 (∀ (s : State) (ch : ChanId),
    (exec (.mcClkLost ch) s = .next { s with clk := { s.clk with
      mcUnlocked := setBitTo s.clk.mcUnlocked ch.toNat true
      mcClkLost := if s.running = true ∧ s.mcOn ch = true then setBitTo s.clk.mcClkLost ch.toNat true else s.clk.mcClkLost } }) ∧
    (∃ u : State, exec (.mcClkRelock ch) s = .next u.settleAll ∧
      u.clk = { s.clk with mcUnlocked := setBitTo s.clk.mcUnlocked ch.toNat false } ∧
      (s.mem.waits = [] → s.mem.fence = [] → (∀ q ∈ s.mem.out, q.isMerged = false) → u = { s with clk := u.clk })) ∧
    ∀ t, exec (.mcClkLost ch) s = .next t → t.mcReady ch = false) ∧
 (∀ (s : State) (i : KeyIdx) (ch : ChanId) (rsp : McRsp),
    (s.running = false → exec (.sweepStart i) s = .next s.settleAll ∧ exec (.sweepLine i ch rsp) s = .next s.settleAll ∧
      exec (.sweepUrgent i) s = .next s) ∧
    (s.running = true → i ≠ 0 → s.mem.waits = [] → (∀ j, (s.memIdx j).sweeping = false) → s.keyUsable (State.rowIndex i) = true →
      State.xtsEqual (s.memKeyBytes i (s.memGen i + 1)) = false → s.mcServes ch = true → (s.chan ch).lines ≠ 0 →
      ∃ u : State, exec (.sweepStart i) s = .next u.settleAll ∧ (u.memIdx i).sweeping = true ∧
        (u.memIdx i).futureHeld = false ∧ ∀ c : ChanId, u.sweepPtrOf c i = 0) ∧
    (s.running = true → (s.memIdx i).sweeping = true → s.mcServes ch = true → s.mcReady ch = true →
      let ptr := s.sweepPtrOf ch i
      let d := mkDpa ch (ptr.setWidth 32)
      (ptr.toNat < (s.chan ch).lines.toNat * 4096 → s.fencedOn d = [] → s.lineBusy d = false → s.mem.waits = [] →
        ∀ id kp kf p, s.freeMcId ch (dpaSub d) = some id → s.memKey i false = some kp → s.memKey i true = some kf →
          rsp.status = 0 → rsp.rside.extractLsb' 28 4 = i → openLine kp d rsp.rdata rsp.rside = some p →
          ∃ u : State, exec (.sweepLine i ch rsp) s = .next u.settleAll ∧
            (.mcReq ch (dpaSub d) id true (dpaLine d) (sealLine kf i d p).1 (sealLine kf i d p).2 ::
              .mcReq ch (dpaSub d) id false (dpaLine d) 0 0 :: s.outs) <:+ u.outs ∧
            ((∀ j, j ≠ i → (s.memIdx j).sweeping = false) →
              ptr.toNat + 1 < (s.chan ch).lines.toNat * 4096 → u.sweepPtrOf ch i = ptr + 1)) ∧
      ((s.chan ch).lines.toNat * 4096 ≤ ptr.toNat → exec (.sweepLine i ch rsp) s = .next s.settleAll)) ∧
    (s.running = true → s.hasFuture i = true →
      exec (.sweepUrgent i) s = .next (s.setMemIdx i { s.memIdx i with urgent := true })) ∧
    (s.hasFuture i = false → exec (.sweepUrgent i) s = .next s)) ∧
 (∀ (s : State) (r : BitVec 6) (b l : BitVec 31) (o : Slot) (e : Bool) (ch : ChanId) (n : BitVec 21),
    (s.running = true → ∃ t, exec (.protectedRangeWrite r b l o e) s = .next t ∧
      t = { s with mem := { s.mem with ranges := t.mem.ranges } } ∧
      (∀ k : BitVec 6, k ≠ r → Tab.get {} t.mem.ranges k.toNat = Tab.get {} s.mem.ranges k.toNat) ∧
      let old := Tab.get {} s.mem.ranges r.toNat
      (old.enable = true → Tab.get {} t.mem.ranges r.toNat = { old with enable := e }) ∧
      (old.enable = false → e = true → l < b → Tab.get {} t.mem.ranges r.toNat = old) ∧
      (old.enable = false → e = false ∨ b ≤ l →
        Tab.get {} t.mem.ranges r.toNat = { base := b, limit := l, owner := o, enable := e })) ∧
    (s.running = true → n.toNat ≤ 2 ^ 20 → (∀ j, (s.memIdx j).sweeping = false) →
      exec (.mcLinesWrite ch n) s = .next (s.setChan ch { s.chan ch with lines := n }).settleAll) ∧
    (2 ^ 20 < n.toNat → exec (.mcLinesWrite ch n) s = .next s.settleAll) ∧
    (s.running = false → exec (.protectedRangeWrite r b l o e) s = .next s ∧
      exec (.mcLinesWrite ch n) s = .next s.settleAll))

/-! ### Link ports -/

/-- lk_up and the link's clocks on a running block with the link enabled (R47, R51, R86 to R91). LK_UP_RISE with both clocks
qualified selects the port clocks, unless a forced switch waits for lk_up to be low, and issues the initial receive credits
of Table 2-8; LK_UP_FALL on a link without an Agreement and with no declared partner voids every credit, ends what is on the
wire and puts both directions onto the fallback clock; a stall of a selected clock forces its direction alone onto it, and is
recorded. On a link that is off only the pin and the qualification are noted, early_up where lk_up rises before it.
LK_TX_CREDIT adds one credit of its class while the link is up (R48) and LK_TX_READY lets the link layer take eight units at
most, in order (R49). TC0_TOKEN_TICK adds a token up to 4 (R398); FLOOD_CACHE_EXPIRY forgets one pair of the slot (R404);
TOMBSTONE_EXPIRY forgets the tombstone (R290). -/
def Obligations.LinkPinsAndCounters : Prop :=
 (∀ (s : State) (l : LinkId),
    (∀ q : Option (BitVec 11), (s.link l).core.up = true → exec (.lkUpRise l q) s = .next s) ∧
    (∀ f : BitVec 11, s.linkLive l = true → (s.link l).core.up = false → (s.link l).io.rxOwedCredits = [] →
      (s.link l).clk.needDown = false → (s.link l).clk.rxSel = false → (s.link l).clk.txSel = false → s.declOf l = none →
      s.poolRole = true ∨ s.clk.deliveryUnlocked = false →
      ∃ t, exec (.lkUpRise l (some f)) s = .next t ∧ (t.link l).core.up = true ∧ (t.link l).core.phase = .up ∧
        (t.link l).clk.rxSel = true ∧ (t.link l).clk.txSel = true ∧ (t.link l).clk.rxFreq = f ∧
        t.outs = .lkCred l 3 16 :: .lkCred l 2 16 :: .lkCred l 1 16 :: .lkCred l 0 4 :: s.outs) ∧
    (∀ q : Option (BitVec 11), s.linkLive l = false → (s.link l).core.up = false → ∃ t, exec (.lkUpRise l q) s = .next t ∧
      (t.link l).core = { (s.link l).core with up := true } ∧ (t.link l).clk.rxLock = q.isSome ∧
      (t.link l).clk.txLock = q.isSome ∧ (t.link l).clk.rxFreq = q.getD 0 ∧
      (t.link l).clk.earlyUp = ((s.link l).clk.earlyUp || (q.isNone && s.sys.phase != .held)) ∧
      (t.link l).clk.rxSel = (s.link l).clk.rxSel ∧ t = { s with links := t.links }) ∧
    ((s.link l).core.up = false → exec (.lkUpFall l) s = .next s.settleAll) ∧
    (s.linkLive l = true → (s.link l).core.up = true → s.declOf l = none → (s.link l).core.phase ≠ .agreed →
      ∃ u : State, exec (.lkUpFall l) s = .next u.settleAll ∧ u = { s with links := u.links } ∧
        (u.link l).core.up = false ∧ (u.link l).core.phase = .down ∧ (u.link l).clk.rxSel = false ∧
        (u.link l).clk.txSel = false ∧ (u.link l).clk.needDown = false ∧ (u.link l).io.txCredits = [] ∧
        (u.link l).io.rxCredits = [] ∧ (u.link l).io.wire = []) ∧
    (s.linkLive l = true → (s.link l).clk.txSel = true → ∃ t, exec (.linkClockStall l true) s = .next t ∧
      t = { s with links := t.links, outs := .record recLinkClkForced (2 * l.toNat + 1) :: s.outs } ∧
      (t.link l).clk.txSel = false ∧ (t.link l).clk.txLock = false ∧
      (t.link l).clk.forcedTx = true ∧ (t.link l).clk.needDown = true ∧ (t.link l).clk.rxSel = (s.link l).clk.rxSel ∧
      (t.link l).core.retrain = true ∧ (t.link l).core.phase = (s.link l).core.phase ∧ (t.link l).io.txCredits = []) ∧
    (s.linkLive l = true → (s.link l).clk.rxSel = true → ∃ t, exec (.linkClockStall l false) s = .next t ∧
      t = { s with links := t.links, outs := .record recLinkClkForced (2 * l.toNat) :: s.outs } ∧
      (t.link l).clk.rxSel = false ∧ (t.link l).clk.rxLock = false ∧
      (t.link l).clk.forcedRx = true ∧ (t.link l).clk.rxFreq = 0 ∧ (t.link l).clk.needDown = true ∧
      (t.link l).clk.txSel = (s.link l).clk.txSel ∧ (t.link l).core.retrain = true ∧
      (t.link l).core.phase = (s.link l).core.phase) ∧
    (∀ tx : Bool, s.linkLive l = false ∨ (if tx then (s.link l).clk.txSel else (s.link l).clk.rxSel) = false →
      exec (.linkClockStall l tx) s = .next s) ∧
    (∀ f : BitVec 11, ∃ t, exec (.linkClockQualified l f) s = .next t ∧ (t.link l).clk.rxLock = true ∧
      (t.link l).clk.txLock = true ∧ (t.link l).clk.rxFreq = f ∧ t = { s with links := t.links, outs := t.outs } ∧
      (s.linkLive l = true → (s.link l).core.up = true → (s.link l).clk.needDown = false →
        (t.link l).clk.rxSel = true ∧ (t.link l).clk.txSel = true) ∧
      (s.linkLive l = true → (s.link l).clk.needDown = true → (t.link l).clk.rxSel = (s.link l).clk.rxSel))) ∧
 (∀ (s : State) (l : LinkId),
    (∀ c : Cls, s.linkLive l = true → (s.link l).core.up = true → ∃ t, exec (.lkTxCredit l c) s = .next t ∧
      t = { s with links := t.links } ∧ t.txCredit l c = s.txCredit l c + 1 ∧
      ∀ (m : LinkId) (d : Cls), (m ≠ l ∨ d ≠ c) → t.txCredit m d = s.txCredit m d) ∧
    (∀ c : Cls, s.linkLive l = false ∨ (s.link l).core.up = false → exec (.lkTxCredit l c) s = .next s) ∧
    (∀ w rest, s.linkLive l = true → (s.link l).core.up = true → (s.link l).clk.txSel = true →
      (s.link l).io.wire = w :: rest → 8 < w.units → ∃ t, exec (.lkTxReady l) s = .next t ∧
      t.outs = .lkUnits l 8 :: s.outs ∧ (t.link l).io.wire = { w with units := w.units - 8 } :: rest) ∧
    (s.linkLive l = false ∨ (s.link l).io.wire = [] → exec (.lkTxReady l) s = .next s) ∧
    (s.linkLive l = true → ∃ t, exec (.tc0TokenTick l) s = .next t ∧ t = { s with links := t.links } ∧
      (t.link l).tc0.tokens.toNat = (if (s.link l).tc0.tokens.toNat < 4 then (s.link l).tc0.tokens.toNat + 1
        else (s.link l).tc0.tokens.toNat)) ∧
    (s.linkLive l = false → exec (.tc0TokenTick l) s = .next s) ∧
    (∀ (d : Slot) (src : Member) (n : BitVec 32), ∃ t, exec (.floodCacheExpiry d src n) s = .next t ∧
      t = { s with flood := t.flood } ∧
      ∀ e : FloodEntry, e ∈ t.flood ↔ e ∈ s.flood ∧ ¬ (e.slot = d ∧ e.src = src ∧ e.transfer = n)) ∧
    (∃ t, exec (.tombstoneExpiry l) s = .next t ∧ t = { s with links := t.links } ∧
      (t.link l).core = { (s.link l).core with tombLive := false } ∧ (t.link l).tomb = {} ∧
      ∀ m : LinkId, m ≠ l → t.link m = s.link m))

/-- RECEIVE_GROUP on a live link (R259, R263, Table 9-5), for the group that its units frame (R49). A group other than an OPEN
one that fails a check of 1 to 8 receives Repudiate, which is recorded with link, class, seq and check. An OPEN group that
passes is handed to the Agreement function. A SEALED or FABRIC group that passes is in flight under the material of its key
row; a Subjunctive one of a delivery channel is presented at once where the port is open and no other group waits there. A
port that does not receive takes nothing. GROUP_CONFIRM and GROUP_REPUDIATE are the tag unit's answer for a group in flight,
which the model computes from the group itself (log entry 87): without such a group they are nothing. A Repudiate is
recorded; a Confirm of a delivered group whose last beat has gone presents its Verdict (R54), and while its beats have not
gone the Verdict waits; one of a CONTROL group carried on one link hands it to the trust core. -/
def Obligations.GroupsReceivedAndJudged : Prop :=
 (∀ (s : State) (l : LinkId) (us : List RxUnit),
    (frameGroup us = none ∨ s.linkLive l = false ∨ (s.link l).core.up = false ∨ (s.link l).clk.rxSel = false → ∀ b : Bool,
      exec (.receiveGroup l us b) s = .next s.settleAll) ∧
    (∀ g, frameGroup us = some g → s.linkLive l = true → (s.link l).core.up = true → (s.link l).clk.rxSel = true →
      (∀ n, s.rxCheck l g false = .inl n → hdrKind g.header ≠ kindOpen →
        ∃ t, exec (.receiveGroup l us false) s = .next t ∧
          (.linkRepudiate l (hdrCls g.header) (hdrSeq g.header) n :: .record causeLinkRepudiate l.toNat :: s.outs) <:+
            t.outs) ∧
      (∀ r, s.rxCheck l g false = .inr r → hdrKind g.header = kindOpen → g.cut = false →
        ∃ t, exec (.receiveGroup l us false) s = .next t ∧ (.agreeFragment l g.payload :: s.outs) <:+ t.outs) ∧
      (∀ r, s.rxCheck l g false = .inr r → hdrKind g.header ≠ kindOpen → g.cut = false → s.stormDue l = false →
        ∃ (u : State) (f : RxFlight), exec (.receiveGroup l us false) s = .next u.settleAll ∧
          f ∈ (u.link l).io.flight ∧ f.cls = hdrCls g.header ∧ f.seq = hdrSeq g.header ∧
          f.inst = (s.link l).io.inst ∧ f.header = g.header ∧ f.payload = g.payload ∧ f.tag = g.tag ∧
          f.material = (s.row r).material ∧ f.row = r ∧
          (s.isSubjunctive g.header = false → f.gid = none) ∧
          (s.isSubjunctive g.header = true → isDeliver g.header = true → s.deliveryOpen = true →
            (s.link l).io.flight = [] → (s.link l).io.held = [] →
            f.gid = some (s.link l).del.gidNext ∧ f.consumers = [hdrCtx g.header] ∧
            (u.link l).del.beats = (s.link l).del.beats ++ groupBeats (State.groupPlain f) (hdrLen g.header)
              (hdrCls g.header) (hdrCtx g.header) (s.link l).del.gidNext true false)))) ∧
 (∀ (s : State) (l : LinkId) (c : Cls) (seq : BitVec 64),
    let found := (s.link l).io.flight.find? fun g => g.cls == c && g.seq == seq && !g.due
    (found = none → exec (.groupConfirm l c seq) s = .next s.settleAll ∧
      exec (.groupRepudiate l c seq) s = .next s.settleAll) ∧
    (∀ g, found = some g →
      (State.groupOk g = false → s.verdictNow l g = true →
        ∃ t, exec (.groupRepudiate l c seq) s = .next t ∧ exec (.groupConfirm l c seq) s = .next t ∧
          (.linkRepudiate l c seq (if g.cut then 0 else 9) :: .record causeLinkRepudiate l.toNat :: s.outs) <:+ t.outs) ∧
      (∀ x, State.groupOk g = true → g.gid = some x → State.beatsGone (s.link l).del x = true → s.deliveryOpen = true →
        ∃ t, exec (.groupConfirm l c seq) s = .next t ∧ (.cdVerdict l x true :: s.outs) <:+ t.outs) ∧
      (∀ x, g.gid = some x → State.beatsGone (s.link l).del x = false → s.stormDue l = false →
        exec (.groupConfirm l c seq) s =
          .next (s.modFlight (State.flightRef l g) fun y => { y with due := true }).settleAll) ∧
      (State.groupOk g = true → g.gid = none → g.placed = false → hdrKind g.header = kindSealed →
        hdrDest g.header = destControl → State.tc0OneLink (byteAt (State.groupPlain g) 0) = true →
        State.tc0BodyOk (State.groupPlain g) = true → ∃ t, exec (.groupConfirm l c seq) s = .next t ∧
          (.tcMessage l (s.link l).core.slot (State.groupPlain g) :: s.outs) <:+ t.outs)))

/-- TRANSMIT_GROUP while the block runs. A context's request that is refused ends with its status and one that is not waits in
the link's queue, where the link can start no group of the class (R96, R270). The first group of the class that waits for no
Verdict goes out where the link can start it (R48, R255, R267): its header names the partner, the class and the next sequence
number, its payload is sealed under the Present of its stream, and the tag unit follows. An OPEN group of the Agreement goes
out in the clear (R259). -/
def Obligations.GroupsSent : Prop :=
  ∀ (s : State) (l : LinkId) (c : Cls), s.running = true →
    (∀ (q : TxReq) (st : Status), s.canStart l c = false → (s.ctx q.ctx).phase = .active →
      s.txRefusal l c q = some st →
      exec (.transmitGroup l c (some q) false) s = .next (s.out (.linkDone q.ctx l st)).settleAll) ∧
    (∀ q : TxReq, s.canStart l c = false → (s.ctx q.ctx).phase = .active → s.txRefusal l c q = none →
      ∃ (u : State) (x : TxItem), exec (.transmitGroup l c (some q) false) s = .next u.settleAll ∧
        u = { s with links := u.links } ∧
        (u.link l).io.txq = (s.link l).io.txq ++ [x] ∧ x.cls = c ∧ x.payload = q.payload ∧ x.dest = q.dest ∧
        x.ctx = some q.ctx ∧ x.refs = s.ctxRefs q.ctx) ∧
    (∀ x r, s.canStart l c = true → s.yields l c = false → c ≠ 0 → s.txNext l c = some x → s.sealRow l c = some r →
      let row := s.row r
      let h := groupHeader (s.link l).core.pMember x.ctxField x.vdTag (s.link l).core.slot x.dest x.kind (row.gen.setWidth 2)
        x.cls (BitVec.ofNat 9 x.payload.length) (s.txSeqOf l x.cls)
      let sealed := gcmSeal (leBytes 32 row.material.toNat) (groupIv row.material (s.txSeqOf l x.cls)) (leBytes 16 h.toNat)
        x.payload
      ∃ t, exec (.transmitGroup l c none false) s = .next t ∧
        (.lkGroup l (leBytes 16 h.toNat ++ pad16 sealed.1 ++ sealed.2) :: s.outs) <:+ t.outs) ∧
    (∀ x : Tc0Item, s.canStart l 0 = true → s.tc0Next l = some x → x.isOpen = true →
      let h := groupHeader x.dstMember 0 0 x.slot destControl kindOpen 0 0 (BitVec.ofNat 9 x.payload.length)
        (s.link l).io.openSeq
      ∃ u : State, exec (.transmitGroup l 0 none false) s = .next u.settleAll ∧
        u.outs = .lkGroup l (leBytes 16 h.toNat ++ pad16 x.payload ++ zeros 16) :: s.outs ∧
        u.txCredit l 0 = s.txCredit l 0 - 1)

/-- The delivery port (R53 to R58, Table 3-3). DELIVERY_CLK_LOST on a running Node of accelerator role holds it and clears what its
channels show; DELIVERY_CLK_RELOCK ends the hold, with cd_flush where the port is on, and Repudiates every group presented
without a Verdict. DELIVERY_BEAT_ACCEPT presents the first beat that waits, unless 16 delivered groups wait for their
Verdict. RECEIVE_RING_SPACE writes a Confirmed group that met its ring full to memory for its context (R265). -/
def Obligations.DeliveryPort : Prop :=
  ∀ (s : State) (l : LinkId),
    (s.running = false ∨ s.poolRole = true →
      exec .deliveryClkLost s = .next { s with clk := { s.clk with deliveryUnlocked := true } }) ∧
    (s.running = true → s.poolRole = false → ∃ t, exec .deliveryClkLost s = .next t ∧ t.clk.deliveryUnlocked = true ∧
      ∀ m : LinkId, (t.link m).del = {}) ∧
    (s.clk.deliveryUnlocked = false → exec .deliveryClkRelock s = .next s.settleAll) ∧
    (s.clk.deliveryUnlocked = true → s.running = false ∨ s.poolRole = true →
      exec .deliveryClkRelock s = .next { s with clk := { s.clk with deliveryUnlocked := false } }.settleAll) ∧
    (s.clk.deliveryUnlocked = true → s.running = true → s.poolRole = false →
      ∃ t, exec .deliveryClkRelock s = .next t ∧ t.clk.deliveryUnlocked = false ∧
        (s.portOn portDelivery = true → ∃ os, (.cdFlush :: (os ++ s.outs)) <:+ t.outs) ∧
        ∀ (m : LinkId) (g : RxFlight), g ∈ unsettledOf (s.link m) →
          ∃ os, (.linkRepudiate m g.cls g.seq 0 :: (os ++ s.outs)) <:+ t.outs) ∧
    (∀ b rest, (s.link l).del.beats = b :: rest → s.running = true → s.deliveryOpen = true →
      State.channelFull (s.link l) = false →
      (∃ t, exec (.deliveryBeatAccept l) s = .next t ∧ (.cdBeat l b :: s.outs) <:+ t.outs) ∧
      (b.last = false → (s.link l).io.held = [] → (s.link l).io.flight = [] → s.stormDue l = false →
        exec (.deliveryBeatAccept l) s =
          .next ((s.modLink l fun k => { k with del.beats := rest }).out (.cdBeat l b)).settleAll)) ∧
    ((s.link l).del.beats = [] ∨ s.running = false ∨ s.deliveryOpen = false ∨ State.channelFull (s.link l) = true →
      exec (.deliveryBeatAccept l) s = .next s.settleAll) ∧
    (∀ (c : Cls) (x : CtxId) (g : RxHeld), (s.link l).io.held = [g] → (s.link l).io.flight = [] →
      isRing g.header = true → g.cls = c → hdrCtx g.header = x →
      let free := { s.modLink l fun k => { k with ringFull := k.ringFull.filter (· != (c, x)) } with
        freeCtr := s.freeCtr + 1 }
      let place := Config.ringPlace s.freeCtr
      ∃ u : State, exec (.receiveRingSpace l c x) s = .next u.settleAll ∧
        u.mem = (free.memStore (.ctx x) place.2 [] (some (.ring l c x)) (g.payload.length + 1) place.1 g.payload).1.mem ∧
        (u.link l).io.held = [] ∧ (c, x) ∉ (u.link l).ringFull) ∧
    (∀ (c : Cls) (x : CtxId), (s.link l).io.held = [] → (s.link l).io.flight = [] →
      ∃ u : State, exec (.receiveRingSpace l c x) s = .next u.settleAll ∧
        u = { s with links := u.links } ∧ (c, x) ∉ (u.link l).ringFull)

/-! ### Agreements -/

/-- An Agreement message on a link that is not live, not up or has no declared partner is nothing (R276, R281). HELLO at the
responder, on a link without an Agreement (R276, R281, R284, R285). Where Korux takes no part, or a check of R281 fails, ABORT
goes out with the reason and what is held stays; else the responder is AGREEING with the initiator, its attempt and its
transcript. A HELLO that is not higher than the attempt held is discarded. The checks read certificates and signatures, whose
verdicts are free (log entry 10). -/
def Obligations.AgreementBegins : Prop :=
 (∀ (s : State) (l : LinkId) (p : AgrPrefix) (b : AgrBody) (g : Bytes) (k : BitVec 128) (r : Byte),
    s.linkLive l = false ∨ (s.link l).core.up = false ∨ s.declOf l = none →
    exec (.hello l p b) s = .next s.settleAll ∧ exec (.reply l p b) s = .next s ∧ exec (.finish l p g k) s = .next s ∧
    exec (.done l p k) s = .next s ∧ exec (.abort l p r) s = .next s ∧ exec (.agreementRetry l) s = .next s) ∧
 (∀ (s : State) (l : LinkId) (p : AgrPrefix) (b : AgrBody) (d : Slot) (x : Decl), s.agrReady l = some (d, x) →
    (p.attempt.toNat ≤ s.heldAttempt l → exec (.hello l p b) s = .next s.settleAll) ∧
    (s.heldAttempt l < p.attempt.toNat → (s.row (State.rowLas l)).outOfUse = false → (s.link l).core.phase ≠ .agreed →
      ∃ u : State, exec (.hello l p b) s = .next u.settleAll ∧
        (∀ st, s.agreeRefusal d = some st →
          (u.link l).core = { (s.link l).core with abortSent := agrState } ∧ (u.link l).agr = (s.link l).agr) ∧
        (∀ r, s.agreeRefusal d = none → s.agrCheck l d x p b true = some r →
          (u.link l).core = { (s.link l).core with abortSent := r } ∧ (u.link l).agr = (s.link l).agr) ∧
        (s.agreeRefusal d = none → s.agrCheck l d x p b true = none → (u.link l).core.phase = .agreeing ∧
          (u.link l).core.initiator = false ∧ (u.link l).core.pMember = x.partner ∧ (u.link l).core.slot = d ∧
          (u.link l).core.attempt = p.attempt.setWidth 2 ∧ (u.link l).agr.hello = p.raw ∧
          (u.link l).agr.peerCert = b.cert)))

/-- REPLY and DONE at the initiator, FINISH at the responder, each of the attempt the link holds (R280, R283, Table 9-12). A
check that fails draws ABORT, and so does every message where Korux takes no part (R277). A REPLY that passes
leaves the LAS ready and the ephemeral secrets erased; a FINISH or a DONE that passes makes the link AGREED, the LAS in its row and the Agreement counted. A message of another attempt is nothing. -/
def Obligations.AgreementSteps : Prop :=
  ∀ (s : State) (l : LinkId) (p : AgrPrefix) (b : AgrBody) (sigI : Bytes) (kc : BitVec 128) (d : Slot) (x : Decl),
    s.agrReady l = some (d, x) →
    let agreed (t : State) (las : Bytes) : Prop := (t.link l).core.phase = .agreed ∧
      (t.link l).core.agreeCount = satInc (s.link l).core.agreeCount ∧ (t.row (State.rowLas l)).valid = true ∧
      (t.row (State.rowLas l)).material = (leBv 256 las).setWidth 288 ∧ (t.link l).tc0.gates = []
    (s.awaits l p true = false → exec (.reply l p b) s = .next s ∧ exec (.done l p kc) s = .next s) ∧
    (s.awaits l p false = false → exec (.finish l p sigI kc) s = .next s) ∧
    (s.awaits l p true = true → (s.link l).agr.hello ≠ [] → (s.link l).agr.lasReady = false →
      ∃ t, exec (.reply l p b) s = .next t ∧
        (∀ st, s.agreeRefusal d = some st → (t.link l).core.abortSent = agrState ∧ (t.link l).agr = {}) ∧
        (∀ r, s.agreeRefusal d = none → s.agrCheck l d x p b false = some r →
          (t.link l).core.abortSent = r ∧ (t.link l).agr = {}) ∧
        (s.agreeRefusal d = none → s.agrCheck l d x p b false = none →
          let thr := sha384 ((s.link l).agr.hello ++ p.raw.take (p.raw.length - 4736))
          if State.sigMsgOk (Config.certFacts b.cert).aliasKeys "KX3-AGREE-R" thr b.sig = true then
            (t.link l).agr.lasReady = true ∧ (t.link l).agr.kemSecret = 0 ∧ (t.link l).agr.ecdhSecret = 0 ∧
              (t.link l).agr.peerCert = b.cert ∧ (t.link l).core = (s.link l).core
          else (t.link l).core.abortSent = agrSig ∧ (t.link l).agr = {})) ∧
    (s.awaits l p false = true → (s.link l).agr.reply ≠ [] → (s.row (State.rowLas l)).outOfUse = false →
      (s.link l).core.slot = d →
      let a := (s.link l).agr
      let las := State.hybrid a.ssKem a.ssEcdh a.th "KX3-LINK-AGREE" (s.domainIdOf d)
      ∃ t, exec (.finish l p sigI kc) s = .next t ∧
        (s.agreeRefusal d ≠ none → (t.link l).core.abortSent = agrState ∧ (t.link l).core.phase = .agreeing) ∧
        (s.agreeRefusal d = none → kc ≠ State.confirmTag las a.th 1 "KX3-AGREE-KC" →
          (t.link l).core.abortSent ∈ [agrFormat, agrSig, agrKc] ∧ (t.link l).core.phase = .agreeing) ∧
        (s.agreeRefusal d = none → State.agrFormOk p = true →
          State.sigMsgOk (Config.certFacts a.peerCert).aliasKeys "KX3-AGREE-I" a.th sigI = true →
          kc = State.confirmTag las a.th 1 "KX3-AGREE-KC" → agreed t las)) ∧
    (s.awaits l p true = true → (s.link l).agr.lasReady = true → s.agreeRefusal d = none → State.agrFormOk p = true →
      (s.row (State.rowLas l)).outOfUse = false → (s.link l).core.slot = d →
      let las := leBytes 32 (s.link l).agr.las.toNat
      (kc = State.confirmTag las (s.link l).agr.th 2 "KX3-AGREE-KC" → ∃ t, exec (.done l p kc) s = .next t ∧ agreed t las) ∧
      (kc ≠ State.confirmTag las (s.link l).agr.th 2 "KX3-AGREE-KC" → ∃ t, exec (.done l p kc) s = .next t ∧
        (t.link l).core.abortSent = agrKc ∧ ((s.link l).core.attempt = 3 → (t.link l).core.phase = .absent) ∧
        ((s.link l).core.attempt ≠ 3 → (t.link l).core.phase = .agreeing ∧ (t.link l).agr = {})))

/-- The ends of an attempt (R284, Table 9-22). ABORT records its reason, a reserved one or
one with a nonzero reserved byte as AGR_FORMAT. The third attempt that
times out makes the partner Absent, an earlier one leaves the link AGREEING for AGREEMENT_RETRY, which sends the next HELLO.
The responder's timer makes the partner Absent. On a link without such an attempt the timers are nothing. LINK_PULSE_TIMER
on an AGREED link queues one LINK_PULSE and not a second one (R287). PARTNER_LOST and a Confirmed LINK_BYE end the Agreement
with causes LOST and CLOSED (Table 9-14, R289), here with no program loaded, no group in flight and no fabric request: the
cause is recorded, the tombstone names the partner, the 24 link keys and the LAS are erased. A LINK_BYE with a nonzero
reserved byte is counted and discarded (R8, R261); on a link that is not AGREED all three are nothing. -/
def Obligations.AgreementAttemptsEnd : Prop :=
 (∀ (s : State) (l : LinkId) (d : Slot) (x : Decl), s.agrReady l = some (d, x) →
    (∀ (p : AgrPrefix) (r : Byte), ∃ t, exec (.abort l p r) s = .next t ∧
      (t.link l).core.abortRcvd = (if 1 ≤ r.toNat ∧ r.toNat ≤ 9 ∧ p.reservedZero = true then r else agrFormat)) ∧
    ((s.link l).core.phase = .agreeing → (s.link l).core.initiator = true → (s.link l).agr.hello ≠ [] →
      ∃ t, exec (.agreementAttemptTimeout l) s = .next t ∧ (t.link l).core.abortSent = agrTimeout ∧ (t.link l).agr = {} ∧
        ((s.link l).core.attempt = 3 → (t.link l).core.phase = .absent ∧ (t.link l).core.event.getLsbD lkevAbsent = true) ∧
        ((s.link l).core.attempt ≠ 3 → (t.link l).core.phase = .agreeing)) ∧
    ((s.link l).core.phase = .agreeing → (s.link l).core.initiator = true → (s.link l).agr.hello = [] →
      ∃ t, exec (.agreementRetry l) s = .next t ∧
        (s.agreeRefusal d = none → (t.link l).core.phase = .agreeing ∧
          (t.link l).core.attempt = (s.link l).core.attempt + 1 ∧ (t.link l).agr.since = some s.now) ∧
        (s.agreeRefusal d ≠ none → (t.link l).core.phase = .up ∧ (t.link l).core.abortSent = agrState)) ∧
    ((s.link l).core.phase = .agreeing → (s.link l).core.initiator = false →
      ∃ t, exec (.responderTimeout l) s = .next t ∧ (t.link l).core.phase = .absent ∧
        (t.link l).core.event.getLsbD lkevAbsent = true) ∧
    ((s.link l).core.phase ≠ .agreeing → exec (.agreementAttemptTimeout l) s = .next s ∧
      exec (.responderTimeout l) s = .next s ∧ exec (.agreementRetry l) s = .next s)) ∧
 (∀ (s : State) (l : LinkId) (cause : Byte),
    (s.linkLive l = false ∨ (s.link l).core.phase ≠ .agreed → ∀ z : Bool, exec (.linkPulseTimer l) s = .next s ∧
      exec (.partnerLost l) s = .next s.settleAll ∧ exec (.linkBye l cause z) s = .next s.settleAll) ∧
    (s.linkLive l = true → (s.link l).core.phase = .agreed →
      ((s.link l).tc0.queue = [] → ∃ t, exec (.linkPulseTimer l) s = .next t ∧ t = { s with links := t.links } ∧
        (t.link l).tc0.queue = [{ prio := 2, isOpen := false, dstMember := 0, slot := 0, payload := 0x31 :: zeros 7 }] ∧
        exec (.linkPulseTimer l) t = .next t) ∧
      (∃ u : State, exec (.linkBye l cause false) s = .next u.settleAll ∧ u = { s with links := u.links } ∧
        (u.link l).tc0.bad = satInc (s.link l).tc0.bad ∧ (u.link l).core = (s.link l).core) ∧
      (s.red.progs = [] → (s.link l).io.flight = [] → (s.link l).fabOut = [] → (s.link l).fabWait = [] →
        let ended (t : State) (c : BitVec 8) : Prop := (t.link l).core.lastEnd = c ∧ (t.link l).core.tombLive = true ∧
          (t.link l).core.tombLink = (s.link l).core.pLink ∧ (t.link l).core.tombMember = (s.link l).core.pMember ∧
          (t.row (State.rowLas l)).valid = false ∧ ∀ i : Nat, i < 24 → (t.row (249 + 24 * l.toNat + i)).valid = false
        (∃ u : State, exec (.linkBye l cause true) s = .next u.settleAll ∧ ended u endClosed) ∧
        (∃ u : State, exec (.partnerLost l) s = .next u.settleAll ∧ ended u endLost))))

/-! ### Keys and Tenses -/

/-- A Tense change at the transmitting end of an AGREED stream (Tables 6-4, 6-5, R176 to R178). KEY_ROLL and KEY_THRESHOLD in
Steady derive the Future into its row and offer it. KEY_READY of the Future makes it the Present, the old one being erased;
any other sets kconf_bad. The retry timer offers again, four times at most. A Tense change at the receiving end (Table 6-6,
R180). KEY_FUTURE that confirms derives the Future and answers KEY_READY; while a Past is held it waits, and one that does
not confirm sets kconf_bad. PAST_GRACE_EXPIRY erases the Past. -/
def Obligations.TenseKeys : Prop :=
 (∀ (s : State) (l : LinkId) (c : Cls), s.running = true → (s.link l).core.phase = .agreed →
    let dir := s.txDir l
    (∀ r, s.tenseRow l c dir 2 = some r → (s.tenseTxOf l c).attempts = 0 →
      let g := (s.row r).gen + 1
      let n := s.genRow l c dir g
      (s.row n).outOfUse = false →
      let offered (t : State) : Prop := (t.row n).valid = true ∧ (t.row n).tense = 3 ∧ (t.row n).gen = g ∧
        (t.row n).material = s.linkKey l c dir g ∧ (t.tenseTxOf l c).attempts = 1 ∧
        ∃ x, (t.link l).tc0.queue = (s.link l).tc0.queue ++ [x] ∧
          x.payload.take 8 = [0x21, c.setWidth 8, BitVec.ofNat 8 dir, 0] ++ leBytes 4 g.toNat
      (∃ t, exec (.keyRoll l c) s = .next t ∧ offered t ∧ t.keys.event = s.keys.event) ∧
      (∃ t, exec (.keyThreshold l c) s = .next t ∧ offered t ∧ t.keys.event = setBitTo s.keys.event kevThreshold true)) ∧
    (∀ p f m, (s.tenseTxOf l c).attempts ≠ 0 → s.tenseRow l c dir 2 = some p → s.tenseRow l c dir 3 = some f →
      m.cls.setWidth 2 = c →
      (s.tenseOk l m 0x22 c dir ((s.row p).gen + 1) = true → ∃ t, exec (.keyReady l m) s = .next t ∧
        (t.row p).valid = false ∧ (t.row f).tense = 2 ∧ (t.row f).valid = true ∧ t.tenseTxOf l c = {}) ∧
      (s.tenseOk l m 0x22 c dir ((s.row p).gen + 1) = false → exec (.keyReady l m) s = .next { s with
        keys := { s.keys with event := setBitTo s.keys.event kevKconfBad true } })) ∧
    (∀ m, (s.tenseTxOf l (m.cls.setWidth 2)).attempts = 0 → exec (.keyReady l m) s = .next s) ∧
    (∀ f, s.tenseRow l c dir 3 = some f → (s.tenseTxOf l c).attempts ≠ 0 → (s.tenseTxOf l c).attempts < 4 →
      ∃ u : State, exec (.tenseRetryExpiry l c) s = .next u.settleAll ∧
        (u.tenseTxOf l c).attempts = (s.tenseTxOf l c).attempts + 1 ∧
        (u.link l).tc0.queue.length = (s.link l).tc0.queue.length + 1) ∧
    ((s.tenseTxOf l c).attempts = 0 → exec (.tenseRetryExpiry l c) s = .next s.settleAll)) ∧
 (∀ (s : State) (l : LinkId) (m : TenseMsg) (p : Nat), s.running = true → (s.link l).core.phase = .agreed →
    let c : Cls := m.cls.setWidth 2
    let dir := s.rxDir l
    s.tenseRow l c dir 2 = some p →
    let g := (s.row p).gen + 1
    let n := s.genRow l c dir g
    (s.tenseOk l m 0x21 c dir g = false → exec (.keyFuture l m) s = .next { s with
      keys := { s.keys with event := setBitTo s.keys.event kevKconfBad true } }) ∧
    (s.tenseOk l m 0x21 c dir g = true → (s.tenseRxOf l c).ready = false → s.tenseRow l c dir 1 = none →
      (s.row n).outOfUse = false → ∃ t, exec (.keyFuture l m) s = .next t ∧ (t.row n).valid = true ∧ (t.row n).tense = 3 ∧
        (t.row n).gen = g ∧ (t.tenseRxOf l c).ready = true ∧ ∃ x, (t.link l).tc0.queue = (s.link l).tc0.queue ++ [x] ∧
          x.payload.take 8 = [0x22, c.setWidth 8, BitVec.ofNat 8 dir, 0] ++ leBytes 4 g.toNat) ∧
    (∀ q, s.tenseOk l m 0x21 c dir g = true → (s.tenseRxOf l c).ready = false → s.tenseRow l c dir 1 = some q →
      (∃ t, exec (.keyFuture l m) s = .next t ∧ t = { s with links := t.links } ∧
        (t.tenseRxOf l c).heldMsg = some m) ∧
      ((s.tenseRxOf l c).heldMsg = none → ∃ u : State, exec (.pastGraceExpiry l c) s = .next u.settleAll ∧
        (u.row q).valid = false ∧ (∀ r : Nat, r ≠ q → u.row r = s.row r) ∧ (u.tenseRxOf l c).pastEnds = none)))

/-- KEY_LIMIT while the block runs (Table 6-3, R171, R243): on a Present memory key the index holds its writes for a Future, on
a link key this end transmits under its class stops; either way limit is set. On a row that is not valid it is nothing.
KEY_INVALIDATE of a row the key store has, while the block runs (R167, R185): the row and every row whose store parent it is
are erased and orphan_done is set, before what follows for the owners of those keys. A row above 2,832 is nothing.
DUS_PROGRAM in Test, on a device that has no device unique secret, with every bit reading back (R144 to R146): 256 bits of
the entropy source (a free value, log entry 11) go into OTP rows 4 to 7 and into key store row 0. In any other state, and a
second time, it is nothing. -/
def Obligations.KeyStore : Prop :=
 (∀ s : State, s.running = true →
    (∀ r : RowId, (s.row r.toNat).valid = false → exec (.keyLimit r) s = .next s.settleAll) ∧
    (∀ i : KeyIdx, (s.row (State.rowMemKey i false)).valid = true → (s.memIdx i).sweeping = false →
      ∃ u : State, exec (.keyLimit (BitVec.ofNat 12 (State.rowMemKey i false))) s = .next u.settleAll ∧
        u = { s with keys := u.keys, mem := u.mem } ∧ (u.memIdx i).futureHeld = true ∧
        u.keys = { s.keys with event := setBitTo s.keys.event kevLimit true }) ∧
    (∀ (l : LinkId) (c : Cls) (k : Nat), k < 3 → (s.row (State.rowLink l c (s.txDir l) k)).valid = true →
      ∃ u : State, exec (.keyLimit (BitVec.ofNat 12 (State.rowLink l c (s.txDir l) k))) s = .next u.settleAll ∧
        u = { s with keys := u.keys, links := u.links } ∧ (u.tenseTxOf l c).stopped = true ∧
        u.keys = { s.keys with event := setBitTo s.keys.event kevLimit true })) ∧
 (∀ (s : State) (r : RowId),
    (s.running = true → r.toNat ≤ 2832 → ∃ u : State, exec (.keyInvalidate r false) s = .next (u.orphanFollow r.toNat).settleAll ∧
      (u.row r.toNat).valid = false ∧ (u.row r.toNat).material = 0 ∧
      (∀ q : Nat, s.canonical → (s.row q).parent = .row r → (u.row q).valid = false ∧ (u.row q).material = 0) ∧
      (∀ q : Nat, q ≠ r.toNat → s.chainReaches (.row r) 5 (s.row q).parent = false → s.canonical → u.row q = s.row q) ∧
      u.keys.event.getLsbD kevOrphanDone = true) ∧
    (s.running = false ∨ 2832 < r.toNat → ∀ b : Bool, exec (.keyInvalidate r b) s = .next s.settleAll)) ∧
 (∀ s : State,
    (s.running = true → s.lcd.state = 1 → s.dusThere = false → (s.row 0).outOfUse = false →
      ∃ t, exec (.dusProgram []) s = .next t ∧ (t.row 0).valid = true ∧
        (t.row 0).material = (Config.entropy s.freeCtr).setWidth 288 ∧
        (∀ i : Nat, i < 4 → t.otpRow (4 + i) = s.otpRow (4 + i) ||| (Config.entropy s.freeCtr).extractLsb' (64 * i) 64) ∧
        ∀ r : Nat, r < 4 ∨ 8 ≤ r → t.otpRow r = s.otpRow r) ∧
    (s.running = false ∨ s.lcd.state ≠ 1 ∨ s.dusThere = true → ∀ b, exec (.dusProgram b) s = .next s))

/-! ### Lanes, monitors, enables, the staging port -/

/-- Lanes and monitors. A lane whose outputs agree releases them and nothing follows (R193). A comparator mismatch on an active
lane retires it at the first of a window: the lowest spare takes its place and its group, or the active count falls (R197,
R199); the third of a window is a burst, which is recorded and raises the code by 1 (R203). LANE_BURST_END ends the burst once
its region has had no mismatch for 1 µs. A patrol exchanges a lane for a spare or retires it; a cluster with no spare does not
patrol and sets patrol_skipped (R205, R206). The fourth GHASH mismatch within 1 ms retires the unit (R214). A monitor warning
raises the code, and at code 15 is a timing fault (R101, R102). -/
def Obligations.LanesAndMonitors : Prop :=
  ∀ (s : State) (k : ClusterId) (i : BitVec 5) (r : Region) (a b : BitVec 128) (v : Bool),
    let c := s.laneCluster k
    let g := s.regionLanes (State.regionOf k)
    let new := g.recent.filter fun y => inSpan s.now y.time 1000
    (State.laneReleases a b v = true ∨ s.running = false ∨ c.active.getLsbD i.toNat = false →
      exec (.laneMismatch k ⟨i, a, b, v⟩) s = .next s.settleAll) ∧
    (State.laneReleases a b v = false → s.running = true → c.active.getLsbD i.toNat = true →
      (g.bursting = true → exec (.laneMismatch k ⟨i, a, b, v⟩) s =
        .next (((s.setCluster k { c with mismatch := true, mismatchCount := satInc c.mismatchCount }).setRegionLanes
          (State.regionOf k) { g with last := s.now }).settleAll)) ∧
      (g.bursting = false → new.length < 2 →
        (∀ p, lowestLane c.spare = some p → c.spare.getLsbD i.toNat = false →
          ∃ u : State, exec (.laneMismatch k ⟨i, a, b, v⟩) s = .next u.settleAll ∧
          (u.laneCluster k).active.getLsbD i.toNat = false ∧ (u.laneCluster k).active.getLsbD p = true ∧
          (u.laneCluster k).spare.getLsbD p = false ∧ (u.laneCluster k).retired.getLsbD i.toNat = true ∧
          (u.laneCluster k).cryptoGroup.getLsbD p = c.cryptoGroup.getLsbD i.toNat ∧
          (u.laneCluster k).mismatchCount = satInc c.mismatchCount) ∧
        (lowestLane c.spare = none → s.spareRival k i = none →
          ∃ u : State, exec (.laneMismatch k ⟨i, a, b, v⟩) s = .next u.settleAll ∧
          (u.laneCluster k).active.getLsbD i.toNat = false ∧ (u.laneCluster k).spare = c.spare ∧
          (u.laneCluster k).retired.getLsbD i.toNat = true)) ∧
      (g.bursting = false → 2 ≤ new.length → (s.cal (State.regionOf k)).appliedCode ≠ 15 →
        ∃ u : State, exec (.laneMismatch k ⟨i, a, b, v⟩) s = .next u.settleAll ∧
        u.regionLanes (State.regionOf k) = { recent := [], bursting := true, last := s.now } ∧
        (∀ q : ClusterId, State.regionOf q = State.regionOf k → (u.laneCluster q).burst = true) ∧
        (u.cal (State.regionOf k)).appliedCode = satInc (s.cal (State.regionOf k)).appliedCode ∧
        (.record recLaneBurst (State.regionNumber (State.regionOf k)) :: s.outs) <:+ u.outs)) ∧
    (let h := s.regionLanes r
     (h.bursting = true → inSpan s.now h.last 999 = false →
        exec (.laneBurstEnd r) s = .next (s.setRegionLanes r { h with recent := [], bursting := false })) ∧
     (h.bursting = false ∨ inSpan s.now h.last 999 = true → exec (.laneBurstEnd r) s = .next s)) ∧
    (s.running = false → ∀ pass : Bool, exec (.patrol k pass) s = .next s) ∧
    (s.running = true → State.lanesSet c = true → c.spare = 0 → ∀ pass : Bool,
      exec (.patrol k pass) s = .next (s.setCluster k { c with patrolSkipped := true })) ∧
    (∀ n p, s.running = true → State.lanesSet c = true → c.active &&& c.spare = 0 → State.patrolLane c = some n →
      lowestLane c.spare = some p →
      (∃ t, exec (.patrol k true) s = .next t ∧ (t.laneCluster k).active.getLsbD n = false ∧
        (t.laneCluster k).active.getLsbD p = true ∧ (t.laneCluster k).spare.getLsbD n = true ∧
        (t.laneCluster k).spare.getLsbD p = false ∧ (t.laneCluster k).retired = c.retired ∧ t = { s with lanes := t.lanes }) ∧
      (∃ t, exec (.patrol k false) s = .next t ∧ (t.laneCluster k).active.getLsbD n = false ∧
        (t.laneCluster k).active.getLsbD p = true ∧ (t.laneCluster k).retired.getLsbD n = true ∧
        (t.laneCluster k).patrolFail = true ∧ (t.laneCluster k).patrolFailCount = satInc c.patrolFailCount)) ∧
    (s.running = false ∨ (s.laneCluster .svc).ghashRetired = true → exec .ghashMismatch s = .next s) ∧
    (s.running = true → (s.laneCluster .svc).ghashRetired = false →
      let old := s.lanes.ghashTimes.filter fun t => inSpan s.now t 1000000
      (old.length < 3 → exec .ghashMismatch s = .next { s with lanes := { s.lanes with ghashTimes := s.now :: old } }) ∧
      (3 ≤ old.length → ∃ t, exec .ghashMismatch s = .next t ∧ (t.laneCluster .svc).ghashRetired = true ∧
        (.record causeLaneExhausted 96 :: s.outs) <:+ t.outs)) ∧
    (s.running = false → exec (.monitorWarning r) s = .next s) ∧
    (s.running = true →
      let w : Cal := { s.cal r with warn := true, warnCount := satInc (s.cal r).warnCount,
                                    appliedCode := satInc (s.cal r).appliedCode }
      ((s.cal r).appliedCode ≠ 15 → ∃ t, exec (.monitorWarning r) s = .next t ∧ t.cal r = w) ∧
      ((s.cal r).appliedCode = 15 → s.timingTimes r = [] → exec (.monitorWarning r) s =
        .next (((s.setCal r w).record causeTiming (State.regionNumber r)).setTimingTimes r [s.now])) ∧
      ((s.cal r).appliedCode = 15 → 2 ≤ ((s.timingTimes r).filter fun t => inSpan s.now t 1000000000).length →
        s.flt.stamps.length < 2 →
        ∃ (t : State) (role : BitVec 1), exec (.monitorWarning r) s = .next t ∧ s.stoppedFrom t causeTiming false role))

/-- The trust core's enable writes while the block runs (R94 to R97). A write sets the bit it names and a repeated one does
nothing; a window's bit stands by itself. Bits that are not there, the reduction area and the delivery port in pool role are
not set. Clearing a channel ends what waits for it, and what it has at the controller, with ST_FN_OFF; clearing a link takes
it down. -/
def Obligations.FunctionEnables : Prop :=
  ∀ s : State,
    let same (x : EnTarget) (b : Bool) : Prop := exec (.functionEnableWrite x b) s = .next s.settleAll
    let becomes (x : EnTarget) (b : Bool) (u : State) : Prop := exec (.functionEnableWrite x b) s = .next u.settleAll
    (∀ (x : EnTarget) (b : Bool), s.running = false → same x b) ∧
    (s.running = true →
      (∀ (f : Fn) (b : Bool), becomes (.fn f) b { s with clk := { s.clk with enFn := setBitTo s.clk.enFn f.toNat b } }) ∧
      (∀ (n : BitVec 4) (b : Bool),
        10 ≤ n.toNat ∨ s.areaOn n.toNat = b ∨ (b = true ∧ n.toNat = areaReduction ∧ s.poolRole = true) → same (.area n) b) ∧
      (∀ (n : BitVec 4) (b : Bool), n.toNat < 10 → s.areaOn n.toNat ≠ b →
        (b = true → n.toNat ≠ areaReduction ∨ s.poolRole = false) → (b = false → n.toNat ≠ areaTelemetry) →
        becomes (.area n) b { s with clk := { s.clk with enArea := setBitTo s.clk.enArea n.toNat b } }) ∧
      (∀ (n : BitVec 3) (b : Bool),
        6 ≤ n.toNat ∨ s.portOn n.toNat = b ∨ (b = true ∧ n.toNat = portDelivery ∧ s.poolRole = true) → same (.port n) b) ∧
      (∀ n : BitVec 3, n.toNat < 6 → s.portOn n.toNat = true →
        becomes (.port n) false { s with clk := { s.clk with enPort := setBitTo s.clk.enPort n.toNat false } }) ∧
      (∀ n : BitVec 3, n.toNat = portReg → s.portOn n.toNat = false →
        becomes (.port n) true { s with clk := { s.clk with enPort := setBitTo s.clk.enPort n.toNat true } }) ∧
      (∀ (c : ChanId) (b : Bool), s.mcOn c = b → same (.mc c) b) ∧
      (∀ c : ChanId, s.mcOn c = true → (∀ j, (s.memIdx j).sweeping = false) →
        ∃ u : State, becomes (.mc c) false u ∧ u.mcOn c = false ∧
          (∀ w ∈ u.mem.waits, dpaChan w.dpa ≠ c) ∧ (∀ q ∈ u.mem.out, q.ch = c → q.discard = true) ∧
          (∀ w ∈ s.mem.waits, dpaChan w.dpa = c → State.memTold w.tag w.master = false →
            .memDone w.master (lineDpa w.dpa) stFnOff ∈ u.outs) ∧
          ∀ q ∈ s.mem.out, q.ch = c → q.discard = false → State.memTold q.tag q.master = false →
            .memDone q.master (lineDpa q.dpa) stFnOff ∈ u.outs) ∧
      (∀ c : ChanId, s.mcOn c = false → s.mem.fence = [] → s.mem.waits = [] → (∀ q ∈ s.mem.out, q.isMerged = false) →
        ∃ u : State, becomes (.mc c) true u ∧ u.mcOn c = true ∧ (u.chan c).sweepPtr = [] ∧ u.outs = s.outs) ∧
      (∀ (l : LinkId) (b : Bool), s.linkOn l = b → same (.link l) b) ∧
      (∀ (l : LinkId) (b : Bool), s.linkOn l ≠ b → (s.link l).core.up = false →
        becomes (.link l) b { s with clk := { s.clk with enLink := setBitTo s.clk.enLink l.toNat b } }) ∧
      (∀ l : LinkId, s.linkOn l = true → (s.link l).core.up = true →
        ∃ u : State, becomes (.link l) false u ∧ u.linkOn l = false ∧ (u.link l).core.phase = .down))

/-- The host's events at the staging port. hd_flr_valid while the port is off is kept until it is on (R34, R134); a CLOSED
function is acknowledged at once, one with work drains, an OPEN one without a context is retired (R64, R500); the PF's Function
Level Reset leaves the control context anew (R501). A read completion takes its bytes off the read outstanding; an error ends
the command, where it still waits for the read, with ST_HOST_DMA, and one nobody asked for or with too many bytes is a protocol
violation (R61, R63, R608). The PF's error report of a function ends its staging commands (R503). -/
def Obligations.HostPort : Prop :=
  ∀ (s : State) (f : Fn),
    (s.stgPortOn = false →
      (f ∈ s.sys.flrEarly → exec (.hdFlrValid f) s = .next s.settleAll) ∧
      (f ∉ s.sys.flrEarly → exec (.hdFlrValid f) s =
        .next (State.settleAll { s with sys := { s.sys with flrEarly := s.sys.flrEarly ++ [f] } }))) ∧
    (s.stgPortOn = true →
      (f ≠ 0 → (s.func f).phase = .closed → exec (.hdFlrValid f) s = .next (s.out (.flrAck f)).settleAll) ∧
      (f ≠ 0 → (s.func f).phase = .opened → s.fnWork f = true → s.ctxsOfFn f ≠ [] →
        ∃ u : State, exec (.hdFlrValid f) s = .next u.settleAll ∧
          u.func f = { s.func f with phase := .draining, flrPending := true }) ∧
      (f ≠ 0 → (s.func f).phase = .opened → s.ctxsOfFn f = [] →
        ∃ u : State, exec (.hdFlrValid f) s = .next u.settleAll ∧ (u.func f).phase = .closed ∧
          (u.func f).flrPending = false ∧ u.fnOn f = false ∧ u.outs.head? = some (.flrAck f)) ∧
      (∃ u : State, exec (.hdFlrValid 0) s = .next u.settleAll ∧ u.outs.head? = some (.flrAck 0) ∧ u.tel.run = false ∧
        u.ctx 0 = { phase := .active })) ∧
    (∀ (id : BitVec 8) (st : BitVec 2) (n : BitVec 13) (last : Bool),
      let violates (kind : BitVec 2) : Prop := exec (.dmaReadCompletion id st n last) s =
        .next (if s.stgPortOn then s.portViolation 1 0 0 kind else s).settleAll
      let left (x : Option DmaRead) : State :=
        { s with fe := { s.fe with dmaReads := Tab.set none s.fe.dmaReads id.toNat x } }
      (Tab.get none s.fe.dmaReads id.toNat = none → violates 0) ∧
      (∀ x, Tab.get none s.fe.dmaReads id.toNat = some x →
        (x.left < n.toNat → violates 2) ∧
        (n.toNat ≤ x.left → st = 0 → exec (.dmaReadCompletion id st n last) s =
          .next (left (if last then none else some { x with left := x.left - n.toNat })).settleAll) ∧
        (n.toNat ≤ x.left → st ≠ 0 → x.gone = true ∨ s.findCmd x.ctx x.queue x.k = none →
          exec (.dmaReadCompletion id st n last) s = .next (left none).settleAll) ∧
        (∀ y, n.toNat ≤ x.left → st ≠ 0 → x.gone = false → s.findCmd x.ctx x.queue x.k = some y → y.result = none →
          ∃ u : State, exec (.dmaReadCompletion id st n last) s = .next u.settleAll ∧
            u.findCmd x.ctx x.queue x.k = some { y with result := some (stHostDma, 0), blocks := 0 }))) ∧
    (s.stgPortOn = true → ∀ kind : BitVec 2,
      (s.portViolation 1 0 0 kind).glb.peStaging = true ∧ (s.portViolation 1 0 0 kind).glb.peMc = s.glb.peMc ∧
      (s.portViolation 1 0 0 kind).glb.peCount = satInc s.glb.peCount ∧
      s.portViolation 1 0 0 kind = { s with glb := (s.portViolation 1 0 0 kind).glb }) ∧
    (s.running = true → s.areaOn areaStaging = true → ∃ u : State, exec (.hostErrReport f) s = .next u.settleAll ∧
      u.fe.stgErrFn = f ∧ u.fe.cmds.length = s.fe.cmds.length ∧
      ∀ x ∈ s.fe.cmds, x.phase = .running → (x.opcode = opStgIn ∨ x.opcode = opStgOut) → (s.ctx x.ctx).fn = f → x.result = none →
        { x with result := some (stHostDma, 0), blocks := 0 } ∈ u.fe.cmds) ∧
    (s.running = false ∨ s.areaOn areaStaging = false → exec (.hostErrReport f) s = .next s.settleAll)

/-! ### The command front end -/

/-- Ring pointers, descriptor fetch and completion records (R441 to R445, R455, R465, R620). A tail write moves the tail unless
it would move backward or overfill the ring, which sets ring_err. A head write moves the head and lets held records out. A
descriptor is taken from the head of a ring of an ACTIVE context of an OPEN function: the command is FETCHED, or has ended
already by R455 or R465. A command with an outcome leaves the queue with one record of Table 15-2 at the tail; with no room
the record is held, and counted as dropped while its function drains. -/
def Obligations.RingsAndRecords : Prop :=
  ∀ (s : State) (f : Fn) (loc : BitVec 6) (c : CtxId) (q : BitVec 3) (k : Word),
    (∀ w : Word, s.windowOn f = false ∨ 5 ≤ q.toNat → exec (.sqTailWrite f loc q w) s = .next s) ∧
    (∀ w : Word, s.windowOn f = true → q.toNat < 5 →
      let r := s.ringsAt f loc
      let x := State.sqOf r q
      (State.tailBad x w = false →
        exec (.sqTailWrite f loc q w) s = .next (s.setRingsAt f loc (State.sqSet r q { x with tail := w }))) ∧
      (State.tailBad x w = true → ∀ n, s.ctxAt f loc = some n →
        exec (.sqTailWrite f loc q w) s = .next (s.modCtx n fun y => { y with ringErr := true })) ∧
      (State.tailBad x w = true → s.ctxAt f loc = none → exec (.sqTailWrite f loc q w) s = .next s)) ∧
    (∀ w : Word, s.windowOn f = false → exec (.cqHeadWrite f loc w) s = .next s) ∧
    (∀ w : Word, s.windowOn f = true →
      let r := s.ringsAt f loc
      let u := s.setRingsAt f loc { r with cq := { r.cq with head := w } }
      (u.ctxAt f loc = none → exec (.cqHeadWrite f loc w) s = .next u) ∧
      (∀ n h, u.ctxAt f loc = some n → (u.ctx n).heldRecs = [h] → State.ringFullC (u.ctx n).cq = false →
        ∃ t, exec (.cqHeadWrite f loc w) s = .next t ∧ (t.ctx n).heldRecs = [] ∧
          (t.ctx n).cq = { (u.ctx n).cq with tail := (u.ctx n).cq.tail + 1 }) ∧
      (∀ n, u.ctxAt f loc = some n → (u.ctx n).heldRecs = [] → ∃ t, exec (.cqHeadWrite f loc w) s = .next t ∧
        t.ctx n = u.ctx n ∧ t.outs = s.outs)) ∧
    (∀ d : DmaData, s.fetches c = false ∨ 5 ≤ q.toNat → exec (.descriptorFetch c q d) s = .next s) ∧
    (∀ d : DmaData, s.fetches c = true → q.toNat < 5 →
      let r := Tab.get ({} : Ring) (s.ctx c).sq q.toNat
      let b := fitTo 64 d.data
      (r.head = r.tail ∨ s.freeDma = none → exec (.descriptorFetch c q d) s = .next s) ∧
      (∀ id, r.head ≠ r.tail → d.status = 0 → s.rollHolds c q (dOpcode b) = false → s.freeDma = some id → 64 < d.data.length →
        exec (.descriptorFetch c q d) s = .next (s.portViolation 1 0 0 2)) ∧
      (∀ id, r.head ≠ r.tail → d.status = 0 → s.rollHolds c q (dOpcode b) = false → s.freeDma = some id → d.data.length = 64 →
        ∃ t x, exec (.descriptorFetch c q d) s = .next t ∧ t.fe.cmds = s.fe.cmds ++ [x] ∧ x.ctx = c ∧ x.queue = q ∧
          x.k = r.head ∧ x.phase = .fetched ∧ x.opcode = dOpcode b ∧ x.cookie = dCookie b ∧ x.body = dBody b ∧
          Tab.get ({} : Ring) (t.ctx c).sq q.toNat = { r with head := r.head + 1 } ∧
          t.outs = .hdRead (s.ctx c).fn (r.base + BitVec.ofNat 64 (64 * (r.head.toNat % r.size.toNat))) 64
            (BitVec.ofNat 8 id) :: s.outs ∧
          ((q, r.head) ∈ (s.ctx c).cancelled → x.result = some (stCancelled, 0)) ∧
          ((q, r.head) ∉ (s.ctx c).cancelled →
            (∀ st y, s.fetchCheck c q b = .fail st y → x.result = some (st, y)) ∧
            (∀ ts, s.fetchCheck c q b = .pass ts → x.result = none ∧ x.trans = ts))) ∧
      (∀ id, r.head ≠ r.tail → d.status ≠ 0 → s.freeDma = some id → d.data.length ≤ 64 →
        ∃ t, exec (.descriptorFetch c q d) s = .next t ∧ t.fe.cmds = s.fe.cmds ∧
        Tab.get ({} : Ring) (t.ctx c).sq q.toNat = { r with head := r.head + 1 })) ∧
    (∀ b : Bool, s.findCmd c q k = none → exec (.commandCompletion c q k b) s = .next s) ∧
    (∀ (b : Bool) (x : Cmd), s.findCmd c q k = some x → x.result = none → exec (.commandCompletion c q k b) s = .next s) ∧
    (∀ (b : Bool) (x : Cmd) (st : Status) (y : BitVec 32), s.findCmd c q k = some x → x.result = some (st, y) →
      let cq := (s.ctx c).cq
      let h : HeldRec := { cookie := x.cookie, status := st, queue := q, detail := y, irq := x.irq, opcode := x.opcode,
                           layer := x.layer, operator := x.operator }
      let a := cq.base + BitVec.ofNat 64 (16 * (cq.tail.toNat % cq.size.toNat))
      (State.ringFullC cq = false → ∃ t, exec (.commandCompletion c q k b) s = .next t ∧
        t.findCmd c q k = none ∧ (t.ctx c).cq = { cq with tail := cq.tail + 1 } ∧
        (s.portOn portStaging = true → a.toNat % 4096 ≤ 4080 →
          (.hdWrite (s.ctx c).fn a (State.recBytes h (cq.tail.toNat / cq.size.toNat % 2 == 0)) :: s.outs) <:+ t.outs)) ∧
      (State.ringFullC cq = true → (s.func (s.ctx c).fn).phase ≠ .draining →
        ∃ t, exec (.commandCompletion c q k b) s = .next t ∧ t.findCmd c q k = none ∧ (t.ctx c).cq = cq ∧
          (t.ctx c).heldRecs = (s.ctx c).heldRecs ++ [h] ∧ (t.ctx c).cqFull = true) ∧
      (State.ringFullC cq = true → (s.func (s.ctx c).fn).phase = .draining →
        ∃ t, exec (.commandCompletion c q k b) s = .next t ∧ t.findCmd c q k = none ∧
          (t.ctx c).heldRecs = (s.ctx c).heldRecs ∧
          (t.func (s.ctx c).fn).cqDropped = satInc (s.func (s.ctx c).fn).cqDropped))

/-- The arbiter. An epoch makes the first command of a ring READY and starts at most one a class: here the one NOP of Q0 that
has been fetched becomes RUNNING in that epoch (R447, R451). A refill adds its rate to every bucket below its burst, up to
the burst, and leaves an unlimited function's alone (R450). -/
def Obligations.ArbiterAndBuckets : Prop :=
  ∀ s : State,
    (s.running = false ∨ s.areaOn areaFrontEnd = false → exec .arbitrationEpoch s = .next s) ∧
    (∀ x : Cmd, s.running = true → s.areaOn areaFrontEnd = true → s.fe.cmds = [x] → x.phase = .fetched → x.opcode = opNop →
      x.queue = 0 → x.result = none → x.trans = [] → State.ringFullC (s.ctx x.ctx).cq = false →
      (s.eng engTrust).replaying = false →
      ∃ t, exec .arbitrationEpoch s = .next t ∧ t.fe.cmds = [{ x with phase := .running, started := s.now }] ∧
        (t.eng engArbiter).progress = (s.eng engArbiter).progress + 1) ∧
    (s.running = false → exec .bucketRefill s = .next s) ∧
    (s.running = true → s.canonical → ∃ t, exec .bucketRefill s = .next t ∧ t = { s with fe := { s.fe with fns := t.fe.fns } } ∧
      ∀ (f : Fn) (q : BitVec 3), Tab.wf {} (s.func f).shares = true →
        let h := s.shareOf f q
        (h.rate ≠ 0 → h.bucket < h.burst.toNat →
          t.shareOf f q = { h with bucket := min (h.burst.toNat : Int) (h.bucket + h.rate.toNat) }) ∧
        (h.rate = 0 ∨ (h.burst.toNat : Int) ≤ h.bucket → t.shareOf f q = h))

/-- Contexts and objects, by the commands of Q0 (R455 to R464) and CTX_REARM (R458). Each acts on its RUNNING command and leaves
its outcome; of any other command it is nothing. NOP ends with ST_OK. CANCEL of a command that has not started ends it with
ST_CANCELLED and itself with ST_OK, one with no target ends with ST_NO_TARGET. CTX_CREATE makes a FREE context ACTIVE under
an existing virtual device, CTX_DESTROY frees one but not context 0, OBJ_MAP gives the object a free number (a free choice,
log entry 75) and its handle as the detail, OBJ_UNMAP ends the object's translation at once and completes with ST_OK once no
RUNNING command names it. CTX_REARM makes a FAULTED context ACTIVE unless it was found guilty or takes part in a replay
(R530). -/
def Obligations.ContextsAndObjects : Prop :=
  ∀ (s : State) (c : CtxId) (k : Word),
    let left (op : BitVec 16) (i : Instr) (u : State) : Prop := s.runningCmd c 0 k op = none → exec i s = .next u
    let ended (x : Cmd) (st : Status) (n : BitVec 32) : Cmd :=
      { x with result := some (st, n), blocks := 0, csKey := none }
    (left opNop (.nop c k) s ∧ left opCancel (.cancel c k) s.settleAll ∧ left opCtxCreate (.ctxCreate c k) s ∧
      left opCtxDestroy (.ctxDestroy c k) s.settleAll ∧ left opObjMap (.objMap c k) s ∧ left opObjUnmap (.objUnmap c k) s) ∧
    (∀ x, s.runningCmd c 0 k opNop = some x → ∃ t, exec (.nop c k) s = .next t ∧
      t = { s with fe := { s.fe with cmds := t.fe.cmds } } ∧ t.findCmd c 0 k = some (ended x stOk 0)) ∧
    (∀ x, s.runningCmd c 0 k opCancel = some x →
      let b := byteAt x.body 0
      let q : BitVec 3 := b.setWidth 3
      let n : Word := leBv 32 (slice x.body 4 4)
      (b = 0 ∨ 4 < b.toNat → exec (.cancel c k) s = .next (s.cmdResult c 0 k stNoTarget 0).settleAll) ∧
      (b ≠ 0 → b.toNat ≤ 4 →
        (∀ y, s.findCmd c q n = some y → y.result = none → y.phase ≠ .running →
          ∃ u : State, exec (.cancel c k) s = .next u.settleAll ∧
            u.findCmd c q n = some (ended y stCancelled 0) ∧ u.findCmd c 0 k = some (ended x stOk 0)) ∧
        (∀ y, s.findCmd c q n = some y → y.result ≠ none →
          exec (.cancel c k) s = .next (s.cmdResult c 0 k stNoTarget 0).settleAll) ∧
        (s.findCmd c q n = none →
          let r := Tab.get ({} : Ring) (s.ctx c).sq q.toNat
          ((n - r.head).toNat < (r.tail - r.head).toNat → ∃ u : State, exec (.cancel c k) s = .next u.settleAll ∧
            (q, n) ∈ (u.ctx c).cancelled ∧ u.findCmd c 0 k = some (ended x stOk 0)) ∧
          ((r.tail - r.head).toNat ≤ (n - r.head).toNat →
            exec (.cancel c k) s = .next (s.cmdResult c 0 k stNoTarget 0).settleAll)))) ∧
    (∀ x, s.runningCmd c 0 k opCtxCreate = some x →
      let b := x.body
      let n : CtxId := leBv 10 (slice b 0 2)
      let v := byteAt b 4
      (n = 0 ∨ (s.ctx n).phase ≠ .free ∨ s.ctxAt (byteAt b 2) ((byteAt b 3).setWidth 6) ≠ none →
        exec (.ctxCreate c k) s = .next (s.cmdResult c 0 k stCtxBusy 0)) ∧
      (n ≠ 0 → (s.ctx n).phase = .free → s.ctxAt (byteAt b 2) ((byteAt b 3).setWidth 6) = none →
        (64 ≤ v.toNat ∨ (s.vdev (v.setWidth 6)).present = false →
          exec (.ctxCreate c k) s = .next (s.cmdResult c 0 k stNoVd 0)) ∧
        (v.toNat < 64 → (s.vdev (v.setWidth 6)).present = true → ∃ t, exec (.ctxCreate c k) s = .next t ∧
          (t.ctx n).phase = .active ∧ (t.ctx n).fn = byteAt b 2 ∧ (t.ctx n).loc = (byteAt b 3).setWidth 6 ∧
          (t.ctx n).vd = some (v.setWidth 6) ∧ (t.ctx n).rightsMax = (byteAt b 5).setWidth 3 ∧
          (t.ctx n).vaBase = leBv 64 (slice b 8 8) ∧ (t.ctx n).vaSize = leBv 64 (slice b 16 8) ∧
          (t.ctx n).cq.head = 0 ∧ (t.ctx n).cq.tail = 0 ∧
          t.findCmd c 0 k = some (ended x stOk 0)))) ∧
    (∀ x, s.runningCmd c 0 k opCtxDestroy = some x →
      let n : CtxId := leBv 10 (slice x.body 0 2)
      (n = 0 → exec (.ctxDestroy c k) s = .next (s.cmdResult c 0 k stRights 0).settleAll) ∧
      (n ≠ 0 → (s.ctx n).phase = .free → exec (.ctxDestroy c k) s = .next (s.cmdResult c 0 k stNoTarget 0).settleAll) ∧
      (n ≠ 0 → (s.ctx n).phase ≠ .free → ∃ u : State, exec (.ctxDestroy c k) s = .next u.settleAll ∧ u.ctx n = {})) ∧
    (∀ x, s.runningCmd c 0 k opObjMap = some x →
      (∀ st, s.objMapCheck c x.body = some st → exec (.objMap c k) s = .next (s.cmdResult c 0 k st 0)) ∧
      (s.objMapCheck c x.body = none → ∃ t, ∃ n : Nat, exec (.objMap c k) s = .next t ∧ n < 4096 ∧
        (s.obj c n).live = false ∧
        t.obj c n = { State.objOfBody x.body with reuse := (s.obj c n).reuse, mapGen := (s.ctx c).transGen } ∧
        (∀ i : Nat, i < 4096 → i ≠ n → t.obj c i = s.obj c i) ∧
        t.findCmd c 0 k = some (ended x stOk ((t.obj c n).handle c (BitVec.ofNat 12 n))))) ∧
    (∀ x, s.runningCmd c 0 k opObjUnmap = some x → x.trans = [] →
      let h : Word := leBv 32 (slice x.body 0 4)
      let n := (h.extractLsb' 0 12).toNat
      let o := s.obj c n
      (h.extractLsb' 22 10 ≠ c ∨ o.live = false ∨ h.extractLsb' 12 10 ≠ o.reuse →
        exec (.objUnmap c k) s = .next (s.cmdResult c 0 k stUnmapped 0)) ∧
      (h.extractLsb' 22 10 = c → o.live = true → h.extractLsb' 12 10 = o.reuse → s.namedRunning c n o.reuse = false →
        ∃ t y, exec (.objUnmap c k) s = .next t ∧ t.obj c n = { reuse := o.reuse + 1 } ∧
          (t.ctx c).transGen = (s.ctx c).transGen + 1 ∧ t.findCmd c 0 k = some y ∧ y.result = some (stOk, 0))) ∧
    (∀ (f : Fn) (loc : BitVec 6),
      (s.windowOn f = false ∨ s.ctxAt f loc = none → exec (.ctxRearm f loc) s = .next s) ∧
      (∀ n, s.windowOn f = true → s.ctxAt f loc = some n →
        ((s.ctx n).phase = .faulted → (s.ctx n).cause ≠ causeStallGuilty → s.replayHolds n = false →
          exec (.ctxRearm f loc) s = .next (s.setCtx n { s.ctx n with phase := .active })) ∧
        ((s.ctx n).phase ≠ .faulted ∨ (s.ctx n).cause = causeStallGuilty ∨ s.replayHolds n = true →
          exec (.ctxRearm f loc) s = .next s)))

/-! ### Engines and staging -/

/-- The fill and copy engine and the crypto service engine (R207 to R212, R464). A command of either acts while it is RUNNING:
one that CANCEL stopped ends with ST_CANCELLED, one whose accesses all go through has issued the writes of the pattern, the
source's lines, the AES blocks or the GHASH value, and an access that is refused ends it with that status. A command that has
issued its writes ends with ST_OK at the end of the first step in which none of them is open (R45, R239); stated for a step
with nothing else to settle. CS_GHASH ends with ST_FN_OFF once its unit is retired (R214). -/
def Obligations.EngineCommands : Prop :=
  ∀ (s : State) (c : CtxId) (k : Word) (rsps : List McRsp),
    let issued (u : State) (q : BitVec 3) : State := u.modCmd c q k fun y => { y with issued := true }
    let rows : List (BitVec 3 × BitVec 16 × Instr) := [(4, opMemFill, .memFill c k), (4, opMemCopy, .memCopy c k rsps),
      (3, opCsEnc, .csAesEnc c k rsps), (3, opCsDec, .csAesDec c k rsps), (3, opCsGhash, .csGhash c k rsps)]
    (∀ q op i, (q, op, i) ∈ rows →
      (s.runningCmd c q k op = none → exec i s = .next s.settleAll) ∧
      (∀ x, s.runningCmd c q k op = some x →
        (x.issued = true → exec i s = .next s.settleAll) ∧
        (x.issued = true → s.cmdOpen x = false → (∀ l, ringWaits (s.link l) = []) → (∀ l, (s.link l).io.held = []) →
          s.mem.ends = [] → s.progsInUse = [] → ∃ t y, exec i s = .next t ∧ t.findCmd c q k = some y ∧
            y.result = some (stOk, x.detail)) ∧
        (x.issued = false → x.cancel = true → exec i s = .next (s.cmdResult c q k stCancelled 0).settleAll))) ∧
    (∀ x t u, s.runningCmd c 4 k opMemFill = some x → x.issued = false → x.cancel = false → x.trans = [t] → t.fabric = false →
      let p := bytesLine ((List.replicate 8 (slice x.body 8 8)).flatten)
      (∀ r, s.fillLines x t p (transLines t) 0 = (u, .ok () r) → exec (.memFill c k) s = .next (issued u 4).settleAll) ∧
      (∀ st a, s.fillLines x t p (transLines t) 0 = (u, .failed st a) →
        exec (.memFill c k) s = .next ((u.cmdResult c 4 k st 0).alarmComma (.ctx c) a).settleAll) ∧
      (∀ id w, transLines t = 1 →
        let d : Dpa := BitVec.ofNat 43 (64 * transLine t 0)
        s.memRefusal (.ctx c) t.key d true = none → (s.memIdx t.key).futureHeld = false → (s.memIdx t.key).urgent = false →
        s.lineBusy d = false → s.mcReady (dpaChan d) = true → s.fencedOn d = [] → s.ctxRefs c = [] → s.mem.waits = [] →
        s.freeMcId (dpaChan d) (dpaSub d) = some id → s.writeKeyOf t.key = some w →
        ∃ v : State, exec (.memFill c k) s = .next v.settleAll ∧ v.findCmd c 4 k = some { x with issued := true } ∧
          v.outs = .mcReq (dpaChan d) (dpaSub d) id true (dpaLine d) (sealLine w t.key (lineDpa d) p).1
            (sealLine w t.key (lineDpa d) p).2 :: s.outs)) ∧
    (∀ x dst src u r, s.runningCmd c 4 k opMemCopy = some x → x.issued = false → x.cancel = false → x.trans = [dst, src] →
      src.fabric = false → dst.fabric = false → s.copyLines x dst src (transLines dst) 0 rsps = (u, .ok () r) →
      exec (.memCopy c k rsps) s = .next (issued u 4).settleAll) ∧
    (∀ (dec : Bool) x src dst key u v w kb bs r1 r2 r3,
      s.runningCmd c 3 k (if dec then opCsDec else opCsEnc) = some x → x.issued = false → x.cancel = false →
      x.trans = [src, dst, key] → src.fabric = false → dst.fabric = false → key.fabric = false →
      x.csKey = none → s.getRange (.ctx c) x 2 key rsps = (u, .ok kb r1) →
      let reg := kb ++ tailKeys kb
      let held := u.modCmd c 3 k fun y => { y with csKey := some (leBv 512 reg) }
      held.getRange (.ctx c) x 0 src r1 = (v, .ok bs r2) →
      (v.csNote c (bs.length / 16) (bs.length / 16)).putRange (.ctx c) x 1 dst
        ((chunks 16 bs).map (if dec then State.csDecrypt reg else State.csEncrypt reg)).flatten r2 = (w, .ok () r3) →
      exec (if dec then .csAesDec c k rsps else .csAesEnc c k rsps) s = .next (issued w 3).settleAll) ∧
    (∀ x, s.runningCmd c 3 k opCsGhash = some x → x.issued = false → x.cancel = false → s.ghashGone = true →
      exec (.csGhash c k rsps) s = .next (s.cmdResult c 3 k stFnOff 0).settleAll) ∧
    (∀ x src h yin yout u v w z y hb bs r1 r2 r3 r4, s.runningCmd c 3 k opCsGhash = some x → x.issued = false →
      x.cancel = false → s.ghashGone = false → x.trans = [src, h, yin, yout] → src.fabric = false → h.fabric = false →
      yin.fabric = false → yout.fabric = false →
      s.getRange (.ctx c) x 2 yin rsps = (u, .ok y r1) → u.getRange (.ctx c) x 1 h r1 = (v, .ok hb r2) →
      v.getRange (.ctx c) x 0 src r2 = (w, .ok bs r3) →
      (w.csNote c 0 (bs.length / 16)).putRange (.ctx c) x 3 yout (ghashFrom hb y (chunks 16 bs)) r3 = (z, .ok () r4) →
      exec (.csGhash c k rsps) s = .next (issued z 3).settleAll)

/-- Staging commands (R483 to R491). STG_REKEY ends with ST_KEY_ORPHAN without a session or its key, with ST_SLOT_BUSY while its
direction rolls, with ST_KEY_UNWRAP for a wrong generation or confirmation, and else rolls the direction: at once where no
command is bound to the old key. STG_IN and STG_OUT meet their chunk boundary: cancelled, in a Fragment, the port off, or else
their chunks: an STG_IN whose one chunk's tag verifies has issued its writes and keeps the blocks left under the key as the
detail of its end, one whose tag does not taints the object and ends with ST_AUTH_UNTRUSTED; an STG_OUT of one chunk writes
ciphertext and tag to the host. A command that has issued its writes ends with ST_OK at the end of the first step in which none
of them is open; stated for a step with nothing else to settle. -/
def Obligations.StagingCommands : Prop :=
  ∀ (s : State) (c : CtxId) (k : Word) (host : List DmaData) (rsps : List McRsp),
    let f := (s.ctx c).fn
    (s.runningCmd c 1 k opStgRekey = none → exec (.stgRekey c k) s = .next s) ∧
    (∀ x, s.runningCmd c 1 k opStgRekey = some x →
      let z := s.sessOf f
      let dir := (byteAt x.body 0).toNat % 2
      let gen : BitVec 32 := leBv 32 (slice x.body 4 4)
      let cur := if dir = 0 then z.rekeyIn else z.rekeyOut
      let sent : Prop := gen = (s.row (State.rowStage f dir)).gen + 1 ∧ slice x.body 8 16 = s.stageKc f dir gen
      (cur = none → x.cancel = true → exec (.stgRekey c k) s = .next (s.cmdResult c 1 k stCancelled 0)) ∧
      (cur = none → x.cancel = false → z.opened = false ∨ s.keyUsable (State.rowSss f) = false →
        exec (.stgRekey c k) s = .next (s.cmdResult c 1 k stKeyOrphan 0)) ∧
      (∀ y, cur = some y → ¬ (y.ctx = c ∧ y.k = k) → x.cancel = false → z.opened = true → s.keyUsable (State.rowSss f) = true →
        exec (.stgRekey c k) s = .next (s.cmdResult c 1 k stSlotBusy 0)) ∧
      (cur = none → x.cancel = false → z.opened = true → s.keyUsable (State.rowSss f) = true → ¬ sent →
        exec (.stgRekey c k) s = .next (s.cmdResult c 1 k stKeyUnwrap 0)) ∧
      (z.rekeyIn = none → z.rekeyOut = none → x.cancel = false → z.opened = true → s.keyUsable (State.rowSss f) = true →
        sent → s.dirBusy f dir = false → (s.row (State.rowStage f dir)).outOfUse = false → ∃ t, exec (.stgRekey c k) s = .next t ∧
          (t.row (State.rowStage f dir)).gen = gen ∧ (t.row (State.rowStage f dir)).valid = true ∧
          (t.row (State.rowStage f dir)).material = s.stageKey f dir gen ∧ (t.row (State.rowStage f dir)).use = 0 ∧
          t.findCmd c 1 k = some { x with result := some (stOk, gen), blocks := 0, csKey := none }) ∧
      (z.rekeyIn = none → z.rekeyOut = none → x.cancel = false → z.opened = true → s.keyUsable (State.rowSss f) = true →
        sent → s.dirBusy f dir = true →
          ∃ t, exec (.stgRekey c k) s = .next t ∧ t.row (State.rowStage f dir) = s.row (State.rowStage f dir) ∧
          (if dir = 0 then (t.sessOf f).rekeyIn else (t.sessOf f).rekeyOut) = some { ctx := c, k := k, gen := gen } ∧
          t.findCmd c 1 k = some x)) ∧
    (∀ op i, (op, i) ∈ ([(opStgIn, .stgIn c k host rsps), (opStgOut, .stgOut c k rsps)] : List (BitVec 16 × Instr)) →
      (s.runningCmd c 4 k op = none → exec i s = .next s.settleAll) ∧
      (∀ x, s.runningCmd c 4 k op = some x →
        let inFrag := ∃ d, s.ctxSlot c = some d ∧ s.isFragment d = true
        (x.issued = true → exec i s = .next s.settleAll) ∧
        (x.issued = true → s.cmdOpen x = false → (∀ l, ringWaits (s.link l) = []) → (∀ l, (s.link l).io.held = []) →
          s.mem.ends = [] → s.progsInUse = [] → ∃ t y, exec i s = .next t ∧ t.findCmd c 4 k = some y ∧
            y.result = some (stOk, x.detail)) ∧
        (x.issued = false → x.cancel = true → exec i s = .next (s.cmdResult c 4 k stCancelled 0).settleAll) ∧
        (x.issued = false → x.cancel = false → inFrag → exec i s = .next (s.cmdResult c 4 k stFragment 0).settleAll) ∧
        (x.issued = false → x.cancel = false → ¬ inFrag → s.portOn portStaging = false →
          exec i s = .next (s.cmdResult c 4 k stFnOff 0).settleAll))) ∧
    (∀ x t d u w r n, s.runningCmd c 4 k opStgIn = some x → x.issued = false → x.cancel = false → x.asked = true →
      (∀ d, s.ctxSlot c = some d → s.isFragment d = false) → s.portOn portStaging = true → x.trans = [t] →
      stgChunks x.body = 1 → host = [d] → d.status = 0 → n = State.chunkLen x.body 0 → d.data.length = n + 16 →
      let got := d.data
      (s.dmaForget x).putPieces x t (State.tilePieces t.target.toNat x.body n 0 n)
        (gcmOpen (State.stgKey x) (State.chunkIv x 0) (got.take n)) false rsps = (u, w, .ok () r) → (got.take n).length = n →
      (gcmTag (State.stgKey x) (State.chunkIv x 0) (State.stgAad x f 0) (got.take n) = slice got n 16 →
        exec (.stgIn c k host rsps) s = .next ((u.chunkNote x f 0 0).stgDone x t f 0).settleAll) ∧
      (gcmTag (State.stgKey x) (State.chunkIv x 0) (State.stgAad x f 0) (got.take n) ≠ slice got n 16 →
        exec (.stgIn c k host rsps) s =
          .next (((u.chunkNote x f 0 0).stgTaint t).cmdResult x.ctx x.queue x.k stAuthUntrusted 0).settleAll)) ∧
    (∀ x t u bs r n, s.runningCmd c 4 k opStgOut = some x → x.issued = false → x.cancel = false → s.ctxRefs c = [] →
      (∀ d, s.ctxSlot c = some d → s.isFragment d = false) → s.portOn portStaging = true → x.trans = [t] →
      stgChunks x.body = 1 → n = State.chunkLen x.body 0 →
      s.getPieces x t (State.tilePieces t.target.toNat x.body n 0 n) rsps = (u, .ok bs r) →
      let e := gcmSeal (State.stgKey x) (State.chunkIv x 0) (State.stgAad x f 1) bs
      exec (.stgOut c k rsps) s =
        .next (((u.chunkNote x f 1 0).hostWrite f (State.chunkHost x.body 0) (e.1 ++ e.2)).stgDone x t f 1).settleAll)

/-! ### Reduction -/

/-- The result of a slot does not depend on the order in which its contributions arrive: for every operation and format, two
orders of one set of contributions that keeps within the slot (R301, R303) leave the same result, sums as well as MAX, MIN
and the bitwise operations (R302, R305, R306, R319). -/
def Obligations.ReductionOrderFree : Prop :=
  ∀ (op code : BitVec 4) (sigma : Nat) (xs ys : List Dec), xs.Perm ys →
    (op.toNat ≤ 2 → (xs.map (·.m)).sum < 2 ^ slotBits code) →
    slotResult op (fmtQ code) sigma (xs.foldl (slotCombine op code) {}) =
      slotResult op (fmtQ code) sigma (ys.foldl (slotCombine op code) {})

/-- PROG_LOAD, PROG_GO and PROG_UNLOAD in their order of checks (Table 11-1, R322, R328, R331), and the first REDUCE group a
link holds (R336, R337, R345). A descriptor that passes is LOADED with its key derived under the member secret and its
buffer taken from the pool; a PROG_GO whose iteration may open sets the next iteration and opens it, and one that finds its
iteration faulted completes with that status; PROG_UNLOAD frees slot, key and buffer. A contribution that names no program
or an ended iteration is discarded and counted late, one ahead of the depth waits. -/
def Obligations.ReductionCommands : Prop :=
  ∀ (s : State) (c : CtxId) (k : Word) (rsps : List McRsp) (l : LinkId),
    (s.runningCmd c 2 k opProgLoad = none → exec (.progLoad c k rsps) s = .next s.settleAll) ∧
    (s.runningCmd c 2 k opProgGo = none → exec (.progGo c k rsps) s = .next s.settleAll) ∧
    (s.runningCmd c 2 k opProgUnload = none → exec (.progUnload c k) s = .next s.settleAll) ∧
    (∀ x, s.runningCmd c 2 k opProgLoad = some x →
      let p : ProgId := byteAt x.body 0
      let free : Prop := s.progMine c p = true ∧ (s.prog p).phase = .free
      (x.cancel = true → exec (.progLoad c k rsps) s = .next (s.cmdResult c 2 k stCancelled 0).settleAll) ∧
      (x.cancel = false → ¬ free → exec (.progLoad c k rsps) s = .next (s.cmdResult c 2 k stProgSlot 0).settleAll) ∧
      (x.cancel = false → free → x.trans = [] →
        exec (.progLoad c k rsps) s = .next (s.cmdResult c 2 k stUnmapped (vaDetail (leAt x.body 8 8))).settleAll) ∧
      (∀ t st, x.cancel = false → free → x.trans = [t] → s.descExtent x t 64 = some st →
        exec (.progLoad c k rsps) s = .next (s.cmdResult c 2 k st 0).settleAll) ∧
      (∀ t u v w h more first r1 r2 r3 vd sl, x.cancel = false → free → x.trans = [t] → t.fabric = false →
        s.descExtent x t 64 = none → s.rangeFenced t 64 = false →
        s.getRange (.ctx c) x 0 { t with len := 64 } rsps = (u, .ok h r1) → 1 ≤ descStages h → descStages h ≤ 32 →
        s.descExtent x t (64 + 36 * descStages h) = none → s.rangeFenced t (64 + 36 * descStages h) = false →
        let whole : Trans := { t with len := 64 + 36 * descStages h }
        let n := (State.linesOf t.target 64).2
        u.getLines (.ctx c) x 0 whole (transLines whole - n) n r1 = (v, .ok more r2) →
        s.getLines (.ctx c) x 0 whole n 0 rsps = (w, .ok first r3) →
        let b := slice (first ++ more) (t.target.toNat % 64) (64 + 36 * descStages h)
        let d := parseDesc b
        (∀ st, descCheck b d (s.vdev (((s.ctx c).vd).getD 0)).links = some st →
          exec (.progLoad c k rsps) s = .next (v.cmdResult c 2 k st 0).settleAll) ∧
        (descCheck b d (s.vdev (((s.ctx c).vd).getD 0)).links = none →
          (v.red.unitsFree.toNat < d.units → exec (.progLoad c k rsps) s = .next (v.cmdResult c 2 k stBuffer 0).settleAll) ∧
          (d.units ≤ v.red.unitsFree.toNat → (v.ctx c).vd = some vd → v.ctxSlot c = some sl → v.hasMember sl = true →
            v.keyUsable (State.rowDcs sl) = true → (v.row (State.rowProg p)).outOfUse = false →
            ∃ z : State, exec (.progLoad c k rsps) s = .next z.settleAll ∧ (z.prog p).phase = .loaded ∧ (z.prog p).desc = some d ∧
              (z.prog p).ctx = c ∧ (z.prog p).slot = sl ∧ (z.prog p).nextGo = 0 ∧
              z.red.unitsFree = v.red.unitsFree - BitVec.ofNat 17 d.units ∧
              (let key := leBv 288 (State.kdf (v.keyBytes (State.rowDcs sl) 32) "KX3-PROG"
                (v.domainIdOf sl ++ leBytes 8 d.seed.toNat) 256)
               z.row (State.rowProg p) = { v.row (State.rowProg p) with
                valid := true, parent := .row (BitVec.ofNat 12 (State.rowMember sl)), tense := 0, slot := sl, gen := 0, use := 0
                material := key, tail := State.tailOf (State.rowProg p) key }))))) ∧
    (∀ x, s.runningCmd c 2 k opProgGo = some x →
      let p : ProgId := byteAt x.body 0
      let g := s.prog p
      let n := leAt x.body 4 4
      s.iterOf p n = none →
      (g.desc = none → exec (.progGo c k rsps) s = .next (s.cmdResult c 2 k stProgSlot 0).settleAll) ∧
      (∀ d, g.desc = some d →
        (∀ e, s.goCheck x p d = some e → exec (.progGo c k rsps) s = .next (s.cmdResult c 2 k e.1 e.2).settleAll) ∧
        (s.goCheck x p d = none → (g.faultedAhead.find? fun e => e.1 == n) = none → d.depth ≤ g.iters.length →
          exec (.progGo c k rsps) s = .next s.settleAll) ∧
        (∀ e, s.goCheck x p d = none → (g.faultedAhead.find? fun e => e.1 == n) = some e →
          exec (.progGo c k rsps) s = .next (((s.modProg p fun g => { g with nextGo := n + 1 }).modProg p fun g => { g with
            faultedAhead := g.faultedAhead.filter fun y => y.1 != n }).cmdResult c 2 k e.2 0).settleAll) ∧
        (s.goCheck x p d = none → (g.faultedAhead.find? fun e => e.1 == n) = none → g.iters.length < d.depth →
          g.low ≤ n → g.endedAhead.contains n = false → State.readsSrc d = false → x.cancel = false →
          let info : GoInfo := { ctx := c, k := k, elemOffset := leAt x.body 24 6, src := (State.goTrans x).1,
                                 dst := (State.goTrans x).2 }
          let u := (((s.modProg p fun g => { g with nextGo := n + 1 }).openIter p n (some info)).modCmd c 2 k fun y =>
            { y with refs := s.ctxRefs c }).modIter p n fun it => { it with go := some info }
          (s.linksAgreed p d = false →
            exec (.progGo c k rsps) s = .next (u.faultIter p n progLink stProgFault true).settleAll) ∧
          (s.linksAgreed p d = true →
            exec (.progGo c k rsps) s = .next ((u.progPass p n).goRead c k p d n rsps).settleAll)))) ∧
    (∀ x, s.runningCmd c 2 k opProgUnload = some x →
      let p : ProgId := byteAt x.body 0
      (x.cancel = true → exec (.progUnload c k) s = .next (s.cmdResult c 2 k stCancelled 0).settleAll) ∧
      (x.cancel = false → s.progMine c p = false ∨ (s.prog p).phase = .free →
        exec (.progUnload c k) s = .next (s.cmdResult c 2 k stProgSlot 0).settleAll) ∧
      (x.cancel = false → s.progMine c p = true → (s.prog p).phase ≠ .free → ∃ t : State, exec (.progUnload c k) s = .next t.settleAll ∧
        (t.prog p).phase = .free ∧ (t.prog p).desc = none ∧ (t.prog p).iters = [] ∧
        (t.row (State.rowProg p)).valid = false ∧ (t.row (State.rowProg p)).material = 0 ∧
        t.red.unitsFree = s.red.unitsFree + BitVec.ofNat 17 (s.prog p).units)) ∧
    (let red := (s.link l).io.held.find? fun h => hdrDest h.header == destReduce && hdrKind h.header == kindSealed && h.cls == 2
     (s.running = false ∨ s.areaOn areaReduction = false ∨ red = none → exec (.contributionTake l) s = .next s.settleAll) ∧
     (∀ h, s.running = true → s.areaOn areaReduction = true → red = some h →
       let p : ProgId := (hdrCtx h.header).setWidth 8
       let g := s.prog p
       let y := contribOf h.payload
       let dist := (y.iterLo + 256 - g.low % 256) % 256
       let n := g.low + dist
       let u := (s.modLink l fun q => { q with io := { q.io with held := q.io.held.erase h } }).creditReturn l h.cls
       (g.desc = none → ∃ t : State, exec (.contributionTake l) s = .next t.settleAll ∧ (t.prog p).lateCount = satInc g.lateCount ∧
         (t.link l).io.held = (s.link l).io.held.erase h ∧ t.red.event.getLsbD 3 = true) ∧
       (∀ d, g.desc = some d →
         let late : Prop := g.phase = .ended ∨ 128 ≤ dist ∨ 2 ^ 32 ≤ n ∨ (dist < d.depth ∧ g.endedAhead.contains n = true)
         (late → ∃ t : State, exec (.contributionTake l) s = .next t.settleAll ∧ (t.prog p).lateCount = satInc g.lateCount ∧
           (t.link l).io.held = (s.link l).io.held.erase h) ∧
         (¬ late → d.depth ≤ dist → g.held = true → exec (.contributionTake l) s = .next (s.redEvent 2).settleAll) ∧
         (¬ late → d.depth ≤ dist → g.held = false → ∃ t : State, exec (.contributionTake l) s = .next t.settleAll ∧
           t.prog p = { g with held := true } ∧ t.links = s.links ∧ t.red.event.getLsbD 2 = true) ∧
         (¬ late → dist < d.depth →
           exec (.contributionTake l) s = .next (u.takeContrib p d n l h.stamp y h.payload.length).settleAll))))

/-! ### Fabric -/

/-- The fabric at an accelerator (R425 to R429, Tables 14-1, 14-3). An access of an ACTIVE context to a line of a fabric object
leaves as one record on the link of its line, with a tag, or ends at once with its status; an atomic is refused and sends
nothing. A response ends the request of its tag with the status of Table 14-3; one without a request is a stray and only
counted. In pool role both are nothing. -/
def Obligations.FabricAtAccelerator : Prop :=
  ∀ (s : State) (c : CtxId) (va : BitVec 64) (w : Bool) (mask : BitVec 64) (x : Line) (a : Bool) (l : LinkId) (r : FabRec),
    (s.running = false ∨ s.poolRole = true ∨ (s.ctx c).phase ≠ .active →
      exec (.fabricAccess c va w mask x a) s = .next s) ∧
    (s.running = true → s.poolRole = false → (s.ctx c).phase = .active →
      (s.findObj c va.toNat = none →
        exec (.fabricAccess c va w mask x a) s = .next (s.out (.fabDone c 0 stUnmapped none))) ∧
      (∀ n o, s.findObj c va.toNat = some (n, o) → o.fabric = true →
        let line : BitVec 36 := ((o.target + (va - o.va)) >>> 6).setWidth 36
        let ends (st : Status) : Prop := exec (.fabricAccess c va w mask x a) s = .next (s.out (.fabDone c line st none))
        (a = true → ends stFabricOp) ∧
        (a = false → State.rightOk o.rights w = false → ends stRights) ∧
        (a = false → State.rightOk o.rights w = true → o.taint = true → ends stTainted) ∧
        (a = false → State.rightOk o.rights w = true → o.taint = false →
          (State.fabLink o.links line = none → ends stFabricLink) ∧
          (∀ m, State.fabLink o.links line = some m →
            (s.linkOn m = false → ends stFnOff) ∧
            (s.linkOn m = true → (∀ d, s.ctxSlot c = some d → s.agreedIn m d = false) → ends stFabricLink) ∧
            (∀ d, s.linkOn m = true → s.ctxSlot c = some d → s.agreedIn m d = true →
              let q : FabWait := { line := line, write := w, mask := mask, data := x, ctx := c, vd := ((s.ctx c).vd).getD 0,
                                   owner := .access }
              let tag := State.freeTag (s.link m).fabOut 1025 (s.link m).fabTag
              (State.fabFree (s.link m) (s.link m).fabWait q = true → ∃ t y, exec (.fabricAccess c va w mask x a) s = .next t ∧
                t = { s with links := t.links } ∧
                (t.link m).fabOut = (s.link m).fabOut ++ [{ tag := tag, line := line, write := w, ctx := c, owner := .access,
                                                            gone := false }] ∧
                (t.link m).io.txq = (s.link m).io.txq ++ [y] ∧ y.kind = kindFabric ∧
                y.payload = fabBytes { op := if w then fabWrite else fabRead, status := 0, tag := tag, line := line,
                                       mask := if w then mask else 0, data := x }) ∧
              (State.fabFree (s.link m) (s.link m).fabWait q = false → ∃ t, exec (.fabricAccess c va w mask x a) s = .next t ∧
                t = { s with links := t.links } ∧ (t.link m).fabOut = (s.link m).fabOut ∧
                (t.link m).fabWait = (s.link m).fabWait ++ [q])))))) ∧
    (s.running = false ∨ s.poolRole = true ∨ (s.link l).core.phase ≠ .agreed →
      exec (.fabricResponse l r) s = .next s.settleAll) ∧
    (s.running = true → s.poolRole = false → (s.link l).core.phase = .agreed →
      let found := (s.link l).fabOut.find? fun o => o.tag == r.tag && State.answers o r.op
      (found = none ∨ fabStatus r.status = none → exec (.fabricResponse l r) s =
        .next (s.setLink l { s.link l with fabStray := satInc (s.link l).fabStray }).settleAll) ∧
      (∀ o st, found = some o → fabStatus r.status = some st → o.gone = false → o.owner = .access → (s.link l).fabWait = [] →
        ∃ u : State, exec (.fabricResponse l r) s = .next u.settleAll ∧ u = { s with links := u.links, outs := u.outs } ∧
          u.outs = .fabDone o.ctx o.line st (if o.write then none else some r.data) :: s.outs ∧
          (u.link l).fabOut = (s.link l).fabOut.filter fun y => y.tag != r.tag))

/-- The fabric at the pool (R430 to R437, Tables 14-3, 14-4, 14-7). The checker answers the one record that waits: an atomic
with OWNERSHIP, a page outside the table with UNMAPPED, a sender the entry does not admit with DENIED, a write in a Fragment
with FRAGMENT, a read that goes through with its data; an access Memory Sealing refuses ends with the fabric status of that
refusal. A write its cluster accepts leaves the checker and is acknowledged once the controller has answered. The answer goes
out while the Agreement it came under stands. A page whose table line is not cached waits for it. A table line that arrives
fills four entries, one that does not verify goes from the misses and fills none. KX_FAB_TBL registers take a base, a key and
at most 2^21 pages, and drop what the cache held of the slot. -/
def Obligations.FabricAtPool : Prop :=
  ∀ (s : State) (rsp : McRsp) (d : Slot) (line : BitVec 19) (base : Word) (key : KeyIdx) (pages : BitVec 22),
    (s.running = false ∨ s.poolRole = false → exec (.fabricRequest rsp) s = .next s.settleAll ∧
      exec (.fabricTableLineRead d line rsp) s = .next s.settleAll ∧
      exec (.fabricTableSetup d base key pages) s = .next s) ∧
    (s.fab.queue = [] → exec (.fabricRequest rsp) s = .next s.settleAll) ∧
    (∀ w : FabRecWait, s.running = true → s.poolRole = true → s.fab.queue = [w] → s.fab.misses = [] →
      let q := w.record
      let page := State.fabPage q.line
      let formOk : Prop := (q.op = fabRead ∧ q.mask = 0 ∨ q.op = fabWrite ∧ q.mask ≠ 0) ∧ q.status = 0
      let ends (u : State) : Prop := exec (.fabricRequest rsp) s = .next (State.fabHeldPump 64 u).settleAll
      let answered (b u : State) (st : BitVec 4) (x : Line) : Prop := ends u ∧
        (b.agreedIn w.link w.slot = true → (b.link w.link).io.inst = w.inst →
          ∃ y ∈ (u.link w.link).io.txq, y.cls = w.cls ∧ y.kind = kindFabric ∧
          y.payload = fabBytes { op := if q.op = fabWrite then fabWriteAck else fabReadResp, status := st, tag := q.tag,
                                 line := q.line, mask := 0, data := x })
      (0x10 ≤ q.op.toNat → q.op.toNat ≤ 0x1F → ∃ u : State, answered s u 6 0 ∧ u.fab.ownership = satInc s.fab.ownership) ∧
      (formOk → (s.dom w.slot).tblPages.toNat ≤ page → ∃ u : State, answered s u 1 0) ∧
      (formOk → page < (s.dom w.slot).tblPages.toNat → Tab.get none s.fab.cache (State.cacheKey w.slot page) = none →
        exec (.fabricRequest rsp) s =
          .next { s with fab := { s.fab with misses := [(w.slot, State.fabTblLine q.line)] } }.settleAll) ∧
      (∀ e, formOk → page < (s.dom w.slot).tblPages.toNat → Tab.get none s.fab.cache (State.cacheKey w.slot page) = some e →
        (s.entUsable w.slot e = false → entValid e = true →
          ∃ u : State, answered s u 1 0 ∧ u.fab.entryBad = satInc s.fab.entryBad) ∧
        (s.entUsable w.slot e = false → entValid e = false → ∃ u : State, answered s u 1 0) ∧
        (s.entUsable w.slot e = true →
          let admits : Prop := (entShare e = 0 → w.sender = entMember e ∧ w.vd = entVd e) ∧
            (entShare e = 1 → w.sender = entMember e) ∧ (if q.op = fabRead then entRead e else entWrite e) = true
          let a : Dpa := entPage e ++ q.line.setWidth 15 ++ (0 : BitVec 6)
          let put : MemWait := { master := .fabric w.slot, key := entKey e, dpa := a, write := some (q.mask, q.data),
                                 atomic := false, refs := [], tag := some (.fab w) }
          (¬ admits → ∃ u : State, answered s u 2 0 ∧ u.fab.rights = satInc s.fab.rights) ∧
          (admits → q.op = fabWrite → s.isFragment w.slot = true → ∃ u : State, answered s u 5 0) ∧
          (∀ b p, admits → q.op = fabRead → s.readNow (.fabric w.slot) (entKey e) a rsp = (b, .done p) →
            ∃ u : State, answered b u 0 p) ∧
          (∀ b st z, admits → q.op = fabRead → s.readNow (.fabric w.slot) (entKey e) a rsp = (b, .failed st z) →
            ∃ u : State, answered b u (State.fabMemStatus st) 0) ∧
          (∀ b st, admits → q.op = fabWrite → s.isFragment w.slot = false → s.memPut put = (b, some st) →
            ∃ u : State, answered b u (State.fabMemStatus st) 0) ∧
          (∀ b, admits → q.op = fabWrite → s.isFragment w.slot = false → s.memPut put = (b, none) →
            ends (b.fabDrop w))))) ∧
    (s.running = true → s.poolRole = true → s.fab.misses.contains (d, line) = false →
      exec (.fabricTableLineRead d line rsp) s = .next s.settleAll) ∧
    (s.running = true → s.poolRole = true → s.fab.misses.contains (d, line) = true →
      let ends (u : State) : Prop := exec (.fabricTableLineRead d line rsp) s = .next (State.fabHeldPump 64 u).settleAll
      (∀ b p, s.readNow (.fabric d) (s.dom d).tblKey (s.tblDpa d line.toNat) rsp = (b, .done p) →
        ∃ u : State, ends u ∧ (d, line) ∉ u.fab.misses ∧
          ∀ i : Nat, i < 4 → Tab.get none u.fab.cache (State.cacheKey d (4 * line.toNat + i)) =
            some (p.extractLsb' (128 * i) 128)) ∧
      (∀ b st z, s.readNow (.fabric d) (s.dom d).tblKey (s.tblDpa d line.toNat) rsp = (b, .failed st z) →
        ∃ u : State, ends u ∧ (d, line) ∉ u.fab.misses ∧ u.fab.event.getLsbD 3 = true ∧ u.fab.cache = s.fab.cache)) ∧
    (2 ^ 21 < pages.toNat → exec (.fabricTableSetup d base key pages) s = .next s) ∧
    (s.running = true → s.poolRole = true → pages.toNat ≤ 2 ^ 21 → ∃ t, exec (.fabricTableSetup d base key pages) s = .next t ∧
      t.dom d = { s.dom d with tblBase := base, tblKey := key, tblPages := pages } ∧
      (∀ e : Slot, e ≠ d → t.dom e = s.dom e) ∧
      (∀ p : Nat, p < 2 ^ 22 → Tab.get none t.fab.cache (State.cacheKey d p) = none) ∧
      (∀ (e : Slot) (p : Nat), e ≠ d → p < 2 ^ 22 → s.canonical →
        Tab.get none t.fab.cache (State.cacheKey e p) = Tab.get none s.fab.cache (State.cacheKey e p)))

/-- The pool's table (R435, R436, Table 14-6). FAB_MAP writes the entry of a page of the slot's table and FAB_UNMAP writes 0
there, as a partial write of the trust core under the table's key; the cached copy goes. Neither is taken in accelerator
role, nor for a page outside the table; FAB_MAP not for an entry that names no page below the channel's lines or a key that
is not the slot's. A write that Memory Sealing refuses ends with its status. -/
def Obligations.FabricTable : Prop :=
  ∀ (s : State) (h : MbxHdr) (d : Slot) (page : BitVec 32) (e : BitVec 128), h.fn = 0 →
    let k := s.dom d
    let a := s.tblDpa d (page.toNat / 4)
    let o := 16 * (page.toNat % 4)
    let cleared : State := { s with fab := { s.fab with cache := Tab.set none s.fab.cache (State.cacheKey d page.toNat) none } }
    let asked (x : BitVec 128) : MemWait := { master := .trustCore, key := k.tblKey, dpa := a, atomic := false, refs := []
                                              write := some (State.byteMask o 16, bytesLine (zeros o ++ leBytes 16 x.toNat)) }
    (s.mbxReady h 24 →
      (s.poolRole = false → exec (.fabMap h d page e) s = .next (s.mbxReply h 0x0040 stRoleMismatch []).settleAll) ∧
      (s.poolRole = true → k.tblPages.toNat ≤ page.toNat →
        exec (.fabMap h d page e) s = .next (s.mbxReply h 0x0040 stLengthRange []).settleAll) ∧
      (s.poolRole = true → page.toNat < k.tblPages.toNat → s.entUsable d e = false →
        exec (.fabMap h d page e) s = .next (s.mbxReply h 0x0040 stKeyScope []).settleAll) ∧
      (s.poolRole = true → page.toNat < k.tblPages.toNat → s.entUsable d e = true → s.pageBelow (entPage e) = false →
        exec (.fabMap h d page e) s = .next (s.mbxReply h 0x0040 stLengthRange []).settleAll) ∧
      (s.poolRole = true → page.toNat < k.tblPages.toNat → s.entUsable d e = true → s.pageBelow (entPage e) = true →
        (∀ st u, s.memRefusal .trustCore k.tblKey a true = some (st, u) →
          exec (.fabMap h d page e) s = .next (u.mbxReply h 0x0040 st []).settleAll) ∧
        (s.memRefusal .trustCore k.tblKey a true = none →
          exec (.fabMap h d page e) s =
            .next ((cleared.memAccept (asked e)).mbxReply h 0x0040 stOk []).settleAll))) ∧
    (s.mbxReady h 8 →
      (s.poolRole = false → exec (.fabUnmap h d page) s = .next (s.mbxReply h 0x0041 stRoleMismatch []).settleAll) ∧
      (s.poolRole = true → k.tblPages.toNat ≤ page.toNat →
        exec (.fabUnmap h d page) s = .next (s.mbxReply h 0x0041 stLengthRange []).settleAll) ∧
      (s.poolRole = true → page.toNat < k.tblPages.toNat →
        (∀ st u, s.memRefusal .trustCore k.tblKey a true = some (st, u) →
          exec (.fabUnmap h d page) s = .next (u.mbxReply h 0x0041 st []).settleAll) ∧
        (s.memRefusal .trustCore k.tblKey a true = none →
          exec (.fabUnmap h d page) s =
            .next ((cleared.memAccept (asked 0)).mbxReply h 0x0041 stOk []).settleAll)))

/-! ### The mailbox -/

/-- Every mailbox request is judged the same way before its command looks at it (R471 to R474): a mailbox that is off takes
nothing; a host read that failed ends it with ST_HOST_DMA and no reply; a function that is not OPEN, and did not take the
doorbell while it was, receives ST_FN_OFF; then a request length that does not fit, a command kept to the PF, a reserved
field and a body of the wrong length each have their status. A reserved code receives ST_OPCODE: the reply is written, busy
clears, done is set and the vector raised; a code of Table 16-1 is no such request. The order of the checks is the model's
(log entry 33). -/
def Obligations.MailboxRequests : Prop :=
  ∀ s : State,
    (∀ (i : Instr) (h : MbxHdr) (code : BitVec 16) (pf : Bool) (want : Option Nat), mailParts i = some (h, code, pf, want) →
      let m := (s.func h.fn).mbx
      (s.mbxOn h.fn = false → mailEnds i s s) ∧
      (s.mbxOn h.fn = true → h.dmaOk = false → mailEnds i s (s.mbxEnd h.fn stHostDma 0)) ∧
      (s.mbxOn h.fn = true → h.dmaOk = true → (s.func h.fn).phase ≠ .opened → m.taken = false →
        mailEnds i s (s.mbxReply h code stFnOff [])) ∧
      (s.mbxOpen h →
        (m.reqLen.toNat ≠ 16 + h.bodyLen → mailEnds i s (s.mbxReply h code stLengthRange [])) ∧
        (m.reqLen.toNat = 16 + h.bodyLen →
          (pf = true → h.fn ≠ 0 → mailEnds i s (s.mbxReply h code stRights [])) ∧
          ((pf = true → h.fn = 0) → h.statusField ≠ 0 ∨ h.reservedZero = false →
            mailEnds i s (s.mbxReply h code stReserved [])) ∧
          (∀ n, (pf = true → h.fn = 0) → h.statusField = 0 → h.reservedZero = true → want = some n → h.bodyLen ≠ n →
            mailEnds i s (s.mbxReply h code stLengthRange []))))) ∧
    (∀ (h : MbxHdr) (code : BitVec 16),
      (s.mbxOn h.fn = false ∨ mbxCodes.contains code.toNat = true → exec (.mailboxReservedCode h code) s = .next s) ∧
      (mbxCodes.contains code.toNat = false → s.mbxOpen h → (s.func h.fn).mbx.reqLen.toNat = 16 + h.bodyLen →
        exec (.mailboxReservedCode h code) s = .next (s.mbxReply h code stOpcode []) ∧
        ((s.func h.fn).phase = .opened → 16 ≤ (s.func h.fn).mbx.rspMax.toNat → s.portOn portStaging = true →
          (s.func h.fn).mbx.rsp.toNat % 4096 ≤ 4080 → ∃ t, exec (.mailboxReservedCode h code) s = .next t ∧
            (t.func h.fn).mbx = { (s.func h.fn).mbx with busy := false, taken := false, done := true, status := stOpcode
                                                         rspLen := 16 } ∧
            t.outs = .msi h.fn (s.func h.fn).mbx.vector :: .hdWrite h.fn (s.func h.fn).mbx.rsp
              (leBytes 2 code.toNat ++ leBytes 2 stOpcode.toNat ++ leBytes 4 0 ++ leBytes 8 h.tag.toNat) :: s.outs)))

/-- The mailbox services. SPDM_MSG answers GET_VERSION at any time and a request out of order with an SPDM error (R494, error
numbers by log entry 49); CERT_GET answers a part of the device record and the boot-alias pair (R475). FN_OPEN, DRAIN and
RETIRE act on a VF (Table 16-9): a CLOSED one opens, an OPEN one drains, a DRAINED one is retired, and function 0 receives
ST_RIGHTS. LINK_AGREE and LINK_CLOSE act on a declared link (R277): an AGREED one closes with cause LOCAL, and a link that
is not up keeps the request; both are refused in Test state and while debug is open before the declaration is asked (log
entry 130). -/
def Obligations.MailboxServices : Prop :=
  ∀ (s : State) (h : MbxHdr) (f : Fn) (d : Slot) (l : LinkId),
    (∀ (b : Bytes) (n : Nat), s.mbxReady h n →
      let st := (s.func h.fn).spdm
      let goes (x : SpdmState) : Prop := exec (.spdmMsg h b) s = .next ((s.modFunc h.fn fun k => { k with spdm := x }).mbxReply
        h 0x0001 stOk (Config.spdmEncode b s.spdmChain))
      let order : Prop := exec (.spdmMsg h b) s = .next (s.mbxReply h 0x0001 stOk (State.spdmError 0x04 0))
      (byteAt b 1 = 0x84 → goes 1) ∧ (byteAt b 1 = 0xE1 → st = 1 → goes 2) ∧ (byteAt b 1 = 0xE1 → st ≠ 1 → order) ∧
      (byteAt b 1 = 0xE3 → st = 2 → goes 3) ∧ (byteAt b 1 = 0xE3 → st ≠ 2 → order) ∧
      (byteAt b 1 = 0x81 → st = 3 → goes 3) ∧ (byteAt b 1 = 0x81 ∨ byteAt b 1 = 0x82 → st ≠ 3 → order) ∧
      (byteAt b 1 = 0x82 → st = 3 → s.boot.idRecordOk = true → goes 3) ∧
      (byteAt b 1 = 0x82 → st = 3 → s.boot.idRecordOk = false →
        exec (.spdmMsg h b) s = .next (s.mbxReply h 0x0001 stOk (State.spdmError 0x01 0))) ∧
      (byteAt b 1 ∉ ([0x84, 0xE1, 0xE3, 0x81, 0x82] : Bytes) →
        exec (.spdmMsg h b) s = .next (s.mbxReply h 0x0001 stOk (State.spdmError 0x07 (byteAt b 1))))) ∧
    (∀ o n : BitVec 32, s.mbxReady h 8 →
      let x := s.certObject
      (x.length ≤ o.toNat ∨ n = 0 ∨ 65512 < n.toNat → exec (.certGet h o n) s = .next (s.mbxReply h 0x0002 stLengthRange [])) ∧
      (o.toNat < x.length → n ≠ 0 → n.toNat ≤ 65512 → exec (.certGet h o n) s = .next (s.mbxReply h 0x0002 stOk
        (leBytes 4 x.length ++ leBytes 4 s.boot.reissue.toNat ++ slice x o.toNat n.toNat)))) ∧
    (s.mbxReady h 4 → h.fn = 0 →
      (f = 0 → exec (.fnOpen h f) s = .next (s.mbxReply h 0x0050 stRights []).settleAll ∧
        exec (.drain h f) s = .next (s.mbxReply h 0x0051 stRights []) ∧
        exec (.retire h f) s = .next (s.mbxReply h 0x0052 stRights []).settleAll) ∧
      (f ≠ 0 →
        ((s.func f).phase = .closed → (∃ u : State, exec (.fnOpen h f) s = .next (u.mbxReply h 0x0050 stOk []).settleAll ∧
            u.func f = { s.func f with phase := .opened } ∧ u.fnOn f = true ∧ u.outs = s.outs) ∧
          exec (.drain h f) s = .next (s.mbxReply h 0x0051 stOk []) ∧
          exec (.retire h f) s = .next (s.mbxReply h 0x0052 stOk []).settleAll) ∧
        ((s.func f).phase ≠ .closed → exec (.fnOpen h f) s = .next (s.mbxReply h 0x0050 stCtxBusy []).settleAll) ∧
        ((s.func f).phase = .opened → exec (.retire h f) s = .next (s.mbxReply h 0x0052 stCtxBusy []).settleAll ∧
          (s.fnWork f = true → ∃ u : State, exec (.drain h f) s = .next (u.mbxReply h 0x0051 stOk []) ∧
            u.func f = { s.func f with phase := .draining }) ∧
          (s.fnWork f = false → ∃ u : State, exec (.drain h f) s = .next (u.mbxReply h 0x0051 stOk []) ∧
            u.func f = { s.func f with phase := .drained, drained := true })) ∧
        ((s.func f).phase = .draining → exec (.drain h f) s = .next (s.mbxReply h 0x0051 stOk []) ∧
          exec (.retire h f) s = .next (s.mbxReply h 0x0052 stCtxBusy []).settleAll) ∧
        ((s.func f).phase = .drained → exec (.drain h f) s = .next (s.mbxReply h 0x0051 stOk []) ∧
          ∃ u : State, exec (.retire h f) s = .next (u.mbxReply h 0x0052 stOk []).settleAll ∧ (u.func f).phase = .closed ∧
            (u.sessOf f).opened = false ∧ u.fnOn f = false))) ∧
    (s.mbxReady h 4 → h.fn = 0 →
      let agree (u : State) (st : Status) : Prop := exec (.linkAgree h d l) s = .next (u.mbxReply h 0x003A st [])
      let close (u : State) (st : Status) : Prop := exec (.linkClose h d l) s = .next (u.mbxReply h 0x003B st []).settleAll
      (∀ st, s.linkShut = some st → agree s st ∧ close s st) ∧
      (s.linkShut = none → s.declared d l = false → agree s stRoster ∧ close s stRoster) ∧
      (s.linkShut = none → s.declared d l = true →
        (State.outOfService (.lk l) (s.laneCluster (.lk l)) = true → agree s stFnOff) ∧
        (State.outOfService (.lk l) (s.laneCluster (.lk l)) = false →
          ((s.link l).core.phase = .agreeing ∨ (s.link l).core.phase = .agreed → agree s stSlotBusy) ∧
          ((s.link l).core.phase ≠ .agreeing → (s.link l).core.phase ≠ .agreed →
            (∀ st, s.agreeRefusal d = some st → agree s st) ∧
            (s.agreeRefusal d = none → s.linkOn l = false ∨ (s.link l).core.up = false →
              agree (s.modLink l fun k => { k with agr := { k.agr with kept := true } }) stOk) ∧
            (s.agreeRefusal d = none → s.linkOn l = true → (s.link l).core.up = true → agree (s.agreeNow l) stOk))) ∧
        (s.agreedIn l d = false → close s stNoTarget) ∧
        (∀ st, s.agreedIn l d = true → s.agreeRefusal d = some st → close s st) ∧
        (s.agreedIn l d = true → s.agreeRefusal d = none → s.red.progs = [] → (s.link l).io.flight = [] →
          (s.link l).fabOut = [] → (s.link l).fabWait = [] → ∃ u : State, close u stOk ∧ (u.link l).core.lastEnd = endLocal ∧
            (u.link l).core.tombLive = true ∧ (u.link l).core.tombMember = (s.link l).core.pMember ∧
            (u.row (State.rowLas l)).valid = false)))

/-- The Host Agreement (R476 to R481, Table 16-4). HA_HELLO is refused by the rows of R479 or leaves the agreement pending with
the host's session and slot; HA_FINISH ends it: within 1 s, with a signature and a confirmation that hold, and a member secret
in the slot, the session opens with its secret and both first staging keys, else ST_FORMATION and nothing pends. HA_TIMEOUT ends
what pends, HA_CLOSE ends the session and its secret. The verdicts of signatures are free (log entry 10). -/
def Obligations.HostAgreement : Prop :=
  ∀ (s : State) (h : MbxHdr),
    (∀ (m : HaHello) (n : Nat), s.mbxReady h n → ∃ (u : State) (st : Status) (b : Bytes),
      exec (.haHello h m) s = .next (u.mbxReply h 0x0010 st b) ∧
      (∀ r, s.haRefusal h m = some r → u = s ∧ st = r ∧ b = []) ∧
      (s.haRefusal h m = none → st = stOk ∧ ∃ p, (u.sessOf h.fn).pend = some p ∧ p.sessionId = m.sessionId ∧
        p.slot = m.slot.setWidth 3 ∧ p.th = sha384 (m.raw ++ b) ∧ p.since = s.now ∧ u.freeCtr = s.freeCtr + 3)) ∧
    (∀ (m : HaHello) (n : Nat), s.mbxReady h n → n ≠ 9177 →
      exec (.haHello h m) s = .next (s.mbxReply h 0x0010 stReserved [])) ∧
    (∀ (id : BitVec 32) (sig : Bytes) (kc : BitVec 128), s.mbxReady h 4756 →
      ((s.sessOf h.fn).pend = none → exec (.haFinish h id sig kc) s = .next (s.mbxReply h 0x0011 stFormation [])) ∧
      (∀ p, (s.sessOf h.fn).pend = some p →
        let sss := State.hybrid p.ssKem p.ssEcdh p.th "KX3-STAGE-AGREE" ([h.fn] ++ leBytes 4 p.sessionId.toNat)
        let holds : Prop := s.now - p.since ≤ State.haLimit ∧ id = p.sessionId ∧ State.sigMsgOk p.vmKeys "KX3-HOST-I" p.th sig = true ∧
          kc = State.confirmTag sss p.th 1 "KX3-HOST-KC" ∧ s.hasMember p.slot = true
        ∃ (u : State) (st : Status) (b : Bytes), exec (.haFinish h id sig kc) s = .next (u.mbxReply h 0x0011 st b) ∧
          (¬ holds → st = stFormation ∧ b = [] ∧ (u.sessOf h.fn).pend = none ∧ u.keys = s.keys) ∧
          (holds → (s.row (State.rowSss h.fn)).outOfUse = false → (s.row (State.rowStage h.fn 0)).outOfUse = false →
            (s.row (State.rowStage h.fn 1)).outOfUse = false → st = stOk ∧
            b = leBytes 16 (State.confirmTag sss p.th 2 "KX3-HOST-KC").toNat ∧
            u.sessOf h.fn = { opened := true, slot := p.slot } ∧
            (u.row (State.rowSss h.fn)).valid = true ∧ (u.row (State.rowSss h.fn)).material = (leBv 256 sss).setWidth 288 ∧
            ∀ dir : Nat, dir < 2 → (u.row (State.rowStage h.fn dir)).valid = true ∧ (u.row (State.rowStage h.fn dir)).gen = 1 ∧
              (u.row (State.rowStage h.fn dir)).material = u.stageKey h.fn dir 1))) ∧
    (∀ f : Fn, s.running = true → ∃ t, exec (.haTimeout f) s = .next t ∧ t = { s with fe := t.fe } ∧
      t.sessOf f = { s.sessOf f with pend := none }) ∧
    (∀ f : Fn, s.running = false → exec (.haTimeout f) s = .next s) ∧
    (s.mbxReady h 4 →
      ((s.sessOf h.fn).opened = false → exec (.haClose h) s = .next (s.mbxReply h 0x0012 stOk []).settleAll) ∧
      ((s.sessOf h.fn).opened = true → ∃ u : State, exec (.haClose h) s = .next (u.mbxReply h 0x0012 stOk []).settleAll ∧
        (u.sessOf h.fn).opened = false ∧ (u.sessOf h.fn).pend = (s.sessOf h.fn).pend ∧
        (u.row (State.rowSss h.fn)).valid = false ∧ (u.row (State.rowSss h.fn)).material = 0))

/-! ### Debug and life cycle -/

/-- Debug reopening and the life-cycle transitions. DEBUG_CHALLENGE of the PF in Production draws a new nonce (a free value, log
entry 11) and returns it with the identity digest, else ST_LC_STATE (R149). DEBUG_UNLOCK consumes the nonce whatever the
outcome, opens debug for a grant that passes and records a failed one (R150 to R154); while an unlock or a transition is in
progress it receives ST_LC_BUSY, and one whose forced domain exit hangs stays in progress (R142, R157). A write of KX_LCD_REQ
that its port lets through is DENIED without the confirm value or where its requester has no transition (R140), is refused
while another is in progress or without its condition, and else programs the target's segment into both OTP rows and enters
Full Stop (R141); where a forced exit hangs it stays in progress and has programmed nothing. -/
def Obligations.DebugAndLifeCycle : Prop :=
  ∀ (s : State) (h : MbxHdr) (g : Bytes) (n : Nat) (jtag : Bool) (f : Fn) (k : BitVec 16) (c : Bool) (r : BitVec 1),
    (s.mbxReady h 0 →
      (s.lcd.state ≠ 2 ∨ h.fn ≠ 0 → exec (.debugChallenge h) s = .next (s.mbxReply h 0x0020 stLcState [])) ∧
      (s.lcd.state = 2 → h.fn = 0 →
        let nonce := leBytes 32 (Config.entropy s.freeCtr).toNat
        exec (.debugChallenge h) s = .next (({ s with freeCtr := s.freeCtr + 1, lcd := { s.lcd with nonce := some nonce } } :
          State).mbxReply h 0x0020 stOk (nonce ++ s.idDigest)))) ∧
    (s.mbxReady h n →
      let ends (u : State) (st : Status) : Prop := exec (.debugUnlock h ⟨g, c⟩) s = .next (u.mbxReply h 0x0021 st []).settleAll
      (s.lcd.state ≠ 2 ∨ h.fn ≠ 0 → ends s stLcState) ∧
      (s.lcd.state = 2 → h.fn = 0 → s.lcd.busy ≠ none → ends s stLcBusy) ∧
      (s.lcd.state = 2 → h.fn = 0 → s.lcd.busy = none →
        (s.lcd.nonce = none → s.debugGrantOk s.lcd.nonce g = false) ∧
        (s.debugGrantOk s.lcd.nonce g = false →
          ends { s with lcd := { s.lcd with nonce := none, grantFailed := true, unlockStep := 1 } } stDebugGrant) ∧
        (s.debugGrantOk s.lcd.nonce g = true →
          (c = true ∨ s.exitColon = none → ∃ u : State, ends u stOk ∧ u.lcd.nonce = none ∧ u.lcd.debugOpen = true ∧
            u.lcd.unlockStep = 0 ∧ u.lcd.grantFailed = false ∧ u.boot.grantDigest = sha384 g) ∧
          (∀ x, c = false → s.exitColon = some x → ∃ u : State, exec (.debugUnlock h ⟨g, c⟩) s = .next u.settleAll ∧
            u.lcd.nonce = none ∧ u.lcd.busy = some .unlock ∧ u.lcd.unlockStep = 2 ∧ u.lcd.debugOpen = s.lcd.debugOpen ∧
            (u.func 0).mbx.busy = true)))) ∧
    (let rows : List (Instr × BitVec 2) :=
       [(.lcToTest jtag f k r, 1), (.lcToProduction jtag f k r, 2), (.lcToEndOfLife jtag f k ⟨c, r⟩, 3)]
     ∀ i x, (i, x) ∈ rows →
      let ends (u : State) : Prop := exec i s = .next (if x = 3 then u.settleAll else u)
      let answer (u : State) (y : Word) (e : BitVec 2) : State := u.out (if jtag = true then .dbgRsp y e else .regRsp y e)
      let denied : State := answer (s.regCapture (if jtag = true then 0 else f) true 0xF00004 rcDenied) 0xFFFFFFFF rcDenied
      (jtag = false → s.regTakes = false → ends s) ∧
      (jtag = true → s.dbgReach true 0xF00004 = none → ends (s.out .dbgBypass)) ∧
      (jtag = true → s.dbgReach true 0xF00004 = some false → ends denied) ∧
      (s.sys.phase = .running ∨ s.sys.phase = .failed → s.areaOn areaLcd = true →
        (jtag = true → s.dbgReach true 0xF00004 = some true) → (jtag = false → s.portOn portReg = true) →
        (jtag = false → f ≠ 0 → ends denied) ∧
        ((jtag = false → f = 0) →
          (k ≠ 0x4C43 ∨ s.lcAdmits jtag = false → ends denied) ∧
          (k = 0x4C43 → s.lcAdmits jtag = true →
            (s.lcd.busy ≠ none → ends (answer { s with lcd := { s.lcd with reqStatus := 3 } } 0 rcOkay)) ∧
            (s.lcd.busy = none → s.lcCond x = false →
              ends (answer { s with lcd := { s.lcd with reqStatus := 2 } } 0 rcOkay)) ∧
            (s.lcd.busy = none → s.lcCond x = true →
              (x ≠ 3 ∨ c = true ∨ s.exitColon = none ∨ s.lcd.state ≠ 2 → ∃ u : State, ends u ∧
                u.sys.phase = .fullStop ∧ u.glb.role = r ∧ u.flt.last.cause = causeLcTransition ∧
                u.otpRow 0 = s.otpRow 0 ||| lcSegment x ∧ u.otpRow 1 = s.otpRow 1 ||| lcSegment x ∧
                ∀ q : Nat, 2 ≤ q → u.otpRow q = s.otpRow q) ∧
              (∀ y, x = 3 → c = false → s.exitColon = some y → s.lcd.state = 2 → ∃ u : State, ends u ∧
                u.lcd.reqStatus = 1 ∧ u.lcd.busy = some .transition ∧ u.sys.phase = s.sys.phase ∧ u.otp = s.otp))))))

/-! ### Trust domains: formation, declarations, the Parse -/

/-- Formation (R356 to R359, Tables 12-5, 12-6). Every mailbox command of a trust domain is refused in Test state and while
debug is open or being opened. FORM_HELLO is refused by its checks in their order, with ST_KEY_ORPHAN where a key it needs is
gone (log entry 50), or leaves the slot FORMING with three fresh values (free, log entry 11) and the exchange's hash;
FORM_FINISH with a signature and a confirmation that hold makes this instance a member and the active System Manager of epoch
1, else the slot is free again with ST_FORMATION; so it is where its second passes. JOIN_TICKET stores a member index and its
proof in a free slot, DOMAIN_LEAVE frees a held one. -/
def Obligations.DomainFormation : Prop :=
  ∀ (s : State) (h : MbxHdr) (d : Slot),
    (∀ (i : Instr) (code : BitVec 16) (want : Option Nat) (n : Nat), mailParts i = some (h, code, true, want) →
      0x0030 ≤ code.toNat → code.toNat ≤ 0x0039 → (∀ k, want = some k → k = n) → s.mbxReady h n → h.fn = 0 →
      (s.lcd.state = 1 → mailEnds i s (s.mbxReply h code stLcState [])) ∧
      (s.lcd.state ≠ 1 → s.lcd.debugOpen = true ∨ s.lcd.busy = some .unlock →
        mailEnds i s (s.mbxReply h code stDebugOpen []))) ∧
    (∀ m : FormHello, s.mbxReady h 13385 → h.fn = 0 → s.joinGate = none →
      ((s.dom m.slot).phase ≠ .free → exec (.formHello h m) s = .next (s.mbxReply h 0x0030 stSlotBusy [])) ∧
      ((s.dom m.slot).phase = .free → s.poolRole = true →
        exec (.formHello h m) s = .next (s.mbxReply h 0x0030 stRoleMismatch [])) ∧
      ((s.dom m.slot).phase = .free → s.poolRole = false →
        let keys : Prop := s.idUsable = true ∧ s.aliasUsable = true ∧ s.slotRowsOut m.slot = false
        (recordOk m.record = false → exec (.formHello h m) s = .next (s.mbxReply h 0x0030 stDomainRecord [])) ∧
        (recordOk m.record = true → s.formOk m = false →
          exec (.formHello h m) s = .next (s.mbxReply h 0x0030 stFormation [])) ∧
        (recordOk m.record = true → s.formOk m = true → ¬ keys →
          exec (.formHello h m) s = .next (s.mbxReply h 0x0030 stKeyOrphan [])) ∧
        (recordOk m.record = true → s.formOk m = true → keys → ∃ (u : State) (b : Bytes),
          exec (.formHello h m) s = .next (u.mbxReply h 0x0030 stOk b) ∧ u.freeCtr = s.freeCtr + 3 ∧ u.outs = s.outs ∧
          (u.dom m.slot).phase = .forming ∧ (u.dom m.slot).member = m.member.setWidth 20 ∧
          (u.dom m.slot).domainId = slice m.record 8 16 ∧ (u.mtr m.slot).counts = [] ∧ ∃ f, (u.dom m.slot).form = some f ∧
          f.th = sha384 (m.raw ++ b) ∧ f.record = m.record ∧ f.since = s.now))) ∧
    (∀ (sig : Bytes) (kc : BitVec 128), s.mbxReady h 4752 → h.fn = 0 → s.joinGate = none →
      let ends (u : State) (st : Status) (b : Bytes) : Prop :=
        exec (.formFinish h sig kc) s = .next (u.mbxReply h 0x0031 st b).settleAll
      (s.pendingForm = none → ends s stNoTarget []) ∧
      (∀ f, s.pendingForm = some (d, f) →
        let drs := State.hybrid f.ssKem f.ssEcdh f.th "KX3-DRS" (slice f.record 8 16)
        let holds : Bool := State.sigMsgOk (recVerifierKeys f.record) "KX3-FORM-I" f.th sig &&
          kc == State.confirmTag drs f.th 1 "KX3-FORM-KC"
        let u := s.formDone d f drs
        (holds = false → ends (s.freeSlot d) stFormation []) ∧
        (holds = true → ends u stOk (leBytes 16 (State.confirmTag drs f.th 2 "KX3-FORM-KC").toNat)) ∧
        ((s.dom d).decls = [] → (u.dom d).phase = .member ∧ (u.dom d).epoch = 1 ∧ (u.dom d).activeSm = true ∧
          (u.dom d).sysManager = f.member ∧ (u.dom d).record = f.record ∧
          (s.idUsable = true → s.aliasUsable = true → u.boot.reissue = s.boot.reissue + 1)))) ∧
    (s.running = true → (s.dom d).phase = .forming →
      exec (.formationTimeout d) s = .next ((s.freeSlot d).out (.report d stFormation)).settleAll ∧
      ((s.freeSlot d).dom d).phase = .free ∧ ((s.freeSlot d).dom d).record = []) ∧
    (s.running = false ∨ (s.dom d).phase ≠ .forming → exec (.formationTimeout d) s = .next s.settleAll) ∧
    (∀ (m : BitVec 32) (p : Bytes), s.mbxReady h 824 → h.fn = 0 → s.joinGate = none →
      (2 ^ 20 ≤ m.toNat → exec (.joinTicket h d m p) s = .next (s.mbxReply h 0x0032 stReserved [])) ∧
      (m.toNat < 2 ^ 20 → (s.dom d).phase ≠ .free →
        exec (.joinTicket h d m p) s = .next (s.mbxReply h 0x0032 stSlotBusy [])) ∧
      (m.toNat < 2 ^ 20 → (s.dom d).phase = .free → exec (.joinTicket h d m p) s =
        .next ((s.modDom d fun k => { k with member := m.setWidth 20, ticket := some (m.setWidth 20, p) }).mbxReply
          h 0x0032 stOk []))) ∧
    (∀ x : Byte, s.mbxReady h 4 → h.fn = 0 → s.joinGate = none →
      (8 ≤ x.toNat ∨ (s.dom (x.setWidth 3)).phase = .free →
        exec (.domainLeave h x) s = .next (s.mbxReply h 0x0034 stNoTarget []).settleAll) ∧
      (x.toNat < 8 → (s.dom (x.setWidth 3)).phase ≠ .free → ∃ u : State,
        exec (.domainLeave h x) s = .next (u.mbxReply h 0x0034 stOk []).settleAll ∧ (u.dom (x.setWidth 3)).phase = .free))

/-- Declarations, census, count state and epoch (R371, R378, R381, R382, R388, R393, R619). A declaration that R381 does not
allow receives ST_ROSTER, and one it allows is stored, changes the Roster and may start an Agreement; a row of an older
fabric's table is a declaration only where the record has compat = 1 and the peer is a member. The census and the count
state are answered by who holds them, and not without the alias keys that sign them (R168). The verifier's vote and epoch
advance are checked in their order. An epoch's notice makes the member pending again, without token, key list or Domain Time.
The signatures are free (log entry 10). -/
def Obligations.DeclarationsAndEpoch : Prop :=
  ∀ (s : State) (h : MbxHdr) (d : Slot),
    (h.fn = 0 → s.joinGate = none →
      (∀ (l pl : Byte) (m : BitVec 32), s.mbxReady h 8 →
        let x : Decl := { partner := m.setWidth 20, link := pl.setWidth 6 }
        let k : LinkId := l.setWidth 6
        let own := ((s.dom d).phase ≠ .free ∨ (s.dom d).ticket.isSome = true) ∧ (s.dom d).member = x.partner
        (2 ^ 20 ≤ m.toNat ∨ 64 ≤ l.toNat ∨ 64 ≤ pl.toNat →
          exec (.linkDeclare h d l pl m) s = .next (s.mbxReply h 0x0033 stReserved [])) ∧
        (m.toNat < 2 ^ 20 → l.toNat < 64 → pl.toNat < 64 →
          (s.linkInSlot k d = false ∨ s.censusOf d x.partner = 3 ∨ own →
            exec (.linkDeclare h d l pl m) s = .next (s.mbxReply h 0x0033 stRoster [])) ∧
          (s.linkInSlot k d = true → s.censusOf d x.partner ≠ 3 → ¬ own →
            let u := s.modDom d fun v => { v with decls := Tab.set none v.decls k.toNat (some x) }
            exec (.linkDeclare h d l pl m) s = .next (((u.rosterChange d).agreeStart k).mbxReply h 0x0033 stOk []) ∧
            ((s.dom d).phase = .free → (s.link k).core.up = false →
              exec (.linkDeclare h d l pl m) s = .next (u.mbxReply h 0x0033 stOk []))))) ∧
      (∀ (l port : LinkId) (node : BitVec 32) (n : Nat), s.mbxReady h n →
        let m : Member := node.setWidth 20
        let listed := recCompat (s.dom d).record = 1 ∧ (hallOf m).toNat < recHallCount (s.dom d).record ∧ s.censusOf d m ≠ 3
        let r := s.declareDo d l { partner := m, link := port }
        (¬ listed → exec (.z2TableRow h d l node port) s =
          .next (s.mbxReply h 0x0039 stOk [State.z2State (s.link l).core.phase, 0, 0, 0])) ∧
        (listed → r.2 = stOk → exec (.z2TableRow h d l node port) s =
          .next (r.1.mbxReply h 0x0039 stOk [State.z2State (r.1.link l).core.phase, 0, 0, 0])) ∧
        (listed → s.linkInSlot l d = false → exec (.z2TableRow h d l node port) s = .next (s.mbxReply h 0x0039 stRoster []))) ∧
      (∀ x : Byte, s.mbxReady h 4 →
        let mine := s.inDomain d = true ∧ s.managesHall d (x.setWidth 3) = true
        (8 ≤ x.toNat ∨ ¬ mine → exec (.censusGet h d x) s = .next (s.mbxReply h 0x0035 stNoTarget [])) ∧
        (x.toNat < 8 → mine → s.aliasUsable = false →
          exec (.censusGet h d x) s = .next (s.mbxReply h 0x0035 stKeyOrphan [])) ∧
        (x.toNat < 8 → mine → s.aliasUsable = true →
          let u := s.modDom d fun k => { k with mgr := { k.mgr with censusSeq := k.mgr.censusSeq + 1 } }
          let c := u.censusBytes d (x.setWidth 3)
          exec (.censusGet h d x) s = .next ((u.modDom d fun k => { k with mgr := { k.mgr with
            latest := Tab.set [] k.mgr.latest (x.setWidth 3).toNat c } }).mbxReply h 0x0035 stOk c))) ∧
      (s.mbxReady h 4 → ((s.dom d).mgr.count = none ∨ s.isCounter d = false →
          exec (.countStateGet h d) s = .next (s.mbxReply h 0x0036 stNoTarget [])) ∧
        (∀ c, (s.dom d).mgr.count = some c → s.isCounter d = true →
          (s.aliasUsable = false → exec (.countStateGet h d) s = .next (s.mbxReply h 0x0036 stKeyOrphan [])) ∧
          (s.aliasUsable = true → exec (.countStateGet h d) s = .next (s.mbxReply h 0x0036 stOk
            (s.countState d c ++ leBytes 2 s.boot.certPair.length ++ s.boot.certPair ++ (s.dom d).token))))) ∧
      (∀ b : Bytes, s.mbxReady h 4772 →
        let form := leAt b 0 4 = 0x5656584B ∧ leAt b 4 2 = 1 ∧ zeroAt b 6 2 = true ∧ zeroAt b 32 4 = true
        let ends (u : State) (st : Status) : Prop := exec (.verifierVote h b) s = .next (u.mbxReply h 0x0037 st []).settleAll
        (¬ form → ends s stDomainRecord) ∧
        (form → s.slotOfDomain (slice b 8 16) = none → ends s stNoTarget) ∧
        (form → s.slotOfDomain (slice b 8 16) = some d →
          let good := leAt b 28 4 = (s.dom d).member.toNat ∧
            State.sigOk (recVerifierKeys (s.dom d).record) "KX3-VOTE" (b.take 36) (b.drop 36) = true
          let n := recHallCount (s.dom d).record
          (¬ good → ends s stDomainRecord) ∧ (good → (s.dom d).mgr.count = none → ends s stIteration) ∧
          (∀ c, good → (s.dom d).mgr.count = some c →
            (leAt b 24 4 ≠ c.round.toNat → ends s stIteration) ∧
            (leAt b 24 4 = c.round.toNat → quorumOf n ≤ State.votesHeld c.halls true n →
              ends (s.countEnd d { c with verifier := true }) stOk) ∧
            (leAt b 24 4 = c.round.toNat → State.votesHeld c.halls true n < quorumOf n → ∃ u : State, ends u stOk ∧
              (u.dom d).verifier = true ∧ (u.dom d).votes = BitVec.ofNat 4 (State.votesHeld c.halls true n) ∧
              (u.dom d).phase = (s.dom d).phase)))) ∧
      (∀ b : Bytes, s.mbxReady h 4768 →
        let form := leAt b 0 4 = 0x4145584B ∧ leAt b 4 2 = 1 ∧ zeroAt b 6 2 = true ∧ zeroAt b 28 4 = true
        let ends (u : State) (st : Status) : Prop := exec (.epochAdvance h b) s = .next (u.mbxReply h 0x0038 st []).settleAll
        (¬ form → ends s stDomainRecord) ∧
        (form → s.slotOfDomain (slice b 8 16) = none → ends s stNoTarget) ∧
        (form → s.slotOfDomain (slice b 8 16) = some d →
          let good := State.sigOk (recVerifierKeys (s.dom d).record) "KX3-EPOCH" (b.take 32) (b.drop 32)
          let k := s.dom d
          (good = false → ends s stDomainRecord) ∧ (good = true → k.phase = .fragment → ends s stFragment) ∧
          (good = true → k.phase ≠ .fragment → (k.activeSm = false → ends s stNoManager) ∧
            (k.activeSm = true → leAt b 24 4 ≠ k.epoch.toNat → ends s stIteration) ∧
            (k.activeSm = true → leAt b 24 4 = k.epoch.toNat → k.epoch = 0xFFFFFFFF → ends s stEpochLimit) ∧
            (k.activeSm = true → leAt b 24 4 = k.epoch.toNat → k.epoch ≠ 0xFFFFFFFF →
              s.keyUsable (State.rowDrs d) = false ∨ s.aliasUsable = false → ends s stKeyOrphan) ∧
            (k.activeSm = true → leAt b 24 4 = k.epoch.toNat → k.epoch ≠ 0xFFFFFFFF → s.keyUsable (State.rowDrs d) = true →
              s.aliasUsable = true → ends (s.advance d) stOk))))) ∧
    (∀ e : BitVec 32, s.inDomain d = false ∨ e ≤ (s.dom d).epoch → exec (.epochNotice d e) s = .next s.settleAll) ∧
    (∀ e : BitVec 32, s.inDomain d = true → (s.dom d).epoch < e → ∃ u : State, exec (.epochNotice d e) s = .next u.settleAll ∧
      (u.dom d).phase = .joining ∧ (u.dom d).epoch = e ∧ (u.dom d).token = [] ∧ (u.dom d).keyList = [] ∧
      (u.dom d).activeSm = false ∧ (u.dom d).activeHm = false ∧ (u.dom d).rejoinEnds = none ∧ (u.dom d).time.synced = false ∧
      (u.dom d).event.getLsbD domEpoch = true)

/-- The Parse (R371 to R377, R379, R360). A first invite that fits a ticket is answered by a request with five fresh values
(free, log entry 11). A grant that fails its checks changes nothing; one whose two keys unwrap gives the slot its record, epoch,
key list and token; one whose keys do not leaves their rows invalid and ends the join with ST_KEY_UNWRAP. A request of a
pool-role candidate ends the domain at its active System Manager; a request is relayed by a member that does not lead the
hall, waits where 8 joins are carried, and else is checked and granted or refused. JOIN_DONE makes a granted member REACHED,
its timeout UNREACHED, DEPART OUT; a hand-down goes to its row, or leaves it invalid. -/
def Obligations.TheParse : Prop :=
  ∀ (s : State) (d : Slot),
    (∀ (l : LinkId) (m : JoinInvite), (s.agrReady l = none ∨ (∃ x, s.agrReady l = some (d, x) ∧ ((s.dom d).ticket = none ∨
        s.inviteTaken d x m = false)) → exec (.joinInvite l m) s = .next s) ∧
      (∀ x me p, s.agrReady l = some (d, x) → (s.dom d).ticket = some (me, p) → s.inviteTaken d x m = true →
        ∃ u : State, exec (.joinInvite l m) s = .next ((u.openDomain l d x 0x41
            ((u.dom d).join.map (·.request) |>.getD [])).progress engTrust) ∧
          u.freeCtr = s.freeCtr + 5 ∧ (u.dom d).phase = .joining ∧ (u.dom d).member = me ∧
          (u.dom d).domainId = fitTo 16 m.domainId ∧ ∃ j, (u.dom d).join = some j ∧ j.link = l ∧ j.manager = m.manager ∧
          j.hall = hallOf me ∧ j.drDigest = m.drDigest ∧ j.granted = false ∧
          j.nonce = leBytes 32 (Config.entropy s.freeCtr).toNat)) ∧
    (∀ (l : LinkId) (m : JoinRequest),
      let me : Member := m.member.setWidth 20
      let k := s.dom d
      let ends (u : State) : Prop := exec (.joinRequest d l m) s = .next u.settleAll
      let refused (r : Byte) : State := (s.censusPut d me 3).joinAnswer d l me 0x43 [r]
      (s.inDomain d = false → ends s) ∧
      (s.inDomain d = true → k.activeSm = true → s.poolCandidate d m = true → ∃ u : State, ends u ∧ (u.dom d).phase = .free ∧
        u.outs.head? = some (.report d stDomainRecord) ∧ s.outs <:+ u.outs) ∧
      (s.inDomain d = true → k.activeSm = false ∨ s.poolCandidate d m = false →
        (s.leadsHall d (hallOf me) = false → ends (s.tc0Send d 0x41 (s.managerFor d (hallOf me)) 0 0 m.raw)) ∧
        (s.leadsHall d (hallOf me) = true → 8 ≤ k.mgr.grants.length →
          ends (s.modDom d fun k => { k with mgr := { k.mgr with joinQueue := k.mgr.joinQueue ++ [(l, m)] } })) ∧
        (s.leadsHall d (hallOf me) = true → k.mgr.grants.length < 8 →
          (m.lengthsOk = false → s.joinCheck d m = some 0x01) ∧
          (∀ r, s.joinCheck d m = some r → m.member.toNat < 2 ^ 20 →
            (s.poolCandidate d m = false → ends (refused r)) ∧
            (s.poolCandidate d m = true → ends ((refused r).tc0Send d 0x41 k.sysManager 0 0 m.raw))) ∧
          (s.joinCheck d m = none → ends (s.grantSend d l m)) ∧
          (∀ a b, s.joinCheck d m = none → s.memberSecret d me (sha384 m.idKeys) = some a → s.dcsKey d = some b →
            s.aliasUsable = true → s.idUsable = true → ∃ u : State, ends u ∧
            ∃ g ∈ (u.dom d).mgr.grants, g.member = me ∧ g.link = l ∧ g.time = s.now)))) ∧
    (∀ m : JoinGrant,
      let ends (u : State) : Prop := exec (.joinGrant d m) s = .next u.settleAll
      ((s.dom d).join = none ∨ s.running = false ∨ (∃ j, (s.dom d).join = some j ∧ (j.granted = true ∨
        s.grantOk j m = false)) → ends s) ∧
      (∀ j : JoinPend, (s.dom d).join = some j → s.running = true → j.granted = false → s.grantOk j m = true →
        let k := s.dom d
        let th := sha384 j.request
        let tkA := State.transportKey (Config.kemDecaps j.kemA m.ctA) (Config.ecdhShared j.ecdhA m.yA) th m.manager k.member 3
        let tkB := State.transportKey (Config.kemDecaps j.kemB m.ctB) (Config.ecdhShared j.ecdhB m.yB) th m.manager k.member 2
        let a := State.unwrapKey tkA (s.handAad d 3 k.member s.idDigest m.epoch) m.wrappedMember
        let b := State.unwrapKey tkB (s.handAad d 2 k.member [] m.epoch) m.wrappedDcs
        (∀ x y, a = some x → b = some y → ∃ u : State, ends u ∧ (u.dom d).record = m.record ∧ (u.dom d).epoch = m.epoch ∧
          (u.dom d).keyList = m.keyList ∧ (u.dom d).token = m.token ∧ (u.dom d).hallManager = m.manager) ∧
        (a = none ∨ b = none → ends ((((s.unwrapFail (State.rowMember d) a).unwrapFail (State.rowDcs d) b).abandonJoin d).out
          (.report d stKeyUnwrap))) ∧
        (m.wrappedMember.length ≠ 48 → a = none))) ∧
    (∀ r : Byte,
      (∀ j, (s.dom d).join = some j → s.running = true → j.granted = false →
        exec (.joinRefuse d r) s = .next (s.abandonJoin d).settleAll ∧ ((s.abandonJoin d).dom d).join = none) ∧
      (s.running = false ∨ (s.dom d).join = none → exec (.joinRefuse d r) s = .next s.settleAll)) ∧
    (∀ m : Member,
      let cand (u : State) : Prop := u.isSysCand d m = true ∨ u.isHallCand d (hallOf m) m = true
      (s.inDomain d = false ∨ (∀ g ∈ (s.dom d).mgr.grants, g.member ≠ m) → exec (.joinDone d m) s = .next s ∧
        exec (.joinDoneTimeout d m) s = .next s) ∧
      (∀ g, s.inDomain d = true → (s.dom d).mgr.grants = [g] → g.member = m → (s.dom d).mgr.joinQueue = [] →
        let u := (s.modDom d fun k => { k with mgr := { k.mgr with
          grants := [], departed := k.mgr.departed.filter fun x => x != m } }).censusPut d m 1
        let v := s.modDom d fun k => { k with mgr := { k.mgr with grants := [] } }
        (¬ cand u → exec (.joinDone d m) s =
          .next (if u.sweepEnded d (hallOf m) then (u.censusIssue d (hallOf m)).domEvent d domCensusDone else u)) ∧
        (cand u → ∃ t, exec (.joinDone d m) s = .next t ∧ t.censusOf d m = 1 ∧ (m, g.digest) ∈ (t.dom d).keyList) ∧
        exec (.joinDoneTimeout d m) s =
          .next (((v.censusPut d m 2).censusIssue d (hallOf m)).resumeSend d (hallOf m) [2])) ∧
      (s.inDomain d = false ∨ s.leadsHall d (hallOf m) = false → exec (.depart d m) s = .next s) ∧
      (s.inDomain d = true → s.leadsHall d (hallOf m) = true →
        let u := s.censusPut d m 3
        (¬ cand u → exec (.depart d m) s = .next u) ∧
        (cand u → exec (.depart d m) s = .next ((((u.modDom d fun k => { k with
          keyList := k.keyList.filter fun e => e.1 != m
          mgr := { k.mgr with departed := (k.mgr.departed.filter fun x => x != m) ++ [m]
                              contacts := Tab.set 0 k.mgr.contacts m.toNat 0 } }).keysFlood d).electHall d).electSys d))) ∧
      (s.peersFor d (hallOf m) = [] → ∀ st, (s.censusPut d m st).censusOf d m = st)) ∧
    ((s.running = false ∨ (s.dom d).phase ≠ .member → exec (.parseResume d) s = .next s) ∧
      (s.running = true → (s.dom d).phase = .member → exec (.parseResume d) s = .next (s.inviteAll d))) ∧
    (∀ m : Handdown, let k := s.dom d
      let sent := s.isSysCand d m.sender = true ∨ s.isHallCand d (hallOf m.sender) m.sender = true
      let mine := (m.kind = 0 → k.sysCand = true) ∧ (m.kind = 1 → k.hallCand = true)
      let held := k.phase = .member ∨ k.phase = .fragment ∨ k.phase = .joining
      let sec := Config.handSecret m.transfer.toNat
      let tk := State.transportKey (Config.kemDecaps (sec 0) m.ct) (Config.ecdhShared (sec 1) m.y) m.th m.sender k.member m.kind
      let key (e : BitVec 32) : Option Bytes := State.unwrapKey tk (s.handAad d m.kind k.member s.idDigest e) m.wrapped
      let ends (u : State) : Prop := exec (.handdown d m) s = .next u.settleAll
      (s.running = false ∨ ¬ sent ∨ ¬ mine ∨ ¬ held → ends s) ∧
      (s.running = true → sent → mine → held →
        (∀ x, key k.epoch = some x → ends (s.handTake d m.kind x k.epoch)) ∧
        (∀ x, key k.epoch = none → key (k.epoch + 1) = some x → ends (s.handTake d m.kind x (k.epoch + 1))) ∧
        (key k.epoch = none → key (k.epoch + 1) = none →
          ends ((s.invalidateKey (State.handRow d m.kind)).out (.report d stKeyUnwrap))) ∧
        (m.wrapped.length ≠ 48 → ∀ e, key e = none) ∧
        (∀ x e, m.kind ≠ 3 → (s.row (State.handRow d m.kind)).outOfUse = false →
          let r := (s.handTake d m.kind x e).row (State.handRow d m.kind)
          r.valid = true ∧ r.material = State.key256 x)))

/-! ### Managers -/

/-- Pulses and takeover (R27, R363 to R368, R370). MGR_PULSE_TIMER sends a pulse to every other candidate of the functions this
instance holds; a pulse is contact, after which it may yield or take over; contact lost is forgotten and followed by
takeover, and by a count where it was another hall's manager or the System Manager. MGR_TAKEOVER from a candidate is adopted
unless this instance is healthy to lead, holds the secret and is the lowest. HALL_PULSE, and the timer at a manager, set the
time of the last pulse; its loss makes a member that does not manage its hall a Fragment with no votes. Outside a domain all
of these are nothing. -/
def Obligations.ManagerPulses : Prop :=
  ∀ (s : State) (d : Slot) (m : Member),
    (s.inDomain d = false → exec (.mgrPulseTimer d) s = .next s ∧ exec (.mgrPulse d m) s = .next s ∧
      exec (.mgrContactLoss d m) s = .next s.settleAll ∧
      (∀ b, ∃ t, exec (.mgrTakeover d m b) s = .next t ∧ t = { s with doms := t.doms }) ∧
      (∀ ks, exec (.mgrKeys d ks) s = .next s) ∧ exec (.hallPulseTimer d) s = .next s ∧ exec (.hallPulse d) s = .next s) ∧
    (s.inDomain d = true →
      let me := (s.dom d).member
      (s.pulsePeers d = [] → exec (.mgrPulseTimer d) s = .next s) ∧
      (∀ p, s.pulsePeers d = [p] →
        exec (.mgrPulseTimer d) s = .next (s.tc0Send d 0x48 p 0 0 (leBytes 4 me.toNat ++ zeros 4))) ∧
      exec (.mgrPulse d m) s = .next ((((s.noteContact d m).yieldTo d m).electHall d).electSys d) ∧
      ((s.dom d).activeHm = false → (s.dom d).activeSm = false → (s.dom d).hallCand = false → (s.dom d).sysCand = false →
        exec (.mgrPulse d m) s = .next (s.noteContact d m) ∧
        (s.isSysCand d m = true → ((s.noteContact d m).dom d).mgr.contacts = Tab.set 0 (s.dom d).mgr.contacts m.toNat s.now) ∧
        (hallOf m = hallOf me → m ≠ (s.dom d).sysManager → ∃ u : State, exec (.mgrContactLoss d m) s = .next u.settleAll ∧
          u = { s with doms := u.doms } ∧ (u.dom d).mgr.contacts = Tab.set 0 (s.dom d).mgr.contacts m.toNat 0)) ∧
      (let u := s.modDom d fun k => { k with mgr := { k.mgr with contacts := Tab.set 0 k.mgr.contacts m.toNat 0 } }
       let v := ((u.standDown d).electHall d).electSys d
       exec (.mgrContactLoss d m) s = .next (if hallOf m ≠ hallOf me ∨ m = (s.dom d).sysManager
         then v.countTrigger d else v.counterKeep d).settleAll) ∧
      (s.isSysCand d m = true → (s.mayLead d = false ∨ s.holdsDrs d = false ∨ m < me →
          ∃ t, exec (.mgrTakeover d m true) s = .next t ∧ t = { s with doms := t.doms } ∧ (t.dom d).activeSm = false ∧
            (t.dom d).sysManager = m ∧ ((s.dom d).activeSm = true → (t.dom d).event.getLsbD domTakeover = true))) ∧
      (s.isSysCand d m = true → s.mayLead d = true → s.holdsDrs d = true → me < m → (∀ c ∈ s.sysCandsOf d, me ≤ c) →
          ∃ t, exec (.mgrTakeover d m true) s = .next t ∧ t = { s with doms := t.doms } ∧ (t.dom d).activeSm = true ∧
            (t.dom d).sysManager = me ∧ (t.dom d).event.getLsbD domTakeover = true) ∧
      (s.isHallCand d (hallOf me) m = true → s.mayLead d = false ∨ s.holdsHall d = false ∨ m < me →
          ∃ t, exec (.mgrTakeover d m false) s = .next t ∧ t = { s with doms := t.doms } ∧ (t.dom d).activeHm = false ∧
            (t.dom d).hallManager = m) ∧
      (s.isHallCand d (hallOf me) m = true → s.mayLead d = true → s.holdsHall d = true → me < m →
        (∀ c ∈ s.hallCandsOf d, me ≤ c) →
          ∃ t, exec (.mgrTakeover d m false) s = .next t ∧ t = { s with doms := t.doms } ∧ (t.dom d).activeHm = true ∧
            (t.dom d).hallManager = me ∧ (t.dom d).event.getLsbD domTakeover = true) ∧
      (∀ b, s.isSysCand d m = false → s.isHallCand d (hallOf m) m = false → s.isHallCand d (hallOf me) m = false →
        exec (.mgrTakeover d m b) s = .next s) ∧
      (∀ ks, exec (.mgrKeys d ks) s = .next (s.modDom d fun k => { k with keyList := ks })) ∧
      exec (.hallPulse d) s = .next (s.modDom d fun k => { k with hallPulseAt := s.now }) ∧
      (recHallCount (s.dom d).record = 0 → s.managesHall d (hallOf me) = true →
        exec (.hallPulseTimer d) s = .next (s.modDom d fun k => { k with hallPulseAt := s.now })) ∧
      (recHallCount (s.dom d).record = 1 → s.managesHall d 0 = false → s.managesHall d (hallOf me) = false →
        exec (.hallPulseTimer d) s = .next s) ∧
      (recHallCount (s.dom d).record = 1 → s.managesHall d 0 = true →
        let u := s.tc0Send d 0x4C 0 1 0 (leBytes 4 me.toNat ++ leBytes 4 (s.dom d).round.toNat)
        (s.managesHall d (hallOf me) = true →
          exec (.hallPulseTimer d) s = .next (u.modDom d fun k => { k with hallPulseAt := s.now })) ∧
        (s.managesHall d (hallOf me) = false → exec (.hallPulseTimer d) s = .next u))) ∧
    (s.running = false ∨ (s.dom d).phase ≠ .member ∨ s.managesHall d (hallOf (s.dom d).member) = true →
      exec (.hallPulseLoss d) s = .next s.settleAll) ∧
    (s.running = true → (s.dom d).phase = .member → s.managesHall d (hallOf (s.dom d).member) = false →
      let u := (s.modDom d fun k => { k with votes := 0, halls := 0, verifier := false }).becomeFragment d
      exec (.hallPulseLoss d) s = .next u.settleAll ∧
      (s.red.progs = [] → s.mem.fence = [] → s.mem.waits = [] → (u.dom d).phase = .fragment ∧
        (u.dom d).votes = 0 ∧ (u.dom d).halls = 0 ∧ (u.dom d).verifier = false ∧ (u.dom d).activeSm = false ∧
        (u.dom d).rejoinEnds = some (s.now + BitVec.ofNat 64 (recRejoinMs (s.dom d).record * 1000000)) ∧
        (u.dom d).event.getLsbD domFragment = true))

/-- The Roster and the census at the managers (R365, R380). ROSTER_UPDATE at the hall's manager takes a row at least as new as
the one it has and acknowledges it, at once where no other candidate is in contact; else it sends the change to those
candidates and waits for their confirmations. An older one is only acknowledged.
ROSTER_ACK of the row's version ends its sending, and until then ROSTER_RESEND sends it again. HALL_SUMMARY goes from a Hall
Manager to another member's System Manager. CENSUS_SYNC is applied and confirmed by a candidate; the confirmation of the last
candidate awaited for a row acknowledges it. -/
def Obligations.RosterAndCensus : Prop :=
  ∀ (s : State) (d : Slot) (m : Member),
    (s.inDomain d = false → (∀ v ls, exec (.rosterUpdate d m v ls) s = .next s) ∧ (∀ v, exec (.rosterAck d v) s = .next s) ∧
      exec (.rosterResend d) s = .next s ∧ exec (.hallSummary d) s = .next s ∧ ∀ y c, exec (.censusSync d y c) s = .next s) ∧
    (s.inDomain d = true →
      (∀ v ls, s.leadsHall d (hallOf m) = false → exec (.rosterUpdate d m v ls) s = .next s) ∧
      (∀ v ls, s.leadsHall d (hallOf m) = true → let u := s.noteContact d m
        let old := Tab.get 0 (u.dom d).mgr.rosterVersions m.toNat
        let ack (x : State) := x.tc0Send d 0x51 m 0 0 (leBytes 4 v.toNat ++ zeros 4)
        (v < old → exec (.rosterUpdate d m v ls) s = .next (ack u)) ∧
        (∀ e, old ≤ v → ls.links = [e] →
          let p (x : State) := x.modDom d fun k => { k with mgr := { k.mgr with
            rosterRows := Tab.set (0, 0, 0) k.mgr.rosterRows (m.toNat * 64 + e.1.toNat) e.2
            rosterVds := Tab.set 0 k.mgr.rosterVds m.toNat ls.vds
            rosterVersions := Tab.set 0 k.mgr.rosterVersions m.toNat v } }
          (u.peersFor d (hallOf m) = [] → exec (.rosterUpdate d m v ls) s = .next (ack (p u))) ∧
          (u.peersFor d (hallOf m) ≠ [] → ∃ t, exec (.rosterUpdate d m v ls) s = .next t ∧
            t = { s with links := t.links, doms := t.doms } ∧ (t.dom d).mgr.rosterRows = ((p u).dom d).mgr.rosterRows ∧
            (t.dom d).mgr.rosterVersions = ((p u).dom d).mgr.rosterVersions ∧
            { member := m, version := v, waits := u.peersFor d (hallOf m) } ∈ (t.dom d).mgr.acks))) ∧
      (∀ v, (s.dom d).rosterVersion = v →
        exec (.rosterAck d v) s = .next (s.modDom d fun k => { k with rosterPending := false })) ∧
      (∀ v, (s.dom d).rosterVersion ≠ v → exec (.rosterAck d v) s = .next s) ∧
      ((s.dom d).rosterPending = true → exec (.rosterResend d) s = .next (s.rosterSend d)) ∧
      ((s.dom d).rosterPending = false → exec (.rosterResend d) s = .next s) ∧
      (s.leadsOwn d = false ∨ (s.dom d).sysManager = (s.dom d).member → exec (.hallSummary d) s = .next s) ∧
      (s.leadsOwn d = true → (s.dom d).sysManager ≠ (s.dom d).member →
        let h := hallOf (s.dom d).member
        exec (.hallSummary d) s = .next (s.tc0Send d 0x50 (s.dom d).sysManager 0 0 ([h.setWidth 8, 0, 0, 0] ++
          leBytes 4 (s.censusCount d h 0) ++ leBytes 4 (s.censusCount d h 1) ++ leBytes 4 (s.censusCount d h 2) ++
          leBytes 4 (s.censusCount d h 3) ++
          leBytes 4 (((s.dom d).mgr.rosterRows.filter fun e =>
            hallOf (BitVec.ofNat 20 (e.1 / 64)) == h && hallOf e.2.1 != h).length)))) ∧
      (∀ (y : SyncMsg) c, y.confirm = false →
        ((s.dom d).hallCand = false → (s.dom d).sysCand = false → exec (.censusSync d y c) s = .next s) ∧
        ((s.dom d).hallCand = true ∨ (s.dom d).sysCand = true → ∃ t, exec (.censusSync d y c) s = .next t ∧
          t = { s with links := t.links, doms := t.doms } ∧
          (y.roster = none → t.censusOf d y.member = c ∧
            ∀ q : Member, q ≠ y.member → t.censusOf d q = s.censusOf d q))) ∧
      (∀ (y : SyncMsg) c, y.confirm = true → ∃ t, exec (.censusSync d y c) s = .next t ∧
        t = { s with links := t.links, doms := t.doms } ∧
        (y.roster = none → t = s.noteContact d y.sender) ∧
        (∀ v row, y.roster = some (v, row) → s.inDomain d = true →
          (s.dom d).mgr.acks = [{ member := y.member, version := v, waits := [y.sender] }] →
          t = ((s.noteContact d y.sender).modDom d fun k => { k with mgr := { k.mgr with acks := [] } }).tc0Send d 0x51 y.member 0 0
            (leBytes 4 v.toNat ++ zeros 4))))

/-- Counts, rejoin and route tables (R386 to R391, R402). At the counter COUNT_OPEN opens a count one round on; claims of the
open round are added and close it once every hall has claimed, or once a Fragment's holds the quorum; its bound closes it with
what it holds. A result that holds the quorum leaves a Fragment a member again, one that does not makes a member a Fragment,
and one of an earlier round is stale. A rejoin message is relayed, refused or opens a count over both parts; the window's end
frees the slot. -/
def Obligations.CountsAndRejoin : Prop :=
  ∀ (s : State) (d : Slot),
    (s.isCounter d = false → exec (.countOpen d) s = .next s.settleAll) ∧
    (s.isCounter d = true →
      let start := s.countStart d ((s.dom d).round + 1) 0 0 false
      (∀ c, (s.dom d).mgr.count = some c → c.waiting = false → exec (.countOpen d) s = .next s.settleAll) ∧
      (∀ c, (s.dom d).mgr.count = some c → c.waiting = true → exec (.countOpen d) s = .next start.settleAll) ∧
      ((s.dom d).mgr.count = none → exec (.countOpen d) s = .next start.settleAll) ∧
      (s.ownClaim d = none → 1 ≤ recHallCount (s.dom d).record →
        start = s.modDom d fun k => { k with mgr := { k.mgr with count := some {
          round := (s.dom d).round + 1, halls := 0, members := 0, verifier := false, waiting := false } } })) ∧
    (∀ (h : BitVec 3) (r n : BitVec 32),
      let halls := recHallCount (s.dom d).record
      ((s.dom d).mgr.count = none → exec (.voteClaim d h r n) s = .next s.settleAll ∧
        exec (.countClose d) s = .next s.settleAll) ∧
      (∀ c, (s.dom d).mgr.count = some c → s.inDomain d = false ∨ c.round ≠ r ∨ halls ≤ h.toNat →
        exec (.voteClaim d h r n) s = .next s.settleAll) ∧
      (∀ c, (s.dom d).mgr.count = some c → s.inDomain d = true → c.round = r → h.toNat < halls →
        let c' : CountRun := if c.halls.getLsbD h.toNat then c
          else { c with halls := setBitTo c.halls h.toNat true, members := c.members + n.toNat }
        let full : Prop := if c.waiting = true then quorumOf halls ≤ State.votesHeld c'.halls c'.verifier halls
          else halls ≤ popcount c'.halls
        (¬ full → exec (.voteClaim d h r n) s =
          .next (s.modDom d fun k => { k with mgr := { k.mgr with count := some c' } }).settleAll) ∧
        (full → exec (.voteClaim d h r n) s = .next (s.countEnd d c').settleAll)) ∧
      (∀ c, (s.dom d).mgr.count = some c → s.inDomain d = false ∨ c.waiting = true →
        exec (.countClose d) s = .next s.settleAll) ∧
      (∀ c, (s.dom d).mgr.count = some c → s.inDomain d = true → c.waiting = false →
        exec (.countClose d) s = .next (s.countEnd d c).settleAll)) ∧
    (∀ r : CountResult, let n := recHallCount (s.dom d).record
      let v := State.votesHeld r.halls r.verifier n
      let u := s.applyResult d r
      (s.inDomain d = false ∨ r.round < (s.dom d).round → exec (.countResult d r) s = .next s.settleAll) ∧
      (s.inDomain d = true → (s.dom d).round ≤ r.round → exec (.countResult d r) s = .next u.settleAll ∧
        (quorumOf n ≤ v → (s.dom d).decls = [] → (u.dom d).phase = .member ∧
          (u.dom d).round = r.round ∧ (u.dom d).halls = r.halls ∧ (u.dom d).votes = BitVec.ofNat 4 v ∧
          (u.dom d).hallPulseAt = s.now ∧ ((s.dom d).phase = .fragment → (u.dom d).rejoinEnds = none ∧
            (u.dom d).event.getLsbD domRejoined = true)) ∧
        (v < quorumOf n → (s.dom d).phase = .member → s.red.progs = [] → s.mem.fence = [] → s.mem.waits = [] →
          (u.dom d).phase = .fragment ∧ (u.dom d).round = r.round ∧ (u.dom d).votes = BitVec.ofNat 4 v ∧
          (u.dom d).rejoinEnds = some (s.now + BitVec.ofNat 64 (recRejoinMs (s.dom d).record * 1000000))) ∧
        (v < quorumOf n → (s.dom d).phase = .fragment →
          u = { s with doms := u.doms } ∧ (u.dom d).phase = .fragment ∧ (u.dom d).round = r.round ∧
          (u.dom d).votes = BitVec.ofNat 4 v ∧ (u.dom d).rejoinEnds = (s.dom d).rejoinEnds))) ∧
    (∀ m : RejoinMsg,
      let req (u : State) : Prop := exec (.rejoinReq d m) s = .next u.settleAll
      let grant (u : State) : Prop := exec (.rejoinGrant d m) s = .next u.settleAll
      (s.inDomain d = false → req s ∧ grant s) ∧
      (s.inDomain d = true → s.isCounter d = false → grant s ∧
        (s.isFragment d = true ∧ State.tokMember m.token = (s.counterOf d).toNat →
          req (s.rejoinRelay d (m.body ++ m.sig))) ∧
        (¬ (s.isFragment d = true ∧ State.tokMember m.token = (s.counterOf d).toNat) →
          req (s.tc0Send d 0x5B (s.counterOf d) 0 0 (m.body ++ m.sig)))) ∧
      (s.isCounter d = true →
        (s.rejoinOk d m = false → req s ∧ grant s) ∧
        (s.rejoinOk d m = true →
          req ((s.tc0Send d 0x5C (BitVec.ofNat 20 (State.tokMember m.token)) 0 0 (s.rejoinBody d)).unionCount d m) ∧
          (s.isFragment d = true → grant (s.unionCount d m)) ∧ (s.isFragment d = false → grant s)))) ∧
    (s.running = true → s.isFragment d = true → ∃ u : State, exec (.rejoinWindowExpiry d) s = .next u.settleAll ∧
      (u.dom d).phase = .free ∧ (u.dom d).event.getLsbD domErased = true) ∧
    (s.running = false ∨ s.isFragment d = false → exec (.rejoinWindowExpiry d) s = .next s.settleAll) ∧
    (∀ es, s.running = false ∨ (s.dom d).phase = .free → exec (.routeTableLoad d es) s = .next s) ∧
    (∀ (i : BitVec 9) (p a : Option LinkId), s.running = true → (s.dom d).phase ≠ .free →
      let r : RouteEntry := { primary := p, alternate := a }
      (i.toNat < 8 → exec (.routeTableLoad d [(0, i, p, a)]) s =
        .next (s.modDom d fun k => { k with hallRt := Tab.set {} k.hallRt i.toNat r })) ∧
      (8 ≤ i.toNat → exec (.routeTableLoad d [(0, i, p, a)]) s = .next (s.modDom d id)) ∧
      (i.toNat < 256 → exec (.routeTableLoad d [(1, i, p, a)]) s =
        .next (s.modDom d fun k => { k with groupRt := Tab.set {} k.groupRt i.toNat r })) ∧
      exec (.routeTableLoad d [(2, i, p, a)]) s =
        .next (s.modDom d fun k => { k with memberRt := Tab.set {} k.memberRt i.toNat r }))

/-! ### HALT, Domain Time, island time -/

/-- HALT and its gates (R409 to R413, Table 13-4). A HALT that R409 admits closes the gate of its classes on each link it names,
and on no other; one it does not admit is counted. HALT_RELEASE opens the named classes of its sender's gates of the same
scope, or of any where its sender is a candidate; the end of a duration opens its class in every gate that has an end. -/
def Obligations.HaltGates : Prop :=
  ∀ (s : State) (l : LinkId) (r : Route) (m : HaltMsg),
    let d := (s.link l).core.slot
    let live : Prop := s.linkLive l = true ∧ (s.link l).core.phase = .agreed
    let counted := s.modLink l fun k => { k with tc0 := { k.tc0 with haltRefused := satInc k.tc0.haltRefused } }
    (¬ live → exec (.halt l r m) s = .next s ∧ exec (.haltRelease l r m) s = .next s) ∧
    (live → s.haltOk d r m = false → exec (.halt l r m) s = .next counted) ∧
    (live → s.haltOk d r m = true → ∃ t, exec (.halt l r m) s = .next t ∧ t = { s with links := t.links } ∧
      (∀ x : LinkId, x ∈ s.haltLinks d m.scope r.src → t.link x = { s.link x with tc0 := { (s.link x).tc0 with
        gates := (s.link x).tc0.gates ++ [{ classes := m.classes.setWidth 4, src := r.src, all := m.scope == 1
                                            ends := if m.duration = 0 then none else some (s.now + m.duration.setWidth 64 * 1000) }]
        gateReason := m.reason, gateSrc := r.src } }) ∧
      ∀ x : LinkId, x ∉ s.haltLinks d m.scope r.src → t.link x = s.link x) ∧
    (live → State.haltForm r m = false ∨ m.duration ≠ 0 → exec (.haltRelease l r m) s = .next counted) ∧
    (live → State.haltForm r m = true → m.duration = 0 → ∃ t, exec (.haltRelease l r m) s = .next t ∧
      t = { s with links := t.links } ∧
      (∀ x : LinkId, x ∈ s.haltLinks d m.scope r.src →
        let mine (g : Gate) : Bool := s.haltCand d r.src || (g.src == r.src && g.all == (m.scope == 1))
        let left (gs : List Gate) : List Gate :=
          (gs.map fun g => if mine g then { g with classes := g.classes &&& ~~~ (m.classes.setWidth 4) } else g).filter
            fun g => g.classes != 0
        t.link x = { s.link x with tc0 := { (s.link x).tc0 with gates := left (s.link x).tc0.gates } }) ∧
      ∀ x : LinkId, x ∉ s.haltLinks d m.scope r.src → t.link x = s.link x) ∧
    (s.haltOk d r m = true → m.reservedZero = true ∧ m.classes &&& 0xF1 = 0 ∧ m.classes ≠ 0 ∧ m.scope.toNat ≤ 1 ∧
      r.scope = 0 ∧ (m.scope = 0 → m.duration ≠ 0 ∧ s.haltLinks d 0 r.src ≠ []) ∧ (m.scope ≠ 0 → s.haltCand d r.src = true)) ∧
    (∀ c : Cls,
      let left (gs : List Gate) : List Gate :=
        (gs.map fun g => if g.ends.isSome then { g with classes := g.classes &&& ~~~ (BitVec.ofNat 4 (2 ^ c.toNat)) }
          else g).filter fun g => g.classes != 0
      exec (.gateExpiry l c) s = .next (s.modLink l fun k => { k with tc0 := { k.tc0 with gates := left k.tc0.gates } }))

/-- Domain Time and block time (R414 to R418, R573, Table 13-5). A time source has stratum 0; another member chooses its parent
anew at each exchange, takes a stratum one above it and sends TIME_REQ, or asks every partner where it knows no stratum
(DESIGN CHOICE, log entry 46). The parent answers with the stamps in the slot's time; the child takes the offset of the
exchange before: the first one sets its time, one above 1 µs steps it, a smaller one is worked off. Losing the lock clears
it; the island stores block time and counts from then on. -/
def Obligations.DomainTime : Prop :=
  ∀ (s : State) (d : Slot) (l : LinkId) (m : TimeMsg),
    (∀ t1, (s.inDomain d = false → exec (.timeExchangeTimer d t1) s = .next s) ∧
      (s.inDomain d = true → s.isTimeSource d = true → exec (.timeExchangeTimer d t1) s = .next (s.setDom d { s.dom d with
        time := { (s.dom d).time with stratum := 0, parent := 0, parentLink := 0 } })) ∧
      (∀ p, s.inDomain d = true → s.isTimeSource d = false → s.timeParent d = some p → ∃ u : State,
        exec (.timeExchangeTimer d t1) s = .next (u.tc0Own p ([0x60, ((s.link p).tc0.peerStratum + 1).setWidth 8] ++
          leBytes 2 ((s.dom d).time.seq + 1).toNat ++ zeros 20)) ∧ u = { s with doms := u.doms } ∧
        (u.dom d).time.stratum = (s.link p).tc0.peerStratum + 1 ∧ (u.dom d).time.parentLink = p ∧
        (u.dom d).time.parent = (s.link p).core.pMember ∧ (u.dom d).time.t1 = t1) ∧
      (s.inDomain d = true → s.isTimeSource d = false → s.timeParent d = none → s.agreedLinks d = [l] → ∃ u : State,
        exec (.timeExchangeTimer d t1) s =
          .next (u.tc0Own l ([0x60, 15] ++ leBytes 2 ((s.dom d).time.seq + 1).toNat ++ zeros 20)) ∧
        u = { s with doms := u.doms } ∧ (u.dom d).time.stratum = 15) ∧
      (s.inDomain d = true → s.isTimeSource d = false → s.agreedLinks d = [] → ∃ t,
        exec (.timeExchangeTimer d t1) s = .next t ∧ t = { s with doms := t.doms } ∧ (t.dom d).time.stratum = 15 ∧
        (t.dom d).time.locked = (s.dom d).time.locked)) ∧
    (let e := (s.link l).core.slot
     let live : Prop := s.linkLive l = true ∧ (s.link l).core.phase = .agreed
     let k := (s.dom e).time
     let bad := s.modLink l fun k => { k with tc0 := { k.tc0 with bad := satInc k.tc0.bad } }
     (¬ live → (∀ a b, exec (.timeReq l m a b) s = .next s) ∧ ∀ a, exec (.timeResp l m a) s = .next s) ∧
     (live → m.reservedZero = false ∨ 15 < m.stratum.toNat →
       (∀ a b, exec (.timeReq l m a b) s = .next bad) ∧ ∀ a, exec (.timeResp l m a) s = .next bad) ∧
     (live → m.reservedZero = true → m.stratum.toNat ≤ 15 →
       (∀ a b, m.t2 ≠ 0 ∨ m.t3prev ≠ 0 → exec (.timeReq l m a b) s = .next bad) ∧
       (∀ a b, m.t2 = 0 → m.t3prev = 0 → exec (.timeReq l m a b) s = .next ((s.modLink l fun x => { x with tc0 := { x.tc0 with
           peerStratum := m.stratum.setWidth 4, t3last := b + 8 * k.corr } }).tc0Own l ([0x61, k.stratum.setWidth 8] ++
         leBytes 2 m.seq.toNat ++ leBytes 8 (a + 8 * k.corr).toNat ++ leBytes 8 (s.link l).tc0.t3last.toNat ++ zeros 4))) ∧
       (∀ a, s.inDomain e = false ∨ m.seq ≠ k.seq ∨ k.stratum = 15 ∨ k.stratum = 0 ∨ k.parentLink ≠ l →
         exec (.timeResp l m a) s = .next (s.modLink l fun x => { x with tc0 := { x.tc0 with
           peerStratum := m.stratum.setWidth 4 } })) ∧
       (∀ a, s.inDomain e = true → m.seq = k.seq → k.stratum ≠ 15 → k.stratum ≠ 0 → k.parentLink = l →
         let θ : Int := ((k.t2prev - (k.t1prev + 8 * k.corr)).toInt - ((k.t4prev + 8 * k.corr) - m.t3prev).toInt) / 2
         ∃ t, exec (.timeResp l m a) s = .next t ∧ (t.link l).tc0.peerStratum = m.stratum.setWidth 4 ∧
           (t.dom e).time.t2prev = m.t2 ∧ (t.dom e).time.t4prev = a ∧ (t.dom e).time.lastExchange = s.now ∧
           (m.t3prev = 0 ∨ k.t2prev = 0 → (t.dom e).time.corr = k.corr ∧ (t.dom e).time.locked = k.locked) ∧
           (m.t3prev ≠ 0 → k.t2prev ≠ 0 →
             (k.synced = false → (t.dom e).time.corr = k.corr + BitVec.ofInt 64 (θ / 8) ∧ (t.dom e).time.synced = true) ∧
             (k.synced = true → 8000 < θ → (t.dom e).time.corr = k.corr + BitVec.ofInt 64 (θ / 8) ∧
               (t.dom e).time.stepped = true) ∧
             (k.synced = true → θ ≤ 8000 → (t.dom e).time.corr = k.corr ∧ (t.dom e).time.residue = θ) ∧
             (800 < θ.natAbs → (t.dom e).time.locked = false ∧ (t.dom e).time.run = 0) ∧
             (θ.natAbs ≤ 80 → (t.dom e).time.run = Nat.min (k.run + 1) 3 ∧
               (2 ≤ k.run → (t.dom e).time.locked = true)))))) ∧
    exec (.timeLockLoss d) s = .next (s.modDom d fun k => { k with time := { k.time with locked := false, run := 0 } }) ∧
    (s.running = true → exec .blockTimeSave s = .next { s with isl := { s.isl with storedTime := s.now, elapsed := 0 } }) ∧
    (s.running = false → exec .blockTimeSave s = .next s) ∧
    exec .islandTick s = .next { s with isl := { s.isl with
      elapsed := BitVec.ofNat 48 (Nat.min (s.isl.elapsed.toNat + 30) (2 ^ 48 - 1)) } }

/-! ### Virtual devices -/

/-- The binding requests (R508 to R519, R522, Tables 17-2, 17-3). While one is in progress, or the front end does not answer, a
request is nothing. Each is checked in the table's order and its effect is all or nothing: done and the status are set and
the PF's vector is raised. A resource that another virtual device holds, or that this one does not hold, receives ST_RIGHTS;
a key index takes the slot's scope; a device with a context cannot be destroyed or change its slot; no resource passes to a
Fragment. -/
def Obligations.VirtualDevices : Prop :=
  ∀ (s : State) (v w : VdId) (o : Option Slot) (k : BitVec 2) (i : BitVec 8),
    let done (u : State) (st : Status) : Host.Outcome State Fault Refusal :=
      .next ({ u with vd := { u.vd with busy := false, done := true, status := st } } : State).msiPf.settleAll
    let r : VdReq := (vdReq0 0 v).withRes k i
    let x := s.vdev v
    let ctxs : Bool := s.liveCtxs.any fun c => (s.ctx c).vd == some v
    let range := (k = 0 → i.toNat < 32) ∧ (k = 1 → i.toNat < 64) ∧ (k = 2 → 1 ≤ i.toNat ∧ i.toNat ≤ 15)
    (s.vdOn = false → ∀ c ∈ ([.vdCreate v o, .vdDestroy v, .bind k i v, .unbind k i v, .move k i v w, .vdSlot v o] : List Instr),
      exec c s = .next s.settleAll) ∧
    (s.vdOn = true →
      (x.present = true → exec (.vdCreate v o) s = done s stCtxBusy) ∧
      (x.present = false → exec (.vdDestroy v) s = done s stNoVd ∧ exec (.vdSlot v o) s = done s stNoVd ∧
        (range → exec (.bind k i v) s = done s stNoVd ∧ exec (.unbind k i v) s = done s stNoVd ∧
          exec (.move k i v w) s = done s stNoVd) ∧
        (∀ d, o = some d → s.isFragment d = true → exec (.vdCreate v o) s = done s stFragment) ∧
        ((∀ d, o = some d → s.isFragment d = false) →
          exec (.vdCreate v o) s = done ((s.setVdev v { present := true, slot := o }).rosterOpt o) stOk)) ∧
      (¬ range → exec (.bind k i v) s = done s stLengthRange ∧ exec (.unbind k i v) s = done s stLengthRange ∧
        exec (.move k i v w) s = done s stLengthRange) ∧
      (x.present = true → ctxs = true → exec (.vdDestroy v) s = done s stCtxBusy ∧ exec (.vdSlot v o) s = done s stCtxBusy) ∧
      (x.present = true → ctxs = false →
        exec (.vdDestroy v) s = done (s.destroyVd v) stOk ∧
        (x.chans = 0 → x.links = 0 → x.keys = 0 → x.progs = 0 →
          exec (.vdDestroy v) s = done ((s.setVdev v {}).rosterOpt x.slot) stOk) ∧
        (∀ d, o = some d → s.isFragment d = true → exec (.vdSlot v o) s = done s stFragment) ∧
        ((∀ d, o = some d → s.isFragment d = false) → exec (.vdSlot v o) s = done (s.moveVd v o) stOk ∧
          (x.slot = o → exec (.vdSlot v o) s = done s stOk) ∧
          (x.slot = none → x.links = 0 → x.keys = 0 → x.progs = 0 → ∃ u : State, exec (.vdSlot v o) s = done u stOk ∧
            (o = none ∨ (∃ d, o = some d ∧ (s.dom d).phase = .free) → u.vdev v = { x with slot := o })))) ∧
      (x.present = true → range →
        (k = 3 → s.poolRole = true → exec (.bind k i v) s = done s stRoleMismatch ∧
          exec (.unbind k i v) s = done s stRoleMismatch) ∧
        ((s.vdev w).present = false → exec (.move k i v w) s = done s stNoVd) ∧
        ((k = 3 → s.poolRole = false) →
          (∀ q, k ≠ 2 → s.holderOf r = some q → q ≠ v → exec (.bind k i v) s = done s stRights) ∧
          (s.boundTo r v = false → exec (.unbind k i v) s = done s stRights ∧
            ((s.vdev w).present = true → exec (.move k i v w) s = done s stRights)) ∧
          (k = 2 → x.slot = none ∨ ((s.memIdx (i.setWidth 4)).assigned = true ∧ x.slot ≠ some (s.memIdx (i.setWidth 4)).slot) →
            exec (.bind k i v) s = done s stKeyScope) ∧
          (∀ d, x.slot = some d → s.isFragment d = true → k ≠ 2 → (s.holderOf r = none ∨ s.holderOf r = some v) →
            exec (.bind k i v) s = done s stFragment) ∧
          ((∀ d, x.slot = some d → s.isFragment d = false) → s.boundTo r v = false → k ≠ 2 → s.holderOf r = none →
            (k = 0 → exec (.bind k i v) s = done (s.modVdev v fun y => { y with chans := setBitTo y.chans i.toNat true }) stOk) ∧
            (k = 1 → exec (.bind k i v) s = done ((s.modVdev v fun y => { y with
              links := setBitTo y.links i.toNat true }).rosterOpt x.slot) stOk) ∧
            (k = 3 → exec (.bind k i v) s = done (s.modVdev v fun y => { y with progs := setBitTo y.progs i.toNat true }) stOk)) ∧
          (∀ d, x.slot = some d → s.isFragment d = false → s.boundTo r v = false → k = 2 →
            (let u := s.modVdev v fun y => { y with keys := setBitTo y.keys i.toNat true }
             ((s.memIdx (i.setWidth 4)).assigned = true → (s.memIdx (i.setWidth 4)).slot = d →
               exec (.bind k i v) s = done u stOk) ∧
             ((s.memIdx (i.setWidth 4)).assigned = false →
               exec (.bind k i v) s = done (u.assignIndex (i.setWidth 4) d) stOk))) ∧
          ((∀ d, x.slot = some d → s.isFragment d = false) → s.boundTo r v = true → k ≠ 2 → s.holderOf r = some v →
            exec (.bind k i v) s = done s stOk) ∧
          (s.boundTo r v = true →
            exec (.unbind k i v) s = done (if k = 1 then (s.removeRes r v none).rosterOpt x.slot else s.removeRes r v none) stOk) ∧
          (s.boundTo r v = true → k = 0 → x.slot = none → s.red.progs = [] → s.fe.objs = [] → exec (.unbind k i v) s =
            done (s.modVdev v fun y => { y with chans := setBitTo y.chans i.toNat false }) stOk) ∧
          (s.boundTo r v = true → k = 0 → s.holderOf r = some v → (s.vdev w).present = true →
            (∀ d, (s.vdev w).slot = some d → s.isFragment d = false) →
            exec (.move k i v w) s = done ((s.removeRes r v (s.vdev w).slot).modVdev w fun y => { y with
              chans := setBitTo y.chans i.toNat true }) stOk))))
end

