-- ==== Sys2Proof/Laws/Crypto.lean ====
section
/-! SUPPORT. AES-256 deciphers what it enciphers, and a sealed line opens to the line (R219 to R222, R226). -/

namespace Sys2Proof.Machine

set_option Elab.async false

/-! ### Multiplication in GF(2^8) is linear -/

theorem xor_select (b : Bool) (p v : Byte) : (if b then p ^^^ v else p) = p ^^^ (if b then v else 0) := by
  cases b <;> simp

theorem select_xor (a b : Bool) (v : Byte) : (if a ^^ b then v else 0) = (if a then v else 0) ^^^ (if b then v else 0) := by
  cases a <;> cases b <;> simp

theorem gmul_xor (c a b : Byte) : gmul c (a ^^^ b) = gmul c a ^^^ gmul c b := by
  simp only [gmul, show List.range 8 = [0, 1, 2, 3, 4, 5, 6, 7] from rfl, List.foldl_cons, List.foldl_nil, xor_select,
    BitVec.getLsbD_xor, select_xor]
  generalize xtime c = c1
  generalize xtime c1 = c2
  generalize xtime c2 = c3
  generalize xtime c3 = c4
  generalize xtime c4 = c5
  generalize xtime c5 = c6
  generalize xtime c6 = c7
  simp only [BitVec.ofNat_eq_ofNat, BitVec.zero_xor]
  ac_rfl

/-- The four identities of the inverse matrix of MixColumns. -/
theorem inv_mix_byte (a : Byte) :
    (gmul 14 (gmul 2 a) ^^^ gmul 11 (gmul 1 a) ^^^ gmul 13 (gmul 1 a) ^^^ gmul 9 (gmul 3 a) = a) ∧
    (gmul 14 (gmul 3 a) ^^^ gmul 11 (gmul 2 a) ^^^ gmul 13 (gmul 1 a) ^^^ gmul 9 (gmul 1 a) = 0) ∧
    (gmul 14 (gmul 1 a) ^^^ gmul 11 (gmul 3 a) ^^^ gmul 13 (gmul 2 a) ^^^ gmul 9 (gmul 1 a) = 0) ∧
    (gmul 14 (gmul 1 a) ^^^ gmul 11 (gmul 1 a) ^^^ gmul 13 (gmul 3 a) ^^^ gmul 9 (gmul 2 a) = 0) := by
  revert a; decide +kernel


/-! ### The rounds -/

theorem xorBytes_length (a b : Bytes) : (xorBytes a b).length = min a.length b.length := by simp [xorBytes]

theorem xor_twice (a b : Bytes) (h : a.length ≤ b.length) : xorBytes (xorBytes a b) b = a := by
  induction a generalizing b with
  | nil => rfl
  | cons x a ih => cases b with
    | nil => simp at h
    | cons y b =>
      simp only [xorBytes, List.zipWith_cons_cons, BitVec.xor_assoc, BitVec.xor_self, BitVec.xor_zero]
      exact congrArg (x :: ·) (ih b (by simpa using h))

/-- A block as its 16 bytes. -/
theorem block_cases (s : Bytes) (h : s.length = 16) : ∃ a b c d e f g i j k l m n o p q : Byte,
    s = [a, b, c, d, e, f, g, i, j, k, l, m, n, o, p, q] := by
  match s, h with
  | [a, b, c, d, e, f, g, i, j, k, l, m, n, o, p, q], _ => exact ⟨a, b, c, d, e, f, g, i, j, k, l, m, n, o, p, q, rfl⟩

theorem invShiftRows_shiftRows (s : Bytes) (h : s.length = 16) : invShiftRows (shiftRows s) = s := by
  obtain ⟨a, b, c, d, e, f, g, i, j, k, l, m, n, o, p, q, rfl⟩ := block_cases s h
  rfl

theorem shiftRows_length (s : Bytes) : (shiftRows s).length = 16 := by simp [shiftRows]

theorem mixColumns_length (s : Bytes) (h : s.length = 16) : (mixColumns s).length = 16 := by
  obtain ⟨a, b, c, d, e, f, g, i, j, k, l, m, n, o, p, q, rfl⟩ := block_cases s h
  rfl

/-- One column: what the inverse matrix makes of the four bytes of MixColumns. -/
theorem inv_mix_column (a b c d : Byte) :
    gmul 14 (gmul 2 a ^^^ gmul 3 b ^^^ gmul 1 c ^^^ gmul 1 d) ^^^ gmul 11 (gmul 1 a ^^^ gmul 2 b ^^^ gmul 3 c ^^^ gmul 1 d) ^^^
      gmul 13 (gmul 1 a ^^^ gmul 1 b ^^^ gmul 2 c ^^^ gmul 3 d) ^^^ gmul 9 (gmul 3 a ^^^ gmul 1 b ^^^ gmul 1 c ^^^ gmul 2 d) = a := by
  obtain ⟨e1, -, -, -⟩ := inv_mix_byte a
  obtain ⟨-, e2, -, -⟩ := inv_mix_byte b
  obtain ⟨-, -, e3, -⟩ := inv_mix_byte c
  obtain ⟨-, -, -, e4⟩ := inv_mix_byte d
  simp only [gmul_xor]
  have := congrArg₂ (· ^^^ ·) (congrArg₂ (· ^^^ ·) e1 e2) (congrArg₂ (· ^^^ ·) e3 e4)
  simp only [BitVec.ofNat_eq_ofNat, BitVec.xor_zero] at this ⊢
  refine Eq.trans ?_ this
  ac_rfl

theorem invMixColumns_mixColumns (s : Bytes) (h : s.length = 16) : invMixColumns (mixColumns s) = s := by
  obtain ⟨a, b, c, d, e, f, g, i, j, k, l, m, n, o, p, q, rfl⟩ := block_cases s h
  have one : ∀ c0 c1 c2 c3 a b c d : Byte, mixWith c0 c1 c2 c3 [a, b, c, d] =
      [gmul c0 a ^^^ gmul c1 b ^^^ gmul c2 c ^^^ gmul c3 d, gmul c3 a ^^^ gmul c0 b ^^^ gmul c1 c ^^^ gmul c2 d,
       gmul c2 a ^^^ gmul c3 b ^^^ gmul c0 c ^^^ gmul c1 d, gmul c1 a ^^^ gmul c2 b ^^^ gmul c3 c ^^^ gmul c0 d] := by
    intros; rfl
  have col : ∀ a b c d : Byte, mixWith 14 11 13 9 (mixWith 2 3 1 1 [a, b, c, d]) = [a, b, c, d] := by
    intro a b c d
    rw [one, one]
    have r1 := inv_mix_column a b c d
    have r2 := inv_mix_column b c d a
    have r3 := inv_mix_column c d a b
    have r4 := inv_mix_column d a b c
    refine congrArg₂ _ r1 (congrArg₂ _ (Eq.trans ?_ r2) (congrArg₂ _ (Eq.trans ?_ r3) (congrArg₂ _ (Eq.trans ?_ r4) rfl)))
    · ac_rfl
    · ac_rfl
    · ac_rfl
  have c1 := col a b c d
  have c2 := col e f g i
  have c3 := col j k l m
  have c4 := col n o p q
  have := congrArg₂ (· ++ ·) c1 (congrArg₂ (· ++ ·) c2 (congrArg₂ (· ++ ·) c3 c4))
  exact this

theorem inv_sub (a : Byte) : invSubByte (subByte a) = a := by
  revert a; decide +kernel

theorem inv_sub_map (s : Bytes) : (s.map subByte).map invSubByte = s := by
  induction s with
  | nil => rfl
  | cons a s ih => simp only [List.map_cons, inv_sub, ih]

/-- A round of the cipher and of the inverse cipher. -/
def encRound (s k : Bytes) : Bytes := xorBytes (mixColumns (shiftRows (s.map subByte))) k
def decRound (s k : Bytes) : Bytes := invMixColumns (xorBytes ((invShiftRows s).map invSubByte) k)
/-- The bytes between the S-boxes and the columns. -/
def midRound (s : Bytes) : Bytes := shiftRows (s.map subByte)

theorem inv_midRound (s : Bytes) (h : s.length = 16) : (invShiftRows (midRound s)).map invSubByte = s := by
  unfold midRound
  rw [invShiftRows_shiftRows _ (by simpa using h), inv_sub_map]

theorem encRound_length (s k : Bytes) (h : k.length = 16) : (encRound s k).length = 16 := by
  unfold encRound
  rw [xorBytes_length, mixColumns_length _ (shiftRows_length _), h]
  rfl

theorem decRound_encRound (s k : Bytes) (h : k.length = 16) : decRound (midRound (encRound s k)) k = midRound s := by
  unfold decRound
  rw [inv_midRound _ (encRound_length s k h)]
  unfold encRound
  rw [xor_twice _ _ (by rw [mixColumns_length _ (shiftRows_length _), h]), invMixColumns_mixColumns _ (shiftRows_length _)]
  rfl

theorem dec_enc_rounds (ks : List Bytes) (s : Bytes) (hs : s.length = 16) (h : ∀ k ∈ ks, k.length = 16) :
    ks.reverse.foldl decRound (midRound (ks.foldl encRound s)) = midRound s ∧ (ks.foldl encRound s).length = 16 := by
  induction ks generalizing s with
  | nil => exact ⟨rfl, hs⟩
  | cons k ks ih =>
    have hk := h k (List.mem_cons_self ..)
    have := ih (encRound s k) (encRound_length s k hk) (fun x hx => h x (List.mem_cons_of_mem _ hx))
    refine ⟨?_, this.2⟩
    simp only [List.reverse_cons, List.foldl_append, List.foldl_cons, List.foldl_nil, this.1]
    exact decRound_encRound s k hk

/-- A string of whole pieces is cut into them. -/
theorem chunksAux_whole (n m f : Nat) (bs : Bytes) (h : bs.length = (n + 1) * m) (hf : m ≤ f) :
    (chunksAux (n + 1) f bs).length = m ∧ ∀ c ∈ chunksAux (n + 1) f bs, c.length = n + 1 := by
  induction m generalizing f bs with
  | zero =>
    have : bs = [] := List.length_eq_zero_iff.mp (by simpa using h)
    subst this
    cases f <;> simp [chunksAux]
  | succ m ih =>
    obtain ⟨f, rfl⟩ : ∃ g, f = g + 1 := ⟨f - 1, by omega⟩
    cases bs with
    | nil => rw [Nat.mul_succ] at h; simp at h
    | cons b bs =>
      have hd : ((b :: bs).drop (n + 1)).length = (n + 1) * m := by rw [List.length_drop, h, Nat.mul_succ]; omega
      obtain ⟨h1, h2⟩ := ih f _ hd (by omega)
      simp only [chunksAux, List.length_cons, List.mem_cons]
      refine ⟨by rw [h1], ?_⟩
      rintro c (rfl | hc)
      · rw [List.length_take, h, Nat.mul_succ]; omega
      · exact h2 c hc

theorem schedWord_length (i : Nat) (w : Bytes) (h : w.length = 4) : (schedWord i w).length = 4 := by
  unfold schedWord
  split
  · rw [xorBytes_length, List.length_map, List.length_append, List.length_drop, List.length_take, h]; rfl
  · split
    · rw [List.length_map, h]
    · exact h

theorem keyWord_length (i : Nat) (ws : List Bytes) (h : ∀ w ∈ ws, w.length = 4) (hl : 8 ≤ ws.length) :
    (keyWord i ws).length = 4 := by
  have head : ∀ xs : List Bytes, (∀ w ∈ xs, w.length = 4) → 0 < xs.length → (xs.headD []).length = 4 := by
    intro xs hx h0
    cases xs with
    | nil => simp at h0
    | cons x xs => exact hx x (List.mem_cons_self ..)
  have h1 := head ws h (by omega)
  have h2 := head (ws.drop 7) (fun w hw => h w (List.mem_of_mem_drop hw)) (by rw [List.length_drop]; omega)
  unfold keyWord
  rw [xorBytes_length, h2, schedWord_length _ _ h1]; rfl

/-- The schedule after n further words. -/
def keyWordsN (key : Bytes) (n : Nat) : List Bytes :=
  (List.range n).foldl (fun ws i => keyWord (i + 8) ws :: ws) (chunks 4 key).reverse

theorem keyWordsN_succ (key : Bytes) (n : Nat) :
    keyWordsN key (n + 1) = keyWord (n + 8) (keyWordsN key n) :: keyWordsN key n := by
  simp only [keyWordsN, List.range_succ, List.foldl_append, List.foldl_cons, List.foldl_nil]

theorem keyWordsN_whole (key : Bytes) (h : key.length = 32) (n : Nat) :
    (keyWordsN key n).length = 8 + n ∧ ∀ w ∈ keyWordsN key n, w.length = 4 := by
  obtain ⟨c1, c2⟩ := chunksAux_whole 3 8 key.length key (by rw [h]) (by omega)
  induction n with
  | zero => exact ⟨by rw [keyWordsN, List.range_zero, List.foldl_nil, List.length_reverse]; exact c1,
      fun w hw => c2 w (List.mem_reverse.mp hw)⟩
  | succ n ih =>
    rw [keyWordsN_succ]
    refine ⟨by rw [List.length_cons, ih.1]; omega, fun w hx => ?_⟩
    rcases List.mem_cons.mp hx with rfl | hx
    · exact keyWord_length _ _ ih.2 (by rw [ih.1]; omega)
    · exact ih.2 w hx

theorem flatMap_words (ws : List Bytes) (hw : ∀ w ∈ ws, w.length = 4) : (ws.flatMap id).length = 4 * ws.length := by
  induction ws with
  | nil => rfl
  | cons w ws ih =>
    rw [List.flatMap_cons, List.length_append, ih (fun x hx => hw x (List.mem_cons_of_mem _ hx)), List.length_cons]
    have : w.length = 4 := hw w (List.mem_cons_self ..)
    simp only [id, this]
    omega

/-- The 15 round keys of a 32-byte key are 16 bytes each. -/
theorem roundKeys_whole (key : Bytes) (h : key.length = 32) :
    (roundKeys key).length = 15 ∧ ∀ k ∈ roundKeys key, k.length = 16 := by
  obtain ⟨w1, w2⟩ := keyWordsN_whole key h 52
  have total := flatMap_words (keyWordsN key 52).reverse (fun w hw => w2 w (List.mem_reverse.mp hw))
  rw [List.length_reverse, w1] at total
  exact chunksAux_whole 15 15 _ _ total (by change 15 ≤ ((keyWordsN key 52).reverse.flatMap id).length; rw [total]; omega)

theorem chunksAux_words (ws : List Bytes) (hw : ∀ w ∈ ws, w.length = 4) :
    ∀ n, ws.length ≤ n → chunksAux 4 n (ws.flatMap id) = ws := by
  induction ws with
  | nil => intro n _; cases n <;> rfl
  | cons w ws ih =>
    intro n hn
    have h4 : w.length = 4 := hw w (List.mem_cons_self ..)
    have tk : (w ++ ws.flatMap id).take 4 = w := by rw [← h4, List.take_left']; rfl
    have dr : (w ++ ws.flatMap id).drop 4 = ws.flatMap id := by rw [← h4, List.drop_left']; rfl
    obtain ⟨m, rfl⟩ : ∃ m, n = m + 1 := ⟨n - 1, by rw [List.length_cons] at hn; omega⟩
    rw [List.flatMap_cons, id]
    obtain ⟨b, bs, hb⟩ : ∃ b bs, w ++ ws.flatMap id = b :: bs := by
      cases w with
      | nil => simp at h4
      | cons b w => exact ⟨b, w ++ ws.flatMap id, rfl⟩
    have e : chunksAux 4 (m + 1) (b :: bs) = (b :: bs).take 4 :: chunksAux 4 m ((b :: bs).drop 4) := rfl
    rw [hb, e, ← hb, tk, dr, ih (fun x hx => hw x (List.mem_cons_of_mem _ hx)) m
      (by rw [List.length_cons] at hn; omega)]

/-- The schedule run backward from its last eight words gives the words before them. -/
theorem back_words (key : Bytes) (h : key.length = 32) (j : Nat) (hj : j ≤ 52) :
    (List.range j).foldl (fun ws j => backWord (59 - j) ws :: ws) ((keyWordsN key 52).take 8).reverse =
      ((keyWordsN key 52).take (8 + j)).reverse := by
  have split : ∀ j, j ≤ 52 → ∃ P : List Bytes, P.length = j ∧ keyWordsN key 52 = P ++ keyWordsN key (52 - j) := by
    intro j
    induction j with
    | zero => exact fun _ => ⟨[], rfl, rfl⟩
    | succ j ih =>
      intro hj
      obtain ⟨P, hP, e⟩ := ih (by omega)
      refine ⟨P ++ [keyWord (51 - j + 8) (keyWordsN key (51 - j))], by rw [List.length_append, hP]; rfl, ?_⟩
      rw [e, show 52 - j = 51 - j + 1 from by omega, keyWordsN_succ key (51 - j), List.append_assoc]
      rw [show 52 - (j + 1) = 51 - j from by omega]; rfl
  induction j with
  | zero => rfl
  | succ j ih =>
    rw [List.range_succ, List.foldl_append, ih (by omega), List.foldl_cons, List.foldl_nil]
    obtain ⟨P, hP, e⟩ := split j (by omega)
    rw [show 52 - j = 51 - j + 1 from by omega, keyWordsN_succ key (51 - j)] at e
    obtain ⟨l, hw⟩ := keyWordsN_whole key h (51 - j)
    generalize keyWordsN key (51 - j) = r at e l hw
    rcases r with _ | ⟨a0, _ | ⟨a1, _ | ⟨a2, _ | ⟨a3, _ | ⟨a4, _ | ⟨a5, _ | ⟨a6, _ | ⟨a7, rest⟩⟩⟩⟩⟩⟩⟩⟩
    all_goals first
      | (exfalso; simp only [List.length_cons, List.length_nil] at l; omega)
      | skip
    · have t1 : (keyWordsN key 52).take (8 + j) =
          P ++ [keyWord (51 - j + 8) (a0 :: a1 :: a2 :: a3 :: a4 :: a5 :: a6 :: a7 :: rest), a0, a1, a2, a3, a4, a5, a6] := by
        rw [e, Nat.add_comm 8 j, ← hP, List.take_length_add_append]; rfl
      have t2 : (keyWordsN key 52).take (8 + (j + 1)) =
          P ++ [keyWord (51 - j + 8) (a0 :: a1 :: a2 :: a3 :: a4 :: a5 :: a6 :: a7 :: rest), a0, a1, a2, a3, a4, a5, a6, a7] := by
        rw [e, show 8 + (j + 1) = j + 9 from by omega, ← hP, List.take_length_add_append]; rfl
      have l0 : a0.length = 4 := hw a0 (by simp)
      have l7 : a7.length = 4 := hw a7 (by simp)
      rw [t1, t2, List.reverse_append, List.reverse_append]
      refine congrArg (· :: _) ?_
      change xorBytes (xorBytes a7 (schedWord (51 - j + 8) a0)) (schedWord (59 - j) a0) = a7
      rw [show 51 - j + 8 = 59 - j from by omega]
      exact xor_twice _ _ (by rw [l7, schedWord_length _ _ l0])

/-- A decryption starts from round keys 13 and 14 and finds all the others (R192). -/
theorem keysBack_tailKeys (key : Bytes) (h : key.length = 32) : keysBack (tailKeys key) = roundKeys key := by
  obtain ⟨w1, w2⟩ := keyWordsN_whole key h 52
  have ht : ∀ w ∈ ((keyWordsN key 52).take 8).reverse, w.length = 4 := fun w hw =>
    w2 w (List.mem_of_mem_take (List.mem_reverse.mp hw))
  have c : chunks 4 (tailKeys key) = ((keyWordsN key 52).take 8).reverse := by
    refine chunksAux_words _ ht _ ?_
    have l := flatMap_words _ ht
    change _ ≤ (((keyWordsN key 52).take 8).reverse.flatMap id).length
    rw [l]; omega
  rw [keysBack, c, back_words key h 52 (Nat.le_refl _), List.take_of_length_le (by rw [w1])]; rfl

theorem aesDec_aesEnc (key block : Bytes) (hk : key.length = 32) (hb : block.length = 16) :
    aesDec key (aesEnc key block) = block ∧ (aesEnc key block).length = 16 := by
  have back := keysBack_tailKeys key hk
  obtain ⟨hl, hk⟩ := roundKeys_whole key hk
  unfold aesDec aesInv aesEnc
  rw [back]
  clear back
  generalize roundKeys key = ks at hl hk
  obtain ⟨k0, rest, rfl⟩ : ∃ k0 rest, ks = k0 :: rest := by
    cases ks with
    | nil => simp at hl
    | cons a b => exact ⟨a, b, rfl⟩
  obtain ⟨mid, last, rfl⟩ : ∃ mid last, rest = mid ++ [last] := by
    have : rest ≠ [] := by intro e; simp [e] at hl
    exact ⟨rest.dropLast, rest.getLast this, (List.dropLast_append_getLast this).symm⟩
  have h0 : k0.length = 16 := hk k0 (by simp)
  have h1 : last.length = 16 := hk last (by simp)
  have hm : ∀ k ∈ mid, k.length = 16 := fun k h => hk k (by simp [h])
  have hx : (xorBytes block k0).length = 16 := by rw [xorBytes_length, hb, h0]; rfl
  obtain ⟨r, rl⟩ := dec_enc_rounds mid (xorBytes block k0) hx hm
  simp only [List.reverse_cons, List.reverse_append, List.reverse_nil, List.nil_append, List.cons_append, List.dropLast_concat,
    List.getLastD_concat]
  change xorBytes ((invShiftRows (mid.reverse.foldl decRound (xorBytes (xorBytes (midRound (mid.foldl encRound (xorBytes block k0)))
    last) last))).map invSubByte) k0 = block ∧
    (xorBytes (midRound (mid.foldl encRound (xorBytes block k0))) last).length = 16
  have hlen : (midRound (mid.foldl encRound (xorBytes block k0))).length = 16 := shiftRows_length _
  refine ⟨?_, by rw [xorBytes_length, hlen, h1]; rfl⟩
  rw [xor_twice _ _ (by rw [hlen, h1]), r, inv_midRound _ hx, xor_twice _ _ (by rw [hb, h0])]

/-! ### Bytes and lines -/

theorem leBytes_length (n x : Nat) : (leBytes n x).length = n := by
  induction n generalizing x with
  | zero => rfl
  | succ n ih => simp [leBytes, ih]

theorem leNat_leBytes (n x : Nat) : leNat (leBytes n x) = x % 256 ^ n := by
  induction n generalizing x with
  | zero => simp [leBytes, leNat, Nat.mod_one]
  | succ n ih =>
    simp only [leBytes, leNat, ih, BitVec.toNat_ofNat]
    rw [show (256 : Nat) ^ (n + 1) = 256 * 256 ^ n from by rw [Nat.pow_succ, Nat.mul_comm], Nat.mod_mul]

theorem leNat_lt (bs : Bytes) : leNat bs < 256 ^ bs.length := by
  induction bs with
  | nil => simp [leNat]
  | cons b bs ih =>
    simp only [leNat, List.length_cons, Nat.pow_succ]
    have := b.isLt
    omega

theorem leBytes_leNat (bs : Bytes) : leBytes bs.length (leNat bs) = bs := by
  induction bs with
  | nil => rfl
  | cons b bs ih =>
    have hb := b.isLt
    have e : (b.toNat + 256 * leNat bs) / 256 = leNat bs := by omega
    simp only [List.length_cons, leBytes, leNat, e, ih]
    refine congrArg (· :: bs) ?_
    apply BitVec.eq_of_toNat_eq
    simp only [BitVec.toNat_ofNat]
    omega

theorem bytesLine_lineBytes (p : Line) : bytesLine (lineBytes p) = p := by
  apply BitVec.eq_of_toNat_eq
  have h : (lineBytes p).length = 64 := leBytes_length _ _
  simp only [bytesLine, fitTo, h, Nat.sub_self, leBv, BitVec.toNat_ofNat]
  rw [show zeros 0 = [] from rfl, List.append_nil, List.take_of_length_le (by omega)]
  unfold lineBytes
  rw [leNat_leBytes, show (256 : Nat) ^ 64 = 2 ^ 512 from by rw [show (256 : Nat) = 2 ^ 8 from rfl, ← Nat.pow_mul], Nat.mod_mod, Nat.mod_eq_of_lt p.isLt]

theorem lineBytes_bytesLine (bs : Bytes) (h : bs.length = 64) : lineBytes (bytesLine bs) = bs := by
  have lt := leNat_lt bs
  rw [h, show (256 : Nat) ^ 64 = 2 ^ 512 from by rw [show (256 : Nat) = 2 ^ 8 from rfl, ← Nat.pow_mul]] at lt
  simp only [bytesLine, fitTo, h, Nat.sub_self, leBv]
  rw [show zeros 0 = [] from rfl, List.append_nil, List.take_of_length_le (by omega)]
  unfold lineBytes
  rw [BitVec.toNat_ofNat, Nat.mod_eq_of_lt lt]
  have := leBytes_leNat bs
  rwa [h] at this

theorem chunksAux_append (n f : Nat) (a r : Bytes) (h : a.length = n + 1) :
    chunksAux (n + 1) (f + 1) (a ++ r) = a :: chunksAux (n + 1) f r := by
  cases a with
  | nil => simp at h
  | cons x a =>
    simp only [List.cons_append, chunksAux]
    rw [← List.cons_append, ← h, List.take_left, List.drop_left]

theorem chunks_four (a b c d : Bytes) (ha : a.length = 16) (hb : b.length = 16) (hc : c.length = 16) (hd : d.length = 16) :
    chunks 16 (a ++ (b ++ (c ++ (d ++ [])))) = [a, b, c, d] := by
  have h : (a ++ (b ++ (c ++ (d ++ [])))).length = 60 + 1 + 1 + 1 + 1 := by simp [ha, hb, hc, hd]
  unfold chunks
  rw [h, chunksAux_append 15 _ a _ ha, chunksAux_append 15 _ b _ hb, chunksAux_append 15 _ c _ hc, chunksAux_append 15 _ d _ hd]
  rfl

theorem four_blocks (bs : Bytes) (h : bs.length = 64) : ∃ a b c d : Bytes, a.length = 16 ∧ b.length = 16 ∧ c.length = 16 ∧
    d.length = 16 ∧ bs = a ++ (b ++ (c ++ (d ++ []))) := by
  refine ⟨bs.take 16, (bs.drop 16).take 16, (bs.drop 32).take 16, bs.drop 48, by simp [h], by simp [h], by simp [h], by simp [h], ?_⟩
  rw [List.append_nil]
  have e1 : bs.drop 32 = (bs.drop 16).drop 16 := by simp
  have e2 : bs.drop 48 = (bs.drop 32).drop 16 := by simp
  rw [e2, List.take_append_drop, e1, List.take_append_drop, List.take_append_drop]

/-! ### Sealed lines -/

/-- One block under its tweak. -/
theorem xts_block (k t b : Bytes) (hk : k.length = 32) (ht : t.length = 16) (hb : b.length = 16) :
    xorBytes (aesDec k (xorBytes (xorBytes (aesEnc k (xorBytes b t)) t) t)) t = b ∧
      (xorBytes (aesEnc k (xorBytes b t)) t).length = 16 := by
  have hx : (xorBytes b t).length = 16 := by rw [xorBytes_length, hb, ht]; rfl
  obtain ⟨r, l⟩ := aesDec_aesEnc k (xorBytes b t) hk hx
  exact ⟨by rw [xor_twice _ _ (by rw [l, ht]), r, xor_twice _ _ (by rw [hb, ht])], by rw [xorBytes_length, l, ht]; rfl⟩

theorem xts_round_trip (k t p : Bytes) (hk : k.length = 32) (hp : p.length = 64) :
    xtsBlocks (aesDec k) (tweaks t) (xtsBlocks (aesEnc k) (tweaks t) p) = p ∧
      (xtsBlocks (aesEnc k) (tweaks t) p).length = 64 := by
  obtain ⟨a, b, c, d, ha, hb, hc, hd, rfl⟩ := four_blocks p hp
  obtain ⟨t0, t1, t2, t3, h0, h1, h2, h3, ht⟩ : ∃ t0 t1 t2 t3 : Bytes, t0.length = 16 ∧ t1.length = 16 ∧ t2.length = 16 ∧
      t3.length = 16 ∧ tweaks t = [t0, t1, t2, t3] :=
    ⟨_, _, _, _, leBytes_length _ _, leBytes_length _ _, leBytes_length _ _, leBytes_length _ _, rfl⟩
  obtain ⟨ra, la⟩ := xts_block k t0 a hk h0 ha
  obtain ⟨rb, lb⟩ := xts_block k t1 b hk h1 hb
  obtain ⟨rc, lc⟩ := xts_block k t2 c hk h2 hc
  obtain ⟨rd, ld⟩ := xts_block k t3 d hk h3 hd
  unfold xtsBlocks
  rw [ht, chunks_four a b c d ha hb hc hd]
  simp only [List.zipWith_cons_cons, List.zipWith_nil_right, List.flatten_cons, List.flatten_nil]
  rw [chunks_four _ _ _ _ la lb lc ld]
  simp only [List.zipWith_cons_cons, List.zipWith_nil_right, List.flatten_cons, List.flatten_nil, ra, rb, rc, rd, true_and]
  simp [la, lb, lc, ld]

/-- A sealed line opens to the line under the same key and address. -/
theorem openLine_sealLine (k : Bytes) (i : KeyIdx) (d : Dpa) (p : Line) (hk : 32 ≤ k.length)
    (hb : slice k 128 32 = tailKeys (slice k 0 32)) :
    openLine k d (sealLine k i d p).1 (sealLine k i d p).2 = some p := by
  obtain ⟨r, l⟩ := xts_round_trip (slice k 0 32) (tweakT k d) (lineBytes p) (by simp [slice, hk]) (leBytes_length _ _)
  have tag : ∀ x : BitVec 28, (i ++ x : BitVec 32).setWidth 28 = x := by
    intro x
    apply BitVec.eq_of_toNat_eq
    have h : (i ++ x : BitVec 32).toNat = i.toNat <<< 28 ||| x.toNat := BitVec.toNat_append i x
    rw [BitVec.toNat_setWidth, h, ← Nat.shiftLeft_add_eq_or_of_lt x.isLt, Nat.shiftLeft_eq]
    omega
  unfold openLine sealLine
  simp only [tag, lineBytes_bytesLine _ l, if_true, hb]
  exact congrArg some ((congrArg bytesLine r).trans (bytesLine_lineBytes p))

end Sys2Proof.Machine
end

