-- ==== Sys2Proof/Laws/Tab.lean ====
section
/-! SUPPORT. Sparse tables: reading after writing, and the canonical form. -/

namespace Sys2Proof.Tab

set_option Elab.async false

variable {α : Type}

@[simp] theorem get_nil (d : α) (n : Nat) : Tab.get d [] n = d := rfl

theorem get_cons (d : α) (e : Nat × α) (t : Tab α) (n : Nat) :
    Tab.get d (e :: t) n = if e.1 = n then e.2 else Tab.get d t n := rfl

theorem get_insert_same (d : α) (t : Tab α) (n : Nat) (v : α) : Tab.get d (Tab.insert t n v) n = v := by
  induction t with
  | nil => simp [Tab.insert, get_cons]
  | cons e t ih =>
    obtain ⟨k, w⟩ := e
    simp only [Tab.insert]
    split
    · simp [get_cons]
    · split
      · simp [get_cons]
      · simp only [get_cons, ih]; rw [if_neg]; intro h; exact ‹¬ n = k› h.symm

theorem get_insert_ne (d : α) (t : Tab α) {n m : Nat} (v : α) (h : m ≠ n) :
    Tab.get d (Tab.insert t n v) m = Tab.get d t m := by
  induction t with
  | nil => simp [Tab.insert, get_cons, h.symm]
  | cons e t ih =>
    obtain ⟨k, w⟩ := e
    simp only [Tab.insert]
    split
    · simp [get_cons, h.symm]
    · split
      · next h2 => subst h2; simp [get_cons, h.symm]
      · simp [get_cons, ih]

theorem get_filter_same (d : α) (t : Tab α) (n : Nat) : Tab.get d (t.filter fun e => e.1 != n) n = d := by
  induction t with
  | nil => rfl
  | cons e t ih => by_cases h : e.1 = n <;> simp [h, ih, get_cons]

theorem get_filter_ne (d : α) (t : Tab α) {n m : Nat} (h : m ≠ n) :
    Tab.get d (t.filter fun e => e.1 != n) m = Tab.get d t m := by
  induction t with
  | nil => rfl
  | cons e t ih =>
    by_cases h2 : e.1 = n
    · have : e.1 ≠ m := fun h3 => h (h3.symm.trans h2)
      simp [h2, ih, get_cons, h.symm]
    · simp [h2, ih, get_cons]

@[simp] theorem get_set_same [DecidableEq α] (d : α) (t : Tab α) (n : Nat) (v : α) : Tab.get d (Tab.set d t n v) n = v := by
  unfold Tab.set
  split
  · next h => rw [get_filter_same, h]
  · exact get_insert_same d t n v

theorem get_set_ne [DecidableEq α] (d : α) (t : Tab α) {n m : Nat} (v : α) (h : m ≠ n) :
    Tab.get d (Tab.set d t n v) m = Tab.get d t m := by
  unfold Tab.set
  split
  · exact get_filter_ne d t h
  · exact get_insert_ne d t v h

theorem get_set [DecidableEq α] (d : α) (t : Tab α) (n m : Nat) (v : α) :
    Tab.get d (Tab.set d t n v) m = if m = n then v else Tab.get d t m := by
  split
  · next h => rw [h, get_set_same]
  · next h => exact get_set_ne d t v h

theorem wfFrom_mono [DecidableEq α] (d : α) {a b : Nat} (h : a ≤ b) (t : Tab α) (w : Tab.wfFrom d b t = true) :
    Tab.wfFrom d a t = true := by
  cases t with
  | nil => rfl
  | cons e t =>
    obtain ⟨k, v⟩ := e
    simp only [Tab.wfFrom, Bool.and_eq_true, decide_eq_true_eq] at *
    exact ⟨⟨by omega, w.1.2⟩, w.2⟩

theorem wfFrom_filter [DecidableEq α] (d : α) (p : Nat × α → Bool) (t : Tab α) :
    ∀ b, Tab.wfFrom d b t = true → Tab.wfFrom d b (t.filter p) = true := by
  induction t with
  | nil => intro b _; rfl
  | cons e t ih =>
    intro b w
    obtain ⟨k, v⟩ := e
    simp only [Tab.wfFrom, Bool.and_eq_true, decide_eq_true_eq] at w
    by_cases h : p (k, v) = true
    · simp [h, Tab.wfFrom, w.1.1, w.1.2, ih _ w.2]
    · simp only [List.filter_cons, h]
      exact wfFrom_mono d (by omega) _ (ih _ w.2)

theorem wfFrom_insert [DecidableEq α] (d : α) (n : Nat) (v : α) (hv : v ≠ d) (t : Tab α) :
    ∀ b, b ≤ n → Tab.wfFrom d b t = true → Tab.wfFrom d b (Tab.insert t n v) = true := by
  induction t with
  | nil => intro b hb _; simp [Tab.insert, Tab.wfFrom, hb, hv]
  | cons e t ih =>
    intro b hb w
    obtain ⟨k, x⟩ := e
    simp only [Tab.wfFrom, Bool.and_eq_true, decide_eq_true_eq] at w
    simp only [Tab.insert]
    split
    · simp only [Tab.wfFrom, Bool.and_eq_true, decide_eq_true_eq]
      exact ⟨⟨hb, hv⟩, ⟨by omega, w.1.2⟩, w.2⟩
    · split
      · next h => subst h; simp [Tab.wfFrom, hb, hv, w.2]
      · simp only [Tab.wfFrom, Bool.and_eq_true, decide_eq_true_eq]
        exact ⟨w.1, ih _ (by omega) w.2⟩

@[simp] theorem wf_nil [DecidableEq α] (d : α) : Tab.wf d [] = true := rfl

/-- Writing keeps the canonical form. -/
theorem wf_set [DecidableEq α] (d : α) (t : Tab α) (n : Nat) (v : α) (w : Tab.wf d t = true) :
    Tab.wf d (Tab.set d t n v) = true := by
  unfold Tab.set
  split
  · exact wfFrom_filter d _ t 0 w
  · next h => exact wfFrom_insert d n v h t 0 (Nat.zero_le n) w

theorem wf_filter [DecidableEq α] (d : α) (p : Nat × α → Bool) (t : Tab α) (w : Tab.wf d t = true) :
    Tab.wf d (t.filter p) = true := wfFrom_filter d p t 0 w

theorem wfFrom_mapAll [DecidableEq α] (d : α) (f : Nat → α → α) (t : Tab α) :
    ∀ b, Tab.wfFrom d b t = true → Tab.wfFrom d b (Tab.mapAll d f t) = true := by
  induction t with
  | nil => intro b _; rfl
  | cons e t ih =>
    intro b w
    obtain ⟨k, v⟩ := e
    simp only [Tab.wfFrom, Bool.and_eq_true, decide_eq_true_eq] at w
    by_cases h : f k v = d
    · simp only [Tab.mapAll, List.filterMap_cons, h, if_true]
      exact wfFrom_mono d (by omega) _ (ih _ w.2)
    · simp only [Tab.mapAll, List.filterMap_cons, h, if_false, Tab.wfFrom, Bool.and_eq_true, decide_eq_true_eq]
      exact ⟨⟨w.1.1, h⟩, ih _ w.2⟩

/-- Mapping every entry keeps the canonical form. -/
theorem wf_mapAll [DecidableEq α] (d : α) (f : Nat → α → α) (t : Tab α) (w : Tab.wf d t = true) :
    Tab.wf d (Tab.mapAll d f t) = true := wfFrom_mapAll d f t 0 w

/-- Writing again and again keeps the canonical form. -/
theorem wf_foldl [DecidableEq α] {β : Type} (d : α) (f : Tab α → β → Tab α) (xs : List β)
    (hf : ∀ t x, Tab.wf d t = true → Tab.wf d (f t x) = true) :
    ∀ t, Tab.wf d t = true → Tab.wf d (xs.foldl f t) = true := by
  induction xs with
  | nil => exact fun _ h => h
  | cons x xs ih => exact fun t h => ih _ (hf t x h)

theorem wfFrom_drop [DecidableEq α] (d : α) (n : Nat) (t : Tab α) :
    ∀ b, Tab.wfFrom d b t = true → Tab.wfFrom d b (t.drop n) = true := by
  induction t generalizing n with
  | nil => intro b _; rw [List.drop_nil]; rfl
  | cons e t ih =>
    intro b w
    obtain ⟨k, v⟩ := e
    cases n with
    | zero => exact w
    | succ n =>
      simp only [Tab.wfFrom, Bool.and_eq_true, decide_eq_true_eq] at w
      exact wfFrom_mono d (by omega) _ (ih n _ w.2)

/-- Dropping the lowest entries keeps the canonical form. -/
theorem wf_drop [DecidableEq α] (d : α) (n : Nat) (t : Tab α) (w : Tab.wf d t = true) :
    Tab.wf d (t.drop n) = true := wfFrom_drop d n t 0 w

theorem get_below [DecidableEq α] (d : α) (t : Tab α) :
    ∀ b n, Tab.wfFrom d b t = true → n < b → Tab.get d t n = d := by
  induction t with
  | nil => intros; rfl
  | cons e t ih =>
    intro b n w h
    obtain ⟨k, v⟩ := e
    simp only [Tab.wfFrom, Bool.and_eq_true, decide_eq_true_eq] at w
    rw [get_cons, if_neg (by simp; omega)]
    exact ih _ n w.2 (by omega)

/-- An entry of a mapped table is the map of the entry. -/
theorem get_mapAll [DecidableEq α] (d : α) (f : Nat → α → α) (t : Tab α) (n : Nat) (hd : f n d = d) :
    ∀ b, Tab.wfFrom d b t = true → Tab.get d (Tab.mapAll d f t) n = f n (Tab.get d t n) := by
  induction t with
  | nil => intro b _; exact hd.symm
  | cons e t ih =>
    intro b w
    obtain ⟨k, v⟩ := e
    have w' := w
    simp only [Tab.wfFrom, Bool.and_eq_true, decide_eq_true_eq] at w
    have ih' := ih _ w.2
    by_cases h : f k v = d
    · have e : Tab.mapAll d f ((k, v) :: t) = Tab.mapAll d f t := by simp [Tab.mapAll, h]
      rw [e, ih', get_cons]
      by_cases hk : k = n
      · subst hk; rw [if_pos rfl, h, get_below d t _ k w.2 (by omega), hd]
      · rw [if_neg hk]
    · simp only [Tab.mapAll, List.filterMap_cons, h, if_false, get_cons] at *
      by_cases hk : k = n
      · subst hk; simp
      · simp only [if_neg hk, ih']

end Sys2Proof.Tab
end

