-- ==== Sys2Proof/Laws/State.lean ====
section
/-! SUPPORT. What each update of State leaves of every field, and reading an entry after writing it. -/

namespace Sys2Proof.Machine.State

set_option Elab.async false

@[simp] theorem setLink_sys (s : State) (l : LinkId) (x : Link) : (s.setLink l x).sys = s.sys := rfl
@[simp] theorem setLink_glb (s : State) (l : LinkId) (x : Link) : (s.setLink l x).glb = s.glb := rfl
@[simp] theorem setLink_clk (s : State) (l : LinkId) (x : Link) : (s.setLink l x).clk = s.clk := rfl
@[simp] theorem setLink_boot (s : State) (l : LinkId) (x : Link) : (s.setLink l x).boot = s.boot := rfl
@[simp] theorem setLink_lcd (s : State) (l : LinkId) (x : Link) : (s.setLink l x).lcd = s.lcd := rfl
@[simp] theorem setLink_otp (s : State) (l : LinkId) (x : Link) : (s.setLink l x).otp = s.otp := rfl
@[simp] theorem setLink_keys (s : State) (l : LinkId) (x : Link) : (s.setLink l x).keys = s.keys := rfl
@[simp] theorem setLink_lanes (s : State) (l : LinkId) (x : Link) : (s.setLink l x).lanes = s.lanes := rfl
@[simp] theorem setLink_mem (s : State) (l : LinkId) (x : Link) : (s.setLink l x).mem = s.mem := rfl
@[simp] theorem setLink_doms (s : State) (l : LinkId) (x : Link) : (s.setLink l x).doms = s.doms := rfl
@[simp] theorem setLink_flood (s : State) (l : LinkId) (x : Link) : (s.setLink l x).flood = s.flood := rfl
@[simp] theorem setLink_fab (s : State) (l : LinkId) (x : Link) : (s.setLink l x).fab = s.fab := rfl
@[simp] theorem setLink_fe (s : State) (l : LinkId) (x : Link) : (s.setLink l x).fe = s.fe := rfl
@[simp] theorem setLink_vd (s : State) (l : LinkId) (x : Link) : (s.setLink l x).vd = s.vd := rfl
@[simp] theorem setLink_red (s : State) (l : LinkId) (x : Link) : (s.setLink l x).red = s.red := rfl
@[simp] theorem setLink_flt (s : State) (l : LinkId) (x : Link) : (s.setLink l x).flt = s.flt := rfl
@[simp] theorem setLink_tray (s : State) (l : LinkId) (x : Link) : (s.setLink l x).tray = s.tray := rfl
@[simp] theorem setLink_pwr (s : State) (l : LinkId) (x : Link) : (s.setLink l x).pwr = s.pwr := rfl
@[simp] theorem setLink_isl (s : State) (l : LinkId) (x : Link) : (s.setLink l x).isl = s.isl := rfl
@[simp] theorem setLink_tel (s : State) (l : LinkId) (x : Link) : (s.setLink l x).tel = s.tel := rfl
@[simp] theorem setLink_freeCtr (s : State) (l : LinkId) (x : Link) : (s.setLink l x).freeCtr = s.freeCtr := rfl
@[simp] theorem setLink_outs (s : State) (l : LinkId) (x : Link) : (s.setLink l x).outs = s.outs := rfl
@[simp] theorem setLink_pending (s : State) (l : LinkId) (x : Link) : (s.setLink l x).pending = s.pending := rfl
@[simp] theorem setLink_link_same (s : State) (l : LinkId) (x : Link) : (s.setLink l x).link l = x := Tab.get_set_same _ _ _ _
theorem setLink_link_ne (s : State) (l : LinkId) (x : Link) (y : LinkId) (h : y ≠ l) : (s.setLink l x).link y = s.link y :=
  Tab.get_set_ne _ _ _ fun e => h (BitVec.eq_of_toNat_eq e)
@[simp] theorem setLink_domAt (s : State) (l : LinkId) (x : Link) (y : Slot) : (s.setLink l x).dom y = s.dom y := rfl
@[simp] theorem setLink_ctxAt (s : State) (l : LinkId) (x : Link) (y : CtxId) : (s.setLink l x).ctx y = s.ctx y := rfl
@[simp] theorem setLink_funcAt (s : State) (l : LinkId) (x : Link) (y : Fn) : (s.setLink l x).func y = s.func y := rfl
@[simp] theorem setLink_rowAt (s : State) (l : LinkId) (x : Link) (y : Nat) : (s.setLink l x).row y = s.row y := rfl
@[simp] theorem setLink_chanAt (s : State) (l : LinkId) (x : Link) (y : ChanId) : (s.setLink l x).chan y = s.chan y := rfl
@[simp] theorem setLink_memIdxAt (s : State) (l : LinkId) (x : Link) (y : KeyIdx) : (s.setLink l x).memIdx y = s.memIdx y := rfl
@[simp] theorem setLink_vdevAt (s : State) (l : LinkId) (x : Link) (y : VdId) : (s.setLink l x).vdev y = s.vdev y := rfl
@[simp] theorem setLink_progAt (s : State) (l : LinkId) (x : Link) (y : ProgId) : (s.setLink l x).prog y = s.prog y := rfl
@[simp] theorem setLink_engAt (s : State) (l : LinkId) (x : Link) (y : Nat) : (s.setLink l x).eng y = s.eng y := rfl
@[simp] theorem setLink_tamperAt (s : State) (l : LinkId) (x : Link) (y : BitVec 2) : (s.setLink l x).tamper y = s.tamper y := rfl
@[simp] theorem setLink_mtrAt (s : State) (l : LinkId) (x : Link) (y : Slot) : (s.setLink l x).mtr y = s.mtr y := rfl

@[simp] theorem modLink_sys (s : State) (l : LinkId) (x : Link → Link) : (s.modLink l x).sys = s.sys := rfl
@[simp] theorem modLink_glb (s : State) (l : LinkId) (x : Link → Link) : (s.modLink l x).glb = s.glb := rfl
@[simp] theorem modLink_clk (s : State) (l : LinkId) (x : Link → Link) : (s.modLink l x).clk = s.clk := rfl
@[simp] theorem modLink_boot (s : State) (l : LinkId) (x : Link → Link) : (s.modLink l x).boot = s.boot := rfl
@[simp] theorem modLink_lcd (s : State) (l : LinkId) (x : Link → Link) : (s.modLink l x).lcd = s.lcd := rfl
@[simp] theorem modLink_otp (s : State) (l : LinkId) (x : Link → Link) : (s.modLink l x).otp = s.otp := rfl
@[simp] theorem modLink_keys (s : State) (l : LinkId) (x : Link → Link) : (s.modLink l x).keys = s.keys := rfl
@[simp] theorem modLink_lanes (s : State) (l : LinkId) (x : Link → Link) : (s.modLink l x).lanes = s.lanes := rfl
@[simp] theorem modLink_mem (s : State) (l : LinkId) (x : Link → Link) : (s.modLink l x).mem = s.mem := rfl
@[simp] theorem modLink_doms (s : State) (l : LinkId) (x : Link → Link) : (s.modLink l x).doms = s.doms := rfl
@[simp] theorem modLink_flood (s : State) (l : LinkId) (x : Link → Link) : (s.modLink l x).flood = s.flood := rfl
@[simp] theorem modLink_fab (s : State) (l : LinkId) (x : Link → Link) : (s.modLink l x).fab = s.fab := rfl
@[simp] theorem modLink_fe (s : State) (l : LinkId) (x : Link → Link) : (s.modLink l x).fe = s.fe := rfl
@[simp] theorem modLink_vd (s : State) (l : LinkId) (x : Link → Link) : (s.modLink l x).vd = s.vd := rfl
@[simp] theorem modLink_red (s : State) (l : LinkId) (x : Link → Link) : (s.modLink l x).red = s.red := rfl
@[simp] theorem modLink_flt (s : State) (l : LinkId) (x : Link → Link) : (s.modLink l x).flt = s.flt := rfl
@[simp] theorem modLink_tray (s : State) (l : LinkId) (x : Link → Link) : (s.modLink l x).tray = s.tray := rfl
@[simp] theorem modLink_pwr (s : State) (l : LinkId) (x : Link → Link) : (s.modLink l x).pwr = s.pwr := rfl
@[simp] theorem modLink_isl (s : State) (l : LinkId) (x : Link → Link) : (s.modLink l x).isl = s.isl := rfl
@[simp] theorem modLink_tel (s : State) (l : LinkId) (x : Link → Link) : (s.modLink l x).tel = s.tel := rfl
@[simp] theorem modLink_freeCtr (s : State) (l : LinkId) (x : Link → Link) : (s.modLink l x).freeCtr = s.freeCtr := rfl
@[simp] theorem modLink_outs (s : State) (l : LinkId) (x : Link → Link) : (s.modLink l x).outs = s.outs := rfl
@[simp] theorem modLink_pending (s : State) (l : LinkId) (x : Link → Link) : (s.modLink l x).pending = s.pending := rfl
@[simp] theorem modLink_link_same (s : State) (l : LinkId) (x : Link → Link) : (s.modLink l x).link l = x (s.link l) := Tab.get_set_same _ _ _ _
theorem modLink_link_ne (s : State) (l : LinkId) (x : Link → Link) (y : LinkId) (h : y ≠ l) : (s.modLink l x).link y = s.link y :=
  Tab.get_set_ne _ _ _ fun e => h (BitVec.eq_of_toNat_eq e)
@[simp] theorem modLink_domAt (s : State) (l : LinkId) (x : Link → Link) (y : Slot) : (s.modLink l x).dom y = s.dom y := rfl
@[simp] theorem modLink_ctxAt (s : State) (l : LinkId) (x : Link → Link) (y : CtxId) : (s.modLink l x).ctx y = s.ctx y := rfl
@[simp] theorem modLink_funcAt (s : State) (l : LinkId) (x : Link → Link) (y : Fn) : (s.modLink l x).func y = s.func y := rfl
@[simp] theorem modLink_rowAt (s : State) (l : LinkId) (x : Link → Link) (y : Nat) : (s.modLink l x).row y = s.row y := rfl
@[simp] theorem modLink_chanAt (s : State) (l : LinkId) (x : Link → Link) (y : ChanId) : (s.modLink l x).chan y = s.chan y := rfl
@[simp] theorem modLink_memIdxAt (s : State) (l : LinkId) (x : Link → Link) (y : KeyIdx) : (s.modLink l x).memIdx y = s.memIdx y := rfl
@[simp] theorem modLink_vdevAt (s : State) (l : LinkId) (x : Link → Link) (y : VdId) : (s.modLink l x).vdev y = s.vdev y := rfl
@[simp] theorem modLink_progAt (s : State) (l : LinkId) (x : Link → Link) (y : ProgId) : (s.modLink l x).prog y = s.prog y := rfl
@[simp] theorem modLink_engAt (s : State) (l : LinkId) (x : Link → Link) (y : Nat) : (s.modLink l x).eng y = s.eng y := rfl
@[simp] theorem modLink_tamperAt (s : State) (l : LinkId) (x : Link → Link) (y : BitVec 2) : (s.modLink l x).tamper y = s.tamper y := rfl
@[simp] theorem modLink_mtrAt (s : State) (l : LinkId) (x : Link → Link) (y : Slot) : (s.modLink l x).mtr y = s.mtr y := rfl

@[simp] theorem setDom_sys (s : State) (d : Slot) (x : Dom) : (s.setDom d x).sys = s.sys := rfl
@[simp] theorem setDom_glb (s : State) (d : Slot) (x : Dom) : (s.setDom d x).glb = s.glb := rfl
@[simp] theorem setDom_clk (s : State) (d : Slot) (x : Dom) : (s.setDom d x).clk = s.clk := rfl
@[simp] theorem setDom_boot (s : State) (d : Slot) (x : Dom) : (s.setDom d x).boot = s.boot := rfl
@[simp] theorem setDom_lcd (s : State) (d : Slot) (x : Dom) : (s.setDom d x).lcd = s.lcd := rfl
@[simp] theorem setDom_otp (s : State) (d : Slot) (x : Dom) : (s.setDom d x).otp = s.otp := rfl
@[simp] theorem setDom_keys (s : State) (d : Slot) (x : Dom) : (s.setDom d x).keys = s.keys := rfl
@[simp] theorem setDom_lanes (s : State) (d : Slot) (x : Dom) : (s.setDom d x).lanes = s.lanes := rfl
@[simp] theorem setDom_mem (s : State) (d : Slot) (x : Dom) : (s.setDom d x).mem = s.mem := rfl
@[simp] theorem setDom_links (s : State) (d : Slot) (x : Dom) : (s.setDom d x).links = s.links := rfl
@[simp] theorem setDom_flood (s : State) (d : Slot) (x : Dom) : (s.setDom d x).flood = s.flood := rfl
@[simp] theorem setDom_fab (s : State) (d : Slot) (x : Dom) : (s.setDom d x).fab = s.fab := rfl
@[simp] theorem setDom_fe (s : State) (d : Slot) (x : Dom) : (s.setDom d x).fe = s.fe := rfl
@[simp] theorem setDom_vd (s : State) (d : Slot) (x : Dom) : (s.setDom d x).vd = s.vd := rfl
@[simp] theorem setDom_red (s : State) (d : Slot) (x : Dom) : (s.setDom d x).red = s.red := rfl
@[simp] theorem setDom_flt (s : State) (d : Slot) (x : Dom) : (s.setDom d x).flt = s.flt := rfl
@[simp] theorem setDom_tray (s : State) (d : Slot) (x : Dom) : (s.setDom d x).tray = s.tray := rfl
@[simp] theorem setDom_pwr (s : State) (d : Slot) (x : Dom) : (s.setDom d x).pwr = s.pwr := rfl
@[simp] theorem setDom_isl (s : State) (d : Slot) (x : Dom) : (s.setDom d x).isl = s.isl := rfl
@[simp] theorem setDom_tel (s : State) (d : Slot) (x : Dom) : (s.setDom d x).tel = s.tel := rfl
@[simp] theorem setDom_freeCtr (s : State) (d : Slot) (x : Dom) : (s.setDom d x).freeCtr = s.freeCtr := rfl
@[simp] theorem setDom_outs (s : State) (d : Slot) (x : Dom) : (s.setDom d x).outs = s.outs := rfl
@[simp] theorem setDom_pending (s : State) (d : Slot) (x : Dom) : (s.setDom d x).pending = s.pending := rfl
@[simp] theorem setDom_dom_same (s : State) (d : Slot) (x : Dom) : (s.setDom d x).dom d = x := Tab.get_set_same _ _ _ _
theorem setDom_dom_ne (s : State) (d : Slot) (x : Dom) (y : Slot) (h : y ≠ d) : (s.setDom d x).dom y = s.dom y :=
  Tab.get_set_ne _ _ _ fun e => h (BitVec.eq_of_toNat_eq e)
@[simp] theorem setDom_linkAt (s : State) (d : Slot) (x : Dom) (y : LinkId) : (s.setDom d x).link y = s.link y := rfl
@[simp] theorem setDom_ctxAt (s : State) (d : Slot) (x : Dom) (y : CtxId) : (s.setDom d x).ctx y = s.ctx y := rfl
@[simp] theorem setDom_funcAt (s : State) (d : Slot) (x : Dom) (y : Fn) : (s.setDom d x).func y = s.func y := rfl
@[simp] theorem setDom_rowAt (s : State) (d : Slot) (x : Dom) (y : Nat) : (s.setDom d x).row y = s.row y := rfl
@[simp] theorem setDom_chanAt (s : State) (d : Slot) (x : Dom) (y : ChanId) : (s.setDom d x).chan y = s.chan y := rfl
@[simp] theorem setDom_memIdxAt (s : State) (d : Slot) (x : Dom) (y : KeyIdx) : (s.setDom d x).memIdx y = s.memIdx y := rfl
@[simp] theorem setDom_vdevAt (s : State) (d : Slot) (x : Dom) (y : VdId) : (s.setDom d x).vdev y = s.vdev y := rfl
@[simp] theorem setDom_progAt (s : State) (d : Slot) (x : Dom) (y : ProgId) : (s.setDom d x).prog y = s.prog y := rfl
@[simp] theorem setDom_engAt (s : State) (d : Slot) (x : Dom) (y : Nat) : (s.setDom d x).eng y = s.eng y := rfl
@[simp] theorem setDom_tamperAt (s : State) (d : Slot) (x : Dom) (y : BitVec 2) : (s.setDom d x).tamper y = s.tamper y := rfl
@[simp] theorem setDom_mtrAt (s : State) (d : Slot) (x : Dom) (y : Slot) : (s.setDom d x).mtr y = s.mtr y := rfl

@[simp] theorem modDom_sys (s : State) (d : Slot) (x : Dom → Dom) : (s.modDom d x).sys = s.sys := rfl
@[simp] theorem modDom_glb (s : State) (d : Slot) (x : Dom → Dom) : (s.modDom d x).glb = s.glb := rfl
@[simp] theorem modDom_clk (s : State) (d : Slot) (x : Dom → Dom) : (s.modDom d x).clk = s.clk := rfl
@[simp] theorem modDom_boot (s : State) (d : Slot) (x : Dom → Dom) : (s.modDom d x).boot = s.boot := rfl
@[simp] theorem modDom_lcd (s : State) (d : Slot) (x : Dom → Dom) : (s.modDom d x).lcd = s.lcd := rfl
@[simp] theorem modDom_otp (s : State) (d : Slot) (x : Dom → Dom) : (s.modDom d x).otp = s.otp := rfl
@[simp] theorem modDom_keys (s : State) (d : Slot) (x : Dom → Dom) : (s.modDom d x).keys = s.keys := rfl
@[simp] theorem modDom_lanes (s : State) (d : Slot) (x : Dom → Dom) : (s.modDom d x).lanes = s.lanes := rfl
@[simp] theorem modDom_mem (s : State) (d : Slot) (x : Dom → Dom) : (s.modDom d x).mem = s.mem := rfl
@[simp] theorem modDom_links (s : State) (d : Slot) (x : Dom → Dom) : (s.modDom d x).links = s.links := rfl
@[simp] theorem modDom_flood (s : State) (d : Slot) (x : Dom → Dom) : (s.modDom d x).flood = s.flood := rfl
@[simp] theorem modDom_fab (s : State) (d : Slot) (x : Dom → Dom) : (s.modDom d x).fab = s.fab := rfl
@[simp] theorem modDom_fe (s : State) (d : Slot) (x : Dom → Dom) : (s.modDom d x).fe = s.fe := rfl
@[simp] theorem modDom_vd (s : State) (d : Slot) (x : Dom → Dom) : (s.modDom d x).vd = s.vd := rfl
@[simp] theorem modDom_red (s : State) (d : Slot) (x : Dom → Dom) : (s.modDom d x).red = s.red := rfl
@[simp] theorem modDom_flt (s : State) (d : Slot) (x : Dom → Dom) : (s.modDom d x).flt = s.flt := rfl
@[simp] theorem modDom_tray (s : State) (d : Slot) (x : Dom → Dom) : (s.modDom d x).tray = s.tray := rfl
@[simp] theorem modDom_pwr (s : State) (d : Slot) (x : Dom → Dom) : (s.modDom d x).pwr = s.pwr := rfl
@[simp] theorem modDom_isl (s : State) (d : Slot) (x : Dom → Dom) : (s.modDom d x).isl = s.isl := rfl
@[simp] theorem modDom_tel (s : State) (d : Slot) (x : Dom → Dom) : (s.modDom d x).tel = s.tel := rfl
@[simp] theorem modDom_freeCtr (s : State) (d : Slot) (x : Dom → Dom) : (s.modDom d x).freeCtr = s.freeCtr := rfl
@[simp] theorem modDom_outs (s : State) (d : Slot) (x : Dom → Dom) : (s.modDom d x).outs = s.outs := rfl
@[simp] theorem modDom_pending (s : State) (d : Slot) (x : Dom → Dom) : (s.modDom d x).pending = s.pending := rfl
@[simp] theorem modDom_dom_same (s : State) (d : Slot) (x : Dom → Dom) : (s.modDom d x).dom d = x (s.dom d) := Tab.get_set_same _ _ _ _
theorem modDom_dom_ne (s : State) (d : Slot) (x : Dom → Dom) (y : Slot) (h : y ≠ d) : (s.modDom d x).dom y = s.dom y :=
  Tab.get_set_ne _ _ _ fun e => h (BitVec.eq_of_toNat_eq e)
@[simp] theorem modDom_linkAt (s : State) (d : Slot) (x : Dom → Dom) (y : LinkId) : (s.modDom d x).link y = s.link y := rfl
@[simp] theorem modDom_ctxAt (s : State) (d : Slot) (x : Dom → Dom) (y : CtxId) : (s.modDom d x).ctx y = s.ctx y := rfl
@[simp] theorem modDom_funcAt (s : State) (d : Slot) (x : Dom → Dom) (y : Fn) : (s.modDom d x).func y = s.func y := rfl
@[simp] theorem modDom_rowAt (s : State) (d : Slot) (x : Dom → Dom) (y : Nat) : (s.modDom d x).row y = s.row y := rfl
@[simp] theorem modDom_chanAt (s : State) (d : Slot) (x : Dom → Dom) (y : ChanId) : (s.modDom d x).chan y = s.chan y := rfl
@[simp] theorem modDom_memIdxAt (s : State) (d : Slot) (x : Dom → Dom) (y : KeyIdx) : (s.modDom d x).memIdx y = s.memIdx y := rfl
@[simp] theorem modDom_vdevAt (s : State) (d : Slot) (x : Dom → Dom) (y : VdId) : (s.modDom d x).vdev y = s.vdev y := rfl
@[simp] theorem modDom_progAt (s : State) (d : Slot) (x : Dom → Dom) (y : ProgId) : (s.modDom d x).prog y = s.prog y := rfl
@[simp] theorem modDom_engAt (s : State) (d : Slot) (x : Dom → Dom) (y : Nat) : (s.modDom d x).eng y = s.eng y := rfl
@[simp] theorem modDom_tamperAt (s : State) (d : Slot) (x : Dom → Dom) (y : BitVec 2) : (s.modDom d x).tamper y = s.tamper y := rfl
@[simp] theorem modDom_mtrAt (s : State) (d : Slot) (x : Dom → Dom) (y : Slot) : (s.modDom d x).mtr y = s.mtr y := rfl

@[simp] theorem setCtx_sys (s : State) (c : CtxId) (x : Ctx) : (s.setCtx c x).sys = s.sys := rfl
@[simp] theorem setCtx_glb (s : State) (c : CtxId) (x : Ctx) : (s.setCtx c x).glb = s.glb := rfl
@[simp] theorem setCtx_clk (s : State) (c : CtxId) (x : Ctx) : (s.setCtx c x).clk = s.clk := rfl
@[simp] theorem setCtx_boot (s : State) (c : CtxId) (x : Ctx) : (s.setCtx c x).boot = s.boot := rfl
@[simp] theorem setCtx_lcd (s : State) (c : CtxId) (x : Ctx) : (s.setCtx c x).lcd = s.lcd := rfl
@[simp] theorem setCtx_otp (s : State) (c : CtxId) (x : Ctx) : (s.setCtx c x).otp = s.otp := rfl
@[simp] theorem setCtx_keys (s : State) (c : CtxId) (x : Ctx) : (s.setCtx c x).keys = s.keys := rfl
@[simp] theorem setCtx_lanes (s : State) (c : CtxId) (x : Ctx) : (s.setCtx c x).lanes = s.lanes := rfl
@[simp] theorem setCtx_mem (s : State) (c : CtxId) (x : Ctx) : (s.setCtx c x).mem = s.mem := rfl
@[simp] theorem setCtx_links (s : State) (c : CtxId) (x : Ctx) : (s.setCtx c x).links = s.links := rfl
@[simp] theorem setCtx_doms (s : State) (c : CtxId) (x : Ctx) : (s.setCtx c x).doms = s.doms := rfl
@[simp] theorem setCtx_flood (s : State) (c : CtxId) (x : Ctx) : (s.setCtx c x).flood = s.flood := rfl
@[simp] theorem setCtx_fab (s : State) (c : CtxId) (x : Ctx) : (s.setCtx c x).fab = s.fab := rfl
@[simp] theorem setCtx_vd (s : State) (c : CtxId) (x : Ctx) : (s.setCtx c x).vd = s.vd := rfl
@[simp] theorem setCtx_red (s : State) (c : CtxId) (x : Ctx) : (s.setCtx c x).red = s.red := rfl
@[simp] theorem setCtx_flt (s : State) (c : CtxId) (x : Ctx) : (s.setCtx c x).flt = s.flt := rfl
@[simp] theorem setCtx_tray (s : State) (c : CtxId) (x : Ctx) : (s.setCtx c x).tray = s.tray := rfl
@[simp] theorem setCtx_pwr (s : State) (c : CtxId) (x : Ctx) : (s.setCtx c x).pwr = s.pwr := rfl
@[simp] theorem setCtx_isl (s : State) (c : CtxId) (x : Ctx) : (s.setCtx c x).isl = s.isl := rfl
@[simp] theorem setCtx_tel (s : State) (c : CtxId) (x : Ctx) : (s.setCtx c x).tel = s.tel := rfl
@[simp] theorem setCtx_freeCtr (s : State) (c : CtxId) (x : Ctx) : (s.setCtx c x).freeCtr = s.freeCtr := rfl
@[simp] theorem setCtx_outs (s : State) (c : CtxId) (x : Ctx) : (s.setCtx c x).outs = s.outs := rfl
@[simp] theorem setCtx_pending (s : State) (c : CtxId) (x : Ctx) : (s.setCtx c x).pending = s.pending := rfl
@[simp] theorem setCtx_ctx_same (s : State) (c : CtxId) (x : Ctx) : (s.setCtx c x).ctx c = x := Tab.get_set_same _ _ _ _
theorem setCtx_ctx_ne (s : State) (c : CtxId) (x : Ctx) (y : CtxId) (h : y ≠ c) : (s.setCtx c x).ctx y = s.ctx y :=
  Tab.get_set_ne _ _ _ fun e => h (BitVec.eq_of_toNat_eq e)
@[simp] theorem setCtx_linkAt (s : State) (c : CtxId) (x : Ctx) (y : LinkId) : (s.setCtx c x).link y = s.link y := rfl
@[simp] theorem setCtx_domAt (s : State) (c : CtxId) (x : Ctx) (y : Slot) : (s.setCtx c x).dom y = s.dom y := rfl
@[simp] theorem setCtx_funcAt (s : State) (c : CtxId) (x : Ctx) (y : Fn) : (s.setCtx c x).func y = s.func y := rfl
@[simp] theorem setCtx_rowAt (s : State) (c : CtxId) (x : Ctx) (y : Nat) : (s.setCtx c x).row y = s.row y := rfl
@[simp] theorem setCtx_chanAt (s : State) (c : CtxId) (x : Ctx) (y : ChanId) : (s.setCtx c x).chan y = s.chan y := rfl
@[simp] theorem setCtx_memIdxAt (s : State) (c : CtxId) (x : Ctx) (y : KeyIdx) : (s.setCtx c x).memIdx y = s.memIdx y := rfl
@[simp] theorem setCtx_vdevAt (s : State) (c : CtxId) (x : Ctx) (y : VdId) : (s.setCtx c x).vdev y = s.vdev y := rfl
@[simp] theorem setCtx_progAt (s : State) (c : CtxId) (x : Ctx) (y : ProgId) : (s.setCtx c x).prog y = s.prog y := rfl
@[simp] theorem setCtx_engAt (s : State) (c : CtxId) (x : Ctx) (y : Nat) : (s.setCtx c x).eng y = s.eng y := rfl
@[simp] theorem setCtx_tamperAt (s : State) (c : CtxId) (x : Ctx) (y : BitVec 2) : (s.setCtx c x).tamper y = s.tamper y := rfl
@[simp] theorem setCtx_mtrAt (s : State) (c : CtxId) (x : Ctx) (y : Slot) : (s.setCtx c x).mtr y = s.mtr y := rfl

@[simp] theorem modCtx_sys (s : State) (c : CtxId) (x : Ctx → Ctx) : (s.modCtx c x).sys = s.sys := rfl
@[simp] theorem modCtx_glb (s : State) (c : CtxId) (x : Ctx → Ctx) : (s.modCtx c x).glb = s.glb := rfl
@[simp] theorem modCtx_clk (s : State) (c : CtxId) (x : Ctx → Ctx) : (s.modCtx c x).clk = s.clk := rfl
@[simp] theorem modCtx_boot (s : State) (c : CtxId) (x : Ctx → Ctx) : (s.modCtx c x).boot = s.boot := rfl
@[simp] theorem modCtx_lcd (s : State) (c : CtxId) (x : Ctx → Ctx) : (s.modCtx c x).lcd = s.lcd := rfl
@[simp] theorem modCtx_otp (s : State) (c : CtxId) (x : Ctx → Ctx) : (s.modCtx c x).otp = s.otp := rfl
@[simp] theorem modCtx_keys (s : State) (c : CtxId) (x : Ctx → Ctx) : (s.modCtx c x).keys = s.keys := rfl
@[simp] theorem modCtx_lanes (s : State) (c : CtxId) (x : Ctx → Ctx) : (s.modCtx c x).lanes = s.lanes := rfl
@[simp] theorem modCtx_mem (s : State) (c : CtxId) (x : Ctx → Ctx) : (s.modCtx c x).mem = s.mem := rfl
@[simp] theorem modCtx_links (s : State) (c : CtxId) (x : Ctx → Ctx) : (s.modCtx c x).links = s.links := rfl
@[simp] theorem modCtx_doms (s : State) (c : CtxId) (x : Ctx → Ctx) : (s.modCtx c x).doms = s.doms := rfl
@[simp] theorem modCtx_flood (s : State) (c : CtxId) (x : Ctx → Ctx) : (s.modCtx c x).flood = s.flood := rfl
@[simp] theorem modCtx_fab (s : State) (c : CtxId) (x : Ctx → Ctx) : (s.modCtx c x).fab = s.fab := rfl
@[simp] theorem modCtx_vd (s : State) (c : CtxId) (x : Ctx → Ctx) : (s.modCtx c x).vd = s.vd := rfl
@[simp] theorem modCtx_red (s : State) (c : CtxId) (x : Ctx → Ctx) : (s.modCtx c x).red = s.red := rfl
@[simp] theorem modCtx_flt (s : State) (c : CtxId) (x : Ctx → Ctx) : (s.modCtx c x).flt = s.flt := rfl
@[simp] theorem modCtx_tray (s : State) (c : CtxId) (x : Ctx → Ctx) : (s.modCtx c x).tray = s.tray := rfl
@[simp] theorem modCtx_pwr (s : State) (c : CtxId) (x : Ctx → Ctx) : (s.modCtx c x).pwr = s.pwr := rfl
@[simp] theorem modCtx_isl (s : State) (c : CtxId) (x : Ctx → Ctx) : (s.modCtx c x).isl = s.isl := rfl
@[simp] theorem modCtx_tel (s : State) (c : CtxId) (x : Ctx → Ctx) : (s.modCtx c x).tel = s.tel := rfl
@[simp] theorem modCtx_freeCtr (s : State) (c : CtxId) (x : Ctx → Ctx) : (s.modCtx c x).freeCtr = s.freeCtr := rfl
@[simp] theorem modCtx_outs (s : State) (c : CtxId) (x : Ctx → Ctx) : (s.modCtx c x).outs = s.outs := rfl
@[simp] theorem modCtx_pending (s : State) (c : CtxId) (x : Ctx → Ctx) : (s.modCtx c x).pending = s.pending := rfl
@[simp] theorem modCtx_ctx_same (s : State) (c : CtxId) (x : Ctx → Ctx) : (s.modCtx c x).ctx c = x (s.ctx c) := Tab.get_set_same _ _ _ _
theorem modCtx_ctx_ne (s : State) (c : CtxId) (x : Ctx → Ctx) (y : CtxId) (h : y ≠ c) : (s.modCtx c x).ctx y = s.ctx y :=
  Tab.get_set_ne _ _ _ fun e => h (BitVec.eq_of_toNat_eq e)
@[simp] theorem modCtx_linkAt (s : State) (c : CtxId) (x : Ctx → Ctx) (y : LinkId) : (s.modCtx c x).link y = s.link y := rfl
@[simp] theorem modCtx_domAt (s : State) (c : CtxId) (x : Ctx → Ctx) (y : Slot) : (s.modCtx c x).dom y = s.dom y := rfl
@[simp] theorem modCtx_funcAt (s : State) (c : CtxId) (x : Ctx → Ctx) (y : Fn) : (s.modCtx c x).func y = s.func y := rfl
@[simp] theorem modCtx_rowAt (s : State) (c : CtxId) (x : Ctx → Ctx) (y : Nat) : (s.modCtx c x).row y = s.row y := rfl
@[simp] theorem modCtx_chanAt (s : State) (c : CtxId) (x : Ctx → Ctx) (y : ChanId) : (s.modCtx c x).chan y = s.chan y := rfl
@[simp] theorem modCtx_memIdxAt (s : State) (c : CtxId) (x : Ctx → Ctx) (y : KeyIdx) : (s.modCtx c x).memIdx y = s.memIdx y := rfl
@[simp] theorem modCtx_vdevAt (s : State) (c : CtxId) (x : Ctx → Ctx) (y : VdId) : (s.modCtx c x).vdev y = s.vdev y := rfl
@[simp] theorem modCtx_progAt (s : State) (c : CtxId) (x : Ctx → Ctx) (y : ProgId) : (s.modCtx c x).prog y = s.prog y := rfl
@[simp] theorem modCtx_engAt (s : State) (c : CtxId) (x : Ctx → Ctx) (y : Nat) : (s.modCtx c x).eng y = s.eng y := rfl
@[simp] theorem modCtx_tamperAt (s : State) (c : CtxId) (x : Ctx → Ctx) (y : BitVec 2) : (s.modCtx c x).tamper y = s.tamper y := rfl
@[simp] theorem modCtx_mtrAt (s : State) (c : CtxId) (x : Ctx → Ctx) (y : Slot) : (s.modCtx c x).mtr y = s.mtr y := rfl

@[simp] theorem setFunc_sys (s : State) (f : Fn) (x : Func) : (s.setFunc f x).sys = s.sys := rfl
@[simp] theorem setFunc_glb (s : State) (f : Fn) (x : Func) : (s.setFunc f x).glb = s.glb := rfl
@[simp] theorem setFunc_clk (s : State) (f : Fn) (x : Func) : (s.setFunc f x).clk = s.clk := rfl
@[simp] theorem setFunc_boot (s : State) (f : Fn) (x : Func) : (s.setFunc f x).boot = s.boot := rfl
@[simp] theorem setFunc_lcd (s : State) (f : Fn) (x : Func) : (s.setFunc f x).lcd = s.lcd := rfl
@[simp] theorem setFunc_otp (s : State) (f : Fn) (x : Func) : (s.setFunc f x).otp = s.otp := rfl
@[simp] theorem setFunc_keys (s : State) (f : Fn) (x : Func) : (s.setFunc f x).keys = s.keys := rfl
@[simp] theorem setFunc_lanes (s : State) (f : Fn) (x : Func) : (s.setFunc f x).lanes = s.lanes := rfl
@[simp] theorem setFunc_mem (s : State) (f : Fn) (x : Func) : (s.setFunc f x).mem = s.mem := rfl
@[simp] theorem setFunc_links (s : State) (f : Fn) (x : Func) : (s.setFunc f x).links = s.links := rfl
@[simp] theorem setFunc_doms (s : State) (f : Fn) (x : Func) : (s.setFunc f x).doms = s.doms := rfl
@[simp] theorem setFunc_flood (s : State) (f : Fn) (x : Func) : (s.setFunc f x).flood = s.flood := rfl
@[simp] theorem setFunc_fab (s : State) (f : Fn) (x : Func) : (s.setFunc f x).fab = s.fab := rfl
@[simp] theorem setFunc_vd (s : State) (f : Fn) (x : Func) : (s.setFunc f x).vd = s.vd := rfl
@[simp] theorem setFunc_red (s : State) (f : Fn) (x : Func) : (s.setFunc f x).red = s.red := rfl
@[simp] theorem setFunc_flt (s : State) (f : Fn) (x : Func) : (s.setFunc f x).flt = s.flt := rfl
@[simp] theorem setFunc_tray (s : State) (f : Fn) (x : Func) : (s.setFunc f x).tray = s.tray := rfl
@[simp] theorem setFunc_pwr (s : State) (f : Fn) (x : Func) : (s.setFunc f x).pwr = s.pwr := rfl
@[simp] theorem setFunc_isl (s : State) (f : Fn) (x : Func) : (s.setFunc f x).isl = s.isl := rfl
@[simp] theorem setFunc_tel (s : State) (f : Fn) (x : Func) : (s.setFunc f x).tel = s.tel := rfl
@[simp] theorem setFunc_freeCtr (s : State) (f : Fn) (x : Func) : (s.setFunc f x).freeCtr = s.freeCtr := rfl
@[simp] theorem setFunc_outs (s : State) (f : Fn) (x : Func) : (s.setFunc f x).outs = s.outs := rfl
@[simp] theorem setFunc_pending (s : State) (f : Fn) (x : Func) : (s.setFunc f x).pending = s.pending := rfl
@[simp] theorem setFunc_func_same (s : State) (f : Fn) (x : Func) : (s.setFunc f x).func f = x := Tab.get_set_same _ _ _ _
theorem setFunc_func_ne (s : State) (f : Fn) (x : Func) (y : Fn) (h : y ≠ f) : (s.setFunc f x).func y = s.func y :=
  Tab.get_set_ne _ _ _ fun e => h (BitVec.eq_of_toNat_eq e)
@[simp] theorem setFunc_linkAt (s : State) (f : Fn) (x : Func) (y : LinkId) : (s.setFunc f x).link y = s.link y := rfl
@[simp] theorem setFunc_domAt (s : State) (f : Fn) (x : Func) (y : Slot) : (s.setFunc f x).dom y = s.dom y := rfl
@[simp] theorem setFunc_ctxAt (s : State) (f : Fn) (x : Func) (y : CtxId) : (s.setFunc f x).ctx y = s.ctx y := rfl
@[simp] theorem setFunc_rowAt (s : State) (f : Fn) (x : Func) (y : Nat) : (s.setFunc f x).row y = s.row y := rfl
@[simp] theorem setFunc_chanAt (s : State) (f : Fn) (x : Func) (y : ChanId) : (s.setFunc f x).chan y = s.chan y := rfl
@[simp] theorem setFunc_memIdxAt (s : State) (f : Fn) (x : Func) (y : KeyIdx) : (s.setFunc f x).memIdx y = s.memIdx y := rfl
@[simp] theorem setFunc_vdevAt (s : State) (f : Fn) (x : Func) (y : VdId) : (s.setFunc f x).vdev y = s.vdev y := rfl
@[simp] theorem setFunc_progAt (s : State) (f : Fn) (x : Func) (y : ProgId) : (s.setFunc f x).prog y = s.prog y := rfl
@[simp] theorem setFunc_engAt (s : State) (f : Fn) (x : Func) (y : Nat) : (s.setFunc f x).eng y = s.eng y := rfl
@[simp] theorem setFunc_tamperAt (s : State) (f : Fn) (x : Func) (y : BitVec 2) : (s.setFunc f x).tamper y = s.tamper y := rfl
@[simp] theorem setFunc_mtrAt (s : State) (f : Fn) (x : Func) (y : Slot) : (s.setFunc f x).mtr y = s.mtr y := rfl

@[simp] theorem modFunc_sys (s : State) (f : Fn) (x : Func → Func) : (s.modFunc f x).sys = s.sys := rfl
@[simp] theorem modFunc_glb (s : State) (f : Fn) (x : Func → Func) : (s.modFunc f x).glb = s.glb := rfl
@[simp] theorem modFunc_clk (s : State) (f : Fn) (x : Func → Func) : (s.modFunc f x).clk = s.clk := rfl
@[simp] theorem modFunc_boot (s : State) (f : Fn) (x : Func → Func) : (s.modFunc f x).boot = s.boot := rfl
@[simp] theorem modFunc_lcd (s : State) (f : Fn) (x : Func → Func) : (s.modFunc f x).lcd = s.lcd := rfl
@[simp] theorem modFunc_otp (s : State) (f : Fn) (x : Func → Func) : (s.modFunc f x).otp = s.otp := rfl
@[simp] theorem modFunc_keys (s : State) (f : Fn) (x : Func → Func) : (s.modFunc f x).keys = s.keys := rfl
@[simp] theorem modFunc_lanes (s : State) (f : Fn) (x : Func → Func) : (s.modFunc f x).lanes = s.lanes := rfl
@[simp] theorem modFunc_mem (s : State) (f : Fn) (x : Func → Func) : (s.modFunc f x).mem = s.mem := rfl
@[simp] theorem modFunc_links (s : State) (f : Fn) (x : Func → Func) : (s.modFunc f x).links = s.links := rfl
@[simp] theorem modFunc_doms (s : State) (f : Fn) (x : Func → Func) : (s.modFunc f x).doms = s.doms := rfl
@[simp] theorem modFunc_flood (s : State) (f : Fn) (x : Func → Func) : (s.modFunc f x).flood = s.flood := rfl
@[simp] theorem modFunc_fab (s : State) (f : Fn) (x : Func → Func) : (s.modFunc f x).fab = s.fab := rfl
@[simp] theorem modFunc_vd (s : State) (f : Fn) (x : Func → Func) : (s.modFunc f x).vd = s.vd := rfl
@[simp] theorem modFunc_red (s : State) (f : Fn) (x : Func → Func) : (s.modFunc f x).red = s.red := rfl
@[simp] theorem modFunc_flt (s : State) (f : Fn) (x : Func → Func) : (s.modFunc f x).flt = s.flt := rfl
@[simp] theorem modFunc_tray (s : State) (f : Fn) (x : Func → Func) : (s.modFunc f x).tray = s.tray := rfl
@[simp] theorem modFunc_pwr (s : State) (f : Fn) (x : Func → Func) : (s.modFunc f x).pwr = s.pwr := rfl
@[simp] theorem modFunc_isl (s : State) (f : Fn) (x : Func → Func) : (s.modFunc f x).isl = s.isl := rfl
@[simp] theorem modFunc_tel (s : State) (f : Fn) (x : Func → Func) : (s.modFunc f x).tel = s.tel := rfl
@[simp] theorem modFunc_freeCtr (s : State) (f : Fn) (x : Func → Func) : (s.modFunc f x).freeCtr = s.freeCtr := rfl
@[simp] theorem modFunc_outs (s : State) (f : Fn) (x : Func → Func) : (s.modFunc f x).outs = s.outs := rfl
@[simp] theorem modFunc_pending (s : State) (f : Fn) (x : Func → Func) : (s.modFunc f x).pending = s.pending := rfl
@[simp] theorem modFunc_func_same (s : State) (f : Fn) (x : Func → Func) : (s.modFunc f x).func f = x (s.func f) := Tab.get_set_same _ _ _ _
theorem modFunc_func_ne (s : State) (f : Fn) (x : Func → Func) (y : Fn) (h : y ≠ f) : (s.modFunc f x).func y = s.func y :=
  Tab.get_set_ne _ _ _ fun e => h (BitVec.eq_of_toNat_eq e)
@[simp] theorem modFunc_linkAt (s : State) (f : Fn) (x : Func → Func) (y : LinkId) : (s.modFunc f x).link y = s.link y := rfl
@[simp] theorem modFunc_domAt (s : State) (f : Fn) (x : Func → Func) (y : Slot) : (s.modFunc f x).dom y = s.dom y := rfl
@[simp] theorem modFunc_ctxAt (s : State) (f : Fn) (x : Func → Func) (y : CtxId) : (s.modFunc f x).ctx y = s.ctx y := rfl
@[simp] theorem modFunc_rowAt (s : State) (f : Fn) (x : Func → Func) (y : Nat) : (s.modFunc f x).row y = s.row y := rfl
@[simp] theorem modFunc_chanAt (s : State) (f : Fn) (x : Func → Func) (y : ChanId) : (s.modFunc f x).chan y = s.chan y := rfl
@[simp] theorem modFunc_memIdxAt (s : State) (f : Fn) (x : Func → Func) (y : KeyIdx) : (s.modFunc f x).memIdx y = s.memIdx y := rfl
@[simp] theorem modFunc_vdevAt (s : State) (f : Fn) (x : Func → Func) (y : VdId) : (s.modFunc f x).vdev y = s.vdev y := rfl
@[simp] theorem modFunc_progAt (s : State) (f : Fn) (x : Func → Func) (y : ProgId) : (s.modFunc f x).prog y = s.prog y := rfl
@[simp] theorem modFunc_engAt (s : State) (f : Fn) (x : Func → Func) (y : Nat) : (s.modFunc f x).eng y = s.eng y := rfl
@[simp] theorem modFunc_tamperAt (s : State) (f : Fn) (x : Func → Func) (y : BitVec 2) : (s.modFunc f x).tamper y = s.tamper y := rfl
@[simp] theorem modFunc_mtrAt (s : State) (f : Fn) (x : Func → Func) (y : Slot) : (s.modFunc f x).mtr y = s.mtr y := rfl

@[simp] theorem setRow_sys (s : State) (r : Nat) (x : KeyRow) : (s.setRow r x).sys = s.sys := rfl
@[simp] theorem setRow_glb (s : State) (r : Nat) (x : KeyRow) : (s.setRow r x).glb = s.glb := rfl
@[simp] theorem setRow_clk (s : State) (r : Nat) (x : KeyRow) : (s.setRow r x).clk = s.clk := rfl
@[simp] theorem setRow_boot (s : State) (r : Nat) (x : KeyRow) : (s.setRow r x).boot = s.boot := rfl
@[simp] theorem setRow_lcd (s : State) (r : Nat) (x : KeyRow) : (s.setRow r x).lcd = s.lcd := rfl
@[simp] theorem setRow_otp (s : State) (r : Nat) (x : KeyRow) : (s.setRow r x).otp = s.otp := rfl
@[simp] theorem setRow_lanes (s : State) (r : Nat) (x : KeyRow) : (s.setRow r x).lanes = s.lanes := rfl
@[simp] theorem setRow_mem (s : State) (r : Nat) (x : KeyRow) : (s.setRow r x).mem = s.mem := rfl
@[simp] theorem setRow_links (s : State) (r : Nat) (x : KeyRow) : (s.setRow r x).links = s.links := rfl
@[simp] theorem setRow_doms (s : State) (r : Nat) (x : KeyRow) : (s.setRow r x).doms = s.doms := rfl
@[simp] theorem setRow_flood (s : State) (r : Nat) (x : KeyRow) : (s.setRow r x).flood = s.flood := rfl
@[simp] theorem setRow_fab (s : State) (r : Nat) (x : KeyRow) : (s.setRow r x).fab = s.fab := rfl
@[simp] theorem setRow_fe (s : State) (r : Nat) (x : KeyRow) : (s.setRow r x).fe = s.fe := rfl
@[simp] theorem setRow_vd (s : State) (r : Nat) (x : KeyRow) : (s.setRow r x).vd = s.vd := rfl
@[simp] theorem setRow_red (s : State) (r : Nat) (x : KeyRow) : (s.setRow r x).red = s.red := rfl
@[simp] theorem setRow_flt (s : State) (r : Nat) (x : KeyRow) : (s.setRow r x).flt = s.flt := rfl
@[simp] theorem setRow_tray (s : State) (r : Nat) (x : KeyRow) : (s.setRow r x).tray = s.tray := rfl
@[simp] theorem setRow_pwr (s : State) (r : Nat) (x : KeyRow) : (s.setRow r x).pwr = s.pwr := rfl
@[simp] theorem setRow_isl (s : State) (r : Nat) (x : KeyRow) : (s.setRow r x).isl = s.isl := rfl
@[simp] theorem setRow_tel (s : State) (r : Nat) (x : KeyRow) : (s.setRow r x).tel = s.tel := rfl
@[simp] theorem setRow_freeCtr (s : State) (r : Nat) (x : KeyRow) : (s.setRow r x).freeCtr = s.freeCtr := rfl
@[simp] theorem setRow_outs (s : State) (r : Nat) (x : KeyRow) : (s.setRow r x).outs = s.outs := rfl
@[simp] theorem setRow_pending (s : State) (r : Nat) (x : KeyRow) : (s.setRow r x).pending = s.pending := rfl
@[simp] theorem setRow_row_same (s : State) (r : Nat) (x : KeyRow) : (s.setRow r x).row r = x := Tab.get_set_same _ _ _ _
theorem setRow_row_ne (s : State) (r : Nat) (x : KeyRow) (y : Nat) (h : y ≠ r) : (s.setRow r x).row y = s.row y :=
  Tab.get_set_ne _ _ _ h
@[simp] theorem setRow_linkAt (s : State) (r : Nat) (x : KeyRow) (y : LinkId) : (s.setRow r x).link y = s.link y := rfl
@[simp] theorem setRow_domAt (s : State) (r : Nat) (x : KeyRow) (y : Slot) : (s.setRow r x).dom y = s.dom y := rfl
@[simp] theorem setRow_ctxAt (s : State) (r : Nat) (x : KeyRow) (y : CtxId) : (s.setRow r x).ctx y = s.ctx y := rfl
@[simp] theorem setRow_funcAt (s : State) (r : Nat) (x : KeyRow) (y : Fn) : (s.setRow r x).func y = s.func y := rfl
@[simp] theorem setRow_chanAt (s : State) (r : Nat) (x : KeyRow) (y : ChanId) : (s.setRow r x).chan y = s.chan y := rfl
@[simp] theorem setRow_memIdxAt (s : State) (r : Nat) (x : KeyRow) (y : KeyIdx) : (s.setRow r x).memIdx y = s.memIdx y := rfl
@[simp] theorem setRow_vdevAt (s : State) (r : Nat) (x : KeyRow) (y : VdId) : (s.setRow r x).vdev y = s.vdev y := rfl
@[simp] theorem setRow_progAt (s : State) (r : Nat) (x : KeyRow) (y : ProgId) : (s.setRow r x).prog y = s.prog y := rfl
@[simp] theorem setRow_engAt (s : State) (r : Nat) (x : KeyRow) (y : Nat) : (s.setRow r x).eng y = s.eng y := rfl
@[simp] theorem setRow_tamperAt (s : State) (r : Nat) (x : KeyRow) (y : BitVec 2) : (s.setRow r x).tamper y = s.tamper y := rfl
@[simp] theorem setRow_mtrAt (s : State) (r : Nat) (x : KeyRow) (y : Slot) : (s.setRow r x).mtr y = s.mtr y := rfl

@[simp] theorem setChan_sys (s : State) (c : ChanId) (x : McChan) : (s.setChan c x).sys = s.sys := rfl
@[simp] theorem setChan_glb (s : State) (c : ChanId) (x : McChan) : (s.setChan c x).glb = s.glb := rfl
@[simp] theorem setChan_clk (s : State) (c : ChanId) (x : McChan) : (s.setChan c x).clk = s.clk := rfl
@[simp] theorem setChan_boot (s : State) (c : ChanId) (x : McChan) : (s.setChan c x).boot = s.boot := rfl
@[simp] theorem setChan_lcd (s : State) (c : ChanId) (x : McChan) : (s.setChan c x).lcd = s.lcd := rfl
@[simp] theorem setChan_otp (s : State) (c : ChanId) (x : McChan) : (s.setChan c x).otp = s.otp := rfl
@[simp] theorem setChan_keys (s : State) (c : ChanId) (x : McChan) : (s.setChan c x).keys = s.keys := rfl
@[simp] theorem setChan_lanes (s : State) (c : ChanId) (x : McChan) : (s.setChan c x).lanes = s.lanes := rfl
@[simp] theorem setChan_links (s : State) (c : ChanId) (x : McChan) : (s.setChan c x).links = s.links := rfl
@[simp] theorem setChan_doms (s : State) (c : ChanId) (x : McChan) : (s.setChan c x).doms = s.doms := rfl
@[simp] theorem setChan_flood (s : State) (c : ChanId) (x : McChan) : (s.setChan c x).flood = s.flood := rfl
@[simp] theorem setChan_fab (s : State) (c : ChanId) (x : McChan) : (s.setChan c x).fab = s.fab := rfl
@[simp] theorem setChan_fe (s : State) (c : ChanId) (x : McChan) : (s.setChan c x).fe = s.fe := rfl
@[simp] theorem setChan_vd (s : State) (c : ChanId) (x : McChan) : (s.setChan c x).vd = s.vd := rfl
@[simp] theorem setChan_red (s : State) (c : ChanId) (x : McChan) : (s.setChan c x).red = s.red := rfl
@[simp] theorem setChan_flt (s : State) (c : ChanId) (x : McChan) : (s.setChan c x).flt = s.flt := rfl
@[simp] theorem setChan_tray (s : State) (c : ChanId) (x : McChan) : (s.setChan c x).tray = s.tray := rfl
@[simp] theorem setChan_pwr (s : State) (c : ChanId) (x : McChan) : (s.setChan c x).pwr = s.pwr := rfl
@[simp] theorem setChan_isl (s : State) (c : ChanId) (x : McChan) : (s.setChan c x).isl = s.isl := rfl
@[simp] theorem setChan_tel (s : State) (c : ChanId) (x : McChan) : (s.setChan c x).tel = s.tel := rfl
@[simp] theorem setChan_freeCtr (s : State) (c : ChanId) (x : McChan) : (s.setChan c x).freeCtr = s.freeCtr := rfl
@[simp] theorem setChan_outs (s : State) (c : ChanId) (x : McChan) : (s.setChan c x).outs = s.outs := rfl
@[simp] theorem setChan_pending (s : State) (c : ChanId) (x : McChan) : (s.setChan c x).pending = s.pending := rfl
@[simp] theorem setChan_chan_same (s : State) (c : ChanId) (x : McChan) : (s.setChan c x).chan c = x := Tab.get_set_same _ _ _ _
theorem setChan_chan_ne (s : State) (c : ChanId) (x : McChan) (y : ChanId) (h : y ≠ c) : (s.setChan c x).chan y = s.chan y :=
  Tab.get_set_ne _ _ _ fun e => h (BitVec.eq_of_toNat_eq e)
@[simp] theorem setChan_linkAt (s : State) (c : ChanId) (x : McChan) (y : LinkId) : (s.setChan c x).link y = s.link y := rfl
@[simp] theorem setChan_domAt (s : State) (c : ChanId) (x : McChan) (y : Slot) : (s.setChan c x).dom y = s.dom y := rfl
@[simp] theorem setChan_ctxAt (s : State) (c : ChanId) (x : McChan) (y : CtxId) : (s.setChan c x).ctx y = s.ctx y := rfl
@[simp] theorem setChan_funcAt (s : State) (c : ChanId) (x : McChan) (y : Fn) : (s.setChan c x).func y = s.func y := rfl
@[simp] theorem setChan_rowAt (s : State) (c : ChanId) (x : McChan) (y : Nat) : (s.setChan c x).row y = s.row y := rfl
@[simp] theorem setChan_memIdxAt (s : State) (c : ChanId) (x : McChan) (y : KeyIdx) : (s.setChan c x).memIdx y = s.memIdx y := rfl
@[simp] theorem setChan_vdevAt (s : State) (c : ChanId) (x : McChan) (y : VdId) : (s.setChan c x).vdev y = s.vdev y := rfl
@[simp] theorem setChan_progAt (s : State) (c : ChanId) (x : McChan) (y : ProgId) : (s.setChan c x).prog y = s.prog y := rfl
@[simp] theorem setChan_engAt (s : State) (c : ChanId) (x : McChan) (y : Nat) : (s.setChan c x).eng y = s.eng y := rfl
@[simp] theorem setChan_tamperAt (s : State) (c : ChanId) (x : McChan) (y : BitVec 2) : (s.setChan c x).tamper y = s.tamper y := rfl
@[simp] theorem setChan_mtrAt (s : State) (c : ChanId) (x : McChan) (y : Slot) : (s.setChan c x).mtr y = s.mtr y := rfl

@[simp] theorem modChan_sys (s : State) (c : ChanId) (x : McChan → McChan) : (s.modChan c x).sys = s.sys := rfl
@[simp] theorem modChan_glb (s : State) (c : ChanId) (x : McChan → McChan) : (s.modChan c x).glb = s.glb := rfl
@[simp] theorem modChan_clk (s : State) (c : ChanId) (x : McChan → McChan) : (s.modChan c x).clk = s.clk := rfl
@[simp] theorem modChan_boot (s : State) (c : ChanId) (x : McChan → McChan) : (s.modChan c x).boot = s.boot := rfl
@[simp] theorem modChan_lcd (s : State) (c : ChanId) (x : McChan → McChan) : (s.modChan c x).lcd = s.lcd := rfl
@[simp] theorem modChan_otp (s : State) (c : ChanId) (x : McChan → McChan) : (s.modChan c x).otp = s.otp := rfl
@[simp] theorem modChan_keys (s : State) (c : ChanId) (x : McChan → McChan) : (s.modChan c x).keys = s.keys := rfl
@[simp] theorem modChan_lanes (s : State) (c : ChanId) (x : McChan → McChan) : (s.modChan c x).lanes = s.lanes := rfl
@[simp] theorem modChan_links (s : State) (c : ChanId) (x : McChan → McChan) : (s.modChan c x).links = s.links := rfl
@[simp] theorem modChan_doms (s : State) (c : ChanId) (x : McChan → McChan) : (s.modChan c x).doms = s.doms := rfl
@[simp] theorem modChan_flood (s : State) (c : ChanId) (x : McChan → McChan) : (s.modChan c x).flood = s.flood := rfl
@[simp] theorem modChan_fab (s : State) (c : ChanId) (x : McChan → McChan) : (s.modChan c x).fab = s.fab := rfl
@[simp] theorem modChan_fe (s : State) (c : ChanId) (x : McChan → McChan) : (s.modChan c x).fe = s.fe := rfl
@[simp] theorem modChan_vd (s : State) (c : ChanId) (x : McChan → McChan) : (s.modChan c x).vd = s.vd := rfl
@[simp] theorem modChan_red (s : State) (c : ChanId) (x : McChan → McChan) : (s.modChan c x).red = s.red := rfl
@[simp] theorem modChan_flt (s : State) (c : ChanId) (x : McChan → McChan) : (s.modChan c x).flt = s.flt := rfl
@[simp] theorem modChan_tray (s : State) (c : ChanId) (x : McChan → McChan) : (s.modChan c x).tray = s.tray := rfl
@[simp] theorem modChan_pwr (s : State) (c : ChanId) (x : McChan → McChan) : (s.modChan c x).pwr = s.pwr := rfl
@[simp] theorem modChan_isl (s : State) (c : ChanId) (x : McChan → McChan) : (s.modChan c x).isl = s.isl := rfl
@[simp] theorem modChan_tel (s : State) (c : ChanId) (x : McChan → McChan) : (s.modChan c x).tel = s.tel := rfl
@[simp] theorem modChan_freeCtr (s : State) (c : ChanId) (x : McChan → McChan) : (s.modChan c x).freeCtr = s.freeCtr := rfl
@[simp] theorem modChan_outs (s : State) (c : ChanId) (x : McChan → McChan) : (s.modChan c x).outs = s.outs := rfl
@[simp] theorem modChan_pending (s : State) (c : ChanId) (x : McChan → McChan) : (s.modChan c x).pending = s.pending := rfl
@[simp] theorem modChan_chan_same (s : State) (c : ChanId) (x : McChan → McChan) : (s.modChan c x).chan c = x (s.chan c) := Tab.get_set_same _ _ _ _
theorem modChan_chan_ne (s : State) (c : ChanId) (x : McChan → McChan) (y : ChanId) (h : y ≠ c) : (s.modChan c x).chan y = s.chan y :=
  Tab.get_set_ne _ _ _ fun e => h (BitVec.eq_of_toNat_eq e)
@[simp] theorem modChan_linkAt (s : State) (c : ChanId) (x : McChan → McChan) (y : LinkId) : (s.modChan c x).link y = s.link y := rfl
@[simp] theorem modChan_domAt (s : State) (c : ChanId) (x : McChan → McChan) (y : Slot) : (s.modChan c x).dom y = s.dom y := rfl
@[simp] theorem modChan_ctxAt (s : State) (c : ChanId) (x : McChan → McChan) (y : CtxId) : (s.modChan c x).ctx y = s.ctx y := rfl
@[simp] theorem modChan_funcAt (s : State) (c : ChanId) (x : McChan → McChan) (y : Fn) : (s.modChan c x).func y = s.func y := rfl
@[simp] theorem modChan_rowAt (s : State) (c : ChanId) (x : McChan → McChan) (y : Nat) : (s.modChan c x).row y = s.row y := rfl
@[simp] theorem modChan_memIdxAt (s : State) (c : ChanId) (x : McChan → McChan) (y : KeyIdx) : (s.modChan c x).memIdx y = s.memIdx y := rfl
@[simp] theorem modChan_vdevAt (s : State) (c : ChanId) (x : McChan → McChan) (y : VdId) : (s.modChan c x).vdev y = s.vdev y := rfl
@[simp] theorem modChan_progAt (s : State) (c : ChanId) (x : McChan → McChan) (y : ProgId) : (s.modChan c x).prog y = s.prog y := rfl
@[simp] theorem modChan_engAt (s : State) (c : ChanId) (x : McChan → McChan) (y : Nat) : (s.modChan c x).eng y = s.eng y := rfl
@[simp] theorem modChan_tamperAt (s : State) (c : ChanId) (x : McChan → McChan) (y : BitVec 2) : (s.modChan c x).tamper y = s.tamper y := rfl
@[simp] theorem modChan_mtrAt (s : State) (c : ChanId) (x : McChan → McChan) (y : Slot) : (s.modChan c x).mtr y = s.mtr y := rfl

@[simp] theorem setMemIdx_sys (s : State) (i : KeyIdx) (x : MemIndex) : (s.setMemIdx i x).sys = s.sys := rfl
@[simp] theorem setMemIdx_glb (s : State) (i : KeyIdx) (x : MemIndex) : (s.setMemIdx i x).glb = s.glb := rfl
@[simp] theorem setMemIdx_clk (s : State) (i : KeyIdx) (x : MemIndex) : (s.setMemIdx i x).clk = s.clk := rfl
@[simp] theorem setMemIdx_boot (s : State) (i : KeyIdx) (x : MemIndex) : (s.setMemIdx i x).boot = s.boot := rfl
@[simp] theorem setMemIdx_lcd (s : State) (i : KeyIdx) (x : MemIndex) : (s.setMemIdx i x).lcd = s.lcd := rfl
@[simp] theorem setMemIdx_otp (s : State) (i : KeyIdx) (x : MemIndex) : (s.setMemIdx i x).otp = s.otp := rfl
@[simp] theorem setMemIdx_keys (s : State) (i : KeyIdx) (x : MemIndex) : (s.setMemIdx i x).keys = s.keys := rfl
@[simp] theorem setMemIdx_lanes (s : State) (i : KeyIdx) (x : MemIndex) : (s.setMemIdx i x).lanes = s.lanes := rfl
@[simp] theorem setMemIdx_links (s : State) (i : KeyIdx) (x : MemIndex) : (s.setMemIdx i x).links = s.links := rfl
@[simp] theorem setMemIdx_doms (s : State) (i : KeyIdx) (x : MemIndex) : (s.setMemIdx i x).doms = s.doms := rfl
@[simp] theorem setMemIdx_flood (s : State) (i : KeyIdx) (x : MemIndex) : (s.setMemIdx i x).flood = s.flood := rfl
@[simp] theorem setMemIdx_fab (s : State) (i : KeyIdx) (x : MemIndex) : (s.setMemIdx i x).fab = s.fab := rfl
@[simp] theorem setMemIdx_fe (s : State) (i : KeyIdx) (x : MemIndex) : (s.setMemIdx i x).fe = s.fe := rfl
@[simp] theorem setMemIdx_vd (s : State) (i : KeyIdx) (x : MemIndex) : (s.setMemIdx i x).vd = s.vd := rfl
@[simp] theorem setMemIdx_red (s : State) (i : KeyIdx) (x : MemIndex) : (s.setMemIdx i x).red = s.red := rfl
@[simp] theorem setMemIdx_flt (s : State) (i : KeyIdx) (x : MemIndex) : (s.setMemIdx i x).flt = s.flt := rfl
@[simp] theorem setMemIdx_tray (s : State) (i : KeyIdx) (x : MemIndex) : (s.setMemIdx i x).tray = s.tray := rfl
@[simp] theorem setMemIdx_pwr (s : State) (i : KeyIdx) (x : MemIndex) : (s.setMemIdx i x).pwr = s.pwr := rfl
@[simp] theorem setMemIdx_isl (s : State) (i : KeyIdx) (x : MemIndex) : (s.setMemIdx i x).isl = s.isl := rfl
@[simp] theorem setMemIdx_tel (s : State) (i : KeyIdx) (x : MemIndex) : (s.setMemIdx i x).tel = s.tel := rfl
@[simp] theorem setMemIdx_freeCtr (s : State) (i : KeyIdx) (x : MemIndex) : (s.setMemIdx i x).freeCtr = s.freeCtr := rfl
@[simp] theorem setMemIdx_outs (s : State) (i : KeyIdx) (x : MemIndex) : (s.setMemIdx i x).outs = s.outs := rfl
@[simp] theorem setMemIdx_pending (s : State) (i : KeyIdx) (x : MemIndex) : (s.setMemIdx i x).pending = s.pending := rfl
@[simp] theorem setMemIdx_memIdx_same (s : State) (i : KeyIdx) (x : MemIndex) : (s.setMemIdx i x).memIdx i = x := Tab.get_set_same _ _ _ _
theorem setMemIdx_memIdx_ne (s : State) (i : KeyIdx) (x : MemIndex) (y : KeyIdx) (h : y ≠ i) : (s.setMemIdx i x).memIdx y = s.memIdx y :=
  Tab.get_set_ne _ _ _ fun e => h (BitVec.eq_of_toNat_eq e)
@[simp] theorem setMemIdx_linkAt (s : State) (i : KeyIdx) (x : MemIndex) (y : LinkId) : (s.setMemIdx i x).link y = s.link y := rfl
@[simp] theorem setMemIdx_domAt (s : State) (i : KeyIdx) (x : MemIndex) (y : Slot) : (s.setMemIdx i x).dom y = s.dom y := rfl
@[simp] theorem setMemIdx_ctxAt (s : State) (i : KeyIdx) (x : MemIndex) (y : CtxId) : (s.setMemIdx i x).ctx y = s.ctx y := rfl
@[simp] theorem setMemIdx_funcAt (s : State) (i : KeyIdx) (x : MemIndex) (y : Fn) : (s.setMemIdx i x).func y = s.func y := rfl
@[simp] theorem setMemIdx_rowAt (s : State) (i : KeyIdx) (x : MemIndex) (y : Nat) : (s.setMemIdx i x).row y = s.row y := rfl
@[simp] theorem setMemIdx_chanAt (s : State) (i : KeyIdx) (x : MemIndex) (y : ChanId) : (s.setMemIdx i x).chan y = s.chan y := rfl
@[simp] theorem setMemIdx_vdevAt (s : State) (i : KeyIdx) (x : MemIndex) (y : VdId) : (s.setMemIdx i x).vdev y = s.vdev y := rfl
@[simp] theorem setMemIdx_progAt (s : State) (i : KeyIdx) (x : MemIndex) (y : ProgId) : (s.setMemIdx i x).prog y = s.prog y := rfl
@[simp] theorem setMemIdx_engAt (s : State) (i : KeyIdx) (x : MemIndex) (y : Nat) : (s.setMemIdx i x).eng y = s.eng y := rfl
@[simp] theorem setMemIdx_tamperAt (s : State) (i : KeyIdx) (x : MemIndex) (y : BitVec 2) : (s.setMemIdx i x).tamper y = s.tamper y := rfl
@[simp] theorem setMemIdx_mtrAt (s : State) (i : KeyIdx) (x : MemIndex) (y : Slot) : (s.setMemIdx i x).mtr y = s.mtr y := rfl

@[simp] theorem setVdev_sys (s : State) (v : VdId) (x : Vd) : (s.setVdev v x).sys = s.sys := rfl
@[simp] theorem setVdev_glb (s : State) (v : VdId) (x : Vd) : (s.setVdev v x).glb = s.glb := rfl
@[simp] theorem setVdev_clk (s : State) (v : VdId) (x : Vd) : (s.setVdev v x).clk = s.clk := rfl
@[simp] theorem setVdev_boot (s : State) (v : VdId) (x : Vd) : (s.setVdev v x).boot = s.boot := rfl
@[simp] theorem setVdev_lcd (s : State) (v : VdId) (x : Vd) : (s.setVdev v x).lcd = s.lcd := rfl
@[simp] theorem setVdev_otp (s : State) (v : VdId) (x : Vd) : (s.setVdev v x).otp = s.otp := rfl
@[simp] theorem setVdev_keys (s : State) (v : VdId) (x : Vd) : (s.setVdev v x).keys = s.keys := rfl
@[simp] theorem setVdev_lanes (s : State) (v : VdId) (x : Vd) : (s.setVdev v x).lanes = s.lanes := rfl
@[simp] theorem setVdev_mem (s : State) (v : VdId) (x : Vd) : (s.setVdev v x).mem = s.mem := rfl
@[simp] theorem setVdev_links (s : State) (v : VdId) (x : Vd) : (s.setVdev v x).links = s.links := rfl
@[simp] theorem setVdev_doms (s : State) (v : VdId) (x : Vd) : (s.setVdev v x).doms = s.doms := rfl
@[simp] theorem setVdev_flood (s : State) (v : VdId) (x : Vd) : (s.setVdev v x).flood = s.flood := rfl
@[simp] theorem setVdev_fab (s : State) (v : VdId) (x : Vd) : (s.setVdev v x).fab = s.fab := rfl
@[simp] theorem setVdev_fe (s : State) (v : VdId) (x : Vd) : (s.setVdev v x).fe = s.fe := rfl
@[simp] theorem setVdev_red (s : State) (v : VdId) (x : Vd) : (s.setVdev v x).red = s.red := rfl
@[simp] theorem setVdev_flt (s : State) (v : VdId) (x : Vd) : (s.setVdev v x).flt = s.flt := rfl
@[simp] theorem setVdev_tray (s : State) (v : VdId) (x : Vd) : (s.setVdev v x).tray = s.tray := rfl
@[simp] theorem setVdev_pwr (s : State) (v : VdId) (x : Vd) : (s.setVdev v x).pwr = s.pwr := rfl
@[simp] theorem setVdev_isl (s : State) (v : VdId) (x : Vd) : (s.setVdev v x).isl = s.isl := rfl
@[simp] theorem setVdev_tel (s : State) (v : VdId) (x : Vd) : (s.setVdev v x).tel = s.tel := rfl
@[simp] theorem setVdev_freeCtr (s : State) (v : VdId) (x : Vd) : (s.setVdev v x).freeCtr = s.freeCtr := rfl
@[simp] theorem setVdev_outs (s : State) (v : VdId) (x : Vd) : (s.setVdev v x).outs = s.outs := rfl
@[simp] theorem setVdev_pending (s : State) (v : VdId) (x : Vd) : (s.setVdev v x).pending = s.pending := rfl
@[simp] theorem setVdev_vdev_same (s : State) (v : VdId) (x : Vd) : (s.setVdev v x).vdev v = x := Tab.get_set_same _ _ _ _
theorem setVdev_vdev_ne (s : State) (v : VdId) (x : Vd) (y : VdId) (h : y ≠ v) : (s.setVdev v x).vdev y = s.vdev y :=
  Tab.get_set_ne _ _ _ fun e => h (BitVec.eq_of_toNat_eq e)
@[simp] theorem setVdev_linkAt (s : State) (v : VdId) (x : Vd) (y : LinkId) : (s.setVdev v x).link y = s.link y := rfl
@[simp] theorem setVdev_domAt (s : State) (v : VdId) (x : Vd) (y : Slot) : (s.setVdev v x).dom y = s.dom y := rfl
@[simp] theorem setVdev_ctxAt (s : State) (v : VdId) (x : Vd) (y : CtxId) : (s.setVdev v x).ctx y = s.ctx y := rfl
@[simp] theorem setVdev_funcAt (s : State) (v : VdId) (x : Vd) (y : Fn) : (s.setVdev v x).func y = s.func y := rfl
@[simp] theorem setVdev_rowAt (s : State) (v : VdId) (x : Vd) (y : Nat) : (s.setVdev v x).row y = s.row y := rfl
@[simp] theorem setVdev_chanAt (s : State) (v : VdId) (x : Vd) (y : ChanId) : (s.setVdev v x).chan y = s.chan y := rfl
@[simp] theorem setVdev_memIdxAt (s : State) (v : VdId) (x : Vd) (y : KeyIdx) : (s.setVdev v x).memIdx y = s.memIdx y := rfl
@[simp] theorem setVdev_progAt (s : State) (v : VdId) (x : Vd) (y : ProgId) : (s.setVdev v x).prog y = s.prog y := rfl
@[simp] theorem setVdev_engAt (s : State) (v : VdId) (x : Vd) (y : Nat) : (s.setVdev v x).eng y = s.eng y := rfl
@[simp] theorem setVdev_tamperAt (s : State) (v : VdId) (x : Vd) (y : BitVec 2) : (s.setVdev v x).tamper y = s.tamper y := rfl
@[simp] theorem setVdev_mtrAt (s : State) (v : VdId) (x : Vd) (y : Slot) : (s.setVdev v x).mtr y = s.mtr y := rfl

@[simp] theorem modVdev_sys (s : State) (v : VdId) (x : Vd → Vd) : (s.modVdev v x).sys = s.sys := rfl
@[simp] theorem modVdev_glb (s : State) (v : VdId) (x : Vd → Vd) : (s.modVdev v x).glb = s.glb := rfl
@[simp] theorem modVdev_clk (s : State) (v : VdId) (x : Vd → Vd) : (s.modVdev v x).clk = s.clk := rfl
@[simp] theorem modVdev_boot (s : State) (v : VdId) (x : Vd → Vd) : (s.modVdev v x).boot = s.boot := rfl
@[simp] theorem modVdev_lcd (s : State) (v : VdId) (x : Vd → Vd) : (s.modVdev v x).lcd = s.lcd := rfl
@[simp] theorem modVdev_otp (s : State) (v : VdId) (x : Vd → Vd) : (s.modVdev v x).otp = s.otp := rfl
@[simp] theorem modVdev_keys (s : State) (v : VdId) (x : Vd → Vd) : (s.modVdev v x).keys = s.keys := rfl
@[simp] theorem modVdev_lanes (s : State) (v : VdId) (x : Vd → Vd) : (s.modVdev v x).lanes = s.lanes := rfl
@[simp] theorem modVdev_mem (s : State) (v : VdId) (x : Vd → Vd) : (s.modVdev v x).mem = s.mem := rfl
@[simp] theorem modVdev_links (s : State) (v : VdId) (x : Vd → Vd) : (s.modVdev v x).links = s.links := rfl
@[simp] theorem modVdev_doms (s : State) (v : VdId) (x : Vd → Vd) : (s.modVdev v x).doms = s.doms := rfl
@[simp] theorem modVdev_flood (s : State) (v : VdId) (x : Vd → Vd) : (s.modVdev v x).flood = s.flood := rfl
@[simp] theorem modVdev_fab (s : State) (v : VdId) (x : Vd → Vd) : (s.modVdev v x).fab = s.fab := rfl
@[simp] theorem modVdev_fe (s : State) (v : VdId) (x : Vd → Vd) : (s.modVdev v x).fe = s.fe := rfl
@[simp] theorem modVdev_red (s : State) (v : VdId) (x : Vd → Vd) : (s.modVdev v x).red = s.red := rfl
@[simp] theorem modVdev_flt (s : State) (v : VdId) (x : Vd → Vd) : (s.modVdev v x).flt = s.flt := rfl
@[simp] theorem modVdev_tray (s : State) (v : VdId) (x : Vd → Vd) : (s.modVdev v x).tray = s.tray := rfl
@[simp] theorem modVdev_pwr (s : State) (v : VdId) (x : Vd → Vd) : (s.modVdev v x).pwr = s.pwr := rfl
@[simp] theorem modVdev_isl (s : State) (v : VdId) (x : Vd → Vd) : (s.modVdev v x).isl = s.isl := rfl
@[simp] theorem modVdev_tel (s : State) (v : VdId) (x : Vd → Vd) : (s.modVdev v x).tel = s.tel := rfl
@[simp] theorem modVdev_freeCtr (s : State) (v : VdId) (x : Vd → Vd) : (s.modVdev v x).freeCtr = s.freeCtr := rfl
@[simp] theorem modVdev_outs (s : State) (v : VdId) (x : Vd → Vd) : (s.modVdev v x).outs = s.outs := rfl
@[simp] theorem modVdev_pending (s : State) (v : VdId) (x : Vd → Vd) : (s.modVdev v x).pending = s.pending := rfl
@[simp] theorem modVdev_vdev_same (s : State) (v : VdId) (x : Vd → Vd) : (s.modVdev v x).vdev v = x (s.vdev v) := Tab.get_set_same _ _ _ _
theorem modVdev_vdev_ne (s : State) (v : VdId) (x : Vd → Vd) (y : VdId) (h : y ≠ v) : (s.modVdev v x).vdev y = s.vdev y :=
  Tab.get_set_ne _ _ _ fun e => h (BitVec.eq_of_toNat_eq e)
@[simp] theorem modVdev_linkAt (s : State) (v : VdId) (x : Vd → Vd) (y : LinkId) : (s.modVdev v x).link y = s.link y := rfl
@[simp] theorem modVdev_domAt (s : State) (v : VdId) (x : Vd → Vd) (y : Slot) : (s.modVdev v x).dom y = s.dom y := rfl
@[simp] theorem modVdev_ctxAt (s : State) (v : VdId) (x : Vd → Vd) (y : CtxId) : (s.modVdev v x).ctx y = s.ctx y := rfl
@[simp] theorem modVdev_funcAt (s : State) (v : VdId) (x : Vd → Vd) (y : Fn) : (s.modVdev v x).func y = s.func y := rfl
@[simp] theorem modVdev_rowAt (s : State) (v : VdId) (x : Vd → Vd) (y : Nat) : (s.modVdev v x).row y = s.row y := rfl
@[simp] theorem modVdev_chanAt (s : State) (v : VdId) (x : Vd → Vd) (y : ChanId) : (s.modVdev v x).chan y = s.chan y := rfl
@[simp] theorem modVdev_memIdxAt (s : State) (v : VdId) (x : Vd → Vd) (y : KeyIdx) : (s.modVdev v x).memIdx y = s.memIdx y := rfl
@[simp] theorem modVdev_progAt (s : State) (v : VdId) (x : Vd → Vd) (y : ProgId) : (s.modVdev v x).prog y = s.prog y := rfl
@[simp] theorem modVdev_engAt (s : State) (v : VdId) (x : Vd → Vd) (y : Nat) : (s.modVdev v x).eng y = s.eng y := rfl
@[simp] theorem modVdev_tamperAt (s : State) (v : VdId) (x : Vd → Vd) (y : BitVec 2) : (s.modVdev v x).tamper y = s.tamper y := rfl
@[simp] theorem modVdev_mtrAt (s : State) (v : VdId) (x : Vd → Vd) (y : Slot) : (s.modVdev v x).mtr y = s.mtr y := rfl

@[simp] theorem setProg_sys (s : State) (p : ProgId) (x : Prog) : (s.setProg p x).sys = s.sys := rfl
@[simp] theorem setProg_glb (s : State) (p : ProgId) (x : Prog) : (s.setProg p x).glb = s.glb := rfl
@[simp] theorem setProg_clk (s : State) (p : ProgId) (x : Prog) : (s.setProg p x).clk = s.clk := rfl
@[simp] theorem setProg_boot (s : State) (p : ProgId) (x : Prog) : (s.setProg p x).boot = s.boot := rfl
@[simp] theorem setProg_lcd (s : State) (p : ProgId) (x : Prog) : (s.setProg p x).lcd = s.lcd := rfl
@[simp] theorem setProg_otp (s : State) (p : ProgId) (x : Prog) : (s.setProg p x).otp = s.otp := rfl
@[simp] theorem setProg_keys (s : State) (p : ProgId) (x : Prog) : (s.setProg p x).keys = s.keys := rfl
@[simp] theorem setProg_lanes (s : State) (p : ProgId) (x : Prog) : (s.setProg p x).lanes = s.lanes := rfl
@[simp] theorem setProg_mem (s : State) (p : ProgId) (x : Prog) : (s.setProg p x).mem = s.mem := rfl
@[simp] theorem setProg_links (s : State) (p : ProgId) (x : Prog) : (s.setProg p x).links = s.links := rfl
@[simp] theorem setProg_doms (s : State) (p : ProgId) (x : Prog) : (s.setProg p x).doms = s.doms := rfl
@[simp] theorem setProg_flood (s : State) (p : ProgId) (x : Prog) : (s.setProg p x).flood = s.flood := rfl
@[simp] theorem setProg_fab (s : State) (p : ProgId) (x : Prog) : (s.setProg p x).fab = s.fab := rfl
@[simp] theorem setProg_fe (s : State) (p : ProgId) (x : Prog) : (s.setProg p x).fe = s.fe := rfl
@[simp] theorem setProg_vd (s : State) (p : ProgId) (x : Prog) : (s.setProg p x).vd = s.vd := rfl
@[simp] theorem setProg_flt (s : State) (p : ProgId) (x : Prog) : (s.setProg p x).flt = s.flt := rfl
@[simp] theorem setProg_tray (s : State) (p : ProgId) (x : Prog) : (s.setProg p x).tray = s.tray := rfl
@[simp] theorem setProg_pwr (s : State) (p : ProgId) (x : Prog) : (s.setProg p x).pwr = s.pwr := rfl
@[simp] theorem setProg_isl (s : State) (p : ProgId) (x : Prog) : (s.setProg p x).isl = s.isl := rfl
@[simp] theorem setProg_tel (s : State) (p : ProgId) (x : Prog) : (s.setProg p x).tel = s.tel := rfl
@[simp] theorem setProg_freeCtr (s : State) (p : ProgId) (x : Prog) : (s.setProg p x).freeCtr = s.freeCtr := rfl
@[simp] theorem setProg_outs (s : State) (p : ProgId) (x : Prog) : (s.setProg p x).outs = s.outs := rfl
@[simp] theorem setProg_pending (s : State) (p : ProgId) (x : Prog) : (s.setProg p x).pending = s.pending := rfl
@[simp] theorem setProg_prog_same (s : State) (p : ProgId) (x : Prog) : (s.setProg p x).prog p = x := Tab.get_set_same _ _ _ _
theorem setProg_prog_ne (s : State) (p : ProgId) (x : Prog) (y : ProgId) (h : y ≠ p) : (s.setProg p x).prog y = s.prog y :=
  Tab.get_set_ne _ _ _ fun e => h (BitVec.eq_of_toNat_eq e)
@[simp] theorem setProg_linkAt (s : State) (p : ProgId) (x : Prog) (y : LinkId) : (s.setProg p x).link y = s.link y := rfl
@[simp] theorem setProg_domAt (s : State) (p : ProgId) (x : Prog) (y : Slot) : (s.setProg p x).dom y = s.dom y := rfl
@[simp] theorem setProg_ctxAt (s : State) (p : ProgId) (x : Prog) (y : CtxId) : (s.setProg p x).ctx y = s.ctx y := rfl
@[simp] theorem setProg_funcAt (s : State) (p : ProgId) (x : Prog) (y : Fn) : (s.setProg p x).func y = s.func y := rfl
@[simp] theorem setProg_rowAt (s : State) (p : ProgId) (x : Prog) (y : Nat) : (s.setProg p x).row y = s.row y := rfl
@[simp] theorem setProg_chanAt (s : State) (p : ProgId) (x : Prog) (y : ChanId) : (s.setProg p x).chan y = s.chan y := rfl
@[simp] theorem setProg_memIdxAt (s : State) (p : ProgId) (x : Prog) (y : KeyIdx) : (s.setProg p x).memIdx y = s.memIdx y := rfl
@[simp] theorem setProg_vdevAt (s : State) (p : ProgId) (x : Prog) (y : VdId) : (s.setProg p x).vdev y = s.vdev y := rfl
@[simp] theorem setProg_engAt (s : State) (p : ProgId) (x : Prog) (y : Nat) : (s.setProg p x).eng y = s.eng y := rfl
@[simp] theorem setProg_tamperAt (s : State) (p : ProgId) (x : Prog) (y : BitVec 2) : (s.setProg p x).tamper y = s.tamper y := rfl
@[simp] theorem setProg_mtrAt (s : State) (p : ProgId) (x : Prog) (y : Slot) : (s.setProg p x).mtr y = s.mtr y := rfl

@[simp] theorem modProg_sys (s : State) (p : ProgId) (x : Prog → Prog) : (s.modProg p x).sys = s.sys := rfl
@[simp] theorem modProg_glb (s : State) (p : ProgId) (x : Prog → Prog) : (s.modProg p x).glb = s.glb := rfl
@[simp] theorem modProg_clk (s : State) (p : ProgId) (x : Prog → Prog) : (s.modProg p x).clk = s.clk := rfl
@[simp] theorem modProg_boot (s : State) (p : ProgId) (x : Prog → Prog) : (s.modProg p x).boot = s.boot := rfl
@[simp] theorem modProg_lcd (s : State) (p : ProgId) (x : Prog → Prog) : (s.modProg p x).lcd = s.lcd := rfl
@[simp] theorem modProg_otp (s : State) (p : ProgId) (x : Prog → Prog) : (s.modProg p x).otp = s.otp := rfl
@[simp] theorem modProg_keys (s : State) (p : ProgId) (x : Prog → Prog) : (s.modProg p x).keys = s.keys := rfl
@[simp] theorem modProg_lanes (s : State) (p : ProgId) (x : Prog → Prog) : (s.modProg p x).lanes = s.lanes := rfl
@[simp] theorem modProg_mem (s : State) (p : ProgId) (x : Prog → Prog) : (s.modProg p x).mem = s.mem := rfl
@[simp] theorem modProg_links (s : State) (p : ProgId) (x : Prog → Prog) : (s.modProg p x).links = s.links := rfl
@[simp] theorem modProg_doms (s : State) (p : ProgId) (x : Prog → Prog) : (s.modProg p x).doms = s.doms := rfl
@[simp] theorem modProg_flood (s : State) (p : ProgId) (x : Prog → Prog) : (s.modProg p x).flood = s.flood := rfl
@[simp] theorem modProg_fab (s : State) (p : ProgId) (x : Prog → Prog) : (s.modProg p x).fab = s.fab := rfl
@[simp] theorem modProg_fe (s : State) (p : ProgId) (x : Prog → Prog) : (s.modProg p x).fe = s.fe := rfl
@[simp] theorem modProg_vd (s : State) (p : ProgId) (x : Prog → Prog) : (s.modProg p x).vd = s.vd := rfl
@[simp] theorem modProg_flt (s : State) (p : ProgId) (x : Prog → Prog) : (s.modProg p x).flt = s.flt := rfl
@[simp] theorem modProg_tray (s : State) (p : ProgId) (x : Prog → Prog) : (s.modProg p x).tray = s.tray := rfl
@[simp] theorem modProg_pwr (s : State) (p : ProgId) (x : Prog → Prog) : (s.modProg p x).pwr = s.pwr := rfl
@[simp] theorem modProg_isl (s : State) (p : ProgId) (x : Prog → Prog) : (s.modProg p x).isl = s.isl := rfl
@[simp] theorem modProg_tel (s : State) (p : ProgId) (x : Prog → Prog) : (s.modProg p x).tel = s.tel := rfl
@[simp] theorem modProg_freeCtr (s : State) (p : ProgId) (x : Prog → Prog) : (s.modProg p x).freeCtr = s.freeCtr := rfl
@[simp] theorem modProg_outs (s : State) (p : ProgId) (x : Prog → Prog) : (s.modProg p x).outs = s.outs := rfl
@[simp] theorem modProg_pending (s : State) (p : ProgId) (x : Prog → Prog) : (s.modProg p x).pending = s.pending := rfl
@[simp] theorem modProg_prog_same (s : State) (p : ProgId) (x : Prog → Prog) : (s.modProg p x).prog p = x (s.prog p) := Tab.get_set_same _ _ _ _
theorem modProg_prog_ne (s : State) (p : ProgId) (x : Prog → Prog) (y : ProgId) (h : y ≠ p) : (s.modProg p x).prog y = s.prog y :=
  Tab.get_set_ne _ _ _ fun e => h (BitVec.eq_of_toNat_eq e)
@[simp] theorem modProg_linkAt (s : State) (p : ProgId) (x : Prog → Prog) (y : LinkId) : (s.modProg p x).link y = s.link y := rfl
@[simp] theorem modProg_domAt (s : State) (p : ProgId) (x : Prog → Prog) (y : Slot) : (s.modProg p x).dom y = s.dom y := rfl
@[simp] theorem modProg_ctxAt (s : State) (p : ProgId) (x : Prog → Prog) (y : CtxId) : (s.modProg p x).ctx y = s.ctx y := rfl
@[simp] theorem modProg_funcAt (s : State) (p : ProgId) (x : Prog → Prog) (y : Fn) : (s.modProg p x).func y = s.func y := rfl
@[simp] theorem modProg_rowAt (s : State) (p : ProgId) (x : Prog → Prog) (y : Nat) : (s.modProg p x).row y = s.row y := rfl
@[simp] theorem modProg_chanAt (s : State) (p : ProgId) (x : Prog → Prog) (y : ChanId) : (s.modProg p x).chan y = s.chan y := rfl
@[simp] theorem modProg_memIdxAt (s : State) (p : ProgId) (x : Prog → Prog) (y : KeyIdx) : (s.modProg p x).memIdx y = s.memIdx y := rfl
@[simp] theorem modProg_vdevAt (s : State) (p : ProgId) (x : Prog → Prog) (y : VdId) : (s.modProg p x).vdev y = s.vdev y := rfl
@[simp] theorem modProg_engAt (s : State) (p : ProgId) (x : Prog → Prog) (y : Nat) : (s.modProg p x).eng y = s.eng y := rfl
@[simp] theorem modProg_tamperAt (s : State) (p : ProgId) (x : Prog → Prog) (y : BitVec 2) : (s.modProg p x).tamper y = s.tamper y := rfl
@[simp] theorem modProg_mtrAt (s : State) (p : ProgId) (x : Prog → Prog) (y : Slot) : (s.modProg p x).mtr y = s.mtr y := rfl

@[simp] theorem setEng_sys (s : State) (e : Nat) (x : FltEng) : (s.setEng e x).sys = s.sys := rfl
@[simp] theorem setEng_glb (s : State) (e : Nat) (x : FltEng) : (s.setEng e x).glb = s.glb := rfl
@[simp] theorem setEng_clk (s : State) (e : Nat) (x : FltEng) : (s.setEng e x).clk = s.clk := rfl
@[simp] theorem setEng_boot (s : State) (e : Nat) (x : FltEng) : (s.setEng e x).boot = s.boot := rfl
@[simp] theorem setEng_lcd (s : State) (e : Nat) (x : FltEng) : (s.setEng e x).lcd = s.lcd := rfl
@[simp] theorem setEng_otp (s : State) (e : Nat) (x : FltEng) : (s.setEng e x).otp = s.otp := rfl
@[simp] theorem setEng_keys (s : State) (e : Nat) (x : FltEng) : (s.setEng e x).keys = s.keys := rfl
@[simp] theorem setEng_lanes (s : State) (e : Nat) (x : FltEng) : (s.setEng e x).lanes = s.lanes := rfl
@[simp] theorem setEng_mem (s : State) (e : Nat) (x : FltEng) : (s.setEng e x).mem = s.mem := rfl
@[simp] theorem setEng_links (s : State) (e : Nat) (x : FltEng) : (s.setEng e x).links = s.links := rfl
@[simp] theorem setEng_doms (s : State) (e : Nat) (x : FltEng) : (s.setEng e x).doms = s.doms := rfl
@[simp] theorem setEng_flood (s : State) (e : Nat) (x : FltEng) : (s.setEng e x).flood = s.flood := rfl
@[simp] theorem setEng_fab (s : State) (e : Nat) (x : FltEng) : (s.setEng e x).fab = s.fab := rfl
@[simp] theorem setEng_fe (s : State) (e : Nat) (x : FltEng) : (s.setEng e x).fe = s.fe := rfl
@[simp] theorem setEng_vd (s : State) (e : Nat) (x : FltEng) : (s.setEng e x).vd = s.vd := rfl
@[simp] theorem setEng_red (s : State) (e : Nat) (x : FltEng) : (s.setEng e x).red = s.red := rfl
@[simp] theorem setEng_tray (s : State) (e : Nat) (x : FltEng) : (s.setEng e x).tray = s.tray := rfl
@[simp] theorem setEng_pwr (s : State) (e : Nat) (x : FltEng) : (s.setEng e x).pwr = s.pwr := rfl
@[simp] theorem setEng_isl (s : State) (e : Nat) (x : FltEng) : (s.setEng e x).isl = s.isl := rfl
@[simp] theorem setEng_tel (s : State) (e : Nat) (x : FltEng) : (s.setEng e x).tel = s.tel := rfl
@[simp] theorem setEng_freeCtr (s : State) (e : Nat) (x : FltEng) : (s.setEng e x).freeCtr = s.freeCtr := rfl
@[simp] theorem setEng_outs (s : State) (e : Nat) (x : FltEng) : (s.setEng e x).outs = s.outs := rfl
@[simp] theorem setEng_pending (s : State) (e : Nat) (x : FltEng) : (s.setEng e x).pending = s.pending := rfl
@[simp] theorem setEng_eng_same (s : State) (e : Nat) (x : FltEng) : (s.setEng e x).eng e = x := Tab.get_set_same _ _ _ _
theorem setEng_eng_ne (s : State) (e : Nat) (x : FltEng) (y : Nat) (h : y ≠ e) : (s.setEng e x).eng y = s.eng y :=
  Tab.get_set_ne _ _ _ h
@[simp] theorem setEng_linkAt (s : State) (e : Nat) (x : FltEng) (y : LinkId) : (s.setEng e x).link y = s.link y := rfl
@[simp] theorem setEng_domAt (s : State) (e : Nat) (x : FltEng) (y : Slot) : (s.setEng e x).dom y = s.dom y := rfl
@[simp] theorem setEng_ctxAt (s : State) (e : Nat) (x : FltEng) (y : CtxId) : (s.setEng e x).ctx y = s.ctx y := rfl
@[simp] theorem setEng_funcAt (s : State) (e : Nat) (x : FltEng) (y : Fn) : (s.setEng e x).func y = s.func y := rfl
@[simp] theorem setEng_rowAt (s : State) (e : Nat) (x : FltEng) (y : Nat) : (s.setEng e x).row y = s.row y := rfl
@[simp] theorem setEng_chanAt (s : State) (e : Nat) (x : FltEng) (y : ChanId) : (s.setEng e x).chan y = s.chan y := rfl
@[simp] theorem setEng_memIdxAt (s : State) (e : Nat) (x : FltEng) (y : KeyIdx) : (s.setEng e x).memIdx y = s.memIdx y := rfl
@[simp] theorem setEng_vdevAt (s : State) (e : Nat) (x : FltEng) (y : VdId) : (s.setEng e x).vdev y = s.vdev y := rfl
@[simp] theorem setEng_progAt (s : State) (e : Nat) (x : FltEng) (y : ProgId) : (s.setEng e x).prog y = s.prog y := rfl
@[simp] theorem setEng_tamperAt (s : State) (e : Nat) (x : FltEng) (y : BitVec 2) : (s.setEng e x).tamper y = s.tamper y := rfl
@[simp] theorem setEng_mtrAt (s : State) (e : Nat) (x : FltEng) (y : Slot) : (s.setEng e x).mtr y = s.mtr y := rfl

@[simp] theorem modEng_sys (s : State) (e : Nat) (x : FltEng → FltEng) : (s.modEng e x).sys = s.sys := rfl
@[simp] theorem modEng_glb (s : State) (e : Nat) (x : FltEng → FltEng) : (s.modEng e x).glb = s.glb := rfl
@[simp] theorem modEng_clk (s : State) (e : Nat) (x : FltEng → FltEng) : (s.modEng e x).clk = s.clk := rfl
@[simp] theorem modEng_boot (s : State) (e : Nat) (x : FltEng → FltEng) : (s.modEng e x).boot = s.boot := rfl
@[simp] theorem modEng_lcd (s : State) (e : Nat) (x : FltEng → FltEng) : (s.modEng e x).lcd = s.lcd := rfl
@[simp] theorem modEng_otp (s : State) (e : Nat) (x : FltEng → FltEng) : (s.modEng e x).otp = s.otp := rfl
@[simp] theorem modEng_keys (s : State) (e : Nat) (x : FltEng → FltEng) : (s.modEng e x).keys = s.keys := rfl
@[simp] theorem modEng_lanes (s : State) (e : Nat) (x : FltEng → FltEng) : (s.modEng e x).lanes = s.lanes := rfl
@[simp] theorem modEng_mem (s : State) (e : Nat) (x : FltEng → FltEng) : (s.modEng e x).mem = s.mem := rfl
@[simp] theorem modEng_links (s : State) (e : Nat) (x : FltEng → FltEng) : (s.modEng e x).links = s.links := rfl
@[simp] theorem modEng_doms (s : State) (e : Nat) (x : FltEng → FltEng) : (s.modEng e x).doms = s.doms := rfl
@[simp] theorem modEng_flood (s : State) (e : Nat) (x : FltEng → FltEng) : (s.modEng e x).flood = s.flood := rfl
@[simp] theorem modEng_fab (s : State) (e : Nat) (x : FltEng → FltEng) : (s.modEng e x).fab = s.fab := rfl
@[simp] theorem modEng_fe (s : State) (e : Nat) (x : FltEng → FltEng) : (s.modEng e x).fe = s.fe := rfl
@[simp] theorem modEng_vd (s : State) (e : Nat) (x : FltEng → FltEng) : (s.modEng e x).vd = s.vd := rfl
@[simp] theorem modEng_red (s : State) (e : Nat) (x : FltEng → FltEng) : (s.modEng e x).red = s.red := rfl
@[simp] theorem modEng_tray (s : State) (e : Nat) (x : FltEng → FltEng) : (s.modEng e x).tray = s.tray := rfl
@[simp] theorem modEng_pwr (s : State) (e : Nat) (x : FltEng → FltEng) : (s.modEng e x).pwr = s.pwr := rfl
@[simp] theorem modEng_isl (s : State) (e : Nat) (x : FltEng → FltEng) : (s.modEng e x).isl = s.isl := rfl
@[simp] theorem modEng_tel (s : State) (e : Nat) (x : FltEng → FltEng) : (s.modEng e x).tel = s.tel := rfl
@[simp] theorem modEng_freeCtr (s : State) (e : Nat) (x : FltEng → FltEng) : (s.modEng e x).freeCtr = s.freeCtr := rfl
@[simp] theorem modEng_outs (s : State) (e : Nat) (x : FltEng → FltEng) : (s.modEng e x).outs = s.outs := rfl
@[simp] theorem modEng_pending (s : State) (e : Nat) (x : FltEng → FltEng) : (s.modEng e x).pending = s.pending := rfl
@[simp] theorem modEng_eng_same (s : State) (e : Nat) (x : FltEng → FltEng) : (s.modEng e x).eng e = x (s.eng e) := Tab.get_set_same _ _ _ _
theorem modEng_eng_ne (s : State) (e : Nat) (x : FltEng → FltEng) (y : Nat) (h : y ≠ e) : (s.modEng e x).eng y = s.eng y :=
  Tab.get_set_ne _ _ _ h
@[simp] theorem modEng_linkAt (s : State) (e : Nat) (x : FltEng → FltEng) (y : LinkId) : (s.modEng e x).link y = s.link y := rfl
@[simp] theorem modEng_domAt (s : State) (e : Nat) (x : FltEng → FltEng) (y : Slot) : (s.modEng e x).dom y = s.dom y := rfl
@[simp] theorem modEng_ctxAt (s : State) (e : Nat) (x : FltEng → FltEng) (y : CtxId) : (s.modEng e x).ctx y = s.ctx y := rfl
@[simp] theorem modEng_funcAt (s : State) (e : Nat) (x : FltEng → FltEng) (y : Fn) : (s.modEng e x).func y = s.func y := rfl
@[simp] theorem modEng_rowAt (s : State) (e : Nat) (x : FltEng → FltEng) (y : Nat) : (s.modEng e x).row y = s.row y := rfl
@[simp] theorem modEng_chanAt (s : State) (e : Nat) (x : FltEng → FltEng) (y : ChanId) : (s.modEng e x).chan y = s.chan y := rfl
@[simp] theorem modEng_memIdxAt (s : State) (e : Nat) (x : FltEng → FltEng) (y : KeyIdx) : (s.modEng e x).memIdx y = s.memIdx y := rfl
@[simp] theorem modEng_vdevAt (s : State) (e : Nat) (x : FltEng → FltEng) (y : VdId) : (s.modEng e x).vdev y = s.vdev y := rfl
@[simp] theorem modEng_progAt (s : State) (e : Nat) (x : FltEng → FltEng) (y : ProgId) : (s.modEng e x).prog y = s.prog y := rfl
@[simp] theorem modEng_tamperAt (s : State) (e : Nat) (x : FltEng → FltEng) (y : BitVec 2) : (s.modEng e x).tamper y = s.tamper y := rfl
@[simp] theorem modEng_mtrAt (s : State) (e : Nat) (x : FltEng → FltEng) (y : Slot) : (s.modEng e x).mtr y = s.mtr y := rfl

@[simp] theorem setTamper_sys (s : State) (i : BitVec 2) (x : Tamper) : (s.setTamper i x).sys = s.sys := rfl
@[simp] theorem setTamper_glb (s : State) (i : BitVec 2) (x : Tamper) : (s.setTamper i x).glb = s.glb := rfl
@[simp] theorem setTamper_clk (s : State) (i : BitVec 2) (x : Tamper) : (s.setTamper i x).clk = s.clk := rfl
@[simp] theorem setTamper_boot (s : State) (i : BitVec 2) (x : Tamper) : (s.setTamper i x).boot = s.boot := rfl
@[simp] theorem setTamper_lcd (s : State) (i : BitVec 2) (x : Tamper) : (s.setTamper i x).lcd = s.lcd := rfl
@[simp] theorem setTamper_otp (s : State) (i : BitVec 2) (x : Tamper) : (s.setTamper i x).otp = s.otp := rfl
@[simp] theorem setTamper_keys (s : State) (i : BitVec 2) (x : Tamper) : (s.setTamper i x).keys = s.keys := rfl
@[simp] theorem setTamper_lanes (s : State) (i : BitVec 2) (x : Tamper) : (s.setTamper i x).lanes = s.lanes := rfl
@[simp] theorem setTamper_mem (s : State) (i : BitVec 2) (x : Tamper) : (s.setTamper i x).mem = s.mem := rfl
@[simp] theorem setTamper_links (s : State) (i : BitVec 2) (x : Tamper) : (s.setTamper i x).links = s.links := rfl
@[simp] theorem setTamper_doms (s : State) (i : BitVec 2) (x : Tamper) : (s.setTamper i x).doms = s.doms := rfl
@[simp] theorem setTamper_flood (s : State) (i : BitVec 2) (x : Tamper) : (s.setTamper i x).flood = s.flood := rfl
@[simp] theorem setTamper_fab (s : State) (i : BitVec 2) (x : Tamper) : (s.setTamper i x).fab = s.fab := rfl
@[simp] theorem setTamper_fe (s : State) (i : BitVec 2) (x : Tamper) : (s.setTamper i x).fe = s.fe := rfl
@[simp] theorem setTamper_vd (s : State) (i : BitVec 2) (x : Tamper) : (s.setTamper i x).vd = s.vd := rfl
@[simp] theorem setTamper_red (s : State) (i : BitVec 2) (x : Tamper) : (s.setTamper i x).red = s.red := rfl
@[simp] theorem setTamper_flt (s : State) (i : BitVec 2) (x : Tamper) : (s.setTamper i x).flt = s.flt := rfl
@[simp] theorem setTamper_tray (s : State) (i : BitVec 2) (x : Tamper) : (s.setTamper i x).tray = s.tray := rfl
@[simp] theorem setTamper_pwr (s : State) (i : BitVec 2) (x : Tamper) : (s.setTamper i x).pwr = s.pwr := rfl
@[simp] theorem setTamper_tel (s : State) (i : BitVec 2) (x : Tamper) : (s.setTamper i x).tel = s.tel := rfl
@[simp] theorem setTamper_freeCtr (s : State) (i : BitVec 2) (x : Tamper) : (s.setTamper i x).freeCtr = s.freeCtr := rfl
@[simp] theorem setTamper_outs (s : State) (i : BitVec 2) (x : Tamper) : (s.setTamper i x).outs = s.outs := rfl
@[simp] theorem setTamper_pending (s : State) (i : BitVec 2) (x : Tamper) : (s.setTamper i x).pending = s.pending := rfl
@[simp] theorem setTamper_tamper_same (s : State) (i : BitVec 2) (x : Tamper) : (s.setTamper i x).tamper i = x := Tab.get_set_same _ _ _ _
theorem setTamper_tamper_ne (s : State) (i : BitVec 2) (x : Tamper) (y : BitVec 2) (h : y ≠ i) : (s.setTamper i x).tamper y = s.tamper y :=
  Tab.get_set_ne _ _ _ fun e => h (BitVec.eq_of_toNat_eq e)
@[simp] theorem setTamper_linkAt (s : State) (i : BitVec 2) (x : Tamper) (y : LinkId) : (s.setTamper i x).link y = s.link y := rfl
@[simp] theorem setTamper_domAt (s : State) (i : BitVec 2) (x : Tamper) (y : Slot) : (s.setTamper i x).dom y = s.dom y := rfl
@[simp] theorem setTamper_ctxAt (s : State) (i : BitVec 2) (x : Tamper) (y : CtxId) : (s.setTamper i x).ctx y = s.ctx y := rfl
@[simp] theorem setTamper_funcAt (s : State) (i : BitVec 2) (x : Tamper) (y : Fn) : (s.setTamper i x).func y = s.func y := rfl
@[simp] theorem setTamper_rowAt (s : State) (i : BitVec 2) (x : Tamper) (y : Nat) : (s.setTamper i x).row y = s.row y := rfl
@[simp] theorem setTamper_chanAt (s : State) (i : BitVec 2) (x : Tamper) (y : ChanId) : (s.setTamper i x).chan y = s.chan y := rfl
@[simp] theorem setTamper_memIdxAt (s : State) (i : BitVec 2) (x : Tamper) (y : KeyIdx) : (s.setTamper i x).memIdx y = s.memIdx y := rfl
@[simp] theorem setTamper_vdevAt (s : State) (i : BitVec 2) (x : Tamper) (y : VdId) : (s.setTamper i x).vdev y = s.vdev y := rfl
@[simp] theorem setTamper_progAt (s : State) (i : BitVec 2) (x : Tamper) (y : ProgId) : (s.setTamper i x).prog y = s.prog y := rfl
@[simp] theorem setTamper_engAt (s : State) (i : BitVec 2) (x : Tamper) (y : Nat) : (s.setTamper i x).eng y = s.eng y := rfl
@[simp] theorem setTamper_mtrAt (s : State) (i : BitVec 2) (x : Tamper) (y : Slot) : (s.setTamper i x).mtr y = s.mtr y := rfl

@[simp] theorem setMtr_sys (s : State) (d : Slot) (x : Mtr) : (s.setMtr d x).sys = s.sys := rfl
@[simp] theorem setMtr_glb (s : State) (d : Slot) (x : Mtr) : (s.setMtr d x).glb = s.glb := rfl
@[simp] theorem setMtr_clk (s : State) (d : Slot) (x : Mtr) : (s.setMtr d x).clk = s.clk := rfl
@[simp] theorem setMtr_boot (s : State) (d : Slot) (x : Mtr) : (s.setMtr d x).boot = s.boot := rfl
@[simp] theorem setMtr_lcd (s : State) (d : Slot) (x : Mtr) : (s.setMtr d x).lcd = s.lcd := rfl
@[simp] theorem setMtr_otp (s : State) (d : Slot) (x : Mtr) : (s.setMtr d x).otp = s.otp := rfl
@[simp] theorem setMtr_keys (s : State) (d : Slot) (x : Mtr) : (s.setMtr d x).keys = s.keys := rfl
@[simp] theorem setMtr_lanes (s : State) (d : Slot) (x : Mtr) : (s.setMtr d x).lanes = s.lanes := rfl
@[simp] theorem setMtr_mem (s : State) (d : Slot) (x : Mtr) : (s.setMtr d x).mem = s.mem := rfl
@[simp] theorem setMtr_links (s : State) (d : Slot) (x : Mtr) : (s.setMtr d x).links = s.links := rfl
@[simp] theorem setMtr_doms (s : State) (d : Slot) (x : Mtr) : (s.setMtr d x).doms = s.doms := rfl
@[simp] theorem setMtr_flood (s : State) (d : Slot) (x : Mtr) : (s.setMtr d x).flood = s.flood := rfl
@[simp] theorem setMtr_fab (s : State) (d : Slot) (x : Mtr) : (s.setMtr d x).fab = s.fab := rfl
@[simp] theorem setMtr_fe (s : State) (d : Slot) (x : Mtr) : (s.setMtr d x).fe = s.fe := rfl
@[simp] theorem setMtr_vd (s : State) (d : Slot) (x : Mtr) : (s.setMtr d x).vd = s.vd := rfl
@[simp] theorem setMtr_red (s : State) (d : Slot) (x : Mtr) : (s.setMtr d x).red = s.red := rfl
@[simp] theorem setMtr_flt (s : State) (d : Slot) (x : Mtr) : (s.setMtr d x).flt = s.flt := rfl
@[simp] theorem setMtr_tray (s : State) (d : Slot) (x : Mtr) : (s.setMtr d x).tray = s.tray := rfl
@[simp] theorem setMtr_isl (s : State) (d : Slot) (x : Mtr) : (s.setMtr d x).isl = s.isl := rfl
@[simp] theorem setMtr_tel (s : State) (d : Slot) (x : Mtr) : (s.setMtr d x).tel = s.tel := rfl
@[simp] theorem setMtr_freeCtr (s : State) (d : Slot) (x : Mtr) : (s.setMtr d x).freeCtr = s.freeCtr := rfl
@[simp] theorem setMtr_outs (s : State) (d : Slot) (x : Mtr) : (s.setMtr d x).outs = s.outs := rfl
@[simp] theorem setMtr_pending (s : State) (d : Slot) (x : Mtr) : (s.setMtr d x).pending = s.pending := rfl
@[simp] theorem setMtr_mtr_same (s : State) (d : Slot) (x : Mtr) : (s.setMtr d x).mtr d = x := Tab.get_set_same _ _ _ _
theorem setMtr_mtr_ne (s : State) (d : Slot) (x : Mtr) (y : Slot) (h : y ≠ d) : (s.setMtr d x).mtr y = s.mtr y :=
  Tab.get_set_ne _ _ _ fun e => h (BitVec.eq_of_toNat_eq e)
@[simp] theorem setMtr_linkAt (s : State) (d : Slot) (x : Mtr) (y : LinkId) : (s.setMtr d x).link y = s.link y := rfl
@[simp] theorem setMtr_domAt (s : State) (d : Slot) (x : Mtr) (y : Slot) : (s.setMtr d x).dom y = s.dom y := rfl
@[simp] theorem setMtr_ctxAt (s : State) (d : Slot) (x : Mtr) (y : CtxId) : (s.setMtr d x).ctx y = s.ctx y := rfl
@[simp] theorem setMtr_funcAt (s : State) (d : Slot) (x : Mtr) (y : Fn) : (s.setMtr d x).func y = s.func y := rfl
@[simp] theorem setMtr_rowAt (s : State) (d : Slot) (x : Mtr) (y : Nat) : (s.setMtr d x).row y = s.row y := rfl
@[simp] theorem setMtr_chanAt (s : State) (d : Slot) (x : Mtr) (y : ChanId) : (s.setMtr d x).chan y = s.chan y := rfl
@[simp] theorem setMtr_memIdxAt (s : State) (d : Slot) (x : Mtr) (y : KeyIdx) : (s.setMtr d x).memIdx y = s.memIdx y := rfl
@[simp] theorem setMtr_vdevAt (s : State) (d : Slot) (x : Mtr) (y : VdId) : (s.setMtr d x).vdev y = s.vdev y := rfl
@[simp] theorem setMtr_progAt (s : State) (d : Slot) (x : Mtr) (y : ProgId) : (s.setMtr d x).prog y = s.prog y := rfl
@[simp] theorem setMtr_engAt (s : State) (d : Slot) (x : Mtr) (y : Nat) : (s.setMtr d x).eng y = s.eng y := rfl
@[simp] theorem setMtr_tamperAt (s : State) (d : Slot) (x : Mtr) (y : BitVec 2) : (s.setMtr d x).tamper y = s.tamper y := rfl

@[simp] theorem modMtr_sys (s : State) (d : Slot) (x : Mtr → Mtr) : (s.modMtr d x).sys = s.sys := rfl
@[simp] theorem modMtr_glb (s : State) (d : Slot) (x : Mtr → Mtr) : (s.modMtr d x).glb = s.glb := rfl
@[simp] theorem modMtr_clk (s : State) (d : Slot) (x : Mtr → Mtr) : (s.modMtr d x).clk = s.clk := rfl
@[simp] theorem modMtr_boot (s : State) (d : Slot) (x : Mtr → Mtr) : (s.modMtr d x).boot = s.boot := rfl
@[simp] theorem modMtr_lcd (s : State) (d : Slot) (x : Mtr → Mtr) : (s.modMtr d x).lcd = s.lcd := rfl
@[simp] theorem modMtr_otp (s : State) (d : Slot) (x : Mtr → Mtr) : (s.modMtr d x).otp = s.otp := rfl
@[simp] theorem modMtr_keys (s : State) (d : Slot) (x : Mtr → Mtr) : (s.modMtr d x).keys = s.keys := rfl
@[simp] theorem modMtr_lanes (s : State) (d : Slot) (x : Mtr → Mtr) : (s.modMtr d x).lanes = s.lanes := rfl
@[simp] theorem modMtr_mem (s : State) (d : Slot) (x : Mtr → Mtr) : (s.modMtr d x).mem = s.mem := rfl
@[simp] theorem modMtr_links (s : State) (d : Slot) (x : Mtr → Mtr) : (s.modMtr d x).links = s.links := rfl
@[simp] theorem modMtr_doms (s : State) (d : Slot) (x : Mtr → Mtr) : (s.modMtr d x).doms = s.doms := rfl
@[simp] theorem modMtr_flood (s : State) (d : Slot) (x : Mtr → Mtr) : (s.modMtr d x).flood = s.flood := rfl
@[simp] theorem modMtr_fab (s : State) (d : Slot) (x : Mtr → Mtr) : (s.modMtr d x).fab = s.fab := rfl
@[simp] theorem modMtr_fe (s : State) (d : Slot) (x : Mtr → Mtr) : (s.modMtr d x).fe = s.fe := rfl
@[simp] theorem modMtr_vd (s : State) (d : Slot) (x : Mtr → Mtr) : (s.modMtr d x).vd = s.vd := rfl
@[simp] theorem modMtr_red (s : State) (d : Slot) (x : Mtr → Mtr) : (s.modMtr d x).red = s.red := rfl
@[simp] theorem modMtr_flt (s : State) (d : Slot) (x : Mtr → Mtr) : (s.modMtr d x).flt = s.flt := rfl
@[simp] theorem modMtr_tray (s : State) (d : Slot) (x : Mtr → Mtr) : (s.modMtr d x).tray = s.tray := rfl
@[simp] theorem modMtr_isl (s : State) (d : Slot) (x : Mtr → Mtr) : (s.modMtr d x).isl = s.isl := rfl
@[simp] theorem modMtr_tel (s : State) (d : Slot) (x : Mtr → Mtr) : (s.modMtr d x).tel = s.tel := rfl
@[simp] theorem modMtr_freeCtr (s : State) (d : Slot) (x : Mtr → Mtr) : (s.modMtr d x).freeCtr = s.freeCtr := rfl
@[simp] theorem modMtr_outs (s : State) (d : Slot) (x : Mtr → Mtr) : (s.modMtr d x).outs = s.outs := rfl
@[simp] theorem modMtr_pending (s : State) (d : Slot) (x : Mtr → Mtr) : (s.modMtr d x).pending = s.pending := rfl
@[simp] theorem modMtr_mtr_same (s : State) (d : Slot) (x : Mtr → Mtr) : (s.modMtr d x).mtr d = x (s.mtr d) := Tab.get_set_same _ _ _ _
theorem modMtr_mtr_ne (s : State) (d : Slot) (x : Mtr → Mtr) (y : Slot) (h : y ≠ d) : (s.modMtr d x).mtr y = s.mtr y :=
  Tab.get_set_ne _ _ _ fun e => h (BitVec.eq_of_toNat_eq e)
@[simp] theorem modMtr_linkAt (s : State) (d : Slot) (x : Mtr → Mtr) (y : LinkId) : (s.modMtr d x).link y = s.link y := rfl
@[simp] theorem modMtr_domAt (s : State) (d : Slot) (x : Mtr → Mtr) (y : Slot) : (s.modMtr d x).dom y = s.dom y := rfl
@[simp] theorem modMtr_ctxAt (s : State) (d : Slot) (x : Mtr → Mtr) (y : CtxId) : (s.modMtr d x).ctx y = s.ctx y := rfl
@[simp] theorem modMtr_funcAt (s : State) (d : Slot) (x : Mtr → Mtr) (y : Fn) : (s.modMtr d x).func y = s.func y := rfl
@[simp] theorem modMtr_rowAt (s : State) (d : Slot) (x : Mtr → Mtr) (y : Nat) : (s.modMtr d x).row y = s.row y := rfl
@[simp] theorem modMtr_chanAt (s : State) (d : Slot) (x : Mtr → Mtr) (y : ChanId) : (s.modMtr d x).chan y = s.chan y := rfl
@[simp] theorem modMtr_memIdxAt (s : State) (d : Slot) (x : Mtr → Mtr) (y : KeyIdx) : (s.modMtr d x).memIdx y = s.memIdx y := rfl
@[simp] theorem modMtr_vdevAt (s : State) (d : Slot) (x : Mtr → Mtr) (y : VdId) : (s.modMtr d x).vdev y = s.vdev y := rfl
@[simp] theorem modMtr_progAt (s : State) (d : Slot) (x : Mtr → Mtr) (y : ProgId) : (s.modMtr d x).prog y = s.prog y := rfl
@[simp] theorem modMtr_engAt (s : State) (d : Slot) (x : Mtr → Mtr) (y : Nat) : (s.modMtr d x).eng y = s.eng y := rfl
@[simp] theorem modMtr_tamperAt (s : State) (d : Slot) (x : Mtr → Mtr) (y : BitVec 2) : (s.modMtr d x).tamper y = s.tamper y := rfl

@[simp] theorem out_sys (s : State) (x : PortOut) : (s.out x).sys = s.sys := rfl
@[simp] theorem out_glb (s : State) (x : PortOut) : (s.out x).glb = s.glb := rfl
@[simp] theorem out_clk (s : State) (x : PortOut) : (s.out x).clk = s.clk := rfl
@[simp] theorem out_boot (s : State) (x : PortOut) : (s.out x).boot = s.boot := rfl
@[simp] theorem out_lcd (s : State) (x : PortOut) : (s.out x).lcd = s.lcd := rfl
@[simp] theorem out_otp (s : State) (x : PortOut) : (s.out x).otp = s.otp := rfl
@[simp] theorem out_keys (s : State) (x : PortOut) : (s.out x).keys = s.keys := rfl
@[simp] theorem out_lanes (s : State) (x : PortOut) : (s.out x).lanes = s.lanes := rfl
@[simp] theorem out_mem (s : State) (x : PortOut) : (s.out x).mem = s.mem := rfl
@[simp] theorem out_links (s : State) (x : PortOut) : (s.out x).links = s.links := rfl
@[simp] theorem out_doms (s : State) (x : PortOut) : (s.out x).doms = s.doms := rfl
@[simp] theorem out_flood (s : State) (x : PortOut) : (s.out x).flood = s.flood := rfl
@[simp] theorem out_fab (s : State) (x : PortOut) : (s.out x).fab = s.fab := rfl
@[simp] theorem out_fe (s : State) (x : PortOut) : (s.out x).fe = s.fe := rfl
@[simp] theorem out_vd (s : State) (x : PortOut) : (s.out x).vd = s.vd := rfl
@[simp] theorem out_red (s : State) (x : PortOut) : (s.out x).red = s.red := rfl
@[simp] theorem out_flt (s : State) (x : PortOut) : (s.out x).flt = s.flt := rfl
@[simp] theorem out_tray (s : State) (x : PortOut) : (s.out x).tray = s.tray := rfl
@[simp] theorem out_pwr (s : State) (x : PortOut) : (s.out x).pwr = s.pwr := rfl
@[simp] theorem out_isl (s : State) (x : PortOut) : (s.out x).isl = s.isl := rfl
@[simp] theorem out_tel (s : State) (x : PortOut) : (s.out x).tel = s.tel := rfl
@[simp] theorem out_freeCtr (s : State) (x : PortOut) : (s.out x).freeCtr = s.freeCtr := rfl
@[simp] theorem out_pending (s : State) (x : PortOut) : (s.out x).pending = s.pending := rfl
@[simp] theorem out_outs (s : State) (x : PortOut) : (s.out x).outs = x :: s.outs := rfl
@[simp] theorem out_linkAt (s : State) (x : PortOut) (y : LinkId) : (s.out x).link y = s.link y := rfl
@[simp] theorem out_domAt (s : State) (x : PortOut) (y : Slot) : (s.out x).dom y = s.dom y := rfl
@[simp] theorem out_ctxAt (s : State) (x : PortOut) (y : CtxId) : (s.out x).ctx y = s.ctx y := rfl
@[simp] theorem out_funcAt (s : State) (x : PortOut) (y : Fn) : (s.out x).func y = s.func y := rfl
@[simp] theorem out_rowAt (s : State) (x : PortOut) (y : Nat) : (s.out x).row y = s.row y := rfl
@[simp] theorem out_chanAt (s : State) (x : PortOut) (y : ChanId) : (s.out x).chan y = s.chan y := rfl
@[simp] theorem out_memIdxAt (s : State) (x : PortOut) (y : KeyIdx) : (s.out x).memIdx y = s.memIdx y := rfl
@[simp] theorem out_vdevAt (s : State) (x : PortOut) (y : VdId) : (s.out x).vdev y = s.vdev y := rfl
@[simp] theorem out_progAt (s : State) (x : PortOut) (y : ProgId) : (s.out x).prog y = s.prog y := rfl
@[simp] theorem out_engAt (s : State) (x : PortOut) (y : Nat) : (s.out x).eng y = s.eng y := rfl
@[simp] theorem out_tamperAt (s : State) (x : PortOut) (y : BitVec 2) : (s.out x).tamper y = s.tamper y := rfl
@[simp] theorem out_mtrAt (s : State) (x : PortOut) (y : Slot) : (s.out x).mtr y = s.mtr y := rfl

end Sys2Proof.Machine.State
end

