-- ==== Sys2Proof/Laws/Keeps.lean ====
section
/-! SUPPORT. The frame relation behind every frame law: which parts of the block an operation may change, with what it
keeps in any case (the queue, programmed fuses, what is on the ports, the bounds of the issue rates). -/

namespace Sys2Proof.Machine

set_option Elab.async false

/-- `b` differs from `a` only in the parts whose bit is set in `k`, and keeps what every step keeps. -/
structure Keeps (k : BitVec 24) (a b : State) : Prop where
  sys : k.getLsbD 0 = true ∨ b.sys = a.sys
  glb : k.getLsbD 1 = true ∨ b.glb = a.glb
  clk : k.getLsbD 2 = true ∨ b.clk = a.clk
  boot : k.getLsbD 3 = true ∨ b.boot = a.boot
  lcd : k.getLsbD 4 = true ∨ b.lcd = a.lcd
  otp : k.getLsbD 5 = true ∨ b.otp = a.otp
  keys : k.getLsbD 6 = true ∨ b.keys = a.keys
  lanes : k.getLsbD 7 = true ∨ b.lanes = a.lanes
  mem : k.getLsbD 8 = true ∨ b.mem = a.mem
  links : k.getLsbD 9 = true ∨ b.links = a.links
  doms : k.getLsbD 10 = true ∨ b.doms = a.doms
  flood : k.getLsbD 11 = true ∨ b.flood = a.flood
  fab : k.getLsbD 12 = true ∨ b.fab = a.fab
  fe : k.getLsbD 13 = true ∨ b.fe = a.fe
  vd : k.getLsbD 14 = true ∨ b.vd = a.vd
  red : k.getLsbD 15 = true ∨ b.red = a.red
  flt : k.getLsbD 16 = true ∨ b.flt = a.flt
  tray : k.getLsbD 17 = true ∨ b.tray = a.tray
  pwr : k.getLsbD 18 = true ∨ b.pwr = a.pwr
  isl : k.getLsbD 19 = true ∨ b.isl = a.isl
  tel : k.getLsbD 20 = true ∨ b.tel = a.tel
  freeCtr : k.getLsbD 21 = true ∨ b.freeCtr = a.freeCtr
  outs : k.getLsbD 22 = true ∨ b.outs = a.outs
  pending : b.pending = a.pending
  fuses : a.fusesKept b
  grew : a.outsKept b
  rates : a.pwr.ratesOk → b.pwr.ratesOk
  canon : a.canonical → b.canonical

namespace Keeps

theorem refl (k : BitVec 24) (s : State) : Keeps k s s :=
  ⟨.inr rfl, .inr rfl, .inr rfl, .inr rfl, .inr rfl, .inr rfl, .inr rfl, .inr rfl, .inr rfl, .inr rfl, .inr rfl, .inr rfl, .inr rfl, .inr rfl, .inr rfl, .inr rfl, .inr rfl, .inr rfl, .inr rfl, .inr rfl, .inr rfl, .inr rfl, .inr rfl,
    rfl, fun _ _ h => h, List.suffix_refl _, id, id⟩

theorem bit {m k : BitVec 24} {i : Nat} (h : m ||| k = k) (hi : m.getLsbD i = true) : k.getLsbD i = true := by
  have e := congrArg (fun x : BitVec 24 => x.getLsbD i) h
  simp only [BitVec.getLsbD_or, hi, Bool.true_or] at e
  exact e.symm

theorem sub {m n k : BitVec 24} (h : n ||| k = k) (hm : m ||| n = n) : m ||| k = k := by
  rw [← h, ← BitVec.or_assoc, hm]

theorem orr {i : Nat} {k l : BitVec 24} {α : Type} {x y z : α} (h : k.getLsbD i = true ∨ y = x)
    (g : l.getLsbD i = true ∨ z = y) : (k ||| l).getLsbD i = true ∨ z = x := by
  rcases h with h | h
  · left; simp [BitVec.getLsbD_or, h]
  · rcases g with g | g
    · left; simp [BitVec.getLsbD_or, g]
    · right; rw [g, h]

theorem trans {k l : BitVec 24} {a b c : State} (h : Keeps k a b) (g : Keeps l b c) : Keeps (k ||| l) a c :=
  ⟨orr h.sys g.sys, orr h.glb g.glb, orr h.clk g.clk, orr h.boot g.boot, orr h.lcd g.lcd, orr h.otp g.otp, orr h.keys g.keys, orr h.lanes g.lanes, orr h.mem g.mem, orr h.links g.links, orr h.doms g.doms, orr h.flood g.flood, orr h.fab g.fab, orr h.fe g.fe, orr h.vd g.vd, orr h.red g.red, orr h.flt g.flt, orr h.tray g.tray, orr h.pwr g.pwr, orr h.isl g.isl, orr h.tel g.tel, orr h.freeCtr g.freeCtr, orr h.outs g.outs,
    g.pending.trans h.pending, fun r b x => g.fuses r b (h.fuses r b x), h.grew.trans g.grew, fun x => g.rates (h.rates x),
    fun x => g.canon (h.canon x)⟩

theorem next {i : Nat} {k : BitVec 24} {α : Type} {x y z : α} (h : k.getLsbD i = true ∨ y = x)
    (g : k.getLsbD i = true ∨ z = y) : k.getLsbD i = true ∨ z = x :=
  h.elim .inl fun e => g.imp_right fun e' => e'.trans e

/-- The general update: a state whose parts are those of `s` but for some. -/
theorem put {k : BitVec 24} {a s : State} (h : Keeps k a s)
    {x0 : Sys} (h0 : k.getLsbD 0 = true ∨ x0 = s.sys := by first | exact Or.inr (by with_reducible rfl) | exact Or.inl (Keeps.bit (by assumption) (by decide)))
    {x1 : Glb} (h1 : k.getLsbD 1 = true ∨ x1 = s.glb := by first | exact Or.inr (by with_reducible rfl) | exact Or.inl (Keeps.bit (by assumption) (by decide)))
    {x2 : Clk} (h2 : k.getLsbD 2 = true ∨ x2 = s.clk := by first | exact Or.inr (by with_reducible rfl) | exact Or.inl (Keeps.bit (by assumption) (by decide)))
    {x3 : Boot} (h3 : k.getLsbD 3 = true ∨ x3 = s.boot := by first | exact Or.inr (by with_reducible rfl) | exact Or.inl (Keeps.bit (by assumption) (by decide)))
    {x4 : Lcd} (h4 : k.getLsbD 4 = true ∨ x4 = s.lcd := by first | exact Or.inr (by with_reducible rfl) | exact Or.inl (Keeps.bit (by assumption) (by decide)))
    {x5 : Tab (BitVec 64)} (h5 : k.getLsbD 5 = true ∨ x5 = s.otp := by first | exact Or.inr (by with_reducible rfl) | exact Or.inl (Keeps.bit (by assumption) (by decide)))
    {x6 : Keys} (h6 : k.getLsbD 6 = true ∨ x6 = s.keys := by first | exact Or.inr (by with_reducible rfl) | exact Or.inl (Keeps.bit (by assumption) (by decide)))
    {x7 : Lanes} (h7 : k.getLsbD 7 = true ∨ x7 = s.lanes := by first | exact Or.inr (by with_reducible rfl) | exact Or.inl (Keeps.bit (by assumption) (by decide)))
    {x8 : Mem} (h8 : k.getLsbD 8 = true ∨ x8 = s.mem := by first | exact Or.inr (by with_reducible rfl) | exact Or.inl (Keeps.bit (by assumption) (by decide)))
    {x9 : Tab Link} (h9 : k.getLsbD 9 = true ∨ x9 = s.links := by first | exact Or.inr (by with_reducible rfl) | exact Or.inl (Keeps.bit (by assumption) (by decide)))
    {x10 : Tab Dom} (h10 : k.getLsbD 10 = true ∨ x10 = s.doms := by first | exact Or.inr (by with_reducible rfl) | exact Or.inl (Keeps.bit (by assumption) (by decide)))
    {x11 : List FloodEntry} (h11 : k.getLsbD 11 = true ∨ x11 = s.flood := by first | exact Or.inr (by with_reducible rfl) | exact Or.inl (Keeps.bit (by assumption) (by decide)))
    {x12 : Fab} (h12 : k.getLsbD 12 = true ∨ x12 = s.fab := by first | exact Or.inr (by with_reducible rfl) | exact Or.inl (Keeps.bit (by assumption) (by decide)))
    {x13 : Fe} (h13 : k.getLsbD 13 = true ∨ x13 = s.fe := by first | exact Or.inr (by with_reducible rfl) | exact Or.inl (Keeps.bit (by assumption) (by decide)))
    {x14 : Vds} (h14 : k.getLsbD 14 = true ∨ x14 = s.vd := by first | exact Or.inr (by with_reducible rfl) | exact Or.inl (Keeps.bit (by assumption) (by decide)))
    {x15 : Red} (h15 : k.getLsbD 15 = true ∨ x15 = s.red := by first | exact Or.inr (by with_reducible rfl) | exact Or.inl (Keeps.bit (by assumption) (by decide)))
    {x16 : Flt} (h16 : k.getLsbD 16 = true ∨ x16 = s.flt := by first | exact Or.inr (by with_reducible rfl) | exact Or.inl (Keeps.bit (by assumption) (by decide)))
    {x17 : Tray} (h17 : k.getLsbD 17 = true ∨ x17 = s.tray := by first | exact Or.inr (by with_reducible rfl) | exact Or.inl (Keeps.bit (by assumption) (by decide)))
    {x18 : Pwr} (h18 : k.getLsbD 18 = true ∨ x18 = s.pwr := by first | exact Or.inr (by with_reducible rfl) | exact Or.inl (Keeps.bit (by assumption) (by decide)))
    {x19 : Isl} (h19 : k.getLsbD 19 = true ∨ x19 = s.isl := by first | exact Or.inr (by with_reducible rfl) | exact Or.inl (Keeps.bit (by assumption) (by decide)))
    {x20 : Tel} (h20 : k.getLsbD 20 = true ∨ x20 = s.tel := by first | exact Or.inr (by with_reducible rfl) | exact Or.inl (Keeps.bit (by assumption) (by decide)))
    {x21 : Nat} (h21 : k.getLsbD 21 = true ∨ x21 = s.freeCtr := by first | exact Or.inr (by with_reducible rfl) | exact Or.inl (Keeps.bit (by assumption) (by decide)))
    {x22 : List PortOut} (h22 : k.getLsbD 22 = true ∨ x22 = s.outs := by first | exact Or.inr (by with_reducible rfl) | exact Or.inl (Keeps.bit (by assumption) (by decide)))
    (ho : ∀ r b : Nat, (Tab.get 0 s.otp r).getLsbD b = true → (Tab.get 0 x5 r).getLsbD b = true := by exact fun _ _ h => h)
    (hg : s.outs <:+ x22 := by first | exact List.suffix_refl _ | exact List.suffix_cons _ _ | exact List.suffix_append _ _)
    (hr : s.pwr.ratesOk → x18.ratesOk := by first | (with_reducible exact fun h => h) | (dsimp only [Pwr.ratesOk]; exact fun h => h))
    (c5 : Tab.wf 0 s.otp = true → Tab.wf 0 x5 = true := by first | (with_reducible exact fun h => h) | exact Tab.wf_set _ _ _ _ | exact Tab.wf_mapAll _ _ _ | exact fun _ => rfl)
    (c9 : Tab.wf {} s.links = true → Tab.wf {} x9 = true := by first | (with_reducible exact fun h => h) | exact Tab.wf_set _ _ _ _ | exact Tab.wf_mapAll _ _ _ | exact fun _ => rfl)
    (c10 : Tab.wf {} s.doms = true → Tab.wf {} x10 = true := by first | (with_reducible exact fun h => h) | exact Tab.wf_set _ _ _ _ | exact Tab.wf_mapAll _ _ _ | exact fun _ => rfl)
    (c1 : s.glb.canonical → x1.canonical := by first | (with_reducible exact fun h => h) | (simp only [Glb.canonical, Tab.wf_nil, Tab.wf_set, Tab.wf_mapAll, Tab.wf_filter, implies_true, and_self, and_true, true_and]; first | done | exact fun h => h | (intro h; simp only [h, Tab.wf_set, Tab.wf_mapAll, Tab.wf_filter, and_self])))
    (c6 : s.keys.canonical → x6.canonical := by first | (with_reducible exact fun h => h) | (simp only [Keys.canonical, Tab.wf_nil, Tab.wf_set, Tab.wf_mapAll, Tab.wf_filter, implies_true, and_self, and_true, true_and]; first | done | exact fun h => h | (intro h; simp only [h, Tab.wf_set, Tab.wf_mapAll, Tab.wf_filter, and_self])))
    (c7 : s.lanes.canonical → x7.canonical := by first | (with_reducible exact fun h => h) | (simp only [Lanes.canonical, Tab.wf_nil, Tab.wf_set, Tab.wf_mapAll, Tab.wf_filter, implies_true, and_self, and_true, true_and]; first | done | exact fun h => h | (intro h; simp only [h, Tab.wf_set, Tab.wf_mapAll, Tab.wf_filter, and_self])))
    (c8 : s.mem.canonical → x8.canonical := by first | (with_reducible exact fun h => h) | (simp only [Mem.canonical, Tab.wf_nil, Tab.wf_set, Tab.wf_mapAll, Tab.wf_filter, implies_true, and_self, and_true, true_and]; first | done | exact fun h => h | (intro h; simp only [h, Tab.wf_set, Tab.wf_mapAll, Tab.wf_filter, and_self])))
    (c12 : s.fab.canonical → x12.canonical := by first | (with_reducible exact fun h => h) | (simp only [Fab.canonical, Tab.wf_nil, Tab.wf_set, Tab.wf_mapAll, Tab.wf_filter, implies_true, and_self, and_true, true_and]; first | done | exact fun h => h | (intro h; simp only [h, Tab.wf_set, Tab.wf_mapAll, Tab.wf_filter, and_self])))
    (c13 : s.fe.canonical → x13.canonical := by first | (with_reducible exact fun h => h) | (simp only [Fe.canonical, Tab.wf_nil, Tab.wf_set, Tab.wf_mapAll, Tab.wf_filter, implies_true, and_self, and_true, true_and]; first | done | exact fun h => h | (intro h; simp only [h, Tab.wf_set, Tab.wf_mapAll, Tab.wf_filter, and_self])))
    (c14 : s.vd.canonical → x14.canonical := by first | (with_reducible exact fun h => h) | (simp only [Vds.canonical, Tab.wf_nil, Tab.wf_set, Tab.wf_mapAll, Tab.wf_filter, implies_true, and_self, and_true, true_and]; first | done | exact fun h => h | (intro h; simp only [h, Tab.wf_set, Tab.wf_mapAll, Tab.wf_filter, and_self])))
    (c15 : s.red.canonical → x15.canonical := by first | (with_reducible exact fun h => h) | (simp only [Red.canonical, Tab.wf_nil, Tab.wf_set, Tab.wf_mapAll, Tab.wf_filter, implies_true, and_self, and_true, true_and]; first | done | exact fun h => h | (intro h; simp only [h, Tab.wf_set, Tab.wf_mapAll, Tab.wf_filter, and_self])))
    (c16 : s.flt.canonical → x16.canonical := by first | (with_reducible exact fun h => h) | (simp only [Flt.canonical, Tab.wf_nil, Tab.wf_set, Tab.wf_mapAll, Tab.wf_filter, implies_true, and_self, and_true, true_and]; first | done | exact fun h => h | (intro h; simp only [h, Tab.wf_set, Tab.wf_mapAll, Tab.wf_filter, and_self])))
    (c18 : s.pwr.canonical → x18.canonical := by first | (with_reducible exact fun h => h) | (simp only [Pwr.canonical, Tab.wf_nil, Tab.wf_set, Tab.wf_mapAll, Tab.wf_filter, implies_true, and_self, and_true, true_and]; first | done | exact fun h => h | (intro h; simp only [h, Tab.wf_set, Tab.wf_mapAll, Tab.wf_filter, and_self])))
    (c19 : s.isl.canonical → x19.canonical := by first | (with_reducible exact fun h => h) | (simp only [Isl.canonical, Tab.wf_nil, Tab.wf_set, Tab.wf_mapAll, Tab.wf_filter, implies_true, and_self, and_true, true_and]; first | done | exact fun h => h | (intro h; simp only [h, Tab.wf_set, Tab.wf_mapAll, Tab.wf_filter, and_self])))
    (c20 : s.tel.canonical → x20.canonical := by first | (with_reducible exact fun h => h) | (simp only [Tel.canonical, Tab.wf_nil, Tab.wf_set, Tab.wf_mapAll, Tab.wf_filter, implies_true, and_self, and_true, true_and]; first | done | exact fun h => h | (intro h; simp only [h, Tab.wf_set, Tab.wf_mapAll, Tab.wf_filter, and_self]))) :
    Keeps k a ⟨x0, x1, x2, x3, x4, x5, x6, x7, x8, x9, x10, x11, x12, x13, x14, x15, x16, x17, x18, x19, x20, x21, x22, s.pending⟩ :=
  ⟨Keeps.next h.sys h0,
    Keeps.next h.glb h1,
    Keeps.next h.clk h2,
    Keeps.next h.boot h3,
    Keeps.next h.lcd h4,
    Keeps.next h.otp h5,
    Keeps.next h.keys h6,
    Keeps.next h.lanes h7,
    Keeps.next h.mem h8,
    Keeps.next h.links h9,
    Keeps.next h.doms h10,
    Keeps.next h.flood h11,
    Keeps.next h.fab h12,
    Keeps.next h.fe h13,
    Keeps.next h.vd h14,
    Keeps.next h.red h15,
    Keeps.next h.flt h16,
    Keeps.next h.tray h17,
    Keeps.next h.pwr h18,
    Keeps.next h.isl h19,
    Keeps.next h.tel h20,
    Keeps.next h.freeCtr h21,
    Keeps.next h.outs h22,
    h.pending, fun r b x => ho r b (h.fuses r b x), h.grew.trans hg, fun x => hr (h.rates x), fun x =>
    have y := h.canon x; ⟨c5 y.otp, c9 y.links, c10 y.doms, c1 y.glb, c6 y.keys, c7 y.lanes, c8 y.mem, c12 y.fab, c13 y.fe, c14 y.vd, c15 y.red, c16 y.flt, c18 y.pwr, c19 y.isl, c20 y.tel⟩⟩

theorem foldl {k : BitVec 24} {a : State} {β : Type} {f : State → β → State} {xs : List β} {s : State} (h : Keeps k a s)
    (hf : ∀ t x, Keeps k a t → Keeps k a (f t x)) : Keeps k a (xs.foldl f s) := by
  induction xs generalizing s with
  | nil => exact h
  | cons x xs ih => exact ih (hf _ _ h)

theorem ite {k : BitVec 24} {a s t : State} {p : Prop} [Decidable p] (h : Keeps k a s) (g : Keeps k a t) :
    Keeps k a (if p then s else t) := by split <;> assumption

theorem ofFst {k : BitVec 24} {a t : State} {β : Type} {p : State × β} {b : β} (e : p = (t, b)) (h : Keeps k a p.1) :
    Keeps k a t := by subst e; exact h

theorem ofSnd {k : BitVec 24} {a t : State} {β : Type} {p : β × State} {b : β} (e : p = (b, t)) (h : Keeps k a p.2) :
    Keeps k a t := by subst e; exact h

/-- Any state an optional result holds is framed. -/
def Opt (k : BitVec 24) (a : State) (o : Option State) : Prop := ∀ t, o = some t → Keeps k a t

theorem Opt.none {k : BitVec 24} {a : State} : Opt k a none := fun _ h => nomatch h
theorem Opt.some {k : BitVec 24} {a t : State} (h : Keeps k a t) : Opt k a (some t) := fun _ e => by injection e with e; exact e ▸ h
theorem Opt.map {k : BitVec 24} {a : State} {o : Option State} {f : State → State} (h : Opt k a o)
    (g : ∀ t, Keeps k a t → Keeps k a (f t)) : Opt k a (o.map f) := by
  cases o with
  | none => exact fun _ h => nomatch h
  | some t => exact Opt.some (g t (h t rfl))

theorem Opt.mapAny {k : BitVec 24} {a : State} {β : Type} {o : Option β} {f : β → State} (h : ∀ x, Keeps k a (f x)) :
    Opt k a (o.map f) := by
  cases o with
  | none => exact Opt.none
  | some x => exact Opt.some (h x)

theorem ofOpt {k : BitVec 24} {a t : State} {o : Option State} (e : o = .some t) (h : Opt k a o) : Keeps k a t := h t e

theorem getD {k : BitVec 24} {a s : State} {o : Option State} (h : Keeps k a s) (g : Opt k a o) :
    Keeps k a (o.getD s) := by cases o <;> first | exact h | exact g _ rfl

/-- The same of an optional pair. -/
def Opt2 {β : Type} (k : BitVec 24) (a : State) (o : Option (β × State)) : Prop := ∀ b t, o = .some (b, t) → Keeps k a t

theorem Opt2.none {β : Type} {k : BitVec 24} {a : State} : Opt2 (β := β) k a none := fun _ _ h => nomatch h
theorem Opt2.some {β : Type} {k : BitVec 24} {a t : State} {b : β} (h : Keeps k a t) : Opt2 k a (.some (b, t)) :=
  fun _ _ e => by injection e with e; injection e with _ e; exact e ▸ h

theorem ofOpt2 {β : Type} {k : BitVec 24} {a t : State} {b : β} {o : Option (β × State)} (e : o = .some (b, t)) (h : Opt2 k a o) :
    Keeps k a t := h b t e

end Keeps

end Sys2Proof.Machine
end

