-- ==== Sys2Proof/Laws/FrameState.lean ====
section
/-! SUPPORT. The frame of each operation of Sys2Proof/Machine/State.lean. -/

namespace Sys2Proof.Machine

set_option Elab.async false

theorem State.setLink_keeps {K : BitVec 24} {a0 : State} {s : State} {l : LinkId} {v : Link} (hS : Keeps K a0 s)
    (hK : 0x000200#24 ||| K = K) : Keeps K a0 (State.setLink s l v) := by
  unfold State.setLink
  repeat' first
    | (with_reducible assumption) | exact Keeps.sub hK (by decide) | split | (dsimp only)
    | (fail_if_no_progress refine Keeps.put ?_)

theorem State.modLink_keeps {K : BitVec 24} {a0 : State} {s : State} {l : LinkId} {f : Link → Link} (hS : Keeps K a0 s)
    (hK : 0x000200#24 ||| K = K) : Keeps K a0 (State.modLink s l f) := by
  unfold State.modLink
  repeat' first
    | (with_reducible assumption) | exact Keeps.sub hK (by decide) | (with_reducible apply State.setLink_keeps)
    | split | (dsimp only)

theorem State.setDom_keeps {K : BitVec 24} {a0 : State} {s : State} {d : Slot} {v : Dom} (hS : Keeps K a0 s)
    (hK : 0x000400#24 ||| K = K) : Keeps K a0 (State.setDom s d v) := by
  unfold State.setDom
  repeat' first
    | (with_reducible assumption) | exact Keeps.sub hK (by decide) | split | (dsimp only)
    | (fail_if_no_progress refine Keeps.put ?_)

theorem State.modDom_keeps {K : BitVec 24} {a0 : State} {s : State} {d : Slot} {f : Dom → Dom} (hS : Keeps K a0 s)
    (hK : 0x000400#24 ||| K = K) : Keeps K a0 (State.modDom s d f) := by
  unfold State.modDom
  repeat' first
    | (with_reducible assumption) | exact Keeps.sub hK (by decide) | (with_reducible apply State.setDom_keeps)
    | split | (dsimp only)

theorem State.setCtx_keeps {K : BitVec 24} {a0 : State} {s : State} {c : CtxId} {v : Ctx} (hS : Keeps K a0 s)
    (hK : 0x002000#24 ||| K = K) : Keeps K a0 (State.setCtx s c v) := by
  unfold State.setCtx
  repeat' first
    | (with_reducible assumption) | exact Keeps.sub hK (by decide) | split | (dsimp only)
    | (fail_if_no_progress refine Keeps.put ?_)

theorem State.modCtx_keeps {K : BitVec 24} {a0 : State} {s : State} {c : CtxId} {f : Ctx → Ctx} (hS : Keeps K a0 s)
    (hK : 0x002000#24 ||| K = K) : Keeps K a0 (State.modCtx s c f) := by
  unfold State.modCtx
  repeat' first
    | (with_reducible assumption) | exact Keeps.sub hK (by decide) | (with_reducible apply State.setCtx_keeps)
    | split | (dsimp only)

theorem State.setFunc_keeps {K : BitVec 24} {a0 : State} {s : State} {f : Fn} {v : Func} (hS : Keeps K a0 s)
    (hK : 0x002000#24 ||| K = K) : Keeps K a0 (State.setFunc s f v) := by
  unfold State.setFunc
  repeat' first
    | (with_reducible assumption) | exact Keeps.sub hK (by decide) | split | (dsimp only)
    | (fail_if_no_progress refine Keeps.put ?_)

theorem State.modFunc_keeps {K : BitVec 24} {a0 : State} {s : State} {f : Fn} {g : Func → Func} (hS : Keeps K a0 s)
    (hK : 0x002000#24 ||| K = K) : Keeps K a0 (State.modFunc s f g) := by
  unfold State.modFunc
  repeat' first
    | (with_reducible assumption) | exact Keeps.sub hK (by decide) | (with_reducible apply State.setFunc_keeps)
    | split | (dsimp only)

theorem State.setRow_keeps {K : BitVec 24} {a0 : State} {s : State} {r : Nat} {v : KeyRow} (hS : Keeps K a0 s)
    (hK : 0x000040#24 ||| K = K) : Keeps K a0 (State.setRow s r v) := by
  unfold State.setRow
  repeat' first
    | (with_reducible assumption) | exact Keeps.sub hK (by decide) | split | (dsimp only)
    | (fail_if_no_progress refine Keeps.put ?_)

theorem State.setChan_keeps {K : BitVec 24} {a0 : State} {s : State} {c : ChanId} {v : McChan} (hS : Keeps K a0 s)
    (hK : 0x000100#24 ||| K = K) : Keeps K a0 (State.setChan s c v) := by
  unfold State.setChan
  repeat' first
    | (with_reducible assumption) | exact Keeps.sub hK (by decide) | split | (dsimp only)
    | (fail_if_no_progress refine Keeps.put ?_)

theorem State.modChan_keeps {K : BitVec 24} {a0 : State} {s : State} {c : ChanId} {f : McChan → McChan} (hS : Keeps K a0 s)
    (hK : 0x000100#24 ||| K = K) : Keeps K a0 (State.modChan s c f) := by
  unfold State.modChan
  repeat' first
    | (with_reducible assumption) | exact Keeps.sub hK (by decide) | (with_reducible apply State.setChan_keeps)
    | split | (dsimp only)

theorem State.setMemIdx_keeps {K : BitVec 24} {a0 : State} {s : State} {i : KeyIdx} {v : MemIndex} (hS : Keeps K a0 s)
    (hK : 0x000100#24 ||| K = K) : Keeps K a0 (State.setMemIdx s i v) := by
  unfold State.setMemIdx
  repeat' first
    | (with_reducible assumption) | exact Keeps.sub hK (by decide) | split | (dsimp only)
    | (fail_if_no_progress refine Keeps.put ?_)

theorem State.setVdev_keeps {K : BitVec 24} {a0 : State} {s : State} {v : VdId} {d : Vd} (hS : Keeps K a0 s)
    (hK : 0x004000#24 ||| K = K) : Keeps K a0 (State.setVdev s v d) := by
  unfold State.setVdev
  repeat' first
    | (with_reducible assumption) | exact Keeps.sub hK (by decide) | split | (dsimp only)
    | (fail_if_no_progress refine Keeps.put ?_)

theorem State.modVdev_keeps {K : BitVec 24} {a0 : State} {s : State} {v : VdId} {f : Vd → Vd} (hS : Keeps K a0 s)
    (hK : 0x004000#24 ||| K = K) : Keeps K a0 (State.modVdev s v f) := by
  unfold State.modVdev
  repeat' first
    | (with_reducible assumption) | exact Keeps.sub hK (by decide) | (with_reducible apply State.setVdev_keeps)
    | split | (dsimp only)

theorem State.setProg_keeps {K : BitVec 24} {a0 : State} {s : State} {p : ProgId} {v : Prog} (hS : Keeps K a0 s)
    (hK : 0x008000#24 ||| K = K) : Keeps K a0 (State.setProg s p v) := by
  unfold State.setProg
  repeat' first
    | (with_reducible assumption) | exact Keeps.sub hK (by decide) | split | (dsimp only)
    | (fail_if_no_progress refine Keeps.put ?_)

theorem State.modProg_keeps {K : BitVec 24} {a0 : State} {s : State} {p : ProgId} {f : Prog → Prog} (hS : Keeps K a0 s)
    (hK : 0x008000#24 ||| K = K) : Keeps K a0 (State.modProg s p f) := by
  unfold State.modProg
  repeat' first
    | (with_reducible assumption) | exact Keeps.sub hK (by decide) | (with_reducible apply State.setProg_keeps)
    | split | (dsimp only)

theorem State.setEng_keeps {K : BitVec 24} {a0 : State} {s : State} {e : Nat} {v : FltEng} (hS : Keeps K a0 s)
    (hK : 0x010000#24 ||| K = K) : Keeps K a0 (State.setEng s e v) := by
  unfold State.setEng
  repeat' first
    | (with_reducible assumption) | exact Keeps.sub hK (by decide) | split | (dsimp only)
    | (fail_if_no_progress refine Keeps.put ?_)

theorem State.modEng_keeps {K : BitVec 24} {a0 : State} {s : State} {e : Nat} {f : FltEng → FltEng} (hS : Keeps K a0 s)
    (hK : 0x010000#24 ||| K = K) : Keeps K a0 (State.modEng s e f) := by
  unfold State.modEng
  repeat' first
    | (with_reducible assumption) | exact Keeps.sub hK (by decide) | (with_reducible apply State.setEng_keeps)
    | split | (dsimp only)

theorem State.setTamper_keeps {K : BitVec 24} {a0 : State} {s : State} {i : BitVec 2} {v : Tamper} (hS : Keeps K a0 s)
    (hK : 0x080000#24 ||| K = K) : Keeps K a0 (State.setTamper s i v) := by
  unfold State.setTamper
  repeat' first
    | (with_reducible assumption) | exact Keeps.sub hK (by decide) | split | (dsimp only)
    | (fail_if_no_progress refine Keeps.put ?_)

theorem State.setMtr_keeps {K : BitVec 24} {a0 : State} {s : State} {d : Slot} {v : Mtr} (hS : Keeps K a0 s)
    (hK : 0x040000#24 ||| K = K) : Keeps K a0 (State.setMtr s d v) := by
  unfold State.setMtr
  repeat' first
    | (with_reducible assumption) | exact Keeps.sub hK (by decide) | split | (dsimp only)
    | (fail_if_no_progress refine Keeps.put ?_)

theorem State.modMtr_keeps {K : BitVec 24} {a0 : State} {s : State} {d : Slot} {f : Mtr → Mtr} (hS : Keeps K a0 s)
    (hK : 0x040000#24 ||| K = K) : Keeps K a0 (State.modMtr s d f) := by
  unfold State.modMtr
  repeat' first
    | (with_reducible assumption) | exact Keeps.sub hK (by decide) | (with_reducible apply State.setMtr_keeps)
    | split | (dsimp only)

theorem State.out_keeps {K : BitVec 24} {a0 : State} {s : State} {o : PortOut} (hS : Keeps K a0 s)
    (hK : 0x400000#24 ||| K = K) : Keeps K a0 (State.out s o) := by
  unfold State.out
  repeat' first
    | (with_reducible assumption) | exact Keeps.sub hK (by decide) | split | (dsimp only)
    | (fail_if_no_progress refine Keeps.put ?_)

end Sys2Proof.Machine
end

