-- ==== Sys2Proof/Laws/FrameFlags.lean ====
section
/-! SUPPORT. The frame of each operation of Sys2Proof/Machine/Flags.lean. -/

namespace Sys2Proof.Machine

set_option Elab.async false

theorem State.keyEvent_keeps {K : BitVec 24} {a0 : State} {s : State} {b : Nat} (hS : Keeps K a0 s)
    (hK : 0x000040#24 ||| K = K) : Keeps K a0 (State.keyEvent s b) := by
  unfold State.keyEvent
  repeat' first
    | (with_reducible assumption) | exact Keeps.sub hK (by decide) | split | (dsimp only)
    | (fail_if_no_progress refine Keeps.put ?_)

theorem State.memAlarm_keeps {K : BitVec 24} {a0 : State} {s : State} {b : Nat} (hS : Keeps K a0 s)
    (hK : 0x000100#24 ||| K = K) : Keeps K a0 (State.memAlarm s b) := by
  unfold State.memAlarm
  repeat' first
    | (with_reducible assumption) | exact Keeps.sub hK (by decide) | split | (dsimp only)
    | (fail_if_no_progress refine Keeps.put ?_)

theorem State.fltEvent_keeps {K : BitVec 24} {a0 : State} {s : State} {b : Nat} (hS : Keeps K a0 s)
    (hK : 0x010000#24 ||| K = K) : Keeps K a0 (State.fltEvent s b) := by
  unfold State.fltEvent
  repeat' first
    | (with_reducible assumption) | exact Keeps.sub hK (by decide) | split | (dsimp only)
    | (fail_if_no_progress refine Keeps.put ?_)

theorem State.redEvent_keeps {K : BitVec 24} {a0 : State} {s : State} {b : Nat} (hS : Keeps K a0 s)
    (hK : 0x008000#24 ||| K = K) : Keeps K a0 (State.redEvent s b) := by
  unfold State.redEvent
  repeat' first
    | (with_reducible assumption) | exact Keeps.sub hK (by decide) | split | (dsimp only)
    | (fail_if_no_progress refine Keeps.put ?_)

theorem State.fabEvent_keeps {K : BitVec 24} {a0 : State} {s : State} {b : Nat} (hS : Keeps K a0 s)
    (hK : 0x001000#24 ||| K = K) : Keeps K a0 (State.fabEvent s b) := by
  unfold State.fabEvent
  repeat' first
    | (with_reducible assumption) | exact Keeps.sub hK (by decide) | split | (dsimp only)
    | (fail_if_no_progress refine Keeps.put ?_)

theorem State.linkEvent_keeps {K : BitVec 24} {a0 : State} {s : State} {l : LinkId} {b : Nat} (hS : Keeps K a0 s)
    (hK : 0x000200#24 ||| K = K) : Keeps K a0 (State.linkEvent s l b) := by
  unfold State.linkEvent
  repeat' first
    | (with_reducible assumption) | exact Keeps.sub hK (by decide) | (with_reducible apply State.modLink_keeps)
    | split | (dsimp only)

theorem State.domEvent_keeps {K : BitVec 24} {a0 : State} {s : State} {d : Slot} {b : Nat} (hS : Keeps K a0 s)
    (hK : 0x000400#24 ||| K = K) : Keeps K a0 (State.domEvent s d b) := by
  unfold State.domEvent
  repeat' first
    | (with_reducible assumption) | exact Keeps.sub hK (by decide) | (with_reducible apply State.modDom_keeps)
    | split | (dsimp only)

end Sys2Proof.Machine
end

