-- ==== Sys2Proof/Laws/FrameOps.lean ====
section
/-! SUPPORT. The frame of each operation of Sys2Proof/Machine/Ops.lean. -/

namespace Sys2Proof.Machine

set_option Elab.async false

theorem State.draw_keeps {K : BitVec 24} {a0 : State} {s : State} (hS : Keeps K a0 s)
    (hK : 0x200000#24 ||| K = K) : Keeps K a0 (State.draw s).2 := by
  unfold State.draw
  repeat' first
    | (with_reducible assumption) | exact Keeps.sub hK (by decide) | split | (dsimp only)
    | (fail_if_no_progress refine Keeps.put ?_)

theorem State.msi_keeps {K : BitVec 24} {a0 : State} {s : State} {f : Fn} {v : BitVec 11} (hS : Keeps K a0 s)
    (hK : 0x400000#24 ||| K = K) : Keeps K a0 (State.msi s f v) := by
  unfold State.msi
  repeat' first
    | (with_reducible assumption) | exact Keeps.sub hK (by decide) | (with_reducible apply State.out_keeps) | split
    | (dsimp only)

theorem State.msiPf_keeps {K : BitVec 24} {a0 : State} {s : State} (hS : Keeps K a0 s)
    (hK : 0x400000#24 ||| K = K) : Keeps K a0 (State.msiPf s) := by
  unfold State.msiPf
  repeat' first
    | (with_reducible assumption) | exact Keeps.sub hK (by decide) | (with_reducible apply State.msi_keeps) | split
    | (dsimp only)

theorem State.count_keeps {K : BitVec 24} {a0 : State} {s : State} {k : Nat} {n : Nat} (hS : Keeps K a0 s)
    (hK : 0x100000#24 ||| K = K) : Keeps K a0 (State.count s k n) := by
  unfold State.count
  repeat' first
    | (with_reducible assumption) | exact Keeps.sub hK (by decide) | split | (dsimp only)
    | (fail_if_no_progress refine Keeps.put ?_)

theorem State.progress_keeps {K : BitVec 24} {a0 : State} {s : State} {e : Nat} (hS : Keeps K a0 s)
    (hK : 0x010000#24 ||| K = K) : Keeps K a0 (State.progress s e) := by
  unfold State.progress
  repeat' first
    | (with_reducible assumption) | exact Keeps.sub hK (by decide) | (with_reducible apply State.modEng_keeps)
    | split | (dsimp only)

theorem State.record_keeps {K : BitVec 24} {a0 : State} {s : State} {c : Cause} {target : Nat} (hS : Keeps K a0 s)
    (hK : 0x400000#24 ||| K = K) : Keeps K a0 (State.record s c target) := by
  unfold State.record
  repeat' first
    | (with_reducible assumption) | exact Keeps.sub hK (by decide) | (with_reducible apply State.out_keeps) | split
    | (dsimp only)

theorem State.tracePush_keeps {K : BitVec 24} {a0 : State} {s : State} {r : TraceRec} (hS : Keeps K a0 s)
    (hK : 0x100000#24 ||| K = K) : Keeps K a0 (State.tracePush s r) := by
  unfold State.tracePush
  repeat' first
    | (with_reducible assumption) | exact Keeps.sub hK (by decide) | split | (dsimp only)
    | (fail_if_no_progress refine Keeps.put ?_)

theorem State.traceLost_keeps {K : BitVec 24} {a0 : State} {s : State} (hS : Keeps K a0 s)
    (hK : 0x100000#24 ||| K = K) : Keeps K a0 (State.traceLost s) := by
  unfold State.traceLost
  repeat' first
    | (with_reducible assumption) | exact Keeps.sub hK (by decide) | (with_reducible apply State.tracePush_keeps)
    | split | (dsimp only) | (fail_if_no_progress refine Keeps.put ?_)

theorem State.trace_keeps {K : BitVec 24} {a0 : State} {s : State} {type : Byte} {c : Option CtxId} {d : Option Slot} {layer : BitVec 16} {operator : BitVec 16} {arg : Bytes} (hS : Keeps K a0 s)
    (hK : 0x100000#24 ||| K = K) : Keeps K a0 (State.trace s type c d layer operator arg) := by
  unfold State.trace
  repeat' first
    | (with_reducible assumption) | exact Keeps.sub hK (by decide) | (with_reducible apply State.traceLost_keeps)
    | (with_reducible apply State.tracePush_keeps) | (with_reducible refine Keeps.getD ?_ ?_) | split | (dsimp only)
    | (fail_if_no_progress refine Keeps.put ?_)

theorem State.timeMark_keeps {K : BitVec 24} {a0 : State} {s : State} {d : Slot} (hS : Keeps K a0 s)
    (hK : 0x100000#24 ||| K = K) : Keeps K a0 (State.timeMark s d) := by
  unfold State.timeMark
  repeat' first
    | (with_reducible assumption) | exact Keeps.sub hK (by decide) | (with_reducible apply State.trace_keeps) | split
    | (dsimp only)

theorem State.traceDiscard_keeps {K : BitVec 24} {a0 : State} {s : State} {counted : Bool} (hS : Keeps K a0 s)
    (hK : 0x100000#24 ||| K = K) : Keeps K a0 (State.traceDiscard s counted) := by
  unfold State.traceDiscard
  repeat' first
    | (with_reducible assumption) | exact Keeps.sub hK (by decide) | split | (dsimp only)
    | (fail_if_no_progress refine Keeps.put ?_)

theorem State.trayStamp_keeps {K : BitVec 24} {a0 : State} {s : State} (hS : Keeps K a0 s)
    (hK : 0x020000#24 ||| K = K) : Keeps K a0 (State.trayStamp s) := by
  unfold State.trayStamp
  repeat' first
    | (with_reducible assumption) | exact Keeps.sub hK (by decide) | split | (dsimp only)
    | (fail_if_no_progress refine Keeps.put ?_)

theorem State.traySend_keeps {K : BitVec 24} {a0 : State} {s : State} (hS : Keeps K a0 s)
    (hK : 0x420000#24 ||| K = K) : Keeps K a0 (State.traySend s) := by
  unfold State.traySend
  repeat' first
    | (with_reducible assumption) | exact Keeps.sub hK (by decide) | (with_reducible apply State.out_keeps) | split
    | (dsimp only) | (fail_if_no_progress refine Keeps.put ?_)

theorem State.trayPost_keeps {K : BitVec 24} {a0 : State} {s : State} {v : Byte} (hS : Keeps K a0 s)
    (hK : 0x420000#24 ||| K = K) : Keeps K a0 (State.trayPost s v) := by
  unfold State.trayPost
  repeat' first
    | (with_reducible assumption) | exact Keeps.sub hK (by decide) | (with_reducible apply State.traySend_keeps)
    | (with_reducible apply State.trayStamp_keeps) | split | (dsimp only) | (fail_if_no_progress refine Keeps.put ?_)

theorem State.writeKey_keeps {K : BitVec 24} {a0 : State} {s : State} {r : Nat} {m : BitVec 288} {p : KeyParent} {tense : BitVec 2} {d : Slot} {gen : BitVec 32} (hS : Keeps K a0 s)
    (hK : 0x000040#24 ||| K = K) : Keeps K a0 (State.writeKey s r m p tense d gen) := by
  unfold State.writeKey
  repeat' first
    | (with_reducible assumption) | exact Keeps.sub hK (by decide) | (with_reducible apply State.setRow_keeps)
    | split | (dsimp only)

theorem State.eraseRow_keeps {K : BitVec 24} {a0 : State} {s : State} {r : Nat} (hS : Keeps K a0 s)
    (hK : 0x000040#24 ||| K = K) : Keeps K a0 (State.eraseRow s r) := by
  unfold State.eraseRow
  repeat' first
    | (with_reducible assumption) | exact Keeps.sub hK (by decide) | (with_reducible apply State.setRow_keeps)
    | split | (dsimp only)

theorem State.eraseSubtree_keeps {K : BitVec 24} {a0 : State} {s : State} {target : KeyParent} (hS : Keeps K a0 s)
    (hK : 0x000040#24 ||| K = K) : Keeps K a0 (State.eraseSubtree s target) := by
  unfold State.eraseSubtree
  repeat' first
    | (with_reducible assumption) | exact Keeps.sub hK (by decide) | split | (dsimp only)
    | (fail_if_no_progress refine Keeps.put ?_)

theorem State.keyInvalidateRow_keeps {K : BitVec 24} {a0 : State} {s : State} {r : Nat} (hS : Keeps K a0 s)
    (hK : 0x000040#24 ||| K = K) : Keeps K a0 (State.keyInvalidateRow s r) := by
  unfold State.keyInvalidateRow
  repeat' first
    | (with_reducible assumption) | exact Keeps.sub hK (by decide) | (with_reducible apply State.eraseRow_keeps)
    | (with_reducible apply State.eraseSubtree_keeps) | (with_reducible apply State.keyEvent_keeps) | split
    | (dsimp only)

theorem State.useKey_keeps {K : BitVec 24} {a0 : State} {s : State} {r : Nat} {n : Nat} (hS : Keeps K a0 s)
    (hK : 0x000040#24 ||| K = K) : Keeps K a0 (State.useKey s r n) := by
  unfold State.useKey
  repeat' first
    | (with_reducible assumption) | exact Keeps.sub hK (by decide) | (with_reducible apply State.setRow_keeps)
    | split | (dsimp only)

theorem State.reissueCert_keeps {K : BitVec 24} {a0 : State} {s : State} (hS : Keeps K a0 s)
    (hK : 0x000008#24 ||| K = K) : Keeps K a0 (State.reissueCert s) := by
  unfold State.reissueCert
  repeat' first
    | (with_reducible assumption) | exact Keeps.sub hK (by decide) | split | (dsimp only)
    | (fail_if_no_progress refine Keeps.put ?_)

theorem State.setCluster_keeps {K : BitVec 24} {a0 : State} {s : State} {k : ClusterId} {c : LaneCluster} (hS : Keeps K a0 s)
    (hK : 0x000080#24 ||| K = K) : Keeps K a0 (State.setCluster s k c) := by
  unfold State.setCluster
  repeat' first
    | (with_reducible assumption) | exact Keeps.sub hK (by decide) | split | (dsimp only)
    | (fail_if_no_progress refine Keeps.put ?_)

theorem State.setCal_keeps {K : BitVec 24} {a0 : State} {s : State} {r : Region} {c : Cal} (hS : Keeps K a0 s)
    (hK : 0x000004#24 ||| K = K) : Keeps K a0 (State.setCal s r c) := by
  unfold State.setCal
  repeat' first
    | (with_reducible assumption) | exact Keeps.sub hK (by decide) | split | (dsimp only)
    | (fail_if_no_progress refine Keeps.put ?_)

theorem State.setGrade_keeps {K : BitVec 24} {a0 : State} {s : State} {g : BitVec 2} (hS : Keeps K a0 s)
    (hK : 0x530008#24 ||| K = K) : Keeps K a0 (State.setGrade s g) := by
  unfold State.setGrade
  repeat' first
    | (with_reducible assumption) | exact Keeps.sub hK (by decide) | (with_reducible apply State.fltEvent_keeps)
    | (with_reducible apply State.reissueCert_keeps) | (with_reducible apply State.trace_keeps)
    | (with_reducible apply State.trayPost_keeps) | split | (dsimp only) | (fail_if_no_progress refine Keeps.put ?_)

theorem State.gradeUpdate_keeps {K : BitVec 24} {a0 : State} {s : State} (hS : Keeps K a0 s)
    (hK : 0x530008#24 ||| K = K) : Keeps K a0 (State.gradeUpdate s) := by
  unfold State.gradeUpdate
  repeat' first
    | (with_reducible assumption) | exact Keeps.sub hK (by decide) | (with_reducible apply State.setGrade_keeps)
    | split | (dsimp only)

theorem State.modFlight_keeps {K : BitVec 24} {a0 : State} {s : State} {r : GroupRef} {f : RxFlight → RxFlight} (hS : Keeps K a0 s)
    (hK : 0x000200#24 ||| K = K) : Keeps K a0 (State.modFlight s r f) := by
  unfold State.modFlight
  repeat' first
    | (with_reducible assumption) | exact Keeps.sub hK (by decide) | (with_reducible apply State.modLink_keeps)
    | split | (dsimp only)

theorem State.addConsumer_keeps {K : BitVec 24} {a0 : State} {s : State} {c : CtxId} {r : GroupRef} (hS : Keeps K a0 s)
    (hK : 0x000200#24 ||| K = K) : Keeps K a0 (State.addConsumer s c r) := by
  unfold State.addConsumer
  repeat' first
    | (with_reducible assumption) | exact Keeps.sub hK (by decide) | (with_reducible apply State.modFlight_keeps)
    | split | (dsimp only)

theorem State.meter_keeps {K : BitVec 24} {a0 : State} {s : State} {d : Slot} {m : Nat} {n : Nat} (hS : Keeps K a0 s)
    (hK : 0x040000#24 ||| K = K) : Keeps K a0 (State.meter s d m n) := by
  unfold State.meter
  repeat' first
    | (with_reducible assumption) | exact Keeps.sub hK (by decide) | (with_reducible apply State.modMtr_keeps)
    | split | (dsimp only)

theorem State.activity_keeps {K : BitVec 24} {a0 : State} {s : State} {c : Option CtxId} {n : Nat} (hS : Keeps K a0 s)
    (hK : 0x042000#24 ||| K = K) : Keeps K a0 (State.activity s c n) := by
  unfold State.activity
  repeat' first
    | (with_reducible assumption) | exact Keeps.sub hK (by decide) | (with_reducible apply State.modCtx_keeps)
    | split | (dsimp only) | (fail_if_no_progress refine Keeps.put ?_)

theorem State.hdWriteAux_keeps {K : BitVec 24} {a0 : State} {s : State} {f : Fn} {z2 : Nat} {z3 : BitVec 64} {z4 : Bytes} (hS : Keeps K a0 s)
    (hK : 0x400000#24 ||| K = K) : Keeps K a0 (State.hdWriteAux s f z2 z3 z4) := by
  induction z2 generalizing s f z3 z4 with
  | zero =>
    unfold State.hdWriteAux
    repeat' first
      | (with_reducible assumption) | exact Keeps.sub hK (by decide) | (with_reducible apply State.out_keeps) | split
      | (dsimp only)
  | succ m ih =>
    unfold State.hdWriteAux
    repeat' first
      | (with_reducible assumption) | exact Keeps.sub hK (by decide) | (with_reducible apply ih)
      | (with_reducible apply State.out_keeps) | split | (dsimp only) | (cases Nat.succ.inj ‹_ + 1 = Nat.succ _›)

theorem State.hostWrite_keeps {K : BitVec 24} {a0 : State} {s : State} {f : Fn} {a : BitVec 64} {bs : Bytes} (hS : Keeps K a0 s)
    (hK : 0x400000#24 ||| K = K) : Keeps K a0 (State.hostWrite s f a bs) := by
  unfold State.hostWrite
  repeat' first
    | (with_reducible assumption) | exact Keeps.sub hK (by decide) | (with_reducible apply State.hdWriteAux_keeps)
    | split | (dsimp only)

theorem State.pmPut_keeps {K : BitVec 24} {a0 : State} {s : State} {o : PortOut} (hS : Keeps K a0 s)
    (hK : 0x600000#24 ||| K = K) : Keeps.Opt K a0 (State.pmPut s o) := by
  unfold State.pmPut
  repeat' first
    | (with_reducible assumption) | exact Keeps.sub hK (by decide) | (with_reducible apply State.out_keeps)
    | exact Keeps.Opt.none | (with_reducible refine Keeps.Opt.some ?_) | split | (dsimp only)
    | (fail_if_no_progress refine Keeps.put ?_)

theorem State.pmMissed_keeps {K : BitVec 24} {a0 : State} {s : State} (hS : Keeps K a0 s)
    (hK : 0x200000#24 ||| K = K) : Keeps K a0 (State.pmMissed s) := by
  unfold State.pmMissed
  repeat' first
    | (with_reducible assumption) | exact Keeps.sub hK (by decide) | split | (dsimp only)
    | (fail_if_no_progress refine Keeps.put ?_)

theorem State.skewPut_keeps {K : BitVec 24} {a0 : State} {s : State} {p : ProgId} {w : BitVec 64} (hS : Keeps K a0 s)
    (hK : 0x608000#24 ||| K = K) : Keeps K a0 (State.skewPut s p w) := by
  unfold State.skewPut
  repeat' first
    | (with_reducible assumption) | exact Keeps.sub hK (by decide) | (with_reducible apply State.modProg_keeps)
    | (with_reducible apply State.pmMissed_keeps) | (with_reducible apply State.pmPut_keeps)
    | (with_reducible refine Keeps.ofOpt (by assumption) ?_; with_reducible apply State.pmPut_keeps)
    | (with_reducible apply State.redEvent_keeps) | exact Keeps.Opt.none | (with_reducible refine Keeps.Opt.some ?_)
    | split | (dsimp only)

theorem State.budPut_keeps {K : BitVec 24} {a0 : State} {s : State} {w : BitVec 64} (hS : Keeps K a0 s)
    (hK : 0x640000#24 ||| K = K) : Keeps K a0 (State.budPut s w) := by
  unfold State.budPut
  repeat' first
    | (with_reducible assumption) | exact Keeps.sub hK (by decide) | (with_reducible apply State.pmMissed_keeps)
    | (with_reducible apply State.pmPut_keeps)
    | (with_reducible refine Keeps.ofOpt (by assumption) ?_; with_reducible apply State.pmPut_keeps)
    | exact Keeps.Opt.none | (with_reducible refine Keeps.Opt.some ?_) | split | (dsimp only)
    | (fail_if_no_progress refine Keeps.put ?_)

theorem State.skewPump_keeps {K : BitVec 24} {a0 : State} {z0 : List Nat} {z1 : State} (hS : Keeps K a0 z1)
    (hK : 0x608000#24 ||| K = K) : Keeps K a0 (State.skewPump z0 z1) := by
  induction z0 generalizing z1 with
  | nil =>
    unfold State.skewPump
    repeat' first
      | (with_reducible assumption) | exact Keeps.sub hK (by decide) | (with_reducible apply State.modProg_keeps)
      | (with_reducible apply State.pmMissed_keeps) | (with_reducible apply State.pmPut_keeps)
      | (with_reducible refine Keeps.ofOpt (by assumption) ?_; with_reducible apply State.pmPut_keeps)
      | exact Keeps.Opt.none | (with_reducible refine Keeps.Opt.some ?_) | split | (dsimp only)
  | cons y ys ih =>
    unfold State.skewPump
    repeat' first
      | (with_reducible assumption) | exact Keeps.sub hK (by decide) | (with_reducible apply ih)
      | (with_reducible apply State.modProg_keeps) | (with_reducible apply State.pmMissed_keeps)
      | (with_reducible apply State.pmPut_keeps)
      | (with_reducible refine Keeps.ofOpt (by assumption) ?_; with_reducible apply State.pmPut_keeps)
      | exact Keeps.Opt.none | (with_reducible refine Keeps.Opt.some ?_) | split | (dsimp only)

theorem State.budPump_keeps {K : BitVec 24} {a0 : State} {z0 : List (BitVec 64)} {z1 : State} (hS : Keeps K a0 z1)
    (hK : 0x640000#24 ||| K = K) : Keeps K a0 (State.budPump z0 z1) := by
  induction z0 generalizing z1 with
  | nil =>
    unfold State.budPump
    repeat' first
      | (with_reducible assumption) | exact Keeps.sub hK (by decide) | (with_reducible apply State.pmMissed_keeps)
      | (with_reducible apply State.pmPut_keeps)
      | (with_reducible refine Keeps.ofOpt (by assumption) ?_; with_reducible apply State.pmPut_keeps)
      | exact Keeps.Opt.none | (with_reducible refine Keeps.Opt.some ?_) | split | (dsimp only)
      | (fail_if_no_progress refine Keeps.put ?_)
  | cons y ys ih =>
    unfold State.budPump
    repeat' first
      | (with_reducible assumption) | exact Keeps.sub hK (by decide) | (with_reducible apply ih)
      | (with_reducible apply State.pmMissed_keeps) | (with_reducible apply State.pmPut_keeps)
      | (with_reducible refine Keeps.ofOpt (by assumption) ?_; with_reducible apply State.pmPut_keeps)
      | exact Keeps.Opt.none | (with_reducible refine Keeps.Opt.some ?_) | split | (dsimp only)
      | (fail_if_no_progress refine Keeps.put ?_)

theorem State.pmFlush_keeps {K : BitVec 24} {a0 : State} {s : State} (hS : Keeps K a0 s)
    (hK : 0x648000#24 ||| K = K) : Keeps K a0 (State.pmFlush s) := by
  unfold State.pmFlush
  repeat' first
    | (with_reducible assumption) | exact Keeps.sub hK (by decide) | (with_reducible apply State.budPump_keeps)
    | (with_reducible apply State.skewPump_keeps) | split | (dsimp only)

theorem State.idle_keeps {K : BitVec 24} {a0 : State} {s : State} (hS : Keeps K a0 s)
    (hK : 0x648401#24 ||| K = K) : Keeps K a0 (State.idle s) := by
  unfold State.idle
  repeat' first
    | (with_reducible assumption) | exact Keeps.sub hK (by decide) | (with_reducible apply State.pmFlush_keeps)
    | split | (dsimp only) | (fail_if_no_progress refine Keeps.put ?_)

end Sys2Proof.Machine
end

