-- ==== Sys2Proof/Laws/FrameMemOps.lean ====
section
/-! SUPPORT. The frame of each operation of Sys2Proof/Machine/MemOps.lean. -/

namespace Sys2Proof.Machine

set_option Elab.async false

theorem State.memRefusal_keeps {K : BitVec 24} {a0 : State} {s : State} {m : Master} {i : KeyIdx} {d : Dpa} {write : Bool} (hS : Keeps K a0 s)
    (hK : 0x400100#24 ||| K = K) : Keeps.Opt2 K a0 (State.memRefusal s m i d write) := by
  unfold State.memRefusal
  repeat' first
    | (with_reducible assumption) | exact Keeps.sub hK (by decide) | (with_reducible apply State.memAlarm_keeps)
    | (with_reducible apply State.record_keeps) | exact Keeps.Opt2.none | (with_reducible refine Keeps.Opt2.some ?_)
    | split | (dsimp only)

theorem State.portViolation_keeps {K : BitVec 24} {a0 : State} {s : State} {port : BitVec 1} {ch : ChanId} {sub : BitVec 2} {kind : BitVec 2} (hS : Keeps K a0 s)
    (hK : 0x000002#24 ||| K = K) : Keeps K a0 (State.portViolation s port ch sub kind) := by
  unfold State.portViolation
  repeat' first
    | (with_reducible assumption) | exact Keeps.sub hK (by decide) | split | (dsimp only)
    | (fail_if_no_progress refine Keeps.put ?_)

theorem State.mcIssue_keeps {K : BitVec 24} {a0 : State} {s : State} {i : KeyIdx} {d : Dpa} {p : McPurpose} {w : Option (Line × BitVec 32)} {tag : Option MemTag} (hS : Keeps K a0 s)
    (hK : 0x510100#24 ||| K = K) : Keeps.Opt K a0 (State.mcIssue s i d p w tag) := by
  unfold State.mcIssue
  repeat' first
    | (with_reducible assumption) | exact Keeps.sub hK (by decide) | (with_reducible apply State.count_keeps)
    | (with_reducible apply State.out_keeps) | (with_reducible apply State.progress_keeps) | exact Keeps.Opt.none
    | (with_reducible refine Keeps.Opt.some ?_) | split | (dsimp only) | (fail_if_no_progress refine Keeps.put ?_)

theorem State.noteSealed_keeps {K : BitVec 24} {a0 : State} {s : State} {m : Master} {i : KeyIdx} {d : Dpa} (hS : Keeps K a0 s)
    (hK : 0x042140#24 ||| K = K) : Keeps K a0 (State.noteSealed s m i d) := by
  unfold State.noteSealed
  repeat' first
    | (with_reducible assumption) | exact Keeps.sub hK (by decide) | (with_reducible apply State.activity_keeps)
    | (with_reducible apply State.meter_keeps) | (with_reducible apply State.modChan_keeps)
    | (with_reducible apply State.useKey_keeps) | split | (dsimp only)

theorem State.memEnd_keeps {K : BitVec 24} {a0 : State} {s : State} {m : Master} {tag : Option MemTag} {d : Dpa} {st : Status} {alarm : Bool} (hS : Keeps K a0 s)
    (hK : 0x400100#24 ||| K = K) : Keeps K a0 (State.memEnd s m tag d st alarm) := by
  unfold State.memEnd
  repeat' first
    | (with_reducible assumption) | exact Keeps.sub hK (by decide) | (with_reducible apply State.out_keeps) | split
    | (dsimp only) | (fail_if_no_progress refine Keeps.put ?_)

theorem State.memDoneOk_keeps {K : BitVec 24} {a0 : State} {s : State} {m : Master} {tag : Option MemTag} {d : Dpa} (hS : Keeps K a0 s)
    (hK : 0x400100#24 ||| K = K) : Keeps K a0 (State.memDoneOk s m tag d) := by
  unfold State.memDoneOk
  repeat' first
    | (with_reducible assumption) | exact Keeps.sub hK (by decide) | (with_reducible apply State.memEnd_keeps)
    | split | (dsimp only) | (fail_if_no_progress refine Keeps.put ?_)

theorem State.mcWrite_keeps {K : BitVec 24} {a0 : State} {s : State} {m : Master} {i : KeyIdx} {d : Dpa} {p : Line} {tag : Option MemTag} (hS : Keeps K a0 s)
    (hK : 0x552140#24 ||| K = K) : Keeps.Opt K a0 (State.mcWrite s m i d p tag) := by
  unfold State.mcWrite
  repeat' first
    | (with_reducible assumption) | exact Keeps.sub hK (by decide) | (with_reducible apply State.mcIssue_keeps)
    | (with_reducible refine Keeps.ofOpt (by assumption) ?_; with_reducible apply State.mcIssue_keeps)
    | (with_reducible apply State.memEnd_keeps) | (with_reducible apply State.noteSealed_keeps)
    | (with_reducible apply State.record_keeps) | exact Keeps.Opt.none | (with_reducible refine Keeps.Opt.some ?_)
    | (with_reducible refine Keeps.Opt.map ?_ (fun _ _ => ?_))
    | (with_reducible refine Keeps.Opt.mapAny (fun _ => ?_)) | split | (dsimp only)

theorem State.fencePush_keeps {K : BitVec 24} {a0 : State} {s : State} {e : FenceEntry} (hS : Keeps K a0 s)
    (hK : 0x000100#24 ||| K = K) : Keeps K a0 (State.fencePush s e) := by
  unfold State.fencePush
  repeat' first
    | (with_reducible assumption) | exact Keeps.sub hK (by decide) | split | (dsimp only)
    | (fail_if_no_progress refine Keeps.put ?_)

theorem State.memTry_keeps {K : BitVec 24} {a0 : State} {s : State} {before : List MemWait} {w : MemWait} (hS : Keeps K a0 s)
    (hK : 0x552340#24 ||| K = K) : Keeps.Opt K a0 (State.memTry s before w) := by
  unfold State.memTry
  repeat' first
    | (with_reducible assumption) | exact Keeps.sub hK (by decide) | (with_reducible apply State.addConsumer_keeps)
    | (with_reducible apply State.fencePush_keeps) | (with_reducible apply State.mcIssue_keeps)
    | (with_reducible refine Keeps.ofOpt (by assumption) ?_; with_reducible apply State.mcIssue_keeps)
    | (with_reducible apply State.mcWrite_keeps)
    | (with_reducible refine Keeps.ofOpt (by assumption) ?_; with_reducible apply State.mcWrite_keeps)
    | exact Keeps.Opt.none | (with_reducible refine Keeps.Opt.some ?_)
    | (with_reducible refine Keeps.foldl ?_ (fun _ _ _ => ?_))
    | (with_reducible refine Keeps.Opt.map ?_ (fun _ _ => ?_))
    | (with_reducible refine Keeps.Opt.mapAny (fun _ => ?_)) | split | (dsimp only)

theorem State.noteWaits_keeps {K : BitVec 24} {a0 : State} {s : State} {w : MemWait} (hS : Keeps K a0 s)
    (hK : 0x000100#24 ||| K = K) : Keeps K a0 (State.noteWaits s w) := by
  unfold State.noteWaits
  repeat' first
    | (with_reducible assumption) | exact Keeps.sub hK (by decide) | (with_reducible apply State.memAlarm_keeps)
    | split | (dsimp only)

theorem State.memAccept_keeps {K : BitVec 24} {a0 : State} {s : State} {w : MemWait} (hS : Keeps K a0 s)
    (hK : 0x552340#24 ||| K = K) : Keeps K a0 (State.memAccept s w) := by
  unfold State.memAccept
  repeat' first
    | (with_reducible assumption) | exact Keeps.sub hK (by decide) | (with_reducible apply State.memTry_keeps)
    | (with_reducible refine Keeps.ofOpt (by assumption) ?_; with_reducible apply State.memTry_keeps)
    | (with_reducible apply State.noteWaits_keeps) | exact Keeps.Opt.none | (with_reducible refine Keeps.Opt.some ?_)
    | split | (dsimp only) | (fail_if_no_progress refine Keeps.put ?_)

theorem State.memPumpAux_keeps {K : BitVec 24} {a0 : State} {z0 : List MemWait} {z1 : List MemWait} {z2 : State} (hS : Keeps K a0 z2)
    (hK : 0x552340#24 ||| K = K) : Keeps K a0 (State.memPumpAux z0 z1 z2) := by
  induction z0 generalizing z1 z2 with
  | nil =>
    unfold State.memPumpAux
    repeat' first
      | (with_reducible assumption) | exact Keeps.sub hK (by decide) | (with_reducible apply State.memEnd_keeps)
      | (with_reducible apply State.memTry_keeps)
      | (with_reducible refine Keeps.ofOpt (by assumption) ?_; with_reducible apply State.memTry_keeps)
      | (with_reducible apply State.noteWaits_keeps) | exact Keeps.Opt.none
      | (with_reducible refine Keeps.Opt.some ?_) | split | (dsimp only) | (fail_if_no_progress refine Keeps.put ?_)
  | cons y ys ih =>
    unfold State.memPumpAux
    repeat' first
      | (with_reducible assumption) | exact Keeps.sub hK (by decide) | (with_reducible apply ih)
      | (with_reducible apply State.memEnd_keeps) | (with_reducible apply State.memTry_keeps)
      | (with_reducible refine Keeps.ofOpt (by assumption) ?_; with_reducible apply State.memTry_keeps)
      | (with_reducible apply State.noteWaits_keeps) | exact Keeps.Opt.none
      | (with_reducible refine Keeps.Opt.some ?_) | split | (dsimp only) | (fail_if_no_progress refine Keeps.put ?_)

theorem State.memPump_keeps {K : BitVec 24} {a0 : State} {s : State} (hS : Keeps K a0 s)
    (hK : 0x552340#24 ||| K = K) : Keeps K a0 (State.memPump s) := by
  unfold State.memPump
  repeat' first
    | (with_reducible assumption) | exact Keeps.sub hK (by decide) | (with_reducible apply State.memPumpAux_keeps)
    | split | (dsimp only)

theorem State.fenceReleaseAux_keeps {K : BitVec 24} {a0 : State} {z0 : List FenceEntry} {z1 : List FenceEntry} {z2 : State} (hS : Keeps K a0 z2)
    (hK : 0x552140#24 ||| K = K) : Keeps K a0 (State.fenceReleaseAux z0 z1 z2) := by
  induction z0 generalizing z1 z2 with
  | nil =>
    unfold State.fenceReleaseAux
    repeat' first
      | (with_reducible assumption) | exact Keeps.sub hK (by decide) | (with_reducible apply State.mcIssue_keeps)
      | (with_reducible refine Keeps.ofOpt (by assumption) ?_; with_reducible apply State.mcIssue_keeps)
      | (with_reducible apply State.mcWrite_keeps)
      | (with_reducible refine Keeps.ofOpt (by assumption) ?_; with_reducible apply State.mcWrite_keeps)
      | (with_reducible apply State.memEnd_keeps) | exact Keeps.Opt.none | (with_reducible refine Keeps.Opt.some ?_)
      | split | (dsimp only) | (fail_if_no_progress refine Keeps.put ?_)
  | cons y ys ih =>
    unfold State.fenceReleaseAux
    repeat' first
      | (with_reducible assumption) | exact Keeps.sub hK (by decide) | (with_reducible apply ih)
      | (with_reducible apply State.mcIssue_keeps)
      | (with_reducible refine Keeps.ofOpt (by assumption) ?_; with_reducible apply State.mcIssue_keeps)
      | (with_reducible apply State.mcWrite_keeps)
      | (with_reducible refine Keeps.ofOpt (by assumption) ?_; with_reducible apply State.mcWrite_keeps)
      | (with_reducible apply State.memEnd_keeps) | exact Keeps.Opt.none | (with_reducible refine Keeps.Opt.some ?_)
      | split | (dsimp only) | (fail_if_no_progress refine Keeps.put ?_)

theorem State.fenceRelease_keeps {K : BitVec 24} {a0 : State} {s : State} (hS : Keeps K a0 s)
    (hK : 0x552340#24 ||| K = K) : Keeps K a0 (State.fenceRelease s) := by
  unfold State.fenceRelease
  repeat' first
    | (with_reducible assumption) | exact Keeps.sub hK (by decide)
    | (with_reducible apply State.fenceReleaseAux_keeps) | (with_reducible apply State.memPump_keeps) | split
    | (dsimp only)

theorem State.fenceConfirm_keeps {K : BitVec 24} {a0 : State} {s : State} {r : GroupRef} (hS : Keeps K a0 s)
    (hK : 0x552340#24 ||| K = K) : Keeps K a0 (State.fenceConfirm s r) := by
  unfold State.fenceConfirm
  repeat' first
    | (with_reducible assumption) | exact Keeps.sub hK (by decide) | (with_reducible apply State.fenceRelease_keeps)
    | split | (dsimp only) | (fail_if_no_progress refine Keeps.put ?_)

theorem State.fenceRepudiate_keeps {K : BitVec 24} {a0 : State} {s : State} {r : GroupRef} (hS : Keeps K a0 s)
    (hK : 0x552340#24 ||| K = K) : Keeps K a0 (State.fenceRepudiate s r) := by
  unfold State.fenceRepudiate
  repeat' first
    | (with_reducible assumption) | exact Keeps.sub hK (by decide) | (with_reducible apply State.fenceRelease_keeps)
    | split | (dsimp only) | (fail_if_no_progress refine Keeps.put ?_)

theorem State.mergedGo_keeps {K : BitVec 24} {a0 : State} {s : State} {ch : ChanId} (hS : Keeps K a0 s)
    (hK : 0x552340#24 ||| K = K) : Keeps K a0 (State.mergedGo s ch) := by
  unfold State.mergedGo
  repeat' first
    | (with_reducible assumption) | exact Keeps.sub hK (by decide) | (with_reducible apply State.fenceRelease_keeps)
    | (with_reducible apply State.mcWrite_keeps)
    | (with_reducible refine Keeps.ofOpt (by assumption) ?_; with_reducible apply State.mcWrite_keeps)
    | exact Keeps.Opt.none | (with_reducible refine Keeps.Opt.some ?_)
    | (with_reducible refine Keeps.foldl ?_ (fun _ _ _ => ?_)) | (with_reducible refine Keeps.getD ?_ ?_) | split
    | (dsimp only) | (fail_if_no_progress refine Keeps.put ?_)

theorem State.chanOff_keeps {K : BitVec 24} {a0 : State} {s : State} {ch : ChanId} (hS : Keeps K a0 s)
    (hK : 0x552340#24 ||| K = K) : Keeps K a0 (State.chanOff s ch) := by
  unfold State.chanOff
  repeat' first
    | (with_reducible assumption) | exact Keeps.sub hK (by decide) | (with_reducible apply State.fenceRelease_keeps)
    | (with_reducible apply State.memEnd_keeps) | (with_reducible refine Keeps.foldl ?_ (fun _ _ _ => ?_)) | split
    | (dsimp only) | (fail_if_no_progress refine Keeps.put ?_)

theorem State.memDiscard_keeps {K : BitVec 24} {a0 : State} {s : State} {sel : Master → Dpa → Bool} (hS : Keeps K a0 s)
    (hK : 0x552340#24 ||| K = K) : Keeps K a0 (State.memDiscard s sel) := by
  unfold State.memDiscard
  repeat' first
    | (with_reducible assumption) | exact Keeps.sub hK (by decide) | (with_reducible apply State.fenceRelease_keeps)
    | split | (dsimp only) | (fail_if_no_progress refine Keeps.put ?_)

theorem State.memDropTag_keeps {K : BitVec 24} {a0 : State} {s : State} {tag : MemTag} (hS : Keeps K a0 s)
    (hK : 0x552340#24 ||| K = K) : Keeps K a0 (State.memDropTag s tag) := by
  unfold State.memDropTag
  repeat' first
    | (with_reducible assumption) | exact Keeps.sub hK (by decide) | (with_reducible apply State.fenceRelease_keeps)
    | split | (dsimp only) | (fail_if_no_progress refine Keeps.put ?_)

theorem State.tagFail_keeps {K : BitVec 24} {a0 : State} {s : State} {m : Master} {i : KeyIdx} {d : Dpa} {side : BitVec 32} (hS : Keeps K a0 s)
    (hK : 0x400100#24 ||| K = K) : Keeps K a0 (State.tagFail s m i d side) := by
  unfold State.tagFail
  repeat' first
    | (with_reducible assumption) | exact Keeps.sub hK (by decide) | (with_reducible apply State.memAlarm_keeps)
    | (with_reducible apply State.modChan_keeps) | (with_reducible apply State.out_keeps)
    | (with_reducible apply State.record_keeps) | (with_reducible refine Keeps.getD ?_ ?_) | split | (dsimp only)

theorem State.openRsp_keeps {K : BitVec 24} {a0 : State} {s : State} {m : Master} {i : KeyIdx} {d : Dpa} {keys : List Bytes} {rsp : McRsp} (hS : Keeps K a0 s)
    (hK : 0x442102#24 ||| K = K) : Keeps K a0 (State.openRsp s m i d keys rsp).1 := by
  unfold State.openRsp
  repeat' first
    | (with_reducible assumption) | exact Keeps.sub hK (by decide) | (with_reducible apply State.activity_keeps)
    | (with_reducible apply State.memAlarm_keeps) | (with_reducible apply State.modChan_keeps)
    | (with_reducible apply State.portViolation_keeps) | (with_reducible apply State.record_keeps)
    | (with_reducible apply State.tagFail_keeps) | split | (dsimp only)

theorem State.readNow_keeps {K : BitVec 24} {a0 : State} {s : State} {m : Master} {i : KeyIdx} {d : Dpa} {rsp : McRsp} (hS : Keeps K a0 s)
    (hK : 0x552302#24 ||| K = K) : Keeps K a0 (State.readNow s m i d rsp).1 := by
  unfold State.readNow
  repeat' first
    | (with_reducible assumption) | exact Keeps.sub hK (by decide) | (with_reducible apply State.addConsumer_keeps)
    | (with_reducible apply State.count_keeps) | (with_reducible apply State.memRefusal_keeps)
    | (with_reducible refine Keeps.ofOpt2 (by assumption) ?_; with_reducible apply State.memRefusal_keeps)
    | (with_reducible apply State.openRsp_keeps)
    | (with_reducible refine Keeps.ofFst (by assumption) ?_; with_reducible apply State.openRsp_keeps)
    | (with_reducible apply State.out_keeps) | (with_reducible apply State.progress_keeps)
    | (with_reducible refine Keeps.foldl ?_ (fun _ _ _ => ?_)) | split | (dsimp only)

theorem State.memPut_keeps {K : BitVec 24} {a0 : State} {s : State} {w : MemWait} (hS : Keeps K a0 s)
    (hK : 0x552340#24 ||| K = K) : Keeps K a0 (State.memPut s w).1 := by
  unfold State.memPut
  repeat' first
    | (with_reducible assumption) | exact Keeps.sub hK (by decide) | (with_reducible apply State.memAccept_keeps)
    | (with_reducible apply State.memRefusal_keeps)
    | (with_reducible refine Keeps.ofOpt2 (by assumption) ?_; with_reducible apply State.memRefusal_keeps) | split
    | (dsimp only)

theorem State.memStore_keeps {K : BitVec 24} {a0 : State} {s : State} {m : Master} {key : KeyIdx} {refs : List GroupRef} {tag : Option MemTag} {z5 : Nat} {z6 : Dpa} {z7 : Bytes} (hS : Keeps K a0 s)
    (hK : 0x552340#24 ||| K = K) : Keeps K a0 (State.memStore s m key refs tag z5 z6 z7).1 := by
  induction z5 generalizing s m key refs tag z6 z7 with
  | zero =>
    unfold State.memStore
    repeat' first
      | (with_reducible assumption) | exact Keeps.sub hK (by decide) | (with_reducible apply State.memPut_keeps)
      | (with_reducible refine Keeps.ofFst (by assumption) ?_; with_reducible apply State.memPut_keeps) | split
      | (dsimp only)
  | succ m ih =>
    unfold State.memStore
    repeat' first
      | (with_reducible assumption) | exact Keeps.sub hK (by decide) | (with_reducible apply ih)
      | (with_reducible refine Keeps.ofFst (by assumption) ?_; with_reducible apply ih)
      | (with_reducible apply State.memPut_keeps)
      | (with_reducible refine Keeps.ofFst (by assumption) ?_; with_reducible apply State.memPut_keeps) | split
      | (dsimp only) | (cases Nat.succ.inj ‹_ + 1 = Nat.succ _›)

end Sys2Proof.Machine
end

