-- ==== Sys2Proof/Laws/FrameTxOps.lean ====
section
/-! SUPPORT. The frame of each operation of Sys2Proof/Machine/TxOps.lean. -/

namespace Sys2Proof.Machine

set_option Elab.async false

theorem State.installLinkKey_keeps {K : BitVec 24} {a0 : State} {s : State} {l : LinkId} {c : Cls} {dir : Nat} {gen : BitVec 32} {tense : BitVec 2} (hS : Keeps K a0 s)
    (hK : 0x000040#24 ||| K = K) : Keeps K a0 (State.installLinkKey s l c dir gen tense) := by
  unfold State.installLinkKey
  repeat' first
    | (with_reducible assumption) | exact Keeps.sub hK (by decide) | (with_reducible apply State.writeKey_keeps)
    | split | (dsimp only)

theorem State.wirePut_keeps {K : BitVec 24} {a0 : State} {s : State} {l : LinkId} {c : Cls} {bytes : Bytes} {payload : Nat} (hS : Keeps K a0 s)
    (hK : 0x400200#24 ||| K = K) : Keeps K a0 (State.wirePut s l c bytes payload) := by
  unfold State.wirePut
  repeat' first
    | (with_reducible assumption) | exact Keeps.sub hK (by decide) | (with_reducible apply State.out_keeps)
    | (with_reducible apply State.setLink_keeps) | split | (dsimp only)

theorem State.txSeal_keeps {K : BitVec 24} {a0 : State} {s : State} {l : LinkId} {c : Cls} {kind : BitVec 2} {dest : BitVec 2} {ctxField : BitVec 10} {vd : VdId} {payload : Bytes} {ctx : Option CtxId} (hS : Keeps K a0 s)
    (hK : 0x542240#24 ||| K = K) : Keeps.Opt K a0 (State.txSeal s l c kind dest ctxField vd payload ctx) := by
  unfold State.txSeal
  repeat' first
    | (with_reducible assumption) | exact Keeps.sub hK (by decide) | (with_reducible apply State.activity_keeps)
    | (with_reducible apply State.count_keeps) | (with_reducible apply State.meter_keeps)
    | (with_reducible apply State.modLink_keeps) | (with_reducible apply State.useKey_keeps)
    | (with_reducible apply State.wirePut_keeps) | exact Keeps.Opt.none | (with_reducible refine Keeps.Opt.some ?_)
    | split | (dsimp only) | (fail_if_no_progress refine Keeps.put ?_)

theorem State.txOpen_keeps {K : BitVec 24} {a0 : State} {s : State} {l : LinkId} {dst : Member} {d : Slot} {payload : Bytes} (hS : Keeps K a0 s)
    (hK : 0x400200#24 ||| K = K) : Keeps K a0 (State.txOpen s l dst d payload) := by
  unfold State.txOpen
  repeat' first
    | (with_reducible assumption) | exact Keeps.sub hK (by decide) | (with_reducible apply State.setLink_keeps)
    | (with_reducible apply State.wirePut_keeps) | split | (dsimp only)

theorem State.creditReturn_keeps {K : BitVec 24} {a0 : State} {s : State} {l : LinkId} {c : Cls} (hS : Keeps K a0 s)
    (hK : 0x400200#24 ||| K = K) : Keeps K a0 (State.creditReturn s l c) := by
  unfold State.creditReturn
  repeat' first
    | (with_reducible assumption) | exact Keeps.sub hK (by decide) | (with_reducible apply State.out_keeps)
    | (with_reducible apply State.setLink_keeps) | split | (dsimp only)

theorem State.tc0Put_keeps {K : BitVec 24} {a0 : State} {s : State} {l : LinkId} {x : Tc0Item} (hS : Keeps K a0 s)
    (hK : 0x000200#24 ||| K = K) : Keeps K a0 (State.tc0Put s l x) := by
  unfold State.tc0Put
  repeat' first
    | (with_reducible assumption) | exact Keeps.sub hK (by decide) | (with_reducible apply State.modLink_keeps)
    | split | (dsimp only)

theorem State.tc0Own_keeps {K : BitVec 24} {a0 : State} {s : State} {l : LinkId} {payload : Bytes} (hS : Keeps K a0 s)
    (hK : 0x000200#24 ||| K = K) : Keeps K a0 (State.tc0Own s l payload) := by
  unfold State.tc0Own
  repeat' first
    | (with_reducible assumption) | exact Keeps.sub hK (by decide) | (with_reducible apply State.tc0Put_keeps)
    | split | (dsimp only)

theorem State.openSend_keeps {K : BitVec 24} {a0 : State} {s : State} {l : LinkId} {dst : Member} {d : Slot} {type : Byte} {attempt : BitVec 32} {msg : Bytes} (hS : Keeps K a0 s)
    (hK : 0x000200#24 ||| K = K) : Keeps K a0 (State.openSend s l dst d type attempt msg) := by
  unfold State.openSend
  repeat' first
    | (with_reducible assumption) | exact Keeps.sub hK (by decide) | (with_reducible apply State.tc0Put_keeps)
    | (with_reducible refine Keeps.foldl ?_ (fun _ _ _ => ?_)) | split | (dsimp only)

theorem State.tc0Forward_keeps {K : BitVec 24} {a0 : State} {s : State} {d : Slot} {r : Route} {prio : BitVec 2} {arrived : Option LinkId} {frag : Bytes} (hS : Keeps K a0 s)
    (hK : 0x000200#24 ||| K = K) : Keeps K a0 (State.tc0Forward s d r prio arrived frag) := by
  unfold State.tc0Forward
  repeat' first
    | (with_reducible assumption) | exact Keeps.sub hK (by decide) | (with_reducible apply State.modLink_keeps)
    | (with_reducible apply State.tc0Put_keeps) | (with_reducible refine Keeps.foldl ?_ (fun _ _ _ => ?_)) | split
    | (dsimp only)

theorem State.tc0Send_keeps {K : BitVec 24} {a0 : State} {s : State} {d : Slot} {type : Byte} {dst : Member} {scope : Byte} {hall : Byte} {msg : Bytes} (hS : Keeps K a0 s)
    (hK : 0x000600#24 ||| K = K) : Keeps K a0 (State.tc0Send s d type dst scope hall msg) := by
  unfold State.tc0Send
  repeat' first
    | (with_reducible assumption) | exact Keeps.sub hK (by decide) | (with_reducible apply State.setDom_keeps)
    | (with_reducible apply State.tc0Forward_keeps) | (with_reducible refine Keeps.foldl ?_ (fun _ _ _ => ?_))
    | split | (dsimp only)

theorem State.txPut_keeps {K : BitVec 24} {a0 : State} {s : State} {l : LinkId} {x : TxItem} (hS : Keeps K a0 s)
    (hK : 0x000200#24 ||| K = K) : Keeps K a0 (State.txPut s l x) := by
  unfold State.txPut
  repeat' first
    | (with_reducible assumption) | exact Keeps.sub hK (by decide) | (with_reducible apply State.modLink_keeps)
    | split | (dsimp only)

theorem State.txDropIf_keeps {K : BitVec 24} {a0 : State} {s : State} {p : LinkId → TxItem → Bool} (hS : Keeps K a0 s)
    (hK : 0x000200#24 ||| K = K) : Keeps K a0 (State.txDropIf s p) := by
  unfold State.txDropIf
  repeat' first
    | (with_reducible assumption) | exact Keeps.sub hK (by decide) | (with_reducible apply State.modLink_keeps)
    | (with_reducible refine Keeps.foldl ?_ (fun _ _ _ => ?_)) | split | (dsimp only)

end Sys2Proof.Machine
end

