-- ==== Sys2Proof/Laws/FrameFabOps.lean ====
section
/-! SUPPORT. The frame of each operation of Sys2Proof/Machine/FabOps.lean. -/

namespace Sys2Proof.Machine

set_option Elab.async false

theorem State.fabSend_keeps {K : BitVec 24} {a0 : State} {s : State} {l : LinkId} {w : FabWait} (hS : Keeps K a0 s)
    (hK : 0x000200#24 ||| K = K) : Keeps K a0 (State.fabSend s l w) := by
  unfold State.fabSend
  repeat' first
    | (with_reducible assumption) | exact Keeps.sub hK (by decide) | (with_reducible apply State.setLink_keeps)
    | (with_reducible apply State.txPut_keeps) | split | (dsimp only)

theorem State.fabPut_keeps {K : BitVec 24} {a0 : State} {s : State} {l : LinkId} {w : FabWait} (hS : Keeps K a0 s)
    (hK : 0x000200#24 ||| K = K) : Keeps K a0 (State.fabPut s l w) := by
  unfold State.fabPut
  repeat' first
    | (with_reducible assumption) | exact Keeps.sub hK (by decide) | (with_reducible apply State.fabSend_keeps)
    | (with_reducible apply State.modLink_keeps) | split | (dsimp only)

theorem State.fabPumpAux_keeps {K : BitVec 24} {a0 : State} {l : LinkId} {z1 : List FabWait} {z2 : List FabWait} {z3 : State} (hS : Keeps K a0 z3)
    (hK : 0x000200#24 ||| K = K) : Keeps K a0 (State.fabPumpAux l z1 z2 z3) := by
  induction z1 generalizing l z2 z3 with
  | nil =>
    unfold State.fabPumpAux
    repeat' first
      | (with_reducible assumption) | exact Keeps.sub hK (by decide) | (with_reducible apply State.fabSend_keeps)
      | (with_reducible apply State.modLink_keeps) | split | (dsimp only)
  | cons y ys ih =>
    unfold State.fabPumpAux
    repeat' first
      | (with_reducible assumption) | exact Keeps.sub hK (by decide) | (with_reducible apply ih)
      | (with_reducible apply State.fabSend_keeps) | (with_reducible apply State.modLink_keeps) | split
      | (dsimp only)

theorem State.fabPump_keeps {K : BitVec 24} {a0 : State} {s : State} {l : LinkId} (hS : Keeps K a0 s)
    (hK : 0x000200#24 ||| K = K) : Keeps K a0 (State.fabPump s l) := by
  unfold State.fabPump
  repeat' first
    | (with_reducible assumption) | exact Keeps.sub hK (by decide) | (with_reducible apply State.fabPumpAux_keeps)
    | split | (dsimp only)

theorem State.fabIssue_keeps {K : BitVec 24} {a0 : State} {s : State} {links : List LinkId} {w : FabWait} (hS : Keeps K a0 s)
    (hK : 0x000200#24 ||| K = K) : Keeps K a0 (State.fabIssue s links w).1 := by
  unfold State.fabIssue
  repeat' first
    | (with_reducible assumption) | exact Keeps.sub hK (by decide) | (with_reducible apply State.fabPut_keeps)
    | split | (dsimp only)

end Sys2Proof.Machine
end

