-- ==== Sys2Proof/Laws/FrameProgOps.lean ====
section
/-! SUPPORT. The frame of each operation of Sys2Proof/Machine/ProgOps.lean. -/

namespace Sys2Proof.Machine

set_option Elab.async false

theorem State.cmdResult_keeps {K : BitVec 24} {a0 : State} {s : State} {c : CtxId} {q : BitVec 3} {k : Word} {st : Status} {detail : BitVec 32} (hS : Keeps K a0 s)
    (hK : 0x002000#24 ||| K = K) : Keeps K a0 (State.cmdResult s c q k st detail) := by
  unfold State.cmdResult
  repeat' first
    | (with_reducible assumption) | exact Keeps.sub hK (by decide) | split | (dsimp only)
    | (fail_if_no_progress refine Keeps.put ?_)

theorem State.modIter_keeps {K : BitVec 24} {a0 : State} {s : State} {p : ProgId} {n : Nat} {f : Iter → Iter} (hS : Keeps K a0 s)
    (hK : 0x008000#24 ||| K = K) : Keeps K a0 (State.modIter s p n f) := by
  unfold State.modIter
  repeat' first
    | (with_reducible assumption) | exact Keeps.sub hK (by decide) | (with_reducible apply State.modProg_keeps)
    | split | (dsimp only)

theorem State.iterTrace_keeps {K : BitVec 24} {a0 : State} {s : State} {p : ProgId} {event : Byte} {cause : BitVec 8} {n : Nat} {go : Option GoInfo} (hS : Keeps K a0 s)
    (hK : 0x100000#24 ||| K = K) : Keeps K a0 (State.iterTrace s p event cause n go) := by
  unfold State.iterTrace
  repeat' first
    | (with_reducible assumption) | exact Keeps.sub hK (by decide) | (with_reducible apply State.trace_keeps)
    | (with_reducible refine Keeps.getD ?_ ?_) | split | (dsimp only)

theorem State.abandon_keeps {K : BitVec 24} {a0 : State} {s : State} {p : ProgId} {n : Nat} (hS : Keeps K a0 s)
    (hK : 0x000200#24 ||| K = K) : Keeps K a0 (State.abandon s p n) := by
  unfold State.abandon
  repeat' first
    | (with_reducible assumption) | exact Keeps.sub hK (by decide) | (with_reducible apply State.txPut_keeps)
    | (with_reducible refine Keeps.foldl ?_ (fun _ _ _ => ?_)) | split | (dsimp only)

theorem State.txForget_keeps {K : BitVec 24} {a0 : State} {s : State} {p : ProgId} {n : BitVec 32} (hS : Keeps K a0 s)
    (hK : 0x000200#24 ||| K = K) : Keeps K a0 (State.txForget s p n) := by
  unfold State.txForget
  repeat' first
    | (with_reducible assumption) | exact Keeps.sub hK (by decide) | (with_reducible apply State.modLink_keeps)
    | (with_reducible refine Keeps.foldl ?_ (fun _ _ _ => ?_)) | split | (dsimp only)

theorem State.goEnd_keeps {K : BitVec 24} {a0 : State} {s : State} {go : GoInfo} {cause : BitVec 8} {st : Status} (hS : Keeps K a0 s)
    (hK : 0x002000#24 ||| K = K) : Keeps K a0 (State.goEnd s go cause st) := by
  unfold State.goEnd
  repeat' first
    | (with_reducible assumption) | exact Keeps.sub hK (by decide) | (with_reducible apply State.cmdResult_keeps)
    | split | (dsimp only) | (fail_if_no_progress refine Keeps.put ?_)

theorem State.faultIter_keeps {K : BitVec 24} {a0 : State} {s : State} {p : ProgId} {n : Nat} {cause : BitVec 8} {st : Status} {tell : Bool} (hS : Keeps K a0 s)
    (hK : 0x10A200#24 ||| K = K) : Keeps K a0 (State.faultIter s p n cause st tell) := by
  unfold State.faultIter
  repeat' first
    | (with_reducible assumption) | exact Keeps.sub hK (by decide) | (with_reducible apply State.abandon_keeps)
    | (with_reducible apply State.goEnd_keeps) | (with_reducible apply State.iterTrace_keeps)
    | (with_reducible apply State.redEvent_keeps) | (with_reducible apply State.setProg_keeps)
    | (with_reducible apply State.txForget_keeps) | split | (dsimp only)

theorem State.faultOpen_keeps {K : BitVec 24} {a0 : State} {s : State} {p : ProgId} {cause : BitVec 8} {st : Status} {tell : Bool} (hS : Keeps K a0 s)
    (hK : 0x10A200#24 ||| K = K) : Keeps K a0 (State.faultOpen s p cause st tell) := by
  unfold State.faultOpen
  repeat' first
    | (with_reducible assumption) | exact Keeps.sub hK (by decide) | (with_reducible apply State.faultIter_keeps)
    | (with_reducible refine Keeps.foldl ?_ (fun _ _ _ => ?_)) | split | (dsimp only)

theorem State.freeProg_keeps {K : BitVec 24} {a0 : State} {s : State} {p : ProgId} (hS : Keeps K a0 s)
    (hK : 0x008040#24 ||| K = K) : Keeps K a0 (State.freeProg s p) := by
  unfold State.freeProg
  repeat' first
    | (with_reducible assumption) | exact Keeps.sub hK (by decide) | (with_reducible apply State.eraseRow_keeps)
    | (with_reducible apply State.setProg_keeps) | split | (dsimp only) | (fail_if_no_progress refine Keeps.put ?_)

theorem State.endProg_keeps {K : BitVec 24} {a0 : State} {s : State} {p : ProgId} {st : Status} (hS : Keeps K a0 s)
    (hK : 0x10A200#24 ||| K = K) : Keeps K a0 (State.endProg s p st) := by
  unfold State.endProg
  repeat' first
    | (with_reducible assumption) | exact Keeps.sub hK (by decide) | (with_reducible apply State.faultOpen_keeps)
    | (with_reducible apply State.setProg_keeps) | split | (dsimp only)

theorem State.skewOffer_keeps {K : BitVec 24} {a0 : State} {s : State} {p : ProgId} {ns : BitVec 16} {who : Member} (hS : Keeps K a0 s)
    (hK : 0x648600#24 ||| K = K) : Keeps K a0 (State.skewOffer s p ns who) := by
  unfold State.skewOffer
  repeat' first
    | (with_reducible assumption) | exact Keeps.sub hK (by decide) | (with_reducible apply State.budPut_keeps)
    | (with_reducible apply State.modProg_keeps) | (with_reducible apply State.skewPut_keeps)
    | (with_reducible apply State.tc0Send_keeps) | split | (dsimp only) | (fail_if_no_progress refine Keeps.put ?_)

theorem State.skewReport_keeps {K : BitVec 24} {a0 : State} {s : State} {p : ProgId} {d : ProgDesc} {run : StageRun} (hS : Keeps K a0 s)
    (hK : 0x648600#24 ||| K = K) : Keeps K a0 (State.skewReport s p d run) := by
  unfold State.skewReport
  repeat' first
    | (with_reducible assumption) | exact Keeps.sub hK (by decide) | (with_reducible apply State.skewOffer_keeps)
    | split | (dsimp only)

theorem State.stageDone_keeps {K : BitVec 24} {a0 : State} {s : State} {p : ProgId} {n : Nat} {i : Nat} {st : Stage} (hS : Keeps K a0 s)
    (hK : 0x008000#24 ||| K = K) : Keeps K a0 (State.stageDone s p n i st) := by
  unfold State.stageDone
  repeat' first
    | (with_reducible assumption) | exact Keeps.sub hK (by decide) | (with_reducible apply State.modIter_keeps)
    | (with_reducible apply State.modProg_keeps) | split | (dsimp only)

theorem State.progFabricAux_keeps {K : BitVec 24} {a0 : State} {s : State} {c : CtxId} {p : ProgId} {iter : BitVec 32} {links : List LinkId} {z5 : Nat} {z6 : BitVec 64} {z7 : Bytes} (hS : Keeps K a0 s)
    (hK : 0x000200#24 ||| K = K) : Keeps K a0 (State.progFabricAux s c p iter links z5 z6 z7).1 := by
  induction z5 generalizing s c p iter links z6 z7 with
  | zero =>
    unfold State.progFabricAux
    repeat' first
      | (with_reducible assumption) | exact Keeps.sub hK (by decide) | (with_reducible apply State.fabIssue_keeps)
      | (with_reducible refine Keeps.ofFst (by assumption) ?_; with_reducible apply State.fabIssue_keeps) | split
      | (dsimp only)
  | succ m ih =>
    unfold State.progFabricAux
    repeat' first
      | (with_reducible assumption) | exact Keeps.sub hK (by decide) | (with_reducible apply ih)
      | (with_reducible refine Keeps.ofFst (by assumption) ?_; with_reducible apply ih)
      | (with_reducible apply State.fabIssue_keeps)
      | (with_reducible refine Keeps.ofFst (by assumption) ?_; with_reducible apply State.fabIssue_keeps) | split
      | (dsimp only) | (cases Nat.succ.inj ‹_ + 1 = Nat.succ _›)

theorem State.emitFlags_keeps {K : BitVec 24} {a0 : State} {s : State} {p : ProgId} {invalid : Bool} {ovf : Bool} (hS : Keeps K a0 s)
    (hK : 0x008000#24 ||| K = K) : Keeps K a0 (State.emitFlags s p invalid ovf) := by
  unfold State.emitFlags
  repeat' first
    | (with_reducible assumption) | exact Keeps.sub hK (by decide) | (with_reducible apply State.modProg_keeps)
    | (with_reducible apply State.redEvent_keeps) | split | (dsimp only)

theorem State.emitSend_keeps {K : BitVec 24} {a0 : State} {s : State} {p : ProgId} {iter : BitVec 32} {t : Nat} {st : Stage} {u : Bytes} (hS : Keeps K a0 s)
    (hK : 0x000200#24 ||| K = K) : Keeps K a0 (State.emitSend s p iter t st u) := by
  unfold State.emitSend
  repeat' first
    | (with_reducible assumption) | exact Keeps.sub hK (by decide) | (with_reducible apply State.txPut_keeps)
    | (with_reducible refine Keeps.foldl ?_ (fun _ _ _ => ?_)) | split | (dsimp only)

theorem State.emitStore_keeps {K : BitVec 24} {a0 : State} {s : State} {p : ProgId} {d : ProgDesc} {n : Nat} {t : Nat} {st : Stage} {go : GoInfo} {refs : List GroupRef} {u : Bytes} (hS : Keeps K a0 s)
    (hK : 0x55A340#24 ||| K = K) : Keeps K a0 (State.emitStore s p d n t st go refs u) := by
  unfold State.emitStore
  repeat' first
    | (with_reducible assumption) | exact Keeps.sub hK (by decide) | (with_reducible apply State.faultIter_keeps)
    | (with_reducible apply State.memStore_keeps)
    | (with_reducible refine Keeps.ofFst (by assumption) ?_; with_reducible apply State.memStore_keeps)
    | (with_reducible apply State.progFabricAux_keeps)
    | (with_reducible refine Keeps.ofFst (by assumption) ?_; with_reducible apply State.progFabricAux_keeps) | split
    | (dsimp only)

theorem State.emitOne_keeps {K : BitVec 24} {a0 : State} {s : State} {p : ProgId} {d : ProgDesc} {n : Nat} {i : Nat} {t : Nat} {st : Stage} {go : GoInfo} {tile : Tile} (hS : Keeps K a0 s)
    (hK : 0x55A340#24 ||| K = K) : Keeps K a0 (State.emitOne s p d n i t st go tile) := by
  unfold State.emitOne
  repeat' first
    | (with_reducible assumption) | exact Keeps.sub hK (by decide) | (with_reducible apply State.emitFlags_keeps)
    | (with_reducible apply State.emitSend_keeps) | (with_reducible apply State.emitStore_keeps)
    | (with_reducible apply State.endProg_keeps) | (with_reducible apply State.modIter_keeps)
    | (with_reducible apply State.progress_keeps) | (with_reducible apply State.useKey_keeps) | split | (dsimp only)

theorem State.emitLoop_keeps {K : BitVec 24} {a0 : State} {s : State} {p : ProgId} {d : ProgDesc} {n : Nat} {i : Nat} {st : Stage} {z6 : Nat} (hS : Keeps K a0 s)
    (hK : 0x75A740#24 ||| K = K) : Keeps K a0 (State.emitLoop s p d n i st z6) := by
  induction z6 generalizing s p d n i st with
  | zero =>
    unfold State.emitLoop
    repeat' first
      | (with_reducible assumption) | exact Keeps.sub hK (by decide) | (with_reducible apply State.emitOne_keeps)
      | (with_reducible apply State.skewReport_keeps) | split | (dsimp only)
  | succ m ih =>
    unfold State.emitLoop
    repeat' first
      | (with_reducible assumption) | exact Keeps.sub hK (by decide) | (with_reducible apply ih)
      | (with_reducible apply State.emitOne_keeps) | (with_reducible apply State.skewReport_keeps) | split
      | (dsimp only) | (cases Nat.succ.inj ‹_ + 1 = Nat.succ _›)

theorem State.addUnit_keeps {K : BitVec 24} {a0 : State} {s : State} {p : ProgId} {d : ProgDesc} {n : Nat} {i : Nat} {t : Nat} {st : Stage} {src : Nat} {form : BitVec 3} {u : Bytes} (hS : Keeps K a0 s)
    (hK : 0x15A000#24 ||| K = K) : Keeps K a0 (State.addUnit s p d n i t st src form u) := by
  unfold State.addUnit
  repeat' first
    | (with_reducible assumption) | exact Keeps.sub hK (by decide) | (with_reducible apply State.activity_keeps)
    | (with_reducible apply State.count_keeps) | (with_reducible apply State.emitFlags_keeps)
    | (with_reducible apply State.meter_keeps) | (with_reducible apply State.modIter_keeps)
    | (with_reducible apply State.progress_keeps) | (with_reducible apply State.stageDone_keeps) | split
    | (dsimp only)

theorem State.chainArrive_keeps {K : BitVec 24} {a0 : State} {s : State} {p : ProgId} {n : Nat} {i : Nat} {st : Stage} (hS : Keeps K a0 s)
    (hK : 0x008000#24 ||| K = K) : Keeps K a0 (State.chainArrive s p n i st) := by
  unfold State.chainArrive
  repeat' first
    | (with_reducible assumption) | exact Keeps.sub hK (by decide) | (with_reducible apply State.modIter_keeps)
    | split | (dsimp only)

theorem State.chainLocal_keeps {K : BitVec 24} {a0 : State} {s : State} {p : ProgId} {d : ProgDesc} {n : Nat} {i : Nat} {st : Stage} (hS : Keeps K a0 s)
    (hK : 0x15A000#24 ||| K = K) : Keeps K a0 (State.chainLocal s p d n i st) := by
  unfold State.chainLocal
  repeat' first
    | (with_reducible assumption) | exact Keeps.sub hK (by decide) | (with_reducible apply State.addUnit_keeps)
    | (with_reducible apply State.chainArrive_keeps) | (with_reducible refine Keeps.foldl ?_ (fun _ _ _ => ?_))
    | split | (dsimp only)

theorem State.progPass_keeps {K : BitVec 24} {a0 : State} {s : State} {p : ProgId} {n : Nat} (hS : Keeps K a0 s)
    (hK : 0x75A740#24 ||| K = K) : Keeps K a0 (State.progPass s p n) := by
  unfold State.progPass
  repeat' first
    | (with_reducible assumption) | exact Keeps.sub hK (by decide) | (with_reducible apply State.chainLocal_keeps)
    | (with_reducible apply State.emitLoop_keeps) | (with_reducible refine Keeps.foldl ?_ (fun _ _ _ => ?_)) | split
    | (dsimp only)

theorem State.iterSettle_keeps {K : BitVec 24} {a0 : State} {s : State} {p : ProgId} {n : Nat} (hS : Keeps K a0 s)
    (hK : 0x10A000#24 ||| K = K) : Keeps K a0 (State.iterSettle s p n) := by
  unfold State.iterSettle
  repeat' first
    | (with_reducible assumption) | exact Keeps.sub hK (by decide) | (with_reducible apply State.cmdResult_keeps)
    | (with_reducible apply State.iterTrace_keeps) | (with_reducible apply State.setProg_keeps) | split
    | (dsimp only)

theorem State.settleIters_keeps {K : BitVec 24} {a0 : State} {s : State} (hS : Keeps K a0 s)
    (hK : 0x10A000#24 ||| K = K) : Keeps K a0 (State.settleIters s) := by
  unfold State.settleIters
  repeat' first
    | (with_reducible assumption) | exact Keeps.sub hK (by decide) | (with_reducible apply State.iterSettle_keeps)
    | (with_reducible refine Keeps.foldl ?_ (fun _ _ _ => ?_)) | split | (dsimp only)

theorem State.openIter_keeps {K : BitVec 24} {a0 : State} {s : State} {p : ProgId} {n : Nat} {go : Option GoInfo} (hS : Keeps K a0 s)
    (hK : 0x108000#24 ||| K = K) : Keeps K a0 (State.openIter s p n go) := by
  unfold State.openIter
  repeat' first
    | (with_reducible assumption) | exact Keeps.sub hK (by decide) | (with_reducible apply State.iterTrace_keeps)
    | (with_reducible apply State.setProg_keeps) | split | (dsimp only)

theorem State.progLinkLost_keeps {K : BitVec 24} {a0 : State} {s : State} {l : LinkId} (hS : Keeps K a0 s)
    (hK : 0x10A200#24 ||| K = K) : Keeps K a0 (State.progLinkLost s l) := by
  unfold State.progLinkLost
  repeat' first
    | (with_reducible assumption) | exact Keeps.sub hK (by decide) | (with_reducible apply State.faultIter_keeps)
    | (with_reducible refine Keeps.foldl ?_ (fun _ _ _ => ?_)) | split | (dsimp only)

theorem State.progRepudiated_keeps {K : BitVec 24} {a0 : State} {s : State} {p : ProgId} {l : LinkId} (hS : Keeps K a0 s)
    (hK : 0x10A200#24 ||| K = K) : Keeps K a0 (State.progRepudiated s p l) := by
  unfold State.progRepudiated
  repeat' first
    | (with_reducible assumption) | exact Keeps.sub hK (by decide) | (with_reducible apply State.faultIter_keeps)
    | split | (dsimp only)

theorem State.cmdsSettle_keeps {K : BitVec 24} {a0 : State} {s : State} (hS : Keeps K a0 s)
    (hK : 0x002000#24 ||| K = K) : Keeps K a0 (State.cmdsSettle s) := by
  unfold State.cmdsSettle
  repeat' first
    | (with_reducible assumption) | exact Keeps.sub hK (by decide) | (with_reducible apply State.cmdResult_keeps)
    | (with_reducible refine Keeps.foldl ?_ (fun _ _ _ => ?_)) | split | (dsimp only)

theorem State.fabEnd_keeps {K : BitVec 24} {a0 : State} {s : State} {o : FabOut} {st : Status} {data : Option Line} (hS : Keeps K a0 s)
    (hK : 0x50A200#24 ||| K = K) : Keeps K a0 (State.fabEnd s o st data) := by
  unfold State.fabEnd
  repeat' first
    | (with_reducible assumption) | exact Keeps.sub hK (by decide) | (with_reducible apply State.cmdResult_keeps)
    | (with_reducible apply State.faultIter_keeps) | (with_reducible apply State.out_keeps) | split | (dsimp only)
    | (fail_if_no_progress refine Keeps.put ?_)

theorem State.progLate_keeps {K : BitVec 24} {a0 : State} {s : State} {p : ProgId} (hS : Keeps K a0 s)
    (hK : 0x008000#24 ||| K = K) : Keeps K a0 (State.progLate s p) := by
  unfold State.progLate
  repeat' first
    | (with_reducible assumption) | exact Keeps.sub hK (by decide) | (with_reducible apply State.modProg_keeps)
    | (with_reducible apply State.redEvent_keeps) | split | (dsimp only)

end Sys2Proof.Machine
end

