-- ==== Sys2Proof/Laws/FrameCtxOps.lean ====
section
/-! SUPPORT. The frame of each operation of Sys2Proof/Machine/CtxOps.lean. -/

namespace Sys2Proof.Machine

set_option Elab.async false

theorem State.busyNote_keeps {K : BitVec 24} {a0 : State} {s : State} {c : CtxId} (hS : Keeps K a0 s)
    (hK : 0x002000#24 ||| K = K) : Keeps K a0 (State.busyNote s c) := by
  unfold State.busyNote
  repeat' first
    | (with_reducible assumption) | exact Keeps.sub hK (by decide) | (with_reducible apply State.modCtx_keeps)
    | (with_reducible refine Keeps.foldl ?_ (fun _ _ _ => ?_)) | split | (dsimp only)
    | (fail_if_no_progress refine Keeps.put ?_)

theorem State.modSess_keeps {K : BitVec 24} {a0 : State} {s : State} {f : Fn} {g : Sess → Sess} (hS : Keeps K a0 s)
    (hK : 0x002000#24 ||| K = K) : Keeps K a0 (State.modSess s f g) := by
  unfold State.modSess
  repeat' first
    | (with_reducible assumption) | exact Keeps.sub hK (by decide) | (with_reducible apply State.modFunc_keeps)
    | split | (dsimp only)

theorem State.installStageKey_keeps {K : BitVec 24} {a0 : State} {s : State} {f : Fn} {dir : Nat} {gen : BitVec 32} (hS : Keeps K a0 s)
    (hK : 0x000040#24 ||| K = K) : Keeps K a0 (State.installStageKey s f dir gen) := by
  unfold State.installStageKey
  repeat' first
    | (with_reducible assumption) | exact Keeps.sub hK (by decide) | (with_reducible apply State.writeKey_keeps)
    | split | (dsimp only)

theorem State.rollDir_keeps {K : BitVec 24} {a0 : State} {s : State} {f : Fn} {dir : Nat} (hS : Keeps K a0 s)
    (hK : 0x002040#24 ||| K = K) : Keeps K a0 (State.rollDir s f dir) := by
  unfold State.rollDir
  repeat' first
    | (with_reducible assumption) | exact Keeps.sub hK (by decide) | (with_reducible apply State.cmdResult_keeps)
    | (with_reducible apply State.installStageKey_keeps) | (with_reducible apply State.modSess_keeps) | split
    | (dsimp only)

theorem State.stgRoll_keeps {K : BitVec 24} {a0 : State} {s : State} {f : Fn} (hS : Keeps K a0 s)
    (hK : 0x002040#24 ||| K = K) : Keeps K a0 (State.stgRoll s f) := by
  unfold State.stgRoll
  repeat' first
    | (with_reducible assumption) | exact Keeps.sub hK (by decide) | (with_reducible apply State.rollDir_keeps)
    | split | (dsimp only)

theorem State.setObj_keeps {K : BitVec 24} {a0 : State} {s : State} {c : CtxId} {n : Nat} {o : Obj} (hS : Keeps K a0 s)
    (hK : 0x002000#24 ||| K = K) : Keeps K a0 (State.setObj s c n o) := by
  unfold State.setObj
  repeat' first
    | (with_reducible assumption) | exact Keeps.sub hK (by decide) | split | (dsimp only)
    | (fail_if_no_progress refine Keeps.put ?_)

theorem State.stgTaint_keeps {K : BitVec 24} {a0 : State} {s : State} {t : Trans} (hS : Keeps K a0 s)
    (hK : 0x002000#24 ||| K = K) : Keeps K a0 (State.stgTaint s t) := by
  unfold State.stgTaint
  repeat' first
    | (with_reducible assumption) | exact Keeps.sub hK (by decide) | (with_reducible apply State.setObj_keeps)
    | split | (dsimp only)

theorem State.stgLate_keeps {K : BitVec 24} {a0 : State} {s : State} {c : CtxId} {q : BitVec 3} {k : Word} {line : Dpa} (hS : Keeps K a0 s)
    (hK : 0x002000#24 ||| K = K) : Keeps K a0 (State.stgLate s c q k line) := by
  unfold State.stgLate
  repeat' first
    | (with_reducible assumption) | exact Keeps.sub hK (by decide) | (with_reducible apply State.stgTaint_keeps)
    | split | (dsimp only)

theorem State.dmaGoneIf_keeps {K : BitVec 24} {a0 : State} {s : State} {sel : DmaRead → Bool} (hS : Keeps K a0 s)
    (hK : 0x002000#24 ||| K = K) : Keeps K a0 (State.dmaGoneIf s sel) := by
  unfold State.dmaGoneIf
  repeat' first
    | (with_reducible assumption) | exact Keeps.sub hK (by decide) | split | (dsimp only)
    | (fail_if_no_progress refine Keeps.put ?_)

theorem State.resetRecord_keeps {K : BitVec 24} {a0 : State} {s : State} {lvl : BitVec 3} {escalated : Bool} {cause : Cause} {target : BitVec 10} (hS : Keeps K a0 s)
    (hK : 0x010000#24 ||| K = K) : Keeps K a0 (State.resetRecord s lvl escalated cause target) := by
  unfold State.resetRecord
  repeat' first
    | (with_reducible assumption) | exact Keeps.sub hK (by decide) | (with_reducible apply State.fltEvent_keeps)
    | split | (dsimp only) | (fail_if_no_progress refine Keeps.put ?_)

theorem State.resetTrace_keeps {K : BitVec 24} {a0 : State} {s : State} {lvl : BitVec 3} {cause : Cause} {target : BitVec 10} {escalated : Bool} {c : Option CtxId} (hS : Keeps K a0 s)
    (hK : 0x100000#24 ||| K = K) : Keeps K a0 (State.resetTrace s lvl cause target escalated c) := by
  unfold State.resetTrace
  repeat' first
    | (with_reducible assumption) | exact Keeps.sub hK (by decide) | (with_reducible apply State.trace_keeps) | split
    | (dsimp only)

theorem State.resetTraces_keeps {K : BitVec 24} {a0 : State} {s : State} {lvl : BitVec 3} {cause : Cause} {target : BitVec 10} {escalated : Bool} {cs : List CtxId} (hS : Keeps K a0 s)
    (hK : 0x100000#24 ||| K = K) : Keeps K a0 (State.resetTraces s lvl cause target escalated cs) := by
  unfold State.resetTraces
  repeat' first
    | (with_reducible assumption) | exact Keeps.sub hK (by decide) | (with_reducible apply State.resetTrace_keeps)
    | (with_reducible refine Keeps.foldl ?_ (fun _ _ _ => ?_)) | split | (dsimp only)

theorem State.resetProg_keeps {K : BitVec 24} {a0 : State} {s : State} {p : ProgId} {tell : Bool} (hS : Keeps K a0 s)
    (hK : 0x10A240#24 ||| K = K) : Keeps K a0 (State.resetProg s p tell) := by
  unfold State.resetProg
  repeat' first
    | (with_reducible assumption) | exact Keeps.sub hK (by decide) | (with_reducible apply State.faultOpen_keeps)
    | (with_reducible apply State.freeProg_keeps) | split | (dsimp only)

theorem State.discardWork_keeps {K : BitVec 24} {a0 : State} {s : State} {c : CtxId} (hS : Keeps K a0 s)
    (hK : 0x55A340#24 ||| K = K) : Keeps K a0 (State.discardWork s c) := by
  unfold State.discardWork
  repeat' first
    | (with_reducible assumption) | exact Keeps.sub hK (by decide) | (with_reducible apply State.busyNote_keeps)
    | (with_reducible apply State.dmaGoneIf_keeps) | (with_reducible apply State.memDiscard_keeps)
    | (with_reducible apply State.modSess_keeps) | (with_reducible apply State.resetProg_keeps)
    | (with_reducible apply State.setLink_keeps) | (with_reducible apply State.stgRoll_keeps)
    | (with_reducible apply State.txDropIf_keeps) | (with_reducible refine Keeps.foldl ?_ (fun _ _ _ => ?_)) | split
    | (dsimp only) | (fail_if_no_progress refine Keeps.put ?_)

theorem State.dropReplay_keeps {K : BitVec 24} {a0 : State} {s : State} {c : CtxId} (hS : Keeps K a0 s)
    (hK : 0x012000#24 ||| K = K) : Keeps K a0 (State.dropReplay s c) := by
  unfold State.dropReplay
  repeat' first
    | (with_reducible assumption) | exact Keeps.sub hK (by decide) | (with_reducible apply State.modEng_keeps)
    | (with_reducible refine Keeps.foldl ?_ (fun _ _ _ => ?_)) | split | (dsimp only)
    | (fail_if_no_progress refine Keeps.put ?_)

theorem State.commaStart_keeps {K : BitVec 24} {a0 : State} {s : State} {c : CtxId} {cause : Cause} (hS : Keeps K a0 s)
    (hK : 0x55A340#24 ||| K = K) : Keeps K a0 (State.commaStart s c cause) := by
  unfold State.commaStart
  repeat' first
    | (with_reducible assumption) | exact Keeps.sub hK (by decide) | (with_reducible apply State.discardWork_keeps)
    | (with_reducible apply State.dropReplay_keeps) | (with_reducible apply State.modCtx_keeps) | split
    | (dsimp only)

theorem State.commaEnd_keeps {K : BitVec 24} {a0 : State} {s : State} {c : CtxId} (hS : Keeps K a0 s)
    (hK : 0x402000#24 ||| K = K) : Keeps K a0 (State.commaEnd s c) := by
  unfold State.commaEnd
  repeat' first
    | (with_reducible assumption) | exact Keeps.sub hK (by decide) | (with_reducible apply State.msi_keeps)
    | (with_reducible apply State.setCtx_keeps) | split | (dsimp only)

theorem State.commaInner_keeps {K : BitVec 24} {a0 : State} {s : State} {c : CtxId} {cause : Cause} (hS : Keeps K a0 s)
    (hK : 0x55A340#24 ||| K = K) : Keeps K a0 (State.commaInner s c cause) := by
  unfold State.commaInner
  repeat' first
    | (with_reducible assumption) | exact Keeps.sub hK (by decide) | (with_reducible apply State.commaEnd_keeps)
    | (with_reducible apply State.commaStart_keeps) | (with_reducible apply State.resetRecord_keeps) | split
    | (dsimp only)

theorem State.comma_keeps {K : BitVec 24} {a0 : State} {s : State} {c : CtxId} {cause : Cause} (hS : Keeps K a0 s)
    (hK : 0x55A340#24 ||| K = K) : Keeps K a0 (State.comma s c cause) := by
  unfold State.comma
  repeat' first
    | (with_reducible assumption) | exact Keeps.sub hK (by decide) | (with_reducible apply State.commaInner_keeps)
    | (with_reducible apply State.resetTrace_keeps) | split | (dsimp only)

theorem State.alarmComma_keeps {K : BitVec 24} {a0 : State} {s : State} {m : Master} {alarm : Bool} (hS : Keeps K a0 s)
    (hK : 0x55A340#24 ||| K = K) : Keeps K a0 (State.alarmComma s m alarm) := by
  unfold State.alarmComma
  repeat' first
    | (with_reducible assumption) | exact Keeps.sub hK (by decide) | (with_reducible apply State.comma_keeps) | split
    | (dsimp only)

theorem State.fabRespond_keeps {K : BitVec 24} {a0 : State} {s : State} {w : FabRecWait} {st : BitVec 4} {data : Line} (hS : Keeps K a0 s)
    (hK : 0x011200#24 ||| K = K) : Keeps K a0 (State.fabRespond s w st data) := by
  unfold State.fabRespond
  repeat' first
    | (with_reducible assumption) | exact Keeps.sub hK (by decide) | (with_reducible apply State.fabEvent_keeps)
    | (with_reducible apply State.progress_keeps) | (with_reducible apply State.txPut_keeps) | split | (dsimp only)
    | (fail_if_no_progress refine Keeps.put ?_)

theorem State.memEndOne_keeps {K : BitVec 24} {a0 : State} {s : State} {e : MemEnd} (hS : Keeps K a0 s)
    (hK : 0x55B340#24 ||| K = K) : Keeps K a0 (State.memEndOne s e) := by
  unfold State.memEndOne
  repeat' first
    | (with_reducible assumption) | exact Keeps.sub hK (by decide) | (with_reducible apply State.alarmComma_keeps)
    | (with_reducible apply State.cmdResult_keeps) | (with_reducible apply State.fabRespond_keeps)
    | (with_reducible apply State.faultIter_keeps) | (with_reducible apply State.stgLate_keeps) | split
    | (dsimp only)

theorem State.memEndsTell_keeps {K : BitVec 24} {a0 : State} {z0 : Nat} {z1 : State} (hS : Keeps K a0 z1)
    (hK : 0x55B340#24 ||| K = K) : Keeps K a0 (State.memEndsTell z0 z1) := by
  induction z0 generalizing z1 with
  | zero =>
    unfold State.memEndsTell
    repeat' first
      | (with_reducible assumption) | exact Keeps.sub hK (by decide) | (with_reducible apply State.memEndOne_keeps)
      | split | (dsimp only) | (fail_if_no_progress refine Keeps.put ?_)
  | succ m ih =>
    unfold State.memEndsTell
    repeat' first
      | (with_reducible assumption) | exact Keeps.sub hK (by decide) | (with_reducible apply ih)
      | (with_reducible apply State.memEndOne_keeps) | split | (dsimp only)
      | (fail_if_no_progress refine Keeps.put ?_) | (cases Nat.succ.inj ‹_ + 1 = Nat.succ _›)

theorem State.memSettle_keeps {K : BitVec 24} {a0 : State} {s : State} (hS : Keeps K a0 s)
    (hK : 0x55B340#24 ||| K = K) : Keeps K a0 (State.memSettle s) := by
  unfold State.memSettle
  repeat' first
    | (with_reducible assumption) | exact Keeps.sub hK (by decide) | (with_reducible apply State.cmdsSettle_keeps)
    | (with_reducible apply State.memEndsTell_keeps) | (with_reducible apply State.settleIters_keeps) | split
    | (dsimp only)

end Sys2Proof.Machine
end

