-- ==== Sys2Proof/Laws/FrameDomOps.lean ====
section
/-! SUPPORT. The frame of each operation of Sys2Proof/Machine/DomOps.lean. -/

namespace Sys2Proof.Machine

set_option Elab.async false

theorem State.censusPut_keeps {K : BitVec 24} {a0 : State} {s : State} {d : Slot} {m : Member} {st : BitVec 2} (hS : Keeps K a0 s)
    (hK : 0x000600#24 ||| K = K) : Keeps K a0 (State.censusPut s d m st) := by
  unfold State.censusPut
  repeat' first
    | (with_reducible assumption) | exact Keeps.sub hK (by decide) | (with_reducible apply State.modDom_keeps)
    | (with_reducible apply State.tc0Send_keeps) | (with_reducible refine Keeps.foldl ?_ (fun _ _ _ => ?_)) | split
    | (dsimp only)

theorem State.rosterPut_keeps {K : BitVec 24} {a0 : State} {s : State} {d : Slot} {m : Member} {version : BitVec 32} {row : RosterRow} (hS : Keeps K a0 s)
    (hK : 0x000400#24 ||| K = K) : Keeps K a0 (State.rosterPut s d m version row) := by
  unfold State.rosterPut
  repeat' first
    | (with_reducible assumption) | exact Keeps.sub hK (by decide) | (with_reducible apply State.modDom_keeps)
    | (with_reducible refine Keeps.foldl ?_ (fun _ _ _ => ?_)) | split | (dsimp only)

theorem State.syncRow_keeps {K : BitVec 24} {a0 : State} {s : State} {d : Slot} {m : Member} {version : BitVec 32} {row : RosterRow} {peers : List Member} (hS : Keeps K a0 s)
    (hK : 0x000600#24 ||| K = K) : Keeps K a0 (State.syncRow s d m version row peers) := by
  unfold State.syncRow
  repeat' first
    | (with_reducible assumption) | exact Keeps.sub hK (by decide) | (with_reducible apply State.tc0Send_keeps)
    | (with_reducible refine Keeps.foldl ?_ (fun _ _ _ => ?_)) | split | (dsimp only)

theorem State.rosterSend_keeps {K : BitVec 24} {a0 : State} {s : State} {d : Slot} (hS : Keeps K a0 s)
    (hK : 0x000600#24 ||| K = K) : Keeps K a0 (State.rosterSend s d) := by
  unfold State.rosterSend
  repeat' first
    | (with_reducible assumption) | exact Keeps.sub hK (by decide) | (with_reducible apply State.rosterPut_keeps)
    | (with_reducible apply State.syncRow_keeps) | (with_reducible apply State.tc0Send_keeps)
    | (with_reducible refine Keeps.foldl ?_ (fun _ _ _ => ?_)) | split | (dsimp only)

theorem State.rosterChange_keeps {K : BitVec 24} {a0 : State} {s : State} {d : Slot} (hS : Keeps K a0 s)
    (hK : 0x000600#24 ||| K = K) : Keeps K a0 (State.rosterChange s d) := by
  unfold State.rosterChange
  repeat' first
    | (with_reducible assumption) | exact Keeps.sub hK (by decide) | (with_reducible apply State.modDom_keeps)
    | (with_reducible apply State.rosterSend_keeps) | split | (dsimp only)

theorem State.rosterAckSend_keeps {K : BitVec 24} {a0 : State} {s : State} {d : Slot} {m : Member} {version : BitVec 32} (hS : Keeps K a0 s)
    (hK : 0x000600#24 ||| K = K) : Keeps K a0 (State.rosterAckSend s d m version) := by
  unfold State.rosterAckSend
  repeat' first
    | (with_reducible assumption) | exact Keeps.sub hK (by decide) | (with_reducible apply State.tc0Send_keeps)
    | split | (dsimp only)

theorem State.ackDrop_keeps {K : BitVec 24} {a0 : State} {s : State} {d : Slot} {c : Member} {p : RosterWait → Bool} (hS : Keeps K a0 s)
    (hK : 0x000600#24 ||| K = K) : Keeps K a0 (State.ackDrop s d c p) := by
  unfold State.ackDrop
  repeat' first
    | (with_reducible assumption) | exact Keeps.sub hK (by decide) | (with_reducible apply State.modDom_keeps)
    | (with_reducible apply State.rosterAckSend_keeps) | (with_reducible refine Keeps.foldl ?_ (fun _ _ _ => ?_))
    | split | (dsimp only)

end Sys2Proof.Machine
end

