-- ==== Sys2Proof/Laws/FrameLinkOps.lean ====
section
/-! SUPPORT. The frame of each operation of Sys2Proof/Machine/LinkOps.lean. -/

namespace Sys2Proof.Machine

set_option Elab.async false

theorem State.presentFlight_keeps {K : BitVec 24} {a0 : State} {s : State} {l : LinkId} {g : RxFlight} (hS : Keeps K a0 s)
    (hK : 0x000200#24 ||| K = K) : Keeps K a0 (State.presentFlight s l g) := by
  unfold State.presentFlight
  repeat' first
    | (with_reducible assumption) | exact Keeps.sub hK (by decide) | (with_reducible apply State.modFlight_keeps)
    | (with_reducible apply State.setLink_keeps) | split | (dsimp only)

theorem State.presentHeld_keeps {K : BitVec 24} {a0 : State} {s : State} {l : LinkId} {h : RxHeld} (hS : Keeps K a0 s)
    (hK : 0x000200#24 ||| K = K) : Keeps K a0 (State.presentHeld s l h) := by
  unfold State.presentHeld
  repeat' first
    | (with_reducible assumption) | exact Keeps.sub hK (by decide) | (with_reducible apply State.setLink_keeps)
    | split | (dsimp only)

theorem State.deliverPumpAux_keeps {K : BitVec 24} {a0 : State} {l : LinkId} {z1 : Nat} {z2 : State} (hS : Keeps K a0 z2)
    (hK : 0x000200#24 ||| K = K) : Keeps K a0 (State.deliverPumpAux l z1 z2) := by
  induction z1 generalizing l z2 with
  | zero =>
    unfold State.deliverPumpAux
    repeat' first
      | (with_reducible assumption) | exact Keeps.sub hK (by decide)
      | (with_reducible apply State.presentFlight_keeps) | (with_reducible apply State.presentHeld_keeps) | split
      | (dsimp only)
  | succ m ih =>
    unfold State.deliverPumpAux
    repeat' first
      | (with_reducible assumption) | exact Keeps.sub hK (by decide) | (with_reducible apply ih)
      | (with_reducible apply State.presentFlight_keeps) | (with_reducible apply State.presentHeld_keeps) | split
      | (dsimp only) | (cases Nat.succ.inj ‹_ + 1 = Nat.succ _›)

theorem State.deliverPump_keeps {K : BitVec 24} {a0 : State} {s : State} {l : LinkId} (hS : Keeps K a0 s)
    (hK : 0x000200#24 ||| K = K) : Keeps K a0 (State.deliverPump s l) := by
  unfold State.deliverPump
  repeat' first
    | (with_reducible assumption) | exact Keeps.sub hK (by decide)
    | (with_reducible apply State.deliverPumpAux_keeps) | split | (dsimp only)

theorem State.ringStore_keeps {K : BitVec 24} {a0 : State} {s : State} {l : LinkId} {w : RxFlight ⊕ RxHeld} (hS : Keeps K a0 s)
    (hK : 0x752340#24 ||| K = K) : Keeps K a0 (State.ringStore s l w) := by
  unfold State.ringStore
  repeat' first
    | (with_reducible assumption) | exact Keeps.sub hK (by decide) | (with_reducible apply State.creditReturn_keeps)
    | (with_reducible apply State.memStore_keeps)
    | (with_reducible refine Keeps.ofFst (by assumption) ?_; with_reducible apply State.memStore_keeps)
    | (with_reducible apply State.modFlight_keeps) | (with_reducible apply State.modLink_keeps) | split
    | (dsimp only) | (fail_if_no_progress refine Keeps.put ?_)

theorem State.ringNote_keeps {K : BitVec 24} {a0 : State} {s : State} {l : LinkId} {w : RxFlight ⊕ RxHeld} (hS : Keeps K a0 s)
    (hK : 0x000100#24 ||| K = K) : Keeps K a0 (State.ringNote s l w) := by
  unfold State.ringNote
  repeat' first
    | (with_reducible assumption) | exact Keeps.sub hK (by decide) | (with_reducible apply State.memAlarm_keeps)
    | split | (dsimp only)

theorem State.ringPumpAux_keeps {K : BitVec 24} {a0 : State} {l : LinkId} {z1 : List (RxFlight ⊕ RxHeld)} {z2 : List (Cls × CtxId)} {z3 : State} (hS : Keeps K a0 z3)
    (hK : 0x752340#24 ||| K = K) : Keeps K a0 (State.ringPumpAux l z1 z2 z3) := by
  induction z1 generalizing l z2 z3 with
  | nil =>
    unfold State.ringPumpAux
    repeat' first
      | (with_reducible assumption) | exact Keeps.sub hK (by decide) | (with_reducible apply State.modLink_keeps)
      | (with_reducible apply State.ringNote_keeps) | (with_reducible apply State.ringStore_keeps) | split
      | (dsimp only) | (fail_if_no_progress refine Keeps.put ?_)
  | cons y ys ih =>
    unfold State.ringPumpAux
    repeat' first
      | (with_reducible assumption) | exact Keeps.sub hK (by decide) | (with_reducible apply ih)
      | (with_reducible apply State.modLink_keeps) | (with_reducible apply State.ringNote_keeps)
      | (with_reducible apply State.ringStore_keeps) | split | (dsimp only)
      | (fail_if_no_progress refine Keeps.put ?_)

theorem State.ringPump_keeps {K : BitVec 24} {a0 : State} {s : State} {l : LinkId} (hS : Keeps K a0 s)
    (hK : 0x752340#24 ||| K = K) : Keeps K a0 (State.ringPump s l) := by
  unfold State.ringPump
  repeat' first
    | (with_reducible assumption) | exact Keeps.sub hK (by decide) | (with_reducible apply State.ringPumpAux_keeps)
    | split | (dsimp only)

theorem State.ringSpace_keeps {K : BitVec 24} {a0 : State} {s : State} {l : LinkId} {c : Cls} {x : CtxId} (hS : Keeps K a0 s)
    (hK : 0x752340#24 ||| K = K) : Keeps K a0 (State.ringSpace s l c x) := by
  unfold State.ringSpace
  repeat' first
    | (with_reducible assumption) | exact Keeps.sub hK (by decide) | (with_reducible apply State.modLink_keeps)
    | (with_reducible apply State.ringPump_keeps) | (with_reducible apply State.ringStore_keeps) | split
    | (dsimp only)

theorem State.ringsRetry_keeps {K : BitVec 24} {a0 : State} {s : State} (hS : Keeps K a0 s)
    (hK : 0x752340#24 ||| K = K) : Keeps K a0 (State.ringsRetry s) := by
  unfold State.ringsRetry
  repeat' first
    | (with_reducible assumption) | exact Keeps.sub hK (by decide) | (with_reducible apply State.ringPump_keeps)
    | (with_reducible refine Keeps.foldl ?_ (fun _ _ _ => ?_)) | split | (dsimp only)

theorem State.deliverRetry_keeps {K : BitVec 24} {a0 : State} {s : State} (hS : Keeps K a0 s)
    (hK : 0x000200#24 ||| K = K) : Keeps K a0 (State.deliverRetry s) := by
  unfold State.deliverRetry
  repeat' first
    | (with_reducible assumption) | exact Keeps.sub hK (by decide) | (with_reducible apply State.deliverPump_keeps)
    | (with_reducible refine Keeps.foldl ?_ (fun _ _ _ => ?_)) | split | (dsimp only)

theorem State.settleAll_keeps {K : BitVec 24} {a0 : State} {s : State} (hS : Keeps K a0 s)
    (hK : 0x75B340#24 ||| K = K) : Keeps K a0 (State.settleAll s) := by
  unfold State.settleAll
  repeat' first
    | (with_reducible assumption) | exact Keeps.sub hK (by decide) | (with_reducible apply State.deliverRetry_keeps)
    | (with_reducible apply State.memSettle_keeps) | (with_reducible apply State.ringsRetry_keeps) | split
    | (dsimp only)

theorem State.tc0Bad_keeps {K : BitVec 24} {a0 : State} {s : State} {l : LinkId} (hS : Keeps K a0 s)
    (hK : 0x000200#24 ||| K = K) : Keeps K a0 (State.tc0Bad s l) := by
  unfold State.tc0Bad
  repeat' first
    | (with_reducible assumption) | exact Keeps.sub hK (by decide) | (with_reducible apply State.modLink_keeps)
    | split | (dsimp only)

theorem State.noteContact_keeps {K : BitVec 24} {a0 : State} {s : State} {d : Slot} {m : Member} (hS : Keeps K a0 s)
    (hK : 0x000400#24 ||| K = K) : Keeps K a0 (State.noteContact s d m) := by
  unfold State.noteContact
  repeat' first
    | (with_reducible assumption) | exact Keeps.sub hK (by decide) | (with_reducible apply State.modDom_keeps)
    | split | (dsimp only)

theorem State.floodNote_keeps {K : BitVec 24} {a0 : State} {s : State} {e : FloodEntry} (hS : Keeps K a0 s)
    (hK : 0x000800#24 ||| K = K) : Keeps K a0 (State.floodNote s e) := by
  unfold State.floodNote
  repeat' first
    | (with_reducible assumption) | exact Keeps.sub hK (by decide) | split | (dsimp only)
    | (fail_if_no_progress refine Keeps.put ?_)

theorem State.tc0Take_keeps {K : BitVec 24} {a0 : State} {s : State} {l : LinkId} {p : Bytes} (hS : Keeps K a0 s)
    (hK : 0x400E00#24 ||| K = K) : Keeps K a0 (State.tc0Take s l p) := by
  unfold State.tc0Take
  repeat' first
    | (with_reducible assumption) | exact Keeps.sub hK (by decide) | (with_reducible apply State.floodNote_keeps)
    | (with_reducible apply State.modLink_keeps) | (with_reducible apply State.noteContact_keeps)
    | (with_reducible apply State.out_keeps) | (with_reducible apply State.tc0Bad_keeps)
    | (with_reducible apply State.tc0Forward_keeps) | split | (dsimp only)

theorem State.dropFlight_keeps {K : BitVec 24} {a0 : State} {s : State} {r : GroupRef} (hS : Keeps K a0 s)
    (hK : 0x000200#24 ||| K = K) : Keeps K a0 (State.dropFlight s r) := by
  unfold State.dropFlight
  repeat' first
    | (with_reducible assumption) | exact Keeps.sub hK (by decide) | (with_reducible apply State.modLink_keeps)
    | split | (dsimp only)

theorem State.promote_keeps {K : BitVec 24} {a0 : State} {s : State} {l : LinkId} {g : RxFlight} (hS : Keeps K a0 s)
    (hK : 0x000240#24 ||| K = K) : Keeps K a0 (State.promote s l g) := by
  unfold State.promote
  repeat' first
    | (with_reducible assumption) | exact Keeps.sub hK (by decide) | (with_reducible apply State.modLink_keeps)
    | (with_reducible apply State.setRow_keeps) | split | (dsimp only)

theorem State.releaseRef_keeps {K : BitVec 24} {a0 : State} {s : State} {r : GroupRef} (hS : Keeps K a0 s)
    (hK : 0x002200#24 ||| K = K) : Keeps K a0 (State.releaseRef s r) := by
  unfold State.releaseRef
  repeat' first
    | (with_reducible assumption) | exact Keeps.sub hK (by decide) | (with_reducible apply State.modLink_keeps)
    | (with_reducible refine Keeps.foldl ?_ (fun _ _ _ => ?_)) | split | (dsimp only)
    | (fail_if_no_progress refine Keeps.put ?_)

theorem State.fabTakeGroup_keeps {K : BitVec 24} {a0 : State} {s : State} {l : LinkId} {g : RxHeld} (hS : Keeps K a0 s)
    (hK : 0x401200#24 ||| K = K) : Keeps K a0 (State.fabTakeGroup s l g) := by
  unfold State.fabTakeGroup
  repeat' first
    | (with_reducible assumption) | exact Keeps.sub hK (by decide) | (with_reducible apply State.creditReturn_keeps)
    | (with_reducible apply State.fabEvent_keeps) | split | (dsimp only) | (fail_if_no_progress refine Keeps.put ?_)

theorem State.takeConfirmed_keeps {K : BitVec 24} {a0 : State} {s : State} {l : LinkId} {g : RxFlight} (hS : Keeps K a0 s)
    (hK : 0x753F40#24 ||| K = K) : Keeps K a0 (State.takeConfirmed s l g) := by
  unfold State.takeConfirmed
  repeat' first
    | (with_reducible assumption) | exact Keeps.sub hK (by decide) | (with_reducible apply State.creditReturn_keeps)
    | (with_reducible apply State.fabEvent_keeps) | (with_reducible apply State.fabTakeGroup_keeps)
    | (with_reducible apply State.modLink_keeps) | (with_reducible apply State.out_keeps)
    | (with_reducible apply State.ringPump_keeps) | (with_reducible apply State.tc0Take_keeps) | split | (dsimp only)

theorem State.confirmGroup_keeps {K : BitVec 24} {a0 : State} {s : State} {l : LinkId} {g : RxFlight} (hS : Keeps K a0 s)
    (hK : 0x753F40#24 ||| K = K) : Keeps K a0 (State.confirmGroup s l g) := by
  unfold State.confirmGroup
  repeat' first
    | (with_reducible assumption) | exact Keeps.sub hK (by decide) | (with_reducible apply State.count_keeps)
    | (with_reducible apply State.deliverPump_keeps) | (with_reducible apply State.dropFlight_keeps)
    | (with_reducible apply State.fenceConfirm_keeps) | (with_reducible apply State.meter_keeps)
    | (with_reducible apply State.modLink_keeps) | (with_reducible apply State.progress_keeps)
    | (with_reducible apply State.promote_keeps) | (with_reducible apply State.releaseRef_keeps)
    | (with_reducible apply State.takeConfirmed_keeps) | split | (dsimp only)

theorem State.countCheck_keeps {K : BitVec 24} {a0 : State} {s : State} {l : LinkId} {check : Nat} (hS : Keeps K a0 s)
    (hK : 0x000200#24 ||| K = K) : Keeps K a0 (State.countCheck s l check) := by
  unfold State.countCheck
  repeat' first
    | (with_reducible assumption) | exact Keeps.sub hK (by decide) | (with_reducible apply State.linkEvent_keeps)
    | (with_reducible apply State.modLink_keeps) | split | (dsimp only)

theorem State.repNote_keeps {K : BitVec 24} {a0 : State} {s : State} {l : LinkId} {c : Cls} {seq : BitVec 64} {check : Nat} (hS : Keeps K a0 s)
    (hK : 0x510200#24 ||| K = K) : Keeps K a0 (State.repNote s l c seq check) := by
  unfold State.repNote
  repeat' first
    | (with_reducible assumption) | exact Keeps.sub hK (by decide) | (with_reducible apply State.count_keeps)
    | (with_reducible apply State.countCheck_keeps) | (with_reducible apply State.linkEvent_keeps)
    | (with_reducible apply State.modLink_keeps) | (with_reducible apply State.out_keeps)
    | (with_reducible apply State.progress_keeps) | (with_reducible apply State.record_keeps)
    | (with_reducible apply State.trace_keeps) | split | (dsimp only)

theorem State.repProgram_keeps {K : BitVec 24} {a0 : State} {s : State} {l : LinkId} {header : BitVec 128} (hS : Keeps K a0 s)
    (hK : 0x10A200#24 ||| K = K) : Keeps K a0 (State.repProgram s l header) := by
  unfold State.repProgram
  repeat' first
    | (with_reducible assumption) | exact Keeps.sub hK (by decide)
    | (with_reducible apply State.progRepudiated_keeps) | split | (dsimp only)

theorem State.repudiateArrival_keeps {K : BitVec 24} {a0 : State} {s : State} {l : LinkId} {header : BitVec 128} {check : Nat} (hS : Keeps K a0 s)
    (hK : 0x51A200#24 ||| K = K) : Keeps K a0 (State.repudiateArrival s l header check) := by
  unfold State.repudiateArrival
  repeat' first
    | (with_reducible assumption) | exact Keeps.sub hK (by decide) | (with_reducible apply State.creditReturn_keeps)
    | (with_reducible apply State.repNote_keeps) | (with_reducible apply State.repProgram_keeps) | split
    | (dsimp only)

theorem State.repudiateData_keeps {K : BitVec 24} {a0 : State} {s : State} {l : LinkId} {g : RxFlight} {check : Nat} {told : Bool} (hS : Keeps K a0 s)
    (hK : 0x55A340#24 ||| K = K) : Keeps K a0 (State.repudiateData s l g check told) := by
  unfold State.repudiateData
  repeat' first
    | (with_reducible assumption) | exact Keeps.sub hK (by decide) | (with_reducible apply State.creditReturn_keeps)
    | (with_reducible apply State.dropFlight_keeps) | (with_reducible apply State.fenceRepudiate_keeps)
    | (with_reducible apply State.out_keeps) | (with_reducible apply State.releaseRef_keeps)
    | (with_reducible apply State.repNote_keeps) | (with_reducible apply State.repProgram_keeps) | split
    | (dsimp only)

theorem State.consumerComma_keeps {K : BitVec 24} {a0 : State} {s : State} {r : GroupRef} {c : CtxId} (hS : Keeps K a0 s)
    (hK : 0x55A340#24 ||| K = K) : Keeps K a0 (State.consumerComma s r c) := by
  unfold State.consumerComma
  repeat' first
    | (with_reducible assumption) | exact Keeps.sub hK (by decide) | (with_reducible apply State.comma_keeps)
    | (with_reducible apply State.modCtx_keeps) | split | (dsimp only)

theorem State.repudiateGroup_keeps {K : BitVec 24} {a0 : State} {s : State} {l : LinkId} {g : RxFlight} {check : Nat} (hS : Keeps K a0 s)
    (hK : 0x55A340#24 ||| K = K) : Keeps K a0 (State.repudiateGroup s l g check) := by
  unfold State.repudiateGroup
  repeat' first
    | (with_reducible assumption) | exact Keeps.sub hK (by decide) | (with_reducible apply State.consumerComma_keeps)
    | (with_reducible apply State.deliverPump_keeps) | (with_reducible apply State.repudiateData_keeps)
    | (with_reducible refine Keeps.foldl ?_ (fun _ _ _ => ?_)) | split | (dsimp only)

theorem State.verdict_keeps {K : BitVec 24} {a0 : State} {s : State} {l : LinkId} {g : RxFlight} (hS : Keeps K a0 s)
    (hK : 0x75BF40#24 ||| K = K) : Keeps K a0 (State.verdict s l g) := by
  unfold State.verdict
  repeat' first
    | (with_reducible assumption) | exact Keeps.sub hK (by decide) | (with_reducible apply State.confirmGroup_keeps)
    | (with_reducible apply State.repudiateGroup_keeps) | split | (dsimp only)

theorem State.judge_keeps {K : BitVec 24} {a0 : State} {s : State} {l : LinkId} {g : RxFlight} (hS : Keeps K a0 s)
    (hK : 0x75BF40#24 ||| K = K) : Keeps K a0 (State.judge s l g) := by
  unfold State.judge
  repeat' first
    | (with_reducible assumption) | exact Keeps.sub hK (by decide) | (with_reducible apply State.modFlight_keeps)
    | (with_reducible apply State.verdict_keeps) | split | (dsimp only)

theorem State.verdictPumpAux_keeps {K : BitVec 24} {a0 : State} {l : LinkId} {z1 : Nat} {z2 : State} (hS : Keeps K a0 z2)
    (hK : 0x75BF40#24 ||| K = K) : Keeps K a0 (State.verdictPumpAux l z1 z2) := by
  induction z1 generalizing l z2 with
  | zero =>
    unfold State.verdictPumpAux
    repeat' first
      | (with_reducible assumption) | exact Keeps.sub hK (by decide) | (with_reducible apply State.verdict_keeps)
      | split | (dsimp only)
  | succ m ih =>
    unfold State.verdictPumpAux
    repeat' first
      | (with_reducible assumption) | exact Keeps.sub hK (by decide) | (with_reducible apply ih)
      | (with_reducible apply State.verdict_keeps) | split | (dsimp only) | (cases Nat.succ.inj ‹_ + 1 = Nat.succ _›)

theorem State.verdictPump_keeps {K : BitVec 24} {a0 : State} {s : State} {l : LinkId} (hS : Keeps K a0 s)
    (hK : 0x75BF40#24 ||| K = K) : Keeps K a0 (State.verdictPump s l) := by
  unfold State.verdictPump
  repeat' first
    | (with_reducible assumption) | exact Keeps.sub hK (by decide)
    | (with_reducible apply State.verdictPumpAux_keeps) | split | (dsimp only)

theorem State.abortSend_keeps {K : BitVec 24} {a0 : State} {s : State} {l : LinkId} {d : Slot} {partner : Decl} {attempt : BitVec 32} {reason : BitVec 8} (hS : Keeps K a0 s)
    (hK : 0x000200#24 ||| K = K) : Keeps K a0 (State.abortSend s l d partner attempt reason) := by
  unfold State.abortSend
  repeat' first
    | (with_reducible assumption) | exact Keeps.sub hK (by decide) | (with_reducible apply State.modLink_keeps)
    | (with_reducible apply State.openSend_keeps) | split | (dsimp only)

theorem State.sendHello_keeps {K : BitVec 24} {a0 : State} {s : State} {l : LinkId} {d : Slot} {x : Decl} {attempt : BitVec 2} (hS : Keeps K a0 s)
    (hK : 0x200200#24 ||| K = K) : Keeps K a0 (State.sendHello s l d x attempt) := by
  unfold State.sendHello
  repeat' first
    | (with_reducible assumption) | exact Keeps.sub hK (by decide) | (with_reducible apply State.draw_keeps)
    | (with_reducible refine Keeps.ofSnd (by assumption) ?_; with_reducible apply State.draw_keeps)
    | (with_reducible apply State.openSend_keeps) | (with_reducible apply State.setLink_keeps) | split | (dsimp only)

theorem State.agreeStart_keeps {K : BitVec 24} {a0 : State} {s : State} {l : LinkId} (hS : Keeps K a0 s)
    (hK : 0x200600#24 ||| K = K) : Keeps K a0 (State.agreeStart s l) := by
  unfold State.agreeStart
  repeat' first
    | (with_reducible assumption) | exact Keeps.sub hK (by decide) | (with_reducible apply State.abortSend_keeps)
    | (with_reducible apply State.rosterChange_keeps) | (with_reducible apply State.sendHello_keeps) | split
    | (dsimp only)

theorem State.agrClear_keeps {K : BitVec 24} {a0 : State} {s : State} {l : LinkId} (hS : Keeps K a0 s)
    (hK : 0x000200#24 ||| K = K) : Keeps K a0 (State.agrClear s l) := by
  unfold State.agrClear
  repeat' first
    | (with_reducible assumption) | exact Keeps.sub hK (by decide) | (with_reducible apply State.modLink_keeps)
    | split | (dsimp only)

theorem State.requeueTc0_keeps {K : BitVec 24} {a0 : State} {s : State} {l : LinkId} {d : Slot} (hS : Keeps K a0 s)
    (hK : 0x000200#24 ||| K = K) : Keeps K a0 (State.requeueTc0 s l d) := by
  unfold State.requeueTc0
  repeat' first
    | (with_reducible assumption) | exact Keeps.sub hK (by decide) | (with_reducible apply State.modLink_keeps)
    | (with_reducible apply State.tc0Forward_keeps) | (with_reducible refine Keeps.foldl ?_ (fun _ _ _ => ?_))
    | split | (dsimp only)

theorem State.fabLinkLost_keeps {K : BitVec 24} {a0 : State} {s : State} {l : LinkId} (hS : Keeps K a0 s)
    (hK : 0x50A200#24 ||| K = K) : Keeps K a0 (State.fabLinkLost s l) := by
  unfold State.fabLinkLost
  repeat' first
    | (with_reducible assumption) | exact Keeps.sub hK (by decide) | (with_reducible apply State.fabEnd_keeps)
    | (with_reducible apply State.setLink_keeps) | (with_reducible refine Keeps.foldl ?_ (fun _ _ _ => ?_)) | split
    | (dsimp only)

theorem State.eraseLinkKeys_keeps {K : BitVec 24} {a0 : State} {s : State} {l : LinkId} (hS : Keeps K a0 s)
    (hK : 0x000040#24 ||| K = K) : Keeps K a0 (State.eraseLinkKeys s l) := by
  unfold State.eraseLinkKeys
  repeat' first
    | (with_reducible assumption) | exact Keeps.sub hK (by decide) | (with_reducible apply State.eraseRow_keeps)
    | (with_reducible refine Keeps.foldl ?_ (fun _ _ _ => ?_)) | split | (dsimp only)

theorem State.endAgreement_keeps {K : BitVec 24} {a0 : State} {s : State} {l : LinkId} {cause : BitVec 8} (hS : Keeps K a0 s)
    (hK : 0x75BF40#24 ||| K = K) : Keeps K a0 (State.endAgreement s l cause) := by
  unfold State.endAgreement
  repeat' first
    | (with_reducible assumption) | exact Keeps.sub hK (by decide) | (with_reducible apply State.agreeStart_keeps)
    | (with_reducible apply State.eraseLinkKeys_keeps) | (with_reducible apply State.fabLinkLost_keeps)
    | (with_reducible apply State.judge_keeps) | (with_reducible apply State.linkEvent_keeps)
    | (with_reducible apply State.modLink_keeps) | (with_reducible apply State.progLinkLost_keeps)
    | (with_reducible apply State.requeueTc0_keeps) | (with_reducible apply State.rosterChange_keeps)
    | (with_reducible refine Keeps.foldl ?_ (fun _ _ _ => ?_)) | split | (dsimp only)

theorem State.stormCheck_keeps {K : BitVec 24} {a0 : State} {s : State} {l : LinkId} (hS : Keeps K a0 s)
    (hK : 0x75BF40#24 ||| K = K) : Keeps K a0 (State.stormCheck s l) := by
  unfold State.stormCheck
  repeat' first
    | (with_reducible assumption) | exact Keeps.sub hK (by decide) | (with_reducible apply State.endAgreement_keeps)
    | (with_reducible apply State.linkEvent_keeps) | split | (dsimp only)

theorem State.sendBye_keeps {K : BitVec 24} {a0 : State} {s : State} {l : LinkId} {cause : BitVec 8} (hS : Keeps K a0 s)
    (hK : 0x542240#24 ||| K = K) : Keeps K a0 (State.sendBye s l cause) := by
  unfold State.sendBye
  repeat' first
    | (with_reducible assumption) | exact Keeps.sub hK (by decide) | (with_reducible apply State.txSeal_keeps)
    | (with_reducible refine Keeps.ofOpt (by assumption) ?_; with_reducible apply State.txSeal_keeps)
    | exact Keeps.Opt.none | (with_reducible refine Keeps.Opt.some ?_) | (with_reducible refine Keeps.getD ?_ ?_)
    | split | (dsimp only)

theorem State.endAgreements_keeps {K : BitVec 24} {a0 : State} {s : State} {d : Slot} {cause : BitVec 8} (hS : Keeps K a0 s)
    (hK : 0x75BF40#24 ||| K = K) : Keeps K a0 (State.endAgreements s d cause) := by
  unfold State.endAgreements
  repeat' first
    | (with_reducible assumption) | exact Keeps.sub hK (by decide) | (with_reducible apply State.endAgreement_keeps)
    | (with_reducible refine Keeps.foldl ?_ (fun _ _ _ => ?_)) | split | (dsimp only)

end Sys2Proof.Machine
end

