-- ==== Sys2Proof/Laws/FrameKeyOps.lean ====
section
/-! SUPPORT. The frame of each operation of Sys2Proof/Machine/KeyOps.lean. -/

namespace Sys2Proof.Machine

set_option Elab.async false

theorem State.writeMemKey_keeps {K : BitVec 24} {a0 : State} {s : State} {i : KeyIdx} {fut : Bool} {k : Bytes} {gen : BitVec 32} (hS : Keeps K a0 s)
    (hK : 0x000040#24 ||| K = K) : Keeps K a0 (State.writeMemKey s i fut k gen) := by
  unfold State.writeMemKey
  repeat' first
    | (with_reducible assumption) | exact Keeps.sub hK (by decide) | (with_reducible apply State.writeKey_keeps)
    | (with_reducible refine Keeps.foldl ?_ (fun _ _ _ => ?_)) | split | (dsimp only)

theorem State.drawClear_keeps {K : BitVec 24} {a0 : State} {z0 : Nat} {z1 : State} (hS : Keeps K a0 z1)
    (hK : 0x600000#24 ||| K = K) : Keeps K a0 (State.drawClear z0 z1).2 := by
  induction z0 generalizing z1 with
  | zero =>
    unfold State.drawClear
    repeat' first
      | (with_reducible assumption) | exact Keeps.sub hK (by decide) | (with_reducible apply State.draw_keeps)
      | (with_reducible refine Keeps.ofSnd (by assumption) ?_; with_reducible apply State.draw_keeps)
      | (with_reducible apply State.record_keeps) | split | (dsimp only)
  | succ m ih =>
    unfold State.drawClear
    repeat' first
      | (with_reducible assumption) | exact Keeps.sub hK (by decide) | (with_reducible apply ih)
      | (with_reducible refine Keeps.ofSnd (by assumption) ?_; with_reducible apply ih)
      | (with_reducible apply State.draw_keeps)
      | (with_reducible refine Keeps.ofSnd (by assumption) ?_; with_reducible apply State.draw_keeps)
      | (with_reducible apply State.record_keeps) | split | (dsimp only) | (cases Nat.succ.inj ‹_ + 1 = Nat.succ _›)

theorem State.dropIndexKeys_keeps {K : BitVec 24} {a0 : State} {s : State} {i : KeyIdx} (hS : Keeps K a0 s)
    (hK : 0x000140#24 ||| K = K) : Keeps K a0 (State.dropIndexKeys s i) := by
  unfold State.dropIndexKeys
  repeat' first
    | (with_reducible assumption) | exact Keeps.sub hK (by decide)
    | (with_reducible apply State.keyInvalidateRow_keeps) | (with_reducible apply State.modChan_keeps)
    | (with_reducible apply State.setMemIdx_keeps) | (with_reducible refine Keeps.foldl ?_ (fun _ _ _ => ?_)) | split
    | (dsimp only)

theorem State.assignOnce_keeps {K : BitVec 24} {a0 : State} {s : State} {i : KeyIdx} {d : Slot} (hS : Keeps K a0 s)
    (hK : 0x200040#24 ||| K = K) : Keeps K a0 (State.assignOnce s i d).2 := by
  unfold State.assignOnce
  repeat' first
    | (with_reducible assumption) | exact Keeps.sub hK (by decide) | (with_reducible apply State.draw_keeps)
    | (with_reducible refine Keeps.ofSnd (by assumption) ?_; with_reducible apply State.draw_keeps)
    | (with_reducible apply State.writeKey_keeps) | split | (dsimp only) | (fail_if_no_progress refine Keeps.put ?_)

theorem State.assignSecret_keeps {K : BitVec 24} {a0 : State} {z0 : Nat} {z1 : State} {z2 : KeyIdx} {z3 : Slot} (hS : Keeps K a0 z1)
    (hK : 0x600140#24 ||| K = K) : Keeps K a0 (State.assignSecret z0 z1 z2 z3) := by
  induction z0 generalizing z1 z2 z3 with
  | zero =>
    unfold State.assignSecret
    repeat' first
      | (with_reducible assumption) | exact Keeps.sub hK (by decide) | (with_reducible apply State.assignOnce_keeps)
      | (with_reducible refine Keeps.ofSnd (by assumption) ?_; with_reducible apply State.assignOnce_keeps)
      | (with_reducible apply State.dropIndexKeys_keeps) | (with_reducible apply State.record_keeps)
      | (with_reducible apply State.writeMemKey_keeps) | split | (dsimp only)
  | succ m ih =>
    unfold State.assignSecret
    repeat' first
      | (with_reducible assumption) | exact Keeps.sub hK (by decide) | (with_reducible apply ih)
      | (with_reducible apply State.assignOnce_keeps)
      | (with_reducible refine Keeps.ofSnd (by assumption) ?_; with_reducible apply State.assignOnce_keeps)
      | (with_reducible apply State.dropIndexKeys_keeps) | (with_reducible apply State.record_keeps)
      | (with_reducible apply State.writeMemKey_keeps) | split | (dsimp only)
      | (cases Nat.succ.inj ‹_ + 1 = Nat.succ _›)

theorem State.assignIndex_keeps {K : BitVec 24} {a0 : State} {s : State} {i : KeyIdx} {d : Slot} (hS : Keeps K a0 s)
    (hK : 0x600140#24 ||| K = K) : Keeps K a0 (State.assignIndex s i d) := by
  unfold State.assignIndex
  repeat' first
    | (with_reducible assumption) | exact Keeps.sub hK (by decide) | (with_reducible apply State.assignSecret_keeps)
    | (with_reducible apply State.setMemIdx_keeps) | split | (dsimp only)

theorem State.deriveReserved_keeps {K : BitVec 24} {a0 : State} {s : State} {d : Slot} (hS : Keeps K a0 s)
    (hK : 0x600140#24 ||| K = K) : Keeps K a0 (State.deriveReserved s d) := by
  unfold State.deriveReserved
  repeat' first
    | (with_reducible assumption) | exact Keeps.sub hK (by decide) | (with_reducible apply State.assignSecret_keeps)
    | (with_reducible refine Keeps.foldl ?_ (fun _ _ _ => ?_)) | split | (dsimp only)

theorem State.freeIndex_keeps {K : BitVec 24} {a0 : State} {s : State} {i : KeyIdx} (hS : Keeps K a0 s)
    (hK : 0x000140#24 ||| K = K) : Keeps K a0 (State.freeIndex s i) := by
  unfold State.freeIndex
  repeat' first
    | (with_reducible assumption) | exact Keeps.sub hK (by decide) | (with_reducible apply State.dropIndexKeys_keeps)
    | (with_reducible apply State.modChan_keeps) | (with_reducible apply State.setMemIdx_keeps)
    | (with_reducible refine Keeps.foldl ?_ (fun _ _ _ => ?_)) | split | (dsimp only)
    | (fail_if_no_progress refine Keeps.put ?_)

theorem State.startSweep_keeps {K : BitVec 24} {a0 : State} {s : State} {i : KeyIdx} (hS : Keeps K a0 s)
    (hK : 0x752340#24 ||| K = K) : Keeps K a0 (State.startSweep s i) := by
  unfold State.startSweep
  repeat' first
    | (with_reducible assumption) | exact Keeps.sub hK (by decide) | (with_reducible apply State.assignIndex_keeps)
    | (with_reducible apply State.drawClear_keeps)
    | (with_reducible refine Keeps.ofSnd (by assumption) ?_; with_reducible apply State.drawClear_keeps)
    | (with_reducible apply State.dropIndexKeys_keeps) | (with_reducible apply State.memPump_keeps)
    | (with_reducible apply State.modChan_keeps) | (with_reducible apply State.record_keeps)
    | (with_reducible apply State.setMemIdx_keeps) | (with_reducible apply State.writeMemKey_keeps)
    | (with_reducible refine Keeps.foldl ?_ (fun _ _ _ => ?_)) | split | (dsimp only)

theorem State.endSweep_keeps {K : BitVec 24} {a0 : State} {s : State} {i : KeyIdx} (hS : Keeps K a0 s)
    (hK : 0x752340#24 ||| K = K) : Keeps K a0 (State.endSweep s i) := by
  unfold State.endSweep
  repeat' first
    | (with_reducible assumption) | exact Keeps.sub hK (by decide) | (with_reducible apply State.eraseRow_keeps)
    | (with_reducible apply State.memPump_keeps) | (with_reducible apply State.setMemIdx_keeps)
    | (with_reducible apply State.setRow_keeps) | (with_reducible apply State.startSweep_keeps)
    | (with_reducible refine Keeps.foldl ?_ (fun _ _ _ => ?_)) | split | (dsimp only)

theorem State.sessEnd_keeps {K : BitVec 24} {a0 : State} {s : State} {f : Fn} (hS : Keeps K a0 s)
    (hK : 0x002040#24 ||| K = K) : Keeps K a0 (State.sessEnd s f) := by
  unfold State.sessEnd
  repeat' first
    | (with_reducible assumption) | exact Keeps.sub hK (by decide) | (with_reducible apply State.cmdResult_keeps)
    | (with_reducible apply State.eraseRow_keeps) | (with_reducible apply State.keyInvalidateRow_keeps)
    | (with_reducible apply State.modSess_keeps) | split | (dsimp only)

theorem State.orphanEffects_keeps {K : BitVec 24} {a0 : State} {s : State} (hS : Keeps K a0 s)
    (hK : 0x75BF40#24 ||| K = K) : Keeps K a0 (State.orphanEffects s) := by
  unfold State.orphanEffects
  repeat' first
    | (with_reducible assumption) | exact Keeps.sub hK (by decide) | (with_reducible apply State.endAgreement_keeps)
    | (with_reducible apply State.endProg_keeps) | (with_reducible apply State.memPump_keeps)
    | (with_reducible apply State.sessEnd_keeps) | (with_reducible apply State.setMemIdx_keeps)
    | (with_reducible refine Keeps.foldl ?_ (fun _ _ _ => ?_)) | split | (dsimp only)

theorem State.orphanFollow_keeps {K : BitVec 24} {a0 : State} {s : State} {r : Nat} (hS : Keeps K a0 s)
    (hK : 0x75BF40#24 ||| K = K) : Keeps K a0 (State.orphanFollow s r) := by
  unfold State.orphanFollow
  repeat' first
    | (with_reducible assumption) | exact Keeps.sub hK (by decide) | (with_reducible apply State.freeIndex_keeps)
    | (with_reducible apply State.orphanEffects_keeps) | split | (dsimp only)

theorem State.invalidateKey_keeps {K : BitVec 24} {a0 : State} {s : State} {r : Nat} (hS : Keeps K a0 s)
    (hK : 0x75BF40#24 ||| K = K) : Keeps K a0 (State.invalidateKey s r) := by
  unfold State.invalidateKey
  repeat' first
    | (with_reducible assumption) | exact Keeps.sub hK (by decide)
    | (with_reducible apply State.keyInvalidateRow_keeps) | (with_reducible apply State.orphanFollow_keeps) | split
    | (dsimp only)

theorem State.meterSend_keeps {K : BitVec 24} {a0 : State} {s : State} {d : Slot} {body : Bytes} (hS : Keeps K a0 s)
    (hK : 0x400000#24 ||| K = K) : Keeps K a0 (State.meterSend s d body) := by
  unfold State.meterSend
  repeat' first
    | (with_reducible assumption) | exact Keeps.sub hK (by decide) | (with_reducible apply State.hostWrite_keeps)
    | (with_reducible apply State.msiPf_keeps) | split | (dsimp only)

theorem State.meterDeliver_keeps {K : BitVec 24} {a0 : State} {s : State} {d : Slot} (hS : Keeps K a0 s)
    (hK : 0x440000#24 ||| K = K) : Keeps K a0 (State.meterDeliver s d) := by
  unfold State.meterDeliver
  repeat' first
    | (with_reducible assumption) | exact Keeps.sub hK (by decide) | (with_reducible apply State.meterSend_keeps)
    | (with_reducible apply State.modMtr_keeps) | (with_reducible refine Keeps.foldl ?_ (fun _ _ _ => ?_)) | split
    | (dsimp only)

theorem State.meterDeliverAll_keeps {K : BitVec 24} {a0 : State} {s : State} (hS : Keeps K a0 s)
    (hK : 0x440000#24 ||| K = K) : Keeps K a0 (State.meterDeliverAll s) := by
  unfold State.meterDeliverAll
  repeat' first
    | (with_reducible assumption) | exact Keeps.sub hK (by decide) | (with_reducible apply State.meterDeliver_keeps)
    | (with_reducible refine Keeps.foldl ?_ (fun _ _ _ => ?_)) | split | (dsimp only)

theorem State.meterTake_keeps {K : BitVec 24} {a0 : State} {s : State} {d : Slot} {tBound : BitVec 64} {late : Bool} {final : Bool} {after : Bool} {skipped : Nat} (hS : Keeps K a0 s)
    (hK : 0x040000#24 ||| K = K) : Keeps K a0 (State.meterTake s d tBound late final after skipped) := by
  unfold State.meterTake
  repeat' first
    | (with_reducible assumption) | exact Keeps.sub hK (by decide) | (with_reducible apply State.modMtr_keeps)
    | split | (dsimp only)

theorem State.meterFinal_keeps {K : BitVec 24} {a0 : State} {s : State} {d : Slot} {after : Bool} (hS : Keeps K a0 s)
    (hK : 0x040000#24 ||| K = K) : Keeps K a0 (State.meterFinal s d after) := by
  unfold State.meterFinal
  repeat' first
    | (with_reducible assumption) | exact Keeps.sub hK (by decide) | (with_reducible apply State.meterTake_keeps)
    | (with_reducible apply State.modMtr_keeps) | split | (dsimp only)

theorem State.meterRestart_keeps {K : BitVec 24} {a0 : State} {s : State} {d : Slot} (hS : Keeps K a0 s)
    (hK : 0x040000#24 ||| K = K) : Keeps K a0 (State.meterRestart s d) := by
  unfold State.meterRestart
  repeat' first
    | (with_reducible assumption) | exact Keeps.sub hK (by decide) | (with_reducible apply State.modMtr_keeps)
    | split | (dsimp only)

end Sys2Proof.Machine
end

