-- ==== Sys2Proof/Laws/FrameResetOps.lean ====
section
/-! SUPPORT. The frame of each operation of Sys2Proof/Machine/ResetOps.lean. -/

namespace Sys2Proof.Machine

set_option Elab.async false

theorem State.resetChecker_keeps {K : BitVec 24} {a0 : State} {s : State} (hS : Keeps K a0 s)
    (hK : 0x75BF40#24 ||| K = K) : Keeps K a0 (State.resetChecker s) := by
  unfold State.resetChecker
  repeat' first
    | (with_reducible assumption) | exact Keeps.sub hK (by decide) | (with_reducible apply State.endAgreement_keeps)
    | (with_reducible refine Keeps.foldl ?_ (fun _ _ _ => ?_)) | split | (dsimp only)
    | (fail_if_no_progress refine Keeps.put ?_)

theorem State.mbxCancel_keeps {K : BitVec 24} {a0 : State} {s : State} {f : Fn} (hS : Keeps K a0 s)
    (hK : 0x602000#24 ||| K = K) : Keeps K a0 (State.mbxCancel s f) := by
  unfold State.mbxCancel
  repeat' first
    | (with_reducible assumption) | exact Keeps.sub hK (by decide) | (with_reducible apply State.hostWrite_keeps)
    | (with_reducible apply State.modFunc_keeps) | (with_reducible apply State.msi_keeps) | split | (dsimp only)
    | (fail_if_no_progress refine Keeps.put ?_)

theorem State.engineRules_keeps {K : BitVec 24} {a0 : State} {s : State} {e : Nat} (hS : Keeps K a0 s)
    (hK : 0x75BF40#24 ||| K = K) : Keeps K a0 (State.engineRules s e) := by
  unfold State.engineRules
  repeat' first
    | (with_reducible assumption) | exact Keeps.sub hK (by decide) | (with_reducible apply State.creditReturn_keeps)
    | (with_reducible apply State.endAgreement_keeps) | (with_reducible apply State.mbxCancel_keeps)
    | (with_reducible apply State.memDiscard_keeps) | (with_reducible apply State.modLink_keeps)
    | (with_reducible apply State.resetChecker_keeps) | (with_reducible apply State.resetProg_keeps)
    | (with_reducible refine Keeps.foldl ?_ (fun _ _ _ => ?_)) | split | (dsimp only)

theorem State.semicolonWork_keeps {K : BitVec 24} {a0 : State} {s : State} {e : Nat} {own : CtxId → Cause} (hS : Keeps K a0 s)
    (hK : 0x75BF40#24 ||| K = K) : Keeps K a0 (State.semicolonWork s e own) := by
  unfold State.semicolonWork
  repeat' first
    | (with_reducible assumption) | exact Keeps.sub hK (by decide) | (with_reducible apply State.commaInner_keeps)
    | (with_reducible apply State.engineRules_keeps) | (with_reducible apply State.modEng_keeps)
    | (with_reducible refine Keeps.foldl ?_ (fun _ _ _ => ?_)) | split | (dsimp only)

theorem State.semicolon_keeps {K : BitVec 24} {a0 : State} {s : State} {e : Nat} {cause : Cause} {escalated : Bool} {own : CtxId → Cause} (hS : Keeps K a0 s)
    (hK : 0x75BF40#24 ||| K = K) : Keeps K a0 (State.semicolon s e cause escalated own) := by
  unfold State.semicolon
  repeat' first
    | (with_reducible assumption) | exact Keeps.sub hK (by decide) | (with_reducible apply State.resetRecord_keeps)
    | (with_reducible apply State.resetTraces_keeps) | (with_reducible apply State.semicolonWork_keeps) | split
    | (dsimp only)

theorem State.colon_keeps {K : BitVec 24} {a0 : State} {s : State} {v : VdId} {cause : Cause} {escalated : Bool} (hS : Keeps K a0 s)
    (hK : 0x55A340#24 ||| K = K) : Keeps K a0 (State.colon s v cause escalated) := by
  unfold State.colon
  repeat' first
    | (with_reducible assumption) | exact Keeps.sub hK (by decide) | (with_reducible apply State.commaInner_keeps)
    | (with_reducible apply State.memDiscard_keeps) | (with_reducible apply State.resetProg_keeps)
    | (with_reducible apply State.resetRecord_keeps) | (with_reducible apply State.resetTraces_keeps)
    | (with_reducible refine Keeps.foldl ?_ (fun _ _ _ => ?_)) | split | (dsimp only)

theorem State.stopMeters_keeps {K : BitVec 24} {a0 : State} {s : State} (hS : Keeps K a0 s)
    (hK : 0x040000#24 ||| K = K) : Keeps K a0 (State.stopMeters s) := by
  unfold State.stopMeters
  repeat' first
    | (with_reducible assumption) | exact Keeps.sub hK (by decide) | (with_reducible apply State.meterFinal_keeps)
    | (with_reducible apply State.meterTake_keeps) | (with_reducible refine Keeps.foldl ?_ (fun _ _ _ => ?_)) | split
    | (dsimp only)

theorem State.thrNow_wf (s : State) (h : Tab.wf 0 s.pwr.thr = true) : Tab.wf 0 s.thrNow = true := by
  unfold State.thrNow
  refine Tab.wf_foldl 0 _ _ (fun t k w => ?_) _ h
  split
  · exact Tab.wf_set _ _ _ _ w
  · exact w

theorem State.stopState_keeps {K : BitVec 24} {a0 : State} {s : State} {role : Option (BitVec 1)} (hS : Keeps K a0 s)
    (hK : 0x3DFFDF#24 ||| K = K) : Keeps K a0 (State.stopState s role) := by
  unfold State.stopState
  exact Keeps.put hS (hr := fun _ => by simp only [Pwr.ratesOk]; decide)
    (c8 := fun h => by
      unfold State.stopMem
      refine ⟨rfl, ?_, rfl⟩
      dsimp only
      exact Tab.wf_mapAll _ _ _ h.2.1)
    (c18 := fun h => by
      refine ⟨State.thrNow_wf s h.1, rfl, rfl, rfl, ?_⟩
      dsimp only
      exact Tab.wf_mapAll _ _ _ h.2.2.2.2)


theorem State.stopPorts_keeps {K : BitVec 24} {a0 : State} {s : State} (hS : Keeps K a0 s)
    (hK : 0x542240#24 ||| K = K) : Keeps K a0 (State.stopPorts s) := by
  unfold State.stopPorts
  repeat' first
    | (with_reducible assumption) | exact Keeps.sub hK (by decide) | (with_reducible apply State.out_keeps)
    | (with_reducible apply State.sendBye_keeps) | (with_reducible refine Keeps.foldl ?_ (fun _ _ _ => ?_)) | split
    | (dsimp only)

theorem State.enterStop_keeps {K : BitVec 24} {a0 : State} {s : State} {cause : Cause} {escalated : Bool} {role : Option (BitVec 1)} (hS : Keeps K a0 s)
    (hK : 0x7DFFDF#24 ||| K = K) : Keeps K a0 (State.enterStop s cause escalated role) := by
  unfold State.enterStop
  repeat' first
    | (with_reducible assumption) | exact Keeps.sub hK (by decide) | (with_reducible apply State.resetRecord_keeps)
    | (with_reducible apply State.stopMeters_keeps) | (with_reducible apply State.stopPorts_keeps)
    | (with_reducible apply State.stopState_keeps) | split | (dsimp only) | (fail_if_no_progress refine Keeps.put ?_)

theorem State.holdBlack_keeps {K : BitVec 24} {a0 : State} {s : State} {cause : Cause} {escalated : Bool} (hS : Keeps K a0 s)
    (hK : 0x430001#24 ||| K = K) : Keeps K a0 (State.holdBlack s cause escalated) := by
  unfold State.holdBlack
  repeat' first
    | (with_reducible assumption) | exact Keeps.sub hK (by decide) | (with_reducible apply State.trayPost_keeps)
    | split | (dsimp only) | (fail_if_no_progress refine Keeps.put ?_)

theorem State.ellipsis_keeps {K : BitVec 24} {a0 : State} {s : State} {cause : Cause} {escalated : Bool} {role : Option (BitVec 1)} (hS : Keeps K a0 s)
    (hK : 0x7FFFDF#24 ||| K = K) : Keeps K a0 (State.ellipsis s cause escalated role) := by
  unfold State.ellipsis
  repeat' first
    | (with_reducible assumption) | exact Keeps.sub hK (by decide) | (with_reducible apply State.enterStop_keeps)
    | (with_reducible apply State.holdBlack_keeps) | split | (dsimp only)

theorem State.fullStop_keeps {K : BitVec 24} {a0 : State} {s : State} {cause : Cause} {escalated : Bool} {role : Option (BitVec 1)} (hS : Keeps K a0 s)
    (hK : 0x7FFFDF#24 ||| K = K) : Keeps K a0 (State.fullStop s cause escalated role) := by
  unfold State.fullStop
  repeat' first
    | (with_reducible assumption) | exact Keeps.sub hK (by decide) | (with_reducible apply State.ellipsis_keeps)
    | (with_reducible apply State.enterStop_keeps) | (with_reducible apply State.record_keeps) | split | (dsimp only)
    | (fail_if_no_progress refine Keeps.put ?_)

theorem State.blackStop_keeps {K : BitVec 24} {a0 : State} {s : State} {cause : Cause} {role : Option (BitVec 1)} (hS : Keeps K a0 s)
    (hK : 0x7FFFDF#24 ||| K = K) : Keeps K a0 (State.blackStop s cause role) := by
  unfold State.blackStop
  repeat' first
    | (with_reducible assumption) | exact Keeps.sub hK (by decide) | (with_reducible apply State.fullStop_keeps)
    | (with_reducible apply State.setGrade_keeps) | split | (dsimp only)

theorem State.addRun_keeps {K : BitVec 24} {a0 : State} {s : State} {lvl : BitVec 3} {target : BitVec 10} {cause : Cause} (hS : Keeps K a0 s)
    (hK : 0x010000#24 ||| K = K) : Keeps K a0 (State.addRun s lvl target cause) := by
  unfold State.addRun
  repeat' first
    | (with_reducible assumption) | exact Keeps.sub hK (by decide) | split | (dsimp only)
    | (fail_if_no_progress refine Keeps.put ?_)

theorem State.dropRun_keeps {K : BitVec 24} {a0 : State} {s : State} {lvl : BitVec 3} {target : BitVec 10} (hS : Keeps K a0 s)
    (hK : 0x010000#24 ||| K = K) : Keeps K a0 (State.dropRun s lvl target) := by
  unfold State.dropRun
  repeat' first
    | (with_reducible assumption) | exact Keeps.sub hK (by decide) | split | (dsimp only)
    | (fail_if_no_progress refine Keeps.put ?_)

theorem State.hangComma_keeps {K : BitVec 24} {a0 : State} {s : State} {c : CtxId} {cause : Cause} (hS : Keeps K a0 s)
    (hK : 0x012000#24 ||| K = K) : Keeps K a0 (State.hangComma s c cause) := by
  unfold State.hangComma
  repeat' first
    | (with_reducible assumption) | exact Keeps.sub hK (by decide) | (with_reducible apply State.addRun_keeps)
    | (with_reducible apply State.modCtx_keeps) | split | (dsimp only)

theorem State.hangSemicolon_keeps {K : BitVec 24} {a0 : State} {s : State} {e : Nat} {cause : Cause} (hS : Keeps K a0 s)
    (hK : 0x010000#24 ||| K = K) : Keeps K a0 (State.hangSemicolon s e cause) := by
  unfold State.hangSemicolon
  repeat' first
    | (with_reducible assumption) | exact Keeps.sub hK (by decide) | (with_reducible apply State.addRun_keeps)
    | (with_reducible apply State.modEng_keeps) | split | (dsimp only)

theorem State.hangColon_keeps {K : BitVec 24} {a0 : State} {s : State} {v : VdId} {cause : Cause} (hS : Keeps K a0 s)
    (hK : 0x012000#24 ||| K = K) : Keeps K a0 (State.hangColon s v cause) := by
  unfold State.hangColon
  repeat' first
    | (with_reducible assumption) | exact Keeps.sub hK (by decide) | (with_reducible apply State.addRun_keeps)
    | (with_reducible apply State.modCtx_keeps) | (with_reducible refine Keeps.foldl ?_ (fun _ _ _ => ?_)) | split
    | (dsimp only)

theorem State.commaFinish_keeps {K : BitVec 24} {a0 : State} {s : State} {c : CtxId} (hS : Keeps K a0 s)
    (hK : 0x55A340#24 ||| K = K) : Keeps K a0 (State.commaFinish s c) := by
  unfold State.commaFinish
  repeat' first
    | (with_reducible assumption) | exact Keeps.sub hK (by decide) | (with_reducible apply State.commaEnd_keeps)
    | (with_reducible apply State.discardWork_keeps) | (with_reducible apply State.resetRecord_keeps) | split
    | (dsimp only)

theorem State.escalate_keeps {K : BitVec 24} {a0 : State} {s : State} {lvl : BitVec 3} {target : BitVec 10} {role : Option (BitVec 1)} (hS : Keeps K a0 s)
    (hK : 0x7FFFDF#24 ||| K = K) : Keeps K a0 (State.escalate s lvl target role) := by
  unfold State.escalate
  repeat' first
    | (with_reducible assumption) | exact Keeps.sub hK (by decide) | (with_reducible apply State.colon_keeps)
    | (with_reducible apply State.commaFinish_keeps) | (with_reducible apply State.dropRun_keeps)
    | (with_reducible apply State.ellipsis_keeps) | (with_reducible apply State.fltEvent_keeps)
    | (with_reducible apply State.fullStop_keeps) | (with_reducible apply State.semicolon_keeps)
    | (with_reducible apply State.semicolonWork_keeps) | (with_reducible refine Keeps.foldl ?_ (fun _ _ _ => ?_))
    | split | (dsimp only)

theorem State.requestComma_keeps {K : BitVec 24} {a0 : State} {s : State} {c : CtxId} {completes : Bool} (hS : Keeps K a0 s)
    (hK : 0x55A340#24 ||| K = K) : Keeps K a0 (State.requestComma s c completes) := by
  unfold State.requestComma
  repeat' first
    | (with_reducible assumption) | exact Keeps.sub hK (by decide) | (with_reducible apply State.comma_keeps)
    | (with_reducible apply State.hangComma_keeps) | split | (dsimp only)

theorem State.requestSemicolon_keeps {K : BitVec 24} {a0 : State} {s : State} {e : Nat} {completes : Bool} (hS : Keeps K a0 s)
    (hK : 0x75BF40#24 ||| K = K) : Keeps K a0 (State.requestSemicolon s e completes) := by
  unfold State.requestSemicolon
  repeat' first
    | (with_reducible assumption) | exact Keeps.sub hK (by decide) | (with_reducible apply State.hangSemicolon_keeps)
    | (with_reducible apply State.semicolon_keeps) | split | (dsimp only)

theorem State.requestColon_keeps {K : BitVec 24} {a0 : State} {s : State} {v : VdId} {completes : Bool} (hS : Keeps K a0 s)
    (hK : 0x55A340#24 ||| K = K) : Keeps K a0 (State.requestColon s v completes) := by
  unfold State.requestColon
  repeat' first
    | (with_reducible assumption) | exact Keeps.sub hK (by decide) | (with_reducible apply State.colon_keeps)
    | (with_reducible apply State.hangColon_keeps) | split | (dsimp only)

theorem State.tc0SendNow_keeps {K : BitVec 24} {a0 : State} {s : State} {d : Slot} {type : Byte} {dst : Member} {msg : Bytes} (hS : Keeps K a0 s)
    (hK : 0x542640#24 ||| K = K) : Keeps K a0 (State.tc0SendNow s d type dst msg) := by
  unfold State.tc0SendNow
  repeat' first
    | (with_reducible assumption) | exact Keeps.sub hK (by decide) | (with_reducible apply State.setDom_keeps)
    | (with_reducible apply State.tc0Send_keeps) | (with_reducible apply State.txSeal_keeps)
    | (with_reducible refine Keeps.ofOpt (by assumption) ?_; with_reducible apply State.txSeal_keeps)
    | exact Keeps.Opt.none | (with_reducible refine Keeps.Opt.some ?_)
    | (with_reducible refine Keeps.foldl ?_ (fun _ _ _ => ?_)) | (with_reducible refine Keeps.getD ?_ ?_) | split
    | (dsimp only)

theorem State.freeRanges_keeps {K : BitVec 24} {a0 : State} {s : State} {d : Slot} (hS : Keeps K a0 s)
    (hK : 0x000100#24 ||| K = K) : Keeps K a0 (State.freeRanges s d) := by
  unfold State.freeRanges
  repeat' first
    | (with_reducible assumption) | exact Keeps.sub hK (by decide) | split | (dsimp only)
    | (fail_if_no_progress refine Keeps.put ?_)

theorem State.freeFabric_keeps {K : BitVec 24} {a0 : State} {s : State} {d : Slot} (hS : Keeps K a0 s)
    (hK : 0x001000#24 ||| K = K) : Keeps K a0 (State.freeFabric s d) := by
  unfold State.freeFabric
  repeat' first
    | (with_reducible assumption) | exact Keeps.sub hK (by decide) | split | (dsimp only)
    | (fail_if_no_progress refine Keeps.put ?_)

theorem State.freeVds_keeps {K : BitVec 24} {a0 : State} {s : State} {d : Slot} (hS : Keeps K a0 s)
    (hK : 0x004000#24 ||| K = K) : Keeps K a0 (State.freeVds s d) := by
  unfold State.freeVds
  repeat' first
    | (with_reducible assumption) | exact Keeps.sub hK (by decide) | split | (dsimp only)
    | (fail_if_no_progress refine Keeps.put ?_)

theorem State.freeSlot_keeps {K : BitVec 24} {a0 : State} {s : State} {d : Slot} (hS : Keeps K a0 s)
    (hK : 0x75FF48#24 ||| K = K) : Keeps K a0 (State.freeSlot s d) := by
  unfold State.freeSlot
  repeat' first
    | (with_reducible assumption) | exact Keeps.sub hK (by decide) | (with_reducible apply State.eraseSubtree_keeps)
    | (with_reducible apply State.freeFabric_keeps) | (with_reducible apply State.freeIndex_keeps)
    | (with_reducible apply State.freeRanges_keeps) | (with_reducible apply State.freeVds_keeps)
    | (with_reducible apply State.meterDeliver_keeps) | (with_reducible apply State.meterFinal_keeps)
    | (with_reducible apply State.orphanEffects_keeps) | (with_reducible apply State.reissueCert_keeps)
    | (with_reducible apply State.setDom_keeps) | (with_reducible refine Keeps.foldl ?_ (fun _ _ _ => ?_)) | split
    | (dsimp only)

theorem State.exitTail_keeps {K : BitVec 24} {a0 : State} {s : State} {d : Slot} (hS : Keeps K a0 s)
    (hK : 0x75FF48#24 ||| K = K) : Keeps K a0 (State.exitTail s d) := by
  unfold State.exitTail
  repeat' first
    | (with_reducible assumption) | exact Keeps.sub hK (by decide) | (with_reducible apply State.colon_keeps)
    | (with_reducible apply State.freeSlot_keeps) | (with_reducible apply State.invalidateKey_keeps)
    | (with_reducible refine Keeps.foldl ?_ (fun _ _ _ => ?_)) | split | (dsimp only)

theorem State.exitDepart_keeps {K : BitVec 24} {a0 : State} {s : State} {d : Slot} (hS : Keeps K a0 s)
    (hK : 0x542640#24 ||| K = K) : Keeps K a0 (State.exitDepart s d) := by
  unfold State.exitDepart
  repeat' first
    | (with_reducible assumption) | exact Keeps.sub hK (by decide) | (with_reducible apply State.tc0SendNow_keeps)
    | split | (dsimp only)

theorem State.forcedExit_keeps {K : BitVec 24} {a0 : State} {s : State} {d : Slot} (hS : Keeps K a0 s)
    (hK : 0x75FF48#24 ||| K = K) : Keeps K a0 (State.forcedExit s d) := by
  unfold State.forcedExit
  repeat' first
    | (with_reducible assumption) | exact Keeps.sub hK (by decide) | (with_reducible apply State.exitDepart_keeps)
    | (with_reducible apply State.exitTail_keeps) | split | (dsimp only)

theorem State.forcedExitAll_keeps {K : BitVec 24} {a0 : State} {s : State} (hS : Keeps K a0 s)
    (hK : 0x75FF48#24 ||| K = K) : Keeps K a0 (State.forcedExitAll s) := by
  unfold State.forcedExitAll
  repeat' first
    | (with_reducible assumption) | exact Keeps.sub hK (by decide) | (with_reducible apply State.forcedExit_keeps)
    | (with_reducible refine Keeps.foldl ?_ (fun _ _ _ => ?_)) | split | (dsimp only)

theorem State.exitHang_keeps {K : BitVec 24} {a0 : State} {s : State} {x : Slot × VdId} (hS : Keeps K a0 s)
    (hK : 0x75FF48#24 ||| K = K) : Keeps K a0 (State.exitHang s x) := by
  unfold State.exitHang
  repeat' first
    | (with_reducible assumption) | exact Keeps.sub hK (by decide) | (with_reducible apply State.exitDepart_keeps)
    | (with_reducible apply State.forcedExit_keeps) | (with_reducible apply State.hangColon_keeps)
    | (with_reducible refine Keeps.foldl ?_ (fun _ _ _ => ?_)) | split | (dsimp only)

end Sys2Proof.Machine
end

