-- ==== Sys2Proof/Laws/FrameBindOps.lean ====
section
/-! SUPPORT. The frame of each operation of Sys2Proof/Machine/BindOps.lean. -/

namespace Sys2Proof.Machine

set_option Elab.async false

theorem State.unmapObj_keeps {K : BitVec 24} {a0 : State} {s : State} {c : CtxId} {n : Nat} (hS : Keeps K a0 s)
    (hK : 0x002000#24 ||| K = K) : Keeps K a0 (State.unmapObj s c n) := by
  unfold State.unmapObj
  repeat' first
    | (with_reducible assumption) | exact Keeps.sub hK (by decide) | (with_reducible apply State.modCtx_keeps)
    | (with_reducible apply State.setObj_keeps) | split | (dsimp only)

theorem State.staleRunning_keeps {K : BitVec 24} {a0 : State} {s : State} {c : CtxId} {n : Nat} {reuse : BitVec 10} (hS : Keeps K a0 s)
    (hK : 0x002000#24 ||| K = K) : Keeps K a0 (State.staleRunning s c n reuse) := by
  unfold State.staleRunning
  repeat' first
    | (with_reducible assumption) | exact Keeps.sub hK (by decide) | split | (dsimp only)
    | (fail_if_no_progress refine Keeps.put ?_)

theorem State.dropObj_keeps {K : BitVec 24} {a0 : State} {s : State} {c : CtxId} {n : Nat} (hS : Keeps K a0 s)
    (hK : 0x002000#24 ||| K = K) : Keeps K a0 (State.dropObj s c n) := by
  unfold State.dropObj
  repeat' first
    | (with_reducible assumption) | exact Keeps.sub hK (by decide) | (with_reducible apply State.staleRunning_keeps)
    | (with_reducible apply State.unmapObj_keeps) | split | (dsimp only)

theorem State.dropObjs_keeps {K : BitVec 24} {a0 : State} {s : State} {v : VdId} {p : Obj → Bool} (hS : Keeps K a0 s)
    (hK : 0x002000#24 ||| K = K) : Keeps K a0 (State.dropObjs s v p) := by
  unfold State.dropObjs
  repeat' first
    | (with_reducible assumption) | exact Keeps.sub hK (by decide) | (with_reducible apply State.dropObj_keeps)
    | (with_reducible refine Keeps.foldl ?_ (fun _ _ _ => ?_)) | split | (dsimp only)

theorem State.faultMem_keeps {K : BitVec 24} {a0 : State} {s : State} {v : VdId} {p : Trans → Bool} (hS : Keeps K a0 s)
    (hK : 0x10A200#24 ||| K = K) : Keeps K a0 (State.faultMem s v p) := by
  unfold State.faultMem
  repeat' first
    | (with_reducible assumption) | exact Keeps.sub hK (by decide) | (with_reducible apply State.faultIter_keeps)
    | (with_reducible refine Keeps.foldl ?_ (fun _ _ _ => ?_)) | split | (dsimp only)

theorem State.unloadProg_keeps {K : BitVec 24} {a0 : State} {s : State} {p : ProgId} (hS : Keeps K a0 s)
    (hK : 0x10A240#24 ||| K = K) : Keeps K a0 (State.unloadProg s p) := by
  unfold State.unloadProg
  repeat' first
    | (with_reducible assumption) | exact Keeps.sub hK (by decide) | (with_reducible apply State.faultOpen_keeps)
    | (with_reducible apply State.freeProg_keeps) | split | (dsimp only)

theorem State.removeChan_keeps {K : BitVec 24} {a0 : State} {s : State} {v : VdId} {ch : ChanId} (hS : Keeps K a0 s)
    (hK : 0x10E200#24 ||| K = K) : Keeps K a0 (State.removeChan s v ch) := by
  unfold State.removeChan
  repeat' first
    | (with_reducible assumption) | exact Keeps.sub hK (by decide) | (with_reducible apply State.dropObjs_keeps)
    | (with_reducible apply State.faultMem_keeps) | (with_reducible apply State.modVdev_keeps) | split | (dsimp only)

theorem State.removeLink_keeps {K : BitVec 24} {a0 : State} {s : State} {v : VdId} {l : LinkId} (hS : Keeps K a0 s)
    (hK : 0x10E200#24 ||| K = K) : Keeps K a0 (State.removeLink s v l) := by
  unfold State.removeLink
  repeat' first
    | (with_reducible assumption) | exact Keeps.sub hK (by decide) | (with_reducible apply State.dropObjs_keeps)
    | (with_reducible apply State.faultOpen_keeps) | (with_reducible apply State.modVdev_keeps)
    | (with_reducible refine Keeps.foldl ?_ (fun _ _ _ => ?_)) | split | (dsimp only)

theorem State.removeIndex_keeps {K : BitVec 24} {a0 : State} {s : State} {v : VdId} {i : KeyIdx} (hS : Keeps K a0 s)
    (hK : 0x55E340#24 ||| K = K) : Keeps K a0 (State.removeIndex s v i) := by
  unfold State.removeIndex
  repeat' first
    | (with_reducible assumption) | exact Keeps.sub hK (by decide) | (with_reducible apply State.dropObjs_keeps)
    | (with_reducible apply State.faultMem_keeps) | (with_reducible apply State.freeIndex_keeps)
    | (with_reducible apply State.memPump_keeps) | (with_reducible apply State.modVdev_keeps) | split | (dsimp only)

theorem State.removeProg_keeps {K : BitVec 24} {a0 : State} {s : State} {v : VdId} {p : ProgId} (hS : Keeps K a0 s)
    (hK : 0x10E240#24 ||| K = K) : Keeps K a0 (State.removeProg s v p) := by
  unfold State.removeProg
  repeat' first
    | (with_reducible assumption) | exact Keeps.sub hK (by decide) | (with_reducible apply State.modVdev_keeps)
    | (with_reducible apply State.unloadProg_keeps) | split | (dsimp only)

theorem State.cryptoErase_keeps {K : BitVec 24} {a0 : State} {s : State} {ch : ChanId} {d : Slot} (hS : Keeps K a0 s)
    (hK : 0x752340#24 ||| K = K) : Keeps K a0 (State.cryptoErase s ch d) := by
  unfold State.cryptoErase
  repeat' first
    | (with_reducible assumption) | exact Keeps.sub hK (by decide) | (with_reducible apply State.assignSecret_keeps)
    | (with_reducible apply State.dropIndexKeys_keeps) | (with_reducible apply State.freeIndex_keeps)
    | (with_reducible apply State.memPump_keeps) | (with_reducible apply State.modChan_keeps)
    | (with_reducible refine Keeps.foldl ?_ (fun _ _ _ => ?_)) | split | (dsimp only)

theorem State.crossChan_keeps {K : BitVec 24} {a0 : State} {s : State} {ch : ChanId} {a : Option Slot} {b : Option Slot} (hS : Keeps K a0 s)
    (hK : 0x752340#24 ||| K = K) : Keeps K a0 (State.crossChan s ch a b) := by
  unfold State.crossChan
  repeat' first
    | (with_reducible assumption) | exact Keeps.sub hK (by decide) | (with_reducible apply State.cryptoErase_keeps)
    | split | (dsimp only)

theorem State.crossLink_keeps {K : BitVec 24} {a0 : State} {s : State} {l : LinkId} {a : Option Slot} {b : Option Slot} (hS : Keeps K a0 s)
    (hK : 0x75BF40#24 ||| K = K) : Keeps K a0 (State.crossLink s l a b) := by
  unfold State.crossLink
  repeat' first
    | (with_reducible assumption) | exact Keeps.sub hK (by decide) | (with_reducible apply State.endAgreement_keeps)
    | (with_reducible apply State.modDom_keeps) | (with_reducible apply State.sendBye_keeps) | split | (dsimp only)

theorem State.rosterOpt_keeps {K : BitVec 24} {a0 : State} {s : State} {d : Option Slot} (hS : Keeps K a0 s)
    (hK : 0x000600#24 ||| K = K) : Keeps K a0 (State.rosterOpt s d) := by
  unfold State.rosterOpt
  repeat' first
    | (with_reducible assumption) | exact Keeps.sub hK (by decide) | (with_reducible apply State.rosterChange_keeps)
    | split | (dsimp only)

theorem State.bindRes_keeps {K : BitVec 24} {a0 : State} {s : State} {r : VdReq} {v : VdId} (hS : Keeps K a0 s)
    (hK : 0x604140#24 ||| K = K) : Keeps K a0 (State.bindRes s r v) := by
  unfold State.bindRes
  repeat' first
    | (with_reducible assumption) | exact Keeps.sub hK (by decide) | (with_reducible apply State.assignIndex_keeps)
    | (with_reducible apply State.modVdev_keeps) | split | (dsimp only)

theorem State.removeRes_keeps {K : BitVec 24} {a0 : State} {s : State} {r : VdReq} {v : VdId} {b : Option Slot} (hS : Keeps K a0 s)
    (hK : 0x75FF40#24 ||| K = K) : Keeps K a0 (State.removeRes s r v b) := by
  unfold State.removeRes
  repeat' first
    | (with_reducible assumption) | exact Keeps.sub hK (by decide) | (with_reducible apply State.crossChan_keeps)
    | (with_reducible apply State.crossLink_keeps) | (with_reducible apply State.removeChan_keeps)
    | (with_reducible apply State.removeIndex_keeps) | (with_reducible apply State.removeLink_keeps)
    | (with_reducible apply State.removeProg_keeps) | split | (dsimp only)

theorem State.moveVd_keeps {K : BitVec 24} {a0 : State} {s : State} {v : VdId} {b : Option Slot} (hS : Keeps K a0 s)
    (hK : 0x75FF40#24 ||| K = K) : Keeps K a0 (State.moveVd s v b) := by
  unfold State.moveVd
  repeat' first
    | (with_reducible assumption) | exact Keeps.sub hK (by decide) | (with_reducible apply State.crossChan_keeps)
    | (with_reducible apply State.crossLink_keeps) | (with_reducible apply State.modVdev_keeps)
    | (with_reducible apply State.removeIndex_keeps) | (with_reducible apply State.rosterOpt_keeps)
    | (with_reducible apply State.unloadProg_keeps) | (with_reducible refine Keeps.foldl ?_ (fun _ _ _ => ?_))
    | split | (dsimp only)

theorem State.destroyVd_keeps {K : BitVec 24} {a0 : State} {s : State} {v : VdId} (hS : Keeps K a0 s)
    (hK : 0x75FF40#24 ||| K = K) : Keeps K a0 (State.destroyVd s v) := by
  unfold State.destroyVd
  repeat' first
    | (with_reducible assumption) | exact Keeps.sub hK (by decide) | (with_reducible apply State.crossChan_keeps)
    | (with_reducible apply State.crossLink_keeps) | (with_reducible apply State.removeChan_keeps)
    | (with_reducible apply State.removeIndex_keeps) | (with_reducible apply State.removeLink_keeps)
    | (with_reducible apply State.removeProg_keeps) | (with_reducible apply State.rosterOpt_keeps)
    | (with_reducible apply State.setVdev_keeps) | (with_reducible refine Keeps.foldl ?_ (fun _ _ _ => ?_)) | split
    | (dsimp only)

theorem State.vdEffect_keeps {K : BitVec 24} {a0 : State} {s : State} {r : VdReq} (hS : Keeps K a0 s)
    (hK : 0x75FF40#24 ||| K = K) : Keeps K a0 (State.vdEffect s r) := by
  unfold State.vdEffect
  repeat' first
    | (with_reducible assumption) | exact Keeps.sub hK (by decide) | (with_reducible apply State.bindRes_keeps)
    | (with_reducible apply State.destroyVd_keeps) | (with_reducible apply State.moveVd_keeps)
    | (with_reducible apply State.removeRes_keeps) | (with_reducible apply State.rosterOpt_keeps)
    | (with_reducible apply State.setVdev_keeps) | split | (dsimp only)

theorem State.vdRequest_keeps {K : BitVec 24} {a0 : State} {s : State} {r : VdReq} (hS : Keeps K a0 s)
    (hK : 0x75FF40#24 ||| K = K) : Keeps K a0 (State.vdRequest s r).1 := by
  unfold State.vdRequest
  repeat' first
    | (with_reducible assumption) | exact Keeps.sub hK (by decide) | (with_reducible apply State.vdEffect_keeps)
    | split | (dsimp only)

theorem State.vdReqWrite_keeps {K : BitVec 24} {a0 : State} {s : State} {r : VdReq} (hS : Keeps K a0 s)
    (hK : 0x75FF40#24 ||| K = K) : Keeps K a0 (State.vdReqWrite s r) := by
  unfold State.vdReqWrite
  repeat' first
    | (with_reducible assumption) | exact Keeps.sub hK (by decide) | (with_reducible apply State.msiPf_keeps)
    | (with_reducible apply State.vdRequest_keeps)
    | (with_reducible refine Keeps.ofFst (by assumption) ?_; with_reducible apply State.vdRequest_keeps) | split
    | (dsimp only) | (fail_if_no_progress refine Keeps.put ?_)

end Sys2Proof.Machine
end

