-- ==== Sys2Proof/Laws/FramePortOps.lean ====
section
/-! SUPPORT. The frame of each operation of Sys2Proof/Machine/PortOps.lean. -/

namespace Sys2Proof.Machine

set_option Elab.async false

theorem State.issueOwed_keeps {K : BitVec 24} {a0 : State} {s : State} {l : LinkId} (hS : Keeps K a0 s)
    (hK : 0x400200#24 ||| K = K) : Keeps K a0 (State.issueOwed s l) := by
  unfold State.issueOwed
  repeat' first
    | (with_reducible assumption) | exact Keeps.sub hK (by decide) | (with_reducible apply State.out_keeps)
    | (with_reducible apply State.setLink_keeps) | (with_reducible refine Keeps.foldl ?_ (fun _ _ _ => ?_)) | split
    | (dsimp only)

theorem State.selectPort_keeps {K : BitVec 24} {a0 : State} {s : State} {l : LinkId} (hS : Keeps K a0 s)
    (hK : 0x000200#24 ||| K = K) : Keeps K a0 (State.selectPort s l) := by
  unfold State.selectPort
  repeat' first
    | (with_reducible assumption) | exact Keeps.sub hK (by decide) | (with_reducible apply State.modLink_keeps)
    | split | (dsimp only)

theorem State.setPhase_keeps {K : BitVec 24} {a0 : State} {s : State} {l : LinkId} {p : LinkPhase} (hS : Keeps K a0 s)
    (hK : 0x000600#24 ||| K = K) : Keeps K a0 (State.setPhase s l p) := by
  unfold State.setPhase
  repeat' first
    | (with_reducible assumption) | exact Keeps.sub hK (by decide) | (with_reducible apply State.modLink_keeps)
    | (with_reducible apply State.rosterChange_keeps) | split | (dsimp only)

theorem State.agreeNow_keeps {K : BitVec 24} {a0 : State} {s : State} {l : LinkId} (hS : Keeps K a0 s)
    (hK : 0x200600#24 ||| K = K) : Keeps K a0 (State.agreeNow s l) := by
  unfold State.agreeNow
  repeat' first
    | (with_reducible assumption) | exact Keeps.sub hK (by decide) | (with_reducible apply State.agreeStart_keeps)
    | (with_reducible apply State.modLink_keeps) | (with_reducible apply State.setPhase_keeps) | split | (dsimp only)

theorem State.linkRise_keeps {K : BitVec 24} {a0 : State} {s : State} {l : LinkId} (hS : Keeps K a0 s)
    (hK : 0x600600#24 ||| K = K) : Keeps K a0 (State.linkRise s l) := by
  unfold State.linkRise
  repeat' first
    | (with_reducible assumption) | exact Keeps.sub hK (by decide) | (with_reducible apply State.agreeNow_keeps)
    | (with_reducible apply State.agreeStart_keeps) | (with_reducible apply State.issueOwed_keeps)
    | (with_reducible apply State.modLink_keeps) | (with_reducible apply State.selectPort_keeps)
    | (with_reducible apply State.setPhase_keeps) | split | (dsimp only)

theorem State.voidCredits_keeps {K : BitVec 24} {a0 : State} {s : State} {l : LinkId} (hS : Keeps K a0 s)
    (hK : 0x000200#24 ||| K = K) : Keeps K a0 (State.voidCredits s l) := by
  unfold State.voidCredits
  repeat' first
    | (with_reducible assumption) | exact Keeps.sub hK (by decide) | (with_reducible apply State.modLink_keeps)
    | split | (dsimp only)

theorem State.linkFall_keeps {K : BitVec 24} {a0 : State} {s : State} {l : LinkId} (hS : Keeps K a0 s)
    (hK : 0x75BF40#24 ||| K = K) : Keeps K a0 (State.linkFall s l) := by
  unfold State.linkFall
  repeat' first
    | (with_reducible assumption) | exact Keeps.sub hK (by decide) | (with_reducible apply State.endAgreement_keeps)
    | (with_reducible apply State.modLink_keeps) | (with_reducible apply State.setPhase_keeps)
    | (with_reducible apply State.voidCredits_keeps) | split | (dsimp only)

theorem State.clearChannel_keeps {K : BitVec 24} {a0 : State} {s : State} {l : LinkId} (hS : Keeps K a0 s)
    (hK : 0x400200#24 ||| K = K) : Keeps K a0 (State.clearChannel s l) := by
  unfold State.clearChannel
  repeat' first
    | (with_reducible assumption) | exact Keeps.sub hK (by decide) | (with_reducible apply State.creditReturn_keeps)
    | (with_reducible apply State.modLink_keeps) | (with_reducible refine Keeps.foldl ?_ (fun _ _ _ => ?_)) | split
    | (dsimp only)

theorem State.clearDelivery_keeps {K : BitVec 24} {a0 : State} {s : State} (hS : Keeps K a0 s)
    (hK : 0x400200#24 ||| K = K) : Keeps K a0 (State.clearDelivery s) := by
  unfold State.clearDelivery
  repeat' first
    | (with_reducible assumption) | exact Keeps.sub hK (by decide) | (with_reducible apply State.clearChannel_keeps)
    | (with_reducible refine Keeps.foldl ?_ (fun _ _ _ => ?_)) | split | (dsimp only)

theorem State.flushDelivery_keeps {K : BitVec 24} {a0 : State} {s : State} (hS : Keeps K a0 s)
    (hK : 0x55A340#24 ||| K = K) : Keeps K a0 (State.flushDelivery s) := by
  unfold State.flushDelivery
  repeat' first
    | (with_reducible assumption) | exact Keeps.sub hK (by decide) | (with_reducible apply State.consumerComma_keeps)
    | (with_reducible apply State.repudiateData_keeps) | (with_reducible refine Keeps.foldl ?_ (fun _ _ _ => ?_))
    | split | (dsimp only)

theorem State.deliveryGo_keeps {K : BitVec 24} {a0 : State} {s : State} (hS : Keeps K a0 s)
    (hK : 0x75BF40#24 ||| K = K) : Keeps K a0 (State.deliveryGo s) := by
  unfold State.deliveryGo
  repeat' first
    | (with_reducible assumption) | exact Keeps.sub hK (by decide) | (with_reducible apply State.deliverPump_keeps)
    | (with_reducible apply State.stormCheck_keeps) | (with_reducible apply State.verdictPump_keeps)
    | (with_reducible refine Keeps.foldl ?_ (fun _ _ _ => ?_)) | split | (dsimp only)

theorem State.deliveryReset_keeps {K : BitVec 24} {a0 : State} {s : State} (hS : Keeps K a0 s)
    (hK : 0x75BF40#24 ||| K = K) : Keeps K a0 (State.deliveryReset s) := by
  unfold State.deliveryReset
  repeat' first
    | (with_reducible assumption) | exact Keeps.sub hK (by decide) | (with_reducible apply State.clearDelivery_keeps)
    | (with_reducible apply State.deliveryGo_keeps) | (with_reducible apply State.flushDelivery_keeps)
    | (with_reducible apply State.issueOwed_keeps) | (with_reducible apply State.out_keeps)
    | (with_reducible refine Keeps.foldl ?_ (fun _ _ _ => ?_)) | split | (dsimp only)

theorem State.takeLimit_keeps {K : BitVec 24} {a0 : State} {s : State} {r : Rail} {v : BitVec 12} (hS : Keeps K a0 s)
    (hK : 0x040000#24 ||| K = K) : Keeps K a0 (State.takeLimit s r v) := by
  unfold State.takeLimit
  repeat' first
    | (with_reducible assumption) | exact Keeps.sub hK (by decide) | split | (dsimp only)
    | (fail_if_no_progress refine Keeps.put ?_)

theorem State.controlContext_keeps {K : BitVec 24} {a0 : State} {s : State} (hS : Keeps K a0 s)
    (hK : 0x002000#24 ||| K = K) : Keeps K a0 (State.controlContext s) := by
  unfold State.controlContext
  repeat' first
    | (with_reducible assumption) | exact Keeps.sub hK (by decide) | (with_reducible apply State.setCtx_keeps)
    | split | (dsimp only)

theorem State.sweepsEnd_keeps {K : BitVec 24} {a0 : State} {s : State} (hS : Keeps K a0 s)
    (hK : 0x752340#24 ||| K = K) : Keeps K a0 (State.sweepsEnd s) := by
  unfold State.sweepsEnd
  repeat' first
    | (with_reducible assumption) | exact Keeps.sub hK (by decide) | (with_reducible apply State.endSweep_keeps)
    | (with_reducible refine Keeps.foldl ?_ (fun _ _ _ => ?_)) | split | (dsimp only)

theorem State.ackEarly_keeps {K : BitVec 24} {a0 : State} {s : State} (hS : Keeps K a0 s)
    (hK : 0x400001#24 ||| K = K) : Keeps K a0 (State.ackEarly s) := by
  unfold State.ackEarly
  repeat' first
    | (with_reducible assumption) | exact Keeps.sub hK (by decide) | (with_reducible apply State.out_keeps)
    | (with_reducible refine Keeps.foldl ?_ (fun _ _ _ => ?_)) | split | (dsimp only)
    | (fail_if_no_progress refine Keeps.put ?_)

theorem State.setEnable_keeps {K : BitVec 24} {a0 : State} {s : State} {t : EnTarget} {on : Bool} (hS : Keeps K a0 s)
    (hK : 0x77BF44#24 ||| K = K) : Keeps K a0 (State.setEnable s t on) := by
  unfold State.setEnable
  repeat' first
    | (with_reducible assumption) | exact Keeps.sub hK (by decide) | (with_reducible apply State.chanOff_keeps)
    | (with_reducible apply State.deliveryGo_keeps) | (with_reducible apply State.fenceRelease_keeps)
    | (with_reducible apply State.linkFall_keeps) | (with_reducible apply State.linkRise_keeps)
    | (with_reducible apply State.mergedGo_keeps) | (with_reducible apply State.meterDeliverAll_keeps)
    | (with_reducible apply State.modChan_keeps) | (with_reducible apply State.pmFlush_keeps)
    | (with_reducible apply State.sweepsEnd_keeps) | (with_reducible apply State.traceDiscard_keeps)
    | (with_reducible apply State.traySend_keeps) | split | (dsimp only) | (fail_if_no_progress refine Keeps.put ?_)

end Sys2Proof.Machine
end

