-- ==== Sys2Proof/Laws/FrameFeOps.lean ====
section
/-! SUPPORT. The frame of each operation of Sys2Proof/Machine/FeOps.lean. -/

namespace Sys2Proof.Machine

set_option Elab.async false

theorem State.setRingsAt_keeps {K : BitVec 24} {a0 : State} {s : State} {f : Fn} {loc : BitVec 6} {r : IdleRings} (hS : Keeps K a0 s)
    (hK : 0x002000#24 ||| K = K) : Keeps K a0 (State.setRingsAt s f loc r) := by
  unfold State.setRingsAt
  repeat' first
    | (with_reducible assumption) | exact Keeps.sub hK (by decide) | (with_reducible apply State.modCtx_keeps)
    | (with_reducible apply State.modFunc_keeps) | split | (dsimp only)

theorem State.sqTail_keeps {K : BitVec 24} {a0 : State} {s : State} {f : Fn} {loc : BitVec 6} {q : BitVec 3} {tail : Word} (hS : Keeps K a0 s)
    (hK : 0x002000#24 ||| K = K) : Keeps K a0 (State.sqTail s f loc q tail) := by
  unfold State.sqTail
  repeat' first
    | (with_reducible assumption) | exact Keeps.sub hK (by decide) | (with_reducible apply State.modCtx_keeps)
    | (with_reducible apply State.setRingsAt_keeps) | split | (dsimp only)

theorem State.recPut_keeps {K : BitVec 24} {a0 : State} {s : State} {c : CtxId} {h : HeldRec} (hS : Keeps K a0 s)
    (hK : 0x502000#24 ||| K = K) : Keeps K a0 (State.recPut s c h) := by
  unfold State.recPut
  repeat' first
    | (with_reducible assumption) | exact Keeps.sub hK (by decide) | (with_reducible apply State.hostWrite_keeps)
    | (with_reducible apply State.msi_keeps) | (with_reducible apply State.setCtx_keeps)
    | (with_reducible apply State.trace_keeps) | split | (dsimp only)

theorem State.recDone_keeps {K : BitVec 24} {a0 : State} {s : State} {c : CtxId} {h : HeldRec} (hS : Keeps K a0 s)
    (hK : 0x502000#24 ||| K = K) : Keeps K a0 (State.recDone s c h) := by
  unfold State.recDone
  repeat' first
    | (with_reducible assumption) | exact Keeps.sub hK (by decide) | (with_reducible apply State.count_keeps)
    | (with_reducible apply State.modFunc_keeps) | (with_reducible apply State.recPut_keeps)
    | (with_reducible apply State.setCtx_keeps) | split | (dsimp only)

theorem State.recPumpAux_keeps {K : BitVec 24} {a0 : State} {c : CtxId} {z1 : List HeldRec} {z2 : State} (hS : Keeps K a0 z2)
    (hK : 0x502000#24 ||| K = K) : Keeps K a0 (State.recPumpAux c z1 z2) := by
  induction z1 generalizing c z2 with
  | nil =>
    unfold State.recPumpAux
    repeat' first
      | (with_reducible assumption) | exact Keeps.sub hK (by decide) | (with_reducible apply State.modCtx_keeps)
      | (with_reducible apply State.recPut_keeps) | split | (dsimp only)
  | cons y ys ih =>
    unfold State.recPumpAux
    repeat' first
      | (with_reducible assumption) | exact Keeps.sub hK (by decide) | (with_reducible apply ih)
      | (with_reducible apply State.modCtx_keeps) | (with_reducible apply State.recPut_keeps) | split | (dsimp only)

theorem State.recPump_keeps {K : BitVec 24} {a0 : State} {s : State} {c : CtxId} (hS : Keeps K a0 s)
    (hK : 0x502000#24 ||| K = K) : Keeps K a0 (State.recPump s c) := by
  unfold State.recPump
  repeat' first
    | (with_reducible assumption) | exact Keeps.sub hK (by decide) | (with_reducible apply State.recPumpAux_keeps)
    | split | (dsimp only)

theorem State.cqHead_keeps {K : BitVec 24} {a0 : State} {s : State} {f : Fn} {loc : BitVec 6} {head : Word} (hS : Keeps K a0 s)
    (hK : 0x502000#24 ||| K = K) : Keeps K a0 (State.cqHead s f loc head) := by
  unfold State.cqHead
  repeat' first
    | (with_reducible assumption) | exact Keeps.sub hK (by decide) | (with_reducible apply State.recPump_keeps)
    | (with_reducible apply State.setRingsAt_keeps) | split | (dsimp only)

theorem State.modCmd_keeps {K : BitVec 24} {a0 : State} {s : State} {c : CtxId} {q : BitVec 3} {k : Word} {f : Cmd → Cmd} (hS : Keeps K a0 s)
    (hK : 0x002000#24 ||| K = K) : Keeps K a0 (State.modCmd s c q k f) := by
  unfold State.modCmd
  repeat' first
    | (with_reducible assumption) | exact Keeps.sub hK (by decide) | split | (dsimp only)
    | (fail_if_no_progress refine Keeps.put ?_)

theorem State.fetchTake_keeps {K : BitVec 24} {a0 : State} {s : State} {c : CtxId} {q : BitVec 3} {id : Nat} {d : DmaData} (hS : Keeps K a0 s)
    (hK : 0x502000#24 ||| K = K) : Keeps K a0 (State.fetchTake s c q id d) := by
  unfold State.fetchTake
  repeat' first
    | (with_reducible assumption) | exact Keeps.sub hK (by decide) | (with_reducible apply State.out_keeps)
    | (with_reducible apply State.recDone_keeps) | (with_reducible apply State.setCtx_keeps) | split | (dsimp only)
    | (fail_if_no_progress refine Keeps.put ?_)

theorem State.fetchOne_keeps {K : BitVec 24} {a0 : State} {s : State} {c : CtxId} {q : BitVec 3} {d : DmaData} (hS : Keeps K a0 s)
    (hK : 0x502002#24 ||| K = K) : Keeps K a0 (State.fetchOne s c q d) := by
  unfold State.fetchOne
  repeat' first
    | (with_reducible assumption) | exact Keeps.sub hK (by decide) | (with_reducible apply State.fetchTake_keeps)
    | (with_reducible apply State.portViolation_keeps) | split | (dsimp only)

theorem State.readyOne_keeps {K : BitVec 24} {a0 : State} {s : State} {x : Cmd} (hS : Keeps K a0 s)
    (hK : 0x002000#24 ||| K = K) : Keeps K a0 (State.readyOne s x) := by
  unfold State.readyOne
  repeat' first
    | (with_reducible assumption) | exact Keeps.sub hK (by decide) | (with_reducible apply State.cmdResult_keeps)
    | (with_reducible apply State.modCmd_keeps) | (with_reducible apply State.modSess_keeps) | split | (dsimp only)

theorem State.readyPass_keeps {K : BitVec 24} {a0 : State} {z0 : List Cmd} {z1 : List (CtxId × BitVec 3)} {z2 : State} (hS : Keeps K a0 z2)
    (hK : 0x002000#24 ||| K = K) : Keeps K a0 (State.readyPass z0 z1 z2) := by
  induction z0 generalizing z1 z2 with
  | nil =>
    unfold State.readyPass
    repeat' first
      | (with_reducible assumption) | exact Keeps.sub hK (by decide) | (with_reducible apply State.modCmd_keeps)
      | (with_reducible apply State.readyOne_keeps) | split | (dsimp only)
  | cons y ys ih =>
    unfold State.readyPass
    repeat' first
      | (with_reducible assumption) | exact Keeps.sub hK (by decide) | (with_reducible apply ih)
      | (with_reducible apply State.modCmd_keeps) | (with_reducible apply State.readyOne_keeps) | split
      | (dsimp only)

theorem State.modShare_keeps {K : BitVec 24} {a0 : State} {s : State} {f : Fn} {q : BitVec 3} {g : Share → Share} (hS : Keeps K a0 s)
    (hK : 0x002000#24 ||| K = K) : Keeps K a0 (State.modShare s f q g) := by
  unfold State.modShare
  repeat' first
    | (with_reducible assumption) | exact Keeps.sub hK (by decide) | (with_reducible apply State.modFunc_keeps)
    | split | (dsimp only)

theorem State.dmaAsk_keeps {K : BitVec 24} {a0 : State} {s : State} {x : Cmd} {f : Fn} {z3 : Nat} {z4 : BitVec 64} {z5 : Nat} (hS : Keeps K a0 s)
    (hK : 0x402000#24 ||| K = K) : Keeps K a0 (State.dmaAsk s x f z3 z4 z5) := by
  induction z3 generalizing s x f z4 z5 with
  | zero =>
    unfold State.dmaAsk
    repeat' first
      | (with_reducible assumption) | exact Keeps.sub hK (by decide) | (with_reducible apply State.out_keeps) | split
      | (dsimp only) | (fail_if_no_progress refine Keeps.put ?_)
  | succ m ih =>
    unfold State.dmaAsk
    repeat' first
      | (with_reducible assumption) | exact Keeps.sub hK (by decide) | (with_reducible apply ih)
      | (with_reducible apply State.out_keeps) | split | (dsimp only) | (fail_if_no_progress refine Keeps.put ?_)
      | (cases Nat.succ.inj ‹_ + 1 = Nat.succ _›)

theorem State.stgAsk_keeps {K : BitVec 24} {a0 : State} {s : State} {x : Cmd} (hS : Keeps K a0 s)
    (hK : 0x402000#24 ||| K = K) : Keeps K a0 (State.stgAsk s x) := by
  unfold State.stgAsk
  repeat' first
    | (with_reducible assumption) | exact Keeps.sub hK (by decide) | (with_reducible apply State.dmaAsk_keeps)
    | (with_reducible apply State.modCmd_keeps) | split | (dsimp only)

theorem State.grant_keeps {K : BitVec 24} {a0 : State} {s : State} {k : Nat} {x : Cmd} (hS : Keeps K a0 s)
    (hK : 0x512000#24 ||| K = K) : Keeps K a0 (State.grant s k x) := by
  unfold State.grant
  repeat' first
    | (with_reducible assumption) | exact Keeps.sub hK (by decide) | (with_reducible apply State.busyNote_keeps)
    | (with_reducible apply State.cmdResult_keeps) | (with_reducible apply State.modCmd_keeps)
    | (with_reducible apply State.modShare_keeps) | (with_reducible apply State.progress_keeps)
    | (with_reducible apply State.stgAsk_keeps) | (with_reducible apply State.trace_keeps) | split | (dsimp only)
    | (fail_if_no_progress refine Keeps.put ?_)

theorem State.grantWeighted_keeps {K : BitVec 24} {a0 : State} {s : State} {k : Nat} {q : BitVec 3} {xs : List Cmd} (hS : Keeps K a0 s)
    (hK : 0x512000#24 ||| K = K) : Keeps K a0 (State.grantWeighted s k q xs) := by
  unfold State.grantWeighted
  repeat' first
    | (with_reducible assumption) | exact Keeps.sub hK (by decide) | (with_reducible apply State.grant_keeps)
    | (with_reducible apply State.modShare_keeps) | (with_reducible refine Keeps.foldl ?_ (fun _ _ _ => ?_)) | split
    | (dsimp only)

theorem State.grantPlain_keeps {K : BitVec 24} {a0 : State} {s : State} {k : Nat} {xs : List Cmd} (hS : Keeps K a0 s)
    (hK : 0x512000#24 ||| K = K) : Keeps K a0 (State.grantPlain s k xs) := by
  unfold State.grantPlain
  repeat' first
    | (with_reducible assumption) | exact Keeps.sub hK (by decide) | (with_reducible apply State.grant_keeps) | split
    | (dsimp only)

theorem State.grantClass_keeps {K : BitVec 24} {a0 : State} {s : State} {k : Nat} (hS : Keeps K a0 s)
    (hK : 0x512000#24 ||| K = K) : Keeps K a0 (State.grantClass s k) := by
  unfold State.grantClass
  repeat' first
    | (with_reducible assumption) | exact Keeps.sub hK (by decide) | (with_reducible apply State.grantPlain_keeps)
    | (with_reducible apply State.grantWeighted_keeps) | split | (dsimp only)

theorem State.deficitsFall_keeps {K : BitVec 24} {a0 : State} {s : State} (hS : Keeps K a0 s)
    (hK : 0x002000#24 ||| K = K) : Keeps K a0 (State.deficitsFall s) := by
  unfold State.deficitsFall
  repeat' first
    | (with_reducible assumption) | exact Keeps.sub hK (by decide) | split | (dsimp only)
    | (fail_if_no_progress refine Keeps.put ?_)

theorem State.drainCheck_keeps {K : BitVec 24} {a0 : State} {s : State} {f : Fn} (hS : Keeps K a0 s)
    (hK : 0x402000#24 ||| K = K) : Keeps K a0 (State.drainCheck s f) := by
  unfold State.drainCheck
  repeat' first
    | (with_reducible assumption) | exact Keeps.sub hK (by decide) | (with_reducible apply State.modFunc_keeps)
    | (with_reducible apply State.msiPf_keeps) | split | (dsimp only)

theorem State.drainPoll_keeps {K : BitVec 24} {a0 : State} {s : State} (hS : Keeps K a0 s)
    (hK : 0x402000#24 ||| K = K) : Keeps K a0 (State.drainPoll s) := by
  unfold State.drainPoll
  repeat' first
    | (with_reducible assumption) | exact Keeps.sub hK (by decide) | (with_reducible apply State.drainCheck_keeps)
    | (with_reducible refine Keeps.foldl ?_ (fun _ _ _ => ?_)) | split | (dsimp only)

theorem State.epoch_keeps {K : BitVec 24} {a0 : State} {s : State} (hS : Keeps K a0 s)
    (hK : 0x512000#24 ||| K = K) : Keeps K a0 (State.epoch s) := by
  unfold State.epoch
  repeat' first
    | (with_reducible assumption) | exact Keeps.sub hK (by decide) | (with_reducible apply State.deficitsFall_keeps)
    | (with_reducible apply State.drainPoll_keeps) | (with_reducible apply State.grantClass_keeps)
    | (with_reducible apply State.readyPass_keeps) | (with_reducible refine Keeps.foldl ?_ (fun _ _ _ => ?_)) | split
    | (dsimp only) | (fail_if_no_progress refine Keeps.put ?_)

theorem State.refill_keeps {K : BitVec 24} {a0 : State} {s : State} (hS : Keeps K a0 s)
    (hK : 0x002000#24 ||| K = K) : Keeps K a0 (State.refill s) := by
  unfold State.refill
  repeat' first
    | (with_reducible assumption) | exact Keeps.sub hK (by decide) | split | (dsimp only)
    | (fail_if_no_progress refine Keeps.put ?_)

theorem State.objSettle_keeps {K : BitVec 24} {a0 : State} {s : State} (hS : Keeps K a0 s)
    (hK : 0x002000#24 ||| K = K) : Keeps K a0 (State.objSettle s) := by
  unfold State.objSettle
  repeat' first
    | (with_reducible assumption) | exact Keeps.sub hK (by decide) | split | (dsimp only)
    | (fail_if_no_progress refine Keeps.put ?_)

theorem State.taintClear_keeps {K : BitVec 24} {a0 : State} {s : State} {x : Cmd} {st : Status} (hS : Keeps K a0 s)
    (hK : 0x002000#24 ||| K = K) : Keeps K a0 (State.taintClear s x st) := by
  unfold State.taintClear
  repeat' first
    | (with_reducible assumption) | exact Keeps.sub hK (by decide) | (with_reducible apply State.setObj_keeps)
    | split | (dsimp only)

theorem State.objMapDo_keeps {K : BitVec 24} {a0 : State} {s : State} {c : CtxId} {q : BitVec 3} {k : Word} {b : Bytes} (hS : Keeps K a0 s)
    (hK : 0x202000#24 ||| K = K) : Keeps K a0 (State.objMapDo s c q k b) := by
  unfold State.objMapDo
  repeat' first
    | (with_reducible assumption) | exact Keeps.sub hK (by decide) | (with_reducible apply State.cmdResult_keeps)
    | (with_reducible apply State.setObj_keeps) | split | (dsimp only) | (fail_if_no_progress refine Keeps.put ?_)

theorem State.ctxMeter_keeps {K : BitVec 24} {a0 : State} {s : State} {c : CtxId} {m : Nat} {n : Nat} (hS : Keeps K a0 s)
    (hK : 0x040000#24 ||| K = K) : Keeps K a0 (State.ctxMeter s c m n) := by
  unfold State.ctxMeter
  repeat' first
    | (with_reducible assumption) | exact Keeps.sub hK (by decide) | (with_reducible apply State.meter_keeps) | split
    | (dsimp only)

theorem State.csMeter_keeps {K : BitVec 24} {a0 : State} {s : State} {x : Cmd} {st : Status} (hS : Keeps K a0 s)
    (hK : 0x040000#24 ||| K = K) : Keeps K a0 (State.csMeter s x st) := by
  unfold State.csMeter
  repeat' first
    | (with_reducible assumption) | exact Keeps.sub hK (by decide) | (with_reducible apply State.ctxMeter_keeps)
    | split | (dsimp only)

theorem State.releaseActivity_keeps {K : BitVec 24} {a0 : State} {s : State} {c : CtxId} (hS : Keeps K a0 s)
    (hK : 0x040000#24 ||| K = K) : Keeps K a0 (State.releaseActivity s c) := by
  unfold State.releaseActivity
  repeat' first
    | (with_reducible assumption) | exact Keeps.sub hK (by decide) | split | (dsimp only)
    | (fail_if_no_progress refine Keeps.put ?_)

theorem State.destroyCtx_keeps {K : BitVec 24} {a0 : State} {s : State} {c : CtxId} (hS : Keeps K a0 s)
    (hK : 0x55A340#24 ||| K = K) : Keeps K a0 (State.destroyCtx s c) := by
  unfold State.destroyCtx
  repeat' first
    | (with_reducible assumption) | exact Keeps.sub hK (by decide) | (with_reducible apply State.comma_keeps)
    | (with_reducible apply State.modFunc_keeps) | (with_reducible apply State.releaseActivity_keeps)
    | (with_reducible apply State.setCtx_keeps) | (with_reducible apply State.unmapObj_keeps)
    | (with_reducible refine Keeps.foldl ?_ (fun _ _ _ => ?_)) | split | (dsimp only)

theorem State.createCtx_keeps {K : BitVec 24} {a0 : State} {s : State} {b : Bytes} (hS : Keeps K a0 s)
    (hK : 0x002000#24 ||| K = K) : Keeps K a0 (State.createCtx s b) := by
  unfold State.createCtx
  repeat' first
    | (with_reducible assumption) | exact Keeps.sub hK (by decide) | (with_reducible apply State.modFunc_keeps)
    | (with_reducible apply State.setCtx_keeps) | split | (dsimp only)

theorem State.sessDrop_keeps {K : BitVec 24} {a0 : State} {s : State} {f : Fn} (hS : Keeps K a0 s)
    (hK : 0x552340#24 ||| K = K) : Keeps K a0 (State.sessDrop s f) := by
  unfold State.sessDrop
  repeat' first
    | (with_reducible assumption) | exact Keeps.sub hK (by decide) | (with_reducible apply State.memPump_keeps)
    | (with_reducible apply State.modSess_keeps) | (with_reducible apply State.sessEnd_keeps) | split | (dsimp only)

theorem State.flrKeep_keeps {K : BitVec 24} {a0 : State} {s : State} {f : Fn} (hS : Keeps K a0 s)
    (hK : 0x000001#24 ||| K = K) : Keeps K a0 (State.flrKeep s f) := by
  unfold State.flrKeep
  repeat' first
    | (with_reducible assumption) | exact Keeps.sub hK (by decide) | split | (dsimp only)
    | (fail_if_no_progress refine Keeps.put ?_)

theorem State.flrAckPut_keeps {K : BitVec 24} {a0 : State} {s : State} {f : Fn} (hS : Keeps K a0 s)
    (hK : 0x400001#24 ||| K = K) : Keeps K a0 (State.flrAckPut s f) := by
  unfold State.flrAckPut
  repeat' first
    | (with_reducible assumption) | exact Keeps.sub hK (by decide) | (with_reducible apply State.flrKeep_keeps)
    | (with_reducible apply State.out_keeps) | split | (dsimp only)

theorem State.retireFn_keeps {K : BitVec 24} {a0 : State} {s : State} {f : Fn} (hS : Keeps K a0 s)
    (hK : 0x55A345#24 ||| K = K) : Keeps K a0 (State.retireFn s f) := by
  unfold State.retireFn
  repeat' first
    | (with_reducible assumption) | exact Keeps.sub hK (by decide) | (with_reducible apply State.destroyCtx_keeps)
    | (with_reducible apply State.flrAckPut_keeps) | (with_reducible apply State.modFunc_keeps)
    | (with_reducible apply State.sessDrop_keeps) | (with_reducible refine Keeps.foldl ?_ (fun _ _ _ => ?_)) | split
    | (dsimp only) | (fail_if_no_progress refine Keeps.put ?_)

theorem State.flrPf_keeps {K : BitVec 24} {a0 : State} {s : State} (hS : Keeps K a0 s)
    (hK : 0x75A340#24 ||| K = K) : Keeps K a0 (State.flrPf s) := by
  unfold State.flrPf
  repeat' first
    | (with_reducible assumption) | exact Keeps.sub hK (by decide) | (with_reducible apply State.comma_keeps)
    | (with_reducible apply State.controlContext_keeps) | (with_reducible apply State.mbxCancel_keeps)
    | (with_reducible apply State.modFunc_keeps) | (with_reducible apply State.out_keeps)
    | (with_reducible apply State.releaseActivity_keeps) | (with_reducible apply State.sessDrop_keeps)
    | (with_reducible apply State.setCtx_keeps) | (with_reducible apply State.traceDiscard_keeps)
    | (with_reducible apply State.unmapObj_keeps) | (with_reducible refine Keeps.foldl ?_ (fun _ _ _ => ?_)) | split
    | (dsimp only) | (fail_if_no_progress refine Keeps.put ?_)

theorem State.flr_keeps {K : BitVec 24} {a0 : State} {s : State} {f : Fn} (hS : Keeps K a0 s)
    (hK : 0x75A345#24 ||| K = K) : Keeps K a0 (State.flr s f) := by
  unfold State.flr
  repeat' first
    | (with_reducible assumption) | exact Keeps.sub hK (by decide) | (with_reducible apply State.flrKeep_keeps)
    | (with_reducible apply State.flrPf_keeps) | (with_reducible apply State.modFunc_keeps)
    | (with_reducible apply State.msiPf_keeps) | (with_reducible apply State.out_keeps)
    | (with_reducible apply State.retireFn_keeps) | split | (dsimp only)

theorem State.flrLate_keeps {K : BitVec 24} {a0 : State} {s : State} (hS : Keeps K a0 s)
    (hK : 0x75A345#24 ||| K = K) : Keeps K a0 (State.flrLate s) := by
  unfold State.flrLate
  repeat' first
    | (with_reducible assumption) | exact Keeps.sub hK (by decide) | (with_reducible apply State.flr_keeps)
    | (with_reducible refine Keeps.foldl ?_ (fun _ _ _ => ?_)) | split | (dsimp only)
    | (fail_if_no_progress refine Keeps.put ?_)

end Sys2Proof.Machine
end

