-- ==== Sys2Proof/Laws/FrameEngOps.lean ====
section
/-! SUPPORT. The frame of each operation of Sys2Proof/Machine/EngOps.lean. -/

namespace Sys2Proof.Machine

set_option Elab.async false

theorem State.getLine_keeps {K : BitVec 24} {a0 : State} {s : State} {m : Master} {x : Cmd} {idx : Nat} {t : Trans} {i : Nat} {rsps : List McRsp} (hS : Keeps K a0 s)
    (hK : 0x552302#24 ||| K = K) : Keeps K a0 (State.getLine s m x idx t i rsps).1 := by
  unfold State.getLine
  repeat' first
    | (with_reducible assumption) | exact Keeps.sub hK (by decide) | (with_reducible apply State.readNow_keeps)
    | (with_reducible refine Keeps.ofFst (by assumption) ?_; with_reducible apply State.readNow_keeps) | split
    | (dsimp only)

theorem State.putLine_keeps {K : BitVec 24} {a0 : State} {s : State} {m : Master} {x : Cmd} {idx : Nat} {t : Trans} {i : Nat} {mask : BitVec 64} {p : Line} {rsps : List McRsp} (hS : Keeps K a0 s)
    (hK : 0x552340#24 ||| K = K) : Keeps K a0 (State.putLine s m x idx t i mask p rsps).1 := by
  unfold State.putLine
  repeat' first
    | (with_reducible assumption) | exact Keeps.sub hK (by decide) | (with_reducible apply State.fabIssue_keeps)
    | (with_reducible refine Keeps.ofFst (by assumption) ?_; with_reducible apply State.fabIssue_keeps)
    | (with_reducible apply State.memPut_keeps)
    | (with_reducible refine Keeps.ofFst (by assumption) ?_; with_reducible apply State.memPut_keeps)
    | (with_reducible refine Keeps.getD ?_ ?_) | split | (dsimp only)

theorem State.getLines_keeps {K : BitVec 24} {a0 : State} {s : State} {m : Master} {x : Cmd} {idx : Nat} {t : Trans} {z5 : Nat} {z6 : Nat} {z7 : List McRsp} (hS : Keeps K a0 s)
    (hK : 0x552302#24 ||| K = K) : Keeps K a0 (State.getLines s m x idx t z5 z6 z7).1 := by
  induction z5 generalizing s m x idx t z6 z7 with
  | zero =>
    unfold State.getLines
    repeat' first
      | (with_reducible assumption) | exact Keeps.sub hK (by decide) | (with_reducible apply State.getLine_keeps)
      | (with_reducible refine Keeps.ofFst (by assumption) ?_; with_reducible apply State.getLine_keeps) | split
      | (dsimp only)
  | succ m ih =>
    unfold State.getLines
    repeat' first
      | (with_reducible assumption) | exact Keeps.sub hK (by decide) | (with_reducible apply ih)
      | (with_reducible refine Keeps.ofFst (by assumption) ?_; with_reducible apply ih)
      | (with_reducible apply State.getLine_keeps)
      | (with_reducible refine Keeps.ofFst (by assumption) ?_; with_reducible apply State.getLine_keeps) | split
      | (dsimp only) | (cases Nat.succ.inj ‹_ + 1 = Nat.succ _›)

theorem State.getRange_keeps {K : BitVec 24} {a0 : State} {s : State} {m : Master} {x : Cmd} {idx : Nat} {t : Trans} {rsps : List McRsp} (hS : Keeps K a0 s)
    (hK : 0x552302#24 ||| K = K) : Keeps K a0 (State.getRange s m x idx t rsps).1 := by
  unfold State.getRange
  repeat' first
    | (with_reducible assumption) | exact Keeps.sub hK (by decide) | (with_reducible apply State.getLines_keeps)
    | (with_reducible refine Keeps.ofFst (by assumption) ?_; with_reducible apply State.getLines_keeps) | split
    | (dsimp only)

theorem State.putBytes_keeps {K : BitVec 24} {a0 : State} {s : State} {m : Master} {x : Cmd} {idx : Nat} {t : Trans} {z5 : Nat} {z6 : Nat} {z7 : Nat} {z8 : Bytes} {z9 : List McRsp} (hS : Keeps K a0 s)
    (hK : 0x552340#24 ||| K = K) : Keeps K a0 (State.putBytes s m x idx t z5 z6 z7 z8 z9).1 := by
  induction z5 generalizing s m x idx t z6 z7 z8 z9 with
  | zero =>
    unfold State.putBytes
    repeat' first
      | (with_reducible assumption) | exact Keeps.sub hK (by decide) | (with_reducible apply State.putLine_keeps)
      | (with_reducible refine Keeps.ofFst (by assumption) ?_; with_reducible apply State.putLine_keeps) | split
      | (dsimp only)
  | succ m ih =>
    unfold State.putBytes
    repeat' first
      | (with_reducible assumption) | exact Keeps.sub hK (by decide) | (with_reducible apply ih)
      | (with_reducible refine Keeps.ofFst (by assumption) ?_; with_reducible apply ih)
      | (with_reducible apply State.putLine_keeps)
      | (with_reducible refine Keeps.ofFst (by assumption) ?_; with_reducible apply State.putLine_keeps) | split
      | (dsimp only) | (cases Nat.succ.inj ‹_ + 1 = Nat.succ _›)

theorem State.putRange_keeps {K : BitVec 24} {a0 : State} {s : State} {m : Master} {x : Cmd} {idx : Nat} {t : Trans} {bs : Bytes} {rsps : List McRsp} (hS : Keeps K a0 s)
    (hK : 0x552340#24 ||| K = K) : Keeps K a0 (State.putRange s m x idx t bs rsps).1 := by
  unfold State.putRange
  repeat' first
    | (with_reducible assumption) | exact Keeps.sub hK (by decide) | (with_reducible apply State.putBytes_keeps)
    | (with_reducible refine Keeps.ofFst (by assumption) ?_; with_reducible apply State.putBytes_keeps) | split
    | (dsimp only)

theorem State.fabAsk_keeps {K : BitVec 24} {a0 : State} {s : State} {x : Cmd} {z2 : List (Nat × Nat × List LinkId)} (hS : Keeps K a0 s)
    (hK : 0x002200#24 ||| K = K) : Keeps K a0 (State.fabAsk s x z2) := by
  induction z2 generalizing s x with
  | nil =>
    unfold State.fabAsk
    repeat' first
      | (with_reducible assumption) | exact Keeps.sub hK (by decide) | (with_reducible apply State.cmdResult_keeps)
      | (with_reducible apply State.fabIssue_keeps)
      | (with_reducible refine Keeps.ofFst (by assumption) ?_; with_reducible apply State.fabIssue_keeps)
      | (with_reducible refine Keeps.getD ?_ ?_) | split | (dsimp only)
  | cons y ys ih =>
    unfold State.fabAsk
    repeat' first
      | (with_reducible assumption) | exact Keeps.sub hK (by decide) | (with_reducible apply ih)
      | (with_reducible apply State.cmdResult_keeps) | (with_reducible apply State.fabIssue_keeps)
      | (with_reducible refine Keeps.ofFst (by assumption) ?_; with_reducible apply State.fabIssue_keeps)
      | (with_reducible refine Keeps.getD ?_ ?_) | split | (dsimp only)

theorem State.fabFetch_keeps {K : BitVec 24} {a0 : State} {s : State} {x : Cmd} {srcs : List (Nat × Trans)} (hS : Keeps K a0 s)
    (hK : 0x002200#24 ||| K = K) : Keeps.Opt K a0 (State.fabFetch s x srcs) := by
  unfold State.fabFetch
  repeat' first
    | (with_reducible assumption) | exact Keeps.sub hK (by decide) | (with_reducible apply State.fabAsk_keeps)
    | exact Keeps.Opt.none | (with_reducible refine Keeps.Opt.some ?_) | split | (dsimp only)

theorem State.accessEnd_keeps {K : BitVec 24} {a0 : State} {s : State} {u : State} {x : Cmd} {g : Got Unit} (hS : Keeps K a0 s) (hSu : Keeps K a0 u)
    (hK : 0x55A340#24 ||| K = K) : Keeps K a0 (State.accessEnd s u x g) := by
  unfold State.accessEnd
  repeat' first
    | (with_reducible assumption) | exact Keeps.sub hK (by decide) | (with_reducible apply State.alarmComma_keeps)
    | (with_reducible apply State.cmdResult_keeps) | (with_reducible apply State.modCmd_keeps) | split | (dsimp only)

theorem State.progressBy_keeps {K : BitVec 24} {a0 : State} {s : State} {e : Nat} {n : Nat} (hS : Keeps K a0 s)
    (hK : 0x010000#24 ||| K = K) : Keeps K a0 (State.progressBy s e n) := by
  unfold State.progressBy
  repeat' first
    | (with_reducible assumption) | exact Keeps.sub hK (by decide) | (with_reducible apply State.modEng_keeps)
    | split | (dsimp only)

end Sys2Proof.Machine
end

