-- ==== Sys2Proof/Laws/FrameStaging.lean ====
section
/-! SUPPORT. The frame of each operation of Sys2Proof/Machine/Staging.lean. -/

namespace Sys2Proof.Machine

set_option Elab.async false

theorem State.opRekey_keeps {K : BitVec 24} {a0 : State} {s : State} {c : CtxId} {k : Word} (hS : Keeps K a0 s)
    (hK : 0x012040#24 ||| K = K) : Keeps K a0 (State.opRekey s c k) := by
  unfold State.opRekey
  repeat' first
    | (with_reducible assumption) | exact Keeps.sub hK (by decide) | (with_reducible apply State.cmdResult_keeps)
    | (with_reducible apply State.modSess_keeps) | (with_reducible apply State.progress_keeps)
    | (with_reducible apply State.stgRoll_keeps) | split | (dsimp only)

theorem State.chunkNote_keeps {K : BitVec 24} {a0 : State} {s : State} {x : Cmd} {f : Fn} {dir : Nat} {i : Nat} (hS : Keeps K a0 s)
    (hK : 0x052040#24 ||| K = K) : Keeps K a0 (State.chunkNote s x f dir i) := by
  unfold State.chunkNote
  repeat' first
    | (with_reducible assumption) | exact Keeps.sub hK (by decide) | (with_reducible apply State.activity_keeps)
    | (with_reducible apply State.ctxMeter_keeps) | (with_reducible apply State.keyEvent_keeps)
    | (with_reducible apply State.modSess_keeps) | (with_reducible apply State.progress_keeps)
    | (with_reducible apply State.useKey_keeps) | split | (dsimp only)

theorem State.stgDone_keeps {K : BitVec 24} {a0 : State} {s : State} {x : Cmd} {t : Trans} {f : Fn} {dir : Nat} (hS : Keeps K a0 s)
    (hK : 0x202000#24 ||| K = K) : Keeps K a0 (State.stgDone s x t f dir) := by
  unfold State.stgDone
  repeat' first
    | (with_reducible assumption) | exact Keeps.sub hK (by decide) | (with_reducible apply State.modCmd_keeps)
    | split | (dsimp only) | (fail_if_no_progress refine Keeps.put ?_)

theorem State.dmaForget_keeps {K : BitVec 24} {a0 : State} {s : State} {x : Cmd} (hS : Keeps K a0 s)
    (hK : 0x002000#24 ||| K = K) : Keeps K a0 (State.dmaForget s x) := by
  unfold State.dmaForget
  repeat' first
    | (with_reducible assumption) | exact Keeps.sub hK (by decide) | split | (dsimp only)
    | (fail_if_no_progress refine Keeps.put ?_)

theorem State.putPieces_keeps {K : BitVec 24} {a0 : State} {s : State} {x : Cmd} {t : Trans} {z3 : List (Nat × Nat)} {z4 : Bytes} {z5 : Bool} {z6 : List McRsp} (hS : Keeps K a0 s)
    (hK : 0x552340#24 ||| K = K) : Keeps K a0 (State.putPieces s x t z3 z4 z5 z6).1 := by
  induction z3 generalizing s x t z4 z5 z6 with
  | nil =>
    unfold State.putPieces
    repeat' first
      | (with_reducible assumption) | exact Keeps.sub hK (by decide) | (with_reducible apply State.putLine_keeps)
      | (with_reducible refine Keeps.ofFst (by assumption) ?_; with_reducible apply State.putLine_keeps) | split
      | (dsimp only)
  | cons y ys ih =>
    unfold State.putPieces
    repeat' first
      | (with_reducible assumption) | exact Keeps.sub hK (by decide) | (with_reducible apply ih)
      | (with_reducible refine Keeps.ofFst (by assumption) ?_; with_reducible apply ih)
      | (with_reducible apply State.putLine_keeps)
      | (with_reducible refine Keeps.ofFst (by assumption) ?_; with_reducible apply State.putLine_keeps) | split
      | (dsimp only)

theorem State.inChunks_keeps {K : BitVec 24} {a0 : State} {s : State} {x : Cmd} {t : Trans} {f : Fn} {z4 : Nat} {z5 : Nat} {z6 : List DmaData} {z7 : List McRsp} (hS : Keeps K a0 s)
    (hK : 0x75A340#24 ||| K = K) : Keeps.Opt K a0 (State.inChunks s x t f z4 z5 z6 z7) := by
  induction z4 generalizing s x t f z5 z6 z7 with
  | zero =>
    unfold State.inChunks
    repeat' first
      | (with_reducible assumption) | exact Keeps.sub hK (by decide) | (with_reducible apply State.alarmComma_keeps)
      | (with_reducible apply State.chunkNote_keeps) | (with_reducible apply State.cmdResult_keeps)
      | (with_reducible apply State.dmaAsk_keeps) | (with_reducible apply State.dmaForget_keeps)
      | (with_reducible apply State.putPieces_keeps)
      | (with_reducible refine Keeps.ofFst (by assumption) ?_; with_reducible apply State.putPieces_keeps)
      | (with_reducible apply State.stgDone_keeps) | (with_reducible apply State.stgTaint_keeps)
      | exact Keeps.Opt.none | (with_reducible refine Keeps.Opt.some ?_) | split | (dsimp only)
  | succ m ih =>
    unfold State.inChunks
    repeat' first
      | (with_reducible assumption) | exact Keeps.sub hK (by decide) | (with_reducible apply ih)
      | (with_reducible refine Keeps.ofOpt (by assumption) ?_; with_reducible apply ih)
      | (with_reducible apply State.alarmComma_keeps) | (with_reducible apply State.chunkNote_keeps)
      | (with_reducible apply State.cmdResult_keeps) | (with_reducible apply State.dmaAsk_keeps)
      | (with_reducible apply State.dmaForget_keeps) | (with_reducible apply State.putPieces_keeps)
      | (with_reducible refine Keeps.ofFst (by assumption) ?_; with_reducible apply State.putPieces_keeps)
      | (with_reducible apply State.stgDone_keeps) | (with_reducible apply State.stgTaint_keeps)
      | exact Keeps.Opt.none | (with_reducible refine Keeps.Opt.some ?_) | split | (dsimp only)
      | (cases Nat.succ.inj ‹_ + 1 = Nat.succ _›)

theorem State.getPieces_keeps {K : BitVec 24} {a0 : State} {s : State} {x : Cmd} {t : Trans} {z3 : List (Nat × Nat)} {z4 : List McRsp} (hS : Keeps K a0 s)
    (hK : 0x552302#24 ||| K = K) : Keeps K a0 (State.getPieces s x t z3 z4).1 := by
  induction z3 generalizing s x t z4 with
  | nil =>
    unfold State.getPieces
    repeat' first
      | (with_reducible assumption) | exact Keeps.sub hK (by decide) | (with_reducible apply State.getLine_keeps)
      | (with_reducible refine Keeps.ofFst (by assumption) ?_; with_reducible apply State.getLine_keeps) | split
      | (dsimp only)
  | cons y ys ih =>
    unfold State.getPieces
    repeat' first
      | (with_reducible assumption) | exact Keeps.sub hK (by decide) | (with_reducible apply ih)
      | (with_reducible refine Keeps.ofFst (by assumption) ?_; with_reducible apply ih)
      | (with_reducible apply State.getLine_keeps)
      | (with_reducible refine Keeps.ofFst (by assumption) ?_; with_reducible apply State.getLine_keeps) | split
      | (dsimp only)

theorem State.outChunks_keeps {K : BitVec 24} {a0 : State} {s : State} {x : Cmd} {t : Trans} {f : Fn} {z4 : Nat} {z5 : Nat} {z6 : List McRsp} (hS : Keeps K a0 s)
    (hK : 0x75A342#24 ||| K = K) : Keeps.Opt K a0 (State.outChunks s x t f z4 z5 z6) := by
  induction z4 generalizing s x t f z5 z6 with
  | zero =>
    unfold State.outChunks
    repeat' first
      | (with_reducible assumption) | exact Keeps.sub hK (by decide) | (with_reducible apply State.alarmComma_keeps)
      | (with_reducible apply State.chunkNote_keeps) | (with_reducible apply State.cmdResult_keeps)
      | (with_reducible apply State.getPieces_keeps)
      | (with_reducible refine Keeps.ofFst (by assumption) ?_; with_reducible apply State.getPieces_keeps)
      | (with_reducible apply State.hostWrite_keeps) | (with_reducible apply State.stgDone_keeps)
      | exact Keeps.Opt.none | (with_reducible refine Keeps.Opt.some ?_) | split | (dsimp only)
  | succ m ih =>
    unfold State.outChunks
    repeat' first
      | (with_reducible assumption) | exact Keeps.sub hK (by decide) | (with_reducible apply ih)
      | (with_reducible refine Keeps.ofOpt (by assumption) ?_; with_reducible apply ih)
      | (with_reducible apply State.alarmComma_keeps) | (with_reducible apply State.chunkNote_keeps)
      | (with_reducible apply State.cmdResult_keeps) | (with_reducible apply State.getPieces_keeps)
      | (with_reducible refine Keeps.ofFst (by assumption) ?_; with_reducible apply State.getPieces_keeps)
      | (with_reducible apply State.hostWrite_keeps) | (with_reducible apply State.stgDone_keeps)
      | exact Keeps.Opt.none | (with_reducible refine Keeps.Opt.some ?_) | split | (dsimp only)
      | (cases Nat.succ.inj ‹_ + 1 = Nat.succ _›)

theorem State.stgRow_keeps {K : BitVec 24} {a0 : State} {s : State} {c : CtxId} {k : Word} {op : BitVec 16} {f : State → Cmd → Trans → State.RowEnd} (hS : Keeps K a0 s) (hFf : ∀ y0 y1 y2, Keeps K a0 y0 → Keeps.Opt K a0 (f y0 y1 y2))
    (hK : 0x002000#24 ||| K = K) : Keeps K a0 (State.stgRow s c k op f) := by
  unfold State.stgRow
  repeat' first
    | (with_reducible assumption) | exact Keeps.sub hK (by decide) | (with_reducible apply hFf)
    | (with_reducible apply State.cmdResult_keeps) | exact Keeps.Opt.none | (with_reducible refine Keeps.Opt.some ?_)
    | (with_reducible refine Keeps.getD ?_ ?_) | split | (dsimp only)

theorem State.opIn_keeps {K : BitVec 24} {a0 : State} {s : State} {c : CtxId} {k : Word} {host : List DmaData} {rsps : List McRsp} (hS : Keeps K a0 s)
    (hK : 0x75A342#24 ||| K = K) : Keeps K a0 (State.opIn s c k host rsps) := by
  unfold State.opIn
  repeat' first
    | (with_reducible assumption) | exact Keeps.sub hK (by decide) | (with_reducible apply State.inChunks_keeps)
    | (with_reducible refine Keeps.ofOpt (by assumption) ?_; with_reducible apply State.inChunks_keeps)
    | (with_reducible apply State.portViolation_keeps) | (with_reducible apply State.stgAsk_keeps)
    | (with_reducible apply State.stgRow_keeps) | exact Keeps.Opt.none | (with_reducible refine Keeps.Opt.some ?_)
    | split | (dsimp only) | intro _

theorem State.opOut_keeps {K : BitVec 24} {a0 : State} {s : State} {c : CtxId} {k : Word} {rsps : List McRsp} (hS : Keeps K a0 s)
    (hK : 0x75A342#24 ||| K = K) : Keeps K a0 (State.opOut s c k rsps) := by
  unfold State.opOut
  repeat' first
    | (with_reducible assumption) | exact Keeps.sub hK (by decide) | (with_reducible apply State.outChunks_keeps)
    | (with_reducible refine Keeps.ofOpt (by assumption) ?_; with_reducible apply State.outChunks_keeps)
    | (with_reducible apply State.stgRow_keeps) | exact Keeps.Opt.none | (with_reducible refine Keeps.Opt.some ?_)
    | split | (dsimp only) | intro _

theorem State.hostFail_keeps {K : BitVec 24} {a0 : State} {s : State} {x : Cmd} (hS : Keeps K a0 s)
    (hK : 0x552340#24 ||| K = K) : Keeps K a0 (State.hostFail s x) := by
  unfold State.hostFail
  repeat' first
    | (with_reducible assumption) | exact Keeps.sub hK (by decide) | (with_reducible apply State.memDropTag_keeps)
    | (with_reducible apply State.modCmd_keeps) | split | (dsimp only)

theorem State.opDmaRead_keeps {K : BitVec 24} {a0 : State} {s : State} {id : BitVec 8} {status : BitVec 2} {bytes : BitVec 13} {last : Bool} (hS : Keeps K a0 s)
    (hK : 0x552342#24 ||| K = K) : Keeps K a0 (State.opDmaRead s id status bytes last) := by
  unfold State.opDmaRead
  repeat' first
    | (with_reducible assumption) | exact Keeps.sub hK (by decide) | (with_reducible apply State.hostFail_keeps)
    | (with_reducible apply State.portViolation_keeps) | split | (dsimp only)
    | (fail_if_no_progress refine Keeps.put ?_)

theorem State.hostErr_keeps {K : BitVec 24} {a0 : State} {s : State} {f : Fn} (hS : Keeps K a0 s)
    (hK : 0x552340#24 ||| K = K) : Keeps K a0 (State.hostErr s f) := by
  unfold State.hostErr
  repeat' first
    | (with_reducible assumption) | exact Keeps.sub hK (by decide) | (with_reducible apply State.hostFail_keeps)
    | (with_reducible refine Keeps.foldl ?_ (fun _ _ _ => ?_)) | split | (dsimp only)

theorem State.opHostErr_keeps {K : BitVec 24} {a0 : State} {s : State} {f : Fn} (hS : Keeps K a0 s)
    (hK : 0x552340#24 ||| K = K) : Keeps K a0 (State.opHostErr s f) := by
  unfold State.opHostErr
  repeat' first
    | (with_reducible assumption) | exact Keeps.sub hK (by decide) | (with_reducible apply State.hostErr_keeps)
    | split | (dsimp only) | (fail_if_no_progress refine Keeps.put ?_)

end Sys2Proof.Machine
end

