-- ==== Sys2Proof/Laws/FrameStartup.lean ====
section
/-! SUPPORT. The frame of each operation of Sys2Proof/Machine/Startup.lean. -/

namespace Sys2Proof.Machine

set_option Elab.async false

theorem State.otpSetBits_keeps {K : BitVec 24} {a0 : State} {s : State} {r : ℕ} {x : BitVec 64} (hS : Keeps K a0 s)
    (hK : 0x000020#24 ||| K = K) : Keeps K a0 (State.otpSetBits s r x) := by
  unfold State.otpSetBits
  refine Keeps.put hS (ho := fun q b h => ?_)
  by_cases e : q = r
  · subst e
    rw [Tab.get_set_same, BitVec.getLsbD_or, State.otpRow, h, Bool.true_or]
  · rw [Tab.get_set_ne _ _ _ e]
    exact h


theorem State.startFail_keeps {K : BitVec 24} {a0 : State} {s : State} {n : BitVec 4} {code : BitVec 8} (hS : Keeps K a0 s)
    (hK : 0x53000D#24 ||| K = K) : Keeps K a0 (State.startFail s n code) := by
  unfold State.startFail
  repeat' first
    | (with_reducible assumption) | exact Keeps.sub hK (by decide) | (with_reducible apply State.setGrade_keeps)
    | split | (dsimp only) | (fail_if_no_progress refine Keeps.put ?_)

theorem State.stFail_keeps {K : BitVec 24} {a0 : State} {s : State} {n : BitVec 4} {code : BitVec 8} (hS : Keeps K a0 s)
    (hK : 0x53000D#24 ||| K = K) : Keeps K a0 (State.stFail s n code).1 := by
  unfold State.stFail
  repeat' first
    | (with_reducible assumption) | exact Keeps.sub hK (by decide) | (with_reducible apply State.startFail_keeps)
    | split | (dsimp only)

theorem State.stepCore_keeps {K : BitVec 24} {a0 : State} {s : State} {env : StartEnv} (hS : Keeps K a0 s)
    (hK : 0x53000D#24 ||| K = K) : Keeps K a0 (State.stepCore s env).1 := by
  unfold State.stepCore
  repeat' first
    | (with_reducible assumption) | exact Keeps.sub hK (by decide) | (with_reducible apply State.stFail_keeps)
    | (with_reducible refine Keeps.ofFst (by assumption) ?_; with_reducible apply State.stFail_keeps) | split
    | (dsimp only) | (fail_if_no_progress refine Keeps.put ?_)

theorem State.stepIsland_keeps {K : BitVec 24} {a0 : State} {s : State} (hS : Keeps K a0 s)
    (hK : 0x4E0008#24 ||| K = K) : Keeps K a0 (State.stepIsland s) := by
  unfold State.stepIsland
  repeat' first
    | (with_reducible assumption) | exact Keeps.sub hK (by decide) | (with_reducible apply State.trayPost_keeps)
    | split | (dsimp only) | (fail_if_no_progress refine Keeps.put ?_)

theorem State.stepOtp_keeps {K : BitVec 24} {a0 : State} {s : State} {env : StartEnv} (hS : Keeps K a0 s)
    (hK : 0x5F007D#24 ||| K = K) : Keeps K a0 (State.stepOtp s env).1 := by
  unfold State.stepOtp
  repeat' first
    | (with_reducible assumption) | exact Keeps.sub hK (by decide) | (with_reducible apply State.otpSetBits_keeps)
    | (with_reducible apply State.stFail_keeps)
    | (with_reducible refine Keeps.ofFst (by assumption) ?_; with_reducible apply State.stFail_keeps)
    | (with_reducible apply State.stepIsland_keeps) | (with_reducible apply State.writeKey_keeps) | split
    | (dsimp only) | (fail_if_no_progress refine Keeps.put ?_)

theorem State.mapSpareRow_keeps {K : BitVec 24} {a0 : State} {s : State} {r : RowId} (hS : Keeps K a0 s)
    (hK : 0x000040#24 ||| K = K) : Keeps K a0 (State.mapSpareRow s r) := by
  unfold State.mapSpareRow
  repeat' first
    | (with_reducible assumption) | exact Keeps.sub hK (by decide) | (with_reducible apply State.keyEvent_keeps)
    | (with_reducible apply State.setRow_keeps) | split | (dsimp only) | (fail_if_no_progress refine Keeps.put ?_)

theorem State.stepBist_keeps {K : BitVec 24} {a0 : State} {s : State} {env : StartEnv} (hS : Keeps K a0 s)
    (hK : 0x53004D#24 ||| K = K) : Keeps K a0 (State.stepBist s env).1 := by
  unfold State.stepBist
  repeat' first
    | (with_reducible assumption) | exact Keeps.sub hK (by decide) | (with_reducible apply State.mapSpareRow_keeps)
    | (with_reducible apply State.stFail_keeps)
    | (with_reducible refine Keeps.ofFst (by assumption) ?_; with_reducible apply State.stFail_keeps)
    | (with_reducible refine Keeps.foldl ?_ (fun _ _ _ => ?_)) | split | (dsimp only)
    | (fail_if_no_progress refine Keeps.put ?_)

theorem State.stepLanes_keeps {K : BitVec 24} {a0 : State} {s : State} {env : StartEnv} (hS : Keeps K a0 s)
    (hK : 0x400080#24 ||| K = K) : Keeps K a0 (State.stepLanes s env) := by
  unfold State.stepLanes
  repeat' first
    | (with_reducible assumption) | exact Keeps.sub hK (by decide) | (with_reducible apply State.record_keeps)
    | (with_reducible apply State.setCluster_keeps) | (with_reducible refine Keeps.foldl ?_ (fun _ _ _ => ?_))
    | split | (dsimp only)

theorem State.writePair_keeps {K : BitVec 24} {a0 : State} {s : State} {r : Nat} {bs : Bytes} {p : KeyParent} (hS : Keeps K a0 s)
    (hK : 0x000040#24 ||| K = K) : Keeps K a0 (State.writePair s r bs p) := by
  unfold State.writePair
  repeat' first
    | (with_reducible assumption) | exact Keeps.sub hK (by decide) | (with_reducible apply State.writeKey_keeps)
    | split | (dsimp only)

theorem State.stepCdi0_keeps {K : BitVec 24} {a0 : State} {s : State} (hS : Keeps K a0 s)
    (hK : 0x600040#24 ||| K = K) : Keeps K a0 (State.stepCdi0 s) := by
  unfold State.stepCdi0
  repeat' first
    | (with_reducible assumption) | exact Keeps.sub hK (by decide) | (with_reducible apply State.drawClear_keeps)
    | (with_reducible refine Keeps.ofSnd (by assumption) ?_; with_reducible apply State.drawClear_keeps)
    | (with_reducible apply State.writeKey_keeps) | (with_reducible apply State.writeMemKey_keeps)
    | (with_reducible apply State.writePair_keeps) | split | (dsimp only)

theorem State.stepExercise_keeps {K : BitVec 24} {a0 : State} {s : State} {r : Region} {x : RegionExercise} (hS : Keeps K a0 s)
    (hK : 0x000004#24 ||| K = K) : Keeps K a0 (State.stepExercise s r x) := by
  unfold State.stepExercise
  repeat' first
    | (with_reducible assumption) | exact Keeps.sub hK (by decide) | (with_reducible apply State.setCal_keeps)
    | split | (dsimp only)

theorem State.flashRead_keeps {K : BitVec 24} {a0 : State} {s : State} {dummy : Nat} {off : Nat} {len : Nat} (hS : Keeps K a0 s)
    (hK : 0x400000#24 ||| K = K) : Keeps K a0 (State.flashRead s dummy off len) := by
  unfold State.flashRead
  repeat' first
    | (with_reducible assumption) | exact Keeps.sub hK (by decide) | (with_reducible apply State.out_keeps) | split
    | (dsimp only)

theorem State.flashHeaders_keeps {K : BitVec 24} {a0 : State} {s : State} (hS : Keeps K a0 s)
    (hK : 0x400000#24 ||| K = K) : Keeps K a0 (State.flashHeaders s) := by
  unfold State.flashHeaders
  repeat' first
    | (with_reducible assumption) | exact Keeps.sub hK (by decide) | (with_reducible apply State.flashRead_keeps)
    | split | (dsimp only)

theorem State.copyImage_keeps {K : BitVec 24} {a0 : State} {s : State} {n : BitVec 2} {x : FlashSlot} (hS : Keeps K a0 s)
    (hK : 0x400008#24 ||| K = K) : Keeps K a0 (State.copyImage s n x) := by
  unfold State.copyImage
  repeat' first
    | (with_reducible assumption) | exact Keeps.sub hK (by decide) | (with_reducible apply State.flashRead_keeps)
    | split | (dsimp only) | (fail_if_no_progress refine Keeps.put ?_)

theorem State.chooseImage_keeps {K : BitVec 24} {a0 : State} {s : State} {env : StartEnv} (hS : Keeps K a0 s)
    (hK : 0x400008#24 ||| K = K) : Keeps K a0 (State.chooseImage s env).1 := by
  unfold State.chooseImage
  repeat' first
    | (with_reducible assumption) | exact Keeps.sub hK (by decide) | (with_reducible apply State.copyImage_keeps)
    | split | (dsimp only) | (fail_if_no_progress refine Keeps.put ?_)

theorem State.calibrate_keeps {K : BitVec 24} {a0 : State} {s : State} {r : Region} {x : RegionExercise} {e : Option Bytes} (hS : Keeps K a0 s)
    (hK : 0x000004#24 ||| K = K) : Keeps K a0 (State.calibrate s r x e) := by
  unfold State.calibrate
  repeat' first
    | (with_reducible assumption) | exact Keeps.sub hK (by decide) | (with_reducible apply State.setCal_keeps)
    | split | (dsimp only)

theorem State.gradeAtStart_keeps {K : BitVec 24} {a0 : State} {s : State} (hS : Keeps K a0 s)
    (hK : 0x530008#24 ||| K = K) : Keeps K a0 (State.gradeAtStart s) := by
  unfold State.gradeAtStart
  repeat' first
    | (with_reducible assumption) | exact Keeps.sub hK (by decide) | (with_reducible apply State.setGrade_keeps)
    | split | (dsimp only) | (fail_if_no_progress refine Keeps.put ?_)

theorem State.stepRollback_keeps {K : BitVec 24} {a0 : State} {s : State} {env : StartEnv} {img : Bytes} (hS : Keeps K a0 s)
    (hK : 0x53002F#24 ||| K = K) : Keeps K a0 (State.stepRollback s env img).1 := by
  unfold State.stepRollback
  repeat' first
    | (with_reducible assumption) | exact Keeps.sub hK (by decide) | (with_reducible apply State.calibrate_keeps)
    | (with_reducible apply State.gradeAtStart_keeps) | (with_reducible apply State.otpSetBits_keeps)
    | (with_reducible apply State.stFail_keeps)
    | (with_reducible refine Keeps.ofFst (by assumption) ?_; with_reducible apply State.stFail_keeps) | split
    | (dsimp only) | (fail_if_no_progress refine Keeps.put ?_)

theorem State.deriveAlias_keeps {K : BitVec 24} {a0 : State} {s : State} {r : RowId} (hS : Keeps K a0 s)
    (hK : 0x000040#24 ||| K = K) : Keeps K a0 (State.deriveAlias s r) := by
  unfold State.deriveAlias
  repeat' first
    | (with_reducible assumption) | exact Keeps.sub hK (by decide) | (with_reducible apply State.writeKey_keeps)
    | (with_reducible apply State.writePair_keeps) | split | (dsimp only)

theorem State.stepMeasure_keeps {K : BitVec 24} {a0 : State} {s : State} {img : Bytes} (hS : Keeps K a0 s)
    (hK : 0x200048#24 ||| K = K) : Keeps K a0 (State.stepMeasure s img) := by
  unfold State.stepMeasure
  repeat' first
    | (with_reducible assumption) | exact Keeps.sub hK (by decide) | (with_reducible apply State.deriveAlias_keeps)
    | (with_reducible apply State.draw_keeps)
    | (with_reducible refine Keeps.ofSnd (by assumption) ?_; with_reducible apply State.draw_keeps)
    | (with_reducible apply State.keyInvalidateRow_keeps) | (with_reducible apply State.writeKey_keeps) | split
    | (dsimp only) | (fail_if_no_progress refine Keeps.put ?_)

theorem State.islandWord_keeps {K : BitVec 24} {a0 : State} {s : State} {i : BitVec 2} {w : Nat} (hS : Keeps K a0 s)
    (hK : 0x080000#24 ||| K = K) : Keeps K a0 (State.islandWord s i w) := by
  unfold State.islandWord
  repeat' first
    | (with_reducible assumption) | exact Keeps.sub hK (by decide) | (with_reducible apply State.setTamper_keeps)
    | split | (dsimp only)

theorem State.vdWords_keeps {K : BitVec 24} {a0 : State} {s : State} {z1 : List Bytes} (hS : Keeps K a0 s)
    (hK : 0x75FF40#24 ||| K = K) : Keeps K a0 (State.vdWords s z1).1 := by
  induction z1 generalizing s with
  | nil =>
    unfold State.vdWords
    repeat' first
      | (with_reducible assumption) | exact Keeps.sub hK (by decide) | (with_reducible apply State.vdRequest_keeps)
      | (with_reducible refine Keeps.ofFst (by assumption) ?_; with_reducible apply State.vdRequest_keeps) | split
      | (dsimp only)
  | cons y ys ih =>
    unfold State.vdWords
    repeat' first
      | (with_reducible assumption) | exact Keeps.sub hK (by decide) | (with_reducible apply ih)
      | (with_reducible refine Keeps.ofFst (by assumption) ?_; with_reducible apply ih)
      | (with_reducible apply State.vdRequest_keeps)
      | (with_reducible refine Keeps.ofFst (by assumption) ?_; with_reducible apply State.vdRequest_keeps) | split
      | (dsimp only)

theorem State.cfgRecord_keeps {K : BitVec 24} {a0 : State} {s : State} {type : Nat} {body : Bytes} (hS : Keeps K a0 s)
    (hK : 0x7DFF40#24 ||| K = K) : Keeps K a0 (State.cfgRecord s type body).1 := by
  unfold State.cfgRecord
  repeat' first
    | (with_reducible assumption) | exact Keeps.sub hK (by decide) | (with_reducible apply State.islandWord_keeps)
    | (with_reducible apply State.vdWords_keeps)
    | (with_reducible refine Keeps.ofFst (by assumption) ?_; with_reducible apply State.vdWords_keeps)
    | (with_reducible refine Keeps.foldl ?_ (fun _ _ _ => ?_)) | split | (dsimp only)

theorem State.cfgApply_keeps {K : BitVec 24} {a0 : State} {s : State} {z1 : List (Nat × Bytes)} (hS : Keeps K a0 s)
    (hK : 0x7DFF40#24 ||| K = K) : Keeps K a0 (State.cfgApply s z1).1 := by
  induction z1 generalizing s with
  | nil =>
    unfold State.cfgApply
    repeat' first
      | (with_reducible assumption) | exact Keeps.sub hK (by decide) | (with_reducible apply State.cfgRecord_keeps)
      | (with_reducible refine Keeps.ofFst (by assumption) ?_; with_reducible apply State.cfgRecord_keeps) | split
      | (dsimp only)
  | cons y ys ih =>
    unfold State.cfgApply
    repeat' first
      | (with_reducible assumption) | exact Keeps.sub hK (by decide) | (with_reducible apply ih)
      | (with_reducible refine Keeps.ofFst (by assumption) ?_; with_reducible apply ih)
      | (with_reducible apply State.cfgRecord_keeps)
      | (with_reducible refine Keeps.ofFst (by assumption) ?_; with_reducible apply State.cfgRecord_keeps) | split
      | (dsimp only)

theorem State.sealedState_keeps {K : BitVec 24} {a0 : State} {s : State} {env : StartEnv} (hS : Keeps K a0 s)
    (hK : 0x480000#24 ||| K = K) : Keeps K a0 (State.sealedState s env) := by
  unfold State.sealedState
  repeat' first
    | (with_reducible assumption) | exact Keeps.sub hK (by decide) | (with_reducible apply State.out_keeps) | split
    | (dsimp only) | (fail_if_no_progress refine Keeps.put ?_)

theorem State.stepRun_keeps {K : BitVec 24} {a0 : State} {s : State} {env : StartEnv} (hS : Keeps K a0 s)
    (hK : 0x7FBF4D#24 ||| K = K) : Keeps K a0 (State.stepRun s env) := by
  unfold State.stepRun
  repeat' first
    | (with_reducible assumption) | exact Keeps.sub hK (by decide) | (with_reducible apply State.ackEarly_keeps)
    | (with_reducible apply State.controlContext_keeps) | (with_reducible apply State.meterDeliverAll_keeps)
    | (with_reducible apply State.modChan_keeps) | (with_reducible apply State.modFunc_keeps)
    | (with_reducible apply State.sealedState_keeps) | (with_reducible apply State.setEnable_keeps)
    | (with_reducible apply State.takeLimit_keeps) | (with_reducible refine Keeps.foldl ?_ (fun _ _ _ => ?_)) | split
    | (dsimp only) | (fail_if_no_progress refine Keeps.put ?_)

theorem State.stepConfig_keeps {K : BitVec 24} {a0 : State} {s : State} {env : StartEnv} {img : Bytes} (hS : Keeps K a0 s)
    (hK : 0x7FFF4D#24 ||| K = K) : Keeps K a0 (State.stepConfig s env img) := by
  unfold State.stepConfig
  repeat' first
    | (with_reducible assumption) | exact Keeps.sub hK (by decide) | (with_reducible apply State.cfgApply_keeps)
    | (with_reducible refine Keeps.ofFst (by assumption) ?_; with_reducible apply State.cfgApply_keeps)
    | (with_reducible apply State.startFail_keeps) | (with_reducible apply State.stepRun_keeps) | split
    | (dsimp only) | (fail_if_no_progress refine Keeps.put ?_)

theorem State.startImage_keeps {K : BitVec 24} {a0 : State} {s : State} {env : StartEnv} (hS : Keeps K a0 s)
    (hK : 0x7FFF6F#24 ||| K = K) : Keeps K a0 (State.startImage s env) := by
  unfold State.startImage
  repeat' first
    | (with_reducible assumption) | exact Keeps.sub hK (by decide) | (with_reducible apply State.chooseImage_keeps)
    | (with_reducible refine Keeps.ofFst (by assumption) ?_; with_reducible apply State.chooseImage_keeps)
    | (with_reducible apply State.flashHeaders_keeps) | (with_reducible apply State.out_keeps)
    | (with_reducible apply State.startFail_keeps) | (with_reducible apply State.stepConfig_keeps)
    | (with_reducible apply State.stepMeasure_keeps) | (with_reducible apply State.stepRollback_keeps)
    | (with_reducible refine Keeps.ofFst (by assumption) ?_; with_reducible apply State.stepRollback_keeps) | split
    | (dsimp only) | (fail_if_no_progress refine Keeps.put ?_)

theorem State.beginTime_keeps {K : BitVec 24} {a0 : State} {s : State} (hS : Keeps K a0 s)
    (hK : 0x000001#24 ||| K = K) : Keeps K a0 (State.beginTime s) := by
  unfold State.beginTime
  repeat' first
    | (with_reducible assumption) | exact Keeps.sub hK (by decide) | split | (dsimp only)
    | (fail_if_no_progress refine Keeps.put ?_)

theorem State.startUp_keeps {K : BitVec 24} {a0 : State} {s : State} {env : StartEnv} (hS : Keeps K a0 s)
    (hK : 0x7FFFFF#24 ||| K = K) : Keeps K a0 (State.startUp s env) := by
  unfold State.startUp
  repeat' first
    | (with_reducible assumption) | exact Keeps.sub hK (by decide) | (with_reducible apply State.beginTime_keeps)
    | (with_reducible apply State.record_keeps) | (with_reducible apply State.startFail_keeps)
    | (with_reducible apply State.startImage_keeps) | (with_reducible apply State.stepBist_keeps)
    | (with_reducible refine Keeps.ofFst (by assumption) ?_; with_reducible apply State.stepBist_keeps)
    | (with_reducible apply State.stepCdi0_keeps) | (with_reducible apply State.stepCore_keeps)
    | (with_reducible refine Keeps.ofFst (by assumption) ?_; with_reducible apply State.stepCore_keeps)
    | (with_reducible apply State.stepExercise_keeps) | (with_reducible apply State.stepLanes_keeps)
    | (with_reducible apply State.stepOtp_keeps)
    | (with_reducible refine Keeps.ofFst (by assumption) ?_; with_reducible apply State.stepOtp_keeps) | split
    | (dsimp only) | (fail_if_no_progress refine Keeps.put ?_)

theorem State.porState_keeps {K : BitVec 24} {a0 : State} {s : State} {phase : Phase} {straps : Straps} {refclk : Bool} (hS : Keeps K a0 s)
    (hK : 0x1FFFDF#24 ||| K = K) : Keeps K a0 (State.porState s phase straps refclk) := by
  unfold State.porState
  exact Keeps.put hS (hr := fun _ => by simp only [Pwr.ratesOk]; decide)


theorem State.opPorBFall_keeps {K : BitVec 24} {a0 : State} {s : State} (hS : Keeps K a0 s)
    (hK : 0x1FFFDF#24 ||| K = K) : Keeps K a0 (State.opPorBFall s) := by
  unfold State.opPorBFall
  repeat' first
    | (with_reducible assumption) | exact Keeps.sub hK (by decide) | (with_reducible apply State.porState_keeps)
    | split | (dsimp only)

theorem State.opPorBRise_keeps {K : BitVec 24} {a0 : State} {s : State} {straps : Straps} {refclkOk : Bool} (hS : Keeps K a0 s)
    (hK : 0x1FFFDF#24 ||| K = K) : Keeps K a0 (State.opPorBRise s straps refclkOk) := by
  unfold State.opPorBRise
  repeat' first
    | (with_reducible assumption) | exact Keeps.sub hK (by decide) | (with_reducible apply State.porState_keeps)
    | split | (dsimp only) | (fail_if_no_progress refine Keeps.put ?_)

theorem State.opSysRst_keeps {K : BitVec 24} {a0 : State} {s : State} {role : BitVec 1} (hS : Keeps K a0 s)
    (hK : 0x7FFFDF#24 ||| K = K) : Keeps K a0 (State.opSysRst s role) := by
  unfold State.opSysRst
  repeat' first
    | (with_reducible assumption) | exact Keeps.sub hK (by decide) | (with_reducible apply State.fullStop_keeps)
    | split | (dsimp only)

theorem State.opRefclkLost_keeps {K : BitVec 24} {a0 : State} {s : State} {role : BitVec 1} (hS : Keeps K a0 s)
    (hK : 0x7FFFDF#24 ||| K = K) : Keeps K a0 (State.opRefclkLost s role) := by
  unfold State.opRefclkLost
  repeat' first
    | (with_reducible assumption) | exact Keeps.sub hK (by decide) | (with_reducible apply State.fullStop_keeps)
    | split | (dsimp only) | (fail_if_no_progress refine Keeps.put ?_)

theorem State.opRefclkReturn_keeps {K : BitVec 24} {a0 : State} {s : State} {env : StartEnv} (hS : Keeps K a0 s)
    (hK : 0x7FFFFF#24 ||| K = K) : Keeps K a0 (State.opRefclkReturn s env) := by
  unfold State.opRefclkReturn
  repeat' first
    | (with_reducible assumption) | exact Keeps.sub hK (by decide) | (with_reducible apply State.startUp_keeps)
    | split | (dsimp only) | (fail_if_no_progress refine Keeps.put ?_)

theorem State.opSettleEnd_keeps {K : BitVec 24} {a0 : State} {s : State} {env : StartEnv} (hS : Keeps K a0 s)
    (hK : 0x7FFFFF#24 ||| K = K) : Keeps K a0 (State.opSettleEnd s env) := by
  unfold State.opSettleEnd
  repeat' first
    | (with_reducible assumption) | exact Keeps.sub hK (by decide) | (with_reducible apply State.startUp_keeps)
    | split | (dsimp only)

theorem State.opFullStopDone_keeps {K : BitVec 24} {a0 : State} {s : State} {env : StartEnv} (hS : Keeps K a0 s)
    (hK : 0x7FFFFF#24 ||| K = K) : Keeps K a0 (State.opFullStopDone s env) := by
  unfold State.opFullStopDone
  repeat' first
    | (with_reducible assumption) | exact Keeps.sub hK (by decide) | (with_reducible apply State.startUp_keeps)
    | split | (dsimp only) | (fail_if_no_progress refine Keeps.put ?_)

end Sys2Proof.Machine
end

