-- ==== Sys2Proof/Laws/FrameKeys.lean ====
section
/-! SUPPORT. The frame of each operation of Sys2Proof/Machine/Keys.lean. -/

namespace Sys2Proof.Machine

set_option Elab.async false

theorem State.rowLose_keeps {K : BitVec 24} {a0 : State} {s : State} {r : Nat} (hS : Keeps K a0 s)
    (hK : 0x400040#24 ||| K = K) : Keeps K a0 (State.rowLose s r) := by
  unfold State.rowLose
  repeat' first
    | (with_reducible assumption) | exact Keeps.sub hK (by decide) | (with_reducible apply State.keyEvent_keeps)
    | (with_reducible apply State.keyInvalidateRow_keeps) | (with_reducible apply State.mapSpareRow_keeps)
    | (with_reducible apply State.record_keeps) | split | (dsimp only)

theorem State.rowOwnerLoses_keeps {K : BitVec 24} {a0 : State} {s : State} {r : Nat} (hS : Keeps K a0 s)
    (hK : 0x75BF40#24 ||| K = K) : Keeps K a0 (State.rowOwnerLoses s r) := by
  unfold State.rowOwnerLoses
  repeat' first
    | (with_reducible assumption) | exact Keeps.sub hK (by decide) | (with_reducible apply State.endAgreement_keeps)
    | split | (dsimp only)

theorem State.rowFault_keeps {K : BitVec 24} {a0 : State} {s : State} {r : Nat} (hS : Keeps K a0 s)
    (hK : 0x7FFFDF#24 ||| K = K) : Keeps K a0 (State.rowFault s r) := by
  unfold State.rowFault
  repeat' first
    | (with_reducible assumption) | exact Keeps.sub hK (by decide) | (with_reducible apply State.blackStop_keeps)
    | (with_reducible apply State.gradeUpdate_keeps) | (with_reducible apply State.orphanFollow_keeps)
    | (with_reducible apply State.rowLose_keeps) | (with_reducible apply State.rowOwnerLoses_keeps) | split
    | (dsimp only)

theorem State.setTenseTx_keeps {K : BitVec 24} {a0 : State} {s : State} {l : LinkId} {c : Cls} {x : TenseTx} (hS : Keeps K a0 s)
    (hK : 0x000200#24 ||| K = K) : Keeps K a0 (State.setTenseTx s l c x) := by
  unfold State.setTenseTx
  repeat' first
    | (with_reducible assumption) | exact Keeps.sub hK (by decide) | (with_reducible apply State.modLink_keeps)
    | split | (dsimp only)

theorem State.tenseSend_keeps {K : BitVec 24} {a0 : State} {s : State} {l : LinkId} {type : Byte} {c : Cls} {dir : Nat} {gen : BitVec 32} (hS : Keeps K a0 s)
    (hK : 0x000200#24 ||| K = K) : Keeps K a0 (State.tenseSend s l type c dir gen) := by
  unfold State.tenseSend
  repeat' first
    | (with_reducible assumption) | exact Keeps.sub hK (by decide) | (with_reducible apply State.tc0Own_keeps)
    | split | (dsimp only)

theorem State.tenseTrigger_keeps {K : BitVec 24} {a0 : State} {s : State} {l : LinkId} {c : Cls} (hS : Keeps K a0 s)
    (hK : 0x000240#24 ||| K = K) : Keeps K a0 (State.tenseTrigger s l c) := by
  unfold State.tenseTrigger
  repeat' first
    | (with_reducible assumption) | exact Keeps.sub hK (by decide)
    | (with_reducible apply State.installLinkKey_keeps) | (with_reducible apply State.setTenseTx_keeps)
    | (with_reducible apply State.tenseSend_keeps) | split | (dsimp only)

theorem State.opThreshold_keeps {K : BitVec 24} {a0 : State} {s : State} {l : LinkId} {c : Cls} (hS : Keeps K a0 s)
    (hK : 0x000240#24 ||| K = K) : Keeps K a0 (State.opThreshold s l c) := by
  unfold State.opThreshold
  repeat' first
    | (with_reducible assumption) | exact Keeps.sub hK (by decide) | (with_reducible apply State.keyEvent_keeps)
    | (with_reducible apply State.tenseTrigger_keeps) | split | (dsimp only)

theorem State.opKeyRoll_keeps {K : BitVec 24} {a0 : State} {s : State} {l : LinkId} {c : Cls} (hS : Keeps K a0 s)
    (hK : 0x000240#24 ||| K = K) : Keeps K a0 (State.opKeyRoll s l c) := by
  unfold State.opKeyRoll
  repeat' first
    | (with_reducible assumption) | exact Keeps.sub hK (by decide) | (with_reducible apply State.tenseTrigger_keeps)
    | split | (dsimp only)

theorem State.opKeyReady_keeps {K : BitVec 24} {a0 : State} {s : State} {l : LinkId} {m : TenseMsg} (hS : Keeps K a0 s)
    (hK : 0x010240#24 ||| K = K) : Keeps K a0 (State.opKeyReady s l m) := by
  unfold State.opKeyReady
  repeat' first
    | (with_reducible assumption) | exact Keeps.sub hK (by decide) | (with_reducible apply State.eraseRow_keeps)
    | (with_reducible apply State.keyEvent_keeps) | (with_reducible apply State.progress_keeps)
    | (with_reducible apply State.setRow_keeps) | (with_reducible apply State.setTenseTx_keeps) | split
    | (dsimp only)

theorem State.opTenseRetry_keeps {K : BitVec 24} {a0 : State} {s : State} {l : LinkId} {c : Cls} (hS : Keeps K a0 s)
    (hK : 0x75BF40#24 ||| K = K) : Keeps K a0 (State.opTenseRetry s l c) := by
  unfold State.opTenseRetry
  repeat' first
    | (with_reducible assumption) | exact Keeps.sub hK (by decide) | (with_reducible apply State.endAgreement_keeps)
    | (with_reducible apply State.eraseRow_keeps) | (with_reducible apply State.keyEvent_keeps)
    | (with_reducible apply State.setTenseTx_keeps) | (with_reducible apply State.tenseSend_keeps) | split
    | (dsimp only)

theorem State.setTenseRx_keeps {K : BitVec 24} {a0 : State} {s : State} {l : LinkId} {c : Cls} {x : TenseRx} (hS : Keeps K a0 s)
    (hK : 0x000200#24 ||| K = K) : Keeps K a0 (State.setTenseRx s l c x) := by
  unfold State.setTenseRx
  repeat' first
    | (with_reducible assumption) | exact Keeps.sub hK (by decide) | (with_reducible apply State.modLink_keeps)
    | split | (dsimp only)

theorem State.opKeyFuture_keeps {K : BitVec 24} {a0 : State} {s : State} {l : LinkId} {m : TenseMsg} (hS : Keeps K a0 s)
    (hK : 0x010240#24 ||| K = K) : Keeps K a0 (State.opKeyFuture s l m) := by
  unfold State.opKeyFuture
  repeat' first
    | (with_reducible assumption) | exact Keeps.sub hK (by decide)
    | (with_reducible apply State.installLinkKey_keeps) | (with_reducible apply State.keyEvent_keeps)
    | (with_reducible apply State.progress_keeps) | (with_reducible apply State.setTenseRx_keeps)
    | (with_reducible apply State.tenseSend_keeps) | split | (dsimp only)

theorem State.opPastEnd_keeps {K : BitVec 24} {a0 : State} {s : State} {l : LinkId} {c : Cls} (hS : Keeps K a0 s)
    (hK : 0x010240#24 ||| K = K) : Keeps K a0 (State.opPastEnd s l c) := by
  unfold State.opPastEnd
  repeat' first
    | (with_reducible assumption) | exact Keeps.sub hK (by decide) | (with_reducible apply State.eraseRow_keeps)
    | (with_reducible apply State.opKeyFuture_keeps) | (with_reducible apply State.setTenseRx_keeps) | split
    | (dsimp only)

theorem State.opPastGrace_keeps {K : BitVec 24} {a0 : State} {s : State} {l : LinkId} {c : Cls} (hS : Keeps K a0 s)
    (hK : 0x010240#24 ||| K = K) : Keeps K a0 (State.opPastGrace s l c) := by
  unfold State.opPastGrace
  repeat' first
    | (with_reducible assumption) | exact Keeps.sub hK (by decide) | (with_reducible apply State.opPastEnd_keeps)
    | split | (dsimp only)

theorem State.linkLimit_keeps {K : BitVec 24} {a0 : State} {s : State} {l : LinkId} {c : Cls} {dir : Nat} (hS : Keeps K a0 s)
    (hK : 0x000200#24 ||| K = K) : Keeps K a0 (State.linkLimit s l c dir) := by
  unfold State.linkLimit
  repeat' first
    | (with_reducible assumption) | exact Keeps.sub hK (by decide) | (with_reducible apply State.setTenseTx_keeps)
    | split | (dsimp only)

theorem State.memLimit_keeps {K : BitVec 24} {a0 : State} {s : State} {i : KeyIdx} {future : Bool} (hS : Keeps K a0 s)
    (hK : 0x000100#24 ||| K = K) : Keeps K a0 (State.memLimit s i future) := by
  unfold State.memLimit
  repeat' first
    | (with_reducible assumption) | exact Keeps.sub hK (by decide) | (with_reducible apply State.setMemIdx_keeps)
    | split | (dsimp only)

theorem State.stageLimit_keeps {K : BitVec 24} {a0 : State} {s : State} {f : Fn} {dir : Nat} (hS : Keeps K a0 s)
    (hK : 0x002000#24 ||| K = K) : Keeps K a0 (State.stageLimit s f dir) := by
  unfold State.stageLimit
  repeat' first
    | (with_reducible assumption) | exact Keeps.sub hK (by decide) | (with_reducible apply State.cmdResult_keeps)
    | (with_reducible refine Keeps.foldl ?_ (fun _ _ _ => ?_)) | split | (dsimp only)

theorem State.opKeyLimit_keeps {K : BitVec 24} {a0 : State} {s : State} {row : RowId} (hS : Keeps K a0 s)
    (hK : 0x10A340#24 ||| K = K) : Keeps K a0 (State.opKeyLimit s row) := by
  unfold State.opKeyLimit
  repeat' first
    | (with_reducible assumption) | exact Keeps.sub hK (by decide) | (with_reducible apply State.endProg_keeps)
    | (with_reducible apply State.eraseRow_keeps) | (with_reducible apply State.keyEvent_keeps)
    | (with_reducible apply State.linkLimit_keeps) | (with_reducible apply State.memLimit_keeps)
    | (with_reducible apply State.stageLimit_keeps) | split | (dsimp only)
    | (fail_if_no_progress refine Keeps.put ?_)

theorem State.opInvalidate_keeps {K : BitVec 24} {a0 : State} {s : State} {row : RowId} {mismatch : Bool} (hS : Keeps K a0 s)
    (hK : 0x7FFFDF#24 ||| K = K) : Keeps K a0 (State.opInvalidate s row mismatch) := by
  unfold State.opInvalidate
  repeat' first
    | (with_reducible assumption) | exact Keeps.sub hK (by decide) | (with_reducible apply State.invalidateKey_keeps)
    | (with_reducible apply State.progress_keeps) | (with_reducible apply State.rowFault_keeps) | split
    | (dsimp only)

theorem State.otpSpare_keeps {K : BitVec 24} {a0 : State} {s : State} {r : Nat} {w : BitVec 64} {bad : List (BitVec 7)} {z4 : List Nat} (hS : Keeps K a0 s)
    (hK : 0x000020#24 ||| K = K) : Keeps K a0 (State.otpSpare s r w bad z4) := by
  induction z4 generalizing s r w bad with
  | nil =>
    unfold State.otpSpare
    repeat' first
      | (with_reducible assumption) | exact Keeps.sub hK (by decide) | (with_reducible apply State.otpSetBits_keeps)
      | split | (dsimp only)
  | cons y ys ih =>
    unfold State.otpSpare
    repeat' first
      | (with_reducible assumption) | exact Keeps.sub hK (by decide) | (with_reducible apply ih)
      | (with_reducible apply State.otpSetBits_keeps) | split | (dsimp only)

theorem State.otpProgram_keeps {K : BitVec 24} {a0 : State} {s : State} {r : Nat} {w : BitVec 64} {bad : List (BitVec 7)} (hS : Keeps K a0 s)
    (hK : 0x000020#24 ||| K = K) : Keeps K a0 (State.otpProgram s r w bad) := by
  unfold State.otpProgram
  repeat' first
    | (with_reducible assumption) | exact Keeps.sub hK (by decide) | (with_reducible apply State.otpSetBits_keeps)
    | (with_reducible apply State.otpSpare_keeps) | split | (dsimp only)

theorem State.opDus_keeps {K : BitVec 24} {a0 : State} {s : State} {bad : List (BitVec 7)} (hS : Keeps K a0 s)
    (hK : 0x730078#24 ||| K = K) : Keeps K a0 (State.opDus s bad) := by
  unfold State.opDus
  repeat' first
    | (with_reducible assumption) | exact Keeps.sub hK (by decide) | (with_reducible apply State.draw_keeps)
    | (with_reducible refine Keeps.ofSnd (by assumption) ?_; with_reducible apply State.draw_keeps)
    | (with_reducible apply State.gradeUpdate_keeps) | (with_reducible apply State.otpProgram_keeps)
    | (with_reducible apply State.progress_keeps) | (with_reducible apply State.writeKey_keeps)
    | (with_reducible refine Keeps.foldl ?_ (fun _ _ _ => ?_)) | split | (dsimp only)
    | (fail_if_no_progress refine Keeps.put ?_)

end Sys2Proof.Machine
end

