-- ==== Sys2Proof/Laws/FrameLinks.lean ====
section
/-! SUPPORT. The frame of each operation of Sys2Proof/Machine/Links.lean. -/

namespace Sys2Proof.Machine

set_option Elab.async false

theorem State.opUpRise_keeps {K : BitVec 24} {a0 : State} {s : State} {l : LinkId} {qualified : Option (BitVec 11)} (hS : Keeps K a0 s)
    (hK : 0x600600#24 ||| K = K) : Keeps K a0 (State.opUpRise s l qualified) := by
  unfold State.opUpRise
  repeat' first
    | (with_reducible assumption) | exact Keeps.sub hK (by decide) | (with_reducible apply State.linkRise_keeps)
    | (with_reducible apply State.modLink_keeps) | (with_reducible refine Keeps.getD ?_ ?_) | split | (dsimp only)

theorem State.opUpFall_keeps {K : BitVec 24} {a0 : State} {s : State} {l : LinkId} (hS : Keeps K a0 s)
    (hK : 0x75BF40#24 ||| K = K) : Keeps K a0 (State.opUpFall s l) := by
  unfold State.opUpFall
  repeat' first
    | (with_reducible assumption) | exact Keeps.sub hK (by decide) | (with_reducible apply State.linkFall_keeps)
    | (with_reducible apply State.modLink_keeps) | split | (dsimp only)

theorem State.opStall_keeps {K : BitVec 24} {a0 : State} {s : State} {l : LinkId} {tx : Bool} (hS : Keeps K a0 s)
    (hK : 0x400200#24 ||| K = K) : Keeps K a0 (State.opStall s l tx) := by
  unfold State.opStall
  repeat' first
    | (with_reducible assumption) | exact Keeps.sub hK (by decide) | (with_reducible apply State.modLink_keeps)
    | (with_reducible apply State.record_keeps) | (with_reducible apply State.voidCredits_keeps) | split
    | (dsimp only)

theorem State.opQualified_keeps {K : BitVec 24} {a0 : State} {s : State} {l : LinkId} {freq : BitVec 11} (hS : Keeps K a0 s)
    (hK : 0x400200#24 ||| K = K) : Keeps K a0 (State.opQualified s l freq) := by
  unfold State.opQualified
  repeat' first
    | (with_reducible assumption) | exact Keeps.sub hK (by decide) | (with_reducible apply State.issueOwed_keeps)
    | (with_reducible apply State.modLink_keeps) | (with_reducible apply State.selectPort_keeps) | split
    | (dsimp only)

theorem State.opTxCredit_keeps {K : BitVec 24} {a0 : State} {s : State} {l : LinkId} {c : Cls} (hS : Keeps K a0 s)
    (hK : 0x000200#24 ||| K = K) : Keeps K a0 (State.opTxCredit s l c) := by
  unfold State.opTxCredit
  repeat' first
    | (with_reducible assumption) | exact Keeps.sub hK (by decide) | (with_reducible apply State.modLink_keeps)
    | split | (dsimp only)

theorem State.rxNote_keeps {K : BitVec 24} {a0 : State} {s : State} {l : LinkId} {r : Nat} {h : BitVec 128} (hS : Keeps K a0 s)
    (hK : 0x042040#24 ||| K = K) : Keeps K a0 (State.rxNote s l r h) := by
  unfold State.rxNote
  repeat' first
    | (with_reducible assumption) | exact Keeps.sub hK (by decide) | (with_reducible apply State.activity_keeps)
    | (with_reducible apply State.useKey_keeps) | split | (dsimp only) | (fail_if_no_progress refine Keeps.put ?_)

theorem State.rxAccept_keeps {K : BitVec 24} {a0 : State} {s : State} {l : LinkId} {r : Nat} {g : RxGroup} (hS : Keeps K a0 s)
    (hK : 0x75BF40#24 ||| K = K) : Keeps K a0 (State.rxAccept s l r g) := by
  unfold State.rxAccept
  repeat' first
    | (with_reducible assumption) | exact Keeps.sub hK (by decide) | (with_reducible apply State.deliverPump_keeps)
    | (with_reducible apply State.judge_keeps) | (with_reducible apply State.modLink_keeps)
    | (with_reducible apply State.ringPump_keeps) | (with_reducible apply State.rxNote_keeps) | split | (dsimp only)

theorem State.rxFail_keeps {K : BitVec 24} {a0 : State} {s : State} {l : LinkId} {h : BitVec 128} {check : Nat} (hS : Keeps K a0 s)
    (hK : 0x51A200#24 ||| K = K) : Keeps K a0 (State.rxFail s l h check) := by
  unfold State.rxFail
  repeat' first
    | (with_reducible assumption) | exact Keeps.sub hK (by decide) | (with_reducible apply State.countCheck_keeps)
    | (with_reducible apply State.creditReturn_keeps) | (with_reducible apply State.repudiateArrival_keeps) | split
    | (dsimp only)

theorem State.absent_keeps {K : BitVec 24} {a0 : State} {s : State} {l : LinkId} (hS : Keeps K a0 s)
    (hK : 0x000600#24 ||| K = K) : Keeps K a0 (State.absent s l) := by
  unfold State.absent
  repeat' first
    | (with_reducible assumption) | exact Keeps.sub hK (by decide) | (with_reducible apply State.linkEvent_keeps)
    | (with_reducible apply State.modLink_keeps) | (with_reducible apply State.setPhase_keeps) | split | (dsimp only)

theorem State.attemptFail_keeps {K : BitVec 24} {a0 : State} {s : State} {l : LinkId} (hS : Keeps K a0 s)
    (hK : 0x000600#24 ||| K = K) : Keeps K a0 (State.attemptFail s l) := by
  unfold State.attemptFail
  repeat' first
    | (with_reducible assumption) | exact Keeps.sub hK (by decide) | (with_reducible apply State.absent_keeps)
    | (with_reducible apply State.modLink_keeps) | split | (dsimp only)

theorem State.responderFail_keeps {K : BitVec 24} {a0 : State} {s : State} {l : LinkId} (hS : Keeps K a0 s)
    (hK : 0x000200#24 ||| K = K) : Keeps K a0 (State.responderFail s l) := by
  unfold State.responderFail
  repeat' first
    | (with_reducible assumption) | exact Keeps.sub hK (by decide) | (with_reducible apply State.modLink_keeps)
    | split | (dsimp only)

theorem State.attemptEnd_keeps {K : BitVec 24} {a0 : State} {s : State} {l : LinkId} {attempt : BitVec 32} (hS : Keeps K a0 s)
    (hK : 0x000600#24 ||| K = K) : Keeps K a0 (State.attemptEnd s l attempt) := by
  unfold State.attemptEnd
  repeat' first
    | (with_reducible assumption) | exact Keeps.sub hK (by decide) | (with_reducible apply State.attemptFail_keeps)
    | (with_reducible apply State.responderFail_keeps) | split | (dsimp only)

theorem State.fragBad_keeps {K : BitVec 24} {a0 : State} {s : State} {l : LinkId} {p : Bytes} (hS : Keeps K a0 s)
    (hK : 0x000600#24 ||| K = K) : Keeps K a0 (State.fragBad s l p) := by
  unfold State.fragBad
  repeat' first
    | (with_reducible assumption) | exact Keeps.sub hK (by decide) | (with_reducible apply State.abortSend_keeps)
    | (with_reducible apply State.attemptEnd_keeps) | (with_reducible apply State.modLink_keeps) | split
    | (dsimp only)

theorem State.fragTake_keeps {K : BitVec 24} {a0 : State} {s : State} {l : LinkId} {p : Bytes} (hS : Keeps K a0 s)
    (hK : 0x400200#24 ||| K = K) : Keeps K a0 (State.fragTake s l p) := by
  unfold State.fragTake
  repeat' first
    | (with_reducible assumption) | exact Keeps.sub hK (by decide) | (with_reducible apply State.modLink_keeps)
    | (with_reducible apply State.out_keeps) | (with_reducible refine Keeps.getD ?_ ?_) | split | (dsimp only)

theorem State.openTake_keeps {K : BitVec 24} {a0 : State} {s : State} {l : LinkId} {p : Bytes} (hS : Keeps K a0 s)
    (hK : 0x400600#24 ||| K = K) : Keeps K a0 (State.openTake s l p) := by
  unfold State.openTake
  repeat' first
    | (with_reducible assumption) | exact Keeps.sub hK (by decide) | (with_reducible apply State.fragBad_keeps)
    | (with_reducible apply State.fragTake_keeps) | (with_reducible apply State.out_keeps)
    | (with_reducible apply State.tc0Bad_keeps) | split | (dsimp only)

theorem State.opReceive_keeps {K : BitVec 24} {a0 : State} {s : State} {l : LinkId} {g : RxGroup} {rowBad : Bool} (hS : Keeps K a0 s)
    (hK : 0x7FFFDF#24 ||| K = K) : Keeps K a0 (State.opReceive s l g rowBad) := by
  unfold State.opReceive
  repeat' first
    | (with_reducible assumption) | exact Keeps.sub hK (by decide) | (with_reducible apply State.creditReturn_keeps)
    | (with_reducible apply State.modLink_keeps) | (with_reducible apply State.openTake_keeps)
    | (with_reducible apply State.progress_keeps) | (with_reducible apply State.rowFault_keeps)
    | (with_reducible apply State.rxAccept_keeps) | (with_reducible apply State.rxFail_keeps)
    | (with_reducible apply State.stormCheck_keeps) | split | (dsimp only)

theorem State.opReceiveUnits_keeps {K : BitVec 24} {a0 : State} {s : State} {l : LinkId} {units : List RxUnit} {rowBad : Bool} (hS : Keeps K a0 s)
    (hK : 0x7FFFDF#24 ||| K = K) : Keeps K a0 (State.opReceiveUnits s l units rowBad) := by
  unfold State.opReceiveUnits
  repeat' first
    | (with_reducible assumption) | exact Keeps.sub hK (by decide) | (with_reducible apply State.opReceive_keeps)
    | split | (dsimp only)

theorem State.opVerdict_keeps {K : BitVec 24} {a0 : State} {s : State} {l : LinkId} {c : Cls} {seq : BitVec 64} (hS : Keeps K a0 s)
    (hK : 0x75BF40#24 ||| K = K) : Keeps K a0 (State.opVerdict s l c seq) := by
  unfold State.opVerdict
  repeat' first
    | (with_reducible assumption) | exact Keeps.sub hK (by decide) | (with_reducible apply State.judge_keeps)
    | (with_reducible apply State.stormCheck_keeps) | split | (dsimp only)

theorem State.tc0Start_keeps {K : BitVec 24} {a0 : State} {s : State} {l : LinkId} {x : Tc0Item} (hS : Keeps K a0 s)
    (hK : 0x542240#24 ||| K = K) : Keeps K a0 (State.tc0Start s l x) := by
  unfold State.tc0Start
  repeat' first
    | (with_reducible assumption) | exact Keeps.sub hK (by decide) | (with_reducible apply State.modLink_keeps)
    | (with_reducible apply State.txOpen_keeps) | (with_reducible apply State.txSeal_keeps)
    | (with_reducible refine Keeps.ofOpt (by assumption) ?_; with_reducible apply State.txSeal_keeps)
    | exact Keeps.Opt.none | (with_reducible refine Keeps.Opt.some ?_) | (with_reducible refine Keeps.getD ?_ ?_)
    | split | (dsimp only)

theorem State.txStart_keeps {K : BitVec 24} {a0 : State} {s : State} {l : LinkId} {x : TxItem} (hS : Keeps K a0 s)
    (hK : 0x542240#24 ||| K = K) : Keeps K a0 (State.txStart s l x) := by
  unfold State.txStart
  repeat' first
    | (with_reducible assumption) | exact Keeps.sub hK (by decide) | (with_reducible apply State.modLink_keeps)
    | (with_reducible apply State.txSeal_keeps)
    | (with_reducible refine Keeps.ofOpt (by assumption) ?_; with_reducible apply State.txSeal_keeps)
    | exact Keeps.Opt.none | (with_reducible refine Keeps.Opt.some ?_) | (with_reducible refine Keeps.getD ?_ ?_)
    | split | (dsimp only)

theorem State.txAsk_keeps {K : BitVec 24} {a0 : State} {s : State} {l : LinkId} {c : Cls} {q : TxReq} (hS : Keeps K a0 s)
    (hK : 0x400200#24 ||| K = K) : Keeps K a0 (State.txAsk s l c q) := by
  unfold State.txAsk
  repeat' first
    | (with_reducible assumption) | exact Keeps.sub hK (by decide) | (with_reducible apply State.out_keeps)
    | (with_reducible apply State.txPut_keeps) | (with_reducible refine Keeps.getD ?_ ?_) | split | (dsimp only)

theorem State.opTransmit_keeps {K : BitVec 24} {a0 : State} {s : State} {l : LinkId} {c : Cls} {req : Option TxReq} {rowBad : Bool} (hS : Keeps K a0 s)
    (hK : 0x7FFFDF#24 ||| K = K) : Keeps K a0 (State.opTransmit s l c req rowBad) := by
  unfold State.opTransmit
  repeat' first
    | (with_reducible assumption) | exact Keeps.sub hK (by decide) | (with_reducible apply State.rowFault_keeps)
    | (with_reducible apply State.tc0Start_keeps) | (with_reducible apply State.txAsk_keeps)
    | (with_reducible apply State.txStart_keeps) | split | (dsimp only)

theorem State.opToken_keeps {K : BitVec 24} {a0 : State} {s : State} {l : LinkId} (hS : Keeps K a0 s)
    (hK : 0x000200#24 ||| K = K) : Keeps K a0 (State.opToken s l) := by
  unfold State.opToken
  repeat' first
    | (with_reducible assumption) | exact Keeps.sub hK (by decide) | (with_reducible apply State.modLink_keeps)
    | split | (dsimp only)

theorem State.opFloodExpiry_keeps {K : BitVec 24} {a0 : State} {s : State} {d : Slot} {src : Member} {transfer : BitVec 32} (hS : Keeps K a0 s)
    (hK : 0x000800#24 ||| K = K) : Keeps K a0 (State.opFloodExpiry s d src transfer) := by
  unfold State.opFloodExpiry
  repeat' first
    | (with_reducible assumption) | exact Keeps.sub hK (by decide) | split | (dsimp only)
    | (fail_if_no_progress refine Keeps.put ?_)

theorem State.opTxReady_keeps {K : BitVec 24} {a0 : State} {s : State} {l : LinkId} (hS : Keeps K a0 s)
    (hK : 0x410200#24 ||| K = K) : Keeps K a0 (State.opTxReady s l) := by
  unfold State.opTxReady
  repeat' first
    | (with_reducible assumption) | exact Keeps.sub hK (by decide) | (with_reducible apply State.modLink_keeps)
    | (with_reducible apply State.out_keeps) | (with_reducible apply State.progress_keeps)
    | (with_reducible refine Keeps.foldl ?_ (fun _ _ _ => ?_)) | split | (dsimp only)

theorem State.opCdLost_keeps {K : BitVec 24} {a0 : State} {s : State} (hS : Keeps K a0 s)
    (hK : 0x400204#24 ||| K = K) : Keeps K a0 (State.opCdLost s) := by
  unfold State.opCdLost
  repeat' first
    | (with_reducible assumption) | exact Keeps.sub hK (by decide) | (with_reducible apply State.clearDelivery_keeps)
    | split | (dsimp only) | (fail_if_no_progress refine Keeps.put ?_)

theorem State.opCdRelock_keeps {K : BitVec 24} {a0 : State} {s : State} (hS : Keeps K a0 s)
    (hK : 0x75BF44#24 ||| K = K) : Keeps K a0 (State.opCdRelock s) := by
  unfold State.opCdRelock
  repeat' first
    | (with_reducible assumption) | exact Keeps.sub hK (by decide) | (with_reducible apply State.deliveryReset_keeps)
    | split | (dsimp only) | (fail_if_no_progress refine Keeps.put ?_)

theorem State.opBeat_keeps {K : BitVec 24} {a0 : State} {s : State} {l : LinkId} (hS : Keeps K a0 s)
    (hK : 0x75BF40#24 ||| K = K) : Keeps K a0 (State.opBeat s l) := by
  unfold State.opBeat
  repeat' first
    | (with_reducible assumption) | exact Keeps.sub hK (by decide) | (with_reducible apply State.creditReturn_keeps)
    | (with_reducible apply State.deliverPump_keeps) | (with_reducible apply State.modLink_keeps)
    | (with_reducible apply State.out_keeps) | (with_reducible apply State.stormCheck_keeps)
    | (with_reducible apply State.verdictPump_keeps) | split | (dsimp only)

theorem State.opPulse_keeps {K : BitVec 24} {a0 : State} {s : State} {l : LinkId} (hS : Keeps K a0 s)
    (hK : 0x000200#24 ||| K = K) : Keeps K a0 (State.opPulse s l) := by
  unfold State.opPulse
  repeat' first
    | (with_reducible assumption) | exact Keeps.sub hK (by decide) | (with_reducible apply State.tc0Own_keeps)
    | split | (dsimp only)

theorem State.opLost_keeps {K : BitVec 24} {a0 : State} {s : State} {l : LinkId} (hS : Keeps K a0 s)
    (hK : 0x75BF40#24 ||| K = K) : Keeps K a0 (State.opLost s l) := by
  unfold State.opLost
  repeat' first
    | (with_reducible assumption) | exact Keeps.sub hK (by decide) | (with_reducible apply State.censusPut_keeps)
    | (with_reducible apply State.endAgreement_keeps) | split | (dsimp only)

theorem State.opBye_keeps {K : BitVec 24} {a0 : State} {s : State} {l : LinkId} {reservedZero : Bool} (hS : Keeps K a0 s)
    (hK : 0x75BF40#24 ||| K = K) : Keeps K a0 (State.opBye s l reservedZero) := by
  unfold State.opBye
  repeat' first
    | (with_reducible assumption) | exact Keeps.sub hK (by decide) | (with_reducible apply State.endAgreement_keeps)
    | (with_reducible apply State.tc0Bad_keeps) | split | (dsimp only)

theorem State.opTombEnd_keeps {K : BitVec 24} {a0 : State} {s : State} {l : LinkId} (hS : Keeps K a0 s)
    (hK : 0x000200#24 ||| K = K) : Keeps K a0 (State.opTombEnd s l) := by
  unfold State.opTombEnd
  repeat' first
    | (with_reducible assumption) | exact Keeps.sub hK (by decide) | (with_reducible apply State.modLink_keeps)
    | split | (dsimp only)

end Sys2Proof.Machine
end

