-- ==== Sys2Proof/Laws/FrameMailOps.lean ====
section
/-! SUPPORT. The frame of each operation of Sys2Proof/Machine/MailOps.lean. -/

namespace Sys2Proof.Machine

set_option Elab.async false

theorem State.mbxEnd_keeps {K : BitVec 24} {a0 : State} {s : State} {f : Fn} {st : Status} {len : Nat} (hS : Keeps K a0 s)
    (hK : 0x412000#24 ||| K = K) : Keeps K a0 (State.mbxEnd s f st len) := by
  unfold State.mbxEnd
  repeat' first
    | (with_reducible assumption) | exact Keeps.sub hK (by decide) | (with_reducible apply State.drainCheck_keeps)
    | (with_reducible apply State.modFunc_keeps) | (with_reducible apply State.msi_keeps)
    | (with_reducible apply State.progress_keeps) | split | (dsimp only)

theorem State.mbxReply_keeps {K : BitVec 24} {a0 : State} {s : State} {h : MbxHdr} {code : BitVec 16} {st : Status} {body : Bytes} (hS : Keeps K a0 s)
    (hK : 0x412000#24 ||| K = K) : Keeps K a0 (State.mbxReply s h code st body) := by
  unfold State.mbxReply
  repeat' first
    | (with_reducible assumption) | exact Keeps.sub hK (by decide) | (with_reducible apply State.hostWrite_keeps)
    | (with_reducible apply State.mbxEnd_keeps) | split | (dsimp only)

theorem State.mbxEarly_keeps {K : BitVec 24} {a0 : State} {s : State} {h : MbxHdr} {code : BitVec 16} {known : Bool} {pfOnly : Bool} {want : Option Nat} (hS : Keeps K a0 s)
    (hK : 0x412000#24 ||| K = K) : Keeps.Opt K a0 (State.mbxEarly s h code known pfOnly want) := by
  unfold State.mbxEarly
  repeat' first
    | (with_reducible assumption) | exact Keeps.sub hK (by decide) | (with_reducible apply State.mbxEnd_keeps)
    | (with_reducible apply State.mbxReply_keeps) | exact Keeps.Opt.none | (with_reducible refine Keeps.Opt.some ?_)
    | (with_reducible refine Keeps.Opt.map ?_ (fun _ _ => ?_))
    | (with_reducible refine Keeps.Opt.mapAny (fun _ => ?_)) | split | (dsimp only)

theorem State.mbxRun_keeps {K : BitVec 24} {a0 : State} {s : State} {h : MbxHdr} {code : BitVec 16} {known : Bool} {pfOnly : Bool} {want : Option Nat} {act : State → State.MbxAnswer} (hS : Keeps K a0 s) (hFact : ∀ y0, Keeps K a0 y0 → Keeps K a0 (act y0).1)
    (hK : 0x412000#24 ||| K = K) : Keeps K a0 (State.mbxRun s h code known pfOnly want act) := by
  unfold State.mbxRun
  repeat' first
    | (with_reducible assumption) | exact Keeps.sub hK (by decide) | (with_reducible apply hFact)
    | (with_reducible apply State.mbxEarly_keeps)
    | (with_reducible refine Keeps.ofOpt (by assumption) ?_; with_reducible apply State.mbxEarly_keeps)
    | (with_reducible apply State.mbxReply_keeps) | exact Keeps.Opt.none | (with_reducible refine Keeps.Opt.some ?_)
    | split | (dsimp only)

theorem State.mbxPf_keeps {K : BitVec 24} {a0 : State} {s : State} {h : MbxHdr} {code : BitVec 16} {len : Nat} {act : State → State × Status} (hS : Keeps K a0 s) (hFact : ∀ y0, Keeps K a0 y0 → Keeps K a0 (act y0).1)
    (hK : 0x412000#24 ||| K = K) : Keeps K a0 (State.mbxPf s h code len act) := by
  unfold State.mbxPf
  repeat' first
    | (with_reducible assumption) | exact Keeps.sub hK (by decide) | (with_reducible apply hFact)
    | (with_reducible apply State.mbxRun_keeps) | exact Keeps.Opt.none | (with_reducible refine Keeps.Opt.some ?_)
    | split | (dsimp only) | intro _

end Sys2Proof.Machine
end

