-- ==== Sys2Proof/Laws/FrameAgreement.lean ====
section
/-! SUPPORT. The frame of each operation of Sys2Proof/Machine/Agreement.lean. -/

namespace Sys2Proof.Machine

set_option Elab.async false

theorem State.openDomain_keeps {K : BitVec 24} {a0 : State} {s : State} {l : LinkId} {d : Slot} {x : Decl} {type : Byte} {msg : Bytes} (hS : Keeps K a0 s)
    (hK : 0x000600#24 ||| K = K) : Keeps K a0 (State.openDomain s l d x type msg) := by
  unfold State.openDomain
  repeat' first
    | (with_reducible assumption) | exact Keeps.sub hK (by decide) | (with_reducible apply State.modDom_keeps)
    | (with_reducible apply State.openSend_keeps) | split | (dsimp only)

theorem State.inviteSend_keeps {K : BitVec 24} {a0 : State} {s : State} {l : LinkId} {d : Slot} {x : Decl} (hS : Keeps K a0 s)
    (hK : 0x000600#24 ||| K = K) : Keeps K a0 (State.inviteSend s l d x) := by
  unfold State.inviteSend
  repeat' first
    | (with_reducible assumption) | exact Keeps.sub hK (by decide) | (with_reducible apply State.openDomain_keeps)
    | split | (dsimp only)

theorem State.rejoinSend_keeps {K : BitVec 24} {a0 : State} {s : State} {l : LinkId} {d : Slot} {x : Decl} (hS : Keeps K a0 s)
    (hK : 0x000600#24 ||| K = K) : Keeps K a0 (State.rejoinSend s l d x) := by
  unfold State.rejoinSend
  repeat' first
    | (with_reducible assumption) | exact Keeps.sub hK (by decide) | (with_reducible apply State.openDomain_keeps)
    | split | (dsimp only)

theorem State.joinAgreed_keeps {K : BitVec 24} {a0 : State} {s : State} {l : LinkId} {d : Slot} (hS : Keeps K a0 s)
    (hK : 0x100600#24 ||| K = K) : Keeps K a0 (State.joinAgreed s l d) := by
  unfold State.joinAgreed
  repeat' first
    | (with_reducible assumption) | exact Keeps.sub hK (by decide) | (with_reducible apply State.modDom_keeps)
    | (with_reducible apply State.tc0Send_keeps) | (with_reducible apply State.timeMark_keeps) | split | (dsimp only)

theorem State.setAgreed_keeps {K : BitVec 24} {a0 : State} {s : State} {l : LinkId} {las : Bytes} (hS : Keeps K a0 s)
    (hK : 0x110640#24 ||| K = K) : Keeps K a0 (State.setAgreed s l las) := by
  unfold State.setAgreed
  repeat' first
    | (with_reducible assumption) | exact Keeps.sub hK (by decide)
    | (with_reducible apply State.installLinkKey_keeps) | (with_reducible apply State.joinAgreed_keeps)
    | (with_reducible apply State.linkEvent_keeps) | (with_reducible apply State.modLink_keeps)
    | (with_reducible apply State.progress_keeps) | (with_reducible apply State.setPhase_keeps)
    | (with_reducible apply State.writeKey_keeps) | (with_reducible refine Keeps.foldl ?_ (fun _ _ _ => ?_)) | split
    | (dsimp only)

theorem State.replyMake_keeps {K : BitVec 24} {a0 : State} {s : State} {l : LinkId} {d : Slot} {x : Decl} {p : AgrPrefix} {b : AgrBody} (hS : Keeps K a0 s)
    (hK : 0x210600#24 ||| K = K) : Keeps K a0 (State.replyMake s l d x p b) := by
  unfold State.replyMake
  repeat' first
    | (with_reducible assumption) | exact Keeps.sub hK (by decide) | (with_reducible apply State.draw_keeps)
    | (with_reducible refine Keeps.ofSnd (by assumption) ?_; with_reducible apply State.draw_keeps)
    | (with_reducible apply State.modLink_keeps) | (with_reducible apply State.openSend_keeps)
    | (with_reducible apply State.progress_keeps) | (with_reducible apply State.setPhase_keeps) | split
    | (dsimp only)

theorem State.opHello_keeps {K : BitVec 24} {a0 : State} {s : State} {l : LinkId} {p : AgrPrefix} {b : AgrBody} (hS : Keeps K a0 s)
    (hK : 0x75BF40#24 ||| K = K) : Keeps K a0 (State.opHello s l p b) := by
  unfold State.opHello
  repeat' first
    | (with_reducible assumption) | exact Keeps.sub hK (by decide) | (with_reducible apply State.abortSend_keeps)
    | (with_reducible apply State.endAgreement_keeps) | (with_reducible apply State.rejoinSend_keeps)
    | (with_reducible apply State.replyMake_keeps) | split | (dsimp only)

theorem State.opReply_keeps {K : BitVec 24} {a0 : State} {s : State} {l : LinkId} {p : AgrPrefix} {b : AgrBody} (hS : Keeps K a0 s)
    (hK : 0x010600#24 ||| K = K) : Keeps K a0 (State.opReply s l p b) := by
  unfold State.opReply
  repeat' first
    | (with_reducible assumption) | exact Keeps.sub hK (by decide) | (with_reducible apply State.abortSend_keeps)
    | (with_reducible apply State.attemptFail_keeps) | (with_reducible apply State.modLink_keeps)
    | (with_reducible apply State.openSend_keeps) | (with_reducible apply State.progress_keeps) | split
    | (dsimp only)

theorem State.opFinish_keeps {K : BitVec 24} {a0 : State} {s : State} {l : LinkId} {p : AgrPrefix} {sigI : Bytes} {kcI : BitVec 128} (hS : Keeps K a0 s)
    (hK : 0x110640#24 ||| K = K) : Keeps K a0 (State.opFinish s l p sigI kcI) := by
  unfold State.opFinish
  repeat' first
    | (with_reducible assumption) | exact Keeps.sub hK (by decide) | (with_reducible apply State.abortSend_keeps)
    | (with_reducible apply State.openSend_keeps) | (with_reducible apply State.responderFail_keeps)
    | (with_reducible apply State.setAgreed_keeps) | split | (dsimp only)

theorem State.opDone_keeps {K : BitVec 24} {a0 : State} {s : State} {l : LinkId} {p : AgrPrefix} {kcR : BitVec 128} (hS : Keeps K a0 s)
    (hK : 0x110640#24 ||| K = K) : Keeps K a0 (State.opDone s l p kcR) := by
  unfold State.opDone
  repeat' first
    | (with_reducible assumption) | exact Keeps.sub hK (by decide) | (with_reducible apply State.abortSend_keeps)
    | (with_reducible apply State.attemptFail_keeps) | (with_reducible apply State.setAgreed_keeps)
    | (with_reducible apply State.tc0Own_keeps) | split | (dsimp only)

theorem State.opAbort_keeps {K : BitVec 24} {a0 : State} {s : State} {l : LinkId} {p : AgrPrefix} {reason : Byte} (hS : Keeps K a0 s)
    (hK : 0x000600#24 ||| K = K) : Keeps K a0 (State.opAbort s l p reason) := by
  unfold State.opAbort
  repeat' first
    | (with_reducible assumption) | exact Keeps.sub hK (by decide) | (with_reducible apply State.attemptEnd_keeps)
    | (with_reducible apply State.inviteSend_keeps) | (with_reducible apply State.modLink_keeps) | split
    | (dsimp only)

theorem State.opAttemptTimeout_keeps {K : BitVec 24} {a0 : State} {s : State} {l : LinkId} (hS : Keeps K a0 s)
    (hK : 0x000600#24 ||| K = K) : Keeps K a0 (State.opAttemptTimeout s l) := by
  unfold State.opAttemptTimeout
  repeat' first
    | (with_reducible assumption) | exact Keeps.sub hK (by decide) | (with_reducible apply State.attemptFail_keeps)
    | (with_reducible apply State.modLink_keeps) | split | (dsimp only)

theorem State.opRetry_keeps {K : BitVec 24} {a0 : State} {s : State} {l : LinkId} (hS : Keeps K a0 s)
    (hK : 0x200600#24 ||| K = K) : Keeps K a0 (State.opRetry s l) := by
  unfold State.opRetry
  repeat' first
    | (with_reducible assumption) | exact Keeps.sub hK (by decide) | (with_reducible apply State.abortSend_keeps)
    | (with_reducible apply State.sendHello_keeps) | (with_reducible apply State.setPhase_keeps) | split
    | (dsimp only)

theorem State.opResponderTimeout_keeps {K : BitVec 24} {a0 : State} {s : State} {l : LinkId} (hS : Keeps K a0 s)
    (hK : 0x000600#24 ||| K = K) : Keeps K a0 (State.opResponderTimeout s l) := by
  unfold State.opResponderTimeout
  repeat' first
    | (with_reducible assumption) | exact Keeps.sub hK (by decide) | (with_reducible apply State.absent_keeps)
    | split | (dsimp only)

theorem State.linkAgreeDo_keeps {K : BitVec 24} {a0 : State} {s : State} {d : Slot} {l : LinkId} (hS : Keeps K a0 s)
    (hK : 0x200600#24 ||| K = K) : Keeps K a0 (State.linkAgreeDo s d l).1 := by
  unfold State.linkAgreeDo
  repeat' first
    | (with_reducible assumption) | exact Keeps.sub hK (by decide) | (with_reducible apply State.agreeNow_keeps)
    | (with_reducible apply State.modLink_keeps) | split | (dsimp only)

theorem State.linkCloseDo_keeps {K : BitVec 24} {a0 : State} {s : State} {d : Slot} {l : LinkId} (hS : Keeps K a0 s)
    (hK : 0x75BF40#24 ||| K = K) : Keeps K a0 (State.linkCloseDo s d l).1 := by
  unfold State.linkCloseDo
  repeat' first
    | (with_reducible assumption) | exact Keeps.sub hK (by decide) | (with_reducible apply State.endAgreement_keeps)
    | (with_reducible apply State.sendBye_keeps) | split | (dsimp only)

end Sys2Proof.Machine
end

