-- ==== Sys2Proof/Laws/FrameCompose.lean ====
section
/-! SUPPORT. The frame of each operation of Sys2Proof/Machine/Compose.lean. -/

namespace Sys2Proof.Machine

set_option Elab.async false

theorem State.opVd_keeps {K : BitVec 24} {a0 : State} {s : State} {r : VdReq} (hS : Keeps K a0 s)
    (hK : 0x75FF40#24 ||| K = K) : Keeps K a0 (State.opVd s r) := by
  unfold State.opVd
  repeat' first
    | (with_reducible assumption) | exact Keeps.sub hK (by decide) | (with_reducible apply State.vdReqWrite_keeps)
    | split | (dsimp only)

theorem State.opEnable_keeps {K : BitVec 24} {a0 : State} {s : State} {t : EnTarget} {on : Bool} (hS : Keeps K a0 s)
    (hK : 0x77BF45#24 ||| K = K) : Keeps K a0 (State.opEnable s t on) := by
  unfold State.opEnable
  repeat' first
    | (with_reducible assumption) | exact Keeps.sub hK (by decide) | (with_reducible apply State.flrLate_keeps)
    | (with_reducible apply State.setEnable_keeps) | split | (dsimp only)

theorem State.opTrayEnable_keeps {K : BitVec 24} {a0 : State} {s : State} (hS : Keeps K a0 s)
    (hK : 0x420004#24 ||| K = K) : Keeps K a0 (State.opTrayEnable s) := by
  unfold State.opTrayEnable
  repeat' first
    | (with_reducible assumption) | exact Keeps.sub hK (by decide) | (with_reducible apply State.traySend_keeps)
    | split | (dsimp only) | (fail_if_no_progress refine Keeps.put ?_)

theorem State.opTrayAck_keeps {K : BitVec 24} {a0 : State} {s : State} (hS : Keeps K a0 s)
    (hK : 0x420000#24 ||| K = K) : Keeps K a0 (State.opTrayAck s) := by
  unfold State.opTrayAck
  repeat' first
    | (with_reducible assumption) | exact Keeps.sub hK (by decide) | (with_reducible apply State.traySend_keeps)
    | split | (dsimp only) | (fail_if_no_progress refine Keeps.put ?_)

theorem State.opTrayRepeat_keeps {K : BitVec 24} {a0 : State} {s : State} (hS : Keeps K a0 s)
    (hK : 0x400000#24 ||| K = K) : Keeps K a0 (State.opTrayRepeat s) := by
  unfold State.opTrayRepeat
  repeat' first
    | (with_reducible assumption) | exact Keeps.sub hK (by decide) | (with_reducible apply State.out_keeps) | split
    | (dsimp only)

theorem State.opLim_keeps {K : BitVec 24} {a0 : State} {s : State} {r : Rail} {v : BitVec 12} (hS : Keeps K a0 s)
    (hK : 0x040001#24 ||| K = K) : Keeps K a0 (State.opLim s r v) := by
  unfold State.opLim
  repeat' first
    | (with_reducible assumption) | exact Keeps.sub hK (by decide) | (with_reducible apply State.takeLimit_keeps)
    | split | (dsimp only) | (fail_if_no_progress refine Keeps.put ?_)

end Sys2Proof.Machine
end

