-- ==== Sys2Proof/Laws/FrameManagerOps.lean ====
section
/-! SUPPORT. The frame of each operation of Sys2Proof/Machine/ManagerOps.lean. -/

namespace Sys2Proof.Machine

set_option Elab.async false

theorem State.writeRoot_keeps {K : BitVec 24} {a0 : State} {s : State} {r : Nat} {bs : Bytes} {d : Slot} (hS : Keeps K a0 s)
    (hK : 0x000040#24 ||| K = K) : Keeps K a0 (State.writeRoot s r bs d) := by
  unfold State.writeRoot
  repeat' first
    | (with_reducible assumption) | exact Keeps.sub hK (by decide) | (with_reducible apply State.writeKey_keeps)
    | split | (dsimp only)

theorem State.deriveOwn_keeps {K : BitVec 24} {a0 : State} {s : State} {d : Slot} (hS : Keeps K a0 s)
    (hK : 0x600540#24 ||| K = K) : Keeps K a0 (State.deriveOwn s d) := by
  unfold State.deriveOwn
  repeat' first
    | (with_reducible assumption) | exact Keeps.sub hK (by decide)
    | (with_reducible apply State.deriveReserved_keeps) | (with_reducible apply State.setDom_keeps)
    | (with_reducible apply State.writeRoot_keeps) | split | (dsimp only)

theorem State.agreeDeclared_keeps {K : BitVec 24} {a0 : State} {s : State} {d : Slot} (hS : Keeps K a0 s)
    (hK : 0x200600#24 ||| K = K) : Keeps K a0 (State.agreeDeclared s d) := by
  unfold State.agreeDeclared
  repeat' first
    | (with_reducible assumption) | exact Keeps.sub hK (by decide) | (with_reducible apply State.agreeStart_keeps)
    | (with_reducible refine Keeps.foldl ?_ (fun _ _ _ => ?_)) | split | (dsimp only)

theorem State.handDown_keeps {K : BitVec 24} {a0 : State} {s : State} {d : Slot} {kind : BitVec 2} {to' : Member} (hS : Keeps K a0 s)
    (hK : 0x200600#24 ||| K = K) : Keeps K a0 (State.handDown s d kind to') := by
  unfold State.handDown
  repeat' first
    | (with_reducible assumption) | exact Keeps.sub hK (by decide) | (with_reducible apply State.draw_keeps)
    | (with_reducible refine Keeps.ofSnd (by assumption) ?_; with_reducible apply State.draw_keeps)
    | (with_reducible apply State.tc0Send_keeps) | split | (dsimp only)

theorem State.keysFlood_keeps {K : BitVec 24} {a0 : State} {s : State} {d : Slot} (hS : Keeps K a0 s)
    (hK : 0x000600#24 ||| K = K) : Keeps K a0 (State.keysFlood s d) := by
  unfold State.keysFlood
  repeat' first
    | (with_reducible assumption) | exact Keeps.sub hK (by decide) | (with_reducible apply State.tc0Send_keeps)
    | split | (dsimp only)

theorem State.censusIssue_keeps {K : BitVec 24} {a0 : State} {s : State} {d : Slot} {h : BitVec 3} (hS : Keeps K a0 s)
    (hK : 0x000400#24 ||| K = K) : Keeps K a0 (State.censusIssue s d h) := by
  unfold State.censusIssue
  repeat' first
    | (with_reducible assumption) | exact Keeps.sub hK (by decide) | (with_reducible apply State.modDom_keeps)
    | split | (dsimp only)

theorem State.inviteAll_keeps {K : BitVec 24} {a0 : State} {s : State} {d : Slot} (hS : Keeps K a0 s)
    (hK : 0x000600#24 ||| K = K) : Keeps K a0 (State.inviteAll s d) := by
  unfold State.inviteAll
  repeat' first
    | (with_reducible assumption) | exact Keeps.sub hK (by decide) | (with_reducible apply State.inviteSend_keeps)
    | (with_reducible refine Keeps.foldl ?_ (fun _ _ _ => ?_)) | split | (dsimp only)

theorem State.rejoinRelay_keeps {K : BitVec 24} {a0 : State} {s : State} {d : Slot} {msg : Bytes} (hS : Keeps K a0 s)
    (hK : 0x000600#24 ||| K = K) : Keeps K a0 (State.rejoinRelay s d msg) := by
  unfold State.rejoinRelay
  repeat' first
    | (with_reducible assumption) | exact Keeps.sub hK (by decide) | (with_reducible apply State.openDomain_keeps)
    | (with_reducible refine Keeps.foldl ?_ (fun _ _ _ => ?_)) | split | (dsimp only)

theorem State.resumeSend_keeps {K : BitVec 24} {a0 : State} {s : State} {d : Slot} {h : BitVec 3} {states : List (BitVec 2)} (hS : Keeps K a0 s)
    (hK : 0x000600#24 ||| K = K) : Keeps K a0 (State.resumeSend s d h states) := by
  unfold State.resumeSend
  repeat' first
    | (with_reducible assumption) | exact Keeps.sub hK (by decide) | (with_reducible apply State.inviteAll_keeps)
    | (with_reducible apply State.tc0Send_keeps) | (with_reducible refine Keeps.foldl ?_ (fun _ _ _ => ?_)) | split
    | (dsimp only)

theorem State.takeoverSend_keeps {K : BitVec 24} {a0 : State} {s : State} {d : Slot} {system : Bool} {m : Member} (hS : Keeps K a0 s)
    (hK : 0x000600#24 ||| K = K) : Keeps K a0 (State.takeoverSend s d system m) := by
  unfold State.takeoverSend
  repeat' first
    | (with_reducible assumption) | exact Keeps.sub hK (by decide) | (with_reducible apply State.tc0Send_keeps)
    | (with_reducible refine Keeps.foldl ?_ (fun _ _ _ => ?_)) | split | (dsimp only)

theorem State.hallPulseSend_keeps {K : BitVec 24} {a0 : State} {s : State} {d : Slot} {h : BitVec 3} (hS : Keeps K a0 s)
    (hK : 0x000600#24 ||| K = K) : Keeps K a0 (State.hallPulseSend s d h) := by
  unfold State.hallPulseSend
  repeat' first
    | (with_reducible assumption) | exact Keeps.sub hK (by decide) | (with_reducible apply State.tc0Send_keeps)
    | split | (dsimp only)

theorem State.electHall_keeps {K : BitVec 24} {a0 : State} {s : State} {d : Slot} (hS : Keeps K a0 s)
    (hK : 0x000600#24 ||| K = K) : Keeps K a0 (State.electHall s d) := by
  unfold State.electHall
  repeat' first
    | (with_reducible assumption) | exact Keeps.sub hK (by decide) | (with_reducible apply State.domEvent_keeps)
    | (with_reducible apply State.hallPulseSend_keeps) | (with_reducible apply State.resumeSend_keeps)
    | (with_reducible apply State.setDom_keeps) | (with_reducible apply State.takeoverSend_keeps) | split
    | (dsimp only)

theorem State.electSys_keeps {K : BitVec 24} {a0 : State} {s : State} {d : Slot} (hS : Keeps K a0 s)
    (hK : 0x000600#24 ||| K = K) : Keeps K a0 (State.electSys s d) := by
  unfold State.electSys
  repeat' first
    | (with_reducible assumption) | exact Keeps.sub hK (by decide) | (with_reducible apply State.domEvent_keeps)
    | (with_reducible apply State.setDom_keeps) | (with_reducible apply State.takeoverSend_keeps) | split
    | (dsimp only)

theorem State.standDown_keeps {K : BitVec 24} {a0 : State} {s : State} {d : Slot} (hS : Keeps K a0 s)
    (hK : 0x000400#24 ||| K = K) : Keeps K a0 (State.standDown s d) := by
  unfold State.standDown
  repeat' first
    | (with_reducible assumption) | exact Keeps.sub hK (by decide) | (with_reducible apply State.setDom_keeps)
    | split | (dsimp only)

theorem State.yieldTo_keeps {K : BitVec 24} {a0 : State} {s : State} {d : Slot} {m : Member} (hS : Keeps K a0 s)
    (hK : 0x000600#24 ||| K = K) : Keeps K a0 (State.yieldTo s d m) := by
  unfold State.yieldTo
  repeat' first
    | (with_reducible assumption) | exact Keeps.sub hK (by decide) | (with_reducible apply State.domEvent_keeps)
    | (with_reducible apply State.modDom_keeps) | (with_reducible apply State.syncRow_keeps)
    | (with_reducible apply State.takeoverSend_keeps) | (with_reducible apply State.tc0Send_keeps)
    | (with_reducible refine Keeps.foldl ?_ (fun _ _ _ => ?_)) | split | (dsimp only)

theorem State.becomeFragment_keeps {K : BitVec 24} {a0 : State} {s : State} {d : Slot} (hS : Keeps K a0 s)
    (hK : 0x55A740#24 ||| K = K) : Keeps K a0 (State.becomeFragment s d) := by
  unfold State.becomeFragment
  repeat' first
    | (with_reducible assumption) | exact Keeps.sub hK (by decide) | (with_reducible apply State.domEvent_keeps)
    | (with_reducible apply State.faultOpen_keeps) | (with_reducible apply State.fenceRelease_keeps)
    | (with_reducible apply State.setDom_keeps) | (with_reducible refine Keeps.foldl ?_ (fun _ _ _ => ?_)) | split
    | (dsimp only) | (fail_if_no_progress refine Keeps.put ?_)

theorem State.continueDom_keeps {K : BitVec 24} {a0 : State} {s : State} {d : Slot} (hS : Keeps K a0 s)
    (hK : 0x300600#24 ||| K = K) : Keeps K a0 (State.continueDom s d) := by
  unfold State.continueDom
  repeat' first
    | (with_reducible assumption) | exact Keeps.sub hK (by decide) | (with_reducible apply State.agreeDeclared_keeps)
    | (with_reducible apply State.domEvent_keeps) | (with_reducible apply State.electHall_keeps)
    | (with_reducible apply State.electSys_keeps) | (with_reducible apply State.setDom_keeps)
    | (with_reducible apply State.timeMark_keeps) | split | (dsimp only)

theorem State.applyResult_keeps {K : BitVec 24} {a0 : State} {s : State} {d : Slot} {r : CountResult} (hS : Keeps K a0 s)
    (hK : 0x75A740#24 ||| K = K) : Keeps K a0 (State.applyResult s d r) := by
  unfold State.applyResult
  repeat' first
    | (with_reducible assumption) | exact Keeps.sub hK (by decide)
    | (with_reducible apply State.becomeFragment_keeps) | (with_reducible apply State.continueDom_keeps)
    | (with_reducible apply State.setDom_keeps) | split | (dsimp only)

theorem State.countEnd_keeps {K : BitVec 24} {a0 : State} {s : State} {d : Slot} {c : CountRun} (hS : Keeps K a0 s)
    (hK : 0x75A740#24 ||| K = K) : Keeps K a0 (State.countEnd s d c) := by
  unfold State.countEnd
  repeat' first
    | (with_reducible assumption) | exact Keeps.sub hK (by decide) | (with_reducible apply State.applyResult_keeps)
    | (with_reducible apply State.modDom_keeps) | (with_reducible apply State.tc0Send_keeps) | split | (dsimp only)

theorem State.countPut_keeps {K : BitVec 24} {a0 : State} {s : State} {d : Slot} {c : CountRun} (hS : Keeps K a0 s)
    (hK : 0x75A740#24 ||| K = K) : Keeps K a0 (State.countPut s d c) := by
  unfold State.countPut
  repeat' first
    | (with_reducible assumption) | exact Keeps.sub hK (by decide) | (with_reducible apply State.countEnd_keeps)
    | (with_reducible apply State.modDom_keeps) | split | (dsimp only)

theorem State.countStart_keeps {K : BitVec 24} {a0 : State} {s : State} {d : Slot} {round : BitVec 32} {halls : BitVec 8} {members : Nat} {verifier : Bool} (hS : Keeps K a0 s)
    (hK : 0x75A740#24 ||| K = K) : Keeps K a0 (State.countStart s d round halls members verifier) := by
  unfold State.countStart
  repeat' first
    | (with_reducible assumption) | exact Keeps.sub hK (by decide) | (with_reducible apply State.countPut_keeps)
    | split | (dsimp only)

theorem State.countTrigger_keeps {K : BitVec 24} {a0 : State} {s : State} {d : Slot} (hS : Keeps K a0 s)
    (hK : 0x75A740#24 ||| K = K) : Keeps K a0 (State.countTrigger s d) := by
  unfold State.countTrigger
  repeat' first
    | (with_reducible assumption) | exact Keeps.sub hK (by decide) | (with_reducible apply State.countStart_keeps)
    | (with_reducible apply State.tc0Send_keeps) | split | (dsimp only)

theorem State.counterKeep_keeps {K : BitVec 24} {a0 : State} {s : State} {d : Slot} (hS : Keeps K a0 s)
    (hK : 0x000400#24 ||| K = K) : Keeps K a0 (State.counterKeep s d) := by
  unfold State.counterKeep
  repeat' first
    | (with_reducible assumption) | exact Keeps.sub hK (by decide) | (with_reducible apply State.modDom_keeps)
    | split | (dsimp only)

end Sys2Proof.Machine
end

