-- ==== Sys2Proof/Laws/FrameDomain.lean ====
section
/-! SUPPORT. The frame of each operation of Sys2Proof/Machine/Domain.lean. -/

namespace Sys2Proof.Machine

set_option Elab.async false

theorem State.domCmd_keeps {K : BitVec 24} {a0 : State} {s : State} {h : MbxHdr} {code : BitVec 16} {len : Option ℕ} {act : State → MbxAnswer} (hS : Keeps K a0 s) (hFact : ∀ y0, Keeps K a0 y0 → Keeps K a0 (act y0).1)
    (hK : 0x412000#24 ||| K = K) : Keeps K a0 (State.domCmd s h code len act) := by
  unfold State.domCmd
  refine State.mbxRun_keeps hS (fun t h => ?_) (Keeps.sub hK (by decide))
  split
  · exact h
  · exact hFact t h


theorem State.domCmd0_keeps {K : BitVec 24} {a0 : State} {s : State} {h : MbxHdr} {code : BitVec 16} {len : Nat} {act : State → State × Status} (hS : Keeps K a0 s) (hFact : ∀ y0, Keeps K a0 y0 → Keeps K a0 (act y0).1)
    (hK : 0x412000#24 ||| K = K) : Keeps K a0 (State.domCmd0 s h code len act) := by
  unfold State.domCmd0
  repeat' first
    | (with_reducible assumption) | exact Keeps.sub hK (by decide) | (with_reducible apply hFact)
    | (with_reducible apply State.domCmd_keeps) | exact Keeps.Opt.none | (with_reducible refine Keeps.Opt.some ?_)
    | split | (dsimp only) | intro _

theorem State.domCmdBody_keeps {K : BitVec 24} {a0 : State} {s : State} {h : MbxHdr} {code : BitVec 16} {len : Nat} {act : State → State × Status} (hS : Keeps K a0 s) (hFact : ∀ y0, Keeps K a0 y0 → Keeps K a0 (act y0).1)
    (hK : 0x412000#24 ||| K = K) : Keeps K a0 (State.domCmdBody s h code len act) := by
  unfold State.domCmdBody
  repeat' first
    | (with_reducible assumption) | exact Keeps.sub hK (by decide) | (with_reducible apply hFact)
    | (with_reducible apply State.domCmd_keeps) | exact Keeps.Opt.none | (with_reducible refine Keeps.Opt.some ?_)
    | split | (dsimp only) | intro _

theorem State.formHelloDo_keeps {K : BitVec 24} {a0 : State} {s : State} {m : FormHello} (hS : Keeps K a0 s)
    (hK : 0x240400#24 ||| K = K) : Keeps K a0 (State.formHelloDo s m).1 := by
  unfold State.formHelloDo
  repeat' first
    | (with_reducible assumption) | exact Keeps.sub hK (by decide) | (with_reducible apply State.draw_keeps)
    | (with_reducible refine Keeps.ofSnd (by assumption) ?_; with_reducible apply State.draw_keeps)
    | (with_reducible apply State.meterRestart_keeps) | (with_reducible apply State.setDom_keeps) | split
    | (dsimp only)

theorem State.formDone_keeps {K : BitVec 24} {a0 : State} {s : State} {d : Slot} {f : FormPend} {drs : Bytes} (hS : Keeps K a0 s)
    (hK : 0x700748#24 ||| K = K) : Keeps K a0 (State.formDone s d f drs) := by
  unfold State.formDone
  repeat' first
    | (with_reducible assumption) | exact Keeps.sub hK (by decide) | (with_reducible apply State.agreeDeclared_keeps)
    | (with_reducible apply State.deriveOwn_keeps) | (with_reducible apply State.modDom_keeps)
    | (with_reducible apply State.reissueCert_keeps) | (with_reducible apply State.setDom_keeps)
    | (with_reducible apply State.timeMark_keeps) | (with_reducible apply State.writeRoot_keeps) | split
    | (dsimp only)

theorem State.formFinishDo_keeps {K : BitVec 24} {a0 : State} {s : State} {sigV : Bytes} {kcV : BitVec 128} (hS : Keeps K a0 s)
    (hK : 0x75FF48#24 ||| K = K) : Keeps K a0 (State.formFinishDo s sigV kcV).1 := by
  unfold State.formFinishDo
  repeat' first
    | (with_reducible assumption) | exact Keeps.sub hK (by decide) | (with_reducible apply State.formDone_keeps)
    | (with_reducible apply State.freeSlot_keeps) | split | (dsimp only)

theorem State.opFormTimeout_keeps {K : BitVec 24} {a0 : State} {s : State} {d : Slot} (hS : Keeps K a0 s)
    (hK : 0x75FF48#24 ||| K = K) : Keeps K a0 (State.opFormTimeout s d) := by
  unfold State.opFormTimeout
  repeat' first
    | (with_reducible assumption) | exact Keeps.sub hK (by decide) | (with_reducible apply State.freeSlot_keeps)
    | (with_reducible apply State.out_keeps) | split | (dsimp only)

theorem State.joinTicketDo_keeps {K : BitVec 24} {a0 : State} {s : State} {d : Slot} {member : BitVec 32} {proof : Bytes} (hS : Keeps K a0 s)
    (hK : 0x000400#24 ||| K = K) : Keeps K a0 (State.joinTicketDo s d member proof).1 := by
  unfold State.joinTicketDo
  repeat' first
    | (with_reducible assumption) | exact Keeps.sub hK (by decide) | (with_reducible apply State.modDom_keeps)
    | split | (dsimp only)

theorem State.declareDo_keeps {K : BitVec 24} {a0 : State} {s : State} {d : Slot} {l : LinkId} {x : Decl} (hS : Keeps K a0 s)
    (hK : 0x200600#24 ||| K = K) : Keeps K a0 (State.declareDo s d l x).1 := by
  unfold State.declareDo
  repeat' first
    | (with_reducible assumption) | exact Keeps.sub hK (by decide) | (with_reducible apply State.agreeStart_keeps)
    | (with_reducible apply State.modDom_keeps) | (with_reducible apply State.rosterChange_keeps) | split
    | (dsimp only)

theorem State.linkDeclareDo_keeps {K : BitVec 24} {a0 : State} {s : State} {d : Slot} {l : Byte} {pl : Byte} {partner : BitVec 32} (hS : Keeps K a0 s)
    (hK : 0x200600#24 ||| K = K) : Keeps K a0 (State.linkDeclareDo s d l pl partner).1 := by
  unfold State.linkDeclareDo
  repeat' first
    | (with_reducible assumption) | exact Keeps.sub hK (by decide) | (with_reducible apply State.declareDo_keeps)
    | (with_reducible refine Keeps.ofFst (by assumption) ?_; with_reducible apply State.declareDo_keeps) | split
    | (dsimp only)

theorem State.z2Do_keeps {K : BitVec 24} {a0 : State} {s : State} {d : Slot} {l : LinkId} {node : BitVec 32} {port : LinkId} (hS : Keeps K a0 s)
    (hK : 0x200600#24 ||| K = K) : Keeps K a0 (State.z2Do s d l node port).1 := by
  unfold State.z2Do
  repeat' first
    | (with_reducible assumption) | exact Keeps.sub hK (by decide) | (with_reducible apply State.declareDo_keeps)
    | (with_reducible refine Keeps.ofFst (by assumption) ?_; with_reducible apply State.declareDo_keeps) | split
    | (dsimp only)

theorem State.leaveDo_keeps {K : BitVec 24} {a0 : State} {s : State} {slot : Byte} (hS : Keeps K a0 s)
    (hK : 0x75FF48#24 ||| K = K) : Keeps K a0 (State.leaveDo s slot).1 := by
  unfold State.leaveDo
  repeat' first
    | (with_reducible assumption) | exact Keeps.sub hK (by decide) | (with_reducible apply State.forcedExit_keeps)
    | split | (dsimp only)

theorem State.censusGetDo_keeps {K : BitVec 24} {a0 : State} {s : State} {d : Slot} {hall : Byte} (hS : Keeps K a0 s)
    (hK : 0x000400#24 ||| K = K) : Keeps K a0 (State.censusGetDo s d hall).1 := by
  unfold State.censusGetDo
  repeat' first
    | (with_reducible assumption) | exact Keeps.sub hK (by decide) | (with_reducible apply State.censusIssue_keeps)
    | split | (dsimp only)

theorem State.countStateDo_keeps {K : BitVec 24} {a0 : State} {s : State} {d : Slot} (hS : Keeps K a0 s)
    (hK : 0x000000#24 ||| K = K) : Keeps K a0 (State.countStateDo s d).1 := by
  unfold State.countStateDo
  repeat' first
    | (with_reducible assumption) | exact Keeps.sub hK (by decide) | split | (dsimp only)

theorem State.voteDo_keeps {K : BitVec 24} {a0 : State} {s : State} {b : Bytes} (hS : Keeps K a0 s)
    (hK : 0x75A740#24 ||| K = K) : Keeps K a0 (State.voteDo s b).1 := by
  unfold State.voteDo
  repeat' first
    | (with_reducible assumption) | exact Keeps.sub hK (by decide) | (with_reducible apply State.countEnd_keeps)
    | (with_reducible apply State.modDom_keeps) | split | (dsimp only)

theorem State.advance_keeps {K : BitVec 24} {a0 : State} {s : State} {d : Slot} (hS : Keeps K a0 s)
    (hK : 0x75BF48#24 ||| K = K) : Keeps K a0 (State.advance s d) := by
  unfold State.advance
  repeat' first
    | (with_reducible assumption) | exact Keeps.sub hK (by decide) | (with_reducible apply State.agreeDeclared_keeps)
    | (with_reducible apply State.deriveOwn_keeps) | (with_reducible apply State.domEvent_keeps)
    | (with_reducible apply State.eraseRow_keeps) | (with_reducible apply State.handDown_keeps)
    | (with_reducible apply State.invalidateKey_keeps) | (with_reducible apply State.modDom_keeps)
    | (with_reducible apply State.reissueCert_keeps) | (with_reducible apply State.tc0Send_keeps)
    | (with_reducible refine Keeps.foldl ?_ (fun _ _ _ => ?_)) | split | (dsimp only)

theorem State.epochDo_keeps {K : BitVec 24} {a0 : State} {s : State} {b : Bytes} (hS : Keeps K a0 s)
    (hK : 0x75BF48#24 ||| K = K) : Keeps K a0 (State.epochDo s b).1 := by
  unfold State.epochDo
  repeat' first
    | (with_reducible assumption) | exact Keeps.sub hK (by decide) | (with_reducible apply State.advance_keeps)
    | split | (dsimp only)

end Sys2Proof.Machine
end

