-- ==== Sys2Proof/Laws/FrameEngines.lean ====
section
/-! SUPPORT. The frame of each operation of Sys2Proof/Machine/Engines.lean. -/

namespace Sys2Proof.Machine

set_option Elab.async false

theorem State.fillLines_keeps {K : BitVec 24} {a0 : State} {s : State} {x : Cmd} {t : Trans} {p : Line} {z4 : Nat} {z5 : Nat} (hS : Keeps K a0 s)
    (hK : 0x552340#24 ||| K = K) : Keeps K a0 (State.fillLines s x t p z4 z5).1 := by
  induction z4 generalizing s x t p z5 with
  | zero =>
    unfold State.fillLines
    repeat' first
      | (with_reducible assumption) | exact Keeps.sub hK (by decide) | (with_reducible apply State.progress_keeps)
      | (with_reducible apply State.putLine_keeps)
      | (with_reducible refine Keeps.ofFst (by assumption) ?_; with_reducible apply State.putLine_keeps) | split
      | (dsimp only)
  | succ m ih =>
    unfold State.fillLines
    repeat' first
      | (with_reducible assumption) | exact Keeps.sub hK (by decide) | (with_reducible apply ih)
      | (with_reducible refine Keeps.ofFst (by assumption) ?_; with_reducible apply ih)
      | (with_reducible apply State.progress_keeps) | (with_reducible apply State.putLine_keeps)
      | (with_reducible refine Keeps.ofFst (by assumption) ?_; with_reducible apply State.putLine_keeps) | split
      | (dsimp only) | (cases Nat.succ.inj ‹_ + 1 = Nat.succ _›)

theorem State.copyLines_keeps {K : BitVec 24} {a0 : State} {s : State} {x : Cmd} {dst : Trans} {src : Trans} {z4 : Nat} {z5 : Nat} {z6 : List McRsp} (hS : Keeps K a0 s)
    (hK : 0x552342#24 ||| K = K) : Keeps K a0 (State.copyLines s x dst src z4 z5 z6).1 := by
  induction z4 generalizing s x dst src z5 z6 with
  | zero =>
    unfold State.copyLines
    repeat' first
      | (with_reducible assumption) | exact Keeps.sub hK (by decide) | (with_reducible apply State.getLine_keeps)
      | (with_reducible refine Keeps.ofFst (by assumption) ?_; with_reducible apply State.getLine_keeps)
      | (with_reducible apply State.progress_keeps) | (with_reducible apply State.putLine_keeps)
      | (with_reducible refine Keeps.ofFst (by assumption) ?_; with_reducible apply State.putLine_keeps) | split
      | (dsimp only)
  | succ m ih =>
    unfold State.copyLines
    repeat' first
      | (with_reducible assumption) | exact Keeps.sub hK (by decide) | (with_reducible apply ih)
      | (with_reducible refine Keeps.ofFst (by assumption) ?_; with_reducible apply ih)
      | (with_reducible apply State.getLine_keeps)
      | (with_reducible refine Keeps.ofFst (by assumption) ?_; with_reducible apply State.getLine_keeps)
      | (with_reducible apply State.progress_keeps) | (with_reducible apply State.putLine_keeps)
      | (with_reducible refine Keeps.ofFst (by assumption) ?_; with_reducible apply State.putLine_keeps) | split
      | (dsimp only) | (cases Nat.succ.inj ‹_ + 1 = Nat.succ _›)

theorem State.engineRow_keeps {K : BitVec 24} {a0 : State} {s : State} {c : CtxId} {q : BitVec 3} {k : Word} {op : BitVec 16} {f : Cmd → State} (hS : Keeps K a0 s) (hFf : ∀ y0, Keeps K a0 (f y0))
    (hK : 0x002000#24 ||| K = K) : Keeps K a0 (State.engineRow s c q k op f) := by
  unfold State.engineRow
  repeat' first
    | (with_reducible assumption) | exact Keeps.sub hK (by decide) | (with_reducible apply hFf)
    | (with_reducible apply State.cmdResult_keeps) | exact Keeps.Opt.none | (with_reducible refine Keeps.Opt.some ?_)
    | split | (dsimp only)

theorem State.opFill_keeps {K : BitVec 24} {a0 : State} {s : State} {c : CtxId} {k : Word} (hS : Keeps K a0 s)
    (hK : 0x55A340#24 ||| K = K) : Keeps K a0 (State.opFill s c k) := by
  unfold State.opFill
  repeat' first
    | (with_reducible assumption) | exact Keeps.sub hK (by decide) | (with_reducible apply State.accessEnd_keeps)
    | (with_reducible apply State.engineRow_keeps) | (with_reducible apply State.fillLines_keeps)
    | (with_reducible refine Keeps.ofFst (by assumption) ?_; with_reducible apply State.fillLines_keeps) | split
    | (dsimp only) | intro _

theorem State.opCopy_keeps {K : BitVec 24} {a0 : State} {s : State} {c : CtxId} {k : Word} {rsps : List McRsp} (hS : Keeps K a0 s)
    (hK : 0x55A342#24 ||| K = K) : Keeps K a0 (State.opCopy s c k rsps) := by
  unfold State.opCopy
  repeat' first
    | (with_reducible assumption) | exact Keeps.sub hK (by decide) | (with_reducible apply State.accessEnd_keeps)
    | (with_reducible apply State.copyLines_keeps)
    | (with_reducible refine Keeps.ofFst (by assumption) ?_; with_reducible apply State.copyLines_keeps)
    | (with_reducible apply State.engineRow_keeps) | (with_reducible apply State.fabFetch_keeps)
    | (with_reducible refine Keeps.ofOpt (by assumption) ?_; with_reducible apply State.fabFetch_keeps)
    | exact Keeps.Opt.none | (with_reducible refine Keeps.Opt.some ?_) | split | (dsimp only) | intro _

theorem State.csNote_keeps {K : BitVec 24} {a0 : State} {s : State} {c : CtxId} {lanes : Nat} {n : Nat} (hS : Keeps K a0 s)
    (hK : 0x052000#24 ||| K = K) : Keeps K a0 (State.csNote s c lanes n) := by
  unfold State.csNote
  repeat' first
    | (with_reducible assumption) | exact Keeps.sub hK (by decide) | (with_reducible apply State.activity_keeps)
    | (with_reducible apply State.progressBy_keeps) | split | (dsimp only)

theorem State.csKeyRead_keeps {K : BitVec 24} {a0 : State} {s : State} {c : CtxId} {x : Cmd} {key : Trans} {rsps : List McRsp} (hS : Keeps K a0 s)
    (hK : 0x552302#24 ||| K = K) : Keeps K a0 (State.csKeyRead s c x key rsps).1 := by
  unfold State.csKeyRead
  repeat' first
    | (with_reducible assumption) | exact Keeps.sub hK (by decide) | (with_reducible apply State.getRange_keeps)
    | (with_reducible refine Keeps.ofFst (by assumption) ?_; with_reducible apply State.getRange_keeps)
    | (with_reducible apply State.modCmd_keeps) | split | (dsimp only)

theorem State.csAes_keeps {K : BitVec 24} {a0 : State} {s : State} {c : CtxId} {k : Word} {op : BitVec 16} {f : Bytes → Bytes → Bytes} {rsps : List McRsp} (hS : Keeps K a0 s)
    (hK : 0x55A342#24 ||| K = K) : Keeps K a0 (State.csAes s c k op f rsps) := by
  unfold State.csAes
  repeat' first
    | (with_reducible assumption) | exact Keeps.sub hK (by decide) | (with_reducible apply State.accessEnd_keeps)
    | (with_reducible apply State.csKeyRead_keeps)
    | (with_reducible refine Keeps.ofFst (by assumption) ?_; with_reducible apply State.csKeyRead_keeps)
    | (with_reducible apply State.csNote_keeps) | (with_reducible apply State.engineRow_keeps)
    | (with_reducible apply State.fabFetch_keeps)
    | (with_reducible refine Keeps.ofOpt (by assumption) ?_; with_reducible apply State.fabFetch_keeps)
    | (with_reducible apply State.getRange_keeps)
    | (with_reducible refine Keeps.ofFst (by assumption) ?_; with_reducible apply State.getRange_keeps)
    | (with_reducible apply State.putRange_keeps)
    | (with_reducible refine Keeps.ofFst (by assumption) ?_; with_reducible apply State.putRange_keeps)
    | exact Keeps.Opt.none | (with_reducible refine Keeps.Opt.some ?_) | split | (dsimp only) | intro _

theorem State.csGhashRow_keeps {K : BitVec 24} {a0 : State} {s : State} {c : CtxId} {k : Word} {rsps : List McRsp} (hS : Keeps K a0 s)
    (hK : 0x55A342#24 ||| K = K) : Keeps K a0 (State.csGhashRow s c k rsps) := by
  unfold State.csGhashRow
  repeat' first
    | (with_reducible assumption) | exact Keeps.sub hK (by decide) | (with_reducible apply State.accessEnd_keeps)
    | (with_reducible apply State.cmdResult_keeps) | (with_reducible apply State.csNote_keeps)
    | (with_reducible apply State.engineRow_keeps) | (with_reducible apply State.fabFetch_keeps)
    | (with_reducible refine Keeps.ofOpt (by assumption) ?_; with_reducible apply State.fabFetch_keeps)
    | (with_reducible apply State.getRange_keeps)
    | (with_reducible refine Keeps.ofFst (by assumption) ?_; with_reducible apply State.getRange_keeps)
    | (with_reducible apply State.putRange_keeps)
    | (with_reducible refine Keeps.ofFst (by assumption) ?_; with_reducible apply State.putRange_keeps)
    | exact Keeps.Opt.none | (with_reducible refine Keeps.Opt.some ?_) | split | (dsimp only) | intro _

end Sys2Proof.Machine
end

