-- ==== Sys2Proof/Laws/FrameFabric.lean ====
section
/-! SUPPORT. The frame of each operation of Sys2Proof/Machine/Fabric.lean. -/

namespace Sys2Proof.Machine

set_option Elab.async false

theorem State.opAccess_keeps {K : BitVec 24} {a0 : State} {s : State} {c : CtxId} {va : BitVec 64} {write : Bool} {mask : BitVec 64} {data : Line} {atomic : Bool} (hS : Keeps K a0 s)
    (hK : 0x400200#24 ||| K = K) : Keeps K a0 (State.opAccess s c va write mask data atomic) := by
  unfold State.opAccess
  repeat' first
    | (with_reducible assumption) | exact Keeps.sub hK (by decide) | (with_reducible apply State.fabIssue_keeps)
    | (with_reducible refine Keeps.ofFst (by assumption) ?_; with_reducible apply State.fabIssue_keeps)
    | (with_reducible apply State.out_keeps) | (with_reducible refine Keeps.getD ?_ ?_) | split | (dsimp only)

theorem State.opResponse_keeps {K : BitVec 24} {a0 : State} {s : State} {l : LinkId} {r : FabRec} (hS : Keeps K a0 s)
    (hK : 0x50A200#24 ||| K = K) : Keeps K a0 (State.opResponse s l r) := by
  unfold State.opResponse
  repeat' first
    | (with_reducible assumption) | exact Keeps.sub hK (by decide) | (with_reducible apply State.fabEnd_keeps)
    | (with_reducible apply State.fabPump_keeps) | (with_reducible apply State.setLink_keeps) | split | (dsimp only)

theorem State.fabDrop_keeps {K : BitVec 24} {a0 : State} {s : State} {w : FabRecWait} (hS : Keeps K a0 s)
    (hK : 0x001000#24 ||| K = K) : Keeps K a0 (State.fabDrop s w) := by
  unfold State.fabDrop
  repeat' first
    | (with_reducible assumption) | exact Keeps.sub hK (by decide) | split | (dsimp only)
    | (fail_if_no_progress refine Keeps.put ?_)

theorem State.fabAnswer_keeps {K : BitVec 24} {a0 : State} {s : State} {w : FabRecWait} {st : BitVec 4} {data : Line} (hS : Keeps K a0 s)
    (hK : 0x011200#24 ||| K = K) : Keeps K a0 (State.fabAnswer s w st data) := by
  unfold State.fabAnswer
  repeat' first
    | (with_reducible assumption) | exact Keeps.sub hK (by decide) | (with_reducible apply State.fabDrop_keeps)
    | (with_reducible apply State.fabRespond_keeps) | split | (dsimp only)

theorem State.fabHeldPump_keeps {K : BitVec 24} {a0 : State} {z0 : Nat} {z1 : State} (hS : Keeps K a0 z1)
    (hK : 0x401200#24 ||| K = K) : Keeps K a0 (State.fabHeldPump z0 z1) := by
  induction z0 generalizing z1 with
  | zero =>
    unfold State.fabHeldPump
    repeat' first
      | (with_reducible assumption) | exact Keeps.sub hK (by decide)
      | (with_reducible apply State.fabTakeGroup_keeps) | (with_reducible apply State.modLink_keeps)
      | (with_reducible refine Keeps.foldl ?_ (fun _ _ _ => ?_)) | split | (dsimp only)
  | succ m ih =>
    unfold State.fabHeldPump
    repeat' first
      | (with_reducible assumption) | exact Keeps.sub hK (by decide) | (with_reducible apply ih)
      | (with_reducible apply State.fabTakeGroup_keeps) | (with_reducible apply State.modLink_keeps)
      | (with_reducible refine Keeps.foldl ?_ (fun _ _ _ => ?_)) | split | (dsimp only)
      | (cases Nat.succ.inj ‹_ + 1 = Nat.succ _›)

theorem State.opRequest_keeps {K : BitVec 24} {a0 : State} {s : State} {rsp : McRsp} (hS : Keeps K a0 s)
    (hK : 0x553342#24 ||| K = K) : Keeps K a0 (State.opRequest s rsp) := by
  unfold State.opRequest
  repeat' first
    | (with_reducible assumption) | exact Keeps.sub hK (by decide) | (with_reducible apply State.fabAnswer_keeps)
    | (with_reducible apply State.fabDrop_keeps) | (with_reducible apply State.fabEvent_keeps)
    | (with_reducible apply State.fabHeldPump_keeps) | (with_reducible apply State.memPut_keeps)
    | (with_reducible refine Keeps.ofFst (by assumption) ?_; with_reducible apply State.memPut_keeps)
    | (with_reducible apply State.readNow_keeps)
    | (with_reducible refine Keeps.ofFst (by assumption) ?_; with_reducible apply State.readNow_keeps) | split
    | (dsimp only) | (fail_if_no_progress refine Keeps.put ?_)

theorem State.cacheFill_keeps {K : BitVec 24} {a0 : State} {s : State} {d : Slot} {line : ℕ} {p : Line} (hS : Keeps K a0 s)
    (hK : 0x001000#24 ||| K = K) : Keeps K a0 (State.cacheFill s d line p) := by
  unfold State.cacheFill
  refine Keeps.put hS (c12 := fun h => Tab.wf_foldl none _ _ (fun t i w => Tab.wf_set _ _ _ _ w) _ ?_)
  split
  · exact Tab.wf_drop _ _ _ h
  · exact h


theorem State.opTableLine_keeps {K : BitVec 24} {a0 : State} {s : State} {d : Slot} {line : BitVec 19} {rsp : McRsp} (hS : Keeps K a0 s)
    (hK : 0x553302#24 ||| K = K) : Keeps K a0 (State.opTableLine s d line rsp) := by
  unfold State.opTableLine
  repeat' first
    | (with_reducible assumption) | exact Keeps.sub hK (by decide) | (with_reducible apply State.cacheFill_keeps)
    | (with_reducible apply State.fabAnswer_keeps) | (with_reducible apply State.fabEvent_keeps)
    | (with_reducible apply State.fabHeldPump_keeps) | (with_reducible apply State.readNow_keeps)
    | (with_reducible refine Keeps.ofFst (by assumption) ?_; with_reducible apply State.readNow_keeps)
    | (with_reducible refine Keeps.foldl ?_ (fun _ _ _ => ?_)) | split | (dsimp only)
    | (fail_if_no_progress refine Keeps.put ?_)

theorem State.entryWrite_keeps {K : BitVec 24} {a0 : State} {s : State} {d : Slot} {page : Nat} {e : BitVec 128} (hS : Keeps K a0 s)
    (hK : 0x553340#24 ||| K = K) : Keeps K a0 (State.entryWrite s d page e).1 := by
  unfold State.entryWrite
  repeat' first
    | (with_reducible assumption) | exact Keeps.sub hK (by decide) | (with_reducible apply State.memAccept_keeps)
    | (with_reducible apply State.memRefusal_keeps)
    | (with_reducible refine Keeps.ofOpt2 (by assumption) ?_; with_reducible apply State.memRefusal_keeps) | split
    | (dsimp only) | (fail_if_no_progress refine Keeps.put ?_)

theorem State.fabMapDo_keeps {K : BitVec 24} {a0 : State} {s : State} {d : Slot} {page : BitVec 32} {e : BitVec 128} (hS : Keeps K a0 s)
    (hK : 0x553340#24 ||| K = K) : Keeps K a0 (State.fabMapDo s d page e).1 := by
  unfold State.fabMapDo
  repeat' first
    | (with_reducible assumption) | exact Keeps.sub hK (by decide) | (with_reducible apply State.entryWrite_keeps)
    | (with_reducible refine Keeps.ofFst (by assumption) ?_; with_reducible apply State.entryWrite_keeps) | split
    | (dsimp only)

theorem State.fabUnmapDo_keeps {K : BitVec 24} {a0 : State} {s : State} {d : Slot} {page : BitVec 32} (hS : Keeps K a0 s)
    (hK : 0x553340#24 ||| K = K) : Keeps K a0 (State.fabUnmapDo s d page).1 := by
  unfold State.fabUnmapDo
  repeat' first
    | (with_reducible assumption) | exact Keeps.sub hK (by decide) | (with_reducible apply State.entryWrite_keeps)
    | (with_reducible refine Keeps.ofFst (by assumption) ?_; with_reducible apply State.entryWrite_keeps) | split
    | (dsimp only)

theorem State.opTblSetup_keeps {K : BitVec 24} {a0 : State} {s : State} {d : Slot} {base : Word} {key : KeyIdx} {pages : BitVec 22} (hS : Keeps K a0 s)
    (hK : 0x001400#24 ||| K = K) : Keeps K a0 (State.opTblSetup s d base key pages) := by
  unfold State.opTblSetup
  repeat' first
    | (with_reducible assumption) | exact Keeps.sub hK (by decide) | (with_reducible apply State.freeFabric_keeps)
    | (with_reducible apply State.modDom_keeps) | split | (dsimp only)

end Sys2Proof.Machine
end

