-- ==== Sys2Proof/Laws/FrameFrontEnd.lean ====
section
/-! SUPPORT. The frame of each operation of Sys2Proof/Machine/FrontEnd.lean. -/

namespace Sys2Proof.Machine

set_option Elab.async false

theorem State.opSqTail_keeps {K : BitVec 24} {a0 : State} {s : State} {f : Fn} {loc : BitVec 6} {q : BitVec 3} {tail : Word} (hS : Keeps K a0 s)
    (hK : 0x002000#24 ||| K = K) : Keeps K a0 (State.opSqTail s f loc q tail) := by
  unfold State.opSqTail
  repeat' first
    | (with_reducible assumption) | exact Keeps.sub hK (by decide) | (with_reducible apply State.sqTail_keeps)
    | split | (dsimp only)

theorem State.opCqHead_keeps {K : BitVec 24} {a0 : State} {s : State} {f : Fn} {loc : BitVec 6} {head : Word} (hS : Keeps K a0 s)
    (hK : 0x502000#24 ||| K = K) : Keeps K a0 (State.opCqHead s f loc head) := by
  unfold State.opCqHead
  repeat' first
    | (with_reducible assumption) | exact Keeps.sub hK (by decide) | (with_reducible apply State.cqHead_keeps)
    | split | (dsimp only)

theorem State.opCompletion_keeps {K : BitVec 24} {a0 : State} {s : State} {c : CtxId} {q : BitVec 3} {k : Word} (hS : Keeps K a0 s)
    (hK : 0x542040#24 ||| K = K) : Keeps K a0 (State.opCompletion s c q k) := by
  unfold State.opCompletion
  repeat' first
    | (with_reducible assumption) | exact Keeps.sub hK (by decide) | (with_reducible apply State.busyNote_keeps)
    | (with_reducible apply State.csMeter_keeps) | (with_reducible apply State.dmaGoneIf_keeps)
    | (with_reducible apply State.drainCheck_keeps) | (with_reducible apply State.objSettle_keeps)
    | (with_reducible apply State.recDone_keeps) | (with_reducible apply State.stgRoll_keeps)
    | (with_reducible apply State.taintClear_keeps) | split | (dsimp only)
    | (fail_if_no_progress refine Keeps.put ?_)

theorem State.rearmCtx_keeps {K : BitVec 24} {a0 : State} {s : State} {c : CtxId} (hS : Keeps K a0 s)
    (hK : 0x002000#24 ||| K = K) : Keeps K a0 (State.rearmCtx s c) := by
  unfold State.rearmCtx
  repeat' first
    | (with_reducible assumption) | exact Keeps.sub hK (by decide) | (with_reducible apply State.setCtx_keeps)
    | split | (dsimp only)

theorem State.opRearm_keeps {K : BitVec 24} {a0 : State} {s : State} {f : Fn} {loc : BitVec 6} (hS : Keeps K a0 s)
    (hK : 0x002000#24 ||| K = K) : Keeps K a0 (State.opRearm s f loc) := by
  unfold State.opRearm
  repeat' first
    | (with_reducible assumption) | exact Keeps.sub hK (by decide) | (with_reducible apply State.rearmCtx_keeps)
    | split | (dsimp only)

theorem State.cancelCmd_keeps {K : BitVec 24} {a0 : State} {s : State} {y : Cmd} (hS : Keeps K a0 s)
    (hK : 0x10A200#24 ||| K = K) : Keeps K a0 (State.cancelCmd s y) := by
  unfold State.cancelCmd
  repeat' first
    | (with_reducible assumption) | exact Keeps.sub hK (by decide) | (with_reducible apply State.cmdResult_keeps)
    | (with_reducible apply State.faultIter_keeps) | (with_reducible apply State.modCmd_keeps) | split | (dsimp only)

theorem State.opCancel1_keeps {K : BitVec 24} {a0 : State} {s : State} {c : CtxId} {k : Word} (hS : Keeps K a0 s)
    (hK : 0x10A200#24 ||| K = K) : Keeps K a0 (State.opCancel1 s c k) := by
  unfold State.opCancel1
  repeat' first
    | (with_reducible assumption) | exact Keeps.sub hK (by decide) | (with_reducible apply State.cancelCmd_keeps)
    | (with_reducible apply State.cmdResult_keeps) | (with_reducible apply State.modCtx_keeps) | split | (dsimp only)

theorem State.opCreate_keeps {K : BitVec 24} {a0 : State} {s : State} {c : CtxId} {k : Word} (hS : Keeps K a0 s)
    (hK : 0x002000#24 ||| K = K) : Keeps K a0 (State.opCreate s c k) := by
  unfold State.opCreate
  repeat' first
    | (with_reducible assumption) | exact Keeps.sub hK (by decide) | (with_reducible apply State.cmdResult_keeps)
    | (with_reducible apply State.createCtx_keeps) | split | (dsimp only)

theorem State.opDestroy_keeps {K : BitVec 24} {a0 : State} {s : State} {c : CtxId} {k : Word} (hS : Keeps K a0 s)
    (hK : 0x55A340#24 ||| K = K) : Keeps K a0 (State.opDestroy s c k) := by
  unfold State.opDestroy
  repeat' first
    | (with_reducible assumption) | exact Keeps.sub hK (by decide) | (with_reducible apply State.cmdResult_keeps)
    | (with_reducible apply State.destroyCtx_keeps) | split | (dsimp only)

theorem State.opMap_keeps {K : BitVec 24} {a0 : State} {s : State} {c : CtxId} {k : Word} (hS : Keeps K a0 s)
    (hK : 0x202000#24 ||| K = K) : Keeps K a0 (State.opMap s c k) := by
  unfold State.opMap
  repeat' first
    | (with_reducible assumption) | exact Keeps.sub hK (by decide) | (with_reducible apply State.cmdResult_keeps)
    | (with_reducible apply State.objMapDo_keeps) | split | (dsimp only)

theorem State.opUnmap_keeps {K : BitVec 24} {a0 : State} {s : State} {c : CtxId} {k : Word} (hS : Keeps K a0 s)
    (hK : 0x002000#24 ||| K = K) : Keeps K a0 (State.opUnmap s c k) := by
  unfold State.opUnmap
  repeat' first
    | (with_reducible assumption) | exact Keeps.sub hK (by decide) | (with_reducible apply State.cmdResult_keeps)
    | (with_reducible apply State.modCmd_keeps) | (with_reducible apply State.objSettle_keeps)
    | (with_reducible apply State.unmapObj_keeps) | split | (dsimp only)

theorem State.opNop1_keeps {K : BitVec 24} {a0 : State} {s : State} {c : CtxId} {k : Word} (hS : Keeps K a0 s)
    (hK : 0x002000#24 ||| K = K) : Keeps K a0 (State.opNop1 s c k) := by
  unfold State.opNop1
  repeat' first
    | (with_reducible assumption) | exact Keeps.sub hK (by decide) | (with_reducible apply State.cmdResult_keeps)
    | split | (dsimp only)

end Sys2Proof.Machine
end

