-- ==== Sys2Proof/Laws/FrameFaults.lean ====
section
/-! SUPPORT. The frame of each operation of Sys2Proof/Machine/Faults.lean. -/

namespace Sys2Proof.Machine

set_option Elab.async false

theorem State.sampleEngine_keeps {K : BitVec 24} {a0 : State} {s : State} {e : Nat} (hS : Keeps K a0 s)
    (hK : 0x010000#24 ||| K = K) : Keeps K a0 (State.sampleEngine s e) := by
  unfold State.sampleEngine
  repeat' first
    | (with_reducible assumption) | exact Keeps.sub hK (by decide) | (with_reducible apply State.modEng_keeps)
    | split | (dsimp only)

theorem State.opSample_keeps {K : BitVec 24} {a0 : State} {s : State} (hS : Keeps K a0 s)
    (hK : 0x010000#24 ||| K = K) : Keeps K a0 (State.opSample s) := by
  unfold State.opSample
  repeat' first
    | (with_reducible assumption) | exact Keeps.sub hK (by decide) | (with_reducible apply State.sampleEngine_keeps)
    | (with_reducible refine Keeps.foldl ?_ (fun _ _ _ => ?_)) | split | (dsimp only)

theorem State.unattributed_keeps {K : BitVec 24} {a0 : State} {s : State} {e : Nat} {role : Option (BitVec 1)} (hS : Keeps K a0 s)
    (hK : 0x7FFFDF#24 ||| K = K) : Keeps K a0 (State.unattributed s e role) := by
  unfold State.unattributed
  repeat' first
    | (with_reducible assumption) | exact Keeps.sub hK (by decide) | (with_reducible apply State.fullStop_keeps)
    | (with_reducible apply State.modEng_keeps) | split | (dsimp only)

theorem State.stallTrace_keeps {K : BitVec 24} {a0 : State} {s : State} {e : Nat} {verdict : Nat} (hS : Keeps K a0 s)
    (hK : 0x100000#24 ||| K = K) : Keeps K a0 (State.stallTrace s e verdict) := by
  unfold State.stallTrace
  repeat' first
    | (with_reducible assumption) | exact Keeps.sub hK (by decide) | (with_reducible apply State.trace_keeps) | split
    | (dsimp only)

theorem State.replayStart_keeps {K : BitVec 24} {a0 : State} {s : State} {e : EngineId} {role : Option (BitVec 1)} (hS : Keeps K a0 s)
    (hK : 0x7FFFDF#24 ||| K = K) : Keeps K a0 (State.replayStart s e role) := by
  unfold State.replayStart
  repeat' first
    | (with_reducible assumption) | exact Keeps.sub hK (by decide) | (with_reducible apply State.modEng_keeps)
    | (with_reducible apply State.semicolon_keeps) | (with_reducible apply State.stallTrace_keeps)
    | (with_reducible apply State.unattributed_keeps) | split | (dsimp only)
    | (fail_if_no_progress refine Keeps.put ?_)

theorem State.stall_keeps {K : BitVec 24} {a0 : State} {s : State} {e : EngineId} {role : Option (BitVec 1)} (hS : Keeps K a0 s)
    (hK : 0x7FFFDF#24 ||| K = K) : Keeps K a0 (State.stall s e role) := by
  unfold State.stall
  repeat' first
    | (with_reducible assumption) | exact Keeps.sub hK (by decide) | (with_reducible apply State.fltEvent_keeps)
    | (with_reducible apply State.fullStop_keeps) | (with_reducible apply State.modEng_keeps)
    | (with_reducible apply State.record_keeps) | (with_reducible apply State.replayStart_keeps)
    | (with_reducible apply State.semicolon_keeps) | (with_reducible apply State.stallTrace_keeps)
    | (with_reducible apply State.unattributed_keeps) | split | (dsimp only)

theorem State.dryRow_keeps {K : BitVec 24} {a0 : State} {s : State} {x : Cmd} {a : DryAnswers} (hS : Keeps K a0 s)
    (hK : 0x75A342#24 ||| K = K) : Keeps K a0 (State.dryRow s x a) := by
  unfold State.dryRow
  repeat' first
    | (with_reducible assumption) | exact Keeps.sub hK (by decide) | (with_reducible apply State.csAes_keeps)
    | (with_reducible apply State.csGhashRow_keeps) | (with_reducible apply State.opCopy_keeps)
    | (with_reducible apply State.opFill_keeps) | (with_reducible apply State.opIn_keeps)
    | (with_reducible apply State.opOut_keeps) | (with_reducible apply State.stgAsk_keeps) | split | (dsimp only)
    | (fail_if_no_progress refine Keeps.put ?_)

theorem State.dryKeep_keeps {K : BitVec 24} {a0 : State} {s : State} {u : State} {x : Cmd} (hS : Keeps K a0 s)
    (hK : 0x610040#24 ||| K = K) : Keeps K a0 (State.dryKeep s u x) := by
  unfold State.dryKeep
  repeat' first
    | (with_reducible assumption) | exact Keeps.sub hK (by decide) | (with_reducible apply State.progress_keeps)
    | (with_reducible apply State.setRow_keeps) | split | (dsimp only) | (fail_if_no_progress refine Keeps.put ?_)

theorem State.dryRuns_keeps {K : BitVec 24} {a0 : State} {z0 : List Cmd} {z1 : List DryAnswers} {z2 : State}
    (hS : Keeps K a0 z2) (hK : 0x610040#24 ||| K = K) : Keeps K a0 (State.dryRuns z0 z1 z2) := by
  induction z0 generalizing z1 z2 with
  | nil => unfold State.dryRuns; exact hS
  | cons y ys ih =>
    cases z1 with
    | nil => unfold State.dryRuns; exact hS
    | cons b bs => rw [State.dryRuns]; exact ih (State.dryKeep_keeps hS hK)


theorem State.dryReplay_keeps {K : BitVec 24} {a0 : State} {s : State} {e : EngineId} {c : CtxId} {answers : List DryAnswers} (hS : Keeps K a0 s)
    (hK : 0x612040#24 ||| K = K) : Keeps K a0 (State.dryReplay s e c answers) := by
  unfold State.dryReplay
  repeat' first
    | (with_reducible assumption) | exact Keeps.sub hK (by decide) | (with_reducible apply State.dryRuns_keeps)
    | split | (dsimp only) | (fail_if_no_progress refine Keeps.put ?_)

theorem State.replayNext_keeps {K : BitVec 24} {a0 : State} {s : State} {e : EngineId} {guilty : Bool} {role : Option (BitVec 1)} (hS : Keeps K a0 s)
    (hK : 0x7FFFDF#24 ||| K = K) : Keeps K a0 (State.replayNext s e guilty role) := by
  unfold State.replayNext
  repeat' first
    | (with_reducible assumption) | exact Keeps.sub hK (by decide) | (with_reducible apply State.modEng_keeps)
    | (with_reducible apply State.stallTrace_keeps) | (with_reducible apply State.unattributed_keeps) | split
    | (dsimp only) | (fail_if_no_progress refine Keeps.put ?_)

theorem State.replayGuilty_keeps {K : BitVec 24} {a0 : State} {s : State} {e : EngineId} {answers : List DryAnswers} (hS : Keeps K a0 s)
    (hK : 0x7FFFDF#24 ||| K = K) : Keeps K a0 (State.replayGuilty s e answers) := by
  unfold State.replayGuilty
  repeat' first
    | (with_reducible assumption) | exact Keeps.sub hK (by decide) | (with_reducible apply State.dryReplay_keeps)
    | (with_reducible apply State.fltEvent_keeps) | (with_reducible apply State.modCtx_keeps)
    | (with_reducible apply State.modEng_keeps) | (with_reducible apply State.replayNext_keeps)
    | (with_reducible apply State.semicolonWork_keeps) | split | (dsimp only)

theorem State.replayCleared_keeps {K : BitVec 24} {a0 : State} {s : State} {e : EngineId} {answers : List DryAnswers} (hS : Keeps K a0 s)
    (hK : 0x7FFFDF#24 ||| K = K) : Keeps K a0 (State.replayCleared s e answers) := by
  unfold State.replayCleared
  repeat' first
    | (with_reducible assumption) | exact Keeps.sub hK (by decide) | (with_reducible apply State.dryReplay_keeps)
    | (with_reducible apply State.replayNext_keeps) | split | (dsimp only)

theorem State.watchdog_keeps {K : BitVec 24} {a0 : State} {s : State} {level : BitVec 3} {target : BitVec 10} {role : Option (BitVec 1)} (hS : Keeps K a0 s)
    (hK : 0x7FFFDF#24 ||| K = K) : Keeps K a0 (State.watchdog s level target role) := by
  unfold State.watchdog
  repeat' first
    | (with_reducible assumption) | exact Keeps.sub hK (by decide) | (with_reducible apply State.escalate_keeps)
    | split | (dsimp only)

theorem State.coreMismatch_keeps {K : BitVec 24} {a0 : State} {s : State} {role : Option (BitVec 1)} (hS : Keeps K a0 s)
    (hK : 0x7FFFDF#24 ||| K = K) : Keeps K a0 (State.coreMismatch s role) := by
  unfold State.coreMismatch
  repeat' first
    | (with_reducible assumption) | exact Keeps.sub hK (by decide) | (with_reducible apply State.blackStop_keeps)
    | (with_reducible apply State.fullStop_keeps) | split | (dsimp only)

theorem State.newRun_keeps {K : BitVec 24} {a0 : State} {s : State} (hS : Keeps K a0 s)
    (hK : 0x0C0000#24 ||| K = K) : Keeps K a0 (State.newRun s) := by
  unfold State.newRun
  repeat' first
    | (with_reducible assumption) | exact Keeps.sub hK (by decide) | (with_reducible apply State.meterRestart_keeps)
    | (with_reducible apply State.modMtr_keeps) | (with_reducible refine Keeps.foldl ?_ (fun _ _ _ => ?_)) | split
    | (dsimp only) | (fail_if_no_progress refine Keeps.put ?_)

theorem State.sramError_keeps {K : BitVec 24} {a0 : State} {s : State} {e : Option Nat} {meterSram : Bool} {role : Option (BitVec 1)} (hS : Keeps K a0 s)
    (hK : 0x7FFFDF#24 ||| K = K) : Keeps K a0 (State.sramError s e meterSram role) := by
  unfold State.sramError
  repeat' first
    | (with_reducible assumption) | exact Keeps.sub hK (by decide) | (with_reducible apply State.fullStop_keeps)
    | (with_reducible apply State.newRun_keeps) | (with_reducible apply State.record_keeps)
    | (with_reducible apply State.semicolon_keeps) | split | (dsimp only)

end Sys2Proof.Machine
end

