-- ==== Sys2Proof/Laws/FrameIsland.lean ====
section
/-! SUPPORT. The frame of each operation of Sys2Proof/Machine/Island.lean. -/

namespace Sys2Proof.Machine

set_option Elab.async false

theorem State.zeroise_keeps {K : BitVec 24} {a0 : State} {s : State} (hS : Keeps K a0 s)
    (hK : 0x080000#24 ||| K = K) : Keeps K a0 (State.zeroise s) := by
  unfold State.zeroise
  repeat' first
    | (with_reducible assumption) | exact Keeps.sub hK (by decide) | split | (dsimp only)
    | (fail_if_no_progress refine Keeps.put ?_)

theorem State.causeRecord_keeps {K : BitVec 24} {a0 : State} {s : State} {is : List (BitVec 2)} (hS : Keeps K a0 s)
    (hK : 0x080000#24 ||| K = K) : Keeps K a0 (State.causeRecord s is) := by
  unfold State.causeRecord
  repeat' first
    | (with_reducible assumption) | exact Keeps.sub hK (by decide)
    | (with_reducible refine Keeps.foldl ?_ (fun _ _ _ => ?_)) | split | (dsimp only)
    | (fail_if_no_progress refine Keeps.put ?_)

theorem State.opTamper_keeps {K : BitVec 24} {a0 : State} {s : State} {inputs : BitVec 4} (hS : Keeps K a0 s)
    (hK : 0x7FFF48#24 ||| K = K) : Keeps K a0 (State.opTamper s inputs) := by
  unfold State.opTamper
  repeat' first
    | (with_reducible assumption) | exact Keeps.sub hK (by decide) | (with_reducible apply State.causeRecord_keeps)
    | (with_reducible apply State.forcedExitAll_keeps) | (with_reducible apply State.setTamper_keeps)
    | (with_reducible apply State.trayPost_keeps) | (with_reducible apply State.zeroise_keeps)
    | (with_reducible refine Keeps.foldl ?_ (fun _ _ _ => ?_)) | split | (dsimp only)

theorem State.rearmDo_keeps {K : BitVec 24} {a0 : State} {s : State} {i : BitVec 2} (hS : Keeps K a0 s)
    (hK : 0x080000#24 ||| K = K) : Keeps K a0 (State.rearmDo s i) := by
  unfold State.rearmDo
  repeat' first
    | (with_reducible assumption) | exact Keeps.sub hK (by decide) | (with_reducible apply State.setTamper_keeps)
    | split | (dsimp only)

theorem State.opRearmInput_keeps {K : BitVec 24} {a0 : State} {s : State} {i : BitVec 2} (hS : Keeps K a0 s)
    (hK : 0x080000#24 ||| K = K) : Keeps K a0 (State.opRearmInput s i) := by
  unfold State.opRearmInput
  repeat' first
    | (with_reducible assumption) | exact Keeps.sub hK (by decide) | (with_reducible apply State.rearmDo_keeps)
    | split | (dsimp only)

theorem State.opRearmRelease_keeps {K : BitVec 24} {a0 : State} {s : State} {i : BitVec 2} (hS : Keeps K a0 s)
    (hK : 0x080000#24 ||| K = K) : Keeps K a0 (State.opRearmRelease s i) := by
  unfold State.opRearmRelease
  repeat' first
    | (with_reducible assumption) | exact Keeps.sub hK (by decide) | (with_reducible apply State.setTamper_keeps)
    | split | (dsimp only)

theorem State.renewDo_keeps {K : BitVec 24} {a0 : State} {s : State} (hS : Keeps K a0 s)
    (hK : 0x280000#24 ||| K = K) : Keeps K a0 (State.renewDo s) := by
  unfold State.renewDo
  repeat' first
    | (with_reducible assumption) | exact Keeps.sub hK (by decide) | (with_reducible apply State.draw_keeps)
    | (with_reducible refine Keeps.ofSnd (by assumption) ?_; with_reducible apply State.draw_keeps) | split
    | (dsimp only) | (fail_if_no_progress refine Keeps.put ?_)

theorem State.opKeyRenew_keeps {K : BitVec 24} {a0 : State} {s : State} (hS : Keeps K a0 s)
    (hK : 0x280000#24 ||| K = K) : Keeps K a0 (State.opKeyRenew s) := by
  unfold State.opKeyRenew
  repeat' first
    | (with_reducible assumption) | exact Keeps.sub hK (by decide) | (with_reducible apply State.renewDo_keeps)
    | split | (dsimp only)

theorem State.lockDo_keeps {K : BitVec 24} {a0 : State} {s : State} (hS : Keeps K a0 s)
    (hK : 0x080000#24 ||| K = K) : Keeps K a0 (State.lockDo s) := by
  unfold State.lockDo
  repeat' first
    | (with_reducible assumption) | exact Keeps.sub hK (by decide) | split | (dsimp only)
    | (fail_if_no_progress refine Keeps.put ?_)

theorem State.opLock_keeps {K : BitVec 24} {a0 : State} {s : State} (hS : Keeps K a0 s)
    (hK : 0x080000#24 ||| K = K) : Keeps K a0 (State.opLock s) := by
  unfold State.opLock
  repeat' first
    | (with_reducible assumption) | exact Keeps.sub hK (by decide) | (with_reducible apply State.lockDo_keeps)
    | split | (dsimp only)

theorem State.opSupply_keeps {K : BitVec 24} {a0 : State} {s : State} {onVbat : Bool} (hS : Keeps K a0 s)
    (hK : 0x080000#24 ||| K = K) : Keeps K a0 (State.opSupply s onVbat) := by
  unfold State.opSupply
  repeat' first
    | (with_reducible assumption) | exact Keeps.sub hK (by decide) | split | (dsimp only)
    | (fail_if_no_progress refine Keeps.put ?_)

theorem State.opColdStart_keeps {K : BitVec 24} {a0 : State} {s : State} (hS : Keeps K a0 s)
    (hK : 0x090000#24 ||| K = K) : Keeps K a0 (State.opColdStart s) := by
  unfold State.opColdStart
  repeat' first
    | (with_reducible assumption) | exact Keeps.sub hK (by decide) | split | (dsimp only)
    | (fail_if_no_progress refine Keeps.put ?_)

end Sys2Proof.Machine
end

