-- ==== Sys2Proof/Laws/FrameLanes.lean ====
section
/-! SUPPORT. The frame of each operation of Sys2Proof/Machine/Lanes.lean. -/

namespace Sys2Proof.Machine

set_option Elab.async false

theorem State.setTimingTimes_keeps {K : BitVec 24} {a0 : State} {s : State} {r : Region} {ts : List Time} (hS : Keeps K a0 s)
    (hK : 0x010000#24 ||| K = K) : Keeps K a0 (State.setTimingTimes s r ts) := by
  unfold State.setTimingTimes
  repeat' first
    | (with_reducible assumption) | exact Keeps.sub hK (by decide) | split | (dsimp only)
    | (fail_if_no_progress refine Keeps.put ?_)

theorem State.timingFault_keeps {K : BitVec 24} {a0 : State} {s : State} {r : Region} (hS : Keeps K a0 s)
    (hK : 0x7FFFDF#24 ||| K = K) : Keeps K a0 (State.timingFault s r) := by
  unfold State.timingFault
  repeat' first
    | (with_reducible assumption) | exact Keeps.sub hK (by decide) | (with_reducible apply State.fullStop_keeps)
    | (with_reducible apply State.record_keeps) | (with_reducible apply State.setTimingTimes_keeps) | split
    | (dsimp only)

theorem State.warnRegion_keeps {K : BitVec 24} {a0 : State} {s : State} {r : Region} (hS : Keeps K a0 s)
    (hK : 0x7FFFDF#24 ||| K = K) : Keeps K a0 (State.warnRegion s r) := by
  unfold State.warnRegion
  repeat' first
    | (with_reducible assumption) | exact Keeps.sub hK (by decide) | (with_reducible apply State.gradeUpdate_keeps)
    | (with_reducible apply State.setCal_keeps) | (with_reducible apply State.timingFault_keeps) | split
    | (dsimp only)

theorem State.opMonitor_keeps {K : BitVec 24} {a0 : State} {s : State} {r : Region} (hS : Keeps K a0 s)
    (hK : 0x7FFFDF#24 ||| K = K) : Keeps K a0 (State.opMonitor s r) := by
  unfold State.opMonitor
  repeat' first
    | (with_reducible assumption) | exact Keeps.sub hK (by decide) | (with_reducible apply State.warnRegion_keeps)
    | split | (dsimp only)

theorem State.setRegionLanes_keeps {K : BitVec 24} {a0 : State} {s : State} {r : Region} {x : RegionLanes} (hS : Keeps K a0 s)
    (hK : 0x000080#24 ||| K = K) : Keeps K a0 (State.setRegionLanes s r x) := by
  unfold State.setRegionLanes
  repeat' first
    | (with_reducible assumption) | exact Keeps.sub hK (by decide) | split | (dsimp only)
    | (fail_if_no_progress refine Keeps.put ?_)

theorem State.laneEnd_keeps {K : BitVec 24} {a0 : State} {s : State} {k : ClusterId} {c : LaneCluster} {lane : Nat} (hS : Keeps K a0 s)
    (hK : 0x75BF40#24 ||| K = K) : Keeps K a0 (State.laneEnd s k c lane) := by
  unfold State.laneEnd
  repeat' first
    | (with_reducible assumption) | exact Keeps.sub hK (by decide) | (with_reducible apply State.record_keeps)
    | (with_reducible apply State.semicolonWork_keeps) | split | (dsimp only)

theorem State.laneReplay_keeps {K : BitVec 24} {a0 : State} {s : State} {k : ClusterId} {lane : BitVec 5} (hS : Keeps K a0 s)
    (hK : 0x000300#24 ||| K = K) : Keeps K a0 (State.laneReplay s k lane) := by
  unfold State.laneReplay
  repeat' first
    | (with_reducible assumption) | exact Keeps.sub hK (by decide) | (with_reducible apply State.modLink_keeps)
    | split | (dsimp only) | (fail_if_no_progress refine Keeps.put ?_)

theorem State.laneRetire_keeps {K : BitVec 24} {a0 : State} {s : State} {k : ClusterId} {lane : BitVec 5} (hS : Keeps K a0 s)
    (hK : 0x77BFC8#24 ||| K = K) : Keeps K a0 (State.laneRetire s k lane) := by
  unfold State.laneRetire
  repeat' first
    | (with_reducible assumption) | exact Keeps.sub hK (by decide) | (with_reducible apply State.gradeUpdate_keeps)
    | (with_reducible apply State.laneEnd_keeps) | (with_reducible apply State.laneReplay_keeps)
    | (with_reducible apply State.setCluster_keeps) | (with_reducible apply State.setRegionLanes_keeps)
    | (with_reducible apply State.sweepsEnd_keeps) | split | (dsimp only)

theorem State.burstStart_keeps {K : BitVec 24} {a0 : State} {s : State} {r : Region} (hS : Keeps K a0 s)
    (hK : 0x7FFFDF#24 ||| K = K) : Keeps K a0 (State.burstStart s r) := by
  unfold State.burstStart
  repeat' first
    | (with_reducible assumption) | exact Keeps.sub hK (by decide) | (with_reducible apply State.record_keeps)
    | (with_reducible apply State.setCluster_keeps) | (with_reducible apply State.setRegionLanes_keeps)
    | (with_reducible apply State.warnRegion_keeps) | (with_reducible refine Keeps.foldl ?_ (fun _ _ _ => ?_))
    | split | (dsimp only)

theorem State.opMismatch_keeps {K : BitVec 24} {a0 : State} {s : State} {k : ClusterId} {lane : BitVec 5} {outA : BitVec 128} {outB : BitVec 128} {codeOk : Bool} (hS : Keeps K a0 s)
    (hK : 0x7FFFDF#24 ||| K = K) : Keeps K a0 (State.opMismatch s k lane outA outB codeOk) := by
  unfold State.opMismatch
  repeat' first
    | (with_reducible assumption) | exact Keeps.sub hK (by decide) | (with_reducible apply State.burstStart_keeps)
    | (with_reducible apply State.laneRetire_keeps) | (with_reducible apply State.setCluster_keeps)
    | (with_reducible apply State.setRegionLanes_keeps) | split | (dsimp only)

theorem State.opBurstEnd_keeps {K : BitVec 24} {a0 : State} {s : State} {r : Region} (hS : Keeps K a0 s)
    (hK : 0x000080#24 ||| K = K) : Keeps K a0 (State.opBurstEnd s r) := by
  unfold State.opBurstEnd
  repeat' first
    | (with_reducible assumption) | exact Keeps.sub hK (by decide)
    | (with_reducible apply State.setRegionLanes_keeps) | split | (dsimp only)

theorem State.opPatrol_keeps {K : BitVec 24} {a0 : State} {s : State} {k : ClusterId} {pass : Bool} (hS : Keeps K a0 s)
    (hK : 0x530088#24 ||| K = K) : Keeps K a0 (State.opPatrol s k pass) := by
  unfold State.opPatrol
  repeat' first
    | (with_reducible assumption) | exact Keeps.sub hK (by decide) | (with_reducible apply State.gradeUpdate_keeps)
    | (with_reducible apply State.setCluster_keeps) | split | (dsimp only)

theorem State.opGhash_keeps {K : BitVec 24} {a0 : State} {s : State} (hS : Keeps K a0 s)
    (hK : 0x530088#24 ||| K = K) : Keeps K a0 (State.opGhash s) := by
  unfold State.opGhash
  repeat' first
    | (with_reducible assumption) | exact Keeps.sub hK (by decide) | (with_reducible apply State.gradeUpdate_keeps)
    | (with_reducible apply State.record_keeps) | (with_reducible apply State.setCluster_keeps) | split
    | (dsimp only) | (fail_if_no_progress refine Keeps.put ?_)

end Sys2Proof.Machine
end

