-- ==== Sys2Proof/Laws/FrameLifeCycle.lean ====
section
/-! SUPPORT. The frame of each operation of Sys2Proof/Machine/LifeCycle.lean. -/

namespace Sys2Proof.Machine

set_option Elab.async false

theorem State.challengeDo_keeps {K : BitVec 24} {a0 : State} {s : State} {fn : Fn} (hS : Keeps K a0 s)
    (hK : 0x200010#24 ||| K = K) : Keeps K a0 (State.challengeDo s fn).1 := by
  unfold State.challengeDo
  repeat' first
    | (with_reducible assumption) | exact Keeps.sub hK (by decide) | (with_reducible apply State.draw_keeps)
    | (with_reducible refine Keeps.ofSnd (by assumption) ?_; with_reducible apply State.draw_keeps) | split
    | (dsimp only) | (fail_if_no_progress refine Keeps.put ?_)

theorem State.debugKeys_keeps {K : BitVec 24} {a0 : State} {s : State} {dig : Bytes} (hS : Keeps K a0 s)
    (hK : 0x000040#24 ||| K = K) : Keeps K a0 (State.debugKeys s dig) := by
  unfold State.debugKeys
  repeat' first
    | (with_reducible assumption) | exact Keeps.sub hK (by decide) | (with_reducible apply State.deriveAlias_keeps)
    | (with_reducible apply State.keyInvalidateRow_keeps) | (with_reducible apply State.writeKey_keeps) | split
    | (dsimp only)

theorem State.unlockDo_keeps {K : BitVec 24} {a0 : State} {s : State} {fn : Fn} {g : Bytes} (hS : Keeps K a0 s)
    (hK : 0x75FF58#24 ||| K = K) : Keeps K a0 (State.unlockDo s fn g).1 := by
  unfold State.unlockDo
  repeat' first
    | (with_reducible assumption) | exact Keeps.sub hK (by decide) | (with_reducible apply State.debugKeys_keeps)
    | (with_reducible apply State.forcedExitAll_keeps) | (with_reducible apply State.reissueCert_keeps) | split
    | (dsimp only) | (fail_if_no_progress refine Keeps.put ?_)

theorem State.unlockHang_keeps {K : BitVec 24} {a0 : State} {s : State} {fn : Fn} {x : Slot × VdId} (hS : Keeps K a0 s)
    (hK : 0x75FF58#24 ||| K = K) : Keeps K a0 (State.unlockHang s fn x) := by
  unfold State.unlockHang
  repeat' first
    | (with_reducible assumption) | exact Keeps.sub hK (by decide) | (with_reducible apply State.exitHang_keeps)
    | (with_reducible apply State.modFunc_keeps) | split | (dsimp only) | (fail_if_no_progress refine Keeps.put ?_)

theorem State.opUnlock_keeps {K : BitVec 24} {a0 : State} {s : State} {h : MbxHdr} {g : Bytes} {completes : Bool} (hS : Keeps K a0 s)
    (hK : 0x75FF58#24 ||| K = K) : Keeps K a0 (State.opUnlock s h g completes) := by
  unfold State.opUnlock
  repeat' first
    | (with_reducible assumption) | exact Keeps.sub hK (by decide) | (with_reducible apply State.mbxEarly_keeps)
    | (with_reducible refine Keeps.ofOpt (by assumption) ?_; with_reducible apply State.mbxEarly_keeps)
    | (with_reducible apply State.mbxReply_keeps) | (with_reducible apply State.unlockDo_keeps)
    | (with_reducible refine Keeps.ofFst (by assumption) ?_; with_reducible apply State.unlockDo_keeps)
    | (with_reducible apply State.unlockHang_keeps) | exact Keeps.Opt.none
    | (with_reducible refine Keeps.Opt.some ?_) | split | (dsimp only)

theorem State.lcGo_keeps {K : BitVec 24} {a0 : State} {s : State} {target : BitVec 2} {role : Option (BitVec 1)} (hS : Keeps K a0 s)
    (hK : 0x7FFFFF#24 ||| K = K) : Keeps K a0 (State.lcGo s target role) := by
  unfold State.lcGo
  repeat' first
    | (with_reducible assumption) | exact Keeps.sub hK (by decide) | (with_reducible apply State.forcedExitAll_keeps)
    | (with_reducible apply State.fullStop_keeps) | (with_reducible apply State.otpSetBits_keeps) | split
    | (dsimp only)

theorem State.lcHang_keeps {K : BitVec 24} {a0 : State} {s : State} {x : Slot × VdId} (hS : Keeps K a0 s)
    (hK : 0x75FF58#24 ||| K = K) : Keeps K a0 (State.lcHang s x) := by
  unfold State.lcHang
  repeat' first
    | (with_reducible assumption) | exact Keeps.sub hK (by decide) | (with_reducible apply State.exitHang_keeps)
    | split | (dsimp only) | (fail_if_no_progress refine Keeps.put ?_)

theorem State.lcBegin_keeps {K : BitVec 24} {a0 : State} {s : State} {target : BitVec 2} {completes : Bool} {role : Option (BitVec 1)} (hS : Keeps K a0 s)
    (hK : 0x7FFFFF#24 ||| K = K) : Keeps K a0 (State.lcBegin s target completes role) := by
  unfold State.lcBegin
  repeat' first
    | (with_reducible assumption) | exact Keeps.sub hK (by decide) | (with_reducible apply State.lcGo_keeps)
    | (with_reducible apply State.lcHang_keeps) | split | (dsimp only)

theorem State.lcWrite_keeps {K : BitVec 24} {a0 : State} {s : State} {jtag : Bool} {confirm : BitVec 16} {target : BitVec 2} {completes : Bool} {role : Option (BitVec 1)} (hS : Keeps K a0 s)
    (hK : 0x7FFFFF#24 ||| K = K) : Keeps.Opt K a0 (State.lcWrite s jtag confirm target completes role) := by
  unfold State.lcWrite
  repeat' first
    | (with_reducible assumption) | exact Keeps.sub hK (by decide) | (with_reducible apply State.lcBegin_keeps)
    | exact Keeps.Opt.none | (with_reducible refine Keeps.Opt.some ?_) | split | (dsimp only)
    | (fail_if_no_progress refine Keeps.put ?_)

end Sys2Proof.Machine
end

