-- ==== Sys2Proof/Laws/FrameMailbox.lean ====
section
/-! SUPPORT. The frame of each operation of Sys2Proof/Machine/Mailbox.lean. -/

namespace Sys2Proof.Machine

set_option Elab.async false

theorem State.spdmDo_keeps {K : BitVec 24} {a0 : State} {s : State} {f : Fn} {b : Bytes} (hS : Keeps K a0 s)
    (hK : 0x002000#24 ||| K = K) : Keeps K a0 (State.spdmDo s f b).1 := by
  unfold State.spdmDo
  repeat' first
    | (with_reducible assumption) | exact Keeps.sub hK (by decide) | (with_reducible apply State.modFunc_keeps)
    | split | (dsimp only)

theorem State.certGetDo_keeps {K : BitVec 24} {a0 : State} {s : State} {offset : Nat} {len : Nat} (hS : Keeps K a0 s)
    (hK : 0x000000#24 ||| K = K) : Keeps K a0 (State.certGetDo s offset len).1 := by
  unfold State.certGetDo
  repeat' first
    | (with_reducible assumption) | exact Keeps.sub hK (by decide) | split | (dsimp only)

theorem State.haHelloDo_keeps {K : BitVec 24} {a0 : State} {s : State} {h : MbxHdr} {m : HaHello} (hS : Keeps K a0 s)
    (hK : 0x202000#24 ||| K = K) : Keeps K a0 (State.haHelloDo s h m).1 := by
  unfold State.haHelloDo
  repeat' first
    | (with_reducible assumption) | exact Keeps.sub hK (by decide) | (with_reducible apply State.draw_keeps)
    | (with_reducible refine Keeps.ofSnd (by assumption) ?_; with_reducible apply State.draw_keeps)
    | (with_reducible apply State.modSess_keeps) | split | (dsimp only)

theorem State.haOpen_keeps {K : BitVec 24} {a0 : State} {s : State} {f : Fn} {d : Slot} {sss : Bytes} (hS : Keeps K a0 s)
    (hK : 0x002040#24 ||| K = K) : Keeps K a0 (State.haOpen s f d sss) := by
  unfold State.haOpen
  repeat' first
    | (with_reducible assumption) | exact Keeps.sub hK (by decide)
    | (with_reducible apply State.installStageKey_keeps) | (with_reducible apply State.modSess_keeps)
    | (with_reducible apply State.writeKey_keeps) | split | (dsimp only)

theorem State.haFinishDo_keeps {K : BitVec 24} {a0 : State} {s : State} {f : Fn} {sessionId : BitVec 32} {sigH : Bytes} {kcH : BitVec 128} (hS : Keeps K a0 s)
    (hK : 0x002040#24 ||| K = K) : Keeps K a0 (State.haFinishDo s f sessionId sigH kcH).1 := by
  unfold State.haFinishDo
  repeat' first
    | (with_reducible assumption) | exact Keeps.sub hK (by decide) | (with_reducible apply State.haOpen_keeps)
    | (with_reducible apply State.modSess_keeps) | split | (dsimp only)

theorem State.opHaTimeout_keeps {K : BitVec 24} {a0 : State} {s : State} {f : Fn} (hS : Keeps K a0 s)
    (hK : 0x002000#24 ||| K = K) : Keeps K a0 (State.opHaTimeout s f) := by
  unfold State.opHaTimeout
  repeat' first
    | (with_reducible assumption) | exact Keeps.sub hK (by decide) | (with_reducible apply State.modSess_keeps)
    | split | (dsimp only)

theorem State.haCloseDo_keeps {K : BitVec 24} {a0 : State} {s : State} {f : Fn} (hS : Keeps K a0 s)
    (hK : 0x552340#24 ||| K = K) : Keeps K a0 (State.haCloseDo s f).1 := by
  unfold State.haCloseDo
  repeat' first
    | (with_reducible assumption) | exact Keeps.sub hK (by decide) | (with_reducible apply State.memPump_keeps)
    | (with_reducible apply State.sessEnd_keeps) | split | (dsimp only)

theorem State.fnOpenDo_keeps {K : BitVec 24} {a0 : State} {s : State} {f : Fn} (hS : Keeps K a0 s)
    (hK : 0x77BF44#24 ||| K = K) : Keeps K a0 (State.fnOpenDo s f).1 := by
  unfold State.fnOpenDo
  repeat' first
    | (with_reducible assumption) | exact Keeps.sub hK (by decide) | (with_reducible apply State.modFunc_keeps)
    | (with_reducible apply State.setEnable_keeps) | split | (dsimp only)

theorem State.drainDo_keeps {K : BitVec 24} {a0 : State} {s : State} {f : Fn} (hS : Keeps K a0 s)
    (hK : 0x402000#24 ||| K = K) : Keeps K a0 (State.drainDo s f).1 := by
  unfold State.drainDo
  repeat' first
    | (with_reducible assumption) | exact Keeps.sub hK (by decide) | (with_reducible apply State.drainCheck_keeps)
    | (with_reducible apply State.modFunc_keeps) | split | (dsimp only)

theorem State.retireDo_keeps {K : BitVec 24} {a0 : State} {s : State} {f : Fn} (hS : Keeps K a0 s)
    (hK : 0x55A345#24 ||| K = K) : Keeps K a0 (State.retireDo s f).1 := by
  unfold State.retireDo
  repeat' first
    | (with_reducible assumption) | exact Keeps.sub hK (by decide) | (with_reducible apply State.retireFn_keeps)
    | split | (dsimp only)

end Sys2Proof.Machine
end

