-- ==== Sys2Proof/Laws/FrameParse.lean ====
section
/-! SUPPORT. The frame of each operation of Sys2Proof/Machine/Parse.lean. -/

namespace Sys2Proof.Machine

set_option Elab.async false

theorem State.opInvite_keeps {K : BitVec 24} {a0 : State} {s : State} {l : LinkId} {m : JoinInvite} (hS : Keeps K a0 s)
    (hK : 0x350600#24 ||| K = K) : Keeps K a0 (State.opInvite s l m) := by
  unfold State.opInvite
  repeat' first
    | (with_reducible assumption) | exact Keeps.sub hK (by decide) | (with_reducible apply State.draw_keeps)
    | (with_reducible refine Keeps.ofSnd (by assumption) ?_; with_reducible apply State.draw_keeps)
    | (with_reducible apply State.meterRestart_keeps) | (with_reducible apply State.openDomain_keeps)
    | (with_reducible apply State.progress_keeps) | (with_reducible apply State.setDom_keeps)
    | (with_reducible apply State.timeMark_keeps) | split | (dsimp only)

theorem State.abandonJoin_keeps {K : BitVec 24} {a0 : State} {s : State} {d : Slot} (hS : Keeps K a0 s)
    (hK : 0x75FF48#24 ||| K = K) : Keeps K a0 (State.abandonJoin s d) := by
  unfold State.abandonJoin
  repeat' first
    | (with_reducible assumption) | exact Keeps.sub hK (by decide) | (with_reducible apply State.freeSlot_keeps)
    | (with_reducible apply State.modDom_keeps) | (with_reducible apply State.setDom_keeps) | split | (dsimp only)

theorem State.grantTake_keeps {K : BitVec 24} {a0 : State} {s : State} {d : Slot} {j : JoinPend} {m : JoinGrant} {member : Bytes} {dcs : Bytes} (hS : Keeps K a0 s)
    (hK : 0x600748#24 ||| K = K) : Keeps K a0 (State.grantTake s d j m member dcs) := by
  unfold State.grantTake
  repeat' first
    | (with_reducible assumption) | exact Keeps.sub hK (by decide) | (with_reducible apply State.agreeDeclared_keeps)
    | (with_reducible apply State.deriveReserved_keeps) | (with_reducible apply State.reissueCert_keeps)
    | (with_reducible apply State.setDom_keeps) | (with_reducible apply State.writeRoot_keeps) | split | (dsimp only)

theorem State.unwrapFail_keeps {K : BitVec 24} {a0 : State} {s : State} {r : Nat} {key : Option Bytes} (hS : Keeps K a0 s)
    (hK : 0x75BF40#24 ||| K = K) : Keeps K a0 (State.unwrapFail s r key) := by
  unfold State.unwrapFail
  repeat' first
    | (with_reducible assumption) | exact Keeps.sub hK (by decide) | (with_reducible apply State.invalidateKey_keeps)
    | split | (dsimp only)

theorem State.opGrant_keeps {K : BitVec 24} {a0 : State} {s : State} {d : Slot} {m : JoinGrant} (hS : Keeps K a0 s)
    (hK : 0x75FF48#24 ||| K = K) : Keeps K a0 (State.opGrant s d m) := by
  unfold State.opGrant
  repeat' first
    | (with_reducible assumption) | exact Keeps.sub hK (by decide) | (with_reducible apply State.abandonJoin_keeps)
    | (with_reducible apply State.grantTake_keeps) | (with_reducible apply State.out_keeps)
    | (with_reducible apply State.progress_keeps) | (with_reducible apply State.unwrapFail_keeps) | split
    | (dsimp only)

theorem State.opRefuse_keeps {K : BitVec 24} {a0 : State} {s : State} {d : Slot} (hS : Keeps K a0 s)
    (hK : 0x75FF48#24 ||| K = K) : Keeps K a0 (State.opRefuse s d) := by
  unfold State.opRefuse
  repeat' first
    | (with_reducible assumption) | exact Keeps.sub hK (by decide) | (with_reducible apply State.abandonJoin_keeps)
    | split | (dsimp only)

theorem State.joinAnswer_keeps {K : BitVec 24} {a0 : State} {s : State} {d : Slot} {l : LinkId} {child : Member} {type : Byte} {msg : Bytes} (hS : Keeps K a0 s)
    (hK : 0x000600#24 ||| K = K) : Keeps K a0 (State.joinAnswer s d l child type msg) := by
  unfold State.joinAnswer
  repeat' first
    | (with_reducible assumption) | exact Keeps.sub hK (by decide) | (with_reducible apply State.openDomain_keeps)
    | (with_reducible apply State.tc0Send_keeps) | split | (dsimp only)

theorem State.grantWith_keeps {K : BitVec 24} {a0 : State} {s : State} {d : Slot} {l : LinkId} {m : JoinRequest} {member : Bytes} {dcs : Bytes} (hS : Keeps K a0 s)
    (hK : 0x210600#24 ||| K = K) : Keeps K a0 (State.grantWith s d l m member dcs) := by
  unfold State.grantWith
  repeat' first
    | (with_reducible assumption) | exact Keeps.sub hK (by decide) | (with_reducible apply State.censusPut_keeps)
    | (with_reducible apply State.draw_keeps)
    | (with_reducible refine Keeps.ofSnd (by assumption) ?_; with_reducible apply State.draw_keeps)
    | (with_reducible apply State.joinAnswer_keeps) | (with_reducible apply State.modDom_keeps)
    | (with_reducible apply State.progress_keeps) | split | (dsimp only)

theorem State.grantSend_keeps {K : BitVec 24} {a0 : State} {s : State} {d : Slot} {l : LinkId} {m : JoinRequest} (hS : Keeps K a0 s)
    (hK : 0x210600#24 ||| K = K) : Keeps K a0 (State.grantSend s d l m) := by
  unfold State.grantSend
  repeat' first
    | (with_reducible assumption) | exact Keeps.sub hK (by decide) | (with_reducible apply State.grantWith_keeps)
    | split | (dsimp only)

theorem State.joinServe_keeps {K : BitVec 24} {a0 : State} {s : State} {d : Slot} {l : LinkId} {m : JoinRequest} (hS : Keeps K a0 s)
    (hK : 0x210600#24 ||| K = K) : Keeps K a0 (State.joinServe s d l m) := by
  unfold State.joinServe
  repeat' first
    | (with_reducible assumption) | exact Keeps.sub hK (by decide) | (with_reducible apply State.censusPut_keeps)
    | (with_reducible apply State.grantSend_keeps) | (with_reducible apply State.joinAnswer_keeps)
    | (with_reducible apply State.tc0Send_keeps) | split | (dsimp only)

theorem State.joinPumpAux_keeps {K : BitVec 24} {a0 : State} {d : Slot} {z1 : Nat} {z2 : State} (hS : Keeps K a0 z2)
    (hK : 0x210600#24 ||| K = K) : Keeps K a0 (State.joinPumpAux d z1 z2) := by
  induction z1 generalizing d z2 with
  | zero =>
    unfold State.joinPumpAux
    repeat' first
      | (with_reducible assumption) | exact Keeps.sub hK (by decide) | (with_reducible apply State.joinServe_keeps)
      | (with_reducible apply State.modDom_keeps) | split | (dsimp only)
  | succ m ih =>
    unfold State.joinPumpAux
    repeat' first
      | (with_reducible assumption) | exact Keeps.sub hK (by decide) | (with_reducible apply ih)
      | (with_reducible apply State.joinServe_keeps) | (with_reducible apply State.modDom_keeps) | split
      | (dsimp only) | (cases Nat.succ.inj ‹_ + 1 = Nat.succ _›)

theorem State.joinPump_keeps {K : BitVec 24} {a0 : State} {s : State} {d : Slot} (hS : Keeps K a0 s)
    (hK : 0x210600#24 ||| K = K) : Keeps K a0 (State.joinPump s d) := by
  unfold State.joinPump
  repeat' first
    | (with_reducible assumption) | exact Keeps.sub hK (by decide) | (with_reducible apply State.joinPumpAux_keeps)
    | split | (dsimp only)

theorem State.opJoinRequest_keeps {K : BitVec 24} {a0 : State} {s : State} {d : Slot} {l : LinkId} {m : JoinRequest} (hS : Keeps K a0 s)
    (hK : 0x75FF48#24 ||| K = K) : Keeps K a0 (State.opJoinRequest s d l m) := by
  unfold State.opJoinRequest
  repeat' first
    | (with_reducible assumption) | exact Keeps.sub hK (by decide) | (with_reducible apply State.exitTail_keeps)
    | (with_reducible apply State.joinAnswer_keeps) | (with_reducible apply State.joinServe_keeps)
    | (with_reducible apply State.modDom_keeps) | (with_reducible apply State.out_keeps)
    | (with_reducible apply State.tc0Send_keeps) | split | (dsimp only)

theorem State.handCandidate_keeps {K : BitVec 24} {a0 : State} {s : State} {d : Slot} {m : Member} (hS : Keeps K a0 s)
    (hK : 0x200600#24 ||| K = K) : Keeps K a0 (State.handCandidate s d m) := by
  unfold State.handCandidate
  repeat' first
    | (with_reducible assumption) | exact Keeps.sub hK (by decide) | (with_reducible apply State.handDown_keeps)
    | split | (dsimp only)

theorem State.opJoinDone_keeps {K : BitVec 24} {a0 : State} {s : State} {d : Slot} {m : Member} (hS : Keeps K a0 s)
    (hK : 0x210600#24 ||| K = K) : Keeps K a0 (State.opJoinDone s d m) := by
  unfold State.opJoinDone
  repeat' first
    | (with_reducible assumption) | exact Keeps.sub hK (by decide) | (with_reducible apply State.censusIssue_keeps)
    | (with_reducible apply State.censusPut_keeps) | (with_reducible apply State.domEvent_keeps)
    | (with_reducible apply State.handCandidate_keeps) | (with_reducible apply State.joinPump_keeps)
    | (with_reducible apply State.keysFlood_keeps) | (with_reducible apply State.modDom_keeps) | split | (dsimp only)

theorem State.opJoinTimeout_keeps {K : BitVec 24} {a0 : State} {s : State} {d : Slot} {m : Member} (hS : Keeps K a0 s)
    (hK : 0x210600#24 ||| K = K) : Keeps K a0 (State.opJoinTimeout s d m) := by
  unfold State.opJoinTimeout
  repeat' first
    | (with_reducible assumption) | exact Keeps.sub hK (by decide) | (with_reducible apply State.censusIssue_keeps)
    | (with_reducible apply State.censusPut_keeps) | (with_reducible apply State.joinPump_keeps)
    | (with_reducible apply State.modDom_keeps) | (with_reducible apply State.resumeSend_keeps) | split
    | (dsimp only)

theorem State.opParseResume_keeps {K : BitVec 24} {a0 : State} {s : State} {d : Slot} (hS : Keeps K a0 s)
    (hK : 0x000600#24 ||| K = K) : Keeps K a0 (State.opParseResume s d) := by
  unfold State.opParseResume
  repeat' first
    | (with_reducible assumption) | exact Keeps.sub hK (by decide) | (with_reducible apply State.inviteAll_keeps)
    | split | (dsimp only)

theorem State.opDepart_keeps {K : BitVec 24} {a0 : State} {s : State} {d : Slot} {m : Member} (hS : Keeps K a0 s)
    (hK : 0x000600#24 ||| K = K) : Keeps K a0 (State.opDepart s d m) := by
  unfold State.opDepart
  repeat' first
    | (with_reducible assumption) | exact Keeps.sub hK (by decide) | (with_reducible apply State.ackDrop_keeps)
    | (with_reducible apply State.censusPut_keeps) | (with_reducible apply State.electHall_keeps)
    | (with_reducible apply State.electSys_keeps) | (with_reducible apply State.keysFlood_keeps)
    | (with_reducible apply State.modDom_keeps) | split | (dsimp only)

theorem State.handTake_keeps {K : BitVec 24} {a0 : State} {s : State} {d : Slot} {kind : BitVec 2} {key : Bytes} {epoch : BitVec 32} (hS : Keeps K a0 s)
    (hK : 0x600540#24 ||| K = K) : Keeps K a0 (State.handTake s d kind key epoch) := by
  unfold State.handTake
  repeat' first
    | (with_reducible assumption) | exact Keeps.sub hK (by decide)
    | (with_reducible apply State.deriveReserved_keeps) | (with_reducible apply State.modDom_keeps)
    | (with_reducible apply State.writeRoot_keeps) | split | (dsimp only)

theorem State.opHanddown_keeps {K : BitVec 24} {a0 : State} {s : State} {d : Slot} {m : Handdown} (hS : Keeps K a0 s)
    (hK : 0x75BF40#24 ||| K = K) : Keeps K a0 (State.opHanddown s d m) := by
  unfold State.opHanddown
  repeat' first
    | (with_reducible assumption) | exact Keeps.sub hK (by decide) | (with_reducible apply State.handTake_keeps)
    | (with_reducible apply State.invalidateKey_keeps) | (with_reducible apply State.out_keeps) | split
    | (dsimp only)

theorem State.opEpochNotice_keeps {K : BitVec 24} {a0 : State} {s : State} {d : Slot} {epoch : BitVec 32} (hS : Keeps K a0 s)
    (hK : 0x75BF48#24 ||| K = K) : Keeps K a0 (State.opEpochNotice s d epoch) := by
  unfold State.opEpochNotice
  repeat' first
    | (with_reducible assumption) | exact Keeps.sub hK (by decide) | (with_reducible apply State.domEvent_keeps)
    | (with_reducible apply State.eraseRow_keeps) | (with_reducible apply State.invalidateKey_keeps)
    | (with_reducible apply State.modDom_keeps) | (with_reducible apply State.reissueCert_keeps)
    | (with_reducible apply State.timeMark_keeps) | split | (dsimp only)

end Sys2Proof.Machine
end

