-- ==== Sys2Proof/Laws/FrameManagers.lean ====
section
/-! SUPPORT. The frame of each operation of Sys2Proof/Machine/Managers.lean. -/

namespace Sys2Proof.Machine

set_option Elab.async false

theorem State.opMgrPulseTimer_keeps {K : BitVec 24} {a0 : State} {s : State} {d : Slot} (hS : Keeps K a0 s)
    (hK : 0x000600#24 ||| K = K) : Keeps K a0 (State.opMgrPulseTimer s d) := by
  unfold State.opMgrPulseTimer
  repeat' first
    | (with_reducible assumption) | exact Keeps.sub hK (by decide) | (with_reducible apply State.tc0Send_keeps)
    | (with_reducible refine Keeps.foldl ?_ (fun _ _ _ => ?_)) | split | (dsimp only)

theorem State.opMgrPulse_keeps {K : BitVec 24} {a0 : State} {s : State} {d : Slot} {src : Member} (hS : Keeps K a0 s)
    (hK : 0x000600#24 ||| K = K) : Keeps K a0 (State.opMgrPulse s d src) := by
  unfold State.opMgrPulse
  repeat' first
    | (with_reducible assumption) | exact Keeps.sub hK (by decide) | (with_reducible apply State.electHall_keeps)
    | (with_reducible apply State.electSys_keeps) | (with_reducible apply State.noteContact_keeps)
    | (with_reducible apply State.yieldTo_keeps) | split | (dsimp only)

theorem State.opContactLoss_keeps {K : BitVec 24} {a0 : State} {s : State} {d : Slot} {lost : Member} (hS : Keeps K a0 s)
    (hK : 0x75A740#24 ||| K = K) : Keeps K a0 (State.opContactLoss s d lost) := by
  unfold State.opContactLoss
  repeat' first
    | (with_reducible assumption) | exact Keeps.sub hK (by decide) | (with_reducible apply State.ackDrop_keeps)
    | (with_reducible apply State.countTrigger_keeps) | (with_reducible apply State.counterKeep_keeps)
    | (with_reducible apply State.electHall_keeps) | (with_reducible apply State.electSys_keeps)
    | (with_reducible apply State.modDom_keeps) | (with_reducible apply State.standDown_keeps) | split | (dsimp only)

theorem State.opTakeover_keeps {K : BitVec 24} {a0 : State} {s : State} {d : Slot} {src : Member} {system : Bool} (hS : Keeps K a0 s)
    (hK : 0x000400#24 ||| K = K) : Keeps K a0 (State.opTakeover s d src system) := by
  unfold State.opTakeover
  repeat' first
    | (with_reducible assumption) | exact Keeps.sub hK (by decide) | (with_reducible apply State.domEvent_keeps)
    | (with_reducible apply State.noteContact_keeps) | (with_reducible apply State.setDom_keeps) | split
    | (dsimp only)

theorem State.opMgrKeys_keeps {K : BitVec 24} {a0 : State} {s : State} {d : Slot} {list : List (Member × Bytes)} (hS : Keeps K a0 s)
    (hK : 0x000400#24 ||| K = K) : Keeps K a0 (State.opMgrKeys s d list) := by
  unfold State.opMgrKeys
  repeat' first
    | (with_reducible assumption) | exact Keeps.sub hK (by decide) | (with_reducible apply State.modDom_keeps)
    | split | (dsimp only)

theorem State.opHallPulseTimer_keeps {K : BitVec 24} {a0 : State} {s : State} {d : Slot} (hS : Keeps K a0 s)
    (hK : 0x000600#24 ||| K = K) : Keeps K a0 (State.opHallPulseTimer s d) := by
  unfold State.opHallPulseTimer
  repeat' first
    | (with_reducible assumption) | exact Keeps.sub hK (by decide) | (with_reducible apply State.hallPulseSend_keeps)
    | (with_reducible apply State.modDom_keeps) | (with_reducible refine Keeps.foldl ?_ (fun _ _ _ => ?_)) | split
    | (dsimp only)

theorem State.opHallPulse_keeps {K : BitVec 24} {a0 : State} {s : State} {d : Slot} (hS : Keeps K a0 s)
    (hK : 0x000400#24 ||| K = K) : Keeps K a0 (State.opHallPulse s d) := by
  unfold State.opHallPulse
  repeat' first
    | (with_reducible assumption) | exact Keeps.sub hK (by decide) | (with_reducible apply State.modDom_keeps)
    | split | (dsimp only)

theorem State.opHallPulseLoss_keeps {K : BitVec 24} {a0 : State} {s : State} {d : Slot} (hS : Keeps K a0 s)
    (hK : 0x55A740#24 ||| K = K) : Keeps K a0 (State.opHallPulseLoss s d) := by
  unfold State.opHallPulseLoss
  repeat' first
    | (with_reducible assumption) | exact Keeps.sub hK (by decide)
    | (with_reducible apply State.becomeFragment_keeps) | (with_reducible apply State.setDom_keeps) | split
    | (dsimp only)

theorem State.opRosterUpdate_keeps {K : BitVec 24} {a0 : State} {s : State} {d : Slot} {src : Member} {version : BitVec 32} {row : RosterRow} (hS : Keeps K a0 s)
    (hK : 0x000600#24 ||| K = K) : Keeps K a0 (State.opRosterUpdate s d src version row) := by
  unfold State.opRosterUpdate
  repeat' first
    | (with_reducible assumption) | exact Keeps.sub hK (by decide) | (with_reducible apply State.modDom_keeps)
    | (with_reducible apply State.noteContact_keeps) | (with_reducible apply State.rosterAckSend_keeps)
    | (with_reducible apply State.rosterPut_keeps) | (with_reducible apply State.syncRow_keeps) | split
    | (dsimp only)

theorem State.opRosterAck_keeps {K : BitVec 24} {a0 : State} {s : State} {d : Slot} {version : BitVec 32} (hS : Keeps K a0 s)
    (hK : 0x000400#24 ||| K = K) : Keeps K a0 (State.opRosterAck s d version) := by
  unfold State.opRosterAck
  repeat' first
    | (with_reducible assumption) | exact Keeps.sub hK (by decide) | (with_reducible apply State.modDom_keeps)
    | split | (dsimp only)

theorem State.opRosterResend_keeps {K : BitVec 24} {a0 : State} {s : State} {d : Slot} (hS : Keeps K a0 s)
    (hK : 0x000600#24 ||| K = K) : Keeps K a0 (State.opRosterResend s d) := by
  unfold State.opRosterResend
  repeat' first
    | (with_reducible assumption) | exact Keeps.sub hK (by decide) | (with_reducible apply State.rosterSend_keeps)
    | split | (dsimp only)

theorem State.opHallSummary_keeps {K : BitVec 24} {a0 : State} {s : State} {d : Slot} (hS : Keeps K a0 s)
    (hK : 0x000600#24 ||| K = K) : Keeps K a0 (State.opHallSummary s d) := by
  unfold State.opHallSummary
  repeat' first
    | (with_reducible assumption) | exact Keeps.sub hK (by decide) | (with_reducible apply State.tc0Send_keeps)
    | split | (dsimp only)

theorem State.opCensusSync_keeps {K : BitVec 24} {a0 : State} {s : State} {d : Slot} {m : SyncMsg} {state : BitVec 2} (hS : Keeps K a0 s)
    (hK : 0x000600#24 ||| K = K) : Keeps K a0 (State.opCensusSync s d m state) := by
  unfold State.opCensusSync
  repeat' first
    | (with_reducible assumption) | exact Keeps.sub hK (by decide) | (with_reducible apply State.ackDrop_keeps)
    | (with_reducible apply State.modDom_keeps) | (with_reducible apply State.noteContact_keeps)
    | (with_reducible apply State.rosterPut_keeps) | (with_reducible apply State.tc0Send_keeps) | split
    | (dsimp only)

theorem State.opCountOpen_keeps {K : BitVec 24} {a0 : State} {s : State} {d : Slot} (hS : Keeps K a0 s)
    (hK : 0x75A740#24 ||| K = K) : Keeps K a0 (State.opCountOpen s d) := by
  unfold State.opCountOpen
  repeat' first
    | (with_reducible assumption) | exact Keeps.sub hK (by decide) | (with_reducible apply State.countTrigger_keeps)
    | split | (dsimp only)

theorem State.opVoteClaim_keeps {K : BitVec 24} {a0 : State} {s : State} {d : Slot} {hall : BitVec 3} {round : BitVec 32} {members : BitVec 32} (hS : Keeps K a0 s)
    (hK : 0x75A740#24 ||| K = K) : Keeps K a0 (State.opVoteClaim s d hall round members) := by
  unfold State.opVoteClaim
  repeat' first
    | (with_reducible assumption) | exact Keeps.sub hK (by decide) | (with_reducible apply State.countPut_keeps)
    | split | (dsimp only)

theorem State.opCountClose_keeps {K : BitVec 24} {a0 : State} {s : State} {d : Slot} (hS : Keeps K a0 s)
    (hK : 0x75A740#24 ||| K = K) : Keeps K a0 (State.opCountClose s d) := by
  unfold State.opCountClose
  repeat' first
    | (with_reducible assumption) | exact Keeps.sub hK (by decide) | (with_reducible apply State.countEnd_keeps)
    | split | (dsimp only)

theorem State.opCountResult_keeps {K : BitVec 24} {a0 : State} {s : State} {d : Slot} {r : CountResult} (hS : Keeps K a0 s)
    (hK : 0x75A740#24 ||| K = K) : Keeps K a0 (State.opCountResult s d r) := by
  unfold State.opCountResult
  repeat' first
    | (with_reducible assumption) | exact Keeps.sub hK (by decide) | (with_reducible apply State.applyResult_keeps)
    | split | (dsimp only)

theorem State.unionCount_keeps {K : BitVec 24} {a0 : State} {s : State} {d : Slot} {m : RejoinMsg} (hS : Keeps K a0 s)
    (hK : 0x75A740#24 ||| K = K) : Keeps K a0 (State.unionCount s d m) := by
  unfold State.unionCount
  repeat' first
    | (with_reducible assumption) | exact Keeps.sub hK (by decide) | (with_reducible apply State.countStart_keeps)
    | split | (dsimp only)

theorem State.opRejoinReq_keeps {K : BitVec 24} {a0 : State} {s : State} {d : Slot} {m : RejoinMsg} (hS : Keeps K a0 s)
    (hK : 0x75A740#24 ||| K = K) : Keeps K a0 (State.opRejoinReq s d m) := by
  unfold State.opRejoinReq
  repeat' first
    | (with_reducible assumption) | exact Keeps.sub hK (by decide) | (with_reducible apply State.rejoinRelay_keeps)
    | (with_reducible apply State.tc0Send_keeps) | (with_reducible apply State.unionCount_keeps) | split
    | (dsimp only)

theorem State.opRejoinGrant_keeps {K : BitVec 24} {a0 : State} {s : State} {d : Slot} {m : RejoinMsg} (hS : Keeps K a0 s)
    (hK : 0x75A740#24 ||| K = K) : Keeps K a0 (State.opRejoinGrant s d m) := by
  unfold State.opRejoinGrant
  repeat' first
    | (with_reducible assumption) | exact Keeps.sub hK (by decide) | (with_reducible apply State.unionCount_keeps)
    | split | (dsimp only)

theorem State.opRejoinExpiry_keeps {K : BitVec 24} {a0 : State} {s : State} {d : Slot} (hS : Keeps K a0 s)
    (hK : 0x75FF48#24 ||| K = K) : Keeps K a0 (State.opRejoinExpiry s d) := by
  unfold State.opRejoinExpiry
  repeat' first
    | (with_reducible assumption) | exact Keeps.sub hK (by decide) | (with_reducible apply State.domEvent_keeps)
    | (with_reducible apply State.exitTail_keeps) | split | (dsimp only)

theorem State.opRouteLoad_keeps {K : BitVec 24} {a0 : State} {s : State} {d : Slot} {es : List (BitVec 2 × BitVec 9 × Option LinkId × Option LinkId)} (hS : Keeps K a0 s)
    (hK : 0x000400#24 ||| K = K) : Keeps K a0 (State.opRouteLoad s d es) := by
  unfold State.opRouteLoad
  repeat' first
    | (with_reducible assumption) | exact Keeps.sub hK (by decide) | (with_reducible apply State.modDom_keeps)
    | (with_reducible refine Keeps.foldl ?_ (fun _ _ _ => ?_)) | split | (dsimp only)

end Sys2Proof.Machine
end

