-- ==== Sys2Proof/Laws/FrameMemory.lean ====
section
/-! SUPPORT. The frame of each operation of Sys2Proof/Machine/Memory.lean. -/

namespace Sys2Proof.Machine

set_option Elab.async false

theorem State.memRequest_keeps {K : BitVec 24} {a0 : State} {s : State} {w : MemWait} (hS : Keeps K a0 s)
    (hK : 0x552340#24 ||| K = K) : Keeps K a0 (State.memRequest s w) := by
  unfold State.memRequest
  repeat' first
    | (with_reducible assumption) | exact Keeps.sub hK (by decide) | (with_reducible apply State.memAccept_keeps)
    | (with_reducible apply State.memRefusal_keeps)
    | (with_reducible refine Keeps.ofOpt2 (by assumption) ?_; with_reducible apply State.memRefusal_keeps)
    | (with_reducible apply State.out_keeps) | split | (dsimp only)

theorem State.opRead_keeps {K : BitVec 24} {a0 : State} {s : State} {m : Master} {key : KeyIdx} {dpa : Dpa} (hS : Keeps K a0 s)
    (hK : 0x552340#24 ||| K = K) : Keeps K a0 (State.opRead s m key dpa) := by
  unfold State.opRead
  repeat' first
    | (with_reducible assumption) | exact Keeps.sub hK (by decide) | (with_reducible apply State.memRequest_keeps)
    | split | (dsimp only)

theorem State.opWrite_keeps {K : BitVec 24} {a0 : State} {s : State} {m : Master} {key : KeyIdx} {dpa : Dpa} {data : Line} (hS : Keeps K a0 s)
    (hK : 0x552340#24 ||| K = K) : Keeps K a0 (State.opWrite s m key dpa data) := by
  unfold State.opWrite
  repeat' first
    | (with_reducible assumption) | exact Keeps.sub hK (by decide) | (with_reducible apply State.memRequest_keeps)
    | split | (dsimp only)

theorem State.writeAnswered_keeps {K : BitVec 24} {a0 : State} {s : State} {q : McReq} {m : Master} {st : BitVec 2} (hS : Keeps K a0 s)
    (hK : 0x400102#24 ||| K = K) : Keeps K a0 (State.writeAnswered s q m st) := by
  unfold State.writeAnswered
  repeat' first
    | (with_reducible assumption) | exact Keeps.sub hK (by decide) | (with_reducible apply State.memAlarm_keeps)
    | (with_reducible apply State.memDoneOk_keeps) | (with_reducible apply State.memEnd_keeps)
    | (with_reducible apply State.modChan_keeps) | (with_reducible apply State.portViolation_keeps) | split
    | (dsimp only)

theorem State.mergedPut_keeps {K : BitVec 24} {a0 : State} {s : State} {q : McReq} {p : Line} (hS : Keeps K a0 s)
    (hK : 0x552140#24 ||| K = K) : Keeps K a0 (State.mergedPut s q p) := by
  unfold State.mergedPut
  repeat' first
    | (with_reducible assumption) | exact Keeps.sub hK (by decide) | (with_reducible apply State.mcWrite_keeps)
    | (with_reducible refine Keeps.ofOpt (by assumption) ?_; with_reducible apply State.mcWrite_keeps)
    | exact Keeps.Opt.none | (with_reducible refine Keeps.Opt.some ?_) | (with_reducible refine Keeps.getD ?_ ?_)
    | split | (dsimp only) | (fail_if_no_progress refine Keeps.put ?_)

theorem State.mcAnswer_keeps {K : BitVec 24} {a0 : State} {s : State} {q : McReq} {rsp : McRsp} (hS : Keeps K a0 s)
    (hK : 0x552342#24 ||| K = K) : Keeps K a0 (State.mcAnswer s q rsp) := by
  unfold State.mcAnswer
  repeat' first
    | (with_reducible assumption) | exact Keeps.sub hK (by decide) | (with_reducible apply State.fenceRelease_keeps)
    | (with_reducible apply State.memEnd_keeps) | (with_reducible apply State.mergedPut_keeps)
    | (with_reducible apply State.openRsp_keeps)
    | (with_reducible refine Keeps.ofFst (by assumption) ?_; with_reducible apply State.openRsp_keeps)
    | (with_reducible apply State.out_keeps) | (with_reducible apply State.portViolation_keeps)
    | (with_reducible apply State.progress_keeps) | (with_reducible apply State.writeAnswered_keeps) | split
    | (dsimp only) | (fail_if_no_progress refine Keeps.put ?_)

theorem State.opMcResponse_keeps {K : BitVec 24} {a0 : State} {s : State} {ch : ChanId} {sub : BitVec 2} {id : BitVec 6} {rsp : McRsp} (hS : Keeps K a0 s)
    (hK : 0x552342#24 ||| K = K) : Keeps K a0 (State.opMcResponse s ch sub id rsp) := by
  unfold State.opMcResponse
  repeat' first
    | (with_reducible assumption) | exact Keeps.sub hK (by decide) | (with_reducible apply State.mcAnswer_keeps)
    | (with_reducible apply State.portViolation_keeps) | split | (dsimp only)

theorem State.opPartial_keeps {K : BitVec 24} {a0 : State} {s : State} {m : Master} {key : KeyIdx} {dpa : Dpa} {mask : BitVec 64} {data : Line} {atomic : Bool} {rsp : McRsp} (hS : Keeps K a0 s)
    (hK : 0x552342#24 ||| K = K) : Keeps K a0 (State.opPartial s m key dpa mask data atomic rsp) := by
  unfold State.opPartial
  repeat' first
    | (with_reducible assumption) | exact Keeps.sub hK (by decide) | (with_reducible apply State.mcAnswer_keeps)
    | (with_reducible apply State.memRequest_keeps) | split | (dsimp only)

theorem State.opMcLost_keeps {K : BitVec 24} {a0 : State} {s : State} {ch : ChanId} (hS : Keeps K a0 s)
    (hK : 0x000004#24 ||| K = K) : Keeps K a0 (State.opMcLost s ch) := by
  unfold State.opMcLost
  repeat' first
    | (with_reducible assumption) | exact Keeps.sub hK (by decide) | split | (dsimp only)
    | (fail_if_no_progress refine Keeps.put ?_)

theorem State.opMcRelock_keeps {K : BitVec 24} {a0 : State} {s : State} {ch : ChanId} (hS : Keeps K a0 s)
    (hK : 0x552344#24 ||| K = K) : Keeps K a0 (State.opMcRelock s ch) := by
  unfold State.opMcRelock
  repeat' first
    | (with_reducible assumption) | exact Keeps.sub hK (by decide) | (with_reducible apply State.mergedGo_keeps)
    | split | (dsimp only) | (fail_if_no_progress refine Keeps.put ?_)

theorem State.opSweepStart_keeps {K : BitVec 24} {a0 : State} {s : State} {i : KeyIdx} (hS : Keeps K a0 s)
    (hK : 0x752340#24 ||| K = K) : Keeps K a0 (State.opSweepStart s i) := by
  unfold State.opSweepStart
  repeat' first
    | (with_reducible assumption) | exact Keeps.sub hK (by decide) | (with_reducible apply State.startSweep_keeps)
    | (with_reducible apply State.sweepsEnd_keeps) | split | (dsimp only)

theorem State.sweepAdvance_keeps {K : BitVec 24} {a0 : State} {s : State} {i : KeyIdx} {ch : ChanId} (hS : Keeps K a0 s)
    (hK : 0x752340#24 ||| K = K) : Keeps K a0 (State.sweepAdvance s i ch) := by
  unfold State.sweepAdvance
  repeat' first
    | (with_reducible assumption) | exact Keeps.sub hK (by decide) | (with_reducible apply State.modChan_keeps)
    | (with_reducible apply State.sweepsEnd_keeps) | split | (dsimp only)

theorem State.sweepJudge_keeps {K : BitVec 24} {a0 : State} {s : State} {i : KeyIdx} {d : Dpa} {rsp : McRsp} (hS : Keeps K a0 s)
    (hK : 0x552142#24 ||| K = K) : Keeps K a0 (State.sweepJudge s i d rsp) := by
  unfold State.sweepJudge
  repeat' first
    | (with_reducible assumption) | exact Keeps.sub hK (by decide) | (with_reducible apply State.activity_keeps)
    | (with_reducible apply State.mcWrite_keeps)
    | (with_reducible refine Keeps.ofOpt (by assumption) ?_; with_reducible apply State.mcWrite_keeps)
    | (with_reducible apply State.memAlarm_keeps) | (with_reducible apply State.modChan_keeps)
    | (with_reducible apply State.portViolation_keeps) | exact Keeps.Opt.none
    | (with_reducible refine Keeps.Opt.some ?_) | (with_reducible refine Keeps.getD ?_ ?_) | split | (dsimp only)

theorem State.opSweepLine_keeps {K : BitVec 24} {a0 : State} {s : State} {i : KeyIdx} {ch : ChanId} {rsp : McRsp} (hS : Keeps K a0 s)
    (hK : 0x752342#24 ||| K = K) : Keeps K a0 (State.opSweepLine s i ch rsp) := by
  unfold State.opSweepLine
  repeat' first
    | (with_reducible assumption) | exact Keeps.sub hK (by decide) | (with_reducible apply State.count_keeps)
    | (with_reducible apply State.memPump_keeps) | (with_reducible apply State.out_keeps)
    | (with_reducible apply State.progress_keeps) | (with_reducible apply State.sweepAdvance_keeps)
    | (with_reducible apply State.sweepJudge_keeps) | split | (dsimp only)

theorem State.opSweepUrgent_keeps {K : BitVec 24} {a0 : State} {s : State} {i : KeyIdx} (hS : Keeps K a0 s)
    (hK : 0x000100#24 ||| K = K) : Keeps K a0 (State.opSweepUrgent s i) := by
  unfold State.opSweepUrgent
  repeat' first
    | (with_reducible assumption) | exact Keeps.sub hK (by decide) | (with_reducible apply State.setMemIdx_keeps)
    | split | (dsimp only)

theorem State.opRange_keeps {K : BitVec 24} {a0 : State} {s : State} {r : BitVec 6} {base : BitVec 31} {limit : BitVec 31} {owner : Slot} {enable : Bool} (hS : Keeps K a0 s)
    (hK : 0x000100#24 ||| K = K) : Keeps K a0 (State.opRange s r base limit owner enable) := by
  unfold State.opRange
  repeat' first
    | (with_reducible assumption) | exact Keeps.sub hK (by decide) | split | (dsimp only)
    | (fail_if_no_progress refine Keeps.put ?_)

theorem State.opMcLines_keeps {K : BitVec 24} {a0 : State} {s : State} {ch : ChanId} {lines : BitVec 21} (hS : Keeps K a0 s)
    (hK : 0x752340#24 ||| K = K) : Keeps K a0 (State.opMcLines s ch lines) := by
  unfold State.opMcLines
  repeat' first
    | (with_reducible assumption) | exact Keeps.sub hK (by decide) | (with_reducible apply State.modChan_keeps)
    | (with_reducible apply State.sweepsEnd_keeps) | split | (dsimp only)

end Sys2Proof.Machine
end

