-- ==== Sys2Proof/Laws/FramePower.lean ====
section
/-! SUPPORT. The frame of each operation of Sys2Proof/Machine/Power.lean. -/

namespace Sys2Proof.Machine

set_option Elab.async false

theorem State.setReason_keeps {K : BitVec 24} {a0 : State} {s : State} {k : Nat} {on : Bool} (hS : Keeps K a0 s)
    (hK : 0x140000#24 ||| K = K) : Keeps K a0 (State.setReason s k on) := by
  unfold State.setReason
  repeat' first
    | (with_reducible assumption) | exact Keeps.sub hK (by decide) | (with_reducible apply State.trace_keeps) | split
    | (dsimp only) | (fail_if_no_progress refine Keeps.put ?_)

theorem State.opWindow_keeps {K : BitVec 24} {a0 : State} {s : State} {avgVkx : BitVec 16} {avgVkm : BitVec 16} (hS : Keeps K a0 s)
    (hK : 0x040000#24 ||| K = K) : Keeps K a0 (State.opWindow s avgVkx avgVkm) := by
  unfold State.opWindow
  repeat' first
    | (with_reducible assumption) | exact Keeps.sub hK (by decide) | (with_reducible refine Keeps.getD ?_ ?_) | split
    | (dsimp only) | (fail_if_no_progress refine Keeps.put ?_)

/-- A throttle reason coming into force or leaving it changes no issue rate. -/
theorem State.setReason_limRate (s : State) (k : Nat) (on : Bool) : (s.setReason k on).pwr.limRate = s.pwr.limRate := by
  unfold State.setReason
  dsimp only
  split
  · rfl
  · rcases (State.trace_keeps (Keeps.refl 0x100000#24 _) rfl).pwr with h | h
    · exact absurd h (by decide)
    · rw [h]
      split <;> rfl

theorem State.opThrottle_keeps {K : BitVec 24} {a0 : State} {s : State} {avgVkx : BitVec 16} {avgVkm : BitVec 16} (hS : Keeps K a0 s)
    (hK : 0x140000#24 ||| K = K) : Keeps K a0 (State.opThrottle s avgVkx avgVkm) := by
  have hdn : ∀ y : BitVec 5, y ≠ 1 → 1 ≤ y.toNat ∧ y.toNat ≤ 16 → 1 ≤ (y - 1).toNat ∧ (y - 1).toNat ≤ 16 := by decide
  have hup : ∀ y : BitVec 5, y.toNat < 16 → 1 ≤ (y + 1).toNat ∧ (y + 1).toNat ≤ 16 := by decide
  have step : ∀ t : State, Keeps K a0 t → t.pwr.limRate = s.pwr.limRate → ∀ u : Bool, Keeps K a0 { t with pwr :=
      { t.pwr with limRate := if (s.pwr.limRate == 1) = true then 1 else s.pwr.limRate - 1, limUnmet := u } } :=
    fun t g e u => Keeps.put g (hr := fun h => by
      refine ⟨?_, h.2⟩
      dsimp only
      split
      · exact ⟨by decide, by decide⟩
      · next n => exact hdn _ (fun q => n (by rw [q]; rfl)) (e ▸ h.1))
  unfold State.opThrottle
  dsimp only
  split
  · exact hS
  · split
    · refine step _ ?_ ?_ _
      · repeat' first
          | exact hS
          | exact Keeps.sub hK (by decide)
          | (with_reducible apply State.setReason_keeps)
          | split
      · repeat' first
          | rw [State.setReason_limRate]
          | rfl
          | split
    · split
      · next n =>
        have c : s.pwr.limRate.toNat < 16 := of_decide_eq_true (Bool.and_eq_true_iff.mp n).2
        have g : Keeps K a0 { s.setReason 5 false with
            pwr := { (s.setReason 5 false).pwr with limRate := s.pwr.limRate + 1 } } :=
          Keeps.put (State.setReason_keeps hS (Keeps.sub hK (by decide))) (hr := fun h => ⟨hup _ c, h.2⟩)
        split
        · exact State.setReason_keeps (State.setReason_keeps g (Keeps.sub hK (by decide))) (Keeps.sub hK (by decide))
        · exact g
      · exact State.setReason_keeps hS (Keeps.sub hK (by decide))


theorem State.setDroop_keeps {K : BitVec 24} {a0 : State} {s : State} {r : Region} {x : BitVec 5} (hS : Keeps K a0 s)
    (hx : s.pwr.ratesOk → 1 ≤ x.toNat ∧ x.toNat ≤ 16) (hK : 0x040000#24 ||| K = K) : Keeps K a0 (State.setDroop s r x) := by
  unfold State.setDroop
  split
  · exact Keeps.put hS (hr := fun h => ⟨h.1, hx h, h.2.2.1, h.2.2.2⟩)
  · exact Keeps.put hS (hr := fun h => ⟨h.1, h.2.1, hx h, h.2.2.2⟩)
  · exact Keeps.put hS (hr := fun h => ⟨h.1, h.2.1, h.2.2.1, hx h⟩)


theorem State.opDroop_keeps {K : BitVec 24} {a0 : State} {s : State} {r : Region} (hS : Keeps K a0 s)
    (hK : 0x140000#24 ||| K = K) : Keeps K a0 (State.opDroop s r) := by
  have hx : ∀ y : BitVec 5, 1 ≤ y.toNat ∧ y.toNat ≤ 16 →
      1 ≤ (if y / 2 = 0 then (1 : BitVec 5) else y / 2).toNat ∧ (if y / 2 = 0 then (1 : BitVec 5) else y / 2).toNat ≤ 16 := by
    decide
  unfold State.opDroop
  split
  · exact hS
  · refine State.setReason_keeps (State.setDroop_keeps hS (fun ok => hx _ ?_) (Keeps.sub hK (by decide)))
      (Keeps.sub hK (by decide))
    cases r
    · exact ok.2.1
    · exact ok.2.2.1
    · exact ok.2.2.2


theorem State.opDroopRelease_keeps {K : BitVec 24} {a0 : State} {s : State} {r : Region} (hS : Keeps K a0 s)
    (hK : 0x140000#24 ||| K = K) : Keeps K a0 (State.opDroopRelease s r) := by
  unfold State.opDroopRelease
  split
  · exact hS
  · exact State.setReason_keeps (State.setDroop_keeps hS (fun _ => by decide) (Keeps.sub hK (by decide))) (Keeps.sub hK (by decide))


theorem State.slotEnergy_keeps {K : BitVec 24} {a0 : State} {s : State} {d : Slot} {n : Nat} (hS : Keeps K a0 s)
    (hK : 0x040000#24 ||| K = K) : Keeps K a0 (State.slotEnergy s d n) := by
  unfold State.slotEnergy
  repeat' first
    | (with_reducible assumption) | exact Keeps.sub hK (by decide) | (with_reducible apply State.modMtr_keeps)
    | split | (dsimp only) | (fail_if_no_progress refine Keeps.put ?_)

theorem State.blockEnergy_keeps {K : BitVec 24} {a0 : State} {s : State} {n : Nat} (hS : Keeps K a0 s)
    (hK : 0x040000#24 ||| K = K) : Keeps K a0 (State.blockEnergy s n) := by
  unfold State.blockEnergy
  repeat' first
    | (with_reducible assumption) | exact Keeps.sub hK (by decide) | split | (dsimp only)
    | (fail_if_no_progress refine Keeps.put ?_)

theorem State.ctxEnergy_keeps {K : BitVec 24} {a0 : State} {s : State} {c : CtxId} {n : Nat} (hS : Keeps K a0 s)
    (hK : 0x042000#24 ||| K = K) : Keeps K a0 (State.ctxEnergy s c n) := by
  unfold State.ctxEnergy
  repeat' first
    | (with_reducible assumption) | exact Keeps.sub hK (by decide) | (with_reducible apply State.setCtx_keeps)
    | (with_reducible apply State.slotEnergy_keeps) | split | (dsimp only)

theorem State.opEnergy_keeps {K : BitVec 24} {a0 : State} {s : State} {e : EnergySample} (hS : Keeps K a0 s)
    (hK : 0x042000#24 ||| K = K) : Keeps K a0 (State.opEnergy s e) := by
  unfold State.opEnergy
  repeat' first
    | (with_reducible assumption) | exact Keeps.sub hK (by decide) | (with_reducible apply State.blockEnergy_keeps)
    | (with_reducible apply State.ctxEnergy_keeps) | (with_reducible apply State.slotEnergy_keeps)
    | (with_reducible refine Keeps.foldl ?_ (fun _ _ _ => ?_)) | split | (dsimp only)
    | (fail_if_no_progress refine Keeps.put ?_)

theorem State.boundaryTake_keeps {K : BitVec 24} {a0 : State} {s : State} {d : Slot} {T : BitVec 64} {utc : BitVec 64} {late : Bool} (hS : Keeps K a0 s)
    (hK : 0x440000#24 ||| K = K) : Keeps K a0 (State.boundaryTake s d T utc late) := by
  unfold State.boundaryTake
  repeat' first
    | (with_reducible assumption) | exact Keeps.sub hK (by decide) | (with_reducible apply State.meterDeliver_keeps)
    | (with_reducible apply State.meterTake_keeps) | (with_reducible apply State.modMtr_keeps) | split | (dsimp only)

theorem State.meterGo_keeps {K : BitVec 24} {a0 : State} {s : State} {d : Slot} (hS : Keeps K a0 s)
    (hK : 0x440000#24 ||| K = K) : Keeps K a0 (State.meterGo s d) := by
  unfold State.meterGo
  repeat' first
    | (with_reducible assumption) | exact Keeps.sub hK (by decide) | (with_reducible apply State.boundaryTake_keeps)
    | (with_reducible apply State.setMtr_keeps) | split | (dsimp only)

theorem State.opMeterGo_keeps {K : BitVec 24} {a0 : State} {s : State} {d : Slot} (hS : Keeps K a0 s)
    (hK : 0x440000#24 ||| K = K) : Keeps K a0 (State.opMeterGo s d) := by
  unfold State.opMeterGo
  repeat' first
    | (with_reducible assumption) | exact Keeps.sub hK (by decide) | (with_reducible apply State.meterGo_keeps)
    | split | (dsimp only)

theorem State.opBoundary_keeps {K : BitVec 24} {a0 : State} {s : State} {d : Slot} (hS : Keeps K a0 s)
    (hK : 0x440000#24 ||| K = K) : Keeps K a0 (State.opBoundary s d) := by
  unfold State.opBoundary
  repeat' first
    | (with_reducible assumption) | exact Keeps.sub hK (by decide) | (with_reducible apply State.boundaryTake_keeps)
    | split | (dsimp only)

end Sys2Proof.Machine
end

