-- ==== Sys2Proof/Laws/FrameReduction.lean ====
section
/-! SUPPORT. The frame of each operation of Sys2Proof/Machine/Reduction.lean. -/

namespace Sys2Proof.Machine

set_option Elab.async false

theorem State.loadProg_keeps {K : BitVec 24} {a0 : State} {s : State} {x : Cmd} {p : ProgId} {d : ProgDesc} (hS : Keeps K a0 s)
    (hK : 0x00A040#24 ||| K = K) : Keeps K a0 (State.loadProg s x p d) := by
  unfold State.loadProg
  repeat' first
    | (with_reducible assumption) | exact Keeps.sub hK (by decide) | (with_reducible apply State.cmdResult_keeps)
    | (with_reducible apply State.setProg_keeps) | (with_reducible apply State.writeKey_keeps) | split | (dsimp only)
    | (fail_if_no_progress refine Keeps.put ?_)

theorem State.copyDesc_keeps {K : BitVec 24} {a0 : State} {s : State} {x : Cmd} {p : ProgId} {t : Trans} {rsps : List McRsp} (hS : Keeps K a0 s)
    (hK : 0x55A342#24 ||| K = K) : Keeps K a0 (State.copyDesc s x p t rsps) := by
  unfold State.copyDesc
  repeat' first
    | (with_reducible assumption) | exact Keeps.sub hK (by decide) | (with_reducible apply State.alarmComma_keeps)
    | (with_reducible apply State.cmdResult_keeps) | (with_reducible apply State.fabFetch_keeps)
    | (with_reducible refine Keeps.ofOpt (by assumption) ?_; with_reducible apply State.fabFetch_keeps)
    | (with_reducible apply State.getLines_keeps)
    | (with_reducible refine Keeps.ofFst (by assumption) ?_; with_reducible apply State.getLines_keeps)
    | (with_reducible apply State.getRange_keeps)
    | (with_reducible refine Keeps.ofFst (by assumption) ?_; with_reducible apply State.getRange_keeps)
    | (with_reducible apply State.loadProg_keeps) | exact Keeps.Opt.none | (with_reducible refine Keeps.Opt.some ?_)
    | (with_reducible refine Keeps.getD ?_ ?_) | split | (dsimp only)

theorem State.opLoad_keeps {K : BitVec 24} {a0 : State} {s : State} {c : CtxId} {k : Word} {rsps : List McRsp} (hS : Keeps K a0 s)
    (hK : 0x55A342#24 ||| K = K) : Keeps K a0 (State.opLoad s c k rsps) := by
  unfold State.opLoad
  repeat' first
    | (with_reducible assumption) | exact Keeps.sub hK (by decide) | (with_reducible apply State.cmdResult_keeps)
    | (with_reducible apply State.copyDesc_keeps) | split | (dsimp only)

theorem State.addLocal_keeps {K : BitVec 24} {a0 : State} {s : State} {p : ProgId} {d : ProgDesc} {n : Nat} {i : Nat} {st : Stage} {bs : Bytes} (hS : Keeps K a0 s)
    (hK : 0x15A000#24 ||| K = K) : Keeps K a0 (State.addLocal s p d n i st bs) := by
  unfold State.addLocal
  repeat' first
    | (with_reducible assumption) | exact Keeps.sub hK (by decide) | (with_reducible apply State.addUnit_keeps)
    | (with_reducible refine Keeps.foldl ?_ (fun _ _ _ => ?_)) | split | (dsimp only)

theorem State.readLocal_keeps {K : BitVec 24} {a0 : State} {s : State} {x : Cmd} {p : ProgId} {d : ProgDesc} {n : Nat} {t : Trans} {z6 : List (Stage × Nat)} {z7 : List McRsp} (hS : Keeps K a0 s)
    (hK : 0x55A302#24 ||| K = K) : Keeps K a0 (State.readLocal s x p d n t z6 z7).1 := by
  induction z6 generalizing s x p d n t z7 with
  | nil =>
    unfold State.readLocal
    repeat' first
      | (with_reducible assumption) | exact Keeps.sub hK (by decide) | (with_reducible apply State.addLocal_keeps)
      | (with_reducible apply State.getRange_keeps)
      | (with_reducible refine Keeps.ofFst (by assumption) ?_; with_reducible apply State.getRange_keeps) | split
      | (dsimp only)
  | cons y ys ih =>
    unfold State.readLocal
    repeat' first
      | (with_reducible assumption) | exact Keeps.sub hK (by decide) | (with_reducible apply ih)
      | (with_reducible refine Keeps.ofFst (by assumption) ?_; with_reducible apply ih)
      | (with_reducible apply State.addLocal_keeps) | (with_reducible apply State.getRange_keeps)
      | (with_reducible refine Keeps.ofFst (by assumption) ?_; with_reducible apply State.getRange_keeps) | split
      | (dsimp only)

theorem State.goRead_keeps {K : BitVec 24} {a0 : State} {s : State} {c : CtxId} {k : Word} {p : ProgId} {d : ProgDesc} {n : Nat} {rsps : List McRsp} (hS : Keeps K a0 s)
    (hK : 0x75A742#24 ||| K = K) : Keeps K a0 (State.goRead s c k p d n rsps) := by
  unfold State.goRead
  repeat' first
    | (with_reducible assumption) | exact Keeps.sub hK (by decide) | (with_reducible apply State.alarmComma_keeps)
    | (with_reducible apply State.fabFetch_keeps)
    | (with_reducible refine Keeps.ofOpt (by assumption) ?_; with_reducible apply State.fabFetch_keeps)
    | (with_reducible apply State.faultIter_keeps) | (with_reducible apply State.modIter_keeps)
    | (with_reducible apply State.progPass_keeps) | (with_reducible apply State.readLocal_keeps)
    | (with_reducible refine Keeps.ofFst (by assumption) ?_; with_reducible apply State.readLocal_keeps)
    | exact Keeps.Opt.none | (with_reducible refine Keeps.Opt.some ?_) | split | (dsimp only)

theorem State.goAccept_keeps {K : BitVec 24} {a0 : State} {s : State} {x : Cmd} {p : ProgId} {d : ProgDesc} {n : Nat} (hS : Keeps K a0 s)
    (hK : 0x75A740#24 ||| K = K) : Keeps K a0 (State.goAccept s x p d n) := by
  unfold State.goAccept
  repeat' first
    | (with_reducible assumption) | exact Keeps.sub hK (by decide) | (with_reducible apply State.cmdResult_keeps)
    | (with_reducible apply State.faultIter_keeps) | (with_reducible apply State.modCmd_keeps)
    | (with_reducible apply State.modIter_keeps) | (with_reducible apply State.modProg_keeps)
    | (with_reducible apply State.openIter_keeps) | (with_reducible apply State.progPass_keeps)
    | (with_reducible refine Keeps.foldl ?_ (fun _ _ _ => ?_)) | split | (dsimp only)

theorem State.opGo_keeps {K : BitVec 24} {a0 : State} {s : State} {c : CtxId} {k : Word} {rsps : List McRsp} (hS : Keeps K a0 s)
    (hK : 0x75A742#24 ||| K = K) : Keeps K a0 (State.opGo s c k rsps) := by
  unfold State.opGo
  repeat' first
    | (with_reducible assumption) | exact Keeps.sub hK (by decide) | (with_reducible apply State.cmdResult_keeps)
    | (with_reducible apply State.goAccept_keeps) | (with_reducible apply State.goRead_keeps) | split | (dsimp only)

theorem State.opUnload_keeps {K : BitVec 24} {a0 : State} {s : State} {c : CtxId} {k : Word} (hS : Keeps K a0 s)
    (hK : 0x10A240#24 ||| K = K) : Keeps K a0 (State.opUnload s c k) := by
  unfold State.opUnload
  repeat' first
    | (with_reducible assumption) | exact Keeps.sub hK (by decide) | (with_reducible apply State.cmdResult_keeps)
    | (with_reducible apply State.unloadProg_keeps) | split | (dsimp only)

theorem State.takeContrib_keeps {K : BitVec 24} {a0 : State} {s : State} {p : ProgId} {d : ProgDesc} {n : Nat} {l : LinkId} {stamp : Time} {x : Contrib} {len : Nat} (hS : Keeps K a0 s)
    (hK : 0x75A740#24 ||| K = K) : Keeps K a0 (State.takeContrib s p d n l stamp x len) := by
  unfold State.takeContrib
  repeat' first
    | (with_reducible assumption) | exact Keeps.sub hK (by decide) | (with_reducible apply State.addUnit_keeps)
    | (with_reducible apply State.faultIter_keeps) | (with_reducible apply State.modIter_keeps)
    | (with_reducible apply State.openIter_keeps) | (with_reducible apply State.progPass_keeps) | split
    | (dsimp only)

theorem State.opTake_keeps {K : BitVec 24} {a0 : State} {s : State} {l : LinkId} (hS : Keeps K a0 s)
    (hK : 0x75A740#24 ||| K = K) : Keeps K a0 (State.opTake s l) := by
  unfold State.opTake
  repeat' first
    | (with_reducible assumption) | exact Keeps.sub hK (by decide) | (with_reducible apply State.creditReturn_keeps)
    | (with_reducible apply State.modLink_keeps) | (with_reducible apply State.modProg_keeps)
    | (with_reducible apply State.progLate_keeps) | (with_reducible apply State.redEvent_keeps)
    | (with_reducible apply State.takeContrib_keeps) | split | (dsimp only)

theorem State.opBudget_keeps {K : BitVec 24} {a0 : State} {s : State} {l : LinkId} {src : Member} {delta : BitVec 16} {reservedZero : Bool} (hS : Keeps K a0 s)
    (hK : 0x640200#24 ||| K = K) : Keeps K a0 (State.opBudget s l src delta reservedZero) := by
  unfold State.opBudget
  repeat' first
    | (with_reducible assumption) | exact Keeps.sub hK (by decide) | (with_reducible apply State.budPut_keeps)
    | (with_reducible apply State.tc0Bad_keeps) | split | (dsimp only)

end Sys2Proof.Machine
end

