-- ==== Sys2Proof/Laws/FrameTrace.lean ====
section
/-! SUPPORT. The frame of each operation of Sys2Proof/Machine/Trace.lean. -/

namespace Sys2Proof.Machine

set_option Elab.async false

theorem State.runSet_keeps {K : BitVec 24} {a0 : State} {s : State} (hS : Keeps K a0 s)
    (hK : 0x100000#24 ||| K = K) : Keeps K a0 (State.runSet s) := by
  unfold State.runSet
  repeat' first
    | (with_reducible assumption) | exact Keeps.sub hK (by decide) | split | (dsimp only)
    | (fail_if_no_progress refine Keeps.put ?_)

theorem State.runClear_keeps {K : BitVec 24} {a0 : State} {s : State} (hS : Keeps K a0 s)
    (hK : 0x100000#24 ||| K = K) : Keeps K a0 (State.runClear s) := by
  unfold State.runClear
  repeat' first
    | (with_reducible assumption) | exact Keeps.sub hK (by decide) | split | (dsimp only)
    | (fail_if_no_progress refine Keeps.put ?_)

theorem State.traceRingPut_keeps {K : BitVec 24} {a0 : State} {z0 : List TraceRec} {z1 : State} (hS : Keeps K a0 z1)
    (hK : 0x500000#24 ||| K = K) : Keeps K a0 (State.traceRingPut z0 z1) := by
  induction z0 generalizing z1 with
  | nil =>
    unfold State.traceRingPut
    repeat' first
      | (with_reducible assumption) | exact Keeps.sub hK (by decide) | (with_reducible apply State.hostWrite_keeps)
      | split | (dsimp only) | (fail_if_no_progress refine Keeps.put ?_)
  | cons y ys ih =>
    unfold State.traceRingPut
    repeat' first
      | (with_reducible assumption) | exact Keeps.sub hK (by decide) | (with_reducible apply ih)
      | (with_reducible apply State.hostWrite_keeps) | split | (dsimp only)
      | (fail_if_no_progress refine Keeps.put ?_)

theorem State.opRing_keeps {K : BitVec 24} {a0 : State} {s : State} {ok : Bool} (hS : Keeps K a0 s)
    (hK : 0x500000#24 ||| K = K) : Keeps K a0 (State.opRing s ok) := by
  unfold State.opRing
  repeat' first
    | (with_reducible assumption) | exact Keeps.sub hK (by decide) | (with_reducible apply State.traceDiscard_keeps)
    | (with_reducible apply State.traceLost_keeps) | (with_reducible apply State.traceRingPut_keeps) | split
    | (dsimp only) | (fail_if_no_progress refine Keeps.put ?_)

theorem State.markHi_keeps {K : BitVec 24} {a0 : State} {s : State} {v : Word} (hS : Keeps K a0 s)
    (hK : 0x100000#24 ||| K = K) : Keeps K a0 (State.markHi s v) := by
  unfold State.markHi
  repeat' first
    | (with_reducible assumption) | exact Keeps.sub hK (by decide) | (with_reducible apply State.trace_keeps) | split
    | (dsimp only) | (fail_if_no_progress refine Keeps.put ?_)

theorem State.opTimeMark_keeps {K : BitVec 24} {a0 : State} {s : State} {d : Slot} (hS : Keeps K a0 s)
    (hK : 0x100000#24 ||| K = K) : Keeps K a0 (State.opTimeMark s d) := by
  unfold State.opTimeMark
  repeat' first
    | (with_reducible assumption) | exact Keeps.sub hK (by decide) | (with_reducible apply State.timeMark_keeps)
    | split | (dsimp only)

end Sys2Proof.Machine
end

