-- ==== Sys2Proof/Laws/FrameRegDefs.lean ====
section
/-! SUPPORT. The frame of each operation of Sys2Proof/Machine/RegDefs.lean. -/

namespace Sys2Proof.Machine

set_option Elab.async false

/-- What a register answers a write with is framed. -/
def RegOk (k : BitVec 24) (a : State) (o : Option RegDef) : Prop :=
  ∀ r, o = some r → ∀ f, r.write = some f → ∀ w, Keeps.Opt k a (f w)

theorem RegOk.none {k : BitVec 24} {a : State} : RegOk k a none := fun _ e => nomatch e
theorem RegOk.plain {k : BitVec 24} {a : State} {v : Word} {h : Option Word} {l b : Bool} :
    RegOk k a (some { value := v, hi := h, latched := l, readable := b, write := Option.none }) := fun _ e f hf => by
  injection e with e
  subst e
  exact nomatch hf
theorem RegOk.ro {k : BitVec 24} {a : State} {v : Word} : RegOk k a (regRo v) := RegOk.plain
theorem RegOk.lo {k : BitVec 24} {a : State} {v : BitVec 64} : RegOk k a (regLo v) := RegOk.plain
theorem RegOk.hi {k : BitVec 24} {a : State} {v : BitVec 64} : RegOk k a (regHi v) := RegOk.plain
theorem RegOk.rw {k : BitVec 24} {a : State} {v : Word} {f : Word → Option State} (h : ∀ w, Keeps.Opt k a (f w)) :
    RegOk k a (regRw v f) := fun _ e g hg w => by
  injection e with e
  subst e
  injection hg with hg
  exact hg ▸ h w
theorem RegOk.ite {k : BitVec 24} {a : State} {p : Prop} [Decidable p] {x y : Option RegDef} (h : RegOk k a x)
    (g : RegOk k a y) : RegOk k a (if p then x else y) := by split <;> assumption
theorem RegOk.map {k : BitVec 24} {a : State} {o : Option RegDef} {g : RegDef → RegDef} (h : RegOk k a o)
    (hg : ∀ r, (g r).write = r.write ∨ (g r).write = Option.none) : RegOk k a (o.map g) := fun r e f hf => by
  cases o with
  | none => exact nomatch e
  | some x =>
    injection e with e
    subst e
    rcases hg x with q | q
    · exact h x rfl f (q ▸ hf)
    · rw [q] at hf
      exact nomatch hf

theorem State.regGlobal_ok {K : BitVec 24} {a0 : State} {s : State} {fn : Fn} {off : Nat} (hS : Keeps K a0 s)
    (hK : 0x7FFFFF#24 ||| K = K) : RegOk K a0 (State.regGlobal s fn off) := by
  unfold State.regGlobal
  repeat' first
    | (with_reducible assumption) | (with_reducible exact RegOk.none) | (with_reducible exact RegOk.ro)
    | (with_reducible exact RegOk.lo) | (with_reducible exact RegOk.hi) | (with_reducible exact RegOk.plain)
    | exact Keeps.sub hK (by decide) | exact Keeps.Opt.none | (with_reducible refine Keeps.Opt.some ?_)
    | (with_reducible refine RegOk.ite ?_ ?_) | (with_reducible refine RegOk.rw (fun _ => ?_))
    | (with_reducible refine RegOk.map ?_ (fun _ => ?_)) | (with_reducible refine Keeps.Opt.map ?_ (fun _ _ => ?_))
    | (with_reducible refine Keeps.Opt.mapAny (fun _ => ?_)) | split | (dsimp only)
    | (fail_if_no_progress refine Keeps.put ?_) | exact Or.inl rfl | exact Or.inr rfl | intro _

theorem State.calReg_ok {K : BitVec 24} {a0 : State} {s : State} {r : Region} (hS : Keeps K a0 s)
    (hK : 0x7FFFFF#24 ||| K = K) : RegOk K a0 (State.calReg s r) := by
  unfold State.calReg
  repeat' first
    | (with_reducible assumption) | (with_reducible exact RegOk.none) | (with_reducible exact RegOk.ro)
    | (with_reducible exact RegOk.lo) | (with_reducible exact RegOk.hi) | (with_reducible exact RegOk.plain)
    | exact Keeps.sub hK (by decide) | (with_reducible apply State.setCal_keeps) | exact Keeps.Opt.none
    | (with_reducible refine Keeps.Opt.some ?_) | (with_reducible refine RegOk.ite ?_ ?_)
    | (with_reducible refine RegOk.rw (fun _ => ?_)) | (with_reducible refine RegOk.map ?_ (fun _ => ?_)) | split
    | (dsimp only) | exact Or.inl rfl | exact Or.inr rfl | intro _

theorem State.linkClkReg_ok {K : BitVec 24} {a0 : State} {s : State} {l : LinkId} (hS : Keeps K a0 s)
    (hK : 0x7FFFFF#24 ||| K = K) : RegOk K a0 (State.linkClkReg s l) := by
  unfold State.linkClkReg
  repeat' first
    | (with_reducible assumption) | (with_reducible exact RegOk.none) | (with_reducible exact RegOk.ro)
    | (with_reducible exact RegOk.lo) | (with_reducible exact RegOk.hi) | (with_reducible exact RegOk.plain)
    | exact Keeps.sub hK (by decide) | (with_reducible apply State.modLink_keeps) | exact Keeps.Opt.none
    | (with_reducible refine Keeps.Opt.some ?_) | (with_reducible refine RegOk.ite ?_ ?_)
    | (with_reducible refine RegOk.rw (fun _ => ?_)) | (with_reducible refine RegOk.map ?_ (fun _ => ?_)) | split
    | (dsimp only) | exact Or.inl rfl | exact Or.inr rfl | intro _

theorem State.regClocks_ok {K : BitVec 24} {a0 : State} {s : State} {off : Nat} (hS : Keeps K a0 s)
    (hK : 0x7FFFFF#24 ||| K = K) : RegOk K a0 (State.regClocks s off) := by
  unfold State.regClocks
  repeat' first
    | (with_reducible assumption) | (with_reducible exact RegOk.none) | (with_reducible exact RegOk.ro)
    | (with_reducible exact RegOk.lo) | (with_reducible exact RegOk.hi) | (with_reducible exact RegOk.plain)
    | exact Keeps.sub hK (by decide) | (with_reducible apply State.calReg_ok)
    | (with_reducible apply State.linkClkReg_ok) | exact Keeps.Opt.none | (with_reducible refine Keeps.Opt.some ?_)
    | (with_reducible refine RegOk.ite ?_ ?_) | (with_reducible refine RegOk.rw (fun _ => ?_))
    | (with_reducible refine RegOk.map ?_ (fun _ => ?_)) | split | (dsimp only) | exact Or.inl rfl | exact Or.inr rfl

theorem State.shareReg_ok {K : BitVec 24} {a0 : State} {s : State} {f : Fn} {q : BitVec 3} (hS : Keeps K a0 s)
    (hK : 0x7FFFFF#24 ||| K = K) : RegOk K a0 (State.shareReg s f q) := by
  unfold State.shareReg
  repeat' first
    | (with_reducible assumption) | (with_reducible exact RegOk.none) | (with_reducible exact RegOk.ro)
    | (with_reducible exact RegOk.lo) | (with_reducible exact RegOk.hi) | (with_reducible exact RegOk.plain)
    | exact Keeps.sub hK (by decide) | (with_reducible apply State.modShare_keeps) | exact Keeps.Opt.none
    | (with_reducible refine Keeps.Opt.some ?_) | (with_reducible refine RegOk.ite ?_ ?_)
    | (with_reducible refine RegOk.rw (fun _ => ?_)) | (with_reducible refine RegOk.map ?_ (fun _ => ?_)) | split
    | (dsimp only) | exact Or.inl rfl | exact Or.inr rfl | intro _

theorem State.fnStateReg_ok {K : BitVec 24} {a0 : State} {s : State} {f : Fn} (hS : Keeps K a0 s)
    (hK : 0x7FFFFF#24 ||| K = K) : RegOk K a0 (State.fnStateReg s f) := by
  unfold State.fnStateReg
  repeat' first
    | (with_reducible assumption) | (with_reducible exact RegOk.none) | (with_reducible exact RegOk.ro)
    | (with_reducible exact RegOk.lo) | (with_reducible exact RegOk.hi) | (with_reducible exact RegOk.plain)
    | exact Keeps.sub hK (by decide) | (with_reducible apply State.modFunc_keeps) | exact Keeps.Opt.none
    | (with_reducible refine Keeps.Opt.some ?_) | (with_reducible refine RegOk.ite ?_ ?_)
    | (with_reducible refine RegOk.rw (fun _ => ?_)) | (with_reducible refine RegOk.map ?_ (fun _ => ?_)) | split
    | (dsimp only) | exact Or.inl rfl | exact Or.inr rfl | intro _

theorem State.vdReg_ok {K : BitVec 24} {a0 : State} {s : State} {v : VdId} {sub : Nat} (hS : Keeps K a0 s)
    (hK : 0x7FFFFF#24 ||| K = K) : RegOk K a0 (State.vdReg s v sub) := by
  unfold State.vdReg
  repeat' first
    | (with_reducible assumption) | (with_reducible exact RegOk.none) | (with_reducible exact RegOk.ro)
    | (with_reducible exact RegOk.lo) | (with_reducible exact RegOk.hi) | (with_reducible exact RegOk.plain)
    | exact Keeps.sub hK (by decide) | exact Keeps.Opt.none | (with_reducible refine Keeps.Opt.some ?_)
    | (with_reducible refine RegOk.ite ?_ ?_) | (with_reducible refine RegOk.rw (fun _ => ?_))
    | (with_reducible refine RegOk.map ?_ (fun _ => ?_)) | (with_reducible refine Keeps.getD ?_ ?_) | split
    | (dsimp only) | exact Or.inl rfl | exact Or.inr rfl

theorem State.vdReqReg_ok {K : BitVec 24} {a0 : State} {s : State} (hS : Keeps K a0 s)
    (hK : 0x7FFFFF#24 ||| K = K) : RegOk K a0 (State.vdReqReg s) := by
  unfold State.vdReqReg
  repeat' first
    | (with_reducible assumption) | (with_reducible exact RegOk.none) | (with_reducible exact RegOk.ro)
    | (with_reducible exact RegOk.lo) | (with_reducible exact RegOk.hi) | (with_reducible exact RegOk.plain)
    | exact Keeps.sub hK (by decide) | (with_reducible apply State.vdReqWrite_keeps) | exact Keeps.Opt.none
    | (with_reducible refine Keeps.Opt.some ?_) | (with_reducible refine RegOk.ite ?_ ?_)
    | (with_reducible refine RegOk.rw (fun _ => ?_)) | (with_reducible refine RegOk.map ?_ (fun _ => ?_)) | split
    | (dsimp only) | exact Or.inl rfl | exact Or.inr rfl | intro _

theorem State.vdStatReg_ok {K : BitVec 24} {a0 : State} {s : State} (hS : Keeps K a0 s)
    (hK : 0x7FFFFF#24 ||| K = K) : RegOk K a0 (State.vdStatReg s) := by
  unfold State.vdStatReg
  repeat' first
    | (with_reducible assumption) | (with_reducible exact RegOk.none) | (with_reducible exact RegOk.ro)
    | (with_reducible exact RegOk.lo) | (with_reducible exact RegOk.hi) | (with_reducible exact RegOk.plain)
    | exact Keeps.sub hK (by decide) | exact Keeps.Opt.none | (with_reducible refine Keeps.Opt.some ?_)
    | (with_reducible refine RegOk.ite ?_ ?_) | (with_reducible refine RegOk.rw (fun _ => ?_))
    | (with_reducible refine RegOk.map ?_ (fun _ => ?_)) | split | (dsimp only)
    | (fail_if_no_progress refine Keeps.put ?_) | exact Or.inl rfl | exact Or.inr rfl | intro _

theorem State.resetReqWrite_keeps {K : BitVec 24} {a0 : State} {s : State} {x : State.RegPins} {w : Word} (hS : Keeps K a0 s)
    (hK : 0x7FFFDF#24 ||| K = K) : Keeps.Opt K a0 (State.resetReqWrite s x w) := by
  unfold State.resetReqWrite
  repeat' first
    | (with_reducible assumption) | exact Keeps.sub hK (by decide) | (with_reducible apply State.fullStop_keeps)
    | (with_reducible apply State.requestColon_keeps) | (with_reducible apply State.requestComma_keeps)
    | (with_reducible apply State.requestSemicolon_keeps) | exact Keeps.Opt.none
    | (with_reducible refine Keeps.Opt.some ?_) | split | (dsimp only)

theorem State.engReg_ok {K : BitVec 24} {a0 : State} {s : State} {e : Nat} (hS : Keeps K a0 s)
    (hK : 0x7FFFFF#24 ||| K = K) : RegOk K a0 (State.engReg s e) := by
  unfold State.engReg
  repeat' first
    | (with_reducible assumption) | (with_reducible exact RegOk.none) | (with_reducible exact RegOk.ro)
    | (with_reducible exact RegOk.lo) | (with_reducible exact RegOk.hi) | (with_reducible exact RegOk.plain)
    | exact Keeps.sub hK (by decide) | (with_reducible apply State.modEng_keeps) | exact Keeps.Opt.none
    | (with_reducible refine Keeps.Opt.some ?_) | (with_reducible refine RegOk.ite ?_ ?_)
    | (with_reducible refine RegOk.rw (fun _ => ?_)) | (with_reducible refine RegOk.map ?_ (fun _ => ?_)) | split
    | (dsimp only) | exact Or.inl rfl | exact Or.inr rfl | intro _

theorem State.regFault_ok {K : BitVec 24} {a0 : State} {s : State} {x : State.RegPins} {off : Nat} (hS : Keeps K a0 s)
    (hK : 0x7FFFFF#24 ||| K = K) : RegOk K a0 (State.regFault s x off) := by
  unfold State.regFault
  repeat' first
    | (with_reducible assumption) | (with_reducible exact RegOk.none) | (with_reducible exact RegOk.ro)
    | (with_reducible exact RegOk.lo) | (with_reducible exact RegOk.hi) | (with_reducible exact RegOk.plain)
    | exact Keeps.sub hK (by decide) | (with_reducible apply State.engReg_ok)
    | (with_reducible apply State.resetReqWrite_keeps)
    | (with_reducible refine Keeps.ofOpt (by assumption) ?_; with_reducible apply State.resetReqWrite_keeps)
    | exact Keeps.Opt.none | (with_reducible refine Keeps.Opt.some ?_) | (with_reducible refine RegOk.ite ?_ ?_)
    | (with_reducible refine RegOk.rw (fun _ => ?_)) | (with_reducible refine RegOk.map ?_ (fun _ => ?_)) | split
    | (dsimp only) | (fail_if_no_progress refine Keeps.put ?_) | exact Or.inl rfl | exact Or.inr rfl | intro _

theorem State.regFrontEnd_ok {K : BitVec 24} {a0 : State} {s : State} {x : State.RegPins} {off : Nat} (hS : Keeps K a0 s)
    (hK : 0x7FFFFF#24 ||| K = K) : RegOk K a0 (State.regFrontEnd s x off) := by
  unfold State.regFrontEnd
  repeat' first
    | (with_reducible assumption) | (with_reducible exact RegOk.none) | (with_reducible exact RegOk.ro)
    | (with_reducible exact RegOk.lo) | (with_reducible exact RegOk.hi) | (with_reducible exact RegOk.plain)
    | exact Keeps.sub hK (by decide) | (with_reducible apply State.fnStateReg_ok)
    | (with_reducible apply State.regFault_ok) | (with_reducible apply State.shareReg_ok)
    | (with_reducible apply State.vdReg_ok) | (with_reducible apply State.vdReqReg_ok)
    | (with_reducible apply State.vdStatReg_ok) | exact Keeps.Opt.none | (with_reducible refine Keeps.Opt.some ?_)
    | (with_reducible refine RegOk.ite ?_ ?_) | (with_reducible refine RegOk.rw (fun _ => ?_))
    | (with_reducible refine RegOk.map ?_ (fun _ => ?_)) | split | (dsimp only) | exact Or.inl rfl | exact Or.inr rfl

theorem State.ringReg_ok {K : BitVec 24} {a0 : State} {r : Ring} {sub : Nat} {put : Ring → State} (hS : ∀ x, Keeps K a0 (put x))
    (_hK : 0x7FFFFF#24 ||| K = K) : RegOk K a0 (State.ringReg r sub put) := by
  unfold State.ringReg
  repeat' first
    | (with_reducible exact Keeps.Opt.none) | (refine RegOk.rw (fun _ => ?_)) | exact Keeps.Opt.some (hS _) | split


theorem State.ctxStatReg_ok {K : BitVec 24} {a0 : State} {s : State} {f : Fn} {loc : BitVec 6} (hS : Keeps K a0 s)
    (hK : 0x7FFFFF#24 ||| K = K) : RegOk K a0 (State.ctxStatReg s f loc) := by
  unfold State.ctxStatReg
  repeat' first
    | (with_reducible assumption) | (with_reducible exact RegOk.none) | (with_reducible exact RegOk.ro)
    | (with_reducible exact RegOk.lo) | (with_reducible exact RegOk.hi) | (with_reducible exact RegOk.plain)
    | exact Keeps.sub hK (by decide) | (with_reducible apply State.rearmCtx_keeps)
    | (with_reducible apply State.setCtx_keeps) | exact Keeps.Opt.none | (with_reducible refine Keeps.Opt.some ?_)
    | (with_reducible refine RegOk.ite ?_ ?_) | (with_reducible refine RegOk.rw (fun _ => ?_))
    | (with_reducible refine RegOk.map ?_ (fun _ => ?_)) | split | (dsimp only) | exact Or.inl rfl | exact Or.inr rfl
    | intro _

theorem State.regBlock_ok {K : BitVec 24} {a0 : State} {s : State} {f : Fn} {loc : BitVec 6} {off : Nat} (hS : Keeps K a0 s)
    (hK : 0x7FFFFF#24 ||| K = K) : RegOk K a0 (State.regBlock s f loc off) := by
  unfold State.regBlock
  repeat' first
    | (with_reducible assumption) | (with_reducible exact RegOk.none) | (with_reducible exact RegOk.ro)
    | (with_reducible exact RegOk.lo) | (with_reducible exact RegOk.hi) | (with_reducible exact RegOk.plain)
    | exact Keeps.sub hK (by decide) | (with_reducible apply State.cqHead_keeps)
    | (with_reducible apply State.ctxStatReg_ok) | (with_reducible apply State.ringReg_ok)
    | (with_reducible apply State.setRingsAt_keeps) | (with_reducible apply State.sqTail_keeps)
    | exact Keeps.Opt.none | (with_reducible refine Keeps.Opt.some ?_) | (with_reducible refine RegOk.ite ?_ ?_)
    | (with_reducible refine RegOk.rw (fun _ => ?_)) | (with_reducible refine RegOk.map ?_ (fun _ => ?_)) | split
    | (dsimp only) | exact Or.inl rfl | exact Or.inr rfl | intro _

theorem State.regWindow_ok {K : BitVec 24} {a0 : State} {s : State} {f : Fn} {off : Nat} (hS : Keeps K a0 s)
    (hK : 0x7FFFFF#24 ||| K = K) : RegOk K a0 (State.regWindow s f off) := by
  unfold State.regWindow
  repeat' first
    | (with_reducible assumption) | (with_reducible exact RegOk.none) | (with_reducible exact RegOk.ro)
    | (with_reducible exact RegOk.lo) | (with_reducible exact RegOk.hi) | (with_reducible exact RegOk.plain)
    | exact Keeps.sub hK (by decide) | (with_reducible apply State.modFunc_keeps)
    | (with_reducible apply State.regBlock_ok) | exact Keeps.Opt.none | (with_reducible refine Keeps.Opt.some ?_)
    | (with_reducible refine RegOk.ite ?_ ?_) | (with_reducible refine RegOk.rw (fun _ => ?_))
    | (with_reducible refine RegOk.map ?_ (fun _ => ?_)) | (with_reducible refine Keeps.getD ?_ ?_)
    | (with_reducible refine Keeps.Opt.map ?_ (fun _ _ => ?_))
    | (with_reducible refine Keeps.Opt.mapAny (fun _ => ?_)) | split | (dsimp only) | exact Or.inl rfl
    | exact Or.inr rfl | intro _

theorem State.modMbx_keeps {K : BitVec 24} {a0 : State} {s : State} {f : Fn} {g : Mbx → Mbx} (hS : Keeps K a0 s)
    (hK : 0x002000#24 ||| K = K) : Keeps K a0 (State.modMbx s f g) := by
  unfold State.modMbx
  repeat' first
    | (with_reducible assumption) | exact Keeps.sub hK (by decide) | (with_reducible apply State.modFunc_keeps)
    | split | (dsimp only)

theorem State.doorbell_keeps {K : BitVec 24} {a0 : State} {s : State} {f : Fn} (hS : Keeps K a0 s)
    (hK : 0x002000#24 ||| K = K) : Keeps K a0 (State.doorbell s f) := by
  unfold State.doorbell
  repeat' first
    | (with_reducible assumption) | exact Keeps.sub hK (by decide) | (with_reducible apply State.modMbx_keeps)
    | split | (dsimp only)

theorem State.regMailbox_ok {K : BitVec 24} {a0 : State} {s : State} {f : Fn} {off : Nat} (hS : Keeps K a0 s)
    (hK : 0x7FFFFF#24 ||| K = K) : RegOk K a0 (State.regMailbox s f off) := by
  unfold State.regMailbox
  repeat' first
    | (with_reducible assumption) | (with_reducible exact RegOk.none) | (with_reducible exact RegOk.ro)
    | (with_reducible exact RegOk.lo) | (with_reducible exact RegOk.hi) | (with_reducible exact RegOk.plain)
    | exact Keeps.sub hK (by decide) | (with_reducible apply State.doorbell_keeps)
    | (with_reducible apply State.modMbx_keeps) | exact Keeps.Opt.none | (with_reducible refine Keeps.Opt.some ?_)
    | (with_reducible refine RegOk.ite ?_ ?_) | (with_reducible refine RegOk.rw (fun _ => ?_))
    | (with_reducible refine RegOk.map ?_ (fun _ => ?_)) | split | (dsimp only) | exact Or.inl rfl | exact Or.inr rfl
    | intro _

theorem State.laneReg_ok {K : BitVec 24} {a0 : State} {s : State} {k : ClusterId} {stat : Bool} (hS : Keeps K a0 s)
    (hK : 0x7FFFFF#24 ||| K = K) : RegOk K a0 (State.laneReg s k stat) := by
  unfold State.laneReg
  repeat' first
    | (with_reducible assumption) | (with_reducible exact RegOk.none) | (with_reducible exact RegOk.ro)
    | (with_reducible exact RegOk.lo) | (with_reducible exact RegOk.hi) | (with_reducible exact RegOk.plain)
    | exact Keeps.sub hK (by decide) | (with_reducible apply State.setCluster_keeps) | exact Keeps.Opt.none
    | (with_reducible refine Keeps.Opt.some ?_) | (with_reducible refine RegOk.ite ?_ ?_)
    | (with_reducible refine RegOk.rw (fun _ => ?_)) | (with_reducible refine RegOk.map ?_ (fun _ => ?_)) | split
    | (dsimp only) | exact Or.inl rfl | exact Or.inr rfl | intro _

theorem State.sessReg_ok {K : BitVec 24} {a0 : State} {s : State} {f : Fn} (hS : Keeps K a0 s)
    (hK : 0x7FFFFF#24 ||| K = K) : RegOk K a0 (State.sessReg s f) := by
  unfold State.sessReg
  repeat' first
    | (with_reducible assumption) | (with_reducible exact RegOk.none) | (with_reducible exact RegOk.ro)
    | (with_reducible exact RegOk.lo) | (with_reducible exact RegOk.hi) | (with_reducible exact RegOk.plain)
    | exact Keeps.sub hK (by decide) | (with_reducible apply State.modSess_keeps) | exact Keeps.Opt.none
    | (with_reducible refine Keeps.Opt.some ?_) | (with_reducible refine RegOk.ite ?_ ?_)
    | (with_reducible refine RegOk.rw (fun _ => ?_)) | (with_reducible refine RegOk.map ?_ (fun _ => ?_)) | split
    | (dsimp only) | exact Or.inl rfl | exact Or.inr rfl | intro _

theorem State.regStaging_ok {K : BitVec 24} {a0 : State} {s : State} {off : Nat} (hS : Keeps K a0 s)
    (hK : 0x7FFFFF#24 ||| K = K) : RegOk K a0 (State.regStaging s off) := by
  unfold State.regStaging
  repeat' first
    | (with_reducible assumption) | (with_reducible exact RegOk.none) | (with_reducible exact RegOk.ro)
    | (with_reducible exact RegOk.lo) | (with_reducible exact RegOk.hi) | (with_reducible exact RegOk.plain)
    | exact Keeps.sub hK (by decide) | (with_reducible apply State.hostErr_keeps)
    | (with_reducible apply State.laneReg_ok) | (with_reducible apply State.sessReg_ok) | exact Keeps.Opt.none
    | (with_reducible refine Keeps.Opt.some ?_) | (with_reducible refine RegOk.ite ?_ ?_)
    | (with_reducible refine RegOk.rw (fun _ => ?_)) | (with_reducible refine RegOk.map ?_ (fun _ => ?_)) | split
    | (dsimp only) | (fail_if_no_progress refine Keeps.put ?_) | exact Or.inl rfl | exact Or.inr rfl | intro _

theorem State.regLcd_ok {K : BitVec 24} {a0 : State} {s : State} {jtag : Bool} {x : State.RegPins} {off : Nat} (hS : Keeps K a0 s)
    (hK : 0x7FFFFF#24 ||| K = K) : RegOk K a0 (State.regLcd s jtag x off) := by
  unfold State.regLcd
  repeat' first
    | (with_reducible assumption) | (with_reducible exact RegOk.none) | (with_reducible exact RegOk.ro)
    | (with_reducible exact RegOk.lo) | (with_reducible exact RegOk.hi) | (with_reducible exact RegOk.plain)
    | exact Keeps.sub hK (by decide) | (with_reducible apply State.lcWrite_keeps)
    | (with_reducible refine Keeps.ofOpt (by assumption) ?_; with_reducible apply State.lcWrite_keeps)
    | exact Keeps.Opt.none | (with_reducible refine Keeps.Opt.some ?_) | (with_reducible refine RegOk.ite ?_ ?_)
    | (with_reducible refine RegOk.rw (fun _ => ?_)) | (with_reducible refine RegOk.map ?_ (fun _ => ?_)) | split
    | (dsimp only) | (fail_if_no_progress refine Keeps.put ?_) | exact Or.inl rfl | exact Or.inr rfl | intro _

end Sys2Proof.Machine
end

