-- ==== Sys2Proof/Laws/FrameRegCore.lean ====
section
/-! SUPPORT. The frame of each operation of Sys2Proof/Machine/RegCore.lean. -/

namespace Sys2Proof.Machine

set_option Elab.async false

theorem State.regKeys_ok {K : BitVec 24} {a0 : State} {s : State} {off : Nat} (hS : Keeps K a0 s)
    (hK : 0x7FFFFF#24 ||| K = K) : RegOk K a0 (State.regKeys s off) := by
  unfold State.regKeys
  repeat' first
    | (with_reducible assumption) | (with_reducible exact RegOk.none) | (with_reducible exact RegOk.ro)
    | (with_reducible exact RegOk.lo) | (with_reducible exact RegOk.hi) | (with_reducible exact RegOk.plain)
    | exact Keeps.sub hK (by decide) | exact Keeps.Opt.none | (with_reducible refine Keeps.Opt.some ?_)
    | (with_reducible refine RegOk.ite ?_ ?_) | (with_reducible refine RegOk.rw (fun _ => ?_))
    | (with_reducible refine RegOk.map ?_ (fun _ => ?_)) | split | (dsimp only)
    | (fail_if_no_progress refine Keeps.put ?_) | exact Or.inl rfl | exact Or.inr rfl | intro _

theorem State.regDomain_ok {K : BitVec 24} {a0 : State} {s : State} {d : Slot} {off : Nat} (hS : Keeps K a0 s)
    (hK : 0x7FFFFF#24 ||| K = K) : RegOk K a0 (State.regDomain s d off) := by
  unfold State.regDomain
  repeat' first
    | (with_reducible assumption) | (with_reducible exact RegOk.none) | (with_reducible exact RegOk.ro)
    | (with_reducible exact RegOk.lo) | (with_reducible exact RegOk.hi) | (with_reducible exact RegOk.plain)
    | exact Keeps.sub hK (by decide) | (with_reducible apply State.modDom_keeps) | exact Keeps.Opt.none
    | (with_reducible refine Keeps.Opt.some ?_) | (with_reducible refine RegOk.ite ?_ ?_)
    | (with_reducible refine RegOk.rw (fun _ => ?_)) | (with_reducible refine RegOk.map ?_ (fun _ => ?_)) | split
    | (dsimp only) | exact Or.inl rfl | exact Or.inr rfl | intro _

theorem State.regMeter_ok {K : BitVec 24} {a0 : State} {s : State} {fn : Fn} {d : Slot} {off : Nat} (hS : Keeps K a0 s)
    (hK : 0x7FFFFF#24 ||| K = K) : RegOk K a0 (State.regMeter s fn d off) := by
  unfold State.regMeter
  repeat' first
    | (with_reducible assumption) | (with_reducible exact RegOk.none) | (with_reducible exact RegOk.ro)
    | (with_reducible exact RegOk.lo) | (with_reducible exact RegOk.hi) | (with_reducible exact RegOk.plain)
    | exact Keeps.sub hK (by decide) | (with_reducible apply State.meterGo_keeps)
    | (with_reducible apply State.modMtr_keeps) | (with_reducible apply State.setMtr_keeps) | exact Keeps.Opt.none
    | (with_reducible refine Keeps.Opt.some ?_) | (with_reducible refine RegOk.ite ?_ ?_)
    | (with_reducible refine RegOk.rw (fun _ => ?_)) | (with_reducible refine RegOk.map ?_ (fun _ => ?_))
    | (with_reducible refine Keeps.Opt.map ?_ (fun _ _ => ?_))
    | (with_reducible refine Keeps.Opt.mapAny (fun _ => ?_)) | split | (dsimp only) | exact Or.inl rfl
    | exact Or.inr rfl | intro _

theorem State.regPower_ok {K : BitVec 24} {a0 : State} {s : State} {fn : Fn} {off : Nat} (hS : Keeps K a0 s)
    (hK : 0x7FFFFF#24 ||| K = K) : RegOk K a0 (State.regPower s fn off) := by
  unfold State.regPower
  repeat' first
    | (with_reducible assumption) | (with_reducible exact RegOk.none) | (with_reducible exact RegOk.ro)
    | (with_reducible exact RegOk.lo) | (with_reducible exact RegOk.hi) | (with_reducible exact RegOk.plain)
    | exact Keeps.sub hK (by decide) | (with_reducible apply State.modFunc_keeps)
    | (with_reducible apply State.regMeter_ok) | exact Keeps.Opt.none | (with_reducible refine Keeps.Opt.some ?_)
    | (with_reducible refine RegOk.ite ?_ ?_) | (with_reducible refine RegOk.rw (fun _ => ?_))
    | (with_reducible refine RegOk.map ?_ (fun _ => ?_)) | (with_reducible refine Keeps.Opt.map ?_ (fun _ _ => ?_))
    | (with_reducible refine Keeps.Opt.mapAny (fun _ => ?_)) | split | (dsimp only)
    | (fail_if_no_progress refine Keeps.put ?_) | exact Or.inl rfl | exact Or.inr rfl | intro _

theorem State.tampCfgReg_ok {K : BitVec 24} {a0 : State} {s : State} {i : BitVec 2} (hS : Keeps K a0 s)
    (hK : 0x7FFFFF#24 ||| K = K) : RegOk K a0 (State.tampCfgReg s i) := by
  unfold State.tampCfgReg
  repeat' first
    | (with_reducible assumption) | (with_reducible exact RegOk.none) | (with_reducible exact RegOk.ro)
    | (with_reducible exact RegOk.lo) | (with_reducible exact RegOk.hi) | (with_reducible exact RegOk.plain)
    | exact Keeps.sub hK (by decide) | (with_reducible apply State.islandWord_keeps) | exact Keeps.Opt.none
    | (with_reducible refine Keeps.Opt.some ?_) | (with_reducible refine RegOk.ite ?_ ?_)
    | (with_reducible refine RegOk.rw (fun _ => ?_)) | (with_reducible refine RegOk.map ?_ (fun _ => ?_)) | split
    | (dsimp only) | exact Or.inl rfl | exact Or.inr rfl | intro _

theorem State.tampStatReg_ok {K : BitVec 24} {a0 : State} {s : State} {i : BitVec 2} (hS : Keeps K a0 s)
    (hK : 0x7FFFFF#24 ||| K = K) : RegOk K a0 (State.tampStatReg s i) := by
  unfold State.tampStatReg
  repeat' first
    | (with_reducible assumption) | (with_reducible exact RegOk.none) | (with_reducible exact RegOk.ro)
    | (with_reducible exact RegOk.lo) | (with_reducible exact RegOk.hi) | (with_reducible exact RegOk.plain)
    | exact Keeps.sub hK (by decide) | (with_reducible apply State.rearmDo_keeps) | exact Keeps.Opt.none
    | (with_reducible refine Keeps.Opt.some ?_) | (with_reducible refine RegOk.ite ?_ ?_)
    | (with_reducible refine RegOk.rw (fun _ => ?_)) | (with_reducible refine RegOk.map ?_ (fun _ => ?_)) | split
    | (dsimp only) | exact Or.inl rfl | exact Or.inr rfl | intro _

theorem State.regIsland_ok {K : BitVec 24} {a0 : State} {s : State} {off : Nat} (hS : Keeps K a0 s)
    (hK : 0x7FFFFF#24 ||| K = K) : RegOk K a0 (State.regIsland s off) := by
  unfold State.regIsland
  repeat' first
    | (with_reducible assumption) | (with_reducible exact RegOk.none) | (with_reducible exact RegOk.ro)
    | (with_reducible exact RegOk.lo) | (with_reducible exact RegOk.hi) | (with_reducible exact RegOk.plain)
    | exact Keeps.sub hK (by decide) | (with_reducible apply State.lockDo_keeps)
    | (with_reducible apply State.renewDo_keeps) | (with_reducible apply State.tampCfgReg_ok)
    | (with_reducible apply State.tampStatReg_ok) | exact Keeps.Opt.none | (with_reducible refine Keeps.Opt.some ?_)
    | (with_reducible refine RegOk.ite ?_ ?_) | (with_reducible refine RegOk.rw (fun _ => ?_))
    | (with_reducible refine RegOk.map ?_ (fun _ => ?_)) | split | (dsimp only)
    | (fail_if_no_progress refine Keeps.put ?_) | exact Or.inl rfl | exact Or.inr rfl | intro _

theorem State.regChan_ok {K : BitVec 24} {a0 : State} {s : State} {n : ChanId} {off : Nat} (hS : Keeps K a0 s)
    (hK : 0x7FFFFF#24 ||| K = K) : RegOk K a0 (State.regChan s n off) := by
  unfold State.regChan
  repeat' first
    | (with_reducible assumption) | (with_reducible exact RegOk.none) | (with_reducible exact RegOk.ro)
    | (with_reducible exact RegOk.lo) | (with_reducible exact RegOk.hi) | (with_reducible exact RegOk.plain)
    | exact Keeps.sub hK (by decide) | (with_reducible apply State.laneReg_ok)
    | (with_reducible apply State.setChan_keeps) | exact Keeps.Opt.none | (with_reducible refine Keeps.Opt.some ?_)
    | (with_reducible refine RegOk.ite ?_ ?_) | (with_reducible refine RegOk.rw (fun _ => ?_))
    | (with_reducible refine RegOk.map ?_ (fun _ => ?_)) | split | (dsimp only) | exact Or.inl rfl | exact Or.inr rfl
    | intro _

theorem State.rangeReg_ok {K : BitVec 24} {a0 : State} {s : State} {r : Nat} {sub : Nat} (hS : Keeps K a0 s)
    (hK : 0x7FFFFF#24 ||| K = K) : RegOk K a0 (State.rangeReg s r sub) := by
  unfold State.rangeReg
  repeat' first
    | (with_reducible assumption) | (with_reducible exact RegOk.none) | (with_reducible exact RegOk.ro)
    | (with_reducible exact RegOk.lo) | (with_reducible exact RegOk.hi) | (with_reducible exact RegOk.plain)
    | exact Keeps.sub hK (by decide) | exact Keeps.Opt.none | (with_reducible refine Keeps.Opt.some ?_)
    | (with_reducible refine RegOk.ite ?_ ?_) | (with_reducible refine RegOk.rw (fun _ => ?_))
    | (with_reducible refine RegOk.map ?_ (fun _ => ?_)) | split | (dsimp only) | exact Or.inl rfl | exact Or.inr rfl

theorem State.regMemRegion_ok {K : BitVec 24} {a0 : State} {s : State} {off : Nat} (hS : Keeps K a0 s)
    (hK : 0x7FFFFF#24 ||| K = K) : RegOk K a0 (State.regMemRegion s off) := by
  unfold State.regMemRegion
  repeat' first
    | (with_reducible assumption) | (with_reducible exact RegOk.none) | (with_reducible exact RegOk.ro)
    | (with_reducible exact RegOk.lo) | (with_reducible exact RegOk.hi) | (with_reducible exact RegOk.plain)
    | exact Keeps.sub hK (by decide) | (with_reducible apply State.rangeReg_ok) | exact Keeps.Opt.none
    | (with_reducible refine Keeps.Opt.some ?_) | (with_reducible refine RegOk.ite ?_ ?_)
    | (with_reducible refine RegOk.rw (fun _ => ?_)) | (with_reducible refine RegOk.map ?_ (fun _ => ?_)) | split
    | (dsimp only) | (fail_if_no_progress refine Keeps.put ?_) | exact Or.inl rfl | exact Or.inr rfl | intro _

theorem State.regLink_ok {K : BitVec 24} {a0 : State} {s : State} {l : LinkId} {off : Nat} (hS : Keeps K a0 s)
    (hK : 0x7FFFFF#24 ||| K = K) : RegOk K a0 (State.regLink s l off) := by
  unfold State.regLink
  repeat' first
    | (with_reducible assumption) | (with_reducible exact RegOk.none) | (with_reducible exact RegOk.ro)
    | (with_reducible exact RegOk.lo) | (with_reducible exact RegOk.hi) | (with_reducible exact RegOk.plain)
    | exact Keeps.sub hK (by decide) | (with_reducible apply State.laneReg_ok)
    | (with_reducible apply State.modLink_keeps) | exact Keeps.Opt.none | (with_reducible refine Keeps.Opt.some ?_)
    | (with_reducible refine RegOk.ite ?_ ?_) | (with_reducible refine RegOk.rw (fun _ => ?_))
    | (with_reducible refine RegOk.map ?_ (fun _ => ?_)) | split | (dsimp only) | exact Or.inl rfl | exact Or.inr rfl
    | intro _

theorem State.regFabric_ok {K : BitVec 24} {a0 : State} {s : State} {off : Nat} (hS : Keeps K a0 s)
    (hK : 0x7FFFFF#24 ||| K = K) : RegOk K a0 (State.regFabric s off) := by
  unfold State.regFabric
  repeat' first
    | (with_reducible assumption) | (with_reducible exact RegOk.none) | (with_reducible exact RegOk.ro)
    | (with_reducible exact RegOk.lo) | (with_reducible exact RegOk.hi) | (with_reducible exact RegOk.plain)
    | exact Keeps.sub hK (by decide) | exact Keeps.Opt.none | (with_reducible refine Keeps.Opt.some ?_)
    | (with_reducible refine RegOk.ite ?_ ?_) | (with_reducible refine RegOk.rw (fun _ => ?_))
    | (with_reducible refine RegOk.map ?_ (fun _ => ?_)) | split | (dsimp only)
    | (fail_if_no_progress refine Keeps.put ?_) | exact Or.inl rfl | exact Or.inr rfl | intro _

theorem State.regProg_ok {K : BitVec 24} {a0 : State} {s : State} {p : ProgId} {sub : Nat} (hS : Keeps K a0 s)
    (hK : 0x7FFFFF#24 ||| K = K) : RegOk K a0 (State.regProg s p sub) := by
  unfold State.regProg
  repeat' first
    | (with_reducible assumption) | (with_reducible exact RegOk.none) | (with_reducible exact RegOk.ro)
    | (with_reducible exact RegOk.lo) | (with_reducible exact RegOk.hi) | (with_reducible exact RegOk.plain)
    | exact Keeps.sub hK (by decide) | (with_reducible apply State.setProg_keeps) | exact Keeps.Opt.none
    | (with_reducible refine Keeps.Opt.some ?_) | (with_reducible refine RegOk.ite ?_ ?_)
    | (with_reducible refine RegOk.rw (fun _ => ?_)) | (with_reducible refine RegOk.map ?_ (fun _ => ?_))
    | (with_reducible refine Keeps.getD ?_ ?_) | split | (dsimp only) | exact Or.inl rfl | exact Or.inr rfl | intro _

theorem State.regReduction_ok {K : BitVec 24} {a0 : State} {s : State} {off : Nat} (hS : Keeps K a0 s)
    (hK : 0x7FFFFF#24 ||| K = K) : RegOk K a0 (State.regReduction s off) := by
  unfold State.regReduction
  repeat' first
    | (with_reducible assumption) | (with_reducible exact RegOk.none) | (with_reducible exact RegOk.ro)
    | (with_reducible exact RegOk.lo) | (with_reducible exact RegOk.hi) | (with_reducible exact RegOk.plain)
    | exact Keeps.sub hK (by decide) | (with_reducible apply State.regProg_ok) | exact Keeps.Opt.none
    | (with_reducible refine Keeps.Opt.some ?_) | (with_reducible refine RegOk.ite ?_ ?_)
    | (with_reducible refine RegOk.rw (fun _ => ?_)) | (with_reducible refine RegOk.map ?_ (fun _ => ?_)) | split
    | (dsimp only) | (fail_if_no_progress refine Keeps.put ?_) | exact Or.inl rfl | exact Or.inr rfl | intro _

theorem State.traceCtl_keeps {K : BitVec 24} {a0 : State} {s : State} {w : Word} (hS : Keeps K a0 s)
    (hK : 0x100000#24 ||| K = K) : Keeps.Opt K a0 (State.traceCtl s w) := by
  unfold State.traceCtl
  repeat' first
    | (with_reducible assumption) | exact Keeps.sub hK (by decide) | (with_reducible apply State.runClear_keeps)
    | (with_reducible apply State.runSet_keeps) | exact Keeps.Opt.none | (with_reducible refine Keeps.Opt.some ?_)
    | split | (dsimp only) | (fail_if_no_progress refine Keeps.put ?_)

theorem State.regTel_ok {K : BitVec 24} {a0 : State} {s : State} {off : Nat} (hS : Keeps K a0 s)
    (hK : 0x7FFFFF#24 ||| K = K) : RegOk K a0 (State.regTel s off) := by
  unfold State.regTel
  repeat' first
    | (with_reducible assumption) | (with_reducible exact RegOk.none) | (with_reducible exact RegOk.ro)
    | (with_reducible exact RegOk.lo) | (with_reducible exact RegOk.hi) | (with_reducible exact RegOk.plain)
    | exact Keeps.sub hK (by decide) | (with_reducible apply State.markHi_keeps)
    | (with_reducible apply State.traceCtl_keeps)
    | (with_reducible refine Keeps.ofOpt (by assumption) ?_; with_reducible apply State.traceCtl_keeps)
    | exact Keeps.Opt.none | (with_reducible refine Keeps.Opt.some ?_) | (with_reducible refine RegOk.ite ?_ ?_)
    | (with_reducible refine RegOk.rw (fun _ => ?_)) | (with_reducible refine RegOk.map ?_ (fun _ => ?_)) | split
    | (dsimp only) | (fail_if_no_progress refine Keeps.put ?_) | exact Or.inl rfl | exact Or.inr rfl | intro _

end Sys2Proof.Machine
end

