-- ==== Sys2Proof/Laws/FrameRegisters.lean ====
section
/-! SUPPORT. The frame of each operation of Sys2Proof/Machine/Registers.lean. -/

namespace Sys2Proof.Machine

set_option Elab.async false

theorem State.regAt_ok {K : BitVec 24} {a0 : State} {s : State} {fn : Fn} {jtag : Bool} {x : State.RegPins} {a : RegArea} {off : Nat} (hS : Keeps K a0 s)
    (hK : 0x7FFFFF#24 ||| K = K) : RegOk K a0 (State.regAt s fn jtag x a off) := by
  unfold State.regAt
  repeat' first
    | (with_reducible assumption) | (with_reducible exact RegOk.none) | (with_reducible exact RegOk.ro)
    | (with_reducible exact RegOk.lo) | (with_reducible exact RegOk.hi) | (with_reducible exact RegOk.plain)
    | exact Keeps.sub hK (by decide) | (with_reducible apply State.regChan_ok)
    | (with_reducible apply State.regClocks_ok) | (with_reducible apply State.regDomain_ok)
    | (with_reducible apply State.regFabric_ok) | (with_reducible apply State.regFrontEnd_ok)
    | (with_reducible apply State.regGlobal_ok) | (with_reducible apply State.regIsland_ok)
    | (with_reducible apply State.regKeys_ok) | (with_reducible apply State.regLcd_ok)
    | (with_reducible apply State.regLink_ok) | (with_reducible apply State.regMailbox_ok)
    | (with_reducible apply State.regMemRegion_ok) | (with_reducible apply State.regPower_ok)
    | (with_reducible apply State.regReduction_ok) | (with_reducible apply State.regStaging_ok)
    | (with_reducible apply State.regTel_ok) | (with_reducible apply State.regWindow_ok) | exact Keeps.Opt.none
    | (with_reducible refine Keeps.Opt.some ?_) | (with_reducible refine RegOk.ite ?_ ?_)
    | (with_reducible refine RegOk.rw (fun _ => ?_)) | (with_reducible refine RegOk.map ?_ (fun _ => ?_)) | split
    | (dsimp only) | exact Or.inl rfl | exact Or.inr rfl

theorem State.regReadDo_keeps {K : BitVec 24} {a0 : State} {s : State} {fn : Fn} {addr : Nat} {r : RegDef}
    (hS : Keeps K a0 s) (hK : 0x7FFFFF#24 ||| K = K) : Keeps K a0 (State.regReadDo s fn addr r).state := by
  unfold State.regReadDo
  dsimp only
  split
  · exact hS
  · exact Keeps.put hS


theorem State.regAccess_keeps {K : BitVec 24} {a0 : State} {s : State} {fn : Fn} {write : Bool} {addr : Nat} {w : Word}
    {r : RegDef} (hS : Keeps K a0 s) (hR : ∀ f, r.write = some f → ∀ w, Keeps.Opt K a0 (f w))
    (hK : 0x7FFFFF#24 ||| K = K) : Keeps K a0 (State.regAccess s fn write addr w r).state := by
  unfold State.regAccess
  split
  · split
    · exact State.regReadDo_keeps hS hK
    · exact hS
  · split
    · exact hS
    · next f e =>
      split
      · exact hS
      · next t et => exact hR f e w t et


theorem State.regDecide_keeps {K : BitVec 24} {a0 : State} {s : State} {fn : Fn} {jtag write : Bool} {x : RegPins} {addr : Nat} {w : Word}
    (hS : Keeps K a0 s) (hK : 0x7FFFFF#24 ||| K = K) : Keeps K a0 (State.regDecide s fn jtag write x addr w).state := by
  unfold State.regDecide
  repeat' first
    | exact hS
    | exact State.regAccess_keeps hS (State.regAt_ok hS hK _ ‹_›) hK
    | split


theorem State.regCapture_keeps {K : BitVec 24} {a0 : State} {s : State} {fn : Fn} {write : Bool} {addr : BitVec 24} {code : BitVec 2} (hS : Keeps K a0 s)
    (hK : 0x000002#24 ||| K = K) : Keeps K a0 (State.regCapture s fn write addr code) := by
  unfold State.regCapture
  repeat' first
    | (with_reducible assumption) | exact Keeps.sub hK (by decide) | split | (dsimp only)
    | (fail_if_no_progress refine Keeps.put ?_)

theorem State.regDo_keeps {K : BitVec 24} {a0 : State} {s : State} {fn : Fn} {jtag write : Bool} {x : RegPins} {addr : BitVec 24} {w : Word}
    (hS : Keeps K a0 s) (hK : 0x7FFFFF#24 ||| K = K) : Keeps K a0 (State.regDo s fn jtag write x addr w).state := by
  unfold State.regDo
  dsimp only
  split
  · exact State.regDecide_keeps hS hK
  · exact State.regCapture_keeps (State.regDecide_keeps hS hK) (Keeps.sub hK (by decide))


theorem State.opReg_keeps {K : BitVec 24} {a0 : State} {s : State} {fn : Fn} {write : Bool} {x : RegPins} {addr : BitVec 24} {w : Word}
    (hS : Keeps K a0 s) (hK : 0x7FFFFF#24 ||| K = K) : Keeps K a0 (State.opReg s fn write x addr w) := by
  unfold State.opReg
  split
  · exact State.out_keeps (State.regDo_keeps hS hK) (Keeps.sub hK (by decide))
  · exact hS


theorem State.opDbg_keeps {K : BitVec 24} {a0 : State} {s : State} {write : Bool} {x : RegPins} {addr : BitVec 24} {w : Word}
    (hS : Keeps K a0 s) (hK : 0x7FFFFF#24 ||| K = K) : Keeps K a0 (State.opDbg s write x addr w) := by
  unfold State.opDbg
  split
  · exact State.out_keeps hS (Keeps.sub hK (by decide))
  · exact State.out_keeps (State.regCapture_keeps hS (Keeps.sub hK (by decide))) (Keeps.sub hK (by decide))
  · exact State.out_keeps (State.regDo_keeps hS hK) (Keeps.sub hK (by decide))


theorem State.opResetReq_keeps {K : BitVec 24} {a0 : State} {s : State} {lvl : BitVec 3} {confirm : BitVec 16} {target : BitVec 10} {x : State.RegPins} (hS : Keeps K a0 s)
    (hK : 0x7FFFFF#24 ||| K = K) : Keeps K a0 (State.opResetReq s lvl confirm target x) := by
  unfold State.opResetReq
  repeat' first
    | (with_reducible assumption) | exact Keeps.sub hK (by decide) | (with_reducible apply State.opReg_keeps) | split
    | (dsimp only)

theorem State.opLc_keeps {K : BitVec 24} {a0 : State} {s : State} {jtag : Bool} {fn : Fn} {confirm : BitVec 16} {target : BitVec 2} {x : State.RegPins} (hS : Keeps K a0 s)
    (hK : 0x7FFFFF#24 ||| K = K) : Keeps K a0 (State.opLc s jtag fn confirm target x) := by
  unfold State.opLc
  repeat' first
    | (with_reducible assumption) | exact Keeps.sub hK (by decide) | (with_reducible apply State.opDbg_keeps)
    | (with_reducible apply State.opReg_keeps) | split | (dsimp only)

end Sys2Proof.Machine
end

