-- ==== Sys2Proof/Laws/FrameTimeTc0.lean ====
section
/-! SUPPORT. The frame of each operation of Sys2Proof/Machine/TimeTc0.lean. -/

namespace Sys2Proof.Machine

set_option Elab.async false

theorem State.haltRefused_keeps {K : BitVec 24} {a0 : State} {s : State} {l : LinkId} (hS : Keeps K a0 s)
    (hK : 0x000200#24 ||| K = K) : Keeps K a0 (State.haltRefused s l) := by
  unfold State.haltRefused
  repeat' first
    | (with_reducible assumption) | exact Keeps.sub hK (by decide) | (with_reducible apply State.modLink_keeps)
    | split | (dsimp only)

theorem State.opHalt_keeps {K : BitVec 24} {a0 : State} {s : State} {l : LinkId} {r : Route} {m : HaltMsg} (hS : Keeps K a0 s)
    (hK : 0x000200#24 ||| K = K) : Keeps K a0 (State.opHalt s l r m) := by
  unfold State.opHalt
  repeat' first
    | (with_reducible assumption) | exact Keeps.sub hK (by decide) | (with_reducible apply State.haltRefused_keeps)
    | (with_reducible apply State.modLink_keeps) | (with_reducible refine Keeps.foldl ?_ (fun _ _ _ => ?_)) | split
    | (dsimp only)

theorem State.opHaltRelease_keeps {K : BitVec 24} {a0 : State} {s : State} {l : LinkId} {r : Route} {m : HaltMsg} (hS : Keeps K a0 s)
    (hK : 0x000200#24 ||| K = K) : Keeps K a0 (State.opHaltRelease s l r m) := by
  unfold State.opHaltRelease
  repeat' first
    | (with_reducible assumption) | exact Keeps.sub hK (by decide) | (with_reducible apply State.haltRefused_keeps)
    | (with_reducible apply State.modLink_keeps) | (with_reducible refine Keeps.foldl ?_ (fun _ _ _ => ?_)) | split
    | (dsimp only)

theorem State.opGateExpiry_keeps {K : BitVec 24} {a0 : State} {s : State} {l : LinkId} {c : Cls} (hS : Keeps K a0 s)
    (hK : 0x000200#24 ||| K = K) : Keeps K a0 (State.opGateExpiry s l c) := by
  unfold State.opGateExpiry
  repeat' first
    | (with_reducible assumption) | exact Keeps.sub hK (by decide) | (with_reducible apply State.modLink_keeps)
    | split | (dsimp only)

theorem State.opTimeTimer_keeps {K : BitVec 24} {a0 : State} {s : State} {d : Slot} {t1 : BitVec 64} (hS : Keeps K a0 s)
    (hK : 0x000600#24 ||| K = K) : Keeps K a0 (State.opTimeTimer s d t1) := by
  unfold State.opTimeTimer
  repeat' first
    | (with_reducible assumption) | exact Keeps.sub hK (by decide) | (with_reducible apply State.setDom_keeps)
    | (with_reducible apply State.tc0Own_keeps) | (with_reducible refine Keeps.foldl ?_ (fun _ _ _ => ?_)) | split
    | (dsimp only)

theorem State.opTimeReq_keeps {K : BitVec 24} {a0 : State} {s : State} {l : LinkId} {m : TimeMsg} {t2 : BitVec 64} {t3 : BitVec 64} (hS : Keeps K a0 s)
    (hK : 0x000200#24 ||| K = K) : Keeps K a0 (State.opTimeReq s l m t2 t3) := by
  unfold State.opTimeReq
  repeat' first
    | (with_reducible assumption) | exact Keeps.sub hK (by decide) | (with_reducible apply State.modLink_keeps)
    | (with_reducible apply State.tc0Bad_keeps) | (with_reducible apply State.tc0Own_keeps) | split | (dsimp only)

theorem State.opTimeResp_keeps {K : BitVec 24} {a0 : State} {s : State} {l : LinkId} {m : TimeMsg} {t4 : BitVec 64} (hS : Keeps K a0 s)
    (hK : 0x100600#24 ||| K = K) : Keeps K a0 (State.opTimeResp s l m t4) := by
  unfold State.opTimeResp
  repeat' first
    | (with_reducible assumption) | exact Keeps.sub hK (by decide) | (with_reducible apply State.modDom_keeps)
    | (with_reducible apply State.modLink_keeps) | (with_reducible apply State.tc0Bad_keeps)
    | (with_reducible apply State.timeMark_keeps) | split | (dsimp only)

theorem State.opTimeLockLoss_keeps {K : BitVec 24} {a0 : State} {s : State} {d : Slot} (hS : Keeps K a0 s)
    (hK : 0x000400#24 ||| K = K) : Keeps K a0 (State.opTimeLockLoss s d) := by
  unfold State.opTimeLockLoss
  repeat' first
    | (with_reducible assumption) | exact Keeps.sub hK (by decide) | (with_reducible apply State.modDom_keeps)
    | split | (dsimp only)

theorem State.opTimeSave_keeps {K : BitVec 24} {a0 : State} {s : State} (hS : Keeps K a0 s)
    (hK : 0x080000#24 ||| K = K) : Keeps K a0 (State.opTimeSave s) := by
  unfold State.opTimeSave
  repeat' first
    | (with_reducible assumption) | exact Keeps.sub hK (by decide) | split | (dsimp only)
    | (fail_if_no_progress refine Keeps.put ?_)

theorem State.opIslandTick_keeps {K : BitVec 24} {a0 : State} {s : State} (hS : Keeps K a0 s)
    (hK : 0x080000#24 ||| K = K) : Keeps K a0 (State.opIslandTick s) := by
  unfold State.opIslandTick
  repeat' first
    | (with_reducible assumption) | exact Keeps.sub hK (by decide) | split | (dsimp only)
    | (fail_if_no_progress refine Keeps.put ?_)

end Sys2Proof.Machine
end

