-- ==== Sys2Proof/Laws/FrameExec.lean ====
section
/-! SUPPORT. The frame of each command: what may differ from the state before in the state it answers. -/

namespace Sys2Proof.Machine

set_option Elab.async false

theorem execPorBRise_keeps {straps : Straps} {refclkOk : Bool} {s : State} {s₂ : State}
    (hn : execPorBRise straps refclkOk s = .next s₂) : Keeps 0x1FFFDF#24 s s₂ := by
  obtain rfl := Host.Outcome.next.inj hn
  repeat' first
    | (with_reducible exact Keeps.refl _ _) | (with_reducible assumption) | (with_reducible decide)
    | (with_reducible apply State.opPorBRise_keeps) | split | (dsimp only) | intro _

theorem execPorBFall_keeps {s : State} {s₂ : State}
    (hn : execPorBFall s = .next s₂) : Keeps 0x1FFFDF#24 s s₂ := by
  obtain rfl := Host.Outcome.next.inj hn
  repeat' first
    | (with_reducible exact Keeps.refl _ _) | (with_reducible assumption) | (with_reducible decide)
    | (with_reducible apply State.opPorBFall_keeps) | split | (dsimp only) | intro _

theorem execSysRstBPulse_keeps {roleSel : BitVec 1} {s : State} {s₂ : State}
    (hn : execSysRstBPulse roleSel s = .next s₂) : Keeps 0x7FFFDF#24 s s₂ := by
  obtain rfl := Host.Outcome.next.inj hn
  repeat' first
    | (with_reducible exact Keeps.refl _ _) | (with_reducible assumption) | (with_reducible decide)
    | (with_reducible apply State.opSysRst_keeps) | split | (dsimp only) | intro _

theorem execRefclkLost_keeps {roleSel : BitVec 1} {s : State} {s₂ : State}
    (hn : execRefclkLost roleSel s = .next s₂) : Keeps 0x7FFFDF#24 s s₂ := by
  obtain rfl := Host.Outcome.next.inj hn
  repeat' first
    | (with_reducible exact Keeps.refl _ _) | (with_reducible assumption) | (with_reducible decide)
    | (with_reducible apply State.opRefclkLost_keeps) | split | (dsimp only) | intro _

theorem execRefclkReturn_keeps {env : StartEnv} {s : State} {s₂ : State}
    (hn : execRefclkReturn env s = .next s₂) : Keeps 0x7FFFFF#24 s s₂ := by
  obtain rfl := Host.Outcome.next.inj hn
  repeat' first
    | (with_reducible exact Keeps.refl _ _) | (with_reducible assumption) | (with_reducible decide)
    | (with_reducible apply State.opRefclkReturn_keeps) | split | (dsimp only) | intro _

theorem execReferenceSettleDelayEnd_keeps {env : StartEnv} {s : State} {s₂ : State}
    (hn : execReferenceSettleDelayEnd env s = .next s₂) : Keeps 0x7FFFFF#24 s s₂ := by
  obtain rfl := Host.Outcome.next.inj hn
  repeat' first
    | (with_reducible exact Keeps.refl _ _) | (with_reducible assumption) | (with_reducible decide)
    | (with_reducible apply State.opSettleEnd_keeps) | split | (dsimp only) | intro _

theorem execFullStopDone_keeps {env : StartEnv} {s : State} {s₂ : State}
    (hn : execFullStopDone env s = .next s₂) : Keeps 0x7FFFFF#24 s s₂ := by
  obtain rfl := Host.Outcome.next.inj hn
  repeat' first
    | (with_reducible exact Keeps.refl _ _) | (with_reducible assumption) | (with_reducible decide)
    | (with_reducible apply State.opFullStopDone_keeps) | split | (dsimp only) | intro _

theorem execResetWatchdogExpiry_keeps {level : BitVec 3} {target : BitVec 10} {roleSel : BitVec 1} {s : State} {s₂ : State}
    (hn : execResetWatchdogExpiry level target roleSel s = .next s₂) : Keeps 0x7FFFDF#24 s s₂ := by
  obtain rfl := Host.Outcome.next.inj hn
  repeat' first
    | (with_reducible exact Keeps.refl _ _) | (with_reducible assumption) | (with_reducible decide)
    | (with_reducible apply State.watchdog_keeps) | (with_reducible apply State.settleAll_keeps) | split
    | (dsimp only) | intro _

/-- The word of a requested reset carries its level. -/
theorem resetReq_level {lvl : BitVec 3} {target : BitVec 10} :
    (fields [(29, lvl.toNat), (10, (0 : BitVec 16).toNat), (0, target.toNat)]).extractLsb' 29 3 = lvl := by
  have h1 : ∀ l : BitVec 3, (BitVec.ofNat 32 (l.toNat * 2 ^ 29)).extractLsb' 29 3 = l := by decide
  have h2 : (BitVec.ofNat 32 (target.toNat * 2 ^ 0)).extractLsb' 29 3 = 0 := by
    apply BitVec.eq_of_toNat_eq
    have := target.isLt
    simp
    omega
  simp only [fields, List.foldl, BitVec.extractLsb'_or, h1, h2]
  simp

/-- A write of KX_FLT_RESET_REQ below a Full Stop changes what a reset of its level changes, or nothing. -/
theorem resetReqDecide_keeps {K : BitVec 24} {s : State} {lvl : BitVec 3} {x : State.RegPins} {w : Word}
    (hw : w.extractLsb' 29 3 = lvl) (h4 : lvl ≠ 4) (hK : 0x75FF40#24 ||| K = K) :
    Keeps K s (State.regDecide s 0 false true x 0x015008 w).state := by
  have ha : regAreaOf 0x015008 = some (.frontEnd, 0x5008) := by decide
  have hr : s.regAt 0 false x .frontEnd 0x5008 = regRw 0 (s.resetReqWrite x) := by
    unfold State.regAt State.regFrontEnd State.regFault
    rfl
  have hwr : ∀ t, s.resetReqWrite x w = some t → Keeps K s t := by
    intro t ht
    simp only [State.resetReqWrite, hw, h4, if_false] at ht
    repeat' split at ht
    all_goals first | obtain rfl := Option.some.inj ht | exact nomatch ht
    · exact State.requestComma_keeps (Keeps.refl _ _) (Keeps.sub hK (by decide))
    · exact State.requestSemicolon_keeps (Keeps.refl _ _) (Keeps.sub hK (by decide))
    · exact State.requestColon_keeps (Keeps.refl _ _) (Keeps.sub hK (by decide))
  unfold State.regDecide
  rw [ha]
  dsimp only
  rw [hr]
  simp only [regRw, State.regAccess]
  repeat' split
  all_goals first | exact Keeps.refl _ _ | exact hwr _ ‹_›

theorem resetReqBelow_keeps {K : BitVec 24} {s : State} {lvl : BitVec 3} {target : BitVec 10} {x : State.RegPins} (h4 : lvl ≠ 4)
    (hK : 0x75FF42#24 ||| K = K) : Keeps K s (s.opResetReq lvl 0 target x) := by
  have hD := resetReqDecide_keeps (s := s) (x := x) (resetReq_level (lvl := lvl) (target := target)) h4
    (Keeps.sub hK (by decide))
  unfold State.opResetReq State.opReg
  split
  · refine State.out_keeps ?_ (Keeps.sub hK (by decide))
    unfold State.regDo
    dsimp only
    split
    · exact hD
    · exact State.regCapture_keeps hD (Keeps.sub hK (by decide))
  · exact Keeps.refl _ _

theorem execResetReqComma_keeps {target : CtxId} {completes : Bool} {s : State} {s₂ : State}
    (hn : execResetReqComma target completes s = .next s₂) : Keeps 0x75FF42#24 s s₂ := by
  obtain rfl := Host.Outcome.next.inj hn
  exact State.settleAll_keeps (resetReqBelow_keeps (by decide) (by decide)) (by decide)


theorem execResetReqSemicolon_keeps {target : BitVec 10} {completes : Bool} {s : State} {s₂ : State}
    (hn : execResetReqSemicolon target completes s = .next s₂) : Keeps 0x75FF42#24 s s₂ := by
  obtain rfl := Host.Outcome.next.inj hn
  exact State.settleAll_keeps (resetReqBelow_keeps (by decide) (by decide)) (by decide)


theorem execResetReqColon_keeps {target : BitVec 10} {completes : Bool} {s : State} {s₂ : State}
    (hn : execResetReqColon target completes s = .next s₂) : Keeps 0x75FF42#24 s s₂ := by
  obtain rfl := Host.Outcome.next.inj hn
  exact State.settleAll_keeps (resetReqBelow_keeps (by decide) (by decide)) (by decide)


theorem execResetReqFullStop_keeps {confirm : BitVec 16} {target : BitVec 10} {roleSel : BitVec 1} {s : State} {s₂ : State}
    (hn : execResetReqFullStop confirm target roleSel s = .next s₂) : Keeps 0x7FFFFF#24 s s₂ := by
  obtain rfl := Host.Outcome.next.inj hn
  repeat' first
    | (with_reducible exact Keeps.refl _ _) | (with_reducible assumption) | (with_reducible decide)
    | (with_reducible apply State.opResetReq_keeps) | split | (dsimp only) | intro _

theorem execRegisterWrite_keeps {fn : Fn} {write : Bool} {addr : BitVec 24} {data : Word} {s : State} {s₂ : State}
    (hn : execRegisterWrite fn write addr data s = .next s₂) : Keeps 0x7FFFFF#24 s s₂ := by
  obtain rfl := Host.Outcome.next.inj hn
  repeat' first
    | (with_reducible exact Keeps.refl _ _) | (with_reducible assumption) | (with_reducible decide)
    | (with_reducible apply State.opReg_keeps) | (with_reducible apply State.settleAll_keeps) | split | (dsimp only)
    | intro _

theorem execDbgAccess_keeps {write : Bool} {addr : BitVec 24} {data : Word} {s : State} {s₂ : State}
    (hn : execDbgAccess write addr data s = .next s₂) : Keeps 0x7FFFFF#24 s s₂ := by
  obtain rfl := Host.Outcome.next.inj hn
  repeat' first
    | (with_reducible exact Keeps.refl _ _) | (with_reducible assumption) | (with_reducible decide)
    | (with_reducible apply State.opDbg_keeps) | (with_reducible apply State.settleAll_keeps) | split | (dsimp only)
    | intro _

theorem execMemReadRequest_keeps {m : Master} {key : KeyIdx} {dpa : Dpa} {s : State} {s₂ : State}
    (hn : execMemReadRequest m key dpa s = .next s₂) : Keeps 0x75B340#24 s s₂ := by
  obtain rfl := Host.Outcome.next.inj hn
  repeat' first
    | (with_reducible exact Keeps.refl _ _) | (with_reducible assumption) | (with_reducible decide)
    | (with_reducible apply State.opRead_keeps) | (with_reducible apply State.settleAll_keeps) | split | (dsimp only)
    | intro _

theorem execMemWriteRequest_keeps {m : Master} {key : KeyIdx} {dpa : Dpa} {data : Line} {s : State} {s₂ : State}
    (hn : execMemWriteRequest m key dpa data s = .next s₂) : Keeps 0x75B340#24 s s₂ := by
  obtain rfl := Host.Outcome.next.inj hn
  repeat' first
    | (with_reducible exact Keeps.refl _ _) | (with_reducible assumption) | (with_reducible decide)
    | (with_reducible apply State.opWrite_keeps) | (with_reducible apply State.settleAll_keeps) | split
    | (dsimp only) | intro _

theorem execMemPartialWrite_keeps {m : Master} {key : KeyIdx} {dpa : Dpa} {mask : BitVec 64} {data : Line} {atomic : Bool} {rsp : McRsp} {s : State} {s₂ : State}
    (hn : execMemPartialWrite m key dpa mask data atomic rsp s = .next s₂) : Keeps 0x75B342#24 s s₂ := by
  obtain rfl := Host.Outcome.next.inj hn
  repeat' first
    | (with_reducible exact Keeps.refl _ _) | (with_reducible assumption) | (with_reducible decide)
    | (with_reducible apply State.opPartial_keeps) | (with_reducible apply State.settleAll_keeps) | split
    | (dsimp only) | intro _

theorem execMcResponse_keeps {ch : ChanId} {sub : BitVec 2} {id : BitVec 6} {rsp : McRsp} {s : State} {s₂ : State}
    (hn : execMcResponse ch sub id rsp s = .next s₂) : Keeps 0x75B342#24 s s₂ := by
  obtain rfl := Host.Outcome.next.inj hn
  repeat' first
    | (with_reducible exact Keeps.refl _ _) | (with_reducible assumption) | (with_reducible decide)
    | (with_reducible apply State.opMcResponse_keeps) | (with_reducible apply State.settleAll_keeps) | split
    | (dsimp only) | intro _

theorem execMcClkLost_keeps {ch : ChanId} {s : State} {s₂ : State}
    (hn : execMcClkLost ch s = .next s₂) : Keeps 0x000004#24 s s₂ := by
  obtain rfl := Host.Outcome.next.inj hn
  repeat' first
    | (with_reducible exact Keeps.refl _ _) | (with_reducible assumption) | (with_reducible decide)
    | (with_reducible apply State.opMcLost_keeps) | split | (dsimp only) | intro _

theorem execMcClkRelock_keeps {ch : ChanId} {s : State} {s₂ : State}
    (hn : execMcClkRelock ch s = .next s₂) : Keeps 0x75B344#24 s s₂ := by
  obtain rfl := Host.Outcome.next.inj hn
  repeat' first
    | (with_reducible exact Keeps.refl _ _) | (with_reducible assumption) | (with_reducible decide)
    | (with_reducible apply State.opMcRelock_keeps) | (with_reducible apply State.settleAll_keeps) | split
    | (dsimp only) | intro _

theorem execSweepStart_keeps {idx : KeyIdx} {s : State} {s₂ : State}
    (hn : execSweepStart idx s = .next s₂) : Keeps 0x75B340#24 s s₂ := by
  obtain rfl := Host.Outcome.next.inj hn
  repeat' first
    | (with_reducible exact Keeps.refl _ _) | (with_reducible assumption) | (with_reducible decide)
    | (with_reducible apply State.opSweepStart_keeps) | (with_reducible apply State.settleAll_keeps) | split
    | (dsimp only) | intro _

theorem execSweepLine_keeps {idx : KeyIdx} {ch : ChanId} {rsp : McRsp} {s : State} {s₂ : State}
    (hn : execSweepLine idx ch rsp s = .next s₂) : Keeps 0x75B342#24 s s₂ := by
  obtain rfl := Host.Outcome.next.inj hn
  repeat' first
    | (with_reducible exact Keeps.refl _ _) | (with_reducible assumption) | (with_reducible decide)
    | (with_reducible apply State.opSweepLine_keeps) | (with_reducible apply State.settleAll_keeps) | split
    | (dsimp only) | intro _

theorem execSweepUrgent_keeps {idx : KeyIdx} {s : State} {s₂ : State}
    (hn : execSweepUrgent idx s = .next s₂) : Keeps 0x000100#24 s s₂ := by
  obtain rfl := Host.Outcome.next.inj hn
  repeat' first
    | (with_reducible exact Keeps.refl _ _) | (with_reducible assumption) | (with_reducible decide)
    | (with_reducible apply State.opSweepUrgent_keeps) | split | (dsimp only) | intro _

theorem execLkUpRise_keeps {l : LinkId} {qualified : Option (BitVec 11)} {s : State} {s₂ : State}
    (hn : execLkUpRise l qualified s = .next s₂) : Keeps 0x600600#24 s s₂ := by
  obtain rfl := Host.Outcome.next.inj hn
  repeat' first
    | (with_reducible exact Keeps.refl _ _) | (with_reducible assumption) | (with_reducible decide)
    | (with_reducible apply State.opUpRise_keeps) | split | (dsimp only) | intro _

theorem execLkUpFall_keeps {l : LinkId} {s : State} {s₂ : State}
    (hn : execLkUpFall l s = .next s₂) : Keeps 0x75BF40#24 s s₂ := by
  obtain rfl := Host.Outcome.next.inj hn
  repeat' first
    | (with_reducible exact Keeps.refl _ _) | (with_reducible assumption) | (with_reducible decide)
    | (with_reducible apply State.opUpFall_keeps) | (with_reducible apply State.settleAll_keeps) | split
    | (dsimp only) | intro _

theorem execLinkClockStall_keeps {l : LinkId} {tx : Bool} {s : State} {s₂ : State}
    (hn : execLinkClockStall l tx s = .next s₂) : Keeps 0x400200#24 s s₂ := by
  obtain rfl := Host.Outcome.next.inj hn
  repeat' first
    | (with_reducible exact Keeps.refl _ _) | (with_reducible assumption) | (with_reducible decide)
    | (with_reducible apply State.opStall_keeps) | split | (dsimp only) | intro _

theorem execLinkClockQualified_keeps {l : LinkId} {rxFreq : BitVec 11} {s : State} {s₂ : State}
    (hn : execLinkClockQualified l rxFreq s = .next s₂) : Keeps 0x400200#24 s s₂ := by
  obtain rfl := Host.Outcome.next.inj hn
  repeat' first
    | (with_reducible exact Keeps.refl _ _) | (with_reducible assumption) | (with_reducible decide)
    | (with_reducible apply State.opQualified_keeps) | split | (dsimp only) | intro _

theorem execLkTxCredit_keeps {l : LinkId} {c : Cls} {s : State} {s₂ : State}
    (hn : execLkTxCredit l c s = .next s₂) : Keeps 0x000200#24 s s₂ := by
  obtain rfl := Host.Outcome.next.inj hn
  repeat' first
    | (with_reducible exact Keeps.refl _ _) | (with_reducible assumption) | (with_reducible decide)
    | (with_reducible apply State.opTxCredit_keeps) | split | (dsimp only) | intro _

theorem execReceiveGroup_keeps {l : LinkId} {units : List RxUnit} {rowBad : Bool} {s : State} {s₂ : State}
    (hn : execReceiveGroup l units rowBad s = .next s₂) : Keeps 0x7FFFDF#24 s s₂ := by
  obtain rfl := Host.Outcome.next.inj hn
  repeat' first
    | (with_reducible exact Keeps.refl _ _) | (with_reducible assumption) | (with_reducible decide)
    | (with_reducible apply State.opReceiveUnits_keeps) | (with_reducible apply State.settleAll_keeps) | split
    | (dsimp only) | intro _

theorem execGroupConfirm_keeps {l : LinkId} {c : Cls} {seq : BitVec 64} {s : State} {s₂ : State}
    (hn : execGroupConfirm l c seq s = .next s₂) : Keeps 0x75BF40#24 s s₂ := by
  obtain rfl := Host.Outcome.next.inj hn
  repeat' first
    | (with_reducible exact Keeps.refl _ _) | (with_reducible assumption) | (with_reducible decide)
    | (with_reducible apply State.opVerdict_keeps) | (with_reducible apply State.settleAll_keeps) | split
    | (dsimp only) | intro _

theorem execGroupRepudiate_keeps {l : LinkId} {c : Cls} {seq : BitVec 64} {s : State} {s₂ : State}
    (hn : execGroupRepudiate l c seq s = .next s₂) : Keeps 0x75BF40#24 s s₂ := by
  obtain rfl := Host.Outcome.next.inj hn
  repeat' first
    | (with_reducible exact Keeps.refl _ _) | (with_reducible assumption) | (with_reducible decide)
    | (with_reducible apply State.opVerdict_keeps) | (with_reducible apply State.settleAll_keeps) | split
    | (dsimp only) | intro _

theorem execTransmitGroup_keeps {l : LinkId} {c : Cls} {req : Option TxReq} {rowBad : Bool} {s : State} {s₂ : State}
    (hn : execTransmitGroup l c req rowBad s = .next s₂) : Keeps 0x7FFFDF#24 s s₂ := by
  obtain rfl := Host.Outcome.next.inj hn
  repeat' first
    | (with_reducible exact Keeps.refl _ _) | (with_reducible assumption) | (with_reducible decide)
    | (with_reducible apply State.opTransmit_keeps) | (with_reducible apply State.settleAll_keeps) | split
    | (dsimp only) | intro _

theorem execTc0TokenTick_keeps {l : LinkId} {s : State} {s₂ : State}
    (hn : execTc0TokenTick l s = .next s₂) : Keeps 0x000200#24 s s₂ := by
  obtain rfl := Host.Outcome.next.inj hn
  repeat' first
    | (with_reducible exact Keeps.refl _ _) | (with_reducible assumption) | (with_reducible decide)
    | (with_reducible apply State.opToken_keeps) | split | (dsimp only) | intro _

theorem execFloodCacheExpiry_keeps {slot : Slot} {src : Member} {transfer : BitVec 32} {s : State} {s₂ : State}
    (hn : execFloodCacheExpiry slot src transfer s = .next s₂) : Keeps 0x000800#24 s s₂ := by
  obtain rfl := Host.Outcome.next.inj hn
  repeat' first
    | (with_reducible exact Keeps.refl _ _) | (with_reducible assumption) | (with_reducible decide)
    | (with_reducible apply State.opFloodExpiry_keeps) | split | (dsimp only) | intro _

theorem execDeliveryClkLost_keeps {s : State} {s₂ : State}
    (hn : execDeliveryClkLost s = .next s₂) : Keeps 0x400204#24 s s₂ := by
  obtain rfl := Host.Outcome.next.inj hn
  repeat' first
    | (with_reducible exact Keeps.refl _ _) | (with_reducible assumption) | (with_reducible decide)
    | (with_reducible apply State.opCdLost_keeps) | split | (dsimp only) | intro _

theorem execDeliveryClkRelock_keeps {s : State} {s₂ : State}
    (hn : execDeliveryClkRelock s = .next s₂) : Keeps 0x75BF44#24 s s₂ := by
  obtain rfl := Host.Outcome.next.inj hn
  repeat' first
    | (with_reducible exact Keeps.refl _ _) | (with_reducible assumption) | (with_reducible decide)
    | (with_reducible apply State.opCdRelock_keeps) | (with_reducible apply State.settleAll_keeps) | split
    | (dsimp only) | intro _

theorem execLinkPulseTimer_keeps {l : LinkId} {s : State} {s₂ : State}
    (hn : execLinkPulseTimer l s = .next s₂) : Keeps 0x000200#24 s s₂ := by
  obtain rfl := Host.Outcome.next.inj hn
  repeat' first
    | (with_reducible exact Keeps.refl _ _) | (with_reducible assumption) | (with_reducible decide)
    | (with_reducible apply State.opPulse_keeps) | split | (dsimp only) | intro _

theorem execPartnerLost_keeps {l : LinkId} {s : State} {s₂ : State}
    (hn : execPartnerLost l s = .next s₂) : Keeps 0x75BF40#24 s s₂ := by
  obtain rfl := Host.Outcome.next.inj hn
  repeat' first
    | (with_reducible exact Keeps.refl _ _) | (with_reducible assumption) | (with_reducible decide)
    | (with_reducible apply State.opLost_keeps) | (with_reducible apply State.settleAll_keeps) | split | (dsimp only)
    | intro _

theorem execLinkBye_keeps {l : LinkId} {_cause : Byte} {reservedZero : Bool} {s : State} {s₂ : State}
    (hn : execLinkBye l _cause reservedZero s = .next s₂) : Keeps 0x75BF40#24 s s₂ := by
  obtain rfl := Host.Outcome.next.inj hn
  repeat' first
    | (with_reducible exact Keeps.refl _ _) | (with_reducible assumption) | (with_reducible decide)
    | (with_reducible apply State.opBye_keeps) | (with_reducible apply State.settleAll_keeps) | split | (dsimp only)
    | intro _

theorem execTombstoneExpiry_keeps {l : LinkId} {s : State} {s₂ : State}
    (hn : execTombstoneExpiry l s = .next s₂) : Keeps 0x000200#24 s s₂ := by
  obtain rfl := Host.Outcome.next.inj hn
  repeat' first
    | (with_reducible exact Keeps.refl _ _) | (with_reducible assumption) | (with_reducible decide)
    | (with_reducible apply State.opTombEnd_keeps) | split | (dsimp only) | intro _

theorem execHello_keeps {l : LinkId} {p : AgrPrefix} {b : AgrBody} {s : State} {s₂ : State}
    (hn : execHello l p b s = .next s₂) : Keeps 0x75BF40#24 s s₂ := by
  obtain rfl := Host.Outcome.next.inj hn
  repeat' first
    | (with_reducible exact Keeps.refl _ _) | (with_reducible assumption) | (with_reducible decide)
    | (with_reducible apply State.opHello_keeps) | (with_reducible apply State.settleAll_keeps) | split
    | (dsimp only) | intro _

theorem execReply_keeps {l : LinkId} {p : AgrPrefix} {b : AgrBody} {s : State} {s₂ : State}
    (hn : execReply l p b s = .next s₂) : Keeps 0x010600#24 s s₂ := by
  obtain rfl := Host.Outcome.next.inj hn
  repeat' first
    | (with_reducible exact Keeps.refl _ _) | (with_reducible assumption) | (with_reducible decide)
    | (with_reducible apply State.opReply_keeps) | split | (dsimp only) | intro _

theorem execFinish_keeps {l : LinkId} {p : AgrPrefix} {sigI : Bytes} {kcI : BitVec 128} {s : State} {s₂ : State}
    (hn : execFinish l p sigI kcI s = .next s₂) : Keeps 0x110640#24 s s₂ := by
  obtain rfl := Host.Outcome.next.inj hn
  repeat' first
    | (with_reducible exact Keeps.refl _ _) | (with_reducible assumption) | (with_reducible decide)
    | (with_reducible apply State.opFinish_keeps) | split | (dsimp only) | intro _

theorem execDone_keeps {l : LinkId} {p : AgrPrefix} {kcR : BitVec 128} {s : State} {s₂ : State}
    (hn : execDone l p kcR s = .next s₂) : Keeps 0x110640#24 s s₂ := by
  obtain rfl := Host.Outcome.next.inj hn
  repeat' first
    | (with_reducible exact Keeps.refl _ _) | (with_reducible assumption) | (with_reducible decide)
    | (with_reducible apply State.opDone_keeps) | split | (dsimp only) | intro _

theorem execAbort_keeps {l : LinkId} {p : AgrPrefix} {reason : Byte} {s : State} {s₂ : State}
    (hn : execAbort l p reason s = .next s₂) : Keeps 0x000600#24 s s₂ := by
  obtain rfl := Host.Outcome.next.inj hn
  repeat' first
    | (with_reducible exact Keeps.refl _ _) | (with_reducible assumption) | (with_reducible decide)
    | (with_reducible apply State.opAbort_keeps) | split | (dsimp only) | intro _

theorem execAgreementAttemptTimeout_keeps {l : LinkId} {s : State} {s₂ : State}
    (hn : execAgreementAttemptTimeout l s = .next s₂) : Keeps 0x000600#24 s s₂ := by
  obtain rfl := Host.Outcome.next.inj hn
  repeat' first
    | (with_reducible exact Keeps.refl _ _) | (with_reducible assumption) | (with_reducible decide)
    | (with_reducible apply State.opAttemptTimeout_keeps) | split | (dsimp only) | intro _

theorem execAgreementRetry_keeps {l : LinkId} {s : State} {s₂ : State}
    (hn : execAgreementRetry l s = .next s₂) : Keeps 0x200600#24 s s₂ := by
  obtain rfl := Host.Outcome.next.inj hn
  repeat' first
    | (with_reducible exact Keeps.refl _ _) | (with_reducible assumption) | (with_reducible decide)
    | (with_reducible apply State.opRetry_keeps) | split | (dsimp only) | intro _

theorem execResponderTimeout_keeps {l : LinkId} {s : State} {s₂ : State}
    (hn : execResponderTimeout l s = .next s₂) : Keeps 0x000600#24 s s₂ := by
  obtain rfl := Host.Outcome.next.inj hn
  repeat' first
    | (with_reducible exact Keeps.refl _ _) | (with_reducible assumption) | (with_reducible decide)
    | (with_reducible apply State.opResponderTimeout_keeps) | split | (dsimp only) | intro _

theorem execLinkAgree_keeps {h : MbxHdr} {slot : Slot} {l : LinkId} {s : State} {s₂ : State}
    (hn : execLinkAgree h slot l s = .next s₂) : Keeps 0x612600#24 s s₂ := by
  obtain rfl := Host.Outcome.next.inj hn
  repeat' first
    | (with_reducible exact Keeps.refl _ _) | (with_reducible assumption) | (with_reducible decide)
    | (with_reducible apply State.linkAgreeDo_keeps) | (with_reducible apply State.mbxPf_keeps) | split
    | (dsimp only) | intro _

theorem execLinkClose_keeps {h : MbxHdr} {slot : Slot} {l : LinkId} {s : State} {s₂ : State}
    (hn : execLinkClose h slot l s = .next s₂) : Keeps 0x75BF40#24 s s₂ := by
  obtain rfl := Host.Outcome.next.inj hn
  repeat' first
    | (with_reducible exact Keeps.refl _ _) | (with_reducible assumption) | (with_reducible decide)
    | (with_reducible apply State.linkCloseDo_keeps) | (with_reducible apply State.mbxPf_keeps)
    | (with_reducible apply State.settleAll_keeps) | split | (dsimp only) | intro _

theorem execKeyThreshold_keeps {l : LinkId} {c : Cls} {s : State} {s₂ : State}
    (hn : execKeyThreshold l c s = .next s₂) : Keeps 0x000240#24 s s₂ := by
  obtain rfl := Host.Outcome.next.inj hn
  repeat' first
    | (with_reducible exact Keeps.refl _ _) | (with_reducible assumption) | (with_reducible decide)
    | (with_reducible apply State.opThreshold_keeps) | split | (dsimp only) | intro _

theorem execKeyLimit_keeps {row : RowId} {s : State} {s₂ : State}
    (hn : execKeyLimit row s = .next s₂) : Keeps 0x75B340#24 s s₂ := by
  obtain rfl := Host.Outcome.next.inj hn
  repeat' first
    | (with_reducible exact Keeps.refl _ _) | (with_reducible assumption) | (with_reducible decide)
    | (with_reducible apply State.opKeyLimit_keeps) | (with_reducible apply State.settleAll_keeps) | split
    | (dsimp only) | intro _

theorem execKeyRoll_keeps {l : LinkId} {c : Cls} {s : State} {s₂ : State}
    (hn : execKeyRoll l c s = .next s₂) : Keeps 0x000240#24 s s₂ := by
  obtain rfl := Host.Outcome.next.inj hn
  repeat' first
    | (with_reducible exact Keeps.refl _ _) | (with_reducible assumption) | (with_reducible decide)
    | (with_reducible apply State.opKeyRoll_keeps) | split | (dsimp only) | intro _

theorem execKeyFuture_keeps {l : LinkId} {m : TenseMsg} {s : State} {s₂ : State}
    (hn : execKeyFuture l m s = .next s₂) : Keeps 0x010240#24 s s₂ := by
  obtain rfl := Host.Outcome.next.inj hn
  repeat' first
    | (with_reducible exact Keeps.refl _ _) | (with_reducible assumption) | (with_reducible decide)
    | (with_reducible apply State.opKeyFuture_keeps) | split | (dsimp only) | intro _

theorem execKeyReady_keeps {l : LinkId} {m : TenseMsg} {s : State} {s₂ : State}
    (hn : execKeyReady l m s = .next s₂) : Keeps 0x010240#24 s s₂ := by
  obtain rfl := Host.Outcome.next.inj hn
  repeat' first
    | (with_reducible exact Keeps.refl _ _) | (with_reducible assumption) | (with_reducible decide)
    | (with_reducible apply State.opKeyReady_keeps) | split | (dsimp only) | intro _

theorem execTenseRetryExpiry_keeps {l : LinkId} {c : Cls} {s : State} {s₂ : State}
    (hn : execTenseRetryExpiry l c s = .next s₂) : Keeps 0x75BF40#24 s s₂ := by
  obtain rfl := Host.Outcome.next.inj hn
  repeat' first
    | (with_reducible exact Keeps.refl _ _) | (with_reducible assumption) | (with_reducible decide)
    | (with_reducible apply State.opTenseRetry_keeps) | (with_reducible apply State.settleAll_keeps) | split
    | (dsimp only) | intro _

theorem execPastGraceExpiry_keeps {l : LinkId} {c : Cls} {s : State} {s₂ : State}
    (hn : execPastGraceExpiry l c s = .next s₂) : Keeps 0x75B340#24 s s₂ := by
  obtain rfl := Host.Outcome.next.inj hn
  repeat' first
    | (with_reducible exact Keeps.refl _ _) | (with_reducible assumption) | (with_reducible decide)
    | (with_reducible apply State.opPastGrace_keeps) | (with_reducible apply State.settleAll_keeps) | split
    | (dsimp only) | intro _

theorem execKeyInvalidate_keeps {row : RowId} {mismatch : Bool} {s : State} {s₂ : State}
    (hn : execKeyInvalidate row mismatch s = .next s₂) : Keeps 0x7FFFDF#24 s s₂ := by
  obtain rfl := Host.Outcome.next.inj hn
  repeat' first
    | (with_reducible exact Keeps.refl _ _) | (with_reducible assumption) | (with_reducible decide)
    | (with_reducible apply State.opInvalidate_keeps) | (with_reducible apply State.settleAll_keeps) | split
    | (dsimp only) | intro _

theorem execDusProgram_keeps {badRows : List (BitVec 7)} {s : State} {s₂ : State}
    (hn : execDusProgram badRows s = .next s₂) : Keeps 0x730078#24 s s₂ := by
  obtain rfl := Host.Outcome.next.inj hn
  repeat' first
    | (with_reducible exact Keeps.refl _ _) | (with_reducible assumption) | (with_reducible decide)
    | (with_reducible apply State.opDus_keeps) | split | (dsimp only) | intro _

theorem execLaneMismatch_keeps {cl : ClusterId} {x : LaneCheck} {s : State} {s₂ : State}
    (hn : execLaneMismatch cl x s = .next s₂) : Keeps 0x7FFFDF#24 s s₂ := by
  obtain rfl := Host.Outcome.next.inj hn
  repeat' first
    | (with_reducible exact Keeps.refl _ _) | (with_reducible assumption) | (with_reducible decide)
    | (with_reducible apply State.opMismatch_keeps) | (with_reducible apply State.settleAll_keeps) | split
    | (dsimp only) | intro _

theorem execLaneBurstEnd_keeps {r : Region} {s : State} {s₂ : State}
    (hn : execLaneBurstEnd r s = .next s₂) : Keeps 0x000080#24 s s₂ := by
  obtain rfl := Host.Outcome.next.inj hn
  repeat' first
    | (with_reducible exact Keeps.refl _ _) | (with_reducible assumption) | (with_reducible decide)
    | (with_reducible apply State.opBurstEnd_keeps) | split | (dsimp only) | intro _

theorem execPatrol_keeps {cl : ClusterId} {pass : Bool} {s : State} {s₂ : State}
    (hn : execPatrol cl pass s = .next s₂) : Keeps 0x530088#24 s s₂ := by
  obtain rfl := Host.Outcome.next.inj hn
  repeat' first
    | (with_reducible exact Keeps.refl _ _) | (with_reducible assumption) | (with_reducible decide)
    | (with_reducible apply State.opPatrol_keeps) | split | (dsimp only) | intro _

theorem execGhashMismatch_keeps {s : State} {s₂ : State}
    (hn : execGhashMismatch s = .next s₂) : Keeps 0x530088#24 s s₂ := by
  obtain rfl := Host.Outcome.next.inj hn
  repeat' first
    | (with_reducible exact Keeps.refl _ _) | (with_reducible assumption) | (with_reducible decide)
    | (with_reducible apply State.opGhash_keeps) | split | (dsimp only) | intro _

theorem execMonitorWarning_keeps {r : Region} {s : State} {s₂ : State}
    (hn : execMonitorWarning r s = .next s₂) : Keeps 0x7FFFDF#24 s s₂ := by
  obtain rfl := Host.Outcome.next.inj hn
  repeat' first
    | (with_reducible exact Keeps.refl _ _) | (with_reducible assumption) | (with_reducible decide)
    | (with_reducible apply State.opMonitor_keeps) | split | (dsimp only) | intro _

theorem execFunctionEnableWrite_keeps {t : EnTarget} {on : Bool} {s : State} {s₂ : State}
    (hn : execFunctionEnableWrite t on s = .next s₂) : Keeps 0x77BF45#24 s s₂ := by
  obtain rfl := Host.Outcome.next.inj hn
  repeat' first
    | (with_reducible exact Keeps.refl _ _) | (with_reducible assumption) | (with_reducible decide)
    | (with_reducible apply State.opEnable_keeps) | (with_reducible apply State.settleAll_keeps) | split
    | (dsimp only) | intro _

theorem execTrayEnable_keeps {s : State} {s₂ : State}
    (hn : execTrayEnable s = .next s₂) : Keeps 0x420004#24 s s₂ := by
  obtain rfl := Host.Outcome.next.inj hn
  repeat' first
    | (with_reducible exact Keeps.refl _ _) | (with_reducible assumption) | (with_reducible decide)
    | (with_reducible apply State.opTrayEnable_keeps) | split | (dsimp only) | intro _

theorem execTrayAck_keeps {s : State} {s₂ : State}
    (hn : execTrayAck s = .next s₂) : Keeps 0x420000#24 s s₂ := by
  obtain rfl := Host.Outcome.next.inj hn
  repeat' first
    | (with_reducible exact Keeps.refl _ _) | (with_reducible assumption) | (with_reducible decide)
    | (with_reducible apply State.opTrayAck_keeps) | split | (dsimp only) | intro _

theorem execTrayIbiRepeat_keeps {s : State} {s₂ : State}
    (hn : execTrayIbiRepeat s = .next s₂) : Keeps 0x400000#24 s s₂ := by
  obtain rfl := Host.Outcome.next.inj hn
  repeat' first
    | (with_reducible exact Keeps.refl _ _) | (with_reducible assumption) | (with_reducible decide)
    | (with_reducible apply State.opTrayRepeat_keeps) | split | (dsimp only) | intro _

theorem execPmLim_keeps {rail : Rail} {val : BitVec 12} {s : State} {s₂ : State}
    (hn : execPmLim rail val s = .next s₂) : Keeps 0x040001#24 s s₂ := by
  obtain rfl := Host.Outcome.next.inj hn
  repeat' first
    | (with_reducible exact Keeps.refl _ _) | (with_reducible assumption) | (with_reducible decide)
    | (with_reducible apply State.opLim_keeps) | split | (dsimp only) | intro _

theorem execHdFlrValid_keeps {f : Fn} {s : State} {s₂ : State}
    (hn : execHdFlrValid f s = .next s₂) : Keeps 0x75B345#24 s s₂ := by
  obtain rfl := Host.Outcome.next.inj hn
  repeat' first
    | (with_reducible exact Keeps.refl _ _) | (with_reducible assumption) | (with_reducible decide)
    | (with_reducible apply State.flr_keeps) | (with_reducible apply State.settleAll_keeps) | split | (dsimp only)
    | intro _

theorem execDmaReadCompletion_keeps {id : BitVec 8} {status : BitVec 2} {bytes : BitVec 13} {last : Bool} {s : State} {s₂ : State}
    (hn : execDmaReadCompletion id status bytes last s = .next s₂) : Keeps 0x75B342#24 s s₂ := by
  obtain rfl := Host.Outcome.next.inj hn
  repeat' first
    | (with_reducible exact Keeps.refl _ _) | (with_reducible assumption) | (with_reducible decide)
    | (with_reducible apply State.opDmaRead_keeps) | (with_reducible apply State.settleAll_keeps) | split
    | (dsimp only) | intro _

theorem execHostErrReport_keeps {f : Fn} {s : State} {s₂ : State}
    (hn : execHostErrReport f s = .next s₂) : Keeps 0x75B340#24 s s₂ := by
  obtain rfl := Host.Outcome.next.inj hn
  repeat' first
    | (with_reducible exact Keeps.refl _ _) | (with_reducible assumption) | (with_reducible decide)
    | (with_reducible apply State.opHostErr_keeps) | (with_reducible apply State.settleAll_keeps) | split
    | (dsimp only) | intro _

theorem execSqTailWrite_keeps {f : Fn} {loc : BitVec 6} {q : BitVec 3} {tail : Word} {s : State} {s₂ : State}
    (hn : execSqTailWrite f loc q tail s = .next s₂) : Keeps 0x002000#24 s s₂ := by
  obtain rfl := Host.Outcome.next.inj hn
  repeat' first
    | (with_reducible exact Keeps.refl _ _) | (with_reducible assumption) | (with_reducible decide)
    | (with_reducible apply State.opSqTail_keeps) | split | (dsimp only) | intro _

theorem execCqHeadWrite_keeps {f : Fn} {loc : BitVec 6} {head : Word} {s : State} {s₂ : State}
    (hn : execCqHeadWrite f loc head s = .next s₂) : Keeps 0x502000#24 s s₂ := by
  obtain rfl := Host.Outcome.next.inj hn
  repeat' first
    | (with_reducible exact Keeps.refl _ _) | (with_reducible assumption) | (with_reducible decide)
    | (with_reducible apply State.opCqHead_keeps) | split | (dsimp only) | intro _

theorem execDescriptorFetch_keeps {c : CtxId} {q : BitVec 3} {d : DmaData} {s : State} {s₂ : State}
    (hn : execDescriptorFetch c q d s = .next s₂) : Keeps 0x502002#24 s s₂ := by
  obtain rfl := Host.Outcome.next.inj hn
  repeat' first
    | (with_reducible exact Keeps.refl _ _) | (with_reducible assumption) | (with_reducible decide)
    | (with_reducible apply State.fetchOne_keeps) | split | (dsimp only) | intro _

theorem execArbitrationEpoch_keeps {s : State} {s₂ : State}
    (hn : execArbitrationEpoch s = .next s₂) : Keeps 0x512000#24 s s₂ := by
  obtain rfl := Host.Outcome.next.inj hn
  repeat' first
    | (with_reducible exact Keeps.refl _ _) | (with_reducible assumption) | (with_reducible decide)
    | (with_reducible apply State.epoch_keeps) | split | (dsimp only) | intro _

theorem execBucketRefill_keeps {s : State} {s₂ : State}
    (hn : execBucketRefill s = .next s₂) : Keeps 0x002000#24 s s₂ := by
  obtain rfl := Host.Outcome.next.inj hn
  repeat' first
    | (with_reducible exact Keeps.refl _ _) | (with_reducible assumption) | (with_reducible decide)
    | (with_reducible apply State.refill_keeps) | split | (dsimp only) | intro _

theorem execCommandCompletion_keeps {c : CtxId} {q : BitVec 3} {k : Word} {_writeOk : Bool} {s : State} {s₂ : State}
    (hn : execCommandCompletion c q k _writeOk s = .next s₂) : Keeps 0x542040#24 s s₂ := by
  obtain rfl := Host.Outcome.next.inj hn
  repeat' first
    | (with_reducible exact Keeps.refl _ _) | (with_reducible assumption) | (with_reducible decide)
    | (with_reducible apply State.opCompletion_keeps) | split | (dsimp only) | intro _

theorem execCtxRearm_keeps {f : Fn} {loc : BitVec 6} {s : State} {s₂ : State}
    (hn : execCtxRearm f loc s = .next s₂) : Keeps 0x002000#24 s s₂ := by
  obtain rfl := Host.Outcome.next.inj hn
  repeat' first
    | (with_reducible exact Keeps.refl _ _) | (with_reducible assumption) | (with_reducible decide)
    | (with_reducible apply State.opRearm_keeps) | split | (dsimp only) | intro _

theorem execCancel_keeps {c : CtxId} {k : Word} {s : State} {s₂ : State}
    (hn : execCancel c k s = .next s₂) : Keeps 0x75B340#24 s s₂ := by
  obtain rfl := Host.Outcome.next.inj hn
  repeat' first
    | (with_reducible exact Keeps.refl _ _) | (with_reducible assumption) | (with_reducible decide)
    | (with_reducible apply State.opCancel1_keeps) | (with_reducible apply State.settleAll_keeps) | split
    | (dsimp only) | intro _

theorem execCtxCreate_keeps {c : CtxId} {k : Word} {s : State} {s₂ : State}
    (hn : execCtxCreate c k s = .next s₂) : Keeps 0x002000#24 s s₂ := by
  obtain rfl := Host.Outcome.next.inj hn
  repeat' first
    | (with_reducible exact Keeps.refl _ _) | (with_reducible assumption) | (with_reducible decide)
    | (with_reducible apply State.opCreate_keeps) | split | (dsimp only) | intro _

theorem execCtxDestroy_keeps {c : CtxId} {k : Word} {s : State} {s₂ : State}
    (hn : execCtxDestroy c k s = .next s₂) : Keeps 0x75B340#24 s s₂ := by
  obtain rfl := Host.Outcome.next.inj hn
  repeat' first
    | (with_reducible exact Keeps.refl _ _) | (with_reducible assumption) | (with_reducible decide)
    | (with_reducible apply State.opDestroy_keeps) | (with_reducible apply State.settleAll_keeps) | split
    | (dsimp only) | intro _

theorem execObjMap_keeps {c : CtxId} {k : Word} {s : State} {s₂ : State}
    (hn : execObjMap c k s = .next s₂) : Keeps 0x202000#24 s s₂ := by
  obtain rfl := Host.Outcome.next.inj hn
  repeat' first
    | (with_reducible exact Keeps.refl _ _) | (with_reducible assumption) | (with_reducible decide)
    | (with_reducible apply State.opMap_keeps) | split | (dsimp only) | intro _

theorem execObjUnmap_keeps {c : CtxId} {k : Word} {s : State} {s₂ : State}
    (hn : execObjUnmap c k s = .next s₂) : Keeps 0x002000#24 s s₂ := by
  obtain rfl := Host.Outcome.next.inj hn
  repeat' first
    | (with_reducible exact Keeps.refl _ _) | (with_reducible assumption) | (with_reducible decide)
    | (with_reducible apply State.opUnmap_keeps) | split | (dsimp only) | intro _

theorem execNop_keeps {c : CtxId} {k : Word} {s : State} {s₂ : State}
    (hn : execNop c k s = .next s₂) : Keeps 0x002000#24 s s₂ := by
  obtain rfl := Host.Outcome.next.inj hn
  repeat' first
    | (with_reducible exact Keeps.refl _ _) | (with_reducible assumption) | (with_reducible decide)
    | (with_reducible apply State.opNop1_keeps) | split | (dsimp only) | intro _

theorem execMemFill_keeps {c : CtxId} {k : Word} {s : State} {s₂ : State}
    (hn : execMemFill c k s = .next s₂) : Keeps 0x75B340#24 s s₂ := by
  obtain rfl := Host.Outcome.next.inj hn
  repeat' first
    | (with_reducible exact Keeps.refl _ _) | (with_reducible assumption) | (with_reducible decide)
    | (with_reducible apply State.opFill_keeps) | (with_reducible apply State.settleAll_keeps) | split | (dsimp only)
    | intro _

theorem execMemCopy_keeps {c : CtxId} {k : Word} {rsps : List McRsp} {s : State} {s₂ : State}
    (hn : execMemCopy c k rsps s = .next s₂) : Keeps 0x75B342#24 s s₂ := by
  obtain rfl := Host.Outcome.next.inj hn
  repeat' first
    | (with_reducible exact Keeps.refl _ _) | (with_reducible assumption) | (with_reducible decide)
    | (with_reducible apply State.opCopy_keeps) | (with_reducible apply State.settleAll_keeps) | split | (dsimp only)
    | intro _

theorem execCsAesEnc_keeps {c : CtxId} {k : Word} {rsps : List McRsp} {s : State} {s₂ : State}
    (hn : execCsAesEnc c k rsps s = .next s₂) : Keeps 0x75B342#24 s s₂ := by
  obtain rfl := Host.Outcome.next.inj hn
  repeat' first
    | (with_reducible exact Keeps.refl _ _) | (with_reducible assumption) | (with_reducible decide)
    | (with_reducible apply State.csAes_keeps) | (with_reducible apply State.settleAll_keeps) | split | (dsimp only)
    | intro _

theorem execCsAesDec_keeps {c : CtxId} {k : Word} {rsps : List McRsp} {s : State} {s₂ : State}
    (hn : execCsAesDec c k rsps s = .next s₂) : Keeps 0x75B342#24 s s₂ := by
  obtain rfl := Host.Outcome.next.inj hn
  repeat' first
    | (with_reducible exact Keeps.refl _ _) | (with_reducible assumption) | (with_reducible decide)
    | (with_reducible apply State.csAes_keeps) | (with_reducible apply State.settleAll_keeps) | split | (dsimp only)
    | intro _

theorem execCsGhash_keeps {c : CtxId} {k : Word} {rsps : List McRsp} {s : State} {s₂ : State}
    (hn : execCsGhash c k rsps s = .next s₂) : Keeps 0x75B342#24 s s₂ := by
  obtain rfl := Host.Outcome.next.inj hn
  repeat' first
    | (with_reducible exact Keeps.refl _ _) | (with_reducible assumption) | (with_reducible decide)
    | (with_reducible apply State.csGhashRow_keeps) | (with_reducible apply State.settleAll_keeps) | split
    | (dsimp only) | intro _

theorem execStgRekey_keeps {c : CtxId} {k : Word} {s : State} {s₂ : State}
    (hn : execStgRekey c k s = .next s₂) : Keeps 0x012040#24 s s₂ := by
  obtain rfl := Host.Outcome.next.inj hn
  repeat' first
    | (with_reducible exact Keeps.refl _ _) | (with_reducible assumption) | (with_reducible decide)
    | (with_reducible apply State.opRekey_keeps) | split | (dsimp only) | intro _

theorem execStgIn_keeps {c : CtxId} {k : Word} {host : List DmaData} {rsps : List McRsp} {s : State} {s₂ : State}
    (hn : execStgIn c k host rsps s = .next s₂) : Keeps 0x75B342#24 s s₂ := by
  obtain rfl := Host.Outcome.next.inj hn
  repeat' first
    | (with_reducible exact Keeps.refl _ _) | (with_reducible assumption) | (with_reducible decide)
    | (with_reducible apply State.opIn_keeps) | (with_reducible apply State.settleAll_keeps) | split | (dsimp only)
    | intro _

theorem execStgOut_keeps {c : CtxId} {k : Word} {rsps : List McRsp} {s : State} {s₂ : State}
    (hn : execStgOut c k rsps s = .next s₂) : Keeps 0x75B342#24 s s₂ := by
  obtain rfl := Host.Outcome.next.inj hn
  repeat' first
    | (with_reducible exact Keeps.refl _ _) | (with_reducible assumption) | (with_reducible decide)
    | (with_reducible apply State.opOut_keeps) | (with_reducible apply State.settleAll_keeps) | split | (dsimp only)
    | intro _

theorem execProgLoad_keeps {c : CtxId} {k : Word} {rsps : List McRsp} {s : State} {s₂ : State}
    (hn : execProgLoad c k rsps s = .next s₂) : Keeps 0x75B342#24 s s₂ := by
  obtain rfl := Host.Outcome.next.inj hn
  repeat' first
    | (with_reducible exact Keeps.refl _ _) | (with_reducible assumption) | (with_reducible decide)
    | (with_reducible apply State.opLoad_keeps) | (with_reducible apply State.settleAll_keeps) | split | (dsimp only)
    | intro _

theorem execProgGo_keeps {c : CtxId} {k : Word} {rsps : List McRsp} {s : State} {s₂ : State}
    (hn : execProgGo c k rsps s = .next s₂) : Keeps 0x75B742#24 s s₂ := by
  obtain rfl := Host.Outcome.next.inj hn
  repeat' first
    | (with_reducible exact Keeps.refl _ _) | (with_reducible assumption) | (with_reducible decide)
    | (with_reducible apply State.opGo_keeps) | (with_reducible apply State.settleAll_keeps) | split | (dsimp only)
    | intro _

theorem execProgUnload_keeps {c : CtxId} {k : Word} {s : State} {s₂ : State}
    (hn : execProgUnload c k s = .next s₂) : Keeps 0x75B340#24 s s₂ := by
  obtain rfl := Host.Outcome.next.inj hn
  repeat' first
    | (with_reducible exact Keeps.refl _ _) | (with_reducible assumption) | (with_reducible decide)
    | (with_reducible apply State.opUnload_keeps) | (with_reducible apply State.settleAll_keeps) | split
    | (dsimp only) | intro _

theorem execContributionTake_keeps {l : LinkId} {s : State} {s₂ : State}
    (hn : execContributionTake l s = .next s₂) : Keeps 0x75B740#24 s s₂ := by
  obtain rfl := Host.Outcome.next.inj hn
  repeat' first
    | (with_reducible exact Keeps.refl _ _) | (with_reducible assumption) | (with_reducible decide)
    | (with_reducible apply State.opTake_keeps) | (with_reducible apply State.settleAll_keeps) | split | (dsimp only)
    | intro _

theorem execBudget_keeps {l : LinkId} {src : Member} {delta : BitVec 16} {reservedZero : Bool} {s : State} {s₂ : State}
    (hn : execBudget l src delta reservedZero s = .next s₂) : Keeps 0x640200#24 s s₂ := by
  obtain rfl := Host.Outcome.next.inj hn
  repeat' first
    | (with_reducible exact Keeps.refl _ _) | (with_reducible assumption) | (with_reducible decide)
    | (with_reducible apply State.opBudget_keeps) | split | (dsimp only) | intro _

theorem execFabricRequest_keeps {rsp : McRsp} {s : State} {s₂ : State}
    (hn : execFabricRequest rsp s = .next s₂) : Keeps 0x75B342#24 s s₂ := by
  obtain rfl := Host.Outcome.next.inj hn
  repeat' first
    | (with_reducible exact Keeps.refl _ _) | (with_reducible assumption) | (with_reducible decide)
    | (with_reducible apply State.opRequest_keeps) | (with_reducible apply State.settleAll_keeps) | split
    | (dsimp only) | intro _

theorem execFabricTableLineRead_keeps {slot : Slot} {line : BitVec 19} {rsp : McRsp} {s : State} {s₂ : State}
    (hn : execFabricTableLineRead slot line rsp s = .next s₂) : Keeps 0x75B342#24 s s₂ := by
  obtain rfl := Host.Outcome.next.inj hn
  repeat' first
    | (with_reducible exact Keeps.refl _ _) | (with_reducible assumption) | (with_reducible decide)
    | (with_reducible apply State.opTableLine_keeps) | (with_reducible apply State.settleAll_keeps) | split
    | (dsimp only) | intro _

theorem execFabricAccess_keeps {c : CtxId} {va : BitVec 64} {write : Bool} {mask : BitVec 64} {data : Line} {atomic : Bool} {s : State} {s₂ : State}
    (hn : execFabricAccess c va write mask data atomic s = .next s₂) : Keeps 0x400200#24 s s₂ := by
  obtain rfl := Host.Outcome.next.inj hn
  repeat' first
    | (with_reducible exact Keeps.refl _ _) | (with_reducible assumption) | (with_reducible decide)
    | (with_reducible apply State.opAccess_keeps) | split | (dsimp only) | intro _

theorem execFabricResponse_keeps {l : LinkId} {r : FabRec} {s : State} {s₂ : State}
    (hn : execFabricResponse l r s = .next s₂) : Keeps 0x75B340#24 s s₂ := by
  obtain rfl := Host.Outcome.next.inj hn
  repeat' first
    | (with_reducible exact Keeps.refl _ _) | (with_reducible assumption) | (with_reducible decide)
    | (with_reducible apply State.opResponse_keeps) | (with_reducible apply State.settleAll_keeps) | split
    | (dsimp only) | intro _

theorem execFabMap_keeps {h : MbxHdr} {slot : Slot} {page : BitVec 32} {entry : BitVec 128} {s : State} {s₂ : State}
    (hn : execFabMap h slot page entry s = .next s₂) : Keeps 0x75B340#24 s s₂ := by
  obtain rfl := Host.Outcome.next.inj hn
  repeat' first
    | (with_reducible exact Keeps.refl _ _) | (with_reducible assumption) | (with_reducible decide)
    | (with_reducible apply State.fabMapDo_keeps) | (with_reducible apply State.mbxPf_keeps)
    | (with_reducible apply State.settleAll_keeps) | split | (dsimp only) | intro _

theorem execFabUnmap_keeps {h : MbxHdr} {slot : Slot} {page : BitVec 32} {s : State} {s₂ : State}
    (hn : execFabUnmap h slot page s = .next s₂) : Keeps 0x75B340#24 s s₂ := by
  obtain rfl := Host.Outcome.next.inj hn
  repeat' first
    | (with_reducible exact Keeps.refl _ _) | (with_reducible assumption) | (with_reducible decide)
    | (with_reducible apply State.fabUnmapDo_keeps) | (with_reducible apply State.mbxPf_keeps)
    | (with_reducible apply State.settleAll_keeps) | split | (dsimp only) | intro _

theorem execSpdmMsg_keeps {h : MbxHdr} {body : Bytes} {s : State} {s₂ : State}
    (hn : execSpdmMsg h body s = .next s₂) : Keeps 0x412000#24 s s₂ := by
  obtain rfl := Host.Outcome.next.inj hn
  repeat' first
    | (with_reducible exact Keeps.refl _ _) | (with_reducible assumption) | (with_reducible decide)
    | (with_reducible apply State.mbxRun_keeps) | (with_reducible apply State.spdmDo_keeps) | split | (dsimp only)
    | intro _

theorem execCertGet_keeps {h : MbxHdr} {offset : BitVec 32} {len : BitVec 32} {s : State} {s₂ : State}
    (hn : execCertGet h offset len s = .next s₂) : Keeps 0x412000#24 s s₂ := by
  obtain rfl := Host.Outcome.next.inj hn
  repeat' first
    | (with_reducible exact Keeps.refl _ _) | (with_reducible assumption) | (with_reducible decide)
    | (with_reducible apply State.certGetDo_keeps) | (with_reducible apply State.mbxRun_keeps) | split | (dsimp only)
    | intro _

theorem execHaHello_keeps {h : MbxHdr} {m : HaHello} {s : State} {s₂ : State}
    (hn : execHaHello h m s = .next s₂) : Keeps 0x612000#24 s s₂ := by
  obtain rfl := Host.Outcome.next.inj hn
  repeat' first
    | (with_reducible exact Keeps.refl _ _) | (with_reducible assumption) | (with_reducible decide)
    | (with_reducible apply State.haHelloDo_keeps) | (with_reducible apply State.mbxRun_keeps) | split | (dsimp only)
    | intro _

theorem execHaFinish_keeps {h : MbxHdr} {sessionId : BitVec 32} {sigH : Bytes} {kcH : BitVec 128} {s : State} {s₂ : State}
    (hn : execHaFinish h sessionId sigH kcH s = .next s₂) : Keeps 0x412040#24 s s₂ := by
  obtain rfl := Host.Outcome.next.inj hn
  repeat' first
    | (with_reducible exact Keeps.refl _ _) | (with_reducible assumption) | (with_reducible decide)
    | (with_reducible apply State.haFinishDo_keeps) | (with_reducible apply State.mbxRun_keeps) | split
    | (dsimp only) | intro _

theorem execHaTimeout_keeps {f : Fn} {s : State} {s₂ : State}
    (hn : execHaTimeout f s = .next s₂) : Keeps 0x002000#24 s s₂ := by
  obtain rfl := Host.Outcome.next.inj hn
  repeat' first
    | (with_reducible exact Keeps.refl _ _) | (with_reducible assumption) | (with_reducible decide)
    | (with_reducible apply State.opHaTimeout_keeps) | split | (dsimp only) | intro _

theorem execHaClose_keeps {h : MbxHdr} {s : State} {s₂ : State}
    (hn : execHaClose h s = .next s₂) : Keeps 0x75B340#24 s s₂ := by
  obtain rfl := Host.Outcome.next.inj hn
  repeat' first
    | (with_reducible exact Keeps.refl _ _) | (with_reducible assumption) | (with_reducible decide)
    | (with_reducible apply State.haCloseDo_keeps) | (with_reducible apply State.mbxRun_keeps)
    | (with_reducible apply State.settleAll_keeps) | split | (dsimp only) | intro _

theorem execMailboxReservedCode_keeps {h : MbxHdr} {code : BitVec 16} {s : State} {s₂ : State}
    (hn : execMailboxReservedCode h code s = .next s₂) : Keeps 0x412000#24 s s₂ := by
  unfold execMailboxReservedCode at hn
  repeat' split at hn
  all_goals first | obtain rfl := Host.Outcome.next.inj hn | exact nomatch hn
  repeat' first
    | (with_reducible exact Keeps.refl _ _) | (with_reducible assumption) | (with_reducible decide)
    | (with_reducible apply State.mbxRun_keeps) | split | (dsimp only) | intro _

theorem execFnOpen_keeps {h : MbxHdr} {f : Fn} {s : State} {s₂ : State}
    (hn : execFnOpen h f s = .next s₂) : Keeps 0x77BF44#24 s s₂ := by
  obtain rfl := Host.Outcome.next.inj hn
  repeat' first
    | (with_reducible exact Keeps.refl _ _) | (with_reducible assumption) | (with_reducible decide)
    | (with_reducible apply State.fnOpenDo_keeps) | (with_reducible apply State.mbxPf_keeps)
    | (with_reducible apply State.settleAll_keeps) | split | (dsimp only) | intro _

theorem execDrain_keeps {h : MbxHdr} {f : Fn} {s : State} {s₂ : State}
    (hn : execDrain h f s = .next s₂) : Keeps 0x412000#24 s s₂ := by
  obtain rfl := Host.Outcome.next.inj hn
  repeat' first
    | (with_reducible exact Keeps.refl _ _) | (with_reducible assumption) | (with_reducible decide)
    | (with_reducible apply State.drainDo_keeps) | (with_reducible apply State.mbxPf_keeps) | split | (dsimp only)
    | intro _

theorem execRetire_keeps {h : MbxHdr} {f : Fn} {s : State} {s₂ : State}
    (hn : execRetire h f s = .next s₂) : Keeps 0x75B345#24 s s₂ := by
  obtain rfl := Host.Outcome.next.inj hn
  repeat' first
    | (with_reducible exact Keeps.refl _ _) | (with_reducible assumption) | (with_reducible decide)
    | (with_reducible apply State.mbxPf_keeps) | (with_reducible apply State.retireDo_keeps)
    | (with_reducible apply State.settleAll_keeps) | split | (dsimp only) | intro _

theorem execDebugChallenge_keeps {h : MbxHdr} {s : State} {s₂ : State}
    (hn : execDebugChallenge h s = .next s₂) : Keeps 0x612010#24 s s₂ := by
  obtain rfl := Host.Outcome.next.inj hn
  repeat' first
    | (with_reducible exact Keeps.refl _ _) | (with_reducible assumption) | (with_reducible decide)
    | (with_reducible apply State.challengeDo_keeps) | (with_reducible apply State.mbxRun_keeps) | split
    | (dsimp only) | intro _

theorem execDebugUnlock_keeps {h : MbxHdr} {x : UnlockTry} {s : State} {s₂ : State}
    (hn : execDebugUnlock h x s = .next s₂) : Keeps 0x75FF58#24 s s₂ := by
  obtain rfl := Host.Outcome.next.inj hn
  repeat' first
    | (with_reducible exact Keeps.refl _ _) | (with_reducible assumption) | (with_reducible decide)
    | (with_reducible apply State.opUnlock_keeps) | (with_reducible apply State.settleAll_keeps) | split
    | (dsimp only) | intro _

theorem execLcToTest_keeps {jtag : Bool} {fn : Fn} {confirm : BitVec 16} {roleSel : BitVec 1} {s : State} {s₂ : State}
    (hn : execLcToTest jtag fn confirm roleSel s = .next s₂) : Keeps 0x7FFFFF#24 s s₂ := by
  obtain rfl := Host.Outcome.next.inj hn
  repeat' first
    | (with_reducible exact Keeps.refl _ _) | (with_reducible assumption) | (with_reducible decide)
    | (with_reducible apply State.opLc_keeps) | split | (dsimp only) | intro _

theorem execLcToProduction_keeps {jtag : Bool} {fn : Fn} {confirm : BitVec 16} {roleSel : BitVec 1} {s : State} {s₂ : State}
    (hn : execLcToProduction jtag fn confirm roleSel s = .next s₂) : Keeps 0x7FFFFF#24 s s₂ := by
  obtain rfl := Host.Outcome.next.inj hn
  repeat' first
    | (with_reducible exact Keeps.refl _ _) | (with_reducible assumption) | (with_reducible decide)
    | (with_reducible apply State.opLc_keeps) | split | (dsimp only) | intro _

theorem execLcToEndOfLife_keeps {jtag : Bool} {fn : Fn} {confirm : BitVec 16} {x : EndPins} {s : State} {s₂ : State}
    (hn : execLcToEndOfLife jtag fn confirm x s = .next s₂) : Keeps 0x7FFFFF#24 s s₂ := by
  obtain rfl := Host.Outcome.next.inj hn
  repeat' first
    | (with_reducible exact Keeps.refl _ _) | (with_reducible assumption) | (with_reducible decide)
    | (with_reducible apply State.opLc_keeps) | (with_reducible apply State.settleAll_keeps) | split | (dsimp only)
    | intro _

theorem execFormHello_keeps {h : MbxHdr} {m : FormHello} {s : State} {s₂ : State}
    (hn : execFormHello h m s = .next s₂) : Keeps 0x652400#24 s s₂ := by
  obtain rfl := Host.Outcome.next.inj hn
  repeat' first
    | (with_reducible exact Keeps.refl _ _) | (with_reducible assumption) | (with_reducible decide)
    | (with_reducible apply State.domCmd_keeps) | (with_reducible apply State.formHelloDo_keeps) | split
    | (dsimp only) | intro _

theorem execFormFinish_keeps {h : MbxHdr} {sigV : Bytes} {kcV : BitVec 128} {s : State} {s₂ : State}
    (hn : execFormFinish h sigV kcV s = .next s₂) : Keeps 0x75FF48#24 s s₂ := by
  obtain rfl := Host.Outcome.next.inj hn
  repeat' first
    | (with_reducible exact Keeps.refl _ _) | (with_reducible assumption) | (with_reducible decide)
    | (with_reducible apply State.domCmd_keeps) | (with_reducible apply State.formFinishDo_keeps)
    | (with_reducible apply State.settleAll_keeps) | split | (dsimp only) | intro _

theorem execFormationTimeout_keeps {slot : Slot} {s : State} {s₂ : State}
    (hn : execFormationTimeout slot s = .next s₂) : Keeps 0x75FF48#24 s s₂ := by
  obtain rfl := Host.Outcome.next.inj hn
  repeat' first
    | (with_reducible exact Keeps.refl _ _) | (with_reducible assumption) | (with_reducible decide)
    | (with_reducible apply State.opFormTimeout_keeps) | (with_reducible apply State.settleAll_keeps) | split
    | (dsimp only) | intro _

theorem execJoinTicket_keeps {h : MbxHdr} {slot : Slot} {member : BitVec 32} {proof : Bytes} {s : State} {s₂ : State}
    (hn : execJoinTicket h slot member proof s = .next s₂) : Keeps 0x412400#24 s s₂ := by
  obtain rfl := Host.Outcome.next.inj hn
  repeat' first
    | (with_reducible exact Keeps.refl _ _) | (with_reducible assumption) | (with_reducible decide)
    | (with_reducible apply State.domCmd0_keeps) | (with_reducible apply State.joinTicketDo_keeps) | split
    | (dsimp only) | intro _

theorem execLinkDeclare_keeps {h : MbxHdr} {slot : Slot} {l : Byte} {partnerLink : Byte} {partner : BitVec 32} {s : State} {s₂ : State}
    (hn : execLinkDeclare h slot l partnerLink partner s = .next s₂) : Keeps 0x612600#24 s s₂ := by
  obtain rfl := Host.Outcome.next.inj hn
  repeat' first
    | (with_reducible exact Keeps.refl _ _) | (with_reducible assumption) | (with_reducible decide)
    | (with_reducible apply State.domCmd0_keeps) | (with_reducible apply State.linkDeclareDo_keeps) | split
    | (dsimp only) | intro _

theorem execZ2TableRow_keeps {h : MbxHdr} {slot : Slot} {l : LinkId} {peerNode : BitVec 32} {peerPort : LinkId} {s : State} {s₂ : State}
    (hn : execZ2TableRow h slot l peerNode peerPort s = .next s₂) : Keeps 0x612600#24 s s₂ := by
  obtain rfl := Host.Outcome.next.inj hn
  repeat' first
    | (with_reducible exact Keeps.refl _ _) | (with_reducible assumption) | (with_reducible decide)
    | (with_reducible apply State.domCmd_keeps) | (with_reducible apply State.z2Do_keeps) | split | (dsimp only)
    | intro _

theorem execDomainLeave_keeps {h : MbxHdr} {slot : Byte} {s : State} {s₂ : State}
    (hn : execDomainLeave h slot s = .next s₂) : Keeps 0x75FF48#24 s s₂ := by
  obtain rfl := Host.Outcome.next.inj hn
  repeat' first
    | (with_reducible exact Keeps.refl _ _) | (with_reducible assumption) | (with_reducible decide)
    | (with_reducible apply State.domCmd0_keeps) | (with_reducible apply State.leaveDo_keeps)
    | (with_reducible apply State.settleAll_keeps) | split | (dsimp only) | intro _

theorem execCensusGet_keeps {h : MbxHdr} {slot : Slot} {hall : Byte} {s : State} {s₂ : State}
    (hn : execCensusGet h slot hall s = .next s₂) : Keeps 0x412400#24 s s₂ := by
  obtain rfl := Host.Outcome.next.inj hn
  repeat' first
    | (with_reducible exact Keeps.refl _ _) | (with_reducible assumption) | (with_reducible decide)
    | (with_reducible apply State.censusGetDo_keeps) | (with_reducible apply State.domCmd_keeps) | split
    | (dsimp only) | intro _

theorem execCountStateGet_keeps {h : MbxHdr} {slot : Slot} {s : State} {s₂ : State}
    (hn : execCountStateGet h slot s = .next s₂) : Keeps 0x412000#24 s s₂ := by
  obtain rfl := Host.Outcome.next.inj hn
  repeat' first
    | (with_reducible exact Keeps.refl _ _) | (with_reducible assumption) | (with_reducible decide)
    | (with_reducible apply State.countStateDo_keeps) | (with_reducible apply State.domCmd_keeps) | split
    | (dsimp only) | intro _

theorem execVerifierVote_keeps {h : MbxHdr} {body : Bytes} {s : State} {s₂ : State}
    (hn : execVerifierVote h body s = .next s₂) : Keeps 0x75B740#24 s s₂ := by
  obtain rfl := Host.Outcome.next.inj hn
  repeat' first
    | (with_reducible exact Keeps.refl _ _) | (with_reducible assumption) | (with_reducible decide)
    | (with_reducible apply State.domCmdBody_keeps) | (with_reducible apply State.voteDo_keeps)
    | (with_reducible apply State.settleAll_keeps) | split | (dsimp only) | intro _

theorem execEpochAdvance_keeps {h : MbxHdr} {body : Bytes} {s : State} {s₂ : State}
    (hn : execEpochAdvance h body s = .next s₂) : Keeps 0x75BF48#24 s s₂ := by
  obtain rfl := Host.Outcome.next.inj hn
  repeat' first
    | (with_reducible exact Keeps.refl _ _) | (with_reducible assumption) | (with_reducible decide)
    | (with_reducible apply State.domCmdBody_keeps) | (with_reducible apply State.epochDo_keeps)
    | (with_reducible apply State.settleAll_keeps) | split | (dsimp only) | intro _

theorem execEpochNotice_keeps {slot : Slot} {epoch : BitVec 32} {s : State} {s₂ : State}
    (hn : execEpochNotice slot epoch s = .next s₂) : Keeps 0x75BF48#24 s s₂ := by
  obtain rfl := Host.Outcome.next.inj hn
  repeat' first
    | (with_reducible exact Keeps.refl _ _) | (with_reducible assumption) | (with_reducible decide)
    | (with_reducible apply State.opEpochNotice_keeps) | (with_reducible apply State.settleAll_keeps) | split
    | (dsimp only) | intro _

theorem execJoinInvite_keeps {l : LinkId} {m : JoinInvite} {s : State} {s₂ : State}
    (hn : execJoinInvite l m s = .next s₂) : Keeps 0x350600#24 s s₂ := by
  obtain rfl := Host.Outcome.next.inj hn
  repeat' first
    | (with_reducible exact Keeps.refl _ _) | (with_reducible assumption) | (with_reducible decide)
    | (with_reducible apply State.opInvite_keeps) | split | (dsimp only) | intro _

theorem execJoinRequest_keeps {slot : Slot} {l : LinkId} {m : JoinRequest} {s : State} {s₂ : State}
    (hn : execJoinRequest slot l m s = .next s₂) : Keeps 0x75FF48#24 s s₂ := by
  obtain rfl := Host.Outcome.next.inj hn
  repeat' first
    | (with_reducible exact Keeps.refl _ _) | (with_reducible assumption) | (with_reducible decide)
    | (with_reducible apply State.opJoinRequest_keeps) | (with_reducible apply State.settleAll_keeps) | split
    | (dsimp only) | intro _

theorem execJoinGrant_keeps {slot : Slot} {m : JoinGrant} {s : State} {s₂ : State}
    (hn : execJoinGrant slot m s = .next s₂) : Keeps 0x75FF48#24 s s₂ := by
  obtain rfl := Host.Outcome.next.inj hn
  repeat' first
    | (with_reducible exact Keeps.refl _ _) | (with_reducible assumption) | (with_reducible decide)
    | (with_reducible apply State.opGrant_keeps) | (with_reducible apply State.settleAll_keeps) | split
    | (dsimp only) | intro _

theorem execJoinRefuse_keeps {slot : Slot} {_reason : Byte} {s : State} {s₂ : State}
    (hn : execJoinRefuse slot _reason s = .next s₂) : Keeps 0x75FF48#24 s s₂ := by
  obtain rfl := Host.Outcome.next.inj hn
  repeat' first
    | (with_reducible exact Keeps.refl _ _) | (with_reducible assumption) | (with_reducible decide)
    | (with_reducible apply State.opRefuse_keeps) | (with_reducible apply State.settleAll_keeps) | split
    | (dsimp only) | intro _

theorem execJoinDone_keeps {slot : Slot} {member : Member} {s : State} {s₂ : State}
    (hn : execJoinDone slot member s = .next s₂) : Keeps 0x210600#24 s s₂ := by
  obtain rfl := Host.Outcome.next.inj hn
  repeat' first
    | (with_reducible exact Keeps.refl _ _) | (with_reducible assumption) | (with_reducible decide)
    | (with_reducible apply State.opJoinDone_keeps) | split | (dsimp only) | intro _

theorem execJoinDoneTimeout_keeps {slot : Slot} {member : Member} {s : State} {s₂ : State}
    (hn : execJoinDoneTimeout slot member s = .next s₂) : Keeps 0x210600#24 s s₂ := by
  obtain rfl := Host.Outcome.next.inj hn
  repeat' first
    | (with_reducible exact Keeps.refl _ _) | (with_reducible assumption) | (with_reducible decide)
    | (with_reducible apply State.opJoinTimeout_keeps) | split | (dsimp only) | intro _

theorem execParseResume_keeps {slot : Slot} {s : State} {s₂ : State}
    (hn : execParseResume slot s = .next s₂) : Keeps 0x000600#24 s s₂ := by
  obtain rfl := Host.Outcome.next.inj hn
  repeat' first
    | (with_reducible exact Keeps.refl _ _) | (with_reducible assumption) | (with_reducible decide)
    | (with_reducible apply State.opParseResume_keeps) | split | (dsimp only) | intro _

theorem execDepart_keeps {slot : Slot} {member : Member} {s : State} {s₂ : State}
    (hn : execDepart slot member s = .next s₂) : Keeps 0x000600#24 s s₂ := by
  obtain rfl := Host.Outcome.next.inj hn
  repeat' first
    | (with_reducible exact Keeps.refl _ _) | (with_reducible assumption) | (with_reducible decide)
    | (with_reducible apply State.opDepart_keeps) | split | (dsimp only) | intro _

theorem execHanddown_keeps {slot : Slot} {m : Handdown} {s : State} {s₂ : State}
    (hn : execHanddown slot m s = .next s₂) : Keeps 0x75BF40#24 s s₂ := by
  obtain rfl := Host.Outcome.next.inj hn
  repeat' first
    | (with_reducible exact Keeps.refl _ _) | (with_reducible assumption) | (with_reducible decide)
    | (with_reducible apply State.opHanddown_keeps) | (with_reducible apply State.settleAll_keeps) | split
    | (dsimp only) | intro _

theorem execMgrPulseTimer_keeps {slot : Slot} {s : State} {s₂ : State}
    (hn : execMgrPulseTimer slot s = .next s₂) : Keeps 0x000600#24 s s₂ := by
  obtain rfl := Host.Outcome.next.inj hn
  repeat' first
    | (with_reducible exact Keeps.refl _ _) | (with_reducible assumption) | (with_reducible decide)
    | (with_reducible apply State.opMgrPulseTimer_keeps) | split | (dsimp only) | intro _

theorem execMgrPulse_keeps {slot : Slot} {src : Member} {s : State} {s₂ : State}
    (hn : execMgrPulse slot src s = .next s₂) : Keeps 0x000600#24 s s₂ := by
  obtain rfl := Host.Outcome.next.inj hn
  repeat' first
    | (with_reducible exact Keeps.refl _ _) | (with_reducible assumption) | (with_reducible decide)
    | (with_reducible apply State.opMgrPulse_keeps) | split | (dsimp only) | intro _

theorem execMgrContactLoss_keeps {slot : Slot} {lost : Member} {s : State} {s₂ : State}
    (hn : execMgrContactLoss slot lost s = .next s₂) : Keeps 0x75B740#24 s s₂ := by
  obtain rfl := Host.Outcome.next.inj hn
  repeat' first
    | (with_reducible exact Keeps.refl _ _) | (with_reducible assumption) | (with_reducible decide)
    | (with_reducible apply State.opContactLoss_keeps) | (with_reducible apply State.settleAll_keeps) | split
    | (dsimp only) | intro _

theorem execMgrTakeover_keeps {slot : Slot} {src : Member} {system : Bool} {s : State} {s₂ : State}
    (hn : execMgrTakeover slot src system s = .next s₂) : Keeps 0x000400#24 s s₂ := by
  obtain rfl := Host.Outcome.next.inj hn
  repeat' first
    | (with_reducible exact Keeps.refl _ _) | (with_reducible assumption) | (with_reducible decide)
    | (with_reducible apply State.opTakeover_keeps) | split | (dsimp only) | intro _

theorem execMgrKeys_keeps {slot : Slot} {list : List (Member × Bytes)} {s : State} {s₂ : State}
    (hn : execMgrKeys slot list s = .next s₂) : Keeps 0x000400#24 s s₂ := by
  obtain rfl := Host.Outcome.next.inj hn
  repeat' first
    | (with_reducible exact Keeps.refl _ _) | (with_reducible assumption) | (with_reducible decide)
    | (with_reducible apply State.opMgrKeys_keeps) | split | (dsimp only) | intro _

theorem execHallPulseTimer_keeps {slot : Slot} {s : State} {s₂ : State}
    (hn : execHallPulseTimer slot s = .next s₂) : Keeps 0x000600#24 s s₂ := by
  obtain rfl := Host.Outcome.next.inj hn
  repeat' first
    | (with_reducible exact Keeps.refl _ _) | (with_reducible assumption) | (with_reducible decide)
    | (with_reducible apply State.opHallPulseTimer_keeps) | split | (dsimp only) | intro _

theorem execHallPulse_keeps {slot : Slot} {s : State} {s₂ : State}
    (hn : execHallPulse slot s = .next s₂) : Keeps 0x000400#24 s s₂ := by
  obtain rfl := Host.Outcome.next.inj hn
  repeat' first
    | (with_reducible exact Keeps.refl _ _) | (with_reducible assumption) | (with_reducible decide)
    | (with_reducible apply State.opHallPulse_keeps) | split | (dsimp only) | intro _

theorem execHallPulseLoss_keeps {slot : Slot} {s : State} {s₂ : State}
    (hn : execHallPulseLoss slot s = .next s₂) : Keeps 0x75B740#24 s s₂ := by
  obtain rfl := Host.Outcome.next.inj hn
  repeat' first
    | (with_reducible exact Keeps.refl _ _) | (with_reducible assumption) | (with_reducible decide)
    | (with_reducible apply State.opHallPulseLoss_keeps) | (with_reducible apply State.settleAll_keeps) | split
    | (dsimp only) | intro _

theorem execRosterUpdate_keeps {slot : Slot} {src : Member} {version : BitVec 32} {row : RosterRow} {s : State} {s₂ : State}
    (hn : execRosterUpdate slot src version row s = .next s₂) : Keeps 0x000600#24 s s₂ := by
  obtain rfl := Host.Outcome.next.inj hn
  repeat' first
    | (with_reducible exact Keeps.refl _ _) | (with_reducible assumption) | (with_reducible decide)
    | (with_reducible apply State.opRosterUpdate_keeps) | split | (dsimp only) | intro _

theorem execRosterAck_keeps {slot : Slot} {version : BitVec 32} {s : State} {s₂ : State}
    (hn : execRosterAck slot version s = .next s₂) : Keeps 0x000400#24 s s₂ := by
  obtain rfl := Host.Outcome.next.inj hn
  repeat' first
    | (with_reducible exact Keeps.refl _ _) | (with_reducible assumption) | (with_reducible decide)
    | (with_reducible apply State.opRosterAck_keeps) | split | (dsimp only) | intro _

theorem execRosterResend_keeps {slot : Slot} {s : State} {s₂ : State}
    (hn : execRosterResend slot s = .next s₂) : Keeps 0x000600#24 s s₂ := by
  obtain rfl := Host.Outcome.next.inj hn
  repeat' first
    | (with_reducible exact Keeps.refl _ _) | (with_reducible assumption) | (with_reducible decide)
    | (with_reducible apply State.opRosterResend_keeps) | split | (dsimp only) | intro _

theorem execHallSummary_keeps {slot : Slot} {s : State} {s₂ : State}
    (hn : execHallSummary slot s = .next s₂) : Keeps 0x000600#24 s s₂ := by
  obtain rfl := Host.Outcome.next.inj hn
  repeat' first
    | (with_reducible exact Keeps.refl _ _) | (with_reducible assumption) | (with_reducible decide)
    | (with_reducible apply State.opHallSummary_keeps) | split | (dsimp only) | intro _

theorem execCensusSync_keeps {slot : Slot} {m : SyncMsg} {state : BitVec 2} {s : State} {s₂ : State}
    (hn : execCensusSync slot m state s = .next s₂) : Keeps 0x000600#24 s s₂ := by
  obtain rfl := Host.Outcome.next.inj hn
  repeat' first
    | (with_reducible exact Keeps.refl _ _) | (with_reducible assumption) | (with_reducible decide)
    | (with_reducible apply State.opCensusSync_keeps) | split | (dsimp only) | intro _

theorem execCountOpen_keeps {slot : Slot} {s : State} {s₂ : State}
    (hn : execCountOpen slot s = .next s₂) : Keeps 0x75B740#24 s s₂ := by
  obtain rfl := Host.Outcome.next.inj hn
  repeat' first
    | (with_reducible exact Keeps.refl _ _) | (with_reducible assumption) | (with_reducible decide)
    | (with_reducible apply State.opCountOpen_keeps) | (with_reducible apply State.settleAll_keeps) | split
    | (dsimp only) | intro _

theorem execVoteClaim_keeps {slot : Slot} {hall : BitVec 3} {round : BitVec 32} {members : BitVec 32} {s : State} {s₂ : State}
    (hn : execVoteClaim slot hall round members s = .next s₂) : Keeps 0x75B740#24 s s₂ := by
  obtain rfl := Host.Outcome.next.inj hn
  repeat' first
    | (with_reducible exact Keeps.refl _ _) | (with_reducible assumption) | (with_reducible decide)
    | (with_reducible apply State.opVoteClaim_keeps) | (with_reducible apply State.settleAll_keeps) | split
    | (dsimp only) | intro _

theorem execCountResult_keeps {slot : Slot} {r : CountResult} {s : State} {s₂ : State}
    (hn : execCountResult slot r s = .next s₂) : Keeps 0x75B740#24 s s₂ := by
  obtain rfl := Host.Outcome.next.inj hn
  repeat' first
    | (with_reducible exact Keeps.refl _ _) | (with_reducible assumption) | (with_reducible decide)
    | (with_reducible apply State.opCountResult_keeps) | (with_reducible apply State.settleAll_keeps) | split
    | (dsimp only) | intro _

theorem execRejoinReq_keeps {slot : Slot} {m : RejoinMsg} {s : State} {s₂ : State}
    (hn : execRejoinReq slot m s = .next s₂) : Keeps 0x75B740#24 s s₂ := by
  obtain rfl := Host.Outcome.next.inj hn
  repeat' first
    | (with_reducible exact Keeps.refl _ _) | (with_reducible assumption) | (with_reducible decide)
    | (with_reducible apply State.opRejoinReq_keeps) | (with_reducible apply State.settleAll_keeps) | split
    | (dsimp only) | intro _

theorem execRejoinGrant_keeps {slot : Slot} {m : RejoinMsg} {s : State} {s₂ : State}
    (hn : execRejoinGrant slot m s = .next s₂) : Keeps 0x75B740#24 s s₂ := by
  obtain rfl := Host.Outcome.next.inj hn
  repeat' first
    | (with_reducible exact Keeps.refl _ _) | (with_reducible assumption) | (with_reducible decide)
    | (with_reducible apply State.opRejoinGrant_keeps) | (with_reducible apply State.settleAll_keeps) | split
    | (dsimp only) | intro _

theorem execRejoinWindowExpiry_keeps {slot : Slot} {s : State} {s₂ : State}
    (hn : execRejoinWindowExpiry slot s = .next s₂) : Keeps 0x75FF48#24 s s₂ := by
  obtain rfl := Host.Outcome.next.inj hn
  repeat' first
    | (with_reducible exact Keeps.refl _ _) | (with_reducible assumption) | (with_reducible decide)
    | (with_reducible apply State.opRejoinExpiry_keeps) | (with_reducible apply State.settleAll_keeps) | split
    | (dsimp only) | intro _

theorem execHalt_keeps {l : LinkId} {r : Route} {m : HaltMsg} {s : State} {s₂ : State}
    (hn : execHalt l r m s = .next s₂) : Keeps 0x000200#24 s s₂ := by
  obtain rfl := Host.Outcome.next.inj hn
  repeat' first
    | (with_reducible exact Keeps.refl _ _) | (with_reducible assumption) | (with_reducible decide)
    | (with_reducible apply State.opHalt_keeps) | split | (dsimp only) | intro _

theorem execHaltRelease_keeps {l : LinkId} {r : Route} {m : HaltMsg} {s : State} {s₂ : State}
    (hn : execHaltRelease l r m s = .next s₂) : Keeps 0x000200#24 s s₂ := by
  obtain rfl := Host.Outcome.next.inj hn
  repeat' first
    | (with_reducible exact Keeps.refl _ _) | (with_reducible assumption) | (with_reducible decide)
    | (with_reducible apply State.opHaltRelease_keeps) | split | (dsimp only) | intro _

theorem execGateExpiry_keeps {l : LinkId} {c : Cls} {s : State} {s₂ : State}
    (hn : execGateExpiry l c s = .next s₂) : Keeps 0x000200#24 s s₂ := by
  obtain rfl := Host.Outcome.next.inj hn
  repeat' first
    | (with_reducible exact Keeps.refl _ _) | (with_reducible assumption) | (with_reducible decide)
    | (with_reducible apply State.opGateExpiry_keeps) | split | (dsimp only) | intro _

theorem execTimeExchangeTimer_keeps {slot : Slot} {t1 : BitVec 64} {s : State} {s₂ : State}
    (hn : execTimeExchangeTimer slot t1 s = .next s₂) : Keeps 0x000600#24 s s₂ := by
  obtain rfl := Host.Outcome.next.inj hn
  repeat' first
    | (with_reducible exact Keeps.refl _ _) | (with_reducible assumption) | (with_reducible decide)
    | (with_reducible apply State.opTimeTimer_keeps) | split | (dsimp only) | intro _

theorem execTimeReq_keeps {l : LinkId} {m : TimeMsg} {t2 : BitVec 64} {t3 : BitVec 64} {s : State} {s₂ : State}
    (hn : execTimeReq l m t2 t3 s = .next s₂) : Keeps 0x000200#24 s s₂ := by
  obtain rfl := Host.Outcome.next.inj hn
  repeat' first
    | (with_reducible exact Keeps.refl _ _) | (with_reducible assumption) | (with_reducible decide)
    | (with_reducible apply State.opTimeReq_keeps) | split | (dsimp only) | intro _

theorem execTimeResp_keeps {l : LinkId} {m : TimeMsg} {t4 : BitVec 64} {s : State} {s₂ : State}
    (hn : execTimeResp l m t4 s = .next s₂) : Keeps 0x100600#24 s s₂ := by
  obtain rfl := Host.Outcome.next.inj hn
  repeat' first
    | (with_reducible exact Keeps.refl _ _) | (with_reducible assumption) | (with_reducible decide)
    | (with_reducible apply State.opTimeResp_keeps) | split | (dsimp only) | intro _

theorem execTimeLockLoss_keeps {slot : Slot} {s : State} {s₂ : State}
    (hn : execTimeLockLoss slot s = .next s₂) : Keeps 0x000400#24 s s₂ := by
  obtain rfl := Host.Outcome.next.inj hn
  repeat' first
    | (with_reducible exact Keeps.refl _ _) | (with_reducible assumption) | (with_reducible decide)
    | (with_reducible apply State.opTimeLockLoss_keeps) | split | (dsimp only) | intro _

theorem execBlockTimeSave_keeps {s : State} {s₂ : State}
    (hn : execBlockTimeSave s = .next s₂) : Keeps 0x080000#24 s s₂ := by
  obtain rfl := Host.Outcome.next.inj hn
  repeat' first
    | (with_reducible exact Keeps.refl _ _) | (with_reducible assumption) | (with_reducible decide)
    | (with_reducible apply State.opTimeSave_keeps) | split | (dsimp only) | intro _

theorem execIslandTick_keeps {s : State} {s₂ : State}
    (hn : execIslandTick s = .next s₂) : Keeps 0x080000#24 s s₂ := by
  obtain rfl := Host.Outcome.next.inj hn
  repeat' first
    | (with_reducible exact Keeps.refl _ _) | (with_reducible assumption) | (with_reducible decide)
    | (with_reducible apply State.opIslandTick_keeps) | split | (dsimp only) | intro _

theorem execEngineStallSample_keeps {s : State} {s₂ : State}
    (hn : execEngineStallSample s = .next s₂) : Keeps 0x010000#24 s s₂ := by
  obtain rfl := Host.Outcome.next.inj hn
  repeat' first
    | (with_reducible exact Keeps.refl _ _) | (with_reducible assumption) | (with_reducible decide)
    | (with_reducible apply State.opSample_keeps) | split | (dsimp only) | intro _

theorem execEngineStall_keeps {e : EngineId} {roleSel : BitVec 1} {s : State} {s₂ : State}
    (hn : execEngineStall e roleSel s = .next s₂) : Keeps 0x7FFFDF#24 s s₂ := by
  unfold execEngineStall at hn
  repeat' split at hn
  all_goals first | obtain rfl := Host.Outcome.next.inj hn | exact nomatch hn
  repeat' first
    | (with_reducible exact Keeps.refl _ _) | (with_reducible assumption) | (with_reducible decide)
    | (with_reducible apply State.stall_keeps) | (with_reducible apply State.settleAll_keeps) | split | (dsimp only)
    | intro _

theorem execReplayGuilty_keeps {x : ReplayEnd} {s : State} {s₂ : State}
    (hn : execReplayGuilty x s = .next s₂) : Keeps 0x7FFFDF#24 s s₂ := by
  unfold execReplayGuilty at hn
  repeat' split at hn
  all_goals first | obtain rfl := Host.Outcome.next.inj hn | exact nomatch hn
  repeat' first
    | (with_reducible exact Keeps.refl _ _) | (with_reducible assumption) | (with_reducible decide)
    | (with_reducible apply State.replayGuilty_keeps) | (with_reducible apply State.settleAll_keeps) | split
    | (dsimp only) | intro _

theorem execReplayCleared_keeps {x : ReplayEnd} {s : State} {s₂ : State}
    (hn : execReplayCleared x s = .next s₂) : Keeps 0x7FFFDF#24 s s₂ := by
  unfold execReplayCleared at hn
  repeat' split at hn
  all_goals first | obtain rfl := Host.Outcome.next.inj hn | exact nomatch hn
  repeat' first
    | (with_reducible exact Keeps.refl _ _) | (with_reducible assumption) | (with_reducible decide)
    | (with_reducible apply State.replayCleared_keeps) | (with_reducible apply State.settleAll_keeps) | split
    | (dsimp only) | intro _

theorem execTrustCoreMismatch_keeps {roleSel : BitVec 1} {s : State} {s₂ : State}
    (hn : execTrustCoreMismatch roleSel s = .next s₂) : Keeps 0x7FFFDF#24 s s₂ := by
  obtain rfl := Host.Outcome.next.inj hn
  repeat' first
    | (with_reducible exact Keeps.refl _ _) | (with_reducible assumption) | (with_reducible decide)
    | (with_reducible apply State.coreMismatch_keeps) | (with_reducible apply State.settleAll_keeps) | split
    | (dsimp only) | intro _

theorem execSramFault_keeps {e : Option EngineId} {meterSram : Bool} {roleSel : BitVec 1} {s : State} {s₂ : State}
    (hn : execSramFault e meterSram roleSel s = .next s₂) : Keeps 0x7FFFDF#24 s s₂ := by
  unfold execSramFault at hn
  repeat' split at hn
  all_goals first | obtain rfl := Host.Outcome.next.inj hn | exact nomatch hn
  repeat' first
    | (with_reducible exact Keeps.refl _ _) | (with_reducible assumption) | (with_reducible decide)
    | (with_reducible apply State.sramError_keeps) | (with_reducible apply State.settleAll_keeps) | split
    | (dsimp only) | intro _

theorem execCurrentWindow_keeps {avgVkx : BitVec 16} {avgVkm : BitVec 16} {s : State} {s₂ : State}
    (hn : execCurrentWindow avgVkx avgVkm s = .next s₂) : Keeps 0x040000#24 s s₂ := by
  obtain rfl := Host.Outcome.next.inj hn
  repeat' first
    | (with_reducible exact Keeps.refl _ _) | (with_reducible assumption) | (with_reducible decide)
    | (with_reducible apply State.opWindow_keeps) | split | (dsimp only) | intro _

theorem execThrottleStep_keeps {avgVkx : BitVec 16} {avgVkm : BitVec 16} {s : State} {s₂ : State}
    (hn : execThrottleStep avgVkx avgVkm s = .next s₂) : Keeps 0x140000#24 s s₂ := by
  obtain rfl := Host.Outcome.next.inj hn
  repeat' first
    | (with_reducible exact Keeps.refl _ _) | (with_reducible assumption) | (with_reducible decide)
    | (with_reducible apply State.opThrottle_keeps) | split | (dsimp only) | intro _

theorem execDroopCrossing_keeps {r : Region} {s : State} {s₂ : State}
    (hn : execDroopCrossing r s = .next s₂) : Keeps 0x140000#24 s s₂ := by
  obtain rfl := Host.Outcome.next.inj hn
  repeat' first
    | (with_reducible exact Keeps.refl _ _) | (with_reducible assumption) | (with_reducible decide)
    | (with_reducible apply State.opDroop_keeps) | split | (dsimp only) | intro _

theorem execDroopRelease_keeps {r : Region} {s : State} {s₂ : State}
    (hn : execDroopRelease r s = .next s₂) : Keeps 0x140000#24 s s₂ := by
  obtain rfl := Host.Outcome.next.inj hn
  repeat' first
    | (with_reducible exact Keeps.refl _ _) | (with_reducible assumption) | (with_reducible decide)
    | (with_reducible apply State.opDroopRelease_keeps) | split | (dsimp only) | intro _

theorem execEnergyInterval_keeps {e : EnergySample} {s : State} {s₂ : State}
    (hn : execEnergyInterval e s = .next s₂) : Keeps 0x042000#24 s s₂ := by
  obtain rfl := Host.Outcome.next.inj hn
  repeat' first
    | (with_reducible exact Keeps.refl _ _) | (with_reducible assumption) | (with_reducible decide)
    | (with_reducible apply State.opEnergy_keeps) | split | (dsimp only) | intro _

theorem execMeterGo_keeps {slot : Slot} {s : State} {s₂ : State}
    (hn : execMeterGo slot s = .next s₂) : Keeps 0x440000#24 s s₂ := by
  obtain rfl := Host.Outcome.next.inj hn
  repeat' first
    | (with_reducible exact Keeps.refl _ _) | (with_reducible assumption) | (with_reducible decide)
    | (with_reducible apply State.opMeterGo_keeps) | split | (dsimp only) | intro _

theorem execMeterBoundary_keeps {slot : Slot} {s : State} {s₂ : State}
    (hn : execMeterBoundary slot s = .next s₂) : Keeps 0x440000#24 s s₂ := by
  obtain rfl := Host.Outcome.next.inj hn
  repeat' first
    | (with_reducible exact Keeps.refl _ _) | (with_reducible assumption) | (with_reducible decide)
    | (with_reducible apply State.opBoundary_keeps) | split | (dsimp only) | intro _

theorem execTamperLatch_keeps {inputs : BitVec 4} {s : State} {s₂ : State}
    (hn : execTamperLatch inputs s = .next s₂) : Keeps 0x7FFF48#24 s s₂ := by
  obtain rfl := Host.Outcome.next.inj hn
  repeat' first
    | (with_reducible exact Keeps.refl _ _) | (with_reducible assumption) | (with_reducible decide)
    | (with_reducible apply State.opTamper_keeps) | (with_reducible apply State.settleAll_keeps) | split
    | (dsimp only) | intro _

theorem execRearm_keeps {i : BitVec 2} {s : State} {s₂ : State}
    (hn : execRearm i s = .next s₂) : Keeps 0x080000#24 s s₂ := by
  obtain rfl := Host.Outcome.next.inj hn
  repeat' first
    | (with_reducible exact Keeps.refl _ _) | (with_reducible assumption) | (with_reducible decide)
    | (with_reducible apply State.opRearmInput_keeps) | split | (dsimp only) | intro _

theorem execRearmRelease_keeps {i : BitVec 2} {s : State} {s₂ : State}
    (hn : execRearmRelease i s = .next s₂) : Keeps 0x080000#24 s s₂ := by
  obtain rfl := Host.Outcome.next.inj hn
  repeat' first
    | (with_reducible exact Keeps.refl _ _) | (with_reducible assumption) | (with_reducible decide)
    | (with_reducible apply State.opRearmRelease_keeps) | split | (dsimp only) | intro _

theorem execKeyRenew_keeps {s : State} {s₂ : State}
    (hn : execKeyRenew s = .next s₂) : Keeps 0x280000#24 s s₂ := by
  obtain rfl := Host.Outcome.next.inj hn
  repeat' first
    | (with_reducible exact Keeps.refl _ _) | (with_reducible assumption) | (with_reducible decide)
    | (with_reducible apply State.opKeyRenew_keeps) | split | (dsimp only) | intro _

theorem execLock_keeps {s : State} {s₂ : State}
    (hn : execLock s = .next s₂) : Keeps 0x080000#24 s s₂ := by
  obtain rfl := Host.Outcome.next.inj hn
  repeat' first
    | (with_reducible exact Keeps.refl _ _) | (with_reducible assumption) | (with_reducible decide)
    | (with_reducible apply State.opLock_keeps) | split | (dsimp only) | intro _

theorem execSupplySwitch_keeps {onVbat : Bool} {s : State} {s₂ : State}
    (hn : execSupplySwitch onVbat s = .next s₂) : Keeps 0x080000#24 s s₂ := by
  obtain rfl := Host.Outcome.next.inj hn
  repeat' first
    | (with_reducible exact Keeps.refl _ _) | (with_reducible assumption) | (with_reducible decide)
    | (with_reducible apply State.opSupply_keeps) | split | (dsimp only) | intro _

theorem execIslandColdStart_keeps {s : State} {s₂ : State}
    (hn : execIslandColdStart s = .next s₂) : Keeps 0x090000#24 s s₂ := by
  obtain rfl := Host.Outcome.next.inj hn
  repeat' first
    | (with_reducible exact Keeps.refl _ _) | (with_reducible assumption) | (with_reducible decide)
    | (with_reducible apply State.opColdStart_keeps) | split | (dsimp only) | intro _

theorem execVdCreate_keeps {vd : VdId} {slot : Option Slot} {s : State} {s₂ : State}
    (hn : execVdCreate vd slot s = .next s₂) : Keeps 0x75FF40#24 s s₂ := by
  obtain rfl := Host.Outcome.next.inj hn
  repeat' first
    | (with_reducible exact Keeps.refl _ _) | (with_reducible assumption) | (with_reducible decide)
    | (with_reducible apply State.opVd_keeps) | (with_reducible apply State.settleAll_keeps) | split | (dsimp only)
    | intro _

theorem execVdDestroy_keeps {vd : VdId} {s : State} {s₂ : State}
    (hn : execVdDestroy vd s = .next s₂) : Keeps 0x75FF40#24 s s₂ := by
  obtain rfl := Host.Outcome.next.inj hn
  repeat' first
    | (with_reducible exact Keeps.refl _ _) | (with_reducible assumption) | (with_reducible decide)
    | (with_reducible apply State.opVd_keeps) | (with_reducible apply State.settleAll_keeps) | split | (dsimp only)
    | intro _

theorem execBind_keeps {kind : BitVec 2} {index : BitVec 8} {vd : VdId} {s : State} {s₂ : State}
    (hn : execBind kind index vd s = .next s₂) : Keeps 0x75FF40#24 s s₂ := by
  obtain rfl := Host.Outcome.next.inj hn
  repeat' first
    | (with_reducible exact Keeps.refl _ _) | (with_reducible assumption) | (with_reducible decide)
    | (with_reducible apply State.opVd_keeps) | (with_reducible apply State.settleAll_keeps) | split | (dsimp only)
    | intro _

theorem execUnbind_keeps {kind : BitVec 2} {index : BitVec 8} {vd : VdId} {s : State} {s₂ : State}
    (hn : execUnbind kind index vd s = .next s₂) : Keeps 0x75FF40#24 s s₂ := by
  obtain rfl := Host.Outcome.next.inj hn
  repeat' first
    | (with_reducible exact Keeps.refl _ _) | (with_reducible assumption) | (with_reducible decide)
    | (with_reducible apply State.opVd_keeps) | (with_reducible apply State.settleAll_keeps) | split | (dsimp only)
    | intro _

theorem execMove_keeps {kind : BitVec 2} {index : BitVec 8} {vd : VdId} {toVd : VdId} {s : State} {s₂ : State}
    (hn : execMove kind index vd toVd s = .next s₂) : Keeps 0x75FF40#24 s s₂ := by
  obtain rfl := Host.Outcome.next.inj hn
  repeat' first
    | (with_reducible exact Keeps.refl _ _) | (with_reducible assumption) | (with_reducible decide)
    | (with_reducible apply State.opVd_keeps) | (with_reducible apply State.settleAll_keeps) | split | (dsimp only)
    | intro _

theorem execVdSlot_keeps {vd : VdId} {slot : Option Slot} {s : State} {s₂ : State}
    (hn : execVdSlot vd slot s = .next s₂) : Keeps 0x75FF40#24 s s₂ := by
  obtain rfl := Host.Outcome.next.inj hn
  repeat' first
    | (with_reducible exact Keeps.refl _ _) | (with_reducible assumption) | (with_reducible decide)
    | (with_reducible apply State.opVd_keeps) | (with_reducible apply State.settleAll_keeps) | split | (dsimp only)
    | intro _

theorem execTraceRunSet_keeps {s : State} {s₂ : State}
    (hn : execTraceRunSet s = .next s₂) : Keeps 0x100000#24 s s₂ := by
  unfold execTraceRunSet at hn
  repeat' split at hn
  all_goals first | obtain rfl := Host.Outcome.next.inj hn | exact nomatch hn
  repeat' first
    | (with_reducible exact Keeps.refl _ _) | (with_reducible assumption) | (with_reducible decide)
    | (with_reducible apply State.runSet_keeps) | split | (dsimp only) | intro _

theorem execTraceRunClear_keeps {s : State} {s₂ : State}
    (hn : execTraceRunClear s = .next s₂) : Keeps 0x100000#24 s s₂ := by
  unfold execTraceRunClear at hn
  repeat' split at hn
  all_goals first | obtain rfl := Host.Outcome.next.inj hn | exact nomatch hn
  repeat' first
    | (with_reducible exact Keeps.refl _ _) | (with_reducible assumption) | (with_reducible decide)
    | (with_reducible apply State.runClear_keeps) | split | (dsimp only) | intro _

theorem execTraceRingWrite_keeps {ok : Bool} {s : State} {s₂ : State}
    (hn : execTraceRingWrite ok s = .next s₂) : Keeps 0x500000#24 s s₂ := by
  obtain rfl := Host.Outcome.next.inj hn
  repeat' first
    | (with_reducible exact Keeps.refl _ _) | (with_reducible assumption) | (with_reducible decide)
    | (with_reducible apply State.opRing_keeps) | split | (dsimp only) | intro _

theorem execMarker_keeps {value : Word} {s : State} {s₂ : State}
    (hn : execMarker value s = .next s₂) : Keeps 0x100000#24 s s₂ := by
  unfold execMarker at hn
  repeat' split at hn
  all_goals first | obtain rfl := Host.Outcome.next.inj hn | exact nomatch hn
  repeat' first
    | (with_reducible exact Keeps.refl _ _) | (with_reducible assumption) | (with_reducible decide)
    | (with_reducible apply State.markHi_keeps) | split | (dsimp only) | intro _

theorem execTimeMark_keeps {slot : Slot} {s : State} {s₂ : State}
    (hn : execTimeMark slot s = .next s₂) : Keeps 0x100000#24 s s₂ := by
  obtain rfl := Host.Outcome.next.inj hn
  repeat' first
    | (with_reducible exact Keeps.refl _ _) | (with_reducible assumption) | (with_reducible decide)
    | (with_reducible apply State.opTimeMark_keeps) | split | (dsimp only) | intro _

theorem execDeliveryBeatAccept_keeps {l : LinkId} {s : State} {s₂ : State}
    (hn : execDeliveryBeatAccept l s = .next s₂) : Keeps 0x75BF40#24 s s₂ := by
  obtain rfl := Host.Outcome.next.inj hn
  repeat' first
    | (with_reducible exact Keeps.refl _ _) | (with_reducible assumption) | (with_reducible decide)
    | (with_reducible apply State.opBeat_keeps) | (with_reducible apply State.settleAll_keeps) | split | (dsimp only)
    | intro _

theorem execLkTxReady_keeps {l : LinkId} {s : State} {s₂ : State}
    (hn : execLkTxReady l s = .next s₂) : Keeps 0x410200#24 s s₂ := by
  obtain rfl := Host.Outcome.next.inj hn
  repeat' first
    | (with_reducible exact Keeps.refl _ _) | (with_reducible assumption) | (with_reducible decide)
    | (with_reducible apply State.opTxReady_keeps) | split | (dsimp only) | intro _

theorem execReceiveRingSpace_keeps {l : LinkId} {c : Cls} {ctx : CtxId} {s : State} {s₂ : State}
    (hn : execReceiveRingSpace l c ctx s = .next s₂) : Keeps 0x75B340#24 s s₂ := by
  obtain rfl := Host.Outcome.next.inj hn
  repeat' first
    | (with_reducible exact Keeps.refl _ _) | (with_reducible assumption) | (with_reducible decide)
    | (with_reducible apply State.ringSpace_keeps) | (with_reducible apply State.settleAll_keeps) | split
    | (dsimp only) | intro _

theorem execCountClose_keeps {slot : Slot} {s : State} {s₂ : State}
    (hn : execCountClose slot s = .next s₂) : Keeps 0x75B740#24 s s₂ := by
  obtain rfl := Host.Outcome.next.inj hn
  repeat' first
    | (with_reducible exact Keeps.refl _ _) | (with_reducible assumption) | (with_reducible decide)
    | (with_reducible apply State.opCountClose_keeps) | (with_reducible apply State.settleAll_keeps) | split
    | (dsimp only) | intro _

theorem execProtectedRangeWrite_keeps {r : BitVec 6} {base : BitVec 31} {limit : BitVec 31} {owner : Slot} {enable : Bool} {s : State} {s₂ : State}
    (hn : execProtectedRangeWrite r base limit owner enable s = .next s₂) : Keeps 0x000100#24 s s₂ := by
  obtain rfl := Host.Outcome.next.inj hn
  repeat' first
    | (with_reducible exact Keeps.refl _ _) | (with_reducible assumption) | (with_reducible decide)
    | (with_reducible apply State.opRange_keeps) | split | (dsimp only) | intro _

theorem execMcLinesWrite_keeps {ch : ChanId} {lines : BitVec 21} {s : State} {s₂ : State}
    (hn : execMcLinesWrite ch lines s = .next s₂) : Keeps 0x75B340#24 s s₂ := by
  obtain rfl := Host.Outcome.next.inj hn
  repeat' first
    | (with_reducible exact Keeps.refl _ _) | (with_reducible assumption) | (with_reducible decide)
    | (with_reducible apply State.opMcLines_keeps) | (with_reducible apply State.settleAll_keeps) | split
    | (dsimp only) | intro _

theorem execRouteTableLoad_keeps {slot : Slot} {entries : List (BitVec 2 × BitVec 9 × Option LinkId × Option LinkId)} {s : State} {s₂ : State}
    (hn : execRouteTableLoad slot entries s = .next s₂) : Keeps 0x000400#24 s s₂ := by
  obtain rfl := Host.Outcome.next.inj hn
  repeat' first
    | (with_reducible exact Keeps.refl _ _) | (with_reducible assumption) | (with_reducible decide)
    | (with_reducible apply State.opRouteLoad_keeps) | split | (dsimp only) | intro _

theorem execFabricTableSetup_keeps {slot : Slot} {base : Word} {key : KeyIdx} {pages : BitVec 22} {s : State} {s₂ : State}
    (hn : execFabricTableSetup slot base key pages s = .next s₂) : Keeps 0x001400#24 s s₂ := by
  obtain rfl := Host.Outcome.next.inj hn
  repeat' first
    | (with_reducible exact Keeps.refl _ _) | (with_reducible assumption) | (with_reducible decide)
    | (with_reducible apply State.opTblSetup_keeps) | split | (dsimp only) | intro _

end Sys2Proof.Machine
end

