-- ==== Sys2Proof/Laws/Mailbox.lean ====
section
/-! SUPPORT. What a mailbox request comes to: one lemma for a request that passes every check, and one for each way it does not
(R471 to R474). -/

namespace Sys2Proof.Machine

set_option Elab.async false

/-- An open mailbox: a request ends early exactly where `mbxRefusal` refuses it. -/
theorem State.mbxEarly_open {s : State} {h : MbxHdr} (code : BitVec 16) (known pf : Bool) (want : Option Nat)
    (o : s.mbxOpen h) : s.mbxEarly h code known pf want =
      (s.mbxRefusal h known pf want).map fun st => s.mbxReply h code st [] := by
  obtain ⟨a, b, c⟩ := o
  have d : ¬ ((s.func h.fn).phase ≠ .opened ∧ (!(s.func h.fn).mbx.taken) = true) := by
    rintro ⟨x, y⟩
    rcases c with c | c
    · exact x c
    · rw [c] at y; cases y
  rw [State.mbxEarly, a, b, if_neg (by decide), if_neg (by decide), if_neg d]

/-- A request that passes every check does not end early. -/
theorem State.mbxEarly_ready {s : State} {h : MbxHdr} {n : Nat} (code : BitVec 16) (pf : Bool) (want : Option Nat)
    (o : s.mbxReady h n) (f : pf = true → h.fn = 0) (w : ∀ k, want = some k → k = n) :
    s.mbxEarly h code true pf want = none := by
  obtain ⟨a, b, c, d, e⟩ := o
  rw [State.mbxEarly_open code true pf want a]
  have r : s.mbxRefusal h true pf want = none := by
    cases want with
    | none => simpa [State.mbxRefusal, b, d, e] using f
    | some k => simpa [State.mbxRefusal, b, d, e, w k rfl, c] using f
  rw [r]; rfl

/-- The mailbox is off: the request is nothing. -/
theorem State.mbxRun_off {s : State} {h : MbxHdr} (code : BitVec 16) (known pf : Bool) (want : Option Nat)
    (act : State → State.MbxAnswer) (o : s.mbxOn h.fn = false) : s.mbxRun h code known pf want act = s := by
  simp [State.mbxRun, State.mbxEarly, o]

/-- A request that is judged by `mbxRefusal` alone. -/
theorem State.mbxRun_open {s : State} {h : MbxHdr} (code : BitVec 16) (known pf : Bool) (want : Option Nat)
    (act : State → State.MbxAnswer) (o : s.mbxOpen h) : s.mbxRun h code known pf want act =
      (match s.mbxRefusal h known pf want with
        | some st => s.mbxReply h code st []
        | none => (act s).1.mbxReply h code (act s).2.1 (act s).2.2) := by
  rw [State.mbxRun, State.mbxEarly_open code known pf want o]
  cases s.mbxRefusal h known pf want <;> rfl

/-- A request that passes every check comes to what its command does, and its reply. -/
theorem State.mbxRun_ready {s : State} {h : MbxHdr} {n : Nat} (code : BitVec 16) (pf : Bool) (want : Option Nat)
    (act : State → State.MbxAnswer) (o : s.mbxReady h n) (f : pf = true → h.fn = 0) (w : ∀ k, want = some k → k = n) :
    s.mbxRun h code true pf want act = (act s).1.mbxReply h code (act s).2.1 (act s).2.2 := by
  rw [State.mbxRun, State.mbxEarly_ready code pf want o f w]

end Sys2Proof.Machine
end

