-- ==== Sys2Proof/Laws/PerInstr.lean ====
section
/-! SUPPORT. What holds of every command as syntax, one lemma per constructor. -/

namespace Sys2Proof.Laws.EnginesExist

set_option Elab.async false

/-- A well-formed command names only engines 0 to 101 (Table 18-1) and key store rows 0 to 2,832 (R185). -/
def Statement (i : Instr) : Prop := i.wellFormed → (∀ e ∈ i.engines, e ≤ 101) ∧ ∀ r ∈ i.keyRows, r ≤ 2832

theorem porBRise (straps : Straps) (refclkOk : Bool) :
    Statement (.porBRise straps refclkOk) := fun _ => ⟨fun _ h => (nomatch h), fun _ h => (nomatch h)⟩
theorem porBFall : Statement (.porBFall) := fun _ => ⟨fun _ h => (nomatch h), fun _ h => (nomatch h)⟩
theorem sysRstBPulse (roleSel : BitVec 1) :
    Statement (.sysRstBPulse roleSel) := fun _ => ⟨fun _ h => (nomatch h), fun _ h => (nomatch h)⟩
theorem refclkLost (roleSel : BitVec 1) :
    Statement (.refclkLost roleSel) := fun _ => ⟨fun _ h => (nomatch h), fun _ h => (nomatch h)⟩
theorem refclkReturn (env : StartEnv) :
    Statement (.refclkReturn env) := fun _ => ⟨fun _ h => (nomatch h), fun _ h => (nomatch h)⟩
theorem referenceSettleDelayEnd (env : StartEnv) :
    Statement (.referenceSettleDelayEnd env) := fun _ => ⟨fun _ h => (nomatch h), fun _ h => (nomatch h)⟩
theorem fullStopDone (env : StartEnv) :
    Statement (.fullStopDone env) := fun _ => ⟨fun _ h => (nomatch h), fun _ h => (nomatch h)⟩
theorem resetWatchdogExpiry (level : BitVec 3) (target : BitVec 10) (roleSel : BitVec 1) :
    Statement (.resetWatchdogExpiry level target roleSel) := fun _ => ⟨fun _ h => (nomatch h), fun _ h => (nomatch h)⟩
theorem resetReqComma (target : CtxId) (completes : Bool) :
    Statement (.resetReqComma target completes) := fun _ => ⟨fun _ h => (nomatch h), fun _ h => (nomatch h)⟩
theorem resetReqSemicolon (target : BitVec 10) (completes : Bool) :
    Statement (.resetReqSemicolon target completes) := fun _ => ⟨fun _ h => (nomatch h), fun _ h => (nomatch h)⟩
theorem resetReqColon (target : BitVec 10) (completes : Bool) :
    Statement (.resetReqColon target completes) := fun _ => ⟨fun _ h => (nomatch h), fun _ h => (nomatch h)⟩
theorem resetReqFullStop (confirm : BitVec 16) (target : BitVec 10) (roleSel : BitVec 1) :
    Statement (.resetReqFullStop confirm target roleSel) := fun _ => ⟨fun _ h => (nomatch h), fun _ h => (nomatch h)⟩
theorem registerWrite (fn : Fn) (write : Bool) (addr : BitVec 24) (data : Word) :
    Statement (.registerWrite fn write addr data) := fun _ => ⟨fun _ h => (nomatch h), fun _ h => (nomatch h)⟩
theorem dbgAccess (write : Bool) (addr : BitVec 24) (data : Word) :
    Statement (.dbgAccess write addr data) := fun _ => ⟨fun _ h => (nomatch h), fun _ h => (nomatch h)⟩
theorem memReadRequest (m : Master) (key : KeyIdx) (dpa : Dpa) :
    Statement (.memReadRequest m key dpa) := fun _ => ⟨fun _ h => (nomatch h), fun _ h => (nomatch h)⟩
theorem memWriteRequest (m : Master) (key : KeyIdx) (dpa : Dpa) (data : Line) :
    Statement (.memWriteRequest m key dpa data) := fun _ => ⟨fun _ h => (nomatch h), fun _ h => (nomatch h)⟩
theorem memPartialWrite (m : Master) (key : KeyIdx) (dpa : Dpa) (mask : BitVec 64) (data : Line) (atomic : Bool) (rsp : McRsp) :
    Statement (.memPartialWrite m key dpa mask data atomic rsp) := fun _ => ⟨fun _ h => (nomatch h), fun _ h => (nomatch h)⟩
theorem mcResponse (ch : ChanId) (sub : BitVec 2) (id : BitVec 6) (rsp : McRsp) :
    Statement (.mcResponse ch sub id rsp) := fun _ => ⟨fun _ h => (nomatch h), fun _ h => (nomatch h)⟩
theorem mcClkLost (ch : ChanId) : Statement (.mcClkLost ch) := fun _ => ⟨fun _ h => (nomatch h), fun _ h => (nomatch h)⟩
theorem mcClkRelock (ch : ChanId) :
    Statement (.mcClkRelock ch) := fun _ => ⟨fun _ h => (nomatch h), fun _ h => (nomatch h)⟩
theorem sweepStart (idx : KeyIdx) :
    Statement (.sweepStart idx) := fun _ => ⟨fun _ h => (nomatch h), fun _ h => (nomatch h)⟩
theorem sweepLine (idx : KeyIdx) (ch : ChanId) (rsp : McRsp) :
    Statement (.sweepLine idx ch rsp) := fun _ => ⟨fun _ h => (nomatch h), fun _ h => (nomatch h)⟩
theorem sweepUrgent (idx : KeyIdx) :
    Statement (.sweepUrgent idx) := fun _ => ⟨fun _ h => (nomatch h), fun _ h => (nomatch h)⟩
theorem lkUpRise (l : LinkId) (qualified : Option (BitVec 11)) :
    Statement (.lkUpRise l qualified) := fun _ => ⟨fun _ h => (nomatch h), fun _ h => (nomatch h)⟩
theorem lkUpFall (l : LinkId) : Statement (.lkUpFall l) := fun _ => ⟨fun _ h => (nomatch h), fun _ h => (nomatch h)⟩
theorem linkClockStall (l : LinkId) (tx : Bool) :
    Statement (.linkClockStall l tx) := fun _ => ⟨fun _ h => (nomatch h), fun _ h => (nomatch h)⟩
theorem linkClockQualified (l : LinkId) (rxFreq : BitVec 11) :
    Statement (.linkClockQualified l rxFreq) := fun _ => ⟨fun _ h => (nomatch h), fun _ h => (nomatch h)⟩
theorem lkTxCredit (l : LinkId) (c : Cls) :
    Statement (.lkTxCredit l c) := fun _ => ⟨fun _ h => (nomatch h), fun _ h => (nomatch h)⟩
theorem receiveGroup (l : LinkId) (units : List RxUnit) (rowBad : Bool) :
    Statement (.receiveGroup l units rowBad) := fun _ => ⟨fun _ h => (nomatch h), fun _ h => (nomatch h)⟩
theorem groupConfirm (l : LinkId) (c : Cls) (seq : BitVec 64) :
    Statement (.groupConfirm l c seq) := fun _ => ⟨fun _ h => (nomatch h), fun _ h => (nomatch h)⟩
theorem groupRepudiate (l : LinkId) (c : Cls) (seq : BitVec 64) :
    Statement (.groupRepudiate l c seq) := fun _ => ⟨fun _ h => (nomatch h), fun _ h => (nomatch h)⟩
theorem transmitGroup (l : LinkId) (c : Cls) (req : Option TxReq) (rowBad : Bool) :
    Statement (.transmitGroup l c req rowBad) := fun _ => ⟨fun _ h => (nomatch h), fun _ h => (nomatch h)⟩
theorem tc0TokenTick (l : LinkId) :
    Statement (.tc0TokenTick l) := fun _ => ⟨fun _ h => (nomatch h), fun _ h => (nomatch h)⟩
theorem floodCacheExpiry (slot : Slot) (src : Member) (transfer : BitVec 32) :
    Statement (.floodCacheExpiry slot src transfer) := fun _ => ⟨fun _ h => (nomatch h), fun _ h => (nomatch h)⟩
theorem deliveryClkLost : Statement (.deliveryClkLost) := fun _ => ⟨fun _ h => (nomatch h), fun _ h => (nomatch h)⟩
theorem deliveryClkRelock : Statement (.deliveryClkRelock) := fun _ => ⟨fun _ h => (nomatch h), fun _ h => (nomatch h)⟩
theorem linkPulseTimer (l : LinkId) :
    Statement (.linkPulseTimer l) := fun _ => ⟨fun _ h => (nomatch h), fun _ h => (nomatch h)⟩
theorem partnerLost (l : LinkId) :
    Statement (.partnerLost l) := fun _ => ⟨fun _ h => (nomatch h), fun _ h => (nomatch h)⟩
theorem linkBye (l : LinkId) (cause : Byte) (reservedZero : Bool) :
    Statement (.linkBye l cause reservedZero) := fun _ => ⟨fun _ h => (nomatch h), fun _ h => (nomatch h)⟩
theorem tombstoneExpiry (l : LinkId) :
    Statement (.tombstoneExpiry l) := fun _ => ⟨fun _ h => (nomatch h), fun _ h => (nomatch h)⟩
theorem hello (l : LinkId) (p : AgrPrefix) (b : AgrBody) :
    Statement (.hello l p b) := fun _ => ⟨fun _ h => (nomatch h), fun _ h => (nomatch h)⟩
theorem reply (l : LinkId) (p : AgrPrefix) (b : AgrBody) :
    Statement (.reply l p b) := fun _ => ⟨fun _ h => (nomatch h), fun _ h => (nomatch h)⟩
theorem finish (l : LinkId) (p : AgrPrefix) (sigI : Bytes) (kcI : BitVec 128) :
    Statement (.finish l p sigI kcI) := fun _ => ⟨fun _ h => (nomatch h), fun _ h => (nomatch h)⟩
theorem done (l : LinkId) (p : AgrPrefix) (kcR : BitVec 128) :
    Statement (.done l p kcR) := fun _ => ⟨fun _ h => (nomatch h), fun _ h => (nomatch h)⟩
theorem abort (l : LinkId) (p : AgrPrefix) (reason : Byte) :
    Statement (.abort l p reason) := fun _ => ⟨fun _ h => (nomatch h), fun _ h => (nomatch h)⟩
theorem agreementAttemptTimeout (l : LinkId) :
    Statement (.agreementAttemptTimeout l) := fun _ => ⟨fun _ h => (nomatch h), fun _ h => (nomatch h)⟩
theorem agreementRetry (l : LinkId) :
    Statement (.agreementRetry l) := fun _ => ⟨fun _ h => (nomatch h), fun _ h => (nomatch h)⟩
theorem responderTimeout (l : LinkId) :
    Statement (.responderTimeout l) := fun _ => ⟨fun _ h => (nomatch h), fun _ h => (nomatch h)⟩
theorem linkAgree (h : MbxHdr) (slot : Slot) (l : LinkId) :
    Statement (.linkAgree h slot l) := fun _ => ⟨fun _ h => (nomatch h), fun _ h => (nomatch h)⟩
theorem linkClose (h : MbxHdr) (slot : Slot) (l : LinkId) :
    Statement (.linkClose h slot l) := fun _ => ⟨fun _ h => (nomatch h), fun _ h => (nomatch h)⟩
theorem keyThreshold (l : LinkId) (c : Cls) :
    Statement (.keyThreshold l c) := fun _ => ⟨fun _ h => (nomatch h), fun _ h => (nomatch h)⟩
theorem keyLimit (row : RowId) :
    Statement (.keyLimit row) := by intro h; simpa [Instr.engines, Instr.keyRows, Instr.wellFormed] using h
theorem keyRoll (l : LinkId) (c : Cls) :
    Statement (.keyRoll l c) := fun _ => ⟨fun _ h => (nomatch h), fun _ h => (nomatch h)⟩
theorem keyFuture (l : LinkId) (m : TenseMsg) :
    Statement (.keyFuture l m) := fun _ => ⟨fun _ h => (nomatch h), fun _ h => (nomatch h)⟩
theorem keyReady (l : LinkId) (m : TenseMsg) :
    Statement (.keyReady l m) := fun _ => ⟨fun _ h => (nomatch h), fun _ h => (nomatch h)⟩
theorem tenseRetryExpiry (l : LinkId) (c : Cls) :
    Statement (.tenseRetryExpiry l c) := fun _ => ⟨fun _ h => (nomatch h), fun _ h => (nomatch h)⟩
theorem pastGraceExpiry (l : LinkId) (c : Cls) :
    Statement (.pastGraceExpiry l c) := fun _ => ⟨fun _ h => (nomatch h), fun _ h => (nomatch h)⟩
theorem keyInvalidate (row : RowId) (mismatch : Bool) :
    Statement (.keyInvalidate row mismatch) := by intro h; simpa [Instr.engines, Instr.keyRows, Instr.wellFormed] using h
theorem dusProgram (badRows : List (BitVec 7)) :
    Statement (.dusProgram badRows) := fun _ => ⟨fun _ h => (nomatch h), fun _ h => (nomatch h)⟩
theorem laneMismatch (cl : ClusterId) (x : LaneCheck) :
    Statement (.laneMismatch cl x) := fun _ => ⟨fun _ h => (nomatch h), fun _ h => (nomatch h)⟩
theorem laneBurstEnd (r : Region) :
    Statement (.laneBurstEnd r) := fun _ => ⟨fun _ h => (nomatch h), fun _ h => (nomatch h)⟩
theorem patrol (cl : ClusterId) (pass : Bool) :
    Statement (.patrol cl pass) := fun _ => ⟨fun _ h => (nomatch h), fun _ h => (nomatch h)⟩
theorem ghashMismatch : Statement (.ghashMismatch) := fun _ => ⟨fun _ h => (nomatch h), fun _ h => (nomatch h)⟩
theorem monitorWarning (r : Region) :
    Statement (.monitorWarning r) := fun _ => ⟨fun _ h => (nomatch h), fun _ h => (nomatch h)⟩
theorem functionEnableWrite (t : EnTarget) (on : Bool) :
    Statement (.functionEnableWrite t on) := fun _ => ⟨fun _ h => (nomatch h), fun _ h => (nomatch h)⟩
theorem trayEnable : Statement (.trayEnable) := fun _ => ⟨fun _ h => (nomatch h), fun _ h => (nomatch h)⟩
theorem trayAck : Statement (.trayAck) := fun _ => ⟨fun _ h => (nomatch h), fun _ h => (nomatch h)⟩
theorem trayIbiRepeat : Statement (.trayIbiRepeat) := fun _ => ⟨fun _ h => (nomatch h), fun _ h => (nomatch h)⟩
theorem pmLim (rail : Rail) (val : BitVec 12) :
    Statement (.pmLim rail val) := fun _ => ⟨fun _ h => (nomatch h), fun _ h => (nomatch h)⟩
theorem hdFlrValid (f : Fn) : Statement (.hdFlrValid f) := fun _ => ⟨fun _ h => (nomatch h), fun _ h => (nomatch h)⟩
theorem dmaReadCompletion (id : BitVec 8) (status : BitVec 2) (bytes : BitVec 13) (last : Bool) :
    Statement (.dmaReadCompletion id status bytes last) := fun _ => ⟨fun _ h => (nomatch h), fun _ h => (nomatch h)⟩
theorem hostErrReport (f : Fn) :
    Statement (.hostErrReport f) := fun _ => ⟨fun _ h => (nomatch h), fun _ h => (nomatch h)⟩
theorem sqTailWrite (f : Fn) (loc : BitVec 6) (q : BitVec 3) (tail : Word) :
    Statement (.sqTailWrite f loc q tail) := fun _ => ⟨fun _ h => (nomatch h), fun _ h => (nomatch h)⟩
theorem cqHeadWrite (f : Fn) (loc : BitVec 6) (head : Word) :
    Statement (.cqHeadWrite f loc head) := fun _ => ⟨fun _ h => (nomatch h), fun _ h => (nomatch h)⟩
theorem descriptorFetch (c : CtxId) (q : BitVec 3) (d : DmaData) :
    Statement (.descriptorFetch c q d) := fun _ => ⟨fun _ h => (nomatch h), fun _ h => (nomatch h)⟩
theorem arbitrationEpoch : Statement (.arbitrationEpoch) := fun _ => ⟨fun _ h => (nomatch h), fun _ h => (nomatch h)⟩
theorem bucketRefill : Statement (.bucketRefill) := fun _ => ⟨fun _ h => (nomatch h), fun _ h => (nomatch h)⟩
theorem commandCompletion (c : CtxId) (q : BitVec 3) (k : Word) (writeOk : Bool) :
    Statement (.commandCompletion c q k writeOk) := fun _ => ⟨fun _ h => (nomatch h), fun _ h => (nomatch h)⟩
theorem ctxRearm (f : Fn) (loc : BitVec 6) :
    Statement (.ctxRearm f loc) := fun _ => ⟨fun _ h => (nomatch h), fun _ h => (nomatch h)⟩
theorem cancel (c : CtxId) (k : Word) :
    Statement (.cancel c k) := fun _ => ⟨fun _ h => (nomatch h), fun _ h => (nomatch h)⟩
theorem ctxCreate (c : CtxId) (k : Word) :
    Statement (.ctxCreate c k) := fun _ => ⟨fun _ h => (nomatch h), fun _ h => (nomatch h)⟩
theorem ctxDestroy (c : CtxId) (k : Word) :
    Statement (.ctxDestroy c k) := fun _ => ⟨fun _ h => (nomatch h), fun _ h => (nomatch h)⟩
theorem objMap (c : CtxId) (k : Word) :
    Statement (.objMap c k) := fun _ => ⟨fun _ h => (nomatch h), fun _ h => (nomatch h)⟩
theorem objUnmap (c : CtxId) (k : Word) :
    Statement (.objUnmap c k) := fun _ => ⟨fun _ h => (nomatch h), fun _ h => (nomatch h)⟩
theorem nop (c : CtxId) (k : Word) : Statement (.nop c k) := fun _ => ⟨fun _ h => (nomatch h), fun _ h => (nomatch h)⟩
theorem memFill (c : CtxId) (k : Word) :
    Statement (.memFill c k) := fun _ => ⟨fun _ h => (nomatch h), fun _ h => (nomatch h)⟩
theorem memCopy (c : CtxId) (k : Word) (rsps : List McRsp) :
    Statement (.memCopy c k rsps) := fun _ => ⟨fun _ h => (nomatch h), fun _ h => (nomatch h)⟩
theorem csAesEnc (c : CtxId) (k : Word) (rsps : List McRsp) :
    Statement (.csAesEnc c k rsps) := fun _ => ⟨fun _ h => (nomatch h), fun _ h => (nomatch h)⟩
theorem csAesDec (c : CtxId) (k : Word) (rsps : List McRsp) :
    Statement (.csAesDec c k rsps) := fun _ => ⟨fun _ h => (nomatch h), fun _ h => (nomatch h)⟩
theorem csGhash (c : CtxId) (k : Word) (rsps : List McRsp) :
    Statement (.csGhash c k rsps) := fun _ => ⟨fun _ h => (nomatch h), fun _ h => (nomatch h)⟩
theorem stgRekey (c : CtxId) (k : Word) :
    Statement (.stgRekey c k) := fun _ => ⟨fun _ h => (nomatch h), fun _ h => (nomatch h)⟩
theorem stgIn (c : CtxId) (k : Word) (host : List DmaData) (rsps : List McRsp) :
    Statement (.stgIn c k host rsps) := fun _ => ⟨fun _ h => (nomatch h), fun _ h => (nomatch h)⟩
theorem stgOut (c : CtxId) (k : Word) (rsps : List McRsp) :
    Statement (.stgOut c k rsps) := fun _ => ⟨fun _ h => (nomatch h), fun _ h => (nomatch h)⟩
theorem progLoad (c : CtxId) (k : Word) (rsps : List McRsp) :
    Statement (.progLoad c k rsps) := fun _ => ⟨fun _ h => (nomatch h), fun _ h => (nomatch h)⟩
theorem progGo (c : CtxId) (k : Word) (rsps : List McRsp) :
    Statement (.progGo c k rsps) := fun _ => ⟨fun _ h => (nomatch h), fun _ h => (nomatch h)⟩
theorem progUnload (c : CtxId) (k : Word) :
    Statement (.progUnload c k) := fun _ => ⟨fun _ h => (nomatch h), fun _ h => (nomatch h)⟩
theorem contributionTake (l : LinkId) :
    Statement (.contributionTake l) := fun _ => ⟨fun _ h => (nomatch h), fun _ h => (nomatch h)⟩
theorem budget (l : LinkId) (src : Member) (delta : BitVec 16) (reservedZero : Bool) :
    Statement (.budget l src delta reservedZero) := fun _ => ⟨fun _ h => (nomatch h), fun _ h => (nomatch h)⟩
theorem fabricRequest (rsp : McRsp) :
    Statement (.fabricRequest rsp) := fun _ => ⟨fun _ h => (nomatch h), fun _ h => (nomatch h)⟩
theorem fabricTableLineRead (slot : Slot) (line : BitVec 19) (rsp : McRsp) :
    Statement (.fabricTableLineRead slot line rsp) := fun _ => ⟨fun _ h => (nomatch h), fun _ h => (nomatch h)⟩
theorem fabricAccess (c : CtxId) (va : BitVec 64) (write : Bool) (mask : BitVec 64) (data : Line) (atomic : Bool) :
    Statement (.fabricAccess c va write mask data atomic) := fun _ => ⟨fun _ h => (nomatch h), fun _ h => (nomatch h)⟩
theorem fabricResponse (l : LinkId) (r : FabRec) :
    Statement (.fabricResponse l r) := fun _ => ⟨fun _ h => (nomatch h), fun _ h => (nomatch h)⟩
theorem fabMap (h : MbxHdr) (slot : Slot) (page : BitVec 32) (entry : BitVec 128) :
    Statement (.fabMap h slot page entry) := fun _ => ⟨fun _ h => (nomatch h), fun _ h => (nomatch h)⟩
theorem fabUnmap (h : MbxHdr) (slot : Slot) (page : BitVec 32) :
    Statement (.fabUnmap h slot page) := fun _ => ⟨fun _ h => (nomatch h), fun _ h => (nomatch h)⟩
theorem spdmMsg (h : MbxHdr) (body : Bytes) :
    Statement (.spdmMsg h body) := fun _ => ⟨fun _ h => (nomatch h), fun _ h => (nomatch h)⟩
theorem certGet (h : MbxHdr) (offset : BitVec 32) (len : BitVec 32) :
    Statement (.certGet h offset len) := fun _ => ⟨fun _ h => (nomatch h), fun _ h => (nomatch h)⟩
theorem haHello (h : MbxHdr) (m : HaHello) :
    Statement (.haHello h m) := fun _ => ⟨fun _ h => (nomatch h), fun _ h => (nomatch h)⟩
theorem haFinish (h : MbxHdr) (sessionId : BitVec 32) (sigH : Bytes) (kcH : BitVec 128) :
    Statement (.haFinish h sessionId sigH kcH) := fun _ => ⟨fun _ h => (nomatch h), fun _ h => (nomatch h)⟩
theorem haTimeout (f : Fn) : Statement (.haTimeout f) := fun _ => ⟨fun _ h => (nomatch h), fun _ h => (nomatch h)⟩
theorem haClose (h : MbxHdr) : Statement (.haClose h) := fun _ => ⟨fun _ h => (nomatch h), fun _ h => (nomatch h)⟩
theorem mailboxReservedCode (h : MbxHdr) (code : BitVec 16) :
    Statement (.mailboxReservedCode h code) := fun _ => ⟨fun _ h => (nomatch h), fun _ h => (nomatch h)⟩
theorem fnOpen (h : MbxHdr) (f : Fn) :
    Statement (.fnOpen h f) := fun _ => ⟨fun _ h => (nomatch h), fun _ h => (nomatch h)⟩
theorem drain (h : MbxHdr) (f : Fn) :
    Statement (.drain h f) := fun _ => ⟨fun _ h => (nomatch h), fun _ h => (nomatch h)⟩
theorem retire (h : MbxHdr) (f : Fn) :
    Statement (.retire h f) := fun _ => ⟨fun _ h => (nomatch h), fun _ h => (nomatch h)⟩
theorem debugChallenge (h : MbxHdr) :
    Statement (.debugChallenge h) := fun _ => ⟨fun _ h => (nomatch h), fun _ h => (nomatch h)⟩
theorem debugUnlock (h : MbxHdr) (x : UnlockTry) :
    Statement (.debugUnlock h x) := fun _ => ⟨fun _ h => (nomatch h), fun _ h => (nomatch h)⟩
theorem lcToTest (jtag : Bool) (fn : Fn) (confirm : BitVec 16) (roleSel : BitVec 1) :
    Statement (.lcToTest jtag fn confirm roleSel) := fun _ => ⟨fun _ h => (nomatch h), fun _ h => (nomatch h)⟩
theorem lcToProduction (jtag : Bool) (fn : Fn) (confirm : BitVec 16) (roleSel : BitVec 1) :
    Statement (.lcToProduction jtag fn confirm roleSel) := fun _ => ⟨fun _ h => (nomatch h), fun _ h => (nomatch h)⟩
theorem lcToEndOfLife (jtag : Bool) (fn : Fn) (confirm : BitVec 16) (x : EndPins) :
    Statement (.lcToEndOfLife jtag fn confirm x) := fun _ => ⟨fun _ h => (nomatch h), fun _ h => (nomatch h)⟩
theorem formHello (h : MbxHdr) (m : FormHello) :
    Statement (.formHello h m) := fun _ => ⟨fun _ h => (nomatch h), fun _ h => (nomatch h)⟩
theorem formFinish (h : MbxHdr) (sigV : Bytes) (kcV : BitVec 128) :
    Statement (.formFinish h sigV kcV) := fun _ => ⟨fun _ h => (nomatch h), fun _ h => (nomatch h)⟩
theorem formationTimeout (slot : Slot) :
    Statement (.formationTimeout slot) := fun _ => ⟨fun _ h => (nomatch h), fun _ h => (nomatch h)⟩
theorem joinTicket (h : MbxHdr) (slot : Slot) (member : BitVec 32) (proof : Bytes) :
    Statement (.joinTicket h slot member proof) := fun _ => ⟨fun _ h => (nomatch h), fun _ h => (nomatch h)⟩
theorem linkDeclare (h : MbxHdr) (slot : Slot) (l : Byte) (partnerLink : Byte) (partner : BitVec 32) :
    Statement (.linkDeclare h slot l partnerLink partner) := fun _ => ⟨fun _ h => (nomatch h), fun _ h => (nomatch h)⟩
theorem z2TableRow (h : MbxHdr) (slot : Slot) (l : LinkId) (peerNode : BitVec 32) (peerPort : LinkId) :
    Statement (.z2TableRow h slot l peerNode peerPort) := fun _ => ⟨fun _ h => (nomatch h), fun _ h => (nomatch h)⟩
theorem domainLeave (h : MbxHdr) (slot : Byte) :
    Statement (.domainLeave h slot) := fun _ => ⟨fun _ h => (nomatch h), fun _ h => (nomatch h)⟩
theorem censusGet (h : MbxHdr) (slot : Slot) (hall : Byte) :
    Statement (.censusGet h slot hall) := fun _ => ⟨fun _ h => (nomatch h), fun _ h => (nomatch h)⟩
theorem countStateGet (h : MbxHdr) (slot : Slot) :
    Statement (.countStateGet h slot) := fun _ => ⟨fun _ h => (nomatch h), fun _ h => (nomatch h)⟩
theorem verifierVote (h : MbxHdr) (body : Bytes) :
    Statement (.verifierVote h body) := fun _ => ⟨fun _ h => (nomatch h), fun _ h => (nomatch h)⟩
theorem epochAdvance (h : MbxHdr) (body : Bytes) :
    Statement (.epochAdvance h body) := fun _ => ⟨fun _ h => (nomatch h), fun _ h => (nomatch h)⟩
theorem epochNotice (slot : Slot) (epoch : BitVec 32) :
    Statement (.epochNotice slot epoch) := fun _ => ⟨fun _ h => (nomatch h), fun _ h => (nomatch h)⟩
theorem joinInvite (l : LinkId) (m : JoinInvite) :
    Statement (.joinInvite l m) := fun _ => ⟨fun _ h => (nomatch h), fun _ h => (nomatch h)⟩
theorem joinRequest (slot : Slot) (l : LinkId) (m : JoinRequest) :
    Statement (.joinRequest slot l m) := fun _ => ⟨fun _ h => (nomatch h), fun _ h => (nomatch h)⟩
theorem joinGrant (slot : Slot) (m : JoinGrant) :
    Statement (.joinGrant slot m) := fun _ => ⟨fun _ h => (nomatch h), fun _ h => (nomatch h)⟩
theorem joinRefuse (slot : Slot) (reason : Byte) :
    Statement (.joinRefuse slot reason) := fun _ => ⟨fun _ h => (nomatch h), fun _ h => (nomatch h)⟩
theorem joinDone (slot : Slot) (member : Member) :
    Statement (.joinDone slot member) := fun _ => ⟨fun _ h => (nomatch h), fun _ h => (nomatch h)⟩
theorem joinDoneTimeout (slot : Slot) (member : Member) :
    Statement (.joinDoneTimeout slot member) := fun _ => ⟨fun _ h => (nomatch h), fun _ h => (nomatch h)⟩
theorem parseResume (slot : Slot) :
    Statement (.parseResume slot) := fun _ => ⟨fun _ h => (nomatch h), fun _ h => (nomatch h)⟩
theorem depart (slot : Slot) (member : Member) :
    Statement (.depart slot member) := fun _ => ⟨fun _ h => (nomatch h), fun _ h => (nomatch h)⟩
theorem handdown (slot : Slot) (m : Handdown) :
    Statement (.handdown slot m) := fun _ => ⟨fun _ h => (nomatch h), fun _ h => (nomatch h)⟩
theorem mgrPulseTimer (slot : Slot) :
    Statement (.mgrPulseTimer slot) := fun _ => ⟨fun _ h => (nomatch h), fun _ h => (nomatch h)⟩
theorem mgrPulse (slot : Slot) (src : Member) :
    Statement (.mgrPulse slot src) := fun _ => ⟨fun _ h => (nomatch h), fun _ h => (nomatch h)⟩
theorem mgrContactLoss (slot : Slot) (lost : Member) :
    Statement (.mgrContactLoss slot lost) := fun _ => ⟨fun _ h => (nomatch h), fun _ h => (nomatch h)⟩
theorem mgrTakeover (slot : Slot) (src : Member) (system : Bool) :
    Statement (.mgrTakeover slot src system) := fun _ => ⟨fun _ h => (nomatch h), fun _ h => (nomatch h)⟩
theorem mgrKeys (slot : Slot) (list : List (Member × Bytes)) :
    Statement (.mgrKeys slot list) := fun _ => ⟨fun _ h => (nomatch h), fun _ h => (nomatch h)⟩
theorem hallPulseTimer (slot : Slot) :
    Statement (.hallPulseTimer slot) := fun _ => ⟨fun _ h => (nomatch h), fun _ h => (nomatch h)⟩
theorem hallPulse (slot : Slot) :
    Statement (.hallPulse slot) := fun _ => ⟨fun _ h => (nomatch h), fun _ h => (nomatch h)⟩
theorem hallPulseLoss (slot : Slot) :
    Statement (.hallPulseLoss slot) := fun _ => ⟨fun _ h => (nomatch h), fun _ h => (nomatch h)⟩
theorem rosterUpdate (slot : Slot) (src : Member) (version : BitVec 32) (row : RosterRow) :
    Statement (.rosterUpdate slot src version row) := fun _ => ⟨fun _ h => (nomatch h), fun _ h => (nomatch h)⟩
theorem rosterAck (slot : Slot) (version : BitVec 32) :
    Statement (.rosterAck slot version) := fun _ => ⟨fun _ h => (nomatch h), fun _ h => (nomatch h)⟩
theorem rosterResend (slot : Slot) :
    Statement (.rosterResend slot) := fun _ => ⟨fun _ h => (nomatch h), fun _ h => (nomatch h)⟩
theorem hallSummary (slot : Slot) :
    Statement (.hallSummary slot) := fun _ => ⟨fun _ h => (nomatch h), fun _ h => (nomatch h)⟩
theorem censusSync (slot : Slot) (m : SyncMsg) (state : BitVec 2) :
    Statement (.censusSync slot m state) := fun _ => ⟨fun _ h => (nomatch h), fun _ h => (nomatch h)⟩
theorem countOpen (slot : Slot) :
    Statement (.countOpen slot) := fun _ => ⟨fun _ h => (nomatch h), fun _ h => (nomatch h)⟩
theorem voteClaim (slot : Slot) (hall : BitVec 3) (round : BitVec 32) (members : BitVec 32) :
    Statement (.voteClaim slot hall round members) := fun _ => ⟨fun _ h => (nomatch h), fun _ h => (nomatch h)⟩
theorem countResult (slot : Slot) (r : CountResult) :
    Statement (.countResult slot r) := fun _ => ⟨fun _ h => (nomatch h), fun _ h => (nomatch h)⟩
theorem rejoinReq (slot : Slot) (m : RejoinMsg) :
    Statement (.rejoinReq slot m) := fun _ => ⟨fun _ h => (nomatch h), fun _ h => (nomatch h)⟩
theorem rejoinGrant (slot : Slot) (m : RejoinMsg) :
    Statement (.rejoinGrant slot m) := fun _ => ⟨fun _ h => (nomatch h), fun _ h => (nomatch h)⟩
theorem rejoinWindowExpiry (slot : Slot) :
    Statement (.rejoinWindowExpiry slot) := fun _ => ⟨fun _ h => (nomatch h), fun _ h => (nomatch h)⟩
theorem halt (l : LinkId) (r : Route) (m : HaltMsg) :
    Statement (.halt l r m) := fun _ => ⟨fun _ h => (nomatch h), fun _ h => (nomatch h)⟩
theorem haltRelease (l : LinkId) (r : Route) (m : HaltMsg) :
    Statement (.haltRelease l r m) := fun _ => ⟨fun _ h => (nomatch h), fun _ h => (nomatch h)⟩
theorem gateExpiry (l : LinkId) (c : Cls) :
    Statement (.gateExpiry l c) := fun _ => ⟨fun _ h => (nomatch h), fun _ h => (nomatch h)⟩
theorem timeExchangeTimer (slot : Slot) (t1 : BitVec 64) :
    Statement (.timeExchangeTimer slot t1) := fun _ => ⟨fun _ h => (nomatch h), fun _ h => (nomatch h)⟩
theorem timeReq (l : LinkId) (m : TimeMsg) (t2 : BitVec 64) (t3 : BitVec 64) :
    Statement (.timeReq l m t2 t3) := fun _ => ⟨fun _ h => (nomatch h), fun _ h => (nomatch h)⟩
theorem timeResp (l : LinkId) (m : TimeMsg) (t4 : BitVec 64) :
    Statement (.timeResp l m t4) := fun _ => ⟨fun _ h => (nomatch h), fun _ h => (nomatch h)⟩
theorem timeLockLoss (slot : Slot) :
    Statement (.timeLockLoss slot) := fun _ => ⟨fun _ h => (nomatch h), fun _ h => (nomatch h)⟩
theorem blockTimeSave : Statement (.blockTimeSave) := fun _ => ⟨fun _ h => (nomatch h), fun _ h => (nomatch h)⟩
theorem islandTick : Statement (.islandTick) := fun _ => ⟨fun _ h => (nomatch h), fun _ h => (nomatch h)⟩
theorem engineStallSample : Statement (.engineStallSample) := fun _ => ⟨fun _ h => (nomatch h), fun _ h => (nomatch h)⟩
theorem engineStall (e : EngineId) (roleSel : BitVec 1) :
    Statement (.engineStall e roleSel) := by intro h; simpa [Instr.engines, Instr.keyRows, Instr.wellFormed] using h
theorem replayGuilty (x : ReplayEnd) :
    Statement (.replayGuilty x) := by intro h; simpa [Instr.engines, Instr.keyRows, Instr.wellFormed] using h
theorem replayCleared (x : ReplayEnd) :
    Statement (.replayCleared x) := by intro h; simpa [Instr.engines, Instr.keyRows, Instr.wellFormed] using h
theorem trustCoreMismatch (roleSel : BitVec 1) :
    Statement (.trustCoreMismatch roleSel) := fun _ => ⟨fun _ h => (nomatch h), fun _ h => (nomatch h)⟩
theorem sramFault (e : Option EngineId) (meterSram : Bool) (roleSel : BitVec 1) :
    Statement (.sramFault e meterSram roleSel) := by intro h; simpa [Instr.engines, Instr.keyRows, Instr.wellFormed] using h
theorem currentWindow (avgVkx : BitVec 16) (avgVkm : BitVec 16) :
    Statement (.currentWindow avgVkx avgVkm) := fun _ => ⟨fun _ h => (nomatch h), fun _ h => (nomatch h)⟩
theorem throttleStep (avgVkx : BitVec 16) (avgVkm : BitVec 16) :
    Statement (.throttleStep avgVkx avgVkm) := fun _ => ⟨fun _ h => (nomatch h), fun _ h => (nomatch h)⟩
theorem droopCrossing (r : Region) :
    Statement (.droopCrossing r) := fun _ => ⟨fun _ h => (nomatch h), fun _ h => (nomatch h)⟩
theorem droopRelease (r : Region) :
    Statement (.droopRelease r) := fun _ => ⟨fun _ h => (nomatch h), fun _ h => (nomatch h)⟩
theorem energyInterval (e : EnergySample) :
    Statement (.energyInterval e) := fun _ => ⟨fun _ h => (nomatch h), fun _ h => (nomatch h)⟩
theorem meterGo (slot : Slot) : Statement (.meterGo slot) := fun _ => ⟨fun _ h => (nomatch h), fun _ h => (nomatch h)⟩
theorem meterBoundary (slot : Slot) :
    Statement (.meterBoundary slot) := fun _ => ⟨fun _ h => (nomatch h), fun _ h => (nomatch h)⟩
theorem tamperLatch (inputs : BitVec 4) :
    Statement (.tamperLatch inputs) := fun _ => ⟨fun _ h => (nomatch h), fun _ h => (nomatch h)⟩
theorem rearm (i : BitVec 2) : Statement (.rearm i) := fun _ => ⟨fun _ h => (nomatch h), fun _ h => (nomatch h)⟩
theorem rearmRelease (i : BitVec 2) :
    Statement (.rearmRelease i) := fun _ => ⟨fun _ h => (nomatch h), fun _ h => (nomatch h)⟩
theorem keyRenew : Statement (.keyRenew) := fun _ => ⟨fun _ h => (nomatch h), fun _ h => (nomatch h)⟩
theorem lock : Statement (.lock) := fun _ => ⟨fun _ h => (nomatch h), fun _ h => (nomatch h)⟩
theorem supplySwitch (onVbat : Bool) :
    Statement (.supplySwitch onVbat) := fun _ => ⟨fun _ h => (nomatch h), fun _ h => (nomatch h)⟩
theorem islandColdStart : Statement (.islandColdStart) := fun _ => ⟨fun _ h => (nomatch h), fun _ h => (nomatch h)⟩
theorem vdCreate (vd : VdId) (slot : Option Slot) :
    Statement (.vdCreate vd slot) := fun _ => ⟨fun _ h => (nomatch h), fun _ h => (nomatch h)⟩
theorem vdDestroy (vd : VdId) : Statement (.vdDestroy vd) := fun _ => ⟨fun _ h => (nomatch h), fun _ h => (nomatch h)⟩
theorem bind (kind : BitVec 2) (index : BitVec 8) (vd : VdId) :
    Statement (.bind kind index vd) := fun _ => ⟨fun _ h => (nomatch h), fun _ h => (nomatch h)⟩
theorem unbind (kind : BitVec 2) (index : BitVec 8) (vd : VdId) :
    Statement (.unbind kind index vd) := fun _ => ⟨fun _ h => (nomatch h), fun _ h => (nomatch h)⟩
theorem move (kind : BitVec 2) (index : BitVec 8) (vd : VdId) (toVd : VdId) :
    Statement (.move kind index vd toVd) := fun _ => ⟨fun _ h => (nomatch h), fun _ h => (nomatch h)⟩
theorem vdSlot (vd : VdId) (slot : Option Slot) :
    Statement (.vdSlot vd slot) := fun _ => ⟨fun _ h => (nomatch h), fun _ h => (nomatch h)⟩
theorem traceRunSet : Statement (.traceRunSet) := fun _ => ⟨fun _ h => (nomatch h), fun _ h => (nomatch h)⟩
theorem traceRunClear : Statement (.traceRunClear) := fun _ => ⟨fun _ h => (nomatch h), fun _ h => (nomatch h)⟩
theorem traceRingWrite (ok : Bool) :
    Statement (.traceRingWrite ok) := fun _ => ⟨fun _ h => (nomatch h), fun _ h => (nomatch h)⟩
theorem marker (value : Word) : Statement (.marker value) := fun _ => ⟨fun _ h => (nomatch h), fun _ h => (nomatch h)⟩
theorem timeMark (slot : Slot) : Statement (.timeMark slot) := fun _ => ⟨fun _ h => (nomatch h), fun _ h => (nomatch h)⟩
theorem deliveryBeatAccept (l : LinkId) :
    Statement (.deliveryBeatAccept l) := fun _ => ⟨fun _ h => (nomatch h), fun _ h => (nomatch h)⟩
theorem lkTxReady (l : LinkId) : Statement (.lkTxReady l) := fun _ => ⟨fun _ h => (nomatch h), fun _ h => (nomatch h)⟩
theorem receiveRingSpace (l : LinkId) (c : Cls) (ctx : CtxId) :
    Statement (.receiveRingSpace l c ctx) := fun _ => ⟨fun _ h => (nomatch h), fun _ h => (nomatch h)⟩
theorem countClose (slot : Slot) :
    Statement (.countClose slot) := fun _ => ⟨fun _ h => (nomatch h), fun _ h => (nomatch h)⟩
theorem protectedRangeWrite (r : BitVec 6) (base : BitVec 31) (limit : BitVec 31) (owner : Slot) (enable : Bool) :
    Statement (.protectedRangeWrite r base limit owner enable) := fun _ => ⟨fun _ h => (nomatch h), fun _ h => (nomatch h)⟩
theorem mcLinesWrite (ch : ChanId) (lines : BitVec 21) :
    Statement (.mcLinesWrite ch lines) := fun _ => ⟨fun _ h => (nomatch h), fun _ h => (nomatch h)⟩
theorem routeTableLoad (slot : Slot) (entries : List (BitVec 2 × BitVec 9 × Option LinkId × Option LinkId)) :
    Statement (.routeTableLoad slot entries) := fun _ => ⟨fun _ h => (nomatch h), fun _ h => (nomatch h)⟩
theorem fabricTableSetup (slot : Slot) (base : Word) (key : KeyIdx) (pages : BitVec 22) :
    Statement (.fabricTableSetup slot base key pages) := fun _ => ⟨fun _ h => (nomatch h), fun _ h => (nomatch h)⟩

end Sys2Proof.Laws.EnginesExist
end

