-- ==== Sys2Proof/Tests/Slice0.lean ====
section
/-! SUPPORT. The model's own tests: for each statement with hypotheses a named witness that meets them, an ill-formed command
for each check of well-formedness, and examples the spec gives with their results. -/

namespace Sys2Proof.Tests

open Sys2Proof.Machine

set_option Elab.async false

/-! ### States to test with -/

/-- A block that runs with every function enable set. -/
def on : State :=
  { sys := { phase := .running, refclk := true }
    clk := { enArea := BitVec.allOnes 10, enPort := BitVec.allOnes 6, enMc := BitVec.allOnes 32, enLink := BitVec.allOnes 64
             enFn := BitVec.allOnes 256 } }

/-- The same in pool role. -/
def pool : State := { on with glb := { on.glb with role := 1 } }

/-- A block that stands in a phase, with nothing enabled. -/
def at_ (p : Phase) : State := { sys := { phase := p } }

/-- Without the enables of its ports. -/
def noPorts : State := { on with clk := { on.clk with enPort := 0 } }

/-- A function whose mailbox took a request of a length. -/
def mailFn (len : Nat) : Func := { phase := .opened, mbx := { reqLen := BitVec.ofNat _ len, rspMax := 65536 } }

/-- A running block with such a request at a function. -/
def mail (f : Fn) (len : Nat) : State := on.setFunc f (mailFn len)

/-- A header of a request from a function with a body length. -/
def hdr (f : Fn) (len : Nat) : MbxHdr :=
  { fn := f, statusField := 0, bodyLen := len, tag := 0, reservedZero := true, dmaOk := true }

/-- A command of a context, RUNNING on queue `q` at index `k`. -/
def cmd (c : CtxId) (q : BitVec 3) (k : Word) (op : BitVec 16) (body : Bytes) (ts : List Trans) : Cmd :=
  { ctx := c, queue := q, k := k, opcode := op, irq := false, layer := 0, operator := 0, cookie := 0, body := body
    phase := .running, trans := ts, result := none, cancel := false, started := 0, blocks := 0, boundGen := 0, material := 0
    refs := [], fabGot := [], issued := false }

/-- What a start in which nothing goes wrong before step 10 meets. -/
def env0 : StartEnv :=
  let ex : RegionExercise := { mFull := 15, vFull := 100, throttled := false }
  let fl : FlashSlot := { header := [], image := [] }
  { rom := [], coreMismatch := false, coldMismatch := false, otpBad := [], bistFatal := false, bistOther := false
    sramSpare := false, keyRowsBad := [], laneFails := [], pkeOk := true, exMem := ex, exLink := ex, exSvc := ex, slot0 := fl
    slot1 := fl, deviceRecord := [], otpStuck := 0, toRestore := none, toSeal := none, enArea := 0, enPort := 0, enMc := 0, enLink := 0, mcLines := 0
    bootUs := 0 }

/-! ### The whole block -/

theorem witness_EmptyQueueTicks :
    State.reset.pending = [] ∧ State.reset.timeRuns = false ∧ on.timeRuns = true ∧ on.sys.refclk = true ∧ on.pending = [] ∧
    (on.now + 1).toNat % 1000 ≠ 0 := by decide

theorem witness_CommandsNeverStop :
    Instr.wellFormed (.engineStall 101 0) ∧ (∀ e ∈ Instr.engines (.engineStall 101 0), e ≤ 101) ∧
    101 < (102 : EngineId).toNat := by
  simp [Instr.wellFormed, Instr.engines]

theorem witness_WholeBlock :
    exec .lock on = .next { on with isl := { on.isl with lock := true } } ∧
    step State.reset = .next State.reset ∧ Part.links ∉ (Instr.lock).touches := ⟨rfl, rfl, by decide⟩

/-- A state in which nothing waits. -/
theorem witness_still : on.still :=
  ⟨fun _ => rfl, fun _ => rfl, rfl, by decide, rfl⟩

theorem witness_invariants : State.reset.canonical ∧ State.reset.pwr.ratesOk ∧ on.pwr.ratesOk := by
  refine ⟨?_, ?_, ?_⟩
  · constructor
    all_goals first
      | decide
      | (simp only [Glb.canonical, Keys.canonical, Lanes.canonical, Mem.canonical, Fab.canonical, Fe.canonical, Vds.canonical,
          Red.canonical, Flt.canonical, Pwr.canonical, Isl.canonical, Tel.canonical]; decide)
  · unfold Pwr.ratesOk; decide
  · unfold Pwr.ratesOk; decide

/-! ### Island, trace, power, tray -/

/-- Tamper input 0 latched and to be re-armed, input 1 enabled. -/
def tampered : State :=
  { on with isl := { on.isl with tampers := [(0, { latched := true, armPending := true, action := 1 }), (1, { enable := true, action := 1 }),
                                             (2, { enable := true })] } }

theorem witness_RearmAndRelease :
    tampered.islandOn = true ∧ (tampered.tamper 0).latched = true ∧ (tampered.tamper 1).latched = false ∧
    State.reset.islandOn = false ∧ (tampered.tamper 0).armPending = true ∧ (tampered.tamper 3).armPending = false := by decide

/-- The same with a cause record, drawing from vbat. -/
def caused : State := { tampered with isl := { tampered.isl with causeValid := true, onVbat := true } }

theorem witness_IslandKeyAndTamper :
    (on.islandOn = true ∧ on.isl.causeValid = false) ∧ (caused.islandOn = true ∧ caused.isl.causeValid = true) ∧
    State.reset.islandOn = false ∧ on.running = true ∧ State.reset.running = false ∧ tampered.latching 1 = [] ∧
    tampered.latching 15 ≠ [] ∧ 1 ∈ tampered.latching 15 ∧ 0 ∉ tampered.latching 15 ∧
    tampered.isl.causeValid = false ∧ (∃ i ∈ tampered.latching 15, (tampered.tamper i).action = 1) ∧
    (tampered.isl.onVbat = false ∧ tampered.porLow = false ∧
      ∀ i ∈ tampered.latching 4, (tampered.tamper i).action ≠ 1 ∧ (tampered.tamper i).action ≠ 2) ∧
    caused.isl.onVbat = true ∧ State.reset.porLow = true := by decide

/-- A trace under way whose ring has room for one record. -/
def tracing : State :=
  { on with tel := { on.tel with run := true, active := true, size := 1, typeMask := BitVec.allOnes 12 }
            doms := [(7, { phase := .member })] }
def aRecord : TraceRec := { stamp := 0, type := 1, flags := 0, ctx := 0, layer := 0, operator := 0, seq := 0, arg := [] }
def ringing : State := { tracing with tel := { tracing.tel with fifo := [aRecord] } }
def ringFull : State := { ringing with tel := { ringing.tel with tail := 1 } }

theorem witness_TraceFifoAndRing :
    on.telOn = true ∧ (on.tel.run && on.tel.active) = false ∧ (tracing.tel.run && tracing.tel.active) = true ∧
    tracing.telOn = true ∧ State.reset.telOn = false ∧ tracing.tel.filterEn = false ∧ tracing.tel.lostSince = 0 ∧
    tracing.tel.fifo.length < 4080 ∧ tracing.tel.typeMask.getLsbD 0x0A = true ∧ tracing.tel.typeMask.getLsbD 8 = true ∧
    tracing.running = true ∧ tracing.slotHeld 7 = true ∧
    ringing.areaOn areaTelemetry = true ∧ ringing.portOn portStaging = true ∧ ringing.tel.fifo = [aRecord] ∧
    (ringing.tel.tail - ringing.tel.head).toNat < ringing.tel.size.toNat ∧ ringFull.tel.wrap = false ∧
    ringFull.tel.size.toNat ≤ (ringFull.tel.tail - ringFull.tel.head).toNat ∧ ringFull.tel.fifo = [aRecord] := by decide

/-- An AGREED link, and a full queue of words for the power manager. -/
def budget : State := { noPorts with links := [(63, { core := { phase := .agreed } })] }
def budgetFull : State := { budget with pwr := { budget.pwr with budQueue := List.replicate 16 0 } }

theorem witness_CurrentThrottles :
    on.running = true ∧ on.portOn portPm = true ∧ (1600 : BitVec 12).toNat ≤ 1600 ∧ 1600 < (1601 : BitVec 12).toNat ∧
    (400 : BitVec 12).toNat ≤ 400 ∧ 400 < (401 : BitVec 12).toNat ∧ (at_ .settle).beforeStart = true ∧
    State.reset.beforeStart = true ∧ (at_ .fullStop).beforeStart = true ∧
    98 * on.pwr.limVkx.toNat < 100 * (1275 : BitVec 16).toNat ∧ 98 * on.pwr.limVkm.toNat < 100 * (295 : BitVec 16).toNat ∧
    ¬ 98 * on.pwr.limVkx.toNat < 100 * (1274 : BitVec 16).toNat ∧ ¬ 98 * on.pwr.limVkm.toNat < 100 * (294 : BitVec 16).toNat ∧
    budget.running = true ∧ (budget.link 63).core.phase = .agreed ∧ budget.portOn portPm = false ∧
    (({ budget with clk := on.clk } : State).portOn portPm = true ∧ budget.pwr.budQueue = []) ∧
    budget.pwr.budQueue.length < 16 ∧ 16 ≤ budgetFull.pwr.budQueue.length := by decide

/-- One context that has worked and is in no slot. -/
def worked : State := { on with fe := { on.fe with ctxs := [(1023, { phase := .active, activity := 1 })] } }
/-- A slot held: one without and one with a boundary taken. -/
def metered : State := { tracing with pwr := { on.pwr with mtrs := [(6, {}), (7, { bound := 5, last := 5, boundAny := true })] } }
def metered2 : State := { metered with pwr := { on.pwr with mtrs := [(7, { bound := 5, pendingT := some (5, 6) })] }, clk := noPorts.clk }

theorem witness_EnergyAndMeters :
    on.running = true ∧ on.pwr.slotActivity = [] ∧ on.liveCtxs = [] ∧ worked.liveCtxs = [1023] ∧ 0 < (worked.ctx 1023).activity ∧
    worked.ctxSlot 1023 = none ∧ worked.pwr.blkActivity = 0 ∧ metered.powerOn = true ∧ metered.slotHeld 6 = false ∧
    metered.slotHeld 7 = true ∧ (metered.mtr 7).boundAny = true ∧ (metered.mtr 7).bound ≤ (metered.mtr 7).last ∧
    (metered2.mtr 7).boundAny = false ∧ metered2.domTime 7 ≤ (metered2.mtr 7).bound ∧ State.reset.powerOn = false ∧
    (metered2.mtr 7).pendingT = some (5, 6) ∧ metered2.running = true ∧ metered2.slotHeld 7 = true ∧
    metered2.portOn portStaging = false ∧ (metered2.mtr 7).period = 0 ∧ (metered.mtr 7).pendingT = none := by decide

def trayed : State := { on with tray := { on.tray with pending := [5], outstanding := none } }

theorem witness_TrayInterrupts :
    State.reset.sys.phase = .held ∧ trayed.sys.phase ≠ .held ∧ trayed.tray.outstanding = none ∧ trayed.tray.pending = [5] ∧
    on.tray.pending = [] ∧ on.portOn portTray = true ∧
    ({ on with tray := { on.tray with outstanding := some 4 } } : State).tray.outstanding = some 4 := by decide

/-! ### Power, reset, start, faults -/

/-- A blank device and one at end of life, in the settle delay with refclk there. -/
def settling : State := { State.reset with sys := { phase := .settle, refclk := true } }
def settlingEnd : State := { settling with otp := [(0, lcSegment 1 ||| lcSegment 3)] }

theorem witness_ResetPinsAndReference :
    State.reset.sys.phase = .held ∧ on.sys.phase ≠ .held ∧ (at_ .settle).sys.phase = .settle ∧
    (at_ .waitRef).sys.phase = .waitRef ∧ on.sys.phase = .running ∧ (at_ .failed).sys.phase = .failed ∧
    (at_ .fullStop).sys.phase = .fullStop ∧ (at_ .ellipsis).sys.phase = .ellipsis ∧ on.flt.stamps.length < 2 ∧
    on.sys.phase ≠ .waitRef := by decide

theorem witness_StartUp :
    (settling.sys.phase = .settle ∧ settling.sys.refclk = true) ∧ (at_ .waitRef).sys.phase = .waitRef ∧
    ({ at_ .fullStop with sys := { phase := .fullStop, refclk := true } } : State).sys.refclk = true ∧
    ((at_ .settle).sys.refclk = false) ∧ (at_ .fullStop).sys.refclk = false ∧ on.sys.phase ≠ .settle ∧ on.sys.phase ≠ .fullStop ∧
    env0.coreMismatch = false ∧ (lcDecode settling.lcWord).isPartial = false ∧ (lcDecode settling.lcWord).state = 0 ∧
    (lcDecode settlingEnd.lcWord).isPartial = false ∧ (lcDecode settlingEnd.lcWord).state = 3 := by decide

/-- A running block with a context, a virtual device, and resets in progress of a Colon and of a Full Stop. -/
def faulty : State :=
  { on with fe := { on.fe with ctxs := [(1023, { phase := .active })] }
            vd := { on.vd with vds := [(63, { present := true })] }
            flt := { on.flt with resets := [{ level := lvlColon, target := 63, cause := causeHostRequest }] } }
def hung : State :=
  { at_ .fullStop with flt := { on.flt with resets := [{ level := lvlFullStop, target := 0, cause := causeHostRequest }] } }
def resetting : State :=
  { faulty with flt := { on.flt with resets := [{ level := lvlFullStop, target := 0, cause := causeHostRequest }] } }

/-- A Comma of context 1023 that hangs. -/
def commaHung : State :=
  { faulty with fe := { on.fe with ctxs := [(1023, { phase := .resetting })] }
                flt := { on.flt with resets := [{ level := lvlComma, target := 1023, cause := causeHostRequest }] } }

theorem witness_ResetsAndEscalation :
    faulty.running = true ∧ faulty.portOn portReg = true ∧ faulty.areaOn areaFrontEnd = true ∧ (0x5252 : BitVec 16) ≠ 0x5253 ∧ (1 : BitVec 10) ≠ 0 ∧ (faulty.ctx 0).phase = .free ∧
    resetting.running = true ∧ resetting.covered lvlComma 1023 = true ∧ (faulty.ctx 1023).phase ≠ .free ∧
    faulty.covered lvlComma 1023 = false ∧ 101 < (102 : BitVec 10).toNat ∧ resetting.covered lvlSemicolon 101 = true ∧
    (101 : BitVec 10).toNat ≤ 101 ∧ faulty.covered lvlSemicolon 101 = false ∧ 64 ≤ (64 : BitVec 10).toNat ∧
    (faulty.vdev 0).present = false ∧ faulty.covered lvlColon 63 = true ∧
    (({ faulty with flt := on.flt } : State).covered lvlColon 63 = false ∧ (faulty.vdev ((63 : BitVec 10).setWidth 6)).present = true) ∧
    (on.flt.resets.any fun x => x.level == lvlColon && x.target == 63) = false ∧
    (commaHung.flt.resets.any fun x => x.level == lvlComma && x.target == 1023) = true ∧ (commaHung.ctx 1023).phase = .resetting ∧
    faulty.clusterVd 101 = none ∧
    (faulty.flt.resets.any fun x => x.level == lvlColon && x.target == 63) = true ∧ faulty.canStop = true ∧
    faulty.flt.stamps.length < 2 ∧ (hung.flt.resets.any fun x => x.level == lvlFullStop && x.target == 0) = true ∧
    hung.sys.phase = .fullStop := by decide

/-- A fill command under way and a controller that owes a response, with idle samples counted; a replay of engine 100. -/
def stalled (e : Nat) (n : Byte) : State :=
  { on with fe := { on.fe with ctxs := [(5, { phase := .active })], cmds := [cmd 5 4 0 opMemFill [] []] }
            flt := { on.flt with eng := [(e, { idleRun := n })] }
            mem := { on.mem with out := [{ ch := 31, sub := 0, id := 0, key := 0, dpa := 0, purpose := .write .trustCore, discard := false }] } }
def replaying (rest : List CtxId) (g : Bool) (n : Byte) : State :=
  { on with flt := { on.flt with replays := [{ engine := 100, suspects := 5 :: rest, rest := [7], guilty := g }]
                                 eng := [(100, { replaying := true, idleRun := n })] } }
def coldCore : State := { on with flt := { on.flt with health := { on.flt.health with coldCore := true } } }

theorem witness_EngineFaults :
    (101 : EngineId).toNat ≤ 101 ∧ on.running = true ∧ State.reset.running = false ∧ on.flt.stamps.length < 2 ∧
    on.flt.health.coldCore = false ∧ (coldCore.running = true ∧ coldCore.flt.health.coldCore = true) ∧
    ((replaying [] true 16).eng 100).replaying = true ∧ (on.eng 101).idleRun < on.flt.stallSamples ∧
    (((stalled 101 255).eng 101).replaying = false ∧ (stalled 101 255).flt.stallSamples ≤ ((stalled 101 255).eng 101).idleRun ∧
      (101 : EngineId).toNat = engArbiter) ∧
    ((stalled 31 255).flt.stallSamples ≤ ((stalled 31 255).eng 31).idleRun ∧ (31 : EngineId).toNat < 32 ∧
      ((stalled 31 255).mem.out.any fun q => q.ch == State.engChan 31 && !q.discard) = true) ∧
    ((stalled engFill 255).flt.stallSamples ≤ ((stalled engFill 255).eng engFill).idleRun ∧ State.hasReplay engFill = true ∧
      (stalled engFill 255).suspectsOf engFill ≠ []) ∧
    ((stalled engRed 255).flt.stallSamples ≤ ((stalled engRed 255).eng engRed).idleRun ∧ State.hasReplay engRed = false ∧
      engRed ≠ engArbiter ∧ ¬ engRed < 32 ∧ ((stalled engRed 255).eng engRed).unattributed.length < 2) ∧
    on.underTest 99 = none ∧
    ((replaying [6] false 15).flt.replays.find? fun x => x.engine == 100) =
      some { engine := 100, suspects := [5, 6], rest := [7], guilty := false } ∧
    ((replaying [6] false 15).eng 100).idleRun < 16 ∧
    ((replaying [] true 16).flt.replays.find? fun x => x.engine == 100) =
      some { engine := 100, suspects := [5], rest := [7], guilty := true } ∧
    16 ≤ ((replaying [] true 16).eng 100).idleRun ∧ ([6] : List CtxId) ≠ [] ∧
    ((replaying [] false 16).eng 100).unattributed.length < 2 := by decide +kernel

theorem witness_noEngine (x : CtxId) : (replaying [] true 16).onEngine 100 x = false := by
  simp [State.onEngine, engArbiter, engRed, replaying, on]

/-! ### The register port -/

/-- With the error capture taken, and with no area enabled. -/
def captured : State := { on with glb := { on.glb with eiValid := true } }
def noAreas : State := { captured with clk := { captured.clk with enArea := 0 } }

/-- What a witness needs of a register: it is there and meets a test. -/
def regIs (s : State) (r : RegArea) (off : Nat) (p : RegDef → Bool) : Bool := (s.regAt 0 false {} r off).any p

theorem witness_RefusedAccessHasNoEffect :
    (at_ .settle).regTakes = false ∧ on.regTakes = true ∧ (at_ .ellipsis).regTakes = true ∧ rcDecode ≠ rcOkay ∧
    captured.regTakes = true ∧ captured.glb.eiValid = true ∧ on.glb.eiValid = false := by decide

theorem witness_RegisterDecision :
    captured.running = true ∧ captured.portOn portReg = true ∧ captured.glb.eiValid = true ∧
    (0xFFFFFF : BitVec 24).toNat % 4 ≠ 0 ∧ regAreaOf 0xF10000 = none ∧ regAreaOf 0x07FFFC = none ∧
    regAreaOf 0x011024 = some (.frontEnd, 0x1024) ∧ regAdmits 1 false .frontEnd 0x1024 = false ∧
    regAdmits 0 false .frontEnd 0x1024 = true ∧ noAreas.regAreaOn .frontEnd = false ∧
    captured.regAreaOn .frontEnd = true ∧ (captured.regAt 0 false {} .frontEnd 0xFFFC).isNone = true ∧
    regIs captured .globalArea 0 (fun g => g.write.isNone) = true ∧
    regIs captured .frontEnd 0x1024 (fun g => g.write.any fun f => (f 0).isNone) = true ∧
    regIs captured .frontEnd 0x1024 (fun g => g.write.any fun f => (f 0x01000001).isSome) = true ∧
    regIs captured .globalArea 0 (fun g => g.readable && g.hi.isNone && !g.latched) = true := by decide

theorem witness_RegisterReads : on.running = true ∧ on.portOn portReg = true ∧ on.areaOn areaKeystore = true := by decide

theorem witness_ShareRegister :
    1 ≤ (1 : BitVec 3).toNat ∧ (4 : BitVec 3).toNat ≤ 4 ∧ on.running = true ∧ on.portOn portReg = true ∧
    on.areaOn areaFrontEnd = true ∧ (255 : Fn) ≠ 0 ∧ (0x00FFFFFF : Word).extractLsb' 24 8 = 0 ∧
    (0xFF000000 : Word).extractLsb' 0 12 = 0 ∧ (0x01000001 : Word).extractLsb' 24 8 ≠ 0 ∧
    (0x01000001 : Word).extractLsb' 0 12 ≠ 0 := by decide

theorem witness_DebugAccess :
    (at_ .settle).running = false ∧ (at_ .settle).sys.phase ≠ .failed ∧
    (on.lcd.debugOpen = false ∧ on.lcd.decoded = false) ∧
    (∀ x ∈ [(1 : BitVec 2), 2], let s : State := { captured with lcd := { state := x, decoded := true } }
      s.lcd.debugOpen = false ∧ (s.lcd.state = 1 ∨ s.lcd.state = 2)) ∧
    (let s : State := { captured with lcd := { state := 1, decoded := true, debugOpen := true } };
      s.running = true ∧ s.lcd.debugOpen = true) ∧
    (∀ x ∈ [(0 : BitVec 2), 3], let s : State := { captured with lcd := { state := x, decoded := true } }
      s.running = true ∧ s.lcd.debugOpen = false ∧ s.lcd.decoded = true ∧ (s.lcd.state = 0 ∨ s.lcd.state = 3) ∧
        s.glb.eiValid = true) := by decide

/-! ### Memory -/

/-- A line opens under a side word with its own tag, and under one with the next it does not. -/
theorem openLine_own (k : Bytes) (i : KeyIdx) (d : Dpa) (c : Line) :
    (∃ p, openLine k d c (i ++ lineTag k (tweakT k d) (lineBytes c)) = some p) ∧
    openLine k d c (i ++ (lineTag k (tweakT k d) (lineBytes c) + 1)) = none ∧
    ∀ x : BitVec 28, (i ++ x : BitVec 32).extractLsb' 28 4 = i := by
  have e : ∀ x : BitVec 28, (i ++ x : BitVec 32).toNat = i.toNat * 2 ^ 28 + x.toNat := by
    intro x
    have h : (i ++ x : BitVec 32).toNat = i.toNat <<< 28 ||| x.toNat := BitVec.toNat_append i x
    rw [h, ← Nat.shiftLeft_add_eq_or_of_lt x.isLt, Nat.shiftLeft_eq]
  have h : ∀ x : BitVec 28, (i ++ x : BitVec 32).setWidth 28 = x := by
    intro x; apply BitVec.eq_of_toNat_eq; rw [BitVec.toNat_setWidth, e]; omega
  refine ⟨?_, ?_, ?_⟩
  · unfold openLine
    simp only [h, if_true]
    exact ⟨_, rfl⟩
  · unfold openLine
    simp only [h]
    rw [if_neg]
    generalize lineTag k (tweakT k d) (lineBytes c) = y
    intro e
    have := congrArg BitVec.toNat e
    simp at this
    omega
  · intro x; apply BitVec.eq_of_toNat_eq; rw [BitVec.extractLsb'_toNat, e, Nat.shiftRight_eq_div_pow]; omega

/-- Key rows of memory key index 3: its secret, its Present and its Future, of domain slot 1. Contexts 0 and 1 belong to virtual devices
of slots 1 and 2; a range of slot 2 covers the page of a DPA. -/
def keyedRows : Tab KeyRow := [(44, { valid := true })] ++ (List.range 8).map fun n => (81 + n, { valid := true, material := 1 })
def sealing : State :=
  { on with keys := { on.keys with rows := keyedRows }
            vd := { on.vd with vds := [(1, { present := true, slot := some 1 }), (2, { present := true, slot := some 2 })] }
            fe := { on.fe with ctxs := [(0, { phase := .active, vd := some 1 }), (1, { phase := .active, vd := some 2 })] }
            mem := { on.mem with idx := [(3, { assigned := true, slot := 1 })]
                                 chans := [(31, { lines := 1 })]
                                 ranges := [(63, { base := 0x7FFFFFFF, limit := 0x7FFFFFFF, owner := 2, enable := true })] } }
def sweepingAt (ptr : BitVec 33) : State :=
  { sealing with mem := { sealing.mem with idx := [(3, { assigned := true, slot := 1, sweeping := true })]
                                           chans := [(31, { lines := 1, sweepPtr := [(3, ptr)] })] } }
/-- Context 0 has consumed a group that is not settled. -/
def subjunctive : State :=
  { sealing with links := [(5, { io := { flight := [{ cls := 1, seq := 9, header := 0, payload := [], tag := 0, material := 0
                                                      row := 0, tense := 0, rowGen := 0, gid := some 0, consumers := [0] }] } })] }
def owing (p : McPurpose) : State :=
  { sealing with mem := { sealing.mem with
      out := [{ ch := 31, sub := 3, id := 63, key := 3, dpa := lineDpa (BitVec.allOnes 43), purpose := p, discard := false }] } }
/-- A write of the trust core that is owed a response and discarded. -/
def owedNone : State :=
  let s := owing (.write .trustCore)
  { s with mem := { s.mem with out := s.mem.out.map fun q => { q with discard := true } } }
/-- The last line of the address space, and the last but one page of it. -/
def topLine : Dpa := BitVec.allOnes 43
def lowLine : Dpa := BitVec.ofNat 43 (31 * 2 ^ 38)

theorem witness_MemoryRefusals :
    sealing.running = true ∧ (Master.ctx 0) ≠ .debug ∧ (at_ .running).mcServes (dpaChan topLine) = false ∧
    sealing.mcServes (dpaChan topLine) = true ∧
    sealing.admitted (.ctx 0) topLine = false ∧ sealing.admitted (.fabric 1) topLine = false ∧
    sealing.admitted (.ctx 0) lowLine = true ∧ sealing.masterSlot (.ctx 0) = some (some 1) ∧
    (sealing.memIdx 4).assigned = false ∧ sealing.admitted (.ctx 1) topLine = true ∧
    sealing.masterSlot (.ctx 1) = some (some 2) ∧ (sealing.memIdx 3).slot ≠ 2 ∧ (4 : KeyIdx) ≠ 0 ∧
    sealing.admitted .trustCore lowLine = true ∧ sealing.masterSlot .trustCore = none ∧ sealing.lcd.debugOpen = false := by decide

theorem witness_MemoryRequests :
    sealing.running = true ∧ sealing.mem.waits = [] ∧ sealing.fencedOn lowLine = [] ∧ sealing.lineBusy lowLine = false ∧
    sealing.mcReady (dpaChan lowLine) = true ∧ sealing.freeMcId (dpaChan lowLine) (dpaSub lowLine) = some 0 ∧
    (sealing.memRefusal (.ctx 0) 3 lowLine false).isNone = true ∧ (sealing.memRefusal (.ctx 0) 3 lowLine true).isNone = true ∧
    (sealing.memIdx 3).futureHeld = false ∧ (sealing.memIdx 3).urgent = false ∧ sealing.masterRefs (.ctx 0) = [] ∧
    (sealing.writeKeyOf 3).isSome = true ∧ subjunctive.running = true ∧
    (subjunctive.memRefusal (.ctx 0) 3 lowLine true).isNone = true ∧ subjunctive.masterRefs (.ctx 0) ≠ [] ∧
    subjunctive.mem.fence.length < State.fenceSize ∧ subjunctive.mem.waits = [] ∧ subjunctive.lineBusy lowLine = false ∧
    subjunctive.fencedOn lowLine = [] ∧ subjunctive.mcReady (dpaChan lowLine) = true ∧
    (subjunctive.freeMcId (dpaChan lowLine) (dpaSub lowLine)).isSome = true := by decide +kernel

theorem witness_PartialWrites :
    sealing.running = true ∧ sealing.mem.waits = [] ∧ sealing.fencedOn lowLine = [] ∧ sealing.lineBusy lowLine = false ∧
    sealing.mcReady (dpaChan lowLine) = true ∧ sealing.freeMcId (dpaChan lowLine) (dpaSub lowLine) = some 0 ∧
    (sealing.memRefusal (.ctx 0) 3 lowLine true).isNone = true ∧ sealing.masterRefs (.ctx 0) = [] ∧
    (sealing.memIdx 3).sweeping = false ∧ (sealing.memIdx 3).futureHeld = false ∧ (sealing.memIdx 3).urgent = false ∧
    (sealing.memKey 3 false).isSome = true ∧ (BitVec.allOnes 64 - 1 : BitVec 64) ≠ BitVec.allOnes 64 := by decide +kernel

/-- The answers MemoryAccesses, ControllerResponses and MemoryLinesAndSweeps speak of are there for every memory key. -/
theorem witness_answers (k : Bytes) (i : KeyIdx) (d : Dpa) :
    (∃ (rsp : McRsp) (p : Line), rsp.status = 0 ∧ rsp.rside.extractLsb' 28 4 = i ∧ openLine k d rsp.rdata rsp.rside = some p) ∧
    (∃ rsp : McRsp, rsp.status = 0 ∧ rsp.rside.extractLsb' 28 4 = i ∧ openLine k d rsp.rdata rsp.rside = none) := by
  obtain ⟨⟨p, h⟩, n, e⟩ := openLine_own k i d 0
  exact ⟨⟨⟨0, 0, _⟩, p, rfl, e _, h⟩, ⟨0, 0, _⟩, rfl, e _, n⟩

theorem witness_ControllerResponses :
    let there (s : State) := s.mem.out.find? fun q => q.ch == 31 && q.sub == 3 && q.id == 63 && !q.isMerged
    let rd := McPurpose.read (.ctx 0) [zeros 128] [(1, 0)] []
    ((there (owing rd)).any fun q => !q.discard && q.purpose == rd && q.key == 3) = true ∧
    ((there (owing (.write .trustCore))).any fun q => !q.discard && q.purpose == .write .trustCore &&
      !State.memTold q.tag .trustCore) = true ∧
    ((there owedNone).any fun q => q.discard) = true ∧ State.memTold none (.ctx 0) = false ∧
    there sealing = none ∧ sealing.running = true ∧ sealing.glb.plValid = false ∧
    ({ sealing with glb := { sealing.glb with plValid := true } } : State).glb.plValid = true ∧ there State.reset = none ∧
    State.reset.running = false := by decide +kernel

theorem witness_MemoryCrossing :
    on.running = true ∧ on.mcOn 31 = true ∧ State.reset.mcOn 0 = false ∧ on.mem.waits = [] ∧ on.mem.fence = [] ∧
    (∀ q ∈ sealing.mem.out, q.isMerged = false) := by decide

theorem witness_InflectionSweep :
    State.reset.running = false ∧ sealing.running = true ∧ (3 : KeyIdx) ≠ 0 ∧ sealing.mem.waits = [] ∧
    (∀ j, (sealing.memIdx j).sweeping = false) ∧ sealing.keyUsable (State.rowIndex 3) = true ∧ sealing.mcServes 31 = true ∧
    (sealing.chan 31).lines ≠ 0 ∧ (sweepingAt 4095).running = true ∧ ((sweepingAt 4095).memIdx 3).sweeping = true ∧
    (sweepingAt 4095).mcServes 31 = true ∧ (sweepingAt 4095).mcReady 31 = true ∧ (sweepingAt 4095).mem.waits = [] ∧ (sweepingAt 4095).sweepPtrOf 31 3 = 4095 ∧
    4095 < ((sweepingAt 4095).chan 31).lines.toNat * 4096 ∧ (sweepingAt 4095).fencedOn (mkDpa 31 4095) = [] ∧
    (sweepingAt 4095).lineBusy (mkDpa 31 4095) = false ∧
    ((sweepingAt 4095).freeMcId 31 (dpaSub (mkDpa 31 4095))).isSome = true ∧ ((sweepingAt 4095).memKey 3 false).isSome = true ∧
    ((sweepingAt 4095).memKey 3 true).isSome = true ∧ (∀ j, j ≠ 3 → ((sweepingAt 4094).memIdx j).sweeping = false) ∧
    (sweepingAt 4094).sweepPtrOf 31 3 = 4094 ∧ 4094 + 1 < ((sweepingAt 4094).chan 31).lines.toNat * 4096 ∧
    ((sweepingAt 4096).chan 31).lines.toNat * 4096 ≤ ((sweepingAt 4096).sweepPtrOf 31 3).toNat ∧
    (sweepingAt 0).hasFuture 3 = true ∧ sealing.hasFuture 3 = false := by decide
/-- The Future that SWEEP_START derives has different halves. -/
theorem witness_xts : State.xtsEqual (sealing.memKeyBytes 3 (sealing.memGen 3 + 1)) = false := by decide +kernel

theorem witness_RangesAndLines :
    sealing.running = true ∧ (Tab.get {} sealing.mem.ranges 63).enable = true ∧ (Tab.get {} sealing.mem.ranges 0).enable = false ∧
    (1 : BitVec 31) < 2 ∧ (2 : BitVec 31) ≤ 2 ∧ (62 : BitVec 6) ≠ 63 ∧ (0x100000 : BitVec 21).toNat ≤ 2 ^ 20 ∧
    (∀ j, (sealing.memIdx j).sweeping = false) ∧ 2 ^ 20 < (0x100001 : BitVec 21).toNat ∧ State.reset.running = false := by decide

/-! ### Link ports -/

/-- An AGREED link of a member of slot 7, with its sealing and opening keys; its partner is the higher member. -/
def agreedCore : LinkCore :=
  { phase := .agreed, up := true, slot := 7, pValid := true, pLink := 0, pMember := 0xFFFFF, initiator := true }
def bothClocks : LinkClk := { txLock := true, rxLock := true, txSel := true, rxSel := true }
def agreedLink : Link :=
  { core := agreedCore, clk := bothClocks, io := { txCredits := [(0, 1), (1, 1), (2, 1), (3, 1)] }
    agr := { peerSlot := 2 } }
def linkRows (l : LinkId) : Tab KeyRow :=
  (List.range 8).map fun n => (249 + 24 * l.toNat + 3 * n, { valid := true, tense := 2, material := 5, gen := 0, slot := 7 })
/-- The identity keys, the alias keys, and the member secret of slot 7. -/
def memberRows : Tab KeyRow :=
  [(4, { valid := true }), (5, { valid := true }), (6, { valid := true }), (7, { valid := true }), (8, { valid := true }), (9, { valid := true }), (State.rowMember 7, { valid := true })]
/-- Link 63 stands so; links of virtual device 63, contexts 0 ACTIVE in it. -/
def onLink (k : Link) : State :=
  { on with links := [(63, k)]
            doms := [(7, { phase := .member, member := 3, hallManager := 3, sysManager := 3 })]
            vd := { on.vd with vds := [(63, { present := true, slot := some 7, links := BitVec.allOnes 64 })] }
            fe := { on.fe with ctxs := [(0, { phase := .active, vd := some 63 })] }
            keys := { on.keys with rows := memberRows ++ linkRows 63 } }
def agreedState : State := onLink agreedLink
def noLinks (s : State) : State := { s with clk := { s.clk with enLink := 0 } }
def upLink (clk : LinkClk) (io : LinkIo) : State := onLink { core := { up := true, phase := .up }, clk := clk, io := io }

theorem witness_LinkPins :
    (agreedState.link 63).core.up = true ∧
    (on.linkLive 63 = true ∧ (on.link 63).core.up = false ∧ (on.link 63).io.rxOwedCredits = [] ∧
      (on.link 63).clk.needDown = false ∧ (on.link 63).clk.rxSel = false ∧ (on.link 63).clk.txSel = false ∧
      on.declOf 63 = none ∧ on.clk.deliveryUnlocked = false ∧ pool.poolRole = true) ∧
    ((noLinks on).linkLive 63 = false ∧ ((noLinks on).link 63).core.up = false) ∧
    (let s := upLink bothClocks { wire := [{ cls := 0, units := 9, bytes := [] }] };
      s.linkLive 63 = true ∧ (s.link 63).core.up = true ∧ s.declOf 63 = none ∧ (s.link 63).core.phase ≠ .agreed ∧
      s.red.progs = [] ∧ (s.link 63).clk.txSel = true ∧ (s.link 63).clk.rxSel = true) ∧
    (let s := upLink { needDown := true } {};
      s.linkLive 63 = true ∧ (s.link 63).clk.needDown = true) := by decide +kernel

theorem witness_LinkCounters :
    agreedState.linkLive 63 = true ∧ (agreedState.link 63).core.up = true ∧ (0 : LinkId) ≠ 63 ∧ (3 : Cls) ≠ 0 ∧
    (noLinks agreedState).linkLive 63 = false ∧ (on.link 63).core.up = false ∧
    (let s := upLink bothClocks { wire := [{ cls := 0, units := 9, bytes := [] }] };
      s.linkLive 63 = true ∧ (s.link 63).core.up = true ∧ (s.link 63).clk.txSel = true ∧
      (s.link 63).io.wire = [{ cls := 0, units := 9, bytes := [] }] ∧ 8 < 9) ∧
    (agreedState.link 63).io.wire = [] := by decide +kernel

/-- A group to member 3 of slot 7, with a header of these fields. -/
def rxOf (dest kind : BitVec 2) (c : Cls) (len : BitVec 9) : RxGroup :=
  { header := groupHeader 3 0 0 2 dest kind 0 c len 1, payload := zeros len.toNat, tag := 0, bad := false, sogEarly := false
    cut := false }
/-- The units that frame such a group: a header, a payload of zeros and a tag of zeros. -/
def unitsOf (g : RxGroup) : List RxUnit :=
  { valid := true, sog := true, bad := g.bad, data := g.header } ::
    List.replicate (blocksOf (hdrLen g.header).toNat + 1) { valid := true, sog := false, bad := false, data := 0 }
def openGroup : RxGroup := { rxOf destControl kindOpen 0 256 with header := groupHeader 3 0 0 0 destControl kindOpen 0 0 256 1 }
/-- A link whose partner is declared, before its Agreement. -/
def declared (k : Link) : State :=
  let s := onLink k
  { s with doms := [(7, { phase := .member, member := 3, hallManager := 3, sysManager := 3
                          decls := [(63, some { partner := 0xFFFFF, link := 0 })] })] }
def declaredUp : State := declared { agreedLink with core := { up := true, phase := .up } }

theorem witness_GroupsReceived :
    frameGroup [] = none ∧
    (noLinks agreedState).linkLive 63 = false ∧ (on.link 63).core.up = false ∧
    (agreedState.linkLive 63 = true ∧ (agreedState.link 63).core.up = true ∧ (agreedState.link 63).clk.rxSel = true) ∧
    (∀ g ∈ [{ rxOf destDeliver kindSealed 1 256 with bad := true }, rxOf destDeliver kindSealed 1 257,
        rxOf destReduce kindSealed 1 256, openGroup, rxOf destDeliver kindSealed 1 256, rxOf destDeliver kindSealed 3 1],
      frameGroup (unitsOf g) = some g) ∧
    agreedState.rxCheck 63 { rxOf destDeliver kindSealed 1 256 with bad := true } false = .inl 1 ∧
    agreedState.rxCheck 63 (rxOf destDeliver kindSealed 1 257) false = .inl 2 ∧
    agreedState.rxCheck 63 (rxOf destReduce kindSealed 1 256) false = .inl 3 ∧
    hdrKind (rxOf destDeliver kindSealed 1 257).header ≠ kindOpen ∧
    (declaredUp.rxCheck 63 openGroup false = .inr 0 ∧ hdrKind openGroup.header = kindOpen ∧ openGroup.cut = false ∧
      declaredUp.linkLive 63 = true ∧ (declaredUp.link 63).core.up = true ∧ (declaredUp.link 63).clk.rxSel = true) ∧
    agreedState.rxCheck 63 (rxOf destDeliver kindSealed 1 256) false = .inr (State.rowLink 63 1 1 0) ∧
    (agreedState.stormDue 63 = false ∧ agreedState.isSubjunctive (rxOf destDeliver kindSealed 1 256).header = true ∧
      isDeliver (rxOf destDeliver kindSealed 1 256).header = true ∧ agreedState.deliveryOpen = true ∧
      (agreedState.link 63).io.flight = [] ∧ (agreedState.link 63).io.held = []) ∧
    (agreedState.rxCheck 63 (rxOf destDeliver kindSealed 3 1) false = .inr (State.rowLink 63 3 1 0) ∧
      agreedState.isSubjunctive (rxOf destDeliver kindSealed 3 1).header = false) := by decide +kernel

/-- A group in flight whose tag is the one its material gives, and the same with the next tag. -/
def flightOf (h : BitVec 128) (p : Bytes) (gid : Option (BitVec 16)) (off : BitVec 128) : RxFlight :=
  let g : RxFlight := { cls := hdrCls h, seq := hdrSeq h, header := h, payload := p, tag := 0, material := 5, row := 0, tense := 2
                        rowGen := 0, gid := gid, consumers := [] }
  { g with tag := leBv 128 (gcmTag (leBytes 32 g.material.toNat) (groupIv g.material g.seq) (leBytes 16 h.toNat) p) + off }

theorem witness_tag (h : BitVec 128) (p : Bytes) (gid : Option (BitVec 16)) :
    State.groupOk (flightOf h p gid 0) = true ∧ State.groupOk (flightOf h p gid 1) = false := by
  constructor
  · simp [flightOf, State.groupOk, State.groupTagOk]
  · simp only [flightOf, State.groupOk, State.groupTagOk, Bool.not_false, Bool.true_and, beq_eq_false_iff_ne]
    intro e
    have := congrArg BitVec.toNat e
    simp at this
    omega

/-- The header of a CONTROL group of eight bytes, sealed with the first counter block so that it opens to a LINK_PULSE. -/
def ctlHeader : BitVec 128 := groupHeader 3 0 0 2 destControl kindSealed 0 0 8 1
def ctlPayload : Bytes := gcmOpen (leBytes 32 5) (groupIv 5 1) (0x31 :: zeros 7)
/-- The header of a delivery of one byte. -/
def dlvHeader : BitVec 128 := groupHeader 3 0 0 2 destDeliver kindSealed 0 1 1 1
def beatOf (last : Bool) : Beat :=
  { data := zeros 128, first := true, last := last, len := 256, tc := 1, ctx := 0, gid := 0, subj := false, trunc := false }
/-- Link 63 AGREED with one group in flight and these beats presented. -/
def inFlight (f : RxFlight) (beats : List Beat) : State :=
  onLink { agreedLink with io := { agreedLink.io with flight := [f] }, del := { beats := beats } }

/-- What the clauses of a Verdict ask, over a group in flight. -/
theorem witness_GroupVerdicts (f : RxFlight) (b : List Beat) (h : f.due = false) :
    (agreedState.link 63).io.flight.find? (fun g => g.cls == 0 && g.seq == 1 && !g.due) = none ∧
    ((inFlight f b).link 63).io.flight.find? (fun g => g.cls == f.cls && g.seq == f.seq && !g.due) = some f ∧
    (inFlight f b).deliveryOpen = agreedState.deliveryOpen ∧ (inFlight f b).stormDue 63 = agreedState.stormDue 63 ∧
    State.beatsGone ((inFlight f []).link 63).del 0 = true ∧
    State.beatsGone ((inFlight f [beatOf true]).link 63).del 0 = false := by
  refine ⟨rfl, ?_, rfl, rfl, rfl, rfl⟩
  rw [show ((inFlight f b).link 63).io.flight = [f] from rfl]
  simp [h]
/-- A delivered group with a gid, and a CONTROL group with a bad tag whose Verdict falls at once. -/
theorem witness_verdictNow : ∀ off : BitVec 128,
    (flightOf dlvHeader [1] (some 0) off).due = false ∧ (flightOf dlvHeader [1] (some 0) off).gid = some 0 ∧
    (inFlight (flightOf ctlHeader ctlPayload none 1) []).verdictNow 63 (flightOf ctlHeader ctlPayload none 1) = true := by
  intro off
  refine ⟨rfl, rfl, ?_⟩
  unfold State.verdictNow
  rw [show (flightOf ctlHeader ctlPayload none 1).gid = none from rfl, (witness_tag ctlHeader ctlPayload none).2]
  simp
/-- A group whose payload opens to a LINK_PULSE. -/
theorem witness_plain :
    State.groupPlain (flightOf ctlHeader ctlPayload none 0) = 0x31 :: zeros 7 ∧
    (flightOf ctlHeader ctlPayload none 0).placed = false ∧
    (hdrKind ctlHeader = kindSealed ∧ hdrDest ctlHeader = destControl ∧ hdrCls ctlHeader = 0 ∧ hdrSeq ctlHeader = 1) ∧
    State.tc0OneLink 0x31 = true ∧ State.tc0BodyOk (0x31 :: zeros 7) = true := by decide +kernel

def queued (k : Link) (t : Tc0Item) (x : List TxItem) : State := onLink { k with tc0 := { queue := [t] }, io := { k.io with txq := x } }
def openItem : Tc0Item := { prio := 1, isOpen := true, dstMember := 5, slot := 7, payload := [0] }
def dataItem : TxItem :=
  { cls := 3, kind := kindSealed, dest := destDeliver, ctxField := 0, vdTag := 63, payload := zeros 256, ctx := some 0, prog := none
    refs := [] }
def stalledTx : State := onLink { agreedLink with io := {} }
def askTx (n : Nat) : TxReq := { ctx := 0, dest := destDeliver, dstCtx := 0, payload := zeros n }

theorem witness_GroupsSent :
    stalledTx.running = true ∧ stalledTx.canStart 63 3 = false ∧ (stalledTx.ctx 0).phase = .active ∧
    stalledTx.txRefusal 63 3 (askTx 257) = some stLengthRange ∧ stalledTx.txRefusal 63 3 (askTx 0) = some stLengthRange ∧
    stalledTx.txRefusal 63 3 (askTx 256) = none ∧
    (let s := onLink { agreedLink with io := { agreedLink.io with txq := [dataItem] } };
      s.running = true ∧ s.canStart 63 3 = true ∧ s.yields 63 3 = false ∧ (3 : Cls) ≠ 0 ∧ s.txNext 63 3 = some dataItem ∧
      s.sealRow 63 3 = some (State.rowLink 63 3 0 0)) ∧
    (let s := queued agreedLink openItem [];
      s.running = true ∧ s.canStart 63 0 = true ∧ s.tc0Next 63 = some openItem ∧ openItem.isOpen = true) := by decide +kernel

def ringHeld : RxHeld :=
  { stamp := 0, cls := 2, seq := 1, header := groupHeader 3 1023 63 2 destRing kindSealed 0 2 1 1, payload := [7] }

theorem witness_DeliveryPort :
    State.reset.running = false ∧ pool.poolRole = true ∧ on.running = true ∧ on.poolRole = false ∧
    on.clk.deliveryUnlocked = false ∧ on.portOn portDelivery = true ∧
    (let s : State := { pool with clk := { on.clk with deliveryUnlocked := true } };
      s.clk.deliveryUnlocked = true ∧ s.poolRole = true) ∧
    (let s : State := { subjunctive with clk := { on.clk with deliveryUnlocked := true } };
      s.clk.deliveryUnlocked = true ∧ s.running = true ∧ s.poolRole = false ∧ s.portOn portDelivery = true ∧
      unsettledOf (s.link 5) ≠ []) ∧
    (let s := onLink { agreedLink with del := { beats := [beatOf false, beatOf true] } };
      (s.link 63).del.beats = [beatOf false, beatOf true] ∧ s.running = true ∧ s.deliveryOpen = true ∧
      State.channelFull (s.link 63) = false ∧ (beatOf false).last = false ∧ (s.link 63).io.held = [] ∧
      (s.link 63).io.flight = [] ∧ s.stormDue 63 = false) ∧
    (∀ n ∈ [15, 16], State.channelFull
      { agreedLink with io := { flight := List.replicate n (flightOf dlvHeader [1] (some 0) 0) } } = decide (n = 16)) ∧
    (agreedState.link 63).del.beats = [] ∧
    (let s := onLink { agreedLink with io := { agreedLink.io with held := [ringHeld] }, ringFull := [(2, 1023)] };
      (s.link 63).io.held = [ringHeld] ∧ (s.link 63).io.flight = [] ∧ isRing ringHeld.header = true ∧
      ringHeld.cls = 2 ∧ hdrCtx ringHeld.header = 1023) ∧
    ((agreedState.link 63).io.held = [] ∧ (agreedState.link 63).io.flight = []) := by decide +kernel

theorem witness_AgreementsEnd :
    (noLinks agreedState).linkLive 63 = false ∧ (declaredUp.link 63).core.phase ≠ .agreed ∧
    agreedState.linkLive 63 = true ∧ (agreedState.link 63).core.phase = .agreed ∧ (agreedState.link 63).tc0.queue = [] ∧
    agreedState.red.progs = [] ∧ (agreedState.link 63).io.flight = [] ∧ (agreedState.link 63).fabOut = [] ∧
    (agreedState.link 63).fabWait = [] := by decide +kernel

/-! ### Agreements and Tenses -/

/-- A declared link in an attempt. -/
def trying (initiator : Bool) (attempt : BitVec 2) (a : Agr) : State :=
  declared { agreedLink with core := { agreedCore with phase := .agreeing, initiator := initiator, attempt := attempt }, agr := a }
def prefixOf (attempt : BitVec 32) : AgrPrefix :=
  { version := 1, reservedZero := true, attempt := attempt, domainId := zeros 16, fromMember := 0xFFFFF, fromLink := 0
    fromSlot := 2, toMember := 3, toLink := 63, raw := [] }
def partner : Slot × Decl := (7, { partner := 0xFFFFF, link := 0 })

theorem witness_AgreementNeedsPartner :
    (noLinks declaredUp).linkLive 63 = false ∧ (on.link 63).core.up = false ∧ agreedState.declOf 63 = none := by decide +kernel

theorem witness_HelloAnswered :
    declaredUp.agrReady 63 = some partner ∧ declaredUp.heldAttempt 63 < (prefixOf 1).attempt.toNat ∧
    (declaredUp.row (State.rowLas 63)).outOfUse = false ∧ (declaredUp.link 63).core.phase = .up ∧ declaredUp.red.progs = [] ∧
    (prefixOf 0).attempt.toNat ≤ declaredUp.heldAttempt 63 ∧ (trying false 2 {}).agrReady 63 = some partner ∧
    (prefixOf 2).attempt.toNat ≤ (trying false 2 {}).heldAttempt 63 := by decide +kernel

theorem witness_AgreementSteps :
    declaredUp.awaits 63 (prefixOf 1) true = false ∧ declaredUp.awaits 63 (prefixOf 1) false = false ∧
    (let s := trying true 1 { hello := [1] };
      s.agrReady 63 = some partner ∧ s.awaits 63 (prefixOf 1) true = true ∧ (s.link 63).agr.hello ≠ [] ∧
      (s.link 63).agr.lasReady = false) ∧
    (let s := trying false 3 { reply := [1] };
      s.agrReady 63 = some partner ∧ s.awaits 63 (prefixOf 3) false = true ∧ (s.link 63).agr.reply ≠ [] ∧
      (s.row (State.rowLas 63)).outOfUse = false ∧ (s.link 63).core.slot = 7) ∧
    (let s := trying true 3 { lasReady := true };
      s.awaits 63 (prefixOf 3) true = true ∧ (s.link 63).agr.lasReady = true ∧ State.agrFormOk (prefixOf 3) = true ∧
      s.agreeRefusal 7 = none ∧
      (s.row (State.rowLas 63)).outOfUse = false ∧ (s.link 63).core.slot = 7 ∧ (s.link 63).core.attempt = 3) ∧
    ((trying true 1 { lasReady := true }).link 63).core.attempt ≠ 3 := by decide +kernel

theorem witness_AttemptsEnd :
    (let s := trying true 3 { hello := [1] };
      s.agrReady 63 = some partner ∧ (s.link 63).core.phase = .agreeing ∧ (s.link 63).core.initiator = true ∧
      (s.link 63).agr.hello ≠ [] ∧ (s.link 63).core.attempt = 3) ∧
    ((trying true 2 { hello := [1] }).link 63).core.attempt ≠ 3 ∧
    ((trying true 2 {}).link 63).agr.hello = [] ∧ (trying true 2 {}).agrReady 63 = some partner ∧
    ((trying false 1 {}).link 63).core.initiator = false ∧ (declaredUp.link 63).core.phase ≠ .agreeing ∧
    1 ≤ (9 : Byte).toNat ∧ ¬ (10 : Byte).toNat ≤ 9 := by decide +kernel

/-- The Tense message that names a stream and a generation confirms it. -/
theorem witness_tense (s : State) (l : LinkId) (ty : Byte) (c : Cls) (dir : Nat) (g : BitVec 32) :
    ∃ m : TenseMsg, m.cls.setWidth 2 = c ∧ s.tenseOk l m ty c dir g = true ∧
      s.tenseOk l { m with reservedZero := false } ty c dir g = false := by
  refine ⟨{ cls := c.setWidth 8, dir := BitVec.ofNat 8 dir, gen := g
            kcTag := State.kconf (leBytes 32 ((s.linkKey l c dir g).setWidth 256).toNat) ty (c.setWidth 8) (BitVec.ofNat 8 dir) g
            reservedZero := true }, ?_, ?_, ?_⟩
  · simp only; clear s l ty dir g; revert c; decide
  · simp [State.tenseOk]
  · simp [State.tenseOk]

/-- The stream of class 0 that this end sends (or takes) in the middle of a change. -/
def changing (dir : Nat) (n : Nat) (tense : BitVec 2) : State :=
  { agreedState with keys := { agreedState.keys with
      rows := [(State.rowLink 63 0 dir 0, { valid := true, tense := 2, gen := 0 }),
               (State.rowLink 63 0 dir 1, { valid := true, tense := tense, gen := 1 })] }
                     links := [(63, { agreedLink with tenseTx := [(0, { attempts := n })] })] }

theorem witness_TenseChange :
    agreedState.running = true ∧ (agreedState.link 63).core.phase = .agreed ∧ agreedState.txDir 63 = 0 ∧
    agreedState.tenseRow 63 3 0 2 = some (State.rowLink 63 3 0 0) ∧ (agreedState.tenseTxOf 63 3).attempts = 0 ∧
    (agreedState.row (agreedState.genRow 63 3 0 1)).outOfUse = false ∧
    (let s := changing 0 3 3;
      s.running = true ∧ (s.link 63).core.phase = .agreed ∧ s.txDir 63 = 0 ∧ (s.tenseTxOf 63 0).attempts ≠ 0 ∧
      s.tenseRow 63 0 0 2 = some (State.rowLink 63 0 0 0) ∧ s.tenseRow 63 0 0 3 = some (State.rowLink 63 0 0 1) ∧
      (s.tenseTxOf 63 0).attempts < 4) := by decide +kernel

theorem witness_TenseReceived :
    agreedState.running = true ∧ (agreedState.link 63).core.phase = .agreed ∧ agreedState.rxDir 63 = 1 ∧
    agreedState.tenseRow 63 0 1 2 = some (State.rowLink 63 0 1 0) ∧ (agreedState.tenseRxOf 63 0).ready = false ∧
    agreedState.tenseRow 63 0 1 1 = none ∧ (agreedState.row (agreedState.genRow 63 0 1 1)).outOfUse = false ∧
    (let s := changing 1 0 1;
      s.running = true ∧ (s.link 63).core.phase = .agreed ∧ s.rxDir 63 = 1 ∧
      s.tenseRow 63 0 1 2 = some (State.rowLink 63 0 1 0) ∧ s.tenseRow 63 0 1 1 = some (State.rowLink 63 0 1 1) ∧
      (s.tenseRxOf 63 0).ready = false ∧ (s.tenseRxOf 63 0).heldMsg = none) := by decide +kernel

theorem witness_KeyLimits :
    sealing.running = true ∧ (sealing.row (2832 : RowId).toNat).valid = false ∧
    (sealing.row (State.rowMemKey 3 false)).valid = true ∧ (sealing.memIdx 3).sweeping = false ∧
    agreedState.running = true ∧ 0 < 3 ∧ (agreedState.row (State.rowLink 63 3 (agreedState.txDir 63) 0)).valid = true := by
  decide +kernel

theorem witness_KeysInvalidated :
    sealing.running = true ∧ (2832 : RowId).toNat ≤ 2832 ∧ 2832 < (2833 : RowId).toNat ∧ State.reset.running = false ∧
    (let s : State := { on with keys := { on.keys with rows := [(2, { valid := true, parent := .row 1 })] } };
      (s.row 2).parent = .row 1 ∧ s.chainReaches (.row 1) 5 (s.row 3).parent = false) := by decide +kernel
theorem witness_canonical :
    ({ on with keys := { on.keys with rows := [(2, { valid := true, parent := .row 1 })] } } : State).canonical := by
  constructor <;> first
    | decide
    | (simp only [Glb.canonical, Keys.canonical, Lanes.canonical, Mem.canonical, Fab.canonical, Fe.canonical, Vds.canonical,
        Red.canonical, Flt.canonical, Pwr.canonical, Isl.canonical, Tel.canonical]; decide)

theorem witness_DeviceSecretProgrammed :
    (let s : State := { on with lcd := { state := 1 } };
      s.running = true ∧ s.lcd.state = 1 ∧ s.dusThere = false ∧ (s.row 0).outOfUse = false) ∧
    State.reset.running = false ∧ on.lcd.state ≠ 1 ∧
    ({ on with otp := [(7, 1)] } : State).dusThere = true := by decide +kernel

/-! ### Lanes, monitors, enables, the staging port -/

/-- Cluster of link 63: 25 active lanes, lane 25 a spare; and one without a spare. -/
def lanesOf (spare : BitVec 26) : LaneCluster := { active := 0x1FFFFFF, spare := spare, cryptoGroup := 1 }
def withLanes (spare : BitVec 26) (g : RegionLanes) : State :=
  { on with lanes := { on.lanes with clusters := [(State.clusterKey (.lk 63), lanesOf spare)], link := g } }
def mism (t : Time) : MismatchRec := { time := t, cluster := .lk 0, lane := 0, lowered := false, spareTaken := none }
def coded (code : BitVec 4) (s : State) : State := { s with clk := { s.clk with calLink := { s.clk.calLink with appliedCode := code } } }
def ghashAt (n : Nat) : State := { on with lanes := { on.lanes with ghashTimes := List.replicate n 0 } }

theorem witness_LanesAndMonitors :
    (State.laneReleases 0 (BitVec.allOnes 128) true = true ∧ State.laneReleases 0 (BitVec.allOnes 128) false = false ∧
      State.laneReleases 1 (BitVec.allOnes 128) true = false) ∧
    (State.reset.running = false ∧ (on.laneCluster .svc).active.getLsbD 0 = false) ∧
    (inSpan ({ on with sys := { on.sys with btime := 999 } } : State).now 0 999 = true ∧
      inSpan ({ on with sys := { on.sys with btime := 1000 } } : State).now 0 999 = false) ∧
    (let s := withLanes 0x2000000 { bursting := true };
      s.running = true ∧ (s.laneCluster (.lk 63)).active.getLsbD 24 = true ∧
      (s.regionLanes (State.regionOf (.lk 63))).bursting = true ∧ (s.regionLanes .link).bursting = true) ∧
    (let s := withLanes 0x2000000 { recent := [mism 0] };
      s.running = true ∧ (s.laneCluster (.lk 63)).active.getLsbD 24 = true ∧ (s.regionLanes .link).bursting = false ∧
      ((s.regionLanes .link).recent.filter fun y => inSpan s.now y.time 1000).length < 2 ∧
      lowestLane (s.laneCluster (.lk 63)).spare = some 25 ∧ (s.laneCluster (.lk 63)).spare.getLsbD 24 = false ∧
      State.lanesSet (s.laneCluster (.lk 63)) = true ∧ (s.laneCluster (.lk 63)).active &&& (s.laneCluster (.lk 63)).spare = 0 ∧
      State.patrolLane (s.laneCluster (.lk 63)) = some 0) ∧
    (let s := withLanes 0 {};
      s.running = true ∧ (s.laneCluster (.lk 63)).active.getLsbD 24 = true ∧ (s.regionLanes .link).bursting = false ∧
      lowestLane (s.laneCluster (.lk 63)).spare = none ∧ s.spareRival (.lk 63) 24 = none ∧ State.lanesSet (s.laneCluster (.lk 63)) = true ∧
      (s.laneCluster (.lk 63)).spare = 0) ∧
    (let s := coded 14 (withLanes 0x2000000 { recent := [mism 0, mism 0] });
      2 ≤ ((s.regionLanes .link).recent.filter fun y => inSpan s.now y.time 1000).length ∧
      (s.regionLanes .link).bursting = false ∧ (s.cal (State.regionOf (.lk 63))).appliedCode ≠ 15) ∧
    ((on.laneCluster .svc).ghashRetired = false ∧ ((ghashAt 2).lanes.ghashTimes.filter fun t => inSpan 0 t 1000000).length < 3 ∧
      3 ≤ ((ghashAt 3).lanes.ghashTimes.filter fun t => inSpan (ghashAt 3).now t 1000000).length ∧
      (({ on with lanes := { on.lanes with clusters := [(State.clusterKey .svc, { ghashRetired := true })] } } : State).laneCluster
        .svc).ghashRetired = true) ∧
    ((coded 14 on).cal .link).appliedCode ≠ 15 ∧ (on.cal .link).appliedCode = 15 ∧ on.timingTimes .link = [] ∧
    (let s : State := { on with flt := { on.flt with timingLink := [0, 0] } };
      (s.cal .link).appliedCode = 15 ∧ 2 ≤ ((s.timingTimes .link).filter fun t => inSpan s.now t 1000000000).length ∧
      s.flt.stamps.length < 2 ∧ s.running = true) := by decide +kernel

def waiting1 : State :=
  { on with mem := { on.mem with waits := [{ master := .trustCore, key := 0, dpa := topLine, write := none, atomic := false
                                             refs := [] }] } }
theorem witness_FunctionEnables :
    State.reset.running = false ∧ on.running = true ∧ 10 ≤ (10 : BitVec 4).toNat ∧ on.areaOn (9 : BitVec 4).toNat = true ∧
    (pool.poolRole = true ∧ (BitVec.ofNat 4 areaReduction).toNat = areaReduction) ∧
    ((at_ .running).areaOn (9 : BitVec 4).toNat ≠ true ∧ (9 : BitVec 4).toNat < 10 ∧ (at_ .running).poolRole = false) ∧
    (on.areaOn (0 : BitVec 4).toNat ≠ false ∧ (0 : BitVec 4).toNat ≠ areaTelemetry) ∧
    6 ≤ (6 : BitVec 3).toNat ∧ (5 : BitVec 3).toNat < 6 ∧ on.portOn (5 : BitVec 3).toNat = true ∧
    (BitVec.ofNat 3 portDelivery).toNat = portDelivery ∧
    ((BitVec.ofNat 3 portReg).toNat = portReg ∧ noPorts.portOn (BitVec.ofNat 3 portReg).toNat = false) ∧
    on.mcOn 31 = true ∧ (∀ j, (waiting1.memIdx j).sweeping = false) ∧ waiting1.mcOn 31 = true ∧
    (∃ w ∈ waiting1.mem.waits, dpaChan w.dpa = 31 ∧ State.memTold w.tag w.master = false) ∧
    (∃ q ∈ (owing (.write .trustCore)).mem.out, q.ch = 31 ∧ q.discard = false ∧ State.memTold q.tag q.master = false) ∧
    (owing (.write .trustCore)).mcOn 31 = true ∧
    ((at_ .running).mcOn 31 = false ∧ (at_ .running).mem.fence = [] ∧ (at_ .running).mem.waits = [] ∧
      ∀ q ∈ (at_ .running).mem.out, q.isMerged = false) ∧
    (on.linkOn 63 = true ∧ (on.link 63).core.up = false) ∧ (at_ .running).linkOn 63 = false ∧
    (agreedState.linkOn 63 = true ∧ (agreedState.link 63).core.up = true) := by decide +kernel

/-- Function 255 in a phase, with context 1 of it where `live`, and a staging command of it. -/
def fnIn (p : FnPhase) (live : Bool) : State :=
  { on with fe := { on.fe with fns := [(255, { phase := p })]
                               ctxs := if live then [(1, { phase := .active, fn := 255 })] else []
                               cmds := if live then [cmd 1 4 0 opStgIn [] []] else [] } }
def dmaOut (live : Bool) : State :=
  let s := fnIn .opened live
  { s with fe := { s.fe with dmaReads := [(255, some { ctx := 1, queue := 4, k := 0, left := 4096 })] } }

theorem witness_HostPort :
    State.reset.sys.phase = .held ∧ ((at_ .waitRef).sys.phase ≠ .held ∧ (at_ .waitRef).running = false ∧
      (at_ .waitRef).stgPortOn = false ∧ (255 : Fn) ∉ (at_ .waitRef).sys.flrEarly) ∧
    (let s : State := { noPorts with sys := { noPorts.sys with flrEarly := [255] } };
      s.stgPortOn = false ∧ (255 : Fn) ∈ s.sys.flrEarly) ∧ on.running = true ∧ on.stgPortOn = true ∧ (255 : Fn) ≠ 0 ∧ (on.func 255).phase = .closed ∧
    (((fnIn .opened true).func 255).phase = .opened ∧ (fnIn .opened true).fnWork 255 = true ∧
      (fnIn .opened true).ctxsOfFn 255 ≠ []) ∧
    (((fnIn .opened false).func 255).phase = .opened ∧ (fnIn .opened false).ctxsOfFn 255 = []) ∧
    Tab.get none on.fe.dmaReads (0 : BitVec 8).toNat = none ∧
    (∀ b : Bool, (dmaOut b).stgPortOn = true ∧
      ((dmaOut b).findCmd 1 4 0 = if b then some (cmd 1 4 0 opStgIn [] []) else none) ∧
      Tab.get none (dmaOut b).fe.dmaReads (255 : BitVec 8).toNat = some { ctx := 1, queue := 4, k := 0, left := 4096 } ∧
      4096 < (4097 : BitVec 13).toNat ∧ (4096 : BitVec 13).toNat ≤ 4096 ∧ (1 : BitVec 2) ≠ 0) ∧
    (on.areaOn areaStaging = true ∧ (at_ .running).areaOn areaStaging = false ∧
      ∃ x ∈ (fnIn .opened true).fe.cmds, x.phase = .running ∧ (x.opcode = opStgIn ∨ x.opcode = opStgOut) ∧
        ((fnIn .opened true).ctx x.ctx).fn = 255 ∧ x.result = none) := by decide +kernel

/-! ### The command front end -/

/-- Context 1023 of function 255 at index 63: an ACTIVE context of an OPEN function in virtual device 63, with a ring of 16 on each queue
that has handed out all but one of its entries, and the commands `xs`. -/
def front (k : Ctx) (f : Func) (xs : List Cmd) : State :=
  { on with fe := { on.fe with ctxs := [(1023, { k with fn := 255, loc := 63 })], fns := [(255, f)], cmds := xs }
            vd := { on.vd with vds := [(63, { present := true, slot := some 7, links := BitVec.allOnes 64 })] } }
def lastRing : Ring := { size := 16, head := 0xFFFFFFFF, tail := 0xE }
def activeCtx : Ctx :=
  { phase := .active, vd := some 63, vaSize := 0x10000, rightsMax := 7
    sq := [(0, lastRing), (1, lastRing), (2, lastRing), (3, lastRing), (4, lastRing)] }
def openFn : Func := { phase := .opened }
def running1 (q : BitVec 3) (op : BitVec 16) (body : Bytes) : State := front activeCtx openFn [cmd 1023 q 7 op body []]
def heldOne : HeldRec := { cookie := 1, status := 0, queue := 0, detail := 0, irq := true, opcode := 0, layer := 0, operator := 0 }
def fullRing : Ring := { size := 16, head := 0, tail := 16 }
def ended1 (k : Ctx) (p : FnPhase) : State :=
  front k { phase := p } [{ cmd 1023 0 7 opNop [] [] with result := some (stOk, 0) }]
/-- A fetched NOP with a cookie, and a descriptor with a reserved byte set. -/
def nopDesc : Bytes := leBytes 2 opNop.toNat ++ zeros 62
def badDesc : Bytes := leBytes 2 opNop.toNat ++ [0, 1] ++ zeros 60

theorem witness_RingsAndRecords :
    noPorts.windowOn 255 = false ∧ 5 ≤ (5 : BitVec 3).toNat ∧
    (let s := front activeCtx openFn [];
      s.windowOn 255 = true ∧ (4 : BitVec 3).toNat < 5 ∧ s.ctxAt 255 63 = some 1023 ∧
      State.tailBad (State.sqOf (s.ringsAt 255 63) 4) 0xF = false ∧ State.tailBad (State.sqOf (s.ringsAt 255 63) 4) 0x10 = true ∧
      State.tailBad (State.sqOf (s.ringsAt 255 63) 4) 0xD = true ∧
      s.ctxAt 255 0 = none ∧ State.tailBad (State.sqOf (s.ringsAt 255 0) 4) 17 = true) ∧
    (let s := front { activeCtx with heldRecs := [heldOne], cq := fullRing } openFn [];
      s.windowOn 255 = true ∧
      let u := s.setRingsAt 255 63 { s.ringsAt 255 63 with cq := { (s.ringsAt 255 63).cq with head := 1 } };
      u.ctxAt 255 63 = some 1023 ∧ (u.ctx 1023).heldRecs = [heldOne] ∧ State.ringFullC (u.ctx 1023).cq = false) ∧
    (let s := front activeCtx openFn [];
      let u := s.setRingsAt 255 63 { s.ringsAt 255 63 with cq := { (s.ringsAt 255 63).cq with head := 1 } };
      u.ctxAt 255 63 = some 1023 ∧ (u.ctx 1023).heldRecs = [] ∧
      (s.setRingsAt 255 0 { s.ringsAt 255 0 with cq := { (s.ringsAt 255 0).cq with head := 1 } }).ctxAt 255 0 = none) ∧
    noPorts.fetches 1023 = false ∧ on.freeDma = some 0 ∧ 64 < (zeros 65).length ∧
    (let s := front { activeCtx with cancelled := [(4, 0xFFFFFFFF)] } openFn [];
      s.fetches 1023 = true ∧ (Tab.get ({} : Ring) (s.ctx 1023).sq 4).head ≠ (Tab.get ({} : Ring) (s.ctx 1023).sq 4).tail ∧
      s.rollHolds 1023 4 opNop = false ∧ (4, 0xFFFFFFFF) ∈ (s.ctx 1023).cancelled ∧
      (0, 0xFFFFFFFF) ∉ (s.ctx 1023).cancelled ∧ s.fetchCheck 1023 0 nopDesc = .pass [] ∧
      s.fetchCheck 1023 0 badDesc = .fail stReserved 0 ∧ s.fetchCheck 1023 1 nopDesc = .fail stOpcode 0) ∧
    (let s := front { activeCtx with sq := [] } openFn [];
      s.fetches 1023 = true ∧ (Tab.get ({} : Ring) (s.ctx 1023).sq 4).head = (Tab.get ({} : Ring) (s.ctx 1023).sq 4).tail ∧
      s.findCmd 1023 0 7 = none) ∧
    (running1 0 opNop []).findCmd 1023 0 7 = some (cmd 1023 0 7 opNop [] []) ∧
    (let s := ended1 activeCtx .opened;
      ((s.findCmd 1023 0 7).any fun x => x.result == some (stOk, 0)) = true ∧ State.ringFullC (s.ctx 1023).cq = false ∧
      s.portOn portStaging = true ∧ (0 : BitVec 64).toNat % 4096 ≤ 4080) ∧
    (let s := ended1 { activeCtx with cq := fullRing } .opened;
      State.ringFullC (s.ctx 1023).cq = true ∧ (s.func (s.ctx 1023).fn).phase ≠ .draining) ∧
    ((ended1 { activeCtx with cq := fullRing } .draining).func 255).phase = .draining := by decide +kernel

/-- The ring index of the arbiter's example, and a share with a rate below its burst. -/
def fetchedNop : State := front activeCtx openFn [{ cmd 1023 0 7 opNop [] [] with phase := .fetched }]
def rated : State :=
  { on with fe := { on.fe with fns := [(0, { shares := [(1, { rate := 5, bucket := -3 }), (2, { rate := 5, bucket := 256 })] })] } }

theorem witness_ArbiterAndBuckets :
    (at_ .running).areaOn areaFrontEnd = false ∧ State.reset.running = false ∧
    (fetchedNop.running = true ∧ fetchedNop.areaOn areaFrontEnd = true ∧
      (match fetchedNop.fe.cmds with
        | [x] => x.phase == .fetched && x.opcode == opNop && x.queue == 0 && x.result.isNone && x.trans == [] &&
            !State.ringFullC (fetchedNop.ctx x.ctx).cq
        | _ => false) = true ∧ (fetchedNop.eng engTrust).replaying = false) ∧
    rated.running = true ∧ Tab.wf {} (rated.func 0).shares = true ∧ (rated.shareOf 0 1).rate ≠ 0 ∧
    (rated.shareOf 0 1).bucket < (rated.shareOf 0 1).burst.toNat ∧
    ((rated.shareOf 0 2).burst.toNat : Int) ≤ (rated.shareOf 0 2).bucket ∧ (rated.shareOf 0 3).rate = 0 := by decide +kernel
theorem witness_rated : rated.canonical := by
  constructor <;> first
    | decide
    | (simp only [Glb.canonical, Keys.canonical, Lanes.canonical, Mem.canonical, Fab.canonical, Fe.canonical, Vds.canonical,
        Red.canonical, Flt.canonical, Pwr.canonical, Isl.canonical, Tel.canonical]; decide)

/-- CANCEL of index `n` of queue 4, CTX_CREATE of a context under a virtual device, OBJ_MAP of a page over a link, OBJ_UNMAP. -/
def cancelBody (q : Byte) (n : Nat) : Bytes := [q, 0, 0, 0] ++ leBytes 4 n ++ zeros 40
def createBody (c : Nat) (v : Byte) : Bytes := leBytes 2 c ++ [255, 0, v, 7, 0, 0] ++ zeros 40
def mapBody (size : Nat) : Bytes :=
  zeros 8 ++ leBytes 8 size ++ zeros 8 ++ [1, 1, 0, 1, 0, 0, 0, 0, 63] ++ zeros 15
def unmapBody : Bytes := leBytes 4 (1023 * 2 ^ 22 + 3 * 2 ^ 12 + 4095) ++ zeros 44
def mapped : State :=
  let s := running1 0 opObjUnmap unmapBody
  { s with fe := { s.fe with objs := [(State.objKey 1023 4095, { live := true, reuse := 3 })] } }
def cancelling (b : Bytes) (xs : List Cmd) : State := front activeCtx openFn (cmd 1023 0 7 opCancel b [] :: xs)
def target4 : Cmd := { cmd 1023 4 9 opMemFill [] [] with phase := .ready }

theorem witness_ContextsAndObjects :
    on.runningCmd 1023 0 7 opNop = none ∧ (running1 0 opNop []).runningCmd 1023 0 7 opNop = some (cmd 1023 0 7 opNop [] []) ∧
    (∀ q ∈ [(0 : Byte), 5], let s := cancelling (cancelBody q 9) [target4];
      s.runningCmd 1023 0 7 opCancel = some (cmd 1023 0 7 opCancel (cancelBody q 9) []) ∧
      (byteAt (cancelBody q 9) 0 = 0 ∨ 4 < (byteAt (cancelBody q 9) 0).toNat)) ∧
    (let s := cancelling (cancelBody 4 9) [target4];
      byteAt (cancelBody 4 9) 0 ≠ 0 ∧ (byteAt (cancelBody 4 9) 0).toNat ≤ 4 ∧ s.findCmd 1023 4 9 = some target4 ∧
      target4.result = none ∧ target4.phase ≠ .running) ∧
    ((cancelling (cancelBody 4 9) [{ target4 with result := some (stOk, 0) }]).findCmd 1023 4 9 =
      some { target4 with result := some (stOk, 0) }) ∧
    (let s := cancelling (cancelBody 4 0xD) [];
      s.findCmd 1023 4 0xD = none ∧ ((0xD : Word) - lastRing.head).toNat < (lastRing.tail - lastRing.head).toNat ∧
      Tab.get ({} : Ring) (s.ctx 1023).sq 4 = lastRing ∧
      (lastRing.tail - lastRing.head).toNat ≤ ((0xE : Word) - lastRing.head).toNat) ∧
    (let s := running1 0 opCtxCreate (createBody 0 63);
      (s.runningCmd 1023 0 7 opCtxCreate).isSome = true ∧ leBv 10 (slice (createBody 0 63) 0 2) = 0) ∧
    (let s := running1 0 opCtxCreate (createBody 1 63);
      (s.runningCmd 1023 0 7 opCtxCreate).isSome = true ∧ (s.ctx 1023).phase ≠ .free ∧
      leBv 10 (slice (createBody 1 63) 0 2) = 1 ∧ (s.ctx 1).phase = .free ∧
      s.ctxAt (byteAt (createBody 1 63) 2) ((byteAt (createBody 1 63) 3).setWidth 6) = none ∧
      (byteAt (createBody 1 63) 4).toNat < 64 ∧ (s.vdev 63).present = true ∧ (s.vdev 62).present = false ∧
      64 ≤ (byteAt (createBody 1 64) 4).toNat) ∧
    (let s := running1 0 opCtxDestroy (leBytes 2 1023 ++ zeros 46);
      (s.runningCmd 1023 0 7 opCtxDestroy).isSome = true ∧ (s.ctx 1023).phase ≠ .free ∧ (s.ctx 1).phase = .free ∧
      leBv 10 (slice (leBytes 2 1023 ++ zeros 46) 0 2) = (1023 : CtxId)) ∧
    (let s := running1 0 opObjMap (mapBody 0x10000);
      (s.runningCmd 1023 0 7 opObjMap).isSome = true ∧ s.objMapCheck 1023 (mapBody 0x10000) = none ∧
      s.objMapCheck 1023 (mapBody 0x10001) = some stLengthRange) ∧
    ((mapped.runningCmd 1023 0 7 opObjUnmap).any fun x => x.trans == []) = true ∧ (mapped.obj 1023 4095).live = true ∧
    (leBv 32 (slice unmapBody 0 4) : Word).extractLsb' 22 10 = 1023 ∧
    (leBv 32 (slice unmapBody 0 4) : Word).extractLsb' 12 10 = (mapped.obj 1023 4095).reuse ∧
    mapped.namedRunning 1023 4095 3 = false ∧ ((running1 0 opObjUnmap unmapBody).obj 1023 4095).live = false ∧
    noPorts.windowOn 255 = false ∧
    (let s := front { activeCtx with phase := .faulted } openFn [];
      s.windowOn 255 = true ∧ s.ctxAt 255 63 = some 1023 ∧ (s.ctx 1023).phase = .faulted ∧
      (s.ctx 1023).cause ≠ causeStallGuilty ∧ s.replayHolds 1023 = false ∧ s.ctxAt 255 62 = none) ∧
    ((front { activeCtx with phase := .faulted, cause := causeStallGuilty } openFn []).ctx 1023).cause = causeStallGuilty := by
  decide +kernel

/-! ### Engines and staging -/

/-- A line on a ready channel that nothing holds is read when the controller's answer opens under the key. -/
theorem read_now (s : State) (m : Master) (i : KeyIdx) (d : Dpa) (k : Bytes) (p : Line) (rsp : McRsp)
    (r0 : rsp.status = 0) (r1 : rsp.rside.extractLsb' 28 4 = i) (hp : openLine k (lineDpa d) rsp.rdata rsp.rside = some p)
    (h1 : (s.memRefusal m i d false).isNone = true) (h2 : s.fencedOn d = []) (h3 : s.lineBusy d = false)
    (h4 : s.mcReady (dpaChan d) = true) (id : BitVec 6) (h5 : s.freeMcId (dpaChan d) (dpaSub d) = some id)
    (h6 : (s.memIdx i).sweeping = false) (h7 : s.memKey i false = some k) (h8 : s.mem.waits = []) :
    s.readNow m i d rsp =
      ((((s.progress (dpaChan d).toNat).count 5 1).out (.mcReq (dpaChan d) (dpaSub d) id false (dpaLine d) 0 0)).activity
        (masterCtx m) State.lineActivity, .done p) := by
  have e1 : s.memRefusal m i d false = none := by simpa using h1
  unfold State.readNow
  simp only [e1, h2, h5, h8]
  have tk : ∀ u : State, u.mem = s.mem → u.keys = s.keys → u.trialKeys i d = [k] := by
    intro u a b
    have c1 : u.memIdx i = s.memIdx i := by simp [State.memIdx, a]
    have c2 : u.memKey i false = s.memKey i false := by
      simp [State.memKey, State.keyUsable, State.keyBytes, State.row, b]
    simp [State.trialKeys, c1, c2, h6, h7]
  cases hm : masterCtx m <;>
    simp only [List.isEmpty_nil, List.all_nil, List.any_nil, h3, h4, Bool.not_true, Bool.or_self, Bool.false_eq_true, if_false,
      List.flatMap_nil, List.eraseDups_nil, List.foldl_nil, List.map_nil] <;>
    rw [tk (((s.progress (dpaChan d).toNat).count 5 1).out (.mcReq (dpaChan d) (dpaSub d) id false (dpaLine d) 0 0)) rfl rfl] <;>
    unfold State.openRsp <;> simp [r0, r1, hp, hm, State.mergeAll]

theorem line_read (s : State) (m : Master) (x : Cmd) (idx : Nat) (t : Trans) (i : Nat) (k : Bytes) (p : Line) (rsp : McRsp)
    (rest : List McRsp) (h0 : t.fabric = false) (d : Dpa) (hd : d = BitVec.ofNat 43 (64 * transLine t i))
    (r0 : rsp.status = 0) (r1 : rsp.rside.extractLsb' 28 4 = t.key) (hp : openLine k (lineDpa d) rsp.rdata rsp.rside = some p)
    (h1 : (s.memRefusal m t.key d false).isNone = true) (h2 : s.fencedOn d = []) (h3 : s.lineBusy d = false)
    (h4 : s.mcReady (dpaChan d) = true) (id : BitVec 6) (h5 : s.freeMcId (dpaChan d) (dpaSub d) = some id)
    (h6 : (s.memIdx t.key).sweeping = false) (h7 : s.memKey t.key false = some k) (h8 : s.mem.waits = []) :
    s.getLine m x idx t i (rsp :: rest) =
      ((((s.progress (dpaChan d).toNat).count 5 1).out (.mcReq (dpaChan d) (dpaSub d) id false (dpaLine d) 0 0)).activity
        (masterCtx m) State.lineActivity, .ok p rest) := by
  unfold State.getLine
  rw [if_neg (by simp [h0])]
  simp only [← hd, read_now s m t.key d k p rsp r0 r1 hp h1 h2 h3 h4 id h5 h6 h7 h8]

/-- A whole line is taken by the memory cluster where it is not refused. -/
theorem line_written (s : State) (m : Master) (x : Cmd) (idx : Nat) (t : Trans) (i : Nat) (p : Line)
    (rest : List McRsp) (h0 : t.fabric = false) (d : Dpa) (hd : d = BitVec.ofNat 43 (64 * transLine t i))
    (h1 : (s.memRefusal m t.key d true).isNone = true) :
    ∃ v, s.putLine m x idx t i (BitVec.allOnes 64) p rest = (v, .ok () rest) := by
  have e1 : s.memRefusal m t.key d true = none := by simpa using h1
  unfold State.putLine
  rw [if_neg (by simp [h0])]
  simp only [← hd, State.memPut, e1]
  exact ⟨_, rfl⟩

/-- A line of DPA lowLine that context 0 names under key index 3, and a range of no bytes there. -/
def lineT : Trans :=
  { ctx := 0, num := 0, reuse := 0, target := BitVec.ofNat 64 (31 * 2 ^ 38), key := 3, rights := 7, gen := 0, len := 64
    fabric := false, links := [] }
def noBytes : Trans := { lineT with len := 0 }
/-- A copy, an encryption, a decryption, a GHASH, a program load, and the staging commands, over such ranges. -/
def lineRow : Fin 7 → BitVec 3 × BitVec 16 × List Trans
  | 0 => (4, opMemCopy, [lineT, lineT])
  | 1 => (3, opCsEnc, [lineT, noBytes, noBytes])
  | 2 => (3, opCsDec, [lineT, noBytes, noBytes])
  | 3 => (3, opCsGhash, [noBytes, noBytes, lineT, noBytes])
  | 4 => (2, opProgLoad, [lineT])
  | 5 => (4, opStgIn, [lineT])
  | 6 => (4, opStgOut, [lineT])
/-- Bodies that only the staging commands read: one row of 64 bytes. -/
def lineBody : Bytes := zeros 16 ++ leBytes 4 1 ++ leBytes 4 64 ++ zeros 24
def lineCmd (n : Fin 7) : Cmd := { cmd 0 (lineRow n).1 7 (lineRow n).2.1 lineBody (lineRow n).2.2 with asked := true }
def engineRun (n : Fin 7) : State := { sealing with fe := { sealing.fe with cmds := [lineCmd n] } }
/-- The state after a line of it was read. -/
def afterRead (s : State) (m : Master) : State :=
  (((s.progress 31).count 5 1).out (.mcReq 31 0 0 false (dpaLine lowLine) 0 0)).activity (masterCtx m) State.lineActivity

theorem engineRun_ready (n : Fin 7) :
    (((engineRun n).memRefusal (.ctx 0) 3 lowLine false).isNone = true ∧ (engineRun n).fencedOn lowLine = [] ∧
      (engineRun n).lineBusy lowLine = false ∧ (engineRun n).mcReady (dpaChan lowLine) = true ∧
      (engineRun n).freeMcId (dpaChan lowLine) (dpaSub lowLine) = some 0 ∧ ((engineRun n).memIdx 3).sweeping = false ∧
      ((engineRun n).memKey 3 false).isSome = true ∧ (engineRun n).mem.waits = []) := by
  revert n; decide +kernel

theorem read_lineT (n : Fin 7) (idx : Nat) (rest : List McRsp) :
    ∃ rsp p, (engineRun n).getLine (.ctx 0) (lineCmd n) idx lineT 0 (rsp :: rest) =
      (afterRead (engineRun n) (.ctx 0), .ok p rest) := by
  obtain ⟨h1, h2, h3, h4, h5, h6, h7, h8⟩ := engineRun_ready n
  obtain ⟨k, h7⟩ := Option.isSome_iff_exists.mp h7
  obtain ⟨rsp, p, r0, r1, hp⟩ := (witness_answers k 3 (lineDpa lowLine)).1
  exact ⟨rsp, p, line_read (engineRun n) (.ctx 0) (lineCmd n) idx lineT 0 k p rsp rest rfl lowLine (by decide) r0 r1 hp
    h1 h2 h3 h4 0 h5 h6 h7 h8⟩

theorem range_lineT (n : Fin 7) (idx : Nat) (rest : List McRsp) :
    ∃ rsp bs, (engineRun n).getRange (.ctx 0) (lineCmd n) idx lineT (rsp :: rest) =
      (afterRead (engineRun n) (.ctx 0), .ok bs rest) := by
  obtain ⟨rsp, p, h⟩ := read_lineT n idx rest
  exact ⟨rsp, slice (lineBytes p ++ []) (lineT.target.toNat % 64) lineT.len, by
    unfold State.getRange
    rw [show transLines lineT = 1 from by decide]
    simp only [State.getLines, h]⟩

/-- A range of no bytes is read and written at once. -/
theorem range_noBytes (s : State) (m : Master) (x : Cmd) (idx : Nat) (bs : Bytes) (rsps : List McRsp) :
    s.getRange m x idx noBytes rsps = (s, .ok [] rsps) ∧ s.putRange m x idx noBytes bs rsps = (s, .ok () rsps) := by
  constructor
  · unfold State.getRange
    rw [show transLines noBytes = 0 from by decide]
    rfl
  · unfold State.putRange
    rw [show transLines noBytes = 0 from by decide]
    rfl


theorem witness_copy : ∃ rsps u, (engineRun 0).copyLines (lineCmd 0) lineT lineT (transLines lineT) 0 rsps = (u, .ok () []) := by
  obtain ⟨rsp, p, h⟩ := read_lineT 0 1 []
  have c : ((afterRead (engineRun 0) (.ctx 0)).memRefusal (.ctx 0) 3 lowLine true).isNone = true := by decide +kernel
  obtain ⟨v, w⟩ := line_written (afterRead (engineRun 0) (.ctx 0)) (.ctx 0) (lineCmd 0) 0 lineT 0 p [] rfl lowLine (by decide) c
  refine ⟨[rsp], v.progress engFill, ?_⟩
  rw [show transLines lineT = 1 from by decide]
  show (engineRun 0).copyLines (lineCmd 0) lineT lineT (0 + 1) 0 [rsp] = _
  unfold State.copyLines
  simp only [show (lineCmd 0).ctx = 0 from rfl, h, w, State.copyLines]

/-- A cipher row whose key comes from memory, and a GHASH row whose start value does. -/
theorem witness_cipher (n : Fin 7) : ∃ rsps u kb, (engineRun n).getRange (.ctx 0) (lineCmd n) 2 lineT rsps = (u, .ok kb []) ∧
    u.getRange (.ctx 0) (lineCmd n) 0 noBytes [] = (u, .ok [] []) ∧
    u.getRange (.ctx 0) (lineCmd n) 1 noBytes [] = (u, .ok [] []) ∧
    ∀ (v : State) bs, v.putRange (.ctx 0) (lineCmd n) 1 noBytes bs [] = (v, .ok () []) ∧
      v.putRange (.ctx 0) (lineCmd n) 3 noBytes bs [] = (v, .ok () []) := by
  obtain ⟨rsp, bs, h⟩ := range_lineT n 2 []
  exact ⟨[rsp], _, bs, h, (range_noBytes _ _ _ _ [] _).1, (range_noBytes _ _ _ _ [] _).1,
    fun v bs => ⟨(range_noBytes v _ _ _ bs _).2, (range_noBytes v _ _ _ bs _).2⟩⟩

def ghashRun (gone : Bool) : State :=
  { engineRun 3 with lanes := { on.lanes with clusters := [(State.clusterKey .svc, { ghashRetired := gone })] } }
def fillRun (key : KeyIdx) (body : Bytes) (x : Cmd → Cmd) : State :=
  { sealing with fe := { sealing.fe with cmds := [x (cmd 0 4 7 opMemFill body [{ lineT with key := key }])] } }

theorem witness_EngineCommands :
    on.runningCmd 0 4 7 opMemFill = none ∧
    (∀ n : Fin 7, (engineRun n).runningCmd 0 (lineRow n).1 7 (lineRow n).2.1 = some (lineCmd n) ∧ (lineCmd n).issued = false ∧
      (lineCmd n).cancel = false ∧ (lineCmd n).trans = (lineRow n).2.2) ∧
    (let s := fillRun 3 [] fun x => { x with issued := true };
      ((s.runningCmd 0 4 7 opMemFill).any fun x => x.issued && !s.cmdOpen x) = true ∧ s.links = [] ∧ s.mem.ends = [] ∧
      s.progsInUse = []) ∧
    (engineRun 3).ghashGone = false ∧ (ghashRun true).ghashGone = true ∧
    (ghashRun true).runningCmd 0 3 7 opCsGhash = some (lineCmd 3) ∧
    ((fillRun 3 [] fun x => { x with cancel := true }).runningCmd 0 4 7 opMemFill).any (fun x => !x.issued && x.cancel) = true ∧
    (let s := fillRun 3 [] id;
      ((s.runningCmd 0 4 7 opMemFill).any fun x => !x.issued && !x.cancel && x.trans == [lineT]) = true ∧
      transLines lineT = 1 ∧ (BitVec.ofNat 43 (64 * transLine lineT 0) : Dpa) = lowLine ∧
      (s.memRefusal (.ctx 0) 3 lowLine true).isNone = true ∧ (s.memIdx 3).futureHeld = false ∧ (s.memIdx 3).urgent = false ∧
      s.lineBusy lowLine = false ∧ s.mcReady (dpaChan lowLine) = true ∧ s.fencedOn lowLine = [] ∧ s.ctxRefs 0 = [] ∧
      s.freeMcId (dpaChan lowLine) (dpaSub lowLine) = some 0 ∧ (s.writeKeyOf 3).isSome = true ∧ s.mem.waits = [] ∧
      (match (s.fillLines (cmd 0 4 7 opMemFill [] [lineT]) lineT 0 (transLines lineT) 0).2 with
        | .ok () _ => true
        | _ => false) = true) ∧
    (match ((fillRun 4 [] id).fillLines (cmd 0 4 7 opMemFill [] [{ lineT with key := 4 }]) { lineT with key := 4 } 0 1 0).2 with
      | .failed st a => st == stKeyScope && !a
      | _ => false) = true := by decide +kernel

/-! STG_REKEY of direction 1 to generation 1, and a chunk each way. -/

def rekeyBody (dir : Byte) (gen : Nat) : Bytes := [dir, 0, 0, 0] ++ leBytes 4 gen ++ sealing.stageKc 0 1 1 ++ zeros 24
def rekeyRun (z : Sess) (x : Cmd → Cmd) (xs : List Cmd) : State :=
  { sealing with fe := { sealing.fe with cmds := x (cmd 0 1 7 opStgRekey (rekeyBody 1 1) []) :: xs, fns := [(0, { sess := z })] }
                 keys := { sealing.keys with rows := keyedRows ++ [(State.rowSss 0, { valid := true })] } }
def rollingOut : Sess := { opened := true, rekeyOut := some { ctx := 9, k := 9, gen := 1 } }
def bound1 : Cmd := cmd 0 4 9 opStgOut [] []

theorem witness_rekey_kc : slice (rekeyBody 1 1) 8 16 = sealing.stageKc 0 1 1 := by decide +kernel
theorem witness_rekey :
    on.runningCmd 0 1 7 opStgRekey = none ∧
    (let s := rekeyRun {} (fun x => { x with cancel := true }) [];
      ((s.runningCmd 0 1 7 opStgRekey).any fun x => x.cancel && x.body == rekeyBody 1 1) = true ∧ (s.sessOf 0).rekeyOut = none) ∧
    (let s := rekeyRun {} id [];
      ((s.runningCmd 0 1 7 opStgRekey).any fun x => !x.cancel) = true ∧ (s.sessOf 0).opened = false ∧
      s.keyUsable (State.rowSss 0) = true ∧ sealing.keyUsable (State.rowSss 0) = false) ∧
    (let s := rekeyRun rollingOut id [];
      ((s.runningCmd 0 1 7 opStgRekey).any fun x => !x.cancel) = true ∧ (s.sessOf 0).opened = true ∧
      (byteAt (rekeyBody 1 1) 0).toNat % 2 ≠ 0 ∧ (s.sessOf 0).rekeyOut = some { ctx := 9, k := 9, gen := 1 }) ∧
    (let s := rekeyRun { opened := true } id [];
      (leBv 32 (slice (rekeyBody 1 1) 4 4) : BitVec 32) = (s.row (State.rowStage 0 1)).gen + 1 ∧
      (leBv 32 (slice (rekeyBody 1 2) 4 4) : BitVec 32) ≠ (s.row (State.rowStage 0 1)).gen + 1 ∧
      (s.sessOf 0).rekeyIn = none ∧ (s.sessOf 0).rekeyOut = none ∧ s.dirBusy 0 1 = false ∧
      (s.row (State.rowStage 0 1)).outOfUse = false) ∧
    (rekeyRun { opened := true } id [bound1]).dirBusy 0 1 = true := by decide +kernel
theorem witness_rekey_same (z : Sess) (x : Cmd → Cmd) (xs : List Cmd) : (rekeyRun z x xs).stageKc 0 1 1 = sealing.stageKc 0 1 1 :=
  rfl

def lineData (t : Bytes) : DmaData := { status := 0, data := zeros 64 ++ t }
theorem line_data (t : Bytes) (h : t.length = 16) :
    slice (lineData t).data 64 16 = t ∧ (lineData t).data.take 64 = zeros 64 ∧ (lineData t).data.length = 64 + 16 := by
  obtain ⟨a, rfl⟩ : ∃ a : List Byte, t = a := ⟨t, rfl⟩
  match t, h with
  | [_, _, _, _, _, _, _, _, _, _, _, _, _, _, _, _], _ => exact ⟨rfl, rfl, rfl⟩

/-- The tag of the chunk of zeros. -/
def zeroTag : Bytes :=
  gcmTag (State.stgKey (lineCmd 5)) (State.chunkIv (lineCmd 5) 0) (State.stgAad (lineCmd 5) 0 0) (zeros 64)
theorem zero_tag_length : zeroTag.length = 16 := by decide +kernel

theorem witness_stgIn :
    (lineCmd 5).asked = true ∧ (engineRun 5).portOn portStaging = true ∧ stgChunks lineBody = 1 ∧ State.chunkLen lineBody 0 = 64 ∧
    (∀ d, (engineRun 5).ctxSlot 0 = some d → (engineRun 5).isFragment d = false) ∧
    (match ((engineRun 5).dmaForget (lineCmd 5)).putPieces (lineCmd 5) lineT
        (State.tilePieces lineT.target.toNat lineBody 64 0 64) (gcmOpen [] [] (zeros 64)) false [] with
      | (_, _, .ok () _) => true
      | _ => false) = true := by decide +kernel
/-- One answer of the host carries the tag, another does not. -/
theorem witness_stgIn_tag :
    (∃ d : DmaData, d.status = 0 ∧ d.data.length = 64 + 16 ∧ d.data.take 64 = zeros 64 ∧ zeroTag = slice d.data 64 16) ∧
    ∃ d : DmaData, d.status = 0 ∧ d.data.length = 64 + 16 ∧ d.data.take 64 = zeros 64 ∧ zeroTag ≠ slice d.data 64 16 := by
  obtain ⟨a, b, c⟩ := line_data _ zero_tag_length
  refine ⟨⟨lineData zeroTag, rfl, c, b, a.symm⟩, ?_⟩
  by_cases h : zeroTag = zeros 16
  · exact ⟨lineData (1 :: zeros 15), rfl, rfl, rfl, by rw [(line_data _ rfl).1, h]; decide⟩
  · exact ⟨lineData (zeros 16), rfl, rfl, rfl, by rw [(line_data _ rfl).1]; exact h⟩

theorem witness_stgOut : (engineRun 6).ctxRefs 0 = [] ∧ ∃ rsps u bs, (engineRun 6).getPieces (lineCmd 6) lineT
    (State.tilePieces lineT.target.toNat lineBody 64 0 64) rsps = (u, .ok bs []) := by
  have c : ((engineRun 6).memRefusal (.staging 0) 3 lowLine false).isNone = true ∧
      State.tilePieces lineT.target.toNat lineBody 64 0 64 = [(31 * 2 ^ 38, 64)] ∧ BitVec.ofNat 43 (31 * 2 ^ 38) = lowLine ∧
      (engineRun 6).ctxRefs 0 = [] := by
    decide +kernel
  obtain ⟨c1, c8, c9, c10⟩ := c
  obtain ⟨-, h2, h3, h4, h5, h6, h7, h8⟩ := engineRun_ready 6
  obtain ⟨k, h7⟩ := Option.isSome_iff_exists.mp h7
  obtain ⟨rsp, p, r0, r1, hp⟩ := (witness_answers k 3 (lineDpa lowLine)).1
  have h := line_read (engineRun 6) (.staging 0) (lineCmd 6) 0 { lineT with target := BitVec.ofNat 64 (31 * 2 ^ 38), len := 64 } 0 k
    p rsp [] rfl lowLine (by decide) r0 r1 hp c1 h2 h3 h4 0 h5 h6 h7 h8
  refine ⟨c10, [rsp], ?_⟩
  rw [c8]
  simp only [State.getPieces, c9, h2, show (lineCmd 6).ctx = 0 from rfl, h, List.isEmpty_nil, Bool.not_true, Bool.false_eq_true,
    if_false]
  exact ⟨_, _, rfl⟩

def staged (x : Cmd → Cmd) (s : State) : State := { s with fe := { s.fe with cmds := [x (lineCmd 5)] } }
theorem witness_StagingCommands :
    on.runningCmd 0 4 7 opStgIn = none ∧
    (let s := staged (fun x => { x with issued := true }) sealing;
      ((s.runningCmd 0 4 7 opStgIn).any fun x => x.issued && !s.cmdOpen x) = true ∧ s.links = [] ∧ s.mem.ends = [] ∧
      s.progsInUse = []) ∧
    ((staged (fun x => { x with cancel := true }) sealing).runningCmd 0 4 7 opStgIn).any (fun x => x.cancel) = true ∧
    (let s := staged id { sealing with doms := [(1, { phase := .fragment })] };
      ((s.runningCmd 0 4 7 opStgIn).any fun x => !x.cancel) = true ∧ ∃ d ∈ State.slots, s.ctxSlot 0 = some d ∧ s.isFragment d = true) ∧
    (let s := staged id { sealing with clk := { sealing.clk with enPort := 0 } };
      ((s.runningCmd 0 4 7 opStgIn).any fun x => !x.cancel) = true ∧ s.portOn portStaging = false ∧
      ∀ d, s.ctxSlot 0 = some d → s.isFragment d = false) := by decide +kernel

/-! ### Reduction -/

/-- Virtual device 1 of slot 1 has the program slots and the links, the slot its member secret and its DCS. -/
def reducing (g : Prog) (x : Cmd) : State :=
  { sealing with
    vd := { on.vd with vds := [(1, { present := true, slot := some 1, progs := BitVec.allOnes 256, links := BitVec.allOnes 64 })] }
    keys := { on.keys with
      rows := [(State.rowDcs 1, { valid := true }), (State.rowMember 1, { valid := true })] ++
        keyedRows.map fun e => (e.1, { e.2 with tail := State.tailOf e.1 e.2.material }) }
    red := { on.red with progs := if g.phase = .free then [] else [(255, g)] }
    fe := { sealing.fe with cmds := [x] } }
/-- One COMBINE stage of 32 elements from the src buffer to the dst buffer. -/
def descHeader : Bytes := zeros 8 ++ leBytes 6 32 ++ zeros 10 ++ [1, 1] ++ zeros 38
def descStage : Bytes :=
  zeros 21 ++ leBytes 5 32 ++ [kindCombine.setWidth 8 + 12 + emitOutput.setWidth 8 * 16, 0xFF] ++ zeros 36
def oneDesc : ProgDesc := parseDesc (descHeader ++ descStage)
def descT : Trans := { lineT with len := 100 }
def loadCmd : Cmd := cmd 0 2 7 opProgLoad ([255, 0, 0, 0] ++ zeros 44) [descT]
def loading : State := reducing {} loadCmd
def afterHeader : State := afterRead loading (.ctx 0)

def afterMore : State :=
  (((afterHeader.progress 31).count 5 1).out (.mcReq 31 1 0 false (dpaLine (lowLine + 64)) 0 0)).activity (some 0)
    State.lineActivity

theorem loading_ready :
    ((loading.memRefusal (.ctx 0) 3 lowLine false).isNone = true ∧ loading.fencedOn lowLine = [] ∧
      loading.lineBusy lowLine = false ∧ loading.mcReady (dpaChan lowLine) = true ∧
      loading.freeMcId (dpaChan lowLine) (dpaSub lowLine) = some 0 ∧ (loading.memIdx 3).sweeping = false ∧
      loading.mem.waits = []) ∧
    ((afterHeader.memRefusal (.ctx 0) 3 (lowLine + 64) false).isNone = true ∧ afterHeader.fencedOn (lowLine + 64) = [] ∧
      afterHeader.lineBusy (lowLine + 64) = false ∧ afterHeader.mcReady (dpaChan (lowLine + 64)) = true ∧
      afterHeader.freeMcId (dpaChan (lowLine + 64)) (dpaSub (lowLine + 64)) = some 0 ∧
      (afterHeader.memIdx 3).sweeping = false ∧ afterHeader.mem.waits = []) := by decide +kernel
/-- The memory key of it, with its last round keys beside it. -/
theorem loading_key : ∃ k, loading.memKey 3 false = some k ∧ afterHeader.memKey 3 false = some k ∧ 32 ≤ k.length ∧
    slice k 128 32 = tailKeys (slice k 0 32) := by
  have h : (loading.memKey 3 false).any (fun k => afterHeader.memKey 3 false == some k && decide (32 ≤ k.length) &&
      slice k 128 32 == tailKeys (slice k 0 32)) = true := by decide +kernel
  cases e : loading.memKey 3 false with
  | none => rw [e] at h; exact absurd h (by simp)
  | some k =>
    rw [e] at h
    simp only [Option.any_some, Bool.and_eq_true, decide_eq_true_eq, beq_iff_eq] at h
    exact ⟨k, rfl, h.1.1, h.1.2, h.2⟩
theorem sealed_index (k : Bytes) (i : KeyIdx) (d : Dpa) (p : Line) : (sealLine k i d p).2.extractLsb' 28 4 = i :=
  (openLine_own k i d 0).2.2 _

/-- The reads of PROG_LOAD: header, the rest, the header's line again; any two lines come back with the right answers. -/
theorem witness_load_reads (p q : Line) : ∃ rsps r1, loading.getRange (.ctx 0) loadCmd 0 { descT with len := 64 } rsps =
      (afterHeader, .ok (slice (lineBytes p ++ []) (descT.target.toNat % 64) 64) r1) ∧
    afterHeader.getLines (.ctx 0) loadCmd 0 descT 1 1 r1 = (afterMore, .ok (lineBytes q ++ []) []) ∧
    loading.getLines (.ctx 0) loadCmd 0 descT 1 0 rsps = (afterHeader, .ok (lineBytes p ++ []) r1) := by
  obtain ⟨⟨a1, a2, a3, a4, a5, a6, a8⟩, b1, b2, b3, b4, b5, b6, b8⟩ := loading_ready
  obtain ⟨k, a7, b7, hk, ht⟩ := loading_key
  let r1 : McRsp := ⟨0, (sealLine k 3 (lineDpa (lowLine + 64)) q).1, (sealLine k 3 (lineDpa (lowLine + 64)) q).2⟩
  let r0 : McRsp := ⟨0, (sealLine k 3 (lineDpa lowLine) p).1, (sealLine k 3 (lineDpa lowLine) p).2⟩
  have h1 := line_read afterHeader (.ctx 0) loadCmd 0 descT 1 k q r1 [] rfl (lowLine + 64)
    (by decide) rfl (sealed_index _ _ _ _) (openLine_sealLine k 3 _ q hk ht) b1 b2 b3 b4 0 b5 b6 b7 b8
  have h0 := line_read loading (.ctx 0) loadCmd 0 descT 0 k p r0 [r1] rfl lowLine
    (by decide) rfl (sealed_index _ _ _ _) (openLine_sealLine k 3 _ p hk ht) a1 a2 a3 a4 0 a5 a6 a7 a8
  have h0' : loading.getLine (.ctx 0) loadCmd 0 { descT with len := 64 } 0 [r0, r1] = (afterHeader, .ok p [r1]) := h0
  have h1' : afterHeader.getLine (.ctx 0) loadCmd 0 descT 1 [r1] = (afterMore, .ok q []) := h1
  have h0'' : loading.getLine (.ctx 0) loadCmd 0 descT 0 [r0, r1] = (afterHeader, .ok p [r1]) := h0
  refine ⟨[r0, r1], [r1], ?_, ?_, ?_⟩
  · unfold State.getRange
    rw [show transLines { descT with len := 64 } = 1 from by decide]
    simp only [State.getLines, h0']
  · simp only [State.getLines, h1']
  · simp only [State.getLines, h0'']

/-- The lines the descriptor lies in. -/
theorem witness_load_lines : slice (lineBytes (bytesLine descHeader) ++ []) (descT.target.toNat % 64) 64 = descHeader ∧
    lineBytes (bytesLine (descStage ++ [])) = descStage ∧ (slice (descHeader ++ descStage) 0 100) = (descHeader ++ descStage).take 100 ∧
    1 ≤ descStages descHeader ∧ descStages descHeader ≤ 32 ∧ transLines descT - (State.linesOf descT.target 64).2 = 1 ∧
    descT.target.toNat % 64 = 0 ∧ 64 + 36 * descStages descHeader = 100 ∧
    descCheck ((descHeader ++ descStage).take 100) oneDesc (loading.vdev (((loading.ctx 0).vd).getD 0)).links = none ∧
    descCheck ((descHeader ++ zeros 64).take 100) (parseDesc (descHeader ++ zeros 64)) (BitVec.allOnes 64) = some stLengthZero := by
  decide +kernel

theorem witness_ProgLoad :
    on.runningCmd 0 2 7 opProgLoad = none ∧ loading.runningCmd 0 2 7 opProgLoad = some loadCmd ∧ loadCmd.cancel = false ∧
    byteAt loadCmd.body 0 = 255 ∧ loading.progMine 0 255 = true ∧ (loading.prog 255).phase = .free ∧
    loading.progMine 1 255 = false ∧
    ((reducing {} { loadCmd with cancel := true }).runningCmd 0 2 7 opProgLoad).any (fun x => x.cancel) = true ∧
    ((reducing {} { loadCmd with trans := [] }).runningCmd 0 2 7 opProgLoad).any (fun x => x.trans == []) = true ∧
    loading.descExtent loadCmd { descT with len := 63 } 64 = some stLengthRange ∧ loading.descExtent loadCmd descT 64 = none ∧
    loading.rangeFenced descT 64 = false ∧ loading.descExtent loadCmd descT 100 = none ∧ loading.rangeFenced descT 100 = false ∧
    oneDesc.units ≤ afterMore.red.unitsFree.toNat ∧ (afterMore.ctx 0).vd = some 1 ∧ afterMore.ctxSlot 0 = some 1 ∧
    afterMore.hasMember 1 = true ∧ afterMore.keyUsable (State.rowDcs 1) = true ∧
    (afterMore.row (State.rowProg 255)).outOfUse = false ∧ 0 < oneDesc.units := by
  decide +kernel

/-- A program of an empty list of stages, which reads and writes no buffer, and its PROG_GO of iteration 0. -/
def bareDesc : ProgDesc := { oneDesc with stages := [] }
def bareProg : Prog := { phase := .loaded, ctx := 0, vd := 1, slot := 1, desc := some bareDesc }
def goCmd (x : Nat) : Cmd := cmd 0 2 7 opProgGo ([255, 0, 0, 0] ++ leBytes 4 x ++ zeros 40) []
def linked : ProgDesc := { bareDesc with stages := [{ inLinks := 1, outLinks := 0, elemBase := 0, elemCount := 32, kind := 0, localIn := false,
                                                      localOut := false, emit := 0, inStage := 0, outStage := 0, rstage := 0 }] }
def iter0 : Iter := { num := 1, go := none, stages := [] }

theorem witness_ProgGo :
    on.runningCmd 0 2 7 opProgGo = none ∧
    (let s := reducing { phase := .ended } (goCmd 0);
      s.runningCmd 0 2 7 opProgGo = some (goCmd 0) ∧ s.iterOf 255 0 = none ∧ (s.prog 255).desc = none) ∧
    (let s := reducing { bareProg with phase := .ended } (goCmd 0);
      (s.prog 255).desc = some bareDesc ∧ s.progMine 0 255 = true ∧ (s.prog 255).phase ≠ .loaded ∧ (s.prog 255).phase ≠ .running) ∧
    (let s := reducing bareProg (goCmd 0);
      s.progMine 0 255 = true ∧ (s.prog 255).phase = .loaded ∧ s.goCheck (goCmd 0) 255 bareDesc = none ∧
      s.goCheck (goCmd 1) 255 bareDesc = some (stIteration, 0) ∧
      ((s.prog 255).faultedAhead.find? fun e => e.1 == 0) = none ∧ (s.prog 255).iters.length < bareDesc.depth ∧
      (s.prog 255).low ≤ 0 ∧ (s.prog 255).endedAhead.contains 0 = false ∧
      State.readsSrc bareDesc = false ∧ (goCmd 0).cancel = false ∧ s.linksAgreed 255 bareDesc = true ∧
      (State.goTrans (goCmd 0)).1 = none ∧ leAt (goCmd 0).body 4 4 = 0 ∧ byteAt (goCmd 0).body 0 = 255) ∧
    (let s := reducing { bareProg with desc := some linked } (goCmd 0);
      s.linksAgreed 255 linked = false ∧ s.goCheck (goCmd 0) 255 linked = none ∧ State.readsSrc linked = false) ∧
    (let s := reducing { bareProg with iters := [iter0] } (goCmd 0);
      s.iterOf 255 0 = none ∧ bareDesc.depth ≤ (s.prog 255).iters.length) ∧
    (let s := reducing { bareProg with faultedAhead := [(0, stProgFault)] } (goCmd 0);
      ((s.prog 255).faultedAhead.find? fun e => e.1 == 0) = some (0, stProgFault) ∧ s.goCheck (goCmd 0) 255 bareDesc = none ∧
      s.progMine 0 255 = true) := by decide +kernel

def unloadCmd (cancel : Bool) : Cmd := { cmd 0 2 7 opProgUnload ([255, 0, 0, 0] ++ zeros 44) [] with cancel := cancel }
/-- A REDUCE group of iteration `it` for program slot 255. -/
def contrib (it : Byte) : RxHeld :=
  { stamp := 0, cls := 2, seq := 0, header := groupHeader 3 255 1 2 destReduce kindSealed 0 2 9 0, payload := zeros 7 ++ [it] ++ [0] }
def taking (g : Prog) (h : RxHeld) : State := { reducing g (goCmd 0) with links := [(63, { io := { held := [h] } })] }
def heldAt (s : State) : Option RxHeld :=
  (s.link 63).io.held.find? fun h => hdrDest h.header == destReduce && hdrKind h.header == kindSealed && h.cls == 2

theorem witness_UnloadAndTake :
    on.runningCmd 0 2 7 opProgUnload = none ∧
    ((reducing bareProg (unloadCmd true)).runningCmd 0 2 7 opProgUnload) = some (unloadCmd true) ∧
    (let s := reducing {} (unloadCmd false);
      s.runningCmd 0 2 7 opProgUnload = some (unloadCmd false) ∧ (s.prog 255).phase = .free) ∧
    (let s := reducing bareProg (unloadCmd false);
      s.runningCmd 0 2 7 opProgUnload = some (unloadCmd false) ∧ s.progMine 0 255 = true ∧ (s.prog 255).phase ≠ .free) ∧
    State.reset.running = false ∧ (at_ .running).areaOn areaReduction = false ∧ heldAt on = none ∧
    (let s := taking {} (contrib 0);
      s.running = true ∧ s.areaOn areaReduction = true ∧ heldAt s = some (contrib 0) ∧
      (hdrCtx (contrib 0).header).setWidth 8 = (255 : ProgId) ∧ (s.prog 255).desc = none) ∧
    (let s := taking { bareProg with phase := .ended } (contrib 0);
      (s.prog 255).desc = some bareDesc ∧ (s.prog 255).phase = .ended) ∧
    (let s := taking bareProg (contrib 127);
      (contribOf (contrib 127).payload).iterLo = 127 ∧ (s.prog 255).low = 0 ∧ (s.prog 255).phase ≠ .ended ∧
      ¬ 128 ≤ 127 ∧ ¬ 2 ^ 32 ≤ (s.prog 255).low + 127 ∧ bareDesc.depth ≤ 127 ∧ (s.prog 255).held = false) ∧
    (let s := taking { bareProg with held := true } (contrib 128);
      (contribOf (contrib 128).payload).iterLo = 128 ∧ (s.prog 255).held = true) ∧
    (let s := taking bareProg (contrib 0);
      (contribOf (contrib 0).payload).iterLo = 0 ∧ 0 < bareDesc.depth ∧ (s.prog 255).endedAhead.contains 0 = false) := by
  decide +kernel

theorem witness_ReductionOrderFree :
    let xs : List Dec := [{ m := 3 }, { neg := true, m := 5 }, { nan := true }]
    xs.Perm xs.reverse ∧ (xs.map (·.m)).sum < 2 ^ slotBits 0 ∧ (0 : BitVec 4).toNat ≤ 2 := by
  refine ⟨(List.reverse_perm _).symm, by decide +kernel, by decide⟩

/-! ### Fabric -/

/-- Context 0 of an accelerator with an object of a page over links 62 and 63, both AGREED in slot 7. -/
def fabObj (x : Obj → Obj) : Obj :=
  x { live := true, va := 0x8000, size := 0x1000, target := 0xFFFFF000, fabric := true, rights := 3, links := [62, 63] }
def fabric0 (o : Obj) (k : Link) : State :=
  let s := onLink agreedLink
  { s with links := [(62, agreedLink), (63, k)]
           fe := { s.fe with objs := [(State.objKey 0 4095, o)] } }
def fab1 : State := fabric0 (fabObj id) agreedLink
def inPool (s : State) : State := { s with glb := { s.glb with role := 1 } }
def fabRsp (op : Byte) (st : BitVec 4) : FabRec := { op := op, status := st, tag := 65535, line := 5, mask := 0, data := 0 }
def owed1 (w : Bool) : FabOut := { tag := 65535, line := 5, write := w, ctx := 0, owner := .access, gone := false }

theorem witness_FabricAtAccelerator :
    State.reset.running = false ∧ pool.poolRole = true ∧ (on.ctx 0).phase ≠ .active ∧
    (fab1.running = true ∧ fab1.poolRole = false ∧ (fab1.ctx 0).phase = .active ∧ fab1.findObj 0 0x7FFF = none ∧
      fab1.findObj 0 0x9000 = none) ∧
    fab1.findObj 0 0x8FFF = some (4095, fabObj id) ∧ (fabObj id).fabric = true ∧
    State.rightOk (fabObj fun o => { o with rights := 1 }).rights true = false ∧ State.rightOk (fabObj id).rights true = true ∧
    (fabObj fun o => { o with taint := true }).taint = true ∧ (fabObj id).taint = false ∧
    State.fabLink (fabObj fun o => { o with links := [] }).links 5 = none ∧
    (let line : BitVec 36 := (((fabObj id).target + (0x8FFF - (fabObj id).va)) >>> 6).setWidth 36;
      State.fabLink (fabObj id).links line = some 63) ∧
    (noLinks fab1).linkOn 63 = false ∧ fab1.linkOn 63 = true ∧ fab1.ctxSlot 0 = some 7 ∧ fab1.agreedIn 63 7 = true ∧
    (∀ d, (declaredUp).ctxSlot 0 = some d → declaredUp.agreedIn 63 d = false) ∧
    (let q : FabWait := { line := 5, write := true, mask := 1, data := 0, ctx := 0, vd := 63, owner := .access };
      State.fabFree (fab1.link 63) (fab1.link 63).fabWait q = true ∧
      State.fabFree { agreedLink with fabOut := [owed1 true] } [] q = false) ∧
    (on.link 63).core.phase ≠ .agreed ∧ (fab1.link 63).core.phase = .agreed ∧
    ((fab1.link 63).fabOut.find? fun o => o.tag == (fabRsp fabReadResp 0).tag && State.answers o fabReadResp) = none ∧
    fabStatus 15 = none ∧ fabStatus 7 = some stFabricOp ∧
    (let s := fabric0 (fabObj id) { agreedLink with fabOut := [owed1 false] };
      ((s.link 63).fabOut.find? fun o => o.tag == (fabRsp fabReadResp 0).tag && State.answers o fabReadResp) = some (owed1 false) ∧
      (owed1 false).gone = false ∧ (owed1 false).owner = .access ∧ (s.link 63).fabWait = []) := by decide +kernel

/-- A pool of slot 1 with a table of one page, cached as `e`, whose checker holds one record; the page lies in the key of the slot. -/
def tableEntry (share : BitVec 2) (m : Member) : BitVec 128 :=
  ((1 : BitVec 1) ++ (3 : BitVec 2) ++ share ++ (3 : BitVec 4) ++ (5 : BitVec 6) ++ m ++ (0 : BitVec 71) ++
    (BitVec.ofNat 22 (31 * 2 ^ 17) : BitVec 22) : BitVec 128)
def request (op : Byte) (line : BitVec 36) (mask : BitVec 64) : FabRecWait :=
  { link := 63, cls := 3, vd := 5, sender := 9, slot := 1, record := { op := op, status := 0, tag := 1, line := line, mask := mask, data := 0 } }
def poolOf (e : Option (BitVec 128)) (q : FabRecWait) (p : DomPhase) : State :=
  inPool { sealing with
    mem := { sealing.mem with ranges := [] }
    doms := [(1, { phase := p, tblBase := BitVec.ofNat 32 (31 * 2 ^ 27), tblKey := 3, tblPages := 1 })]
    fab := { on.fab with queue := [q], cache := match e with
      | some x => [(State.cacheKey 1 0, some x)]
      | none => [] } }
def ownEntry : BitVec 128 := tableEntry 0 9
def poolRead : State := poolOf (some ownEntry) (request fabRead 0x7FFF 0) .member
def poolWrite (p : DomPhase) : State := poolOf (some ownEntry) (request fabWrite 0 (BitVec.allOnes 64)) p
def missing : State := { poolRead with fab := { poolRead.fab with misses := [(1, 0)] } }
def pageLine (line : BitVec 36) : Dpa := entPage ownEntry ++ line.setWidth 15 ++ (0 : BitVec 6)

theorem witness_FabricAtPool :
    State.reset.running = false ∧ on.poolRole = false ∧ pool.fab.queue = [] ∧
    (poolRead.running = true ∧ poolRead.poolRole = true ∧ poolRead.fab.queue = [request fabRead 0x7FFF 0] ∧
      poolRead.fab.misses = []) ∧
    (0x10 ≤ (0x1F : Byte).toNat ∧ (0x10 : Byte).toNat ≤ 0x1F) ∧
    ((request fabRead 0x8000 0).record.op = fabRead ∧ (request fabRead 0x8000 0).record.mask = 0 ∧
      (request fabWrite 0 1).record.op = fabWrite ∧ (request fabWrite 0 1).record.mask ≠ 0 ∧
      (request fabRead 0x8000 0).record.status = 0) ∧
    (poolRead.dom 1).tblPages.toNat ≤ State.fabPage 0x8000 ∧ State.fabPage 0x7FFF < (poolRead.dom 1).tblPages.toNat ∧
    Tab.get none (poolOf none (request fabRead 0 0) .member).fab.cache (State.cacheKey 1 0) = none ∧
    Tab.get none poolRead.fab.cache (State.cacheKey 1 (State.fabPage 0x7FFF)) = some ownEntry ∧
    (poolRead.entUsable 1 (tableEntry 3 9) = false ∧ entValid (tableEntry 3 9) = true) ∧
    (poolRead.entUsable 1 0 = false ∧ entValid 0 = false) ∧ poolRead.entUsable 1 ownEntry = true ∧
    (entShare ownEntry = 0 ∧ (request fabRead 0 0).sender = entMember ownEntry ∧ (request fabRead 0 0).vd = entVd ownEntry ∧
      entRead ownEntry = true ∧ entWrite ownEntry = true) ∧
    (entShare (tableEntry 1 8) = 1 ∧ (request fabRead 0 0).sender ≠ entMember (tableEntry 1 8)) ∧
    (poolWrite .fragment).isFragment 1 = true ∧ (poolWrite .member).isFragment 1 = false ∧
    ((poolWrite .member).memPut {
      master := .fabric 1, key := entKey ownEntry, dpa := pageLine 0, write := some (BitVec.allOnes 64, 0), atomic := false
      refs := [], tag := some (.fab (request fabWrite 0 (BitVec.allOnes 64))) }).2.isNone = true ∧
    (({ poolWrite .member with clk := { on.clk with enMc := 0 } } : State).memPut {
      master := .fabric 1, key := entKey ownEntry, dpa := pageLine 0, write := some (BitVec.allOnes 64, 0), atomic := false
      refs := [], tag := some (.fab (request fabWrite 0 (BitVec.allOnes 64))) }).2 = some stFnOff ∧
    poolRead.fab.misses.contains ((1 : Slot), (0 : BitVec 19)) = false ∧
    (missing.running = true ∧ missing.poolRole = true ∧ missing.fab.misses.contains ((1 : Slot), (0 : BitVec 19)) = true) ∧
    (let s : State := { missing with clk := { missing.clk with enMc := 0 } };
      (match s.readNow (.fabric 1) (s.dom 1).tblKey (s.tblDpa 1 0) { status := 0, rdata := 0, rside := 0 } with
        | (_, .failed st _) => st == stFnOff
        | _ => false) = true) ∧
    2 ^ 21 < (0x200001 : BitVec 22).toNat ∧ (0x200000 : BitVec 22).toNat ≤ 2 ^ 21 ∧ (0 : Slot) ≠ 1 := by decide +kernel

/-- The reads of the pool go through: of a page, and of the table. -/
theorem witness_pool_reads :
    (∃ rsp u p, poolRead.readNow (.fabric 1) (entKey ownEntry) (pageLine 0x7FFF) rsp = (u, .done p)) ∧
    ∃ rsp u p, missing.readNow (.fabric 1) (missing.dom 1).tblKey (missing.tblDpa 1 0) rsp = (u, .done p) := by
  have c : ∀ n : Bool, let s := if n then poolRead else missing;
      let d := if n then pageLine 0x7FFF else missing.tblDpa 1 0;
      (s.memRefusal (.fabric 1) 3 d false).isNone = true ∧ s.fencedOn d = [] ∧ s.lineBusy d = false ∧
      s.mcReady (dpaChan d) = true ∧ s.freeMcId (dpaChan d) (dpaSub d) = some 0 ∧ (s.memIdx 3).sweeping = false ∧
      (s.memKey 3 false).isSome = true ∧ s.mem.waits = [] := by decide +kernel
  constructor
  · obtain ⟨c1, c2, c3, c4, c5, c6, c7, c8⟩ := c true
    obtain ⟨k, c7⟩ := Option.isSome_iff_exists.mp c7
    obtain ⟨rsp, p, r0, r1, hp⟩ := (witness_answers k 3 (lineDpa (pageLine 0x7FFF))).1
    exact ⟨rsp, _, p, read_now _ (.fabric 1) 3 _ k p rsp r0 r1 hp c1 c2 c3 c4 0 c5 c6 c7 c8⟩
  · obtain ⟨c1, c2, c3, c4, c5, c6, c7, c8⟩ := c false
    obtain ⟨k, c7⟩ := Option.isSome_iff_exists.mp c7
    obtain ⟨rsp, p, r0, r1, hp⟩ := (witness_answers k 3 (lineDpa (missing.tblDpa 1 0))).1
    exact ⟨rsp, _, p, read_now _ (.fabric 1) 3 _ k p rsp r0 r1 hp c1 c2 c3 c4 0 c5 c6 c7 c8⟩

/-- A request of the PF at an OPEN function. -/
def asking (n : Nat) (s : State) : State := s.setFunc 0 (mailFn (16 + n))
/-- The conditions of a request that comes to what its command does, as a test. -/
def isReady (s : State) (f : Fn) (n : Nat) : Bool :=
  s.mbxOn f && ((s.func f).phase == .opened || (s.func f).mbx.taken) && (s.func f).mbx.reqLen.toNat == 16 + n
theorem ready_of (s : State) (f : Fn) (n : Nat) (h : isReady s f n = true) : s.mbxReady (hdr f n) n := by
  simp only [isReady, Bool.and_eq_true, Bool.or_eq_true, beq_iff_eq] at h
  exact ⟨⟨h.1.1, rfl, h.1.2⟩, h.2, rfl, rfl, rfl⟩

theorem witness_FabricTable :
    (asking 24 on).poolRole = false ∧ isReady (asking 24 on) 0 24 = true ∧
    (let s := asking 24 { poolRead with mem := { poolRead.mem with chans := [(31, { lines := 8 })] } };
      isReady s 0 24 = true ∧ s.poolRole = true ∧ (s.dom 1).tblPages.toNat ≤ (1 : BitVec 32).toNat ∧
      (0 : BitVec 32).toNat < (s.dom 1).tblPages.toNat ∧ s.entUsable 1 (tableEntry 3 9) = false ∧
      s.entUsable 1 ownEntry = true ∧ s.pageBelow (entPage ownEntry) = true ∧ s.pageBelow (entPage ownEntry + 1) = false ∧
      (s.memRefusal .trustCore (s.dom 1).tblKey (s.tblDpa 1 0) true).isNone = true) ∧
    ((asking 24 { poolRead with clk := { poolRead.clk with enMc := 0 } }).memRefusal .trustCore 3 (poolRead.tblDpa 1 0)
      true).isSome = true ∧ isReady (asking 8 poolRead) 0 8 = true ∧ isReady (asking 8 on) 0 8 = true := by decide +kernel

/-! ### The mailbox -/

/-- A mailbox whose request is of `n` body bytes at function `f` in a phase. -/
def boxed (f : Fn) (p : FnPhase) (n : Nat) : State := on.setFunc f { mailFn (16 + n) with phase := p }
def otherHdr (f : Fn) (n : Nat) (x : MbxHdr → MbxHdr) : MbxHdr := x (hdr f n)

theorem witness_MailboxRequests :
    (at_ .running).mbxOn 255 = false ∧ on.mbxOn 255 = true ∧ (otherHdr 255 4 fun h => { h with dmaOk := false }).dmaOk = false ∧
    ((boxed 255 .drained 4).mbxOn 255 = true ∧ ((boxed 255 .drained 4).func 255).phase ≠ .opened ∧
      ((boxed 255 .drained 4).func 255).mbx.taken = false) ∧
    (mailParts (.drain (hdr 255 4) 1)).any (fun x => x.2.2.1) = true ∧
    (mailParts (.haClose (hdr 255 4))).any (fun x => !x.2.2.1 && x.2.2.2 == some 4) = true ∧
    (((boxed 255 .opened 4).func 255).mbx.reqLen.toNat = 16 + (hdr 255 4).bodyLen ∧
      ((boxed 255 .opened 4).func 255).mbx.reqLen.toNat ≠ 16 + (hdr 255 5).bodyLen) ∧ (255 : Fn) ≠ 0 ∧
    ((otherHdr 0 4 fun h => { h with statusField := 1 }).statusField ≠ 0) ∧
    ((otherHdr 0 4 fun h => { h with reservedZero := false }).reservedZero = false) ∧
    (isReady (boxed 255 .opened 5) 255 5 = true ∧ (hdr 255 5).bodyLen ≠ 4) ∧
    (((boxed 255 .opened 5).func 255).phase = .opened ∧ 16 ≤ ((boxed 255 .opened 5).func 255).mbx.rspMax.toNat ∧
      (boxed 255 .opened 5).portOn portStaging = true ∧ ((boxed 255 .opened 5).func 255).mbx.rsp.toNat % 4096 ≤ 4080) := by
  decide +kernel

/-- The PF asks while function 255 is in a phase, with a context of it where `live`. -/
def pfAsks (p : FnPhase) (live : Bool) : State := asking 4 (fnIn p live)
def linkAsk (s : State) : State := asking 4 s
def certified : State := asking 8 { on with boot := { on.boot with deviceRecord := [1, 2, 3], idRecordOk := true } }
def spdmAt (st : SpdmState) : State := certified.setFunc 0 { mailFn 24 with spdm := st }

theorem witness_MailboxServices :
    (∀ st : SpdmState, isReady (spdmAt st) 0 8 = true ∧ ((spdmAt st).func 0).spdm = st ∧ (spdmAt st).boot.idRecordOk = true) ∧
    (0x83 : Byte) ∉ ([0x84, 0xE1, 0xE3, 0x81, 0x82] : Bytes) ∧
    (certified.certObject.length ≤ (5 : BitVec 32).toNat ∧ (4 : BitVec 32).toNat < certified.certObject.length ∧
      65512 < (65513 : BitVec 32).toNat ∧ (65512 : BitVec 32).toNat ≤ 65512 ∧ (65512 : BitVec 32) ≠ 0) ∧
    (∀ p ∈ [FnPhase.closed, .opened, .draining, .drained], isReady (pfAsks p true) 0 4 = true ∧
      ((pfAsks p true).func 255).phase = p) ∧ (255 : Fn) ≠ 0 ∧ (hdr 0 4).fn = 0 ∧
    (pfAsks .opened true).fnWork 255 = true ∧ (pfAsks .opened false).fnWork 255 = false ∧
    (isReady (linkAsk agreedState) 0 4 = true ∧ (linkAsk agreedState).declared 7 63 = false) ∧
    (let s := linkAsk (declared agreedLink);
      s.declared 7 63 = true ∧ (s.link 63).core.phase = .agreed ∧ s.agreedIn 63 7 = true ∧ s.red.progs = [] ∧
      (s.link 63).io.flight = [] ∧ (s.link 63).fabOut = [] ∧ (s.link 63).fabWait = [] ∧ s.agreeRefusal 7 = none ∧
      s.linkShut = none ∧ State.outOfService (.lk 63) (s.laneCluster (.lk 63)) = false ∧
      ({ s with keys := on.keys } : State).agreeRefusal 7 = some stKeyOrphan ∧
      ({ s with lcd := { s.lcd with debugOpen := true } } : State).linkShut = some stDebugOpen ∧
      State.outOfService (.lk 63) { active := 0, retired := 1 } = true) ∧
    (let s := linkAsk declaredUp;
      s.declared 7 63 = true ∧ (s.link 63).core.phase ≠ .agreeing ∧ (s.link 63).core.phase ≠ .agreed ∧
      s.agreedIn 63 7 = false ∧ s.linkOn 63 = true ∧ (s.link 63).core.up = true ∧ (noLinks s).linkOn 63 = false ∧
      s.agreeRefusal 7 = none ∧ s.linkShut = none) := by
  decide +kernel

/-- HA_HELLO of a form that R479 refuses, one whose session runs, and pending agreements. -/
def haHello (slot : Byte) : HaHello :=
  { slot := slot, sessionId := 9, nonce := zeros 32, kem := [], ecdh := [], grant := [], raw := [] }
def pending1 : HaPend := { sessionId := 9, slot := 1, th := [], ssKem := [], ssEcdh := [], vmKeys := [], since := 0 }
def haState (n : Nat) (z : Sess) : State :=
  (on.setFunc 255 { mailFn (16 + n) with sess := z })

theorem witness_HostAgreement :
    isReady (haState 9176 {}) 255 9176 = true ∧ (haState 9176 {}).haRefusal (hdr 255 9176) (haHello 1) = some stReserved ∧
    isReady (haState 9177 {}) 255 9177 = true ∧ isReady (haState 4756 {}) 255 4756 = true ∧
    ((haState 4756 {}).sessOf 255).pend = none ∧ ((haState 4756 { pend := some pending1 }).sessOf 255).pend = some pending1 ∧
    (9 : BitVec 32) = pending1.sessionId ∧ (8 : BitVec 32) ≠ pending1.sessionId ∧
    ((haState 4756 { pend := some pending1 }).row (State.rowSss 255)).outOfUse = false ∧
    ((haState 4756 { pend := some pending1 }).row (State.rowStage 255 1)).outOfUse = false ∧
    State.reset.running = false ∧ isReady (haState 4 { opened := true }) 255 4 = true ∧
    ((haState 4 { opened := true }).sessOf 255).opened = true ∧ ((haState 4 {}).sessOf 255).opened = false := by decide +kernel

/-- A device in a life-cycle state, with the DUS, a signer and the debug authority in OTP where `full`. -/
def lcIn (st : BitVec 2) (full : Bool) : State :=
  { on with lcd := { state := st, decoded := true, debugOpen := st == 1 }
            otp := if full then [(4, 1), (8, 1), (32, 1)] else [] }

/-- The same with a virtual device of a held slot, where a forced exit has a Colon; and with a transition in progress. -/
def lcExit (st : BitVec 2) : State :=
  { lcIn st true with doms := [(7, { phase := .member })], vd := { on.vd with vds := [(63, { present := true, slot := some 7 })] } }
def lcBusy (st : BitVec 2) : State := { lcIn st true with lcd := { (lcIn st true).lcd with busy := some .transition } }

theorem witness_DebugAndLifeCycle :
    isReady (asking 0 (lcIn 2 true)) 0 0 = true ∧ (asking 0 (lcIn 2 true)).lcd.state = 2 ∧ (lcIn 1 true).lcd.state ≠ 2 ∧
    (isReady (asking 7 (lcIn 2 true)) 0 7 = true ∧ (lcIn 2 true).lcd.nonce = none ∧ (lcIn 2 true).lcd.busy = none ∧
      State.debugGrantOk (lcIn 2 true) none [] = false ∧ (lcIn 2 true).exitColon = none) ∧
    (isReady (asking 7 (lcBusy 2)) 0 7 = true ∧ (lcBusy 2).lcd.busy ≠ none) ∧
    (isReady (asking 7 (lcExit 2)) 0 7 = true ∧ (lcExit 2).exitColon = some (7, 63) ∧ (lcExit 2).lcCond 3 = true) ∧
    (State.reset.regTakes = false ∧ (at_ .settle).dbgReach true 0xF00004 = none ∧
      (lcIn 3 true).dbgReach true 0xF00004 = some false ∧ (lcIn 2 true).dbgReach true 0xF00004 = none) ∧
    ((lcIn 0 false).running = true ∧ (lcIn 0 false).areaOn areaLcd = true ∧ (lcIn 0 false).portOn portReg = true) ∧
    ((lcIn 0 false).dbgReach true 0xF00004 = some true ∧ (lcIn 0 false).lcAdmits true = true ∧ (lcIn 0 false).lcCond 1 = true ∧
      (lcIn 0 false).lcCond 2 = false ∧ (lcIn 0 false).lcAdmits false = false ∧ (lcIn 0 false).lcd.busy = none) ∧
    ((lcIn 1 true).dbgReach true 0xF00004 = some true ∧ (lcIn 1 true).lcAdmits false = true ∧ (lcIn 1 true).lcCond 2 = true ∧
      (lcIn 1 false).lcCond 2 = false ∧ (lcIn 1 false).lcCond 3 = true) ∧
    ((lcIn 2 true).lcAdmits false = true ∧ (lcIn 2 true).lcCond 3 = true) ∧ (lcBusy 2).lcAdmits false = true ∧
    (0x4C44 : BitVec 16) ≠ 0x4C43 := by decide +kernel

/-! ### Trust domains -/

/-- A record of zeros but for its hall count, its compat byte, its system candidates and the candidates of hall 0. -/
def recOf (halls compat : Byte) (sys hall : Nat) : Bytes :=
  let c (m : Nat) := leBytes 4 m ++ zeros 48
  zeros 24 ++ [halls, compat] ++ zeros 10 ++ c sys ++ c sys ++ c sys ++ c hall ++ c hall ++ c hall ++ zeros 52
/-- A running block with one slot in a state, and one whose PF asks. -/
def domain (k : Dom) : State := { on with doms := [(7, k)] }
def asks (n : Nat) (k : Dom) : State := asking n (domain k)
/-- The same with the keys of the instance, the DRS and the member secret of the slot. -/
def withKeys (s : State) : State := { s with keys := { on.keys with rows := memberRows ++ [(State.rowDrs 7, { valid := true })] } }
def former (t : Time) : FormPend :=
  { th := [], ssKem := [], ssEcdh := [], record := [], member := 5, since := t }
def hello : FormHello :=
  { slot := 7, nonce := [], kem := [], ecdh := [], member := 5, proof := [], record := [], raw := [] }

theorem witness_DomainFormation :
    ((mailParts (.joinTicket (hdr 0 824) 7 0 [])).any (fun x => x.2.1 == 0x0032 && x.2.2.1 && x.2.2.2 == some 824) = true ∧
      0x0030 ≤ (0x0032 : BitVec 16).toNat ∧ (0x0032 : BitVec 16).toNat ≤ 0x0039 ∧ isReady (asks 824 {}) 0 824 = true ∧
      (hdr 0 824).fn = 0) ∧
    (lcIn 1 true).lcd.state = 1 ∧ isReady (asking 824 (lcIn 1 true)) 0 824 = true ∧ (asks 824 {}).lcd.state ≠ 1 ∧
    (let s := { asks 824 {} with lcd := { debugOpen := true } };
      s.lcd.debugOpen = true ∧ s.lcd.state ≠ 1 ∧ isReady s 0 824 = true) ∧
    ((asking 824 (lcBusy 2)).lcd.busy ≠ some .unlock ∧
      ({ lcBusy 2 with lcd := { (lcBusy 2).lcd with busy := some .unlock } } : State).lcd.busy = some .unlock) ∧
    ((asks 4752 {}).joinGate = none ∧ (withKeys (asks 13385 {})).idUsable = true ∧ (withKeys (asks 13385 {})).aliasUsable = true ∧
      (withKeys (asks 13385 {})).slotRowsOut 7 = false ∧ (asks 13385 {}).idUsable = false) ∧
    (let s := asks 13385 { phase := .forming };
      isReady s 0 13385 = true ∧ (s.dom hello.slot).phase ≠ .free) ∧
    (let s := asks 13385 {};
      isReady s 0 13385 = true ∧ (s.dom hello.slot).phase = .free ∧ s.poolRole = false ∧ (inPool s).poolRole = true ∧
      isReady (inPool s) 0 13385 = true ∧ recordOk hello.record = false) ∧
    isReady (asks 4752 {}) 0 4752 = true ∧ (asks 4752 {}).pendingForm = none ∧
    (asks 4752 { form := some (former 3) }).pendingForm = some (7, former 3) ∧
    ((domain { phase := .forming }).running = true ∧ ((domain { phase := .forming }).dom 7).phase = .forming) ∧
    State.reset.running = false ∧
    (2 ^ 20 ≤ (2 ^ 20 : BitVec 32).toNat ∧ (2 ^ 20 - 1 : BitVec 32).toNat < 2 ^ 20) ∧
    (isReady (asks 4 { phase := .member }) 0 4 = true ∧ 8 ≤ (8 : Byte).toNat ∧ (7 : Byte).toNat < 8 ∧
      ((asks 4 { phase := .member }).dom 7).phase ≠ .free ∧ ((asks 4 {}).dom ((0 : Byte).setWidth 3)).phase = .free) := by
  decide +kernel

/-- A member whose System Manager acts for every hall, with a count where there is one. -/
def manager (c : Option CountRun) : Dom :=
  { phase := .member, activeSm := true, member := 0xFFFFF, epoch := 6, record := recOf 8 1 5 5, mgr := { count := c } }
def count1 (w : Bool) : CountRun := { round := 9, halls := 0x7F, members := 3, verifier := false, waiting := w }
def vote (round : Nat) : Bytes :=
  leBytes 4 0x5656584B ++ leBytes 2 1 ++ zeros 2 ++ zeros 16 ++ leBytes 4 round ++ leBytes 4 0xFFFFF ++ zeros 4740
def epochMsg (e : Nat) : Bytes := leBytes 4 0x4145584B ++ leBytes 2 1 ++ zeros 2 ++ zeros 16 ++ leBytes 4 e ++ zeros 4740
/-- Link 63 in the slot's virtual device, with a slot of a state. -/
def withLink (n : Nat) (k : Dom) (u : LinkCore) : State := asking n { onLink { core := u } with doms := [(7, k)] }

theorem witness_DeclarationsAndEpoch_links :
    (let s := withLink 8 { phase := .member, member := 3 } {};
      isReady s 0 8 = true ∧ s.lcd.state ≠ 1 ∧ s.lcd.debugOpen = false ∧ s.linkInSlot 63 7 = true ∧ s.linkInSlot 63 6 = false ∧
      s.censusOf 7 0xFFFFF ≠ 3 ∧ ¬ (0xFFFFF : Member) = (s.dom 7).member ∧ (s.dom 7).member = 3) ∧
    ((withLink 8 { mgr := { census := [(0xFFFFF, 3)] } } {}).censusOf 7 0xFFFFF = 3) ∧
    (let s := withLink 8 { ticket := some (3, []), member := 3 } {};
      s.linkInSlot 63 7 = true ∧ (s.dom 7).ticket.isSome = true ∧ (s.dom 7).phase = .free ∧ (s.link 63).core.up = false) ∧
    (2 ^ 20 ≤ (2 ^ 20 : BitVec 32).toNat ∧ 64 ≤ (64 : Byte).toNat ∧ (63 : Byte).toNat < 64 ∧ (2 ^ 20 - 1 : BitVec 32).toNat < 2 ^ 20) ∧
    (let s := withLink 8 { phase := .member, member := 3, record := recOf 8 1 5 5 } {};
      isReady s 0 8 = true ∧ recCompat (s.dom 7).record = 1 ∧ (hallOf 0xFFFFF).toNat < recHallCount (s.dom 7).record ∧
      s.censusOf 7 0xFFFFF ≠ 3 ∧ (s.declareDo 7 63 { partner := 0xFFFFF, link := 0 }).2 = stOk) ∧
    ((asks 8 { phase := .member, record := recOf 8 1 5 5 }).linkInSlot 63 7 = false) ∧
    recCompat (recOf 8 0 5 5) ≠ 1 ∧ ¬ (hallOf 0xFFFFF).toNat < recHallCount (recOf 7 1 5 5) := by decide +kernel

theorem witness_DeclarationsAndEpoch :
    (let s := asks 4 (manager none);
      isReady s 0 4 = true ∧ s.inDomain 7 = true ∧ s.managesHall 7 ((7 : Byte).setWidth 3) = true ∧ 8 ≤ (8 : Byte).toNat ∧
      s.managesHall 6 0 = false ∧ s.inDomain 6 = false ∧ (s.dom 7).mgr.count = none ∧ s.aliasUsable = false ∧
      (withKeys s).aliasUsable = true ∧ isReady (withKeys s) 0 4 = true ∧ (withKeys s).inDomain 7 = true ∧
      (withKeys s).managesHall 7 ((7 : Byte).setWidth 3) = true) ∧
    (let s := withKeys (asks 4 { phase := .member, member := 5, record := recOf 8 0 5 5, sysCand := true, sysManager := 4
                                 mgr := { count := some (count1 false) } });
      isReady s 0 4 = true ∧ (s.dom 7).mgr.count = some (count1 false) ∧ s.isCounter 7 = true ∧ s.aliasUsable = true ∧
      (asks 4 { phase := .member }).isCounter 7 = false) ∧
    (let s := asks 4772 (manager (some (count1 false)));
      isReady s 0 4772 = true ∧ (s.dom 7).mgr.count = some (count1 false) ∧ leAt (vote 9) 0 4 = 0x5656584B ∧
      leAt (vote 9) 4 2 = 1 ∧ zeroAt (vote 9) 6 2 = true ∧ zeroAt (vote 9) 32 4 = true ∧
      s.slotOfDomain (slice (vote 9) 8 16) = some 7 ∧ s.slotOfDomain (zeros 15 ++ [1]) = none ∧
      leAt (vote 9) 28 4 = (s.dom 7).member.toNat ∧ leAt (vote 9) 24 4 = (count1 false).round.toNat ∧
      leAt (vote 8) 24 4 ≠ (count1 false).round.toNat ∧ leAt ([] : Bytes) 0 4 ≠ 0x5656584B) ∧
    (let s := asks 4768 (manager none);
      isReady s 0 4768 = true ∧ leAt (epochMsg 6) 0 4 = 0x4145584B ∧ leAt (epochMsg 6) 4 2 = 1 ∧
      zeroAt (epochMsg 6) 6 2 = true ∧ zeroAt (epochMsg 6) 28 4 = true ∧ s.slotOfDomain (slice (epochMsg 6) 8 16) = some 7 ∧
      leAt (epochMsg 6) 24 4 = (s.dom 7).epoch.toNat ∧ (s.dom 7).activeSm = true ∧ (s.dom 7).epoch ≠ 0xFFFFFFFF ∧
      s.keyUsable (State.rowDrs 7) = false ∧ (withKeys s).keyUsable (State.rowDrs 7) = true ∧ (withKeys s).aliasUsable = true) ∧
    (domain (manager none)).inDomain 7 = true ∧ ((domain (manager none)).dom 7).epoch < 7 ∧
    (6 : BitVec 32) ≤ ((domain (manager none)).dom 7).epoch ∧ on.inDomain 7 = false := by decide +kernel

def invite (p : Member) : JoinInvite :=
  { domainId := zeros 16, hall := 0, manager := 5, parent := p, parentLink := 0, drDigest := [], reservedZero := true }
def invited (t : Option (Member × Bytes)) : State :=
  { declaredUp with doms := [(7, { phase := .free, ticket := t, decls := [(63, some { partner := 0xFFFFF, link := 0 })] })] }
def joinReq (ok : Bool) : JoinRequest :=
  { domainId := [], member := 6, nonce := [], idKeys := [], proof := [], cert := [], ekA := [], xA := [], ekB := [], xB := []
    lengthsOk := ok, raw := [] }
def joinGrant (m : Member) : JoinGrant :=
  { ctA := [], yA := [], ctB := [], yB := [], epoch := 1, wrappedMember := [], wrappedDcs := [], token := [], record := []
    keyList := [], manager := m, mgrIdKeys := [], mgrCert := [], sigG := [], rawCore := [] }
def pend (g : Bool) : JoinPend :=
  { link := 63, manager := 5, hall := 0, drDigest := [], kemA := 0, ecdhA := 0, kemB := 0, ecdhB := 0, nonce := [], request := []
    granted := g }
def granting : Dom := { manager none with mgr := { grants := [{ member := 6, link := 63, time := 0, digest := [] }] } }
def hand (k : BitVec 2) (n : Nat) (m : Member) : Handdown :=
  { kind := k, ct := [], y := [], wrapped := zeros n, sender := m, th := [], transfer := 0 }

/-- What a join request meets at a manager: room or none for one more, and the keys that answer it. -/
theorem witness_joins :
    (let s := withKeys (domain (manager none));
      (s.dom 7).activeSm = true ∧ (s.dom 7).mgr.grants.length < 8 ∧ s.aliasUsable = true ∧ s.idUsable = true) ∧
    8 ≤ ((domain { manager none with mgr := { grants := List.replicate 8 { member := 6, link := 63, time := 0, digest := [] } } }).dom
      7).mgr.grants.length ∧
    ((domain granting).dom 7).mgr.joinQueue.isEmpty = true := by decide +kernel

theorem witness_TheParse :
    on.agrReady 63 = none ∧
    ((invited none).agrReady 63 = some partner ∧ ((invited none).dom 7).ticket = none) ∧
    (let s := invited (some (3, []));
      s.agrReady 63 = some partner ∧ (s.dom 7).ticket = some (3, []) ∧ s.inviteTaken 7 partner.2 (invite 4) = false ∧
      s.inviteTaken 7 partner.2 (invite 0xFFFFF) = true) ∧
    on.inDomain 7 = false ∧
    (let s := domain (manager none);
      s.inDomain 7 = true ∧ s.leadsHall 7 (hallOf ((joinReq true).member.setWidth 20)) = true ∧
      (joinReq false).lengthsOk = false ∧ (joinReq true).member.toNat < 2 ^ 20) ∧
    ((domain { phase := .member }).leadsHall 7 0 = false ∧ (domain { phase := .member }).inDomain 7 = true ∧
      (domain { phase := .member }).poolCandidate 7 (joinReq true) = false) ∧
    ((on.dom 7).join = none ∧ State.reset.running = false ∧
      ((domain { join := some (pend true) }).dom 7).join = some (pend true) ∧ (pend true).granted = true) ∧
    (((domain { join := some (pend false) }).dom 7).join = some (pend false) ∧ (pend false).granted = false ∧
      (joinGrant 5).wrappedMember.length ≠ 48) ∧
    (let s := domain granting;
      s.inDomain 7 = true ∧ (s.dom 7).mgr.grants = [{ member := 6, link := 63, time := 0, digest := [] }] ∧
      (∀ g ∈ (s.dom 7).mgr.grants, g.member ≠ 7) ∧
      (let u := (s.modDom 7 fun k => { k with mgr := { k.mgr with
          grants := [], departed := k.mgr.departed.filter fun x => x != 6 } }).censusPut 7 6 1;
        u.isSysCand 7 6 = false ∧ u.isHallCand 7 (hallOf 6) 6 = false)) ∧
    (let s := domain (manager none);
      s.leadsHall 7 (hallOf 6) = true ∧ (s.censusPut 7 6 3).isSysCand 7 6 = false ∧
      (s.censusPut 7 6 3).isHallCand 7 (hallOf 6) 6 = false ∧ s.peersFor 7 (hallOf 6) = []) ∧
    ((domain { phase := .member }).running = true ∧ ((domain { phase := .member }).dom 7).phase = .member ∧
      (on.dom 7).phase ≠ .member) ∧
    (let s := domain { manager none with sysCand := true, hallCand := true };
      s.running = true ∧ s.isSysCand 7 (hand 0 48 5).sender = true ∧ (s.dom 7).sysCand = true ∧ (s.dom 7).hallCand = true ∧
      (s.dom 7).phase = .member ∧ (hand 1 48 5).wrapped.length = 48 ∧ (hand 1 47 5).wrapped.length ≠ 48 ∧
      (hand 1 48 5).kind ≠ 3 ∧ (s.row (State.handRow 7 1)).outOfUse = false ∧ (hand 1 48 5).kind = 1 ∧
      ¬ (s.isSysCand 7 6 = true ∨ s.isHallCand 7 (hallOf 6) 6 = true)) ∧
    ¬ (on.dom 7).sysCand = true ∧ (on.dom 7).phase = .free := by decide +kernel

/-! ### Managers -/

/-- A domain whose slot holds its DRS and hall secret. -/
def keyed (k : Dom) : State :=
  let s := domain k
  { s with keys := { s.keys with rows := [(State.rowDrs 7, { valid := true }), (State.rowHall 7, { valid := true })] } }
/-- A candidate of both functions with a member index, of candidate 5. -/
def cand (m : Member) : Dom :=
  { phase := .member, member := m, record := recOf 1 0 5 5, sysCand := true, hallCand := true, sysManager := 4 }
def plain (m : Member) (halls : Byte) : Dom := { phase := .member, member := m, record := recOf halls 0 5 5, sysManager := 4 }

theorem witness_ManagerPulses :
    on.inDomain 7 = false ∧
    ((domain (plain 3 1)).inDomain 7 = true ∧ (domain (plain 3 1)).pulsePeers 7 = []) ∧
    ((keyed (cand 3)).inDomain 7 = true ∧ (keyed (cand 3)).pulsePeers 7 = [5]) ∧
    (let k := (domain (plain 3 1)).dom 7;
      k.activeHm = false ∧ k.activeSm = false ∧ k.hallCand = false ∧ k.sysCand = false ∧ hallOf 5 = hallOf k.member ∧
      5 ≠ k.sysManager ∧ (domain (plain 3 1)).isSysCand 7 5 = true) ∧
    ((domain (plain 3 1)).holdsDrs 7 = false ∧ (5 : Member) < ((keyed (cand 6)).dom 7).member ∧
      (keyed (cand 6)).isSysCand 7 5 = true) ∧
    (let s := keyed (cand 3);
      s.isSysCand 7 5 = true ∧ s.mayLead 7 = true ∧ s.holdsDrs 7 = true ∧ s.isHallCand 7 0 5 = true ∧ s.holdsHall 7 = true ∧
      s.hallCandsOf 7 = [5, 5, 5] ∧ (s.dom 7).member = 3 ∧ s.sysCandsOf 7 = [5, 5, 5]) ∧
    ((domain (plain 3 1)).isHallCand 7 (hallOf ((domain (plain 3 1)).dom 7).member) 5 = true ∧
      (domain (plain 3 1)).holdsHall 7 = false) ∧
    (let s := domain (plain 3 1);
      s.isSysCand 7 6 = false ∧ s.isHallCand 7 (hallOf 6) 6 = false ∧ s.isHallCand 7 (hallOf (s.dom 7).member) 6 = false) ∧
    (let s := domain { plain 3 0 with activeSm := true };
      recHallCount (s.dom 7).record = 0 ∧ s.managesHall 7 (hallOf (s.dom 7).member) = true ∧ s.inDomain 7 = true) ∧
    (let s := domain (plain 3 1);
      recHallCount (s.dom 7).record = 1 ∧ hallOf (s.dom 7).member = 0 ∧ s.managesHall 7 0 = false ∧ s.running = true ∧
      (s.dom 7).phase = .member ∧ s.red.progs = [] ∧ s.mem.fence = [] ∧ s.mem.waits = []) ∧
    (let s := domain { plain 3 1 with activeSm := true };
      recHallCount (s.dom 7).record = 1 ∧ s.managesHall 7 0 = true ∧ s.inDomain 7 = true) ∧
    State.reset.running = false ∧ (on.dom 7).phase ≠ .member := by decide +kernel

/-- A Hall Manager in contact with the other candidate, with a row change it awaits. -/
def standby : State :=
  let s := keyed { cand 3 with activeHm := true, mgr := { contacts := [(5, 9)], acks := [{ member := 9, version := 2, waits := [5] }] } }
  { s with sys := { s.sys with btime := 9 } }
def syncOf (confirm : Bool) (r : Option (BitVec 32 × RosterRow)) : SyncMsg :=
  { sender := 5, member := 9, confirm := confirm, roster := r }

theorem witness_RosterAndCensus :
    on.inDomain 7 = false ∧
    ((domain (plain 3 1)).inDomain 7 = true ∧ (domain (plain 3 1)).leadsHall 7 (hallOf 9) = false) ∧
    (let s := domain { plain 3 1 with activeSm := true, mgr := { rosterVersions := [(9, 2)] } };
      s.inDomain 7 = true ∧ s.leadsHall 7 (hallOf 9) = true ∧ (s.noteContact 7 9).peersFor 7 (hallOf 9) = [] ∧
      (1 : BitVec 32) < Tab.get 0 ((s.noteContact 7 9).dom 7).mgr.rosterVersions (9 : Member).toNat ∧
      Tab.get 0 ((s.noteContact 7 9).dom 7).mgr.rosterVersions (9 : Member).toNat ≤ 2) ∧
    ((domain { plain 3 1 with rosterVersion := 4, rosterPending := true }).dom 7).rosterVersion = 4 ∧
    ((domain { plain 3 1 with rosterVersion := 4, rosterPending := true }).dom 7).rosterPending = true ∧
    ((domain (plain 3 1)).dom 7).rosterVersion ≠ 4 ∧ ((domain (plain 3 1)).dom 7).rosterPending = false ∧
    (domain (plain 3 1)).leadsOwn 7 = false ∧
    (let s := domain { plain 3 1 with activeHm := true };
      s.leadsOwn 7 = true ∧ (s.dom 7).sysManager ≠ (s.dom 7).member) ∧
    ((keyed (cand 3)).dom 7).hallCand = true ∧ (keyed (cand 3)).inDomain 7 = true ∧
    (standby.inDomain 7 = true ∧ standby.leadsHall 7 (hallOf 9) = true ∧ (standby.noteContact 7 9).peersFor 7 (hallOf 9) ≠ [] ∧
      Tab.get 0 ((standby.noteContact 7 9).dom 7).mgr.rosterVersions (9 : Member).toNat ≤ 2 ∧
      (standby.dom 7).mgr.acks = [{ member := (syncOf true none).member, version := 2, waits := [(syncOf true none).sender] }]) ∧
    ((syncOf true none).confirm = true ∧ (syncOf false none).confirm = false ∧ (syncOf false none).roster = none ∧
      (syncOf true (some (2, { vds := 0, links := [(63, 7, 0, 3)] }))).roster = some (2, { vds := 0, links := [(63, 7, 0, 3)] })) ∧
    ((domain (plain 3 1)).dom 7).hallCand = false ∧ ((domain (plain 3 1)).dom 7).sysCand = false := by decide +kernel

/-- The counter of a part of eight halls, with an open count. -/
def counter (c : Option CountRun) : State :=
  keyed { cand 5 with record := recOf 8 0 5 5, hallCand := false, mgr := { count := c }, round := 8 }
def run9 (halls : BitVec 8) (w : Bool) : CountRun := { round := 9, halls := halls, members := 3, verifier := false, waiting := w }
def fragment : State := domain { plain 3 8 with phase := .fragment, round := 8 }
def rejoin : RejoinMsg :=
  { domainId := [], epoch := 0, round := 8, halls := 0, cert := [], token := [], sig := [], body := [] }

theorem witness_CountsAndRejoin :
    on.isCounter 7 = false ∧ (counter none).isCounter 7 = true ∧ ((counter none).dom 7).mgr.count = none ∧
    (counter none).ownClaim 7 = none ∧ 1 ≤ recHallCount ((counter none).dom 7).record ∧
    ((counter (some (run9 0 false))).isCounter 7 = true ∧
      ((counter (some (run9 0 false))).dom 7).mgr.count = some (run9 0 false) ∧ (run9 0 false).waiting = false) ∧
    (let s := counter (some (run9 0x3F false)); let c := run9 0x3F false;
      (s.dom 7).mgr.count = some c ∧ s.inDomain 7 = true ∧ c.round = 9 ∧ c.round ≠ 8 ∧
      (7 : BitVec 3).toNat < recHallCount (s.dom 7).record ∧ c.halls.getLsbD 7 = false ∧
      popcount (setBitTo c.halls 7 true) < recHallCount (s.dom 7).record) ∧
    (let s := counter (some (run9 0x7F false)); let c := run9 0x7F false;
      (s.dom 7).mgr.count = some c ∧ c.halls.getLsbD 7 = false ∧
      recHallCount (s.dom 7).record ≤ popcount (setBitTo c.halls 7 true)) ∧
    recHallCount (recOf 7 0 5 5) ≤ (7 : BitVec 3).toNat ∧ (run9 0 true).waiting = true ∧
    (fragment.inDomain 7 = true ∧ (fragment.dom 7).round ≤ 8 ∧ (7 : BitVec 32) < (fragment.dom 7).round ∧
      quorumOf (recHallCount (fragment.dom 7).record) ≤ State.votesHeld 0x1F false 8 ∧
      State.votesHeld 0x0F false 8 < quorumOf (recHallCount (fragment.dom 7).record) ∧
      State.votesHeld 0x0F true 8 = quorumOf 8 ∧
      (fragment.dom 7).decls = [] ∧ (fragment.dom 7).phase = .fragment) ∧
    (let s := domain { plain 3 8 with round := 8 };
      s.inDomain 7 = true ∧ (s.dom 7).phase = .member ∧ s.red.progs = [] ∧ s.mem.fence = [] ∧ s.mem.waits = []) ∧
    (State.tokMember rejoin.token ≠ (fragment.counterOf 7).toNat ∧
      State.tokMember { rejoin with token := zeros 24 ++ leBytes 4 3 }.token = (fragment.counterOf 7).toNat) ∧
    (fragment.isCounter 7 = false ∧ fragment.running = true ∧ fragment.isFragment 7 = true ∧ on.isFragment 7 = false) ∧
    State.reset.running = false ∧ (on.dom 7).phase = .free ∧ (fragment.dom 7).phase ≠ .free ∧
    (7 : BitVec 9).toNat < 8 ∧ 8 ≤ (8 : BitVec 9).toNat ∧ (255 : BitVec 9).toNat < 256 := by decide +kernel


/-! ### HALT and Domain Time -/

/-- Link 63 AGREED with the system candidate 0xFFFFF, in a domain of that record. -/
def halting (x : Dom → Dom) : State :=
  let s := onLink agreedLink
  { s with doms := [(7, x { phase := .member, member := 3, record := recOf 8 0 0xFFFFF 5
                            keyList := [(0xFFFFF, [])], sysManager := 0xFFFFF })] }
def routeFrom (m : Member) (scope : Byte) : Route := { dst := 3, src := m, hops := 1, scope := scope, hall := 0, transfer := 0 }
def haltOf (classes scope : Byte) (us : BitVec 16) : HaltMsg :=
  { classes := classes, scope := scope, reason := 1, duration := us, reservedZero := true }

theorem witness_HaltGates :
    (on.link 63).core.phase ≠ .agreed ∧ (noLinks (halting id)).linkLive 63 = false ∧
    (let s := halting id;
      s.linkLive 63 = true ∧ (s.link 63).core.phase = .agreed ∧ (s.link 63).core.slot = 7 ∧
      s.haltOk 7 (routeFrom 0xFFFFF 0) (haltOf 0x0E 1 0) = true ∧ s.haltOk 7 (routeFrom 0xFFFFF 0) (haltOf 0x0E 0 65535) = true ∧
      s.haltOk 7 (routeFrom 0xFFFFF 0) (haltOf 0x0E 0 0) = false ∧ s.haltOk 7 (routeFrom 0xFFFFF 0) (haltOf 0x10 1 0) = false ∧
      s.haltOk 7 (routeFrom 0xFFFFF 0) (haltOf 0x01 1 0) = false ∧ s.haltOk 7 (routeFrom 0xFFFFF 0) (haltOf 0 1 0) = false ∧
      s.haltOk 7 (routeFrom 0xFFFFF 1) (haltOf 0x0E 1 0) = false ∧ s.haltOk 7 (routeFrom 0xFFFFF 0) (haltOf 0x0E 2 0) = false ∧
      s.haltOk 7 (routeFrom 4 0) (haltOf 0x0E 1 0) = false ∧ s.haltLinks 7 0 0xFFFFF = [63] ∧ s.haltLinks 7 0 4 = []) ∧
    (State.haltForm (routeFrom 0xFFFFF 0) (haltOf 0x0E 1 0) = true ∧ (haltOf 0x0E 1 0).duration = 0 ∧
      (haltOf 0x0E 1 1).duration ≠ 0 ∧ State.haltForm (routeFrom 0xFFFFF 0) (haltOf 0x80 1 0) = false) := by decide +kernel

/-- Link 63 with a partner of a stratum, in a slot with its time. -/
def timed (stratum : BitVec 4) (x : DomTime) : State :=
  { onLink { agreedLink with tc0 := { peerStratum := stratum } } with doms := [(7, { phase := .member, member := 3, sysManager := 4
                                                                                     record := recOf 8 0 5 5, time := x })] }
def timeOf (stratum : Byte) (t2 t3 : BitVec 64) : TimeMsg :=
  { stratum := stratum, seq := 6, t2 := t2, t3prev := t3, reservedZero := true }
def childTime (x : DomTime → DomTime) : DomTime :=
  x { stratum := 15 - 1, parentLink := 63, seq := 6, t2prev := 16002, t4prev := 1, run := 2, synced := true }

theorem witness_DomainTime :
    on.inDomain 7 = false ∧
    (let s := halting fun k => { k with activeSm := true }; s.inDomain 7 = true ∧ s.isTimeSource 7 = true) ∧
    (let s := timed 14 {};
      s.inDomain 7 = true ∧ s.isTimeSource 7 = false ∧ s.timeParent 7 = some 63) ∧
    (let s := timed 15 {};
      s.inDomain 7 = true ∧ s.isTimeSource 7 = false ∧ s.timeParent 7 = none ∧ s.agreedLinks 7 = [63]) ∧
    (let s := domain (plain 3 1);
      s.inDomain 7 = true ∧ s.isTimeSource 7 = false ∧ s.agreedLinks 7 = []) ∧
    (on.link 63).core.phase ≠ .agreed ∧
    (let s := timed 14 (childTime id); let k := (s.dom 7).time;
      s.linkLive 63 = true ∧ (s.link 63).core.phase = .agreed ∧ (s.link 63).core.slot = 7 ∧ s.inDomain 7 = true ∧
      15 < (timeOf 16 0 0).stratum.toNat ∧ (timeOf 15 0 0).stratum.toNat ≤ 15 ∧ (timeOf 15 1 0).t2 ≠ 0 ∧
      (timeOf 15 0 0).t2 = 0 ∧ (timeOf 15 0 0).t3prev = 0 ∧ (timeOf 15 0 0).seq = k.seq ∧ k.stratum ≠ 15 ∧ k.stratum ≠ 0 ∧
      k.parentLink = 63 ∧ k.t2prev ≠ 0 ∧ k.synced = true ∧ 2 ≤ k.run ∧
      8000 < ((k.t2prev - (k.t1prev + 8 * k.corr)).toInt - ((k.t4prev + 8 * k.corr) - 1).toInt) / 2) ∧
    (let k := childTime fun k => { k with t2prev := 161, t4prev := 1 };
      (((k.t2prev - (k.t1prev + 8 * k.corr)).toInt - ((k.t4prev + 8 * k.corr) - 1).toInt) / 2).natAbs ≤ 80) ∧
    (let k := childTime fun k => { k with t2prev := 1602, t4prev := 1 };
      800 < (((k.t2prev - (k.t1prev + 8 * k.corr)).toInt - ((k.t4prev + 8 * k.corr) - 1).toInt) / 2).natAbs ∧
      ((k.t2prev - (k.t1prev + 8 * k.corr)).toInt - ((k.t4prev + 8 * k.corr) - 1).toInt) / 2 ≤ 8000) ∧
    (childTime fun k => { k with synced := false }).synced = false ∧ (childTime fun k => { k with t2prev := 0 }).t2prev = 0 ∧
    on.running = true ∧ State.reset.running = false := by decide +kernel

/-! ### Virtual devices -/

def devices (vds : Tab Vd) (p : DomPhase) : State :=
  { on with vd := { vds := vds }, doms := [(7, { phase := p })] }
def vdIn (x : Vd → Vd) : Tab Vd := [(62, { present := true }), (63, x { present := true })]
def res (k : BitVec 2) (i : BitVec 8) : VdReq := (vdReq0 0 63).withRes k i

theorem witness_VirtualDevices :
    State.reset.vdOn = false ∧ on.vdOn = true ∧ (on.vdev 63).present = false ∧
    ((2 : BitVec 2) = 2 ∧ 1 ≤ (15 : BitVec 8).toNat ∧ (15 : BitVec 8).toNat ≤ 15 ∧ (31 : BitVec 8).toNat < 32 ∧
      (63 : BitVec 8).toNat < 64 ∧ ¬ (0 : BitVec 8).toNat ≥ 1 ∧ ¬ (32 : BitVec 8).toNat < 32 ∧ ¬ (64 : BitVec 8).toNat < 64 ∧
      ¬ (16 : BitVec 8).toNat ≤ 15) ∧
    ((devices [] .fragment).isFragment 7 = true ∧ (devices [] .member).isFragment 7 = false) ∧
    (let s := devices (vdIn id) .member; let t := { s with fe := { s.fe with ctxs := [(5, { phase := .active, vd := some 63 })] } };
      (s.vdev 63).present = true ∧ (s.liveCtxs.any fun c => (s.ctx c).vd == some 63) = false ∧
      (t.vdev 63).present = true ∧ (t.liveCtxs.any fun c => (t.ctx c).vd == some 63) = true ∧
      (s.vdev 63).chans = 0 ∧ (s.vdev 63).links = 0 ∧ (s.vdev 63).keys = 0 ∧ (s.vdev 63).progs = 0 ∧ (s.vdev 63).slot = none ∧
      ((devices [] .free).dom 7).phase = .free) ∧
    ((inPool (devices (vdIn id) .member)).poolRole = true ∧ on.poolRole = false ∧ ((devices (vdIn id) .member).vdev 61).present = false) ∧
    (let s := devices (vdIn fun x => { x with chans := 1 <<< 31, links := 1 <<< 63, keys := 1 <<< 15, progs := 1 <<< 255 }) .member;
      s.holderOf (res 0 31) = some 63 ∧ s.holderOf (res 1 63) = some 63 ∧ s.holderOf (res 3 255) = some 63 ∧
      s.boundTo (res 0 31) 63 = true ∧ s.boundTo (res 1 63) 63 = true ∧ s.boundTo (res 2 15) 63 = true ∧
      s.boundTo (res 3 255) 63 = true ∧ s.boundTo (res 0 30) 63 = false ∧ s.boundTo (res 3 254) 63 = false ∧
      s.holderOf (res 0 30) = none ∧ s.holderOf (res 1 62) = none ∧ s.holderOf (res 3 254) = none ∧
      (63 : VdId) ≠ 62 ∧ s.red.progs = [] ∧ s.fe.objs = [] ∧ (s.vdev 63).slot = none ∧ (s.vdev 62).present = true) ∧
    (let s := devices (vdIn fun x => { x with slot := some 7 }) .member;
      (s.vdev 63).slot = some 7 ∧ s.isFragment 7 = false ∧ (s.memIdx 15).assigned = false ∧ s.boundTo (res 2 15) 63 = false ∧
      (let t := { s with mem := { s.mem with idx := [(15, { assigned := true, slot := 7 })] } };
        (t.memIdx 15).assigned = true ∧ (t.memIdx 15).slot = 7) ∧
      (let t := { s with mem := { s.mem with idx := [(15, { assigned := true, slot := 6 })] } };
        (t.memIdx 15).assigned = true ∧ (t.vdev 63).slot ≠ some (t.memIdx 15).slot)) ∧
    (let s := devices (vdIn fun x => { x with slot := some 7 }) .fragment;
      s.isFragment 7 = true ∧ (s.vdev 63).slot = some 7 ∧ s.holderOf (res 0 0) = none) := by decide +kernel

/-! ### Ill-formed commands, one for each check of `Instr.wellFormed` -/

theorem test_engine_refused : ¬ (Instr.engineStall 102 0).wellFormed ∧ ¬ (Instr.replayGuilty ⟨102, []⟩).wellFormed ∧
    ¬ (Instr.replayCleared ⟨102, []⟩).wellFormed ∧ ¬ (Instr.sramFault (some 102) false 0).wellFormed ∧
    (Instr.sramFault none true 0).wellFormed ∧ (Instr.engineStall 101 0).wellFormed := by simp [Instr.wellFormed]

theorem test_row_refused : ¬ (Instr.keyLimit 2833).wellFormed ∧ ¬ (Instr.keyInvalidate 2833 true).wellFormed ∧
    (Instr.keyLimit 2832).wellFormed := by simp [Instr.wellFormed]

theorem test_level_refused : ¬ (Instr.resetWatchdogExpiry 0 0 0).wellFormed ∧ ¬ (Instr.resetWatchdogExpiry 6 0 0).wellFormed ∧
    (Instr.resetWatchdogExpiry 5 0 0).wellFormed := by simp [Instr.wellFormed]

theorem test_environment_refused :
    ¬ (Instr.refclkReturn { env0 with otpBad := [72] }).wellFormed ∧
    ¬ (Instr.refclkReturn { env0 with keyRowsBad := [2833] }).wellFormed ∧
    ¬ (Instr.referenceSettleDelayEnd { env0 with laneFails := [(.svc, 14)] }).wellFormed ∧
    ¬ (Instr.fullStopDone { env0 with mcLines := 2 ^ 20 + 1 }).wellFormed ∧
    ¬ (Instr.fullStopDone { env0 with slot1 := { header := List.replicate 65 0, image := [] } }).wellFormed ∧
    (Instr.fullStopDone env0).wellFormed := by
  simp [Instr.wellFormed, StartEnv.wellFormed, FlashSlot.wellFormed, env0, ClusterId.lanes]

theorem test_partial_refused :
    ¬ (Instr.memPartialWrite .trustCore 0 0 (BitVec.allOnes 64) 0 false { status := 0, rdata := 0, rside := 0 }).wellFormed := by
  simp [Instr.wellFormed]

theorem test_units_refused : ¬ (Instr.receiveGroup 0 [{ valid := true, sog := false, bad := false, data := 0 }] false).wellFormed ∧
    (Instr.receiveGroup 0 (unitsOf openGroup) false).wellFormed := by
  constructor
  · simp [Instr.wellFormed]
  · exact ⟨_, List.mem_cons_self .., rfl, rfl⟩

theorem test_operands_refused : ¬ (Instr.dusProgram [72]).wellFormed ∧ ¬ (Instr.laneMismatch (.lk 63) ⟨8, 0, 0, true⟩).wellFormed ∧
    ¬ (Instr.laneMismatch (.mc 0) ⟨26, 0, 0, true⟩).wellFormed ∧ ¬ (Instr.dmaReadCompletion 0 0 4097 true).wellFormed ∧
    ¬ (Instr.mcLinesWrite 0 (2 ^ 20 + 1)).wellFormed ∧ ¬ (Instr.fabricTableSetup 0 0 0 (2 ^ 21 + 1)).wellFormed := by
  simp [Instr.wellFormed, ClusterId.lanes]

/-! ### The spec's own examples -/

/-- Chapter 5's example of R139: rows 0 and 1 read Production with a partial segment; another segment 2 is End of life. -/
theorem test_life_cycle_word :
    lcDecode (0x00000000C1825A3C ||| 0x0000000000005A3C) = { state := 2, isPartial := true } ∧
    lcPat2 &&& ~~~ 0xC182 = 0x0214 ∧ (lcDecode 0x00000000C5825A3C).invalid = true ∧
    (lcDecode 0x00000000C5825A3C).state = 3 := by decide

/-- Chapter 8's first example: the parts of DPA 0x0548_D159_E2C0, and three steps of the tweak. -/
theorem test_dpa_parts :
    dpaChan 0x0548D159E2C0 = 21 ∧ dpaLine 0x0548D159E2C0 = 0x2345678B ∧ dpaSub 0x0548D159E2C0 = 3 ∧
    xtsAlpha 0x80000000000000000000000000000001 = 0x85 ∧ xtsAlpha 0x85 = 0x010A ∧ xtsAlpha 0x010A = 0x0214 ∧
    (3 : KeyIdx) ++ (0x0A35C71 : BitVec 28) = (0x30A35C71 : BitVec 32) := by decide

/-- Chapter 9's example: a TC1 header and the IV of its group. -/
theorem test_group_header :
    leBytes 16 (groupHeader 0x52A31 19 5 2 destDeliver kindSealed 2 1 0x100 0x12F40).toNat =
      [0x40, 0x2F, 0x01, 0, 0, 0, 0, 0, 0x00, 0x13, 0x54, 0x4C, 0x10, 0xA3, 0x52, 0x00] ∧
    groupIv (0x5B0C379E <<< 256) 0x12F40 = [0x9E, 0x37, 0x0C, 0x5B, 0x40, 0x2F, 0x01, 0, 0, 0, 0, 0] ∧ groupUnits 256 = 18 := by
  decide +kernel

/-- Table 10-4. -/
theorem test_decoded_elements :
    decodeFp fFP16 0x0001 = { m := 1 } ∧ decodeFp fBF16 0x3F80 = { m := 2 ^ 133 } ∧
    decodeFp fE4M3 0xFE = { neg := true, m := 14 * 2 ^ 14 } ∧ decodeFp fE5M2 0x7C = { inf := true } ∧
    decodeMx (.mx fE2M1) 0x7 0x80 = { m := 12 * 2 ^ 128 } := by decide +kernel

/-- Three FP16 contributions in any order give 2,050 (R302's example). -/
theorem test_fp16_sum :
    (let a := slotCombine opSum 1; let x := decodeFp fFP16 0x6800; let y := decodeFp fFP16 0x3C00;
      let r (s : Acc) := (emitScalar (.float fFP16) 0 0 (slotResult opSum (fmtQ 1) 0 s)).1;
      r (a (a (a {} x) y) y) = 0x6801 ∧ r (a (a (a {} y) y) x) = 0x6801 ∧ r (a (a (a {} y) x) y) = 0x6801) := by decide +kernel

/-- Table 10-9: a MEAN over three under each mode. -/
theorem test_mean_modes :
    (let a := slotCombine opMean 0; let q := decodeFp fFP32 0x3E800000; let h := decodeFp fFP32 0x3F000000;
      let s := a (a (a {} q) h) q;
      let r (mode : BitVec 2) (w : Nat) := (emitScalar (.float fBF16) mode w (slotResult opMean (fmtQ 0) (meanSigma 3) s)).1;
      r 0 0 = 0x3EAB ∧ r 1 0 = 0x3EAA ∧ r 2 0xAAAAFFFF = 0x3EAB ∧ r 2 0xAAAB0000 = 0x3EAA) := by decide +kernel

/-- R313's example: an MXFP4 block begins 0x47, 0x09 under the scale 0x80. -/
theorem test_mx_block :
    (let b := (emitTile 9 0 [.fin false 12 0, .fin false 5 0, .fin true 3 (-2)] []).1;
      slice b 0 2 = [0x47, 0x09] ∧ byteAt b 16 = 0x80 ∧ b.length = 17) := by decide +kernel

/-- R316's example: a chunk of 36 bytes. -/
theorem test_xpf_chunk :
    xpfEncode opSum (-149) ([{ s := 3 * 2 ^ 148, nz := true, any := true }, { s := -(2 ^ 147), nz := true, any := true }] ++
      List.replicate 30 ({ nz := true, any := true } : Acc)) = [0xFE, 0x03, 0, 0, 0x06, 0xFF] ++ zeros 30 := by decide +kernel

/-- Chapter 14's example: the DPA of an entry's page and the header of a WRITE and its acknowledgement. -/
theorem test_fabric_record :
    ((0x2A003 : BitVec 22) ++ (0x159E : BitVec 15) ++ (0 : BitVec 6) : BitVec 43) = 0x5400656780 ∧ dpaChan 0x5400656780 = 1 ∧
    (let r : FabRec := { op := fabWrite, status := 0, tag := 0x31, line := 0x48D159E, mask := BitVec.allOnes 64, data := 0 };
      fabHeader r = [0xFF, 0xFF, 0xFF, 0xFF, 0xFF, 0xFF, 0xFF, 0xFF, 0x9E, 0x15, 0x8D, 0x04, 0x10, 0x03, 0x00, 0x02] ∧
      fabBytes { r with op := fabWriteAck, mask := 0 } =
        zeros 8 ++ [0x9E, 0x15, 0x8D, 0x04, 0x10, 0x03, 0x00, 0x82] ∧ (fabBytes r).length * 3 = 240) := by decide +kernel

/-- Chapter 15's example: a MEM_COPY whose destination ends beyond its object fails check 8, and its record. -/
def copyObj (va : BitVec 64) : Obj := { live := true, va := va, size := 0x400000, target := 0, rights := 3 }
theorem test_copy_example :
    (let d : Bytes := [0x02, 0x04, 0x01, 0, 0x17, 0, 0x03, 0, 0x13, 0, 0, 0, 0xA5, 0, 0, 0, 0, 0, 0, 0x30, 0, 0, 0, 0, 0, 0, 0, 0x20] ++
        [0, 0, 0, 0, 0x40, 0, 0x40, 0, 0, 0, 0, 0] ++ zeros 24;
      let s := front { activeCtx with vaSize := 0x40000000 } openFn [];
      let t := { s with fe := { s.fe with objs := [(State.objKey 1023 0, copyObj 0x20000000), (State.objKey 1023 1, copyObj 0x30000000)] } };
      t.fetchCheck 1023 4 d = .fail stLengthRange 0) ∧
    State.recBytes { cookie := 0xA500000013, status := stLengthRange, queue := 4, detail := 0, irq := true, opcode := opMemCopy,
                     layer := 0x17, operator := 3 } true = [0x13, 0, 0, 0, 0xA5, 0, 0, 0, 0x04, 0x01, 0x04, 0x01, 0, 0, 0, 0] := by
  decide +kernel

/-- Chapter 16's example: chunks, their host places, blocks and additional data. -/
theorem test_staging_example :
    (let b : Bytes := zeros 8 ++ leBytes 8 0x20001000 ++ leBytes 4 3 ++ leBytes 4 3000 ++ leBytes 8 4096 ++ leBytes 8 0x40 ++ zeros 8;
      let x := cmd 1023 4 7 0x0403 b [];
      stgTotal b = 9000 ∧ State.chunkLen b 0 = 4096 ∧ State.chunkLen b 2 = 808 ∧ State.chunkBlocks b 0 + State.chunkBlocks b 1 + State.chunkBlocks b 2 = 563 ∧
      State.chunkHost b 2 = stgHost b + 8224 ∧
      State.stgAad x 3 0 = [0x28, 0x23, 0, 0, 0, 0, 0, 0, 0x03, 0, 0, 0, 0, 0, 0, 0]) := by decide +kernel

/-- Chapter 17's example: 0xA042_8007 asks for a MOVE of channel 7 from virtual device 2 to 5. -/
theorem test_vd_request :
    vdReqOf 0xA0428007 = { op := 5, kind := 0, vd := 2, toVd := 5, index := 7 } := by decide

/-- Table 22-11, its first line with the values of the capture, and its later lines; link 5 enabled. -/
theorem test_accesses_around_link_5 :
    (let s := on; let a := s.regDo 9 false false {} 0x205F04 0;
      a.code = rcDenied ∧ a.data = 0xFFFFFFFF ∧
      (a.state.regDo 0 false false {} 0x20 0).data = 0x00205F04 ∧ (a.state.regDo 0 false false {} 0x24 0).data = 0x80000309 ∧
      (a.state.regDo 0 false false {} 0x205F06 0).code = rcDecode ∧ (a.state.regDo 0 false false {} 0x205F08 0).code = rcDecode ∧
      (a.state.regDo 0 false true {} 0x205F04 0x11).code = rcOkay ∧ (a.state.regDo 0 false false {} 0x260000 0).code = rcDecode ∧
      (let o := { a.state with clk := { s.clk with enLink := ~~~ (1 <<< 5) } };
        (o.regDo 0 false false {} 0x205F04 0).code = rcOff ∧ (o.regDo 9 false false {} 0x205F04 0).code = rcDenied)) := by
  decide +kernel

end Sys2Proof.Tests
end

section
/-! PROOFS. The register port: a refused access and its capture (R40, R609). -/

namespace Sys2Proof.Machine
namespace State

/-- R40 of an answer given on `s`: a code other than OKAY comes with all ones and leaves `s`. -/
def RegAnswer.RefusalHasNoEffect (s : State) (r : RegAnswer) : Prop :=
  r.code ≠ rcOkay → r.data = 0xFFFFFFFF ∧ r.state = s

theorem RegAnswer.refusalHasNoEffect_of_okay {s : State} {r : RegAnswer} (hc : r.code = rcOkay) :
    r.RefusalHasNoEffect s := fun hn => absurd hc hn

theorem regRefuse_refusalHasNoEffect (s : State) (c : BitVec 2) :
    (s.regRefuse c).RefusalHasNoEffect s := fun _ => ⟨rfl, rfl⟩

@[simp] theorem regReadDo_code (s : State) (fn : Fn) (addr : Nat) (r : RegDef) :
    (s.regReadDo fn addr r).code = rcOkay := by
  unfold regReadDo
  cases r.hi <;> rfl

/-- Orders 7 and 8 of Table 22-2: a read that is done and a write that is taken answer OKAY, all else is refused. -/
theorem regAccess_refusalHasNoEffect (s : State) (fn : Fn) (write : Bool) (addr : Nat) (w : Word) (r : RegDef) :
    (s.regAccess fn write addr w r).RefusalHasNoEffect s := by
  unfold regAccess
  split
  case isTrue =>
    split
    · exact RegAnswer.refusalHasNoEffect_of_okay (regReadDo_code ..)
    · exact s.regRefuse_refusalHasNoEffect _
  case isFalse =>
    split
    next => exact s.regRefuse_refusalHasNoEffect _
    next =>
      split
      · exact s.regRefuse_refusalHasNoEffect _
      · exact RegAnswer.refusalHasNoEffect_of_okay rfl

/-- Table 22-2: its orders 1 to 6 refuse on the state as it is, the last two are `regAccess`. -/
theorem regDecide_refusalHasNoEffect (s : State) (fn : Fn) (jtag write : Bool) (x : RegPins) (addr : Nat) (w : Word) :
    (s.regDecide fn jtag write x addr w).RefusalHasNoEffect s := by
  unfold regDecide
  split_ifs
  · exact s.regRefuse_refusalHasNoEffect _
  · exact fun _ => ⟨rfl, rfl⟩
  · exact s.regRefuse_refusalHasNoEffect _
  · split
    next => exact s.regRefuse_refusalHasNoEffect _
    next =>
      split_ifs
      · exact s.regRefuse_refusalHasNoEffect _
      · exact s.regRefuse_refusalHasNoEffect _
      · split
        · exact s.regRefuse_refusalHasNoEffect _
        · exact s.regAccess_refusalHasNoEffect _ _ _ _ _

/-- R609: the capture stands while it is valid. -/
theorem regCapture_of_eiValid {s : State} (hv : s.glb.eiValid = true) (fn : Fn) (write : Bool) (addr : BitVec 24)
    (code : BitVec 2) : s.regCapture fn write addr code = s := if_pos hv

theorem regCapture_of_not_eiValid {s : State} (hv : s.glb.eiValid = false) (fn : Fn) (write : Bool) (addr : BitVec 24)
    (code : BitVec 2) : s.regCapture fn write addr code = { s with glb := { s.glb with
      eiValid := true, eiWrite := write, eiCode := code, eiFn := fn, errAddr := addr } } := by
  simp [regCapture, hv]

/-- R40 with R609: beside the answer of `regDecide`, a refused access makes the capture at most. -/
theorem regDo_of_refused {s : State} {fn : Fn} {jtag write : Bool} {x : RegPins} {addr : BitVec 24} {w : Word}
    (hc : (s.regDo fn jtag write x addr w).code ≠ rcOkay) :
    (s.regDo fn jtag write x addr w).data = 0xFFFFFFFF ∧
    ((s.regDo fn jtag write x addr w).state = s ∨
      (s.regDo fn jtag write x addr w).state =
        s.regCapture fn write addr (s.regDo fn jtag write x addr w).code) := by
  have hdec := s.regDecide_refusalHasNoEffect fn jtag write x addr.toNat w
  unfold regDo at hc ⊢
  dsimp only at hc ⊢
  split_ifs at hc ⊢
  · obtain ⟨hdata, hstate⟩ := hdec hc
    exact ⟨hdata, .inl hstate⟩
  · obtain ⟨hdata, hstate⟩ := hdec hc
    exact ⟨hdata, .inr (by rw [hstate])⟩

theorem opReg_of_not_takes {s : State} (ht : s.regTakes = false) (fn : Fn) (write : Bool) (x : RegPins)
    (addr : BitVec 24) (w : Word) : s.opReg fn write x addr w = s := by
  simp [opReg, ht]

theorem opReg_of_takes {s : State} (ht : s.regTakes = true) (fn : Fn) (write : Bool) (x : RegPins)
    (addr : BitVec 24) (w : Word) : s.opReg fn write x addr w =
      (s.regDo fn false write x addr w).state.out
        (.regRsp (s.regDo fn false write x addr w).data (s.regDo fn false write x addr w).code) :=
  if_pos ht

end State

theorem exec_registerWrite (fn : Fn) (write : Bool) (addr : BitVec 24) (data : Word) (s : State) :
    exec (.registerWrite fn write addr data) s = .next (s.opReg fn write {} addr data).settleAll := rfl

/-- Settles O20: a refusal of Table 22-2 is decided on the state as it is, and the one thing added to it is the capture. -/
theorem refusedAccessHasNoEffect : Obligations.RefusedAccessHasNoEffect := by
  unfold Obligations.RefusedAccessHasNoEffect
  intro s fn w a d
  refine ⟨fun ht => ?_, fun ht => ?_⟩
  · rw [exec_registerWrite, State.opReg_of_not_takes ht]
  · refine ⟨_, _, _, by rw [exec_registerWrite, State.opReg_of_takes ht], fun hc => ?_⟩
    obtain ⟨hdata, hsame | hcap⟩ := State.regDo_of_refused hc
    · exact ⟨hdata, s.glb, hsame, fun _ => rfl, fun _ => .inl rfl⟩
    · cases hv : s.glb.eiValid with
      | true =>
        rw [State.regCapture_of_eiValid hv] at hcap
        exact ⟨hdata, s.glb, hcap, fun _ => rfl, fun _ => .inl rfl⟩
      | false =>
        rw [State.regCapture_of_not_eiValid hv] at hcap
        exact ⟨hdata, _, hcap, nofun, fun _ => .inr rfl⟩

end Sys2Proof.Machine
end

section
/-! PROOFS. KX_FE_SHARE at the register port (R470, Table 15-13). -/

namespace Sys2Proof.Machine

/-- The fields of KX_FE_SHARE do not overlap, and they fill the word (Table 15-13). -/
theorem fields_weight_rate_burst (weight : BitVec 8) (rate burst : BitVec 12) :
    fields [(24, weight.toNat), (12, rate.toNat), (0, burst.toNat)] = weight ++ rate ++ burst := by
  apply BitVec.eq_of_toNat_eq
  calc (fields [(24, weight.toNat), (12, rate.toNat), (0, burst.toNat)]).toNat
      = weight.toNat * 2 ^ 24 ||| rate.toNat * 2 ^ 12 ||| burst.toNat := by
        simp (disch := omega) [fields, Nat.mod_eq_of_lt]
    _ = (weight.toNat <<< 12 ||| rate.toNat) <<< 12 ||| burst.toNat := by
        rw [Nat.shiftLeft_or_distrib, ← Nat.shiftLeft_add, Nat.shiftLeft_eq, Nat.shiftLeft_eq]
    _ = (weight ++ rate ++ burst).toNat := by rw [BitVec.toNat_append, BitVec.toNat_append]

/-- Where KX_FE_SHARE of a function and queue lies in the front end area (R470). -/
def shareOffset (f : Fn) (q : BitVec 3) : Nat := 0x1000 + 0x20 * f.toNat + 4 * q.toNat

/-- The address of KX_FE_SHARE of a function and queue (R470). -/
def shareAddr (f : Fn) (q : BitVec 3) : BitVec 24 := BitVec.ofNat 24 (0x011000 + 0x20 * f.toNat + 4 * q.toNat)

theorem shareAddr_toNat (f : Fn) (q : BitVec 3) : (shareAddr f q).toNat = 0x10000 + shareOffset f q := by
  have hf := f.isLt
  have hq := q.isLt
  simp only [shareAddr, shareOffset, BitVec.toNat_ofNat]
  omega

theorem shareOffset_lt (f : Fn) (q : BitVec 3) : shareOffset f q < 0x3020 := by
  have hf := f.isLt
  have hq := q.isLt
  unfold shareOffset
  omega

theorem shareAddr_mod_four (f : Fn) (q : BitVec 3) : (shareAddr f q).toNat % 4 = 0 := by
  rw [shareAddr_toNat, shareOffset]
  omega

theorem regAreaOf_shareAddr (f : Fn) (q : BitVec 3) :
    regAreaOf (shareAddr f q).toNat = some (.frontEnd, shareOffset f q) := by
  have hlt := shareOffset_lt f q
  have hh : (0x10000 + shareOffset f q) / 0x10000 = 1 := by omega
  have ho : (0x10000 + shareOffset f q) % 0x10000 = shareOffset f q := by omega
  simp [regAreaOf, shareAddr_toNat, hh, ho]

namespace State

@[simp] theorem shareOf_modShare_same (s : State) (f : Fn) (q : BitVec 3) (g : Share → Share) :
    (s.modShare f q g).shareOf f q = g (s.shareOf f q) := by
  simp [shareOf, modShare]

/-- R470: the offset names the function and the queue. -/
theorem regFrontEnd_shareOffset (s : State) (x : RegPins) (f : Fn) {q : BitVec 3} (h1 : 1 ≤ q.toNat)
    (h4 : q.toNat ≤ 4) : s.regFrontEnd x (shareOffset f q) = s.shareReg f q := by
  have hf := f.isLt
  have hrange : 0x1000 ≤ shareOffset f q ∧ shareOffset f q < 0x3000 := by unfold shareOffset; omega
  have hfn : (shareOffset f q - 0x1000) / 0x20 = f.toNat := by unfold shareOffset; omega
  have hqueue : shareOffset f q % 0x20 / 4 = q.toNat := by unfold shareOffset; omega
  simp [regFrontEnd, hrange, hfn, hqueue, h1, h4]

theorem regTakes_of_running {s : State} (hrun : s.running = true) (hport : s.portOn portReg = true) :
    s.regTakes = true := by
  have hphase : s.sys.phase = .running := by simpa [running] using hrun
  simp [regTakes, hphase, hport]

/-- Table 22-2 from its order 4 on: what a running block answers at an aligned address of an area. -/
theorem regDecide_of_running {s : State} (hrun : s.running = true) {addr off : Nat} {a : RegArea}
    (halign : addr % 4 = 0) (harea : regAreaOf addr = some (a, off)) (fn : Fn) (jtag write : Bool) (x : RegPins)
    (w : Word) : s.regDecide fn jtag write x addr w =
      if regAdmits fn write a off = false then s.regRefuse rcDenied
      else if s.regAreaOn a = false then s.regRefuse rcOff
      else (s.regAt fn jtag x a off).elim (s.regRefuse rcDecode) (s.regAccess fn write addr w) := by
  have hphase : s.sys.phase = .running := by simpa [running] using hrun
  simp only [regDecide, halign, harea, hphase, regShut, Bool.not_eq_true']
  cases s.regAt fn jtag x a off <;> rfl

/-- R609: what the capture touches is in the Global registers. -/
theorem regCapture_eq_glb (s : State) (fn : Fn) (write : Bool) (addr : BitVec 24) (code : BitVec 2) :
    ∃ g, s.regCapture fn write addr code = { s with glb := g } := by
  cases hv : s.glb.eiValid with
  | true => exact ⟨s.glb, regCapture_of_eiValid hv fn write addr code⟩
  | false => exact ⟨_, regCapture_of_not_eiValid hv fn write addr code⟩

section
variable {s : State} {fn : Fn} {write : Bool} {x : RegPins} {addr : BitVec 24} {w : Word}

theorem opReg_of_okay (ht : s.regTakes = true) {r : RegAnswer}
    (hd : s.regDecide fn false write x addr.toNat w = r) (hc : r.code = rcOkay) :
    s.opReg fn write x addr w = r.state.out (.regRsp r.data rcOkay) := by
  simp [opReg_of_takes ht, regDo, hd, hc]

theorem opReg_of_denied (ht : s.regTakes = true)
    (hd : s.regDecide fn false write x addr.toNat w = s.regRefuse rcDenied) :
    ∃ g, s.opReg fn write x addr w = ({ s with glb := g } : State).out (.regRsp 0xFFFFFFFF rcDenied) := by
  obtain ⟨g, hg⟩ := s.regCapture_eq_glb fn write addr rcDenied
  have hdo : s.regDo fn false write x addr w = { s.regRefuse rcDenied with state := { s with glb := g } } := by
    rw [← hg, regDo, hd]
    rfl
  exact ⟨g, by rw [opReg_of_takes ht, hdo]; rfl⟩

end

section
variable {s : State} (hrun : s.running = true) (f : Fn) (q : BitVec 3) (jtag write : Bool) (x : RegPins) (w : Word)
include hrun

/-- R470: the front end area admits the PF alone. -/
theorem regDecide_shareAddr_vf {v : Fn} (hv : v ≠ 0) :
    s.regDecide v jtag write x (shareAddr f q).toNat w = s.regRefuse rcDenied := by
  rw [regDecide_of_running hrun (shareAddr_mod_four f q) (regAreaOf_shareAddr f q)]
  exact if_pos (beq_eq_false_iff_ne.mpr hv)

variable {q} (h1 : 1 ≤ q.toNat) (h4 : q.toNat ≤ 4) (hon : s.areaOn areaFrontEnd = true)
include h1 h4 hon

/-- R470: with its area enabled, an access of the PF is one of the share register. -/
theorem regDecide_shareAddr_pf : s.regDecide 0 jtag write x (shareAddr f q).toNat w =
    (s.shareReg f q).elim (s.regRefuse rcDecode) (s.regAccess 0 write (shareAddr f q).toNat w) := by
  rw [regDecide_of_running hrun (shareAddr_mod_four f q) (regAreaOf_shareAddr f q)]
  simp [regAdmits, regAreaOn, hon, regAt, s.regFrontEnd_shareOffset x f h1 h4]

theorem regDecide_shareAddr_read : s.regDecide 0 jtag false x (shareAddr f q).toNat w =
    { state := s, code := rcOkay,
      data := (s.shareOf f q).weight ++ (s.shareOf f q).rate ++ (s.shareOf f q).burst } := by
  rw [regDecide_shareAddr_pf hrun f jtag false x w h1 h4 hon, ← fields_weight_rate_burst]
  rfl

/-- R470: a write that sets weight or burst to 0. -/
theorem regDecide_shareAddr_write_zero (hz : w.extractLsb' 24 8 = 0 ∨ w.extractLsb' 0 12 = 0) :
    s.regDecide 0 jtag true x (shareAddr f q).toNat w = s.regRefuse rcDenied := by
  rw [regDecide_shareAddr_pf hrun f jtag true x w h1 h4 hon]
  simp only [shareReg, regRw, Option.elim, regAccess, if_pos hz]
  rfl

theorem regDecide_shareAddr_write (hnz : ¬ (w.extractLsb' 24 8 = 0 ∨ w.extractLsb' 0 12 = 0)) :
    s.regDecide 0 jtag true x (shareAddr f q).toNat w =
      { state := s.modShare f q fun h => { h with
          weight := w.extractLsb' 24 8, rate := w.extractLsb' 12 12, burst := w.extractLsb' 0 12 },
        code := rcOkay, data := 0 } := by
  rw [regDecide_shareAddr_pf hrun f jtag true x w h1 h4 hon]
  simp only [shareReg, regRw, Option.elim, regAccess, if_neg hnz]
  rfl

end

end State

/-- Settles O22: the address leads to the share register of its function and queue, whose write answers none exactly where
weight or burst would be 0; a VF is refused by the area before the register is looked at. -/
theorem shareRegister : Obligations.ShareRegister := by
  unfold Obligations.ShareRegister
  intro s f q d h1 h4 hrun hport hon
  have ht := State.regTakes_of_running hrun hport
  dsimp only
  rw [← shareAddr]
  simp only [exec_registerWrite]
  refine ⟨?read, ?vf, ?zero, ?write⟩
  case read => rw [State.opReg_of_okay ht (State.regDecide_shareAddr_read hrun f false {} d h1 h4 hon) rfl]
  case vf =>
    intro v w hv
    obtain ⟨g, hg⟩ := State.opReg_of_denied ht (State.regDecide_shareAddr_vf hrun f q false w {} d hv)
    exact ⟨g, by rw [hg]⟩
  case zero =>
    intro hz
    obtain ⟨g, hg⟩ := State.opReg_of_denied ht (State.regDecide_shareAddr_write_zero hrun f false {} d h1 h4 hon hz)
    exact ⟨g, by rw [hg]⟩
  case write =>
    intro hw hb
    have hd := State.regDecide_shareAddr_write hrun f false {} d h1 h4 hon (not_or.mpr ⟨hw, hb⟩)
    exact ⟨_, by rw [State.opReg_of_okay ht hd rfl], by simp⟩

end Sys2Proof.Machine
end

section
/-! PROOFS. The re-arm of a tamper input and its release (R577). -/

namespace Sys2Proof.Machine
namespace State

variable {s : State} {i : BitVec 2}

theorem rearmDo_of_latched (h : (s.tamper i).latched = true) :
    s.rearmDo i = s.setTamper i { s.tamper i with armPending := true } := if_pos h

theorem rearmDo_of_not_latched (h : (s.tamper i).latched = false) : s.rearmDo i = s := by
  simp [rearmDo, h]

theorem opRearmInput_of_islandOn (h : s.islandOn = true) : s.opRearmInput i = s.rearmDo i := if_pos h

theorem opRearmInput_of_not_islandOn (h : s.islandOn = false) : s.opRearmInput i = s := by
  simp [opRearmInput, h]

theorem opRearmRelease_of_armPending (h : (s.tamper i).armPending = true) :
    s.opRearmRelease i = s.setTamper i
      { s.tamper i with armPending := false, latched := false, masked := false, activeNow := false } := if_pos h

theorem opRearmRelease_of_not_armPending (h : (s.tamper i).armPending = false) :
    s.opRearmRelease i = s.setTamper i { s.tamper i with activeNow := false } := by
  simp [opRearmRelease, h]

variable (s i)

@[simp] theorem rearmDo_tamper_count : ((s.rearmDo i).tamper i).count = (s.tamper i).count := by
  cases h : (s.tamper i).latched with
  | true => rw [rearmDo_of_latched h, setTamper_tamper_same]
  | false => rw [rearmDo_of_not_latched h]

@[simp] theorem opRearmInput_tamper_count : ((s.opRearmInput i).tamper i).count = (s.tamper i).count := by
  cases h : s.islandOn with
  | true => rw [opRearmInput_of_islandOn h, rearmDo_tamper_count]
  | false => rw [opRearmInput_of_not_islandOn h]

@[simp] theorem opRearmRelease_tamper_count : ((s.opRearmRelease i).tamper i).count = (s.tamper i).count := by
  cases h : (s.tamper i).armPending with
  | true => rw [opRearmRelease_of_armPending h, setTamper_tamper_same]
  | false => rw [opRearmRelease_of_not_armPending h, setTamper_tamper_same]

end State

theorem exec_rearm (i : BitVec 2) (s : State) : exec (.rearm i) s = .next (s.opRearmInput i) := rfl

theorem exec_rearmRelease (i : BitVec 2) (s : State) : exec (.rearmRelease i) s = .next (s.opRearmRelease i) := rfl

/-- Settles O10: one equation per case of each operation, and each of them writes the input back with the count it read. -/
theorem rearmAndRelease : Obligations.RearmAndRelease := by
  unfold Obligations.RearmAndRelease
  intro s i
  simp only [exec_rearm, exec_rearmRelease]
  refine ⟨?latched, ?notLatched, ?islandOff, ?pending, ?notPending, ?count⟩
  case latched => exact fun hon hl => by rw [State.opRearmInput_of_islandOn hon, State.rearmDo_of_latched hl]
  case notLatched => exact fun hon hl => by rw [State.opRearmInput_of_islandOn hon, State.rearmDo_of_not_latched hl]
  case islandOff => exact fun hoff => by rw [State.opRearmInput_of_not_islandOn hoff]
  case pending => exact fun hp => by rw [State.opRearmRelease_of_armPending hp]
  case notPending => exact fun hp => by rw [State.opRearmRelease_of_not_armPending hp]
  case count =>
    rintro t (ht | ht) <;> cases ht
    · exact s.opRearmInput_tamper_count i
    · exact s.opRearmRelease_tamper_count i

end Sys2Proof.Machine
end

section
/-! PROOFS. What every command and every tick keeps, from the frame of each command, and the statements about the whole
block that follow from it. -/

namespace Sys2Proof

/-- The bit of a part in the masks of `Machine.Keeps`. -/
def Part.mask : Part → BitVec 24
  | .sys => 0x000001
  | .glb => 0x000002
  | .clk => 0x000004
  | .boot => 0x000008
  | .lcd => 0x000010
  | .otp => 0x000020
  | .keys => 0x000040
  | .lanes => 0x000080
  | .mem => 0x000100
  | .links => 0x000200
  | .doms => 0x000400
  | .flood => 0x000800
  | .fab => 0x001000
  | .fe => 0x002000
  | .vd => 0x004000
  | .red => 0x008000
  | .flt => 0x010000
  | .tray => 0x020000
  | .pwr => 0x040000
  | .isl => 0x080000
  | .tel => 0x100000
  | .freeCtr => 0x200000
  | .outs => 0x400000

/-- The mask of a footprint. -/
def Part.maskOf (ps : List Part) : BitVec 24 := ps.foldr (fun p k => p.mask ||| k) 0

/-- A mask holds the bit of a part exactly where the part is listed. -/
theorem Part.maskOf_and_mask {p : Part} {ps : List Part} (h : p ∉ ps) : Part.maskOf ps &&& p.mask = 0 := by
  induction ps with
  | nil => exact BitVec.zero_and
  | cons q ps ih =>
    obtain ⟨hq, hps⟩ := not_or.mp (mt List.mem_cons.mpr h)
    have hdisj : q.mask &&& p.mask = 0 := by revert hq; cases p <;> cases q <;> decide
    rw [Part.maskOf, List.foldr_cons, BitVec.and_or_distrib_right, hdisj]
    exact (BitVec.zero_or).trans (ih hps)

namespace Machine

/-- What a mask does not name is the same. -/
theorem Keeps.same {k : BitVec 24} {a b : State} (h : Keeps k a b) {p : Part} (hp : k &&& p.mask = 0) : p.same a b := by
  have off {i : Nat} (hi : p.mask.getLsbD i = true) : k.getLsbD i ≠ true := fun hk => by
    have hbit := congrArg (fun x : BitVec 24 => x.getLsbD i) hp
    simp [hk, hi] at hbit
  cases p with
  | sys => exact h.sys.resolve_left (off rfl)
  | glb => exact h.glb.resolve_left (off rfl)
  | clk => exact h.clk.resolve_left (off rfl)
  | boot => exact h.boot.resolve_left (off rfl)
  | lcd => exact h.lcd.resolve_left (off rfl)
  | otp => exact h.otp.resolve_left (off rfl)
  | keys => exact h.keys.resolve_left (off rfl)
  | lanes => exact h.lanes.resolve_left (off rfl)
  | mem => exact h.mem.resolve_left (off rfl)
  | links => exact h.links.resolve_left (off rfl)
  | doms => exact h.doms.resolve_left (off rfl)
  | flood => exact h.flood.resolve_left (off rfl)
  | fab => exact h.fab.resolve_left (off rfl)
  | fe => exact h.fe.resolve_left (off rfl)
  | vd => exact h.vd.resolve_left (off rfl)
  | red => exact h.red.resolve_left (off rfl)
  | flt => exact h.flt.resolve_left (off rfl)
  | tray => exact h.tray.resolve_left (off rfl)
  | pwr => exact h.pwr.resolve_left (off rfl)
  | isl => exact h.isl.resolve_left (off rfl)
  | tel => exact h.tel.resolve_left (off rfl)
  | freeCtr => exact h.freeCtr.resolve_left (off rfl)
  | outs => exact h.outs.resolve_left (off rfl)

/-- A frame holds under every larger mask. -/
theorem Keeps.within {m k : BitVec 24} {a b : State} (h : Keeps m a b)
    (hm : m ||| k = k := by dsimp only [Instr.touches]; decide) : Keeps k a b := by
  have := h.trans (Keeps.refl k b)
  rwa [hm] at this

/-- Every command keeps what lies outside its footprint, and what every step keeps. -/
theorem exec_keeps {i : Instr} {s t : State} (h : exec i s = .next t) : Keeps (Part.maskOf i.touches) s t := by
  cases i with
  | porBRise => exact (execPorBRise_keeps h).within
  | porBFall => exact (execPorBFall_keeps h).within
  | sysRstBPulse => exact (execSysRstBPulse_keeps h).within
  | refclkLost => exact (execRefclkLost_keeps h).within
  | refclkReturn => exact (execRefclkReturn_keeps h).within
  | referenceSettleDelayEnd => exact (execReferenceSettleDelayEnd_keeps h).within
  | fullStopDone => exact (execFullStopDone_keeps h).within
  | resetWatchdogExpiry => exact (execResetWatchdogExpiry_keeps h).within
  | resetReqComma => exact (execResetReqComma_keeps h).within
  | resetReqSemicolon => exact (execResetReqSemicolon_keeps h).within
  | resetReqColon => exact (execResetReqColon_keeps h).within
  | resetReqFullStop => exact (execResetReqFullStop_keeps h).within
  | registerWrite => exact (execRegisterWrite_keeps h).within
  | dbgAccess => exact (execDbgAccess_keeps h).within
  | memReadRequest => exact (execMemReadRequest_keeps h).within
  | memWriteRequest => exact (execMemWriteRequest_keeps h).within
  | memPartialWrite => exact (execMemPartialWrite_keeps h).within
  | mcResponse => exact (execMcResponse_keeps h).within
  | mcClkLost => exact (execMcClkLost_keeps h).within
  | mcClkRelock => exact (execMcClkRelock_keeps h).within
  | sweepStart => exact (execSweepStart_keeps h).within
  | sweepLine => exact (execSweepLine_keeps h).within
  | sweepUrgent => exact (execSweepUrgent_keeps h).within
  | lkUpRise => exact (execLkUpRise_keeps h).within
  | lkUpFall => exact (execLkUpFall_keeps h).within
  | linkClockStall => exact (execLinkClockStall_keeps h).within
  | linkClockQualified => exact (execLinkClockQualified_keeps h).within
  | lkTxCredit => exact (execLkTxCredit_keeps h).within
  | receiveGroup => exact (execReceiveGroup_keeps h).within
  | groupConfirm => exact (execGroupConfirm_keeps h).within
  | groupRepudiate => exact (execGroupRepudiate_keeps h).within
  | transmitGroup => exact (execTransmitGroup_keeps h).within
  | tc0TokenTick => exact (execTc0TokenTick_keeps h).within
  | floodCacheExpiry => exact (execFloodCacheExpiry_keeps h).within
  | deliveryClkLost => exact (execDeliveryClkLost_keeps h).within
  | deliveryClkRelock => exact (execDeliveryClkRelock_keeps h).within
  | linkPulseTimer => exact (execLinkPulseTimer_keeps h).within
  | partnerLost => exact (execPartnerLost_keeps h).within
  | linkBye l cause z => exact (execLinkBye_keeps (_cause := cause) h).within
  | tombstoneExpiry => exact (execTombstoneExpiry_keeps h).within
  | hello => exact (execHello_keeps h).within
  | reply => exact (execReply_keeps h).within
  | finish => exact (execFinish_keeps h).within
  | done => exact (execDone_keeps h).within
  | abort => exact (execAbort_keeps h).within
  | agreementAttemptTimeout => exact (execAgreementAttemptTimeout_keeps h).within
  | agreementRetry => exact (execAgreementRetry_keeps h).within
  | responderTimeout => exact (execResponderTimeout_keeps h).within
  | linkAgree => exact (execLinkAgree_keeps h).within
  | linkClose => exact (execLinkClose_keeps h).within
  | keyThreshold => exact (execKeyThreshold_keeps h).within
  | keyLimit => exact (execKeyLimit_keeps h).within
  | keyRoll => exact (execKeyRoll_keeps h).within
  | keyFuture => exact (execKeyFuture_keeps h).within
  | keyReady => exact (execKeyReady_keeps h).within
  | tenseRetryExpiry => exact (execTenseRetryExpiry_keeps h).within
  | pastGraceExpiry => exact (execPastGraceExpiry_keeps h).within
  | keyInvalidate => exact (execKeyInvalidate_keeps h).within
  | dusProgram => exact (execDusProgram_keeps h).within
  | laneMismatch => exact (execLaneMismatch_keeps h).within
  | laneBurstEnd => exact (execLaneBurstEnd_keeps h).within
  | patrol => exact (execPatrol_keeps h).within
  | ghashMismatch => exact (execGhashMismatch_keeps h).within
  | monitorWarning => exact (execMonitorWarning_keeps h).within
  | functionEnableWrite => exact (execFunctionEnableWrite_keeps h).within
  | trayEnable => exact (execTrayEnable_keeps h).within
  | trayAck => exact (execTrayAck_keeps h).within
  | trayIbiRepeat => exact (execTrayIbiRepeat_keeps h).within
  | pmLim => exact (execPmLim_keeps h).within
  | hdFlrValid => exact (execHdFlrValid_keeps h).within
  | dmaReadCompletion => exact (execDmaReadCompletion_keeps h).within
  | hostErrReport => exact (execHostErrReport_keeps h).within
  | sqTailWrite => exact (execSqTailWrite_keeps h).within
  | cqHeadWrite => exact (execCqHeadWrite_keeps h).within
  | descriptorFetch => exact (execDescriptorFetch_keeps h).within
  | arbitrationEpoch => exact (execArbitrationEpoch_keeps h).within
  | bucketRefill => exact (execBucketRefill_keeps h).within
  | commandCompletion c q k ok => exact (execCommandCompletion_keeps (_writeOk := ok) h).within
  | ctxRearm => exact (execCtxRearm_keeps h).within
  | cancel => exact (execCancel_keeps h).within
  | ctxCreate => exact (execCtxCreate_keeps h).within
  | ctxDestroy => exact (execCtxDestroy_keeps h).within
  | objMap => exact (execObjMap_keeps h).within
  | objUnmap => exact (execObjUnmap_keeps h).within
  | nop => exact (execNop_keeps h).within
  | memFill => exact (execMemFill_keeps h).within
  | memCopy => exact (execMemCopy_keeps h).within
  | csAesEnc => exact (execCsAesEnc_keeps h).within
  | csAesDec => exact (execCsAesDec_keeps h).within
  | csGhash => exact (execCsGhash_keeps h).within
  | stgRekey => exact (execStgRekey_keeps h).within
  | stgIn => exact (execStgIn_keeps h).within
  | stgOut => exact (execStgOut_keeps h).within
  | progLoad => exact (execProgLoad_keeps h).within
  | progGo => exact (execProgGo_keeps h).within
  | progUnload => exact (execProgUnload_keeps h).within
  | contributionTake => exact (execContributionTake_keeps h).within
  | budget => exact (execBudget_keeps h).within
  | fabricRequest => exact (execFabricRequest_keeps h).within
  | fabricTableLineRead => exact (execFabricTableLineRead_keeps h).within
  | fabricAccess => exact (execFabricAccess_keeps h).within
  | fabricResponse => exact (execFabricResponse_keeps h).within
  | fabMap => exact (execFabMap_keeps h).within
  | fabUnmap => exact (execFabUnmap_keeps h).within
  | spdmMsg => exact (execSpdmMsg_keeps h).within
  | certGet => exact (execCertGet_keeps h).within
  | haHello => exact (execHaHello_keeps h).within
  | haFinish => exact (execHaFinish_keeps h).within
  | haTimeout => exact (execHaTimeout_keeps h).within
  | haClose => exact (execHaClose_keeps h).within
  | mailboxReservedCode => exact (execMailboxReservedCode_keeps h).within
  | fnOpen => exact (execFnOpen_keeps h).within
  | drain => exact (execDrain_keeps h).within
  | retire => exact (execRetire_keeps h).within
  | debugChallenge => exact (execDebugChallenge_keeps h).within
  | debugUnlock => exact (execDebugUnlock_keeps h).within
  | lcToTest => exact (execLcToTest_keeps h).within
  | lcToProduction => exact (execLcToProduction_keeps h).within
  | lcToEndOfLife => exact (execLcToEndOfLife_keeps h).within
  | formHello => exact (execFormHello_keeps h).within
  | formFinish => exact (execFormFinish_keeps h).within
  | formationTimeout => exact (execFormationTimeout_keeps h).within
  | joinTicket => exact (execJoinTicket_keeps h).within
  | linkDeclare => exact (execLinkDeclare_keeps h).within
  | z2TableRow => exact (execZ2TableRow_keeps h).within
  | domainLeave => exact (execDomainLeave_keeps h).within
  | censusGet => exact (execCensusGet_keeps h).within
  | countStateGet => exact (execCountStateGet_keeps h).within
  | verifierVote => exact (execVerifierVote_keeps h).within
  | epochAdvance => exact (execEpochAdvance_keeps h).within
  | epochNotice => exact (execEpochNotice_keeps h).within
  | joinInvite => exact (execJoinInvite_keeps h).within
  | joinRequest => exact (execJoinRequest_keeps h).within
  | joinGrant => exact (execJoinGrant_keeps h).within
  | joinRefuse slot reason => exact (execJoinRefuse_keeps (_reason := reason) h).within
  | joinDone => exact (execJoinDone_keeps h).within
  | joinDoneTimeout => exact (execJoinDoneTimeout_keeps h).within
  | parseResume => exact (execParseResume_keeps h).within
  | depart => exact (execDepart_keeps h).within
  | handdown => exact (execHanddown_keeps h).within
  | mgrPulseTimer => exact (execMgrPulseTimer_keeps h).within
  | mgrPulse => exact (execMgrPulse_keeps h).within
  | mgrContactLoss => exact (execMgrContactLoss_keeps h).within
  | mgrTakeover => exact (execMgrTakeover_keeps h).within
  | mgrKeys => exact (execMgrKeys_keeps h).within
  | hallPulseTimer => exact (execHallPulseTimer_keeps h).within
  | hallPulse => exact (execHallPulse_keeps h).within
  | hallPulseLoss => exact (execHallPulseLoss_keeps h).within
  | rosterUpdate => exact (execRosterUpdate_keeps h).within
  | rosterAck => exact (execRosterAck_keeps h).within
  | rosterResend => exact (execRosterResend_keeps h).within
  | hallSummary => exact (execHallSummary_keeps h).within
  | censusSync => exact (execCensusSync_keeps h).within
  | countOpen => exact (execCountOpen_keeps h).within
  | voteClaim => exact (execVoteClaim_keeps h).within
  | countResult => exact (execCountResult_keeps h).within
  | rejoinReq => exact (execRejoinReq_keeps h).within
  | rejoinGrant => exact (execRejoinGrant_keeps h).within
  | rejoinWindowExpiry => exact (execRejoinWindowExpiry_keeps h).within
  | halt => exact (execHalt_keeps h).within
  | haltRelease => exact (execHaltRelease_keeps h).within
  | gateExpiry => exact (execGateExpiry_keeps h).within
  | timeExchangeTimer => exact (execTimeExchangeTimer_keeps h).within
  | timeReq => exact (execTimeReq_keeps h).within
  | timeResp => exact (execTimeResp_keeps h).within
  | timeLockLoss => exact (execTimeLockLoss_keeps h).within
  | blockTimeSave => exact (execBlockTimeSave_keeps h).within
  | islandTick => exact (execIslandTick_keeps h).within
  | engineStallSample => exact (execEngineStallSample_keeps h).within
  | engineStall => exact (execEngineStall_keeps h).within
  | replayGuilty => exact (execReplayGuilty_keeps h).within
  | replayCleared => exact (execReplayCleared_keeps h).within
  | trustCoreMismatch => exact (execTrustCoreMismatch_keeps h).within
  | sramFault => exact (execSramFault_keeps h).within
  | currentWindow => exact (execCurrentWindow_keeps h).within
  | throttleStep => exact (execThrottleStep_keeps h).within
  | droopCrossing => exact (execDroopCrossing_keeps h).within
  | droopRelease => exact (execDroopRelease_keeps h).within
  | energyInterval => exact (execEnergyInterval_keeps h).within
  | meterGo => exact (execMeterGo_keeps h).within
  | meterBoundary => exact (execMeterBoundary_keeps h).within
  | tamperLatch => exact (execTamperLatch_keeps h).within
  | rearm => exact (execRearm_keeps h).within
  | rearmRelease => exact (execRearmRelease_keeps h).within
  | keyRenew => exact (execKeyRenew_keeps h).within
  | lock => exact (execLock_keeps h).within
  | supplySwitch => exact (execSupplySwitch_keeps h).within
  | islandColdStart => exact (execIslandColdStart_keeps h).within
  | vdCreate => exact (execVdCreate_keeps h).within
  | vdDestroy => exact (execVdDestroy_keeps h).within
  | bind => exact (execBind_keeps h).within
  | unbind => exact (execUnbind_keeps h).within
  | move => exact (execMove_keeps h).within
  | vdSlot => exact (execVdSlot_keeps h).within
  | traceRunSet => exact (execTraceRunSet_keeps h).within
  | traceRunClear => exact (execTraceRunClear_keeps h).within
  | traceRingWrite => exact (execTraceRingWrite_keeps h).within
  | marker => exact (execMarker_keeps h).within
  | timeMark => exact (execTimeMark_keeps h).within
  | deliveryBeatAccept => exact (execDeliveryBeatAccept_keeps h).within
  | lkTxReady => exact (execLkTxReady_keeps h).within
  | receiveRingSpace => exact (execReceiveRingSpace_keeps h).within
  | countClose => exact (execCountClose_keeps h).within
  | protectedRangeWrite => exact (execProtectedRangeWrite_keeps h).within
  | mcLinesWrite => exact (execMcLinesWrite_keeps h).within
  | routeTableLoad => exact (execRouteTableLoad_keeps h).within
  | fabricTableSetup => exact (execFabricTableSetup_keeps h).within

/-- The command at the front of the queue runs on the state with the queue's rest. -/
theorem step_cons {s : State} {c : Instr} {rest : List Instr} (h : s.pending = c :: rest) :
    step s = exec c { s with pending := rest } := by simp only [step, h]

theorem step_nil {s : State} (h : s.pending = []) : step s = .next s.idle := by simp only [step, h]

/-- What every command and every tick keeps is kept by every step, from the state with the queue's rest on. -/
theorem step_keeps {s t : State} (h : step s = .next t) : ∃ rest, Keeps (BitVec.allOnes 24) { s with pending := rest } t := by
  cases hq : s.pending with
  | nil =>
    rw [step_nil hq] at h
    obtain rfl := Host.Outcome.next.inj h
    refine ⟨[], ?_⟩
    rw [← hq]
    exact State.idle_keeps (Keeps.refl _ _) rfl
  | cons c rest =>
    rw [step_cons hq] at h
    exact ⟨rest, (exec_keeps h).within (BitVec.or_allOnes)⟩

/-- Settles O1: `step` is `exec` of the front command, by definition. -/
theorem stepRunsFrontCommand : Obligations.StepRunsFrontCommand := by
  unfold Obligations.StepRunsFrontCommand
  exact fun c rest s => step_cons rfl

/-- Settles O5: every command and every tick programs fuses only. -/
theorem fusesNeverClear : Obligations.FusesNeverClear := by
  unfold Obligations.FusesNeverClear
  intro s t h
  obtain ⟨rest, hk⟩ := step_keeps h
  exact hk.fuses

/-- Settles O6: every command and every tick only adds to the record of outputs. -/
theorem outputsOnlyGrow : Obligations.OutputsOnlyGrow := by
  unfold Obligations.OutputsOnlyGrow
  intro s t h
  obtain ⟨rest, hk⟩ := step_keeps h
  exact hk.grew

/-- Settles O7: every command and every tick writes its tables through operations that keep them canonical; the queue is no
table. -/
theorem tablesStayCanonical : Obligations.TablesStayCanonical := by
  unfold Obligations.TablesStayCanonical
  intro s t hs h
  obtain ⟨rest, hk⟩ := step_keeps h
  obtain ⟨otp, links, doms, glb, keys, lanes, mem, fab, fe, vd, red, flt, pwr, isl, tel⟩ := hs
  exact hk.canon ⟨otp, links, doms, glb, keys, lanes, mem, fab, fe, vd, red, flt, pwr, isl, tel⟩

/-- Settles O8: every command and every tick keeps the rates in range. -/
theorem issueRatesStayInRange : Obligations.IssueRatesStayInRange := by
  unfold Obligations.IssueRatesStayInRange
  intro s t hs h
  obtain ⟨rest, hk⟩ := step_keeps h
  exact hk.rates hs

/-! ### The end of a step in a state in which nothing waits -/

theorem foldl_eq_of_fixed {α β : Type} {f : α → β → α} {a : α} {xs : List β} (h : ∀ x ∈ xs, f a x = a) :
    xs.foldl f a = a := by
  induction xs with
  | nil => rfl
  | cons x xs ih =>
    rw [List.foldl_cons, h x List.mem_cons_self]
    exact ih fun y hy => h y (List.mem_cons_of_mem x hy)

namespace State

theorem ringsRetry_of_none {s : State} (h : ∀ l : LinkId, ringWaits (s.link l) = []) : s.ringsRetry = s :=
  foldl_eq_of_fixed fun l _ => by rw [h l]; rfl

theorem deliverRetry_of_none {s : State} (h : ∀ l : LinkId, (s.link l).io.held = []) : s.deliverRetry = s :=
  foldl_eq_of_fixed fun l _ => by rw [h l]; rfl

theorem memEndsTell_of_none {s : State} (h : s.mem.ends = []) (n : Nat) : memEndsTell n s = s := by
  cases n with
  | zero => rfl
  | succ n => simp only [memEndsTell, h]

theorem cmdsSettle_of_open {s : State} (h : ∀ x ∈ s.fe.cmds, x.issued = true → x.result = none → s.cmdOpen x = true) :
    s.cmdsSettle = s :=
  foldl_eq_of_fixed fun x hx => if_neg (by
    intro hc
    simp only [Bool.and_eq_true, Bool.not_eq_true', Option.isNone_iff_eq_none] at hc
    obtain ⟨⟨hi, hr⟩, ho⟩ := hc
    rw [h x hx hi hr] at ho
    cases ho)

theorem settleIters_of_none {s : State} (h : s.progsInUse = []) : s.settleIters = s := by rw [settleIters, h]; rfl

/-- In a state in which nothing waits the end of a step changes nothing. -/
theorem settleAll_of_still {s : State} (h : s.still) : s.settleAll = s := by
  obtain ⟨hr, hh, he, hc, hp⟩ := h
  rw [settleAll, ringsRetry_of_none hr, memSettle, memEndsTell_of_none he, cmdsSettle_of_open hc, settleIters_of_none hp,
    deliverRetry_of_none hh]

end State

/-- Settles O4, from the frame of each command and that of the end of a step. -/
theorem frameOfEveryCommand : Obligations.FrameOfEveryCommand := by
  unfold Obligations.FrameOfEveryCommand
  refine ⟨fun i s t h => ?_, fun s h => State.settleAll_of_still h, fun s p hp => ?_⟩
  · have hk := exec_keeps h
    exact ⟨hk.pending, fun p hp => hk.same (Part.maskOf_and_mask hp)⟩
  · have hk : Keeps (Part.maskOf Part.settled) s s.settleAll := State.settleAll_keeps (Keeps.refl _ _) rfl
    exact hk.same (Part.maskOf_and_mask hp)

/-! ### A tick -/

namespace State

theorem pmFlush_of_off {s : State} (h : s.portOn portPm = false) : s.pmFlush = s := by simp [pmFlush, h]

theorem pmFlush_of_none {s : State} (hb : s.pwr.budQueue = []) (hw : ∀ e ∈ s.red.progs, e.2.skewWord = none) :
    s.pmFlush = s := by
  have hf : s.red.progs.filter (fun e => e.2.skewWord.isSome) = [] :=
    List.filter_eq_nil_iff.mpr fun e he => by simp [hw e he]
  simp [pmFlush, hf, skewPump, hb]

theorem pmFlush_sys (s : State) : s.pmFlush.sys = s.sys :=
  (pmFlush_keeps (Keeps.refl 0x648000 s) rfl).sys.resolve_left (by decide)

theorem pmFlush_doms (s : State) : s.pmFlush.doms = s.doms :=
  (pmFlush_keeps (Keeps.refl 0x648000 s) rfl).doms.resolve_left (by decide)

theorem idle_of_not_timeRuns {s : State} (h : s.timeRuns = false) : s.idle = s := by simp [idle, h]

/-- A tick while time runs and refclk is up. -/
theorem idle_of_refclk {s : State} (h : s.timeRuns = true) (hr : s.sys.refclk = true) :
    s.idle = { s.pmFlush with
      sys := { s.sys with btime := s.sys.btime + 1 }
      doms := if (s.now + 1).toNat % 1000 = 0 then Tab.mapAll {} (fun _ k => steerDom k) s.doms else s.doms } := by
  have hn : s.pmFlush.now = s.now := by rw [now, now, pmFlush_sys]
  simp only [idle, h, pmFlush_sys, hr, hn, Bool.true_or, Bool.not_true, if_true, if_false, Bool.false_eq_true]
  split <;> simp [now, pmFlush_doms] 

end State

/-- Settles O2. -/
theorem emptyQueueTicks : Obligations.EmptyQueueTicks := by
  unfold Obligations.EmptyQueueTicks
  intro s hq
  rw [step_nil hq]
  refine ⟨fun hoff => by rw [State.idle_of_not_timeRuns hoff], fun hon hr => ⟨_, rfl, ?_⟩⟩
  rw [State.idle_of_refclk hon hr]
  refine ⟨rfl, rfl, fun hm => if_neg hm, ?_⟩
  rintro (hoff | ⟨hb, hw⟩)
  · exact State.pmFlush_of_off hoff
  · exact State.pmFlush_of_none hb hw

/-! ### Stops -/

theorem engines_of_wellFormed {i : Instr} (h : i.wellFormed) : ∀ e ∈ i.engines, e ≤ 101 := by
  cases i with
  | engineStall e r => exact (Laws.EnginesExist.engineStall e r h).1
  | replayGuilty x => exact (Laws.EnginesExist.replayGuilty x h).1
  | replayCleared x => exact (Laws.EnginesExist.replayCleared x h).1
  | sramFault e m r => exact (Laws.EnginesExist.sramFault e m r h).1
  | _ => exact fun _ he => nomatch he

/-- A command all of whose engines are those of Table 18-1 answers a next state. -/
theorem exec_next_of_engines {i : Instr} (s : State) (h : ∀ e ∈ i.engines, e ≤ 101) : ∃ t, exec i s = .next t := by
  cases i with
  | engineStall e r => exact ⟨_, if_neg (Nat.not_lt.mpr (h _ (List.mem_singleton_self _)))⟩
  | replayGuilty x => exact ⟨_, if_neg (Nat.not_lt.mpr (h _ (List.mem_singleton_self _)))⟩
  | replayCleared x => exact ⟨_, if_neg (Nat.not_lt.mpr (h _ (List.mem_singleton_self _)))⟩
  | sramFault e m r =>
    cases e with
    | none => exact ⟨_, rfl⟩
    | some n => exact ⟨_, if_neg (Nat.not_lt.mpr (h _ (List.mem_singleton_self _)))⟩
  | mailboxReservedCode h code =>
    cases hc : mbxCodes.contains code.toNat with
    | true => exact ⟨s, if_pos hc⟩
    | false => exact ⟨_, if_neg (Bool.eq_false_iff.mp hc)⟩
  | _ => exact ⟨_, rfl⟩

/-- Settles O3. -/
theorem commandsNeverStop : Obligations.CommandsNeverStop := by
  unfold Obligations.CommandsNeverStop
  refine ⟨fun i s hw => ?_, fun i s => exec_next_of_engines s, fun s e r m a he => ?_⟩
  · exact exec_next_of_engines s (engines_of_wellFormed hw)
  · exact ⟨if_pos he, if_pos he, if_pos he, if_pos he⟩

/-- Settles O9, by evaluation of the reset state, a table with no entry being canonical. -/
theorem resetState : Obligations.ResetState := by
  unfold Obligations.ResetState
  refine ⟨rfl, rfl, rfl, rfl, rfl, rfl, rfl, rfl, rfl, rfl, rfl, rfl, rfl, ?rates, ?canon, rfl⟩
  case rates => unfold Pwr.ratesOk; decide
  case canon =>
    exact ⟨rfl, rfl, rfl, rfl, ⟨rfl, rfl⟩, rfl, ⟨rfl, rfl, rfl⟩, rfl, ⟨rfl, rfl, rfl, rfl, rfl, rfl⟩, rfl, rfl, rfl,
      ⟨rfl, rfl, rfl, rfl, rfl⟩, rfl, rfl⟩

end Machine

end Sys2Proof
end

section
/-! PROOFS. The order of contributions: each operation's step on a slot commutes with itself, a sum's as long as it keeps
within the slot (R301 to R306, R319). -/

namespace Sys2Proof.Machine

/-! ### MAX and MIN -/

/-- What MAX and MIN hold of one contribution that is no NaN, besides the NaN flag. -/
def Dec.picked (d : Dec) (nan : Bool) : Acc :=
  { s := if d.inf then 0 else d.int, pinf := d.inf && !d.neg, ninf := d.inf && d.neg,
    nz := !(d.neg && d.m == 0 && !d.inf), nan := nan, any := true, held := true }

/-- Whether MAX or MIN puts the second rank in the place of the first. -/
def rankBeats (max : Bool) (x y : Int × Int) : Bool := if max then rankLt x y else rankLt y x

theorem slotPick_nan {d : Dec} (h : d.nan = true) (a : Acc) (max : Bool) :
    slotPick a d max = { a with nan := true, any := true } := if_pos h

theorem slotPick_of_not_held {d : Dec} (h : d.nan = false) {a : Acc} (ha : a.held = false) (max : Bool) :
    slotPick a d max = d.picked a.nan := by simp [slotPick, h, ha, Dec.picked]

theorem slotPick_of_held {d : Dec} (h : d.nan = false) {a : Acc} (ha : a.held = true) (max : Bool) :
    slotPick a d max = if rankBeats max (accRank a) (accRank (d.picked a.nan)) then d.picked a.nan else a := by
  simp only [slotPick, h, ha, rankBeats, Bool.not_true, Bool.false_eq_true, if_false]
  rfl

@[simp] theorem accRank_nan_any (a : Acc) (n y : Bool) : accRank { a with nan := n, any := y } = accRank a := rfl
theorem accRank_picked_nan (d : Dec) (n : Bool) : accRank (d.picked n) = accRank (d.picked false) := rfl

/-- The ranks of contributions: the infinities' and, with the sign of a zero below, twice the value. -/
theorem accRank_picked (d : Dec) (n : Bool) : accRank (d.picked n) =
    if d.inf then (if d.neg then (-1, 0) else (1, 0)) else (0, 2 * d.int + if d.m = 0 ∧ d.neg = false then 1 else 0) := by
  obtain ⟨neg, m, nan, inf⟩ := d
  cases inf <;> cases neg <;> simp [accRank, Dec.picked, Dec.int]

/-- Two contributions of one rank are held alike (R305). -/
theorem picked_eq_of_rank {d e : Dec} (h : accRank (d.picked false) = accRank (e.picked false)) (n : Bool) :
    d.picked n = e.picked n := by
  obtain ⟨dneg, dm, dnan, dinf⟩ := d
  obtain ⟨eneg, em, enan, einf⟩ := e
  rw [accRank_picked, accRank_picked] at h
  cases dinf <;> cases einf <;> cases dneg <;> cases eneg <;> simp [Dec.int] at h <;>
    simp [Dec.picked, Dec.int] <;> grind

/-- The places of two contributions that beat what is held and each other in neither or either order. -/
theorem rankBeats_cases (max : Bool) (x y : Int × Int) :
    rankBeats max x y = true ∧ rankBeats max y x = false ∨ rankBeats max x y = false ∧ rankBeats max y x = true ∨
      x = y ∧ rankBeats max x y = false := by
  obtain ⟨x1, x2⟩ := x
  obtain ⟨y1, y2⟩ := y
  cases max <;> simp [rankBeats, rankLt] <;> omega

theorem rankBeats_trans {max : Bool} {x y z : Int × Int} (h : rankBeats max x y = true) (g : rankBeats max y z = true) :
    rankBeats max x z = true := by
  obtain ⟨x1, x2⟩ := x
  obtain ⟨y1, y2⟩ := y
  obtain ⟨z1, z2⟩ := z
  cases max <;> simp [rankBeats, rankLt] at h g ⊢ <;> omega

theorem slotPick_picked {e : Dec} (he : e.nan = false) (d : Dec) (n max : Bool) : slotPick (d.picked n) e max =
    if rankBeats max (accRank (d.picked false)) (accRank (e.picked false)) then e.picked n else d.picked n := by
  rw [slotPick_of_held he rfl, accRank_picked_nan d, accRank_picked_nan e]; rfl

/-- Of two contributions the one that beats the other is held, whichever came first. -/
theorem slotPick_picked_comm {d e : Dec} (hd : d.nan = false) (he : e.nan = false) (n max : Bool) :
    slotPick (d.picked n) e max = slotPick (e.picked n) d max := by
  rw [slotPick_picked he, slotPick_picked hd]
  rcases rankBeats_cases max (accRank (d.picked false)) (accRank (e.picked false)) with ⟨h, g⟩ | ⟨h, g⟩ | ⟨h, -⟩
  · simp [h, g]
  · simp [h, g]
  · simp [picked_eq_of_rank h]

/-- What beats a held value beats it still after a contribution that does not. -/
theorem slotPick_comm_of_beaten {max : Bool} {a : Acc} {d e : Dec} (hd : d.nan = false) (he : e.nan = false)
    (ha : a.held = true) (hdb : rankBeats max (accRank a) (accRank (d.picked a.nan)) = false)
    (heb : rankBeats max (accRank a) (accRank (e.picked a.nan)) = true) :
    slotPick (slotPick a d max) e max = slotPick (slotPick a e max) d max := by
  have hed : rankBeats max (accRank (e.picked a.nan)) (accRank (d.picked a.nan)) = false :=
    Bool.eq_false_iff.mpr fun h => by rw [rankBeats_trans heb h] at hdb; cases hdb
  rw [slotPick_of_held hd ha, hdb, if_neg Bool.false_ne_true, slotPick_of_held he ha, heb, if_pos rfl, slotPick_picked hd,
    ← accRank_picked_nan d a.nan, ← accRank_picked_nan e a.nan, hed, if_neg Bool.false_ne_true]

theorem slotPick_comm_of_not_nan (max : Bool) (a : Acc) {d e : Dec} (hd : d.nan = false) (he : e.nan = false) :
    slotPick (slotPick a d max) e max = slotPick (slotPick a e max) d max := by
  cases ha : a.held with
  | false =>
    rw [slotPick_of_not_held hd ha, slotPick_of_not_held he ha]
    exact slotPick_picked_comm hd he a.nan max
  | true =>
    cases hdb : rankBeats max (accRank a) (accRank (d.picked a.nan)) <;>
      cases heb : rankBeats max (accRank a) (accRank (e.picked a.nan))
    · simp only [slotPick_of_held hd ha, slotPick_of_held he ha, hdb, heb, Bool.false_eq_true, if_false]
    · exact slotPick_comm_of_beaten hd he ha hdb heb
    · exact (slotPick_comm_of_beaten he hd ha heb hdb).symm
    · simp only [slotPick_of_held hd ha, slotPick_of_held he ha, hdb, heb, if_true]
      exact slotPick_picked_comm hd he a.nan max

/-- A NaN sets its flag and changes nothing else of what is held, before or after another contribution. -/
theorem slotPick_comm_of_nan {e : Dec} (he : e.nan = true) (max : Bool) (a : Acc) (d : Dec) :
    slotPick (slotPick a d max) e max = slotPick (slotPick a e max) d max := by
  cases hd : d.nan with
  | true => simp only [slotPick_nan he, slotPick_nan hd]
  | false =>
    cases ha : a.held with
    | false =>
      rw [slotPick_of_not_held hd ha, slotPick_nan he, slotPick_nan he,
        slotPick_of_not_held (a := { a with nan := true, any := true }) hd ha]
      rfl
    | true =>
      have after : slotPick { a with nan := true, any := true } d max =
          if rankBeats max (accRank a) (accRank (d.picked a.nan)) then d.picked true
          else { a with nan := true, any := true } := slotPick_of_held (a := { a with nan := true, any := true }) hd ha max
      rw [slotPick_of_held hd ha, slotPick_nan he, slotPick_nan he, after]
      split <;> rfl

/-- MAX and MIN take two contributions in either order (R305). -/
theorem slotPick_comm (max : Bool) (a : Acc) (d e : Dec) :
    slotPick (slotPick a d max) e max = slotPick (slotPick a e max) d max := by
  cases he : e.nan with
  | true => exact slotPick_comm_of_nan he max a d
  | false =>
    cases hd : d.nan with
    | true => exact (slotPick_comm_of_nan hd max a e).symm
    | false => exact slotPick_comm_of_not_nan max a hd he

/-! ### The bitwise operations -/

/-- AND, OR and exclusive or on patterns of one width. -/
def bitwise {w : Nat} (op : BitVec 4) (x y : BitVec w) : BitVec w :=
  if op = opAnd then x &&& y else if op = opOr then x ||| y else x ^^^ y

theorem bitwise_comm {w : Nat} (op : BitVec 4) (x y : BitVec w) : bitwise op x y = bitwise op y x := by
  unfold bitwise
  split_ifs
  · exact BitVec.and_comm x y
  · exact BitVec.or_comm x y
  · exact BitVec.xor_comm x y

theorem bitwise_right_comm {w : Nat} (op : BitVec 4) (x y z : BitVec w) :
    bitwise op (bitwise op x y) z = bitwise op (bitwise op x z) y := by
  unfold bitwise
  split_ifs
  · rw [BitVec.and_assoc, BitVec.and_comm y, BitVec.and_assoc]
  · rw [BitVec.or_assoc, BitVec.or_comm y, BitVec.or_assoc]
  · rw [BitVec.xor_assoc, BitVec.xor_comm y, BitVec.xor_assoc]

theorem slotBits2_eq (a : Acc) (w : Nat) (d : Dec) (op : BitVec 4) :
    slotBits2 a w d op = { a with
      s := (if a.any then bitwise op (BitVec.ofInt w a.s) (BitVec.ofInt w d.int) else BitVec.ofInt w d.int).toInt
      any := true, nz := true } := by
  cases h : a.any <;> simp [slotBits2, bitwise, h]

/-- The bitwise operations take two contributions in either order (R306). -/
theorem slotBits2_comm (a : Acc) (w : Nat) (d e : Dec) (op : BitVec 4) :
    slotBits2 (slotBits2 a w d op) w e op = slotBits2 (slotBits2 a w e op) w d op := by
  simp only [slotBits2_eq, if_true, BitVec.ofInt_toInt]
  split
  · rw [bitwise_right_comm]
  · rw [bitwise_comm]

/-! ### Sums -/

/-- A sum without a bound: what `slotAdd` does as long as it keeps within the slot. -/
def exactAdd (a : Acc) (d : Dec) : Acc :=
  let plain := !d.nan && !d.inf
  { a with
    any := true
    nan := a.nan || d.nan
    pinf := a.pinf || (!d.nan && d.inf && !d.neg)
    ninf := a.ninf || (!d.nan && d.inf && d.neg)
    nz := a.nz || (plain && !(d.neg && d.m == 0))
    s := if plain then a.s + d.int else a.s }

theorem exactAdd_comm (a : Acc) (d e : Dec) : exactAdd (exactAdd a d) e = exactAdd (exactAdd a e) d := by
  simp only [exactAdd, Acc.mk.injEq]
  refine ⟨?sum, ?_, ?_, ?_, trivial, trivial, ?_, trivial, trivial⟩
  case sum => split <;> split <;> omega
  all_goals exact Bool.or_right_comm _ _ _

theorem bitLen_le_of_lt {n k : Nat} (h : n < 2 ^ k) : bitLen n ≤ k := by
  unfold bitLen
  split
  · exact Nat.zero_le k
  · next hn => exact (Nat.log2_lt hn).mpr h

theorem natAbs_int (d : Dec) : d.int.natAbs = d.m := by
  unfold Dec.int
  split <;> simp

/-- A contribution that keeps within the slot is added exactly. -/
theorem slotAdd_eq_exactAdd {a : Acc} {d : Dec} {bits : Nat} (hp : a.ovfPos = false) (hn : a.ovfNeg = false)
    (h : a.s.natAbs + d.m < 2 ^ bits) : slotAdd a d bits = exactAdd a d := by
  have hlen : bitLen (a.s + d.int).natAbs ≤ bits := by
    refine bitLen_le_of_lt (Nat.lt_of_le_of_lt (Int.natAbs_add_le a.s d.int) ?_)
    rwa [natAbs_int]
  obtain ⟨s, nan, pinf, ninf, ovfPos, ovfNeg, nz, any, held⟩ := a
  obtain rfl : ovfPos = false := hp
  obtain rfl : ovfNeg = false := hn
  cases hnan : d.nan with
  | true => simp [slotAdd, exactAdd, hnan]
  | false =>
    cases hinf : d.inf with
    | true => cases hneg : d.neg <;> simp [slotAdd, exactAdd, hnan, hinf, hneg]
    | false =>
      simp only [slotAdd, exactAdd, hnan, hinf]
      cases hz : (d.neg && d.m == 0) <;> simp [hlen]

theorem exactAdd_natAbs_le (a : Acc) (d : Dec) : (exactAdd a d).s.natAbs ≤ a.s.natAbs + d.m := by
  have := Int.natAbs_add_le a.s d.int
  rw [natAbs_int] at this
  simp only [exactAdd]
  split <;> omega

/-- Contributions whose magnitudes together keep within the slot (R301, R303) are added exactly. -/
theorem foldl_slotAdd_eq_exactAdd {bits : Nat} {xs : List Dec} {a : Acc} (hp : a.ovfPos = false) (hn : a.ovfNeg = false)
    (h : a.s.natAbs + (xs.map (·.m)).sum < 2 ^ bits) :
    xs.foldl (fun b d => slotAdd b d bits) a = xs.foldl exactAdd a := by
  induction xs generalizing a with
  | nil => rfl
  | cons d xs ih =>
    rw [List.map_cons, List.sum_cons] at h
    rw [List.foldl_cons, List.foldl_cons, slotAdd_eq_exactAdd hp hn (by omega)]
    have := exactAdd_natAbs_le a d
    exact ih hp hn (by omega)

/-! ### Every operation -/

theorem slotCombine_of_sum {op : BitVec 4} (h : op.toNat ≤ 2) (code : BitVec 4) :
    slotCombine op code = fun a d => slotAdd a d (slotBits code) := by
  funext a d; exact if_pos h

/-- MAX, MIN and the bitwise operations take two contributions in either order. -/
theorem slotCombine_comm {op : BitVec 4} (h : ¬ op.toNat ≤ 2) (code : BitVec 4) (a : Acc) (d e : Dec) :
    slotCombine op code (slotCombine op code a d) e = slotCombine op code (slotCombine op code a e) d := by
  simp only [slotCombine, h, if_false]
  split_ifs
  · exact slotPick_comm true a d e
  · exact slotPick_comm false a d e
  · exact slotBits2_comm a _ d e op

/-- Settles O43: within the slot a sum is exact, and an exact sum, MAX, MIN and the bitwise operations take any two
contributions in either order. -/
theorem reductionOrderFree : Obligations.ReductionOrderFree := by
  unfold Obligations.ReductionOrderFree
  intro op code sigma xs ys hperm hfits
  congr 1
  by_cases hop : op.toNat ≤ 2
  · have hxs := hfits hop
    have hys : (ys.map (·.m)).sum < 2 ^ slotBits code := by rwa [← (hperm.map _).sum_eq]
    rw [slotCombine_of_sum hop, foldl_slotAdd_eq_exactAdd rfl rfl (by simpa using hxs),
      foldl_slotAdd_eq_exactAdd rfl rfl (by simpa using hys)]
    exact (hperm.foldl_eq' fun d _ e _ a => exactAdd_comm a d e) {}
  · exact (hperm.foldl_eq' fun d _ e _ a => slotCombine_comm hop code a d e) {}

end Sys2Proof.Machine
end

section
/-! PROOFS. A mailbox request whose body has another length than Table 16-1 gives (R474): VERIFIER_VOTE. -/

namespace Sys2Proof.Machine

/-- A running block whose PF has asked for 16 bytes: a header without a body. -/
def pfAsksHeaderOnly : State :=
  { sys := { phase := .running, refclk := true }
    clk := { enArea := BitVec.allOnes 10, enFn := BitVec.allOnes 256 }
    fe := { fns := [(0, { phase := .opened, mbx := { reqLen := 16, rspMax := 65536 } })] } }

/-- A header of the PF with no body. -/
def headerOnly : MbxHdr := { fn := 0, statusField := 0, bodyLen := 0, tag := 0, reservedZero := true, dmaOk := true }

/-- The status the PF's mailbox shows after a step. -/
def pfStatus : Host.Outcome State Fault Refusal → Status
  | .next t => (t.func 0).mbx.status
  | _ => 0

theorem pfAsksHeaderOnly_open : pfAsksHeaderOnly.mbxOpen headerOnly := by
  refine ⟨?_, rfl, Or.inl ?_⟩ <;> decide +kernel

/-- VERIFIER_VOTE answers a body of another length as one of a wrong format (R388). -/
theorem verifierVote_of_no_body : pfStatus (exec (.verifierVote headerOnly []) pfAsksHeaderOnly) = stDomainRecord := by
  decide +kernel

theorem reply_lengthRange_of_no_body :
    pfStatus (.next (pfAsksHeaderOnly.mbxReply headerOnly 0x0037 stLengthRange []).settleAll) = stLengthRange := by
  decide +kernel

/-- Refutes O48: a VERIFIER_VOTE without a body that passes every other check receives ST_DOMAIN_RECORD (R388), where the
statement has ST_LENGTH_RANGE for every body that is not of the length of Table 16-1. -/
theorem not_mailboxRequests : ¬ Obligations.MailboxRequests := by
  unfold Obligations.MailboxRequests
  intro h
  obtain ⟨commands, -⟩ := h pfAsksHeaderOnly
  obtain ⟨-, -, -, opened⟩ := commands (.verifierVote headerOnly []) headerOnly 0x0037 true (some 4772) rfl
  obtain ⟨-, judged⟩ := opened pfAsksHeaderOnly_open
  obtain ⟨-, -, ofBody⟩ := judged (by decide +kernel)
  have ends : exec (.verifierVote headerOnly []) pfAsksHeaderOnly =
      .next (pfAsksHeaderOnly.mbxReply headerOnly 0x0037 stLengthRange []).settleAll :=
    ofBody 4772 (fun _ => rfl) rfl rfl rfl (by decide)
  have status := congrArg pfStatus ends
  rw [verifierVote_of_no_body, reply_lengthRange_of_no_body] at status
  exact absurd status (by decide)

end Sys2Proof.Machine
end

section
/-! PROOFS. Current limits, the limit and droop throttles, and BUDGET messages (R70, R134, R551 to R558). -/

namespace Sys2Proof

theorem getLsbD_setBitTo {w : Nat} (x : BitVec w) {i : Nat} (b : Bool) (hi : i < w) (j : Nat) :
    (setBitTo x i b).getLsbD j = if j = i then b else x.getLsbD j := by
  have hbit : (BitVec.ofNat w (2 ^ i)).getLsbD j = decide (j = i) := by
    rw [BitVec.getLsbD_ofNat, Nat.testBit_two_pow]
    by_cases hj : j = i
    · simp [hj, hi]
    · simp [hj, Ne.symm hj]
  cases b <;> simp only [setBitTo, Bool.false_eq_true, if_false, if_true, BitVec.getLsbD_or, BitVec.getLsbD_and,
    BitVec.getLsbD_not, hbit]
  · by_cases hj : j = i
    · simp [hj]
    · simp only [hj, decide_false, Bool.not_false, Bool.and_true, if_false]
      cases hx : x.getLsbD j with
      | false => simp
      | true => simpa using BitVec.lt_of_getLsbD hx
  · by_cases hj : j = i <;> simp [hj]

namespace Machine

/-- A command's answer, given in another form. -/
theorem exec_next {i : Instr} {s t u : State} (h : exec i s = .next t) (e : t = u) : exec i s = .next u := e ▸ h

namespace State

/-! ### Limits and windows -/

theorem opWindow_of_running {s : State} (h : s.running = true) (x m : BitVec 16) :
    s.opWindow x m = { s with pwr := { s.pwr with
      measVkx := x, measVkm := m, windowNow := s.pwr.windowUs, limVkx := s.pwr.pendVkx.getD s.pwr.limVkx,
      limVkm := s.pwr.pendVkm.getD s.pwr.limVkm, pendVkx := none, pendVkm := none } } := by
  simp [opWindow, h]

theorem beforeStart_of_running {s : State} (h : s.running = true) : s.beforeStart = false := by
  have hp : s.sys.phase = .running := by simpa [running] using h
  simp [beforeStart, hp]

theorem opLim_of_running {s : State} (h : s.running = true) (hp : s.portOn portPm = true) (r : Rail) (v : BitVec 12) :
    s.opLim r v = s.takeLimit r v := by simp [opLim, beforeStart_of_running h, h, hp]

theorem opLim_of_beforeStart {s : State} (h : s.beforeStart = true) (r : Rail) (v : BitVec 12) :
    s.opLim r v = { s with sys := { s.sys with pmLimPending := s.sys.pmLimPending ++ [(r, v)] } } := if_pos h

theorem takeLimit_zero (s : State) (r : Rail) :
    s.takeLimit r 0 = { s with pwr := { s.pwr with zeroCount := satInc s.pwr.zeroCount } } := if_pos rfl

/-- A limit within the ceiling of its rail waits for the next window as it is. -/
theorem takeLimit_of_le {s : State} {r : Rail} {v : BitVec 12} (h0 : v ≠ 0) (hv : v.toNat ≤ limCeiling r) :
    s.takeLimit r v = match r with
      | .vkx => { s with pwr := { s.pwr with limClamped := s.pwr.limClamped, pendVkx := some v } }
      | .vkm => { s with pwr := { s.pwr with limClamped := s.pwr.limClamped, pendVkm := some v } } := by
  rw [takeLimit, if_neg h0]
  cases r <;> simp [Nat.not_lt.mpr hv]

/-- A limit above the ceiling is clamped to it. -/
theorem takeLimit_of_lt {s : State} {r : Rail} {v : BitVec 12} (hv : limCeiling r < v.toNat) :
    s.takeLimit r v = match r with
      | .vkx => { s with pwr := { s.pwr with limClamped := true, pendVkx := some 1600 } }
      | .vkm => { s with pwr := { s.pwr with limClamped := true, pendVkm := some 400 } } := by
  have h0 : v ≠ 0 := fun h => by simp [h] at hv
  rw [takeLimit, if_neg h0]
  cases r <;> simp only [hv, decide_true, Bool.or_true, if_true] <;> rfl

/-! ### The limit throttle -/

theorem trace_pwr (s : State) (type : Byte) (c : Option CtxId) (d : Option Slot) (x y : BitVec 16) (arg : Bytes) :
    (s.trace type c d x y arg).pwr = s.pwr :=
  (trace_keeps (K := 0x100000) (Keeps.refl _ s) (by decide)).pwr.resolve_left (by decide)

/-- A reason changes its own bit, and what is counted of it. -/
theorem setReason_inForce (s : State) {k : Nat} (hk : k < 6) (on : Bool) (j : Nat) :
    (s.setReason k on).pwr.inForce.getLsbD j = if j = k then on else s.pwr.inForce.getLsbD j := by
  unfold setReason
  by_cases h : s.pwr.inForce.getLsbD k = on
  · rw [if_pos h]
    by_cases hj : j = k
    · rw [if_pos hj, hj, h]
    · rw [if_neg hj]
  · cases on <;> simp [h, trace_pwr, getLsbD_setBitTo _ _ hk]

theorem setReason_pwr (s : State) (k : Nat) (on : Bool) : ∃ i t c,
    (s.setReason k on).pwr = { s.pwr with inForce := i, thr := t, since := c } := by
  unfold setReason
  by_cases h : s.pwr.inForce.getLsbD k = on
  · rw [if_pos h]; exact ⟨_, _, _, rfl⟩
  · rw [if_neg h, trace_pwr]
    cases on <;> exact ⟨_, _, _, rfl⟩

@[simp] theorem setReason_limUnmet (s : State) (k : Nat) (on : Bool) : (s.setReason k on).pwr.limUnmet = s.pwr.limUnmet := by
  obtain ⟨i, t, c, h⟩ := s.setReason_pwr k on; rw [h]
@[simp] theorem setReason_droopRate (s : State) (k : Nat) (on : Bool) (r : Region) :
    (s.setReason k on).droopRate r = s.droopRate r := by
  obtain ⟨i, t, c, h⟩ := s.setReason_pwr k on; cases r <;> rw [droopRate, droopRate, h]

/-- A rail of the two comes into force where it is over its limit. -/
def railReason (s : State) (k : Nat) (hot : Bool) : State := if hot then s.setReason k true else s

theorem railReason_inForce (s : State) {k : Nat} (hk : k < 6) (hot : Bool) (j : Nat) :
    (s.railReason k hot).pwr.inForce.getLsbD j = if j = k then hot || s.pwr.inForce.getLsbD j else s.pwr.inForce.getLsbD j := by
  cases hot <;> simp [railReason, setReason_inForce, hk]

@[simp] theorem railReason_limUnmet (s : State) (k : Nat) (hot : Bool) :
    (s.railReason k hot).pwr.limUnmet = s.pwr.limUnmet := by cases hot <;> simp [railReason]

/-- A rail over its limit: the rate goes down, not below 1/16 (R553). -/
theorem opThrottle_of_over {s : State} {x m : BitVec 16} (h : s.running = true)
    (ho : (overLimit x s.pwr.limVkx || overLimit m s.pwr.limVkm) = true) :
    ∀ u, u = ((s.railReason 0 (overLimit x s.pwr.limVkx)).railReason 1 (overLimit m s.pwr.limVkm)).setReason 5 (s.pwr.limRate == 1) →
    s.opThrottle x m = { u with pwr := { u.pwr with
      limRate := if s.pwr.limRate == 1 then 1 else s.pwr.limRate - 1
      limUnmet := u.pwr.limUnmet || s.pwr.limRate == 1 } } := by
  rintro u rfl
  simp only [opThrottle, h, ho, Bool.not_true, Bool.false_eq_true, if_false, if_true]
  rfl

/-- A throttling rail is below 0.95 of its limit where it is one (R553). -/
def calm (s : State) (x m : BitVec 16) : Bool :=
  (!s.pwr.inForce.getLsbD 0 || underLimit x s.pwr.limVkx) && (!s.pwr.inForce.getLsbD 1 || underLimit m s.pwr.limVkm)

theorem calm_iff {s : State} {x m : BitVec 16} : s.calm x m = true ↔
    (s.pwr.inForce.getLsbD 0 = true → 100 * x.toNat < 95 * s.pwr.limVkx.toNat) ∧
    (s.pwr.inForce.getLsbD 1 = true → 100 * m.toNat < 95 * s.pwr.limVkm.toNat) := by
  simp only [calm, underLimit, Bool.and_eq_true, Bool.or_eq_true, Bool.not_eq_true', decide_eq_true_eq]
  cases s.pwr.inForce.getLsbD 0 <;> cases s.pwr.inForce.getLsbD 1 <;> simp

/-- No rail over its limit: the floor is left, and the rate goes up where every throttling rail is calm (R553). -/
theorem opThrottle_of_not_over {s : State} {x m : BitVec 16} (h : s.running = true)
    (ho : (overLimit x s.pwr.limVkx || overLimit m s.pwr.limVkm) = false) :
    (s.opThrottle x m).pwr.limUnmet = s.pwr.limUnmet ∧ (s.opThrottle x m).pwr.inForce.getLsbD 5 = false ∧
    (s.opThrottle x m).pwr.limRate =
      if s.calm x m && decide (s.pwr.limRate.toNat < 16) then s.pwr.limRate + 1 else s.pwr.limRate := by
  have hop : s.opThrottle x m =
      let u := s.setReason 5 false
      if s.calm x m && decide (s.pwr.limRate.toNat < 16) then
        let v : State := { u with pwr := { u.pwr with limRate := s.pwr.limRate + 1 } }
        if s.pwr.limRate + 1 = 16 then (v.setReason 0 false).setReason 1 false else v
      else u := by
    simp only [opThrottle, h, ho, Bool.not_true, Bool.false_eq_true, if_false]
    rfl
  rw [hop]
  dsimp only
  split
  · split
    · refine ⟨by simp, ?_, by simp [setReason_limRate]⟩
      rw [setReason_inForce _ (by decide), if_neg (by decide), setReason_inForce _ (by decide), if_neg (by decide)]
      exact (setReason_inForce s (by decide) false 5).trans (if_pos rfl)
    · exact ⟨by simp, (setReason_inForce s (by decide) false 5).trans (if_pos rfl), rfl⟩
  · exact ⟨by simp, (setReason_inForce s (by decide) false 5).trans (if_pos rfl), setReason_limRate s 5 false⟩

/-! ### Droop -/

theorem droopReason_lt (r : Region) : droopReason r < 6 := by cases r <;> decide

@[simp] theorem setDroop_droopRate_same (s : State) (r : Region) (x : BitVec 5) : (s.setDroop r x).droopRate r = x := by
  cases r <;> rfl
theorem setDroop_droopRate_ne (s : State) {r q : Region} (x : BitVec 5) (h : q ≠ r) :
    (s.setDroop r x).droopRate q = s.droopRate q := by cases r <;> cases q <;> first | rfl | exact absurd rfl h
@[simp] theorem setDroop_limRate (s : State) (r : Region) (x : BitVec 5) : (s.setDroop r x).pwr.limRate = s.pwr.limRate := by
  cases r <;> rfl

/-- A region's rate and reason set together: the other regions and the limit throttle stay. -/
theorem setDroop_setReason (s : State) (r : Region) (x : BitVec 5) (on : Bool) :
    let t := (s.setDroop r x).setReason (droopReason r) on
    t.droopRate r = x ∧ t.pwr.inForce.getLsbD (droopReason r) = on ∧ t.pwr.limRate = s.pwr.limRate ∧
    ∀ q : Region, q ≠ r → t.droopRate q = s.droopRate q := by
  refine ⟨by simp, (setReason_inForce _ (droopReason_lt r) on _).trans (if_pos rfl), by simp [setReason_limRate],
    fun q hq => ?_⟩
  rw [setReason_droopRate, setDroop_droopRate_ne s x hq]

theorem halfRate_toNat (x : BitVec 5) : (if x / 2 = 0 then 1 else x / 2 : BitVec 5).toNat = Nat.max 1 (x.toNat / 2) := by
  revert x; decide

/-! ### BUDGET -/

theorem opBudget_of_agreed {s : State} {l : LinkId} (h : s.running = true) (ha : (s.link l).core.phase = .agreed)
    (src : Member) (delta : BitVec 16) (z : Bool) : s.opBudget l src delta z =
      if !z || delta == 0 then s.tc0Bad l
      else s.budPut ((0 : BitVec 25) ++ (s.link l).core.slot ++ src ++ delta : BitVec 64) := by
  simp [opBudget, h, ha]

theorem pmPut_of_ready {s : State} (hp : s.portOn portPm = true) (hr : Config.pmReady s.freeCtr = true) (o : PortOut) :
    s.pmPut o = some ({ s with freeCtr := s.freeCtr + 1 }.out o) := by simp [pmPut, hp, hr]

theorem budPut_of_ready {s : State} (hp : s.portOn portPm = true) (hq : s.pwr.budQueue = [])
    (hr : Config.pmReady s.freeCtr = true) (w : BitVec 64) :
    s.budPut w = ({ s with freeCtr := s.freeCtr + 1 } : State).out (.pmBud w) := by
  simp [budPut, hq, pmPut_of_ready hp hr]

theorem budPut_of_not_ready {s : State} (hp : s.portOn portPm = true) (hq : s.pwr.budQueue = [])
    (hr : Config.pmReady s.freeCtr = false) (w : BitVec 64) :
    s.budPut w = { s with freeCtr := s.freeCtr + 1, pwr := { s.pwr with budQueue := [w] } } := by
  simp [budPut, hq, pmPut, pmMissed, hp, hr]

theorem budPut_of_waiting {s : State} (hw : s.portOn portPm = false ∨ s.pwr.budQueue ≠ [])
    (hl : s.pwr.budQueue.length < 16) (w : BitVec 64) :
    s.budPut w = { s with pwr := { s.pwr with budQueue := s.pwr.budQueue ++ [w] } } := by
  have hl' : ¬ 16 ≤ s.pwr.budQueue.length := by omega
  cases hq : s.pwr.budQueue with
  | nil =>
    have hp : s.portOn portPm = false := hw.resolve_right fun h => h hq
    simp [budPut, hq, pmPut, pmMissed, hp]
  | cons a q =>
    rw [hq] at hl'
    simp [budPut, hq] at hl' ⊢
    omega

theorem budPut_of_full {s : State} (hl : 16 ≤ s.pwr.budQueue.length) (w : BitVec 64) :
    s.budPut w = { s with pwr := { s.pwr with budDropped := true } } := if_pos hl

end State

/-- Settles O13. -/
theorem currentThrottles : Obligations.CurrentThrottles := by
  unfold Obligations.CurrentThrottles
  refine ⟨fun s x m v => ⟨fun hrun => ?window, fun hrun hp => ?limits, fun r hb => ?early⟩,
    fun s x m hrun hok => ⟨fun ho => ?hot, fun hx hm => ?under⟩, fun s r hrun => ?droop, fun s l src delta z hrun ha => ?budget⟩
  case window => exact ⟨_, rfl, by rw [State.opWindow_of_running hrun]; simp⟩
  case limits =>
    have hlim (r : Rail) (v : BitVec 12) : exec (.pmLim r v) s = .next (s.takeLimit r v) :=
      congrArg _ (State.opLim_of_running hrun hp r v)
    simp only [hlim]
    refine ⟨fun r => by rw [State.takeLimit_zero], fun h0 hv => ?_, fun hv => ?_, fun h0 hv => ?_, fun hv => ?_⟩
    · rw [State.takeLimit_of_le (r := .vkx) h0 hv]
    · rw [State.takeLimit_of_lt (r := .vkx) hv]
    · rw [State.takeLimit_of_le (r := .vkm) h0 hv]
    · rw [State.takeLimit_of_lt (r := .vkm) hv]
  case early => exact congrArg _ (State.opLim_of_beforeStart hb r v)
  case hot =>
    have hot : (State.overLimit x s.pwr.limVkx || State.overLimit m s.pwr.limVkm) = true := by
      simpa only [State.overLimit, Bool.or_eq_true, decide_eq_true_eq] using ho
    obtain ⟨⟨hlo, hhi⟩, -⟩ := hok
    have hrate : (s.pwr.limRate == 1) = decide (s.pwr.limRate.toNat = 1) := by
      rw [beq_eq_decide]; exact decide_eq_decide.mpr (BitVec.toNat_inj (y := 1)).symm
    refine ⟨_, exec_next rfl (State.opThrottle_of_over hrun hot _ rfl), ?rate, fun h1 => ?floor, fun h1 => ?noFloor, ?five, fun hx => ?vkx,
      fun hm => ?vkm⟩
    all_goals dsimp only
    case rate =>
      rw [hrate]
      by_cases h1 : s.pwr.limRate.toNat = 1
      · simp [h1]
      · simp only [h1, decide_false, Bool.false_eq_true, if_false]
        bv_omega
    case floor => rw [hrate, h1]; simp
    case noFloor => rw [hrate]; simp [h1]
    case five => rw [State.setReason_inForce _ (by decide), if_pos rfl, hrate]
    case vkx =>
      rw [State.setReason_inForce _ (by decide), if_neg (by decide), State.railReason_inForce _ (by decide),
        if_neg (by decide), State.railReason_inForce _ (by decide), if_pos rfl, State.overLimit, decide_eq_true hx, Bool.true_or]
    case vkm =>
      rw [State.setReason_inForce _ (by decide), if_neg (by decide), State.railReason_inForce _ (by decide),
        if_pos rfl, State.overLimit, decide_eq_true hm, Bool.true_or]
  case under =>
    have cool : (State.overLimit x s.pwr.limVkx || State.overLimit m s.pwr.limVkm) = false := by
      simp only [State.overLimit, hx, hm, decide_false, Bool.or_false]
    obtain ⟨unmet, five, rate⟩ := State.opThrottle_of_not_over hrun cool
    refine ⟨_, rfl, unmet, five, ?_⟩
    change (s.opThrottle x m).pwr.limRate.toNat = _
    have hup : (s.calm x m && decide (s.pwr.limRate.toNat < 16)) = true ↔
        (s.pwr.inForce.getLsbD 0 = true → 100 * x.toNat < 95 * s.pwr.limVkx.toNat) ∧
        (s.pwr.inForce.getLsbD 1 = true → 100 * m.toNat < 95 * s.pwr.limVkm.toNat) ∧ s.pwr.limRate.toNat < 16 := by
      rw [Bool.and_eq_true, State.calm_iff, decide_eq_true_eq, and_assoc]
    rw [rate]
    simp only [hup]
    split
    · bv_omega
    · rfl
  case droop =>
    have hc : s.opDroop r = (s.setDroop r (if s.droopRate r / 2 = 0 then 1 else s.droopRate r / 2)).setReason
        (State.droopReason r) true := by simp [State.opDroop, hrun]
    have hr : s.opDroopRelease r = (s.setDroop r 16).setReason (State.droopReason r) false := by
      simp [State.opDroopRelease, hrun]
    obtain ⟨crossRate, crossRest⟩ := s.setDroop_setReason r (if s.droopRate r / 2 = 0 then 1 else s.droopRate r / 2) true
    obtain ⟨backRate, backRest⟩ := s.setDroop_setReason r 16 false
    refine ⟨⟨_, exec_next rfl hc, ?_, crossRest⟩, ⟨_, exec_next rfl hr, ?_, backRest⟩⟩
    · rw [crossRate, State.halfRate_toNat]
    · rw [backRate]; rfl
  case budget =>
    have hb : exec (.budget l src delta z) s = .next (s.opBudget l src delta z) := rfl
    rw [hb, State.opBudget_of_agreed hrun ha]
    refine ⟨fun hz => ⟨_, rfl, ?_⟩, fun hz hd => ⟨fun hp hq hr => ?_, fun hp hq hr => ?_, fun hw hl => ?_, fun hl => ?_⟩⟩
    · have hbad : (!z || delta == 0) = true := by rcases hz with rfl | rfl <;> simp
      rw [if_pos hbad]
      exact ⟨rfl, by simp [State.tc0Bad]⟩
    all_goals
      have hgood : (!z || delta == 0) = false := by rw [hz, beq_false_of_ne hd]; rfl
      rw [hgood, if_neg Bool.false_ne_true]
    · rw [State.budPut_of_ready hp hq hr]
    · rw [State.budPut_of_not_ready hp hq hr]
    · rw [State.budPut_of_waiting hw hl]
    · rw [State.budPut_of_full hl]

end Machine

end Sys2Proof
end

section
/-! PROOFS. The energy of an interval and the meters at their boundaries (R559 to R565), and the tray sideband (R67, R97). -/

namespace Sys2Proof.Machine

namespace State

/-! ### Energy -/

/-- The block's share, with what the interval used up. -/
def intervalEnd (s : State) (n : Nat) : State := { s with pwr := { s.pwr with
  blkEnergy := s.pwr.blkEnergy + BitVec.ofNat 64 ((s.pwr.blkEnergyRem + n) / 65536)
  blkEnergyRem := (s.pwr.blkEnergyRem + n) % 65536, slotActivity := [], blkActivity := 0 } }

/-- With no activity in any context or slot the whole sample goes to the block. -/
theorem opEnergy_of_no_ctx {s : State} {e : EnergySample} (h : s.running = true) (hd : s.pwr.slotActivity = [])
    (hc : s.liveCtxs = []) : s.opEnergy e = s.intervalEnd (e.static + e.dynamic) := by
  simp [opEnergy, h, hd, hc, blockEnergy, addEnergy, intervalEnd]

/-- A context in no slot takes its share alone. -/
theorem ctxEnergy_of_no_slot {s : State} {c : CtxId} (h : s.ctxSlot c = none) (n : Nat) :
    s.ctxEnergy c n = s.setCtx c { s.ctx c with
      energy := (s.ctx c).energy + BitVec.ofNat 64 (((s.ctx c).energyRem + n) / 65536)
      energyRem := ((s.ctx c).energyRem + n) % 65536, activity := 0 } := by
  have hslot (v : Ctx) (hv : v.vd = (s.ctx c).vd) : (s.setCtx c v).ctxSlot c = none := by
    rw [ctxSlot] at h ⊢
    rw [setCtx_ctx_same, hv]
    exact h
  simp only [ctxEnergy, addEnergy, hslot]

/-- With activity in one context that is in no slot, the context takes the dynamic part and the block the static one. -/
theorem opEnergy_of_one_ctx {s : State} {e : EnergySample} {c : CtxId} (h : s.running = true)
    (hd : s.pwr.slotActivity = []) (hb : s.pwr.blkActivity = 0) (hc : s.liveCtxs = [c]) (ha : 0 < (s.ctx c).activity) :
    s.opEnergy e = (s.ctxEnergy c e.dynamic).intervalEnd e.static := by
  have hshare : e.dynamic * (s.ctx c).activity / (s.ctx c).activity = e.dynamic := Nat.mul_div_cancel _ ha
  have hne : (s.ctx c).activity ≠ 0 := Nat.pos_iff_ne_zero.mp ha
  simp [opEnergy, h, hd, hc, hb, hne, hshare, blockEnergy, addEnergy, intervalEnd]

/-! ### Meters -/

theorem opMeterGo_of_on {s : State} (h : s.powerOn = true) (d : Slot) : s.opMeterGo d = s.meterGo d := if_pos h

theorem opMeterGo_of_off {s : State} (h : s.powerOn = false) (d : Slot) : s.opMeterGo d = s := by simp [opMeterGo, h]

theorem meterGo_of_not_held {s : State} {d : Slot} (h : s.slotHeld d = false) :
    s.meterGo d = s.setMtr d { s.mtr d with status := stFnOff } := by simp [meterGo, h]

theorem meterGo_of_regress {s : State} {d : Slot} (h : s.slotHeld d = true) (ha : (s.mtr d).boundAny = true)
    (hl : (s.mtr d).bound ≤ (s.mtr d).last) : s.meterGo d = s.setMtr d { s.mtr d with status := stTimeRegress } := by
  simp [meterGo, h, ha, hl]

/-- A first boundary in the future is pending. -/
theorem meterGo_of_future {s : State} {d : Slot} (h : s.slotHeld d = true) (ha : (s.mtr d).boundAny = false)
    (hf : s.domTime d ≤ (s.mtr d).bound) : s.meterGo d = s.setMtr d { s.mtr d with
      status := stOk, pendingT := some ((s.mtr d).bound, (s.mtr d).utc), late := false } := by
  have hlate : decide ((s.mtr d).bound < s.domTime d) = false := decide_eq_false (BitVec.not_lt.mpr hf)
  simp [meterGo, h, ha, hlate]

theorem meterDeliver_of_staging_off {s : State} (h : s.portOn portStaging = false) (d : Slot) : s.meterDeliver d = s := by
  simp [meterDeliver, h]

/-- A boundary without a period, the staging port off: one snapshot, numbered and held. -/
theorem boundaryTake_of_no_period {s : State} {d : Slot} (hp : (s.mtr d).period = 0) (h : s.portOn portStaging = false)
    (T utc : BitVec 64) : s.boundaryTake d T utc false =
      (s.meterTake d T false false false 0).modMtr d fun x => { x with pendingT := none } := by
  have hns : periodNs (s.mtr d) = 0 := by simp [periodNs, hp]
  have hskip : s.skippedAt d T = 0 := by simp [skippedAt, hns]
  have hbound : s.boundAt d T 0 = T := by simp [boundAt]
  simp only [boundaryTake, hns, hskip, hbound, if_true, Bool.false_eq_true, if_false]
  exact meterDeliver_of_staging_off (by rw [portOn] at h ⊢; exact h) d

theorem opBoundary_of_none {s : State} {d : Slot} (h : (s.mtr d).pendingT = none) : s.opBoundary d = s := by
  simp [opBoundary, h]

theorem opBoundary_of_pending {s : State} {d : Slot} {T utc : BitVec 64} (h : (s.mtr d).pendingT = some (T, utc))
    (hr : s.running = true) (hh : s.slotHeld d = true) : s.opBoundary d = s.boundaryTake d T utc false := by
  simp [opBoundary, h, hr, hh]

end State

/-- Settles O14. -/
theorem energyAndMeters : Obligations.EnergyAndMeters := by
  unfold Obligations.EnergyAndMeters
  refine ⟨fun s e hrun hd => ⟨fun hc => ?alone, fun c hc ha hslot hb => ?one⟩,
    fun s d => ⟨fun hon hh => ?notHeld, fun hon hh ha hl => ?regress, fun hon hh ha hf => ?future, fun hoff => ?off,
      fun T utc hT hrun hh hst hp => ?boundary, fun hn => ?noBoundary⟩⟩
  case alone => exact exec_next rfl (State.opEnergy_of_no_ctx hrun hd hc)
  case one =>
    refine ⟨_, exec_next rfl (State.opEnergy_of_one_ctx hrun hd hb hc ha), ?_⟩
    rw [State.ctxEnergy_of_no_slot hslot]
    have hctx (u : State) (n : Nat) : (u.intervalEnd n).ctx c = u.ctx c := rfl
    rw [hctx, State.setCtx_ctx_same]
    exact ⟨rfl, rfl, rfl, rfl⟩
  case notHeld => exact exec_next rfl ((State.opMeterGo_of_on hon d).trans (State.meterGo_of_not_held hh))
  case regress => exact exec_next rfl ((State.opMeterGo_of_on hon d).trans (State.meterGo_of_regress hh ha hl))
  case future => exact exec_next rfl ((State.opMeterGo_of_on hon d).trans (State.meterGo_of_future hh ha hf))
  case off => exact exec_next rfl (State.opMeterGo_of_off hoff d)
  case boundary =>
    refine ⟨_, exec_next rfl ((State.opBoundary_of_pending hT hrun hh).trans (State.boundaryTake_of_no_period hp hst T utc)), ?_⟩
    simp only [State.modMtr_mtr_same, State.meterTake]
    exact ⟨trivial, trivial, trivial, rfl, rfl⟩
  case noBoundary => exact exec_next rfl (State.opBoundary_of_none hn)

/-! ### The tray -/

namespace State

theorem traySend_of_pending {s : State} {v : Byte} {rest : List Byte} (ho : s.tray.outstanding = none)
    (hp : s.tray.pending = v :: rest) (hon : s.portOn portTray = true) :
    s.traySend = { s with tray := { s.tray with outstanding := some v, pending := rest }, outs := .trayIbi v :: s.outs } := by
  simp [traySend, ho, hp, hon, out]

theorem traySend_of_none {s : State} (hp : s.tray.pending = []) : s.traySend = s := by
  unfold traySend
  split
  · next h => rw [hp] at h; cases h
  · rfl

/-- The tray bit set, whatever is then sent. -/
theorem traySend_clk (s : State) : s.traySend.clk = s.clk :=
  (traySend_keeps (K := 0x420000) (Keeps.refl _ s) (by decide)).clk.resolve_left (by decide)

/-- The sideband enabled (R97). -/
def trayOn (s : State) : State := { s with clk := { s.clk with enPort := setBitTo s.clk.enPort portTray true } }

theorem trayOn_getLsbD (s : State) (b : Nat) :
    s.trayOn.clk.enPort.getLsbD b = if b = 5 then true else s.clk.enPort.getLsbD b :=
  getLsbD_setBitTo _ true (by decide) b

theorem opTrayEnable_of_held {s : State} (h : s.sys.phase = .held) : s.opTrayEnable = s := if_pos h

theorem opTrayEnable_of_not_held {s : State} (h : s.sys.phase ≠ .held) : s.opTrayEnable = s.trayOn.traySend := if_neg h

theorem opTrayAck_of_on {s : State} (h : s.portOn portTray = true) :
    s.opTrayAck = ({ s with tray := { s.tray with outstanding := none } } : State).traySend := if_pos h

theorem opTrayRepeat_of_outstanding {s : State} {v : Byte} (ho : s.tray.outstanding = some v)
    (h : s.portOn portTray = true) : s.opTrayRepeat = s.out (.trayIbi v) := by simp [opTrayRepeat, ho, h]

end State

/-- Settles O15. -/
theorem trayInterrupts : Obligations.TrayInterrupts := by
  unfold Obligations.TrayInterrupts
  refine fun s => ⟨fun hh => ?held, fun hh => ?enable, fun hon => ⟨fun hp => ?ackNone, fun v rest hp => ?ackNext, fun v ho => ?again⟩⟩
  case held => exact exec_next rfl (State.opTrayEnable_of_held hh)
  case enable =>
    have hon : s.trayOn.portOn portTray = true := (s.trayOn_getLsbD 5).trans (if_pos rfl)
    refine ⟨_, exec_next rfl (State.opTrayEnable_of_not_held hh), ?_, fun b hb => ?_, fun v rest ho hp => ?_, fun hp => ?_⟩
    · rw [State.portOn, State.traySend_clk]; exact hon
    · rw [State.traySend_clk, State.trayOn_getLsbD, if_neg hb]
    · rw [State.traySend_of_pending (s := s.trayOn) ho hp hon]; exact ⟨rfl, rfl, rfl⟩
    · rw [State.traySend_of_none (s := s.trayOn) hp]; exact ⟨rfl, rfl⟩
  case ackNone => exact exec_next rfl ((State.opTrayAck_of_on hon).trans (State.traySend_of_none hp))
  case ackNext => exact exec_next rfl ((State.opTrayAck_of_on hon).trans (State.traySend_of_pending rfl hp hon))
  case again => exact exec_next rfl (State.opTrayRepeat_of_outstanding ho hon)

end Sys2Proof.Machine
end

section
/-! PROOFS. What a Full Stop leaves of the block, the reset pins and the reference clock (R72 to R74, R103, R532, R536, R604). -/

namespace Sys2Proof.Machine

namespace State

/-! ### The acts before a Full Stop -/

/-- A group sealed and sent counts under event 2 of Table 21-2 alone. -/
theorem txSeal_counters {s t : State} {l : LinkId} {c : Cls} {kind dest : BitVec 2} {x : BitVec 10} {vd : VdId} {p : Bytes}
    {ctx : Option CtxId} (h : s.txSeal l c kind dest x vd p ctx = some t) {k : Nat} (hk : k ≠ 2) :
    Tab.get 0 t.tel.counters k = Tab.get 0 s.tel.counters k := by
  unfold txSeal at h
  split at h
  · cases h
  · next r hr =>
    have hcount (u v : State) (n : Nat) (hu : u.tel = s.tel) (hv : Keeps 0x442240 (u.count 2 n) v) :
        Tab.get 0 v.tel.counters k = Tab.get 0 s.tel.counters k := by
      rw [hv.tel.resolve_left (by decide), count, ← hu]
      exact Tab.get_set_ne _ _ _ hk
    dsimp only at h
    generalize hu : State.useKey _ _ _ = u at h
    obtain rfl := Option.some.inj h
    refine hcount u _ 1 ?before ?after
    case before =>
      rw [← hu]
      exact (useKey_keeps (K := 0x000040) (Keeps.refl _ _) (by decide)).tel.resolve_left (by decide)
    case after =>
      refine wirePut_keeps ?_ (by decide)
      split
      · exact activity_keeps (meter_keeps (Keeps.refl _ _) (by decide)) (by decide)
      · have hK : (0x040000 : BitVec 24) ||| 0x442240 = 0x442240 := by decide
        exact Keeps.put (meter_keeps (Keeps.refl _ _) (by decide))

theorem sendBye_counters (s : State) (l : LinkId) (cause : BitVec 8) {k : Nat} (hk : k ≠ 2) :
    Tab.get 0 (s.sendBye l cause).tel.counters k = Tab.get 0 s.tel.counters k := by
  unfold sendBye
  split
  · cases h : s.txSeal l 0 kindSealed destControl 0 0 ([0x32, cause] ++ zeros 6) none with
    | none => rfl
    | some t => exact txSeal_counters h hk
  · rfl

theorem foldl_counters {β : Type} {f : State → β → State} {k : Nat}
    (hf : ∀ (s : State) x, Tab.get 0 (f s x).tel.counters k = Tab.get 0 s.tel.counters k) (xs : List β) (s : State) :
    Tab.get 0 (xs.foldl f s).tel.counters k = Tab.get 0 s.tel.counters k := by
  induction xs generalizing s with
  | nil => rfl
  | cons x xs ih => exact (ih (f s x)).trans (hf s x)

theorem stopPorts_counters (s : State) {k : Nat} (hk : k ≠ 2) :
    Tab.get 0 s.stopPorts.tel.counters k = Tab.get 0 s.tel.counters k := by
  have htel : s.stopPorts.tel = (allLinks.foldl (fun (s : State) l => s.sendBye l endReset) s).tel := by
    unfold stopPorts
    generalize allLinks.foldl (fun (s : State) l => s.sendBye l endReset) s = u
    dsimp only
    split <;> rfl
  rw [htel]
  exact foldl_counters (fun s l => s.sendBye_counters l endReset hk) allLinks s

/-- The state a Full Stop clears: its last billing snapshots are taken and its last messages are out. -/
def stopping (s : State) : State := s.stopMeters.stopPorts

theorem stopping_keeps (s : State) : Keeps 0x542240 s s.stopping :=
  stopPorts_keeps (stopMeters_keeps (Keeps.refl _ s) (by decide)) (by decide)

theorem stopping_counters (s : State) {k : Nat} (hk : k ≠ 2) :
    Tab.get 0 s.stopping.tel.counters k = Tab.get 0 s.tel.counters k := by
  have hm : s.stopMeters.tel = s.tel := (stopMeters_keeps (Keeps.refl 0x040000 s) (by decide)).tel.resolve_left (by decide)
  rw [stopping, stopPorts_counters _ hk, hm]

/-! ### What a Full Stop leaves -/

/-- What holds of a table's default and of every image holds of every entry of the mapped table. -/
theorem get_mapAll_of_forall {α : Type} [DecidableEq α] {d : α} {f : Nat → α → α} {P : α → Prop} (hd : P d)
    (hf : ∀ n v, P (f n v)) (t : Tab α) (n : Nat) : P (Tab.get d (Tab.mapAll d f t) n) := by
  induction t with
  | nil => exact hd
  | cons e t ih =>
    by_cases h : f e.1 e.2 = d
    · simpa only [Tab.mapAll, List.filterMap_cons, h, if_true] using ih
    · simp only [Tab.mapAll, List.filterMap_cons, h, if_false, Tab.get_cons]
      split
      · exact hf _ _
      · exact ih

/-- Canonical tables are mapped entry by entry. -/
theorem get_mapAll_of_wf {α : Type} [DecidableEq α] {d : α} {f : Nat → α → α} {t : Tab α} (h : Tab.wf d t = true) {n : Nat}
    (hd : f n d = d) : Tab.get d (Tab.mapAll d f t) n = f n (Tab.get d t n) := Tab.get_mapAll d f t n hd 0 h

theorem stopState_emptied {s u : State} (role : Option (BitVec 1)) (hm : u.mem = s.mem) :
    s.emptiedFrom (u.stopState role) where
  mem := by simp only [stopState, stopMem, hm]
  sweeps := fun hc i => by
    obtain ⟨-, hidx, -⟩ := hc.mem
    simp only [memIdx, stopState, stopMem, hm]
    exact get_mapAll_of_wf hidx rfl
  requests := fun q hq => by
    simp only [stopState, stopMem, List.mem_map] at hq
    obtain ⟨p, -, rfl⟩ := hq
    rfl
  fe := rfl
  reads := fun i r hr => by
    refine get_mapAll_of_forall (d := none) (f := fun _ (e : Option DmaRead) => e.map fun r : DmaRead => { r with gone := true })
      (P := fun o => ∀ r : DmaRead, o = some r → r.gone = true) (fun r h => by cases h) (fun n v r h => ?_) u.fe.dmaReads i r hr
    obtain ⟨x, -, rfl⟩ := Option.map_eq_some_iff.mp h
    rfl
  others := ⟨rfl, rfl, rfl, rfl, rfl⟩

/-- What a Full Stop records of itself. -/
theorem enterStop_eq (s : State) (cause : Cause) (escalated : Bool) (role : Option (BitVec 1)) :
    s.enterStop cause escalated role =
      { s.stopping.stopState role with flt := { (s.stopping.stopState role).flt with
        last := { level := lvlFullStop, escalated := escalated, cause := cause, target := 0 }
        countFullStop := satInc s.stopping.flt.countFullStop, resets := [fullRun cause] } } := by
  rw [enterStop, ← stopping]
  generalize s.stopping = u
  rfl

/-- A Full Stop is entered: everything a Full Stop leaves, of the block before it. -/
theorem enterStop_stoppedFrom (s : State) (cause : Cause) (escalated : Bool) (r : BitVec 1) :
    s.stoppedFrom (s.enterStop cause escalated (some r)) cause escalated r := by
  have hk := s.stopping_keeps
  have hclk : s.stopping.clk = s.clk := hk.clk.resolve_left (by decide)
  have hmem : s.stopping.mem = s.mem := hk.mem.resolve_left (by decide)
  have hotp : s.stopping.otp = s.otp := hk.otp.resolve_left (by decide)
  have hflt : s.stopping.flt = s.flt := hk.flt.resolve_left (by decide)
  have hisl : s.stopping.isl = s.isl := hk.isl.resolve_left (by decide)
  have hcounters (k : Nat) (hne : k ≠ 2) := s.stopping_counters hne
  obtain ⟨mem, sweeps, requests, fe, reads, others⟩ := stopState_emptied (some r) hmem
  rw [enterStop_eq]
  generalize s.stopping = u at *
  exact
    { phase := rfl, role := rfl, areas := rfl, channels := rfl, linkPorts := rfl, fns := rfl
      ports := congrArg (fun c : Clk => c.enPort &&& 0x20) hclk
      keys := fun n => get_mapAll_of_forall (d := ({} : KeyRow)) (f := fun _ o => blankRow o)
        (P := fun o : KeyRow => o.valid = false ∧ o.material = 0) ⟨rfl, rfl⟩ (fun _ _ => ⟨rfl, rfl⟩) u.keys.rows n
      work := ⟨mem, sweeps, requests, fe, reads, others⟩
      counters := ⟨rfl, hcounters⟩
      limits := ⟨rfl, rfl, rfl⟩
      otp := hotp
      island := congrArg (fun i : Isl => { i with lock := false, tamperAtStart := false, restore := none }) hisl
      last := rfl
      counted := congrArg (fun f : Flt => satInc f.countFullStop) hflt }

/-- What a Full Stop leaves, told of a block that agrees with the one it began in as far as that goes. -/
theorem stoppedFrom.of_agreeing {s v t : State} {cause : Cause} {escalated : Bool} {role : BitVec 1}
    (h : v.stoppedFrom t cause escalated role) (hclk : v.clk.enPort = s.clk.enPort) (hmem : v.mem = s.mem)
    (hcanon : s.canonical → v.canonical) (htel : ∀ k : Nat, k ≠ 2 → Tab.get 0 v.tel.counters k = Tab.get 0 s.tel.counters k)
    (hotp : v.otp = s.otp) (hisl : v.isl = s.isl) (hcount : v.flt.countFullStop = s.flt.countFullStop) :
    s.stoppedFrom t cause escalated role := by
  obtain ⟨phase, hrole, areas, channels, linkPorts, fns, ports, keys, ⟨mem, sweeps, requests, fe, reads, others⟩,
    ⟨tel, counters⟩, limits, otp, island, last, counted⟩ := h
  exact
    { phase, role := hrole, areas, channels, linkPorts, fns, ports := hclk ▸ ports, keys
      work :=
        { mem := hmem ▸ mem, sweeps := fun hc i => by rw [sweeps (hcanon hc) i, memIdx, memIdx, hmem], requests, fe, reads, others }
      counters := ⟨tel, fun k hk => (counters k hk).trans (htel k hk)⟩
      limits, otp := otp.trans hotp, island := hisl ▸ island, last, counted := hcount ▸ counted }

/-! ### Full Stops -/

theorem fullStop_of_uncounted {s : State} (h : s.canStop = true) {cause : Cause} (hc : stopCounted cause = false)
    (escalated : Bool) (role : Option (BitVec 1)) :
    s.fullStop cause escalated role = s.enterStop cause escalated role := by simp [fullStop, h, hc]

/-- The Full Stop's time is held (R536). -/
def stamped (s : State) : State := { s with flt := { s.flt with stamps := s.now :: s.flt.stamps } }

/-- Fewer than two counted Full Stops are held: a further one is entered as such (R536). -/
theorem fullStop_of_few {s : State} (h : s.canStop = true) {cause : Cause} (hc : stopCounted cause = true)
    (hf : s.flt.stamps.length < 2) (escalated : Bool) (role : Option (BitVec 1)) :
    s.fullStop cause escalated role = s.stamped.enterStop cause escalated role := by
  have htake : (s.now :: s.flt.stamps).take 3 = s.now :: s.flt.stamps :=
    List.take_of_length_le (by rw [List.length_cons]; omega)
  have hlen : ¬ (s.now :: s.flt.stamps).length = 3 := by rw [List.length_cons]; omega
  simp only [fullStop, h, hc, htake, hlen, Bool.not_true, Bool.false_eq_true, if_false, if_true, false_and]
  rfl

theorem fullStop_of_stopped {s : State} (h : s.sys.phase = .fullStop ∨ s.sys.phase = .ellipsis) (cause : Cause)
    (escalated : Bool) (role : Option (BitVec 1)) : s.fullStop cause escalated role = s.out (.record cause 0) := by
  have hc : s.canStop = false := by rcases h with h | h <;> rw [canStop, h]
  simp [fullStop, hc, h, record]

theorem fullStop_of_held {s : State} (h : s.sys.phase = .held) (cause : Cause) (escalated : Bool)
    (role : Option (BitVec 1)) : s.fullStop cause escalated role = s := by
  have hc : s.canStop = false := by rw [canStop, h]
  simp [fullStop, hc, h]

/-- A counted Full Stop, of a block in which one may begin and that holds fewer than two. -/
theorem fullStop_stoppedFrom {s : State} (h : s.canStop = true) {cause : Cause} (hc : stopCounted cause = true)
    (hf : s.flt.stamps.length < 2) (escalated : Bool) (r : BitVec 1) :
    s.stoppedFrom (s.fullStop cause escalated (some r)) cause escalated r := by
  rw [fullStop_of_few h hc hf]
  exact (s.stamped.enterStop_stoppedFrom cause escalated r).of_agreeing rfl rfl
    (fun ⟨otp, links, doms, glb, keys, lanes, mem, fab, fe, vd, red, flt, pwr, isl, tel⟩ =>
      ⟨otp, links, doms, glb, keys, lanes, mem, fab, fe, vd, red, flt, pwr, isl, tel⟩) (fun _ _ => rfl) rfl rfl rfl

/-- A Full Stop keeps the stamps, refclk and the pins; role_sel is the one sampled. -/
theorem enterStop_sys (s : State) (cause : Cause) (escalated : Bool) (r : BitVec 1) :
    (s.enterStop cause escalated (some r)).flt.stamps = s.flt.stamps ∧
    (s.enterStop cause escalated (some r)).sys.refclk = s.sys.refclk ∧
    (s.enterStop cause escalated (some r)).sys.straps.roleSel = r := by
  have hflt : s.stopping.flt = s.flt := s.stopping_keeps.flt.resolve_left (by decide)
  have hsys : s.stopping.sys = s.sys := s.stopping_keeps.sys.resolve_left (by decide)
  rw [enterStop_eq]
  generalize s.stopping = u at *
  have hstamps : u.flt.stamps = s.flt.stamps := by rw [hflt]
  have hrefclk : u.sys.refclk = s.sys.refclk := by rw [hsys]
  exact ⟨hstamps, hrefclk, rfl⟩

/-! ### por_b -/

/-- The block as por_b leaves it. -/
theorem porState_porFrom (s : State) (phase : Phase) (x : Straps) (ok : Bool) : s.porFrom (s.porState phase x ok) phase where
  phase := rfl
  enables := ⟨rfl, rfl, rfl, rfl, rfl⟩
  keys := rfl
  links := fun hc l => congrArg Link.core (get_mapAll_of_wf (f := fun _ k => porLink k) hc.links rfl)
  work := ⟨rfl, rfl, rfl, rfl, rfl, rfl, rfl⟩
  faults := ⟨rfl, rfl, rfl, rfl, rfl⟩
  otp := rfl
  island := rfl

/-- Straps are sampled and start-up step 1 begins. -/
theorem opPorBRise_of_held {s : State} (h : s.sys.phase = .held) (x : Straps) (ok : Bool) :
    s.opPorBRise x ok = { s.porState .settle x ok with glb.role := x.roleSel, boot.step := 1 } := if_neg (not_not_intro h)

theorem opPorBRise_porFrom {s : State} (h : s.sys.phase = .held) (x : Straps) (ok : Bool) :
    s.porFrom (s.opPorBRise x ok) .settle := by
  obtain ⟨phase, enables, keys, links, work, faults, otp, island⟩ := s.porState_porFrom .settle x ok
  rw [opPorBRise_of_held h]
  exact ⟨phase, enables, keys, links, work, faults, otp, island⟩

/-! ### The reference clock -/

/-- Refclk is marked as gone. -/
def refclkGone (s : State) : State := { s with sys := { s.sys with refclk := false } }

theorem opRefclkLost_of_waiting {s : State} (h : s.sys.phase = .held ∨ s.sys.phase = .settle ∨ s.sys.phase = .waitRef)
    (r : BitVec 1) : s.opRefclkLost r = s.refclkGone := by
  unfold opRefclkLost
  dsimp only
  split
  · rfl
  · rfl
  · rfl
  · next hheld hsettle hwait => exact absurd h (not_or.mpr ⟨hheld, not_or.mpr ⟨hsettle, hwait⟩⟩)

theorem opRefclkLost_of_started {s : State} (h : s.sys.phase = .running ∨ s.sys.phase = .failed ∨ s.sys.phase = .fullStop ∨
    s.sys.phase = .ellipsis) (r : BitVec 1) :
    s.opRefclkLost r = s.refclkGone.fullStop causeRefclkLost false (some r) := by
  unfold opRefclkLost
  dsimp only
  split
  · next hheld => simp [hheld] at h
  · next hsettle => simp [hsettle] at h
  · next hwait => simp [hwait] at h
  · rfl

theorem opRefclkReturn_of_not_waiting {s : State} (h : s.sys.phase ≠ .waitRef) (env : StartEnv) :
    s.opRefclkReturn env = { s with sys := { s.sys with refclk := true } } := if_neg h

end State

/-- Settles O16. -/
theorem resetPinsAndReference : Obligations.ResetPinsAndReference := by
  unfold Obligations.ResetPinsAndReference
  refine ⟨⟨fun s x ok h => ?rise, fun s x ok h => ?high, fun s => ?fall, fun s r h => ?pulse, fun s r h => ?pulseHeld,
    fun s r h => ?pulseStopped⟩, fun s r h hf => ?lost, fun s r h => ?lostWaiting, fun s r h => ?lostStopped, fun s env h => ?back⟩
  case rise =>
    refine ⟨_, rfl, s.opPorBRise_porFrom h x ok, ?_⟩
    rw [State.opPorBRise_of_held h]
    exact ⟨rfl, rfl, rfl, rfl⟩
  case high => exact exec_next rfl (if_pos h)
  case fall => exact ⟨_, rfl, s.porState_porFrom .held _ _⟩
  case pulse =>
    have hc : s.canStop = true := by rcases h with h | h | h | h <;> rw [State.canStop, h]
    obtain ⟨stamps, -, role⟩ := s.enterStop_sys causeSysReset false r
    exact ⟨_, exec_next rfl (State.fullStop_of_uncounted hc rfl false (some r)), s.enterStop_stoppedFrom causeSysReset false r,
      role, stamps⟩
  case pulseHeld => exact exec_next rfl (State.fullStop_of_held h _ _ _)
  case pulseStopped => exact exec_next rfl (State.fullStop_of_stopped h _ _ _)
  case lost =>
    have hc : s.refclkGone.canStop = true := by
      have hphase : s.refclkGone.sys.phase = s.sys.phase := rfl
      rcases h with h | h <;> rw [State.canStop, hphase, h]
    have hlost : s.opRefclkLost r = s.refclkGone.fullStop causeRefclkLost false (some r) :=
      State.opRefclkLost_of_started (h.imp_right .inl) r
    have hstop := State.fullStop_of_few hc (cause := causeRefclkLost) rfl hf false (some r)
    obtain ⟨stamps, refclk, -⟩ := s.refclkGone.stamped.enterStop_sys causeRefclkLost false r
    refine ⟨_, exec_next rfl (hlost.trans hstop), ?_, refclk, stamps⟩
    exact (s.refclkGone.stamped.enterStop_stoppedFrom causeRefclkLost false r).of_agreeing rfl rfl
      (fun ⟨otp, links, doms, glb, keys, lanes, mem, fab, fe, vd, red, flt, pwr, isl, tel⟩ =>
        ⟨otp, links, doms, glb, keys, lanes, mem, fab, fe, vd, red, flt, pwr, isl, tel⟩) (fun _ _ => rfl) rfl rfl rfl
  case lostWaiting => exact exec_next rfl (State.opRefclkLost_of_waiting h r)
  case lostStopped =>
    exact exec_next rfl ((State.opRefclkLost_of_started (.inr (.inr h)) r).trans (State.fullStop_of_stopped (s := s.refclkGone) h _ _ _))
  case back => exact exec_next rfl (State.opRefclkReturn_of_not_waiting h env)

end Sys2Proof.Machine
end

section
/-! PROOFS. A start ends running or failed with a code (O17). -/

namespace Sys2Proof.Machine

namespace State

/-- A start that came to its end: running with step 15 reached, or failed with a code (R131). -/
def startEnded (t : State) : Prop := (t.sys.phase = .running ∧ t.boot.step = 15) ∨ (t.sys.phase = .failed ∧ t.boot.failCode ≠ 0)

/-! ### A failed start -/

theorem reissueCert_failCode (s : State) : s.reissueCert.boot.failCode = s.boot.failCode := by
  unfold reissueCert; split <;> rfl

theorem reissueCert_step (s : State) : s.reissueCert.boot.step = s.boot.step := by
  unfold reissueCert; split <;> rfl

/-- The state whose grade `setGrade` announces, before the certificates follow it. -/
def graded (s : State) (g : BitVec 2) : State :=
  let s := { s with flt.health.grade := g, flt.health.request := gradeRequest g,
                    tray.grade := g.setWidth 8, tray.request := (gradeRequest g).setWidth 8 }
  let s := s.fltEvent fevGrade
  (s.trace 0x0B none none 0 0 (leBytes 1 g.toNat ++ leBytes 1 s.ratePct)).trayPost (gradeValue g)

theorem graded_boot (s : State) (g : BitVec 2) : (s.graded g).boot = s.boot :=
  ((trayPost_keeps (K := 0x520000) (trace_keeps (Keeps.refl _ _) (by decide)) (by decide)).boot.resolve_left (by decide) :)

theorem graded_grade (s : State) (g : BitVec 2) : (s.graded g).flt.health.grade = g := by
  have h : (s.graded g).flt = _ :=
    ((trayPost_keeps (K := 0x520000) (trace_keeps (Keeps.refl _ _) (by decide)) (by decide)).flt.resolve_left (by decide) :)
  rw [h]; rfl

theorem setGrade_eq (s : State) (g : BitVec 2) :
    s.setGrade g = if (s.graded g).boot.certPair = [] then s.graded g else (s.graded g).reissueCert := rfl

theorem setGrade_boot (s : State) (g : BitVec 2) :
    (s.setGrade g).boot.step = s.boot.step ∧ (s.setGrade g).boot.failCode = s.boot.failCode := by
  rw [setGrade_eq]
  split
  · rw [graded_boot]; exact ⟨rfl, rfl⟩
  · rw [reissueCert_step, reissueCert_failCode, graded_boot]; exact ⟨rfl, rfl⟩

theorem setGrade_grade (s : State) (g : BitVec 2) : (s.setGrade g).flt.health.grade = g := by
  rw [setGrade_eq]
  split
  · exact s.graded_grade g
  · rw [(reissueCert_keeps (K := 0x000008) (Keeps.refl _ (s.graded g)) (by decide)).flt.resolve_left (by decide), graded_grade]

/-- What `startFail` records before the grade. -/
def failedAt (s : State) (n : BitVec 4) (code : BitVec 8) : State :=
  { s with sys.phase := .failed, boot.step := n, boot.failCode := code, clk.flashDone := true }

/-- A failed start with its grade, its tray reason and the register port (R131). -/
def failedShown (s : State) (n : BitVec 4) (code : BitVec 8) : State :=
  let t := (s.failedAt n code).setGrade 3
  { t with tray := { t.tray with reason := code }, clk := { t.clk with enPort := setBitTo t.clk.enPort portReg true } }

theorem startFail_eq (s : State) (n : BitVec 4) (code : BitVec 8) : s.startFail n code =
    if code = fcLcEnd ∨ code = fcLcBlank then
      { s.failedShown n code with
        clk := { (s.failedShown n code).clk with enArea := setBitTo (s.failedShown n code).clk.enArea areaLcd true } }
    else s.failedShown n code := rfl

theorem failedShown_keeps (s : State) (n : BitVec 4) (code : BitVec 8) :
    Keeps 0x530008 (s.failedAt n code) ((s.failedAt n code).setGrade 3) :=
  setGrade_keeps (Keeps.refl _ _) (by decide)

theorem failedShown_ended (s : State) (n : BitVec 4) (code : BitVec 8) :
    (s.failedShown n code).sys.phase = .failed ∧ (s.failedShown n code).boot.step = n ∧
      (s.failedShown n code).boot.failCode = code := by
  have hs := (s.failedShown_keeps n code).sys.resolve_left (by decide)
  obtain ⟨hn, hc⟩ := (s.failedAt n code).setGrade_boot 3
  exact ⟨congrArg (·.phase) hs, hn, hc⟩

theorem startFail_failed (s : State) (n : BitVec 4) (code : BitVec 8) :
    (s.startFail n code).sys.phase = .failed ∧ (s.startFail n code).boot.step = n ∧
      (s.startFail n code).boot.failCode = code := by
  rw [startFail_eq]
  split <;> exact s.failedShown_ended n code

theorem startFail_ended (s : State) (n : BitVec 4) {code : BitVec 8} (h : code ≠ 0) : (s.startFail n code).startEnded := by
  obtain ⟨hp, -, hc⟩ := s.startFail_failed n code
  exact .inr ⟨hp, hc.symm ▸ h⟩

/-- A start that fails for its life-cycle state: the register port and the Life-cycle and Debug area answer, and no more is
changed than that, the grade and what announces it (R127, R131). -/
theorem startFail_lifeCycle (s : State) (n : BitVec 4) {code : BitVec 8} (h : code = fcLcEnd ∨ code = fcLcBlank) :
    (s.startFail n code).tray.reason = code ∧ (s.startFail n code).flt.health.grade = 3 ∧
      (s.startFail n code).portOn portReg = true ∧ (s.startFail n code).areaOn areaLcd = true ∧
      ∀ b : Nat, b ≠ areaLcd → (s.startFail n code).clk.enArea.getLsbD b = s.clk.enArea.getLsbD b := by
  have hg : ((s.failedAt n code).setGrade 3).flt.health.grade = 3 := (s.failedAt n code).setGrade_grade 3
  have hclk := (s.failedShown_keeps n code).clk.resolve_left (by decide)
  rw [startFail_eq, if_pos h]
  refine ⟨rfl, hg, ?_, ?_, fun b hb => ?_⟩
  · show (setBitTo _ portReg true).getLsbD portReg = true
    rw [getLsbD_setBitTo _ _ (by decide), if_pos rfl]
  · show (setBitTo _ areaLcd true).getLsbD areaLcd = true
    rw [getLsbD_setBitTo _ _ (by decide), if_pos rfl]
  · show (setBitTo ((s.failedAt n code).setGrade 3).clk.enArea areaLcd true).getLsbD b = s.clk.enArea.getLsbD b
    rw [getLsbD_setBitTo _ _ (by decide), if_neg hb, hclk]
    rfl

/-! ### The steps of Table 4-1 -/

/-- A step that stops the start has ended it. -/
def stageStops (x : Stage2) : Prop := x.2 = false → x.1.startEnded

theorem stageStops.ended {x : Stage2} {t : State} (h : stageStops x) (e : x = (t, false)) : t.startEnded := by
  subst e; exact h rfl

theorem stageStops_go (s : State) : stageStops (s, true) := nofun

theorem stageStops_stFail (s : State) (n : BitVec 4) {code : BitVec 8} (h : code ≠ 0) : stageStops (s.stFail n code) :=
  fun _ => s.startFail_ended n h

theorem stepCore_stops (s : State) (env : StartEnv) : stageStops (s.stepCore env) := by
  unfold stepCore
  dsimp only
  split
  · exact stageStops_stFail _ _ (by decide)
  · exact stageStops_go _

theorem stepOtp_stops (s : State) (env : StartEnv) : stageStops (s.stepOtp env) := by
  unfold stepOtp
  dsimp only
  repeat' split
  any_goals exact stageStops_stFail _ _ (by decide)
  all_goals exact stageStops_go _

theorem stepBist_stops (s : State) (env : StartEnv) : stageStops (s.stepBist env) := by
  unfold stepBist
  dsimp only
  split
  · exact stageStops_stFail _ _ (by decide)
  · exact stageStops_go _

theorem stepRollback_stops (s : State) (env : StartEnv) (img : Bytes) : stageStops (s.stepRollback env img) := by
  unfold stepRollback
  extract_lets
  split
  · exact stageStops_stFail _ _ (by decide)
  · exact stageStops_go _

/-! ### The images -/

theorem slotOrder_code {s : State} {env : StartEnv} {c : BitVec 8} (h : s.slotOrder env = .inr c) : c ≠ 0 := by
  unfold slotOrder at h
  dsimp only at h
  repeat' split at h
  all_goals cases h
  all_goals decide

theorem verifyImage_code {s : State} {img : Bytes} {c : BitVec 8} (h : s.verifyImage img = some c) : c ≠ 0 := by
  unfold verifyImage at h
  dsimp only at h
  repeat' split at h
  all_goals cases h
  all_goals decide

theorem chooseImage_code {s t : State} {env : StartEnv} {n : BitVec 4} {c : BitVec 8}
    (h : s.chooseImage env = (t, .inr (n, c))) : c ≠ 0 := by
  unfold chooseImage at h
  split at h
  · next hc => cases h; exact slotOrder_code hc
  · cases h; decide
  · dsimp only at h
    split at h
    · cases h
    · next hv _ => cases h; exact verifyImage_code hv
    · split at h
      · cases h
      · next hv => cases h; exact verifyImage_code hv

/-! ### Running -/

theorem ackEarly_phase (s : State) : s.ackEarly.sys.phase = s.sys.phase := by
  have h : Keeps 0x400000 ({ s with sys := { s.sys with flrEarly := [] } } : State) s.ackEarly :=
    Keeps.foldl (Keeps.refl _ _) (fun _ f h => out_keeps h (by decide))
  exact congrArg (·.phase) (h.sys.resolve_left (by decide))

/-- The links a start takes up (R97). -/
def linksUp (s : State) (x : BitVec 64) : State :=
  (bitsOf x).foldl (fun (s : State) l => s.setEnable (.link (BitVec.ofNat 6 l)) true) s

/-- The limits the power manager sent before step 15 (R134). -/
def limitsTaken (s : State) : State :=
  s.sys.pmLimPending.foldl (fun (s : State) x => s.takeLimit x.1 x.2) { s with sys.pmLimPending := [] }

/-- What the firmware still does at the end of step 15 (R97, R134). -/
def startTail (s : State) (x : BitVec 64) : State :=
  if (s.linksUp x).limitsTaken.portOn portStaging then (s.linksUp x).limitsTaken.ackEarly.meterDeliverAll
  else (s.linksUp x).limitsTaken

theorem linksUp_keeps (s : State) (x : BitVec 64) : Keeps 0x77BF44 s (s.linksUp x) :=
  Keeps.foldl (Keeps.refl _ s) (fun _ _ h => setEnable_keeps h (by decide))

theorem limitsTaken_keeps (s : State) : Keeps 0x040000 ({ s with sys := { s.sys with pmLimPending := [] } } : State) s.limitsTaken :=
  Keeps.foldl (Keeps.refl _ _) (fun _ _ h => takeLimit_keeps h (by decide))

theorem limitsTaken_started (s : State) (x : BitVec 64) :
    (s.linksUp x).limitsTaken.sys.phase = s.sys.phase ∧ (s.linksUp x).limitsTaken.boot = s.boot := by
  have hl := s.linksUp_keeps x
  have ht := (s.linksUp x).limitsTaken_keeps
  constructor
  · rw [ht.sys.resolve_left (by decide), ← hl.sys.resolve_left (by decide)]
  · rw [ht.boot.resolve_left (by decide), ← hl.boot.resolve_left (by decide)]

theorem startTail_started (s : State) (x : BitVec 64) :
    (s.startTail x).sys.phase = s.sys.phase ∧ (s.startTail x).boot = s.boot := by
  obtain ⟨hp, hb⟩ := s.limitsTaken_started x
  unfold startTail
  split
  · have hd := meterDeliverAll_keeps (K := 0x440000) (Keeps.refl _ (s.linksUp x).limitsTaken.ackEarly) (by decide)
    have ha := ackEarly_keeps (K := 0x400001) (Keeps.refl _ (s.linksUp x).limitsTaken) (by decide)
    rw [hd.sys.resolve_left (by decide), hd.boot.resolve_left (by decide), ackEarly_phase, ha.boot.resolve_left (by decide)]
    exact ⟨hp, hb⟩
  · exact ⟨hp, hb⟩

theorem stepRun_ended (s : State) (env : StartEnv) : (s.stepRun env).startEnded := by
  obtain ⟨t, ht, hp, hb⟩ : ∃ t : State, s.stepRun env = t.startTail env.enLink ∧ t.sys.phase = .running ∧ t.boot.step = 15 :=
    ⟨_, rfl, rfl, rfl⟩
  obtain ⟨hp', hb'⟩ := t.startTail_started env.enLink
  rw [ht]
  exact .inl ⟨hp'.trans hp, by rw [hb', hb]⟩

theorem stepConfig_ended (s : State) (env : StartEnv) (img : Bytes) : (s.stepConfig env img).startEnded := by
  unfold stepConfig
  dsimp only
  split
  · exact startFail_ended _ _ (by decide)
  · split
    · exact startFail_ended _ _ (by decide)
    · exact stepRun_ended _ _

theorem startImage_ended (s : State) (env : StartEnv) : (s.startImage env).startEnded := by
  unfold startImage
  dsimp only
  split
  · next h => exact startFail_ended _ _ (chooseImage_code h)
  · split
    · next h => exact (stepRollback_stops _ _ _).ended h
    · exact stepConfig_ended _ _ _

/-- With refclk up a start comes to its end (R131). -/
theorem startUp_ended {s : State} (h : s.sys.refclk = true) (env : StartEnv) : (s.startUp env).startEnded := by
  unfold startUp
  rw [if_neg (by simp [h])]
  dsimp only
  split
  · next e => exact (stepCore_stops _ _).ended e
  · split
    · next e => exact (stepOtp_stops _ _).ended e
    · split
      · next e => exact (stepBist_stops _ _).ended e
      · split
        · exact startFail_ended _ _ (by decide)
        · exact startImage_ended _ _

/-- Without refclk the start records the loss and waits (R74). -/
theorem startUp_of_lost {s : State} (h : s.sys.refclk = false) (env : StartEnv) : s.startUp env =
    ({ s with sys := { s.sys with phase := .waitRef }, boot := { s.boot with step := 2 } } : State).out (.record causeRefclkLost 0) := by
  unfold startUp
  rw [if_pos (by simp [h])]
  rfl

/-! ### Step 4 on a blank device and at end of life -/

/-- The state in which step 4 begins, where the lockstep pair agrees. -/
def coreChecked (s : State) (env : StartEnv) : State :=
  let t : State := { s.beginTime with boot.mRom := sha384 env.rom }
  { t with flt.health.coldCore := t.flt.health.coldCore || env.coreMismatch }

theorem stepCore_of_match {s : State} {env : StartEnv} (h : env.coreMismatch = false) :
    s.beginTime.stepCore env = (s.coreChecked env, true) := by
  unfold stepCore
  dsimp only
  rw [if_neg (by simp [h])]
  rfl

/-- Step 4 fails for the life-cycle state from a state that differs in what the island and the decode record. -/
theorem stepOtp_dead {s : State} {env : StartEnv} (hp : (lcDecode s.lcWord).isPartial = false)
    (hl : (lcDecode s.lcWord).state = 0 ∨ (lcDecode s.lcWord).state = 3) :
    ∃ t : State, s.stepOtp env = t.stFail 4 (if (lcDecode s.lcWord).state = 0 then fcLcBlank else fcLcEnd) ∧
      t.lcd.state = (lcDecode s.lcWord).state ∧ t.keys = s.keys ∧ t.otp = s.otp ∧ t.clk = s.clk := by
  have hi := stepIsland_keeps (K := 0x4E0008) (Keeps.refl _ s) (by decide)
  have hotp := hi.otp.resolve_left (by decide)
  have hw : s.stepIsland.lcWord = s.lcWord := by rw [lcWord, lcWord, otpRow, otpRow, hotp]; rfl
  unfold stepOtp
  dsimp only
  simp only [hw, hp, Bool.false_eq_true, if_false]
  have hkeys := hi.keys.resolve_left (by decide)
  have hclk := hi.clk.resolve_left (by decide)
  rcases hl with h | h
  · rw [if_neg (by rw [h]; decide), if_pos h, if_pos h]
    exact ⟨_, rfl, rfl, hkeys, hotp, hclk⟩
  · rw [if_pos h, if_neg (by rw [h]; decide)]
    exact ⟨_, rfl, rfl, hkeys, hotp, hclk⟩

theorem coreChecked_keeps (s : State) (env : StartEnv) : Keeps 0x010009 s (s.coreChecked env) :=
  Keeps.put (Keeps.put (beginTime_keeps (Keeps.refl _ s) (by decide)) (h3 := .inl (by decide))) (h16 := .inl (by decide))

/-- A start of a dead device ends in step 4 (R127). -/
theorem startUp_of_dead {s : State} {env : StartEnv} (hr : s.sys.refclk = true) (hm : env.coreMismatch = false)
    (hp : (lcDecode s.lcWord).isPartial = false) (hl : (lcDecode s.lcWord).state = 0 ∨ (lcDecode s.lcWord).state = 3) :
    ∃ t : State, s.startUp env = t.startFail 4 (if (lcDecode s.lcWord).state = 0 then fcLcBlank else fcLcEnd) ∧
      t.lcd.state = (lcDecode s.lcWord).state ∧ t.keys = s.keys ∧ t.otp = s.otp ∧ t.clk = s.clk := by
  have hc := s.coreChecked_keeps env
  have hotp := hc.otp.resolve_left (by decide)
  have hw : (s.coreChecked env).lcWord = s.lcWord := by rw [lcWord, lcWord, otpRow, otpRow, hotp]; rfl
  rw [← hw] at hp hl ⊢
  obtain ⟨t, ht, hlcd, hkeys, hotp', hclk⟩ := stepOtp_dead (env := env) hp hl
  refine ⟨t, ?_, hlcd, hkeys.trans (hc.keys.resolve_left (by decide)), hotp'.trans hotp,
    hclk.trans (hc.clk.resolve_left (by decide))⟩
  unfold startUp
  rw [if_neg (by simp [hr])]
  dsimp only
  rw [stepCore_of_match hm]
  dsimp only
  rw [ht]
  rfl

end State

/-- Settles O17. -/
theorem startUp : Obligations.StartUp := by
  unfold Obligations.StartUp
  refine ⟨⟨fun s env h hr => ?settled, fun s env h => ?back, fun s env h hr => ?done, fun s env h hr => ?settledLost,
    fun s env h hr => ?doneLost, fun s env h => ?notSettling, fun s env h => ?notStopped⟩,
    fun s env h hr hm hp hl => ?dead⟩
  case settled => exact ⟨_, exec_next rfl (if_pos h), State.startUp_ended hr env⟩
  case back => exact ⟨_, exec_next rfl (if_pos h), State.startUp_ended rfl env⟩
  case done => exact ⟨_, exec_next rfl (if_pos h), State.startUp_ended (s := { s with flt := { s.flt with resets := [] } }) hr env⟩
  case settledLost => exact exec_next rfl ((if_pos h).trans (State.startUp_of_lost hr env))
  case doneLost => exact ⟨_, exec_next rfl ((if_pos h).trans
    (State.startUp_of_lost (s := { s with flt := { s.flt with resets := [] } }) hr env)), rfl, rfl⟩
  case notSettling => exact exec_next rfl (if_neg h)
  case notStopped => exact exec_next rfl (if_neg h)
  case dead =>
    obtain ⟨t, ht, hlcd, hkeys, hotp, hclk⟩ := State.startUp_of_dead hr hm hp hl
    have hcode : (if (lcDecode s.lcWord).state = 0 then fcLcBlank else fcLcEnd) = fcLcEnd ∨
        (if (lcDecode s.lcWord).state = 0 then fcLcBlank else fcLcEnd) = fcLcBlank := by split <;> simp
    have hk := State.startFail_keeps (K := 0x53000D) (n := 4) (code := if (lcDecode s.lcWord).state = 0 then fcLcBlank else fcLcEnd)
      (Keeps.refl _ t) (by decide)
    obtain ⟨hphase, hstep, hfail⟩ := t.startFail_failed 4 (if (lcDecode s.lcWord).state = 0 then fcLcBlank else fcLcEnd)
    obtain ⟨hreason, hgrade, hport, harea, hareas⟩ := t.startFail_lifeCycle 4 hcode
    refine ⟨_, exec_next rfl ((if_pos h).trans ht), hphase, hstep, hfail, hreason.trans hfail.symm, hgrade, hport, harea,
      ?_, (hk.keys.resolve_left (by decide)).trans hkeys, (hk.otp.resolve_left (by decide)).trans hotp, fun b hb => ?_⟩
    · rw [hk.lcd.resolve_left (by decide), hlcd]
    · rw [hareas b hb, hclk]

end Sys2Proof.Machine
end

section
/-! PROOFS. Memory accesses and the controllers' responses (O23, O24): what a request that is accepted, or refused, does, and
what an answer of status OKAY does. -/

namespace Sys2Proof.Machine

/-! ### The line of a DPA -/

theorem getLsbD_lineDpa (d : Dpa) (j : Nat) : (lineDpa d).getLsbD j = (d.getLsbD j && decide (6 ≤ j)) := by
  have h : (0x3F : BitVec 43).getLsbD j = decide (j < 6) := by
    rcases Nat.lt_or_ge j 6 with hj | hj
    · rw [decide_eq_true hj]; interval_cases j <;> rfl
    · rw [decide_eq_false (by omega), BitVec.getLsbD, Nat.testBit_eq_false_of_lt]
      calc (0x3F : BitVec 43).toNat < 2 ^ 6 := by decide
        _ ≤ 2 ^ j := Nat.pow_le_pow_right (by decide) hj
  rw [lineDpa, BitVec.getLsbD_and, BitVec.getLsbD_not, h]
  rcases Nat.lt_or_ge j 43 with hj | hj
  · simp only [hj, decide_true, Bool.true_and]
    congr 1; by_cases h6 : 6 ≤ j
    · simp [h6]
    · simp [h6, Nat.lt_of_not_le h6]
  · rw [BitVec.getLsbD_of_ge d j hj, Bool.false_and, Bool.false_and]

@[simp] theorem lineDpa_lineDpa (d : Dpa) : lineDpa (lineDpa d) = lineDpa d := by
  refine BitVec.eq_of_getLsbD_eq fun j _ => ?_
  rw [getLsbD_lineDpa, getLsbD_lineDpa, Bool.and_assoc, Bool.and_self]

theorem extract_lineDpa (d : Dpa) {a : Nat} (ha : 6 ≤ a) (n : Nat) : (lineDpa d).extractLsb' a n = d.extractLsb' a n := by
  refine BitVec.eq_of_getLsbD_eq fun j _ => ?_
  rw [BitVec.getLsbD_extractLsb', BitVec.getLsbD_extractLsb', getLsbD_lineDpa, decide_eq_true (by omega : 6 ≤ a + j),
    Bool.and_true]

@[simp] theorem dpaChan_lineDpa (d : Dpa) : dpaChan (lineDpa d) = dpaChan d := extract_lineDpa d (by decide) 5
@[simp] theorem dpaLine_lineDpa (d : Dpa) : dpaLine (lineDpa d) = dpaLine d := extract_lineDpa d (by decide) 32
@[simp] theorem dpaSub_lineDpa (d : Dpa) : dpaSub (lineDpa d) = dpaSub d := extract_lineDpa d (by decide) 2

namespace State

/-! ### Requests of masters -/

theorem masterThere_of_running {s : State} {m : Master} (h : s.running = true) (hm : m ≠ .debug) : s.masterThere m = true := by
  simp [masterThere, h, bne_iff_ne.mpr hm]

theorem masterThere_debug_closed {s : State} (h : s.lcd.debugOpen = false) : s.masterThere .debug = false := by
  simp [masterThere, debugReaches, h]

theorem memRequest_of_absent {s : State} {w : MemWait} (h : s.masterThere w.master = false) : s.memRequest w = s := by
  simp [memRequest, h]

theorem memRequest_of_refused {s t : State} {w : MemWait} {st : Status} (h : s.masterThere w.master = true)
    (hr : s.memRefusal w.master w.key w.dpa w.write.isSome = some (st, t)) :
    s.memRequest w = t.out (.memDone w.master (lineDpa w.dpa) st) := by simp [memRequest, h, hr]

/-- A refusal that raises an alarm bit. -/
theorem memRequest_of_alarm {s : State} {w : MemWait} {st : Status} {b : Nat} (h : s.masterThere w.master = true)
    (hr : s.memRefusal w.master w.key w.dpa w.write.isSome = some (st, s.memAlarm b)) :
    s.memRequest w = { s with
      mem := { s.mem with alarm := setBitTo s.mem.alarm b true }, outs := .memDone w.master (lineDpa w.dpa) st :: s.outs } := by
  rw [memRequest_of_refused h hr]; rfl

theorem memRequest_of_issued {s t : State} {w : MemWait} (h : s.masterThere w.master = true)
    (hr : s.memRefusal w.master w.key w.dpa w.write.isSome = none) (ht : s.memTry s.mem.waits w = some t) :
    s.memRequest w = t := by simp [memRequest, h, hr, memAccept, ht]

section
variable {s : State} {m : Master} {i : KeyIdx} {d : Dpa}

theorem memRefusal_of_off (h : s.mcServes (dpaChan d) = false) (write : Bool) : s.memRefusal m i d write = some (stFnOff, s) := by
  simp [memRefusal, h]

variable (hon : s.mcServes (dpaChan d) = true)
include hon

theorem memRefusal_of_protected (ha : s.admitted m d = false) (write : Bool) :
    s.memRefusal m i d write = some (stProtected, s.memAlarm memPrRefused) := by simp [memRefusal, hon, ha]

theorem memRefusal_of_scope (ha : s.admitted m d = true) {write : Bool} (hs : s.scopeOk m i write = false) :
    s.memRefusal m i d write = some (stKeyScope, s.memAlarm memScopeRefused) := by simp [memRefusal, hon, ha, hs]

end

/-- R225: an index of another slot, or of none. -/
theorem scopeOk_of_other_slot {s : State} {m : Master} {i : KeyIdx} {y : Slot} (hm : s.masterSlot m = some (some y)) (hi : i ≠ 0)
    (h : (s.memIdx i).assigned = false ∨ (s.memIdx i).slot ≠ y) (write : Bool) : s.scopeOk m i write = false := by
  simp only [scopeOk, hm, if_neg hi]
  rcases h with h | h
  · rw [h, Bool.false_and]
  · rw [beq_false_of_ne fun e => h (Option.some.inj e).symm, Bool.and_false]

theorem scopeOk_of_unassigned {s : State} {m : Master} {i : KeyIdx} (hm : s.masterSlot m = none) (hi : i ≠ 0)
    (h : (s.memIdx i).assigned = false) (write : Bool) : s.scopeOk m i write = false := by
  simp only [scopeOk, hm, h, beq_false_of_ne hi, Bool.or_false]

/-! ### Requests that are accepted -/

/-- What waits at the controller once a request is issued. -/
def mcReqOf (s : State) (i : KeyIdx) (d : Dpa) (p : McPurpose) (id : BitVec 6) (tag : Option MemTag) : McReq :=
  { ch := dpaChan d, sub := dpaSub d, id := id, key := i, dpa := lineDpa d, purpose := p, discard := false, tag := tag,
    issue := tweakIssue (s.laneCluster (.mc (dpaChan d))) d p }

/-- A request at the controller, counted. -/
def mcIssued (s : State) (q : McReq) (k : Nat) : State :=
  (({ s with mem := { s.mem with out := s.mem.out ++ [q] } } : State).progress q.ch.toNat).count k 1

theorem mcIssue_read {s : State} {i : KeyIdx} {d : Dpa} {p : McPurpose} {tag : Option MemTag} {id : BitVec 6}
    (hf : s.freeMcId (dpaChan d) (dpaSub d) = some id) (hr : s.mcReady (dpaChan d) = true) :
    s.mcIssue i d p none tag = some ((s.mcIssued (s.mcReqOf i d p id tag) 5).out
      (.mcReq (dpaChan d) (dpaSub d) id false (dpaLine d) 0 0)) := by
  simp only [mcIssue, hf, hr, Bool.not_true, Bool.false_eq_true, if_false]
  rfl

theorem mcIssue_write {s : State} {i : KeyIdx} {d : Dpa} {p : McPurpose} {tag : Option MemTag} {id : BitVec 6} {c : Line × BitVec 32}
    (hf : s.freeMcId (dpaChan d) (dpaSub d) = some id) (hr : s.mcReady (dpaChan d) = true) :
    s.mcIssue i d p (some c) tag = some ((s.mcIssued (s.mcReqOf i d p id tag) 6).out
      (.mcReq (dpaChan d) (dpaSub d) id true (dpaLine d) c.1 c.2)) := by
  simp only [mcIssue, hf, hr, Bool.not_true, Bool.false_eq_true, if_false]
  rfl

theorem mcWrite_of_key {s t : State} {m : Master} {i : KeyIdx} {d : Dpa} {x : Line} {tag : Option MemTag} {k : Bytes}
    (hk : s.writeKeyOf i = some k) (h : s.mcIssue i d (.write m) (some (sealLine k i (lineDpa d) x)) tag = some t) :
    s.mcWrite m i d x tag = some (t.noteSealed m i d) := by simp [mcWrite, hk, h]

section
variable {s : State} {w : MemWait} (hw : s.mem.waits = []) (hf : s.fencedOn w.dpa = []) (hb : s.lineBusy w.dpa = false)
include hw hf hb

theorem memTry_read {t : State} (hn : w.write = none)
    (h : s.mcIssue w.key w.dpa (.read w.master (s.trialKeys w.key w.dpa) [] []) none w.tag = some t) :
    s.memTry s.mem.waits w = some t := by
  have hown : (match masterCtx w.master with
      | none => ([] : List FenceEntry).isEmpty
      | some c => ([] : List FenceEntry).all fun e => masterCtx e.master == some c) = true := by
    cases masterCtx w.master <;> rfl
  simp only [memTry, hw, hn, hb, hf, List.any_nil, Bool.or_self, Bool.false_eq_true, if_false]
  cases masterCtx w.master <;> simp [h]

variable {mask : BitVec 64} {x : Line} (hn : w.write = some (mask, x)) (hheld : (s.memIdx w.key).futureHeld = false)
  (hurgent : (s.memIdx w.key).urgent = false)
include hn hheld hurgent

/-- R237: data that a group may still take back enters the fence. -/
theorem memTry_fence (hrefs : w.refs ≠ []) (ha : w.atomic = false) (hl : s.mem.fence.length < fenceSize) :
    s.memTry s.mem.waits w = some (s.fencePush {
      data := x, mask := mask, dpa := lineDpa w.dpa, key := w.key, master := w.master, refs := w.refs, tag := w.tag }) := by
  have hneeds : s.needsFence w = true := by simp [needsFence, hn, hrefs]
  have hroom : s.fenceBlocked w = false := by
    rw [fenceBlocked, decide_eq_false (Nat.not_le.mpr hl), Bool.and_false]
  simp only [memTry, hw, hn, hb, hheld, hurgent, hneeds, hroom, ha, List.any_nil, Bool.or_self, Bool.false_eq_true, if_false,
    if_true]

theorem needsFence_of_no_refs (hrefs : w.refs = []) : s.needsFence w = false := by simp [needsFence, hrefs, hf]

theorem memTry_whole {t : State} (hrefs : w.refs = []) (hm : mask = BitVec.allOnes 64)
    (h : s.mcWrite w.master w.key w.dpa x w.tag = some t) : s.memTry s.mem.waits w = some t := by
  have hneeds := needsFence_of_no_refs hw hf hb hn hheld hurgent hrefs
  simp only [memTry, hw, hn, hb, hheld, hurgent, hneeds, hm, List.any_nil, Bool.or_self, Bool.false_eq_true, if_false, if_true, h]

theorem memTry_part {t : State} (hrefs : w.refs = []) (hm : mask ≠ BitVec.allOnes 64)
    (h : s.mcIssue w.key w.dpa (.modify w.master (s.trialKeys w.key w.dpa) mask x) none w.tag = some t) :
    s.memTry s.mem.waits w = some t := by
  have hneeds := needsFence_of_no_refs hw hf hb hn hheld hurgent hrefs
  simp only [memTry, hw, hn, hb, hheld, hurgent, hneeds, List.any_nil, Bool.or_self, Bool.false_eq_true, if_false, h,
    if_neg hm]

end

/-! ### What sealing a line leaves -/

theorem activity_mem (s : State) (c : Option CtxId) (n : Nat) : (s.activity c n).mem = s.mem :=
  (activity_keeps (K := 0x042000) (Keeps.refl _ s) (by decide)).mem.resolve_left (by decide)

theorem activity_outs (s : State) (c : Option CtxId) (n : Nat) : (s.activity c n).outs = s.outs :=
  (activity_keeps (K := 0x042000) (Keeps.refl _ s) (by decide)).outs.resolve_left (by decide)

theorem noteSealed_outs (s : State) (m : Master) (i : KeyIdx) (d : Dpa) : (s.noteSealed m i d).outs = s.outs :=
  (noteSealed_keeps (K := 0x042140) (Keeps.refl _ s) (by decide)).outs.resolve_left (by decide)

theorem useKey_mem (s : State) (r n : Nat) : (s.useKey r n).mem = s.mem :=
  (useKey_keeps (K := 0x000040) (Keeps.refl _ s) (by decide)).mem.resolve_left (by decide)

theorem meter_mem (s : State) (d : Slot) (k n : Nat) : (s.meter d k n).mem = s.mem :=
  (meter_keeps (K := 0x040000) (Keeps.refl _ s) (by decide)).mem.resolve_left (by decide)

/-- Of the Memory Region sealing a line marks its channel as written under the index (R512). -/
theorem noteSealed_mem (s : State) (m : Master) (i : KeyIdx) (d : Dpa) : (s.noteSealed m i d).mem =
    ((s.useKey (s.writeRowOf i) 6).modChan (dpaChan d) fun c => { c with written := setBitTo c.written i.toNat true }).mem := by
  unfold noteSealed
  dsimp only
  rw [activity_mem]
  split
  · rw [meter_mem]
  · rfl

theorem noteSealed_written (s : State) (m : Master) (i : KeyIdx) (d : Dpa) :
    ((s.noteSealed m i d).chan (dpaChan d)).written.getLsbD i.toNat = true := by
  rw [chan, noteSealed_mem, ← chan, modChan_chan_same]
  exact (getLsbD_setBitTo _ _ i.isLt _).trans (if_pos rfl)

theorem noteSealed_fence (s : State) (m : Master) (i : KeyIdx) (d : Dpa) : (s.noteSealed m i d).mem.fence = s.mem.fence := by
  rw [noteSealed_mem]
  exact congrArg (·.fence) (s.useKey_mem _ 6)

/-! ### The answers of a controller -/

section
variable {s : State} {m : Master} {i : KeyIdx} {d : Dpa} {keys : List Bytes} {rsp : McRsp} (hst : rsp.status = 0)
  (hkeys : keys ≠ []) (hidx : rsp.rside.extractLsb' 28 4 = i)
include hst hkeys hidx

theorem openRsp_opened {p : Line} (h : (keys.findSome? fun k => openLine k (lineDpa d) rsp.rdata rsp.rside) = some p) :
    s.openRsp m i d keys rsp = (s.activity (masterCtx m) lineActivity, .opened p) := by
  simp [openRsp, hst, hkeys, hidx, h]

theorem openRsp_failed (h : (keys.findSome? fun k => openLine k (lineDpa d) rsp.rdata rsp.rside) = none) :
    s.openRsp m i d keys rsp = ((s.activity (masterCtx m) lineActivity).tagFail m i d rsp.rside, .failed true) := by
  simp [openRsp, hst, hkeys, hidx, h]

end

/-- The alarm of a line that does not verify, on the ports (R231). -/
theorem tagFail_outs (s : State) (m : Master) (i : KeyIdx) (d : Dpa) (side : BitVec 32) :
    (s.tagFail m i d side).outs =
      .memTagFail (dpaChan d) (dpaLine d) i (masterCtx m) :: .record causeMemTagFail (lineDpa d).toNat :: s.outs := rfl

theorem memEnd_outs (s : State) (m : Master) (tag : Option MemTag) (d : Dpa) (st : Status) (alarm : Bool) :
    (s.memEnd m tag d st alarm).outs = if memTold tag m then s.outs else .memDone m (lineDpa d) st :: s.outs := by
  unfold memEnd
  dsimp only
  split <;> split <;> rfl

theorem memEnd_ok {s : State} {m : Master} {tag : Option MemTag} (h : memTold tag m = false) (d : Dpa) (alarm : Bool) :
    s.memEnd m tag d stOk alarm = s.out (.memDone m (lineDpa d) stOk) := by
  simp only [memEnd, h, decide_true, Bool.true_or, Bool.false_eq_true, if_false, if_true]

/-- A request that has been answered is at the controller no longer, and its cluster made progress. -/
def answered (s : State) (q : McReq) : State :=
  ({ s with mem := { s.mem with out := s.mem.out.filter (· != q) } } : State).progress q.ch.toNat

theorem answered_outs (s : State) (q : McReq) : (s.answered q).outs = s.outs := rfl

section
variable {s : State} {q : McReq} {rsp : McRsp}

theorem mcAnswer_of_discard (h : q.discard = true) (hst : rsp.status = 0) :
    s.mcAnswer q rsp = { s with mem := { s.mem with out := s.mem.out.filter (· != q) } } := by simp [mcAnswer, h, hst]

variable (hd : q.discard = false)
include hd

theorem mcAnswer_read {t : State} {m : Master} {keys : List Bytes} {merge : List (BitVec 64 × Line)} {refs : List GroupRef} {p : Line}
    (hp : q.purpose = .read m keys merge refs) (h : (s.answered q).openRsp m q.key q.dpa keys rsp = (t, .opened p)) :
    s.mcAnswer q rsp = (t.out (.memData m q.dpa (mergeAll p merge) refs)).fenceRelease := by
  rw [answered] at h
  simp only [mcAnswer, hd, hp, h, Bool.false_eq_true, if_false]

theorem mcAnswer_read_failed {t : State} {m : Master} {keys : List Bytes} {merge : List (BitVec 64 × Line)} {refs : List GroupRef}
    {a : Bool} (hp : q.purpose = .read m keys merge refs) (h : (s.answered q).openRsp m q.key q.dpa keys rsp = (t, .failed a)) :
    s.mcAnswer q rsp = (t.memEnd m q.tag q.dpa stBusError a).fenceRelease := by
  rw [answered] at h
  simp only [mcAnswer, hd, hp, h, Bool.false_eq_true, if_false]

theorem mcAnswer_modify {t : State} {m : Master} {keys : List Bytes} {mask : BitVec 64} {x p : Line}
    (hp : q.purpose = .modify m keys mask x) (h : (s.answered q).openRsp m q.key q.dpa keys rsp = (t, .opened p)) :
    s.mcAnswer q rsp = (t.mergedPut q (mergeLine p x mask)).fenceRelease := by
  rw [answered] at h
  simp only [mcAnswer, hd, hp, h, Bool.false_eq_true, if_false]

theorem mcAnswer_modify_failed {t : State} {m : Master} {keys : List Bytes} {mask : BitVec 64} {x : Line} {a : Bool}
    (hp : q.purpose = .modify m keys mask x) (h : (s.answered q).openRsp m q.key q.dpa keys rsp = (t, .failed a)) :
    s.mcAnswer q rsp = (t.memEnd m q.tag q.dpa stBusError a).fenceRelease := by
  rw [answered] at h
  simp only [mcAnswer, hd, hp, h, Bool.false_eq_true, if_false]

/-- R45: an untold write that the controller has performed is answered. -/
theorem mcAnswer_write {m : Master} (hp : q.purpose = .write m) (hst : rsp.status = 0) (ht : memTold q.tag m = false) :
    s.mcAnswer q rsp = ((s.answered q).out (.memDone m (lineDpa q.dpa) stOk)).fenceRelease := by
  have htag : q.tag = none := by
    cases h : q.tag with
    | none => rfl
    | some x => rw [h] at ht; cases ht
  rw [htag] at ht
  have hmem : (s.answered q).writeAnswered q m 0 = (s.answered q).out (.memDone m (lineDpa q.dpa) stOk) := by
    have hdone : (s.answered q).memDoneOk m q.tag q.dpa = (s.answered q).memEnd m none q.dpa stOk false := by rw [htag]; rfl
    rw [writeAnswered, if_neg (by decide), if_neg (by decide), if_neg (by decide), hdone, memEnd_ok ht]
  rw [answered] at hmem
  simp only [mcAnswer, hd, hp, hst, hmem, Bool.false_eq_true, if_false]
  rfl

end

theorem outs_of_settled {s : State} : s.outs <:+ s.settleAll.outs :=
  (settleAll_keeps (K := 0x75B340) (Keeps.refl _ s) (by decide)).grew

theorem outs_of_fenceRelease (s : State) : s.outs <:+ s.fenceRelease.settleAll.outs :=
  (fenceRelease_keeps (K := 0x552340) (Keeps.refl _ s) (by decide)).grew.trans outs_of_settled

theorem opMcResponse_of_outstanding {s : State} {ch : ChanId} {sub : BitVec 2} {id : BitVec 6} {q : McReq}
    (h : (s.mem.out.find? fun q => q.ch == ch && q.sub == sub && q.id == id && !q.isMerged) = some q) (rsp : McRsp) :
    s.opMcResponse ch sub id rsp = s.mcAnswer q rsp := by simp only [opMcResponse, h]

theorem opMcResponse_of_none {s : State} {ch : ChanId} {sub : BitVec 2} {id : BitVec 6}
    (h : (s.mem.out.find? fun q => q.ch == ch && q.sub == sub && q.id == id && !q.isMerged) = none) (rsp : McRsp) :
    s.opMcResponse ch sub id rsp = if s.running then s.portViolation 0 ch sub 0 else s := by simp only [opMcResponse, h]

/-- A protocol violation is counted, and the first is logged (R608). -/
theorem portViolation_mc (s : State) (ch : ChanId) (sub kind : BitVec 2) :
    ∃ g : Glb, s.portViolation 0 ch sub kind = { s with glb := g } ∧
      g.peCount = satInc s.glb.peCount ∧ g.peMc = true ∧ g.peStaging = s.glb.peStaging ∧
      (s.glb.plValid = false → g.plValid = true ∧ g.plPort = 0 ∧ g.plChan = ch ∧ g.plSub = sub) ∧
      (s.glb.plValid = true → g.plChan = s.glb.plChan ∧ g.plSub = s.glb.plSub) := by
  unfold portViolation
  cases hv : s.glb.plValid with
  | true => exact ⟨_, rfl, by simp [hv], by simp [hv], by simp [hv], nofun, fun _ => by simp [hv]⟩
  | false => exact ⟨_, rfl, by simp [hv], by simp [hv], by simp [hv], fun _ => by simp [hv], nofun⟩

end State

/-- Settles O24. -/
theorem controllerResponses : Obligations.ControllerResponses := by
  unfold Obligations.ControllerResponses
  intro s ch sub id rsp q hst
  dsimp only
  refine ⟨fun m keys merge refs hq hd hp hkeys hidx => ⟨fun p ho => ?opened, fun ho => ?failed⟩, fun m hq hd hp ht => ?write,
    fun hq hd => ?discard, fun hq hr => ?violation, fun hq hr => ?off⟩
  case opened =>
    refine ⟨_, exec_next rfl (congrArg State.settleAll ((State.opMcResponse_of_outstanding hq rsp).trans
      (State.mcAnswer_read hd hp (State.openRsp_opened hst hkeys hidx ho)))), ?_⟩
    have h := State.outs_of_fenceRelease (((s.answered q).activity (masterCtx m) State.lineActivity).out
      (.memData m q.dpa (State.mergeAll p merge) refs))
    rwa [State.out_outs, State.activity_outs, State.answered_outs] at h
  case failed =>
    refine ⟨_, exec_next rfl (congrArg State.settleAll ((State.opMcResponse_of_outstanding hq rsp).trans
      (State.mcAnswer_read_failed hd hp (State.openRsp_failed hst hkeys hidx ho)))), ?_⟩
    have h := State.outs_of_fenceRelease ((((s.answered q).activity (masterCtx m) State.lineActivity).tagFail m q.key q.dpa
      rsp.rside).memEnd m q.tag q.dpa stBusError true)
    rwa [State.memEnd_outs, State.tagFail_outs, State.activity_outs, State.answered_outs] at h
  case write =>
    refine ⟨_, exec_next rfl (congrArg State.settleAll ((State.opMcResponse_of_outstanding hq rsp).trans
      (State.mcAnswer_write hd hp hst ht))), ?_⟩
    exact State.outs_of_fenceRelease ((s.answered q).out (.memDone m (lineDpa q.dpa) stOk))
  case discard =>
    exact exec_next rfl (congrArg State.settleAll ((State.opMcResponse_of_outstanding hq rsp).trans
      (State.mcAnswer_of_discard hd hst)))
  case violation =>
    obtain ⟨g, hg, hfacts⟩ := s.portViolation_mc ch sub 0
    exact ⟨g, exec_next rfl (congrArg State.settleAll (((State.opMcResponse_of_none hq rsp).trans (if_pos hr)).trans hg)), hfacts⟩
  case off => exact exec_next rfl (congrArg State.settleAll ((State.opMcResponse_of_none hq rsp).trans (if_neg (by simp [hr]))))

namespace State

/-! ### Partial writes (R227) -/

theorem memKey_of_keys {s t : State} (h : t.keys = s.keys) (i : KeyIdx) (fut : Bool) : t.memKey i fut = s.memKey i fut := by
  simp only [memKey, keyUsable, keyBytes, row, h]; rfl

theorem writeKeyOf_of_no_sweep {s : State} {i : KeyIdx} (h : (s.memIdx i).sweeping = false) : s.writeKeyOf i = s.memKey i false := by
  simp [writeKeyOf, hasFuture, h]

theorem trialKeys_of_no_sweep {s : State} {i : KeyIdx} (h : (s.memIdx i).sweeping = false) {k : Bytes}
    (hk : s.memKey i false = some k) (d : Dpa) : s.trialKeys i d = [k] := by simp [trialKeys, h, hk]

/-- An identifier that is free stays free where no request is added (R42). -/
theorem freeMcId_of_sub {s t : State} {ch : ChanId} {sub : BitVec 2} {id : BitVec 6} (h : s.freeMcId ch sub = some id)
    (hsub : ∀ q ∈ t.mem.out, q ∈ s.mem.out) : ∃ id', t.freeMcId ch sub = some id' := by
  refine Option.isSome_iff_exists.mp (List.find?_isSome.mpr ⟨id, List.mem_of_find?_eq_some h, ?_⟩)
  have hfree := List.find?_some h
  simp only [Bool.not_eq_true', List.any_eq_false] at hfree ⊢
  exact fun q hq => hfree q (hsub q hq)

/-- The request of a partial write goes out, and its answer comes within the step. -/
theorem opPartial_of_issued {s : State} {m : Master} {i : KeyIdx} {d : Dpa} {mask : BitVec 64} {x : Line} {at' : Bool} {q : McReq}
    {keys : List Bytes} {o : PortOut} (hp : q.purpose = .modify m keys mask x) (rsp : McRsp)
    (h : s.memRequest {
        master := m, key := i, dpa := d, write := some (mask, x), atomic := at', refs := s.masterRefs m } =
      (s.mcIssued q 5).out o) :
    s.opPartial m i d mask x at' rsp = ((s.mcIssued q 5).out o).mcAnswer q rsp := by
  have hout : ((s.mcIssued q 5).out o).mem.out = s.mem.out ++ [q] := rfl
  simp only [opPartial, h, hout, List.length_append, List.length_singleton, List.getLast?_concat, hp]
  rw [if_neg (by omega)]

/-- A merged line goes out sealed where its crossing is locked (R227). -/
theorem mergedPut_outs {s : State} {q : McReq} {m : Master} {keys : List Bytes} {mask : BitVec 64} {x p : Line} {k : Bytes}
    {id : BitVec 6} (hp : q.purpose = .modify m keys mask x) (hch : q.ch = dpaChan q.dpa) (hr : s.mcReady (dpaChan q.dpa) = true)
    (hk : s.writeKeyOf q.key = some k) (hf : s.freeMcId (dpaChan q.dpa) (dpaSub q.dpa) = some id) :
    (s.mergedPut q p).outs = .mcReq (dpaChan q.dpa) (dpaSub q.dpa) id true (dpaLine q.dpa) (sealLine k q.key (lineDpa q.dpa) p).1
      (sealLine k q.key (lineDpa q.dpa) p).2 :: s.outs := by
  have hm : q.master = m := by rw [McReq.master, hp]
  rw [mergedPut, hch, hr, Bool.not_true, if_neg Bool.false_ne_true, hm,
    mcWrite_of_key hk (mcIssue_write hf hr), Option.getD_some, noteSealed_outs]
  rfl

section
variable {s : State} {q : McReq} {o : PortOut} (m : Master)

/-- The block when the answer of a request just issued has been judged. -/
def judged (s : State) (q : McReq) (o : PortOut) (m : Master) : State :=
  (((s.mcIssued q 5).out o).answered q).activity (masterCtx m) lineActivity

theorem judged_keeps (s : State) (q : McReq) (o : PortOut) (m : Master) :
    Keeps 0x042000 (((s.mcIssued q 5).out o).answered q) (s.judged q o m) := activity_keeps (Keeps.refl _ _) (by decide)

theorem judged_outs : (s.judged q o m).outs = o :: s.outs := (s.judged_keeps q o m).outs.resolve_left (by decide)

theorem judged_clk : (s.judged q o m).clk = s.clk := (s.judged_keeps q o m).clk.resolve_left (by decide)

theorem judged_keys : (s.judged q o m).keys = s.keys := (s.judged_keeps q o m).keys.resolve_left (by decide)

theorem judged_mem : (s.judged q o m).mem = { s.mem with out := (s.mem.out ++ [q]).filter (· != q) } :=
  (s.judged_keeps q o m).mem.resolve_left (by decide)

theorem judged_requests : ∀ r ∈ (s.judged q o m).mem.out, r ∈ s.mem.out := by
  intro r hr
  rw [judged_mem, List.mem_filter, List.mem_append, List.mem_singleton] at hr
  obtain ⟨hr | hr, hne⟩ := hr
  · exact hr
  · exact absurd hr (bne_iff_ne.mp hne)

end

end State

/-- Settles O23. -/
theorem memoryAccesses : Obligations.MemoryAccesses := by
  unfold Obligations.MemoryAccesses
  refine ⟨fun s m i d x hrun hm => ⟨fun hoff => ?off, fun hon => ⟨fun ha => ?range, fun y ha hs hi hy => ?other, fun ha hs hi hu => ?none⟩,
    fun hd => ?debug⟩, fun s m i d x id hrun hm hw hf hb hr hid => ⟨fun hok => ?read, fun hok hheld hurgent =>
      ⟨fun k hrefs hk => ?write, fun hrefs hl => ?fence⟩⟩,
    fun s m i d mask x at' rsp id k hrun hm hw hf hb hr hid hok hrefs hsweep hheld hurgent hk hmask hst hidx => ?part⟩
  case off =>
    have ht := State.masterThere_of_running hrun hm
    exact ⟨exec_next rfl (congrArg State.settleAll (State.memRequest_of_refused ht (State.memRefusal_of_off hoff _))),
      exec_next rfl (congrArg State.settleAll (State.memRequest_of_refused ht (State.memRefusal_of_off hoff _)))⟩
  case range =>
    have ht := State.masterThere_of_running hrun hm
    exact ⟨exec_next rfl (congrArg State.settleAll (State.memRequest_of_alarm ht (State.memRefusal_of_protected hon ha _))),
      exec_next rfl (congrArg State.settleAll (State.memRequest_of_alarm ht (State.memRefusal_of_protected hon ha _)))⟩
  case other =>
    have ht := State.masterThere_of_running hrun hm
    have href (b : Bool) := State.memRefusal_of_scope (i := i) hon ha (State.scopeOk_of_other_slot hs hi hy b)
    exact ⟨exec_next rfl (congrArg State.settleAll (State.memRequest_of_alarm ht (href _))),
      exec_next rfl (congrArg State.settleAll (State.memRequest_of_alarm ht (href _)))⟩
  case none =>
    have ht := State.masterThere_of_running hrun hm
    have href (b : Bool) := State.memRefusal_of_scope (i := i) hon ha (State.scopeOk_of_unassigned hs hi hu b)
    exact ⟨exec_next rfl (congrArg State.settleAll (State.memRequest_of_alarm ht (href _))),
      exec_next rfl (congrArg State.settleAll (State.memRequest_of_alarm ht (href _)))⟩
  case debug =>
    have ht := State.masterThere_debug_closed hd
    exact ⟨exec_next rfl (congrArg State.settleAll (State.memRequest_of_absent ht)),
      exec_next rfl (congrArg State.settleAll (State.memRequest_of_absent ht))⟩
  case read =>
    have ht := State.masterThere_of_running hrun hm
    refine ⟨_, exec_next rfl (congrArg State.settleAll (State.memRequest_of_issued ht hok
      (State.memTry_read hw hf hb rfl (State.mcIssue_read hid hr)))), rfl, rfl⟩
  case write =>
    have ht := State.masterThere_of_running hrun hm
    refine ⟨_, exec_next rfl (congrArg State.settleAll (State.memRequest_of_issued ht hok
      (State.memTry_whole hw hf hb rfl hheld hurgent hrefs rfl (State.mcWrite_of_key hk (State.mcIssue_write hid hr))))),
      State.noteSealed_outs _ _ _ _, State.noteSealed_written _ _ _ _, State.noteSealed_fence _ _ _ _⟩
  case fence =>
    have ht := State.masterThere_of_running hrun hm
    exact ⟨_, exec_next rfl (congrArg State.settleAll (State.memRequest_of_issued ht hok
      (State.memTry_fence hw hf hb rfl hheld hurgent hrefs rfl hl))), rfl, rfl, rfl⟩
  case part =>
    have ht := State.masterThere_of_running hrun hm
    have hkeys := State.trialKeys_of_no_sweep hsweep hk d
    obtain ⟨q, hq, hdpa, hkey, htag, hpurpose, hdiscard, hch⟩ : ∃ q : McReq, s.mcReqOf i d (.modify m [k] mask x) id none = q ∧
      q.dpa = lineDpa d ∧ q.key = i ∧ q.tag = none ∧ q.purpose = .modify m [k] mask x ∧ q.discard = false ∧ q.ch = dpaChan d :=
      ⟨_, rfl, rfl, rfl, rfl, rfl, rfl, rfl⟩
    obtain ⟨o, ho⟩ : ∃ o : PortOut, PortOut.mcReq (dpaChan d) (dpaSub d) id false (dpaLine d) 0 0 = o := ⟨_, rfl⟩
    have hissue : s.mcIssue i d (.modify m (s.trialKeys i d) mask x) none none = some ((s.mcIssued q 5).out o) := by
      rw [hkeys, ← hq, ← ho]; exact State.mcIssue_read hid hr
    have hreq : s.memRequest {
        master := m, key := i, dpa := d, write := some (mask, x), atomic := at', refs := s.masterRefs m } =
        (s.mcIssued q 5).out o :=
      State.memRequest_of_issued ht hok (State.memTry_part hw hf hb rfl hheld hurgent hrefs hmask hissue)
    have hop := State.opPartial_of_issued (keys := [k]) (q := q) hpurpose rsp hreq
    have hopens (r : Option Line) : openLine k (lineDpa d) rsp.rdata rsp.rside = r →
        ([k].findSome? fun k => openLine k (lineDpa q.dpa) rsp.rdata rsp.rside) = r := by
      intro h
      rw [List.findSome?_singleton, hdpa, lineDpa_lineDpa, h]
    rw [ho]
    have hidx' : rsp.rside.extractLsb' 28 4 = q.key := hidx.trans hkey.symm
    constructor
    · intro p hp
      obtain ⟨id', hid'⟩ := State.freeMcId_of_sub hid (State.judged_requests (s := s) (q := q) (o := o) m)
      have hready : (s.judged q o m).mcReady (dpaChan q.dpa) = true := by
        rw [State.mcReady, State.mcOn, State.judged_clk, hdpa, dpaChan_lineDpa]; exact hr
      have hwkey : (s.judged q o m).writeKeyOf q.key = some k := by
        rw [hkey, State.writeKeyOf_of_no_sweep (by rw [State.memIdx, State.judged_mem]; exact hsweep),
          State.memKey_of_keys (State.judged_keys m), hk]
      have hids : (s.judged q o m).freeMcId (dpaChan q.dpa) (dpaSub q.dpa) = some id' := by
        rw [hdpa, dpaChan_lineDpa, dpaSub_lineDpa, hid']
      have houts := State.mergedPut_outs (p := mergeLine p x mask) hpurpose (by rw [hch, hdpa, dpaChan_lineDpa]) hready hwkey hids
      refine ⟨_, id', exec_next rfl (congrArg State.settleAll (hop.trans (State.mcAnswer_modify hdiscard hpurpose
        (State.openRsp_opened hst (List.cons_ne_nil k []) hidx' (hopens _ hp))))), ?_⟩
      have h := State.outs_of_fenceRelease ((s.judged q o m).mergedPut q (mergeLine p x mask))
      rw [houts, State.judged_outs, hdpa, hkey, dpaChan_lineDpa, dpaSub_lineDpa, dpaLine_lineDpa, lineDpa_lineDpa] at h
      exact h
    · intro hp
      refine ⟨_, exec_next rfl (congrArg State.settleAll (hop.trans (State.mcAnswer_modify_failed hdiscard hpurpose
        (State.openRsp_failed hst (List.cons_ne_nil k []) hidx' (hopens _ hp))))), ?_⟩
      have h := State.outs_of_fenceRelease (((s.judged q o m).tagFail m q.key q.dpa rsp.rside).memEnd m q.tag q.dpa stBusError true)
      have houts : (((s.judged q o m).tagFail m q.key q.dpa rsp.rside).memEnd m q.tag q.dpa stBusError true).outs =
          let alarmed : List PortOut := .memTagFail (dpaChan d) (dpaLine d) i (masterCtx m) ::
            .record causeMemTagFail (lineDpa d).toNat :: o :: s.outs
          if State.memTold none m then alarmed else .memDone m (lineDpa d) stBusError :: alarmed := by
        rw [State.memEnd_outs, State.tagFail_outs, State.judged_outs, htag, hdpa, hkey, dpaChan_lineDpa, dpaLine_lineDpa,
          lineDpa_lineDpa]
      rw [houts] at h
      exact h

end Sys2Proof.Machine
end

section
/-! PROOFS. The pins, clocks and credits of a link and its timers (O26). -/

namespace Sys2Proof.Machine

namespace State

/-! ### Link phases without a declared partner -/

theorem setPhase_of_no_decl {s : State} {l : LinkId} (h : s.declOf l = none) (p : LinkPhase) :
    s.setPhase l p = if (s.link l).core.phase = p then s else s.modLink l fun k => { k with core := { k.core with phase := p } } := by
  have h' : (s.modLink l fun k => { k with core := { k.core with phase := p } }).declOf l = none := h
  unfold setPhase
  dsimp only
  split
  · rfl
  · rw [h']

/-- Either way only the link's phase is another. -/
theorem setPhase_link {s : State} {l : LinkId} (h : s.declOf l = none) (p : LinkPhase) :
    ∃ ls, s.setPhase l p = { s with links := ls } ∧
      (s.setPhase l p).link l = { s.link l with core := { (s.link l).core with phase := p } } := by
  rw [setPhase_of_no_decl h]
  split
  · next hp => exact ⟨s.links, rfl, by rw [← hp]⟩
  · exact ⟨_, rfl, modLink_link_same _ _ _⟩

theorem agreeStart_of_no_decl {s : State} {l : LinkId} (h : s.declOf l = none) : s.agreeStart l = s := by simp only [agreeStart, h]

theorem agreeNow_of_no_decl {s : State} {l : LinkId} (h : s.declOf l = none) : s.agreeNow l = s := by simp only [agreeNow, h]

/-! ### Credits -/

theorem foldl_out {α : Type} (f : α → PortOut) (xs : List α) (s : State) :
    xs.foldl (fun s x => s.out (f x)) s = { s with outs := (xs.map f).reverse ++ s.outs } := by
  induction xs generalizing s with
  | nil => rfl
  | cons x xs ih => rw [List.foldl_cons, ih, List.map_cons, List.reverse_cons, List.append_assoc]; rfl

/-- Credits owed change the link's streams and go out on its port. -/
theorem issueOwed_shape (s : State) (l : LinkId) : ∃ io os,
    s.issueOwed l = { s.modLink l (fun k => { k with io := io }) with outs := os } ∨ s.issueOwed l = s := by
  unfold issueOwed
  dsimp only
  split
  · exact ⟨(s.link l).io, s.outs, .inr rfl⟩
  · exact ⟨_, _, .inl (foldl_out (fun e : Nat × Nat => PortOut.lkCred l (BitVec.ofNat 2 e.1) e.2) _ _)⟩

theorem issueOwed_kept (s : State) (l : LinkId) : ((s.issueOwed l).link l).clk = (s.link l).clk ∧
    ((s.issueOwed l).link l).core = (s.link l).core ∧
    s.issueOwed l = { s with links := (s.issueOwed l).links, outs := (s.issueOwed l).outs } := by
  obtain ⟨io, os, h | h⟩ := s.issueOwed_shape l
  · have hl := modLink_link_same s l fun k => { k with io := io }
    rw [h]
    exact ⟨congrArg (·.clk) hl, congrArg (·.core) hl, rfl⟩
  · rw [h]; exact ⟨rfl, rfl, rfl⟩

theorem issueOwed_initial {s : State} {l : LinkId} (h : s.creditsGo l = true) (ho : (s.link l).io.rxOwed = true)
    (hn : (s.link l).io.rxOwedCredits = []) :
    s.issueOwed l = { s.modLink l (fun k => { k with io := { k.io with
        rxCredits := addCredits k.io.rxCredits initialCredits, rxOwed := false, rxOwedCredits := [] } }) with
      outs := .lkCred l 3 16 :: .lkCred l 2 16 :: .lkCred l 1 16 :: .lkCred l 0 4 :: s.outs } := by
  simp only [issueOwed, h, ho, hn, Bool.not_true, Bool.false_eq_true, if_false, if_true]
  rfl

/-! ### lk_up -/

/-- The pin and the qualification of the link's clocks (R86, R87). -/
def upPin (s : State) (l : LinkId) (q : Option (BitVec 11)) : State :=
  s.modLink l fun k => { k with
    core := { k.core with up := true }
    clk := { k.clk with rxLock := q.isSome, txLock := q.isSome, rxFreq := q.getD 0,
                        earlyUp := k.clk.earlyUp || (q.isNone && s.sys.phase != .held) } }

theorem opUpRise_of_down {s : State} {l : LinkId} (h : (s.link l).core.up = false) (q : Option (BitVec 11)) :
    s.opUpRise l q = if s.linkLive l then (s.upPin l q).linkRise l else s.upPin l q := by
  simp only [opUpRise, h, Bool.false_eq_true, if_false]
  rfl

/-- The multiplexers of a link that is up, qualified and free to switch (R89). -/
def portSelected (k : Link) : Link :=
  { k with clk := addSwitch { k.clk with rxSel := true, txSel := true } 2 }

theorem selectPort_link {s : State} {l : LinkId} (hu : (s.link l).core.up = true) (hr : (s.link l).clk.rxLock = true)
    (ht : (s.link l).clk.txLock = true) (hn : (s.link l).clk.needDown = false) (hrs : (s.link l).clk.rxSel = false)
    (hts : (s.link l).clk.txSel = false) : s.selectPort l = s.modLink l portSelected := by
  unfold selectPort modLink
  congr 1
  simp only [hu, hr, ht, hn, hrs, hts, portSelected, Bool.not_false, Bool.and_self, Bool.or_true]
  rfl

/-- The link when its initial credits go out (R47). -/
def risen (s : State) (l : LinkId) (f : BitVec 11) : State :=
  ((s.upPin l (some f)).modLink l portSelected).modLink l fun k => { k with io := { k.io with rxOwed := true, openSeq := 0 } }

theorem declOf_congr {s t : State} (hv : t.vd = s.vd) (hd : t.doms = s.doms) (l : LinkId) : t.declOf l = s.declOf l := by
  simp only [declOf, linkVd, vdSlot, vdev, dom, hv, hd]

theorem upPin_link (s : State) (l : LinkId) (q : Option (BitVec 11)) : (s.upPin l q).link l = { s.link l with
    core := { (s.link l).core with up := true }
    clk := { (s.link l).clk with rxLock := q.isSome, txLock := q.isSome, rxFreq := q.getD 0,
                                 earlyUp := (s.link l).clk.earlyUp || (q.isNone && s.sys.phase != .held) } } :=
  modLink_link_same s l _

/-- lk_up's rise changes the links alone. -/
theorem risen_others (s : State) (l : LinkId) (f : BitVec 11) : (s.risen l f).clk = s.clk ∧ (s.risen l f).glb = s.glb ∧
    (s.risen l f).vd = s.vd ∧ (s.risen l f).doms = s.doms ∧ (s.risen l f).outs = s.outs := by
  simp only [risen, upPin, modLink_clk, modLink_glb, modLink_vd, modLink_doms, modLink_outs, and_self]

/-- Credits owed leave the declarations as they are. -/
theorem issueOwed_declOf (s : State) (l m : LinkId) : (s.issueOwed l).declOf m = s.declOf m := by
  have h : Keeps 0x400200 s (s.issueOwed l) := issueOwed_keeps (Keeps.refl _ s) (by decide)
  exact declOf_congr (h.vd.resolve_left (by decide)) (h.doms.resolve_left (by decide)) m

theorem risen_declOf (s : State) (l : LinkId) (f : BitVec 11) : ((s.risen l f).issueOwed l).declOf l = s.declOf l := by
  obtain ⟨-, -, hvd, hdoms, -⟩ := s.risen_others l f
  rw [issueOwed_declOf, declOf_congr hvd hdoms]

theorem risen_link (s : State) (l : LinkId) (f : BitVec 11) : (s.risen l f).link l =
    { portSelected ((s.upPin l (some f)).link l) with
      io := { (s.link l).io with rxOwed := true, openSeq := 0 } } := by
  rw [risen, modLink_link_same, modLink_link_same, upPin_link]; rfl

section
variable {s : State} {l : LinkId} {f : BitVec 11} (hlive : s.linkLive l = true) (ho : (s.link l).io.rxOwedCredits = [])
  (hn : (s.link l).clk.needDown = false) (hr : (s.link l).clk.rxSel = false) (ht : (s.link l).clk.txSel = false)
  (hd : s.declOf l = none) (hp : s.poolRole = true ∨ s.clk.deliveryUnlocked = false)
include hlive ho hn hr ht hd hp

theorem linkRise_of_no_decl : (s.upPin l (some f)).linkRise l = ((s.risen l f).issueOwed l).setPhase l .up := by
  have hl := s.upPin_link l (some f)
  have hsel : (s.upPin l (some f)).selectPort l = (s.upPin l (some f)).modLink l portSelected :=
    selectPort_link (by rw [hl]) (by rw [hl]; rfl) (by rw [hl]; rfl) (by rw [hl]; exact hn) (by rw [hl]; exact hr)
      (by rw [hl]; exact ht)
  have hq : ((s.risen l f).issueOwed l).declOf l = none := (s.risen_declOf l f).trans hd
  have hu : (((s.risen l f).issueOwed l).setPhase l .up).declOf l = none := by
    obtain ⟨ls, hs, -⟩ := setPhase_link hq .up
    rw [hs, ← hq]
    exact declOf_congr rfl rfl l
  rw [linkRise, hsel]
  dsimp only
  rw [← risen]
  split
  · exact agreeNow_of_no_decl hu
  · exact agreeStart_of_no_decl hu

theorem risen_creditsGo : (s.risen l f).creditsGo l = true := by
  obtain ⟨hclk, hglb, -⟩ := s.risen_others l f
  have hon : s.linkOn l = true := (Bool.and_eq_true_iff.mp hlive).2
  have hport : (s.poolRole || !s.clk.deliveryUnlocked) = true := by
    rcases hp with h | h
    · rw [h, Bool.true_or]
    · rw [h, Bool.not_false, Bool.or_true]
  rw [linkOn] at hon
  rw [poolRole] at hport
  rw [creditsGo, linkOn, poolRole, hclk, hglb, hon, hport, risen_link, upPin_link]
  rfl

/-- lk_up rises on a live link that has no declared partner. -/
theorem opUpRise_of_no_decl (hup : (s.link l).core.up = false) : ∃ u : State,
    s.opUpRise l (some f) = u ∧ (u.link l).core.up = true ∧ (u.link l).core.phase = .up ∧
      (u.link l).clk.rxSel = true ∧ (u.link l).clk.txSel = true ∧ (u.link l).clk.rxFreq = f ∧
      u.outs = .lkCred l 3 16 :: .lkCred l 2 16 :: .lkCred l 1 16 :: .lkCred l 0 4 :: s.outs := by
  have hgo := risen_creditsGo hlive ho hn hr ht hd hp (f := f)
  have hio : ((s.risen l f).link l).io = { (s.link l).io with rxOwed := true, openSeq := 0 } := by rw [risen_link]
  have hissue := issueOwed_initial hgo (by rw [hio]) (by rw [hio]; exact ho)
  obtain ⟨hclk, hcore, -⟩ := (s.risen l f).issueOwed_kept l
  have hdecl : ((s.risen l f).issueOwed l).declOf l = none := (s.risen_declOf l f).trans hd
  obtain ⟨ls, hs, hlink⟩ := setPhase_link hdecl .up
  refine ⟨_, (opUpRise_of_down hup (some f)).trans ((if_pos hlive).trans (linkRise_of_no_decl hlive ho hn hr ht hd hp)), ?_⟩
  rw [hlink, hclk, hcore, risen_link, upPin_link]
  refine ⟨rfl, rfl, rfl, rfl, rfl, ?_⟩
  obtain ⟨-, -, -, -, houts⟩ := s.risen_others l f
  rw [hs, hissue, houts]

end

/-! ### lk_up falls -/

theorem endAgreement_of_not_agreed {s : State} {l : LinkId} (h : (s.link l).core.phase ≠ .agreed) (cause : BitVec 8) :
    s.endAgreement l cause = s := if_pos h

/-- Only the links of `t` are others than those of `s`. -/
def linksOnly (s t : State) : Prop := ∃ ls, t = { s with links := ls }

theorem linksOnly.refl (s : State) : s.linksOnly s := ⟨s.links, rfl⟩

theorem linksOnly.modLink {s t : State} (h : s.linksOnly t) (l : LinkId) (f : Link → Link) : s.linksOnly (t.modLink l f) := by
  obtain ⟨ls, rfl⟩ := h
  exact ⟨_, rfl⟩

theorem linksOnly.eq {s t : State} (h : s.linksOnly t) : t = { s with links := t.links } := by
  obtain ⟨ls, rfl⟩ := h
  rfl

theorem linksOnly.declOf {s t : State} (h : s.linksOnly t) (l : LinkId) : t.declOf l = s.declOf l := by
  obtain ⟨ls, rfl⟩ := h
  exact declOf_congr rfl rfl l

/-- The link when lk_up has fallen, but for what its Agreement leaves (R48, R89). -/
def fallen (s : State) (l : LinkId) : State :=
  ((s.modLink l fun k => { k with core := { k.core with up := false }, clk := { k.clk with needDown := false } }).voidCredits
    l).modLink l fun k => { k with core := { k.core with retrain := false }, clk := clkFall k }

/-- What else goes where no Agreement stands (R51). -/
def agrForgotten (s : State) (l : LinkId) : State :=
  s.modLink l fun k => { k with
    agr := {}, core := { k.core with pValid := false }
    tc0 := { k.tc0 with queue := k.tc0.queue.filter fun x => !x.isOpen } }

theorem fallen_links (s : State) (l : LinkId) : s.linksOnly ((s.fallen l).agrForgotten l) :=
  ((((linksOnly.refl s).modLink l _).modLink l _).modLink l _).modLink l _

theorem fallen_link (s : State) (l : LinkId) : ∃ io clk, (s.fallen l).link l = { s.link l with
      core := { (s.link l).core with up := false, retrain := false }, io := io, clk := clk } ∧
    io.txCredits = [] ∧ io.rxCredits = [] ∧ io.wire = [] ∧ clk.rxSel = false ∧ clk.txSel = false ∧ clk.needDown = false := by
  rw [fallen, modLink_link_same, voidCredits, modLink_link_same, modLink_link_same]
  exact ⟨_, _, rfl, rfl, rfl, rfl, rfl, rfl, rfl⟩

/-- The fall of lk_up on a live link without an Agreement (R51, R89). -/
theorem opUpFall_of_not_agreed {s : State} {l : LinkId} (hlive : s.linkLive l = true) (hup : (s.link l).core.up = true)
    (ha : (s.link l).core.phase ≠ .agreed) : s.opUpFall l = ((s.fallen l).agrForgotten l).setPhase l .down := by
  have hphase : ((s.fallen l).link l).core.phase ≠ .agreed := by
    obtain ⟨io, clk, h, -⟩ := s.fallen_link l
    rw [h]; exact ha
  have hend := endAgreement_of_not_agreed hphase endDown
  rw [opUpFall, hup, Bool.not_true, if_neg Bool.false_ne_true]
  dsimp only
  rw [if_pos (by exact hlive), linkFall]
  dsimp only
  rw [← fallen, hend]
  rfl

theorem opUpFall_of_up_gone {s : State} {l : LinkId} (h : (s.link l).core.up = false) : s.opUpFall l = s := by
  rw [opUpFall, h]; rfl

/-! ### The link's timers and credits -/

/-- The clocks of a direction forced onto its fallback (R90). -/
def forcedClk (c : LinkClk) (tx : Bool) : LinkClk :=
  if tx then { c with forcedTx := true, txLock := false, txSel := false, needDown := true }
  else { c with forcedRx := true, rxLock := false, rxSel := false, rxFreq := 0, needDown := true }

def forced (s : State) (l : LinkId) (tx : Bool) : State :=
  (s.modLink l fun k => { k with clk := addSwitch (forcedClk (s.link l).clk tx) 1, core := { k.core with retrain := true } }).voidCredits l

theorem opStall_of_selected {s : State} {l : LinkId} {tx : Bool} (h : s.linkLive l = true)
    (hsel : (if tx then (s.link l).clk.txSel else (s.link l).clk.rxSel) = true) :
    s.opStall l tx = (s.forced l tx).record recLinkClkForced (2 * l.toNat + tx.toNat) := by
  simp only [opStall, h, hsel, Bool.not_true, Bool.or_self, Bool.false_eq_true, if_false]
  rfl

theorem opStall_of_not_selected {s : State} {l : LinkId} {tx : Bool}
    (h : s.linkLive l = false ∨ (if tx then (s.link l).clk.txSel else (s.link l).clk.rxSel) = false) : s.opStall l tx = s := by
  refine if_pos ?_
  rcases h with h | h
  · rw [h]; rfl
  · rw [h, Bool.not_false, Bool.or_true]

theorem record_link (s : State) (c : Cause) (n : Nat) (l : LinkId) : (s.record c n).link l = s.link l := rfl

theorem forced_link (s : State) (l : LinkId) (tx : Bool) : ∃ io, (s.forced l tx).link l = { s.link l with
    clk := addSwitch (forcedClk (s.link l).clk tx) 1, core := { (s.link l).core with retrain := true }, io := io } ∧
    io.txCredits = [] := by
  rw [forced, voidCredits, modLink_link_same, modLink_link_same]
  exact ⟨_, rfl, rfl⟩

theorem forced_links (s : State) (l : LinkId) (tx : Bool) : s.linksOnly (s.forced l tx) := by
  rw [forced, voidCredits]
  exact ((linksOnly.refl s).modLink l _).modLink l _

/-- The link's clocks are qualified (R86). -/
def qualified (s : State) (l : LinkId) (f : BitVec 11) : State :=
  s.modLink l fun k => { k with clk := { k.clk with rxLock := true, txLock := true, rxFreq := f } }

theorem opQualified_eq (s : State) (l : LinkId) (f : BitVec 11) : s.opQualified l f =
    if s.linkLive l then ((s.qualified l f).selectPort l).issueOwed l else s.qualified l f := rfl

theorem qualified_link (s : State) (l : LinkId) (f : BitVec 11) : (s.qualified l f).link l =
    { s.link l with clk := { (s.link l).clk with rxLock := true, txLock := true, rxFreq := f } } := modLink_link_same s l _

/-- What the multiplexers select after the switch of R89. -/
theorem selectPort_clk (s : State) (l : LinkId) : ∃ n, ((s.selectPort l).link l).clk = { (s.link l).clk with
    switchCount := n
    rxSel := (s.link l).clk.rxSel || ((s.link l).core.up && (s.link l).clk.rxLock && !(s.link l).clk.needDown && !(s.link l).clk.rxSel)
    txSel := (s.link l).clk.txSel || ((s.link l).core.up && (s.link l).clk.txLock && !(s.link l).clk.needDown && !(s.link l).clk.txSel) } := by
  rw [selectPort, modLink_link_same]
  exact ⟨_, rfl⟩

theorem opTxCredit_of_up {s : State} {l : LinkId} (h : s.linkLive l = true) (hu : (s.link l).core.up = true) (c : Cls) :
    s.opTxCredit l c = s.modLink l fun k => { k with io := { k.io with
      txCredits := Tab.set 0 k.io.txCredits c.toNat (Tab.get 0 k.io.txCredits c.toNat + 1) } } := by
  simp only [opTxCredit, h, hu, Bool.not_true, Bool.or_self, Bool.false_eq_true, if_false]

theorem takeUnits_eight {w : WireGroup} (h : 8 < w.units) (rest : List WireGroup) :
    takeUnits 8 (w :: rest) = { w with units := w.units - 8 } :: rest := if_neg (by omega)

theorem le_foldl_add (xs : List Nat) (n : Nat) : n ≤ xs.foldl (· + ·) n := by
  induction xs generalizing n with
  | nil => exact Nat.le_refl n
  | cons x xs ih => exact Nat.le_trans (Nat.le_add_right n x) (ih (n + x))

theorem opTxReady_eight {s : State} {l : LinkId} {w : WireGroup} {rest : List WireGroup} (h : s.linkLive l = true)
    (hu : (s.link l).core.up = true) (ht : (s.link l).clk.txSel = true) (hw : (s.link l).io.wire = w :: rest)
    (h8 : 8 < w.units) : s.opTxReady l =
      ((s.modLink l fun k => { k with io := { k.io with wire := takeUnits 8 k.io.wire } }).out (.lkUnits l 8)).progress
        (engLink l) := by
  have hall : 8 < ((w :: rest).map (·.units)).foldl (· + ·) 0 :=
    Nat.lt_of_lt_of_le h8 (by rw [List.map_cons, List.foldl_cons, Nat.zero_add]; exact le_foldl_add _ _)
  have hne : (((w :: rest).map (·.units)).foldl (· + ·) 0 == 0) = false := beq_false_of_ne (by omega)
  simp only [opTxReady, h, hu, ht, hw, hne, Bool.not_true, Bool.or_self, Bool.false_eq_true, if_false,
    Nat.min_eq_left (Nat.le_of_lt hall)]

end State

/-- Settles O26. -/
theorem linkPinsAndCounters : Obligations.LinkPinsAndCounters := by
  unfold Obligations.LinkPinsAndCounters
  refine ⟨fun s l => ⟨fun q hu => ?again, fun f hlive hu ho hn hr ht hd hp => ?rise, fun q hoff hu => ?early, fun hu => ?down,
      fun hlive hu hd ha => ?fall, fun hlive ht => ?stallTx, fun hlive hr => ?stallRx, fun tx h => ?noStall, fun f => ?qualified⟩,
    fun s l => ⟨fun c hlive hu => ?credit, fun c h => ?noCredit, fun w rest hlive hu ht hw h8 => ?ready, fun h => ?idle,
      fun hlive => ?token, fun hoff => ?noToken, fun d src n => ?flood, ?tombstone⟩⟩
  case again => exact exec_next rfl (if_pos hu)
  case rise => 
    obtain ⟨u, hu', h⟩ := State.opUpRise_of_no_decl (f := f) hlive ho hn hr ht hd hp hu
    exact ⟨u, exec_next rfl hu', h⟩
  case early =>
    have h : s.opUpRise l q = s.upPin l q := (State.opUpRise_of_down hu q).trans (if_neg (by simp [hoff]))
    refine ⟨_, exec_next rfl h, ?_⟩
    rw [State.upPin_link]
    exact ⟨rfl, rfl, rfl, rfl, rfl, rfl, (((State.linksOnly.refl s).modLink l _).eq :)⟩
  case down => exact exec_next rfl (congrArg State.settleAll (State.opUpFall_of_up_gone hu))
  case fall =>
    have honly := s.fallen_links l
    obtain ⟨ls, hs, hlink⟩ := State.setPhase_link ((honly.declOf l).trans hd) .down
    obtain ⟨io, clk, hfall, htx, hrx, hwire, hrs, hts, hneed⟩ := s.fallen_link l
    refine ⟨_, exec_next rfl (congrArg State.settleAll (State.opUpFall_of_not_agreed hlive hu ha)), ?_, ?_⟩
    · obtain ⟨ls', h'⟩ := honly
      rw [hs, h']
    · rw [hlink, State.agrForgotten, State.modLink_link_same, hfall]
      exact ⟨rfl, rfl, hrs, hts, hneed, htx, hrx, hwire⟩
  case stallTx =>
    obtain ⟨io, hlink, hio⟩ := s.forced_link l true
    obtain ⟨ls, hs⟩ := s.forced_links l true
    refine ⟨_, exec_next rfl (State.opStall_of_selected hlive (tx := true) ht), ?_, ?_⟩
    · rw [hs]; rfl
    · rw [State.record_link, hlink]
      exact ⟨rfl, rfl, rfl, rfl, rfl, rfl, rfl, hio⟩
  case stallRx =>
    obtain ⟨io, hlink, hio⟩ := s.forced_link l false
    obtain ⟨ls, hs⟩ := s.forced_links l false
    refine ⟨_, exec_next rfl (State.opStall_of_selected hlive (tx := false) hr), ?_, ?_⟩
    · rw [hs]; rfl
    · rw [State.record_link, hlink]
      exact ⟨rfl, rfl, rfl, rfl, rfl, rfl, rfl, rfl⟩
  case noStall => exact exec_next rfl (State.opStall_of_not_selected h)
  case qualified =>
    have hq := s.qualified_link l f
    cases hlive : s.linkLive l with
    | false =>
      refine ⟨_, exec_next rfl ((s.opQualified_eq l f).trans (if_neg (by simp [hlive]))), ?_⟩
      rw [hq]
      exact ⟨rfl, rfl, rfl, rfl, nofun, nofun⟩
    | true =>
      obtain ⟨hclk, -, hissue⟩ := ((s.qualified l f).selectPort l).issueOwed_kept l
      obtain ⟨n, hsel⟩ := (s.qualified l f).selectPort_clk l
      obtain ⟨ls, hls⟩ : s.linksOnly ((s.qualified l f).selectPort l) := ((State.linksOnly.refl s).modLink l _).modLink l _
      refine ⟨_, exec_next rfl ((s.opQualified_eq l f).trans (if_pos hlive)), ?_⟩
      rw [hclk, hsel, hq]
      refine ⟨rfl, rfl, rfl, ?_, fun _ hu hn => ?_, fun _ hn => ?_⟩
      · rw [hls] at hissue ⊢
        exact hissue
      · simp only [hu, hn, Bool.not_false, Bool.and_true, Bool.true_and, Bool.or_not_self, and_self]
      · simp only [hn, Bool.not_true, Bool.and_false, Bool.false_and, Bool.or_false]
  case credit =>
    refine ⟨_, exec_next rfl (State.opTxCredit_of_up hlive hu c), ((State.linksOnly.refl s).modLink l _).eq, ?_, fun m d hmd => ?_⟩
    · rw [State.txCredit, State.modLink_link_same, Tab.get_set_same]; rfl
    · rw [State.txCredit, State.txCredit]
      rcases Decidable.em (m = l) with rfl | hm
      · have hd : d.toNat ≠ c.toNat := fun e => hmd.elim (fun h => h rfl) fun h => h (BitVec.eq_of_toNat_eq e)
        rw [State.modLink_link_same]
        dsimp only
        exact Tab.get_set_ne 0 _ _ hd
      · rw [State.modLink_link_ne _ _ _ _ hm]
  case noCredit =>
    refine exec_next rfl (if_pos ?_)
    rcases h with h | h <;> simp [h]
  case ready =>
    refine ⟨_, exec_next rfl (State.opTxReady_eight hlive hu ht hw h8), rfl, ?_⟩
    have hlink := s.modLink_link_same l fun k => { k with io := { k.io with wire := State.takeUnits 8 k.io.wire } }
    refine (congrArg (·.io.wire) hlink).trans ?_
    rw [hw, State.takeUnits_eight h8]
  case idle =>
    refine exec_next rfl (if_pos ?_)
    rcases h with h | h <;> simp [h]
  case token =>
    refine ⟨_, exec_next rfl (if_neg (by simp [hlive])), ((State.linksOnly.refl s).modLink l _).eq, ?_⟩
    rw [State.modLink_link_same]
    dsimp only
    split
    · rw [BitVec.toNat_add]
      exact Nat.mod_eq_of_lt (by simp; omega)
    · rfl
  case noToken => exact exec_next rfl (if_pos (by simp [hoff]))
  case flood =>
    refine ⟨_, exec_next rfl rfl, rfl, fun e => ?_⟩
    simp only [State.opFloodExpiry, List.mem_filter, Bool.not_eq_true', Bool.and_eq_false_iff, beq_eq_false_iff_ne]
    tauto
  case tombstone =>
    refine ⟨_, exec_next rfl rfl, ((State.linksOnly.refl s).modLink l _).eq, ?_, ?_, fun m hm => State.modLink_link_ne _ _ _ _ hm⟩
    · exact congrArg (·.core) (s.modLink_link_same l _)
    · exact congrArg (·.tomb) (s.modLink_link_same l _)

end Sys2Proof.Machine
end

section
/-! PROOFS. Groups sent on a link (O28). -/

namespace Sys2Proof.Machine

namespace State

/-! ### A group goes out -/

theorem opTransmit_of_running {s : State} (h : s.running = true) (l : LinkId) (c : Cls) (q : Option TxReq) :
    s.opTransmit l c q false =
      let u := match q with
        | some q => s.txAsk l c q
        | none => s
      if !u.canStart l c || u.yields l c then u
      else if c = 0 then match u.tc0Next l with
        | none => u
        | some x => u.tc0Start l x
      else match u.txNext l c with
        | none => u
        | some x => u.txStart l x := by
  unfold opTransmit
  rw [h]
  simp only [Bool.not_true, Bool.false_eq_true, if_false] <;> rfl

theorem opTransmit_asked {s : State} (h : s.running = true) {l : LinkId} {c : Cls} {q : TxReq}
    (hc : (s.txAsk l c q).canStart l c = false) : s.opTransmit l c (some q) false = s.txAsk l c q := by
  rw [opTransmit_of_running h]
  dsimp only
  rw [if_pos (by rw [hc]; rfl)]

theorem txAsk_of_refused {s : State} {l : LinkId} {c : Cls} {q : TxReq} {st : Status} (ha : (s.ctx q.ctx).phase = .active)
    (hr : s.txRefusal l c q = some st) : s.txAsk l c q = s.out (.linkDone q.ctx l st) := by
  simp only [txAsk, ha, hr, ne_eq, not_true_eq_false, if_false]

/-- The group a context asks for. -/
def txItemOf (s : State) (c : Cls) (q : TxReq) : TxItem :=
  { cls := c, kind := kindSealed, dest := q.dest, ctxField := q.dstCtx, vdTag := (s.ctx q.ctx).vd.getD 0, payload := q.payload
    ctx := some q.ctx, prog := none, refs := s.ctxRefs q.ctx }

theorem txAsk_of_taken {s : State} {l : LinkId} {c : Cls} {q : TxReq} (ha : (s.ctx q.ctx).phase = .active)
    (hr : s.txRefusal l c q = none) : s.txAsk l c q = s.txPut l (s.txItemOf c q) := by
  simp only [txAsk, ha, hr, ne_eq, not_true_eq_false, if_false]
  rfl

/-- Whether a link can start a group depends on its pins, its clocks, its credits and its wire. -/
theorem canStart_congr {s t : State} {l : LinkId} {c : Cls} (hrun : t.running = s.running) (hon : t.linkOn l = s.linkOn l)
    (hcore : (t.link l).core = (s.link l).core) (hclk : (t.link l).clk = (s.link l).clk)
    (hcredits : (t.link l).io.txCredits = (s.link l).io.txCredits) (hwire : (t.link l).io.wire = (s.link l).io.wire) :
    t.canStart l c = s.canStart l c := by
  simp only [canStart, linkLive, txCredit, wireFull, hrun, hon, hcore, hclk, hcredits, hwire]
  rfl

theorem canStart_txPut (s : State) (l : LinkId) (x : TxItem) (c : Cls) : (s.txPut l x).canStart l c = s.canStart l c := by
  have hl := s.modLink_link_same l fun k => { k with io := { k.io with txq := k.io.txq ++ [x] } }
  exact canStart_congr rfl rfl (congrArg (·.core) hl) (congrArg (·.clk) hl) (congrArg (·.io.txCredits) hl)
    (congrArg (·.io.wire) hl)

/-! ### A sealed group -/

theorem wirePut_outs (s : State) (l : LinkId) (c : Cls) (bytes : Bytes) (n : Nat) :
    (s.wirePut l c bytes n).outs = .lkGroup l bytes :: s.outs := rfl

/-- What the sealing of a group leaves before it goes on the wire: its sequence number, the use of its key, counters. -/
theorem txSeal_outs {s t : State} {l : LinkId} {c : Cls} {kind dest : BitVec 2} {cf : BitVec 10} {vd : VdId} {p : Bytes}
    {ctx : Option CtxId} {r : Nat} (hr : s.tenseRow l c (s.txDir l) 2 = some r) (h : s.txSeal l c kind dest cf vd p ctx = some t) :
    let row := s.row r
    let hd := groupHeader (s.link l).core.pMember cf vd (s.link l).core.slot dest kind (row.gen.setWidth 2) c
      (BitVec.ofNat 9 p.length) (s.txSeqOf l c)
    let x := gcmSeal (leBytes 32 row.material.toNat) (groupIv row.material (s.txSeqOf l c)) (leBytes 16 hd.toNat) p
    t.outs = .lkGroup l (leBytes 16 hd.toNat ++ pad16 x.1 ++ x.2) :: s.outs := by
  unfold txSeal at h
  simp only [hr, Option.some.injEq] at h
  subst h
  dsimp only
  rw [wirePut_outs]
  congr 1
  have h1 (u : State) (n k : Nat) : ((u.useKey n k).count 2 1).outs = u.outs :=
    (count_keeps (K := 0x100040) (useKey_keeps (Keeps.refl _ u) (by decide)) (by decide)).outs.resolve_left (by decide)
  have h2 (u : State) (d : Slot) (n k : Nat) : (u.meter d n k).outs = u.outs :=
    (meter_keeps (K := 0x040000) (Keeps.refl _ u) (by decide)).outs.resolve_left (by decide)
  cases ctx with
  | none => dsimp only; rw [h2, h1]; rfl
  | some y => dsimp only; rw [activity_outs, h2, h1]; rfl

theorem tenseRow_of_sealRow {s : State} {l : LinkId} {c : Cls} {r : Nat} (h : s.sealRow l c = some r) :
    s.tenseRow l c (s.txDir l) 2 = some r := by
  unfold sealRow at h
  dsimp only at h
  split at h
  · cases h
  · split at h
    · cases h
    · next hr =>
      split at h
      · cases h
      · rw [hr, h]

theorem txSeal_isSome {s : State} {l : LinkId} {c : Cls} {r : Nat} (hr : s.tenseRow l c (s.txDir l) 2 = some r)
    (kind dest : BitVec 2) (cf : BitVec 10) (vd : VdId) (p : Bytes) (ctx : Option CtxId) :
    ∃ t, s.txSeal l c kind dest cf vd p ctx = some t := by
  unfold txSeal
  simp only [hr]
  exact ⟨_, rfl⟩

theorem txNext_cls {s : State} {l : LinkId} {c : Cls} {x : TxItem} (h : s.txNext l c = some x) : x.cls = c := by
  unfold txNext at h
  split at h
  · cases h
  · have hmem := List.mem_of_find?_eq_some h
    rw [List.mem_filter] at hmem
    exact eq_of_beq hmem.2

/-- A group of TC1 to TC3 leaves its queue. -/
def txTaken (s : State) (l : LinkId) (x : TxItem) : State :=
  s.modLink l fun k => { k with io := { k.io with
    txq := k.io.txq.erase x
    share := if x.cls = 2 then k.io.share + x.payload.length else if x.cls = 3 then k.io.share - x.payload.length
             else k.io.share } }

theorem txTaken_link (s : State) (l : LinkId) (x : TxItem) : ∃ q n, (s.txTaken l x).link l =
    { s.link l with io := { (s.link l).io with txq := q, share := n } } := ⟨_, _, modLink_link_same s l _⟩

/-- The first group of its class goes out sealed under the Present of its stream (R255, R257). -/
theorem txStart_outs {s : State} {l : LinkId} {x : TxItem} {r : Nat} (hr : s.sealRow l x.cls = some r) :
    let row := s.row r
    let h := groupHeader (s.link l).core.pMember x.ctxField x.vdTag (s.link l).core.slot x.dest x.kind (row.gen.setWidth 2)
      x.cls (BitVec.ofNat 9 x.payload.length) (s.txSeqOf l x.cls)
    let sealed := gcmSeal (leBytes 32 row.material.toNat) (groupIv row.material (s.txSeqOf l x.cls)) (leBytes 16 h.toNat)
      x.payload
    (s.txStart l x).outs = .lkGroup l (leBytes 16 h.toNat ++ pad16 sealed.1 ++ sealed.2) :: s.outs := by
  obtain ⟨q, n, hlink⟩ := s.txTaken_link l x
  have hdir : (s.txTaken l x).txDir l = s.txDir l := by
    rw [txDir, txDir, hlink]; rfl
  have hrow : (s.txTaken l x).tenseRow l x.cls ((s.txTaken l x).txDir l) 2 = some r := by
    rw [hdir, ← tenseRow_of_sealRow hr]; rfl
  have hseq : (s.txTaken l x).txSeqOf l x.cls = s.txSeqOf l x.cls := by rw [txSeqOf, txSeqOf, hlink]
  obtain ⟨t, ht⟩ := txSeal_isSome hrow x.kind x.dest x.ctxField x.vdTag x.payload x.ctx
  have houts := txSeal_outs hrow ht
  have hkeys : (s.txTaken l x).row r = s.row r := rfl
  have hstart : s.txStart l x = t := by rw [txStart, ← txTaken, ht]; rfl
  rw [hstart]
  rw [hseq, hkeys, hlink] at houts
  exact houts

/-! ### An OPEN group -/

/-- A TC0 group leaves its queue, with a token where it is the block's own (R398). -/
def tc0Taken (s : State) (l : LinkId) (x : Tc0Item) : State :=
  s.modLink l fun k => { k with tc0 := { k.tc0 with
    queue := k.tc0.queue.erase x
    tokens := if x.prio = 2 then k.tc0.tokens - 1 else k.tc0.tokens } }

theorem tc0Start_open {s : State} {l : LinkId} {x : Tc0Item} (h : x.isOpen = true) :
    s.tc0Start l x = (s.tc0Taken l x).txOpen l x.dstMember x.slot x.payload := by
  rw [tc0Start]; exact if_pos h

theorem txOpen_outs (s : State) (l : LinkId) (dst : Member) (d : Slot) (p : Bytes) :
    (s.txOpen l dst d p).outs = .lkGroup l (leBytes 16
      (groupHeader dst 0 0 d destControl kindOpen 0 0 (BitVec.ofNat 9 p.length) (s.link l).io.openSeq).toNat ++
        pad16 p ++ zeros 16) :: s.outs := rfl

theorem wirePut_txCredit (s : State) (l : LinkId) (c : Cls) (bytes : Bytes) (n : Nat) :
    (s.wirePut l c bytes n).txCredit l c = s.txCredit l c - 1 := by
  rw [wirePut, txCredit]
  dsimp only
  rw [out_linkAt, setLink_link_same]
  exact Tab.get_set_same _ _ _ _

theorem txOpen_txCredit (s : State) (l : LinkId) (dst : Member) (d : Slot) (p : Bytes) :
    (s.txOpen l dst d p).txCredit l 0 = s.txCredit l 0 - 1 := by
  rw [txOpen]
  dsimp only
  rw [wirePut_txCredit, txCredit, setLink_link_same]
  rfl

end State

/-- Settles O28. -/
theorem groupsSent : Obligations.GroupsSent := by
  unfold Obligations.GroupsSent
  refine fun s l c hrun => ⟨fun q st hc ha hr => ?refused, fun q hc ha hr => ?queued, fun x r hc hy h0 hx hr => ?sealed,
    fun x hc hx ho => ?opened⟩
  case refused =>
    have hask := State.txAsk_of_refused ha hr
    exact exec_next rfl (congrArg State.settleAll ((State.opTransmit_asked hrun (by rw [hask]; exact hc)).trans hask))
  case queued =>
    have hask := State.txAsk_of_taken ha hr
    refine ⟨_, s.txItemOf c q, exec_next rfl (congrArg State.settleAll ((State.opTransmit_asked hrun
      (by rw [hask, State.canStart_txPut]; exact hc)).trans hask)), ((State.linksOnly.refl s).modLink l _).eq, ?_, rfl, rfl, rfl,
      rfl, rfl⟩
    exact congrArg (·.io.txq) (s.modLink_link_same l _)
  case sealed =>
    have hstart : s.opTransmit l c none false = s.txStart l x := by
      rw [State.opTransmit_of_running hrun]
      simp only [hc, hy, hx, h0, Bool.not_true, Bool.or_self, Bool.false_eq_true, if_false]
    refine ⟨_, exec_next rfl (congrArg State.settleAll hstart), ?_⟩
    have houts := State.txStart_outs (s := s) (l := l) (x := x) (r := r) (by rw [State.txNext_cls hx]; exact hr)
    exact houts ▸ State.outs_of_settled (s := s.txStart l x)
  case opened =>
    have hy : s.yields l 0 = false := rfl
    have hstart : s.opTransmit l 0 none false = (s.tc0Taken l x).txOpen l x.dstMember x.slot x.payload := by
      rw [State.opTransmit_of_running hrun]
      simp only [hc, hy, hx, Bool.not_true, Bool.or_self, Bool.false_eq_true, if_false, if_true]
      exact State.tc0Start_open ho
    have hl : (s.tc0Taken l x).link l = _ := s.modLink_link_same l _
    refine ⟨_, exec_next rfl (congrArg State.settleAll hstart), ?_, ?_⟩
    · rw [State.txOpen_outs, hl]; rfl
    · rw [State.txOpen_txCredit, State.txCredit, hl]; rfl

end Sys2Proof.Machine
end

section
/-! PROOFS. The delivery port and the receive rings (O29). -/

namespace Sys2Proof.Machine

namespace State

/-! ### Writes to memory leave the links alone -/

theorem mcIssue_links {s t : State} {i : KeyIdx} {d : Dpa} {p : McPurpose} {w : Option (Line × BitVec 32)} {tag : Option MemTag}
    (h : s.mcIssue i d p w tag = some t) : t.links = s.links :=
  (mcIssue_keeps (K := 0x510100) (Keeps.refl _ s) (by decide) t h).links.resolve_left (by decide)

theorem mcWrite_links {s t : State} {m : Master} {i : KeyIdx} {d : Dpa} {x : Line} {tag : Option MemTag}
    (h : s.mcWrite m i d x tag = some t) : t.links = s.links :=
  (mcWrite_keeps (K := 0x552140) (Keeps.refl _ s) (by decide) t h).links.resolve_left (by decide)

/-- Only a read makes a context a consumer of a group (R240). -/
theorem memTry_links {s t : State} {before : List MemWait} {w : MemWait} (hw : w.write.isSome = true)
    (h : s.memTry before w = some t) : t.links = s.links := by
  obtain ⟨⟨mask, x⟩, hx⟩ := Option.isSome_iff_exists.mp hw
  unfold memTry at h
  simp only [hx] at h
  split at h
  · cases h
  · split at h
    · cases h
    · split at h
      · split at h <;> cases h
        rfl
      · split at h
        · exact mcWrite_links h
        · exact mcIssue_links h

theorem memAccept_links (s : State) {w : MemWait} (hw : w.write.isSome = true) : (s.memAccept w).links = s.links := by
  unfold memAccept
  split
  · next h => exact memTry_links hw h
  · exact (noteWaits_keeps (K := 0x000100) (Keeps.refl _ s) (by decide)).links.resolve_left (by decide)

theorem memPut_links (s : State) {w : MemWait} (hw : w.write.isSome = true) : (s.memPut w).1.links = s.links := by
  unfold memPut
  split
  · next h => exact (memRefusal_keeps (K := 0x400100) (Keeps.refl _ s) (by decide) _ _ h).links.resolve_left (by decide)
  · exact s.memAccept_links hw

theorem memStore_links (s : State) (m : Master) (key : KeyIdx) (refs : List GroupRef) (tag : Option MemTag) (n : Nat) (a : Dpa)
    (bs : Bytes) : (s.memStore m key refs tag n a bs).1.links = s.links := by
  induction n generalizing s a bs with
  | zero => rfl
  | succ n ih =>
    cases bs with
    | nil => rfl
    | cons b bs =>
      have hput {w : MemWait} {t : State} {r : Option Status} (hw : w.write.isSome = true) (h : s.memPut w = (t, r)) :
          t.links = s.links := by rw [← memPut_links s hw, h]
      rw [memStore]
      · split
        · next h => exact hput (w := _) (Option.isSome_some) h
        · next h => exact (ih _ _ _).trans (hput (w := _) (Option.isSome_some) h)
      · exact List.cons_ne_nil b bs

/-! ### What the channels show is cleared (R58) -/

theorem mem_allLinks (l : LinkId) : l ∈ allLinks :=
  List.mem_map.mpr ⟨l.toNat, List.mem_range.mpr l.isLt, (BitVec.ofNat_toNat _ l).trans (BitVec.setWidth_eq l)⟩

/-- Of a link only receive credits are others, and its channel may be clear. -/
def delCleared (k k' : Link) : Prop := ∃ rx owed d, k' = { k with
    del := d, io := { k.io with rxCredits := rx, rxOwedCredits := owed } } ∧ (d = k.del ∨ d = {})

theorem delCleared.refl (k : Link) : delCleared k k := ⟨_, _, _, rfl, .inl rfl⟩

theorem delCleared.trans {k k' k'' : Link} (h : delCleared k k') (g : delCleared k' k'') : delCleared k k'' := by
  obtain ⟨rx, ow, d, rfl, hd⟩ := h
  obtain ⟨rx', ow', d', rfl, hd'⟩ := g
  refine ⟨rx', ow', d', rfl, ?_⟩
  rcases hd' with rfl | rfl
  · exact hd
  · exact .inr rfl

theorem delCleared.empty {k k' : Link} (h : delCleared k k') (hk : k.del = {}) : k'.del = {} := by
  obtain ⟨rx, ow, d, rfl, rfl | rfl⟩ := h
  · exact hk
  · rfl

theorem delCleared.unsettled {k k' : Link} (h : delCleared k k') : unsettledOf k' = unsettledOf k := by
  obtain ⟨rx, ow, d, rfl, -⟩ := h
  rfl

theorem creditReturn_link (s : State) (l : LinkId) (c : Cls) (m : LinkId) :
    ∃ rx owed, (s.creditReturn l c).link m = { s.link m with
      io := { (s.link m).io with rxCredits := rx, rxOwedCredits := owed } } := by
  unfold creditReturn
  dsimp only
  split
  · exact ⟨_, _, rfl⟩
  · rcases Decidable.em (m = l) with rfl | hm
    · split
      · exact ⟨_, _, (out_linkAt _ _ _).trans (setLink_link_same _ _ _)⟩
      · exact ⟨_, _, setLink_link_same _ _ _⟩
    · split
      · exact ⟨_, _, (out_linkAt _ _ _).trans (setLink_link_ne _ _ _ _ hm)⟩
      · exact ⟨_, _, setLink_link_ne _ _ _ _ hm⟩

theorem creditReturn_delCleared (s : State) (l : LinkId) (c : Cls) (m : LinkId) :
    delCleared (s.link m) ((s.creditReturn l c).link m) := by
  obtain ⟨rx, ow, h⟩ := s.creditReturn_link l c m
  exact ⟨rx, ow, _, h, .inl rfl⟩

theorem foldl_delCleared {α : Type} {f : State → α → State} (h : ∀ s x m, delCleared (link s m) ((f s x).link m)) (xs : List α)
    (s : State) (m : LinkId) : delCleared (s.link m) ((xs.foldl f s).link m) := by
  induction xs generalizing s with
  | nil => exact .refl _
  | cons x xs ih => exact (h s x m).trans (ih (f s x))

theorem clearChannel_link (s : State) (l m : LinkId) : delCleared (s.link m) ((s.clearChannel l).link m) ∧
    (m = l → ((s.clearChannel l).link m).del = {}) := by
  have hfold := foldl_delCleared (fun (u : State) (b : Beat) m => u.creditReturn_delCleared l b.tc m)
    ((s.link l).del.beats.filter fun b => b.last && !b.subj) (s.modLink l fun k => { k with del := {} }) m
  rcases Decidable.em (m = l) with rfl | hm
  · rw [modLink_link_same] at hfold
    exact ⟨delCleared.trans ⟨_, _, _, rfl, .inr rfl⟩ hfold, fun _ => hfold.empty rfl⟩
  · rw [modLink_link_ne _ _ _ _ hm] at hfold
    exact ⟨hfold, fun h => absurd h hm⟩

theorem foldl_clearChannel (ls : List LinkId) (s : State) (m : LinkId) :
    delCleared (s.link m) ((ls.foldl clearChannel s).link m) ∧ (m ∈ ls → ((ls.foldl clearChannel s).link m).del = {}) := by
  induction ls generalizing s with
  | nil => exact ⟨.refl _, nofun⟩
  | cons l ls ih =>
    obtain ⟨h, hd⟩ := s.clearChannel_link l m
    obtain ⟨g, gd⟩ := ih (s.clearChannel l)
    refine ⟨h.trans g, fun hm => ?_⟩
    rcases List.mem_cons.mp hm with e | hm
    · exact g.empty (hd e)
    · exact gd hm

theorem clearDelivery_link (s : State) (m : LinkId) : delCleared (s.link m) (s.clearDelivery.link m) ∧
    (s.clearDelivery.link m).del = {} := by
  obtain ⟨h, hd⟩ := foldl_clearChannel allLinks s m
  exact ⟨h, hd (mem_allLinks m)⟩

/-! ### Repudiates -/

theorem countCheck_outs (s : State) (l : LinkId) (n : Nat) : (s.countCheck l n).outs = s.outs :=
  (countCheck_keeps (K := 0x000200) (Keeps.refl _ s) (by decide)).outs.resolve_left (by decide)

theorem trace_outs (s : State) (type : Byte) (c : Option CtxId) (d : Option Slot) (x y : BitVec 16) (arg : Bytes) :
    (s.trace type c d x y arg).outs = s.outs :=
  (trace_keeps (K := 0x100000) (Keeps.refl _ s) (by decide)).outs.resolve_left (by decide)

theorem progress_outs (s : State) (e : Nat) : (s.progress e).outs = s.outs :=
  (progress_keeps (K := 0x010000) (Keeps.refl _ s) (by decide)).outs.resolve_left (by decide)

theorem count_outs (s : State) (n d : Nat) : (s.count n d).outs = s.outs := rfl

theorem record_outs (s : State) (c : Cause) (n : Nat) : (s.record c n).outs = .record c n :: s.outs := rfl

theorem linkEvent_outs (s : State) (l : LinkId) (b : Nat) : (s.linkEvent l b).outs = s.outs :=
  (linkEvent_keeps (K := 0x000200) (Keeps.refl _ s) (by decide)).outs.resolve_left (by decide)

/-- A Repudiate is told with link, class, seq and check (R263). -/
theorem repNote_outs (s : State) (l : LinkId) (c : Cls) (seq : BitVec 64) (n : Nat) : (s.repNote l c seq n).outs =
    .linkRepudiate l c seq n :: .record causeLinkRepudiate l.toNat :: s.outs := by
  unfold repNote
  dsimp only
  rw [trace_outs, out_outs, record_outs, progress_outs, count_outs, modLink_outs, linkEvent_outs, countCheck_outs]

theorem repudiateData_outs (s : State) (l : LinkId) (g : RxFlight) (n : Nat) (told : Bool) :
    (.linkRepudiate l g.cls g.seq n :: .record causeLinkRepudiate l.toNat :: s.outs) <:+ (s.repudiateData l g n told).outs := by
  have hnote : ((s.dropFlight (flightRef l g)).repNote l g.cls g.seq n).outs =
      .linkRepudiate l g.cls g.seq n :: .record causeLinkRepudiate l.toNat :: s.outs := by
    rw [repNote_outs, (dropFlight_keeps (K := 0x000200) (Keeps.refl _ s) (by decide)).outs.resolve_left (by decide)]
  have hout (u : State) (o : PortOut) : u.outs <:+ (u.out o).outs := List.suffix_cons _ _
  have hrest (u : State) : u.outs <:+ ((((u.creditReturn l g.cls).fenceRepudiate (flightRef l g)).repProgram l
      g.header).releaseRef (flightRef l g)).outs :=
    (releaseRef_keeps (K := 0x55A340) (repProgram_keeps (fenceRepudiate_keeps (creditReturn_keeps (Keeps.refl _ u) (by decide))
      (by decide)) (by decide)) (by decide)).grew
  rw [← hnote]
  unfold repudiateData
  dsimp only
  split
  · split
    · exact hrest _
    · exact (hout _ _).trans (hrest _)
  · exact hrest _

/-- What an element of a list puts out in its turn stays. -/
theorem foldl_outs_of_mem {α : Type} {f : State → α → State} (hgrow : ∀ (s : State) x, s.outs <:+ (f s x).outs) {x : α}
    {xs : List α} (hx : x ∈ xs) {o : PortOut} (h : ∀ s : State, ∃ os, (o :: (os ++ s.outs)) <:+ (f s x).outs) (s : State) :
    ∃ os, (o :: (os ++ s.outs)) <:+ (xs.foldl f s).outs := by
  have hfold (ys : List α) (u : State) : u.outs <:+ (ys.foldl f u).outs := by
    induction ys generalizing u with
    | nil => exact List.suffix_refl _
    | cons y ys ih => exact (hgrow u y).trans (ih _)
  induction xs generalizing s with
  | nil => cases hx
  | cons y ys ih =>
    rcases List.mem_cons.mp hx with rfl | hx
    · obtain ⟨os, ho⟩ := h s
      exact ⟨os, ho.trans (hfold ys _)⟩
    · obtain ⟨os, ho⟩ := ih hx (f s y)
      obtain ⟨ps, hp⟩ := hgrow s y
      exact ⟨os ++ ps, by rw [List.append_assoc, hp]; exact ho⟩

/-- cd_flush Repudiates every group that is presented without a Verdict (R58). -/
theorem flushDelivery_outs (s : State) {m : LinkId} {g : RxFlight} (hg : g ∈ unsettledOf (s.link m)) :
    ∃ os, (.linkRepudiate m g.cls g.seq 0 :: (os ++ s.outs)) <:+ s.flushDelivery.outs := by
  have hmem : (m, g) ∈ allLinks.flatMap fun l => (unsettledOf (s.link l)).map fun g => (l, g) :=
    List.mem_flatMap.mpr ⟨m, mem_allLinks m, List.mem_map.mpr ⟨g, hg, rfl⟩⟩
  obtain ⟨os, ho⟩ := foldl_outs_of_mem (f := fun (s : State) (x : LinkId × RxFlight) => s.repudiateData x.1 x.2 0 true)
    (fun u x => (repudiateData_keeps (K := 0x55A340) (Keeps.refl _ u) (by decide)).grew) hmem
    (o := .linkRepudiate m g.cls g.seq 0) (fun u => ⟨[.record causeLinkRepudiate m.toNat], u.repudiateData_outs m g 0 true⟩) s
  have hcommas (cs : List (CtxId × GroupRef)) (u : State) :
      u.outs <:+ (cs.foldl (fun (s : State) x => s.consumerComma x.2 x.1) u).outs :=
    (Keeps.foldl (k := 0x55A340) (Keeps.refl _ u) fun _ _ h => consumerComma_keeps h (by decide)).grew
  exact ⟨os, ho.trans (hcommas _ _)⟩

/-- The block whose crossing has locked again. -/
def relocked (s : State) : State := { s with clk := { s.clk with deliveryUnlocked := false } }

theorem opCdRelock_of_running {s : State} (hu : s.clk.deliveryUnlocked = true) (hr : s.running = true) (hp : s.poolRole = false) :
    s.opCdRelock = s.relocked.deliveryReset := by
  have h : (s.relocked.running && !s.relocked.poolRole) = true := by
    have hr' : s.relocked.running = true := hr
    have hp' : s.relocked.poolRole = false := hp
    rw [hr', hp']; rfl
  rw [opCdRelock, hu, Bool.not_true, if_neg Bool.false_ne_true]
  exact if_pos h

/-- The port's reset, up to the flush (R58). -/
def flushing (s : State) : State :=
  if s.clearDelivery.portOn portDelivery then s.clearDelivery.out .cdFlush else s.clearDelivery

theorem deliveryReset_eq (s : State) :
    s.deliveryReset = allLinks.foldl issueOwed (s.flushing.flushDelivery.deliveryGo) := rfl

theorem deliveryReset_outs (s : State) : s.flushing.flushDelivery.outs <:+ s.deliveryReset.outs :=
  (Keeps.foldl (k := 0x75BF40) (deliveryGo_keeps (Keeps.refl _ _) (by decide)) fun _ _ h => issueOwed_keeps h (by decide)).grew

theorem flushing_link (s : State) (m : LinkId) : s.flushing.link m = s.clearDelivery.link m := by
  unfold flushing
  split
  · exact out_linkAt _ _ _
  · rfl

theorem flushing_outs (s : State) : s.outs <:+ s.flushing.outs := by
  have h : s.outs <:+ s.clearDelivery.outs := (clearDelivery_keeps (K := 0x400200) (Keeps.refl _ s) (by decide)).grew
  unfold flushing
  split
  · exact h.trans (List.suffix_cons _ _)
  · exact h

theorem clearDelivery_clk (s : State) : s.clearDelivery.clk = s.clk :=
  (clearDelivery_keeps (K := 0x400200) (Keeps.refl _ s) (by decide)).clk.resolve_left (by decide)

/-! ### A beat is accepted -/

theorem deliverPump_of_empty {s : State} {l : LinkId} (hf : (s.link l).io.flight = []) (hh : (s.link l).io.held = []) :
    s.deliverPump l = s := by
  unfold deliverPump
  split
  · rfl
  · rw [hf, hh]; rfl

theorem stormCheck_of_calm {s : State} {l : LinkId} (h : s.stormDue l = false) : s.stormCheck l = s := if_neg (by simp [h])

theorem stormDue_congr {s t : State} {l : LinkId} (hc : (t.link l).core.phase = (s.link l).core.phase)
    (hr : (t.link l).io.repTimes = (s.link l).io.repTimes) (hn : t.now = s.now) : t.stormDue l = s.stormDue l := by
  simp only [stormDue, hc, hr, hn]

/-- The beat in front has been accepted. -/
def beatTaken (s : State) (l : LinkId) (b : Beat) (rest : List Beat) : State :=
  (s.modLink l fun k => { k with del := { k.del with beats := rest } }).out (.cdBeat l b)

theorem opBeat_of_beat {s : State} {l : LinkId} {b : Beat} {rest : List Beat} (hb : (s.link l).del.beats = b :: rest)
    (hr : s.running = true) (ho : s.deliveryOpen = true) (hf : channelFull (s.link l) = false) : s.opBeat l =
      ((if !b.last then s.beatTaken l b rest else if b.subj then (s.beatTaken l b rest).verdictPump l
        else (s.beatTaken l b rest).creditReturn l b.tc).deliverPump l).stormCheck l := by
  simp only [opBeat, hb, hr, ho, hf, Bool.not_true, Bool.or_self, Bool.false_eq_true, if_false]
  rfl

theorem beatTaken_link (s : State) (l : LinkId) (b : Beat) (rest : List Beat) :
    (s.beatTaken l b rest).link l = { s.link l with del := { (s.link l).del with beats := rest } } :=
  modLink_link_same s l fun k => { k with del := { k.del with beats := rest } }

theorem opBeat_outs {s : State} {l : LinkId} {b : Beat} {rest : List Beat} (hb : (s.link l).del.beats = b :: rest)
    (hr : s.running = true) (ho : s.deliveryOpen = true) (hf : channelFull (s.link l) = false) :
    (.cdBeat l b :: s.outs) <:+ (s.opBeat l).outs := by
  have hrest (u : State) : u.outs <:+ ((u.deliverPump l).stormCheck l).outs :=
    (stormCheck_keeps (K := 0x75BF40) (deliverPump_keeps (Keeps.refl _ u) (by decide)) (by decide)).grew
  have hout : (s.beatTaken l b rest).outs = .cdBeat l b :: s.outs := rfl
  rw [opBeat_of_beat hb hr ho hf, ← hout]
  refine List.IsSuffix.trans ?_ (hrest _)
  split
  · exact List.suffix_refl _
  · split
    · exact (verdictPump_keeps (K := 0x75BF40) (Keeps.refl _ _) (by decide)).grew
    · exact (creditReturn_keeps (K := 0x400200) (Keeps.refl _ _) (by decide)).grew

/-- A beat that ends no group changes nothing else where nothing waits for its channel. -/
theorem opBeat_of_inner {s : State} {l : LinkId} {b : Beat} {rest : List Beat} (hb : (s.link l).del.beats = b :: rest)
    (hr : s.running = true) (ho : s.deliveryOpen = true) (hf : channelFull (s.link l) = false) (hl : b.last = false)
    (hh : (s.link l).io.held = []) (hfl : (s.link l).io.flight = []) (hs : s.stormDue l = false) :
    s.opBeat l = s.beatTaken l b rest := by
  have hk := s.beatTaken_link l b rest
  have hstorm : (s.beatTaken l b rest).stormDue l = false := by
    rw [stormDue_congr (s := s) (t := s.beatTaken l b rest) (by rw [hk]) (by rw [hk]) rfl, hs]
  rw [opBeat_of_beat hb hr ho hf, hl, Bool.not_false, if_pos rfl,
    deliverPump_of_empty (by rw [hk]; exact hfl) (by rw [hk]; exact hh), stormCheck_of_calm hstorm]

theorem opBeat_of_not {s : State} {l : LinkId} (h : (s.link l).del.beats = [] ∨ s.running = false ∨ s.deliveryOpen = false ∨
    channelFull (s.link l) = true) : s.opBeat l = s := by
  unfold opBeat
  split
  · rfl
  · next b rest hb =>
    refine if_pos ?_
    rcases h with h | h | h | h
    · rw [hb] at h
      cases h
    · rw [h, Bool.not_false, Bool.true_or, Bool.true_or]
    · rw [h, Bool.not_false, Bool.or_true, Bool.true_or]
    · rw [h, Bool.or_true]

/-! ### A receive ring has room again (R265) -/

/-- The link's note that the ring is full, taken back. -/
def ringFreed (s : State) (l : LinkId) (c : Cls) (x : CtxId) : State :=
  s.modLink l fun k => { k with ringFull := k.ringFull.filter (· != (c, x)) }

theorem ringFreed_link (s : State) (l : LinkId) (c : Cls) (x : CtxId) : (s.ringFreed l c x).link l =
    { s.link l with ringFull := (s.link l).ringFull.filter (· != (c, x)) } := modLink_link_same _ _ _

theorem notMem_ringFreed (xs : List (Cls × CtxId)) (c : Cls) (x : CtxId) : (c, x) ∉ xs.filter (· != (c, x)) := by
  simp

theorem ringWaits_of_one {k : Link} {g : RxHeld} (hh : k.io.held = [g]) (hf : k.io.flight = []) (hr : isRing g.header = true) :
    ringWaits k = [.inr g] := by
  simp only [ringWaits, hh, hf, List.filter_nil, List.foldl_nil, List.filter_cons, hr, if_true, List.foldl_cons]
  rfl

theorem ringWaits_of_empty {k : Link} (hh : k.io.held = []) (hf : k.io.flight = []) : ringWaits k = [] := by
  simp only [ringWaits, hh, hf]
  rfl

/-- A ring is looked at again once its note is gone. -/
theorem ringSpace_eq (s : State) (l : LinkId) (c : Cls) (x : CtxId) : s.ringSpace l c x =
    match (ringWaits ((s.ringFreed l c x).link l)).find? fun w => ringKeyOf w == (c, x) with
    | none => s.ringFreed l c x
    | some w => if (s.ringFreed l c x).ringReady l w then ((s.ringFreed l c x).ringStore l w).ringPump l
      else (s.ringFreed l c x).ringPump l := rfl

theorem ringSpace_of_empty {s : State} {l : LinkId} {c : Cls} {x : CtxId} (hh : (s.link l).io.held = [])
    (hf : (s.link l).io.flight = []) : s.ringSpace l c x = s.ringFreed l c x := by
  have hw : ringWaits ((s.ringFreed l c x).link l) = [] := by
    rw [ringFreed_link]
    exact ringWaits_of_empty hh hf
  rw [ringSpace_eq, hw]
  rfl

/-- Nothing stands before a group that waits alone. -/
theorem tc2Behind_of_one {s : State} {l : LinkId} {g : RxHeld} (hh : (s.link l).io.held = [g]) (c : Cls) :
    s.tc2Behind l c g.ord = false := by
  rw [tc2Behind, hh]
  simp

/-- The state after a Confirmed group's bytes have gone to memory for its context. -/
def ringPut (s : State) (l : LinkId) (g : RxHeld) : State :=
  ({ s with freeCtr := s.freeCtr + 1 }.memStore (.ctx (hdrCtx g.header)) (Config.ringPlace s.freeCtr).2 []
    (some (.ring l g.cls (hdrCtx g.header))) (g.payload.length + 1) (Config.ringPlace s.freeCtr).1 g.payload).1

theorem ringStore_held (s : State) (l : LinkId) (g : RxHeld) : s.ringStore l (.inr g) =
    ((s.ringPut l g).modLink l fun k => { k with io := { k.io with held := k.io.held.erase g } }).creditReturn l g.cls := rfl

theorem ringPut_link (s : State) (l m : LinkId) (g : RxHeld) : (s.ringPut l g).link m = s.link m := by
  rw [link, ringPut, memStore_links]
  rfl

theorem ringStore_held_link {s : State} {l : LinkId} {g : RxHeld} (hh : (s.link l).io.held = [g]) :
    ((s.ringStore l (.inr g)).link l).io.held = [] ∧
    ((s.ringStore l (.inr g)).link l).io.flight = (s.link l).io.flight ∧
    ((s.ringStore l (.inr g)).link l).ringFull = (s.link l).ringFull := by
  obtain ⟨rx, ow, h⟩ := ((s.ringPut l g).modLink l fun k => { k with
    io := { k.io with held := k.io.held.erase g } }).creditReturn_link l g.cls l
  rw [ringStore_held, h, modLink_link_same, ringPut_link]
  refine ⟨?_, rfl, rfl⟩
  show (s.link l).io.held.erase g = []
  rw [hh, List.erase_cons_head]

theorem ringStore_held_mem (s : State) (l : LinkId) (g : RxHeld) : (s.ringStore l (.inr g)).mem = (s.ringPut l g).mem := by
  rw [ringStore_held, (creditReturn_keeps (K := 0x400200) (Keeps.refl _ _) (by decide)).mem.resolve_left (by decide)]
  rfl

theorem ringPump_of_empty {s : State} {l : LinkId} (hh : (s.link l).io.held = []) (hf : (s.link l).io.flight = []) :
    s.ringPump l = s := by
  rw [ringPump, ringWaits_of_empty hh hf]
  rfl

/-- A Confirmed group that met its ring full, the one that waits on its link, goes in. -/
theorem ringSpace_of_one {s : State} {l : LinkId} {g : RxHeld} (hh : (s.link l).io.held = [g])
    (hf : (s.link l).io.flight = []) (hr : isRing g.header = true) : s.ringSpace l g.cls (hdrCtx g.header) =
      (s.ringFreed l g.cls (hdrCtx g.header)).ringStore l (.inr g) := by
  have hl := ringFreed_link s l g.cls (hdrCtx g.header)
  have hh' : ((s.ringFreed l g.cls (hdrCtx g.header)).link l).io.held = [g] := by rw [hl]; exact hh
  have hf' : ((s.ringFreed l g.cls (hdrCtx g.header)).link l).io.flight = [] := by rw [hl]; exact hf
  have hready : (s.ringFreed l g.cls (hdrCtx g.header)).ringReady l (.inr g) = true := by
    rw [ringReady, tc2Behind_of_one hh', Bool.not_false]
  obtain ⟨hheld, hflight, -⟩ := ringStore_held_link hh'
  have hfind : ([.inr g] : List (RxFlight ⊕ RxHeld)).find? (fun w => ringKeyOf w == (g.cls, hdrCtx g.header)) =
      some (.inr g) := List.find?_cons_of_pos (beq_self_eq_true (ringKeyOf (.inr g)))
  rw [ringSpace_eq, ringWaits_of_one hh' hf' hr, hfind]
  dsimp only
  rw [if_pos hready, ringPump_of_empty hheld (hflight.trans hf')]

/-! ### The crossing is lost, and locks again -/

theorem opCdLost_of_off {s : State} (h : s.running = false ∨ s.poolRole = true) :
    s.opCdLost = { s with clk := { s.clk with deliveryUnlocked := true } } := by
  refine if_neg fun hc => ?_
  obtain ⟨hr, hp⟩ := Bool.and_eq_true_iff.mp hc
  rcases h with h | h
  · exact Bool.false_ne_true (h.symm.trans hr)
  · exact Bool.false_ne_true ((Bool.not_eq_true' _ |>.mp hp).symm.trans h)

theorem opCdLost_of_on {s : State} (hr : s.running = true) (hp : s.poolRole = false) :
    s.opCdLost = State.clearDelivery { s with clk := { s.clk with deliveryUnlocked := true } } :=
  if_pos (Bool.and_eq_true_iff.mpr ⟨hr, Bool.not_eq_true' _ |>.mpr hp⟩)

theorem opCdRelock_of_off {s : State} (hu : s.clk.deliveryUnlocked = true) (h : s.running = false ∨ s.poolRole = true) :
    s.opCdRelock = s.relocked := by
  rw [opCdRelock, hu, Bool.not_true, if_neg Bool.false_ne_true]
  refine if_neg fun hc => ?_
  obtain ⟨hr, hp⟩ := Bool.and_eq_true_iff.mp hc
  rcases h with h | h
  · exact Bool.false_ne_true (h.symm.trans hr)
  · exact Bool.false_ne_true ((Bool.not_eq_true' _ |>.mp hp).symm.trans h)

theorem flushing_unsettled (s : State) (m : LinkId) : unsettledOf (s.relocked.flushing.link m) = unsettledOf (s.link m) := by
  rw [flushing_link]
  exact (clearDelivery_link s.relocked m).1.unsettled

/-- A port that is on raises cd_flush (R34, R58). -/
theorem flushing_of_on {s : State} (hon : s.portOn portDelivery = true) :
    ∃ os, (.cdFlush :: (os ++ s.outs)) = s.relocked.flushing.outs := by
  have hon' : s.relocked.clearDelivery.portOn portDelivery = true := by
    rw [portOn, clearDelivery_clk]
    exact hon
  obtain ⟨os, ho⟩ : s.relocked.outs <:+ s.relocked.clearDelivery.outs :=
    (clearDelivery_keeps (K := 0x400200) (Keeps.refl _ s.relocked) (by decide)).grew
  refine ⟨os, ?_⟩
  rw [flushing, if_pos hon', out_outs, ← ho]
  rfl

theorem relocked_outs_flush (s : State) : s.outs <:+ s.relocked.flushing.flushDelivery.outs :=
  (s.relocked.flushing_outs).trans
    (flushDelivery_keeps (K := 0x55A340) (Keeps.refl _ s.relocked.flushing) (by decide)).grew

end State

open State in
/-- Settles O29: the hold and its end on the channels' state, then the beat in front, then the group that met its ring full. -/
theorem deliveryPort : Obligations.DeliveryPort := by
  intro s l
  refine ⟨fun h => ?_, fun hr hp => ⟨_, rfl, ?_, fun m => ?_⟩, fun hu => ?_, fun hu h => ?_, fun hu hr hp => ⟨_, rfl, ?_, ?_, ?_⟩,
    fun b rest hb hr ho hf => ⟨⟨_, rfl, ?_⟩, fun hl hheld hfl hstorm => ?_⟩, fun h => ?_,
    fun c x g hh hf hr hc hx => ?_, fun c x hh hf => ⟨_, rfl, ?_, ?_⟩⟩
  · exact exec_next rfl (opCdLost_of_off h)
  · rw [opCdLost_of_on hr hp, clearDelivery_clk]
  · rw [opCdLost_of_on hr hp]
    exact (clearDelivery_link _ m).2
  · exact exec_next rfl (congrArg settleAll (if_pos (by rw [hu, Bool.not_false])))
  · exact exec_next rfl (congrArg settleAll (opCdRelock_of_off hu h))
  · rw [opCdRelock_of_running hu hr hp]
    have hclk : s.relocked.deliveryReset.settleAll.clk = s.relocked.clk :=
      (settleAll_keeps (K := 0x75BF40) (deliveryReset_keeps (K := 0x75BF40) (Keeps.refl _ s.relocked) (by decide))
        (by decide)).clk.resolve_left (by decide)
    rw [hclk]
    rfl
  · intro hon
    obtain ⟨os, ho⟩ := flushing_of_on hon
    refine ⟨os, ?_⟩
    rw [opCdRelock_of_running hu hr hp, ho]
    exact ((flushDelivery_keeps (K := 0x55A340) (Keeps.refl _ _) (by decide)).grew.trans (deliveryReset_outs _)).trans
      outs_of_settled
  · intro m g hg
    obtain ⟨os, ho⟩ := flushDelivery_outs s.relocked.flushing ((flushing_unsettled s m).symm ▸ hg)
    obtain ⟨ps, hp'⟩ := flushing_outs s.relocked
    refine ⟨os ++ ps, ?_⟩
    rw [opCdRelock_of_running hu hr hp, List.append_assoc]
    rw [← hp'] at ho
    exact (ho.trans (deliveryReset_outs _)).trans outs_of_settled
  · exact (opBeat_outs hb hr ho hf).trans outs_of_settled
  · exact exec_next rfl (congrArg settleAll (opBeat_of_inner hb hr ho hf hl hheld hfl hstorm))
  · exact exec_next rfl (congrArg settleAll (opBeat_of_not h))
  · subst hc hx
    obtain ⟨hheld, -, hfull⟩ := ringStore_held_link (s := s.ringFreed l g.cls (hdrCtx g.header)) (l := l) (g := g)
      (by rw [ringFreed_link]; exact hh)
    refine ⟨(s.ringFreed l g.cls (hdrCtx g.header)).ringStore l (.inr g), ?_, ?_, hheld, ?_⟩
    · exact exec_next rfl (congrArg settleAll (ringSpace_of_one hh hf hr))
    · exact ringStore_held_mem _ l g
    · rw [hfull, ringFreed_link]
      exact notMem_ringFreed _ _ _
  · rw [ringSpace_of_empty hh hf]
    rfl
  · rw [ringSpace_of_empty hh hf, ringFreed_link]
    exact notMem_ringFreed _ c x

end Sys2Proof.Machine
end

section
/-! PROOFS. Groups received on a link and their Verdicts (O27). -/

namespace Sys2Proof.Machine

namespace State

/-! ### A group takes its credit -/

/-- The link that holds other receive credits. -/
def withRxCredits (k : Link) (rx : Tab Nat) : Link := { k with io := { k.io with rxCredits := rx } }

/-- The credits after a group of a header has taken its own. -/
def creditTaken (k : Link) (h : BitVec 128) : Tab Nat :=
  Tab.set 0 k.io.rxCredits (hdrCls h).toNat (Tab.get 0 k.io.rxCredits (hdrCls h).toNat - 1)

/-- The state in which a group of a header has taken its receive credit. -/
def rxTaken (s : State) (l : LinkId) (h : BitVec 128) : State :=
  (s.modLink l fun k => withRxCredits k (creditTaken k h)).progress (engLink l)

theorem rxTaken_link (s : State) (l : LinkId) (h : BitVec 128) :
    (s.rxTaken l h).link l = withRxCredits (s.link l) (creditTaken (s.link l) h) :=
  modLink_link_same s l fun k => withRxCredits k (creditTaken k h)

theorem rxTaken_eq (s : State) (l : LinkId) (h : BitVec 128) :
    s.rxTaken l h = { s with links := (s.rxTaken l h).links, flt := (s.rxTaken l h).flt } := rfl

/-- The checks of Table 9-5 read neither the receive credits nor an engine's progress. -/
theorem rxCheck_congr {s t : State} {l : LinkId} {rx : Tab Nat} (hk : t.link l = withRxCredits (s.link l) rx)
    (ht : t = { s with links := t.links, flt := t.flt }) (g : RxGroup) (b : Bool) : t.rxCheck l g b = s.rxCheck l g b := by
  have hdecl : t.declOf l = s.declOf l := declOf_congr (by rw [ht]) (by rw [ht]) l
  have hrow (r : Nat) : t.row r = s.row r := by rw [ht]; rfl
  have hkind : t.kindAllowed g.header = s.kindAllowed g.header := by rw [ht]; rfl
  have hdom (d : Slot) : t.dom d = s.dom d := by rw [ht]; rfl
  have hdir : t.rxDir l = s.rxDir l := by
    rw [rxDir, rxDir, txDir, txDir, hk]
    rw [hdom]
    rfl
  have hdest : t.destThere l g.header = s.destThere l g.header := by
    have hprog (p : ProgId) : t.prog p = s.prog p := by rw [ht]; rfl
    have hctx (c : CtxId) : t.ctx c = s.ctx c := by rw [ht]; rfl
    have hslot (c : CtxId) : t.ctxSlot c = s.ctxSlot c := by rw [ht]; rfl
    have hpool : t.poolRole = s.poolRole := by rw [ht]; rfl
    simp only [destThere, hk, hprog, hctx, hslot, hpool]
    rfl
  simp only [rxCheck, memberOk, stateAccepts, rxRow, pastLimit, hk, hdecl, hrow, hkind, hdom, hdir, hdest]
  rfl

theorem rxTaken_rxCheck (s : State) (l : LinkId) (h : BitVec 128) (g : RxGroup) (b : Bool) :
    (s.rxTaken l h).rxCheck l g b = s.rxCheck l g b := rxCheck_congr (s.rxTaken_link l h) (s.rxTaken_eq l h) g b

theorem opReceiveUnits_of_not {s : State} {l : LinkId} {us : List RxUnit} (h : frameGroup us = none ∨ s.linkLive l = false ∨
    (s.link l).core.up = false ∨ (s.link l).clk.rxSel = false) (b : Bool) : s.opReceiveUnits l us b = s := by
  unfold opReceiveUnits
  split
  · rfl
  · next g hg =>
    refine if_pos ?_
    rcases h with h | h | h | h
    · rw [hg] at h
      cases h
    · rw [h, Bool.not_false, Bool.true_or, Bool.true_or]
    · rw [h, Bool.not_false, Bool.or_true, Bool.true_or]
    · rw [h, Bool.not_false, Bool.or_true]

/-- What a group's checks answer is done, then the storm is looked at (R266). -/
theorem opReceiveUnits_of_group {s : State} {l : LinkId} {us : List RxUnit} {g : RxGroup} (hg : frameGroup us = some g)
    (hlive : s.linkLive l = true) (hup : (s.link l).core.up = true) (hsel : (s.link l).clk.rxSel = true) :
    s.opReceiveUnits l us false = State.stormCheck (match s.rxCheck l g false with
      | .inl n => (s.rxTaken l g.header).rxFail l g.header n
      | .inr r =>
        if hdrKind g.header = kindOpen then
          (if g.cut then s.rxTaken l g.header else (s.rxTaken l g.header).openTake l g.payload).creditReturn l (hdrCls g.header)
        else (s.rxTaken l g.header).rxAccept l r g) l := by
  have h : (!s.linkLive l || !(s.link l).core.up || !(s.link l).clk.rxSel) = false := by rw [hlive, hup, hsel]; rfl
  rw [← s.rxTaken_rxCheck l g.header g false, opReceiveUnits, hg]
  dsimp only
  refine (if_neg (by rw [h]; exact Bool.false_ne_true)).trans ?_
  refine congrArg (fun t => stormCheck t l) ?_
  show (match (s.rxTaken l g.header).rxCheck l g false with | .inl n => _ | .inr r => _) = _
  cases (s.rxTaken l g.header).rxCheck l g false with
  | inl n =>
    simp only [Bool.false_eq_true, and_false, if_false] <;> rfl
  | inr r => rfl

/-- A Repudiate at arrival is told before its consequences (R263). -/
theorem repudiateArrival_outs (s : State) (l : LinkId) (h : BitVec 128) (n : Nat) :
    (.linkRepudiate l (hdrCls h) (hdrSeq h) n :: .record causeLinkRepudiate l.toNat :: s.outs) <:+
      (s.repudiateArrival l h n).outs := by
  rw [← repNote_outs]
  exact (repProgram_keeps (K := 0x50A200) (creditReturn_keeps (K := 0x50A200) (Keeps.refl _ _) (by decide)) (by decide)).grew

theorem openTake_outs (s : State) (l : LinkId) (p : Bytes) : (.agreeFragment l p :: s.outs) <:+ (s.openTake l p).outs := by
  have hrest (u : State) : u.outs <:+ (if (1 ≤ (byteAt p 0).toNat ∧ (byteAt p 0).toNat ≤ 5) ∨ tc0Routed (byteAt p 0) then
      (if fragOk p then u.fragTake l p else u.fragBad l p) else u.tc0Bad l).outs := by
    split
    · split
      · exact (fragTake_keeps (K := 0x400200) (Keeps.refl _ u) (by decide)).grew
      · exact (fragBad_keeps (K := 0x400600) (Keeps.refl _ u) (by decide)).grew
    · exact (tc0Bad_keeps (K := 0x000200) (Keeps.refl _ u) (by decide)).grew
  exact hrest (s.out (.agreeFragment l p))

theorem stormCheck_outs (s : State) (l : LinkId) : s.outs <:+ (s.stormCheck l).outs :=
  (stormCheck_keeps (K := 0x75BF40) (Keeps.refl _ s) (by decide)).grew

/-! ### A group that passes its checks is in flight -/

/-- The group in flight that a received group becomes (R258). -/
def arrived (s : State) (l : LinkId) (r : Nat) (g : RxGroup) : RxFlight := {
  cls := hdrCls g.header, seq := hdrSeq g.header, inst := (s.link l).io.inst, ord := (s.link l).io.arrivals
  header := g.header, payload := g.payload, tag := g.tag
  cut := g.cut, material := (s.row r).material, row := r, tense := (s.row r).tense, rowGen := (s.row r).gen
  gid := none, consumers := []
  issue := tagIssue (s.laneCluster (.lk l)) (s.row r).material (hdrSeq g.header) (s.link l).io.arrivals }

/-- The link with one more group in flight. -/
def flying (k : Link) (f : RxFlight) : Link :=
  { k with io := { k.io with flight := k.io.flight ++ [f], arrivals := k.io.arrivals + 1 } }

/-- The state in which the group is in flight and has gone nowhere yet. -/
def inFlight (s : State) (l : LinkId) (r : Nat) (g : RxGroup) : State :=
  (s.rxNote l r g.header).modLink l fun k => flying k (s.arrived l r g)

theorem rxAccept_of_whole {s : State} {l : LinkId} {r : Nat} {g : RxGroup} (hc : g.cut = false) :
    s.rxAccept l r g = if isRing g.header then (s.inFlight l r g).ringPump l else (s.inFlight l r g).deliverPump l := by
  refine (if_pos ?_).trans rfl
  rw [hc, Bool.not_false]

theorem rxNote_links (s : State) (l : LinkId) (r : Nat) (h : BitVec 128) : (s.rxNote l r h).links = s.links :=
  (rxNote_keeps (K := 0x042040) (Keeps.refl _ s) (by decide)).links.resolve_left (by decide)

theorem inFlight_link (s : State) (l : LinkId) (r : Nat) (g : RxGroup) :
    (s.inFlight l r g).link l = flying (s.link l) (s.arrived l r g) := by
  have h : (s.rxNote l r g.header).link l = s.link l := by rw [link, rxNote_links]; rfl
  rw [inFlight, modLink_link_same, h]

/-! ### What the rings and the channels do to the groups in flight -/

/-- Each group in flight is afterwards one that a relation allows, in the same Agreement. -/
structure Flown (P : RxFlight → RxFlight → Prop) (l : LinkId) (s t : State) : Prop where
  core : (t.link l).core = (s.link l).core
  rep : (t.link l).io.repTimes = (s.link l).io.repTimes
  flight : ∀ x ∈ (s.link l).io.flight, ∃ y ∈ (t.link l).io.flight, P x y

/-- Only its place in memory is noted. -/
def reput (x y : RxFlight) : Prop := y = { x with placed := y.placed }

/-- Only what the delivery channel shows of it is noted. -/
def reshown (x y : RxFlight) : Prop := y = { x with gid := y.gid, consumers := y.consumers }

theorem reput.refl (x : RxFlight) : reput x x := rfl
theorem reshown.refl (x : RxFlight) : reshown x x := rfl

theorem Flown.trans {P : RxFlight → RxFlight → Prop} (hP : ∀ x y z, P x y → P y z → P x z) {l : LinkId} {s t u : State}
    (h : Flown P l s t) (g : Flown P l t u) : Flown P l s u where
  core := g.core.trans h.core
  rep := g.rep.trans h.rep
  flight x hx := by
    obtain ⟨y, hy, hxy⟩ := h.flight x hx
    obtain ⟨z, hz, hyz⟩ := g.flight y hy
    exact ⟨z, hz, hP _ _ _ hxy hyz⟩

theorem Flown.of_link {P : RxFlight → RxFlight → Prop} (hP : ∀ x, P x x) {l : LinkId} {s t : State}
    (hc : (t.link l).core = (s.link l).core) (hr : (t.link l).io.repTimes = (s.link l).io.repTimes)
    (hf : (t.link l).io.flight = (s.link l).io.flight) : Flown P l s t :=
  ⟨hc, hr, fun x hx => ⟨x, by rw [hf]; exact hx, hP x⟩⟩

/-- The link whose groups of one reference are changed. -/
def flightChanged (l : LinkId) (g : RxFlight) (f : RxFlight → RxFlight) (k : Link) : Link :=
  { k with io := { k.io with flight := k.io.flight.map fun x => if flightRef l x = flightRef l g then f x else x } }

theorem modFlight_link (s : State) (l : LinkId) (g : RxFlight) (f : RxFlight → RxFlight) :
    (s.modFlight (flightRef l g) f).link l = flightChanged l g f (s.link l) :=
  modLink_link_same s l (flightChanged l g f)

theorem Flown.of_modFlight {P : RxFlight → RxFlight → Prop} (hP : ∀ x, P x x) {l : LinkId} {s : State} {g : RxFlight}
    {f : RxFlight → RxFlight} (hf : ∀ x, P x (f x)) : Flown P l s (s.modFlight (flightRef l g) f) := by
  have hk := s.modFlight_link l g f
  refine ⟨by rw [hk]; rfl, by rw [hk]; rfl, fun x hx => ?_⟩
  rw [hk]
  refine ⟨_, List.mem_map_of_mem hx, ?_⟩
  split
  · exact hf x
  · exact hP x

theorem reput.trans (x y z : RxFlight) (h : reput x y) (g : reput y z) : reput x z := by
  rw [reput] at h g ⊢
  rw [g, h]

theorem reshown.trans (x y z : RxFlight) (h : reshown x y) (g : reshown y z) : reshown x z := by
  rw [reshown] at h g ⊢
  rw [g, h]

theorem ringStore_flown (s : State) (l : LinkId) (w : RxFlight ⊕ RxHeld) : Flown reput l s (s.ringStore l w) := by
  cases w with
  | inl g =>
    have hput : Flown reput l s (({ s with freeCtr := s.freeCtr + 1 }.memStore (.ctx (hdrCtx g.header))
        (Config.ringPlace s.freeCtr).2 [flightRef l g] (some (.ring l g.cls (hdrCtx g.header))) ((groupPlain g).length + 1)
        (Config.ringPlace s.freeCtr).1 (groupPlain g)).1) := by
      have hk (m : State) (hm : m.links = s.links) : Flown reput l s m := by
        have hl : m.link l = s.link l := by rw [link, hm]; rfl
        exact .of_link reput.refl (by rw [hl]) (by rw [hl]) (by rw [hl])
      exact hk _ (memStore_links _ _ _ _ _ _ _ _)
    exact hput.trans reput.trans (.of_modFlight reput.refl (f := fun x => { x with placed := true }) fun _ => rfl)
  | inr g =>
    obtain ⟨rx, ow, h⟩ := ((s.ringPut l g).modLink l fun k => { k with
      io := { k.io with held := k.io.held.erase g } }).creditReturn_link l g.cls l
    rw [modLink_link_same, ringPut_link] at h
    rw [ringStore_held]
    exact .of_link reput.refl (by rw [h]) (by rw [h]) (by rw [h])

theorem ringNote_flown (s : State) (l : LinkId) (w : RxFlight ⊕ RxHeld) : Flown reput l s (s.ringNote l w) := by
  have hl : (s.ringNote l w).link l = s.link l := by
    rw [link, (ringNote_keeps (K := 0x000100) (Keeps.refl _ s) (by decide)).links.resolve_left (by decide)]
    rfl
  exact .of_link reput.refl (by rw [hl]) (by rw [hl]) (by rw [hl])

theorem ringPumpAux_flown (l : LinkId) (ws : List (RxFlight ⊕ RxHeld)) (b : List (Cls × CtxId)) (s : State) :
    Flown reput l s (ringPumpAux l ws b s) := by
  induction ws generalizing b s with
  | nil => exact .of_link reput.refl rfl rfl rfl
  | cons w ws ih =>
    have hfull : Flown reput l s ({ s with freeCtr := s.freeCtr + 1 }.modLink l fun k => { k with
        ringFull := k.ringFull ++ [ringKeyOf w] }) := by
      have hk := modLink_link_same { s with freeCtr := s.freeCtr + 1 } l fun k => { k with ringFull := k.ringFull ++ [ringKeyOf w] }
      exact .of_link reput.refl (by rw [hk]; rfl) (by rw [hk]; rfl) (by rw [hk]; rfl)
    have hstore : Flown reput l s ({ s with freeCtr := s.freeCtr + 1 }.ringStore l w) :=
      Flown.trans reput.trans (t := { s with freeCtr := s.freeCtr + 1 }) (.of_link reput.refl rfl rfl rfl) (ringStore_flown { s with freeCtr := s.freeCtr + 1 } l w)
    rw [ringPumpAux]
    split
    · exact ih b s
    · split
      · exact (s.ringNote_flown l w).trans reput.trans (ih _ _)
      · split
        · exact hstore.trans reput.trans (ih _ _)
        · exact hfull.trans reput.trans (ih _ _)

theorem ringPump_flown (s : State) (l : LinkId) : Flown reput l s (s.ringPump l) := ringPumpAux_flown l _ _ s

/-! ### What the delivery channel shows -/

/-- A group shown by the channel, under its number. -/
def shown (gid : BitVec 16) (g x : RxFlight) : RxFlight := { x with gid := some gid, consumers := [hdrCtx g.header] }

/-- The channel with a Subjunctive group's beats. -/
def showing (k : Link) (g : RxFlight) : Link := { k with del := {
  gidNext := k.del.gidNext + 1
  beats := k.del.beats ++ groupBeats (groupPlain g) (hdrLen g.header) g.cls (hdrCtx g.header) k.del.gidNext true g.cut } }

theorem presentFlight_link (s : State) (l : LinkId) (g : RxFlight) : (s.presentFlight l g).link l =
    flightChanged l g (shown (s.link l).del.gidNext g) (showing (s.link l) g) := by
  have h := modFlight_link (s.setLink l (showing (s.link l) g)) l g (shown (s.link l).del.gidNext g)
  rw [setLink_link_same] at h
  exact h

/-- The link of whose held groups one has been shown. -/
def heldShown (k : Link) (h : RxHeld) : Link := { k with
  del := {
    gidNext := k.del.gidNext + 1
    beats := k.del.beats ++ groupBeats h.payload (hdrLen h.header) h.cls (hdrCtx h.header) k.del.gidNext false false }
  io := { k.io with held := k.io.held.erase h } }

theorem presentHeld_link (s : State) (l : LinkId) (h : RxHeld) : (s.presentHeld l h).link l = heldShown (s.link l) h :=
  setLink_link_same s l (heldShown (s.link l) h)

theorem presentFlight_flown (s : State) (l : LinkId) (g : RxFlight) : Flown reshown l s (s.presentFlight l g) := by
  have hk := s.presentFlight_link l g
  refine ⟨by rw [hk]; rfl, by rw [hk]; rfl, fun x hx => ?_⟩
  rw [hk]
  refine ⟨_, List.mem_map_of_mem hx, ?_⟩
  split
  · rfl
  · exact .refl x

theorem presentHeld_flown (s : State) (l : LinkId) (h : RxHeld) : Flown reshown l s (s.presentHeld l h) := by
  have hk := s.presentHeld_link l h
  exact .of_link reshown.refl (by rw [hk]; rfl) (by rw [hk]; rfl) (by rw [hk]; rfl)

theorem deliverPumpAux_flown (l : LinkId) (n : Nat) (s : State) : Flown reshown l s (deliverPumpAux l n s) := by
  induction n generalizing s with
  | zero => exact .of_link reshown.refl rfl rfl rfl
  | succ n ih =>
    rw [deliverPumpAux]
    split
    · exact .of_link reshown.refl rfl rfl rfl
    · next g _ => exact (s.presentFlight_flown l g).trans reshown.trans (ih _)
    · next h _ => exact (s.presentHeld_flown l h).trans reshown.trans (ih _)

theorem deliverPump_flown (s : State) (l : LinkId) : Flown reshown l s (s.deliverPump l) := by
  unfold deliverPump
  split
  · exact .of_link reshown.refl rfl rfl rfl
  · exact deliverPumpAux_flown l _ s

/-- A group that is the only one of its reference in flight. -/
def Alone (l : LinkId) (f : RxFlight) (fs : List RxFlight) : Prop :=
  f ∈ fs ∧ ∀ x ∈ fs, flightRef l x = flightRef l f → x = f

/-- What the channel shows before its Verdict is a delivered group of class 1 or 2 (R263). -/
theorem deliverNext_flight {s : State} {l : LinkId} {g : RxFlight} (h : s.deliverNext l = some (.inl g)) :
    g ∈ (s.link l).io.flight ∧ isDeliver g.header = true ∧ (g.cls = 1 ∨ g.cls = 2) := by
  unfold deliverNext at h
  dsimp only at h
  split at h
  · cases h
  · next hsubj =>
    split at h
    · cases h
      have hp := List.find?_some hsubj
      refine ⟨List.mem_of_find?_eq_some hsubj, ?_⟩
      simp only [Bool.and_eq_true, Bool.or_eq_true, beq_iff_eq] at hp
      exact ⟨hp.1.1, hp.2.imp id (·.1)⟩
    · cases h
  · cases h

theorem flightRef_shown (l : LinkId) (gid : BitVec 16) (g x : RxFlight) : flightRef l (shown gid g x) = flightRef l x := rfl

theorem presentFlight_alone {s : State} {l : LinkId} {f g : RxFlight} (ha : Alone l f (s.link l).io.flight)
    (hg : g ∈ (s.link l).io.flight) (hne : g ≠ f) : Alone l f ((s.presentFlight l g).link l).io.flight := by
  obtain ⟨hf, hu⟩ := ha
  have hother : ¬ flightRef l f = flightRef l g := fun e => hne (hu g hg e.symm)
  rw [presentFlight_link]
  refine ⟨List.mem_map.mpr ⟨f, hf, if_neg hother⟩, fun x hx hr => ?_⟩
  obtain ⟨y, hy, rfl⟩ := List.mem_map.mp hx
  split at hr
  · next h => exact absurd (hr.symm.trans ((flightRef_shown l _ g y).trans h)) hother
  · next h => rw [if_neg h]; exact hu y hy hr

/-- A group that is none to be shown before its Verdict stays as it is. -/
theorem deliverPumpAux_alone {l : LinkId} {f : RxFlight} (hf : isDeliver f.header = true → f.cls ≠ 1 ∧ f.cls ≠ 2) (n : Nat)
    {s : State} (ha : Alone l f (s.link l).io.flight) : Alone l f ((deliverPumpAux l n s).link l).io.flight := by
  induction n generalizing s with
  | zero => exact ha
  | succ n ih =>
    rw [deliverPumpAux]
    split
    · exact ha
    · next g hg =>
      obtain ⟨hmem, hdel, hcls⟩ := deliverNext_flight hg
      refine ih (presentFlight_alone ha hmem ?_)
      rintro rfl
      exact hcls.elim (hf hdel).1 (hf hdel).2
    · next h _ =>
      refine ih ?_
      rw [presentHeld_link]
      exact ha

theorem deliverPump_alone {l : LinkId} {f : RxFlight} (hf : isDeliver f.header = true → f.cls ≠ 1 ∧ f.cls ≠ 2)
    {s : State} (ha : Alone l f (s.link l).io.flight) : Alone l f ((s.deliverPump l).link l).io.flight := by
  unfold deliverPump
  split
  · exact ha
  · exact deliverPumpAux_alone hf _ ha

/-- The one group of the link is shown at once (R53, R56). -/
theorem deliverPump_of_one {s : State} {l : LinkId} {f : RxFlight} (ho : s.deliveryOpen = true)
    (hf : (s.link l).io.flight = [f]) (hh : (s.link l).io.held = []) (hd : isDeliver f.header = true) (hg : f.gid = none)
    (hc : f.cls = 1 ∨ f.cls = 2) : s.deliverPump l = s.presentFlight l f := by
  have hbehind : s.tc2Behind l f.cls f.ord = false := by
    rw [tc2Behind, hh, List.any_nil, Bool.and_false]
  have hcls : (f.cls == 1 || (f.cls == 2 && !s.tc2Behind l f.cls f.ord)) = true := by
    rw [hbehind]
    rcases hc with h | h <;> rw [h] <;> rfl
  have hpred : (isDeliver f.header && f.gid.isNone && (f.cls == 1 || (f.cls == 2 && !s.tc2Behind l f.cls f.ord))) = true := by
    rw [hcls, hd, hg]
    rfl
  have hnext : s.deliverNext l = some (.inl f) := by
    have huns : (unsettledOf (s.link l)).length < subjLimit := by
      rw [unsettledOf, hf, List.filter_cons_of_neg (by rw [hg]; exact Bool.false_ne_true)]
      decide
    have hfind : [f].find? (fun g => isDeliver g.header && g.gid.isNone &&
        (g.cls == 1 || (g.cls == 2 && !s.tc2Behind l g.cls g.ord))) = some f := List.find?_cons_of_pos hpred
    unfold deliverNext
    dsimp only
    rw [hf, hh, hfind]
    exact if_pos huns
  rw [deliverPump, ho, Bool.not_true, if_neg Bool.false_ne_true, hf, hh]
  show deliverPumpAux l 1 s = _
  rw [deliverPumpAux, hnext]
  rfl

/-! ### The Verdict of a group in flight -/

/-- The group of a class and number whose tag unit has not been judged. -/
def awaiting (s : State) (l : LinkId) (c : Cls) (seq : BitVec 64) : Option RxFlight :=
  (s.link l).io.flight.find? fun g => g.cls == c && g.seq == seq && !g.due

theorem awaiting_ref {s : State} {l : LinkId} {c : Cls} {seq : BitVec 64} {g : RxFlight} (h : s.awaiting l c seq = some g) :
    g.cls = c ∧ g.seq = seq := by
  have hp := List.find?_some h
  simp only [Bool.and_eq_true, beq_iff_eq] at hp
  exact hp.1

theorem opVerdict_of_none {s : State} {l : LinkId} {c : Cls} {seq : BitVec 64} (h : s.awaiting l c seq = none) :
    s.opVerdict l c seq = s := by
  unfold opVerdict
  rw [← awaiting, h]

theorem opVerdict_of_some {s : State} {l : LinkId} {c : Cls} {seq : BitVec 64} {g : RxFlight}
    (h : s.awaiting l c seq = some g) : s.opVerdict l c seq = (s.judge l g).stormCheck l := by
  unfold opVerdict
  rw [← awaiting, h]

theorem repudiateGroup_outs (s : State) (l : LinkId) (g : RxFlight) (n : Nat) :
    (.linkRepudiate l g.cls g.seq n :: .record causeLinkRepudiate l.toNat :: s.outs) <:+ (s.repudiateGroup l g n).outs := by
  refine (s.repudiateData_outs l g n false).trans ?_
  exact (deliverPump_keeps (K := 0x55A340) (Keeps.foldl (Keeps.refl _ _) fun _ _ h => consumerComma_keeps h (by decide))
    (by decide)).grew

/-- What a Confirm has noted when the group goes where it is sent. -/
def confirmed (s : State) (l : LinkId) (g : RxFlight) : State :=
  let same := s.sameAgreement l g
  let s := s.dropFlight (flightRef l g)
  let s := s.modLink l fun k => if !same then k else { k with
    io := { k.io with
      windows := Tab.set {} k.io.windows g.cls.toNat (windowConfirm (Tab.get {} k.io.windows g.cls.toNat) g.seq)
      lastConfirm := s.now }
    agr := { k.agr with mayTransmit := true } }
  let s := (s.count 3 1).progress (engLink l)
  (s.meter (s.link l).core.slot (17 + 2 * g.cls.toNat) g.payload.length).promote l g

theorem confirmGroup_eq (s : State) (l : LinkId) (g : RxFlight) : s.confirmGroup l g =
    ((((s.confirmed l g).takeConfirmed l g).releaseRef (flightRef l g)).fenceConfirm (flightRef l g)).deliverPump l := rfl

theorem confirmGroup_outs (s : State) (l : LinkId) (g : RxFlight) :
    ((s.confirmed l g).takeConfirmed l g).outs <:+ (s.confirmGroup l g).outs := by
  rw [confirmGroup_eq]
  exact (deliverPump_keeps (K := 0x752340) (fenceConfirm_keeps (releaseRef_keeps (Keeps.refl _ _) (by decide)) (by decide))
    (by decide)).grew

theorem meter_outs (s : State) (d : Slot) (m n : Nat) : (s.meter d m n).outs = s.outs :=
  (meter_keeps (K := 0x040000) (Keeps.refl _ s) (by decide)).outs.resolve_left (by decide)

theorem promote_outs (s : State) (l : LinkId) (g : RxFlight) : (s.promote l g).outs = s.outs :=
  (promote_keeps (K := 0x000240) (Keeps.refl _ s) (by decide)).outs.resolve_left (by decide)

theorem confirmed_outs (s : State) (l : LinkId) (g : RxFlight) : (s.confirmed l g).outs = s.outs := by
  unfold confirmed
  dsimp only
  rw [promote_outs, meter_outs, progress_outs, count_outs, modLink_outs,
    (dropFlight_keeps (K := 0x000200) (Keeps.refl _ s) (by decide)).outs.resolve_left (by decide)]

/-- What is noted of a Confirm leaves the Agreement's core as it is. -/
theorem confirmed_core (s : State) (l : LinkId) (g : RxFlight) : ((s.confirmed l g).link l).core = (s.link l).core := by
  have hmod (u : State) (f : Link → Link) (hf : ∀ k, (f k).core = k.core) : ((u.modLink l f).link l).core = (u.link l).core := by
    rw [modLink_link_same]
    exact hf _
  have hsame (u v : State) (h : v.links = u.links) : (v.link l).core = (u.link l).core := by
    rw [link, h]
    rfl
  have hpromote (u : State) : ((u.promote l g).link l).core = (u.link l).core := by
    unfold promote
    dsimp only
    split
    · refine Eq.trans (hmod _ _ ?_) ?_
      · exact fun _ => rfl
      · split <;> exact hsame _ _ rfl
    · rfl
  have hcount (u : State) : (((u.count 3 1).progress (engLink l)).link l).core = (u.link l).core := hsame _ _ rfl
  have hmeter (u : State) (d : Slot) (m n : Nat) : (((u.meter d m n).link l).core) = (u.link l).core :=
    hsame _ _ ((meter_keeps (K := 0x040000) (Keeps.refl _ u) (by decide)).links.resolve_left (by decide))
  unfold confirmed
  dsimp only
  rw [hpromote, hmeter, hcount]
  refine Eq.trans (hmod _ _ ?_) (hmod s _ fun _ => rfl)
  intro k
  split <;> rfl

theorem takeConfirmed_of_shown {s : State} {l : LinkId} {g : RxFlight} {x : BitVec 16} (h : g.gid = some x) :
    s.takeConfirmed l g = (s.out (.cdVerdict l x true)).creditReturn l g.cls := by
  unfold takeConfirmed
  rw [h]

/-- A message that is carried on one link goes to the trust core with the slot of its Agreement (R405). -/
theorem takeConfirmed_of_control {s : State} {l : LinkId} {g : RxFlight} (hg : g.gid = none) (hp : g.placed = false)
    (hk : hdrKind g.header = kindSealed) (hd : hdrDest g.header = destControl) (h1 : tc0OneLink (byteAt (groupPlain g) 0) = true)
    (hb : tc0BodyOk (groupPlain g) = true) : s.takeConfirmed l g =
      (s.out (.tcMessage l (s.link l).core.slot (groupPlain g))).creditReturn l g.cls := by
  have hkind : ¬ hdrKind g.header = kindFabric := by rw [hk]; decide
  unfold takeConfirmed
  rw [hg]
  dsimp only
  rw [hp, if_neg Bool.false_ne_true, if_neg hkind, if_pos hd, tc0Take]
  dsimp only
  rw [if_pos h1, if_pos hb]

theorem creditReturn_outs (s : State) (l : LinkId) (c : Cls) : s.outs <:+ (s.creditReturn l c).outs :=
  (creditReturn_keeps (K := 0x400200) (Keeps.refl _ s) (by decide)).grew

theorem outs_of_credited (s : State) (o : PortOut) (l : LinkId) (c : Cls) : (o :: s.outs) <:+ ((s.out o).creditReturn l c).outs :=
  creditReturn_outs (s.out o) l c

/-! ### The group's place after it has been accepted -/

theorem Flown.calm {P : RxFlight → RxFlight → Prop} {l : LinkId} {s t : State} (h : Flown P l s t) (hn : t.now = s.now)
    (hs : s.stormDue l = false) : t.stormDue l = false := by
  rw [stormDue_congr (s := s) (t := t) (by rw [h.core]) h.rep hn, hs]

theorem pumps_now (s : State) (l : LinkId) : (s.ringPump l).now = s.now ∧ (s.deliverPump l).now = s.now := by
  have hr : (s.ringPump l).sys = s.sys := (ringPump_keeps (K := 0x752340) (Keeps.refl _ s) (by decide)).sys.resolve_left (by decide)
  have hd : (s.deliverPump l).sys = s.sys :=
    (deliverPump_keeps (K := 0x000200) (Keeps.refl _ s) (by decide)).sys.resolve_left (by decide)
  exact ⟨congrArg (·.btime) hr, congrArg (·.btime) hd⟩

theorem inFlight_now (s : State) (l : LinkId) (r : Nat) (g : RxGroup) : (s.inFlight l r g).now = s.now := by
  have h : (s.rxNote l r g.header).sys = s.sys :=
    (rxNote_keeps (K := 0x042040) (Keeps.refl _ s) (by decide)).sys.resolve_left (by decide)
  exact congrArg (·.btime) h

theorem rxAccept_calm {s : State} {l : LinkId} {r : Nat} {g : RxGroup} (hc : g.cut = false) (hs : s.stormDue l = false) :
    (s.rxAccept l r g).stormDue l = false := by
  have h0 : (s.inFlight l r g).stormDue l = false := by
    rw [stormDue_congr (s := s) (t := s.inFlight l r g) (by rw [inFlight_link]; rfl) (by rw [inFlight_link]; rfl)
      (s.inFlight_now l r g), hs]
  obtain ⟨hring, hdel⟩ := (s.inFlight l r g).pumps_now l
  rw [rxAccept_of_whole hc]
  split
  · exact (ringPump_flown _ l).calm hring h0
  · exact (deliverPump_flown _ l).calm hdel h0

theorem arrived_mem (s : State) (l : LinkId) (r : Nat) (g : RxGroup) :
    s.arrived l r g ∈ ((s.inFlight l r g).link l).io.flight := by
  rw [inFlight_link]
  exact List.mem_append_right _ (List.mem_singleton.mpr rfl)

/-- Whatever the rings and the channels do, the group is in flight as it arrived. -/
theorem rxAccept_flight {s : State} {l : LinkId} {r : Nat} {g : RxGroup} (hc : g.cut = false) :
    ∃ f ∈ ((s.rxAccept l r g).link l).io.flight, f = { s.arrived l r g with
      gid := f.gid, consumers := f.consumers, placed := f.placed } := by
  rw [rxAccept_of_whole hc]
  split
  · obtain ⟨f, hf, h⟩ := (ringPump_flown (s.inFlight l r g) l).flight _ (s.arrived_mem l r g)
    exact ⟨f, hf, by rw [h]⟩
  · obtain ⟨f, hf, h⟩ := (deliverPump_flown (s.inFlight l r g) l).flight _ (s.arrived_mem l r g)
    exact ⟨f, hf, by rw [h]⟩

/-- A group that passes its checks is of a kind that its class allows, and the only one of its number in flight. -/
theorem rxCheck_accepted {s : State} {l : LinkId} {g : RxGroup} {r : Nat} (h : s.rxCheck l g false = .inr r)
    (hk : hdrKind g.header ≠ kindOpen) : s.kindAllowed g.header = true ∧
      ((s.link l).io.flight.any fun f => f.cls == hdrCls g.header && f.seq == hdrSeq g.header &&
        f.inst == (s.link l).io.inst) = false := by
  unfold rxCheck at h
  dsimp only at h
  split at h
  · cases h
  split at h
  · cases h
  split at h
  · cases h
  next hallowed =>
  split at h
  · cases h
  split at h
  · cases h
  split at h
  · cases h
  split at h
  · cases h
  split at h
  · cases h
  next hwin =>
  refine ⟨?_, ?_⟩
  · by_contra hn
    exact hallowed (.inr (by rw [Bool.eq_false_iff.mpr hn]; rfl))
  · by_contra hn
    rw [Bool.not_eq_false] at hn
    exact hwin (by rw [hn, windowAdmits, if_pos rfl]; rfl)

/-- A delivered group of class 1 or 2 is Subjunctive: a Node of pool role takes none (Table 9-4). -/
theorem isSubjunctive_of_deliver {s : State} {h : BitVec 128} (ha : s.kindAllowed h = true) (hd : isDeliver h = true)
    (hc : hdrCls h = 1 ∨ hdrCls h = 2) : s.isSubjunctive h = true := by
  obtain ⟨hk, -⟩ := Bool.and_eq_true_iff.mp hd
  have h0 : hdrCls h ≠ 0 := by rcases hc with h | h <;> rw [h] <;> decide
  have hpool : (!s.poolRole) = true := by
    unfold kindAllowed at ha
    dsimp only at ha
    rw [if_pos (eq_of_beq hk), if_neg h0] at ha
    obtain ⟨ha, -⟩ := Bool.and_eq_true_iff.mp ha
    obtain ⟨ha, -⟩ := Bool.and_eq_true_iff.mp ha
    exact (Bool.and_eq_true_iff.mp ha).1
  rw [isSubjunctive, hpool, hd]
  rcases hc with h | h <;> rw [h] <;> rfl

/-- A group that is not Subjunctive is not shown before its Verdict. -/
theorem rxAccept_unshown {s : State} {l : LinkId} {r : Nat} {g : RxGroup} (hc : g.cut = false)
    (hchk : s.rxCheck l g false = .inr r) (hk : hdrKind g.header ≠ kindOpen) (hsub : s.isSubjunctive g.header = false) :
    ∃ f ∈ ((s.rxAccept l r g).link l).io.flight, f = { s.arrived l r g with placed := f.placed } := by
  obtain ⟨hallowed, hfresh⟩ := rxCheck_accepted hchk hk
  rw [rxAccept_of_whole hc]
  split
  · exact (ringPump_flown (s.inFlight l r g) l).flight _ (s.arrived_mem l r g)
  · have hnot : isDeliver (s.arrived l r g).header = true → (s.arrived l r g).cls ≠ 1 ∧ (s.arrived l r g).cls ≠ 2 := by
      refine fun hd => not_or.mp fun hcls => Bool.false_ne_true ?_
      exact hsub.symm.trans (isSubjunctive_of_deliver hallowed hd hcls)
    have halone : Alone l (s.arrived l r g) ((s.inFlight l r g).link l).io.flight := by
      refine ⟨s.arrived_mem l r g, fun x hx hr => ?_⟩
      rw [inFlight_link] at hx
      rcases List.mem_append.mp hx with hx | hx
      · have hne := List.any_eq_false.mp hfresh x hx
        injection hr with _ hc hs hi
        refine absurd ?_ hne
        rw [hc, hs, hi]
        simp [arrived]
      · exact List.mem_singleton.mp hx
    exact ⟨_, (deliverPump_alone hnot halone).1, rfl⟩

/-- The first group of an open channel is shown as it arrives (R53, R56, R269). -/
theorem rxAccept_shown {s : State} {l : LinkId} {r : Nat} {g : RxGroup} (hc : g.cut = false)
    (hsub : s.isSubjunctive g.header = true) (hd : isDeliver g.header = true) (ho : s.deliveryOpen = true)
    (hf : (s.link l).io.flight = []) (hh : (s.link l).io.held = []) :
    s.rxAccept l r g = (s.inFlight l r g).presentFlight l (s.arrived l r g) := by
  have hring : isRing g.header = false := by
    have hdest : hdrDest g.header = destDeliver := eq_of_beq (Bool.and_eq_true_iff.mp hd).2
    rw [isRing, hdest]
    exact Bool.and_false _
  have hcls : (s.arrived l r g).cls = 1 ∨ (s.arrived l r g).cls = 2 := by
    obtain ⟨-, h⟩ := Bool.and_eq_true_iff.mp hsub
    exact (Bool.or_eq_true_iff.mp h).imp eq_of_beq eq_of_beq
  have hopen : (s.inFlight l r g).deliveryOpen = true := by
    have h : (s.rxNote l r g.header).clk = s.clk :=
      (rxNote_keeps (K := 0x042040) (Keeps.refl _ s) (by decide)).clk.resolve_left (by decide)
    have h' : (s.inFlight l r g).clk = s.clk := h
    rw [deliveryOpen, portOn, h']
    exact ho
  rw [rxAccept_of_whole hc, hring, if_neg Bool.false_ne_true]
  refine deliverPump_of_one hopen ?_ ?_ hd rfl hcls
  · rw [inFlight_link]
    exact congrArg (· ++ [s.arrived l r g]) hf
  · rw [inFlight_link]
    exact hh

theorem rxTaken_outs (s : State) (l : LinkId) (h : BitVec 128) : (s.rxTaken l h).outs = s.outs := rfl

theorem rxTaken_calm {s : State} {l : LinkId} (h : BitVec 128) (hs : s.stormDue l = false) :
    (s.rxTaken l h).stormDue l = false := by
  rw [stormDue_congr (s := s) (t := s.rxTaken l h) (by rw [rxTaken_link]; rfl) (by rw [rxTaken_link]; rfl) rfl, hs]

theorem opReceiveUnits_repudiates {s : State} {l : LinkId} {us : List RxUnit} {g : RxGroup} {n : Nat}
    (hg : frameGroup us = some g) (hlive : s.linkLive l = true) (hup : (s.link l).core.up = true)
    (hsel : (s.link l).clk.rxSel = true) (hn : s.rxCheck l g false = .inl n) (hk : hdrKind g.header ≠ kindOpen) :
    (.linkRepudiate l (hdrCls g.header) (hdrSeq g.header) n :: .record causeLinkRepudiate l.toNat :: s.outs) <:+
      (s.opReceiveUnits l us false).outs := by
  rw [opReceiveUnits_of_group hg hlive hup hsel, hn]
  dsimp only
  rw [rxFail, if_neg hk, ← s.rxTaken_outs l g.header]
  exact (repudiateArrival_outs _ l _ n).trans (stormCheck_outs _ l)

theorem opReceiveUnits_opens {s : State} {l : LinkId} {us : List RxUnit} {g : RxGroup} {r : Nat}
    (hg : frameGroup us = some g) (hlive : s.linkLive l = true) (hup : (s.link l).core.up = true)
    (hsel : (s.link l).clk.rxSel = true) (hr : s.rxCheck l g false = .inr r) (hk : hdrKind g.header = kindOpen)
    (hc : g.cut = false) : (.agreeFragment l g.payload :: s.outs) <:+ (s.opReceiveUnits l us false).outs := by
  rw [opReceiveUnits_of_group hg hlive hup hsel, hr]
  dsimp only
  rw [if_pos hk, hc, if_neg Bool.false_ne_true, ← s.rxTaken_outs l g.header]
  exact ((openTake_outs _ l _).trans (creditReturn_outs _ l _)).trans (stormCheck_outs _ l)

theorem opReceiveUnits_accepts {s : State} {l : LinkId} {us : List RxUnit} {g : RxGroup} {r : Nat}
    (hg : frameGroup us = some g) (hlive : s.linkLive l = true) (hup : (s.link l).core.up = true)
    (hsel : (s.link l).clk.rxSel = true) (hr : s.rxCheck l g false = .inr r) (hk : hdrKind g.header ≠ kindOpen)
    (hc : g.cut = false) (hs : s.stormDue l = false) : s.opReceiveUnits l us false = (s.rxTaken l g.header).rxAccept l r g := by
  rw [opReceiveUnits_of_group hg hlive hup hsel, hr]
  dsimp only
  rw [if_neg hk]
  exact stormCheck_of_calm (rxAccept_calm hc (rxTaken_calm g.header hs))

/-- A group in flight that is the received one, but for what the channel and its ring note of it. -/
structure Received (s : State) (l : LinkId) (r : Nat) (g : RxGroup) (f : RxFlight) : Prop where
  cls : f.cls = hdrCls g.header
  seq : f.seq = hdrSeq g.header
  inst : f.inst = (s.link l).io.inst
  header : f.header = g.header
  payload : f.payload = g.payload
  tag : f.tag = g.tag
  material : f.material = (s.row r).material
  row : f.row = r

theorem Received.of_eq {s : State} {l : LinkId} {r : Nat} {g : RxGroup} {f : RxFlight}
    (h : f = { (s.rxTaken l g.header).arrived l r g with gid := f.gid, consumers := f.consumers, placed := f.placed }) :
    Received s l r g f := by
  have hinst : ((s.rxTaken l g.header).link l).io.inst = (s.link l).io.inst := by rw [rxTaken_link]; rfl
  rw [h]
  exact ⟨rfl, rfl, hinst, rfl, rfl, rfl, rfl, rfl⟩

/-- The group in flight after a receipt: shown at once where the channel is free, not shown where it is not Subjunctive. -/
theorem received_flight {s : State} {l : LinkId} {g : RxGroup} {r : Nat} (hr : s.rxCheck l g false = .inr r)
    (hk : hdrKind g.header ≠ kindOpen) (hc : g.cut = false) :
    ∃ f ∈ (((s.rxTaken l g.header).rxAccept l r g).link l).io.flight, Received s l r g f ∧
      (s.isSubjunctive g.header = false → f.gid = none) ∧
      (s.isSubjunctive g.header = true → isDeliver g.header = true → s.deliveryOpen = true →
        (s.link l).io.flight = [] → (s.link l).io.held = [] →
        f.gid = some (s.link l).del.gidNext ∧ f.consumers = [hdrCtx g.header] ∧
        (((s.rxTaken l g.header).rxAccept l r g).link l).del.beats = (s.link l).del.beats ++
          groupBeats (groupPlain f) (hdrLen g.header) (hdrCls g.header) (hdrCtx g.header) (s.link l).del.gidNext true false) := by
  have hchk : (s.rxTaken l g.header).rxCheck l g false = .inr r := (s.rxTaken_rxCheck l g.header g false).trans hr
  have hlink := s.rxTaken_link l g.header
  cases hsub : s.isSubjunctive g.header with
  | false =>
    obtain ⟨f, hf, he⟩ := rxAccept_unshown hc hchk hk hsub
    refine ⟨f, hf, .of_eq (by rw [he]), fun _ => by rw [he]; rfl, nofun⟩
  | true =>
    by_cases hfree : isDeliver g.header = true ∧ s.deliveryOpen = true ∧ (s.link l).io.flight = [] ∧ (s.link l).io.held = []
    · obtain ⟨hd, ho, hfl, hh⟩ := hfree
      have hflight : ((s.rxTaken l g.header).link l).io.flight = [] := by rw [hlink]; exact hfl
      have hheld : ((s.rxTaken l g.header).link l).io.held = [] := by rw [hlink]; exact hh
      have hshown := rxAccept_shown (s := s.rxTaken l g.header) (r := r) hc hsub hd ho hflight hheld
      have hpl := ((s.rxTaken l g.header).inFlight l r g).presentFlight_link l ((s.rxTaken l g.header).arrived l r g)
      rw [inFlight_link, hlink] at hpl
      rw [hshown, hpl]
      refine ⟨shown (s.link l).del.gidNext ((s.rxTaken l g.header).arrived l r g) ((s.rxTaken l g.header).arrived l r g),
        ?_, ?_, nofun, fun _ _ _ _ _ => ⟨rfl, rfl, ?_⟩⟩
      · refine List.mem_map.mpr ⟨_, List.mem_append_right _ (List.mem_singleton.mpr rfl), if_pos rfl⟩
      · exact .of_eq rfl
      · have hcut : ((s.rxTaken l g.header).arrived l r g).cut = false := hc
        rw [← hcut]
        rfl
    · obtain ⟨f, hf, he⟩ := rxAccept_flight (s := s.rxTaken l g.header) (l := l) (r := r) hc
      exact ⟨f, hf, .of_eq he, nofun, fun _ hd ho hfl hh => absurd ⟨hd, ho, hfl, hh⟩ hfree⟩

end State

/-- Settles O27: a received group by the answer of its checks, then the Verdict of the group that awaits it. -/
theorem groupsReceivedAndJudged : Obligations.GroupsReceivedAndJudged := by
  refine ⟨fun s l us => ⟨fun h b => ?_, fun g hg hlive hup hsel => ⟨fun n hn hk => ⟨_, rfl, ?_⟩, fun r hr hk hc => ⟨_, rfl, ?_⟩,
    fun r hr hk hc hs => ?_⟩⟩, fun s l c seq => ⟨fun h => ⟨?_, ?_⟩, fun g hg => ?_⟩⟩
  · exact exec_next rfl (congrArg State.settleAll (State.opReceiveUnits_of_not h b))
  · exact (State.opReceiveUnits_repudiates hg hlive hup hsel hn hk).trans State.outs_of_settled
  · exact (State.opReceiveUnits_opens hg hlive hup hsel hr hk hc).trans State.outs_of_settled
  · obtain ⟨f, hf, hrec, hnone, hshow⟩ := State.received_flight hr hk hc
    refine ⟨(s.rxTaken l g.header).rxAccept l r g, f, ?_, hf, hrec.cls, hrec.seq, hrec.inst, hrec.header, hrec.payload, hrec.tag,
      hrec.material, hrec.row, hnone, hshow⟩
    exact exec_next rfl (congrArg State.settleAll (State.opReceiveUnits_accepts hg hlive hup hsel hr hk hc hs))
  · exact exec_next rfl (congrArg State.settleAll (State.opVerdict_of_none h))
  · exact exec_next rfl (congrArg State.settleAll (State.opVerdict_of_none h))
  · obtain ⟨rfl, rfl⟩ := State.awaiting_ref hg
    have hop := State.opVerdict_of_some hg
    refine ⟨fun hbad hnow => ⟨(s.opVerdict l g.cls g.seq).settleAll, rfl, rfl, ?_⟩, fun x hok hgid hgone ho => ⟨_, rfl, ?_⟩,
      fun x hgid hnot hs => ?_, fun hok hgid hpl hk hd h1 hb => ⟨_, rfl, ?_⟩⟩
    · refine List.IsSuffix.trans ?_ State.outs_of_settled
      rw [hop, State.judge, if_pos hnow, State.verdict, hbad, if_neg Bool.false_ne_true]
      exact (s.repudiateGroup_outs l g _).trans (State.stormCheck_outs _ l)
    · refine List.IsSuffix.trans ?_ State.outs_of_settled
      have hnow : s.verdictNow l g = true := by
        rw [State.verdictNow, hgid]
        exact Bool.and_eq_true_iff.mpr ⟨hgone, ho⟩
      rw [hop, State.judge, if_pos hnow, State.verdict, if_pos hok, ← s.confirmed_outs l g]
      refine List.IsSuffix.trans ?_ ((s.confirmGroup_outs l g).trans (State.stormCheck_outs _ l))
      rw [State.takeConfirmed_of_shown hgid]
      exact (s.confirmed l g).outs_of_credited _ l _
    · have hnow : s.verdictNow l g = false := by
        rw [State.verdictNow, hgid]
        dsimp only
        rw [hnot, Bool.false_and]
      refine exec_next rfl (congrArg State.settleAll ?_)
      rw [hop, State.judge, hnow, if_neg Bool.false_ne_true]
      have hfl : State.Flown (fun _ _ => True) l s (s.modFlight (State.flightRef l g) fun x => { x with due := true }) :=
        .of_modFlight (fun _ => trivial) fun _ => trivial
      exact State.stormCheck_of_calm (hfl.calm rfl hs)
    · refine List.IsSuffix.trans ?_ State.outs_of_settled
      have hnow : s.verdictNow l g = true := by
        have hnd : isDeliver g.header = false := by
          rw [isDeliver, hd]
          exact Bool.and_false _
        rw [State.verdictNow, hgid]
        dsimp only
        rw [hnd, Bool.and_false, Bool.false_and, Bool.not_false]
      rw [hop, State.judge, if_pos hnow, State.verdict, if_pos hok, ← s.confirmed_outs l g]
      refine List.IsSuffix.trans ?_ ((s.confirmGroup_outs l g).trans (State.stormCheck_outs _ l))
      rw [State.takeConfirmed_of_control hgid hpl hk hd h1 hb, State.confirmed_core]
      exact (s.confirmed l g).outs_of_credited _ l _

end Sys2Proof.Machine
end

section
/-! PROOFS. Messages only enter the TC0 queues of the links, and the messages of an Agreement (O30 to O32). -/

namespace Sys2Proof.Machine

namespace State

/-! ### Messages that enter the queues -/

/-- A link with another TC0 queue. -/
def withQueue (k : Link) (q : List Tc0Item) : Link := { k with tc0 := { k.tc0 with queue := q } }

/-- No link is changed but for its TC0 queue. -/
def Queued (s t : State) : Prop := ∀ m, ∃ q, t.link m = withQueue (s.link m) q

theorem Queued.of_links {s t : State} (h : t.links = s.links) : Queued s t := fun m =>
  ⟨(s.link m).tc0.queue, by rw [link, h]; rfl⟩

theorem Queued.refl (s : State) : Queued s s := .of_links rfl

theorem Queued.trans {s t u : State} (h : Queued s t) (g : Queued t u) : Queued s u := fun m => by
  obtain ⟨q, hq⟩ := h m
  obtain ⟨r, hr⟩ := g m
  exact ⟨r, by rw [hr, hq]; rfl⟩

theorem Queued.foldl {α : Type} {f : State → α → State} (h : ∀ s x, Queued s (f s x)) (xs : List α) (s : State) :
    Queued s (xs.foldl f s) := by
  induction xs generalizing s with
  | nil => exact .refl s
  | cons x xs ih => exact (h s x).trans (ih _)

/-- What is done to a link's core, Agreement and so on is done whatever its queue holds. -/
theorem Queued.core {s t : State} (h : Queued s t) (m : LinkId) : (t.link m).core = (s.link m).core := by
  obtain ⟨q, hq⟩ := h m
  rw [hq]
  rfl

theorem Queued.agr {s t : State} (h : Queued s t) (m : LinkId) : (t.link m).agr = (s.link m).agr := by
  obtain ⟨q, hq⟩ := h m
  rw [hq]
  rfl

theorem Queued.gates {s t : State} (h : Queued s t) (m : LinkId) : (t.link m).tc0.gates = (s.link m).tc0.gates := by
  obtain ⟨q, hq⟩ := h m
  rw [hq]
  rfl

theorem tc0Put_queued (s : State) (l : LinkId) (x : Tc0Item) : Queued s (s.tc0Put l x) := fun m => by
  rcases Decidable.em (m = l) with rfl | hm
  · exact ⟨_, modLink_link_same s m fun k => withQueue k (k.tc0.queue ++ [x])⟩
  · exact ⟨(s.link m).tc0.queue, modLink_link_ne _ _ _ _ hm⟩

theorem progress_queued (s : State) (e : Nat) : Queued s (s.progress e) := .of_links rfl

theorem openSend_queued (s : State) (l : LinkId) (dst : Member) (d : Slot) (type : Byte) (a : BitVec 32) (msg : Bytes) :
    Queued s (s.openSend l dst d type a msg) := Queued.foldl (fun t _ => t.tc0Put_queued l _) _ s

theorem tc0Forward_queued (s : State) (d : Slot) (r : Route) (prio : BitVec 2) (f : Bytes) :
    Queued s (s.tc0Forward d r prio none f) := by
  unfold tc0Forward
  split
  · split
    · exact .refl s
    · exact s.tc0Put_queued _ _
    · exact .refl s
  · exact Queued.foldl (fun t _ => t.tc0Put_queued _ _) _ s

theorem tc0Send_queued (s : State) (d : Slot) (type : Byte) (dst : Member) (scope hall : Byte) (msg : Bytes) :
    Queued s (s.tc0Send d type dst scope hall msg) :=
  Queued.trans (t := s.setDom d { s.dom d with transfer := (s.dom d).transfer + 1 }) (.of_links rfl)
    (Queued.foldl (fun t _ => t.tc0Forward_queued d _ _ _) _ _)

theorem syncRow_queued (s : State) (d : Slot) (m : Member) (v : BitVec 32) (row : RosterRow) (ps : List Member) :
    Queued s (s.syncRow d m v row ps) := Queued.foldl (fun t _ => t.tc0Send_queued d _ _ _ _ _) _ s

theorem rosterSend_queued (s : State) (d : Slot) : Queued s (s.rosterSend d) := by
  unfold rosterSend
  dsimp only
  split
  · exact Queued.trans (.of_links rfl) (syncRow_queued _ _ _ _ _ _)
  · exact Queued.foldl (fun t _ => t.tc0Send_queued d _ _ _ _ _) _ s

theorem rosterChange_queued (s : State) (d : Slot) : Queued s (s.rosterChange d) := by
  unfold rosterChange
  split
  · exact Queued.trans (.of_links rfl) (rosterSend_queued _ d)
  · exact .refl s

theorem openDomain_queued (s : State) (l : LinkId) (d : Slot) (x : Decl) (type : Byte) (msg : Bytes) :
    Queued s (s.openDomain l d x type msg) :=
  Queued.trans (t := s.modDom d fun k => { k with transfer := (s.dom d).transfer + 1 }) (.of_links rfl)
    (openSend_queued _ _ _ _ _ _ _)

theorem inviteSend_queued (s : State) (l : LinkId) (d : Slot) (x : Decl) : Queued s (s.inviteSend l d x) := by
  unfold inviteSend
  dsimp only
  split
  · exact .refl s
  · exact s.openDomain_queued l d x _ _

theorem rejoinSend_queued (s : State) (l : LinkId) (d : Slot) (x : Decl) : Queued s (s.rejoinSend l d x) := by
  unfold rejoinSend
  split
  · exact s.openDomain_queued l d x _ _
  · exact .refl s

theorem joinAgreed_queued (s : State) (l : LinkId) (d : Slot) : Queued s (s.joinAgreed l d) := by
  unfold joinAgreed
  split
  · split
    · exact Queued.trans (.of_links ((timeMark_keeps (K := 0x100400) (modDom_keeps (Keeps.refl _ s) (by decide))
        (by decide)).links.resolve_left (by decide))) (tc0Send_queued _ _ _ _ _ _ _)
    · exact .refl s
  · exact .refl s

/-! ### The phase of a link -/

/-- The link in another phase. -/
def inPhase (k : Link) (p : LinkPhase) : Link := { k with core := { k.core with phase := p } }

/-- A change of phase changes no link's queue but by the Roster row it sends (R286, R380). -/
theorem setPhase_queued (s : State) (l : LinkId) (p : LinkPhase) : Queued (s.modLink l (inPhase · p)) (s.setPhase l p) := by
  unfold setPhase
  split
  · next h =>
    intro m
    refine ⟨(s.link m).tc0.queue, ?_⟩
    rcases Decidable.em (m = l) with rfl | hm
    · rw [modLink_link_same, ← h]
      rfl
    · rw [modLink_link_ne _ _ _ _ hm]
      rfl
  · dsimp only
    split
    · exact rosterChange_queued _ _
    · exact .refl _

theorem setPhase_core (s : State) (l : LinkId) (p : LinkPhase) :
    ((s.setPhase l p).link l).core = { (s.link l).core with phase := p } := by
  rw [(s.setPhase_queued l p).core, modLink_link_same]
  rfl

theorem setPhase_agr (s : State) (l : LinkId) (p : LinkPhase) : ((s.setPhase l p).link l).agr = (s.link l).agr := by
  rw [(s.setPhase_queued l p).agr, modLink_link_same]
  rfl

theorem setPhase_gates (s : State) (l : LinkId) (p : LinkPhase) :
    ((s.setPhase l p).link l).tc0.gates = (s.link l).tc0.gates := by
  rw [(s.setPhase_queued l p).gates, modLink_link_same]
  rfl

/-- What a change of a link leaves alone. -/
theorem modLink_kept {α : Type} {f : Link → Link} (g : Link → α) (hf : ∀ k, g (f k) = g k) (s : State) (l : LinkId) :
    g ((s.modLink l f).link l) = g (s.link l) := by
  rw [modLink_link_same]
  exact hf _

/-! ### ABORT and the ends of an attempt -/

/-- ABORT's reason is recorded, and nothing else of the link but its queue changes. -/
theorem abortSend_core (s : State) (l : LinkId) (d : Slot) (x : Decl) (a : BitVec 32) (r : BitVec 8) :
    ((s.abortSend l d x a r).link l).core = { (s.link l).core with abortSent := r } := by
  rw [abortSend, modLink_link_same]
  dsimp only
  rw [(openSend_queued s l _ d _ a _).core]

theorem abortSend_agr (s : State) (l : LinkId) (d : Slot) (x : Decl) (a : BitVec 32) (r : BitVec 8) :
    ((s.abortSend l d x a r).link l).agr = (s.link l).agr := by
  refine (modLink_kept (·.agr) ?_ _ l).trans (Queued.agr (openSend_queued _ _ _ _ _ _ _) l)
  exact fun _ => rfl

theorem linkEvent_core (s : State) (l : LinkId) (b : Nat) :
    ((s.linkEvent l b).link l).core = { (s.link l).core with event := setBitTo (s.link l).core.event b true } :=
  congrArg (·.core) (modLink_link_same s l fun k => { k with core := { k.core with event := setBitTo k.core.event b true } })

theorem linkEvent_agr (s : State) (l : LinkId) (b : Nat) : ((s.linkEvent l b).link l).agr = (s.link l).agr :=
  congrArg (·.agr) (modLink_link_same s l fun k => { k with core := { k.core with event := setBitTo k.core.event b true } })

theorem absent_core (s : State) (l : LinkId) : ((s.absent l).link l).core =
    { (s.link l).core with phase := .absent, event := setBitTo (s.link l).core.event lkevAbsent true } := by
  rw [absent, linkEvent_core, setPhase_core, modLink_link_same]

theorem absent_agr (s : State) (l : LinkId) : ((s.absent l).link l).agr = {} := by
  rw [absent, linkEvent_agr, setPhase_agr, modLink_link_same]

theorem attemptFail_last {s : State} {l : LinkId} (h : (s.link l).core.attempt = 3) : s.attemptFail l = s.absent l := if_pos h

theorem attemptFail_core {s : State} {l : LinkId} (h : (s.link l).core.attempt ≠ 3) :
    ((s.attemptFail l).link l).core = (s.link l).core := by
  rw [attemptFail, if_neg h, modLink_link_same]

theorem attemptFail_agr (s : State) (l : LinkId) : ((s.attemptFail l).link l).agr = {} := by
  unfold attemptFail
  split
  · exact s.absent_agr l
  · rw [modLink_link_same]

/-- An attempt's failure leaves what was sent and received in ABORT recorded. -/
theorem attemptFail_aborts (s : State) (l : LinkId) : ((s.attemptFail l).link l).core.abortSent = (s.link l).core.abortSent ∧
    ((s.attemptFail l).link l).core.abortRcvd = (s.link l).core.abortRcvd := by
  rcases Decidable.em ((s.link l).core.attempt = 3) with h | h
  · rw [attemptFail_last h, absent_core]
    exact ⟨rfl, rfl⟩
  · rw [attemptFail_core h]
    exact ⟨rfl, rfl⟩

theorem responderFail_core (s : State) (l : LinkId) : ((s.responderFail l).link l).core = (s.link l).core := by
  rw [responderFail, modLink_link_same]

/-! ### HELLO (R281, R285) -/

theorem agrReady_of_not {s : State} {l : LinkId} (h : s.linkLive l = false ∨ (s.link l).core.up = false ∨ s.declOf l = none) :
    s.agrReady l = none := by
  unfold agrReady
  rcases h with h | h | h
  · rw [h, Bool.false_and, if_neg Bool.false_ne_true]
  · rw [h, Bool.and_false, if_neg Bool.false_ne_true]
  · rw [h, ite_self]

theorem opHello_of_higher {s : State} {l : LinkId} {p : AgrPrefix} {b : AgrBody} {d : Slot} {x : Decl}
    (hr : s.agrReady l = some (d, x)) (ha : s.heldAttempt l < p.attempt.toNat) (ho : (s.row (rowLas l)).outOfUse = false) :
    s.opHello l p b =
      if (s.agreeRefusal d).isSome then (s.abortSend l d x p.attempt agrState).rejoinSend l d x
      else match s.agrCheck l d x p b true with
      | some r => s.abortSend l d x p.attempt r
      | none => (s.endAgreement l endReagree).replyMake l d x p b := by
  have h : ¬ (p.attempt.toNat ≤ s.heldAttempt l ∨ (s.row (rowLas l)).outOfUse = true) := by
    rw [ho]
    exact not_or.mpr ⟨Nat.not_le.mpr ha, Bool.false_ne_true⟩
  unfold opHello
  rw [hr]
  exact if_neg h

/-- The link that has answered a HELLO, before REPLY is sent. -/
structure Replied (s : State) (l : LinkId) (d : Slot) (x : Decl) (p : AgrPrefix) (b : AgrBody) (t : State) : Prop where
  initiator : (t.link l).core.initiator = false
  member : (t.link l).core.pMember = x.partner
  slot : (t.link l).core.slot = d
  attempt : (t.link l).core.attempt = p.attempt.setWidth 2
  hello : (t.link l).agr.hello = p.raw
  cert : (t.link l).agr.peerCert = b.cert

theorem Replied.queued {s t u : State} {l : LinkId} {d : Slot} {x : Decl} {p : AgrPrefix} {b : AgrBody}
    (h : Replied s l d x p b t) (g : Queued (t.modLink l (inPhase · .agreeing)) u) :
    Replied s l d x p b u ∧ (u.link l).core.phase = .agreeing := by
  have hc := g.core l
  have ha := g.agr l
  rw [modLink_link_same] at hc ha
  refine ⟨⟨?_, ?_, ?_, ?_, ?_, ?_⟩, by rw [hc]; rfl⟩
  · rw [hc]; exact h.initiator
  · rw [hc]; exact h.member
  · rw [hc]; exact h.slot
  · rw [hc]; exact h.attempt
  · rw [ha]; exact h.hello
  · rw [ha]; exact h.cert

theorem replyMake_replied (s : State) (l : LinkId) (d : Slot) (x : Decl) (p : AgrPrefix) (b : AgrBody) :
    Replied s l d x p b (s.replyMake l d x p b) ∧ ((s.replyMake l d x p b).link l).core.phase = .agreeing := by
  unfold replyMake
  dsimp only
  refine Replied.queued ?_ ((setPhase_queued _ l _).trans ((openSend_queued _ l _ d _ _ _).trans (progress_queued _ _)))
  constructor <;> rw [modLink_link_same]

end State

/-- Settles O30: no partner, no message; a HELLO by what holds, what it checks and what it is answered with. -/
theorem agreementBegins : Obligations.AgreementBegins := by
  refine ⟨fun s l p b g k r h => ?_, fun s l p b d x hr => ⟨fun ha => ?_, fun ha ho hp => ⟨s.opHello l p b, rfl, ?_⟩⟩⟩
  · have hn := State.agrReady_of_not h
    refine ⟨exec_next rfl (congrArg State.settleAll ?_), exec_next rfl ?_, exec_next rfl ?_, exec_next rfl ?_,
      exec_next rfl ?_, exec_next rfl ?_⟩
    · rw [State.opHello, hn]
    · rw [State.opReply, hn]
    · rw [State.opFinish, hn]
    · rw [State.opDone, hn]
    · rw [State.opAbort, hn]
    · rw [State.opRetry, hn]
  · refine exec_next rfl (congrArg State.settleAll ?_)
    rw [State.opHello, hr]
    exact if_pos (.inl ha)
  · rw [State.opHello_of_higher hr ha ho]
    refine ⟨fun st hst => ?_, fun r hst hc => ?_, fun hst hc => ?_⟩
    · rw [hst, if_pos Option.isSome_some]
      have hq := State.rejoinSend_queued (s.abortSend l d x p.attempt agrState) l d x
      exact ⟨(hq.core l).trans (s.abortSend_core ..), (hq.agr l).trans (s.abortSend_agr ..)⟩
    · rw [hst, Option.isSome_none, if_neg Bool.false_ne_true, hc]
      exact ⟨s.abortSend_core .., s.abortSend_agr ..⟩
    · rw [hst, Option.isSome_none, if_neg Bool.false_ne_true, hc]
      dsimp only
      rw [State.endAgreement_of_not_agreed hp]
      obtain ⟨h, hphase⟩ := s.replyMake_replied l d x p b
      exact ⟨hphase, h.initiator, h.member, h.slot, h.attempt, h.hello, h.cert⟩

end Sys2Proof.Machine
end

section
/-! PROOFS. REPLY, FINISH and DONE (O31). -/

namespace Sys2Proof.Machine

namespace State

/-! ### Keys written into their rows -/

theorem row_of_keys {s t : State} (h : t.keys = s.keys) (r : Nat) : t.row r = s.row r := by rw [row, row, h]

theorem writeKey_row_same {s : State} {r : Nat} (h : (s.row r).outOfUse = false) (m : BitVec 288) (p : KeyParent)
    (tense : BitVec 2) (d : Slot) (gen : BitVec 32) : (s.writeKey r m p tense d gen).row r = { s.row r with
      valid := true, material := m, tail := tailOf r m, parent := p, tense := tense, slot := d, gen := gen, use := 0 } := by
  rw [writeKey]
  dsimp only
  rw [h, if_neg Bool.false_ne_true, setRow_row_same]

theorem writeKey_row_ne (s : State) {r y : Nat} (h : y ≠ r) (m : BitVec 288) (p : KeyParent) (tense : BitVec 2) (d : Slot)
    (gen : BitVec 32) : (s.writeKey r m p tense d gen).row y = s.row y := by
  unfold writeKey
  dsimp only
  split
  · rfl
  · exact setRow_row_ne _ _ _ _ h

theorem writeKey_links (s : State) (r : Nat) (m : BitVec 288) (p : KeyParent) (tense : BitVec 2) (d : Slot) (gen : BitVec 32) :
    (s.writeKey r m p tense d gen).links = s.links :=
  (writeKey_keeps (K := 0x000040) (Keeps.refl _ s) (by decide)).links.resolve_left (by decide)

/-- A generation goes into one of the three rows of its stream. -/
theorem genRow_eq (s : State) (l : LinkId) (c : Cls) (dir : Nat) (gen : BitVec 32) :
    ∃ k < 3, s.genRow l c dir gen = rowLink l c dir k := by
  unfold genRow
  dsimp only
  cases h : List.find? _ _ with
  | none => exact ⟨gen.toNat % 3, Nat.mod_lt _ (by decide), rfl⟩
  | some r =>
    obtain ⟨k, -, hk⟩ := List.mem_map.mp (List.mem_of_find?_eq_some h)
    exact ⟨(gen.toNat + k) % 3, Nat.mod_lt _ (by decide), hk.symm⟩

theorem rowLas_ne_genRow (s : State) (l : LinkId) (c : Cls) (dir : Nat) (gen : BitVec 32) :
    rowLas l ≠ s.genRow l c dir gen := by
  obtain ⟨k, -, hk⟩ := s.genRow_eq l c dir gen
  have hl := l.isLt
  rw [hk, rowLas, rowLink]
  omega

theorem installLinkKey_las (s : State) (l : LinkId) (c : Cls) (dir : Nat) (gen : BitVec 32) (tense : BitVec 2) :
    (s.installLinkKey l c dir gen tense).row (rowLas l) = s.row (rowLas l) :=
  s.writeKey_row_ne (s.rowLas_ne_genRow l c dir gen) _ _ _ _ _

/-! ### AGREED (R283) -/

/-- The LAS and the first generation of all eight streams are in their rows. -/
def agreedKeys (s : State) (l : LinkId) (las : Bytes) : State :=
  ([0, 1, 2, 3] : List Cls).foldl (fun (s : State) c => (s.installLinkKey l c 0 1 2).installLinkKey l c 1 1 2)
    (s.writeKey (rowLas l) ((leBv 256 las).setWidth 288) (.row (BitVec.ofNat 12 (rowMember (s.link l).core.slot))) 0
      (s.link l).core.slot 0)

theorem agreedKeys_las {s : State} {l : LinkId} (h : (s.row (rowLas l)).outOfUse = false) (las : Bytes) :
    ((s.agreedKeys l las).row (rowLas l)).valid = true ∧
    ((s.agreedKeys l las).row (rowLas l)).material = (leBv 256 las).setWidth 288 := by
  have hfold (cs : List Cls) (u : State) : (cs.foldl (fun (s : State) c =>
      (s.installLinkKey l c 0 1 2).installLinkKey l c 1 1 2) u).row (rowLas l) = u.row (rowLas l) := by
    induction cs generalizing u with
    | nil => rfl
    | cons c cs ih => exact (ih _).trans ((installLinkKey_las _ _ _ _ _ _).trans (installLinkKey_las _ _ _ _ _ _))
  rw [agreedKeys, hfold, writeKey_row_same h]
  exact ⟨rfl, rfl⟩

theorem agreedKeys_links (s : State) (l : LinkId) (las : Bytes) : (s.agreedKeys l las).links = s.links :=
  (Keeps.foldl (k := 0x000040) (writeKey_keeps (Keeps.refl _ s) (by decide)) fun _ _ h =>
    installLinkKey_keeps (installLinkKey_keeps h (by decide)) (by decide)).links.resolve_left (by decide)

/-- The link's values of the Agreement begin anew. -/
def agreedLink (now : Time) (k : Link) : Link :=
  let back := k.core.tombLive && k.core.tombMember == k.core.pMember
  let core := { k.core with
    agreeCount := satInc k.core.agreeCount
    reappear := if back then satInc k.core.reappear else k.core.reappear
    event := if back then setBitTo k.core.event lkevReappeared true else k.core.event }
  let agr : Agr := { peerCert := k.agr.peerCert, peerSlot := k.agr.peerSlot, peerBoot := k.agr.peerBoot,
                     peerDigest := k.agr.peerDigest }
  { k with
    core := core
    agr := agr
    tc0 := { k.tc0 with gates := [], lastTx := now, peerStratum := 15, t3last := 0 }
    tenseTx := []
    tenseRx := []
    io := { k.io with txSeq := [], windows := [], repTimes := [], lastConfirm := now } }

theorem setAgreed_eq (s : State) (l : LinkId) (las : Bytes) : s.setAgreed l las =
    ((((((s.agreedKeys l las).modLink l (agreedLink (s.agreedKeys l las).now)).setPhase l .agreed).linkEvent l
      lkevAgreed).joinAgreed l (s.link l).core.slot).progress engTrust) := rfl

/-- A link that has become AGREED, with its LAS in its row. -/
structure IsAgreed (s : State) (l : LinkId) (las : Bytes) (t : State) : Prop where
  phase : (t.link l).core.phase = .agreed
  count : (t.link l).core.agreeCount = satInc (s.link l).core.agreeCount
  valid : (t.row (rowLas l)).valid = true
  material : (t.row (rowLas l)).material = (leBv 256 las).setWidth 288
  gates : (t.link l).tc0.gates = []

theorem IsAgreed.queued {s t u : State} {l : LinkId} {las : Bytes} (h : IsAgreed s l las t) (g : Queued t u)
    (hk : u.keys = t.keys) : IsAgreed s l las u := by
  have hrow : u.row (rowLas l) = t.row (rowLas l) := row_of_keys hk _
  refine ⟨?_, ?_, by rw [hrow]; exact h.valid, by rw [hrow]; exact h.material, by rw [g.gates]; exact h.gates⟩
  · rw [g.core]; exact h.phase
  · rw [g.core]; exact h.count

theorem setAgreed_isAgreed {s : State} {l : LinkId} (h : (s.row (rowLas l)).outOfUse = false) (las : Bytes) :
    IsAgreed s l las (s.setAgreed l las) := by
  obtain ⟨hv, hm⟩ := agreedKeys_las h las
  have hlink : (s.agreedKeys l las).link l = s.link l := by rw [link, agreedKeys_links]; rfl
  generalize hk : s.agreedKeys l las = k at hv hm hlink
  generalize hj : ((k.modLink l (agreedLink k.now)).setPhase l .agreed).linkEvent l lkevAgreed = j
  have hkeys : j.keys = k.keys := by
    rw [← hj]
    exact (linkEvent_keeps (K := 0x000600) (setPhase_keeps (modLink_keeps (Keeps.refl _ k) (by decide)) (by decide))
      (by decide)).keys.resolve_left (by decide)
  have hrow : j.row (rowLas l) = k.row (rowLas l) := row_of_keys hkeys _
  have hcore : (j.link l).core.phase = .agreed ∧ (j.link l).core.agreeCount = satInc (s.link l).core.agreeCount := by
    rw [← hj, linkEvent_core, setPhase_core, modLink_link_same, hlink]
    exact ⟨rfl, rfl⟩
  have hgates : (j.link l).tc0.gates = [] := by
    rw [← hj]
    refine (modLink_kept (·.tc0.gates) ?_ _ l).trans ?_
    · exact fun _ => rfl
    · rw [setPhase_gates, modLink_link_same]
      rfl
  have hagreed : IsAgreed s l las j := ⟨hcore.1, hcore.2, by rw [hrow]; exact hv, by rw [hrow]; exact hm, hgates⟩
  rw [setAgreed_eq, hk, hj]
  exact hagreed.queued ((joinAgreed_queued _ _ _).trans (progress_queued _ _))
    ((progress_keeps (K := 0x110600) (joinAgreed_keeps (Keeps.refl _ j) (by decide)) (by decide)).keys.resolve_left (by decide))

/-! ### REPLY -/

/-- Why a REPLY is not taken (R281). -/
def replyBad (s : State) (l : LinkId) (d : Slot) (x : Decl) (p : AgrPrefix) (b : AgrBody) : Option (BitVec 8) :=
  match s.agreeRefusal d, s.agrCheck l d x p b false with
  | some _, _ => some agrState
  | none, some r => some r
  | none, none =>
    if sigMsgOk (Config.certFacts b.cert).aliasKeys "KX3-AGREE-R"
      (sha384 ((s.link l).agr.hello ++ p.raw.take (p.raw.length - 4736))) b.sig then none else some agrSig

theorem not_awaits {s : State} {l : LinkId} {p : AgrPrefix} {i : Bool} (h : s.awaits l p i = false) (c : Bool) :
    (!s.awaits l p i || c) = true := by rw [h, Bool.not_false, Bool.true_or]

theorem opReply_of_not {s : State} {l : LinkId} {p : AgrPrefix} {b : AgrBody} {d : Slot} {x : Decl}
    (hr : s.agrReady l = some (d, x)) (hw : s.awaits l p true = false) : s.opReply l p b = s := by
  rw [opReply, hr]
  dsimp only
  exact if_pos (by rw [hw]; rfl)

/-- The link of a passing REPLY, and the message's place in its queue. -/
theorem opReply_of_awaited {s : State} {l : LinkId} {p : AgrPrefix} {b : AgrBody} {d : Slot} {x : Decl}
    (hr : s.agrReady l = some (d, x)) (hw : s.awaits l p true = true) (hh : (s.link l).agr.hello ≠ [])
    (hl : (s.link l).agr.lasReady = false) :
    (∀ r, s.replyBad l d x p b = some r → s.opReply l p b = (s.abortSend l d x p.attempt r).attemptFail l) ∧
    (s.replyBad l d x p b = none → ∃ th las, Queued (s.modLink l fun k => { k with agr := { k.agr with
      kemSecret := 0, ecdhSecret := 0, th := th, las := las, lasReady := true, peerCert := b.cert
      peerSlot := p.fromSlot.setWidth 3, peerBoot := (Config.certFacts b.cert).boot
      peerDigest := (Config.certFacts b.cert).identity } }) (s.opReply l p b)) := by
  have hguard : (!s.awaits l p true || (s.link l).agr.hello.isEmpty || (s.link l).agr.lasReady) = false := by
    rw [hw, hl, List.isEmpty_eq_false_iff.mpr hh]
    rfl
  have hop : s.opReply l p b = match s.replyBad l d x p b with
      | some r => (s.abortSend l d x p.attempt r).attemptFail l
      | none =>
        let th := sha384 ((s.link l).agr.hello ++ p.raw)
        let las := hybrid (Config.kemDecaps (s.link l).agr.kemSecret b.kem) (Config.ecdhShared (s.link l).agr.ecdhSecret b.ecdh)
          th "KX3-LINK-AGREE" (s.domainIdOf d)
        let msg := s.agrPrefix 3 p.attempt d l x.partner x.link ++ s.aliasSignMsg "KX3-AGREE-I" th ++
          leBytes 16 (confirmTag las th 1 "KX3-AGREE-KC").toNat
        ((s.modLink l fun k => { k with agr := { k.agr with
          kemSecret := 0, ecdhSecret := 0, th := th, las := leBv 256 las, lasReady := true, peerCert := b.cert
          peerSlot := p.fromSlot.setWidth 3, peerBoot := (Config.certFacts b.cert).boot
          peerDigest := (Config.certFacts b.cert).identity } }).openSend l x.partner d 3 p.attempt msg).progress engTrust := by
    rw [opReply, hr]
    dsimp only
    rw [hguard, if_neg Bool.false_ne_true]
    rfl
  refine ⟨fun r h => by rw [hop, h], fun h => ⟨sha384 ((s.link l).agr.hello ++ p.raw), leBv 256 (hybrid
    (Config.kemDecaps (s.link l).agr.kemSecret b.kem) (Config.ecdhShared (s.link l).agr.ecdhSecret b.ecdh)
    (sha384 ((s.link l).agr.hello ++ p.raw)) "KX3-LINK-AGREE" (s.domainIdOf d)), ?_⟩⟩
  rw [hop, h]
  exact (openSend_queued _ l _ d _ _ _).trans (progress_queued _ _)

theorem replyBad_of_refused {s : State} {d : Slot} {st : Status} (h : s.agreeRefusal d = some st) (l : LinkId) (x : Decl)
    (p : AgrPrefix) (b : AgrBody) : s.replyBad l d x p b = some agrState := by rw [replyBad, h]

theorem replyBad_of_check {s : State} {l : LinkId} {d : Slot} {x : Decl} {p : AgrPrefix} {b : AgrBody} {r : BitVec 8}
    (h : s.agreeRefusal d = none) (hc : s.agrCheck l d x p b false = some r) : s.replyBad l d x p b = some r := by
  rw [replyBad, h, hc]

/-- A failing message of the initiator's attempt. -/
theorem abortFail_link (s : State) (l : LinkId) (d : Slot) (x : Decl) (a : BitVec 32) (r : BitVec 8) :
    (((s.abortSend l d x a r).attemptFail l).link l).core.abortSent = r ∧
    (((s.abortSend l d x a r).attemptFail l).link l).agr = {} := by
  refine ⟨?_, attemptFail_agr _ l⟩
  rw [(attemptFail_aborts _ l).1, abortSend_core]

/-! ### FINISH -/

/-- Why a FINISH is not taken (R283). -/
def finishBad (s : State) (l : LinkId) (d : Slot) (p : AgrPrefix) (sigI : Bytes) (kc : BitVec 128) : Option (BitVec 8) :=
  let a := (s.link l).agr
  if (s.agreeRefusal d).isSome then some agrState
  else if !agrFormOk p then some agrFormat
  else if !sigMsgOk (Config.certFacts a.peerCert).aliasKeys "KX3-AGREE-I" a.th sigI then some agrSig
  else if kc ≠ confirmTag (hybrid a.ssKem a.ssEcdh a.th "KX3-LINK-AGREE" (s.domainIdOf d)) a.th 1 "KX3-AGREE-KC" then some agrKc
  else none

theorem opFinish_of_awaited {s : State} {l : LinkId} {p : AgrPrefix} {sigI : Bytes} {kc : BitVec 128} {d : Slot} {x : Decl}
    (hr : s.agrReady l = some (d, x)) (hw : s.awaits l p false = true) (hh : (s.link l).agr.reply ≠ []) :
    (∀ r, s.finishBad l d p sigI kc = some r → s.opFinish l p sigI kc = (s.abortSend l d x p.attempt r).responderFail l) ∧
    (s.finishBad l d p sigI kc = none → ∃ msg, s.opFinish l p sigI kc =
      (s.openSend l x.partner d 4 p.attempt msg).setAgreed l
        (hybrid (s.link l).agr.ssKem (s.link l).agr.ssEcdh (s.link l).agr.th "KX3-LINK-AGREE" (s.domainIdOf d))) := by
  have hguard : (!s.awaits l p false || (s.link l).agr.reply.isEmpty) = false := by
    rw [hw, List.isEmpty_eq_false_iff.mpr hh]
    rfl
  constructor
  · intro r h
    rw [opFinish, hr]
    dsimp only
    rw [hguard, if_neg Bool.false_ne_true]
    rw [finishBad] at h
    rw [h]
  · intro h
    rw [opFinish, hr]
    dsimp only
    rw [hguard, if_neg Bool.false_ne_true]
    rw [finishBad] at h
    rw [h]
    exact ⟨_, rfl⟩

theorem responderFail_aborted (s : State) (l : LinkId) (d : Slot) (x : Decl) (a : BitVec 32) (r : BitVec 8) :
    (((s.abortSend l d x a r).responderFail l).link l).core = { (s.link l).core with abortSent := r } := by
  rw [responderFail_core, abortSend_core]

theorem awaits_phase {s : State} {l : LinkId} {p : AgrPrefix} {i : Bool} (h : s.awaits l p i = true) :
    (s.link l).core.phase = .agreeing := by
  obtain ⟨h, -⟩ := Bool.and_eq_true_iff.mp h
  obtain ⟨h, -⟩ := Bool.and_eq_true_iff.mp h
  exact eq_of_beq h

/-- An AGREED link is one whatever was queued before. -/
theorem isAgreed_of_queued {s t : State} {l : LinkId} (g : Queued s t) (hk : t.keys = s.keys)
    (h : (s.row (rowLas l)).outOfUse = false) (las : Bytes) : IsAgreed s l las (t.setAgreed l las) := by
  have hrow : t.row (rowLas l) = s.row (rowLas l) := row_of_keys hk _
  obtain ⟨hp, hc, hv, hm, hg⟩ := setAgreed_isAgreed (s := t) (l := l) (by rw [hrow]; exact h) las
  exact ⟨hp, by rw [hc, g.core], hv, hm, hg⟩

/-! ### DONE -/

theorem tc0Own_queued (s : State) (l : LinkId) (p : Bytes) : Queued s (s.tc0Own l p) := s.tc0Put_queued l _

theorem tc0Own_keysOf (s : State) (l : LinkId) (p : Bytes) : (s.tc0Own l p).keys = s.keys := rfl


theorem opDone_of_awaited {s : State} {l : LinkId} {p : AgrPrefix} {kc : BitVec 128} {d : Slot} {x : Decl}
    (hr : s.agrReady l = some (d, x)) (hw : s.awaits l p true = true) (hl : (s.link l).agr.lasReady = true)
    (href : s.agreeRefusal d = none) (hf : agrFormOk p = true) : s.opDone l p kc =
      if kc ≠ confirmTag (leBytes 32 (s.link l).agr.las.toNat) (s.link l).agr.th 2 "KX3-AGREE-KC" then
        (s.abortSend l d x p.attempt agrKc).attemptFail l
      else (s.setAgreed l (leBytes 32 (s.link l).agr.las.toNat)).tc0Own l (0x31 :: zeros 7) := by
  have hguard : (!s.awaits l p true || !(s.link l).agr.lasReady) = false := by rw [hw, hl]; rfl
  rw [opDone, hr]
  dsimp only
  rw [hguard, if_neg Bool.false_ne_true, href, Option.isSome_none, if_neg Bool.false_ne_true, hf, Bool.not_true,
    if_neg Bool.false_ne_true]

end State

open State in
/-- Settles O31: a message is taken by the attempt it belongs to; it fails by its first failing check, or makes the LAS and
the link AGREED. -/
theorem agreementSteps : Obligations.AgreementSteps := by
  intro s l p b sigI kc d x hr agreed
  have hagreed {t : State} {las : Bytes} (h : IsAgreed s l las t) : agreed t las :=
    ⟨h.phase, h.count, h.valid, h.material, h.gates⟩
  refine ⟨fun hw => ⟨exec_next rfl (opReply_of_not hr hw), exec_next rfl ?_⟩, fun hw => exec_next rfl ?_,
    fun hw hh hl => ?_, fun hw hh ho hd => ?_, fun hw hl href hf ho hd => ?_⟩
  · rw [opDone, hr]
    exact if_pos (not_awaits hw _)
  · rw [opFinish, hr]
    exact if_pos (not_awaits hw _)
  · obtain ⟨hbad, hgood⟩ := opReply_of_awaited (b := b) hr hw hh hl
    refine ⟨s.opReply l p b, rfl, fun st hst => ?_, fun r hst hc => ?_, fun hst hc => ?_⟩
    · rw [hbad _ (replyBad_of_refused hst l x p b)]
      exact s.abortFail_link l d x p.attempt agrState
    · rw [hbad _ (replyBad_of_check hst hc)]
      exact s.abortFail_link l d x p.attempt r
    · dsimp only
      split
      · next hsig =>
        obtain ⟨th, las, hq⟩ := hgood (by rw [replyBad, hst, hc]; exact if_pos hsig)
        rw [hq.core, hq.agr, modLink_link_same]
        exact ⟨rfl, rfl, rfl, rfl, rfl⟩
      · next hsig =>
        rw [hbad agrSig (by rw [replyBad, hst, hc]; exact if_neg hsig)]
        exact s.abortFail_link l d x p.attempt agrSig
  · obtain ⟨hbad, hgood⟩ := opFinish_of_awaited (sigI := sigI) (kc := kc) hr hw hh
    have hfail {r : BitVec 8} (h : s.finishBad l d p sigI kc = some r) :
        ((s.opFinish l p sigI kc).link l).core.abortSent = r ∧ ((s.opFinish l p sigI kc).link l).core.phase = .agreeing := by
      rw [hbad r h, responderFail_aborted]
      exact ⟨rfl, awaits_phase hw⟩
    refine ⟨s.opFinish l p sigI kc, rfl, fun hst => ?_, fun hst hkc => ?_, fun hst hf hsig hkc => ?_⟩
    · exact hfail (if_pos (Option.isSome_iff_ne_none.mpr hst))
    · have hno : ¬ (s.agreeRefusal d).isSome = true := by rw [hst]; exact Bool.false_ne_true
      obtain ⟨r, hr, hmem⟩ : ∃ r, s.finishBad l d p sigI kc = some r ∧ r ∈ [agrFormat, agrSig, agrKc] := by
        unfold finishBad
        dsimp only
        rw [if_neg hno]
        split
        · exact ⟨_, rfl, by decide⟩
        split
        · exact ⟨_, rfl, by decide⟩
        · exact ⟨agrKc, rfl, by decide⟩
      obtain ⟨h, hp⟩ := hfail hr
      exact ⟨by rw [h]; exact hmem, hp⟩
    · have hnone : s.finishBad l d p sigI kc = none := by
        unfold finishBad
        dsimp only
        rw [hst, hf, hsig, Option.isSome_none, Bool.not_true, if_neg Bool.false_ne_true, if_neg Bool.false_ne_true,
          if_neg Bool.false_ne_true]
        exact if_neg (not_not.mpr hkc)
      obtain ⟨msg, hop⟩ := hgood hnone
      rw [hop]
      exact hagreed (isAgreed_of_queued (openSend_queued s l _ d _ _ msg)
        ((openSend_keeps (K := 0x000200) (Keeps.refl _ s) (by decide)).keys.resolve_left (by decide)) ho _)
  · have hop := opDone_of_awaited (kc := kc) hr hw hl href hf
    refine ⟨fun hkc => ⟨_, exec_next rfl (hop.trans (if_neg (not_not.mpr hkc))), ?_⟩,
      fun hkc => ⟨_, exec_next rfl (hop.trans (if_pos hkc)), ?_⟩⟩
    · exact hagreed ((setAgreed_isAgreed ho _).queued (tc0Own_queued _ l _) (tc0Own_keysOf _ l _))
    · obtain ⟨hsent, hagr⟩ := s.abortFail_link l d x p.attempt agrKc
      have hatt : ((s.abortSend l d x p.attempt agrKc).link l).core.attempt = (s.link l).core.attempt := by
        rw [abortSend_core]
      refine ⟨hsent, fun h3 => ?_, fun h3 => ⟨?_, hagr⟩⟩
      · rw [attemptFail_last (hatt.trans h3), absent_core]
      · rw [attemptFail_core (fun h => h3 (hatt.symm.trans h)), abortSend_core]
        exact awaits_phase hw

end Sys2Proof.Machine
end

section
/-! PROOFS. The ends of attempts and of Agreements (O32). -/

namespace Sys2Proof.Machine

namespace State

/-! ### ABORT and the timers (R284) -/

theorem attemptEnd_received (s : State) (l : LinkId) (a : BitVec 32) :
    ((s.attemptEnd l a).link l).core.abortRcvd = (s.link l).core.abortRcvd := by
  unfold attemptEnd
  split
  · exact (attemptFail_aborts s l).2
  · split
    · rw [responderFail_core]
    · rfl

theorem opAbort_received {s : State} {l : LinkId} {d : Slot} {x : Decl} (hr : s.agrReady l = some (d, x)) (p : AgrPrefix)
    (r : Byte) : ((s.opAbort l p r).link l).core.abortRcvd =
      if r.toNat = 0 ∨ 9 < r.toNat ∨ !p.reservedZero then agrFormat else r := by
  generalize hrec : (if r.toNat = 0 ∨ 9 < r.toNat ∨ !p.reservedZero then agrFormat else r : Byte) = c
  have hend : (((s.modLink l fun k => { k with core := { k.core with abortRcvd := c } }).attemptEnd l p.attempt).link
      l).core.abortRcvd = c := by
    rw [attemptEnd_received, modLink_link_same]
  unfold opAbort
  rw [hr]
  dsimp only
  rw [hrec]
  split
  · rw [(inviteSend_queued _ l d x).core, hend]
  · exact hend

theorem opAttemptTimeout_of_running {s : State} {l : LinkId} (hl : s.linkLive l = true)
    (hp : (s.link l).core.phase = .agreeing) (hi : (s.link l).core.initiator = true) (hh : (s.link l).agr.hello ≠ []) :
    s.opAttemptTimeout l =
      (s.modLink l fun k => { k with core := { k.core with abortSent := agrTimeout } }).attemptFail l := by
  refine if_pos ?_
  rw [hl, hp, hi, List.isEmpty_eq_false_iff.mpr hh]
  rfl

theorem linkLive_of_ready {s : State} {l : LinkId} {y : Slot × Decl} (h : s.agrReady l = some y) : s.linkLive l = true := by
  unfold agrReady at h
  split at h
  · next hc => exact (Bool.and_eq_true_iff.mp hc).1
  · cases h

theorem event_absent (e : BitVec 10) : (setBitTo e lkevAbsent true).getLsbD lkevAbsent = true := by
  rw [getLsbD_setBitTo e true (by decide), if_pos rfl]

theorem sendHello_link (s : State) (l : LinkId) (d : Slot) (x : Decl) (a : BitVec 2) :
    ((s.sendHello l d x a).link l).core = { (s.link l).core with
      phase := .agreeing, slot := d, pValid := true, pLink := x.link, pMember := x.partner, initiator := true, attempt := a } ∧
    ((s.sendHello l d x a).link l).agr.since = some s.now := by
  unfold sendHello
  dsimp only
  refine ⟨Eq.trans (Queued.core (openSend_queued _ _ _ _ _ _ _) l) ?_,
    Eq.trans (congrArg Agr.since (Queued.agr (openSend_queued _ _ _ _ _ _ _) l)) ?_⟩
  · rw [setLink_link_same]
    rfl
  · rw [setLink_link_same]
    rfl

theorem opRetry_of_failed {s : State} {l : LinkId} {d : Slot} {x : Decl} (hr : s.agrReady l = some (d, x))
    (hp : (s.link l).core.phase = .agreeing) (hi : (s.link l).core.initiator = true) (hh : (s.link l).agr.hello = []) :
    s.opRetry l = match s.agreeRefusal d with
      | some _ => (s.abortSend l d x (((s.link l).core.attempt + 1).setWidth 32) agrState).setPhase l .up
      | none => s.sendHello l d x ((s.link l).core.attempt + 1) := by
  unfold opRetry
  rw [hr]
  dsimp only
  rw [hp, hi, hh]
  rfl

/-! ### LINK_PULSE (R287) -/

theorem opPulse_of_not {s : State} {l : LinkId} (h : s.linkLive l = false ∨ (s.link l).core.phase ≠ .agreed) :
    s.opPulse l = s := by
  refine if_pos ?_
  rcases h with h | h
  · rw [h, Bool.not_false, Bool.true_or, Bool.true_or]
  · rw [bne_iff_ne.mpr h, Bool.or_true, Bool.true_or]

/-- LINK_PULSE as it waits in a queue. -/
def pulseItem : Tc0Item := { prio := 2, isOpen := false, dstMember := 0, slot := 0, payload := 0x31 :: zeros 7 }

theorem opPulse_of_empty {s : State} {l : LinkId} (hl : s.linkLive l = true) (hp : (s.link l).core.phase = .agreed)
    (hq : (s.link l).tc0.queue = []) : s.opPulse l = s.tc0Put l pulseItem := by
  refine if_neg ?_
  rw [hl, hp, hq]
  exact Bool.false_ne_true

theorem tc0Put_queue (s : State) (l : LinkId) (x : Tc0Item) :
    ((s.tc0Put l x).link l).tc0.queue = (s.link l).tc0.queue ++ [x] :=
  congrArg (·.tc0.queue) (modLink_link_same s l fun k => withQueue k (k.tc0.queue ++ [x]))

theorem opPulse_of_waiting {s : State} {l : LinkId} (hq : (s.link l).tc0.queue = [pulseItem]) : s.opPulse l = s := by
  refine if_pos ?_
  rw [hq]
  exact Bool.or_true _

/-! ### The end of an Agreement (R289) -/

theorem eraseRow_valid (s : State) (r y : Nat) (h : y = r ∨ (s.row y).valid = false) : ((s.eraseRow r).row y).valid = false := by
  unfold eraseRow
  by_cases hy : y = r
  · rw [hy, setRow_row_same]
    rfl
  · rw [setRow_row_ne _ _ _ _ hy]
    exact h.resolve_left hy

theorem eraseRows_valid (rs : List Nat) (s : State) (y : Nat) (h : y ∈ rs ∨ (s.row y).valid = false) :
    ((rs.foldl eraseRow s).row y).valid = false := by
  induction rs generalizing s with
  | nil => exact h.resolve_left List.not_mem_nil
  | cons r rs ih =>
    refine ih _ ?_
    rcases h with h | h
    · rcases List.mem_cons.mp h with h | h
      · exact .inr (s.eraseRow_valid r y (.inl h))
      · exact .inl h
    · exact .inr (s.eraseRow_valid r y (.inr h))

theorem eraseLinkKeys_las (s : State) (l : LinkId) : ((s.eraseLinkKeys l).row (rowLas l)).valid = false :=
  eraseRows_valid _ _ _ (.inr (s.eraseRow_valid _ _ (.inl rfl)))

theorem eraseLinkKeys_key (s : State) (l : LinkId) {i : Nat} (h : i < 24) :
    ((s.eraseLinkKeys l).row (249 + 24 * l.toNat + i)).valid = false :=
  eraseRows_valid _ _ _ (.inl (List.mem_map_of_mem (List.mem_range.mpr h)))

theorem eraseLinkKeys_links (s : State) (l : LinkId) : (s.eraseLinkKeys l).links = s.links :=
  (eraseLinkKeys_keeps (K := 0x000040) (Keeps.refl _ s) (by decide)).links.resolve_left (by decide)

theorem progLinkLost_of_none {s : State} (h : s.red.progs = []) (l : LinkId) : s.progLinkLost l = s := by
  have hu : s.progsInUse = [] := by rw [progsInUse, h]; rfl
  rw [progLinkLost, hu]
  rfl

/-- A link's Agreement has ended with a cause, and its partner is remembered. -/
structure Ended (s : State) (l : LinkId) (c : BitVec 8) (t : State) : Prop where
  cause : (t.link l).core.lastEnd = c
  live : (t.link l).core.tombLive = true
  link : (t.link l).core.tombLink = (s.link l).core.pLink
  member : (t.link l).core.tombMember = (s.link l).core.pMember
  las : (t.row (rowLas l)).valid = false
  keys : ∀ i : Nat, i < 24 → (t.row (249 + 24 * l.toNat + i)).valid = false

/-- What Table 9-14 records of an end stays as it is. -/
structure TombKept (l : LinkId) (s t : State) : Prop where
  cause : (t.link l).core.lastEnd = (s.link l).core.lastEnd
  live : (t.link l).core.tombLive = (s.link l).core.tombLive
  link : (t.link l).core.tombLink = (s.link l).core.tombLink
  member : (t.link l).core.tombMember = (s.link l).core.tombMember
  keys : t.keys = s.keys

theorem TombKept.trans {l : LinkId} {s t u : State} (h : TombKept l s t) (g : TombKept l t u) : TombKept l s u :=
  ⟨g.cause.trans h.cause, g.live.trans h.live, g.link.trans h.link, g.member.trans h.member, g.keys.trans h.keys⟩

theorem TombKept.of_core {l : LinkId} {s t : State} (h : (t.link l).core = (s.link l).core) (hk : t.keys = s.keys) :
    TombKept l s t := ⟨by rw [h], by rw [h], by rw [h], by rw [h], hk⟩

theorem Ended.kept {s t u : State} {l : LinkId} {c : BitVec 8} (h : Ended s l c t) (g : TombKept l t u) : Ended s l c u :=
  ⟨g.cause.trans h.cause, g.live.trans h.live, g.link.trans h.link, g.member.trans h.member, by rw [row_of_keys g.keys]; exact h.las,
    fun i hi => by rw [row_of_keys g.keys]; exact h.keys i hi⟩

theorem rosterChange_tomb (s : State) (d : Slot) (l : LinkId) : TombKept l s (s.rosterChange d) :=
  .of_core ((s.rosterChange_queued d).core l)
    ((rosterChange_keeps (K := 0x000600) (Keeps.refl _ s) (by decide)).keys.resolve_left (by decide))

theorem requeueTc0_core (s : State) (l : LinkId) (d : Slot) : ((s.requeueTc0 l d).link l).core = (s.link l).core := by
  unfold requeueTc0
  dsimp only
  rw [Queued.core (Queued.foldl (fun t x => t.tc0Forward_queued d _ _ _) _ _) l, modLink_link_same]

theorem fabLinkLost_core {s : State} {l : LinkId} (ho : (s.link l).fabOut = []) (hw : (s.link l).fabWait = []) :
    ((s.fabLinkLost l).link l).core = (s.link l).core := by
  unfold fabLinkLost
  dsimp only
  rw [ho, hw, List.map_nil, List.append_nil, List.foldl_nil, setLink_link_same]

theorem agreeStart_tomb (s : State) (l : LinkId) : TombKept l s (s.agreeStart l) := by
  have hk : (s.agreeStart l).keys = s.keys :=
    (agreeStart_keeps (K := 0x200600) (Keeps.refl _ s) (by decide)).keys.resolve_left (by decide)
  unfold agreeStart at hk ⊢
  split at hk
  · exact .of_core rfl rfl
  · next d x _ =>
    dsimp only at hk ⊢
    split at hk
    · next h => rw [if_pos h]; exact .of_core rfl rfl
    · next h =>
      rw [if_neg h]
      split at hk
      · have hc := s.abortSend_core l d x 1 agrState
        exact ⟨by rw [hc], by rw [hc], by rw [hc], by rw [hc], hk⟩
      · split at hk
        · next hi =>
          rw [if_pos hi]
          have hc := ((s.sendHello l d x 1).rosterChange_queued d).core l
          rw [(s.sendHello_link l d x 1).1] at hc
          exact ⟨by rw [hc], by rw [hc], by rw [hc], by rw [hc], hk⟩
        · next hi => rw [if_neg hi]; exact .of_core rfl rfl

/-- What the end of an Agreement makes of its link. -/
def endedLink (s : State) (d : Slot) (on : Bool) (cause : BitVec 8) (k : Link) : Link := { k with
  core := { k.core with
    phase := if k.core.up ∧ on then .up else .down
    lastEnd := cause
    tombLive := true
    tombLink := k.core.pLink
    tombMember := k.core.pMember
    pValid := false }
  tomb := { digest := k.agr.peerDigest, boot := k.agr.peerBoot, cause := cause, time := s.domTime d }
  agr := {}
  tenseTx := []
  tenseRx := []
  tc0 := { k.tc0 with gates := [] }
  io := { k.io with
    txSeq := []
    windows := []
    repTimes := []
    inst := k.io.inst + 1
    wire := if cause = endDown then [] else k.io.wire } }

/-- An Agreement's link after its keys have been erased. -/
def endedWith (u : State) (l : LinkId) (d : Slot) (cause : BitVec 8) : State :=
  (u.modLink l (endedLink u d (u.linkOn l) cause)).linkEvent l lkevEnd

theorem endedWith_core (u : State) (l : LinkId) (d : Slot) (c : BitVec 8) : ((u.endedWith l d c).link l).core =
    { (endedLink u d (u.linkOn l) c (u.link l)).core with event := setBitTo (u.link l).core.event lkevEnd true } := by
  rw [endedWith, linkEvent_core, modLink_link_same]
  rfl

theorem endedWith_keys (u : State) (l : LinkId) (d : Slot) (c : BitVec 8) : (u.endedWith l d c).keys = u.keys := rfl

/-- An end with no group in flight, up to what follows from it for others. -/
def agreementGone (s : State) (l : LinkId) (cause : BitVec 8) : State :=
  (s.eraseLinkKeys l).endedWith l (s.link l).core.slot cause

theorem agreementGone_ended (s : State) (l : LinkId) (c : BitVec 8) : Ended s l c (s.agreementGone l c) := by
  have hl : (s.eraseLinkKeys l).link l = s.link l := by rw [link, eraseLinkKeys_links]; rfl
  have hlas := s.eraseLinkKeys_las l
  have hkey {i : Nat} (hi : i < 24) := s.eraseLinkKeys_key l hi
  rw [agreementGone]
  generalize s.eraseLinkKeys l = u at hl hlas hkey ⊢
  have hc := u.endedWith_core l (s.link l).core.slot c
  have hk := u.endedWith_keys l (s.link l).core.slot c
  rw [hl] at hc
  exact ⟨by rw [hc]; rfl, by rw [hc]; rfl, by rw [hc]; rfl, by rw [hc]; rfl, by rw [row_of_keys hk]; exact hlas,
    fun i hi => by rw [row_of_keys hk]; exact hkey hi⟩

theorem agreementGone_red (s : State) (l : LinkId) (c : BitVec 8) : (s.agreementGone l c).red = s.red :=
  (linkEvent_keeps (K := 0x000240) (modLink_keeps (eraseLinkKeys_keeps (Keeps.refl _ s) (by decide)) (by decide))
    (by decide)).red.resolve_left (by decide)

theorem agreementGone_fab (s : State) (l : LinkId) (c : BitVec 8) :
    ((s.agreementGone l c).link l).fabOut = (s.link l).fabOut ∧ ((s.agreementGone l c).link l).fabWait = (s.link l).fabWait := by
  have hl : (s.eraseLinkKeys l).link l = s.link l := by rw [link, eraseLinkKeys_links]; rfl
  rw [agreementGone, endedWith]
  refine ⟨(modLink_kept (·.fabOut) ?_ _ l).trans ?_, (modLink_kept (·.fabWait) ?_ _ l).trans ?_⟩
  · exact fun _ => rfl
  · rw [modLink_link_same, hl]; rfl
  · exact fun _ => rfl
  · rw [modLink_link_same, hl]; rfl

theorem endAgreement_of_quiet {s : State} {l : LinkId} (hp : (s.link l).core.phase = .agreed) (hf : (s.link l).io.flight = [])
    (c : BitVec 8) : s.endAgreement l c =
      let t := ((((s.agreementGone l c).progLinkLost l).fabLinkLost l).requeueTc0 l (s.link l).core.slot).rosterChange
        (s.link l).core.slot
      if restarts c then t.agreeStart l else t := by
  unfold endAgreement
  dsimp only
  rw [if_neg (not_not.mpr hp), hf, List.foldl_nil]
  rfl

/-- An end with no program loaded, no group in flight and no fabric request (R289). -/
theorem endAgreement_ended {s : State} {l : LinkId} (hp : (s.link l).core.phase = .agreed) (hf : (s.link l).io.flight = [])
    (hprogs : s.red.progs = []) (ho : (s.link l).fabOut = []) (hw : (s.link l).fabWait = []) (c : BitVec 8) :
    Ended s l c (s.endAgreement l c) := by
  obtain ⟨hfo, hfw⟩ := s.agreementGone_fab l c
  have h0 := s.agreementGone_ended l c
  have hred := s.agreementGone_red l c
  rw [endAgreement_of_quiet hp hf]
  generalize s.agreementGone l c = t at h0 hfo hfw hred ⊢
  dsimp only
  rw [progLinkLost_of_none (by rw [hred]; exact hprogs)]
  have hfab : TombKept l t (t.fabLinkLost l) := .of_core (fabLinkLost_core (hfo.trans ho) (hfw.trans hw))
    ((fabLinkLost_keeps (K := 0x50A200) (Keeps.refl _ t) (by decide)).keys.resolve_left (by decide))
  have hreq (u : State) (d : Slot) : TombKept l u (u.requeueTc0 l d) := .of_core (u.requeueTc0_core l d)
    ((requeueTc0_keeps (K := 0x000200) (Keeps.refl _ u) (by decide)).keys.resolve_left (by decide))
  have hend := h0.kept ((hfab.trans (hreq _ (s.link l).core.slot)).trans (rosterChange_tomb _ (s.link l).core.slot l))
  split
  · exact hend.kept (agreeStart_tomb _ l)
  · exact hend

theorem opLost_ended {s : State} {l : LinkId} (hl : s.linkLive l = true) (hp : (s.link l).core.phase = .agreed)
    (h : Ended s l endLost (s.endAgreement l endLost)) : Ended s l endLost (s.opLost l) := by
  have hcond : (!s.linkLive l || (s.link l).core.phase != .agreed) = false := by rw [hl, hp]; rfl
  unfold opLost
  dsimp only
  rw [hcond, if_neg Bool.false_ne_true]
  split
  · refine h.kept (.of_core (Queued.core ?_ l) ((censusPut_keeps (K := 0x000600) (Keeps.refl _ _) (by decide)).keys.resolve_left
      (by decide)))
    exact Queued.trans (.of_links rfl) (Queued.foldl (fun t _ => t.tc0Send_queued _ _ _ _ _ _) _ _)
  · exact h

theorem opBye_of_not {s : State} {l : LinkId} (h : s.linkLive l = false ∨ (s.link l).core.phase ≠ .agreed) (z : Bool) :
    s.opBye l z = s ∧ s.opLost l = s := by
  have hc : (!s.linkLive l || (s.link l).core.phase != .agreed) = true := by
    rcases h with h | h
    · rw [h, Bool.not_false, Bool.true_or]
    · rw [bne_iff_ne.mpr h, Bool.or_true]
  exact ⟨if_pos hc, if_pos hc⟩

theorem opBye_of_agreed {s : State} {l : LinkId} (hl : s.linkLive l = true) (hp : (s.link l).core.phase = .agreed) (z : Bool) :
    s.opBye l z = if !z then s.tc0Bad l else s.endAgreement l endClosed := by
  refine if_neg ?_
  rw [hl, hp]
  exact Bool.false_ne_true

end State

open State in
/-- Settles O32: the ends of an attempt by what is recorded of them, the pulse, and the end of an Agreement. -/
theorem agreementAttemptsEnd : Obligations.AgreementAttemptsEnd := by
  refine ⟨fun s l d x hr => ⟨fun p r => ⟨_, rfl, ?_⟩, fun hp hi hh => ?_, fun hp hi hh => ?_, fun hp hi => ?_, fun hp => ?_⟩,
    fun s l cause => ⟨fun h z => ?_, fun hl hp => ⟨fun hq => ?_, ⟨_, rfl, ?_, ?_, ?_⟩, fun hprogs hf ho hw => ?_⟩⟩⟩
  · have hcond : (1 ≤ r.toNat ∧ r.toNat ≤ 9 ∧ p.reservedZero = true) ↔ ¬ (r.toNat = 0 ∨ 9 < r.toNat ∨ (!p.reservedZero) = true) := by
      constructor
      · rintro ⟨h1, h9, hz⟩ (h | h | h)
        · omega
        · omega
        · rw [hz] at h
          cases h
      · intro h
        obtain ⟨h0, h9, hz⟩ := (not_or.mp h).imp_right not_or.mp
        refine ⟨Nat.pos_of_ne_zero h0, Nat.le_of_not_lt h9, ?_⟩
        cases hb : p.reservedZero with
        | true => rfl
        | false => exact absurd (by rw [hb]; rfl) hz
    rw [opAbort_received hr]
    by_cases hc : r.toNat = 0 ∨ 9 < r.toNat ∨ (!p.reservedZero) = true
    · rw [if_pos hc, if_neg (fun h => hcond.mp h hc)]
    · rw [if_neg hc, if_pos (hcond.mpr hc)]
  · have hop := opAttemptTimeout_of_running (linkLive_of_ready hr) hp hi hh
    have hcore := congrArg Link.core (modLink_link_same s l fun k => { k with core := { k.core with abortSent := agrTimeout } })
    refine ⟨_, exec_next rfl hop, ?_, attemptFail_agr _ l, fun h3 => ?_, fun h3 => ?_⟩
    · rw [(attemptFail_aborts _ l).1, hcore]
    · rw [attemptFail_last (by rw [hcore]; exact h3), absent_core]
      exact ⟨rfl, event_absent _⟩
    · rw [attemptFail_core (by rw [hcore]; exact h3), hcore]
      exact hp
  · have hop := opRetry_of_failed hr hp hi hh
    cases hst : s.agreeRefusal d with
    | none =>
      rw [hst] at hop
      dsimp only at hop
      obtain ⟨hc, ha⟩ := s.sendHello_link l d x ((s.link l).core.attempt + 1)
      exact ⟨s.sendHello l d x ((s.link l).core.attempt + 1), exec_next rfl hop, fun _ => ⟨by rw [hc], by rw [hc], ha⟩, fun h => absurd rfl h⟩
    | some st =>
      rw [hst] at hop
      dsimp only at hop
      refine ⟨_, exec_next rfl hop, nofun, fun _ => ?_⟩
      rw [setPhase_core, abortSend_core]
      exact ⟨rfl, rfl⟩
  · have hop : s.opResponderTimeout l = s.absent l := if_pos (by rw [linkLive_of_ready hr, hp, hi]; rfl)
    refine ⟨_, exec_next rfl hop, ?_, ?_⟩
    · rw [absent_core]
    · rw [absent_core]
      exact event_absent _
  · have hne : ((s.link l).core.phase == .agreeing) = false := beq_false_of_ne hp
    refine ⟨exec_next rfl (if_neg ?_), exec_next rfl (if_neg ?_), exec_next rfl ?_⟩
    · rw [hne, Bool.and_false]
      exact Bool.false_ne_true
    · rw [hne, Bool.and_false]
      exact Bool.false_ne_true
    · rw [opRetry, hr]
      exact if_pos (by rw [bne_iff_ne.mpr hp]; rfl)
  · obtain ⟨hbye, hlost⟩ := opBye_of_not h z
    exact ⟨exec_next rfl (opPulse_of_not h), exec_next rfl (congrArg settleAll hlost), exec_next rfl (congrArg settleAll hbye)⟩
  · have hqueue : ((s.tc0Put l pulseItem).link l).tc0.queue = [pulseItem] := by rw [tc0Put_queue, hq]; rfl
    refine ⟨s.tc0Put l pulseItem, exec_next rfl (opPulse_of_empty hl hp hq), rfl, hqueue, ?_⟩
    exact exec_next rfl (opPulse_of_waiting hqueue)
  · rw [opBye_of_agreed hl hp]
    rfl
  · rw [opBye_of_agreed hl hp]
    exact congrArg (·.tc0.bad) (modLink_link_same s l fun k => { k with tc0 := { k.tc0 with bad := satInc k.tc0.bad } })
  · rw [opBye_of_agreed hl hp]
    exact congrArg (·.core) (modLink_link_same s l fun k => { k with tc0 := { k.tc0 with bad := satInc k.tc0.bad } })
  · intro ended
    have hended {t : State} {c : BitVec 8} (h : Ended s l c t) : ended t c :=
      ⟨h.cause, h.live, h.link, h.member, h.las, h.keys⟩
    refine ⟨⟨_, exec_next rfl (congrArg settleAll (opBye_of_agreed hl hp true)), ?_⟩, ⟨_, rfl, ?_⟩⟩
    · exact hended (endAgreement_ended hp hf hprogs ho hw endClosed)
    · exact hended (opLost_ended hl hp (endAgreement_ended hp hf hprogs ho hw endLost))

end Sys2Proof.Machine
end

section
/-! PROOFS. A Tense change at both ends (O33). -/

namespace Sys2Proof.Machine

namespace State

/-! ### The rows of a stream -/

theorem rowLink_mem (l : LinkId) (c : Cls) (dir : Nat) {k : Nat} (h : k < 3) :
    rowLink l c dir k ∈ [0, 1, 2].map (rowLink l c dir) :=
  List.mem_map_of_mem (by interval_cases k <;> simp)

theorem tenseRow_some {s : State} {l : LinkId} {c : Cls} {dir : Nat} {t : BitVec 2} {r : Nat}
    (h : s.tenseRow l c dir t = some r) : (s.row r).valid = true ∧ (s.row r).tense = t := by
  have hp := List.find?_some h
  exact ⟨(Bool.and_eq_true_iff.mp hp).1, eq_of_beq (Bool.and_eq_true_iff.mp hp).2⟩

/-- A stream one of whose rows holds a Tense has a row of it. -/
theorem tenseRow_isSome {s : State} {l : LinkId} {c : Cls} {dir k : Nat} (hk : k < 3) {t : BitVec 2}
    (hv : (s.row (rowLink l c dir k)).valid = true) (ht : (s.row (rowLink l c dir k)).tense = t) :
    (s.tenseRow l c dir t).isSome = true := by
  rw [tenseRow, List.find?_isSome]
  exact ⟨_, rowLink_mem l c dir hk, by rw [hv, ht]; exact beq_self_eq_true t⟩

theorem setTenseTx_txOf (s : State) (l : LinkId) (c : Cls) (x : TenseTx) : (s.setTenseTx l c x).tenseTxOf l c = x := by
  rw [tenseTxOf, setTenseTx, modLink_link_same]
  exact Tab.get_set_same _ _ _ _

theorem setTenseRx_rxOf (s : State) (l : LinkId) (c : Cls) (x : TenseRx) : (s.setTenseRx l c x).tenseRxOf l c = x := by
  rw [tenseRxOf, setTenseRx, modLink_link_same]
  exact Tab.get_set_same _ _ _ _

theorem setTenseTx_queue (s : State) (l : LinkId) (c : Cls) (x : TenseTx) :
    ((s.setTenseTx l c x).link l).tc0.queue = (s.link l).tc0.queue :=
  modLink_kept (f := fun k => { k with tenseTx := Tab.set {} k.tenseTx c.toNat x }) (·.tc0.queue) (fun _ => rfl) s l

theorem setTenseRx_queue (s : State) (l : LinkId) (c : Cls) (x : TenseRx) :
    ((s.setTenseRx l c x).link l).tc0.queue = (s.link l).tc0.queue :=
  modLink_kept (f := fun k => { k with tenseRx := Tab.set {} k.tenseRx c.toNat x }) (·.tc0.queue) (fun _ => rfl) s l

/-! ### A Tense message -/

/-- The head of a Tense message (Table 6-4). -/
def tenseHead (type : Byte) (c : Cls) (dir : Nat) (gen : BitVec 32) : Bytes :=
  [type, c.setWidth 8, BitVec.ofNat 8 dir, 0] ++ leBytes 4 gen.toNat

theorem length_tenseHead (type : Byte) (c : Cls) (dir : Nat) (gen : BitVec 32) : (tenseHead type c dir gen).length = 8 := by
  simp [tenseHead, leBytes]

/-- What a message of the Future does: one more group in the queue, with the head of the message. -/
structure Offered (l : LinkId) (head : Bytes) (s t : State) : Prop where
  keys : t.keys = s.keys
  tx : ∀ c, t.tenseTxOf l c = s.tenseTxOf l c
  rx : ∀ c, t.tenseRxOf l c = s.tenseRxOf l c
  queue : ∃ x, (t.link l).tc0.queue = (s.link l).tc0.queue ++ [x] ∧ x.payload.take 8 = head

theorem tenseSend_offered {s : State} {l : LinkId} {c : Cls} {dir : Nat} (h : (s.tenseRow l c dir 3).isSome = true)
    (type : Byte) (gen : BitVec 32) : Offered l (tenseHead type c dir gen) s (s.tenseSend l type c dir gen) := by
  obtain ⟨r, hr⟩ := Option.isSome_iff_exists.mp h
  have hsend (x : Tc0Item) (hx : x.payload.take 8 = tenseHead type c dir gen) :
      Offered l (tenseHead type c dir gen) s (s.tc0Put l x) := by
    have hk := modLink_link_same s l fun k => withQueue k (k.tc0.queue ++ [x])
    refine ⟨rfl, fun c => ?_, fun c => ?_, x, s.tc0Put_queue l x, hx⟩
    · exact congrArg (fun k : Link => Tab.get {} k.tenseTx c.toNat) hk
    · exact congrArg (fun k : Link => Tab.get {} k.tenseRx c.toNat) hk
  have htake (a b : Bytes) : (tenseHead type c dir gen ++ a ++ b).take 8 = tenseHead type c dir gen := by
    rw [List.append_assoc]
    exact List.take_left' (length_tenseHead type c dir gen)
  unfold tenseSend
  rw [hr]
  exact hsend _ (htake _ _)

/-! ### The transmitting end -/

/-- The Future of a stream in its row. -/
structure FutureIn (s : State) (l : LinkId) (c : Cls) (dir : Nat) (g : BitVec 32) (t : State) : Prop where
  valid : (t.row (s.genRow l c dir g)).valid = true
  tense : (t.row (s.genRow l c dir g)).tense = 3
  gen : (t.row (s.genRow l c dir g)).gen = g
  material : (t.row (s.genRow l c dir g)).material = s.linkKey l c dir g

theorem installLinkKey_future {s : State} {l : LinkId} {c : Cls} {dir : Nat} {g : BitVec 32}
    (h : (s.row (s.genRow l c dir g)).outOfUse = false) : FutureIn s l c dir g (s.installLinkKey l c dir g 3) := by
  have hrow := writeKey_row_same h (s.linkKey l c dir g) (.row (BitVec.ofNat 12 (rowLas l))) 3 (s.link l).core.slot g
  exact ⟨congrArg (·.valid) hrow, congrArg (·.tense) hrow, congrArg (·.gen) hrow, congrArg (·.material) hrow⟩

theorem FutureIn.of_keys {s t u : State} {l : LinkId} {c : Cls} {dir : Nat} {g : BitVec 32} (h : FutureIn s l c dir g t)
    (hk : u.keys = t.keys) : FutureIn s l c dir g u := by
  have hr := row_of_keys hk (s.genRow l c dir g)
  exact ⟨by rw [hr]; exact h.valid, by rw [hr]; exact h.tense, by rw [hr]; exact h.gen, by rw [hr]; exact h.material⟩

theorem FutureIn.tenseRow {s t : State} {l : LinkId} {c : Cls} {dir : Nat} {g : BitVec 32} (h : FutureIn s l c dir g t) :
    (t.tenseRow l c dir 3).isSome = true := by
  obtain ⟨k, hk, he⟩ := s.genRow_eq l c dir g
  exact tenseRow_isSome hk (by rw [← he]; exact h.valid) (by rw [← he]; exact h.tense)

theorem installLinkKey_links (s : State) (l : LinkId) (c : Cls) (dir : Nat) (g : BitVec 32) (t : BitVec 2) :
    (s.installLinkKey l c dir g t).links = s.links := s.writeKey_links _ _ _ _ _ _

/-- A trigger in Steady: the Future in its row, its offer in the queue, one attempt (R176, R177). -/
theorem tenseTrigger_offers {s : State} {l : LinkId} {c : Cls} {r : Nat} (hp : (s.link l).core.phase = .agreed)
    (hr : s.tenseRow l c (s.txDir l) 2 = some r) (ha : (s.tenseTxOf l c).attempts = 0)
    (ho : (s.row (s.genRow l c (s.txDir l) ((s.row r).gen + 1))).outOfUse = false) :
    FutureIn s l c (s.txDir l) ((s.row r).gen + 1) (s.tenseTrigger l c) ∧
    ((s.tenseTrigger l c).tenseTxOf l c).attempts = 1 ∧
    (s.tenseTrigger l c).keys.event = s.keys.event ∧
    ∃ x, ((s.tenseTrigger l c).link l).tc0.queue = (s.link l).tc0.queue ++ [x] ∧
      x.payload.take 8 = tenseHead 0x21 c (s.txDir l) ((s.row r).gen + 1) := by
  have hguard : ¬ ((s.link l).core.phase ≠ .agreed ∨ (s.tenseTxOf l c).attempts ≠ 0 ∨
      (s.row (s.genRow l c (s.txDir l) ((s.row r).gen + 1))).outOfUse = true) := by
    rw [hp, ha, ho]
    exact not_or.mpr ⟨not_not.mpr rfl, not_or.mpr ⟨not_not.mpr rfl, Bool.false_ne_true⟩⟩
  have hinst := installLinkKey_future (s := s) ho
  have hset := hinst.of_keys (u := (s.installLinkKey l c (s.txDir l) ((s.row r).gen + 1) 3).setTenseTx l c
    { s.tenseTxOf l c with attempts := 1 }) rfl
  have hevent : (s.installLinkKey l c (s.txDir l) ((s.row r).gen + 1) 3).keys.event = s.keys.event := by
    unfold installLinkKey writeKey
    dsimp only
    split <;> rfl
  have hop : s.tenseTrigger l c = ((s.installLinkKey l c (s.txDir l) ((s.row r).gen + 1) 3).setTenseTx l c
      { s.tenseTxOf l c with attempts := 1 }).tenseSend l 0x21 c (s.txDir l) ((s.row r).gen + 1) := by
    unfold tenseTrigger
    dsimp only
    rw [hr]
    exact if_neg hguard
  have hlink : (s.installLinkKey l c (s.txDir l) ((s.row r).gen + 1) 3).link l = s.link l := by
    rw [link, installLinkKey_links]
    rfl
  obtain ⟨hk, htx, -, x, hq, hx⟩ := tenseSend_offered hset.tenseRow 0x21 ((s.row r).gen + 1)
  rw [hop]
  refine ⟨hset.of_keys hk, ?_, ?_, x, ?_, hx⟩
  · rw [htx, setTenseTx_txOf]
  · rw [hk]
    exact hevent
  · rw [hq, setTenseTx_queue, hlink]

theorem keyEvent_stream (s : State) (b : Nat) (l : LinkId) (c : Cls) (dir : Nat) (g : BitVec 32) :
    (s.keyEvent b).genRow l c dir g = s.genRow l c dir g ∧ (s.keyEvent b).linkKey l c dir g = s.linkKey l c dir g ∧
    (s.keyEvent b).tenseRow l c dir 2 = s.tenseRow l c dir 2 := ⟨rfl, rfl, rfl⟩

/-- The two cases of KEY_READY in Offer (Table 6-5). -/
theorem opKeyReady_of_offer {s : State} {l : LinkId} {m : TenseMsg} {p f : Nat} (hr : s.running = true)
    (hph : (s.link l).core.phase = .agreed) (ha : (s.tenseTxOf l (m.cls.setWidth 2)).attempts ≠ 0)
    (hp : s.tenseRow l (m.cls.setWidth 2) (s.txDir l) 2 = some p) (hf : s.tenseRow l (m.cls.setWidth 2) (s.txDir l) 3 = some f) :
    s.opKeyReady l m =
      if s.tenseOk l m 0x22 (m.cls.setWidth 2) (s.txDir l) ((s.row p).gen + 1) then
        (((s.eraseRow p).progress engTrust).setRow f { ((s.eraseRow p).progress engTrust).row f with tense := 2 }).setTenseTx l
          (m.cls.setWidth 2) {}
      else s.keyEvent kevKconfBad := by
  have hguard : (!s.running || (s.link l).core.phase != .agreed || (s.tenseTxOf l (m.cls.setWidth 2)).attempts == 0) = false := by
    rw [hr, hph, beq_false_of_ne ha]
    rfl
  unfold opKeyReady
  dsimp only
  rw [hguard, if_neg Bool.false_ne_true, hp, hf]

theorem opKeyReady_of_steady {s : State} {l : LinkId} {m : TenseMsg} (ha : (s.tenseTxOf l (m.cls.setWidth 2)).attempts = 0) :
    s.opKeyReady l m = s := by
  refine if_pos ?_
  rw [ha]
  exact Bool.or_true _

/-- The switch to the Future (R178). -/
theorem switch_rows {s : State} {p f : Nat} (hne : f ≠ p) (hf : (s.row f).valid = true) :
    ((((s.eraseRow p).progress engTrust).setRow f { ((s.eraseRow p).progress engTrust).row f with tense := 2 }).row p).valid =
      false ∧
    ((((s.eraseRow p).progress engTrust).setRow f { ((s.eraseRow p).progress engTrust).row f with tense := 2 }).row f).tense = 2 ∧
    ((((s.eraseRow p).progress engTrust).setRow f { ((s.eraseRow p).progress engTrust).row f with tense := 2 }).row f).valid =
      true := by
  have hkeep : ((s.eraseRow p).progress engTrust).row f = s.row f :=
    (row_of_keys rfl f).trans (setRow_row_ne _ _ _ _ hne)
  have herased : (((s.eraseRow p).progress engTrust).row p).valid = false := s.eraseRow_valid p p (.inl rfl)
  rw [setRow_row_ne _ _ _ _ hne.symm, setRow_row_same, hkeep]
  exact ⟨herased, rfl, hf⟩

theorem opTenseRetry_of_offer {s : State} {l : LinkId} {c : Cls} {f : Nat} (hr : s.running = true)
    (hph : (s.link l).core.phase = .agreed) (ha : (s.tenseTxOf l c).attempts ≠ 0) (h4 : (s.tenseTxOf l c).attempts < 4)
    (hf : s.tenseRow l c (s.txDir l) 3 = some f) : s.opTenseRetry l c =
      (s.setTenseTx l c { s.tenseTxOf l c with attempts := (s.tenseTxOf l c).attempts + 1 }).tenseSend l 0x21 c (s.txDir l)
        (s.row f).gen := by
  have hguard : (!s.running || (s.link l).core.phase != .agreed || (s.tenseTxOf l c).attempts == 0) = false := by
    rw [hr, hph, beq_false_of_ne ha]
    rfl
  unfold opTenseRetry
  dsimp only
  rw [hguard, if_neg Bool.false_ne_true, hf]
  exact if_pos h4

theorem opTenseRetry_of_steady {s : State} {l : LinkId} {c : Cls} (ha : (s.tenseTxOf l c).attempts = 0) :
    s.opTenseRetry l c = s := by
  refine if_pos ?_
  rw [ha]
  exact Bool.or_true _

/-! ### The receiving end -/

/-- KEY_FUTURE of a stream that has a Present (Table 6-6). -/
theorem opKeyFuture_of_present {s : State} {l : LinkId} {m : TenseMsg} {p : Nat} (hr : s.running = true)
    (hph : (s.link l).core.phase = .agreed) (hp : s.tenseRow l (m.cls.setWidth 2) (s.rxDir l) 2 = some p) :
    s.opKeyFuture l m =
      let c : Cls := m.cls.setWidth 2
      let dir := s.rxDir l
      let x := s.tenseRxOf l c
      let g := (s.row p).gen + 1
      if !s.tenseOk l m 0x21 c dir g then s.keyEvent kevKconfBad
      else if x.ready then (s.progress engTrust).tenseSend l 0x22 c dir g
      else if (s.tenseRow l c dir 1).isSome then s.setTenseRx l c { x with heldMsg := some m }
      else ((((s.progress engTrust).installLinkKey l c dir g 3).setTenseRx l c { x with ready := true, heldMsg := none }).tenseSend
        l 0x22 c dir g) := by
  have hguard : (!s.running || (s.link l).core.phase != .agreed) = false := by rw [hr, hph]; rfl
  unfold opKeyFuture
  dsimp only
  rw [hguard, if_neg Bool.false_ne_true, hp]

/-- A KEY_FUTURE that is taken: the Future in its row, KEY_READY in the queue (R180). -/
theorem keyFuture_taken {s : State} {l : LinkId} {c : Cls} {dir : Nat} {g : BitVec 32}
    (ho : (s.row (s.genRow l c dir g)).outOfUse = false) (x : TenseRx) :
    let t := (((s.progress engTrust).installLinkKey l c dir g 3).setTenseRx l c { x with ready := true, heldMsg := none }).tenseSend
      l 0x22 c dir g
    FutureIn s l c dir g t ∧ (t.tenseRxOf l c).ready = true ∧
      ∃ y, (t.link l).tc0.queue = (s.link l).tc0.queue ++ [y] ∧ y.payload.take 8 = tenseHead 0x22 c dir g := by
  intro t
  have hfut := installLinkKey_future (s := s.progress engTrust) (l := l) (c := c) (dir := dir) (g := g) ho
  have hinst : FutureIn s l c dir g ((s.progress engTrust).installLinkKey l c dir g 3) :=
    ⟨hfut.valid, hfut.tense, hfut.gen, hfut.material⟩
  have hset := hinst.of_keys (u := ((s.progress engTrust).installLinkKey l c dir g 3).setTenseRx l c
    { x with ready := true, heldMsg := none }) rfl
  have hlink : ((s.progress engTrust).installLinkKey l c dir g 3).link l = s.link l := by
    rw [link, installLinkKey_links]
    rfl
  obtain ⟨hk, -, hrx, y, hq, hy⟩ := tenseSend_offered hset.tenseRow 0x22 g
  refine ⟨hset.of_keys hk, ?_, y, ?_, hy⟩
  · rw [hrx, setTenseRx_rxOf]
  · rw [hq, setTenseRx_queue, hlink]

theorem opPastGrace_of_none {s : State} {l : LinkId} {c : Cls} {q : Nat} (hr : s.running = true)
    (hq : s.tenseRow l c (s.rxDir l) 1 = some q) (hm : (s.tenseRxOf l c).heldMsg = none) : s.opPastGrace l c =
      (s.eraseRow q).setTenseRx l c { s.tenseRxOf l c with pastEnds := none, heldMsg := none } := by
  rw [opPastGrace, hr, Bool.not_true, if_neg Bool.false_ne_true]
  unfold opPastEnd
  dsimp only
  rw [hm, hq]

end State

open State in
/-- Settles O33: a trigger, KEY_READY and the retry at the transmitting end, KEY_FUTURE and the grace at the receiving end. -/
theorem tenseKeys : Obligations.TenseKeys := by
  constructor
  · intro s l c hr hph dir
    refine ⟨fun r hrow ha => ?_, fun p f m ha hp hf hc => ?_, fun m ha => ?_, fun f hf ha h4 => ?_, fun ha => ?_⟩
    · intro g n ho offered
      have hroll : s.opKeyRoll l c = s.tenseTrigger l c := if_neg (by rw [hr]; exact Bool.false_ne_true)
      have hthr : s.opThreshold l c = (s.keyEvent kevThreshold).tenseTrigger l c := if_neg (by rw [hr]; exact Bool.false_ne_true)
      obtain ⟨hf, htx, hev, hq⟩ := tenseTrigger_offers hph hrow ha ho
      obtain ⟨hf', htx', hev', hq'⟩ := tenseTrigger_offers (s := s.keyEvent kevThreshold) hph hrow ha ho
      exact ⟨⟨_, exec_next rfl hroll, ⟨hf.valid, hf.tense, hf.gen, hf.material, htx, hq⟩, hev⟩,
        ⟨_, exec_next rfl hthr, ⟨hf'.valid, hf'.tense, hf'.gen, hf'.material, htx', hq'⟩, hev'⟩⟩
    · subst hc
      have hop := opKeyReady_of_offer hr hph ha hp hf
      obtain ⟨-, hpt⟩ := tenseRow_some hp
      obtain ⟨hfv, hft⟩ := tenseRow_some hf
      have hne : f ≠ p := by
        rintro rfl
        rw [hft] at hpt
        exact absurd hpt (by decide)
      refine ⟨fun hok => ⟨_, exec_next rfl (hop.trans (if_pos hok)), ?_⟩, fun hok => exec_next rfl (hop.trans (if_neg ?_))⟩
      · obtain ⟨h1, h2, h3⟩ := switch_rows hne hfv
        exact ⟨h1, h2, h3, setTenseTx_txOf _ _ _ _⟩
      · rw [hok]
        exact Bool.false_ne_true
    · exact exec_next rfl (opKeyReady_of_steady ha)
    · have hop := opTenseRetry_of_offer hr hph ha h4 hf
      have hrow : (s.setTenseTx l c { s.tenseTxOf l c with attempts := (s.tenseTxOf l c).attempts + 1 }).tenseRow l c dir 3 =
          some f := hf
      obtain ⟨-, htx, -, x, hq, -⟩ := tenseSend_offered (by rw [hrow]; rfl) 0x21 (s.row f).gen
      refine ⟨_, exec_next rfl (congrArg settleAll hop), ?_, ?_⟩
      · rw [htx, setTenseTx_txOf]
      · rw [hq, setTenseTx_queue, List.length_append]
        rfl
    · exact exec_next rfl (congrArg settleAll (opTenseRetry_of_steady ha))
  · intro s l m p hr hph c dir hp g n
    refine ⟨fun hbad => ?_, fun hok hready hpast ho => ?_, fun q hok hready hpast => ⟨?_, fun hm => ?_⟩⟩
    · have hop := opKeyFuture_of_present hr hph hp
      refine exec_next rfl (hop.trans (if_pos ?_))
      show (!s.tenseOk l m 0x21 c dir g) = true
      rw [hbad]
      rfl
    · have hop := opKeyFuture_of_present hr hph hp
      dsimp only at hop
      rw [hok, Bool.not_true, if_neg Bool.false_ne_true, hready, if_neg Bool.false_ne_true, hpast, Option.isSome_none,
        if_neg Bool.false_ne_true] at hop
      obtain ⟨hf, hrx, hq⟩ := keyFuture_taken ho (s.tenseRxOf l c)
      exact ⟨_, exec_next rfl hop, hf.valid, hf.tense, hf.gen, hrx, hq⟩
    · have hop := opKeyFuture_of_present hr hph hp
      dsimp only at hop
      rw [hok, Bool.not_true, if_neg Bool.false_ne_true, hready, if_neg Bool.false_ne_true, hpast, Option.isSome_some,
        if_pos rfl] at hop
      exact ⟨_, exec_next rfl hop, rfl, by rw [setTenseRx_rxOf]⟩
    · refine ⟨_, exec_next rfl (congrArg settleAll (opPastGrace_of_none hr hpast hm)), s.eraseRow_valid q q (.inl rfl),
        fun r hne => setRow_row_ne _ _ _ _ hne, by rw [setTenseRx_rxOf]⟩

end Sys2Proof.Machine
end

section
/-! PROOFS. Key limits, invalidation and the device unique secret (O34). -/

namespace Sys2Proof.Machine

/-! ### Values that a function leaves alone -/

theorem Tab.get_mapAll_of_fixed {α : Type} [DecidableEq α] {d : α} {f : Nat → α → α} {n : Nat} (t : Tab α)
    (hd : Tab.get d t n ≠ d) (hf : f n (Tab.get d t n) = Tab.get d t n) : Tab.get d (Tab.mapAll d f t) n = Tab.get d t n := by
  induction t with
  | nil => exact absurd rfl hd
  | cons e t ih =>
    obtain ⟨k, v⟩ := e
    rw [Tab.mapAll, List.filterMap_cons]
    rw [Tab.get] at hd hf ⊢
    by_cases hk : k = n
    · rw [if_pos hk] at hd hf ⊢
      dsimp only
      rw [hk, hf, if_neg hd]
      exact if_pos rfl
    · rw [if_neg hk] at hd hf ⊢
      dsimp only
      split
      · next h =>
        split at h
        · exact ih hd hf
        · cases h
      · next h =>
        split at h
        · cases h
        · cases h
          exact (if_neg hk).trans (ih hd hf)

theorem Tab.get_mapAll_of_notMem {α : Type} [DecidableEq α] {d : α} {f : Nat → α → α} {n : Nat} (t : Tab α)
    (h : ∀ e ∈ t, e.1 ≠ n) : Tab.get d (Tab.mapAll d f t) n = d := by
  induction t with
  | nil => rfl
  | cons e t ih =>
    have ht := ih fun e he => h e (List.mem_cons_of_mem _ he)
    rw [Tab.mapAll, List.filterMap_cons]
    split
    · exact ht
    · next hs =>
      split at hs
      · cases hs
      · cases hs
        exact (if_neg (h e List.mem_cons_self)).trans ht

/-- A value set by hand is left as it is by a function that leaves it alone, whatever else the table holds. -/
theorem Tab.get_mapAll_set {α : Type} [DecidableEq α] {d : α} {f : Nat → α → α} {n : Nat} (t : Tab α) {v : α}
    (hf : f n v = v) : Tab.get d (Tab.mapAll d f (Tab.set d t n v)) n = v := by
  have hv : Tab.get d (Tab.set d t n v) n = v := Tab.get_set_same _ _ _ _
  by_cases hd : v = d
  · rw [hd, Tab.set, if_pos rfl]
    exact Tab.get_mapAll_of_notMem _ fun e he => bne_iff_ne.mp (List.mem_filter.mp he).2
  · rw [Tab.get_mapAll_of_fixed _ (by rw [hv]; exact hd) (by rw [hv]; exact hf), hv]

namespace State

/-! ### Limits (Table 6-3) -/

theorem toNat_memRow (i : KeyIdx) : (BitVec.ofNat 12 (rowMemKey i false)).toNat = 57 + 8 * i.toNat := by
  have hi := i.isLt
  rw [BitVec.toNat_ofNat, rowMemKey]
  simp only [Bool.false_eq_true, if_false]
  omega

theorem toNat_linkRow (l : LinkId) (c : Cls) {dir k : Nat} (hd : dir < 2) (hk : k < 3) :
    (BitVec.ofNat 12 (rowLink l c dir k)).toNat = 249 + 24 * l.toNat + 6 * c.toNat + 3 * dir + k := by
  have hl := l.isLt
  have hc := c.isLt
  rw [BitVec.toNat_ofNat, rowLink]
  omega

theorem txDir_lt (s : State) (l : LinkId) : s.txDir l < 2 := by
  unfold txDir
  dsimp only
  split <;> decide

theorem opKeyLimit_of_valid {s : State} {r : RowId} (hr : s.running = true) (hv : (s.row r.toNat).valid = true)
    (h57 : 57 ≤ r.toNat) (h : r.toNat < 2825) : s.opKeyLimit r =
      let s := s.keyEvent kevLimit
      if r.toNat ≤ 184 then s.memLimit (BitVec.ofNat 4 ((r.toNat - 57) / 8)) ((r.toNat - 57) % 8 / 4 == 1)
      else if r.toNat ≤ 248 then s
      else if r.toNat ≤ 1784 then
        s.linkLimit (BitVec.ofNat 6 ((r.toNat - 249) / 24)) (BitVec.ofNat 2 ((r.toNat - 249) % 24 / 6)) ((r.toNat - 249) % 6 / 3)
      else if r.toNat ≤ 2552 then
        (if (r.toNat - 1785) % 3 = 0 then s
          else s.stageLimit (BitVec.ofNat 8 ((r.toNat - 1785) / 3)) ((r.toNat - 1785) % 3 - 1))
      else if r.toNat ≤ 2808 then s.endProg (BitVec.ofNat 8 (r.toNat - 2553)) stKeyLimit
      else { s.eraseRow r.toNat with keys := { (s.eraseRow r.toNat).keys with
        transport := setBitTo s.keys.transport (r.toNat - 2809) false } } := by
  refine if_neg ?_
  rw [hr, hv, decide_eq_false (Nat.not_lt.mpr h57), decide_eq_false (Nat.not_le.mpr h)]
  exact Bool.false_ne_true

theorem opKeyLimit_memory {s : State} {i : KeyIdx} (hr : s.running = true) (hv : (s.row (rowMemKey i false)).valid = true) :
    s.opKeyLimit (BitVec.ofNat 12 (rowMemKey i false)) = (s.keyEvent kevLimit).memLimit i false := by
  have hn := toNat_memRow i
  have hi := i.isLt
  have hidx : BitVec.ofNat 4 ((57 + 8 * i.toNat - 57) / 8) = i := by
    rw [show (57 + 8 * i.toNat - 57) / 8 = i.toNat by omega]
    exact (BitVec.ofNat_toNat _ i).trans (BitVec.setWidth_eq i)
  have hfut : ((57 + 8 * i.toNat - 57) % 8 / 4 == 1) = false := by
    rw [show (57 + 8 * i.toNat - 57) % 8 / 4 = 0 by omega]
    rfl
  have hrow : rowMemKey i false = 57 + 8 * i.toNat := rfl
  rw [opKeyLimit_of_valid hr (by rw [hn, ← hrow]; exact hv) (by rw [hn]; omega) (by rw [hn]; omega), hn]
  dsimp only
  rw [if_pos (by omega), hidx, hfut]

theorem opKeyLimit_link {s : State} {l : LinkId} {c : Cls} {k : Nat} (hr : s.running = true) (hk : k < 3)
    (hv : (s.row (rowLink l c (s.txDir l) k)).valid = true) :
    s.opKeyLimit (BitVec.ofNat 12 (rowLink l c (s.txDir l) k)) = (s.keyEvent kevLimit).linkLimit l c (s.txDir l) := by
  have hd := s.txDir_lt l
  have hn := toNat_linkRow l c hd hk
  have hl := l.isLt
  have hc := c.isLt
  have hrow : rowLink l c (s.txDir l) k = 249 + 24 * l.toNat + 6 * c.toNat + 3 * s.txDir l + k := rfl
  generalize s.txDir l = dir at hd hn hv hrow ⊢
  have hlink : BitVec.ofNat 6 ((249 + 24 * l.toNat + 6 * c.toNat + 3 * dir + k - 249) / 24) = l := by
    rw [show (249 + 24 * l.toNat + 6 * c.toNat + 3 * dir + k - 249) / 24 = l.toNat by omega]
    exact (BitVec.ofNat_toNat _ l).trans (BitVec.setWidth_eq l)
  have hcls : BitVec.ofNat 2 ((249 + 24 * l.toNat + 6 * c.toNat + 3 * dir + k - 249) % 24 / 6) = c := by
    rw [show (249 + 24 * l.toNat + 6 * c.toNat + 3 * dir + k - 249) % 24 / 6 = c.toNat by omega]
    exact (BitVec.ofNat_toNat _ c).trans (BitVec.setWidth_eq c)
  have hdir : (249 + 24 * l.toNat + 6 * c.toNat + 3 * dir + k - 249) % 6 / 3 = dir := by omega
  rw [opKeyLimit_of_valid hr (by rw [hn, ← hrow]; exact hv) (by rw [hn]; omega) (by rw [hn]; omega), hn]
  dsimp only
  rw [if_neg (by omega), if_neg (by omega), if_pos (by omega), hlink, hcls, hdir]

/-! ### Invalidation (R167) -/

theorem chainReaches_parent (s : State) (p : KeyParent) (n : Nat) : s.chainReaches p (n + 1) p = true := if_pos rfl

/-- Where no chain through a row reaches it, the row's erasure does not change what a chain reaches. -/
theorem chainReaches_eraseRow (s : State) (r : RowId) (n : Nat) (p : KeyParent) :
    (s.eraseRow r.toNat).chainReaches (.row r) n p = s.chainReaches (.row r) n p := by
  induction n generalizing p with
  | zero => rfl
  | succ n ih =>
    unfold chainReaches
    split
    · rfl
    · next hne =>
      cases p with
      | row q =>
        have hq : q ≠ r := fun h => hne (by rw [h])
        have hrow : (s.eraseRow r.toNat).row q.toNat = s.row q.toNat :=
          setRow_row_ne _ _ _ _ fun h => hq (BitVec.eq_of_toNat_eq h)
        dsimp only
        rw [hrow, ih]
      | _ => rfl

theorem blankRow_blankRow (o : KeyRow) : blankRow (blankRow o) = blankRow o := rfl

theorem keyInvalidateRow_row (s : State) (r : RowId) (q : Nat) : (s.keyInvalidateRow r.toNat).row q =
    Tab.get {} (Tab.mapAll {} (fun _ x => if (s.eraseRow r.toNat).chainReaches (.row r) 5 x.parent then blankRow x else x)
      (s.eraseRow r.toNat).keys.rows) q := by
  have hr : BitVec.ofNat 12 r.toNat = r := (BitVec.ofNat_toNat _ r).trans (BitVec.setWidth_eq r)
  rw [keyInvalidateRow, hr]
  rfl

theorem keyInvalidateRow_self (s : State) (r : RowId) :
    (s.keyInvalidateRow r.toNat).row r.toNat = blankRow (s.row r.toNat) := by
  rw [keyInvalidateRow_row]
  refine Tab.get_mapAll_set s.keys.rows ?_
  split
  · exact blankRow_blankRow _
  · exact Eq.refl _

theorem keyInvalidateRow_of_canonical {s : State} (h : s.canonical) (r : RowId) {q : Nat} (hq : q ≠ r.toNat) :
    (s.keyInvalidateRow r.toNat).row q =
      if s.chainReaches (.row r) 5 (s.row q).parent then blankRow (s.row q) else s.row q := by
  have hcanon : (s.eraseRow r.toNat).canonical := (eraseRow_keeps (K := 0x000040) (Keeps.refl _ s) (by decide)).canon h
  have hwf : Tab.wf {} (s.eraseRow r.toNat).keys.rows = true := hcanon.keys.1
  have hrow : (s.eraseRow r.toNat).row q = s.row q := setRow_row_ne _ _ _ _ hq
  rw [keyInvalidateRow_row, get_mapAll_of_wf hwf (by split <;> rfl)]
  show (if (s.eraseRow r.toNat).chainReaches (.row r) 5 ((s.eraseRow r.toNat).row q).parent then
    blankRow ((s.eraseRow r.toNat).row q) else (s.eraseRow r.toNat).row q) = _
  rw [hrow, chainReaches_eraseRow]

theorem progress_canonical {s : State} (h : s.canonical) : (s.progress engTrust).canonical :=
  (progress_keeps (K := 0x010000) (Keeps.refl _ s) (by decide)).canon h

theorem progress_chain (s : State) (t : KeyParent) (n : Nat) (p : KeyParent) :
    (s.progress engTrust).chainReaches t n p = s.chainReaches t n p := by
  induction n generalizing p with
  | zero => rfl
  | succ n ih =>
    unfold chainReaches
    split
    · rfl
    · split
      · exact ih _
      · rfl

theorem opInvalidate_of_off {s : State} {r : RowId} (h : s.running = false ∨ 2832 < r.toNat) (b : Bool) :
    s.opInvalidate r b = s := by
  refine if_pos ?_
  rcases h with h | h
  · exact .inl (by rw [h]; rfl)
  · exact .inr h

theorem opInvalidate_of_row {s : State} {r : RowId} (hr : s.running = true) (h : r.toNat ≤ 2832) :
    s.opInvalidate r false = ((s.progress engTrust).keyInvalidateRow r.toNat).orphanFollow r.toNat := by
  have hguard : ¬ ((!s.running) = true ∨ 2832 < r.toNat) := by
    rw [hr]
    exact not_or.mpr ⟨Bool.false_ne_true, Nat.not_lt.mpr h⟩
  rw [opInvalidate, if_neg hguard, if_neg Bool.false_ne_true, invalidateKey]

/-! ### The device unique secret (R144 to R146) -/

theorem otpSetBits_otpRow (s : State) (r y : Nat) (x : BitVec 64) :
    (s.otpSetBits r x).otpRow y = if y = r then s.otpRow r ||| x else s.otpRow y := Tab.get_set _ _ _ _ _

theorem otpProgram_of_good (s : State) (r : Nat) (w : BitVec 64) : s.otpProgram r w [] = s.otpSetBits r w := rfl

/-- The secret in its four OTP rows. -/
def dusFused (s : State) (x : BitVec 256) : State :=
  (((s.otpSetBits 4 (x.extractLsb' 0 64)).otpSetBits 5 (x.extractLsb' 64 64)).otpSetBits 6 (x.extractLsb' 128 64)).otpSetBits 7
    (x.extractLsb' 192 64)

theorem dusFused_otpRow (s : State) (x : BitVec 256) : (∀ i : Nat, i < 4 →
      (s.dusFused x).otpRow (4 + i) = s.otpRow (4 + i) ||| x.extractLsb' (64 * i) 64) ∧
    ∀ r : Nat, r < 4 ∨ 8 ≤ r → (s.dusFused x).otpRow r = s.otpRow r := by
  constructor
  · intro i hi
    interval_cases i <;> simp [dusFused, otpSetBits_otpRow]
  · intro r hr
    rw [dusFused, otpSetBits_otpRow, if_neg (by omega), otpSetBits_otpRow, if_neg (by omega), otpSetBits_otpRow,
      if_neg (by omega), otpSetBits_otpRow, if_neg (by omega)]

/-- The block after the secret has been programmed, before its grade is looked at. -/
def dusWritten (s : State) : State :=
  let x := Config.entropy s.freeCtr
  let t := { s with freeCtr := s.freeCtr + 1 }.dusFused x
  { t with
    lcd := { t.lcd with sparesUsed := BitVec.ofNat 4 t.sparesInUse }
    flt := { t.flt with health := { t.flt.health with otpSpare := decide (0 < t.sparesInUse) } } }

theorem opDus_of_test {s : State} (hr : s.running = true) (hl : s.lcd.state = 1) (hd : s.dusThere = false) :
    s.opDus [] = ((s.dusWritten.writeKey 0 ((Config.entropy s.freeCtr).setWidth 288) .none 0 0 0).gradeUpdate).progress
      engTrust := by
  refine (if_neg ?_).trans rfl
  rw [hr, hl, hd]
  exact Bool.false_ne_true

theorem opDus_of_not {s : State} (h : s.running = false ∨ s.lcd.state ≠ 1 ∨ s.dusThere = true) (b : List (BitVec 7)) :
    s.opDus b = s := by
  refine if_pos ?_
  rcases h with h | h | h
  · rw [h, Bool.not_false, Bool.true_or, Bool.true_or]
  · rw [bne_iff_ne.mpr h, Bool.or_true, Bool.true_or]
  · rw [h, Bool.or_true]

end State

open State in
/-- Settles O34: a limit by the row's place in Table 6-7, an invalidation row by row, the secret's programming. -/
theorem keyStore : Obligations.KeyStore := by
  refine ⟨fun s hr => ⟨fun r hv => ?_, fun i hv hs => ?_, fun l c k hk hv => ?_⟩, fun s r => ⟨fun hr h => ?_, fun h b => ?_⟩,
    fun s => ⟨fun hr hl hd ho => ?_, fun h b => ?_⟩⟩
  · refine exec_next rfl (congrArg settleAll (if_pos ?_))
    rw [hv, Bool.not_false, Bool.or_true, Bool.true_or, Bool.true_or]
  · have hlim : (s.keyEvent kevLimit).memLimit i false = (s.keyEvent kevLimit).setMemIdx i
        { (s.keyEvent kevLimit).memIdx i with futureHeld := true } := by
      refine if_neg ?_
      show ¬ (false || (s.memIdx i).sweeping) = true
      rw [hs]
      exact Bool.false_ne_true
    refine ⟨_, exec_next rfl (congrArg settleAll ((opKeyLimit_memory hr hv).trans hlim)), rfl, ?_, rfl⟩
    rw [setMemIdx_memIdx_same]
  · have hlim : (s.keyEvent kevLimit).linkLimit l c (s.txDir l) = (s.keyEvent kevLimit).setTenseTx l c
        { (s.keyEvent kevLimit).tenseTxOf l c with stopped := true } := if_pos rfl
    refine ⟨_, exec_next rfl (congrArg settleAll ((opKeyLimit_link hr hk hv).trans hlim)), rfl, ?_, rfl⟩
    rw [setTenseTx_txOf]
  · have hself := (s.progress engTrust).keyInvalidateRow_self r
    refine ⟨(s.progress engTrust).keyInvalidateRow r.toNat, exec_next rfl (congrArg settleAll (opInvalidate_of_row hr h)),
      by rw [hself]; rfl, by rw [hself]; rfl, fun q hc hq => ?_, fun q hq hreach hc => ?_, ?_⟩
    · by_cases hr : q = r.toNat
      · rw [hr, hself]
        exact ⟨rfl, rfl⟩
      · have hparent : ((s.progress engTrust).row q).parent = .row r := hq
        rw [keyInvalidateRow_of_canonical (progress_canonical hc) r hr, hparent, chainReaches_parent, if_pos rfl]
        exact ⟨rfl, rfl⟩
    · rw [keyInvalidateRow_of_canonical (progress_canonical hc) r hq]
      refine if_neg ?_
      rw [progress_chain]
      exact Bool.eq_false_iff.mp hreach
    · exact (getLsbD_setBitTo _ true (by decide) _).trans (if_pos rfl)
  · exact exec_next rfl (congrArg settleAll (opInvalidate_of_off h b))
  · have hrow := writeKey_row_same (s := s.dusWritten) (r := 0) ho ((Config.entropy s.freeCtr).setWidth 288) .none 0 0 0
    obtain ⟨hset, hkeep⟩ := dusFused_otpRow { s with freeCtr := s.freeCtr + 1 } (Config.entropy s.freeCtr)
    have hlast (u : State) : (u.gradeUpdate.progress engTrust).keys = u.keys ∧ (u.gradeUpdate.progress engTrust).otp = u.otp := by
      have h : Keeps 0x530008 u (u.gradeUpdate.progress engTrust) :=
        progress_keeps (gradeUpdate_keeps (Keeps.refl _ u) (by decide)) (by decide)
      exact ⟨h.keys.resolve_left (by decide), h.otp.resolve_left (by decide)⟩
    obtain ⟨hk, ho'⟩ := hlast (s.dusWritten.writeKey 0 ((Config.entropy s.freeCtr).setWidth 288) .none 0 0 0)
    have hotp := ho'.trans ((writeKey_keeps (K := 0x000040) (Keeps.refl _ _) (by decide)).otp.resolve_left (by decide))
    have hrow' := (row_of_keys hk 0).trans hrow
    have hotpRow (r : Nat) := congrArg (fun t => Tab.get 0 t r) hotp
    refine ⟨_, exec_next rfl (opDus_of_test hr hl hd), by rw [hrow'], by rw [hrow'], fun i hi => (hotpRow _).trans (hset i hi),
      fun r hr => (hotpRow r).trans (hkeep r hr)⟩
  · exact exec_next rfl (opDus_of_not h b)

end Sys2Proof.Machine
end

section
/-! PROOFS. Lanes, bursts, patrol, the GHASH unit and the voltage monitors (O35). -/

namespace Sys2Proof.Machine

namespace State

/-! ### Clusters and regions -/

theorem setCluster_laneCluster_same (s : State) (k : ClusterId) (c : LaneCluster) : (s.setCluster k c).laneCluster k = c :=
  Tab.get_set_same _ _ _ _

theorem laneCluster_of_lanes {s t : State} (h : t.lanes = s.lanes) (k : ClusterId) : t.laneCluster k = s.laneCluster k := by
  rw [laneCluster, laneCluster, h]

theorem regionLanes_of_lanes {s t : State} (h : t.lanes = s.lanes) (r : Region) : t.regionLanes r = s.regionLanes r := by
  cases r <;> rw [regionLanes, regionLanes, h]

theorem setRegionLanes_same (s : State) (r : Region) (x : RegionLanes) : (s.setRegionLanes r x).regionLanes r = x := by
  cases r <;> rfl

theorem setRegionLanes_laneCluster (s : State) (r : Region) (x : RegionLanes) (k : ClusterId) :
    (s.setRegionLanes r x).laneCluster k = s.laneCluster k := by
  cases r <;> rfl

theorem setRegionLanes_lanesOnly (s : State) (r : Region) (x : RegionLanes) :
    s.setRegionLanes r x = { s with lanes := (s.setRegionLanes r x).lanes } := by
  cases r <;> rfl

theorem setCal_cal (s : State) (r : Region) (c : Cal) : (s.setCal r c).cal r = c := by
  cases r <;> rfl

theorem cal_of_clk {s t : State} (h : t.clk = s.clk) (r : Region) : t.cal r = s.cal r := by
  cases r <;> rw [cal, cal, h]

theorem mem_bitsOf {w : Nat} {x : BitVec w} {i : Nat} : i ∈ bitsOf x ↔ i < w ∧ x.getLsbD i = true := by
  rw [bitsOf, List.mem_filter, List.mem_range]

theorem lowestLane_mem {x : BitVec 26} {p : Nat} (h : lowestLane x = some p) : p < 26 ∧ x.getLsbD p = true :=
  mem_bitsOf.mp (List.mem_of_getElem? h)

theorem spare_ne_zero {x : BitVec 26} {p : Nat} (h : lowestLane x = some p) : x ≠ 0 := by
  rintro rfl
  have hp := (lowestLane_mem h).2
  simp at hp

theorem lt_of_lane {x : BitVec 26} {i : Nat} (h : x.getLsbD i = true) : i < 26 := by
  by_contra hi
  rw [BitVec.getLsbD_of_ge _ _ (Nat.le_of_not_lt hi)] at h
  cases h

theorem patrolLane_active {c : LaneCluster} {n : Nat} (h : patrolLane c = some n) : n < 26 ∧ c.active.getLsbD n = true := by
  unfold patrolLane at h
  dsimp only at h
  split at h
  · next hf =>
    cases h
    exact mem_bitsOf.mp (List.mem_of_find?_eq_some hf)
  · exact mem_bitsOf.mp (List.mem_of_getElem? h)

/-! ### A lane leaves service (R197) -/

/-- A cluster in which a spare has taken the place of a lane. -/
structure Replaced (c c' : LaneCluster) (i p : Nat) : Prop where
  out : c'.active.getLsbD i = false
  active : c'.active.getLsbD p = true
  spare : c'.spare.getLsbD p = false
  group : c'.cryptoGroup.getLsbD p = c.cryptoGroup.getLsbD i

theorem laneLeave_of_spare {c : LaneCluster} {p : Nat} (h : lowestLane c.spare = some p) (i : Nat) : laneLeave c i =
    ({ c with
      active := setBitTo (setBitTo c.active i false) p true
      spare := setBitTo c.spare p false
      cryptoGroup := setBitTo c.cryptoGroup p (c.cryptoGroup.getLsbD i) }, some p) := by
  rw [laneLeave, h]

theorem laneLeave_of_none {c : LaneCluster} (h : lowestLane c.spare = none) (i : Nat) :
    laneLeave c i = ({ c with active := setBitTo c.active i false }, none) := by
  rw [laneLeave, h]

theorem laneLeave_replaced {c : LaneCluster} {i p : Nat} (h : lowestLane c.spare = some p) (hi : i < 26) (hne : i ≠ p) :
    Replaced c (laneLeave c i).1 i p := by
  obtain ⟨hp, -⟩ := lowestLane_mem h
  rw [laneLeave_of_spare h]
  refine ⟨?_, ?_, ?_, ?_⟩
  · rw [getLsbD_setBitTo _ _ hp, if_neg hne, getLsbD_setBitTo _ _ hi, if_pos rfl]
  · rw [getLsbD_setBitTo _ _ hp, if_pos rfl]
  · rw [getLsbD_setBitTo _ _ hp, if_pos rfl]
  · rw [getLsbD_setBitTo _ _ hp, if_pos rfl]

/-! ### A mismatch (R193, R199, R203) -/

/-- The mismatch counted in its cluster and noted in its region. -/
def mismatched (s : State) (k : ClusterId) : State :=
  (s.setCluster k { s.laneCluster k with mismatch := true, mismatchCount := satInc (s.laneCluster k).mismatchCount }).setRegionLanes
    (regionOf k) { s.regionLanes (regionOf k) with last := s.now }

theorem mismatched_cluster (s : State) (k : ClusterId) : (s.mismatched k).laneCluster k =
    { s.laneCluster k with mismatch := true, mismatchCount := satInc (s.laneCluster k).mismatchCount } := by
  rw [mismatched, setRegionLanes_laneCluster, setCluster_laneCluster_same]

theorem mismatched_region (s : State) (k : ClusterId) : (s.mismatched k).regionLanes (regionOf k) =
    { s.regionLanes (regionOf k) with last := s.now } := setRegionLanes_same _ _ _

theorem mismatched_eq (s : State) (k : ClusterId) : s.mismatched k = { s with lanes := (s.mismatched k).lanes } :=
  setRegionLanes_lanesOnly _ _ _

theorem opMismatch_of_none {s : State} {k : ClusterId} {i : BitVec 5} {a b : BitVec 128} {v : Bool}
    (h : laneReleases a b v = true ∨ s.running = false ∨ (s.laneCluster k).active.getLsbD i.toNat = false) :
    s.opMismatch k i a b v = s := by
  refine if_pos ?_
  rcases h with h | h | h
  · rw [h, Bool.true_or, Bool.true_or]
  · rw [h, Bool.not_false, Bool.or_true, Bool.true_or]
  · rw [h, Bool.not_false, Bool.or_true]

theorem opMismatch_of_active {s : State} {k : ClusterId} {i : BitVec 5} {a b : BitVec 128} {v : Bool}
    (h : laneReleases a b v = false) (hr : s.running = true) (ha : (s.laneCluster k).active.getLsbD i.toNat = true) :
    s.opMismatch k i a b v =
      if (s.regionLanes (regionOf k)).bursting then s.mismatched k
      else if 2 ≤ ((s.regionLanes (regionOf k)).recent.filter fun y => inSpan s.now y.time 1000).length then
        (s.mismatched k).burstStart (regionOf k)
      else (s.mismatched k).laneRetire k i := by
  have hnow : (s.mismatched k).now = s.now := by rw [mismatched_eq]; rfl
  refine (if_neg ?_).trans ?_
  · rw [h, hr, ha]
    exact Bool.false_ne_true
  · show (if (s.regionLanes (regionOf k)).bursting then s.mismatched k
      else if 2 ≤ ((s.regionLanes (regionOf k)).recent.filter fun y => inSpan (s.mismatched k).now y.time 1000).length then
        (s.mismatched k).burstStart (regionOf k)
      else (s.mismatched k).laneRetire k i) = _
    rw [hnow]

/-- What is done about a retirement leaves the lanes as they are. -/
theorem laneRetire_cluster {s : State} {k : ClusterId} {i : BitVec 5} (h : s.spareRival k i = none) :
    (s.laneRetire k i).laneCluster k = { (laneLeave (s.laneCluster k) i.toNat).1 with
      retired := setBitTo (laneLeave (s.laneCluster k) i.toNat).1.retired i.toNat true } := by
  have hend (u : State) (c : LaneCluster) (n : Nat) : ((u.laneEnd k c n).sweepsEnd).lanes = u.lanes :=
    (sweepsEnd_keeps (K := 0x75BF40) (laneEnd_keeps (Keeps.refl _ u) (by decide)) (by decide)).lanes.resolve_left (by decide)
  have hgrade (u : State) : u.gradeUpdate.lanes = u.lanes :=
    (gradeUpdate_keeps (K := 0x530008) (Keeps.refl _ u) (by decide)).lanes.resolve_left (by decide)
  have hreplay (u : State) : (u.laneReplay k i).lanes = u.lanes :=
    (laneReplay_keeps (K := 0x000300) (Keeps.refl _ u) (by decide)).lanes.resolve_left (by decide)
  unfold laneRetire
  rw [laneOut, h]
  dsimp only
  rw [laneCluster_of_lanes (hgrade _)]
  split
  · rw [laneCluster_of_lanes (hend _ _ _), laneCluster_of_lanes (hreplay _), setRegionLanes_laneCluster,
      setCluster_laneCluster_same]
  · rw [laneCluster_of_lanes (hreplay _), setRegionLanes_laneCluster, setCluster_laneCluster_same]

theorem mismatched_rival (s : State) (k : ClusterId) (i : BitVec 5) : (s.mismatched k).spareRival k i = s.spareRival k i := by
  rw [spareRival, spareRival, mismatched_cluster, mismatched_region, mismatched_eq]

theorem spareRival_of_spare {s : State} {k : ClusterId} (h : (s.laneCluster k).spare ≠ 0) (i : BitVec 5) :
    s.spareRival k i = none := if_neg h

/-! ### A burst (R203) -/

theorem setCluster_region (s : State) (k : ClusterId) (c : LaneCluster) (r : Region) :
    (s.setCluster k c).cal r = s.cal r := cal_of_clk rfl r

/-- The retirements of the window reversed. -/
def burstRestored (s : State) (r : Region) : State :=
  (((s.regionLanes r).recent.filter fun y => inSpan s.now y.time 1000).reverse).foldl (fun (s : State) x =>
    s.setCluster x.cluster (laneRestore (s.laneCluster x.cluster) x)) s

/-- A cluster in a burst. -/
def burstSet (s : State) (k : ClusterId) : State := s.setCluster k { s.laneCluster k with burst := true }

/-- Every cluster of the region in a burst. -/
def burstMarked (s : State) (r : Region) : State :=
  (allClusters.filter fun k => regionOf k == r).foldl burstSet (s.burstRestored r)

theorem burstStart_eq (s : State) (r : Region) : s.burstStart r =
    (((s.burstMarked r).setRegionLanes r { recent := [], bursting := true, last := (s.burstMarked r).now }).record recLaneBurst
      (regionNumber r)).warnRegion r := rfl

theorem burstMarked_keeps (s : State) (r : Region) : Keeps 0x000080 s (s.burstMarked r) :=
  Keeps.foldl (Keeps.foldl (Keeps.refl _ s) fun _ _ h => setCluster_keeps h (by decide)) fun _ _ h =>
    setCluster_keeps h (by decide)

theorem mem_allClusters (k : ClusterId) : k ∈ allClusters := by
  have hchan (n : ChanId) : n ∈ allChans :=
    List.mem_map.mpr ⟨n.toNat, List.mem_range.mpr n.isLt, (BitVec.ofNat_toNat _ n).trans (BitVec.setWidth_eq n)⟩
  cases k with
  | mc n => exact List.mem_append_left _ (List.mem_append_left _ (List.mem_map_of_mem (hchan n)))
  | lk n => exact List.mem_append_left _ (List.mem_append_right _ (List.mem_map_of_mem (mem_allLinks n)))
  | svc => exact List.mem_append_right _ (List.mem_singleton.mpr rfl)

theorem burstSet_burst {s : State} {k q : ClusterId} (h : q = k ∨ (s.laneCluster q).burst = true) :
    ((s.burstSet k).laneCluster q).burst = true := by
  rw [laneCluster, burstSet, setCluster]
  dsimp only
  rw [Tab.get_set]
  split
  · rfl
  · next hne => exact h.resolve_left fun e => hne (by rw [e])

theorem foldl_burstSet (ks : List ClusterId) (s : State) {q : ClusterId} (h : q ∈ ks ∨ (s.laneCluster q).burst = true) :
    ((ks.foldl burstSet s).laneCluster q).burst = true := by
  induction ks generalizing s with
  | nil => exact h.resolve_left List.not_mem_nil
  | cons k ks ih =>
    refine ih _ ?_
    rcases h with h | h
    · rcases List.mem_cons.mp h with h | h
      · exact .inr (burstSet_burst (.inl h))
      · exact .inl h
    · exact .inr (burstSet_burst (.inr h))

theorem burstMarked_burst (s : State) {r : Region} {q : ClusterId} (h : regionOf q = r) :
    ((s.burstMarked r).laneCluster q).burst = true :=
  foldl_burstSet _ _ (.inl (List.mem_filter.mpr ⟨mem_allClusters q, beq_iff_eq.mpr h⟩))

/-- The monitor's values after a warning. -/
def warned (c : Cal) : Cal := { c with warn := true, warnCount := satInc c.warnCount, appliedCode := satInc c.appliedCode }

theorem gradeUpdate_rest (s : State) : s.gradeUpdate.clk = s.clk ∧ s.gradeUpdate.lanes = s.lanes ∧
    s.outs <:+ s.gradeUpdate.outs := by
  have h : Keeps 0x530008 s s.gradeUpdate := gradeUpdate_keeps (Keeps.refl _ s) (by decide)
  exact ⟨h.clk.resolve_left (by decide), h.lanes.resolve_left (by decide), h.grew⟩

theorem warnRegion_of_below {s : State} {r : Region} (h : (s.cal r).appliedCode ≠ 15) :
    s.warnRegion r = (s.setCal r (warned (s.cal r))).gradeUpdate := if_neg h

theorem setCal_rest (s : State) (r : Region) (c : Cal) : (s.setCal r c).lanes = s.lanes ∧ (s.setCal r c).outs = s.outs := by
  cases r <;> exact ⟨rfl, rfl⟩

theorem warnRegion_below {s : State} {r : Region} (h : (s.cal r).appliedCode ≠ 15) :
    (s.warnRegion r).cal r = warned (s.cal r) ∧ (s.warnRegion r).lanes = s.lanes ∧ s.outs <:+ (s.warnRegion r).outs := by
  obtain ⟨hclk, hlanes, houts⟩ := (s.setCal r (warned (s.cal r))).gradeUpdate_rest
  obtain ⟨hl, ho⟩ := s.setCal_rest r (warned (s.cal r))
  rw [warnRegion_of_below h]
  exact ⟨(cal_of_clk hclk r).trans (setCal_cal _ _ _), hlanes.trans hl, ho ▸ houts⟩

theorem setRegionLanes_rest (s : State) (r : Region) (x : RegionLanes) :
    (s.setRegionLanes r x).clk = s.clk ∧ (s.setRegionLanes r x).outs = s.outs := by
  cases r <;> exact ⟨rfl, rfl⟩

/-- The third mismatch of a window (R203). -/
theorem burstStart_below {s : State} {r : Region} (h : (s.cal r).appliedCode ≠ 15) :
    (s.burstStart r).regionLanes r = { recent := [], bursting := true, last := s.now } ∧
    (∀ q : ClusterId, regionOf q = r → ((s.burstStart r).laneCluster q).burst = true) ∧
    ((s.burstStart r).cal r).appliedCode = satInc (s.cal r).appliedCode ∧
    (.record recLaneBurst (regionNumber r) :: s.outs) <:+ (s.burstStart r).outs := by
  have hkeep := s.burstMarked_keeps r
  have hclk : (s.burstMarked r).clk = s.clk := hkeep.clk.resolve_left (by decide)
  have hsys : (s.burstMarked r).sys = s.sys := hkeep.sys.resolve_left (by decide)
  have houts : (s.burstMarked r).outs = s.outs := hkeep.outs.resolve_left (by decide)
  have hnow : (s.burstMarked r).now = s.now := congrArg (·.btime) hsys
  have hburst {q : ClusterId} (hq : regionOf q = r) := s.burstMarked_burst hq
  rw [burstStart_eq]
  generalize s.burstMarked r = m at hclk houts hnow hburst ⊢
  obtain ⟨hc, ho⟩ := m.setRegionLanes_rest r { recent := [], bursting := true, last := m.now }
  have hsame := m.setRegionLanes_same r { recent := [], bursting := true, last := m.now }
  have hlane (q : ClusterId) := m.setRegionLanes_laneCluster r { recent := [], bursting := true, last := m.now } q
  generalize m.setRegionLanes r { recent := [], bursting := true, last := m.now } = n at hc ho hsame hlane ⊢
  have hcal : (n.record recLaneBurst (regionNumber r)).cal r = s.cal r := cal_of_clk (hc.trans hclk) r
  obtain ⟨hw, hl, hout⟩ := warnRegion_below (s := n.record recLaneBurst (regionNumber r)) (r := r) (by rw [hcal]; exact h)
  refine ⟨?_, fun q hq => ?_, ?_, ?_⟩
  · rw [regionLanes_of_lanes (s := n) hl, hsame, hnow]
  · have hq' := hlane q
    have : (n.record recLaneBurst (regionNumber r)).laneCluster q = n.laneCluster q := rfl
    rw [laneCluster_of_lanes hl, this, hq']
    exact hburst hq
  · rw [hw, hcal]
    rfl
  · rw [record_outs, ho, houts] at hout
    exact hout

/-! ### Patrol (R205, R206) -/

/-- The cluster whose lane has been exchanged for a spare, the pointer moved on. -/
def patrolled (c : LaneCluster) (i : Nat) : LaneCluster :=
  { (laneLeave c i).1 with
    patrolNext := BitVec.ofNat 5 (i + 1)
    cryptoGroup := setBitTo (laneLeave c i).1.cryptoGroup i false }

theorem opPatrol_of_lane {s : State} {k : ClusterId} {i : Nat} (hr : s.running = true)
    (hl : lanesSet (s.laneCluster k) = true) (hs : (s.laneCluster k).spare ≠ 0) (hi : patrolLane (s.laneCluster k) = some i)
    (pass : Bool) : s.opPatrol k pass =
      if pass then s.setCluster k { patrolled (s.laneCluster k) i with
        spare := setBitTo (patrolled (s.laneCluster k) i).spare i true }
      else (s.setCluster k { patrolled (s.laneCluster k) i with
        retired := setBitTo (patrolled (s.laneCluster k) i).retired i true
        patrolFail := true
        patrolFailCount := satInc (patrolled (s.laneCluster k) i).patrolFailCount }).gradeUpdate := by
  have hguard : (!s.running || !lanesSet (s.laneCluster k)) = false := by rw [hr, hl]; rfl
  unfold opPatrol
  dsimp only
  rw [hguard, if_neg Bool.false_ne_true, if_neg hs, hi]
  rfl

theorem active_ne_spare {c : LaneCluster} (h : c.active &&& c.spare = 0) {n p : Nat} (hn : c.active.getLsbD n = true)
    (hp : c.spare.getLsbD p = true) : n ≠ p := by
  rintro rfl
  have hz : (c.active &&& c.spare).getLsbD n = true := by rw [BitVec.getLsbD_and, hn, hp]; rfl
  rw [h] at hz
  simp at hz

/-! ### The GHASH unit (R214) -/

theorem opGhash_of_live {s : State} (hr : s.running = true) (hg : (s.laneCluster .svc).ghashRetired = false) : s.opGhash =
    let ts := (s.now :: s.lanes.ghashTimes.filter fun t => inSpan s.now t 1000000).take 4
    let u := { s with lanes := { s.lanes with ghashTimes := ts } }
    if ts.length = 4 then
      ((u.setCluster .svc { s.laneCluster .svc with ghashRetired := true }).record causeLaneExhausted (clusterKey .svc)).gradeUpdate
    else u := by
  refine (if_neg ?_).trans rfl
  rw [hr, hg]
  exact Bool.false_ne_true

/-! ### Monitor warnings (R101, R102) -/

theorem warnRegion_of_full {s : State} {r : Region} (h : (s.cal r).appliedCode = 15) :
    s.warnRegion r = (s.setCal r (warned (s.cal r))).timingFault r := if_pos h

theorem setCal_timing (s : State) (r : Region) (c : Cal) : (s.setCal r c).timingTimes r = s.timingTimes r ∧
    (s.setCal r c).now = s.now := by
  cases r <;> exact ⟨rfl, rfl⟩

theorem timingFault_of_first {s : State} {r : Region} (h : s.timingTimes r = []) :
    s.timingFault r = (s.record causeTiming (regionNumber r)).setTimingTimes r [s.now] := by
  have ht : (s.record causeTiming (regionNumber r)).timingTimes r = [] := by
    rw [← h]
    cases r <;> rfl
  unfold timingFault
  dsimp only
  rw [ht]
  rfl

/-- The state that the third timing fault of a region stops. -/
def faulted3 (s : State) (r : Region) : State :=
  (s.record causeTiming (regionNumber r)).setTimingTimes r
    ((s.now :: (s.timingTimes r).filter fun t => inSpan s.now t 1000000000).take 3)

theorem timingFault_of_third {s : State} {r : Region}
    (h : 2 ≤ ((s.timingTimes r).filter fun t => inSpan s.now t 1000000000).length) :
    s.timingFault r = (s.faulted3 r).fullStop causeTiming false none := by
  have ht : (s.record causeTiming (regionNumber r)).timingTimes r = s.timingTimes r := by cases r <;> rfl
  have hlen : ((s.now :: (s.timingTimes r).filter fun t => inSpan s.now t 1000000000).take 3).length = 3 := by
    rw [List.length_take, List.length_cons]
    omega
  unfold timingFault
  dsimp only
  rw [ht]
  exact if_pos hlen

/-- A Full Stop that samples no role takes the one that role_sel then has. -/
theorem enterStop_none (s : State) (cause : Cause) (e : Bool) :
    s.enterStop cause e none = s.enterStop cause e (some (Config.roleSel s.stopping.freeCtr)) := rfl

/-- The third timing fault of a region within 1 s stops the block (Table 18-6). -/
theorem warnRegion_stops {s : State} {r : Region} (hr : s.running = true) (h : (s.cal r).appliedCode = 15)
    (ht : 2 ≤ ((s.timingTimes r).filter fun t => inSpan s.now t 1000000000).length) (hf : s.flt.stamps.length < 2) :
    ∃ role, s.stoppedFrom (s.warnRegion r) causeTiming false role := by
  obtain ⟨htimes, hnow⟩ := s.setCal_timing r (warned (s.cal r))
  have hop : s.warnRegion r = ((s.setCal r (warned (s.cal r))).faulted3 r).fullStop causeTiming false none := by
    rw [warnRegion_of_full h, timingFault_of_third (by rw [htimes, hnow]; exact ht)]
  have hstop : ((s.setCal r (warned (s.cal r))).faulted3 r).canStop = true := by
    have hphase : ((s.setCal r (warned (s.cal r))).faulted3 r).sys.phase = .running := by
      cases r <;> exact eq_of_beq hr
    rw [canStop, hphase]
  have hstamps : ((s.setCal r (warned (s.cal r))).faulted3 r).flt.stamps.length < 2 := by
    cases r <;> exact hf
  rw [hop, fullStop_of_few hstop rfl hstamps, enterStop_none]
  refine ⟨_, (enterStop_stoppedFrom _ causeTiming false _).of_agreeing ?_ ?_ ?_ ?_ ?_ ?_ ?_⟩
  · cases r <;> rfl
  · cases r <;> rfl
  · rintro ⟨otp, links, doms, glb, keys, lanes, mem, fab, fe, vd, red, flt, pwr, isl, tel⟩
    cases r <;> exact ⟨otp, links, doms, glb, keys, lanes, mem, fab, fe, vd, red, flt, pwr, isl, tel⟩
  · intro n _
    cases r <;> rfl
  · cases r <;> rfl
  · cases r <;> rfl
  · cases r <;> rfl

end State

open State in
/-- Settles O35: each clause by the event's branch, a lane's exchange and a burst cluster by cluster. -/
theorem lanesAndMonitors : Obligations.LanesAndMonitors := by
  intro s k i r a b v c g new
  refine ⟨fun h => ?_, fun h hr ha => ⟨fun hb => ?_, fun hb hn => ⟨fun p hp hi => ?_, fun hp hriv => ?_⟩, fun hb hn hcal => ?_⟩,
    ⟨fun hb hspan => ?_, fun h => ?_⟩, fun hr pass => ?_, fun hr hl hs pass => ?_, fun n p hr hl hd hn hp => ⟨?_, ?_⟩,
    fun h => ?_, fun hr hg => ?_, fun hr => ?_, fun hr => ?_⟩
  · exact exec_next rfl (congrArg settleAll (opMismatch_of_none h))
  · exact exec_next rfl (congrArg settleAll ((opMismatch_of_active h hr ha).trans (if_pos hb)))
  · have hop := (opMismatch_of_active h hr ha).trans ((if_neg (Bool.eq_false_iff.mp hb)).trans (if_neg (Nat.not_le.mpr hn)))
    have hp' : lowestLane ((s.mismatched k).laneCluster k).spare = some p := by rw [mismatched_cluster]; exact hp
    obtain ⟨hp26, hspare⟩ := lowestLane_mem hp
    have hne : i.toNat ≠ p := fun e => Bool.false_ne_true ((e ▸ hi).symm.trans hspare)
    have hs0 : ((s.mismatched k).laneCluster k).spare ≠ 0 := spare_ne_zero hp'
    have hc := laneRetire_cluster (s := s.mismatched k) (i := i) (spareRival_of_spare hs0 i)
    have hrep := laneLeave_replaced hp' (lt_of_lane ha) hne
    refine ⟨(s.mismatched k).laneRetire k i, exec_next rfl (congrArg settleAll hop), ?_⟩
    rw [hc]
    refine ⟨hrep.out, hrep.active, hrep.spare, ?_, ?_, ?_⟩
    · rw [getLsbD_setBitTo _ _ (lt_of_lane ha), if_pos rfl]
    · exact hrep.group.trans (by rw [mismatched_cluster])
    · rw [laneLeave_of_spare hp', mismatched_cluster]
  · have hop := (opMismatch_of_active h hr ha).trans ((if_neg (Bool.eq_false_iff.mp hb)).trans (if_neg (Nat.not_le.mpr hn)))
    have hp' : lowestLane ((s.mismatched k).laneCluster k).spare = none := by rw [mismatched_cluster]; exact hp
    have hc := laneRetire_cluster (s := s.mismatched k) (i := i) ((s.mismatched_rival k i).trans hriv)
    refine ⟨(s.mismatched k).laneRetire k i, exec_next rfl (congrArg settleAll hop), ?_⟩
    rw [hc, laneLeave_of_none hp', mismatched_cluster]
    refine ⟨?_, rfl, ?_⟩
    · rw [getLsbD_setBitTo _ _ (lt_of_lane ha), if_pos rfl]
    · rw [getLsbD_setBitTo _ _ (lt_of_lane ha), if_pos rfl]
  · have hop := (opMismatch_of_active h hr ha).trans ((if_neg (Bool.eq_false_iff.mp hb)).trans (if_pos hn))
    have hm := s.mismatched_eq k
    have hclk : (s.mismatched k).cal (regionOf k) = s.cal (regionOf k) := cal_of_clk (by rw [hm]) _
    have hnow : (s.mismatched k).now = s.now := by rw [hm]; rfl
    have houts : (s.mismatched k).outs = s.outs := by rw [hm]
    obtain ⟨hreg, hburst, hcode, hout⟩ := burstStart_below (s := s.mismatched k) (r := regionOf k) (by rw [hclk]; exact hcal)
    refine ⟨(s.mismatched k).burstStart (regionOf k), exec_next rfl (congrArg settleAll hop), ?_, hburst, ?_, ?_⟩
    · rw [hreg, hnow]
    · rw [hcode, hclk]
    · rw [← houts]
      exact hout
  · refine exec_next rfl (if_pos ?_)
    rw [hb, hspan]
    rfl
  · refine exec_next rfl (if_neg ?_)
    rcases h with h | h
    · rw [h]
      exact Bool.false_ne_true
    · rw [h, Bool.not_true, Bool.and_false]
      exact Bool.false_ne_true
  · refine exec_next rfl (if_pos ?_)
    rw [hr]
    rfl
  · refine exec_next rfl ((if_neg ?_).trans (if_pos hs))
    rw [hr, hl]
    exact Bool.false_ne_true
  · have hs : c.spare ≠ 0 := spare_ne_zero hp
    obtain ⟨hn26, hact⟩ := patrolLane_active hn
    obtain ⟨hp26, hspare⟩ := lowestLane_mem hp
    have hne := active_ne_spare hd hact hspare
    have hrep := laneLeave_replaced hp hn26 hne
    have hop := opPatrol_of_lane hr hl hs hn true
    refine ⟨_, exec_next rfl (hop.trans (if_pos rfl)), ?_⟩
    rw [setCluster_laneCluster_same]
    refine ⟨hrep.out, hrep.active, ?_, ?_, ?_, rfl⟩
    · rw [getLsbD_setBitTo _ _ hn26, if_pos rfl]
    · rw [getLsbD_setBitTo _ _ hn26, if_neg hne.symm]
      exact hrep.spare
    · rw [patrolled, laneLeave_of_spare hp]
  · have hs : c.spare ≠ 0 := spare_ne_zero hp
    obtain ⟨hn26, hact⟩ := patrolLane_active hn
    obtain ⟨hp26, hspare⟩ := lowestLane_mem hp
    have hne := active_ne_spare hd hact hspare
    have hrep := laneLeave_replaced hp hn26 hne
    have hop := opPatrol_of_lane hr hl hs hn false
    refine ⟨_, exec_next rfl (hop.trans (if_neg Bool.false_ne_true)), ?_⟩
    rw [laneCluster_of_lanes (gradeUpdate_rest _).2.1, setCluster_laneCluster_same]
    refine ⟨hrep.out, hrep.active, ?_, rfl, ?_⟩
    · rw [getLsbD_setBitTo _ _ hn26, if_pos rfl]
    · rw [patrolled, laneLeave_of_spare hp]
  · refine exec_next rfl (if_pos ?_)
    rcases h with h | h
    · rw [h]
      rfl
    · rw [h, Bool.or_true]
  · intro old
    have hop := opGhash_of_live hr hg
    refine ⟨fun ho => exec_next rfl (hop.trans ?_), fun ho => ⟨_, exec_next rfl (hop.trans (if_pos ?_)), ?_, ?_⟩⟩
    · have htake : (s.now :: old).take 4 = s.now :: old := List.take_of_length_le (by rw [List.length_cons]; omega)
      have hlen : ¬ (s.now :: old).length = 4 := by rw [List.length_cons]; omega
      dsimp only
      rw [htake, if_neg hlen]
    · have hlen : 3 ≤ (s.lanes.ghashTimes.filter fun t => inSpan s.now t 1000000).length := ho
      rw [List.length_take, List.length_cons]
      omega
    · rw [laneCluster_of_lanes (gradeUpdate_rest _).2.1]
      exact congrArg (·.ghashRetired) (setCluster_laneCluster_same _ .svc _)
    · refine List.IsSuffix.trans ?_ (gradeUpdate_rest _).2.2
      exact List.suffix_refl _
  · refine exec_next rfl (if_neg ?_)
    rw [hr]
    exact Bool.false_ne_true
  · intro w
    have hop : s.opMonitor r = s.warnRegion r := if_pos hr
    refine ⟨fun h => ⟨_, exec_next rfl hop, (warnRegion_below h).1⟩, fun h ht => exec_next rfl (hop.trans ?_),
      fun h ht hf => ?_⟩
    · obtain ⟨htimes, hnow⟩ := s.setCal_timing r (warned (s.cal r))
      rw [warnRegion_of_full h, timingFault_of_first (htimes.trans ht), hnow]
      rfl
    · obtain ⟨role, hstop⟩ := warnRegion_stops hr h ht hf
      exact ⟨_, role, exec_next rfl hop, hstop⟩

end Sys2Proof.Machine
end

section
/-! PROOFS. The trust core's enable writes (O36). -/

namespace Sys2Proof.Machine

namespace State

/-! ### A channel that is off -/

/-- What memory does for others where a channel is off: nothing new is offered on it, what waits is looked at by none. -/
structure Aside (c : ChanId) (s t : State) : Prop where
  clk : t.clk = s.clk
  idx : t.mem.idx = s.mem.idx
  waits : t.mem.waits = s.mem.waits
  out : ∀ q ∈ t.mem.out, q.ch = c → q ∈ s.mem.out
  outs : s.outs <:+ t.outs

theorem Aside.refl (c : ChanId) (s : State) : Aside c s s := ⟨rfl, rfl, rfl, fun _ h _ => h, List.suffix_refl _⟩

theorem Aside.trans {c : ChanId} {s t u : State} (h : Aside c s t) (g : Aside c t u) : Aside c s u :=
  ⟨g.clk.trans h.clk, g.idx.trans h.idx, g.waits.trans h.waits, fun q hq hc => h.out q (g.out q hq hc) hc, h.outs.trans g.outs⟩

/-- Nothing of memory's indices, waits and requests is touched. -/
theorem Aside.of_mem {c : ChanId} {s t : State} (hc : t.clk = s.clk) (hi : t.mem.idx = s.mem.idx) (hw : t.mem.waits = s.mem.waits)
    (ho : t.mem.out = s.mem.out) (h : s.outs <:+ t.outs) : Aside c s t :=
  ⟨hc, hi, hw, fun q hq _ => by rw [← ho]; exact hq, h⟩

theorem Aside.mcOn {c : ChanId} {s t : State} (h : Aside c s t) (n : ChanId) : t.mcOn n = s.mcOn n := by
  rw [State.mcOn, State.mcOn, h.clk]

theorem Aside.foldl {α : Type} {c : ChanId} {f : State → α → State} (h : ∀ s x, Aside c s (f s x)) (xs : List α) (s : State) :
    Aside c s (xs.foldl f s) := by
  induction xs generalizing s with
  | nil => exact .refl c s
  | cons x xs ih => exact (h s x).trans (ih _)

theorem memEnd_aside (c : ChanId) (s : State) (m : Master) (tag : Option MemTag) (d : Dpa) (st : Status) (a : Bool) :
    Aside c s (s.memEnd m tag d st a) := by
  have h : s.outs <:+ (s.memEnd m tag d st a).outs := (memEnd_keeps (K := 0x400100) (Keeps.refl _ s) (by decide)).grew
  refine .of_mem ?_ ?_ ?_ ?_ h <;> unfold memEnd <;> dsimp only <;> split <;> split <;> rfl

/-- An ended access that nobody else is told of is answered on its port (R45). -/
theorem memEnd_done {m : Master} {tag : Option MemTag} (h : memTold tag m = false) (s : State) (d : Dpa) (st : Status)
    (a : Bool) : .memDone m (lineDpa d) st ∈ (s.memEnd m tag d st a).outs := by
  unfold memEnd
  dsimp only
  rw [h, if_neg Bool.false_ne_true]
  split <;> exact List.mem_cons_self

/-- A request goes out on a channel that is on. -/
theorem mcIssue_aside {c : ChanId} {s t : State} (hc : s.mcOn c = false) {i : KeyIdx} {d : Dpa} {p : McPurpose}
    {w : Option (Line × BitVec 32)} {tag : Option MemTag} (h : s.mcIssue i d p w tag = some t) : Aside c s t := by
  unfold mcIssue at h
  dsimp only at h
  split at h
  · cases h
  · split at h
    · cases h
    · next hready =>
      have hne : dpaChan d ≠ c := by
        rintro rfl
        refine hready ?_
        rw [mcReady, hc]
        rfl
      have hout (q : McReq) (hq : q.ch ≠ c) : ∀ x ∈ s.mem.out ++ [q], x.ch = c → x ∈ s.mem.out := by
        intro x hx hxc
        rcases List.mem_append.mp hx with hx | hx
        · exact hx
        · rw [List.mem_singleton.mp hx] at hxc
          exact absurd hxc hq
      cases h
      cases w with
      | none => exact ⟨rfl, rfl, rfl, hout _ hne, List.suffix_cons _ _⟩
      | some x => exact ⟨rfl, rfl, rfl, hout _ hne, List.suffix_cons _ _⟩

theorem noteSealed_aside (c : ChanId) (s : State) (m : Master) (i : KeyIdx) (d : Dpa) : Aside c s (s.noteSealed m i d) := by
  have h : Keeps 0x042140 s (s.noteSealed m i d) := noteSealed_keeps (Keeps.refl _ s) (by decide)
  have hm := s.noteSealed_mem m i d
  exact .of_mem (h.clk.resolve_left (by decide)) (by rw [hm]; exact congrArg (·.idx) (s.useKey_mem _ 6))
    (by rw [hm]; exact congrArg (·.waits) (s.useKey_mem _ 6)) (by rw [hm]; exact congrArg (·.out) (s.useKey_mem _ 6)) h.grew

theorem mcWrite_aside {c : ChanId} {s t : State} (hc : s.mcOn c = false) {m : Master} {i : KeyIdx} {d : Dpa} {x : Line}
    {tag : Option MemTag} (h : s.mcWrite m i d x tag = some t) : Aside c s t := by
  unfold mcWrite at h
  split at h
  · cases h
    exact Aside.trans (t := s.record recKeyOrphan i.toNat) (.of_mem rfl rfl rfl rfl (List.suffix_cons _ _))
      (memEnd_aside c _ _ _ _ _ _)
  · obtain ⟨u, hu, rfl⟩ := Option.map_eq_some_iff.mp h
    exact (mcIssue_aside hc hu).trans (noteSealed_aside c u m i d)

theorem addConsumer_aside (c : ChanId) (s : State) (x : CtxId) (r : GroupRef) : Aside c s (s.addConsumer x r) :=
  .of_mem rfl rfl rfl rfl (List.suffix_refl _)

theorem memTry_aside {c : ChanId} {s t : State} (hc : s.mcOn c = false) {before : List MemWait} {w : MemWait}
    (h : s.memTry before w = some t) : Aside c s t := by
  unfold memTry at h
  dsimp only at h
  split at h
  · cases h
  · split at h
    · cases hm : masterCtx w.master with
      | none =>
        rw [hm] at h
        dsimp only at h
        split at h
        · cases h
        · obtain ⟨u, hu, rfl⟩ := Option.map_eq_some_iff.mp h
          exact mcIssue_aside hc hu
      | some x =>
        rw [hm] at h
        dsimp only at h
        split at h
        · cases h
        · obtain ⟨u, hu, rfl⟩ := Option.map_eq_some_iff.mp h
          exact (mcIssue_aside hc hu).trans (Aside.foldl (fun s r => s.addConsumer_aside c x r) _ u)
    · split at h
      · cases h
      · split at h
        · split at h
          · cases h
          · cases h
            exact .of_mem rfl rfl rfl rfl (List.suffix_refl _)
        · split at h
          · exact mcWrite_aside hc h
          · exact mcIssue_aside hc h

theorem noteWaits_aside (c : ChanId) (s : State) (w : MemWait) : Aside c s (s.noteWaits w) := by
  unfold noteWaits
  split
  · exact .of_mem rfl rfl rfl rfl (List.suffix_refl _)
  · exact .refl c s

/-- What a look at the waiting requests leaves of a channel that is off. -/
structure Emptied (c : ChanId) (s t : State) (ws : List MemWait) : Prop where
  clk : t.clk = s.clk
  idx : t.mem.idx = s.mem.idx
  out : ∀ q ∈ t.mem.out, q.ch = c → q ∈ s.mem.out
  outs : s.outs <:+ t.outs
  waits : ∀ w ∈ t.mem.waits, dpaChan w.dpa ≠ c
  told : ∀ w ∈ ws, dpaChan w.dpa = c → memTold w.tag w.master = false → .memDone w.master (lineDpa w.dpa) stFnOff ∈ t.outs

/-- A further request, done aside or ended, before the rest is looked at. -/
theorem Emptied.cons {c : ChanId} {s u t : State} {ws : List MemWait} {w : MemWait} (h : Aside c s u) (g : Emptied c u t ws)
    (hw : dpaChan w.dpa = c → memTold w.tag w.master = false → .memDone w.master (lineDpa w.dpa) stFnOff ∈ u.outs) :
    Emptied c s t (w :: ws) where
  clk := g.clk.trans h.clk
  idx := g.idx.trans h.idx
  out q hq hc := h.out q (g.out q hq hc) hc
  outs := h.outs.trans g.outs
  waits := g.waits
  told x hx hc ht := by
    rcases List.mem_cons.mp hx with rfl | hx
    · exact g.outs.subset (hw hc ht)
    · exact g.told x hx hc ht

theorem memPumpAux_emptied {c : ChanId} (ws kept : List MemWait) {s : State} (hc : s.mcOn c = false)
    (hk : ∀ w ∈ kept, dpaChan w.dpa ≠ c) : Emptied c s (memPumpAux ws kept s) ws := by
  induction ws generalizing kept s with
  | nil => exact ⟨rfl, rfl, fun _ h _ => h, List.suffix_refl _, hk, fun _ h => absurd h List.not_mem_nil⟩
  | cons w ws ih =>
    have hstep {u : State} (h : Aside c s u) {ks : List MemWait} (hks : ∀ w ∈ ks, dpaChan w.dpa ≠ c)
        (hw : dpaChan w.dpa = c → memTold w.tag w.master = false → .memDone w.master (lineDpa w.dpa) stFnOff ∈ u.outs) :
        Emptied c s (memPumpAux ws ks u) (w :: ws) := .cons h (ih ks ((h.mcOn c).trans hc) hks) hw
    rw [memPumpAux]
    split
    · exact hstep (memEnd_aside c s _ _ _ _ _) hk fun _ ht => memEnd_done ht s _ _ _
    · next hon =>
      have hne : dpaChan w.dpa ≠ c := by
        intro e
        rw [e, hc] at hon
        exact hon rfl
      split
      · next t ht => exact hstep (memTry_aside hc ht) hk fun e => absurd e hne
      · refine hstep (noteWaits_aside c s w) ?_ fun e => absurd e hne
        intro x hx
        rcases List.mem_append.mp hx with hx | hx
        · exact hk x hx
        · rw [List.mem_singleton.mp hx]
          exact hne

theorem fenceReleaseAux_aside {c : ChanId} (es kept : List FenceEntry) {s : State} (hc : s.mcOn c = false) :
    Aside c s (fenceReleaseAux es kept s) := by
  induction es generalizing kept s with
  | nil => exact .of_mem rfl rfl rfl rfl (List.suffix_refl _)
  | cons e es ih =>
    have hstep {u : State} (h : Aside c s u) (ks : List FenceEntry) : Aside c s (fenceReleaseAux es ks u) :=
      h.trans (ih ks ((h.mcOn c).trans hc))
    rw [fenceReleaseAux]
    split
    · next t ht =>
      refine hstep ?_ kept
      split at ht
      · cases ht
        exact memEnd_aside c s _ _ _ _ _
      · split at ht
        · cases ht
        · split at ht
          · exact mcWrite_aside hc ht
          · exact mcIssue_aside hc ht
    · exact ih _ hc

theorem fenceRelease_emptied {c : ChanId} {s : State} (hc : s.mcOn c = false) : Emptied c s s.fenceRelease s.mem.waits := by
  have ha := fenceReleaseAux_aside s.mem.fence [] hc
  have hp := memPumpAux_emptied (fenceReleaseAux s.mem.fence [] s).mem.waits [] ((ha.mcOn c).trans hc)
    fun _ h => absurd h List.not_mem_nil
  rw [ha.waits] at hp
  rw [fenceRelease, memPump, ha.waits]
  exact ⟨hp.clk.trans ha.clk, hp.idx.trans ha.idx, fun q hq h => ha.out q (hp.out q hq h) h, ha.outs.trans hp.outs, hp.waits,
    hp.told⟩

/-- The requests of a channel whose enable is cleared: the merged ones go, the others' answers are discarded. -/
def outOff (c : ChanId) (qs : List McReq) : List McReq :=
  (qs.filter fun q => !(q.ch == c && q.isMerged)).map fun q => if q.ch = c then { q with discard := true } else q

theorem outOff_discard {c : ChanId} {qs : List McReq} {q : McReq} (h : q ∈ outOff c qs) (hc : q.ch = c) : q.discard = true := by
  obtain ⟨x, -, rfl⟩ := List.mem_map.mp h
  split at hc
  · next hx => rw [if_pos hx]
  · next hx => exact absurd hc hx

/-- The state whose requests of the channel end. -/
def endedOff (s : State) (c : ChanId) : State :=
  (s.mem.out.filter fun q => q.ch == c && !q.discard).foldl (fun (s : State) q => s.memEnd q.master q.tag q.dpa stFnOff false)
    { s with mem := { s.mem with out := outOff c s.mem.out } }

theorem chanOff_eq (s : State) (c : ChanId) : s.chanOff c = (s.endedOff c).fenceRelease := rfl

theorem endedOff_aside (s : State) (c : ChanId) :
    Aside c { s with mem := { s.mem with out := outOff c s.mem.out } } (s.endedOff c) :=
  Aside.foldl (fun (u : State) (q : McReq) => u.memEnd_aside c q.master q.tag q.dpa stFnOff false) _ _

theorem foldl_memEnd_told {q : McReq} (ht : memTold q.tag q.master = false) (qs : List McReq) (s : State) (h : q ∈ qs) :
    .memDone q.master (lineDpa q.dpa) stFnOff ∈
      (qs.foldl (fun (s : State) q => s.memEnd q.master q.tag q.dpa stFnOff false) s).outs := by
  induction qs generalizing s with
  | nil => cases h
  | cons x qs ih =>
    rcases List.mem_cons.mp h with rfl | h
    · exact (Aside.foldl (c := 0) (fun (u : State) (q : McReq) => u.memEnd_aside 0 q.master q.tag q.dpa stFnOff false) qs _).outs.subset
        (memEnd_done ht s q.dpa stFnOff false)
    · exact ih _ h

theorem sweepsEnd_of_none {s : State} (h : ∀ j, (s.memIdx j).sweeping = false) : s.sweepsEnd = s := by
  have hnone : ((0 : KeyIdx) :: keyIdxs).filter (fun i => (s.memIdx i).sweeping) = [] :=
    List.filter_eq_nil_iff.mpr fun i _ => by rw [h i]; exact Bool.false_ne_true
  rw [sweepsEnd, hnone]
  rfl

/-- Clearing a channel's enable ends what it has and what waits for it (R35, R96). -/
theorem chanOff_emptied {s : State} {c : ChanId} (hc : s.mcOn c = false) (hs : ∀ j, (s.memIdx j).sweeping = false) :
    (s.chanOff c).sweepsEnd.mcOn c = false ∧ (∀ w ∈ (s.chanOff c).sweepsEnd.mem.waits, dpaChan w.dpa ≠ c) ∧
    (∀ q ∈ (s.chanOff c).sweepsEnd.mem.out, q.ch = c → q.discard = true) ∧
    (∀ w ∈ s.mem.waits, dpaChan w.dpa = c → memTold w.tag w.master = false →
      .memDone w.master (lineDpa w.dpa) stFnOff ∈ (s.chanOff c).sweepsEnd.outs) ∧
    ∀ q ∈ s.mem.out, q.ch = c → q.discard = false → memTold q.tag q.master = false →
      .memDone q.master (lineDpa q.dpa) stFnOff ∈ (s.chanOff c).sweepsEnd.outs := by
  have ha := s.endedOff_aside c
  have hoff : (s.endedOff c).mcOn c = false := (ha.mcOn c).trans hc
  have he := fenceRelease_emptied hoff
  have hwaits : (s.endedOff c).mem.waits = s.mem.waits := ha.waits
  have hidle : (s.chanOff c).sweepsEnd = s.chanOff c := by
    refine sweepsEnd_of_none fun j => ?_
    rw [chanOff_eq, memIdx, he.idx, ha.idx]
    exact hs j
  rw [hidle, chanOff_eq]
  rw [hwaits] at he
  refine ⟨?_, he.waits, fun q hq hqc => outOff_discard (ha.out q (he.out q hq hqc) hqc) hqc, he.told, fun q hq hqc hd ht => ?_⟩
  · rw [mcOn, he.clk]
    exact hoff
  · refine he.outs.subset (foldl_memEnd_told ht _ _ (List.mem_filter.mpr ⟨hq, ?_⟩))
    rw [hqc, hd, beq_self_eq_true]
    rfl

/-! ### A channel comes on, and a link goes -/

theorem fenceRelease_of_empty {s : State} (hf : s.mem.fence = []) (hw : s.mem.waits = []) : s.fenceRelease = s := by
  have h1 : fenceReleaseAux s.mem.fence [] s = s := by
    rw [hf, fenceReleaseAux, ← hf]
  rw [fenceRelease, h1, memPump, hw, memPumpAux, ← hw]

theorem mergedGo_of_none {s : State} (hf : s.mem.fence = []) (hw : s.mem.waits = []) (hm : ∀ q ∈ s.mem.out, q.isMerged = false)
    (c : ChanId) : s.mergedGo c = s := by
  have hnone : s.mem.out.filter (fun q => q.isMerged && q.ch == c) = [] :=
    List.filter_eq_nil_iff.mpr fun q hq => by rw [hm q hq]; exact Bool.false_ne_true
  have hall : s.mem.out.filter (fun q => !(q.isMerged && q.ch == c)) = s.mem.out :=
    List.filter_eq_self.mpr fun q hq => by rw [hm q hq]; rfl
  unfold mergedGo
  dsimp only
  split
  · rfl
  · rw [hnone, hall, List.foldl_nil]
    exact fenceRelease_of_empty hf hw

theorem linkFall_phase (s : State) (l : LinkId) : ((s.linkFall l).link l).core.phase = .down := by
  unfold linkFall
  dsimp only
  rw [setPhase_core]

/-! ### The writes -/

theorem mcOn_cleared (s : State) (c : ChanId) :
    ({ s with clk := { s.clk with enMc := setBitTo s.clk.enMc c.toNat false } } : State).mcOn c = false :=
  (getLsbD_setBitTo _ false c.isLt _).trans (if_pos rfl)

theorem opEnable_of_running {s : State} (hr : s.running = true) {x : EnTarget} {b : Bool}
    (h : x = .port (BitVec.ofNat 3 portStaging) → b = true → s.portOn portStaging = true) :
    s.opEnable x b = s.setEnable x b := by
  rw [opEnable, hr, Bool.not_true, if_neg Bool.false_ne_true]
  refine if_neg fun hc => ?_
  obtain ⟨hc, hp⟩ := Bool.and_eq_true_iff.mp hc
  obtain ⟨hx, hb⟩ := Bool.and_eq_true_iff.mp hc
  rw [h (eq_of_beq hx) hb] at hp
  cases hp

end State

open State in
/-- Settles O36: each enable by its branch, a channel's clearing through what the pump leaves of the channel. -/
theorem functionEnables : Obligations.FunctionEnables := by
  intro s same becomes
  have set {x : EnTarget} {b : Bool} {u : State} (h : s.opEnable x b = u) : becomes x b u :=
    exec_next rfl (congrArg settleAll h)
  refine ⟨fun x b hr => set (if_pos (by rw [hr]; rfl)), fun hr => ?_⟩
  have enable (x : EnTarget) (b : Bool) (hx : ∀ n, x ≠ .port n) : s.opEnable x b = s.setEnable x b :=
    opEnable_of_running hr fun h => absurd h (hx _)
  refine ⟨fun f b => ?_, fun n b h => ?_, fun n b h10 hne hon hoff => ?_, fun n b h => ?_, fun n h6 hp => ?_, fun n hn hp => ?_,
    fun c b h => ?_, fun c hc hs => ?_, fun c hc hf hw hm => ?_, fun l b h => ?_, fun l b hne hup => ?_, fun l hl hup => ?_⟩
  · exact set (enable (.fn f) b nofun)
  · exact set ((enable (.area n) b nofun).trans (if_pos h))
  · have h1 : ¬ (10 ≤ n.toNat ∨ s.areaOn n.toNat = b ∨ (b = true ∧ n.toNat = areaReduction ∧ s.poolRole = true)) := by
      rintro (h | h | ⟨hb, hn, hpool⟩)
      · omega
      · exact hne h
      · rcases hon hb with h | h
        · exact h hn
        · exact Bool.false_ne_true (h.symm.trans hpool)
    have h2 : ¬ (n.toNat = areaTelemetry ∧ (!b) = true) := by
      rintro ⟨hn, hb⟩
      exact hoff (by rw [Bool.not_eq_true'] at hb; exact hb) hn
    exact set ((enable (.area n) b nofun).trans ((if_neg h1).trans (if_neg h2)))
  · have hcond : 6 ≤ n.toNat ∨ s.portOn n.toNat = b ∨ (b = true ∧ n.toNat = portDelivery ∧ s.poolRole = true) ∨
        (b = true ∧ n.toNat = portFlash ∧ s.clk.flashDone = true) := by
      rcases h with h | h | h
      · exact .inl h
      · exact .inr (.inl h)
      · exact .inr (.inr (.inl h))
    refine set ((opEnable_of_running (x := .port n) hr fun hx hb => ?_).trans (if_pos hcond))
    injection hx with hx
    subst hx hb
    rcases h with h | h | ⟨-, h, -⟩
    · exact absurd h (by decide)
    · exact h
    · exact absurd h (by decide)
  · have hcond : ¬ (6 ≤ n.toNat ∨ s.portOn n.toNat = false ∨ (false = true ∧ n.toNat = portDelivery ∧ s.poolRole = true) ∨
        (false = true ∧ n.toNat = portFlash ∧ s.clk.flashDone = true)) := by
      rintro (h | h | ⟨h, -⟩ | ⟨h, -⟩)
      · omega
      · exact Bool.false_ne_true (h.symm.trans hp)
      · exact Bool.false_ne_true h
      · exact Bool.false_ne_true h
    exact set ((opEnable_of_running (x := .port n) hr fun _ h => absurd h Bool.false_ne_true).trans
      ((if_neg hcond).trans (if_pos rfl)))
  · have hcond : ¬ (6 ≤ n.toNat ∨ s.portOn n.toNat = true ∨ (true = true ∧ n.toNat = portDelivery ∧ s.poolRole = true) ∨
        (true = true ∧ n.toNat = portFlash ∧ s.clk.flashDone = true)) := by
      rw [hn]
      rw [hn] at hp
      rintro (h | h | ⟨-, h, -⟩ | ⟨-, h, -⟩)
      · exact absurd h (by decide)
      · exact Bool.false_ne_true (hp.symm.trans h)
      · exact absurd h (by decide)
      · exact absurd h (by decide)
    refine set ((opEnable_of_running (x := .port n) hr fun hx _ => ?_).trans ((if_neg hcond).trans ((if_neg ?_).trans
      ((if_neg ?_).trans ((if_neg ?_).trans ((if_neg ?_).trans (if_neg ?_)))))))
    · injection hx with hx
      rw [hx] at hn
      exact absurd hn (by decide)
    · exact Bool.false_ne_true
    all_goals
      rw [hn]
      decide
  · exact set ((enable (.mc c) b nofun).trans (if_pos h))
  · have hne : ¬ s.mcOn c = false := by rw [hc]; exact Bool.false_ne_true.symm
    have hoff := chanOff_emptied (s := { s with clk := { s.clk with enMc := setBitTo s.clk.enMc c.toNat false } }) (c := c)
      (mcOn_cleared s c) hs
    exact ⟨_, set ((enable (.mc c) false nofun).trans ((if_neg hne).trans (if_neg Bool.false_ne_true))), hoff⟩
  · have hne : ¬ s.mcOn c = true := by rw [hc]; exact Bool.false_ne_true
    have hgo := mergedGo_of_none (s := ({ s with clk := { s.clk with enMc := setBitTo s.clk.enMc c.toNat true } } : State).modChan c
      fun k => { k with sweepPtr := [] }) hf hw hm c
    have hrel := fenceRelease_of_empty (s := ({ s with clk := { s.clk with enMc := setBitTo s.clk.enMc c.toNat true } } :
      State).modChan c fun k => { k with sweepPtr := [] }) hf hw
    refine ⟨_, set ((enable (.mc c) true nofun).trans ((if_neg hne).trans ((if_pos rfl).trans
      ((congrArg fenceRelease hgo).trans hrel)))), ?_, ?_, rfl⟩
    · exact (getLsbD_setBitTo _ true c.isLt _).trans (if_pos rfl)
    · rw [modChan_chan_same]
  · exact set ((enable (.link l) b nofun).trans (if_pos h))
  · refine set ((enable (.link l) b nofun).trans ((if_neg hne).trans ?_))
    cases b with
    | true => exact (if_pos rfl).trans (if_neg (by rw [link] at hup; exact Bool.eq_false_iff.mp hup))
    | false =>
      refine (if_neg Bool.false_ne_true).trans ?_
      rw [if_neg (Bool.eq_false_iff.mp hup)]
  · have hne : ¬ s.linkOn l = false := by rw [hl]; exact Bool.false_ne_true.symm
    have hop : s.setEnable (.link l) false = { s.linkFall l with
        clk := { (s.linkFall l).clk with enLink := setBitTo s.clk.enLink l.toNat false } } := by
      refine (if_neg hne).trans ((if_neg Bool.false_ne_true).trans ?_)
      rw [if_pos hup]
    have hphase := s.linkFall_phase l
    generalize s.linkFall l = u at hop hphase
    refine ⟨_, set ((enable (.link l) false nofun).trans hop), ?_, hphase⟩
    exact (getLsbD_setBitTo _ false l.isLt _).trans (if_pos rfl)

end Sys2Proof.Machine
end

section
/-! PROOFS. What memory leaves of the front end, and the host's events at the staging port (O37). -/

namespace Sys2Proof.Machine

namespace State

/-! ### What memory does to the front end: the activity of contexts, and nothing else -/

/-- The front end is the same but for the activity counters of contexts. -/
structure Acted (s t : State) : Prop where
  fe : t.fe = { s.fe with ctxs := t.fe.ctxs }
  ctx : ∀ c, ∃ n, t.ctx c = { s.ctx c with activity := n }

theorem Acted.of_fe {s t : State} (h : t.fe = s.fe) : Acted s t :=
  ⟨by rw [h], fun c => ⟨(s.ctx c).activity, by rw [State.ctx, h, ← State.ctx]⟩⟩

theorem Acted.refl (s : State) : Acted s s := .of_fe rfl

theorem Acted.trans {s t u : State} (h : Acted s t) (g : Acted t u) : Acted s u where
  fe := by rw [g.fe, h.fe]
  ctx c := by
    obtain ⟨m, hm⟩ := h.ctx c
    obtain ⟨n, hn⟩ := g.ctx c
    exact ⟨n, by rw [hn, hm]⟩

theorem Acted.foldl {α : Type} {f : State → α → State} (h : ∀ s x, Acted s (f s x)) (xs : List α) (s : State) :
    Acted s (xs.foldl f s) := by
  induction xs generalizing s with
  | nil => exact .refl s
  | cons x xs ih => exact (h s x).trans (ih _)

theorem Acted.func {s t : State} (h : Acted s t) (f : Fn) : t.func f = s.func f := by rw [State.func, h.fe, ← State.func]

theorem Acted.cmds {s t : State} (h : Acted s t) : t.fe.cmds = s.fe.cmds := by rw [h.fe]

theorem activity_acted (s : State) (c : Option CtxId) (n : Nat) : Acted s (s.activity c n) := by
  cases c with
  | none => exact .of_fe rfl
  | some x =>
    refine ⟨rfl, fun c => ?_⟩
    rcases eq_or_ne c x with rfl | hne
    · exact ⟨_, modCtx_ctx_same _ _ _⟩
    · exact ⟨_, modCtx_ctx_ne _ _ _ _ hne⟩

theorem memEnd_acted (s : State) (m : Master) (tag : Option MemTag) (d : Dpa) (st : Status) (a : Bool) :
    Acted s (s.memEnd m tag d st a) :=
  .of_fe ((memEnd_keeps (K := 0x400100) (Keeps.refl _ s) (by decide)).fe.resolve_left (by decide))

theorem mcIssue_acted {s t : State} {i : KeyIdx} {d : Dpa} {p : McPurpose} {w : Option (Line × BitVec 32)}
    {tag : Option MemTag} (h : s.mcIssue i d p w tag = some t) : Acted s t :=
  .of_fe ((mcIssue_keeps (K := 0x510100) (Keeps.refl _ s) (by decide) t h).fe.resolve_left (by decide))

theorem noteSealed_acted (s : State) (m : Master) (i : KeyIdx) (d : Dpa) : Acted s (s.noteSealed m i d) := by
  unfold noteSealed
  dsimp only
  refine Acted.trans (.of_fe ?_) (activity_acted _ _ _)
  have h : Keeps 0x4FDFFF s (s.useKey (s.writeRowOf i) 6) := useKey_keeps (Keeps.refl _ s) (by decide)
  have hw := modChan_keeps (c := dpaChan d) (f := fun c => { c with written := setBitTo c.written i.toNat true }) h (by decide)
  split
  · exact (meter_keeps hw (by decide)).fe.resolve_left (by decide)
  · exact hw.fe.resolve_left (by decide)

theorem mcWrite_acted {s t : State} {m : Master} {i : KeyIdx} {d : Dpa} {x : Line} {tag : Option MemTag}
    (h : s.mcWrite m i d x tag = some t) : Acted s t := by
  unfold mcWrite at h
  split at h
  · cases h
    exact Acted.trans (t := s.record recKeyOrphan i.toNat) (.of_fe rfl) (memEnd_acted _ _ _ _ _ _)
  · obtain ⟨u, hu, rfl⟩ := Option.map_eq_some_iff.mp h
    exact (mcIssue_acted hu).trans (noteSealed_acted u m i d)

theorem addConsumer_acted (s : State) (x : CtxId) (r : GroupRef) : Acted s (s.addConsumer x r) := .of_fe rfl

theorem memTry_acted {s t : State} {before : List MemWait} {w : MemWait} (h : s.memTry before w = some t) : Acted s t := by
  unfold memTry at h
  dsimp only at h
  split at h
  · cases h
  · split at h
    · cases hm : masterCtx w.master with
      | none =>
        rw [hm] at h
        dsimp only at h
        split at h
        · cases h
        · obtain ⟨u, hu, rfl⟩ := Option.map_eq_some_iff.mp h
          exact mcIssue_acted hu
      | some x =>
        rw [hm] at h
        dsimp only at h
        split at h
        · cases h
        · obtain ⟨u, hu, rfl⟩ := Option.map_eq_some_iff.mp h
          exact (mcIssue_acted hu).trans (Acted.foldl (fun s r => s.addConsumer_acted x r) _ u)
    · split at h
      · cases h
      · split at h
        · split at h
          · cases h
          · cases h
            exact .of_fe rfl
        · split at h
          · exact mcWrite_acted h
          · exact mcIssue_acted h

theorem noteWaits_acted (s : State) (w : MemWait) : Acted s (s.noteWaits w) := by
  unfold noteWaits
  split
  · exact .of_fe rfl
  · exact .refl s

theorem memPumpAux_acted (ws kept : List MemWait) (s : State) : Acted s (memPumpAux ws kept s) := by
  induction ws generalizing kept s with
  | nil => exact .of_fe rfl
  | cons w ws ih =>
    rw [memPumpAux]
    split
    · exact (memEnd_acted s _ _ _ _ _).trans (ih kept _)
    · split
      · next t ht => exact (memTry_acted ht).trans (ih kept t)
      · exact (noteWaits_acted s w).trans (ih _ _)

theorem memPump_acted (s : State) : Acted s s.memPump := memPumpAux_acted _ _ s

theorem fenceReleaseAux_acted (es kept : List FenceEntry) (s : State) : Acted s (fenceReleaseAux es kept s) := by
  induction es generalizing kept s with
  | nil => exact .of_fe rfl
  | cons e es ih =>
    rw [fenceReleaseAux]
    split
    · next t ht =>
      refine Acted.trans ?_ (ih kept t)
      split at ht
      · cases ht
        exact memEnd_acted s _ _ _ _ _
      · split at ht
        · cases ht
        · split at ht
          · exact mcWrite_acted ht
          · exact mcIssue_acted ht
    · exact ih _ s

theorem fenceRelease_acted (s : State) : Acted s s.fenceRelease := (fenceReleaseAux_acted _ _ s).trans (memPump_acted _)

theorem memDropTag_acted (s : State) (tag : MemTag) : Acted s (s.memDropTag tag) := by
  unfold memDropTag
  refine Acted.trans ?_ (fenceRelease_acted _)
  exact .of_fe rfl

/-! ### The commands in flight -/

@[simp] theorem modCmd_cmds (s : State) (c : CtxId) (q : BitVec 3) (k : Word) (f : Cmd → Cmd) :
    (s.modCmd c q k f).fe.cmds = s.fe.cmds.map fun x => if cmdIs c q k x then f x else x := rfl

theorem cmdIs_self (x : Cmd) : cmdIs x.ctx x.queue x.k x = true := by simp [cmdIs]

/-- A command found is the named one. -/
theorem findCmd_key {s : State} {c : CtxId} {q : BitVec 3} {k : Word} {y : Cmd} (h : s.findCmd c q k = some y) :
    cmdIs c q k y = true := List.find?_some h

/-- A change of a command that leaves its name is found again under it. -/
theorem findCmd_modCmd {s : State} {c : CtxId} {q : BitVec 3} {k : Word} {f : Cmd → Cmd} {y : Cmd}
    (hf : ∀ x, cmdIs c q k (f x) = cmdIs c q k x) (h : s.findCmd c q k = some y) :
    (s.modCmd c q k f).findCmd c q k = some (f y) := by
  have hp (x : Cmd) : cmdIs c q k (if cmdIs c q k x then f x else x) = cmdIs c q k x := by
    split
    · exact hf x
    · rfl
  rw [findCmd, modCmd_cmds, List.find?_map]
  rw [show (cmdIs c q k ∘ fun x => if cmdIs c q k x then f x else x) = cmdIs c q k from funext hp]
  rw [findCmd] at h
  rw [h, Option.map_some, if_pos (List.find?_some h)]

/-! ### A staging command that fails with the host -/

/-- A command that has not failed fails with ST_HOST_DMA. -/
def failedDma (y : Cmd) : Cmd :=
  if (match y.result with
    | none => true
    | some r => r.1 == stOk) then { y with result := some (stHostDma, 0), blocks := 0 } else y

theorem failedDma_of_running {y : Cmd} (h : y.result = none) :
    failedDma y = { y with result := some (stHostDma, 0), blocks := 0 } := by rw [failedDma, h]; rfl

theorem cmdIs_failedDma (c : CtxId) (q : BitVec 3) (k : Word) (y : Cmd) : cmdIs c q k (failedDma y) = cmdIs c q k y := by
  unfold failedDma
  cases y.result with
  | none => rfl
  | some r => cases h : r.1 == stOk <;> simp [h, cmdIs]

theorem hostFail_eq (s : State) (x : Cmd) :
    s.hostFail x = (s.memDropTag (.cmd x.ctx x.queue x.k)).modCmd x.ctx x.queue x.k failedDma := rfl

theorem hostFail_cmds (s : State) (x : Cmd) :
    (s.hostFail x).fe.cmds = s.fe.cmds.map fun y => if cmdIs x.ctx x.queue x.k y then failedDma y else y := by
  rw [hostFail_eq, modCmd_cmds, (memDropTag_acted s _).cmds]

theorem hostFail_found {s : State} {x : Cmd} {c : CtxId} {q : BitVec 3} {k : Word} (h : s.findCmd c q k = some x)
    (hr : x.result = none) :
    (s.hostFail x).findCmd c q k = some { x with result := some (stHostDma, 0), blocks := 0 } := by
  have hx := findCmd_key h
  obtain ⟨⟨rfl, rfl⟩, rfl⟩ : (x.ctx = c ∧ x.queue = q) ∧ x.k = k := by simpa [cmdIs] using hx
  rw [hostFail_eq, ← failedDma_of_running hr]
  refine findCmd_modCmd (cmdIs_failedDma _ _ _) ?_
  rwa [findCmd, (memDropTag_acted s _).cmds]

theorem hostFail_foldl_length (xs : List Cmd) (s : State) : (xs.foldl hostFail s).fe.cmds.length = s.fe.cmds.length := by
  induction xs generalizing s with
  | nil => rfl
  | cons x xs ih => exact (ih _).trans (by rw [hostFail_cmds, List.length_map])

/-- A command that is among those, and has not ended, fails; one that has failed so stays. -/
theorem hostFail_foldl {y : Cmd} (hr : y.result = none) (xs : List Cmd) (s : State) :
    failedDma y ∈ s.fe.cmds ∨ (y ∈ s.fe.cmds ∧ y ∈ xs) → failedDma y ∈ (xs.foldl hostFail s).fe.cmds := by
  induction xs generalizing s with
  | nil => exact fun h => h.elim id fun h => absurd h.2 List.not_mem_nil
  | cons x xs ih =>
    have hfix : failedDma (failedDma y) = failedDma y := by rw [failedDma_of_running hr]; rfl
    intro h
    refine ih (s.hostFail x) ?_
    rw [hostFail_cmds]
    rcases h with h | ⟨h, hx⟩
    · refine .inl (List.mem_map.mpr ⟨_, h, ?_⟩)
      rw [hfix]
      split <;> rfl
    · by_cases hk : cmdIs x.ctx x.queue x.k y = true
      · exact .inl (List.mem_map.mpr ⟨y, h, if_pos hk⟩)
      · refine .inr ⟨List.mem_map.mpr ⟨y, h, if_neg hk⟩, ?_⟩
        rcases List.mem_cons.mp hx with rfl | hx
        · exact absurd (cmdIs_self y) hk
        · exact hx

/-! ### A Function Level Reset -/

theorem running_of_stgPortOn {s : State} (h : s.stgPortOn = true) : s.running = true ∧ s.portOn portStaging = true := by
  simpa [stgPortOn] using h

/-- A virtual function's reset has begun. -/
def flrBegun (s : State) (f : Fn) : State :=
  (s.modFunc f fun k => { k with flrPending := true, phase := if (s.func f).phase = .opened then .draining else (s.func f).phase }).msiPf

@[simp] theorem msiPf_fe (s : State) : s.msiPf.fe = s.fe := by
  unfold msiPf msi
  split <;> rfl

@[simp] theorem msiPf_clk (s : State) : s.msiPf.clk = s.clk := by
  unfold msiPf msi
  split <;> rfl

@[simp] theorem msiPf_red (s : State) : s.msiPf.red = s.red := by
  unfold msiPf msi
  split <;> rfl

theorem flrBegun_func {s : State} {f : Fn} (h : (s.func f).phase = .opened) :
    (s.flrBegun f).func f = { s.func f with phase := .draining, flrPending := true } := by
  rw [flrBegun, func, msiPf_fe, ← func, modFunc_func_same, if_pos h]

theorem flrBegun_ctxsOfFn (s : State) (f g : Fn) : (s.flrBegun f).ctxsOfFn g = s.ctxsOfFn g := by
  have h : (s.flrBegun f).fe.ctxs = s.fe.ctxs := by rw [flrBegun, msiPf_fe]; rfl
  unfold ctxsOfFn liveCtxs ctx
  rw [h]

theorem flrBegun_fnWork (s : State) (f : Fn) : (s.flrBegun f).fnWork f = s.fnWork f := by
  have hc : (s.flrBegun f).fe.ctxs = s.fe.ctxs := by rw [flrBegun, msiPf_fe]; rfl
  have hm : (s.flrBegun f).fe.cmds = s.fe.cmds := by rw [flrBegun, msiPf_fe]; rfl
  have hr : (s.flrBegun f).red = s.red := msiPf_red _
  have hf : ((s.flrBegun f).func f).mbx = (s.func f).mbx := by
    rw [flrBegun, func, msiPf_fe, ← func, modFunc_func_same]
  unfold fnWork progsInUse prog ctx
  rw [hc, hm, hr, hf]

theorem flr_of_running {s : State} (h : s.stgPortOn = true) {f : Fn} (hf : f ≠ 0) (hp : (s.func f).phase = .opened) :
    s.flr f = if !s.fnWork f ∨ (s.ctxsOfFn f).isEmpty then (s.flrBegun f).retireFn f else s.flrBegun f := by
  have hon := running_of_stgPortOn h
  rw [flr, hon.1, hon.2, if_neg (by decide), if_neg hf]
  split
  · next e => rw [hp] at e; cases e
  · dsimp only
    rw [← flrBegun, flrBegun_fnWork, flrBegun_ctxsOfFn, hp]
    simp only [reduceCtorEq, false_or]

/-- The end of a staging session keeps what a Function Level Reset has left pending, and the enables. -/
theorem sessEnd_func (s : State) (f : Fn) :
    (((s.sessEnd f).func f).flrPending = (s.func f).flrPending) ∧ (s.sessEnd f).clk = s.clk := by
  have hr (t : State) (c : CtxId) (k : Word) : (t.cmdResult c 1 k stKeyOrphan 0).func f = t.func f := rfl
  have hi : Keeps 0x000040 s (((s.keyInvalidateRow (rowSss f)).eraseRow (rowStage f 0)).eraseRow (rowStage f 1)) :=
    eraseRow_keeps (eraseRow_keeps (keyInvalidateRow_keeps (Keeps.refl _ s) (by decide)) (by decide)) (by decide)
  have hk : Keeps 0x552340 s (s.sessEnd f) := sessEnd_keeps (Keeps.refl _ s) (by decide)
  refine ⟨?_, hk.clk.resolve_left (by decide)⟩
  unfold sessEnd modSess
  dsimp only
  rw [modFunc_func_same]
  have hfe := hi.fe.resolve_left (by decide)
  generalize ((s.keyInvalidateRow (rowSss f)).eraseRow (rowStage f 0)).eraseRow (rowStage f 1) = t at hfe ⊢
  have ht : t.func f = s.func f := by rw [func, hfe, ← func]
  cases (s.sessOf f).rekeyIn <;> cases (s.sessOf f).rekeyOut <;> dsimp only <;> simp only [hr, ht]

theorem sessDrop_func (s : State) (f : Fn) :
    (((s.sessDrop f).func f).flrPending = (s.func f).flrPending) ∧ (s.sessDrop f).clk = s.clk := by
  have hk : Keeps 0x552340 s (s.sessDrop f) := sessDrop_keeps (Keeps.refl _ s) (by decide)
  refine ⟨?_, hk.clk.resolve_left (by decide)⟩
  unfold sessDrop modSess
  dsimp only
  rw [modFunc_func_same]
  split
  · rw [(memPump_acted _).func]
    exact (sessEnd_func s f).1
  · rfl

/-- A function that is retired. -/
def retired (k : Func) : Func := { k with phase := .closed, mbx := {}, spdm := 0, idle := [], qsel := 0, flrPending := false }

theorem retireFn_of_empty {s : State} {f : Fn} (h : s.ctxsOfFn f = []) (hp : (s.func f).flrPending = true)
    (hon : s.portOn portStaging = true) :
    ((s.retireFn f).func f).phase = .closed ∧ ((s.retireFn f).func f).flrPending = false ∧ (s.retireFn f).fnOn f = false ∧
      (s.retireFn f).outs.head? = some (.flrAck f) := by
  obtain ⟨hpend, hclk⟩ := s.sessDrop_func f
  unfold retireFn
  dsimp only
  rw [h, List.foldl_nil, hpend, hp, if_pos rfl]
  generalize s.sessDrop f = u at hclk ⊢
  have hport : u.clk.enPort.getLsbD portStaging = true := by rw [hclk]; exact hon
  rw [flrAckPut, if_pos (by exact hport)]
  refine ⟨congrArg Func.phase (modFunc_func_same u f retired), congrArg Func.flrPending (modFunc_func_same u f retired), ?_, rfl⟩
  exact (getLsbD_setBitTo _ _ f.isLt _).trans (if_pos rfl)

theorem flrPf_left (s : State) : s.flrPf.outs.head? = some (.flrAck 0) ∧ s.flrPf.tel.run = false ∧
    s.flrPf.ctx 0 = { phase := .active } := by
  unfold flrPf
  dsimp only
  generalize (modFunc _ 0 _) = u
  exact ⟨rfl, rfl, setCtx_ctx_same _ _ _⟩

/-! ### The obligation -/

section
variable {s : State}

/-- An entry of the table of host reads. -/
def withRead (s : State) (id : BitVec 8) (v : Option DmaRead) : State :=
  { s with fe := { s.fe with dmaReads := Tab.set none s.fe.dmaReads id.toNat v } }

theorem opDmaRead_of_left {id : BitVec 8} {x : DmaRead} (hx : Tab.get none s.fe.dmaReads id.toNat = some x) {n : BitVec 13}
    (hn : n.toNat ≤ x.left) (st : BitVec 2) (last : Bool) :
    s.opDmaRead id st n last = if st ≠ 0 then
      (match s.findCmd x.ctx x.queue x.k with
       | some y => if x.gone then s.withRead id none else (s.withRead id none).hostFail y
       | none => s.withRead id none)
    else s.withRead id (if last then none else some { x with left := x.left - n.toNat }) := by
  rw [opDmaRead, hx]
  dsimp only
  rw [if_neg (Nat.not_lt.mpr hn)]
  rfl

theorem portViolation_staging (s : State) (kind : BitVec 2) :
    (s.portViolation 1 0 0 kind).glb.peStaging = true ∧ (s.portViolation 1 0 0 kind).glb.peMc = s.glb.peMc ∧
      (s.portViolation 1 0 0 kind).glb.peCount = satInc s.glb.peCount ∧
      s.portViolation 1 0 0 kind = { s with glb := (s.portViolation 1 0 0 kind).glb } := by
  unfold portViolation
  dsimp only
  refine ⟨?_, ?_, ?_, rfl⟩ <;> split <;> simp

end

end State

/-- Settles O37: each event of the staging port by what it does to the function, the read or the command it names. -/
theorem hostPort : Obligations.HostPort := by
  unfold Obligations.HostPort
  intro s f
  refine ⟨fun hoff => ?_, fun hon => ⟨fun hf hp => ?_, fun hf hp hw hc => ?_, fun hf hp hc => ?_, ?_⟩, ?_,
    fun _ kind => s.portViolation_staging kind, fun hr ha => ?_, fun h => ?_⟩
  · have hflr : s.flr f = s.flrKeep f := by
      refine if_pos ?_
      cases hr : s.running <;> simp_all [State.stgPortOn]
    refine ⟨fun h => exec_next rfl (congrArg State.settleAll (hflr.trans ?_)),
      fun h => exec_next rfl (congrArg State.settleAll (hflr.trans ?_))⟩
    · exact if_pos (List.contains_iff_mem.mpr h)
    · exact if_neg fun e => h (List.contains_iff_mem.mp e)
  · refine exec_next rfl (congrArg State.settleAll ?_)
    have h := State.running_of_stgPortOn hon
    rw [State.flr, h.1, h.2, if_neg (by decide), if_neg hf, hp]
  · refine ⟨s.flrBegun f, exec_next rfl (congrArg State.settleAll ?_), State.flrBegun_func hp⟩
    rw [State.flr_of_running hon hf hp, hw, if_neg (by simpa using hc)]
  · refine ⟨(s.flrBegun f).retireFn f, exec_next rfl (congrArg State.settleAll ?_), State.retireFn_of_empty ?_ ?_ ?_⟩
    · rw [State.flr_of_running hon hf hp, hc, if_pos (.inr rfl)]
    · rw [State.flrBegun_ctxsOfFn, hc]
    · rw [State.flrBegun_func hp]
    · rw [State.portOn, State.flrBegun, State.msiPf_clk]
      have h := State.running_of_stgPortOn hon
      exact h.2
  · refine ⟨s.flrPf, exec_next rfl (congrArg State.settleAll ?_), s.flrPf_left⟩
    have h := State.running_of_stgPortOn hon
    rw [State.flr, h.1, h.2, if_neg (by decide), if_pos rfl]
  · intro id st n last violates left
    refine ⟨fun h => exec_next rfl (congrArg State.settleAll ?_), fun x hx => ⟨fun hn => ?_, fun hn hst => ?_,
      fun hn hst hg => ?_, fun y hn hst hg hy hr => ?_⟩⟩
    · rw [State.opDmaRead, h]
    · refine exec_next rfl (congrArg State.settleAll ?_)
      rw [State.opDmaRead, hx]
      exact if_pos hn
    · refine exec_next rfl (congrArg State.settleAll ?_)
      rw [State.opDmaRead_of_left hx hn, if_neg (not_not_intro hst)]
      rfl
    · refine exec_next rfl (congrArg State.settleAll ?_)
      rw [State.opDmaRead_of_left hx hn, if_pos hst]
      rcases hg with hg | hg
      · rw [hg]
        split <;> rfl
      · rw [hg]
        rfl
    · refine ⟨(left none).hostFail y, exec_next rfl (congrArg State.settleAll ?_), ?_⟩
      · rw [State.opDmaRead_of_left hx hn, if_pos hst, hy, hg]
        rfl
      · exact State.hostFail_found (s := left none) hy hr
  · have hop : s.opHostErr f = { s.hostErr f with fe := { (s.hostErr f).fe with stgErrFn := f } } := by
      rw [State.opHostErr, hr, ha]
      rfl
    refine ⟨_, exec_next rfl (congrArg State.settleAll hop), rfl, ?_, fun x hx hp ho hc hn => ?_⟩
    · exact State.hostFail_foldl_length _ s
    · rw [← State.failedDma_of_running hn]
      refine State.hostFail_foldl hn _ s (.inr ⟨hx, List.mem_filter.mpr ⟨hx, ?_⟩⟩)
      simpa [hp, hc] using ho
  · refine exec_next rfl (congrArg State.settleAll (if_neg ?_))
    rcases h with h | h <;> simp [h]

end Sys2Proof.Machine

end

section
/-! PROOFS. Ring pointers, descriptor fetch and completion records (O38). -/

namespace Sys2Proof.Machine

namespace State

/-! ### What the checks of a descriptor read -/

/-- The two states hold the same of what a fetched descriptor of the context is checked against. -/
structure FetchSame (c : CtxId) (s t : State) : Prop where
  fn : (t.ctx c).fn = (s.ctx c).fn
  vd : (t.ctx c).vd = (s.ctx c).vd
  gen : (t.ctx c).transGen = (s.ctx c).transGen
  objs : t.fe.objs = s.fe.objs
  fns : t.fe.fns = s.fe.fns
  keys : t.keys = s.keys
  mem : t.mem = s.mem
  vds : t.vd = s.vd

section
variable {c : CtxId} {s t : State} (h : FetchSame c s t)
include h

theorem FetchSame.findObj (va : Nat) : t.findObj c va = s.findObj c va := by
  unfold State.findObj objsOf
  rw [h.objs]

theorem FetchSame.ctxSlot : t.ctxSlot c = s.ctxSlot c := by
  unfold State.ctxSlot vdSlot vdev
  rw [h.vd, h.vds]

theorem FetchSame.keyUsable (r : Nat) : t.keyUsable r = s.keyUsable r := by
  unfold State.keyUsable row
  rw [h.keys]

theorem FetchSame.memIdx (i : KeyIdx) : t.memIdx i = s.memIdx i := by
  unfold State.memIdx
  rw [h.mem]

theorem FetchSame.scopeOk {m : Master} (hm : m = .ctx c ∨ m = .staging c) (i : KeyIdx) (w : Bool) :
    t.scopeOk m i w = s.scopeOk m i w := by
  have hs : t.masterSlot m = s.masterSlot m := by
    rcases hm with rfl | rfl <;> exact congrArg some h.ctxSlot
  unfold State.scopeOk
  rw [hs, h.memIdx]

theorem FetchSame.keyBound (i : KeyIdx) : t.keyBound c i = s.keyBound c i := by
  unfold State.keyBound vdev
  rw [h.vd, h.vds]

theorem FetchSame.indexReserved (i : KeyIdx) : t.indexReserved i = s.indexReserved i := by
  unfold State.indexReserved
  rw [h.memIdx, h.keyUsable]

theorem FetchSame.transOf (n : Nat) (o : Obj) (r : Rng) : t.transOf c n o r = s.transOf c n o r := by
  unfold State.transOf
  rw [h.gen]

theorem FetchSame.sessOf (f : Fn) : t.sessOf f = s.sessOf f := by
  unfold State.sessOf func
  rw [h.fns]

theorem FetchSame.checkRanges (op : BitVec 16) (rs : List Rng) : t.checkRanges c op rs = s.checkRanges c op rs := by
  unfold State.checkRanges
  simp only [h.findObj, h.scopeOk (.inl rfl), h.keyBound, h.transOf]

theorem FetchSame.stgCheck (op : BitVec 16) (b : Bytes) : t.stgCheck c op b = s.stgCheck c op b := by
  unfold State.stgCheck
  simp only [h.findObj, h.scopeOk (.inr rfl), h.indexReserved, h.keyUsable, h.transOf, h.sessOf, h.ctxSlot, h.fn]

theorem FetchSame.lateTrans (vas : List Nat) : t.lateTrans c vas = s.lateTrans c vas := by
  unfold State.lateTrans
  simp only [h.findObj, h.transOf]

theorem FetchSame.fetchCheck (q : BitVec 3) (d : Bytes) : t.fetchCheck c q d = s.fetchCheck c q d := by
  unfold State.fetchCheck
  simp only [h.checkRanges, h.stgCheck, h.lateTrans, h.fn, h.vd]

end

/-! ### Completion records -/

/-- The fields of a context that a record of it leaves: its ring's tail and its full flag are written. -/
def withRecord (k : Ctx) : Ctx :=
  { k with cq := { k.cq with tail := k.cq.tail + 1 }, cqFull := k.cqFull || ringFullC { k.cq with tail := k.cq.tail + 1 } }

theorem hostWrite_fe (s : State) (f : Fn) (a : BitVec 64) (bs : Bytes) : (s.hostWrite f a bs).fe = s.fe :=
  (hostWrite_keeps (K := 0x400000) (Keeps.refl _ s) (by decide)).fe.resolve_left (by decide)

theorem trace_fe (s : State) (type : Byte) (c : Option CtxId) (d : Option Slot) (layer operator : BitVec 16) (arg : Bytes) :
    (s.trace type c d layer operator arg).fe = s.fe :=
  (trace_keeps (K := 0x100000) (Keeps.refl _ s) (by decide)).fe.resolve_left (by decide)

theorem msi_fe (s : State) (f : Fn) (v : BitVec 11) : (s.msi f v).fe = s.fe := by
  unfold msi
  split <;> rfl

theorem recPut_fe (s : State) (c : CtxId) (h : HeldRec) : (s.recPut c h).fe = (s.setCtx c (withRecord (s.ctx c))).fe := by
  unfold recPut
  dsimp only
  split
  · rw [msi_fe, trace_fe, hostWrite_fe]
    rfl
  · rw [trace_fe, hostWrite_fe]
    rfl

theorem recPut_ctx (s : State) (c : CtxId) (h : HeldRec) : (s.recPut c h).ctx c = withRecord (s.ctx c) := by
  rw [ctx, recPut_fe, ← ctx, setCtx_ctx_same]

theorem msi_grew (s : State) (f : Fn) (v : BitVec 11) : s.outs <:+ (s.msi f v).outs := by
  unfold msi
  split
  · exact List.suffix_cons _ _
  · exact List.suffix_refl _

/-- Where a record of a ring is written. -/
def recAddr (r : Ring) : BitVec 64 := r.base + BitVec.ofNat 64 (16 * (r.tail.toNat % r.size.toNat))

theorem hostWrite_of_piece {s : State} (h : s.portOn portStaging = true) (f : Fn) {a : BitVec 64} {bs : Bytes}
    (hn : bs ≠ []) (hl : bs.length ≤ 4096 - a.toNat % 4096) : s.hostWrite f a bs = s.out (.hdWrite f a bs) := by
  obtain ⟨b, cs, rfl⟩ := List.exists_cons_of_ne_nil hn
  rw [hostWrite, if_pos h, hdWriteAux]
  · rw [List.take_of_length_le hl, List.drop_of_length_le hl]
    cases (b :: cs).length / 4096 + 1 <;> rfl
  · exact hn

theorem recPut_outs {s : State} (hon : s.portOn portStaging = true) (c : CtxId) (h : HeldRec)
    (ha : (recAddr (s.ctx c).cq).toNat % 4096 ≤ 4080) :
    (.hdWrite (s.ctx c).fn (recAddr (s.ctx c).cq)
      (recBytes h ((s.ctx c).cq.tail.toNat / (s.ctx c).cq.size.toNat % 2 == 0)) :: s.outs) <:+ (s.recPut c h).outs := by
  have hlen : (recBytes h ((s.ctx c).cq.tail.toNat / (s.ctx c).cq.size.toNat % 2 == 0)).length = 16 := by
    simp [recBytes, leBytes]
  unfold recPut
  dsimp only
  rw [hostWrite_of_piece (s := s.setCtx c _) hon _ (List.ne_nil_of_length_pos (by rw [hlen]; decide))
    (by rw [hlen]; unfold recAddr at ha; omega)]
  split
  · refine List.IsSuffix.trans ?_ (msi_grew _ _ _)
    rw [trace_outs]
    exact List.suffix_refl _
  · rw [trace_outs]
    exact List.suffix_refl _

theorem count_fe (s : State) (k n : Nat) : (s.count k n).fe = s.fe := rfl

section
variable {s : State} {c : CtxId} {h : HeldRec}

/-- The state with the record's status counted (R586). -/
def counted (s : State) (h : HeldRec) : State := s.count (if h.status = stOk then 0 else 1) 1

theorem counted_ctx (s : State) (h : HeldRec) (c : CtxId) : (s.counted h).ctx c = s.ctx c := rfl

theorem counted_outs (s : State) (h : HeldRec) : (s.counted h).outs = s.outs := rfl

theorem counted_clk (s : State) (h : HeldRec) : (s.counted h).clk = s.clk := rfl

theorem recDone_of_room (hr : ringFullC (s.ctx c).cq = false) : s.recDone c h = (s.counted h).recPut c h := by
  have hn : ringFullC ((s.counted h).ctx c).cq = false := hr
  unfold recDone
  dsimp only
  rw [← counted, hn]
  rfl

theorem recDone_of_full (hr : ringFullC (s.ctx c).cq = true) (hp : (s.func (s.ctx c).fn).phase ≠ .draining) :
    s.recDone c h = (s.counted h).setCtx c { s.ctx c with heldRecs := (s.ctx c).heldRecs ++ [h], cqFull := true } := by
  have hn : ringFullC ((s.counted h).ctx c).cq = true := hr
  unfold recDone
  dsimp only
  rw [← counted, hn]
  exact if_neg hp

theorem recDone_of_dropped (hr : ringFullC (s.ctx c).cq = true) (hp : (s.func (s.ctx c).fn).phase = .draining) :
    s.recDone c h = (s.counted h).modFunc (s.ctx c).fn fun f => { f with cqDropped := satInc f.cqDropped } := by
  have hn : ringFullC ((s.counted h).ctx c).cq = true := hr
  unfold recDone
  dsimp only
  rw [← counted, hn]
  exact if_pos hp

end

theorem recDone_cmds (s : State) (c : CtxId) (h : HeldRec) : (s.recDone c h).fe.cmds = s.fe.cmds := by
  cases hr : ringFullC (s.ctx c).cq with
  | false => rw [recDone_of_room hr, recPut_fe]; rfl
  | true =>
    by_cases hp : (s.func (s.ctx c).fn).phase = .draining
    · rw [recDone_of_dropped hr hp]
      rfl
    · rw [recDone_of_full hr hp]
      rfl

/-- A record leaves the submission rings of its context. -/
theorem recDone_sq (s : State) (c : CtxId) (h : HeldRec) : ((s.recDone c h).ctx c).sq = (s.ctx c).sq := by
  cases hr : ringFullC (s.ctx c).cq with
  | false => rw [recDone_of_room hr, recPut_ctx]; rfl
  | true =>
    by_cases hp : (s.func (s.ctx c).fn).phase = .draining
    · rw [recDone_of_dropped hr hp]
      rfl
    · rw [recDone_of_full hr hp, setCtx_ctx_same]

/-! ### What follows a record -/

/-- No command, context, drop or output goes: what the end of a command does after its record. -/
structure Booked (s t : State) : Prop where
  none : ∀ c q k, s.findCmd c q k = none → t.findCmd c q k = none
  ctxs : t.fe.ctxs = s.fe.ctxs
  dropped : ∀ f, (t.func f).cqDropped = (s.func f).cqDropped
  outs : s.outs <:+ t.outs

theorem Booked.refl (s : State) : Booked s s := ⟨fun _ _ _ h => h, rfl, fun _ => rfl, List.suffix_refl _⟩

theorem Booked.trans {s t u : State} (h : Booked s t) (g : Booked t u) : Booked s u :=
  ⟨fun c q k e => g.none c q k (h.none c q k e), g.ctxs.trans h.ctxs, fun f => (g.dropped f).trans (h.dropped f),
    h.outs.trans g.outs⟩

theorem Booked.of_fe {s t : State} (h : t.fe = s.fe) (ho : s.outs <:+ t.outs) : Booked s t :=
  ⟨fun _ _ _ e => by rwa [findCmd, h], by rw [h], fun f => by rw [func, h, ← func], ho⟩

/-- The commands are changed without a change of name. -/
theorem Booked.of_map {s t : State} {g : Cmd → Cmd} (hg : ∀ c q k x, cmdIs c q k (g x) = cmdIs c q k x)
    (h : t.fe = { s.fe with cmds := s.fe.cmds.map g }) (ho : t.outs = s.outs) : Booked s t where
  none c q k e := by
    rw [findCmd, h, List.find?_map]
    rw [show cmdIs c q k ∘ g = cmdIs c q k from funext (hg c q k)]
    rw [findCmd] at e
    rw [e, Option.map_none]
  ctxs := by rw [h]
  dropped f := by rw [func, h, ← func]
  outs := by rw [ho]

theorem cmdResult_booked (s : State) (c : CtxId) (q : BitVec 3) (k : Word) (st : Status) (d : BitVec 32) :
    Booked s (s.cmdResult c q k st d) := by
  refine .of_map (fun c q k x => ?_) rfl rfl
  split <;> rfl

theorem objSettle_booked (s : State) : Booked s s.objSettle := by
  refine .of_map (fun c q k x => ?_) rfl rfl
  split <;> rfl

theorem modFunc_booked (s : State) (f : Fn) {g : Func → Func} (hg : ∀ x, (g x).cqDropped = x.cqDropped) :
    Booked s (s.modFunc f g) := by
  refine ⟨fun _ _ _ e => e, rfl, fun n => ?_, List.suffix_refl _⟩
  rcases eq_or_ne n f with rfl | hne
  · rw [modFunc_func_same, hg]
  · rw [modFunc_func_ne _ _ _ _ hne]

theorem installStageKey_booked (s : State) (f : Fn) (dir : Nat) (g : BitVec 32) : Booked s (s.installStageKey f dir g) := by
  have hk : Keeps 0x400040 s (s.installStageKey f dir g) := installStageKey_keeps (Keeps.refl _ s) (by decide)
  exact .of_fe (hk.fe.resolve_left (by decide)) hk.grew

theorem rollDir_booked (s : State) (f : Fn) (dir : Nat) : Booked s (s.rollDir f dir) := by
  unfold rollDir
  dsimp only
  split
  · exact .refl s
  · next r hr =>
    split
    · exact .refl s
    · split
      · refine Booked.trans (Booked.trans (installStageKey_booked s f dir r.gen) ?_) (cmdResult_booked _ _ _ _ _ _)
        exact modFunc_booked _ f fun _ => rfl
      · refine Booked.trans ?_ (cmdResult_booked _ _ _ _ _ _)
        exact modFunc_booked _ f fun _ => rfl

theorem drainCheck_booked (s : State) (f : Fn) : Booked s (s.drainCheck f) := by
  unfold drainCheck
  split
  · refine Booked.trans ?_ (.of_fe (msiPf_fe _) (msi_grew _ _ _))
    exact modFunc_booked s f fun _ => rfl
  · exact .refl s

/-- The end of a command, after its record. -/
def rolled (s : State) (f : Fn) : State := ((s.stgRoll f).objSettle).drainCheck f

theorem rolled_booked (s : State) (f : Fn) : Booked s (s.rolled f) :=
  ((rollDir_booked s f 0).trans (rollDir_booked _ f 1)).trans ((objSettle_booked _).trans (drainCheck_booked _ f))

/-! ### What comes before a record -/

/-- The two states differ in no more of the context than its busy time, and not in the functions. -/
structure Timed (c : CtxId) (s t : State) : Prop where
  ctx : ∃ b, t.ctx c = { s.ctx c with busy := b }
  fns : t.fe.fns = s.fe.fns

theorem Timed.trans {c : CtxId} {s t u : State} (h : Timed c s t) (g : Timed c t u) : Timed c s u where
  ctx := by
    obtain ⟨a, ha⟩ := h.ctx
    obtain ⟨b, hb⟩ := g.ctx
    exact ⟨b, by rw [hb, ha]⟩
  fns := g.fns.trans h.fns

theorem Timed.of_same {c : CtxId} {s t : State} (h : t.fe.ctxs = s.fe.ctxs) (g : t.fe.fns = s.fe.fns) : Timed c s t :=
  ⟨⟨(s.ctx c).busy, by rw [State.ctx, h, ← State.ctx]⟩, g⟩

theorem modCtx_timed (s : State) (c : CtxId) (g : Ctx → Tab (BitVec 64)) :
    Timed c s (s.modCtx c fun z => { z with busy := g z }) := ⟨⟨_, modCtx_ctx_same _ _ _⟩, rfl⟩

/-- A command's time is noted: of its context's fields only the busy time changes. -/
theorem busyNote_timed (s : State) (c : CtxId) : Timed c s (s.busyNote c) := by
  unfold busyNote
  refine List.foldlRecOn (motive := fun (t : State) => Timed c s t) _ _ (.of_same rfl rfl) ?_
  intro t ht k _
  split
  · exact ht
  · refine Timed.trans (Timed.trans ht ?_) (modCtx_timed _ c _)
    exact .of_same rfl rfl

/-- A command that has its outcome leaves the queue. -/
def leftQueue (s : State) (c : CtxId) (q : BitVec 3) (k : Word) : State :=
  { s with fe := { s.fe with cmds := s.fe.cmds.filter fun y => !cmdIs c q k y } }

theorem leftQueue_findCmd (s : State) (c : CtxId) (q : BitVec 3) (k : Word) : (s.leftQueue c q k).findCmd c q k = none := by
  refine List.find?_eq_none.mpr fun x hx => ?_
  simpa using (List.mem_filter.mp hx).2

/-- The state in which the command's record is written, once its time is noted. -/
def closing (s : State) (c : CtxId) (q : BitVec 3) (k : Word) (x : Cmd) (st : Status) : State :=
  (((s.leftQueue c q k).dmaGoneIf (dmaMine x)).taintClear x st).csMeter x st

def closed (s : State) (c : CtxId) (q : BitVec 3) (k : Word) (x : Cmd) (st : Status) : State := (s.busyNote c).closing c q k x st

/-- The end of a command: its record, and what follows it. -/
def ended (s : State) (c : CtxId) (q : BitVec 3) (k : Word) (x : Cmd) (st : Status) (rec : HeldRec) : State :=
  ((s.closed c q k x st).recDone c rec).rolled (s.ctx c).fn

theorem opCompletion_of_result {s : State} {c : CtxId} {q : BitVec 3} {k : Word} {x : Cmd} (hx : s.findCmd c q k = some x)
    {st : Status} {y : BitVec 32} (hr : x.result = some (st, y)) :
    s.opCompletion c q k = s.ended c q k x st
      { cookie := x.cookie, status := st, queue := q, detail := y, irq := x.irq, opcode := x.opcode, layer := x.layer,
        operator := x.operator } := by
  unfold opCompletion
  rw [hx]
  dsimp only
  rw [hr]
  rfl

theorem csMeter_fe (s : State) (x : Cmd) (st : Status) : (s.csMeter x st).fe = s.fe :=
  (csMeter_keeps (K := 0x040000) (Keeps.refl _ s) (by decide)).fe.resolve_left (by decide)

theorem taintClear_fe (s : State) (x : Cmd) (st : Status) :
    ∃ o, (s.taintClear x st).fe = { s.fe with objs := o } := by
  unfold taintClear
  split
  · split
    · exact ⟨_, rfl⟩
    · dsimp only
      split <;> exact ⟨_, rfl⟩
  · exact ⟨_, rfl⟩

theorem closing_left (s : State) (c : CtxId) (q : BitVec 3) (k : Word) (x : Cmd) (st : Status) :
    (s.closing c q k x st).findCmd c q k = none ∧ Timed c s (s.closing c q k x st) ∧ (s.closing c q k x st).outs = s.outs ∧
      (s.closing c q k x st).clk = s.clk := by
  have hf := s.leftQueue_findCmd c q k
  have hs : Keeps 0x042000 (s.leftQueue c q k) (s.closing c q k x st) :=
    csMeter_keeps (taintClear_keeps (dmaGoneIf_keeps (Keeps.refl _ _) (by decide)) (by decide)) (by decide)
  obtain ⟨o, hfe⟩ := ((s.leftQueue c q k).dmaGoneIf (dmaMine x)).taintClear_fe x st
  rw [← csMeter_fe _ x st, ← closing] at hfe
  refine ⟨?_, .of_same (by rw [hfe]; rfl) (by rw [hfe]; rfl), hs.outs.resolve_left (by decide), hs.clk.resolve_left (by decide)⟩
  rw [findCmd, hfe]
  exact hf

theorem closed_left (s : State) (c : CtxId) (q : BitVec 3) (k : Word) (x : Cmd) (st : Status) :
    (s.closed c q k x st).findCmd c q k = none ∧ Timed c s (s.closed c q k x st) ∧ (s.closed c q k x st).outs = s.outs ∧
      (s.closed c q k x st).clk = s.clk := by
  have hb : Keeps 0x002000 s (s.busyNote c) := busyNote_keeps (Keeps.refl _ s) (by decide)
  obtain ⟨hf, ht, ho, hc⟩ := (s.busyNote c).closing_left c q k x st
  exact ⟨hf, (busyNote_timed s c).trans ht, ho.trans (hb.outs.resolve_left (by decide)), hc.trans (hb.clk.resolve_left (by decide))⟩

/-! ### Held records -/

theorem recPump_of_none {s : State} {c : CtxId} (h : (s.ctx c).heldRecs = []) :
    (s.recPump c).ctx c = s.ctx c ∧ (s.recPump c).outs = s.outs := by
  rw [recPump, h, recPumpAux]
  refine ⟨?_, rfl⟩
  rw [modCtx_ctx_same, ← h]

theorem recPump_of_one {s : State} {c : CtxId} {h : HeldRec} (hh : (s.ctx c).heldRecs = [h])
    (hr : ringFullC (s.ctx c).cq = false) :
    ((s.recPump c).ctx c).heldRecs = [] ∧
      ((s.recPump c).ctx c).cq = { (s.ctx c).cq with tail := (s.ctx c).cq.tail + 1 } := by
  rw [recPump, hh, recPumpAux, hr, if_neg Bool.false_ne_true, recPumpAux, modCtx_ctx_same, recPut_ctx]
  exact ⟨rfl, rfl⟩

theorem setRingsAt_outs (s : State) (f : Fn) (loc : BitVec 6) (r : IdleRings) : (s.setRingsAt f loc r).outs = s.outs := by
  unfold setRingsAt
  split <;> rfl

/-! ### Descriptors -/

section
variable {s : State} {c : CtxId} {q : BitVec 3} {d : DmaData}

/-- A ring of a context. -/
abbrev ringOf (s : State) (c : CtxId) (q : BitVec 3) : Ring := Tab.get {} (s.ctx c).sq q.toNat

/-- The context once the entry at the head of a ring is taken. -/
def takenCtx (s : State) (c : CtxId) (q : BitVec 3) : Ctx :=
  { s.ctx c with
    sq := Tab.set {} (s.ctx c).sq q.toNat { s.ringOf c q with head := (s.ringOf c q).head + 1 }
    cancelled := (s.ctx c).cancelled.filter (· != (q, (s.ringOf c q).head)) }

/-- The state once the entry at the head of a ring is asked for. -/
def taken (s : State) (c : CtxId) (q : BitVec 3) (id : Nat) : State :=
  (s.out (.hdRead (s.ctx c).fn
    ((s.ringOf c q).base + BitVec.ofNat 64 (64 * ((s.ringOf c q).head.toNat % (s.ringOf c q).size.toNat))) 64
    (BitVec.ofNat 8 id))).setCtx c (s.takenCtx c q)

theorem taken_ctx (s : State) (c : CtxId) (q : BitVec 3) (id : Nat) : (s.taken c q id).ctx c = s.takenCtx c q :=
  setCtx_ctx_same _ _ _

theorem taken_ringOf (s : State) (c : CtxId) (q : BitVec 3) (id : Nat) :
    (s.taken c q id).ringOf c q = { s.ringOf c q with head := (s.ringOf c q).head + 1 } := by
  rw [ringOf, taken_ctx]
  exact Tab.get_set_same _ _ _ _

theorem taken_fetchCheck (s : State) (c : CtxId) (q p : BitVec 3) (id : Nat) (b : Bytes) :
    (s.taken c q id).fetchCheck c p b = s.fetchCheck c p b := by
  refine FetchSame.fetchCheck (c := c) (s := s) (t := s.taken c q id) ⟨?_, ?_, ?_, rfl, rfl, rfl, rfl, rfl⟩ p b
  all_goals
    rw [taken_ctx]
    rfl

theorem fetchTake_of_failed (h : d.status ≠ 0) (id : Nat) :
    (s.fetchTake c q id d).fe.cmds = s.fe.cmds ∧
      (s.fetchTake c q id d).ringOf c q = { s.ringOf c q with head := (s.ringOf c q).head + 1 } := by
  have ht : ∃ r, s.fetchTake c q id d = (s.taken c q id).recDone c r := ⟨_, if_pos h⟩
  obtain ⟨r, ht⟩ := ht
  rw [ht]
  exact ⟨recDone_cmds _ _ _, by rw [ringOf, recDone_sq]; exact s.taken_ringOf c q id⟩

/-- What a whole descriptor leaves: the command as FETCHED. -/
theorem fetchTake_of_okay (h : d.status = 0) (id : Nat) : ∃ x : Cmd,
    s.fetchTake c q id d = { s.taken c q id with fe := { (s.taken c q id).fe with cmds := s.fe.cmds ++ [x] } } ∧
      x.ctx = c ∧ x.queue = q ∧ x.k = (s.ringOf c q).head ∧ x.phase = .fetched ∧ x.opcode = dOpcode (fitTo 64 d.data) ∧
      x.cookie = dCookie (fitTo 64 d.data) ∧ x.body = dBody (fitTo 64 d.data) ∧
      ((q, (s.ringOf c q).head) ∈ (s.ctx c).cancelled → x.result = some (stCancelled, 0)) ∧
      ((q, (s.ringOf c q).head) ∉ (s.ctx c).cancelled →
        (∀ st y, s.fetchCheck c q (fitTo 64 d.data) = .fail st y → x.result = some (st, y)) ∧
        (∀ ts, s.fetchCheck c q (fitTo 64 d.data) = .pass ts → x.result = none ∧ x.trans = ts)) := by
  refine ⟨_, if_neg (not_not_intro h), rfl, rfl, rfl, rfl, rfl, rfl, rfl, fun hw => ?_, fun hw => ?_⟩
  · dsimp only
    rw [if_pos (List.contains_iff_mem.mpr hw)]
  · dsimp only
    rw [if_neg fun e => hw (List.contains_iff_mem.mp e)]
    refine ⟨fun st y e => ?_, fun ts e => ?_⟩
    all_goals
      rw [← taken_fetchCheck s c q q id] at e
      unfold taken takenCtx at e
      rw [e]
    exact ⟨rfl, rfl⟩

theorem fetchOne_of_fetches (hf : s.fetches c = true) (hq : q.toNat < 5) (hr : (s.ringOf c q).head ≠ (s.ringOf c q).tail)
    (hh : (d.status == 0 && s.rollHolds c q (dOpcode (fitTo 64 d.data))) = false) {id : Nat} (hid : s.freeDma = some id) :
    s.fetchOne c q d = if 64 < d.data.length then s.portViolation 1 0 0 2
      else if dmaWhole d 64 then s.fetchTake c q id d else s := by
  unfold fetchOne
  dsimp only
  rw [if_neg, hid]
  rw [hf, hh, decide_eq_false (Nat.not_le.mpr hq), beq_false_of_ne hr]
  decide

end

/-! ### The end of a command -/

section
variable {s : State} {c : CtxId} {q : BitVec 3} {k : Word} {x : Cmd} {st : Status} {rec : HeldRec}

theorem ended_findCmd (s : State) (c : CtxId) (q : BitVec 3) (k : Word) (x : Cmd) (st : Status) (rec : HeldRec) :
    (s.ended c q k x st rec).findCmd c q k = none := by
  refine (rolled_booked _ _).none c q k ?_
  rw [findCmd, recDone_cmds]
  exact (closed_left s c q k x st).1

/-- The context after the end of a command is the one its record leaves. -/
theorem ended_ctx (s : State) (c : CtxId) (q : BitVec 3) (k : Word) (x : Cmd) (st : Status) (rec : HeldRec) :
    (s.ended c q k x st rec).ctx c = ((s.closed c q k x st).recDone c rec).ctx c := by
  rw [ended, ctx, (rolled_booked _ _).ctxs, ← ctx]

theorem ended_of_room (hr : ringFullC (s.ctx c).cq = false) :
    ((s.ended c q k x st rec).ctx c).cq = { (s.ctx c).cq with tail := (s.ctx c).cq.tail + 1 } ∧
      (s.portOn portStaging = true → (recAddr (s.ctx c).cq).toNat % 4096 ≤ 4080 →
        (.hdWrite (s.ctx c).fn (recAddr (s.ctx c).cq)
          (recBytes rec ((s.ctx c).cq.tail.toNat / (s.ctx c).cq.size.toNat % 2 == 0)) :: s.outs) <:+
            (s.ended c q k x st rec).outs) := by
  obtain ⟨-, ⟨⟨b, hb⟩, -⟩, ho, hclk⟩ := s.closed_left c q k x st
  have hcq : ((s.closed c q k x st).ctx c).cq = (s.ctx c).cq := by rw [hb]
  have hfn : ((s.closed c q k x st).ctx c).fn = (s.ctx c).fn := by rw [hb]
  have hd := recDone_of_room (h := rec) (hcq.symm ▸ hr : ringFullC ((s.closed c q k x st).ctx c).cq = false)
  rw [ended_ctx, hd, recPut_ctx]
  refine ⟨congrArg (fun r : Ring => { r with tail := r.tail + 1 }) hcq, fun hon ha => ?_⟩
  refine List.IsSuffix.trans ?_ (rolled_booked _ _).outs
  rw [hd]
  have hp := recPut_outs (s := (s.closed c q k x st).counted rec) (show _ = true by rw [portOn, counted_clk, hclk]; exact hon) c rec
    (by rw [counted_ctx, hcq]; exact ha)
  rwa [counted_ctx, hcq, hfn, counted_outs, ho] at hp

theorem ended_of_full (hr : ringFullC (s.ctx c).cq = true) (hp : (s.func (s.ctx c).fn).phase ≠ .draining) :
    ((s.ended c q k x st rec).ctx c).cq = (s.ctx c).cq ∧
      ((s.ended c q k x st rec).ctx c).heldRecs = (s.ctx c).heldRecs ++ [rec] ∧
      ((s.ended c q k x st rec).ctx c).cqFull = true := by
  obtain ⟨-, ⟨⟨b, hb⟩, hf⟩, -, -⟩ := s.closed_left c q k x st
  rw [ended_ctx, recDone_of_full (by rw [hb]; exact hr) (by rw [hb, func, hf]; exact hp), setCtx_ctx_same, hb]
  exact ⟨rfl, rfl, rfl⟩

theorem ended_of_dropped (hr : ringFullC (s.ctx c).cq = true) (hp : (s.func (s.ctx c).fn).phase = .draining) :
    ((s.ended c q k x st rec).ctx c).heldRecs = (s.ctx c).heldRecs ∧
      ((s.ended c q k x st rec).func (s.ctx c).fn).cqDropped = satInc (s.func (s.ctx c).fn).cqDropped := by
  obtain ⟨-, ⟨⟨b, hb⟩, hf⟩, -, -⟩ := s.closed_left c q k x st
  have hfn : ((s.closed c q k x st).ctx c).fn = (s.ctx c).fn := by rw [hb]
  have hheld : ((s.closed c q k x st).ctx c).heldRecs = (s.ctx c).heldRecs := by rw [hb]
  have hd := recDone_of_dropped (s := s.closed c q k x st) (c := c) (h := rec) (by rw [hb]; exact hr)
    (by rw [hb, func, hf]; exact hp)
  refine ⟨?_, ?_⟩
  · rw [ended_ctx, hd, modFunc_ctxAt, counted_ctx, hheld]
  · rw [ended, (rolled_booked _ _).dropped, hd, hfn, modFunc_func_same]
    exact congrArg (fun t => satInc (Tab.get ({} : Func) t (s.ctx c).fn.toNat).cqDropped) hf

end

end State

/-- Settles O38: each pointer write, fetch and completion by the equation of its operation. -/
theorem ringsAndRecords : Obligations.RingsAndRecords := by
  unfold Obligations.RingsAndRecords
  intro s f loc c q k
  refine ⟨fun w h => ?_, fun w hw hq => ?_, fun w h => ?_, fun w hw => ?_, fun d h => ?_, fun d hf hq => ?_, fun b h => ?_,
    fun b x h hr => ?_, fun b x st y h hr => ?_⟩
  · refine exec_next rfl (if_neg ?_)
    rcases h with h | h
    · simp [h]
    · simp [Nat.not_lt.mpr h]
  · have hop : s.opSqTail f loc q w = s.sqTail f loc q w := by
      rw [State.opSqTail, hw, decide_eq_true hq]
      rfl
    intro r x
    refine ⟨fun hb => exec_next rfl (hop.trans ?_), fun hb n hn => exec_next rfl (hop.trans ?_),
      fun hb hn => exec_next rfl (hop.trans ?_)⟩
    · exact if_neg (by rw [hb]; decide)
    · refine (if_pos hb).trans ?_
      rw [hn]
    · refine (if_pos hb).trans ?_
      rw [hn]
  · exact exec_next rfl (if_neg (by rw [h]; decide))
  · intro r u
    have hop : s.opCqHead f loc w = match u.ctxAt f loc with
      | some c => u.recPump c
      | none => u := if_pos hw
    refine ⟨fun h => exec_next rfl ?_, fun n h hn hh hr => ⟨u.recPump n, exec_next rfl ?_, State.recPump_of_one hh hr⟩,
      fun n hn hh => ⟨u.recPump n, exec_next rfl ?_, (State.recPump_of_none hh).1, (State.recPump_of_none hh).2.trans ?_⟩⟩
    · rw [hop, h]
    · rw [hop, hn]
    · rw [hop, hn]
    · exact s.setRingsAt_outs f loc _
  · refine exec_next rfl (if_pos ?_)
    rcases h with h | h <;> simp [h]
  · intro r b
    refine ⟨fun h => exec_next rfl ?_, fun id hr hst hroll hid hl => exec_next rfl ?_, fun id hr hst hroll hid hl => ?_,
      fun id hr hst hid hl => ?_⟩
    · unfold State.fetchOne
      dsimp only
      split
      · rfl
      · next hg =>
        rcases h with h | h
        · refine absurd ?_ hg
          rw [show Tab.get ({} : Ring) (s.ctx c).sq q.toNat = r from rfl, h, beq_self_eq_true, Bool.or_true]
          rfl
        · rw [h]
    · rw [State.fetchOne_of_fetches hf hq hr (by rw [hroll, Bool.and_false]) hid, if_pos hl]
    · obtain ⟨x, ht, hx⟩ := State.fetchTake_of_okay (s := s) (c := c) (q := q) hst id
      obtain ⟨hc, hqx, hk, hp, ho, hck, hb, hres⟩ := hx
      refine ⟨_, x, exec_next rfl ?_, congrArg (fun t : State => t.fe.cmds) ht, hc, hqx, hk, hp, ho, hck, hb, ?_, ?_, hres⟩
      · rw [State.fetchOne_of_fetches hf hq hr (by rw [hroll, Bool.and_false]) hid, if_neg (by omega),
          if_pos (by simp [State.dmaWhole, hl])]
      · rw [ht]
        exact s.taken_ringOf c q id
      · rw [ht]
        rfl
    · refine ⟨_, exec_next rfl ?_, State.fetchTake_of_failed hst id⟩
      rw [State.fetchOne_of_fetches hf hq hr (by rw [beq_false_of_ne hst, Bool.false_and]) hid, if_neg (by omega),
        if_pos (by rw [State.dmaWhole, bne_iff_ne.mpr hst]; rfl)]
  · exact exec_next rfl (by rw [State.opCompletion, h])
  · exact exec_next rfl (by rw [State.opCompletion, h]; dsimp only; rw [hr])
  · have hop := State.opCompletion_of_result h hr
    intro cq rec a
    refine ⟨fun hroom => ⟨_, exec_next rfl hop, ?_⟩, fun hfull hp => ⟨_, exec_next rfl hop, ?_⟩,
      fun hfull hp => ⟨_, exec_next rfl hop, ?_⟩⟩
    · exact ⟨s.ended_findCmd c q k x st rec, State.ended_of_room hroom⟩
    · exact ⟨s.ended_findCmd c q k x st rec, State.ended_of_full hfull hp⟩
    · exact ⟨s.ended_findCmd c q k x st rec, State.ended_of_dropped hfull hp⟩

end Sys2Proof.Machine
end

section
/-! PROOFS. The arbiter and the token buckets (O39). -/

namespace Sys2Proof.Machine

namespace State

/-! ### One command becomes READY -/

section
variable {s : State} {x : Cmd}

theorem modCmd_single (hc : s.fe.cmds = [x]) (f : Cmd → Cmd) : (s.modCmd x.ctx x.queue x.k f).fe.cmds = [f x] := by
  rw [modCmd_cmds, hc, List.map_singleton, if_pos (cmdIs_self x)]

theorem earlierOf_single (x : Cmd) : earlierOf [x] x = [] := by rw [earlierOf, if_pos (cmdIs_self x)]

/-- A NOP without translations that stands alone waits for nothing. -/
theorem readyOne_of_nop (hc : s.fe.cmds = [x]) (ho : x.opcode = opNop) (ht : x.trans = []) :
    s.readyOne x = s.modCmd x.ctx x.queue x.k fun y => { y with phase := .ready } := by
  have hr : s.readyRefusal x = none := by
    rw [readyRefusal, ho, ht]
    rfl
  unfold readyOne
  dsimp only
  rw [hc, earlierOf_single, depthHolds, ho, hr]
  simp [opNop, opProgGo, opStgOut, opStgIn]

theorem readyPass_of_nop (hc : s.fe.cmds = [x]) (hp : x.phase = .fetched) (ho : x.opcode = opNop) (hr : x.result = none)
    (ht : x.trans = []) :
    readyPass [x] [] s = s.modCmd x.ctx x.queue x.k fun y => { y with phase := .ready } := by
  rw [readyPass, hr, hp, readyOne_of_nop hc ho ht]
  rfl

end

/-! ### The start of one command of Q0 -/

section
variable {s : State} {y : Cmd}

theorem fnOrder_single (s : State) (y : Cmd) (last : Option Nat) :
    ∃ rest, s.fnOrder [y] last = (s.ctx y.ctx).fn.toNat :: rest := by
  have hmem (f : Nat) : f ∈ s.fnOrder [y] last ↔ f = (s.ctx y.ctx).fn.toNat := by
    have hlt := (s.ctx y.ctx).fn.isLt
    cases last with
    | none =>
      simp only [fnOrder, List.mem_filter, List.mem_range, List.any_cons, List.any_nil, Bool.or_false, beq_iff_eq]
      omega
    | some l =>
      simp only [fnOrder, List.mem_append, List.mem_filter, List.mem_range, List.any_cons, List.any_nil, Bool.or_false,
        beq_iff_eq, decide_eq_true_eq]
      omega
  cases h : s.fnOrder [y] last with
  | nil => exact absurd ((hmem _).mpr rfl) (by rw [h]; exact List.not_mem_nil)
  | cons f rest => exact ⟨rest, by rw [(hmem f).mp (by rw [h]; exact List.mem_cons_self)]⟩

theorem nextOf_single (s : State) (y : Cmd) (q : BitVec 3) : s.nextOf [y] q (s.ctx y.ctx).fn.toNat = some y := by
  have hmine : [y].filter (fun x => (s.ctx x.ctx).fn.toNat == (s.ctx y.ctx).fn.toNat) = [y] := by simp
  have hcs : y.ctx.toNat ∈ (List.range 1024).filter fun c => [y].any fun x => x.ctx.toNat == c :=
    List.mem_filter.mpr ⟨List.mem_range.mpr y.ctx.isLt, by simp⟩
  have hall (c : Nat) (h : c ∈ (List.range 1024).filter fun c => [y].any fun x => x.ctx.toNat == c) : c = y.ctx.toNat := by
    have h2 := (List.mem_filter.mp h).2
    rw [List.any_cons, List.any_nil, Bool.or_false, beq_iff_eq] at h2
    exact h2.symm
  unfold nextOf
  dsimp only
  rw [hmine]
  generalize (List.range 1024).filter (fun c => [y].any fun x => x.ctx.toNat == c) = cs at hcs hall
  split
  · next c hc => rw [hall c (List.mem_of_find?_eq_some hc), List.find?_cons_of_pos (by simp)]
  · cases cs with
    | nil => exact absurd hcs List.not_mem_nil
    | cons a cs => rw [List.headD_cons, hall a List.mem_cons_self, List.find?_cons_of_pos (by simp)]

theorem grantPlain_single (s : State) (k : Nat) (y : Cmd) : s.grantPlain k [y] = s.grant k y := by
  unfold grantPlain
  obtain ⟨rest, h⟩ := s.fnOrder_single y (if Tab.get 0 s.fe.rrFn (k * 8) = 0 then none else some (Tab.get 0 s.fe.rrFn (k * 8) - 1))
  dsimp only
  rw [h]
  dsimp only
  rw [nextOf_single]

/-- No command runs: no time is noted. -/
theorem busyNote_of_idle (h : ∀ x ∈ s.fe.cmds, x.phase ≠ .running) (c : CtxId) : s.busyNote c = s := by
  have hnone (k : Nat) : (s.fe.cmds.find? fun x => x.ctx == c && x.phase == .running && classOf x.opcode == k) = none := by
    refine List.find?_eq_none.mpr fun x hx => ?_
    simp [h x hx]
  unfold busyNote
  refine foldl_eq_of_fixed (fun k _ => ?_)
  rw [hnone]

/-- The state in which a command of Q0 is started. -/
def granting (s : State) (k : Nat) (x : Cmd) : State :=
  ({ s with fe := { s.fe with
      rrFn := Tab.set 0 s.fe.rrFn (k * 8 + x.queue.toNat) ((s.ctx x.ctx).fn.toNat + 1)
      rrCtx := Tab.set 0 s.fe.rrCtx (x.queue.toNat * 256 + (s.ctx x.ctx).fn.toNat) (x.ctx.toNat + 1) } } : State).progress
    engArbiter

theorem granting_progress (s : State) (k : Nat) (x : Cmd) :
    ((s.granting k x).eng engArbiter).progress = (s.eng engArbiter).progress + 1 :=
  congrArg FltEng.progress (modEng_eng_same _ engArbiter fun g => { g with progress := g.progress + 1 })

theorem grant_of_nop (hc : s.fe.cmds = [y]) (hp : y.phase ≠ .running) (hq : y.queue = 0) (ho : y.opcode = opNop) :
    (s.grant 0 y).fe.cmds = [{ y with phase := .running, started := s.now }] ∧
      ((s.grant 0 y).eng engArbiter).progress = (s.eng engArbiter).progress + 1 := by
  have hidle : (s.granting 0 y).busyNote y.ctx = s.granting 0 y :=
    busyNote_of_idle (fun x hx => by
      rw [List.mem_singleton.mp (show x ∈ [y] from hc ▸ hx)]
      exact hp) _
  have hoff : (s.granting 0 y).engineOff y.opcode = false := by
    rw [engineOff, ho]
    simp [classOf, opNop, opStgRekey]
  have hask (u : State) : u.stgAsk y = u := by
    unfold stgAsk
    rw [ho]
    rfl
  unfold grant
  dsimp only
  rw [if_pos hq, ← granting, hoff, if_neg Bool.false_ne_true, hidle, hask]
  refine ⟨?_, ?_⟩
  · rw [trace_fe]
    exact modCmd_single (s := s.granting 0 y) hc _
  · rw [eng, (trace_keeps (K := 0x100000) (Keeps.refl _ _) (by decide)).flt.resolve_left (by decide)]
    exact s.granting_progress 0 y

/-! ### An epoch -/

theorem startable_of_none {k : Nat} {q : BitVec 3} (h : ∀ x ∈ s.fe.cmds, x.phase ≠ .ready) : s.startable k q = [] := by
  refine List.filter_eq_nil_iff.mpr fun x hx => ?_
  simp [h x hx]

theorem grantClass_of_none (h : ∀ x ∈ s.fe.cmds, x.phase ≠ .ready) (k : Nat) : s.grantClass k = s := by
  unfold grantClass
  split
  · rfl
  · simp [startable_of_none h]

/-- The READY NOP of Q0 is the one that class 0 starts. -/
theorem grantClass_of_nop (hc : s.fe.cmds = [y]) (hp : y.phase = .ready) (hq : y.queue = 0) (ho : y.opcode = opNop)
    (hr : y.result = none) (hf : ringFullC (s.ctx y.ctx).cq = false) (he : (s.eng engTrust).replaying = false) :
    s.grantClass 0 = s.grant 0 y := by
  have hfull : s.classFull 0 = false := by
    rw [classFull]
    exact (Bool.or_false _).trans he
  have hstart : s.startable 0 0 = [y] := by
    rw [startable, hc]
    simp [hp, hq, ho, hr, cqBlocks, hf, bucketOk, classOf, opNop]
  unfold grantClass
  rw [hfull, List.find?_cons_of_pos (by rw [hstart]; rfl)]
  dsimp only
  rw [hstart, if_pos rfl, if_neg Bool.false_ne_true, grantPlain_single]

theorem drainCheck_cmds (s : State) (f : Fn) : (s.drainCheck f).fe.cmds = s.fe.cmds := by
  unfold drainCheck
  split
  · rw [msiPf_fe]
    rfl
  · rfl

theorem drainPoll_cmds (s : State) : s.drainPoll.fe.cmds = s.fe.cmds := by
  unfold drainPoll
  refine List.foldlRecOn (motive := fun (t : State) => t.fe.cmds = s.fe.cmds) _ _ rfl ?_
  intro t ht e _
  rw [drainCheck_cmds, ht]

/-- The state of an epoch whose one command has become READY. -/
def readied (s : State) (x : Cmd) : State :=
  ({ s with fe := { s.fe with passes := s.fe.passes + 1 } } : State).modCmd x.ctx x.queue x.k fun y => { y with phase := .ready }

theorem epoch_of_nop (hrun : s.running = true) (ha : s.areaOn areaFrontEnd = true) (hc : s.fe.cmds = [y])
    (hp : y.phase = .fetched) (ho : y.opcode = opNop) (hq : y.queue = 0) (hr : y.result = none) (ht : y.trans = [])
    (hf : ringFullC (s.ctx y.ctx).cq = false) (he : (s.eng engTrust).replaying = false) :
    s.epoch.fe.cmds = [{ y with phase := .running, started := s.now }] ∧
      (s.epoch.eng engArbiter).progress = (s.eng engArbiter).progress + 1 := by
  have hpass : readyPass s.fe.cmds [] { s with fe := { s.fe with passes := s.fe.passes + 1 } } = s.readied y :=
    (congrArg (readyPass · [] _) hc).trans
      (readyPass_of_nop (s := { s with fe := { s.fe with passes := s.fe.passes + 1 } }) hc hp ho hr ht)
  have hcmds : (s.readied y).fe.cmds = [{ y with phase := .ready }] :=
    modCmd_single (s := { s with fe := { s.fe with passes := s.fe.passes + 1 } }) hc fun y => { y with phase := .ready }
  have hgrant : (s.readied y).grantClass 0 = (s.readied y).grant 0 { y with phase := .ready } :=
    grantClass_of_nop hcmds rfl hq ho hr hf he
  obtain ⟨hrunning, hprog⟩ := grant_of_nop hcmds nofun hq ho
  generalize (s.readied y).grant 0 { y with phase := .ready } = u at hgrant hrunning hprog
  have hnone (x : Cmd) (hx : x ∈ u.fe.cmds) : x.phase ≠ .ready := by
    rw [hrunning, List.mem_singleton] at hx
    rw [hx]
    nofun
  have hepoch : s.epoch = u.deficitsFall.drainPoll := by
    unfold epoch
    dsimp only
    rw [hrun, ha, if_neg (by decide), hpass]
    simp only [List.foldl_cons, List.foldl_nil, hgrant, grantClass_of_none hnone]
  have hk : Keeps 0x402000 u u.deficitsFall.drainPoll :=
    drainPoll_keeps (deficitsFall_keeps (Keeps.refl _ u) (by decide)) (by decide)
  rw [hepoch]
  refine ⟨(drainPoll_cmds _).trans hrunning, ?_⟩
  rw [eng, hk.flt.resolve_left (by decide)]
  exact hprog

/-! ### The buckets -/

/-- A share after a refill. -/
def refilled (h : Share) : Share :=
  if h.rate ≠ 0 ∧ h.bucket < h.burst.toNat then { h with bucket := min (h.burst.toNat : Int) (h.bucket + h.rate.toNat) } else h

def refilledFn (k : Func) : Func := { k with shares := Tab.mapAll {} (fun _ h => refilled h) k.shares }

theorem refill_shareOf (hrun : s.running = true) (hc : s.canonical) (f : Fn) (q : BitVec 3)
    (hw : Tab.wf {} (s.func f).shares = true) : s.refill.shareOf f q = refilled (s.shareOf f q) := by
  have hop : s.refill = { s with fe := { s.fe with fns := Tab.mapAll {} (fun _ k => refilledFn k) s.fe.fns } } := by
    rw [refill, hrun]
    rfl
  obtain ⟨-, -, hfns, -⟩ := hc.fe
  rw [hop]
  unfold shareOf func
  rw [get_mapAll_of_wf (d := ({} : Func)) (f := fun _ k => refilledFn k) hfns rfl]
  exact get_mapAll_of_wf (d := ({} : Share)) (f := fun _ h => refilled h) hw rfl

end

end State

/-- Settles O39: one NOP becomes READY and is started in one epoch; a refill is a map over the shares. -/
theorem arbiterAndBuckets : Obligations.ArbiterAndBuckets := by
  unfold Obligations.ArbiterAndBuckets
  intro s
  refine ⟨fun h => exec_next rfl (if_pos ?_), fun x hrun ha hc hp ho hq hr ht hf he => ?_, fun h => exec_next rfl (if_pos ?_),
    fun hrun hc => ⟨s.refill, rfl, ?_, fun f q hw => ?_⟩⟩
  · rcases h with h | h <;> simp [h]
  · exact ⟨s.epoch, rfl, State.epoch_of_nop hrun ha hc hp ho hq hr ht hf he⟩
  · rw [h]
    rfl
  · unfold State.refill
    split <;> rfl
  · intro h
    rw [State.refill_shareOf hrun hc f q hw]
    refine ⟨fun hr hb => if_pos ⟨hr, hb⟩, fun hor => if_neg ?_⟩
    rintro ⟨hr, hb⟩
    rcases hor with hor | hor
    · exact hr hor
    · exact absurd hb (Int.not_lt.mpr hor)

end Sys2Proof.Machine
end

section
/-! PROOFS. The commands of Q0 on contexts and objects, and the re-arm of a context (O40). -/

namespace Sys2Proof.Machine

namespace State

/-! ### Commands by name -/

theorem cmdIs_iff {c : CtxId} {q : BitVec 3} {k : Word} {x : Cmd} :
    cmdIs c q k x = true ↔ x.ctx = c ∧ x.queue = q ∧ x.k = k := by
  simp [cmdIs, and_assoc]

/-- The running command of an opcode is the named one, without an outcome. -/
theorem runningCmd_some {s : State} {c : CtxId} {q : BitVec 3} {k : Word} {op : BitVec 16} {x : Cmd}
    (h : s.runningCmd c q k op = some x) :
    s.findCmd c q k = some x ∧ x.phase = .running ∧ x.result = none ∧ x.opcode = op := by
  obtain ⟨hf, hp⟩ := Option.filter_eq_some_iff.mp h
  simp only [Bool.and_eq_true, beq_iff_eq, Option.isNone_iff_eq_none] at hp
  exact ⟨hf, hp.1.1, hp.1.2, hp.2⟩

/-- A change of the commands that leaves their names changes the one that is found. -/
theorem findCmd_of_map {s t : State} {g : Cmd → Cmd} (hc : t.fe.cmds = s.fe.cmds.map g)
    (hg : ∀ c q k x, cmdIs c q k (g x) = cmdIs c q k x) {c : CtxId} {q : BitVec 3} {k : Word} {x : Cmd}
    (h : s.findCmd c q k = some x) : t.findCmd c q k = some (g x) := by
  rw [findCmd, hc, List.find?_map, show cmdIs c q k ∘ g = cmdIs c q k from funext (hg c q k)]
  rw [findCmd] at h
  rw [h, Option.map_some]

/-- A command with its outcome. -/
def withOutcome (x : Cmd) (st : Status) (d : BitVec 32) : Cmd := { x with result := some (st, d), blocks := 0, csKey := none }

/-- What `cmdResult` does to a command. -/
def outcomeOf (c : CtxId) (q : BitVec 3) (k : Word) (st : Status) (d : BitVec 32) (x : Cmd) : Cmd :=
  if x.ctx = c ∧ x.queue = q ∧ x.k = k ∧ x.result = none then withOutcome x st d else x

theorem cmdIs_outcomeOf (c : CtxId) (q : BitVec 3) (k : Word) (st : Status) (d : BitVec 32) (a : CtxId) (p : BitVec 3) (n : Word)
    (x : Cmd) : cmdIs a p n (outcomeOf c q k st d x) = cmdIs a p n x := by
  unfold outcomeOf
  split <;> rfl

theorem cmdResult_cmds (s : State) (c : CtxId) (q : BitVec 3) (k : Word) (st : Status) (d : BitVec 32) :
    (s.cmdResult c q k st d).fe.cmds = s.fe.cmds.map (outcomeOf c q k st d) := rfl

theorem cmdResult_found {s : State} {c : CtxId} {q : BitVec 3} {k : Word} {x : Cmd} (h : s.findCmd c q k = some x)
    (hr : x.result = none) (st : Status) (d : BitVec 32) :
    (s.cmdResult c q k st d).findCmd c q k = some (withOutcome x st d) := by
  obtain ⟨hc, hq, hk⟩ := cmdIs_iff.mp (findCmd_key h)
  rw [findCmd_of_map (cmdResult_cmds s c q k st d) (cmdIs_outcomeOf c q k st d) h, outcomeOf, if_pos ⟨hc, hq, hk, hr⟩]

/-- A command of another name keeps what it holds. -/
theorem cmdResult_kept {s : State} {c a : CtxId} {q p : BitVec 3} {k n : Word} {x : Cmd} (h : s.findCmd a p n = some x)
    (hne : q ≠ p) (st : Status) (d : BitVec 32) : (s.cmdResult c q k st d).findCmd a p n = some x := by
  obtain ⟨-, hq, -⟩ := cmdIs_iff.mp (findCmd_key h)
  rw [findCmd_of_map (cmdResult_cmds s c q k st d) (cmdIs_outcomeOf c q k st d) h, outcomeOf,
    if_neg fun e => hne (e.2.1.symm.trans hq)]

theorem modCmd_kept {s : State} {c a : CtxId} {q p : BitVec 3} {k n : Word} {x : Cmd} {f : Cmd → Cmd}
    (hf : ∀ c q k y, cmdIs c q k (f y) = cmdIs c q k y) (h : s.findCmd a p n = some x) (hne : q ≠ p) :
    (s.modCmd c q k f).findCmd a p n = some x := by
  obtain ⟨-, hq, -⟩ := cmdIs_iff.mp (findCmd_key h)
  rw [findCmd_of_map (modCmd_cmds s c q k f) (fun a p n y => by split; exacts [hf a p n y, rfl]) h,
    if_neg fun e => hne ((cmdIs_iff.mp e).2.1.symm.trans hq)]

/-! ### CANCEL -/

section
variable {s : State} {c : CtxId} {k : Word} {x : Cmd} (hx : s.runningCmd c 0 k opCancel = some x)
  (h0 : byteAt x.body 0 ≠ 0) (h4 : (byteAt x.body 0).toNat ≤ 4)
include hx h0 h4

theorem opCancel1_of_some {y : Cmd} (hy : s.findCmd c ((byteAt x.body 0).setWidth 3) (leBv 32 (slice x.body 4 4)) = some y) :
    s.opCancel1 c k =
      if y.result.isSome then s.cmdResult c 0 k stNoTarget 0 else (s.cancelCmd y).cmdResult c 0 k stOk 0 := by
  unfold opCancel1
  rw [hx]
  dsimp only
  rw [if_neg (by rintro (h | h); exacts [h0 h, absurd h (Nat.not_lt.mpr h4)]), hy]

/-- A CANCEL of a command that is not fetched yet: one of the ring's entries is noted, any other has no target. -/
theorem opCancel1_of_none (hy : s.findCmd c ((byteAt x.body 0).setWidth 3) (leBv 32 (slice x.body 4 4)) = none) :
    s.opCancel1 c k =
      if (leBv 32 (slice x.body 4 4) - (s.ringOf c ((byteAt x.body 0).setWidth 3)).head).toNat <
          ((s.ringOf c ((byteAt x.body 0).setWidth 3)).tail - (s.ringOf c ((byteAt x.body 0).setWidth 3)).head).toNat then
        (s.modCtx c fun z => if z.cancelled.contains ((byteAt x.body 0).setWidth 3, leBv 32 (slice x.body 4 4)) then z
          else { z with cancelled := z.cancelled ++ [((byteAt x.body 0).setWidth 3, leBv 32 (slice x.body 4 4))] }).cmdResult
            c 0 k stOk 0
      else s.cmdResult c 0 k stNoTarget 0 := by
  unfold opCancel1
  rw [hx]
  dsimp only
  rw [if_neg (by rintro (h | h); exacts [h0 h, absurd h (Nat.not_lt.mpr h4)]), hy]

end

theorem cancelQueue_ne {b : Byte} (h0 : b ≠ 0) (h4 : b.toNat ≤ 4) : (0 : BitVec 3) ≠ b.setWidth 3 := by
  intro e
  refine h0 (BitVec.eq_of_toNat_eq ?_)
  have ht := congrArg BitVec.toNat e
  rw [BitVec.toNat_setWidth, Nat.mod_eq_of_lt (by omega)] at ht
  exact ht.symm

/-- A command that has not started ends with ST_CANCELLED, and the CANCEL with ST_OK. -/
theorem cancelCmd_waiting {s : State} {c : CtxId} {q : BitVec 3} {n k : Word} {x y : Cmd} (hy : s.findCmd c q n = some y)
    (hr : y.result = none) (hp : y.phase ≠ .running) (hx : s.findCmd c 0 k = some x) (hxr : x.result = none) (hq : 0 ≠ q) :
    ((s.cancelCmd y).cmdResult c 0 k stOk 0).findCmd c q n = some (withOutcome y stCancelled 0) ∧
      ((s.cancelCmd y).cmdResult c 0 k stOk 0).findCmd c 0 k = some (withOutcome x stOk 0) := by
  obtain ⟨rfl, rfl, rfl⟩ := cmdIs_iff.mp (findCmd_key hy)
  have hname (c : CtxId) (q : BitVec 3) (k : Word) (z : Cmd) : cmdIs c q k { z with blocks := 0 } = cmdIs c q k z := rfl
  rw [cancelCmd, if_pos hp]
  refine ⟨cmdResult_kept ?_ hq _ _, cmdResult_found ?_ hxr _ _⟩
  · exact cmdResult_found (findCmd_modCmd (hname _ _ _) hy) hr _ _
  · exact cmdResult_kept (modCmd_kept hname hx hq.symm) hq.symm _ _

/-! ### Objects -/

theorem objKey_injective (c : CtxId) : Function.Injective (objKey c) := fun a b h => Nat.add_left_cancel h

theorem cmdResult_obj (s : State) (c : CtxId) (q : BitVec 3) (k : Word) (st : Status) (d : BitVec 32) (a : CtxId) (n : Nat) :
    (s.cmdResult c q k st d).obj a n = s.obj a n := rfl

theorem objSettle_obj (s : State) (a : CtxId) (n : Nat) : s.objSettle.obj a n = s.obj a n := rfl

theorem objSettle_ctx (s : State) (a : CtxId) : s.objSettle.ctx a = s.ctx a := rfl

theorem modCmd_obj (s : State) (c : CtxId) (q : BitVec 3) (k : Word) (f : Cmd → Cmd) (a : CtxId) (n : Nat) :
    (s.modCmd c q k f).obj a n = s.obj a n := rfl

theorem modCmd_ctx (s : State) (c : CtxId) (q : BitVec 3) (k : Word) (f : Cmd → Cmd) (a : CtxId) :
    (s.modCmd c q k f).ctx a = s.ctx a := rfl

theorem modCtx_obj (s : State) (c : CtxId) (f : Ctx → Ctx) (a : CtxId) (n : Nat) : (s.modCtx c f).obj a n = s.obj a n := rfl

theorem setObj_ctx (s : State) (c : CtxId) (n : Nat) (o : Obj) (a : CtxId) : (s.setObj c n o).ctx a = s.ctx a := rfl

theorem setObj_obj_same (s : State) (c : CtxId) (n : Nat) (o : Obj) : (s.setObj c n o).obj c n = o := Tab.get_set_same _ _ _ _

theorem setObj_obj_ne (s : State) (c : CtxId) {n i : Nat} (o : Obj) (h : i ≠ n) : (s.setObj c n o).obj c i = s.obj c i :=
  Tab.get_set_ne _ _ _ fun e => h (objKey_injective c e)

theorem exists_mem_of_get_ne {α : Type} {d : α} {t : Tab α} {n : Nat} (h : Tab.get d t n ≠ d) :
    ∃ e ∈ t, e.1 = n ∧ e.2 = Tab.get d t n := by
  induction t with
  | nil => exact absurd rfl h
  | cons e t ih =>
    rw [Tab.get_cons] at h ⊢
    split at h
    · next he => exact ⟨e, List.mem_cons_self, he, by rw [if_pos he]⟩
    · next he =>
      obtain ⟨x, hx, hn, hv⟩ := ih h
      exact ⟨x, List.mem_cons_of_mem _ hx, hn, by rw [if_neg he, hv]⟩

/-- A live object stands among the live objects of its context. -/
theorem mem_objsOf {s : State} {c : CtxId} {n : Nat} (hn : n < 4096) (h : (s.obj c n).live = true) :
    n ∈ (s.objsOf c).map Prod.fst := by
  have hne : s.obj c n ≠ {} := fun e => by
    rw [e] at h
    cases h
  obtain ⟨e, he, hk, hv⟩ := exists_mem_of_get_ne hne
  replace hv : e.2.live = true := by rw [hv]; exact h
  refine List.mem_map.mpr ⟨(e.1 % 4096, e.2), List.mem_map.mpr ⟨e, List.mem_filter.mpr ⟨he, ?_⟩, rfl⟩, ?_⟩
  · rw [hk, hv, objKey, Bool.and_true, beq_iff_eq]
    omega
  · rw [hk, objKey]
    omega

/-- Fewer than 4,096 live objects leave a number free. -/
theorem freeObjs_ne_nil {s : State} {c : CtxId} (h : s.objCount c < 4096) : s.freeObjs c ≠ [] := by
  intro e
  have hall : List.range 4096 ⊆ (s.objsOf c).map Prod.fst := fun n hn => by
    refine mem_objsOf (List.mem_range.mp hn) ?_
    have := List.filter_eq_nil_iff.mp e n hn
    simpa using this
  have hlen := (List.nodup_range.subperm hall).length_le
  rw [List.length_range, List.length_map] at hlen
  exact absurd h (Nat.not_lt.mpr hlen)

theorem objCount_of_check {s : State} {c : CtxId} {b : Bytes} (h : s.objMapCheck c b = none) : s.objCount c < 4096 := by
  unfold objMapCheck at h
  dsimp only at h
  split at h
  · cases h
  split at h
  · cases h
  split at h
  · cases h
  split at h
  · cases h
  split at h
  · cases h
  split at h
  · cases h
  · next hn => omega

/-- The number that an OBJ_MAP gives its object (log entry 75). -/
def mapNumber (s : State) (c : CtxId) : Nat := (s.freeObjs c).getD (Config.choice s.freeCtr % (s.freeObjs c).length) 0

theorem mapNumber_mem {s : State} {c : CtxId} (h : s.freeObjs c ≠ []) : s.mapNumber c ∈ s.freeObjs c := by
  have hlt := Nat.mod_lt (Config.choice s.freeCtr) (List.length_pos_of_ne_nil h)
  rw [mapNumber, List.getD_eq_getElem _ _ hlt]
  exact List.getElem_mem hlt

/-- The object that an OBJ_MAP makes. -/
def mappedObj (s : State) (c : CtxId) (b : Bytes) : Obj :=
  { objOfBody b with reuse := (s.obj c (s.mapNumber c)).reuse, mapGen := (s.ctx c).transGen }

theorem objMapDo_eq (s : State) (c : CtxId) (k : Word) (b : Bytes) :
    s.objMapDo c 0 k b = (({ s with freeCtr := s.freeCtr + 1 } : State).setObj c (s.mapNumber c) (s.mappedObj c b)).cmdResult c 0 k
      stOk ((s.mappedObj c b).handle c (BitVec.ofNat 12 (s.mapNumber c))) := rfl

theorem objMapDo_obj (s : State) (c : CtxId) (k : Word) (b : Bytes) :
    (s.objMapDo c 0 k b).obj c (s.mapNumber c) = s.mappedObj c b := by
  rw [objMapDo_eq, cmdResult_obj, setObj_obj_same]

theorem objMapDo_obj_ne (s : State) {c : CtxId} (k : Word) (b : Bytes) {i : Nat} (h : i ≠ s.mapNumber c) :
    (s.objMapDo c 0 k b).obj c i = s.obj c i := by
  rw [objMapDo_eq, cmdResult_obj, setObj_obj_ne _ _ _ h]
  rfl

theorem objMapDo_found {s : State} {c : CtxId} {k : Word} {x : Cmd} (h : s.findCmd c 0 k = some x) (hr : x.result = none)
    (b : Bytes) : (s.objMapDo c 0 k b).findCmd c 0 k =
      some (withOutcome x stOk ((s.mappedObj c b).handle c (BitVec.ofNat 12 (s.mapNumber c)))) := by
  rw [objMapDo_eq]
  exact cmdResult_found (s := ({ s with freeCtr := s.freeCtr + 1 } : State).setObj c _ _) h hr _ _

/-- An OBJ_UNMAP whose object no running command names ends with ST_OK. -/
theorem objSettle_found {s : State} {c : CtxId} {q : BitVec 3} {k : Word} {x : Cmd} (h : s.findCmd c q k = some x)
    (ho : x.opcode = opObjUnmap) (hp : x.phase = .running) (hr : x.result = none) {t : Trans} (ht : x.trans = [t])
    (hn : s.namedRunning t.ctx t.num.toNat t.reuse = false) :
    s.objSettle.findCmd c q k = some { x with result := some (stOk, 0) } := by
  refine (findCmd_of_map (s := s) (t := s.objSettle) rfl (fun c q k y => ?_) h).trans (congrArg some ?_)
  · split <;> rfl
  · refine if_pos ⟨ho, hp, hr, ?_, ?_⟩
    · rw [ht]
      rfl
    · rw [ht]
      simp [hn]

/-- The state in which an OBJ_UNMAP has unmapped its object and names it. -/
def unmapping (s : State) (c : CtxId) (k : Word) (n : Nat) (t : Trans) : State :=
  (s.unmapObj c n).modCmd c 0 k fun z => if z.opcode = opObjUnmap then { z with trans := [t] } else z

theorem unmapping_named (s : State) (c : CtxId) (k : Word) (n : Nat) (t : Trans) (a : CtxId) (m : Nat) (r : BitVec 10) :
    (s.unmapping c k n t).namedRunning a m r = s.namedRunning a m r := by
  unfold namedRunning unmapping
  rw [modCmd_cmds, List.any_map]
  refine congrArg (fun p => s.fe.cmds.any p) (funext fun z => ?_)
  dsimp only [Function.comp]
  split
  · split
    · next ho => simp [ho, opObjUnmap]
    · rfl
  · rfl

section
variable {s : State} {c : CtxId} {k : Word} {x : Cmd} (hx : s.runningCmd c 0 k opObjUnmap = some x) (ht : x.trans = [])
include hx ht

theorem opUnmap_of_unmapped (h : (leBv 32 (slice x.body 0 4) : Word).extractLsb' 22 10 ≠ c ∨
    (s.obj c ((leBv 32 (slice x.body 0 4) : Word).extractLsb' 0 12).toNat).live = false ∨
    (leBv 32 (slice x.body 0 4) : Word).extractLsb' 12 10 ≠
      (s.obj c ((leBv 32 (slice x.body 0 4) : Word).extractLsb' 0 12).toNat).reuse) :
    s.opUnmap c k = s.cmdResult c 0 k stUnmapped 0 := by
  unfold opUnmap
  rw [hx]
  dsimp only
  rw [ht, if_neg (by simp), if_pos]
  rcases h with h | h | h
  · exact .inl h
  · exact .inr (.inl (by rw [h]; rfl))
  · exact .inr (.inr h)

theorem opUnmap_of_live {n : BitVec 12} (hn : (leBv 32 (slice x.body 0 4) : Word).extractLsb' 0 12 = n)
    (hc : (leBv 32 (slice x.body 0 4) : Word).extractLsb' 22 10 = c) (hl : (s.obj c n.toNat).live = true)
    (hr : (leBv 32 (slice x.body 0 4) : Word).extractLsb' 12 10 = (s.obj c n.toNat).reuse)
    (hnamed : s.namedRunning c n.toNat (s.obj c n.toNat).reuse = false) :
    ∃ u y, s.opUnmap c k = u ∧ u.obj c n.toNat = { reuse := (s.obj c n.toNat).reuse + 1 } ∧
      (u.ctx c).transGen = (s.ctx c).transGen + 1 ∧ u.findCmd c 0 k = some y ∧ y.result = some (stOk, 0) := by
  obtain ⟨hf, hp, hres, ho⟩ := runningCmd_some hx
  obtain ⟨t, htr, hop⟩ : ∃ t : Trans, (t.ctx = c ∧ t.num = BitVec.ofNat 12 n.toNat ∧ t.reuse = (s.obj c n.toNat).reuse) ∧
      s.opUnmap c k = (s.unmapping c k n.toNat t).objSettle := by
    refine ⟨s.transOf c n.toNat (s.obj c n.toNat)
      { va := (s.obj c n.toNat).va.toNat, len := (s.obj c n.toNat).size.toNat, write := false }, ⟨rfl, rfl, rfl⟩, ?_⟩
    unfold opUnmap
    rw [hx]
    dsimp only
    rw [ht, hn, if_neg (by simp), if_neg (by simp [hc, hl, hr])]
    rfl
  obtain ⟨htc, htn, htu⟩ := htr
  have hfound : (s.unmapping c k n.toNat t).findCmd c 0 k = some { x with trans := [t] } := by
    refine (findCmd_modCmd (s := s.unmapObj c n.toNat) (fun z => ?_) hf).trans (congrArg some (if_pos ho))
    split <;> rfl
  refine ⟨_, _, hop, ?_, ?_, objSettle_found hfound ho hp hres rfl ?_, rfl⟩
  · rw [objSettle_obj, unmapping, modCmd_obj, unmapObj, modCtx_obj, setObj_obj_same]
  · rw [objSettle_ctx, unmapping, modCmd_ctx, unmapObj, modCtx_ctx_same, setObj_ctx]
  · rw [unmapping_named, htc, htn, htu, BitVec.ofNat_toNat, BitVec.setWidth_eq]
    exact hnamed

end

/-! ### Contexts -/

theorem destroyCtx_ctx (s : State) (n : CtxId) : (s.destroyCtx n).ctx n = {} := by
  unfold destroyCtx
  dsimp only
  rw [modFunc_ctxAt, setCtx_ctx_same]

theorem cmdResult_ctx (s : State) (c : CtxId) (q : BitVec 3) (k : Word) (st : Status) (d : BitVec 32) (n : CtxId) :
    (s.cmdResult c q k st d).ctx n = s.ctx n := rfl

theorem modCtx_cancelled (s : State) (c : CtxId) (e : BitVec 3 × Word) :
    e ∈ ((s.modCtx c fun z => if z.cancelled.contains e then z else { z with cancelled := z.cancelled ++ [e] }).ctx c).cancelled := by
  rw [modCtx_ctx_same]
  split
  · next h => exact List.contains_iff_mem.mp h
  · exact List.mem_append_right _ List.mem_cons_self

/-- The context that a CTX_CREATE makes. -/
def createdCtx (s : State) (b : Bytes) : Ctx :=
  { phase := .active
    fn := byteAt b 2
    loc := (byteAt b 3).setWidth 6
    vd := some ((byteAt b 4).setWidth 6)
    rightsMax := (byteAt b 5).setWidth 3
    vector := leBv 11 (slice b 6 2)
    vaBase := leBv 64 (slice b 8 8)
    vaSize := leBv 64 (slice b 16 8)
    sq := Tab.mapAll {} (fun _ x => { x with head := 0, tail := 0 })
      (Tab.get ({} : IdleRings) (s.func (byteAt b 2)).idle ((byteAt b 3).setWidth 6 : BitVec 6).toNat).sq
    cq := { (Tab.get ({} : IdleRings) (s.func (byteAt b 2)).idle ((byteAt b 3).setWidth 6 : BitVec 6).toNat).cq with
      head := 0
      tail := 0 } }

theorem createCheck_of_free {s : State} {b : Bytes} (h0 : (leBv 10 (slice b 0 2) : CtxId) ≠ 0)
    (hp : (s.ctx (leBv 10 (slice b 0 2))).phase = .free) (ha : s.ctxAt (byteAt b 2) ((byteAt b 3).setWidth 6) = none) :
    s.createCheck b = if 64 ≤ (byteAt b 4).toNat ∨ !(s.vdev ((byteAt b 4).setWidth 6)).present then some stNoVd else none := by
  unfold createCheck
  dsimp only
  rw [if_neg (by rintro (h | h); exacts [h hp, h0 h]), ha, if_neg (by simp)]

theorem createCheck_of_busy {s : State} {b : Bytes} (h : (leBv 10 (slice b 0 2) : CtxId) = 0 ∨
    (s.ctx (leBv 10 (slice b 0 2))).phase ≠ .free ∨ s.ctxAt (byteAt b 2) ((byteAt b 3).setWidth 6) ≠ none) :
    s.createCheck b = some stCtxBusy := by
  unfold createCheck
  dsimp only
  rcases h with h | h | h
  · exact if_pos (.inr h)
  · exact if_pos (.inl h)
  · split
    · rfl
    · exact if_pos (Option.isSome_iff_ne_none.mpr h)

end State

/-- Settles O40: each command of Q0 by the equation of its operation. -/
theorem contextsAndObjects : Obligations.ContextsAndObjects := by
  unfold Obligations.ContextsAndObjects
  intro s c k left ended
  refine ⟨⟨fun h => ?_, fun h => ?_, fun h => ?_, fun h => ?_, fun h => ?_, fun h => ?_⟩, fun x hx => ?_, fun x hx => ?_,
    fun x hx => ?_, fun x hx => ?_, fun x hx => ?_, fun x hx ht => ?_, fun f loc => ?_⟩
  · exact exec_next rfl (by rw [State.opNop1, h])
  · exact exec_next rfl (congrArg State.settleAll (by rw [State.opCancel1, h]))
  · exact exec_next rfl (by rw [State.opCreate, h])
  · exact exec_next rfl (congrArg State.settleAll (by rw [State.opDestroy, h]))
  · exact exec_next rfl (by rw [State.opMap, h])
  · exact exec_next rfl (by rw [State.opUnmap, h])
  · obtain ⟨hf, -, hr, -⟩ := State.runningCmd_some hx
    exact ⟨s.cmdResult c 0 k stOk 0, exec_next rfl (by rw [State.opNop1, hx]), rfl, State.cmdResult_found hf hr _ _⟩
  · obtain ⟨hf, -, hr, -⟩ := State.runningCmd_some hx
    intro b q n
    refine ⟨fun h => exec_next rfl (congrArg State.settleAll ?_), fun h0 h4 => ⟨fun y hy hyr hyp => ?_, fun y hy hyr => ?_,
      fun hn => ⟨fun hlt => ?_, fun hle => ?_⟩⟩⟩
    · rw [State.opCancel1, hx]
      exact if_pos h
    · refine ⟨_, exec_next rfl (congrArg State.settleAll ((State.opCancel1_of_some hx h0 h4 hy).trans (if_neg ?_))), ?_⟩
      · rw [hyr]
        exact Bool.false_ne_true
      · exact State.cancelCmd_waiting hy hyr hyp hf hr (State.cancelQueue_ne h0 h4)
    · refine exec_next rfl (congrArg State.settleAll ((State.opCancel1_of_some hx h0 h4 hy).trans (if_pos ?_)))
      exact Option.isSome_iff_ne_none.mpr hyr
    · refine ⟨_, exec_next rfl (congrArg State.settleAll ((State.opCancel1_of_none hx h0 h4 hn).trans (if_pos hlt))), ?_, ?_⟩
      · rw [State.cmdResult_ctx]
        exact s.modCtx_cancelled c (q, n)
      · exact State.cmdResult_found hf hr _ _
    · exact exec_next rfl (congrArg State.settleAll ((State.opCancel1_of_none hx h0 h4 hn).trans (if_neg (Nat.not_lt.mpr hle))))
  · obtain ⟨hf, -, hr, -⟩ := State.runningCmd_some hx
    intro b n v
    refine ⟨fun h => exec_next rfl ?_, fun h0 hp ha => ⟨fun h => exec_next rfl ?_, fun hv hpr =>
      ⟨(s.createCtx x.body).cmdResult c 0 k stOk 0, exec_next rfl ?_, ?_⟩⟩⟩
    · rw [State.opCreate, hx]
      dsimp only
      rw [State.createCheck_of_busy h]
    · rw [State.opCreate, hx]
      dsimp only
      rw [State.createCheck_of_free h0 hp ha, if_pos]
      exact h.imp_right fun h => by rw [h]; rfl
    · rw [State.opCreate, hx]
      dsimp only
      rw [State.createCheck_of_free h0 hp ha, if_neg]
      rintro (h | h)
      · exact absurd hv (Nat.not_lt.mpr h)
      · rw [hpr] at h
        cases h
    · have hctx := State.setCtx_ctx_same s n (s.createdCtx x.body)
      rw [State.cmdResult_ctx]
      refine ⟨congrArg Ctx.phase hctx, congrArg Ctx.fn hctx, congrArg Ctx.loc hctx, congrArg Ctx.vd hctx,
        congrArg Ctx.rightsMax hctx, congrArg Ctx.vaBase hctx, congrArg Ctx.vaSize hctx,
        congrArg (fun k : Ctx => k.cq.head) hctx, congrArg (fun k : Ctx => k.cq.tail) hctx, ?_⟩
      exact State.cmdResult_found (s := s.createCtx x.body) hf hr _ _
  · intro n
    have hop (u : State) (h : u = if n = 0 then s.cmdResult c 0 k stRights 0 else if (s.ctx n).phase = .free then
        s.cmdResult c 0 k stNoTarget 0 else (s.destroyCtx n).cmdResult c 0 k stOk 0) : s.opDestroy c k = u := by
      rw [State.opDestroy, hx, h]
    refine ⟨fun h0 => exec_next rfl (congrArg State.settleAll (hop _ (if_pos h0).symm)),
      fun h0 hp => exec_next rfl (congrArg State.settleAll (hop _ ?_)), fun h0 hp => ⟨_, exec_next rfl (congrArg State.settleAll
        (hop ((s.destroyCtx n).cmdResult c 0 k stOk 0) ?_)), ?_⟩⟩
    · rw [if_neg h0, if_pos hp]
    · rw [if_neg h0, if_neg hp]
    · rw [State.cmdResult_ctx, State.destroyCtx_ctx]
  · obtain ⟨hf, -, hr, -⟩ := State.runningCmd_some hx
    refine ⟨fun st h => exec_next rfl ?_, fun h => ?_⟩
    · rw [State.opMap, hx]
      dsimp only
      rw [h]
    · have hmem := State.mapNumber_mem (State.freeObjs_ne_nil (State.objCount_of_check h))
      obtain ⟨hn, hfree⟩ := List.mem_filter.mp hmem
      refine ⟨s.objMapDo c 0 k x.body, s.mapNumber c, exec_next rfl ?_, List.mem_range.mp hn, ?_, ?_, fun i hi hne => ?_, ?_⟩
      · rw [State.opMap, hx]
        dsimp only
        rw [h]
      · simpa using hfree
      · exact s.objMapDo_obj c k x.body
      · exact s.objMapDo_obj_ne k x.body hne
      · rw [s.objMapDo_obj]
        exact State.objMapDo_found hf hr x.body
  · intro h n o
    refine ⟨fun hor => exec_next rfl (State.opUnmap_of_unmapped hx ht hor), fun hc hl hr hn => ?_⟩
    obtain ⟨u, y, hop, hrest⟩ := State.opUnmap_of_live hx ht rfl hc hl hr hn
    exact ⟨u, y, exec_next rfl hop, hrest⟩
  · refine ⟨fun h => exec_next rfl ?_, fun n hw hn => ⟨fun hp hg hh => exec_next rfl ?_, fun h => exec_next rfl ?_⟩⟩
    · rw [State.opRearm]
      rcases h with h | h
      · rw [h]
        rfl
      · split
        · rw [h]
        · rfl
    · rw [State.opRearm, hw, if_pos rfl, hn]
      exact if_pos ⟨hp, hg, by rw [hh]; rfl⟩
    · rw [State.opRearm, hw, if_pos rfl, hn]
      refine if_neg ?_
      rintro ⟨hp, hg, hh⟩
      rcases h with h | h | h
      · exact h hp
      · exact hg h
      · rw [h] at hh
        cases hh

end Sys2Proof.Machine
end

section
/-! PROOFS. Fill, copy, AES and GHASH commands (O41). -/

namespace Sys2Proof.Machine

namespace State

/-! ### The end of a step in which only commands end -/

/-- A command that has made every access and whose writes are performed ends (R45). -/
def cmdSettle (s : State) (x : Cmd) : State :=
  if x.issued && x.result.isNone && !s.cmdOpen x then s.cmdResult x.ctx x.queue x.k stOk x.detail else s

theorem cmdsSettle_eq (s : State) : s.cmdsSettle = s.fe.cmds.foldl cmdSettle s := rfl

theorem cmdResult_cmdOpen (s : State) (c : CtxId) (q : BitVec 3) (k : Word) (st : Status) (d : BitVec 32) (x : Cmd) :
    (s.cmdResult c q k st d).cmdOpen x = s.cmdOpen x := rfl

theorem cmdSettle_cmdOpen (s : State) (y x : Cmd) : (s.cmdSettle y).cmdOpen x = s.cmdOpen x := by
  unfold cmdSettle
  split
  · rfl
  · rfl

/-- An outcome stays whatever ends besides. -/
theorem cmdResult_of_result {s : State} {a : CtxId} {p : BitVec 3} {n : Word} {x : Cmd} (h : s.findCmd a p n = some x)
    (hr : x.result ≠ none) (c : CtxId) (q : BitVec 3) (k : Word) (st : Status) (d : BitVec 32) :
    (s.cmdResult c q k st d).findCmd a p n = some x := by
  rw [findCmd_of_map (cmdResult_cmds s c q k st d) (cmdIs_outcomeOf c q k st d) h, outcomeOf, if_neg fun e => hr e.2.2.2]

/-- A command of another name keeps what it holds. -/
theorem cmdResult_of_ne {s : State} {a : CtxId} {p : BitVec 3} {n : Word} {x y : Cmd} (h : s.findCmd a p n = some x)
    (hne : cmdIs a p n y = false) (st : Status) (d : BitVec 32) :
    (s.cmdResult y.ctx y.queue y.k st d).findCmd a p n = some x := by
  obtain ⟨hc, hq, hk⟩ := cmdIs_iff.mp (findCmd_key h)
  rw [findCmd_of_map (cmdResult_cmds s y.ctx y.queue y.k st d) (cmdIs_outcomeOf _ _ _ st d) h, outcomeOf, if_neg]
  rintro ⟨h1, h2, h3, -⟩
  rw [cmdIs_iff.mpr ⟨h1 ▸ hc, h2 ▸ hq, h3 ▸ hk⟩] at hne
  cases hne

theorem cmdSettle_foldl_result {a : CtxId} {p : BitVec 3} {n : Word} {x : Cmd} (hr : x.result ≠ none) (xs : List Cmd) {s : State}
    (h : s.findCmd a p n = some x) : (xs.foldl cmdSettle s).findCmd a p n = some x := by
  induction xs generalizing s with
  | nil => exact h
  | cons y xs ih =>
    refine ih ?_
    unfold cmdSettle
    split
    · exact cmdResult_of_result h hr _ _ _ _ _
    · exact h

/-- The first command of a name that has issued its writes, none of which is open, ends with ST_OK. -/
theorem cmdSettle_foldl_found {a : CtxId} {p : BitVec 3} {n : Word} {x : Cmd} (hi : x.issued = true) (hr : x.result = none)
    (xs : List Cmd) {s : State} (h : s.findCmd a p n = some x) (hx : xs.find? (cmdIs a p n) = some x) (ho : s.cmdOpen x = false) :
    (xs.foldl cmdSettle s).findCmd a p n = some (withOutcome x stOk x.detail) := by
  induction xs generalizing s with
  | nil => cases hx
  | cons y xs ih =>
    rw [List.foldl_cons]
    cases hy : cmdIs a p n y with
    | true =>
      rw [List.find?_cons_of_pos hy] at hx
      cases hx
      obtain ⟨rfl, rfl, rfl⟩ := cmdIs_iff.mp hy
      refine cmdSettle_foldl_result (by rw [withOutcome]; nofun) xs ?_
      rw [cmdSettle, if_pos (by rw [hi, hr, ho]; rfl)]
      exact cmdResult_found h hr _ _
    | false =>
      rw [List.find?_cons_of_neg (by rw [hy]; exact Bool.false_ne_true)] at hx
      refine ih ?_ hx ((s.cmdSettle_cmdOpen y x).trans ho)
      unfold cmdSettle
      split
      · exact cmdResult_of_ne h hy _ _
      · exact h

theorem cmdsSettle_same (s : State) : s.cmdsSettle.links = s.links ∧ s.cmdsSettle.red = s.red := by
  rw [cmdsSettle_eq]
  refine List.foldlRecOn (motive := fun (t : State) => t.links = s.links ∧ t.red = s.red) _ _ ⟨rfl, rfl⟩ ?_
  intro t ht y _
  unfold cmdSettle
  split
  · exact ht
  · exact ht

/-- A step with nothing else to settle ends with its commands. -/
theorem settleAll_of_cmds {s : State} (hr : ∀ l, ringWaits (s.link l) = []) (hh : ∀ l, (s.link l).io.held = [])
    (he : s.mem.ends = []) (hp : s.progsInUse = []) : s.settleAll = s.cmdsSettle := by
  obtain ⟨hl, hred⟩ := s.cmdsSettle_same
  have hp' : s.cmdsSettle.progsInUse = [] := by
    unfold progsInUse at hp ⊢
    rw [hred]
    exact hp
  rw [settleAll, ringsRetry_of_none hr, memSettle, memEndsTell_of_none he, settleIters_of_none hp', deliverRetry_of_none]
  intro l
  rw [link, hl, ← link]
  exact hh l

theorem settleAll_issued {s : State} {c : CtxId} {q : BitVec 3} {k : Word} {op : BitVec 16} {x : Cmd}
    (hx : s.runningCmd c q k op = some x) (hi : x.issued = true) (ho : s.cmdOpen x = false)
    (hr : ∀ l, ringWaits (s.link l) = []) (hh : ∀ l, (s.link l).io.held = []) (he : s.mem.ends = []) (hp : s.progsInUse = []) :
    s.settleAll.findCmd c q k = some (withOutcome x stOk x.detail) := by
  obtain ⟨hf, -, hres, -⟩ := runningCmd_some hx
  rw [settleAll_of_cmds hr hh he hp, cmdsSettle_eq]
  exact cmdSettle_foldl_found hi hres _ hf hf ho

/-! ### The row of an engine -/

section
variable {s : State} {c : CtxId} {q : BitVec 3} {k : Word} {op : BitVec 16} {f : Cmd → State}

theorem engineRow_of_none (h : s.runningCmd c q k op = none) : s.engineRow c q k op f = s := by rw [engineRow, h]

theorem engineRow_of_issued {x : Cmd} (h : s.runningCmd c q k op = some x) (hi : x.issued = true) :
    s.engineRow c q k op f = s := by
  rw [engineRow, h]
  exact if_pos hi

theorem engineRow_of_cancel {x : Cmd} (h : s.runningCmd c q k op = some x) (hi : x.issued = false) (hc : x.cancel = true) :
    s.engineRow c q k op f = s.cmdResult c q k stCancelled 0 := by
  rw [engineRow, h]
  dsimp only
  rw [hi, if_neg Bool.false_ne_true, hc, if_pos rfl]

theorem engineRow_of_run {x : Cmd} (h : s.runningCmd c q k op = some x) (hi : x.issued = false) (hc : x.cancel = false) :
    s.engineRow c q k op f = f x := by
  rw [engineRow, h]
  dsimp only
  rw [hi, if_neg Bool.false_ne_true, hc, if_neg Bool.false_ne_true]

end

/-- Sources in the block's own memory ask the fabric for nothing. -/
theorem fabFetch_of_local {s : State} {x : Cmd} {srcs : List (Nat × Trans)} (h : ∀ e ∈ srcs, e.2.fabric = false) :
    s.fabFetch x srcs = none := by
  have hl : fabLacks x srcs = [] := List.flatMap_eq_nil_iff.mpr fun e he => by
    rw [h e he]
    rfl
  rw [fabFetch, hl]
  rfl

/-- The command of a row that has issued its writes. -/
def issuedAt (s : State) (c : CtxId) (q : BitVec 3) (k : Word) : State := s.modCmd c q k fun y => { y with issued := true }

theorem accessEnd_of_name {s u : State} {c : CtxId} {q : BitVec 3} {k : Word} {op : BitVec 16} {x : Cmd} {t : State}
    (hx : t.runningCmd c q k op = some x) (r : List McRsp) : s.accessEnd u x (.ok () r) = u.issuedAt c q k := by
  obtain ⟨hf, -⟩ := runningCmd_some hx
  obtain ⟨rfl, rfl, rfl⟩ := cmdIs_iff.mp (findCmd_key hf)
  rfl

theorem accessEnd_failed {s u : State} {c : CtxId} {q : BitVec 3} {k : Word} {op : BitVec 16} {x : Cmd} {t : State}
    (hx : t.runningCmd c q k op = some x) (st : Status) (a : Bool) :
    s.accessEnd u x (.failed st a) = (u.cmdResult c q k st 0).alarmComma (.ctx c) a := by
  obtain ⟨hf, -⟩ := runningCmd_some hx
  obtain ⟨rfl, rfl, rfl⟩ := cmdIs_iff.mp (findCmd_key hf)
  rfl

/-! ### Fill -/

theorem opFill_of_lines {s : State} {c : CtxId} {k : Word} {x : Cmd} (hx : s.runningCmd c 4 k opMemFill = some x)
    (hi : x.issued = false) (hc : x.cancel = false) {t : Trans} (ht : x.trans = [t]) {u : State} {g : Got Unit}
    (h : s.fillLines x t (bytesLine ((List.replicate 8 (slice x.body 8 8)).flatten)) (transLines t) 0 = (u, g)) :
    s.opFill c k = s.accessEnd u x g := by
  rw [opFill, engineRow_of_run hx hi hc, ht]
  dsimp only
  rw [h]

/-- The request of a whole line of a command. -/
def lineWait (s : State) (x : Cmd) (t : Trans) (p : Line) : MemWait :=
  { master := .ctx x.ctx, key := t.key, dpa := BitVec.ofNat 43 (64 * transLine t 0), write := some (BitVec.allOnes 64, p)
    atomic := false, refs := s.ctxRefs x.ctx, tag := some (.cmd x.ctx x.queue x.k) }

theorem putLine_of_local {s u : State} {x : Cmd} {t : Trans} (hf : t.fabric = false) {p : Line}
    (h : s.memPut (s.lineWait x t p) = (u, none)) :
    s.putLine (.ctx x.ctx) x 0 t 0 (BitVec.allOnes 64) p [] = (u, .ok () []) := by
  rw [putLine, hf, if_neg Bool.false_ne_true, ← lineWait, h]

theorem memPut_of_try {s u : State} {w : MemWait} (hr : s.memRefusal w.master w.key w.dpa true = none)
    (h : s.memTry s.mem.waits w = some u) : s.memPut w = (u, none) := by
  rw [memPut, hr]
  dsimp only
  rw [memAccept, h]

/-- A fill of one line whose channel takes it at once. -/
theorem fillLines_one {s : State} {x : Cmd} {t : Trans} {p : Line} (hf : t.fabric = false) {id : BitVec 6} {w : Bytes}
    (hr : s.memRefusal (.ctx x.ctx) t.key (BitVec.ofNat 43 (64 * transLine t 0)) true = none)
    (hheld : (s.memIdx t.key).futureHeld = false) (hurgent : (s.memIdx t.key).urgent = false)
    (hb : s.lineBusy (BitVec.ofNat 43 (64 * transLine t 0)) = false)
    (hready : s.mcReady (dpaChan (BitVec.ofNat 43 (64 * transLine t 0))) = true)
    (hfence : s.fencedOn (BitVec.ofNat 43 (64 * transLine t 0)) = []) (hrefs : s.ctxRefs x.ctx = []) (hw : s.mem.waits = [])
    (hid : s.freeMcId (dpaChan (BitVec.ofNat 43 (64 * transLine t 0))) (dpaSub (BitVec.ofNat 43 (64 * transLine t 0))) = some id)
    (hkey : s.writeKeyOf t.key = some w) :
    ∃ u : State, s.fillLines x t p 1 0 = (u, .ok () []) ∧ Acted s u ∧
      u.outs = .mcReq (dpaChan (BitVec.ofNat 43 (64 * transLine t 0))) (dpaSub (BitVec.ofNat 43 (64 * transLine t 0))) id true
        (dpaLine (BitVec.ofNat 43 (64 * transLine t 0)))
        (sealLine w t.key (lineDpa (BitVec.ofNat 43 (64 * transLine t 0))) p).1
        (sealLine w t.key (lineDpa (BitVec.ofNat 43 (64 * transLine t 0))) p).2 :: s.outs := by
  have hissue := mcIssue_write (s := s) (i := t.key) (p := .write (.ctx x.ctx)) (tag := some (.cmd x.ctx x.queue x.k))
    (c := sealLine w t.key (lineDpa (BitVec.ofNat 43 (64 * transLine t 0))) p) hid hready
  have hwrite := mcWrite_of_key (m := .ctx x.ctx) (x := p) hkey hissue
  have htry := memTry_whole (w := s.lineWait x t p) hw hfence hb rfl hheld hurgent hrefs rfl hwrite
  have hput := putLine_of_local hf (memPut_of_try (w := s.lineWait x t p) hr htry)
  refine ⟨State.progress _ engFill, by rw [fillLines, hput]; rfl, (memTry_acted htry).trans (.of_fe rfl), ?_⟩
  exact (noteSealed_outs _ _ _ _).trans rfl

/-- A command found stays found where only activity is counted, and takes the mark of its issued writes. -/
theorem issuedAt_found {s u : State} {c : CtxId} {q : BitVec 3} {k : Word} {x : Cmd} (h : s.findCmd c q k = some x)
    (hu : Acted s u) : (u.issuedAt c q k).findCmd c q k = some { x with issued := true } :=
  findCmd_modCmd (s := u) (fun _ => rfl) (by rwa [findCmd, hu.cmds])

/-! ### Copy, AES and GHASH -/

section
variable {s : State} {c : CtxId} {k : Word} {x : Cmd} (hi : x.issued = false) (hc : x.cancel = false)
include hi hc

theorem opCopy_of_lines (hx : s.runningCmd c 4 k opMemCopy = some x) {dst src : Trans} (ht : x.trans = [dst, src])
    (hs : src.fabric = false) {rsps r : List McRsp} {u : State}
    (h : s.copyLines x dst src (transLines dst) 0 rsps = (u, .ok () r)) : s.opCopy c k rsps = u.issuedAt c 4 k := by
  rw [opCopy, engineRow_of_run hx hi hc, ht]
  dsimp only
  rw [fabFetch_of_local (by simpa using hs), h]
  exact accessEnd_of_name hx r

theorem csAes_of_ranges {op : BitVec 16} (hx : s.runningCmd c 3 k op = some x) {src dst key : Trans}
    (ht : x.trans = [src, dst, key]) (hs : src.fabric = false) (hk : key.fabric = false) (hkey : x.csKey = none)
    {f : Bytes → Bytes → Bytes} {rsps r1 r2 r3 : List McRsp} {u v w : State} {kb bs : Bytes}
    (h1 : s.getRange (.ctx c) x 2 key rsps = (u, .ok kb r1))
    (h2 : (u.modCmd c 3 k fun y => { y with csKey := some (leBv 512 (kb ++ tailKeys kb)) }).getRange (.ctx c) x 0 src r1 =
      (v, .ok bs r2))
    (h3 : (v.csNote c (bs.length / 16) (bs.length / 16)).putRange (.ctx c) x 1 dst
      ((chunks 16 bs).map (f (kb ++ tailKeys kb))).flatten r2 = (w, .ok () r3)) :
    s.csAes c k op f rsps = w.issuedAt c 3 k := by
  obtain ⟨rfl, hq, rfl⟩ := cmdIs_iff.mp (findCmd_key (runningCmd_some hx).1)
  have hread : s.csKeyRead x.ctx x key rsps =
      (u.modCmd x.ctx 3 x.k fun y => { y with csKey := some (leBv 512 (kb ++ tailKeys kb)) }, .ok (kb ++ tailKeys kb) r1) := by
    rw [csKeyRead, hkey]
    dsimp only
    rw [h1, ← hq]
  rw [csAes, engineRow_of_run hx hi hc, ht]
  dsimp only
  rw [fabFetch_of_local (by simp [hs, hk]), hread]
  dsimp only
  rw [h2]
  dsimp only
  rw [h3]
  exact accessEnd_of_name hx r3

theorem csGhashRow_of_ranges (hx : s.runningCmd c 3 k opCsGhash = some x) (hg : s.ghashGone = false) {src h yin yout : Trans}
    (ht : x.trans = [src, h, yin, yout]) (hs : src.fabric = false) (hh : h.fabric = false) (hyi : yin.fabric = false)
    {rsps r1 r2 r3 r4 : List McRsp} {u v w z : State} {y hb bs : Bytes}
    (h1 : s.getRange (.ctx c) x 2 yin rsps = (u, .ok y r1)) (h2 : u.getRange (.ctx c) x 1 h r1 = (v, .ok hb r2))
    (h3 : v.getRange (.ctx c) x 0 src r2 = (w, .ok bs r3))
    (h4 : (w.csNote c 0 (bs.length / 16)).putRange (.ctx c) x 3 yout (ghashFrom hb y (chunks 16 bs)) r3 = (z, .ok () r4)) :
    s.csGhashRow c k rsps = z.issuedAt c 3 k := by
  rw [csGhashRow, engineRow_of_run hx hi hc, hg, if_neg Bool.false_ne_true, ht]
  dsimp only
  rw [fabFetch_of_local (by simp [hs, hh, hyi]), h1]
  dsimp only
  rw [h2]
  dsimp only
  rw [h3]
  dsimp only
  rw [h4]
  exact accessEnd_of_name hx r4

end

end State

/-- Settles O41: each row by what its accesses leave; the end of a step ends the commands that are through. -/
theorem engineCommands : Obligations.EngineCommands := by
  unfold Obligations.EngineCommands
  intro s c k rsps issued rows
  refine ⟨fun q op i hm => ?_, fun x t u hx hi hc ht hf => ?_, fun x dst src u r hx hi hc ht hs _ h => ?_, ?_, fun x hx hi hc hg => ?_,
    fun x src h yin yout u v w z y hb bs r1 r2 r3 r4 hx hi hc hg ht hs hh hyi _ h1 h2 h3 h4 => ?_⟩
  · have hrow : ∃ f : Cmd → State, exec i s = .next (s.engineRow c q k op f).settleAll := by
      simp only [rows, List.mem_cons, List.not_mem_nil, or_false, Prod.mk.injEq] at hm
      rcases hm with ⟨rfl, rfl, rfl⟩ | ⟨rfl, rfl, rfl⟩ | ⟨rfl, rfl, rfl⟩ | ⟨rfl, rfl, rfl⟩ | ⟨rfl, rfl, rfl⟩
      all_goals exact ⟨_, rfl⟩
    obtain ⟨f, hrow⟩ := hrow
    refine ⟨fun h => ?_, fun x hx => ⟨fun hi => ?_, fun hi ho hr hh he hp => ?_, fun hi hc => ?_⟩⟩
    · rw [hrow, State.engineRow_of_none h]
    · rw [hrow, State.engineRow_of_issued hx hi]
    · exact ⟨s.settleAll, _, by rw [hrow, State.engineRow_of_issued hx hi],
        State.settleAll_issued hx hi ho hr hh he hp, rfl⟩
    · rw [hrow, State.engineRow_of_cancel hx hi hc]
  · intro p
    refine ⟨fun r h => exec_next rfl (congrArg State.settleAll ?_), fun st a h => exec_next rfl (congrArg State.settleAll ?_), ?_⟩
    · rw [State.opFill_of_lines hx hi hc ht h]
      exact State.accessEnd_of_name hx r
    · rw [State.opFill_of_lines hx hi hc ht h]
      exact State.accessEnd_failed hx st a
    · intro id w hone d hr hheld hurgent hb hready hfence hrefs hw hid hkey
      obtain ⟨rfl, -, -⟩ := State.cmdIs_iff.mp (State.findCmd_key (State.runningCmd_some hx).1)
      obtain ⟨v, hv, hact, houts⟩ := State.fillLines_one (p := p) hf hr hheld hurgent hb hready hfence hrefs hw hid hkey
      refine ⟨v.issuedAt x.ctx 4 k, exec_next rfl (congrArg State.settleAll ?_),
        State.issuedAt_found (State.runningCmd_some hx).1 hact, houts⟩
      have hlines : s.fillLines x t p (transLines t) 0 = (v, .ok () []) := by rw [hone, hv]
      rw [State.opFill_of_lines hx hi hc ht hlines]
      exact State.accessEnd_of_name hx []
  · exact exec_next rfl (congrArg State.settleAll (State.opCopy_of_lines hi hc hx ht hs h))
  · intro dec x src dst key u v w kb bs r1 r2 r3 hx hi hc ht hs _ hk hkey h1 reg held h2 h3
    cases dec
    case false =>
      rw [if_neg Bool.false_ne_true] at h3
      have hop : s.csAes c k opCsEnc State.csEncrypt rsps = w.issuedAt c 3 k :=
        State.csAes_of_ranges hi hc hx ht hs hk hkey h1 h2 h3
      exact (exec_next (i := .csAesEnc c k rsps) rfl (congrArg State.settleAll hop) :)
    case true =>
      rw [if_pos rfl] at h3
      have hop : s.csAes c k opCsDec State.csDecrypt rsps = w.issuedAt c 3 k :=
        State.csAes_of_ranges hi hc hx ht hs hk hkey h1 h2 h3
      exact (exec_next (i := .csAesDec c k rsps) rfl (congrArg State.settleAll hop) :)
  · refine exec_next rfl (congrArg State.settleAll ?_)
    rw [State.csGhashRow, State.engineRow_of_run hx hi hc, hg, if_pos rfl]
  · exact exec_next rfl (congrArg State.settleAll (State.csGhashRow_of_ranges hi hc hx hg ht hs hh hyi h1 h2 h3 h4))

end Sys2Proof.Machine
end

section
/-! PROOFS. Staging in and out, and the staging keys (O42). -/

namespace Sys2Proof.Machine

namespace State

/-! ### The staging key of a direction -/

/-- The rekey of a direction. -/
def rekeyOf (z : Sess) (dir : Nat) : Option Rekey := if dir = 0 then z.rekeyIn else z.rekeyOut

/-- A session with the rekey of a direction set. -/
def withRekey (z : Sess) (dir : Nat) (r : Option Rekey) : Sess :=
  if dir = 0 then { z with rekeyIn := r } else { z with rekeyOut := r }

/-- The state in which a direction begins to roll. -/
def rolling (s : State) (f : Fn) (dir : Nat) (r : Rekey) : State :=
  (s.progress engTrust).modSess f fun z => if dir = 0 then { z with rekeyIn := some r } else { z with rekeyOut := some r }

section
variable {s : State} {c : CtxId} {k : Word} {x : Cmd} {f : Fn} {dir : Nat} {gen : BitVec 32}

theorem rollDir_of_none (h : rekeyOf (s.sessOf f) dir = none) : s.rollDir f dir = s := by
  unfold rekeyOf at h
  unfold rollDir
  dsimp only
  rw [h]

theorem rollDir_of_busy {r : Rekey} (h : rekeyOf (s.sessOf f) dir = some r) (hb : s.dirBusy f dir = true) :
    s.rollDir f dir = s := by
  unfold rekeyOf at h
  unfold rollDir
  dsimp only
  rw [h]
  exact if_pos hb

/-- The state in which a direction has rolled: the new key, the session's counts anew. -/
def rolledTo (s : State) (f : Fn) (dir : Nat) (gen : BitVec 32) : State :=
  (s.installStageKey f dir gen).modSess f fun z =>
    if dir = 0 then { z with rekeyIn := none, seqIn := 0, thrIn := false } else { z with rekeyOut := none, seqOut := 0, thrOut := false }

theorem rollDir_of_idle {r : Rekey} (h : rekeyOf (s.sessOf f) dir = some r) (hb : s.dirBusy f dir = false)
    (hk : s.keyUsable (rowSss f) = true) :
    s.rollDir f dir = (s.rolledTo f dir r.gen).cmdResult r.ctx 1 r.k stOk r.gen := by
  unfold rekeyOf at h
  unfold rollDir
  dsimp only
  rw [h]
  dsimp only
  rw [hb, if_neg Bool.false_ne_true, hk, if_pos rfl]
  rfl

theorem modSess_sessOf (s : State) (f : Fn) (g : Sess → Sess) : (s.modSess f g).sessOf f = g (s.sessOf f) :=
  congrArg Func.sess (modFunc_func_same s f fun k => { k with sess := g k.sess })

theorem rolling_sessOf (s : State) (f : Fn) (dir : Nat) (r : Rekey) :
    (s.rolling f dir r).sessOf f = withRekey (s.sessOf f) dir (some r) := modSess_sessOf _ _ _

theorem rolling_dirBusy (s : State) (f : Fn) (dir : Nat) (r : Rekey) (d : Nat) : (s.rolling f dir r).dirBusy f d = s.dirBusy f d :=
  rfl

theorem rolling_keys (s : State) (f : Fn) (dir : Nat) (r : Rekey) : (s.rolling f dir r).keys = s.keys := rfl

theorem rolling_found (h : s.findCmd c 1 k = some x) (f : Fn) (dir : Nat) (r : Rekey) :
    (s.rolling f dir r).findCmd c 1 k = some x := h

theorem installStageKey_fe (s : State) (f : Fn) (dir : Nat) (gen : BitVec 32) : (s.installStageKey f dir gen).fe = s.fe :=
  (installStageKey_keeps (K := 0x400040) (Keeps.refl _ s) (by decide)).fe.resolve_left (by decide)

/-- The row of a direction that has rolled. -/
theorem rolledTo_row (h : (s.row (rowStage f dir)).outOfUse = false) :
    ((s.rolledTo f dir gen).row (rowStage f dir)).gen = gen ∧ ((s.rolledTo f dir gen).row (rowStage f dir)).valid = true ∧
      ((s.rolledTo f dir gen).row (rowStage f dir)).material = s.stageKey f dir gen ∧
      ((s.rolledTo f dir gen).row (rowStage f dir)).use = 0 := by
  have hrow : (s.rolledTo f dir gen).row (rowStage f dir) = (s.installStageKey f dir gen).row (rowStage f dir) := rfl
  rw [hrow, installStageKey, writeKey_row_same h]
  exact ⟨rfl, rfl, rfl, rfl⟩

theorem rolledTo_fe (s : State) (f : Fn) (dir : Nat) (gen : BitVec 32) : (s.rolledTo f dir gen).fe.cmds = s.fe.cmds :=
  congrArg (·.cmds) (s.installStageKey_fe f dir gen)

theorem cmdResult_sessOf (s : State) (c : CtxId) (q : BitVec 3) (k : Word) (st : Status) (d : BitVec 32) (f : Fn) :
    (s.cmdResult c q k st d).sessOf f = s.sessOf f := rfl

theorem rolledTo_sessOf (s : State) (f : Fn) (dir : Nat) (gen : BitVec 32) : (s.rolledTo f dir gen).sessOf f =
    if dir = 0 then { s.sessOf f with rekeyIn := none, seqIn := 0, thrIn := false }
    else { s.sessOf f with rekeyOut := none, seqOut := 0, thrOut := false } := by
  have h : (s.installStageKey f dir gen).sessOf f = s.sessOf f := by rw [sessOf, func, installStageKey_fe]; rfl
  rw [rolledTo, modSess_sessOf, h]

/-! ### STG_REKEY -/

/-- A rekey belongs to the command that made it. -/
def rekeyMine (c : CtxId) (k : Word) (r : Option Rekey) : Bool := match r with
  | some r => r.ctx == c && r.k == k
  | none => false

/-- The direction and the generation that a STG_REKEY names. -/
def rekeyDir (x : Cmd) : Nat := (byteAt x.body 0).toNat % 2
def rekeyGen (x : Cmd) : BitVec 32 := leBv 32 (slice x.body 4 4)

theorem opRekey_of_other (hx : s.runningCmd c 1 k opStgRekey = some x)
    (hm : rekeyMine c k (rekeyOf (s.sessOf (s.ctx c).fn) (rekeyDir x)) = false) :
    s.opRekey c k = if x.cancel then s.cmdResult c 1 k stCancelled 0
      else if !(s.sessOf (s.ctx c).fn).opened || !s.keyUsable (rowSss (s.ctx c).fn) then s.cmdResult c 1 k stKeyOrphan 0
      else if (rekeyOf (s.sessOf (s.ctx c).fn) (rekeyDir x)).isSome then s.cmdResult c 1 k stSlotBusy 0
      else if rekeyGen x ≠ (s.row (rowStage (s.ctx c).fn (rekeyDir x))).gen + 1 ∨
          slice x.body 8 16 ≠ s.stageKc (s.ctx c).fn (rekeyDir x) (rekeyGen x) then s.cmdResult c 1 k stKeyUnwrap 0
      else (s.rolling (s.ctx c).fn (rekeyDir x) { ctx := c, k := k, gen := rekeyGen x }).stgRoll (s.ctx c).fn := by
  unfold opRekey
  rw [hx]
  exact if_neg fun e => Bool.false_ne_true (hm.symm.trans e)

/-- A direction that rolls at once leaves the other as it was. -/
theorem stgRoll_of_idle {z : Sess} (hz : s.sessOf f = z) (hin : z.rekeyIn = none) (hout : z.rekeyOut = none) (hd : dir < 2)
    (hb : s.dirBusy f dir = false) (hk : s.keyUsable (rowSss f) = true) (r : Rekey) :
    (s.rolling f dir r).stgRoll f = ((s.rolling f dir r).rolledTo f dir r.gen).cmdResult r.ctx 1 r.k stOk r.gen := by
  have hs := s.rolling_sessOf f dir r
  rw [hz] at hs
  obtain rfl | rfl : dir = 0 ∨ dir = 1 := by omega
  · have h0 : rekeyOf ((s.rolling f 0 r).sessOf f) 0 = some r := by rw [hs]; rfl
    rw [stgRoll, rollDir_of_idle h0 hb hk]
    refine rollDir_of_none ?_
    rw [cmdResult_sessOf, rolledTo_sessOf, hs]
    exact hout
  · have h0 : rekeyOf ((s.rolling f 1 r).sessOf f) 0 = none := by rw [hs]; exact hin
    have h1 : rekeyOf ((s.rolling f 1 r).sessOf f) 1 = some r := by rw [hs]; rfl
    rw [stgRoll, rollDir_of_none h0, rollDir_of_idle h1 hb hk]

theorem stgRoll_of_busy {z : Sess} (hz : s.sessOf f = z) (hin : z.rekeyIn = none) (hout : z.rekeyOut = none) (hd : dir < 2)
    (hb : s.dirBusy f dir = true) (r : Rekey) : (s.rolling f dir r).stgRoll f = s.rolling f dir r := by
  have hs := s.rolling_sessOf f dir r
  rw [hz] at hs
  obtain rfl | rfl : dir = 0 ∨ dir = 1 := by omega
  · have h0 : rekeyOf ((s.rolling f 0 r).sessOf f) 0 = some r := by rw [hs]; rfl
    have h1 : rekeyOf ((s.rolling f 0 r).sessOf f) 1 = none := by rw [hs]; exact hout
    rw [stgRoll, rollDir_of_busy h0 hb, rollDir_of_none h1]
  · have h0 : rekeyOf ((s.rolling f 1 r).sessOf f) 0 = none := by rw [hs]; exact hin
    have h1 : rekeyOf ((s.rolling f 1 r).sessOf f) 1 = some r := by rw [hs]; rfl
    rw [stgRoll, rollDir_of_none h0, rollDir_of_busy h1 hb]

end

/-! ### The rows of STG_IN and STG_OUT -/

section
variable {s : State} {c : CtxId} {k : Word} {op : BitVec 16} {f : State → Cmd → Trans → RowEnd} {x : Cmd}

theorem stgRow_of_none (h : s.runningCmd c 4 k op = none) : s.stgRow c k op f = s := by rw [stgRow, h]

theorem stgRow_of_issued (h : s.runningCmd c 4 k op = some x) (hi : x.issued = true) : s.stgRow c k op f = s := by
  rw [stgRow, h]
  exact if_pos hi

variable (h : s.runningCmd c 4 k op = some x) (hi : x.issued = false)
include h hi

theorem stgRow_of_cancel (hc : x.cancel = true) : s.stgRow c k op f = s.cmdResult c 4 k stCancelled 0 := by
  rw [stgRow, h]
  dsimp only
  rw [hi, if_neg Bool.false_ne_true, hc, if_pos rfl]

variable (hc : x.cancel = false)
include hc

theorem stgRow_of_fragment {d : Slot} (hd : s.ctxSlot c = some d) (hf : s.isFragment d = true) :
    s.stgRow c k op f = s.cmdResult c 4 k stFragment 0 := by
  rw [stgRow, h]
  dsimp only
  rw [hi, if_neg Bool.false_ne_true, hc, if_neg Bool.false_ne_true, hd, if_pos hf]

variable (hs : ∀ d, s.ctxSlot c = some d → s.isFragment d = false)
include hs

theorem stgRow_of_unfragmented : s.stgRow c k op f =
    if !s.portOn portStaging then s.cmdResult c 4 k stFnOff 0 else match x.trans with
      | [t] => (f s x t).getD s
      | _ => s := by
  rw [stgRow, h]
  dsimp only
  rw [hi, if_neg Bool.false_ne_true, hc, if_neg Bool.false_ne_true]
  refine if_neg ?_
  split
  · next d hd =>
    rw [hs d hd]
    exact Bool.false_ne_true
  · exact Bool.false_ne_true

theorem stgRow_of_off (hp : s.portOn portStaging = false) : s.stgRow c k op f = s.cmdResult c 4 k stFnOff 0 := by
  rw [stgRow_of_unfragmented h hi hc hs, hp]
  rfl

theorem stgRow_of_run (hp : s.portOn portStaging = true) {t : Trans} (ht : x.trans = [t]) :
    s.stgRow c k op f = (f s x t).getD s := by
  rw [stgRow_of_unfragmented h hi hc hs, hp, ht]
  rfl

end

/-! ### One chunk -/

section
variable {s u : State} {x : Cmd} {t : Trans} {f : Fn}

/-- One chunk comes in: its pieces are written before its tag is judged (R489). -/
theorem inChunks_one {d : DmaData} {w : Bool} {r rsps : List McRsp} (hst : d.status = 0)
    (hl : d.data.length = chunkLen x.body 0 + 16)
    (hput : (s.dmaForget x).putPieces x t (tilePieces t.target.toNat x.body (chunkLen x.body 0) 0 (chunkLen x.body 0))
      (gcmOpen (stgKey x) (chunkIv x 0) (d.data.take (chunkLen x.body 0))) false rsps = (u, w, .ok () r)) :
    s.inChunks x t f 1 0 [d] rsps =
      if gcmTag (stgKey x) (chunkIv x 0) (stgAad x f 0) (d.data.take (chunkLen x.body 0)) =
          slice d.data (chunkLen x.body 0) 16 then some ((u.chunkNote x f 0 0).stgDone x t f 0)
      else some (((u.chunkNote x f 0 0).stgTaint t).cmdResult x.ctx x.queue x.k stAuthUntrusted 0) := by
  have hcut : (d.data.take (chunkLen x.body 0)).length = chunkLen x.body 0 := by
    rw [List.length_take, hl]
    omega
  have hwhole : dmaWhole d (chunkLen x.body 0 + 16) = true := by simp [dmaWhole, hl]
  rw [inChunks]
  dsimp only
  rw [if_neg (by simp), hwhole, if_neg (by simp), hst, if_pos rfl, beq_self_eq_true, if_pos rfl, hcut, Nat.mul_zero, hput]
  dsimp only
  rw [if_neg (by simp), inChunks]
  exact ite_congr beq_iff_eq.eq (fun _ => rfl) fun _ => rfl

/-- One chunk goes out: read, sealed and written to the host (R490). -/
theorem outChunks_one {bs : Bytes} {r rsps : List McRsp}
    (hget : s.getPieces x t (tilePieces t.target.toNat x.body (chunkLen x.body 0) 0 (chunkLen x.body 0)) rsps =
      (u, .ok bs r)) :
    s.outChunks x t f 1 0 rsps = some (((u.chunkNote x f 1 0).hostWrite f (chunkHost x.body 0)
      ((gcmSeal (stgKey x) (chunkIv x 0) (stgAad x f 1) bs).1 ++ (gcmSeal (stgKey x) (chunkIv x 0) (stgAad x f 1) bs).2)).stgDone
        x t f 1) := by
  rw [outChunks]
  dsimp only
  rw [Nat.mul_zero, hget]
  dsimp only
  rw [outChunks]

theorem inTooLong_one {d : DmaData} (hn : stgChunks x.body = 1) (hl : d.data.length = chunkLen x.body 0 + 16) :
    inTooLong x [d] = false := by
  rw [inTooLong, hn]
  simp [hl]

end

end State

/-- Settles O42: the branches of STG_REKEY, and the chunk boundary and one chunk of STG_IN and STG_OUT. -/
theorem stagingCommands : Obligations.StagingCommands := by
  unfold Obligations.StagingCommands
  intro s c k host rsps f
  refine ⟨fun h => exec_next rfl (by rw [State.opRekey, h]), fun x hx => ?_, fun op i hm => ?_,
    fun x t d u w r n hx hi hc ha hs hp ht hone hd hst hn hl => ?_, fun x t u bs r n hx hi hc hrefs hs hp ht hone hn hget => ?_⟩
  · obtain ⟨hf, -, hres, -⟩ := State.runningCmd_some hx
    intro z dir gen cur sent
    have hdir : dir < 2 := Nat.mod_lt _ (by decide)
    have hop (hm : State.rekeyMine c k cur = false) := State.opRekey_of_other hx hm
    have hnone (h : cur = none) : State.rekeyMine c k cur = false := by rw [h]; rfl
    have hboth (hin : z.rekeyIn = none) (hout : z.rekeyOut = none) : cur = none := by
      show (if dir = 0 then z.rekeyIn else z.rekeyOut) = none
      rw [hin, hout, ite_self]
    have hroll (hcur : cur = none) (hc : x.cancel = false) (ho : z.opened = true) (hk : s.keyUsable (State.rowSss f) = true)
        (hsent : sent) : s.opRekey c k = (s.rolling f dir { ctx := c, k := k, gen := gen }).stgRoll f := by
      obtain ⟨hg, hkc⟩ := hsent
      rw [hop (hnone hcur), hc, if_neg Bool.false_ne_true, show (s.sessOf (s.ctx c).fn).opened = true from ho, hk,
        if_neg (by decide), show State.rekeyOf (s.sessOf (s.ctx c).fn) (State.rekeyDir x) = none from hcur, if_neg (by decide)]
      exact if_neg fun e => e.elim (fun h => h hg) fun h => h hkc
    refine ⟨fun hcur hc => exec_next rfl ?_, fun hcur hc hor => exec_next rfl ?_, fun y hy hne hc ho hk => exec_next rfl ?_,
      fun hcur hc ho hk hsent => exec_next rfl ?_, fun hin hout hc ho hk hsent hb hu => ?_, fun hin hout hc ho hk hsent hb => ?_⟩
    · rw [hop (hnone hcur), hc, if_pos rfl]
    · rw [hop (hnone hcur), hc, if_neg Bool.false_ne_true, if_pos]
      rcases hor with h | h
      · rw [show (s.sessOf (s.ctx c).fn).opened = false from h]
        rfl
      · rw [h, Bool.not_false, Bool.or_true]
    · have hm : State.rekeyMine c k cur = false := by
        rw [hy, State.rekeyMine]
        simpa using fun h1 h2 => hne ⟨h1, h2⟩
      rw [hop hm, hc, if_neg Bool.false_ne_true, show (s.sessOf (s.ctx c).fn).opened = true from ho, hk, if_neg (by decide),
        show State.rekeyOf (s.sessOf (s.ctx c).fn) (State.rekeyDir x) = some y from hy, Option.isSome_some, if_pos rfl]
    · rw [hop (hnone hcur), hc, if_neg Bool.false_ne_true, show (s.sessOf (s.ctx c).fn).opened = true from ho, hk,
        if_neg (by decide), show State.rekeyOf (s.sessOf (s.ctx c).fn) (State.rekeyDir x) = none from hcur, if_neg (by decide)]
      exact if_pos (not_and_or.mp hsent)
    · refine ⟨_, exec_next rfl ((hroll (hboth hin hout) hc ho hk hsent).trans (State.stgRoll_of_idle rfl hin hout hdir hb hk _)), ?_⟩
      obtain ⟨h1, h2, h3, h4⟩ := State.rolledTo_row (s := s.rolling f dir { ctx := c, k := k, gen := gen }) (f := f) (dir := dir)
        (gen := gen) hu
      refine ⟨h1, h2, h3, h4, State.cmdResult_found ?_ hres _ _⟩
      rw [State.findCmd, State.rolledTo_fe]
      exact hf
    · refine ⟨_, exec_next rfl ((hroll (hboth hin hout) hc ho hk hsent).trans (State.stgRoll_of_busy rfl hin hout hdir hb _)),
        rfl, ?_, hf⟩
      rw [State.rolling_sessOf, State.withRekey]
      by_cases h : dir = 0
      · rw [if_pos h, if_pos h]
      · rw [if_neg h, if_neg h]
  · have hrow : ∃ g, exec i s = .next (s.stgRow c k op g).settleAll := by
      simp only [List.mem_cons, List.not_mem_nil, or_false, Prod.mk.injEq] at hm
      rcases hm with ⟨rfl, rfl⟩ | ⟨rfl, rfl⟩
      all_goals exact ⟨_, rfl⟩
    obtain ⟨g, hrow⟩ := hrow
    refine ⟨fun h => ?_, fun x hx => ?_⟩
    · rw [hrow, State.stgRow_of_none h]
    · intro inFrag
      refine ⟨fun hi => ?_, fun hi ho hr hh he hp => ?_, fun hi hc => ?_, fun hi hc hfrag => ?_, fun hi hc hfrag hp => ?_⟩
      · rw [hrow, State.stgRow_of_issued hx hi]
      · exact ⟨s.settleAll, _, by rw [hrow, State.stgRow_of_issued hx hi],
          State.settleAll_issued hx hi ho hr hh he hp, rfl⟩
      · rw [hrow, State.stgRow_of_cancel hx hi hc]
      · obtain ⟨d, hd, hfd⟩ := hfrag
        rw [hrow, State.stgRow_of_fragment hx hi hc hd hfd]
      · have hs (d : Slot) (hd : s.ctxSlot c = some d) : s.isFragment d = false :=
          Bool.eq_false_iff.mpr fun e => hfrag ⟨d, hd, e⟩
        rw [hrow, State.stgRow_of_off hx hi hc hs hp]
  · subst hd hn
    intro got hput hcut
    have hop : s.opIn c k [d] rsps = (s.inChunks x t f 1 0 [d] rsps).getD s := by
      rw [State.opIn, State.stgRow_of_run hx hi hc hs hp ht, ha, if_neg (by decide), State.inTooLong_one hone hl, if_neg Bool.false_ne_true, hone]
    have hchunk := State.inChunks_one (f := f) hst hl hput
    refine ⟨fun htag => exec_next rfl (congrArg State.settleAll ?_), fun htag => exec_next rfl (congrArg State.settleAll ?_)⟩
    · rw [hop, hchunk, if_pos htag, Option.getD_some]
    · rw [hop, hchunk, if_neg htag, Option.getD_some]
  · subst hn
    refine exec_next rfl (congrArg State.settleAll ?_)
    rw [State.opOut, State.stgRow_of_run hx hi hc hs hp ht, hrefs, List.isEmpty_nil, if_pos rfl, hone, State.outChunks_one hget, Option.getD_some]

end Sys2Proof.Machine
end

section
/-! PROOFS. PROG_LOAD, PROG_GO, PROG_UNLOAD and the first REDUCE group of a link (O44). -/

namespace Sys2Proof.Machine

namespace State

/-! ### PROG_LOAD -/

section
variable {s : State} {c : CtxId} {k : Word} {rsps : List McRsp} {x : Cmd} (hx : s.runningCmd c 2 k opProgLoad = some x)
include hx

theorem opLoad_of_cancel (hc : x.cancel = true) : s.opLoad c k rsps = s.cmdResult c 2 k stCancelled 0 := by
  rw [opLoad, hx]
  exact if_pos hc

theorem opLoad_of_taken (hc : x.cancel = false) (hp : ¬ (s.progMine c (byteAt x.body 0) = true ∧ (s.prog (byteAt x.body 0)).phase = .free)) :
    s.opLoad c k rsps = s.cmdResult c 2 k stProgSlot 0 := by
  rw [opLoad, hx]
  dsimp only
  rw [hc, if_neg Bool.false_ne_true, if_pos]
  rw [Bool.or_eq_true, Bool.not_eq_true', bne_iff_ne, ← Bool.not_eq_true]
  exact not_and_or.mp hp

variable (hc : x.cancel = false) (hp : s.progMine c (byteAt x.body 0) = true ∧ (s.prog (byteAt x.body 0)).phase = .free)
include hc hp

theorem opLoad_of_unmapped (ht : x.trans = []) :
    s.opLoad c k rsps = s.cmdResult c 2 k stUnmapped (vaDetail (leAt x.body 8 8)) := by
  rw [opLoad, hx]
  dsimp only
  rw [hc, if_neg Bool.false_ne_true, hp.1, hp.2, if_neg (by decide), ht]

theorem opLoad_of_range {t : Trans} (ht : x.trans = [t]) : s.opLoad c k rsps = s.copyDesc x (byteAt x.body 0) t rsps := by
  rw [opLoad, hx]
  dsimp only
  rw [hc, if_neg Bool.false_ne_true, hp.1, hp.2, if_neg (by decide), ht]

end

section
variable {s : State} {x : Cmd} {p : ProgId} {t : Trans} {rsps : List McRsp}

theorem copyDesc_of_extent {st : Status} (h : s.descExtent x t 64 = some st) :
    s.copyDesc x p t rsps = s.cmdResult x.ctx 2 x.k st 0 := by
  unfold copyDesc
  dsimp only
  rw [h]

/-- A descriptor that is copied whole is checked, and loaded where the checks pass (R328). -/
theorem copyDesc_of_whole {u v w : State} {h more first : Bytes} {r1 r2 r3 : List McRsp} (hf : t.fabric = false)
    (he : s.descExtent x t 64 = none) (hr : s.rangeFenced t 64 = false)
    (hg : s.getRange (.ctx x.ctx) x 0 { t with len := 64 } rsps = (u, .ok h r1)) (h1 : 1 ≤ descStages h) (h32 : descStages h ≤ 32)
    (he2 : s.descExtent x t (64 + 36 * descStages h) = none) (hr2 : s.rangeFenced t (64 + 36 * descStages h) = false)
    (hm : u.getLines (.ctx x.ctx) x 0 { t with len := 64 + 36 * descStages h }
      (transLines { t with len := 64 + 36 * descStages h } - (linesOf t.target 64).2) (linesOf t.target 64).2 r1 = (v, .ok more r2))
    (hfirst : s.getLines (.ctx x.ctx) x 0 { t with len := 64 + 36 * descStages h } (linesOf t.target 64).2 0 rsps =
      (w, .ok first r3)) {b : Bytes} (hb : slice (first ++ more) (t.target.toNat % 64) (64 + 36 * descStages h) = b) :
    (∀ st, descCheck b (parseDesc b) (s.vdev (((s.ctx x.ctx).vd).getD 0)).links = some st →
      s.copyDesc x p t rsps = v.cmdResult x.ctx 2 x.k st 0) ∧
    (descCheck b (parseDesc b) (s.vdev (((s.ctx x.ctx).vd).getD 0)).links = none →
      s.copyDesc x p t rsps = v.loadProg x p (parseDesc b)) := by
  refine ⟨fun st hd => ?_, fun hd => ?_⟩
  all_goals
    unfold copyDesc
    dsimp only
    rw [he]
    dsimp only
    rw [hr, if_neg Bool.false_ne_true, fabFetch_of_local (by simpa using hf)]
    dsimp only
    rw [hg]
    dsimp only
    rw [if_neg (by omega), he2]
    dsimp only
    rw [hr2, if_neg Bool.false_ne_true, fabFetch_of_local (by simpa using hf)]
    dsimp only
    rw [hm]
    dsimp only
    rw [hfirst]
    dsimp only
    rw [hb, hd]

theorem loadProg_of_full {d : ProgDesc} (h : s.red.unitsFree.toNat < d.units) :
    s.loadProg x p d = s.cmdResult x.ctx 2 x.k stBuffer 0 := if_pos h

/-- The key of a program (R323). -/
def progKeyOf (s : State) (sl : Slot) (d : ProgDesc) : BitVec 288 :=
  leBv 288 (kdf (s.keyBytes (rowDcs sl) 32) "KX3-PROG" (s.domainIdOf sl ++ leBytes 8 d.seed.toNat) 256)

/-- A loaded program's slot. -/
def loadedProg (g : Prog) (c : CtxId) (v : VdId) (sl : Slot) (d : ProgDesc) : Prog :=
  { g with
    phase := .loaded
    ctx := c
    vd := v
    slot := sl
    desc := some d
    units := d.units
    low := 0
    nextGo := 0
    iters := []
    faultedAhead := []
    endedAhead := [] }

/-- The state in which a program's key stands and its units are taken. -/
def keyedProg (s : State) (p : ProgId) (sl : Slot) (d : ProgDesc) : State :=
  let u := s.writeKey (rowProg p) (s.progKeyOf sl d) (.row (BitVec.ofNat 12 (rowMember sl))) 0 sl 0
  { u with red := { u.red with unitsFree := u.red.unitsFree - BitVec.ofNat 17 d.units } }

theorem loadProg_of_room {d : ProgDesc} (h : d.units ≤ s.red.unitsFree.toNat) {v : VdId} {sl : Slot}
    (hv : (s.ctx x.ctx).vd = some v) (hs : s.ctxSlot x.ctx = some sl) (hm : s.hasMember sl = true)
    (hk : s.keyUsable (rowDcs sl) = true) :
    s.loadProg x p d = ((s.keyedProg p sl d).setProg p (loadedProg ((s.keyedProg p sl d).prog p) x.ctx v sl d)).cmdResult x.ctx 2 x.k
      stOk 0 := by
  unfold loadProg
  dsimp only
  rw [if_neg (Nat.not_lt.mpr h), hv, hs]
  dsimp only
  rw [hm, hk]
  rfl

theorem writeKey_red (s : State) (r : Nat) (m : BitVec 288) (q : KeyParent) (tense : BitVec 2) (d : Slot) (gen : BitVec 32) :
    (s.writeKey r m q tense d gen).red = s.red := by
  unfold writeKey
  dsimp only
  split <;> rfl

end

theorem cmdResult_prog (s : State) (c : CtxId) (q : BitVec 3) (k : Word) (st : Status) (d : BitVec 32) (p : ProgId) :
    (s.cmdResult c q k st d).prog p = s.prog p := rfl

theorem cmdResult_row (s : State) (c : CtxId) (q : BitVec 3) (k : Word) (st : Status) (d : BitVec 32) (r : Nat) :
    (s.cmdResult c q k st d).row r = s.row r := rfl

theorem cmdResult_red (s : State) (c : CtxId) (q : BitVec 3) (k : Word) (st : Status) (d : BitVec 32) :
    (s.cmdResult c q k st d).red = s.red := rfl

/-- The row of a keyed program. -/
theorem keyedProg_row {s : State} {p : ProgId} (h : (s.row (rowProg p)).outOfUse = false) (sl : Slot) (d : ProgDesc) :
    (s.keyedProg p sl d).row (rowProg p) = { s.row (rowProg p) with
      valid := true
      parent := .row (BitVec.ofNat 12 (rowMember sl))
      tense := 0
      slot := sl
      gen := 0
      use := 0
      material := s.progKeyOf sl d
      tail := tailOf (rowProg p) (s.progKeyOf sl d) } := writeKey_row_same h _ _ _ _ _

theorem keyedProg_pool (s : State) (p : ProgId) (sl : Slot) (d : ProgDesc) :
    (s.keyedProg p sl d).red.unitsFree = s.red.unitsFree - BitVec.ofNat 17 d.units :=
  congrArg (fun r : Red => r.unitsFree - BitVec.ofNat 17 d.units) (s.writeKey_red _ _ _ _ _ _)

/-- What a load leaves: the slot LOADED, its key in its row, its buffer taken. -/
theorem loaded_left {s : State} {p : ProgId} (h : (s.row (rowProg p)).outOfUse = false) (g : Prog) (c : CtxId) (v : VdId) (sl : Slot)
    (d : ProgDesc) (k : Word) :
    let z := ((s.keyedProg p sl d).setProg p (loadedProg g c v sl d)).cmdResult c 2 k stOk 0
    (z.prog p).phase = .loaded ∧ (z.prog p).desc = some d ∧ (z.prog p).ctx = c ∧ (z.prog p).slot = sl ∧ (z.prog p).nextGo = 0 ∧
      z.red.unitsFree = s.red.unitsFree - BitVec.ofNat 17 d.units ∧
      z.row (rowProg p) = { s.row (rowProg p) with
        valid := true
        parent := .row (BitVec.ofNat 12 (rowMember sl))
        tense := 0
        slot := sl
        gen := 0
        use := 0
        material := s.progKeyOf sl d
        tail := tailOf (rowProg p) (s.progKeyOf sl d) } := by
  intro z
  have hprog : z.prog p = loadedProg g c v sl d := by rw [cmdResult_prog, setProg_prog_same]
  rw [hprog]
  refine ⟨rfl, rfl, rfl, rfl, rfl, ?_, ?_⟩
  · rw [cmdResult_red]
    exact s.keyedProg_pool p sl d
  · rw [cmdResult_row, setProg_rowAt, keyedProg_row h]

/-! ### The fault of an iteration -/

/-- A program's slot after one of its iterations has faulted: the iteration is gone, the units and the use of the slot stay. -/
structure FaultOf (g g' : Prog) (n : Nat) : Prop where
  iters : ∀ i ∈ g'.iters, i.num.toNat ≠ n
  units : g'.units = g.units
  used : g'.phase ≠ .free

theorem iterGone_faultOf {g : Prog} (hg : g.phase ≠ .free) (n : Nat) : FaultOf g (iterGone g n) n := by
  refine ⟨fun i hi => ?_, rfl, ?_⟩
  · have := (List.mem_filter.mp hi).2
    simpa using this
  · show (if g.phase = .running ∧ _ then ProgPhase.loaded else g.phase) ≠ .free
    split
    · nofun
    · exact hg

theorem goEnd_red (s : State) (go : GoInfo) (cause : BitVec 8) (st : Status) : (s.goEnd go cause st).red = s.red :=
  (goEnd_keeps (K := 0x002000) (Keeps.refl _ s) (by decide)).red.resolve_left (by decide)

theorem abandon_red (s : State) (p : ProgId) (n : Nat) : (s.abandon p n).red = s.red :=
  (abandon_keeps (K := 0x000200) (Keeps.refl _ s) (by decide)).red.resolve_left (by decide)

theorem iterTrace_red (s : State) (p : ProgId) (e : Byte) (cause : BitVec 8) (n : Nat) (go : Option GoInfo) :
    (s.iterTrace p e cause n go).red = s.red :=
  (iterTrace_keeps (K := 0x100000) (Keeps.refl _ s) (by decide)).red.resolve_left (by decide)

theorem txForget_red (s : State) (p : ProgId) (n : BitVec 32) : (s.txForget p n).red = s.red :=
  (txForget_keeps (K := 0x000200) (Keeps.refl _ s) (by decide)).red.resolve_left (by decide)

/-- What a fault of a window's iteration does to the reduction unit. -/
theorem faultIter_red {s : State} {p : ProgId} {n : Nat} (h : ¬ ((s.prog p).phase = .free ∨ (s.prog p).phase = .ended ∨
    n < (s.prog p).low ∨ (s.prog p).endedAhead.contains n)) (cause : BitVec 8) (st : Status) (tell : Bool) :
    ∃ g, FaultOf (s.prog p) g n ∧ (s.faultIter p n cause st tell).red = ((s.setProg p g).redEvent 0).red := by
  have hused : (s.prog p).phase ≠ .free := fun e => h (.inl e)
  unfold faultIter
  dsimp only
  rw [if_neg h]
  have hgone : FaultOf (s.prog p) (iterGone { s.prog p with lastFault := cause, fault := true } n) n :=
    have h := iterGone_faultOf (g := { s.prog p with lastFault := cause, fault := true }) hused n
    ⟨h.iters, h.units, h.used⟩
  refine ⟨if ((s.iterOf p n).bind (·.go)).isNone ∧ (s.prog p).nextGo ≤ n then
    { iterGone { s.prog p with lastFault := cause, fault := true } n with
      faultedAhead := (iterGone { s.prog p with lastFault := cause, fault := true } n).faultedAhead ++ [(n, st)] }
    else iterGone { s.prog p with lastFault := cause, fault := true } n, ?_, ?_⟩
  · split
    · exact ⟨hgone.iters, hgone.units, hgone.used⟩
    · exact hgone
  · have hset (g : Prog) : ((((s.txForget p (BitVec.ofNat 32 n)).setProg p g).redEvent 0)).red = ((s.setProg p g).redEvent 0).red := by
      have := s.txForget_red p (BitVec.ofNat 32 n)
      simp only [redEvent, setProg, this]
    split
    · rw [abandon_red]
      split
      · rw [goEnd_red, iterTrace_red, hset]
      · rw [iterTrace_red, hset]
    · split
      · rw [goEnd_red, iterTrace_red, hset]
      · rw [iterTrace_red, hset]

theorem prog_of_red {s t : State} (h : t.red = s.red) (p : ProgId) : t.prog p = s.prog p := by rw [prog, h, ← prog]

theorem redEvent_prog (s : State) (b : Nat) (p : ProgId) : (s.redEvent b).prog p = s.prog p := rfl

theorem faultIter_iterOf {s : State} {p : ProgId} {n : Nat} (h : ¬ ((s.prog p).phase = .free ∨ (s.prog p).phase = .ended ∨
    n < (s.prog p).low ∨ (s.prog p).endedAhead.contains n)) (cause : BitVec 8) (st : Status) (tell : Bool) :
    (s.faultIter p n cause st tell).iterOf p n = none := by
  obtain ⟨g, hg, hred⟩ := faultIter_red h cause st tell
  rw [iterOf, prog_of_red hred, redEvent_prog, setProg_prog_same]
  exact List.find?_eq_none.mpr fun i hi => by simpa using hg.iters i hi

/-- The slot stays in use and keeps its units, and so does the pool of buffers. -/
structure SlotKept (p : ProgId) (s t : State) : Prop where
  units : (t.prog p).units = (s.prog p).units
  used : (s.prog p).phase ≠ .free → (t.prog p).phase ≠ .free
  pool : t.red.unitsFree = s.red.unitsFree

theorem SlotKept.trans {p : ProgId} {s t u : State} (h : SlotKept p s t) (g : SlotKept p t u) : SlotKept p s u :=
  ⟨g.units.trans h.units, fun e => g.used (h.used e), g.pool.trans h.pool⟩

theorem faultIter_slotKept (s : State) (p : ProgId) (n : Nat) (cause : BitVec 8) (st : Status) (tell : Bool) :
    SlotKept p s (s.faultIter p n cause st tell) := by
  by_cases h : (s.prog p).phase = .free ∨ (s.prog p).phase = .ended ∨ n < (s.prog p).low ∨ (s.prog p).endedAhead.contains n
  · have hsame : s.faultIter p n cause st tell = s := if_pos h
    rw [hsame]
    exact ⟨rfl, id, rfl⟩
  · obtain ⟨g, hg, hred⟩ := faultIter_red h cause st tell
    have hprog : (s.faultIter p n cause st tell).prog p = g := by
      rw [prog_of_red hred, redEvent_prog, setProg_prog_same]
    exact ⟨by rw [hprog, hg.units], fun _ => by rw [hprog]; exact hg.used, by rw [hred]; rfl⟩

theorem faultOpen_slotKept (s : State) (p : ProgId) (cause : BitVec 8) (st : Status) (tell : Bool) :
    SlotKept p s (s.faultOpen p cause st tell) := by
  unfold faultOpen
  refine List.foldlRecOn (motive := fun (t : State) => SlotKept p s t) _ _ ⟨rfl, id, rfl⟩ ?_
  exact fun t ht i _ => ht.trans (faultIter_slotKept t p i.num.toNat cause st tell)

/-! ### PROG_UNLOAD -/

theorem freeProg_left {s : State} {p : ProgId} (h : (s.prog p).phase ≠ .free) :
    ((s.freeProg p).prog p).phase = .free ∧ ((s.freeProg p).prog p).desc = none ∧ ((s.freeProg p).prog p).iters = [] ∧
      ((s.freeProg p).row (rowProg p)).valid = false ∧ ((s.freeProg p).row (rowProg p)).material = 0 ∧
      (s.freeProg p).red.unitsFree = s.red.unitsFree + BitVec.ofNat 17 (s.prog p).units := by
  unfold freeProg
  dsimp only
  rw [if_neg h]
  have hrow (u : State) (g : Prog) : ((u.eraseRow (rowProg p)).setProg p g).row (rowProg p) = blankRow (u.row (rowProg p)) :=
    setRow_row_same _ _ _
  rw [hrow, setProg_prog_same]
  exact ⟨rfl, rfl, rfl, rfl, rfl, rfl⟩

/-- What an unload leaves: slot, key and buffer free. -/
theorem unloadProg_left {s : State} {p : ProgId} (h : (s.prog p).phase ≠ .free) (c : CtxId) (k : Word) :
    let t := (s.unloadProg p).cmdResult c 2 k stOk 0
    (t.prog p).phase = .free ∧ (t.prog p).desc = none ∧ (t.prog p).iters = [] ∧ (t.row (rowProg p)).valid = false ∧
      (t.row (rowProg p)).material = 0 ∧ t.red.unitsFree = s.red.unitsFree + BitVec.ofNat 17 (s.prog p).units := by
  have hk := s.faultOpen_slotKept p progUnload stProgFault true
  have hl := freeProg_left (hk.used h)
  rw [hk.units, hk.pool] at hl
  intro t
  rw [cmdResult_prog, cmdResult_row, cmdResult_red]
  exact hl

section
variable {s : State} {c : CtxId} {k : Word} {x : Cmd} (hx : s.runningCmd c 2 k opProgUnload = some x)
include hx

theorem opUnload_of_cancel (hc : x.cancel = true) : s.opUnload c k = s.cmdResult c 2 k stCancelled 0 := by
  rw [opUnload, hx]
  exact if_pos hc

theorem opUnload_of_other (hc : x.cancel = false) (h : s.progMine c (byteAt x.body 0) = false ∨ (s.prog (byteAt x.body 0)).phase = .free) :
    s.opUnload c k = s.cmdResult c 2 k stProgSlot 0 := by
  rw [opUnload, hx]
  dsimp only
  rw [hc, if_neg Bool.false_ne_true, if_pos]
  rcases h with h | h
  · rw [h]
    rfl
  · rw [h, beq_self_eq_true, Bool.or_true]

theorem opUnload_of_mine (hc : x.cancel = false) (hm : s.progMine c (byteAt x.body 0) = true)
    (hp : (s.prog (byteAt x.body 0)).phase ≠ .free) :
    s.opUnload c k = (s.unloadProg (byteAt x.body 0)).cmdResult c 2 k stOk 0 := by
  rw [opUnload, hx]
  dsimp only
  rw [hc, if_neg Bool.false_ne_true, hm, beq_false_of_ne hp, if_neg (by decide)]

end

/-! ### PROG_GO -/

section
variable {s : State} {c : CtxId} {k : Word} {rsps : List McRsp} {p : ProgId} {d : ProgDesc} {n : Nat}

/-- Without its iteration a PROG_GO has nothing to read. -/
theorem goRead_of_none (h : s.iterOf p n = none) : s.goRead c k p d n rsps = s := by
  unfold goRead
  rw [h]
  split
  · next e => cases e
  · rfl

variable {x : Cmd}

theorem opGo_of_fresh (hx : s.runningCmd c 2 k opProgGo = some x) (hit : s.iterOf p n = none) (hp : p = byteAt x.body 0)
    (hn : n = leAt x.body 4 4) (hd : (s.prog p).desc = some d) :
    (∀ e, s.goCheck x p d = some e → s.opGo c k rsps = s.cmdResult c 2 k e.1 e.2) ∧
      (s.goCheck x p d = none → s.opGo c k rsps =
        if s.goOver x p d then s else (s.goAccept x p d n).goRead c k p d n rsps) := by
  subst hp hn
  refine ⟨fun e he => ?_, fun he => ?_⟩
  all_goals
    unfold opGo
    rw [hx]
    dsimp only
    rw [hd]
    dsimp only
    rw [hit, Option.bind_none, if_neg Bool.false_ne_true, he]

theorem opGo_of_no_desc (hx : s.runningCmd c 2 k opProgGo = some x) (hd : (s.prog (byteAt x.body 0)).desc = none) :
    s.opGo c k rsps = s.cmdResult c 2 k stProgSlot 0 := by
  unfold opGo
  rw [hx]
  dsimp only
  rw [hd]

theorem goOver_eq (hg : s.goCheck x p d = none) (hn : n = leAt x.body 4 4) (hit : s.iterOf p n = none)
    (hf : ((s.prog p).faultedAhead.find? fun e => e.1 == n) = none) :
    s.goOver x p d = decide (d.depth ≤ (s.prog p).iters.length) := by
  subst hn
  have hany : ((s.prog p).faultedAhead.any fun e => e.1 == leAt x.body 4 4) = false :=
    List.any_eq_false.mpr (List.find?_eq_none.mp hf)
  rw [goOver, hg, hit, hany]
  rfl

theorem goOver_of_faulted (hg : s.goCheck x p d = none) (hn : n = leAt x.body 4 4) {e : Nat × Status}
    (hf : ((s.prog p).faultedAhead.find? fun e => e.1 == n) = some e) : s.goOver x p d = false := by
  subst hn
  have hany : ((s.prog p).faultedAhead.any fun e => e.1 == leAt x.body 4 4) = true :=
    List.any_eq_true.mpr ⟨e, List.mem_of_find?_eq_some hf, List.find?_some (p := fun e : Nat × Status => e.1 == leAt x.body 4 4) hf⟩
  rw [goOver, hany, Bool.not_true, Bool.and_false, Bool.false_and]

theorem goAccept_of_faulted {e : Nat × Status} (hf : ((s.prog p).faultedAhead.find? fun e => e.1 == n) = some e) :
    s.goAccept x p d n = ((s.modProg p fun g => { g with nextGo := n + 1 }).modProg p fun g => { g with
      faultedAhead := g.faultedAhead.filter fun y => y.1 != n }).cmdResult x.ctx 2 x.k e.2 0 := by
  unfold goAccept
  dsimp only
  rw [hf]

/-- The state of a PROG_GO that finds its iteration faulted has the iteration no more than before. -/
theorem goAccepted_iterOf (h : s.iterOf p n = none) (m : Nat) (f : Prog → List (Nat × Status)) (a : CtxId) (b : Word) (st : Status) :
    (((s.modProg p fun g => { g with nextGo := m }).modProg p fun g => { g with faultedAhead := f g }).cmdResult a 2 b st 0).iterOf
      p n = none := by
  rw [iterOf, cmdResult_prog, modProg_prog_same, modProg_prog_same]
  exact h

/-- What a PROG_GO names of its iteration. -/
def goInfoOf (x : Cmd) : GoInfo :=
  { ctx := x.ctx, k := x.k, elemOffset := leAt x.body 24 6, src := (goTrans x).1, dst := (goTrans x).2 }

/-- The state in which an accepted PROG_GO has opened its iteration. -/
def goOpened (s : State) (x : Cmd) (p : ProgId) (n : Nat) : State :=
  (((s.modProg p fun g => { g with nextGo := n + 1 }).openIter p n (some (goInfoOf x))).modCmd x.ctx 2 x.k fun y =>
    { y with refs := s.ctxRefs x.ctx }).modIter p n fun it => { it with go := some (goInfoOf x) }

theorem goAccept_of_open (hf : ((s.prog p).faultedAhead.find? fun e => e.1 == n) = none) (hr : readsSrc d = false)
    (hc : x.cancel = false) :
    s.goAccept x p d n = if !s.linksAgreed p d then (s.goOpened x p n).faultIter p n progLink stProgFault true
      else (s.goOpened x p n).progPass p n := by
  have hfold (m : Tab StageRun) : d.stages.zipIdx.foldl (fun m y =>
      if y.1.localIn && y.1.inStage == 0xFF then
        Tab.set {} m y.2 { Tab.get ({} : StageRun) m y.2 with
          arrivals := (Tab.get ({} : StageRun) m y.2).arrivals ++ [(srcLocal, s.now)] }
      else m) m = m := by
    refine foldl_eq_of_fixed fun y hy => if_neg ?_
    have hall := List.any_eq_false.mp hr y.1 (List.fst_mem_of_mem_zipIdx hy)
    exact hall
  unfold goAccept
  dsimp only
  rw [hf]
  dsimp only
  simp only [hfold]
  rw [hc, if_neg Bool.false_ne_true]
  rfl

theorem modCmd_prog (s : State) (c : CtxId) (q : BitVec 3) (k : Word) (f : Cmd → Cmd) (p : ProgId) :
    (s.modCmd c q k f).prog p = s.prog p := rfl

theorem openIter_red (h : s.iterOf p n = none) (go : Option GoInfo) : (s.openIter p n go).red =
    (s.setProg p { s.prog p with
      iters := (s.prog p).iters ++ [{ num := BitVec.ofNat 32 n, go := none, stages := [] }]
      phase := .running }).red := by
  unfold openIter
  rw [h, if_neg (by decide)]
  exact iterTrace_red _ _ _ _ _ _

/-- The slot of an opened iteration runs, with the window it had. -/
theorem goOpened_prog (h : s.iterOf p n = none) (x : Cmd) : ((s.goOpened x p n).prog p).phase = .running ∧
    ((s.goOpened x p n).prog p).low = (s.prog p).low ∧ ((s.goOpened x p n).prog p).endedAhead = (s.prog p).endedAhead := by
  have hnext : (s.modProg p fun g => { g with nextGo := n + 1 }).prog p = { s.prog p with nextGo := n + 1 } :=
    modProg_prog_same _ _ _
  have hit : (s.modProg p fun g => { g with nextGo := n + 1 }).iterOf p n = none := by
    rw [iterOf, hnext]
    exact h
  have hred := openIter_red hit (some (goInfoOf x))
  have hopen := (prog_of_red hred p).trans (setProg_prog_same _ _ _)
  rw [hnext] at hopen
  unfold goOpened modIter
  rw [modProg_prog_same, modCmd_prog, hopen]
  exact ⟨rfl, rfl, rfl⟩

/-- An accepted PROG_GO without an AGREED link faults its iteration and reads nothing. -/
theorem goRead_of_unlinked (hit : s.iterOf p n = none) (hlow : (s.prog p).low ≤ n) (hend : (s.prog p).endedAhead.contains n = false) :
    ((s.goOpened x p n).faultIter p n progLink stProgFault true).goRead c k p d n rsps =
      (s.goOpened x p n).faultIter p n progLink stProgFault true := by
  obtain ⟨hp, hl, he⟩ := goOpened_prog hit x
  refine goRead_of_none (faultIter_iterOf ?_ _ _ _)
  rw [hp, hl, he, hend]
  rintro (h | h | h | h)
  · cases h
  · cases h
  · exact absurd hlow (Nat.not_le.mpr h)
  · cases h

end

/-! ### Contributions -/

/-- A REDUCE group that a link holds. -/
def heldReduce (s : State) (l : LinkId) : Option RxHeld :=
  (s.link l).io.held.find? fun h => hdrDest h.header == destReduce && hdrKind h.header == kindSealed && h.cls == 2

/-- The link without a group that has been taken, its credit returned. -/
def heldTaken (s : State) (l : LinkId) (h : RxHeld) : State :=
  (s.modLink l fun q => { q with io := { q.io with held := q.io.held.erase h } }).creditReturn l h.cls

/-- The program that a REDUCE group names, and its iteration's distance from the low end of the window. -/
def heldProg (h : RxHeld) : ProgId := (hdrCtx h.header).setWidth 8

theorem heldTaken_link (s : State) (l : LinkId) (h : RxHeld) :
    ((s.heldTaken l h).link l).io.held = (s.link l).io.held.erase h := by
  obtain ⟨rx, owed, hl⟩ := creditReturn_link (s.modLink l fun q => { q with io := { q.io with held := q.io.held.erase h } }) l h.cls l
  rw [heldTaken, hl, modLink_link_same]

theorem heldTaken_red (s : State) (l : LinkId) (h : RxHeld) : (s.heldTaken l h).red = s.red :=
  (creditReturn_keeps (K := 0x400200) (modLink_keeps (Keeps.refl _ s) (by decide)) (by decide)).red.resolve_left (by decide)

theorem progLate_prog (s : State) (p : ProgId) : ((s.progLate p).prog p).lateCount = satInc (s.prog p).lateCount := by
  rw [progLate, redEvent_prog, modProg_prog_same]

theorem progLate_link (s : State) (p : ProgId) (l : LinkId) : (s.progLate p).link l = s.link l := rfl

theorem redEvent_event (s : State) (b : Nat) (hb : b < 5) : (s.redEvent b).red.event.getLsbD b = true :=
  (getLsbD_setBitTo _ _ hb _).trans (if_pos rfl)

theorem progLate_event (s : State) (p : ProgId) : (s.progLate p).red.event.getLsbD 3 = true := redEvent_event _ 3 (by decide)

/-- A late group is counted at its program and gone from its link. -/
theorem progLate_left (s : State) (l : LinkId) (h : RxHeld) (p : ProgId) :
    (((s.heldTaken l h).progLate p).prog p).lateCount = satInc (s.prog p).lateCount ∧
      (((s.heldTaken l h).progLate p).link l).io.held = (s.link l).io.held.erase h ∧
      ((s.heldTaken l h).progLate p).red.event.getLsbD 3 = true := by
  refine ⟨?_, ?_, progLate_event _ _⟩
  · rw [progLate_prog, prog_of_red (s.heldTaken_red l h) p]
  · rw [progLate_link, heldTaken_link]

section
variable {s : State} {l : LinkId} {h : RxHeld}

theorem opTake_of_none (hn : s.running = false ∨ s.areaOn areaReduction = false ∨ s.heldReduce l = none) : s.opTake l = s := by
  unfold opTake
  split
  · rfl
  · next hon =>
    rcases hn with hn | hn | hn
    · exact absurd (by rw [hn]; rfl) hon
    · exact absurd (by rw [hn, Bool.not_false, Bool.or_true]) hon
    · dsimp only
      rw [show List.find? _ _ = none from hn]

variable (hrun : s.running = true) (ha : s.areaOn areaReduction = true) (hh : s.heldReduce l = some h)
include hrun ha hh

theorem opTake_of_no_desc (hd : (s.prog (heldProg h)).desc = none) : s.opTake l = (s.heldTaken l h).progLate (heldProg h) := by
  unfold opTake
  dsimp only
  rw [hrun, ha, if_neg (by decide), show List.find? _ _ = some h from hh]
  dsimp only
  rw [show (s.prog (BitVec.setWidth 8 (hdrCtx h.header))).desc = none from hd]
  rfl

theorem opTake_of_desc {d : ProgDesc} (hd : (s.prog (heldProg h)).desc = some d) {dist n : Nat}
    (hdist : dist = contribDist (s.prog (heldProg h)) h.payload) (hn : n = (s.prog (heldProg h)).low + dist) :
    s.opTake l =
      if (s.prog (heldProg h)).phase = .ended ∨ 128 ≤ dist ∨ 2 ^ 32 ≤ n ∨
          (dist < d.depth ∧ (s.prog (heldProg h)).endedAhead.contains n) then (s.heldTaken l h).progLate (heldProg h)
      else if d.depth ≤ dist then
        (if (s.prog (heldProg h)).held then s else s.modProg (heldProg h) fun g => { g with held := true }).redEvent 2
      else (s.heldTaken l h).takeContrib (heldProg h) d n l h.stamp (contribOf h.payload) h.payload.length := by
  subst hdist hn
  unfold opTake
  dsimp only
  rw [hrun, ha, if_neg (by decide), show List.find? _ _ = some h from hh]
  dsimp only
  rw [show (s.prog (BitVec.setWidth 8 (hdrCtx h.header))).desc = some d from hd]
  rfl

end

end State

/-- Settles O44: each command in the order of its checks, and the four fates of a link's first REDUCE group. -/
theorem reductionCommands : Obligations.ReductionCommands := by
  unfold Obligations.ReductionCommands
  intro s c k rsps l
  refine ⟨fun h => ?_, fun h => ?_, fun h => ?_, fun x hx => ?_, fun x hx => ?_, fun x hx => ?_, ?_⟩
  · exact exec_next rfl (congrArg State.settleAll (by rw [State.opLoad, h]))
  · exact exec_next rfl (congrArg State.settleAll (by rw [State.opGo, h]))
  · exact exec_next rfl (congrArg State.settleAll (by rw [State.opUnload, h]))
  · obtain ⟨hctx, hq, hk⟩ := State.cmdIs_iff.mp (State.findCmd_key (State.runningCmd_some hx).1)
    intro p free
    refine ⟨fun hc => ?_, fun hc hp => ?_, fun hc hp ht => ?_, fun t st hc hp ht he => ?_, ?_⟩
    · exact exec_next rfl (congrArg State.settleAll (State.opLoad_of_cancel hx hc))
    · exact exec_next rfl (congrArg State.settleAll (State.opLoad_of_taken hx hc hp))
    · exact exec_next rfl (congrArg State.settleAll (State.opLoad_of_unmapped hx hc hp ht))
    · refine exec_next rfl (congrArg State.settleAll ?_)
      rw [State.opLoad_of_range hx hc hp ht, State.copyDesc_of_extent he, hctx, hk]
    · intro t u v w h more first r1 r2 r3 vd sl hc hp ht hf he hr hg h1 h32 he2 hr2 whole n hm hfirst b d
      subst hctx hk
      have hop := State.opLoad_of_range (rsps := rsps) hx hc hp ht
      obtain ⟨hbad, hgood⟩ := State.copyDesc_of_whole (p := p) hf he hr hg h1 h32 he2 hr2 hm hfirst (b := b) rfl
      refine ⟨fun st hd => exec_next rfl (congrArg State.settleAll (hop.trans (hbad st hd))),
        fun hd => ⟨fun hfull => ?_, fun hroom hv hs hm hkey hout => ?_⟩⟩
      · exact exec_next rfl (congrArg State.settleAll ((hop.trans (hgood hd)).trans (State.loadProg_of_full hfull)))
      · refine ⟨_, exec_next rfl (congrArg State.settleAll ((hop.trans (hgood hd)).trans
          (State.loadProg_of_room hroom hv hs hm hkey))), ?_⟩
        exact State.loaded_left hout _ x.ctx vd sl d x.k
  · obtain ⟨hctx, hq, hk⟩ := State.cmdIs_iff.mp (State.findCmd_key (State.runningCmd_some hx).1)
    subst hctx hk
    intro p g n hit
    refine ⟨fun hd => exec_next rfl (congrArg State.settleAll (State.opGo_of_no_desc hx hd)), fun d hd => ?_⟩
    obtain ⟨hbad, hgood⟩ := State.opGo_of_fresh (rsps := rsps) hx hit rfl rfl hd
    refine ⟨fun e he => exec_next rfl (congrArg State.settleAll (hbad e he)), fun hg hf hfull => ?_, fun e hg hf => ?_, ?_⟩
    · refine exec_next rfl (congrArg State.settleAll ((hgood hg).trans (if_pos ?_)))
      rw [State.goOver_eq hg rfl hit hf]
      exact decide_eq_true hfull
    · refine exec_next rfl (congrArg State.settleAll ((hgood hg).trans ?_))
      rw [State.goOver_of_faulted hg rfl hf, if_neg Bool.false_ne_true, State.goAccept_of_faulted hf]
      exact State.goRead_of_none (State.goAccepted_iterOf hit _ _ _ _ _)
    · intro hg hf hroom hlow hend hr hc info u
      have hopen : s.opGo x.ctx x.k rsps = (s.goAccept x p d n).goRead x.ctx x.k p d n rsps := by
        rw [hgood hg, State.goOver_eq hg rfl hit hf, decide_eq_false (Nat.not_le.mpr hroom), if_neg Bool.false_ne_true]
      have hacc := State.goAccept_of_open (n := n) hf hr hc
      refine ⟨fun hl => exec_next rfl (congrArg State.settleAll (hopen.trans ?_)),
        fun hl => exec_next rfl (congrArg State.settleAll (hopen.trans ?_))⟩
      · rw [hacc, hl, Bool.not_false, if_pos rfl]
        exact State.goRead_of_unlinked hit hlow hend
      · rw [hacc, hl, Bool.not_true, if_neg Bool.false_ne_true]
        rfl
  · intro p
    refine ⟨fun hc => exec_next rfl (congrArg State.settleAll (State.opUnload_of_cancel hx hc)),
      fun hc h => exec_next rfl (congrArg State.settleAll (State.opUnload_of_other hx hc h)), fun hc hm hp =>
      ⟨_, exec_next rfl (congrArg State.settleAll (State.opUnload_of_mine hx hc hm hp)), ?_⟩⟩
    exact State.unloadProg_left hp c k
  · intro red
    refine ⟨fun h => exec_next rfl (congrArg State.settleAll (State.opTake_of_none h)), fun h hrun ha hh => ?_⟩
    intro p g y dist n u
    have hleft := s.progLate_left l h p
    refine ⟨fun hd => ⟨_, exec_next rfl (congrArg State.settleAll (State.opTake_of_no_desc hrun ha hh hd)), hleft⟩, fun d hd => ?_⟩
    have hop := State.opTake_of_desc hrun ha hh hd (dist := dist) (n := n) rfl rfl
    intro late
    refine ⟨fun hl => ⟨_, exec_next rfl (congrArg State.settleAll (hop.trans (if_pos hl))), hleft.1, hleft.2.1⟩,
      fun hl hfar hheld => ?_, fun hl hfar hheld => ?_, fun hl hnear => ?_⟩
    · refine exec_next rfl (congrArg State.settleAll (hop.trans ((if_neg hl).trans ?_)))
      rw [if_pos hfar, show (s.prog (State.heldProg h)).held = true from hheld, if_pos rfl]
    · refine ⟨(s.modProg p fun g => { g with held := true }).redEvent 2, exec_next rfl (congrArg State.settleAll (hop.trans
        ((if_neg hl).trans ?_))), ?_, rfl,
        State.redEvent_event _ 2 (by decide)⟩
      · rw [if_pos hfar, show (s.prog (State.heldProg h)).held = false from hheld, if_neg Bool.false_ne_true]
        rfl
      · rw [State.redEvent_prog, State.modProg_prog_same]
    · refine exec_next rfl (congrArg State.settleAll (hop.trans ((if_neg hl).trans ?_)))
      rw [if_neg (Nat.not_le.mpr hnear)]
      rfl

end Sys2Proof.Machine
end

section
/-! PROOFS. Fabric accesses and responses at an accelerator (O45). -/

namespace Sys2Proof.Machine

namespace State

/-! ### An access of a context -/

section
variable {s : State} {c : CtxId} {va : BitVec 64} {w a : Bool} {mask : BitVec 64} {x : Line}

/-- The line that an address of an object names. -/
def fabLineOf (o : Obj) (va : BitVec 64) : BitVec 36 := ((o.target + (va - o.va)) >>> 6).setWidth 36

/-- The state in which an access has been sent, or has ended with its status. -/
def accessEnded (c : CtxId) (line : BitVec 36) : State × Option Status → State
  | (u, none) => u
  | (u, some st) => u.out (.fabDone c line st none)

/-- What an access asks the fabric for. -/
def accessWait (s : State) (c : CtxId) (o : Obj) (va : BitVec 64) (w : Bool) (mask : BitVec 64) (x : Line) : FabWait :=
  { line := fabLineOf o va, write := w, mask := mask, data := x, ctx := c, vd := ((s.ctx c).vd).getD 0, owner := .access }

theorem opAccess_of_idle (h : s.running = false ∨ s.poolRole = true ∨ (s.ctx c).phase ≠ .active) :
    s.opAccess c va w mask x a = s := by
  refine if_pos ?_
  rcases h with h | h | h
  · rw [h]
    rfl
  · rw [h, Bool.or_true, Bool.true_or]
  · rw [bne_iff_ne.mpr h, Bool.or_true]

variable (hr : s.running = true) (hp : s.poolRole = false) (hc : (s.ctx c).phase = .active)
include hr hp hc

theorem opAccess_of_unmapped (h : s.findObj c va.toNat = none) :
    s.opAccess c va w mask x a = s.out (.fabDone c 0 stUnmapped none) := by
  unfold opAccess
  dsimp only
  rw [hr, hp, hc, if_neg (by decide), h]

theorem opAccess_of_obj {n : Nat} {o : Obj} (h : s.findObj c va.toNat = some (n, o)) (hf : o.fabric = true) :
    s.opAccess c va w mask x a =
      if a then s.out (.fabDone c (fabLineOf o va) stFabricOp none)
      else if !rightOk o.rights w then s.out (.fabDone c (fabLineOf o va) stRights none)
      else if o.taint then s.out (.fabDone c (fabLineOf o va) stTainted none)
      else accessEnded c (fabLineOf o va) (s.fabIssue o.links (s.accessWait c o va w mask x)) := by
  unfold opAccess accessWait fabLineOf
  dsimp only
  rw [hr, hp, hc, if_neg (by decide), h]
  dsimp only
  rw [hf, if_neg (by decide)]
  cases s.fabIssue o.links _ with
  | mk u r => cases r <;> rfl

end

theorem fabIssue_of_no_link {s : State} {ls : List LinkId} {w : FabWait} (h : fabLink ls w.line = none) :
    s.fabIssue ls w = (s, some stFabricLink) := by rw [fabIssue, h]

theorem fabIssue_of_refused {s : State} {ls : List LinkId} {w : FabWait} {m : LinkId} (h : fabLink ls w.line = some m) {st : Status}
    (hr : s.fabRefusal w.ctx m = some st) : s.fabIssue ls w = (s, some st) := by
  rw [fabIssue, h]
  dsimp only
  rw [hr]

theorem fabIssue_of_link {s : State} {ls : List LinkId} {w : FabWait} {m : LinkId} (h : fabLink ls w.line = some m)
    (hr : s.fabRefusal w.ctx m = none) : s.fabIssue ls w = (s.fabPut m w, none) := by
  rw [fabIssue, h]
  dsimp only
  rw [hr]

theorem fabRefusal_of_off {s : State} {m : LinkId} (h : s.linkOn m = false) (c : CtxId) : s.fabRefusal c m = some stFnOff :=
  if_pos (by rw [h]; rfl)

theorem fabRefusal_of_not_agreed {s : State} {m : LinkId} {c : CtxId} (h : s.linkOn m = true)
    (ha : ∀ d, s.ctxSlot c = some d → s.agreedIn m d = false) : s.fabRefusal c m = some stFabricLink := by
  rw [fabRefusal, h, if_neg (by decide)]
  split
  · rfl
  · next d hd => rw [ha d hd, if_neg Bool.false_ne_true]

theorem fabRefusal_of_agreed {s : State} {m : LinkId} {c : CtxId} {d : Slot} (h : s.linkOn m = true) (hd : s.ctxSlot c = some d)
    (ha : s.agreedIn m d = true) : s.fabRefusal c m = none := by
  rw [fabRefusal, h, if_neg (by decide), hd]
  exact if_pos ha

/-! ### What an access leaves on its link -/

/-- The record of a request, and the request that waits for its answer. -/
def fabRecOf (w : FabWait) (tag : BitVec 16) : FabRec :=
  { op := if w.write then fabWrite else fabRead, status := 0, tag := tag, line := w.line
    mask := if w.write then w.mask else 0, data := w.data }

def fabOutOf (w : FabWait) (tag : BitVec 16) : FabOut :=
  { tag := tag, line := w.line, write := w.write, ctx := w.ctx, owner := w.owner, gone := false }

theorem fabSend_left (s : State) (m : LinkId) (w : FabWait) :
    s.fabSend m w = { s with links := (s.fabSend m w).links } ∧
      ((s.fabSend m w).link m).fabOut = (s.link m).fabOut ++ [fabOutOf w (freeTag (s.link m).fabOut 1025 (s.link m).fabTag)] ∧
      ∃ y, ((s.fabSend m w).link m).io.txq = (s.link m).io.txq ++ [y] ∧ y.kind = kindFabric ∧
        y.payload = fabBytes (fabRecOf w (freeTag (s.link m).fabOut 1025 (s.link m).fabTag)) := by
  unfold fabSend txPut
  dsimp only
  rw [modLink_link_same, setLink_link_same]
  exact ⟨rfl, rfl, _, rfl, rfl, rfl⟩

theorem fabPut_of_free {s : State} {m : LinkId} {w : FabWait} (h : fabFree (s.link m) (s.link m).fabWait w = true) :
    s.fabPut m w = s.fabSend m w := if_pos h

/-- A request that the link cannot take yet waits there in order. -/
theorem fabPut_of_held {s : State} {m : LinkId} {w : FabWait} (h : fabFree (s.link m) (s.link m).fabWait w = false) :
    s.fabPut m w = { s with links := (s.fabPut m w).links } ∧ ((s.fabPut m w).link m).fabOut = (s.link m).fabOut ∧
      ((s.fabPut m w).link m).fabWait = (s.link m).fabWait ++ [w] := by
  have hop : s.fabPut m w = s.modLink m fun k => { k with fabWait := k.fabWait ++ [w] } := if_neg (by rw [h]; exact Bool.false_ne_true)
  rw [hop, modLink_link_same]
  exact ⟨rfl, rfl, rfl⟩

/-! ### The response -/

section
variable {s : State} {l : LinkId} {r : FabRec}

theorem opResponse_of_idle (h : s.running = false ∨ s.poolRole = true ∨ (s.link l).core.phase ≠ .agreed) :
    s.opResponse l r = s := by
  refine if_pos ?_
  rcases h with h | h | h
  · rw [h]
    rfl
  · rw [h, Bool.or_true, Bool.true_or]
  · rw [bne_iff_ne.mpr h, Bool.or_true]

variable (hr : s.running = true) (hp : s.poolRole = false) (ha : (s.link l).core.phase = .agreed)
include hr hp ha

theorem opResponse_of_stray
    (h : ((s.link l).fabOut.find? fun o => o.tag == r.tag && answers o r.op) = none ∨ fabStatus r.status = none) :
    s.opResponse l r = s.setLink l { s.link l with fabStray := satInc (s.link l).fabStray } := by
  unfold opResponse
  dsimp only
  rw [hr, hp, ha, if_neg (by decide)]
  rcases h with h | h
  · rw [h]
  · rw [h]
    cases (s.link l).fabOut.find? fun o => o.tag == r.tag && answers o r.op <;> rfl

theorem opResponse_of_found {o : FabOut} {st : Status}
    (ho : ((s.link l).fabOut.find? fun o => o.tag == r.tag && answers o r.op) = some o) (hst : fabStatus r.status = some st) :
    s.opResponse l r = ((s.setLink l { s.link l with fabOut := (s.link l).fabOut.filter fun x => x.tag != r.tag }).fabEnd o st
      (if o.write then none else some r.data)).fabPump l := by
  unfold opResponse
  dsimp only
  rw [hr, hp, ha, if_neg (by decide), ho, hst]

end

theorem fabEnd_of_access {s : State} {o : FabOut} (hg : o.gone = false) (ho : o.owner = .access) (st : Status) (x : Option Line) :
    s.fabEnd o st x = s.out (.fabDone o.ctx o.line st x) := by
  unfold fabEnd
  rw [hg, if_neg Bool.false_ne_true, ho]

theorem fabPump_of_none {s : State} {l : LinkId} (h : (s.link l).fabWait = []) :
    s.fabPump l = s.modLink l fun k => { k with fabWait := [] } := by rw [fabPump, h, fabPumpAux]

end State

/-- Settles O45: an access by the branch it takes, a response by the request of its tag. -/
theorem fabricAtAccelerator : Obligations.FabricAtAccelerator := by
  unfold Obligations.FabricAtAccelerator
  intro s c va w mask x a l r
  refine ⟨fun h => exec_next rfl (State.opAccess_of_idle h), fun hr hp hc => ⟨fun h => ?_, fun n o h hf => ?_⟩,
    fun h => exec_next rfl (congrArg State.settleAll (State.opResponse_of_idle h)), fun hr hp ha => ?_⟩
  · exact exec_next rfl (State.opAccess_of_unmapped hr hp hc h)
  · intro line ends
    have hop := State.opAccess_of_obj (w := w) (a := a) (mask := mask) (x := x) hr hp hc h hf
    refine ⟨fun h1 => exec_next rfl (hop.trans (if_pos h1)), fun h1 h2 => exec_next rfl (hop.trans ?_),
      fun h1 h2 h3 => exec_next rfl (hop.trans ?_), fun h1 h2 h3 => ?_⟩
    · rw [if_neg (by rw [h1]; decide), h2]
      rfl
    · rw [if_neg (by rw [h1]; decide), h2, if_neg (by decide), if_pos h3]
      rfl
    · have hissue : s.opAccess c va w mask x a = State.accessEnded c line (s.fabIssue o.links (s.accessWait c o va w mask x)) := by
        rw [hop, if_neg (by rw [h1]; decide), h2, if_neg (by decide), if_neg (by rw [h3]; decide)]
        rfl
      refine ⟨fun hl => exec_next rfl (hissue.trans ?_), fun m hl => ⟨fun hoff => exec_next rfl (hissue.trans ?_),
        fun hon hna => exec_next rfl (hissue.trans ?_), fun d hon hd hag => ?_⟩⟩
      · rw [State.fabIssue_of_no_link (w := s.accessWait c o va w mask x) hl]
        rfl
      · rw [State.fabIssue_of_refused (w := s.accessWait c o va w mask x) hl (State.fabRefusal_of_off hoff _)]
        rfl
      · rw [State.fabIssue_of_refused (w := s.accessWait c o va w mask x) hl (State.fabRefusal_of_not_agreed hon hna)]
        rfl
      · intro q tag
        have hput : s.opAccess c va w mask x a = s.fabPut m q := by
          rw [hissue, State.fabIssue_of_link (w := s.accessWait c o va w mask x) hl (State.fabRefusal_of_agreed hon hd hag)]
          rfl
        refine ⟨fun hfree => ?_, fun hheld => ⟨s.fabPut m q, exec_next rfl hput, State.fabPut_of_held hheld⟩⟩
        obtain ⟨hs, ho, y, hy, hk, hb⟩ := s.fabSend_left m q
        exact ⟨s.fabSend m q, y, exec_next rfl (hput.trans (State.fabPut_of_free hfree)), hs, ho, hy, hk, hb⟩
  · intro found
    refine ⟨fun h => exec_next rfl (congrArg State.settleAll (State.opResponse_of_stray hr hp ha h)), fun o st ho hst hg hown hw => ?_⟩
    refine ⟨_, exec_next rfl (congrArg State.settleAll (State.opResponse_of_found hr hp ha ho hst)), ?_⟩
    rw [State.fabEnd_of_access hg hown, State.fabPump_of_none]
    · refine ⟨rfl, rfl, ?_⟩
      rw [State.modLink_link_same]
      exact congrArg Link.fabOut (State.setLink_link_same s l _)
    · exact (congrArg Link.fabWait (State.setLink_link_same s l _)).trans hw

end Sys2Proof.Machine
end

section
/-! PROOFS. The pool's checker and the table registers (O46). -/

namespace Sys2Proof.Machine

/-- A filter by index keeps what a table holds at the indices it admits. -/
theorem Tab.get_filter_of_index {α : Type} (d : α) (t : Tab α) (p : Nat → Bool) (n : Nat) :
    Tab.get d (t.filter fun e => p e.1) n = if p n then Tab.get d t n else d := by
  induction t with
  | nil => exact (ite_self d).symm
  | cons e t ih =>
    rw [List.filter_cons]
    by_cases h : e.1 = n
    · subst h
      cases hp : p e.1
      · rw [if_neg Bool.false_ne_true, ih, hp]
        rfl
      · rw [if_pos rfl, if_pos rfl, Tab.get_cons, Tab.get_cons, if_pos rfl, if_pos rfl]
    · rw [Tab.get_cons d e t n, if_neg h, ← ih]
      split
      · rw [Tab.get_cons, if_neg h]
      · rfl

/-- A row of settings leaves at each index the one setting that was made there. -/
theorem Tab.get_foldl_set_range {α : Type} [DecidableEq α] (d : α) (t : Tab α) (key : Nat → Nat) (v : Nat → α)
    (hkey : ∀ i j, key i = key j → i = j) (n i : Nat) (h : i < n) :
    Tab.get d ((List.range n).foldl (fun c j => Tab.set d c (key j) (v j)) t) (key i) = v i := by
  induction n with
  | zero => exact absurd h (Nat.not_lt_zero i)
  | succ n ih =>
    rw [List.range_succ, List.foldl_append]
    dsimp only [List.foldl]
    by_cases he : i = n
    · rw [he, Tab.get_set_same]
    · rw [Tab.get_set_ne _ _ _ fun hk => he (hkey i n hk)]
      exact ih (by omega)

namespace State

theorem agreedIn_congr {s t : State} (h : t.links = s.links) (l : LinkId) (d : Slot) : t.agreedIn l d = s.agreedIn l d := by
  unfold agreedIn link
  rw [h]

/-! ### An answer -/

/-- What an answer counts and records. -/
def fabCounted (s : State) (st : BitVec 4) : State :=
  let u := if st = 0 then s else s.fabEvent 0
  let u := if st = 6 then ({ u with fab := { u.fab with ownership := satInc s.fab.ownership } }).fabEvent 1 else u
  if st = 2 then { u with fab := { u.fab with rights := satInc s.fab.rights } } else u

/-- The record of an answer. -/
def fabReply (q : FabRec) (st : BitVec 4) (x : Line) : FabRec :=
  { op := if q.op = fabWrite then fabWriteAck else fabReadResp, status := st, tag := q.tag, line := q.line, mask := 0, data := x }

theorem fabRespond_eq (s : State) (w : FabRecWait) (st : BitVec 4) (x : Line) :
    s.fabRespond w st x =
      let u := (s.fabCounted st).progress engRed
      if u.agreedIn w.link w.slot && (u.link w.link).io.inst == w.inst then
        u.txPut w.link { cls := w.cls, kind := kindFabric, dest := 0, ctxField := 0, vdTag := w.vd,
                         payload := fabBytes (fabReply w.record st x), ctx := none, prog := none, refs := [] }
      else u := rfl

theorem fabCounted_links (s : State) (st : BitVec 4) : (s.fabCounted st).links = s.links := by
  simp only [fabCounted, fabEvent, apply_ite State.links, ite_self]

theorem fabRespond_fab (s : State) (w : FabRecWait) (st : BitVec 4) (x : Line) :
    (s.fabRespond w st x).fab = (s.fabCounted st).fab := by
  rw [fabRespond_eq]
  dsimp only
  split <;> rfl

/-- A record whose Agreement stands is answered on its link. -/
theorem fabAnswer_sent {s : State} {w : FabRecWait} (ha : s.agreedIn w.link w.slot = true)
    (hi : (s.link w.link).io.inst = w.inst) (st : BitVec 4) (x : Line) :
    ∃ y ∈ ((s.fabAnswer w st x).link w.link).io.txq, y.cls = w.cls ∧ y.kind = kindFabric ∧
      y.payload = fabBytes (fabReply w.record st x) := by
  rw [fabAnswer, fabRespond_eq]
  dsimp only
  have hlinks : (((s.fabDrop w).fabCounted st).progress engRed).links = s.links := fabCounted_links (s.fabDrop w) st
  generalize ((s.fabDrop w).fabCounted st).progress engRed = u at hlinks
  have hinst : (u.link w.link).io.inst = w.inst := (congrArg (fun t => (Tab.get {} t w.link.toNat).io.inst) hlinks).trans hi
  rw [agreedIn_congr hlinks, ha, hinst, beq_self_eq_true, if_pos (by decide), txPut, modLink_link_same]
  exact ⟨_, List.mem_append_right _ (List.mem_singleton_self _), rfl, rfl, rfl⟩

theorem fabAnswer_fab (s : State) (w : FabRecWait) (st : BitVec 4) (x : Line) :
    (s.fabAnswer w st x).fab = ((s.fabDrop w).fabCounted st).fab := fabRespond_fab (s.fabDrop w) w st x

theorem fabCounted_table (s : State) (st : BitVec 4) : (s.fabCounted st).fab.cache = s.fab.cache ∧
    (s.fabCounted st).fab.misses = s.fab.misses ∧ (s.fabCounted st).fab.entryBad = s.fab.entryBad := by
  refine ⟨?_, ?_, ?_⟩ <;> simp only [fabCounted, fabEvent, apply_ite State.fab, apply_ite Fab.cache, apply_ite Fab.misses,
    apply_ite Fab.entryBad, ite_self]

/-- An answer clears no event. -/
theorem fabCounted_event {s : State} {b : Nat} (h : s.fab.event.getLsbD b = true) (st : BitVec 4) :
    (s.fabCounted st).fab.event.getLsbD b = true := by
  have hset {y : BitVec 5} {i : Nat} (hi : i < 5) (hy : y.getLsbD b = true) : (setBitTo y i true).getLsbD b = true := by
    rw [getLsbD_setBitTo y true hi b, hy, ite_self]
  simp only [fabCounted, fabEvent, apply_ite State.fab, apply_ite Fab.event]
  repeat' split
  all_goals first | exact h | exact hset (by decide) h | exact hset (by decide) (hset (by decide) h)

/-- An answer leaves the table's cache and its misses, and clears no event. -/
theorem fabAnswer_table (s : State) (w : FabRecWait) (st : BitVec 4) (x : Line) :
    (s.fabAnswer w st x).fab.cache = s.fab.cache ∧ (s.fabAnswer w st x).fab.misses = s.fab.misses ∧
      (s.fab.event.getLsbD 3 = true → (s.fabAnswer w st x).fab.event.getLsbD 3 = true) := by
  obtain ⟨hcache, hmisses, -⟩ := fabCounted_table (s.fabDrop w) st
  rw [fabAnswer_fab]
  exact ⟨hcache, hmisses, fun h => fabCounted_event (s := s.fabDrop w) h st⟩

/-! ### The checker with one record before it -/

section
variable {s : State} {w : FabRecWait} {rsp : McRsp}

theorem opRequest_of_idle (h : s.running = false ∨ s.poolRole = false) : s.opRequest rsp = s := by
  refine if_pos ?_
  rcases h with h | h
  · rw [h]
    rfl
  · rw [h]
    exact Bool.or_true _

theorem opRequest_of_empty (h : s.fab.queue = []) : s.opRequest rsp = s := by
  unfold opRequest
  rw [h]
  exact ite_self s

variable (hr : s.running = true) (hp : s.poolRole = true) (hq : s.fab.queue = [w]) (hm : s.fab.misses = [])
include hr hp hq hm

/-- With no miss under way the one record that waits is the next one. -/
theorem opRequest_next : s.running = true ∧ s.poolRole = true ∧ fabNext s.fabStuck [] s.fab.queue = some w := by
  refine ⟨hr, hp, ?_⟩
  rw [hq]
  refine if_neg ?_
  unfold fabStuck
  rw [hm]
  exact Bool.false_ne_true

theorem opRequest_of_answer {st : BitVec 4} (h : s.fabCheck w = .answer st) :
    s.opRequest rsp = fabHeldPump 64 (s.fabAnswer w st 0) := by
  obtain ⟨-, -, hnext⟩ := opRequest_next hr hp hq hm
  rw [opRequest, hr, hp, hnext, if_neg (by decide)]
  dsimp only
  rw [h]

theorem opRequest_of_unusable (h : s.fabCheck w = .unusable) :
    s.opRequest rsp =
      fabHeldPump 64 (({ s with fab := { s.fab with entryBad := satInc s.fab.entryBad } } : State).fabAnswer w 1 0) := by
  obtain ⟨-, -, hnext⟩ := opRequest_next hr hp hq hm
  rw [opRequest, hr, hp, hnext, if_neg (by decide)]
  dsimp only
  rw [h]

theorem opRequest_of_miss (h : s.fabCheck w = .miss) :
    s.opRequest rsp = { s with fab := { s.fab with misses := [(w.slot, fabTblLine w.record.line)] } } := by
  obtain ⟨-, -, hnext⟩ := opRequest_next hr hp hq hm
  rw [opRequest, hr, hp, hnext, if_neg (by decide)]
  dsimp only
  rw [h]
  dsimp only
  rw [hm]
  rfl

/-- What the write of a record asks Memory Sealing for. -/
def recordAsk (w : FabRecWait) (key : KeyIdx) (a : Dpa) : MemWait :=
  { master := .fabric w.slot, key := key, dpa := a, write := some (w.record.mask, w.record.data), atomic := false, refs := []
    tag := some (.fab w) }

section
variable {a : Dpa} {key : KeyIdx} (h : s.fabCheck w = .access a key) {u : State} {st : Status}
include h

theorem opRequest_of_write_refused (hw : w.record.op = fabWrite) (hput : s.memPut (recordAsk w key a) = (u, some st)) :
    s.opRequest rsp = fabHeldPump 64 (u.fabAnswer w (fabMemStatus st) 0) := by
  obtain ⟨-, -, hnext⟩ := opRequest_next hr hp hq hm
  unfold recordAsk at hput
  rw [opRequest, hr, hp, hnext, if_neg (by decide)]
  dsimp only
  rw [h]
  dsimp only
  rw [if_pos hw, hput]

theorem opRequest_of_write_taken (hw : w.record.op = fabWrite) (hput : s.memPut (recordAsk w key a) = (u, none)) :
    s.opRequest rsp = fabHeldPump 64 (u.fabDrop w) := by
  obtain ⟨-, -, hnext⟩ := opRequest_next hr hp hq hm
  unfold recordAsk at hput
  rw [opRequest, hr, hp, hnext, if_neg (by decide)]
  dsimp only
  rw [h]
  dsimp only
  rw [if_pos hw, hput]

theorem opRequest_of_read_failed (hw : w.record.op ≠ fabWrite) {z : Bool}
    (hread : s.readNow (.fabric w.slot) key a rsp = (u, .failed st z)) :
    s.opRequest rsp = fabHeldPump 64 (u.fabAnswer w (fabMemStatus st) 0) := by
  obtain ⟨-, -, hnext⟩ := opRequest_next hr hp hq hm
  rw [opRequest, hr, hp, hnext, if_neg (by decide)]
  dsimp only
  rw [h]
  dsimp only
  rw [if_neg hw, hread]

theorem opRequest_of_read_done (hw : w.record.op ≠ fabWrite) {p : Line}
    (hread : s.readNow (.fabric w.slot) key a rsp = (u, .done p)) :
    s.opRequest rsp = fabHeldPump 64 (u.fabAnswer w 0 p) := by
  obtain ⟨-, -, hnext⟩ := opRequest_next hr hp hq hm
  rw [opRequest, hr, hp, hnext, if_neg (by decide)]
  dsimp only
  rw [h]
  dsimp only
  rw [if_neg hw, hread]

end

end

/-! ### What the checker finds (R431) -/

section
variable {s : State} {w : FabRecWait}

theorem fabCheck_of_atomic (h : 0x10 ≤ w.record.op.toNat) (h' : w.record.op.toNat ≤ 0x1F) : s.fabCheck w = .answer 6 :=
  if_pos ⟨h, h'⟩

/-- A record of the form of a read or of a write. -/
def wellFormed (q : FabRec) : Prop := (q.op = fabRead ∧ q.mask = 0 ∨ q.op = fabWrite ∧ q.mask ≠ 0) ∧ q.status = 0

/-- What the check of a usable entry finds. -/
def entryCheck (s : State) (w : FabRecWait) (e : BitVec 128) : FabEnd :=
  if entShare e = 0 ∧ (w.sender ≠ entMember e ∨ w.vd ≠ entVd e) then .answer 2
  else if entShare e = 1 ∧ w.sender ≠ entMember e then .answer 2
  else if !(if w.record.op = fabRead then entRead e else entWrite e) then .answer 2
  else if w.record.op = fabWrite ∧ s.isFragment w.slot then .answer 5
  else .access (entPage e ++ w.record.line.setWidth 15 ++ (0 : BitVec 6) : BitVec 43) (entKey e)

/-- A well-formed record passes the checks of its form. -/
theorem wellFormed.passes {q : FabRec} (hf : wellFormed q) : ¬ (0x10 ≤ q.op.toNat ∧ q.op.toNat ≤ 0x1F) ∧
    ¬ ((q.op ≠ fabRead ∧ q.op ≠ fabWrite) ∨ q.status ≠ 0) ∧
      ¬ (if q.op = fabWrite then q.mask == 0 else q.mask != 0) = true := by
  obtain ⟨⟨hop, hmask⟩ | ⟨hop, hmask⟩, hst⟩ := hf
  · refine ⟨fun h => absurd h.1 (by rw [hop]; decide), fun h => h.elim (fun h => h.1 hop) fun h => h hst, ?_⟩
    rw [if_neg (by rw [hop]; decide), hmask]
    decide
  · refine ⟨fun h => absurd h.1 (by rw [hop]; decide), fun h => h.elim (fun h => h.2 hop) fun h => h hst, ?_⟩
    rw [if_pos hop, beq_false_of_ne hmask]
    decide

section
variable (hf : wellFormed w.record)
include hf

theorem fabCheck_of_outside (h : (s.dom w.slot).tblPages.toNat ≤ fabPage w.record.line) : s.fabCheck w = .answer 1 := by
  obtain ⟨h1, h2, h3⟩ := hf.passes
  exact (if_neg h1).trans ((if_neg h2).trans ((if_neg h3).trans (if_pos h)))

theorem fabCheck_of_uncached (hpage : fabPage w.record.line < (s.dom w.slot).tblPages.toNat)
    (h : Tab.get none s.fab.cache (cacheKey w.slot (fabPage w.record.line)) = none) : s.fabCheck w = .miss := by
  obtain ⟨h1, h2, h3⟩ := hf.passes
  refine (if_neg h1).trans ((if_neg h2).trans ((if_neg h3).trans ((if_neg (Nat.not_le.mpr hpage)).trans ?_)))
  rw [h]

theorem fabCheck_of_cached {e : BitVec 128} (hpage : fabPage w.record.line < (s.dom w.slot).tblPages.toNat)
    (h : Tab.get none s.fab.cache (cacheKey w.slot (fabPage w.record.line)) = some e) :
    s.fabCheck w = if !s.entUsable w.slot e then (if entValid e then .unusable else .answer 1) else s.entryCheck w e := by
  obtain ⟨h1, h2, h3⟩ := hf.passes
  refine (if_neg h1).trans ((if_neg h2).trans ((if_neg h3).trans ((if_neg (Nat.not_le.mpr hpage)).trans ?_)))
  rw [h]
  rfl

end

/-! ### What a usable entry admits -/

/-- The sender, the virtual device and the direction that an entry admits. -/
def entryAdmits (w : FabRecWait) (e : BitVec 128) : Prop :=
  (entShare e = 0 → w.sender = entMember e ∧ w.vd = entVd e) ∧ (entShare e = 1 → w.sender = entMember e) ∧
    (if w.record.op = fabRead then entRead e else entWrite e) = true

theorem entryCheck_of_not_admitted {e : BitVec 128} (h : ¬ entryAdmits w e) : s.entryCheck w e = .answer 2 := by
  refine (ite_eq_left_iff.mpr fun h0 => ite_eq_left_iff.mpr fun h1 => if_pos ?_)
  refine Bool.not_eq_true' _ ▸ Bool.eq_false_iff.mpr fun hdir => h ⟨fun hs => ?_, fun hs => ?_, hdir⟩
  · exact ⟨not_not.mp fun hn => h0 ⟨hs, .inl hn⟩, not_not.mp fun hn => h0 ⟨hs, .inr hn⟩⟩
  · exact not_not.mp fun hn => h1 ⟨hs, hn⟩

theorem entryCheck_of_admitted {e : BitVec 128} (h : entryAdmits w e) :
    s.entryCheck w e =
      if w.record.op = fabWrite ∧ s.isFragment w.slot = true then .answer 5
      else .access (entPage e ++ w.record.line.setWidth 15 ++ (0 : BitVec 6) : BitVec 43) (entKey e) := by
  obtain ⟨h0, h1, hdir⟩ := h
  refine (if_neg fun hx => ?_).trans ((if_neg fun hx => hx.2 (h1 hx.1)).trans (if_neg ?_))
  · exact hx.2.elim (fun hn => hn (h0 hx.1).1) fun hn => hn (h0 hx.1).2
  · rw [hdir]
    decide

end

/-! ### A table line -/

section
variable {s : State} {d : Slot} {line : BitVec 19} {rsp : McRsp}

theorem opTableLine_of_idle (h : s.running = false ∨ s.poolRole = false ∨ s.fab.misses.contains (d, line) = false) :
    s.opTableLine d line rsp = s := by
  refine if_pos ?_
  rcases h with h | h | h
  · rw [h]
    rfl
  · rw [h, Bool.not_false, Bool.or_true, Bool.true_or]
  · rw [h, Bool.not_false, Bool.or_true]

/-- The line is no longer among the misses. -/
def missDone (u : State) (d : Slot) (line : BitVec 19) : State :=
  { u with fab := { u.fab with misses := u.fab.misses.filter (· != (d, line)) } }

/-- The records that waited for a line that could not be read are answered. -/
def lineFailed (u : State) (d : Slot) (line : BitVec 19) : State :=
  (u.fab.queue.filter fun w => w.slot == d && fabTblLine w.record.line == line).foldl (fun t w => t.fabAnswer w 3 0)
    (u.fabEvent 3)

variable (hr : s.running = true) (hp : s.poolRole = true) (hm : s.fab.misses.contains (d, line) = true) {u : State}
include hr hp hm

theorem opTableLine_of_done {p : Line}
    (h : s.readNow (.fabric d) (s.dom d).tblKey (s.tblDpa d line.toNat) rsp = (u, .done p)) :
    s.opTableLine d line rsp = fabHeldPump 64 ((u.missDone d line).cacheFill d line.toNat p) := by
  rw [opTableLine, hr, hp, hm, if_neg (by decide), h]
  rfl

theorem opTableLine_of_failed {st : Status} {z : Bool}
    (h : s.readNow (.fabric d) (s.dom d).tblKey (s.tblDpa d line.toNat) rsp = (u, .failed st z)) :
    s.opTableLine d line rsp = fabHeldPump 64 ((u.missDone d line).lineFailed d line) := by
  rw [opTableLine, hr, hp, hm, if_neg (by decide), h]
  rfl

end

theorem missDone_misses (u : State) (d : Slot) (line : BitVec 19) : (d, line) ∉ (u.missDone d line).fab.misses := fun h =>
  absurd (List.mem_filter.mp h).2 (by rw [bne_self_eq_false]; exact Bool.false_ne_true)

theorem cacheFill_get (u : State) (d : Slot) (line : Nat) (p : Line) (i : Nat) (h : i < 4) :
    Tab.get none (u.cacheFill d line p).fab.cache (cacheKey d (4 * line + i)) = some (p.extractLsb' (128 * i) 128) :=
  Tab.get_foldl_set_range none _ (fun i => cacheKey d (4 * line + i)) (fun i => some (p.extractLsb' (128 * i) 128))
    (fun i j hij => by unfold cacheKey at hij; omega) 4 i h

theorem lineFailed_table (u : State) (d : Slot) (line : BitVec 19) :
    (u.lineFailed d line).fab.cache = u.fab.cache ∧ (u.lineFailed d line).fab.misses = u.fab.misses ∧
      (u.lineFailed d line).fab.event.getLsbD 3 = true :=
  List.foldlRecOn (motive := fun t : State => t.fab.cache = u.fab.cache ∧ t.fab.misses = u.fab.misses ∧ t.fab.event.getLsbD 3 = true)
    _ _ ⟨rfl, rfl, (getLsbD_setBitTo _ true (by decide) 3).trans (if_pos rfl)⟩
    fun t ht w _ => by
      obtain ⟨hcache, hmisses, hevent⟩ := t.fabAnswer_table w 3 0
      exact ⟨hcache.trans ht.1, hmisses.trans ht.2.1, hevent ht.2.2⟩

/-! ### The table registers (R437) -/

section
variable {s : State} {d : Slot} {base : Word} {key : KeyIdx} {pages : BitVec 22}

theorem opTblSetup_of_idle (h : s.running = false ∨ s.poolRole = false ∨ 2 ^ 21 < pages.toNat) :
    s.opTblSetup d base key pages = s := by
  refine if_pos ?_
  rcases h with h | h | h
  · rw [h]
    rfl
  · rw [h, Bool.not_false, Bool.or_true, Bool.true_or]
  · rw [decide_eq_true h, Bool.or_true]

theorem opTblSetup_of_taken (hr : s.running = true) (hp : s.poolRole = true) (h : pages.toNat ≤ 2 ^ 21) :
    s.opTblSetup d base key pages =
      (s.freeFabric d).modDom d fun k => { k with tblBase := base, tblKey := key, tblPages := pages } := by
  refine if_neg ?_
  rw [hr, hp, decide_eq_false (Nat.not_lt.mpr h)]
  decide

end

/-- What the cache holds of a slot goes with its table, and of the other slots nothing goes. -/
theorem freeFabric_cache (s : State) (d e : Slot) {p : Nat} (h : p < 2 ^ 22) :
    Tab.get none (s.freeFabric d).fab.cache (cacheKey e p) =
      if e = d then none else Tab.get none s.fab.cache (cacheKey e p) := by
  have hslot : cacheKey e p / 2 ^ 22 = e.toNat := by unfold cacheKey; omega
  refine (Tab.get_filter_of_index none s.fab.cache (fun n => n / 2 ^ 22 != d.toNat) _).trans ?_
  rw [hslot]
  by_cases he : e = d
  · rw [if_pos he, he, bne_self_eq_false, if_neg Bool.false_ne_true]
  · rw [if_neg he, if_pos (bne_iff_ne.mpr fun hn => he (BitVec.eq_of_toNat_eq hn))]

end State

/-- Settles O46: the checker's finding for the one record that waits, a table line by what its read brings, and the table
registers by the part of the cache that goes. -/
theorem fabricAtPool : Obligations.FabricAtPool := by
  unfold Obligations.FabricAtPool
  intro s rsp d line base key pages
  refine ⟨fun h => ⟨exec_next rfl (congrArg State.settleAll (State.opRequest_of_idle h)), ?_, ?_⟩,
    fun h => exec_next rfl (congrArg State.settleAll (State.opRequest_of_empty h)), fun w hr hp hq hm => ?_,
    fun hr hp h => exec_next rfl (congrArg State.settleAll (State.opTableLine_of_idle (.inr (.inr h)))), fun hr hp hm => ⟨fun b p h => ?_, fun b st z h => ?_⟩,
    fun h => exec_next rfl (State.opTblSetup_of_idle (.inr (.inr h))), fun hr hp h => ?_⟩
  · exact exec_next rfl (congrArg State.settleAll (State.opTableLine_of_idle (h.imp_right .inl)))
  · exact exec_next rfl (State.opTblSetup_of_idle (h.imp_right .inl))
  · intro q page formOk ends answered
    have hanswered (b : State) (st : BitVec 4) (x : Line) (hop : s.opRequest rsp = State.fabHeldPump 64 (b.fabAnswer w st x)) :
        answered b (b.fabAnswer w st x) st x :=
      ⟨exec_next rfl (congrArg State.settleAll hop), fun ha hi => State.fabAnswer_sent ha hi st x⟩
    refine ⟨fun h1 h2 => ?_, fun hf h1 => ?_, fun hf h1 h2 => ?_, fun e hf h1 h2 => ?_⟩
    · refine ⟨_, hanswered s 6 0 (State.opRequest_of_answer hr hp hq hm (State.fabCheck_of_atomic h1 h2)), ?_⟩
      rw [State.fabAnswer_fab]
      rfl
    · exact ⟨_, hanswered s 1 0 (State.opRequest_of_answer hr hp hq hm (State.fabCheck_of_outside hf h1))⟩
    · exact exec_next rfl (congrArg State.settleAll (State.opRequest_of_miss hr hp hq hm (State.fabCheck_of_uncached hf h1 h2)))
    · have hcheck := State.fabCheck_of_cached hf h1 h2
      refine ⟨fun hu hv => ?_, fun hu hv => ?_, fun hu => ?_⟩
      · rw [hu, hv] at hcheck
        have hop := State.opRequest_of_unusable (rsp := rsp) hr hp hq hm hcheck
        refine ⟨_, ⟨exec_next rfl (congrArg State.settleAll hop), fun ha hi => State.fabAnswer_sent (s := { s with fab := { s.fab with entryBad := satInc s.fab.entryBad } }) ha hi 1 0⟩, ?_⟩
        rw [State.fabAnswer_fab]
        rfl
      · rw [hu, hv] at hcheck
        exact ⟨_, hanswered s 1 0 (State.opRequest_of_answer hr hp hq hm hcheck)⟩
      · rw [hu, if_neg (by decide)] at hcheck
        intro admits a put
        refine ⟨fun h => ?_, fun h hw hfr => ?_, fun b p h hw hread => ?_, fun b st z h hw hread => ?_, fun b st h hw hfr hput => ?_,
          fun b h hw hfr hput => ?_⟩
        · rw [State.entryCheck_of_not_admitted h] at hcheck
          refine ⟨_, hanswered s 2 0 (State.opRequest_of_answer hr hp hq hm hcheck), ?_⟩
          rw [State.fabAnswer_fab]
          rfl
        · rw [State.entryCheck_of_admitted h, if_pos ⟨hw, hfr⟩] at hcheck
          exact ⟨_, hanswered s 5 0 (State.opRequest_of_answer hr hp hq hm hcheck)⟩
        · have hnw : w.record.op ≠ fabWrite := fun h' => absurd (h'.symm.trans hw) (by decide)
          rw [State.entryCheck_of_admitted h, if_neg fun hx => hnw hx.1] at hcheck
          exact ⟨_, hanswered b 0 p (State.opRequest_of_read_done hr hp hq hm hcheck hnw hread)⟩
        · have hnw : w.record.op ≠ fabWrite := fun h' => absurd (h'.symm.trans hw) (by decide)
          rw [State.entryCheck_of_admitted h, if_neg fun hx => hnw hx.1] at hcheck
          exact ⟨_, hanswered b _ 0 (State.opRequest_of_read_failed hr hp hq hm hcheck hnw hread)⟩
        · rw [State.entryCheck_of_admitted h, if_neg (by rw [hfr]; exact fun hx => Bool.false_ne_true hx.2)] at hcheck
          exact ⟨_, hanswered b _ 0 (State.opRequest_of_write_refused hr hp hq hm hcheck hw hput)⟩
        · rw [State.entryCheck_of_admitted h, if_neg (by rw [hfr]; exact fun hx => Bool.false_ne_true hx.2)] at hcheck
          exact exec_next rfl (congrArg State.settleAll (State.opRequest_of_write_taken hr hp hq hm hcheck hw hput))
  · exact ⟨_, exec_next rfl (congrArg State.settleAll (State.opTableLine_of_done hr hp hm h)), State.missDone_misses b d line,
      fun i hi => State.cacheFill_get _ d line.toNat p i hi⟩
  · have hfab : b.fab = s.fab := by
      have hk := State.readNow_keeps (m := .fabric d) (i := (s.dom d).tblKey) (d := s.tblDpa d line.toNat) (rsp := rsp)
        (Keeps.refl 0x552302#24 s) (by decide)
      rw [h] at hk
      exact hk.fab.resolve_left (by decide)
    obtain ⟨hcache, hmisses, hevent⟩ := (b.missDone d line).lineFailed_table d line
    refine ⟨_, exec_next rfl (congrArg State.settleAll (State.opTableLine_of_failed hr hp hm h)), ?_, hevent, ?_⟩
    · rw [hmisses]
      exact State.missDone_misses b d line
    · exact hcache.trans (congrArg Fab.cache hfab : b.fab.cache = s.fab.cache)
  · refine ⟨_, exec_next rfl (State.opTblSetup_of_taken hr hp h), State.modDom_dom_same _ _ _, fun e he => State.modDom_dom_ne _ _ _ _ he, fun p hlt => ?_,
      fun e p he hlt _ => ?_⟩
    · exact (State.freeFabric_cache s d d hlt).trans (if_pos rfl)
    · exact (State.freeFabric_cache s d e hlt).trans (if_neg he)

end Sys2Proof.Machine
end

section
/-! PROOFS. FAB_MAP and FAB_UNMAP at the pool (O47). -/

namespace Sys2Proof.Machine

namespace State

/-- A command of the PF that passes every check comes to its effect and a reply without a body. -/
theorem mbxPf_ready {s : State} {h : MbxHdr} {code : BitVec 16} {len : Nat} {act : State → State × Status}
    (hready : s.mbxReady h len) (hf : h.fn = 0) : s.mbxPf h code len act = (act s).1.mbxReply h code (act s).2 [] :=
  mbxRun_ready code true (some len) _ hready (fun _ => hf) fun _ hk => (Option.some.inj hk).symm

theorem mbxPf_of_act {s u : State} {h : MbxHdr} {code : BitVec 16} {len : Nat} {act : State → State × Status} {st : Status}
    (hready : s.mbxReady h len) (hf : h.fn = 0) (hact : act s = (u, st)) :
    s.mbxPf h code len act = u.mbxReply h code st [] := by
  rw [mbxPf_ready hready hf, hact]

section
variable {s : State} {d : Slot} {page : BitVec 32} {e : BitVec 128}

/-! ### The write of an entry -/

theorem entryWrite_of_refused {n : Nat} {st : Status} {u : State}
    (h : s.memRefusal .trustCore (s.dom d).tblKey (s.tblDpa d (n / 4)) true = some (st, u)) :
    s.entryWrite d n e = (u, st) := by
  unfold entryWrite
  dsimp only
  rw [h]

/-- The cached copy of a page is dropped. -/
def entryDropped (s : State) (d : Slot) (n : Nat) : State :=
  { s with fab := { s.fab with cache := Tab.set none s.fab.cache (cacheKey d n) none } }

/-- The partial write of an entry. -/
def entryAsk (s : State) (d : Slot) (n : Nat) (e : BitVec 128) : MemWait :=
  { master := .trustCore, key := (s.dom d).tblKey, dpa := s.tblDpa d (n / 4), atomic := false, refs := []
    write := some (byteMask (16 * (n % 4)) 16, bytesLine (zeros (16 * (n % 4)) ++ leBytes 16 e.toNat)) }

theorem entryWrite_of_taken {n : Nat} (h : s.memRefusal .trustCore (s.dom d).tblKey (s.tblDpa d (n / 4)) true = none) :
    s.entryWrite d n e = ((s.entryDropped d n).memAccept (s.entryAsk d n e), stOk) := by
  unfold entryWrite
  dsimp only
  rw [h]
  rfl

/-! ### The checks of the two commands (R435, R436) -/

theorem fabMapDo_of_role (h : s.poolRole = false) : s.fabMapDo d page e = (s, stRoleMismatch) := if_pos (by rw [h]; rfl)

theorem fabUnmapDo_of_role (h : s.poolRole = false) : s.fabUnmapDo d page = (s, stRoleMismatch) := if_pos (by rw [h]; rfl)

variable (hp : s.poolRole = true)
include hp

theorem fabMapDo_of_outside (h : (s.dom d).tblPages.toNat ≤ page.toNat) : s.fabMapDo d page e = (s, stLengthRange) :=
  (if_neg (by rw [hp]; decide)).trans (if_pos h)

theorem fabUnmapDo_of_outside (h : (s.dom d).tblPages.toNat ≤ page.toNat) : s.fabUnmapDo d page = (s, stLengthRange) :=
  (if_neg (by rw [hp]; decide)).trans (if_pos h)

variable (h : page.toNat < (s.dom d).tblPages.toNat)
include h

theorem fabUnmapDo_of_page : s.fabUnmapDo d page = s.entryWrite d page.toNat 0 :=
  (if_neg (by rw [hp]; decide)).trans (if_neg (Nat.not_le.mpr h))

theorem fabMapDo_of_unusable (hu : s.entUsable d e = false) : s.fabMapDo d page e = (s, stKeyScope) :=
  (if_neg (by rw [hp]; decide)).trans ((if_neg (Nat.not_le.mpr h)).trans (if_pos (by rw [hu]; rfl)))

variable (hu : s.entUsable d e = true)
include hu

theorem fabMapDo_of_above (hb : s.pageBelow (entPage e) = false) : s.fabMapDo d page e = (s, stLengthRange) :=
  (if_neg (by rw [hp]; decide)).trans
    ((if_neg (Nat.not_le.mpr h)).trans ((if_neg (by rw [hu]; decide)).trans (if_pos (by rw [hb]; rfl))))

theorem fabMapDo_of_entry (hb : s.pageBelow (entPage e) = true) : s.fabMapDo d page e = s.entryWrite d page.toNat e :=
  (if_neg (by rw [hp]; decide)).trans
    ((if_neg (Nat.not_le.mpr h)).trans ((if_neg (by rw [hu]; decide)).trans (if_neg (by rw [hb]; decide))))

end

end State

/-- Settles O47: the checks in their order, and the write of the entry by what Memory Sealing says of it. -/
theorem fabricTable : Obligations.FabricTable := by
  unfold Obligations.FabricTable
  intro s h d page e hf k a o cleared asked
  refine ⟨fun hready => ?_, fun hready => ?_⟩
  · have hmap {u : State} {st : Status} (hact : s.fabMapDo d page e = (u, st)) :
        exec (.fabMap h d page e) s = .next (u.mbxReply h 0x0040 st []).settleAll :=
      exec_next rfl (congrArg State.settleAll (State.mbxPf_of_act hready hf hact))
    refine ⟨fun hp => hmap (State.fabMapDo_of_role hp), fun hp h1 => hmap (State.fabMapDo_of_outside hp h1),
      fun hp h1 h2 => hmap (State.fabMapDo_of_unusable hp h1 h2), fun hp h1 h2 h3 => hmap (State.fabMapDo_of_above hp h1 h2 h3),
      fun hp h1 h2 h3 => ⟨fun st u hw => ?_, fun hw => ?_⟩⟩
    · exact hmap ((State.fabMapDo_of_entry hp h1 h2 h3).trans (State.entryWrite_of_refused hw))
    · exact hmap ((State.fabMapDo_of_entry hp h1 h2 h3).trans (State.entryWrite_of_taken hw))
  · have hunmap {u : State} {st : Status} (hact : s.fabUnmapDo d page = (u, st)) :
        exec (.fabUnmap h d page) s = .next (u.mbxReply h 0x0041 st []).settleAll :=
      exec_next rfl (congrArg State.settleAll (State.mbxPf_of_act hready hf hact))
    refine ⟨fun hp => hunmap (State.fabUnmapDo_of_role hp), fun hp h1 => hunmap (State.fabUnmapDo_of_outside hp h1),
      fun hp h1 => ⟨fun st u hw => ?_, fun hw => ?_⟩⟩
    · exact hunmap ((State.fabUnmapDo_of_page hp h1).trans (State.entryWrite_of_refused hw))
    · exact hunmap ((State.fabUnmapDo_of_page hp h1).trans (State.entryWrite_of_taken hw))

end Sys2Proof.Machine
end

section
/-! PROOFS. SPDM_MSG and CERT_GET, the function commands, LINK_AGREE and LINK_CLOSE (O49). -/

namespace Sys2Proof.Machine

namespace State

/-- A request that passes every check comes to what its command does of it. -/
theorem mbxRun_of_act {s u : State} {h : MbxHdr} {n : Nat} {code : BitVec 16} {pf : Bool} {want : Option Nat}
    {act : State → MbxAnswer} {st : Status} {b : Bytes} (hready : s.mbxReady h n) (hf : pf = true → h.fn = 0)
    (hw : ∀ k, want = some k → k = n) (hact : act s = (u, st, b)) : s.mbxRun h code true pf want act = u.mbxReply h code st b := by
  rw [mbxRun_ready code pf want act hready hf hw, hact]

/-! ### SPDM_MSG and CERT_GET (R475, R494) -/

section
variable {s : State} {f : Fn} {b : Bytes}

/-- A request in order answers and leaves the negotiation at a state. -/
def spdmGoes (s : State) (f : Fn) (b : Bytes) (x : SpdmState) : MbxAnswer :=
  (s.modFunc f fun k => { k with spdm := x }, stOk, Config.spdmEncode b s.spdmChain)

/-- A request out of order. -/
def spdmOrder (s : State) : MbxAnswer := (s, stOk, spdmError 0x04 0)

theorem spdmDo_of_version (h : byteAt b 1 = 0x84) : s.spdmDo f b = s.spdmGoes f b 1 := if_pos h

theorem spdmDo_of_capabilities (h : byteAt b 1 = 0xE1) :
    s.spdmDo f b = if (s.func f).spdm = 1 then s.spdmGoes f b 2 else s.spdmOrder := by
  unfold spdmDo
  rw [h]
  rfl

theorem spdmDo_of_algorithms (h : byteAt b 1 = 0xE3) :
    s.spdmDo f b = if (s.func f).spdm = 2 then s.spdmGoes f b 3 else s.spdmOrder := by
  unfold spdmDo
  rw [h]
  rfl

theorem spdmDo_of_digests (h : byteAt b 1 = 0x81) :
    s.spdmDo f b = if (s.func f).spdm = 3 then s.spdmGoes f b 3 else s.spdmOrder := by
  unfold spdmDo
  rw [h]
  rfl

theorem spdmDo_of_certificate (h : byteAt b 1 = 0x82) :
    s.spdmDo f b =
      if (s.func f).spdm ≠ 3 then s.spdmOrder
      else if s.boot.idRecordOk then s.spdmGoes f b 3 else (s, stOk, spdmError 0x01 0) := by
  unfold spdmDo
  rw [h]
  rfl

theorem spdmDo_of_other (h : byteAt b 1 ∉ ([0x84, 0xE1, 0xE3, 0x81, 0x82] : Bytes)) :
    s.spdmDo f b = (s, stOk, spdmError 0x07 (byteAt b 1)) := by
  simp only [List.mem_cons, List.not_mem_nil, or_false, not_or] at h
  obtain ⟨h1, h2, h3, h4, h5⟩ := h
  exact (if_neg h1).trans ((if_neg h2).trans ((if_neg h3).trans ((if_neg h4).trans (if_neg h5))))

end

/-! ### FN_OPEN, DRAIN and RETIRE (Table 16-9) -/

section
variable {s : State} {f : Fn}

theorem fnWork_modFunc_phase (s : State) (f : Fn) (p : FnPhase) :
    (s.modFunc f fun k => { k with phase := p }).fnWork f = s.fnWork f := by
  unfold fnWork
  rw [modFunc_func_same]
  rfl

/-- A function that begins to drain. -/
def drainBegun (s : State) (f : Fn) : State := s.modFunc f fun k => { k with phase := .draining }

theorem drainDo_of_opened (hf : f ≠ 0) (hp : (s.func f).phase = .opened) :
    s.drainDo f = ((s.drainBegun f).drainCheck f, stOk) := (if_neg hf).trans (if_pos hp)

theorem drainDo_of_not_opened (hf : f ≠ 0) (hp : (s.func f).phase ≠ .opened) : s.drainDo f = (s, stOk) :=
  (if_neg hf).trans (if_neg hp)

theorem drainBegun_checked_busy (h : s.fnWork f = true) :
    ((s.drainBegun f).drainCheck f).func f = { s.func f with phase := .draining } := by
  rw [drainCheck, if_neg fun hc => absurd hc.2 (by rw [drainBegun, fnWork_modFunc_phase, h]; decide), drainBegun,
    modFunc_func_same]

theorem drainBegun_checked_idle (h : s.fnWork f = false) :
    ((s.drainBegun f).drainCheck f).func f = { s.func f with phase := .drained, drained := true } := by
  have hphase : ((s.drainBegun f).func f).phase = .draining := by rw [drainBegun, modFunc_func_same]
  rw [drainCheck, if_pos ⟨hphase, by rw [drainBegun, fnWork_modFunc_phase, h]; decide⟩, func, msiPf_fe, ← func,
    modFunc_func_same, drainBegun, modFunc_func_same]

theorem fnOpenDo_of_closed (hf : f ≠ 0) (hp : (s.func f).phase = .closed) :
    s.fnOpenDo f = ((s.setEnable (.fn f) true).modFunc f fun k => { k with phase := .opened }, stOk) :=
  (if_neg hf).trans (if_pos hp)

theorem fnOpenDo_of_not_closed (hf : f ≠ 0) (hp : (s.func f).phase ≠ .closed) : s.fnOpenDo f = (s, stCtxBusy) :=
  (if_neg hf).trans (if_neg hp)

theorem retireDo_of_phase (hf : f ≠ 0) {p : FnPhase} (hp : (s.func f).phase = p) :
    s.retireDo f =
      if p = .drained then (s.retireFn f, stOk) else if p = .closed then (s, stOk) else (s, stCtxBusy) := by
  refine (if_neg hf).trans ?_
  rw [hp]
  cases p <;> rfl

/-- A function that is retired is closed and off, and its session is gone. -/
theorem retireFn_left (s : State) (f : Fn) :
    ((s.retireFn f).func f).phase = .closed ∧ ((s.retireFn f).sessOf f).opened = false ∧ (s.retireFn f).fnOn f = false := by
  unfold retireFn
  dsimp only
  generalize (s.ctxsOfFn f).foldl destroyCtx s = u
  have hsess : ((u.sessDrop f).sessOf f).opened = false := congrArg Sess.opened (congrArg Func.sess (modFunc_func_same _ f _))
  generalize u.sessDrop f = v at hsess
  have hclosed := congrArg Func.phase (modFunc_func_same v f retired)
  have hkept : ((v.modFunc f retired).sessOf f).opened = false := by rw [sessOf, modFunc_func_same]; exact hsess
  have hoff : (setBitTo v.clk.enFn f.toNat false).getLsbD f.toNat = false := (getLsbD_setBitTo _ _ f.isLt _).trans (if_pos rfl)
  split
  · rw [flrAckPut]
    split
    · exact ⟨hclosed, hkept, hoff⟩
    · rw [flrKeep]
      split <;> exact ⟨hclosed, hkept, hoff⟩
  · exact ⟨hclosed, hkept, hoff⟩

end

/-! ### LINK_AGREE and LINK_CLOSE (R277) -/

section
variable {s : State} {d : Slot} {l : LinkId} {st : Status}

theorem linkDo_of_shut (h : s.linkShut = some st) : s.linkAgreeDo d l = (s, st) ∧ s.linkCloseDo d l = (s, st) := by
  unfold linkAgreeDo linkCloseDo
  rw [h]
  exact ⟨rfl, rfl⟩

variable (h : s.linkShut = none)
include h

theorem linkDo_of_undeclared (hd : s.declared d l = false) :
    s.linkAgreeDo d l = (s, stRoster) ∧ s.linkCloseDo d l = (s, stRoster) := by
  unfold linkAgreeDo linkCloseDo
  rw [h, hd]
  exact ⟨rfl, rfl⟩

variable (hd : s.declared d l = true)
include hd

theorem linkAgreeDo_of_retired (ho : outOfService (.lk l) (s.laneCluster (.lk l)) = true) :
    s.linkAgreeDo d l = (s, stFnOff) := by
  unfold linkAgreeDo
  dsimp only
  rw [h, hd, ho]
  rfl

theorem linkAgreeDo_of_service (ho : outOfService (.lk l) (s.laneCluster (.lk l)) = false) :
    s.linkAgreeDo d l =
      if (s.link l).core.phase = .agreeing ∨ (s.link l).core.phase = .agreed then (s, stSlotBusy)
      else (s.agreeRefusal d).elim
        (if s.linkOn l && (s.link l).core.up then (s.agreeNow l, stOk)
         else (s.modLink l fun k => { k with agr := { k.agr with kept := true } }, stOk)) fun st => (s, st) := by
  unfold linkAgreeDo
  dsimp only
  rw [h, hd, ho]
  cases s.agreeRefusal d <;> rfl

theorem linkCloseDo_of_not_agreed (ha : s.agreedIn l d = false) : s.linkCloseDo d l = (s, stNoTarget) := by
  unfold linkCloseDo
  rw [h, hd, ha]
  rfl

theorem linkCloseDo_of_agreed (ha : s.agreedIn l d = true) :
    s.linkCloseDo d l =
      (s.agreeRefusal d).elim ((s.sendBye l endLocal).endAgreement l endLocal, stOk) fun st => (s, st) := by
  unfold linkCloseDo
  rw [h, hd, ha]
  cases s.agreeRefusal d <;> rfl

end

/-- A link whose Agreement, groups in flight and fabric requests stand as they were. -/
structure ByeSame (l : LinkId) (s t : State) : Prop where
  core : (t.link l).core = (s.link l).core
  flight : (t.link l).io.flight = (s.link l).io.flight
  fabOut : (t.link l).fabOut = (s.link l).fabOut
  fabWait : (t.link l).fabWait = (s.link l).fabWait

theorem ByeSame.trans {l : LinkId} {s t u : State} (h : ByeSame l s t) (h' : ByeSame l t u) : ByeSame l s u :=
  ⟨h'.core.trans h.core, h'.flight.trans h.flight, h'.fabOut.trans h.fabOut, h'.fabWait.trans h.fabWait⟩

theorem ByeSame.of_links {l : LinkId} {s t : State} (h : t.links = s.links) : ByeSame l s t := by
  have hl : t.link l = s.link l := by rw [link, h]; rfl
  exact ⟨congrArg _ hl, congrArg (·.io.flight) hl, congrArg _ hl, congrArg _ hl⟩

/-- A link with one more group on its wire. -/
def withWire (u : State) (l : LinkId) (c : Cls) (bytes : Bytes) (n : Nat) : Link :=
  let k := u.link l
  { k with
    io := { k.io with
      wire := k.io.wire ++ [{ cls := c, units := groupUnits n, bytes := bytes }]
      txCredits := Tab.set 0 k.io.txCredits c.toNat (u.txCredit l c - 1) }
    tc0 := if c = 0 then { k.tc0 with lastTx := u.now } else k.tc0 }

theorem wirePut_same (u : State) (l : LinkId) (c : Cls) (bytes : Bytes) (n : Nat) : ByeSame l u (u.wirePut l c bytes n) := by
  have hl : (u.wirePut l c bytes n).link l = u.withWire l c bytes n := setLink_link_same u l _
  refine ⟨?_, ?_, ?_, ?_⟩ <;> rw [hl] <;> rfl

/-- A sealed group takes a sequence number and the wire, and nothing else of its link. -/
theorem txSeal_same {s t : State} {l : LinkId} {c : Cls} {kind dest : BitVec 2} {cf : BitVec 10} {vd : VdId} {p : Bytes}
    (h : s.txSeal l c kind dest cf vd p none = some t) : ByeSame l s t := by
  unfold txSeal at h
  split at h
  · cases h
  · obtain rfl := Option.some.inj h
    refine ByeSame.trans (t := s.modLink l fun k => { k with io := { k.io with txSeq := Tab.set 0 k.io.txSeq c.toNat (s.txSeqOf l c + 1) } })
      ?_ (ByeSame.trans (.of_links ?_) (wirePut_same _ l c _ _))
    · refine ⟨?_, ?_, ?_, ?_⟩ <;> rw [modLink_link_same]
    · exact (meter_keeps (K := 0x140040) (count_keeps (useKey_keeps (Keeps.refl _ _) (by decide)) (by decide)) (by decide)).links.resolve_left (by decide)

theorem sendBye_same (s : State) (l : LinkId) (cause : BitVec 8) : ByeSame l s (s.sendBye l cause) := by
  unfold sendBye
  split
  · cases h : s.txSeal l 0 kindSealed destControl 0 0 ([0x32, cause] ++ zeros 6) none with
    | none => exact ⟨rfl, rfl, rfl, rfl⟩
    | some t => exact txSeal_same h
  · exact ⟨rfl, rfl, rfl, rfl⟩

/-- An Agreement that this end closes (R277). -/
theorem bye_ended {s : State} {l : LinkId} (hp : (s.link l).core.phase = .agreed) (hf : (s.link l).io.flight = [])
    (hprogs : s.red.progs = []) (ho : (s.link l).fabOut = []) (hw : (s.link l).fabWait = []) :
    Ended (s.sendBye l endLocal) l endLocal ((s.sendBye l endLocal).endAgreement l endLocal) ∧
      ((s.sendBye l endLocal).link l).core = (s.link l).core := by
  obtain ⟨hcore, hflight, hfabOut, hfabWait⟩ := s.sendBye_same l endLocal
  have hred : (s.sendBye l endLocal).red = s.red :=
    (sendBye_keeps (K := 0x542240) (Keeps.refl _ s) (by decide)).red.resolve_left (by decide)
  exact ⟨endAgreement_ended (by rw [hcore, hp]) (by rw [hflight, hf]) (by rw [hred, hprogs]) (by rw [hfabOut, ho])
    (by rw [hfabWait, hw]) endLocal, hcore⟩

end State

open State in
/-- Settles O49: each service by the case its request falls into. -/
theorem mailboxServices : Obligations.MailboxServices := by
  unfold Obligations.MailboxServices
  intro s h f d l
  refine ⟨fun b n hready => ?_, fun o n hready => ?_, fun hready hfn => ?_, fun hready hfn => ?_⟩
  · intro st goes order
    have hrun {u : State} {st : Status} {x : Bytes} (hact : s.spdmDo h.fn b = (u, st, x)) :
        exec (.spdmMsg h b) s = .next (u.mbxReply h 0x0001 st x) := exec_next rfl (mbxRun_of_act hready nofun nofun hact)
    refine ⟨fun hc => hrun (spdmDo_of_version hc), fun hc hst => hrun ((spdmDo_of_capabilities hc).trans (if_pos hst)),
      fun hc hst => hrun ((spdmDo_of_capabilities hc).trans (if_neg hst)),
      fun hc hst => hrun ((spdmDo_of_algorithms hc).trans (if_pos hst)),
      fun hc hst => hrun ((spdmDo_of_algorithms hc).trans (if_neg hst)),
      fun hc hst => hrun ((spdmDo_of_digests hc).trans (if_pos hst)), fun hc hst => ?_,
      fun hc hst hok => ?_, fun hc hst hok => ?_, fun hc => hrun (spdmDo_of_other hc)⟩
    · rcases hc with hc | hc
      · exact hrun ((spdmDo_of_digests hc).trans (if_neg hst))
      · exact hrun ((spdmDo_of_certificate hc).trans (if_pos hst))
    · exact hrun ((spdmDo_of_certificate hc).trans ((if_neg (not_not.mpr hst)).trans (if_pos hok)))
    · exact hrun ((spdmDo_of_certificate hc).trans ((if_neg (not_not.mpr hst)).trans (if_neg (by rw [hok]; decide))))
  · intro x
    have hrun {u : State} {st : Status} {y : Bytes} (hact : s.certGetDo o.toNat n.toNat = (u, st, y)) :
        exec (.certGet h o n) s = .next (u.mbxReply h 0x0002 st y) :=
      exec_next rfl (mbxRun_of_act hready nofun (fun _ hk => (Option.some.inj hk).symm) hact)
    refine ⟨fun hc => hrun (if_pos ?_), fun h1 h2 h3 => hrun (if_neg ?_)⟩
    · exact hc.imp_right fun hc => hc.imp_left fun hz => by rw [hz]; rfl
    · rintro (hc | hc | hc)
      · exact absurd h1 (Nat.not_lt.mpr hc)
      · exact h2 (BitVec.eq_of_toNat_eq hc)
      · exact absurd h3 (Nat.not_le.mpr hc)
  · have hopen {u : State} {st : Status} (hact : s.fnOpenDo f = (u, st)) :
        exec (.fnOpen h f) s = .next (u.mbxReply h 0x0050 st []).settleAll :=
      exec_next rfl (congrArg State.settleAll (mbxPf_of_act hready hfn hact))
    have hdrain {u : State} {st : Status} (hact : s.drainDo f = (u, st)) :
        exec (.drain h f) s = .next (u.mbxReply h 0x0051 st []) := exec_next rfl (mbxPf_of_act hready hfn hact)
    have hretire {u : State} {st : Status} (hact : s.retireDo f = (u, st)) :
        exec (.retire h f) s = .next (u.mbxReply h 0x0052 st []).settleAll :=
      exec_next rfl (congrArg State.settleAll (mbxPf_of_act hready hfn hact))
    refine ⟨fun hf => ⟨hopen (if_pos hf), hdrain (if_pos hf), hretire (if_pos hf)⟩, fun hf => ⟨fun hp => ⟨?_, ?_, ?_⟩, fun hp => ?_, fun hp => ⟨?_, fun hw => ?_, fun hw => ?_⟩,
      fun hp => ⟨?_, ?_⟩, fun hp => ⟨?_, _, hretire (retireDo_of_phase hf hp), retireFn_left s f⟩⟩⟩
    · refine ⟨_, hopen (fnOpenDo_of_closed hf hp), modFunc_func_same _ _ _, ?_, rfl⟩
      exact (getLsbD_setBitTo _ _ f.isLt _).trans (if_pos rfl)
    · exact hdrain (drainDo_of_not_opened hf (by rw [hp]; decide))
    · exact hretire (retireDo_of_phase hf hp)
    · exact hopen (fnOpenDo_of_not_closed hf hp)
    · exact hretire (retireDo_of_phase hf hp)
    · exact ⟨_, hdrain (drainDo_of_opened hf hp), drainBegun_checked_busy hw⟩
    · exact ⟨_, hdrain (drainDo_of_opened hf hp), drainBegun_checked_idle hw⟩
    · exact hdrain (drainDo_of_not_opened hf (by rw [hp]; decide))
    · exact hretire (retireDo_of_phase hf hp)
    · exact hdrain (drainDo_of_not_opened hf (by rw [hp]; decide))
  · intro agree close
    have hagree {u : State} {st : Status} (hact : s.linkAgreeDo d l = (u, st)) : agree u st :=
      exec_next rfl (mbxPf_of_act hready hfn hact)
    have hclose {u : State} {st : Status} (hact : s.linkCloseDo d l = (u, st)) : close u st :=
      exec_next rfl (congrArg State.settleAll (mbxPf_of_act hready hfn hact))
    refine ⟨fun st hs => ⟨hagree (linkDo_of_shut hs).1, hclose (linkDo_of_shut hs).2⟩,
      fun hs hd => ⟨hagree (linkDo_of_undeclared hs hd).1, hclose (linkDo_of_undeclared hs hd).2⟩,
      fun hs hd => ⟨fun ho => hagree (linkAgreeDo_of_retired hs hd ho), fun ho => ?_,
        fun ha => hclose (linkCloseDo_of_not_agreed hs hd ha), fun st ha hr => ?_, fun ha hr hprogs hf hfo hfw => ?_⟩⟩
    · have hact := linkAgreeDo_of_service hs hd ho
      refine ⟨fun hp => hagree (hact.trans (if_pos hp)), fun hp1 hp2 => ?_⟩
      rw [if_neg (not_or.mpr ⟨hp1, hp2⟩)] at hact
      refine ⟨fun st hr => hagree (hact.trans ?_), fun hr hoff => hagree (hact.trans ?_), fun hr hon hup => hagree (hact.trans ?_)⟩
      · rw [hr]
        rfl
      · rw [hr]
        refine if_neg fun hc => ?_
        rw [Bool.and_eq_true] at hc
        rcases hoff with hoff | hoff
        · exact absurd hc.1 (by rw [hoff]; decide)
        · exact absurd hc.2 (by rw [hoff]; decide)
      · rw [hr]
        exact if_pos (by rw [hon, hup]; rfl)
    · refine hclose ((linkCloseDo_of_agreed hs hd ha).trans ?_)
      rw [hr]
      rfl
    · have hp : (s.link l).core.phase = .agreed := beq_iff_eq.mp (Bool.and_eq_true_iff.mp ha).1
      obtain ⟨hend, hcore⟩ := bye_ended hp hf hprogs hfo hfw
      have hact := linkCloseDo_of_agreed hs hd ha
      rw [hr] at hact
      exact ⟨_, hclose hact, hend.cause, hend.live, hend.member.trans (congrArg (·.pMember) hcore), hend.las⟩

end Sys2Proof.Machine
end

section
/-! PROOFS. The Host Agreement (O50). -/

namespace Sys2Proof.Machine

namespace State

/-! ### Accesses count the use of keys and leave the rest of them -/

/-- The key store is the same but for what its keys have been used. -/
def UseOnly (s t : State) : Prop := ∀ r, ∃ n, t.row r = { s.row r with use := n }

theorem UseOnly.of_keys {s t : State} (h : t.keys = s.keys) : UseOnly s t := fun r => ⟨(s.row r).use, row_of_keys h r⟩

theorem UseOnly.trans {s t u : State} (h : UseOnly s t) (h' : UseOnly t u) : UseOnly s u := fun r => by
  obtain ⟨m, hm⟩ := h r
  obtain ⟨n, hn⟩ := h' r
  exact ⟨n, by rw [hn, hm]⟩

theorem useKey_useOnly (s : State) (r n : Nat) : UseOnly s (s.useKey r n) := fun q => by
  unfold useKey
  dsimp only
  split
  · rcases eq_or_ne q r with rfl | hq
    · exact ⟨_, setRow_row_same _ _ _⟩
    · exact ⟨_, setRow_row_ne _ _ _ _ hq⟩
  · exact ⟨_, rfl⟩

theorem noteSealed_useOnly (s : State) (m : Master) (i : KeyIdx) (d : Dpa) : UseOnly s (s.noteSealed m i d) := by
  refine (s.useKey_useOnly (s.writeRowOf i) 6).trans (.of_keys ?_)
  have hk : Keeps 0x042100 (s.useKey (s.writeRowOf i) 6) (s.noteSealed m i d) := by
    unfold noteSealed
    dsimp only
    refine activity_keeps ?_ (by decide)
    have hw := modChan_keeps (c := dpaChan d) (f := fun c => { c with written := setBitTo c.written i.toNat true })
      (Keeps.refl 0x042100 (s.useKey (s.writeRowOf i) 6)) (by decide)
    split
    · exact meter_keeps hw (by decide)
    · exact hw
  exact hk.keys.resolve_left (by decide)

theorem memEnd_useOnly (s : State) (m : Master) (tag : Option MemTag) (d : Dpa) (st : Status) (a : Bool) :
    UseOnly s (s.memEnd m tag d st a) :=
  .of_keys ((memEnd_keeps (K := 0x400100) (Keeps.refl _ s) (by decide)).keys.resolve_left (by decide))

theorem mcIssue_useOnly {s t : State} {i : KeyIdx} {d : Dpa} {p : McPurpose} {w : Option (Line × BitVec 32)}
    {tag : Option MemTag} (h : s.mcIssue i d p w tag = some t) : UseOnly s t :=
  .of_keys ((mcIssue_keeps (K := 0x510100) (Keeps.refl _ s) (by decide) t h).keys.resolve_left (by decide))

theorem mcWrite_useOnly {s t : State} {m : Master} {i : KeyIdx} {d : Dpa} {x : Line} {tag : Option MemTag}
    (h : s.mcWrite m i d x tag = some t) : UseOnly s t := by
  unfold mcWrite at h
  split at h
  · cases h
    exact UseOnly.trans (t := s.record recKeyOrphan i.toNat) (.of_keys rfl) (memEnd_useOnly _ _ _ _ _ _)
  · obtain ⟨u, hu, rfl⟩ := Option.map_eq_some_iff.mp h
    exact (mcIssue_useOnly hu).trans (noteSealed_useOnly u m i d)

/-- An access that is tried either writes a whole line or keeps the key store. -/
theorem memTry_useOnly {s t : State} {before : List MemWait} {w : MemWait} (h : s.memTry before w = some t) : UseOnly s t := by
  unfold memTry at h
  dsimp only at h
  split at h
  · cases h
  · split at h
    · cases hm : masterCtx w.master with
      | none =>
        rw [hm] at h
        dsimp only at h
        split at h
        · cases h
        · obtain ⟨u, hu, rfl⟩ := Option.map_eq_some_iff.mp h
          exact mcIssue_useOnly hu
      | some x =>
        rw [hm] at h
        dsimp only at h
        split at h
        · cases h
        · obtain ⟨u, hu, rfl⟩ := Option.map_eq_some_iff.mp h
          have hrefs (rs : List GroupRef) : (rs.foldl (fun u r => u.addConsumer x r) u).keys = u.keys :=
            List.foldlRecOn (motive := fun v : State => v.keys = u.keys) rs _ rfl fun _ hv _ _ => hv
          exact (mcIssue_useOnly hu).trans (.of_keys (hrefs _))
    · split at h
      · cases h
      · split at h
        · split at h
          · cases h
          · cases h
            exact .of_keys rfl
        · split at h
          · exact mcWrite_useOnly h
          · exact mcIssue_useOnly h

theorem memPumpAux_useOnly (ws kept : List MemWait) (s : State) : UseOnly s (memPumpAux ws kept s) := by
  induction ws generalizing kept s with
  | nil => exact .of_keys rfl
  | cons w ws ih =>
    rw [memPumpAux]
    split
    · exact (memEnd_useOnly s _ _ _ _ _).trans (ih kept _)
    · split
      · next t ht => exact (memTry_useOnly ht).trans (ih kept t)
      · exact UseOnly.trans (.of_keys ((noteWaits_keeps (K := 0x000100) (Keeps.refl _ s) (by decide)).keys.resolve_left
          (by decide))) (ih _ _)

theorem memPump_useOnly (s : State) : UseOnly s s.memPump := memPumpAux_useOnly _ _ s

/-! ### HA_HELLO -/

section
variable {s : State} {h : MbxHdr} {m : HaHello}

theorem haHelloDo_of_refused {r : Status} (hr : s.haRefusal h m = some r) : s.haHelloDo h m = (s, r, []) := by
  rw [haHelloDo, hr]

theorem haHelloDo_of_taken (hr : s.haRefusal h m = none) : ∃ (u : State) (b : Bytes), s.haHelloDo h m = (u, stOk, b) ∧
    u.freeCtr = s.freeCtr + 3 ∧ ∃ p, (u.sessOf h.fn).pend = some p ∧ p.sessionId = m.sessionId ∧
      p.slot = m.slot.setWidth 3 ∧ p.th = sha384 (m.raw ++ b) ∧ p.since = s.now := by
  rw [haHelloDo, hr]
  refine ⟨_, _, rfl, rfl, _, congrArg (·.sess.pend) (modFunc_func_same _ _ _), rfl, rfl, rfl, rfl⟩

theorem haRefusal_of_length (hl : h.bodyLen ≠ 9177) : s.haRefusal h m = some stReserved := if_pos (.inl hl)

end

/-! ### HA_FINISH -/

section
variable {s : State} {f : Fn} {id : BitVec 32} {sig : Bytes} {kc : BitVec 128}

theorem haFinishDo_of_none (h : (s.sessOf f).pend = none) : s.haFinishDo f id sig kc = (s, stFormation, []) := by
  rw [haFinishDo, h]

/-- The secret of a session. -/
def haSecret (f : Fn) (p : HaPend) : Bytes :=
  hybrid p.ssKem p.ssEcdh p.th "KX3-STAGE-AGREE" ([f] ++ leBytes 4 p.sessionId.toNat)

/-- What HA_FINISH asks of an agreement that pends (R480). -/
def haHolds (s : State) (f : Fn) (p : HaPend) (id : BitVec 32) (sig : Bytes) (kc : BitVec 128) : Prop :=
  s.now - p.since ≤ haLimit ∧ id = p.sessionId ∧ sigMsgOk p.vmKeys "KX3-HOST-I" p.th sig = true ∧
    kc = confirmTag (haSecret f p) p.th 1 "KX3-HOST-KC" ∧ s.hasMember p.slot = true

/-- Nothing pends any more. -/
def unpended (s : State) (f : Fn) : State := s.modSess f fun z => { z with pend := none }

variable {p : HaPend} (hp : (s.sessOf f).pend = some p)
include hp

theorem haFinishDo_of_held (h : s.haHolds f p id sig kc) :
    s.haFinishDo f id sig kc = ((s.unpended f).haOpen f p.slot (haSecret f p), stOk,
      leBytes 16 (confirmTag (haSecret f p) p.th 2 "KX3-HOST-KC").toNat) := by
  rw [haFinishDo, hp]
  exact if_pos h

theorem haFinishDo_of_not_held (h : ¬ s.haHolds f p id sig kc) :
    s.haFinishDo f id sig kc = (s.unpended f, stFormation, []) := by
  rw [haFinishDo, hp]
  exact if_neg h

end

/-- A session that opens holds its secret and the first staging key of both directions (Table 16-4 step 4). -/
theorem haOpen_left {s : State} {f : Fn} {d : Slot} {sss : Bytes} (h : (s.row (rowSss f)).outOfUse = false)
    (h0 : (s.row (rowStage f 0)).outOfUse = false) (h1 : (s.row (rowStage f 1)).outOfUse = false) :
    let u := s.haOpen f d sss
    u.sessOf f = { opened := true, slot := d } ∧ (u.row (rowSss f)).valid = true ∧
      (u.row (rowSss f)).material = (leBv 256 sss).setWidth 288 ∧
      ∀ dir : Nat, dir < 2 → (u.row (rowStage f dir)).valid = true ∧ (u.row (rowStage f dir)).gen = 1 ∧
        (u.row (rowStage f dir)).material = u.stageKey f dir 1 := by
  intro u
  have hne (i : Nat) : rowSss f ≠ rowStage f i := fun hi => by unfold rowStage rowSss at hi; omega
  have hne' : rowStage f 0 ≠ rowStage f 1 := fun hi => by unfold rowStage at hi; omega
  let a := (s.modSess f fun _ => { opened := true, slot := d }).writeKey (rowSss f) ((leBv 256 sss).setWidth 288)
    (.row (BitVec.ofNat 12 (rowMember d))) 0 d 0
  let b := a.installStageKey f 0 1
  have hsess : u.sessOf f = { opened := true, slot := d } := by
    have hfe : u.fe = (s.modSess f fun _ => { opened := true, slot := d }).fe :=
      (installStageKey_fe b f 1 1).trans ((installStageKey_fe a f 0 1).trans
        ((writeKey_keeps (K := 0x000040) (Keeps.refl _ _) (by decide)).fe.resolve_left (by decide)))
    rw [sessOf, func, hfe]
    exact congrArg Func.sess (modFunc_func_same s f _)
  have hinstall (v : State) (i : Nat) (ho : (v.row (rowStage f i)).outOfUse = false) :
      ((v.installStageKey f i 1).row (rowStage f i)).valid = true ∧ ((v.installStageKey f i 1).row (rowStage f i)).gen = 1 ∧
        ((v.installStageKey f i 1).row (rowStage f i)).material = v.stageKey f i 1 := by
    rw [installStageKey, writeKey_row_same ho]
    exact ⟨rfl, rfl, rfl⟩
  have hother (v : State) (i : Nat) {y : Nat} (hy : y ≠ rowStage f i) : (v.installStageKey f i 1).row y = v.row y :=
    writeKey_row_ne v hy _ _ _ _ _
  have hsss : u.row (rowSss f) = a.row (rowSss f) := (hother b 1 (hne 1)).trans (hother a 0 (hne 0))
  have ha : a.row (rowSss f) = _ := writeKey_row_same (s := s.modSess f fun _ => { opened := true, slot := d }) h _ _ _ _ _
  have hkey {v : State} (hv : v.row (rowSss f) = u.row (rowSss f)) (i : Nat) : v.stageKey f i 1 = u.stageKey f i 1 := by
    rw [stageKey, stageKey, keyBytes, keyBytes, hv]
  have ho0 : (a.row (rowStage f 0)).outOfUse = false := by rw [writeKey_row_ne _ (hne 0).symm]; exact h0
  have ho1 : (b.row (rowStage f 1)).outOfUse = false := by
    rw [hother a 0 hne'.symm, writeKey_row_ne _ (hne 1).symm]
    exact h1
  refine ⟨hsess, by rw [hsss, ha], by rw [hsss, ha], fun dir hdir => ?_⟩
  obtain rfl | rfl : dir = 0 ∨ dir = 1 := by omega
  · obtain ⟨hv, hg, hm⟩ := hinstall a 0 ho0
    have hrow : u.row (rowStage f 0) = b.row (rowStage f 0) := hother b 1 hne'
    rw [hrow]
    exact ⟨hv, hg, hm.trans (hkey hsss.symm 0)⟩
  · obtain ⟨hv, hg, hm⟩ := hinstall b 1 ho1
    exact ⟨hv, hg, hm.trans (hkey (hother b 1 (hne 1)).symm 1)⟩

/-! ### HA_CLOSE -/

theorem sessEnd_left (s : State) (f : Fn) : (s.sessEnd f).sessOf f = { pend := (s.sessOf f).pend } ∧
    ((s.sessEnd f).row (rowSss f)).valid = false ∧ ((s.sessEnd f).row (rowSss f)).material = 0 := by
  have hid : (BitVec.ofNat 12 (rowSss f)).toNat = rowSss f := by
    unfold rowSss
    rw [BitVec.toNat_ofNat]
    omega
  have hblank : (s.keyInvalidateRow (rowSss f)).row (rowSss f) = blankRow (s.row (rowSss f)) := by
    have hself := keyInvalidateRow_self s (BitVec.ofNat 12 (rowSss f))
    rwa [hid] at hself
  have hne (i : Nat) : rowSss f ≠ rowStage f i := fun hi => by unfold rowStage rowSss at hi; omega
  let a := ((s.keyInvalidateRow (rowSss f)).eraseRow (rowStage f 0)).eraseRow (rowStage f 1)
  have ha : a.row (rowSss f) = blankRow (s.row (rowSss f)) :=
    (setRow_row_ne _ _ _ _ (hne 1)).trans ((setRow_row_ne _ _ _ _ (hne 0)).trans hblank)
  have hkeys : Keeps 0x002000 a (s.sessEnd f) := by
    unfold sessEnd modSess
    dsimp only
    refine modFunc_keeps ?_ (by decide)
    cases (s.sessOf f).rekeyIn with
    | none => cases (s.sessOf f).rekeyOut with
      | none => exact Keeps.refl _ _
      | some r => exact cmdResult_keeps (Keeps.refl _ _) (by decide)
    | some r => cases (s.sessOf f).rekeyOut with
      | none => exact cmdResult_keeps (Keeps.refl _ _) (by decide)
      | some q => exact cmdResult_keeps (cmdResult_keeps (Keeps.refl _ _) (by decide)) (by decide)
  have hrow : (s.sessEnd f).row (rowSss f) = blankRow (s.row (rowSss f)) :=
    (row_of_keys (hkeys.keys.resolve_left (by decide)) _).trans ha
  exact ⟨congrArg Func.sess (modFunc_func_same _ f _), by rw [hrow]; rfl, by rw [hrow]; rfl⟩

end State

open State in
/-- Settles O50: the pending agreement and its end by what holds of it, and the end of the session. -/
theorem hostAgreement : Obligations.HostAgreement := by
  unfold Obligations.HostAgreement
  intro s h
  refine ⟨fun m n hready => ?_, fun m n hready hn => ?_, fun id sig kc hready => ⟨fun hp => ?_, fun p hp => ?_⟩,
    fun f hr => ?_, fun f hr => exec_next rfl (if_neg (by rw [hr]; decide)), fun hready => ⟨fun ho => ?_, fun ho => ?_⟩⟩
  · cases hr : s.haRefusal h m with
    | none =>
      obtain ⟨u, b, hact, hctr, p, hpend, hid, hslot, hth, hsince⟩ := haHelloDo_of_taken hr
      exact ⟨u, stOk, b, exec_next rfl (mbxRun_of_act hready nofun nofun hact), nofun,
        fun _ => ⟨rfl, p, hpend, hid, hslot, hth, hsince, hctr⟩⟩
    | some r =>
      exact ⟨s, r, [], exec_next rfl (mbxRun_of_act hready nofun nofun (haHelloDo_of_refused hr)),
        fun r' hr' => ⟨rfl, Option.some.inj hr', rfl⟩, nofun⟩
  · obtain ⟨-, -, hbody, -⟩ := id hready
    have hlen : h.bodyLen ≠ 9177 := by rw [hbody]; exact hn
    exact exec_next rfl (mbxRun_of_act hready nofun nofun (haHelloDo_of_refused (haRefusal_of_length hlen)))
  · exact exec_next rfl (mbxRun_of_act hready nofun (fun _ hk => (Option.some.inj hk).symm) (haFinishDo_of_none hp))
  · intro sss holds
    by_cases hh : s.haHolds h.fn p id sig kc
    · refine ⟨_, _, _, exec_next rfl (mbxRun_of_act hready nofun (fun _ hk => (Option.some.inj hk).symm) (haFinishDo_of_held hp hh)),
        fun hn => absurd hh hn, fun _ hrow h0 h1 => ⟨rfl, rfl, haOpen_left (s := s.unpended h.fn) hrow h0 h1⟩⟩
    · refine ⟨_, _, _, exec_next rfl (mbxRun_of_act hready nofun (fun _ hk => (Option.some.inj hk).symm) (haFinishDo_of_not_held hp hh)),
        fun _ => ⟨rfl, rfl, congrArg (·.sess.pend) (modFunc_func_same _ _ _), rfl⟩, fun h' => absurd h' hh⟩
  · exact ⟨_, exec_next rfl (if_pos hr), rfl, congrArg Func.sess (modFunc_func_same _ _ _)⟩
  · refine exec_next rfl (congrArg State.settleAll (mbxRun_of_act hready nofun (fun _ hk => (Option.some.inj hk).symm) ?_))
    rw [haCloseDo, ho]
    rfl
  · obtain ⟨hsess, hvalid, hmaterial⟩ := s.sessEnd_left h.fn
    have hacted := (s.sessEnd h.fn).memPump_acted
    obtain ⟨n, huse⟩ := (s.sessEnd h.fn).memPump_useOnly (rowSss h.fn)
    have hs : (s.sessEnd h.fn).memPump.sessOf h.fn = { pend := (s.sessOf h.fn).pend } := by
      rw [sessOf, hacted.func, ← sessOf, hsess]
    refine ⟨(s.sessEnd h.fn).memPump, exec_next rfl (congrArg State.settleAll (mbxRun_of_act hready nofun (fun _ hk => (Option.some.inj hk).symm) ?_)),
      by rw [hs], by rw [hs], by rw [huse]; exact hvalid, by rw [huse]; exact hmaterial⟩
    rw [haCloseDo, ho]
    rfl

end Sys2Proof.Machine
end

section
/-! PROOFS. Declarations, census, count state, the verifier's vote and epochs (O53). -/

namespace Sys2Proof.Machine

namespace State

/-! ### A command of a trust domain that passes every check -/

section
variable {s u : State} {h : MbxHdr} {n : Nat} {code : BitVec 16} {st : Status} (hready : s.mbxReady h n) (hf : h.fn = 0)
  (hgate : s.joinGate = none)
include hready hf hgate

theorem domCmd_of_act {want : Option Nat} (hw : ∀ k, want = some k → k = n) {act : State → MbxAnswer} {b : Bytes}
    (hact : act s = (u, st, b)) : s.domCmd h code want act = u.mbxReply h code st b := by
  refine mbxRun_of_act hready (fun _ => hf) hw ?_
  rw [domGate, hgate]
  exact hact

theorem domCmd0_of_act {act : State → State × Status} (hact : act s = (u, st)) :
    s.domCmd0 h code n act = u.mbxReply h code st [] :=
  domCmd_of_act hready hf hgate (fun _ hk => (Option.some.inj hk).symm) (by rw [hact])

theorem domCmdBody_of_act {act : State → State × Status} (hact : act s = (u, st)) :
    s.domCmdBody h code n act = u.mbxReply h code st [] := by
  obtain ⟨-, -, hbody, -⟩ := id hready
  exact domCmd_of_act (want := none) hready hf hgate nofun (by rw [if_pos hbody, hact])

end

/-! ### Declarations (R371, R381, R382) -/

section
variable {s : State} {d : Slot} {l : LinkId} {x : Decl}

/-- A declaration names this instance itself. -/
def ownDecl (s : State) (d : Slot) (x : Decl) : Prop :=
  ((s.dom d).phase ≠ .free ∨ (s.dom d).ticket.isSome = true) ∧ (s.dom d).member = x.partner

theorem ownDecl_iff : (((s.dom d).phase != .free || (s.dom d).ticket.isSome) && x.partner == (s.dom d).member) = true ↔
    s.ownDecl d x := by
  rw [Bool.and_eq_true, Bool.or_eq_true, bne_iff_ne, beq_iff_eq, eq_comm (a := x.partner)]
  rfl

theorem declareDo_of_refused (h : s.linkInSlot l d = false ∨ s.censusOf d x.partner = 3 ∨ s.ownDecl d x) :
    s.declareDo d l x = (s, stRoster) := by
  refine if_pos ?_
  rw [Bool.or_eq_true, Bool.or_eq_true, beq_iff_eq, ownDecl_iff, Bool.not_eq_true', or_assoc]
  exact h

/-- A slot with one more declaration. -/
def withDecl (s : State) (d : Slot) (l : LinkId) (x : Decl) : State :=
  s.modDom d fun v => { v with decls := Tab.set none v.decls l.toNat (some x) }

theorem declareDo_of_allowed (hl : s.linkInSlot l d = true) (hc : s.censusOf d x.partner ≠ 3) (ho : ¬ s.ownDecl d x) :
    s.declareDo d l x = (((s.withDecl d l x).rosterChange d).agreeStart l, stOk) := by
  refine if_neg ?_
  rw [Bool.or_eq_true, Bool.or_eq_true, beq_iff_eq, ownDecl_iff, Bool.not_eq_true', or_assoc]
  rintro (h | h | h)
  · rw [hl] at h
    cases h
  · exact hc h
  · exact ho h

theorem rosterChange_of_free (h : (s.dom d).phase = .free) : s.rosterChange d = s :=
  if_neg (by rw [h]; decide)

theorem agreeStart_of_down (h : (s.link l).core.up = false) : s.agreeStart l = s := by
  unfold agreeStart
  split
  · rfl
  · exact if_pos (by rw [h, Bool.not_false, Bool.or_true, Bool.true_or, Bool.true_or, Bool.true_or, Bool.true_or])

theorem memberField_of_wide {m : BitVec 32} (h : 2 ^ 20 ≤ m.toNat) : memberField m = none := if_neg (Nat.not_lt.mpr h)

theorem memberField_of_fits {m : BitVec 32} (h : m.toNat < 2 ^ 20) : memberField m = some (m.setWidth 20) := if_pos h

section
variable {lb pl : Byte} {m : BitVec 32}

theorem linkDeclareDo_of_form (h : 2 ^ 20 ≤ m.toNat ∨ 64 ≤ lb.toNat ∨ 64 ≤ pl.toNat) :
    s.linkDeclareDo d lb pl m = (s, stReserved) := by
  unfold linkDeclareDo
  by_cases hm : m.toNat < 2 ^ 20
  · rw [memberField_of_fits hm]
    exact if_pos (h.resolve_left (Nat.not_le.mpr hm))
  · rw [memberField_of_wide (Nat.not_lt.mp hm)]

theorem linkDeclareDo_of_fits (hm : m.toNat < 2 ^ 20) (hl : lb.toNat < 64) (hp : pl.toNat < 64) :
    s.linkDeclareDo d lb pl m = s.declareDo d (lb.setWidth 6) { partner := m.setWidth 20, link := pl.setWidth 6 } := by
  unfold linkDeclareDo
  rw [memberField_of_fits hm]
  exact if_neg fun h => h.elim (fun h => absurd hl (Nat.not_lt.mpr h)) fun h => absurd hp (Nat.not_lt.mpr h)

end

section
variable {node : BitVec 32} {port : LinkId}

/-- A row of an older fabric's table that is a declaration (R382). -/
def z2Listed (s : State) (d : Slot) (m : Member) : Prop :=
  recCompat (s.dom d).record = 1 ∧ (hallOf m).toNat < recHallCount (s.dom d).record ∧ s.censusOf d m ≠ 3

theorem z2Listed_iff {m : Member} :
    (recCompat (s.dom d).record = 1 ∧ (decide ((hallOf m).toNat < recHallCount (s.dom d).record) && s.censusOf d m != 3) = true) ↔
      s.z2Listed d m := by
  rw [Bool.and_eq_true, decide_eq_true_iff, bne_iff_ne]
  rfl

theorem z2Do_of_unlisted (h : ¬ s.z2Listed d (node.setWidth 20)) :
    s.z2Do d l node port = (s, stOk, [z2State (s.link l).core.phase, 0, 0, 0]) := by
  unfold z2Do
  dsimp only
  rw [if_neg (fun hc => h (z2Listed_iff.mp hc))]
  exact congrArg (s, stOk, ·) (if_pos rfl)

theorem z2Do_of_listed (h : s.z2Listed d (node.setWidth 20)) {r : State × Status}
    (hr : s.declareDo d l { partner := node.setWidth 20, link := port } = r) :
    s.z2Do d l node port = (r.1, r.2, if r.2 = stOk then [z2State (r.1.link l).core.phase, 0, 0, 0] else []) := by
  unfold z2Do
  dsimp only
  rw [if_pos (z2Listed_iff.mpr h), hr]

end

end

/-! ### Census and count state (R378, R388) -/

section
variable {s : State} {d : Slot} {x : Byte}

theorem censusGetDo_of_other (h : 8 ≤ x.toNat ∨ ¬ (s.inDomain d = true ∧ s.managesHall d (x.setWidth 3) = true)) :
    s.censusGetDo d x = (s, stNoTarget, []) := by
  refine if_pos (h.imp_right fun h => ?_)
  rw [Bool.not_eq_true', Bool.not_eq_true']
  exact (not_and_or.mp h).imp (Bool.eq_false_iff.mpr) (Bool.eq_false_iff.mpr)

theorem censusGetDo_of_mine (hx : x.toNat < 8) (h : s.inDomain d = true ∧ s.managesHall d (x.setWidth 3) = true) :
    s.censusGetDo d x = if !s.aliasUsable then (s, stKeyOrphan, []) else
      (s.censusIssue d (x.setWidth 3), stOk, Tab.get [] ((s.censusIssue d (x.setWidth 3)).dom d).mgr.latest (x.setWidth 3).toNat) := by
  refine if_neg fun hc => ?_
  rw [h.1, h.2] at hc
  rcases hc with hc | hc | hc
  · exact absurd hx (Nat.not_lt.mpr hc)
  · cases hc
  · cases hc

theorem censusIssue_latest (s : State) (d : Slot) (h : BitVec 3) :
    let u := s.modDom d fun k => { k with mgr := { k.mgr with censusSeq := k.mgr.censusSeq + 1 } }
    Tab.get [] ((s.censusIssue d h).dom d).mgr.latest h.toNat = u.censusBytes d h := by
  intro u
  unfold censusIssue
  dsimp only
  rw [modDom_dom_same]
  dsimp only
  rw [Tab.get_set_same]

theorem countStateDo_of_other (h : (s.dom d).mgr.count = none ∨ s.isCounter d = false) :
    s.countStateDo d = (s, stNoTarget, []) := by
  unfold countStateDo
  split
  · rfl
  · next c hc =>
    rcases h with h | h
    · rw [hc] at h
      cases h
    · exact if_pos (by rw [h]; rfl)

theorem countStateDo_of_counter {c : CountRun} (hc : (s.dom d).mgr.count = some c) (h : s.isCounter d = true) :
    s.countStateDo d = if !s.aliasUsable then (s, stKeyOrphan, []) else
      (s, stOk, s.countState d c ++ leBytes 2 s.boot.certPair.length ++ s.boot.certPair ++ (s.dom d).token) := by
  unfold countStateDo
  rw [hc]
  exact if_neg (by rw [h]; decide)

end

/-! ### The verifier's vote (R388) -/

section
variable {s : State} {d : Slot} {b : Bytes}

/-- The form of a statement of the verifier: its magic, its version, and the bytes of 0. -/
def statementForm (b : Bytes) (magic zeroFrom : Nat) : Prop :=
  leAt b 0 4 = magic ∧ leAt b 4 2 = 1 ∧ zeroAt b 6 2 = true ∧ zeroAt b zeroFrom 4 = true

theorem statementForm_iff {magic z : Nat} :
    ¬ (leAt b 0 4 ≠ magic ∨ leAt b 4 2 ≠ 1 ∨ (!zeroAt b 6 2) = true ∨ (!zeroAt b z 4) = true) ↔ statementForm b magic z := by
  rw [not_or, not_or, not_or, not_not, not_not, Bool.not_eq_true', Bool.not_eq_true', Bool.not_eq_false, Bool.not_eq_false]
  rfl

theorem voteDo_of_form (h : ¬ statementForm b 0x5656584B 32) : s.voteDo b = (s, stDomainRecord) :=
  if_pos (not_not.mp fun hc => h (statementForm_iff.mp hc))

variable (hf : statementForm b 0x5656584B 32)
include hf

theorem voteDo_of_no_slot (h : s.slotOfDomain (slice b 8 16) = none) : s.voteDo b = (s, stNoTarget) := by
  refine (if_neg (statementForm_iff.mpr hf)).trans ?_
  rw [h]

variable (hd : s.slotOfDomain (slice b 8 16) = some d)
include hd

/-- The vote is of this member and signed by the record's verifier. -/
def voteGood (s : State) (d : Slot) (b : Bytes) : Prop :=
  leAt b 28 4 = (s.dom d).member.toNat ∧ sigOk (recVerifierKeys (s.dom d).record) "KX3-VOTE" (b.take 36) (b.drop 36) = true

theorem voteDo_of_bad (h : ¬ s.voteGood d b) : s.voteDo b = (s, stDomainRecord) := by
  refine (if_neg (statementForm_iff.mpr hf)).trans ?_
  rw [hd]
  refine if_pos ?_
  rw [Bool.not_eq_true']
  exact (not_and_or.mp h).imp_right Bool.eq_false_iff.mpr

/-- What a good vote does. -/
def voteTaken (s : State) (d : Slot) (b : Bytes) : State × Status :=
  match (s.dom d).mgr.count with
  | none => (s, stIteration)
  | some c =>
    if leAt b 24 4 ≠ c.round.toNat then (s, stIteration)
    else
      let c := { c with verifier := true }
      let n := recHallCount (s.dom d).record
      if quorumOf n ≤ votesHeld c.halls true n then (s.countEnd d c, stOk)
      else (s.modDom d fun k => { k with verifier := true, votes := BitVec.ofNat 4 (votesHeld c.halls true n)
                                         mgr := { k.mgr with count := some c } }, stOk)

theorem voteDo_of_good (h : s.voteGood d b) : s.voteDo b = s.voteTaken d b := by
  refine (if_neg (statementForm_iff.mpr hf)).trans ?_
  rw [hd]
  refine (if_neg fun hc => ?_).trans rfl
  rw [h.2] at hc
  exact hc.elim (fun hc => hc h.1) (fun hc => by cases hc)

omit hf hd

theorem voteTaken_of_none (h : (s.dom d).mgr.count = none) : s.voteTaken d b = (s, stIteration) := by
  rw [voteTaken, h]

section
variable {c : CountRun} (hc : (s.dom d).mgr.count = some c)
include hc

theorem voteTaken_of_round (h : leAt b 24 4 ≠ c.round.toNat) : s.voteTaken d b = (s, stIteration) := by
  rw [voteTaken, hc]
  exact if_pos h

variable (h : leAt b 24 4 = c.round.toNat)
include h

theorem voteTaken_of_quorum (hq : quorumOf (recHallCount (s.dom d).record) ≤ votesHeld c.halls true (recHallCount (s.dom d).record)) :
    s.voteTaken d b = (s.countEnd d { c with verifier := true }, stOk) := by
  rw [voteTaken, hc]
  exact (if_neg (not_not.mpr h)).trans (if_pos hq)

theorem voteTaken_of_short (hq : votesHeld c.halls true (recHallCount (s.dom d).record) < quorumOf (recHallCount (s.dom d).record)) :
    s.voteTaken d b = (s.modDom d fun k => { k with
      verifier := true, votes := BitVec.ofNat 4 (votesHeld c.halls true (recHallCount (s.dom d).record))
      mgr := { k.mgr with count := some { c with verifier := true } } }, stOk) := by
  rw [voteTaken, hc]
  exact (if_neg (not_not.mpr h)).trans (if_neg (Nat.not_le.mpr hq))

end

end

/-! ### The epoch (R393) -/

section
variable {s : State} {d : Slot} {b : Bytes}

theorem epochDo_of_form (h : ¬ statementForm b 0x4145584B 28) : s.epochDo b = (s, stDomainRecord) :=
  if_pos (not_not.mp fun hc => h (statementForm_iff.mp hc))

variable (hf : statementForm b 0x4145584B 28)
include hf

theorem epochDo_of_no_slot (h : s.slotOfDomain (slice b 8 16) = none) : s.epochDo b = (s, stNoTarget) := by
  refine (if_neg (statementForm_iff.mpr hf)).trans ?_
  rw [h]

/-- The checks of an epoch advance in the slot of its domain, in their order. -/
def epochAt (s : State) (d : Slot) (b : Bytes) : State × Status :=
  let k := s.dom d
  if !sigOk (recVerifierKeys k.record) "KX3-EPOCH" (b.take 32) (b.drop 32) then (s, stDomainRecord)
  else if k.phase = .fragment then (s, stFragment)
  else if !k.activeSm then (s, stNoManager)
  else if leAt b 24 4 ≠ k.epoch.toNat then (s, stIteration)
  else if k.epoch = 0xFFFFFFFF then (s, stEpochLimit)
  else if !s.keyUsable (rowDrs d) || !s.aliasUsable then (s, stKeyOrphan)
  else (s.advance d, stOk)

theorem epochDo_of_slot (h : s.slotOfDomain (slice b 8 16) = some d) : s.epochDo b = s.epochAt d b := by
  refine (if_neg (statementForm_iff.mpr hf)).trans ?_
  rw [h]
  rfl

omit hf

theorem epochAt_of_bad (h : sigOk (recVerifierKeys (s.dom d).record) "KX3-EPOCH" (b.take 32) (b.drop 32) = false) :
    s.epochAt d b = (s, stDomainRecord) := if_pos (by rw [h]; rfl)

variable (hg : sigOk (recVerifierKeys (s.dom d).record) "KX3-EPOCH" (b.take 32) (b.drop 32) = true)
include hg

theorem epochAt_of_fragment (h : (s.dom d).phase = .fragment) : s.epochAt d b = (s, stFragment) :=
  (if_neg (by rw [hg]; decide)).trans (if_pos h)

variable (hp : (s.dom d).phase ≠ .fragment)
include hp

theorem epochAt_of_no_manager (h : (s.dom d).activeSm = false) : s.epochAt d b = (s, stNoManager) :=
  (if_neg (by rw [hg]; decide)).trans ((if_neg hp).trans (if_pos (by rw [h]; rfl)))

variable (hm : (s.dom d).activeSm = true)
include hm

/-- At the manager of a domain that is whole the checks are those of the epoch and of the keys. -/
theorem epochAt_of_manager : s.epochAt d b =
    if leAt b 24 4 ≠ (s.dom d).epoch.toNat then (s, stIteration)
    else if (s.dom d).epoch = 0xFFFFFFFF then (s, stEpochLimit)
    else if !s.keyUsable (rowDrs d) || !s.aliasUsable then (s, stKeyOrphan)
    else (s.advance d, stOk) :=
  (if_neg (by rw [hg]; decide)).trans ((if_neg hp).trans (if_neg (by rw [hm]; decide)))

end

section
variable {s : State} {d : Slot} {e : BitVec 32}

theorem opEpochNotice_of_idle (h : s.inDomain d = false ∨ e ≤ (s.dom d).epoch) : s.opEpochNotice d e = s := by
  refine if_pos ?_
  rw [Bool.or_eq_true, Bool.not_eq_true', decide_eq_true_iff]
  exact h

/-- The record of a member that a newer epoch makes pending. -/
def pendingMember (k : Dom) (e : BitVec 32) : Dom :=
  { k with phase := .joining, epoch := e, token := [], keyList := [], activeSm := false, activeHm := false, join := none
           rejoinEnds := none, time := { k.time with synced := false }, mgr := {} }

theorem opEpochNotice_of_newer (hd : s.inDomain d = true) (h : (s.dom d).epoch < e) : ∃ k : Dom,
    (s.opEpochNotice d e).dom d = { pendingMember k e with event := setBitTo k.event domEpoch true } := by
  have hcond : ¬ (!s.inDomain d || decide (e ≤ (s.dom d).epoch)) = true := by
    rw [hd, Bool.not_true, Bool.false_or, decide_eq_true_iff]
    exact BitVec.not_le.mpr h
  unfold opEpochNotice
  dsimp only
  rw [if_neg hcond]
  generalize (if (s.dom d).dcsEpoch < e then _ else _ : State) = u
  refine ⟨u.dom d, ?_⟩
  have hdoms (v : State) : (v.timeMark d).reissueCert.doms = v.doms :=
    (reissueCert_keeps (K := 0x100008) (timeMark_keeps (Keeps.refl _ v) (by decide)) (by decide)).doms.resolve_left (by decide)
  rw [dom, hdoms, ← dom, domEvent, modDom_dom_same, modDom_dom_same]
  rfl

end

end State

open State in
/-- Settles O53: each command by its checks in their order, and the notice of a newer epoch. -/
theorem declarationsAndEpoch : Obligations.DeclarationsAndEpoch := by
  unfold Obligations.DeclarationsAndEpoch
  intro s h d
  refine ⟨fun hf hgate => ⟨fun l pl m hready => ?_, fun l port node n hready => ?_, fun x hready => ?_, fun hready => ?_,
    fun b hready => ?_, fun b hready => ?_⟩, fun e he => exec_next rfl (congrArg State.settleAll (opEpochNotice_of_idle he)),
    fun e hd he => ?_⟩
  · intro x k own
    have hends {u : State} {st : Status} (hact : s.linkDeclareDo d l pl m = (u, st)) :
        exec (.linkDeclare h d l pl m) s = .next (u.mbxReply h 0x0033 st []) :=
      exec_next rfl (domCmd0_of_act hready hf hgate hact)
    refine ⟨fun hform => hends (linkDeclareDo_of_form hform), fun hm hl hp => ⟨fun hr => ?_, fun hlink hcen hown => ?_⟩⟩
    · exact hends ((linkDeclareDo_of_fits hm hl hp).trans (declareDo_of_refused hr))
    · intro u
      have hact := (linkDeclareDo_of_fits hm hl hp).trans (declareDo_of_allowed (x := x) hlink hcen hown)
      refine ⟨hends hact, fun hfree hdown => hends (hact.trans ?_)⟩
      rw [rosterChange_of_free (by rw [withDecl, modDom_dom_same]; exact hfree), agreeStart_of_down (by exact hdown)]
      rfl
  · intro me listed r
    have hends {u : State} {st : Status} {y : Bytes} (hact : s.z2Do d l node port = (u, st, y)) :
        exec (.z2TableRow h d l node port) s = .next (u.mbxReply h 0x0039 st y) :=
      exec_next rfl (domCmd_of_act (want := none) hready hf hgate nofun hact)
    refine ⟨fun hn => hends (z2Do_of_unlisted hn), fun hl hr => hends ((z2Do_of_listed hl rfl).trans ?_),
      fun hl hlink => hends ((z2Do_of_listed hl (declareDo_of_refused (.inl hlink))).trans rfl)⟩
    rw [show (s.declareDo d l { partner := node.setWidth 20, link := port }).2 = stOk from hr, if_pos rfl]
  · intro mine
    have hends {u : State} {st : Status} {y : Bytes} (hact : s.censusGetDo d x = (u, st, y)) :
        exec (.censusGet h d x) s = .next (u.mbxReply h 0x0035 st y) :=
      exec_next rfl (domCmd_of_act hready hf hgate (fun _ hk => (Option.some.inj hk).symm) hact)
    refine ⟨fun hx => hends (censusGetDo_of_other hx), fun hx hmine ha => hends ((censusGetDo_of_mine hx hmine).trans (if_pos (by rw [ha]; rfl))),
      fun hx hmine ha => hends ((censusGetDo_of_mine hx hmine).trans ((if_neg (by rw [ha]; decide)).trans ?_))⟩
    rw [censusIssue_latest]
    rfl
  · have hends {u : State} {st : Status} {y : Bytes} (hact : s.countStateDo d = (u, st, y)) :
        exec (.countStateGet h d) s = .next (u.mbxReply h 0x0036 st y) :=
      exec_next rfl (domCmd_of_act hready hf hgate (fun _ hk => (Option.some.inj hk).symm) hact)
    exact ⟨fun hn => hends (countStateDo_of_other hn), fun c hc hcounter =>
      ⟨fun ha => hends ((countStateDo_of_counter hc hcounter).trans (if_pos (by rw [ha]; rfl))),
        fun ha => hends ((countStateDo_of_counter hc hcounter).trans (if_neg (by rw [ha]; decide)))⟩⟩
  · intro form ends
    have hends {u : State} {st : Status} (hact : s.voteDo b = (u, st)) : ends u st :=
      exec_next rfl (congrArg State.settleAll (domCmdBody_of_act hready hf hgate hact))
    refine ⟨fun hn => hends (voteDo_of_form hn), fun hform hno => hends (voteDo_of_no_slot hform hno), fun hform hd => ?_⟩
    intro good n
    have hgood (hg : s.voteGood d b) := voteDo_of_good hform hd hg
    refine ⟨fun hb => hends (voteDo_of_bad hform hd hb), fun hg hn => hends ((hgood hg).trans (voteTaken_of_none hn)),
      fun c hg hc => ⟨fun hr => hends ((hgood hg).trans (voteTaken_of_round hc hr)),
        fun hr hq => hends ((hgood hg).trans (voteTaken_of_quorum hc hr hq)),
        fun hr hq => ⟨_, hends ((hgood hg).trans (voteTaken_of_short hc hr hq)), ?_⟩⟩⟩
    rw [modDom_dom_same]
    exact ⟨rfl, rfl, rfl⟩
  · intro form ends
    have hends {u : State} {st : Status} (hact : s.epochDo b = (u, st)) : ends u st :=
      exec_next rfl (congrArg State.settleAll (domCmdBody_of_act hready hf hgate hact))
    refine ⟨fun hn => hends (epochDo_of_form hn), fun hform hno => hends (epochDo_of_no_slot hform hno), fun hform hd => ?_⟩
    intro good k
    have hslot := epochDo_of_slot hform hd
    refine ⟨fun hg => hends (hslot.trans (epochAt_of_bad hg)), fun hg hp => hends (hslot.trans (epochAt_of_fragment hg hp)),
      fun hg hp => ⟨fun hm => hends (hslot.trans (epochAt_of_no_manager hg hp hm)), fun hm hr => ?_, fun hm hr he => ?_,
        fun hm hr he hkeys => ?_, fun hm hr he hdrs ha => ?_⟩⟩
    · exact hends (hslot.trans ((epochAt_of_manager hg hp hm).trans (if_pos hr)))
    · exact hends (hslot.trans ((epochAt_of_manager hg hp hm).trans ((if_neg (not_not.mpr hr)).trans (if_pos he))))
    · refine hends (hslot.trans ((epochAt_of_manager hg hp hm).trans ((if_neg (not_not.mpr hr)).trans ((if_neg he).trans (if_pos ?_)))))
      rw [Bool.or_eq_true, Bool.not_eq_true', Bool.not_eq_true']
      exact hkeys
    · refine hends (hslot.trans ((epochAt_of_manager hg hp hm).trans ((if_neg (not_not.mpr hr)).trans ((if_neg he).trans (if_neg ?_)))))
      rw [hdrs, ha]
      decide
  · obtain ⟨k, hk⟩ := opEpochNotice_of_newer hd he
    refine ⟨_, exec_next rfl rfl, ?_⟩
    rw [hk]
    exact ⟨rfl, rfl, rfl, rfl, rfl, rfl, rfl, rfl, (getLsbD_setBitTo _ true (by decide) _).trans (if_pos rfl)⟩

end Sys2Proof.Machine
end

section
/-! PROOFS. A departure while confirmations are awaited (O54). -/

namespace Sys2Proof.Machine

/-- A Hall Manager that awaits two confirmations of a roster row, one of them of candidate 0. -/
def awaitsConfirmations : State :=
  { sys := { phase := .running, refclk := true }
    doms := [(0, { phase := .member, activeHm := true, member := 1
                   mgr := { acks := [{ member := 5, version := 1, waits := [0, 9] }] } })] }

/-- The confirmations that slot 0 awaits after a step. -/
def awaitedAfter : Host.Outcome State Fault Refusal → List (List Member)
  | .next t => (t.dom 0).mgr.acks.map (·.waits)
  | _ => []

/-- A candidate that departs is awaited no longer. -/
theorem awaitedAfter_depart : awaitedAfter (exec (.depart 0 0) awaitsConfirmations) = [[9]] := by decide +kernel

/-- Refutes O54: after the departure of a candidate its confirmations are awaited no longer (R380), where the statement leaves
the confirmations awaited as they were. -/
theorem not_theParse : ¬ Obligations.TheParse := by
  unfold Obligations.TheParse
  intro h
  obtain ⟨-, -, -, -, members, -⟩ := h awaitsConfirmations 0
  obtain ⟨-, -, -, departs, -⟩ := members 0
  obtain ⟨-, departed⟩ := departs (by decide +kernel) (by decide +kernel)
  have ends := departed (.inl (by decide +kernel))
  have awaited := congrArg awaitedAfter ends
  rw [awaitedAfter_depart] at awaited
  revert awaited
  decide +kernel

end Sys2Proof.Machine
end

section
/-! PROOFS. The loss of a candidate while confirmations are awaited (O55). -/

namespace Sys2Proof.Machine

/-- A candidate whose contact is lost is awaited no longer. -/
theorem awaitedAfter_contactLoss : awaitedAfter (exec (.mgrContactLoss 0 0) awaitsConfirmations) = [[9]] := by decide +kernel

/-- Refutes O55: a candidate whose contact is lost is awaited no longer (R365, R380), where the statement leaves the
confirmations awaited as they were. -/
theorem not_managerPulses : ¬ Obligations.ManagerPulses := by
  unfold Obligations.ManagerPulses
  intro h
  obtain ⟨-, inside, -⟩ := h awaitsConfirmations 0 0
  obtain ⟨-, -, -, -, lost, -⟩ := inside (by decide +kernel)
  have awaited := congrArg awaitedAfter lost
  rw [awaitedAfter_contactLoss] at awaited
  revert awaited
  decide +kernel

end Sys2Proof.Machine
end

section
/-! PROOFS. The Roster and the census at the managers (O56). -/

namespace Sys2Proof.Machine

namespace State

/-- A step within the links and the domains. -/
theorem eq_of_keeps_links_doms {s t : State} (h : Keeps 0x000600 s t) : t = { s with links := t.links, doms := t.doms } := by
  have hsys := h.sys.resolve_left (by decide)
  have hglb := h.glb.resolve_left (by decide)
  have hclk := h.clk.resolve_left (by decide)
  have hboot := h.boot.resolve_left (by decide)
  have hlcd := h.lcd.resolve_left (by decide)
  have hotp := h.otp.resolve_left (by decide)
  have hkeys := h.keys.resolve_left (by decide)
  have hlanes := h.lanes.resolve_left (by decide)
  have hmem := h.mem.resolve_left (by decide)
  have hflood := h.flood.resolve_left (by decide)
  have hfab := h.fab.resolve_left (by decide)
  have hfe := h.fe.resolve_left (by decide)
  have hvd := h.vd.resolve_left (by decide)
  have hred := h.red.resolve_left (by decide)
  have hflt := h.flt.resolve_left (by decide)
  have htray := h.tray.resolve_left (by decide)
  have hpwr := h.pwr.resolve_left (by decide)
  have hisl := h.isl.resolve_left (by decide)
  have htel := h.tel.resolve_left (by decide)
  have hctr := h.freeCtr.resolve_left (by decide)
  have houts := h.outs.resolve_left (by decide)
  have hpending := h.pending
  clear h
  cases t
  subst hsys hglb hclk hboot hlcd hotp hkeys hlanes hmem hflood hfab hfe hvd hred hflt htray hpwr hisl htel hctr houts hpending
  rfl

/-! ### A message of a slot counts its transfers and leaves the rest of its domain -/

/-- The domains are the same but for the number of their next transfer. -/
def TransferOnly (s t : State) : Prop := ∀ e, ∃ n, t.dom e = { s.dom e with transfer := n }

theorem TransferOnly.of_doms {s t : State} (h : t.doms = s.doms) : TransferOnly s t := fun e =>
  ⟨(s.dom e).transfer, by rw [dom, h]; rfl⟩

theorem TransferOnly.trans {s t u : State} (h : TransferOnly s t) (h' : TransferOnly t u) : TransferOnly s u := fun e => by
  obtain ⟨m, hm⟩ := h e
  obtain ⟨n, hn⟩ := h' e
  exact ⟨n, by rw [hn, hm]⟩

theorem TransferOnly.mgr {s t : State} (h : TransferOnly s t) (d : Slot) : (t.dom d).mgr = (s.dom d).mgr := by
  obtain ⟨n, hn⟩ := h d
  rw [hn]

theorem TransferOnly.foldl {α : Type} {f : State → α → State} (h : ∀ s x, TransferOnly s (f s x)) (xs : List α) (s : State) :
    TransferOnly s (xs.foldl f s) := by
  induction xs generalizing s with
  | nil => exact .of_doms rfl
  | cons x xs ih => exact (h s x).trans (ih _)

theorem tc0Forward_transferOnly (s : State) (d : Slot) (r : Route) (prio : BitVec 2) (l : Option LinkId) (frag : Bytes) :
    TransferOnly s (s.tc0Forward d r prio l frag) := by
  unfold tc0Forward
  split
  · split
    · exact .of_doms rfl
    · exact .of_doms rfl
    · split <;> exact .of_doms rfl
  · refine .foldl (fun t m => ?_) _ _
    exact .of_doms rfl

theorem tc0Send_transferOnly (s : State) (d : Slot) (type : Byte) (dst : Member) (scope hall : Byte) (msg : Bytes) :
    TransferOnly s (s.tc0Send d type dst scope hall msg) := by
  unfold tc0Send
  refine TransferOnly.trans (t := s.setDom d { s.dom d with transfer := (s.dom d).transfer + 1 }) (fun e => ?_)
    (.foldl (fun t f => t.tc0Forward_transferOnly _ _ _ _ _) _ _)
  rcases eq_or_ne e d with rfl | he
  · exact ⟨_, setDom_dom_same _ _ _⟩
  · exact ⟨_, setDom_dom_ne _ _ _ _ he⟩

/-! ### The Roster (R380) -/

section
variable {s : State} {d : Slot} {m : Member} {v : BitVec 32} {ls : RosterRow}

/-- A contact that is noted changes the table of contacts and nothing else of what a manager holds. -/
theorem noteContact_mgr (s : State) (d : Slot) (m : Member) :
    ∃ t, ((s.noteContact d m).dom d).mgr = { (s.dom d).mgr with contacts := t } := by
  unfold noteContact
  split
  · rw [modDom_dom_same]
    exact ⟨_, rfl⟩
  · exact ⟨(s.dom d).mgr.contacts, rfl⟩

theorem opRosterUpdate_of_other (h : s.inDomain d = false ∨ s.leadsHall d (hallOf m) = false) :
    s.opRosterUpdate d m v ls = s := by
  refine if_pos ?_
  rw [Bool.not_eq_true', Bool.not_eq_true']
  exact h

/-- A row that the hall's manager takes, up to the messages about it. -/
def rosterTaken (s : State) (d : Slot) (m : Member) (v : BitVec 32) (ls : RosterRow) : State :=
  ((s.noteContact d m).rosterPut d m v ls).syncRow d m v ls ((s.noteContact d m).peersFor d (hallOf m))

/-- A row whose confirmations are awaited. -/
def withWait (s : State) (d : Slot) (m : Member) (v : BitVec 32) (peers : List Member) : State :=
  s.modDom d fun k => { k with mgr := { k.mgr with acks :=
    (k.mgr.acks.filter fun w => w.member != m || w.version != v) ++ [{ member := m, version := v, waits := peers }] } }

section
variable (hd : s.inDomain d = true) (hl : s.leadsHall d (hallOf m) = true)
include hd hl

theorem opRosterUpdate_of_old (h : v < Tab.get 0 ((s.noteContact d m).dom d).mgr.rosterVersions m.toNat) :
    s.opRosterUpdate d m v ls = (s.noteContact d m).rosterAckSend d m v := by
  refine (if_neg ?_).trans (if_pos h)
  rw [hd, hl]
  decide

theorem opRosterUpdate_of_new (h : Tab.get 0 ((s.noteContact d m).dom d).mgr.rosterVersions m.toNat ≤ v) :
    s.opRosterUpdate d m v ls =
      if ((s.noteContact d m).peersFor d (hallOf m)).isEmpty then (s.rosterTaken d m v ls).rosterAckSend d m v
      else (s.rosterTaken d m v ls).withWait d m v ((s.noteContact d m).peersFor d (hallOf m)) := by
  refine (if_neg ?_).trans (if_neg (BitVec.not_lt.mpr h))
  rw [hd, hl]
  decide

end

theorem syncRow_transferOnly (s : State) (d : Slot) (m : Member) (v : BitVec 32) (row : RosterRow) (peers : List Member) :
    TransferOnly s (s.syncRow d m v row peers) :=
  .foldl (fun t c => t.tc0Send_transferOnly _ _ _ _ _ _) _ _

theorem rosterTaken_keeps (s : State) (d : Slot) (m : Member) (v : BitVec 32) (ls : RosterRow) :
    Keeps 0x000600 s (s.rosterTaken d m v ls) :=
  syncRow_keeps (rosterPut_keeps (noteContact_keeps (Keeps.refl _ s) (by decide)) (by decide)) (by decide)

theorem rosterTaken_rows (s : State) (d : Slot) (m : Member) (v : BitVec 32) (ls : RosterRow) (peers : List Member) :
    let t := (s.rosterTaken d m v ls).withWait d m v peers
    let u := (s.noteContact d m).rosterPut d m v ls
    (t.dom d).mgr.rosterRows = (u.dom d).mgr.rosterRows ∧ (t.dom d).mgr.rosterVersions = (u.dom d).mgr.rosterVersions := by
  intro t u
  have ht : (t.dom d).mgr.rosterRows = ((s.rosterTaken d m v ls).dom d).mgr.rosterRows ∧
      (t.dom d).mgr.rosterVersions = ((s.rosterTaken d m v ls).dom d).mgr.rosterVersions := by
    rw [show t.dom d = _ from modDom_dom_same _ _ _]
    exact ⟨rfl, rfl⟩
  have hmgr : ((s.rosterTaken d m v ls).dom d).mgr = (u.dom d).mgr := (u.syncRow_transferOnly d m v ls _).mgr d
  rw [ht.1, ht.2, hmgr]
  exact ⟨rfl, rfl⟩

theorem withWait_mem (s : State) (d : Slot) (m : Member) (v : BitVec 32) (peers : List Member) :
    ({ member := m, version := v, waits := peers } : RosterWait) ∈ ((s.withWait d m v peers).dom d).mgr.acks := by
  rw [withWait, modDom_dom_same]
  exact List.mem_append_right _ (List.mem_singleton_self _)

end

/-! ### HALL_SUMMARY -/

theorem opHallSummary_of_idle {s : State} {d : Slot} (h : s.inDomain d = false ∨ s.leadsOwn d = false ∨
    (s.dom d).sysManager = (s.dom d).member) : s.opHallSummary d = s := by
  refine if_pos ?_
  rw [Bool.or_eq_true, Bool.or_eq_true, Bool.not_eq_true', Bool.not_eq_true', beq_iff_eq, or_assoc]
  exact h

/-- The counts of a hall, and of its links to other halls. -/
def summaryBody (s : State) (d : Slot) : Bytes :=
  let h := hallOf (s.dom d).member
  [h.setWidth 8, 0, 0, 0] ++ leBytes 4 (s.censusCount d h 0) ++ leBytes 4 (s.censusCount d h 1) ++
    leBytes 4 (s.censusCount d h 2) ++ leBytes 4 (s.censusCount d h 3) ++
    leBytes 4 (((s.dom d).mgr.rosterRows.filter fun e =>
      hallOf (BitVec.ofNat 20 (e.1 / 64)) == h && hallOf e.2.1 != h).length)

theorem opHallSummary_of_manager {s : State} {d : Slot} (hd : s.inDomain d = true) (hl : s.leadsOwn d = true)
    (hm : (s.dom d).sysManager ≠ (s.dom d).member) :
    s.opHallSummary d = s.tc0Send d 0x50 (s.dom d).sysManager 0 0 (s.summaryBody d) := by
  have hcond : (!s.inDomain d || !s.leadsOwn d || (s.dom d).sysManager == (s.dom d).member) = false := by
    rw [hd, hl, beq_false_of_ne hm]
    rfl
  refine (if_neg (by rw [hcond]; exact Bool.false_ne_true)).trans (congrArg (s.tc0Send d 0x50 (s.dom d).sysManager 0 0) ?_)
  simp only [summaryBody, List.flatMap_cons, List.flatMap_nil, List.append_nil, List.append_assoc]

/-! ### CENSUS_SYNC (R365) -/

/-- A member's census state as a candidate holds it. -/
def withCensus (s : State) (d : Slot) (m : Member) (c : BitVec 2) : State :=
  s.modDom d fun k => { k with mgr := { k.mgr with census := Tab.set 0 k.mgr.census m.toNat c } }

section
variable {s : State} {d : Slot} {y : SyncMsg} {c : BitVec 2}

theorem opCensusSync_of_outside (h : s.inDomain d = false) : s.opCensusSync d y c = s := if_pos (by rw [h]; rfl)

variable (hd : s.inDomain d = true)
include hd

theorem opCensusSync_keeps_links_doms : Keeps 0x000600 s (s.opCensusSync d y c) := opCensusSync_keeps (Keeps.refl _ s) (by decide)

theorem opCensusSync_of_confirm_state (hy : y.confirm = true) (hr : y.roster = none) :
    s.opCensusSync d y c = s.noteContact d y.sender := by
  unfold opCensusSync
  dsimp only
  rw [hd, hy, hr]
  rfl

theorem opCensusSync_of_confirm_row (hy : y.confirm = true) {v : BitVec 32} {row : RosterRow} (hr : y.roster = some (v, row)) :
    s.opCensusSync d y c = (s.noteContact d y.sender).ackDrop d y.sender fun w => w.member == y.member && w.version == v := by
  unfold opCensusSync
  dsimp only
  rw [hd, hy, hr]
  rfl

theorem opCensusSync_of_no_candidate (hy : y.confirm = false) (hh : (s.dom d).hallCand = false)
    (hs : (s.dom d).sysCand = false) : s.opCensusSync d y c = s := by
  unfold opCensusSync
  dsimp only
  rw [hd, hy, hh, hs]
  rfl

theorem opCensusSync_of_state (hy : y.confirm = false) (hc : (s.dom d).hallCand = true ∨ (s.dom d).sysCand = true)
    (hr : y.roster = none) :
    s.opCensusSync d y c =
      ((s.noteContact d y.sender).withCensus d y.member c).tc0Send d 0x52 y.sender 0 0 (syncHead y.member c 2) := by
  have hcand : ((s.dom d).hallCand || (s.dom d).sysCand) = true := Bool.or_eq_true_iff.mpr hc
  unfold opCensusSync
  dsimp only
  rw [hd, hy, hr, hcand]
  rfl

end

/-- The state that a candidate applies is that of one member. -/
theorem withCensus_census (s : State) (d : Slot) (m : Member) (c : BitVec 2) :
    (s.withCensus d m c).censusOf d m = c ∧
      ∀ q : Member, q ≠ m → (s.withCensus d m c).censusOf d q = s.censusOf d q := by
  unfold censusOf withCensus
  rw [modDom_dom_same]
  exact ⟨Tab.get_set_same _ _ _ _, fun q hq => Tab.get_set_ne _ _ _ fun h => hq (BitVec.eq_of_toNat_eq h)⟩

theorem TransferOnly.censusOf {s t : State} (h : TransferOnly s t) (d : Slot) (m : Member) : t.censusOf d m = s.censusOf d m := by
  rw [State.censusOf, h.mgr, ← State.censusOf]

theorem noteContact_censusOf (s : State) (d : Slot) (x m : Member) : (s.noteContact d x).censusOf d m = s.censusOf d m := by
  obtain ⟨cs, hmgr⟩ := s.noteContact_mgr d x
  rw [censusOf, hmgr, ← censusOf]

/-- The last confirmation awaited for a row acknowledges it. -/
theorem ackDrop_last {s : State} {d : Slot} {m x : Member} {v : BitVec 32}
    (h : (s.dom d).mgr.acks = [{ member := m, version := v, waits := [x] }]) :
    s.ackDrop d x (fun w => w.member == m && w.version == v) =
      (s.modDom d fun k => { k with mgr := { k.mgr with acks := [] } }).rosterAckSend d m v := by
  unfold ackDrop
  dsimp only
  rw [h]
  simp

end State

open State in
/-- Settles O56: each message by the row or the state it carries. -/
theorem rosterAndCensus : Obligations.RosterAndCensus := by
  unfold Obligations.RosterAndCensus
  intro s d m
  refine ⟨fun hd => ⟨fun v ls => exec_next rfl (opRosterUpdate_of_other (.inl hd)), fun v => ?_, ?_,
    exec_next rfl (opHallSummary_of_idle (.inl hd)), fun y c => exec_next rfl (opCensusSync_of_outside hd)⟩,
    fun hd => ⟨fun v ls hl => exec_next rfl (opRosterUpdate_of_other (.inr hl)), fun v ls hl => ?_, fun v hv => ?_, fun v hv => ?_,
      fun hp => ?_, fun hp => ?_, fun h => exec_next rfl (opHallSummary_of_idle (.inr h)), fun hl hm => ?_, fun y c hy => ⟨fun hh hs => ?_, fun hc => ?_⟩,
      fun y c hy => ?_⟩⟩
  · exact exec_next rfl (if_neg (by rw [hd]; exact Bool.false_ne_true))
  · exact exec_next rfl (if_neg (by rw [hd]; exact Bool.false_ne_true))
  · intro u old ack
    refine ⟨fun hv => exec_next rfl (opRosterUpdate_of_old hd hl hv), fun e hv hlinks => ?_⟩
    intro p
    have hput : u.rosterPut d m v ls = p u := by
      unfold rosterPut
      rw [hlinks]
      rfl
    have hnew := opRosterUpdate_of_new (ls := ls) hd hl hv
    refine ⟨fun hpeers => exec_next rfl (hnew.trans ?_), fun hpeers => ⟨_, exec_next rfl rfl, ?_⟩⟩
    · rw [rosterTaken, show (s.noteContact d m).peersFor d (hallOf m) = [] from hpeers, if_pos List.isEmpty_nil,
        show (s.noteContact d m).rosterPut d m v ls = p u from hput]
      rfl
    · have hne : ((s.noteContact d m).peersFor d (hallOf m)).isEmpty = false := List.isEmpty_eq_false_iff.mpr hpeers
      rw [hne, if_neg Bool.false_ne_true] at hnew
      rw [hnew, ← hput]
      obtain ⟨hrows, hversions⟩ := s.rosterTaken_rows d m v ls ((s.noteContact d m).peersFor d (hallOf m))
      exact ⟨eq_of_keeps_links_doms (modDom_keeps (rosterTaken_keeps s d m v ls) (by decide)), hrows, hversions,
        withWait_mem _ d m v _⟩
  · exact exec_next rfl (if_pos (by rw [hd, hv, beq_self_eq_true]; rfl))
  · exact exec_next rfl (if_neg (by rw [hd, beq_false_of_ne hv]; decide))
  · exact exec_next rfl (if_pos (by rw [hd, hp]; rfl))
  · exact exec_next rfl (if_neg (by rw [hd, hp]; decide))
  · exact exec_next rfl (opHallSummary_of_manager hd hl hm)
  · exact exec_next rfl (opCensusSync_of_no_candidate hd hy hh hs)
  · refine ⟨_, exec_next rfl rfl, eq_of_keeps_links_doms (opCensusSync_keeps_links_doms hd), fun hr => ?_⟩
    rw [opCensusSync_of_state hd hy hc hr]
    have hsent := ((s.noteContact d y.sender).withCensus d y.member c).tc0Send_transferOnly d 0x52 y.sender 0 0
      (syncHead y.member c 2)
    obtain ⟨hmember, hothers⟩ := (s.noteContact d y.sender).withCensus_census d y.member c
    exact ⟨(hsent.censusOf d _).trans hmember, fun q hq => (hsent.censusOf d q).trans ((hothers q hq).trans (s.noteContact_censusOf d _ q))⟩
  · refine ⟨_, exec_next rfl rfl, eq_of_keeps_links_doms (opCensusSync_keeps_links_doms hd), fun hr => opCensusSync_of_confirm_state hd hy hr,
      fun v row hr _ hacks => ?_⟩
    obtain ⟨t, hmgr⟩ := s.noteContact_mgr d y.sender
    exact (opCensusSync_of_confirm_row hd hy hr).trans (ackDrop_last (by rw [hmgr]; exact hacks))

end Sys2Proof.Machine
end

section
/-! PROOFS. Counts, Fragments, rejoin and route tables (O57). -/

namespace Sys2Proof.Machine

namespace State

/-! ### Opening and closing a count (R386, R387) -/

section
variable {s : State} {d : Slot}

theorem inDomain_of_counter (h : s.isCounter d = true) : s.inDomain d = true := by
  unfold isCounter at h
  rw [Bool.and_eq_true, Bool.and_eq_true] at h
  exact h.1.1

/-- The count that a trigger opens. -/
def countBegun (s : State) (d : Slot) : State := s.countStart d ((s.dom d).round + 1) 0 0 false

theorem opCountOpen_of_other (h : s.isCounter d = false) : s.opCountOpen d = s := if_neg (by rw [h]; exact Bool.false_ne_true)

section
variable (h : s.isCounter d = true)
include h

theorem opCountOpen_of_count {c : CountRun} (hc : (s.dom d).mgr.count = some c) :
    s.opCountOpen d = if c.waiting then s.countBegun d else s := by
  refine (if_pos h).trans ?_
  unfold countTrigger
  dsimp only
  rw [inDomain_of_counter h, if_neg (by decide), if_pos h, hc]
  rfl

theorem opCountOpen_of_none (hc : (s.dom d).mgr.count = none) : s.opCountOpen d = s.countBegun d := by
  refine (if_pos h).trans ?_
  unfold countTrigger
  dsimp only
  rw [inDomain_of_counter h, if_neg (by decide), if_pos h, hc]
  rfl

end

/-- A count without a claim of this part is open. -/
theorem countBegun_of_no_claim (hc : s.ownClaim d = none) (hn : 1 ≤ recHallCount (s.dom d).record) :
    s.countBegun d = s.modDom d fun k => { k with mgr := { k.mgr with count := some {
      round := (s.dom d).round + 1, halls := 0, members := 0, verifier := false, waiting := false } } } := by
  unfold countBegun countStart
  dsimp only
  rw [hc]
  have hpop : popcount (0 : BitVec 8) = 0 := by decide
  refine if_neg ?_
  unfold countFull
  dsimp only
  rw [if_neg Bool.false_ne_true, hpop, decide_eq_true_iff]
  omega

theorem opVoteClaim_of_none (h : (s.dom d).mgr.count = none) (x : BitVec 3) (r n : BitVec 32) :
    s.opVoteClaim d x r n = s := by
  unfold opVoteClaim
  rw [h]

theorem opCountClose_of_none (h : (s.dom d).mgr.count = none) : s.opCountClose d = s := by
  unfold opCountClose
  rw [h]

section
variable {c : CountRun} (hc : (s.dom d).mgr.count = some c)
include hc

theorem opVoteClaim_of_other {x : BitVec 3} {r : BitVec 32}
    (h : s.inDomain d = false ∨ c.round ≠ r ∨ recHallCount (s.dom d).record ≤ x.toNat) (n : BitVec 32) :
    s.opVoteClaim d x r n = s := by
  unfold opVoteClaim
  rw [hc]
  refine if_pos ?_
  rw [Bool.not_eq_true']
  exact h

theorem opVoteClaim_of_open {x : BitVec 3} {r : BitVec 32} (hd : s.inDomain d = true) (hr : c.round = r)
    (hx : x.toNat < recHallCount (s.dom d).record) (n : BitVec 32) :
    s.opVoteClaim d x r n = s.countPut d (addClaim c x n.toNat) := by
  unfold opVoteClaim
  rw [hc]
  refine if_neg fun h => ?_
  rw [hd] at h
  rcases h with h | h | h
  · cases h
  · exact h hr
  · exact absurd hx (Nat.not_lt.mpr h)

theorem opCountClose_of_idle (h : s.inDomain d = false ∨ c.waiting = true) : s.opCountClose d = s := by
  unfold opCountClose
  rw [hc]
  refine if_pos ?_
  rw [Bool.not_eq_true']
  exact h

theorem opCountClose_of_open (hd : s.inDomain d = true) (hw : c.waiting = false) : s.opCountClose d = s.countEnd d c := by
  unfold opCountClose
  rw [hc]
  exact if_neg (by rw [hd, hw]; decide)

end

theorem addClaim_waiting (c : CountRun) (x : BitVec 3) (n : Nat) : (addClaim c x n).waiting = c.waiting := by
  unfold addClaim
  split <;> rfl

/-- A count is full where every hall has claimed, and one that waits for the quorum where it holds it. -/
def claimsFull (s : State) (d : Slot) (c : CountRun) (waiting : Bool) : Prop :=
  if waiting = true then quorumOf (recHallCount (s.dom d).record) ≤ votesHeld c.halls c.verifier (recHallCount (s.dom d).record)
  else recHallCount (s.dom d).record ≤ popcount c.halls

theorem countFull_iff (c : CountRun) : s.countFull d c = true ↔ s.claimsFull d c c.waiting := by
  unfold countFull claimsFull
  dsimp only
  cases c.waiting
  · exact decide_eq_true_iff
  · exact decide_eq_true_iff

end

/-! ### Domains through an election -/

/-- What a count and a Fragment's window leave in a domain. -/
structure CountKept (k k' : Dom) : Prop where
  phase : k'.phase = k.phase
  round : k'.round = k.round
  halls : k'.halls = k.halls
  votes : k'.votes = k.votes
  pulse : k'.hallPulseAt = k.hallPulseAt
  ends : k'.rejoinEnds = k.rejoinEnds
  decls : k'.decls = k.decls
  event : ∀ b, k.event.getLsbD b = true → k'.event.getLsbD b = true

theorem CountKept.refl (k : Dom) : CountKept k k := ⟨rfl, rfl, rfl, rfl, rfl, rfl, rfl, fun _ h => h⟩

theorem CountKept.trans {k k' k'' : Dom} (h : CountKept k k') (h' : CountKept k' k'') : CountKept k k'' where
  phase := h'.phase.trans h.phase
  round := h'.round.trans h.round
  halls := h'.halls.trans h.halls
  votes := h'.votes.trans h.votes
  pulse := h'.pulse.trans h.pulse
  ends := h'.ends.trans h.ends
  decls := h'.decls.trans h.decls
  event b hb := h'.event b (h.event b hb)

theorem TransferOnly.counts {s t : State} (h : TransferOnly s t) (d : Slot) : CountKept (s.dom d) (t.dom d) := by
  obtain ⟨n, hn⟩ := h d
  rw [hn]
  exact ⟨rfl, rfl, rfl, rfl, rfl, rfl, rfl, fun _ h => h⟩

theorem domEvent_counts (s : State) (d : Slot) {b : Nat} (hb : b < 6) : CountKept (s.dom d) ((s.domEvent d b).dom d) := by
  rw [domEvent, modDom_dom_same]
  refine ⟨rfl, rfl, rfl, rfl, rfl, rfl, rfl, fun i hi => ?_⟩
  rw [getLsbD_setBitTo _ true hb i, hi, ite_self]

theorem domEvent_event (s : State) (d : Slot) {b : Nat} (hb : b < 6) : ((s.domEvent d b).dom d).event.getLsbD b = true := by
  rw [domEvent, modDom_dom_same]
  exact (getLsbD_setBitTo _ true hb b).trans (if_pos rfl)

theorem openDomain_transferOnly (s : State) (l : LinkId) (d : Slot) (x : Decl) (type : Byte) (msg : Bytes) :
    TransferOnly s (s.openDomain l d x type msg) := by
  refine TransferOnly.trans (t := s.modDom d fun k => { k with transfer := (s.dom d).transfer + 1 }) (fun e => ?_) (.of_doms ?_)
  · rcases eq_or_ne e d with rfl | he
    · exact ⟨_, modDom_dom_same _ _ _⟩
    · exact ⟨_, modDom_dom_ne _ _ _ _ he⟩
  · exact (openSend_keeps (K := 0x000200) (Keeps.refl _ _) (by decide)).doms.resolve_left (by decide)

theorem inviteSend_transferOnly (s : State) (l : LinkId) (d : Slot) (x : Decl) : TransferOnly s (s.inviteSend l d x) := by
  unfold inviteSend
  dsimp only
  split
  · exact .of_doms rfl
  · exact s.openDomain_transferOnly l d x _ _

theorem inviteAll_transferOnly (s : State) (d : Slot) : TransferOnly s (s.inviteAll d) := by
  refine .foldl (fun t x => ?_) _ _
  split
  · exact t.inviteSend_transferOnly _ _ _
  · exact .of_doms rfl

theorem resumeSend_transferOnly (s : State) (d : Slot) (h : BitVec 3) (states : List (BitVec 2)) :
    TransferOnly s (s.resumeSend d h states) :=
  (TransferOnly.foldl (fun t m => t.tc0Send_transferOnly _ _ _ _ _ _) _ s).trans (inviteAll_transferOnly _ d)

theorem takeoverSend_transferOnly (s : State) (d : Slot) (system : Bool) (m : Member) :
    TransferOnly s (s.takeoverSend d system m) := by
  unfold takeoverSend
  dsimp only
  split
  · exact .foldl (fun t c => t.tc0Send_transferOnly _ _ _ _ _ _) _ s
  · exact s.tc0Send_transferOnly _ _ _ _ _ _

/-- An election may make this instance a manager; it decides nothing of counts and Fragments. -/
theorem electHall_counts (s : State) (d : Slot) : CountKept (s.dom d) ((s.electHall d).dom d) := by
  unfold electHall
  dsimp only
  split
  · exact .refl _
  · refine CountKept.trans (k' := (s.setDom d { s.dom d with activeHm := true, hallManager := (s.dom d).member, rosterPending := false }).dom d) ?_ ?_
    · rw [setDom_dom_same]
      exact ⟨rfl, rfl, rfl, rfl, rfl, rfl, rfl, fun _ h => h⟩
    · refine (domEvent_counts _ d (b := domTakeover) (by decide)).trans ?_
      exact ((takeoverSend_transferOnly _ d _ _).trans ((tc0Send_transferOnly _ d _ _ _ _ _).trans
        (resumeSend_transferOnly _ d _ _))).counts d

theorem electSys_counts (s : State) (d : Slot) : CountKept (s.dom d) ((s.electSys d).dom d) := by
  unfold electSys
  dsimp only
  split
  · exact .refl _
  · refine CountKept.trans (k' := (s.setDom d { s.dom d with activeSm := true, sysManager := (s.dom d).member }).dom d) ?_ ?_
    · rw [setDom_dom_same]
      exact ⟨rfl, rfl, rfl, rfl, rfl, rfl, rfl, fun _ h => h⟩
    · refine (domEvent_counts _ d (b := domTakeover) (by decide)).trans ?_
      exact (takeoverSend_transferOnly _ d _ _).counts d

/-! ### The result of a count (R387 to R389) -/

theorem agreeDeclared_of_none {s : State} {d : Slot} (h : (s.dom d).decls = []) : s.agreeDeclared d = s := by
  have hentries : s.rosterEntries d = [] := by
    unfold rosterEntries
    rw [h]
    decide
  rw [agreeDeclared, hentries, List.foldl_nil]

/-- A Fragment that is a member again. -/
def rejoined (s : State) (d : Slot) : State :=
  (s.setDom d { s.dom d with phase := .member, rejoinEnds := none }).domEvent d domRejoined

theorem continueDom_of_fragment {s : State} {d : Slot} (hp : (s.dom d).phase = .fragment) (hdecls : (s.dom d).decls = []) :
    CountKept ((s.rejoined d).dom d) ((s.continueDom d).dom d) := by
  have hop : s.continueDom d = ((((s.rejoined d).timeMark d).electHall d).electSys d).agreeDeclared d := if_pos hp
  have hmark : CountKept ((s.rejoined d).dom d) (((s.rejoined d).timeMark d).dom d) :=
    (TransferOnly.of_doms ((timeMark_keeps (K := 0x100000) (Keeps.refl _ _) (by decide)).doms.resolve_left (by decide))).counts d
  have hrejoined : ((s.rejoined d).dom d).decls = [] := by
    rw [rejoined, domEvent, modDom_dom_same, setDom_dom_same]
    exact hdecls
  have hkept := hmark.trans ((electHall_counts _ d).trans (electSys_counts _ d))
  rw [hop, agreeDeclared_of_none (hkept.decls.trans hrejoined)]
  exact hkept

theorem continueDom_of_member {s : State} {d : Slot} (hp : (s.dom d).phase ≠ .fragment) : s.continueDom d = s := if_neg hp

/-- A slot with the result of a count. -/
def withResult (s : State) (d : Slot) (r : CountResult) : State :=
  s.setDom d { s.dom d with
    round := r.round, halls := r.halls, verifier := r.verifier
    votes := BitVec.ofNat 4 (votesHeld r.halls r.verifier (recHallCount (s.dom d).record)), hallPulseAt := s.now }

theorem applyResult_of_quorum {s : State} {d : Slot} {r : CountResult}
    (h : quorumOf (recHallCount (s.dom d).record) ≤ votesHeld r.halls r.verifier (recHallCount (s.dom d).record)) :
    s.applyResult d r = (s.withResult d r).continueDom d := if_pos h

theorem applyResult_of_short {s : State} {d : Slot} {r : CountResult}
    (h : votesHeld r.halls r.verifier (recHallCount (s.dom d).record) < quorumOf (recHallCount (s.dom d).record)) :
    s.applyResult d r = (s.withResult d r).becomeFragment d := if_neg (Nat.not_le.mpr h)

theorem becomeFragment_of_fragment {s : State} {d : Slot} (h : (s.dom d).phase ≠ .member) : s.becomeFragment d = s := if_pos h

theorem rejoined_dom (s : State) (d : Slot) : (s.rejoined d).dom d =
    { s.dom d with phase := .member, rejoinEnds := none, event := setBitTo (s.dom d).event domRejoined true } := by
  rw [rejoined, domEvent, modDom_dom_same, setDom_dom_same]

theorem withResult_dom (s : State) (d : Slot) (r : CountResult) : (s.withResult d r).dom d = { s.dom d with
    round := r.round, halls := r.halls, verifier := r.verifier
    votes := BitVec.ofNat 4 (votesHeld r.halls r.verifier (recHallCount (s.dom d).record)), hallPulseAt := s.now } :=
  setDom_dom_same _ _ _

/-- A result that holds the quorum (R388, R389): a Fragment is a member again, and a member stays one. -/
theorem applyResult_quorum_left {s : State} {d : Slot} {r : CountResult} (hd : s.inDomain d = true)
    (h : quorumOf (recHallCount (s.dom d).record) ≤ votesHeld r.halls r.verifier (recHallCount (s.dom d).record))
    (hdecls : (s.dom d).decls = []) : ∃ k, CountKept k ((s.applyResult d r).dom d) ∧ k.phase = .member ∧ k.round = r.round ∧
      k.halls = r.halls ∧ k.votes = BitVec.ofNat 4 (votesHeld r.halls r.verifier (recHallCount (s.dom d).record)) ∧
      k.hallPulseAt = s.now ∧
      ((s.dom d).phase = .fragment → k.rejoinEnds = none ∧ k.event.getLsbD domRejoined = true) := by
  rw [applyResult_of_quorum h]
  have hw := s.withResult_dom d r
  by_cases hp : (s.dom d).phase = .fragment
  · refine ⟨_, continueDom_of_fragment (by rw [hw]; exact hp) (by rw [hw]; exact hdecls), ?_⟩
    rw [rejoined_dom, hw]
    exact ⟨rfl, rfl, rfl, rfl, rfl, fun _ => ⟨rfl, (getLsbD_setBitTo _ true (by decide) _).trans (if_pos rfl)⟩⟩
  · rw [continueDom_of_member (by rw [hw]; exact hp)]
    refine ⟨_, .refl _, ?_⟩
    rw [hw]
    refine ⟨?_, rfl, rfl, rfl, rfl, fun hf => absurd hf hp⟩
    rw [inDomain, Bool.and_eq_true, Bool.or_eq_true, beq_iff_eq, beq_iff_eq] at hd
    exact hd.2.resolve_right hp

/-- A member whose part has lost the quorum, up to what follows for memory and reduction. -/
def fragmented (s : State) (d : Slot) : State :=
  (s.setDom d { s.dom d with
    phase := .fragment, rejoinEnds := some (s.now + BitVec.ofNat 64 (recRejoinMs (s.dom d).record * 1000000))
    activeHm := false, activeSm := false, mgr := { (s.dom d).mgr with grants := [], joinQueue := [] } }).domEvent d domFragment

/-- With nothing in memory or reduction a Fragment is what its domain shows. -/
theorem becomeFragment_of_quiet {s : State} {d : Slot} (h : (s.dom d).phase = .member) (hprogs : s.red.progs = [])
    (hfence : s.mem.fence = []) (hwaits : s.mem.waits = []) : (s.becomeFragment d).doms = (s.fragmented d).doms := by
  unfold becomeFragment
  dsimp only
  rw [if_neg (not_not.mpr h), ← fragmented]
  have hf : (s.fragmented d).mem.fence = [] := hfence
  have hw : (s.fragmented d).mem.waits = [] := hwaits
  have hp : (s.fragmented d).red.progs = [] := hprogs
  generalize s.fragmented d = u at hf hw hp ⊢
  rw [hf, List.filter_nil, List.filterMap_nil,
    fenceRelease_of_empty (s := { u with mem := { u.mem with fence := [], ends := u.mem.ends ++ [] } }) rfl hw]
  unfold progsInUse
  dsimp only
  rw [hp]
  rfl

/-! ### Rejoin (R391) -/

section
variable {s : State} {d : Slot} {m : RejoinMsg}

theorem rejoin_of_outside (h : s.inDomain d = false) : s.opRejoinReq d m = s := if_pos (by rw [h]; rfl)

theorem not_counter_of_outside (h : s.inDomain d = false) : s.isCounter d = false := by
  unfold isCounter
  rw [h]
  rfl

theorem opRejoinGrant_of_not_counter (h : s.isCounter d = false) : s.opRejoinGrant d m = s := by
  refine if_pos ?_
  rw [h, Bool.not_false, Bool.or_true, Bool.true_or]

theorem opRejoinReq_of_member (hd : s.inDomain d = true) (h : s.isCounter d = false) :
    s.opRejoinReq d m =
      if s.isFragment d = true ∧ tokMember m.token = (s.counterOf d).toNat then s.rejoinRelay d (m.body ++ m.sig)
      else s.tc0Send d 0x5B (s.counterOf d) 0 0 (m.body ++ m.sig) := by
  refine (if_neg (by rw [hd]; decide)).trans ((if_pos (by rw [h]; rfl)).trans ?_)
  exact if_congr (by rw [Bool.and_eq_true, beq_iff_eq]) rfl rfl

variable (h : s.isCounter d = true)
include h

theorem opRejoinReq_of_counter :
    s.opRejoinReq d m = if s.rejoinOk d m = false then s
      else (s.tc0Send d 0x5C (BitVec.ofNat 20 (tokMember m.token)) 0 0 (s.rejoinBody d)).unionCount d m := by
  refine (if_neg (by rw [inDomain_of_counter h]; decide)).trans ((if_neg (by rw [h]; decide)).trans ?_)
  exact if_congr (by rw [Bool.not_eq_true']) rfl rfl

theorem opRejoinGrant_of_counter :
    s.opRejoinGrant d m = if s.isFragment d = false ∨ s.rejoinOk d m = false then s else s.unionCount d m := by
  unfold opRejoinGrant
  rw [h, Bool.not_true, Bool.or_false]
  exact if_congr (by rw [Bool.or_eq_true, Bool.not_eq_true', Bool.not_eq_true']) rfl rfl

end

/-- A slot that is freed holds nothing. -/
theorem freeSlot_phase (s : State) (d : Slot) : ((s.freeSlot d).dom d).phase = .free := by
  unfold freeSlot
  split
  · next h =>
    rw [Bool.not_eq_true', slotHeld, bne_eq_false_iff_eq] at h
    exact h
  · dsimp only
    generalize freeVds _ d = u
    have hfreed : ((u.setDom d { event := (u.dom d).event, time := { stepped := (u.dom d).time.stepped } }).dom d).phase = .free :=
      congrArg Dom.phase (setDom_dom_same _ _ _)
    split
    · exact hfreed
    · rw [dom, (reissueCert_keeps (K := 0x000008) (Keeps.refl _ _) (by decide)).doms.resolve_left (by decide), ← dom]
      exact hfreed

theorem opRejoinExpiry_of_idle {s : State} {d : Slot} (h : s.running = false ∨ s.isFragment d = false) :
    s.opRejoinExpiry d = s := by
  refine if_neg ?_
  rcases h with h | h
  · rw [h]
    exact Bool.false_ne_true
  · rw [h, Bool.and_false]
    exact Bool.false_ne_true

/-! ### Route tables (R402) -/

theorem opRouteLoad_of_idle {s : State} {d : Slot} (h : s.running = false ∨ (s.dom d).phase = .free)
    (es : List (BitVec 2 × BitVec 9 × Option LinkId × Option LinkId)) : s.opRouteLoad d es = s := by
  refine if_neg ?_
  unfold slotHeld
  rcases h with h | h
  · rw [h]
    exact Bool.false_ne_true
  · rw [h, bne_self_eq_false, Bool.and_false]
    exact Bool.false_ne_true

theorem opRouteLoad_of_one {s : State} {d : Slot} (hr : s.running = true) (h : (s.dom d).phase ≠ .free)
    (e : BitVec 2 × BitVec 9 × Option LinkId × Option LinkId) : s.opRouteLoad d [e] = s.modDom d fun k => routePut k e := by
  refine if_pos ?_
  unfold slotHeld
  rw [hr, bne_iff_ne.mpr h]
  rfl

end State

open State in
/-- Settles O57: each command by the count that is open, the result by the quorum, and the route tables entry by entry. -/
theorem countsAndRejoin : Obligations.CountsAndRejoin := by
  unfold Obligations.CountsAndRejoin
  intro s d
  refine ⟨fun h => exec_next rfl (congrArg State.settleAll (opCountOpen_of_other h)), fun h => ?_, fun x r n => ?_, fun r => ?_,
    fun m => ?_, fun hr hf => ?_, fun h => exec_next rfl (congrArg State.settleAll (opRejoinExpiry_of_idle h)),
    fun es h => exec_next rfl (opRouteLoad_of_idle h es), fun i p a hr hp => ?_⟩
  · intro start
    refine ⟨fun c hc hw => ?_, fun c hc hw => ?_, fun hc => exec_next rfl (congrArg State.settleAll (opCountOpen_of_none h hc)),
      fun hclaim hn => countBegun_of_no_claim hclaim hn⟩
    · exact exec_next rfl (congrArg State.settleAll ((opCountOpen_of_count h hc).trans (if_neg (by rw [hw]; exact Bool.false_ne_true))))
    · exact exec_next rfl (congrArg State.settleAll ((opCountOpen_of_count h hc).trans (if_pos hw)))
  · intro halls
    refine ⟨fun hc => ⟨?_, ?_⟩, fun c hc h => ?_, fun c hc hd hr hx => ?_, fun c hc h => ?_, fun c hc hd hw => ?_⟩
    · exact exec_next rfl (congrArg State.settleAll (opVoteClaim_of_none hc x r n))
    · exact exec_next rfl (congrArg State.settleAll (opCountClose_of_none hc))
    · exact exec_next rfl (congrArg State.settleAll (opVoteClaim_of_other hc h n))
    · intro c' full
      have hop : s.opVoteClaim d x r n = s.countPut d c' := opVoteClaim_of_open hc hd hr hx n
      have hfull : s.countFull d c' = true ↔ full := by
        rw [countFull_iff, show c'.waiting = c.waiting from addClaim_waiting c x n.toNat]
        rfl
      refine ⟨fun hn => exec_next rfl (congrArg State.settleAll (hop.trans (if_neg fun hf => hn (hfull.mp hf)))),
        fun hf => exec_next rfl (congrArg State.settleAll (hop.trans (if_pos (hfull.mpr hf))))⟩
    · exact exec_next rfl (congrArg State.settleAll (opCountClose_of_idle hc h))
    · exact exec_next rfl (congrArg State.settleAll (opCountClose_of_open hc hd hw))
  · intro n v u
    refine ⟨fun h => exec_next rfl (congrArg State.settleAll (if_pos ?_)), fun hd hr => ⟨exec_next rfl (congrArg State.settleAll (if_neg ?_)),
      fun hq hdecls => ?_, fun hq hp hprogs hfence hwaits => ?_, fun hq hp => ?_⟩⟩
    · rw [Bool.not_eq_true']
      exact h
    · rw [hd]
      exact fun h => h.elim (fun h => by cases h) (BitVec.not_lt.mpr hr)
    · obtain ⟨k, hkept, hphase, hround, hhalls, hvotes, hpulse, hfragment⟩ := applyResult_quorum_left hd hq hdecls
      exact ⟨hkept.phase.trans hphase, hkept.round.trans hround, hkept.halls.trans hhalls, hkept.votes.trans hvotes,
        hkept.pulse.trans hpulse, fun hp => ⟨hkept.ends.trans (hfragment hp).1, hkept.event _ (hfragment hp).2⟩⟩
    · have hw := s.withResult_dom d r
      have hdoms := becomeFragment_of_quiet (s := s.withResult d r) (d := d) (by rw [hw]; exact hp) hprogs hfence hwaits
      have hdom : u.dom d = ((s.withResult d r).fragmented d).dom d := by
        rw [show u = (s.withResult d r).becomeFragment d from applyResult_of_short hq, dom, hdoms, ← dom]
      rw [hdom, fragmented, domEvent, modDom_dom_same, setDom_dom_same, hw]
      exact ⟨rfl, rfl, rfl, rfl⟩
    · have hw := s.withResult_dom d r
      have hu : u = s.withResult d r := (applyResult_of_short hq).trans (becomeFragment_of_fragment (by rw [hw, hp]; decide))
      rw [hu, hw]
      exact ⟨rfl, hp, rfl, rfl, rfl⟩
  · intro req grant
    have hreq {t : State} (h : s.opRejoinReq d m = t) : req t := exec_next rfl (congrArg State.settleAll h)
    have hgrant {t : State} (h : s.opRejoinGrant d m = t) : grant t := exec_next rfl (congrArg State.settleAll h)
    refine ⟨fun hd => ⟨hreq (rejoin_of_outside hd), hgrant (opRejoinGrant_of_not_counter (not_counter_of_outside hd))⟩,
      fun hd hc => ⟨hgrant (opRejoinGrant_of_not_counter hc), fun hf => hreq ((opRejoinReq_of_member hd hc).trans (if_pos hf)),
        fun hf => hreq ((opRejoinReq_of_member hd hc).trans (if_neg hf))⟩,
      fun hc => ⟨fun hbad => ⟨hreq ((opRejoinReq_of_counter hc).trans (if_pos hbad)),
        hgrant ((opRejoinGrant_of_counter hc).trans (if_pos (.inr hbad)))⟩, fun hok => ⟨?_, fun hf => ?_, fun hf => ?_⟩⟩⟩
    · exact hreq ((opRejoinReq_of_counter hc).trans (if_neg (by rw [hok]; decide)))
    · exact hgrant ((opRejoinGrant_of_counter hc).trans (if_neg (by rw [hok, hf]; decide)))
    · exact hgrant ((opRejoinGrant_of_counter hc).trans (if_pos (.inl hf)))
  · refine ⟨_, exec_next rfl (congrArg State.settleAll (if_pos (by rw [hr, hf]; rfl))), ?_, domEvent_event _ d (by decide)⟩
    exact (domEvent_counts _ d (by decide)).phase.trans (freeSlot_phase _ d)
  · intro r
    refine ⟨fun hi => exec_next rfl ((opRouteLoad_of_one hr hp _).trans ?_), fun hi => exec_next rfl ((opRouteLoad_of_one hr hp _).trans ?_),
      fun hi => exec_next rfl ((opRouteLoad_of_one hr hp _).trans ?_), exec_next rfl (opRouteLoad_of_one hr hp _)⟩
    · exact congrArg (s.setDom d) (if_pos hi)
    · exact congrArg (s.setDom d) (if_neg (Nat.not_lt.mpr hi))
    · exact congrArg (s.setDom d) (if_pos hi)

end Sys2Proof.Machine
end

section
/-! PROOFS. HALT, its gates and their release (O58). -/

namespace Sys2Proof.Machine

namespace State

/-! ### The links a HALT names -/

theorem haltLinks_nodup (s : State) (d : Slot) (scope : Byte) (src : Member) : (s.haltLinks d scope src).Nodup := by
  have hall : allLinks.Nodup := by decide
  exact (hall.filter _).filter _

/-- A change made once to each link of a list. -/
theorem foldl_modLink_links (f : Link → Link) (ls : List LinkId) (s : State) :
    ls.foldl (fun (s : State) x => s.modLink x f) s = { s with links := (ls.foldl (fun (s : State) x => s.modLink x f) s).links } := by
  induction ls generalizing s with
  | nil => rfl
  | cons l ls ih => exact ih (s.modLink l f)

theorem foldl_modLink_link (f : Link → Link) (ls : List LinkId) (hls : ls.Nodup) (s : State) (x : LinkId) :
    (ls.foldl (fun (s : State) x => s.modLink x f) s).link x = if x ∈ ls then f (s.link x) else s.link x := by
  induction ls generalizing s with
  | nil => exact (if_neg List.not_mem_nil).symm
  | cons l ls ih =>
    obtain ⟨hl, hls⟩ := List.nodup_cons.mp hls
    rw [List.foldl_cons, ih hls]
    rcases eq_or_ne x l with rfl | hx
    · rw [if_neg hl, if_pos List.mem_cons_self, modLink_link_same]
    · rw [modLink_link_ne _ _ _ _ hx]
      exact if_congr ⟨List.mem_cons_of_mem l, fun h => (List.mem_cons.mp h).resolve_left hx⟩ rfl rfl

/-! ### HALT and HALT_RELEASE (R409, R410) -/

section
variable {s : State} {l : LinkId} {r : Route} {m : HaltMsg}

/-- A link with the gate of a HALT closed. -/
def haltGate (s : State) (r : Route) (m : HaltMsg) (k : Link) : Link :=
  { k with tc0 := { k.tc0 with
    gates := k.tc0.gates ++ [{ classes := m.classes.setWidth 4, src := r.src, all := m.scope == 1
                               ends := if m.duration = 0 then none else some (s.now + m.duration.setWidth 64 * 1000) }]
    gateReason := m.reason, gateSrc := r.src } }

/-- A link with the classes of a release open in the gates it may open. -/
def releaseGate (s : State) (d : Slot) (r : Route) (m : HaltMsg) (k : Link) : Link :=
  let mine (g : Gate) : Bool := s.haltCand d r.src || (g.src == r.src && g.all == (m.scope == 1))
  { k with tc0 := { k.tc0 with
    gates := (k.tc0.gates.map fun g => if mine g then gateOpen (m.classes.setWidth 4) g else g).filter fun g => g.classes != 0 } }

theorem agreedIn_own (h : (s.link l).core.phase = .agreed) : s.agreedIn l (s.link l).core.slot = true := by
  rw [agreedIn, h, beq_self_eq_true, beq_self_eq_true]
  rfl

theorem halt_of_idle (h : ¬ (s.linkLive l = true ∧ (s.link l).core.phase = .agreed)) :
    s.opHalt l r m = s ∧ s.opHaltRelease l r m = s := by
  have hcond : (!s.linkLive l || !s.agreedIn l (s.link l).core.slot) = true := by
    rw [Bool.or_eq_true, Bool.not_eq_true', Bool.not_eq_true']
    refine (not_and_or.mp h).imp Bool.eq_false_iff.mpr fun hp => ?_
    rw [agreedIn, beq_eq_false_iff_ne.mpr hp, Bool.false_and]
  exact ⟨if_pos hcond, if_pos hcond⟩

section
variable (h : s.linkLive l = true ∧ (s.link l).core.phase = .agreed)
include h

theorem live_admits : ¬ (!s.linkLive l || !s.agreedIn l (s.link l).core.slot) = true := by
  rw [h.1, agreedIn_own h.2]
  decide

theorem opHalt_of_refused (hok : s.haltOk (s.link l).core.slot r m = false) : s.opHalt l r m = s.haltRefused l :=
  (if_neg (live_admits h)).trans (if_pos (by rw [hok]; rfl))

theorem opHalt_of_admitted (hok : s.haltOk (s.link l).core.slot r m = true) :
    s.opHalt l r m =
      (s.haltLinks (s.link l).core.slot m.scope r.src).foldl (fun (t : State) x => t.modLink x (s.haltGate r m)) s :=
  (if_neg (live_admits h)).trans (if_neg (by rw [hok]; decide))

theorem opHaltRelease_of_refused (hm : haltForm r m = false ∨ m.duration ≠ 0) : s.opHaltRelease l r m = s.haltRefused l := by
  refine (if_neg (live_admits h)).trans (if_pos ?_)
  rw [Bool.or_eq_true, Bool.not_eq_true', bne_iff_ne]
  exact hm

theorem opHaltRelease_of_formed (hf : haltForm r m = true) (hm : m.duration = 0) :
    s.opHaltRelease l r m =
      (s.haltLinks (s.link l).core.slot m.scope r.src).foldl
        (fun (t : State) x => t.modLink x (s.releaseGate (s.link l).core.slot r m)) s := by
  refine (if_neg (live_admits h)).trans (if_neg ?_)
  rw [hf, hm]
  decide

end

/-- What R409 admits. -/
theorem haltOk_iff {d : Slot} : s.haltOk d r m = true ↔
    ((((m.reservedZero = true ∧ m.classes &&& 0xF1 = 0) ∧ m.scope.toNat ≤ 1) ∧ m.classes ≠ 0) ∧ r.scope = 0) ∧
      (if m.scope = 0 then m.duration ≠ 0 ∧ s.haltLinks d 0 r.src ≠ [] else s.haltCand d r.src = true) := by
  rw [haltOk, haltForm, Bool.and_eq_true, Bool.and_eq_true, Bool.and_eq_true, Bool.and_eq_true, Bool.and_eq_true, beq_iff_eq,
    beq_iff_eq, bne_iff_ne, decide_eq_true_iff]
  refine and_congr_right fun _ => ?_
  split
  · rw [Bool.and_eq_true, bne_iff_ne, Bool.not_eq_true', List.isEmpty_eq_false_iff]
  · rfl

end

end State

open State in
/-- Settles O58: the messages by what R409 admits, and each gated link once. -/
theorem haltGates : Obligations.HaltGates := by
  unfold Obligations.HaltGates
  intro s l r m d live counted
  refine ⟨fun h => ⟨exec_next rfl (halt_of_idle h).1, exec_next rfl (halt_of_idle h).2⟩,
    fun h hok => exec_next rfl (opHalt_of_refused h hok), fun h hok => ⟨_, exec_next rfl (opHalt_of_admitted h hok), ?_⟩,
    fun h hm => exec_next rfl (opHaltRelease_of_refused h hm),
    fun h hf hm => ⟨_, exec_next rfl (opHaltRelease_of_formed h hf hm), ?_⟩, fun hok => ?_, fun c => exec_next rfl rfl⟩
  · refine ⟨foldl_modLink_links _ _ _, fun x hx => ?_, fun x hx => ?_⟩
    · rw [foldl_modLink_link _ _ (haltLinks_nodup _ _ _ _)]
      exact if_pos hx
    · rw [foldl_modLink_link _ _ (haltLinks_nodup _ _ _ _)]
      exact if_neg hx
  · refine ⟨foldl_modLink_links _ _ _, fun x hx => ?_, fun x hx => ?_⟩
    · rw [foldl_modLink_link _ _ (haltLinks_nodup _ _ _ _)]
      exact if_pos hx
    · rw [foldl_modLink_link _ _ (haltLinks_nodup _ _ _ _)]
      exact if_neg hx
  · obtain ⟨⟨⟨⟨⟨hzero, hclasses⟩, hscope⟩, hne⟩, hroute⟩, hrest⟩ := haltOk_iff.mp hok
    refine ⟨hzero, hclasses, hne, hscope, hroute, fun h0 => ?_, fun h0 => ?_⟩
    · rwa [if_pos h0] at hrest
    · rwa [if_neg h0] at hrest

end Sys2Proof.Machine
end

section
/-! PROOFS. Domain Time, block time and the island's clock (O59). -/

namespace Sys2Proof.Machine

namespace State

/-! ### The exchange's start (R414) -/

section
variable {s : State} {d : Slot} {t1 : BitVec 64}

/-- A slot with other figures of its time. -/
def withTime (s : State) (d : Slot) (t : DomTime) : State := s.setDom d { s.dom d with time := t }

theorem withTime_time (s : State) (d : Slot) (t : DomTime) : ((s.withTime d t).dom d).time = t :=
  congrArg Dom.time (setDom_dom_same _ _ _)

/-- The figures of a child that begins an exchange with its parent. -/
def childTime (s : State) (d : Slot) (t1 : BitVec 64) (p : LinkId) : DomTime :=
  let t := (s.dom d).time
  let same := t.stratum != 15 && t.stratum != 0 && t.parentLink == p && t.parent == (s.link p).core.pMember
  let u := if same then { t with t1prev := t.t1 } else { t with t1prev := 0, t2prev := 0, t4prev := 0 }
  { u with stratum := (s.link p).tc0.peerStratum + 1, parent := (s.link p).core.pMember, parentLink := p, seq := u.seq + 1
           t1 := t1 }

theorem childTime_seq (s : State) (d : Slot) (t1 : BitVec 64) (p : LinkId) :
    (s.childTime d t1 p).seq = (s.dom d).time.seq + 1 := by
  unfold childTime
  dsimp only
  split <;> rfl

/-- The figures of a member that knows no stratum. -/
def orphanTime (s : State) (d : Slot) (t1 : BitVec 64) : DomTime :=
  { (s.dom d).time with stratum := 15, parent := 0, parentLink := 0, seq := (s.dom d).time.seq + 1, t1 := t1, t2prev := 0
                        t4prev := 0 }

/-- A TIME_REQ shows no stamps. -/
theorem timeBody_request (st : BitVec 4) (seq : BitVec 16) :
    timeBody 0x60 st seq 0 0 = [0x60, st.setWidth 8] ++ leBytes 2 seq.toNat ++ zeros 20 := by
  have hzeros : leBytes 8 (0 : BitVec 64).toNat ++ (leBytes 8 (0 : BitVec 64).toNat ++ zeros 4) = zeros 20 := by decide
  rw [timeBody, List.append_assoc _ (leBytes 8 _) (zeros 4), List.append_assoc _ (leBytes 8 _) _, hzeros]

theorem timeParent_of_no_link (h : s.agreedLinks d = []) : s.timeParent d = none := by
  unfold timeParent
  dsimp only
  rw [h]
  rfl

theorem opTimeTimer_of_outside (h : s.inDomain d = false) : s.opTimeTimer d t1 = s := if_pos (by rw [h]; rfl)

variable (hd : s.inDomain d = true)
include hd

theorem opTimeTimer_of_source (h : s.isTimeSource d = true) :
    s.opTimeTimer d t1 = s.withTime d { (s.dom d).time with stratum := 0, parent := 0, parentLink := 0 } :=
  (if_neg (by rw [hd]; decide)).trans (if_pos h)

variable (hs : s.isTimeSource d = false)
include hs

theorem opTimeTimer_of_parent {p : LinkId} (hp : s.timeParent d = some p) :
    s.opTimeTimer d t1 = (s.withTime d (s.childTime d t1 p)).tc0Own p
      (timeBody 0x60 (s.childTime d t1 p).stratum (s.childTime d t1 p).seq 0 0) := by
  refine (if_neg (by rw [hd]; decide)).trans ((if_neg (by rw [hs]; exact Bool.false_ne_true)).trans ?_)
  rw [hp]
  rfl

theorem opTimeTimer_of_orphan (hp : s.timeParent d = none) :
    s.opTimeTimer d t1 = (s.agreedLinks d).foldl
      (fun (t : State) l => t.tc0Own l (timeBody 0x60 15 (s.orphanTime d t1).seq 0 0)) (s.withTime d (s.orphanTime d t1)) := by
  refine (if_neg (by rw [hd]; decide)).trans ((if_neg (by rw [hs]; exact Bool.false_ne_true)).trans ?_)
  rw [hp]
  rfl

end

/-! ### TIME_REQ and TIME_RESP (R415, R416) -/

section
variable {s : State} {l : LinkId} {m : TimeMsg}

theorem time_of_idle (h : ¬ (s.linkLive l = true ∧ (s.link l).core.phase = .agreed)) :
    (∀ a b, s.opTimeReq l m a b = s) ∧ ∀ a, s.opTimeResp l m a = s := by
  have hcond : (!s.linkLive l || !s.agreedIn l (s.link l).core.slot) = true := by
    rw [Bool.or_eq_true, Bool.not_eq_true', Bool.not_eq_true']
    refine (not_and_or.mp h).imp Bool.eq_false_iff.mpr fun hp => ?_
    rw [agreedIn, beq_eq_false_iff_ne.mpr hp, Bool.false_and]
  exact ⟨fun _ _ => if_pos hcond, fun _ => if_pos hcond⟩

theorem timeForm_iff : timeForm m = true ↔ m.reservedZero = true ∧ m.stratum.toNat ≤ 15 := by
  rw [timeForm, Bool.and_eq_true, decide_eq_true_iff]

theorem timeForm_of_bad (h : m.reservedZero = false ∨ 15 < m.stratum.toNat) : timeForm m = false := by
  rw [← Bool.not_eq_true, timeForm_iff]
  rintro ⟨hz, hs⟩
  rcases h with h | h
  · rw [hz] at h
    cases h
  · omega

/-- A partner whose stratum is noted. -/
def peerNoted (s : State) (l : LinkId) (m : TimeMsg) : State :=
  s.modLink l fun k => { k with tc0 := { k.tc0 with peerStratum := m.stratum.setWidth 4 } }

section
variable (h : s.linkLive l = true ∧ (s.link l).core.phase = .agreed)
include h

theorem opTimeReq_of_bad (hm : timeForm m = false ∨ m.t2 ≠ 0 ∨ m.t3prev ≠ 0) (a b : BitVec 64) :
    s.opTimeReq l m a b = s.tc0Bad l := by
  refine (if_neg (live_admits h)).trans (if_pos ?_)
  rw [Bool.or_eq_true, Bool.or_eq_true, Bool.not_eq_true', bne_iff_ne, bne_iff_ne, or_assoc]
  exact hm

theorem opTimeReq_of_formed (hm : timeForm m = true) (h2 : m.t2 = 0) (h3 : m.t3prev = 0) (a b : BitVec 64) :
    s.opTimeReq l m a b = (s.modLink l fun x => { x with tc0 := { x.tc0 with
        peerStratum := m.stratum.setWidth 4, t3last := s.domStamp (s.link l).core.slot b } }).tc0Own l
      (timeBody 0x61 (s.dom (s.link l).core.slot).time.stratum m.seq (s.domStamp (s.link l).core.slot a) (s.link l).tc0.t3last) := by
  refine (if_neg (live_admits h)).trans ((if_neg ?_).trans rfl)
  rw [hm, h2, h3]
  decide

theorem opTimeResp_of_bad (hm : timeForm m = false) (a : BitVec 64) : s.opTimeResp l m a = s.tc0Bad l :=
  (if_neg (live_admits h)).trans (if_pos (by rw [hm]; rfl))

/-- A response that is not of the exchange under way. -/
def timeStray (s : State) (l : LinkId) (m : TimeMsg) : Prop :=
  let k := (s.dom (s.link l).core.slot).time
  s.inDomain (s.link l).core.slot = false ∨ m.seq ≠ k.seq ∨ k.stratum = 15 ∨ k.stratum = 0 ∨ k.parentLink ≠ l

theorem opTimeResp_of_stray (hm : timeForm m = true) (hs : s.timeStray l m) (a : BitVec 64) :
    s.opTimeResp l m a = s.peerNoted l m := by
  refine (if_neg (live_admits h)).trans ((if_neg (by rw [hm]; decide)).trans (if_pos ?_))
  rw [Bool.or_eq_true, Bool.or_eq_true, Bool.or_eq_true, Bool.or_eq_true, Bool.not_eq_true', bne_iff_ne, beq_iff_eq,
    beq_iff_eq, bne_iff_ne, or_assoc, or_assoc, or_assoc]
  exact hs

/-- The offset of the exchange before, in units of 0.125 ns. -/
def thetaOf (k : DomTime) (m : TimeMsg) : Int :=
  ((k.t2prev - (k.t1prev + 8 * k.corr)).toInt - ((k.t4prev + 8 * k.corr) - m.t3prev).toInt) / 2

/-- The figures of a child after a response. -/
def respondedTime (k : DomTime) (m : TimeMsg) (now : Time) (a : BitVec 64) : DomTime :=
  { (if m.t3prev != 0 && k.t2prev != 0 then applyTheta k (thetaOf k m) else k) with
    t2prev := m.t2, t4prev := a, lastExchange := now }

/-- A child that takes the offset of the exchange before. -/
def responded (s : State) (l : LinkId) (m : TimeMsg) (a : BitVec 64) : State :=
  (s.peerNoted l m).modDom (s.link l).core.slot fun k =>
    { k with time := respondedTime (s.dom (s.link l).core.slot).time m s.now a }

theorem opTimeResp_of_exchange (hm : timeForm m = true) (hs : ¬ s.timeStray l m) (a : BitVec 64) :
    ∃ c : Bool, s.opTimeResp l m a =
      if c then (s.responded l m a).timeMark (s.link l).core.slot else s.responded l m a := by
  refine ⟨_, (if_neg (live_admits h)).trans ((if_neg (by rw [hm]; decide)).trans ((if_neg ?_).trans rfl))⟩
  rw [Bool.or_eq_true, Bool.or_eq_true, Bool.or_eq_true, Bool.or_eq_true, Bool.not_eq_true', bne_iff_ne, beq_iff_eq,
    beq_iff_eq, bne_iff_ne, or_assoc, or_assoc, or_assoc]
  exact hs

theorem opTimeResp_left (hm : timeForm m = true) (hs : ¬ s.timeStray l m) (a : BitVec 64) :
    ((s.opTimeResp l m a).link l).tc0.peerStratum = m.stratum.setWidth 4 ∧
      ((s.opTimeResp l m a).dom (s.link l).core.slot).time =
        respondedTime (s.dom (s.link l).core.slot).time m s.now a := by
  have hlink : ((s.responded l m a).link l).tc0.peerStratum = m.stratum.setWidth 4 := by
    rw [responded, modDom_linkAt, peerNoted, modLink_link_same]
  have htime : ((s.responded l m a).dom (s.link l).core.slot).time = respondedTime (s.dom (s.link l).core.slot).time m s.now a :=
    congrArg Dom.time (modDom_dom_same _ _ _)
  obtain ⟨c, hc⟩ := opTimeResp_of_exchange h hm hs a
  rw [hc]
  cases c
  · exact ⟨hlink, htime⟩
  · have hk : Keeps 0x100000 (s.responded l m a) ((s.responded l m a).timeMark (s.link l).core.slot) :=
      timeMark_keeps (Keeps.refl _ _) (by decide)
    rw [if_pos rfl, link, hk.links.resolve_left (by decide), ← link, dom, hk.doms.resolve_left (by decide), ← dom]
    exact ⟨hlink, htime⟩

end

end

/-! ### The offset applied (R416, R417) -/

section
variable {k : DomTime} {m : TimeMsg} {now : Time} {a : BitVec 64}

theorem respondedTime_of_part (h : m.t3prev = 0 ∨ k.t2prev = 0) :
    respondedTime k m now a = { k with t2prev := m.t2, t4prev := a, lastExchange := now } := by
  have hw : (m.t3prev != 0 && k.t2prev != 0) = false := by
    rw [Bool.and_eq_false_iff, bne_eq_false_iff_eq, bne_eq_false_iff_eq]
    exact h
  rw [respondedTime, hw]
  rfl

theorem respondedTime_of_whole (h3 : m.t3prev ≠ 0) (h2 : k.t2prev ≠ 0) :
    respondedTime k m now a = { applyTheta k (thetaOf k m) with t2prev := m.t2, t4prev := a, lastExchange := now } := by
  rw [respondedTime, bne_iff_ne.mpr h3, bne_iff_ne.mpr h2]
  rfl

section
variable {θ : Int}

theorem applyTheta_of_first (h : k.synced = false) :
    (applyTheta k θ).corr = k.corr + BitVec.ofInt 64 (θ / 8) ∧ (applyTheta k θ).synced = true := by
  unfold applyTheta
  dsimp only
  rw [h]
  exact ⟨rfl, rfl⟩

theorem applyTheta_of_step (h : k.synced = true) (hθ : 8000 < θ) :
    (applyTheta k θ).corr = k.corr + BitVec.ofInt 64 (θ / 8) ∧ (applyTheta k θ).stepped = true := by
  unfold applyTheta
  dsimp only
  rw [h, if_neg (by decide), if_pos hθ]
  exact ⟨rfl, rfl⟩

theorem applyTheta_of_small (h : k.synced = true) (hθ : θ ≤ 8000) :
    (applyTheta k θ).corr = k.corr ∧ (applyTheta k θ).residue = θ := by
  unfold applyTheta
  dsimp only
  rw [h, if_neg (by decide), if_neg (Int.not_lt.mpr hθ)]
  exact ⟨rfl, rfl⟩

/-- The step that an offset makes of a slot's time. -/
def thetaStep (k : DomTime) (θ : Int) : DomTime :=
  if !k.synced then { k with corr := k.corr + BitVec.ofInt 64 (θ / 8), residue := θ % 8, synced := true }
  else if 8000 < θ then { k with corr := k.corr + BitVec.ofInt 64 (θ / 8), residue := θ % 8, stepped := true }
  else { k with residue := θ }

theorem thetaStep_lock : (thetaStep k θ).run = k.run ∧ (thetaStep k θ).locked = k.locked := by
  unfold thetaStep
  split
  · exact ⟨rfl, rfl⟩
  · split <;> exact ⟨rfl, rfl⟩

/-- Whatever the step, the run of small offsets and the lock go on from where they were. -/
theorem applyTheta_lock : (applyTheta k θ).run = Nat.min (if θ.natAbs ≤ 80 then k.run + 1 else 0) 3 ∧
    (applyTheta k θ).locked =
      if 800 < θ.natAbs then false else k.locked || decide (3 ≤ if θ.natAbs ≤ 80 then k.run + 1 else 0) := by
  obtain ⟨hrun, hlocked⟩ := thetaStep_lock (k := k) (θ := θ)
  rw [← hrun, ← hlocked]
  exact ⟨rfl, rfl⟩

theorem applyTheta_unlocks (h : 800 < θ.natAbs) : (applyTheta k θ).locked = false ∧ (applyTheta k θ).run = 0 := by
  obtain ⟨hrun, hlocked⟩ := applyTheta_lock (k := k) (θ := θ)
  rw [hrun, hlocked, if_pos h, if_neg (show ¬ θ.natAbs ≤ 80 by omega)]
  exact ⟨rfl, rfl⟩

theorem applyTheta_locks (h : θ.natAbs ≤ 80) : (applyTheta k θ).run = Nat.min (k.run + 1) 3 ∧
    (2 ≤ k.run → (applyTheta k θ).locked = true) := by
  obtain ⟨hrun, hlocked⟩ := applyTheta_lock (k := k) (θ := θ)
  rw [hrun, hlocked, if_neg (show ¬ 800 < θ.natAbs by omega), if_pos h]
  refine ⟨rfl, fun hk => ?_⟩
  rw [decide_eq_true (by omega), Bool.or_true]

end

end

end State

open State in
/-- Settles O59: the exchange's start by the parent, its messages by their form, and the offset by its size. -/
theorem domainTime : Obligations.DomainTime := by
  unfold Obligations.DomainTime
  intro s d l m
  refine ⟨fun t1 => ⟨fun hd => exec_next rfl (opTimeTimer_of_outside hd), fun hd hs => exec_next rfl (opTimeTimer_of_source hd hs),
    fun p hd hs hp => ?_, fun hd hs hp hl => ?_, fun hd hs hl => ?_⟩, ?_, exec_next rfl rfl, fun hr => exec_next rfl (if_pos hr),
    fun hr => exec_next rfl (if_neg (by rw [hr]; exact Bool.false_ne_true)), exec_next rfl rfl⟩
  · refine ⟨s.withTime d (s.childTime d t1 p), exec_next rfl ((opTimeTimer_of_parent hd hs hp).trans ?_), rfl, ?_⟩
    · rw [timeBody_request, childTime_seq]
      rfl
    · rw [withTime_time]
      exact ⟨rfl, rfl, rfl, rfl⟩
  · refine ⟨s.withTime d (s.orphanTime d t1), exec_next rfl ((opTimeTimer_of_orphan hd hs hp).trans ?_), rfl, ?_⟩
    · rw [hl, List.foldl_cons, List.foldl_nil, timeBody_request]
      rfl
    · rw [withTime_time]
      rfl
  · refine ⟨s.withTime d (s.orphanTime d t1), exec_next rfl ((opTimeTimer_of_orphan hd hs (timeParent_of_no_link hl)).trans ?_), rfl, ?_⟩
    · rw [hl, List.foldl_nil]
    · rw [withTime_time]
      exact ⟨rfl, rfl⟩
  · intro e live k bad
    refine ⟨fun h => ⟨fun a b => exec_next rfl ((time_of_idle h).1 a b), fun a => exec_next rfl ((time_of_idle h).2 a)⟩,
      fun h hm => ⟨fun a b => exec_next rfl (opTimeReq_of_bad h (.inl (timeForm_of_bad hm)) a b),
        fun a => exec_next rfl (opTimeResp_of_bad h (timeForm_of_bad hm) a)⟩, fun h hz hst => ?_⟩
    have hm : timeForm m = true := timeForm_iff.mpr ⟨hz, hst⟩
    refine ⟨fun a b hstamps => exec_next rfl (opTimeReq_of_bad h (.inr hstamps) a b),
      fun a b h2 h3 => exec_next rfl (opTimeReq_of_formed h hm h2 h3 a b),
      fun a hstray => exec_next rfl (opTimeResp_of_stray h hm hstray a), fun a hd hseq hs15 hs0 hl => ?_⟩
    intro θ
    have hs : ¬ s.timeStray l m := by
      rintro (hx | hx | hx | hx | hx)
      · rw [show s.inDomain (s.link l).core.slot = true from hd] at hx
        cases hx
      · exact hx hseq
      · exact hs15 hx
      · exact hs0 hx
      · exact hx hl
    obtain ⟨hpeer, htime⟩ := opTimeResp_left h hm hs a
    refine ⟨_, exec_next rfl rfl, hpeer, ?_⟩
    rw [show (s.opTimeResp l m a).dom e = (s.opTimeResp l m a).dom (s.link l).core.slot from rfl, htime]
    refine ⟨rfl, rfl, rfl, fun hpart => ?_, fun h3 h2 => ?_⟩
    · rw [respondedTime_of_part hpart]
      exact ⟨rfl, rfl⟩
    · rw [respondedTime_of_whole h3 h2]
      exact ⟨fun hy => applyTheta_of_first hy, fun hy hθ => applyTheta_of_step hy hθ, fun hy hθ => applyTheta_of_small hy hθ,
        fun hθ => applyTheta_unlocks hθ, fun hθ => applyTheta_locks hθ⟩

end Sys2Proof.Machine
end

section
/-! PROOFS. The binding requests of virtual devices (O60). -/

namespace Sys2Proof.Machine

namespace State

/-! ### The checks of Table 17-3, request by request -/

/-- A slot that is a Fragment takes no resource and no virtual device. -/
def fragmentGate (s : State) (o : Option Slot) : Option Status :=
  match o with
  | some d => if s.isFragment d then some stFragment else none
  | none => none

/-- Contexts of a virtual device that are not FREE. -/
def vdBusy (s : State) (v : VdId) : Bool := s.liveCtxs.any fun c => (s.ctx c).vd == some v

section
variable {s : State} {v w : VdId} {o : Option Slot} {k : BitVec 2} {i : BitVec 8}

/-- The resource a request names. -/
def resOf (v : VdId) (k : BitVec 2) (i : BitVec 8) : VdReq := (vdReq0 0 v).withRes k i

theorem vdCheck_create : s.vdCheck ((vdReq0 1 v).withSlot o) =
    if (s.vdev v).present then some stCtxBusy else s.fragmentGate o := by
  cases o <;> rfl

theorem vdCheck_destroy : s.vdCheck (vdReq0 2 v) =
    if !(s.vdev v).present then some stNoVd else if s.vdBusy v then some stCtxBusy else none := by
  unfold vdCheck
  dsimp only
  rw [show (vdReq0 2 v).vd = v from rfl]
  cases (s.vdev v).present <;> rfl

theorem vdCheck_slot : s.vdCheck ((vdReq0 6 v).withSlot o) =
    if !(s.vdev v).present then some stNoVd else if s.vdBusy v then some stCtxBusy else s.fragmentGate o := by
  unfold vdCheck
  dsimp only
  rw [show ((vdReq0 6 v).withSlot o).vd = v from rfl]
  cases o <;> cases (s.vdev v).present <;> rfl

/-- Another virtual device holds the resource. -/
def heldByOther (s : State) (v : VdId) (k : BitVec 2) (i : BitVec 8) : Bool :=
  match s.holderOf (resOf v k i) with
  | none => false
  | some q => q != v

/-- A key index that a virtual device's slot cannot scope. -/
def scopeBad (s : State) (v : VdId) (i : BitVec 8) : Bool :=
  (s.vdev v).slot.isNone || ((s.memIdx (i.setWidth 4)).assigned && some (s.memIdx (i.setWidth 4)).slot != (s.vdev v).slot)

/-- The checks of a request for a resource that come first. -/
def resGate (s : State) (v : VdId) (k : BitVec 2) (i : BitVec 8) (present : Bool) : Option Status :=
  if !vdRangeOk (resOf v k i) then some stLengthRange
  else if !present then some stNoVd
  else if k = 3 && s.poolRole then some stRoleMismatch
  else none

theorem vdCheck_bind : s.vdCheck ((vdReq0 3 v).withRes k i) =
    (s.resGate v k i (s.vdev v).present).or
      (if k ≠ 2 && s.heldByOther v k i then some stRights
       else if k = 2 && s.scopeBad v i then some stKeyScope
       else s.fragmentGate (s.vdev v).slot) := by
  unfold vdCheck resGate
  dsimp only
  rw [show ((vdReq0 3 v).withRes k i).vd = v from rfl, show ((vdReq0 3 v).withRes k i).kind = k from rfl,
    show vdRangeOk ((vdReq0 3 v).withRes k i) = vdRangeOk (resOf v k i) from rfl]
  cases vdRangeOk (resOf v k i)
  · rfl
  · cases (s.vdev v).present
    · rfl
    · cases s.poolRole <;> cases decide (k = 3) <;> rfl

theorem vdCheck_unbind : s.vdCheck ((vdReq0 4 v).withRes k i) =
    (s.resGate v k i (s.vdev v).present).or (if !s.boundTo (resOf v k i) v then some stRights else none) := by
  unfold vdCheck resGate
  dsimp only
  rw [show ((vdReq0 4 v).withRes k i).vd = v from rfl, show ((vdReq0 4 v).withRes k i).kind = k from rfl,
    show vdRangeOk ((vdReq0 4 v).withRes k i) = vdRangeOk (resOf v k i) from rfl]
  cases vdRangeOk (resOf v k i)
  · rfl
  · cases (s.vdev v).present
    · rfl
    · cases s.poolRole <;> cases decide (k = 3) <;> rfl

/-- The request that moves a resource. -/
def moveReq (v w : VdId) (k : BitVec 2) (i : BitVec 8) : VdReq := { (vdReq0 5 v).withRes k i with toVd := w }

theorem vdCheck_move : s.vdCheck (moveReq v w k i) =
    (s.resGate v k i ((s.vdev v).present && (s.vdev w).present)).or
      (if k ≠ 2 && s.heldByOther v k i then some stRights
       else if !s.boundTo (resOf v k i) v then some stRights
       else if k = 2 && s.scopeBad w i then some stKeyScope
       else s.fragmentGate (s.vdev w).slot) := by
  unfold vdCheck resGate
  dsimp only
  rw [show (moveReq v w k i).vd = v from rfl, show (moveReq v w k i).dest = w from rfl,
    show (moveReq v w k i).kind = k from rfl, show vdRangeOk (moveReq v w k i) = vdRangeOk (resOf v k i) from rfl]
  cases vdRangeOk (resOf v k i)
  · rfl
  · cases (s.vdev v).present
    · rfl
    · cases (s.vdev w).present
      · rfl
      · cases s.poolRole <;> cases decide (k = 3) <;> rfl

/-! ### Requests to their ends (R522) -/

/-- A request that has ended with its status. -/
def vdDone (u : State) (st : Status) : State :=
  ({ u with vd := { u.vd with busy := false, done := true, status := st } } : State).msiPf

theorem opVd_of_off (h : s.vdOn = false) (r : VdReq) : s.opVd r = s := if_neg (by rw [h]; exact Bool.false_ne_true)

section
variable {r : VdReq} (hon : s.vdOn = true) (hop : r.op ≠ 0)
include hon hop

theorem opVd_of_refused {st : Status} (h : s.vdCheck r = some st) : s.opVd r = s.vdDone st := by
  refine (if_pos hon).trans ((if_neg hop).trans ?_)
  unfold vdRequest
  rw [h]
  rfl

theorem opVd_of_taken (h : s.vdCheck r = none) {u : State} (hu : s.vdEffect r = u) : s.opVd r = u.vdDone stOk := by
  refine (if_pos hon).trans ((if_neg hop).trans ?_)
  unfold vdRequest
  rw [h, ← hu]
  rfl

end

theorem fragmentGate_of_whole (h : ∀ d, o = some d → s.isFragment d = false) : s.fragmentGate o = none := by
  unfold fragmentGate
  cases o with
  | none => rfl
  | some d => exact if_neg (by rw [h d rfl]; exact Bool.false_ne_true)

theorem fragmentGate_of_fragment {d : Slot} (h : o = some d) (hf : s.isFragment d = true) :
    s.fragmentGate o = some stFragment := by
  rw [h]
  exact if_pos hf

/-! ### What a resource's first checks find -/

/-- The range of a resource's index. -/
def inRange (k : BitVec 2) (i : BitVec 8) : Prop :=
  (k = 0 → i.toNat < 32) ∧ (k = 1 → i.toNat < 64) ∧ (k = 2 → 1 ≤ i.toNat ∧ i.toNat ≤ 15)

theorem vdRangeOk_iff : vdRangeOk (resOf v k i) = true ↔ inRange k i := by
  have hkind : (resOf v k i).kind = k := rfl
  have hindex : (resOf v k i).index = i := rfl
  unfold vdRangeOk inRange
  rw [hkind, hindex]
  by_cases h0 : k = 0
  · subst h0
    simp
  · by_cases h1 : k = 1
    · subst h1
      simp
    · by_cases h2 : k = 2
      · subst h2
        simp
      · rw [if_neg h0, if_neg h1, if_neg h2]
        exact ⟨fun _ => ⟨fun h => absurd h h0, fun h => absurd h h1, fun h => absurd h h2⟩, fun _ => rfl⟩

theorem resGate_of_range (h : ¬ inRange k i) (p : Bool) : s.resGate v k i p = some stLengthRange :=
  if_pos (by rw [Bool.not_eq_true', ← Bool.not_eq_true, vdRangeOk_iff]; exact h)

section
variable (h : inRange k i)
include h

theorem resGate_of_absent : s.resGate v k i false = some stNoVd := by
  rw [resGate, vdRangeOk_iff.mpr h]
  rfl

theorem resGate_of_pool (hk : k = 3) (hp : s.poolRole = true) : s.resGate v k i true = some stRoleMismatch := by
  rw [resGate, vdRangeOk_iff.mpr h, hk, hp]
  rfl

theorem resGate_of_passed (hp : k = 3 → s.poolRole = false) : s.resGate v k i true = none := by
  rw [resGate, vdRangeOk_iff.mpr h]
  refine (if_neg (by decide)).trans ((if_neg (by decide)).trans (if_neg fun hc => ?_))
  rw [Bool.and_eq_true, decide_eq_true_iff] at hc
  rw [hp hc.1] at hc
  cases hc.2

end

theorem heldByOther_of_other {q : VdId} (h : s.holderOf (resOf v k i) = some q) (hq : q ≠ v) : s.heldByOther v k i = true := by
  rw [heldByOther, h]
  exact bne_iff_ne.mpr hq

theorem heldByOther_of_own (h : s.holderOf (resOf v k i) = none ∨ s.holderOf (resOf v k i) = some v) :
    s.heldByOther v k i = false := by
  rw [heldByOther]
  rcases h with h | h
  · rw [h]
  · rw [h]
    exact bne_self_eq_false v

theorem scopeBad_iff : s.scopeBad v i = true ↔ (s.vdev v).slot = none ∨
    ((s.memIdx (i.setWidth 4)).assigned = true ∧ (s.vdev v).slot ≠ some (s.memIdx (i.setWidth 4)).slot) := by
  rw [scopeBad, Bool.or_eq_true, Option.isNone_iff_eq_none, Bool.and_eq_true, bne_iff_ne, ne_comm]

/-! ### Effects (Table 17-2, R510) -/

theorem vdEffect_destroy : s.vdEffect (vdReq0 2 v) = s.destroyVd v := rfl

theorem vdEffect_create : s.vdEffect ((vdReq0 1 v).withSlot o) = (s.setVdev v { present := true, slot := o }).rosterOpt o := by
  cases o <;> rfl

theorem vdEffect_slot : s.vdEffect ((vdReq0 6 v).withSlot o) = s.moveVd v o := by
  cases o <;> rfl

theorem vdEffect_bind_bound (h : s.boundTo (resOf v k i) v = true) : s.vdEffect ((vdReq0 3 v).withRes k i) = s :=
  if_pos h

theorem vdEffect_bind_new (h : s.boundTo (resOf v k i) v = false) : s.vdEffect ((vdReq0 3 v).withRes k i) =
    if k = 1 then (s.bindRes (resOf v k i) v).rosterOpt ((s.bindRes (resOf v k i) v).vdSlot v)
    else s.bindRes (resOf v k i) v := by
  have hnew : ¬ s.boundTo (resOf v k i) v = true := by
    rw [h]
    exact Bool.false_ne_true
  exact if_neg hnew

/-- A virtual device with one more key index. -/
def withKey (s : State) (v : VdId) (i : BitVec 8) : State :=
  s.modVdev v fun y => { y with keys := setBitTo y.keys i.toNat true }

/-- A key index that is bound takes the slot's scope, where no slot has assigned it yet. -/
theorem bindRes_key {d : Slot} (h : (s.vdev v).slot = some d) : s.bindRes (resOf v 2 i) v =
    if (s.memIdx (i.setWidth 4)).assigned then s.withKey v i else (s.withKey v i).assignIndex (i.setWidth 4) d := by
  have hslot : ((s.withKey v i).vdev v).slot = some d := (congrArg Vd.slot (modVdev_vdev_same _ _ _)).trans h
  have hbind : s.bindRes (resOf v 2 i) v = match ((s.withKey v i).vdev v).slot with
    | some d => if (s.memIdx (i.setWidth 4)).assigned then s.withKey v i else (s.withKey v i).assignIndex (i.setWidth 4) d
    | none => s.withKey v i := rfl
  rw [hbind, hslot]

/-- A virtual device with one more link. -/
def withLink (s : State) (v : VdId) (i : BitVec 8) : State :=
  s.modVdev v fun y => { y with links := setBitTo y.links i.toNat true }

theorem withLink_slot : (s.withLink v i).vdSlot v = (s.vdev v).slot := by
  rw [vdSlot, withLink, modVdev_vdev_same]

theorem vdEffect_unbind : s.vdEffect ((vdReq0 4 v).withRes k i) =
    if k = 1 then (s.removeRes (resOf v k i) v none).rosterOpt (s.vdev v).slot else s.removeRes (resOf v k i) v none := rfl

theorem vdEffect_move_chan : s.vdEffect (moveReq v w 0 i) =
    (s.removeRes (resOf v 0 i) v (s.vdev w).slot).modVdev w fun y => { y with chans := setBitTo y.chans i.toNat true } := rfl

theorem filter_getLsbD_zero {α : Type} {n : Nat} {x : BitVec n} (h : x = 0) (f : α → Nat) (xs : List α) :
    (xs.filter fun a => x.getLsbD (f a)) = [] :=
  List.filter_eq_nil_iff.mpr fun a _ => by
    rw [h, BitVec.ofNat_eq_ofNat, BitVec.getLsbD_zero]
    exact Bool.false_ne_true

theorem destroyVd_of_bare (hc : (s.vdev v).chans = 0) (hl : (s.vdev v).links = 0) (hk : (s.vdev v).keys = 0)
    (hp : (s.vdev v).progs = 0) : s.destroyVd v = (s.setVdev v {}).rosterOpt (s.vdev v).slot := by
  unfold destroyVd
  dsimp only
  rw [filter_getLsbD_zero hk, filter_getLsbD_zero hp, filter_getLsbD_zero hc, filter_getLsbD_zero hl]
  rfl

theorem moveVd_of_same (h : (s.vdev v).slot = o) : s.moveVd v o = s := if_pos h

/-- A virtual device without a slot and with nothing to cross takes its slot. -/
theorem moveVd_of_bare (h : (s.vdev v).slot = none) (hl : (s.vdev v).links = 0) (hk : (s.vdev v).keys = 0)
    (hp : (s.vdev v).progs = 0) {d : Slot} :
    s.moveVd v (some d) = (s.modVdev v fun x => { x with slot := some d }).rosterChange d := by
  unfold moveVd
  dsimp only
  rw [h, if_neg nofun, filter_getLsbD_zero hk, filter_getLsbD_zero hp, filter_getLsbD_zero hl]
  have hchans (cs : List ChanId) : cs.foldl (fun (s : State) c => s.crossChan c none (some d)) s = s :=
    foldl_eq_of_fixed fun _ _ => rfl
  rw [List.foldl_nil, List.foldl_nil, List.foldl_nil, hchans]
  rfl

theorem faultMem_of_none (hp : s.red.progs = []) (p : Trans → Bool) : s.faultMem v p = s := by
  unfold faultMem progsInUse
  rw [hp]
  rfl

theorem dropObjs_of_none (ho : s.fe.objs = []) (p : Obj → Bool) : s.dropObjs v p = s := by
  refine foldl_eq_of_fixed fun c _ => ?_
  unfold objsOf
  rw [ho]
  rfl

/-- A channel of no slot leaves a virtual device with nothing loaded and nothing mapped. -/
theorem removeRes_of_bare (h : (s.vdev v).slot = none) (hp : s.red.progs = []) (ho : s.fe.objs = []) (hi : i.toNat < 32) :
    s.removeRes (resOf v 0 i) v none = s.modVdev v fun y => { y with chans := setBitTo y.chans i.toNat false } := by
  have hchan : (resOf v 0 i).chan.toNat = i.toNat := by
    show (i.setWidth 5).toNat = i.toNat
    rw [BitVec.toNat_setWidth]
    omega
  have hremove : s.removeRes (resOf v 0 i) v none =
      (s.removeChan v (resOf v 0 i).chan).crossChan (resOf v 0 i).chan (s.vdev v).slot none := rfl
  rw [hremove, h, removeChan, faultMem_of_none hp, dropObjs_of_none ho, hchan]
  rfl

end

end State

open State in
/-- Settles O60: each request by its first failing check, else by its effect. -/
theorem virtualDevices : Obligations.VirtualDevices := by
  unfold Obligations.VirtualDevices
  intro s v w o k i done r x ctxs range
  have h1 : (1 : BitVec 3) ≠ 0 := by decide
  have h2 : (2 : BitVec 3) ≠ 0 := by decide
  have h3 : (3 : BitVec 3) ≠ 0 := by decide
  have h4 : (4 : BitVec 3) ≠ 0 := by decide
  have h5 : (5 : BitVec 3) ≠ 0 := by decide
  have h6 : (6 : BitVec 3) ≠ 0 := by decide
  have hend {c : Instr} {q : VdReq} (hexec : exec c s = settled (s.opVd q)) {t : State} (h : s.opVd q = t) :
      exec c s = .next t.settleAll := exec_next hexec (congrArg State.settleAll h)
  refine ⟨fun hoff c hc => ?_, fun hon => ?_⟩
  · simp only [List.mem_cons, List.not_mem_nil, or_false] at hc
    rcases hc with rfl | rfl | rfl | rfl | rfl | rfl
    all_goals exact hend rfl (opVd_of_off hoff _)
  have hcreate {st : Status} (h : s.vdCheck ((vdReq0 1 v).withSlot o) = some st) : exec (.vdCreate v o) s = done s st :=
    hend rfl (opVd_of_refused hon h1 h)
  have hdestroy {st : Status} (h : s.vdCheck (vdReq0 2 v) = some st) : exec (.vdDestroy v) s = done s st :=
    hend rfl (opVd_of_refused hon h2 h)
  have hslot {st : Status} (h : s.vdCheck ((vdReq0 6 v).withSlot o) = some st) : exec (.vdSlot v o) s = done s st :=
    hend rfl (opVd_of_refused hon h6 h)
  have hbind {st : Status} (h : s.vdCheck ((vdReq0 3 v).withRes k i) = some st) : exec (.bind k i v) s = done s st :=
    hend rfl (opVd_of_refused hon h3 h)
  have hunbind {st : Status} (h : s.vdCheck ((vdReq0 4 v).withRes k i) = some st) : exec (.unbind k i v) s = done s st :=
    hend rfl (opVd_of_refused hon h4 h)
  have hmove {st : Status} (h : s.vdCheck (moveReq v w k i) = some st) : exec (.move k i v w) s = done s st :=
    hend rfl (opVd_of_refused hon h5 h)
  refine ⟨fun hp => hcreate (vdCheck_create.trans (if_pos hp)), fun hp => ?_, fun hr => ?_, fun hp hb => ?_, fun hp hb => ?_,
    fun hp hr => ?_⟩
  · have hp' : (s.vdev v).present = false := hp
    have habsent : (!(s.vdev v).present) = true := by
      rw [hp']
      rfl
    refine ⟨hdestroy (vdCheck_destroy.trans (if_pos habsent)), hslot (vdCheck_slot.trans (if_pos habsent)), fun hr => ?_,
      fun d hd hf => ?_, fun hf => ?_⟩
    · have hgate := resGate_of_absent (s := s) (v := v) hr
      refine ⟨hbind ?_, hunbind ?_, hmove ?_⟩
      · rw [vdCheck_bind, hp', hgate]
        rfl
      · rw [vdCheck_unbind, hp', hgate]
        rfl
      · rw [vdCheck_move, hp', Bool.false_and, hgate]
        rfl
    · refine hcreate (vdCheck_create.trans ?_)
      rw [hp']
      exact fragmentGate_of_fragment hd hf
    · refine hend rfl (opVd_of_taken hon h1 (vdCheck_create.trans ?_) vdEffect_create)
      rw [hp']
      exact fragmentGate_of_whole hf
  · refine ⟨hbind ?_, hunbind ?_, hmove ?_⟩
    · rw [vdCheck_bind, resGate_of_range hr]
      rfl
    · rw [vdCheck_unbind, resGate_of_range hr]
      rfl
    · rw [vdCheck_move, resGate_of_range hr]
      rfl
  · have hp' : (s.vdev v).present = true := hp
    have hb' : s.vdBusy v = true := hb
    refine ⟨hdestroy (vdCheck_destroy.trans ?_), hslot (vdCheck_slot.trans ?_)⟩
    · rw [hp', hb']
      rfl
    · rw [hp', hb']
      rfl
  · have hp' : (s.vdev v).present = true := hp
    have hb' : s.vdBusy v = false := hb
    have hpass : s.vdCheck (vdReq0 2 v) = none := vdCheck_destroy.trans (by rw [hp', hb']; rfl)
    have hgate : s.vdCheck ((vdReq0 6 v).withSlot o) = s.fragmentGate o := vdCheck_slot.trans (by rw [hp', hb']; rfl)
    refine ⟨hend rfl (opVd_of_taken hon h2 hpass vdEffect_destroy), fun hc hl hk hg => ?_, fun d hd hf => ?_, fun hf => ?_⟩
    · exact hend rfl (opVd_of_taken hon h2 hpass (vdEffect_destroy.trans (destroyVd_of_bare hc hl hk hg)))
    · exact hslot (hgate.trans (fragmentGate_of_fragment hd hf))
    · have hwhole := hgate.trans (fragmentGate_of_whole hf)
      refine ⟨hend rfl (opVd_of_taken hon h6 hwhole vdEffect_slot), fun hs => ?_, fun hs hl hk hg => ?_⟩
      · exact hend rfl (opVd_of_taken hon h6 hwhole (vdEffect_slot.trans (moveVd_of_same hs)))
      · refine ⟨_, hend rfl (opVd_of_taken hon h6 hwhole vdEffect_slot), ?_⟩
        rintro (rfl | ⟨d, rfl, hd⟩)
        · rw [moveVd_of_same hs, ← hs]
        · rw [moveVd_of_bare hs hl hk hg, rosterChange_of_free (s := s.modVdev v fun x => { x with slot := some d }) hd]
          exact modVdev_vdev_same _ _ _
  · have hp' : (s.vdev v).present = true := hp
    refine ⟨fun hk hpool => ⟨hbind ?_, hunbind ?_⟩, fun hw => hmove ?_, fun hpool => ?_⟩
    · rw [vdCheck_bind, hp', resGate_of_pool hr hk hpool]
      rfl
    · rw [vdCheck_unbind, hp', resGate_of_pool hr hk hpool]
      rfl
    · rw [vdCheck_move, hw, Bool.and_false, resGate_of_absent hr]
      rfl
    have hgate := resGate_of_passed (s := s) (v := v) hr hpool
    have hcheckBind : s.vdCheck ((vdReq0 3 v).withRes k i) =
        if k ≠ 2 && s.heldByOther v k i then some stRights else if k = 2 && s.scopeBad v i then some stKeyScope
        else s.fragmentGate (s.vdev v).slot := by
      rw [vdCheck_bind, hp', hgate]
      rfl
    have hcheckUnbind : s.vdCheck ((vdReq0 4 v).withRes k i) =
        if !s.boundTo (resOf v k i) v then some stRights else none := by
      rw [vdCheck_unbind, hp', hgate]
      rfl
    have hcheckMove (hw : (s.vdev w).present = true) : s.vdCheck (moveReq v w k i) =
        if k ≠ 2 && s.heldByOther v k i then some stRights else if !s.boundTo (resOf v k i) v then some stRights
        else if k = 2 && s.scopeBad w i then some stKeyScope else s.fragmentGate (s.vdev w).slot := by
      rw [vdCheck_move, hp', hw, Bool.and_self, hgate]
      rfl
    have hfree (hk : k ≠ 2) (hh : s.holderOf r = none ∨ s.holderOf r = some v) :
        s.vdCheck ((vdReq0 3 v).withRes k i) = s.fragmentGate (s.vdev v).slot := by
      rw [hcheckBind, heldByOther_of_own hh, decide_eq_false hk, Bool.and_false, if_neg Bool.false_ne_true, Bool.false_and,
        if_neg Bool.false_ne_true]
    have hkey (hk : k = 2) : s.vdCheck ((vdReq0 3 v).withRes k i) =
        if s.scopeBad v i then some stKeyScope else s.fragmentGate (s.vdev v).slot := by
      rw [hcheckBind, hk]
      rfl
    refine ⟨fun q hk hq hne => hbind ?_, fun hb => ⟨hunbind ?_, fun hw => hmove ?_⟩, fun hk hscope => hbind ?_,
      fun d hd hf hk hh => hbind ((hfree hk hh).trans (fragmentGate_of_fragment hd hf)), fun hf hb hk hh => ?_,
      fun d hd hf hb hk => ?_, fun hf hb hk hh => ?_, fun hb => ?_, fun hb hk hs hprogs hobjs => ?_, fun hb hk hh hw hf => ?_⟩
    · rw [hcheckBind, heldByOther_of_other hq hne, decide_eq_true hk]
      rfl
    · rw [hcheckUnbind, show s.boundTo (resOf v k i) v = false from hb]
      rfl
    · rw [hcheckMove hw, show s.boundTo (resOf v k i) v = false from hb]
      exact ite_self _
    · rw [hkey hk, scopeBad_iff.mpr hscope, if_pos rfl]
    · have hpass := (hfree hk (.inl hh)).trans (fragmentGate_of_whole hf)
      have heffect := vdEffect_bind_new hb
      refine ⟨fun hk0 => ?_, fun hk1 => ?_, fun hk3 => ?_⟩
      · subst hk0
        exact hend rfl (opVd_of_taken hon h3 hpass heffect)
      · subst hk1
        refine hend rfl (opVd_of_taken hon h3 hpass ((heffect.trans (if_pos rfl)).trans ?_))
        exact congrArg (rosterOpt _) withLink_slot
      · subst hk3
        exact hend rfl (opVd_of_taken hon h3 hpass heffect)
    · have heffect := vdEffect_bind_new hb
      subst hk
      have hkeyed := heffect.trans ((if_neg (by decide)).trans (bindRes_key (i := i) hd))
      have hpass (hs : s.scopeBad v i = false) : s.vdCheck ((vdReq0 3 v).withRes 2 i) = none := by
        rw [hkey rfl, hs, if_neg Bool.false_ne_true]
        exact fragmentGate_of_whole fun e he => by rw [← Option.some.inj (hd.symm.trans he)]; exact hf
      refine ⟨fun ha hslot => ?_, fun ha => ?_⟩
      · refine hend rfl (opVd_of_taken hon h3 (hpass ?_) (hkeyed.trans (if_pos ha)))
        rw [← Bool.not_eq_true, scopeBad_iff, show (s.vdev v).slot = some d from hd, hslot]
        exact fun h => h.elim nofun fun h => h.2 rfl
      · refine hend rfl (opVd_of_taken hon h3 (hpass ?_) (hkeyed.trans (if_neg (by rw [ha]; exact Bool.false_ne_true))))
        rw [← Bool.not_eq_true, scopeBad_iff, show (s.vdev v).slot = some d from hd, ha]
        exact fun h => h.elim nofun fun h => Bool.false_ne_true h.1
    · exact hend rfl (opVd_of_taken hon h3 ((hfree hk (.inr hh)).trans (fragmentGate_of_whole hf)) (vdEffect_bind_bound hb))
    · have hpass : s.vdCheck ((vdReq0 4 v).withRes k i) = none := by
        rw [hcheckUnbind, show s.boundTo (resOf v k i) v = true from hb]
        rfl
      exact hend rfl (opVd_of_taken hon h4 hpass vdEffect_unbind)
    · have hpass : s.vdCheck ((vdReq0 4 v).withRes k i) = none := by
        rw [hcheckUnbind, show s.boundTo (resOf v k i) v = true from hb]
        rfl
      subst hk
      exact hend rfl (opVd_of_taken hon h4 hpass (vdEffect_unbind.trans (removeRes_of_bare hs hprogs hobjs (hr.1 rfl))))
    · have hpass : s.vdCheck (moveReq v w k i) = none := by
        rw [hcheckMove hw, heldByOther_of_own (.inr hh), show s.boundTo (resOf v k i) v = true from hb, hk]
        exact fragmentGate_of_whole hf
      subst hk
      exact hend rfl (opVd_of_taken hon h5 hpass vdEffect_move_chan)

end Sys2Proof.Machine
end

section
/-! PROOFS. What the discarding of work leaves of contexts and engines: a context that a reset holds stays RESETTING or FAULTED,
and the times of an engine's unattributed stalls stand (O18, O19). -/

namespace Sys2Proof.Machine

/-- The phases a Comma leaves a context in until it is freed or re-armed. -/
def CtxPhase.down (p : CtxPhase) : Prop := p = .resetting ∨ p = .faulted

namespace State

/-- A context that is down stays down, and no engine's unattributed stalls change. -/
structure Tame (s t : State) : Prop where
  ctx : ∀ c, (s.ctx c).phase.down → (t.ctx c).phase.down
  eng : ∀ e, (t.eng e).unattributed = (s.eng e).unattributed

theorem Tame.refl (s : State) : Tame s s := ⟨fun _ h => h, fun _ => rfl⟩

theorem Tame.trans {s t u : State} (h : Tame s t) (g : Tame t u) : Tame s u :=
  ⟨fun c hc => g.ctx c (h.ctx c hc), fun e => (g.eng e).trans (h.eng e)⟩

/-- Contexts and engines stand. -/
theorem Tame.same {a s t : State} (h : Tame a s) (hc : t.fe.ctxs = s.fe.ctxs) (he : t.flt.eng = s.flt.eng) : Tame a t where
  ctx c hd := by
    have e : t.ctx c = s.ctx c := by rw [State.ctx, hc, ← State.ctx]
    exact e ▸ h.ctx c hd
  eng e := by rw [State.eng, he, ← State.eng, h.eng e]

/-- The front end and the faults stand. -/
theorem Tame.part {a s t : State} (h : Tame a s) (k : Keeps 0xFEDFFF s t) : Tame a t :=
  h.same (congrArg Fe.ctxs (k.fe.resolve_left (by decide))) (congrArg Flt.eng (k.flt.resolve_left (by decide)))

theorem Tame.foldl {β : Type} {a : State} {f : State → β → State} (hf : ∀ t x, Tame a t → Tame a (f t x)) (xs : List β)
    {s : State} (h : Tame a s) : Tame a (xs.foldl f s) := by
  induction xs generalizing s with
  | nil => exact h
  | cons x xs ih => exact ih (hf s x h)

theorem Tame.setCtx {a s : State} (h : Tame a s) {c : CtxId} {x : Ctx} (hx : (s.ctx c).phase.down → x.phase.down) :
    Tame a (s.setCtx c x) where
  ctx y hy := by
    rcases eq_or_ne y c with rfl | hne
    · rw [setCtx_ctx_same]
      exact hx (h.ctx y hy)
    · rw [setCtx_ctx_ne _ _ _ _ hne]
      exact h.ctx y hy
  eng := h.eng

theorem Tame.modCtx {a s : State} (h : Tame a s) {c : CtxId} {f : Ctx → Ctx} (hf : ∀ k : Ctx, k.phase.down → (f k).phase.down) :
    Tame a (s.modCtx c f) := h.setCtx (hf _)

theorem Tame.modEng {a s : State} (h : Tame a s) {e : Nat} {f : FltEng → FltEng}
    (hf : ∀ g : FltEng, (f g).unattributed = g.unattributed) : Tame a (s.modEng e f) where
  ctx := h.ctx
  eng y := by
    rcases eq_or_ne y e with rfl | hne
    · rw [modEng_eng_same, hf, h.eng]
    · rw [modEng_eng_ne _ _ _ _ hne, h.eng]

theorem Tame.progress {a s : State} (h : Tame a s) (e : Nat) : Tame a (s.progress e) := h.modEng fun _ => rfl

/-! ### Memory -/

theorem Tame.activity {a s : State} (h : Tame a s) (c : Option CtxId) (n : Nat) : Tame a (s.activity c n) := by
  cases c with
  | none => exact h.same rfl rfl
  | some x => exact h.modCtx (f := fun k => { k with activity := k.activity + n }) fun _ hk => hk

theorem Tame.memEnd {a s : State} (h : Tame a s) (m : Master) (tag : Option MemTag) (d : Dpa) (st : Status) (al : Bool) :
    Tame a (s.memEnd m tag d st al) := h.part (memEnd_keeps (Keeps.refl _ s) (by decide))

theorem Tame.count {a s : State} (h : Tame a s) (k n : Nat) : Tame a (s.count k n) :=
  h.part (count_keeps (Keeps.refl _ s) (by decide))

theorem Tame.mcIssue {a s t : State} (h : Tame a s) {i : KeyIdx} {d : Dpa} {p : McPurpose} {w : Option (Line × BitVec 32)}
    {tag : Option MemTag} (ht : s.mcIssue i d p w tag = some t) : Tame a t := by
  unfold State.mcIssue at ht
  dsimp only at ht
  split at ht
  · cases ht
  · split at ht
    · cases ht
    · have hc := fun q => ((h.same (t := { s with mem.out := s.mem.out ++ [q] }) rfl rfl).progress (dpaChan d).toNat).count
        (if w.isSome then 6 else 5) 1
      cases w with
      | none =>
        cases ht
        exact (hc _).same rfl rfl
      | some x =>
        cases ht
        exact (hc _).same rfl rfl

theorem Tame.noteSealed {a s : State} (h : Tame a s) (m : Master) (i : KeyIdx) (d : Dpa) : Tame a (s.noteSealed m i d) := by
  unfold State.noteSealed
  dsimp only
  refine Tame.activity ?_ _ _
  have hk := h.part (useKey_keeps (r := s.writeRowOf i) (n := 6) (Keeps.refl _ s) (by decide))
  have hw := hk.same (t := (s.useKey (s.writeRowOf i) 6).modChan (dpaChan d) fun c =>
    { c with written := setBitTo c.written i.toNat true }) rfl rfl
  split
  · exact hw.part (meter_keeps (Keeps.refl _ _) (by decide))
  · exact hw

theorem Tame.mcWrite {a s t : State} (h : Tame a s) {m : Master} {i : KeyIdx} {d : Dpa} {x : Line} {tag : Option MemTag}
    (ht : s.mcWrite m i d x tag = some t) : Tame a t := by
  unfold State.mcWrite at ht
  split at ht
  · cases ht
    exact (h.same (t := s.record recKeyOrphan i.toNat) rfl rfl).memEnd _ _ _ _ _
  · obtain ⟨u, hu, rfl⟩ := Option.map_eq_some_iff.mp ht
    exact (h.mcIssue hu).noteSealed _ _ _

theorem Tame.memTry {a s t : State} (h : Tame a s) {before : List MemWait} {w : MemWait} (ht : s.memTry before w = some t) :
    Tame a t := by
  unfold State.memTry at ht
  dsimp only at ht
  split at ht
  · cases ht
  · split at ht
    · cases hm : masterCtx w.master with
      | none =>
        rw [hm] at ht
        dsimp only at ht
        split at ht
        · cases ht
        · obtain ⟨u, hu, rfl⟩ := Option.map_eq_some_iff.mp ht
          exact h.mcIssue hu
      | some x =>
        rw [hm] at ht
        dsimp only at ht
        split at ht
        · cases ht
        · obtain ⟨u, hu, rfl⟩ := Option.map_eq_some_iff.mp ht
          exact Tame.foldl (fun t r g => g.same (t := t.addConsumer x r) rfl rfl) _ (h.mcIssue hu)
    · split at ht
      · cases ht
      · split at ht
        · split at ht
          · cases ht
          · cases ht
            exact h.same rfl rfl
        · split at ht
          · exact h.mcWrite ht
          · exact h.mcIssue ht

theorem Tame.noteWaits {a s : State} (h : Tame a s) (w : MemWait) : Tame a (s.noteWaits w) :=
  h.part (noteWaits_keeps (Keeps.refl _ s) (by decide))

theorem Tame.memPumpAux {a : State} (ws kept : List MemWait) {s : State} (h : Tame a s) :
    Tame a (State.memPumpAux ws kept s) := by
  induction ws generalizing kept s with
  | nil => exact h.same rfl rfl
  | cons w ws ih =>
    rw [State.memPumpAux]
    split
    · exact ih kept (h.memEnd _ _ _ _ _)
    · split
      · next t ht => exact ih kept (h.memTry ht)
      · exact ih _ (h.noteWaits w)

theorem Tame.memPump {a s : State} (h : Tame a s) : Tame a s.memPump := h.memPumpAux _ _

theorem Tame.fenceReleaseAux {a : State} (es kept : List FenceEntry) {s : State} (h : Tame a s) :
    Tame a (State.fenceReleaseAux es kept s) := by
  induction es generalizing kept s with
  | nil => exact h.same rfl rfl
  | cons e es ih =>
    rw [State.fenceReleaseAux]
    split
    · next t ht =>
      refine ih kept ?_
      split at ht
      · cases ht
        exact h.memEnd _ _ _ _ _
      · split at ht
        · cases ht
        · split at ht
          · exact h.mcWrite ht
          · exact h.mcIssue ht
    · exact ih _ h

theorem Tame.fenceRelease {a s : State} (h : Tame a s) : Tame a s.fenceRelease := (h.fenceReleaseAux _ _).memPump

theorem Tame.memDiscard {a s : State} (h : Tame a s) (sel : Master → Dpa → Bool) : Tame a (s.memDiscard sel) := by
  unfold State.memDiscard
  refine Tame.fenceRelease ?_
  exact h.same rfl rfl

theorem Tame.fenceConfirm {a s : State} (h : Tame a s) (r : GroupRef) : Tame a (s.fenceConfirm r) := by
  unfold State.fenceConfirm
  refine Tame.fenceRelease ?_
  exact h.same rfl rfl

theorem Tame.fenceRepudiate {a s : State} (h : Tame a s) (r : GroupRef) : Tame a (s.fenceRepudiate r) := by
  unfold State.fenceRepudiate
  refine Tame.fenceRelease ?_
  exact h.same rfl rfl

theorem Tame.memAccept {a s : State} (h : Tame a s) (w : MemWait) : Tame a (s.memAccept w) := by
  unfold State.memAccept
  split
  · next t ht => exact h.memTry ht
  · exact (h.noteWaits w).same rfl rfl

theorem Tame.memPut {a s : State} (h : Tame a s) (w : MemWait) : Tame a (s.memPut w).1 := by
  unfold State.memPut
  split
  · next st t ht =>
    exact h.part (memRefusal_keeps (Keeps.refl _ s) (by decide) _ _ ht)
  · exact h.memAccept w

theorem Tame.memStore {a s : State} (h : Tame a s) {m : Master} {key : KeyIdx} {refs : List GroupRef} {tag : Option MemTag}
    (n : Nat) (p : Dpa) (bs : Bytes) : Tame a (s.memStore m key refs tag n p bs).1 := by
  induction n generalizing s p bs with
  | zero => exact h
  | succ n ih =>
    cases bs with
    | nil => exact h
    | cons b bs =>
      unfold State.memStore
      dsimp only
      split
      · next t st ht =>
        show Tame a (t, some st).1
        exact ht ▸ h.memPut _
      · next t ht =>
        have hp : Tame a (t, (none : Option Status)).1 := ht ▸ h.memPut _
        exact ih hp _ _

/-! ### Commands, programs and sessions -/

theorem Tame.busyNote {a s : State} (h : Tame a s) (c : CtxId) : Tame a (s.busyNote c) := by
  unfold State.busyNote
  refine Tame.foldl (fun t k g => ?_) _ h
  split
  · exact g
  · next x _ =>
    dsimp only
    refine Tame.modCtx ?_ fun k hk => ?_
    · exact g.same rfl rfl
    · exact hk

theorem Tame.goEnd {a s : State} (h : Tame a s) (go : GoInfo) (cause : BitVec 8) (st : Status) : Tame a (s.goEnd go cause st) := by
  unfold State.goEnd
  split
  · exact h.same rfl rfl
  · exact h.same rfl rfl

theorem Tame.faultIter {a s : State} (h : Tame a s) (p : ProgId) (n : Nat) (cause : BitVec 8) (st : Status) (tell : Bool) :
    Tame a (s.faultIter p n cause st tell) := by
  unfold State.faultIter
  dsimp only
  split
  · exact h
  · have hi := fun g => (((h.part (txForget_keeps (p := p) (n := BitVec.ofNat 32 n) (Keeps.refl _ _) (by decide))).part
      (setProg_keeps (p := p) (v := g) (Keeps.refl _ _) (by decide))).part (redEvent_keeps (b := 0) (Keeps.refl _ _) (by decide))).part
      (iterTrace_keeps (p := p) (event := 2) (cause := cause) (n := n) (go := (s.iterOf p n).bind (·.go))
        (Keeps.refl _ _) (by decide))
    have hg : ∀ u, Tame a u → Tame a (match (s.iterOf p n).bind (·.go) with
        | some x => u.goEnd x cause st
        | none => u) := fun u g => by
      split
      · exact g.goEnd _ _ _
      · exact g
    split
    · exact (hg _ (hi _)).part (abandon_keeps (Keeps.refl _ _) (by decide))
    · exact hg _ (hi _)

theorem Tame.faultOpen {a s : State} (h : Tame a s) (p : ProgId) (cause : BitVec 8) (st : Status) (tell : Bool) :
    Tame a (s.faultOpen p cause st tell) := Tame.foldl (fun _ i g => g.faultIter _ _ _ _ _) _ h

theorem Tame.resetProg {a s : State} (h : Tame a s) (p : ProgId) (tell : Bool) : Tame a (s.resetProg p tell) :=
  (h.faultOpen _ _ _ _).part (freeProg_keeps (Keeps.refl _ _) (by decide))

theorem Tame.modFunc {a s : State} (h : Tame a s) (f : Fn) (g : Func → Func) : Tame a (s.modFunc f g) := h.same rfl rfl

theorem Tame.modSess {a s : State} (h : Tame a s) (f : Fn) (g : Sess → Sess) : Tame a (s.modSess f g) := h.modFunc _ _

theorem Tame.cmdResult {a s : State} (h : Tame a s) (c : CtxId) (q : BitVec 3) (k : Word) (st : Status) (d : BitVec 32) :
    Tame a (s.cmdResult c q k st d) := h.same rfl rfl

theorem Tame.rollDir {a s : State} (h : Tame a s) (f : Fn) (dir : Nat) : Tame a (s.rollDir f dir) := by
  unfold State.rollDir
  dsimp only
  split
  · exact h
  · next r _ =>
    split
    · exact h
    · split
      · exact ((h.part (installStageKey_keeps (f := f) (dir := dir) (gen := r.gen) (Keeps.refl _ s) (by decide))).modSess f _).cmdResult
          _ _ _ _ _
      · exact (h.modSess f _).cmdResult _ _ _ _ _

theorem Tame.stgRoll {a s : State} (h : Tame a s) (f : Fn) : Tame a (s.stgRoll f) := (h.rollDir f 0).rollDir f 1

/-! ### Commas -/

theorem Tame.discardWork {a s : State} (h : Tame a s) (c : CtxId) : Tame a (s.discardWork c) := by
  unfold State.discardWork
  dsimp only
  have hb := (Tame.foldl (a := a) (f := fun (t : State) p => t.resetProg p true) (fun _ p g => g.resetProg p true) (s.progsOf c)
    h).busyNote c
  generalize ((s.progsOf c).foldl (fun (t : State) p => t.resetProg p true) s).busyNote c = u at hb ⊢
  refine Tame.stgRoll (Tame.modSess (Tame.foldl (fun t l g => ?_) _ (Tame.memDiscard (Tame.part ?_
    (txDropIf_keeps (Keeps.refl _ _) (by decide))) _)) _ _) _
  · split
    · exact g
    · exact g.same rfl rfl
  · exact hb.same rfl rfl

theorem Tame.dropReplay {a s : State} (h : Tame a s) (c : CtxId) : Tame a (s.dropReplay c) := by
  unfold State.dropReplay
  dsimp only
  refine Tame.foldl (fun _ _ g => ?_) _ (Tame.foldl (fun _ _ g => ?_) _ ?_)
  · exact g.modEng fun _ => rfl
  · exact g.modEng fun _ => rfl
  · exact h.same rfl rfl

theorem Tame.commaStart {a s : State} (h : Tame a s) (c : CtxId) (cause : Cause) : Tame a (s.commaStart c cause) := by
  unfold State.commaStart
  dsimp only
  split
  · exact h
  · refine Tame.modCtx ?_ fun _ _ => .inl rfl
    split
    · exact h.discardWork c
    · exact (h.discardWork c).dropReplay c

theorem Tame.commaEnd {a s : State} (h : Tame a s) (c : CtxId) : Tame a (s.commaEnd c) := by
  unfold State.commaEnd
  dsimp only
  split
  · exact (h.setCtx fun _ => .inr rfl).part (msi_keeps (Keeps.refl _ _) (by decide))
  · exact h

theorem Tame.resetRecord {a s : State} (h : Tame a s) (lvl : BitVec 3) (b : Bool) (cause : Cause) (n : BitVec 10) :
    Tame a (s.resetRecord lvl b cause n) := by
  unfold State.resetRecord
  dsimp only
  split
  · exact h.same rfl rfl
  · split
    · exact h.same rfl rfl
    · split
      · exact h.same rfl rfl
      · exact h.same rfl rfl

theorem Tame.commaInner {a s : State} (h : Tame a s) (c : CtxId) (cause : Cause) : Tame a (s.commaInner c cause) := by
  unfold State.commaInner
  split
  · exact h
  · exact ((h.commaStart c cause).commaEnd c).resetRecord _ _ _ _

theorem Tame.comma {a s : State} (h : Tame a s) (c : CtxId) (cause : Cause) : Tame a (s.comma c cause) := by
  unfold State.comma
  split
  · exact h
  · exact (h.commaInner c cause).part (resetTrace_keeps (Keeps.refl _ _) (by decide))

theorem Tame.consumerComma {a s : State} (h : Tame a s) (r : GroupRef) (c : CtxId) : Tame a (s.consumerComma r c) := by
  unfold State.consumerComma
  split
  · exact h
  · refine (h.comma c _).modCtx fun k hk => ?_
    split <;> exact hk

/-! ### Groups and Agreements -/

theorem Tame.releaseRef {a s : State} (h : Tame a s) (r : GroupRef) : Tame a (s.releaseRef r) := by
  unfold State.releaseRef
  dsimp only
  have hf : Tame a (allLinks.foldl (fun (t : State) l => if (t.link l).io.txq.isEmpty then t else
      t.modLink l fun k => { k with io.txq := k.io.txq.map fun x => { x with refs := x.refs.filter (· != r) } }) s) := by
    refine Tame.foldl (fun t l g => ?_) _ h
    split
    · exact g
    · exact g.same rfl rfl
  generalize List.foldl _ s allLinks = u at hf ⊢
  exact hf.same rfl rfl

theorem Tame.ringStore {a s : State} (h : Tame a s) (l : LinkId) (w : RxFlight ⊕ RxHeld) : Tame a (s.ringStore l w) := by
  unfold State.ringStore
  dsimp only
  have hf : Tame a ({ s with freeCtr := s.freeCtr + 1 } : State) := h.same rfl rfl
  cases w with
  | inl g => exact (hf.memStore _ _ _).part (modFlight_keeps (Keeps.refl _ _) (by decide))
  | inr x =>
    exact ((hf.memStore _ _ _).part (modLink_keeps (Keeps.refl _ _) (by decide))).part (creditReturn_keeps (Keeps.refl _ _) (by decide))

theorem Tame.ringPumpAux {a : State} (l : LinkId) (ws : List (RxFlight ⊕ RxHeld)) (b : List (Cls × CtxId)) {s : State}
    (h : Tame a s) : Tame a (State.ringPumpAux l ws b s) := by
  induction ws generalizing b s with
  | nil => exact h
  | cons w ws ih =>
    rw [State.ringPumpAux]
    have hf : Tame a ({ s with freeCtr := s.freeCtr + 1 } : State) := h.same rfl rfl
    split
    · exact ih _ h
    · split
      · exact ih _ (h.part (ringNote_keeps (Keeps.refl _ _) (by decide)))
      · split
        · exact ih _ (hf.ringStore _ _)
        · exact ih _ (hf.part (modLink_keeps (Keeps.refl _ _) (by decide)))

theorem Tame.takeConfirmed {a s : State} (h : Tame a s) (l : LinkId) (g : RxFlight) : Tame a (s.takeConfirmed l g) := by
  have hc : ∀ t, Tame a t → Tame a (t.creditReturn l g.cls) := fun _ u => u.part (creditReturn_keeps (Keeps.refl _ _) (by decide))
  unfold State.takeConfirmed
  split
  · exact hc _ (h.same rfl rfl)
  · split
    · exact hc _ h
    · dsimp only
      split
      · split
        · exact hc _ h
        · split
          · exact h.same rfl rfl
          · exact h.part (fabTakeGroup_keeps (Keeps.refl _ _) (by decide))
      · split
        · exact hc _ (h.part (tc0Take_keeps (Keeps.refl _ _) (by decide)))
        · split
          · exact Tame.ringPumpAux _ _ _ (h.same rfl rfl)
          · exact h.same rfl rfl

theorem Tame.confirmGroup {a s : State} (h : Tame a s) (l : LinkId) (g : RxFlight) : Tame a (s.confirmGroup l g) := by
  unfold State.confirmGroup
  dsimp only
  refine Tame.part (Tame.fenceConfirm (Tame.releaseRef (Tame.takeConfirmed (Tame.part (Tame.part (Tame.progress (Tame.count
    (Tame.part (Tame.part h (dropFlight_keeps (Keeps.refl _ _) (by decide))) (modLink_keeps (Keeps.refl _ _) (by decide))) _ _) _)
    (meter_keeps (Keeps.refl _ _) (by decide))) (promote_keeps (Keeps.refl _ _) (by decide))) _ _) _) _)
    (deliverPump_keeps (Keeps.refl _ _) (by decide))

theorem Tame.repNote {a s : State} (h : Tame a s) (l : LinkId) (c : Cls) (seq : BitVec 64) (check : Nat) :
    Tame a (s.repNote l c seq check) := by
  unfold State.repNote
  dsimp only
  refine Tame.part ?_ (trace_keeps (Keeps.refl _ _) (by decide))
  refine Tame.part ?_ (out_keeps (Keeps.refl _ _) (by decide))
  refine Tame.part ?_ (record_keeps (Keeps.refl _ _) (by decide))
  refine Tame.progress (Tame.count ?_ _ _) _
  refine Tame.part ?_ (modLink_keeps (Keeps.refl _ _) (by decide))
  refine Tame.part ?_ (linkEvent_keeps (Keeps.refl _ _) (by decide))
  exact h.part (countCheck_keeps (Keeps.refl _ _) (by decide))

theorem Tame.repProgram {a s : State} (h : Tame a s) (l : LinkId) (x : BitVec 128) : Tame a (s.repProgram l x) := by
  unfold State.repProgram
  split
  · unfold State.progRepudiated
    split
    · exact h
    · split
      · exact h.faultIter _ _ _ _ _
      · exact h
  · exact h

theorem Tame.repudiateData {a s : State} (h : Tame a s) (l : LinkId) (g : RxFlight) (check : Nat) (told : Bool) :
    Tame a (s.repudiateData l g check told) := by
  unfold State.repudiateData
  dsimp only
  have hn := (h.part (dropFlight_keeps (r := flightRef l g) (Keeps.refl _ s) (by decide))).repNote l g.cls g.seq check
  refine Tame.releaseRef (Tame.repProgram (Tame.fenceRepudiate (Tame.part ?_ (creditReturn_keeps (Keeps.refl _ _) (by decide))) _) _ _) _
  split
  · split
    · exact hn
    · exact hn.same rfl rfl
  · exact hn

theorem Tame.repudiateGroup {a s : State} (h : Tame a s) (l : LinkId) (g : RxFlight) (check : Nat) :
    Tame a (s.repudiateGroup l g check) :=
  (Tame.foldl (fun _ c u => u.consumerComma _ c) _ (h.repudiateData l g check false)).part
    (deliverPump_keeps (Keeps.refl _ _) (by decide))

theorem Tame.judge {a s : State} (h : Tame a s) (l : LinkId) (g : RxFlight) : Tame a (s.judge l g) := by
  unfold State.judge
  split
  · unfold State.verdict
    split
    · exact h.confirmGroup l g
    · exact h.repudiateGroup l g _
  · exact h.part (modFlight_keeps (Keeps.refl _ _) (by decide))

theorem Tame.progLinkLost {a s : State} (h : Tame a s) (l : LinkId) : Tame a (s.progLinkLost l) := by
  unfold State.progLinkLost
  refine Tame.foldl (fun t p u => ?_) _ h
  split
  · exact u
  · refine Tame.foldl (fun v it w => ?_) _ u
    split
    · exact w.faultIter _ _ _ _ _
    · exact w

theorem Tame.fabEnd {a s : State} (h : Tame a s) (o : FabOut) (st : Status) (data : Option Line) : Tame a (s.fabEnd o st data) := by
  unfold State.fabEnd
  split
  · exact h
  · split
    · exact h.same rfl rfl
    · split
      · exact h.cmdResult _ _ _ _ _
      · exact h.same rfl rfl
    · split
      · exact h.faultIter _ _ _ _ _
      · exact h

theorem Tame.fabLinkLost {a s : State} (h : Tame a s) (l : LinkId) : Tame a (s.fabLinkLost l) := by
  unfold State.fabLinkLost
  dsimp only
  refine Tame.foldl (fun _ o u => u.fabEnd o _ none) _ ?_
  exact h.same rfl rfl

theorem Tame.endAgreement {a s : State} (h : Tame a s) (l : LinkId) (cause : BitVec 8) : Tame a (s.endAgreement l cause) := by
  unfold State.endAgreement
  dsimp only
  split
  · exact h
  · have hj := Tame.foldl (a := a) (f := fun t g => t.judge l g) (fun _ g u => u.judge l g) (s.link l).io.flight h
    have hl := fun f => (((hj.part (eraseLinkKeys_keeps (l := l) (Keeps.refl _ _) (by decide))).part
      (modLink_keeps (l := l) (f := f) (Keeps.refl _ _) (by decide))).part
      (linkEvent_keeps (l := l) (b := lkevEnd) (Keeps.refl _ _) (by decide)))
    have hr := fun f => (((hl f).progLinkLost l).fabLinkLost l).part
      (requeueTc0_keeps (l := l) (d := (s.link l).core.slot) (Keeps.refl _ _) (by decide))
    have hd := fun f => (hr f).part (rosterChange_keeps (d := (s.link l).core.slot) (Keeps.refl _ _) (by decide))
    split
    · exact (hd _).part (agreeStart_keeps (Keeps.refl _ _) (by decide))
    · exact hd _

theorem Tame.resetChecker {a s : State} (h : Tame a s) : Tame a s.resetChecker := by
  unfold State.resetChecker
  dsimp only
  refine Tame.foldl (fun _ l u => u.endAgreement l _) _ ?_
  exact h.same rfl rfl

/-! ### Semicolons -/

theorem Tame.mbxCancel {a s : State} (h : Tame a s) (f : Fn) : Tame a (s.mbxCancel f) := by
  unfold State.mbxCancel
  dsimp only
  split
  · exact h
  · refine Tame.part (Tame.modFunc (Tame.part ?_ (hostWrite_keeps (Keeps.refl _ _) (by decide))) _ _)
      (msi_keeps (Keeps.refl _ _) (by decide))
    exact h.same rfl rfl

theorem Tame.engineRules {a s : State} (h : Tame a s) (e : Nat) : Tame a (s.engineRules e) := by
  unfold State.engineRules
  dsimp only
  split
  · exact h.memDiscard _
  · split
    · refine Tame.foldl (fun _ g u => u.part (creditReturn_keeps (Keeps.refl _ _) (by decide))) _ ?_
      exact (h.endAgreement _ _).part (modLink_keeps (Keeps.refl _ _) (by decide))
    · split
      · split
        · exact h.resetChecker
        · exact Tame.foldl (fun _ p u => u.resetProg p true) _ h
      · split
        · exact Tame.foldl (fun _ f u => u.mbxCancel f) _ h
        · exact h

theorem Tame.semicolonWork {a s : State} (h : Tame a s) (e : Nat) (own : CtxId → Cause) : Tame a (s.semicolonWork e own) :=
  have hc := Tame.foldl (a := a) (f := fun t c => t.commaInner c (own c)) (fun _ c u => u.commaInner c _)
    (s.liveCtxs.filter (s.onEngine e)) h
  (hc.engineRules e).modEng (f := fun g => { g with idleRun := 0, resetting := false, sampled := g.progress }) fun _ => rfl

theorem Tame.semicolon {a s : State} (h : Tame a s) (e : Nat) (cause : Cause) (b : Bool) (own : CtxId → Cause) :
    Tame a (s.semicolon e cause b own) :=
  ((h.semicolonWork e own).resetRecord _ _ _ _).part (resetTraces_keeps (Keeps.refl _ _) (by decide))

end State

end Sys2Proof.Machine
end

section
/-! PROOFS. Requested resets and the watchdog of resets that hang (O18). -/

namespace Sys2Proof.Machine

/-! ### The word of KX_FLT_RESET_REQ -/

/-- A word of KX_FLT_RESET_REQ with a level, a confirm value and a target. -/
def resetWord (lvl : BitVec 3) (k : BitVec 16) (n : BitVec 10) : Word :=
  fields [(29, lvl.toNat), (10, k.toNat), (0, n.toNat)]

/-- The fields of KX_FLT_RESET_REQ do not overlap (R538). -/
theorem resetWord_toNat (lvl : BitVec 3) (k : BitVec 16) (n : BitVec 10) :
    (resetWord lvl k n).toNat = lvl.toNat * 2 ^ 29 + (k.toNat * 2 ^ 10 + n.toNat) := by
  have hn := n.isLt
  have hk := k.isLt
  calc (resetWord lvl k n).toNat
      = lvl.toNat * 2 ^ 29 ||| k.toNat * 2 ^ 10 ||| n.toNat := by
        simp (disch := omega) [resetWord, fields, Nat.mod_eq_of_lt]
    _ = lvl.toNat <<< 29 ||| (k.toNat <<< 10 ||| n.toNat) := by
        rw [Nat.shiftLeft_eq, Nat.shiftLeft_eq, Nat.or_assoc]
    _ = lvl.toNat <<< 29 + (k.toNat <<< 10 + n.toNat) := by
        rw [← Nat.shiftLeft_add_eq_or_of_lt hn, ← Nat.shiftLeft_add_eq_or_of_lt]
        rw [Nat.shiftLeft_eq]
        omega
    _ = lvl.toNat * 2 ^ 29 + (k.toNat * 2 ^ 10 + n.toNat) := by rw [Nat.shiftLeft_eq, Nat.shiftLeft_eq]

theorem resetWord_level (lvl : BitVec 3) (k : BitVec 16) (n : BitVec 10) : (resetWord lvl k n).extractLsb' 29 3 = lvl := by
  apply BitVec.eq_of_toNat_eq
  rw [BitVec.extractLsb'_toNat, resetWord_toNat, Nat.shiftRight_eq_div_pow]
  omega

theorem resetWord_confirm (lvl : BitVec 3) (k : BitVec 16) (n : BitVec 10) : (resetWord lvl k n).extractLsb' 10 16 = k := by
  apply BitVec.eq_of_toNat_eq
  rw [BitVec.extractLsb'_toNat, resetWord_toNat, Nat.shiftRight_eq_div_pow]
  omega

theorem resetWord_target (lvl : BitVec 3) (k : BitVec 16) (n : BitVec 10) : (resetWord lvl k n).extractLsb' 0 10 = n := by
  apply BitVec.eq_of_toNat_eq
  rw [BitVec.extractLsb'_toNat, resetWord_toNat, Nat.shiftRight_eq_div_pow]
  omega

namespace State

/-! ### The register write -/

section
variable {s : State} (hrun : s.running = true) (hport : s.portOn portReg = true) (hon : s.areaOn areaFrontEnd = true)
include hrun hon

/-- R538: what a write of KX_FLT_RESET_REQ by the PF answers while the front end does. -/
theorem regDecide_resetReq (x : RegPins) (w : Word) :
    s.regDecide 0 false true x (0x015008 : BitVec 24).toNat w =
      (s.resetReqWrite x w).elim (s.regRefuse rcDenied) fun t => { state := t, code := rcOkay, data := 0 } := by
  have harea : regAreaOf (0x015008 : BitVec 24).toNat = some (.frontEnd, 0x5008) := by decide
  rw [regDecide_of_running hrun (by decide) harea]
  simp only [regAdmits, regAreaOn, hon, regAt, regFrontEnd, regFault, regRw]
  cases hw : s.resetReqWrite x w <;> simp [regAccess, hw]

include hport

theorem opResetReq_of_taken {lvl : BitVec 3} {k : BitVec 16} {n : BitVec 10} {x : RegPins} {t : State}
    (h : s.resetReqWrite x (resetWord lvl k n) = some t) : s.opResetReq lvl k n x = t.out (.regRsp 0 rcOkay) := by
  have hd := regDecide_resetReq hrun hon x (resetWord lvl k n)
  rw [h] at hd
  exact opReg_of_okay (regTakes_of_running hrun hport) hd rfl

theorem opResetReq_of_refused {lvl : BitVec 3} {k : BitVec 16} {n : BitVec 10} {x : RegPins}
    (h : s.resetReqWrite x (resetWord lvl k n) = none) :
    s.opResetReq lvl k n x = (s.regCapture 0 true 0x015008 rcDenied).out (.regRsp 0xFFFFFFFF rcDenied) := by
  have hd := regDecide_resetReq hrun hon x (resetWord lvl k n)
  rw [h] at hd
  rw [opResetReq, ← resetWord, opReg_of_takes (regTakes_of_running hrun hport), regDo, hd]
  rfl

end

theorem resetReqWrite_comma (s : State) (x : RegPins) (k : BitVec 16) (c : CtxId) :
    s.resetReqWrite x (resetWord lvlComma k c) = if s.ctxExists c then some (s.requestComma c x.completes) else none := by
  rw [resetReqWrite, resetWord_level, resetWord_target]
  rfl

theorem resetReqWrite_semicolon (s : State) (x : RegPins) (k : BitVec 16) (e : BitVec 10) :
    s.resetReqWrite x (resetWord lvlSemicolon k e) =
      if e.toNat ≤ 101 then some (s.requestSemicolon e.toNat x.completes) else none := by
  rw [resetReqWrite, resetWord_level, resetWord_target]
  rfl

theorem resetReqWrite_colon (s : State) (x : RegPins) (k : BitVec 16) (v : BitVec 10) :
    s.resetReqWrite x (resetWord lvlColon k v) =
      if s.vdExists v.toNat then some (s.requestColon (v.setWidth 6) x.completes) else none := by
  rw [resetReqWrite, resetWord_level, resetWord_target]
  rfl

theorem resetReqWrite_fullStop (s : State) (x : RegPins) (k : BitVec 16) (n : BitVec 10) :
    s.resetReqWrite x (resetWord lvlFullStop k n) =
      if k = 0x5253 ∧ n = 0 then some (s.fullStop causeHostRequest false x.role) else none := by
  rw [resetReqWrite, resetWord_level, resetWord_target, resetWord_confirm]
  rfl

/-! ### What resets record -/

theorem resetRecord_last (s : State) (lvl : BitVec 3) (b : Bool) (cause : Cause) (n : BitVec 10) :
    (s.resetRecord lvl b cause n).flt.last = { level := lvl, escalated := b, cause := cause, target := n } := by
  unfold resetRecord
  dsimp only
  split
  · rfl
  · split
    · rfl
    · split <;> rfl

theorem resetRecord_fe (s : State) (lvl : BitVec 3) (b : Bool) (cause : Cause) (n : BitVec 10) :
    (s.resetRecord lvl b cause n).fe = s.fe :=
  (resetRecord_keeps (K := 0x010000) (Keeps.refl _ s) (by decide)).fe.resolve_left (by decide)

theorem resetRecord_comma_event (s : State) (b : Bool) (cause : Cause) (n : BitVec 10) :
    (s.resetRecord lvlComma b cause n).flt.event.getLsbD fevComma = true :=
  (getLsbD_setBitTo _ _ (by decide) _).trans (if_pos rfl)

theorem resetRecord_semicolon_event (s : State) (b : Bool) (cause : Cause) (n : BitVec 10) :
    (s.resetRecord lvlSemicolon b cause n).flt.event.getLsbD fevSemicolon = true :=
  (getLsbD_setBitTo _ _ (by decide) _).trans (if_pos rfl)

theorem resetRecord_colon_event (s : State) (b : Bool) (cause : Cause) (n : BitVec 10) :
    (s.resetRecord lvlColon b cause n).flt.event.getLsbD fevColon = true :=
  (getLsbD_setBitTo _ _ (by decide) _).trans (if_pos rfl)

theorem resetTraces_flt (s : State) (lvl : BitVec 3) (cause : Cause) (n : BitVec 10) (b : Bool) (cs : List CtxId) :
    (s.resetTraces lvl cause n b cs).flt = s.flt :=
  (resetTraces_keeps (K := 0xFEFFFF) (Keeps.refl _ s) (by decide)).flt.resolve_left (by decide)

/-! ### Commas -/

theorem commaStart_ctx {s : State} {c : CtxId} (h : (s.ctx c).phase ≠ .free) (cause : Cause) :
    ((s.commaStart c cause).ctx c).phase = .resetting ∧ ((s.commaStart c cause).ctx c).cancelled = [] := by
  rw [commaStart, if_neg h]
  dsimp only
  rw [modCtx_ctx_same]
  exact ⟨rfl, rfl⟩

theorem commaEnd_of_resetting {s : State} {c : CtxId} (h : (s.ctx c).phase = .resetting) :
    (s.commaEnd c).ctx c = { s.ctx c with phase := .faulted } := by
  have hk (u : State) (f : Fn) (v : BitVec 11) : (u.msi f v).fe = u.fe :=
    (msi_keeps (K := 0x400000) (Keeps.refl _ u) (by decide)).fe.resolve_left (by decide)
  rw [commaEnd]
  dsimp only
  rw [if_pos h, State.ctx, hk, ← State.ctx, setCtx_ctx_same]

theorem comma_of_live {s : State} {c : CtxId} (h : (s.ctx c).phase ≠ .free) (cause : Cause) :
    ((s.comma c cause).ctx c).phase = .faulted ∧ ((s.comma c cause).ctx c).cancelled = [] ∧
    (s.comma c cause).flt.last = { level := lvlComma, escalated := false, cause := cause, target := c } ∧
    (s.comma c cause).flt.event.getLsbD fevComma = true := by
  obtain ⟨hphase, hcancelled⟩ := commaStart_ctx h cause
  have hk := resetTrace_keeps (K := 0xFEDFFF) (lvl := lvlComma) (cause := cause) (target := c) (escalated := false) (c := some c)
    (Keeps.refl _ (((s.commaStart c cause).commaEnd c).resetRecord lvlComma false cause c)) (by decide)
  have he := hk.fe.resolve_left (by decide)
  have hf := hk.flt.resolve_left (by decide)
  have hctx : (s.comma c cause).ctx c = { (s.commaStart c cause).ctx c with phase := .faulted } := by
    rw [comma, if_neg h, commaInner, if_neg h, State.ctx, he, resetRecord_fe, ← State.ctx, commaEnd_of_resetting hphase]
  have hflt : (s.comma c cause).flt = (((s.commaStart c cause).commaEnd c).resetRecord lvlComma false cause c).flt := by
    rw [comma, if_neg h, commaInner, if_neg h, hf]
  rw [hctx, hflt]
  exact ⟨rfl, hcancelled, resetRecord_last _ _ _ _ _, resetRecord_comma_event _ _ _ _⟩

theorem hangComma_ctx (s : State) (c : CtxId) (cause : Cause) :
    ((s.hangComma c cause).ctx c).phase = .resetting ∧ ((s.hangComma c cause).ctx c).cause = cause ∧
    (s.hangComma c cause).flt.resets = s.flt.resets ++ [{ level := lvlComma, target := c, cause := cause }] := by
  have hc := modCtx_ctx_same s c fun k =>
    { k with phase := .resetting, cause := cause, sq := emptyRings k.sq, cancelled := [] }
  exact ⟨congrArg Ctx.phase hc, congrArg Ctx.cause hc, rfl⟩

/-- A Comma that hung comes to its end: the context is FAULTED. -/
theorem commaFinish_of_down {s : State} {c : CtxId} (h : (s.ctx c).phase.down) :
    ((s.commaFinish c).ctx c).phase = .faulted := by
  unfold commaFinish
  split
  · next hr =>
    rw [State.ctx, resetRecord_fe, ← State.ctx]
    rcases (Tame.refl s).discardWork c |>.ctx c h with hp | hp
    · rw [commaEnd_of_resetting hp]
    · rw [commaEnd, if_neg (by rw [hp]; decide), hp]
  · next hr => exact h.resolve_left hr

/-! ### Semicolons and Colons -/

theorem semicolon_flt (s : State) (e : Nat) (cause : Cause) (b : Bool) (own : CtxId → Cause) :
    (s.semicolon e cause b own).flt =
      ((s.semicolonWork e own).resetRecord lvlSemicolon b cause (BitVec.ofNat 10 e)).flt := resetTraces_flt _ _ _ _ _ _

theorem semicolon_last (s : State) (e : Nat) (cause : Cause) (b : Bool) (own : CtxId → Cause) :
    (s.semicolon e cause b own).flt.last =
      { level := lvlSemicolon, escalated := b, cause := cause, target := BitVec.ofNat 10 e } := by
  rw [semicolon_flt, resetRecord_last]

theorem semicolon_event (s : State) (e : Nat) (cause : Cause) (b : Bool) (own : CtxId → Cause) :
    (s.semicolon e cause b own).flt.event.getLsbD fevSemicolon = true := by
  rw [semicolon_flt, resetRecord_semicolon_event]

theorem colon_last_event (s : State) (v : VdId) (cause : Cause) (b : Bool) :
    (s.colon v cause b).flt.last = { level := lvlColon, escalated := b, cause := cause, target := v.setWidth 10 } ∧
    (s.colon v cause b).flt.event.getLsbD fevColon = true := by
  rw [colon, resetTraces_flt]
  exact ⟨resetRecord_last _ _ _ _ _, resetRecord_colon_event _ _ _ _⟩

theorem hangSemicolon_eng (s : State) (e : Nat) (cause : Cause) : ((s.hangSemicolon e cause).eng e).resetting = true := by
  have he := modEng_eng_same s e fun g => { g with resetting := true }
  exact congrArg FltEng.resetting he

theorem hangColon_resets (s : State) (v : VdId) (cause : Cause) :
    (s.hangColon v cause).flt.resets = s.flt.resets ++ [{ level := lvlColon, target := v.setWidth 10, cause := cause }] := by
  rw [hangColon]
  have hk := Keeps.foldl (k := 0x002000) (f := fun (t : State) c => t.modCtx c fun k =>
    { k with phase := .resetting, cause := causePartitionReset, sq := emptyRings k.sq, cancelled := [] })
    (xs := s.liveCtxs.filter fun c => (s.ctx c).vd == some v) (Keeps.refl _ s) fun t c h => modCtx_keeps h (by decide)
  have hf := hk.flt.resolve_left (by decide)
  generalize List.foldl _ s _ = u at hf ⊢
  rw [addRun, hf]

theorem canStop_of_running {s : State} (h : s.running = true) : s.canStop = true := by
  have hphase : s.sys.phase = .running := by simpa [running] using h
  rw [canStop, hphase]

/-! ### A Full Stop leaves nothing that waits -/

theorem stopLink_still (k : Link) : ringWaits (stopLink k) = [] ∧ (stopLink k).io.held = [] := ⟨rfl, rfl⟩

theorem enterStop_still (s : State) (cause : Cause) (b : Bool) (role : Option (BitVec 1)) : (s.enterStop cause b role).still := by
  rw [enterStop_eq]
  generalize s.stopping = u
  have hl (l : LinkId) := get_mapAll_of_forall (d := ({} : Link)) (f := fun _ k => stopLink k)
    (P := fun k => ringWaits k = [] ∧ k.io.held = []) ⟨rfl, rfl⟩ (fun _ k => stopLink_still k) u.links l.toNat
  exact ⟨fun l => (hl l).1, fun l => (hl l).2, rfl, fun _ hx => absurd hx (List.not_mem_nil), rfl⟩

theorem fullStop_still {s : State} (h : s.canStop = true) {cause : Cause} (hc : stopCounted cause = true)
    (hf : s.flt.stamps.length < 2) (b : Bool) (role : Option (BitVec 1)) : (s.fullStop cause b role).still := by
  rw [fullStop_of_few h hc hf]
  exact enterStop_still _ _ _ _

/-! ### The Ellipsis -/

theorem trayPost_tray (s : State) (v : Byte) :
    (s.trayPost v).tray.grade = s.tray.grade ∧ (s.trayPost v).tray.reason = s.tray.reason ∧
    (s.trayPost v).tray.ellipsisCount = s.tray.ellipsisCount := by
  unfold trayPost traySend
  dsimp only
  split
  · exact ⟨rfl, rfl, rfl⟩
  · split
    · split <;> exact ⟨rfl, rfl, rfl⟩
    · exact ⟨rfl, rfl, rfl⟩

/-- Grade Black, held for the power cycle (R547). -/
theorem holdBlack_holds (s : State) (cause : Cause) (b : Bool) :
    (s.holdBlack cause b).sys.phase = .ellipsis ∧ (s.holdBlack cause b).flt.health.grade = 3 ∧
    (s.holdBlack cause b).tray.grade = 3 ∧ (s.holdBlack cause b).tray.reason = cause ∧
    (s.holdBlack cause b).tray.ellipsisCount = satInc s.tray.ellipsisCount ∧
    (s.holdBlack cause b).flt.last = { level := lvlEllipsis, escalated := b, cause := cause, target := 0 } := by
  rw [holdBlack]
  dsimp only
  generalize hu : ({ s with sys := _, flt := _, tray := _ } : State) = u
  have hk := trayPost_keeps (v := trayPowerCycle) (K := 0x420000) (Keeps.refl _ u) (by decide)
  obtain ⟨hgrade, hreason, hcount⟩ := trayPost_tray u trayPowerCycle
  rw [hk.sys.resolve_left (by decide), hk.flt.resolve_left (by decide), hgrade, hreason, hcount, ← hu]
  exact ⟨rfl, rfl, rfl, rfl, rfl, rfl⟩

theorem ellipsis_of_fullStop {s : State} (h : s.sys.phase = .fullStop) (cause : Cause) (b : Bool) (role : Option (BitVec 1)) :
    s.ellipsis cause b role = s.holdBlack cause b := by
  rw [ellipsis, if_neg (by rw [h]; decide), canStop, h]
  rfl

theorem opFullStopDone_of_ne {s : State} (h : s.sys.phase ≠ .fullStop) (env : StartEnv) : s.opFullStopDone env = s := if_neg h

/-! ### The watchdog -/

theorem watchdog_of_none {s : State} {lvl : BitVec 3} {n : BitVec 10}
    (h : (s.flt.resets.any fun x => x.level == lvl && x.target == n) = false) (role : Option (BitVec 1)) :
    s.watchdog lvl n role = s := if_neg (by rw [h]; decide)

theorem watchdog_of_run {s : State} {lvl : BitVec 3} {n : BitVec 10}
    (h : (s.flt.resets.any fun x => x.level == lvl && x.target == n) = true) (role : Option (BitVec 1)) :
    s.watchdog lvl n role = s.escalate lvl n role := if_pos h

/-- What a reset that hung leaves before what follows: it is no longer in progress, and the escalation is told. -/
def escalating (s : State) (lvl : BitVec 3) (n : BitVec 10) : State := (s.dropRun lvl n).fltEvent fevEscalated

/-- R535: a Comma that hangs ends with its context FAULTED, whatever the Semicolons of its engines do. -/
theorem escalate_comma {s : State} {c : CtxId} (h : (s.ctx c).phase = .resetting) (role : Option (BitVec 1)) :
    ((s.escalate lvlComma c role).ctx c).phase = .faulted := by
  have hs : Tame s (s.escalating lvlComma c) := (Tame.refl s).same rfl rfl
  exact commaFinish_of_down (Tame.ctx (Tame.foldl (fun _ e g => g.semicolon e _ _ _) _ hs) c (.inl h))

/-- R535: a Colon that hangs, and a Semicolon of an engine of no virtual device, become a Full Stop. -/
theorem escalate_fullStop {s : State} {lvl : BitVec 3} {n : BitVec 10}
    (h : lvl = lvlColon ∨ (lvl = lvlSemicolon ∧ s.clusterVd n.toNat = none)) (role : Option (BitVec 1)) :
    s.escalate lvl n role = (s.escalating lvl n).fullStop causeEscalated true role := by
  rcases h with rfl | ⟨rfl, hv⟩
  · rfl
  · have hv' : (s.escalating lvlSemicolon n).clusterVd n.toNat = none := hv
    rw [escalate, if_neg (by decide), if_pos rfl, ← escalating, hv']

theorem escalating_stoppedFrom {s : State} (h : s.canStop = true) (hf : s.flt.stamps.length < 2) (lvl : BitVec 3)
    (n : BitVec 10) (r : BitVec 1) :
    s.stoppedFrom ((s.escalating lvl n).fullStop causeEscalated true (some r)) causeEscalated true r :=
  (fullStop_stoppedFrom (s := s.escalating lvl n) h rfl hf true r).of_agreeing rfl rfl
    (fun ⟨otp, links, doms, glb, keys, lanes, mem, fab, fe, vd, red, flt, pwr, isl, tel⟩ =>
      ⟨otp, links, doms, glb, keys, lanes, mem, fab, fe, vd, red, flt, pwr, isl, tel⟩) (fun _ _ => rfl) rfl rfl rfl

end State

open State

section
variable {s : State}

theorem exec_resetReqComma (c : CtxId) (b : Bool) :
    exec (.resetReqComma c b) s = .next (s.opResetReq lvlComma 0 c { completes := b }).settleAll := rfl

theorem exec_resetReqSemicolon (e : BitVec 10) (b : Bool) :
    exec (.resetReqSemicolon e b) s = .next (s.opResetReq lvlSemicolon 0 e { completes := b }).settleAll := rfl

theorem exec_resetReqColon (v : BitVec 10) (b : Bool) :
    exec (.resetReqColon v b) s = .next (s.opResetReq lvlColon 0 v { completes := b }).settleAll := rfl

theorem exec_resetReqFullStop (k : BitVec 16) (n : BitVec 10) (r : BitVec 1) :
    exec (.resetReqFullStop k n r) s = .next (s.opResetReq lvlFullStop k n { role := some r }) := rfl

theorem exec_resetWatchdogExpiry (lvl : BitVec 3) (n : BitVec 10) (r : BitVec 1) :
    exec (.resetWatchdogExpiry lvl n r) s = .next (s.watchdog lvl n (some r)).settleAll := rfl

theorem vdExists_iff (v : BitVec 10) :
    s.vdExists v.toNat = true ↔ v.toNat < 64 ∧ (s.vdev (v.setWidth 6)).present = true := by
  rw [vdExists, BitVec.ofNat_toNat, Bool.and_eq_true, decide_eq_true_eq]

theorem setWidth_six_ten {v : BitVec 10} (h : v.toNat < 64) : (v.setWidth 6).setWidth 10 = v := by
  apply BitVec.eq_of_toNat_eq
  rw [BitVec.toNat_setWidth, BitVec.toNat_setWidth]
  omega

variable (hrun : s.running = true) (hport : s.portOn portReg = true) (hon : s.areaOn areaFrontEnd = true)
include hrun hport hon

/-- A request whose target exists is taken. -/
theorem resetReqComma_taken {c : CtxId} (h : (s.ctx c).phase ≠ .free) (b : Bool) :
    exec (.resetReqComma c b) s = .next ((s.requestComma c b).out (.regRsp 0 rcOkay)).settleAll := by
  have hx : s.ctxExists c = true := bne_iff_ne.mpr h
  exact exec_next (exec_resetReqComma c b) (congrArg settleAll (opResetReq_of_taken hrun hport hon
    ((resetReqWrite_comma s _ 0 c).trans (if_pos hx))))

theorem resetReqSemicolon_taken {e : BitVec 10} (h : e.toNat ≤ 101) (b : Bool) :
    exec (.resetReqSemicolon e b) s = .next ((s.requestSemicolon e.toNat b).out (.regRsp 0 rcOkay)).settleAll :=
  exec_next (exec_resetReqSemicolon e b) (congrArg settleAll (opResetReq_of_taken hrun hport hon
    ((resetReqWrite_semicolon s _ 0 e).trans (if_pos h))))

theorem resetReqColon_taken {v : BitVec 10} (h : v.toNat < 64) (hv : (s.vdev (v.setWidth 6)).present = true) (b : Bool) :
    exec (.resetReqColon v b) s = .next ((s.requestColon (v.setWidth 6) b).out (.regRsp 0 rcOkay)).settleAll :=
  exec_next (exec_resetReqColon v b) (congrArg settleAll (opResetReq_of_taken hrun hport hon
    ((resetReqWrite_colon s _ 0 v).trans (if_pos ((vdExists_iff v).mpr ⟨h, hv⟩)))))

end

/-- Settles O18: a request acts through what its level's reset records; the watchdog's cases are those of Table 18-4. -/
theorem resetsAndEscalation : Obligations.ResetsAndEscalation := by
  unfold Obligations.ResetsAndEscalation
  refine ⟨fun s hrun hport hon => ?_, fun s n r => ?_⟩
  · intro ok denied last
    refine ⟨fun r => ?_, fun k n r h => ?_, fun c b h => ?_, fun c b h hc => ?_, fun c h hc => ⟨?_, ?_⟩, fun e b h => ?_,
      fun e b h hc => ?_, fun e h hc => ⟨?_, ?_⟩, fun v b h => ?_, fun v b h hv hc => ?_, fun v h hv hc => ⟨?_, ?_⟩⟩
    · refine ⟨s.enterStop causeHostRequest false (some r), ?_, s.enterStop_stoppedFrom _ _ _⟩
      refine exec_next (exec_resetReqFullStop _ _ _) ?_
      rw [← fullStop_of_uncounted (canStop_of_running hrun) (cause := causeHostRequest) rfl]
      exact opResetReq_of_taken hrun hport hon ((resetReqWrite_fullStop s _ _ _).trans (if_pos ⟨rfl, rfl⟩))
    · refine exec_next (exec_resetReqFullStop _ _ _) (opResetReq_of_refused hrun hport hon ?_)
      rw [resetReqWrite_fullStop, if_neg (not_and_or.mpr h)]
    · refine exec_next (exec_resetReqComma c b) (congrArg settleAll (opResetReq_of_refused hrun hport hon ?_))
      have hx : s.ctxExists c = false := by simp [ctxExists, h]
      rw [resetReqWrite_comma, hx]
      rfl
    · rw [resetReqComma_taken hrun hport hon h, requestComma, if_pos hc]
    · refine ⟨s.comma c causeHostRequest, ?_, comma_of_live h _⟩
      rw [resetReqComma_taken hrun hport hon h, requestComma, hc]
      rfl
    · refine ⟨s.hangComma c causeHostRequest, ?_, hangComma_ctx s c _⟩
      rw [resetReqComma_taken hrun hport hon h, requestComma, hc]
      rfl
    · refine exec_next (exec_resetReqSemicolon e b) (congrArg settleAll (opResetReq_of_refused hrun hport hon ?_))
      rw [resetReqWrite_semicolon, if_neg (Nat.not_le.mpr h)]
    · have he : BitVec.ofNat 10 e.toNat = e := by simp
      rw [resetReqSemicolon_taken hrun hport hon h, requestSemicolon, he, if_pos hc]
    · have he : BitVec.ofNat 10 e.toNat = e := by simp
      refine ⟨s.semicolon e.toNat causeHostRequest false plainCause, ?_, ?_, semicolon_event _ _ _ _ _⟩
      · rw [resetReqSemicolon_taken hrun hport hon h, requestSemicolon, he, hc]
        rfl
      · rw [semicolon_last, he]
    · have he : BitVec.ofNat 10 e.toNat = e := by simp
      refine ⟨s.hangSemicolon e.toNat causeHostRequest, ?_, hangSemicolon_eng _ _ _, ?_⟩
      · rw [resetReqSemicolon_taken hrun hport hon h, requestSemicolon, he, hc]
        rfl
      · rw [hangSemicolon, he]
        rfl
    · refine exec_next (exec_resetReqColon v b) (congrArg settleAll (opResetReq_of_refused hrun hport hon ?_))
      rw [resetReqWrite_colon, if_neg]
      rw [vdExists_iff]
      rintro ⟨hlt, hp⟩
      rcases h with h | h
      · omega
      · rw [h] at hp
        cases hp
    · rw [resetReqColon_taken hrun hport hon h hv, requestColon, setWidth_six_ten h, if_pos hc]
    · refine ⟨s.colon (v.setWidth 6) causeHostRequest false, ?_, ?_⟩
      · rw [resetReqColon_taken hrun hport hon h hv, requestColon, setWidth_six_ten h, hc]
        rfl
      · obtain ⟨hlast, hevent⟩ := colon_last_event s (v.setWidth 6) causeHostRequest false
        exact ⟨by rw [hlast, setWidth_six_ten h], hevent⟩
    · refine ⟨s.hangColon (v.setWidth 6) causeHostRequest, ?_, ?_⟩
      · rw [resetReqColon_taken hrun hport hon h hv, requestColon, setWidth_six_ten h, hc]
        rfl
      · rw [hangColon_resets, setWidth_six_ten h]
  · intro runs
    refine ⟨fun lvl h => ?_, fun h hp => ?_, fun lvl h hl hc hf => ?_, fun h hp => ?_⟩
    · rw [exec_resetWatchdogExpiry, watchdog_of_none h]
    · exact ⟨_, exec_next (exec_resetWatchdogExpiry _ _ _) (congrArg settleAll (watchdog_of_run h _)), escalate_comma hp _⟩
    · refine ⟨(s.escalating lvl n).fullStop causeEscalated true (some r), ?_, escalating_stoppedFrom hc hf lvl n r⟩
      rw [exec_resetWatchdogExpiry, watchdog_of_run h, escalate_fullStop hl,
        settleAll_of_still (fullStop_still (s := s.escalating lvl n) hc rfl hf _ _)]
    · obtain ⟨hphase, hgrade, htray, hreason, hcount, hlast⟩ := holdBlack_holds (s.escalating lvlFullStop n) causeEscalated true
      refine ⟨(s.escalating lvlFullStop n).holdBlack causeEscalated true, ?_, hphase, hgrade, htray, hreason, hcount, hlast,
        fun env => ?_⟩
      · rw [exec_resetWatchdogExpiry, watchdog_of_run h]
        exact congrArg (fun u => Host.Outcome.next (settleAll u))
          (ellipsis_of_fullStop (s := s.escalating lvlFullStop n) hp causeEscalated true (some r))
      · have hsys := (settleAll_keeps (Keeps.refl (Part.maskOf Part.settled)
          ((s.escalating lvlFullStop n).holdBlack causeEscalated true)) rfl).sys.resolve_left (by decide)
        refine exec_next rfl (opFullStopDone_of_ne ?_ env)
        rw [hsys, hphase]
        decide

end Sys2Proof.Machine
end

section
/-! PROOFS. Stall samples, stalls, the ends of replays, and the faults of the trust core (O19). -/

namespace Sys2Proof.Machine

namespace State

/-! ### Samples (R525) -/

/-- An engine after a sample. -/
def sampledEng (s : State) (e : Nat) : FltEng :=
  { s.eng e with
    idleRun := if s.pendingWork e && (s.eng e).progress == (s.eng e).sampled && !s.throttled e then satInc (s.eng e).idleRun else 0
    sampled := (s.eng e).progress }

/-- What other engines count does not say whether an engine has work. -/
theorem pendingWork_of_flt {s : State} {e : Nat} {f : Flt} (h : Tab.get {} f.eng e = s.eng e) :
    ({ s with flt := f } : State).pendingWork e = s.pendingWork e := by
  have he : ({ s with flt := f } : State).eng e = s.eng e := h
  unfold pendingWork
  rw [he]
  rfl

theorem sampleEngine_eq (s : State) (e : Nat) : s.sampleEngine e = s.setEng e (s.sampledEng e) := rfl

/-- The first samples of a round: what they leave, of the engines sampled and of the others. -/
theorem sampleRound (s : State) (n : Nat) : ∃ f : Flt, (List.range n).foldl sampleEngine s = { s with flt := f } ∧
    (∀ e, e < n → Tab.get {} f.eng e = s.sampledEng e) ∧ ∀ e, n ≤ e → Tab.get {} f.eng e = s.eng e := by
  induction n with
  | zero => exact ⟨s.flt, rfl, fun e h => absurd h (Nat.not_lt_zero e), fun _ _ => rfl⟩
  | succ n ih =>
    obtain ⟨f, hf, hdone, hrest⟩ := ih
    have hn : ({ s with flt := f } : State).eng n = s.eng n := hrest n (Nat.le_refl n)
    have hs : ({ s with flt := f } : State).sampledEng n = s.sampledEng n := by
      unfold sampledEng
      rw [pendingWork_of_flt hn, hn]
      rfl
    refine ⟨{ f with eng := Tab.set {} f.eng n (s.sampledEng n) }, ?_, fun e he => ?_, fun e he => ?_⟩
    · rw [List.range_succ, List.foldl_append, hf]
      exact (sampleEngine_eq _ n).trans (by rw [hs]; rfl)
    · rcases eq_or_ne e n with rfl | hne
      · exact Tab.get_set_same _ _ _ _
      · exact (Tab.get_set_ne _ _ _ hne).trans (hdone e (by omega))
    · exact (Tab.get_set_ne _ _ _ (by omega)).trans (hrest e (by omega))

theorem opSample_of_running {s : State} (h : s.running = true) : s.opSample = (List.range 102).foldl sampleEngine s := if_pos h

theorem sampledEng_idleRun (s : State) (e : Nat) : (s.sampledEng e).idleRun =
    if s.pendingWork e = true ∧ (s.eng e).progress = (s.eng e).sampled ∧ s.throttled e = false
      then satInc (s.eng e).idleRun else 0 :=
  if_congr (by simp only [Bool.and_eq_true, beq_iff_eq, Bool.not_eq_true', and_assoc]) rfl rfl

/-! ### Stalls (R524, R526, R531) -/

/-- A stall is counted, and of an engine without replay told. -/
def stallNoted (s : State) (n : Nat) : State :=
  let t := (s.modEng n fun g => { g with stallCount := satInc g.stallCount, stalled := true, idleRun := 0 }).fltEvent fevStall
  if hasReplay n then t else t.stallTrace n 0

theorem stallNoted_keeps (s : State) (n : Nat) : Keeps 0x110000 s (s.stallNoted n) := by
  have h := fltEvent_keeps (K := 0x110000) (b := fevStall) (modEng_keeps (e := n)
    (f := fun g => { g with stallCount := satInc g.stallCount, stalled := true, idleRun := 0 }) (Keeps.refl _ s) (by decide)) (by decide)
  unfold stallNoted
  dsimp only
  split
  · exact h
  · exact stallTrace_keeps h (by decide)

theorem stallTrace_flt (s : State) (e v : Nat) : (s.stallTrace e v).flt = s.flt :=
  (stallTrace_keeps (K := 0x100000) (Keeps.refl _ s) (by decide)).flt.resolve_left (by decide)

theorem stallNoted_flt (s : State) (n : Nat) : (s.stallNoted n).flt =
    ((s.modEng n fun g => { g with stallCount := satInc g.stallCount, stalled := true, idleRun := 0 }).fltEvent fevStall).flt := by
  unfold stallNoted
  dsimp only
  split
  · rfl
  · exact stallTrace_flt _ _ _

theorem traceLost_counters (s : State) : s.traceLost.tel.counters = s.tel.counters := by
  unfold traceLost
  split <;> rfl

theorem trace_counters (s : State) (type : Byte) (c : Option CtxId) (d : Option Slot) (x y : BitVec 16) (arg : Bytes) :
    (s.trace type c d x y arg).tel.counters = s.tel.counters := by
  unfold trace
  dsimp only
  have hlost := traceLost_counters s
  generalize s.traceLost = u at hlost ⊢
  split_ifs <;> simp [tracePush, hlost]

theorem stallNoted_counters (s : State) (n : Nat) : (s.stallNoted n).tel.counters = s.tel.counters := by
  unfold stallNoted
  dsimp only
  split
  · rfl
  · exact trace_counters _ _ _ _ _ _ _

theorem stallNoted_unattributed (s : State) (n : Nat) : ((s.stallNoted n).eng n).unattributed = (s.eng n).unattributed := by
  rw [State.eng, stallNoted_flt]
  exact ((Tame.refl s).modEng (e := n) (f := fun g =>
    { g with stallCount := satInc g.stallCount, stalled := true, idleRun := 0 }) fun _ => rfl).eng n

theorem stall_of_none {s : State} {e : EngineId} (h : s.running = false ∨ (s.eng e.toNat).replaying = true ∨
    (s.eng e.toNat).idleRun < s.flt.stallSamples) (role : Option (BitVec 1)) : s.stall e role = s := by
  unfold stall
  dsimp only
  rcases h with h | h | h <;> simp [h]

/-- A declared stall, by the engine it is of. -/
theorem stall_of_declared {s : State} {e : EngineId} (hrun : s.running = true) (hr : (s.eng e.toNat).replaying = false)
    (hi : s.flt.stallSamples ≤ (s.eng e.toNat).idleRun) (role : Option (BitVec 1)) : s.stall e role =
      let t := s.stallNoted e.toNat
      if e.toNat = engArbiter then t.fullStop causeArbiterStall false role
      else if e.toNat < 32 && t.mem.out.any (fun q => q.ch == engChan e.toNat && !q.discard) then
        (t.record causeMcNoResponse e.toNat).semicolon e.toNat causeMcNoResponse false fun _ => causeStallSuspect
      else if hasReplay e.toNat then t.replayStart e role
      else (t.semicolon e.toNat causeEngineStall false fun _ => causeStallSuspect).unattributed e.toNat role := by
  unfold stall
  dsimp only
  rw [if_neg (by simp [hrun, hr, hi])]
  rfl

theorem engine_of_hasReplay {n : Nat} (h : hasReplay n = true) : 97 ≤ n ∧ n ≤ 99 := by
  simp only [hasReplay, engStaging, engCrypto, engFill, Bool.or_eq_true, beq_iff_eq] at h
  omega

/-- Fewer than two unattributed stalls are held: a further one is held too (R531). -/
theorem unattributed_of_few {s : State} {n : Nat} (h : (s.eng n).unattributed.length < 2) (role : Option (BitVec 1)) :
    ∃ ts, s.unattributed n role = s.modEng n fun g => { g with unattributed := ts } := by
  refine ⟨(s.now :: (s.eng n).unattributed.filter fun t => decide ((s.now - t).toNat ≤ 1000000000)).take 3, if_neg ?_⟩
  have hl := List.length_filter_le (fun t => decide ((s.now - t).toNat ≤ 1000000000)) (s.eng n).unattributed
  rw [List.length_take, List.length_cons]
  omega

/-- A stall of the Arbiter is a Full Stop. -/
theorem stall_arbiter {s : State} (hrun : s.running = true) (hf : s.flt.stamps.length < 2) (n : Nat) (r : BitVec 1) :
    ((s.stallNoted n).fullStop causeArbiterStall false (some r)).still ∧
    s.stoppedFrom ((s.stallNoted n).fullStop causeArbiterStall false (some r)) causeArbiterStall false r := by
  have hk := s.stallNoted_keeps n
  have hsys : (s.stallNoted n).sys = s.sys := hk.sys.resolve_left (by decide)
  have hstop : (s.stallNoted n).canStop = true := by
    rw [canStop, hsys, ← canStop]
    exact canStop_of_running hrun
  have hflt := s.stallNoted_flt n
  have hstamps : (s.stallNoted n).flt.stamps.length < 2 := by
    rw [hflt]
    exact hf
  exact ⟨fullStop_still hstop rfl hstamps _ _, (fullStop_stoppedFrom hstop rfl hstamps false r).of_agreeing
    (congrArg Clk.enPort (hk.clk.resolve_left (by decide))) (hk.mem.resolve_left (by decide)) hk.canon
    (fun k _ => by rw [stallNoted_counters]) (hk.otp.resolve_left (by decide)) (hk.isl.resolve_left (by decide)) (by rw [hflt]; rfl)⟩

/-- What begins the replay of an engine with suspects (R527). -/
theorem replayStart_begins {s : State} {e : EngineId} (h : s.suspectsOf e.toNat ≠ []) (role : Option (BitVec 1)) :
    ∃ (others : List ReplayRun) (kept : List (EngineId × Cmd)),
      ((s.replayStart e role).eng e.toNat).replaying = true ∧
      (s.replayStart e role).flt.replays = others ++ [{ engine := e, suspects := (s.suspectsOf e.toNat).take 8,
                                                         rest := (s.suspectsOf e.toNat).drop 8, guilty := false }] ∧
      (s.replayStart e role).fe.replayStore = kept ++ s.storeOf e ((s.suspectsOf e.toNat).take 8) ∧
      (s.replayStart e role).flt.last =
        { level := lvlSemicolon, escalated := false, cause := causeStallSuspect, target := e.setWidth 10 } := by
  have hne : (s.suspectsOf e.toNat).isEmpty = false := by rwa [List.isEmpty_eq_false_iff]
  unfold replayStart
  dsimp only
  rw [hne]
  have hlast := s.semicolon_last e.toNat causeStallSuspect false
    fun c => if c ∈ s.suspectsOf e.toNat then causeStallSuspect else causeEngineReset
  rw [BitVec.ofNat_toNat] at hlast
  generalize s.semicolon e.toNat causeStallSuspect false
    (fun c => if c ∈ s.suspectsOf e.toNat then causeStallSuspect else causeEngineReset) = t at hlast ⊢
  refine ⟨t.flt.replays, t.fe.replayStore, ?_, rfl, rfl, hlast⟩
  rw [if_neg (by decide), modEng_eng_same]

/-! ### The end of a replay (R529, R530) -/

/-- Nothing of the faults changes but the progress of engines. -/
structure OnlyProgress (s t : State) : Prop where
  flt : t.flt = { s.flt with eng := t.flt.eng }
  eng : ∀ e, ∃ n, t.eng e = { s.eng e with progress := n }

theorem OnlyProgress.refl (s : State) : OnlyProgress s s := ⟨rfl, fun _ => ⟨_, rfl⟩⟩

theorem OnlyProgress.trans {s t u : State} (h : OnlyProgress s t) (g : OnlyProgress t u) : OnlyProgress s u where
  flt := by rw [g.flt, h.flt]
  eng e := by
    obtain ⟨m, hm⟩ := h.eng e
    obtain ⟨n, hn⟩ := g.eng e
    exact ⟨n, by rw [hn, hm]⟩

theorem OnlyProgress.of_flt {s t : State} (h : t.flt = s.flt) : OnlyProgress s t :=
  ⟨by rw [h], fun e => ⟨(s.eng e).progress, by rw [State.eng, h, ← State.eng]⟩⟩

theorem progress_onlyProgress (s : State) (e : Nat) : OnlyProgress s (s.progress e) := by
  refine ⟨rfl, fun y => ?_⟩
  rcases eq_or_ne y e with rfl | hne
  · exact ⟨_, modEng_eng_same s y fun g => { g with progress := g.progress + 1 }⟩
  · exact ⟨_, modEng_eng_ne s e _ y hne⟩

theorem dryKeep_onlyProgress (s u : State) (x : Cmd) : OnlyProgress s (s.dryKeep u x) := by
  unfold dryKeep
  dsimp only
  refine OnlyProgress.trans (.of_flt ?_) (progress_onlyProgress _ _)
  split_ifs <;> rfl

theorem dryRuns_onlyProgress (xs : List Cmd) (as : List DryAnswers) (s : State) : OnlyProgress s (dryRuns xs as s) := by
  induction xs generalizing as s with
  | nil => exact .refl s
  | cons x xs ih =>
    cases as with
    | nil => exact .refl s
    | cons a as => exact (dryKeep_onlyProgress s _ x).trans (ih as _)

theorem dryReplay_onlyProgress (s : State) (e : EngineId) (c : CtxId) (as : List DryAnswers) :
    OnlyProgress s (s.dryReplay e c as) := (dryRuns_onlyProgress _ as s).trans (.of_flt rfl)

/-- The copies of the suspect under test are gone; nothing else of the front end changes. -/
theorem dryReplay_fe (s : State) (e : EngineId) (c : CtxId) (as : List DryAnswers) : (s.dryReplay e c as).fe =
    { s.fe with replayStore := s.fe.replayStore.filter fun y => !(y.1 == e && y.2.ctx == c) } := by
  have hk := dryRuns_keeps (K := 0x610040) (z0 := (s.fe.replayStore.filter fun y => y.1 == e && y.2.ctx == c).map (·.2))
    (z1 := as) (Keeps.refl _ s) (by decide)
  have hfe := hk.fe.resolve_left (by decide)
  unfold dryReplay
  dsimp only
  rw [hfe]

/-- The next suspect comes under test. -/
theorem replayNext_more {s : State} {e : EngineId} {x : ReplayRun} {guilty : Bool} {role : Option (BitVec 1)}
    (h : (s.flt.replays.find? fun r => r.engine == e) = some x) (hrest : x.suspects.drop 1 ≠ []) :
    s.replayNext e guilty role =
      { s.modEng e.toNat fun k => { k with idleRun := 0, sampled := k.progress } with
        flt := { (s.modEng e.toNat fun k => { k with idleRun := 0, sampled := k.progress }).flt with
          replays := (s.flt.replays.filter fun x => x.engine != e) ++
            [{ x with suspects := x.suspects.drop 1, guilty := x.guilty || guilty }] } } := by
  unfold replayNext
  rw [h]
  dsimp only
  rw [if_neg (by rwa [List.isEmpty_iff])]

/-- After the last suspect the engine leaves replay. -/
theorem replayNext_last {s : State} {e : EngineId} {x : ReplayRun} {guilty : Bool} {role : Option (BitVec 1)}
    (h : (s.flt.replays.find? fun r => r.engine == e) = some x) (hrest : x.suspects.drop 1 = [])
    (hg : (x.guilty || guilty) = true ∨ (s.eng e.toNat).unattributed.length < 2) :
    (s.replayNext e guilty role).fe = s.fe ∧
    (s.replayNext e guilty role).flt.replays = (s.flt.replays.filter fun x => x.engine != e) ∧
    ((s.replayNext e guilty role).eng e.toNat).replaying = false ∧
    ((s.replayNext e guilty role).eng e.toNat).guiltyCount = (s.eng e.toNat).guiltyCount ∧
    (s.replayNext e guilty role).flt.event = s.flt.event := by
  unfold replayNext
  rw [h]
  dsimp only
  rw [if_pos (by rw [hrest]; rfl)]
  have hk := stallTrace_keeps (K := 0x100000) (e := e.toNat) (verdict := if (x.guilty || guilty) = true then 1 else 2)
    (Keeps.refl _ (s.modEng e.toNat fun k => { k with idleRun := 0, sampled := k.progress })) (by decide)
  have hfe := hk.fe.resolve_left (by decide)
  have hflt := hk.flt.resolve_left (by decide)
  generalize (s.modEng e.toNat fun k => { k with idleRun := 0, sampled := k.progress }).stallTrace e.toNat
    (if (x.guilty || guilty) = true then 1 else 2) = t at hfe hflt ⊢
  have heng : t.eng e.toNat = { s.eng e.toNat with idleRun := 0, sampled := (s.eng e.toNat).progress } := by
    rw [State.eng, hflt, ← State.eng, modEng_eng_same]
  generalize hv : (({ t with flt := { t.flt with replays := s.flt.replays.filter fun x => x.engine != e } } : State).modEng
    e.toNat fun k => { k with replaying := false }) = v
  have hve : v.eng e.toNat = { s.eng e.toNat with idleRun := 0, sampled := (s.eng e.toNat).progress, replaying := false } := by
    rw [← hv, modEng_eng_same]
    exact congrArg (fun g : FltEng => { g with replaying := false }) heng
  have hvfe : v.fe = s.fe := by rw [← hv]; exact hfe
  have hvr : v.flt.replays = s.flt.replays.filter fun x => x.engine != e := by rw [← hv]; rfl
  have hvev : v.flt.event = s.flt.event := by
    rw [← hv]
    show t.flt.event = s.flt.event
    rw [hflt]
    rfl
  split
  · exact ⟨hvfe, hvr, by rw [hve], by rw [hve], hvev⟩
  · next hn =>
    obtain ⟨ts, hts⟩ := unattributed_of_few (s := v) (n := e.toNat) (by rw [hve]; exact hg.resolve_left hn) role
    rw [hts]
    refine ⟨hvfe, hvr, ?_, ?_, hvev⟩
    · rw [modEng_eng_same, hve]
    · rw [modEng_eng_same, hve]

theorem underTest_of_find {s : State} {e : EngineId} {x : ReplayRun} {c : CtxId} {rest : List CtxId}
    (h : (s.flt.replays.find? fun r => r.engine == e) = some x) (hx : x.suspects = c :: rest) : s.underTest e = some c := by
  rw [underTest, h]
  exact congrArg List.head? hx

/-- An engine with replay works for the contexts of its RUNNING commands. -/
theorem onEngine_of_hasReplay {n : Nat} (h : hasReplay n = true) (s : State) (c : CtxId) : s.onEngine n c =
    s.fe.cmds.any fun x => x.ctx == c && x.phase == .running && engineOfClass (classOf x.opcode) == n := by
  obtain ⟨h1, h2⟩ := engine_of_hasReplay h
  have hred : (n == engRed) = false := by
    rw [beq_eq_false_iff_ne, engRed]
    omega
  rw [onEngine, if_neg (by omega), if_neg (by omega), if_neg (by rw [engArbiter]; omega), hred]
  simp

theorem engineRules_of_hasReplay {n : Nat} (h : hasReplay n = true) (s : State) : s.engineRules n = s := by
  obtain ⟨h1, h2⟩ := engine_of_hasReplay h
  rw [engineRules, if_neg (by omega), if_neg (by omega), if_neg (by rw [engRed]; omega), if_neg (by rw [engTrust]; omega)]

/-- A Semicolon of an engine with replay that works for no context. -/
theorem semicolonWork_of_idle {s : State} {n : Nat} (hr : hasReplay n = true) (h : ∀ c, s.onEngine n c = false)
    (own : CtxId → Cause) : s.semicolonWork n own =
      s.modEng n fun g => { g with idleRun := 0, resetting := false, sampled := g.progress } := by
  have hcs : s.liveCtxs.filter (s.onEngine n) = [] := List.filter_eq_nil_iff.mpr fun c _ => by rw [h c]; decide
  rw [semicolonWork, hcs]
  dsimp only [List.foldl_nil]
  rw [engineRules_of_hasReplay hr]

/-- The suspect under test is found guilty (R530), before the engine is reset. -/
def foundGuilty (s : State) (e : EngineId) (c : CtxId) (as : List DryAnswers) : State :=
  (((s.dryReplay e c as).modCtx c fun k => { k with cause := causeStallGuilty }).modEng e.toNat fun g =>
    { g with guiltyCount := satInc g.guiltyCount }).fltEvent fevGuilty

/-- What stands, and what is told, once the suspect under test is found guilty and the engine reset. -/
def guiltyReset (s : State) (e : EngineId) (c : CtxId) (as : List DryAnswers) : State :=
  (s.foundGuilty e c as).modEng e.toNat fun g => { g with idleRun := 0, resetting := false, sampled := g.progress }

theorem replayGuilty_of_idle {s : State} {e : EngineId} {c : CtxId} (hu : s.underTest e = some c)
    (hi : 16 ≤ (s.eng e.toNat).idleRun) (hr : hasReplay e.toNat = true) (h : ∀ x, s.onEngine e.toNat x = false)
    (as : List DryAnswers) : s.replayGuilty e as = (s.guiltyReset e c as).replayNext e true none := by
  have hfe : (s.foundGuilty e c as).fe.cmds = s.fe.cmds := by
    show (s.dryReplay e c as).fe.cmds = s.fe.cmds
    rw [dryReplay_fe]
  have hon : ∀ x, (s.foundGuilty e c as).onEngine e.toNat x = false := fun x => by
    rw [onEngine_of_hasReplay hr, hfe, ← onEngine_of_hasReplay hr, h x]
  unfold replayGuilty
  rw [hu]
  dsimp only
  rw [if_neg (BitVec.not_lt.mpr hi), ← foundGuilty, semicolonWork_of_idle hr hon, ← guiltyReset]

theorem guiltyReset_facts (s : State) (e : EngineId) (c : CtxId) (as : List DryAnswers) :
    ((s.guiltyReset e c as).ctx c).cause = causeStallGuilty ∧
    (∀ x, x ≠ c → (s.guiltyReset e c as).ctx x = s.ctx x) ∧
    (s.guiltyReset e c as).fe.replayStore = (s.fe.replayStore.filter fun y => !(y.1 == e && y.2.ctx == c)) ∧
    (s.guiltyReset e c as).flt.replays = s.flt.replays ∧
    ((s.guiltyReset e c as).eng e.toNat).guiltyCount = satInc (s.eng e.toNat).guiltyCount ∧
    (s.guiltyReset e c as).flt.event.getLsbD fevGuilty = true := by
  obtain ⟨hflt, heng⟩ := s.dryReplay_onlyProgress e c as
  have hfe := s.dryReplay_fe e c as
  obtain ⟨n, hn⟩ := heng e.toNat
  unfold guiltyReset foundGuilty
  generalize s.dryReplay e c as = t at hflt hn hfe ⊢
  have hstore : t.fe.replayStore = s.fe.replayStore.filter fun y => !(y.1 == e && y.2.ctx == c) := by rw [hfe]
  have hreplays : t.flt.replays = s.flt.replays := by rw [hflt]
  refine ⟨?_, fun x hx => ?_, hstore, hreplays, ?_, (getLsbD_setBitTo _ _ (by decide) _).trans (if_pos rfl)⟩
  · exact congrArg Ctx.cause (modCtx_ctx_same t c fun k => { k with cause := causeStallGuilty })
  · refine (modCtx_ctx_ne t c (fun k => { k with cause := causeStallGuilty }) x hx).trans ?_
    rw [State.ctx, hfe, ← State.ctx]
  · have hcount : (t.eng e.toNat).guiltyCount = (s.eng e.toNat).guiltyCount := by rw [hn]
    have hg := modEng_eng_same (t.modCtx c fun k => { k with cause := causeStallGuilty }) e.toNat
      fun g => { g with guiltyCount := satInc g.guiltyCount }
    rw [modEng_eng_same, ← hcount]
    exact congrArg FltEng.guiltyCount hg

theorem replayGuilty_of_busy {s : State} {e : EngineId} (hi : (s.eng e.toNat).idleRun < 16) (as : List DryAnswers) :
    s.replayGuilty e as = s := by
  unfold replayGuilty
  split
  · rfl
  · exact if_pos hi

theorem replayCleared_of_test {s : State} {e : EngineId} {c : CtxId} (hu : s.underTest e = some c) (as : List DryAnswers) :
    s.replayCleared e as = (s.dryReplay e c as).replayNext e false none := by
  unfold replayCleared
  rw [hu]

/-! ### The trust core and the memories (R540, R562) -/

theorem setGrade_stops (s : State) (g : BitVec 2) :
    (s.setGrade g).sys = s.sys ∧ (s.setGrade g).flt.stamps = s.flt.stamps := by
  have hk : Keeps 0x42010F (s.graded g) (s.setGrade g) := by
    rw [setGrade_eq]
    split
    · exact .refl _ _
    · exact reissueCert_keeps (.refl _ _) (by decide)
  have hg : (s.graded g).flt.stamps = s.flt.stamps := by
    have h : (s.graded g).flt = _ :=
      ((trayPost_keeps (K := 0x520000) (trace_keeps (Keeps.refl _ _) (by decide)) (by decide)).flt.resolve_left (by decide) :)
    rw [h]
    rfl
  exact ⟨(setGrade_keeps (K := 0x530008) (Keeps.refl _ s) (by decide)).sys.resolve_left (by decide),
    (congrArg Flt.stamps (hk.flt.resolve_left (by decide))).trans hg⟩

/-- Grade Black is entered before the Full Stop (Table 18-8). -/
theorem blackStop_stops {s : State} (hrun : s.running = true) (hf : s.flt.stamps.length < 2) (cause : Cause)
    (hc : stopCounted cause = true) (role : Option (BitVec 1)) :
    (s.blackStop cause role).still ∧ (s.blackStop cause role).sys.phase = .fullStop ∧
    (s.blackStop cause role).flt.health.kept = 3 := by
  obtain ⟨hsys, hstamps⟩ := s.setGrade_stops 3
  have hstop : (s.setGrade 3).canStop = true := by
    rw [canStop, hsys, ← canStop]
    exact canStop_of_running hrun
  have hgrade : (s.setGrade 3).stamped.flt.health.grade = 3 := s.setGrade_grade 3
  have hflt : (s.setGrade 3).stamped.stopping.flt = (s.setGrade 3).stamped.flt :=
    (stopping_keeps _).flt.resolve_left (by decide)
  rw [blackStop, if_pos hrun, fullStop_of_few hstop hc (by rw [hstamps]; exact hf)]
  refine ⟨enterStop_still _ _ _ _, ?_⟩
  rw [enterStop_eq]
  generalize (s.setGrade 3).stamped.stopping = u at hflt ⊢
  refine ⟨rfl, ?_⟩
  rw [← hgrade, ← hflt]
  rfl

/-- A meter at the start of a run. -/
def meterBlank (x : Mtr) : Prop := x.counts = [] ∧ x.energy = 0 ∧ x.seq = 0 ∧ x.heldReports = []

/-- One meter begins a new run. -/
def meterBegin (s : State) (d : Slot) : State :=
  (s.meterRestart d).modMtr d fun x => { x with heldReports := [], last := 0, boundAny := false }

theorem meterBegin_mtr (s : State) (d x : Slot) (h : meterBlank (s.mtr x) ∨ x = d) : meterBlank ((s.meterBegin d).mtr x) := by
  rcases eq_or_ne x d with rfl | hne
  · have h1 : (s.meterBegin x).mtr x = { (s.meterRestart x).mtr x with heldReports := [], last := 0, boundAny := false } :=
      Tab.get_set_same _ _ _ _
    have h2 : (s.meterRestart x).mtr x =
        { s.mtr x with counts := [], energy := 0, seq := 0, tPrev := 0, takenAny := false, sat := false } :=
      Tab.get_set_same _ _ _ _
    rw [h1, h2]
    exact ⟨rfl, rfl, rfl, rfl⟩
  · have hx : x.toNat ≠ d.toNat := fun he => hne (BitVec.eq_of_toNat_eq he)
    have h1 : (s.meterBegin d).mtr x = s.mtr x :=
      (Tab.get_set_ne _ _ _ hx).trans (Tab.get_set_ne _ _ _ hx)
    rw [h1]
    exact h.resolve_right hne

theorem foldl_meterBegin_mtr (ds : List Slot) (s : State) (x : Slot) (h : meterBlank (s.mtr x) ∨ x ∈ ds) :
    meterBlank ((ds.foldl meterBegin s).mtr x) := by
  induction ds generalizing s with
  | nil => exact h.resolve_right List.not_mem_nil
  | cons d ds ih =>
    refine ih _ ?_
    rcases h with h | h
    · exact .inl (meterBegin_mtr s d x (.inl h))
    · exact (List.mem_cons.mp h).imp (fun he => meterBegin_mtr s d x (.inr he)) id

theorem meterBegin_pwr (s : State) (d : Slot) : ∃ p : Pwr, s.meterBegin d = { s with pwr := p } ∧ p.run = s.pwr.run :=
  ⟨{ s.pwr with mtrs := (s.meterBegin d).pwr.mtrs }, rfl, rfl⟩

theorem foldl_meterBegin_pwr (ds : List Slot) (s : State) :
    ds.foldl meterBegin s = { s with pwr := (ds.foldl meterBegin s).pwr } ∧ (ds.foldl meterBegin s).pwr.run = s.pwr.run := by
  induction ds generalizing s with
  | nil => exact ⟨rfl, rfl⟩
  | cons d ds ih =>
    obtain ⟨p, hp, hr⟩ := s.meterBegin_pwr d
    rw [List.foldl_cons, hp]
    obtain ⟨heq, hrun⟩ := ih { s with pwr := p }
    generalize ds.foldl meterBegin { s with pwr := p } = t at heq hrun ⊢
    exact ⟨heq, hrun.trans hr⟩

/-- The state whose meters a new run restarts. -/
def runCounted (s : State) : State :=
  { s with isl := { s.isl with mono := s.isl.mono + 1 }, pwr := { s.pwr with run := (s.isl.mono + 1).setWidth 32 } }

theorem newRun_eq (s : State) : s.newRun = slots.foldl meterBegin s.runCounted := rfl

end State

open State

section
variable {s : State} {e : EngineId} (he : e.toNat ≤ 101)
include he

theorem exec_engineStall (r : BitVec 1) : exec (.engineStall e r) s = .next (s.stall e (some r)).settleAll :=
  if_neg (Nat.not_lt.mpr he)

theorem exec_replayGuilty (a : List DryAnswers) : exec (.replayGuilty ⟨e, a⟩) s = .next (s.replayGuilty e a).settleAll :=
  if_neg (Nat.not_lt.mpr he)

theorem exec_replayCleared (a : List DryAnswers) : exec (.replayCleared ⟨e, a⟩) s = .next (s.replayCleared e a).settleAll :=
  if_neg (Nat.not_lt.mpr he)

theorem exec_sramFault_engine (m : Bool) (r : BitVec 1) :
    exec (.sramFault (some e) m r) s = .next (s.sramError (some e.toNat) m (some r)).settleAll :=
  if_neg (Nat.not_lt.mpr he)

end

theorem exec_sramFault_core (s : State) (m : Bool) (r : BitVec 1) :
    exec (.sramFault none m r) s = .next (s.sramError none m (some r)).settleAll := rfl

theorem exec_trustCoreMismatch (s : State) (r : BitVec 1) :
    exec (.trustCoreMismatch r) s = .next (s.coreMismatch (some r)).settleAll := rfl

/-- A sample round while the block runs, and none while it does not (R525). -/
theorem engineFaults_samples (s : State) :
    (s.running = false → exec .engineStallSample s = .next s) ∧
    (s.running = true → ∃ t, exec .engineStallSample s = .next t ∧ t = { s with flt := t.flt } ∧
      ∀ e : Nat, e < 102 → t.eng e = s.sampledEng e) := by
  refine ⟨fun h => exec_next rfl (if_neg (by rw [h]; decide)), fun h => ?_⟩
  obtain ⟨f, hf, hdone, -⟩ := s.sampleRound 102
  exact ⟨{ s with flt := f }, exec_next rfl ((opSample_of_running h).trans hf), rfl, hdone⟩

/-- The answer to a stall that is declared (R526 to R531). -/
theorem engineFaults_stall {s : State} {e : EngineId} (he : e.toNat ≤ 101) (r : BitVec 1) (hrun : s.running = true)
    (hr : (s.eng e.toNat).replaying = false) (hi : s.flt.stallSamples ≤ (s.eng e.toNat).idleRun) :
    let owed : Bool := s.mem.out.any fun q => q.ch == State.engChan e.toNat && !q.discard
    let semi (c : Cause) : FltLast := { level := lvlSemicolon, escalated := false, cause := c, target := e.setWidth 10 }
    (e.toNat = engArbiter → s.flt.stamps.length < 2 →
      ∃ t, exec (.engineStall e r) s = .next t ∧ s.stoppedFrom t causeArbiterStall false r) ∧
    (e.toNat < 32 → owed = true →
      ∃ u : State, exec (.engineStall e r) s = .next u.settleAll ∧ u.flt.last = semi causeMcNoResponse) ∧
    (State.hasReplay e.toNat = true → s.suspectsOf e.toNat ≠ [] →
      ∃ (u : State) (others : List ReplayRun) (kept : List (EngineId × Cmd)),
        exec (.engineStall e r) s = .next u.settleAll ∧ (u.eng e.toNat).replaying = true ∧
        u.flt.replays = others ++ [{ engine := e, suspects := (s.suspectsOf e.toNat).take 8,
                                     rest := (s.suspectsOf e.toNat).drop 8, guilty := false }] ∧
        u.fe.replayStore = kept ++ s.storeOf e ((s.suspectsOf e.toNat).take 8) ∧
        u.flt.last = semi causeStallSuspect) ∧
    (State.hasReplay e.toNat = false → e.toNat ≠ engArbiter → (e.toNat < 32 → owed = false) →
      (s.eng e.toNat).unattributed.length < 2 →
      ∃ u : State, exec (.engineStall e r) s = .next u.settleAll ∧ u.flt.last = semi causeEngineStall ∧
        u.flt.event.getLsbD fevSemicolon = true) := by
  intro owed semi
  have hstall := exec_next (exec_engineStall he r) (congrArg settleAll (stall_of_declared hrun hr hi (some r)))
  have hmem : (s.stallNoted e.toNat).mem = s.mem := (s.stallNoted_keeps _).mem.resolve_left (by decide)
  have hfe : (s.stallNoted e.toNat).fe = s.fe := (s.stallNoted_keeps _).fe.resolve_left (by decide)
  have htarget : BitVec.ofNat 10 e.toNat = e.setWidth 10 := BitVec.ofNat_toNat _ _
  dsimp only at hstall
  rw [hmem] at hstall
  refine ⟨fun ha hf => ?_, fun hlt ho => ?_, fun hrep hsus => ?_, fun hrep ha ho hu => ?_⟩
  · obtain ⟨hstill, hstopped⟩ := stall_arbiter hrun hf e.toNat r
    rw [if_pos ha, settleAll_of_still hstill] at hstall
    exact ⟨_, hstall, hstopped⟩
  · rw [if_neg (by rw [engArbiter]; omega), if_pos (by rw [Bool.and_eq_true]; exact ⟨decide_eq_true hlt, ho⟩)] at hstall
    exact ⟨_, hstall, by rw [semicolon_last, htarget]⟩
  · obtain ⟨h1, h2⟩ := engine_of_hasReplay hrep
    have hs : (s.stallNoted e.toNat).suspectsOf e.toNat = s.suspectsOf e.toNat := by
      simp only [suspectsOf, State.ctx, hfe]
    have hstore : (s.stallNoted e.toNat).storeOf e ((s.suspectsOf e.toNat).take 8) =
        s.storeOf e ((s.suspectsOf e.toNat).take 8) := by rw [storeOf, hfe, ← storeOf]
    rw [if_neg (by rw [engArbiter]; omega), if_neg (by simp only [Bool.and_eq_true, decide_eq_true_eq]; omega),
      if_pos hrep] at hstall
    obtain ⟨others, kept, hreplaying, hreplays, hkept, hlast⟩ := replayStart_begins (by rw [hs]; exact hsus) (some r)
    rw [hs] at hreplays hkept
    rw [hstore] at hkept
    exact ⟨_, others, kept, hstall, hreplaying, hreplays, hkept, hlast⟩
  · rw [if_neg ha, if_neg (by
      simp only [Bool.and_eq_true, decide_eq_true_eq, not_and]
      intro hlt hany
      exact absurd (ho hlt) (by rw [Bool.not_eq_false]; exact hany)), if_neg (by rw [hrep]; decide)] at hstall
    have hun := (Tame.refl (s.stallNoted e.toNat)).semicolon e.toNat causeEngineStall false (fun _ => causeStallSuspect)
      |>.eng e.toNat
    obtain ⟨ts, hts⟩ := unattributed_of_few (n := e.toNat) (by rw [hun, stallNoted_unattributed]; exact hu) (some r)
    rw [hts] at hstall
    have hlast := (s.stallNoted e.toNat).semicolon_last e.toNat causeEngineStall false fun _ => causeStallSuspect
    rw [htarget] at hlast
    exact ⟨_, hstall, hlast, (s.stallNoted e.toNat).semicolon_event e.toNat causeEngineStall false fun _ => causeStallSuspect⟩

/-- The suspect under test is guilty (R530). -/
theorem engineFaults_guilty {s : State} {e : EngineId} (he : e.toNat ≤ 101) (a : List DryAnswers) {c : CtxId}
    {rest wait : List CtxId} {g : Bool}
    (hfind : (s.flt.replays.find? fun x => x.engine == e) = some { engine := e, suspects := c :: rest, rest := wait, guilty := g })
    (hi : 16 ≤ (s.eng e.toNat).idleRun) (hr : State.hasReplay e.toNat = true) (hon : ∀ x : CtxId, s.onEngine e.toNat x = false) :
    let others := s.flt.replays.filter fun x => x.engine != e
    ∃ u : State, exec (.replayGuilty ⟨e, a⟩) s = .next u.settleAll ∧ (u.ctx c).cause = causeStallGuilty ∧
      (u.eng e.toNat).guiltyCount = satInc (s.eng e.toNat).guiltyCount ∧ u.flt.event.getLsbD fevGuilty = true ∧
      (∀ x : CtxId, x ≠ c → u.ctx x = s.ctx x) ∧
      u.fe.replayStore = s.fe.replayStore.filter (fun y => !(y.1 == e && y.2.ctx == c)) ∧
      (rest ≠ [] → u.flt.replays = others ++ [{ engine := e, suspects := rest, rest := wait, guilty := true }]) ∧
      (rest = [] → u.flt.replays = others ∧ (u.eng e.toNat).replaying = false) := by
  intro others
  obtain ⟨hcause, hctx, hstore, hreplays, hcount, hevent⟩ := s.guiltyReset_facts e c a
  have hexec := exec_next (exec_replayGuilty he a) (congrArg settleAll
    (replayGuilty_of_idle (underTest_of_find hfind rfl) hi hr hon a))
  have hf := hfind
  rw [← hreplays] at hf
  generalize s.guiltyReset e c a = v at *
  cases rest with
  | cons d rest =>
    rw [replayNext_more hf (by simp)] at hexec
    refine ⟨_, hexec, hcause, ?_, hevent, hctx, hstore, fun _ => ?_, nofun⟩
    · rw [← hcount]
      show ((v.modEng e.toNat fun k => { k with idleRun := 0, sampled := k.progress }).eng e.toNat).guiltyCount = _
      rw [modEng_eng_same]
    · show v.flt.replays.filter _ ++ _ = _
      rw [hreplays, Bool.or_true]
      rfl
  | nil =>
    obtain ⟨hfe, hrep, hrepl, hcnt, hev⟩ := replayNext_last (guilty := true) (role := none) hf rfl (.inl (Bool.or_true _))
    refine ⟨_, hexec, ?_, hcnt.trans hcount, by rw [hev]; exact hevent, fun x hx => ?_, by rw [hfe]; exact hstore,
      fun h => absurd rfl h, fun _ => ⟨by rw [hrep, hreplays], hrepl⟩⟩
    · rw [State.ctx, hfe, ← State.ctx, hcause]
    · rw [State.ctx, hfe, ← State.ctx, hctx x hx]

/-- The suspect under test is cleared (R530). -/
theorem engineFaults_cleared {s : State} {e : EngineId} (he : e.toNat ≤ 101) (a : List DryAnswers) {c : CtxId}
    {rest wait : List CtxId} {g : Bool}
    (hfind : (s.flt.replays.find? fun x => x.engine == e) = some { engine := e, suspects := c :: rest, rest := wait, guilty := g }) :
    let others := s.flt.replays.filter fun x => x.engine != e
    ∃ u : State, exec (.replayCleared ⟨e, a⟩) s = .next u.settleAll ∧
      (rest ≠ [] → (∀ x : CtxId, u.ctx x = s.ctx x) ∧
        u.fe.replayStore = s.fe.replayStore.filter (fun y => !(y.1 == e && y.2.ctx == c)) ∧
        u.flt.replays = others ++ [{ engine := e, suspects := rest, rest := wait, guilty := g }]) ∧
      (rest = [] → g = true ∨ (s.eng e.toNat).unattributed.length < 2 → (∀ x : CtxId, u.ctx x = s.ctx x) ∧
        u.fe.replayStore = s.fe.replayStore.filter (fun y => !(y.1 == e && y.2.ctx == c)) ∧ u.flt.replays = others ∧
        (u.eng e.toNat).replaying = false) := by
  intro others
  obtain ⟨hflt, heng⟩ := s.dryReplay_onlyProgress e c a
  have hfe := s.dryReplay_fe e c a
  have hexec := exec_next (exec_replayCleared he a) (congrArg settleAll
    (replayCleared_of_test (underTest_of_find hfind rfl) a))
  generalize s.dryReplay e c a = v at *
  have hreplays : v.flt.replays = s.flt.replays := by rw [hflt]
  have hctx (x : CtxId) : v.ctx x = s.ctx x := by rw [State.ctx, hfe, ← State.ctx]
  have hstore : v.fe.replayStore = s.fe.replayStore.filter (fun y => !(y.1 == e && y.2.ctx == c)) := by rw [hfe]
  have hf := hfind
  rw [← hreplays] at hf
  cases rest with
  | cons d rest =>
    rw [replayNext_more hf (by simp)] at hexec
    refine ⟨_, hexec, fun _ => ⟨hctx, hstore, ?_⟩, nofun⟩
    show v.flt.replays.filter _ ++ _ = _
    rw [hreplays, Bool.or_false]
    rfl
  | nil =>
    refine ⟨_, hexec, fun h => absurd rfl h, fun _ hg => ?_⟩
    obtain ⟨n, hn⟩ := heng e.toNat
    obtain ⟨hvfe, hrep, hrepl, -, -⟩ := replayNext_last (guilty := false) (role := none) hf rfl
      (hg.imp (fun h => by rw [Bool.or_false]; exact h) fun h => by rw [hn]; exact h)
    exact ⟨fun x => by rw [State.ctx, hvfe, ← State.ctx, hctx], by rw [hvfe]; exact hstore, by rw [hrep, hreplays], hrepl⟩

/-- Full Stops of the trust core and of its memories (R540, Table 18-8). -/
theorem engineFaults_core {s : State} (hrun : s.running = true) (hf : s.flt.stamps.length < 2) (r : BitVec 1) :
    (s.flt.health.coldCore = false →
      ∃ t, exec (.trustCoreMismatch r) s = .next t ∧ s.stoppedFrom t causeCoreMismatch false r) ∧
    (s.flt.health.coldCore = true →
      ∃ t, exec (.trustCoreMismatch r) s = .next t ∧ t.sys.phase = .fullStop ∧ t.flt.health.kept = 3) ∧
    (∃ t, exec (.sramFault none false r) s = .next t ∧ s.stoppedFrom t causeSramFault false r) := by
  have hstop := canStop_of_running hrun
  refine ⟨fun hc => ?_, fun hc => ?_, ?_⟩
  · refine ⟨_, exec_next (exec_trustCoreMismatch s r) ?_, fullStop_stoppedFrom hstop rfl hf false r⟩
    rw [coreMismatch, hrun, hc]
    exact settleAll_of_still (fullStop_still hstop rfl hf false _)
  · obtain ⟨hstill, hphase, hkept⟩ := blackStop_stops hrun hf causeCoreMismatch rfl (some r)
    refine ⟨_, exec_next (exec_trustCoreMismatch s r) ?_, hphase, hkept⟩
    rw [coreMismatch, hrun, hc]
    exact settleAll_of_still hstill
  · refine ⟨_, exec_next (exec_sramFault_core s false r) ?_, fullStop_stoppedFrom hstop rfl hf false r⟩
    rw [sramError, hrun]
    exact settleAll_of_still (fullStop_still hstop rfl hf false _)

/-- Settles O19: stalls by the engine they are of, and each end of a replay from what the dry run leaves. -/
theorem engineFaults : Obligations.EngineFaults := by
  unfold Obligations.EngineFaults
  refine ⟨fun s => ?_, fun s e r he => ?_, fun s e a he => ?_, fun s r e he => ⟨fun hrun hf => engineFaults_core hrun hf r,
    fun hrun => ?_, fun hrun => ?_, fun hoff => ⟨?_, ?_⟩⟩⟩
  · obtain ⟨hoff, hon⟩ := engineFaults_samples s
    refine ⟨hoff, fun h => ?_⟩
    obtain ⟨t, ht, heq, heng⟩ := hon h
    refine ⟨t, ht, heq, fun e he => ?_⟩
    rw [heng e he]
    exact ⟨rfl, rfl, s.sampledEng_idleRun e⟩
  · intro owed semi
    refine ⟨fun h => exec_next (exec_engineStall he r) (congrArg settleAll (stall_of_none h _)), fun hrun hr hi => ?_⟩
    exact engineFaults_stall he r hrun hr hi
  · intro others mine
    refine ⟨fun h => ⟨exec_next (exec_replayGuilty he a) (congrArg settleAll ?_),
      exec_next (exec_replayCleared he a) (congrArg settleAll ?_)⟩, fun c rest wait g hfind => ⟨fun hi => ?_, fun hi hr hon => ?_, ?_⟩⟩
    · rw [replayGuilty, h]
    · rw [replayCleared, h]
    · exact exec_next (exec_replayGuilty he a) (congrArg settleAll (replayGuilty_of_busy hi a))
    · exact engineFaults_guilty he a hfind hi hr hon
    · exact engineFaults_cleared he a hfind
  · refine ⟨(s.record causeSramFault e.toNat).semicolon e.toNat causeSramFault false plainCause,
      exec_next (exec_sramFault_engine he false r) ?_, ?_, semicolon_event _ _ _ _ _, ?_⟩
    · rw [sramError, hrun]
      rfl
    · rw [semicolon_last, BitVec.ofNat_toNat]
    · have hgrew := (semicolon_keeps (e := e.toNat) (cause := causeSramFault) (escalated := false) (own := plainCause)
        (Keeps.refl 0xFFFFFF (s.record causeSramFault e.toNat)) (by decide)).grew.length_le
      exact Nat.lt_of_lt_of_le (Nat.lt_succ_self _) hgrew
  · obtain ⟨heq, hr⟩ := foldl_meterBegin_pwr slots s.runCounted
    refine ⟨s.newRun, exec_next (exec_sramFault_engine he true r) ?_, ?_, ?_, fun d => ?_⟩
    · rw [sramError, hrun]
      rfl
    · rw [newRun_eq]
      exact heq.trans rfl
    · rw [newRun_eq]
      exact hr
    · have hd : ∀ d : Slot, d ∈ slots := by decide
      rw [newRun_eq]
      exact foldl_meterBegin_mtr slots s.runCounted d (.inr (hd d))
  · refine exec_next (exec_trustCoreMismatch s r) (congrArg settleAll ?_)
    rw [coreMismatch, hoff]
    rfl
  · intro m o ho
    have hsram (n : Option Nat) : s.sramError n m (some r) = s := by
      unfold sramError
      rw [hoff]
      rfl
    rcases ho with rfl | rfl
    · rw [exec_sramFault_core, hsram]
    · rw [exec_sramFault_engine he, hsram]

end Sys2Proof.Machine
end

section
/-! PROOFS. Formation, tickets and leaving (O52): the statement turns on one property of KMAC256. -/

namespace Sys2Proof.Machine

namespace State

/-! ### The gate of Test state and of debug (R356) -/

/-- Every mailbox command of a trust domain runs behind the gate. -/
theorem exec_domCmd {i : Instr} {h : MbxHdr} {code : BitVec 16} {want : Option Nat}
    (hp : mailParts i = some (h, code, true, want)) (hlo : 0x0030 ≤ code.toNat) (hhi : code.toNat ≤ 0x0039) (s : State) :
    ∃ (len : Option Nat) (act : State → MbxAnswer), (∀ k, len = some k → want = some k) ∧
      mailEnds i s (s.domCmd h code len act) := by
  unfold mailParts at hp
  split at hp
  case h_8 => cases hp; exact ⟨_, _, fun _ h => h, rfl⟩
  case h_9 => cases hp; exact ⟨_, _, fun _ h => h, rfl⟩
  case h_10 => cases hp; exact ⟨_, _, fun _ h => h, rfl⟩
  case h_11 => cases hp; exact ⟨_, _, fun _ h => h, rfl⟩
  case h_12 => cases hp; exact ⟨_, _, fun _ h => h, rfl⟩
  case h_13 => cases hp; exact ⟨_, _, fun _ h => h, rfl⟩
  case h_14 => cases hp; exact ⟨_, _, fun _ h => h, rfl⟩
  case h_15 => cases hp; exact ⟨none, _, nofun, rfl⟩
  case h_16 => cases hp; exact ⟨none, _, nofun, rfl⟩
  case h_17 => cases hp; exact ⟨none, _, nofun, rfl⟩
  all_goals cases hp
  all_goals exact absurd hhi (by decide)

theorem domCmd_of_gate {s : State} {h : MbxHdr} {n : Nat} {code : BitVec 16} {st : Status} (hready : s.mbxReady h n)
    (hf : h.fn = 0) (hgate : s.joinGate = some st) {len : Option Nat} (hw : ∀ k, len = some k → k = n)
    (act : State → MbxAnswer) : s.domCmd h code len act = s.mbxReply h code st [] := by
  refine mbxRun_of_act hready (fun _ => hf) hw ?_
  rw [domGate, hgate]

theorem joinGate_of_test {s : State} (h : s.lcd.state = 1) : s.joinGate = some stLcState := if_pos h

theorem joinGate_of_debug {s : State} (h : s.lcd.state ≠ 1) (hd : s.lcd.debugOpen = true ∨ s.lcd.busy = some .unlock) :
    s.joinGate = some stDebugOpen := by
  rw [joinGate, if_neg h, if_pos]
  rcases hd with hd | hd <;> simp [hd]

/-! ### FORM_HELLO (R357, Table 12-6) -/

section
variable {s : State} {m : FormHello}

theorem formHelloDo_of_held (h : (s.dom m.slot).phase ≠ .free) : s.formHelloDo m = (s, stSlotBusy, []) := if_pos h

theorem formHelloDo_of_pool (h : (s.dom m.slot).phase = .free) (hp : s.poolRole = true) :
    s.formHelloDo m = (s, stRoleMismatch, []) := (if_neg (not_not_intro h)).trans (if_pos hp)

variable (h : (s.dom m.slot).phase = .free) (hp : s.poolRole = false)
include h hp

theorem formHelloDo_of_record (hr : recordOk m.record = false) : s.formHelloDo m = (s, stDomainRecord, []) := by
  simp [formHelloDo, h, hp, hr]

variable (hr : recordOk m.record = true)
include hr

theorem formHelloDo_of_form (hf : s.formOk m = false) : s.formHelloDo m = (s, stFormation, []) := by
  simp [formHelloDo, h, hp, hr, hf]

variable (hf : s.formOk m = true)
include hf

theorem formHelloDo_of_keys (hk : ¬ (s.idUsable = true ∧ s.aliasUsable = true ∧ s.slotRowsOut m.slot = false)) :
    s.formHelloDo m = (s, stKeyOrphan, []) := by
  have hc : (!s.idUsable || !s.aliasUsable || s.slotRowsOut m.slot) = true := by
    cases hid : s.idUsable <;> cases hal : s.aliasUsable <;> cases ho : s.slotRowsOut m.slot <;> simp_all
  unfold formHelloDo
  dsimp only
  rw [if_neg (not_not_intro h), if_neg (by rw [hp]; decide), if_neg (by rw [hr]; decide), if_neg (by rw [hf]; decide), if_pos hc]

omit h hp hr hf in
theorem setDom_meterRestart (t : State) (d : Slot) (x : Dom) :
    ((t.setDom d x).meterRestart d).dom d = x ∧ (((t.setDom d x).meterRestart d).mtr d).counts = [] ∧
    ((t.setDom d x).meterRestart d).freeCtr = t.freeCtr ∧ ((t.setDom d x).meterRestart d).outs = t.outs := by
  refine ⟨setDom_dom_same t d x, ?_, rfl, rfl⟩
  rw [meterRestart, modMtr, setMtr_mtr_same]

/-- A FORM_HELLO that passes: the slot is FORMING with the exchange's transcript. -/
theorem formHelloDo_of_passed (hid : s.idUsable = true) (hal : s.aliasUsable = true) (ho : s.slotRowsOut m.slot = false) :
    ∃ (u : State) (b : Bytes), s.formHelloDo m = (u, stOk, b) ∧ u.freeCtr = s.freeCtr + 3 ∧ u.outs = s.outs ∧
      (u.dom m.slot).phase = .forming ∧ (u.dom m.slot).member = m.member.setWidth 20 ∧
      (u.dom m.slot).domainId = slice m.record 8 16 ∧ (u.mtr m.slot).counts = [] ∧ ∃ f, (u.dom m.slot).form = some f ∧
      f.th = sha384 (m.raw ++ b) ∧ f.record = m.record ∧ f.since = s.now := by
  have hc : ¬ (!s.idUsable || !s.aliasUsable || s.slotRowsOut m.slot) = true := by rw [hid, hal, ho]; decide
  unfold formHelloDo
  dsimp only
  rw [if_neg (not_not_intro h), if_neg (by rw [hp]; decide), if_neg (by rw [hr]; decide), if_neg (by rw [hf]; decide), if_neg hc]
  refine ⟨_, _, rfl, ?_⟩
  have hfacts := setDom_meterRestart
  obtain ⟨hdom, hcounts, hfree, houts⟩ := hfacts _ m.slot _
  rw [hdom, hcounts, hfree, houts]
  exact ⟨rfl, rfl, rfl, rfl, rfl, rfl, _, rfl, rfl, rfl, rfl⟩

end

/-! ### Slots that are freed (R359) -/

theorem freeSlot_record {s : State} {d : Slot} (h : (s.dom d).phase ≠ .free) : ((s.freeSlot d).dom d).record = [] := by
  unfold freeSlot
  split
  · next hn =>
    rw [Bool.not_eq_true', slotHeld, bne_eq_false_iff_eq] at hn
    exact absurd hn h
  · dsimp only
    generalize freeVds _ d = u
    have hfreed : ((u.setDom d { event := (u.dom d).event, time := { stepped := (u.dom d).time.stepped } }).dom d).record = [] :=
      congrArg Dom.record (setDom_dom_same _ _ _)
    split
    · exact hfreed
    · rw [dom, (reissueCert_keeps (K := 0x000008) (Keeps.refl _ _) (by decide)).doms.resolve_left (by decide), ← dom]
      exact hfreed

theorem forcedExit_phase {s : State} {d : Slot} (h : (s.dom d).phase ≠ .free) : ((s.forcedExit d).dom d).phase = .free := by
  rw [forcedExit, if_neg (by simp [slotHeld, h])]
  exact freeSlot_phase _ d

theorem opFormTimeout_of_forming {s : State} {d : Slot} (hrun : s.running = true) (h : (s.dom d).phase = .forming) :
    s.opFormTimeout d = (s.freeSlot d).out (.report d stFormation) := if_pos (by simp [hrun, h])

theorem opFormTimeout_of_none {s : State} {d : Slot} (h : s.running = false ∨ (s.dom d).phase ≠ .forming) :
    s.opFormTimeout d = s := by
  refine if_neg ?_
  rcases h with h | h <;> simp [h]

/-! ### The key material a formed domain derives (R358) -/

/-- The memory key of generation 1 of an index whose secret has a material. -/
def firstMemKey (m : BitVec 288) (i : KeyIdx) : Bytes :=
  kdf (leBytes 32 m.toNat) "KX3-MEM" (leBytes 1 i.toNat ++ leBytes 4 (1 : BitVec 32).toNat) 1024

/-- Every row held is held afterwards. -/
def RowsHeld (s t : State) : Prop := ∀ r, (s.row r).valid = true → (t.row r).valid = true

theorem RowsHeld.refl (s : State) : RowsHeld s s := fun _ h => h

theorem RowsHeld.trans {s t u : State} (h : RowsHeld s t) (g : RowsHeld t u) : RowsHeld s u := fun r hr => g r (h r hr)

theorem RowsHeld.of_keys {s t : State} (h : t.keys = s.keys) : RowsHeld s t := fun r hr => by rwa [row_of_keys h]

theorem RowsHeld.foldl {α : Type} {f : State → α → State} (h : ∀ s x, RowsHeld s (f s x)) (xs : List α) (s : State) :
    RowsHeld s (xs.foldl f s) := by
  induction xs generalizing s with
  | nil => exact .refl s
  | cons x xs ih => exact (h s x).trans (ih _)

theorem writeKey_rowsHeld (s : State) (r : Nat) (m : BitVec 288) (p : KeyParent) (tense : BitVec 2) (d : Slot) (gen : BitVec 32) :
    RowsHeld s (s.writeKey r m p tense d gen) := fun y hy => by
  rcases eq_or_ne y r with rfl | hne
  · cases ho : (s.row y).outOfUse with
    | false => rw [writeKey_row_same ho]
    | true =>
      rw [writeKey, if_pos ho]
      exact hy
  · rwa [writeKey_row_ne _ hne]

theorem writeMemKey_rowsHeld (s : State) (i : KeyIdx) (fut : Bool) (k : Bytes) (gen : BitVec 32) :
    RowsHeld s (s.writeMemKey i fut k gen) := RowsHeld.foldl (fun t _ => writeKey_rowsHeld t _ _ _ _ _ _) _ s

/-- An index secret's state and key: the row is written, and the key is the first one under its material. -/
theorem assignOnce_eq (s : State) (i : KeyIdx) (d : Slot) : ∃ (t : State) (m : BitVec 288), t.keys.rows = s.keys.rows ∧
    (s.assignOnce i d).2 = t.writeKey (rowIndex i) m (.row (BitVec.ofNat 12 (rowMember d))) 0 d 0 ∧
    (s.assignOnce i d).1 = firstMemKey ((s.assignOnce i d).2.row (rowIndex i)).material i := by
  unfold assignOnce
  dsimp only
  refine ⟨_, _, ?_, rfl, ?_⟩
  · rfl
  · rw [memKeyBytes, keyBytes, firstMemKey]

theorem assignOnce_rowsHeld (s : State) (i : KeyIdx) (d : Slot) : RowsHeld s (s.assignOnce i d).2 := by
  obtain ⟨t, m, hrow, heq, -⟩ := assignOnce_eq s i d
  rw [heq]
  refine RowsHeld.trans (fun r hr => ?_) (writeKey_rowsHeld t _ _ _ _ _ _)
  rwa [row, hrow, ← row]

/-- No memory key of generation 1 has equal halves: KMAC256, of which XTS needs two different keys. -/
def MemKeyHalvesDiffer : Prop := ∀ (m : BitVec 288) (i : KeyIdx), i ≠ 0 → xtsEqual (firstMemKey m i) = false

theorem assignSecret_succ (n : Nat) (s : State) (i : KeyIdx) (d : Slot) : assignSecret (n + 1) s i d =
    if xtsEqual (s.assignOnce i d).1 then assignSecret n (((s.assignOnce i d).2.record recKeyXtsEqual i.toNat).dropIndexKeys i) i d
    else (s.assignOnce i d).2.writeMemKey i false (s.assignOnce i d).1 1 := by
  rw [assignSecret]

section
variable (hd : MemKeyHalvesDiffer)
include hd

theorem assignSecret_rowsHeld (n : Nat) (s : State) {i : KeyIdx} (hi : i ≠ 0) (d : Slot) : RowsHeld s (assignSecret n s i d) := by
  cases n with
  | zero => exact .refl s
  | succ n =>
    obtain ⟨t, m, -, -, hkey⟩ := assignOnce_eq s i d
    rw [assignSecret_succ, if_neg (by rw [hkey, hd _ i hi]; decide)]
    exact (assignOnce_rowsHeld s i d).trans (writeMemKey_rowsHeld _ _ _ _ _)

theorem deriveReserved_rowsHeld (s : State) (d : Slot) : RowsHeld s (s.deriveReserved d) := by
  refine RowsHeld.foldl (fun t i => ?_) _ s
  split
  · next h =>
    simp only [indexReserved, Bool.and_eq_true, bne_iff_ne] at h
    exact assignSecret_rowsHeld hd _ t h.2.1.1 d
  · exact .refl t

theorem deriveOwn_rowsHeld (s : State) (d : Slot) : RowsHeld s (s.deriveOwn d) := by
  unfold deriveOwn
  dsimp only
  split
  · exact .refl s
  · have hc := writeKey_rowsHeld s (rowDcs d) (key256 (kdf (s.keyBytes (rowDrs d) 32) "KX3-COMMON" (s.dcsCtx d (s.dom d).epoch) 256))
      (.slotRoot d) 0 d 0
    generalize hu : (if (s.dom d).hallCand then _ else _ : State) = u
    have hh : RowsHeld s u := by
      rw [← hu]
      split
      · exact hc.trans (writeKey_rowsHeld _ _ _ _ _ _ _)
      · exact hc
    have hs := hh.trans (.of_keys (t := u.setDom d { s.dom d with hallEpoch := (s.dom d).epoch, dcsEpoch := (s.dom d).epoch }) rfl)
    split
    · exact (hs.trans (writeKey_rowsHeld _ _ _ _ _ _ _)).trans (deriveReserved_rowsHeld hd _ d)
    · exact hs

end

/-! ### FORM_FINISH (R358, Table 12-6, step 4) -/

/-- The slot of a domain that is formed, before its keys are derived. -/
def formedSlot (s : State) (d : Slot) (f : FormPend) : State :=
  let k := s.dom d
  let hall := (recHallCands f.record (hallOf f.member).toNat).any fun c => c.1 == f.member.toNat
  s.setDom d { k with
    phase := .member
    form := none
    record := f.record
    epoch := 1
    sysCand := true
    hallCand := hall
    activeSm := true
    activeHm := hall
    hallManager := f.member
    sysManager := f.member
    quorum := BitVec.ofNat 4 (quorumOf (recHallCount f.record))
    hallPulseAt := s.now
    time := { k.time with stratum := 0 } }

/-- The same with its keys derived. -/
def formedKeys (s : State) (d : Slot) (f : FormPend) (drs : Bytes) : State :=
  ((s.formedSlot d f).writeRoot (rowDrs d) drs d).deriveOwn d

theorem deriveOwn_dom (s : State) (d : Slot) : ∃ a b, (s.deriveOwn d).dom d = { s.dom d with hallEpoch := a, dcsEpoch := b } := by
  have hw (u : State) (r : Nat) (bs : Bytes) : (u.writeRoot r bs d).doms = u.doms :=
    (writeRoot_keeps (K := 0x000040) (Keeps.refl _ u) (by decide)).doms.resolve_left (by decide)
  have hr (u : State) : (u.deriveReserved d).doms = u.doms :=
    (deriveReserved_keeps (K := 0x600140) (Keeps.refl _ u) (by decide)).doms.resolve_left (by decide)
  unfold deriveOwn
  dsimp only
  split
  · exact ⟨_, _, rfl⟩
  · refine ⟨(s.dom d).epoch, (s.dom d).epoch, ?_⟩
    split
    · rw [dom, hr, hw, ← dom, setDom_dom_same]
    · rw [setDom_dom_same]

/-- What the formation of a domain leaves, but for the certificate issued anew at its end. -/
theorem formDone_eq {s : State} {d : Slot} (f : FormPend) (drs : Bytes) (h : (s.dom d).decls = []) :
    ∃ v : State, s.formDone d f drs = v.reissueCert ∧ v.boot = s.boot ∧ v.keys = (s.formedKeys d f drs).keys ∧
      (v.dom d).phase = .member ∧ (v.dom d).epoch = 1 ∧ (v.dom d).activeSm = true ∧ (v.dom d).sysManager = f.member ∧
      (v.dom d).record = f.record := by
  obtain ⟨a, b, hdom⟩ := deriveOwn_dom ((s.formedSlot d f).writeRoot (rowDrs d) drs d) d
  have hw : ((s.formedSlot d f).writeRoot (rowDrs d) drs d).doms = (s.formedSlot d f).doms :=
    (writeRoot_keeps (K := 0x000040) (Keeps.refl _ _) (by decide)).doms.resolve_left (by decide)
  have hboot : (s.formedKeys d f drs).boot = s.boot :=
    (deriveOwn_keeps (K := 0x600540) (writeRoot_keeps (Keeps.refl _ (s.formedSlot d f)) (by decide)) (by decide)).boot.resolve_left
      (by decide)
  rw [dom, dom, hw, ← dom, ← dom] at hdom
  have hs : (s.formedSlot d f).dom d = _ := setDom_dom_same _ _ _
  rw [hs, ← formedKeys] at hdom
  unfold formDone
  dsimp only
  rw [show ((s.setDom d _).writeRoot (rowDrs d) drs d).deriveOwn d = s.formedKeys d f drs from rfl]
  generalize s.formedKeys d f drs = t at hdom hboot ⊢
  generalize hu : ((t.modDom d _).modDom d _ : State) = u
  have hud : ∃ kl mgr token, u.dom d = { t.dom d with keyList := kl, mgr := mgr, token := token } := by
    rw [← hu, modDom_dom_same, modDom_dom_same]
    exact ⟨_, _, _, rfl⟩
  have hub : u.boot = s.boot := by rw [← hu]; exact hboot
  have huk : u.keys = t.keys := by rw [← hu]; rfl
  have hk := timeMark_keeps (K := 0x100000) (d := d) (Keeps.refl _ u) (by decide)
  have hdoms := hk.doms.resolve_left (by decide)
  obtain ⟨kl, mgr, token, hud⟩ := hud
  rw [hdom] at hud
  have hv : (u.timeMark d).dom d = _ := (show (u.timeMark d).dom d = u.dom d by rw [dom, hdoms, ← dom]).trans hud
  refine ⟨u.timeMark d, agreeDeclared_of_none ?_, (hk.boot.resolve_left (by decide)).trans hub,
    (hk.keys.resolve_left (by decide)).trans huk, ?_⟩
  · rw [dom, (reissueCert_keeps (K := 0x000008) (Keeps.refl _ _) (by decide)).doms.resolve_left (by decide), ← dom, hv]
    exact h
  · rw [hv]
    exact ⟨rfl, rfl, rfl, rfl, rfl⟩

theorem usable_of_keys {s t : State} (h : t.keys = s.keys) : t.idUsable = s.idUsable ∧ t.aliasUsable = s.aliasUsable := by
  simp only [idUsable, aliasUsable, keyUsable, row_of_keys h, and_self]

theorem reissueCert_reissue (s : State) :
    s.reissueCert.boot.reissue = if s.idUsable && s.aliasUsable then s.boot.reissue + 1 else s.boot.reissue := by
  unfold reissueCert
  split <;> rfl

/-- With the identity and the alias keys held still, the certificate is issued anew once. -/
theorem formDone_reissue {s : State} {d : Slot} (f : FormPend) (drs : Bytes) (h : (s.dom d).decls = []) :
    (s.formDone d f drs).boot.reissue =
      if (s.formedKeys d f drs).idUsable && (s.formedKeys d f drs).aliasUsable then s.boot.reissue + 1 else s.boot.reissue := by
  obtain ⟨v, heq, hboot, hkeys, -⟩ := formDone_eq f drs h
  obtain ⟨hid, hal⟩ := usable_of_keys hkeys
  rw [heq, reissueCert_reissue, hid, hal, hboot]

theorem formDone_reissue_of_lost {s : State} {d : Slot} (f : FormPend) (drs : Bytes) (h : (s.dom d).decls = [])
    (hl : (s.formedKeys d f drs).keyUsable 4 = false) : (s.formDone d f drs).boot.reissue = s.boot.reissue := by
  have hid : (s.formedKeys d f drs).idUsable = false := by rw [idUsable, hl, Bool.false_and, Bool.false_and]
  rw [formDone_reissue f drs h, hid, Bool.false_and, if_neg Bool.false_ne_true]

theorem formedKeys_rowsHeld (hd : MemKeyHalvesDiffer) (s : State) (d : Slot) (f : FormPend) (drs : Bytes) :
    RowsHeld s (s.formedKeys d f drs) :=
  (RowsHeld.of_keys (t := s.formedSlot d f) rfl).trans
    ((writeKey_rowsHeld (s.formedSlot d f) _ _ _ _ _ _).trans (deriveOwn_rowsHeld hd _ d))

theorem RowsHeld.usable {s t : State} (h : RowsHeld s t) (hid : s.idUsable = true) (hal : s.aliasUsable = true) :
    (t.idUsable && t.aliasUsable) = true := by
  simp only [idUsable, aliasUsable, keyUsable, Bool.and_eq_true] at hid hal ⊢
  obtain ⟨⟨h4, h5⟩, h6⟩ := hid
  obtain ⟨⟨h7, h8⟩, h9⟩ := hal
  exact ⟨⟨⟨h 4 h4, h 5 h5⟩, h 6 h6⟩, ⟨h 7 h7, h 8 h8⟩, h 9 h9⟩

theorem formDone_reissue_of_halves (hd : MemKeyHalvesDiffer) {s : State} {d : Slot} (f : FormPend) (drs : Bytes)
    (h : (s.dom d).decls = []) (hid : s.idUsable = true) (hal : s.aliasUsable = true) :
    (s.formDone d f drs).boot.reissue = s.boot.reissue + 1 := by
  rw [formDone_reissue f drs h, if_pos ((formedKeys_rowsHeld hd s d f drs).usable hid hal)]

/-- This instance is a member and the active System Manager of epoch 1. -/
theorem formDone_facts {s : State} {d : Slot} (f : FormPend) (drs : Bytes) (h : (s.dom d).decls = []) :
    ((s.formDone d f drs).dom d).phase = .member ∧ ((s.formDone d f drs).dom d).epoch = 1 ∧
    ((s.formDone d f drs).dom d).activeSm = true ∧ ((s.formDone d f drs).dom d).sysManager = f.member ∧
    ((s.formDone d f drs).dom d).record = f.record := by
  obtain ⟨v, heq, -, -, hfacts⟩ := formDone_eq f drs h
  rw [heq, dom, (reissueCert_keeps (K := 0x000008) (Keeps.refl _ v) (by decide)).doms.resolve_left (by decide), ← dom]
  exact hfacts

theorem formFinishDo_of_none {s : State} (h : s.pendingForm = none) (sig : Bytes) (kc : BitVec 128) :
    s.formFinishDo sig kc = (s, stNoTarget, []) := by rw [formFinishDo, h]

theorem formFinishDo_of_pending {s : State} {d : Slot} {f : FormPend} (h : s.pendingForm = some (d, f)) (sig : Bytes)
    (kc : BitVec 128) : s.formFinishDo sig kc =
      let drs := hybrid f.ssKem f.ssEcdh f.th "KX3-DRS" (slice f.record 8 16)
      if sigMsgOk (recVerifierKeys f.record) "KX3-FORM-I" f.th sig && kc == confirmTag drs f.th 1 "KX3-FORM-KC" then
        (s.formDone d f drs, stOk, leBytes 16 (confirmTag drs f.th 2 "KX3-FORM-KC").toNat)
      else (s.freeSlot d, stFormation, []) := by
  rw [formFinishDo, h]

/-! ### JOIN_TICKET and DOMAIN_LEAVE (R371, R375) -/

theorem joinTicketDo_of_reserved {s : State} {d : Slot} {m : BitVec 32} {p : Bytes} (h : 2 ^ 20 ≤ m.toNat) :
    s.joinTicketDo d m p = (s, stReserved) := by
  rw [joinTicketDo, memberField, if_neg (Nat.not_lt.mpr h)]

theorem joinTicketDo_of_member {s : State} {d : Slot} {m : BitVec 32} {p : Bytes} (h : m.toNat < 2 ^ 20) :
    s.joinTicketDo d m p = if (s.dom d).phase ≠ .free then (s, stSlotBusy)
      else (s.modDom d fun k => { k with member := m.setWidth 20, ticket := some (m.setWidth 20, p) }, stOk) := by
  rw [joinTicketDo, memberField, if_pos h]

theorem leaveDo_of_none {s : State} {x : Byte} (h : 8 ≤ x.toNat ∨ (s.dom (x.setWidth 3)).phase = .free) :
    s.leaveDo x = (s, stNoTarget) := if_pos (h.imp_right fun h => by simp [slotHeld, h])

theorem leaveDo_of_held {s : State} {x : Byte} (hx : x.toNat < 8) (h : (s.dom (x.setWidth 3)).phase ≠ .free) :
    s.leaveDo x = (s.forcedExit (x.setWidth 3), stOk) := if_neg (by simp [slotHeld, h, hx])

end State

open State in
/-- O52 holds if no first memory key has equal halves. -/
theorem domainFormation_of_halves (hd : MemKeyHalvesDiffer) : Obligations.DomainFormation := by
  unfold Obligations.DomainFormation
  intro s h d
  refine ⟨fun i code want n hp hlo hhi hw hready hf => ?_, fun m hready hf hgate => ?_, fun sig kc hready hf hgate => ?_,
    fun hrun hp => ⟨exec_next rfl (congrArg settleAll (opFormTimeout_of_forming hrun hp)), freeSlot_phase s d,
      freeSlot_record (by rw [hp]; decide)⟩,
    fun hn => exec_next rfl (congrArg settleAll (opFormTimeout_of_none hn)), fun m p hready hf hgate => ?_,
    fun x hready hf hgate => ?_⟩
  · obtain ⟨len, act, hlen, hends⟩ := exec_domCmd hp hlo hhi s
    have hwn : ∀ k, len = some k → k = n := fun k hk => hw k (hlen k hk)
    refine ⟨fun ht => ?_, fun ht hdebug => ?_⟩
    · rwa [domCmd_of_gate hready hf (joinGate_of_test ht) hwn] at hends
    · rwa [domCmd_of_gate hready hf (joinGate_of_debug ht hdebug) hwn] at hends
  · have hends {u : State} {st : Status} {b : Bytes} (hact : s.formHelloDo m = (u, st, b)) :
        exec (.formHello h m) s = .next (u.mbxReply h 0x0030 st b) :=
      exec_next rfl (domCmd_of_act hready hf hgate (fun _ hk => (Option.some.inj hk).symm) hact)
    refine ⟨fun hp => hends (formHelloDo_of_held hp), fun hp hpool => hends (formHelloDo_of_pool hp hpool), fun hp hpool => ?_⟩
    intro keys
    refine ⟨fun hr => hends (formHelloDo_of_record hp hpool hr), fun hr hform => hends (formHelloDo_of_form hp hpool hr hform),
      fun hr hform hk => hends (formHelloDo_of_keys hp hpool hr hform hk), fun hr hform hk => ?_⟩
    obtain ⟨hid, hal, ho⟩ := hk
    obtain ⟨u, b, hact, hfacts⟩ := formHelloDo_of_passed hp hpool hr hform hid hal ho
    exact ⟨u, b, hends hact, hfacts⟩
  · intro ends
    have hends {u : State} {st : Status} {b : Bytes} (hact : s.formFinishDo sig kc = (u, st, b)) : ends u st b :=
      exec_next rfl (congrArg settleAll (domCmd_of_act hready hf hgate (fun _ hk => (Option.some.inj hk).symm) hact))
    refine ⟨fun hn => hends (formFinishDo_of_none hn sig kc), fun f hpend => ?_⟩
    intro drs holds u
    have hact := formFinishDo_of_pending hpend sig kc
    refine ⟨fun hh => hends (hact.trans (if_neg ?_)), fun hh => hends (hact.trans (if_pos hh)), fun hdecls => ?_⟩
    · show ¬ holds = true
      rw [hh]
      decide
    · have hfacts := formDone_facts f drs hdecls
      have hre := formDone_reissue_of_halves hd f drs hdecls
      have hu : u = s.formDone d f drs := rfl
      rw [← hu] at hfacts hre
      obtain ⟨hphase, hepoch, hsm, hsys, hrec⟩ := hfacts
      exact ⟨hphase, hepoch, hsm, hsys, hrec, hre⟩
  · have hends {u : State} {st : Status} (hact : s.joinTicketDo d m p = (u, st)) :
        exec (.joinTicket h d m p) s = .next (u.mbxReply h 0x0032 st []) :=
      exec_next rfl (domCmd0_of_act hready hf hgate hact)
    exact ⟨fun hm => hends (joinTicketDo_of_reserved hm), fun hm hp => hends ((joinTicketDo_of_member hm).trans (if_pos hp)),
      fun hm hp => hends ((joinTicketDo_of_member hm).trans (if_neg (not_not_intro hp)))⟩
  · have hends {u : State} {st : Status} (hact : s.leaveDo x = (u, st)) :
        exec (.domainLeave h x) s = .next (u.mbxReply h 0x0034 st []).settleAll :=
      exec_next rfl (congrArg settleAll (domCmd0_of_act hready hf hgate hact))
    exact ⟨fun hn => hends (leaveDo_of_none hn), fun hx hp => ⟨_, hends (leaveDo_of_held hx hp), forcedExit_phase hp⟩⟩

/-! ### The other direction: what a key of equal halves would do -/

namespace State

/-- The rows stay canonical, and no row of the instance's identity or alias comes to be held again. -/
structure RowsLost (s t : State) : Prop where
  wf : Tab.wf {} s.keys.rows = true → Tab.wf {} t.keys.rows = true
  lost : Tab.wf {} s.keys.rows = true → ∀ r, r < 10 → (s.row r).valid = false → (t.row r).valid = false

theorem RowsLost.refl (s : State) : RowsLost s s := ⟨id, fun _ _ _ h => h⟩

theorem RowsLost.trans {s t u : State} (h : RowsLost s t) (g : RowsLost t u) : RowsLost s u :=
  ⟨fun w => g.wf (h.wf w), fun w r hr hv => g.lost (h.wf w) r hr (h.lost w r hr hv)⟩

theorem RowsLost.of_rows {s t : State} (h : t.keys.rows = s.keys.rows) : RowsLost s t :=
  ⟨fun w => by rwa [h], fun _ r _ hv => by rwa [row, h, ← row]⟩

theorem RowsLost.foldl {α : Type} {f : State → α → State} (h : ∀ s x, RowsLost s (f s x)) (xs : List α) (s : State) :
    RowsLost s (xs.foldl f s) := by
  induction xs generalizing s with
  | nil => exact .refl s
  | cons x xs ih => exact (h s x).trans (ih _)

theorem setRow_wf {s : State} (w : Tab.wf {} s.keys.rows = true) (r : Nat) (v : KeyRow) :
    Tab.wf {} (s.setRow r v).keys.rows = true := Tab.wf_set {} s.keys.rows r v w

theorem writeKey_rowsLost (s : State) {r : Nat} (hr : 10 ≤ r) (m : BitVec 288) (p : KeyParent) (tense : BitVec 2) (d : Slot)
    (gen : BitVec 32) : RowsLost s (s.writeKey r m p tense d gen) := by
  refine ⟨fun w => ?_, fun _ q hq hv => by rwa [writeKey_row_ne _ (by omega)]⟩
  unfold writeKey
  dsimp only
  split
  · exact w
  · exact setRow_wf w _ _

theorem eraseSubtree_rows (s : State) (p : KeyParent) : (s.eraseSubtree p).keys.rows =
    Tab.mapAll {} (fun _ r => if s.chainReaches p 5 r.parent then blankRow r else r) s.keys.rows := rfl

theorem eraseSubtree_wf {s : State} (w : Tab.wf {} s.keys.rows = true) (p : KeyParent) :
    Tab.wf {} (s.eraseSubtree p).keys.rows = true := by
  rw [eraseSubtree_rows]
  exact Tab.wf_mapAll _ _ _ w

theorem eraseSubtree_row {s : State} (w : Tab.wf {} s.keys.rows = true) (p : KeyParent) (r : Nat) :
    (s.eraseSubtree p).row r = if s.chainReaches p 5 (s.row r).parent then blankRow (s.row r) else s.row r := by
  rw [row, eraseSubtree_rows, get_mapAll_of_wf w (by split <;> rfl), ← row]

theorem keyInvalidateRow_rowsLost (s : State) (r : Nat) : RowsLost s (s.keyInvalidateRow r) := by
  have he : Tab.wf {} s.keys.rows = true → Tab.wf {} (s.eraseRow r).keys.rows = true := fun w => setRow_wf w _ _
  refine ⟨fun w => eraseSubtree_wf (he w) (.row (BitVec.ofNat 12 r)), fun w q _ hv => ?_⟩
  show (((s.eraseRow r).eraseSubtree (.row (BitVec.ofNat 12 r))).row q).valid = false
  rw [eraseSubtree_row (he w)]
  split
  · rfl
  · exact eraseRow_valid s r q (.inr hv)

theorem dropIndexKeys_keys (s : State) (i : KeyIdx) : (s.dropIndexKeys i).keys = (s.keyInvalidateRow (rowIndex i)).keys := by
  unfold dropIndexKeys
  dsimp only
  have hk := Keeps.foldl (k := 0xFFFFBF) (f := fun (t : State) c => t.modChan c fun k =>
    { k with sweepPtr := Tab.set 0 k.sweepPtr i.toNat 0 }) (xs := allChans)
    (Keeps.refl _ ((s.keyInvalidateRow (rowIndex i)).setMemIdx i { (s.keyInvalidateRow (rowIndex i)).memIdx i with
      sweeping := false, urgent := false, futureHeld := false })) fun t c h => modChan_keeps h (by decide)
  exact hk.keys.resolve_left (by decide)

theorem dropIndexKeys_rowsLost (s : State) (i : KeyIdx) : RowsLost s (s.dropIndexKeys i) :=
  (keyInvalidateRow_rowsLost s (rowIndex i)).trans (.of_rows (by rw [dropIndexKeys_keys]))

theorem assignOnce_rowsLost (s : State) (i : KeyIdx) (d : Slot) : RowsLost s (s.assignOnce i d).2 := by
  obtain ⟨t, m, hrow, heq, -⟩ := assignOnce_eq s i d
  rw [heq]
  exact (RowsLost.of_rows hrow).trans (writeKey_rowsLost t (by rw [rowIndex]; omega) _ _ _ _ _)

theorem writeMemKey_rowsLost (s : State) (i : KeyIdx) (fut : Bool) (k : Bytes) (gen : BitVec 32) :
    RowsLost s (s.writeMemKey i fut k gen) :=
  RowsLost.foldl (fun t _ => writeKey_rowsLost t (by rw [rowMemKey]; omega) _ _ _ _ _) _ s

theorem recordedDrop_rowsLost (s : State) (i : KeyIdx) :
    RowsLost s ((s.record recKeyXtsEqual i.toNat).dropIndexKeys i) :=
  (RowsLost.of_rows (s := s) (t := s.record recKeyXtsEqual i.toNat) rfl).trans (dropIndexKeys_rowsLost _ i)

/-- The rows under an index secret go with it. -/
theorem recordedDrop_row {s : State} {i : KeyIdx} (w : Tab.wf {} s.keys.rows = true) {r : Nat} (hr : r < 10)
    (hp : (s.row r).parent = .row (BitVec.ofNat 12 (rowIndex i))) :
    (((s.record recKeyXtsEqual i.toNat).dropIndexKeys i).row r).valid = false := by
  have hlow : 41 ≤ rowIndex i := Nat.le_add_right _ _
  have hrr : ((s.record recKeyXtsEqual i.toNat).eraseRow (rowIndex i)).row r = s.row r := setRow_row_ne _ _ _ _ (by omega)
  rw [row, dropIndexKeys_keys, ← row]
  show ((((s.record recKeyXtsEqual i.toNat).eraseRow (rowIndex i)).eraseSubtree (.row (BitVec.ofNat 12 (rowIndex i)))).row r).valid
    = false
  have we : Tab.wf {} ((s.record recKeyXtsEqual i.toNat).eraseRow (rowIndex i)).keys.rows = true := setRow_wf w _ _
  rw [eraseSubtree_row we, hrr, hp, chainReaches_parent, if_pos rfl]
  rfl

theorem assignSecret_rowsLost (n : Nat) (s : State) (i : KeyIdx) (d : Slot) : RowsLost s (assignSecret n s i d) := by
  induction n generalizing s with
  | zero => exact .refl s
  | succ n ih =>
    rw [assignSecret_succ]
    have ho := assignOnce_rowsLost s i d
    split
    · exact (ho.trans (recordedDrop_rowsLost _ i)).trans (ih _)
    · exact ho.trans (writeMemKey_rowsLost _ _ _ _ _)

/-- Where an index secret's row is out of use and the key under its material has equal halves, a row under it is lost. -/
theorem assignSecret_of_equal {s : State} {i : KeyIdx} (w : Tab.wf {} s.keys.rows = true)
    (ho : (s.row (rowIndex i)).outOfUse = true) (hx : xtsEqual (firstMemKey (s.row (rowIndex i)).material i) = true) (n : Nat)
    (d : Slot) {r : Nat} (hr : r < 10) (hp : (s.row r).parent = .row (BitVec.ofNat 12 (rowIndex i))) :
    ((assignSecret (n + 1) s i d).row r).valid = false := by
  obtain ⟨t, m, hrow, heq, hkey⟩ := assignOnce_eq s i d
  have hrows (q : Nat) : t.row q = s.row q := by rw [row, hrow, ← row]
  have hout : (s.assignOnce i d).2 = t := by rw [heq, writeKey, hrows, if_pos ho]
  rw [hout, hrows] at hkey
  rw [assignSecret_succ, hkey, hx, if_pos rfl, hout]
  have wt := (RowsLost.of_rows hrow).wf w
  exact (assignSecret_rowsLost n _ i d).lost ((recordedDrop_rowsLost t i).wf wt) r hr (recordedDrop_row wt hr (by rw [hrows]; exact hp))

/-- The same of the derivation of a slot whose one index it is. -/
theorem deriveReserved_of_equal {s : State} {i : KeyIdx} {d : Slot} (hi : i ≠ 0) (w : Tab.wf {} s.keys.rows = true)
    (hone : ∀ j, j ≠ i → (s.memIdx j).assigned = false) (ha : (s.memIdx i).assigned = true) (hs : (s.memIdx i).slot = d)
    (hv : (s.row (rowIndex i)).valid = false) (ho : (s.row (rowIndex i)).outOfUse = true)
    (hx : xtsEqual (firstMemKey (s.row (rowIndex i)).material i) = true) {r : Nat} (hr : r < 10)
    (hp : (s.row r).parent = .row (BitVec.ofNat 12 (rowIndex i))) : ((s.deriveReserved d).row r).valid = false := by
  have hmem : ∀ i : KeyIdx, i ≠ 0 → i ∈ keyIdxs := by decide
  obtain ⟨before, after, hsplit⟩ := List.append_of_mem (hmem i hi)
  have hnodup : keyIdxs.Nodup := by decide
  have hnot : ∀ j ∈ before, j ≠ i := fun j hj he => by
    rw [hsplit, List.nodup_append] at hnodup
    exact hnodup.2.2 j hj i List.mem_cons_self he
  have hres : s.indexReserved i = true := by
    rw [indexReserved, keyUsable, ha, hv, bne_iff_ne.mpr hi]
    rfl
  have hbefore : before.foldl (fun (s : State) i =>
      if (s.memIdx i).assigned && (s.memIdx i).slot == d && s.indexReserved i then assignSecret clearTries s i d else s) s = s :=
    foldl_eq_of_fixed fun j hj => if_neg (by rw [hone j (hnot j hj), Bool.false_and, Bool.false_and]; decide)
  have hmine : ((s.memIdx i).assigned && (s.memIdx i).slot == d && s.indexReserved i) = true := by
    rw [ha, hs, hres, beq_self_eq_true]
    rfl
  rw [deriveReserved, hsplit, List.foldl_append, List.foldl_cons, hbefore, if_pos hmine]
  have hfirst := assignSecret_of_equal w ho hx 7 d hr hp
  have hwf := (assignSecret_rowsLost clearTries s i d).wf w
  refine (RowsLost.foldl (fun t j => ?_) after _).lost hwf r hr hfirst
  split
  · exact assignSecret_rowsLost _ _ _ _
  · exact .refl _

theorem hallSecret_of_keys {s : State} {d : Slot} {h : BitVec 3} (hv : s.keyUsable (rowDrs d) = true)
    (ho : (s.row (rowActing d)).outOfUse = false) : ∃ b, s.hallSecret d h = some b := by
  unfold hallSecret
  dsimp only
  split
  · exact ⟨_, rfl⟩
  · rw [hv, ho]
    exact ⟨_, rfl⟩

theorem writeRoot_row_ne (s : State) {r y : Nat} (h : y ≠ r) (bs : Bytes) (d : Slot) : (s.writeRoot r bs d).row y = s.row y :=
  writeKey_row_ne s h _ _ _ _ _

theorem writeRoot_mem (s : State) (r : Nat) (bs : Bytes) (d : Slot) : (s.writeRoot r bs d).mem = s.mem :=
  (writeRoot_keeps (K := 0x000040) (Keeps.refl _ s) (by decide)).mem.resolve_left (by decide)

theorem writeRoot_rowsLost (s : State) {r : Nat} (hr : 10 ≤ r) (bs : Bytes) (d : Slot) : RowsLost s (s.writeRoot r bs d) :=
  writeKey_rowsLost s hr _ _ _ _ _

/-- A slot with its DRS held derives the keys of its memory indices, once its roots are written. -/
theorem deriveOwn_of_drs {s : State} {d : Slot} (hv : s.keyUsable (rowDrs d) = true)
    (ho : (s.row (rowActing d)).outOfUse = false) : ∃ u : State, s.deriveOwn d = u.deriveReserved d ∧ u.mem = s.mem ∧
      RowsLost s u ∧ ∀ r, r < 10 ∨ 41 < r → u.row r = s.row r := by
  have hd := d.isLt
  have hact : 41 < rowActing d := by rw [rowActing]; omega
  unfold deriveOwn
  dsimp only
  rw [hv]
  generalize hc : s.writeRoot (rowDcs d) _ d = c
  have hcr (r : Nat) (h : r ≠ rowDcs d) : c.row r = s.row r := by rw [← hc]; exact writeRoot_row_ne s h _ _
  have hcm : c.mem = s.mem := by rw [← hc]; exact writeRoot_mem _ _ _ _
  have hcl : RowsLost s c := by
    rw [← hc]
    exact writeRoot_rowsLost s (by rw [rowDcs]; omega) _ _
  generalize hh : (if (s.dom d).hallCand then c.writeRoot (rowHall d) _ d else c : State) = a
  have har (r : Nat) (h : r ≠ rowHall d) : a.row r = c.row r := by
    rw [← hh]
    split
    · exact writeRoot_row_ne c h _ _
    · rfl
  have ham : a.mem = c.mem := by
    rw [← hh]
    split
    · exact writeRoot_mem _ _ _ _
    · rfl
  have hal : RowsLost c a := by
    rw [← hh]
    split
    · exact writeRoot_rowsLost c (by rw [rowHall]; omega) _ _
    · exact .refl c
  generalize hb : a.setDom d _ = b
  have hbk : b.keys = a.keys := by rw [← hb]; rfl
  have hbm : b.mem = a.mem := by rw [← hb]; rfl
  have hbr (r : Nat) (h1 : r ≠ rowDcs d) (h2 : r ≠ rowHall d) : b.row r = s.row r := by
    rw [row_of_keys hbk, har r h2, hcr r h1]
  obtain ⟨x, hx⟩ := hallSecret_of_keys (s := b) (d := d) (h := hallOf (s.dom d).member)
    (by rw [keyUsable, hbr _ (by rw [rowDrs, rowDcs]; omega) (by rw [rowDrs, rowHall]; omega)]; exact hv)
    (by rw [hbr _ (by rw [rowDcs]; omega) (by rw [rowHall]; omega)]; exact ho)
  have hm : ∃ z, b.memberSecret d (s.dom d).member b.idDigest = some z := by
    rw [memberSecret, hx]
    exact ⟨_, rfl⟩
  obtain ⟨z, hz⟩ := hm
  rw [hz]
  refine ⟨b.writeRoot (rowMember d) z d, rfl, ?_, ?_, fun r hr => ?_⟩
  · rw [writeRoot_mem, hbm, ham, hcm]
  · exact ((hcl.trans hal).trans (.of_rows (by rw [hbk]))).trans (writeRoot_rowsLost b (by rw [rowMember]; omega) _ _)
  · rw [writeRoot_row_ne b (by rw [rowMember]; omega), hbr r (by rw [rowDcs]; omega) (by rw [rowHall]; omega)]

end State

/-- The keys of the instance, its first one under the secret of a memory index. -/
def keysUnder (i : KeyIdx) : Tab KeyRow :=
  [(4, { valid := true, parent := .row (BitVec.ofNat 12 (State.rowIndex i)) }), (5, { valid := true }), (6, { valid := true }),
    (7, { valid := true }), (8, { valid := true }), (9, { valid := true })]

/-- A block whose slot 0 forms and holds one memory index, the row of its secret out of use with a material in it. -/
def formingUnder (m : BitVec 288) (i : KeyIdx) : State :=
  (({ sys := { phase := .running, refclk := true }
      clk := { enArea := BitVec.allOnes 10, enFn := BitVec.allOnes 256 }
      keys := { rows := keysUnder i }
      doms := [(0, { phase := .forming
                     form := some { th := [], ssKem := [], ssEcdh := [], record := [], member := 0, since := 0 } })]
      fe := { fns := [(0, { phase := .opened, mbx := { reqLen := 4768 } })] } } : State).setMemIdx i
        { assigned := true, slot := 0 }).setRow (State.rowIndex i) { outOfUse := true, material := m }

/-- A FORM_FINISH of the PF. -/
def finishHdr : MbxHdr := { fn := 0, tag := 0, statusField := 0, bodyLen := 4752, reservedZero := true, dmaOk := true }

namespace State

theorem formingUnder_row (m : BitVec 288) (i : KeyIdx) :
    (formingUnder m i).row (rowIndex i) = { outOfUse := true, material := m } := setRow_row_same _ _ _

theorem formingUnder_row_ne (m : BitVec 288) (i : KeyIdx) {r : Nat} (h : r ≠ rowIndex i) :
    (formingUnder m i).row r = Tab.get {} (keysUnder i) r := setRow_row_ne _ _ _ _ h

theorem formingUnder_wf (m : BitVec 288) (i : KeyIdx) : Tab.wf {} (formingUnder m i).keys.rows = true := by
  have h : ∀ i : KeyIdx, Tab.wf {} (keysUnder i) = true := by decide
  exact Tab.wf_set _ _ _ _ (h i)

theorem formingUnder_usable (m : BitVec 288) (i : KeyIdx) :
    (formingUnder m i).idUsable = true ∧ (formingUnder m i).aliasUsable = true := by
  have h41 : 41 ≤ rowIndex i := Nat.le_add_right _ _
  have hr (r : Nat) (h : r < 41) : (formingUnder m i).keyUsable r = (Tab.get {} (keysUnder i) r).valid := by
    rw [keyUsable, formingUnder_row_ne m i (by omega)]
  rw [idUsable, aliasUsable, hr 4 (by decide), hr 5 (by decide), hr 6 (by decide), hr 7 (by decide), hr 8 (by decide), hr 9 (by decide)]
  exact ⟨rfl, rfl⟩

theorem formingUnder_mbxOn (m : BitVec 288) (i : KeyIdx) : (formingUnder m i).mbxOn 0 = true := by
  show (Phase.running == .running && (BitVec.allOnes 10).getLsbD areaMailbox && (BitVec.allOnes 256).getLsbD 0) = true
  decide

/-- Where the key under the material has equal halves, the formation loses the instance's first key. -/
theorem formingUnder_loses {m : BitVec 288} {i : KeyIdx} (hi : i ≠ 0) (hx : xtsEqual (firstMemKey m i) = true) (f : FormPend)
    (drs : Bytes) : ((formingUnder m i).formedKeys 0 f drs).keyUsable 4 = false := by
  have h42 : 41 < rowIndex i := by
    have hne : i.toNat ≠ 0 := fun h => hi (BitVec.eq_of_toNat_eq h)
    rw [rowIndex]
    omega
  have hlt : rowIndex i < 57 := by
    have := i.isLt
    rw [rowIndex]
    omega
  generalize hs : (formingUnder m i).formedSlot 0 f = s
  have hkeys : s.keys = (formingUnder m i).keys := by rw [← hs]; rfl
  have hmem : s.mem = (formingUnder m i).mem := by rw [← hs]; rfl
  have hw := writeRoot_rowsLost s (r := rowDrs 0) (by decide) drs 0
  have hrow (r : Nat) (h : r ≠ rowDrs 0) : (s.writeRoot (rowDrs 0) drs 0).row r = (formingUnder m i).row r := by
    rw [writeRoot_row_ne s h, row_of_keys hkeys]
  have hdrs : (s.writeRoot (rowDrs 0) drs 0).keyUsable (rowDrs 0) = true := by
    have ho : (s.row (rowDrs 0)).outOfUse = false := by
      rw [row_of_keys hkeys, formingUnder_row_ne m i (by rw [show rowDrs 0 = 10 from rfl]; omega)]
      rfl
    rw [keyUsable, writeRoot, writeKey_row_same ho]
  obtain ⟨u, heq, hum, hul, hur⟩ := deriveOwn_of_drs hdrs (by
    rw [hrow _ (by decide), formingUnder_row_ne m i (by rw [show rowActing 0 = 2825 from rfl]; omega)]
    rfl)
  have hwf : Tab.wf {} u.keys.rows = true := hul.wf (hw.wf (by rw [hkeys]; exact formingUnder_wf m i))
  have hidx (j : KeyIdx) : u.memIdx j = (formingUnder m i).memIdx j := by
    rw [memIdx, hum, writeRoot_mem, hmem, ← memIdx]
  have hsame : (formingUnder m i).memIdx i = { assigned := true, slot := 0 } := setMemIdx_memIdx_same _ _ _
  have hindex : u.row (rowIndex i) = { outOfUse := true, material := m } := by
    rw [hur _ (.inr h42), hrow _ (by rw [show rowDrs 0 = 10 from rfl]; omega), formingUnder_row]
  rw [formedKeys, hs, heq, keyUsable]
  refine deriveReserved_of_equal hi hwf (fun j hj => ?_) ?_ ?_ ?_ ?_ ?_ (by decide) ?_
  · rw [hidx]
    exact congrArg MemIndex.assigned (setMemIdx_memIdx_ne _ i _ j hj)
  · rw [hidx, hsame]
  · rw [hidx, hsame]
  · rw [hindex]
  · rw [hindex]
  · rw [hindex]
    exact hx
  · rw [hur _ (.inl (by decide)), hrow _ (by decide), formingUnder_row_ne m i (by omega)]
    rfl

end State

open State in
/-- What O52 turns on. All of it holds but what it says of the certificate, which is issued anew exactly where no key of
KMAC256 under a memory index's secret has equal halves: a key that has would erase the rows under that secret (R243), and in
an arbitrary state the identity's rows may stand there. -/
theorem domainFormation_iff_halves : Obligations.DomainFormation ↔ MemKeyHalvesDiffer := by
  refine ⟨fun h m i hi => ?_, domainFormation_of_halves⟩
  by_contra hx
  rw [Bool.not_eq_false] at hx
  obtain ⟨-, -, finish, -⟩ := h (formingUnder m i) finishHdr 0
  obtain ⟨hid, hal⟩ := formingUnder_usable m i
  obtain ⟨-, pending⟩ := finish [] 0 ⟨⟨formingUnder_mbxOn m i, rfl, .inl rfl⟩, rfl, rfl, rfl, rfl⟩ rfl rfl
  obtain ⟨-, -, formed⟩ := pending _ rfl
  obtain ⟨-, -, -, -, -, again⟩ := formed rfl
  have hre := again hid hal
  rw [formDone_reissue_of_lost _ _ rfl (formingUnder_loses hi hx _ _), show (formingUnder m i).boot.reissue = 0 from rfl] at hre
  exact absurd hre (by decide)

end Sys2Proof.Machine
end
